-- ==== Sys2Proof/Word.lean ====
section
/-! DEFINITION. The widths the spec computes with: a register is 32 bits (R10), memory is addressed in bytes, and the
shape of sparse state: a list of key and value pairs. -/

namespace Sys2Proof

/-- A BAR0 register (R10). -/
abbrev Word := BitVec 32
/-- A byte of memory, of a frame, of a record. -/
abbrev Byte := BitVec 8
/-- A string of bytes, lowest address first. -/
abbrev Bytes := List Byte

/-- A table by number that lists only the entries that differ from what an unlisted number reads as. Its canonical
form is `Sparse.wf` (Machine/Ops.lean): numbers strictly rising, no entry equal to the unlisted value. -/
abbrev Sparse (α : Type) := List (Nat × α)

end Sys2Proof
end

