-- ==== Sys2Proof/Syntax.lean ====
section
/-! DEFINITION. The commands of the block: one constructor of `Instr` per row of the spec's table of operations and
events, with the data the step brings from outside. -/

namespace Sys2Proof

/-- What comes back for one 64-byte unit (R438, R439, R440): read or written as asked; read with one bit corrected,
by the controller (bit 0 to 511 of the unit) or by the DRAM's own code; not correctable. -/
inductive UnitOutcome where
  | ok
  | corrected (bit : Nat)
  | dramCorrected
  | uncorrectable
  deriving DecidableEq, Repr

/-- A parity alert: of the command and address, or of the write data (R440). -/
inductive ParityKind where
  | commandAddress
  | writeData
  deriving DecidableEq, Repr

/-- A host command: its CSEQ, and the management stream it came by (R526), or `none` for the command ring (R455). -/
structure CmdRef where
  cseq : Nat
  stream : Option (Fin 8)
  deriving DecidableEq, Repr

/-- An event as it becomes usable at Cairn: producer, generation, sampling island (R481). -/
structure CairnEvt where
  producer : Fin 224
  gen : Fin 9
  isl : BitVec 8
  deriving DecidableEq, Repr

/-- A failing read of a memory self-test (R506): island, memory, word address, raw bit, expected value, march element,
second background. -/
structure MemFail where
  isl : Nat
  array : Nat
  addr : Nat
  bit : Nat
  expected : Bool
  element : Nat
  second : Bool
  deriving DecidableEq, Repr

/-- A spare found failing when a sub-array is retested through it (R507): a row or a column spare, 0 or 1. -/
structure BadSpare where
  isl : Nat
  array : Nat
  sub : Nat
  column : Bool
  spare : Nat
  deriving DecidableEq, Repr

/-- A failing row of the HBM test (R508): the first unit of the row that failed, and whether the stack could repair the
row. -/
structure HbmRowFail where
  unit : Nat
  repaired : Bool
  deriving DecidableEq, Repr

/-- The kinds of calibrated element (R511). -/
inductive CalKind where
  | clock
  | tap
  | termination
  | follower
  | supply
  | regulator
  | thermal
  deriving DecidableEq, Repr

/-- A measurement of an element (R511, R512): its number, its kind, the lane it belongs to, the code found, and whether
the result lay outside the trim range (the code is then the limit). -/
structure CalResult where
  element : Nat
  kind : CalKind
  lane : Option (Fin 64)
  code : Nat
  outOfRange : Bool
  deriving DecidableEq, Repr

/-- The commands: one constructor per row of the table, in its order. -/
inductive Instr where
  /-- REGISTER_WRITE (R14): A BAR0 write to a register without a row of its own updates its fields under their access codes, mode marks and locks. -/
  | registerWrite (addr : BitVec 26) (width : BitVec 8) (value : Word)
  /-- RC_READ (R11): A read of an RC field returns its value and then clears it. -/
  | rcRead (addr : BitVec 26) (width : BitVec 8)
  /-- PAIR_LO_READ (R13): Reading the LO half of a 64-bit pair latches the HI half for the following read. -/
  | pairLoRead (addr : BitVec 26)
  /-- ACCESS_TIMEOUT (R32): A BAR0 access not completed 1.0 µs after issue is ended at the endpoint and logged. -/
  | accessTimeout (addr : BitVec 26) (write : Bool)
  /-- MAILBOX_APPLY (R20): At its next safe point an agent applies the mailbox entries in arrival order. -/
  | mailboxApply (agent : BitVec 8)
  /-- STEWARD_HEARTBEAT_MISS (R18): The third missed Steward heartbeat in a row makes the Chief controller declare the Steward failed. -/
  | stewardHeartbeatMiss (steward : Fin 4)
  /-- STEWARD_RESTART_DONE (R18): A restarted Steward comes back running from its firmware image. -/
  | stewardRestartDone (steward : Fin 4)
  /-- STEWARD_ANSWER (R22): A Steward answers PREPARE with READY or REFUSE. -/
  | stewardAnswer (steward : Fin 4) (held : Option (BitVec 16))
  /-- JOINT_ANSWER_TIMEOUT (R22): An answer missing 1.0 ms after PREPARE aborts the joint change with TIMEOUT. -/
  | jointAnswerTimeout
  /-- JOINT_TARGET_TIMEOUT (R48): A target line not passed 100 ms after COMMIT is treated as passed and the change is applied. -/
  | jointTargetTimeout
  /-- AGENT_APPLIED (R45): The last agent's report that a mode change is applied makes MODE change at island 0x00. -/
  | agentApplied
  /-- CLOCK_MONITOR_SAMPLE (R27): Every 1.0 ms island 0x08 measures each island clock against XTAL_IN. -/
  | clockMonitorSample (khz : List (BitVec 8 × BitVec 24))
  /-- SET_MODE (R44): The SET_MODE command starts an allowed mode transition or completes with NOT_IN_MODE or BAD_ARG. -/
  | setMode (cmd : CmdRef) (mode : BitVec 8) (stopNow : Bool)
  /-- MODE_DRAIN_DONE (R49): The transition to CONFIGURE completes once the last record, crop and statistics block of the last frame is written. -/
  | modeDrainDone
  /-- DRAIN_CUT (R49): Work still unfinished 100 ms after the change was applied is discarded and counted in DRAIN_LOST. -/
  | drainCut
  /-- PARK (R64): The PARK command leaves the run mode and runs the PARK steps towards quiescence. -/
  | park (cmd : CmdRef)
  /-- PARK_STEP_DONE (R65): A PARK step that took time completes and the next step begins, or PARK completes with DONE after step 7. -/
  | parkStepDone (flashError clears : Bool) (fails : List MemFail) (badSpares : List BadSpare)
  /-- PARK_STATUS (R64): The PARK_STATUS command returns CHIEF_PARK_STAT. -/
  | parkStatus (cmd : CmdRef)
  /-- RESET_DEVICE (R52): The RESET_DEVICE command causes a device reset in any mode. -/
  | resetDevice (cmd : CmdRef)
  /-- POWER_ON_RESET (R552): VIN crossing the standby-on threshold is a POR that reads the fuses and clears retention and the event log. -/
  | powerOnReset (idGood trimGood : Bool)
  /-- STANDBY_OFF (R552): VIN falling below the standby-off threshold loses the standby domain. -/
  | standbyOff
  /-- MAIN_POWER_UP (R553): VIN above main valid with PWR_GOOD high starts the main regulators and the oscillator. -/
  | mainPowerUp
  /-- MAIN_POWER_DOWN (R554): A filtered main-invalid or PWR_GOOD low tristates outputs, squelches lanes and discharges the main rails. -/
  | mainPowerDown
  /-- MAIN_DISCHARGE_DONE (R554): The main rails finish discharging, after which a returned main-valid condition may start step 2 again. -/
  | mainDischargeDone
  /-- RESET_N_FALL (R53): RESET_N going low tristates single-ended outputs and squelches lanes within 100 ns. -/
  | resetNFall
  /-- PIN_RESET (R53): The RESET_N filter confirms a low pulse and a pin reset is taken. -/
  | pinReset
  /-- RESET_N_RISE (R56): RESET_N rising is time 0 of start-up and latches BOOT_SEL after a POR or pin reset. -/
  | resetNRise (bootSel : BitVec 2)
  /-- WATCHDOG_SERVICE (R54): The Chief controller services the hardware watchdog every 10 ms. -/
  | watchdogService
  /-- WATCHDOG_RESET (R54): Three watchdog intervals without service cause a watchdog reset. -/
  | watchdogReset
  /-- HOST_RESET (R452): A PCIe hot reset, link down or FLR ends host traffic, clears ring enables and halts DMA channels. -/
  | hostReset (flr linkDown : Bool)
  /-- STARTUP_PHASE_END (R58): A start-up phase completes and the next phase of the cold or quick timeline begins. -/
  | startupPhaseEnd (clears : Bool) (memFails : List MemFail) (badSpares : List BadSpare) (results : List CalResult) (rowFails : List HbmRowFail) (readBackBad : Bool)
  /-- BOOT_TIMEOUT (R63): READY not reached 4.0 s after RESET_N rising is a failed boot that increments BOOT_FAILS and resets. -/
  | bootTimeout
  /-- LOAD_IMAGE (R89): The LOAD_IMAGE command checks an image in HBM and, as a joint change, applies it at COMMIT. -/
  | loadImage (cmd : CmdRef) (addr : BitVec 64) (len : Word)
  /-- LOAD_IMAGE_DONE (R92): The load completes with DONE once the start mode of the new image is entered. -/
  | loadImageDone
  /-- CLAIM (R85): The CLAIM command claims a resource for the commanding domain, or completes with CONFLICT. -/
  | claim (cmd : CmdRef) (index : BitVec 16) (tag : BitVec 12)
  /-- RELEASE (R86): The RELEASE command releases a resource held by the commanding domain. -/
  | release (cmd : CmdRef) (index : BitVec 16)
  /-- LANE_BLOCK_RX (R100): A 66-bit block arrives on a Uhlus lane and is checked, descrambled and passed to its profile. -/
  | laneBlockRx (lane : Fin 64) (header : BitVec 2) (payload : BitVec 64) (measured : BitVec 64)
  /-- CDR_LOCK (R102): Clock recovery locks and equalisation converges, taking the lane to BLOCK_HUNT. -/
  | cdrLock (lane : Fin 64) (ctle : BitVec 4) (dfe : BitVec 28)
  /-- CDR_LOST (R102): Loss of CDR lock returns the lane to CDR_ACQ. -/
  | cdrLost (lane : Fin 64)
  /-- CDR_ACQ_TIMEOUT (R102): 20 ms in CDR_ACQ without lock restarts acquisition and sets ACQ_RETRY. -/
  | cdrAcqTimeout (lane : Fin 64)
  /-- LANE_RELOCK (R102): A RELOCK write returns the lane to CDR_ACQ. -/
  | laneRelock (lane : Fin 64)
  /-- ALIGN_TX (R103): A transmitter sends an ALIGN marker as block 0 of every 16,384 blocks. -/
  | alignTx (lane : Fin 64) (bip : BitVec 8)
  /-- LANE_TX_DELAY_WRITE (R112): A LANE_TX_DELAY write sets a new BLK for the next ALIGN or starts a TAP slew. -/
  | laneTxDelayWrite (lane : Fin 64) (value : Word)
  /-- TAP_SLEW_STEP (R112): The output phase moves one tap towards the new TAP every 1,024 UI. -/
  | tapSlewStep (lane : Fin 64)
  /-- LANE_PROBE_START (R110): A START write begins a PROBE measurement on a lane whose bond is UP. -/
  | laneProbeStart (lane : Fin 64) (value : Word)
  /-- PROBE_TX (R110): A PROBE block is sent, one every 1,024 blocks, up to COUNT. -/
  | probeTx (lane : Fin 64)
  /-- ECHO_RX (R110): An ECHO block arrives and is matched to its PROBE by PROBE_ID. -/
  | echoRx (lane : Fin 64) (probeId turn : BitVec 16) (taps : Nat)
  /-- PROBE_WINDOW_END (R110): The echo window closes and the measurement ends with PROBE_DONE or PROBE_FAIL. -/
  | probeWindowEnd (lane : Fin 64)
  /-- PROBE_RX (R111): The device answers a received PROBE with an ECHO carrying TURN = 2,640 UI. -/
  | probeRx (lane : Fin 64) (probeId : BitVec 16)
  /-- CREDIT_RX (R115): A CREDIT block updates the sender's cumulative LIMIT for a stream port. -/
  | creditRx (lane : Fin 64) (port : Fin 1024) (limit : BitVec 16)
  /-- CREDIT_TX (R115): A receiver sends CREDIT at each change and at least every 1,024 blocks. -/
  | creditTx (port : Fin 1024)
  /-- MARGIN_START (R116): A START write begins a margin scan with the auxiliary sampler. -/
  | marginStart (lane : Fin 64) (value : Word)
  /-- MARGIN_DONE (R116): A margin scan completes, or aborts when its lane leaves BLOCK_LOCK. -/
  | marginDone (lane : Fin 64) (errors : Nat)
  /-- PRBS_INJECT (R117): An INJECT write inverts one transmitted PRBS bit. -/
  | prbsInject (lane : Fin 64)
  /-- PRBS_CLEAR (R117): A CLEAR write clears the PRBS error and bit counts. -/
  | prbsClear (lane : Fin 64)
  /-- AXIS_FILTERED_CHANGE (R121): An axis input's filtered level changes after N disagreeing samples. -/
  | axisFilteredChange (axis : Fin 8) (levels : BitVec 6)
  /-- AXIS_ARM (R127): An ARM write sets ARMED so the next index resets the count once. -/
  | axisArm (axis : Fin 8)
  /-- SERIAL_FRAME_START (R129): Every PERIOD a serial position frame starts with a falling clock edge. -/
  | serialFrameStart (axis : Fin 8)
  /-- SERIAL_FRAME_DONE (R130): A serial frame completes and is accepted or discarded. -/
  | serialFrameDone (axis : Fin 8) (recovering : Bool) (frame : BitVec 55)
  /-- REEL_MEASUREMENT (R582): A measurement reaching the Reel updates T and V of the tracking loop. -/
  | reelMeasurement
  /-- REEL_STOP_TIMEOUT (R134): No measurement for STOP_TIME puts the loop in STEP. -/
  | reelStopTimeout
  /-- REEL_TICK (R138): A line or shot tick becomes due when the tracked position crosses the next boundary beyond high water. -/
  | reelTick
  /-- REEL_BACKLOG_RELEASE (R140): A backlogged tick is released MIN_PERIOD after the previous tick. -/
  | reelBacklogRelease
  /-- REEL_FORWARD_WRITE (R139): An accepted FORWARD write resets H and W in the new sense and disarms the schedulers. -/
  | reelForwardWrite (forward : Bool)
  /-- REEL_POS_SET (R142): The HI write of REEL_POS_SET loads T and M and disarms the schedulers. -/
  | reelPosSet (hi : Word)
  /-- REEL_ADJUST (R143): A REEL_ADJUST write adds to the pending offset worked into T. -/
  | reelAdjust (offset : Word)
  /-- REEL_CAPTURE (R145): A capture activation records T, time and POS_COUNT into its FIFO. -/
  | reelCapture (unit : Fin 8)
  /-- REEL_CAPTURE_POP (R145): A POP write removes the head entry of a Reel capture FIFO. -/
  | reelCapturePop (unit : Fin 8)
  /-- SCHED_ENABLE (R146): An ENABLE write arms or disarms a position scheduler. -/
  | schedEnable (unit : Fin 8) (ctl : Word)
  /-- SCHED_FIRE (R146): A scheduler fires when u reaches its target at or beyond high water. -/
  | schedFire (unit : Fin 8)
  /-- SCHED_ARM_EVENT (R147): Cairn consumer 88 + i arms scheduler i with REL = 1. -/
  | schedArmEvent (unit : Fin 8) (gen : Fin 8)
  /-- SYNC_SAMPLE_TX (R148): A leader or relaying follower sends a Sync Link sample every SAMPLE_PERIOD. -/
  | syncSampleTx (lane : Fin 8)
  /-- SYNC_SAMPLE_RX (R152): A follower takes a valid Sync Link sample as a measurement. -/
  | syncSampleRx (lane : Fin 8) (sample data1 data2 : BitVec 64) (arrival : BitVec 64)
  /-- FOLLOW_LOST (R153): No valid sample for TIMEOUT periods sets FOLLOW_LOST and starts coasting. -/
  | followLost
  /-- FOLLOW_COAST_END (R153): After COAST_MAX the follower sets V = 0 and enters STEP. -/
  | followCoastEnd
  /-- TIME_INC_WRITE (R159): The HI write of TIME_INC sets the counter increment from the next tick. -/
  | timeIncWrite (hi : Word)
  /-- TIME_SLEW_START (R160): A TIME_SLEW_TICKS write starts a slew. -/
  | timeSlewStart (ticks : Word)
  /-- TIME_SLEW_END (R160): The slew tick count ends and the increment returns to INC. -/
  | timeSlewEnd
  /-- TIME_STEP (R161): The HI write of TIME_STEP steps the counter on the next tick. -/
  | timeStep (hi : Word)
  /-- TIME_BASE_COMMIT (R163): A TIME_BASE_CNT write commits the PTP base. -/
  | timeBaseCommit (cnt : Word)
  /-- BASE_STALE (R164): The PTP base becomes stale 2³¹ ns after CNT. -/
  | baseStale
  /-- COMPARATOR_ARM (R175): An ENABLE write arms a time comparator. -/
  | comparatorArm (unit : Fin 16) (ctl : Word)
  /-- COMPARATOR_FIRE (R175): A comparator fires when the counter reaches its target and raises its producer. -/
  | comparatorFire (unit : Fin 16)
  /-- PULSE_ARM (R178): An ENABLE write arms or stops a pulse generator. -/
  | pulseArm (gen : Fin 4) (ctl : Word)
  /-- PULSE_START (R178): A pulse begins at its start time or next period. -/
  | pulseStart (gen : Fin 4)
  /-- PULSE_END (R178): A pulse ends WIDTH ns after its start. -/
  | pulseEnd (gen : Fin 4)
  /-- PULSE_START_EVENT (R179): Cairn consumer 64 + g starts pulse generator g or overruns. -/
  | pulseStartEvent (gen : Fin 4)
  /-- PULSE_STOP_EVENT (R178): Cairn consumer 68 + g stops the generator at the end of its pulse. -/
  | pulseStopEvent (gen : Fin 4)
  /-- TIME_CAPTURE (R180): A time capture activation records the counter in its FIFO. -/
  | timeCapture (unit : Fin 4)
  /-- TIME_CAPTURE_POP (R180): A POP write removes the head entry of a time capture FIFO. -/
  | timeCapturePop (unit : Fin 4)
  /-- PPS_IN_EDGE (R181): A PPS_IN edge is stamped and held in TIME_PPS_IN. -/
  | ppsInEdge (falling : Bool)
  /-- PPS_OUT_SECOND (R182): PPS_OUT rises at each whole PTP second while the base is fresh. -/
  | ppsOutSecond
  /-- PPS_OUT_WIDTH_END (R182): PPS_OUT falls after WIDTH_MS milliseconds. -/
  | ppsOutWidthEnd
  /-- MAC_FRAME_RX (R167): A received Ethernet frame is filtered, stamped and delivered or taken by the device. -/
  | macFrameRx (port : Fin 16) (frame : Bytes) (fcsGood : Bool) (measured : Int) (fecCorrected fecUncorrected : Nat)
  /-- ETH_LINK_DOWN (R188): An Ethernet link going down resets SENT and LIMIT of its streams. -/
  | ethLinkDown (port : Fin 16)
  /-- MAC_TS_POP (R172): A POP write removes the head of a port's timestamp FIFO. -/
  | macTsPop (port : Fin 16)
  /-- TEMPLATE_VALID (R185): A VALID write checks a header template and makes it usable or sets TEMPLATE_BAD. -/
  | templateValid (template : Fin 16) (ctl : Word)
  /-- STREAM_DATAGRAM_TX (R187): A record stream sends a datagram when it holds MAX_ITEMS items and has credit. -/
  | streamDatagramTx (stream : Fin 256)
  /-- STREAM_FLUSH_TIMEOUT (R187): A stream's oldest item waiting FLUSH_US triggers a datagram. -/
  | streamFlushTimeout (stream : Fin 256)
  /-- CREDIT_DATAGRAM_TX (R188): A receiver sends a credit datagram at each change and at least every 1 ms. -/
  | creditDatagramTx (port : Fin 1024)
  /-- LINE_START_RX (R203): A LINE_START is placed by its extended tag and the line admitted or discarded. -/
  | lineStartRx (port : Fin 12) (sensor depth : Fin 4) (tag : Word)
  /-- LINE_END_RX (R206): A LINE_END completes a burst, which is checked and delivered or marked missing. -/
  | lineEndRx (port : Fin 12) (sensor : Fin 4) (crc : Word) (tagByte : BitVec 8)
  /-- LINE_TIMEOUT (R205): A line whose LINE_END has not arrived by its deadline is marked missing. -/
  | lineTimeout (port : Fin 12) (sensor : Fin 4) (tag : Word)
  /-- FRAME_START_RX (R208): A FRAME_START opens a camera frame with its home frame. -/
  | frameStartRx (port : Fin 12) (sensor : Fin 4) (tag : Word)
  /-- FRAME_END_RX (R208): A FRAME_END is counted in FRAMES_SEEN. -/
  | frameEndRx (port : Fin 12) (sensor : Fin 4) (tag : Word)
  /-- CAM_CTRL_GO (R200): A GO write sends a CAM_CTRL request to a camera sensor. -/
  | camCtrlGo (port : Fin 12) (value : Word)
  /-- CAM_ACK_RX (R201): A matching CAM_ACK completes the camera control request. -/
  | camAckRx (port : Fin 12) (sensor : Fin 4) (write : Bool) (ctag : Fin 32) (result : BitVec 8) (data : Option (Word × Word))
  /-- CAM_CTRL_TIMEOUT (R201): No matching CAM_ACK within 1.0 ms sets RESULT to TIMEOUT. -/
  | camCtrlTimeout (port : Fin 12)
  /-- CAM_STATUS_RX (R202): A CAM_STATUS is kept per sensor and an ALERT rise raises the port producer. -/
  | camStatusRx (port : Fin 12) (sensor : Fin 4) (ready alert : Bool) (seq code : BitVec 16)
  /-- CAM_SILENT (R202): No CAM_STATUS for 100 ms sets SILENT for the sensor. -/
  | camSilent (port : Fin 12) (sensor : Fin 4)
  /-- RATE_MEASURE (R211): Each 1 ms the Headbox measures channel rates and sets RATE_OVER. -/
  | rateMeasure (port : Fin 12)
  /-- CAL_LINE (R221): The Calender turns one Headbox entry into one corrected, resampled output line. -/
  | calLine (channel : Fin 48) (upset : List (Fin 16384))
  /-- CAL_COMMIT (R225): A COMMIT write arms a shadow hand-over. -/
  | calCommit (channel : Fin 48)
  /-- CAL_DISCARD (R226): A DISCARD write copies active values into the shadow and clears SHADOW_PENDING. -/
  | calDiscard (channel : Fin 48)
  /-- CAL_BANK_COPY_DONE (R227): The bank copy completes, SYNCING clears and a waiting hand-over may proceed. -/
  | calBankCopyDone (channel : Fin 48)
  /-- RIDGE_PORT_LINE_ARRIVE (R237): A port line reaches the Ridge hub into the in-line buffer or the frame writer. -/
  | ridgePortLineArrive (port : Fin 12)
  /-- MEM_PATH_BURST (R241): The burst reader fetches a burst of a complete frame into the staging FIFO when room exists. -/
  | memPathBurst (ridge : Fin 6)
  /-- RIDGE_LINE_BOUNDARY (R238): At a stage-graph line boundary the arbiter picks the next line and the nodes process it. -/
  | ridgeLineBoundary (ridge : Fin 6) (mismatch : Bool)
  /-- ROTATION_STEP_START (R244): PERIOD_MS elapsing with a spare ready starts a rotation step with COPY. -/
  | rotationStepStart (ridge : Fin 6)
  /-- ROT_NOW (R244): A ROT_NOW write starts a rotation step. -/
  | rotNow (ridge : Fin 6)
  /-- ROTATION_EVENT (R244): Cairn consumer 112 + k starts a rotation step or overruns. -/
  | rotationEvent (ridge : Fin 6) (gen : Fin 8)
  /-- SPUR_COPY_DONE (R245): The state copy into the spare completes and SHADOW waits for the next line boundary. -/
  | spurCopyDone (ridge : Fin 6)
  /-- SPUR_ISOLATED (R247): Isolation of the relieved Spur completes and its test slice begins. -/
  | spurIsolated (ridge : Fin 6)
  /-- SPUR_SLICE_DONE (R248): A Spur's test slice ends with PASS, FAIL or SKIPPED. -/
  | spurSliceDone (ridge : Fin 6) (limitsHeld : Bool) (signature : BitVec 64)
  /-- SLICE_BUDGET_EXPIRY (R248): The slice budget expires before the pattern count and the result is INCOMPLETE. -/
  | sliceBudgetExpiry (ridge : Fin 6)
  /-- SPUR_REINIT_DONE (R249): Reinitialisation completes and the Spur becomes the spare. -/
  | spurReinitDone (ridge : Fin 6) (verified : Bool)
  /-- COUCH_INTAKE (R293): The Couch takes one item or frame-end marker from a Ridge. -/
  | couchIntake (ridge : Fin 6)
  /-- SEAM_WAIT_TIMEOUT (R299): A group held WAIT_MS is released with SEAM_TIMEOUT. -/
  | seamWaitTimeout (port : Fin 12) (seq : Word)
  /-- CLASSIFY_DONE (R305): The forest finishes classifying a unit. -/
  | classifyDone
  /-- MARKER_FIRE_SEEN (R315): The Couch sees its scheduler fire and loads the next target. -/
  | markerFireSeen (unit : Fin 4)
  /-- STATS_BLOCK (R320): A statistics block for a channel's frame enters the statistics FIFO. -/
  | statsBlock (channel : Fin 48)
  /-- STATS_ARM (R320): Cairn consumer 118 or 119 arms a statistics group. -/
  | statsArm (group : Fin 2)
  /-- LAYOUT_SUBMIT (R325): A LAYOUT_SUBMIT_TAG write submits a host job to the queue or posts BUSY. -/
  | layoutSubmit (tag : Word)
  /-- LAYOUT_STAGED_ENQUEUE (R329): A complete network job waiting in staging enters the queue once an entry frees. -/
  | layoutStagedEnqueue
  /-- LAYOUT_JOB_START (R332): The ingress takes the next job and runs its header, order and key checks. -/
  | layoutJobStart
  /-- LAYOUT_DECRYPT_START (R333): A job with free output space starts decryption and decompression. -/
  | layoutDecryptStart
  /-- LAYOUT_JOB_VERIFIED (R333): Tag verification and decompression complete and the job is VERIFIED or fails. -/
  | layoutJobVerified
  /-- LAYOUT_RESULT_POP (R335): A POP write removes the head result. -/
  | layoutResultPop
  /-- STRIPE_RESET (R331): A STRIPE_RESET write makes the next job start a stripe. -/
  | stripeReset
  /-- MOULD_BAND_START (R343): The Mould starts a band once a slot is free and its job VERIFIED or failed. -/
  | mouldBandStart
  /-- MOULD_BAND_DONE (R342): The Mould finishes rasterizing a band or fails it as malformed. -/
  | mouldBandDone
  /-- WM_BAND_CHECK (R347): The Watermark's band CRC-64 is final and compared with the job's entry. -/
  | wmBandCheck (band : Word)
  /-- WM_RELEASE_START (R349): A PASSED band's window opens and its lines start into the Vat. -/
  | wmReleaseStart (band : Word)
  /-- WM_BAND_RELEASED (R349): A band's last line is in the Vat and it is RELEASED. -/
  | wmBandReleased (band : Word)
  /-- WM_BAND_DEADLINE (R350): A band not PASSED at its deadline is LATE. -/
  | wmBandDeadline (band : Word)
  /-- LAID_ARM (R357): An ARM write arms a stripe or is refused. -/
  | laidArm
  /-- LAID_ARM_EVENT (R357): Cairn consumer 128 acts as an ARM write. -/
  | laidArmEvent (gen : Fin 8)
  /-- LAID_DISARM (R358): A DISARM write cancels an armed stripe before its hand-over. -/
  | laidDisarm
  /-- LAID_SHOT_TICK (R367): A Reel shot tick at slice 0 sends a SHOT and may be a line boundary event. -/
  | laidShotTick (corrected : Nat) (failed : List (Word × Fin 576)) (crcBad : List (Fin 48))
  /-- WARN_ARRIVE (R377): WARN reaching island 0x90 stops line release. -/
  | warnArrive
  /-- CRIT_ARRIVE (R378): CRIT reaching island 0x90 withholds every further SHOT. -/
  | critArrive
  /-- INTERLOCK (R378): Cairn consumer 129 blanks immediately with cause INTERLOCK. -/
  | interlock (gen : Fin 8)
  /-- DRV_STATUS_RX (R376): A DRV_STATUS arrives with flags and temperature. -/
  | drvStatusRx (channel : Fin 48) (seq : BitVec 16) (flags temp : BitVec 8) (line : BitVec 16)
  /-- DRV_STATUS_TIMEOUT (R375): No valid DRV_STATUS for 16 µs makes the channel LOST. -/
  | drvStatusTimeout (channel : Fin 48)
  /-- SCREE_DCTL_GO (R389): A GO write requests a DRV_CTRL exchange with a driver. -/
  | screeDctlGo (value : Word)
  /-- DRV_CTRL_SEND (R389): A waiting DRV_CTRL is sent once no stripe runs. -/
  | drvCtrlSend
  /-- DRV_ACK_RX (R389): A matching DRV_ACK completes the driver request. -/
  | drvAckRx (channel : Fin 48)
  /-- DRV_CTRL_TIMEOUT (R389): No DRV_ACK within 1.0 ms sets RESULT to TIMEOUT. -/
  | drvCtrlTimeout (channel : Fin 48) (start : Bool)
  /-- MEAS_CYCLE_START (R392): The measurement window opens and a cycle starts. -/
  | measCycleStart
  /-- MEAS_NOW (R392): A MEAS_NOW write starts a measurement cycle. -/
  | measNow
  /-- MEAS_EVENT (R392): Cairn consumer 132 starts a measurement cycle. -/
  | measEvent (gen : Fin 8)
  /-- MEAS_DEFER_EXPIRY (R390): MAX_DEFER_US expires and MEAS_START is sent. -/
  | measDeferExpiry (channel : Fin 48)
  /-- IDLE_MEAS_RX (R394): An IDLE_MEAS message is taken and its values checked. -/
  | idleMeasRx (channel : Fin 48)
  /-- MEAS_CYCLE_COMPLETE (R393): All messages arrived and the cycle completes. -/
  | measCycleComplete
  /-- MEAS_TIMEOUT (R393): TIMEOUT_US ends a measurement cycle. -/
  | measTimeout
  /-- TABLE_REBUILD_DONE (R398): Changed columns are rebuilt and committed unless degraded. -/
  | tableRebuildDone
  /-- SCREE_COMMIT (R400): A COMMIT write sets COMMIT_PENDING. -/
  | screeCommit
  /-- SCREE_COMMIT_EVENT (R400): Cairn consumer 133 commits the inactive bank. -/
  | screeCommitEvent
  /-- SCREE_COPY_DONE (R401): The post-exchange bank copy completes and SYNCING clears. -/
  | screeCopyDone
  /-- SCREE_WARN_CLEAR (R404): WARN clears after CLEAR_MS below the hysteresis. -/
  | screeWarnClear
  /-- CRIT_CLEAR (R404): A CRIT_LATCHED write clears CRIT when conditions hold. -/
  | critClear
  /-- REAM_JOB_START (R407): An engine takes its next job at a job boundary. -/
  | reamJobStart (engine : Fin 4)
  /-- REAM_RING_TAIL (R426): A TAIL write posts host descriptors or is refused. -/
  | reamRingTail (engine : Fin 4) (tail : Word)
  /-- REAM_RING_SIZE (R426): A RING_SIZE write resets TAIL, HEAD and DONE. -/
  | reamRingSize (engine : Fin 4) (size : Word)
  /-- REAM_HOST_OVERDUE (R407): HOST_DEFER_US expires and the host job becomes overdue. -/
  | reamHostOverdue (engine : Fin 4)
  /-- REAM_HOLD_RELEASE (R426): Cairn consumer 96 + e releases the HOLD descriptor. -/
  | reamHoldRelease (engine : Fin 4) (gen : Fin 8)
  /-- REAM_JOB_DONE (R411): A job ends and its result is written. -/
  | reamJobDone (engine : Fin 4) (echoDiff : Option Word)
  /-- HBM_REQUEST (R435): A request arrives at a pseudo-channel queue. -/
  | hbmRequest (port : Fin 19) (addr : Nat) (write : Bool) (data : Bytes) (len : Nat)
  /-- HBM_RESPONSE (R438): A read returns data or a write its response. -/
  | hbmResponse (pc : Fin 64) (outcome : UnitOutcome)
  /-- HBM_PARITY_ALERT (R440): A parity alert replays the affected commands once. -/
  | hbmParityAlert (pc : Fin 64) (kind : ParityKind)
  /-- HBM_SCRUB_ROW (R442): Patrol scrub reads one row and writes back corrections. -/
  | hbmScrubRow (pc : Fin 64) (found : List (Nat × UnitOutcome))
  /-- SCRUB_DEFER_EXPIRY (R442): SCRUB_DEFER_US expires and scrub takes its guaranteed slot. -/
  | scrubDeferExpiry (pc : Fin 64)
  /-- HBM_TEMP_READ (R443): Every 1 ms the stack temperatures set the refresh rate. -/
  | hbmTempRead (stack0 stack1 : BitVec 8)
  /-- HBM_REFRESH (R443): A per-bank refresh falls due and is issued or postponed. -/
  | hbmRefresh (pc : Fin 64) (bank : Fin 48)
  /-- SR_IDLE_EXPIRY (R444): An idle pseudo-channel enters self-refresh. -/
  | srIdleExpiry (pc : Fin 64)
  /-- SR_EXIT_DONE (R446): The exit check read returns and the pseudo-channel is ACTIVE. -/
  | srExitDone (pc : Fin 64)
  /-- SR_EXIT_TIMEOUT (R446): No check return 10 µs after SRX retries exit or marks DOWN. -/
  | srExitTimeout (pc : Fin 64)
  /-- BAR2_ACCESS (R431): A BAR2 read or write reaches HBM or is refused. -/
  | bar2Access (offset : BitVec 36) (write : Bool) (data : Bytes) (len : Nat)
  /-- HBM_SET_SPEED (R448): The HBM_SET_SPEED command switches the speed point. -/
  | hbmSetSpeed (cmd : CmdRef) (speed : BitVec 8)
  /-- HBM_RETRAIN (R448): The HBM_RETRAIN command retrains the point in use. -/
  | hbmRetrain (cmd : CmdRef)
  /-- HBM_SET_POLICY (R444): The HBM_SET_POLICY command sets the self-refresh policy. -/
  | hbmSetPolicy (cmd : CmdRef) (policy : BitVec 8) (idleUs : BitVec 16)
  /-- HOST_CMD_TAIL (R453): A TAIL write posts command entries or sets TAIL_ERR. -/
  | hostCmdTail (tail : Word)
  /-- CMD_EN_SET (R453): Setting CMD_EN restarts the command ring empty. -/
  | cmdEnSet
  /-- CMD_FETCH (R455): The device fetches and checks a command entry. -/
  | cmdFetch
  /-- NOP (R457): The NOP command completes DONE. -/
  | nop (cmd : CmdRef)
  /-- CMD_COMPLETE (R458): A controller report writes a completion entry. -/
  | cmdComplete (cmd : CmdRef)
  /-- CMD_LIMIT_TIMEOUT (R457): A command not reported within its limit completes with TIMEOUT. -/
  | cmdLimitTimeout (cmd : CmdRef)
  /-- RING_ENABLE (R460): Setting EN resets PROD and CONS of a ring. -/
  | ringEnable (ring : Fin 6)
  /-- RING_CONS_WRITE (R461): A CONS write frees ring space or sets CONS_ERR. -/
  | ringConsWrite (ring : Fin 6) (cons : Word)
  /-- RING_ENTRY_WRITE (R462): An output ring entry is written and PROD written back. -/
  | ringEntryWrite (ring : Fin 6)
  /-- RING_MOD_TIMEOUT (R480): MOD_US expires and the ring vector is signalled. -/
  | ringModTimeout (vector : Fin 64)
  /-- HOST_TX_TAIL (R465): A TX_TAIL write posts transmit entries. -/
  | hostTxTail (tail : Word)
  /-- TX_FRAME_SEND (R465): A transmit ring frame is sent and TX_HEAD advances. -/
  | txFrameSend (measured : Int)
  /-- DIGEST_SNAP (R468): A SNAP write starts a state snapshot. -/
  | digestSnap
  /-- DIGEST_DONE (R468): The snapshot completes and DONE is set. -/
  | digestDone
  /-- DMA_START (R469): A START write starts a DMA chain. -/
  | dmaStart (ch : Fin 32)
  /-- DMA_START_EVENT (R477): Cairn consumer 32 + i starts or releases a DMA channel. -/
  | dmaStartEvent (ch : Fin 32) (gen : Fin 8)
  /-- DMA_ABORT (R477): An ABORT write halts a DMA channel. -/
  | dmaAbort (ch : Fin 32)
  /-- DMA_DESC_FETCH (R471): A fetched descriptor is checked and its transfer begins. -/
  | dmaDescFetch (ch : Fin 32) (data : Bytes)
  /-- DMA_DESC_COMPLETE (R474): A descriptor completes, writes back and fetches NEXT. -/
  | dmaDescComplete (ch : Fin 32)
  /-- DMA_BUS_ERROR (R476): A PCIe completion error or timeout halts the channel. -/
  | dmaBusError (ch : Fin 32)
  /-- D3HOT_ENTRY (R451): In D3hot the endpoint answers only configuration requests. -/
  | d3hotEntry
  /-- CAIRN_EVENT (R481): Cairn evaluates an event and activates enabled consumers. -/
  | cairnEvent (events : List CairnEvt)
  /-- CAIRN_OVERRUN_REPORT (R488): A busy consumer's overrun is recorded at Cairn. -/
  | cairnOverrunReport (consumer : Fin 160) (isl : BitVec 8)
  /-- CAIRN_ENABLE_WRITE (R491): A matrix enable write takes effect under ownership rules. -/
  | cairnEnableWrite (domain : Fin 16) (secure : Bool) (column : Fin 160) (word : Fin 8) (value : Word)
  /-- CAIRN_IRQ_CONSUMER (R483): An activation of an MSI-X or controller input consumer. -/
  | cairnIrqConsumer (consumer : Fin 160)
  /-- EVIO_INPUT_EDGE (R493): A filtered EVIO input edge raises its producer. -/
  | evioInputEdge (pin : Fin 32) (level : Bool)
  /-- EVIO_OUT_ACTIVATE (R494): An EVIO output consumer acts by MODE. -/
  | evioOutActivate (pin : Fin 32)
  /-- EVIO_PULSE_END (R494): An EVIO pulse ends after WIDTH_NS. -/
  | evioPulseEnd (pin : Fin 32)
  /-- TEST_LOGIC (R515): The TEST_LOGIC command runs logic self-test. -/
  | testLogic (cmd : CmdRef) (island patterns slices budget : BitVec 8) (clears : Bool)
  /-- TEST_MEMORY (R515): The TEST_MEMORY command runs memory self-test. -/
  | testMemory (cmd : CmdRef) (island : BitVec 8) (clears : Bool) (fails : List MemFail) (badSpares : List BadSpare)
  /-- TEST_HBM (R515): The TEST_HBM command tests the HBM. -/
  | testHbm (cmd : CmdRef) (fails : List HbmRowFail)
  /-- CALIBRATE (R515): The CALIBRATE command calibrates all elements. -/
  | calibrate (cmd : CmdRef) (results : List CalResult)
  /-- CAL_SET (R515): The CAL_SET command sets RECAL_S. -/
  | calSet (cmd : CmdRef) (seconds : BitVec 16)
  /-- THERM_SET (R515): The THERM_SET command sets ALERT_C and HYST. -/
  | thermSet (cmd : CmdRef) (alertC hyst : BitVec 8)
  /-- TEST_LOG_CLEAR (R515): The TEST_LOG_CLEAR command empties the fail log. -/
  | testLogClear (cmd : CmdRef)
  /-- LOGIC_SLICE_DONE (R499): A logic test slice completes with a result. -/
  | logicSliceDone (island : BitVec 8) (limitsGood : Bool) (signature : BitVec 64)
  /-- LOGIC_SLICE_BUDGET (R499): A slice budget expiry makes the slice INCOMPLETE. -/
  | logicSliceBudget (island : BitVec 8) (signature : BitVec 64)
  /-- JTAG_INSTRUCTION (R504): A JTAG instruction giving scan access clears secrets first. -/
  | jtagInstruction (scan clears07 clears88 : Bool)
  /-- RECAL_TIMER (R513): Every RECAL_S seconds each element is remeasured. -/
  | recalTimer (results : List CalResult)
  /-- RECAL_DEFER_EXPIRY (R513): A converter measurement takes its guaranteed slot after 20 ms. -/
  | recalDeferExpiry (results : List CalResult)
  /-- THERMAL_SAMPLE (R514): Every 1 ms the thermal sensors are sampled. -/
  | thermalSample (temps : List (Option (BitVec 10)))
  /-- SUPPLY_SAMPLE (R574): Every 1 ms the supply monitor samples VIN and power. -/
  | supplySample (vinMv power : BitVec 16)
  /-- UPDATE_BEGIN (R523): The UPDATE_BEGIN command opens an update session. -/
  | updateBegin (cmd : CmdRef) (addr : BitVec 64) (len : Word)
  /-- UPDATE_STATUS (R542): The UPDATE_STATUS command returns update state. -/
  | updateStatus (cmd : CmdRef)
  /-- UPDATE_DATA (R526): The UPDATE_DATA command delivers package bytes. -/
  | updateData (cmd : CmdRef) (offset : Word) (data : Bytes)
  /-- UPDATE_ABORT (R522): The UPDATE_ABORT command ends the session. -/
  | updateAbort (cmd : CmdRef)
  /-- UPDATE_ACTIVATE (R527): The UPDATE_ACTIVATE command activates the staged bank. -/
  | updateActivate (cmd : CmdRef)
  /-- UPDATE_STAGED (R524): Staging completes and the session is STAGED. -/
  | updateStaged (flashError : Option (Fin 7)) (misread : Option (Fin 6))
  /-- UPDATE_DATA_TIMEOUT (R525): No UPDATE_DATA within 10 s ends the session. -/
  | updateDataTimeout
  /-- UPDATE_STAGE_TIMEOUT (R525): STAGED for 600 s without ACTIVATE ends the session. -/
  | updateStageTimeout
  /-- ACTIVATION_DONE (R528): Activation completes and held commands are released. -/
  | activationDone
  /-- KEY_LOAD (R538): The KEY_LOAD command loads or erases a key slot. -/
  | keyLoad (cmd : CmdRef) (addr : BitVec 64)
  /-- KEY_STATUS (R542): The KEY_STATUS command returns slot kinds. -/
  | keyStatus (cmd : CmdRef)
  /-- ATTEST (R539): The ATTEST command writes a signed statement. -/
  | attest (cmd : CmdRef) (nonce output : BitVec 64) (which : BitVec 8)
  /-- FUSE_SET (R540): The FUSE_SET command blows security fuses. -/
  | fuseSet (cmd : CmdRef) (id arg authSlot : BitVec 8) (sig : BitVec 64)
  /-- MGMT_HELLO (R526): The MGMT_HELLO command opens a management stream. -/
  | mgmtHello (cmd : CmdRef) (slot : BitVec 8)
  /-- CAIRN_SECURE (R541): The CAIRN_SECURE command writes a secure column word. -/
  | cairnSecure (cmd : CmdRef) (column word : BitVec 8) (value : Word)
  /-- KEYSLOT_RESTORE (R537): Key slots are restored from flash after clearing. -/
  | keyslotRestore (failed : List (Fin 16))
  /-- SMBUS_STATUS_READ (R534): SMBus block read 0x10 returns status registers. -/
  | smbusStatusRead (port : Fin 2)
  /-- SMBUS_POWER_READ (R535): SMBus block read 0x11 returns power and temperature. -/
  | smbusPowerRead (port : Fin 2)
  /-- SMBUS_RESET (R534): SMBus write 0xA5 to 0x7F acts as RESET_DEVICE. -/
  | smbusReset (port : Fin 2)
  /-- EVENT_LOG_ENTRY (R546): An event-log entry reaches island 0x08 and is written or lost. -/
  | eventLogEntry
  /-- REFCLK_CHANGE (R96): The quad agent's measurement of a reference clock pair against XTAL_IN changes REFCLK_OK, squelching the quad's transmitters and holding its lanes in OFF, or letting them leave OFF. -/
  | refclkChange (quad : Fin 16) (ok : Bool)
  /-- PRBS_CHECK (R117): Received PRBS bits reach the lane's checker, which gains synchronisation after 64 error-free bits, loses it after 32 errors in 64 bits, and counts bits and errors. -/
  | prbsCheck (lane : Fin 64) (errors : List Bool)
  /-- ETH_LINK_UP (R166): An Ethernet port's PCS aligns after auto-negotiation or training and its link comes up, setting LINK_UP, AN_DONE and FEC_ON. -/
  | ethLinkUp (port : Fin 16)
  /-- PCIE_LINK_UP (R450): PCIe link training completes and the data link layer becomes active, setting LINK_UP, GEN and WIDTH. -/
  | pcieLinkUp (gen width : BitVec 4)
  /-- D0_RETURN (R451): A configuration write returns the function from D3hot to D0, after which held ring entries may be written again. -/
  | d0Return
  /-- FLR_COMPLETE (R452): A Function Level Reset completes, within 100 ms of its start, and the function answers again. -/
  | flrComplete
  /-- HBM_COMMAND_SLOT (R436): At each command slot a pseudo-channel picks a queued request by urgency, open-row hit and rotating bank, runs write drains and IN_ORDER, and counts LATE when a request reaches urgency 3. -/
  | hbmCommandSlot (pc : Fin 64)
  /-- PCIE_COMPLETION_RX (R472): A successful PCIe read completion for a DMA data read or zero-length read reaches the endpoint, and its bytes are written on towards HBM or make host writes complete. -/
  | pcieCompletionRx (ch : Fin 32) (data : Bytes)
  /-- DMA_PIECE (R478): The DMA engine serves its next 4 KiB piece to the highest-ranking requester: the completion ring, the other rings and crop channel, then PRIO 1, then PRIO 0 channels. -/
  | dmaPiece
  /-- DMA_PIECE_DEFER_EXPIRY (R478): A PRIO 0 channel that has waited 100 µs for a piece takes one guaranteed piece. -/
  | dmaPieceDeferExpiry (ch : Fin 32)
  /-- RECOVERY_READY (R578): The HBM initialisation of RECOVERY completes, READY becomes 1 and the command ring is fetched, no later than 900 ms after time 0. -/
  | recoveryReady
  /-- DEVICE_RESET (R52): The device reset ordered by RESET_DEVICE, by the SMBus reset command or by an activation in RECOVERY takes effect, up to 1 ms or 10 ms after the order. -/
  | deviceReset
  /-- INTERVAL_OSCILLATOR_DRIFT (R447): A pseudo-channel's temperature and voltage drift leaves the range of the DRAM's interval oscillator and sets RETRAIN_NEEDED. -/
  | intervalOscillatorDrift (pc : Fin 64)
  deriving DecidableEq, Repr

end Sys2Proof
end

