-- ==== Sys2Proof/Config.lean ====
section
/-! DEFINITION. What the spec fixes for every part, and the values it leaves open. A value the spec leaves open is an
opaque constant here: nothing in Lean can evaluate it, so every statement holds whatever it is. -/

namespace Sys2Proof.Config

/-- BAR0 is 64 MiB (R36). -/
def bar0Bytes : Nat := 0x4000000

/-- Max_Payload_Size and Max_Read_Request_Size of the function in bytes (R450): PCIe 5.0's values after its reset. -/
def maxPayload : Nat := 128
def maxReadRequest : Nat := 512

/-- HBM is 48 GiB (R429). -/
def hbmBytes : Nat := 0xC00000000

/-- FREE VALUE. The `n`-th value drawn where the spec leaves a result open after a step that goes on. -/
opaque freeValue : Nat → Nat

/-- FREE VALUE. Elvern's public key for firmware (R520): its SHA-384 is fixed in the ROM and the spec does not give it. -/
opaque firmwareKey : Nat

/-- FREE VALUE. The bits drawn from the device secret for its P-384 keys (R539), which no one can read: 0 attestation,
1 transport. -/
opaque deviceBits : (which : Nat) → Nat

/-- FREE VALUE. The bytes a DEFLATE compressor writes for an input (R420): the spec fixes that they decode to the
input and leaves their choice open. -/
opaque deflateBytes : (level : Nat) → Bytes → Bytes

/-- FREE VALUE. The signature a good island gives for a test slice (R499): island, slice number, log2 of the pattern
count. -/
opaque testSignature : (island slice patterns : Nat) → Nat

/-- FREE VALUE. Where the block slots of a lane lie against the time counter, in taps (R108): no rule relates the two. -/
opaque slotPhase : (lane : Nat) → Nat

end Sys2Proof.Config
end

