-- ==== Sys2Proof/Machine/Bits.lean ====
section
/-! DEFINITION. Number and byte layouts used by every chapter: signed and saturating numbers, little-endian and
big-endian byte strings, bit fields, and the check codes CRC-8, CRC-16, CRC-32C, CRC-64, the serial CRC-6 and
Adler-32 as the chapters give them. -/

namespace Sys2Proof.Machine

/-- The field `[lo + w - 1 : lo]` of a number. -/
def bits (n lo w : Nat) : Nat := n / 2 ^ lo % 2 ^ w

/-- Bit `i` of a number. -/
def bit (n i : Nat) : Bool := n / 2 ^ i % 2 == 1

/-- 1 for true, 0 for false. -/
def b2n (b : Bool) : Nat := if b then 1 else 0

/-- The signed value of the low `w` bits of `n` (two's complement). -/
def signed (w n : Nat) : Int :=
  let m := n % 2 ^ w
  if m < 2 ^ (w - 1) then (m : Int) else (m : Int) - (2 ^ w : Nat)

/-- The `w`-bit two's complement pattern of an integer. -/
def unsigned (w : Nat) (i : Int) : Nat := (i % (2 ^ w : Nat)).toNat

/-- `i` limited to the range from `lo` to `hi`. -/
def clampInt (lo hi i : Int) : Int := if i < lo then lo else if hi < i then hi else i

/-- `n` limited to the range from `lo` to `hi`. -/
def clampNat (lo hi n : Nat) : Nat := if n < lo then lo else if hi < n then hi else n

/-- A sum that stops at the largest value of `w` bits (R9, R544). -/
def satAdd (w a b : Nat) : Nat := min (a + b) (2 ^ w - 1)

/-- Division rounded towards minus infinity. -/
def floorDiv (a b : Int) : Int := Int.fdiv a b

/-- An arithmetic right shift of an integer. -/
def asr (a : Int) (k : Nat) : Int := Int.fdiv a ((2 ^ k : Nat) : Int)

/-- The value of a byte string, lowest byte first. -/
def leNat : Bytes → Nat
  | [] => 0
  | b :: t => b.toNat + 256 * leNat t

/-- `k` bytes of a number, lowest byte first. -/
def leBytes : Nat → Nat → Bytes
  | 0, _ => []
  | k + 1, n => BitVec.ofNat 8 n :: leBytes k (n / 256)

/-- The value of a byte string, highest byte first. -/
def beNat (bs : Bytes) : Nat := bs.foldl (fun a b => a * 256 + b.toNat) 0

/-- `k` bytes of a number, highest byte first. -/
def beBytes (k n : Nat) : Bytes := (leBytes k n).reverse

/-- The little-endian number of `len` bytes from offset `off`; bytes past the end read as absent (0). -/
def leAt (bs : Bytes) (off len : Nat) : Nat := leNat ((bs.drop off).take len)

/-- The big-endian number of `len` bytes from offset `off`. -/
def beAt (bs : Bytes) (off len : Nat) : Nat := beNat ((bs.drop off).take len)

/-- `len` bytes from offset `off`. -/
def sub (bs : Bytes) (off len : Nat) : Bytes := (bs.drop off).take len

/-- `k` zero bytes. -/
def zeros (k : Nat) : Bytes := List.replicate k 0

/-- Bytes from numbers below 256. -/
def ofNats (l : List Nat) : Bytes := l.map (BitVec.ofNat 8)

/-- The number of 1 bits among the low `w` bits. -/
def popcount : Nat → Nat → Nat
  | 0, _ => 0
  | w + 1, n => n % 2 + popcount w (n / 2)

/-- The `w` low bits of `n` in reverse order. -/
def reverseBits : Nat → Nat → Nat
  | 0, _ => 0
  | w + 1, n => n % 2 * 2 ^ w + reverseBits w (n / 2)

/-- One bit of a CRC of width `w` that shifts left (most significant bit first). -/
def crcStepL (w poly : Nat) (c : Nat) (b : Nat) : Nat :=
  let top := (c / 2 ^ (w - 1) + b) % 2
  let s := c * 2 % 2 ^ w
  if top = 1 then s ^^^ poly else s

/-- A byte, most significant bit first, through a left-shifting CRC. -/
def crcByteL (w poly : Nat) (c : Nat) (b : Byte) : Nat :=
  [7, 6, 5, 4, 3, 2, 1, 0].foldl (fun c i => crcStepL w poly c (b.toNat / 2 ^ i % 2)) c

/-- A CRC that shifts left over a byte string. -/
def crcL (w poly init : Nat) (bs : Bytes) : Nat := bs.foldl (crcByteL w poly) init

/-- One bit of a CRC that shifts right (least significant bit first), `poly` reflected. -/
def crcStepR (poly : Nat) (c : Nat) (b : Nat) : Nat :=
  let low := (c + b) % 2
  let s := c / 2
  if low = 1 then s ^^^ poly else s

/-- A byte, least significant bit first, through a right-shifting CRC. -/
def crcByteR (poly : Nat) (c : Nat) (b : Byte) : Nat :=
  [0, 1, 2, 3, 4, 5, 6, 7].foldl (fun c i => crcStepR poly c (b.toNat / 2 ^ i % 2)) c

end Sys2Proof.Machine
end

