-- ==== Sys2Proof/Machine/Crypto.lean ====
section
/-! DEFINITION. The cryptographic functions the spec names by their standards: SHA-384 (FIPS 180-4), HMAC, AES-256
(FIPS 197), its key wrap (RFC 3394) and its Galois/counter mode (NIST SP 800-38D), and the curve P-384 with ECDSA
(FIPS 186-5, RFC 6979) and ECDH. PRESUMED (log entry 6): the spec names these standards and does not print them. -/

namespace Sys2Proof.Machine

/-! ### SHA-384 (R69) -/

/-- A 64-bit word of SHA-384. -/
abbrev W64 := BitVec 64

/-- The 80 round constants. -/
def shaK : List Nat :=
  [0x428A2F98D728AE22, 0x7137449123EF65CD, 0xB5C0FBCFEC4D3B2F, 0xE9B5DBA58189DBBC,
   0x3956C25BF348B538, 0x59F111F1B605D019, 0x923F82A4AF194F9B, 0xAB1C5ED5DA6D8118,
   0xD807AA98A3030242, 0x12835B0145706FBE, 0x243185BE4EE4B28C, 0x550C7DC3D5FFB4E2,
   0x72BE5D74F27B896F, 0x80DEB1FE3B1696B1, 0x9BDC06A725C71235, 0xC19BF174CF692694,
   0xE49B69C19EF14AD2, 0xEFBE4786384F25E3, 0x0FC19DC68B8CD5B5, 0x240CA1CC77AC9C65,
   0x2DE92C6F592B0275, 0x4A7484AA6EA6E483, 0x5CB0A9DCBD41FBD4, 0x76F988DA831153B5,
   0x983E5152EE66DFAB, 0xA831C66D2DB43210, 0xB00327C898FB213F, 0xBF597FC7BEEF0EE4,
   0xC6E00BF33DA88FC2, 0xD5A79147930AA725, 0x06CA6351E003826F, 0x142929670A0E6E70,
   0x27B70A8546D22FFC, 0x2E1B21385C26C926, 0x4D2C6DFC5AC42AED, 0x53380D139D95B3DF,
   0x650A73548BAF63DE, 0x766A0ABB3C77B2A8, 0x81C2C92E47EDAEE6, 0x92722C851482353B] ++
  [0xA2BFE8A14CF10364, 0xA81A664BBC423001, 0xC24B8B70D0F89791, 0xC76C51A30654BE30,
   0xD192E819D6EF5218, 0xD69906245565A910, 0xF40E35855771202A, 0x106AA07032BBD1B8,
   0x19A4C116B8D2D0C8, 0x1E376C085141AB53, 0x2748774CDF8EEB99, 0x34B0BCB5E19B48A8,
   0x391C0CB3C5C95A63, 0x4ED8AA4AE3418ACB, 0x5B9CCA4F7763E373, 0x682E6FF3D6B2B8A3,
   0x748F82EE5DEFB2FC, 0x78A5636F43172F60, 0x84C87814A1F0AB72, 0x8CC702081A6439EC,
   0x90BEFFFA23631E28, 0xA4506CEBDE82BDE9, 0xBEF9A3F7B2C67915, 0xC67178F2E372532B,
   0xCA273ECEEA26619C, 0xD186B8C721C0C207, 0xEADA7DD6CDE0EB1E, 0xF57D4F7FEE6ED178,
   0x06F067AA72176FBA, 0x0A637DC5A2C898A6, 0x113F9804BEF90DAE, 0x1B710B35131C471B,
   0x28DB77F523047D84, 0x32CAAB7B40C72493, 0x3C9EBE0A15C9BEBC, 0x431D67C49C100D4C,
   0x4CC5D4BECB3E42B6, 0x597F299CFC657E2A, 0x5FCB6FAB3AD6FAEC, 0x6C44198C4A475817]

/-- The initial hash value. -/
def shaInit : List Nat :=
  [0xCBBB9D5DC1059ED8, 0x629A292A367CD507, 0x9159015A3070DD17, 0x152FECD8F70E5939,
   0x67332667FFC00B31, 0x8EB44A8768581511, 0xDB0C2E0D64F98FA7, 0x47B5481DBEFA4FA4]

/-- The message schedule, newest word first, from the 16 words of a block. -/
def shaSchedule : Nat → List W64 → List W64
  | 0, w => w
  | n + 1, w =>
    let at_ (i : Nat) : W64 := w.getD i 0
    let a := at_ 14
    let b := at_ 1
    let s0 := a.rotateRight 1 ^^^ a.rotateRight 8 ^^^ a >>> 7
    let s1 := b.rotateRight 19 ^^^ b.rotateRight 61 ^^^ b >>> 6
    shaSchedule n ((at_ 15 + s0 + at_ 6 + s1) :: w)

/-- One round over the working variables a to h. -/
def shaRound (v : List W64) (kw : W64) : List W64 :=
  match v with
  | [a, b, c, d, e, f, g, h] =>
    let s1 := e.rotateRight 14 ^^^ e.rotateRight 18 ^^^ e.rotateRight 41
    let t1 := h + s1 + (e &&& f ^^^ ~~~e &&& g) + kw
    let s0 := a.rotateRight 28 ^^^ a.rotateRight 34 ^^^ a.rotateRight 39
    let t2 := s0 + (a &&& b ^^^ a &&& c ^^^ b &&& c)
    [t1 + t2, a, b, c, d + t1, e, f, g]
  | _ => v

/-- A block of 128 bytes through the hash value. -/
def shaBlock (h : List W64) (block : Bytes) : List W64 :=
  let w := ((List.range 16).map (fun i => BitVec.ofNat 64 (beAt block (8 * i) 8))).reverse
  let sched := (shaSchedule 64 w).reverse
  let v := ((shaK.zip sched).map (fun e => BitVec.ofNat 64 e.1 + e.2)).foldl shaRound h
  List.zipWith (· + ·) h v

/-- The blocks of a padded message, `n` of them. -/
def shaBlocks : Nat → Bytes → List W64 → List W64
  | 0, _, h => h
  | n + 1, m, h => shaBlocks n (m.drop 128) (shaBlock h (m.take 128))

/-- SHA-384 of a byte string: 48 bytes, highest first, as a number. -/
def sha384 (m : Bytes) : Nat :=
  let padded := m ++ [0x80] ++ zeros ((239 - m.length % 128) % 128) ++ beBytes 16 (8 * m.length)
  let h := shaBlocks (padded.length / 128) padded (shaInit.map (BitVec.ofNat 64))
  (h.take 6).foldl (fun a w => a * 2 ^ 64 + w.toNat) 0

/-- HMAC with SHA-384 under a key of 48 bytes. -/
def hmac384 (key m : Bytes) : Bytes :=
  let k := key ++ zeros 80
  let pad (c : Byte) : Bytes := k.map (fun b => b ^^^ c)
  beBytes 48 (sha384 (pad 0x5C ++ beBytes 48 (sha384 (pad 0x36 ++ m))))

/-! ### AES-256 -/

/-- A byte times x in the field of AES. -/
def aesX (b : Byte) : Byte := (b <<< 1) ^^^ (if b.msb then 0x1B else 0)

/-- A product in the field of AES. -/
def aesMul (a b : Byte) : Byte :=
  ((List.range 8).foldl (fun (e : Byte × Byte) i => (if b.getLsbD i then e.1 ^^^ e.2 else e.1, aesX e.2))
    ((0 : Byte), a)).1

/-- The inverse in the field of AES: the 254th power; 0 for 0. -/
def aesInv (a : Byte) : Byte :=
  let sq (x : Byte) : Byte := aesMul x x
  let a2 := sq a
  let a4 := sq a2
  let a8 := sq a4
  let a16 := sq a8
  let a32 := sq a16
  let a64 := sq a32
  [a4, a8, a16, a32, a64, sq a64].foldl aesMul a2

/-- The substitution of SubBytes. -/
def aesSubByte (b : Byte) : Byte :=
  let i := aesInv b
  i ^^^ i.rotateLeft 1 ^^^ i.rotateLeft 2 ^^^ i.rotateLeft 3 ^^^ i.rotateLeft 4 ^^^ 0x63

/-- The substitution and its inverse as tables. -/
def aesSbox : List Byte := (List.range 256).map (fun i => aesSubByte (BitVec.ofNat 8 i))
def aesInvSbox : List Byte :=
  (List.range 256).map (fun i => aesInv (let b := BitVec.ofNat 8 i
    b.rotateLeft 1 ^^^ b.rotateLeft 3 ^^^ b.rotateLeft 6 ^^^ 0x05))

def aesSub (b : Byte) : Byte := aesSbox.getD b.toNat 0
def aesUnsub (b : Byte) : Byte := aesInvSbox.getD b.toNat 0

/-- Two byte strings exclusive-or. -/
def xorBytes (a b : Bytes) : Bytes := List.zipWith (· ^^^ ·) a b

/-- The key schedule: words of 4 bytes, newest first, `n` more with the first at place `i`. -/
def aesExpand : Nat → Nat → List Bytes → List Bytes
  | 0, _, w => w
  | n + 1, i, w =>
    let t := w.headD []
    let rcon := (List.range (i / 8 - 1)).foldl (fun b _ => aesX b) (1 : Byte)
    let t := if i % 8 = 0 then xorBytes ((t.drop 1 ++ t.take 1).map aesSub) [rcon, 0, 0, 0]
      else if i % 8 = 4 then t.map aesSub else t
    aesExpand n (i + 1) (xorBytes (w.getD 7 []) t :: w)

/-- The 15 round keys of a 256-bit key. -/
def aesRoundKeys (key : Nat) : List Bytes :=
  let k := beBytes 32 key
  let w := (aesExpand 52 8 ((List.range 8).map (fun i => sub k (4 * i) 4)).reverse).reverse
  (List.range 15).map (fun r => ((w.drop (4 * r)).take 4).flatten)

/-- ShiftRows and its inverse: byte `r + 4c` of the block is row r, column c. -/
def aesShift (b : Bytes) : Bytes := (List.range 16).map (fun i => b.getD ((i % 4) + 4 * ((i / 4 + i % 4) % 4)) 0)
def aesUnshift (b : Bytes) : Bytes := (List.range 16).map (fun i => b.getD ((i % 4) + 4 * ((i / 4 + 4 - i % 4) % 4)) 0)

/-- MixColumns with the coefficients of its first row. -/
def aesMix (coef : List Byte) (b : Bytes) : Bytes :=
  (List.range 16).map (fun i => (List.range 4).foldl (fun (a : Byte) j =>
    a ^^^ aesMul (coef.getD ((j + 4 - i % 4) % 4) 0) (b.getD (i / 4 * 4 + j) 0)) 0)

/-- A block of 16 bytes enciphered under round keys. -/
def aesEncrypt (keys : List Bytes) (block : Bytes) : Bytes :=
  let b := xorBytes block (keys.headD [])
  let b := ((keys.drop 1).take 13).foldl (fun b k => xorBytes (aesMix [2, 3, 1, 1] (aesShift (b.map aesSub))) k) b
  xorBytes (aesShift (b.map aesSub)) (keys.getD 14 [])

/-- A block of 16 bytes deciphered. -/
def aesDecrypt (keys : List Bytes) (block : Bytes) : Bytes :=
  let b := xorBytes block (keys.getD 14 [])
  let b := ((keys.drop 1).take 13).reverse.foldl
    (fun b k => aesMix [14, 11, 13, 9] (xorBytes ((aesUnshift b).map aesUnsub) k)) b
  xorBytes ((aesUnshift b).map aesUnsub) (keys.headD [])

/-- The key inside 40 wrapped bytes (R323): `none` when the check value is not the default initial value. -/
def keyUnwrap (kek wrapped : Nat) : Option Nat :=
  let keys := aesRoundKeys kek
  let w := beBytes 40 wrapped
  let start := (sub w 0 8, (List.range 4).map (fun i => sub w (8 * i + 8) 8))
  let (a, r) := (List.range 24).foldl (fun (e : Bytes × List Bytes) n =>
    let t := 24 - n
    let i := (t - 1) % 4
    let b := aesDecrypt keys (xorBytes e.1 (beBytes 8 t) ++ e.2.getD i [])
    (b.take 8, e.2.set i (b.drop 8))) start
  if beNat a = 0xA6A6A6A6A6A6A6A6 then some (beNat r.flatten) else none

/-! ### Galois/counter mode (R323, R526) -/

/-- A product in the field of GHASH: bit 127 of a number is the first bit of its block. -/
def ghashMul (x y : BitVec 128) : BitVec 128 :=
  ((List.range 128).foldl (fun (e : BitVec 128 × BitVec 128) i =>
    (if x.getMsbD i then e.1 ^^^ e.2 else e.1,
     if e.2.getLsbD 0 then (e.2 >>> 1) ^^^ (BitVec.ofNat 128 0xE1 <<< 120) else e.2 >>> 1)) (0, y)).1

/-- GHASH over `n` blocks of a byte string. -/
def ghash (h : BitVec 128) : Nat → Bytes → BitVec 128 → BitVec 128
  | 0, _, y => y
  | n + 1, m, y => ghash h n (m.drop 16) (ghashMul (y ^^^ BitVec.ofNat 128 (beNat (m.take 16))) h)

/-- A byte string padded with zeros to whole blocks of 16. -/
def pad16 (m : Bytes) : Bytes := m ++ zeros ((16 - m.length % 16) % 16)

/-- Counter block `n` of a 96-bit IV enciphered; block 1 masks the tag, the text begins at block 2. -/
def gcmBlock (keys : List Bytes) (iv n : Nat) : Bytes := aesEncrypt keys (beBytes 12 iv ++ beBytes 4 n)

/-- A text enciphered, or deciphered, under a key and a 96-bit IV. -/
def gcmCrypt (key iv : Nat) (text : Bytes) : Bytes :=
  let keys := aesRoundKeys key
  xorBytes text ((List.range ((text.length + 15) / 16)).flatMap (fun n => gcmBlock keys iv (n + 2)))

/-- The 128-bit tag of additional data and cipher text. -/
def gcmTag (key iv : Nat) (aad cipher : Bytes) : Nat :=
  let keys := aesRoundKeys key
  let h := BitVec.ofNat 128 (beNat (aesEncrypt keys (zeros 16)))
  let m := pad16 aad ++ pad16 cipher ++ beBytes 8 (8 * aad.length) ++ beBytes 8 (8 * cipher.length)
  (ghash h (m.length / 16) m 0 ^^^ BitVec.ofNat 128 (beNat (gcmBlock keys iv 1))).toNat

/-! ### P-384 -/

/-- The field, the coefficient b, the order of the base point and the base point (FIPS 186-5's P-384). -/
def p384P : Nat :=
  0xFFFFFFFFFFFFFFFFFFFFFFFFFFFFFFFFFFFFFFFFFFFFFFFFFFFFFFFFFFFFFFFEFFFFFFFF0000000000000000FFFFFFFF
def p384B : Nat :=
  0xB3312FA7E23EE7E4988E056BE3F82D19181D9C6EFE8141120314088F5013875AC656398D8A2ED19D2A85C8EDD3EC2AEF
def p384N : Nat :=
  0xFFFFFFFFFFFFFFFFFFFFFFFFFFFFFFFFFFFFFFFFFFFFFFFFC7634D81F4372DDF581A0DB248B0A77AECEC196ACCC52973
def p384G : Nat × Nat :=
  (0xAA87CA22BE8B05378EB1C71EF320AD746E1D3B628BA79B9859F741E082542A385502F25DBF55296C3A545E3872760AB7,
   0x3617DE4A96262C6F5D9E98BF9292DC29F8F41DBD289A147CE9DA3113B5F0B8C00A60B1CE1D7E819D7A431D7C90EA0E5F)

/-- `x` to the power of the low `n` bits of `e`, modulo `m`. -/
def powMod (m : Nat) : Nat → Nat → Nat → Nat
  | 0, _, _ => 1
  | n + 1, e, x => (if e % 2 = 1 then x else 1) * powMod m n (e / 2) (x * x % m) % m

/-- The inverse modulo a prime of 384 bits. -/
def invMod (m x : Nat) : Nat := powMod m 384 (m - 2) (x % m)

/-- `a − b` modulo `m`, for reduced numbers. -/
def subMod (m a b : Nat) : Nat := (a + (m - b)) % m

/-- The sum of two points; `none` is the point at infinity. -/
def p384Add : Option (Nat × Nat) → Option (Nat × Nat) → Option (Nat × Nat)
  | none, q => q
  | p, none => p
  | some (x1, y1), some (x2, y2) =>
    if x1 = x2 ∧ (y1 + y2) % p384P = 0 then none else
    let l := if x1 = x2 then subMod p384P (3 * x1 * x1 % p384P) 3 * invMod p384P (2 * y1) % p384P
      else subMod p384P y2 y1 * invMod p384P (subMod p384P x2 x1) % p384P
    let x := subMod p384P (subMod p384P (l * l % p384P) x1) x2
    some (x, subMod p384P (l * subMod p384P x1 x % p384P) y1)

/-- The low `n` bits of `k` times a point. -/
def p384Mul : Nat → Nat → Option (Nat × Nat) → Option (Nat × Nat)
  | 0, _, _ => none
  | n + 1, k, q =>
    let r := p384Mul n (k / 2) (p384Add q q)
    if k % 2 = 1 then p384Add q r else r

/-- The point of 96 bytes, x then y: `none` unless it lies on the curve. -/
def p384Point (k : Nat) : Option (Nat × Nat) :=
  let x := k / 2 ^ 384 % 2 ^ 384
  let y := k % 2 ^ 384
  if x < p384P ∧ y < p384P ∧ y * y % p384P = (x * x % p384P * x + (p384P - 3) * x + p384B) % p384P then some (x, y) else none

/-- A point as 96 bytes; 0 for the point at infinity. -/
def p384Bytes : Option (Nat × Nat) → Nat
  | none => 0
  | some (x, y) => x * 2 ^ 384 + y

/-- Whether 96 bytes are a P-384 public key (R538). -/
def pointValid (k : Nat) : Bool := (p384Point k).isSome

/-- Whether the signature (r, s) over a digest verifies under a public key (R69, R521). -/
def ecdsaVerify (key digest r s : Nat) : Bool :=
  match p384Point key with
  | none => false
  | some q =>
    let w := invMod p384N s
    let u1 := digest % p384N * w % p384N
    let u2 := r * w % p384N
    0 < r && r < p384N && 0 < s && s < p384N &&
      match p384Add (p384Mul 384 u1 (some p384G)) (p384Mul 384 u2 (some q)) with
      | none => false
      | some (x, _) => x % p384N == r

/-- The nonces of RFC 6979, tried in order; a nonce out of range or that gives r or s = 0 is passed over. -/
def ecdsaTry (d z : Nat) : Nat → Bytes → Bytes → Nat × Nat
  | 0, _, _ => (0, 0)
  | n + 1, k, v =>
    let v := hmac384 k v
    let e := beNat v
    let r := match p384Mul 384 e (some p384G) with
      | none => 0
      | some (x, _) => x % p384N
    let s := invMod p384N e * ((z + r * d) % p384N) % p384N
    if 0 < e && e < p384N && r != 0 && s != 0 then (r, s) else
    let k := hmac384 k (v ++ [0])
    ecdsaTry d z n k (hmac384 k v)

/-- The device's private keys (R539), from the extra bits drawn from its secret: 0 attestation, 1 transport. -/
def devicePrivate (which : Nat) : Nat := Config.deviceBits which % (p384N - 1) + 1

/-- The public key of a device key (R539). -/
def devicePublic (which : Nat) : Nat := p384Bytes (p384Mul 384 (devicePrivate which) (some p384G))

/-- The deterministic signature of a digest under the attestation key (R539): r and s. -/
def ecdsaSign (digest : Nat) : Nat × Nat :=
  let d := devicePrivate 0
  let z := digest % p384N
  let x := beBytes 48 d ++ beBytes 48 z
  let v := List.replicate 48 (1 : Byte)
  let k := hmac384 (zeros 48) (v ++ [0] ++ x)
  let v := hmac384 k v
  let k := hmac384 k (v ++ [1] ++ x)
  ecdsaTry d z 64 k (hmac384 k v)

/-- The shared secret of a public key and the transport key (R538): `none` for a point not on the curve. -/
def ecdh (key : Nat) : Option Nat :=
  match p384Point key with
  | none => none
  | some q => (p384Mul 384 (devicePrivate 1) (some q)).map (·.1)

end Sys2Proof.Machine
end

