-- ==== Sys2Proof/Machine/RegTable.lean ====
section
/-! DEFINITION. The register map of BAR0: every register of the spec's chapters with its fields, access codes (R11),
mode marks (R14), access class (R21, R38), pair kind (R13), reset values and deciding island (R577), and a named
constant for every field. The tables follow the "Registers" sections of the spec's chapters, row by row. -/

namespace Sys2Proof.Machine

/-- The access codes of R11. -/
inductive Access where
  | ro | rw | w1c | wo | rc | rwl
  deriving DecidableEq, Repr

/-- A field's reset value: a constant, or one the tables give by rule: the block's sampling island (R577),
`4 + u` for marker unit u (R315), the default latency target of HBM port q (R434), the mask bit of an MSI-X vector
control word (PCIe 5.0, R451), and the always-on mark of an island (R502). -/
inductive ResetVal where
  | const (n : Nat)
  | island
  | markUnit
  | portTarget
  | msixMask
  | alwaysOn
  deriving DecidableEq, Repr

/-- The mark a chapter sets on a field: none, `CM` (written in CONFIGURE and MAINTAIN only, R14), `shadow`
(R144, R224, R358) or `mediated` (class M, R20). -/
inductive Mark where
  | none | cm | shadow | mediated
  deriving DecidableEq, Repr

/-- One field of a register: bits `[lo + width - 1 : lo]`. -/
structure FieldRow where
  lo : Nat
  width : Nat
  access : Access
  reset : ResetVal
  mark : Mark := .none
  deriving DecidableEq, Repr

/-- How a word takes part in a LO/HI pair of R13. -/
inductive PairKind where
  | none | roLo | roHi | wLo | wHi
  deriving DecidableEq, Repr

/-- One register of a block: its offset, its part in a pair, whether BAR0 writes to it are COMMAND_ONLY (R38), its
deciding island where it differs from the block's, and its fields (bits in no field are reserved, R12). -/
structure RegRow where
  off : Nat
  pair : PairKind := .none
  cmdOnly : Bool := false
  island : Option Nat := .none
  fields : List FieldRow
  deriving DecidableEq, Repr

/-- Which island decides an access to a block's registers (R577): `base + index div per` (`per` 0: always `base`),
modulo `wrap` where it is not 0 (R165). -/
structure IslandRule where
  base : Nat
  per : Nat
  wrap : Nat
  deriving DecidableEq, Repr

/-- A block of registers at `base + i1 * s1 + i2 * s2 + off`, with `i1 < n1` and `i2 < n2`. -/
structure RegBlock where
  base : Nat
  s1 : Nat
  n1 : Nat
  s2 : Nat
  n2 : Nat
  island : IslandRule
  rows : List RegRow
  deriving DecidableEq, Repr

/-- A named field: the block's layout, the register's offset and the field's bits. Its index `i` is
`i1 * n2 + i2`. -/
structure Fld where
  base : Nat
  s1 : Nat
  s2 : Nat
  n2 : Nat
  off : Nat
  lo : Nat
  width : Nat
  deriving DecidableEq, Repr

/-- The BAR0 address of instance `i` of a named field's register. -/
def Fld.addr (f : Fld) (i : Nat) : Nat := f.base + i / f.n2 * f.s1 + i % f.n2 * f.s2 + f.off

namespace Tbl

/-- Registers of block `chief`. -/
def chief : RegBlock := { base := 0x0, s1 := 0, n1 := 1, s2 := 0, n2 := 1, island := ⟨0x08, 0, 0⟩, rows :=
[
  ⟨0x000, .none, false, none, [⟨0, 16, .ro, .const 18582, .none⟩, ⟨16, 8, .ro, .const 176, .none⟩]⟩,
  ⟨0x004, .roLo, false, none, [⟨0, 32, .ro, .const 0, .none⟩]⟩,
  ⟨0x008, .roHi, false, none, [⟨0, 16, .ro, .const 0, .none⟩]⟩,
  ⟨0x00c, .none, false, none, [⟨0, 5, .ro, .const 0, .none⟩, ⟨8, 8, .ro, .const 0, .none⟩, ⟨16, 8, .ro, .const 0, .none⟩]⟩,
  ⟨0x010, .none, false, none, [⟨0, 32, .ro, .const 0, .none⟩]⟩,
  ⟨0x014, .none, false, none, [⟨0, 1, .ro, .const 0, .none⟩, ⟨1, 1, .ro, .const 0, .none⟩, ⟨2, 1, .ro, .const 0, .none⟩]⟩] }

/-- Registers of block `chief0`. -/
def chief0 : RegBlock := { base := 0x100, s1 := 0, n1 := 1, s2 := 0, n2 := 1, island := ⟨0x00, 0, 0⟩, rows :=
[
  ⟨0x000, .none, true, none, [⟨0, 3, .ro, .const 6, .none⟩, ⟨3, 1, .ro, .const 0, .none⟩, ⟨4, 4, .ro, .const 1, .none⟩, ⟨8, 3, .ro, .const 0, .none⟩, ⟨11, 1, .ro, .const 0, .none⟩, ⟨12, 1, .ro, .const 0, .none⟩]⟩,
  ⟨0x004, .none, false, none, [⟨0, 2, .ro, .const 0, .none⟩, ⟨2, 2, .ro, .const 0, .none⟩, ⟨4, 4, .ro, .const 0, .none⟩, ⟨8, 2, .ro, .const 0, .none⟩, ⟨10, 1, .ro, .const 0, .none⟩]⟩,
  ⟨0x008, .none, false, some 0x08, [⟨0, 3, .ro, .const 0, .none⟩, ⟨3, 1, .w1c, .const 0, .none⟩, ⟨8, 8, .ro, .const 0, .none⟩, ⟨16, 16, .ro, .const 0, .none⟩]⟩,
  ⟨0x00c, .none, false, none, [⟨0, 16, .ro, .const 0, .none⟩]⟩,
  ⟨0x010, .none, false, none, [⟨0, 3, .ro, .const 0, .none⟩, ⟨3, 2, .ro, .const 0, .none⟩, ⟨5, 1, .ro, .const 0, .none⟩, ⟨6, 1, .ro, .const 0, .none⟩]⟩,
  ⟨0x014, .none, false, none, [⟨0, 3, .ro, .const 6, .none⟩, ⟨3, 3, .ro, .const 6, .none⟩, ⟨6, 1, .ro, .const 0, .none⟩, ⟨8, 24, .rc, .const 0, .none⟩]⟩] }

/-- Registers of block `chief4`. -/
def chief4 : RegBlock := { base := 0x400, s1 := 0, n1 := 1, s2 := 0, n2 := 1, island := ⟨0x00, 0, 0⟩, rows :=
[
  ⟨0x000, .none, false, some 0x08, [⟨0, 8, .rw, .const 0, .none⟩]⟩,
  ⟨0x004, .none, false, some 0x08, [⟨0, 1, .ro, .const 1, .none⟩, ⟨1, 1, .ro, .const 0, .none⟩, ⟨2, 1, .ro, .const 0, .none⟩, ⟨3, 1, .ro, .const 0, .none⟩, ⟨4, 1, .w1c, .const 0, .none⟩, ⟨8, 8, .ro, .const 0, .none⟩, ⟨24, 8, .ro, .const 0, .none⟩]⟩,
  ⟨0x008, .none, false, some 0x08, [⟨0, 24, .ro, .const 0, .none⟩]⟩,
  ⟨0x010, .none, false, none, [⟨0, 2, .ro, .const 0, .none⟩, ⟨2, 6, .ro, .const 0, .none⟩, ⟨8, 2, .ro, .const 0, .none⟩, ⟨10, 6, .ro, .const 0, .none⟩, ⟨16, 2, .ro, .const 0, .none⟩, ⟨18, 6, .ro, .const 0, .none⟩, ⟨24, 2, .ro, .const 0, .none⟩, ⟨26, 6, .ro, .const 0, .none⟩]⟩,
  ⟨0x020, .none, false, none, [⟨0, 4, .ro, .const 0, .none⟩, ⟨4, 1, .ro, .const 0, .none⟩, ⟨8, 8, .ro, .const 0, .none⟩, ⟨16, 16, .rc, .const 0, .none⟩]⟩,
  ⟨0x024, .none, false, none, [⟨0, 26, .ro, .const 0, .none⟩]⟩,
  ⟨0x028, .none, false, none, [⟨0, 16, .ro, .const 0, .none⟩]⟩,
  ⟨0x030, .none, false, none, [⟨0, 4, .ro, .const 0, .none⟩, ⟨4, 4, .ro, .const 0, .none⟩, ⟨8, 4, .ro, .const 0, .none⟩, ⟨16, 16, .ro, .const 0, .none⟩]⟩,
  ⟨0x038, .roLo, false, none, [⟨0, 32, .ro, .const 0, .none⟩]⟩,
  ⟨0x03c, .roHi, false, none, [⟨0, 32, .ro, .const 0, .none⟩]⟩] }

/-- Registers of block `chief5`. -/
def chief5 : RegBlock := { base := 0x500, s1 := 0, n1 := 1, s2 := 0, n2 := 1, island := ⟨0x08, 0, 0⟩, rows :=
[
  ⟨0x000, .none, false, none, [⟨0, 16, .ro, .const 0, .none⟩, ⟨16, 1, .w1c, .const 0, .none⟩, ⟨17, 1, .w1c, .const 0, .none⟩, ⟨24, 8, .ro, .const 8, .none⟩]⟩,
  ⟨0x004, .none, false, none, [⟨0, 16, .ro, .const 0, .none⟩, ⟨16, 16, .rc, .const 0, .none⟩]⟩] }

/-- Registers of block `chief8`. -/
def chief8 : RegBlock := { base := 0x800, s1 := 0, n1 := 1, s2 := 0, n2 := 1, island := ⟨0x08, 0, 0⟩, rows :=
[
  ⟨0x000, .none, false, none, [⟨0, 32, .ro, .const 0, .none⟩]⟩,
  ⟨0x004, .none, false, none, [⟨0, 32, .rc, .const 0, .none⟩]⟩,
  ⟨0x008, .none, false, none, [⟨0, 16, .rc, .const 0, .none⟩]⟩] }

/-- Registers of block `evlog`. -/
def evlog : RegBlock := { base := 0x8000, s1 := 4, n1 := 8192, s2 := 0, n2 := 1, island := ⟨0x08, 0, 0⟩, rows :=
[
  ⟨0x000, .none, false, none, [⟨0, 32, .ro, .const 0, .none⟩]⟩] }

/-- Registers of block `cfg`. -/
def cfg : RegBlock := { base := 0x100000, s1 := 0, n1 := 1, s2 := 0, n2 := 1, island := ⟨0x00, 0, 0⟩, rows :=
[
  ⟨0x000, .none, true, none, [⟨0, 3, .ro, .const 0, .none⟩, ⟨3, 1, .ro, .const 0, .none⟩, ⟨4, 3, .ro, .const 0, .none⟩, ⟨7, 3, .ro, .const 0, .none⟩, ⟨10, 1, .ro, .const 0, .none⟩, ⟨16, 16, .ro, .const 0, .none⟩]⟩,
  ⟨0x004, .none, true, none, [⟨0, 8, .ro, .const 0, .none⟩, ⟨8, 8, .ro, .const 0, .none⟩, ⟨16, 16, .ro, .const 0, .none⟩]⟩,
  ⟨0x008, .none, true, none, [⟨0, 23, .ro, .const 0, .none⟩]⟩,
  ⟨0x010, .none, true, none, [⟨0, 32, .ro, .const 0, .none⟩]⟩,
  ⟨0x014, .none, true, none, [⟨0, 32, .ro, .const 0, .none⟩]⟩,
  ⟨0x018, .none, true, none, [⟨0, 32, .ro, .const 0, .none⟩]⟩,
  ⟨0x01c, .none, true, none, [⟨0, 32, .ro, .const 0, .none⟩]⟩,
  ⟨0x020, .roLo, true, none, [⟨0, 32, .ro, .const 0, .none⟩]⟩,
  ⟨0x024, .roHi, true, none, [⟨0, 32, .ro, .const 0, .none⟩]⟩,
  ⟨0x028, .none, true, none, [⟨0, 24, .ro, .const 0, .none⟩]⟩,
  ⟨0x02c, .none, true, none, [⟨0, 20, .ro, .const 0, .none⟩]⟩,
  ⟨0x040, .none, true, none, [⟨0, 32, .ro, .const 0, .none⟩]⟩] ++ [
  ⟨0x044, .none, true, none, [⟨0, 32, .ro, .const 0, .none⟩]⟩,
  ⟨0x048, .none, true, none, [⟨0, 32, .ro, .const 0, .none⟩]⟩,
  ⟨0x04c, .none, true, none, [⟨0, 32, .ro, .const 0, .none⟩]⟩,
  ⟨0x050, .none, true, none, [⟨0, 32, .ro, .const 0, .none⟩]⟩,
  ⟨0x054, .none, true, none, [⟨0, 32, .ro, .const 0, .none⟩]⟩,
  ⟨0x058, .none, true, none, [⟨0, 32, .ro, .const 0, .none⟩]⟩,
  ⟨0x05c, .none, true, none, [⟨0, 32, .ro, .const 0, .none⟩]⟩,
  ⟨0x060, .none, true, none, [⟨0, 32, .ro, .const 0, .none⟩]⟩,
  ⟨0x064, .none, true, none, [⟨0, 32, .ro, .const 0, .none⟩]⟩,
  ⟨0x068, .none, true, none, [⟨0, 32, .ro, .const 0, .none⟩]⟩,
  ⟨0x06c, .none, true, none, [⟨0, 32, .ro, .const 0, .none⟩]⟩] }

/-- Registers of block `cfgOwner`. -/
def cfgOwner : RegBlock := { base := 0x102000, s1 := 4, n1 := 1540, s2 := 0, n2 := 1, island := ⟨0x00, 0, 0⟩, rows :=
[
  ⟨0x000, .none, true, none, [⟨0, 12, .ro, .const 0, .none⟩, ⟨12, 4, .ro, .const 0, .none⟩, ⟨31, 1, .ro, .const 0, .none⟩]⟩] }

/-- Registers of block `lane`. -/
def lane : RegBlock := { base := 0x200000, s1 := 4096, n1 := 64, s2 := 0, n2 := 1, island := ⟨0x10, 4, 0⟩, rows :=
[
  ⟨0x000, .none, false, none, [⟨0, 1, .rw, .const 0, .none⟩, ⟨1, 1, .wo, .const 0, .none⟩, ⟨2, 1, .rw, .const 0, .none⟩, ⟨4, 2, .rw, .const 0, .none⟩]⟩,
  ⟨0x004, .none, false, none, [⟨0, 3, .ro, .const 0, .none⟩, ⟨3, 1, .ro, .const 0, .none⟩, ⟨4, 2, .ro, .const 0, .none⟩, ⟨8, 6, .ro, .const 0, .none⟩, ⟨16, 8, .ro, .const 0, .none⟩, ⟨24, 8, .ro, .island, .none⟩]⟩,
  ⟨0x008, .none, false, none, [⟨0, 1, .w1c, .const 0, .none⟩, ⟨1, 1, .w1c, .const 0, .none⟩, ⟨2, 1, .w1c, .const 0, .none⟩, ⟨3, 1, .w1c, .const 0, .none⟩, ⟨4, 1, .w1c, .const 0, .none⟩, ⟨5, 1, .w1c, .const 0, .none⟩, ⟨6, 1, .w1c, .const 0, .none⟩, ⟨7, 1, .w1c, .const 0, .none⟩, ⟨8, 1, .w1c, .const 0, .none⟩, ⟨9, 1, .w1c, .const 0, .none⟩, ⟨10, 1, .w1c, .const 0, .none⟩, ⟨11, 1, .w1c, .const 0, .none⟩, ⟨12, 1, .w1c, .const 0, .none⟩]⟩,
  ⟨0x010, .none, false, none, [⟨0, 32, .rc, .const 0, .none⟩]⟩,
  ⟨0x014, .none, false, none, [⟨0, 32, .rc, .const 0, .none⟩]⟩,
  ⟨0x018, .none, false, none, [⟨0, 32, .rc, .const 0, .none⟩]⟩,
  ⟨0x01c, .none, false, none, [⟨0, 32, .rc, .const 0, .none⟩]⟩,
  ⟨0x040, .none, false, none, [⟨0, 13, .rw, .const 0, .none⟩, ⟨16, 5, .rw, .const 0, .none⟩, ⟨31, 1, .ro, .const 0, .none⟩]⟩,
  ⟨0x044, .none, false, none, [⟨0, 7, .rw, .const 16, .none⟩, ⟨8, 1, .wo, .const 0, .none⟩, ⟨9, 1, .ro, .const 0, .none⟩, ⟨16, 7, .ro, .const 0, .none⟩]⟩,
  ⟨0x048, .none, false, none, [⟨0, 32, .ro, .const 0, .none⟩]⟩,
  ⟨0x04c, .none, false, none, [⟨0, 32, .ro, .const 0, .none⟩]⟩,
  ⟨0x060, .none, false, none, [⟨0, 4, .ro, .const 0, .none⟩, ⟨4, 28, .ro, .const 0, .none⟩]⟩] ++ [
  ⟨0x064, .none, false, none, [⟨0, 4, .rw, .const 0, .none⟩, ⟨8, 5, .rw, .const 0, .none⟩, ⟨16, 7, .ro, .const 0, .none⟩]⟩,
  ⟨0x080, .none, false, none, [⟨0, 7, .rw, .const 0, .none⟩, ⟨8, 7, .rw, .const 0, .none⟩, ⟨16, 4, .rw, .const 0, .none⟩, ⟨31, 1, .wo, .const 0, .none⟩]⟩,
  ⟨0x084, .none, false, none, [⟨0, 24, .ro, .const 0, .none⟩, ⟨24, 1, .ro, .const 0, .none⟩, ⟨25, 1, .ro, .const 0, .none⟩]⟩,
  ⟨0x0a0, .none, false, none, [⟨0, 3, .rw, .const 0, .none⟩, ⟨3, 1, .rw, .const 0, .none⟩, ⟨4, 3, .rw, .const 0, .none⟩, ⟨7, 1, .rw, .const 0, .none⟩, ⟨8, 1, .wo, .const 0, .none⟩, ⟨9, 1, .wo, .const 0, .none⟩, ⟨16, 1, .ro, .const 0, .none⟩]⟩,
  ⟨0x0a4, .none, false, none, [⟨0, 32, .ro, .const 0, .none⟩]⟩,
  ⟨0x0a8, .roLo, false, none, [⟨0, 32, .ro, .const 0, .none⟩]⟩,
  ⟨0x0ac, .roHi, false, none, [⟨0, 32, .ro, .const 0, .none⟩]⟩] }

/-- Registers of block `quad`. -/
def quad : RegBlock := { base := 0x240000, s1 := 256, n1 := 16, s2 := 0, n2 := 1, island := ⟨0x10, 1, 0⟩, rows :=
[
  ⟨0x000, .none, false, none, [⟨0, 3, .ro, .const 0, .none⟩, ⟨8, 4, .ro, .const 0, .none⟩, ⟨12, 1, .ro, .const 0, .none⟩, ⟨13, 1, .ro, .const 0, .none⟩, ⟨16, 4, .ro, .const 0, .none⟩]⟩] }

/-- Registers of block `sport`. -/
def sport : RegBlock := { base := 0x280000, s1 := 16, n1 := 1024, s2 := 0, n2 := 1, island := ⟨0x10, 0, 0⟩, rows :=
[
  ⟨0x000, .none, false, none, [⟨0, 4, .ro, .const 0, .none⟩, ⟨4, 1, .ro, .const 0, .none⟩, ⟨5, 1, .ro, .const 0, .none⟩, ⟨8, 6, .ro, .const 0, .none⟩]⟩,
  ⟨0x004, .none, false, none, [⟨0, 32, .ro, .const 0, .none⟩]⟩,
  ⟨0x008, .none, false, none, [⟨0, 32, .rc, .const 0, .none⟩]⟩,
  ⟨0x00c, .none, false, none, [⟨0, 16, .ro, .const 0, .none⟩, ⟨16, 16, .rc, .const 0, .none⟩]⟩] }

/-- Registers of block `pos`. -/
def pos : RegBlock := { base := 0xa00000, s1 := 256, n1 := 8, s2 := 0, n2 := 1, island := ⟨0x81, 0, 0⟩, rows :=
[
  ⟨0x000, .none, false, none, [⟨0, 2, .rwl, .const 0, .none⟩, ⟨4, 4, .rw, .const 3, .none⟩, ⟨8, 8, .rw, .const 4, .none⟩, ⟨16, 2, .rw, .const 0, .none⟩, ⟨18, 1, .rw, .const 0, .none⟩, ⟨19, 1, .rw, .const 0, .none⟩, ⟨20, 1, .wo, .const 0, .none⟩]⟩,
  ⟨0x004, .none, false, none, [⟨0, 32, .ro, .const 0, .none⟩]⟩,
  ⟨0x008, .none, false, none, [⟨0, 1, .ro, .const 0, .none⟩, ⟨1, 1, .ro, .const 0, .none⟩, ⟨2, 1, .w1c, .const 0, .none⟩, ⟨3, 1, .w1c, .const 0, .none⟩, ⟨4, 1, .w1c, .const 0, .none⟩, ⟨5, 1, .w1c, .const 0, .none⟩, ⟨6, 1, .w1c, .const 0, .none⟩, ⟨8, 6, .ro, .const 0, .none⟩, ⟨24, 8, .ro, .island, .none⟩]⟩,
  ⟨0x00c, .none, false, none, [⟨0, 32, .rc, .const 0, .none⟩]⟩,
  ⟨0x010, .none, false, none, [⟨0, 32, .rw, .const 0, .none⟩]⟩,
  ⟨0x014, .none, false, none, [⟨0, 32, .rw, .const 0, .none⟩]⟩,
  ⟨0x018, .none, false, none, [⟨0, 32, .ro, .const 0, .none⟩]⟩,
  ⟨0x01c, .none, false, none, [⟨0, 16, .rw, .const 0, .none⟩]⟩,
  ⟨0x020, .none, false, none, [⟨0, 6, .rw, .const 32, .none⟩, ⟨6, 1, .rw, .const 0, .none⟩, ⟨7, 1, .rw, .const 1, .none⟩, ⟨8, 8, .rw, .const 19, .none⟩, ⟨16, 6, .rw, .const 0, .none⟩]⟩,
  ⟨0x024, .none, false, none, [⟨0, 16, .rw, .const 1000, .none⟩, ⟨16, 12, .rw, .const 0, .none⟩]⟩,
  ⟨0x028, .none, false, none, [⟨0, 16, .rc, .const 0, .none⟩, ⟨16, 16, .rc, .const 0, .none⟩]⟩,
  ⟨0x02c, .none, false, none, [⟨0, 24, .rw, .const 0, .none⟩, ⟨24, 4, .rw, .const 4, .none⟩]⟩] ++ [
  ⟨0x030, .roLo, false, none, [⟨0, 32, .ro, .const 0, .none⟩]⟩,
  ⟨0x034, .roHi, false, none, [⟨0, 16, .ro, .const 0, .none⟩]⟩] }

/-- Registers of block `reel`. -/
def reel : RegBlock := { base := 0xa01000, s1 := 0, n1 := 1, s2 := 0, n2 := 1, island := ⟨0x80, 0, 0⟩, rows :=
[
  ⟨0x000, .none, false, none, [⟨0, 4, .rw, .const 0, .none⟩, ⟨4, 3, .rw, .const 4, .shadow⟩, ⟨8, 1, .rw, .const 1, .none⟩, ⟨12, 2, .ro, .const 0, .none⟩, ⟨16, 1, .ro, .const 0, .none⟩]⟩,
  ⟨0x008, .wLo, false, none, [⟨0, 32, .rw, .const 0, .shadow⟩]⟩,
  ⟨0x00c, .wHi, false, none, [⟨0, 32, .rw, .const 65536, .shadow⟩]⟩,
  ⟨0x010, .none, false, none, [⟨0, 5, .rw, .const 10, .shadow⟩]⟩,
  ⟨0x014, .none, false, none, [⟨0, 16, .rw, .const 2500, .shadow⟩]⟩,
  ⟨0x018, .none, false, none, [⟨0, 20, .rw, .const 1000, .shadow⟩]⟩,
  ⟨0x020, .roLo, false, none, [⟨0, 32, .ro, .const 0, .none⟩]⟩,
  ⟨0x024, .roHi, false, none, [⟨0, 32, .ro, .const 0, .none⟩]⟩,
  ⟨0x028, .roLo, false, none, [⟨0, 32, .ro, .const 0, .none⟩]⟩,
  ⟨0x02c, .roHi, false, none, [⟨0, 32, .ro, .const 0, .none⟩]⟩,
  ⟨0x030, .wLo, false, none, [⟨0, 32, .rw, .const 0, .none⟩]⟩,
  ⟨0x034, .wHi, false, none, [⟨0, 32, .rw, .const 0, .none⟩]⟩] ++ [
  ⟨0x038, .none, false, none, [⟨0, 32, .wo, .const 0, .none⟩]⟩,
  ⟨0x03c, .none, false, none, [⟨0, 32, .ro, .const 0, .none⟩]⟩,
  ⟨0x040, .none, false, none, [⟨0, 24, .ro, .const 0, .none⟩, ⟨31, 1, .ro, .const 0, .none⟩]⟩,
  ⟨0x044, .none, false, none, [⟨0, 1, .ro, .const 0, .none⟩, ⟨1, 1, .ro, .const 1, .none⟩, ⟨2, 1, .w1c, .const 0, .none⟩, ⟨3, 1, .ro, .const 0, .none⟩, ⟨4, 1, .w1c, .const 0, .none⟩, ⟨5, 1, .w1c, .const 0, .none⟩, ⟨6, 1, .ro, .const 0, .none⟩, ⟨7, 1, .ro, .const 0, .none⟩, ⟨24, 8, .ro, .island, .none⟩]⟩,
  ⟨0x048, .none, false, none, [⟨0, 32, .rc, .const 0, .none⟩]⟩,
  ⟨0x04c, .none, false, none, [⟨0, 32, .rc, .const 0, .none⟩]⟩,
  ⟨0x050, .none, false, none, [⟨0, 32, .rc, .const 0, .none⟩]⟩,
  ⟨0x054, .none, false, none, [⟨0, 32, .rc, .const 0, .none⟩]⟩,
  ⟨0x080, .none, false, none, [⟨0, 2, .rw, .const 0, .cm⟩, ⟨3, 3, .rw, .const 0, .none⟩, ⟨8, 8, .rw, .const 0, .none⟩, ⟨16, 8, .rw, .const 0, .none⟩, ⟨24, 4, .rw, .const 8, .none⟩]⟩,
  ⟨0x084, .none, false, none, [⟨0, 16, .rw, .const 1000, .none⟩, ⟨16, 16, .rw, .const 1000, .none⟩]⟩,
  ⟨0x088, .none, false, none, [⟨0, 32, .rw, .const 0, .none⟩]⟩,
  ⟨0x08c, .none, false, none, [⟨0, 2, .ro, .const 0, .none⟩, ⟨8, 8, .ro, .const 0, .none⟩]⟩] ++ [
  ⟨0x090, .none, false, none, [⟨0, 16, .rc, .const 0, .none⟩, ⟨16, 16, .rc, .const 0, .none⟩]⟩,
  ⟨0x094, .none, false, none, [⟨0, 32, .rc, .const 0, .none⟩]⟩] }

/-- Registers of block `sched`. -/
def sched : RegBlock := { base := 0xa01100, s1 := 32, n1 := 8, s2 := 0, n2 := 1, island := ⟨0x80, 0, 0⟩, rows :=
[
  ⟨0x000, .none, false, none, [⟨0, 1, .rw, .const 0, .none⟩, ⟨1, 1, .rw, .const 0, .none⟩, ⟨2, 1, .rw, .const 0, .none⟩, ⟨16, 16, .rw, .const 0, .none⟩]⟩,
  ⟨0x004, .wLo, false, none, [⟨0, 32, .rw, .const 0, .none⟩]⟩,
  ⟨0x008, .wHi, false, none, [⟨0, 32, .rw, .const 0, .none⟩]⟩,
  ⟨0x00c, .wLo, false, none, [⟨0, 32, .rw, .const 0, .none⟩]⟩,
  ⟨0x010, .wHi, false, none, [⟨0, 32, .rw, .const 0, .none⟩]⟩,
  ⟨0x014, .none, false, none, [⟨0, 1, .ro, .const 0, .none⟩, ⟨1, 1, .w1c, .const 0, .none⟩, ⟨2, 1, .w1c, .const 0, .none⟩, ⟨8, 8, .rc, .const 0, .none⟩, ⟨16, 16, .rc, .const 0, .none⟩]⟩] }

/-- Registers of block `rcap`. -/
def rcap : RegBlock := { base := 0xa01200, s1 := 32, n1 := 8, s2 := 0, n2 := 1, island := ⟨0x80, 0, 0⟩, rows :=
[
  ⟨0x000, .none, false, none, [⟨0, 3, .rw, .const 0, .none⟩, ⟨3, 1, .rw, .const 0, .none⟩, ⟨4, 1, .wo, .const 0, .none⟩]⟩,
  ⟨0x004, .roLo, false, none, [⟨0, 32, .ro, .const 0, .none⟩]⟩,
  ⟨0x008, .roHi, false, none, [⟨0, 32, .ro, .const 0, .none⟩]⟩,
  ⟨0x00c, .none, false, none, [⟨0, 32, .ro, .const 0, .none⟩]⟩,
  ⟨0x010, .none, false, none, [⟨0, 32, .ro, .const 0, .none⟩]⟩,
  ⟨0x014, .none, false, none, [⟨0, 3, .ro, .const 0, .none⟩, ⟨3, 1, .w1c, .const 0, .none⟩, ⟨16, 16, .rc, .const 0, .none⟩]⟩] }

/-- Registers of block `time`. -/
def time : RegBlock := { base := 0xb00000, s1 := 0, n1 := 1, s2 := 0, n2 := 1, island := ⟨0x82, 0, 0⟩, rows :=
[
  ⟨0x000, .roLo, false, none, [⟨0, 32, .ro, .const 0, .none⟩]⟩,
  ⟨0x004, .roHi, false, none, [⟨0, 32, .ro, .const 0, .none⟩]⟩,
  ⟨0x008, .wLo, false, none, [⟨0, 32, .rw, .const 0, .none⟩]⟩,
  ⟨0x00c, .wHi, false, none, [⟨0, 32, .rw, .const 4, .none⟩]⟩,
  ⟨0x010, .none, false, none, [⟨0, 32, .rw, .const 0, .none⟩]⟩,
  ⟨0x014, .none, false, none, [⟨0, 32, .rw, .const 0, .none⟩]⟩,
  ⟨0x018, .wLo, false, none, [⟨0, 32, .wo, .const 0, .none⟩]⟩,
  ⟨0x01c, .wHi, false, none, [⟨0, 32, .wo, .const 0, .none⟩]⟩,
  ⟨0x020, .none, false, none, [⟨0, 1, .ro, .const 0, .none⟩, ⟨1, 1, .w1c, .const 0, .none⟩, ⟨2, 1, .w1c, .const 0, .none⟩, ⟨3, 1, .ro, .const 1, .none⟩, ⟨4, 1, .w1c, .const 0, .none⟩, ⟨24, 8, .ro, .island, .none⟩]⟩,
  ⟨0x030, .none, false, none, [⟨0, 32, .rw, .const 0, .none⟩]⟩,
  ⟨0x034, .none, false, none, [⟨0, 16, .rw, .const 0, .none⟩]⟩,
  ⟨0x038, .none, false, none, [⟨0, 30, .rw, .const 0, .none⟩]⟩] ++ [
  ⟨0x03c, .none, false, none, [⟨0, 32, .rw, .const 0, .none⟩]⟩,
  ⟨0x040, .none, false, none, [⟨0, 2, .rw, .const 0, .none⟩, ⟨2, 1, .rw, .const 0, .none⟩, ⟨8, 10, .rw, .const 100, .none⟩, ⟨24, 8, .rc, .const 0, .none⟩]⟩,
  ⟨0x048, .roLo, false, none, [⟨0, 32, .ro, .const 0, .none⟩]⟩,
  ⟨0x04c, .roHi, false, none, [⟨0, 32, .ro, .const 0, .none⟩]⟩] }

/-- Registers of block `tcap`. -/
def tcap : RegBlock := { base := 0xb00080, s1 := 16, n1 := 4, s2 := 0, n2 := 1, island := ⟨0x82, 0, 0⟩, rows :=
[
  ⟨0x000, .none, false, none, [⟨0, 1, .rw, .const 0, .none⟩, ⟨1, 1, .wo, .const 0, .none⟩, ⟨2, 3, .ro, .const 0, .none⟩, ⟨5, 1, .w1c, .const 0, .none⟩, ⟨16, 16, .rc, .const 0, .none⟩]⟩,
  ⟨0x004, .roLo, false, none, [⟨0, 32, .ro, .const 0, .none⟩]⟩,
  ⟨0x008, .roHi, false, none, [⟨0, 32, .ro, .const 0, .none⟩]⟩] }

/-- Registers of block `comp`. -/
def comp : RegBlock := { base := 0xb00400, s1 := 32, n1 := 16, s2 := 0, n2 := 1, island := ⟨0x82, 0, 0⟩, rows :=
[
  ⟨0x000, .none, false, none, [⟨0, 1, .rw, .const 0, .none⟩, ⟨1, 1, .rw, .const 0, .none⟩, ⟨16, 16, .rw, .const 0, .none⟩]⟩,
  ⟨0x004, .wLo, false, none, [⟨0, 32, .rw, .const 0, .none⟩]⟩,
  ⟨0x008, .wHi, false, none, [⟨0, 32, .rw, .const 0, .none⟩]⟩,
  ⟨0x00c, .wLo, false, none, [⟨0, 32, .rw, .const 0, .none⟩]⟩,
  ⟨0x010, .wHi, false, none, [⟨0, 32, .rw, .const 0, .none⟩]⟩,
  ⟨0x014, .none, false, none, [⟨0, 1, .ro, .const 0, .none⟩, ⟨1, 1, .w1c, .const 0, .none⟩, ⟨2, 1, .w1c, .const 0, .none⟩, ⟨8, 8, .rc, .const 0, .none⟩, ⟨16, 16, .rc, .const 0, .none⟩]⟩] }

/-- Registers of block `pulse`. -/
def pulse : RegBlock := { base := 0xb00600, s1 := 32, n1 := 4, s2 := 0, n2 := 1, island := ⟨0x82, 0, 0⟩, rows :=
[
  ⟨0x000, .none, false, none, [⟨0, 1, .rw, .const 0, .none⟩, ⟨1, 1, .rw, .const 0, .none⟩, ⟨2, 1, .rw, .const 0, .none⟩, ⟨3, 1, .rw, .const 0, .none⟩, ⟨16, 16, .rw, .const 1, .none⟩]⟩,
  ⟨0x004, .wLo, false, none, [⟨0, 32, .rw, .const 0, .none⟩]⟩,
  ⟨0x008, .wHi, false, none, [⟨0, 32, .rw, .const 0, .none⟩]⟩,
  ⟨0x00c, .none, false, none, [⟨0, 32, .rw, .const 1000, .none⟩]⟩,
  ⟨0x010, .wLo, false, none, [⟨0, 32, .rw, .const 0, .none⟩]⟩,
  ⟨0x014, .wHi, false, none, [⟨0, 32, .rw, .const 0, .none⟩]⟩,
  ⟨0x018, .none, false, none, [⟨0, 1, .ro, .const 0, .none⟩, ⟨1, 1, .w1c, .const 0, .none⟩, ⟨2, 1, .w1c, .const 0, .none⟩, ⟨3, 1, .w1c, .const 0, .none⟩]⟩] }

/-- Registers of block `mac`. -/
def mac : RegBlock := { base := 0xb10000, s1 := 1024, n1 := 16, s2 := 0, n2 := 1, island := ⟨0x83, 4, 2⟩, rows :=
[
  ⟨0x000, .none, false, none, [⟨0, 1, .rw, .const 0, .none⟩, ⟨1, 1, .rw, .const 1, .none⟩]⟩,
  ⟨0x004, .none, false, none, [⟨0, 1, .ro, .const 0, .none⟩, ⟨1, 1, .ro, .const 0, .none⟩, ⟨2, 1, .ro, .const 0, .none⟩, ⟨3, 2, .ro, .const 0, .none⟩, ⟨24, 8, .ro, .island, .none⟩]⟩,
  ⟨0x008, .wLo, false, none, [⟨0, 32, .rw, .const 0, .none⟩]⟩,
  ⟨0x00c, .wHi, false, none, [⟨0, 16, .rw, .const 0, .none⟩]⟩,
  ⟨0x010, .none, false, none, [⟨0, 32, .rw, .const 0, .none⟩]⟩,
  ⟨0x014, .none, false, none, [⟨0, 32, .rw, .const 0, .none⟩]⟩,
  ⟨0x020, .none, false, none, [⟨0, 16, .ro, .const 0, .none⟩, ⟨16, 1, .ro, .const 0, .none⟩, ⟨24, 5, .ro, .const 0, .none⟩, ⟨31, 1, .wo, .const 0, .none⟩]⟩,
  ⟨0x024, .roLo, false, none, [⟨0, 32, .ro, .const 0, .none⟩]⟩,
  ⟨0x028, .roHi, false, none, [⟨0, 32, .ro, .const 0, .none⟩]⟩,
  ⟨0x02c, .none, false, none, [⟨0, 16, .rc, .const 0, .none⟩]⟩,
  ⟨0x040, .none, false, none, [⟨0, 32, .rc, .const 0, .none⟩]⟩,
  ⟨0x044, .none, false, none, [⟨0, 32, .rc, .const 0, .none⟩]⟩] ++ [
  ⟨0x048, .none, false, none, [⟨0, 32, .rc, .const 0, .none⟩]⟩,
  ⟨0x04c, .none, false, none, [⟨0, 32, .rc, .const 0, .none⟩]⟩,
  ⟨0x050, .none, false, none, [⟨0, 32, .rc, .const 0, .none⟩]⟩,
  ⟨0x054, .none, false, none, [⟨0, 32, .rc, .const 0, .none⟩]⟩,
  ⟨0x058, .none, false, none, [⟨0, 32, .rc, .const 0, .none⟩]⟩,
  ⟨0x05c, .none, false, none, [⟨0, 32, .rc, .const 0, .none⟩]⟩] }

/-- Registers of block `netdev`. -/
def netdev : RegBlock := { base := 0xb20000, s1 := 0, n1 := 1, s2 := 0, n2 := 1, island := ⟨0x83, 0, 0⟩, rows :=
[
  ⟨0x000, .none, false, none, [⟨0, 16, .rw, .const 50000, .none⟩]⟩] }

/-- Registers of block `tmplWin`. -/
def tmplWin : RegBlock := { base := 0xb21000, s1 := 4, n1 := 256, s2 := 0, n2 := 1, island := ⟨0x83, 0, 0⟩, rows :=
[
  ⟨0x000, .none, false, none, [⟨0, 32, .rw, .const 0, .none⟩]⟩] }

/-- Registers of block `tmplCtl`. -/
def tmplCtl : RegBlock := { base := 0xb21400, s1 := 4, n1 := 16, s2 := 0, n2 := 1, island := ⟨0x83, 0, 0⟩, rows :=
[
  ⟨0x000, .none, false, none, [⟨0, 6, .rw, .const 42, .none⟩, ⟨6, 1, .rw, .const 1, .none⟩, ⟨7, 1, .rw, .const 0, .none⟩, ⟨8, 1, .w1c, .const 0, .none⟩, ⟨16, 16, .ro, .const 0, .none⟩]⟩] }

/-- Registers of block `stream`. -/
def stream : RegBlock := { base := 0xb22000, s1 := 8, n1 := 256, s2 := 0, n2 := 1, island := ⟨0x83, 0, 0⟩, rows :=
[
  ⟨0x000, .none, false, none, [⟨0, 1, .rw, .const 0, .none⟩, ⟨1, 4, .rw, .const 0, .none⟩, ⟨8, 4, .rw, .const 0, .none⟩, ⟨16, 12, .rw, .const 21, .none⟩]⟩,
  ⟨0x004, .none, false, none, [⟨0, 14, .rw, .const 1472, .none⟩, ⟨16, 16, .rw, .const 100, .none⟩]⟩] }

/-- Registers of block `hbFrame`. -/
def hbFrame : RegBlock := { base := 0x30f000, s1 := 0, n1 := 1, s2 := 0, n2 := 1, island := ⟨0x10, 0, 0⟩, rows :=
[
  ⟨0x000, .none, false, none, [⟨0, 16, .rw, .const 1023, .cm⟩]⟩] }

/-- Registers of block `hbPort`. -/
def hbPort : RegBlock := { base := 0x300000, s1 := 4096, n1 := 12, s2 := 0, n2 := 1, island := ⟨0x10, 1, 0⟩, rows :=
[
  ⟨0x000, .none, false, none, [⟨0, 4, .rw, .const 0, .cm⟩, ⟨4, 1, .rw, .const 1, .cm⟩]⟩,
  ⟨0x004, .none, false, none, [⟨0, 1, .ro, .const 0, .none⟩, ⟨1, 1, .w1c, .const 0, .none⟩, ⟨24, 8, .ro, .island, .none⟩]⟩,
  ⟨0x008, .none, false, none, [⟨0, 24, .rw, .const 100000, .none⟩]⟩,
  ⟨0x020, .none, false, none, [⟨0, 2, .rw, .const 0, .none⟩, ⟨2, 1, .rw, .const 0, .none⟩, ⟨3, 1, .wo, .const 0, .none⟩, ⟨4, 1, .ro, .const 0, .none⟩, ⟨5, 3, .ro, .const 0, .none⟩, ⟨8, 5, .ro, .const 0, .none⟩, ⟨16, 16, .rc, .const 0, .none⟩]⟩,
  ⟨0x024, .none, false, none, [⟨0, 32, .rw, .const 0, .none⟩]⟩,
  ⟨0x028, .none, false, none, [⟨0, 32, .rw, .const 0, .none⟩]⟩] }

/-- Registers of block `hbCam`. -/
def hbCam : RegBlock := { base := 0x300030, s1 := 4096, n1 := 12, s2 := 4, n2 := 4, island := ⟨0x10, 1, 0⟩, rows :=
[
  ⟨0x000, .none, false, none, [⟨0, 1, .ro, .const 0, .none⟩, ⟨1, 1, .ro, .const 0, .none⟩, ⟨2, 1, .w1c, .const 0, .none⟩, ⟨16, 16, .ro, .const 0, .none⟩]⟩] }

/-- Registers of block `hbCh`. -/
def hbCh : RegBlock := { base := 0x300100, s1 := 4096, n1 := 12, s2 := 128, n2 := 4, island := ⟨0x10, 1, 0⟩, rows :=
[
  ⟨0x000, .none, false, none, [⟨0, 15, .rw, .const 0, .cm⟩, ⟨16, 2, .rw, .const 0, .cm⟩]⟩,
  ⟨0x004, .none, false, none, [⟨0, 15, .ro, .const 0, .none⟩, ⟨16, 1, .w1c, .const 0, .none⟩, ⟨17, 1, .w1c, .const 0, .none⟩, ⟨18, 1, .ro, .const 0, .none⟩, ⟨19, 1, .w1c, .const 0, .none⟩, ⟨24, 8, .ro, .island, .none⟩]⟩,
  ⟨0x008, .none, false, none, [⟨0, 15, .rc, .const 0, .none⟩]⟩,
  ⟨0x00c, .none, false, none, [⟨0, 32, .ro, .const 0, .none⟩]⟩,
  ⟨0x010, .none, false, none, [⟨0, 32, .ro, .const 0, .none⟩]⟩,
  ⟨0x020, .none, false, none, [⟨0, 32, .rc, .const 0, .none⟩]⟩,
  ⟨0x024, .none, false, none, [⟨0, 32, .rc, .const 0, .none⟩]⟩,
  ⟨0x028, .none, false, none, [⟨0, 32, .rc, .const 0, .none⟩]⟩,
  ⟨0x02c, .none, false, none, [⟨0, 32, .rc, .const 0, .none⟩]⟩,
  ⟨0x030, .none, false, none, [⟨0, 32, .rc, .const 0, .none⟩]⟩,
  ⟨0x034, .none, false, none, [⟨0, 32, .rc, .const 0, .none⟩]⟩,
  ⟨0x038, .none, false, none, [⟨0, 32, .rc, .const 0, .none⟩]⟩] ++ [
  ⟨0x03c, .none, false, none, [⟨0, 32, .rc, .const 0, .none⟩]⟩,
  ⟨0x040, .none, false, none, [⟨0, 32, .rc, .const 0, .none⟩]⟩,
  ⟨0x044, .none, false, none, [⟨0, 32, .rc, .const 0, .none⟩]⟩,
  ⟨0x048, .none, false, none, [⟨0, 32, .rc, .const 0, .none⟩]⟩,
  ⟨0x04c, .none, false, none, [⟨0, 32, .rc, .const 0, .none⟩]⟩,
  ⟨0x050, .none, false, none, [⟨0, 32, .rc, .const 0, .none⟩]⟩] }

/-- Registers of block `cal`. -/
def cal : RegBlock := { base := 0x400000, s1 := 16384, n1 := 48, s2 := 0, n2 := 1, island := ⟨0x20, 4, 0⟩, rows :=
[
  ⟨0x000, .none, false, none, [⟨0, 1, .rw, .const 1, .shadow⟩, ⟨1, 1, .rw, .const 1, .shadow⟩, ⟨4, 1, .rw, .const 0, .none⟩]⟩,
  ⟨0x004, .none, false, none, [⟨0, 14, .rw, .const 0, .shadow⟩]⟩,
  ⟨0x008, .none, false, none, [⟨0, 32, .rw, .const 0, .shadow⟩]⟩,
  ⟨0x00c, .none, false, none, [⟨0, 18, .rw, .const 65536, .shadow⟩]⟩,
  ⟨0x010, .none, false, none, [⟨0, 15, .rw, .const 0, .cm⟩, ⟨31, 1, .rw, .const 0, .cm⟩]⟩,
  ⟨0x020, .none, false, none, [⟨0, 1, .wo, .const 0, .none⟩, ⟨1, 1, .wo, .const 0, .none⟩, ⟨2, 1, .ro, .const 0, .none⟩, ⟨3, 1, .ro, .const 0, .none⟩, ⟨4, 1, .ro, .const 0, .none⟩, ⟨5, 1, .rw, .const 0, .none⟩, ⟨6, 1, .w1c, .const 0, .none⟩, ⟨16, 16, .rc, .const 0, .none⟩]⟩,
  ⟨0x040, .none, false, none, [⟨0, 1, .w1c, .const 0, .none⟩, ⟨1, 1, .w1c, .const 0, .none⟩, ⟨24, 8, .ro, .island, .none⟩]⟩,
  ⟨0x044, .none, false, none, [⟨0, 32, .ro, .const 0, .none⟩]⟩,
  ⟨0x048, .none, false, none, [⟨0, 17, .ro, .const 0, .none⟩]⟩,
  ⟨0x04c, .none, false, none, [⟨0, 14, .ro, .const 0, .none⟩]⟩,
  ⟨0x060, .none, false, none, [⟨0, 32, .rc, .const 0, .none⟩]⟩,
  ⟨0x064, .none, false, none, [⟨0, 32, .rc, .const 0, .none⟩]⟩] ++ [
  ⟨0x068, .none, false, none, [⟨0, 32, .rc, .const 0, .none⟩]⟩,
  ⟨0x06c, .none, false, none, [⟨0, 32, .rc, .const 0, .none⟩]⟩,
  ⟨0x070, .none, false, none, [⟨0, 32, .rc, .const 0, .none⟩]⟩,
  ⟨0x074, .none, false, none, [⟨0, 32, .rc, .const 0, .none⟩]⟩,
  ⟨0x078, .none, false, none, [⟨0, 32, .rc, .const 0, .none⟩]⟩,
  ⟨0x07c, .none, false, none, [⟨0, 32, .rc, .const 0, .none⟩]⟩,
  ⟨0x100, .none, false, none, [⟨0, 1, .ro, .const 1, .none⟩, ⟨1, 1, .ro, .const 1, .none⟩]⟩,
  ⟨0x104, .none, false, none, [⟨0, 14, .ro, .const 0, .none⟩]⟩,
  ⟨0x108, .none, false, none, [⟨0, 32, .ro, .const 0, .none⟩]⟩,
  ⟨0x10c, .none, false, none, [⟨0, 18, .ro, .const 65536, .none⟩]⟩] }

/-- Registers of block `coef`. -/
def coef : RegBlock := { base := 0x2200000, s1 := 4, n1 := 786432, s2 := 0, n2 := 1, island := ⟨0x20, 65536, 0⟩, rows :=
[
  ⟨0x000, .none, false, none, [⟨0, 32, .rw, .const 16384, .shadow⟩]⟩] }

/-- Registers of block `ridge`. -/
def ridge : RegBlock := { base := 0x600000, s1 := 262144, n1 := 6, s2 := 0, n2 := 1, island := ⟨0x30, 1, 0⟩, rows :=
[
  ⟨0x000, .none, false, none, [⟨0, 1, .rw, .const 1, .none⟩, ⟨1, 1, .wo, .const 0, .none⟩]⟩,
  ⟨0x004, .none, false, none, [⟨0, 2, .ro, .const 0, .none⟩, ⟨2, 1, .ro, .const 0, .none⟩, ⟨3, 4, .ro, .const 0, .none⟩, ⟨7, 4, .ro, .const 0, .none⟩, ⟨11, 1, .ro, .const 0, .none⟩, ⟨24, 8, .ro, .island, .none⟩]⟩,
  ⟨0x008, .none, false, none, [⟨0, 8, .rw, .const 252, .none⟩]⟩,
  ⟨0x00c, .none, false, none, [⟨0, 1, .w1c, .const 0, .none⟩, ⟨1, 1, .w1c, .const 0, .none⟩, ⟨2, 1, .w1c, .const 0, .none⟩, ⟨3, 1, .w1c, .const 0, .none⟩, ⟨4, 1, .w1c, .const 0, .none⟩, ⟨5, 1, .w1c, .const 0, .none⟩, ⟨6, 1, .w1c, .const 0, .none⟩, ⟨7, 1, .w1c, .const 0, .none⟩]⟩,
  ⟨0x010, .none, false, none, [⟨0, 13, .ro, .const 0, .none⟩, ⟨13, 1, .w1c, .const 0, .none⟩, ⟨16, 13, .rc, .const 0, .none⟩]⟩,
  ⟨0x014, .none, false, none, [⟨0, 5, .ro, .const 0, .none⟩, ⟨8, 5, .ro, .const 0, .none⟩, ⟨16, 5, .rc, .const 0, .none⟩, ⟨24, 4, .ro, .const 0, .none⟩, ⟨28, 1, .w1c, .const 0, .none⟩]⟩,
  ⟨0x018, .none, false, none, [⟨0, 18, .ro, .const 0, .none⟩]⟩,
  ⟨0x01c, .none, false, none, [⟨0, 18, .rc, .const 0, .none⟩]⟩,
  ⟨0x020, .none, false, none, [⟨0, 32, .ro, .const 0, .none⟩]⟩,
  ⟨0x024, .none, false, none, [⟨0, 32, .ro, .const 0, .none⟩]⟩,
  ⟨0x040, .none, false, none, [⟨0, 32, .rc, .const 0, .none⟩]⟩,
  ⟨0x044, .none, false, none, [⟨0, 32, .rc, .const 0, .none⟩]⟩] ++ [
  ⟨0x048, .none, false, none, [⟨0, 32, .rc, .const 0, .none⟩]⟩,
  ⟨0x04c, .none, false, none, [⟨0, 32, .rc, .const 0, .none⟩]⟩,
  ⟨0x050, .none, false, none, [⟨0, 32, .rc, .const 0, .none⟩]⟩,
  ⟨0x054, .none, false, none, [⟨0, 32, .rc, .const 0, .none⟩]⟩,
  ⟨0x080, .none, false, none, [⟨0, 16, .rw, .const 100, .none⟩, ⟨16, 7, .rw, .const 20, .none⟩, ⟨24, 5, .rw, .const 16, .none⟩]⟩,
  ⟨0x084, .none, false, none, [⟨0, 3, .ro, .const 6, .none⟩, ⟨3, 1, .ro, .const 0, .none⟩, ⟨4, 4, .ro, .const 15, .none⟩, ⟨8, 4, .ro, .const 0, .none⟩, ⟨12, 4, .ro, .const 15, .none⟩, ⟨16, 7, .ro, .const 0, .none⟩]⟩,
  ⟨0x088, .none, false, none, [⟨0, 32, .ro, .const 1985229328, .none⟩]⟩,
  ⟨0x0a0, .none, false, none, [⟨0, 32, .rc, .const 0, .none⟩]⟩,
  ⟨0x0a4, .none, false, none, [⟨0, 32, .rc, .const 0, .none⟩]⟩,
  ⟨0x0a8, .none, false, none, [⟨0, 32, .rc, .const 0, .none⟩]⟩,
  ⟨0x0ac, .none, false, none, [⟨0, 32, .rc, .const 0, .none⟩]⟩,
  ⟨0x0b0, .none, false, none, [⟨0, 32, .rc, .const 0, .none⟩]⟩] ++ [
  ⟨0x0b4, .none, false, none, [⟨0, 32, .rc, .const 0, .none⟩]⟩,
  ⟨0x0c0, .roLo, false, none, [⟨0, 32, .ro, .const 0, .none⟩]⟩,
  ⟨0x0c4, .roHi, false, none, [⟨0, 32, .ro, .const 0, .none⟩]⟩,
  ⟨0x0c8, .roLo, false, none, [⟨0, 32, .ro, .const 0, .none⟩]⟩,
  ⟨0x0cc, .roHi, false, none, [⟨0, 32, .ro, .const 0, .none⟩]⟩,
  ⟨0x200, .none, false, none, [⟨0, 1, .ro, .const 0, .none⟩]⟩,
  ⟨0x204, .none, false, none, [⟨0, 32, .ro, .const 0, .none⟩]⟩] }

/-- Registers of block `spur`. -/
def spur : RegBlock := { base := 0x600100, s1 := 262144, n1 := 6, s2 := 4, n2 := 9, island := ⟨0x30, 1, 0⟩, rows :=
[
  ⟨0x000, .none, false, none, [⟨0, 3, .ro, .const 0, .none⟩, ⟨3, 4, .ro, .const 15, .none⟩, ⟨7, 1, .ro, .const 0, .none⟩, ⟨8, 3, .ro, .const 0, .none⟩, ⟨11, 2, .ro, .const 0, .none⟩, ⟨16, 16, .rc, .const 0, .none⟩]⟩] }

/-- Registers of block `spurSig`. -/
def spurSig : RegBlock := { base := 0x600140, s1 := 262144, n1 := 6, s2 := 4, n2 := 9, island := ⟨0x30, 1, 0⟩, rows :=
[
  ⟨0x000, .none, false, none, [⟨0, 32, .ro, .const 0, .none⟩]⟩] }

/-- Registers of block `nodeWin`. -/
def nodeWin : RegBlock := { base := 0x601000, s1 := 262144, n1 := 6, s2 := 4, n2 := 128, island := ⟨0x30, 1, 0⟩, rows :=
[
  ⟨0x000, .none, false, none, [⟨0, 32, .rw, .const 0, .mediated⟩]⟩] }

/-- Registers of block `node`. -/
def node : RegBlock := { base := 0x600400, s1 := 262144, n1 := 6, s2 := 64, n2 := 8, island := ⟨0x30, 1, 0⟩, rows :=
[
  ⟨0x000, .none, false, none, [⟨0, 6, .ro, .const 0, .none⟩, ⟨8, 5, .ro, .const 0, .none⟩, ⟨13, 1, .w1c, .const 0, .none⟩, ⟨14, 1, .w1c, .const 0, .none⟩, ⟨15, 1, .w1c, .const 0, .none⟩, ⟨16, 1, .w1c, .const 0, .none⟩, ⟨24, 8, .ro, .island, .none⟩]⟩,
  ⟨0x004, .none, false, none, [⟨0, 21, .ro, .const 0, .none⟩]⟩,
  ⟨0x008, .none, false, none, [⟨0, 16, .ro, .const 0, .none⟩, ⟨16, 16, .rc, .const 0, .none⟩]⟩,
  ⟨0x00c, .none, false, none, [⟨0, 10, .ro, .const 0, .none⟩, ⟨16, 10, .rc, .const 0, .none⟩]⟩,
  ⟨0x010, .none, false, none, [⟨0, 32, .rc, .const 0, .none⟩]⟩,
  ⟨0x014, .none, false, none, [⟨0, 32, .rc, .const 0, .none⟩]⟩,
  ⟨0x018, .none, false, none, [⟨0, 32, .rc, .const 0, .none⟩]⟩,
  ⟨0x01c, .none, false, none, [⟨0, 32, .rc, .const 0, .none⟩]⟩,
  ⟨0x020, .none, false, none, [⟨0, 32, .rc, .const 0, .none⟩]⟩,
  ⟨0x024, .none, false, none, [⟨0, 32, .rc, .const 0, .none⟩]⟩,
  ⟨0x028, .none, false, none, [⟨0, 32, .rc, .const 0, .none⟩]⟩,
  ⟨0x02c, .none, false, none, [⟨0, 32, .rc, .const 0, .none⟩]⟩] }

/-- Registers of block `couch`. -/
def couch : RegBlock := { base := 0x800000, s1 := 0, n1 := 1, s2 := 0, n2 := 1, island := ⟨0x78, 0, 0⟩, rows :=
[
  ⟨0x000, .none, false, none, [⟨0, 1, .rw, .const 0, .none⟩, ⟨1, 2, .rw, .const 0, .cm⟩, ⟨8, 8, .rw, .const 0, .cm⟩, ⟨16, 8, .rw, .const 0, .cm⟩, ⟨24, 2, .rw, .const 0, .cm⟩]⟩,
  ⟨0x004, .none, false, none, [⟨0, 1, .w1c, .const 0, .none⟩, ⟨1, 1, .w1c, .const 0, .none⟩, ⟨2, 1, .w1c, .const 0, .none⟩, ⟨3, 1, .w1c, .const 0, .none⟩, ⟨4, 1, .w1c, .const 0, .none⟩, ⟨5, 1, .w1c, .const 0, .none⟩, ⟨24, 8, .ro, .island, .none⟩]⟩,
  ⟨0x008, .none, false, none, [⟨0, 32, .ro, .const 0, .none⟩]⟩,
  ⟨0x00c, .none, false, none, [⟨0, 24, .ro, .const 0, .none⟩]⟩,
  ⟨0x010, .none, false, none, [⟨0, 16, .rw, .const 200, .none⟩]⟩,
  ⟨0x014, .none, false, none, [⟨0, 14, .ro, .const 0, .none⟩, ⟨16, 11, .ro, .const 0, .none⟩]⟩,
  ⟨0x018, .none, false, none, [⟨0, 17, .ro, .const 0, .none⟩, ⟨17, 8, .ro, .const 0, .none⟩, ⟨25, 1, .ro, .const 0, .none⟩]⟩,
  ⟨0x01c, .none, false, none, [⟨0, 11, .rw, .const 256, .cm⟩, ⟨16, 11, .rw, .const 256, .cm⟩, ⟨27, 2, .rw, .const 1, .none⟩]⟩,
  ⟨0x020, .none, false, none, [⟨0, 5, .rw, .const 0, .cm⟩]⟩,
  ⟨0x400, .none, false, none, [⟨0, 16, .rw, .const 0, .mediated⟩, ⟨16, 1, .wo, .const 0, .mediated⟩, ⟨17, 1, .rw, .const 0, .none⟩, ⟨18, 1, .ro, .const 0, .none⟩, ⟨24, 8, .ro, .const 0, .none⟩]⟩,
  ⟨0x800, .none, false, none, [⟨0, 32, .rc, .const 0, .none⟩]⟩,
  ⟨0x804, .none, false, none, [⟨0, 32, .rc, .const 0, .none⟩]⟩] ++ [
  ⟨0x808, .none, false, none, [⟨0, 32, .rc, .const 0, .none⟩]⟩,
  ⟨0x80c, .none, false, none, [⟨0, 32, .rc, .const 0, .none⟩]⟩,
  ⟨0x810, .none, false, none, [⟨0, 32, .rc, .const 0, .none⟩]⟩,
  ⟨0x814, .none, false, none, [⟨0, 32, .rc, .const 0, .none⟩]⟩,
  ⟨0x818, .none, false, none, [⟨0, 32, .rc, .const 0, .none⟩]⟩,
  ⟨0x81c, .none, false, none, [⟨0, 32, .rc, .const 0, .none⟩]⟩,
  ⟨0x820, .none, false, none, [⟨0, 32, .rc, .const 0, .none⟩]⟩,
  ⟨0x824, .none, false, none, [⟨0, 32, .rc, .const 0, .none⟩]⟩,
  ⟨0x828, .none, false, none, [⟨0, 32, .rc, .const 0, .none⟩]⟩,
  ⟨0x82c, .none, false, none, [⟨0, 32, .rc, .const 0, .none⟩]⟩,
  ⟨0x830, .none, false, none, [⟨0, 32, .rc, .const 0, .none⟩]⟩,
  ⟨0x834, .none, false, none, [⟨0, 32, .rc, .const 0, .none⟩]⟩] }

/-- Registers of block `couchPort`. -/
def couchPort : RegBlock := { base := 0x800100, s1 := 8, n1 := 12, s2 := 0, n2 := 1, island := ⟨0x78, 0, 0⟩, rows :=
[
  ⟨0x000, .none, false, none, [⟨0, 32, .rw, .const 0, .cm⟩]⟩,
  ⟨0x004, .none, false, none, [⟨0, 1, .rw, .const 0, .cm⟩, ⟨1, 1, .ro, .const 0, .none⟩, ⟨16, 16, .ro, .const 0, .none⟩]⟩] }

/-- Registers of block `seam`. -/
def seam : RegBlock := { base := 0x800200, s1 := 16, n1 := 11, s2 := 0, n2 := 1, island := ⟨0x78, 0, 0⟩, rows :=
[
  ⟨0x000, .none, false, none, [⟨0, 4, .rw, .const 0, .cm⟩, ⟨4, 4, .rw, .const 0, .cm⟩, ⟨8, 1, .rw, .const 0, .cm⟩, ⟨16, 8, .rw, .const 2, .cm⟩, ⟨24, 8, .rw, .const 2, .cm⟩]⟩,
  ⟨0x004, .none, false, none, [⟨0, 32, .rw, .const 0, .cm⟩]⟩,
  ⟨0x008, .none, false, none, [⟨0, 32, .rw, .const 0, .cm⟩]⟩,
  ⟨0x00c, .none, false, none, [⟨0, 14, .ro, .const 0, .none⟩, ⟨14, 1, .ro, .const 0, .none⟩]⟩] }

/-- Registers of block `classAct`. -/
def classAct : RegBlock := { base := 0x800500, s1 := 4, n1 := 64, s2 := 0, n2 := 1, island := ⟨0x78, 0, 0⟩, rows :=
[
  ⟨0x000, .none, false, none, [⟨0, 1, .rw, .const 1, .none⟩, ⟨1, 1, .rw, .const 0, .none⟩, ⟨2, 4, .rw, .const 0, .none⟩, ⟨8, 4, .rw, .const 15, .none⟩, ⟨16, 8, .rw, .const 16, .none⟩]⟩] }

/-- Registers of block `mark`. -/
def mark : RegBlock := { base := 0x800700, s1 := 32, n1 := 4, s2 := 0, n2 := 1, island := ⟨0x78, 0, 0⟩, rows :=
[
  ⟨0x000, .none, false, none, [⟨0, 3, .rw, .markUnit, .cm⟩, ⟨3, 1, .rw, .const 0, .none⟩, ⟨4, 1, .w1c, .const 0, .none⟩, ⟨8, 7, .ro, .const 0, .none⟩]⟩,
  ⟨0x004, .wLo, false, none, [⟨0, 32, .rw, .const 0, .none⟩]⟩,
  ⟨0x008, .wHi, false, none, [⟨0, 32, .rw, .const 0, .none⟩]⟩,
  ⟨0x00c, .none, false, none, [⟨0, 32, .rw, .const 0, .none⟩]⟩,
  ⟨0x010, .none, false, none, [⟨0, 16, .rc, .const 0, .none⟩, ⟨16, 16, .rc, .const 0, .none⟩]⟩,
  ⟨0x014, .none, false, none, [⟨0, 16, .rc, .const 0, .none⟩, ⟨16, 16, .rc, .const 0, .none⟩]⟩] }

/-- Registers of block `forest`. -/
def forest : RegBlock := { base := 0x2600000, s1 := 4, n1 := 32768, s2 := 0, n2 := 1, island := ⟨0x79, 0, 0⟩, rows :=
[
  ⟨0x000, .none, false, none, [⟨0, 32, .rw, .const 0, .mediated⟩]⟩] }

/-- Registers of block `stats`. -/
def stats : RegBlock := { base := 0x900000, s1 := 0, n1 := 1, s2 := 0, n2 := 1, island := ⟨0x7A, 0, 0⟩, rows :=
[
  ⟨0x000, .none, false, none, [⟨0, 1, .rw, .const 1, .none⟩, ⟨1, 1, .rw, .const 0, .none⟩]⟩,
  ⟨0x004, .none, false, none, [⟨0, 1, .w1c, .const 0, .none⟩, ⟨8, 9, .ro, .const 0, .none⟩, ⟨24, 8, .ro, .island, .none⟩]⟩,
  ⟨0x008, .none, false, none, [⟨0, 32, .ro, .const 0, .none⟩]⟩,
  ⟨0x200, .none, false, none, [⟨0, 32, .rc, .const 0, .none⟩]⟩,
  ⟨0x204, .none, false, none, [⟨0, 32, .rc, .const 0, .none⟩]⟩,
  ⟨0x208, .none, false, none, [⟨0, 32, .rc, .const 0, .none⟩]⟩] }

/-- Registers of block `statsCh`. -/
def statsCh : RegBlock := { base := 0x900100, s1 := 4, n1 := 48, s2 := 0, n2 := 1, island := ⟨0x7A, 0, 0⟩, rows :=
[
  ⟨0x000, .none, false, none, [⟨0, 1, .rw, .const 1, .none⟩, ⟨1, 1, .rw, .const 0, .none⟩, ⟨2, 1, .ro, .const 0, .none⟩]⟩] }

/-- Registers of block `layout`. -/
def layout : RegBlock := { base := 0xc00000, s1 := 0, n1 := 1, s2 := 0, n2 := 1, island := ⟨0x88, 0, 0⟩, rows :=
[
  ⟨0x000, .none, false, none, [⟨0, 1, .rw, .const 1, .none⟩, ⟨1, 1, .wo, .const 0, .none⟩, ⟨2, 4, .rw, .const 0, .cm⟩]⟩,
  ⟨0x004, .none, false, none, [⟨0, 3, .ro, .const 0, .none⟩, ⟨8, 7, .ro, .const 0, .none⟩, ⟨16, 7, .ro, .const 64, .none⟩, ⟨23, 1, .w1c, .const 0, .none⟩, ⟨24, 8, .ro, .island, .none⟩]⟩,
  ⟨0x008, .none, false, none, [⟨0, 32, .ro, .const 0, .none⟩]⟩,
  ⟨0x00c, .none, false, none, [⟨0, 32, .ro, .const 0, .none⟩]⟩,
  ⟨0x010, .wLo, false, none, [⟨0, 32, .rw, .const 0, .none⟩]⟩,
  ⟨0x014, .wHi, false, none, [⟨0, 32, .rw, .const 0, .none⟩]⟩,
  ⟨0x018, .none, false, none, [⟨0, 32, .rw, .const 0, .none⟩]⟩,
  ⟨0x01c, .none, false, none, [⟨0, 32, .wo, .const 0, .none⟩]⟩,
  ⟨0x020, .none, false, none, [⟨0, 32, .ro, .const 0, .none⟩]⟩,
  ⟨0x024, .none, false, none, [⟨0, 8, .ro, .const 0, .none⟩, ⟨8, 8, .ro, .const 0, .none⟩, ⟨16, 1, .ro, .const 0, .none⟩, ⟨17, 7, .ro, .const 0, .none⟩, ⟨31, 1, .wo, .const 0, .none⟩]⟩,
  ⟨0x028, .none, false, none, [⟨0, 16, .ro, .const 0, .none⟩, ⟨16, 16, .ro, .const 0, .none⟩]⟩,
  ⟨0x02c, .none, false, none, [⟨0, 32, .ro, .const 0, .none⟩]⟩] ++ [
  ⟨0x040, .none, false, none, [⟨0, 16, .ro, .const 0, .none⟩]⟩,
  ⟨0x080, .none, false, none, [⟨0, 16, .rw, .const 50001, .cm⟩]⟩,
  ⟨0x100, .none, false, none, [⟨0, 32, .rc, .const 0, .none⟩]⟩,
  ⟨0x104, .none, false, none, [⟨0, 32, .rc, .const 0, .none⟩]⟩,
  ⟨0x108, .none, false, none, [⟨0, 32, .rc, .const 0, .none⟩]⟩,
  ⟨0x10c, .none, false, none, [⟨0, 32, .rc, .const 0, .none⟩]⟩,
  ⟨0x110, .none, false, none, [⟨0, 32, .rc, .const 0, .none⟩]⟩,
  ⟨0x114, .none, false, none, [⟨0, 32, .rc, .const 0, .none⟩]⟩,
  ⟨0x118, .none, false, none, [⟨0, 32, .rc, .const 0, .none⟩]⟩,
  ⟨0x11c, .none, false, none, [⟨0, 32, .rc, .const 0, .none⟩]⟩] }

/-- Registers of block `lstream`. -/
def lstream : RegBlock := { base := 0xc01000, s1 := 8, n1 := 256, s2 := 0, n2 := 1, island := ⟨0x88, 0, 0⟩, rows :=
[
  ⟨0x000, .none, false, none, [⟨0, 1, .rw, .const 0, .cm⟩, ⟨1, 4, .rw, .const 0, .cm⟩, ⟨8, 4, .rw, .const 0, .cm⟩, ⟨16, 16, .ro, .const 0, .none⟩]⟩,
  ⟨0x004, .none, false, none, [⟨0, 32, .ro, .const 0, .none⟩]⟩] }

/-- Registers of block `mould`. -/
def mould : RegBlock := { base := 0xd00000, s1 := 0, n1 := 1, s2 := 0, n2 := 1, island := ⟨0x89, 0, 0⟩, rows :=
[
  ⟨0x000, .none, false, none, [⟨0, 1, .wo, .const 0, .mediated⟩, ⟨1, 1, .rw, .const 0, .none⟩, ⟨2, 1, .ro, .const 0, .none⟩, ⟨24, 8, .ro, .const 0, .none⟩]⟩,
  ⟨0x004, .none, false, none, [⟨0, 2, .ro, .const 0, .none⟩, ⟨24, 8, .ro, .island, .none⟩]⟩,
  ⟨0x008, .none, false, none, [⟨0, 32, .ro, .const 0, .none⟩]⟩,
  ⟨0x00c, .none, false, none, [⟨0, 32, .ro, .const 0, .none⟩]⟩,
  ⟨0x010, .none, false, none, [⟨0, 32, .ro, .const 0, .none⟩]⟩,
  ⟨0x014, .none, false, none, [⟨0, 32, .rc, .const 0, .none⟩]⟩,
  ⟨0x040, .none, false, none, [⟨0, 32, .rc, .const 0, .none⟩]⟩,
  ⟨0x044, .none, false, none, [⟨0, 32, .rc, .const 0, .none⟩]⟩,
  ⟨0x048, .none, false, none, [⟨0, 32, .rc, .const 0, .none⟩]⟩,
  ⟨0x04c, .none, false, none, [⟨0, 32, .rc, .const 0, .none⟩]⟩,
  ⟨0x050, .none, false, none, [⟨0, 32, .rc, .const 0, .none⟩]⟩] }

/-- Registers of block `wm`. -/
def wm : RegBlock := { base := 0xd08000, s1 := 0, n1 := 1, s2 := 0, n2 := 1, island := ⟨0x8A, 0, 0⟩, rows :=
[
  ⟨0x000, .none, false, none, [⟨0, 2, .ro, .const 0, .none⟩, ⟨2, 1, .w1c, .const 0, .none⟩, ⟨3, 1, .w1c, .const 0, .none⟩, ⟨24, 8, .ro, .island, .none⟩]⟩,
  ⟨0x010, .none, false, none, [⟨0, 32, .ro, .const 0, .none⟩]⟩,
  ⟨0x014, .none, false, none, [⟨0, 32, .ro, .const 0, .none⟩]⟩,
  ⟨0x018, .roLo, false, none, [⟨0, 32, .ro, .const 0, .none⟩]⟩,
  ⟨0x01c, .roHi, false, none, [⟨0, 32, .ro, .const 0, .none⟩]⟩,
  ⟨0x020, .roLo, false, none, [⟨0, 32, .ro, .const 0, .none⟩]⟩,
  ⟨0x024, .roHi, false, none, [⟨0, 32, .ro, .const 0, .none⟩]⟩,
  ⟨0x040, .none, false, none, [⟨0, 32, .rc, .const 0, .none⟩]⟩,
  ⟨0x044, .none, false, none, [⟨0, 32, .rc, .const 0, .none⟩]⟩,
  ⟨0x048, .none, false, none, [⟨0, 32, .rc, .const 0, .none⟩]⟩,
  ⟨0x04c, .none, false, none, [⟨0, 32, .rc, .const 0, .none⟩]⟩,
  ⟨0x050, .none, false, none, [⟨0, 32, .rc, .const 0, .none⟩]⟩] }

/-- Registers of block `dose`. -/
def dose : RegBlock := { base := 0x2700000, s1 := 4, n1 := 256, s2 := 0, n2 := 1, island := ⟨0x89, 0, 0⟩, rows :=
[
  ⟨0x000, .none, false, none, [⟨0, 9, .rw, .const 0, .mediated⟩, ⟨31, 1, .rw, .const 0, .mediated⟩]⟩] }

/-- Registers of block `laid`. -/
def laid : RegBlock := { base := 0xe00000, s1 := 0, n1 := 1, s2 := 0, n2 := 1, island := ⟨0x90, 0, 0⟩, rows :=
[
  ⟨0x000, .none, false, none, [⟨0, 1, .rw, .const 1, .none⟩, ⟨1, 2, .rw, .const 0, .cm⟩, ⟨8, 8, .rw, .const 0, .cm⟩]⟩,
  ⟨0x004, .none, false, none, [⟨0, 3, .ro, .const 0, .none⟩, ⟨3, 1, .ro, .const 0, .none⟩, ⟨4, 1, .ro, .const 0, .none⟩, ⟨8, 4, .ro, .const 0, .none⟩, ⟨24, 8, .ro, .island, .none⟩]⟩,
  ⟨0x008, .none, false, none, [⟨0, 1, .wo, .const 0, .none⟩, ⟨1, 1, .wo, .const 0, .none⟩, ⟨8, 3, .ro, .const 0, .none⟩, ⟨11, 1, .w1c, .const 0, .none⟩]⟩,
  ⟨0x00c, .none, false, none, [⟨0, 32, .rw, .const 0, .shadow⟩]⟩,
  ⟨0x010, .none, false, none, [⟨0, 24, .rw, .const 64, .shadow⟩]⟩,
  ⟨0x018, .wLo, false, none, [⟨0, 32, .rw, .const 0, .shadow⟩]⟩,
  ⟨0x01c, .wHi, false, none, [⟨0, 16, .rw, .const 0, .shadow⟩]⟩,
  ⟨0x020, .none, false, none, [⟨0, 32, .ro, .const 0, .none⟩]⟩,
  ⟨0x024, .none, false, none, [⟨0, 1, .w1c, .const 0, .none⟩, ⟨1, 1, .ro, .const 0, .none⟩, ⟨2, 1, .w1c, .const 0, .none⟩, ⟨3, 1, .w1c, .const 0, .none⟩, ⟨4, 1, .w1c, .const 0, .none⟩, ⟨24, 8, .ro, .island, .none⟩]⟩,
  ⟨0x028, .none, false, none, [⟨0, 32, .ro, .const 0, .none⟩]⟩,
  ⟨0x02c, .none, false, none, [⟨0, 32, .ro, .const 0, .none⟩]⟩,
  ⟨0x030, .none, false, none, [⟨0, 32, .rc, .const 0, .none⟩]⟩] ++ [
  ⟨0x034, .none, false, none, [⟨0, 12, .ro, .const 0, .none⟩, ⟨12, 10, .ro, .const 0, .none⟩, ⟨22, 10, .ro, .const 0, .none⟩]⟩,
  ⟨0x038, .none, false, none, [⟨0, 32, .ro, .const 0, .none⟩]⟩,
  ⟨0x03c, .none, false, none, [⟨0, 15, .ro, .const 0, .none⟩, ⟨16, 1, .w1c, .const 0, .none⟩]⟩,
  ⟨0x050, .none, false, none, [⟨0, 9, .ro, .const 0, .none⟩]⟩,
  ⟨0x080, .none, false, none, [⟨0, 32, .rc, .const 0, .none⟩]⟩,
  ⟨0x084, .none, false, none, [⟨0, 32, .rc, .const 0, .none⟩]⟩,
  ⟨0x088, .none, false, none, [⟨0, 32, .rc, .const 0, .none⟩]⟩,
  ⟨0x08c, .none, false, none, [⟨0, 32, .rc, .const 0, .none⟩]⟩,
  ⟨0x090, .none, false, none, [⟨0, 32, .rc, .const 0, .none⟩]⟩,
  ⟨0x094, .none, false, none, [⟨0, 32, .rc, .const 0, .none⟩]⟩,
  ⟨0x098, .none, false, none, [⟨0, 32, .rc, .const 0, .none⟩]⟩,
  ⟨0x09c, .none, false, none, [⟨0, 32, .rc, .const 0, .none⟩]⟩] ++ [
  ⟨0x0a0, .none, false, none, [⟨0, 32, .rc, .const 0, .none⟩]⟩,
  ⟨0x0a4, .none, false, none, [⟨0, 32, .rc, .const 0, .none⟩]⟩,
  ⟨0x0a8, .none, false, none, [⟨0, 32, .rc, .const 0, .none⟩]⟩,
  ⟨0x0ac, .none, false, none, [⟨0, 32, .rc, .const 0, .none⟩]⟩,
  ⟨0x0b0, .none, false, none, [⟨0, 32, .rc, .const 0, .none⟩]⟩,
  ⟨0x0b4, .none, false, none, [⟨0, 32, .rc, .const 0, .none⟩]⟩] }

/-- Registers of block `vatSkew`. -/
def vatSkew : RegBlock := { base := 0xe00100, s1 := 4, n1 := 8, s2 := 0, n2 := 1, island := ⟨0x90, 0, 0⟩, rows :=
[
  ⟨0x000, .none, false, none, [⟨0, 12, .rw, .const 0, .shadow⟩]⟩] }

/-- Registers of block `vatRow`. -/
def vatRow : RegBlock := { base := 0xe01000, s1 := 4, n1 := 528, s2 := 0, n2 := 1, island := ⟨0x90, 0, 0⟩, rows :=
[
  ⟨0x000, .none, false, none, [⟨0, 12, .rw, .const 0, .shadow⟩]⟩] }

/-- Registers of block `laidFloor`. -/
def laidFloor : RegBlock := { base := 0xe02000, s1 := 4, n1 := 64, s2 := 0, n2 := 1, island := ⟨0x90, 0, 0⟩, rows :=
[
  ⟨0x000, .none, false, none, [⟨0, 32, .ro, .const 0, .none⟩]⟩] }

/-- Registers of block `laidCh`. -/
def laidCh : RegBlock := { base := 0xe03000, s1 := 16, n1 := 48, s2 := 0, n2 := 1, island := ⟨0x10, 4, 0⟩, rows :=
[
  ⟨0x000, .none, false, none, [⟨0, 1, .ro, .const 0, .none⟩, ⟨1, 1, .w1c, .const 0, .none⟩, ⟨2, 1, .w1c, .const 0, .none⟩, ⟨8, 8, .ro, .const 0, .none⟩, ⟨24, 8, .ro, .island, .none⟩]⟩,
  ⟨0x004, .none, false, none, [⟨0, 16, .rc, .const 0, .none⟩, ⟨16, 16, .rc, .const 0, .none⟩]⟩,
  ⟨0x008, .none, false, none, [⟨0, 16, .ro, .const 0, .none⟩]⟩] }

/-- Registers of block `bot`. -/
def bot : RegBlock := { base := 0x2000000, s1 := 4, n1 := 270336, s2 := 0, n2 := 1, island := ⟨0x8B, 0, 0⟩, rows :=
[
  ⟨0x000, .none, false, none, [⟨0, 12, .rw, .const 0, .mediated⟩]⟩] }

/-- Registers of block `scree`. -/
def scree : RegBlock := { base := 0xf00000, s1 := 0, n1 := 1, s2 := 0, n2 := 1, island := ⟨0x8B, 0, 0⟩, rows :=
[
  ⟨0x000, .none, false, none, [⟨0, 1, .rw, .const 1, .none⟩, ⟨1, 1, .rw, .const 1, .none⟩, ⟨2, 1, .rw, .const 0, .none⟩, ⟨3, 1, .wo, .const 0, .none⟩, ⟨4, 1, .rw, .const 1, .none⟩, ⟨5, 1, .rw, .const 1, .none⟩, ⟨6, 1, .rw, .const 0, .none⟩, ⟨7, 3, .rw, .const 2, .none⟩]⟩,
  ⟨0x004, .none, false, none, [⟨0, 2, .ro, .const 0, .none⟩, ⟨2, 1, .ro, .const 0, .none⟩, ⟨3, 1, .ro, .const 0, .none⟩, ⟨4, 1, .w1c, .const 0, .none⟩, ⟨5, 1, .ro, .const 0, .none⟩, ⟨6, 1, .ro, .const 0, .none⟩, ⟨7, 1, .w1c, .const 0, .none⟩, ⟨8, 1, .w1c, .const 0, .none⟩, ⟨9, 1, .ro, .const 0, .none⟩, ⟨10, 1, .w1c, .const 0, .none⟩, ⟨16, 8, .ro, .const 0, .none⟩, ⟨24, 8, .ro, .island, .none⟩]⟩,
  ⟨0x008, .none, false, none, [⟨0, 14, .rw, .const 12500, .none⟩, ⟨16, 14, .rw, .const 6, .none⟩]⟩,
  ⟨0x00c, .none, false, none, [⟨0, 14, .rw, .const 250, .none⟩, ⟨16, 14, .rw, .const 1250, .none⟩]⟩,
  ⟨0x010, .none, false, none, [⟨0, 16, .rw, .const 400, .none⟩, ⟨16, 16, .rw, .const 1000, .none⟩]⟩,
  ⟨0x014, .none, false, none, [⟨0, 8, .ro, .const 0, .none⟩, ⟨8, 8, .ro, .const 0, .none⟩, ⟨16, 16, .ro, .const 0, .none⟩]⟩,
  ⟨0x020, .none, false, none, [⟨0, 8, .rw, .const 80, .none⟩, ⟨8, 8, .rw, .const 95, .none⟩, ⟨16, 8, .rw, .const 5, .none⟩, ⟨24, 8, .rw, .const 10, .none⟩]⟩,
  ⟨0x024, .none, false, none, [⟨0, 8, .ro, .const 128, .none⟩, ⟨8, 6, .ro, .const 0, .none⟩]⟩,
  ⟨0x030, .none, false, none, [⟨0, 1, .wo, .const 0, .mediated⟩]⟩,
  ⟨0x034, .none, false, none, [⟨0, 10, .ro, .const 0, .none⟩, ⟨16, 9, .ro, .const 0, .none⟩]⟩,
  ⟨0x038, .none, false, none, [⟨0, 4, .rw, .const 4, .none⟩]⟩,
  ⟨0x040, .none, false, none, [⟨0, 6, .rw, .const 0, .none⟩, ⟨6, 1, .rw, .const 0, .none⟩, ⟨7, 1, .wo, .const 0, .none⟩, ⟨8, 1, .ro, .const 0, .none⟩, ⟨9, 3, .ro, .const 0, .none⟩, ⟨12, 5, .ro, .const 0, .none⟩, ⟨24, 8, .rc, .const 0, .none⟩]⟩] ++ [
  ⟨0x044, .none, false, none, [⟨0, 32, .rw, .const 0, .none⟩]⟩,
  ⟨0x048, .none, false, none, [⟨0, 32, .rw, .const 0, .none⟩]⟩,
  ⟨0x100, .none, false, none, [⟨0, 32, .rc, .const 0, .none⟩]⟩,
  ⟨0x104, .none, false, none, [⟨0, 32, .rc, .const 0, .none⟩]⟩,
  ⟨0x108, .none, false, none, [⟨0, 32, .rc, .const 0, .none⟩]⟩,
  ⟨0x10c, .none, false, none, [⟨0, 32, .rc, .const 0, .none⟩]⟩,
  ⟨0x110, .none, false, none, [⟨0, 32, .rc, .const 0, .none⟩]⟩,
  ⟨0x114, .none, false, none, [⟨0, 32, .rc, .const 0, .none⟩]⟩,
  ⟨0x118, .none, false, none, [⟨0, 32, .rc, .const 0, .none⟩]⟩,
  ⟨0x11c, .none, false, none, [⟨0, 32, .rc, .const 0, .none⟩]⟩,
  ⟨0x120, .none, false, none, [⟨0, 32, .rc, .const 0, .none⟩]⟩,
  ⟨0x124, .none, false, none, [⟨0, 32, .rc, .const 0, .none⟩]⟩] }

/-- Registers of block `screeBc`. -/
def screeBc : RegBlock := { base := 0xf00200, s1 := 4, n1 := 48, s2 := 0, n2 := 1, island := ⟨0x10, 4, 0⟩, rows :=
[
  ⟨0x000, .none, false, none, [⟨0, 9, .ro, .const 0, .none⟩, ⟨9, 1, .w1c, .const 0, .none⟩, ⟨16, 9, .rc, .const 0, .none⟩]⟩] }

/-- Registers of block `screeCol`. -/
def screeCol : RegBlock := { base := 0xf01000, s1 := 4, n1 := 512, s2 := 0, n2 := 1, island := ⟨0x8B, 0, 0⟩, rows :=
[
  ⟨0x000, .none, false, none, [⟨0, 10, .ro, .const 0, .none⟩, ⟨10, 10, .ro, .const 0, .none⟩, ⟨20, 10, .ro, .const 511, .none⟩, ⟨30, 1, .ro, .const 0, .none⟩, ⟨31, 1, .ro, .const 0, .none⟩]⟩] }

/-- Registers of block `health`. -/
def health : RegBlock := { base := 0xf40000, s1 := 4, n1 := 135168, s2 := 0, n2 := 1, island := ⟨0x8B, 0, 0⟩, rows :=
[
  ⟨0x000, .none, false, none, [⟨0, 2, .ro, .const 0, .none⟩, ⟨2, 2, .rw, .const 0, .none⟩, ⟨4, 12, .ro, .const 0, .none⟩, ⟨16, 2, .ro, .const 0, .none⟩, ⟨18, 2, .rw, .const 0, .none⟩, ⟨20, 12, .ro, .const 0, .none⟩]⟩] }

/-- Registers of block `ream`. -/
def ream : RegBlock := { base := 0x1000000, s1 := 4096, n1 := 4, s2 := 0, n2 := 1, island := ⟨0xA0, 1, 0⟩, rows :=
[
  ⟨0x000, .none, false, none, [⟨0, 1, .rw, .const 0, .none⟩, ⟨1, 1, .rw, .const 0, .cm⟩]⟩,
  ⟨0x004, .none, false, none, [⟨0, 2, .ro, .const 0, .none⟩, ⟨2, 1, .ro, .const 0, .none⟩, ⟨3, 1, .ro, .const 0, .none⟩, ⟨4, 1, .ro, .const 0, .none⟩, ⟨5, 1, .ro, .const 0, .none⟩, ⟨24, 8, .ro, .island, .none⟩]⟩,
  ⟨0x008, .none, false, none, [⟨0, 14, .rw, .const 200, .none⟩]⟩,
  ⟨0x010, .wLo, false, none, [⟨0, 32, .rw, .const 0, .none⟩]⟩,
  ⟨0x014, .wHi, false, none, [⟨0, 32, .rw, .const 0, .none⟩]⟩,
  ⟨0x018, .none, false, none, [⟨0, 17, .rw, .const 16, .none⟩]⟩,
  ⟨0x01c, .none, false, none, [⟨0, 32, .rw, .const 0, .none⟩]⟩,
  ⟨0x020, .none, false, none, [⟨0, 32, .ro, .const 0, .none⟩]⟩,
  ⟨0x024, .none, false, none, [⟨0, 32, .ro, .const 0, .none⟩]⟩,
  ⟨0x028, .none, false, none, [⟨0, 1, .w1c, .const 0, .none⟩]⟩,
  ⟨0x030, .none, false, none, [⟨0, 8, .ro, .const 0, .none⟩, ⟨8, 8, .ro, .const 0, .none⟩, ⟨16, 2, .ro, .const 0, .none⟩]⟩,
  ⟨0x034, .none, false, none, [⟨0, 16, .ro, .const 0, .none⟩]⟩] ++ [
  ⟨0x038, .none, false, none, [⟨0, 32, .ro, .const 0, .none⟩]⟩,
  ⟨0x040, .none, false, none, [⟨0, 32, .rc, .const 0, .none⟩]⟩,
  ⟨0x044, .none, false, none, [⟨0, 32, .rc, .const 0, .none⟩]⟩,
  ⟨0x048, .none, false, none, [⟨0, 32, .rc, .const 0, .none⟩]⟩,
  ⟨0x04c, .none, false, none, [⟨0, 32, .rc, .const 0, .none⟩]⟩,
  ⟨0x050, .none, false, none, [⟨0, 32, .rc, .const 0, .none⟩]⟩,
  ⟨0x054, .none, false, none, [⟨0, 32, .rc, .const 0, .none⟩]⟩,
  ⟨0x058, .none, false, none, [⟨0, 32, .rc, .const 0, .none⟩]⟩,
  ⟨0x05c, .none, false, none, [⟨0, 32, .rc, .const 0, .none⟩]⟩,
  ⟨0x060, .none, false, none, [⟨0, 32, .rc, .const 0, .none⟩]⟩] }

/-- Registers of block `hbm`. -/
def hbm : RegBlock := { base := 0x1100000, s1 := 0, n1 := 1, s2 := 0, n2 := 1, island := ⟨0xB0, 0, 0⟩, rows :=
[
  ⟨0x000, .none, false, none, [⟨0, 2, .ro, .const 0, .none⟩, ⟨2, 3, .ro, .const 0, .none⟩, ⟨8, 6, .ro, .const 0, .none⟩, ⟨14, 2, .ro, .const 0, .none⟩, ⟨16, 1, .ro, .const 0, .none⟩, ⟨17, 1, .ro, .const 0, .none⟩, ⟨24, 8, .ro, .island, .none⟩]⟩,
  ⟨0x004, .none, true, none, [⟨0, 2, .ro, .const 0, .none⟩, ⟨16, 16, .ro, .const 0, .none⟩]⟩,
  ⟨0x008, .none, false, none, [⟨0, 8, .rw, .const 0, .none⟩, ⟨16, 16, .rw, .const 100, .none⟩]⟩,
  ⟨0x00c, .none, false, none, [⟨0, 16, .ro, .const 0, .none⟩, ⟨16, 16, .ro, .const 0, .none⟩]⟩,
  ⟨0x010, .none, false, none, [⟨0, 8, .ro, .const 128, .none⟩, ⟨8, 8, .ro, .const 128, .none⟩]⟩,
  ⟨0x018, .roLo, false, none, [⟨0, 32, .ro, .const 0, .none⟩]⟩,
  ⟨0x01c, .roHi, false, none, [⟨0, 4, .ro, .const 0, .none⟩]⟩,
  ⟨0x020, .none, false, none, [⟨0, 6, .ro, .const 0, .none⟩, ⟨6, 1, .ro, .const 0, .none⟩, ⟨16, 16, .rc, .const 0, .none⟩]⟩,
  ⟨0x040, .none, false, none, [⟨0, 32, .rc, .const 0, .none⟩]⟩,
  ⟨0x044, .none, false, none, [⟨0, 32, .rc, .const 0, .none⟩]⟩,
  ⟨0x048, .none, false, none, [⟨0, 32, .rc, .const 0, .none⟩]⟩,
  ⟨0x04c, .none, false, none, [⟨0, 32, .rc, .const 0, .none⟩]⟩] ++ [
  ⟨0x050, .none, false, none, [⟨0, 32, .rc, .const 0, .none⟩]⟩,
  ⟨0x054, .none, false, none, [⟨0, 32, .rc, .const 0, .none⟩]⟩,
  ⟨0x058, .none, false, none, [⟨0, 32, .rc, .const 0, .none⟩]⟩,
  ⟨0x05c, .none, false, none, [⟨0, 32, .rc, .const 0, .none⟩]⟩,
  ⟨0x060, .none, false, none, [⟨0, 32, .rc, .const 0, .none⟩]⟩,
  ⟨0x064, .none, false, none, [⟨0, 32, .rc, .const 0, .none⟩]⟩,
  ⟨0x068, .none, false, none, [⟨0, 32, .rc, .const 0, .none⟩]⟩,
  ⟨0x06c, .none, false, none, [⟨0, 32, .rc, .const 0, .none⟩]⟩] }

/-- Registers of block `hbmPort`. -/
def hbmPort : RegBlock := { base := 0x1100100, s1 := 4, n1 := 19, s2 := 0, n2 := 1, island := ⟨0xB0, 0, 0⟩, rows :=
[
  ⟨0x000, .none, false, none, [⟨0, 20, .rw, .portTarget, .none⟩]⟩] }

/-- Registers of block `hbmPortS`. -/
def hbmPortS : RegBlock := { base := 0x1100200, s1 := 4, n1 := 19, s2 := 0, n2 := 1, island := ⟨0xB0, 0, 0⟩, rows :=
[
  ⟨0x000, .none, false, none, [⟨0, 16, .rc, .const 0, .none⟩, ⟨16, 16, .rc, .const 0, .none⟩]⟩] }

/-- Registers of block `hbmPc`. -/
def hbmPc : RegBlock := { base := 0x1101000, s1 := 16, n1 := 64, s2 := 0, n2 := 1, island := ⟨0xB0, 4, 0⟩, rows :=
[
  ⟨0x000, .none, false, none, [⟨0, 3, .ro, .const 0, .none⟩, ⟨3, 1, .ro, .const 0, .none⟩, ⟨4, 1, .w1c, .const 0, .none⟩, ⟨5, 1, .ro, .const 0, .none⟩, ⟨8, 7, .ro, .const 0, .none⟩, ⟨16, 7, .ro, .const 0, .none⟩, ⟨24, 8, .ro, .island, .none⟩]⟩,
  ⟨0x004, .none, false, none, [⟨0, 32, .rc, .const 0, .none⟩]⟩] }

/-- Registers of block `hbmLog`. -/
def hbmLog : RegBlock := { base := 0x1104000, s1 := 4, n1 := 256, s2 := 0, n2 := 1, island := ⟨0xB0, 0, 0⟩, rows :=
[
  ⟨0x000, .none, false, none, [⟨0, 32, .ro, .const 0, .none⟩]⟩] }

/-- Registers of block `host`. -/
def host : RegBlock := { base := 0x1200000, s1 := 0, n1 := 1, s2 := 0, n2 := 1, island := ⟨0xC0, 0, 0⟩, rows :=
[
  ⟨0x000, .none, false, none, [⟨0, 3, .ro, .const 0, .none⟩, ⟨3, 4, .ro, .const 0, .none⟩, ⟨7, 1, .ro, .const 0, .none⟩, ⟨8, 1, .ro, .const 0, .none⟩, ⟨9, 1, .ro, .const 0, .none⟩, ⟨24, 8, .ro, .island, .none⟩]⟩,
  ⟨0x010, .none, false, none, [⟨0, 1, .rw, .const 0, .none⟩, ⟨1, 1, .w1c, .const 0, .none⟩]⟩,
  ⟨0x014, .wLo, false, none, [⟨0, 32, .rw, .const 0, .none⟩]⟩,
  ⟨0x018, .wHi, false, none, [⟨0, 32, .rw, .const 0, .none⟩]⟩,
  ⟨0x01c, .none, false, none, [⟨0, 32, .rw, .const 0, .none⟩]⟩,
  ⟨0x020, .none, false, none, [⟨0, 32, .ro, .const 0, .none⟩]⟩,
  ⟨0x024, .none, false, none, [⟨0, 32, .ro, .const 0, .none⟩]⟩,
  ⟨0x028, .none, false, none, [⟨0, 32, .ro, .const 0, .none⟩]⟩,
  ⟨0x02c, .none, false, none, [⟨0, 32, .ro, .const 0, .none⟩]⟩,
  ⟨0x030, .none, false, none, [⟨0, 16, .rc, .const 0, .none⟩, ⟨16, 16, .rc, .const 0, .none⟩]⟩,
  ⟨0x034, .none, false, none, [⟨0, 13, .ro, .const 0, .none⟩]⟩,
  ⟨0x040, .none, false, none, [⟨0, 1, .wo, .const 0, .none⟩, ⟨1, 1, .ro, .const 0, .none⟩]⟩] ++ [
  ⟨0x080, .none, false, none, [⟨0, 32, .ro, .const 0, .none⟩]⟩,
  ⟨0x084, .none, false, none, [⟨0, 32, .ro, .const 0, .none⟩]⟩,
  ⟨0x088, .none, false, none, [⟨0, 32, .ro, .const 0, .none⟩]⟩,
  ⟨0x08c, .none, false, none, [⟨0, 32, .ro, .const 0, .none⟩]⟩,
  ⟨0x090, .none, false, none, [⟨0, 32, .ro, .const 0, .none⟩]⟩,
  ⟨0x094, .none, false, none, [⟨0, 32, .ro, .const 0, .none⟩]⟩,
  ⟨0x098, .none, false, none, [⟨0, 32, .ro, .const 0, .none⟩]⟩,
  ⟨0x09c, .none, false, none, [⟨0, 32, .ro, .const 0, .none⟩]⟩,
  ⟨0x0a0, .none, false, none, [⟨0, 32, .ro, .const 0, .none⟩]⟩,
  ⟨0x0a4, .none, false, none, [⟨0, 32, .ro, .const 0, .none⟩]⟩,
  ⟨0x0a8, .none, false, none, [⟨0, 32, .ro, .const 0, .none⟩]⟩,
  ⟨0x0ac, .none, false, none, [⟨0, 32, .ro, .const 0, .none⟩]⟩] ++ [
  ⟨0x0b0, .none, false, none, [⟨0, 32, .ro, .const 0, .none⟩]⟩,
  ⟨0x0b4, .none, false, none, [⟨0, 32, .ro, .const 0, .none⟩]⟩,
  ⟨0x0b8, .none, false, none, [⟨0, 32, .ro, .const 0, .none⟩]⟩,
  ⟨0x0bc, .none, false, none, [⟨0, 32, .ro, .const 0, .none⟩]⟩,
  ⟨0x300, .none, false, none, [⟨0, 1, .rw, .const 0, .none⟩, ⟨16, 16, .rc, .const 0, .none⟩]⟩,
  ⟨0x304, .wLo, false, none, [⟨0, 32, .rw, .const 0, .none⟩]⟩,
  ⟨0x308, .wHi, false, none, [⟨0, 32, .rw, .const 0, .none⟩]⟩,
  ⟨0x30c, .none, false, none, [⟨0, 11, .rw, .const 16, .none⟩]⟩,
  ⟨0x310, .none, false, none, [⟨0, 32, .rw, .const 0, .none⟩]⟩,
  ⟨0x314, .none, false, none, [⟨0, 32, .ro, .const 0, .none⟩]⟩] }

/-- Registers of block `oring`. -/
def oring : RegBlock := { base := 0x1200100, s1 := 64, n1 := 6, s2 := 0, n2 := 1, island := ⟨0xC0, 0, 0⟩, rows :=
[
  ⟨0x000, .none, false, none, [⟨0, 1, .rw, .const 0, .none⟩, ⟨1, 2, .rw, .const 0, .none⟩, ⟨3, 1, .w1c, .const 0, .none⟩, ⟨4, 1, .ro, .const 0, .none⟩]⟩,
  ⟨0x004, .wLo, false, none, [⟨0, 32, .rw, .const 0, .none⟩]⟩,
  ⟨0x008, .wHi, false, none, [⟨0, 32, .rw, .const 0, .none⟩]⟩,
  ⟨0x00c, .none, false, none, [⟨0, 31, .rw, .const 16, .none⟩]⟩,
  ⟨0x010, .none, false, none, [⟨0, 32, .ro, .const 0, .none⟩]⟩,
  ⟨0x014, .none, false, none, [⟨0, 32, .rw, .const 0, .none⟩]⟩,
  ⟨0x018, .wLo, false, none, [⟨0, 32, .rw, .const 0, .none⟩]⟩,
  ⟨0x01c, .wHi, false, none, [⟨0, 32, .rw, .const 0, .none⟩]⟩,
  ⟨0x020, .none, false, none, [⟨0, 32, .rc, .const 0, .none⟩]⟩,
  ⟨0x024, .none, false, none, [⟨0, 16, .rw, .const 1, .none⟩, ⟨16, 16, .rw, .const 0, .none⟩]⟩] }

/-- Registers of block `dma`. -/
def dma : RegBlock := { base := 0x1201000, s1 := 64, n1 := 32, s2 := 0, n2 := 1, island := ⟨0xC1, 0, 0⟩, rows :=
[
  ⟨0x000, .none, false, none, [⟨0, 1, .wo, .const 0, .none⟩, ⟨1, 1, .wo, .const 0, .none⟩, ⟨2, 1, .rw, .const 0, .none⟩]⟩,
  ⟨0x004, .none, false, none, [⟨0, 3, .ro, .const 0, .none⟩, ⟨3, 4, .ro, .const 0, .none⟩, ⟨7, 1, .w1c, .const 0, .none⟩, ⟨8, 1, .w1c, .const 0, .none⟩, ⟨24, 8, .ro, .island, .none⟩]⟩,
  ⟨0x008, .wLo, false, none, [⟨0, 32, .rw, .const 0, .none⟩]⟩,
  ⟨0x00c, .wHi, false, none, [⟨0, 32, .rw, .const 0, .none⟩]⟩,
  ⟨0x010, .none, false, none, [⟨0, 24, .rw, .const 65535, .none⟩]⟩,
  ⟨0x014, .none, false, none, [⟨0, 24, .ro, .const 0, .none⟩]⟩,
  ⟨0x018, .roLo, false, none, [⟨0, 32, .ro, .const 0, .none⟩]⟩,
  ⟨0x01c, .roHi, false, none, [⟨0, 32, .ro, .const 0, .none⟩]⟩,
  ⟨0x020, .none, false, none, [⟨0, 32, .rc, .const 0, .none⟩]⟩] }

/-- Registers of block `msix`. -/
def msix : RegBlock := { base := 0x12f0000, s1 := 4, n1 := 256, s2 := 0, n2 := 1, island := ⟨0xC0, 0, 0⟩, rows :=
[
  ⟨0x000, .none, false, none, [⟨0, 32, .rw, .msixMask, .none⟩]⟩] }

/-- Registers of block `msixPba`. -/
def msixPba : RegBlock := { base := 0x12f1000, s1 := 4, n1 := 2, s2 := 0, n2 := 1, island := ⟨0xC0, 0, 0⟩, rows :=
[
  ⟨0x000, .none, false, none, [⟨0, 32, .ro, .const 0, .none⟩]⟩] }

/-- Registers of block `cairn`. -/
def cairn : RegBlock := { base := 0x1300000, s1 := 0, n1 := 1, s2 := 0, n2 := 1, island := ⟨0x05, 0, 0⟩, rows :=
[
  ⟨0x000, .none, false, none, [⟨0, 1, .w1c, .const 0, .none⟩, ⟨1, 1, .ro, .const 0, .none⟩, ⟨24, 8, .ro, .island, .none⟩]⟩,
  ⟨0x004, .none, false, none, [⟨0, 8, .ro, .const 0, .none⟩, ⟨8, 8, .ro, .const 0, .none⟩, ⟨16, 16, .rc, .const 0, .none⟩]⟩,
  ⟨0x008, .none, false, none, [⟨0, 8, .ro, .const 0, .none⟩, ⟨8, 8, .ro, .const 0, .none⟩]⟩,
  ⟨0x00c, .none, false, none, [⟨0, 32, .rc, .const 0, .none⟩]⟩,
  ⟨0x010, .none, false, none, [⟨0, 8, .ro, .const 0, .none⟩, ⟨8, 8, .ro, .const 0, .none⟩, ⟨16, 16, .rc, .const 0, .none⟩]⟩,
  ⟨0x020, .none, false, none, [⟨0, 32, .w1c, .const 0, .none⟩]⟩,
  ⟨0x024, .none, false, none, [⟨0, 32, .w1c, .const 0, .none⟩]⟩,
  ⟨0x028, .none, false, none, [⟨0, 32, .w1c, .const 0, .none⟩]⟩,
  ⟨0x02c, .none, false, none, [⟨0, 32, .w1c, .const 0, .none⟩]⟩,
  ⟨0x030, .none, false, none, [⟨0, 32, .w1c, .const 0, .none⟩]⟩,
  ⟨0x040, .none, false, none, [⟨0, 32, .w1c, .const 0, .none⟩]⟩,
  ⟨0x044, .none, false, none, [⟨0, 32, .w1c, .const 0, .none⟩]⟩] ++ [
  ⟨0x048, .none, false, none, [⟨0, 32, .w1c, .const 0, .none⟩]⟩,
  ⟨0x04c, .none, false, none, [⟨0, 32, .w1c, .const 0, .none⟩]⟩,
  ⟨0x050, .none, false, none, [⟨0, 32, .w1c, .const 0, .none⟩]⟩,
  ⟨0x054, .none, false, none, [⟨0, 32, .w1c, .const 0, .none⟩]⟩,
  ⟨0x058, .none, false, none, [⟨0, 32, .w1c, .const 0, .none⟩]⟩] }

/-- Registers of block `evioIn`. -/
def evioIn : RegBlock := { base := 0x1300100, s1 := 4, n1 := 32, s2 := 0, n2 := 1, island := ⟨0x05, 0, 0⟩, rows :=
[
  ⟨0x000, .none, false, none, [⟨0, 2, .rw, .const 0, .none⟩, ⟨4, 4, .rw, .const 3, .none⟩, ⟨8, 1, .ro, .const 0, .none⟩, ⟨24, 8, .ro, .island, .none⟩]⟩] }

/-- Registers of block `evioOut`. -/
def evioOut : RegBlock := { base := 0x1300200, s1 := 8, n1 := 32, s2 := 0, n2 := 1, island := ⟨0x05, 0, 0⟩, rows :=
[
  ⟨0x000, .none, false, none, [⟨0, 2, .rw, .const 0, .none⟩, ⟨2, 1, .rw, .const 0, .none⟩, ⟨3, 1, .ro, .const 0, .none⟩, ⟨4, 1, .w1c, .const 0, .none⟩, ⟨5, 1, .ro, .const 0, .none⟩]⟩,
  ⟨0x004, .none, false, none, [⟨0, 20, .rw, .const 1000, .none⟩]⟩] }

/-- Registers of block `matrix`. -/
def matrix : RegBlock := { base := 0x1301000, s1 := 32, n1 := 160, s2 := 4, n2 := 8, island := ⟨0x05, 0, 0⟩, rows :=
[
  ⟨0x000, .none, false, none, [⟨0, 32, .rw, .const 0, .none⟩]⟩] }

/-- Registers of block `test`. -/
def test : RegBlock := { base := 0x1400000, s1 := 0, n1 := 1, s2 := 0, n2 := 1, island := ⟨0x06, 0, 0⟩, rows :=
[
  ⟨0x000, .none, true, none, [⟨0, 3, .ro, .const 0, .none⟩, ⟨8, 8, .ro, .const 0, .none⟩, ⟨16, 8, .ro, .const 0, .none⟩, ⟨24, 8, .ro, .const 6, .none⟩]⟩,
  ⟨0x004, .none, true, none, [⟨0, 2, .ro, .const 0, .none⟩, ⟨4, 2, .ro, .const 0, .none⟩, ⟨8, 8, .ro, .const 0, .none⟩, ⟨16, 8, .ro, .const 0, .none⟩]⟩,
  ⟨0x010, .none, true, none, [⟨0, 9, .ro, .const 0, .none⟩, ⟨9, 1, .ro, .const 0, .none⟩, ⟨16, 8, .ro, .const 0, .none⟩]⟩,
  ⟨0x014, .none, true, none, [⟨0, 16, .ro, .const 0, .none⟩, ⟨16, 16, .ro, .const 0, .none⟩]⟩,
  ⟨0x020, .none, true, some 0x08, [⟨0, 1, .ro, .const 0, .none⟩, ⟨1, 1, .ro, .const 0, .none⟩, ⟨8, 8, .ro, .const 0, .none⟩, ⟨16, 16, .ro, .const 10, .none⟩]⟩,
  ⟨0x030, .none, true, some 0x08, [⟨0, 8, .ro, .const 115, .none⟩, ⟨8, 8, .ro, .const 5, .none⟩]⟩,
  ⟨0x034, .none, true, some 0x08, [⟨0, 10, .ro, .const 512, .none⟩, ⟨16, 4, .ro, .const 0, .none⟩, ⟨20, 1, .ro, .const 0, .none⟩, ⟨24, 8, .ro, .const 8, .none⟩]⟩,
  ⟨0x040, .none, true, none, [⟨0, 32, .rc, .const 0, .none⟩]⟩,
  ⟨0x044, .none, true, none, [⟨0, 32, .rc, .const 0, .none⟩]⟩,
  ⟨0x048, .none, true, none, [⟨0, 32, .rc, .const 0, .none⟩]⟩,
  ⟨0x04c, .none, true, none, [⟨0, 32, .rc, .const 0, .none⟩]⟩,
  ⟨0x050, .none, true, none, [⟨0, 32, .rc, .const 0, .none⟩]⟩] ++ [
  ⟨0x054, .none, true, none, [⟨0, 32, .rc, .const 0, .none⟩]⟩,
  ⟨0x058, .none, true, none, [⟨0, 32, .rc, .const 0, .none⟩]⟩] }

/-- Registers of block `tsensor`. -/
def tsensor : RegBlock := { base := 0x1400100, s1 := 4, n1 := 16, s2 := 0, n2 := 1, island := ⟨0x08, 0, 0⟩, rows :=
[
  ⟨0x000, .none, true, none, [⟨0, 10, .ro, .const 512, .none⟩, ⟨16, 1, .ro, .const 0, .none⟩, ⟨24, 8, .ro, .const 8, .none⟩]⟩] }

/-- Registers of block `testIsl`. -/
def testIsl : RegBlock := { base := 0x1401000, s1 := 16, n1 := 256, s2 := 0, n2 := 1, island := ⟨0x06, 0, 0⟩, rows :=
[
  ⟨0x000, .none, true, none, [⟨0, 3, .ro, .const 0, .none⟩, ⟨3, 1, .ro, .const 0, .none⟩, ⟨4, 1, .ro, .const 0, .none⟩, ⟨5, 1, .ro, .alwaysOn, .none⟩, ⟨8, 8, .ro, .const 0, .none⟩, ⟨16, 5, .ro, .const 0, .none⟩]⟩,
  ⟨0x004, .roLo, true, none, [⟨0, 32, .ro, .const 0, .none⟩]⟩,
  ⟨0x008, .roHi, true, none, [⟨0, 32, .ro, .const 0, .none⟩]⟩,
  ⟨0x00c, .none, true, none, [⟨0, 32, .ro, .const 0, .none⟩]⟩] }

/-- Registers of block `memLog`. -/
def memLog : RegBlock := { base := 0x1404000, s1 := 4, n1 := 1024, s2 := 0, n2 := 1, island := ⟨0x06, 0, 0⟩, rows :=
[
  ⟨0x000, .none, true, none, [⟨0, 32, .ro, .const 0, .none⟩]⟩] }

/-- Registers of block `upd`. -/
def upd : RegBlock := { base := 0x1500000, s1 := 0, n1 := 1, s2 := 0, n2 := 1, island := ⟨0x07, 0, 0⟩, rows :=
[
  ⟨0x000, .none, true, none, [⟨0, 3, .ro, .const 0, .none⟩, ⟨3, 1, .ro, .const 0, .none⟩, ⟨4, 1, .ro, .const 0, .none⟩, ⟨5, 1, .ro, .const 0, .none⟩, ⟨6, 1, .ro, .const 0, .none⟩, ⟨7, 1, .ro, .const 0, .none⟩, ⟨24, 8, .ro, .island, .none⟩]⟩,
  ⟨0x004, .none, true, none, [⟨0, 16, .ro, .const 0, .none⟩]⟩,
  ⟨0x008, .none, true, none, [⟨0, 10, .ro, .const 0, .none⟩, ⟨16, 3, .ro, .const 0, .none⟩]⟩,
  ⟨0x00c, .none, true, none, [⟨0, 8, .ro, .const 0, .none⟩, ⟨8, 8, .ro, .const 0, .none⟩, ⟨16, 3, .ro, .const 0, .none⟩, ⟨24, 8, .ro, .const 0, .none⟩]⟩,
  ⟨0x010, .none, true, none, [⟨0, 32, .ro, .const 0, .none⟩]⟩,
  ⟨0x014, .none, true, none, [⟨0, 32, .ro, .const 0, .none⟩]⟩,
  ⟨0x018, .none, true, none, [⟨0, 32, .ro, .const 0, .none⟩]⟩,
  ⟨0x020, .none, true, none, [⟨0, 1, .ro, .const 0, .none⟩, ⟨1, 1, .ro, .const 0, .none⟩, ⟨2, 1, .ro, .const 0, .none⟩, ⟨8, 7, .ro, .const 0, .none⟩]⟩,
  ⟨0x300, .none, true, none, [⟨0, 32, .rc, .const 0, .none⟩]⟩,
  ⟨0x304, .none, true, none, [⟨0, 32, .rc, .const 0, .none⟩]⟩,
  ⟨0x308, .none, true, none, [⟨0, 32, .rc, .const 0, .none⟩]⟩,
  ⟨0x30c, .none, true, none, [⟨0, 32, .rc, .const 0, .none⟩]⟩] }

/-- Registers of block `secSlot`. -/
def secSlot : RegBlock := { base := 0x1500100, s1 := 4, n1 := 16, s2 := 0, n2 := 1, island := ⟨0x07, 0, 0⟩, rows :=
[
  ⟨0x000, .none, true, none, [⟨0, 3, .ro, .const 0, .none⟩, ⟨3, 1, .ro, .const 0, .none⟩, ⟨16, 16, .ro, .const 0, .none⟩]⟩] }

/-- Registers of block `secMgmt`. -/
def secMgmt : RegBlock := { base := 0x1500200, s1 := 4, n1 := 8, s2 := 0, n2 := 1, island := ⟨0x07, 0, 0⟩, rows :=
[
  ⟨0x000, .none, true, none, [⟨0, 1, .ro, .const 0, .none⟩, ⟨1, 4, .ro, .const 0, .none⟩, ⟨8, 4, .ro, .const 0, .none⟩, ⟨16, 16, .rc, .const 0, .none⟩]⟩] }

end Tbl

/-- Every register block of BAR0. -/
def regBlocks : List RegBlock :=
  [Tbl.chief, Tbl.chief0, Tbl.chief4, Tbl.chief5, Tbl.chief8, Tbl.evlog, Tbl.cfg, Tbl.cfgOwner, Tbl.lane, Tbl.quad, Tbl.sport, Tbl.pos, Tbl.reel, Tbl.sched, Tbl.rcap, Tbl.time, Tbl.tcap, Tbl.comp, Tbl.pulse, Tbl.mac] ++
  [Tbl.netdev, Tbl.tmplWin, Tbl.tmplCtl, Tbl.stream, Tbl.hbFrame, Tbl.hbPort, Tbl.hbCam, Tbl.hbCh, Tbl.cal, Tbl.coef, Tbl.ridge, Tbl.spur, Tbl.spurSig, Tbl.nodeWin, Tbl.node, Tbl.couch, Tbl.couchPort, Tbl.seam, Tbl.classAct, Tbl.mark] ++
  [Tbl.forest, Tbl.stats, Tbl.statsCh, Tbl.layout, Tbl.lstream, Tbl.mould, Tbl.wm, Tbl.dose, Tbl.laid, Tbl.vatSkew, Tbl.vatRow, Tbl.laidFloor, Tbl.laidCh, Tbl.bot, Tbl.scree, Tbl.screeBc, Tbl.screeCol, Tbl.health, Tbl.ream, Tbl.hbm] ++
  [Tbl.hbmPort, Tbl.hbmPortS, Tbl.hbmPc, Tbl.hbmLog, Tbl.host, Tbl.oring, Tbl.dma, Tbl.msix, Tbl.msixPba, Tbl.cairn, Tbl.evioIn, Tbl.evioOut, Tbl.matrix, Tbl.test, Tbl.tsensor, Tbl.testIsl, Tbl.memLog, Tbl.upd, Tbl.secSlot, Tbl.secMgmt]

namespace F

/-- ID_PART: PART [15:0]. -/
def idPart_part : Fld := ⟨0x0, 0, 0, 1, 0x0, 0, 16⟩
/-- ID_PART: STEPPING [23:16]. -/
def idPart_stepping : Fld := ⟨0x0, 0, 0, 1, 0x0, 16, 8⟩
/-- ID_LOT_LO: LOT [31:0]. -/
def idLotLo_lot : Fld := ⟨0x0, 0, 0, 1, 0x4, 0, 32⟩
/-- ID_LOT_HI: LOT [15:0]. -/
def idLotHi_lot : Fld := ⟨0x0, 0, 0, 1, 0x8, 0, 16⟩
/-- ID_DIE: WAFER [4:0]. -/
def idDie_wafer : Fld := ⟨0x0, 0, 0, 1, 0xc, 0, 5⟩
/-- ID_DIE: DIE_X [15:8]. -/
def idDie_dieX : Fld := ⟨0x0, 0, 0, 1, 0xc, 8, 8⟩
/-- ID_DIE: DIE_Y [23:16]. -/
def idDie_dieY : Fld := ⟨0x0, 0, 0, 1, 0xc, 16, 8⟩
/-- ID_SERIAL: SERIAL [31:0]. -/
def idSerial_serial : Fld := ⟨0x0, 0, 0, 1, 0x10, 0, 32⟩
/-- ID_FUSE: FUSE_ERR [0:0]. -/
def idFuse_fuseErr : Fld := ⟨0x0, 0, 0, 1, 0x14, 0, 1⟩
/-- ID_FUSE: TRIM_ERR [1:1]. -/
def idFuse_trimErr : Fld := ⟨0x0, 0, 0, 1, 0x14, 1, 1⟩
/-- ID_FUSE: SIGNED_IMAGES [2:2]. -/
def idFuse_signedImages : Fld := ⟨0x0, 0, 0, 1, 0x14, 2, 1⟩
/-- CHIEF_MODE: MODE [2:0]. -/
def chiefMode_mode : Fld := ⟨0x100, 0, 0, 1, 0x0, 0, 3⟩
/-- CHIEF_MODE: READY [3:3]. -/
def chiefMode_ready : Fld := ⟨0x100, 0, 0, 1, 0x0, 3, 1⟩
/-- CHIEF_MODE: PHASE [7:4]. -/
def chiefMode_phase : Fld := ⟨0x100, 0, 0, 1, 0x0, 4, 4⟩
/-- CHIEF_MODE: TARGET [10:8]. -/
def chiefMode_target : Fld := ⟨0x100, 0, 0, 1, 0x0, 8, 3⟩
/-- CHIEF_MODE: TRANSITION [11:11]. -/
def chiefMode_transition : Fld := ⟨0x100, 0, 0, 1, 0x0, 11, 1⟩
/-- CHIEF_MODE: STOP_NOW [12:12]. -/
def chiefMode_stopNow : Fld := ⟨0x100, 0, 0, 1, 0x0, 12, 1⟩
/-- CHIEF_BOOT: BOOT_SEL [1:0]. -/
def chiefBoot_bootSel : Fld := ⟨0x100, 0, 0, 1, 0x4, 0, 2⟩
/-- CHIEF_BOOT: START_KIND [3:2]. -/
def chiefBoot_startKind : Fld := ⟨0x100, 0, 0, 1, 0x4, 2, 2⟩
/-- CHIEF_BOOT: COLD_CAUSE [7:4]. -/
def chiefBoot_coldCause : Fld := ⟨0x100, 0, 0, 1, 0x4, 4, 4⟩
/-- CHIEF_BOOT: BOOT_FAILS [9:8]. -/
def chiefBoot_bootFails : Fld := ⟨0x100, 0, 0, 1, 0x4, 8, 2⟩
/-- CHIEF_BOOT: UNPARKED_RUN [10:10]. -/
def chiefBoot_unparkedRun : Fld := ⟨0x100, 0, 0, 1, 0x4, 10, 1⟩
/-- CHIEF_RESET_CAUSE: LAST [2:0]. -/
def chiefResetCause_last : Fld := ⟨0x100, 0, 0, 1, 0x8, 0, 3⟩
/-- CHIEF_RESET_CAUSE: GLITCH [3:3]. -/
def chiefResetCause_glitch : Fld := ⟨0x100, 0, 0, 1, 0x8, 3, 1⟩
/-- CHIEF_RESET_CAUSE: HOST_RESETS [15:8]. -/
def chiefResetCause_hostResets : Fld := ⟨0x100, 0, 0, 1, 0x8, 8, 8⟩
/-- CHIEF_RESET_CAUSE: RESETS [31:16]. -/
def chiefResetCause_resets : Fld := ⟨0x100, 0, 0, 1, 0x8, 16, 16⟩
/-- CHIEF_START_MS: TO_READY [15:0]. -/
def chiefStartMs_toReady : Fld := ⟨0x100, 0, 0, 1, 0xc, 0, 16⟩
/-- CHIEF_PARK_STAT: STEP [2:0]. -/
def chiefParkStat_step : Fld := ⟨0x100, 0, 0, 1, 0x10, 0, 3⟩
/-- CHIEF_PARK_STAT: RESULT [4:3]. -/
def chiefParkStat_result : Fld := ⟨0x100, 0, 0, 1, 0x10, 3, 2⟩
/-- CHIEF_PARK_STAT: TOKEN_WRITTEN [5:5]. -/
def chiefParkStat_tokenWritten : Fld := ⟨0x100, 0, 0, 1, 0x10, 5, 1⟩
/-- CHIEF_PARK_STAT: FLASH_ERR [6:6]. -/
def chiefParkStat_flashErr : Fld := ⟨0x100, 0, 0, 1, 0x10, 6, 1⟩
/-- CHIEF_TRANS_STAT: FROM [2:0]. -/
def chiefTransStat_from : Fld := ⟨0x100, 0, 0, 1, 0x14, 0, 3⟩
/-- CHIEF_TRANS_STAT: TO [5:3]. -/
def chiefTransStat_to : Fld := ⟨0x100, 0, 0, 1, 0x14, 3, 3⟩
/-- CHIEF_TRANS_STAT: CUT [6:6]. -/
def chiefTransStat_cut : Fld := ⟨0x100, 0, 0, 1, 0x14, 6, 1⟩
/-- CHIEF_TRANS_STAT: DRAIN_LOST [31:8]. -/
def chiefTransStat_drainLost : Fld := ⟨0x100, 0, 0, 1, 0x14, 8, 24⟩
/-- CHIEF_ISL_SEL: ISL [7:0]. -/
def chiefIslSel_isl : Fld := ⟨0x400, 0, 0, 1, 0x0, 0, 8⟩
/-- CHIEF_ISL_STAT: PRESENT [0:0]. -/
def chiefIslStat_present : Fld := ⟨0x400, 0, 0, 1, 0x4, 0, 1⟩
/-- CHIEF_ISL_STAT: CLK_OK [1:1]. -/
def chiefIslStat_clkOk : Fld := ⟨0x400, 0, 0, 1, 0x4, 1, 1⟩
/-- CHIEF_ISL_STAT: GATED [2:2]. -/
def chiefIslStat_gated : Fld := ⟨0x400, 0, 0, 1, 0x4, 2, 1⟩
/-- CHIEF_ISL_STAT: ISOLATED [3:3]. -/
def chiefIslStat_isolated : Fld := ⟨0x400, 0, 0, 1, 0x4, 3, 1⟩
/-- CHIEF_ISL_STAT: FABRIC_ERR [4:4]. -/
def chiefIslStat_fabricErr : Fld := ⟨0x400, 0, 0, 1, 0x4, 4, 1⟩
/-- CHIEF_ISL_STAT: FREQ_ERR [15:8]. -/
def chiefIslStat_freqErr : Fld := ⟨0x400, 0, 0, 1, 0x4, 8, 8⟩
/-- CHIEF_ISL_STAT: ISL_ECHO [31:24]. -/
def chiefIslStat_islEcho : Fld := ⟨0x400, 0, 0, 1, 0x4, 24, 8⟩
/-- CHIEF_ISL_FREQ: FREQ_KHZ [23:0]. -/
def chiefIslFreq_freqKhz : Fld := ⟨0x400, 0, 0, 1, 0x8, 0, 24⟩
/-- CHIEF_STEWARD_STAT: LINK_STATE [1:0]. -/
def chiefStewardStat_linkState : Fld := ⟨0x400, 0, 0, 1, 0x10, 0, 2⟩
/-- CHIEF_STEWARD_STAT: LINK_RESTARTS [7:2]. -/
def chiefStewardStat_linkRestarts : Fld := ⟨0x400, 0, 0, 1, 0x10, 2, 6⟩
/-- CHIEF_STEWARD_STAT: MOTION_STATE [9:8]. -/
def chiefStewardStat_motionState : Fld := ⟨0x400, 0, 0, 1, 0x10, 8, 2⟩
/-- CHIEF_STEWARD_STAT: MOTION_RESTARTS [15:10]. -/
def chiefStewardStat_motionRestarts : Fld := ⟨0x400, 0, 0, 1, 0x10, 10, 6⟩
/-- CHIEF_STEWARD_STAT: PATH_STATE [17:16]. -/
def chiefStewardStat_pathState : Fld := ⟨0x400, 0, 0, 1, 0x10, 16, 2⟩
/-- CHIEF_STEWARD_STAT: PATH_RESTARTS [23:18]. -/
def chiefStewardStat_pathRestarts : Fld := ⟨0x400, 0, 0, 1, 0x10, 18, 6⟩
/-- CHIEF_STEWARD_STAT: MEMORY_STATE [25:24]. -/
def chiefStewardStat_memoryState : Fld := ⟨0x400, 0, 0, 1, 0x10, 24, 2⟩
/-- CHIEF_STEWARD_STAT: MEMORY_RESTARTS [31:26]. -/
def chiefStewardStat_memoryRestarts : Fld := ⟨0x400, 0, 0, 1, 0x10, 26, 6⟩
/-- CHIEF_ACCESS_FAULT: CAUSE [3:0]. -/
def chiefAccessFault_cause : Fld := ⟨0x400, 0, 0, 1, 0x20, 0, 4⟩
/-- CHIEF_ACCESS_FAULT: WRITE [4:4]. -/
def chiefAccessFault_write : Fld := ⟨0x400, 0, 0, 1, 0x20, 4, 1⟩
/-- CHIEF_ACCESS_FAULT: ISL [15:8]. -/
def chiefAccessFault_isl : Fld := ⟨0x400, 0, 0, 1, 0x20, 8, 8⟩
/-- CHIEF_ACCESS_FAULT: COUNT [31:16]. -/
def chiefAccessFault_count : Fld := ⟨0x400, 0, 0, 1, 0x20, 16, 16⟩
/-- CHIEF_ACCESS_ADDR: ADDR [25:0]. -/
def chiefAccessAddr_addr : Fld := ⟨0x400, 0, 0, 1, 0x24, 0, 26⟩
/-- CHIEF_ACCESS_OWNER: OWNER [15:0]. -/
def chiefAccessOwner_owner : Fld := ⟨0x400, 0, 0, 1, 0x28, 0, 16⟩
/-- CHIEF_JOINT_STAT: STATE [3:0]. -/
def chiefJointStat_state : Fld := ⟨0x400, 0, 0, 1, 0x30, 0, 4⟩
/-- CHIEF_JOINT_STAT: INVOLVED [7:4]. -/
def chiefJointStat_involved : Fld := ⟨0x400, 0, 0, 1, 0x30, 4, 4⟩
/-- CHIEF_JOINT_STAT: REFUSED [11:8]. -/
def chiefJointStat_refused : Fld := ⟨0x400, 0, 0, 1, 0x30, 8, 4⟩
/-- CHIEF_JOINT_STAT: JOINT_SEQ [31:16]. -/
def chiefJointStat_jointSeq : Fld := ⟨0x400, 0, 0, 1, 0x30, 16, 16⟩
/-- CHIEF_JOINT_POS_LO: POS [31:0]. -/
def chiefJointPosLo_pos : Fld := ⟨0x400, 0, 0, 1, 0x38, 0, 32⟩
/-- CHIEF_JOINT_POS_HI: POS [31:0]. -/
def chiefJointPosHi_pos : Fld := ⟨0x400, 0, 0, 1, 0x3c, 0, 32⟩
/-- CHIEF_PWR: VIN_MV [15:0]. -/
def chiefPwr_vinMv : Fld := ⟨0x500, 0, 0, 1, 0x0, 0, 16⟩
/-- CHIEF_PWR: VIN_LOW [16:16]. -/
def chiefPwr_vinLow : Fld := ⟨0x500, 0, 0, 1, 0x0, 16, 1⟩
/-- CHIEF_PWR: VIN_HIGH [17:17]. -/
def chiefPwr_vinHigh : Fld := ⟨0x500, 0, 0, 1, 0x0, 17, 1⟩
/-- CHIEF_PWR: ISL [31:24]. -/
def chiefPwr_isl : Fld := ⟨0x500, 0, 0, 1, 0x0, 24, 8⟩
/-- CHIEF_PWR_W: POWER [15:0]. -/
def chiefPwrW_power : Fld := ⟨0x500, 0, 0, 1, 0x4, 0, 16⟩
/-- CHIEF_PWR_W: PEAK [31:16]. -/
def chiefPwrW_peak : Fld := ⟨0x500, 0, 0, 1, 0x4, 16, 16⟩
/-- CHIEF_LOG_NEXT: LOG_SEQ [31:0]. -/
def chiefLogNext_logSeq : Fld := ⟨0x800, 0, 0, 1, 0x0, 0, 32⟩
/-- CHIEF_LOG_OVERFLOW: COUNT [31:0]. -/
def chiefLogOverflow_count : Fld := ⟨0x800, 0, 0, 1, 0x4, 0, 32⟩
/-- CHIEF_LOG_LOST: COUNT [15:0]. -/
def chiefLogLost_count : Fld := ⟨0x800, 0, 0, 1, 0x8, 0, 16⟩
/-- EVLOG_WORD: WORD [31:0]. -/
def evlogWord_word : Fld := ⟨0x8000, 4, 0, 1, 0x0, 0, 32⟩
/-- CFG_STAT: STATE [2:0]. -/
def cfgStat_state : Fld := ⟨0x100000, 0, 0, 1, 0x0, 0, 3⟩
/-- CFG_STAT: SOURCE [3:3]. -/
def cfgStat_source : Fld := ⟨0x100000, 0, 0, 1, 0x0, 3, 1⟩
/-- CFG_STAT: RUN_MODE [6:4]. -/
def cfgStat_runMode : Fld := ⟨0x100000, 0, 0, 1, 0x0, 4, 3⟩
/-- CFG_STAT: START_MODE [9:7]. -/
def cfgStat_startMode : Fld := ⟨0x100000, 0, 0, 1, 0x0, 7, 3⟩
/-- CFG_STAT: SIGNED [10:10]. -/
def cfgStat_signed : Fld := ⟨0x100000, 0, 0, 1, 0x0, 10, 1⟩
/-- CFG_STAT: LOADS [31:16]. -/
def cfgStat_loads : Fld := ⟨0x100000, 0, 0, 1, 0x0, 16, 16⟩
/-- CFG_LOAD_ERR: CODE [7:0]. -/
def cfgLoadErr_code : Fld := ⟨0x100000, 0, 0, 1, 0x4, 0, 8⟩
/-- CFG_LOAD_ERR: ISL [15:8]. -/
def cfgLoadErr_isl : Fld := ⟨0x100000, 0, 0, 1, 0x4, 8, 8⟩
/-- CFG_LOAD_ERR: RECORD [31:16]. -/
def cfgLoadErr_record : Fld := ⟨0x100000, 0, 0, 1, 0x4, 16, 16⟩
/-- CFG_LOAD_OFFSET: OFFSET [22:0]. -/
def cfgLoadOffset_offset : Fld := ⟨0x100000, 0, 0, 1, 0x8, 0, 23⟩
/-- CFG_NAME, word k of 4: NAME [31:0]. -/
def cfgName_name (k : Nat) : Fld := ⟨0x100000, 0, 0, 1, 0x10 + 4 * k, 0, 32⟩
/-- CFG_BUILD_LO: BUILD_ID [31:0]. -/
def cfgBuildLo_buildId : Fld := ⟨0x100000, 0, 0, 1, 0x20, 0, 32⟩
/-- CFG_BUILD_HI: BUILD_ID [31:0]. -/
def cfgBuildHi_buildId : Fld := ⟨0x100000, 0, 0, 1, 0x24, 0, 32⟩
/-- CFG_SIZE: TOTAL_LEN [23:0]. -/
def cfgSize_totalLen : Fld := ⟨0x100000, 0, 0, 1, 0x28, 0, 24⟩
/-- CFG_RECORDS: REC_COUNT [19:0]. -/
def cfgRecords_recCount : Fld := ⟨0x100000, 0, 0, 1, 0x2c, 0, 20⟩
/-- CFG_DIGEST, word k of 12: DIGEST [31:0]. -/
def cfgDigest_digest (k : Nat) : Fld := ⟨0x100000, 0, 0, 1, 0x40 + 4 * k, 0, 32⟩
/-- CFG_OWNER: TAG [11:0]. -/
def cfgOwner_tag : Fld := ⟨0x102000, 4, 0, 1, 0x0, 0, 12⟩
/-- CFG_OWNER: DOMAIN [15:12]. -/
def cfgOwner_domain : Fld := ⟨0x102000, 4, 0, 1, 0x0, 12, 4⟩
/-- CFG_OWNER: LOCKED [31:31]. -/
def cfgOwner_locked : Fld := ⟨0x102000, 4, 0, 1, 0x0, 31, 1⟩
/-- LANE_CTL: SQUELCH [0:0]. -/
def laneCtl_squelch : Fld := ⟨0x200000, 4096, 0, 1, 0x0, 0, 1⟩
/-- LANE_CTL: RELOCK [1:1]. -/
def laneCtl_relock : Fld := ⟨0x200000, 4096, 0, 1, 0x0, 1, 1⟩
/-- LANE_CTL: EQ_FREEZE [2:2]. -/
def laneCtl_eqFreeze : Fld := ⟨0x200000, 4096, 0, 1, 0x0, 2, 1⟩
/-- LANE_CTL: LOOPBACK [5:4]. -/
def laneCtl_loopback : Fld := ⟨0x200000, 4096, 0, 1, 0x0, 4, 2⟩
/-- LANE_STAT: STATE [2:0]. -/
def laneStat_state : Fld := ⟨0x200000, 4096, 0, 1, 0x4, 0, 3⟩
/-- LANE_STAT: BOND_UP [3:3]. -/
def laneStat_bondUp : Fld := ⟨0x200000, 4096, 0, 1, 0x4, 3, 1⟩
/-- LANE_STAT: LOGICAL [5:4]. -/
def laneStat_logical : Fld := ⟨0x200000, 4096, 0, 1, 0x4, 4, 2⟩
/-- LANE_STAT: SKEW [13:8]. -/
def laneStat_skew : Fld := ⟨0x200000, 4096, 0, 1, 0x4, 8, 6⟩
/-- LANE_STAT: LINK_ID_RX [23:16]. -/
def laneStat_linkIdRx : Fld := ⟨0x200000, 4096, 0, 1, 0x4, 16, 8⟩
/-- LANE_STAT: ISL [31:24]. -/
def laneStat_isl : Fld := ⟨0x200000, 4096, 0, 1, 0x4, 24, 8⟩
/-- LANE_EVENT: CDR_LOST [0:0]. -/
def laneEvent_cdrLost : Fld := ⟨0x200000, 4096, 0, 1, 0x8, 0, 1⟩
/-- LANE_EVENT: BLOCK_LOST [1:1]. -/
def laneEvent_blockLost : Fld := ⟨0x200000, 4096, 0, 1, 0x8, 1, 1⟩
/-- LANE_EVENT: ALIGN_LOST [2:2]. -/
def laneEvent_alignLost : Fld := ⟨0x200000, 4096, 0, 1, 0x8, 2, 1⟩
/-- LANE_EVENT: SKEW_OVER [3:3]. -/
def laneEvent_skewOver : Fld := ⟨0x200000, 4096, 0, 1, 0x8, 3, 1⟩
/-- LANE_EVENT: LINK_ID_MISMATCH [4:4]. -/
def laneEvent_linkIdMismatch : Fld := ⟨0x200000, 4096, 0, 1, 0x8, 4, 1⟩
/-- LANE_EVENT: BIP_ERR [5:5]. -/
def laneEvent_bipErr : Fld := ⟨0x200000, 4096, 0, 1, 0x8, 5, 1⟩
/-- LANE_EVENT: CTRL_ERR [6:6]. -/
def laneEvent_ctrlErr : Fld := ⟨0x200000, 4096, 0, 1, 0x8, 6, 1⟩
/-- LANE_EVENT: PROBE_DONE [7:7]. -/
def laneEvent_probeDone : Fld := ⟨0x200000, 4096, 0, 1, 0x8, 7, 1⟩
/-- LANE_EVENT: PROBE_FAIL [8:8]. -/
def laneEvent_probeFail : Fld := ⟨0x200000, 4096, 0, 1, 0x8, 8, 1⟩
/-- LANE_EVENT: TIMED_SLIP [9:9]. -/
def laneEvent_timedSlip : Fld := ⟨0x200000, 4096, 0, 1, 0x8, 9, 1⟩
/-- LANE_EVENT: SEQ_GAP [10:10]. -/
def laneEvent_seqGap : Fld := ⟨0x200000, 4096, 0, 1, 0x8, 10, 1⟩
/-- LANE_EVENT: MARGIN_DONE [11:11]. -/
def laneEvent_marginDone : Fld := ⟨0x200000, 4096, 0, 1, 0x8, 11, 1⟩
/-- LANE_EVENT: ACQ_RETRY [12:12]. -/
def laneEvent_acqRetry : Fld := ⟨0x200000, 4096, 0, 1, 0x8, 12, 1⟩
/-- LANE_ERR_SH: COUNT [31:0]. -/
def laneErrSh_count : Fld := ⟨0x200000, 4096, 0, 1, 0x10, 0, 32⟩
/-- LANE_ERR_BIP: COUNT [31:0]. -/
def laneErrBip_count : Fld := ⟨0x200000, 4096, 0, 1, 0x14, 0, 32⟩
/-- LANE_ERR_CTRL: COUNT [31:0]. -/
def laneErrCtrl_count : Fld := ⟨0x200000, 4096, 0, 1, 0x18, 0, 32⟩
/-- LANE_LOCK_LOSS: COUNT [31:0]. -/
def laneLockLoss_count : Fld := ⟨0x200000, 4096, 0, 1, 0x1c, 0, 32⟩
/-- LANE_TX_DELAY: TAP [12:0]. -/
def laneTxDelay_tap : Fld := ⟨0x200000, 4096, 0, 1, 0x40, 0, 13⟩
/-- LANE_TX_DELAY: BLK [20:16]. -/
def laneTxDelay_blk : Fld := ⟨0x200000, 4096, 0, 1, 0x40, 16, 5⟩
/-- LANE_TX_DELAY: SLEWING [31:31]. -/
def laneTxDelay_slewing : Fld := ⟨0x200000, 4096, 0, 1, 0x40, 31, 1⟩
/-- LANE_PROBE_CTL: COUNT [6:0]. -/
def laneProbeCtl_count : Fld := ⟨0x200000, 4096, 0, 1, 0x44, 0, 7⟩
/-- LANE_PROBE_CTL: START [8:8]. -/
def laneProbeCtl_start : Fld := ⟨0x200000, 4096, 0, 1, 0x44, 8, 1⟩
/-- LANE_PROBE_CTL: BUSY [9:9]. -/
def laneProbeCtl_busy : Fld := ⟨0x200000, 4096, 0, 1, 0x44, 9, 1⟩
/-- LANE_PROBE_CTL: MATCHED [22:16]. -/
def laneProbeCtl_matched : Fld := ⟨0x200000, 4096, 0, 1, 0x44, 16, 7⟩
/-- LANE_RTT: VALUE [31:0]. -/
def laneRtt_value : Fld := ⟨0x200000, 4096, 0, 1, 0x48, 0, 32⟩
/-- LANE_TURN: VALUE [31:0]. -/
def laneTurn_value : Fld := ⟨0x200000, 4096, 0, 1, 0x4c, 0, 32⟩
/-- LANE_EQ: CTLE [3:0]. -/
def laneEq_ctle : Fld := ⟨0x200000, 4096, 0, 1, 0x60, 0, 4⟩
/-- LANE_EQ: DFE [31:4]. -/
def laneEq_dfe : Fld := ⟨0x200000, 4096, 0, 1, 0x60, 4, 28⟩
/-- LANE_TXFIR: PRE [3:0]. -/
def laneTxfir_pre : Fld := ⟨0x200000, 4096, 0, 1, 0x64, 0, 4⟩
/-- LANE_TXFIR: POST [12:8]. -/
def laneTxfir_post : Fld := ⟨0x200000, 4096, 0, 1, 0x64, 8, 5⟩
/-- LANE_TXFIR: MAIN [22:16]. -/
def laneTxfir_main : Fld := ⟨0x200000, 4096, 0, 1, 0x64, 16, 7⟩
/-- LANE_MARGIN_CTL: PHASE [6:0]. -/
def laneMarginCtl_phase : Fld := ⟨0x200000, 4096, 0, 1, 0x80, 0, 7⟩
/-- LANE_MARGIN_CTL: VOFF [14:8]. -/
def laneMarginCtl_voff : Fld := ⟨0x200000, 4096, 0, 1, 0x80, 8, 7⟩
/-- LANE_MARGIN_CTL: DWELL [19:16]. -/
def laneMarginCtl_dwell : Fld := ⟨0x200000, 4096, 0, 1, 0x80, 16, 4⟩
/-- LANE_MARGIN_CTL: START [31:31]. -/
def laneMarginCtl_start : Fld := ⟨0x200000, 4096, 0, 1, 0x80, 31, 1⟩
/-- LANE_MARGIN_RES: ERRORS [23:0]. -/
def laneMarginRes_errors : Fld := ⟨0x200000, 4096, 0, 1, 0x84, 0, 24⟩
/-- LANE_MARGIN_RES: DONE [24:24]. -/
def laneMarginRes_done : Fld := ⟨0x200000, 4096, 0, 1, 0x84, 24, 1⟩
/-- LANE_MARGIN_RES: ABORT [25:25]. -/
def laneMarginRes_abort : Fld := ⟨0x200000, 4096, 0, 1, 0x84, 25, 1⟩
/-- LANE_PRBS_CTL: TX_PAT [2:0]. -/
def lanePrbsCtl_txPat : Fld := ⟨0x200000, 4096, 0, 1, 0xa0, 0, 3⟩
/-- LANE_PRBS_CTL: TX_INV [3:3]. -/
def lanePrbsCtl_txInv : Fld := ⟨0x200000, 4096, 0, 1, 0xa0, 3, 1⟩
/-- LANE_PRBS_CTL: RX_PAT [6:4]. -/
def lanePrbsCtl_rxPat : Fld := ⟨0x200000, 4096, 0, 1, 0xa0, 4, 3⟩
/-- LANE_PRBS_CTL: RX_INV [7:7]. -/
def lanePrbsCtl_rxInv : Fld := ⟨0x200000, 4096, 0, 1, 0xa0, 7, 1⟩
/-- LANE_PRBS_CTL: INJECT [8:8]. -/
def lanePrbsCtl_inject : Fld := ⟨0x200000, 4096, 0, 1, 0xa0, 8, 1⟩
/-- LANE_PRBS_CTL: CLEAR [9:9]. -/
def lanePrbsCtl_clear : Fld := ⟨0x200000, 4096, 0, 1, 0xa0, 9, 1⟩
/-- LANE_PRBS_CTL: RX_SYNC [16:16]. -/
def lanePrbsCtl_rxSync : Fld := ⟨0x200000, 4096, 0, 1, 0xa0, 16, 1⟩
/-- LANE_PRBS_ERR: VALUE [31:0]. -/
def lanePrbsErr_value : Fld := ⟨0x200000, 4096, 0, 1, 0xa4, 0, 32⟩
/-- LANE_PRBS_BITS_LO: VALUE [31:0]. -/
def lanePrbsBitsLo_value : Fld := ⟨0x200000, 4096, 0, 1, 0xa8, 0, 32⟩
/-- LANE_PRBS_BITS_HI: VALUE [31:0]. -/
def lanePrbsBitsHi_value : Fld := ⟨0x200000, 4096, 0, 1, 0xac, 0, 32⟩
/-- LANE_QUAD_STAT: ROLE [2:0]. -/
def laneQuadStat_role : Fld := ⟨0x240000, 256, 0, 1, 0x0, 0, 3⟩
/-- LANE_QUAD_STAT: RATE_CODE [11:8]. -/
def laneQuadStat_rateCode : Fld := ⟨0x240000, 256, 0, 1, 0x0, 8, 4⟩
/-- LANE_QUAD_STAT: PLL_LOCK [12:12]. -/
def laneQuadStat_pllLock : Fld := ⟨0x240000, 256, 0, 1, 0x0, 12, 1⟩
/-- LANE_QUAD_STAT: REFCLK_OK [13:13]. -/
def laneQuadStat_refclkOk : Fld := ⟨0x240000, 256, 0, 1, 0x0, 13, 1⟩
/-- LANE_QUAD_STAT: LANE_MASK [19:16]. -/
def laneQuadStat_laneMask : Fld := ⟨0x240000, 256, 0, 1, 0x0, 16, 4⟩
/-- SPORT_CFG: CLASS [3:0]. -/
def sportCfg_class : Fld := ⟨0x280000, 16, 0, 1, 0x0, 0, 4⟩
/-- SPORT_CFG: DIR [4:4]. -/
def sportCfg_dir : Fld := ⟨0x280000, 16, 0, 1, 0x0, 4, 1⟩
/-- SPORT_CFG: FC [5:5]. -/
def sportCfg_fc : Fld := ⟨0x280000, 16, 0, 1, 0x0, 5, 1⟩
/-- SPORT_CFG: LANE [13:8]. -/
def sportCfg_lane : Fld := ⟨0x280000, 16, 0, 1, 0x0, 8, 6⟩
/-- SPORT_SEQ: SEQ [31:0]. -/
def sportSeq_seq : Fld := ⟨0x280000, 16, 0, 1, 0x4, 0, 32⟩
/-- SPORT_GAPS: GAPS [31:0]. -/
def sportGaps_gaps : Fld := ⟨0x280000, 16, 0, 1, 0x8, 0, 32⟩
/-- SPORT_CREDIT: CREDIT [15:0]. -/
def sportCredit_credit : Fld := ⟨0x280000, 16, 0, 1, 0xc, 0, 16⟩
/-- SPORT_CREDIT: STALE_OR_STALL [31:16]. -/
def sportCredit_staleOrStall : Fld := ⟨0x280000, 16, 0, 1, 0xc, 16, 16⟩
/-- POS_CTL: MODE [1:0]. -/
def posCtl_mode : Fld := ⟨0xa00000, 256, 0, 1, 0x0, 0, 2⟩
/-- POS_CTL: FILT_N [7:4]. -/
def posCtl_filtN : Fld := ⟨0xa00000, 256, 0, 1, 0x0, 4, 4⟩
/-- POS_CTL: HYST [15:8]. -/
def posCtl_hyst : Fld := ⟨0xa00000, 256, 0, 1, 0x0, 8, 8⟩
/-- POS_CTL: INDEX_MODE [17:16]. -/
def posCtl_indexMode : Fld := ⟨0xa00000, 256, 0, 1, 0x0, 16, 2⟩
/-- POS_CTL: INDEX_GATE [18:18]. -/
def posCtl_indexGate : Fld := ⟨0xa00000, 256, 0, 1, 0x0, 18, 1⟩
/-- POS_CTL: REVERSE [19:19]. -/
def posCtl_reverse : Fld := ⟨0xa00000, 256, 0, 1, 0x0, 19, 1⟩
/-- POS_CTL: ARM [20:20]. -/
def posCtl_arm : Fld := ⟨0xa00000, 256, 0, 1, 0x0, 20, 1⟩
/-- POS_COUNT: VALUE [31:0]. -/
def posCount_value : Fld := ⟨0xa00000, 256, 0, 1, 0x4, 0, 32⟩
/-- POS_STAT: DIR [0:0]. -/
def posStat_dir : Fld := ⟨0xa00000, 256, 0, 1, 0x8, 0, 1⟩
/-- POS_STAT: ARMED [1:1]. -/
def posStat_armed : Fld := ⟨0xa00000, 256, 0, 1, 0x8, 1, 1⟩
/-- POS_STAT: POS_UNCERTAIN [2:2]. -/
def posStat_posUncertain : Fld := ⟨0xa00000, 256, 0, 1, 0x8, 2, 1⟩
/-- POS_STAT: INDEX_MISMATCH [3:3]. -/
def posStat_indexMismatch : Fld := ⟨0xa00000, 256, 0, 1, 0x8, 3, 1⟩
/-- POS_STAT: DIR_EVENT [4:4]. -/
def posStat_dirEvent : Fld := ⟨0xa00000, 256, 0, 1, 0x8, 4, 1⟩
/-- POS_STAT: SER_BAD [5:5]. -/
def posStat_serBad : Fld := ⟨0xa00000, 256, 0, 1, 0x8, 5, 1⟩
/-- POS_STAT: INDEX_SEEN [6:6]. -/
def posStat_indexSeen : Fld := ⟨0xa00000, 256, 0, 1, 0x8, 6, 1⟩
/-- POS_STAT: PINS [13:8]. -/
def posStat_pins : Fld := ⟨0xa00000, 256, 0, 1, 0x8, 8, 6⟩
/-- POS_STAT: ISL [31:24]. -/
def posStat_isl : Fld := ⟨0xa00000, 256, 0, 1, 0x8, 24, 8⟩
/-- POS_QUAD_ERR: COUNT [31:0]. -/
def posQuadErr_count : Fld := ⟨0xa00000, 256, 0, 1, 0xc, 0, 32⟩
/-- POS_CPR: VALUE [31:0]. -/
def posCpr_value : Fld := ⟨0xa00000, 256, 0, 1, 0x10, 0, 32⟩
/-- POS_INDEX_VALUE: VALUE [31:0]. -/
def posIndexValue_value : Fld := ⟨0xa00000, 256, 0, 1, 0x14, 0, 32⟩
/-- POS_INDEX_DEV: VALUE [31:0]. -/
def posIndexDev_value : Fld := ⟨0xa00000, 256, 0, 1, 0x18, 0, 32⟩
/-- POS_INDEX_TOL: TOL [15:0]. -/
def posIndexTol_tol : Fld := ⟨0xa00000, 256, 0, 1, 0x1c, 0, 16⟩
/-- POS_SER_CTL: BITS [5:0]. -/
def posSerCtl_bits : Fld := ⟨0xa00000, 256, 0, 1, 0x20, 0, 6⟩
/-- POS_SER_CTL: GRAY [6:6]. -/
def posSerCtl_gray : Fld := ⟨0xa00000, 256, 0, 1, 0x20, 6, 1⟩
/-- POS_SER_CTL: CRC_EN [7:7]. -/
def posSerCtl_crcEn : Fld := ⟨0xa00000, 256, 0, 1, 0x20, 7, 1⟩
/-- POS_SER_CTL: CLK_DIV [15:8]. -/
def posSerCtl_clkDiv : Fld := ⟨0xa00000, 256, 0, 1, 0x20, 8, 8⟩
/-- POS_SER_CTL: DELAY [21:16]. -/
def posSerCtl_delay : Fld := ⟨0xa00000, 256, 0, 1, 0x20, 16, 6⟩
/-- POS_SER_TIMING: PERIOD [15:0]. -/
def posSerTiming_period : Fld := ⟨0xa00000, 256, 0, 1, 0x24, 0, 16⟩
/-- POS_SER_TIMING: LATCH [27:16]. -/
def posSerTiming_latch : Fld := ⟨0xa00000, 256, 0, 1, 0x24, 16, 12⟩
/-- POS_SER_ERR: BAD [15:0]. -/
def posSerErr_bad : Fld := ⟨0xa00000, 256, 0, 1, 0x28, 0, 16⟩
/-- POS_SER_ERR: JUMP [31:16]. -/
def posSerErr_jump : Fld := ⟨0xa00000, 256, 0, 1, 0x28, 16, 16⟩
/-- POS_SER_JUMP: LIMIT [23:0]. -/
def posSerJump_limit : Fld := ⟨0xa00000, 256, 0, 1, 0x2c, 0, 24⟩
/-- POS_SER_JUMP: COAST_MAX [27:24]. -/
def posSerJump_coastMax : Fld := ⟨0xa00000, 256, 0, 1, 0x2c, 24, 4⟩
/-- POS_SER_LAST_LO: DATA [31:0]. -/
def posSerLastLo_data : Fld := ⟨0xa00000, 256, 0, 1, 0x30, 0, 32⟩
/-- POS_SER_LAST_HI: DATA [15:0]. -/
def posSerLastHi_data : Fld := ⟨0xa00000, 256, 0, 1, 0x34, 0, 16⟩
/-- REEL_TRACK_CTL: SRC [3:0]. -/
def reelTrackCtl_src : Fld := ⟨0xa01000, 0, 0, 1, 0x0, 0, 4⟩
/-- REEL_TRACK_CTL: BW [6:4]. -/
def reelTrackCtl_bw : Fld := ⟨0xa01000, 0, 0, 1, 0x0, 4, 3⟩
/-- REEL_TRACK_CTL: FORWARD [8:8]. -/
def reelTrackCtl_forward : Fld := ⟨0xa01000, 0, 0, 1, 0x0, 8, 1⟩
/-- REEL_TRACK_CTL: TICK_DIV [13:12]. -/
def reelTrackCtl_tickDiv : Fld := ⟨0xa01000, 0, 0, 1, 0x0, 12, 2⟩
/-- REEL_TRACK_CTL: SHADOW_PENDING [16:16]. -/
def reelTrackCtl_shadowPending : Fld := ⟨0xa01000, 0, 0, 1, 0x0, 16, 1⟩
/-- REEL_RATIO_LO: RATIO [31:0]. -/
def reelRatioLo_ratio : Fld := ⟨0xa01000, 0, 0, 1, 0x8, 0, 32⟩
/-- REEL_RATIO_HI: RATIO [31:0]. -/
def reelRatioHi_ratio : Fld := ⟨0xa01000, 0, 0, 1, 0xc, 0, 32⟩
/-- REEL_RAMP: RAMP [4:0]. -/
def reelRamp_ramp : Fld := ⟨0xa01000, 0, 0, 1, 0x10, 0, 5⟩
/-- REEL_MIN_PERIOD: NS [15:0]. -/
def reelMinPeriod_ns : Fld := ⟨0xa01000, 0, 0, 1, 0x14, 0, 16⟩
/-- REEL_STOP_TIME: US [19:0]. -/
def reelStopTime_us : Fld := ⟨0xa01000, 0, 0, 1, 0x18, 0, 20⟩
/-- REEL_POS_LO: VALUE [31:0]. -/
def reelPosLo_value : Fld := ⟨0xa01000, 0, 0, 1, 0x20, 0, 32⟩
/-- REEL_POS_HI: VALUE [31:0]. -/
def reelPosHi_value : Fld := ⟨0xa01000, 0, 0, 1, 0x24, 0, 32⟩
/-- REEL_HWM_LO: VALUE [31:0]. -/
def reelHwmLo_value : Fld := ⟨0xa01000, 0, 0, 1, 0x28, 0, 32⟩
/-- REEL_HWM_HI: VALUE [31:0]. -/
def reelHwmHi_value : Fld := ⟨0xa01000, 0, 0, 1, 0x2c, 0, 32⟩
/-- REEL_POS_SET_LO: VALUE [31:0]. -/
def reelPosSetLo_value : Fld := ⟨0xa01000, 0, 0, 1, 0x30, 0, 32⟩
/-- REEL_POS_SET_HI: VALUE [31:0]. -/
def reelPosSetHi_value : Fld := ⟨0xa01000, 0, 0, 1, 0x34, 0, 32⟩
/-- REEL_ADJUST: OFFSET [31:0]. -/
def reelAdjust_offset : Fld := ⟨0xa01000, 0, 0, 1, 0x38, 0, 32⟩
/-- REEL_ADJ_LEFT: LEFT [31:0]. -/
def reelAdjLeft_left : Fld := ⟨0xa01000, 0, 0, 1, 0x3c, 0, 32⟩
/-- REEL_RATE: HZ [23:0]. -/
def reelRate_hz : Fld := ⟨0xa01000, 0, 0, 1, 0x40, 0, 24⟩
/-- REEL_RATE: NEG [31:31]. -/
def reelRate_neg : Fld := ⟨0xa01000, 0, 0, 1, 0x40, 31, 1⟩
/-- REEL_STAT: LOCKED [0:0]. -/
def reelStat_locked : Fld := ⟨0xa01000, 0, 0, 1, 0x44, 0, 1⟩
/-- REEL_STAT: STEP [1:1]. -/
def reelStat_step : Fld := ⟨0xa01000, 0, 0, 1, 0x44, 1, 1⟩
/-- REEL_STAT: UNCERTAIN [2:2]. -/
def reelStat_uncertain : Fld := ⟨0xa01000, 0, 0, 1, 0x44, 2, 1⟩
/-- REEL_STAT: COASTING [3:3]. -/
def reelStat_coasting : Fld := ⟨0xa01000, 0, 0, 1, 0x44, 3, 1⟩
/-- REEL_STAT: FOLLOW_LOST [4:4]. -/
def reelStat_followLost : Fld := ⟨0xa01000, 0, 0, 1, 0x44, 4, 1⟩
/-- REEL_STAT: OVERSPEED [5:5]. -/
def reelStat_overspeed : Fld := ⟨0xa01000, 0, 0, 1, 0x44, 5, 1⟩
/-- REEL_STAT: BW_LIMITED [6:6]. -/
def reelStat_bwLimited : Fld := ⟨0xa01000, 0, 0, 1, 0x44, 6, 1⟩
/-- REEL_STAT: ADJUSTING [7:7]. -/
def reelStat_adjusting : Fld := ⟨0xa01000, 0, 0, 1, 0x44, 7, 1⟩
/-- REEL_STAT: ISL [31:24]. -/
def reelStat_isl : Fld := ⟨0xa01000, 0, 0, 1, 0x44, 24, 8⟩
/-- REEL_CATCHUP: COUNT [31:0]. -/
def reelCatchup_count : Fld := ⟨0xa01000, 0, 0, 1, 0x48, 0, 32⟩
/-- REEL_TICK_SKIP: COUNT [31:0]. -/
def reelTickSkip_count : Fld := ⟨0xa01000, 0, 0, 1, 0x4c, 0, 32⟩
/-- REEL_CLAMP: COUNT [31:0]. -/
def reelClamp_count : Fld := ⟨0xa01000, 0, 0, 1, 0x50, 0, 32⟩
/-- REEL_LATE: COUNT [31:0]. -/
def reelLate_count : Fld := ⟨0xa01000, 0, 0, 1, 0x54, 0, 32⟩
/-- REEL_FOLLOW_CTL: ROLE [1:0]. -/
def reelFollowCtl_role : Fld := ⟨0xa01000, 0, 0, 1, 0x80, 0, 2⟩
/-- REEL_FOLLOW_CTL: RX_LANE [5:3]. -/
def reelFollowCtl_rxLane : Fld := ⟨0xa01000, 0, 0, 1, 0x80, 3, 3⟩
/-- REEL_FOLLOW_CTL: TX_LANES [15:8]. -/
def reelFollowCtl_txLanes : Fld := ⟨0xa01000, 0, 0, 1, 0x80, 8, 8⟩
/-- REEL_FOLLOW_CTL: LEADER_ID [23:16]. -/
def reelFollowCtl_leaderId : Fld := ⟨0xa01000, 0, 0, 1, 0x80, 16, 8⟩
/-- REEL_FOLLOW_CTL: TIMEOUT [27:24]. -/
def reelFollowCtl_timeout : Fld := ⟨0xa01000, 0, 0, 1, 0x80, 24, 4⟩
/-- REEL_FOLLOW_PERIOD: SAMPLE_PERIOD [15:0]. -/
def reelFollowPeriod_samplePeriod : Fld := ⟨0xa01000, 0, 0, 1, 0x84, 0, 16⟩
/-- REEL_FOLLOW_PERIOD: COAST_MAX [31:16]. -/
def reelFollowPeriod_coastMax : Fld := ⟨0xa01000, 0, 0, 1, 0x84, 16, 16⟩
/-- REEL_FOLLOW_LAT: PS [31:0]. -/
def reelFollowLat_ps : Fld := ⟨0xa01000, 0, 0, 1, 0x88, 0, 32⟩
/-- REEL_FOLLOW_STAT: HOPS_RX [1:0]. -/
def reelFollowStat_hopsRx : Fld := ⟨0xa01000, 0, 0, 1, 0x8c, 0, 2⟩
/-- REEL_FOLLOW_STAT: LEADER_RX [15:8]. -/
def reelFollowStat_leaderRx : Fld := ⟨0xa01000, 0, 0, 1, 0x8c, 8, 8⟩
/-- REEL_FOLLOW_ERR: MALFORMED [15:0]. -/
def reelFollowErr_malformed : Fld := ⟨0xa01000, 0, 0, 1, 0x90, 0, 16⟩
/-- REEL_FOLLOW_ERR: DEPTH [31:16]. -/
def reelFollowErr_depth : Fld := ⟨0xa01000, 0, 0, 1, 0x90, 16, 16⟩
/-- REEL_FOLLOW_SKIP: SKIPPED [31:0]. -/
def reelFollowSkip_skipped : Fld := ⟨0xa01000, 0, 0, 1, 0x94, 0, 32⟩
/-- SCHED_CTL: ENABLE [0:0]. -/
def schedCtl_enable : Fld := ⟨0xa01100, 32, 0, 1, 0x0, 0, 1⟩
/-- SCHED_CTL: PERIODIC [1:1]. -/
def schedCtl_periodic : Fld := ⟨0xa01100, 32, 0, 1, 0x0, 1, 1⟩
/-- SCHED_CTL: REL [2:2]. -/
def schedCtl_rel : Fld := ⟨0xa01100, 32, 0, 1, 0x0, 2, 1⟩
/-- SCHED_CTL: COUNT [31:16]. -/
def schedCtl_count : Fld := ⟨0xa01100, 32, 0, 1, 0x0, 16, 16⟩
/-- SCHED_TARGET_LO: TARGET [31:0]. -/
def schedTargetLo_target : Fld := ⟨0xa01100, 32, 0, 1, 0x4, 0, 32⟩
/-- SCHED_TARGET_HI: TARGET [31:0]. -/
def schedTargetHi_target : Fld := ⟨0xa01100, 32, 0, 1, 0x8, 0, 32⟩
/-- SCHED_PERIOD_LO: PERIOD [31:0]. -/
def schedPeriodLo_period : Fld := ⟨0xa01100, 32, 0, 1, 0xc, 0, 32⟩
/-- SCHED_PERIOD_HI: PERIOD [31:0]. -/
def schedPeriodHi_period : Fld := ⟨0xa01100, 32, 0, 1, 0x10, 0, 32⟩
/-- SCHED_STAT: ARMED [0:0]. -/
def schedStat_armed : Fld := ⟨0xa01100, 32, 0, 1, 0x14, 0, 1⟩
/-- SCHED_STAT: LATE [1:1]. -/
def schedStat_late : Fld := ⟨0xa01100, 32, 0, 1, 0x14, 1, 1⟩
/-- SCHED_STAT: OVERRUN [2:2]. -/
def schedStat_overrun : Fld := ⟨0xa01100, 32, 0, 1, 0x14, 2, 1⟩
/-- SCHED_STAT: MISSED [15:8]. -/
def schedStat_missed : Fld := ⟨0xa01100, 32, 0, 1, 0x14, 8, 8⟩
/-- SCHED_STAT: FIRES [31:16]. -/
def schedStat_fires : Fld := ⟨0xa01100, 32, 0, 1, 0x14, 16, 16⟩
/-- RCAP_CTL: AXIS [2:0]. -/
def rcapCtl_axis : Fld := ⟨0xa01200, 32, 0, 1, 0x0, 0, 3⟩
/-- RCAP_CTL: ENABLE [3:3]. -/
def rcapCtl_enable : Fld := ⟨0xa01200, 32, 0, 1, 0x0, 3, 1⟩
/-- RCAP_CTL: POP [4:4]. -/
def rcapCtl_pop : Fld := ⟨0xa01200, 32, 0, 1, 0x0, 4, 1⟩
/-- RCAP_POS_LO: POS [31:0]. -/
def rcapPosLo_pos : Fld := ⟨0xa01200, 32, 0, 1, 0x4, 0, 32⟩
/-- RCAP_POS_HI: POS [31:0]. -/
def rcapPosHi_pos : Fld := ⟨0xa01200, 32, 0, 1, 0x8, 0, 32⟩
/-- RCAP_TIME: TIME [31:0]. -/
def rcapTime_time : Fld := ⟨0xa01200, 32, 0, 1, 0xc, 0, 32⟩
/-- RCAP_COUNT: COUNT [31:0]. -/
def rcapCount_count : Fld := ⟨0xa01200, 32, 0, 1, 0x10, 0, 32⟩
/-- RCAP_STAT: LEVEL [2:0]. -/
def rcapStat_level : Fld := ⟨0xa01200, 32, 0, 1, 0x14, 0, 3⟩
/-- RCAP_STAT: OVERRUN [3:3]. -/
def rcapStat_overrun : Fld := ⟨0xa01200, 32, 0, 1, 0x14, 3, 1⟩
/-- RCAP_STAT: LOST [31:16]. -/
def rcapStat_lost : Fld := ⟨0xa01200, 32, 0, 1, 0x14, 16, 16⟩
/-- TIME_NOW_LO: VALUE [31:0]. -/
def timeNowLo_value : Fld := ⟨0xb00000, 0, 0, 1, 0x0, 0, 32⟩
/-- TIME_NOW_HI: VALUE [31:0]. -/
def timeNowHi_value : Fld := ⟨0xb00000, 0, 0, 1, 0x4, 0, 32⟩
/-- TIME_INC_LO: INC [31:0]. -/
def timeIncLo_inc : Fld := ⟨0xb00000, 0, 0, 1, 0x8, 0, 32⟩
/-- TIME_INC_HI: INC [31:0]. -/
def timeIncHi_inc : Fld := ⟨0xb00000, 0, 0, 1, 0xc, 0, 32⟩
/-- TIME_SLEW: SLEW_DELTA [31:0]. -/
def timeSlew_slewDelta : Fld := ⟨0xb00000, 0, 0, 1, 0x10, 0, 32⟩
/-- TIME_SLEW_TICKS: TICKS [31:0]. -/
def timeSlewTicks_ticks : Fld := ⟨0xb00000, 0, 0, 1, 0x14, 0, 32⟩
/-- TIME_STEP_LO: STEP [31:0]. -/
def timeStepLo_step : Fld := ⟨0xb00000, 0, 0, 1, 0x18, 0, 32⟩
/-- TIME_STEP_HI: STEP [31:0]. -/
def timeStepHi_step : Fld := ⟨0xb00000, 0, 0, 1, 0x1c, 0, 32⟩
/-- TIME_STAT: SLEWING [0:0]. -/
def timeStat_slewing : Fld := ⟨0xb00000, 0, 0, 1, 0x20, 0, 1⟩
/-- TIME_STAT: STEPPED [1:1]. -/
def timeStat_stepped : Fld := ⟨0xb00000, 0, 0, 1, 0x20, 1, 1⟩
/-- TIME_STAT: INC_CLAMP [2:2]. -/
def timeStat_incClamp : Fld := ⟨0xb00000, 0, 0, 1, 0x20, 2, 1⟩
/-- TIME_STAT: BASE_STALE [3:3]. -/
def timeStat_baseStale : Fld := ⟨0xb00000, 0, 0, 1, 0x20, 3, 1⟩
/-- TIME_STAT: PPS_IN_SEEN [4:4]. -/
def timeStat_ppsInSeen : Fld := ⟨0xb00000, 0, 0, 1, 0x20, 4, 1⟩
/-- TIME_STAT: ISL [31:24]. -/
def timeStat_isl : Fld := ⟨0xb00000, 0, 0, 1, 0x20, 24, 8⟩
/-- TIME_BASE_SEC_LO: VALUE [31:0]. -/
def timeBaseSecLo_value : Fld := ⟨0xb00000, 0, 0, 1, 0x30, 0, 32⟩
/-- TIME_BASE_SEC_HI: VALUE [15:0]. -/
def timeBaseSecHi_value : Fld := ⟨0xb00000, 0, 0, 1, 0x34, 0, 16⟩
/-- TIME_BASE_NSEC: VALUE [29:0]. -/
def timeBaseNsec_value : Fld := ⟨0xb00000, 0, 0, 1, 0x38, 0, 30⟩
/-- TIME_BASE_CNT: VALUE [31:0]. -/
def timeBaseCnt_value : Fld := ⟨0xb00000, 0, 0, 1, 0x3c, 0, 32⟩
/-- TIME_PPS_CTL: OUT_SRC [1:0]. -/
def timePpsCtl_outSrc : Fld := ⟨0xb00000, 0, 0, 1, 0x40, 0, 2⟩
/-- TIME_PPS_CTL: IN_EDGE [2:2]. -/
def timePpsCtl_inEdge : Fld := ⟨0xb00000, 0, 0, 1, 0x40, 2, 1⟩
/-- TIME_PPS_CTL: WIDTH_MS [17:8]. -/
def timePpsCtl_widthMs : Fld := ⟨0xb00000, 0, 0, 1, 0x40, 8, 10⟩
/-- TIME_PPS_CTL: PPS_IN_OVER [31:24]. -/
def timePpsCtl_ppsInOver : Fld := ⟨0xb00000, 0, 0, 1, 0x40, 24, 8⟩
/-- TIME_PPS_IN_LO: STAMP [31:0]. -/
def timePpsInLo_stamp : Fld := ⟨0xb00000, 0, 0, 1, 0x48, 0, 32⟩
/-- TIME_PPS_IN_HI: STAMP [31:0]. -/
def timePpsInHi_stamp : Fld := ⟨0xb00000, 0, 0, 1, 0x4c, 0, 32⟩
/-- TCAP_CTL: ENABLE [0:0]. -/
def tcapCtl_enable : Fld := ⟨0xb00080, 16, 0, 1, 0x0, 0, 1⟩
/-- TCAP_CTL: POP [1:1]. -/
def tcapCtl_pop : Fld := ⟨0xb00080, 16, 0, 1, 0x0, 1, 1⟩
/-- TCAP_CTL: LEVEL [4:2]. -/
def tcapCtl_level : Fld := ⟨0xb00080, 16, 0, 1, 0x0, 2, 3⟩
/-- TCAP_CTL: OVERRUN [5:5]. -/
def tcapCtl_overrun : Fld := ⟨0xb00080, 16, 0, 1, 0x0, 5, 1⟩
/-- TCAP_CTL: LOST [31:16]. -/
def tcapCtl_lost : Fld := ⟨0xb00080, 16, 0, 1, 0x0, 16, 16⟩
/-- TCAP_TIME_LO: TIME [31:0]. -/
def tcapTimeLo_time : Fld := ⟨0xb00080, 16, 0, 1, 0x4, 0, 32⟩
/-- TCAP_TIME_HI: TIME [31:0]. -/
def tcapTimeHi_time : Fld := ⟨0xb00080, 16, 0, 1, 0x8, 0, 32⟩
/-- COMP_CTL: ENABLE [0:0]. -/
def compCtl_enable : Fld := ⟨0xb00400, 32, 0, 1, 0x0, 0, 1⟩
/-- COMP_CTL: PERIODIC [1:1]. -/
def compCtl_periodic : Fld := ⟨0xb00400, 32, 0, 1, 0x0, 1, 1⟩
/-- COMP_CTL: COUNT [31:16]. -/
def compCtl_count : Fld := ⟨0xb00400, 32, 0, 1, 0x0, 16, 16⟩
/-- COMP_TARGET_LO: TARGET [31:0]. -/
def compTargetLo_target : Fld := ⟨0xb00400, 32, 0, 1, 0x4, 0, 32⟩
/-- COMP_TARGET_HI: TARGET [31:0]. -/
def compTargetHi_target : Fld := ⟨0xb00400, 32, 0, 1, 0x8, 0, 32⟩
/-- COMP_PERIOD_LO: PERIOD [31:0]. -/
def compPeriodLo_period : Fld := ⟨0xb00400, 32, 0, 1, 0xc, 0, 32⟩
/-- COMP_PERIOD_HI: PERIOD [31:0]. -/
def compPeriodHi_period : Fld := ⟨0xb00400, 32, 0, 1, 0x10, 0, 32⟩
/-- COMP_STAT: ARMED [0:0]. -/
def compStat_armed : Fld := ⟨0xb00400, 32, 0, 1, 0x14, 0, 1⟩
/-- COMP_STAT: LATE [1:1]. -/
def compStat_late : Fld := ⟨0xb00400, 32, 0, 1, 0x14, 1, 1⟩
/-- COMP_STAT: DENIED [2:2]. -/
def compStat_denied : Fld := ⟨0xb00400, 32, 0, 1, 0x14, 2, 1⟩
/-- COMP_STAT: MISSED [15:8]. -/
def compStat_missed : Fld := ⟨0xb00400, 32, 0, 1, 0x14, 8, 8⟩
/-- COMP_STAT: FIRES [31:16]. -/
def compStat_fires : Fld := ⟨0xb00400, 32, 0, 1, 0x14, 16, 16⟩
/-- PULSE_CTL: ENABLE [0:0]. -/
def pulseCtl_enable : Fld := ⟨0xb00600, 32, 0, 1, 0x0, 0, 1⟩
/-- PULSE_CTL: PERIODIC [1:1]. -/
def pulseCtl_periodic : Fld := ⟨0xb00600, 32, 0, 1, 0x0, 1, 1⟩
/-- PULSE_CTL: POLARITY [2:2]. -/
def pulseCtl_polarity : Fld := ⟨0xb00600, 32, 0, 1, 0x0, 2, 1⟩
/-- PULSE_CTL: SRC [3:3]. -/
def pulseCtl_src : Fld := ⟨0xb00600, 32, 0, 1, 0x0, 3, 1⟩
/-- PULSE_CTL: COUNT [31:16]. -/
def pulseCtl_count : Fld := ⟨0xb00600, 32, 0, 1, 0x0, 16, 16⟩
/-- PULSE_START_LO: START [31:0]. -/
def pulseStartLo_start : Fld := ⟨0xb00600, 32, 0, 1, 0x4, 0, 32⟩
/-- PULSE_START_HI: START [31:0]. -/
def pulseStartHi_start : Fld := ⟨0xb00600, 32, 0, 1, 0x8, 0, 32⟩
/-- PULSE_WIDTH: WIDTH [31:0]. -/
def pulseWidth_width : Fld := ⟨0xb00600, 32, 0, 1, 0xc, 0, 32⟩
/-- PULSE_PERIOD_LO: PERIOD [31:0]. -/
def pulsePeriodLo_period : Fld := ⟨0xb00600, 32, 0, 1, 0x10, 0, 32⟩
/-- PULSE_PERIOD_HI: PERIOD [31:0]. -/
def pulsePeriodHi_period : Fld := ⟨0xb00600, 32, 0, 1, 0x14, 0, 32⟩
/-- PULSE_STAT: RUNNING [0:0]. -/
def pulseStat_running : Fld := ⟨0xb00600, 32, 0, 1, 0x18, 0, 1⟩
/-- PULSE_STAT: OVERRUN [1:1]. -/
def pulseStat_overrun : Fld := ⟨0xb00600, 32, 0, 1, 0x18, 1, 1⟩
/-- PULSE_STAT: DENIED [2:2]. -/
def pulseStat_denied : Fld := ⟨0xb00600, 32, 0, 1, 0x18, 2, 1⟩
/-- PULSE_STAT: LATE [3:3]. -/
def pulseStat_late : Fld := ⟨0xb00600, 32, 0, 1, 0x18, 3, 1⟩
/-- MAC_CTL: PROMISC [0:0]. -/
def macCtl_promisc : Fld := ⟨0xb10000, 1024, 0, 1, 0x0, 0, 1⟩
/-- MAC_CTL: PTP_MCAST [1:1]. -/
def macCtl_ptpMcast : Fld := ⟨0xb10000, 1024, 0, 1, 0x0, 1, 1⟩
/-- MAC_STAT: LINK_UP [0:0]. -/
def macStat_linkUp : Fld := ⟨0xb10000, 1024, 0, 1, 0x4, 0, 1⟩
/-- MAC_STAT: AN_DONE [1:1]. -/
def macStat_anDone : Fld := ⟨0xb10000, 1024, 0, 1, 0x4, 1, 1⟩
/-- MAC_STAT: FEC_ON [2:2]. -/
def macStat_fecOn : Fld := ⟨0xb10000, 1024, 0, 1, 0x4, 2, 1⟩
/-- MAC_STAT: SPEED [4:3]. -/
def macStat_speed : Fld := ⟨0xb10000, 1024, 0, 1, 0x4, 3, 2⟩
/-- MAC_STAT: ISL [31:24]. -/
def macStat_isl : Fld := ⟨0xb10000, 1024, 0, 1, 0x4, 24, 8⟩
/-- MAC_ADDR_LO: ADDR [31:0]. -/
def macAddrLo_addr : Fld := ⟨0xb10000, 1024, 0, 1, 0x8, 0, 32⟩
/-- MAC_ADDR_HI: ADDR [15:0]. -/
def macAddrHi_addr : Fld := ⟨0xb10000, 1024, 0, 1, 0xc, 0, 16⟩
/-- MAC_TS_TXADJ: PS [31:0]. -/
def macTsTxadj_ps : Fld := ⟨0xb10000, 1024, 0, 1, 0x10, 0, 32⟩
/-- MAC_TS_RXADJ: PS [31:0]. -/
def macTsRxadj_ps : Fld := ⟨0xb10000, 1024, 0, 1, 0x14, 0, 32⟩
/-- MAC_TS_FIFO: TAG [15:0]. -/
def macTsFifo_tag : Fld := ⟨0xb10000, 1024, 0, 1, 0x20, 0, 16⟩
/-- MAC_TS_FIFO: ONE_STEP_FAIL [16:16]. -/
def macTsFifo_oneStepFail : Fld := ⟨0xb10000, 1024, 0, 1, 0x20, 16, 1⟩
/-- MAC_TS_FIFO: LEVEL [28:24]. -/
def macTsFifo_level : Fld := ⟨0xb10000, 1024, 0, 1, 0x20, 24, 5⟩
/-- MAC_TS_FIFO: POP [31:31]. -/
def macTsFifo_pop : Fld := ⟨0xb10000, 1024, 0, 1, 0x20, 31, 1⟩
/-- MAC_TS_LO: TS [31:0]. -/
def macTsLo_ts : Fld := ⟨0xb10000, 1024, 0, 1, 0x24, 0, 32⟩
/-- MAC_TS_HI: TS [31:0]. -/
def macTsHi_ts : Fld := ⟨0xb10000, 1024, 0, 1, 0x28, 0, 32⟩
/-- MAC_TS_LOST: TS_LOST [15:0]. -/
def macTsLost_tsLost : Fld := ⟨0xb10000, 1024, 0, 1, 0x2c, 0, 16⟩
/-- MAC_CNT, word k of 8: COUNT [31:0]. -/
def macCnt_count (k : Nat) : Fld := ⟨0xb10000, 1024, 0, 1, 0x40 + 4 * k, 0, 32⟩
/-- NET_DEV_UDP: PORT [15:0]. -/
def netDevUdp_port : Fld := ⟨0xb20000, 0, 0, 1, 0x0, 0, 16⟩
/-- TEMPLATE_WORD: WORD [31:0]. -/
def templateWord_word : Fld := ⟨0xb21000, 4, 0, 1, 0x0, 0, 32⟩
/-- TEMPLATE_CTL: HDR_LEN [5:0]. -/
def templateCtl_hdrLen : Fld := ⟨0xb21400, 4, 0, 1, 0x0, 0, 6⟩
/-- TEMPLATE_CTL: CSUM [6:6]. -/
def templateCtl_csum : Fld := ⟨0xb21400, 4, 0, 1, 0x0, 6, 1⟩
/-- TEMPLATE_CTL: VALID [7:7]. -/
def templateCtl_valid : Fld := ⟨0xb21400, 4, 0, 1, 0x0, 7, 1⟩
/-- TEMPLATE_CTL: TEMPLATE_BAD [8:8]. -/
def templateCtl_templateBad : Fld := ⟨0xb21400, 4, 0, 1, 0x0, 8, 1⟩
/-- TEMPLATE_CTL: IDENT [31:16]. -/
def templateCtl_ident : Fld := ⟨0xb21400, 4, 0, 1, 0x0, 16, 16⟩
/-- STREAM_CFG: ENABLE [0:0]. -/
def streamCfg_enable : Fld := ⟨0xb22000, 8, 0, 1, 0x0, 0, 1⟩
/-- STREAM_CFG: TEMPLATE [4:1]. -/
def streamCfg_template : Fld := ⟨0xb22000, 8, 0, 1, 0x0, 1, 4⟩
/-- STREAM_CFG: EGRESS [11:8]. -/
def streamCfg_egress : Fld := ⟨0xb22000, 8, 0, 1, 0x0, 8, 4⟩
/-- STREAM_CFG: MAX_ITEMS [27:16]. -/
def streamCfg_maxItems : Fld := ⟨0xb22000, 8, 0, 1, 0x0, 16, 12⟩
/-- STREAM_LIM: MAX_PAYLOAD [13:0]. -/
def streamLim_maxPayload : Fld := ⟨0xb22000, 8, 0, 1, 0x4, 0, 14⟩
/-- STREAM_LIM: FLUSH_US [31:16]. -/
def streamLim_flushUs : Fld := ⟨0xb22000, 8, 0, 1, 0x4, 16, 16⟩
/-- HEADBOX_FRAME_LEN: F_MINUS_1 [15:0]. -/
def headboxFrameLen_fMinus1 : Fld := ⟨0x30f000, 0, 0, 1, 0x0, 0, 16⟩
/-- HEADBOX_PORT_CTL: SENSORS [3:0]. -/
def headboxPortCtl_sensors : Fld := ⟨0x300000, 4096, 0, 1, 0x0, 0, 4⟩
/-- HEADBOX_PORT_CTL: FRAME_CHECK [4:4]. -/
def headboxPortCtl_frameCheck : Fld := ⟨0x300000, 4096, 0, 1, 0x0, 4, 1⟩
/-- HEADBOX_PORT_STAT: BOND_UP [0:0]. -/
def headboxPortStat_bondUp : Fld := ⟨0x300000, 4096, 0, 1, 0x4, 0, 1⟩
/-- HEADBOX_PORT_STAT: BOND_DROPPED [1:1]. -/
def headboxPortStat_bondDropped : Fld := ⟨0x300000, 4096, 0, 1, 0x4, 1, 1⟩
/-- HEADBOX_PORT_STAT: ISL [31:24]. -/
def headboxPortStat_isl : Fld := ⟨0x300000, 4096, 0, 1, 0x4, 24, 8⟩
/-- HEADBOX_LINE_TIMEOUT: NS [23:0]. -/
def headboxLineTimeout_ns : Fld := ⟨0x300000, 4096, 0, 1, 0x8, 0, 24⟩
/-- HEADBOX_CCTL: SENSOR [1:0]. -/
def headboxCctl_sensor : Fld := ⟨0x300000, 4096, 0, 1, 0x20, 0, 2⟩
/-- HEADBOX_CCTL: WRITE [2:2]. -/
def headboxCctl_write : Fld := ⟨0x300000, 4096, 0, 1, 0x20, 2, 1⟩
/-- HEADBOX_CCTL: GO [3:3]. -/
def headboxCctl_go : Fld := ⟨0x300000, 4096, 0, 1, 0x20, 3, 1⟩
/-- HEADBOX_CCTL: BUSY [4:4]. -/
def headboxCctl_busy : Fld := ⟨0x300000, 4096, 0, 1, 0x20, 4, 1⟩
/-- HEADBOX_CCTL: RESULT [7:5]. -/
def headboxCctl_result : Fld := ⟨0x300000, 4096, 0, 1, 0x20, 5, 3⟩
/-- HEADBOX_CCTL: CTAG [12:8]. -/
def headboxCctl_ctag : Fld := ⟨0x300000, 4096, 0, 1, 0x20, 8, 5⟩
/-- HEADBOX_CCTL: ACK_BAD [31:16]. -/
def headboxCctl_ackBad : Fld := ⟨0x300000, 4096, 0, 1, 0x20, 16, 16⟩
/-- HEADBOX_CCTL_ADDR: ADDR [31:0]. -/
def headboxCctlAddr_addr : Fld := ⟨0x300000, 4096, 0, 1, 0x24, 0, 32⟩
/-- HEADBOX_CCTL_DATA: DATA [31:0]. -/
def headboxCctlData_data : Fld := ⟨0x300000, 4096, 0, 1, 0x28, 0, 32⟩
/-- HEADBOX_CAM_STAT: READY [0:0]. -/
def headboxCamStat_ready : Fld := ⟨0x300030, 4096, 4, 4, 0x0, 0, 1⟩
/-- HEADBOX_CAM_STAT: ALERT [1:1]. -/
def headboxCamStat_alert : Fld := ⟨0x300030, 4096, 4, 4, 0x0, 1, 1⟩
/-- HEADBOX_CAM_STAT: SILENT [2:2]. -/
def headboxCamStat_silent : Fld := ⟨0x300030, 4096, 4, 4, 0x0, 2, 1⟩
/-- HEADBOX_CAM_STAT: CODE [31:16]. -/
def headboxCamStat_code : Fld := ⟨0x300030, 4096, 4, 4, 0x0, 16, 16⟩
/-- HEADBOX_CH_CFG: WIDTH [14:0]. -/
def headboxChCfg_width : Fld := ⟨0x300100, 4096, 128, 4, 0x0, 0, 15⟩
/-- HEADBOX_CH_CFG: DEPTH [17:16]. -/
def headboxChCfg_depth : Fld := ⟨0x300100, 4096, 128, 4, 0x0, 16, 2⟩
/-- HEADBOX_CH_STAT: FILL [14:0]. -/
def headboxChStat_fill : Fld := ⟨0x300100, 4096, 128, 4, 0x4, 0, 15⟩
/-- HEADBOX_CH_STAT: HWM [16:16]. -/
def headboxChStat_hwm : Fld := ⟨0x300100, 4096, 128, 4, 0x4, 16, 1⟩
/-- HEADBOX_CH_STAT: LONG_FRAME [17:17]. -/
def headboxChStat_longFrame : Fld := ⟨0x300100, 4096, 128, 4, 0x4, 17, 1⟩
/-- HEADBOX_CH_STAT: IN_LONG [18:18]. -/
def headboxChStat_inLong : Fld := ⟨0x300100, 4096, 128, 4, 0x4, 18, 1⟩
/-- HEADBOX_CH_STAT: RATE_OVER [19:19]. -/
def headboxChStat_rateOver : Fld := ⟨0x300100, 4096, 128, 4, 0x4, 19, 1⟩
/-- HEADBOX_CH_STAT: ISL [31:24]. -/
def headboxChStat_isl : Fld := ⟨0x300100, 4096, 128, 4, 0x4, 24, 8⟩
/-- HEADBOX_CH_PEAK: PEAK [14:0]. -/
def headboxChPeak_peak : Fld := ⟨0x300100, 4096, 128, 4, 0x8, 0, 15⟩
/-- HEADBOX_CH_TAG: TAG [31:0]. -/
def headboxChTag_tag : Fld := ⟨0x300100, 4096, 128, 4, 0xc, 0, 32⟩
/-- HEADBOX_CH_FRAME: FRAME [31:0]. -/
def headboxChFrame_frame : Fld := ⟨0x300100, 4096, 128, 4, 0x10, 0, 32⟩
/-- HEADBOX_CNT, word k of 12: COUNT [31:0]. -/
def headboxCnt_count (k : Nat) : Fld := ⟨0x300100, 4096, 128, 4, 0x20 + 4 * k, 0, 32⟩
/-- HEADBOX_CH_HELD_DROP: HELD_DROP [31:0]. -/
def headboxChHeldDrop_heldDrop : Fld := ⟨0x300100, 4096, 128, 4, 0x50, 0, 32⟩
/-- CAL_CTL: CORR_EN [0:0]. -/
def calCtl_corrEn : Fld := ⟨0x400000, 16384, 0, 1, 0x0, 0, 1⟩
/-- CAL_CTL: SUBST_EN [1:1]. -/
def calCtl_substEn : Fld := ⟨0x400000, 16384, 0, 1, 0x0, 1, 1⟩
/-- CAL_CTL: HANDOVER_AT [4:4]. -/
def calCtl_handoverAt : Fld := ⟨0x400000, 16384, 0, 1, 0x0, 4, 1⟩
/-- CAL_BLACK: BLACK [13:0]. -/
def calBlack_black : Fld := ⟨0x400000, 16384, 0, 1, 0x4, 0, 14⟩
/-- CAL_RS_X0: X0 [31:0]. -/
def calRsX0_x0 : Fld := ⟨0x400000, 16384, 0, 1, 0x8, 0, 32⟩
/-- CAL_RS_STEP: STEP [17:0]. -/
def calRsStep_step : Fld := ⟨0x400000, 16384, 0, 1, 0xc, 0, 18⟩
/-- CAL_RS_WOUT: WOUT [14:0]. -/
def calRsWout_wout : Fld := ⟨0x400000, 16384, 0, 1, 0x10, 0, 15⟩
/-- CAL_RS_WOUT: RESAMPLE_EN [31:31]. -/
def calRsWout_resampleEn : Fld := ⟨0x400000, 16384, 0, 1, 0x10, 31, 1⟩
/-- CAL_SHADOW_CTL: COMMIT [0:0]. -/
def calShadowCtl_commit : Fld := ⟨0x400000, 16384, 0, 1, 0x20, 0, 1⟩
/-- CAL_SHADOW_CTL: DISCARD [1:1]. -/
def calShadowCtl_discard : Fld := ⟨0x400000, 16384, 0, 1, 0x20, 1, 1⟩
/-- CAL_SHADOW_CTL: SHADOW_PENDING [2:2]. -/
def calShadowCtl_shadowPending : Fld := ⟨0x400000, 16384, 0, 1, 0x20, 2, 1⟩
/-- CAL_SHADOW_CTL: ARMED [3:3]. -/
def calShadowCtl_armed : Fld := ⟨0x400000, 16384, 0, 1, 0x20, 3, 1⟩
/-- CAL_SHADOW_CTL: SYNCING [4:4]. -/
def calShadowCtl_syncing : Fld := ⟨0x400000, 16384, 0, 1, 0x20, 4, 1⟩
/-- CAL_SHADOW_CTL: VIEW [5:5]. -/
def calShadowCtl_view : Fld := ⟨0x400000, 16384, 0, 1, 0x20, 5, 1⟩
/-- CAL_SHADOW_CTL: HO_DEFERRED [6:6]. -/
def calShadowCtl_hoDeferred : Fld := ⟨0x400000, 16384, 0, 1, 0x20, 6, 1⟩
/-- CAL_SHADOW_CTL: HANDOVERS [31:16]. -/
def calShadowCtl_handovers : Fld := ⟨0x400000, 16384, 0, 1, 0x20, 16, 16⟩
/-- CAL_STAT: SHORT_FRAME [0:0]. -/
def calStat_shortFrame : Fld := ⟨0x400000, 16384, 0, 1, 0x40, 0, 1⟩
/-- CAL_STAT: COEF_ERR [1:1]. -/
def calStat_coefErr : Fld := ⟨0x400000, 16384, 0, 1, 0x40, 1, 1⟩
/-- CAL_STAT: ISL [31:24]. -/
def calStat_isl : Fld := ⟨0x400000, 16384, 0, 1, 0x40, 24, 8⟩
/-- CAL_FRAME: FRAME [31:0]. -/
def calFrame_frame : Fld := ⟨0x400000, 16384, 0, 1, 0x44, 0, 32⟩
/-- CAL_SHORT_COUNT: COUNT [16:0]. -/
def calShortCount_count : Fld := ⟨0x400000, 16384, 0, 1, 0x48, 0, 17⟩
/-- CAL_COEF_ERR_IDX: INDEX [13:0]. -/
def calCoefErrIdx_index : Fld := ⟨0x400000, 16384, 0, 1, 0x4c, 0, 14⟩
/-- CAL_CNT, word k of 8: COUNT [31:0]. -/
def calCnt_count (k : Nat) : Fld := ⟨0x400000, 16384, 0, 1, 0x60 + 4 * k, 0, 32⟩
/-- CAL_ACTIVE_CTL: CORR_EN [0:0]. -/
def calActiveCtl_corrEn : Fld := ⟨0x400000, 16384, 0, 1, 0x100, 0, 1⟩
/-- CAL_ACTIVE_CTL: SUBST_EN [1:1]. -/
def calActiveCtl_substEn : Fld := ⟨0x400000, 16384, 0, 1, 0x100, 1, 1⟩
/-- CAL_ACTIVE_BLACK: BLACK [13:0]. -/
def calActiveBlack_black : Fld := ⟨0x400000, 16384, 0, 1, 0x104, 0, 14⟩
/-- CAL_ACTIVE_X0: X0 [31:0]. -/
def calActiveX0_x0 : Fld := ⟨0x400000, 16384, 0, 1, 0x108, 0, 32⟩
/-- CAL_ACTIVE_STEP: STEP [17:0]. -/
def calActiveStep_step : Fld := ⟨0x400000, 16384, 0, 1, 0x10c, 0, 18⟩
/-- COEF_WORD: WORD [31:0]. -/
def coefWord_word : Fld := ⟨0x2200000, 4, 0, 1, 0x0, 0, 32⟩
/-- RIDGE_CTL: ROT_EN [0:0]. -/
def ridgeCtl_rotEn : Fld := ⟨0x600000, 262144, 0, 1, 0x0, 0, 1⟩
/-- RIDGE_CTL: ROT_NOW [1:1]. -/
def ridgeCtl_rotNow : Fld := ⟨0x600000, 262144, 0, 1, 0x0, 1, 1⟩
/-- RIDGE_STAT: STATE [1:0]. -/
def ridgeStat_state : Fld := ⟨0x600000, 262144, 0, 1, 0x4, 0, 2⟩
/-- RIDGE_STAT: INLINE_PORT [2:2]. -/
def ridgeStat_inlinePort : Fld := ⟨0x600000, 262144, 0, 1, 0x4, 2, 1⟩
/-- RIDGE_STAT: NODES [6:3]. -/
def ridgeStat_nodes : Fld := ⟨0x600000, 262144, 0, 1, 0x4, 3, 4⟩
/-- RIDGE_STAT: WORKING [10:7]. -/
def ridgeStat_working : Fld := ⟨0x600000, 262144, 0, 1, 0x4, 7, 4⟩
/-- RIDGE_STAT: NO_SPARE [11:11]. -/
def ridgeStat_noSpare : Fld := ⟨0x600000, 262144, 0, 1, 0x4, 11, 1⟩
/-- RIDGE_STAT: ISL [31:24]. -/
def ridgeStat_isl : Fld := ⟨0x600000, 262144, 0, 1, 0x4, 24, 8⟩
/-- RIDGE_EVT_MASK: MASK [7:0]. -/
def ridgeEvtMask_mask : Fld := ⟨0x600000, 262144, 0, 1, 0x8, 0, 8⟩
/-- RIDGE_EVT: FRAME_END_INLINE [0:0]. -/
def ridgeEvt_frameEndInline : Fld := ⟨0x600000, 262144, 0, 1, 0xc, 0, 1⟩
/-- RIDGE_EVT: FRAME_END_MEM [1:1]. -/
def ridgeEvt_frameEndMem : Fld := ⟨0x600000, 262144, 0, 1, 0xc, 1, 1⟩
/-- RIDGE_EVT: FRAME_DROP [2:2]. -/
def ridgeEvt_frameDrop : Fld := ⟨0x600000, 262144, 0, 1, 0xc, 2, 1⟩
/-- RIDGE_EVT: INLINE_OVER [3:3]. -/
def ridgeEvt_inlineOver : Fld := ⟨0x600000, 262144, 0, 1, 0xc, 3, 1⟩
/-- RIDGE_EVT: MISMATCH [4:4]. -/
def ridgeEvt_mismatch : Fld := ⟨0x600000, 262144, 0, 1, 0xc, 4, 1⟩
/-- RIDGE_EVT: RETIRE [5:5]. -/
def ridgeEvt_retire : Fld := ⟨0x600000, 262144, 0, 1, 0xc, 5, 1⟩
/-- RIDGE_EVT: SLICE_NOT_PASS [6:6]. -/
def ridgeEvt_sliceNotPass : Fld := ⟨0x600000, 262144, 0, 1, 0xc, 6, 1⟩
/-- RIDGE_EVT: HELD [7:7]. -/
def ridgeEvt_held : Fld := ⟨0x600000, 262144, 0, 1, 0xc, 7, 1⟩
/-- RIDGE_INLINE_STAT: FILL [12:0]. -/
def ridgeInlineStat_fill : Fld := ⟨0x600000, 262144, 0, 1, 0x10, 0, 13⟩
/-- RIDGE_INLINE_STAT: HWM [13:13]. -/
def ridgeInlineStat_hwm : Fld := ⟨0x600000, 262144, 0, 1, 0x10, 13, 1⟩
/-- RIDGE_INLINE_STAT: PEAK [28:16]. -/
def ridgeInlineStat_peak : Fld := ⟨0x600000, 262144, 0, 1, 0x10, 16, 13⟩
/-- RIDGE_SLOT_STAT: SLOTS [4:0]. -/
def ridgeSlotStat_slots : Fld := ⟨0x600000, 262144, 0, 1, 0x14, 0, 5⟩
/-- RIDGE_SLOT_STAT: USED [12:8]. -/
def ridgeSlotStat_used : Fld := ⟨0x600000, 262144, 0, 1, 0x14, 8, 5⟩
/-- RIDGE_SLOT_STAT: PEAK [20:16]. -/
def ridgeSlotStat_peak : Fld := ⟨0x600000, 262144, 0, 1, 0x14, 16, 5⟩
/-- RIDGE_SLOT_STAT: QUEUED [27:24]. -/
def ridgeSlotStat_queued : Fld := ⟨0x600000, 262144, 0, 1, 0x14, 24, 4⟩
/-- RIDGE_SLOT_STAT: HWM [28:28]. -/
def ridgeSlotStat_hwm : Fld := ⟨0x600000, 262144, 0, 1, 0x14, 28, 1⟩
/-- RIDGE_LAG: LINES [17:0]. -/
def ridgeLag_lines : Fld := ⟨0x600000, 262144, 0, 1, 0x18, 0, 18⟩
/-- RIDGE_LAG_PEAK: LINES [17:0]. -/
def ridgeLagPeak_lines : Fld := ⟨0x600000, 262144, 0, 1, 0x1c, 0, 18⟩
/-- RIDGE_FRAME_INLINE: FRAME [31:0]. -/
def ridgeFrameInline_frame : Fld := ⟨0x600000, 262144, 0, 1, 0x20, 0, 32⟩
/-- RIDGE_FRAME_MEM: FRAME [31:0]. -/
def ridgeFrameMem_frame : Fld := ⟨0x600000, 262144, 0, 1, 0x24, 0, 32⟩
/-- RIDGE_CNT, word k of 6: COUNT [31:0]. -/
def ridgeCnt_count (k : Nat) : Fld := ⟨0x600000, 262144, 0, 1, 0x40 + 4 * k, 0, 32⟩
/-- RIDGE_ROT_CTL: PERIOD_MS [15:0]. -/
def ridgeRotCtl_periodMs : Fld := ⟨0x600000, 262144, 0, 1, 0x80, 0, 16⟩
/-- RIDGE_ROT_CTL: BUDGET [22:16]. -/
def ridgeRotCtl_budget : Fld := ⟨0x600000, 262144, 0, 1, 0x80, 16, 7⟩
/-- RIDGE_ROT_CTL: PATTERNS [28:24]. -/
def ridgeRotCtl_patterns : Fld := ⟨0x600000, 262144, 0, 1, 0x80, 24, 5⟩
/-- RIDGE_ROT_STAT: STEP [2:0]. -/
def ridgeRotStat_step : Fld := ⟨0x600000, 262144, 0, 1, 0x84, 0, 3⟩
/-- RIDGE_ROT_STAT: RETRY [3:3]. -/
def ridgeRotStat_retry : Fld := ⟨0x600000, 262144, 0, 1, 0x84, 3, 1⟩
/-- RIDGE_ROT_STAT: SPARE [7:4]. -/
def ridgeRotStat_spare : Fld := ⟨0x600000, 262144, 0, 1, 0x84, 4, 4⟩
/-- RIDGE_ROT_STAT: TARGET_SLOT [11:8]. -/
def ridgeRotStat_targetSlot : Fld := ⟨0x600000, 262144, 0, 1, 0x84, 8, 4⟩
/-- RIDGE_ROT_STAT: UNDER_TEST [15:12]. -/
def ridgeRotStat_underTest : Fld := ⟨0x600000, 262144, 0, 1, 0x84, 12, 4⟩
/-- RIDGE_ROT_STAT: SHADOW_LINES [22:16]. -/
def ridgeRotStat_shadowLines : Fld := ⟨0x600000, 262144, 0, 1, 0x84, 16, 7⟩
/-- RIDGE_SPUR_MAP: MAP [31:0]. -/
def ridgeSpurMap_map : Fld := ⟨0x600000, 262144, 0, 1, 0x88, 0, 32⟩
/-- RIDGE_ROT_CNT, word k of 6: COUNT [31:0]. -/
def ridgeRotCnt_count (k : Nat) : Fld := ⟨0x600000, 262144, 0, 1, 0xa0 + 4 * k, 0, 32⟩
/-- RIDGE_SUSPECT_FIRST_LO: POS [31:0]. -/
def ridgeSuspectFirstLo_pos : Fld := ⟨0x600000, 262144, 0, 1, 0xc0, 0, 32⟩
/-- RIDGE_SUSPECT_FIRST_HI: POS [31:0]. -/
def ridgeSuspectFirstHi_pos : Fld := ⟨0x600000, 262144, 0, 1, 0xc4, 0, 32⟩
/-- RIDGE_SUSPECT_LAST_LO: POS [31:0]. -/
def ridgeSuspectLastLo_pos : Fld := ⟨0x600000, 262144, 0, 1, 0xc8, 0, 32⟩
/-- RIDGE_SUSPECT_LAST_HI: POS [31:0]. -/
def ridgeSuspectLastHi_pos : Fld := ⟨0x600000, 262144, 0, 1, 0xcc, 0, 32⟩
/-- RIDGE_PARAM_STAT: PENDING [0:0]. -/
def ridgeParamStat_pending : Fld := ⟨0x600000, 262144, 0, 1, 0x200, 0, 1⟩
/-- RIDGE_PARAM_FRAME: FRAME_EFF [31:0]. -/
def ridgeParamFrame_frameEff : Fld := ⟨0x600000, 262144, 0, 1, 0x204, 0, 32⟩
/-- RIDGE_SPUR_STAT: ROLE [2:0]. -/
def ridgeSpurStat_role : Fld := ⟨0x600100, 262144, 4, 9, 0x0, 0, 3⟩
/-- RIDGE_SPUR_STAT: SLOT [6:3]. -/
def ridgeSpurStat_slot : Fld := ⟨0x600100, 262144, 4, 9, 0x0, 3, 4⟩
/-- RIDGE_SPUR_STAT: BOOT_RETIRED [7:7]. -/
def ridgeSpurStat_bootRetired : Fld := ⟨0x600100, 262144, 4, 9, 0x0, 7, 1⟩
/-- RIDGE_SPUR_STAT: LAST_RESULT [10:8]. -/
def ridgeSpurStat_lastResult : Fld := ⟨0x600100, 262144, 4, 9, 0x0, 8, 3⟩
/-- RIDGE_SPUR_STAT: SUSPECT [12:11]. -/
def ridgeSpurStat_suspect : Fld := ⟨0x600100, 262144, 4, 9, 0x0, 11, 2⟩
/-- RIDGE_SPUR_STAT: TESTS [31:16]. -/
def ridgeSpurStat_tests : Fld := ⟨0x600100, 262144, 4, 9, 0x0, 16, 16⟩
/-- RIDGE_SPUR_SIG: SIG [31:0]. -/
def ridgeSpurSig_sig : Fld := ⟨0x600140, 262144, 4, 9, 0x0, 0, 32⟩
/-- RIDGE_NODE_WORD: WORD [31:0]. -/
def ridgeNodeWord_word : Fld := ⟨0x601000, 262144, 4, 128, 0x0, 0, 32⟩
/-- RIDGE_NODE_STAT: OPCLASS [5:0]. -/
def ridgeNodeStat_opclass : Fld := ⟨0x600400, 262144, 64, 8, 0x0, 0, 6⟩
/-- RIDGE_NODE_STAT: LATENCY [12:8]. -/
def ridgeNodeStat_latency : Fld := ⟨0x600400, 262144, 64, 8, 0x0, 8, 5⟩
/-- RIDGE_NODE_STAT: PARAM_REJECT [13:13]. -/
def ridgeNodeStat_paramReject : Fld := ⟨0x600400, 262144, 64, 8, 0x0, 13, 1⟩
/-- RIDGE_NODE_STAT: TABLE_HWM [14:14]. -/
def ridgeNodeStat_tableHwm : Fld := ⟨0x600400, 262144, 64, 8, 0x0, 14, 1⟩
/-- RIDGE_NODE_STAT: TABLE_FULL [15:15]. -/
def ridgeNodeStat_tableFull : Fld := ⟨0x600400, 262144, 64, 8, 0x0, 15, 1⟩
/-- RIDGE_NODE_STAT: ITEM_FULL [16:16]. -/
def ridgeNodeStat_itemFull : Fld := ⟨0x600400, 262144, 64, 8, 0x0, 16, 1⟩
/-- RIDGE_NODE_STAT: ISL [31:24]. -/
def ridgeNodeStat_isl : Fld := ⟨0x600400, 262144, 64, 8, 0x0, 24, 8⟩
/-- RIDGE_NODE_BYTES: BYTES [20:0]. -/
def ridgeNodeBytes_bytes : Fld := ⟨0x600400, 262144, 64, 8, 0x4, 0, 21⟩
/-- RIDGE_NODE_TABLE: USED [15:0]. -/
def ridgeNodeTable_used : Fld := ⟨0x600400, 262144, 64, 8, 0x8, 0, 16⟩
/-- RIDGE_NODE_TABLE: PEAK [31:16]. -/
def ridgeNodeTable_peak : Fld := ⟨0x600400, 262144, 64, 8, 0x8, 16, 16⟩
/-- RIDGE_NODE_ITEMS: FILL [9:0]. -/
def ridgeNodeItems_fill : Fld := ⟨0x600400, 262144, 64, 8, 0xc, 0, 10⟩
/-- RIDGE_NODE_ITEMS: PEAK [25:16]. -/
def ridgeNodeItems_peak : Fld := ⟨0x600400, 262144, 64, 8, 0xc, 16, 10⟩
/-- RIDGE_NODE_CNT, word k of 8: COUNT [31:0]. -/
def ridgeNodeCnt_count (k : Nat) : Fld := ⟨0x600400, 262144, 64, 8, 0x10 + 4 * k, 0, 32⟩
/-- COUCH_CTL: CROP_EN [0:0]. -/
def couchCtl_cropEn : Fld := ⟨0x800000, 0, 0, 1, 0x0, 0, 1⟩
/-- COUCH_CTL: DEST [2:1]. -/
def couchCtl_dest : Fld := ⟨0x800000, 0, 0, 1, 0x0, 1, 2⟩
/-- COUCH_CTL: NET_STREAM [15:8]. -/
def couchCtl_netStream : Fld := ⟨0x800000, 0, 0, 1, 0x0, 8, 8⟩
/-- COUCH_CTL: STATS_STREAM [23:16]. -/
def couchCtl_statsStream : Fld := ⟨0x800000, 0, 0, 1, 0x0, 16, 8⟩
/-- COUCH_CTL: STATS_DEST [25:24]. -/
def couchCtl_statsDest : Fld := ⟨0x800000, 0, 0, 1, 0x0, 24, 2⟩
/-- COUCH_STAT: SEAM_HWM [0:0]. -/
def couchStat_seamHwm : Fld := ⟨0x800000, 0, 0, 1, 0x4, 0, 1⟩
/-- COUCH_STAT: CLASS_HWM [1:1]. -/
def couchStat_classHwm : Fld := ⟨0x800000, 0, 0, 1, 0x4, 1, 1⟩
/-- COUCH_STAT: OUT_HWM [2:2]. -/
def couchStat_outHwm : Fld := ⟨0x800000, 0, 0, 1, 0x4, 2, 1⟩
/-- COUCH_STAT: CROP_HWM [3:3]. -/
def couchStat_cropHwm : Fld := ⟨0x800000, 0, 0, 1, 0x4, 3, 1⟩
/-- COUCH_STAT: MARK_HWM [4:4]. -/
def couchStat_markHwm : Fld := ⟨0x800000, 0, 0, 1, 0x4, 4, 1⟩
/-- COUCH_STAT: FOREST_ERR [5:5]. -/
def couchStat_forestErr : Fld := ⟨0x800000, 0, 0, 1, 0x4, 5, 1⟩
/-- COUCH_STAT: ISL [31:24]. -/
def couchStat_isl : Fld := ⟨0x800000, 0, 0, 1, 0x4, 24, 8⟩
/-- COUCH_NEXT_SEQ: SEQ [31:0]. -/
def couchNextSeq_seq : Fld := ⟨0x800000, 0, 0, 1, 0x8, 0, 32⟩
/-- COUCH_LOOKBACK: LINES [23:0]. -/
def couchLookback_lines : Fld := ⟨0x800000, 0, 0, 1, 0xc, 0, 24⟩
/-- COUCH_SEAM_CTL: WAIT_MS [15:0]. -/
def couchSeamCtl_waitMs : Fld := ⟨0x800000, 0, 0, 1, 0x10, 0, 16⟩
/-- COUCH_LEVELS: SEAM_USED [13:0]. -/
def couchLevels_seamUsed : Fld := ⟨0x800000, 0, 0, 1, 0x14, 0, 14⟩
/-- COUCH_LEVELS: CLASS_Q [26:16]. -/
def couchLevels_classQ : Fld := ⟨0x800000, 0, 0, 1, 0x14, 16, 11⟩
/-- COUCH_OUT_LEVEL: RECORDS [16:0]. -/
def couchOutLevel_records : Fld := ⟨0x800000, 0, 0, 1, 0x18, 0, 17⟩
/-- COUCH_OUT_LEVEL: CROPS [24:17]. -/
def couchOutLevel_crops : Fld := ⟨0x800000, 0, 0, 1, 0x18, 17, 8⟩
/-- COUCH_OUT_LEVEL: CROPS_FULL [25:25]. -/
def couchOutLevel_cropsFull : Fld := ⟨0x800000, 0, 0, 1, 0x18, 25, 1⟩
/-- COUCH_CROP_CTL: MAX_W [10:0]. -/
def couchCropCtl_maxW : Fld := ⟨0x800000, 0, 0, 1, 0x1c, 0, 11⟩
/-- COUCH_CROP_CTL: MAX_H [26:16]. -/
def couchCropCtl_maxH : Fld := ⟨0x800000, 0, 0, 1, 0x1c, 16, 11⟩
/-- COUCH_CROP_CTL: CODEC [28:27]. -/
def couchCropCtl_codec : Fld := ⟨0x800000, 0, 0, 1, 0x1c, 27, 2⟩
/-- COUCH_CROP_CH: CROP_CH [4:0]. -/
def couchCropCh_cropCh : Fld := ⟨0x800000, 0, 0, 1, 0x20, 0, 5⟩
/-- COUCH_FOREST_CTL: TREES [15:0]. -/
def couchForestCtl_trees : Fld := ⟨0x800000, 0, 0, 1, 0x400, 0, 16⟩
/-- COUCH_FOREST_CTL: SWAP [16:16]. -/
def couchForestCtl_swap : Fld := ⟨0x800000, 0, 0, 1, 0x400, 16, 1⟩
/-- COUCH_FOREST_CTL: VIEW [17:17]. -/
def couchForestCtl_view : Fld := ⟨0x800000, 0, 0, 1, 0x400, 17, 1⟩
/-- COUCH_FOREST_CTL: SWAP_PENDING [18:18]. -/
def couchForestCtl_swapPending : Fld := ⟨0x800000, 0, 0, 1, 0x400, 18, 1⟩
/-- COUCH_FOREST_CTL: GEN [31:24]. -/
def couchForestCtl_gen : Fld := ⟨0x800000, 0, 0, 1, 0x400, 24, 8⟩
/-- COUCH_CNT, word k of 14: COUNT [31:0]. -/
def couchCnt_count (k : Nat) : Fld := ⟨0x800000, 0, 0, 1, 0x800 + 4 * k, 0, 32⟩
/-- COUCH_PORT_XBASE: XBASE [31:0]. -/
def couchPortXbase_xbase : Fld := ⟨0x800100, 8, 0, 1, 0x0, 0, 32⟩
/-- COUCH_PORT_MAP: MIRROR [0:0]. -/
def couchPortMap_mirror : Fld := ⟨0x800100, 8, 0, 1, 0x4, 0, 1⟩
/-- COUCH_PORT_MAP: ACTIVE [1:1]. -/
def couchPortMap_active : Fld := ⟨0x800100, 8, 0, 1, 0x4, 1, 1⟩
/-- COUCH_PORT_MAP: PROGRESS [31:16]. -/
def couchPortMap_progress : Fld := ⟨0x800100, 8, 0, 1, 0x4, 16, 16⟩
/-- SEAM_CFG: LEFT [3:0]. -/
def seamCfg_left : Fld := ⟨0x800200, 16, 0, 1, 0x0, 0, 4⟩
/-- SEAM_CFG: RIGHT [7:4]. -/
def seamCfg_right : Fld := ⟨0x800200, 16, 0, 1, 0x0, 4, 4⟩
/-- SEAM_CFG: ENABLE [8:8]. -/
def seamCfg_enable : Fld := ⟨0x800200, 16, 0, 1, 0x0, 8, 1⟩
/-- SEAM_CFG: TOL_X [23:16]. -/
def seamCfg_tolX : Fld := ⟨0x800200, 16, 0, 1, 0x0, 16, 8⟩
/-- SEAM_CFG: TOL_LINES [31:24]. -/
def seamCfg_tolLines : Fld := ⟨0x800200, 16, 0, 1, 0x0, 24, 8⟩
/-- SEAM_Z0: Z0 [31:0]. -/
def seamZ0_z0 : Fld := ⟨0x800200, 16, 0, 1, 0x4, 0, 32⟩
/-- SEAM_Z1: Z1 [31:0]. -/
def seamZ1_z1 : Fld := ⟨0x800200, 16, 0, 1, 0x8, 0, 32⟩
/-- SEAM_STAT: HELD [13:0]. -/
def seamStat_held : Fld := ⟨0x800200, 16, 0, 1, 0xc, 0, 14⟩
/-- SEAM_STAT: SEAM_ACTIVE [14:14]. -/
def seamStat_seamActive : Fld := ⟨0x800200, 16, 0, 1, 0xc, 14, 1⟩
/-- COUCH_CLASS_ACT: SEND [0:0]. -/
def couchClassAct_send : Fld := ⟨0x800500, 4, 0, 1, 0x0, 0, 1⟩
/-- COUCH_CLASS_ACT: CROP [1:1]. -/
def couchClassAct_crop : Fld := ⟨0x800500, 4, 0, 1, 0x0, 1, 1⟩
/-- COUCH_CLASS_ACT: MARK [5:2]. -/
def couchClassAct_mark : Fld := ⟨0x800500, 4, 0, 1, 0x0, 2, 4⟩
/-- COUCH_CLASS_ACT: CROP_VIEWS [11:8]. -/
def couchClassAct_cropViews : Fld := ⟨0x800500, 4, 0, 1, 0x0, 8, 4⟩
/-- COUCH_CLASS_ACT: MARGIN [23:16]. -/
def couchClassAct_margin : Fld := ⟨0x800500, 4, 0, 1, 0x0, 16, 8⟩
/-- MARK_CTL: SCHED [2:0]. -/
def markCtl_sched : Fld := ⟨0x800700, 32, 0, 1, 0x0, 0, 3⟩
/-- MARK_CTL: ENABLE [3:3]. -/
def markCtl_enable : Fld := ⟨0x800700, 32, 0, 1, 0x0, 3, 1⟩
/-- MARK_CTL: MARK_DENIED [4:4]. -/
def markCtl_markDenied : Fld := ⟨0x800700, 32, 0, 1, 0x0, 4, 1⟩
/-- MARK_CTL: LEVEL [14:8]. -/
def markCtl_level : Fld := ⟨0x800700, 32, 0, 1, 0x0, 8, 7⟩
/-- MARK_DELAY_LO: DELAY [31:0]. -/
def markDelayLo_delay : Fld := ⟨0x800700, 32, 0, 1, 0x4, 0, 32⟩
/-- MARK_DELAY_HI: DELAY [31:0]. -/
def markDelayHi_delay : Fld := ⟨0x800700, 32, 0, 1, 0x8, 0, 32⟩
/-- MARK_GAP: MIN_GAP [31:0]. -/
def markGap_minGap : Fld := ⟨0x800700, 32, 0, 1, 0xc, 0, 32⟩
/-- MARK_CNT: MARKS [15:0]. -/
def markCnt_marks : Fld := ⟨0x800700, 32, 0, 1, 0x10, 0, 16⟩
/-- MARK_CNT: MARK_LATE [31:16]. -/
def markCnt_markLate : Fld := ⟨0x800700, 32, 0, 1, 0x10, 16, 16⟩
/-- MARK_CNT2: MARK_MERGED [15:0]. -/
def markCnt2_markMerged : Fld := ⟨0x800700, 32, 0, 1, 0x14, 0, 16⟩
/-- MARK_CNT2: MARK_DROP [31:16]. -/
def markCnt2_markDrop : Fld := ⟨0x800700, 32, 0, 1, 0x14, 16, 16⟩
/-- FOREST_WORD: WORD [31:0]. -/
def forestWord_word : Fld := ⟨0x2600000, 4, 0, 1, 0x0, 0, 32⟩
/-- STATS_CTL: ENABLE [0:0]. -/
def statsCtl_enable : Fld := ⟨0x900000, 0, 0, 1, 0x0, 0, 1⟩
/-- STATS_CTL: MODE [1:1]. -/
def statsCtl_mode : Fld := ⟨0x900000, 0, 0, 1, 0x0, 1, 1⟩
/-- STATS_STAT: HWM [0:0]. -/
def statsStat_hwm : Fld := ⟨0x900000, 0, 0, 1, 0x4, 0, 1⟩
/-- STATS_STAT: LEVEL [16:8]. -/
def statsStat_level : Fld := ⟨0x900000, 0, 0, 1, 0x4, 8, 9⟩
/-- STATS_STAT: ISL [31:24]. -/
def statsStat_isl : Fld := ⟨0x900000, 0, 0, 1, 0x4, 24, 8⟩
/-- STATS_NEXT_SEQ: SEQ [31:0]. -/
def statsNextSeq_seq : Fld := ⟨0x900000, 0, 0, 1, 0x8, 0, 32⟩
/-- STATS_CNT, word k of 3: COUNT [31:0]. -/
def statsCnt_count (k : Nat) : Fld := ⟨0x900000, 0, 0, 1, 0x200 + 4 * k, 0, 32⟩
/-- STATS_CH_CTL: EN [0:0]. -/
def statsChCtl_en : Fld := ⟨0x900100, 4, 0, 1, 0x0, 0, 1⟩
/-- STATS_CH_CTL: GROUP [1:1]. -/
def statsChCtl_group : Fld := ⟨0x900100, 4, 0, 1, 0x0, 1, 1⟩
/-- STATS_CH_CTL: ARMED [2:2]. -/
def statsChCtl_armed : Fld := ⟨0x900100, 4, 0, 1, 0x0, 2, 1⟩
/-- LAYOUT_CTL: ENABLE [0:0]. -/
def layoutCtl_enable : Fld := ⟨0xc00000, 0, 0, 1, 0x0, 0, 1⟩
/-- LAYOUT_CTL: STRIPE_RESET [1:1]. -/
def layoutCtl_stripeReset : Fld := ⟨0xc00000, 0, 0, 1, 0x0, 1, 1⟩
/-- LAYOUT_CTL: REAM_MASK [5:2]. -/
def layoutCtl_reamMask : Fld := ⟨0xc00000, 0, 0, 1, 0x0, 2, 4⟩
/-- LAYOUT_STAT: STATE [2:0]. -/
def layoutStat_state : Fld := ⟨0xc00000, 0, 0, 1, 0x4, 0, 3⟩
/-- LAYOUT_STAT: QUEUED [14:8]. -/
def layoutStat_queued : Fld := ⟨0xc00000, 0, 0, 1, 0x4, 8, 7⟩
/-- LAYOUT_STAT: FREE [22:16]. -/
def layoutStat_free : Fld := ⟨0xc00000, 0, 0, 1, 0x4, 16, 7⟩
/-- LAYOUT_STAT: SUBMIT_FULL [23:23]. -/
def layoutStat_submitFull : Fld := ⟨0xc00000, 0, 0, 1, 0x4, 23, 1⟩
/-- LAYOUT_STAT: ISL [31:24]. -/
def layoutStat_isl : Fld := ⟨0xc00000, 0, 0, 1, 0x4, 24, 8⟩
/-- LAYOUT_EXPECT_STRIPE: VALUE [31:0]. -/
def layoutExpectStripe_value : Fld := ⟨0xc00000, 0, 0, 1, 0x8, 0, 32⟩
/-- LAYOUT_EXPECT_BAND: VALUE [31:0]. -/
def layoutExpectBand_value : Fld := ⟨0xc00000, 0, 0, 1, 0xc, 0, 32⟩
/-- LAYOUT_SUBMIT_ADDR_LO: ADDR [31:0]. -/
def layoutSubmitAddrLo_addr : Fld := ⟨0xc00000, 0, 0, 1, 0x10, 0, 32⟩
/-- LAYOUT_SUBMIT_ADDR_HI: ADDR [31:0]. -/
def layoutSubmitAddrHi_addr : Fld := ⟨0xc00000, 0, 0, 1, 0x14, 0, 32⟩
/-- LAYOUT_SUBMIT_LEN: LEN [31:0]. -/
def layoutSubmitLen_len : Fld := ⟨0xc00000, 0, 0, 1, 0x18, 0, 32⟩
/-- LAYOUT_SUBMIT_TAG: TAG [31:0]. -/
def layoutSubmitTag_tag : Fld := ⟨0xc00000, 0, 0, 1, 0x1c, 0, 32⟩
/-- LAYOUT_RESULT_TAG: TAG [31:0]. -/
def layoutResultTag_tag : Fld := ⟨0xc00000, 0, 0, 1, 0x20, 0, 32⟩
/-- LAYOUT_RESULT: CODE [7:0]. -/
def layoutResult_code : Fld := ⟨0xc00000, 0, 0, 1, 0x24, 0, 8⟩
/-- LAYOUT_RESULT: CAUSE [15:8]. -/
def layoutResult_cause : Fld := ⟨0xc00000, 0, 0, 1, 0x24, 8, 8⟩
/-- LAYOUT_RESULT: SOURCE [16:16]. -/
def layoutResult_source : Fld := ⟨0xc00000, 0, 0, 1, 0x24, 16, 1⟩
/-- LAYOUT_RESULT: LEVEL [23:17]. -/
def layoutResult_level : Fld := ⟨0xc00000, 0, 0, 1, 0x24, 17, 7⟩
/-- LAYOUT_RESULT: POP [31:31]. -/
def layoutResult_pop : Fld := ⟨0xc00000, 0, 0, 1, 0x24, 31, 1⟩
/-- LAYOUT_RESULT_BANDS: BANDS_OK [15:0]. -/
def layoutResultBands_bandsOk : Fld := ⟨0xc00000, 0, 0, 1, 0x28, 0, 16⟩
/-- LAYOUT_RESULT_BANDS: BANDS_BAD [31:16]. -/
def layoutResultBands_bandsBad : Fld := ⟨0xc00000, 0, 0, 1, 0x28, 16, 16⟩
/-- LAYOUT_RESULT_JOBID: JOB_ID [31:0]. -/
def layoutResultJobid_jobId : Fld := ⟨0xc00000, 0, 0, 1, 0x2c, 0, 32⟩
/-- LAYOUT_KEY_STAT: LAYOUT_KEY [15:0]. -/
def layoutKeyStat_layoutKey : Fld := ⟨0xc00000, 0, 0, 1, 0x40, 0, 16⟩
/-- LAYOUT_UDP: PORT [15:0]. -/
def layoutUdp_port : Fld := ⟨0xc00000, 0, 0, 1, 0x80, 0, 16⟩
/-- LAYOUT_CNT, word k of 8: COUNT [31:0]. -/
def layoutCnt_count (k : Nat) : Fld := ⟨0xc00000, 0, 0, 1, 0x100 + 4 * k, 0, 32⟩
/-- LSTREAM_CFG: ENABLE [0:0]. -/
def lstreamCfg_enable : Fld := ⟨0xc01000, 8, 0, 1, 0x0, 0, 1⟩
/-- LSTREAM_CFG: LSTREAM_TEMPLATE [4:1]. -/
def lstreamCfg_lstreamTemplate : Fld := ⟨0xc01000, 8, 0, 1, 0x0, 1, 4⟩
/-- LSTREAM_CFG: LSTREAM_EGRESS [11:8]. -/
def lstreamCfg_lstreamEgress : Fld := ⟨0xc01000, 8, 0, 1, 0x0, 8, 4⟩
/-- LSTREAM_CFG: GRANTED [31:16]. -/
def lstreamCfg_granted : Fld := ⟨0xc01000, 8, 0, 1, 0x0, 16, 16⟩
/-- LSTREAM_SEQ: SEQ [31:0]. -/
def lstreamSeq_seq : Fld := ⟨0xc01000, 8, 0, 1, 0x4, 0, 32⟩
/-- MOULD_CTL: SWAP [0:0]. -/
def mouldCtl_swap : Fld := ⟨0xd00000, 0, 0, 1, 0x0, 0, 1⟩
/-- MOULD_CTL: VIEW [1:1]. -/
def mouldCtl_view : Fld := ⟨0xd00000, 0, 0, 1, 0x0, 1, 1⟩
/-- MOULD_CTL: SWAP_PENDING [2:2]. -/
def mouldCtl_swapPending : Fld := ⟨0xd00000, 0, 0, 1, 0x0, 2, 1⟩
/-- MOULD_CTL: GEN [31:24]. -/
def mouldCtl_gen : Fld := ⟨0xd00000, 0, 0, 1, 0x0, 24, 8⟩
/-- MOULD_STAT: STATE [1:0]. -/
def mouldStat_state : Fld := ⟨0xd00000, 0, 0, 1, 0x4, 0, 2⟩
/-- MOULD_STAT: ISL [31:24]. -/
def mouldStat_isl : Fld := ⟨0xd00000, 0, 0, 1, 0x4, 24, 8⟩
/-- MOULD_STRIPE: STRIPE [31:0]. -/
def mouldStripe_stripe : Fld := ⟨0xd00000, 0, 0, 1, 0x8, 0, 32⟩
/-- MOULD_BAND: BAND [31:0]. -/
def mouldBand_band : Fld := ⟨0xd00000, 0, 0, 1, 0xc, 0, 32⟩
/-- MOULD_CLASS_CRC: CRC [31:0]. -/
def mouldClassCrc_crc : Fld := ⟨0xd00000, 0, 0, 1, 0x10, 0, 32⟩
/-- MOULD_CYCLES: PEAK [31:0]. -/
def mouldCycles_peak : Fld := ⟨0xd00000, 0, 0, 1, 0x14, 0, 32⟩
/-- MOULD_CNT, word k of 5: COUNT [31:0]. -/
def mouldCnt_count (k : Nat) : Fld := ⟨0xd00000, 0, 0, 1, 0x40 + 4 * k, 0, 32⟩
/-- WM_STAT: SLOTS_USED [1:0]. -/
def wmStat_slotsUsed : Fld := ⟨0xd08000, 0, 0, 1, 0x0, 0, 2⟩
/-- WM_STAT: HWM [2:2]. -/
def wmStat_hwm : Fld := ⟨0xd08000, 0, 0, 1, 0x0, 2, 1⟩
/-- WM_STAT: STRIPE_MISMATCH [3:3]. -/
def wmStat_stripeMismatch : Fld := ⟨0xd08000, 0, 0, 1, 0x0, 3, 1⟩
/-- WM_STAT: ISL [31:24]. -/
def wmStat_isl : Fld := ⟨0xd08000, 0, 0, 1, 0x0, 24, 8⟩
/-- WM_LAST_FAIL_STRIPE: VALUE [31:0]. -/
def wmLastFailStripe_value : Fld := ⟨0xd08000, 0, 0, 1, 0x10, 0, 32⟩
/-- WM_LAST_FAIL_BAND: VALUE [31:0]. -/
def wmLastFailBand_value : Fld := ⟨0xd08000, 0, 0, 1, 0x14, 0, 32⟩
/-- WM_LAST_EXPECT_LO: VALUE [31:0]. -/
def wmLastExpectLo_value : Fld := ⟨0xd08000, 0, 0, 1, 0x18, 0, 32⟩
/-- WM_LAST_EXPECT_HI: VALUE [31:0]. -/
def wmLastExpectHi_value : Fld := ⟨0xd08000, 0, 0, 1, 0x1c, 0, 32⟩
/-- WM_LAST_GOT_LO: VALUE [31:0]. -/
def wmLastGotLo_value : Fld := ⟨0xd08000, 0, 0, 1, 0x20, 0, 32⟩
/-- WM_LAST_GOT_HI: VALUE [31:0]. -/
def wmLastGotHi_value : Fld := ⟨0xd08000, 0, 0, 1, 0x24, 0, 32⟩
/-- WM_CNT, word k of 5: COUNT [31:0]. -/
def wmCnt_count (k : Nat) : Fld := ⟨0xd08000, 0, 0, 1, 0x40 + 4 * k, 0, 32⟩
/-- DOSE_ENTRY: DOSE [8:0]. -/
def doseEntry_dose : Fld := ⟨0x2700000, 4, 0, 1, 0x0, 0, 9⟩
/-- DOSE_ENTRY: VALID [31:31]. -/
def doseEntry_valid : Fld := ⟨0x2700000, 4, 0, 1, 0x0, 31, 1⟩
/-- LAID_CTL: ENABLE [0:0]. -/
def laidCtl_enable : Fld := ⟨0xe00000, 0, 0, 1, 0x0, 0, 1⟩
/-- LAID_CTL: GAP_DEST [2:1]. -/
def laidCtl_gapDest : Fld := ⟨0xe00000, 0, 0, 1, 0x0, 1, 2⟩
/-- LAID_CTL: GAP_STREAM [15:8]. -/
def laidCtl_gapStream : Fld := ⟨0xe00000, 0, 0, 1, 0x0, 8, 8⟩
/-- LAID_STAT: STATE [2:0]. -/
def laidStat_state : Fld := ⟨0xe00000, 0, 0, 1, 0x4, 0, 3⟩
/-- LAID_STAT: SHADOW_PENDING [3:3]. -/
def laidStat_shadowPending : Fld := ⟨0xe00000, 0, 0, 1, 0x4, 3, 1⟩
/-- LAID_STAT: NEXT_ARMED [4:4]. -/
def laidStat_nextArmed : Fld := ⟨0xe00000, 0, 0, 1, 0x4, 4, 1⟩
/-- LAID_STAT: BLANK_CAUSE [11:8]. -/
def laidStat_blankCause : Fld := ⟨0xe00000, 0, 0, 1, 0x4, 8, 4⟩
/-- LAID_STAT: ISL [31:24]. -/
def laidStat_isl : Fld := ⟨0xe00000, 0, 0, 1, 0x4, 24, 8⟩
/-- LAID_STRIPE_CTL: ARM [0:0]. -/
def laidStripeCtl_arm : Fld := ⟨0xe00000, 0, 0, 1, 0x8, 0, 1⟩
/-- LAID_STRIPE_CTL: DISARM [1:1]. -/
def laidStripeCtl_disarm : Fld := ⟨0xe00000, 0, 0, 1, 0x8, 1, 1⟩
/-- LAID_STRIPE_CTL: REFUSE [10:8]. -/
def laidStripeCtl_refuse : Fld := ⟨0xe00000, 0, 0, 1, 0x8, 8, 3⟩
/-- LAID_STRIPE_CTL: ARM_REFUSED [11:11]. -/
def laidStripeCtl_armRefused : Fld := ⟨0xe00000, 0, 0, 1, 0x8, 11, 1⟩
/-- LAID_STRIPE_NUM: STRIPE [31:0]. -/
def laidStripeNum_stripe : Fld := ⟨0xe00000, 0, 0, 1, 0xc, 0, 32⟩
/-- LAID_STRIPE_LINES: LINES [23:0]. -/
def laidStripeLines_lines : Fld := ⟨0xe00000, 0, 0, 1, 0x10, 0, 24⟩
/-- LAID_ORIGIN_LO: ORIGIN [31:0]. -/
def laidOriginLo_origin : Fld := ⟨0xe00000, 0, 0, 1, 0x18, 0, 32⟩
/-- LAID_ORIGIN_HI: ORIGIN [15:0]. -/
def laidOriginHi_origin : Fld := ⟨0xe00000, 0, 0, 1, 0x1c, 0, 16⟩
/-- LAID_LINE_TIME: VALUE [31:0]. -/
def laidLineTime_value : Fld := ⟨0xe00000, 0, 0, 1, 0x20, 0, 32⟩
/-- LAID_LINE_STAT: ERR [0:0]. -/
def laidLineStat_err : Fld := ⟨0xe00000, 0, 0, 1, 0x24, 0, 1⟩
/-- LAID_LINE_STAT: FLOOR_ACTIVE [1:1]. -/
def laidLineStat_floorActive : Fld := ⟨0xe00000, 0, 0, 1, 0x24, 1, 1⟩
/-- LAID_LINE_STAT: ORDER_BAD [2:2]. -/
def laidLineStat_orderBad : Fld := ⟨0xe00000, 0, 0, 1, 0x24, 2, 1⟩
/-- LAID_LINE_STAT: LEDGER_ERR [3:3]. -/
def laidLineStat_ledgerErr : Fld := ⟨0xe00000, 0, 0, 1, 0x24, 3, 1⟩
/-- LAID_LINE_STAT: VAT_ERR [4:4]. -/
def laidLineStat_vatErr : Fld := ⟨0xe00000, 0, 0, 1, 0x24, 4, 1⟩
/-- LAID_LINE_STAT: ISL [31:24]. -/
def laidLineStat_isl : Fld := ⟨0xe00000, 0, 0, 1, 0x24, 24, 8⟩
/-- LAID_LAST_RELEASED: VALUE [31:0]. -/
def laidLastReleased_value : Fld := ⟨0xe00000, 0, 0, 1, 0x28, 0, 32⟩
/-- LAID_STRIPE_END: VALUE [31:0]. -/
def laidStripeEnd_value : Fld := ⟨0xe00000, 0, 0, 1, 0x2c, 0, 32⟩
/-- LAID_LEDGER_FAIL_LINE: LINE [31:0]. -/
def laidLedgerFailLine_line : Fld := ⟨0xe00000, 0, 0, 1, 0x30, 0, 32⟩
/-- LAID_LEDGER_FAIL_PX: PIXEL [11:0]. -/
def laidLedgerFailPx_pixel : Fld := ⟨0xe00000, 0, 0, 1, 0x34, 0, 12⟩
/-- LAID_LEDGER_FAIL_PX: EXPECTED [21:12]. -/
def laidLedgerFailPx_expected : Fld := ⟨0xe00000, 0, 0, 1, 0x34, 12, 10⟩
/-- LAID_LEDGER_FAIL_PX: RECEIVED [31:22]. -/
def laidLedgerFailPx_received : Fld := ⟨0xe00000, 0, 0, 1, 0x34, 22, 10⟩
/-- LAID_GAP_NEXT_SEQ: SEQ [31:0]. -/
def laidGapNextSeq_seq : Fld := ⟨0xe00000, 0, 0, 1, 0x38, 0, 32⟩
/-- LAID_GAP_LEVEL: LEVEL [14:0]. -/
def laidGapLevel_level : Fld := ⟨0xe00000, 0, 0, 1, 0x3c, 0, 15⟩
/-- LAID_GAP_LEVEL: HWM [16:16]. -/
def laidGapLevel_hwm : Fld := ⟨0xe00000, 0, 0, 1, 0x3c, 16, 1⟩
/-- LAID_ORDER_BAD_COL: COLUMN [8:0]. -/
def laidOrderBadCol_column : Fld := ⟨0xe00000, 0, 0, 1, 0x50, 0, 9⟩
/-- LAID_CNT, word k of 14: COUNT [31:0]. -/
def laidCnt_count (k : Nat) : Fld := ⟨0xe00000, 0, 0, 1, 0x80 + 4 * k, 0, 32⟩
/-- VAT_SKEW: SKEW [11:0]. -/
def vatSkew_skew : Fld := ⟨0xe00100, 4, 0, 1, 0x0, 0, 12⟩
/-- VAT_ROW_DELAY: D [11:0]. -/
def vatRowDelay_d : Fld := ⟨0xe01000, 4, 0, 1, 0x0, 0, 12⟩
/-- LAID_FLOOR: FLOOR [31:0]. -/
def laidFloor_floor : Fld := ⟨0xe02000, 4, 0, 1, 0x0, 0, 32⟩
/-- LAID_CH_STAT: LINK_OK [0:0]. -/
def laidChStat_linkOk : Fld := ⟨0xe03000, 16, 0, 1, 0x0, 0, 1⟩
/-- LAID_CH_STAT: LOST [1:1]. -/
def laidChStat_lost : Fld := ⟨0xe03000, 16, 0, 1, 0x0, 1, 1⟩
/-- LAID_CH_STAT: SILENT [2:2]. -/
def laidChStat_silent : Fld := ⟨0xe03000, 16, 0, 1, 0x0, 2, 1⟩
/-- LAID_CH_STAT: TEMP [15:8]. -/
def laidChStat_temp : Fld := ⟨0xe03000, 16, 0, 1, 0x0, 8, 8⟩
/-- LAID_CH_STAT: ISL [31:24]. -/
def laidChStat_isl : Fld := ⟨0xe03000, 16, 0, 1, 0x0, 24, 8⟩
/-- LAID_CH_ERR: REJECTS [15:0]. -/
def laidChErr_rejects : Fld := ⟨0xe03000, 16, 0, 1, 0x4, 0, 16⟩
/-- LAID_CH_ERR: STATUS_BAD [31:16]. -/
def laidChErr_statusBad : Fld := ⟨0xe03000, 16, 0, 1, 0x4, 16, 16⟩
/-- LAID_CH_LAST: LAST_LINE [15:0]. -/
def laidChLast_lastLine : Fld := ⟨0xe03000, 16, 0, 1, 0x8, 0, 16⟩
/-- BOT_ENTRY: ENTRY [11:0]. -/
def botEntry_entry : Fld := ⟨0x2000000, 4, 0, 1, 0x0, 0, 12⟩
/-- SCREE_CTL: MEAS_EN [0:0]. -/
def screeCtl_measEn : Fld := ⟨0xf00000, 0, 0, 1, 0x0, 0, 1⟩
/-- SCREE_CTL: AUTO [1:1]. -/
def screeCtl_auto : Fld := ⟨0xf00000, 0, 0, 1, 0x0, 1, 1⟩
/-- SCREE_CTL: ALLOW_DEGRADED [2:2]. -/
def screeCtl_allowDegraded : Fld := ⟨0xf00000, 0, 0, 1, 0x0, 2, 1⟩
/-- SCREE_CTL: MEAS_NOW [3:3]. -/
def screeCtl_measNow : Fld := ⟨0xf00000, 0, 0, 1, 0x0, 3, 1⟩
/-- SCREE_CTL: FAULT_AS_CRIT [4:4]. -/
def screeCtl_faultAsCrit : Fld := ⟨0xf00000, 0, 0, 1, 0x0, 4, 1⟩
/-- SCREE_CTL: OPEN_AS [5:5]. -/
def screeCtl_openAs : Fld := ⟨0xf00000, 0, 0, 1, 0x0, 5, 1⟩
/-- SCREE_CTL: SHORT_AS [6:6]. -/
def screeCtl_shortAs : Fld := ⟨0xf00000, 0, 0, 1, 0x0, 6, 1⟩
/-- SCREE_CTL: CONFIRM [9:7]. -/
def screeCtl_confirm : Fld := ⟨0xf00000, 0, 0, 1, 0x0, 7, 3⟩
/-- SCREE_STAT: MEAS_STATE [1:0]. -/
def screeStat_measState : Fld := ⟨0xf00000, 0, 0, 1, 0x4, 0, 2⟩
/-- SCREE_STAT: WARN [2:2]. -/
def screeStat_warn : Fld := ⟨0xf00000, 0, 0, 1, 0x4, 2, 1⟩
/-- SCREE_STAT: CRIT [3:3]. -/
def screeStat_crit : Fld := ⟨0xf00000, 0, 0, 1, 0x4, 3, 1⟩
/-- SCREE_STAT: CRIT_LATCHED [4:4]. -/
def screeStat_critLatched : Fld := ⟨0xf00000, 0, 0, 1, 0x4, 4, 1⟩
/-- SCREE_STAT: SYNCING [5:5]. -/
def screeStat_syncing : Fld := ⟨0xf00000, 0, 0, 1, 0x4, 5, 1⟩
/-- SCREE_STAT: COMMIT_PENDING [6:6]. -/
def screeStat_commitPending : Fld := ⟨0xf00000, 0, 0, 1, 0x4, 6, 1⟩
/-- SCREE_STAT: APPLIED [7:7]. -/
def screeStat_applied : Fld := ⟨0xf00000, 0, 0, 1, 0x4, 7, 1⟩
/-- SCREE_STAT: REJECTED [8:8]. -/
def screeStat_rejected : Fld := ⟨0xf00000, 0, 0, 1, 0x4, 8, 1⟩
/-- SCREE_STAT: DEGRADED_HOLD [9:9]. -/
def screeStat_degradedHold : Fld := ⟨0xf00000, 0, 0, 1, 0x4, 9, 1⟩
/-- SCREE_STAT: TEMP_STALE [10:10]. -/
def screeStat_tempStale : Fld := ⟨0xf00000, 0, 0, 1, 0x4, 10, 1⟩
/-- SCREE_STAT: ORDER_GEN [23:16]. -/
def screeStat_orderGen : Fld := ⟨0xf00000, 0, 0, 1, 0x4, 16, 8⟩
/-- SCREE_STAT: ISL [31:24]. -/
def screeStat_isl : Fld := ⟨0xf00000, 0, 0, 1, 0x4, 24, 8⟩
/-- SCREE_MEAS_LIMITS: OPEN_LIMIT [13:0]. -/
def screeMeasLimits_openLimit : Fld := ⟨0xf00000, 0, 0, 1, 0x8, 0, 14⟩
/-- SCREE_MEAS_LIMITS: SHORT_LIMIT [29:16]. -/
def screeMeasLimits_shortLimit : Fld := ⟨0xf00000, 0, 0, 1, 0x8, 16, 14⟩
/-- SCREE_WEAK: WEAK_LO [13:0]. -/
def screeWeak_weakLo : Fld := ⟨0xf00000, 0, 0, 1, 0xc, 0, 14⟩
/-- SCREE_WEAK: WEAK_HI [29:16]. -/
def screeWeak_weakHi : Fld := ⟨0xf00000, 0, 0, 1, 0xc, 16, 14⟩
/-- SCREE_MEAS_TIMING: TIMEOUT_US [15:0]. -/
def screeMeasTiming_timeoutUs : Fld := ⟨0xf00000, 0, 0, 1, 0x10, 0, 16⟩
/-- SCREE_MEAS_TIMING: MAX_DEFER_US [31:16]. -/
def screeMeasTiming_maxDeferUs : Fld := ⟨0xf00000, 0, 0, 1, 0x10, 16, 16⟩
/-- SCREE_CYCLE: CYCLE [7:0]. -/
def screeCycle_cycle : Fld := ⟨0xf00000, 0, 0, 1, 0x14, 0, 8⟩
/-- SCREE_CYCLE: DONE [15:8]. -/
def screeCycle_done : Fld := ⟨0xf00000, 0, 0, 1, 0x14, 8, 8⟩
/-- SCREE_CYCLE: CHANGES [31:16]. -/
def screeCycle_changes : Fld := ⟨0xf00000, 0, 0, 1, 0x14, 16, 16⟩
/-- SCREE_TEMP_LIMITS: WARN_C [7:0]. -/
def screeTempLimits_warnC : Fld := ⟨0xf00000, 0, 0, 1, 0x20, 0, 8⟩
/-- SCREE_TEMP_LIMITS: CRIT_C [15:8]. -/
def screeTempLimits_critC : Fld := ⟨0xf00000, 0, 0, 1, 0x20, 8, 8⟩
/-- SCREE_TEMP_LIMITS: HYST [23:16]. -/
def screeTempLimits_hyst : Fld := ⟨0xf00000, 0, 0, 1, 0x20, 16, 8⟩
/-- SCREE_TEMP_LIMITS: CLEAR_MS [31:24]. -/
def screeTempLimits_clearMs : Fld := ⟨0xf00000, 0, 0, 1, 0x20, 24, 8⟩
/-- SCREE_TEMP_MAX: T_MAX [7:0]. -/
def screeTempMax_tMax : Fld := ⟨0xf00000, 0, 0, 1, 0x24, 0, 8⟩
/-- SCREE_TEMP_MAX: HOT_CH [13:8]. -/
def screeTempMax_hotCh : Fld := ⟨0xf00000, 0, 0, 1, 0x24, 8, 6⟩
/-- SCREE_ORDER_CTL: COMMIT [0:0]. -/
def screeOrderCtl_commit : Fld := ⟨0xf00000, 0, 0, 1, 0x30, 0, 1⟩
/-- SCREE_DEGRADED: COUNT [9:0]. -/
def screeDegraded_count : Fld := ⟨0xf00000, 0, 0, 1, 0x34, 0, 10⟩
/-- SCREE_DEGRADED: FIRST [24:16]. -/
def screeDegraded_first : Fld := ⟨0xf00000, 0, 0, 1, 0x34, 16, 9⟩
/-- SCREE_FLOOR_MAX: FLOOR_MAX [3:0]. -/
def screeFloorMax_floorMax : Fld := ⟨0xf00000, 0, 0, 1, 0x38, 0, 4⟩
/-- SCREE_DCTL: CHANNEL [5:0]. -/
def screeDctl_channel : Fld := ⟨0xf00000, 0, 0, 1, 0x40, 0, 6⟩
/-- SCREE_DCTL: WRITE [6:6]. -/
def screeDctl_write : Fld := ⟨0xf00000, 0, 0, 1, 0x40, 6, 1⟩
/-- SCREE_DCTL: GO [7:7]. -/
def screeDctl_go : Fld := ⟨0xf00000, 0, 0, 1, 0x40, 7, 1⟩
/-- SCREE_DCTL: BUSY [8:8]. -/
def screeDctl_busy : Fld := ⟨0xf00000, 0, 0, 1, 0x40, 8, 1⟩
/-- SCREE_DCTL: RESULT [11:9]. -/
def screeDctl_result : Fld := ⟨0xf00000, 0, 0, 1, 0x40, 9, 3⟩
/-- SCREE_DCTL: CTAG [16:12]. -/
def screeDctl_ctag : Fld := ⟨0xf00000, 0, 0, 1, 0x40, 12, 5⟩
/-- SCREE_DCTL: ACK_BAD [31:24]. -/
def screeDctl_ackBad : Fld := ⟨0xf00000, 0, 0, 1, 0x40, 24, 8⟩
/-- SCREE_DCTL_ADDR: ADDR [31:0]. -/
def screeDctlAddr_addr : Fld := ⟨0xf00000, 0, 0, 1, 0x44, 0, 32⟩
/-- SCREE_DCTL_DATA: DATA [31:0]. -/
def screeDctlData_data : Fld := ⟨0xf00000, 0, 0, 1, 0x48, 0, 32⟩
/-- SCREE_CNT, word k of 10: COUNT [31:0]. -/
def screeCnt_count (k : Nat) : Fld := ⟨0xf00000, 0, 0, 1, 0x100 + 4 * k, 0, 32⟩
/-- SCREE_BC: FILL [8:0]. -/
def screeBc_fill : Fld := ⟨0xf00200, 4, 0, 1, 0x0, 0, 9⟩
/-- SCREE_BC: HWM [9:9]. -/
def screeBc_hwm : Fld := ⟨0xf00200, 4, 0, 1, 0x0, 9, 1⟩
/-- SCREE_BC: PEAK [24:16]. -/
def screeBc_peak : Fld := ⟨0xf00200, 4, 0, 1, 0x0, 16, 9⟩
/-- SCREE_COL: DEAD_N [9:0]. -/
def screeCol_deadN : Fld := ⟨0xf01000, 4, 0, 1, 0x0, 0, 10⟩
/-- SCREE_COL: STUCK_N [19:10]. -/
def screeCol_stuckN : Fld := ⟨0xf01000, 4, 0, 1, 0x0, 10, 10⟩
/-- SCREE_COL: CEILING [29:20]. -/
def screeCol_ceiling : Fld := ⟨0xf01000, 4, 0, 1, 0x0, 20, 10⟩
/-- SCREE_COL: EXHAUSTED [30:30]. -/
def screeCol_exhausted : Fld := ⟨0xf01000, 4, 0, 1, 0x0, 30, 1⟩
/-- SCREE_COL: FLOOR_OVER [31:31]. -/
def screeCol_floorOver : Fld := ⟨0xf01000, 4, 0, 1, 0x0, 31, 1⟩
/-- HEALTH_WORD: CLASS0 [1:0]. -/
def healthWord_class0 : Fld := ⟨0xf40000, 4, 0, 1, 0x0, 0, 2⟩
/-- HEALTH_WORD: FORCE0 [3:2]. -/
def healthWord_force0 : Fld := ⟨0xf40000, 4, 0, 1, 0x0, 2, 2⟩
/-- HEALTH_WORD: LAST0 [15:4]. -/
def healthWord_last0 : Fld := ⟨0xf40000, 4, 0, 1, 0x0, 4, 12⟩
/-- HEALTH_WORD: CLASS1 [17:16]. -/
def healthWord_class1 : Fld := ⟨0xf40000, 4, 0, 1, 0x0, 16, 2⟩
/-- HEALTH_WORD: FORCE1 [19:18]. -/
def healthWord_force1 : Fld := ⟨0xf40000, 4, 0, 1, 0x0, 18, 2⟩
/-- HEALTH_WORD: LAST1 [31:20]. -/
def healthWord_last1 : Fld := ⟨0xf40000, 4, 0, 1, 0x0, 20, 12⟩
/-- REAM_CTL: HOST_EN [0:0]. -/
def reamCtl_hostEn : Fld := ⟨0x1000000, 4096, 0, 1, 0x0, 0, 1⟩
/-- REAM_CTL: CROP_EN [1:1]. -/
def reamCtl_cropEn : Fld := ⟨0x1000000, 4096, 0, 1, 0x0, 1, 1⟩
/-- REAM_STAT: CLIENT [1:0]. -/
def reamStat_client : Fld := ⟨0x1000000, 4096, 0, 1, 0x4, 0, 2⟩
/-- REAM_STAT: OP [2:2]. -/
def reamStat_op : Fld := ⟨0x1000000, 4096, 0, 1, 0x4, 2, 1⟩
/-- REAM_STAT: ECHO_ACTIVE [3:3]. -/
def reamStat_echoActive : Fld := ⟨0x1000000, 4096, 0, 1, 0x4, 3, 1⟩
/-- REAM_STAT: HOLD_WAIT [4:4]. -/
def reamStat_holdWait : Fld := ⟨0x1000000, 4096, 0, 1, 0x4, 4, 1⟩
/-- REAM_STAT: HOST_OVERDUE [5:5]. -/
def reamStat_hostOverdue : Fld := ⟨0x1000000, 4096, 0, 1, 0x4, 5, 1⟩
/-- REAM_STAT: ISL [31:24]. -/
def reamStat_isl : Fld := ⟨0x1000000, 4096, 0, 1, 0x4, 24, 8⟩
/-- REAM_DEFER: HOST_DEFER_US [13:0]. -/
def reamDefer_hostDeferUs : Fld := ⟨0x1000000, 4096, 0, 1, 0x8, 0, 14⟩
/-- REAM_RING_BASE_LO: BASE [31:0]. -/
def reamRingBaseLo_base : Fld := ⟨0x1000000, 4096, 0, 1, 0x10, 0, 32⟩
/-- REAM_RING_BASE_HI: BASE [31:0]. -/
def reamRingBaseHi_base : Fld := ⟨0x1000000, 4096, 0, 1, 0x14, 0, 32⟩
/-- REAM_RING_SIZE: SIZE [16:0]. -/
def reamRingSize_size : Fld := ⟨0x1000000, 4096, 0, 1, 0x18, 0, 17⟩
/-- REAM_RING_TAIL: COUNT [31:0]. -/
def reamRingTail_count : Fld := ⟨0x1000000, 4096, 0, 1, 0x1c, 0, 32⟩
/-- REAM_RING_HEAD: COUNT [31:0]. -/
def reamRingHead_count : Fld := ⟨0x1000000, 4096, 0, 1, 0x20, 0, 32⟩
/-- REAM_RING_DONE: COUNT [31:0]. -/
def reamRingDone_count : Fld := ⟨0x1000000, 4096, 0, 1, 0x24, 0, 32⟩
/-- REAM_RING_STAT: TAIL_ERR [0:0]. -/
def reamRingStat_tailErr : Fld := ⟨0x1000000, 4096, 0, 1, 0x28, 0, 1⟩
/-- REAM_LAST_ERR: STATUS [7:0]. -/
def reamLastErr_status : Fld := ⟨0x1000000, 4096, 0, 1, 0x30, 0, 8⟩
/-- REAM_LAST_ERR: CAUSE [15:8]. -/
def reamLastErr_cause : Fld := ⟨0x1000000, 4096, 0, 1, 0x30, 8, 8⟩
/-- REAM_LAST_ERR: CLIENT [17:16]. -/
def reamLastErr_client : Fld := ⟨0x1000000, 4096, 0, 1, 0x30, 16, 2⟩
/-- REAM_LAST_TAG: TAG [15:0]. -/
def reamLastTag_tag : Fld := ⟨0x1000000, 4096, 0, 1, 0x34, 0, 16⟩
/-- REAM_ECHO_OFFSET: OFFSET [31:0]. -/
def reamEchoOffset_offset : Fld := ⟨0x1000000, 4096, 0, 1, 0x38, 0, 32⟩
/-- REAM_CNT, word k of 9: COUNT [31:0]. -/
def reamCnt_count (k : Nat) : Fld := ⟨0x1000000, 4096, 0, 1, 0x40 + 4 * k, 0, 32⟩
/-- HBM_STAT: SPEED [1:0]. -/
def hbmStat_speed : Fld := ⟨0x1100000, 0, 0, 1, 0x0, 0, 2⟩
/-- HBM_STAT: STATE [4:2]. -/
def hbmStat_state : Fld := ⟨0x1100000, 0, 0, 1, 0x0, 2, 3⟩
/-- HBM_STAT: TRAINED [13:8]. -/
def hbmStat_trained : Fld := ⟨0x1100000, 0, 0, 1, 0x0, 8, 6⟩
/-- HBM_STAT: REFRESH [15:14]. -/
def hbmStat_refresh : Fld := ⟨0x1100000, 0, 0, 1, 0x0, 14, 2⟩
/-- HBM_STAT: RETRAIN_NEEDED [16:16]. -/
def hbmStat_retrainNeeded : Fld := ⟨0x1100000, 0, 0, 1, 0x0, 16, 1⟩
/-- HBM_STAT: PC_DOWN [17:17]. -/
def hbmStat_pcDown : Fld := ⟨0x1100000, 0, 0, 1, 0x0, 17, 1⟩
/-- HBM_STAT: ISL [31:24]. -/
def hbmStat_isl : Fld := ⟨0x1100000, 0, 0, 1, 0x0, 24, 8⟩
/-- HBM_POLICY: SR_POLICY [1:0]. -/
def hbmPolicy_srPolicy : Fld := ⟨0x1100000, 0, 0, 1, 0x4, 0, 2⟩
/-- HBM_POLICY: SR_IDLE_US [31:16]. -/
def hbmPolicy_srIdleUs : Fld := ⟨0x1100000, 0, 0, 1, 0x4, 16, 16⟩
/-- HBM_SCRUB_CTL: SCRUB_HOURS [7:0]. -/
def hbmScrubCtl_scrubHours : Fld := ⟨0x1100000, 0, 0, 1, 0x8, 0, 8⟩
/-- HBM_SCRUB_CTL: SCRUB_DEFER_US [31:16]. -/
def hbmScrubCtl_scrubDeferUs : Fld := ⟨0x1100000, 0, 0, 1, 0x8, 16, 16⟩
/-- HBM_SCRUB_STAT: PASSES [15:0]. -/
def hbmScrubStat_passes : Fld := ⟨0x1100000, 0, 0, 1, 0xc, 0, 16⟩
/-- HBM_SCRUB_STAT: PERMILLE [31:16]. -/
def hbmScrubStat_permille : Fld := ⟨0x1100000, 0, 0, 1, 0xc, 16, 16⟩
/-- HBM_TEMP: STACK0 [7:0]. -/
def hbmTemp_stack0 : Fld := ⟨0x1100000, 0, 0, 1, 0x10, 0, 8⟩
/-- HBM_TEMP: STACK1 [15:8]. -/
def hbmTemp_stack1 : Fld := ⟨0x1100000, 0, 0, 1, 0x10, 8, 8⟩
/-- HBM_BAR2_FAULT_LO: OFFSET [31:0]. -/
def hbmBar2FaultLo_offset : Fld := ⟨0x1100000, 0, 0, 1, 0x18, 0, 32⟩
/-- HBM_BAR2_FAULT_HI: OFFSET [3:0]. -/
def hbmBar2FaultHi_offset : Fld := ⟨0x1100000, 0, 0, 1, 0x1c, 0, 4⟩
/-- HBM_LOG_STAT: NEXT [5:0]. -/
def hbmLogStat_next : Fld := ⟨0x1100000, 0, 0, 1, 0x20, 0, 6⟩
/-- HBM_LOG_STAT: WRAPPED [6:6]. -/
def hbmLogStat_wrapped : Fld := ⟨0x1100000, 0, 0, 1, 0x20, 6, 1⟩
/-- HBM_LOG_STAT: OVERFLOW [31:16]. -/
def hbmLogStat_overflow : Fld := ⟨0x1100000, 0, 0, 1, 0x20, 16, 16⟩
/-- HBM_CNT, word k of 11: COUNT [31:0]. -/
def hbmCnt_count (k : Nat) : Fld := ⟨0x1100000, 0, 0, 1, 0x40 + 4 * k, 0, 32⟩
/-- HBM_BAR2_DENIED: COUNT [31:0]. -/
def hbmBar2Denied_count : Fld := ⟨0x1100000, 0, 0, 1, 0x6c, 0, 32⟩
/-- HBM_PORT_TARGET: TARGET_NS [19:0]. -/
def hbmPortTarget_targetNs : Fld := ⟨0x1100100, 4, 0, 1, 0x0, 0, 20⟩
/-- HBM_PORT_STAT: LATE [15:0]. -/
def hbmPortStat_late : Fld := ⟨0x1100200, 4, 0, 1, 0x0, 0, 16⟩
/-- HBM_PORT_STAT: PEAK_US [31:16]. -/
def hbmPortStat_peakUs : Fld := ⟨0x1100200, 4, 0, 1, 0x0, 16, 16⟩
/-- HBM_PC_STAT: STATE [2:0]. -/
def hbmPcStat_state : Fld := ⟨0x1101000, 16, 0, 1, 0x0, 0, 3⟩
/-- HBM_PC_STAT: IN_ORDER [3:3]. -/
def hbmPcStat_inOrder : Fld := ⟨0x1101000, 16, 0, 1, 0x0, 3, 1⟩
/-- HBM_PC_STAT: HWM [4:4]. -/
def hbmPcStat_hwm : Fld := ⟨0x1101000, 16, 0, 1, 0x0, 4, 1⟩
/-- HBM_PC_STAT: RETRAIN_NEEDED [5:5]. -/
def hbmPcStat_retrainNeeded : Fld := ⟨0x1101000, 16, 0, 1, 0x0, 5, 1⟩
/-- HBM_PC_STAT: READ_Q [14:8]. -/
def hbmPcStat_readQ : Fld := ⟨0x1101000, 16, 0, 1, 0x0, 8, 7⟩
/-- HBM_PC_STAT: WRITE_Q [22:16]. -/
def hbmPcStat_writeQ : Fld := ⟨0x1101000, 16, 0, 1, 0x0, 16, 7⟩
/-- HBM_PC_STAT: ISL [31:24]. -/
def hbmPcStat_isl : Fld := ⟨0x1101000, 16, 0, 1, 0x0, 24, 8⟩
/-- HBM_PC_UNCORR: UNCORR [31:0]. -/
def hbmPcUncorr_uncorr : Fld := ⟨0x1101000, 16, 0, 1, 0x4, 0, 32⟩
/-- HBM_LOG_WORD: WORD [31:0]. -/
def hbmLogWord_word : Fld := ⟨0x1104000, 4, 0, 1, 0x0, 0, 32⟩
/-- HOST_STAT: GEN [2:0]. -/
def hostStat_gen : Fld := ⟨0x1200000, 0, 0, 1, 0x0, 0, 3⟩
/-- HOST_STAT: WIDTH [6:3]. -/
def hostStat_width : Fld := ⟨0x1200000, 0, 0, 1, 0x0, 3, 4⟩
/-- HOST_STAT: LINK_UP [7:7]. -/
def hostStat_linkUp : Fld := ⟨0x1200000, 0, 0, 1, 0x0, 7, 1⟩
/-- HOST_STAT: D3HOT [8:8]. -/
def hostStat_d3hot : Fld := ⟨0x1200000, 0, 0, 1, 0x0, 8, 1⟩
/-- HOST_STAT: BUS_MASTER [9:9]. -/
def hostStat_busMaster : Fld := ⟨0x1200000, 0, 0, 1, 0x0, 9, 1⟩
/-- HOST_STAT: ISL [31:24]. -/
def hostStat_isl : Fld := ⟨0x1200000, 0, 0, 1, 0x0, 24, 8⟩
/-- HOST_CMD_CTL: CMD_EN [0:0]. -/
def hostCmdCtl_cmdEn : Fld := ⟨0x1200000, 0, 0, 1, 0x10, 0, 1⟩
/-- HOST_CMD_CTL: TAIL_ERR [1:1]. -/
def hostCmdCtl_tailErr : Fld := ⟨0x1200000, 0, 0, 1, 0x10, 1, 1⟩
/-- HOST_CMD_BASE_LO: BASE [31:0]. -/
def hostCmdBaseLo_base : Fld := ⟨0x1200000, 0, 0, 1, 0x14, 0, 32⟩
/-- HOST_CMD_BASE_HI: BASE [31:0]. -/
def hostCmdBaseHi_base : Fld := ⟨0x1200000, 0, 0, 1, 0x18, 0, 32⟩
/-- HOST_CMD_TAIL: COUNT [31:0]. -/
def hostCmdTail_count : Fld := ⟨0x1200000, 0, 0, 1, 0x1c, 0, 32⟩
/-- HOST_CMD_FETCHED: COUNT [31:0]. -/
def hostCmdFetched_count : Fld := ⟨0x1200000, 0, 0, 1, 0x20, 0, 32⟩
/-- HOST_CMD_ACCEPTED: COUNT [31:0]. -/
def hostCmdAccepted_count : Fld := ⟨0x1200000, 0, 0, 1, 0x24, 0, 32⟩
/-- HOST_CMD_COMPLETED: COUNT [31:0]. -/
def hostCmdCompleted_count : Fld := ⟨0x1200000, 0, 0, 1, 0x28, 0, 32⟩
/-- HOST_CMD_NEXT_DSEQ: COUNT [31:0]. -/
def hostCmdNextDseq_count : Fld := ⟨0x1200000, 0, 0, 1, 0x2c, 0, 32⟩
/-- HOST_CMD_ERR: SEQ_GAPS [15:0]. -/
def hostCmdErr_seqGaps : Fld := ⟨0x1200000, 0, 0, 1, 0x30, 0, 16⟩
/-- HOST_CMD_ERR: BAD_ENTRIES [31:16]. -/
def hostCmdErr_badEntries : Fld := ⟨0x1200000, 0, 0, 1, 0x30, 16, 16⟩
/-- HOST_CMD_OUTSTANDING: OUTSTANDING [12:0]. -/
def hostCmdOutstanding_outstanding : Fld := ⟨0x1200000, 0, 0, 1, 0x34, 0, 13⟩
/-- HOST_DIGEST_CTL: SNAP [0:0]. -/
def hostDigestCtl_snap : Fld := ⟨0x1200000, 0, 0, 1, 0x40, 0, 1⟩
/-- HOST_DIGEST_CTL: DONE [1:1]. -/
def hostDigestCtl_done : Fld := ⟨0x1200000, 0, 0, 1, 0x40, 1, 1⟩
/-- HOST_DIGEST, word k of 16: DATA [31:0]. -/
def hostDigest_data (k : Nat) : Fld := ⟨0x1200000, 0, 0, 1, 0x80 + 4 * k, 0, 32⟩
/-- HOST_TX_CTL: EN [0:0]. -/
def hostTxCtl_en : Fld := ⟨0x1200000, 0, 0, 1, 0x300, 0, 1⟩
/-- HOST_TX_CTL: TX_BAD [31:16]. -/
def hostTxCtl_txBad : Fld := ⟨0x1200000, 0, 0, 1, 0x300, 16, 16⟩
/-- HOST_TX_BASE_LO: BASE [31:0]. -/
def hostTxBaseLo_base : Fld := ⟨0x1200000, 0, 0, 1, 0x304, 0, 32⟩
/-- HOST_TX_BASE_HI: BASE [31:0]. -/
def hostTxBaseHi_base : Fld := ⟨0x1200000, 0, 0, 1, 0x308, 0, 32⟩
/-- HOST_TX_SIZE: TX_SIZE [10:0]. -/
def hostTxSize_txSize : Fld := ⟨0x1200000, 0, 0, 1, 0x30c, 0, 11⟩
/-- HOST_TX_TAIL: COUNT [31:0]. -/
def hostTxTail_count : Fld := ⟨0x1200000, 0, 0, 1, 0x310, 0, 32⟩
/-- HOST_TX_HEAD: COUNT [31:0]. -/
def hostTxHead_count : Fld := ⟨0x1200000, 0, 0, 1, 0x314, 0, 32⟩
/-- RING_CTL: EN [0:0]. -/
def ringCtl_en : Fld := ⟨0x1200100, 64, 0, 1, 0x0, 0, 1⟩
/-- RING_CTL: ENTRY_BYTES [2:1]. -/
def ringCtl_entryBytes : Fld := ⟨0x1200100, 64, 0, 1, 0x0, 1, 2⟩
/-- RING_CTL: CONS_ERR [3:3]. -/
def ringCtl_consErr : Fld := ⟨0x1200100, 64, 0, 1, 0x0, 3, 1⟩
/-- RING_CTL: FULL [4:4]. -/
def ringCtl_full : Fld := ⟨0x1200100, 64, 0, 1, 0x0, 4, 1⟩
/-- RING_BASE_LO: BASE [31:0]. -/
def ringBaseLo_base : Fld := ⟨0x1200100, 64, 0, 1, 0x4, 0, 32⟩
/-- RING_BASE_HI: BASE [31:0]. -/
def ringBaseHi_base : Fld := ⟨0x1200100, 64, 0, 1, 0x8, 0, 32⟩
/-- RING_SIZE: SIZE [30:0]. -/
def ringSize_size : Fld := ⟨0x1200100, 64, 0, 1, 0xc, 0, 31⟩
/-- RING_PROD: COUNT [31:0]. -/
def ringProd_count : Fld := ⟨0x1200100, 64, 0, 1, 0x10, 0, 32⟩
/-- RING_CONS: COUNT [31:0]. -/
def ringCons_count : Fld := ⟨0x1200100, 64, 0, 1, 0x14, 0, 32⟩
/-- RING_WB_LO: WB [31:0]. -/
def ringWbLo_wb : Fld := ⟨0x1200100, 64, 0, 1, 0x18, 0, 32⟩
/-- RING_WB_HI: WB [31:0]. -/
def ringWbHi_wb : Fld := ⟨0x1200100, 64, 0, 1, 0x1c, 0, 32⟩
/-- RING_DROP: DROP [31:0]. -/
def ringDrop_drop : Fld := ⟨0x1200100, 64, 0, 1, 0x20, 0, 32⟩
/-- RING_MOD: MOD_COUNT [15:0]. -/
def ringMod_modCount : Fld := ⟨0x1200100, 64, 0, 1, 0x24, 0, 16⟩
/-- RING_MOD: MOD_US [31:16]. -/
def ringMod_modUs : Fld := ⟨0x1200100, 64, 0, 1, 0x24, 16, 16⟩
/-- DMA_CTL: START [0:0]. -/
def dmaCtl_start : Fld := ⟨0x1201000, 64, 0, 1, 0x0, 0, 1⟩
/-- DMA_CTL: ABORT [1:1]. -/
def dmaCtl_abort : Fld := ⟨0x1201000, 64, 0, 1, 0x0, 1, 1⟩
/-- DMA_CTL: PRIO [2:2]. -/
def dmaCtl_prio : Fld := ⟨0x1201000, 64, 0, 1, 0x0, 2, 1⟩
/-- DMA_STAT: STATE [2:0]. -/
def dmaStat_state : Fld := ⟨0x1201000, 64, 0, 1, 0x4, 0, 3⟩
/-- DMA_STAT: CAUSE [6:3]. -/
def dmaStat_cause : Fld := ⟨0x1201000, 64, 0, 1, 0x4, 3, 4⟩
/-- DMA_STAT: START_OVERRUN [7:7]. -/
def dmaStat_startOverrun : Fld := ⟨0x1201000, 64, 0, 1, 0x4, 7, 1⟩
/-- DMA_STAT: DENIED [8:8]. -/
def dmaStat_denied : Fld := ⟨0x1201000, 64, 0, 1, 0x4, 8, 1⟩
/-- DMA_STAT: ISL [31:24]. -/
def dmaStat_isl : Fld := ⟨0x1201000, 64, 0, 1, 0x4, 24, 8⟩
/-- DMA_DESC_LO: DESC [31:0]. -/
def dmaDescLo_desc : Fld := ⟨0x1201000, 64, 0, 1, 0x8, 0, 32⟩
/-- DMA_DESC_HI: DESC [31:0]. -/
def dmaDescHi_desc : Fld := ⟨0x1201000, 64, 0, 1, 0xc, 0, 32⟩
/-- DMA_LIMIT: CH_LIMIT [23:0]. -/
def dmaLimit_chLimit : Fld := ⟨0x1201000, 64, 0, 1, 0x10, 0, 24⟩
/-- DMA_COUNT: CH_COUNT [23:0]. -/
def dmaCount_chCount : Fld := ⟨0x1201000, 64, 0, 1, 0x14, 0, 24⟩
/-- DMA_FAULT_LO: ADDR [31:0]. -/
def dmaFaultLo_addr : Fld := ⟨0x1201000, 64, 0, 1, 0x18, 0, 32⟩
/-- DMA_FAULT_HI: ADDR [31:0]. -/
def dmaFaultHi_addr : Fld := ⟨0x1201000, 64, 0, 1, 0x1c, 0, 32⟩
/-- DMA_BYTES_64K: BYTES [31:0]. -/
def dmaBytes64k_bytes : Fld := ⟨0x1201000, 64, 0, 1, 0x20, 0, 32⟩
/-- MSIX_WORD: WORD [31:0]. -/
def msixWord_word : Fld := ⟨0x12f0000, 4, 0, 1, 0x0, 0, 32⟩
/-- MSIX_PBA: PENDING [31:0]. -/
def msixPba_pending : Fld := ⟨0x12f1000, 4, 0, 1, 0x0, 0, 32⟩
/-- CAIRN_STAT: LOOP [0:0]. -/
def cairnStat_loop : Fld := ⟨0x1300000, 0, 0, 1, 0x0, 0, 1⟩
/-- CAIRN_STAT: OVR_ANY [1:1]. -/
def cairnStat_ovrAny : Fld := ⟨0x1300000, 0, 0, 1, 0x0, 1, 1⟩
/-- CAIRN_STAT: ISL [31:24]. -/
def cairnStat_isl : Fld := ⟨0x1300000, 0, 0, 1, 0x0, 24, 8⟩
/-- CAIRN_LOOP: PRODUCER [7:0]. -/
def cairnLoop_producer : Fld := ⟨0x1300000, 0, 0, 1, 0x4, 0, 8⟩
/-- CAIRN_LOOP: ISL [15:8]. -/
def cairnLoop_isl : Fld := ⟨0x1300000, 0, 0, 1, 0x4, 8, 8⟩
/-- CAIRN_LOOP: LOOP_COUNT [31:16]. -/
def cairnLoop_loopCount : Fld := ⟨0x1300000, 0, 0, 1, 0x4, 16, 16⟩
/-- CAIRN_MERGED_LAST: CONSUMER [7:0]. -/
def cairnMergedLast_consumer : Fld := ⟨0x1300000, 0, 0, 1, 0x8, 0, 8⟩
/-- CAIRN_MERGED_LAST: ISL [15:8]. -/
def cairnMergedLast_isl : Fld := ⟨0x1300000, 0, 0, 1, 0x8, 8, 8⟩
/-- CAIRN_MERGED_COUNT: MERGED_COUNT [31:0]. -/
def cairnMergedCount_mergedCount : Fld := ⟨0x1300000, 0, 0, 1, 0xc, 0, 32⟩
/-- CAIRN_OVR_LAST: CONSUMER [7:0]. -/
def cairnOvrLast_consumer : Fld := ⟨0x1300000, 0, 0, 1, 0x10, 0, 8⟩
/-- CAIRN_OVR_LAST: ISL [15:8]. -/
def cairnOvrLast_isl : Fld := ⟨0x1300000, 0, 0, 1, 0x10, 8, 8⟩
/-- CAIRN_OVR_LAST: OVR_COUNT [31:16]. -/
def cairnOvrLast_ovrCount : Fld := ⟨0x1300000, 0, 0, 1, 0x10, 16, 16⟩
/-- CAIRN_OVR, word k of 5: OVR [31:0]. -/
def cairnOvr_ovr (k : Nat) : Fld := ⟨0x1300000, 0, 0, 1, 0x20 + 4 * k, 0, 32⟩
/-- CAIRN_LOOP_SRC, word k of 7: SRC [31:0]. -/
def cairnLoopSrc_src (k : Nat) : Fld := ⟨0x1300000, 0, 0, 1, 0x40 + 4 * k, 0, 32⟩
/-- CAIRN_EVIO_IN: EDGE [1:0]. -/
def cairnEvioIn_edge : Fld := ⟨0x1300100, 4, 0, 1, 0x0, 0, 2⟩
/-- CAIRN_EVIO_IN: FILT [7:4]. -/
def cairnEvioIn_filt : Fld := ⟨0x1300100, 4, 0, 1, 0x0, 4, 4⟩
/-- CAIRN_EVIO_IN: LEVEL [8:8]. -/
def cairnEvioIn_level : Fld := ⟨0x1300100, 4, 0, 1, 0x0, 8, 1⟩
/-- CAIRN_EVIO_IN: ISL [31:24]. -/
def cairnEvioIn_isl : Fld := ⟨0x1300100, 4, 0, 1, 0x0, 24, 8⟩
/-- CAIRN_EVIO_OUT: MODE [1:0]. -/
def cairnEvioOut_mode : Fld := ⟨0x1300200, 8, 0, 1, 0x0, 0, 2⟩
/-- CAIRN_EVIO_OUT: POLARITY [2:2]. -/
def cairnEvioOut_polarity : Fld := ⟨0x1300200, 8, 0, 1, 0x0, 2, 1⟩
/-- CAIRN_EVIO_OUT: BUSY [3:3]. -/
def cairnEvioOut_busy : Fld := ⟨0x1300200, 8, 0, 1, 0x0, 3, 1⟩
/-- CAIRN_EVIO_OUT: DENIED [4:4]. -/
def cairnEvioOut_denied : Fld := ⟨0x1300200, 8, 0, 1, 0x0, 4, 1⟩
/-- CAIRN_EVIO_OUT: LEVEL [5:5]. -/
def cairnEvioOut_level : Fld := ⟨0x1300200, 8, 0, 1, 0x0, 5, 1⟩
/-- CAIRN_EVIO_WIDTH: WIDTH_NS [19:0]. -/
def cairnEvioWidth_widthNs : Fld := ⟨0x1300200, 8, 0, 1, 0x4, 0, 20⟩
/-- CAIRN_MATRIX: WORD [31:0]. -/
def cairnMatrix_word : Fld := ⟨0x1301000, 32, 4, 8, 0x0, 0, 32⟩
/-- TEST_STAT: STATE [2:0]. -/
def testStat_state : Fld := ⟨0x1400000, 0, 0, 1, 0x0, 0, 3⟩
/-- TEST_STAT: ISL [15:8]. -/
def testStat_isl : Fld := ⟨0x1400000, 0, 0, 1, 0x0, 8, 8⟩
/-- TEST_STAT: FAILED [23:16]. -/
def testStat_failed : Fld := ⟨0x1400000, 0, 0, 1, 0x0, 16, 8⟩
/-- TEST_STAT: SAMPLING [31:24]. -/
def testStat_sampling : Fld := ⟨0x1400000, 0, 0, 1, 0x0, 24, 8⟩
/-- TEST_RESULT: RESULT [1:0]. -/
def testResult_result : Fld := ⟨0x1400000, 0, 0, 1, 0x4, 0, 2⟩
/-- TEST_RESULT: OCCASION [5:4]. -/
def testResult_occasion : Fld := ⟨0x1400000, 0, 0, 1, 0x4, 4, 2⟩
/-- TEST_RESULT: FAIL_N [15:8]. -/
def testResult_failN : Fld := ⟨0x1400000, 0, 0, 1, 0x4, 8, 8⟩
/-- TEST_RESULT: INCOMPLETE_N [23:16]. -/
def testResult_incompleteN : Fld := ⟨0x1400000, 0, 0, 1, 0x4, 16, 8⟩
/-- TEST_MEM_STAT: ENTRIES [8:0]. -/
def testMemStat_entries : Fld := ⟨0x1400000, 0, 0, 1, 0x10, 0, 9⟩
/-- TEST_MEM_STAT: OVERFLOW [9:9]. -/
def testMemStat_overflow : Fld := ⟨0x1400000, 0, 0, 1, 0x10, 9, 1⟩
/-- TEST_MEM_STAT: UNREPAIRABLE [23:16]. -/
def testMemStat_unrepairable : Fld := ⟨0x1400000, 0, 0, 1, 0x10, 16, 8⟩
/-- TEST_MEM_REPAIR: ROWS [15:0]. -/
def testMemRepair_rows : Fld := ⟨0x1400000, 0, 0, 1, 0x14, 0, 16⟩
/-- TEST_MEM_REPAIR: COLUMNS [31:16]. -/
def testMemRepair_columns : Fld := ⟨0x1400000, 0, 0, 1, 0x14, 16, 16⟩
/-- TEST_CAL: CAL_DONE [0:0]. -/
def testCal_calDone : Fld := ⟨0x1400000, 0, 0, 1, 0x20, 0, 1⟩
/-- TEST_CAL: OUT_OF_RANGE [1:1]. -/
def testCal_outOfRange : Fld := ⟨0x1400000, 0, 0, 1, 0x20, 1, 1⟩
/-- TEST_CAL: ELEMENT [15:8]. -/
def testCal_element : Fld := ⟨0x1400000, 0, 0, 1, 0x20, 8, 8⟩
/-- TEST_CAL: RECAL_S [31:16]. -/
def testCal_recalS : Fld := ⟨0x1400000, 0, 0, 1, 0x20, 16, 16⟩
/-- TEST_THERM: ALERT_C [7:0]. -/
def testTherm_alertC : Fld := ⟨0x1400000, 0, 0, 1, 0x30, 0, 8⟩
/-- TEST_THERM: HYST [15:8]. -/
def testTherm_hyst : Fld := ⟨0x1400000, 0, 0, 1, 0x30, 8, 8⟩
/-- TEST_TJ: TJ_MAX [9:0]. -/
def testTj_tjMax : Fld := ⟨0x1400000, 0, 0, 1, 0x34, 0, 10⟩
/-- TEST_TJ: HOT [19:16]. -/
def testTj_hot : Fld := ⟨0x1400000, 0, 0, 1, 0x34, 16, 4⟩
/-- TEST_TJ: ALERT [20:20]. -/
def testTj_alert : Fld := ⟨0x1400000, 0, 0, 1, 0x34, 20, 1⟩
/-- TEST_TJ: ISL [31:24]. -/
def testTj_isl : Fld := ⟨0x1400000, 0, 0, 1, 0x34, 24, 8⟩
/-- TEST_CNT, word k of 7: COUNT [31:0]. -/
def testCnt_count (k : Nat) : Fld := ⟨0x1400000, 0, 0, 1, 0x40 + 4 * k, 0, 32⟩
/-- TEST_SENSOR: TEMP [9:0]. -/
def testSensor_temp : Fld := ⟨0x1400100, 4, 0, 1, 0x0, 0, 10⟩
/-- TEST_SENSOR: VALID [16:16]. -/
def testSensor_valid : Fld := ⟨0x1400100, 4, 0, 1, 0x0, 16, 1⟩
/-- TEST_SENSOR: ISL [31:24]. -/
def testSensor_isl : Fld := ⟨0x1400100, 4, 0, 1, 0x0, 24, 8⟩
/-- TEST_ISL: RESULT [2:0]. -/
def testIsl_result : Fld := ⟨0x1401000, 16, 0, 1, 0x0, 0, 3⟩
/-- TEST_ISL: FAILED [3:3]. -/
def testIsl_failed : Fld := ⟨0x1401000, 16, 0, 1, 0x0, 3, 1⟩
/-- TEST_ISL: MEM_UNREPAIRABLE [4:4]. -/
def testIsl_memUnrepairable : Fld := ⟨0x1401000, 16, 0, 1, 0x0, 4, 1⟩
/-- TEST_ISL: ALWAYS_ON [5:5]. -/
def testIsl_alwaysOn : Fld := ⟨0x1401000, 16, 0, 1, 0x0, 5, 1⟩
/-- TEST_ISL: PASSED [15:8]. -/
def testIsl_passed : Fld := ⟨0x1401000, 16, 0, 1, 0x0, 8, 8⟩
/-- TEST_ISL: PATTERNS [20:16]. -/
def testIsl_patterns : Fld := ⟨0x1401000, 16, 0, 1, 0x0, 16, 5⟩
/-- TEST_ISL_SIG_LO: SIG [31:0]. -/
def testIslSigLo_sig : Fld := ⟨0x1401000, 16, 0, 1, 0x4, 0, 32⟩
/-- TEST_ISL_SIG_HI: SIG [31:0]. -/
def testIslSigHi_sig : Fld := ⟨0x1401000, 16, 0, 1, 0x8, 0, 32⟩
/-- TEST_ISL_NS: NS [31:0]. -/
def testIslNs_ns : Fld := ⟨0x1401000, 16, 0, 1, 0xc, 0, 32⟩
/-- MEMLOG_WORD: WORD [31:0]. -/
def memlogWord_word : Fld := ⟨0x1404000, 4, 0, 1, 0x0, 0, 32⟩
/-- UPD_STAT: STATE [2:0]. -/
def updStat_state : Fld := ⟨0x1500000, 0, 0, 1, 0x0, 0, 3⟩
/-- UPD_STAT: ACTIVE_BANK [3:3]. -/
def updStat_activeBank : Fld := ⟨0x1500000, 0, 0, 1, 0x0, 3, 1⟩
/-- UPD_STAT: FELL_BACK [4:4]. -/
def updStat_fellBack : Fld := ⟨0x1500000, 0, 0, 1, 0x0, 4, 1⟩
/-- UPD_STAT: LOCK_HELD [5:5]. -/
def updStat_lockHeld : Fld := ⟨0x1500000, 0, 0, 1, 0x0, 5, 1⟩
/-- UPD_STAT: FALLBACK_OK [6:6]. -/
def updStat_fallbackOk : Fld := ⟨0x1500000, 0, 0, 1, 0x0, 6, 1⟩
/-- UPD_STAT: KEYSTORE_ERR [7:7]. -/
def updStat_keystoreErr : Fld := ⟨0x1500000, 0, 0, 1, 0x0, 7, 1⟩
/-- UPD_STAT: ISL [31:24]. -/
def updStat_isl : Fld := ⟨0x1500000, 0, 0, 1, 0x0, 24, 8⟩
/-- UPD_LOCK: HOLDER [15:0]. -/
def updLock_holder : Fld := ⟨0x1500000, 0, 0, 1, 0x4, 0, 16⟩
/-- UPD_PROGRESS: PERMILLE [9:0]. -/
def updProgress_permille : Fld := ⟨0x1500000, 0, 0, 1, 0x8, 0, 10⟩
/-- UPD_PROGRESS: PART [18:16]. -/
def updProgress_part : Fld := ⟨0x1500000, 0, 0, 1, 0x8, 16, 3⟩
/-- UPD_LAST_ERR: STATUS [7:0]. -/
def updLastErr_status : Fld := ⟨0x1500000, 0, 0, 1, 0xc, 0, 8⟩
/-- UPD_LAST_ERR: CAUSE [15:8]. -/
def updLastErr_cause : Fld := ⟨0x1500000, 0, 0, 1, 0xc, 8, 8⟩
/-- UPD_LAST_ERR: PART [18:16]. -/
def updLastErr_part : Fld := ⟨0x1500000, 0, 0, 1, 0xc, 16, 3⟩
/-- UPD_LAST_ERR: LOADER [31:24]. -/
def updLastErr_loader : Fld := ⟨0x1500000, 0, 0, 1, 0xc, 24, 8⟩
/-- UPD_VERSION: VALUE [31:0]. -/
def updVersion_value : Fld := ⟨0x1500000, 0, 0, 1, 0x10, 0, 32⟩
/-- UPD_STAGED_VERSION: VALUE [31:0]. -/
def updStagedVersion_value : Fld := ⟨0x1500000, 0, 0, 1, 0x14, 0, 32⟩
/-- UPD_DIR_GEN: VALUE [31:0]. -/
def updDirGen_value : Fld := ⟨0x1500000, 0, 0, 1, 0x18, 0, 32⟩
/-- SEC_FUSE: SIGNED_IMAGES [0:0]. -/
def secFuse_signedImages : Fld := ⟨0x1500000, 0, 0, 1, 0x20, 0, 1⟩
/-- SEC_FUSE: SIGNED_UPDATES [1:1]. -/
def secFuse_signedUpdates : Fld := ⟨0x1500000, 0, 0, 1, 0x20, 1, 1⟩
/-- SEC_FUSE: PROVISION_LOCK [2:2]. -/
def secFuse_provisionLock : Fld := ⟨0x1500000, 0, 0, 1, 0x20, 2, 1⟩
/-- SEC_FUSE: ROLLBACK [14:8]. -/
def secFuse_rollback : Fld := ⟨0x1500000, 0, 0, 1, 0x20, 8, 7⟩
/-- SEC_CNT, word k of 4: COUNT [31:0]. -/
def secCnt_count (k : Nat) : Fld := ⟨0x1500000, 0, 0, 1, 0x300 + 4 * k, 0, 32⟩
/-- SEC_SLOT: KIND [2:0]. -/
def secSlot_kind : Fld := ⟨0x1500100, 4, 0, 1, 0x0, 0, 3⟩
/-- SEC_SLOT: RESTORED [3:3]. -/
def secSlot_restored : Fld := ⟨0x1500100, 4, 0, 1, 0x0, 3, 1⟩
/-- SEC_SLOT: FINGERPRINT [31:16]. -/
def secSlot_fingerprint : Fld := ⟨0x1500100, 4, 0, 1, 0x0, 16, 16⟩
/-- SEC_MGMT: OPEN [0:0]. -/
def secMgmt_open : Fld := ⟨0x1500200, 4, 0, 1, 0x0, 0, 1⟩
/-- SEC_MGMT: MGMT_SLOT [4:1]. -/
def secMgmt_mgmtSlot : Fld := ⟨0x1500200, 4, 0, 1, 0x0, 1, 4⟩
/-- SEC_MGMT: MGMT_TEMPLATE [11:8]. -/
def secMgmt_mgmtTemplate : Fld := ⟨0x1500200, 4, 0, 1, 0x0, 8, 4⟩
/-- SEC_MGMT: AUTH_FAIL [31:16]. -/
def secMgmt_authFail : Fld := ⟨0x1500200, 4, 0, 1, 0x0, 16, 16⟩

end F

end Sys2Proof.Machine
end

