-- ==== Sys2Proof/Machine/State.lean ====
section
/-! DEFINITION. The state of the block: every register, table, buffer, counter, mode and pin the spec gives the device,
as plain data, and the queue of commands that wait. -/

namespace Sys2Proof.Machine

/-- An entry on its way into the device event log (R545, R547). -/
structure LogEntry where
  code : Nat
  isl : Nat
  status : Nat
  args : List Nat
  ns : Nat
  deriving DecidableEq, Repr

/-- What the block sends out, in the order it sends it: events to Cairn, activations from Cairn, bus transactions,
blocks and frames to the transmitters, pin levels. -/
inductive Output where
  /-- An event of producer `producer` raised towards Cairn (R481, R484). -/
  | cairn (producer gen isl : Nat)
  /-- An activation of consumer `consumer` leaving Cairn (R481). -/
  | activation (consumer gen isl : Nat)
  /-- A consumer's overrun report on its way back to Cairn (R488). -/
  | overrun (consumer isl : Nat)
  /-- A posted write on the PCIe bus. -/
  | busWrite (addr : Nat) (data : Bytes)
  /-- A read request on the PCIe bus. -/
  | busRead (addr len tag : Nat)
  /-- The answer to a BAR read. -/
  | busAnswer (data : Bytes) (poisoned : Bool)
  /-- An unscrambled Uhlus block given to a lane's transmitter (R98): `ctrl` for a control block. -/
  | block (lane : Nat) (ctrl : Bool) (payload : Nat)
  /-- A timed control block launched in block slot `slot` of a lane; its TOFF is in the payload (R107, R108). -/
  | timed (lane : Nat) (payload : Nat) (slot : Nat)
  /-- One transmitted PRBS bit inverted on a lane (R117). -/
  | prbsInverted (lane : Nat)
  /-- An Ethernet frame given to a network port. -/
  | frame (port : Nat) (data : Bytes)
  /-- Bytes answered on the SMBus. -/
  | smbus (data : Bytes)
  /-- An EVIO pin's level, or `none` for high impedance. -/
  | evio (pin : Nat) (level : Option Bool)
  /-- The level of PPS_OUT, or `none` for high impedance. -/
  | pps (level : Option Bool)
  /-- The level of ALERT_N: driven low, or released (R514, R535). -/
  | alertN (low : Bool)
  /-- A serial clock frame started on a position axis (R129). -/
  | serialClock (axis bits : Nat)
  /-- The response of an HBM request to its port: unit, data of a read, error response (R438, R439). -/
  | hbmAnswer (port unit : Nat) (data : Bytes) (error : Bool)
  /-- A DRAM command issued to a pseudo-channel (R436). -/
  | dram (pc bank kind : Nat)
  deriving DecidableEq, Repr

/-- What the monitor holds of an island (R39): CLK_OK, ISOLATED, FABRIC_ERR, the last measurement, and whether a
CLK_FAULT has been logged for the fault that lasts. -/
structure Isl where
  clkOk : Bool := false
  isolated : Bool := false
  fabricErr : Bool := false
  /-- Measured minus nominal, in 0.01 %. -/
  freqErr : Int := 0
  freqKhz : Nat := 0
  fault : Bool := false
  deriving DecidableEq, Repr

/-- What a joint change does (R22, R46 to R51, R89). -/
inductive JointKind where
  | enter (mode : Nat)
  | leaveInspect
  | leaveExpose
  | load
  deriving DecidableEq, Repr

/-- An open joint change (R22 to R24): PREPARING until every Steward has answered READY, then COMMITTED; its target
line in u, where it has one. -/
structure Joint where
  kind : JointKind
  ready : List Nat := []
  committed : Bool := false
  target : Option Int := none
  deriving DecidableEq, Repr

/-- A mode transition in progress (R44 to R51): the command it serves, the mode it enters, STOP_NOW; the change has
been applied and the path drains. -/
structure Trans where
  cmd : CmdRef
  opcode : Nat
  newMode : Nat
  stopNow : Bool := false
  applied : Bool := false
  deriving DecidableEq, Repr

/-- A command that waits for the mode or joint change in progress (R24, R45), in acceptance order. -/
inductive ModeCmd where
  | setMode (cmd : CmdRef) (mode : Nat) (stopNow : Bool)
  | park (cmd : CmdRef)
  | load (cmd : CmdRef) (addr len : Nat)
  | activate (cmd : CmdRef)
  deriving DecidableEq, Repr

/-- The Chief controller beyond its registers. -/
structure Chief where
  /-- Power-gated islands (R25). -/
  gated : List Nat := []
  islands : Sparse Isl := []
  /-- The run mode whose data path acts, from the application of its entry to the completion of its exit (R46 to R51);
  0 for none. -/
  path : Nat := 0
  joint : Option Joint := none
  trans : Option Trans := none
  waiting : List ModeCmd := []
  /-- The target line of an exit from INSPECT whose open frame is still to be completed (R47, R48). -/
  complete : Option Int := none
  /-- The clock at each Steward's recent restarts (R19). -/
  restarts : Sparse (List Nat) := []
  /-- The clock at time 0 of the start-up, and the bank it boots from (R58, R531). -/
  riseAt : Nat := 0
  bootBank : Nat := 0
  /-- Power (R552 to R554): 0 below standby on, 1 standby domain only, 2 main domain up, 3 main rails discharging, 4
  discharging with a main-valid condition returned. -/
  power : Nat := 2
  /-- Single-ended outputs high impedance and transmitters squelched (R53, R554). -/
  tristate : Bool := false
  /-- A reset is held: start-up waits for RESET_N to rise (R553, R554); it has risen before the main domain was up. -/
  inReset : Bool := false
  rose : Option Nat := none
  /-- The park count of the token before PARK erased it (R64). -/
  parkCount : Nat := 0
  /-- The clock at the last service of the watchdog (R54). -/
  watchdog : Nat := 0
  /-- A device reset has been ordered and has not taken effect (R52). -/
  resetOrdered : Bool := false
  /-- Agents' mailboxes by island: address and value, in order of arrival (R20). -/
  mail : Sparse (List (Nat × Word)) := []
  deriving DecidableEq, Repr

/-- A pin's function and options, as PIN_FUNC gives them (R72). -/
structure PinFn where
  func : Nat
  opts : Nat
  deriving DecidableEq, Repr

/-- A record of a Kalri image (R71): type, lock flag, target, payload, and the byte offset of its header. -/
structure ImgRec where
  type : Nat
  lock : Bool
  target : Nat
  payload : Bytes
  off : Nat
  deriving DecidableEq, Repr

/-- An image that passed the container checks: its header fields and records (R68 to R72). -/
structure Image where
  runMode : Nat
  startMode : Nat
  isSigned : Bool
  totalLen : Nat
  recCount : Nat
  buildId : Nat
  name : Bytes
  digest : Bytes
  recs : List ImgRec
  deriving DecidableEq, Repr

/-- A lane quad's profile (R94). -/
structure QuadProfile where
  role : Nat
  mask : Nat
  rate : Nat
  roleOpt : Nat
  laneOpt : List Nat
  logicalMap : Nat
  refclk : Nat
  linkId : Nat
  deriving DecidableEq, Repr

/-- A load in progress (R89). -/
structure Load where
  cmd : CmdRef
  addr : Nat
  len : Nat
  image : Option Image
  deriving DecidableEq, Repr

/-- The configuration loader and what the image fixed beyond registers. -/
structure Cfg where
  /-- The running image; `none` before one is applied. -/
  image : Option Image := none
  /-- Pin functions by `group * 256 + pin` (R72). -/
  pins : Sparse PinFn := []
  /-- Voltage codes of the EVIO, position and management banks (R72). -/
  banks : List Nat := []
  /-- Profiles by quad (R94). -/
  quads : Sparse QuadProfile := []
  load : Option Load := none
  /-- Resources and columns reserved for the load's image (R90). -/
  reserved : List Nat := []
  deriving DecidableEq, Repr

/-- A block in a lane's deskew buffer: `lost` for one whose sync header was invalid (R100, R104). -/
structure LaneBlk where
  lost : Bool
  ctrl : Bool
  payload : Nat
  /-- The round trip of an ECHO in taps, or the marked instant of a SAMPLE as a 32.32 Reel time, as measured. -/
  meas : Nat
  deriving DecidableEq, Repr

/-- A running PROBE measurement (R110). -/
structure ProbeRun where
  sent : Nat
  /-- PROBE_IDs sent and not yet answered. -/
  open_ : List Nat
  matched : Nat
  total : Nat
  deriving DecidableEq, Repr

/-- A Sync Link sample in reception (R149): its control payload, its arrival, the data block that has come. -/
structure SampleRx where
  ctrl : Nat
  arrival : Nat
  first : Option Nat
  deriving DecidableEq, Repr

/-- A lane beyond its registers (R97 to R117). -/
structure Lane where
  /-- Consecutive valid sync headers in BLOCK_HUNT. -/
  good : Nat := 0
  /-- Validity of the last 64 sync headers, newest first. -/
  recent : List Bool := []
  /-- The descrambler's last 58 payload bits. -/
  descr : Nat := 0
  /-- The block after block lock is still to be discarded (R101). -/
  first : Bool := false
  /-- Blocks since the last expected marker position; `none` before the first valid ALIGN. -/
  pos : Option Nat := none
  /-- Consecutive missing or bad ALIGN blocks. -/
  missing : Nat := 0
  /-- XOR of the payload bytes since the last ALIGN, and whether an ALIGN began it. -/
  bip : Nat := 0
  bipKnown : Bool := false
  /-- Block slot at which the last marker arrived (R104). -/
  marker : Option Nat := none
  /-- Bond width code and LINK_ID of the last marker. -/
  width : Nat := 0
  fifo : List LaneBlk := []
  sample : Option SampleRx := none
  /-- AM_COUNT of the next ALIGN sent (R103). -/
  amCount : Nat := 0
  /-- BLK delay in use, and output phase in taps (R112). -/
  blk : Nat := 0
  phase : Nat := 0
  /-- The block slot of the last timed block (R108). -/
  timedSlot : Option Nat := none
  probe : Option ProbeRun := none
  nextProbe : Nat := 0
  /-- A margin scan runs (R116). -/
  margin : Bool := false
  /-- Error-free bits in a row before synchronisation; the last 64 checked bits' errors, newest first (R117). -/
  prbsGood : Nat := 0
  prbsRecent : List Bool := []
  deriving DecidableEq, Repr

/-- A stream port beyond its registers (R114, R115). -/
structure SPort where
  /-- An item has been taken since the bond came UP. -/
  started : Bool := false
  /-- SENT and LIMIT of a sender, modulo 65,536. -/
  sent : Nat := 0
  limit : Nat := 0
  /-- A receiver's cumulative grant: the initial buffer count plus the flits released. -/
  granted : Nat := 0
  /-- The next number sent, and the last taken, of a network stream (R186, R189). -/
  txNext : Nat := 0
  rxLast : Option Nat := none
  /-- Flits of one item held for want of credit, below a unit of 1,024 of the STALL count. -/
  stallRest : Nat := 0
  deriving DecidableEq, Repr

/-- The serial lanes beyond their registers. -/
structure Lanes where
  lanes : Sparse Lane := []
  ports : Sparse SPort := []
  /-- The next logical lane in turn of each bond of a SENSOR quad (R105). -/
  turn : Sparse Nat := []
  deriving DecidableEq, Repr

/-- A position axis beyond its registers (R119 to R130). -/
structure Axis where
  /-- A pin's function has taken effect, and its filtered level is set. -/
  seeded : Bool := false
  /-- Counts moved back from the furthest point in the DIR direction (R124). -/
  back : Nat := 0
  /-- HALL: the last state was no valid successor; the next valid one is the reference (R123). -/
  lost : Bool := false
  /-- An index has been qualified since INDEX_MODE or POS_CPR changed (R126). -/
  indexed : Bool := false
  /-- SERIAL: sample instant of the frame in flight, of the last accepted frame, its position bits, discards in a row. -/
  latch : Option Nat := none
  serTime : Nat := 0
  serLast : Option Nat := none
  discards : Nat := 0
  deriving DecidableEq, Repr

/-- A measurement on its way to the Reel (R133): the movement or, from a follow source, the absolute position, in
2⁻³² stamp units; its time in ns; the step it counts as; the rate a sample carries. -/
structure Meas where
  absolute : Bool
  m : Int
  time : Nat
  step : Nat
  deriving DecidableEq, Repr

/-- A tick of the backlog (R140): its boundary in pitch units of u, when it became due; `skip` for a line that gets no
tick. -/
structure Tick where
  boundary : Int
  due : Nat
  skip : Bool
  deriving DecidableEq, Repr

/-- A scheduler beyond its registers (R146, R147). -/
structure Sched where
  late : Bool := false
  /-- Generation of the events its firings raise (R484). -/
  gen : Nat := 0
  deriving DecidableEq, Repr

/-- An entry of a Reel capture FIFO (R145). -/
structure CapEntry where
  pos : Int
  ns : Nat
  count : Nat
  deriving DecidableEq, Repr

/-- The Reel beyond its registers (R131 to R157). -/
structure Reel where
  /-- Tracked and measured position, in 2⁻³² stamp units; rate in 2⁻³² stamp units per ns. -/
  t : Int := 0
  m : Int := 0
  v : Int := 0
  /-- High-water boundary H in pitches of u, and high-water position W in 2⁻³² stamp units of u (R138, R146). -/
  h : Int := 0
  w : Int := 0
  inbox : List Meas := []
  /-- Time of the previous measurement, its direction, and how many in a row had it (R134). -/
  last : Option Nat := none
  dir : Int := 0
  run : Nat := 0
  /-- The step of the latest measurement (R135, R136), in 2⁻³² stamp units. -/
  step : Nat := 0
  small : Nat := 0
  /-- The ratio in use: from, to, counts done of the ramp (R132). -/
  ratioFrom : Int := 0x1000000000000
  ratioTo : Int := 0x1000000000000
  ramp : Nat := 0
  rampLen : Nat := 0
  /-- Values in force of the shadowed fields (R144). -/
  bw : Nat := 4
  rampReg : Nat := 10
  minPeriod : Nat := 2500
  stopTime : Nat := 1000
  /-- Pending offset in 2⁻³² stamp units (R143). -/
  adjust : Int := 0
  backlog : List Tick := []
  lastTick : Option Nat := none
  /-- No line from this one on is ticked (R47): the target line of a committed exit, in u. -/
  stop : Option Int := none
  scheds : Sparse Sched := []
  caps : Sparse (List CapEntry) := []
  /-- A valid sample has been taken since the role was set; coasting since this time in ns (R153, R154). -/
  followed : Bool := false
  coast : Option Nat := none
  txSeq : Sparse Nat := []
  deriving DecidableEq, Repr

/-- A time comparator beyond its registers (R175, R176). -/
structure Comparator where
  /-- Armed at a target already passed: the next firing sets LATE. -/
  late : Bool := false
  /-- A forward step carried the counter past the target: LATE at the firing, and the target advances past the
  counter. -/
  stepped : Bool := false
  deriving DecidableEq, Repr

/-- A pulse generator beyond its registers (R178). -/
structure PulseGen where
  armed : Bool := false
  late : Bool := false
  /-- The counter value at which the next pulse starts; `none` while no start is set. -/
  next : Option Nat := none
  /-- A pulse is on the pin. -/
  active : Bool := false
  /-- Pulses made since the start. -/
  made : Nat := 0
  /-- A stop event waits for the end of the pulse. -/
  stop : Bool := false
  deriving DecidableEq, Repr

/-- An entry of a MAC port's timestamp FIFO (R172, R173). -/
structure TsEntry where
  tag : Nat
  fail : Bool
  stamp : Nat
  deriving DecidableEq, Repr

/-- The time unit and the MAC ports beyond their registers. -/
structure TimeUnit where
  /-- The committed PTP base: seconds, nanoseconds, matching NS (R163). -/
  baseSec : Nat := 0
  baseNsec : Nat := 0
  baseCnt : Nat := 0
  /-- The slew delta in force, in 2⁻³² ns a tick, while TIME_SLEW_TICKS counts down (R160). -/
  slewDelta : Int := 0
  comps : Sparse Comparator := []
  gens : Sparse PulseGen := []
  /-- Entries of the time capture FIFOs: counter values, head first (R180). -/
  captures : Sparse (List Nat) := []
  /-- The clock at the last accepted edge of PPS_IN (R181). -/
  ppsEdge : Option Nat := none
  /-- PPS_OUT is high as a PTP second pulse (R182). -/
  ppsHigh : Bool := false
  /-- Timestamp FIFO entries of each MAC port, head first (R172). -/
  stamps : Sparse (List TsEntry) := []
  deriving DecidableEq, Repr

/-- A line number a channel waits for (R203, R205): in the sense of u (R580). -/
structure TrigLine where
  line : Int
  /-- The counter value at which LINE_TIMEOUT passes. -/
  deadline : Nat
  /-- The Reel triggered it; an untriggered line is missing from the start (R204). -/
  triggered : Bool
  /-- Its LINE_START has come. -/
  begun : Bool
  /-- Decided: `some none` missing, `some (some px)` a good line's pixels. -/
  done : Option (Option (List Nat))
  deriving DecidableEq, Repr

/-- An entry delivered to the Calender (R191): a good line with its pixels and its bytes in the partition, or a
missing-line marker. -/
structure HbEntry where
  line : Int
  px : Option (List Nat)
  deriving DecidableEq, Repr

/-- A line burst on a port (R196): the sensor and line it belongs to, and its data blocks, newest first. -/
structure Burst where
  sensor : Nat
  line : Int
  tag : Nat
  blocks : List Nat
  deriving DecidableEq, Repr

/-- What a port makes of the next block of a burst: outside one, within an open one, or discarding to its end. -/
inductive BurstState where
  | outside
  | inside (b : Burst)
  | discarding
  deriving DecidableEq, Repr

/-- A sensor channel of the Headbox beyond its registers. -/
structure HbCh where
  lines : List TrigLine := []
  /-- Entries delivered and not yet taken by the Calender. -/
  queue : List HbEntry := []
  /-- Bytes held in the partition (R210). -/
  fill : Nat := 0
  /-- Home frame of the open camera frame (R208). -/
  home : Int := 0
  /-- Triggered lines passed over since the last LINE_START taken (R194). -/
  passed : Nat := 0
  /-- Lines received in the running millisecond (R211). -/
  received : Nat := 0
  deriving DecidableEq, Repr

/-- A camera control request outstanding, and a CAM_ACK that waits for its data block (R200, R201). -/
structure CamAck where
  sensor : Nat
  write : Bool
  ctag : Nat
  result : Nat
  deriving DecidableEq, Repr

structure HbPort where
  burst : BurstState := .outside
  ack : Option CamAck := none
  deriving DecidableEq, Repr

/-- The Headbox beyond its registers (R191 to R212). -/
structure Headbox where
  /-- L0, the first line of the mode, in u (R192); `none` before it is ticked. -/
  l0 : Option Int := none
  ports : Sparse HbPort := []
  chans : Sparse HbCh := []
  deriving DecidableEq, Repr

/-- An output line of a Calender (R221): its descriptor and pixels. -/
structure CalLine where
  line : Int
  frame : Nat
  index : Nat
  miss : Bool
  px : List Nat
  deriving DecidableEq, Repr

/-- A Calender beyond its registers (R213 to R229). -/
structure CalCh where
  /-- Missing lines so far in the open frame (R222). -/
  missing : Nat := 0
  /-- A coefficient word has been written since the last hand-over (R227). -/
  written : Bool := false
  /-- Pixels whose shadow word the host wrote since the hand-over: the copy skips them. -/
  skip : List Nat := []
  /-- The clock at which the copy of a DISCARD began (R226). -/
  discard : Option Nat := none
  /-- Pixels whose active, and whose shadow, word fails parity (R223). -/
  badActive : List Nat := []
  badShadow : List Nat := []
  /-- Output lines on their way to the Ridge hub. -/
  out : List CalLine := []
  deriving DecidableEq, Repr

/-- What happens to the blobs of a context on one line, from the LABEL node to the FEATURE node (R258, R281). -/
inductive BlobEvent where
  /-- A new blob: BLOB_SEQ, X_FIRST, PREV_SEQ (0 without CONT_PREV). -/
  | opened (seq x prev : Nat)
  /-- The second blob merges into the first. -/
  | merged (into gone : Nat)
  /-- A run of columns a to b joins a blob. -/
  | joined (seq a b : Nat)
  /-- An overflow run. -/
  | overflow (a b : Nat)
  | touchMiss (seq : Nat)
  | overflowTouch (seq : Nat)
  /-- Closed with this last line; `cont` for a split (CONT_NEXT); MIN_AREA in force at the closure. -/
  | closed (seq : Nat) (last : Int) (cont : Bool) (minArea : Nat)
  deriving DecidableEq, Repr

/-- One line of a stream (R258): descriptor, and the planes of its kind; −32,768 is MISS in a GREY element. -/
structure StreamLine where
  line : Int
  frame : Nat
  index : Nat
  grey : List (Nat × List Int) := []
  cls : List (Nat × List Nat) := []
  events : List BlobEvent := []
  deriving DecidableEq, Repr

/-- The newest lines of a stream: how many lines it has had, and the last of them, oldest first. -/
structure Hist where
  count : Nat := 0
  rows : List StreamLine := []
  deriving DecidableEq, Repr

/-- A node's state in one context (R265). -/
structure NodeCtx where
  out : Hist := {}
  /-- BACKGROUND: accumulator and VALID by plane and column, and the warm-up count (R273). -/
  acc : List (Nat × List (Int × Bool)) := []
  warm : Nat := 0
  tag : Nat := 0
  deriving DecidableEq, Repr

/-- An open blob of the LABEL node (R281). -/
structure Blob where
  ctx : Nat
  entry : Nat
  seq : Nat
  first : Int
  xFirst : Nat
  prev : Nat
  joined : Bool
  last : Int
  deriving DecidableEq, Repr

/-- The sums and marks the FEATURE node holds for a blob (R283, R286). -/
structure Sums where
  ctx : Nat
  seq : Nat
  prev : Nat
  first : Int
  xFirst : Nat
  xMin : Nat
  xMax : Nat
  clsMax : Nat := 0
  views : Nat := 0
  area : Nat := 0
  sx : Nat := 0
  sy : Nat := 0
  sxx : Nat := 0
  syy : Nat := 0
  sxy : Nat := 0
  sv : Int := 0
  vMin : Option Int := none
  vMax : Option Int := none
  flags : Nat := 0
  deriving DecidableEq, Repr

/-- A feature item (R289). -/
structure Item where
  first : Int
  height : Nat
  xMin : Nat
  xMax : Nat
  xFirst : Nat
  plane : Nat
  portSel : Nat
  clsMax : Nat
  views : Nat
  area : Nat
  flags : Nat
  sx : Nat
  sy : Nat
  sxx : Nat
  syy : Nat
  sxy : Nat
  sv : Int
  vMin : Int
  vMax : Int
  seq : Nat
  prev : Nat
  dropped : Nat
  deriving DecidableEq, Repr

/-- A context's overflow summary (R289). -/
structure Overflow where
  area : Nat := 0
  dropped : Nat := 0
  first : Int := 0
  last : Int := 0
  xMin : Nat := 0
  xMax : Nat := 0
  clsMax : Nat := 0
  views : Nat := 0
  deriving DecidableEq, Repr

/-- A frame-end marker (R243). -/
structure Marker where
  port : Nat
  frame : Nat
  missing : Nat
  /-- Line number of the frame's last line, in u. -/
  last : Int
  dropped : Bool
  memory : Bool
  deriving DecidableEq, Repr

/-- What a Ridge sends the Couch. -/
inductive RidgeOut where
  | item (i : Item)
  | marker (m : Marker)
  deriving DecidableEq, Repr

/-- A port line (R236): descriptor and planes; a plane whose line is missing carries no pixels. -/
structure PortLine where
  line : Int
  frame : Nat
  index : Nat
  planes : List (Nat × Option (List Nat))
  deriving DecidableEq, Repr

/-- A stage-graph context: one port of the Ridge. -/
structure RidgeCtx where
  port : Hist := {}
  nodes : List NodeCtx := []
  /-- The stream has ended after this many lines (R264). -/
  total : Option Nat := none
  runs : List (Nat × Nat × Option Nat) := []
  runLine : Option Int := none
  missRow : List Bool := []
  nextSeq : Nat := 1
  overflow : Overflow := {}
  /-- Missing lines of the frame at the graph's input (R243), and of frames whose marker has not left yet. -/
  missing : Nat := 0
  ends : List Marker := []
  /-- PARAM bytes each node runs under, and changes its lines have not reached yet: frame, node, bytes (R235). -/
  params : List Bytes := []
  later : List (Nat × Nat × Bytes) := []
  last : Option Int := none
  deriving DecidableEq, Repr

/-- A memory-path frame (R239, R241): its slot and its lines' descriptors; `none` where the frame was dropped. -/
structure MemFrame where
  frame : Nat
  slot : Option Nat
  lines : List PortLine
  complete : Bool
  last : Int
  missing : Nat
  /-- Lines fetched by the burst reader. -/
  fetched : Nat
  deriving DecidableEq, Repr

/-- The rotation step beyond its registers (R244 to R251). -/
structure Rotation where
  /-- COPY is complete and SHADOW waits for a line boundary. -/
  copied : Bool := false
  /-- A mismatch ended SHADOW: the spare under test decides (R251). -/
  disputed : Bool := false
  /-- The relieved Spur is SUSPECT: a PASS adds to its count (R251). -/
  suspect : Bool := false
  /-- The step has made its hand-over: its target slot is done. -/
  handed : Bool := false
  /-- A forced hand-over at the next line boundary. -/
  forced : Bool := false
  /-- The slice of the disputed spare ended with PASS: the step is retried after REINIT. -/
  retryNext : Bool := false
  /-- Generation of the events the step raises (R484). -/
  gen : Nat := 0
  deriving DecidableEq, Repr

/-- A mediated PARAM change that waits for its frame: node, bytes (R235). -/
structure ParamChange where
  frame : Option Nat
  inForce : List Nat
  writes : List (Nat × Bytes)
  deriving DecidableEq, Repr

/-- A Ridge beyond its registers (R230 to R291). -/
structure Ridge where
  ctxs : List RidgeCtx := [{}, {}]
  inline : List PortLine := []
  frames : List MemFrame := []
  slotsUsed : List Nat := []
  staging : List PortLine := []
  blobs : List Blob := []
  sums : List Sums := []
  /-- Items and markers in order, and those that have crossed to the Couch's intake (R290, R292). -/
  fifo : List RidgeOut := []
  intake : List RidgeOut := []
  rot : Rotation := {}
  pending : List ParamChange := []
  /-- Slots, burst length and region of the stage graph (R232). -/
  slots : Nat := 0
  burst : Nat := 1
  region : Nat := 0
  /-- Lines of the running burst not yet staged (R241). -/
  burstLeft : Nat := 0
  /-- The last line of the run, in u, once the exit is committed (R264). -/
  stop : Option Int := none
  /-- The last lines the graph took from the in-line port and from the memory path (R242). -/
  lastInline : Option Int := none
  lastMem : Option Int := none
  deriving DecidableEq, Repr

/-- An item of an output FIFO and who has still to take it (R317): the ring, the network stream. -/
structure OutItem where
  data : Bytes
  ring : Bool
  net : Bool
  deriving DecidableEq, Repr

/-- A channel's statistics of the running frame (R318). -/
structure StatsCh where
  collecting : Bool := false
  frame : Nat := 0
  /-- POS line of the frame's first line, native. -/
  first : Int := 0
  width : Nat := 0
  missLines : Nat := 0
  missPx : Nat := 0
  n : Nat := 0
  sum : Nat := 0
  sq : Nat := 0
  hist : Sparse Nat := []
  profN : Sparse Nat := []
  profS : Sparse Nat := []
  deriving DecidableEq, Repr

/-- The statistics unit beyond its registers (R318 to R320). -/
structure Stats where
  chans : Sparse StatsCh := []
  /-- Frames complete, whose block has not entered the FIFO yet: channel and frame statistics. -/
  ready : List (Nat × StatsCh) := []
  fifo : List OutItem := []
  deriving DecidableEq, Repr

/-- A blob held in the seam table, or a member of a released unit (R295 to R301): port, item, web box, seams. -/
structure Member where
  port : Nat
  item : Item
  xMin : Int
  xMax : Int
  seams : List Nat
  /-- The group it belongs to, and the clock at which it entered. -/
  group : Nat
  entered : Nat
  deriving DecidableEq, Repr

/-- What the forest answers for a unit (R305). -/
structure Verdict where
  cls : Nat
  conf : Nat
  gen : Nat
  deriving DecidableEq, Repr

/-- An entry of the classify queue (R292, R310): a unit with the seam flags of its record, or a frame-end marker that
waits for the units before it. -/
inductive ClassEntry where
  | unit (members : List Member) (flags : Nat) (verdict : Option Verdict)
  | close (m : Marker)
  deriving DecidableEq, Repr

/-- A requested crop (R312 to R314). -/
structure Crop where
  seq : Nat
  port : Nat
  /-- Planes in increasing order. -/
  views : List Nat
  /-- First column of the plane, columns; first line in u, lines. -/
  x0 : Nat
  w : Nat
  y0 : Int
  h : Nat
  xpos : Int
  codec : Nat
  raw : Nat
  /-- Bytes reserved in CROP_REGION. -/
  reserved : Nat
  /-- A Ream engine works on it; its bytes once it is complete. -/
  engine : Option Nat
  data : Option Bytes
  /-- Bytes its DMA has moved. -/
  sent : Nat
  deriving DecidableEq, Repr

/-- A target of a marker unit (R315), in u; counted in MARKS. -/
structure MarkTarget where
  u : Int
  armed : Bool
  deriving DecidableEq, Repr

/-- The Couch beyond its registers (R292 to R317). -/
structure Couch where
  held : List Member := []
  nextGroup : Nat := 0
  queue : List ClassEntry := []
  records : List OutItem := []
  crops : List Crop := []
  /-- Crops whose compression is complete, in that order, by SEQ (R466). -/
  cropsDone : List Nat := []
  marks : Sparse (List MarkTarget) := []
  /-- Progress of each port in u, and ports whose last frame's marker has been taken (R296, R300). -/
  progress : Sparse (Option Int) := []
  finished : List Nat := []
  /-- TYPE 1 and 3 records of each port since its TYPE 2 (R310). -/
  issued : Sparse Nat := []
  /-- First and newest line of each channel's look-back ring, in u (R313). -/
  look : Sparse (Option (Int × Int)) := []
  /-- UNC_CNT (R302). -/
  uncCnt : Nat := 0
  deriving DecidableEq, Repr

/-- A key slot of the Chief controller (R536): kind 1 LAYOUT, 2 IMAGE, 3 UPDATE, 4 MGMT; its key. -/
structure KeySlot where
  kind : Nat := 0
  key : Nat := 0
  deriving DecidableEq, Repr

/-- How far a layout job has come (R332, R333). -/
inductive JobStage where
  | queued
  | waitOut
  | decrypt
  | verified
  | failed (cause : Nat)
  deriving DecidableEq, Repr

/-- A layout job (R322 to R335). -/
structure Job where
  id : Nat
  addr : Nat := 0
  len : Nat := 0
  tag : Nat := 0
  /-- The bytes of a network job; `none` for one that lies in the host job region. -/
  body : Option Bytes := none
  network : Bool := false
  jobId : Nat := 0
  format : Nat := 0
  codec : Nat := 0
  slot : Nat := 0
  stripe : Nat := 0
  stripeBands : Nat := 0
  first : Nat := 0
  count : Nat := 0
  cipherLen : Nat := 0
  plainLen : Nat := 0
  classCrc : Nat := 0
  /-- The job key (R323). -/
  key : Nat := 0
  stage : JobStage := .queued
  /-- Where its output lies, once space is held (R333). -/
  out : Option Nat := none
  /-- How decompression ended: the cause of R416, if any, and the bytes made. -/
  codecEnd : Option (Option Nat × Nat) := none
  /-- Its band table. -/
  table : Bytes := []
  /-- Bands the Mould has started, and its place in a Sheet stream; every later band fails. -/
  fed : Nat := 0
  pos : Nat := 0
  sheetBad : Bool := false
  /-- Bands reported RELEASED, and FAILED or LATE (R335). -/
  ok : Nat := 0
  bad : Nat := 0
  deriving DecidableEq, Repr

/-- A job result (R335). -/
structure JobResult where
  tag : Nat
  code : Nat
  cause : Nat
  network : Bool
  ok : Nat
  bad : Nat
  jobId : Nat
  deriving DecidableEq, Repr

/-- A layout job stream (R327 to R329): the job it assembles. -/
structure LayoutStream where
  /-- The bytes so far of the job in progress; `none` while data are discarded up to the next JOB_START. -/
  data : Option Bytes := none
  /-- Its number and length, once its header has passed. -/
  job : Option (Nat × Nat) := none
  deriving DecidableEq, Repr

/-- The layout ingress beyond its registers. -/
structure Layout where
  jobs : List Job := []
  /-- Job numbers: in the queue; complete in staging and waiting for an entry; in stripe order. -/
  queue : List Nat := []
  staged : List Nat := []
  order : List Nat := []
  /-- The job at the checks or in decryption. -/
  cur : Option Nat := none
  streams : Sparse LayoutStream := []
  results : List JobResult := []
  nextId : Nat := 0
  /-- The stripe of ES is ended; its STRIPE_BANDS (R331). -/
  ended : Bool := false
  stripeBands : Nat := 0
  deriving DecidableEq, Repr

/-- A dose line on its way to a Ridge hub (R254, R343): the Mould's stripe count, stripe, its bands, line, pixels; with
line 0 the PARAM bytes of each Ridge for the stripe. -/
structure DoseLine where
  inst : Nat
  stripe : Nat
  bands : Nat
  y : Nat
  px : List Nat
  params : Option (List Bytes) := none
  deriving DecidableEq, Repr

/-- A kernel Ridge's context (R345): lines on their way, the last seven taken, oldest first, its PARAM bytes. -/
structure KernelCtx where
  queue : List DoseLine := []
  win : List DoseLine := []
  params : Bytes := []
  deriving DecidableEq, Repr

/-- The Mould beyond its registers (R340, R343). -/
structure Mould where
  /-- The band being rasterized: job number and band. -/
  running : Option (Nat × Nat) := none
  /-- Stripes started, and the stripe and band to come: number, next band, bands. -/
  inst : Nat := 0
  stripe : Nat := 0
  next : Nat := 0
  bands : Nat := 0
  /-- The band counted in STARVED last: stripe count and band. -/
  starved : Option (Nat × Nat) := none
  deriving DecidableEq, Repr

/-- A band at the Watermark (R347, R348), from the Mould's start of it: its job, the cause reported for it, its kernel
lines by Ridge, oldest first. -/
structure WmBand where
  inst : Nat
  stripe : Nat
  band : Nat
  job : Nat
  cause : Option Nat
  parts : List (List (List Nat)) := [[], [], [], []]
  /-- Its first kernel line has arrived: it holds a slot. -/
  held : Bool := false
  /-- Its CRC-64 matched; its release runs. -/
  passed : Bool := false
  releasing : Bool := false
  deriving DecidableEq, Repr

/-- A stripe of the Mould at the Watermark: its Laid stripe has ended; the Laid stripe's lines once it is handed
over (R352). -/
structure WmStripe where
  inst : Nat
  stripe : Nat
  bands : Nat
  ended : Bool
  lines : Option Nat
  deriving DecidableEq, Repr

/-- The Watermark beyond its registers (R346 to R352). -/
structure Watermark where
  bands : List WmBand := []
  stripes : List WmStripe := []
  /-- Bands of the Laid's stripe whose deadline has passed. -/
  decided : Nat := 0
  /-- A Laid stripe that ended before the Mould had started a stripe for it (R352). -/
  unmet : Option Nat := none
  /-- Bands, by stripe count, whose job has been told LATE before they arrived (R350). -/
  told : List (Nat × Nat) := []
  deriving DecidableEq, Repr

/-- What the Watermark has reported of a band (R351, R364): its stripe, and the gap cause; `none` for RELEASED. -/
structure BandReport where
  band : Nat
  stripe : Nat
  cause : Option Nat
  deriving DecidableEq, Repr

/-- A shot tick on its way from the Reel to island 0x90 (R141, R367): its line in u, its sub-position, whether the Reel
marked it LATE or did not issue it, and the Reel instant as a 32.32 time. -/
structure ShotTick where
  line : Int
  sub : Nat
  late : Bool
  skipped : Bool
  instant : Nat
  deriving DecidableEq, Repr

/-- What went out of a line time (R366, R367, R380): whether its frames were sent, the channels whose frame fails its
CRC at the read-back, the sub-positions whose SHOT was sent, and those late and not issued, with the NS of the first. -/
structure ShotLine where
  time : Nat
  framed : Bool := false
  crcBad : List Nat := []
  sent : List Nat := []
  late : List Nat := []
  skipped : List Nat := []
  ns : Option Nat := none
  deriving DecidableEq, Repr

/-- The Laid and the Vat beyond their registers (R354 to R385). -/
structure Laid where
  /-- Values in force from the hand-over (R358): delays, skews, stripe, lines, origin in u. -/
  delays : List Nat := []
  skews : List Nat := []
  num : Nat := 0
  lines : Nat := 64
  origin : Int := 0
  /-- An armed stripe waits for its hand-over; a stripe runs. -/
  armed : Bool := false
  running : Bool := false
  /-- The Reel line of the last shot tick, in u; the line time, while a stripe is armed or runs. -/
  lastTick : Option Int := none
  time : Option Int := none
  /-- Ending line time. -/
  endTime : Int := 0
  /-- Causes in force: of the stop of release (STOP, WARN), of immediate blanking (CRIT, LINK, INTERLOCK). -/
  soft : Option Nat := none
  hard : Option Nat := none
  /-- A STOP that waits for the next line boundary event (R51), and a stop of new stripes (R50). -/
  stopDue : Bool := false
  stopping : Bool := false
  /-- Line time and sub-position of the last SHOT sent. -/
  lastShot : Option (Nat × Nat) := none
  /-- Lines in state EXPOSE that are still needed, and the newest line decided (R364, R365). -/
  exposed : List Nat := []
  decided : Int := -1
  lastReleased : Option Nat := none
  /-- The open BLANKED run: first line, last line, cause, NS of its opening (R384). -/
  run : Option (Nat × Nat × Nat × Nat) := none
  bands : List BandReport := []
  shots : List ShotLine := []
  /-- First and last line of a PARTIAL record of the stripe (R381). -/
  partial_ : Option (Nat × Nat) := none
  /-- The next line the ledger compares (R381). -/
  ledger : Nat := 0
  gaps : List OutItem := []
  /-- Vat words with an uncorrectable error (R379): line, word of the 576 of a line, line time from which it fails. -/
  vatBad : List (Nat × Nat × Nat) := []
  /-- Shot ticks on their way from the Reel. -/
  inbox : List ShotTick := []
  /-- LAID_LEDGER_FAIL_LINE holds a mismatch that has not been read. -/
  failHeld : Bool := false
  /-- Generation of the events of the stripe, and of the next one armed (R484). -/
  gen : Nat := 0
  nextGen : Nat := 0
  /-- Producers raised on this edge, with their generation (R386). -/
  due : List (Nat × Nat) := []
  deriving DecidableEq, Repr

/-- A Blanker Link channel beyond its registers (R373 to R376). -/
structure LaidCh where
  /-- Not LOST (R375). -/
  lost : Bool := false
  /-- A valid DRV_STATUS has arrived since the lane came UP. -/
  fresh : Bool := false
  deriving DecidableEq, Repr

/-- A driver register exchange outstanding on a channel (R389): its CTAG and direction. -/
structure DrvReq where
  ctag : Nat
  write : Bool
  deriving DecidableEq, Repr

/-- A message in a driver back-channel buffer (R387): an IDLE_MEAS or a DRV_ACK, its control payload, the data blocks
that follow it, and whether it is at its end. -/
structure BackMsg where
  ack : Bool
  ctrl : Nat
  blocks : List Nat
  closed : Bool
  deriving DecidableEq, Repr

/-- The Scree's view of a channel (R387 to R403). -/
structure ScreeCh where
  /-- The last CTAG used, and the exchanges of the host and of MEAS_START outstanding. -/
  ctag : Nat := 0
  host : Option DrvReq := none
  start : Option DrvReq := none
  /-- MEAS_START waits (R390), or has been sent for the running cycle. -/
  startWaits : Bool := false
  startSent : Bool := false
  /-- FIRST of the messages the cycle has taken. -/
  got : List Nat := []
  buffer : List BackMsg := []
  /-- A message of the stream is being discarded at the buffer; its data blocks still to come. -/
  discard : Nat := 0
  /-- The last DRV_STATUS: current (R403), TEMP as it came, and the driver's WARN and CRIT. -/
  current : Bool := false
  temp : Nat := 0x80
  warn : Bool := false
  crit : Bool := false
  deriving DecidableEq, Repr

/-- The Scree beyond its registers (R387 to R405). -/
structure Scree where
  /-- The measurement window has opened and no cycle has started since (R392). -/
  opened : Bool := false
  /-- A cycle runs; the generation of the event at its end (R484). -/
  running : Bool := false
  gen : Nat := 0
  /-- Values of the cycle by beam (528c + r): FLAG and RES. -/
  values : Sparse Nat := []
  /-- The last verdict of a beam and how many cycles in a row gave it (R397). -/
  verdicts : Sparse (Nat × Nat) := []
  /-- Columns with a class change since the last rebuild; class changes since the last cycle's end. -/
  changed : List Nat := []
  changes : Nat := 0
  /-- Beams whose inactive entry a rebuild or a host write has changed since the exchange (R401). -/
  touched : List Nat := []
  /-- A host request of SCREE_DCTL waits to be sent (R389, R390). -/
  hostWaits : Bool := false
  deriving DecidableEq, Repr

/-- A Ream job descriptor (R408). -/
structure ReamDesc where
  ctl : Nat
  inLen : Nat
  inAddr : Nat := 0
  outAddr : Nat := 0
  outLen : Nat := 0
  chainCount : Nat := 0
  chainAddr : Nat := 0
  raster : Nat := 0
  expect : Nat := 0
  deriving DecidableEq, Repr

/-- A job on an engine (R406): client 1 host, 2 Couch, 3 layout ingress; the crop's SEQ or the layout job's number; a
cause found at the fetch. -/
structure ReamRun where
  client : Nat
  key : Nat
  desc : ReamDesc
  fail : Option Nat := none
  /-- Generation of the events the job raises (R484). -/
  gen : Nat := 0
  deriving DecidableEq, Repr

/-- A Ream engine beyond its registers (R407, R426). -/
structure Engine where
  run : Option ReamRun := none
  /-- The internal job queued at it. -/
  queued : Option ReamRun := none
  /-- The HOLD descriptor at the head has been released. -/
  released : Bool := false
  gen : Nat := 0
  /-- A host reset clears HOST_EN at the end of the running host job (R426). -/
  clearEn : Bool := false
  /-- Bytes below a unit of 65,536 of IN_64K and OUT_64K. -/
  inRest : Nat := 0
  outRest : Nat := 0
  deriving DecidableEq, Repr

/-- One unit's share of a request in a pseudo-channel's queues (R435). -/
structure HbmReq where
  port : Nat
  /-- Byte address of the unit. -/
  unit : Nat
  write : Bool
  /-- First byte within the unit, and the bytes to write (or as many zero bytes as are to be read). -/
  off : Nat
  data : Bytes
  /-- The clock at its arrival at the controller island (R436). -/
  arrived : Nat
  /-- It has been counted in LATE (R436). -/
  late : Bool
  /-- Data as of its arrival (R437), or the refusal of a merge (R439). -/
  refused : Bool
  deriving DecidableEq, Repr

/-- A pseudo-channel beyond its status register: queues, open rows, drain, self-refresh, scrub and refresh (R435 to
R446). -/
structure Pc where
  reads : List HbmReq := []
  writes : List HbmReq := []
  /-- Requests issued to the DRAM whose data or response has not come back, oldest first. -/
  issued : List HbmReq := []
  /-- Open row of a bank, plus 1; 0 when the bank is closed. -/
  openRow : Sparse Nat := []
  /-- Row hits served in a row from the open row. -/
  hits : Nat := 0
  /-- The bank that last received an activate. -/
  lastBank : Nat := 0
  /-- A write drain runs (R436). -/
  drain : Bool := false
  /-- Banks in IN_ORDER (R437). -/
  inOrder : List Nat := []
  /-- A replay after a parity alert is under way (R440). -/
  replay : Bool := false
  /-- Exits from self-refresh that have timed out (R446). -/
  exitTries : Nat := 0
  /-- Refresh intervals a bank's refresh has been postponed (R443). -/
  postponed : Sparse Nat := []
  /-- The next row the patrol scrub takes, and whether its deferral is running or expired (R442). -/
  scrubRow : Nat := 0
  scrubDeferred : Bool := false
  scrubDue : Bool := false
  deriving DecidableEq, Repr

/-- A region of the HBM plan (R432). -/
structure Region where
  id : Nat
  kind : Nat
  hostWrite : Bool
  zero : Bool
  base : Nat
  size : Nat
  deriving DecidableEq, Repr

/-- The memory subsystem beyond its registers. -/
structure Hbm where
  pcs : Sparse Pc := []
  /-- Units whose stored code cannot be corrected until they are wholly written (R439). -/
  bad : List Nat := []
  /-- The plan in force (R432). -/
  plan : List Region := []
  /-- Training steps run in the current training, and whether one runs (R447, R449). -/
  steps : Nat := 0
  training : Bool := false
  /-- The command a running speed change serves, and the point it moves to (R448). -/
  target : Option (CmdRef × Nat) := none
  /-- Temperature readings in a row at least 3 °C below 85 °C, and below 105 °C (R443). -/
  cool85 : Nat := 0
  cool105 : Nat := 0
  deriving DecidableEq, Repr

/-- A command entry fetched and accepted, not yet reported complete (R453, R456). -/
structure OutCmd where
  cseq : Nat
  opcode : Nat
  /-- ARGS, bytes 8 to 55 of the entry (R454). -/
  args : Bytes
  intr : Bool
  fence : Bool
  /-- The management stream it came by (R526); `none` for the command ring. -/
  stream : Option Nat
  /-- Its owning controller has taken it (R457). -/
  taken : Bool := false
  deriving DecidableEq, Repr

/-- A command reported complete, whose completion entry is not written yet (R458). -/
structure Report where
  cseq : Nat
  opcode : Nat
  status : Nat
  info : Nat
  result : Nat
  intr : Bool
  /-- Its CSEQ was accepted (R455), so that it moves COMPLETED. -/
  accepted : Bool
  stream : Option Nat
  deriving DecidableEq, Repr

/-- A DMA descriptor in use (R470). -/
structure DmaDesc where
  dir : Nat
  intHalf : Bool
  intFull : Bool
  endFlag : Bool
  wb : Bool
  wait : Bool
  tag : Nat
  len : Nat
  src : Nat
  dst : Nat
  next : Nat
  deriving DecidableEq, Repr

/-- A DMA channel beyond its registers (R469 to R478). -/
structure DmaCh where
  /-- Where the descriptor in use lies: address, and whether in HBM. -/
  descAddr : Nat := 0
  descHbm : Bool := false
  desc : Option DmaDesc := none
  /-- Bytes read at the source, bytes complete at the destination. -/
  read : Nat := 0
  done : Nat := 0
  /-- Host reads in flight: destination offset and length, oldest first; a zero length is the zero-length read of
  R474. -/
  reads : List (Nat × Nat) := []
  /-- The half event has been raised; an abort waits for outstanding responses; the write-back has been issued. -/
  half : Bool := false
  aborting : Bool := false
  wroteBack : Bool := false
  /-- Generation of the activation that started the chain, and of the one that released the descriptor (R484). -/
  chainGen : Nat := 0
  gen : Nat := 0
  /-- Bytes moved below a unit of 65,536. -/
  bytesRest : Nat := 0
  deriving DecidableEq, Repr

/-- A completion entry that waits for ring 0, and its INTR flag (R458, R480). -/
structure Completion where
  data : Bytes
  intr : Bool
  deriving DecidableEq, Repr

/-- A command that completed with TIMEOUT and has not reported since (R457). -/
structure LateCmd where
  cseq : Nat
  opcode : Nat
  stream : Option Nat
  deriving DecidableEq, Repr

/-- A management stream beyond its register (R526). -/
structure MgmtStream where
  epoch : Nat := 0
  /-- The stream's own CSEQ and DSEQ series (R455, R458, R459). -/
  accepted : Nat := 0
  completed : Nat := 0
  above : List Nat := []
  dseq : Nat := 0
  /-- The port at which the last command arrived. -/
  port : Nat := 0
  deriving DecidableEq, Repr

/-- The host interface beyond its registers. -/
structure HostIf where
  outstanding : List OutCmd := []
  reports : List Report := []
  /-- Completion entries made and not yet written to ring 0 (R458, R467). -/
  completions : List Completion := []
  /-- Completed CSEQs above COMPLETED (R459). -/
  completedAbove : List Nat := []
  timedOut : List LateCmd := []
  streams : Sparse MgmtStream := []
  /-- Entries written since the last signal of each ring vector (R480). -/
  unsignalled : Sparse Nat := []
  dma : Sparse DmaCh := []
  digestSeq : Nat := 0
  digestRunning : Bool := false
  /-- A Function Level Reset is under way (R452). -/
  flr : Bool := false
  /-- The last requester served among the output rings, the PRIO 1 and the PRIO 0 channels (R478). -/
  lastRing : Nat := 0
  lastHigh : Nat := 0
  lastLow : Nat := 0
  /-- Received frames with a place in ring 4, not yet written: entry bytes (R464). -/
  rxStaged : List Bytes := []
  deriving DecidableEq, Repr

/-- A full test of an island in progress (R500): the slice to come, whether it is a retry, slices passed, a slice that
failed, one that ended SKIPPED or INCOMPLETE for good. -/
structure IslTest where
  slice : Nat := 0
  retry : Bool := false
  passed : Nat := 0
  failed : Bool := false
  bad : Bool := false
  ended : Bool := false
  deriving DecidableEq, Repr

/-- A series of logic self-tests (R501): the command it serves, its occasion, its parameters, the islands, and the retry
allowance left in ns (`none`: every slice is retried). -/
structure TestRun where
  cmd : Option CmdRef
  occasion : Nat
  patterns : Nat
  slices : Nat
  islands : List Nat
  allowance : Option Nat
  progress : Sparse IslTest := []
  deriving DecidableEq, Repr

/-- A soft repair of an on-die memory (R507): row or column, the spare, the local row or column. -/
structure Repair where
  isl : Nat
  array : Nat
  sub : Nat
  column : Bool
  spare : Nat
  index : Nat
  deriving DecidableEq, Repr

/-- A calibrated element (R511, R512): the code in force, and the one it moves to. -/
structure CalElem where
  kind : CalKind
  lane : Option Nat
  code : Nat
  target : Nat
  deriving DecidableEq, Repr

/-- The test controller, calibration and monitor beyond their registers (R495 to R515). -/
structure TestCtl where
  run : Option TestRun := none
  repairs : List Repair := []
  badSpares : List BadSpare := []
  /-- Rows of HBM replaced, by the first unit that failed (R508). -/
  hbmRepairs : List Nat := []
  trims : Sparse CalElem := []
  /-- The supply monitor measurement waits for the converter; its guaranteed slot runs until this clock (R513). -/
  deferred : Bool := false
  slot : Option Nat := none
  /-- The clock at the last reading of each thermal sensor (R514). -/
  read : Sparse Nat := []
  deriving DecidableEq, Repr

/-- The fuses (R495, R540): identity, factory trims accepted, security. -/
structure Fuses where
  lot : Nat := 0
  wafer : Nat := 0
  dieX : Nat := 0
  dieY : Nat := 0
  stepping : Nat := 0xB0
  serial : Nat := 0
  signedImages : Bool := false
  signedUpdates : Bool := false
  provisionLock : Bool := false
  rollback : Nat := 0
  deriving DecidableEq, Repr

/-- A copy of the key store in the flash (R537), by what it holds: GEN and the slots. Its bytes are wrapped under a key
that never leaves the device. -/
structure KeyCopy where
  gen : Nat
  slots : Sparse KeySlot
  deriving DecidableEq, Repr

/-- An update session (R522 to R525): the stream it came by, the command that waits for its checks, the package offered
in HBM or the bytes received so far. -/
structure Session where
  stream : Option Nat
  addr : Nat
  len : Nat
  got : Bytes := []
  checked : Bool := false
  deriving DecidableEq, Repr

/-- An activation in progress (R527 to R530): its command; an image change, with the image to be applied. -/
structure Activation where
  cmd : CmdRef
  image : Option Image
  deriving DecidableEq, Repr

/-- The update and security unit beyond its registers. -/
structure Update where
  /-- The last session tag given out (R522). -/
  tag : Nat := 0
  session : Option Session := none
  activation : Option Activation := none
  keyStore : Sparse (Option KeyCopy) := []
  deriving DecidableEq, Repr

/-- The whole state of the block. -/
structure State where
  /-- Commands that wait, first in, first out. -/
  pending : List Instr := []
  /-- The BAR0 registers and windows: those that differ from their reset value, by address (R10, R36). -/
  regs : Sparse Word := []
  /-- Halves of 64-bit pairs held between the two accesses of R13: the HI half latched by a LO read, or a LO half staged for a HI write, by the LO word's address. -/
  latches : Sparse Word := []
  /-- Bits of a register held as RWL by the running image (R73, R74, R75), by address. -/
  locks : Sparse Word := []
  /-- The 48 GiB of HBM: the bytes that differ from what an unlisted address reads as (R429). -/
  hbm : List Host.Cell := []
  /-- The QSPI flash: the bytes that differ from the erased value 0xFF (R516). -/
  flash : List Host.Cell := []
  /-- Ticks of the time unit (4 ns, R158) since the block's start. -/
  clock : Nat := 0
  /-- The MODEL's own counter of free values drawn so far: the index at which the next value the spec leaves open is taken. -/
  fresh : Nat := 0
  /-- What the block has sent out, oldest first. -/
  out : List Output := []
  /-- The 16-entry input queue of the event log at island 0x08 (R546). -/
  logQueue : List LogEntry := []
  /-- The Chief controller: gated islands, Stewards, joint change, start-up (R16 to R67). -/
  chief : Chief := {}
  /-- The configuration loader and what the running image fixed (R68 to R93). -/
  cfg : Cfg := {}
  /-- The serial lanes and stream ports: lock, alignment, deskew, probes, credits (R94 to R118). -/
  links : Lanes := {}
  /-- The eight position axes (R119 to R130). -/
  axes : Sparse Axis := []
  /-- The Reel: tracking loop, ticks, schedulers, captures, lock step (R131 to R157). -/
  reel : Reel := {}
  /-- The time unit and MAC ports: PTP base, slew, comparators, pulse generators, captures, timestamp FIFOs (R158 to R184). -/
  time : TimeUnit := {}
  /-- The Headbox: lines awaited, bursts, partitions, camera frames (R191 to R212). -/
  headbox : Headbox := {}
  /-- The Calenders by channel (R213 to R229). -/
  calender : Sparse CalCh := []
  /-- The active coefficient banks by window address: words that differ from 0x0000_4000 (R214, R224). -/
  coefActive : Sparse Word := []
  /-- The six Ridges: stage-graph contexts, buffers, memory-path frames, labeller, features, rotation (R230 to R291). -/
  ridges : Sparse Ridge := []
  /-- The statistics unit: running frames, finished frames, the statistics FIFO (R318 to R320). -/
  stats : Stats := {}
  /-- The Couch: seam table, classify queue, record FIFO, crops, markers, progress (R292 to R317). -/
  couch : Couch := {}
  /-- The active bank of the decision forest by window address (R305, R306); the window holds the inactive bank. -/
  forestActive : Sparse Word := []
  /-- The 16 key slots (R536). -/
  keys : Sparse KeySlot := []
  /-- The copies of LAYOUT keys that island 0x88 holds, by slot (R536). -/
  layoutKeys : Sparse (Option Nat) := []
  /-- The layout ingress: jobs, queue, streams, results (R322 to R335). -/
  layout : Layout := {}
  /-- The kernel contexts of Ridges 0 to 3 in EXPOSE (R254, R345). -/
  kernels : Sparse KernelCtx := []
  /-- The Mould: the band in progress, its stripe (R343). -/
  mould : Mould := {}
  /-- The active bank of the dose-class table by window address (R340); the window holds the inactive bank. -/
  doseActive : Sparse Word := []
  /-- The Watermark: held bands, stripes, deadlines (R346 to R352). -/
  wm : Watermark := {}
  /-- The Laid: stripe in force, line state, shots, ledger, gap FIFO (R354 to R385). -/
  laid : Laid := {}
  /-- The 48 Blanker Link channels (R368 to R376). -/
  laidChs : Sparse LaidCh := []
  /-- The Vat: the dose of the line in each of the 2,560 banks (R354). -/
  vat : Sparse (List Nat) := []
  /-- The active bank of the Beam Order Table by window address (R361); the window holds the inactive bank. -/
  botActive : Sparse Word := []
  /-- The Scree: measurement cycles, classes, commits (R387 to R405). -/
  scree : Scree := {}
  /-- The Scree's view of the 48 driver channels: exchanges, back-channel buffers, temperatures (R387 to R403). -/
  screeChs : Sparse ScreeCh := []
  /-- The four Ream engines (R406 to R428). -/
  engines : Sparse Engine := []
  /-- The memory subsystem: queues, plan, errors, training (R429 to R449). -/
  mem : Hbm := {}
  /-- The host interface: commands outstanding, completions, ring moderation, DMA channels (R450 to R480). -/
  host : HostIf := {}
  /-- The test controller, repairs, calibration and thermal readings (R498 to R515). -/
  test : TestCtl := {}
  /-- The fuse array (R495, R540). -/
  fuses : Fuses := {}
  /-- The update session, the activation and the key store (R516 to R542). -/
  update : Update := {}
  deriving DecidableEq, Repr

/-- Faults: the reasons for which a step stops. The spec gives every fault of the data a defined effect (R4), so no
meaning raises one of these in a state that a run from reset reaches. -/
inductive Fault where
  /-- Raised by no meaning of this model: the spec names no condition that stops the device. Safe. -/
  | none
  deriving DecidableEq, Repr

/-- Refusals: the reasons for which a command has no meaning. -/
inductive Refusal where
  /-- Raised by `exec` for a command whose meaning is not written yet. Safe: the run stops. -/
  | notModelled (mnemonic : String)
  deriving DecidableEq, Repr

/-- What a meaning answers. -/
abbrev Out := Host.Outcome State Fault Refusal

/-- The device right after a power-on start: time 0 of R58, mode STARTING, phase 1. Every register reads its reset
value, so the register file lists nothing; every table and queue is empty. -/
def State.reset : State := {}

end Sys2Proof.Machine
end

