-- ==== Sys2Proof/Machine/Ops.lean ====
section
/-! DEFINITION. The named operations every chapter's meanings are written over: sparse tables, the register file with
its named fields, the bytes of HBM and of the flash, event-log entries, Cairn events, interrupts and outputs. -/

namespace Sys2Proof.Machine

/-! ### Sparse tables -/

/-- What entry `k` reads as; an unlisted entry reads as `d k`. -/
def Sparse.get {α : Type} (d : Nat → α) : Sparse α → Nat → α
  | [], k => d k
  | (k', v) :: t, k => if k' = k then v else Sparse.get d t k

/-- The table without entry `k`. -/
def Sparse.erase {α : Type} : Sparse α → Nat → Sparse α
  | [], _ => []
  | (k', v) :: t, k => if k' = k then Sparse.erase t k else (k', v) :: Sparse.erase t k

/-- The table with entry `k` listed as `v`, numbers kept rising. -/
def Sparse.insert {α : Type} : Sparse α → Nat → α → Sparse α
  | [], k, v => [(k, v)]
  | (k', v') :: t, k, v =>
    if k < k' then (k, v) :: (k', v') :: t
    else if k' = k then (k, v) :: t
    else (k', v') :: Sparse.insert t k v

/-- The table with entry `k` holding `v`, in canonical form: an entry equal to the unlisted value is not listed. -/
def Sparse.set {α : Type} [DecidableEq α] (d : Nat → α) (m : Sparse α) (k : Nat) (v : α) : Sparse α :=
  if v = d k then Sparse.erase m k else Sparse.insert m k v

/-- Every listed number is above `lo` and the numbers rise strictly. -/
def Sparse.rising {α : Type} : Option Nat → Sparse α → Bool
  | _, [] => true
  | none, (k, _) :: t => Sparse.rising (some k) t
  | some lo, (k, _) :: t => decide (lo < k) && Sparse.rising (some k) t

/-- The canonical form: numbers strictly rising, no entry equal to the unlisted value. -/
def Sparse.wf {α : Type} [DecidableEq α] (d : Nat → α) (m : Sparse α) : Bool :=
  Sparse.rising none m && m.all (fun e => decide (e.2 ≠ d e.1))

/-! ### The register map -/

/-- The row of a block that holds the register at offset `o` of one instance. -/
def RegBlock.rowAt (b : RegBlock) (o : Nat) : Option RegRow := b.rows.find? (fun r => r.off == o)

/-- Where an address falls in a block: its instance and row. -/
def RegBlock.locate (b : RegBlock) (a : Nat) : Option (Nat × RegRow) :=
  if a < b.base then none else
  let o := a - b.base
  let i1 := if b.s1 = 0 then 0 else o / b.s1
  let o1 := if b.s1 = 0 then o else o % b.s1
  let i2 := if b.s2 = 0 then 0 else o1 / b.s2
  let o2 := if b.s2 = 0 then o1 else o1 % b.s2
  if i1 < b.n1 && i2 < b.n2 then (b.rowAt o2).map (fun r => (i1 * b.n2 + i2, r)) else none

/-- The block, instance and row of a register address. -/
def findReg (a : Nat) : List RegBlock → Option (RegBlock × Nat × RegRow)
  | [] => none
  | b :: t => match b.locate a with
    | some (i, r) => some (b, i, r)
    | none => findReg a t

/-- The deciding island of instance `i` of a block (R577). -/
def IslandRule.of (r : IslandRule) (i : Nat) : Nat :=
  if r.per = 0 then r.base else if r.wrap = 0 then r.base + i / r.per else r.base + i / r.per % r.wrap

/-- The default latency target of each HBM port, in ns (R434). -/
def portTargetReset (q : Nat) : Nat :=
  if q < 7 || q = 14 || q = 17 then 4000
  else if q = 7 || q = 8 || q = 15 then 20000
  else if q = 18 then 50000 else 10000

/-- The reset value of a field (the tables' Reset column). -/
def ResetVal.value (isl i a : Nat) : ResetVal → Nat
  | .const n => n
  | .island => isl
  | .markUnit => 4 + i
  | .portTarget => portTargetReset i
  | .msixMask => if a / 4 % 4 = 3 then 1 else 0
  | .alwaysOn => if [0x00, 0x06, 0x08, 0x09, 0x1E, 0x1F, 0xC0].contains i then 1 else 0

/-- The reset value of the register at address `a`; 0 where no register lies (R12). -/
def resetWord (a : Nat) : Word :=
  match findReg a regBlocks with
  | none => 0
  | some (b, i, r) =>
    let isl := r.island.getD (b.island.of i)
    BitVec.ofNat 32 (r.fields.foldl (fun w f => w + f.reset.value isl i a % 2 ^ f.width * 2 ^ f.lo) 0)

/-- The register word at a BAR0 address. -/
def State.reg (s : State) (a : Nat) : Word := Sparse.get resetWord s.regs a

/-- The register word at a BAR0 address set to `w`. -/
def State.setReg (s : State) (a : Nat) (w : Word) : State := { s with regs := Sparse.set resetWord s.regs a w }

/-- A field of a word. -/
def Fld.ofWord (f : Fld) (w : Word) : Nat := bits w.toNat f.lo f.width

/-- A word with one field replaced. -/
def Fld.inWord (f : Fld) (w : Word) (v : Nat) : Word :=
  BitVec.ofNat 32 (w.toNat - bits w.toNat f.lo f.width * 2 ^ f.lo + v % 2 ^ f.width * 2 ^ f.lo)

/-- A named field of instance `i`. -/
def State.rd (s : State) (f : Fld) (i : Nat := 0) : Nat := f.ofWord (s.reg (f.addr i))

/-- A named field of instance `i`, as a flag. -/
def State.flag (s : State) (f : Fld) (i : Nat := 0) : Bool := s.rd f i != 0

/-- The state with a named field of instance `i` set to `v`. -/
def State.wr (s : State) (f : Fld) (i v : Nat) : State :=
  s.setReg (f.addr i) (f.inWord (s.reg (f.addr i)) v)

/-- The state with a one-bit field set. -/
def State.up (s : State) (f : Fld) (i : Nat := 0) : State := s.wr f i 1

/-- The state with a one-bit field cleared. -/
def State.down (s : State) (f : Fld) (i : Nat := 0) : State := s.wr f i 0

/-- A counter advanced by `n`, saturating at the field's largest value (R9, R544). -/
def State.count (s : State) (f : Fld) (i n : Nat) : State := s.wr f i (satAdd f.width (s.rd f i) n)

/-- A counter that wraps, advanced by `n`. -/
def State.advance (s : State) (f : Fld) (i n : Nat) : State := s.wr f i (s.rd f i + n)

/-- The state with a field raised to `v` where it was lower: a peak since the last read. -/
def State.peak (s : State) (f : Fld) (i v : Nat) : State :=
  if s.rd f i < v then s.wr f i (min v (2 ^ f.width - 1)) else s

/-- A 64-bit value held in a LO and a HI field. -/
def State.rd64 (s : State) (lo hi : Fld) (i : Nat := 0) : Nat := s.rd lo i + s.rd hi i * 2 ^ 32

/-- A 64-bit value written to a LO and a HI field. -/
def State.wr64 (s : State) (lo hi : Fld) (i v : Nat) : State := (s.wr lo i v).wr hi i (v / 2 ^ 32)

/-- A signed 64-bit value held in a LO and a HI field. -/
def State.rdI64 (s : State) (lo hi : Fld) (i : Nat := 0) : Int := signed 64 (s.rd64 lo hi i)

/-- A signed 64-bit value written to a LO and a HI field. -/
def State.wrI64 (s : State) (lo hi : Fld) (i : Nat) (v : Int) : State := s.wr64 lo hi i (unsigned 64 v)

/-- The LO half staged for the next HI write of a pair (R13): the value written since the last commit, else the LO in
force. -/
def State.stagedLo (s : State) (lo : Fld) (i : Nat := 0) : Nat :=
  match s.latches.lookup (lo.addr i) with
  | some w => w.toNat
  | none => s.rd lo i

/-- A writable pair committed by its HI write (R13). -/
def State.commitPair (s : State) (lo hi : Fld) (i : Nat) (value : Word) : State :=
  let l := s.stagedLo lo i
  let s := { s with latches := Sparse.erase s.latches (lo.addr i) }
  (s.wr lo i l).wr hi i value.toNat

/-- The 64-bit value a HI write of a pair brings (R13). -/
def State.pairValue (s : State) (lo : Fld) (i : Nat) (value : Word) : Nat := s.stagedLo lo i + value.toNat * 2 ^ 32

/-- A staged LO half used up. -/
def State.dropStaged (s : State) (lo : Fld) (i : Nat := 0) : State :=
  { s with latches := Sparse.erase s.latches (lo.addr i) }

/-- A window word set back to its reset value. -/
def State.clearReg (s : State) (a : Nat) : State := { s with regs := Sparse.erase s.regs a }

/-- Every register from `lo` up to, but not including, `hi` set back to its reset value. -/
def State.resetSpan (s : State) (lo hi : Nat) : State :=
  { s with regs := s.regs.filter (fun e => e.1 < lo || hi ≤ e.1) }

/-! ### Bytes of HBM and of the flash -/

/-- What a byte of HBM that nothing has written reads as. -/
def hbmUnlisted : Nat → Byte := fun _ => 0

/-- The value of an erased flash byte. -/
def flashErased : Nat → Byte := fun _ => 255

/-- One byte of HBM. -/
def State.byte (s : State) (a : Nat) : Byte := Sparse.get hbmUnlisted s.hbm a

/-- HBM with one byte written. -/
def State.setByte (s : State) (a : Nat) (b : Byte) : State := { s with hbm := Sparse.set hbmUnlisted s.hbm a b }

/-- `len` bytes of HBM from `a`. -/
def State.bytes (s : State) (a : Nat) : Nat → Bytes
  | 0 => []
  | n + 1 => s.byte a :: State.bytes s (a + 1) n

/-- The HBM bytes that `keep` names stay; the others lose what was written. -/
def State.keepHbm (s : State) (keep : Nat → Bool) : State := { s with hbm := s.hbm.filter (fun c => keep c.1) }

/-- HBM with a string of bytes written from `a`. -/
def State.setBytes (s : State) (a : Nat) : Bytes → State
  | [] => s
  | b :: t => State.setBytes (s.setByte a b) (a + 1) t

/-- One byte of the flash. -/
def State.flashByte (s : State) (a : Nat) : Byte := Sparse.get flashErased s.flash a

/-- The flash with one byte written. -/
def State.setFlashByte (s : State) (a : Nat) (b : Byte) : State :=
  { s with flash := Sparse.set flashErased s.flash a b }

/-- `len` bytes of the flash from `a`. -/
def State.flashBytes (s : State) (a : Nat) : Nat → Bytes
  | 0 => []
  | n + 1 => s.flashByte a :: State.flashBytes s (a + 1) n

/-- The flash with a string of bytes written from `a`. -/
def State.setFlashBytes (s : State) (a : Nat) : Bytes → State
  | [] => s
  | b :: t => State.setFlashBytes (s.setFlashByte a b) (a + 1) t

/-- The flash with `[lo, hi)` erased. -/
def State.eraseFlash (s : State) (lo hi : Nat) : State :=
  { s with flash := s.flash.filter (fun e => e.1 < lo || hi ≤ e.1) }

/-- The key slots replaced (R536). -/
def State.putKeys (s : State) (k : Sparse KeySlot) : State := { s with keys := k }

/-! ### Free values -/

/-- The next value the spec leaves open, and the state with the draw counted. -/
def State.free (s : State) : Nat × State := (Config.freeValue s.fresh, { s with fresh := s.fresh + 1 })

/-! ### Outputs, events, log entries, interrupts -/

/-- An output that leaves the package: none does while every output is high impedance and every transmitter squelched
(R53, R554). -/
def Output.leaves : Output → Bool
  | .cairn _ _ _ | .activation _ _ _ | .overrun _ _ | .hbmAnswer _ _ _ _ | .dram _ _ _ => false
  | _ => true

/-- The state with one more output. -/
def State.emit (s : State) (o : Output) : State :=
  if s.chief.tristate && o.leaves then s else { s with out := s.out ++ [o] }

/-- An event of producer `p` of generation `g`, sampled at island `isl` (R481, R484). -/
def State.event (s : State) (p g isl : Nat) : State := s.emit (.cairn p (min g 8) isl)

/-- The nanosecond count of the time unit (R158). -/
def State.ns (s : State) : Nat := s.rd F.timeNowHi_value

/-- An entry sent to the event log from island `isl`: it enters the 16-entry input queue, or adds 1 to LOST (R546). -/
def State.log (s : State) (code isl status : Nat) (args : List Nat) : State :=
  if s.logQueue.length < 16 then
    { s with logQueue := s.logQueue ++ [LogEntry.mk code isl status args s.ns] }
  else s.count F.chiefLogLost_count 0 1

/-- The word of MSI-X table entry `v`: 0 address low, 1 address high, 2 data, 3 vector control (R451). -/
def State.msix (s : State) (v w : Nat) : Nat := s.rd F.msixWord_word (4 * v + w)

/-- Vector `v` signalled (R479): a masked vector sets its pending bit; any other sends its message (PCIe 5.0, R480).
In D3hot no message is sent (R451). -/
def State.irq (s : State) (v : Nat) : State :=
  if s.msix v 3 % 2 = 1 || s.flag F.hostStat_d3hot then
    s.wr F.msixPba_pending (v / 32) (s.rd F.msixPba_pending (v / 32) ||| 2 ^ (v % 32))
  else s.emit (.busWrite (s.msix v 0 + s.msix v 1 * 2 ^ 32) (leBytes 4 (s.msix v 2)))

/-- The Chief alert, vector 6 (R479). -/
def State.chiefAlert (s : State) : State := s.irq 6

/-- The mode codes of CHIEF_MODE (R43). -/
def State.mode (s : State) : Nat := s.rd F.chiefMode_mode

/-- CONFIGURE or MAINTAIN: the modes of the CM marks (R14). -/
def State.cmMode (s : State) : Bool := s.mode == 1 || s.mode == 4

/-- The running image serves INSPECT. -/
def State.inspectImage (s : State) : Bool := s.rd F.cfgStat_runMode == 2

/-- The running image serves EXPOSE. -/
def State.exposeImage (s : State) : Bool := s.rd F.cfgStat_runMode == 3

/-- Apply `f` for `k = 0` to `n − 1` in order. -/
def forN (n : Nat) (f : Nat → State → State) (s : State) : State :=
  (List.range n).foldl (fun s k => f k s) s

/-- Apply `f` for each item of a list in order. -/
def forAll {α : Type} (l : List α) (f : α → State → State) (s : State) : State := l.foldl (fun s a => f a s) s

end Sys2Proof.Machine
end

