-- ==== Sys2Proof/Machine/Flags.lean ====
section
/-! DEFINITION. The codes of the spec: host command status codes (R548), access-fault causes (R41), event-log codes
(R547), modes (R43), and the identities of owners (R84). -/

namespace Sys2Proof.Machine

/-! ### Host command status codes (R548) -/
namespace St
def done : Nat := 0x00
def busy : Nat := 0x01
def badArg : Nat := 0x02
def notInMode : Nat := 0x03
def conflict : Nat := 0x04
def authFail : Nat := 0x05
def headerReject : Nat := 0x06
def timeout : Nat := 0x07
def noShrink : Nat := 0x08
def chainLimit : Nat := 0x09
def busError : Nat := 0x0A
def uncorrectable : Nat := 0x0B
def seqGap : Nat := 0x0C
def incomplete : Nat := 0x0D
def thermal : Nat := 0x0E
def loop : Nat := 0x0F
end St

/-! ### Modes (R43, CHIEF_MODE) -/
namespace Md
def recovery : Nat := 0
def configure : Nat := 1
def inspect : Nat := 2
def expose : Nat := 3
def maintain : Nat := 4
def park : Nat := 5
def starting : Nat := 6
def testHold : Nat := 7
end Md

/-! ### Causes of an access fault (R41) -/
namespace Af
def badWidth : Nat := 1
def unmapped : Nat := 2
def gated : Nat := 3
def accessTimeout : Nat := 4
def wrongMode : Nat := 5
def lockedWrite : Nat := 6
def mailboxFull : Nat := 7
def commandOnly : Nat := 8
def conflict : Nat := 9
end Af

/-! ### Owner domains (R84) -/
namespace Dom
def free : Nat := 0
def image : Nat := 1
def hostPcie : Nat := 2
def hostNet : Nat := 3
def chief : Nat := 4
def link : Nat := 5
def motion : Nat := 6
def path : Nat := 7
def memory : Nat := 8
end Dom

/-! ### Event-log codes (R547); codes 1 to 9 are the causes of R41 -/
namespace Ev
def stewardRestart : Nat := 0x10
def stewardHalted : Nat := 0x11
def clkFault : Nat := 0x12
def resetGlitch : Nat := 0x13
def drainCut : Nat := 0x14
def loadError : Nat := 0x15
def startHeld : Nat := 0x16
def lateDone : Nat := 0x17
def ridgeHeld : Nat := 0x20
def memFrameDrop : Nat := 0x21
def spurRetired : Nat := 0x22
def spurSuspect : Nat := 0x23
def paramReject : Nat := 0x24
def timeStep : Nat := 0x30
def reamEcho : Nat := 0x31
def hbmUncorr : Nat := 0x32
def hbmPcDown : Nat := 0x33
def dmaBusError : Nat := 0x34
def loop : Nat := 0x35
def secretsCleared : Nat := 0x40
def secretClearFail : Nat := 0x41
def calRange : Nat := 0x42
def tjAlert : Nat := 0x43
def updateFallback : Nat := 0x44
end Ev

/-! ### Access faults (R41) -/

/-- A fault of a BAR0 access decided at island `isl` (R41): the three access registers, the event log, the Chief
alert. `owner` is the identity that holds the target, for CONFLICT. -/
def State.accessFault (s : State) (cause addr isl : Nat) (write : Bool) (owner : Nat := 0) : State :=
  let s := s.wr F.chiefAccessFault_cause 0 cause
  let s := s.wr F.chiefAccessFault_write 0 (b2n write)
  let s := s.wr F.chiefAccessFault_isl 0 isl
  let s := s.count F.chiefAccessFault_count 0 1
  let s := s.wr F.chiefAccessAddr_addr 0 addr
  let s := s.wr F.chiefAccessOwner_owner 0 (if cause = Af.conflict then owner else 0)
  let s := s.log cause isl (if cause = Af.conflict then St.conflict else 0)
    [addr, if cause = Af.conflict then owner else b2n write]
  s.chiefAlert

/-! ### Owners of resources (R83, R84) -/

/-! First global index of each resource class (R83). -/
namespace Res
def evio : Nat := 0
def timecmp : Nat := 32
def pulse : Nat := 48
def reelsched : Nat := 52
def axis : Nat := 60
def dma : Nat := 68
def cairncol : Nat := 100
def stream : Nat := 260
def hbmreg : Nat := 1284
def count : Nat := 1540
end Res

/-- The owner identity of a resource: domain in [15:12], tag in [11:0] (R84). -/
def State.owner (s : State) (r : Nat) : Nat := s.rd F.cfgOwner_domain r * 4096 + s.rd F.cfgOwner_tag r

/-- The owner domain of a resource. -/
def State.ownerDomain (s : State) (r : Nat) : Nat := s.rd F.cfgOwner_domain r

/-- The resource is held by HOST_PCIE, so a BAR0 write may configure it (R177, R469, R494). -/
def State.hostHolds (s : State) (r : Nat) : Bool := s.ownerDomain r == Dom.hostPcie

/-- The owner word of a resource set. -/
def State.setOwner (s : State) (r id : Nat) (locked : Bool) : State :=
  s.setReg (F.cfgOwner_tag.addr r) (BitVec.ofNat 32 (id % 65536 + b2n locked * 2 ^ 31))

end Sys2Proof.Machine
end

