-- ==== Sys2Proof/Machine/Commands.lean ====
section
/-! DEFINITION. The report of a host command by its owning controller (R457, R458), and the check codes CRC-32C, CRC-16
and CRC-8 that entries and blocks carry. -/

namespace Sys2Proof.Machine

/-- CRC-32C (Castagnoli) of a byte string (R197). -/
def crc32c (bs : Bytes) : Nat := (bs.foldl (crcByteR 0x82F63B78) 0xFFFFFFFF) ^^^ 0xFFFFFFFF

/-- CRC-16 of R149: polynomial x¹⁶ + x¹² + x⁵ + 1, initial value 0xFFFF. -/
def crc16 (bs : Bytes) : Nat := crcL 16 0x1021 0xFFFF bs

/-- CRC-8 of R98: polynomial x⁸ + x² + x + 1, initial value 0. -/
def crc8 (bs : Bytes) : Nat := crcL 8 0x07 0 bs

/-- CRC-64 of R346 (ECMA-182), register starting at `init`. -/
def crc64 (init : Nat) (bs : Bytes) : Nat := crcL 64 0x42F0E1EBA9EA3693 init bs

/-- Adler-32 of RFC 1950 (R418). -/
def adler32 (bs : Bytes) : Nat :=
  let (a, b) := bs.foldl (fun (p : Nat × Nat) x =>
    let a := (p.1 + x.toNat) % 65521
    (a, (p.2 + a) % 65521)) (1, 0)
  b * 65536 + a

/-- The identity a command acts under (R84, R526): HOST_PCIE, or HOST_NET by a management stream. -/
def ownerOf (c : CmdRef) : Nat := if c.stream.isNone then Dom.hostPcie * 4096 else Dom.hostNet * 4096

/-- The stream number of a command. -/
def streamOf (c : CmdRef) : Option Nat := c.stream.map (·.val)

/-- A command of the ring or of a stream by its CSEQ. -/
def OutCmd.is (o : OutCmd) (c : CmdRef) : Bool := o.cseq == c.cseq && o.stream == streamOf c

/-- The outstanding entry of a command. -/
def State.findCmd (s : State) (c : CmdRef) : Option OutCmd := s.host.outstanding.find? (·.is c)

/-- COMPLETED of the ring's or a stream's series (R459). -/
def State.completedOf (s : State) (stream : Option Nat) : Nat :=
  match stream with
  | none => s.rd F.hostCmdCompleted_count
  | some m => (Sparse.get (fun _ => {}) s.host.streams m : MgmtStream).completed

/-- A FENCE command waits until COMPLETED equals its CSEQ − 1 (R456). -/
def State.fenced (s : State) (c : CmdRef) : Bool :=
  (s.findCmd c).any (fun o => o.fence && s.completedOf o.stream != (c.cseq + 2 ^ 32 - 1) % 2 ^ 32)

/-- OUTSTANDING: the completion slots in use (R453). -/
def State.showOutstanding (s : State) : State :=
  s.wr F.hostCmdOutstanding_outstanding 0
    ((s.host.outstanding.filter (·.stream.isNone)).length + (s.host.reports.filter (·.stream.isNone)).length +
      s.host.completions.length)

/-- The owning controller takes a command (R457). -/
def State.takeCmd (s : State) (c : CmdRef) : State :=
  { s with host.outstanding := s.host.outstanding.map (fun o => if o.is c then { o with taken := true } else o) }

/-- A controller reports a command complete (R457, R458): its completion waits to be made. A report that comes after
the command's TIMEOUT is logged as LATE_DONE and goes to no ring. -/
def State.report (s : State) (c : CmdRef) (opcode status info result : Nat) : State :=
  if s.host.timedOut.any (fun t => t.cseq == c.cseq && t.stream == streamOf c) then
    let s := { s with host.timedOut :=
      s.host.timedOut.filter (fun t => !(t.cseq == c.cseq && t.stream == streamOf c)) }
    (s.log Ev.lateDone 0x00 0 [c.cseq, opcode]).chiefAlert
  else
    let intr := (s.findCmd c).any (·.intr)
    let s := { s with
      host.outstanding := s.host.outstanding.filter (fun o => !o.is c)
      host.reports := s.host.reports ++ [Report.mk c.cseq opcode status info result intr true (streamOf c)] }
    s.showOutstanding

/-- A command that completes at once with a status alone. -/
def State.finish (s : State) (c : CmdRef) (opcode status : Nat) (info : Nat := 0) : State :=
  s.report c opcode status info 0

/-- The commands RECOVERY accepts (R533). -/
def recoveryOpcodes : List Nat := [0x00, 0x04, 0x60, 0x61, 0x62, 0x63, 0x68, 0x6A, 0x70]

/-- STATE of a Steward (R40): 0 Link, 1 Motion, 2 Path, 3 Memory. -/
def State.stewardState (s : State) (i : Nat) : Nat := bits (s.reg (F.chiefStewardStat_linkState.addr 0)).toNat (8 * i) 2

/-- A Steward whose restarts were used up (R19). -/
def State.stewardHalted (s : State) (i : Nat) : Bool := s.stewardState i == 2

/-- A command taken by its controller: not while a FENCE holds it (R456); in RECOVERY the commands R533 does not list
complete with NOT_IN_MODE. -/
def State.command (s : State) (c : CmdRef) (opcode : Nat) (act : State → State) : State :=
  if s.fenced c then s
  else if s.mode == Md.recovery && !recoveryOpcodes.contains opcode then s.finish c opcode St.notInMode
  else act s

/-- A command that a Steward owns: while the Steward is halted it completes with TIMEOUT (R19, R457). -/
def State.stewardCommand (s : State) (c : CmdRef) (opcode steward : Nat) (act : State → State) : State :=
  s.command c opcode (fun s => if s.stewardHalted steward then s.finish c opcode St.timeout else act s)

end Sys2Proof.Machine
end

