-- ==== Sys2Proof/Machine/Cairn.lean ====
section
/-! DEFINITION. Cairn event routing: the enable matrix, generations and loops, merges, overruns, column ownership and
the EVIO pins (R481 to R494). -/

namespace Sys2Proof.Machine

/-- A consumer number with an input behind it (R483). -/
def consumerAssigned (c : Nat) : Bool :=
  c < 76 || (80 ≤ c && c < 100) || (112 ≤ c && c < 120) || c == 128 || c == 129 || c == 132 || c == 133 ||
    (144 ≤ c && c < 160)

/-- The enable bit E(p, c) (R481). -/
def State.cairnEnabled (s : State) (p c : Nat) : Bool := bit (s.rd F.cairnMatrix_word (8 * c + p / 32)) (p % 32)

/-- The assigned consumers an event of producer `p` activates. -/
def State.cairnTargets (s : State) (p : Nat) : List Nat :=
  (List.range 160).filter (fun c => consumerAssigned c && s.cairnEnabled p c)

/-- An event of generation 8: dropped, and recorded where it would have activated a consumer (R485). -/
def State.cairnLoop (s : State) (e : CairnEvt) : State :=
  let p := e.producer.val
  if (s.cairnTargets p).isEmpty then s else
  let s := s.up F.cairnStat_loop
  let s := s.wr F.cairnLoop_producer 0 p
  let s := s.wr F.cairnLoop_isl 0 e.isl.toNat
  let s := s.count F.cairnLoop_loopCount 0 1
  let f := F.cairnLoopSrc_src (p / 32)
  let s := s.wr f 0 (s.rd f ||| 2 ^ (p % 32))
  let s := s.log Ev.loop 0x05 St.loop [p, e.isl.toNat]
  s.chiefAlert

/-- The events of one Cairn edge that reach consumer `c`, as one activation of the greatest generation; the events
beyond the first are counted as merged (R484, R487). -/
def State.cairnActivate (s : State) (evs : List CairnEvt) (c : Nat) : State :=
  match evs.filter (fun e => s.cairnEnabled e.producer.val c) with
  | [] => s
  | e :: rest =>
    let g := rest.foldl (fun g x => max g x.gen.val) e.gen.val
    let s := if rest.isEmpty then s else
      let s := s.count F.cairnMergedCount_mergedCount 0 rest.length
      let s := s.wr F.cairnMergedLast_consumer 0 c
      s.wr F.cairnMergedLast_isl 0 0x05
    s.emit (.activation c g e.isl.toNat)

/-- CAIRN_EVENT (R481, R485, R487): the events usable on one Cairn edge are evaluated together, with the enable bits
as they stand. -/
def execCairnEvent (events : List CairnEvt) (s : State) : Out :=
  let routed := events.filter (fun e => e.gen.val < 8)
  let s := forAll (events.filter (fun e => e.gen.val == 8)) (fun e s => s.cairnLoop e) s
  .next (forAll ((List.range 160).filter consumerAssigned) (fun c s => s.cairnActivate routed c) s)

/-- CAIRN_OVERRUN_REPORT (R488). -/
def execCairnOverrunReport (consumer : Fin 160) (isl : BitVec 8) (s : State) : Out :=
  let c := consumer.val
  let f := F.cairnOvr_ovr (c / 32)
  let s := s.wr f 0 (s.rd f ||| 2 ^ (c % 32))
  let s := s.up F.cairnStat_ovrAny
  let s := s.wr F.cairnOvrLast_consumer 0 c
  let s := s.wr F.cairnOvrLast_isl 0 isl.toNat
  .next (s.count F.cairnOvrLast_ovrCount 0 1)

/-- A write of one word of a column by a writer of the given domain and attribute (R489, R491): it takes effect when
both match the column's; else it is discarded and logged as CONFLICT. Word 7, owner and attribute, is read-only. -/
def State.cairnWrite (s : State) (domain : Nat) (secure : Bool) (c w : Nat) (value : Word) : State :=
  let a := F.cairnMatrix_word.addr (8 * c + w)
  if w = 7 then s else
  let own := s.rd F.cairnMatrix_word (8 * c + 7)
  if own % 16 ≠ 0 && own % 16 == domain && bit own 4 == secure then s.setReg a value
  else s.accessFault Af.conflict a 0x05 true (s.owner (Res.cairncol + c))

/-- CAIRN_ENABLE_WRITE (R489, R491). -/
def execCairnEnableWrite (domain : Fin 16) (secure : Bool) (column : Fin 160) (word : Fin 8) (value : Word)
    (s : State) : Out :=
  .next (s.cairnWrite domain.val secure column.val word.val value)

/-- CAIRN_IRQ_CONSUMER (R483): consumers 144 to 151 signal vectors 40 to 47, and add nothing to a pending vector;
a controller input takes the activation, and the spec gives it no effect on the block. -/
def execCairnIrqConsumer (consumer : Fin 160) (s : State) : Out :=
  let c := consumer.val
  if 144 ≤ c && c < 152 then
    let v := 40 + (c - 144)
    if bit (s.rd F.msixPba_pending (v / 32)) (v % 32) then .next s else .next (s.irq v)
  else .next s

/-- A consumer that was busy at an activation: its report starts back to Cairn (R488). -/
def State.overrun (s : State) (c isl : Nat) : State := s.emit (.overrun c isl)

/-- The function of EVIO pin `i` (R492); 0 unused. -/
def State.evioFn (s : State) (i : Nat) : PinFn := Sparse.get (fun _ => ⟨0, 0⟩) s.cfg.pins i

/-- The modes in which EVIO outputs act: INSPECT, EXPOSE, MAINTAIN (R494). -/
def State.evioActs (s : State) : Bool := s.mode == Md.inspect || s.mode == Md.expose || s.mode == Md.maintain

/-- The level at the ball of output pin `i` in a state (R494): POLARITY gives the logical level, options bit 0 inverts
it; an open-drain pin releases the net for a high. -/
def State.evioBall (s : State) (i : Nat) (active : Bool) : Option Bool :=
  let fn := s.evioFn i
  let pol := if 0x10 ≤ fn.func then s.flag F.pulseCtl_polarity (fn.func - 0x10) else s.flag F.cairnEvioOut_polarity i
  let lvl := (active != pol) != bit fn.opts 0
  if fn.func == 0x03 && lvl then none else some lvl

/-- EVIO output `i` put in its active or idle state. -/
def State.evioSet (s : State) (i : Nat) (active : Bool) : State :=
  let s := s.wr F.cairnEvioOut_level i (b2n active)
  s.emit (.evio i (s.evioBall i active))

/-- EVIO_INPUT_EDGE (R493): the filtered level changes, and the selected edge raises producer 192 + i. -/
def execEvioInputEdge (pin : Fin 32) (level : Bool) (s : State) : Out :=
  let i := pin.val
  if (s.evioFn i).func ≠ 0x01 || s.flag F.cairnEvioIn_level i == level then .next s else
  let s := s.wr F.cairnEvioIn_level i (b2n level)
  let e := s.rd F.cairnEvioIn_edge i
  if e == 2 || (e == 1 && !level) || ((e == 0 || e == 3) && level) then .next (s.event (192 + i) 0 0x05)
  else .next s

/-- EVIO_OUT_ACTIVATE (R492, R494): an activation of consumer i. A pin that is no output, and any pin outside INSPECT,
EXPOSE and MAINTAIN, ignores it; a running pulse is an overrun (R488). -/
def execEvioOutActivate (pin : Fin 32) (s : State) : Out :=
  let i := pin.val
  let fn := (s.evioFn i).func
  if !(fn == 0x02 || fn == 0x03) || !s.evioActs then .next s else
  if s.flag F.cairnEvioOut_busy i then .next (s.overrun i 0x05) else
  match s.rd F.cairnEvioOut_mode i with
  | 0 => .next ((s.up F.cairnEvioOut_busy i).evioSet i true)
  | 1 => .next (s.evioSet i (!s.flag F.cairnEvioOut_level i))
  | 2 => .next (s.evioSet i true)
  | _ => .next (s.evioSet i false)

/-- A running pulse of EVIO output `i` ended (R494). -/
def State.evioEndPulse (s : State) (i : Nat) : State :=
  if s.flag F.cairnEvioOut_busy i then (s.down F.cairnEvioOut_busy i).evioSet i false else s

/-- EVIO_PULSE_END (R494): WIDTH_NS after its start a pulse goes idle. -/
def execEvioPulseEnd (pin : Fin 32) (s : State) : Out := .next (s.evioEndPulse pin.val)

/-- Every EVIO output in its idle state: on entry into a mode in which they act, and on leaving one (R494). -/
def State.evioIdleAll (s : State) : State :=
  forN 32 (fun i s =>
    let fn := (s.evioFn i).func
    if fn == 0x02 || fn == 0x03 then (s.down F.cairnEvioOut_busy i).evioSet i false else s) s

/-- A write to the configuration of EVIO output `i` by the host (R177, R494): a pin it does not hold sets DENIED and
is a CONFLICT; a change of MODE ends a running pulse; a POLARITY change acts at once. -/
def State.evioOutWrite (s : State) (i : Nat) (w : Word) : State :=
  let a := F.cairnEvioOut_mode.addr i
  if !s.hostHolds (Res.evio + i) then
    (s.up F.cairnEvioOut_denied i).accessFault Af.conflict a 0x05 true (s.owner (Res.evio + i))
  else
    let mode := bits w.toNat 0 2
    let s := if mode ≠ s.rd F.cairnEvioOut_mode i then s.evioEndPulse i else s
    let s := s.wr F.cairnEvioOut_mode i mode
    let s := if bit w.toNat 4 then s.down F.cairnEvioOut_denied i else s
    let p := bits w.toNat 2 1
    if p ≠ s.rd F.cairnEvioOut_polarity i then
      let s := s.wr F.cairnEvioOut_polarity i p
      if (s.evioFn i).func == 0x02 || (s.evioFn i).func == 0x03 then
        s.emit (.evio i (s.evioBall i (s.flag F.cairnEvioOut_level i)))
      else s
    else s

end Sys2Proof.Machine
end

