-- ==== Sys2Proof/Machine/EventLog.lean ====
section
/-! DEFINITION. The device event log (R545, R546): the entry at the head of the input queue is written. -/

namespace Sys2Proof.Machine

/-- The 32 bytes of an entry (R545). -/
def LogEntry.bytes (e : LogEntry) (seq : Nat) : Bytes :=
  let body := leBytes 4 seq ++ leBytes 4 e.ns ++ leBytes 2 e.code ++ leBytes 1 e.isl ++ leBytes 1 e.status ++
    leBytes 4 (e.args.getD 0 0) ++ leBytes 4 (e.args.getD 1 0) ++ leBytes 4 (e.args.getD 2 0) ++
    leBytes 4 (e.args.getD 3 0)
  body ++ leBytes 4 (crc32c body)

/-- A window of registers set from a byte string, four bytes a word, lowest byte first. -/
def State.setWords (s : State) (a : Nat) (bs : Bytes) : State :=
  forN (bs.length / 4) (fun w s => s.setReg (a + 4 * w) (BitVec.ofNat 32 (leAt bs (4 * w) 4))) s

/-- EVENT_LOG_ENTRY (R545, R546). -/
def execEventLogEntry (s : State) : Out :=
  match s.logQueue with
  | [] => .next s
  | e :: rest =>
    let seq := s.rd F.chiefLogNext_logSeq
    let i := seq % 1024
    let a := F.evlogWord_word.addr (8 * i)
    -- an index already written holds an entry of 1,024 entries ago
    let full := decide (s.regs.any (fun c => decide (a ≤ c.1 ∧ c.1 < a + 32)))
    let s := if full then s.count F.chiefLogOverflow_count 0 1 else s
    let s := s.setWords a (e.bytes seq)
    let s := s.wr F.chiefLogNext_logSeq 0 (seq + 1)
    .next { s with logQueue := rest }

end Sys2Proof.Machine
end

