-- ==== Sys2Proof/Machine/Hbm.lean ====
section
/-! DEFINITION. The in-package memory (R429 to R449): address mapping, plan, requests and scheduling, errors and their
log, patrol scrub, refresh, self-refresh, speed points and training, and the BAR2 window (R431). -/

namespace Sys2Proof.Machine

/-! ### Address mapping (R430) -/

/-- The pseudo-channel of an HBM byte address. -/
def hbmPc (a : Nat) : Nat := bits a 8 6 ^^^ bits a 20 6

/-- The local address within the pseudo-channel. -/
def hbmLocal (a : Nat) : Nat := a / 2 ^ 14 * 256 + a % 256

/-- Byte within the row. -/
def hbmCol (a : Nat) : Nat := bits (hbmLocal a) 0 10

/-- Bank group, bank in the group, row, stack ID. -/
def hbmBg (a : Nat) : Nat := bits (hbmLocal a) 10 2 ^^^ bits (hbmLocal a) 14 2
def hbmBk (a : Nat) : Nat := bits (hbmLocal a) 12 2 ^^^ bits (hbmLocal a) 16 2
def hbmRow (a : Nat) : Nat := bits (hbmLocal a) 14 14
def hbmSid (a : Nat) : Nat := hbmLocal a / 2 ^ 28

/-- The bank of 48: stack ID, bank group, bank. -/
def hbmBank (a : Nat) : Nat := hbmSid a * 16 + hbmBg a * 4 + hbmBk a

/-- The first byte of the 64-byte unit of an address. -/
def hbmUnit (a : Nat) : Nat := a / 64 * 64

/-- The units that `len` bytes from `a` touch. -/
def hbmUnits (a len : Nat) : List Nat :=
  if len = 0 then [] else
    (List.range ((a + len - 1) / 64 - a / 64 + 1)).map (fun k => hbmUnit a + 64 * k)

/-! ### Pseudo-channels -/

/-- A pseudo-channel's queues and timers. -/
def State.pcs (s : State) (p : Nat) : Pc := Sparse.get (fun _ => {}) s.mem.pcs p

/-- The state with a pseudo-channel replaced. -/
def State.setPc (s : State) (p : Nat) (c : Pc) : State :=
  let s := { s with mem.pcs := Sparse.set (fun _ => {}) s.mem.pcs p c }
  let s := s.wr F.hbmPcStat_readQ p (min c.reads.length 127)
  let s := s.wr F.hbmPcStat_writeQ p (min c.writes.length 127)
  let s := s.wr F.hbmPcStat_inOrder p (b2n (!c.inOrder.isEmpty))
  if 48 ≤ c.reads.length || 48 ≤ c.writes.length then s.up F.hbmPcStat_hwm p else s

/-- STATE of HBM_PC_STAT: 0 ACTIVE, 1 ENTERING, 2 SELF_REFRESH, 3 EXITING, 4 DOWN. -/
def State.pcState (s : State) (p : Nat) : Nat := s.rd F.hbmPcStat_state p

/-- The unit's data come back with an error: its code cannot be corrected, or its pseudo-channel is DOWN. -/
def State.unitBad (s : State) (u : Nat) : Bool := s.mem.bad.contains u || s.pcState (hbmPc u) == 4

/-- No unit's data come back with an error. -/
def State.noneBad (s : State) : Bool := s.mem.bad.isEmpty && (List.range 64).all (fun p => s.pcState p != 4)

/-- A unit whose code cannot be corrected until it is wholly written (R439). -/
def State.markBad (s : State) (u : Nat) : State :=
  if s.mem.bad.contains u then s else { s with mem.bad := s.mem.bad ++ [u] }

/-- A whole write clears the error of a unit (R439). -/
def State.markGood (s : State) (u : Nat) : State := { s with mem.bad := s.mem.bad.filter (· != u) }

/-! ### The error log (R441) -/

/-! KIND codes of an error-log entry. -/
namespace Ek
def corr : Nat := 1
def uncorr : Nat := 2
def caFail : Nat := 3
def wdqFail : Nat := 4
def scrubCorr : Nat := 5
def scrubUncorr : Nat := 6
end Ek

/-- Entry `i` of the error log was written, and holds this unit. -/
def State.errLogHolds (s : State) (unit i : Nat) : Bool :=
  s.rd F.hbmLogWord_word (4 * i + 2) != 0 && s.rd F.hbmLogWord_word (4 * i + 1) == unit / 64

/-- A new entry of the error log (R441). -/
def State.errLogNew (s : State) (kind unit port : Nat) (errBit : Option Nat) : State :=
  let i := s.rd F.hbmLogStat_next
  let pc := hbmPc unit
  let s := if s.flag F.hbmLogStat_wrapped then s.count F.hbmLogStat_overflow 0 1 else s
  let s := s.wr F.hbmLogWord_word (4 * i) s.ns
  let s := s.wr F.hbmLogWord_word (4 * i + 1) (unit / 64)
  let place := pc + (errBit.getD 0) * 64 + (if errBit.isSome then 2 ^ 15 else 0)
  let s := s.wr F.hbmLogWord_word (4 * i + 2) (kind + port * 2 ^ 8 + place * 2 ^ 16)
  let s := s.wr F.hbmLogWord_word (4 * i + 3) (1 + (0xB0 + pc / 4) * 2 ^ 16)
  let s := if i = 63 then s.up F.hbmLogStat_wrapped else s
  s.wr F.hbmLogStat_next 0 (i + 1)

/-- A corrected error: COUNT of the unit's entry, or a new entry (R441). -/
def State.errLogCorrected (s : State) (kind unit port errBit : Nat) : State :=
  match (List.range 64).find? (s.errLogHolds unit) with
  | some i =>
    let w := s.rd F.hbmLogWord_word (4 * i + 3)
    s.wr F.hbmLogWord_word (4 * i + 3) (w / 2 ^ 16 * 2 ^ 16 + satAdd 16 (w % 2 ^ 16) 1)
  | none => s.errLogNew kind unit port (some errBit)

/-- An uncorrectable error of a unit: the log, and an event-log entry with the unit and the port (R441). -/
def State.errLogUncorr (s : State) (kind unit port : Nat) : State :=
  let s := s.errLogNew kind unit port none
  s.log Ev.hbmUncorr (0xB0 + hbmPc unit / 4) St.uncorrectable [unit / 64, port]

/-- A read or merge that returned UNCORRECTABLE (R439). -/
def State.uncorrected (s : State) (unit port : Nat) : State :=
  let s := s.count (F.hbmCnt_count 1) 0 1
  let s := s.count F.hbmPcUncorr_uncorr (hbmPc unit) 1
  s.errLogUncorr Ek.uncorr unit port

/-! ### Accesses made in one step by an engine -/

/-- Bytes read by an engine through a port: `none` when a unit returns UNCORRECTABLE (R439). -/
def State.readMem (s : State) (a len : Nat) : Option Bytes :=
  if s.noneBad || !(hbmUnits a len).any s.unitBad then some (s.bytes a len) else none

/-- The record of a failed read: the first unit in error counts and is logged. -/
def State.readFailed (s : State) (port a len : Nat) : State :=
  match (hbmUnits a len).find? s.unitBad with
  | some u => s.uncorrected u port
  | none => s

/-- Units of a range that a write covers only in part and that cannot be merged (R439). -/
def State.mergeFails (s : State) (a len : Nat) : Option Nat :=
  if s.noneBad then none else
  (hbmUnits a len).find? (fun u => s.unitBad u && !(decide (a ≤ u) && decide (u + 64 ≤ a + len) && s.pcState (hbmPc u) != 4))

/-- Bytes written by an engine through a port, a partial unit in error refused (R439): `false` when one was. -/
def State.writeMem (s : State) (port a : Nat) (bs : Bytes) : State × Bool :=
  match s.mergeFails a bs.length with
  | some u => (s.uncorrected u port, false)
  | none =>
    let s := (hbmUnits a bs.length).foldl (fun s u => s.markGood u) s
    (s.setBytes a bs, true)

/-- As `writeMem`, for writers that have no use of the response. -/
def State.store (s : State) (port a : Nat) (bs : Bytes) : State := (s.writeMem port a bs).1

/-! ### The plan (R432) -/

/-- The first region of a kind. -/
def State.region (s : State) (kind : Nat) : Option Region := s.mem.plan.find? (fun r => r.kind == kind)

/-- A range lies wholly in a region. -/
def Region.holds (r : Region) (a len : Nat) : Bool := r.base ≤ a && a + len ≤ r.base + r.size

/-- A range meets a region whose HOST_WRITE flag is 0. -/
def State.writeProtected (s : State) (a len : Nat) : Bool :=
  s.mem.plan.any (fun r => !r.hostWrite && a < r.base + r.size && r.base < a + len)

/-- A range lies in the region of a kind. -/
def State.inRegion (s : State) (kind a len : Nat) : Bool :=
  s.mem.plan.any (fun r => r.kind == kind && r.holds a len)

/-! ### Requests (R435, R437, R445) -/

/-- Units of a port outstanding at a controller: its spent flit credits (R435). -/
def State.portInFlight (s : State) (port ctrl : Nat) : Nat :=
  ([0, 1, 2, 3].map (fun k =>
    let c := s.pcs (4 * ctrl + k)
    ((c.reads ++ c.writes ++ c.issued).filter (fun r => r.port == port)).length)).foldl (· + ·) 0

/-- A request of one unit arrives at its pseudo-channel: contents follow arrival order (R435, R437); a read behind a
write of its row puts the bank into IN_ORDER; an entry into self-refresh is abandoned, or an exit starts (R445). -/
def State.arrive (s : State) (r : HbmReq) : State :=
  let p := hbmPc r.unit
  if s.pcState p == 4 then
    s.emit (.hbmAnswer r.port r.unit [] true)
  else
    let partialUnit := r.data.length != 64
    let (s, r) :=
      if r.write then
        if partialUnit && s.mem.bad.contains r.unit then (s, { r with refused := true })
        else ((s.markGood r.unit).setBytes (r.unit + r.off) r.data, r)
      else (s, { r with data := s.bytes (r.unit + r.off) r.data.length })
    let c := s.pcs p
    let bank := hbmBank r.unit
    let clash := !r.write && c.writes.any (fun w => hbmBank w.unit == bank && hbmRow w.unit == hbmRow r.unit)
    let (s, c) :=
      if clash && !c.inOrder.contains bank then
        (s.count (F.hbmCnt_count 8) 0 1, { c with inOrder := c.inOrder ++ [bank] })
      else (s, c)
    let c := if r.write then { c with writes := c.writes ++ [r] } else { c with reads := c.reads ++ [r] }
    let s := s.setPc p c
    match s.pcState p with
    | 1 => (s.wr F.hbmPcStat_state p 0).count (F.hbmCnt_count 7) 0 1
    | 2 => s.wr F.hbmPcStat_state p 3
    | _ => s

/-- HBM_REQUEST (R435): `len` bytes from `addr`, in units. A port without a flit credit at a controller waits; a queue
of 64 units takes no more. -/
def execHbmRequest (port : Fin 19) (addr : Nat) (write : Bool) (data : Bytes) (len : Nat) (s : State) : Out :=
  let n := if write then data.length else len
  if Config.hbmBytes < addr + n then .next s else
  let us := hbmUnits addr n
  let fits (u : Nat) : Bool :=
    s.portInFlight port.val (hbmPc u / 4) < 32 &&
      (if write then (s.pcs (hbmPc u)).writes.length < 64 else (s.pcs (hbmPc u)).reads.length < 64)
  if !us.all fits then .next s else
  .next (us.foldl (fun s u =>
    let lo := max addr u
    let hi := min (addr + n) (u + 64)
    s.arrive { port := port.val, unit := u, write := write, off := lo - u,
               data := if write then sub data (lo - addr) (hi - lo) else zeros (hi - lo),
               arrived := s.clock, late := false, refused := false }) s)

/-! ### Scheduling (R436) -/

/-- A request's urgency: 0 to 3 with the time since its arrival against its port's target, at 4 ns a tick. -/
def State.urgency (s : State) (r : HbmReq) : Nat :=
  let age := 4 * (s.clock - r.arrived)
  let t := max 500 (s.rd F.hbmPortTarget_targetNs r.port)
  if t ≤ age then 3 else if 3 * t ≤ 4 * age then 2 else if t ≤ 2 * age then 1 else 0

/-- Requests that reach urgency 3 count once in LATE. -/
def State.countLate (s : State) (p : Nat) : State :=
  let c := s.pcs p
  let due (r : HbmReq) : Bool := !r.late && s.urgency r == 3
  let s' := ((c.reads ++ c.writes).filter due).foldl (fun s r => s.count F.hbmPortStat_late r.port 1) s
  let mark (r : HbmReq) : HbmReq := if due r then { r with late := true } else r
  s'.setPc p { c with reads := c.reads.map mark, writes := c.writes.map mark }

/-- The heads of the bank lists that may issue: reads outside a drain, writes within one, and of a bank in IN_ORDER
the oldest of both (R436, R437). -/
def Pc.heads (c : Pc) : List HbmReq :=
  let older (a b : HbmReq) : Bool := a.arrived ≤ b.arrived
  (List.range 48).filterMap (fun b =>
    let rs := c.reads.filter (fun r => hbmBank r.unit == b)
    let ws := c.writes.filter (fun r => hbmBank r.unit == b)
    if c.inOrder.contains b then
      match rs.head?, ws.head? with
      | some r, some w => some (if older w r then w else r)
      | some r, none => some r
      | none, w => w
    else if c.drain then ws.head? else rs.head?)

/-- The pick among the heads (R436): highest urgency, then an open-row hit within 16 in a row, then the bank after the
last activated in rotating order. -/
def State.pickReq (s : State) (c : Pc) : Option HbmReq :=
  let hs := c.heads
  let top := hs.foldl (fun m r => max m (s.urgency r)) 0
  let best := hs.filter (fun r => s.urgency r == top)
  let isHit (r : HbmReq) : Bool := Sparse.get (fun _ => 0) c.openRow (hbmBank r.unit) == hbmRow r.unit + 1
  let othersWait (r : HbmReq) : Bool := hs.any (fun q => hbmBank q.unit != hbmBank r.unit && 1 ≤ s.urgency q)
  match best.find? (fun r => isHit r && !(16 ≤ c.hits && othersWait r)) with
  | some r => some r
  | none =>
    let rank (r : HbmReq) : Nat := (hbmBank r.unit + 47 - c.lastBank) % 48
    best.foldl (fun (m : Option HbmReq) r =>
      match m with
      | none => some r
      | some q => if rank r < rank q then some r else some q) none

/-- HBM_COMMAND_SLOT (R436, R437, R444): a pseudo-channel entering self-refresh issues SRE; an active one counts
late requests, starts or ends a write drain, picks a request and issues it. -/
def execHbmCommandSlot (pc : Fin 64) (s : State) : Out :=
  let p := pc.val
  match s.pcState p with
  | 1 =>
    let s := s.wr F.hbmPcStat_state p 2
    .next (s.count (F.hbmCnt_count 6) 0 1)
  | 0 =>
    let s := s.countLate p
    let c := s.pcs p
    let start := 32 ≤ c.writes.length || c.writes.any (fun w => 2 ≤ s.urgency w)
    let stop := c.writes.length ≤ 8 || c.reads.any (fun r => s.urgency r == 3)
    let c := { c with drain := if c.drain then !stop else start }
    match s.pickReq c with
    | none => .next (s.setPc p c)
    | some r =>
      let b := hbmBank r.unit
      let hit := Sparse.get (fun _ => 0) c.openRow b == hbmRow r.unit + 1
      let c := if hit then { c with hits := c.hits + 1 } else
        { c with openRow := Sparse.set (fun _ => 0) c.openRow b (hbmRow r.unit + 1), lastBank := b, hits := 0 }
      let c := { c with reads := c.reads.erase r, writes := c.writes.erase r, issued := c.issued ++ [r] }
      -- IN_ORDER ends when no queued read of the bank is younger than a row-matching write
      let stays := c.reads.any (fun x => hbmBank x.unit == b &&
        c.writes.any (fun w => hbmBank w.unit == b && hbmRow w.unit == hbmRow x.unit && w.arrived ≤ x.arrived))
      let c := if stays then c else { c with inOrder := c.inOrder.filter (· != b) }
      .next ((s.setPc p c).emit (.dram p b (if r.write then 1 else 0)))
  | _ => .next s

/-- HBM_RESPONSE (R438, R439): the oldest issued request of the pseudo-channel ends. -/
def execHbmResponse (pc : Fin 64) (outcome : UnitOutcome) (s : State) : Out :=
  let p := pc.val
  let c := s.pcs p
  match c.issued with
  | [] => .next s
  | r :: rest =>
    let s := s.setPc p { c with issued := rest, replay := false }
    let us := (4 * (s.clock - r.arrived) + 999) / 1000
    let s := s.peak F.hbmPortStat_peakUs r.port us
    if r.refused || (!r.write && s.mem.bad.contains r.unit) then
      .next ((s.uncorrected r.unit r.port).emit (.hbmAnswer r.port r.unit [] true))
    else
      match outcome with
      | .ok => .next (s.emit (.hbmAnswer r.port r.unit r.data false))
      | .corrected b =>
        let s := s.count (F.hbmCnt_count 0) 0 1
        let s := s.errLogCorrected Ek.corr r.unit r.port (b % 512)
        .next (s.emit (.hbmAnswer r.port r.unit r.data false))
      | .dramCorrected =>
        .next ((s.count (F.hbmCnt_count 2) 0 1).emit (.hbmAnswer r.port r.unit r.data false))
      | .uncorrectable =>
        -- a write that covers a whole unit reads nothing, so nothing of it can fail to be corrected
        if r.write && r.data.length == 64 then .next (s.emit (.hbmAnswer r.port r.unit r.data false)) else
        -- a write of the whole unit that follows clears the error
        let later := (rest ++ c.writes).any (fun w => w.write && w.unit == r.unit && w.data.length == 64)
        let s := if later then s else s.markBad r.unit
        .next ((s.uncorrected r.unit r.port).emit (.hbmAnswer r.port r.unit [] true))

/-- `n` bytes the spec leaves undefined, from `a` (R440, R581). -/
def State.scramble (s : State) (a : Nat) : Nat → State
  | 0 => s
  | n + 1 =>
    let (v, s) := s.free
    State.scramble (s.setByte a (BitVec.ofNat 8 v)) (a + 1) n

/-- HBM_PARITY_ALERT (R440): the first replays the affected commands; a second on the replay ends them with
UNCORRECTABLE, and leaves the units of ended writes undefined. -/
def execHbmParityAlert (pc : Fin 64) (kind : ParityKind) (s : State) : Out :=
  let p := pc.val
  let c := s.pcs p
  if !c.replay then
    let s := s.setPc p { c with replay := true }
    .next (s.count (F.hbmCnt_count 3) 0 1)
  else
    let hit (r : HbmReq) : Bool := match kind with | .commandAddress => true | .writeData => r.write
    let ek := match kind with | .commandAddress => Ek.caFail | .writeData => Ek.wdqFail
    let s := s.setPc p { c with replay := false, issued := c.issued.filter (fun r => !hit r) }
    .next ((c.issued.filter hit).foldl (fun s r =>
      let s := s.count (F.hbmCnt_count 1) 0 1
      let s := s.count F.hbmPcUncorr_uncorr p 1
      let s := s.errLogUncorr ek r.unit r.port
      let s := if r.write then s.scramble r.unit 64 else s
      s.emit (.hbmAnswer r.port r.unit [] true)) s)

/-! ### Patrol scrub (R442) -/

/-- Rows of a pseudo-channel: 48 banks of 16,384. -/
def scrubRows : Nat := 786432

/-- PASSES and PERMILLE from the rows every pseudo-channel has scrubbed. -/
def State.showScrub (s : State) : State :=
  let rows := (List.range 64).map (fun p => (s.pcs p).scrubRow)
  let pass := (rows.foldl (fun m r => min m (r / scrubRows)) (rows.headD 0 / scrubRows))
  let sum := rows.foldl (fun t r => t + min (r - pass * scrubRows) scrubRows) 0
  let s := s.wr F.hbmScrubStat_passes 0 (min pass 65535)
  s.wr F.hbmScrubStat_permille 0 (min (sum * 1000 / (64 * scrubRows)) 999)

/-- HBM_SCRUB_ROW (R441, R442): the next row of a pseudo-channel, with the errors found in it. A pseudo-channel that
holds a foreground request defers it, unless its deferral has expired; in self-refresh the scrub pauses. -/
def execHbmScrubRow (pc : Fin 64) (found : List (Nat × UnitOutcome)) (s : State) : Out :=
  let p := pc.val
  let c := s.pcs p
  if s.pcState p != 0 then .next s else
  let busy := !c.reads.isEmpty || !c.writes.isEmpty
  if busy && !c.scrubDue then .next (s.setPc p { c with scrubDeferred := true }) else
  let s := s.setPc p { c with scrubRow := c.scrubRow + 1, scrubDeferred := false, scrubDue := false }
  let s := found.foldl (fun s (e : Nat × UnitOutcome) =>
    let u := hbmUnit e.1
    match e.2 with
    | .corrected b => (s.count (F.hbmCnt_count 4) 0 1).errLogCorrected Ek.scrubCorr u 0xFF (b % 512)
    | .dramCorrected => s.count (F.hbmCnt_count 2) 0 1
    | .uncorrectable =>
      let s := s.count (F.hbmCnt_count 5) 0 1
      let s := s.count F.hbmPcUncorr_uncorr p 1
      (s.markBad u).errLogUncorr Ek.scrubUncorr u 0xFF
    | .ok => s) s
  .next s.showScrub

/-- SCRUB_DEFER_EXPIRY (R442): the scrub takes its guaranteed slot at the next row. -/
def execScrubDeferExpiry (pc : Fin 64) (s : State) : Out :=
  let c := s.pcs pc.val
  if c.scrubDeferred then .next (s.setPc pc.val { c with scrubDue := true }) else .next s

/-! ### Refresh (R443) -/

/-- HBM_TEMP_READ (R443): the readings, and the refresh rate from the hotter stack. -/
def execHbmTempRead (stack0 stack1 : BitVec 8) (s : State) : Out :=
  let s := s.wr F.hbmTemp_stack0 0 stack0.toNat
  let s := s.wr F.hbmTemp_stack1 0 stack1.toNat
  let t := max (signed 8 stack0.toNat) (signed 8 stack1.toNat)
  let c85 := if t ≤ 82 then min 100 (s.mem.cool85 + 1) else 0
  let c105 := if t ≤ 102 then min 100 (s.mem.cool105 + 1) else 0
  let s := { s with mem.cool85 := c85, mem.cool105 := c105 }
  let want := if 105 < t then 2 else if 85 < t then 1 else 0
  let cur := s.rd F.hbmStat_refresh
  let next :=
    if cur < want then want
    else if 2 ≤ cur && c105 == 100 then (if c85 == 100 then 0 else 1)
    else if cur == 1 && c85 == 100 then 0
    else cur
  .next (s.wr F.hbmStat_refresh 0 next)

/-- HBM_REFRESH (R443): issued, or postponed for a request of urgency 1 or above, 8 intervals at most; a refresh that
has been postponed so often is issued ahead of every request and counted. -/
def execHbmRefresh (pc : Fin 64) (bank : Fin 48) (s : State) : Out :=
  let p := pc.val
  let b := bank.val
  if s.pcState p != 0 then .next s else
  let c := s.pcs p
  let n := Sparse.get (fun _ => 0) c.postponed b
  let urgent := (c.reads ++ c.writes).any (fun r => hbmBank r.unit == b && 1 ≤ s.urgency r)
  if urgent && n < 8 then .next (s.setPc p { c with postponed := Sparse.set (fun _ => 0) c.postponed b (n + 1) })
  else
    let s := if n == 8 then s.count (F.hbmCnt_count 9) 0 1 else s
    let c := { c with postponed := Sparse.set (fun _ => 0) c.postponed b 0,
                      openRow := Sparse.set (fun _ => 0) c.openRow b 0 }
    .next ((s.setPc p c).emit (.dram p b 2))

/-! ### Self-refresh (R444 to R446) -/

/-- SR_IDLE_EXPIRY (R444): an idle pseudo-channel starts its entry where the policy allows it in the mode. -/
def execSrIdleExpiry (pc : Fin 64) (s : State) : Out :=
  let p := pc.val
  let c := s.pcs p
  let pol := s.rd F.hbmPolicy_srPolicy
  let allowed := pol == 2 || (pol == 1 && s.cmMode)
  if allowed && s.pcState p == 0 && c.reads.isEmpty && c.writes.isEmpty then
    .next ((s.setPc p { c with openRow := [] }).wr F.hbmPcStat_state p 1)
  else .next s

/-- SR_EXIT_DONE (R446): the check read has returned. -/
def execSrExitDone (pc : Fin 64) (s : State) : Out :=
  let p := pc.val
  if s.pcState p == 3 then
    .next ((s.setPc p { s.pcs p with exitTries := 0 }).wr F.hbmPcStat_state p 0)
  else .next s

/-- A pseudo-channel goes DOWN (R446): every request to it ends UNCORRECTABLE. -/
def State.pcDown (s : State) (p : Nat) : State :=
  let c := s.pcs p
  let gone := c.reads ++ c.writes ++ c.issued
  let s := s.setPc p { c with reads := [], writes := [], issued := [] }
  let s := s.wr F.hbmPcStat_state p 4
  let s := s.up F.hbmStat_pcDown
  let unit := (gone.head?.map (·.unit)).getD 0
  let s := s.errLogNew Ek.uncorr unit 0xFF none
  let s := s.log Ev.hbmPcDown (0xB0 + p / 4) 0 [p]
  gone.foldl (fun s r => s.emit (.hbmAnswer r.port r.unit [] true)) s

/-- SR_EXIT_TIMEOUT (R446): a second exit, then DOWN. -/
def execSrExitTimeout (pc : Fin 64) (s : State) : Out :=
  let p := pc.val
  if s.pcState p != 3 then .next s else
  let c := s.pcs p
  if c.exitTries == 0 then .next (s.setPc p { c with exitTries := 1 }) else .next (s.pcDown p)

/-! ### BAR2 (R431) -/

/-- BAR2 reaches HBM: start-up phase 8 is complete and the device is not in PARK (R431). -/
def State.bar2Open (s : State) : Bool :=
  (s.rd F.hbmStat_state == 2 || s.rd F.hbmStat_state == 3 || s.rd F.hbmStat_state == 4) && s.mode != Md.park

/-- BAR2_ACCESS (R431, R439, R451). -/
def execBar2Access (offset : BitVec 36) (write : Bool) (data : Bytes) (len : Nat) (s : State) : Out :=
  let a := offset.toNat
  if s.flag F.hostStat_d3hot then .next s else
  if !s.bar2Open then
    .next (if write then s else s.emit (.busAnswer (zeros len) false))
  else if Config.hbmBytes ≤ a then
    let s := s.count (F.hbmCnt_count 10) 0 1
    let s := s.wr64 F.hbmBar2FaultLo_offset F.hbmBar2FaultHi_offset 0 a
    .next (if write then s else s.emit (.busAnswer (zeros len) false))
  else if write then
    if s.writeProtected a data.length then
      let s := s.count F.hbmBar2Denied_count 0 1
      .next (s.wr64 F.hbmBar2FaultLo_offset F.hbmBar2FaultHi_offset 0 a)
    else .next (s.store 17 a data)
  else
    match s.readMem a len with
    | some bs => .next (s.emit (.busAnswer bs false))
    | none => .next ((s.readFailed 17 a len).emit (.busAnswer (zeros len) true))

/-! ### Speed points and training (R447 to R449) -/

/-- The training state of a speed point: 0 UNTRAINED, 1 PARTIAL, 2 TRAINED. -/
def State.trained (s : State) (pt : Nat) : Nat := bits (s.rd F.hbmStat_trained) (2 * pt) 2

/-- The training state of a point set. -/
def State.setTrained (s : State) (pt v : Nat) : State :=
  let w := s.rd F.hbmStat_trained
  s.wr F.hbmStat_trained 0 (w - bits w (2 * pt) 2 * 2 ^ (2 * pt) + v * 2 ^ (2 * pt))

/-- HBM_SET_SPEED (R448, R449): accepted in CONFIGURE and MAINTAIN; the point in use completes at once; during a speed
change BUSY; a running training stops after its step and leaves its point PARTIAL, or TRAINED where it was. The
change ends at CMD_COMPLETE. -/
def execHbmSetSpeed (cmd : CmdRef) (speed : BitVec 8) (s : State) : Out :=
  .next (s.stewardCommand cmd 0x20 3 (fun s =>
    let sp := speed.toNat
    if 2 < sp then s.finish cmd 0x20 St.badArg
    else if !s.cmMode then s.finish cmd 0x20 St.notInMode
    else match s.mem.target with
    | some (c, _) => s.finish cmd 0x20 St.busy (ownerOf c)
    | none =>
      if sp == s.rd F.hbmStat_speed then s.finish cmd 0x20 St.done else
      let pt := s.rd F.hbmStat_speed
      let s := if s.mem.training && s.trained pt != 2 then s.setTrained pt 1 else s
      let s := { s with mem.training := false, mem.target := some (cmd, sp) }
      (s.takeCmd cmd).wr F.hbmStat_state 0 4))

/-- The end of a speed change (R448): the new point in use and trained, the pseudo-channels out of self-refresh. -/
def State.speedDone (s : State) : State :=
  match s.mem.target with
  | none => s
  | some (cmd, sp) =>
    let s := { s with mem.target := none }
    let s := s.wr F.hbmStat_speed 0 sp
    let s := s.setTrained sp 2
    let s := s.wr F.hbmStat_state 0 3
    let s := forN 64 (fun p s => if s.pcState p == 4 then s else s.wr F.hbmPcStat_state p 0) s
    s.finish cmd 0x20 St.done

/-- HBM_RETRAIN (R448): the full set for the point in use; it ends at CMD_COMPLETE. -/
def execHbmRetrain (cmd : CmdRef) (s : State) : Out :=
  .next (s.stewardCommand cmd 0x21 3 (fun s =>
    if !s.cmMode then s.finish cmd 0x21 St.notInMode else
    match s.mem.target with
    | some (c, _) => s.finish cmd 0x21 St.busy (ownerOf c)
    | none =>
      let s := { s with mem.training := true }
      (s.takeCmd cmd).wr F.hbmStat_state 0 2))

/-- The end of a retraining: the point TRAINED, RETRAIN_NEEDED clear (R448). -/
def State.retrainDone (s : State) (cmd : CmdRef) : State :=
  if !s.mem.training then s else
  let s := { s with mem.training := false }
  let s := s.setTrained (s.rd F.hbmStat_speed) 2
  let s := s.wr F.hbmStat_state 0 3
  let s := s.down F.hbmStat_retrainNeeded
  let s := forN 64 (fun p s => s.down F.hbmPcStat_retrainNeeded p) s
  s.finish cmd 0x21 St.done

/-- HBM_SET_POLICY (R444): SR_POLICY 0 to 2, SR_IDLE_US 10 to 65,535. -/
def execHbmSetPolicy (cmd : CmdRef) (policy : BitVec 8) (idleUs : BitVec 16) (s : State) : Out :=
  .next (s.stewardCommand cmd 0x22 3 (fun s =>
    if 2 < policy.toNat || idleUs.toNat < 10 then s.finish cmd 0x22 St.badArg else
    let s := s.wr F.hbmPolicy_srPolicy 0 policy.toNat
    let s := s.wr F.hbmPolicy_srIdleUs 0 idleUs.toNat
    s.finish cmd 0x22 St.done))

/-- INTERVAL_OSCILLATOR_DRIFT (R447): RETRAIN_NEEDED of the pseudo-channel, which keeps running. -/
def execIntervalOscillatorDrift (pc : Fin 64) (s : State) : Out :=
  .next ((s.up F.hbmPcStat_retrainNeeded pc.val).up F.hbmStat_retrainNeeded)

end Sys2Proof.Machine
end

