-- ==== Sys2Proof/Machine/Lanes.lean ====
section
/-! DEFINITION. The serial lanes (R94 to R118): what does not reach the profiles: lock events, transmit delay, timed
blocks, probes, margin scans, PRBS; and the stream ports with their sequence numbers and credits (R113 to R115). -/

namespace Sys2Proof.Machine

/-! ### Quads and lanes -/

/-! Roles of a quad (R94). -/
namespace Role
def none : Nat := 0
def sensor : Nat := 1
def blanker : Nat := 2
def sync : Nat := 3
def kr4 : Nat := 4
def cr4 : Nat := 5
def eth25 : Nat := 6
def pcie : Nat := 7
end Role

/-! States of LANE_STAT. -/
namespace Ls
def off : Nat := 0
def cdrAcq : Nat := 1
def blockHunt : Nat := 2
def blockLock : Nat := 3
def aligned : Nat := 4
def up : Nat := 5
def prbs : Nat := 6
def loopback : Nat := 7
end Ls

/-- The role of the quad of lane `n`. -/
def State.laneRole (s : State) (n : Nat) : Nat := s.rd F.laneQuadStat_role (n / 4)

/-- Lane `n` is in its quad's LANE_MASK. -/
def State.laneUsed (s : State) (n : Nat) : Bool := bit (s.rd F.laneQuadStat_laneMask (n / 4)) (n % 4)

/-- A Uhlus role: SENSOR, BLANKER or SYNC. -/
def uhlusRole (r : Nat) : Bool := r == Role.sensor || r == Role.blanker || r == Role.sync

/-- STATE of lane `n`. -/
def State.laneState (s : State) (n : Nat) : Nat := s.rd F.laneStat_state n

/-- A lane beyond its registers. -/
def State.lane (s : State) (n : Nat) : Lane := Sparse.get (fun _ => {}) s.links.lanes n

/-- The state with a lane replaced. -/
def State.setLane (s : State) (n : Nat) (l : Lane) : State :=
  { s with links.lanes := Sparse.set (fun _ => {}) s.links.lanes n l }

/-- The lanes of lane `n`'s bond: those of the quad in LANE_MASK for SENSOR, the lane alone for other roles (R106). -/
def State.bondLanes (s : State) (n : Nat) : List Nat :=
  if s.laneRole n == Role.sensor then ([0, 1, 2, 3].map (n / 4 * 4 + ·)).filter s.laneUsed else [n]

/-- The rate codes of R95, in units of 10 kb/s. -/
def laneRate (code : Nat) : Nat :=
  [0, 125000, 250000, 312500, 500000, 625000, 1000000, 1031250, 1250000, 1500000, 2000000, 2500000, 2578125, 2812500,
   3000000, 3200000].getD code 0

/-- The rate of lane `n`, in units of 10 kb/s. -/
def State.rate (s : State) (n : Nat) : Nat := laneRate (s.rd F.laneQuadStat_rateCode (n / 4))

/-- The lane of Sync lane `i`: the i-th lane in the SYNC role from L48 upwards (R113). -/
def State.syncLane (s : State) (i : Nat) : Option Nat :=
  (((List.range 16).map (48 + ·)).filter (fun n => s.laneRole n == Role.sync && s.laneUsed n))[i]?

/-- The Sync lane that is lane `n`. -/
def State.syncIndex (s : State) (n : Nat) : Option Nat := (List.range 8).find? (fun i => s.syncLane i == some n)

/-- The lanes of a quad leave OFF: enabled, REFCLK_OK, not squelched (R102). -/
def State.laneStart (s : State) (n : Nat) : State :=
  let q := n / 4
  if s.rd F.laneQuadStat_role q != 0 && s.laneUsed n && s.flag F.laneQuadStat_refclkOk q &&
      !s.flag F.laneCtl_squelch n && s.laneState n == Ls.off then s.wr F.laneStat_state n Ls.cdrAcq else s

/-- A control block's payload: type, six bytes and the CRC-8 (R98). -/
def ctrlBlock (bytes : Bytes) : Nat :=
  let b := bytes.take 7 ++ zeros (7 - bytes.length)
  leNat (b ++ leBytes 1 (crc8 b))

/-! ### Timed blocks (R107, R108) -/

/-- A timed block launched now: the marked instant leaves at the Reel instant plus T_FIX plus TX_DELAY. `bytes` are
bytes 0 to 5; TOFF is byte 6. A slot already taken by a timed block moves the block one slot later and sets
TIMED_SLIP (R108). `at_` is the Reel instant as a 32.32 time. -/
def State.launch (s : State) (n : Nat) (bytes : Bytes) (at_ : Nat) : State :=
  let l := s.lane n
  let taps := at_ * s.rate n * 64 / (10 ^ 5 * 2 ^ 32) + Config.slotPhase n + 32 * 4224 + l.blk * 4224 + l.phase
  let slot := taps / 4224
  let toff := taps % 4224 / 64
  let (slip, slot) := match l.timedSlot with
    | some t => if slot ≤ t then (true, t + 1) else (false, slot)
    | none => (false, slot)
  let s := if slip then s.up F.laneEvent_timedSlip n else s
  let s := s.setLane n { l with timedSlot := some slot }
  s.emit (.timed n (ctrlBlock (bytes.take 6 ++ zeros (6 - bytes.length) ++ leBytes 1 toff)) slot)

/-! ### Stream ports (R113 to R115) -/

/-- A stream port beyond its registers. -/
def State.sport (s : State) (p : Nat) : SPort := Sparse.get (fun _ => {}) s.links.ports p

/-- The state with a stream port replaced. -/
def State.setSport (s : State) (p : Nat) (v : SPort) : State :=
  { s with links.ports := Sparse.set (fun _ => {}) s.links.ports p v }

/-- A stream port that the run mode and the image use (R113). -/
def State.sportActive (s : State) (p : Nat) : Bool := s.rd F.sportCfg_class p != 0

/-- A credit-controlled port on which the device sends. -/
def State.sportSends (s : State) (p : Nat) : Bool := s.flag F.sportCfg_fc p && s.flag F.sportCfg_dir p

/-- The flit buffers a receiver starts with: 4 of a sample port (R151), 64 KiB of a management stream (R526); a layout
stream's grants come from its staging space (R330). -/
def initialBuffers (p : Nat) : Nat :=
  if 192 ≤ p && p < 512 then 4 else if 768 ≤ p && p < 776 then 1024 else 0

/-- LIMIT of a receiver: the initial buffer count plus the flits released (R115). -/
def State.limitOf (s : State) (p : Nat) : Nat := (initialBuffers p + (s.sport p).granted) % 65536

/-- CREDIT of the port's window word (R115): of a sender, LIMIT − SENT; of a receiver, its free buffers (a sample and a
command are consumed as they arrive). -/
def State.showCredit (s : State) (p : Nat) : State :=
  let v := s.sport p
  if s.sportSends p then s.wr F.sportCredit_credit p ((v.limit + 65536 - v.sent) % 65536)
  else if s.flag F.sportCfg_fc p then
    s.wr F.sportCredit_credit p
      (if 512 ≤ p && p < 768 then s.rd F.lstreamCfg_granted (p - 512) else initialBuffers p)
  else s

/-- Flits the sender may still send: LIMIT − SENT between 1 and 32,767 (R115). -/
def State.creditLeft (s : State) (p : Nat) : Nat :=
  let v := s.sport p
  let d := (v.limit + 65536 - v.sent) % 65536
  if d ≤ 32767 then d else 0

/-- `n` flits sent on a port. -/
def State.spend (s : State) (p n : Nat) : State :=
  let v := s.sport p
  (s.setSport p { v with sent := (v.sent + n) % 65536 }).showCredit p

/-- `n` flits held for want of credit: STALL counts units of 1,024 (LANE window, R115). -/
def State.stall (s : State) (p n : Nat) : State :=
  let v := s.sport p
  let t := v.stallRest + n
  let s := s.setSport p { v with stallRest := t % 1024 }
  s.count F.sportCredit_staleOrStall p (t / 1024)

/-- A receiver's LIMIT taken by the sender (R115). -/
def State.takeLimit (s : State) (p limit : Nat) : State :=
  (s.setSport p { s.sport p with limit := limit % 65536 }).showCredit p

/-- A receiver releases `n` flits. -/
def State.grant (s : State) (p n : Nat) : State :=
  let v := s.sport p
  (s.setSport p { v with granted := (v.granted + n) % 65536 }).showCredit p

/-- SENT and LIMIT back to 0 (R115): the bond or link of the port went down. -/
def State.dropCredits (s : State) (p : Nat) : State :=
  let v := s.sport p
  (s.setSport p { v with sent := 0, limit := 0, granted := 0, started := false, rxLast := none }).showCredit p

/-- The sequence rule of R114 for an item `m` of `w`-bit numbers on port `p`: the state, and whether the item is taken.
`lane` carries the bond; `none` for a network port. -/
def State.takeSeq (s : State) (p w m : Nat) (lane : Option Nat) : State × Bool :=
  let v := s.sport p
  let l := s.rd F.sportSeq_seq p
  let d := (m + 2 ^ w - l % 2 ^ w) % 2 ^ w
  if !v.started || d == 1 then
    ((s.setSport p { v with started := true }).wr F.sportSeq_seq p m, true)
  else if d == 0 || 2 ^ (w - 1) ≤ d then
    (if s.flag F.sportCfg_fc p then s else s.count F.sportCredit_staleOrStall p 1, false)
  else
    let s := s.count F.sportGaps_gaps p (d - 1)
    let s := match lane with
      | some n => s.up F.laneEvent_seqGap n
      | none => s
    (s.wr F.sportSeq_seq p m, true)

/-- A control block discarded under R100 or R113, counted on its lane. -/
def State.ctrlErr (s : State) (n : Nat) : State := (s.count F.laneErrCtrl_count n 1).up F.laneEvent_ctrlErr n

/-- CREDIT_RX (R113, R115). -/
def State.creditRx (s : State) (n p limit : Nat) : State :=
  if !s.sportActive p || !s.flag F.sportCfg_fc p then s.ctrlErr n
  else if s.sportSends p then s.takeLimit p limit else s

/-- CREDIT_RX (R115): a CREDIT block on a lane. -/
def execCreditRx (lane : Fin 64) (port : Fin 1024) (limit : BitVec 16) (s : State) : Out :=
  .next (s.creditRx lane.val port.val limit.toNat)

/-- CREDIT_TX (R115): a receiver's LIMIT for a port on its lane. -/
def execCreditTx (port : Fin 1024) (s : State) : Out :=
  let p := port.val
  if !s.sportActive p || !s.flag F.sportCfg_fc p || s.flag F.sportCfg_dir p then .next s else
  let n := s.rd F.sportCfg_lane p
  if !s.flag F.laneStat_bondUp n then .next s else
  .next (s.emit (.block n true (ctrlBlock (leBytes 1 0x2D ++ leBytes 2 p ++ leBytes 2 (s.limitOf p)))))

/-! ### Lock events that reach no profile (R102, R103) -/

/-- CDR_LOCK (R102): clock recovered and equaliser converged; a Uhlus lane hunts for blocks, any other role is UP. -/
def execCdrLock (lane : Fin 64) (ctle : BitVec 4) (dfe : BitVec 28) (s : State) : Out :=
  let n := lane.val
  if s.laneState n != Ls.cdrAcq then .next s else
  let s := s.wr F.laneEq_ctle n ctle.toNat
  let s := s.wr F.laneEq_dfe n dfe.toNat
  if uhlusRole (s.laneRole n) then
    .next ((s.setLane n { s.lane n with good := 0 }).wr F.laneStat_state n Ls.blockHunt)
  else .next (s.wr F.laneStat_state n Ls.up)

/-- CDR_ACQ_TIMEOUT (R102): 20 ms without lock: acquisition starts again. -/
def execCdrAcqTimeout (lane : Fin 64) (s : State) : Out :=
  if s.laneState lane.val == Ls.cdrAcq then .next (s.up F.laneEvent_acqRetry lane.val) else .next s

/-- ALIGN_TX (R99, R103, R112, R195): block 0 of 16,384, bond width code and logical lane 0, since every transmit lane
is a bond of one; the output FIFO applies a new BLK. `bip` is the XOR of the payload
bytes the lane sent since the last ALIGN. -/
def execAlignTx (lane : Fin 64) (bip : BitVec 8) (s : State) : Out :=
  let n := lane.val
  let r := s.laneRole n
  if !uhlusRole r || !s.laneUsed n || s.flag F.laneCtl_squelch n || !s.flag F.laneQuadStat_refclkOk (n / 4) then .next s
  else
    let l := s.lane n
    let p := Sparse.get (fun _ => ⟨0, 0, 0, 0, [], 0, 0, 0⟩) s.cfg.quads (n / 4)
    let s := s.setLane n { l with amCount := (l.amCount + 1) % 65536, blk := s.rd F.laneTxDelay_blk n }
    .next (s.emit (.block n true (ctrlBlock (leBytes 1 0xA5 ++ leBytes 1 (r * 16) ++
      leBytes 2 l.amCount ++ [bip] ++ leBytes 1 p.linkId))))

/-! ### Transmit delay (R112) -/

/-- A whole-register lock of a lane in the PCIE role, or with `eth` in an Ethernet role (R118). -/
def State.laneLocked (s : State) (n : Nat) (eth : Bool) : Bool :=
  let r := s.laneRole n
  r == Role.pcie || (eth && (r == Role.kr4 || r == Role.cr4 || r == Role.eth25))

/-- LANE_TX_DELAY_WRITE (R112, R118). -/
def execLaneTxDelayWrite (lane : Fin 64) (value : Word) (s : State) : Out :=
  let n := lane.val
  let a := F.laneTxDelay_tap.addr n
  if s.laneLocked n true then .next (s.accessFault Af.lockedWrite a (0x10 + n / 4) true) else
  let blk := F.laneTxDelay_blk.ofWord value
  let s :=
    if blk == s.rd F.laneTxDelay_blk n then s
    else if s.cmMode then s.wr F.laneTxDelay_blk n blk
    else s.accessFault Af.wrongMode a (0x10 + n / 4) true
  let tap := min 4223 (F.laneTxDelay_tap.ofWord value)
  let s := s.wr F.laneTxDelay_tap n tap
  .next (s.wr F.laneTxDelay_slewing n (b2n ((s.lane n).phase != tap)))

/-- TAP_SLEW_STEP (R112): the output phase moves one tap towards TAP. -/
def execTapSlewStep (lane : Fin 64) (s : State) : Out :=
  let n := lane.val
  let l := s.lane n
  let tap := s.rd F.laneTxDelay_tap n
  let phase := if l.phase < tap then l.phase + 1 else if tap < l.phase then l.phase - 1 else l.phase
  .next ((s.setLane n { l with phase := phase }).wr F.laneTxDelay_slewing n (b2n (phase != tap)))

/-! ### Probes (R110, R111) -/

/-- COUNT of a measurement: 0 and values above 64 taken as 64. -/
def probeCount (c : Nat) : Nat := if c == 0 || 64 < c then 64 else c

/-- LANE_PROBE_START (R110, R118): a write of LANE_PROBE_CTL; START begins a measurement on a lane whose bond is UP. -/
def execLaneProbeStart (lane : Fin 64) (value : Word) (s : State) : Out :=
  let n := lane.val
  if s.laneLocked n true then
    .next (s.accessFault Af.lockedWrite (F.laneProbeCtl_count.addr n) (0x10 + n / 4) true) else
  let s := s.wr F.laneProbeCtl_count n (probeCount (F.laneProbeCtl_count.ofWord value))
  if F.laneProbeCtl_start.ofWord value == 0 || s.flag F.laneProbeCtl_busy n || !s.flag F.laneStat_bondUp n then .next s
  else
    let s := s.up F.laneProbeCtl_busy n
    .next (s.setLane n { s.lane n with probe := some { sent := 0, open_ := [], matched := 0, total := 0 } })

/-- PROBE_TX (R110). -/
def execProbeTx (lane : Fin 64) (s : State) : Out :=
  let n := lane.val
  let l := s.lane n
  match l.probe with
  | none => .next s
  | some r =>
    if probeCount (s.rd F.laneProbeCtl_count n) ≤ r.sent then .next s else
    let id := l.nextProbe
    let s := s.setLane n { l with nextProbe := (id + 1) % 65536,
                                  probe := some { r with sent := r.sent + 1, open_ := r.open_ ++ [id] } }
    .next (s.emit (.block n true (ctrlBlock (leBytes 1 0x78 ++ leBytes 2 id))))

/-- An ECHO matched to its PROBE; one more than 100 µs after it is discarded (R110). `taps` is the measured round
trip. -/
def State.echo (s : State) (n id turn taps : Nat) : State :=
  let l := s.lane n
  match l.probe with
  | none => s
  | some r =>
    if !r.open_.contains id || 64 * s.rate n < taps then s else
    let r := { r with open_ := r.open_.filter (· != id), matched := r.matched + 1, total := r.total + taps }
    let s := s.setLane n { l with probe := some r }
    s.wr F.laneTurn_value n turn

/-- ECHO_RX (R110). -/
def execEchoRx (lane : Fin 64) (probeId turn : BitVec 16) (taps : Nat) (s : State) : Out :=
  .next (s.echo lane.val probeId.toNat turn.toNat taps)

/-- PROBE_WINDOW_END (R110): the mean round trip, MATCHED, and PROBE_DONE or PROBE_FAIL. -/
def execProbeWindowEnd (lane : Fin 64) (s : State) : Out :=
  let n := lane.val
  let l := s.lane n
  match l.probe with
  | none => .next s
  | some r =>
    let s := s.setLane n { l with probe := none }
    let s := s.down F.laneProbeCtl_busy n
    let s := s.wr F.laneProbeCtl_matched n r.matched
    let s := if r.matched == 0 then s else s.wr F.laneRtt_value n (r.total / r.matched)
    if r.matched < probeCount (s.rd F.laneProbeCtl_count n) then .next (s.up F.laneEvent_probeFail n)
    else .next (s.up F.laneEvent_probeDone n)

/-- A PROBE answered with TURN = 2,640 UI (R111). -/
def State.answerProbe (s : State) (n id : Nat) : State :=
  s.emit (.block n true (ctrlBlock (leBytes 1 0x87 ++ leBytes 2 id ++ leBytes 2 2640)))

/-- PROBE_RX (R111). -/
def execProbeRx (lane : Fin 64) (probeId : BitVec 16) (s : State) : Out :=
  .next (s.answerProbe lane.val probeId.toNat)

/-! ### Margin scans and PRBS (R116, R117) -/

/-- The lane is in BLOCK_LOCK or later. -/
def State.inLock (s : State) (n : Nat) : Bool :=
  s.laneState n == Ls.blockLock || s.laneState n == Ls.aligned || s.laneState n == Ls.up

/-- MARGIN_START (R116, R118): a write of LANE_MARGIN_CTL. -/
def execMarginStart (lane : Fin 64) (value : Word) (s : State) : Out :=
  let n := lane.val
  if s.laneLocked n false then
    .next (s.accessFault Af.lockedWrite (F.laneMarginCtl_phase.addr n) (0x10 + n / 4) true) else
  let s := s.wr F.laneMarginCtl_phase n (F.laneMarginCtl_phase.ofWord value)
  let s := s.wr F.laneMarginCtl_voff n (F.laneMarginCtl_voff.ofWord value)
  let s := s.wr F.laneMarginCtl_dwell n (F.laneMarginCtl_dwell.ofWord value)
  if F.laneMarginCtl_start.ofWord value == 0 || !s.inLock n then .next s else
  let s := s.down F.laneMarginRes_done n
  let s := s.down F.laneMarginRes_abort n
  .next (s.setLane n { s.lane n with margin := true })

/-- MARGIN_DONE (R116): the scan is complete, or aborted where its lane left BLOCK_LOCK. -/
def execMarginDone (lane : Fin 64) (errors : Nat) (s : State) : Out :=
  let n := lane.val
  if !(s.lane n).margin then .next s else
  let ok := s.inLock n
  let s := s.setLane n { s.lane n with margin := false }
  let s := s.wr F.laneMarginRes_errors n (min errors (2 ^ 24 - 1))
  let s := s.wr F.laneMarginRes_done n (b2n ok)
  let s := s.wr F.laneMarginRes_abort n (b2n (!ok))
  .next (s.up F.laneEvent_marginDone n)

/-- A PRBS command outside MAINTAIN, or on a locked lane (R14, R117, R118). -/
def State.prbsRefused (s : State) (n : Nat) : Option State :=
  let a := F.lanePrbsCtl_txPat.addr n
  if s.laneLocked n false then some (s.accessFault Af.lockedWrite a (0x10 + n / 4) true)
  else if s.mode != Md.maintain then some (s.accessFault Af.wrongMode a (0x10 + n / 4) true)
  else none

/-- PRBS_INJECT (R117): one transmitted bit of a running pattern is inverted. -/
def execPrbsInject (lane : Fin 64) (s : State) : Out :=
  let n := lane.val
  match s.prbsRefused n with
  | some t => .next t
  | none =>
    let p := s.rd F.lanePrbsCtl_txPat n
    if p == 0 || 5 < p then .next s else .next (s.emit (.prbsInverted n))

/-- PRBS_CLEAR (R117): the error and bit counts. -/
def execPrbsClear (lane : Fin 64) (s : State) : Out :=
  let n := lane.val
  match s.prbsRefused n with
  | some t => .next t
  | none => .next ((s.wr F.lanePrbsErr_value n 0).wr64 F.lanePrbsBitsLo_value F.lanePrbsBitsHi_value n 0)

/-- One bit at the checker: `err` where it differs from the pattern (R117). -/
def State.prbsBit (s : State) (n : Nat) (err : Bool) : State :=
  let l := s.lane n
  if !s.flag F.lanePrbsCtl_rxSync n then
    let g := if err then 0 else l.prbsGood + 1
    if 64 ≤ g then (s.setLane n { l with prbsGood := 0, prbsRecent := [] }).up F.lanePrbsCtl_rxSync n
    else s.setLane n { l with prbsGood := g }
  else
    let s := if err then s.count F.lanePrbsErr_value n 1 else s
    let s := s.wr64 F.lanePrbsBitsLo_value F.lanePrbsBitsHi_value n
      ((s.rd64 F.lanePrbsBitsLo_value F.lanePrbsBitsHi_value n + 1) % 2 ^ 64)
    let h := (err :: l.prbsRecent).take 64
    if 32 ≤ (h.filter id).length then (s.setLane n { l with prbsRecent := [] }).down F.lanePrbsCtl_rxSync n
    else s.setLane n { l with prbsRecent := h }

/-- PRBS_CHECK (R117): bits at the checker of a lane that runs a receive pattern. -/
def execPrbsCheck (lane : Fin 64) (errors : List Bool) (s : State) : Out :=
  let n := lane.val
  let p := s.rd F.lanePrbsCtl_rxPat n
  if s.mode != Md.maintain || p == 0 || 5 < p then .next s else .next (forAll errors (fun e s => s.prbsBit n e) s)

end Sys2Proof.Machine
end

