-- ==== Sys2Proof/Machine/Time.lean ====
section
/-! DEFINITION. The time unit (R158 to R184): the nanosecond counter, its increment, slew and step, the PTP base,
comparators, pulse generators, time captures, PPS pins, and the timestamp FIFOs and header templates of the MACs. -/

namespace Sys2Proof.Machine

/-- The counter: NS in [63:32], FRAC in [31:0] (R158). -/
def State.counter (s : State) : Nat := s.rd64 F.timeNowLo_value F.timeNowHi_value

/-- The counter set. -/
def State.setCounter (s : State) (v : Nat) : State := s.wr64 F.timeNowLo_value F.timeNowHi_value 0 (v % 2 ^ 64)

/-- The increment in use: INC plus the slew delta (R158, R160). -/
def State.incInUse (s : State) : Int :=
  (s.rd64 F.timeIncLo_inc F.timeIncHi_inc : Int) + (if s.flag F.timeStat_slewing then s.time.slewDelta else 0)

/-- One tick of the time unit: the counter adds the increment in use (R158), and a running slew counts down. -/
def State.tick (s : State) : State :=
  let s := s.setCounter (((s.counter : Int) + s.incInUse) % (2 ^ 64 : Nat)).toNat
  let s := if s.flag F.timeStat_slewing && 1 < s.rd F.timeSlewTicks_ticks then
      s.wr F.timeSlewTicks_ticks 0 (s.rd F.timeSlewTicks_ticks - 1) else s
  { s with clock := s.clock + 1 }

/-- One sixty-fourth of a nanosecond, in 2⁻³² ns. -/
def sixtyFourth : Nat := 2 ^ 26

/-- TIME_INC_WRITE (R159): INC held within 4.0 ± 1/64 ns; a value outside is taken as the nearer limit. -/
def execTimeIncWrite (hi : Word) (s : State) : Out :=
  let v := s.pairValue F.timeIncLo_inc 0 hi
  let s := s.dropStaged F.timeIncLo_inc
  let held := clampNat (2 ^ 34 - sixtyFourth) (2 ^ 34 + sixtyFourth) v
  let s := if held == v then s else s.up F.timeStat_incClamp
  .next (s.wr64 F.timeIncLo_inc F.timeIncHi_inc 0 held)

/-- TIME_SLEW_START (R160): the slew runs for `ticks` ticks with the delta in force now, held within ±1/64 ns. -/
def execTimeSlewStart (ticks : Word) (s : State) : Out :=
  let d := signed 32 (s.rd F.timeSlew_slewDelta)
  let held := clampInt (-(sixtyFourth : Int)) sixtyFourth d
  let s := if held == d then s else s.up F.timeStat_incClamp
  let s := s.wr F.timeSlewTicks_ticks 0 ticks.toNat
  let s := { s with time.slewDelta := held }
  .next (s.wr F.timeStat_slewing 0 (b2n (ticks.toNat != 0)))

/-- TIME_SLEW_END (R160): the increment in use returns to INC. -/
def execTimeSlewEnd (s : State) : Out :=
  let s := s.wr F.timeSlewTicks_ticks 0 0
  .next (s.down F.timeStat_slewing)

/-! ### Comparators (R175 to R177) -/

/-- A comparator beyond its registers. -/
def State.comp (s : State) (i : Nat) : Comparator := Sparse.get (fun _ => {}) s.time.comps i

/-- The state with a comparator replaced. -/
def State.setComp (s : State) (i : Nat) (c : Comparator) : State :=
  { s with time.comps := Sparse.set (fun _ => {}) s.time.comps i c }

/-- The counter has reached a target: the difference modulo 2⁶⁴ lies below 2⁶³ (R175). -/
def reached (counter target : Nat) : Bool := (counter + 2 ^ 64 - target % 2 ^ 64) % 2 ^ 64 < 2 ^ 63

/-- TARGET of comparator `i`. -/
def State.compTarget (s : State) (i : Nat) : Nat := s.rd64 F.compTargetLo_target F.compTargetHi_target i

/-- A write of COMP_CTL: ENABLE = 1 arms at TARGET, ENABLE = 0 disarms (R175). -/
def State.compCtl (s : State) (i : Nat) (w : Word) : State :=
  let s := s.wr F.compCtl_enable i (F.compCtl_enable.ofWord w)
  let s := s.wr F.compCtl_periodic i (F.compCtl_periodic.ofWord w)
  let s := s.wr F.compCtl_count i (F.compCtl_count.ofWord w)
  if F.compCtl_enable.ofWord w = 1 then
    (s.up F.compStat_armed i).setComp i { late := reached s.counter (s.compTarget i) }
  else (s.down F.compStat_armed i).setComp i {}

/-- COMPARATOR_ARM (R175, R177). -/
def execComparatorArm (unit : Fin 16) (ctl : Word) (s : State) : Out :=
  let i := unit.val
  if s.hostHolds (Res.timecmp + i) then .next (s.compCtl i ctl)
  else .next ((s.up F.compStat_denied i).accessFault Af.conflict (F.compCtl_enable.addr i) 0x82 true
    (s.owner (Res.timecmp + i)))

/-- PERIOD of comparator `i`: below 4.0 ns taken as 4.0 ns (R176). -/
def State.compPeriod (s : State) (i : Nat) : Nat := max (2 ^ 34) (s.rd64 F.compPeriodLo_period F.compPeriodHi_period i)

/-- COMPARATOR_FIRE (R175, R176): an armed comparator whose target the counter has reached raises producer 90 + i. -/
def execComparatorFire (unit : Fin 16) (s : State) : Out :=
  let i := unit.val
  let c := s.comp i
  let t := s.compTarget i
  if !s.flag F.compStat_armed i || !reached s.counter t then .next s else
  let s := if c.late || c.stepped then s.up F.compStat_late i else s
  let s := s.count F.compStat_fires i 1
  let s := s.event (90 + i) 0 0x82
  let s := s.setComp i {}
  let periodic := s.flag F.compCtl_periodic i
  let n := s.rd F.compCtl_count i
  let s := if n = 0 then s else s.wr F.compCtl_count i (n - 1)
  if !periodic || n = 1 then .next ((s.down F.compStat_armed i).down F.compCtl_enable i) else
  let p := s.compPeriod i
  -- after a forward step the target moves past the counter in whole periods
  let behind := (s.counter + 2 ^ 64 - t % 2 ^ 64) % 2 ^ 64
  let skipped := if c.stepped then behind / p else 0
  let s := s.count F.compStat_missed i skipped
  .next (s.wr64 F.compTargetLo_target F.compTargetHi_target i ((t + p * (skipped + 1)) % 2 ^ 64))

/-- TIME_STEP (R161, R176): the signed value is added, STEPPED set and the step logged. -/
def execTimeStep (hi : Word) (s : State) : Out :=
  let v := s.pairValue F.timeStepLo_step 0 hi
  let s := s.dropStaged F.timeStepLo_step
  let d := signed 64 v
  let before := s.counter
  let s := s.setCounter (((before : Int) + d) % (2 ^ 64 : Nat)).toNat
  let s := s.up F.timeStat_stepped
  let s := s.log Ev.timeStep 0x82 0 [v % 2 ^ 32, v / 2 ^ 32]
  let mark (i : Nat) (s : State) : State :=
    if 0 < d && s.flag F.compStat_armed i && !reached before (s.compTarget i) && reached s.counter (s.compTarget i)
    then s.setComp i { s.comp i with stepped := true } else s
  .next (forN 16 mark s)

/-! ### The PTP base (R163, R164) -/

/-- Nanoseconds of NS past the base's CNT, modulo 2³². -/
def State.sinceBase (s : State) : Nat := (s.ns + 2 ^ 32 - s.time.baseCnt) % 2 ^ 32

/-- PTP time at a counter reading: seconds and nanoseconds (R163). -/
def State.ptp (s : State) (counter : Nat) : Nat × Nat :=
  let d := (counter / 2 ^ 32 + 2 ^ 32 - s.time.baseCnt) % 2 ^ 32
  let t := s.time.baseNsec + d
  ((s.time.baseSec + t / 10 ^ 9) % 2 ^ 48, t % 10 ^ 9)

/-- TIME_BASE_COMMIT (R163): a write of TIME_BASE_CNT commits the base; an NSEC of 10⁹ or above discards all of it. -/
def execTimeBaseCommit (cnt : Word) (s : State) : Out :=
  let nsec := s.rd F.timeBaseNsec_value
  if 10 ^ 9 ≤ nsec then .next (s.accessFault Af.wrongMode (F.timeBaseCnt_value.addr 0) 0x82 true) else
  let s := s.wr F.timeBaseCnt_value 0 cnt.toNat
  let s := { s with time.baseSec := s.rd F.timeBaseSecLo_value + s.rd F.timeBaseSecHi_value * 2 ^ 32,
                    time.baseNsec := nsec, time.baseCnt := cnt.toNat }
  .next (s.wr F.timeStat_baseStale 0 (b2n (2 ^ 31 ≤ s.sinceBase)))

/-- A PIN_FUNC function of a pin of a group (R72). -/
def State.pinFn (s : State) (group pin : Nat) : PinFn := Sparse.get (fun _ => ⟨0, 0⟩) s.cfg.pins (group * 256 + pin)

/-- PPS_OUT drives a level where PIN_FUNC enables it: pin 1 of group 2 with function 0x01 (R183). -/
def State.ppsDrive (s : State) (high : Bool) : State :=
  if (s.pinFn 2 1).func == 0x01 then s.emit (.pps (some high)) else s

/-- The level PPS_OUT drives as a PTP second pulse (R182). -/
def State.ppsLevel (s : State) (high : Bool) : State :=
  if s.time.ppsHigh == high then s else ({ s with time.ppsHigh := high } : State).ppsDrive high

/-- BASE_STALE (R164, R182): 2³¹ ns after CNT the base is stale, and PPS_OUT stays low while the base drives it. -/
def execBaseStale (s : State) : Out :=
  if s.sinceBase < 2 ^ 31 then .next s else
  let s := s.up F.timeStat_baseStale
  .next (if s.rd F.timePpsCtl_outSrc == 1 then s.ppsLevel false else s)

/-! ### Pulse generators (R178, R179) -/

/-- A pulse generator beyond its registers. -/
def State.gen (s : State) (g : Nat) : PulseGen := Sparse.get (fun _ => {}) s.time.gens g

/-- The state with a pulse generator replaced. -/
def State.setGen (s : State) (g : Nat) (p : PulseGen) : State :=
  { s with time.gens := Sparse.set (fun _ => {}) s.time.gens g p }

/-- The pins that generator `g` drives put in their active or idle state: EVIO pins of function 0x10 + g where outputs
act (R494), and PPS_OUT for generator 3 with OUT_SRC = 2 (R182). -/
def State.pulsePins (s : State) (g : Nat) (active : Bool) : State :=
  let s := forN 32 (fun i s =>
    if (s.evioFn i).func == 0x10 + g && s.evioActs then s.evioSet i active else s) s
  if g == 3 && s.rd F.timePpsCtl_outSrc == 2 then s.ppsDrive (active != s.flag F.pulseCtl_polarity 3) else s

/-- WIDTH of generator `g`, 8 to 2³¹ ns, as a 32.32 value (R178). -/
def State.pulseWidth (s : State) (g : Nat) : Nat := clampNat 8 (2 ^ 31) (s.rd F.pulseWidth_width g) * 2 ^ 32

/-- PERIOD of generator `g`: at least WIDTH + 8 ns (R178). -/
def State.pulsePeriod (s : State) (g : Nat) : Nat :=
  max (s.pulseWidth g + 8 * 2 ^ 32) (s.rd64 F.pulsePeriodLo_period F.pulsePeriodHi_period g)

/-- A write of PULSE_CTL: ENABLE = 1 arms at START or on events, 0 stops at once (R178). -/
def State.pulseCtl (s : State) (g : Nat) (w : Word) : State :=
  let p := s.gen g
  let s := s.wr F.pulseCtl_enable g (F.pulseCtl_enable.ofWord w)
  let s := s.wr F.pulseCtl_periodic g (F.pulseCtl_periodic.ofWord w)
  let s := s.wr F.pulseCtl_polarity g (F.pulseCtl_polarity.ofWord w)
  let s := s.wr F.pulseCtl_src g (F.pulseCtl_src.ofWord w)
  let s := s.wr F.pulseCtl_count g (F.pulseCtl_count.ofWord w)
  if F.pulseCtl_enable.ofWord w = 1 then
    let t := s.rd64 F.pulseStartLo_start F.pulseStartHi_start g
    if F.pulseCtl_src.ofWord w = 0 then s.setGen g { p with armed := true, next := some t, late := reached s.counter t }
    else s.setGen g { p with armed := true }
  else
    let s := (s.setGen g {}).down F.pulseStat_running g
    s.pulsePins g false

/-- PULSE_ARM (R177, R178). -/
def execPulseArm (gen : Fin 4) (ctl : Word) (s : State) : Out :=
  let g := gen.val
  if s.hostHolds (Res.pulse + g) then .next (s.pulseCtl g ctl)
  else .next ((s.up F.pulseStat_denied g).accessFault Af.conflict (F.pulseCtl_enable.addr g) 0x82 true
    (s.owner (Res.pulse + g)))

/-- A pulse of generator `g` begins (R178). -/
def State.pulseBegin (s : State) (g : Nat) (start : Nat) : State :=
  let p := s.gen g
  let s := if p.late then s.up F.pulseStat_late g else s
  let s := s.up F.pulseStat_running g
  let s := s.setGen g { p with active := true, late := false, made := p.made + 1, next := some start }
  s.pulsePins g true

/-- PULSE_START (R178): the start time, or the next period, is reached. -/
def execPulseStart (gen : Fin 4) (s : State) : Out :=
  let g := gen.val
  let p := s.gen g
  match p.next with
  | some t => if p.armed && !p.active && reached s.counter t then .next (s.pulseBegin g t) else .next s
  | none => .next s

/-- PULSE_END (R178): WIDTH after its start a pulse ends; a periodic generator sets its next start, any other, one with
its COUNT made and one stopped by consumer 68 + g is done. -/
def execPulseEnd (gen : Fin 4) (s : State) : Out :=
  let g := gen.val
  let p := s.gen g
  if !p.active then .next s else
  let s := s.pulsePins g false
  let n := s.rd F.pulseCtl_count g
  let more := s.flag F.pulseCtl_periodic g && !p.stop && (n == 0 || p.made < n)
  if more then
    let t := p.next.getD 0
    .next (s.setGen g { p with active := false, next := some ((t + s.pulsePeriod g) % 2 ^ 64) })
  else
    let bySrc := s.flag F.pulseCtl_src g
    let s := s.down F.pulseStat_running g
    let s := if bySrc then s else s.down F.pulseCtl_enable g
    .next (s.setGen g { armed := bySrc })

/-- PULSE_START_EVENT (R178, R179): with SRC = 1 the arrival edge is the start time; a running generator ignores the
event and sets OVERRUN. -/
def execPulseStartEvent (gen : Fin 4) (s : State) : Out :=
  let g := gen.val
  let p := s.gen g
  if s.flag F.pulseStat_running g then .next ((s.up F.pulseStat_overrun g).overrun (64 + g) 0x82) else
  if p.armed && s.flag F.pulseCtl_src g then .next (s.pulseBegin g s.counter) else .next s

/-- PULSE_STOP_EVENT (R178): the generator stops at the end of the current pulse. -/
def execPulseStopEvent (gen : Fin 4) (s : State) : Out :=
  let g := gen.val
  let p := s.gen g
  if !s.flag F.pulseStat_running g then .next s else
  if p.active then .next (s.setGen g { p with stop := true }) else
  let bySrc := s.flag F.pulseCtl_src g
  let s := s.down F.pulseStat_running g
  let s := if bySrc then s else s.down F.pulseCtl_enable g
  .next (s.setGen g { armed := bySrc })

/-! ### Time captures (R180) -/

/-- Entries of time capture unit `u`. -/
def State.tcaps (s : State) (u : Nat) : List Nat := Sparse.get (fun _ => []) s.time.captures u

/-- The FIFO of capture unit `u` set; LEVEL and the head registers follow. -/
def State.setTcaps (s : State) (u : Nat) (l : List Nat) : State :=
  let s := { s with time.captures := Sparse.set (fun _ => []) s.time.captures u l }
  let s := s.wr F.tcapCtl_level u l.length
  s.wr64 F.tcapTimeLo_time F.tcapTimeHi_time u (l.headD 0)

/-- TIME_CAPTURE (R180): the counter enters the 4-entry FIFO; a full FIFO counts LOST. -/
def execTimeCapture (unit : Fin 4) (s : State) : Out :=
  let u := unit.val
  if !s.flag F.tcapCtl_enable u then .next s else
  let l := s.tcaps u
  if l.length < 4 then .next (s.setTcaps u (l ++ [s.counter])) else
  let s := s.up F.tcapCtl_overrun u
  let s := s.count F.tcapCtl_lost u 1
  .next (s.overrun (72 + u) 0x82)

/-- TIME_CAPTURE_POP (R180). -/
def execTimeCapturePop (unit : Fin 4) (s : State) : Out := .next (s.setTcaps unit.val (s.tcaps unit.val).tail)

/-! ### PPS (R181 to R183) -/

/-- PPS_IN_EDGE (R181): an edge of the chosen polarity is stamped; one less than 500 µs after the last accepted edge is
ignored. -/
def execPpsInEdge (falling : Bool) (s : State) : Out :=
  if (s.pinFn 2 0).func ≠ 0x01 || s.flag F.timePpsCtl_inEdge != falling then .next s else
  let soon := match s.time.ppsEdge with
    | some t => decide (s.clock - t < 125000)
    | none => false
  if soon then .next s else
  let s := if s.flag F.timeStat_ppsInSeen then s.count F.timePpsCtl_ppsInOver 0 1 else s
  let s := s.wr64 F.timePpsInLo_stamp F.timePpsInHi_stamp 0 s.counter
  let s := s.up F.timeStat_ppsInSeen
  .next { s with time.ppsEdge := some s.clock }

/-- PPS_OUT_SECOND (R182): PPS_OUT rises at a whole PTP second while the base is fresh. -/
def execPpsOutSecond (s : State) : Out :=
  if (s.pinFn 2 1).func == 0x01 && s.rd F.timePpsCtl_outSrc == 1 && !s.flag F.timeStat_baseStale then
    .next (s.ppsLevel true)
  else .next s

/-- PPS_OUT_WIDTH_END (R182). -/
def execPpsOutWidthEnd (s : State) : Out := .next (s.ppsLevel false)

/-! ### MAC timestamp FIFOs (R168 to R173) -/

/-- Entries of port `e`'s timestamp FIFO. -/
def State.stamps (s : State) (e : Nat) : List TsEntry := Sparse.get (fun _ => []) s.time.stamps e

/-- The timestamp FIFO of port `e` set; LEVEL and the head registers follow. -/
def State.setStamps (s : State) (e : Nat) (l : List TsEntry) : State :=
  let s := { s with time.stamps := Sparse.set (fun _ => []) s.time.stamps e l }
  let h := l.headD ⟨0, false, 0⟩
  let s := s.wr F.macTsFifo_tag e h.tag
  let s := s.wr F.macTsFifo_oneStepFail e (b2n h.fail)
  let s := s.wr F.macTsFifo_level e l.length
  s.wr64 F.macTsLo_ts F.macTsHi_ts e h.stamp

/-- A transmit stamp enters the 16-entry FIFO, or TS_LOST counts (R172). -/
def State.pushStamp (s : State) (e : Nat) (t : TsEntry) : State :=
  if (s.stamps e).length < 16 then s.setStamps e (s.stamps e ++ [t]) else s.count F.macTsLost_tsLost e 1

/-- MAC_TS_POP (R172). -/
def execMacTsPop (port : Fin 16) (s : State) : Out := .next (s.setStamps port.val (s.stamps port.val).tail)

/-- Picoseconds as a 32.32 value. -/
def psUnits (ps : Int) : Int := Int.fdiv (ps * (2 ^ 32 : Nat)) 1000

/-- The fixed corrections of a port's mode in ps, transmit and receive (R169): 100GBASE, 25GBASE with RS-FEC, without. -/
def macCorrection (speed : Nat) (fec : Bool) : Int × Int :=
  if speed == 2 then (42600, 118300) else if fec then (55800, 142000) else (24400, 31900)

/-- A stamp at a port's timestamp point from the counter (R168 to R170). `measured` is the frame's dynamic term with the
follower's and the point's residual, in 1/16 ns; stamps resolve 1/16 ns. -/
def State.macStamp (s : State) (e : Nat) (transmit : Bool) (measured : Int) : Nat :=
  let (tx, rx) := macCorrection (s.rd F.macStat_speed e) (s.flag F.macStat_fecOn e)
  let t : Int :=
    if transmit then (s.counter : Int) + psUnits (tx + signed 32 (s.rd F.macTsTxadj_ps e))
    else (s.counter : Int) - psUnits (rx + signed 32 (s.rd F.macTsRxadj_ps e))
  ((Int.fdiv t (2 ^ 28 : Nat) + measured) * (2 ^ 28 : Nat) % (2 ^ 64 : Nat)).toNat

/-! ### Header templates (R185) -/

/-- The 64 header bytes of template `t`. -/
def State.templateBytes (s : State) (t : Nat) : Bytes :=
  (List.range 16).flatMap (fun w => leBytes 4 (s.rd F.templateWord_word (16 * t + w)))

/-- Where the IPv4 header starts in a header of HDR_LEN bytes. -/
def ipOffset (hdrLen : Nat) : Nat := hdrLen - 28

/-- The fields a VALID write checks (R185). -/
def templateGood (hdrLen : Nat) (h : Bytes) : Bool :=
  let ip := ipOffset hdrLen
  (hdrLen == 42 || hdrLen == 46) &&
    (if hdrLen == 42 then beAt h 12 2 == 0x0800 else beAt h 12 2 == 0x8100 && beAt h 16 2 == 0x0800) &&
    beAt h ip 1 == 0x45 && beAt h (ip + 9) 1 == 17 && bit (beAt h (ip + 6) 1) 6

/-- TEMPLATE_VALID (R185): a write of a template's control word; VALID = 1 checks the template. -/
def execTemplateValid (template : Fin 16) (ctl : Word) (s : State) : Out :=
  let t := template.val
  let s := s.wr F.templateCtl_hdrLen t (F.templateCtl_hdrLen.ofWord ctl)
  let s := s.wr F.templateCtl_csum t (F.templateCtl_csum.ofWord ctl)
  let s := if F.templateCtl_templateBad.ofWord ctl = 1 then s.down F.templateCtl_templateBad t else s
  if F.templateCtl_valid.ofWord ctl = 0 then .next (s.down F.templateCtl_valid t) else
  if templateGood (s.rd F.templateCtl_hdrLen t) (s.templateBytes t) then .next (s.up F.templateCtl_valid t)
  else .next ((s.down F.templateCtl_valid t).up F.templateCtl_templateBad t)

end Sys2Proof.Machine
end

