-- ==== Sys2Proof/Machine/Headbox.lean ====
section
/-! DEFINITION. The Headbox and the Sensor Link profile (R191 to R212): triggers, line bursts, missing lines, camera
frames, partitions, camera control and status. -/

namespace Sys2Proof.Machine

/-! ### Lines in the sense of u (R580) -/

/-- FORWARD of the Reel. -/
def State.forward (s : State) : Bool := s.flag F.reelTrackCtl_forward

/-- The native line number of a line in u, and the line in u of a native number. -/
def State.inSense (s : State) (l : Int) : Int := if s.forward then l else -l

/-- F, the lines of a frame (R192): values below 63 taken as 63. -/
def State.frameLen (s : State) : Nat := max 63 (s.rd F.headboxFrameLen_fMinus1) + 1

/-- L0 in u. -/
def State.l0 (s : State) : Int := s.headbox.l0.getD 0

/-- The device frame of a line in u, and the line's index within it (R192). -/
def State.frameOf (s : State) (h : Int) : Int := Int.fdiv (h - s.l0) s.frameLen
def State.indexOf (s : State) (h : Int) : Nat := (Int.fmod (h - s.l0) s.frameLen).toNat

/-! ### Ports and channels -/

/-- A port beyond its registers. -/
def State.hbPort (s : State) (p : Nat) : HbPort := Sparse.get (fun _ => {}) s.headbox.ports p
def State.setHbPort (s : State) (p : Nat) (v : HbPort) : State :=
  { s with headbox.ports := Sparse.set (fun _ => {}) s.headbox.ports p v }

/-- A channel beyond its registers. -/
def State.hbCh (s : State) (n : Nat) : HbCh := Sparse.get (fun _ => {}) s.headbox.chans n
def State.setHbCh (s : State) (n : Nat) (v : HbCh) : State :=
  { s with headbox.chans := Sparse.set (fun _ => {}) s.headbox.chans n v }

/-- The port's quad has a SENSOR profile. -/
def State.sensorPort (s : State) (p : Nat) : Bool := s.rd F.laneQuadStat_role p == Role.sensor

/-- Sensor `k` of port `p` is enabled. -/
def State.sensorOn (s : State) (p k : Nat) : Bool := s.sensorPort p && bit (s.rd F.headboxPortCtl_sensors p) k

/-- The enabled channels of a port. -/
def State.portChannels (s : State) (p : Nat) : List Nat := ([0, 1, 2, 3].filter (s.sensorOn p)).map (4 * p + ·)

/-- The port's Ridge is held (R80, R231). -/
def State.portHeld (s : State) (p : Nat) : Bool := s.rd F.ridgeStat_state (p / 2) == 1

/-- WIDTH of a channel: 0 and values above 16,384 taken as 16,384. -/
def State.width (s : State) (n : Nat) : Nat :=
  let w := s.rd F.headboxChCfg_width n
  if w == 0 || 16384 < w then 16384 else w

/-- Bits per pixel of a DEPTH code (R193). -/
def depthBits (c : Nat) : Nat := [8, 10, 12, 14].getD c 8

/-- Bits per pixel of a channel. -/
def State.depth (s : State) (n : Nat) : Nat := depthBits (s.rd F.headboxChCfg_depth n)

/-- Data blocks of a line (R196). -/
def State.lineBlocks (s : State) (n : Nat) : Nat := (s.width n * s.depth n + 63) / 64

/-- The first lane of a port that carries its downstream blocks: the lane of logical lane 0 (R195). -/
def State.portTxLane (s : State) (p : Nat) : Nat :=
  let q := Sparse.get (fun _ => ⟨0, 0, 0, 0, [], 0, 0, 0⟩) s.cfg.quads p
  match [0, 1, 2, 3].find? (fun i => bit q.mask i && bits q.logicalMap (2 * i) 2 == 0) with
  | some i => 4 * p + i
  | none => 4 * p

/-- The channel alert of R212. -/
def State.channelAlert (s : State) (n : Nat) : State := s.event n 0 (0x10 + n / 4)

/-- The port alert of R212. -/
def State.portAlert (s : State) (p : Nat) : State := s.event (48 + p) 0 (0x10 + p)

/-! Counters of a channel, in table order. -/
namespace Hc
def linesOk : Nat := 0
def missing : Nat := 1
def timeout : Nat := 2
def dropFull : Nat := 3
def crcErr : Nat := 4
def formErr : Nat := 5
def longDrop : Nat := 6
def untriggered : Nat := 7
def camSkip : Nat := 8
def badTag : Nat := 9
def fsMismatch : Nat := 10
def framesSeen : Nat := 11
end Hc

/-- A counter of channel `n` advanced by one. -/
def State.hbCount (s : State) (n c : Nat) : State := s.count (F.headboxCnt_count c) n 1

/-! ### The partition (R210, R211) -/

/-- Bytes of each partition of a port. -/
def State.partition (s : State) (p : Nat) : Nat :=
  match (s.portChannels p).length with
  | 0 => 0
  | k => 1048576 / k / 64 * 64

/-- The partition's fill set; FILL, PEAK and HWM follow, in units of 64 bytes. -/
def State.setFill (s : State) (n fill : Nat) : State :=
  let s := s.setHbCh n { s.hbCh n with fill := fill }
  let units := (fill + 63) / 64
  let s := s.wr F.headboxChStat_fill n units
  let s := s.peak F.headboxChPeak_peak n units
  if 3 * s.partition (n / 4) ≤ 4 * fill && 0 < fill && !s.flag F.headboxChStat_hwm n then
    (s.up F.headboxChStat_hwm n).channelAlert n
  else s

/-! ### Entries (R191, R203) -/

/-- The decided lines at the head of the list are delivered in order; the port's TAG and FRAME follow. -/
def State.deliverLines (s : State) (n : Nat) : Nat → State
  | 0 => s
  | fuel + 1 =>
    let c := s.hbCh n
    match c.lines with
    | [] => s
    | l :: rest =>
      match l.done with
      | none => s
      | some px =>
        let s := s.setHbCh n { c with lines := rest, queue := c.queue ++ [HbEntry.mk l.line px] }
        let s := s.wr F.headboxChTag_tag n (unsigned 32 (s.inSense l.line))
        let s := s.wr F.headboxChFrame_frame n (unsigned 32 (s.frameOf (l.line + 1)))
        State.deliverLines s n fuel

/-- Deliver what is decided. -/
def State.hbFlush (s : State) (n : Nat) : State := s.deliverLines n (s.hbCh n).lines.length

/-- A line of the list replaced. -/
def State.setTrig (s : State) (n : Nat) (h : Int) (f : TrigLine → TrigLine) : State :=
  let c := s.hbCh n
  s.setHbCh n { c with lines := c.lines.map (fun l => if l.line == h then f l else l) }

/-- An awaited line not yet decided. -/
def State.awaited (s : State) (n : Nat) (h : Int) : Option TrigLine :=
  (s.hbCh n).lines.find? (fun l => l.line == h && l.done.isNone)

/-- Line `h` marked missing under one cause: MISSING, the cause's counter, and the alert for the first line of a frame
(R203, R212). -/
def State.markMissing (s : State) (n : Nat) (h : Int) (cause : Nat) : State :=
  match s.awaited n h with
  | none => s
  | some l =>
    let c := s.hbCh n
    let s := if l.triggered && !l.begun then s.setHbCh n { c with passed := c.passed + 1 } else s
    let s := s.setTrig n h (fun l => { l with done := some none })
    let s := (s.hbCount n Hc.missing).hbCount n cause
    let s := if s.indexOf h == 0 then s.channelAlert n else s
    s.hbFlush n

/-- A good line delivered. -/
def State.lineGood (s : State) (n : Nat) (h : Int) (px : List Nat) : State :=
  let s := s.setTrig n h (fun l => { l with done := some (some px) })
  let s := s.setHbCh n { s.hbCh n with received := (s.hbCh n).received + 1 }
  (s.hbCount n Hc.linesOk).hbFlush n

/-- The open burst's line marked missing and its bytes released; what follows of the burst is discarded (R206). -/
def State.failBurst (s : State) (p cause : Nat) (after : BurstState) : State :=
  match (s.hbPort p).burst with
  | .inside b =>
    let n := 4 * p + b.sensor
    let s := s.setHbPort p { s.hbPort p with burst := after }
    let s := s.setFill n ((s.hbCh n).fill - s.lineBlocks n * 8)
    s.markMissing n b.line cause
  | _ => s

/-- A control block other than IDLE, ALIGN and LINE_END within a burst (R206). -/
def State.burstBroken (s : State) (p : Nat) : State := s.failBurst p Hc.formErr .discarding

/-- The extended line, in u, of a tag (R203): the line nearest the Reel's high-water line. -/
def State.extendTag (s : State) (tag : Nat) : Int :=
  let hwm := Int.fdiv (s.rdI64 F.reelHwmLo_value F.reelHwmHi_value) 65536
  s.inSense (hwm + signed 32 (unsigned 32 ((tag : Int) - hwm)))

/-! ### Triggers (R198, R204) -/

/-- A line tick at one port (R198, R203): the enabled sensors await the line, and a timed TRIGGER is sent. -/
def State.triggerPort (s : State) (h : Int) (p : Nat) : State :=
  let chans := s.portChannels p
  if chans.isEmpty then s else
  let lane := s.portTxLane p
  let tag := unsigned 32 (s.inSense h)
  let mask := s.rd F.headboxPortCtl_sensors p
  let fs := b2n (s.indexOf h == 0)
  let s := s.launch lane (leBytes 1 0x38 ++ leBytes 1 (mask + fs * 16) ++ leBytes 4 tag) s.counter
  let l := s.lane lane
  let delay := (32 + l.blk) * 66 * 10 ^ 5 * 2 ^ 32 / max 1 (s.rate lane) + l.phase * 10 ^ 5 * 2 ^ 32 / (64 * max 1 (s.rate lane))
  let due := (s.counter + delay + max 1000 (s.rd F.headboxLineTimeout_ns p) * 2 ^ 32) % 2 ^ 64
  forAll chans (fun n s =>
    let s := s.wr F.sportSeq_seq (16 * p + 4 * (n % 4) + 2) tag
    if s.portHeld p then s else
    let c := s.hbCh n
    s.setHbCh n { c with lines := c.lines ++ [TrigLine.mk h due true false none] }) s

/-- A line tick of the Reel (R198): every enabled camera port sends its trigger. -/
def State.trigger (s : State) (h : Int) : State :=
  let s := if s.headbox.l0.isNone then { s with headbox.l0 := some h } else s
  forN 12 (fun p s => s.triggerPort h p) s

/-- A line the Reel reports untriggered (R204): missing on every enabled channel. -/
def State.untriggered (s : State) (h : Int) : State :=
  let s := if s.headbox.l0.isNone then { s with headbox.l0 := some h } else s
  forN 12 (fun p s =>
    if s.portHeld p then s else
    forAll (s.portChannels p) (fun n s =>
      let c := s.hbCh n
      (s.setHbCh n { c with lines := c.lines ++ [TrigLine.mk h 0 false false none] }).markMissing n h Hc.untriggered) s) s

/-- The open frame completed at the target line on leaving INSPECT (R47, R204): its lines from `target` on are marked
missing; nothing where the target is the first line of a frame. -/
def State.completeFrame (s : State) (target : Int) : State :=
  if s.headbox.l0.isNone then s else
  let i := s.indexOf target
  if i == 0 then s else forN (s.frameLen - i) (fun k s => s.untriggered (target + k)) s

/-! ### Bursts (R203, R206, R209, R210) -/

/-- A burst whose blocks are discarded to its end. -/
def State.discardBurst (s : State) (p : Nat) : State := s.setHbPort p { s.hbPort p with burst := .discarding }

/-- Line `h` is admitted (R209, R210) or discarded. -/
def State.admitLine (s : State) (p k : Nat) (h : Int) (tag depth : Nat) : State :=
  let n := 4 * p + k
  let c := s.hbCh n
  let guard := s.l0 + (c.home + 1) * s.frameLen + 16
  let bytes := s.lineBlocks n * 8
  if s.flag F.headboxPortCtl_frameCheck p && guard ≤ h then
    let fresh := !s.flag F.headboxChStat_longFrame n
    let s := (s.up F.headboxChStat_longFrame n).up F.headboxChStat_inLong n
    let s := if fresh then s.channelAlert n else s
    (s.discardBurst p).markMissing n h Hc.longDrop
  else if depthBits depth != s.depth n then (s.discardBurst p).markMissing n h Hc.formErr
  else if s.partition p < c.fill + bytes then (s.discardBurst p).markMissing n h Hc.dropFull
  else
    let s := s.setFill n (c.fill + bytes)
    s.setHbPort p { s.hbPort p with burst := .inside { sensor := k, line := h, tag := tag, blocks := [] } }

/-- The sequence bookkeeping of a LINE_START that is taken (R114, R194): triggered lines passed over are GAPS. -/
def State.lineSeq (s : State) (p k tag : Nat) : State :=
  let n := 4 * p + k
  let port := 16 * p + 4 * k
  let c := s.hbCh n
  let v := s.sport port
  let s := if v.started && c.passed != 0 then
      (s.count F.sportGaps_gaps port c.passed).up F.laneEvent_seqGap (s.portTxLane p) else s
  let s := s.setSport port { v with started := true }
  let s := s.setHbCh n { s.hbCh n with passed := 0 }
  s.wr F.sportSeq_seq port tag

/-- A LINE_START (R203, R206). -/
def State.lineStart (s : State) (p k depth tag : Nat) : State :=
  let s := s.burstBroken p
  let n := 4 * p + k
  if !s.sensorPort p then s else
  if !s.sensorOn p k then (s.hbCount (4 * p) Hc.formErr).discardBurst p else
  if s.portHeld p then (s.count F.headboxChHeldDrop_heldDrop n 1).discardBurst p else
  let h := s.extendTag tag
  if s.chief.path != Md.inspect then (s.hbCount n Hc.badTag).discardBurst p else
  match s.awaited n h with
  | none =>
    -- stale, or never triggered
    let e := match (s.hbCh n).lines.find? (fun l => l.done.isNone) with
      | some l => l.line
      | none => s.inSense (Int.fdiv (s.rdI64 F.reelHwmLo_value F.reelHwmHi_value) 65536) + 1
    let stale := h < e
    let s := if stale then s.count F.sportCredit_staleOrStall (16 * p + 4 * k) 1 else s
    (s.hbCount n Hc.badTag).discardBurst p
  | some l =>
    if !l.triggered then (s.hbCount n Hc.badTag).discardBurst p else
    let skipped := ((s.hbCh n).lines.filter (fun x => x.line < h && x.done.isNone)).map (·.line)
    let s := forAll skipped (fun x s => s.markMissing n x Hc.camSkip) s
    let s := s.setTrig n h (fun l => { l with begun := true })
    (s.lineSeq p k tag).admitLine p k h tag depth

/-- LINE_START_RX (R203, R206, R209, R210). -/
def execLineStartRx (port : Fin 12) (sensor depth : Fin 4) (tag : Word) (s : State) : Out :=
  .next (s.lineStart port.val sensor.val depth.val tag.toNat)

/-- The pixels of a line's data blocks, in order (R196). -/
def unpackPixels (w b : Nat) (blocks : List Nat) : List Nat :=
  let n := blocks.foldr (fun x a => x + a * 2 ^ 64) 0
  (List.range w).map (fun i => bits n (b * i) b)

/-- The payload bytes of data blocks, in order. -/
def blockBytes (blocks : List Nat) : Bytes := blocks.flatMap (leBytes 8)

/-- A LINE_END (R206): the burst is checked, and the line delivered or marked missing. -/
def State.lineEnd (s : State) (p k crc tagByte : Nat) (lane : Nat) : State :=
  match (s.hbPort p).burst with
  | .outside => s.ctrlErr lane
  | .discarding => s.setHbPort p { s.hbPort p with burst := .outside }
  | .inside b =>
    let n := 4 * p + b.sensor
    let blocks := b.blocks.reverse
    if k != b.sensor || blocks.length != s.lineBlocks n || tagByte != b.tag % 256 then
      s.failBurst p Hc.formErr .outside
    else if crc32c (blockBytes blocks) != crc then s.failBurst p Hc.crcErr .outside
    else
      let s := s.setHbPort p { s.hbPort p with burst := .outside }
      s.lineGood n b.line (unpackPixels (s.width n) (s.depth n) blocks)

/-- LINE_END_RX (R206). -/
def execLineEndRx (port : Fin 12) (sensor : Fin 4) (crc : Word) (tagByte : BitVec 8) (s : State) : Out :=
  .next (s.lineEnd port.val sensor.val crc.toNat tagByte.toNat (s.portTxLane port.val))

/-- A data block on a port's bond: payload of the open burst, the data block of a CAM_ACK (R201), or outside a burst. -/
def State.sensorData (s : State) (p payload lane : Nat) : State :=
  match (s.hbPort p).burst with
  | .inside b => s.setHbPort p { s.hbPort p with burst := .inside { b with blocks := payload :: b.blocks } }
  | .discarding => s
  | .outside => s.ctrlErr lane

/-- LINE_TIMEOUT (R205): the deadline of a line has passed without its LINE_END. -/
def execLineTimeout (port : Fin 12) (sensor : Fin 4) (tag : Word) (s : State) : Out :=
  let p := port.val
  let n := 4 * p + sensor.val
  let h := s.extendTag tag.toNat
  match s.awaited n h with
  | none => .next s
  | some l =>
    if !reached s.counter l.deadline then .next s else
    match (s.hbPort p).burst with
    | .inside b =>
      if b.sensor == sensor.val && b.line == h then .next (s.failBurst p Hc.timeout .discarding)
      else .next (s.markMissing n h Hc.timeout)
    | _ => .next (s.markMissing n h Hc.timeout)

/-! ### Camera frames (R208) -/

/-- A FRAME_START: within a burst it breaks the burst; for a sensor not enabled it is discarded (R206, R208). -/
def State.frameStart (s : State) (p k tag lane : Nat) : State :=
  let s := s.burstBroken p
  if !s.sensorOn p k then s.ctrlErr lane else
  if !s.flag F.headboxPortCtl_frameCheck p then s else
  let n := 4 * p + k
  let h := s.extendTag tag
  let s := if s.indexOf h == 0 then s else s.hbCount n Hc.fsMismatch
  let s := s.setHbCh n { s.hbCh n with home := s.frameOf h }
  s.down F.headboxChStat_inLong n

/-- FRAME_START_RX (R208). -/
def execFrameStartRx (port : Fin 12) (sensor : Fin 4) (tag : Word) (s : State) : Out :=
  .next (s.frameStart port.val sensor.val tag.toNat (s.portTxLane port.val))

/-- A FRAME_END is counted in FRAMES_SEEN (R208). -/
def State.frameEnd (s : State) (p k lane : Nat) : State :=
  let s := s.burstBroken p
  if !s.sensorOn p k then s.ctrlErr lane else
  if s.flag F.headboxPortCtl_frameCheck p then s.hbCount (4 * p + k) Hc.framesSeen else s

/-- FRAME_END_RX (R208). -/
def execFrameEndRx (port : Fin 12) (sensor : Fin 4) (_tag : Word) (s : State) : Out :=
  .next (s.frameEnd port.val sensor.val (s.portTxLane port.val))

/-! ### Camera control and status (R200 to R202) -/

/-- CAM_CTRL_GO (R200, R201): a write of HEADBOX_CCTL. -/
def execCamCtrlGo (port : Fin 12) (value : Word) (s : State) : Out :=
  let p := port.val
  if !s.sensorPort p then .next s else
  let go := F.headboxCctl_go.ofWord value == 1
  if go && s.flag F.headboxCctl_busy p then
    .next (s.accessFault Af.conflict (F.headboxCctl_sensor.addr p) (0x10 + p) true)
  else
    let k := F.headboxCctl_sensor.ofWord value
    let wr := F.headboxCctl_write.ofWord value
    let s := s.wr F.headboxCctl_sensor p k
    let s := s.wr F.headboxCctl_write p wr
    let works := s.mode == Md.configure || s.mode == Md.inspect || s.mode == Md.maintain
    if !go || !works || !s.flag F.headboxPortStat_bondUp p then .next s else
    let ctag := (s.rd F.headboxCctl_ctag p + 1) % 32
    let s := s.wr F.headboxCctl_ctag p ctag
    let s := s.up F.headboxCctl_busy p
    let s := s.wr F.headboxCctl_result p 0
    let lane := s.portTxLane p
    let s := s.emit (.block lane true (ctrlBlock (leBytes 1 0x34 ++ leBytes 1 (k + wr * 4 + ctag * 8))))
    .next (s.emit (.block lane false (s.rd F.headboxCctlAddr_addr p + s.rd F.headboxCctlData_data p * 2 ^ 32)))

/-- A CAM_ACK with its data block, or without one (R200, R201). -/
def State.camAck (s : State) (p k ctag result : Nat) (data : Option Nat) : State :=
  match data with
  | some d =>
    if s.flag F.headboxCctl_busy p && ctag == s.rd F.headboxCctl_ctag p && k == s.rd F.headboxCctl_sensor p then
      let s := s.down F.headboxCctl_busy p
      let s := s.wr F.headboxCctl_result p (if result == 0 then 1 else if result == 2 then 3 else 2)
      s.wr F.headboxCctlData_data p (d / 2 ^ 32)
    else s.count F.headboxCctl_ackBad p 1
  | none => s.count F.headboxCctl_ackBad p 1

/-- CAM_ACK_RX (R200, R201): the control block, and the data block that directly follows it. -/
def execCamAckRx (port : Fin 12) (sensor : Fin 4) (_write : Bool) (ctag : Fin 32) (result : BitVec 8)
    (data : Option (Word × Word)) (s : State) : Out :=
  let s := s.burstBroken port.val
  .next (s.camAck port.val sensor.val ctag.val result.toNat (data.map (fun d => d.1.toNat + d.2.toNat * 2 ^ 32)))

/-- CAM_CTRL_TIMEOUT (R201): RESULT 4. -/
def execCamCtrlTimeout (port : Fin 12) (s : State) : Out :=
  let p := port.val
  if !s.flag F.headboxCctl_busy p then .next s else
  .next ((s.down F.headboxCctl_busy p).wr F.headboxCctl_result p 4)

/-- A CAM_STATUS (R202, R206): kept per sensor; ALERT from 0 to 1 raises the port producer. -/
def State.camStatus (s : State) (p k : Nat) (ready alert : Bool) (seq code lane : Nat) : State :=
  let s := s.burstBroken p
  if !s.sensorOn p k then s.ctrlErr lane else
  let n := 4 * p + k
  let (s, taken) := s.takeSeq (16 * p + 4 * k + 3) 16 seq (some lane)
  if !taken then s else
  let rise := alert && !s.flag F.headboxCamStat_alert n
  let s := s.wr F.headboxCamStat_ready n (b2n ready)
  let s := s.wr F.headboxCamStat_alert n (b2n alert)
  let s := s.wr F.headboxCamStat_code n code
  if rise then s.portAlert p else s

/-- CAM_STATUS_RX (R202). -/
def execCamStatusRx (port : Fin 12) (sensor : Fin 4) (ready alert : Bool) (seq code : BitVec 16) (s : State) : Out :=
  .next (s.camStatus port.val sensor.val ready alert seq.toNat code.toNat (s.portTxLane port.val))

/-- CAM_SILENT (R202): no CAM_STATUS for 100 ms; SILENT newly set raises the port producer. -/
def execCamSilent (port : Fin 12) (sensor : Fin 4) (s : State) : Out :=
  let p := port.val
  let n := 4 * p + sensor.val
  if !s.sensorOn p sensor.val || s.flag F.headboxCamStat_silent n then .next s else
  .next ((s.up F.headboxCamStat_silent n).portAlert p)

/-! ### Rates (R211) -/

/-- RATE_OVER set on a channel; newly set it alerts. -/
def State.rateOver (s : State) (n : Nat) : State :=
  if s.flag F.headboxChStat_rateOver n then s else (s.up F.headboxChStat_rateOver n).channelAlert n

/-- RATE_MEASURE (R211): W × lines a second of each channel against 1.5 Gpix/s, of the port against 6.0 Gpix/s. -/
def execRateMeasure (port : Fin 12) (s : State) : Out :=
  let p := port.val
  let chans := s.portChannels p
  let rate (n : Nat) : Nat := s.width n * (s.hbCh n).received * 1000
  let total := chans.foldl (fun a n => a + rate n) 0
  let tooFast := chans.filter (fun n => 1500000000 < rate n || 6000000000 < total)
  let s := forAll tooFast (fun n s => s.rateOver n) s
  .next (forAll chans (fun n s => s.setHbCh n { s.hbCh n with received := 0 }) s)

/-! ### The bond (R207) -/

/-- The port's bond comes UP: the first item of every stream is in order (R114). -/
def State.sensorBondUp (s : State) (p : Nat) : State :=
  let s := s.up F.headboxPortStat_bondUp p
  forN 16 (fun k s => s.setSport (16 * p + k) { s.sport (16 * p + k) with started := false }) s

/-- The port's bond goes down (R207): the line in flight is missing, and the port alerts. -/
def State.sensorBondDown (s : State) (p : Nat) : State :=
  let s := s.failBurst p Hc.formErr .outside
  let s := s.setHbPort p { burst := .outside, ack := none }
  let s := s.down F.headboxPortStat_bondUp p
  (s.up F.headboxPortStat_bondDropped p).portAlert p

end Sys2Proof.Machine
end

