-- ==== Sys2Proof/Machine/Stats.lean ====
section
/-! DEFINITION. The statistics unit (R318 to R320): one block of statistics a channel and frame. -/

namespace Sys2Proof.Machine

/-- rdiv(a, b) = floor((2a + b) / (2b)), for b > 0 (R304). -/
def rdiv (a : Int) (b : Int) : Int := Int.fdiv (2 * a + b) (2 * b)

/-- The statistics of channel `n`'s running frame. -/
def State.statsCh (s : State) (n : Nat) : StatsCh := Sparse.get (fun _ => {}) s.stats.chans n
def State.setStatsCh (s : State) (n : Nat) (c : StatsCh) : State :=
  { s with stats.chans := Sparse.set (fun _ => {}) s.stats.chans n c }

/-- An entry of a table advanced by `k`. -/
def bump (m : Sparse Nat) (i k : Nat) : Sparse Nat := Sparse.set (fun _ => 0) m i (Sparse.get (fun _ => 0) m i + k)

/-- One pixel of a line with MISS = 0 (R318): column, value, depth. -/
def StatsCh.pixel (c : StatsCh) (col v b : Nat) : StatsCh :=
  if 2 ^ b - 1 ≤ v then { c with missPx := c.missPx + 1 } else
  { c with n := c.n + 1, sum := c.sum + v, sq := c.sq + v * v, hist := bump c.hist (v / 2 ^ (b - 8)) 1,
           profN := bump c.profN (col / 64) 1, profS := bump c.profS (col / 64) v }

/-- A Calender output line at the statistics unit (R318, R320): the frame's first line opens the accumulation where the
channel yields a block; its last line completes the frame. -/
def State.statsLine (s : State) (n : Nat) (l : CalLine) : State :=
  let yields := s.flag F.statsCtl_enable && s.flag F.statsChCtl_en n &&
    (!s.flag F.statsCtl_mode || s.flag F.statsChCtl_armed n)
  let c := if l.index == 0 then
      { collecting := yields, frame := l.frame, first := s.inSense l.line, width := l.px.length }
    else s.statsCh n
  if !c.collecting then s.setStatsCh n c else
  let b := s.depth n
  let c := if l.miss then { c with missLines := c.missLines + 1 } else
    (l.px.foldl (fun (a : StatsCh × Nat) v => (a.1.pixel a.2 v b, a.2 + 1)) (c, 0)).1
  if l.index + 1 == s.frameLen then
    let s := if s.flag F.statsCtl_mode then s.down F.statsChCtl_armed n else s
    let s := s.setStatsCh n {}
    { s with stats.ready := s.stats.ready ++ [(n, c)] }
  else s.setStatsCh n c

/-- The 1,600 bytes of a block (R319). -/
def StatsCh.bytes (c : StatsCh) (n seq depthCode : Nat) : Bytes :=
  let b := depthBits depthCode
  let mean := if c.n == 0 then 0 else rdiv (16 * c.sum) c.n
  let var := if c.n == 0 then 0 else
    min (rdiv (16 * ((c.n * c.sq : Nat) - (c.sum * c.sum : Nat) : Int)) (c.n * c.n : Nat)) (2 ^ 32 - 1)
  let groups := (c.width + 63) / 64
  let head := leBytes 4 seq ++ leBytes 4 c.frame ++ leBytes 1 n ++ leBytes 1 depthCode ++ leBytes 2 c.width ++
    leBytes 2 groups ++ leBytes 2 0 ++ leBytes 4 c.missLines ++ leBytes 4 c.n ++ leBytes 4 c.missPx ++
    leBytes 4 mean.toNat ++ leBytes 8 c.sum ++ leBytes 8 c.sq ++ leBytes 4 var.toNat ++
    leBytes 8 (unsigned 64 (c.first * 65536))
  let hist := (List.range 256).flatMap (fun i => leBytes 4 (Sparse.get (fun _ => 0) c.hist i))
  let prof := (List.range 256).flatMap (fun g =>
    if groups ≤ g then leBytes 2 0 else
    let k := Sparse.get (fun _ => 0) c.profN g
    leBytes 2 (if k == 0 then 2 ^ b - 1 else (rdiv (Sparse.get (fun _ => 0) c.profS g : Nat) k).toNat))
  head ++ leBytes 4 (crc32c (head ++ hist ++ prof)) ++ hist ++ prof

/-- Which destinations a DEST code selects (R317): ring, network; 3 taken as 0. -/
def destRing (d : Nat) : Bool := d != 1
def destNet (d : Nat) : Bool := d == 1 || d == 2

/-- LEVEL of the statistics FIFO. -/
def State.showStats (s : State) : State := s.wr F.statsStat_level 0 s.stats.fifo.length

/-- STATS_BLOCK (R292, R319, R320): the oldest finished frame of the channel becomes a block and enters the 256-block
FIFO; where that is full the block is dropped, and its SEQ is consumed. -/
def execStatsBlock (channel : Fin 48) (s : State) : Out :=
  let n := channel.val
  match s.stats.ready.find? (fun e => e.1 == n) with
  | none => .next s
  | some e =>
    let s := { s with stats.ready := s.stats.ready.erase e }
    let seq := s.rd F.statsNextSeq_seq
    let s := s.wr F.statsNextSeq_seq 0 (seq + 1)
    if 256 ≤ s.stats.fifo.length then .next (s.count (F.statsCnt_count 1) 0 1) else
    let d := s.rd F.couchCtl_statsDest
    let item := OutItem.mk (e.2.bytes n seq (s.rd F.headboxChCfg_depth n)) (destRing d) (destNet d)
    let s := s.count (F.statsCnt_count 0) 0 1
    let s := { s with stats.fifo := s.stats.fifo ++ [item] }
    let s := if 192 ≤ s.stats.fifo.length then s.up F.statsStat_hwm else s
    .next s.showStats

/-- STATS_ARM (R320): consumer 118 + group arms the group's channels with MODE = 1; one already armed is ignored,
counted, and flags the consumer's overrun. -/
def execStatsArm (group : Fin 2) (s : State) : Out :=
  if !s.flag F.statsCtl_mode then .next s else
  let chans := (List.range 48).filter (fun n => s.rd F.statsChCtl_group n == group.val)
  let busy := chans.filter (fun n => s.flag F.statsChCtl_armed n)
  let s := forAll chans (fun n s => s.up F.statsChCtl_armed n) s
  if busy.isEmpty then .next s else
  .next ((s.count (F.statsCnt_count 2) 0 busy.length).overrun (118 + group.val) 0x7A)

end Sys2Proof.Machine
end

