-- ==== Sys2Proof/Machine/Calender.lean ====
section
/-! DEFINITION. The Calender channel front ends (R213 to R229): correction and clamp, substitution, resampling, frame
cutting, shadow hand-over and bank copy. -/

namespace Sys2Proof.Machine

/-- A Calender beyond its registers. -/
def State.calCh (s : State) (n : Nat) : CalCh := Sparse.get (fun _ => {}) s.calender n
def State.setCalCh (s : State) (n : Nat) (c : CalCh) : State :=
  { s with calender := Sparse.set (fun _ => {}) s.calender n c }

/-- The window address of the coefficient word of pixel `i` of channel `n` (R214). -/
def coefAddr (n i : Nat) : Nat := 0x02200000 + n * 0x10000 + 4 * i

/-- The active coefficient word of a pixel. -/
def State.coef (s : State) (n i : Nat) : Nat := (Sparse.get resetWord s.coefActive (coefAddr n i)).toNat

/-- Whether the entry of a bank's table belongs to channel `n`. -/
def inChannel (n : Nat) (a : Nat) : Bool := coefAddr n 0 ≤ a && a < coefAddr (n + 1) 0

/-! ### Shadow and hand-over (R224 to R228) -/

/-- The channel passes lines: INSPECT, and its sensor enabled (R225, R228). -/
def State.calFlows (s : State) (n : Nat) : Bool := s.chief.path == Md.inspect && s.sensorOn (n / 4) (n % 4)

/-- The active scalars from the shadow registers. -/
def State.calScalars (s : State) (n : Nat) : State :=
  let s := s.wr F.calActiveCtl_corrEn n (s.rd F.calCtl_corrEn n)
  let s := s.wr F.calActiveCtl_substEn n (s.rd F.calCtl_substEn n)
  let s := s.wr F.calActiveBlack_black n (s.rd F.calBlack_black n)
  let s := s.wr F.calActiveX0_x0 n (s.rd F.calRsX0_x0 n)
  s.wr F.calActiveStep_step n (s.rd F.calRsStep_step n)

/-- The channel's shadow words, as the window holds them, and its active words, exchanged (R227). -/
def State.swapBanks (s : State) (n : Nat) : State :=
  let shadow := s.regs.filter (fun e => inChannel n e.1)
  let active := s.coefActive.filter (fun e => inChannel n e.1)
  let s := s.resetSpan (coefAddr n 0) (coefAddr (n + 1) 0)
  let s := active.foldl (fun s e => s.setReg e.1 e.2) s
  let rest := s.coefActive.filter (fun e => !inChannel n e.1)
  { s with coefActive := shadow.foldl (fun m e => Sparse.set resetWord m e.1 e.2) rest }

/-- The hand-over (R225, R227): every shadow parameter becomes active; where a coefficient word had been written the
banks exchange roles and the copy starts. -/
def State.calHandover (s : State) (n : Nat) : State :=
  let s := s.calScalars n
  let s := s.down F.calShadowCtl_armed n
  let s := s.down F.calShadowCtl_shadowPending n
  let s := s.count F.calShadowCtl_handovers n 1
  let c := s.calCh n
  if c.written then
    let s := s.swapBanks n
    let s := s.setCalCh n { c with written := false, skip := [], badActive := c.badShadow, badShadow := c.badActive }
    s.up F.calShadowCtl_syncing n
  else s

/-- ARMED hands over at once where no line flows and no copy runs (R225, R228). -/
def State.calIdleHandover (s : State) (n : Nat) : State :=
  if s.flag F.calShadowCtl_armed n && !s.flag F.calShadowCtl_syncing n && !s.calFlows n then s.calHandover n else s

/-- The hand-over decision at a boundary line (R225, R227). -/
def State.calBoundary (s : State) (n index : Nat) : State :=
  if !s.flag F.calShadowCtl_armed n || !(s.flag F.calCtl_handoverAt n || index == 0) then s
  else if s.flag F.calShadowCtl_syncing n then
    (s.count (F.calCnt_count 7) n 1).up F.calShadowCtl_hoDeferred n
  else s.calHandover n

/-- The Calender's island is power-gated (R25, R37): the access is logged and does nothing. -/
def State.calGated (s : State) (n : Nat) : Option State :=
  let isl := 0x20 + n / 4
  if s.chief.gated.contains isl then some (s.accessFault Af.gated (F.calShadowCtl_commit.addr n) isl true) else none

/-- CAL_COMMIT (R225). -/
def execCalCommit (channel : Fin 48) (s : State) : Out :=
  let n := channel.val
  match s.calGated n with
  | some t => .next t
  | none => .next ((s.up F.calShadowCtl_armed n).calIdleHandover n)

/-- CAL_DISCARD (R226): the active scalars go to the shadow, and a full bank copy starts. -/
def execCalDiscard (channel : Fin 48) (s : State) : Out :=
  let n := channel.val
  match s.calGated n with
  | some t => .next t
  | none =>
    let s := s.wr F.calCtl_corrEn n (s.rd F.calActiveCtl_corrEn n)
    let s := s.wr F.calCtl_substEn n (s.rd F.calActiveCtl_substEn n)
    let s := s.wr F.calBlack_black n (s.rd F.calActiveBlack_black n)
    let s := s.wr F.calRsX0_x0 n (s.rd F.calActiveX0_x0 n)
    let s := s.wr F.calRsStep_step n (s.rd F.calActiveStep_step n)
    let s := s.setCalCh n { s.calCh n with written := false, skip := [], discard := some s.clock }
    let s := s.down F.calShadowCtl_shadowPending n
    .next (s.up F.calShadowCtl_syncing n)

/-- The bank copy (R227): active words into the shadow bank, but for those the host wrote since. -/
def State.copyBank (s : State) (n : Nat) : State :=
  let c := s.calCh n
  let kept := s.regs.filter (fun e => inChannel n e.1 && c.skip.contains ((e.1 - coefAddr n 0) / 4))
  let active := s.coefActive.filter (fun e => inChannel n e.1 && !c.skip.contains ((e.1 - coefAddr n 0) / 4))
  let s := s.resetSpan (coefAddr n 0) (coefAddr (n + 1) 0)
  let s := (kept ++ active).foldl (fun s e => s.setReg e.1 e.2) s
  let bad := c.badActive.filter (fun i => !c.skip.contains i) ++ c.badShadow.filter c.skip.contains
  s.setCalCh n { c with skip := [], discard := none, badShadow := bad }

/-- CAL_BANK_COPY_DONE (R227): SYNCING clears, and a hand-over that waits for it proceeds where no line flows. -/
def execCalBankCopyDone (channel : Fin 48) (s : State) : Out :=
  let n := channel.val
  if !s.flag F.calShadowCtl_syncing n then .next s else
  .next (((s.copyBank n).down F.calShadowCtl_syncing n).calIdleHandover n)

/-- A host write of a coefficient word reaches the shadow bank (R224, R226, R227). -/
def State.coefWrite (s : State) (n i : Nat) (w : Word) : State :=
  let a := coefAddr n i
  let changed := s.reg a != w
  let c := s.calCh n
  -- a DISCARD's copy skips nothing: it has passed 3.2 words a tick of 4 ns, and overwrites what it still comes to
  let passed := match c.discard with
    | some t => decide (5 * i < 16 * (s.clock - t))
    | none => true
  let skip := if s.flag F.calShadowCtl_syncing n && passed && !c.skip.contains i then c.skip ++ [i] else c.skip
  let s := s.setCalCh n { c with written := true, skip := skip, badShadow := c.badShadow.filter (· != i) }
  let s := s.setReg a w
  if changed then s.up F.calShadowCtl_shadowPending n else s

/-! ### The pixel path (R215 to R218) -/

/-- Corrected and clamped value of a pixel, and whether it was clamped low, high (R215, R216). -/
def correct (b black : Nat) (corr : Bool) (word x : Nat) : Nat × Bool × Bool :=
  let m : Int := 2 ^ b - 1
  let y : Int := if corr then
      asr (((x : Int) - black - signed 13 (bits word 16 13)) * (bits word 0 16 : Nat) + 8192) 14
    else x
  ((clampInt 0 (m - 1) y).toNat, decide (y < 0), decide (m - 1 < y))

/-- A pixel after substitution (R217); `use` answers a usable neighbour's value. -/
def substitute (m subst : Nat) (v : Nat) (left right : Option Nat) : Nat :=
  match subst with
  | 0 => v
  | 1 => left.getD m
  | 2 => right.getD m
  | 3 => match left, right with
    | some a, some c => (a + c + 1) / 2
    | some a, none => a
    | none, some c => c
    | none, none => m
  | _ => m

/-- One resampled output pixel, or `none` for the missing-pixel code (R218). -/
def resamplePixel (m x0 step : Nat) (src : Array Nat) (j : Nat) : Option Nat :=
  let p := x0 + j * step
  let i := p / 65536
  let f := p / 64 % 1024
  let w := src.size
  let a := src.getD i m
  let c := src.getD (i + 1) m
  if w ≤ i || (f != 0 && w ≤ i + 1) then none
  else if a == m || (f != 0 && c == m) then none
  else if f == 0 then some a
  else some ((a * (1024 - f) + c * f + 512) / 1024)

/-- WOUT and STEP as taken (R219). -/
def State.wout (s : State) (n : Nat) : Nat :=
  let w := s.rd F.calRsWout_wout n
  if w == 0 || 16384 < w then 16384 else w
def State.step_ (s : State) (n : Nat) : Nat := clampNat 0x8000 0x20000 (s.rd F.calActiveStep_step n)

/-- The width of a channel's output lines (R218, R221). -/
def State.outWidth (s : State) (n : Nat) : Nat := if s.flag F.calRsWout_resampleEn n then s.wout n else s.width n

/-- The output pixels of a good line, with the counts of SAT_LO, SAT_HI and MISSING_PX (R215 to R218, R223). -/
def State.calPixels (s : State) (n : Nat) (px : List Nat) : List Nat × Nat × Nat × Nat :=
  let b := s.depth n
  let m := 2 ^ b - 1
  let bad := (s.calCh n).badActive
  let corr := s.flag F.calActiveCtl_corrEn n
  let sub := s.flag F.calActiveCtl_substEn n
  let black := s.rd F.calActiveBlack_black n
  let rows := (List.range px.length).zip px |>.map (fun e =>
    let w := s.coef n e.1
    (correct b black corr w e.2, bits w 29 3, bad.contains e.1))
  let arr := rows.toArray
  let usable (i : Nat) : Option Nat :=
    match arr[i]? with
    | some ((v, _, _), sb, isBad) => if sb == 0 && !isBad then some v else none
    | none => none
  let subst := (List.range px.length).zip rows |>.map (fun e =>
    let ((v, _, _), sb, isBad) := e.2
    let code := if isBad then 4 else if sub then sb else 0
    substitute m code v (if e.1 == 0 then none else usable (e.1 - 1)) (usable (e.1 + 1)))
  let lo := (rows.filter (fun r => r.1.2.1)).length
  let hi := (rows.filter (fun r => r.1.2.2)).length
  -- only substitution yields the code here: the clamp never does
  let missSub := (subst.filter (· == m)).length
  if s.flag F.calRsWout_resampleEn n then
    let src := subst.toArray
    let out := (List.range (s.wout n)).map (resamplePixel m (s.rd F.calActiveX0_x0 n) (s.step_ n) src)
    (out.map (·.getD m), lo, hi, (out.filter (·.isNone)).length)
  else (subst, lo, hi, missSub)

/-- A channel's line in a look-back ring: its bytes, rounded up to 64 (R236, R313). -/
def State.lookBytes (s : State) (n : Nat) : Nat :=
  (s.outWidth n * (if s.depth n == 8 then 1 else 2) + 63) / 64 * 64

/-- The enabled channels of the device. -/
def State.allChannels (s : State) : List Nat := (List.range 12).flatMap s.portChannels

/-- Where line `h` of a channel lies in the LOOKBACK region: rings in channel order, line modulo LOOKBACK_LINES. -/
def State.lookAddr (s : State) (n : Nat) (h : Int) : Option Nat :=
  let len := s.rd F.couchLookback_lines
  if len == 0 then none else
  let before := (s.allChannels.filter (· < n)).foldl (fun a c => a + len * s.lookBytes c) 0
  (s.region 2).map (fun r => r.base + before + (Int.fmod h len).toNat * s.lookBytes n)

/-- The look-back writer takes a Calender output line (R313). -/
def State.lookWrite (s : State) (n : Nat) (l : CalLine) : State :=
  match s.lookAddr n l.line with
  | none => s
  | some a =>
    let b := if s.depth n == 8 then 1 else 2
    let d := l.px.flatMap (leBytes b)
    let s := s.store 6 a (d ++ zeros (s.lookBytes n - d.length))
    let first := match Sparse.get (fun _ => none) s.couch.look n with
      | some e => e.1
      | none => l.line
    { s with couch.look := Sparse.set (fun _ => none) s.couch.look n (some (first, l.line)) }

/-- COEF_ERR, COEF_ERRS and the index of the last failing word read for a good line (R223, R229). -/
def State.coefErrors (s : State) (n : Nat) : State :=
  let bad := (s.calCh n).badActive.filter (· < s.width n)
  if bad.isEmpty then s else
  let s := s.count (F.calCnt_count 6) n bad.length
  let s := s.wr F.calCoefErrIdx_index n (bad.foldl max 0)
  if s.flag F.calStat_coefErr n then s else (s.up F.calStat_coefErr n).event n 0 (0x20 + n / 4)

/-- The end of a frame at the Calender (R222, R229). -/
def State.calFrameEnd (s : State) (n frame missing : Nat) : State :=
  let s := s.count (F.calCnt_count 0) n 1
  let s := s.wr F.calFrame_frame n frame
  if missing == 0 then s else
  let s := s.wr F.calShortCount_count n missing
  let s := s.count (F.calCnt_count 1) n 1
  let s := s.count (F.calCnt_count 2) n missing
  if s.flag F.calStat_shortFrame n then s else (s.up F.calStat_shortFrame n).event n 0 (0x20 + n / 4)

/-- CAL_LINE (R210, R215 to R229): the next Headbox entry of the channel becomes one output line. `upset` lists the
pixels whose active word has come to fail parity since the last line. -/
def execCalLine (channel : Fin 48) (upset : List (Fin 16384)) (s : State) : Out :=
  let n := channel.val
  let h := s.hbCh n
  match h.queue with
  | [] => .next s
  | e :: rest =>
    let s := s.setHbCh n { h with queue := rest }
    let frame := (s.frameOf e.line).toNat
    let index := s.indexOf e.line
    let s := s.calBoundary n index
    let c := s.calCh n
    let new := (upset.map (·.val)).filter (fun i => !c.badActive.contains i)
    let s := s.setCalCh n { c with badActive := c.badActive ++ new }
    let m := 2 ^ s.depth n - 1
    let (s, px) := match e.px with
      | none => (s, List.replicate (s.outWidth n) m)
      | some raw =>
        let s := s.setFill n ((s.hbCh n).fill - s.lineBlocks n * 8)
        let s := s.coefErrors n
        let (px, lo, hi, miss) := s.calPixels n raw
        let s := s.count (F.calCnt_count 4) n lo
        let s := s.count (F.calCnt_count 5) n hi
        (s.count (F.calCnt_count 3) n miss, px)
    let c := s.calCh n
    let missing := (if index == 0 then 0 else c.missing) + b2n e.px.isNone
    let line : CalLine := { line := e.line, frame := frame, index := index, miss := e.px.isNone, px := px }
    let s := s.setCalCh n { c with missing := missing, out := c.out ++ [line] }
    let s := if index + 1 == s.frameLen then s.calFrameEnd n frame missing else s
    .next ((s.lookWrite n line).statsLine n line)

end Sys2Proof.Machine
end

