-- ==== Sys2Proof/Machine/Layout.lean ====
section
/-! DEFINITION. The layout ingress (R321 to R335): jobs from the host and the network, the header, order and key checks,
output space, results; and the Mould's choice of its next band (R343). -/

namespace Sys2Proof.Machine

/-! ### Causes of a job's failure (R332) and of a gap (R383) -/
namespace Lc
def length : Nat := 1
def magic : Nat := 2
def headerCrc : Nat := 3
def fields : Nat := 4
def geometry : Nat := 5
def order : Nat := 6
def key : Nat := 7
def unwrap : Nat := 8
def tag : Nat := 9
def decompress : Nat := 10
def classTable : Nat := 11
def memory : Nat := 12
def mode : Nat := 13
end Lc

namespace Gc
def job : Nat := 0x01
def sheet : Nat := 0x02
def check : Nat := 0x03
def late : Nat := 0x04
def wrongStripe : Nat := 0x05
def stop : Nat := 0x06
def warn : Nat := 0x07
def crit : Nat := 0x08
def link : Nat := 0x09
def interlock : Nat := 0x0A
def driverReject : Nat := 0x0B
def shotLate : Nat := 0x0C
def shotSkip : Nat := 0x0D
def ledger : Nat := 0x0E
def vatEcc : Nat := 0x0F
def rasterRange : Nat := 0x10
end Gc

/-- The status code of a cause. -/
def layoutStatus (cause : Nat) : Nat :=
  if cause ≤ 5 then St.headerReject else if cause = 6 then St.seqGap else if cause ≤ 9 then St.authFail
  else if cause ≤ 11 then St.badArg else if cause = 12 then St.uncorrectable else St.notInMode

/-! Counters of the layout ingress and of the Mould, by place. -/
namespace Yc
def jobs : Nat := 0
def jobFail : Nat := 1
def authFail : Nat := 2
def submitFull : Nat := 3
def resultLost : Nat := 4
def dgramBad : Nat := 5
def dgramGap : Nat := 6
def outWait : Nat := 7
end Yc

namespace Mc
def bands : Nat := 0
def shapes : Nat := 1
def satPx : Nat := 2
def malformed : Nat := 3
def starved : Nat := 4
end Mc

/-- Islands of the ingress, the Mould, the Watermark and slice 0. -/
def islLayout : Nat := 0x88
def islMould : Nat := 0x89
def islWm : Nat := 0x8A
def islLaid : Nat := 0x90

/-! ### Jobs -/

/-- The job of a number. -/
def State.job (s : State) (id : Nat) : Option Job := s.layout.jobs.find? (fun j => j.id == id)

/-- The state with a job replaced. -/
def State.setJob (s : State) (j : Job) : State :=
  { s with layout.jobs := s.layout.jobs.map (fun x => if x.id == j.id then j else x) }

/-- The state without a job. -/
def State.dropJob (s : State) (id : Nat) : State :=
  { s with layout.jobs := s.layout.jobs.filter (fun x => x.id != id), layout.order := s.layout.order.filter (· != id) }

/-- A job neither verified nor failed. -/
def Job.unfinished (j : Job) : Bool :=
  match j.stage with
  | .failed _ => false
  | _ => j.ok + j.bad < j.count || j.count == 0

/-- QUEUED and FREE (R326). -/
def State.showQueue (s : State) : State :=
  let n := s.layout.queue.length
  (s.wr F.layoutStat_queued 0 n).wr F.layoutStat_free 0 (64 - n)

/-- ES and EB (R331). -/
def State.expect (s : State) (stripe band : Nat) : State :=
  (s.wr F.layoutExpectStripe_value 0 stripe).wr F.layoutExpectBand_value 0 band

/-- The head result in its registers (R335). -/
def State.showResult (s : State) : State :=
  let r := s.layout.results.headD ⟨0, 0, 0, false, 0, 0, 0⟩
  let s := s.wr F.layoutResultTag_tag 0 r.tag
  let s := s.wr F.layoutResult_code 0 r.code
  let s := s.wr F.layoutResult_cause 0 r.cause
  let s := s.wr F.layoutResult_source 0 (b2n r.network)
  let s := s.wr F.layoutResult_level 0 s.layout.results.length
  let s := s.wr F.layoutResultBands_bandsOk 0 (min 65535 r.ok)
  let s := s.wr F.layoutResultBands_bandsBad 0 (min 65535 r.bad)
  s.wr F.layoutResultJobid_jobId 0 r.jobId

/-- A result posted (R335, R353). -/
def State.postResult (s : State) (j : Job) (code cause ok bad : Nat) : State :=
  let s := if 64 ≤ s.layout.results.length then s.count (F.layoutCnt_count Yc.resultLost) 0 1 else
    { s with layout.results := s.layout.results ++ [JobResult.mk (if j.network then j.jobId else j.tag) code cause j.network ok bad j.jobId] }
  let s := s.showResult
  let s := s.event 178 0 islLayout
  if code == St.done then s else s.event 179 0 islLayout

/-! ### The Mould's next band (R343) -/

/-- The job whose band the Mould starts next, and that band. -/
def State.nextBand (s : State) : Option (Job × Nat) :=
  (s.layout.order.filterMap s.job).findSome? (fun j => if j.fed < j.count then some (j, j.first + j.fed) else none)

/-- STATE of the Mould while it waits, and STARVED (R343). -/
def State.mouldLook (s : State) : State :=
  let st (n : Nat) (s : State) : State := s.wr F.mouldStat_state 0 n
  if s.mould.running.isSome then st 1 s
  else if s.mode != Md.expose then st 0 s
  else
    let starve (inst b : Nat) (s : State) : State :=
      if s.mould.starved == some (inst, b) then s else
      { s.count (F.mouldCnt_count Mc.starved) 0 1 with mould.starved := some (inst, b) }
    match s.nextBand with
    | some (j, b) =>
      if 3 ≤ s.wm.bands.length then st 2 s else
      match j.stage with
      | .verified => st 0 s
      | .failed _ => st 0 s
      | _ => st 3 (starve (if b == 0 then s.mould.inst + 1 else s.mould.inst) b s)
    | none =>
      -- within a stripe whose next job has not come yet
      if 0 < s.mould.next && s.mould.next < s.mould.bands then
        if 3 ≤ s.wm.bands.length then st 2 s else st 3 (starve s.mould.inst s.mould.next s)
      else st 0 s

/-! ### Failure and completion of jobs -/

/-- A job whose every band the Mould has started and the Watermark has reported is done with. -/
def State.reapJob (s : State) (id : Nat) : State :=
  match s.job id with
  | none => s
  | some j => if j.ok + j.bad < j.count || j.fed < j.count || s.mould.running.any (·.1 == id) then s else s.dropJob id

/-- A job fails (R332 to R335): its result is posted, its output space freed; its bands wait for their turn. -/
def State.jobFail (s : State) (id cause : Nat) : State :=
  match s.job id with
  | none => s
  | some j =>
    let s := s.setJob { j with stage := .failed cause, out := none, body := none }
    let s := s.count (F.layoutCnt_count Yc.jobFail) 0 1
    let s := if layoutStatus cause == St.authFail then s.count (F.layoutCnt_count Yc.authFail) 0 1 else s
    let s := s.postResult j (layoutStatus cause) cause 0 0
    let s := if s.layout.cur == some id then { s with layout.cur := none }.wr F.layoutStat_state 0 0 else s
    let s := if s.layout.order.contains id then s else s.dropJob id
    s.mouldLook

/-- The Watermark reports a band of a job (R335, R351). -/
def State.bandReported (s : State) (id : Nat) (released : Bool) : State :=
  match s.job id with
  | none => s
  | some j =>
    let j := if released then { j with ok := j.ok + 1 } else { j with bad := j.bad + 1 }
    let s := s.setJob j
    let s := if j.ok + j.bad != j.count then s else
      match j.stage with
      | .failed _ => s
      | _ => s.postResult j St.done 0 j.ok j.bad
    s.reapJob id

/-! ### Header and order (R322, R331, R332) -/

/-- A job with the fields of its header. -/
def Job.withHeader (j : Job) (h : Bytes) : Job :=
  { j with
    format := leAt h 5 1, codec := leAt h 6 1, slot := leAt h 7 1, stripe := leAt h 8 4, stripeBands := leAt h 12 4
    first := leAt h 16 4, count := leAt h 20 4, cipherLen := leAt h 24 4, plainLen := leAt h 28 4
    classCrc := leAt h 32 4 }

/-- The length a header gives its job (R322). -/
def Job.total (j : Job) : Nat := 144 + 8 * j.count + j.cipherLen

/-- The job is in order (R331). -/
def State.inOrder (s : State) (j : Job) : Bool :=
  let es := s.rd F.layoutExpectStripe_value
  let eb := s.rd F.layoutExpectBand_value
  (j.stripe == es && j.first == eb) || (eb == 0 && j.first == 0) ||
    (s.layout.ended && j.stripe == (es + 1) % 2 ^ 32 && j.first == 0)

/-- Checks 1 to 6 (R332): `lengthOk` answers check 1. -/
def State.headerCause (s : State) (j : Job) (h : Bytes) (lengthOk : Bool) : Option Nat :=
  let eb := s.rd F.layoutExpectBand_value
  let outSize := match s.region 8 with
    | some r => r.size
    | none => 0
  let within := j.stripe == s.rd F.layoutExpectStripe_value && 0 < eb
  if !lengthOk then some Lc.length
  else if h.take 4 != ofNats [0x4C, 0x4A, 0x4F, 0x42] then some Lc.magic
  else if crc32c (h.take 124) != leAt h 124 4 then some Lc.headerCrc
  else if leAt h 4 1 != 1 || !(j.format == 1 || j.format == 2) || 3 < j.codec || (sub h 92 32).any (· != 0) ||
      (j.codec == 0 && j.plainLen != j.cipherLen) then some Lc.fields
  else if j.count == 0 || 65535 < j.count || j.stripeBands < j.first + j.count ||
      (within && j.stripeBands != s.layout.stripeBands) ||
      (j.format == 2 && j.plainLen != 524288 * j.count) || outSize < j.plainLen then some Lc.geometry
  else if !s.inOrder j then some Lc.order
  else none

/-- A job in order advances the expected position (R331). -/
def State.placeJob (s : State) (j : Job) : State :=
  let s := s.expect j.stripe (j.first + j.count)
  { s with layout.order := s.layout.order ++ [j.id], layout.ended := j.first + j.count == j.stripeBands,
           layout.stripeBands := j.stripeBands }

/-! ### Output and staging space (R329, R333) -/

/-- The lowest base at which `len` bytes lie within a region clear of the ranges in use. -/
def firstFit (r : Region) (len : Nat) (used : List (Nat × Nat)) : Option Nat :=
  let fits (b : Nat) : Bool := b + len ≤ r.base + r.size && used.all (fun u => b + len ≤ u.1 || u.1 + u.2 ≤ b)
  ((r.base :: used.map (fun u => (u.1 + u.2 + 63) / 64 * 64)).filter fits).foldl
    (fun m b => some (match m with
      | none => b
      | some a => min a b)) none

/-- Output space for `len` bytes, where there is some. -/
def State.outputSpace (s : State) (len : Nat) : Option Nat :=
  match s.region 8 with
  | none => none
  | some r => firstFit r len (s.layout.jobs.filterMap (fun j => j.out.map (fun b => (b, j.plainLen))))

/-- Bytes of the staging region that hold data. -/
def State.stagingUsed (s : State) : Nat :=
  (s.layout.jobs.map (fun j => (j.body.getD []).length)).sum +
    (s.layout.streams.map (fun e => (e.2.data.getD []).length)).sum

/-- `len` bytes of a job from offset `off`: from the host job region or from staging. -/
def State.jobBytes (s : State) (j : Job) (off len : Nat) : Option Bytes :=
  match j.body with
  | some b => some (sub b off len)
  | none => if j.network then some [] else s.readMem (j.addr + off) len

/-- The record of a failed read of a job. -/
def State.jobReadFailed (s : State) (j : Job) (off len : Nat) : State := s.readFailed 13 (j.addr + off) len

/-! ### From the host (R325, R326) -/

/-- LAYOUT_SUBMIT (R325, R326): a write of LAYOUT_SUBMIT_TAG. -/
def execLayoutSubmit (tag : Word) (s : State) : Out :=
  let addr := s.rd64 F.layoutSubmitAddrLo_addr F.layoutSubmitAddrHi_addr / 64 * 64
  let id := s.layout.nextId
  let j : Job := { id := id, addr := addr, len := s.rd F.layoutSubmitLen_len, tag := tag.toNat }
  if !s.exposeImage || !(s.mode == Md.configure || s.mode == Md.expose) then
    let s := s.count (F.layoutCnt_count Yc.jobFail) 0 1
    .next (s.postResult j St.notInMode Lc.mode 0 0)
  else if 64 ≤ s.layout.queue.length then
    let s := s.up F.layoutStat_submitFull
    let s := s.count (F.layoutCnt_count Yc.submitFull) 0 1
    .next (s.postResult j St.busy 0 0 0)
  else
    let s := s.count (F.layoutCnt_count Yc.jobs) 0 1
    let s := { s with layout.nextId := id + 1, layout.jobs := s.layout.jobs ++ [j], layout.queue := s.layout.queue ++ [id] }
    .next s.showQueue

/-! ### From the network (R327 to R330) -/

def State.lstream (s : State) (j : Nat) : LayoutStream := Sparse.get (fun _ => {}) s.layout.streams j
def State.setLstream (s : State) (j : Nat) (v : LayoutStream) : State :=
  { s with layout.streams := Sparse.set (fun _ => {}) s.layout.streams j v }

/-- A job in progress on a stream fails: one whose header has passed is known by its number. -/
def State.streamFail (s : State) (j cause : Nat) : State :=
  let v := s.lstream j
  let s := s.setLstream j {}
  match v.job with
  | some (id, _) => s.jobFail id cause
  | none =>
    let s := s.count (F.layoutCnt_count Yc.jobFail) 0 1
    s.postResult { id := 0, network := true } (layoutStatus cause) cause 0 0

/-- The header checks of a network job, once its first 128 bytes have come (R329). -/
def State.streamHeader (s : State) (j : Nat) : State :=
  let v := s.lstream j
  match v.data, v.job with
  | some d, none =>
    if d.length < 128 then s else
    let h := d.take 128
    let size := match s.region 7 with
      | some r => r.size
      | none => 0
    let job : Job := { ({ id := s.layout.nextId, network := true } : Job).withHeader h with jobId := leAt h 36 4 }
    let job := { job with tag := job.jobId, len := job.total }
    match s.headerCause job h (job.total ≤ 4294967295 && job.total ≤ size) with
    | some c =>
      let job := if c ≤ Lc.headerCrc then { job with jobId := 0 } else job
      let s := s.setLstream j {}
      let s := s.count (F.layoutCnt_count Yc.jobFail) 0 1
      s.postResult job (layoutStatus c) c 0 0
    | none =>
      let s := { s with layout.nextId := job.id + 1, layout.jobs := s.layout.jobs ++ [job] }
      let s := s.setLstream j { v with job := some (job.id, job.total) }
      (s.placeJob job).mouldLook
  | _, _ => s

/-- A complete network job enters the queue, or waits in staging (R329). -/
def State.enqueueStaged (s : State) : State :=
  match s.layout.staged with
  | id :: rest =>
    if 64 ≤ s.layout.queue.length then s else
    let s := s.count (F.layoutCnt_count Yc.jobs) 0 1
    { s with layout.staged := rest, layout.queue := s.layout.queue ++ [id] }.showQueue
  | [] => s

/-- The data of a datagram taken on a stream (R329). -/
def State.streamData (s : State) (j : Nat) (start end_ : Bool) (d : Bytes) : State :=
  let s := if start then
      let s := if (s.lstream j).data.isSome then s.streamFail j Lc.length else s
      s.setLstream j { data := some [] }
    else s
  let v := s.lstream j
  match v.data with
  | none => s
  | some old =>
    let s := (s.setLstream j { v with data := some (old ++ d) }).streamHeader j
    let v := s.lstream j
    match v.data, v.job with
    | some all, some (id, total) =>
      if total < all.length || (end_ && all.length < total) then s.streamFail j Lc.length
      else if end_ then
        let s := s.setLstream j {}
        match s.job id with
        | some job =>
          let s := s.setJob { job with body := some all }
          let s := { s with layout.staged := s.layout.staged ++ [id] }
          if s.layout.staged.length == 1 then s.enqueueStaged else s
        | none => s
      else s
    | some _, none => if end_ then s.streamFail j Lc.length else s
    | none, _ => s

/-- LAYOUT_DGRAM_RX (R328, R329, R330): the UDP payload of a datagram to LAYOUT_UDP_PORT. -/
def State.layoutDatagram (s : State) (bs : Bytes) : State :=
  let p := leAt bs 4 2
  let n := bs.length - 16
  let ok := 16 < bs.length && n ≤ 8192 && leAt bs 0 2 == 0x4A4C && leAt bs 2 1 == 1 && leAt bs 3 1 < 4 &&
    leAt bs 6 2 == 0 && 512 ≤ p && p < 768 && leAt bs 12 4 == crc32c (bs.take 12 ++ bs.drop 16)
  if !ok || !s.flag F.lstreamCfg_enable (p - 512) then s.count (F.layoutCnt_count Yc.dgramBad) 0 1 else
  let j := p - 512
  let used := (bs.length + 63) / 64
  let s := s.wr F.lstreamCfg_granted j (s.rd F.lstreamCfg_granted j - used)
  let gaps := s.rd F.sportGaps_gaps p
  let (s, take) := s.takeSeq p 32 (leAt bs 8 4) none
  if !take then s else
  let s := s.wr F.lstreamSeq_seq j (leAt bs 8 4)
  let s := if s.rd F.sportGaps_gaps p == gaps then s else
    let s := s.count (F.layoutCnt_count Yc.dgramGap) 0 1
    if (s.lstream j).data.isSome then s.streamFail j Lc.order else s
  s.streamData j (bit (leAt bs 3 1) 0) (bit (leAt bs 3 1) 1) (bs.drop 16)

/-- Credits a layout stream is granted now (R330): an equal share of the staging space that is free and promised to
nobody. -/
def State.layoutGrant (s : State) (j : Nat) : State :=
  if !s.flag F.lstreamCfg_enable j then s else
  let size := match s.region 7 with
    | some r => r.size
    | none => 0
  let on := (List.range 256).filter (fun i => s.flag F.lstreamCfg_enable i)
  let promised := (on.map (fun i => s.rd F.lstreamCfg_granted i)).sum
  let free := (size - s.stagingUsed) / 64
  let own := s.rd F.lstreamCfg_granted j
  let more := min (min (free / on.length - own) (free - promised)) (32767 - own)
  (s.wr F.lstreamCfg_granted j (own + more)).grant (512 + j) more

/-- LAYOUT_STAGED_ENQUEUE (R329). -/
def execLayoutStagedEnqueue (s : State) : Out := .next s.enqueueStaged

/-! ### The checks and the start of decryption (R332, R333) -/

/-- The job's key as unwrapped, or the unwrap's failure (R332): the job waits for its output space. -/
def State.keyOpened (s : State) (j : Job) : Option Nat → State
  | none => s.jobFail j.id Lc.unwrap
  | some k =>
    let s := s.setJob { j with key := k, stage := .waitOut }
    if (s.outputSpace j.plainLen).isSome then s
    else (s.count (F.layoutCnt_count Yc.outWait) 0 1).wr F.layoutStat_state 0 4

/-- Checks 7 and 8, and the wait for output space (R323, R332, R333). -/
def State.keyChecks (s : State) (j : Job) (h : Bytes) : State :=
  let s := s.wr F.layoutStat_state 0 2
  match (if j.slot < 16 then Sparse.get (fun _ => none) s.layoutKeys j.slot else none) with
  | none => s.jobFail j.id Lc.key
  | some kek =>
    s.keyOpened j (keyUnwrap kek (beAt h 52 40))

/-- LAYOUT_JOB_START (R326, R331, R332). -/
def execLayoutJobStart (s : State) : Out :=
  if s.mode != Md.expose || !s.flag F.layoutCtl_enable || s.layout.cur.isSome then .next s else
  match s.layout.queue with
  | [] => .next s
  | id :: rest =>
    let s := { s with layout.queue := rest, layout.cur := some id }.showQueue.wr F.layoutStat_state 0 1
    match s.job id with
    | none => .next { s with layout.cur := none }
    | some j =>
      if j.network then
        match j.stage with
        | .failed _ => .next { s with layout.cur := none }
        | _ => .next ((s.keyChecks j ((j.body.getD []).take 128)).mouldLook)
      else
        let inside := match s.region 6 with
          | some r => r.holds j.addr j.len
          | none => false
        if j.len < 144 || !inside then .next (s.jobFail id Lc.length) else
        match s.jobBytes j 0 128 with
        | none => .next ((s.jobReadFailed j 0 128).jobFail id Lc.memory)
        | some h =>
          let j := j.withHeader h
          match s.headerCause j h (j.len == j.total) with
          | some c =>
            let j := { j with jobId := if c ≤ Lc.headerCrc then 0 else leAt h 36 4, count := 0 }
            .next ((s.setJob j).jobFail id c)
          | none =>
            let j := { j with jobId := leAt h 36 4 }
            let s := (s.setJob j).placeJob j
            .next ((s.keyChecks j h).mouldLook)

/-- LAYOUT_DECRYPT_START (R333): the job takes its output space, and an engine decompresses it. -/
def execLayoutDecryptStart (s : State) : Out :=
  match s.layout.cur.bind s.job with
  | none => .next s
  | some j =>
    if j.stage != .waitOut then .next s else
    match s.outputSpace j.plainLen with
    | none => .next s
    | some base => .next ((s.setJob { j with stage := .decrypt, out := some base }).wr F.layoutStat_state 0 3)

/-- LAYOUT_JOB_VERIFIED (R323, R333): the tag is known and the engine has ended. -/
def execLayoutJobVerified (s : State) : Out :=
  match s.layout.cur.bind s.job with
  | none => .next s
  | some j =>
    match j.codecEnd with
    | none => .next s
    | some (cause, made) =>
      if j.stage != .decrypt then .next s else
      let head := 128 + 8 * j.count
      match s.jobBytes j 0 j.total with
      | none => .next ((s.jobReadFailed j 0 j.total).jobFail j.id Lc.memory)
      | some b =>
        let iv := beAt b 40 12
        let tag := gcmTag j.key iv (b.take head) (sub b head j.cipherLen)
        if cause == some 0x04 then .next (s.jobFail j.id Lc.memory)
        else if tag != beAt b (head + j.cipherLen) 16 then .next (s.jobFail j.id Lc.tag)
        else if cause.isSome || made != j.plainLen then .next (s.jobFail j.id Lc.decompress)
        else
          let s := s.setJob { j with stage := .verified, table := sub b 128 (8 * j.count), body := none }
          let s := { s with layout.cur := none }.wr F.layoutStat_state 0 0
          .next s.mouldLook

/-! ### Results and control (R331, R335) -/

/-- LAYOUT_RESULT_POP (R335). -/
def execLayoutResultPop (s : State) : Out := .next { s with layout.results := s.layout.results.tail }.showResult

/-- The next job starts a stripe (R331). -/
def State.stripeReset (s : State) : State := { s.wr F.layoutExpectBand_value 0 0 with layout.ended := false }

/-- STRIPE_RESET (R331). -/
def execStripeReset (s : State) : Out := .next s.stripeReset

/-- The ingress at the exit from EXPOSE (R332, R351): every unfinished job completes with NOT_IN_MODE, and the queue is
emptied. -/
def State.layoutStop (s : State) : State :=
  let ids := s.layout.jobs.map (·.id)
  let s := forAll ids (fun id s =>
    match s.job id with
    | some j => if j.unfinished then s.jobFail id Lc.mode else s
    | none => s) s
  { s with layout.jobs := [], layout.queue := [], layout.staged := [], layout.order := [], layout.cur := none,
           layout.streams := [] }.showQueue.wr F.layoutStat_state 0 0

/-- The copies of the LAYOUT keys at island 0x88, and LAYOUT_KEY (R323, R536). -/
def State.copyLayoutKeys (s : State) : State :=
  let s := { s with layoutKeys := s.keys.filterMap (fun (e : Nat × KeySlot) => if e.2.kind == 1 then some (e.1, some e.2.key) else none) }
  s.wr F.layoutKeyStat_layoutKey 0 ((s.keys.map (fun (e : Nat × KeySlot) => if e.2.kind == 1 then 2 ^ e.1 else 0)).sum)

end Sys2Proof.Machine
end

