-- ==== Sys2Proof/Machine/Islands.lean ====
section
/-! DEFINITION. The clock islands (R25 to R27, R39): which IDs are assigned, what the monitor shows of each, power gating
and isolation. -/

namespace Sys2Proof.Machine

/-- The assigned island IDs (R26). -/
def islandAssigned (i : Nat) : Bool :=
  i ≤ 9 || (0x10 ≤ i && i ≤ 0x1F) || (0x20 ≤ i && i ≤ 0x2B) || (0x30 ≤ i && i ≤ 0x35) || (0x40 ≤ i && i ≤ 0x75) ||
  (0x78 ≤ i && i ≤ 0x7A) || (0x80 ≤ i && i ≤ 0x84) || (0x88 ≤ i && i ≤ 0x8B) || (0x90 ≤ i && i ≤ 0x97) ||
  (0xA0 ≤ i && i ≤ 0xA3) || (0xB0 ≤ i && i ≤ 0xC1)

/-- What the monitor holds of an island. -/
def State.isl (s : State) (i : Nat) : Isl := Sparse.get (fun _ => {}) s.chief.islands i

/-- An island is power-gated. -/
def State.isGated (s : State) (i : Nat) : Bool := s.chief.gated.contains i

/-- CHIEF_ISL_STAT and CHIEF_ISL_FREQ show the island of CHIEF_ISL_SEL (R39). -/
def State.showIsl (s : State) : State :=
  let i := s.rd F.chiefIslSel_isl
  if !islandAssigned i then (s.setReg (F.chiefIslStat_present.addr 0) 0).setReg (F.chiefIslFreq_freqKhz.addr 0) 0 else
  let v := s.isl i
  let gated := s.isGated i
  let w := 1 + b2n v.clkOk * 2 + b2n gated * 4 + b2n v.isolated * 8 + b2n v.fabricErr * 16 +
    unsigned 8 v.freqErr * 2 ^ 8 + i * 2 ^ 24
  let s := s.setReg (F.chiefIslStat_present.addr 0) (BitVec.ofNat 32 w)
  s.wr F.chiefIslFreq_freqKhz 0 (if gated then 0 else v.freqKhz)

/-- What the monitor holds of an island, replaced. -/
def State.setIsl (s : State) (i : Nat) (v : Isl) : State :=
  { s with chief.islands := Sparse.set (fun _ => {}) s.chief.islands i v }.showIsl

/-- An island power-gated (R25). -/
def State.gate (s : State) (i : Nat) : State :=
  if s.isGated i then s else { s with chief.gated := s.chief.gated ++ [i] }.showIsl

/-- An island powered. -/
def State.ungate (s : State) (i : Nat) : State :=
  { s with chief.gated := s.chief.gated.filter (· != i) }.showIsl

/-- An island isolated for its test, and rejoined (R247). -/
def State.isolate (s : State) (i : Nat) (on : Bool) : State := s.setIsl i { s.isl i with isolated := on }

end Sys2Proof.Machine
end

