-- ==== Sys2Proof/Machine/Operators.lean ====
section
/-! DEFINITION. The detection operators (R258 to R278): filters, background, threshold, morphology, bit by bit, and the
rules of their PARAM bytes (R266, R267). -/

namespace Sys2Proof.Machine

/-! ### Elements (R258, R262, R263) -/

/-- MISS of a GREY element. -/
def missGrey : Int := -32768

/-- rsr(s, k): a right shift that rounds a half upwards (R262). -/
def rsr (s : Int) (k : Nat) : Int := if k == 0 then s else asr (s + 2 ^ (k - 1)) k

/-- sat16 (R262). -/
def sat16 (s : Int) : Int := clampInt (-32767) 32767 s

/-- A signed byte, a signed and an unsigned 16-bit field of PARAM. -/
def pI8 (p : Bytes) (i : Nat) : Int := signed 8 (leAt p i 1)
def pU8 (p : Bytes) (i : Nat) : Nat := leAt p i 1
def pI16 (p : Bytes) (i : Nat) : Int := signed 16 (leAt p i 2)
def pU16 (p : Bytes) (i : Nat) : Nat := leAt p i 2

/-- The column that stands for column `x` of a plane of `w` columns (R263); `none` outside with BORDER 2. -/
def borderIndex (border w : Nat) (x : Int) : Option Nat :=
  if 0 ≤ x && x < w then some x.toNat else
  match border with
  | 2 => none
  | 1 =>
    let m := if x < 0 then -x else 2 * ((w : Int) - 1) - x
    some (clampInt 0 ((w : Int) - 1) m).toNat
  | _ => some (clampInt 0 ((w : Int) - 1) x).toNat

/-- A window over the rows of one plane: the element at row `r`, column `x`, after the borders of R263 and R264. `rows`
answers the row of a line number of the stream, `n` is the stream's length where its end is known. -/
structure Win (α : Type) where
  row : Nat → Option (Array α)
  total : Option Nat
  border : Nat
  outside : α

/-- The stream row that stands for row `r` (R264). -/
def Win.rowOf {α : Type} (w : Win α) (r : Int) : Option (Array α) :=
  match w.total with
  | some n => (borderIndex w.border n r).bind w.row
  | none => if 0 ≤ r then w.row r.toNat else
      match w.border with
      | 2 => none
      | 1 => w.row (-r).toNat
      | _ => w.row 0

/-- The element at row `r`, column `x`. -/
def Win.at {α : Type} (w : Win α) (r x : Int) : α :=
  match w.rowOf r with
  | none => w.outside
  | some a =>
    match borderIndex w.border a.size x with
    | none => w.outside
    | some i => a.getD i w.outside

/-- Integers from −k to k. -/
def around (k : Nat) : List Int := (List.range (2 * k + 1)).map (fun (i : Nat) => (i : Int) - k)

/-! ### Filters (R269 to R271) -/

/-- OUT of a filter (R270), with whether the last sat16 changed the value. -/
def filterOut (mode : Nat) (v : Int) : Int × Nat :=
  let v := if mode == 1 then (v.natAbs : Int) else if mode == 2 then max v 0 else v
  (sat16 v, b2n (sat16 v != v))

/-- SEP_FILTER at row `y`, column `i` (R270): the output element and how many elements sat16 changed. -/
def sepFilterAt (p : Bytes) (w : Win Int) (y i : Int) : Int × Nat :=
  let rh := pU8 p 0
  let rv := pU8 p 1
  let substitute := bit (pU8 p 4) 2
  let c0 := w.at y i
  let cells := (around rv).flatMap (fun l => (around rh).map (fun k => w.at (y + l) (i + k)))
  if (!substitute && cells.any (· == missGrey)) || (substitute && c0 == missGrey) then (missGrey, 0) else
  let x (r c : Int) : Int := let v := w.at r c; if v == missGrey then c0 else v
  let hs := (around rv).map (fun l =>
    let sum := (around rh).foldl (fun a k => a + pI8 p (15 + k).toNat * x (y + l) (i + k)) 0
    let h := rsr sum (pU8 p 2)
    (l, sat16 h, b2n (sat16 h != h)))
  let v := rsr (hs.foldl (fun a h => a + pI8 p (26 + h.1).toNat * h.2.1) 0) (pU8 p 3) + pI16 p 6
  let (o, n) := filterOut (bits (pU8 p 4) 3 2) v
  (o, hs.foldl (fun a h => a + h.2.2) n)

/-- FULL_FILTER at row `y`, column `i` (R271). -/
def fullFilterAt (p : Bytes) (w : Win Int) (y i : Int) : Int × Nat :=
  let r := pU8 p 0
  let substitute := bit (pU8 p 2) 2
  let c0 := w.at y i
  let cells := (around r).flatMap (fun l => (around r).map (fun k => w.at (y + l) (i + k)))
  if (!substitute && cells.any (· == missGrey)) || (substitute && c0 == missGrey) then (missGrey, 0) else
  let sum := (around r).foldl (fun a l => (around r).foldl (fun a k =>
    let v := w.at (y + l) (i + k)
    a + pI8 p (7 + (l + 3) * 7 + (k + 3)).toNat * (if v == missGrey then c0 else v)) a) 0
  filterOut (bits (pU8 p 2) 3 2) (rsr sum (pU8 p 1) + pI16 p 4)

/-! ### Background (R272, R273) -/

/-- The accumulator of one column at initialisation. -/
def backgroundInit (p : Bytes) : Int × Bool :=
  if bit (pU8 p 1) 1 then (pI16 p 4 * 65536, true) else (0, false)

/-- One element of BACKGROUND: output, accumulator after it, elements sat16 changed. `masked`: the mask's CLASS is at
least 1. -/
def backgroundAt (p : Bytes) (warm : Nat) (acc : Int × Bool) (x : Int) (masked : Bool) : Int × (Int × Bool) × Nat :=
  let asBackground := bit (pU8 p 1) 0
  if x == missGrey then (missGrey, acc, 0)
  else if !acc.2 then (if asBackground then x else 0, (x * 65536, true), 0)
  else
    let b := asr (acc.1 + 32768) 16
    let d := x - b
    let out := if asBackground then b else sat16 d
    let freeze := pU16 p 2
    let frozen := warm == 0 && ((freeze != 0 && (freeze : Int) < (d.natAbs : Int)) || masked)
    let acc' := if frozen then acc else (acc.1 + asr (x * 65536 - acc.1) (pU8 p 0), true)
    (out, acc', b2n (!asBackground && sat16 d != d))

/-! ### Threshold (R274, R275) -/

/-- cls_s of one plane's element. -/
def thresholdLevel (p : Bytes) (x : Int) : Nat :=
  let m := pU8 p 1
  let w : Int := if bit m 0 then (x.natAbs : Int) else if bit m 1 then -x else x
  ((List.range (pU8 p 0)).filter (fun k => pI16 p (2 + 2 * k) ≤ w)).length

/-- A CLASS element (R258). -/
def classElem (cls views : Nat) (miss : Bool) : Nat := cls + views * 8 + b2n miss * 128

/-- The fields of a CLASS element. -/
def elemClass (e : Nat) : Nat := bits e 0 3
def elemViews (e : Nat) : Nat := bits e 3 4
def elemMiss (e : Nat) : Bool := bit e 7

/-- THRESHOLD of one plane (COMBINE = 0). -/
def thresholdOne (p : Bytes) (plane : Nat) (x : Int) : Nat :=
  if x == missGrey then classElem 0 0 true else
  let c := thresholdLevel p x
  classElem c (if 1 ≤ c then 2 ^ plane else 0) false

/-- THRESHOLD of all planes (COMBINE = 1): planes with their elements. -/
def thresholdAll (p : Bytes) (xs : List (Nat × Int)) : Nat :=
  let ls := xs.map (fun x => (x.1, if x.2 == missGrey then 0 else thresholdLevel p x.2))
  let views := ls.foldl (fun a l => if 1 ≤ l.2 then a + 2 ^ l.1 else a) 0
  let miss := xs.any (fun x => x.2 == missGrey)
  if popcount 4 views < pU8 p 16 then classElem 0 0 miss
  else classElem (ls.foldl (fun a l => max a l.2) 0) views miss

/-! ### Morphology (R276 to R278) -/

/-- The offsets (dx, dy) of the structuring element. -/
def seOffsets (p : Bytes) : List (Int × Int) :=
  (List.range 49).filterMap (fun i =>
    if bit (pU8 p (4 + i / 8)) (i % 8) then some (((i % 7 : Nat) : Int) - 3, ((i / 7 : Nat) : Int) - 3) else none)

/-- A BIN_MORPH stage at row `y`, column `i` (R277). -/
def binStage (minClass : Nat) (se : List (Int × Int)) (dilate : Bool) (w : Win Nat) (y i : Int) : Nat :=
  let e := w.at y i
  let fg (v : Nat) : Bool := minClass ≤ elemClass v
  if dilate then
    let hits := (se.map (fun d => w.at (y - d.2) (i - d.1))).filter fg
    if hits.isEmpty then classElem 0 0 (elemMiss e) else
    classElem (hits.foldl (fun a v => max a (elemClass v)) 0) (hits.foldl (fun a v => a ||| elemViews v) 0) (elemMiss e)
  else if se.all (fun d => fg (w.at (y + d.2) (i + d.1))) && fg e then classElem (elemClass e) (elemViews e) (elemMiss e)
  else if se.all (fun d => fg (w.at (y + d.2) (i + d.1))) then classElem 0 (elemViews e) (elemMiss e)
  else classElem 0 0 (elemMiss e)

/-- A GREY_MORPH stage (R278). -/
def greyStage (se : List (Int × Int)) (dilate : Bool) (w : Win Int) (y i : Int) : Int :=
  let vs := (se.map (fun d => if dilate then w.at (y - d.2) (i - d.1) else w.at (y + d.2) (i + d.1))).filter
    (· != missGrey)
  match vs with
  | [] => missGrey
  | v :: t => t.foldl (fun a x => if dilate then max a x else min a x) v

/-- The rows of a stage's output over the input rows `lo` to `hi`, as a window for the second stage (R276). -/
def stageWin {α : Type} (w : Win α) (lo hi : Int) (f : Int → Int → α) : Win α :=
  let rows := (List.range (hi - lo + 1).toNat).map (fun (k : Nat) =>
    let r := lo + k
    (r, match (if 0 ≤ r then w.row r.toNat else none) with
      | some a => some ((List.range a.size).map (fun (i : Nat) => f r i)).toArray
      | none => none))
  { w with row := fun r => (rows.find? (fun e => e.1 == (r : Int))).bind (·.2) }

/-- One row of BIN_MORPH (R276, R277). -/
def binMorphRow (p : Bytes) (w : Win Nat) (y : Nat) (width : Nat) : List Nat :=
  let se := seOffsets p
  let mc := pU8 p 3
  let r : Int := pU8 p 1
  let op := pU8 p 0
  let cols := (List.range width).map (fun (i : Nat) => (i : Int))
  if op == 0 then cols.map (binStage mc se false w y)
  else if op == 1 then cols.map (binStage mc se true w y)
  else
    let first := op == 3
    let lo := max 0 ((y : Int) - r)
    let w2 := stageWin w lo (y + r) (binStage mc se first w)
    cols.map (binStage mc se (!first) w2 y)

/-- One row of GREY_MORPH, with the elements sat16 changed (R276, R278). -/
def greyMorphRow (p : Bytes) (w : Win Int) (y : Nat) (width : Nat) : List Int × Nat :=
  let se := seOffsets p
  let r : Int := pU8 p 1
  let op := pU8 p 0
  let cols := (List.range width).map (fun (i : Nat) => (i : Int))
  if op == 0 then (cols.map (greyStage se false w y), 0)
  else if op == 1 then (cols.map (greyStage se true w y), 0)
  else
    let first := op == 3 || op == 5
    let lo := max 0 ((y : Int) - r)
    let w2 := stageWin w lo (y + r) (greyStage se first w)
    let morph := cols.map (fun i => (i, greyStage se (!first) w2 y i))
    if op ≤ 3 then (morph.map (·.2), 0) else
    let outs := morph.map (fun e =>
      let x := w.at y e.1
      if x == missGrey || e.2 == missGrey then (missGrey, 0) else
      let d := if op == 4 then x - e.2 else e.2 - x
      (sat16 d, b2n (sat16 d != d)))
    (outs.map (·.1), outs.foldl (fun a o => a + o.2) 0)

/-! ### Class rules (R258 to R268) -/

namespace Oc
def sepFilter : Nat := 0x01
def fullFilter : Nat := 0x02
def background : Nat := 0x08
def threshold : Nat := 0x10
def binMorph : Nat := 0x20
def greyMorph : Nat := 0x21
def label : Nat := 0x30
def feature : Nat := 0x31
def kernel7 : Nat := 0x40
end Oc

/-- Vertical latency of a class under its PARAM bytes (R268). -/
def nodeLatency (op : Nat) (p : Bytes) : Nat :=
  if op == Oc.sepFilter then pU8 p 1
  else if op == Oc.fullFilter then pU8 p 0
  else if op == Oc.binMorph || op == Oc.greyMorph then (if pU8 p 0 ≤ 1 then pU8 p 1 else 2 * pU8 p 1)
  else 0

/-- Stream kinds: 0 GREY, 1 CLASS, 2 RUNLABEL, 3 FEATURES (R258, R268). -/
def kindIn (op : Nat) : Nat :=
  if op == Oc.binMorph || op == Oc.label then 1 else if op == Oc.feature then 2 else 0
def kindOut (op : Nat) : Nat :=
  if op == Oc.threshold || op == Oc.binMorph then 1
  else if op == Oc.label then 2 else if op == Oc.feature then 3 else 0

/-- A byte range of PARAM is 0. -/
def zeroFrom (p : Bytes) (a b : Nat) : Bool := (sub p a (b + 1 - a)).all (· == 0)

/-- The PARAM rules of a class (R234, R267, R269 to R279): `planes` is the number of planes in CH_MASK. -/
def paramOk (op planes : Nat) (p : Bytes) : Bool :=
  if op == Oc.sepFilter then
    pU8 p 0 ≤ 7 && pU8 p 1 ≤ 3 && pU8 p 2 ≤ 15 && pU8 p 3 ≤ 15 && bits (pU8 p 4) 3 2 != 3 && pU8 p 4 < 32 &&
      pU8 p 5 == 0 && zeroFrom p 30 55 &&
      (around 7).all (fun k => k.natAbs ≤ pU8 p 0 || pI8 p (15 + k).toNat == 0) &&
      (around 3).all (fun k => k.natAbs ≤ pU8 p 1 || pI8 p (26 + k).toNat == 0)
  else if op == Oc.fullFilter then
    1 ≤ pU8 p 0 && pU8 p 0 ≤ 3 && pU8 p 1 ≤ 15 && bits (pU8 p 2) 3 2 != 3 && pU8 p 2 < 32 && pU8 p 3 == 0 &&
      pU8 p 6 == 0 &&
      (around 3).all (fun dy => (around 3).all (fun dx =>
        (dy.natAbs ≤ pU8 p 0 && dx.natAbs ≤ pU8 p 0) || pI8 p (7 + (dy + 3) * 7 + (dx + 3)).toNat == 0))
  else if op == Oc.background then
    1 ≤ pU8 p 0 && pU8 p 0 ≤ 12 && pU8 p 1 < 4 && pI16 p 4 != -32768 && zeroFrom p 9 55
  else if op == Oc.threshold then
    let k := pU8 p 0
    1 ≤ k && k ≤ 7 && pU8 p 1 < 8 && !(bit (pU8 p 1) 0 && bit (pU8 p 1) 1) &&
      (List.range (k - 1)).all (fun i => pI16 p (2 + 2 * i) < pI16 p (4 + 2 * i)) &&
      (List.range 7).all (fun i => i < k || pI16 p (2 + 2 * i) == 0) &&
      (if bit (pU8 p 1) 2 then 1 ≤ pU8 p 16 && pU8 p 16 ≤ planes else pU8 p 16 == 0) && zeroFrom p 17 55
  else if op == Oc.binMorph || op == Oc.greyMorph then
    let r := pU8 p 1
    (if op == Oc.binMorph then pU8 p 0 ≤ 3 && 1 ≤ pU8 p 3 && pU8 p 3 ≤ 7 else pU8 p 0 ≤ 5 && pU8 p 3 == 0) &&
      1 ≤ r && r ≤ 3 && pU8 p 2 < 4 && !(seOffsets p).isEmpty &&
      (seOffsets p).all (fun d => d.1.natAbs ≤ r && d.2.natAbs ≤ r) && pU8 p 10 < 2 && zeroFrom p 11 55
  else if op == Oc.label then
    1 ≤ pU8 p 0 && pU8 p 0 ≤ 7 && pU8 p 1 == 0 && pU16 p 2 ≤ 4096 && pU16 p 8 ≤ 32768 && pU16 p 10 ≤ 32768 &&
      zeroFrom p 12 55
  else if op == Oc.feature then zeroFrom p 0 55
  else if op == Oc.kernel7 then pU8 p 49 ≤ 15 && pU8 p 50 < 2 && pU8 p 51 == 0 && zeroFrom p 54 55
  else false

/-- A PARAM change alters a field marked S (R266). -/
def sizeChanged (op : Nat) (old new : Bytes) : Bool :=
  if op == Oc.sepFilter then pU8 old 1 != pU8 new 1
  else if op == Oc.fullFilter then pU8 old 0 != pU8 new 0
  else if op == Oc.binMorph || op == Oc.greyMorph then
    let group (o : Nat) : Nat := if o ≤ 1 then 0 else if o ≤ 3 then 1 else 2
    pU8 old 1 != pU8 new 1 || group (pU8 old 0) != group (pU8 new 0)
  else false

end Sys2Proof.Machine
end

