-- ==== Sys2Proof/Machine/Labeller.lean ====
section
/-! DEFINITION. Streaming labelling and feature accumulation (R279 to R290): runs, the open-blob table, merges, splits
and closures, the sums of a blob, items and overflow summaries. -/

namespace Sys2Proof.Machine

/-! ### The Ridge's plain state -/

/-- A Ridge beyond its registers. -/
def State.ridge (s : State) (k : Nat) : Ridge := Sparse.get (fun _ => {}) s.ridges k
def State.setRidge (s : State) (k : Nat) (r : Ridge) : State :=
  { s with ridges := Sparse.set (fun _ => {}) s.ridges k r }

/-- A context of a Ridge: 0 for port 2k, 1 for port 2k + 1. -/
def State.ctx (s : State) (k c : Nat) : RidgeCtx := (s.ridge k).ctxs.getD c {}
def State.setCtx (s : State) (k c : Nat) (x : RidgeCtx) : State :=
  let r := s.ridge k
  s.setRidge k { r with ctxs := (if c == 0 then [x, r.ctxs.getD 1 {}] else [r.ctxs.getD 0 {}, x]) }

/-- Blocks of node `i` of Ridge `k`. -/
def nodeAt (k i : Nat) : Nat := 8 * k + i

/-! Counters of a node, in table order (R291). -/
namespace Nc
def sat : Nat := 0
def fullRuns : Nat := 1
def splits : Nat := 2
def merges : Nat := 3
def smallDrop : Nat := 4
def items : Nat := 5
def itemDrop : Nat := 6
def overflowItems : Nat := 7
end Nc

/-- A node counter advanced. -/
def State.nodeCount (s : State) (k i c n : Nat) : State := s.count (F.ridgeNodeCnt_count c) (nodeAt k i) n

/-! ### Runs (R280) -/

/-- The runs of a CLASS row: columns `a` to `b`, in increasing `a`. -/
def classRuns (minClass : Nat) (row : List Nat) : List (Nat × Nat) :=
  let step (st : List (Nat × Nat) × Option Nat × Nat) (e : Nat) : List (Nat × Nat) × Option Nat × Nat :=
    let (done, start, x) := st
    if minClass ≤ elemClass e then (done, some (start.getD x), x + 1)
    else match start with
      | some a => (done ++ [(a, x - 1)], none, x + 1)
      | none => (done, none, x + 1)
  match row.foldl step ([], none, 0) with
  | (done, some a, x) => done ++ [(a, x - 1)]
  | (done, none, _) => done

/-- An element with MISS = 1 lies in columns a − 1 to b + 1. -/
def missNear (row : List Bool) (a b : Nat) : Bool := ((row.drop (a - 1)).take (b + 2 - (a - 1))).any id

/-! ### One line of the labeller (R281 to R285) -/

/-- The labeller within one line: the shared table, what the line has done so far. -/
structure LabelRun where
  blobs : List Blob
  /-- Entries freed on this line, which no run of it may take. -/
  freed : List (Nat × Nat)
  nextSeq : Nat
  prev : List (Nat × Nat × Option Nat)
  runs : List (Nat × Nat × Option Nat)
  events : List BlobEvent
  /-- Blobs split on this line, to report with its closures. -/
  split : List (Nat × Int)
  fullRuns : Nat
  splits : Nat
  merges : Nat

/-- Entries in use: those held by open blobs and those freed on this line (R281). -/
def LabelRun.used (r : LabelRun) (c : Option Nat) : List Nat :=
  (r.blobs.filter (fun b => c.all (· == b.ctx))).map (·.entry) ++
    (r.freed.filter (fun f => c.all (· == f.1))).map (·.2)

/-- The blob of a context with a sequence number. -/
def LabelRun.find (r : LabelRun) (c seq : Nat) : Option Blob := r.blobs.find? (fun b => b.ctx == c && b.seq == seq)

/-- A blob replaced. -/
def LabelRun.setBlob (r : LabelRun) (c seq : Nat) (f : Blob → Blob) : LabelRun :=
  { r with blobs := r.blobs.map (fun b => if b.ctx == c && b.seq == seq then f b else b) }

/-- Runs of this line and the line before that named one blob name another. -/
def LabelRun.rename (r : LabelRun) (old new : Nat) : LabelRun :=
  let f (x : Nat × Nat × Option Nat) : Nat × Nat × Option Nat :=
    if x.2.2 == some old then (x.1, x.2.1, some new) else x
  { r with prev := r.prev.map f, runs := r.runs.map f }

/-- The next BLOB_SEQ: 0 never names a blob (R281). -/
def seqAfter (n : Nat) : Nat := if n == 2 ^ 32 - 1 then 1 else n + 1

/-- A blob due for a split is closed and its entry reopens (R284); answers the sequence number that stands for it. -/
def LabelRun.splitBlob (r : LabelRun) (c maxLines : Nat) (y : Int) (a seq : Nat) : LabelRun × Nat :=
  match r.find c seq with
  | none => (r, seq)
  | some b =>
    if y - b.first < maxLines then (r, seq) else
    let new := r.nextSeq
    let r := r.setBlob c seq (fun b => { b with seq := new, first := y, xFirst := a, prev := seq, joined := true })
    let r := { r with
      nextSeq := seqAfter new
      split := r.split ++ [(seq, y - 1)]
      splits := r.splits + 1
      events := r.events ++ [BlobEvent.opened new a seq] }
    (r.rename seq new, new)

/-- The survivor of a merge: smallest FIRST_LINE, then smallest X_FIRST; the model's choice between blobs equal in both
(two splits by one run) is the one split first. -/
def older (x y : Blob) : Blob :=
  if y.first < x.first || (y.first == x.first && y.xFirst < x.xFirst) then y else x

/-- One blob absorbed by another (R281). -/
def LabelRun.merge (r : LabelRun) (c into gone : Nat) : LabelRun :=
  match r.find c gone with
  | none => r
  | some g =>
    let r := { r with
      blobs := r.blobs.filter (fun b => !(b.ctx == c && b.seq == gone))
      freed := r.freed ++ [(c, g.entry)]
      merges := r.merges + 1
      events := r.events ++ [BlobEvent.merged into gone] }
    let r := r.setBlob c into (fun b => if b.prev == 0 then { b with prev := g.prev } else b)
    r.rename gone into

/-- An overflow run (R285). -/
def LabelRun.over (r : LabelRun) (a b : Nat) : LabelRun :=
  { r with
    runs := r.runs ++ [(a, b, none)], events := r.events ++ [BlobEvent.overflow a b], fullRuns := r.fullRuns + 1 }

/-- The lowest number not in a list, below `n`. -/
def lowestFree (used : List Nat) : Nat → Nat → Option Nat
  | 0, _ => none
  | fuel + 1, i => if used.contains i then lowestFree used fuel (i + 1) else some i

/-- One run of line `y` (R281, R284). -/
def LabelRun.run (maxLines limit c : Nat) (y : Int) (r : LabelRun) (ab : Nat × Nat) : LabelRun :=
  let (a, b) := ab
  let touched := r.prev.filter (fun x => x.1 ≤ b + 1 && a ≤ x.2.1 + 1)
  let seqs := (touched.filterMap (fun x => x.2.2)).eraseDups
  if !seqs.isEmpty then
    let (r, seqs) := seqs.foldl (fun (st : LabelRun × List Nat) q =>
      let (r, q') := st.1.splitBlob c maxLines y a q
      (r, st.2 ++ [q'])) (r, [])
    let blobs := seqs.filterMap (r.find c)
    match blobs with
    | [] => r
    | x :: t =>
      let keep := (t.foldl older x).seq
      let r := (seqs.filter (· != keep)).foldl (fun r q => r.merge c keep q) r
      let r := r.setBlob c keep (fun b => { b with joined := true, last := y })
      let ev := if touched.any (fun x => x.2.2.isNone) then [BlobEvent.overflowTouch keep] else []
      { r with runs := r.runs ++ [(a, b, some keep)], events := r.events ++ ev ++ [BlobEvent.joined keep a b] }
  else if !touched.isEmpty then r.over a b
  else
    let mine := r.used (some c)
    let all := r.used none
    match if mine.length < limit && all.length < 32768 then lowestFree all (all.length + 1) 0 else none with
    | none => r.over a b
    | some e =>
      let q := r.nextSeq
      let blob : Blob := { ctx := c, entry := e, seq := q, first := y, xFirst := a, prev := 0, joined := true, last := y }
      { r with
        blobs := r.blobs ++ [blob]
        nextSeq := seqAfter q
        runs := r.runs ++ [(a, b, some q)]
        events := r.events ++ [BlobEvent.opened q a 0, BlobEvent.joined q a b] }

/-- The parameters of a LABEL node (R279). -/
def labelMaxLines (p : Bytes) : Nat := if pU16 p 2 == 0 then 4096 else pU16 p 2
def labelLimit (p : Bytes) (c : Nat) : Nat :=
  let l := pU16 p (8 + 2 * c)
  if l == 0 then 32768 else l

/-- A line of the labeller: line `y`, or a flush step without runs (`none`), of context `c` (R280 to R285). `row` is the
CLASS row of the line. -/
def labelLine (p : Bytes) (c : Nat) (blobs : List Blob) (x : RidgeCtx) (y : Option Int) (row : List Nat) : LabelRun :=
  let adjacent := match y, x.runLine with
    | some y, some l => y == l + 1
    | none, some _ => true
    | _, none => false
  let miss := row.map elemMiss
  let prev := if adjacent then x.runs else []
  let ev0 := if y.isNone then [] else prev.filterMap (fun r => match r.2.2 with
    | some q => if missNear miss r.1 r.2.1 then some (BlobEvent.touchMiss q) else none
    | none => none)
  let start : LabelRun := {
    blobs := blobs.map (fun b => if b.ctx == c then { b with joined := false } else b)
    freed := [], nextSeq := x.nextSeq, prev := prev, runs := [], events := ev0, split := []
    fullRuns := 0, splits := 0, merges := 0 }
  let runs := if y.isNone then [] else classRuns (pU8 p 0) row
  let r := runs.foldl (fun r ab => r.run (labelMaxLines p) (labelLimit p c) c (y.getD 0) ab) start
  -- MISS elements beside the line's own runs, on it and on the line before
  let above := if adjacent then x.missRow else []
  let ev1 := r.runs.filterMap (fun q => match q.2.2 with
    | some seq => if missNear miss q.1 q.2.1 || missNear above q.1 q.2.1 then some (BlobEvent.touchMiss seq) else none
    | none => none)
  let closing := r.blobs.filter (fun b => b.ctx == c && !b.joined)
  let order (q : Nat) : Nat := unsigned 32 ((q : Int) - r.nextSeq)
  let ends := closing.map (fun b => (b.seq, b.last, false)) ++ r.split.map (fun e => (e.1, e.2, true))
  let sorted := ends.mergeSort (fun a b => order a.1 ≤ order b.1)
  let ev2 := sorted.map (fun e => BlobEvent.closed e.1 e.2.1 e.2.2 (leAt p 4 4))
  { r with
    blobs := r.blobs.filter (fun b => !(b.ctx == c && !b.joined))
    freed := r.freed ++ closing.map (fun b => (c, b.entry))
    events := r.events ++ ev1 ++ ev2 }

/-- The labeller of Ridge `k` at node `i` takes a line of context `c`: the table, its registers, the events. -/
def State.labelStep (s : State) (k i c : Nat) (y : Option Int) (row : List Nat) : State × List BlobEvent :=
  let x := s.ctx k c
  let r := labelLine (x.params.getD i []) c (s.ridge k).blobs x y row
  let n := nodeAt k i
  let held := (r.used none).length
  let s := s.setRidge k { s.ridge k with blobs := r.blobs }
  let s := s.setCtx k c { x with
    runs := r.runs, runLine := y.or x.runLine, missRow := row.map elemMiss, nextSeq := r.nextSeq }
  let s := s.nodeCount k i Nc.fullRuns r.fullRuns
  let s := (s.nodeCount k i Nc.splits r.splits).nodeCount k i Nc.merges r.merges
  let s := s.peak F.ridgeNodeTable_peak n held
  let s := s.wr F.ridgeNodeTable_used n r.blobs.length
  let s := if 24576 ≤ held then s.up F.ridgeNodeStat_tableHwm n else s
  (if 0 < r.fullRuns then s.up F.ridgeNodeStat_tableFull n else s, r.events)

/-! ### Feature accumulation (R286 to R288) -/

namespace Flag
def edgeL : Nat := 1
def edgeR : Nat := 2
def touchMiss : Nat := 4
def contPrev : Nat := 8
def contNext : Nat := 16
def overflow : Nat := 32
def overflowTouch : Nat := 64
def noIntensity : Nat := 128
def intensityMiss : Nat := 256
end Flag

/-- Σx and Σx² over `a` to `b`. -/
def sumX (a b : Nat) : Nat := (b + 1 - a) * (a + b) / 2
def sumXX (a b : Nat) : Nat :=
  let f (n : Nat) : Nat := n * (n + 1) * (2 * n + 1) / 6
  f b - (if a == 0 then 0 else f (a - 1))

def minOpt (a b : Option Int) : Option Int :=
  match a, b with
  | some x, some y => some (min x y)
  | some x, none => some x
  | none, y => y
def maxOpt (a b : Option Int) : Option Int :=
  match a, b with
  | some x, some y => some (max x y)
  | some x, none => some x
  | none, y => y

/-- A run's pixels added to its blob (R286, R288): `cls` the CLASS row, `grey` the IN_B row where the node has one (`hasB`). -/
def Sums.addRun (u : Sums) (y : Int) (a b : Nat) (cls : List Nat) (hasB : Bool) (grey : List Int) : Sums :=
  let n := b + 1 - a
  let dy := (y - u.first).toNat
  let px := (cls.drop a).take n
  let v := ((grey.drop a).take n).filter (· != missGrey)
  let vmiss := hasB && v.length < n
  { u with
    xMin := min u.xMin a
    xMax := max u.xMax b
    clsMax := px.foldl (fun m e => max m (elemClass e)) u.clsMax
    views := px.foldl (fun m e => m ||| elemViews e) u.views
    area := u.area + n
    sx := u.sx + sumX a b
    sy := u.sy + n * dy
    sxx := u.sxx + sumXX a b
    syy := u.syy + n * dy * dy
    sxy := u.sxy + dy * sumX a b
    sv := v.foldl (· + ·) u.sv
    vMin := v.foldl (fun m x => minOpt m (some x)) u.vMin
    vMax := v.foldl (fun m x => maxOpt m (some x)) u.vMax
    flags := u.flags ||| (if a == 0 then Flag.edgeL else 0) ||| (if b + 1 == cls.length then Flag.edgeR else 0) |||
      (if vmiss then Flag.intensityMiss else 0) }

/-- An absorbed blob's sums moved to the survivor's origin and added (R287). -/
def Sums.absorb (u g : Sums) : Sums :=
  let d := (g.first - u.first).toNat
  let n := g.area
  { u with
    prev := if u.prev == 0 then g.prev else u.prev
    xMin := min u.xMin g.xMin
    xMax := max u.xMax g.xMax
    clsMax := max u.clsMax g.clsMax
    views := u.views ||| g.views
    area := u.area + n
    sx := u.sx + g.sx
    sy := u.sy + (g.sy + n * d)
    sxx := u.sxx + g.sxx
    syy := u.syy + (g.syy + 2 * d * g.sy + n * d * d)
    sxy := u.sxy + (g.sxy + d * g.sx)
    sv := u.sv + g.sv
    vMin := minOpt u.vMin g.vMin
    vMax := maxOpt u.vMax g.vMax
    flags := u.flags ||| g.flags }

/-- A pixel box and area added to an overflow summary (R285, R289, R290). -/
def Overflow.add (o : Overflow) (area : Nat) (first last : Int) (xMin xMax clsMax views dropped : Nat) : Overflow :=
  if o.area == 0 && o.dropped == 0 then
    { area := area, dropped := dropped, first := first, last := last, xMin := xMin, xMax := xMax, clsMax := clsMax,
      views := views }
  else
    { area := o.area + area, dropped := o.dropped + dropped, first := min o.first first, last := max o.last last,
      xMin := min o.xMin xMin, xMax := max o.xMax xMax, clsMax := max o.clsMax clsMax, views := o.views ||| views }

/-- The item of a closed blob (R288, R289). -/
def Sums.item (u : Sums) (plane : Nat) (last : Int) (cont noIntensity : Bool) : Item where
  first := u.first
  height := (last - u.first).toNat + 1
  xMin := u.xMin
  xMax := u.xMax
  xFirst := u.xFirst
  plane := plane
  portSel := u.ctx
  clsMax := u.clsMax
  views := u.views
  area := u.area
  flags := u.flags ||| (if cont then Flag.contNext else 0) ||| (if u.prev != 0 then Flag.contPrev else 0) |||
    (if noIntensity then Flag.noIntensity else 0)
  sx := u.sx
  sy := u.sy
  sxx := u.sxx
  syy := u.syy
  sxy := u.sxy
  sv := u.sv
  vMin := u.vMin.getD missGrey
  vMax := u.vMax.getD missGrey
  seq := u.seq
  prev := u.prev
  dropped := 0

/-- The OVERFLOW item of a context (R289). -/
def Overflow.item (o : Overflow) (plane c : Nat) : Item where
  first := o.first
  height := min 4096 ((o.last - o.first).toNat + 1)
  xMin := o.xMin
  xMax := o.xMax
  xFirst := o.xMin
  plane := plane
  portSel := c
  clsMax := o.clsMax
  views := o.views
  area := o.area
  flags := Flag.overflow + Flag.noIntensity
  sx := 0
  sy := 0
  sxx := 0
  syy := 0
  sxy := 0
  sv := 0
  vMin := missGrey
  vMax := missGrey
  seq := 0
  prev := 0
  dropped := o.dropped

/-! ### The item FIFO and the crossing to the Couch (R290, R292, R243) -/

def RidgeOut.isItem : RidgeOut → Bool
  | .item _ => true
  | .marker _ => false

def RidgeOut.overflowOf (c : Nat) : RidgeOut → Bool
  | .item i => bit i.flags 5 && i.portSel == c
  | .marker _ => false

def RidgeOut.ordinary : RidgeOut → Bool
  | .item i => !bit i.flags 5
  | .marker _ => false

/-- RIDGE_EVT of cause `f`, newly set and enabled, raises producer 60 + k (R257). -/
def State.ridgeEvent (s : State) (k : Nat) (f : Fld) (gen : Nat := 0) : State :=
  let fresh := !s.flag f k
  let s := s.up f k
  if fresh && bit (s.rd F.ridgeEvtMask_mask k) f.lo then s.event (60 + k) gen (0x30 + k) else s

/-- The FEATURE node's fill registers. -/
def State.showItems (s : State) (k i : Nat) : State :=
  let n := ((s.ridge k).fifo.filter RidgeOut.isItem).length
  (s.wr F.ridgeNodeItems_fill (nodeAt k i) n).peak F.ridgeNodeItems_peak (nodeAt k i) n

/-- What waits at the head of the FIFO crosses to the Couch's intake of 64 (R243, R290, R292). -/
def State.sendOut (s : State) (k feature : Nat) : Nat → State
  | 0 => s
  | fuel + 1 =>
    let r := s.ridge k
    match r.fifo with
    | [] => s
    | o :: rest =>
      if 64 ≤ r.intake.length then s else
      let s := s.setRidge k { r with fifo := rest, intake := r.intake ++ [o] }
      let s := match o with
        | .item it => s.nodeCount k feature (if bit it.flags 5 then Nc.overflowItems else Nc.items) 1
        | .marker m =>
          if m.memory then (s.wr F.ridgeFrameMem_frame k m.frame).ridgeEvent k F.ridgeEvt_frameEndMem
          else (s.wr F.ridgeFrameInline_frame k m.frame).ridgeEvent k F.ridgeEvt_frameEndInline
      State.sendOut s k feature fuel

/-- The node that sets FEATURES, and the plane it processes (R234, R260). -/
def State.drainFifo (s : State) (k feature : Nat) : State :=
  (s.sendOut k feature (s.ridge k).fifo.length).showItems k feature

/-- An item leaves the FEATURE node (R289, R290). -/
def State.pushItem (s : State) (k feature : Nat) (it : Item) : State :=
  let r := s.ridge k
  if (r.fifo.filter RidgeOut.ordinary).length < 508 then
    s.setRidge k { r with fifo := r.fifo ++ [RidgeOut.item it] } |>.drainFifo k feature
  else
    let x := s.ctx k it.portSel
    let o := x.overflow.add it.area it.first (it.first + it.height - 1) it.xMin it.xMax 0 0 1
    let s := s.setCtx k it.portSel { x with overflow := o }
    (s.nodeCount k feature Nc.itemDrop 1).up F.ridgeNodeStat_itemFull (nodeAt k feature)

/-- The OVERFLOW item of a context, where it holds anything and one of its two entries is free (R289, R290). -/
def State.pushOverflow (s : State) (k feature plane c : Nat) : State :=
  let r := s.ridge k
  let x := s.ctx k c
  if x.overflow.area == 0 && x.overflow.dropped == 0 then s
  else if 2 ≤ (r.fifo.filter (RidgeOut.overflowOf c)).length then s
  else
    let s := s.setRidge k { r with fifo := r.fifo ++ [RidgeOut.item (x.overflow.item plane c)] }
    let s := s.setCtx k c { s.ctx k c with overflow := {} }
    s.drainFifo k feature

/-- A frame-end marker behind what waits (R243). -/
def State.pushMarker (s : State) (k feature : Nat) (m : Marker) : State :=
  let r := s.ridge k
  (s.setRidge k { r with fifo := r.fifo ++ [RidgeOut.marker m] }).drainFifo k feature

/-- The sums of a blob replaced. -/
def State.setSums (s : State) (k c seq : Nat) (f : Sums → Sums) : State :=
  let r := s.ridge k
  s.setRidge k { r with sums := r.sums.map (fun u => if u.ctx == c && u.seq == seq then f u else u) }

/-- The sums of a blob removed; answers them. -/
def State.takeSums (s : State) (k c seq : Nat) : Option Sums × State :=
  let r := s.ridge k
  (r.sums.find? (fun u => u.ctx == c && u.seq == seq),
   s.setRidge k { r with sums := r.sums.filter (fun u => !(u.ctx == c && u.seq == seq)) })

/-- One event of the labeller at the FEATURE node (R282 to R290). -/
def State.featureEvent (s : State) (k feature plane c : Nat) (y : Int) (cls : List Nat) (hasB : Bool) (grey : List Int)
    (e : BlobEvent) : State :=
  match e with
  | .opened q x prev =>
    let u : Sums := { ctx := c, seq := q, prev := prev, first := y, xFirst := x, xMin := x, xMax := x }
    let r := s.ridge k
    s.setRidge k { r with sums := r.sums ++ [u] }
  | .merged into gone =>
    match s.takeSums k c gone with
    | (some g, s) => s.setSums k c into (fun u => u.absorb g)
    | (none, s) => s
  | .joined q a b => s.setSums k c q (fun u => u.addRun y a b cls hasB grey)
  | .overflow a b =>
    let px := (cls.drop a).take (b + 1 - a)
    let x := s.ctx k c
    let cls := px.foldl (fun m e => max m (elemClass e)) 0
    let o := x.overflow.add (b + 1 - a) y y a b cls (px.foldl (fun m e => m ||| elemViews e) 0) 0
    s.setCtx k c { x with overflow := o }
  | .touchMiss q => s.setSums k c q (fun u => { u with flags := u.flags ||| Flag.touchMiss })
  | .overflowTouch q => s.setSums k c q (fun u => { u with flags := u.flags ||| Flag.overflowTouch })
  | .closed q last cont minArea =>
    match s.takeSums k c q with
    | (some u, s) =>
      if u.area < minArea && u.prev == 0 && !cont then s.nodeCount k feature Nc.smallDrop 1
      else s.pushItem k feature (u.item plane last cont (!hasB))
    | (none, s) => s

end Sys2Proof.Machine
end

