-- ==== Sys2Proof/Machine/Ridge.lean ====
section
/-! DEFINITION. The Ridges (R230 to R268): the stage graph and its parameters, the in-line buffer, the memory-path
frames, the nodes' lines and the frame-end markers. -/

namespace Sys2Proof.Machine

/-! ### The stage graph (R232 to R234, R260, R261, R266) -/

/-- A node's structure bytes (R233). -/
structure NodeCfg where
  op : Nat
  inA : Nat
  inB : Nat
  mask : Nat
  feat : Bool

/-- The planes of a mask. -/
def planesOf (mask : Nat) : List Nat := [0, 1, 2, 3].filter (bit mask)

/-- The plane a node that combines planes outputs, and the one a one-plane node reads (R260). -/
def NodeCfg.plane (n : NodeCfg) : Nat := (planesOf n.mask).headD 0

/-- Word `w` of the window of node `i` (R291, node window). -/
def nodeWordAt (k i w : Nat) : Nat := 128 * k + 16 * i + w

/-- Byte `b` of node `i`'s window. -/
def State.nodeByte (s : State) (k i b : Nat) : Nat := bits (s.rd F.ridgeNodeWord_word (nodeWordAt k i (b / 4))) (8 * (b % 4)) 8

/-- The PARAM bytes the window of node `i` shows. -/
def State.nodeParam (s : State) (k i : Nat) : Bytes := (List.range 56).map (fun b => BitVec.ofNat 8 (s.nodeByte k i (8 + b)))

/-- The window of node `i` shows these PARAM bytes. -/
def State.setNodeParam (s : State) (k i : Nat) (p : Bytes) : State :=
  forN 14 (fun w s => s.wr F.ridgeNodeWord_word (nodeWordAt k i (2 + w)) (leAt p (4 * w) 4)) s

/-- The nodes of the graph. -/
def State.graph (s : State) (k : Nat) : List NodeCfg :=
  (List.range (s.rd F.ridgeStat_nodes k)).map (fun i => {
    op := s.nodeByte k i 1, inA := s.nodeByte k i 2, inB := s.nodeByte k i 3, mask := s.nodeByte k i 4
    feat := bit (s.nodeByte k i 5) 0 })

/-- The FEATURES node. -/
def featureNode (g : List NodeCfg) : Nat := (g.findIdx? (·.feat)).getD 0

/-- Λ of each node, in order (R261). -/
def latencies (g : List NodeCfg) (params : List Bytes) : List Nat :=
  ((List.range g.length).zip (g.zip params)).foldl (fun ls e =>
    let (_, n, p) := e
    let of (inp : Nat) : Nat := if inp < 0x10 || inp == 0xFF then 0 else ls.getD (inp - 0x10) 0
    ls ++ [nodeLatency n.op p + max (of n.inA) (of n.inB)]) []

/-- A plane's row of `w` elements of `b` bytes, rounded up to 64 (R236, R266). -/
def rowBytes (w b : Nat) : Nat := (w * b + 63) / 64 * 64

/-- The state in bytes each node holds over both contexts (R266, R268); `width` answers a context's plane width. -/
def nodeBytes (g : List NodeCfg) (params : List Bytes) (width : Nat → Nat → Nat) : List Nat :=
  let lam := latencies g params
  let of (inp : Nat) : Nat := if inp < 0x10 || inp == 0xFF then 0 else lam.getD (inp - 0x10) 0
  let kind (inp : Nat) : Nat := if inp < 0x10 then 0 else kindOut ((g[inp - 0x10]?.map (·.op)).getD 0)
  let lb (mask kind c : Nat) : Nat :=
    (planesOf mask).foldl (fun a q => a + rowBytes (width c q) (if kind == 0 then 2 else 1)) 0
  (g.zip params).map (fun e =>
    let (n, p) := e
    let both (f : Nat → Nat) : Nat := f 0 + f 1
    let own :=
      if n.op == Oc.sepFilter then both (fun c => 2 * pU8 p 1 * lb n.mask 0 c)
      else if n.op == Oc.fullFilter then both (fun c => 2 * pU8 p 0 * lb n.mask 0 c)
      else if n.op == Oc.background then both (fun c => 4 * (planesOf n.mask).foldl (fun a q => a + width c q) 0)
      else if n.op == Oc.binMorph then both (fun c => (if pU8 p 0 ≤ 1 then 2 else 4) * pU8 p 1 * lb n.mask 1 c)
      else if n.op == Oc.greyMorph then
        both (fun c => (if pU8 p 0 ≤ 1 then 2 else if pU8 p 0 ≤ 3 then 4 else 6) * pU8 p 1 * lb n.mask 0 c)
      else if n.op == Oc.label then 524288 + 2 * 65536
      else if n.op == Oc.feature then 1441792 + 49152
      else 0
    let align := if n.inB == 0xFF then 0 else
      let (early, d) := if of n.inA < of n.inB then (n.inA, of n.inB - of n.inA) else (n.inB, of n.inA - of n.inB)
      both (fun c => d * lb n.mask (kind early) c)
    own + align)

/-- The planes a node's output carries (R260). -/
def outMask (n : NodeCfg) (p : Bytes) : Nat := if n.op == Oc.threshold && bit (pU8 p 1) 2 then 2 ^ n.plane else n.mask

/-- The rules of node `i` of a detection graph (R234, R258, R260, R268, R275). `width c q` is the output width of plane
`q` at context `c`. -/
def nodeOk (g : List (NodeCfg × Bytes)) (width : Nat → Nat → Nat) (i : Nat) (n : NodeCfg) (p : Bytes) : Bool :=
  let known := [Oc.sepFilter, Oc.fullFilter, Oc.background, Oc.threshold, Oc.binMorph, Oc.greyMorph, Oc.label,
    Oc.feature].contains n.op
  let named (inp : Nat) : Bool := inp < 4 || (0x10 ≤ inp && inp < 0x10 + i)
  let kind (inp : Nat) : Nat := if inp < 4 then 0 else (g[inp - 0x10]?.map (fun m => kindOut m.1.op)).getD 0
  let carries (inp : Nat) : Nat := if inp < 4 then 15 else (g[inp - 0x10]?.map (fun m => outMask m.1 m.2)).getD 0
  let subset (a b : Nat) : Bool := a &&& b == a
  let mayB := n.op == Oc.background || n.op == Oc.feature
  let equal := [0, 1].all (fun c => (planesOf n.mask).all (fun q => width c q == width c n.plane))
  known && named n.inA && (n.inB == 0xFF || (named n.inB && mayB)) &&
  n.mask != 0 && n.mask < 16 && paramOk n.op (planesOf n.mask).length p &&
  kind n.inA == kindIn n.op &&
  (if n.inA < 4 then n.inA == n.plane else subset n.mask (carries n.inA)) &&
  (n.inB == 0xFF || (subset n.mask (carries n.inB) && kind n.inB == (if n.op == Oc.background then 1 else 0))) &&
  (n.op != Oc.label || (planesOf n.mask).length == 1) && n.feat == (n.op == Oc.feature) &&
  (n.op != Oc.threshold || !bit (pU8 p 1) 2 || equal)

/-- The node entries of a STAGE_GRAPH payload (R232, R233). -/
def graphNodes (bs : Bytes) : List (NodeCfg × Bytes) :=
  (List.range (leAt bs 3 1)).map (fun i =>
    let o := 16 + 64 * i
    ({ op := leAt bs (o + 1) 1, inA := leAt bs (o + 2) 1, inB := leAt bs (o + 3) 1, mask := leAt bs (o + 4) 1,
       feat := bit (leAt bs (o + 5) 1) 0 }, sub bs (o + 8) 56))

/-- A STAGE_GRAPH payload for Ridge `k` passes R234; `slotRegion` answers whether a region ID of the plan holds frame
slots, `kernelOk` the PARAM rules of KERNEL7. -/
def graphOk (k runMode : Nat) (bs : Bytes) (slotRegion : Nat → Bool) (width : Nat → Nat → Nat) (kernelOk : Bytes → Bool) :
    Bool :=
  let nodes := leAt bs 3 1
  let g := graphNodes bs
  let entry (i : Nat) : Bool :=
    let o := 16 + 64 * i
    leAt bs o 1 == i && leAt bs (o + 5) 1 < 2 && leAt bs (o + 6) 2 == 0 && leAt bs (o + 4) 1 < 16
  bs.length == 16 + 64 * nodes && leAt bs 0 1 == 1 && zeroFrom bs 7 15 && leAt bs 2 1 < 2 &&
  (List.range nodes).all entry && leAt bs 1 1 + 1 == runMode &&
  (if leAt bs 1 1 == 1 then
    1 ≤ nodes && nodes ≤ 8 && 3 ≤ leAt bs 4 1 && leAt bs 4 1 ≤ 16 && 1 ≤ leAt bs 5 1 && leAt bs 5 1 ≤ 4 &&
    slotRegion (leAt bs 6 1) &&
    ((List.range nodes).zip g).all (fun e => nodeOk g width e.1 e.2.1 e.2.2) &&
    (g.filter (·.1.feat)).length == 1 && (g.filter (·.1.op == Oc.label)).length ≤ 1
  else
    k < 4 && nodes == 1 && leAt bs 2 1 == 0 && leAt bs 4 3 == 0 &&
    g.all (fun e => e.1.op == Oc.kernel7 && e.1.inA == 0x20 && e.1.inB == 0xFF && e.1.mask == 0 && !e.1.feat &&
      kernelOk e.2))

/-- A STAGE_GRAPH applied to Ridge `k` (R81, R230). -/
def State.applyGraph (s : State) (k : Nat) (bs : Bytes) : State :=
  let nodes := leAt bs 3 1
  let s := s.wr F.ridgeStat_inlinePort k (leAt bs 2 1)
  let s := s.wr F.ridgeStat_nodes k nodes
  let s := forN 128 (fun w s =>
    s.wr F.ridgeNodeWord_word (128 * k + w) (if w < 16 * nodes then leAt bs (16 + 4 * w) 4 else 0)) s
  let g := s.graph k
  let lam := latencies g ((List.range nodes).map (s.nodeParam k))
  let s := forN 8 (fun i s =>
    let s := s.wr F.ridgeNodeStat_opclass (nodeAt k i) (((g[i]?).map (·.op)).getD 0)
    s.wr F.ridgeNodeStat_latency (nodeAt k i) (lam.getD i 0)) s
  s.setRidge k { s.ridge k with slots := leAt bs 4 1, burst := leAt bs 5 1, region := leAt bs 6 1 }

/-! ### Ports of a Ridge (R236) -/

/-- The camera port of context `c`. -/
def ridgePort (k c : Nat) : Nat := 2 * k + c

/-- The in-line context. -/
def State.inlineCtx (s : State) (k : Nat) : Nat := s.rd F.ridgeStat_inlinePort k

/-- Plane numbers and channels of a port: plane `s` is the channel 4p + s of sensor `s`, where it is enabled (R236). -/
def State.planeChannels (s : State) (p : Nat) : List (Nat × Nat) :=
  (s.portChannels p).map (fun n => (n % 4, n))

/-- Output width of a plane; 0 where its sensor is not enabled. -/
def State.planeWidth (s : State) (p q : Nat) : Nat := if q < 4 && s.sensorOn p q then s.outWidth (4 * p + q) else 0

/-- Bytes a pixel of a channel takes in the Ridge. -/
def State.pixelBytes (s : State) (n : Nat) : Nat := if s.depth n == 8 then 1 else 2

/-- Bytes of a port line (R236). -/
def State.portLineBytes (s : State) (p : Nat) : Nat :=
  (s.portChannels p).foldl (fun a n => a + rowBytes (s.outWidth n) (s.pixelBytes n)) 0

/-- A port line counts as missing when a plane of it is. -/
def PortLine.miss (l : PortLine) : Bool := l.planes.any (fun q => q.2.isNone)

/-! ### The memory path's slots (R239, R240) -/

/-- Slots that hold a frame. -/
def Ridge.usedSlots (r : Ridge) : List Nat := r.frames.filterMap (·.slot)

/-- USED, its peak, QUEUED and HWM (R239, R241). -/
def State.showSlots (s : State) (k : Nat) : State :=
  let r := s.ridge k
  let used := r.usedSlots.length
  let s := s.wr F.ridgeSlotStat_used k used
  let s := s.peak F.ridgeSlotStat_peak k used
  let s := s.wr F.ridgeSlotStat_queued k (min 15 (r.frames.filter (fun f =>
    f.complete && f.slot.isSome && f.fetched == 0)).length)
  if 0 < s.rd F.ridgeSlotStat_slots k && s.rd F.ridgeSlotStat_slots k ≤ used + 1 then s.up F.ridgeSlotStat_hwm k else s

/-- The base of MEM_REGION. -/
def State.slotRegion (s : State) (k : Nat) : Option Region := s.mem.plan.find? (fun r => r.id == (s.ridge k).region)

/-- Bytes of one slot (R240). -/
def State.slotBytes (s : State) (k : Nat) : Nat := s.frameLen * s.portLineBytes (ridgePort k (1 - s.inlineCtx k))

/-- Slots usable at the entry into INSPECT (R240). -/
def State.usableSlots (s : State) (k : Nat) : Nat :=
  let size := match s.slotRegion k with
    | some r => r.size
    | none => 0
  if s.slotBytes k == 0 then (s.ridge k).slots else min (s.ridge k).slots (size / s.slotBytes k)

/-- Where line `index` of a slot lies. -/
def State.slotAddr (s : State) (k slot index : Nat) : Nat :=
  let base := match s.slotRegion k with
    | some r => r.base
    | none => 0
  base + slot * s.slotBytes k + index * s.portLineBytes (ridgePort k (1 - s.inlineCtx k))

/-- The bytes of a port line's planes: 1 byte a pixel at 8 bits, else 2, each plane rounded up to 64. -/
def planeBytes (w b : Nat) (px : List Nat) : Bytes :=
  let d := px.flatMap (leBytes b)
  d ++ zeros (rowBytes w b - d.length)

/-- A line of a slotted frame written to HBM (R239): a missing plane writes its descriptor only; a plane whose write
fails is marked missing and MEM_ERR counts. Answers the descriptor. -/
def State.writeSlot (s : State) (k slot : Nat) (l : PortLine) : State × PortLine :=
  let chans := s.planeChannels (ridgePort k (1 - s.inlineCtx k))
  let start := s.slotAddr k slot l.index
  let (s, ok, _) := chans.foldl (fun (st : State × Bool × Nat) (e : Nat × Nat) =>
    let (s, ok, a) := st
    let w := s.outWidth e.2
    let b := s.pixelBytes e.2
    match (l.planes.find? (fun q => q.1 == e.1)).bind (·.2) with
    | none => (s, ok, a + rowBytes w b)
    | some px =>
      let (s, good) := s.writeMem k a (planeBytes w b px)
      (s, ok && good, a + rowBytes w b)) (s, true, start)
  let s := if ok then s else s.count (F.ridgeCnt_count 4) k 1
  let mark (q : Nat × Option (List Nat)) : Nat × Option (List Nat) := (q.1, if ok then q.2.map (fun _ => []) else none)
  (s, { l with planes := l.planes.map mark })

/-- A line fetched from its slot (R241): an uncorrectable error stages it as a missing line. -/
def State.readSlot (s : State) (k slot : Nat) (l : PortLine) : State × PortLine :=
  let chans := s.planeChannels (ridgePort k (1 - s.inlineCtx k))
  let start := s.slotAddr k slot l.index
  let (s, ok, planes, _) := chans.foldl
    (fun (st : State × Bool × List (Nat × Option (List Nat)) × Nat) (e : Nat × Nat) =>
      let (s, ok, ps, a) := st
      let w := s.outWidth e.2
      let b := s.pixelBytes e.2
      match (l.planes.find? (fun q => q.1 == e.1)).bind (·.2) with
      | none => (s, ok, ps ++ [(e.1, none)], a + rowBytes w b)
      | some _ =>
        match s.readMem a (w * b) with
        | some bs => (s, ok, ps ++ [(e.1, some ((List.range w).map (fun i => leAt bs (i * b) b)))], a + rowBytes w b)
        | none => (s.readFailed k a (w * b), false, ps ++ [(e.1, none)], a + rowBytes w b)) (s, true, [], start)
  if ok then (s, { l with planes := planes })
  else (s.count (F.ridgeCnt_count 4) k 1, { l with planes := planes.map (fun q => (q.1, none)) })

/-- The line of a memory-path frame reaches the frame writer (R239). -/
def State.memLine (s : State) (k : Nat) (l : PortLine) : State :=
  let r := s.ridge k
  let s :=
    if l.index == 0 then
      let slot := lowestFree r.usedSlots (s.rd F.ridgeSlotStat_slots k) 0
      let f : MemFrame := { frame := l.frame, slot := slot, lines := [], complete := false, last := l.line, missing := 0, fetched := 0 }
      let s := s.setRidge k { r with frames := r.frames ++ [f] }
      if slot.isSome then s else
      let s := s.count (F.ridgeCnt_count 2) k 1
      let s := s.ridgeEvent k F.ridgeEvt_frameDrop
      s.log Ev.memFrameDrop (0x30 + k) 0 [k, l.frame]
    else s
  let r := s.ridge k
  match r.frames.find? (fun f => f.frame == l.frame) with
  | none => s
  | some f =>
    let (s, d) := match f.slot with
      | some q => s.writeSlot k q l
      | none => (s, l)
    let f := { f with
      lines := if f.slot.isSome then f.lines ++ [d] else []
      complete := decide (l.index + 1 = s.frameLen)
      last := l.line
      missing := f.missing + b2n d.miss }
    let r := s.ridge k
    (s.setRidge k { r with frames := r.frames.map (fun x => if x.frame == f.frame then f else x) }).showSlots k

/-! ### Arrival of port lines (R236, R237, R239) -/

/-- Fill of the in-line buffer in bytes. -/
def State.inlineFill (s : State) (k : Nat) : Nat :=
  let p := ridgePort k (s.inlineCtx k)
  (s.ridge k).inline.foldl (fun a l => a + (s.planeChannels p).foldl (fun a e =>
    if ((l.planes.find? (fun q => q.1 == e.1)).bind (·.2)).isSome then a + rowBytes (s.outWidth e.2) (s.pixelBytes e.2)
    else a) 0) 0

/-- FILL, PEAK and HWM of the in-line buffer. -/
def State.showInline (s : State) (k : Nat) : State :=
  let units := s.inlineFill k / 64
  let s := s.wr F.ridgeInlineStat_fill k units
  let s := s.peak F.ridgeInlineStat_peak k units
  if 2 ≤ (s.ridge k).inline.length then s.up F.ridgeInlineStat_hwm k else s

/-- A line of the in-line port (R237): one that finds too little room is taken as missing. -/
def State.inlineLine (s : State) (k : Nat) (l : PortLine) : State :=
  let p := ridgePort k (s.inlineCtx k)
  let full := 262144 < s.inlineFill k + s.portLineBytes p
  let l := if full then { l with planes := l.planes.map (fun q => (q.1, none)) } else l
  let r := s.ridge k
  let s := s.setRidge k { r with inline := r.inline ++ [l] }
  let s := if full then (s.count (F.ridgeCnt_count 3) k 1).ridgeEvent k F.ridgeEvt_inlineOver else s
  s.showInline k

/-- RIDGE_PORT_LINE_ARRIVE (R236, R237, R239): the next line of every enabled channel of a port reaches its hub. -/
def execRidgePortLineArrive (port : Fin 12) (s : State) : Out :=
  let p := port.val
  let k := p / 2
  let chans := s.planeChannels p
  let heads := chans.filterMap (fun e => ((s.calCh e.2).out.head?).map (fun l => (e.1, l)))
  if heads.length != chans.length then .next s else
  match heads with
  | [] => .next s
  | (_, l0) :: _ =>
    let l : PortLine := {
      line := l0.line, frame := l0.frame, index := l0.index
      planes := heads.map (fun e => (e.1, if e.2.miss then none else some e.2.px)) }
    let s := forAll chans (fun e s => let c := s.calCh e.2; s.setCalCh e.2 { c with out := c.out.drop 1 }) s
    if s.rd F.ridgeStat_state k != 3 then .next s else
    if p % 2 == s.inlineCtx k then .next (s.inlineLine k l) else .next (s.memLine k l)

/-! ### The burst reader (R241) -/

/-- The frame the reader reads: the oldest that is not wholly fetched. -/
def Ridge.reading (r : Ridge) (len : Nat) : Option MemFrame := r.frames.find? (fun f => f.slot.isSome && f.fetched < len)

/-- Lines of the running burst pass into the staging FIFO while it has room. -/
def State.stageLines (s : State) (k : Nat) : Nat → State
  | 0 => s
  | fuel + 1 =>
    let r := s.ridge k
    if r.burstLeft == 0 || 4 ≤ r.staging.length then s else
    match r.reading s.frameLen with
    | none => s
    | some f =>
      match f.slot, f.lines[f.fetched]? with
      | some q, some d =>
        let (s, l) := s.readSlot k q d
        let r := s.ridge k
        let s := s.setRidge k { r with
          staging := r.staging ++ [l]
          burstLeft := r.burstLeft - 1
          frames := r.frames.map (fun x => if x.frame == f.frame then { x with fetched := x.fetched + 1 } else x) }
        State.stageLines s k fuel
      | _, _ => s

/-- MEM_PATH_BURST (R241): a burst of the oldest complete frame starts where the FIFO has room for its first line. -/
def execMemPathBurst (ridge : Fin 6) (s : State) : Out :=
  let k := ridge.val
  let r := s.ridge k
  if r.burstLeft != 0 || 4 ≤ r.staging.length then .next s else
  match r.reading s.frameLen with
  | none => .next s
  | some f =>
    if !f.complete then .next s else
    let n := min (64 * r.burst) (s.frameLen - f.fetched)
    let s := s.setRidge k { r with burstLeft := n }
    .next (((s.count (F.ridgeCnt_count 5) k 1).stageLines k 4).showSlots k)

/-! ### The nodes (R258 to R265) -/

/-- Row `y` of a stream. -/
def Hist.row (h : Hist) (y : Nat) : Option StreamLine :=
  if h.count ≤ y || y + h.rows.length < h.count then none else h.rows[y + h.rows.length - h.count]?

/-- A stream with one more line; the last 64 are kept. -/
def Hist.push (h : Hist) (l : StreamLine) : Hist :=
  { count := h.count + 1, rows := (h.rows ++ [l]).drop (h.rows.length + 1 - 64) }

/-- The stream an input names. -/
def RidgeCtx.stream (x : RidgeCtx) (inp : Nat) : Hist :=
  if inp < 0x10 then x.port else (x.nodes.getD (inp - 0x10) {}).out

/-- The elements of a plane. -/
def StreamLine.greyOf (l : StreamLine) (q : Nat) : List Int := ((l.grey.find? (fun e => e.1 == q)).map (·.2)).getD []
def StreamLine.clsOf (l : StreamLine) (q : Nat) : List Nat := ((l.cls.find? (fun e => e.1 == q)).map (·.2)).getD []

/-- Windows over a plane of a stream. -/
def Hist.greyWin (h : Hist) (total : Option Nat) (border q : Nat) : Win Int where
  row := fun y => (h.row y).map (fun l => (l.greyOf q).toArray)
  total := total
  border := border
  outside := missGrey
def Hist.clsWin (h : Hist) (total : Option Nat) (border q : Nat) : Win Nat where
  row := fun y => (h.row y).map (fun l => (l.clsOf q).toArray)
  total := total
  border := border
  outside := 0

/-- A node of a context replaced. -/
def RidgeCtx.setNode (x : RidgeCtx) (i : Nat) (f : NodeCtx → NodeCtx) : RidgeCtx :=
  { x with nodes := ((List.range x.nodes.length).zip x.nodes).map (fun e => if e.1 == i then f e.2 else e.2) }

/-- A node's output line in context `c`. -/
def State.pushNode (s : State) (k c i : Nat) (l : StreamLine) : State :=
  let x := s.ctx k c
  s.setCtx k c (x.setNode i (fun n => { n with out := n.out.push l }))

/-- BACKGROUND starts anew in one context (R273). -/
def backgroundReset (p : Bytes) (n : NodeCtx) : NodeCtx := { n with acc := [], warm := pU16 p 6, tag := pU8 p 8 }

/-- Changes that begin at frame `f` reach node `i` (R235, R273). -/
def State.paramsReach (s : State) (k c i f : Nat) : State :=
  let x := s.ctx k c
  let due := x.later.filter (fun e => e.1 ≤ f && e.2.1 == i)
  match due.getLast? with
  | none => s
  | some (_, _, p) =>
    let x := { x with
      later := x.later.filter (fun e => !(e.1 ≤ f && e.2.1 == i))
      params := x.params.set i p }
    let bg := (s.graph k)[i]?.any (fun n => n.op == Oc.background)
    s.setCtx k c (x.setNode i (fun n => if bg && n.tag != pU8 p 8 then backgroundReset p n else n))

/-- BACKGROUND over the planes of a line (R273): the output planes, the accumulators, the elements sat16 changed. -/
def backgroundLine (n : NodeCfg) (p : Bytes) (st : NodeCtx) (a : StreamLine) (mask : Option StreamLine) :
    List (Nat × List Int) × List (Nat × List (Int × Bool)) × Nat :=
  (planesOf n.mask).foldl (fun acc q =>
    let row := a.greyOf q
    let held := ((st.acc.find? (fun e => e.1 == q)).map (·.2)).getD (row.map (fun _ => backgroundInit p))
    let mrow := match mask with
      | some m => (m.clsOf q).map (fun e => decide (1 ≤ elemClass e))
      | none => []
    let cells : List (Nat × Int × (Int × Bool)) := (List.range row.length).zip (row.zip held)
    let outs := cells.map (fun e => backgroundAt p st.warm e.2.2 e.2.1 (mrow.getD e.1 false))
    (acc.1 ++ [(q, outs.map (·.1))], acc.2.1 ++ [(q, outs.map (·.2.1))], outs.foldl (fun t o => t + o.2.2) acc.2.2))
    ([], [], 0)

/-- Node `i` outputs line `y` of its stream in context `c` (R258 to R290). -/
def State.nodeLine (s : State) (k c i y : Nat) (n : NodeCfg) : State :=
  let x := s.ctx k c
  let ha := x.stream n.inA
  match ha.row y with
  | none => s
  | some a =>
    let s := s.paramsReach k c i a.frame
    let x := s.ctx k c
    let p := x.params.getD i []
    let total := x.total
    let b := if n.inB == 0xFF then none else (x.stream n.inB).row y
    let base : StreamLine := { line := a.line, frame := a.frame, index := a.index }
    let cols (q : Nat) : List Int := (List.range (a.greyOf q).length).map (fun (j : Nat) => (j : Int))
    let grey (f : Nat → List (Int × Nat)) : State :=
      let outs := (planesOf n.mask).map (fun q => (q, f q))
      let sat := outs.foldl (fun t o => o.2.foldl (fun t e => t + e.2) t) 0
      (s.nodeCount k i Nc.sat sat).pushNode k c i { base with grey := outs.map (fun o => (o.1, o.2.map (·.1))) }
    if n.op == Oc.sepFilter then
      grey (fun q => (cols q).map (sepFilterAt p (ha.greyWin total (bits (pU8 p 4) 0 2) q) y))
    else if n.op == Oc.fullFilter then
      grey (fun q => (cols q).map (fullFilterAt p (ha.greyWin total (bits (pU8 p 2) 0 2) q) y))
    else if n.op == Oc.background then
      let (planes, acc, sat) := backgroundLine n p (x.nodes.getD i {}) a b
      let s := s.setCtx k c (x.setNode i (fun st => { st with acc := acc, warm := st.warm - 1 }))
      (s.nodeCount k i Nc.sat sat).pushNode k c i { base with grey := planes }
    else if n.op == Oc.threshold then
      if bit (pU8 p 1) 2 then
        let rows := (planesOf n.mask).map (fun q => (q, a.greyOf q))
        let row := (List.range (a.greyOf n.plane).length).map (fun j =>
          thresholdAll p (rows.map (fun r => (r.1, r.2.getD j missGrey))))
        s.pushNode k c i { base with cls := [(n.plane, row)] }
      else s.pushNode k c i { base with cls := (planesOf n.mask).map (fun q => (q, (a.greyOf q).map (thresholdOne p q))) }
    else if n.op == Oc.binMorph then
      s.pushNode k c i { base with cls := (planesOf n.mask).map (fun q =>
        (q, binMorphRow p (ha.clsWin total (bits (pU8 p 2) 0 2) q) y (a.clsOf q).length)) }
    else if n.op == Oc.greyMorph then
      let outs := (planesOf n.mask).map (fun q =>
        (q, greyMorphRow p (ha.greyWin total (bits (pU8 p 2) 0 2) q) y (a.greyOf q).length))
      let s := s.nodeCount k i Nc.sat (outs.foldl (fun t o => t + o.2.2) 0)
      s.pushNode k c i { base with grey := outs.map (fun o => (o.1, o.2.1)) }
    else if n.op == Oc.label then
      let row := a.clsOf n.plane
      let (s, ev) := s.labelStep k i c (some a.line) row
      s.pushNode k c i { base with cls := [(n.plane, row)], events := ev }
    else if n.op == Oc.feature then
      let cls := a.clsOf n.plane
      let g := match b with
        | some l => l.greyOf n.plane
        | none => []
      let s := a.events.foldl (fun s e => s.featureEvent k i n.plane c a.line cls (n.inB != 0xFF) g e) s
      let s := s.pushNode k c i base
      if a.index + 1 != s.frameLen then s else
      -- the last line of a frame: the overflow summary, then the frame-end marker
      let s := s.pushOverflow k i n.plane c
      let x := s.ctx k c
      match x.ends with
      | m :: rest => (s.setCtx k c { x with ends := rest }).pushMarker k i m
      | [] => s
    else s

/-- Node `i` outputs every line its inputs allow (R261, R264). -/
def State.nodeRun (s : State) (k c i : Nat) (n : NodeCfg) : Nat → State
  | 0 => s
  | fuel + 1 =>
    let x := s.ctx k c
    let y := (x.nodes.getD i {}).out.count
    let na := (x.stream n.inA).count
    let lam := nodeLatency n.op (x.params.getD i [])
    let ready := decide (y + lam < na) || decide (x.total = some na ∧ y < na)
    let readyB := n.inB == 0xFF || decide (y < (x.stream n.inB).count)
    if ready && readyB then State.nodeRun (s.nodeLine k c i y n) k c i n fuel else s

/-- Every node of a context outputs what it can. -/
def State.graphRun (s : State) (k c : Nat) : State :=
  let g := s.graph k
  ((List.range g.length).zip g).foldl (fun s e => s.nodeRun k c e.1 e.2 65) s

/-- Markers of dropped frames whose turn has come leave at once (R243). -/
def State.droppedMarkers (s : State) (k c : Nat) : Nat → State
  | 0 => s
  | fuel + 1 =>
    let x := s.ctx k c
    match x.ends with
    | m :: rest =>
      if m.dropped then
        State.droppedMarkers ((s.setCtx k c { x with ends := rest }).pushMarker k (featureNode (s.graph k)) m) k c fuel
      else s
    | [] => s

/-- GREY elements of a plane (R259). -/
def toGrey (depth width : Nat) (px : Option (List Nat)) : List Int :=
  match px with
  | none => List.replicate width missGrey
  | some l => l.map (fun (p : Nat) => if p == 2 ^ depth - 1 then missGrey else (p : Int))

/-- A port line enters the stage graph in context `c` (R236, R259, R243). -/
def State.graphLine (s : State) (k c : Nat) (l : PortLine) : State :=
  let p := ridgePort k c
  let rows := (s.planeChannels p).map (fun e =>
    (e.1, toGrey (s.depth e.2) (s.outWidth e.2) ((l.planes.find? (fun q => q.1 == e.1)).bind (·.2))))
  let x := s.ctx k c
  let missing := (if l.index == 0 then 0 else x.missing) + b2n l.miss
  let ends := if l.index + 1 == s.frameLen then
      x.ends ++ [{ port := p, frame := l.frame, missing := missing, last := l.line, dropped := false,
                   memory := c != s.inlineCtx k : Marker }]
    else x.ends
  let line : StreamLine := { line := l.line, frame := l.frame, index := l.index, grey := rows }
  let s := s.setCtx k c { x with port := x.port.push line, missing := missing, ends := ends, last := some l.line }
  (s.graphRun k c).droppedMarkers k c 64

/-- The end of a context's stream (R264): every node outputs its last lines, every open blob closes, and the overflow
summary leaves. -/
def State.flushCtx (s : State) (k c : Nat) : State :=
  let x := s.ctx k c
  if x.total.isSome || x.last != (s.ridge k).stop || x.last.isNone then s else
  let s := s.setCtx k c { x with total := some x.port.count }
  let s := s.graphRun k c
  let g := s.graph k
  match g.findIdx? (fun n => n.op == Oc.label), g.findIdx? (·.feat) with
  | some i, some j =>
    let n := g.getD j ⟨0, 0, 0, 0, false⟩
    let (s, ev) := s.labelStep k i c none []
    let s := ev.foldl (fun s e => s.featureEvent k j n.plane c 0 [] (n.inB != 0xFF) [] e) s
    (s.pushOverflow k j n.plane c).droppedMarkers k c 64
  | _, _ => s

/-- DRAIN_FLUSH (R264): both contexts of a Ridge that have taken their last line. -/
def State.ridgeFlush (s : State) (k : Nat) : State := if (s.ridge k).stop.isNone then s else (s.flushCtx k 0).flushCtx k 1

/-! ### Changes of PARAM (R235, R267) -/

/-- PENDING of RIDGE_PARAM_STAT. -/
def State.showPending (s : State) (k : Nat) : State := s.wr F.ridgeParamStat_pending k (b2n (!(s.ridge k).pending.isEmpty))

/-- A context takes the first line of frame `f` (R235): the in-line port fixes FRAME_EFF of changes that wait, and
changes of that frame or before are in force on the context. -/
def State.paramFrame (s : State) (k c f : Nat) : State :=
  let inl := s.inlineCtx k
  let fix (p : ParamChange) : ParamChange := if c == inl && p.frame.isNone then { p with frame := some f } else p
  let r := s.ridge k
  let fixed := r.pending.map fix
  let newly := c == inl && r.pending.any (fun p => p.frame.isNone)
  let s := if newly then s.wr F.ridgeParamFrame_frameEff k f else s
  let due := fixed.filter (fun p => p.frame.any (· ≤ f) && !p.inForce.contains c)
  let x := s.ctx k c
  let s := s.setCtx k c { x with later := x.later ++ due.flatMap (fun p => p.writes.map (fun w => (p.frame.getD f, w.1, w.2))) }
  let s := if c == inl then due.foldl (fun s p => p.writes.foldl (fun s w => s.setNodeParam k w.1 w.2) s) s else s
  let after := fixed.map (fun p => if p.frame.any (· ≤ f) && !p.inForce.contains c then { p with inForce := p.inForce ++ [c] } else p)
  let r := s.ridge k
  (s.setRidge k { r with pending := after.filter (fun p => p.inForce.length < 2) }).showPending k

/-- The PARAM bytes of a node as the next write finds them: those shown, with what waits. -/
def State.newestParam (s : State) (k i : Nat) : Bytes :=
  (s.ridge k).pending.foldl (fun p c => c.writes.foldl (fun p w => if w.1 == i then w.2 else p) p) (s.nodeParam k i)

/-- Bytes `o` to `o + 3` of a string replaced by a word. -/
def putWord (p : Bytes) (o : Nat) (w : Word) : Bytes := p.take o ++ leBytes 4 w.toNat ++ p.drop (o + 4)

/-- The hub agent applies the PARAM writes it takes together (R235, R266, R267): `writes` lists node, word of the
window (2 to 15) and value. A node whose result breaks its class's rules, or alters a field marked S outside CONFIGURE
and MAINTAIN, keeps its bytes. -/
def State.takeParams (s : State) (k : Nat) (writes : List (Nat × Nat × Word)) : State :=
  let nodes := (writes.map (·.1)).eraseDups
  let g := s.graph k
  let (s, good) := nodes.foldl (fun (st : State × List (Nat × Bytes)) i =>
    let (s, good) := st
    let old := s.newestParam k i
    let new := (writes.filter (fun w => w.1 == i)).foldl (fun p w => putWord p (4 * (w.2.1 - 2)) w.2.2) old
    match g[i]? with
    | none => (s, good)
    | some n =>
      let equal := [0, 1].all (fun c => (planesOf n.mask).all (fun q =>
        s.planeWidth (ridgePort k c) q == s.planeWidth (ridgePort k c) n.plane))
      let ok := paramOk n.op (planesOf n.mask).length new && (n.op != Oc.threshold || !bit (pU8 new 1) 2 || equal)
      if !ok then
        ((s.up F.ridgeNodeStat_paramReject (nodeAt k i)).log Ev.paramReject (0x30 + k) 0 [k, i], good)
      else if sizeChanged n.op old new && !s.cmMode then
        let a := F.ridgeNodeWord_word.addr (nodeWordAt k i 2)
        (s.accessFault Af.wrongMode a (0x30 + k) true, good)
      else (s, good ++ [(i, new)])) (s, [])
  if good.isEmpty then s else
  let r := s.ridge k
  (s.setRidge k { r with pending := r.pending ++ [ParamChange.mk none [] good] }).showPending k

/-! ### Entry into and exit from INSPECT (R240, R265, R266) -/

/-- The PARAM bytes in force from the next entry. -/
def State.entryParams (s : State) (k : Nat) : List Bytes := (List.range (s.rd F.ridgeStat_nodes k)).map (s.newestParam k)

/-- The checks of an entry into INSPECT pass (R240, R266). -/
def State.ridgeEntryOk (s : State) (k : Nat) : Bool :=
  let width (c q : Nat) : Nat := s.planeWidth (ridgePort k c) q
  3 ≤ s.usableSlots k && (nodeBytes (s.graph k) (s.entryParams k) width).all (· ≤ 1572864)

/-- RIDGE_NODE_BYTES and the usable slots, as an entry computes them. -/
def State.ridgeEntryCompute (s : State) (k : Nat) : State :=
  let width (c q : Nat) : Nat := s.planeWidth (ridgePort k c) q
  let ns := nodeBytes (s.graph k) (s.entryParams k) width
  let s := forN 8 (fun i s => s.wr F.ridgeNodeBytes_bytes (nodeAt k i) (ns.getD i 0)) s
  s.wr F.ridgeSlotStat_slots k (s.usableSlots k)

/-- Entry into INSPECT at Ridge `k` (R235, R264, R265, R281): every context starts anew, and changes that waited are in
force from the first line. -/
def State.ridgeEnter (s : State) (k : Nat) : State :=
  let s := s.ridgeEntryCompute k
  let ps := s.entryParams k
  let waited := !(s.ridge k).pending.isEmpty
  let s := ((List.range ps.length).zip ps).foldl (fun s e => s.setNodeParam k e.1 e.2) s
  let g := s.graph k
  let lam := latencies g ps
  let s := forN 8 (fun i s => s.wr F.ridgeNodeStat_latency (nodeAt k i) (lam.getD i 0)) s
  let nodes := (g.zip ps).map (fun e => if e.1.op == Oc.background then backgroundReset e.2 {} else {})
  let x : RidgeCtx := { nodes := nodes, params := ps }
  let r := s.ridge k
  let s := s.setRidge k { r with
    ctxs := [x, x], inline := [], frames := [], staging := [], blobs := [], sums := [], pending := [], burstLeft := 0
    stop := none, lastInline := none, lastMem := none }
  let s := if waited then s.wr F.ridgeParamFrame_frameEff k 0 else s
  (((s.showPending k).showInline k).showSlots k).wr F.ridgeStat_state k 3

end Sys2Proof.Machine
end

