-- ==== Sys2Proof/Machine/Mould.lean ====
section
/-! DEFINITION. The Mould (R336 to R343): the Sheet stream, exact coverage, raster bands, the dose-class table and its
swap, bands started and finished, and the dose lines that go to the kernel Ridges. -/

namespace Sys2Proof.Machine

/-! ### The dose-class table (R340) -/

/-- The dose-class window. -/
def doseLo : Nat := 0x02700000
def doseHi : Nat := 0x02700400

/-- The word of a class in the active bank. -/
def State.classWord (s : State) (c : Nat) : Nat := (Sparse.get (fun _ => 0) s.doseActive (doseLo + 4 * c)).toNat

/-- The 1,024 bytes of the active bank, and their CRC-32C. -/
def State.classBytes (s : State) : Bytes := (List.range 256).flatMap (fun c => leBytes 4 (s.classWord c))
def State.showClassCrc (s : State) : State := s.wr F.mouldClassCrc_crc 0 (crc32c s.classBytes)

/-- The banks exchange (R340). -/
def State.doseSwap (s : State) : State :=
  let window := s.regs.filter (fun (e : Nat × Word) => doseLo ≤ e.1 && e.1 < doseHi)
  let s := s.doseActive.foldl (fun (t : State) e => t.setReg e.1 e.2) (s.resetSpan doseLo doseHi)
  let s := { s with doseActive := window }
  let s := s.down F.mouldCtl_swapPending
  let s := s.wr F.mouldCtl_gen 0 (s.rd F.mouldCtl_gen + 1)
  s.showClassCrc

/-! ### The Sheet stream (R336 to R338) -/

/-- A trapezoid (R336): a rectangle has vertical sides. -/
structure Shape where
  cls : Nat
  y0 : Int
  y1 : Int
  xl0 : Int
  xl1 : Int
  xr0 : Int
  xr1 : Int
  deriving DecidableEq, Repr

/-- The header of a Sheet record: OP, CLASS, bytes 2 and 3, LEN; `fits` where LEN is the one of R336. -/
structure SheetRec where
  op : Nat
  cls : Nat
  zero : Nat
  len : Nat
  fits : Bool
  deriving DecidableEq, Repr

/-- LEN of a known OP (R336). -/
def sheetLen (op : Nat) : Option Nat :=
  if op = 0x01 then some 16 else if op = 0x02 then some 24 else if op = 0x03 then some 32
  else if op = 0x7F then some 8 else none

/-- The record at an offset; `none` where the stream ends first. -/
def sheetRec (p : Bytes) (pos : Nat) : Option SheetRec :=
  if p.length < pos + 8 then none else
  let op := leAt p pos 1
  let len := leAt p (pos + 4) 4
  let fits := sheetLen op == some len
  if fits && p.length < pos + len then none else some ⟨op, leAt p (pos + 1) 1, leAt p (pos + 2) 2, len, fits⟩

/-- A signed 32-bit coordinate. -/
def sheetI32 (p : Bytes) (o : Nat) : Int := signed 32 (leAt p o 4)

/-- The shape of a RECT or TRAP record. -/
def sheetShape (p : Bytes) (pos : Nat) (r : SheetRec) : Shape :=
  let v (i : Nat) : Int := sheetI32 p (pos + 8 + 4 * i)
  if r.op = 0x02 then ⟨r.cls, v 1, v 3, v 0, v 0, v 2, v 2⟩ else ⟨r.cls, v 0, v 1, v 2, v 3, v 4, v 5⟩

/-- A shape is well formed (R337); `valid` answers for its class. -/
def Shape.wellFormed (h : Shape) (valid : Nat → Bool) : Bool :=
  decide (h.y0 < h.y1) && decide (h.y1 - h.y0 ≤ 1048576) && decide (h.xl0 ≤ h.xr0) && decide (h.xl1 ≤ h.xr1) &&
    [h.y0, h.y1, h.xl0, h.xl1, h.xr0, h.xr1].all (fun c => c.natAbs ≤ 16777216) && valid h.cls

/-- What a band's part of the stream holds: its shapes, whether the band fails, whether every later one does, and where
parsing goes on. -/
structure BandParse where
  shapes : List Shape
  bad : Bool
  later : Bool
  pos : Nat
  deriving DecidableEq, Repr

/-- The shape records of a band, `left` of them announced, up to the next BAND or END (R338). -/
def sheetShapes (p : Bytes) (valid : Nat → Bool) : Nat → Nat → Nat → List Shape → Bool → BandParse
  | 0, pos, _, acc, _ => ⟨acc, true, true, pos⟩
  | fuel + 1, pos, left, acc, bad =>
    match sheetRec p pos with
    | none => ⟨acc, true, true, pos⟩
    | some r =>
      if !r.fits then ⟨acc, true, true, pos⟩
      else if r.op = 0x01 || r.op = 0x7F then ⟨acc, bad || left != 0, false, pos⟩
      else if left = 0 then sheetShapes p valid fuel (pos + r.len) 0 acc true
      else
        let h := sheetShape p pos r
        sheetShapes p valid fuel (pos + r.len) (left - 1) (acc ++ [h]) (bad || r.zero != 0 || !h.wellFormed valid)

/-- A band of a Sheet stream (R336, R338): `last` for the job's last band, after which one END ends the stream. -/
def sheetBand (p : Bytes) (valid : Nat → Bool) (pos band : Nat) (last : Bool) : BandParse :=
  match sheetRec p pos with
  | none => ⟨[], true, true, pos⟩
  | some r =>
    if !r.fits || r.op != 0x01 || leAt p (pos + 8) 4 != band then ⟨[], true, true, pos⟩ else
    let b := sheetShapes p valid (p.length + 1) (pos + 16) (leAt p (pos + 12) 4) [] (r.cls != 0 || r.zero != 0)
    if b.later || !last then b else
    match sheetRec p b.pos with
    | some e => { b with bad := b.bad || !e.fits || e.op != 0x7F || e.cls != 0 || e.zero != 0 || b.pos + 8 != p.length }
    | none => { b with bad := true }

/-! ### Coverage (R339) -/

/-- ceildiv of R339. -/
def ceilDiv (n m : Int) : Int := -(floorDiv (-n) m)

/-- The columns of sample row `sy` that a shape covers: from the first, up to the one past the last. -/
def Shape.span (h : Shape) (sy : Int) : Option (Nat × Nat) :=
  if sy < h.y0 || h.y1 ≤ sy then none else
  let d := h.y1 - h.y0
  let t := 2 * (sy - h.y0) + 1
  let ln := 2 * h.xl0 * d + (h.xl1 - h.xl0) * t
  let rn := 2 * h.xr0 * d + (h.xr1 - h.xr0) * t
  let a := max (ceilDiv (ln - d) (2 * d)) 0
  let b := min (ceilDiv (rn - d) (2 * d)) 65536
  if a < b then some (a.toNat, b.toNat) else none

/-- The spans of a shape in band line `y`. -/
def Shape.spans (h : Shape) (y : Nat) : List (Nat × Nat) :=
  (List.range 16).filterMap (fun i => h.span ((16 * y + i : Nat) : Int))

/-- The lines of the band in which a shape covers a sample (R342). -/
def Shape.rows (h : Shape) : Nat := ((List.range 64).filter (fun y => !(h.spans y).isEmpty)).length

/-- Samples of pixel `x` within a span. -/
def spanIn (x : Nat) (g : Nat × Nat) : Nat := min g.2 (16 * x + 16) - max g.1 (16 * x)

/-- The accumulator of a pixel (R339): weighted spans of its line. -/
def pixelAcc (x : Nat) (l : List (Nat × List (Nat × Nat))) : Nat :=
  min ((l.map (fun e => e.1 * (e.2.map (spanIn x)).sum)).sum) (2 ^ 32 - 1)

/-- Line `y` of a band before the clamp to 511: (acc + 128) >> 8 of every pixel. -/
def rasterLine (dose : Nat → Nat) (shapes : List Shape) (y : Nat) : List Nat :=
  let l := (shapes.map (fun h => (dose h.cls, h.spans y))).filter (fun e => e.1 != 0 && !e.2.isEmpty)
  if l.isEmpty then List.replicate 4096 0 else (List.range 4096).map (fun x => (pixelAcc x l + 128) / 256)

/-- A rasterized band: 64 lines of dose, and the pixels clamped (R339). -/
def rasterBand (dose : Nat → Nat) (shapes : List Shape) : List (List Nat) × Nat :=
  let raw := (List.range 64).map (rasterLine dose shapes)
  (raw.map (fun r => r.map (min 511)), (raw.map (fun r => (r.filter (511 < ·)).length)).sum)

/-- The cost of a band in cycles (R342). -/
def bandCost (shapes : List Shape) : Nat := max 131072 (8 + (shapes.map (fun h => 4 + h.rows)).sum)

/-- A FORMAT 2 band (R324, R341): `none` where a pixel has one of bits [15:9] set. -/
def rasterRaw (b : Bytes) : Option (List (List Nat)) :=
  let l := (List.range 64).map (fun y => (List.range 4096).map (fun x => leAt b (2 * (4096 * y + x)) 2))
  if l.any (fun r => r.any (511 < ·)) then none else some l

/-! ### Bands (R343) -/

def State.kernel (s : State) (k : Nat) : KernelCtx := Sparse.get (fun _ => {}) s.kernels k
def State.setKernel (s : State) (k : Nat) (v : KernelCtx) : State :=
  { s with kernels := Sparse.set (fun _ => {}) s.kernels k v }

/-- Kernel PARAM changes that waited take force at a stripe boundary (R235, R344). -/
def State.kernelParams (s : State) : State :=
  forN 4 (fun k s =>
    let r := s.ridge k
    let s := forAll r.pending (fun (c : ParamChange) s => forAll c.writes (fun w s => s.setNodeParam k w.1 w.2) s) s
    (s.setRidge k { r with pending := [] }).showPending k) s

/-- The Mould's stripe boundary (R340, R235): the edge on which it starts band 0 of a stripe. -/
def State.mouldStripe (s : State) (j : Job) : State :=
  let s := if s.flag F.mouldCtl_swapPending then s.doseSwap else s
  let s := s.kernelParams
  let inst := s.mould.inst + 1
  let ended := s.wm.unmet == some j.stripe
  { s with
    mould := { s.mould with inst := inst, stripe := j.stripe, bands := j.stripeBands, next := 0 }
    wm.unmet := if ended then none else s.wm.unmet
    wm.stripes := s.wm.stripes ++ [WmStripe.mk inst j.stripe j.stripeBands ended none] }

/-- MOULD_BAND_START (R332, R340, R343). -/
def execMouldBandStart (s : State) : Out :=
  if s.mode != Md.expose || s.mould.running.isSome || 3 ≤ s.wm.bands.length then .next s.mouldLook else
  match s.nextBand with
  | none => .next s.mouldLook
  | some (j, b) =>
    let ready := match j.stage with
      | .verified => true
      | .failed _ => true
      | _ => false
    if !ready then .next s.mouldLook else
    let s := if b == 0 then s.mouldStripe j else s
    let s := if j.stage == .verified && j.fed == 0 && j.format == 1 && j.classCrc != s.rd F.mouldClassCrc_crc then
        s.jobFail j.id Lc.classTable
      else s
    match s.job j.id with
    | none => .next s
    | some j =>
      let cause := match j.stage with
        | .failed _ => some Gc.job
        | _ => none
      let s := s.setJob { j with fed := j.fed + 1 }
      let s := { s with
        mould := { s.mould with running := some (j.id, b), next := b + 1 }
        wm.bands := s.wm.bands ++ [({ inst := s.mould.inst, stripe := s.mould.stripe, band := b, job := j.id, cause := cause } : WmBand)] }
      let s := s.wr F.mouldStripe_stripe 0 s.mould.stripe
      let s := s.wr F.mouldBand_band 0 b
      .next s.mouldLook

/-- What the Mould makes of a band: lines, cause of a failure, shapes rasterized, pixels clamped, cost; the job's place
in its stream, and whether its later bands fail. -/
structure BandMade where
  lines : List (List Nat)
  cause : Option Nat
  shapes : Nat
  sat : Nat
  cost : Nat
  pos : Nat
  later : Bool
  deriving DecidableEq, Repr

/-- 64 lines of dose 0 (R334). -/
def zeroBand : List (List Nat) := List.replicate 64 (List.replicate 4096 0)

/-- A band of a verified job, its output read from HBM; `none` where the read cannot be corrected. -/
def State.makeBand (s : State) (j : Job) (b : Nat) : Option BandMade :=
  let base := j.out.getD 0
  let i := b - j.first
  if j.format == 1 then
    if j.sheetBad then some ⟨zeroBand, some Gc.sheet, 0, 0, 131072, j.pos, true⟩ else
    let valid (c : Nat) : Bool := bit (s.classWord c) 31
    let p := sheetBand (s.bytes base j.plainLen) valid j.pos b (i + 1 == j.count)
    if (s.readMem (base + j.pos) (min (p.pos + 32) j.plainLen - j.pos)).isNone then none
    else if p.bad || p.later then some ⟨zeroBand, some Gc.sheet, 0, 0, 131072, p.pos, p.later⟩
    else
      let (lines, sat) := rasterBand (fun c => s.classWord c % 512) p.shapes
      some ⟨lines, none, p.shapes.length, sat, bandCost p.shapes, p.pos, false⟩
  else
    match s.readMem (base + 524288 * i) 524288 with
    | none => none
    | some raw =>
      match rasterRaw raw with
      | some l => some ⟨l, none, 0, 0, 131072, 0, false⟩
      | none => some ⟨zeroBand, some Gc.rasterRange, 0, 0, 131072, 0, false⟩

/-- A band's cause at the Watermark. -/
def State.bandCause (s : State) (inst b : Nat) (cause : Nat) : State :=
  { s with wm.bands := s.wm.bands.map (fun x => if x.inst == inst && x.band == b then { x with cause := some cause } else x) }

/-- Dose lines leave for the four kernel Ridges (R254). -/
def State.sendDose (s : State) (l : List DoseLine) : State :=
  forN 4 (fun k s => let c := s.kernel k; s.setKernel k { c with queue := c.queue ++ l }) s

/-- MOULD_BAND_DONE (R338 to R343). -/
def execMouldBandDone (s : State) : Out :=
  match s.mould.running with
  | none => .next s
  | some (id, b) =>
    let inst := s.mould.inst
    let zero : BandMade := ⟨zeroBand, none, 0, 0, 131072, 0, false⟩
    let (m, s) := match s.job id with
      | none => (zero, s)
      | some j =>
        match j.stage with
        | .failed _ => (zero, s)
        | _ =>
          match s.makeBand j b with
          | none => (zero, ((s.readFailed 14 (j.out.getD 0) j.plainLen).jobFail id Lc.memory).bandCause inst b Gc.job)
          | some m => (m, s.setJob { j with pos := m.pos, sheetBad := j.sheetBad || m.later })
    let s := s.count (F.mouldCnt_count Mc.bands) 0 1
    let s := s.count (F.mouldCnt_count Mc.shapes) 0 m.shapes
    let s := s.count (F.mouldCnt_count Mc.satPx) 0 m.sat
    let s := s.peak F.mouldCycles_peak 0 m.cost
    let s := s.event 180 0 islMould
    let s := match m.cause with
      | some c => ((s.count (F.mouldCnt_count Mc.malformed) 0 1).bandCause inst b c)
      | none => s
    let s := if m.cause.isSome || m.sat != 0 then s.event 181 0 islMould else s
    let line (y : Nat) (px : List Nat) : DoseLine :=
      { inst := inst, stripe := s.mould.stripe, bands := s.mould.bands, y := y, px := px
        params := if y == 0 then some ((List.range 4).map (fun k => s.nodeParam k 0)) else none }
    let rows := ((List.range 64).zip m.lines).map (fun e => line (64 * b + e.1) e.2)
    let tail := if b + 1 == s.mould.bands then
        (List.range 3).map (fun i => line (64 * (b + 1) + i) (List.replicate 4096 0))
      else []
    let s := s.sendDose (rows ++ tail)
    .next ({ s with mould.running := none }.reapJob id).mouldLook

/-- The Mould at the exit from EXPOSE: it stops at its current band (R351). -/
def State.mouldStop (s : State) : State := { s with mould := {}, kernels := [] }.mouldLook

end Sys2Proof.Machine
end

