-- ==== Sys2Proof/Machine/Motion.lean ====
section
/-! DEFINITION. The position axes (R119 to R130) and the Reel's loop, schedulers, captures and lock step (R131 to R137,
R142 to R157). The ticks themselves are in ReelTick. -/

namespace Sys2Proof.Machine

/-! ### Axes -/

def State.axis (s : State) (a : Nat) : Axis := Sparse.get (fun _ => {}) s.axes a
def State.setAxis (s : State) (a : Nat) (x : Axis) : State := { s with axes := Sparse.set (fun _ => {}) s.axes a x }

/-- MODE of an axis (R120): 0 OFF, 1 QUADRATURE, 2 HALL, 3 SERIAL. -/
def State.axisMode (s : State) (a : Nat) : Nat := s.rd F.posCtl_mode a

/-- Nanoseconds since the block's start: the Reel's own clock. -/
def State.nowNs (s : State) : Nat := 4 * s.clock

/-- The axis is the Reel's source. -/
def State.isSource (s : State) (a : Nat) : Bool := s.rd F.reelTrackCtl_src == a

/-- POS_UNCERTAIN of an axis set; the source axis's shows in REEL_STAT (R124, REEL_STAT UNCERTAIN). -/
def State.posUncertain (s : State) (a : Nat) : State :=
  let s := s.up F.posStat_posUncertain a
  if s.isSource a then s.up F.reelStat_uncertain else s

/-- The ratio in use (R132), in 2⁻³² stamp units per count. -/
def Reel.ratio (r : Reel) : Int :=
  if r.ramp < r.rampLen then r.ratioFrom + floorDiv ((r.ratioTo - r.ratioFrom) * r.ramp) r.rampLen else r.ratioTo

/-- A count step of the source axis moves the measured position (R132, R133). -/
def State.countStep (s : State) (a : Nat) (n : Int) : State :=
  if !s.isSource a then s else
  let r := s.reel
  let q := r.ratio
  let r := { r with
    ramp := if r.ramp < r.rampLen then r.ramp + 1 else r.ramp
    inbox := r.inbox ++ [Meas.mk false (n * q) s.nowNs q.natAbs] }
  { s with reel := r }

/-- HYST: 0 taken as 1. -/
def State.hyst (s : State) (a : Nat) : Nat := max 1 (s.rd F.posCtl_hyst a)

/-- One count of an axis (R122 to R124): POS_COUNT, DIR; answers whether DIR_EVENT is newly set. -/
def State.axisCount (s : State) (a : Nat) (n : Int) : State × Bool :=
  let s := s.wr F.posCount_value a (unsigned 32 (signed 32 (s.rd F.posCount_value a) + n))
  let s := s.countStep a n
  let x := s.axis a
  let forward := !s.flag F.posStat_dir a
  if decide (0 < n) == forward then (s.setAxis a { x with back := x.back - 1 }, false)
  else if x.back + 1 < s.hyst a then (s.setAxis a { x with back := x.back + 1 }, false)
  else
    let fresh := !s.flag F.posStat_dirEvent a
    let s := s.setAxis a { x with back := 0 }
    ((s.wr F.posStat_dir a (b2n forward)).up F.posStat_dirEvent a, fresh)

/-- An illegal transition (R122, R123): no count; answers whether POS_UNCERTAIN is newly set. -/
def State.quadErr (s : State) (a : Nat) : State × Bool :=
  let fresh := !s.flag F.posStat_posUncertain a
  ((s.count F.posQuadErr_count a 1).posUncertain a, fresh)

/-- INDEX_DEV and INDEX_MISMATCH (R126, R127): answers whether INDEX_MISMATCH is newly set. -/
def State.indexDev (s : State) (a : Nat) (dev : Int) : State × Bool :=
  let s := s.wr F.posIndexDev_value a (unsigned 32 dev)
  if s.rd F.posIndexTol_tol a < (signed 32 (unsigned 32 dev)).natAbs then
    let fresh := !s.flag F.posStat_indexMismatch a
    (s.up F.posStat_indexMismatch a, fresh)
  else (s, false)

/-- An index of an axis (R125 to R127). -/
def State.axisIndex (s : State) (a : Nat) : State × Bool :=
  let s := s.event (66 + 2 * a) 0 0x81
  let s := s.up F.posStat_indexSeen a
  let x := s.axis a
  let s := s.setAxis a { x with indexed := true }
  let count := signed 32 (s.rd F.posCount_value a)
  let value := signed 32 (s.rd F.posIndexValue_value a)
  let cpr := signed 32 (s.rd F.posCpr_value a)
  let mode := s.rd F.posCtl_indexMode a
  if mode == 1 then
    let (s, m) := if cpr != 0 && x.indexed then
        let expected := if s.flag F.posStat_dir a then value - cpr else value + cpr
        s.indexDev a (count - expected)
      else (s, false)
    (s.wr F.posCount_value a (unsigned 32 value), m)
  else if mode == 2 then
    if s.flag F.posStat_armed a then
      ((s.wr F.posCount_value a (unsigned 32 value)).down F.posStat_armed a, false)
    else if cpr != 0 then
      let half := Int.tdiv cpr 2
      s.indexDev a (Int.fmod (count - value + half) cpr - half)
    else (s, false)
  else (s, false)

/-- Positions in the forward sequence of (A, B), and of (U, V, W) (R122, R123). -/
def quadPhase (ab : Nat) : Nat := [0, 1, 3, 2].getD ab 0
def hallPhase (uvw : Nat) : Option Nat :=
  match uvw with
  | 1 => some 0
  | 3 => some 1
  | 2 => some 2
  | 6 => some 3
  | 4 => some 4
  | 5 => some 5
  | _ => none

/-- The counting that a filtered change brings (R121 to R123): from pins `old` to `new` in mode `mode`; whether QUAD_ERR or
DIR_EVENT raises the axis event. -/
def State.axisMove (s : State) (a mode old new : Nat) (x : Axis) : State × Bool :=
  let sign : Int := if s.flag F.posCtl_reverse a then -1 else 1
  if mode == 1 then
    let d := (quadPhase (new % 4) + 4 - quadPhase (old % 4)) % 4
    if d == 0 then (s, false) else if d == 2 then s.quadErr a
    else s.axisCount a (if d == 1 then sign else -sign)
  else if new / 8 == old / 8 then (s, false)
  else match hallPhase (new / 8), hallPhase (old / 8) with
    | some p, some q =>
      if x.lost then (s.setAxis a { x with lost := false }, false) else
      let d := (p + 6 - q) % 6
      if d == 1 then s.axisCount a sign else if d == 5 then s.axisCount a (-sign)
      else
        let (s, e) := s.quadErr a
        (s.setAxis a { s.axis a with lost := true }, e)
    | some _, none => (s.setAxis a { x with lost := false }, false)
    | none, _ =>
      let (s, e) := s.quadErr a
      (s.setAxis a { s.axis a with lost := true }, e)

/-- AXIS_FILTERED_CHANGE (R121 to R127, R157): the filtered levels of A, B, Z, U, V, W after one island edge. The first
levels after a pin's function takes effect are only set. -/
def execAxisFilteredChange (axis : Fin 8) (levels : BitVec 6) (s : State) : Out :=
  let a := axis.val
  let new := levels.toNat
  let old := s.rd F.posStat_pins a
  let mode := s.axisMode a
  let s := s.wr F.posStat_pins a new
  let x := s.axis a
  if mode != 1 && mode != 2 then .next s
  else if !x.seeded then .next (s.setAxis a { x with seeded := true, lost := mode == 2 && (hallPhase (new / 8)).isNone })
  else
    let (s, e1) := s.axisMove a mode old new x
    let gate := s.flag F.posCtl_indexGate a
    let z (l : Nat) : Bool := if gate then l % 8 == 7 else bit l 2
    let indexed := mode == 1 && z new && !z old
    let (s, e2) := if indexed then s.axisIndex a else (s, false)
    .next (if e1 || e2 then s.event (67 + 2 * a) 0 0x81 else s)

/-- AXIS_ARM (R127): a write of ARM = 1 with INDEX_MODE = 2. -/
def execAxisArm (axis : Fin 8) (s : State) : Out :=
  let a := axis.val
  .next (if s.rd F.posCtl_indexMode a == 2 then s.up F.posStat_armed a else s)

/-! ### Serial position (R129, R130) -/

/-- BITS as taken. -/
def State.serBits (s : State) (a : Nat) : Nat := clampNat 8 48 (s.rd F.posSerCtl_bits a)

/-- SERIAL_FRAME_START (R129): the latch instant, and the clock's rising edges. -/
def execSerialFrameStart (axis : Fin 8) (s : State) : Out :=
  let a := axis.val
  if s.axisMode a != 3 then .next s else
  let n := 1 + s.serBits a + (if s.flag F.posSerCtl_crcEn a then 6 else 0)
  let s := s.setAxis a { s.axis a with latch := some (s.nowNs + s.rd F.posSerTiming_latch a) }
  .next (s.emit (.serialClock a n))

/-- CRC-6 of the position bits in transmission order, most significant first: x⁶ + x + 1, initial value 0 (R129). -/
def crc6 (bitsN n : Nat) : Nat :=
  ((List.range n).reverse).foldl (fun c i => crcStepL 6 3 c (bitsN / 2 ^ i % 2)) 0

/-- Gray code to binary. -/
def grayDecode : Nat → Nat → Nat
  | 0, g => g
  | k + 1, g => grayDecode k (g ^^^ (g / 2 ^ (2 ^ k)))

/-- SERIAL_FRAME_DONE (R130): `frame` holds the sampled bits, the last one lowest; `recovering`: data was low at the
latch instant. -/
def execSerialFrameDone (axis : Fin 8) (recovering : Bool) (frame : BitVec 55) (s : State) : Out :=
  let a := axis.val
  let x := s.axis a
  match x.latch with
  | none => .next s
  | some t =>
    if s.axisMode a != 3 then .next s else
    let n := s.serBits a
    let crcN := if s.flag F.posSerCtl_crcEn a then 6 else 0
    let f := frame.toNat
    let raw := bits f crcN n
    let start := bit f (crcN + n)
    let crcBad := crcN != 0 && bits f 0 6 != crc6 raw n
    let pos := if s.flag F.posSerCtl_gray a then grayDecode 6 raw else raw
    let d : Int := match x.serLast with
      | some p => signed n (unsigned n ((pos : Int) - p))
      | none => 0
    let q := s.reel.ratio
    let pred : Int := if q == 0 || x.serLast.isNone then 0 else floorDiv (s.reel.v * ((t : Int) - x.serTime)) q
    let limit := s.rd F.posSerJump_limit a
    let bad := recovering || !start || crcBad
    let jump := !bad && x.serLast.isSome && limit != 0 && limit < (d - pred).natAbs
    if bad || jump then
      let s := s.count (if jump then F.posSerErr_jump else F.posSerErr_bad) a 1
      let n := x.discards + 1
      let s := s.setAxis a { x with latch := none, discards := n }
      if n != max 1 (s.rd F.posSerJump_coastMax a) then .next s else
      let fresh := !s.flag F.posStat_posUncertain a || !s.flag F.posStat_serBad a
      let s := (s.posUncertain a).up F.posStat_serBad a
      .next (if fresh then s.event (67 + 2 * a) 0 0x81 else s)
    else
      let first := x.serLast.isNone
      let s := s.setAxis a { x with latch := none, discards := 0, serLast := some pos, serTime := t }
      let s := s.wr64 F.posSerLastLo_data F.posSerLastHi_data a raw
      if first || !s.isSource a then .next s else
      let m := Meas.mk false (d * q) t (d * q).natAbs
      .next { s with reel.inbox := s.reel.inbox ++ [m] }

/-! ### The tracking loop (R133 to R136, R582) -/

/-- One stamp unit, in 2⁻³² stamp units. -/
def stampUnit : Int := 2 ^ 32

/-- The tick pitch in stamp units (R138). -/
def State.pitch (s : State) : Nat := if s.exposeImage then 8192 else 65536

/-- u of a position, and the native value of a value in u (R138). -/
def State.toU (s : State) (t : Int) : Int := if s.flag F.reelTrackCtl_forward then t else -t

/-- The stamp T at this edge (R137). -/
def State.stamp (s : State) : Int := floorDiv s.reel.t stampUnit

/-- REEL_POS, REEL_RATE, REEL_ADJ_LEFT and ADJUSTING show the loop. -/
def State.showReel (s : State) : State :=
  let r := s.reel
  let s := s.wrI64 F.reelPosLo_value F.reelPosHi_value 0 s.stamp
  let s := s.wr F.reelRate_hz 0 (min (2 ^ 24 - 1) (r.v.natAbs * 10 ^ 9 / 2 ^ 48))
  let s := s.wr F.reelRate_neg 0 (b2n (decide (r.v < 0)))
  let left := floorDiv (r.adjust + stampUnit / 2) stampUnit
  let s := s.wr F.reelAdjLeft_left 0 (unsigned 32 left)
  s.wr F.reelStat_adjusting 0 (b2n (r.adjust != 0))

/-- W follows u (R146). -/
def State.raiseW (s : State) : State :=
  let u := s.toU s.reel.t
  if s.reel.w < u then { s with reel.w := u } else s

/-- One Reel edge: T advances by V and by the share of the pending offset, and is held at one step beyond M (R133, R136,
R143). -/
def State.reelEdge (s : State) : State :=
  let r := s.reel
  if r.v == 0 then s else
  let lim : Nat := r.v.natAbs / 64
  let adj := clampInt (-(lim : Int)) lim r.adjust
  let axis := s.rd F.reelTrackCtl_src < 8
  let m := if axis then r.m + adj else r.m
  let t := r.t + r.v + adj
  let bound := if 0 < r.v then m + r.step else m - r.step
  let beyond := decide (if 0 < r.v then bound < t else t < bound)
  let r := { r with t := if beyond then bound else t, m := m, adjust := r.adjust - adj }
  let s := { s with reel := r }
  (if beyond then s.count F.reelClamp_count 0 1 else s).raiseW

/-- The shadowed fields take effect (R144). -/
def State.reelHandover (s : State) : State :=
  if !s.flag F.reelTrackCtl_shadowPending then s else
  let s := s.down F.reelTrackCtl_shadowPending
  let r := s.reel
  let ratio := s.rdI64 F.reelRatioLo_ratio F.reelRatioHi_ratio
  let ramp := min 20 (s.rd F.reelRamp_ramp)
  let now := r.ratio
  let r := if ratio == r.ratioTo then r else { r with ratioFrom := now, ratioTo := ratio, ramp := 0, rampLen := 2 ^ ramp }
  let r := { r with
    bw := s.rd F.reelTrackCtl_bw, rampReg := ramp
    minPeriod := max (if s.exposeImage then 250 else 2500) (s.rd F.reelMinPeriod_ns)
    stopTime := max 1 (s.rd F.reelStopTime_us) }
  { s with reel := r }

/-- The Reel over one tick of 4 ns (R133): four Reel edges; in STEP a pending hand-over takes effect (R144). -/
def State.reelTick4 (s : State) : State :=
  let s := if s.flag F.reelStat_step then s.reelHandover else s
  if s.reel.v == 0 then s else (s.reelEdge.reelEdge.reelEdge.reelEdge).showReel

/-- The loop enters STEP (R134). -/
def State.enterStep (s : State) : State :=
  let s := { s with reel.v := 0 }
  s.up F.reelStat_step

/-- 2π in units of 10⁻¹². -/
def twoPi : Nat := 6283185307180

/-- LOCKED (R135): 64 measurements in a row with |e| below 1/16 step; cleared above 1/2 step. -/
def State.lockStat (s : State) (e : Int) : State :=
  let r := s.reel
  let small := if 16 * e.natAbs < r.step then min 64 (r.small + 1) else 0
  let s := { s with reel.small := small }
  if small == 64 then s.up F.reelStat_locked
  else if r.step < 2 * e.natAbs then s.down F.reelStat_locked else s

/-- SAMPLE_PERIOD as taken. -/
def State.samplePeriod (s : State) : Nat := max 500 (s.rd F.reelFollowPeriod_samplePeriod)

/-- A measurement that sets T to M, in STEP or after a reversal or a stop (R134, R135). -/
def State.measureStep (s : State) (m move : Int) (run dt : Nat) : State :=
  let s := s.enterStep
  let s := { s with reel.t := m }
  let s := if 2 ≤ run && 0 < dt then
      ({ s with reel.v := floorDiv move dt }.down F.reelStat_step)
    else s
  (s.raiseW).showReel

/-- A measurement that the loop follows (R136, R582). -/
def State.measureLoop (s : State) (m : Int) (time dt : Nat) : State :=
  let r := s.reel
  let now := s.nowNs
  let e := m - (r.t - r.v * ((now - time : Nat) : Int))
  let f := 100 * 2 ^ r.bw
  -- the measurement rate is 10⁹ / dt
  let limited := decide (10 ^ 9 < 16 * f * dt)
  let s := s.wr F.reelStat_bwLimited 0 (b2n limited)
  -- w·dt in 2⁻⁶⁴, w the loop frequency in rad per ns
  let wdt : Nat := if limited then twoPi * 2 ^ 64 / (16 * 10 ^ 12) else twoPi * f * dt * 2 ^ 64 / 10 ^ 21
  let kp : Nat := min (2 ^ 64) (142 * wdt / 100)
  let ki : Nat := if dt == 0 then 0 else wdt * wdt / dt / 2 ^ 64
  let t := r.t + floorDiv ((kp : Int) * e) (2 ^ 64)
  let v := r.v + floorDiv ((ki : Int) * e) (2 ^ 64)
  let s := { s with reel.t := t, reel.v := v }
  ((s.lockStat e).raiseW).showReel

/-- A measurement at the Reel (R133 to R136, R582). -/
def State.measure (s : State) (q : Meas) : State :=
  let s := if s.flag F.reelStat_step then s.reelHandover else s
  let r := s.reel
  let m := if q.absolute then q.m else r.m + q.m
  let move := m - r.m
  let dir : Int := if 0 < move then 1 else if move < 0 then -1 else r.dir
  let stop := r.stopTime * 1000
  let gap := match r.last with
    | some t => q.time - t
    | none => stop + 1
  let dt := min gap stop
  let reversed := r.dir != 0 && dir != r.dir
  let run := if reversed || stop < gap then 1 else r.run + 1
  let step := if q.absolute then r.v.natAbs * s.samplePeriod else q.step
  let s := { s with reel := { r with m := m, dir := dir, last := some q.time, run := run, step := step } }
  if s.flag F.reelStat_step || reversed || stop < gap then s.measureStep m move run dt
  else s.measureLoop m q.time dt

/-- REEL_MEASUREMENT (R133, R582): the oldest measurement on its way reaches island 0x80. -/
def execReelMeasurement (s : State) : Out :=
  match s.reel.inbox with
  | [] => .next s
  | q :: rest => .next ({ s with reel.inbox := rest }.measure q)

/-- REEL_STOP_TIMEOUT (R134): no measurement for STOP_TIME. -/
def execReelStopTimeout (s : State) : Out :=
  if s.flag F.reelStat_step then .next s else
  .next ({ s.enterStep with reel.run := 0 }.showReel)

/-! ### Position writes (R139, R142, R143) -/

/-- H and W at the present position, every scheduler disarmed (R139, R142). -/
def State.resetH (s : State) : State :=
  let u := s.toU s.reel.t
  let h := floorDiv u (s.pitch * stampUnit)
  let s := { s with reel.h := h, reel.w := u }
  let s := s.wrI64 F.reelHwmLo_value F.reelHwmHi_value 0 (s.toU (h * s.pitch))
  forN 8 (fun i s => (s.down F.schedStat_armed i).down F.schedCtl_enable i) s

/-- REEL_FORWARD_WRITE (R139): accepted in CONFIGURE, in MAINTAIN, or in STEP. -/
def execReelForwardWrite (forward : Bool) (s : State) : Out :=
  if s.cmMode || s.flag F.reelStat_step then
    .next ((s.wr F.reelTrackCtl_forward 0 (b2n forward)).resetH)
  else .next (s.accessFault Af.wrongMode (F.reelTrackCtl_src.addr 0) 0x80 true)

/-- T and M loaded (R142, R154). -/
def State.loadPos (s : State) (stamp : Int) : State :=
  let s := { s with reel.t := stamp * stampUnit, reel.m := stamp * stampUnit }
  (s.resetH).showReel

/-- REEL_POS_SET (R142): the HI write. -/
def execReelPosSet (hi : Word) (s : State) : Out :=
  if !s.cmMode then .next (s.accessFault Af.wrongMode (F.reelPosSetHi_value.addr 0) 0x80 true) else
  let s := s.commitPair F.reelPosSetLo_value F.reelPosSetHi_value 0 hi
  .next (s.loadPos (s.rdI64 F.reelPosSetLo_value F.reelPosSetHi_value))

/-- A pending offset advanced, saturating at ±2,147,483,647 stamp units (R143). -/
def State.addOffset (s : State) (d : Int) : State :=
  let lim : Int := 2147483647 * stampUnit
  { s with reel.adjust := clampInt (-lim) lim (s.reel.adjust + d) }.showReel

/-- REEL_ADJUST (R143). -/
def execReelAdjust (offset : Word) (s : State) : Out := .next (s.addOffset (offset.toInt * stampUnit))

/-! ### Captures (R145) -/

def State.caps (s : State) (k : Nat) : List CapEntry := Sparse.get (fun _ => []) s.reel.caps k

/-- A capture FIFO replaced; its head and LEVEL show. -/
def State.setCaps (s : State) (k : Nat) (l : List CapEntry) : State :=
  let s := { s with reel.caps := Sparse.set (fun _ => []) s.reel.caps k l }
  let s := s.wr F.rcapStat_level k l.length
  let e := l.headD ⟨0, 0, 0⟩
  let s := s.wrI64 F.rcapPosLo_pos F.rcapPosHi_pos k e.pos
  (s.wr F.rcapTime_time k e.ns).wr F.rcapCount_count k e.count

/-- REEL_CAPTURE (R145): consumer 80 + k. -/
def execReelCapture (unit : Fin 8) (s : State) : Out :=
  let k := unit.val
  if !s.flag F.rcapCtl_enable k then .next s else
  let l := s.caps k
  if 4 ≤ l.length then
    .next (((s.up F.rcapStat_overrun k).count F.rcapStat_lost k 1).overrun (80 + k) 0x80)
  else .next (s.setCaps k (l ++ [CapEntry.mk s.stamp s.ns (s.rd F.posCount_value (s.rd F.rcapCtl_axis k))]))

/-- REEL_CAPTURE_POP (R145). -/
def execReelCapturePop (unit : Fin 8) (s : State) : Out := .next (s.setCaps unit.val (s.caps unit.val).tail)

/-! ### Schedulers (R146, R147) -/

def State.sched (s : State) (i : Nat) : Sched := Sparse.get (fun _ => {}) s.reel.scheds i
def State.setSched (s : State) (i : Nat) (v : Sched) : State :=
  { s with reel.scheds := Sparse.set (fun _ => {}) s.reel.scheds i v }

/-- TARGET of a scheduler, in u and stamp units. -/
def State.schedTarget (s : State) (i : Nat) : Int := s.toU (s.rdI64 F.schedTargetLo_target F.schedTargetHi_target i)

/-- TARGET set from u. -/
def State.setSchedTarget (s : State) (i : Nat) (u : Int) : State :=
  s.wrI64 F.schedTargetLo_target F.schedTargetHi_target i (s.toU u)

/-- W in stamp units. -/
def State.wStamp (s : State) : Int := floorDiv s.reel.w stampUnit

/-- Whether a target in u lies behind W. -/
def State.schedPassed (s : State) (i : Nat) : Bool := decide (s.schedTarget i * stampUnit < s.reel.w)

/-- A scheduler armed (R146, R147). -/
def State.armSched (s : State) (i : Nat) (rel : Bool) (gen : Nat := 0) : State :=
  let s := if rel then
      s.setSchedTarget i (s.wStamp + s.rdI64 F.schedTargetLo_target F.schedTargetHi_target i)
    else s
  let s := (s.up F.schedStat_armed i).up F.schedCtl_enable i
  s.setSched i { late := s.schedPassed i, gen := gen }

/-- A scheduler disarmed. -/
def State.disarmSched (s : State) (i : Nat) : State := (s.down F.schedStat_armed i).down F.schedCtl_enable i

/-- SCHED_ENABLE (R146): a write of the control word. -/
def execSchedEnable (unit : Fin 8) (ctl : Word) (s : State) : Out :=
  let i := unit.val
  let s := s.wr F.schedCtl_periodic i (F.schedCtl_periodic.ofWord ctl)
  let s := s.wr F.schedCtl_rel i (F.schedCtl_rel.ofWord ctl)
  let s := s.wr F.schedCtl_count i (F.schedCtl_count.ofWord ctl)
  if F.schedCtl_enable.ofWord ctl == 1 then .next (s.armSched i (F.schedCtl_rel.ofWord ctl == 1))
  else .next (s.disarmSched i)

/-- A TARGET write takes effect on an armed scheduler as an absolute target (R146). -/
def State.targetWritten (s : State) (i : Nat) : State :=
  if s.flag F.schedStat_armed i then s.setSched i { s.sched i with late := s.schedPassed i } else s

/-- SCHED_FIRE (R146, R147): an armed scheduler whose target u has reached, or that was armed behind W, raises
producer 82 + i. -/
def execSchedFire (unit : Fin 8) (s : State) : Out :=
  let i := unit.val
  let late := (s.sched i).late
  let due := late || decide (s.schedTarget i * stampUnit ≤ s.reel.w)
  if !s.flag F.schedStat_armed i || !due then .next s else
  let s := if late then s.up F.schedStat_late i else s
  let s := s.count F.schedStat_fires i 1
  let s := s.event (82 + i) (s.sched i).gen 0x80
  let n := s.rd F.schedCtl_count i
  let s := if n == 0 then s else s.wr F.schedCtl_count i (n - 1)
  let periodic := s.flag F.schedCtl_periodic i
  if !periodic || n == 1 then .next ((s.disarmSched i).setSched i {}) else
  let p : Int := max 4096 (s.rd64 F.schedPeriodLo_period F.schedPeriodHi_period i)
  let t := s.schedTarget i + p
  if late then
    -- past W in whole periods; the periods skipped count in MISSED
    let w := s.wStamp
    let k := if w < t then 0 else (floorDiv (w - t) p + 1).toNat
    let s := s.count F.schedStat_missed i k
    .next ((s.setSchedTarget i (t + p * k)).setSched i { s.sched i with late := false })
  else
    let s := s.setSchedTarget i t
    .next (s.setSched i { s.sched i with late := decide (t * stampUnit ≤ s.reel.w) })

/-- SCHED_ARM_EVENT (R147): consumer 88 + i arms with REL = 1. -/
def execSchedArmEvent (unit : Fin 8) (gen : Fin 8) (s : State) : Out :=
  let i := unit.val
  if s.flag F.schedStat_armed i then .next ((s.up F.schedStat_overrun i).overrun (88 + i) 0x80)
  else .next (s.armSched i true (gen.val + 1))

/-! ### Lock step (R148 to R155) -/

/-- The channel a sample carries: the source axis, or the channel a relaying follower follows. -/
def State.syncChannel (s : State) : Nat := s.rd F.reelTrackCtl_src % 8

/-- SYNC_SAMPLE_TX (R148, R149, R151): a sample falls due on a Sync lane. -/
def execSyncSampleTx (lane : Fin 8) (s : State) : Out :=
  let role := s.rd F.reelFollowCtl_role
  if (role != 1 && role != 3) || !bit (s.rd F.reelFollowCtl_txLanes) lane.val then .next s else
  match s.syncLane lane.val with
  | none => .next s
  | some n =>
    if !s.flag F.laneStat_bondUp n then .next s else
    -- a relaying follower relays only samples with HOPS = 0 (R150)
    if role == 3 && s.rd F.reelFollowStat_hopsRx != 0 then .next s else
    let a := s.syncChannel
    let port := 192 + 8 * lane.val + a
    if s.creditLeft port == 0 then .next (s.count F.reelFollowSkip_skipped 0 1) else
    let s := s.spend port 1
    let seq := Sparse.get (fun _ => 0) s.reel.txSeq port
    let s := { s with reel.txSeq := Sparse.set (fun _ => 0) s.reel.txSeq port ((seq + 1) % 65536) }
    let l := s.lane n
    let delay : Nat := (32 + l.blk) * 66 * 10 ^ 5 / max 1 (s.rate n)
    let t := floorDiv (s.reel.t + s.reel.v * (delay : Int)) stampUnit
    let flags := a + s.rd F.reelStat_uncertain * 8 + s.rd F.reelStat_step * 16 + s.rd F.reelStat_coasting * 32
    let hops := if role == 3 then 1 else 0
    let head := leBytes 1 flags ++ leBytes 2 seq ++ leBytes 1 hops ++ leBytes 1 (s.rd F.reelFollowCtl_leaderId)
    let d1 := leBytes 8 (unsigned 64 t)
    let d2 := leBytes 6 (unsigned 48 s.reel.v)
    let crc := crc16 (head ++ d1 ++ d2)
    let s := s.launch n (leBytes 1 0x30 ++ head) s.counter
    let s := s.emit (.block n false (leNat d1))
    .next (s.emit (.block n false (leNat (d2 ++ leBytes 2 crc))))

/-- A valid sample is a measurement (R152 to R154): T and V of the sample, its instant in ns. -/
def State.takeSample (s : State) (t v : Int) (time : Nat) : State :=
  let first := !s.reel.followed
  let lost := s.flag F.reelStat_coasting || s.reel.coast.isSome
  let s := { s with reel.followed := true, reel.coast := none }
  let s := s.down F.reelStat_coasting
  if first && s.cmMode then
    -- T, V and H are set directly
    let s := s.loadPos t
    let s := { s with reel.v := v, reel.step := v.natAbs * s.samplePeriod, reel.last := some time, reel.run := 1 }
    (if v == 0 then s else s.down F.reelStat_step).showReel
  else if lost && !s.cmMode then
    -- the difference M − T goes to the pending offset
    let m := t * stampUnit
    let s := s.addOffset (m - s.reel.t)
    let s := { s with reel.m := m, reel.last := some time, reel.run := 1 }
    s
  else s.measure (Meas.mk true (t * stampUnit) time 0)

/-- SYNC_SAMPLE_RX (R149, R150, R152): SAMPLE and its two data blocks, the SAMPLE's marked instant arriving at
`arrival`, a 32.32 time of the Reel's clock. -/
def State.syncSample (s : State) (i : Nat) (sample d1 d2 arrival : Nat) : State :=
  match s.syncLane i with
  | none => s
  | some n =>
    let a := bits sample 8 3
    let port := 192 + 8 * i + a
    let crc := crc16 (leBytes 5 (sample / 256) ++ leBytes 8 d1 ++ leBytes 6 d2)
    let leader := bits sample 40 8
    let want := s.rd F.reelFollowCtl_leaderId
    if crc != d2 / 2 ^ 48 || (want != 0 && leader != want) || bits sample 14 2 != 0 || bits sample 34 6 != 0 then
      s.count F.reelFollowErr_malformed 0 1
    else
      let (s, taken) := s.takeSeq port 16 (bits sample 16 16) (some n)
      let s := s.grant port 1
      if !taken then s else
      let hops := bits sample 32 2
      if 2 ≤ hops then s.count F.reelFollowErr_depth 0 1 else
      let role := s.rd F.reelFollowCtl_role
      if (role != 2 && role != 3) || s.rd F.reelTrackCtl_src != 8 || s.rd F.reelFollowCtl_rxLane != i then s else
      let s := s.wr F.reelFollowStat_hopsRx 0 hops
      let s := s.wr F.reelFollowStat_leaderRx 0 leader
      let time := (arrival / 2 ^ 32) - s.rd F.reelFollowLat_ps / 1000
      s.takeSample (signed 64 d1) (signed 48 d2) time

/-- SYNC_SAMPLE_RX (R152). -/
def execSyncSampleRx (lane : Fin 8) (sample data1 data2 : BitVec 64) (arrival : BitVec 64) (s : State) : Out :=
  .next (s.syncSample lane.val sample.toNat data1.toNat data2.toNat arrival.toNat)

/-- FOLLOW_LOST (R153): no valid sample for TIMEOUT periods. -/
def execFollowLost (s : State) : Out :=
  let role := s.rd F.reelFollowCtl_role
  if (role != 2 && role != 3) || s.flag F.reelStat_coasting then .next s else
  let s := ((s.up F.reelStat_followLost).up F.reelStat_uncertain).up F.reelStat_coasting
  .next { s with reel.coast := some s.nowNs }

/-- FOLLOW_COAST_END (R153): V = 0 and STEP. -/
def execFollowCoastEnd (s : State) : Out :=
  if !s.flag F.reelStat_coasting then .next s else
  .next ((s.down F.reelStat_coasting).enterStep.showReel)

end Sys2Proof.Machine
end

