-- ==== Sys2Proof/Machine/Scree.lean ====
section
/-! DEFINITION. The Scree (R387 to R405): the driver back channel and register exchange, measurement cycles, beam
classes, the rebuilt Beam Order Table and its commit, and the drivers' temperature. -/

namespace Sys2Proof.Machine

/-! Counters of the Scree, by place. -/
namespace Zc
def cycles : Nat := 0
def cut : Nat := 1
def bad : Nat := 2
def unmeasured : Nat := 3
def bcDrop : Nat := 4
def deferred : Nat := 5
def warnEvents : Nat := 6
def critEvents : Nat := 7
def sensorFault : Nat := 8
def dctlTimeout : Nat := 9
end Zc

/-- The Scree's island. -/
def islScree : Nat := 0x8B

def State.zCount (s : State) (k n : Nat) : State := s.count (F.screeCnt_count k) 0 n

/-- The Scree's view of a channel. -/
def State.screeCh (s : State) (h : Nat) : ScreeCh := Sparse.get (fun _ => {}) s.screeChs h
def State.setScreeCh (s : State) (h : Nat) (c : ScreeCh) : State :=
  { s with screeChs := Sparse.set (fun _ => {}) s.screeChs h c }

/-- A channel in service: its lane is used by a quad in the BLANKER role (R94, R368). -/
def State.drvInService (s : State) (h : Nat) : Bool := h < 48 && s.laneRole h == Role.blanker && s.laneUsed h

/-- The channels in service. -/
def State.drvChannels (s : State) : List Nat := (List.range 48).filter s.drvInService

/-! ### The Beam Order Table (R360, R361) -/

def botLo : Nat := 0x02000000
def botHi : Nat := 0x02108000

/-- The window address of beam (r, c). -/
def botAddr (c r : Nat) : Nat := F.botEntry_entry.addr (528 * c + r)

/-- An entry of the active bank. -/
def State.beam (s : State) (c r : Nat) : Nat := (Sparse.get resetWord s.botActive (botAddr c r)).toNat % 4096

/-- An entry of the inactive bank. -/
def State.beamInactive (s : State) (c r : Nat) : Nat := s.rd F.botEntry_entry (528 * c + r)

def beamRank (e : Nat) : Nat := e % 1024
def beamDead (e : Nat) : Bool := bit e 10
def beamStuck (e : Nat) : Bool := bit e 11

/-- A column is valid (R361): its ranks are a permutation of 0 to 527, DEAD only at 512 and above, and the k STUCK_ON
entries hold ranks 0 to k − 1 and are not DEAD. -/
def columnValid (col : List Nat) : Bool :=
  let k := (col.filter beamStuck).length
  (List.range 528).all (fun i => (col.map beamRank).contains i) && col.length == 528 &&
  col.all (fun e => (!beamDead e || 512 ≤ beamRank e) && (!beamStuck e || (beamRank e < k && !beamDead e)))

/-- The first invalid column of the inactive bank. -/
def State.badColumn (s : State) : Option Nat :=
  (List.range 512).find? (fun c => !columnValid ((List.range 528).map (s.beamInactive c)))

/-- k(c): STUCK_ON entries of a column of the active table (R363). -/
def State.floorOf (s : State) (c : Nat) : Nat := ((List.range 528).filter (fun r => beamStuck (s.beam c r))).length

/-- LAID_FLOOR and FLOOR_ACTIVE (R363). -/
def State.showFloor (s : State) : State :=
  let s := forN 64 (fun w s => s.wr F.laidFloor_floor w
    (((List.range 8).map (fun (i : Nat) => min 15 (s.floorOf (8 * w + i)) * 16 ^ i)).sum)) s
  s.wr F.laidLineStat_floorActive 0 (b2n ((List.range 512).any (fun c => s.floorOf c != 0)))

/-- The banks exchange (R361, R400), and the copy of R401 begins. -/
def State.orderSwap (s : State) : State :=
  let window := s.regs.filter (fun (e : Nat × Word) => botLo ≤ e.1 && e.1 < botHi)
  let s := s.botActive.foldl (fun (t : State) e => t.setReg e.1 e.2) (s.resetSpan botLo botHi)
  let s := { s with botActive := window, scree.touched := [] }
  let s := s.wr F.screeStat_orderGen 0 (s.rd F.screeStat_orderGen + 1)
  ((s.up F.screeStat_applied).up F.screeStat_syncing).showFloor

/-- A commit that has reached the Laid takes effect at a hand-over (R361, R400, R401). -/
def State.applyOrder (s : State) : State :=
  if !s.flag F.screeStat_commitPending || s.flag F.screeStat_syncing then s else
  let s := s.down F.screeStat_commitPending
  match s.badColumn with
  | none => s.orderSwap
  | some c => ((s.up F.screeStat_rejected).up F.laidLineStat_orderBad).wr F.laidOrderBadCol_column 0 c

/-- SCREE_COPY_DONE (R401): the copy ends; entries changed since the exchange are kept. -/
def execScreeCopyDone (s : State) : Out :=
  if !s.flag F.screeStat_syncing then .next s else
  let kept := s.scree.touched
  let window := s.regs.filter (fun (e : Nat × Word) => botLo ≤ e.1 && e.1 < botHi && kept.contains ((e.1 - botLo) / 4))
  let fresh := s.botActive.filter (fun (e : Nat × Word) => !kept.contains ((e.1 - botLo) / 4))
  let s := (window ++ fresh).foldl (fun (t : State) e => t.setReg e.1 e.2) (s.resetSpan botLo botHi)
  .next (({ s with scree.touched := [] } : State).down F.screeStat_syncing)

/-- A commit (R400); outside EXPOSE images it has no effect. -/
def State.orderCommit (s : State) : State := if s.exposeImage then s.up F.screeStat_commitPending else s

/-- SCREE_COMMIT (R400): the write of COMMIT at the agent's safe point. -/
def execScreeCommit (s : State) : Out := .next s.orderCommit

/-- SCREE_COMMIT_EVENT (R400): consumer 133. -/
def execScreeCommitEvent (s : State) : Out := .next s.orderCommit

/-- An entry written to the inactive bank by the host with AUTO = 0, or by a rebuild (R361, R401, R402). -/
def State.writeBeam (s : State) (x entry : Nat) : State :=
  let s := s.wr F.botEntry_entry x entry
  if s.flag F.screeStat_syncing && !s.scree.touched.contains x then { s with scree.touched := s.scree.touched ++ [x] } else s

/-! ### Beam classes (R397, R399) -/

namespace Cls
def good : Nat := 0
def dead : Nat := 1
def stuckOn : Nat := 2
def suspect : Nat := 3
end Cls

/-- A field of beam `x`'s half-word of the health window. -/
def healthFld (f : Fld) (x : Nat) : Fld := { f with lo := f.lo + 16 * (x % 2) }
def State.beamClass (s : State) (x : Nat) : Nat := s.rd (healthFld F.healthWord_class0 x) (x / 2)
def State.beamForce (s : State) (x : Nat) : Nat := s.rd (healthFld F.healthWord_force0 x) (x / 2)

/-- The class a FORCE code gives: 1 GOOD, 2 DEAD, 3 STUCK_ON. -/
def forcedClass (f : Nat) : Nat := f - 1

/-- SCREE_COL of a column, and the degraded columns (R399). -/
def State.showColumn (s : State) (c : Nat) : State :=
  let cls := (List.range 528).map (fun r => s.beamClass (528 * c + r))
  let n := (cls.filter (· == Cls.dead)).length
  let k := (cls.filter (· == Cls.stuckOn)).length
  let s := ((s.wr F.screeCol_deadN c n).wr F.screeCol_stuckN c k).wr F.screeCol_ceiling c (min 511 (528 - n))
  (s.wr F.screeCol_exhausted c (b2n (16 < n))).wr F.screeCol_floorOver c (b2n (s.rd F.screeFloorMax_floorMax < k))

/-- A degraded column (R399). -/
def State.columnDegraded (s : State) (c : Nat) : Bool := s.flag F.screeCol_exhausted c || s.flag F.screeCol_floorOver c

/-- SCREE_DEGRADED and, once no column is degraded or they are allowed, the end of DEGRADED_HOLD. -/
def State.showDegraded (s : State) : State :=
  let l := (List.range 512).filter s.columnDegraded
  let s := (s.wr F.screeDegraded_count 0 l.length).wr F.screeDegraded_first 0 (l.headD 0)
  if l.isEmpty || s.flag F.screeCtl_allowDegraded then s.down F.screeStat_degradedHold else s

/-- FLOOR_MAX or the classes of every column may have changed. -/
def State.showColumns (s : State) : State := (forN 512 (fun c s => s.showColumn c) s).showDegraded

/-- A beam's class set. -/
def State.setClass (s : State) (x cls : Nat) : State :=
  if s.beamClass x == cls then s else
  let s := s.wr (healthFld F.healthWord_class0 x) (x / 2) cls
  let c := x / 528
  let col := if s.scree.changed.contains c then s.scree.changed else s.scree.changed ++ [c]
  ({ s with scree.changed := col, scree.changes := s.scree.changes + 1 }.showColumn c).showDegraded

/-- The verdict of a value (R397); none for FLAG 1. -/
def State.verdict (s : State) (v : Nat) : Option Nat :=
  let flag := v / 2 ^ 14 % 4
  let res := v % 2 ^ 14
  let as (b : Bool) : Nat := if b then Cls.stuckOn else Cls.dead
  if flag == 1 then none
  else if flag == 2 || s.rd F.screeMeasLimits_openLimit ≤ res then some (as (s.flag F.screeCtl_openAs))
  else if flag == 3 || res ≤ s.rd F.screeMeasLimits_shortLimit then some (as (s.flag F.screeCtl_shortAs))
  else if res < s.rd F.screeWeak_weakLo || s.rd F.screeWeak_weakHi < res then some Cls.suspect
  else some Cls.good

/-- BEAM_CLASSIFY (R397): what a cycle's value, or its absence, does to a beam. -/
def State.classify (s : State) (x : Nat) (v : Option Nat) : State :=
  let s := match v with
    | some v =>
      if v / 2 ^ 14 % 4 == 1 then s else
      s.wr (healthFld F.healthWord_last0 x) (x / 2) (if v / 2 ^ 14 % 4 == 2 then 0xFFF else v % 2 ^ 14 / 4)
    | none => s
  match v.bind s.verdict with
  | none => { s with scree.verdicts := Sparse.erase s.scree.verdicts x }
  | some c =>
    let n := match s.scree.verdicts.lookup x with
      | some (d, k) => if d == c then k + 1 else 1
      | none => 1
    let s := { s with scree.verdicts := Sparse.insert s.scree.verdicts x (c, n) }
    if max 1 (s.rd F.screeCtl_confirm) ≤ n && s.beamForce x == 0 then s.setClass x c else s

/-- A write of FORCE of a beam (R397): a forced beam takes its class whatever its verdicts. -/
def State.forceBeam (s : State) (x f : Nat) : State :=
  let s := s.wr (healthFld F.healthWord_force0 x) (x / 2) f
  if f == 0 || !s.exposeImage then s else s.setClass x (forcedClass f)

/-- The classes at the start of the run mode (R397). -/
def State.screeEnter (s : State) : State :=
  let s := { s with scree.verdicts := [] }
  let s := forN (528 * 512) (fun x s =>
    let e := s.beam (x / 528) (x % 528)
    let f := s.beamForce x
    let c := if f != 0 then forcedClass f else if beamStuck e then Cls.stuckOn else if beamDead e then Cls.dead else Cls.good
    s.wr (healthFld F.healthWord_class0 x) (x / 2) c) s
  ({ s with scree.changed := [], scree.changes := 0 } : State).showColumns

/-! ### The rebuilt table (R398, R399) -/

/-- A column rebuilt in the inactive bank (R398). -/
def State.rebuildColumn (s : State) (c : Nat) : State :=
  let rows (p : Nat → Bool) : List Nat := (List.range 528).filter (fun r => p (s.beamClass (528 * c + r)))
  let stuck := rows (· == Cls.stuckOn)
  let live := rows (fun k => k == Cls.good || k == Cls.suspect)
  let live := live.mergeSort (fun a b => beamRank (s.beam c a) ≤ beamRank (s.beam c b))
  let dead := rows (· == Cls.dead)
  let order := stuck ++ live ++ dead
  forAll ((List.range order.length).zip order) (fun e s =>
    let isStuck := e.1 < stuck.length
    let isDead := stuck.length + live.length ≤ e.1
    s.writeBeam (528 * c + e.2) (e.1 + b2n (isDead && 512 ≤ e.1) * 1024 + b2n isStuck * 2048)) s

/-- MEAS_STATE as the window and the cycle stand. -/
def State.showMeas (s : State) : State :=
  s.wr F.screeStat_measState 0
    (if s.scree.running then 2 else if s.rd F.screeStat_measState == 3 then 3
     else if s.exposeImage && s.laid.running then 1 else 0)

/-- TABLE_REBUILD_DONE (R398 to R400): the changed columns are built and, unless R399 holds it, committed. -/
def execTableRebuildDone (s : State) : Out :=
  if s.rd F.screeStat_measState != 3 then .next s else
  let s := forAll s.scree.changed (fun c s => s.rebuildColumn c) s
  let s := ({ s with scree.changed := [] } : State).wr F.screeStat_measState 0 0
  let s := s.showMeas
  if (List.range 512).any s.columnDegraded && !s.flag F.screeCtl_allowDegraded then
    let fresh := !s.flag F.screeStat_degradedHold
    let s := s.up F.screeStat_degradedHold
    .next (if fresh then s.event 190 0 islScree else s)
  else .next (s.down F.screeStat_degradedHold).orderCommit

/-! ### Driver register exchange (R389 to R391) -/

/-- A DRV_CTRL and its data block on channel `h` (R368, R389). -/
def State.sendDrvCtrl (s : State) (h ctag : Nat) (write : Bool) (addr data : Nat) : State :=
  if !s.drvInService h then s else
  let s := s.emit (.block h true (ctrlBlock (leBytes 1 0x34 ++ leBytes 1 (ctag + b2n write * 32))))
  s.emit (.block h false (addr + data * 2 ^ 32))

/-- MEAS_START to channel `h` (R391, R392). -/
def State.sendStart (s : State) (h : Nat) : State :=
  let c := s.screeCh h
  let t := (c.ctag + 1) % 32
  let s := s.setScreeCh h { c with ctag := t, start := some ⟨t, true⟩, startWaits := false, startSent := true }
  s.sendDrvCtrl h t true 0x100 (s.rd F.screeCycle_cycle + 256)

/-- The channel's measurement holds it: MEAS_START was sent and it has not delivered its 235 messages (R390). -/
def State.measuring (s : State) (h : Nat) : Bool :=
  s.scree.running && (s.screeCh h).startSent && (s.screeCh h).got.length < 235

/-- A waiting host request is sent where no stripe runs and no measurement holds its channel (R389, R390). -/
def State.sendHost (s : State) : State :=
  let h := s.rd F.screeDctl_channel
  if !s.scree.hostWaits || s.laid.running || s.measuring h then s else
  let c := s.screeCh h
  let t := (c.ctag + 1) % 32
  let w := s.flag F.screeDctl_write
  let s := s.setScreeCh h { c with ctag := t, host := some ⟨t, w⟩ }
  let s := { s with scree.hostWaits := false }
  (s.wr F.screeDctl_ctag 0 t).sendDrvCtrl h t w (s.rd F.screeDctlAddr_addr) (s.rd F.screeDctlData_data)

/-- SCREE_DCTL_GO (R389): a write of SCREE_DCTL; a GO while BUSY is discarded and logged as CONFLICT. -/
def execScreeDctlGo (value : Word) (s : State) : Out :=
  let go := F.screeDctl_go.ofWord value == 1
  if s.flag F.screeDctl_busy then
    .next (if go then s.accessFault Af.conflict (F.screeDctl_channel.addr 0) islScree true else s) else
  let s := s.wr F.screeDctl_channel 0 (F.screeDctl_channel.ofWord value)
  let s := s.wr F.screeDctl_write 0 (F.screeDctl_write.ofWord value)
  if !go || !s.exposeImage then .next s else
  let s := (s.up F.screeDctl_busy).wr F.screeDctl_result 0 0
  .next ({ s with scree.hostWaits := true } : State).sendHost

/-- DRV_CTRL_SEND (R389, R390): a request that waited is sent. -/
def execDrvCtrlSend (s : State) : Out := .next s.sendHost

/-- The host's exchange ends with a RESULT; a MEAS_START that waited for it is sent (R389, R390). -/
def State.endHost (s : State) (h result : Nat) : State :=
  let c := s.screeCh h
  let s := s.setScreeCh h { c with host := none }
  let s := (s.down F.screeDctl_busy).wr F.screeDctl_result 0 result
  if c.startWaits && s.scree.running then s.sendStart h else s

/-- A DRV_ACK that matches nothing outstanding, or lacks its data block (R201, R374, R389). -/
def State.ackBad (s : State) (h : Nat) : State :=
  (s.count F.screeDctl_ackBad 0 1).count F.laidChErr_statusBad h 1

/-- FILL, HWM and PEAK of a back-channel buffer (R387). -/
def State.showBuffer (s : State) (h : Nat) : State :=
  let n := ((s.screeCh h).buffer.map (fun m => 1 + m.blocks.length)).sum
  let s := s.wr F.screeBc_fill h n
  let s := if 192 ≤ n then s.up F.screeBc_hwm h else s
  s.peak F.screeBc_peak h n

/-- The oldest message of a channel's buffer of one kind, once it is at its end, and the buffer without it. -/
def State.takeBack (s : State) (h : Nat) (ack : Bool) : Option (BackMsg × State) :=
  let c := s.screeCh h
  match c.buffer with
  | m :: rest =>
    if m.closed && m.ack == ack then some (m, (s.setScreeCh h { c with buffer := rest }).showBuffer h) else none
  | [] => none

/-- DRV_ACK_RX (R387, R389): the Scree takes a DRV_ACK. -/
def execDrvAckRx (channel : Fin 48) (s : State) : Out :=
  let h := channel.val
  match s.takeBack h true with
  | none => .next s
  | some (m, s) =>
    let ctag := bits m.ctrl 8 5
    let result := bits m.ctrl 16 8
    let c := s.screeCh h
    match m.blocks with
    | [d] =>
      if c.host.any (fun q => q.ctag == ctag) then
        let s := s.wr F.screeDctlData_data 0 (d / 2 ^ 32)
        .next (s.endHost h (if result == 0 then 1 else if result == 2 then 3 else 2))
      else if c.start.any (fun q => q.ctag == ctag) then .next (s.setScreeCh h { c with start := none })
      else .next (s.ackBad h)
    | _ => .next (s.ackBad h)

/-- DRV_CTRL_TIMEOUT (R389): no answer 1.0 ms after the DRV_CTRL left, of the host's request or of MEAS_START. -/
def execDrvCtrlTimeout (channel : Fin 48) (start : Bool) (s : State) : Out :=
  let h := channel.val
  let c := s.screeCh h
  if start then
    if c.start.isNone then .next s else
    .next ((s.setScreeCh h { c with start := none }).zCount Zc.dctlTimeout 1)
  else
    if c.host.isNone then .next s else .next ((s.zCount Zc.dctlTimeout 1).endHost h 4)

/-! ### Measurement cycles (R392 to R396) -/

/-- The measurement window is open (R392). -/
def State.windowOpen (s : State) : Bool := s.exposeImage && !s.laid.running

/-- A cycle starts (R392): MEAS_START goes to every channel in service; one with a host request outstanding or waiting
defers it (R390). -/
def State.startCycle (s : State) (gen : Nat) : State :=
  let s := s.wr F.screeCycle_cycle 0 (s.rd F.screeCycle_cycle + 1)
  let s := { s with scree.running := true, scree.gen := gen, scree.values := [], scree.opened := false }
  let s := forAll s.drvChannels (fun h s =>
    let s := s.setScreeCh h { s.screeCh h with got := [], startSent := false, startWaits := false }
    let busy := (s.screeCh h).host.isSome || (s.scree.hostWaits && s.rd F.screeDctl_channel == h)
    if busy then (s.setScreeCh h { s.screeCh h with startWaits := true }).zCount Zc.deferred 1 else s.sendStart h) s
  s.wr F.screeStat_measState 0 2

/-- A start is possible (R392). -/
def State.mayMeasure (s : State) : Bool := !s.scree.running && s.windowOpen && s.flag F.screeCtl_measEn

/-- MEAS_CYCLE_START (R392): the opening of the window. -/
def execMeasCycleStart (s : State) : Out :=
  if s.scree.opened && s.mayMeasure then .next (s.startCycle 0) else .next s

/-- MEAS_NOW (R392). -/
def execMeasNow (s : State) : Out := .next (if s.mayMeasure then s.startCycle 0 else s)

/-- MEAS_EVENT (R392): consumer 132; an ignored start sets its overrun flag. -/
def execMeasEvent (gen : Fin 8) (s : State) : Out :=
  .next (if s.mayMeasure then s.startCycle (gen.val + 1) else s.overrun 132 islScree)

/-- MEAS_DEFER_EXPIRY (R390): MAX_DEFER_US has passed. -/
def execMeasDeferExpiry (channel : Fin 48) (s : State) : Out :=
  let h := channel.val
  .next (if s.scree.running && (s.screeCh h).startWaits then s.sendStart h else s)

/-- The beam (528c + r) of index `b` within channel `h` (R394). -/
def beamAt (h b : Nat) : Nat := 528 * (b % 512) + 11 * h + b / 512

/-- A whole message passes R396: `ctrl` the control payload, its data blocks. -/
def measOk (cycle ctrl : Nat) (blocks : List Nat) : Bool :=
  let first := bits ctrl 16 16
  let n := bits ctrl 32 8
  bits ctrl 8 8 == cycle && 1 ≤ n && n ≤ 8 && blocks.length == n && first % 24 == 0 && first ≤ 5616 &&
  blocks.all (fun d => d / 2 ^ 48 == crc16 (leBytes 5 (ctrl / 256) ++ leBytes 6 d)) &&
  ((List.range n).zip blocks).all (fun e => (List.range 3).all (fun i =>
    first + 3 * e.1 + i ≤ 5631 || bits e.2 (16 * i) 16 == 0x4000))

/-- IDLE_MEAS_RX (R394 to R396): the Scree takes a message. -/
def execIdleMeasRx (channel : Fin 48) (s : State) : Out :=
  let h := channel.val
  match s.takeBack h false with
  | none => .next s
  | some (m, s) =>
    if !s.scree.running || !measOk (s.rd F.screeCycle_cycle) m.ctrl m.blocks then .next (s.zCount Zc.bad 1) else
    let first := bits m.ctrl 16 16
    let c := s.screeCh h
    let s := if c.got.contains first then s else s.setScreeCh h { c with got := c.got ++ [first] }
    .next (forAll ((List.range m.blocks.length).zip m.blocks) (fun e s =>
      forN 3 (fun i s =>
        let b := first + 3 * e.1 + i
        if 5632 ≤ b then s else
        { s with scree.values := Sparse.insert s.scree.values (beamAt h b) (bits e.2 (16 * i) 16) }) s) s)

/-- The end of a cycle, complete or CUT (R393, R397, R398). -/
def State.endCycle (s : State) (cut : Bool) : State :=
  let vals := s.scree.values
  let beams := s.drvChannels.flatMap (fun h => (List.range 5632).map (beamAt h))
  let missing := (beams.filter (fun x => (vals.lookup x).all (fun v => v / 2 ^ 14 % 4 == 1))).length
  let s := s.zCount Zc.unmeasured missing
  let s := forAll beams (fun x s => s.classify x (vals.lookup x)) s
  let s := s.zCount (if cut then Zc.cut else Zc.cycles) 1
  let s := s.wr F.screeCycle_done 0 (s.rd F.screeCycle_cycle)
  let s := s.wr F.screeCycle_changes 0 (min 65535 s.scree.changes)
  let s := s.event 190 s.scree.gen islScree
  let s := forAll s.drvChannels (fun h s => s.setScreeCh h { s.screeCh h with startWaits := false, startSent := false }) s
  let rebuild := s.flag F.screeCtl_auto && s.scree.changes != 0
  let s := { s with scree.running := false, scree.values := [], scree.changes := 0 }
  (s.wr F.screeStat_measState 0 (if rebuild then 3 else 0)).showMeas

/-- MEAS_CYCLE_COMPLETE (R393): every channel has delivered its 235 messages. -/
def execMeasCycleComplete (s : State) : Out :=
  let all := s.drvChannels.all (fun h => (s.screeCh h).got.length == 235)
  .next (if s.scree.running && all then s.endCycle false else s)

/-- MEAS_TIMEOUT (R393): TIMEOUT_US since the start of the cycle. -/
def execMeasTimeout (s : State) : Out := .next (if s.scree.running then s.endCycle false else s)

/-- The window closes at a hand-over (R392, R393). -/
def State.closeWindow (s : State) : State :=
  let s := { s with scree.opened := false }
  (if s.scree.running then s.endCycle true else s).showMeas

/-! ### The back-channel buffer (R387) -/

/-- A message at its control block: admitted when the buffer has room for all its blocks, otherwise discarded. -/
def State.backStart (s : State) (h : Nat) (ack : Bool) (ctrl : Nat) : State :=
  let n := if ack then 1 else bits ctrl 32 8
  let c := s.screeCh h
  let held := (c.buffer.map (fun m => 1 + m.blocks.length)).sum
  if 256 < held + 1 + n then (s.setScreeCh h { c with discard := n }).zCount Zc.bcDrop 1 else
  (s.setScreeCh h { c with discard := 0, buffer := c.buffer ++ [⟨ack, ctrl, [], n == 0⟩] }).showBuffer h

/-- The message that still takes data blocks on a channel. -/
def ScreeCh.openMsg (c : ScreeCh) : Option BackMsg := c.buffer.getLast?.filter (fun m => !m.closed)

/-- A data block of an open message, or of one being discarded; answers whether a message took it. -/
def State.backData (s : State) (h d : Nat) : State × Bool :=
  let c := s.screeCh h
  if 0 < c.discard then (s.setScreeCh h { c with discard := c.discard - 1 }, true) else
  match c.openMsg with
  | none => (s, false)
  | some m =>
    let n := if m.ack then 1 else bits m.ctrl 32 8
    let blocks := m.blocks ++ [d]
    let m := { m with blocks := blocks, closed := n ≤ blocks.length }
    ((s.setScreeCh h { c with buffer := c.buffer.dropLast ++ [m] }).showBuffer h, true)

/-- Another block than data, IDLE or ALIGN ends an open message short (R201, R396). -/
def State.backBreak (s : State) (h : Nat) : State :=
  let c := s.screeCh h
  match c.openMsg with
  | none => s.setScreeCh h { c with discard := 0 }
  | some m => s.setScreeCh h { c with discard := 0, buffer := c.buffer.dropLast ++ [{ m with closed := true }] }

/-! ### Driver temperature (R403, R404) -/

/-- WARN_C, CRIT_C (below WARN_C taken as WARN_C) and HYST in °C. -/
def State.warnC (s : State) : Int := signed 8 (s.rd F.screeTempLimits_warnC)
def State.critC (s : State) : Int := max s.warnC (signed 8 (s.rd F.screeTempLimits_critC))
def State.hystC (s : State) : Int := (s.rd F.screeTempLimits_hyst : Nat)

/-- A channel's temperature as taken: none for a channel that is not current, or has no reading with
FAULT_AS_CRIT = 0. -/
def State.tempTaken (s : State) (h : Nat) : Option Int :=
  let c := s.screeCh h
  if !c.current then none
  else if c.temp == 0x80 then
    if s.flag F.screeCtl_faultAsCrit then some s.critC else none
  else some (signed 8 c.temp)

/-- T_MAX and its channel over the channels in service. -/
def State.tMax (s : State) : Option (Int × Nat) :=
  s.drvChannels.foldl (fun (m : Option (Int × Nat)) h =>
    match s.tempTaken h, m with
    | some t, some (u, k) => if u < t then some (t, h) else some (u, k)
    | some t, none => some (t, h)
    | none, m => m) none

/-- SCREE_TEMP_MAX shows T_MAX and HOT_CH. -/
def State.showTemp (s : State) : State :=
  match s.tMax with
  | some (t, h) => (s.wr F.screeTempMax_tMax 0 (unsigned 8 t)).wr F.screeTempMax_hotCh 0 h
  | none => (s.wr F.screeTempMax_tMax 0 0x80).wr F.screeTempMax_hotCh 0 0

/-- T_MAX is at or above a limit; at or below one. -/
def State.tempAtLeast (s : State) (c : Int) : Bool := s.tMax.any (fun m => decide (c ≤ m.1))
def State.tempAtMost (s : State) (c : Int) : Bool := s.tMax.all (fun m => decide (m.1 ≤ c))

/-- A DRV_STATUS at the Scree's temperature input (R403, R404): WARN and CRIT set. -/
def State.drvTemp (s : State) (h temp : Nat) (warn crit : Bool) : State :=
  let s := s.setScreeCh h { s.screeCh h with current := true, temp := temp, warn := warn, crit := crit }
  let s := if temp == 0x80 then s.zCount Zc.sensorFault 1 else s
  if !s.exposeImage then s else
  let s := s.showTemp
  let w := !s.flag F.screeStat_warn && (s.tempAtLeast s.warnC || warn)
  let c := !s.flag F.screeStat_crit && (s.tempAtLeast s.critC || crit)
  let s := if w then (s.up F.screeStat_warn).zCount Zc.warnEvents 1 else s
  let s := if c then ((s.up F.screeStat_crit).up F.screeStat_critLatched).zCount Zc.critEvents 1 else s
  if w || c then s.event 191 0 islScree else s

/-- A channel whose last DRV_STATUS is 16 µs old (R403). -/
def State.drvStale (s : State) (h : Nat) : State :=
  ((s.setScreeCh h { s.screeCh h with current := false }).up F.screeStat_tempStale).showTemp

/-- SCREE_WARN_CLEAR (R404): the condition has held for CLEAR_MS. -/
def execScreeWarnClear (s : State) : Out :=
  let quiet := s.drvChannels.all (fun h => !((s.screeCh h).current && (s.screeCh h).warn))
  if s.flag F.screeStat_warn && s.tempAtMost (s.warnC - s.hystC) && quiet then
    .next ((s.down F.screeStat_warn).event 191 0 islScree)
  else .next s

/-- CRIT_CLEAR (R404): a write of CRIT_LATCHED = 1. -/
def execCritClear (s : State) : Out :=
  let quiet := s.drvChannels.all (fun h => !((s.screeCh h).current && (s.screeCh h).crit))
  if s.flag F.screeStat_crit && s.tempAtMost (s.critC - s.hystC) && quiet then
    .next (((s.down F.screeStat_crit).down F.screeStat_critLatched).event 191 0 islScree)
  else .next s

end Sys2Proof.Machine
end

