-- ==== Sys2Proof/Machine/Watermark.lean ====
section
/-! DEFINITION. The correction kernel's line (R344, R345, R255) and the Watermark: the band check, held bands, the
release window, deadlines and excess bands (R346 to R353). -/

namespace Sys2Proof.Machine

/-! Counters of the Watermark, by place. -/
namespace Wc
def released : Nat := 0
def checkFail : Nat := 1
def late : Nat := 2
def failedUpstream : Nat := 3
def excess : Nat := 4
end Wc

/-! ### Held bands (R348) -/

/-- SLOTS_USED and HWM. -/
def State.showSlotsUsed (s : State) : State :=
  let n := (s.wm.bands.filter (·.held)).length
  let s := s.wr F.wmStat_slotsUsed 0 n
  if 3 ≤ n then s.up F.wmStat_hwm else s

/-- A band replaced, and a band gone. -/
def State.setWmBand (s : State) (b : WmBand) : State :=
  { s with wm.bands := s.wm.bands.map (fun x => if x.inst == b.inst && x.band == b.band then b else x) }
def State.dropWmBand (s : State) (b : WmBand) : State :=
  ({ s with wm.bands := s.wm.bands.filter (fun x => !(x.inst == b.inst && x.band == b.band)) }.showSlotsUsed).mouldLook

/-- The Mould's stripe of a count. -/
def State.wmStripe (s : State) (inst : Nat) : Option WmStripe := s.wm.stripes.find? (fun t => t.inst == inst)

/-- The Mould's stripe that belongs to the Laid stripe armed or running: the oldest whose Laid stripe has not ended. -/
def State.paired (s : State) : Option WmStripe := s.wm.stripes.find? (fun t => !t.ended)

/-- An excess band (R352): counted, reported to the ingress as LATE, never to the Vat. -/
def State.excessBand (s : State) (b : WmBand) : State :=
  let s := s.count (F.wmCnt_count Wc.excess) 0 1
  (s.bandReported b.job false).dropWmBand b

/-- The stripe lengths are compared once the Laid's stripe is handed over and the Mould's stripe is known (R352). -/
def State.wmPair (s : State) : State :=
  match s.paired with
  | none => s
  | some t =>
    if !s.laid.running || t.lines.isSome then s else
    let n := s.laid.lines
    let s := { s with wm.stripes := s.wm.stripes.map (fun x => if x.inst == t.inst then { x with lines := some n } else x) }
    let s := if t.stripe == s.laid.num && 64 * t.bands != n then s.up F.wmStat_stripeMismatch else s
    forAll (s.wm.bands.filter (fun b => b.inst == t.inst && b.held && n / 64 ≤ b.band)) (fun b s => s.excessBand b) s

/-! ### Kernel lines (R255, R345) -/

/-- Mould dose d(y, x) of a kernel window (R345). -/
def kernelDose (win : List DoseLine) (y : Int) : Array Nat :=
  match win.find? (fun l => (l.y : Int) == y) with
  | some l => if l.y < 64 * l.bands then l.px.toArray else #[]
  | none => #[]

/-- The output of pixel `x` of a line before the clamp (R345): `rows` are the lines y − 3 to y + 3. -/
def kernelSum (p : Bytes) (rows : List (Array Nat)) (x : Nat) : Int :=
  let at_ (row : Array Nat) (dx : Int) : Int :=
    let c := (x : Int) + dx
    if c < 0 then 0 else (row.getD c.toNat 0 : Nat)
  let terms := ((List.range 7).zip rows).flatMap (fun e =>
    (List.range 7).map (fun (i : Nat) => pI8 p (7 * e.1 + i) * at_ e.2 ((i : Int) - 3)))
  rsr terms.sum (pU8 p 49) + pI16 p 52

/-- A kernel output line of Ridge `k` (R254, R345): 1,024 pixels and how many the clamp changed. -/
def kernelLine (p : Bytes) (win : List DoseLine) (k y : Nat) : List Nat × Nat :=
  let rows := (List.range 7).map (fun (i : Nat) => kernelDose win ((y : Int) + i - 3))
  let xs := (List.range 1024).map (fun i => 1024 * k + i)
  if bit (pU8 p 50) 0 then (xs.map (fun x => (rows.getD 3 #[]).getD x 0), 0) else
  let v := xs.map (kernelSum p rows)
  (v.map (fun i => (clampInt 0 511 i).toNat), (v.filter (fun i => i < 0 || 511 < i)).length)

/-- A kernel line of Ridge `k` at the Watermark (R348, R350, R352). -/
def State.wmLine (s : State) (k : Nat) (l : DoseLine) (y : Nat) (px : List Nat) : State :=
  match s.wm.bands.find? (fun b => b.inst == l.inst && b.band == y / 64) with
  | none => s
  | some b =>
    let s := if b.held then s else
      let s := (s.setWmBand { b with held := true }).showSlotsUsed.wmPair
      match s.wmStripe b.inst with
      | some t =>
        if t.ended || t.lines.any (fun n => n / 64 ≤ b.band) then
          if s.wm.bands.any (fun x => x.inst == b.inst && x.band == b.band) then s.excessBand b else s
        else if (s.paired.any (·.inst == b.inst)) && b.band < s.wm.decided then
          -- a LATE band is discarded when it arrives
          let told := s.wm.told.contains (b.inst, b.band)
          let s := { s with wm.told := s.wm.told.filter (· != (b.inst, b.band)) }
          (if told then s else s.bandReported b.job false).dropWmBand b
        else s
      | none => s.excessBand b
    match s.wm.bands.find? (fun x => x.inst == l.inst && x.band == y / 64) with
    | none => s
    | some b => s.setWmBand { b with parts := b.parts.set k (b.parts.getD k [] ++ [px]) }

/-- The next dose line at the hub of Ridge `k` (R254 to R256, R345). -/
def State.kernelStep (s : State) (k : Nat) (l : DoseLine) : State :=
  let c := s.kernel k
  let fresh := l.y == 0
  let p := if fresh then (l.params.getD []).getD k [] else c.params
  let old := if fresh then [] else c.win
  let win := (old ++ [l]).drop (old.length + 1 - 7)
  let s := s.setKernel k { c with win := win, params := p }
  if l.y < 3 || s.rd F.ridgeStat_working k == 0 then s else
  let (px, sat) := kernelLine p win k (l.y - 3)
  (s.nodeCount k 0 Nc.sat sat).wmLine k l (l.y - 3) px

/-! ### The band check (R346, R347) -/

/-- The lines of a band, put together from the four Ridges. -/
def WmBand.lines (b : WmBand) : List (List Nat) :=
  (List.range 64).map (fun i => b.parts.flatMap (fun p => p.getD i []))

/-- Every line of the band has arrived. -/
def WmBand.whole (b : WmBand) : Bool := b.parts.all (fun p => p.length == 64)

/-- The CRC-64 of a band (R346). -/
def bandCrc (stripe band : Nat) (lines : List (List Nat)) : Nat :=
  crc64 0 (leBytes 4 stripe ++ leBytes 4 band ++ lines.flatMap (fun l => l.flatMap (leBytes 2)))

/-- WM_BAND_CHECK (R347): the CRC of the oldest whole band of this number is final. -/
def execWmBandCheck (band : Word) (s : State) : Out :=
  match s.wm.bands.find? (fun b => b.band == band.toNat && b.whole && !b.passed && b.cause.isNone) with
  | none => .next s
  | some b =>
    let got := bandCrc b.stripe b.band b.lines
    let expect := match s.job b.job with
      | some j => leAt j.table (8 * (b.band - j.first)) 8
      | none => 0
    if got == expect then .next (s.setWmBand { b with passed := true }) else
    let s := s.setWmBand { b with cause := some Gc.check }
    let s := s.count (F.wmCnt_count Wc.checkFail) 0 1
    let s := s.wr F.wmLastFailStripe_value 0 b.stripe
    let s := s.wr F.wmLastFailBand_value 0 b.band
    let s := s.wr64 F.wmLastExpectLo_value F.wmLastExpectHi_value 0 expect
    .next (s.wr64 F.wmLastGotLo_value F.wmLastGotHi_value 0 got)

/-! ### Release, failure and lateness (R349 to R351) -/

/-- Bands of a stripe the Vat hears of: the jobs' or the Laid's, whichever are fewer. -/
def WmStripe.heard (t : WmStripe) : Nat := match t.lines with
  | some n => min t.bands (n / 64)
  | none => t.bands

/-- A band is reported to the Vat (R351): `cause` is none for RELEASED. -/
def State.reportBand (s : State) (t : WmStripe) (band : Nat) (cause : Option Nat) : State :=
  let s := match cause with
    | none => (s.count (F.wmCnt_count Wc.released) 0 1).event 182 0 islWm
    | some c =>
      if c == Gc.late then (s.count (F.wmCnt_count Wc.late) 0 1).event 184 0 islWm
      else if c == Gc.check then s.event 183 0 islWm
      else (s.count (F.wmCnt_count Wc.failedUpstream) 0 1).event 183 0 islWm
  let s := if band + 1 == t.heard then s.event 185 0 islWm else s
  { s with laid.bands := s.laid.bands.filter (fun r => r.band != band) ++ [BandReport.mk band t.stripe cause] }

/-- The held band of this number of the Laid's stripe. -/
def State.wmBandOf (s : State) (band : Nat) : Option (WmStripe × WmBand) :=
  s.paired.bind (fun t => (s.wm.bands.find? (fun b => b.inst == t.inst && b.band == band)).map (fun b => (t, b)))

/-- WM_RELEASE_START (R349): line time 64β − 193 has come. -/
def execWmReleaseStart (band : Word) (s : State) : Out :=
  match s.wmBandOf band.toNat, s.laid.time with
  | some (_, b), some t =>
    if b.passed && !b.releasing && 64 * (band.toNat : Int) - 193 ≤ t then .next (s.setWmBand { b with releasing := true })
    else .next s
  | _, _ => .next s

/-- A line in its Vat bank (R354). -/
def State.vatWrite (s : State) (y : Nat) (px : List Nat) : State :=
  { s with vat := Sparse.set (fun _ => []) s.vat (y % 2560) px
           laid.vatBad := s.laid.vatBad.filter (fun e => e.1 % 2560 != y % 2560) }

/-- WM_BAND_RELEASED (R349, R351, R354): the band's last line is in the Vat. -/
def execWmBandReleased (band : Word) (s : State) : Out :=
  match s.wmBandOf band.toNat with
  | none => .next s
  | some (t, b) =>
    if !b.releasing then .next s else
    let s := ((List.range 64).zip b.lines).foldl (fun s e => s.vatWrite (64 * b.band + e.1) e.2) s
    let s := s.reportBand t b.band none
    .next ((s.bandReported b.job true).dropWmBand b)

/-- WM_BAND_DEADLINE (R350, R351): line time 64β − 80 begins. -/
def execWmBandDeadline (band : Word) (s : State) : Out :=
  let n := band.toNat
  match s.paired, s.laid.time with
  | some t, some now =>
    if n < s.wm.decided || t.heard ≤ n || now < 64 * (n : Int) - 80 then .next s else
    let s := { s with wm.decided := n + 1 }
    match s.wm.bands.find? (fun b => b.inst == t.inst && b.band == n) with
    | some b =>
      if b.passed then .next (s.setWmBand { b with releasing := true }) else
      let s := s.reportBand t n (some (b.cause.getD Gc.late))
      if b.held || b.cause.isSome then .next ((s.bandReported b.job false).dropWmBand b)
      else .next ({ s with wm.told := s.wm.told ++ [(t.inst, n)] }.bandReported b.job false)
    | none =>
      let s := s.reportBand t n (some Gc.late)
      match (s.layout.order.filterMap s.job).find? (fun j => j.stripe == t.stripe && j.first ≤ n && n < j.first + j.count) with
      | some j => .next ({ s with wm.told := s.wm.told ++ [(t.inst, n)] }.bandReported j.id false)
      | none => .next s
  | _, _ => .next s

/-! ### The Laid's stripe at the Watermark (R352) -/

/-- The Laid's stripe has ended: what is held of it is in excess. -/
def State.wmStripeEnd (s : State) (num : Nat) : State :=
  let s := { s with wm.decided := 0 }
  match s.paired with
  | none => { s with wm.unmet := some num }
  | some t =>
    let s := { s with wm.stripes := (s.wm.stripes.map (fun x => if x.inst == t.inst then { x with ended := true } else x)) }
    let s := forAll (s.wm.bands.filter (fun b => b.inst == t.inst && b.held)) (fun b s => s.excessBand b) s
    { s with wm.stripes := s.wm.stripes.filter (fun x => !x.ended || x.inst == s.mould.inst) }

/-- The Watermark at the exit from EXPOSE (R351): every band it holds is discarded. -/
def State.wmStop (s : State) : State := { s with wm := {} }.showSlotsUsed

end Sys2Proof.Machine
end

