-- ==== Sys2Proof/Machine/Laid.lean ====
section
/-! DEFINITION. The Vat and the Laid (R354 to R386): arming and hand-over, line decisions, frames and shots, the dose
ledger, gap records, blanking, and the drivers' status. -/

namespace Sys2Proof.Machine

/-! Counters of the Laid, by place. -/
namespace Vc
def exposed : Nat := 0
def blanked : Nat := 1
def partialLines : Nat := 2
def shotLate : Nat := 3
def shotSkip : Nat := 4
def drvReject : Nat := 5
def gapRecords : Nat := 6
def gapDrop : Nat := 7
def ledgerLines : Nat := 8
def ledgerPx : Nat := 9
def ledgerPartialPx : Nat := 10
def floorPx : Nat := 11
def vatCorr : Nat := 12
def vatUncorr : Nat := 13
end Vc

/-! Kinds of gap record (R383). -/
namespace Gk
def blanked : Nat := 0
def partialLines : Nat := 1
def shot : Nat := 2
def channel : Nat := 3
def lineFault : Nat := 4
end Gk

def State.vCount (s : State) (k n : Nat) : State := s.count (F.laidCnt_count k) 0 n

/-! ### Events of one edge (R386) -/

/-- Producer `p` is raised on this edge. -/
def State.laidRaise (s : State) (p g : Nat) : State := { s with laid.due := s.laid.due ++ [(p, g)] }

/-- The causes of the edge give one event a producer, with the greatest generation (R386, R484). -/
def State.laidEvents (s : State) : State :=
  let due := s.laid.due
  let s := { s with laid.due := [] }
  forAll ((List.range 4).map (186 + ·)) (fun p s =>
    match (due.filter (fun e => e.1 == p)).map (·.2) with
    | [] => s
    | g :: rest => s.event p (rest.foldl max g) islLaid) s

/-! ### The stripe in force (R355 to R358) -/

def Laid.delay (l : Laid) (r : Nat) : Nat := l.delays.getD r 0
def Laid.skew (l : Laid) (v : Nat) : Nat := l.skews.getD v 0

/-- The greatest and the least of D(r) + S(v). -/
def Laid.maxOff (l : Laid) : Nat := l.delays.foldl max 0 + l.skews.foldl max 0
def Laid.minOff (l : Laid) : Nat :=
  l.delays.foldl min (l.delays.headD 0) + l.skews.foldl min (l.skews.headD 0)

/-- ORIGIN of the shadow, in u (R357, R580). -/
def State.originShadow (s : State) : Int :=
  s.toU (signed 48 (s.rd F.laidOriginLo_origin + s.rd F.laidOriginHi_origin * 2 ^ 32))

/-- The geometry of R355, and LINES within its range (R359). -/
def geometryOk (delays skews : List Nat) (lines : Nat) : Bool :=
  (delays.eraseDups.length == delays.length) && delays.foldl max 0 + skews.foldl max 0 ≤ 2303 &&
  64 ≤ lines && lines ≤ 16777152 && lines % 64 == 0

/-! STATE of LAID_STAT. -/
namespace Lst
def idle : Nat := 0
def armed : Nat := 1
def running : Nat := 2
def draining : Nat := 3
def blanking : Nat := 4
end Lst

def State.laidState (s : State) (x : Nat) : State := s.wr F.laidStat_state 0 x

/-- BLANK_CAUSE: the cause in force for new lines. -/
def State.showCause (s : State) : State :=
  s.wr F.laidStat_blankCause 0 ((s.laid.hard.orElse (fun _ => s.laid.soft)).getD 0)

/-- The line time, and LAID_LINE_TIME. -/
def State.setLineTime (s : State) (t : Int) : State :=
  ({ s with laid.time := some t } : State).wr F.laidLineTime_value 0 (unsigned 32 t)

/-- A refused start (R359). -/
def State.armRefused (s : State) (cause g : Nat) : State :=
  ((s.wr F.laidStripeCtl_refuse 0 cause).up F.laidStripeCtl_armRefused).laidRaise 188 g

/-- The Laid with nothing armed or running; what it sends and keeps of gap records and Vat contents stays. -/
def Laid.quiet (l : Laid) : Laid :=
  { delays := l.delays, skews := l.skews, num := l.num, lines := l.lines, origin := l.origin, lastTick := l.lastTick
    gaps := l.gaps, vatBad := l.vatBad, inbox := l.inbox, failHeld := l.failHeld, due := l.due, stopping := l.stopping }

/-- A channel in service is LOST (R375). -/
def State.linkLost (s : State) : Bool := s.drvChannels.any (fun h => (Sparse.get (fun _ => {}) s.laidChs h : LaidCh).lost)

/-- ARM (R357 to R359). -/
def State.arm (s : State) (g : Nat) : State :=
  if !s.flag F.laidCtl_enable then s else
  let o := s.originShadow
  let cause :=
    if o - 1 ≤ floorDiv s.reel.h 8 then 2
    else if s.flag F.screeStat_warn || s.flag F.screeStat_crit then 3
    else if s.mode != Md.expose || s.laid.stopping then 4
    else if s.linkLost then 5 else 0
  if cause != 0 then s.armRefused cause g
  else if s.laid.running then ({ s with laid.nextGen := g } : State).up F.laidStat_nextArmed
  else if s.laid.armed then s
  else
    let s := { s with laid.armed := true, laid.gen := g }
    let s := s.laidState Lst.armed
    match s.laid.lastTick with
    | some l => s.setLineTime (l - o)
    | none => s

/-- LAID_ARM (R357). -/
def execLaidArm (s : State) : Out := .next (s.arm 0).laidEvents

/-- LAID_ARM_EVENT (R357, R386): consumer 128. -/
def execLaidArmEvent (gen : Fin 8) (s : State) : Out := .next (s.arm (gen.val + 1)).laidEvents

/-- DISARM (R358): an armed stripe that has not reached its hand-over is cancelled. -/
def State.disarm (s : State) : State :=
  let s := s.down F.laidStat_nextArmed
  if !s.laid.armed then s else
  (({ s with laid := s.laid.quiet } : State).laidState Lst.idle).showCause

/-- LAID_DISARM (R358). -/
def execLaidDisarm (s : State) : Out := .next s.disarm

/-! ### Gap records (R382 to R385) -/

/-- LEVEL and HWM of the gap FIFO. -/
def State.showGaps (s : State) : State :=
  let n := s.laid.gaps.length
  let s := s.wr F.laidGapLevel_level 0 n
  if 12288 ≤ n then s.up F.laidGapLevel_hwm else s

/-- A gap record written (R382, R385, R386): LINES or ARG in `arg`, SUB, and NS at the event that opened it. -/
def State.gap (s : State) (kind cause : Nat) (first : Nat) (arg sub ns : Nat) (g : Nat := 0) : State :=
  let seq := s.rd F.laidGapNextSeq_seq
  let s := s.wr F.laidGapNextSeq_seq 0 (seq + 1)
  let pos := s.toU (s.laid.origin + first) * 65536
  let body := leBytes 4 seq ++ leBytes 4 ns ++ leBytes 8 (unsigned 64 pos) ++ leBytes 4 first ++ leBytes 4 arg ++
    leBytes 2 s.laid.num ++ leBytes 1 cause ++ leBytes 1 (kind + sub * 16)
  let s := s.vCount Vc.gapRecords 1
  let s := if 16384 ≤ s.laid.gaps.length then s.vCount Vc.gapDrop 1 else
    let d := s.rd F.laidCtl_gapDest
    { s with laid.gaps := s.laid.gaps ++ [OutItem.mk (body ++ leBytes 4 (crc32c body)) (destRing d) (destNet d)] }.showGaps
  let s := if kind == Gk.partialLines || kind == Gk.lineFault then s.up F.laidLineStat_err else s
  if kind == Gk.blanked then s else s.laidRaise 189 g

/-- The open run of blanked lines is written (R384). -/
def State.closeRun (s : State) : State :=
  match s.laid.run with
  | none => s
  | some (first, last, cause, ns) =>
    ({ s with laid.run := none } : State).gap Gk.blanked cause first (last - first + 1) 0 ns

/-- A line joins the blanked run, or opens one (R384). -/
def State.blankLine (s : State) (y cause : Nat) (g : Nat := 0) : State :=
  let s := s.up F.laidLineStat_err
  match s.laid.run with
  | some (first, last, c, ns) =>
    if c == cause && last + 1 == y then { s with laid.run := some (first, y, c, ns) } else
    let s := s.closeRun
    ({ s with laid.run := some (y, y, cause, s.ns) } : State).laidRaise 188 g
  | none => ({ s with laid.run := some (y, y, cause, s.ns) } : State).laidRaise 188 g

/-! ### The Vat and the fire rule (R354 to R356, R362, R369) -/

/-- First pixel of word `w` of a line, and one past its last: 72 words of 64 bits hold a slice's 512 pixels of 9 bits. -/
def vatWordFirst (w : Nat) : Nat := 512 * (w / 72) + 64 * (w % 72) / 9
def vatWordEnd (w : Nat) : Nat := 512 * (w / 72) + (64 * (w % 72) + 63) / 9 + 1

/-- Pixel `p` of line `y` lies in a word that fails at line time `t`. -/
def State.vatFails (s : State) (y p t : Nat) : Bool :=
  s.laid.vatBad.any (fun (e : Nat × Nat × Nat) => e.1 == y && vatWordFirst e.2.1 ≤ p && p < vatWordEnd e.2.1 && e.2.2 ≤ t)

/-- The dose of pixel `p` of line `y` as the Vat holds it. -/
def State.dose (s : State) (y p : Nat) : Nat := (Sparse.get (fun _ => []) s.vat (y % 2560)).getD p 0

/-- The stripe line row `r` of slice `v` reads at line time `t`; none outside the stripe (R356, R357). -/
def Laid.lineAt (l : Laid) (t r v : Nat) : Option Nat :=
  let o := l.delay r + l.skew v
  if o ≤ t && t - o < l.lines then some (t - o) else none

/-- fire of R362: beam (r, c), shot (t, s). -/
def State.fire (s : State) (t sub r c : Nat) : Bool :=
  match s.laid.lineAt t r (c / 64) with
  | none => false
  | some y =>
    let p := 8 * c + sub
    s.laid.exposed.contains y && !s.vatFails y p t && beamRank (s.beam c r) < s.dose y p

/-- Data block `w` of channel `h`'s frame for line time `t` (R369). -/
def State.frameWord (s : State) (h t w : Nat) : Nat :=
  ((List.range 64).map (fun (j : Nat) =>
    let k := 64 * w + j
    b2n (s.fire t (k / 5632) (11 * h + k % 5632 / 512) (k % 512)) * 2 ^ j)).sum

/-- Every beam of channel `h` is blanked at line time `t`. -/
def State.channelBlank (s : State) (h t : Nat) : Bool :=
  s.laid.hard.isSome || !(List.range 11).any (fun i => (List.range 8).any (fun v =>
    (s.laid.lineAt t (11 * h + i) v).any s.laid.exposed.contains))

/-- The frame of line time `t` on channel `h` (R366, R368, R369). -/
def State.sendFrame (s : State) (t h : Nat) : State :=
  let s := s.wr F.sportSeq_seq (4 * h) t
  let blank := s.channelBlank h t
  let s := s.emit (.block h true (ctrlBlock (leBytes 1 0x30 ++ leBytes 4 t ++ leBytes 1 (h + b2n blank * 64))))
  let words := if blank then [] else (List.range 704).map (s.frameWord h t)
  let s := forAll words (fun w s => s.emit (.block h false w)) s
  let crc := crc32c (words.flatMap (leBytes 8))
  s.emit (.block h true (ctrlBlock (leBytes 1 0x31 ++ leBytes 4 crc ++ leBytes 1 t)))

/-- A line time's entry among the shots, replaced. -/
def State.shotLine (s : State) (t : Nat) : ShotLine := (s.laid.shots.find? (·.time == t)).getD { time := t }
def State.setShotLine (s : State) (x : ShotLine) : State :=
  { s with laid.shots := s.laid.shots.filter (·.time != x.time) ++ [x] }

/-- VAT_UNCORR (R379): the row passes of line time `t` meet failed words. -/
def State.vatReads (s : State) (t : Nat) : State :=
  forAll s.laid.vatBad (fun (e : Nat × Nat × Nat) s =>
    let v := e.2.1 / 72
    let hit := (List.range 528).any (fun r => s.laid.lineAt t r v == some e.1)
    if !hit || t < e.2.2 then s else
    let s := (s.vCount Vc.vatUncorr 1).up F.laidLineStat_vatErr
    s.gap Gk.lineFault Gc.vatEcc e.1 (vatWordFirst e.2.1) 0 s.ns) s

/-- FRAME_BUILD (R366): the frames of line time `t` on every channel. `failed`: words found uncorrectable; `crcBad`:
channels whose frame fails its CRC at the ledger's read-back (R380). -/
def State.buildFrames (s : State) (t : Nat) (failed : List (Nat × Nat)) (crcBad : List Nat) : State :=
  let s := { s with laid.vatBad := s.laid.vatBad ++ failed.map (fun (e : Nat × Nat) => (e.1, e.2, t)) }
  let s := s.vatReads t
  let s := forAll s.drvChannels (fun h s => s.sendFrame t h) s
  s.setShotLine { s.shotLine t with framed := true, crcBad := crcBad }

/-! ### Releasing and blanking lines (R364, R365, R377, R378) -/

/-- The cause for which line `y` is not released; none where it is (R364). -/
def State.lineCause (s : State) (y : Nat) : Option Nat :=
  match s.laid.hard.orElse (fun _ => s.laid.soft) with
  | some c => some c
  | none => match s.laid.bands.find? (fun b => b.band == y / 64) with
    | none => some Gc.late
    | some b => match b.cause with
      | some c => some c
      | none => if b.stripe == s.laid.num then none else some Gc.wrongStripe

/-- LINE_DECISION (R364, R365). -/
def State.decideLine (s : State) (y : Nat) : State :=
  let s := { s with laid.decided := (y : Int) }
  match s.lineCause y with
  | none =>
    let s := (s.closeRun.vCount Vc.exposed 1).wr F.laidLastReleased_value 0 y
    { s with laid.exposed := s.laid.exposed ++ [y], laid.lastReleased := some y }
  | some c => (s.vCount Vc.blanked 1).blankLine y c

/-- Every released line's last row has fired at line time `t`. -/
def State.drained (s : State) (t : Int) : Bool := match s.laid.lastReleased with
  | none => true
  | some y => decide ((y + s.laid.maxOff : Nat) < t)

/-- A cause that stops the release of lines (R377). -/
def State.softStop (s : State) (cause : Nat) : State :=
  if !(s.laid.running || s.laid.armed) || s.laid.soft.isSome || s.laid.hard.isSome then s else
  let s := ({ s with laid.soft := some cause } : State).showCause
  if !s.laid.running then s
  else s.laidState (if s.drained (s.laid.time.getD 0) then Lst.blanking else Lst.draining)

/-- Immediate blanking (R378): the PARTIAL record, and the lines released but never fired. -/
def State.hardStop (s : State) (cause : Nat) (g : Nat := 0) : State :=
  if !(s.laid.running || s.laid.armed) || s.laid.hard.isSome then s else
  let s := ({ s with laid.hard := some cause } : State).showCause
  if !s.laid.running then s else
  let s := s.laidState Lst.blanking
  let never := match s.laid.lastShot with
    | none => 0
    | some (lb, _) => lb + 1 - s.laid.minOff
  let s := match s.laid.lastShot with
    | none => s
    | some (lb, sub) =>
      let first := lb - s.laid.maxOff + b2n (sub == 7 && s.laid.maxOff ≤ lb)
      let lines := s.laid.exposed.filter (fun y => first ≤ y && y < never)
      if lines.isEmpty then s else
      let s := { s with laid.partial_ := some (first, lb) }
      (s.vCount Vc.partialLines lines.length).gap Gk.partialLines cause first (lb - first + 1) (sub + 1) s.ns g
  forAll (s.laid.exposed.filter (never ≤ ·)) (fun y s =>
    ({ s with laid.exposed := s.laid.exposed.filter (· != y) } : State).blankLine y cause g) s

/-- WARN_ARRIVE (R377): the Scree's WARN at island 0x90. -/
def execWarnArrive (s : State) : Out :=
  .next (if s.flag F.screeStat_warn then (s.softStop Gc.warn).laidEvents else s)

/-- CRIT_ARRIVE (R378). -/
def execCritArrive (s : State) : Out :=
  .next (if s.flag F.screeStat_crit then (s.hardStop Gc.crit).laidEvents else s)

/-- INTERLOCK (R378, R386): consumer 129. -/
def execInterlock (gen : Fin 8) (s : State) : Out := .next (s.hardStop Gc.interlock (gen.val + 1)).laidEvents

/-! ### The dose ledger (R380, R381) -/

/-- Rows of column c that delivered a shot to pixel 8c + sub of line y (R380). -/
def State.received (s : State) (y c sub : Nat) : Nat :=
  ((List.range 528).filter (fun r =>
    beamStuck (s.beam c r) ||
    (let t := y + s.laid.delay r + s.laid.skew (c / 64)
     let l := s.shotLine t
     l.framed && !l.crcBad.contains (r / 11) && l.sent.contains sub && s.fire t sub r c))).length

/-- What the pixel should have received (R380); a word that fails at the comparison reads as dose 0 (R379). -/
def State.expected (s : State) (y p now : Nat) : Nat :=
  let d := if s.laid.exposed.contains y && !s.vatFails y p now then s.dose y p else 0
  max d (s.floorOf (p / 8))

/-- LEDGER_COMPARE of one line (R381), and FLOOR_PX (R363). -/
def State.compareLine (s : State) (y : Nat) : State :=
  let now := y + s.laid.maxOff
  let exposed := s.laid.exposed.contains y
  let bad := (List.range 4096).filterMap (fun p =>
    let e := s.expected y p now
    let r := s.received y (p / 8) (p % 8)
    if e != r || (exposed && s.vatFails y p now) then some (p, e, r) else none)
  let low := if exposed then (List.range 4096).filter (fun p => s.dose y p < s.floorOf (p / 8)) else []
  let s := s.vCount Vc.floorPx low.length
  let s := { s with laid.exposed := s.laid.exposed.filter (· != y), laid.ledger := y + 1
                    laid.shots := s.laid.shots.filter (fun x => y < x.time) }
  match bad with
  | [] => s
  | (p, e, r) :: _ =>
    if s.laid.partial_.any (fun q => q.1 ≤ y && y ≤ q.2) then s.vCount Vc.ledgerPartialPx bad.length else
    let s := (s.up F.laidLineStat_ledgerErr).vCount Vc.ledgerLines 1
    let s := s.vCount Vc.ledgerPx bad.length
    let s := if s.laid.failHeld then s else
      let s := (s.wr F.laidLedgerFailLine_line 0 y).wr F.laidLedgerFailPx_pixel 0 p
      let s := (s.wr F.laidLedgerFailPx_expected 0 e).wr F.laidLedgerFailPx_received 0 r
      { s with laid.failHeld := true }
    s.gap Gk.lineFault Gc.ledger y bad.length 0 s.ns

/-- Every line below `n` is compared. -/
def State.compareTo (s : State) (n : Nat) : State :=
  forN (n - s.laid.ledger) (fun _ s => s.compareLine s.laid.ledger) s

/-! ### Stripe start and end (R357 to R359, R361, R386) -/

/-- STRIPE_MARK on every channel (R368). -/
def State.stripeMark (s : State) (num : Nat) (start : Bool) : State :=
  forAll s.drvChannels (fun h s =>
    s.emit (.block h true (ctrlBlock (leBytes 1 0x33 ++ leBytes 4 num ++ leBytes 1 (if start then 1 else 2))))) s

/-- LAID_HANDOVER (R358, R359, R361): answers whether the stripe runs. -/
def State.handover (s : State) : State × Bool :=
  let delays := (List.range 528).map (fun r => s.rd F.vatRowDelay_d r)
  let skews := (List.range 8).map (fun v => s.rd F.vatSkew_skew v)
  let lines := s.rd F.laidStripeLines_lines
  let old := s.laid
  if !geometryOk delays skews lines then
    let s := ({ s with laid := old.quiet } : State).laidState Lst.idle
    ((s.showCause).armRefused 1 old.gen, false)
  else
    let s := s.applyOrder.closeWindow
    let hard := old.hard.orElse (fun _ =>
      if s.flag F.screeStat_crit then some Gc.crit else if s.linkLost then some Gc.link else none)
    let soft := old.soft.orElse (fun _ => if s.flag F.screeStat_warn then some Gc.warn else none)
    let l : Laid := { old.quiet with
      delays := delays, skews := skews, lines := lines, num := s.rd F.laidStripeNum_stripe, origin := s.originShadow
      running := true, hard := hard, soft := soft, bands := old.bands, gen := old.gen }
    let l := { l with endTime := (lines - 1 + l.maxOff : Nat) }
    let s := { s with laid := l }
    let s := s.down F.laidStat_shadowPending
    let s := s.wr F.laidStripeEnd_value 0 (lines - 1 + l.maxOff)
    let s := (s.laidState (if hard.isSome || soft.isSome then Lst.blanking else Lst.running)).showCause
    let s := s.showMeas
    ((s.stripeMark l.num true).wmPair, true)

/-- The SHOT record of a line time with late or skipped shots (R367). -/
def State.shotRecord (s : State) (t : Nat) : State :=
  let l := s.shotLine t
  match l.ns with
  | none => s
  | some ns =>
    let mask := ((List.range 8).filter (fun i => l.late.contains i || l.skipped.contains i)).map (2 ^ ·)
    let s := s.setShotLine { l with ns := none }
    s.gap Gk.shot (if l.skipped.isEmpty then Gc.shotLate else Gc.shotSkip) t mask.sum 0 ns

/-- Every SHOT record still due of the line times below `n`. -/
def State.shotRecords (s : State) (n : Nat) : State :=
  forAll ((s.laid.shots.map (·.time)).filter (· < n)) (fun t s => s.shotRecord t) s

/-- STRIPE_END (R357, R358, R384). -/
def State.endStripe (s : State) : State :=
  let s := s.shotRecords (2 ^ 32)
  let s := (s.compareTo s.laid.lines).closeRun
  let num := s.laid.num
  let s := (s.stripeMark num false).laidRaise 187 s.laid.gen
  let next := s.flag F.laidStat_nextArmed && !s.laid.stopping
  let g := s.laid.nextGen
  let s := ({ s with laid := { s.laid.quiet with armed := next, gen := g } } : State).wmStripeEnd num
  let s := s.down F.laidStat_nextArmed
  let s := (s.laidState (if next then Lst.armed else Lst.idle)).showCause
  let s := { s with scree.opened := true }.showMeas
  match s.laid.lastTick, next with
  | some l, true => s.setLineTime (l - s.originShadow)
  | _, _ => s

/-- The line boundary event of line time `t` (R357, R364, R366, R377, R381). -/
def State.lineBoundary (s : State) (t : Int) (failed : List (Nat × Nat)) (crcBad : List Nat) : State :=
  let before := s.laid.time.getD (-1)
  let s := s.shotRecords t.toNat
  let s := s.setLineTime t
  let s := s.compareTo (min s.laid.lines (t - s.laid.maxOff).toNat)
  let s := if s.laid.stopDue then ({ s with laid.stopDue := false } : State).softStop Gc.stop else s
  let s := if s.rd F.laidStat_state == Lst.draining && s.drained t then s.laidState Lst.blanking else s
  -- lines whose own boundary event never came are decided now
  let upto := min (s.laid.lines : Int) (t + 2)
  let s := forN (upto - (s.laid.decided + 1)).toNat (fun _ s => s.decideLine (s.laid.decided + 1).toNat) s
  let s := if 0 ≤ t && before < 0 then s.laidRaise 186 s.laid.gen else s
  if -1 ≤ t && t + 1 ≤ s.laid.endTime then s.buildFrames (t + 1).toNat failed crcBad else s

/-- A SHOT on every channel (R367, R368). -/
def State.sendShot (s : State) (t : Nat) (k : ShotTick) : State :=
  let s := forAll s.drvChannels (fun h s =>
    s.launch h (leBytes 1 0x32 ++ leBytes 4 t ++ leBytes 1 (k.sub + b2n k.late * 8)) k.instant) s
  let l := s.shotLine t
  let l := { l with sent := l.sent ++ [k.sub] }
  let s := { s with laid.lastShot := some (t, k.sub) }
  if !k.late then s.setShotLine l else
  (s.vCount Vc.shotLate 1).setShotLine { l with late := l.late ++ [k.sub], ns := some (l.ns.getD s.ns) }

/-- A tick of a running stripe's line time `t` (R366, R367, R370, R378). -/
def State.stripeTick (s : State) (t : Int) (k : ShotTick) (fresh : Bool) (failed : List (Nat × Nat))
    (crcBad : List Nat) : State :=
  let within := decide (0 ≤ t && t ≤ s.laid.endTime)
  let s := if !within || s.laid.hard.isSome then s
    else if k.skipped then
      let l := s.shotLine t.toNat
      (s.vCount Vc.shotSkip 1).setShotLine { l with skipped := l.skipped ++ [k.sub], ns := some (l.ns.getD s.ns) }
    else s.sendShot t.toNat k
  let s := if fresh && !k.skipped then s.lineBoundary t failed crcBad else s
  if t == s.laid.endTime && k.sub == 7 then s.endStripe else s

/-- A shot tick at slice 0 (R357, R358, R367). -/
def State.laidTick (s : State) (k : ShotTick) (corrected : Nat) (failed : List (Nat × Nat)) (crcBad : List Nat) :
    State :=
  let fresh := s.laid.lastTick != some k.line
  let s := if k.skipped then s else { s with laid.lastTick := some k.line }
  let s := s.vCount Vc.vatCorr corrected
  -- a stripe whose last shot was not issued has ended
  let s := if s.laid.running && s.laid.endTime < k.line - s.laid.origin then s.endStripe else s
  if s.laid.running then s.stripeTick (k.line - s.laid.origin) k fresh failed crcBad
  else if s.laid.armed && !k.skipped && fresh then
    let t := k.line - s.originShadow
    let s := s.setLineTime t
    if t < -1 then s else
    let (s, runs) := s.handover
    if runs then
      let s := { s with laid.time := some (-1) }
      s.stripeTick t k true failed crcBad
    else s
  else s

/-! ### Leaving EXPOSE (R50, R51, R384) -/

/-- A committed exit: no new stripe starts; with STOP_NOW release stops at the next line boundary event. -/
def State.laidStop (s : State) (now : Bool) : State :=
  let s := s.disarm
  let s := { s with laid.stopping := true }
  if s.laid.running && now then { s with laid.stopDue := true } else s

/-- The Laid has nothing left to write for the exit. -/
def State.laidDone (s : State) (now : Bool) : Bool :=
  !s.laid.running || (now && !s.laid.stopDue && s.rd F.laidStat_state == Lst.blanking)

/-- The device leaves EXPOSE (R384): the open run covers the stripe's remainder. -/
def State.laidExit (s : State) : State :=
  let s := s.shotRecords (2 ^ 32)
  let s := match s.laid.run, s.laid.running with
    | some (first, last, c, ns), true => { s with laid.run := some (first, max last (s.laid.lines - 1), c, ns) }
    | _, _ => s
  let s := s.closeRun
  let s := { s with laid := { s.laid.quiet with stopping := false, inbox := [], lastTick := none } }
  let s := (s.down F.laidStat_nextArmed).laidState Lst.idle
  s.showCause.laidEvents.showMeas

/-! ### Driver status and loss (R373 to R376) -/

def State.laidCh (s : State) (h : Nat) : LaidCh := Sparse.get (fun _ => {}) s.laidChs h
def State.setLaidCh (s : State) (h : Nat) (c : LaidCh) : State :=
  { s with laidChs := Sparse.set (fun _ => {}) s.laidChs h c }

/-- CHANNEL_LOST (R375, R378): during a stripe the Laid blanks at once with cause LINK. -/
def State.loseChannel (s : State) (h : Nat) : State :=
  let s := s.setLaidCh h { lost := true, fresh := false }
  let s := (s.up F.laidChStat_lost h).down F.laidChStat_linkOk h
  if s.laid.running then (s.hardStop Gc.link).laidEvents else s

/-- The upstream lane of a channel leaves UP (R375). -/
def State.drvLaneDown (s : State) (h : Nat) : State :=
  if s.drvInService h && !(s.laidCh h).lost then s.loseChannel h
  else (s.setLaidCh h { s.laidCh h with fresh := false }).down F.laidChStat_linkOk h

/-- The line time of which LINE gives the low 16 bits: the one nearest the current line time. -/
def State.statusLine (s : State) (line : Nat) : Int :=
  let now := s.laid.time.getD 0
  now + signed 16 (unsigned 16 ((line : Int) - now))

/-- A DRV_STATUS (R373 to R376): taken at the quad island; its temperature goes to the Scree. -/
def State.drvStatus (s : State) (h seq flags temp line : Nat) : State :=
  if !s.drvInService h then s.ctrlErr h
  else if bit flags 7 then s.count F.laidChErr_statusBad h 1 else
  let (s, taken) := s.takeSeq (4 * h + 1) 16 seq (some h)
  if !taken then s else
  let s := s.setLaidCh h { lost := false, fresh := true }
  let s := ((s.up F.laidChStat_linkOk h).wr F.laidChStat_temp h temp).wr F.laidChLast_lastLine h line
  let s := s.drvTemp h temp (bit flags 4) (bit flags 5)
  let t := s.statusLine line
  let refused := bit flags 1 || bit flags 2 || !bit flags 0
  if bit flags 6 || !refused || !s.laid.running || t < 0 then s else
  let s := (s.vCount Vc.drvReject 1).count F.laidChErr_rejects h 1
  (s.gap Gk.channel Gc.driverReject t.toNat h 0 s.ns).laidEvents

/-- DRV_STATUS_RX (R376). -/
def execDrvStatusRx (channel : Fin 48) (seq : BitVec 16) (flags temp : BitVec 8) (line : BitVec 16) (s : State) : Out :=
  .next (s.drvStatus channel.val seq.toNat flags.toNat temp.toNat line.toNat)

/-- DRV_STATUS_TIMEOUT (R375, R403): no valid DRV_STATUS for 16 µs. -/
def execDrvStatusTimeout (channel : Fin 48) (s : State) : Out :=
  let h := channel.val
  if !s.drvInService h then .next s else
  let s := (s.up F.laidChStat_silent h).drvStale h
  .next (if (s.laidCh h).lost then s else s.loseChannel h)

end Sys2Proof.Machine
end

