-- ==== Sys2Proof/Machine/Rotation.lean ====
section
/-! DEFINITION. Spurs and the rotation step (R230, R231, R244 to R252): roles, copy, shadow, hand-over, isolation, test,
reinitialisation and retirement; and the taking of a line at a stage-graph boundary (R238). -/

namespace Sys2Proof.Machine

/-! ### Roles (R230) -/

namespace SpurRole
def live : Nat := 0
def spare : Nat := 1
def shadowing : Nat := 2
def isolated : Nat := 3
def underTest : Nat := 4
def reinit : Nat := 5
def retired : Nat := 6
end SpurRole

namespace RotStep
def wait : Nat := 0
def copy : Nat := 1
def shadow : Nat := 2
def isolate : Nat := 3
def test : Nat := 4
def reinit : Nat := 5
def stopped : Nat := 6
end RotStep

/-- No Spur, no slot. -/
def noSpur : Nat := 0xF

/-- Index of Spur `j` of Ridge `k`, and its island (R26). -/
def spurAt (k j : Nat) : Nat := 9 * k + j
def spurIsland (k j : Nat) : Nat := 0x40 + 9 * k + j

/-- The physical Spur that fills a slot. -/
def State.slotSpur (s : State) (k m : Nat) : Nat := bits (s.rd F.ridgeSpurMap_map k) (4 * m) 4

/-- A slot filled by another Spur. -/
def State.setSlotSpur (s : State) (k m j : Nat) : State :=
  let w := s.rd F.ridgeSpurMap_map k
  s.wr F.ridgeSpurMap_map k (w - bits w (4 * m) 4 * 2 ^ (4 * m) + j * 2 ^ (4 * m))

/-- A Spur's role, and its slot while LIVE or SHADOWING. -/
def State.setRole (s : State) (k j role slot : Nat) : State :=
  (s.wr F.ridgeSpurStat_role (spurAt k j) role).wr F.ridgeSpurStat_slot (spurAt k j) slot

/-- The rotation's plain state replaced. -/
def State.rot (s : State) (k : Nat) : Rotation := (s.ridge k).rot
def State.setRot (s : State) (k : Nat) (r : Rotation) : State := s.setRidge k { s.ridge k with rot := r }

/-- INSPECT or EXPOSE. -/
def State.runMode (s : State) : Bool := s.mode == Md.inspect || s.mode == Md.expose

/-- STEP between steps: WAIT where steps may start, else STOPPED. -/
def State.restStep (s : State) (k : Nat) : State :=
  let step := s.rd F.ridgeRotStat_step k
  if step != RotStep.wait && step != RotStep.stopped then s else
  let ok := s.flag F.ridgeCtl_rotEn k && s.runMode && s.rd F.ridgeRotStat_spare k != noSpur
  s.wr F.ridgeRotStat_step k (if ok then RotStep.wait else RotStep.stopped)

/-- A slot carries work: a node of the graph in INSPECT (R230), a part of the kernel in EXPOSE (R254). -/
def State.slotWorks (s : State) (k m : Nat) : Bool :=
  if s.inspectImage then m < s.rd F.ridgeStat_nodes k else 0 < s.rd F.ridgeStat_nodes k

/-! ### The step (R244 to R251) -/

/-- Isolation of a Spur (R247). -/
def State.isolateSpur (s : State) (k j : Nat) : State :=
  let s := s.setRole k j SpurRole.isolated noSpur
  let s := s.wr F.ridgeRotStat_underTest k j
  (s.wr F.ridgeRotStat_step k RotStep.isolate).isolate (spurIsland k j) true

/-- The spare takes over the target slot (R246): the relieved Spur becomes ISOLATED. -/
def State.handOver (s : State) (k : Nat) : State :=
  let m := s.rd F.ridgeRotStat_targetSlot k
  let j := s.rd F.ridgeRotStat_spare k
  let old := s.slotSpur k m
  let s := s.setSlotSpur k m j
  let s := s.setRole k j SpurRole.live m
  let s := s.wr F.ridgeRotStat_spare k noSpur
  let s := s.count (F.ridgeRotCnt_count 0) k 1
  let s := s.setRot k { s.rot k with handed := true, copied := false, forced := false }
  if old == noSpur then
    -- an empty slot relieves nobody
    ((s.up F.ridgeStat_noSpare k).wr F.ridgeRotStat_step k RotStep.wait).restStep k
  else s.isolateSpur k old

/-- COPY begins (R245). -/
def State.startCopy (s : State) (k : Nat) (retry : Bool) : State :=
  let s := s.wr F.ridgeRotStat_retry k (b2n retry)
  let s := s.wr F.ridgeRotStat_shadowLines k 0
  let s := s.wr F.ridgeRotStat_step k RotStep.copy
  s.setRot k { gen := (s.rot k).gen }

/-- A step starts (R244) where its conditions hold. -/
def State.startStep (s : State) (k : Nat) (gen : Nat := 0) : State :=
  if !s.flag F.ridgeCtl_rotEn k || !s.runMode || s.rd F.ridgeRotStat_step k != RotStep.wait ||
     s.rd F.ridgeRotStat_spare k == noSpur then s else
  let s := s.startCopy k false
  let s := s.setRot k { s.rot k with gen := gen }
  if s.slotWorks k (s.rd F.ridgeRotStat_targetSlot k) then s else s.handOver k

/-- ROTATION_STEP_START (R244): PERIOD_MS has elapsed. -/
def execRotationStepStart (ridge : Fin 6) (s : State) : Out := .next (s.startStep ridge.val)

/-- A start asked for: with no spare in SPARE it is ignored and flags the consumer's overrun (R244). -/
def State.askStep (s : State) (k : Nat) (gen : Nat := 0) : State :=
  let j := s.rd F.ridgeRotStat_spare k
  if j == noSpur || s.rd F.ridgeSpurStat_role (spurAt k j) != SpurRole.spare || s.rd F.ridgeRotStat_step k == RotStep.copy then
    s.overrun (112 + k) (0x30 + k)
  else s.startStep k gen

/-- ROT_NOW (R244): the write acts as consumer 112 + k. -/
def execRotNow (ridge : Fin 6) (s : State) : Out := .next (s.askStep ridge.val)

/-- ROTATION_EVENT (R244): consumer 112 + k. -/
def execRotationEvent (ridge : Fin 6) (gen : Fin 8) (s : State) : Out := .next (s.askStep ridge.val (gen.val + 1))

/-- SPUR_COPY_DONE (R245, R246): SHADOW waits for the next line boundary. -/
def execSpurCopyDone (ridge : Fin 6) (s : State) : Out :=
  let k := ridge.val
  if s.rd F.ridgeRotStat_step k != RotStep.copy then .next s else .next (s.setRot k { s.rot k with copied := true })

/-- A line boundary at which a line is taken, before the line (R246, R251): a hand-over that is due, or SHADOW begins. -/
def State.rotBoundary (s : State) (k : Nat) : State :=
  let r := s.rot k
  if r.forced then
    let m := s.rd F.ridgeRotStat_targetSlot k
    let old := s.slotSpur k m
    let first := s.rd64 F.ridgeSuspectFirstLo_pos F.ridgeSuspectFirstHi_pos k
    let last := s.rd64 F.ridgeSuspectLastLo_pos F.ridgeSuspectLastHi_pos k
    let s := s.log Ev.spurSuspect (0x30 + k) (16 * k + old) [first % 2 ^ 32, first / 2 ^ 32, last % 2 ^ 32, last / 2 ^ 32]
    let s := s.handOver k
    s.setRot k { s.rot k with suspect := true }
  else if s.rd F.ridgeRotStat_step k == RotStep.shadow && s.rd F.ridgeRotStat_shadowLines k == 64 then s.handOver k
  else if s.rd F.ridgeRotStat_step k == RotStep.copy && r.copied then
    let s := s.setRole k (s.rd F.ridgeRotStat_spare k) SpurRole.shadowing (s.rd F.ridgeRotStat_targetSlot k)
    let s := s.wr F.ridgeRotStat_shadowLines k 0
    (s.wr F.ridgeRotStat_step k RotStep.shadow).setRot k { r with copied := false }
  else s

/-- The outputs of the two Spurs compared on the line taken (R246, R251): `stamp` is the line's position stamp. -/
def State.rotCompare (s : State) (k : Nat) (stamp : Int) (mismatch : Bool) : State :=
  if s.rd F.ridgeRotStat_step k != RotStep.shadow || (s.rot k).forced then s else
  let s := s.wr F.ridgeRotStat_shadowLines k (min 64 (s.rd F.ridgeRotStat_shadowLines k + 1))
  if !mismatch then s else
  let s := s.count (F.ridgeRotCnt_count 1) k 1
  let s := s.ridgeEvent k F.ridgeEvt_mismatch (s.rot k).gen
  if s.flag F.ridgeRotStat_retry k then
    let s := s.wrI64 F.ridgeSuspectLastLo_pos F.ridgeSuspectLastHi_pos k stamp
    s.setRot k { s.rot k with forced := true }
  else
    let s := s.wrI64 F.ridgeSuspectFirstLo_pos F.ridgeSuspectFirstHi_pos k stamp
    let j := s.rd F.ridgeRotStat_spare k
    let s := s.wr F.ridgeRotStat_spare k noSpur
    (s.isolateSpur k j).setRot k { s.rot k with disputed := true }

/-- SPUR_ISOLATED (R247, R248): the slice begins. -/
def execSpurIsolated (ridge : Fin 6) (s : State) : Out :=
  let k := ridge.val
  if s.rd F.ridgeRotStat_step k != RotStep.isolate then .next s else
  let j := s.rd F.ridgeRotStat_underTest k
  .next ((s.setRole k j SpurRole.underTest noSpur).wr F.ridgeRotStat_step k RotStep.test)

/-- A Spur retires (R250). -/
def State.retireSpur (s : State) (k j : Nat) : State :=
  let s := s.setRole k j SpurRole.retired noSpur
  let s := s.up F.ridgeStat_noSpare k
  let s := s.wr F.ridgeStat_working k (s.rd F.ridgeStat_working k - 1)
  let s := (s.isolate (spurIsland k j) false).gate (spurIsland k j)
  let s := s.log Ev.spurRetired (0x30 + k) 0 [k, j]
  let s := s.ridgeEvent k F.ridgeEvt_retire (s.rot k).gen
  let s := s.wr F.ridgeRotStat_underTest k noSpur
  (s.wr F.ridgeRotStat_step k RotStep.stopped).setRot k {}

/-- The target slot advances past a slot handed over. -/
def State.advanceTarget (s : State) (k : Nat) : State :=
  if (s.rot k).handed then s.wr F.ridgeRotStat_targetSlot k ((s.rd F.ridgeRotStat_targetSlot k + 1) % 8) else s

/-- A slice's result (R248, R250, R251): 1 PASS, 2 FAIL, 3 SKIPPED, 4 INCOMPLETE. -/
def State.sliceResult (s : State) (k result : Nat) : State :=
  let j := s.rd F.ridgeRotStat_underTest k
  let i := spurAt k j
  let s := s.wr F.ridgeSpurStat_lastResult i result
  let s := s.count (F.ridgeRotCnt_count (1 + result)) k 1
  let s := if result != 3 then s.count F.ridgeSpurStat_tests i 1 else s
  let s := if result != 1 then s.ridgeEvent k F.ridgeEvt_sliceNotPass (s.rot k).gen else s
  let r := s.rot k
  let s := if result == 1 && r.suspect then s.wr F.ridgeSpurStat_suspect i (min 2 (s.rd F.ridgeSpurStat_suspect i + 1)) else s
  let worn := result == 1 && r.suspect && s.rd F.ridgeSpurStat_suspect i == 2
  if result == 2 || worn then (s.advanceTarget k).retireSpur k j else
  let s := s.setRole k j SpurRole.reinit noSpur
  let s := s.wr F.ridgeRotStat_step k RotStep.reinit
  s.setRot k { r with retryNext := r.disputed && result == 1 }

/-- PATTERNS as taken (R248). -/
def State.rotPatterns (s : State) (k : Nat) : Nat := clampNat 10 20 (s.rd F.ridgeRotCtl_patterns k)

/-- SPUR_SLICE_DONE (R248): the pattern count is reached with this signature, or a limit failed. -/
def execSpurSliceDone (ridge : Fin 6) (limitsHeld : Bool) (signature : BitVec 64) (s : State) : Out :=
  let k := ridge.val
  if s.rd F.ridgeRotStat_step k != RotStep.test then .next s else
  let j := s.rd F.ridgeRotStat_underTest k
  if !limitsHeld then .next (s.sliceResult k 3) else
  let s := s.wr F.ridgeSpurSig_sig (spurAt k j) signature.toNat
  let good := signature.toNat == Config.testSignature (spurIsland k j) 0 (s.rotPatterns k)
  .next (s.sliceResult k (if good then 1 else 2))

/-- SLICE_BUDGET_EXPIRY (R248): INCOMPLETE. -/
def execSliceBudgetExpiry (ridge : Fin 6) (s : State) : Out :=
  let k := ridge.val
  if s.rd F.ridgeRotStat_step k != RotStep.test then .next s else .next (s.sliceResult k 4)

/-- SPUR_REINIT_DONE (R249, R251): the Spur becomes the spare, or fails its write-read pass. -/
def execSpurReinitDone (ridge : Fin 6) (verified : Bool) (s : State) : Out :=
  let k := ridge.val
  if s.rd F.ridgeRotStat_step k != RotStep.reinit then .next s else
  let j := s.rd F.ridgeRotStat_underTest k
  if !verified then
    let s := s.wr F.ridgeSpurStat_lastResult (spurAt k j) 2
    let s := s.count (F.ridgeRotCnt_count 3) k 1
    .next ((s.advanceTarget k).retireSpur k j)
  else
    let r := s.rot k
    let s := s.advanceTarget k
    let s := s.isolate (spurIsland k j) false
    let s := s.setRole k j SpurRole.spare noSpur
    let s := s.wr F.ridgeRotStat_spare k j
    let s := s.wr F.ridgeRotStat_underTest k noSpur
    let s := s.wr F.ridgeRotStat_step k RotStep.wait
    let s := (s.wr F.ridgeRotStat_retry k 0).setRot k { gen := (s.rot k).gen }
    if r.retryNext && s.runMode && s.flag F.ridgeCtl_rotEn k then .next (s.startCopy k true) else .next (s.restStep k)

/-- The device leaves a run mode (R252): a step in COPY or SHADOW is abandoned. -/
def State.rotAbandon (s : State) (k : Nat) : State :=
  let step := s.rd F.ridgeRotStat_step k
  if step == RotStep.copy || step == RotStep.shadow then
    let j := s.rd F.ridgeRotStat_spare k
    let s := s.setRole k j SpurRole.reinit noSpur
    let s := s.wr F.ridgeRotStat_spare k noSpur
    let s := s.wr F.ridgeRotStat_underTest k j
    (s.wr F.ridgeRotStat_step k RotStep.reinit).setRot k { gen := (s.rot k).gen }
  else s

/-- A Ridge's Spurs at start-up (R231): `failed` lists the Spurs excluded; slots fill in increasing j, the
highest-numbered remaining Spur is the spare. -/
def State.ridgeStart (s : State) (k : Nat) (failed : List Nat) : State :=
  let good := (List.range 9).filter (fun j => !failed.contains j)
  let live := good.take 8
  let spare := if 8 < good.length then good.getLast? else none
  let s := forAll failed (fun j s =>
    if 8 < j then s else
    ((s.setRole k j SpurRole.retired noSpur).up F.ridgeSpurStat_bootRetired (spurAt k j)).gate (spurIsland k j)) s
  let s := s.wr F.ridgeSpurMap_map k ((List.range 8).foldl (fun a m => a + live.getD m noSpur * 2 ^ (4 * m)) 0)
  let s := forN live.length (fun m s => s.setRole k (live.getD m 0) SpurRole.live m) s
  let s := s.wr F.ridgeStat_working k good.length
  let s := s.wr F.ridgeStat_noSpare k (b2n spare.isNone)
  let s := s.wr F.ridgeRotStat_spare k (spare.getD noSpur)
  let s := match spare with
    | some j => s.setRole k j SpurRole.spare noSpur
    | none => s
  let held := s.inspectImage && good.length < s.rd F.ridgeStat_nodes k
  if held then
    let s := s.wr F.ridgeStat_state k 1
    let s := s.log Ev.ridgeHeld (0x30 + k) 0 [k]
    s.ridgeEvent k F.ridgeEvt_held
  else s.wr F.ridgeStat_state k 2

/-! ### A line boundary of the stage graph in INSPECT (R238, R239, R242, R243) -/

/-- RIDGE_LAG and its peak. -/
def State.showLag (s : State) (k : Nat) : State :=
  match (s.ridge k).lastInline, (s.ridge k).lastMem with
  | some a, some b =>
    let d := min 262143 (a - b).natAbs
    (s.wr F.ridgeLag_lines k d).peak F.ridgeLagPeak_lines k d
  | _, _ => s

/-- The position stamp of a line in u (48.16, native; R580). -/
def State.lineStamp (s : State) (h : Int) : Int := s.inSense h * 65536

/-- Dropped frames at the head of the memory path give their markers in turn (R243). -/
def State.dropTurns (s : State) (k : Nat) : Nat → State
  | 0 => s
  | fuel + 1 =>
    let r := s.ridge k
    match r.frames with
    | f :: rest =>
      if f.slot.isNone && f.complete then
        let c := 1 - s.inlineCtx k
        let s := s.setRidge k { r with frames := rest }
        let x := s.ctx k c
        let m : Marker := { port := ridgePort k c, frame := f.frame, missing := f.missing, last := f.last, dropped := true, memory := true }
        let s := s.setCtx k c { x with ends := x.ends ++ [m], last := some f.last }
        State.dropTurns (s.droppedMarkers k c 64) k fuel
      else s
    | [] => s

/-- The line a context takes runs through the graph. -/
def State.takeInto (s : State) (k c : Nat) (l : PortLine) (mismatch : Bool) : State :=
  let s := s.rotBoundary k
  let s := if l.index == 0 then s.paramFrame k c l.frame else s
  let s := s.graphLine k c l
  let r := s.ridge k
  let inl := c == s.inlineCtx k
  let s := s.setRidge k (if inl then { r with lastInline := some l.line } else { r with lastMem := some l.line })
  let s := s.count (F.ridgeCnt_count (if inl then 0 else 1)) k 1
  (s.showLag k).rotCompare k (s.lineStamp l.line) mismatch

/-- The arbiter's choice at a line boundary in INSPECT (R238). -/
def State.inspectBoundary (s : State) (k : Nat) (mismatch : Bool) : State :=
  let s := s.dropTurns k 16
  let r := s.ridge k
  let s := match r.inline with
    | l :: rest =>
      let s := s.setRidge k { r with inline := rest }
      (s.showInline k).takeInto k (s.inlineCtx k) l mismatch
    | [] =>
      match r.staging with
      | l :: rest =>
        let s := s.setRidge k { r with staging := rest }
        let s := s.takeInto k (1 - s.inlineCtx k) l mismatch
        let r := s.ridge k
        let s := if l.index + 1 == s.frameLen then
            s.setRidge k { r with frames := r.frames.filter (fun f => f.frame != l.frame) }
          else s
        ((s.stageLines k 4).showSlots k).dropTurns k 16
      | [] => s
  s.ridgeFlush k

end Sys2Proof.Machine
end

