-- ==== Sys2Proof/Machine/RidgeStep.lean ====
section
/-! DEFINITION. The Ridge's line boundary (R238, R255): in INSPECT the stage graph takes the arbiter's choice, in EXPOSE
the kernel takes the next dose line. -/

namespace Sys2Proof.Machine

/-- The position stamp of a dose line (R15, R357): its stripe's ORIGIN and the line. -/
def State.doseStamp (s : State) (l : DoseLine) : Int :=
  let o := if s.laid.running && s.laid.num == l.stripe then s.laid.origin else s.originShadow
  s.toU (o + l.y) * 65536

/-- The kernel takes its next dose line (R254, R255, R345). -/
def State.kernelBoundary (s : State) (k : Nat) (mismatch : Bool) : State :=
  let c := s.kernel k
  match c.queue with
  | [] => s
  | l :: rest =>
    let s := s.setKernel k { c with queue := rest }
    let s := (s.rotBoundary k).kernelStep k l
    s.rotCompare k (s.doseStamp l) mismatch

/-- RIDGE_LINE_BOUNDARY (R238, R255): `mismatch` tells whether the outputs of the spare and of the live Spur differ on
the line taken. -/
def execRidgeLineBoundary (ridge : Fin 6) (mismatch : Bool) (s : State) : Out :=
  let k := ridge.val
  if s.exposeImage then .next (if k < 4 then s.kernelBoundary k mismatch else s)
  else .next (s.inspectBoundary k mismatch)

end Sys2Proof.Machine
end

