-- ==== Sys2Proof/Machine/Codec.lean ====
section
/-! DEFINITION. The codecs of the Ream engines as functions on byte strings: the Elvern raster codec in both directions
(R421 to R424), DEFLATE and zlib decompression (R417 to R419) and the framing of a compression (R420). -/

namespace Sys2Proof.Machine

/-! ### Causes a codec can end with (R416) -/
namespace Rc
def desc : Nat := 0x01
def align : Nat := 0x02
def overlap : Nat := 0x03
def mem : Nat := 0x04
def mode : Nat := 0x05
def outFull : Nat := 0x06
def range : Nat := 0x07
def streamHeader : Nat := 0x08
def streamData : Nat := 0x09
def dist : Nat := 0x0A
def truncated : Nat := 0x0B
def trailing : Nat := 0x0C
def checksum : Nat := 0x0D
def crcMismatch : Nat := 0x0E
def echo : Nat := 0x0F
end Rc

/-- What a codec leaves: the bytes made, the input bytes consumed, and the cause it ended with. -/
structure CodecRun where
  out : Bytes
  used : Nat
  cause : Option Nat
  deriving DecidableEq, Repr

/-! ### Bit streams, least significant bit first -/

/-- The bits of a byte string. -/
def bitsOf (bs : Bytes) : List Bool := bs.flatMap (fun b => (List.range 8).map (fun i => bit b.toNat i))

/-- `k` bits of a number. -/
def numBits (k n : Nat) : List Bool := (List.range k).map (bit n)

/-- The value of a bit string. -/
def bitsNat (l : List Bool) : Nat := l.foldr (fun b a => b2n b + 2 * a) 0

/-- The next `k` bits as a number, and the rest. -/
def getBits (k : Nat) (l : List Bool) : Option (Nat × List Bool) :=
  if l.length < k then none else some (bitsNat (l.take k), l.drop k)

/-- A list in pieces of `n`. -/
def pieces {α : Type} (n : Nat) : Nat → List α → List (List α)
  | 0, _ => []
  | _ + 1, [] => []
  | fuel + 1, l => l.take n :: pieces n fuel (l.drop n)

/-- Bits packed into bytes, the last padded with 0. -/
def packBits (l : List Bool) : Bytes := (pieces 8 (l.length / 8 + 1) l).map (fun p => BitVec.ofNat 8 (bitsNat p))

/-! ### The raster codec (R421 to R424) -/

/-- The prediction of R422: `left` is the sample to the left with the one above it; `up` the sample above. -/
def rasterPredict : Option (Nat × Nat) → Option Nat → Nat
  | none, none => 0
  | some (a, _), none => a
  | none, some b => b
  | some (a, c), some b => if max a b ≤ c then min a b else if c ≤ min a b then max a b else a + b - c

/-- The residual code u of sample `x` against prediction `p` at depth `b` (R422). -/
def residual (b x p : Nat) : Nat :=
  let e := (x + 2 ^ b - p % 2 ^ b) % 2 ^ b
  if 2 ^ (b - 1) ≤ e then 2 * (2 ^ b - e) - 1 else 2 * e

/-- The sample a residual code gives (R422). -/
def unresidual (b u p : Nat) : Nat :=
  if u % 2 = 0 then (p + u / 2) % 2 ^ b else (p + 2 ^ b - (u + 1) / 2 % 2 ^ b) % 2 ^ b

/-- The residual codes of a row. -/
def rowCodes (b : Nat) : List Nat → Option (List Nat) → Option (Nat × Nat) → List Nat
  | [], _, _ => []
  | x :: xs, up, left =>
    let above := up.bind (·.head?)
    residual b x (rasterPredict left above) :: rowCodes b xs (up.map List.tail) (some (x, above.getD 0))

/-- The samples of a row from its residual codes. -/
def rowSamples (b : Nat) : List Nat → Option (List Nat) → Option (Nat × Nat) → List Nat
  | [], _, _ => []
  | u :: us, up, left =>
    let above := up.bind (·.head?)
    let x := unresidual b u (rasterPredict left above)
    x :: rowSamples b us (up.map List.tail) (some (x, above.getD 0))

/-- The residual codes of rows in order. -/
def imageCodes (b : Nat) : Option (List Nat) → List (List Nat) → List (List Nat)
  | _, [] => []
  | up, r :: rs => rowCodes b r up none :: imageCodes b (some r) rs

/-- The samples of rows from their codes. -/
def imageSamples (b : Nat) : Option (List Nat) → List (List Nat) → List (List Nat)
  | _, [] => []
  | up, r :: rs =>
    let x := rowSamples b r up none
    x :: imageSamples b (some x) rs

/-- K of a group (R423): the smallest with every code below 2^K. -/
def groupK (g : List Nat) : Nat := ((List.range 17).find? (fun k => g.all (· < 2 ^ k))).getD 17

/-- The codes of a run of `l` groups with K = 0 (R423). -/
def runCodes : Nat → Nat → List Bool
  | 0, _ => []
  | fuel + 1, l =>
    if 2 ≤ l then
      let m := min l 4097
      numBits 5 31 ++ numBits 12 (m - 2) ++ runCodes fuel (l - m)
    else if l = 1 then numBits 5 0 else []

/-- The code of groups in order; `run` groups with K = 0 are pending, and are left out at the end where `open_` is set:
a stream broken off. -/
def groupCodes (open_ : Bool) : List (List Nat) → Nat → List Bool
  | [], run => if open_ then [] else runCodes (run + 1) run
  | g :: gs, run =>
    let k := groupK g
    if k = 0 then groupCodes open_ gs (run + 1)
    else runCodes (run + 1) run ++ numBits 5 k ++ g.flatMap (numBits k) ++ groupCodes open_ gs 0

/-- The 16-byte header of a raster stream (R421). -/
def rasterHeader (width depth : Nat) (two : Bool) (rows : Nat) : Bytes :=
  let h := ofNats [0x45, 0x52, 1, b2n two + 16 * (depth - 1)] ++ leBytes 2 width ++ zeros 2 ++ leBytes 4 rows
  h ++ leBytes 2 (crc16 h) ++ zeros 2

/-- The samples of a byte string. -/
def samplesOf (two : Bool) (bs : Bytes) : List Nat :=
  (pieces (1 + b2n two) (bs.length + 1) bs).map leNat

/-- Raster compression of an input (R421 to R423). An input that is not a whole number of rows, or that holds a sample
of 2^DEPTH or more, ends with RANGE: the groups before the sample's group have been coded. -/
def rasterEncode (width depth : Nat) (two : Bool) (input : Bytes) : CodecRun :=
  let sb := 1 + b2n two
  let rowLen := width * sb
  if rowLen = 0 || input.length % rowLen ≠ 0 then ⟨[], 0, some Rc.range⟩ else
  let rows := input.length / rowLen
  let samples := samplesOf two input
  let hdr := rasterHeader width depth two rows
  let groupsOf (l : List (List Nat)) : List (List Nat) := (imageCodes depth none l).flatMap (fun r => pieces 16 (r.length + 1) r)
  match samples.findIdx? (fun x => 2 ^ depth ≤ x) with
  | none => ⟨hdr ++ packBits (groupCodes false (groupsOf (pieces width (rows + 1) samples)) 0), input.length, none⟩
  | some j =>
    let whole := (j / width) * ((width + 15) / 16) + j % width / 16
    let part := groupCodes true ((groupsOf (pieces width (rows + 1) (samples.take (j + 1)))).take whole) 0
    ⟨hdr ++ packBits (part.take (part.length / 8 * 8)), (j + 1) * sb, some Rc.range⟩

/-- Groups decoded so far, newest first, the bits left, and the cause of an end before the last group. -/
structure GroupRun where
  groups : List (List Nat)
  rest : List Bool
  cause : Option Nat
  deriving DecidableEq, Repr

/-- The groups of a raster stream (R423, R424): `size g` is the number of samples of group `g`, `cap` the samples the
output can take. -/
def rasterGroups (depth total cap : Nat) (size : Nat → Nat) : Nat → List Bool → Nat → Nat → List (List Nat) → GroupRun
  | 0, l, _, _, acc => ⟨acc, l, some Rc.truncated⟩
  | fuel + 1, l, g, n, acc =>
    if cap < n then ⟨acc, l, some Rc.outFull⟩ else
    if total ≤ g then ⟨acc, l, none⟩ else
    match getBits 5 l with
    | none => ⟨acc, [], some Rc.truncated⟩
    | some (h, l') =>
      if h = 31 then
        match getBits 12 l' with
        | none => ⟨acc, [], some Rc.truncated⟩
        | some (k, l'') =>
          if total < g + k + 2 then ⟨acc, l'', some Rc.streamData⟩ else
          let new := (List.range (k + 2)).map (fun i => List.replicate (size (g + i)) 0)
          rasterGroups depth total cap size fuel l'' (g + k + 2) (n + (new.map List.length).sum) (new.reverse ++ acc)
      else if 16 < h || depth < h then ⟨acc, l', some Rc.streamData⟩
      else
        let m := size g
        match getBits (m * h) l' with
        | none => ⟨acc, [], some Rc.truncated⟩
        | some (v, l'') =>
          let grp := (List.range m).map (fun i => bits v (i * h) h)
          rasterGroups depth total cap size fuel l'' (g + 1) (n + m) (grp :: acc)

/-- The header is well formed (R424). -/
def rasterHeaderOk (h : Bytes) : Bool :=
  let fmt := leAt h 3 1
  let width := leAt h 4 2
  let rows := leAt h 8 4
  let two := bit fmt 0
  leAt h 0 2 == 0x5245 && leAt h 2 1 == 1 && bits fmt 1 3 == 0 && width != 0 && rows != 0 && leAt h 6 2 == 0 &&
    leAt h 12 2 == crc16 (h.take 12) && leAt h 14 2 == 0 && (two || fmt / 16 < 8) &&
    rows * width * (1 + b2n two) ≤ 4294967295

/-- Raster decompression (R421 to R424) into at most `cap` bytes. -/
def rasterDecode (cap : Nat) (input : Bytes) : CodecRun :=
  if input.length < 16 then ⟨[], input.length, some Rc.truncated⟩ else
  let h := input.take 16
  if !rasterHeaderOk h then ⟨[], 16, some Rc.streamHeader⟩ else
  let fmt := leAt h 3 1
  let two := bit fmt 0
  let sb := 1 + b2n two
  let depth := fmt / 16 + 1
  let width := leAt h 4 2
  let rows := leAt h 8 4
  let perRow := (width + 15) / 16
  let size (g : Nat) : Nat := if g % perRow + 1 = perRow then width - 16 * (perRow - 1) else 16
  let l := bitsOf (input.drop 16)
  let r := rasterGroups depth (rows * perRow) (cap / sb) size (l.length + 2) l 0 0 []
  let codes := r.groups.reverse.flatten
  let samples := (imageSamples depth none (pieces width (rows + 1) codes)).flatten
  let out := samples.flatMap (leBytes sb)
  let used := 16 + (l.length - r.rest.length + 7) / 8
  match r.cause with
  | some c => ⟨out.take cap, used, some c⟩
  | none =>
    if cap < out.length then ⟨out.take cap, used, some Rc.outFull⟩ else
    -- the rest of the last byte is padding
    if (r.rest.take (r.rest.length % 8)).any id then ⟨out, used, some Rc.streamData⟩
    else if 8 ≤ r.rest.length then ⟨out, used, some Rc.trailing⟩
    else ⟨out, used, none⟩

/-! ### DEFLATE decompression (R417) -/

/-- A decompression under way: bits left, output newest first, its length. -/
structure Inf where
  rest : List Bool
  out : Bytes
  n : Nat
  deriving DecidableEq, Repr

/-- The symbols with code length `k`, in order. -/
def symsOf (lens : List Nat) (k : Nat) : List Nat := (List.range lens.length).filter (fun i => lens.getD i 0 == k)

/-- A canonical Huffman code read (RFC 1951): `some none` where the bits name no symbol, `none` where the input ends. -/
def huffSym (lens : List Nat) : Nat → Nat → Nat → Nat → List Bool → Option (Option Nat × List Bool)
  | 0, _, _, _, l => some (none, l)
  | fuel + 1, k, code, first, l =>
    match l with
    | [] => none
    | b :: t =>
      let code := code + b2n b
      let syms := symsOf lens k
      if code < first + syms.length then some (syms[code - first]?, t)
      else if lens.all (· ≤ k) then some (none, t)
      else huffSym lens fuel (k + 1) (2 * code) (2 * (first + syms.length)) t

/-- A symbol of a code. -/
def huff (lens : List Nat) (l : List Bool) : Option (Option Nat × List Bool) := huffSym lens 15 1 0 0 l

/-- The Kraft sum of a set of code lengths, in units of 2⁻¹⁵. -/
def kraft (lens : List Nat) : Nat := ((lens.filter (· ≠ 0)).map (fun k => 2 ^ (15 - k))).sum

/-- A set of code lengths that is neither over-subscribed nor incomplete. -/
def complete (lens : List Nat) : Bool := kraft lens == 2 ^ 15

/-- A set of distance code lengths that R417 allows: complete, none, or a single code of length 1. -/
def distOk (lens : List Nat) : Bool :=
  complete lens || lens.all (· == 0) || (lens.filter (· ≠ 0)) == [1]

/-- Base and extra bits of length symbols 257 to 285, and of distance symbols 0 to 29 (RFC 1951). -/
def lenBase : List Nat := [3, 4, 5, 6, 7, 8, 9, 10, 11, 13, 15, 17, 19, 23, 27, 31, 35, 43, 51, 59, 67, 83, 99, 115, 131,
  163, 195, 227, 258]
def lenExtra : List Nat := [0, 0, 0, 0, 0, 0, 0, 0, 1, 1, 1, 1, 2, 2, 2, 2, 3, 3, 3, 3, 4, 4, 4, 4, 5, 5, 5, 5, 0]
def distBase : List Nat := [1, 2, 3, 4, 5, 7, 9, 13, 17, 25, 33, 49, 65, 97, 129, 193, 257, 385, 513, 769, 1025, 1537, 2049,
  3073, 4097, 6145, 8193, 12289, 16385, 24577]
def distExtra : List Nat := [0, 0, 0, 0, 1, 1, 2, 2, 3, 3, 4, 4, 5, 5, 6, 6, 7, 7, 8, 8, 9, 9, 10, 10, 11, 11, 12, 12, 13, 13]

/-- `k` bytes copied from distance `d` in the output. -/
def copyBack (d : Nat) : Nat → Bytes → Bytes
  | 0, out => out
  | k + 1, out => copyBack d k (out.getD (d - 1) 0 :: out)

/-- The symbols of a block up to its end (RFC 1951), the output limited to `cap` bytes. -/
def infCodes (lit dist : List Nat) (cap : Nat) : Nat → Inf → Inf × Option Nat
  | 0, s => (s, some Rc.truncated)
  | fuel + 1, s =>
    if cap < s.n then (s, some Rc.outFull) else
    match huff lit s.rest with
    | none => ({ s with rest := [] }, some Rc.truncated)
    | some (none, t) => ({ s with rest := t }, some Rc.streamData)
    | some (some y, t) =>
      if y < 256 then infCodes lit dist cap fuel ⟨t, BitVec.ofNat 8 y :: s.out, s.n + 1⟩
      else if y = 256 then ({ s with rest := t }, none)
      else if 285 < y then ({ s with rest := t }, some Rc.streamData)
      else
        match getBits (lenExtra.getD (y - 257) 0) t with
        | none => ({ s with rest := [] }, some Rc.truncated)
        | some (x, t) =>
          let len := lenBase.getD (y - 257) 0 + x
          if dist.all (· == 0) then ({ s with rest := t }, some Rc.streamData) else
          match huff dist t with
          | none => ({ s with rest := [] }, some Rc.truncated)
          | some (none, t) => ({ s with rest := t }, some Rc.streamData)
          | some (some z, t) =>
            if 29 < z then ({ s with rest := t }, some Rc.streamData) else
            match getBits (distExtra.getD z 0) t with
            | none => ({ s with rest := [] }, some Rc.truncated)
            | some (x, t) =>
              let d := distBase.getD z 0 + x
              if s.n < d || 32768 < d then ({ s with rest := t }, some Rc.dist)
              else infCodes lit dist cap fuel ⟨t, copyBack d len s.out, s.n + len⟩

/-- The code lengths of a dynamic block read with the code-length code (RFC 1951). -/
def readLens (clens : List Nat) (total : Nat) : Nat → List Nat → List Bool → Except Nat (List Nat × List Bool)
  | 0, _, _ => .error Rc.truncated
  | fuel + 1, acc, l =>
    if total ≤ acc.length then (if total < acc.length then .error Rc.streamData else .ok (acc, l)) else
    match huff clens l with
    | none => .error Rc.truncated
    | some (none, _) => .error Rc.streamData
    | some (some y, t) =>
      if y < 16 then readLens clens total fuel (acc ++ [y]) t
      else
        let (w, base) := if y = 16 then (2, 3) else if y = 17 then (3, 3) else (7, 11)
        match getBits w t with
        | none => .error Rc.truncated
        | some (x, t) =>
          if y = 16 && acc.isEmpty then .error Rc.streamData else
          let v := if y = 16 then acc.getLast?.getD 0 else 0
          readLens clens total fuel (acc ++ List.replicate (base + x) v) t

/-- The order in which the lengths of the code-length code are sent. -/
def clenOrder : List Nat := [16, 17, 18, 0, 8, 7, 9, 6, 10, 5, 11, 4, 12, 3, 13, 2, 14, 1, 15]

/-- The two codes of a dynamic block: literal and length, distance. -/
def dynamicCodes (l : List Bool) : Except Nat (List Nat × List Nat × List Bool) :=
  match getBits 14 l with
  | none => .error Rc.truncated
  | some (h, l) =>
    let hlit := bits h 0 5 + 257
    let hdist := bits h 5 5 + 1
    let hclen := bits h 10 4 + 4
    match getBits (3 * hclen) l with
    | none => .error Rc.truncated
    | some (v, l) =>
      let clens := (List.range 19).map (fun i =>
        match clenOrder.findIdx? (· == i) with
        | some j => if j < hclen then bits v (3 * j) 3 else 0
        | none => 0)
      if !complete clens then .error Rc.streamData else
      match readLens clens (hlit + hdist) (hlit + hdist + 1) [] l with
      | .error e => .error e
      | .ok (lens, l) =>
        let lit := lens.take hlit
        let dist := lens.drop hlit
        if complete lit && distOk dist then .ok (lit, dist, l) else .error Rc.streamData

/-- The fixed codes of RFC 1951. -/
def fixedLit : List Nat := List.replicate 144 8 ++ List.replicate 112 9 ++ List.replicate 24 7 ++ List.replicate 8 8
def fixedDist : List Nat := List.replicate 32 5

/-- The bytes of a stored block taken as far as the input goes. -/
def storedBytes (cap : Nat) (s : Inf) (len : Nat) : Inf × Option Nat :=
  let have_ := min len (s.rest.length / 8)
  let bs := packBits (s.rest.take (8 * have_))
  let s : Inf := ⟨s.rest.drop (8 * have_), bs.reverse ++ s.out, s.n + have_⟩
  if cap < s.n then (s, some Rc.outFull) else if have_ < len then (s, some Rc.truncated) else (s, none)

/-- The blocks of a DEFLATE stream up to the one with BFINAL. -/
def infBlocks (cap : Nat) : Nat → Inf → Inf × Option Nat
  | 0, s => (s, some Rc.truncated)
  | fuel + 1, s =>
    match getBits 3 s.rest with
    | none => ({ s with rest := [] }, some Rc.truncated)
    | some (h, l) =>
      let step : Inf × Option Nat :=
        if h / 2 = 0 then
          let l := l.drop (l.length % 8)
          match getBits 32 l with
          | none => ({ s with rest := [] }, some Rc.truncated)
          | some (v, l) =>
            if v % 65536 + v / 65536 ≠ 65535 then ({ s with rest := l }, some Rc.streamData)
            else storedBytes cap { s with rest := l } (v % 65536)
        else if h / 2 = 1 then infCodes fixedLit fixedDist cap (l.length + 1) { s with rest := l }
        else if h / 2 = 2 then
          match dynamicCodes l with
          | .error e => ({ s with rest := if e = Rc.truncated then [] else l }, some e)
          | .ok (lit, dist, l) => infCodes lit dist cap (l.length + 1) { s with rest := l }
        else ({ s with rest := l }, some Rc.streamData)
      match step with
      | (s, some e) => (s, some e)
      | (s, none) => if h % 2 = 1 then (s, if cap < s.n then some Rc.outFull else none) else infBlocks cap fuel s

/-- DEFLATE decompression up to the stream's last byte: the output, the bytes consumed, the cause of a bad end. -/
def inflateRaw (cap : Nat) (input : Bytes) : CodecRun :=
  let l := bitsOf input
  let (s, e) := infBlocks cap (l.length + 1) ⟨l, [], 0⟩
  ⟨(s.out.reverse).take cap, (l.length - s.rest.length + 7) / 8, e⟩

/-- DEFLATE decompression of a whole input (R417, R419). -/
def inflate (cap : Nat) (input : Bytes) : CodecRun :=
  let r := inflateRaw cap input
  if r.cause.isNone && r.used < input.length then { r with cause := some Rc.trailing } else r

/-- The zlib header is well formed (R418). -/
def zlibHeaderOk (cmf flg : Nat) : Bool :=
  cmf % 16 == 8 && cmf / 16 ≤ 7 && (256 * cmf + flg) % 31 == 0 && !bit flg 5

/-- Decompression with the zlib wrapper (R418, R419). -/
def zlibInflate (cap : Nat) (input : Bytes) : CodecRun :=
  if input.length < 2 then ⟨[], input.length, some Rc.truncated⟩ else
  if !zlibHeaderOk (leAt input 0 1) (leAt input 1 1) then ⟨[], 2, some Rc.streamHeader⟩ else
  let r := inflateRaw cap (input.drop 2)
  if r.cause.isSome then { r with used := r.used + 2 } else
  let rest := input.drop (2 + r.used)
  if rest.length < 4 then { r with used := input.length, cause := some Rc.truncated }
  else if beAt rest 0 4 != adler32 r.out then { r with used := r.used + 6, cause := some Rc.checksum }
  else if 4 < rest.length then { r with used := r.used + 6, cause := some Rc.trailing }
  else { r with used := r.used + 6 }

/-- Decompression by CODEC: 0 none, 1 raster, 2 DEFLATE, 3 zlib (R322, R408). -/
def decompress (codec cap : Nat) (input : Bytes) : CodecRun :=
  if codec = 0 then ⟨input.take cap, min cap input.length, if cap < input.length then some Rc.outFull else none⟩
  else if codec = 1 then rasterDecode cap input
  else if codec = 2 then inflate cap input
  else zlibInflate cap input

/-- Compression by CODEC before any limit (R420, R421): DEFLATE bytes are the compressor's own. -/
def compress (codec width depth : Nat) (two : Bool) (input : Bytes) : CodecRun :=
  if codec = 1 then rasterEncode width depth two input
  else
    let body := Config.deflateBytes 0 input
    ⟨if codec = 3 then ofNats [0x78, 0x9C] ++ body ++ beBytes 4 (adler32 input) else body, input.length, none⟩

end Sys2Proof.Machine
end

