-- ==== Sys2Proof/Machine/Couch.lean ====
section
/-! DEFINITION. The Couch (R292 to R317): intake, web positions, the seam table, the decision forest, records, crops and
marker units. -/

namespace Sys2Proof.Machine

/-! Counters of the Couch, in table order. -/
namespace Cc
def itemsIn : Nat := 0
def records : Nat := 1
def recDrop : Nat := 2
def suppressed : Nat := 3
def seamMerges : Nat := 4
def seamTimeout : Nat := 5
def seamFull : Nat := 6
def seamCut : Nat := 7
def crops : Nat := 8
def cropLost : Nat := 9
def cropDrop : Nat := 10
def cropPartial : Nat := 11
def timeNone : Nat := 12
def forestErr : Nat := 13
end Cc

def State.couchCount (s : State) (c n : Nat) : State := s.count (F.couchCnt_count c) 0 n

/-! Flags of a record (R308). -/
namespace Rf
def overflowTouch : Nat := 0x20
def noIntensity : Nat := 0x40
def intensityMiss : Nat := 0x80
def seamMerged : Nat := 0x100
def seamTimeout : Nat := 0x200
def seamFull : Nat := 0x400
def posUncertain : Nat := 0x800
def timeNone : Nat := 0x1000
def markLate : Nat := 0x2000
def cropClipped : Nat := 0x4000
def drain : Nat := 0x8000
end Rf

/-- A record's flag bits from an item's (R289, R308). -/
def recordFlags (item : Nat) : Nat := item % 32 + bits item 6 3 * 32

/-! ### Web positions (R294) -/

def State.xbase (s : State) (p : Nat) : Int := signed 32 (s.rd F.couchPortXbase_xbase p)
def State.mirrored (s : State) (p : Nat) : Bool := s.flag F.couchPortMap_mirror p

/-- XPOS of a column of a port. -/
def State.xpos (s : State) (p : Nat) (x : Int) : Int := if s.mirrored p then s.xbase p - x else s.xbase p + x

/-- A mapped item of a port. -/
def State.mapped (s : State) (p : Nat) (i : Item) : Member :=
  let a := s.xpos p i.xMin
  let b := s.xpos p i.xMax
  { port := p, item := i, xMin := min a b, xMax := max a b, seams := [], group := 0, entered := s.clock }

/-- The last line of an item, in u. -/
def Item.last (i : Item) : Int := i.first + i.height - 1

/-! ### Line times (R302, R303) -/

/-- The line-time ring holds 262,144 entries; it begins at the base of the COUCH_OUT region. -/
def State.lineTimeAddr (s : State) (h : Int) : Option Nat :=
  (s.region 4).map (fun r => r.base + (Int.fmod (s.inSense h) 262144).toNat * 16)

/-- The entry of a line tick, or of a line reported untriggered (R302). -/
def State.lineTime (s : State) (h : Int) (ticked : Bool) : State :=
  let unc := s.flag F.reelStat_uncertain
  let s := if ticked && unc then { s with couch.uncCnt := (s.couch.uncCnt + 1) % 2 ^ 32 } else s
  match s.lineTimeAddr h with
  | none => s
  | some a =>
    s.store 7 a (leBytes 6 (unsigned 48 (s.inSense h)) ++ leBytes 2 (b2n ticked + b2n unc * 2) ++ leBytes 4 s.ns ++
      leBytes 4 s.couch.uncCnt)

/-- An entry read: TICKED, UNCERTAIN, NS, UNC_CNT, where it is the line's own (R303). -/
def State.lineEntry (s : State) (h : Int) : Option (Bool × Nat × Nat) :=
  match s.lineTimeAddr h with
  | none => none
  | some a =>
    match s.readMem a 16 with
    | none => none
    | some b =>
      if leAt b 0 6 == unsigned 48 (s.inSense h) && bit (leAt b 6 1) 0 then
        some (bit (leAt b 6 1) 1, leAt b 8 4, leAt b 12 4)
      else none

/-- TIME and the flags TIME_NONE and POS_UNCERTAIN of a record that begins on `first` and ends on `last` (R303). -/
def State.timeOf (s : State) (first last : Int) : Nat × Nat :=
  match s.lineEntry first with
  | none => (0, Rf.timeNone)
  | some (unc, ns, cnt) =>
    let moved := match s.lineEntry last with
      | some (_, _, cnt') => cnt' != cnt
      | none => false
    (ns, if unc || moved then Rf.posUncertain else 0)

/-! ### Levels -/

/-- Units in the classify queue. -/
def Couch.units (c : Couch) : Nat :=
  (c.queue.filter (fun e => match e with
    | .unit .. => true
    | .close _ => false)).length

/-- SEAM_USED, CLASS_Q, record and crop levels, HELD of each seam, and their HWM bits (R292). -/
def State.showCouch (s : State) : State :=
  let c := s.couch
  let s := s.wr F.couchLevels_seamUsed 0 c.held.length
  let s := s.wr F.couchLevels_classQ 0 c.units
  let s := s.wr F.couchOutLevel_records 0 c.records.length
  let s := s.wr F.couchOutLevel_crops 0 (min 255 c.crops.length)
  let s := s.wr F.couchOutLevel_cropsFull 0 (b2n (decide (256 ≤ c.crops.length)))
  let s := forN 11 (fun q s => s.wr F.seamStat_held q (c.held.filter (fun m => m.seams.contains q)).length) s
  let s := if 6144 ≤ c.held.length then s.up F.couchStat_seamHwm else s
  let s := if 768 ≤ c.units then s.up F.couchStat_classHwm else s
  let s := if 49152 ≤ c.records.length then s.up F.couchStat_outHwm else s
  if 192 ≤ c.crops.length then s.up F.couchStat_cropHwm else s

/-! ### The forest (R304, R305) -/

/-- A word of the active bank. -/
def State.forestWord (s : State) (tree node w : Nat) : Nat :=
  (Sparse.get (fun _ => 0) s.forestActive (0x02600000 + tree * 0x2000 + 8 * node + 4 * w)).toNat

/-- One tree's vote: class and weight, or `none` for a tree that gives none; a child index not above its parent is an
error. -/
def State.treeVote (s : State) (f : List Int) (tree : Nat) : Nat → Nat → Option (Nat × Nat)
  | 0, _ => none
  | fuel + 1, i =>
    let w := s.forestWord tree i 0
    if bit w 0 then some (bits w 1 6, bits w 7 8) else
    let nxt := if f.getD (bits w 1 4) 0 ≤ signed 32 (s.forestWord tree i 1) then bits w 5 10 else bits w 15 10
    if nxt ≤ i then none else State.treeVote s f tree fuel nxt

/-- The forest's answer (R305): the verdict, and how many trees ended in an error. -/
def State.forest (s : State) (f : List Int) : Verdict × Nat :=
  let trees := (List.range 16).filter (bit (s.rd F.couchForestCtl_trees))
  let votes := trees.map (fun t => s.treeVote f t 1025 0)
  let errs := (votes.filter (·.isNone)).length
  let good := votes.filterMap id
  let sum (c : Nat) : Nat := good.foldl (fun a v => if v.1 == c then a + v.2 else a) 0
  let tot := good.foldl (fun a v => a + v.2) 0
  let gen := s.rd F.couchForestCtl_gen
  if tot == 0 then ({ cls := 0, conf := 0, gen := gen }, errs) else
  let best := (List.range 64).foldl (fun b c => if sum b < sum c then c else b) 0
  ({ cls := best, conf := (255 * sum best + tot / 2) / tot, gen := gen }, errs)

/-! ### The record of a unit (R301, R304, R308) -/

/-- The primary member: greatest AREA, then the lower port, then the lower BLOB_SEQ. -/
def primaryOf (a b : Member) : Member :=
  if a.item.area < b.item.area ||
     (a.item.area == b.item.area && (b.port < a.port || (b.port == a.port && b.item.seq < a.item.seq))) then b else a

/-- The combined fields of a unit. -/
structure UnitRec where
  prim : Member
  first : Int
  last : Int
  xMin : Int
  xMax : Int
  vMin : Int
  vMax : Int
  clsMax : Nat
  views : Nat
  flags : Nat
  members : Nat
  xc16 : Int
  yc16 : Nat
  mean : Int

/-- The i32 range. -/
def sat32 (i : Int) : Int := clampInt (-2147483648) 2147483647 i

/-- A unit's fields (R301, R304, R308); `seam` the seam flags given at its release. -/
def State.unitRec (s : State) (ms : List Member) (m : Member) (seam : Nat) : UnitRec :=
  let all := m :: ms
  let prim := ms.foldl primaryOf m
  let first := ms.foldl (fun a x => min a x.item.first) m.item.first
  let last := ms.foldl (fun a x => max a x.item.last) m.item.last
  let valid := all.filter (fun x => x.item.vMin != missGrey)
  let vMin := valid.foldl (fun a x => minOpt a (some x.item.vMin)) none
  let vMax := valid.foldl (fun a x => maxOpt a (some x.item.vMax)) none
  let ored := all.foldl (fun a x => a ||| x.item.flags) 0
  let edges := prim.item.flags % 4
  let flags := recordFlags (ored - ored % 4 + edges) + seam + (if ms.isEmpty then 0 else Rf.seamMerged)
  let i := prim.item
  let xc := rdiv (16 * i.sx) i.area
  let sign : Int := if s.mirrored prim.port then -1 else 1
  let yc := rdiv (16 * i.sy) i.area + 16 * (i.first - first)
  let dim := bit i.flags 7 || bit i.flags 8
  { prim := prim, first := first, last := last
    xMin := ms.foldl (fun a x => min a x.xMin) m.xMin
    xMax := ms.foldl (fun a x => max a x.xMax) m.xMax
    vMin := vMin.getD missGrey, vMax := vMax.getD missGrey
    clsMax := all.foldl (fun a x => max a x.item.clsMax) 0
    views := all.foldl (fun a x => a ||| x.item.views) 0
    flags := flags, members := min 255 all.length
    xc16 := 16 * s.xbase prim.port + sign * xc
    yc16 := min 65535 yc.toNat
    mean := if dim then missGrey else rdiv i.sv i.area }

/-- The sixteen features (R304). -/
def UnitRec.features (u : UnitRec) (timeFlags : Nat) : List Int :=
  let i := u.prim.item
  let a : Int := i.area
  let w := u.xMax - u.xMin + 1
  let h := min 65535 (u.last - u.first + 1)
  let m (xx x y : Nat) : Int := rdiv (16 * (a * xx - (x : Int) * y)) (a * a)
  [a, w, h, u.mean, u.vMin, u.vMax, u.clsMax, u.views, min 65535 (Int.fdiv (256 * a) (w * h)),
   m i.sxx i.sx i.sx, m i.syy i.sy i.sy, m i.sxy i.sx i.sy, ((u.flags ||| timeFlags : Nat) : Int), u.members, u.xc16, u.yc16].map
    sat32

/-! ### The record FIFO (R308, R292) -/

/-- A record takes the next SEQ; bytes 4 to 59 are `body` (R308). A full FIFO drops it. -/
def State.issueRecord (s : State) (body : Bytes) : State :=
  let seq := s.rd F.couchNextSeq_seq
  let s := s.wr F.couchNextSeq_seq 0 (seq + 1)
  let b := leBytes 4 seq ++ body
  let b := b ++ leBytes 4 (crc32c b)
  if 65536 ≤ s.couch.records.length then s.couchCount Cc.recDrop 1 else
  let d := s.rd F.couchCtl_dest
  let s := { s with couch.records := s.couch.records ++ [OutItem.mk b (destRing d) (destNet d)] }
  s.showCouch

/-- A TYPE 1 or TYPE 3 record of a port is counted (R310). -/
def State.countIssued (s : State) (p : Nat) : State :=
  let n := Sparse.get (fun _ => 0) s.couch.issued p
  { s with couch.issued := Sparse.set (fun _ => 0) s.couch.issued p (n + 1) }.couchCount Cc.records 1

/-- POS of a line in u (R303). -/
def State.posBytes (s : State) (h : Int) : Bytes := leBytes 8 (unsigned 64 (s.lineStamp h))

/-! ### Crops (R312, R313) -/

/-- MAX_W and MAX_H as taken. -/
def State.cropMax (s : State) : Nat × Nat :=
  (clampNat 16 1024 (s.rd F.couchCropCtl_maxW), clampNat 16 1024 (s.rd F.couchCropCtl_maxH))

/-- The resource is held by the Couch's owner: the image, or the Path Steward. -/
def State.couchHolds (s : State) (r : Nat) : Bool := s.ownerDomain r == Dom.image || s.ownerDomain r == Dom.path

/-- A span cut to `n`, centred on `c`; answers whether it was cut. -/
def cutSpan (lo hi c : Int) (n : Nat) : Int × Int × Bool :=
  if hi - lo + 1 ≤ n then (lo, hi, false) else (c - (n / 2 : Nat), c - (n / 2 : Nat) + n - 1, true)

/-- The crop a record asks for (R312): CROP_STATE, whether it is clipped, the state. `seq` is the record's. -/
def State.requestCrop (s : State) (u : UnitRec) (cls seq : Nat) : State × Nat × Bool :=
  if !s.flag F.couchClassAct_crop cls || !s.flag F.couchCtl_cropEn then (s, 0, false) else
  let p := u.prim.port
  let margin : Int := s.rd F.couchClassAct_margin cls
  let (maxW, maxH) := s.cropMax
  let cx := Int.fdiv u.xc16 16
  let cy := u.first + (u.yc16 / 16 : Nat)
  let (xa, xb, cutX) := cutSpan (u.xMin - margin) (u.xMax + margin) cx maxW
  let (ya, yb, cutY) := cutSpan (u.first - margin) (u.last + margin) cy maxH
  let width : Int := s.planeWidth p u.prim.item.plane
  -- columns of the port's plane
  let c0 := if s.mirrored p then s.xbase p - xb else xa - s.xbase p
  let c1 := if s.mirrored p then s.xbase p - xa else xb - s.xbase p
  let k0 := max 0 c0
  let k1 := min (width - 1) c1
  let cutE := k0 != c0 || k1 != c1
  let clipped := cutX || cutY || cutE
  let views := ((s.planeChannels p).map (·.1)).filter (bit (s.rd F.couchClassAct_cropViews cls))
  let chans := (s.planeChannels p).filter (fun e => views.contains e.1)
  let w := (k1 - k0 + 1).toNat
  let h := (yb - ya + 1).toNat
  let raw := chans.foldl (fun a e => a + w * h * s.pixelBytes e.2) 0
  let reserved := 64 + (raw + 63) / 64 * 64
  let n : Int := s.rd F.couchLookback_lines
  let lost := chans.any (fun e => match Sparse.get (fun _ => none) s.couch.look e.2 with
    | some (first, newest) => decide (ya < max first (newest - n + 1))
    | none => true)
  if lost then (s.couchCount Cc.cropLost 1, 2, clipped) else
  let used := s.couch.crops.foldl (fun a c => a + c.reserved) 0
  let size := match s.region 3 with
    | some r => r.size
    | none => 0
  if 256 ≤ s.couch.crops.length || size < used + reserved ||
     !s.couchHolds (Res.dma + s.rd F.couchCropCh_cropCh) then (s.couchCount Cc.cropDrop 1, 3, clipped) else
  let codec := s.rd F.couchCropCtl_codec
  let c : Crop := {
    seq := seq, port := p, views := views, x0 := k0.toNat, w := w, y0 := ya, h := h
    xpos := s.xpos p k0, codec := if codec == 3 then 0 else codec, raw := raw, reserved := reserved
    engine := none, data := none, sent := 0 }
  let s := { s with couch.crops := s.couch.crops ++ [c] }
  ((s.couchCount Cc.crops 1).showCouch, 1, clipped)

/-! ### Marker units (R315, R316) -/

def State.marks (s : State) (u : Nat) : List MarkTarget := Sparse.get (fun _ => []) s.couch.marks u
def State.setMarks (s : State) (u : Nat) (l : List MarkTarget) : State :=
  let s := { s with couch.marks := Sparse.set (fun _ => []) s.couch.marks u l }
  let s := s.wr F.markCtl_level u l.length
  if 48 ≤ l.length then s.up F.couchStat_markHwm else s

/-- The unit keeps its scheduler armed at the earliest queued target (R315, R316). -/
def State.loadMark (s : State) (u : Nat) : State :=
  let i := s.rd F.markCtl_sched u
  match s.marks u with
  | [] => s
  | t :: rest =>
    let s := s.wr F.schedCtl_rel i 0
    let s := s.wr F.schedCtl_periodic i 0
    let s := s.wr F.schedCtl_count i 1
    let s := s.setSchedTarget i t.u
    let s := s.armSched i false
    let behind := decide (t.u ≤ s.wStamp)
    let s := if !t.armed then s.count F.markCnt_marks u 1 else s
    let s := if behind && !t.armed then s.count F.markCnt_markLate u 1 else s
    s.setMarks u ({ t with armed := true } :: rest)

/-- A record's target at marker unit `u` (R315, R316): the state, and whether the target was already behind. -/
def State.markTarget (s : State) (u : Nat) (pos : Int) : State × Bool :=
  if !s.flag F.markCtl_enable u then (s, false) else
  let i := s.rd F.markCtl_sched u
  if !s.couchHolds (Res.reelsched + i) then
    ((s.up F.markCtl_markDenied u).count F.markCnt2_markDrop u 1, false)
  else
    let t := s.toU (pos + s.rdI64 F.markDelayLo_delay F.markDelayHi_delay u)
    let gap : Int := s.rd F.markGap_minGap u
    let l := s.marks u
    if l.any (fun x => decide (((x.u - t).natAbs : Int) ≤ gap)) then (s.count F.markCnt2_markMerged u 1, false)
    else if 64 ≤ l.length then (s.count F.markCnt2_markDrop u 1, false)
    else
      let late := decide (t ≤ s.wStamp)
      let before := l.filter (fun x => decide (x.u ≤ t))
      let after := l.filter (fun x => decide (t < x.u))
      let s := s.setMarks u (before ++ [MarkTarget.mk t false] ++ after)
      (if before.isEmpty then s.loadMark u else s, late)

/-- MARKER_FIRE_SEEN (R315): the firing of the unit's scheduler; the next target is loaded. -/
def execMarkerFireSeen (unit : Fin 4) (s : State) : Out :=
  let u := unit.val
  match s.marks u with
  | [] => .next s
  | t :: rest => .next (if t.armed then (s.setMarks u rest).loadMark u else s.loadMark u)

/-- The exit from INSPECT: targets still queued are discarded (R316). -/
def State.dropMarks (s : State) (u : Nat) : State :=
  let n := (s.marks u).length
  if n == 0 then s else
  ((s.count F.markCnt2_markDrop u n).disarmSched (s.rd F.markCtl_sched u)).setMarks u []

/-! ### Classification and issue (R305 to R311) -/

/-- The record of a classified unit (R307, R308, R312, R315). -/
def State.issueUnit (s : State) (ms : List Member) (m : Member) (seam : Nat) (v : Verdict) : State :=
  if !s.flag F.couchClassAct_send v.cls then s.couchCount Cc.suppressed (1) else
  let u := s.unitRec ms m seam
  let i := u.prim.item
  let (ns, tf) := s.timeOf u.first u.last
  let s := if tf == Rf.timeNone then s.couchCount Cc.timeNone 1 else s
  let seq := s.rd F.couchNextSeq_seq
  let (s, crop, clipped) := s.requestCrop u v.cls seq
  let sel := s.rd F.couchClassAct_mark v.cls
  let (s, late) := [0, 1, 2, 3].foldl (fun (st : State × Bool) k =>
    if bit sel k then
      let (s, l) := st.1.markTarget k (s.lineStamp u.first)
      (s, st.2 || l)
    else st) (s, false)
  let flags := u.flags ||| tf ||| (if clipped then Rf.cropClipped else 0) ||| (if late then Rf.markLate else 0)
  let body := leBytes 4 ns ++ s.posBytes u.first ++ leBytes 2 (min 65535 (u.last - u.first + 1).toNat) ++
    leBytes 1 v.cls ++ leBytes 1 v.conf ++ leBytes 4 (unsigned 32 u.xMin) ++ leBytes 4 (unsigned 32 u.xMax) ++
    leBytes 4 i.area ++ leBytes 4 (unsigned 32 u.xc16) ++ leBytes 2 u.yc16 ++ leBytes 2 (unsigned 16 u.mean) ++
    leBytes 2 (unsigned 16 u.vMin) ++ leBytes 2 (unsigned 16 u.vMax) ++ leBytes 1 (u.clsMax + u.views * 8) ++
    leBytes 1 (u.prim.port + i.plane * 16) ++ leBytes 2 flags ++ leBytes 4 i.seq ++ leBytes 4 i.prev ++
    leBytes 1 crop ++ leBytes 1 u.members ++ leBytes 1 v.gen ++ leBytes 1 1
  (s.countIssued u.prim.port).issueRecord body

/-- A TYPE 3 record of an OVERFLOW item (R309). -/
def State.issueOverflow (s : State) (p : Nat) (i : Item) : State :=
  let m := s.mapped p i
  let (ns, tf) := s.timeOf i.first i.last
  let s := if tf == Rf.timeNone then s.couchCount Cc.timeNone 1 else s
  let body := leBytes 4 ns ++ s.posBytes i.first ++ leBytes 2 i.height ++ zeros 2 ++
    leBytes 4 (unsigned 32 m.xMin) ++ leBytes 4 (unsigned 32 m.xMax) ++ leBytes 4 i.area ++ zeros 12 ++
    leBytes 1 (i.clsMax + i.views * 8) ++ leBytes 1 (p + i.plane * 16) ++
    leBytes 2 (recordFlags i.flags ||| tf) ++ leBytes 4 i.dropped ++ zeros 7 ++ leBytes 1 3
  (s.countIssued p).issueRecord body

/-- A TYPE 2 record closes a frame of a port (R310). -/
def State.issueClose (s : State) (m : Marker) : State :=
  let p := m.port
  let (ns, tf) := s.timeOf m.last m.last
  let ns := if tf == Rf.timeNone then 0 else ns
  let n := Sparse.get (fun _ => 0) s.couch.issued p
  let s := { s with couch.issued := Sparse.set (fun _ => 0) s.couch.issued p 0 }
  let held := (s.couch.held.filter (fun x => x.port == p)).length
  s.issueRecord (leBytes 4 ns ++ s.posBytes (m.last - (s.frameLen - 1 : Nat)) ++ leBytes 4 m.frame ++
    leBytes 4 m.missing ++ leBytes 4 n ++ leBytes 1 p ++ leBytes 1 (b2n m.dropped + b2n m.memory * 2) ++
    leBytes 2 held ++ zeros 27 ++ leBytes 1 2)

/-- The head of the classify queue: a unit begins its evaluation on the active bank; markers with no unit before them
close their frames (R305, R306, R310). -/
def State.classifyNext (s : State) : Nat → State
  | 0 => s
  | fuel + 1 =>
    match s.couch.queue with
    | .close m :: rest => State.classifyNext ({ s with couch.queue := rest }.issueClose m) fuel
    | .unit (m :: ms) fl none :: rest =>
      let u := s.unitRec ms m fl
      let (v, errs) := s.forest (u.features (s.timeOf u.first u.last).2)
      let s := { s with couch.queue := ClassEntry.unit (m :: ms) fl (some v) :: rest }
      if errs == 0 then s else (s.couchCount Cc.forestErr errs).up F.couchStat_forestErr
    | _ => s

/-- Entries behind the classify queue. -/
def State.enqueueClass (s : State) (e : ClassEntry) : State :=
  let s := { s with couch.queue := s.couch.queue ++ [e] }
  (s.classifyNext (s.couch.queue.length + 1)).showCouch

/-- CLASSIFY_DONE (R305, R308): the forest finishes the unit at the head. -/
def execClassifyDone (s : State) : Out :=
  match s.couch.queue with
  | .unit (m :: ms) fl (some v) :: rest =>
    let s := { s with couch.queue := rest }
    let s := s.issueUnit ms m fl v
    .next (s.classifyNext (s.couch.queue.length + 1)).showCouch
  | _ => .next s

/-! ### Seams (R295 to R300) -/

/-- A port is active (R295). -/
def State.portActive (s : State) (p : Nat) : Bool := s.rd F.ridgeStat_state (p / 2) == 3 && !(s.portChannels p).isEmpty

/-- A seam is active (R295). -/
def State.seamActive (s : State) (q : Nat) : Bool :=
  let l := s.rd F.seamCfg_left q
  let r := s.rd F.seamCfg_right q
  s.flag F.seamCfg_enable q && l != r && l ≤ 11 && r ≤ 11 &&
    decide (signed 32 (s.rd F.seamZ0_z0 q) ≤ signed 32 (s.rd F.seamZ1_z1 q)) && s.portActive l && s.portActive r

/-- The seams a mapped item touches (R295). -/
def State.touchedSeams (s : State) (m : Member) : List Nat :=
  (List.range 11).filter (fun q =>
    s.seamActive q && (s.rd F.seamCfg_left q == m.port || s.rd F.seamCfg_right q == m.port) &&
    decide (m.xMin ≤ signed 32 (s.rd F.seamZ1_z1 q)) && decide (signed 32 (s.rd F.seamZ0_z0 q) ≤ m.xMax))

/-- The port on the other side of a seam. -/
def State.otherSide (s : State) (q p : Nat) : Nat :=
  if s.rd F.seamCfg_left q == p then s.rd F.seamCfg_right q else s.rd F.seamCfg_left q

def State.progress (s : State) (p : Nat) : Option Int := Sparse.get (fun _ => none) s.couch.progress p

/-- A held blob is ready (R296). -/
def State.ready (s : State) (m : Member) : Bool :=
  m.seams.all (fun q => match s.progress (s.otherSide q m.port) with
    | some y => decide (m.item.last + s.rd F.seamCfg_tolLines q + 4097 ≤ y)
    | none => false)

/-- Two held blobs match at a seam (R297). -/
def State.seamMatch (s : State) (b c : Member) : Bool :=
  b.seams.any (fun q =>
    c.seams.contains q && b.port != c.port && b.item.plane == c.item.plane &&
    decide (b.xMin ≤ c.xMax + s.rd F.seamCfg_tolX q) && decide (c.xMin ≤ b.xMax + s.rd F.seamCfg_tolX q) &&
    decide (b.item.first ≤ c.item.last + s.rd F.seamCfg_tolLines q) &&
    decide (c.item.first ≤ b.item.last + s.rd F.seamCfg_tolLines q))

/-- A group leaves the seam table for the classify queue with these seam flags (R297, R299, R300). -/
def State.releaseGroup (s : State) (g flags : Nat) : State :=
  let ms := s.couch.held.filter (fun m => m.group == g)
  if ms.isEmpty then s else
  let s := { s with couch.held := s.couch.held.filter (fun m => m.group != g) }
  let s := if 2 ≤ ms.length then s.couchCount Cc.seamMerges 1 else s
  let s := if flags == Rf.seamTimeout then s.couchCount Cc.seamTimeout 1 else s
  s.enqueueClass (.unit ms flags none)

/-- The groups of the table, in the order of their first members. -/
def Couch.groups (c : Couch) : List Nat := (c.held.map (·.group)).eraseDups

/-- Groups whose members are all ready leave (R297). -/
def State.releaseReady (s : State) : State :=
  forAll s.couch.groups (fun g s =>
    if (s.couch.held.filter (fun m => m.group == g)).all s.ready then s.releaseGroup g 0 else s) s

/-- Groups of seams that are no longer active leave with SEAM_TIMEOUT (R299). -/
def State.releaseInactive (s : State) : State :=
  forAll s.couch.groups (fun g s =>
    if (s.couch.held.filter (fun m => m.group == g)).any (fun m => m.seams.any (fun q => !s.seamActive q)) then
      s.releaseGroup g Rf.seamTimeout
    else s) s

/-- ACTIVE of each port and SEAM_ACTIVE of each seam; groups of seams no longer active leave. -/
def State.couchRefresh (s : State) : State :=
  let s := forN 12 (fun p s => s.wr F.couchPortMap_active p (b2n (s.portActive p))) s
  let s := forN 11 (fun q s => s.wr F.seamStat_seamActive q (b2n (s.seamActive q))) s
  s.releaseInactive

/-- At the exit from INSPECT, groups whose seams' ports have sent their last markers leave with DRAIN (R300). -/
def State.releaseDrained (s : State) : State :=
  forAll s.couch.groups (fun g s =>
    let ms := s.couch.held.filter (fun m => m.group == g)
    let done (p : Nat) : Bool := s.couch.finished.contains p
    if ms.all (fun m => done m.port && m.seams.all (fun q => done (s.otherSide q m.port))) then s.releaseGroup g Rf.drain
    else s) s

/-- A seam-touching blob enters the table, where there is room (R295, R297, R299). -/
def State.holdBlob (s : State) (m : Member) : State :=
  if 8192 ≤ s.couch.held.length then
    (s.couchCount Cc.seamFull 1).enqueueClass (.unit [m] Rf.seamFull none)
  else
    let g := s.couch.nextGroup
    let joined := ((s.couch.held.filter (s.seamMatch m)).map (·.group)).eraseDups
    let held := s.couch.held.map (fun x => if joined.contains x.group then { x with group := g } else x)
    let s := { s with couch.held := held ++ [{ m with group := g }], couch.nextGroup := g + 1 }
    (s.showCouch).releaseReady

/-- SEAM_WAIT_TIMEOUT (R299): the group of this blob has waited WAIT_MS. -/
def execSeamWaitTimeout (port : Fin 12) (seq : Word) (s : State) : Out :=
  match s.couch.held.find? (fun m => m.port == port.val && m.item.seq == seq.toNat) with
  | none => .next s
  | some m =>
    let ms := s.couch.held.filter (fun x => x.group == m.group)
    let start := ms.foldl (fun a x => min a x.entered) m.entered
    let wait := max 1 (s.rd F.couchSeamCtl_waitMs) * 250000
    if s.clock < start + wait then .next s else .next ((s.releaseGroup m.group Rf.seamTimeout).showCouch)

/-- A frame-end marker at the Couch (R296, R300, R310). -/
def State.takeMarker (s : State) (k : Nat) (m : Marker) : State :=
  let s := { s with couch.progress := Sparse.set (fun _ => none) s.couch.progress m.port (some m.last) }
  let s := s.wr F.couchPortMap_progress m.port (unsigned 16 (s.inSense m.last))
  let lastFrame := (s.ridge k).stop == some m.last
  let s := if lastFrame && !s.couch.finished.contains m.port then
      { s with couch.finished := s.couch.finished ++ [m.port] }
    else s
  let s := s.enqueueClass (.close m)
  (s.releaseReady).releaseDrained.showCouch

/-- COUCH_INTAKE (R292, R293, R295): the next item or marker of a Ridge; with the classify queue full, no item. -/
def execCouchIntake (ridge : Fin 6) (s : State) : Out :=
  let k := ridge.val
  let r := s.ridge k
  match r.intake with
  | [] => .next s
  | .marker m :: rest =>
    let s := s.setRidge k { r with intake := rest }
    .next ((s.takeMarker k m).drainFifo k (featureNode (s.graph k)))
  | .item i :: rest =>
    if 1024 ≤ s.couch.units then .next s else
    let s := s.setRidge k { r with intake := rest }
    let s := s.drainFifo k (featureNode (s.graph k))
    let s := s.couchCount Cc.itemsIn 1
    let p := ridgePort k i.portSel
    if bit i.flags 5 then .next (s.issueOverflow p i) else
    let m := s.mapped p i
    let seams := s.touchedSeams m
    if seams.isEmpty then .next (s.enqueueClass (.unit [m] 0 none))
    else .next (s.holdBlob { m with seams := seams })

/-- A SWAP of the forest banks (R306). -/
def State.forestSwap (s : State) : State :=
  let lo := 0x02600000
  let hi := 0x02620000
  let window := s.regs.filter (fun e => lo ≤ e.1 && e.1 < hi)
  let s1 := s.resetSpan lo hi
  let s1 := s.forestActive.foldl (fun t e => t.setReg e.1 e.2) s1
  let s1 := { s1 with forestActive := window }
  s1.wr F.couchForestCtl_gen 0 (s.rd F.couchForestCtl_gen + 1)

/-- Entry into INSPECT at the Couch: LOOKBACK_LINES (R313), progress and line times of the new run. -/
def State.couchEnter (s : State) : State :=
  let per := s.allChannels.foldl (fun a n => a + s.lookBytes n) 0
  let size := match s.region 2 with
    | some r => r.size
    | none => 0
  let s := s.wr F.couchLookback_lines 0 (if per == 0 then 0 else min 16777215 (size / per))
  let s := { s with couch.progress := [], couch.finished := [], couch.look := [], couch.uncCnt := 0, couch.issued := [] }
  s.couchRefresh

/-- The cut of R49 at the Couch: held groups and what waits is discarded. -/
def State.couchCut (s : State) : State :=
  let n := s.couch.groups.length
  let s := if n == 0 then s else s.couchCount Cc.seamCut n
  { s with couch.held := [], couch.queue := [] }.showCouch

end Sys2Proof.Machine
end

