-- ==== Sys2Proof/Machine/Ream.lean ====
section
/-! DEFINITION. The Ream engines (R406 to R428): clients and arbitration, descriptors, output buffers and chains, the
CRC of the original, NO_SHRINK and the echo, the host ring, and the crop blocks they make for the Couch (R313, R314). -/

namespace Sys2Proof.Machine

/-! Counters of an engine, by place. -/
namespace Ec
def jobs : Nat := 0
def doneJobs : Nat := 1
def noShrink : Nat := 2
def errors : Nat := 3
def echoJobs : Nat := 4
def echoFail : Nat := 5
def hostDeferred : Nat := 6
def in64k : Nat := 7
def out64k : Nat := 8
end Ec

def State.engine (s : State) (e : Nat) : Engine := Sparse.get (fun _ => {}) s.engines e
def State.setEngine (s : State) (e : Nat) (v : Engine) : State :=
  { s with engines := Sparse.set (fun _ => {}) s.engines e v }

def islReam (e : Nat) : Nat := 0xA0 + e

/-- Fields of CTL (R408). -/
def ReamDesc.op (d : ReamDesc) : Nat := bits d.ctl 0 2
def ReamDesc.codec (d : ReamDesc) : Nat := bits d.ctl 2 2
def ReamDesc.checkCrc (d : ReamDesc) : Bool := bit d.ctl 4
def ReamDesc.intr (d : ReamDesc) : Bool := bit d.ctl 5
def ReamDesc.hold (d : ReamDesc) : Bool := bit d.ctl 6
def ReamDesc.tag (d : ReamDesc) : Nat := bits d.ctl 16 16
def ReamDesc.width (d : ReamDesc) : Nat := bits d.raster 0 16
def ReamDesc.two (d : ReamDesc) : Bool := bit d.raster 16
def ReamDesc.depth (d : ReamDesc) : Nat := bits d.raster 20 4 + 1

/-- A compression that is echoed (R414). -/
def ReamDesc.echoed (d : ReamDesc) : Bool := d.op == 0 && 4096 < d.inLen

/-! ### The host ring (R426) -/

def State.ringBase (s : State) (e : Nat) : Nat := s.rd64 F.reamRingBaseLo_base F.reamRingBaseHi_base e / 64 * 64
def State.ringSize (s : State) (e : Nat) : Nat := s.rd F.reamRingSize_size e

/-- Where the descriptor of count `k` lies. -/
def State.ringAddr (s : State) (e k : Nat) : Nat := s.ringBase e + 64 * (k % s.ringSize e)

/-- A descriptor from its 64 bytes. -/
def reamDesc (b : Bytes) : ReamDesc where
  ctl := leAt b 0 4
  inLen := leAt b 4 4
  inAddr := leAt b 8 8
  outAddr := leAt b 16 8
  outLen := leAt b 24 4
  chainCount := leAt b 28 4
  chainAddr := leAt b 32 8
  raster := leAt b 40 4
  expect := leAt b 44 4

/-- The chain table's entries: address, length, the bytes that are 0 (R410); `none` where it cannot be read. -/
def State.chainSegs (s : State) (d : ReamDesc) : Option (List (Nat × Nat × Nat)) :=
  (s.readMem d.chainAddr (16 * d.chainCount)).map (fun b =>
    (List.range d.chainCount).map (fun i => (leAt b (16 * i) 8, leAt b (16 * i + 8) 4, leAt b (16 * i + 12) 4)))

/-- The segments of a job whose descriptor passed its checks. -/
def State.segments (s : State) (d : ReamDesc) : List (Nat × Nat) :=
  match s.chainSegs d with
  | some l => l.map (fun g => (g.1, g.2.1))
  | none => []

/-- The fields of a descriptor keep to R408 and R409, its ranges to the populated HBM. -/
def reamFieldsOk (d : ReamDesc) : Bool :=
  let inHbm (a n : Nat) : Bool := a + n ≤ Config.hbmBytes
  let rasterComp := d.op == 0 && d.codec == 1
  d.op ≤ 1 && d.codec != 0 && bits d.ctl 7 9 == 0 && d.inLen != 0 && 64 ≤ d.outLen && d.chainCount ≤ 255 &&
    (d.chainCount != 0 || d.chainAddr == 0) &&
    (if rasterComp then d.width != 0 && bits d.raster 17 3 == 0 && d.raster / 2 ^ 24 == 0 && (d.two || d.depth ≤ 8)
      else d.raster == 0) &&
    ((d.op == 1 && d.checkCrc) || d.expect == 0) &&
    inHbm d.inAddr d.inLen && inHbm d.outAddr d.outLen && inHbm d.chainAddr (16 * d.chainCount)

/-- Two of the ranges share a byte. -/
def overlaps : List (Nat × Nat) → Bool
  | [] => false
  | r :: rest => rest.any (fun q => decide (0 < r.2 && 0 < q.2 && r.1 < q.1 + q.2 && q.1 < r.1 + r.2)) || overlaps rest

/-- Checks 1 to 3 of a host descriptor (R409, R410, R416). -/
def State.descCause (s : State) (e : Nat) (d : ReamDesc) : Option Nat :=
  if !reamFieldsOk d then some Rc.desc else
  let tableAligned := d.chainAddr % 64 == 0
  let segs := if tableAligned then s.chainSegs d else some []
  match segs with
  | none => some Rc.mem
  | some l =>
    if l.any (fun g => g.2.1 < 64 || g.2.2 != 0 || Config.hbmBytes < g.1 + g.2.1) then some Rc.desc
    else if d.outAddr % 64 != 0 || d.outLen % 64 != 0 || !tableAligned || l.any (fun g => g.1 % 64 != 0 || g.2.1 % 64 != 0) then
      some Rc.align
    else if overlaps ([(d.inAddr, d.inLen), (d.outAddr, d.outLen), (d.chainAddr, 16 * d.chainCount),
        (s.ringBase e, 64 * s.ringSize e)] ++ l.map (fun g => (g.1, g.2.1))) then some Rc.overlap
    else none

/-- The host client is served in this mode (R406). -/
def State.reamHostMode (s : State) : Bool :=
  s.mode == Md.configure || s.mode == Md.inspect || s.mode == Md.expose || s.mode == Md.maintain

/-- A descriptor is posted and not taken. -/
def State.reamPosted (s : State) (e : Nat) : Bool :=
  s.flag F.reamCtl_hostEn e && s.rd F.reamRingTail_count e != s.rd F.reamRingHead_count e

/-! ### The Couch's crops (R313, R314) -/

/-- The last line of a crop has left the Calender of each of its views, or no further line comes. -/
def State.cropReady (s : State) (c : Crop) : Bool :=
  (s.planeChannels c.port).all (fun e => !c.views.contains e.1 ||
    match Sparse.get (fun _ => none) s.couch.look e.2 with
    | some (_, newest) => decide (c.y0 + c.h ≤ newest + 1)
    | none => false) || s.reel.stop.isSome || s.mode != Md.inspect

/-- One row of a view: `none` where the ring no longer holds the line, or cannot be read (R313). -/
def State.cropRow (s : State) (ch : Nat) (y : Int) (x0 w : Nat) : Option Bytes :=
  match Sparse.get (fun _ => none) s.couch.look ch, s.lookAddr ch y with
  | some (first, newest), some a =>
    if decide (y < first) || decide (newest < y) || decide (y + (s.rd F.couchLookback_lines : Nat) ≤ newest) then none
    else s.readMem (a + x0 * s.pixelBytes ch) (w * s.pixelBytes ch)
  | _, _ => none

/-- The raw payload of a crop, and whether a line was supplied as the missing-pixel code (R313, R314). -/
def State.cropRaw (s : State) (c : Crop) : Bytes × Bool :=
  (s.planeChannels c.port).foldl (fun r e =>
    if !c.views.contains e.1 then r else
    (List.range c.h).foldl (fun (r : Bytes × Bool) (i : Nat) =>
      match s.cropRow e.2 (c.y0 + (i : Int)) c.x0 c.w with
      | some b => (r.1 ++ b, r.2)
      | none => (r.1 ++ (List.replicate c.w (2 ^ s.depth e.2 - 1)).flatMap (leBytes (s.pixelBytes e.2)), true)) r) ([], false)

/-- The first view's channel of a crop. -/
def State.cropChannel (s : State) (c : Crop) : Nat :=
  match (s.planeChannels c.port).find? (fun e => c.views.contains e.1) with
  | some e => e.2
  | none => 0

/-- The block of a crop: header and payload (R314). -/
def State.cropBlock (s : State) (c : Crop) (codec : Nat) (payload raw : Bytes) (partialLine : Bool) : Bytes :=
  let views := (c.views.map (2 ^ ·)).sum
  let h := leBytes 4 c.seq ++ leBytes 2 c.w ++ leBytes 2 c.h ++ s.posBytes c.y0 ++ leBytes 4 (unsigned 32 c.xpos) ++
    leBytes 1 (views + 16 * b2n (s.mirrored c.port) + 32 * b2n partialLine) ++
    leBytes 1 (s.rd F.headboxChCfg_depth (s.cropChannel c)) ++ leBytes 1 c.port ++ leBytes 1 codec ++
    leBytes 4 payload.length ++ leBytes 4 raw.length ++ leBytes 4 (crc32c raw) ++ zeros 24
  h ++ leBytes 4 (crc32c h) ++ payload ++ zeros ((64 - payload.length % 64) % 64)

/-- A crop complete (R314): its block waits for its DMA. -/
def State.cropDone (s : State) (seq codec : Nat) (payload raw : Bytes) (partialLine : Bool) : State :=
  let s := if partialLine then s.couchCount Cc.cropPartial 1 else s
  { s with
    couch.cropsDone := s.couch.cropsDone ++ [seq]
    couch.crops := s.couch.crops.map (fun c =>
      if c.seq == seq then { c with codec := codec, engine := none, data := some (s.cropBlock c codec payload raw partialLine) } else c) }

/-- Crops that need no engine are complete once their last line is held (R314). -/
def State.rawCrops (s : State) : State :=
  forAll s.couch.crops (fun c s =>
    if c.codec != 0 || c.data.isSome || c.engine.isSome || !s.cropReady c then s else
    let (raw, part) := s.cropRaw c
    s.cropDone c.seq 0 raw raw part) s

/-- The descriptor of a crop (R421). -/
def State.cropDesc (s : State) (c : Crop) : ReamDesc :=
  let b := s.depth (s.cropChannel c)
  { ctl := c.codec * 4 + c.seq % 65536 * 65536, inLen := c.raw, outLen := c.raw
    raster := if c.codec == 1 then c.w + (if b == 8 then 0 else 65536) + (b - 1) * 2 ^ 20 else 0 }

/-! ### Arbitration (R406, R407) -/

/-- The Couch gives a crop to the lowest-numbered engine with CROP_EN and no internal job queued (R406). -/
def State.giveCrop (s : State) (c : Crop) : State :=
  if c.engine.isSome || c.data.isSome || c.codec == 0 || !s.cropReady c then s else
  match [0, 1, 2, 3].find? (fun e => s.flag F.reamCtl_cropEn e && (s.engine e).queued.isNone) with
  | none => s
  | some e =>
    let v := s.engine e
    let s := s.setEngine e { v with queued := some { client := 2, key := c.seq, desc := s.cropDesc c } }
    { s with couch.crops := s.couch.crops.map (fun x => if x.seq == c.seq then { x with engine := some e } else x) }

/-- The layout ingress uses the lowest-numbered idle engine of REAM_MASK (R406). -/
def State.giveLayout (s : State) : State :=
  match s.layout.cur.bind s.job with
  | none => s
  | some j =>
    let mine (v : Engine) : Bool := v.queued.any (·.client == 3) || v.run.any (·.client == 3)
    if j.stage != .decrypt || j.codecEnd.isSome || [0, 1, 2, 3].any (fun e => mine (s.engine e)) then s else
    match [0, 1, 2, 3].find? (fun e => bit (s.rd F.layoutCtl_reamMask) e && (s.engine e).run.isNone && (s.engine e).queued.isNone) with
    | none => s
    | some e =>
      let d : ReamDesc := { ctl := 1 + j.codec * 4 + j.tag % 65536 * 65536, inLen := j.cipherLen, outLen := j.plainLen }
      s.setEngine e { s.engine e with queued := some { client := 3, key := j.id, desc := d } }

/-- Internal jobs given to engines. -/
def State.giveJobs (s : State) : State :=
  if s.inspectImage then forAll s.couch.crops (fun c s => s.giveCrop c) s else s.giveLayout

/-- A job begins on an engine. -/
def State.beginRun (s : State) (e : Nat) (r : ReamRun) : State :=
  let s := s.setEngine e { s.engine e with run := some r }
  let s := s.wr F.reamStat_client e r.client
  let s := s.wr F.reamStat_op e r.desc.op
  s.wr F.reamStat_echoActive e (b2n (r.desc.echoed && r.fail.isNone))

/-- The engine takes the host descriptor at the head (R426). -/
def State.takeHost (s : State) (e : Nat) (d : ReamDesc) (fail : Option Nat) : State :=
  let k := s.rd F.reamRingHead_count e
  let s := if s.flag F.reamStat_hostOverdue e then s.count (F.reamCnt_count Ec.hostDeferred) e 1 else s
  let s := (s.down F.reamStat_hostOverdue e).down F.reamStat_holdWait e
  let s := s.wr F.reamRingHead_count e (k + 1)
  let g := (s.engine e).gen
  let s := s.setEngine e { s.engine e with released := false, gen := 0 }
  s.beginRun e { client := 1, key := k, desc := d, fail := fail, gen := g }

/-- REAM_JOB_START (R407). -/
def execReamJobStart (engine : Fin 4) (s : State) : Out :=
  let e := engine.val
  let s := s.giveJobs
  let v := s.engine e
  if v.run.isSome || s.mode == Md.park || s.mode == Md.recovery then .next s else
  let posted := s.reamPosted e && s.reamHostMode
  let a := s.ringAddr e (s.rd F.reamRingHead_count e)
  let raw := s.readMem a 64
  let d := reamDesc (raw.getD [])
  let held := posted && raw.isSome && d.hold && !v.released
  let s := if held then s.up F.reamStat_holdWait e else s
  let host := posted && !held
  let internal (r : ReamRun) : State := (s.setEngine e { v with queued := none }).beginRun e r
  let takeHost (_ : Unit) : State :=
    if raw.isNone then (s.readFailed (9 + e) a 64).takeHost e d (some Rc.mem) else s.takeHost e d (s.descCause e d)
  match v.queued with
  | some r => if host && s.flag F.reamStat_hostOverdue e then .next (takeHost ()) else .next (internal r)
  | none => if host then .next (takeHost ()) else .next s

/-- REAM_HOST_OVERDUE (R407): HOST_DEFER_US has passed with a descriptor at the head. -/
def execReamHostOverdue (engine : Fin 4) (s : State) : Out :=
  if s.reamPosted engine.val then .next (s.up F.reamStat_hostOverdue engine.val) else .next s

/-- REAM_HOLD_RELEASE (R426): consumer 96 + e. -/
def execReamHoldRelease (engine : Fin 4) (gen : Fin 8) (s : State) : Out :=
  let e := engine.val
  let raw := s.readMem (s.ringAddr e (s.rd F.reamRingHead_count e)) 64
  let held := s.reamPosted e && raw.any (fun b => (reamDesc b).hold) && !(s.engine e).released
  if !held then .next (s.overrun (96 + e) (islReam e)) else
  .next ((s.setEngine e { s.engine e with released := true, gen := gen.val + 1 }).down F.reamStat_holdWait e)

/-- REAM_RING_TAIL (R426). -/
def execReamRingTail (engine : Fin 4) (tail : Word) (s : State) : Out :=
  let e := engine.val
  if (tail.toNat + 2 ^ 32 - s.rd F.reamRingDone_count e) % 2 ^ 32 ≤ s.ringSize e then
    .next (s.wr F.reamRingTail_count e tail.toNat)
  else .next (s.up F.reamRingStat_tailErr e)

/-- RING_BASE and RING_SIZE may be written (R426). -/
def State.ringOpen (s : State) (e : Nat) : Bool :=
  !s.flag F.reamCtl_hostEn e && !(s.engine e).run.any (·.client == 1)

/-- The next lower power of two from 16 to 65,536 (REAM_RING_SIZE). -/
def ringPower (n : Nat) : Nat :=
  (((List.range 13).map (fun i => 2 ^ (i + 4))).filter (· ≤ n)).foldl max 16

/-- REAM_RING_SIZE (R426). -/
def execReamRingSize (engine : Fin 4) (size : Word) (s : State) : Out :=
  let e := engine.val
  if !s.ringOpen e then .next (s.accessFault Af.wrongMode (F.reamRingSize_size.addr e) (islReam e) true) else
  let s := s.wr F.reamRingSize_size e (ringPower (bits size.toNat 0 17))
  let s := ((s.wr F.reamRingTail_count e 0).wr F.reamRingHead_count e 0).wr F.reamRingDone_count e 0
  .next (((s.down F.reamStat_holdWait e).down F.reamStat_hostOverdue e).setEngine e { s.engine e with released := false, gen := 0 })

/-! ### The run (R409 to R416) -/

/-- How a job ended: STATUS, CAUSE, the bytes made, bytes consumed, the original's CRC, ECHOED. -/
structure ReamEnd where
  status : Nat
  cause : Nat
  out : Bytes
  used : Nat
  crc : Nat
  echoed : Bool
  deriving DecidableEq, Repr

/-- The status of a cause (R416). -/
def reamStatus (cause : Nat) : Nat :=
  if cause = 0 then St.done
  else if cause = Rc.mem || cause = Rc.echo then St.uncorrectable
  else if cause = Rc.mode then St.notInMode else St.badArg

/-- A compression of an input into `cap` bytes (R412 to R414): `echoDiff` is the offset of the first byte at which the
echo differs. -/
def State.runCompress (s : State) (d : ReamDesc) (cap : Nat) (input : Bytes) (echoDiff : Option Nat) : ReamEnd × State :=
  let r := compress d.codec d.width d.depth d.two input
  let n := r.out.length
  if input.length ≤ n && input.length ≤ cap + 1 then
    (⟨St.noShrink, 0, [], input.length, crc32c input, false⟩, s)
  else if cap < n then
    -- how much of the input an overflow finds consumed is the compressor's own
    let (v, s) := s.free
    let used := v % (input.length + 1)
    (⟨St.badArg, Rc.outFull, r.out.take cap, used, crc32c (input.take used), false⟩, s)
  else match r.cause with
    | some c => (⟨reamStatus c, c, r.out, r.used, crc32c (input.take r.used), false⟩, s)
    | none =>
      if !d.echoed then (⟨St.done, 0, r.out, r.used, crc32c input, false⟩, s)
      else match echoDiff with
        | none => (⟨St.done, 0, r.out, r.used, crc32c input, true⟩, s)
        | some _ => (⟨St.uncorrectable, Rc.echo, r.out, r.used, crc32c input, false⟩, s)

/-- A decompression of the readable part of an input into `cap` bytes (R412, R416); `whole` where all of it is
readable. -/
def runDecompress (d : ReamDesc) (cap : Nat) (input : Bytes) (whole : Bool) : ReamEnd :=
  let r := decompress d.codec cap input
  let cause := match r.cause with
    | some c => if c = Rc.truncated && !whole then Rc.mem else c
    | none => if !whole then Rc.trailing else if d.checkCrc && crc32c r.out != d.expect then Rc.crcMismatch else 0
  ⟨reamStatus cause, cause, r.out, r.used, crc32c r.out, false⟩

/-- The readable bytes at the start of a range. -/
def State.readableLen (s : State) (a len : Nat) : Nat :=
  match (hbmUnits a len).find? s.unitBad with
  | some u => u - a
  | none => len

/-- The output laid into the primary buffer and the segments (R410, R411): whole 64-byte units, the rest of the last
one 0; `false` where a write came back with an error. -/
def State.layOut (s : State) (port : Nat) : List (Nat × Nat) → Bytes → State × Bool
  | [], _ => (s, true)
  | (a, n) :: rest, out =>
    if out.isEmpty then (s, true) else
    let b := out.take n
    let (s, ok) := s.writeMem port a (b ++ zeros ((64 - b.length % 64) % 64))
    if ok then State.layOut s port rest (out.drop n) else (s, false)

/-- The bytes of the output already written are undefined (R413). -/
def State.scrambleOut (s : State) : List (Nat × Nat) → Nat → State
  | [], _ => s
  | (a, n) :: rest, left => State.scrambleOut (s.scramble a (min n left)) rest (left - n)

/-- The end of a job in its engine's counters and registers (R416, R428). -/
def State.endRun (s : State) (e : Nat) (r : ReamRun) (x : ReamEnd) : State :=
  let s := s.count (F.reamCnt_count Ec.jobs) e 1
  let bad := x.status != St.done && x.status != St.noShrink
  let s := s.count (F.reamCnt_count (if x.status == St.done then Ec.doneJobs else if bad then Ec.errors else Ec.noShrink)) e 1
  let s := if x.echoed || x.cause == Rc.echo then s.count (F.reamCnt_count Ec.echoJobs) e 1 else s
  let v := s.engine e
  let i := v.inRest + x.used
  let o := v.outRest + x.out.length
  let s := s.count (F.reamCnt_count Ec.in64k) e (i / 65536)
  let s := s.count (F.reamCnt_count Ec.out64k) e (o / 65536)
  let s := s.setEngine e { v with run := none, inRest := i % 65536, outRest := o % 65536 }
  let s := ((s.wr F.reamStat_client e 0).wr F.reamStat_op e 0).wr F.reamStat_echoActive e 0
  let s := if !bad then s else
    let s := s.wr F.reamLastErr_status e x.status
    let s := s.wr F.reamLastErr_cause e x.cause
    let s := s.wr F.reamLastErr_client e r.client
    (s.wr F.reamLastTag_tag e r.desc.tag).event (174 + e) r.gen (islReam e)
  if r.client == 1 && r.desc.intr then s.event (170 + e) r.gen (islReam e) else s

/-- The result of a host job written, and DONE (R408, R411, R426). -/
def State.hostResult (s : State) (e : Nat) (r : ReamRun) (x : ReamEnd) : State :=
  let segs := s.segments r.desc
  let rec used : List (Nat × Nat) → Nat → Nat
    | [], _ => 0
    | (_, n) :: rest, left => if left = 0 then 0 else 1 + used rest (left - n)
  let n := used segs (x.out.length - r.desc.outLen)
  let res := x.status + x.cause * 256 + 65536 + b2n x.echoed * 2 ^ 17 + b2n (0 < n) * 2 ^ 18 + n * 2 ^ 24
  let s := s.store (9 + e) (s.ringAddr e r.key + 48)
    (leBytes 4 res ++ leBytes 4 x.out.length ++ leBytes 4 x.crc ++ leBytes 4 x.used)
  let s := s.wr F.reamRingDone_count e (r.key + 1)
  let v := s.engine e
  if v.clearEn then (s.setEngine e { v with clearEn := false }).down F.reamCtl_hostEn e else s

/-- A host job at its end (R409 to R416). -/
def State.hostRun (s : State) (e : Nat) (r : ReamRun) (echoDiff : Option Nat) : State :=
  let d := r.desc
  match r.fail with
  | some c =>
    -- CRC_ORIG is open after a failed check
    let (v, s) := s.free
    let x : ReamEnd := ⟨reamStatus c, c, [], 0, v % 2 ^ 32, false⟩
    (s.endRun e r x).hostResult e r x
  | none =>
    let bufs := (d.outAddr, d.outLen) :: s.segments d
    let cap := (bufs.map (·.2)).sum
    let n := s.readableLen d.inAddr d.inLen
    let whole := n == d.inLen
    let input := s.bytes d.inAddr n
    let s := if whole then s else s.readFailed (9 + e) d.inAddr d.inLen
    let (x, s) := if d.op == 0 then
        if whole then s.runCompress d cap input echoDiff
        else (⟨St.uncorrectable, Rc.mem, [], n, 0, false⟩, s)
      else (runDecompress d cap input whole, s)
    let (s, ok) := s.layOut (9 + e) bufs x.out
    let x : ReamEnd := if ok then x else { x with status := St.uncorrectable, cause := Rc.mem, echoed := false }
    let (x, s) := if x.cause == Rc.mem then
        let (v, s) := s.free
        ({ x with crc := v % 2 ^ 32 }, s)
      else (x, s)
    let s := if x.status == St.noShrink then s.scrambleOut bufs (min cap d.inLen) else s
    let s := if x.cause == Rc.echo then
        let s := s.count (F.reamCnt_count Ec.echoFail) e 1
        let s := s.wr F.reamEchoOffset_offset e (echoDiff.getD 0)
        s.log Ev.reamEcho (islReam e) x.status [e, d.tag, echoDiff.getD 0]
      else s
    (s.endRun e r x).hostResult e r x

/-- A crop job at its end (R313 to R315). -/
def State.cropRun (s : State) (e : Nat) (r : ReamRun) (echoDiff : Option Nat) : State :=
  match s.couch.crops.find? (fun c => c.seq == r.key) with
  | none => s.endRun e r ⟨St.notInMode, Rc.mode, [], 0, 0, false⟩
  | some c =>
    let (raw, part) := s.cropRaw c
    let (x, s) := s.runCompress r.desc raw.length raw echoDiff
    let s := if x.cause == Rc.echo then
        let s := s.count (F.reamCnt_count Ec.echoFail) e 1
        let s := s.wr F.reamEchoOffset_offset e (echoDiff.getD 0)
        s.log Ev.reamEcho (islReam e) x.status [e, r.desc.tag, echoDiff.getD 0]
      else s
    let s := s.endRun e r x
    if x.status == St.done then s.cropDone c.seq c.codec x.out raw part else s.cropDone c.seq 0 raw raw part

/-- A layout job at its end (R333, R416): the output lies in the job output region. -/
def State.layoutRun (s : State) (e : Nat) (r : ReamRun) : State :=
  match s.job r.key with
  | none => s.endRun e r ⟨St.notInMode, Rc.mode, [], 0, 0, false⟩
  | some j =>
    match s.jobBytes j 0 j.total with
    | none =>
      let x : ReamEnd := ⟨St.uncorrectable, Rc.mem, [], 0, 0, false⟩
      let s := s.jobReadFailed j 0 j.total
      (s.setJob { j with codecEnd := some (some Rc.mem, 0) }).endRun e r x
    | some b =>
      let plain := gcmCrypt j.key (beAt b 40 12) (sub b (128 + 8 * j.count) j.cipherLen)
      let x := runDecompress { r.desc with ctl := 1 + j.codec * 4, expect := 0 } j.plainLen plain true
      let (s, ok) := s.writeMem (9 + e) (j.out.getD 0) x.out
      let x : ReamEnd := if ok then x else { x with status := St.uncorrectable, cause := Rc.mem }
      let s := s.setJob { j with codecEnd := some (if x.cause == 0 then none else some x.cause, x.out.length) }
      s.endRun e r x

/-- REAM_JOB_DONE (R411, R413 to R416): the running job ends. `echoDiff` is the offset of the first difference an echo
found. -/
def execReamJobDone (engine : Fin 4) (echoDiff : Option Word) (s : State) : Out :=
  let e := engine.val
  match (s.engine e).run with
  | none => .next s
  | some r =>
    let diff := echoDiff.map (·.toNat)
    if r.client == 1 then .next (s.hostRun e r diff)
    else if r.client == 2 then .next (s.cropRun e r diff)
    else .next (s.layoutRun e r)

/-! ### Jobs ended by a mode change or a load (R427) -/

/-- The running job of an engine ends with cause MODE: how far it had come is open. -/
def State.reamEnd (s : State) (e : Nat) : State :=
  match (s.engine e).run with
  | none => s
  | some r =>
    let (u, s) := s.free
    let (c, s) := s.free
    let x : ReamEnd := ⟨St.notInMode, Rc.mode, [], u % (r.desc.inLen + 1), c % 2 ^ 32, false⟩
    let s := if r.client == 1 then
        let bufs := (r.desc.outAddr, r.desc.outLen) :: s.segments r.desc
        s.scrambleOut bufs (bufs.map (·.2)).sum
      else s
    let s := s.endRun e r x
    if r.client == 1 then s.hostResult e r x else s

/-- Jobs of a client ended, with those queued (R427). -/
def State.reamEndClient (s : State) (client : Nat) : State :=
  forN 4 (fun e s =>
    let v := s.engine e
    let s := if v.queued.any (·.client == client) then s.setEngine e { v with queued := none } else s
    if v.run.any (·.client == client) then s.reamEnd e else s) s

/-- Every job ended: step 3 of PARK, and the COMMIT of a load (R427). -/
def State.reamEndAll (s : State) : State :=
  forN 4 (fun e s =>
    let v := s.engine e
    (s.setEngine e { v with queued := none }).reamEnd e) s

/-- A host reset clears HOST_EN of every engine, at the end of a running host job (R426). -/
def State.reamHostReset (s : State) : State :=
  forN 4 (fun e s =>
    let v := s.engine e
    if v.run.any (·.client == 1) then s.setEngine e { v with clearEn := true } else s.down F.reamCtl_hostEn e) s

end Sys2Proof.Machine
end

