-- ==== Sys2Proof/Machine/Host.lean ====
section
/-! DEFINITION. The host interface (R450 to R468, R479, R480): the command ring, completions, the six output rings, the
transmit ring, the state digest, the power states of the function and the host reset. -/

namespace Sys2Proof.Machine

/-! ### The command ring (R453 to R459) -/

/-- The opcodes of R457, R515 and R542. -/
def opcodes : List Nat :=
  [0x00, 0x01, 0x02, 0x03, 0x04, 0x05, 0x06, 0x07, 0x20, 0x21, 0x22, 0x40, 0x41, 0x42, 0x43, 0x44, 0x45, 0x46,
   0x60, 0x61, 0x62, 0x63, 0x64, 0x68, 0x6A, 0x70, 0x71, 0x72, 0x75]

/-- Checks 2 to 4 of R455 on an entry: the status of the first failure and whether the CSEQ is accepted. -/
def entryFault (bs : Bytes) (accepted : Nat) : Option (Nat × Bool) :=
  let zero := (sub bs 7 1 ++ sub bs 56 4).all (· == 0) && leAt bs 6 1 < 4
  if bs.length != 64 || leAt bs 60 4 != crc32c (bs.take 60) || !zero then some (St.badArg, false)
  else if leAt bs 0 4 != (accepted + 1) % 2 ^ 32 then some (St.seqGap, false)
  else if !opcodes.contains (leAt bs 4 2) then some (St.badArg, true)
  else none

/-- A command entry that passed the checks waits for its controller (R455, R456). -/
def outCmd (bs : Bytes) (stream : Option Nat) : OutCmd :=
  { cseq := leAt bs 0 4, opcode := leAt bs 4 2, args := sub bs 8 48, intr := bit (leAt bs 6 1) 0
    fence := bit (leAt bs 6 1) 1, stream := stream }

/-- HOST_CMD_BASE without the bits that R453 ignores. -/
def State.cmdBase (s : State) : Nat := s.rd64 F.hostCmdBaseLo_base F.hostCmdBaseHi_base / 2 ^ 18 * 2 ^ 18

/-- OUTSTANDING (R453). -/
def State.outstanding (s : State) : Nat := s.rd F.hostCmdOutstanding_outstanding

/-- HOST_CMD_TAIL (R453): accepted within the free completion slots, else TAIL_ERR. -/
def execHostCmdTail (tail : Word) (s : State) : Out :=
  if (tail.toNat + 2 ^ 32 - s.rd F.hostCmdFetched_count) % 2 ^ 32 + s.outstanding ≤ 4096 then
    .next (s.wr F.hostCmdTail_count 0 tail.toNat)
  else .next ((s.up F.hostCmdCtl_tailErr).irq 7)

/-- CMD_EN_SET (R453): a change of CMD_EN from 0 to 1 restarts the ring empty. -/
def execCmdEnSet (s : State) : Out :=
  if s.flag F.hostCmdCtl_cmdEn then .next s else
  let s := s.up F.hostCmdCtl_cmdEn
  .next ((s.wr F.hostCmdTail_count 0 0).wr F.hostCmdFetched_count 0 0)

/-- An entry refused or completed at its checks: its report waits for its completion. -/
def State.refuseEntry (s : State) (cseq opcode status : Nat) (intr accepted : Bool) (stream : Option Nat) : State :=
  { s with host.reports := s.host.reports ++ [Report.mk cseq opcode status 0 0 intr accepted stream] }.showOutstanding

/-- CMD_FETCH (R455): the next posted entry is fetched where a completion slot is free, and checked. -/
def execCmdFetch (s : State) : Out :=
  let k := s.rd F.hostCmdFetched_count
  if !s.flag F.hostCmdCtl_cmdEn || k == s.rd F.hostCmdTail_count || 4096 ≤ s.outstanding || !s.flag F.chiefMode_ready
  then .next s else
  let a := s.cmdBase + 64 * (k % 4096)
  let s := s.wr F.hostCmdFetched_count 0 (k + 1)
  match s.readMem a 64 with
  | none =>
    let s := (s.readFailed 16 a 64).count F.hostCmdErr_badEntries 0 1
    .next (s.refuseEntry 0xFFFFFFFF 0xFFFF St.uncorrectable false false none)
  | some bs =>
    let cseq := leAt bs 0 4
    let intr := bit (leAt bs 6 1) 0
    match entryFault bs (s.rd F.hostCmdAccepted_count) with
    | some (status, accepted) =>
      let s := if accepted then s.wr F.hostCmdAccepted_count 0 cseq
        else if status == St.seqGap then s.count F.hostCmdErr_seqGaps 0 1
        else s.count F.hostCmdErr_badEntries 0 1
      .next (s.refuseEntry cseq (leAt bs 4 2) status intr accepted none)
    | none =>
      let s := s.wr F.hostCmdAccepted_count 0 cseq
      .next { s with host.outstanding := s.host.outstanding ++ [outCmd bs none] }.showOutstanding

/-- NOP (R457). -/
def execNop (cmd : CmdRef) (s : State) : Out := .next (s.command cmd 0x00 (fun s => s.finish cmd 0x00 St.done))

/-- PARK_STATUS (R64): RESULT holds CHIEF_PARK_STAT. -/
def execParkStatus (cmd : CmdRef) (s : State) : Out :=
  .next (s.command cmd 0x03 (fun s =>
    s.report cmd 0x03 St.done 0 (s.reg (F.chiefParkStat_step.addr 0)).toNat))

/-- The commands of R457 without a limit: they wait on the mechanics, complete at once, or make no completion. -/
def unlimited : List Nat := [0x00, 0x01, 0x03, 0x04, 0x61, 0x6A]

/-- CMD_LIMIT_TIMEOUT (R457): the controller has not reported by the limit. -/
def execCmdLimitTimeout (cmd : CmdRef) (s : State) : Out :=
  match s.findCmd cmd with
  | none => .next s
  | some o =>
    if unlimited.contains o.opcode then .next s else
    let s := s.finish cmd o.opcode St.timeout
    .next { s with host.timedOut := s.host.timedOut ++ [LateCmd.mk cmd.cseq o.opcode (streamOf cmd)] }

/-- The 32 bytes of a completion (R458). -/
def Report.bytes (r : Report) (dseq ns : Nat) : Bytes :=
  let b := leBytes 4 dseq ++ leBytes 4 r.cseq ++ leBytes 2 r.opcode ++ leBytes 1 r.status ++ leBytes 1 0 ++
    leBytes 4 r.info ++ leBytes 8 r.result ++ leBytes 4 ns
  b ++ leBytes 4 (crc32c b)

/-- COMPLETED and the completed CSEQs above it, once `cseq` is complete (R459). -/
def completedNext (completed : Nat) (above : List Nat) (cseq : Nat) : Nat × List Nat :=
  let all := above ++ [cseq]
  let rec go (c : Nat) : Nat → Nat
    | 0 => c
    | n + 1 => if all.contains ((c + 1) % 2 ^ 32) then go ((c + 1) % 2 ^ 32) n else c
  let c := go completed all.length
  (c, all.filter (fun x => decide ((x + 2 ^ 32 - c) % 2 ^ 32 ≠ 0 ∧ (x + 2 ^ 32 - c) % 2 ^ 32 < 2 ^ 31)))

/-- The completion of a ring command made (R458, R459): it takes the next DSEQ and waits for ring 0. -/
def State.ringCompletion (s : State) (r : Report) : State :=
  let dseq := s.rd F.hostCmdNextDseq_count
  let s := s.wr F.hostCmdNextDseq_count 0 (dseq + 1)
  let s := { s with host.completions := s.host.completions ++ [Completion.mk (r.bytes dseq s.ns) r.intr] }
  if !r.accepted then s else
  let (c, above) := completedNext (s.rd F.hostCmdCompleted_count) s.host.completedAbove r.cseq
  ({ s with host.completedAbove := above } : State).wr F.hostCmdCompleted_count 0 c

/-! ### The output rings (R460 to R467, R480) -/

/-- The greatest power of two not above `n`, held between `lo` and `hi` (themselves powers of two). -/
def powerWithin (lo hi n : Nat) : Nat := if n < lo then lo else if hi < n then hi else 2 ^ n.log2

/-- SIZE of a ring (R460). -/
def State.outSize (s : State) (k : Nat) : Nat :=
  if k == 5 then powerWithin (2 ^ 20) (2 ^ 30) (s.rd F.ringSize_size k) else powerWithin 16 1048576 (s.rd F.ringSize_size k)

/-- ENTRY_BYTES of ring 4 (R464). -/
def State.rxEntryBytes (s : State) : Nat :=
  match s.rd F.ringCtl_entryBytes 4 with
  | 1 => 4096
  | 2 => 9728
  | _ => 2048

/-- The entry length of a ring (R460). -/
def State.outEntry (s : State) (k : Nat) : Nat :=
  match k with
  | 0 => 32
  | 1 => 64
  | 2 => 1600
  | 3 => 32
  | 4 => s.rxEntryBytes
  | _ => 1

/-- (PROD − CONS) mod 2³² (R461). -/
def State.outUsed (s : State) (k : Nat) : Nat :=
  (s.rd F.ringProd_count k + 2 ^ 32 - s.rd F.ringCons_count k) % 2 ^ 32

/-- FULL of a ring. -/
def State.showOut (s : State) (k : Nat) : State := s.wr F.ringCtl_full k (b2n (s.outSize k ≤ s.outUsed k))

/-- Where an offset of a ring lies on the bus. -/
def State.outAddr (s : State) (k off : Nat) : Nat :=
  s.rd64 F.ringBaseLo_base F.ringBaseHi_base k / 4096 * 4096 + off

/-- Ring vector `v` has one more entry, moderated by ring `k`'s MOD_COUNT and MOD_US (R480). -/
def State.moderate (s : State) (k v : Nat) (now : Bool) : State :=
  let n := Sparse.get (fun _ => 0) s.host.unsignalled v + 1
  let m := max 1 (s.rd F.ringMod_modCount k)
  if now || m ≤ n || s.rd F.ringMod_modUs k == 0 then
    { s with host.unsignalled := Sparse.set (fun _ => 0) s.host.unsignalled v 0 }.irq v
  else { s with host.unsignalled := Sparse.set (fun _ => 0) s.host.unsignalled v n }

/-- PROD advanced and written back after its entries (R462). -/
def State.outAdvance (s : State) (k n : Nat) : State :=
  let p := (s.rd F.ringProd_count k + n) % 2 ^ 32
  let s := (s.wr F.ringProd_count k p).showOut k
  s.emit (.busWrite (s.rd64 F.ringWbLo_wb F.ringWbHi_wb k / 4 * 4) (leBytes 4 p))

/-- The first item of a FIFO that its ring has still to take. -/
def ringItem (l : List OutItem) : Option Bytes := (l.find? (·.ring)).map (·.data)

/-- The FIFO once its ring has taken that item: an item leaves when every destination has taken it (R317). -/
def ringTake : List OutItem → List OutItem
  | [] => []
  | i :: t => if i.ring then (if i.net then { i with ring := false } :: t else t) else i :: ringTake t

/-- The next entry of ring `k` below 5 (R460). -/
def State.outNext (s : State) (k : Nat) : Option Bytes :=
  match k with
  | 0 => s.host.completions.head?.map (·.data)
  | 1 => ringItem s.couch.records
  | 2 => ringItem s.stats.fifo
  | 3 => ringItem s.laid.gaps
  | 4 => s.host.rxStaged.head?
  | _ => none

/-- The source of ring `k` without the entry just written. -/
def State.outTaken (s : State) (k : Nat) : State :=
  match k with
  | 0 => { s with host.completions := s.host.completions.tail }.showOutstanding
  | 1 => { s with couch.records := ringTake s.couch.records }.showCouch
  | 2 => { s with stats.fifo := ringTake s.stats.fifo }.showStats
  | 3 => { s with laid.gaps := ringTake s.laid.gaps }.showGaps
  | _ => { s with host.rxStaged := s.host.rxStaged.tail }

/-- A ring may be written: EN, and the function not in D3hot (R451, R461). -/
def State.outOpen (s : State) (k : Nat) : Bool := s.flag F.ringCtl_en k && !s.flag F.hostStat_d3hot

/-- One entry of ring `k` below 5 written (R461, R462). -/
def State.writeEntry (s : State) (k : Nat) : State :=
  match s.outNext k with
  | none => s
  | some e =>
    if !s.outOpen k || s.outSize k < s.outUsed k + 1 then s else
    let intr := k == 0 && (s.host.completions.head?.any (·.intr))
    let vec := if k == 4 then 48 + leAt e 2 1 % 16 else k
    let i := s.rd F.ringProd_count k % s.outSize k
    let s := s.emit (.busWrite (s.outAddr k (s.outEntry k * i)) e)
    ((s.outTaken k).outAdvance k 1).moderate k vec intr

/-- The crop whose compression completed first, with its bytes (R466). -/
def State.nextCrop (s : State) : Option (Crop × Bytes) :=
  match s.couch.cropsDone with
  | [] => none
  | q :: _ => match s.couch.crops.find? (fun c => c.seq == q) with
    | some c => c.data.map (fun d => (c, d))
    | none => none

/-- A crop leaves its staging (R466). -/
def State.dropCrop (s : State) (seq : Nat) : State :=
  { s with couch.crops := s.couch.crops.filter (fun c => c.seq != seq)
           couch.cropsDone := s.couch.cropsDone.filter (· != seq) }.showCouch

/-- At most `piece` bytes of the next crop written to ring 5 (R466, R478): whole and contiguous, a pad first where it
would run past the end; PROD advances when its last byte is written. -/
def State.writeCrop (s : State) (piece : Nat) : State :=
  let s := s.rawCrops
  match s.nextCrop with
  | none => s
  | some (c, d) =>
    if !s.outOpen 5 then s else
    let size := s.outSize 5
    if size / 2 < d.length then (s.dropCrop c.seq).count F.ringDrop_drop 5 1 else
    let p := s.rd F.ringProd_count 5
    let toEnd := size - p % size
    let pad := if toEnd < d.length then toEnd else 0
    if size < s.outUsed 5 + pad + d.length then s else
    let s := if pad == 0 then s else
      let h := leBytes 4 0xFFFFFFFF ++ zeros 20 ++ leBytes 4 pad ++ zeros 36
      (s.emit (.busWrite (s.outAddr 5 (p % size)) h)).outAdvance 5 pad
    let at_ := s.rd F.ringProd_count 5 % size
    let part := sub d c.sent piece
    let s := s.emit (.busWrite (s.outAddr 5 (at_ + c.sent)) part)
    let sent := c.sent + part.length
    if sent < d.length then
      { s with couch.crops := s.couch.crops.map (fun x => if x.seq == c.seq then { x with sent := sent } else x) }
    else ((s.dropCrop c.seq).outAdvance 5 d.length).moderate 5 5 false

/-- RING_ENTRY_WRITE (R462, R466). -/
def execRingEntryWrite (ring : Fin 6) (s : State) : Out :=
  if ring.val == 5 then .next (s.writeCrop (2 ^ 32)) else .next (s.writeEntry ring.val)

/-- RING_ENABLE (R460): setting EN sets PROD and CONS to 0. -/
def execRingEnable (ring : Fin 6) (s : State) : Out :=
  let k := ring.val
  if s.flag F.ringCtl_en k then .next s else
  let s := ((s.up F.ringCtl_en k).wr F.ringProd_count k 0).wr F.ringCons_count k 0
  .next (s.showOut k)

/-- RING_CONS_WRITE (R461): CONS moves forward by no more than PROD − CONS, else CONS_ERR. -/
def execRingConsWrite (ring : Fin 6) (cons : Word) (s : State) : Out :=
  let k := ring.val
  if (cons.toNat + 2 ^ 32 - s.rd F.ringCons_count k) % 2 ^ 32 ≤ s.outUsed k then
    .next ((s.wr F.ringCons_count k cons.toNat).showOut k)
  else .next ((s.up F.ringCtl_consErr k).irq 7)

/-- The ring whose MOD_COUNT and MOD_US moderate a vector (R480). -/
def modRing (v : Nat) : Option Nat := if v ≤ 3 || v == 5 then some v else if 48 ≤ v && v < 64 then some 4 else none

/-- RING_MOD_TIMEOUT (R480): MOD_US after the first entry since the last signal. -/
def execRingModTimeout (vector : Fin 64) (s : State) : Out :=
  let v := vector.val
  if (modRing v).isNone || Sparse.get (fun _ => 0) s.host.unsignalled v == 0 then .next s else
  .next ({ s with host.unsignalled := Sparse.set (fun _ => 0) s.host.unsignalled v 0 }.irq v)

/-! ### Received and transmitted frames (R464, R465, R172 to R174) -/

/-- A frame delivered to the host with its stamp (R171, R463, R464). -/
def State.deliverFrame (s : State) (e : Nat) (frame : Bytes) (stamp : Nat) : State :=
  if !s.flag F.ringCtl_en 4 || s.outSize 4 < s.outUsed 4 + s.host.rxStaged.length + 1 ||
      s.rxEntryBytes - 64 < frame.length then s.count F.ringDrop_drop 4 1 else
  let h := leBytes 2 frame.length ++ leBytes 1 e ++ leBytes 1 0 ++ leBytes 8 stamp ++ zeros 48
  { s with host.rxStaged := s.host.rxStaged ++ [h ++ leBytes 4 (crc32c h) ++ frame] }

/-- Port `e` exists in the image (R165): lane `e` of an ETH25 quad, or the one port of a 100G quad. -/
def State.macPort (s : State) (e : Nat) : Bool :=
  let r := s.laneRole (48 + e)
  if r == Role.eth25 then bit (s.rd F.laneQuadStat_laneMask (12 + e / 4)) (e % 4)
  else (r == Role.kr4 || r == Role.cr4) && e % 4 == 0

/-- A frame sent on a port. -/
def State.sendMac (s : State) (e : Nat) (frame : Bytes) : State :=
  (s.emit (.frame e frame)).count (F.macCnt_count 1) e 1

/-- A byte string with `b` in place of its bytes from `off`. -/
def patch (bs : Bytes) (off : Nat) (b : Bytes) : Bytes := bs.take off ++ b ++ bs.drop (off + b.length)

/-- Where a frame's PTP header starts, and whether it lies in UDP (R174). -/
def ptpHeader (f : Bytes) : Option (Nat × Bool) :=
  let et := beAt f 12 2
  if et == 0x88F7 then (if beAt f 14 1 % 16 ≤ 3 then some (14, false) else none)
  else if et == 0x8100 && beAt f 16 2 == 0x88F7 then (if beAt f 18 1 % 16 ≤ 3 then some (18, false) else none)
  else if et == 0x0800 && beAt f 14 1 == 0x45 && beAt f 23 1 == 17 && beAt f 36 2 == 319 then some (42, true)
  else none

/-- The one-step rewrite of a Sync (R173). -/
def State.oneStep (s : State) (f : Bytes) (stamp : Nat) : Option Bytes :=
  match ptpHeader f with
  | none => none
  | some (h, udp) =>
    if beAt f h 1 % 16 != 0 || f.length < h + 44 || s.flag F.timeStat_baseStale then none else
    let (sec, ns) := s.ptp stamp
    let f := patch f (h + 34) (beBytes 6 sec ++ beBytes 4 ns)
    let f := patch f (h + 8) (beBytes 8 (beAt f (h + 8) 8 + bits stamp 16 16))
    some (if udp then patch f 40 (zeros 2) else f)

/-- TX_SIZE of the transmit ring (R465). -/
def State.txSize (s : State) : Nat := powerWithin 16 1024 (s.rd F.hostTxSize_txSize)

/-- HOST_TX_TAIL (R465): accepted within TX_SIZE, else TAIL_ERR. -/
def execHostTxTail (tail : Word) (s : State) : Out :=
  if (tail.toNat + 2 ^ 32 - s.rd F.hostTxHead_count) % 2 ^ 32 ≤ s.txSize then
    .next (s.wr F.hostTxTail_count 0 tail.toNat)
  else .next ((s.up F.hostCmdCtl_tailErr).irq 7)

/-- TX_HEAD advanced, with vector 4 (R465, R480). -/
def State.txAdvance (s : State) : State := (s.advance F.hostTxHead_count 0 1).irq 4

/-- TX_FRAME_SEND (R465, R172, R173): the entry at TX_HEAD is sent, or counted in TX_BAD. `measured` is the dynamic
term of the stamp. A frame for a port whose link is down waits. -/
def execTxFrameSend (measured : Int) (s : State) : Out :=
  let k := s.rd F.hostTxHead_count
  if !s.flag F.hostTxCtl_en || k == s.rd F.hostTxTail_count then .next s else
  let a := s.rd64 F.hostTxBaseLo_base F.hostTxBaseHi_base + 9728 * (k % s.txSize)
  let bad (s : State) : State := ((s.count F.hostTxCtl_txBad 0 1).irq 7).txAdvance
  match s.readMem a 64 with
  | none => .next (bad (s.readFailed 16 a 64))
  | some h =>
    let len := leAt h 0 2
    let e := leAt h 2 1
    let opt := leAt h 3 1
    if len < 60 || 9596 < len || 16 ≤ e || !s.macPort e || 4 ≤ opt || (h.drop 6).any (· != 0) then .next (bad s) else
    match s.readMem (a + 64) len with
    | none => .next (bad (s.readFailed 16 (a + 64) len))
    | some f =>
      if !s.flag F.macStat_linkUp e then .next s else
      let stamp := s.macStamp e true measured
      let tag := leAt h 4 2
      match (if bit opt 1 then some (s.oneStep f stamp) else none) with
      | some (some g) =>
        let s := s.sendMac e g
        .next (if bit opt 0 then s.pushStamp e ⟨tag, false, stamp⟩ else s).txAdvance
      | some none => .next ((s.sendMac e f).pushStamp e ⟨tag, true, stamp⟩).txAdvance
      | none =>
        let s := s.sendMac e f
        .next (if bit opt 0 then s.pushStamp e ⟨tag, false, stamp⟩ else s).txAdvance

/-! ### The state digest (R468) -/

/-- DIGEST_SNAP (R468): ignored while a snapshot runs. -/
def execDigestSnap (s : State) : Out :=
  if s.host.digestRunning then .next s else
  .next ({ s with host.digestRunning := true, host.digestSeq := (s.host.digestSeq + 1) % 2 ^ 32 }.down F.hostDigestCtl_done)

/-- The DMA channels in a set of states, as a mask. -/
def State.dmaMask (s : State) (p : Nat → Bool) : Nat :=
  ((List.range 32).map (fun i => if p (s.rd F.dmaStat_state i) then 2 ^ i else 0)).sum

/-- The snapshot's 64 bytes (R468). -/
def State.digest (s : State) : Bytes :=
  let held := ((List.range Res.count).filter s.hostHolds).length
  let b := leBytes 4 s.host.digestSeq ++ leBytes 1 s.mode ++
    leBytes 1 (s.rd F.chiefMode_ready + s.rd F.chiefMode_transition * 2 + b2n s.chief.joint.isSome * 4) ++
    leBytes 2 (s.rd F.chiefJointStat_jointSeq) ++ leBytes 8 (s.rd64 F.cfgBuildLo_buildId F.cfgBuildHi_buildId) ++
    leBytes 4 (s.rd F.hostCmdAccepted_count) ++ leBytes 4 (s.rd F.hostCmdCompleted_count) ++
    leBytes 4 (s.rd F.hostCmdNextDseq_count) ++ leBytes 4 (s.rd F.couchNextSeq_seq) ++
    leBytes 4 (s.rd F.statsNextSeq_seq) ++ leBytes 4 (s.rd F.laidGapNextSeq_seq) ++
    leBytes 4 (s.dmaMask (fun x => 1 ≤ x && x ≤ 3)) ++ leBytes 4 (s.dmaMask (· == 4)) ++
    leBytes 4 (s.rd F.chiefResetCause_hostResets) ++ leBytes 4 held ++ leBytes 4 s.ns
  b ++ leBytes 4 (crc32c b)

/-- DIGEST_DONE (R468). -/
def execDigestDone (s : State) : Out :=
  if !s.host.digestRunning then .next s else
  let s := s.setWords ((F.hostDigest_data 0).addr 0) s.digest
  .next ({ s with host.digestRunning := false }.up F.hostDigestCtl_done)

/-! ### The link and the function (R450 to R452) -/

/-- Pending vectors that are no longer masked send their messages (PCIe 5.0). -/
def State.sendPending (s : State) : State :=
  forN 64 (fun v s =>
    let p := s.rd F.msixPba_pending (v / 32)
    if !bit p (v % 32) || s.msix v 3 % 2 == 1 || s.flag F.hostStat_d3hot then s
    else (s.wr F.msixPba_pending (v / 32) (p - 2 ^ (v % 32))).irq v) s

/-- PCIE_LINK_UP (R450): GEN 1 to 5, WIDTH 1, 2, 4 or 8. -/
def execPcieLinkUp (gen width : BitVec 4) (s : State) : Out :=
  let s := s.wr F.hostStat_gen 0 gen.toNat
  let s := s.wr F.hostStat_width 0 width.toNat
  .next (s.up F.hostStat_linkUp)

/-- D3HOT_ENTRY (R451). -/
def execD3hotEntry (s : State) : Out := .next (s.up F.hostStat_d3hot)

/-- D0_RETURN (R451): ring entries may be written again, and pending vectors are sent. -/
def execD0Return (s : State) : Out := .next (s.down F.hostStat_d3hot).sendPending

/-- A resource set free; a column's enable bits and owner are cleared (R86, R490). -/
def State.freeResource (s : State) (r : Nat) : State :=
  let s := s.setOwner r 0 false
  if Res.cairncol ≤ r && r < Res.stream then
    forN 8 (fun w s => s.setReg (F.cairnMatrix_word.addr (8 * (r - Res.cairncol) + w)) 0) s
  else s

/-- Every claim of a domain released (R86). -/
def State.freeDomain (s : State) (d : Nat) : State :=
  forN Res.count (fun r s => if s.ownerDomain r == d then s.freeResource r else s) s

/-- Frames staged for ring 4 discarded and counted (R467). -/
def State.dropStagedFrames (s : State) : State :=
  let s := s.count F.ringDrop_drop 4 s.host.rxStaged.length
  { s with host.rxStaged := [] }

/-- The enables and counts of every ring cleared (R452). -/
def State.clearRings (s : State) : State :=
  let s := s.dropStagedFrames
  let s := ((s.down F.hostCmdCtl_cmdEn).wr F.hostCmdTail_count 0 0).wr F.hostCmdFetched_count 0 0
  let s := ((s.down F.hostTxCtl_en).wr F.hostTxTail_count 0 0).wr F.hostTxHead_count 0 0
  let s := forN 6 (fun k s => (((s.down F.ringCtl_en k).wr F.ringProd_count k 0).wr F.ringCons_count k 0).showOut k) s
  { s with host.unsignalled := []
           couch.crops := s.couch.crops.map (fun c => { c with sent := 0 }) }

/-- The MSI-X table and pending bits as after a reset of the function (PCIe 5.0). -/
def State.resetMsix (s : State) : State := s.resetSpan 0x012F0000 0x012F1008

/-- FLR_COMPLETE (R452): the function answers again. -/
def execFlrComplete (s : State) : Out := .next { s with host.flr := false }

end Sys2Proof.Machine
end

