-- ==== Sys2Proof/Machine/Dma.lean ====
section
/-! DEFINITION. The 32 DMA channels and the DMA engine (R469 to R478). -/

namespace Sys2Proof.Machine

/-! States and causes of DMA_STAT. -/
namespace Ds
def idle : Nat := 0
def fetch : Nat := 1
def run : Nat := 2
def wait : Nat := 3
def halted : Nat := 4
end Ds
namespace Dc
def none : Nat := 0
def chainLimit : Nat := 1
def busError : Nat := 2
def desc : Nat := 3
def protect : Nat := 4
def uncorrectable : Nat := 5
def aborted : Nat := 6
def hostReset : Nat := 7
end Dc

/-- A channel beyond its registers. -/
def State.dma (s : State) (i : Nat) : DmaCh := Sparse.get (fun _ => {}) s.host.dma i
def State.setDma (s : State) (i : Nat) (c : DmaCh) : State :=
  { s with host.dma := Sparse.set (fun _ => {}) s.host.dma i c }

/-- STATE of a channel. -/
def State.dmaState (s : State) (i : Nat) : Nat := s.rd F.dmaStat_state i

/-- An event of channel `i` with its vector (R473, R479). -/
def State.dmaEvent (s : State) (i p : Nat) : State := (s.event p (s.dma i).gen 0xC1).irq (8 + i)

/-- The fetch of the descriptor at an address (R469, R470): a host descriptor is read over the bus. -/
def State.dmaFetch (s : State) (i addr : Nat) (hbm : Bool) : State :=
  let c := s.dma i
  let s := s.setDma i { descAddr := addr, descHbm := hbm, chainGen := c.chainGen, gen := c.chainGen, bytesRest := c.bytesRest }
  let s := s.wr F.dmaStat_state i Ds.fetch
  if hbm then s else s.emit (.busRead addr 64 i)

/-- A chain started (R469, R475). -/
def State.dmaBegin (s : State) (i gen : Nat) : State :=
  let d := s.rd64 F.dmaDescLo_desc F.dmaDescHi_desc i
  let s := (s.wr F.dmaStat_cause i Dc.none).wr F.dmaCount_chCount i 0
  let s := s.setDma i { s.dma i with chainGen := gen }
  s.dmaFetch i (d / 64 * 64) (bit d 0)

/-- A START or consumer arrival (R477): it starts an idle or halted channel, releases a WAIT descriptor, and is an
overrun on any other. -/
def State.dmaStart (s : State) (i gen : Nat) : State :=
  let st := s.dmaState i
  if st == Ds.idle || st == Ds.halted then s.dmaBegin i gen
  else if st == Ds.wait then (s.setDma i { s.dma i with gen := gen }).wr F.dmaStat_state i Ds.run
  else (s.up F.dmaStat_startOverrun i).overrun (32 + i) 0xC1

/-- A BAR0 write to a channel not held by HOST_PCIE (R469). -/
def State.dmaDenied (s : State) (i : Nat) : State :=
  (s.up F.dmaStat_denied i).accessFault Af.conflict (F.dmaCtl_start.addr i) 0xC1 true (s.owner (Res.dma + i))

/-- DMA_START (R469, R477). -/
def execDmaStart (ch : Fin 32) (s : State) : Out :=
  let i := ch.val
  .next (if s.hostHolds (Res.dma + i) then s.dmaStart i 0 else s.dmaDenied i)

/-- DMA_START_EVENT (R477, R484): Cairn consumer 32 + i of generation `gen`. -/
def execDmaStartEvent (ch : Fin 32) (gen : Fin 8) (s : State) : Out := .next (s.dmaStart ch.val (gen.val + 1))

/-- The device may write bytes 32 to 47 of the descriptor in use (R470, R476). -/
def State.dmaWritable (s : State) (c : DmaCh) : Bool :=
  !c.descHbm || (c.descAddr + 64 ≤ Config.hbmBytes && !s.writeProtected c.descAddr 64)

/-- Bytes 32 to 47 of a descriptor (R470). -/
def State.dmaResult (s : State) (c : DmaCh) (status : Nat) : Bytes :=
  leBytes 4 status ++ leBytes 4 c.done ++ leBytes 4 s.ns ++ zeros 4

/-- A channel halts (R471, R475, R476, R477): the write-back where `back`, and producer 106 + 2i whatever INT_FULL
is. -/
def State.dmaHalt (s : State) (i status cause fault : Nat) (back : Bool) : State :=
  let c := s.dma i
  let s := if back && c.desc.any (·.wb) && s.dmaWritable c then
      let r := s.dmaResult c status
      if c.descHbm then s.store 16 (c.descAddr + 32) r else s.emit (.busWrite (c.descAddr + 32) r)
    else s
  let s := s.setDma i { c with desc := none, reads := [], aborting := false }
  let s := (s.wr F.dmaStat_state i Ds.halted).wr F.dmaStat_cause i cause
  let s := if cause == Dc.aborted then s else s.wr64 F.dmaFaultLo_addr F.dmaFaultHi_addr i fault
  s.dmaEvent i (106 + 2 * i)

/-- DMA_ABORT (R477): issuing stops, outstanding responses are awaited, and the channel halts. -/
def State.dmaAbort (s : State) (i : Nat) : State :=
  let st := s.dmaState i
  let c := s.dma i
  if st == Ds.idle || st == Ds.halted then s
  else if (st == Ds.run && !c.reads.isEmpty) || (st == Ds.fetch && !c.descHbm) then s.setDma i { c with aborting := true }
  else s.dmaHalt i St.done Dc.aborted c.descAddr false

/-- DMA_ABORT (R477). -/
def execDmaAbort (ch : Fin 32) (s : State) : Out :=
  let i := ch.val
  .next (if s.hostHolds (Res.dma + i) then s.dmaAbort i else s.dmaDenied i)

/-- A descriptor from its 64 bytes (R470). -/
def dmaDesc (b : Bytes) : DmaDesc :=
  let ctl := leAt b 0 4
  { dir := bits ctl 0 2, intHalf := bit ctl 2, intFull := bit ctl 3, endFlag := bit ctl 4, wb := bit ctl 5
    wait := bit ctl 6, tag := bits ctl 16 16, len := leAt b 4 4, src := leAt b 8 8, dst := leAt b 16 8
    next := leAt b 24 8 }

/-- The check of a descriptor before its first byte moves (R471): status and cause of the first failure. -/
def State.dmaFault (s : State) (b : Bytes) (d : DmaDesc) : Option (Nat × Nat) :=
  let hbm (a : Nat) : Bool := Config.hbmBytes < a + d.len
  let wraps (a : Nat) : Bool := 2 ^ 64 < a + d.len
  if d.dir == 3 || d.len == 0 || 2147483648 < d.len || bits (leAt b 0 4) 7 9 != 0 ||
      (!d.endFlag && bits d.next 1 5 != 0) || (sub b 44 20).any (· != 0) then some (St.badArg, Dc.desc)
  else if d.dir != 1 && s.writeProtected d.dst d.len then some (St.badArg, Dc.protect)
  else if (d.dir != 0 && hbm d.src) || (d.dir != 1 && hbm d.dst) then some (St.busError, Dc.busError)
  else if (d.dir == 0 && wraps d.src) || (d.dir == 1 && wraps d.dst) then some (St.badArg, Dc.desc)
  else none

/-- A fetched descriptor checked, and its transfer begun or held (R471, R477). -/
def State.dmaTake (s : State) (i : Nat) (b : Bytes) : State :=
  let c := s.dma i
  let d := dmaDesc b
  let s := s.setDma i { c with desc := some d }
  match s.dmaFault b d with
  | some (status, cause) => s.dmaHalt i status cause c.descAddr true
  | none => s.wr F.dmaStat_state i (if d.wait then Ds.wait else Ds.run)

/-- DMA_DESC_FETCH (R471): the 64 bytes of a host descriptor arrive, or those of an HBM descriptor are read. -/
def execDmaDescFetch (ch : Fin 32) (data : Bytes) (s : State) : Out :=
  let i := ch.val
  let c := s.dma i
  if s.dmaState i != Ds.fetch then .next s
  else if c.aborting then .next (s.dmaHalt i St.done Dc.aborted c.descAddr false)
  else if !c.descHbm then .next (if data.length == 64 then s.dmaTake i data else s)
  else if Config.hbmBytes < c.descAddr + 64 then .next (s.dmaHalt i St.busError Dc.busError c.descAddr false)
  else match s.readMem c.descAddr 64 with
  | none => .next ((s.readFailed 16 c.descAddr 64).dmaHalt i St.uncorrectable Dc.uncorrectable c.descAddr false)
  | some b => .next (s.dmaTake i b)

/-- `n` more bytes are complete at the destination: BYTES_64K and the half event (R473, R474). -/
def State.dmaProgress (s : State) (i n : Nat) : State :=
  let c := s.dma i
  let t := c.bytesRest + n
  let s := s.count F.dmaBytes64k_bytes i (t / 65536)
  let c := { c with done := c.done + n, bytesRest := t % 65536 }
  let s := s.setDma i c
  match c.desc with
  | some d =>
    if d.intHalf && !c.half && (d.len + 1) / 2 ≤ c.done then
      (s.setDma i { c with half := true }).dmaEvent i (107 + 2 * i)
    else s
  | none => s

/-- The end of a descriptor (R473 to R475): the full event, the count, and NEXT, IDLE or CHAIN_LIMIT. -/
def State.dmaFinish (s : State) (i : Nat) : State :=
  let c := s.dma i
  match c.desc with
  | none => s
  | some d =>
    let n := s.rd F.dmaCount_chCount i + 1
    let s := s.wr F.dmaCount_chCount i n
    let lim := s.rd F.dmaLimit_chLimit i
    if d.endFlag then
      let s := if d.intFull then s.dmaEvent i (106 + 2 * i) else s
      (s.setDma i { c with desc := none }).wr F.dmaStat_state i Ds.idle
    else if (if lim == 0 then 65535 else lim) ≤ n then
      s.dmaHalt i St.chainLimit Dc.chainLimit (d.next / 64 * 64) false
    else
      let s := if d.intFull then s.dmaEvent i (106 + 2 * i) else s
      s.dmaFetch i (d.next / 64 * 64) (bit d.next 0)

/-- DMA_DESC_COMPLETE (R474): all bytes are complete; the write-back, then the end. A write-back to host memory is
itself complete when its zero-length read is. -/
def execDmaDescComplete (ch : Fin 32) (s : State) : Out :=
  let i := ch.val
  let c := s.dma i
  match c.desc with
  | none => .next s
  | some d =>
    if s.dmaState i != Ds.run || c.done != d.len || !c.reads.isEmpty || c.wroteBack then .next s else
    let lim := s.rd F.dmaLimit_chLimit i
    let last := !d.endFlag && (if lim == 0 then 65535 else lim) ≤ s.rd F.dmaCount_chCount i + 1
    let r := s.dmaResult c (if last then St.chainLimit else St.done)
    if !d.wb || !s.dmaWritable c then .next (s.dmaFinish i)
    else if c.descHbm then .next ((s.store 16 (c.descAddr + 32) r).dmaFinish i)
    else
      let s := (s.emit (.busWrite (c.descAddr + 32) r)).emit (.busRead (c.descAddr + 32) 0 i)
      .next (s.setDma i { c with wroteBack := true, reads := [(0, 0)] })

/-- DMA_BUS_ERROR (R476): a completion error or timeout of a data read, a zero-length read or a descriptor fetch. -/
def execDmaBusError (ch : Fin 32) (s : State) : Out :=
  let i := ch.val
  let c := s.dma i
  let st := s.dmaState i
  if (st == Ds.fetch && !c.descHbm) || (st == Ds.run && !c.reads.isEmpty) then
    let s := s.log Ev.dmaBusError 0xC1 St.busError [i, c.descAddr % 2 ^ 32, c.descAddr / 2 ^ 32]
    .next (s.dmaHalt i St.busError Dc.busError c.descAddr (st == Ds.run))
  else .next s

/-- An aborting channel with nothing outstanding halts (R477). -/
def State.dmaSettle (s : State) (i : Nat) : State :=
  let c := s.dma i
  if c.aborting && c.reads.isEmpty then s.dmaHalt i St.done Dc.aborted c.descAddr false else s

/-- PCIE_COMPLETION_RX (R472, R474): data of the oldest read outstanding go to HBM; a zero-length read completes the
host writes before it. -/
def execPcieCompletionRx (ch : Fin 32) (data : Bytes) (s : State) : Out :=
  let i := ch.val
  let c := s.dma i
  if s.dmaState i != Ds.run then .next s else
  match c.desc, c.reads with
  | some d, (off, len) :: rest =>
    if len == 0 then
      let s := s.setDma i { c with reads := rest }
      if c.aborting then .next (s.dmaSettle i)
      else if c.wroteBack then .next (s.dmaFinish i)
      else .next (s.dmaProgress i (d.len - c.done))
    else if data.isEmpty then .next s else
    let b := data.take len
    let left := if b.length < len then (off + b.length, len - b.length) :: rest else rest
    let s := s.setDma i { c with reads := left }
    let (s, ok) := s.writeMem 16 (d.dst + off) b
    if ok then .next ((s.dmaProgress i b.length).dmaSettle i)
    else .next (s.dmaHalt i St.uncorrectable Dc.uncorrectable c.descAddr true)
  | _, _ => .next s

/-- A range split at multiples of `size` (R472): offset and length of each request. -/
def splitAt (addr size : Nat) : Nat → Nat → Nat → List (Nat × Nat)
  | 0, _, _ => []
  | fuel + 1, off, len =>
    if len = 0 then [] else
    let n := min len (size - (addr + off) % size)
    (off, n) :: splitAt addr size fuel (off + n) (len - n)

/-- The channel has bytes to move (R477, R478); in D3hot nothing is issued on the bus (R451). -/
def State.dmaWants (s : State) (i : Nat) : Bool :=
  let c := s.dma i
  s.dmaState i == Ds.run && !c.aborting &&
    c.desc.any (fun d => c.read < d.len && (d.dir == 2 || !s.flag F.hostStat_d3hot))

/-- One piece of at most 4 KiB for channel `i` (R472, R478). -/
def State.dmaPiece (s : State) (i : Nat) : State :=
  let c := s.dma i
  match c.desc with
  | none => s
  | some d =>
    let n := min 4096 (d.len - c.read)
    if d.dir == 0 then
      let reqs := splitAt d.src Config.maxReadRequest 33 c.read n
      let s := forAll reqs (fun (r : Nat × Nat) s => s.emit (.busRead (d.src + r.1) r.2 i)) s
      s.setDma i { c with read := c.read + n, reads := c.reads ++ reqs }
    else match s.readMem (d.src + c.read) n with
    | none => (s.readFailed 16 (d.src + c.read) n).dmaHalt i St.uncorrectable Dc.uncorrectable c.descAddr true
    | some b =>
      let s := s.setDma i { c with read := c.read + n }
      if d.dir == 2 then
        let (s, ok) := s.writeMem 16 (d.dst + c.read) b
        if ok then s.dmaProgress i n else s.dmaHalt i St.uncorrectable Dc.uncorrectable c.descAddr true
      else
        let parts := splitAt (d.dst + c.read) Config.maxPayload 33 0 n
        let s := forAll parts (fun (r : Nat × Nat) s => s.emit (.busWrite (d.dst + c.read + r.1) (sub b r.1 r.2))) s
        if c.read + n == d.len then
          (s.emit (.busRead d.dst 0 i)).setDma i { s.dma i with reads := [(0, 0)] }
        else s

/-- An output ring has something to write and room for it (R461, R478). -/
def State.ringWants (s : State) (k : Nat) : Bool :=
  s.outOpen k && (if k == 5 then
      match s.rawCrops.nextCrop with
      | some (_, d) =>
        let size := s.outSize 5
        let toEnd := size - s.rd F.ringProd_count 5 % size
        size / 2 < d.length || s.outUsed 5 + (if toEnd < d.length then toEnd else 0) + d.length ≤ size
      | none => false
    else (s.outNext k).isSome && s.outUsed k + 1 ≤ s.outSize k)

/-- A piece of an output ring: the entries that fit 4 KiB, at least one. -/
def State.ringPiece (s : State) (k : Nat) : State :=
  if k == 5 then s.writeCrop 4096 else forN (max 1 (4096 / s.outEntry k)) (fun _ s => s.writeEntry k) s

/-- The next requester after `last` in turn. -/
def nextInTurn (last : Nat) (l : List Nat) : Option Nat :=
  match l.find? (fun x => last < x) with
  | some x => some x
  | none => l.head?

/-- DMA_PIECE (R478): the completion ring, the other rings in turn, PRIO 1 channels in turn, PRIO 0 channels in
turn. -/
def execDmaPiece (s : State) : Out :=
  if s.ringWants 0 then .next (s.ringPiece 0) else
  match nextInTurn s.host.lastRing ([1, 2, 3, 4, 5].filter s.ringWants) with
  | some k => .next (({ s with host.lastRing := k } : State).ringPiece k)
  | none =>
    let wants := (List.range 32).filter s.dmaWants
    match nextInTurn s.host.lastHigh (wants.filter (fun i => s.flag F.dmaCtl_prio i)) with
    | some i => .next (({ s with host.lastHigh := i } : State).dmaPiece i)
    | none =>
      match nextInTurn s.host.lastLow (wants.filter (fun i => !s.flag F.dmaCtl_prio i)) with
      | some i => .next (({ s with host.lastLow := i } : State).dmaPiece i)
      | none => .next s

/-- DMA_PIECE_DEFER_EXPIRY (R7, R478): a PRIO 0 channel that has waited 100 µs takes one guaranteed piece. -/
def execDmaPieceDeferExpiry (ch : Fin 32) (s : State) : Out :=
  let i := ch.val
  .next (if s.dmaWants i && !s.flag F.dmaCtl_prio i then s.dmaPiece i else s)

/-- Every channel halted by a host reset (R452). -/
def State.dmaHostReset (s : State) : State :=
  forN 32 (fun i s =>
    let busy := s.dmaState i == Ds.fetch || s.dmaState i == Ds.run || s.dmaState i == Ds.wait
    let g := (s.dma i).gen
    let s := s.setDma i { s.dma i with desc := none, reads := [], aborting := false }
    let s := (s.wr F.dmaStat_state i Ds.halted).wr F.dmaStat_cause i Dc.hostReset
    if busy then s.event (106 + 2 * i) g 0xC1 else s) s

end Sys2Proof.Machine
end

