-- ==== Sys2Proof/Machine/Link.lean ====
section
/-! DEFINITION. Reception on the Uhlus lanes (R98 to R106): sync headers, descrambling, alignment markers, bonds, and the
blocks of the Sensor, Blanker and Sync Link profiles as they reach their blocks. -/

namespace Sys2Proof.Machine

/-! ### Descrambling (R101) -/

/-- The payload of a scrambled block and the descrambler's next 58 bits: x⁵⁸ + x³⁹ + 1 in transmission order. -/
def descramble (h payload : Nat) : Nat × Nat :=
  let full := h + payload * 2 ^ 58
  ((full / 2 ^ 58 ^^^ full / 2 ^ 19 ^^^ full) % 2 ^ 64, full / 2 ^ 64)

/-- The exclusive or of a payload's eight bytes (R103). -/
def bip8 (payload : Nat) : Nat := (leBytes 8 payload).foldl (fun a b => a ^^^ b.toNat) 0

/-! ### Bonds (R104 to R106) -/

/-- The profile of a quad. -/
def State.quad (s : State) (q : Nat) : QuadProfile := Sparse.get (fun _ => ⟨0, 0, 0, 0, [], 0, 0, 0⟩) s.cfg.quads q

/-- The logical lane that lane `n` is to carry. -/
def State.logicalOf (s : State) (n : Nat) : Nat :=
  if s.laneRole n == Role.sensor then bits (s.quad (n / 4)).logicalMap (2 * (n % 4)) 2 else 0

/-- What a role does when the bond of lane `n` comes UP: the first item of every stream is in order (R114). -/
def State.bondUpHook (s : State) (n : Nat) : State :=
  let r := s.laneRole n
  if r == Role.sensor then s.sensorBondUp (n / 4)
  else if r == Role.blanker then
    let s := s.setLaidCh n { s.laidCh n with fresh := false }
    forN 4 (fun k s => s.setSport (4 * n + k) { s.sport (4 * n + k) with started := false }) s
  else match s.syncIndex n with
    | some i => forN 8 (fun a s => s.setSport (192 + 8 * i + a) { s.sport (192 + 8 * i + a) with started := false }) s
    | none => s

/-- What a role does when the bond of lane `n` goes down (R115, R207, R375). -/
def State.bondDownHook (s : State) (n : Nat) : State :=
  let r := s.laneRole n
  if r == Role.sensor then s.sensorBondDown (n / 4)
  else if r == Role.blanker then (s.backBreak n).drvLaneDown n
  else match s.syncIndex n with
    | some i => forN 8 (fun a s => s.dropCredits (192 + 8 * i + a)) s
    | none => s

/-- The bond of lane `n` comes UP. -/
def State.bondUp (s : State) (n : Nat) : State :=
  let lanes := s.bondLanes n
  let s := forAll lanes (fun m s =>
    ((s.wr F.laneStat_state m Ls.up).up F.laneStat_bondUp m).setLane m { s.lane m with sample := none }) s
  let s := { s with links.turn := Sparse.set (fun _ => 0) s.links.turn (lanes.headD n) 0 }
  s.bondUpHook n

/-- The bond of lane `n` goes down (R106): its lanes keep their lock, and their deskew buffers empty. -/
def State.bondDown (s : State) (n : Nat) : State :=
  if !s.flag F.laneStat_bondUp n then s else
  let s := forAll (s.bondLanes n) (fun m s =>
    let s := if s.laneState m == Ls.up then (s.count F.laneLockLoss_count m 1).wr F.laneStat_state m Ls.aligned else s
    (s.down F.laneStat_bondUp m).setLane m { s.lane m with fifo := [], sample := none }) s
  s.bondDownHook n

/-- A lane falls back to an earlier state of R102, its bond with it. -/
def State.laneFalls (s : State) (n st : Nat) : State :=
  let s := s.bondDown n
  let l := s.lane n
  let l := { l with good := 0, recent := [], pos := none, missing := 0, bipKnown := false, marker := none, fifo := [] }
  (s.setLane n l).wr F.laneStat_state n st

/-- The receiver of a lane off (R96, R102). -/
def State.laneOff (s : State) (n : Nat) : State :=
  if s.laneState n == Ls.off then s else
  let s := if s.laneState n == Ls.up && !uhlusRole (s.laneRole n) then s.count F.laneLockLoss_count n 1 else s
  s.laneFalls n Ls.off

/-- Marker arrivals of a bond after a marker on lane `n` in block slot `slot` (R104): `none` while another lane's marker
of the same round is still to come; else the greatest skew. -/
def State.bondSkew (s : State) (n slot : Nat) : Option Nat :=
  let ages := (s.bondLanes n).map (fun m => ((s.lane m).marker).map (fun t => slot - t))
  if ages.any (fun a => a.isNone || a.any (fun x => 16343 < x)) then none
  else some ((ages.map (fun a => a.getD 0)).foldl max 0)

/-- The conditions of R104, at a marker on lane `n`: the bond comes up or goes down. -/
def State.bondCheck (s : State) (n slot : Nat) : State :=
  let lanes := s.bondLanes n
  let link := (s.quad (n / 4)).linkId
  let linkBad (m : Nat) : Bool := link != 0 && s.rd F.laneStat_linkIdRx m != link
  let s := if linkBad n then s.up F.laneEvent_linkIdMismatch n else s
  let code := if lanes.length == 4 then 2 else if lanes.length == 2 then 1 else 0
  let mapped := lanes.all (fun m => s.rd F.laneStat_logical m == s.logicalOf m && (s.lane m).width == code)
  let aligned := lanes.all (fun m => s.laneState m == Ls.aligned || s.laneState m == Ls.up)
  if !aligned then s.bondDown n else
  match s.bondSkew n slot with
  | none => if mapped && !linkBad n then s else s.bondDown n
  | some k =>
    let first := lanes.foldl (fun a m => min a ((s.lane m).marker.getD slot)) slot
    let s := forAll lanes (fun m s => s.wr F.laneStat_skew m (min 63 ((s.lane m).marker.getD slot - first))) s
    let s := if 40 < k then s.up F.laneEvent_skewOver n else s
    if 40 < k || !mapped || lanes.any linkBad then s.bondDown n
    else if s.flag F.laneStat_bondUp n then s else s.bondUp n

/-! ### Blocks of the profiles -/

/-- A block of the Sensor Link at port `p`, carried by lane `n` (R193, R200 to R208). -/
def State.sensorCtrl (s : State) (n p v : Nat) : State :=
  let b1 := bits v 8 8
  let k := b1 % 4
  let tag := bits v 16 32
  let b6 := bits v 48 8
  match v % 256 with
  | 0x30 => if bits b1 2 4 != 0 || b6 != 0 then s.ctrlErr n else s.lineStart p k (b1 / 64) tag
  | 0x31 => if b1 / 4 != 0 then s.ctrlErr n else s.lineEnd p k tag b6 n
  | 0x32 => if b1 / 4 != 0 || b6 != 0 then s.ctrlErr n else s.frameStart p k tag n
  | 0x33 => if b1 / 4 != 0 || b6 != 0 then s.ctrlErr n else s.frameEnd p k n
  | 0x35 =>
    if bits v 24 32 != 0 then s.ctrlErr n else
    let s := s.burstBroken p
    s.setHbPort p { s.hbPort p with ack := some ⟨k, bit b1 2, b1 / 8, bits v 16 8⟩ }
  | 0x36 =>
    if b1 / 16 != 0 || b6 != 0 then s.ctrlErr n else
    s.camStatus p k (bit b1 2) (bit b1 3) (bits v 16 16) (bits v 32 16) n
  | _ => s.ctrlErr n

/-- A CAM_ACK is completed by the data block that follows it directly, and by nothing else (R200, R201). -/
def State.ackNext (s : State) (p : Nat) (data : Option Nat) : State × Bool :=
  match (s.hbPort p).ack with
  | none => (s, false)
  | some a =>
    let s := s.setHbPort p { s.hbPort p with ack := none }
    (s.camAck p a.sensor a.ctag a.result data, data.isSome)

/-- An upstream block of channel `h` discarded as malformed (R374). -/
def State.upstreamBad (s : State) (h : Nat) : State := (s.ctrlErr h).count F.laidChErr_statusBad h 1

/-- A control block of the Blanker Link, upstream on channel `h` (R368, R374, R387, R394). -/
def State.blankerCtrl (s : State) (h v : Nat) : State :=
  match v % 256 with
  | 0x35 => if bits v 14 2 != 0 || bits v 24 32 != 0 then s.upstreamBad h else s.backStart h true v
  | 0x36 => s.drvStatus h (bits v 8 16) (bits v 24 8) (bits v 32 8) (bits v 40 16)
  | 0x37 =>
    let (s, taken) := s.takeSeq (4 * h + 2) 16 (bits v 40 16) (some h)
    if taken then s.backStart h false v else s.setScreeCh h { s.screeCh h with discard := bits v 32 8 }
  | _ => s.upstreamBad h

/-- A sample that is not whole (R150). -/
def State.sampleBroken (s : State) (n : Nat) : State :=
  let l := s.lane n
  if l.sample.isNone then s else (s.setLane n { l with sample := none }).count F.reelFollowErr_malformed 0 1

/-- A data block on lane `n` (R149, R150, R206, R387). -/
def State.profileData (s : State) (n v : Nat) : State :=
  let r := s.laneRole n
  if r == Role.sensor then
    let (s, used) := s.ackNext (n / 4) (some v)
    if used then s else s.sensorData (n / 4) v n
  else if r == Role.blanker then
    let (s, used) := s.backData n v
    if used then s else s.upstreamBad n
  else
    let l := s.lane n
    match l.sample with
    | none => s.ctrlErr n
    | some x =>
      match x.first with
      | none => s.setLane n { l with sample := some { x with first := some v } }
      | some d1 =>
        let s := s.setLane n { l with sample := none }
        match s.syncIndex n with
        | some i => s.syncSample i x.ctrl d1 v x.arrival
        | none => s

/-- A profile's control block on lane `n`. -/
def State.profileCtrl (s : State) (n v arrival : Nat) : State :=
  let r := s.laneRole n
  if r == Role.sensor then s.sensorCtrl n (n / 4) v
  else if r == Role.blanker then s.blankerCtrl n v
  else if v % 256 == 0x30 then s.setLane n { s.lane n with sample := some ⟨v, arrival, none⟩ }
  else s.ctrlErr n

/-- What another block than data does to what was being received on lane `n`'s bond: any block ends the wait of a
CAM_ACK and of a sample; any but IDLE ends a line burst (R206) and a back-channel message (R396). -/
def State.interrupts (s : State) (n : Nat) (idle : Bool) : State :=
  let r := s.laneRole n
  if r == Role.sensor then (s.ackNext (n / 4) none).1
  else if r == Role.blanker then if idle then s else s.backBreak n
  else s.sampleBroken n

/-- A common control block within a burst breaks it (R196, R206). -/
def State.commonBreaks (s : State) (n : Nat) : State :=
  if s.laneRole n == Role.sensor then s.burstBroken (n / 4) else s

/-- A control block reassembled from lane `n` (R99, R100, R105). -/
def State.ctrlRx (s : State) (n v meas : Nat) : State :=
  let idle := v % 256 == 0x1E && bits v 8 48 == 0
  let s := s.interrupts n idle
  if crc8 (leBytes 7 v) != v / 2 ^ 56 then s.ctrlErr n else
  match v % 256 with
  | 0x1E => if idle then s else s.ctrlErr n
  | 0x2D => if bits v 18 6 != 0 || bits v 40 16 != 0 then s.ctrlErr n
            else (s.commonBreaks n).creditRx n (bits v 8 10) (bits v 24 16)
  | 0x78 => if bits v 24 32 != 0 then s.ctrlErr n else (s.commonBreaks n).answerProbe n (bits v 8 16)
  | 0x87 => if bits v 40 16 != 0 then s.ctrlErr n else (s.commonBreaks n).echo n (bits v 8 16) (bits v 24 16) meas
  | t => if 0x30 ≤ t && t ≤ 0x6F then s.profileCtrl n v meas else s.ctrlErr n

/-- A block lost to an invalid sync header, as the profile is told (R100, R206). -/
def State.lostRx (s : State) (n : Nat) : State :=
  let s := s.interrupts n false
  if s.laneRole n == Role.sensor then s.burstBroken (n / 4) else s

/-- A block of the bond stream. -/
def State.deliver (s : State) (n : Nat) (b : LaneBlk) : State :=
  if b.lost then s.lostRx n else if b.ctrl then s.ctrlRx n b.payload b.meas else s.profileData n b.payload

/-- The bond stream reassembled (R105): block i from logical lane i mod N. -/
def State.drainBond (s : State) (n : Nat) : Nat → State
  | 0 => s
  | fuel + 1 =>
    let lanes := s.bondLanes n
    let first := lanes.headD n
    let turn := Sparse.get (fun _ => 0) s.links.turn first
    match lanes.find? (fun m => s.logicalOf m == turn) with
    | none => s
    | some m =>
      let l := s.lane m
      match l.fifo with
      | [] => s
      | b :: rest =>
        let s := s.setLane m { l with fifo := rest }
        let s := { s with links.turn := Sparse.set (fun _ => 0) s.links.turn first ((turn + 1) % lanes.length) }
        State.drainBond (s.deliver m b) n fuel

/-! ### Markers and lock (R100 to R103) -/

/-- The ALIGN that was expected has not come, or came elsewhere (R102). -/
def State.markerMissing (s : State) (n : Nat) : State :=
  let l := s.lane n
  let s := s.setLane n { l with bipKnown := false }
  if s.laneState n == Ls.blockLock then s.setLane n { s.lane n with pos := none }
  else if l.missing + 1 < 4 then s.setLane n { s.lane n with missing := l.missing + 1 }
  else (s.laneFalls n Ls.blockLock).up F.laneEvent_alignLost n

/-- A valid ALIGN on lane `n` at its place (R99, R103, R104). -/
def State.markerTaken (s : State) (n v slot : Nat) (expected : Bool) : State :=
  let l := s.lane n
  let bad := l.bipKnown && l.bip != bits v 32 8
  let s := if bad then (s.count F.laneErrBip_count n 1).up F.laneEvent_bipErr n else s
  let s := s.wr F.laneStat_logical n (bits v 8 2)
  let s := s.wr F.laneStat_linkIdRx n (bits v 40 8)
  let fifo := if s.flag F.laneStat_bondUp n then l.fifo else []
  let s := s.setLane n { l with
    pos := some 0, missing := 0, bip := 0, bipKnown := true, marker := some slot, width := bits v 10 2, fifo := fifo }
  if s.laneState n == Ls.blockLock then
    if expected then (s.wr F.laneStat_state n Ls.aligned).bondCheck n slot else s
  else s.bondCheck n slot

/-- A raw block that is an ALIGN of the lane's profile with its CRC-8 right. -/
def State.isAlign (s : State) (n payload : Nat) : Bool :=
  payload % 256 == 0xA5 && crc8 (leBytes 7 payload) == payload / 2 ^ 56 && bits payload 48 8 == 0 &&
  bits payload 12 4 == s.laneRole n

/-- A block that is not ALIGN enters the deskew buffer, which holds 48 while the bond is down (R104). -/
def State.enqueueBlk (s : State) (n : Nat) (b : LaneBlk) : State :=
  let l := s.lane n
  let st := s.laneState n
  if st == Ls.up then (s.setLane n { l with fifo := l.fifo ++ [b] }).drainBond n (4 * (l.fifo.length + 1))
  else if st == Ls.aligned && l.fifo.length < 48 then s.setLane n { l with fifo := l.fifo ++ [b] }
  else s

/-- A block with a valid or invalid sync header on a lane in lock (R100 to R103). -/
def State.lockedBlk (s : State) (n header payload meas : Nat) : State :=
  let l := s.lane n
  let valid := header == 1 || header == 2
  let recent := (valid :: l.recent).take 64
  let s := s.setLane n { l with recent := recent, pos := l.pos.map (· + 1) }
  let s := if valid then s else s.count F.laneErrSh_count n 1
  if 16 ≤ (recent.filter (fun v => !v)).length then (s.laneFalls n Ls.blockHunt).up F.laneEvent_blockLost n else
  let due := (s.lane n).pos == some 16384
  let s := if due then s.setLane n { s.lane n with pos := some 0 } else s
  if header == 1 && s.isAlign n payload then
    if due || s.laneState n == Ls.blockLock then s.markerTaken n payload meas due else s.markerMissing n
  else if due then
    -- the marker's place: its block is not scrambled
    let s := if valid && header == 1 then s.ctrlErr n else s
    s.markerMissing n
  else
    let l := s.lane n
    let (plain, descr) := descramble l.descr payload
    let s := s.setLane n { l with descr := descr, bip := l.bip ^^^ bip8 payload, first := false }
    if l.first then s else s.enqueueBlk n ⟨!valid, header == 1, plain, meas⟩

/-- LANE_BLOCK_RX (R98 to R106): `header` holds H0 in bit 0 and H1 in bit 1, `payload` byte 0 lowest, as received.
`measured` is what the quad island measures at the block: the block slot of an ALIGN's arrival, the round trip of an ECHO
in taps, the marked instant of a SAMPLE as a 32.32 Reel time. -/
def execLaneBlockRx (lane : Fin 64) (header : BitVec 2) (payload : BitVec 64) (measured : BitVec 64) (s : State) : Out :=
  let n := lane.val
  let st := s.laneState n
  if !uhlusRole (s.laneRole n) then .next s
  else if st == Ls.blockHunt then
    let l := s.lane n
    let good := if header == 1 || header == 2 then l.good + 1 else 0
    if good < 64 then .next (s.setLane n { l with good := good })
    else
      .next ((s.setLane n { l with
        good := 0, recent := [], pos := none, missing := 0, bipKnown := false, first := true, marker := none, fifo := [] }).wr
        F.laneStat_state n Ls.blockLock)
  else if s.inLock n then .next (s.lockedBlk n header.toNat payload.toNat measured.toNat)
  else .next s

/-! ### Loss of the clock, RELOCK, reference clocks (R96, R102) -/

/-- CDR_LOST (R102). -/
def execCdrLost (lane : Fin 64) (s : State) : Out :=
  let n := lane.val
  if !s.inLock n then .next s else
  let s := if uhlusRole (s.laneRole n) then s else s.count F.laneLockLoss_count n 1
  .next ((s.laneFalls n Ls.cdrAcq).up F.laneEvent_cdrLost n)

/-- LANE_RELOCK (R102, R118): a write of RELOCK. -/
def execLaneRelock (lane : Fin 64) (s : State) : Out :=
  let n := lane.val
  if s.laneLocked n false then
    .next (s.accessFault Af.lockedWrite (F.laneCtl_squelch.addr n) (0x10 + n / 4) true) else
  let st := s.laneState n
  if st == Ls.off || st == Ls.prbs || st == Ls.loopback then .next s else
  let s := if st == Ls.up && !uhlusRole (s.laneRole n) then s.count F.laneLockLoss_count n 1 else s
  .next (s.laneFalls n Ls.cdrAcq)

/-- The lanes of a quad leave OFF, or go to OFF, with its reference (R96). -/
def State.refclk (s : State) (q : Nat) (ok : Bool) : State :=
  let s := (s.wr F.laneQuadStat_refclkOk q (b2n ok)).wr F.laneQuadStat_pllLock q (b2n ok)
  forN 4 (fun i s => if ok then s.laneStart (4 * q + i) else s.laneOff (4 * q + i)) s

/-- REFCLK_CHANGE (R96): a quad that takes its transmit PLL from its reference pair. -/
def execRefclkChange (quad : Fin 16) (ok : Bool) (s : State) : Out :=
  let q := quad.val
  if s.rd F.laneQuadStat_role q == 0 || (s.quad q).refclk != 1 then .next s else .next (s.refclk q ok)

/-- STATE of a lane under PRBS or loopback, which run only in MAINTAIN (R117); a lane that leaves them starts anew. -/
def State.laneTest (s : State) (n : Nat) : State :=
  let on (p : Nat) : Bool := 1 ≤ p && p ≤ 5
  let st := s.laneState n
  let maintain := s.mode == Md.maintain
  if st == Ls.off then s
  else if maintain && s.rd F.laneCtl_loopback n == 1 then (if st == Ls.loopback then s else s.laneFalls n Ls.loopback)
  else if maintain && (on (s.rd F.lanePrbsCtl_txPat n) || on (s.rd F.lanePrbsCtl_rxPat n)) then
    (if st == Ls.prbs then s else s.laneFalls n Ls.prbs)
  else if st == Ls.prbs || st == Ls.loopback then s.laneFalls n Ls.cdrAcq
  else s

end Sys2Proof.Machine
end

