-- ==== Sys2Proof/Machine/Net.lean ====
section
/-! DEFINITION. The Ethernet ports (R165 to R167), the record-stream offload (R185 to R190), network samples (R155) and the
datagrams of management streams (R526). -/

namespace Sys2Proof.Machine

/-! ### The stream port window (R113) -/

/-- The device sends on network record stream `j`: some block's records, statistics or gap records are routed to it. -/
def State.streamSends (s : State) (j : Nat) : Bool :=
  (s.inspectImage && destNet (s.rd F.couchCtl_dest) && s.rd F.couchCtl_netStream == j) ||
  (s.inspectImage && destNet (s.rd F.couchCtl_statsDest) && s.rd F.couchCtl_statsStream == j) ||
  (s.exposeImage && destNet (s.rd F.laidCtl_gapDest) && s.rd F.laidCtl_gapStream == j)

/-- A follower takes samples from the network (R148, R155). -/
def State.netFollower (s : State) : Bool :=
  (s.rd F.reelFollowCtl_role == 2 || s.rd F.reelFollowCtl_role == 3) && s.rd F.reelTrackCtl_src == 9

/-- Stream `j` carries samples to this device. -/
def State.samplePort (s : State) (j : Nat) : Bool := s.netFollower && s.flag F.streamCfg_enable j && !s.streamSends j

/-- The image has a network port. -/
def State.hasNet (s : State) : Bool := (List.range 16).any s.macPort

/-- CLASS, DIR, FC and LANE of a stream port (R113): class 0 for an inactive one. -/
def State.sportClass (s : State) (p : Nat) : Nat × Bool × Bool × Nat :=
  let off := (0, false, false, 0)
  if p < 192 then
    if s.inspectImage then
      let q := p / 16
      let k := p % 4
      if s.laneRole (4 * q) == Role.sensor && bit (s.rd F.headboxPortCtl_sensors q) (p / 4 % 4) then
        (1 + k, k == 1 || k == 2, false, 4 * q)
      else off
    else if s.exposeImage then
      let n := p / 4
      let k := p % 4
      if s.laneRole n == Role.blanker && s.laneUsed n then (5 + k, k == 0 || k == 3, false, n) else off
    else off
  else if p < 256 then
    match s.syncLane ((p - 192) / 8) with
    | some n =>
      let role := s.rd F.reelFollowCtl_role
      (9, (role == 1 || role == 3) && bit (s.rd F.reelFollowCtl_txLanes) ((p - 192) / 8), true, n)
    | none => off
  else if p < 512 then
    if s.flag F.streamCfg_enable (p - 256) then
      (10, !s.samplePort (p - 256), true, 48 + s.rd F.streamCfg_egress (p - 256))
    else off
  else if p < 768 then
    if s.exposeImage && s.flag F.lstreamCfg_enable (p - 512) then
      (11, false, true, 48 + s.rd F.lstreamCfg_lstreamEgress (p - 512))
    else off
  else if p < 776 && s.hasNet then (12, false, true, 48 + (Sparse.get (fun _ => {}) s.host.streams (p - 768) : MgmtStream).port)
  else off

/-- SPORT_CFG of port `p` brought up to date. -/
def State.showSport (s : State) (p : Nat) : State :=
  let (c, dir, fc, lane) := s.sportClass p
  let s := ((s.wr F.sportCfg_class p c).wr F.sportCfg_dir p (b2n dir)).wr F.sportCfg_fc p (b2n fc)
  (s.wr F.sportCfg_lane p lane).showCredit p

/-- SPORT_CFG of every port brought up to date. -/
def State.showSports (s : State) : State := forN 1024 (fun p s => s.showSport p) s

/-! ### Datagrams sent (R185 to R188) -/

/-- The one's complement sum of a byte string by 16-bit words. -/
def onesSum : Bytes → Nat
  | [] => 0
  | [a] => a.toNat * 256
  | a :: b :: t => a.toNat * 256 + b.toNat + onesSum t

/-- The Internet checksum of a sum. -/
def onesCheck (n : Nat) : Nat :=
  let n := n % 65536 + n / 65536
  let n := n % 65536 + n / 65536
  65535 - (n % 65536 + n / 65536) % 65536

/-- The header of template `t` filled in for a UDP payload (R185). -/
def fillTemplate (hdrLen : Nat) (csum : Bool) (h payload : Bytes) (ident : Nat) : Bytes :=
  let ip := ipOffset hdrLen
  let h := h.take hdrLen
  let h := patch h (ip + 2) (beBytes 2 (28 + payload.length) ++ beBytes 2 ident)
  let h := patch h (ip + 10) (zeros 2)
  let h := patch h (ip + 10) (beBytes 2 (onesCheck (onesSum (sub h ip 20))))
  let h := patch h (ip + 24) (beBytes 2 (8 + payload.length) ++ zeros 2)
  let h := if !csum then h else
    let pseudo := sub h (ip + 12) 8 ++ ofNats [0, 17] ++ beBytes 2 (8 + payload.length)
    let c := onesCheck (onesSum (pseudo ++ sub h (ip + 20) 8 ++ payload))
    patch h (ip + 26) (beBytes 2 (if c == 0 then 65535 else c))
  h ++ payload

/-- Port `e` carries frames. -/
def State.macUp (s : State) (e : Nat) : Bool := s.macPort e && s.flag F.macStat_linkUp e

/-- A UDP payload sent with template `t` on port `e` (R185). -/
def State.sendUdp (s : State) (t e : Nat) (payload : Bytes) : State :=
  let id := s.rd F.templateCtl_ident t
  let f := fillTemplate (s.rd F.templateCtl_hdrLen t) (s.flag F.templateCtl_csum t) (s.templateBytes t) payload id
  (s.sendMac e f).wr F.templateCtl_ident t (id + 1)

/-- A datagram's payload: stream header and items (R186). -/
def streamPayload (type port count seq : Nat) (items : Bytes) : Bytes :=
  let h := ofNats [0x4C, 0x46, 1, type] ++ leBytes 2 port ++ leBytes 2 count ++ leBytes 4 seq
  h ++ leBytes 4 (crc32c (h ++ items)) ++ items

/-- The next sequence number of a network stream port taken (R114, R186). -/
def State.takeTx (s : State) (p : Nat) : Nat × State :=
  let v := s.sport p
  let s := s.setSport p { v with txNext := (v.txNext + 1) % 2 ^ 32 }
  (v.txNext, if s.flag F.sportCfg_dir p then s.wr F.sportSeq_seq p v.txNext else s)

/-- UDP payload bytes a stream may use: 64 to 9,554 (stream table). -/
def State.maxPayload (s : State) (j : Nat) : Nat := clampNat 64 9554 (s.rd F.streamLim_maxPayload j)

/-- Items of `size` bytes a datagram of stream `j` carries at most (R187). -/
def State.maxItems (s : State) (j size : Nat) : Nat := min (s.rd F.streamCfg_maxItems j) ((s.maxPayload j - 16) / size)

/-- The sources routed to stream `j`: datagram TYPE, FIFO and item size. -/
def State.streamSources (s : State) (j : Nat) : List (Nat × List OutItem × Nat) :=
  (if s.inspectImage && destNet (s.rd F.couchCtl_dest) && s.rd F.couchCtl_netStream == j
    then [(1, s.couch.records, 64)] else []) ++
  (if s.inspectImage && destNet (s.rd F.couchCtl_statsDest) && s.rd F.couchCtl_statsStream == j
    then [(3, s.stats.fifo, 1600)] else []) ++
  (if s.exposeImage && destNet (s.rd F.laidCtl_gapDest) && s.rd F.laidCtl_gapStream == j
    then [(2, s.laid.gaps, 32)] else [])

/-- A FIFO whose first `n` items that wait for the network have been sent (R317). -/
def netTake : Nat → List OutItem → List OutItem
  | 0, l => l
  | _ + 1, [] => []
  | n + 1, i :: t =>
    if i.net then (if i.ring then { i with net := false } :: netTake n t else netTake n t) else i :: netTake (n + 1) t

/-- The source of a datagram TYPE without the items sent. -/
def State.netTaken (s : State) (type n : Nat) : State :=
  match type with
  | 1 => { s with couch.records := netTake n s.couch.records }.showCouch
  | 2 => { s with laid.gaps := netTake n s.laid.gaps }.showGaps
  | _ => { s with stats.fifo := netTake n s.stats.fifo }.showStats

/-- A datagram of stream `j` sent, once a source holds MAX_ITEMS items, or any at all where `flush` (R187). -/
def State.sendStream (s : State) (j : Nat) (flush : Bool) : State :=
  let t := s.rd F.streamCfg_template j
  let e := s.rd F.streamCfg_egress j
  if !s.flag F.streamCfg_enable j || !s.flag F.templateCtl_valid t || !s.macUp e then s else
  let due (src : Nat × List OutItem × Nat) : Bool :=
    let m := s.maxItems j src.2.2
    let n := (src.2.1.filter (·.net)).length
    0 < m && (m ≤ n || (flush && 0 < n))
  match (s.streamSources j).find? due with
  | none => s
  | some (type, fifo, size) =>
    let items := (fifo.filter (·.net)).take (s.maxItems j size)
    let flits := (16 + items.length * size + 63) / 64
    let p := 256 + j
    if s.creditLeft p < flits then s.stall p flits else
    let s := s.spend p flits
    let (seq, s) := s.takeTx p
    let s := s.netTaken type items.length
    s.sendUdp t e (streamPayload type p items.length seq (items.flatMap (·.data)))

/-- STREAM_DATAGRAM_TX (R187). -/
def execStreamDatagramTx (stream : Fin 256) (s : State) : Out := .next (s.sendStream stream.val false)

/-- STREAM_FLUSH_TIMEOUT (R187): the oldest item has waited FLUSH_US. -/
def execStreamFlushTimeout (stream : Fin 256) (s : State) : Out := .next (s.sendStream stream.val true)

/-- The template and port of the credits for a stream port on which the device receives (R188, R330, R526). -/
def State.creditRoute (s : State) (p : Nat) : Option (Nat × Nat) :=
  if 256 ≤ p && p < 512 then
    if s.samplePort (p - 256) then some (s.rd F.streamCfg_template (p - 256), s.rd F.streamCfg_egress (p - 256)) else none
  else if 512 ≤ p && p < 768 then
    if s.exposeImage && s.flag F.lstreamCfg_enable (p - 512) then
      some (s.rd F.lstreamCfg_lstreamTemplate (p - 512), s.rd F.lstreamCfg_lstreamEgress (p - 512))
    else none
  else if 768 ≤ p && p < 776 then
    if s.flag F.secMgmt_open (p - 768) then
      some (s.rd F.secMgmt_mgmtTemplate (p - 768), (Sparse.get (fun _ => {}) s.host.streams (p - 768) : MgmtStream).port)
    else none
  else none

/-- CREDIT_DATAGRAM_TX (R188, R330): LIMIT of a stream port in a TYPE 5 datagram. -/
def execCreditDatagramTx (port : Fin 1024) (s : State) : Out :=
  let p := port.val
  match s.creditRoute p with
  | none => .next s
  | some (t, e) =>
    if !s.flag F.templateCtl_valid t || !s.macUp e then .next s else
    let s := if 512 ≤ p && p < 768 then s.layoutGrant (p - 512) else s
    let (seq, s) := s.takeTx p
    .next (s.sendUdp t e (streamPayload 5 p 1 seq (leBytes 2 p ++ leBytes 2 (s.limitOf p))))

/-! ### The links (R166, R188) -/

/-- ETH_LINK_UP (R166). -/
def execEthLinkUp (port : Fin 16) (s : State) : Out :=
  let e := port.val
  if !s.macPort e then .next s else
  let r := s.laneRole (48 + e)
  let opt := bit (s.quad (12 + e / 4)).roleOpt 0
  let s := s.up F.macStat_linkUp e
  let s := s.wr F.macStat_anDone e (b2n (r == Role.kr4 && opt))
  let s := s.wr F.macStat_fecOn e (b2n (r != Role.eth25 || opt))
  .next (s.wr F.macStat_speed e (if r == Role.eth25 then 1 else 2))

/-- ETH_LINK_DOWN (R188): SENT and LIMIT of the port's streams return to 0. -/
def State.ethDown (s : State) (e : Nat) : State :=
  let s := ((s.down F.macStat_linkUp e).down F.macStat_anDone e).down F.macStat_fecOn e
  let s := s.wr F.macStat_speed e 0
  let s := forN 256 (fun j s => if s.rd F.streamCfg_egress j == e then s.dropCredits (256 + j) else s) s
  let s := forN 256 (fun j s =>
    if s.rd F.lstreamCfg_lstreamEgress j == e then (s.wr F.lstreamCfg_granted j 0).dropCredits (512 + j) else s) s
  forN 8 (fun m s =>
    if (Sparse.get (fun _ => {}) s.host.streams m : MgmtStream).port == e then s.dropCredits (768 + m) else s) s

/-- ETH_LINK_DOWN (R188). -/
def execEthLinkDown (port : Fin 16) (s : State) : Out := .next (s.ethDown port.val)

/-! ### Frames received (R167, R189) -/

/-- The sequence rule of R114 with w = 32 for a datagram taken by the device: the state, and whether it is taken. -/
def State.netSeq (s : State) (p m : Nat) : State × Bool :=
  let v := s.sport p
  let take (s : State) : State :=
    let s := s.setSport p { v with rxLast := some m }
    if s.flag F.sportCfg_dir p then s else s.wr F.sportSeq_seq p m
  match v.rxLast with
  | none => (take s, true)
  | some l =>
    let d := (m + 2 ^ 32 - l) % 2 ^ 32
    if d == 0 || 2 ^ 31 ≤ d then (s, false) else (take (s.count F.sportGaps_gaps p (d - 1)), true)

/-- A TYPE 4 item (R155, R190): the sample of a leader, as taken by a follower with SRC = 9. -/
def State.netSample (s : State) (j : Nat) (b : Bytes) : State :=
  let s := s.grant (256 + j) 1
  -- bytes 0 to 4 are SAMPLE bytes 1 to 5: flags, SEQ, HOPS, LEADER_ID
  let leader := leAt b 4 1
  let want := s.rd F.reelFollowCtl_leaderId
  let crc := crc16 (sub b 0 5 ++ sub b 8 8 ++ sub b 16 6)
  if crc != leAt b 22 2 || 4 ≤ leAt b 3 1 || (want != 0 && leader != want) || leAt b 0 1 / 64 != 0 || leAt b 5 3 != 0 then
    s.count F.reelFollowErr_malformed 0 1
  else
    let s := s.wr F.reelFollowStat_hopsRx 0 0
    let s := s.wr F.reelFollowStat_leaderRx 0 leader
    -- the leader's time, read on the follower's own counter
    let ago := signed 32 (s.ns + 2 ^ 32 - leAt b 24 4)
    s.takeSample (signed 64 (leAt b 8 8)) (signed 48 (leAt b 16 6)) ((s.nowNs : Int) - ago).toNat

/-- A management stream beyond its register. -/
def State.mgmt (s : State) (m : Nat) : MgmtStream := Sparse.get (fun _ => {}) s.host.streams m
def State.setMgmt (s : State) (m : Nat) (v : MgmtStream) : State :=
  { s with host.streams := Sparse.set (fun _ => {}) s.host.streams m v }

/-- The tag of a management datagram (R526): over its payload up to the tag, without bytes 12 to 15. -/
def State.mgmtTag (s : State) (m : Nat) (out : Bool) (seq : Nat) (payload : Bytes) : Nat :=
  let key := (Sparse.get (fun _ => {}) s.keys (s.rd F.secMgmt_mgmtSlot m) : KeySlot).key
  let epoch := (s.mgmt m).epoch % 2 ^ 63 + b2n out * 2 ^ 63
  gcmTag key (beNat (leBytes 8 epoch ++ leBytes 4 seq)) (payload.take 12 ++ payload.drop 16) []

/-- A refused or accepted entry of a management stream (R455, R526). -/
def State.mgmtEntry (s : State) (m : Nat) (entry : Bytes) : State :=
  let v := s.mgmt m
  let cseq := leAt entry 0 4
  let op := leAt entry 4 2
  match entryFault entry v.accepted with
  | some (status, accepted) =>
    let s := if accepted then s.setMgmt m { v with accepted := cseq } else s
    s.refuseEntry cseq op status false accepted (some m)
  | none =>
    let s := s.setMgmt m { v with accepted := cseq }
    { s with host.outstanding := s.host.outstanding ++ [outCmd entry (some m)] }.showOutstanding

/-- A TYPE 6 datagram (R526): the tag, the sequence, then the entry. MGMT_HELLO needs no tag and restarts the stream's
series. -/
def State.mgmtDatagram (s : State) (e m : Nat) (b : Bytes) : State :=
  let p := 768 + m
  let entry := sub b 16 64
  let seq := leAt b 8 4
  let zero := (sub entry 7 1 ++ sub entry 56 4).all (· == 0) && leAt entry 6 1 < 4
  let hello := leAt entry 60 4 == crc32c (entry.take 60) && zero && leAt entry 4 2 == 0x72
  let body := b.take (b.length - 16)
  if hello then
    let s := s.setSport p { s.sport p with rxLast := some seq }
    let s := (s.setMgmt m { epoch := (s.mgmt m).epoch, port := e }).grant p ((b.length + 63) / 64)
    { s with host.outstanding := s.host.outstanding ++ [outCmd entry (some m)] }.showOutstanding
  else if !s.flag F.secMgmt_open m || beNat (b.drop (b.length - 16)) != s.mgmtTag m false seq body then
    s.count F.secMgmt_authFail m 1
  else
    let (s, take) := s.netSeq p seq
    let s := s.grant p ((b.length + 63) / 64)
    if !take then s else (s.setMgmt m { s.mgmt m with port := e }).mgmtEntry m entry

/-- The length of a datagram's payload after its header for COUNT items of a TYPE. -/
def countAgrees (type count len : Nat) : Bool :=
  match type with
  | 4 => count == 1 && len == 32
  | 5 => len == 4 * count
  | 6 => count == 1 && 80 ≤ len && len ≤ 80 + 8192
  | _ => false

/-- TYPE accepted at a stream port, and STREAM active (R189). -/
def State.typeTaken (s : State) (type p : Nat) : Bool :=
  match type with
  | 4 => 256 ≤ p && p < 512 && s.samplePort (p - 256)
  | 5 => (256 ≤ p && p < 512 && s.flag F.streamCfg_enable (p - 256)) ||
      (768 ≤ p && p < 776 && s.flag F.secMgmt_open (p - 768))
  | 6 => 768 ≤ p && p < 776
  | _ => false

/-- A datagram that reached DEV_UDP_PORT on port `e` (R189). -/
def State.deviceDatagram (s : State) (e : Nat) (b : Bytes) : State :=
  let type := leAt b 3 1
  let p := leAt b 4 2
  let count := leAt b 6 2
  if b.length < 16 || leAt b 0 2 != 0x464C || leAt b 2 1 != 1 || leAt b 12 4 != crc32c (b.take 12 ++ b.drop 16) ||
      !s.typeTaken type p || !countAgrees type count (b.length - 16) then s.count (F.macCnt_count 7) e 1
  else if type == 6 then s.mgmtDatagram e (p - 768) b
  else
    let (s, take) := s.netSeq p (leAt b 8 4)
    if !take then s
    else if type == 4 then s.netSample (p - 256) (b.drop 16)
    else forN count (fun i s =>
      let q := leAt b (16 + 4 * i) 2
      if q < 1024 && 256 ≤ q && s.sportActive q && s.sportSends q then s.takeLimit q (leAt b (18 + 4 * i) 2) else s) s

/-- The UDP destination port and payload of a whole IPv4 datagram without options, directly or after one tag. -/
def udpOf (f : Bytes) : Option (Nat × Bytes) :=
  let ip := if beAt f 12 2 == 0x8100 then 18 else 14
  let u := ip + 20
  let len := beAt f (u + 4) 2
  if beAt f (ip - 2) 2 != 0x0800 || beAt f ip 1 != 0x45 || beAt f (ip + 9) 1 != 17 ||
      beAt f (ip + 6) 2 % 0x4000 != 0 || len < 8 || f.length < u + len then none
  else some (beAt f (u + 2) 2, sub f (u + 8) (len - 8))

/-- The destination address passes the filter (R167). -/
def State.macAccepts (s : State) (e : Nat) (f : Bytes) : Bool :=
  let d := leAt f 0 6
  let own := s.rd F.macAddrLo_addr e + s.rd F.macAddrHi_addr e * 2 ^ 32
  let ptp := [ofNats [0x01, 0x1B, 0x19, 0, 0, 0], ofNats [0x01, 0x80, 0xC2, 0, 0, 0x0E],
    ofNats [0x01, 0x00, 0x5E, 0x00, 0x01, 0x81], ofNats [0x01, 0x00, 0x5E, 0x00, 0x00, 0x6B]]
  d == own || d == 2 ^ 48 - 1 || (s.flag F.macCtl_ptpMcast e && ptp.contains (f.take 6)) || s.flag F.macCtl_promisc e

/-- MAC_FRAME_RX (R167, R168, R171, R189): a frame without its FCS, whether the FCS was good, its dynamic stamp term,
and the FEC codewords corrected and uncorrectable since the last frame. -/
def execMacFrameRx (port : Fin 16) (frame : Bytes) (fcsGood : Bool) (measured : Int)
    (fecCorrected fecUncorrected : Nat) (s : State) : Out :=
  let e := port.val
  if !s.macUp e then .next s else
  let s := s.count (F.macCnt_count 5) e fecCorrected
  let s := s.count (F.macCnt_count 6) e fecUncorrected
  if !fcsGood || frame.length < 60 || 9596 < frame.length then .next (s.count (F.macCnt_count 2) e 1) else
  if beAt frame 12 2 == 0x8808 && (beAt frame 14 2 == 0x0001 || beAt frame 14 2 == 0x0101) then
    .next (s.count (F.macCnt_count 4) e 1)
  else if !s.macAccepts e frame then .next (s.count (F.macCnt_count 3) e 1)
  else
    let s := s.count (F.macCnt_count 0) e 1
    match udpOf frame with
    | some (dst, b) =>
      if dst == s.rd F.netDevUdp_port then .next (s.deviceDatagram e b)
      else if s.exposeImage && dst == s.rd F.layoutUdp_port then .next (s.layoutDatagram b)
      else .next (s.deliverFrame e frame (s.macStamp e false measured))
    | none => .next (s.deliverFrame e frame (s.macStamp e false measured))

/-- The completion of a management command sent (R458, R526): a TYPE 7 datagram, tagged but for the answer to
MGMT_HELLO. -/
def State.mgmtCompletion (s : State) (m : Nat) (r : Report) : State :=
  let v := s.mgmt m
  let (c, above) := if r.accepted && r.opcode != 0x72 then completedNext v.completed v.above r.cseq else (v.completed, v.above)
  let s := s.setMgmt m { v with dseq := (v.dseq + 1) % 2 ^ 32, completed := c, above := above }
  let t := s.rd F.secMgmt_mgmtTemplate m
  if !s.flag F.templateCtl_valid t || !s.macUp v.port then s else
  let p := 768 + m
  let (seq, s) := s.takeTx p
  let body := r.bytes v.dseq s.ns
  let tag := if r.opcode == 0x72 then [] else
    beBytes 16 (s.mgmtTag m true seq (ofNats [0x4C, 0x46, 1, 7] ++ leBytes 2 p ++ leBytes 2 1 ++ leBytes 4 seq ++ zeros 4 ++ body))
  s.sendUdp t v.port (streamPayload 7 p 1 seq (body ++ tag))

/-- The completion of a report made (R458): for the command ring, or sent on its stream. -/
def State.complete (s : State) (r : Report) : State :=
  let s := { s with host.reports := s.host.reports.erase r }
  match r.stream with
  | none => (s.ringCompletion r).showOutstanding
  | some m => s.mgmtCompletion m r

end Sys2Proof.Machine
end

