-- ==== Sys2Proof/Machine/Test.lean ====
section
/-! DEFINITION. Self-test, calibration and the monitor's samples (R495 to R515, R574): logic test series, memory and HBM
tests with their repairs, the clearing of secrets, calibration, thermal sensors and the supply monitor. -/

namespace Sys2Proof.Machine

/-! Counters of the TEST block. -/
namespace Tc
def slices : Nat := 0
def skipped : Nat := 1
def incomplete : Nat := 2
def fail : Nat := 3
def secretClears : Nat := 4
def recalDeferred : Nat := 5
def hbmUnrepaired : Nat := 6
end Tc

/-! Results of an island (R500), as TEST_ISL shows them. -/
namespace Tr
def pass : Nat := 1
def fail : Nat := 2
def skipped : Nat := 3
def incomplete : Nat := 4
end Tr

/-- The always-on set (R502). -/
def alwaysOn : List Nat := [0x00, 0x06, 0x08, 0x09, 0x1E, 0x1F, 0xC0]

/-- The other assigned islands. -/
def otherIslands : List Nat := (List.range 256).filter (fun i => islandAssigned i && !alwaysOn.contains i)

/-- An island is a Spur. -/
def isSpur (i : Nat) : Bool := 0x40 ≤ i && i ≤ 0x75

/-- A Spur that fails a full test outside its rotation is retired (R503, R250): the Ridge's slots fill again with what
is left (R231). -/
def State.retireByTest (s : State) (isl : Nat) : State :=
  let k := (isl - 0x40) / 9
  let j := (isl - 0x40) % 9
  if s.rd F.ridgeSpurStat_role (spurAt k j) == SpurRole.retired then s else
  let gone := (List.range 9).filter (fun i => s.rd F.ridgeSpurStat_role (spurAt k i) == SpurRole.retired)
  let boot := (List.range 9).filter (fun i => s.flag F.ridgeSpurStat_bootRetired (spurAt k i))
  let s := s.ridgeStart k (gone ++ [j])
  let s := forN 9 (fun i s => s.wr F.ridgeSpurStat_bootRetired (spurAt k i) (b2n (boot.contains i))) s
  let s := s.log Ev.spurRetired (0x30 + k) 0 [k, j]
  s.ridgeEvent k F.ridgeEvt_retire 0

/-- An island that fails (R503): a Spur is retired; any other is marked FAILED until the next start. -/
def State.failIsland (s : State) (isl : Nat) : State :=
  if isSpur isl then s.retireByTest isl else
  if s.flag F.testIsl_failed isl then s else
  (s.up F.testIsl_failed isl).count F.testStat_failed 0 1

/-! ### Secrets before scan (R504) -/

/-- The secrets of island 0x07 or 0x88 cleared; `zero`: every store then reads all zero. Whether the access may
begin. -/
def State.clearSecrets (s : State) (isl : Nat) (zero : Bool) : State × Bool :=
  let s := s.count (F.testCnt_count Tc.secretClears) 0 1
  let s := s.log Ev.secretsCleared 0x06 0 [isl]
  let s := if isl == 0x07 then
      let s := s.putKeys []
      (forN 16 (fun i s => s.setReg (F.secSlot_kind.addr i) 0) s)
    else
      ({ s with layoutKeys := [] } : State).wr F.layoutKeyStat_layoutKey 0 0
  if zero then (s, true) else ((s.failIsland isl).log Ev.secretClearFail 0x06 0 [isl], false)

/-- Secrets cleared before a test of the islands listed: the islands whose access may begin. -/
def State.clearFor (s : State) (islands : List Nat) (zero : Bool) : State × List Nat :=
  islands.foldl (fun (r : State × List Nat) i =>
    if i == 0x07 || i == 0x88 then
      let (s, ok) := r.1.clearSecrets i zero
      (s, if ok then r.2 ++ [i] else r.2)
    else (r.1, r.2 ++ [i])) (s, [])

/-- JTAG_INSTRUCTION (R504): an instruction that gives scan or memory access clears the secrets of both islands first;
a boundary-scan instruction clears nothing. -/
def execJtagInstruction (scan clears07 clears88 : Bool) (s : State) : Out :=
  if !scan then .next s else
  let (s, _) := s.clearSecrets 0x07 clears07
  let (s, _) := s.clearSecrets 0x88 clears88
  .next s

/-! ### Logic self-test (R498 to R503, R515) -/

/-- The duration of a slice in ns (R498). -/
def sliceNs (patterns : Nat) : Nat := 2 ^ patterns * 24 + 40000

/-- The test of an island in a series. -/
def TestRun.isl (r : TestRun) (i : Nat) : IslTest := Sparse.get (fun _ => {}) r.progress i

/-- A series begins (R501): its islands are isolated, a gated one is powered for its test (R25). -/
def State.startTest (s : State) (r : TestRun) : State :=
  let s := forAll r.islands (fun i s => s.isolate i true) s
  ({ s with test.run := some r } : State).wr F.testStat_state 0 1

/-- RESULT of TEST_RESULT for counts of FAIL and INCOMPLETE. -/
def resultCode (fails incs : Nat) : Nat := if 0 < fails then 2 else if 0 < incs then 3 else 1

/-- The end of a full test (R500, R501, R515). A start counts the always-on set with the others. -/
def State.endTest (s : State) (r : TestRun) : State :=
  let tested := if r.occasion == 3 || r.occasion == 0 then r.islands else alwaysOn ++ otherIslands
  let fails := (tested.filter (fun i => s.rd F.testIsl_result i == Tr.fail)).length
  let incs := (tested.filter (fun i => s.rd F.testIsl_result i == Tr.incomplete)).length
  let s := ((s.wr F.testStat_state 0 0).wr F.testStat_isl 0 0)
  let s := (s.wr F.testResult_result 0 (resultCode fails incs)).wr F.testResult_occasion 0 r.occasion
  let s := (s.wr F.testResult_failN 0 fails).wr F.testResult_incompleteN 0 incs
  let s := { s with test.run := none }
  match r.cmd with
  | none => s
  | some c =>
    let res := (if 0 < fails then 1 else if 0 < incs then 2 else 0) + fails * 2 ^ 8 + incs * 2 ^ 16
    s.report c 0x40 (if 0 < incs then St.incomplete else St.done) 0 res

/-- The end of the full test of island `i` in the series (R500, R503). -/
def State.endIsland (s : State) (i : Nat) (t : IslTest) : State :=
  let s := s.wr F.testIsl_result i (if t.failed then Tr.fail else if t.bad then Tr.incomplete else Tr.pass)
  let s := s.wr F.testIsl_passed i t.passed
  let s := s.isolate i false
  if t.failed then s.failIsland i else s

/-- A slice of island `i` ends with a result (R499, R500): SKIPPED and INCOMPLETE are retried once where the allowance
lasts. -/
def State.endSlice (s : State) (i result sig : Nat) : State :=
  match s.test.run with
  | none => s
  | some r =>
    let t := r.isl i
    if !r.islands.contains i || t.ended then s else
    let s := s.count (F.testCnt_count Tc.slices) 0 1
    let s := if result == Tr.pass then s else
      s.count (F.testCnt_count (if result == Tr.skipped then Tc.skipped else if result == Tr.incomplete then Tc.incomplete
        else Tc.fail)) 0 1
    let s := s.wr F.testStat_isl 0 i
    let s := s.wr F.testIsl_patterns i r.patterns
    let s := s.wr64 F.testIslSigLo_sig F.testIslSigHi_sig i sig
    let s := s.wr F.testIslNs_ns i s.ns
    let soft := result == Tr.skipped || result == Tr.incomplete
    let d := sliceNs r.patterns
    let again := soft && !t.retry && r.allowance.all (fun a => d ≤ a)
    let t' : IslTest :=
      if again then { t with retry := true }
      else { t with slice := t.slice + 1, retry := false, passed := t.passed + b2n (result == Tr.pass)
                    failed := t.failed || result == Tr.fail, bad := t.bad || soft, ended := t.slice + 1 == r.slices }
    let r := { r with progress := Sparse.set (fun _ => {}) r.progress i t'
                      allowance := if again then r.allowance.map (· - d) else r.allowance }
    let s := { s with test.run := some r }
    let s := if t'.ended then s.endIsland i t' else s
    if r.islands.all (fun j => (r.isl j).ended) then s.endTest r else s

/-- A series cut short at the end of its start-up phase or PARK step: an island whose test has not ended is
INCOMPLETE (R500). -/
def State.cutTest (s : State) : State :=
  match s.test.run with
  | none => s
  | some r =>
    let s := forAll (r.islands.filter (fun j => !(r.isl j).ended)) (fun j s => s.endIsland j { r.isl j with bad := true }) s
    s.endTest r

/-- The series of phase 1 over the always-on set (R501, R502) runs in every start-up: it is set up at its first slice. No
retry allowance is given for it. -/
def State.bootTest (s : State) : State :=
  if s.mode == Md.starting && s.rd F.chiefMode_phase == 1 && s.test.run.isNone && s.rd F.testIsl_result 0 == 0 then
    s.startTest { cmd := none, occasion := 0, patterns := 14, slices := 4, islands := alwaysOn, allowance := some 0 }
  else s

/-- LOGIC_SLICE_DONE (R248, R499): every pattern is complete; SKIPPED where a limit failed before or during the slice,
else the signature decides. -/
def execLogicSliceDone (island : BitVec 8) (limitsGood : Bool) (signature : BitVec 64) (s : State) : Out :=
  let i := island.toNat
  let s := s.bootTest
  match s.test.run with
  | none => .next s
  | some r =>
    let good := signature.toNat == Config.testSignature i (r.isl i).slice r.patterns % 2 ^ 64
    .next (s.endSlice i (if !limitsGood then Tr.skipped else if good then Tr.pass else Tr.fail) signature.toNat)

/-- LOGIC_SLICE_BUDGET (R499): the budget runs out first: INCOMPLETE, whatever the signature. -/
def execLogicSliceBudget (island : BitVec 8) (signature : BitVec 64) (s : State) : Out :=
  .next (s.bootTest.endSlice island.toNat Tr.incomplete signature.toNat)

/-- TJ_MAX is 110 °C or more (R515). -/
def State.tooHot (s : State) : Bool := decide (440 ≤ signed 10 (s.rd F.testTj_tjMax))

/-- The islands a test command names (R515): none for one of the always-on set or not assigned. -/
def testTargets (island : Nat) : List Nat :=
  if island == 0xFF then otherIslands else if otherIslands.contains island then [island] else []

/-- TEST_LOGIC (R515): the series runs under LOGIC_SLICE_DONE and LOGIC_SLICE_BUDGET. A running test keeps the
controller until it ends. -/
def execTestLogic (cmd : CmdRef) (island patterns slices budget : BitVec 8) (clears : Bool) (s : State) : Out :=
  .next (s.command cmd 0x40 (fun s =>
    let l := testTargets island.toNat
    let p := patterns.toNat
    let n := slices.toNat
    if s.test.run.isSome then s
    else if p < 10 || 20 < p || n == 0 || 64 < n || budget.toNat == 0 || 80 < budget.toNat || l.isEmpty then
      s.finish cmd 0x40 St.badArg
    else if s.mode != Md.maintain then s.finish cmd 0x40 St.notInMode
    else if s.tooHot then s.finish cmd 0x40 St.thermal
    else
      let (s, l) := (s.takeCmd cmd).clearFor l clears
      if l.isEmpty then s.report cmd 0x40 St.done 0 (1 + 2 ^ 8)
      else s.startTest { cmd := some cmd, occasion := 3, patterns := p, slices := n, islands := l, allowance := none }))

/-! ### Memory self-test (R505 to R507) -/

/-- Repairs of a sub-array. -/
def repairsOf (l : List Repair) (isl array sub : Nat) : List Repair :=
  l.filter (fun r => r.isl == isl && r.array == array && r.sub == sub)

/-- A spare of a kind not in use and not failing (R507). -/
def freeSpare (used : List Repair) (bad : List BadSpare) (isl array sub : Nat) (column : Bool) : Option Nat :=
  [0, 1].find? (fun n => !(repairsOf used isl array sub).any (fun r => r.column == column && r.spare == n) &&
    !bad.any (fun b => b.isl == isl && b.array == array && b.sub == sub && b.column == column && b.spare == n))

/-- Rows or columns given spares in turn: the repairs, and those for which no spare was left. -/
def giveSpares (bad : List BadSpare) (isl array sub : Nat) (column : Bool) :
    List Nat → List Repair → List Nat → List Repair × List Nat
  | [], used, none_ => (used, none_)
  | x :: t, used, none_ =>
    match freeSpare used bad isl array sub column with
    | some n => giveSpares bad isl array sub column t (used ++ [⟨isl, array, sub, column, n, x⟩]) none_
    | none => giveSpares bad isl array sub column t used (none_ ++ [x])

/-- A failing cell is covered by a repair. -/
def covered (l : List Repair) (f : MemFail) : Bool :=
  (repairsOf l f.isl f.array (f.addr / 1024)).any (fun r => r.index == (if r.column then f.bit else f.addr % 1024))

/-- The repair of a sub-array from its failing cells (R507): a column with failures in three or more rows takes a spare
column, every remaining failing row a spare row. -/
def repairSub (bad : List BadSpare) (used : List Repair) (isl array sub : Nat) (fails : List MemFail) : List Repair :=
  let open_ := fails.filter (fun f => !covered used f)
  let columns := (open_.map (·.bit)).eraseDups.filter (fun b =>
    3 ≤ ((open_.filter (fun f => f.bit == b)).map (fun f => f.addr % 1024)).eraseDups.length)
  let (used, _) := giveSpares bad isl array sub true columns used []
  let rest := fails.filter (fun f => !covered used f)
  let rows := (rest.map (fun f => f.addr % 1024)).eraseDups
  (giveSpares bad isl array sub false rows used []).1

/-- REPAIR of a fail-log entry (R506): none needed, spare row, spare column, unrepairable. -/
def repairCode (before after : List Repair) (f : MemFail) : Nat :=
  if covered before f then 0 else
  match (repairsOf after f.isl f.array (f.addr / 1024)).find? (fun r =>
      r.index == (if r.column then f.bit else f.addr % 1024)) with
  | some r => if r.column then 2 else 1
  | none => 3

/-- An entry of the memory fail log (R506): past 256 entries OVERFLOW is set. -/
def State.memLogEntry (s : State) (f : MemFail) (repair : Nat) : State :=
  let n := s.rd F.testMemStat_entries
  if 256 ≤ n then s.up F.testMemStat_overflow else
  let b := leBytes 1 f.isl ++ leBytes 1 f.array ++ leBytes 2 (f.addr / 1024) ++ leBytes 4 (f.addr % 2 ^ 24) ++
    leBytes 2 f.bit ++ leBytes 1 (b2n f.expected + f.element % 8 * 2 + b2n f.second * 16) ++ leBytes 1 repair ++ leBytes 4 s.ns
  (s.setWords (F.memlogWord_word.addr (4 * n)) b).wr F.testMemStat_entries 0 (n + 1)

/-- ROWS and COLUMNS in use. -/
def State.showRepairs (s : State) : State :=
  let cols := (s.test.repairs.filter (·.column)).length
  (s.wr F.testMemRepair_rows 0 (s.test.repairs.length - cols)).wr F.testMemRepair_columns 0 cols

/-- A memory test with the failing reads it found (R505 to R507). -/
def State.memoryTest (s : State) (fails : List MemFail) (bad : List BadSpare) : State :=
  let before := s.test.repairs
  let allBad := s.test.badSpares ++ bad
  let kept := before.filter (fun r => !bad.any (fun b =>
    b.isl == r.isl && b.array == r.array && b.sub == r.sub && b.column == r.column && b.spare == r.spare))
  let subs := (fails.map (fun f => (f.isl, f.array, f.addr / 1024))).eraseDups
  let after := subs.foldl (fun u (x : Nat × Nat × Nat) =>
    repairSub allBad u x.1 x.2.1 x.2.2 (fails.filter (fun f => f.isl == x.1 && f.array == x.2.1 && f.addr / 1024 == x.2.2))) kept
  let s := { s with test.repairs := after, test.badSpares := allBad }
  let s := forAll fails (fun f s => s.memLogEntry f (repairCode kept after f)) s
  let dead := ((fails.filter (fun f => !covered after f)).map (fun f => (f.isl, f.array))).eraseDups
  let s := s.count F.testMemStat_unrepairable 0 dead.length
  let s := forAll dead (fun (d : Nat × Nat) s => (s.up F.testIsl_memUnrepairable d.1).failIsland d.1) s
  s.showRepairs

/-- TEST_MEMORY (R515): the failing reads and failing spares it finds come with the command. -/
def execTestMemory (cmd : CmdRef) (island : BitVec 8) (clears : Bool) (fails : List MemFail)
    (badSpares : List BadSpare) (s : State) : Out :=
  .next (s.command cmd 0x41 (fun s =>
    let l := testTargets island.toNat
    if s.test.run.isSome then s
    else if l.isEmpty then s.finish cmd 0x41 St.badArg
    else if s.mode != Md.maintain then s.finish cmd 0x41 St.notInMode
    else if s.tooHot then s.finish cmd 0x41 St.thermal
    else
      let (s, open_) := s.clearFor l clears
      let n := s.rd F.testMemStat_entries
      let u := s.rd F.testMemStat_unrepairable
      let s := s.memoryTest (fails.filter (fun f => open_.contains f.isl)) (badSpares.filter (fun f => open_.contains f.isl))
      let bad := decide (u < s.rd F.testMemStat_unrepairable) || open_.length < l.length
      s.report cmd 0x41 St.done 0 (b2n bad + (s.rd F.testMemStat_entries - n) * 2 ^ 8)))

/-! ### The HBM test (R508, R515) -/

/-- What the HBM test leaves (R508, R515): every region but HOST_RINGS undefined, every unit with valid ECC but those of
rows that could not be repaired. -/
def State.hbmTest (s : State) (fails : List HbmRowFail) : State :=
  let keep (a : Nat) : Bool := s.inRegion 5 a 1
  let s := s.keepHbm keep
  let s := { s with mem.bad := s.mem.bad.filter keep }
  forAll fails (fun f s =>
    if f.repaired then
      ({ s with test.hbmRepairs := s.test.hbmRepairs ++ [f.unit] } : State).errLogNew Ek.corr f.unit 18 none
    else ((s.count (F.testCnt_count Tc.hbmUnrepaired) 0 1).errLogNew Ek.uncorr f.unit 18 none).markBad f.unit) s

/-- TEST_HBM (R515). -/
def execTestHbm (cmd : CmdRef) (fails : List HbmRowFail) (s : State) : Out :=
  .next (s.command cmd 0x42 (fun s =>
    if s.test.run.isSome then s
    else if s.mode != Md.maintain then s.finish cmd 0x42 St.notInMode
    else if s.tooHot then s.finish cmd 0x42 St.thermal
    else
      let s := s.hbmTest fails
      let rows := (fails.filter (·.repaired)).length
      let left := fails.length - rows
      s.report cmd 0x42 St.done 0 (b2n (0 < left) + rows % 65536 * 2 ^ 8 + left % 65536 * 2 ^ 24)))

/-! ### Calibration (R511 to R513) -/

/-- A measurement taken (R511, R512): an element in use moves to its code step by step; at start-up it takes the code at
once. -/
def State.calibrate (s : State) (r : CalResult) (atOnce : Bool) : State :=
  let old := Sparse.get (fun _ => none) (s.test.trims.map (fun (e : Nat × CalElem) => (e.1, some e.2))) r.element
  let e : CalElem := match old with
    | some e => { kind := r.kind, lane := r.lane.map (·.val), code := if atOnce then r.code else e.code, target := r.code }
    | none => { kind := r.kind, lane := r.lane.map (·.val), code := r.code, target := r.code }
  let s := { s with test.trims := Sparse.insert s.test.trims r.element e }
  if !r.outOfRange then s else
  let s := (s.up F.testCal_outOfRange).wr F.testCal_element 0 r.element
  s.log Ev.calRange 0x08 0 [r.element, r.code]

/-- Ticks of 4 ns between two steps of a kind of element in use (R511). -/
def CalElem.interval (e : CalElem) : Nat :=
  match e.kind with
  | .clock => 2500
  | .regulator => 25000
  | .supply => 250000
  | _ => 250

/-- A trim that waits for the end of a stripe: of a lane in the BLANKER role, in EXPOSE (R512). -/
def State.trimHeld (s : State) (e : CalElem) : Bool :=
  s.mode == Md.expose && e.lane.any (fun n => s.laneRole n == Role.blanker) && 2 ≤ s.rd F.laidStat_state

/-- One tick of the trims under way (R512). -/
def State.calTick (s : State) : State :=
  if s.test.trims.all (fun e => e.2.code == e.2.target) then s else
  { s with test.trims := s.test.trims.map (fun (x : Nat × CalElem) =>
      let e := x.2
      if e.code == e.target || s.clock % e.interval != 0 || s.trimHeld e then x
      else (x.1, { e with code := if e.code < e.target then e.code + 1 else e.code - 1 })) }

/-- CALIBRATE (R515): RESULT counts the elements out of range. -/
def execCalibrate (cmd : CmdRef) (results : List CalResult) (s : State) : Out :=
  .next (s.command cmd 0x43 (fun s =>
    if s.test.run.isSome then s
    else if !s.cmMode then s.finish cmd 0x43 St.notInMode
    else
      let s := forAll results (fun r s => s.calibrate r false) s
      let s := s.up F.testCal_calDone
      s.report cmd 0x43 St.done 0 ((results.filter (·.outOfRange)).length % 65536)))

/-- Neither RECOVERY nor PARK. -/
def State.served (s : State) : Bool := s.mode != Md.recovery && s.mode != Md.park

/-- CAL_SET (R513, R515): RECAL_S 1 to 3,600. -/
def execCalSet (cmd : CmdRef) (seconds : BitVec 16) (s : State) : Out :=
  .next (s.command cmd 0x44 (fun s =>
    if seconds.toNat == 0 || 3600 < seconds.toNat then s.finish cmd 0x44 St.badArg
    else if !s.served then s.finish cmd 0x44 St.notInMode
    else (s.wr F.testCal_recalS 0 seconds.toNat).finish cmd 0x44 St.done))

/-- TEST_LOG_CLEAR (R515): the fail log, OVERFLOW, OUT_OF_RANGE and the test counters. -/
def execTestLogClear (cmd : CmdRef) (s : State) : Out :=
  .next (s.command cmd 0x46 (fun s =>
    if !s.cmMode then s.finish cmd 0x46 St.notInMode else
    let s := s.resetSpan (F.memlogWord_word.addr 0) (F.memlogWord_word.addr 1024)
    let s := (s.wr F.testMemStat_entries 0 0).down F.testMemStat_overflow
    let s := s.down F.testCal_outOfRange
    let s := forN 7 (fun c s => s.wr (F.testCnt_count c) 0 0) s
    s.finish cmd 0x46 St.done))

/-- The supply monitor measurement defers while a logic test's limit checks use the converter (R513). -/
def State.converterBusy (s : State) : Bool := s.test.run.isSome

/-- RECAL_TIMER (R513): every element is measured again; those of the converter wait while it is in use. -/
def execRecalTimer (results : List CalResult) (s : State) : Out :=
  if !s.served || s.mode == Md.starting then .next s else
  let busy := s.converterBusy
  let now := results.filter (fun r => !(busy && r.kind == .supply))
  let s := { s with test.deferred := busy }
  .next (forAll now (fun r s => s.calibrate r false) s)

/-- RECAL_DEFER_EXPIRY (R513): after 20 ms the measurement takes its guaranteed slot of 200 µs. -/
def execRecalDeferExpiry (results : List CalResult) (s : State) : Out :=
  if !s.test.deferred then .next s else
  let s := s.count (F.testCnt_count Tc.recalDeferred) 0 1
  let s := { s with test.deferred := false, test.slot := some (s.clock + 50000) }
  .next (forAll (results.filter (fun r => r.kind == .supply)) (fun r s => s.calibrate r false) s)

/-- The guaranteed slot runs: the 1 ms samples keep their values (R513). -/
def State.inSlot (s : State) : Bool := s.test.slot.any (fun t => s.clock < t)

/-! ### The thermal sensors and the supply monitor (R514, R574) -/

/-- ALERT_N follows ALERT where the image gives it that function (R514, R535). -/
def State.driveAlert (s : State) : State :=
  if (s.pinFn 3 2).func == 0x01 then s.emit (.alertN (s.flag F.testTj_alert)) else s

/-- ALERT set or cleared, with its log entry (R514). -/
def State.setAlert (s : State) (on : Bool) : State :=
  if s.flag F.testTj_alert == on then s else
  let s := s.wr F.testTj_alert 0 (b2n on)
  let s := s.log Ev.tjAlert 0x08 0 [b2n on, s.rd F.testTj_tjMax]
  s.driveAlert

/-- ALERT decided from TJ_MAX (R514). -/
def State.judgeAlert (s : State) : State :=
  let t := signed 10 (s.rd F.testTj_tjMax)
  let a := signed 8 (s.rd F.testTherm_alertC)
  if decide (4 * a ≤ t) then s.setAlert true
  else if decide (t ≤ 4 * (a - (s.rd F.testTherm_hyst : Nat))) then s.setAlert false
  else s

/-- THERMAL_SAMPLE (R514): the readings of sensors 0 to 15, `none` for one that gave none. -/
def execThermalSample (temps : List (Option (BitVec 10))) (s : State) : Out :=
  if s.inSlot then .next s else
  let s := forN 16 (fun i s =>
    match temps.getD i none with
    | some t =>
      let s := (s.wr F.testSensor_temp i t.toNat).up F.testSensor_valid i
      { s with test.read := Sparse.insert s.test.read i s.clock }
    | none =>
      -- VALID: a reading taken in the last 2 ms
      let fresh := match s.test.read.lookup i with
        | some c => decide (s.clock ≤ c + 500000)
        | none => false
      s.wr F.testSensor_valid i (b2n fresh)) s
  let good := (List.range 16).filter (fun i => s.flag F.testSensor_valid i)
  match good with
  | [] => .next ((s.wr F.testTj_tjMax 0 0x200).wr F.testTj_hot 0 0)
  | g :: rest =>
    let temp (i : Nat) : Int := signed 10 (s.rd F.testSensor_temp i)
    let hot := rest.foldl (fun h i => if temp h < temp i then i else h) g
    let s := (s.wr F.testTj_tjMax 0 (s.rd F.testSensor_temp hot)).wr F.testTj_hot 0 hot
    .next s.judgeAlert

/-- THERM_SET (R515): HYST 1 to 20. -/
def execThermSet (cmd : CmdRef) (alertC hyst : BitVec 8) (s : State) : Out :=
  .next (s.command cmd 0x45 (fun s =>
    if hyst.toNat == 0 || 20 < hyst.toNat then s.finish cmd 0x45 St.badArg
    else if !s.served then s.finish cmd 0x45 St.notInMode
    else ((s.wr F.testTherm_alertC 0 alertC.toNat).wr F.testTherm_hyst 0 hyst.toNat).finish cmd 0x45 St.done))

/-- SUPPLY_SAMPLE (R574): VIN in mV, input power in 0.1 W. -/
def execSupplySample (vinMv power : BitVec 16) (s : State) : Out :=
  if s.inSlot then .next s else
  let v := vinMv.toNat
  let s := s.wr F.chiefPwr_vinMv 0 v
  let s := if v < 11400 then s.up F.chiefPwr_vinLow else s
  let s := if 12600 < v then s.up F.chiefPwr_vinHigh else s
  let s := s.wr F.chiefPwrW_power 0 power.toNat
  .next (s.peak F.chiefPwrW_peak 0 power.toNat)

end Sys2Proof.Machine
end

