-- ==== Sys2Proof/Machine/Keys.lean ====
section
/-! DEFINITION. The directory of the boot flash, the update lock, key slots, attestation, fuses, the opening of a
management stream, secure columns and the SMBus target (R516 to R518, R522, R526, R534 to R542). -/

namespace Sys2Proof.Machine

/-! ### The boot flash (R516 to R518) -/

/-- Base of a bank. -/
def bankBase (b : Nat) : Nat := 0x100000 + b * 0x1000000

/-- Base of a directory copy; of the clean-park token; of the health record. -/
def dirBase (c : Nat) : Nat := c * 4096
def tokenBase : Nat := 0x2000
def healthBase : Nat := 0x10000

/-- MANIFEST_LEN for six parts (R519). -/
def manifestLen : Nat := 1240

/-- A directory record (R517). -/
structure DirRecord where
  copy : Nat
  gen : Nat
  active : Nat
  fallback : Bool
  digest : Nat
  other : Nat
  deriving DecidableEq, Repr

/-- The record of a copy, where it is valid (R518). -/
def State.dirCopy (s : State) (c : Nat) : Option DirRecord :=
  let b := s.flashBytes (dirBase c) 128
  if sub b 0 4 == ofNats [0x43, 0x44, 0x49, 0x52] && leAt b 124 4 == crc32c (b.take 124) then
    some ⟨c, leAt b 4 4, leAt b 8 1 % 2, leAt b 9 1 == 1, beAt b 12 48, beAt b 60 48⟩
  else none

/-- The directory in force (R518). -/
def State.directory (s : State) : Option DirRecord :=
  match s.dirCopy 0, s.dirCopy 1 with
  | some a, some b => if decide (0 < signed 32 (b.gen + 2 ^ 32 - a.gen)) then some b else some a
  | some a, none => some a
  | none, b => b

/-- ACTIVE bank and FALLBACK_OK: bank 0 and 0 where no copy is valid (R518). -/
def State.activeBank (s : State) : Nat := (s.directory.map (·.active)).getD 0
def State.fallbackOk (s : State) : Bool := s.directory.any (·.fallback)

/-- The manifest of a bank. -/
def State.manifest (s : State) (b : Nat) : Bytes := s.flashBytes (bankBase b) manifestLen

/-- ACTIVE_BANK, FALLBACK_OK, UPD_VERSION and UPD_DIR_GEN. -/
def State.showDirectory (s : State) : State :=
  let s := s.wr F.updStat_activeBank 0 s.activeBank
  let s := s.wr F.updStat_fallbackOk 0 (b2n s.fallbackOk)
  let s := s.wr F.updVersion_value 0 (leAt (s.manifest s.activeBank) 8 4)
  s.wr F.updDirGen_value 0 ((s.directory.map (·.gen)).getD 0)

/-- A new record written into the copy that is not in force, once that copy has been erased (R517, R518). -/
def State.writeDirectory (s : State) (active : Nat) (fallback : Bool) : State :=
  let d := s.directory
  let c := 1 - (d.map (·.copy)).getD 1
  let gen := match d with
    | some r => (r.gen + 1) % 2 ^ 32
    | none => 0
  let sha (b : Nat) : Bytes := beBytes 48 (sha384 (s.manifest b))
  let b := ofNats [0x43, 0x44, 0x49, 0x52] ++ leBytes 4 gen ++ leBytes 1 active ++ leBytes 1 (b2n fallback) ++ zeros 2 ++
    sha active ++ (if fallback then sha (1 - active) else zeros 48) ++ zeros 16
  let s := s.eraseFlash (dirBase c) (dirBase c + 4096)
  (s.setFlashBytes (dirBase c) (b ++ leBytes 4 (crc32c b))).showDirectory

/-- The directory copy not in force erased. -/
def State.eraseSpareDirectory (s : State) : State :=
  let c := 1 - (s.directory.map (·.copy)).getD 1
  s.eraseFlash (dirBase c) (dirBase c + 4096)

/-! ### The update lock (R522) -/

/-- HOLDER, where the lock is held. -/
def State.lockHolder (s : State) : Option Nat := if s.flag F.updStat_lockHeld then some (s.rd F.updLock_holder) else none

/-- The lock taken by a holder, and freed. -/
def State.takeLock (s : State) (id : Nat) : State := (s.up F.updStat_lockHeld).wr F.updLock_holder 0 id
def State.freeLock (s : State) : State := (s.down F.updStat_lockHeld).wr F.updLock_holder 0 0

/-- Holders that are no session (R522): LOAD_IMAGE and PARK. -/
def loadHolder : Nat := Dom.hostPcie * 4096
def parkHolder : Nat := Dom.chief * 4096 + 2

/-! ### Key slots (R536 to R538) -/

/-- The key slot `i`. -/
def State.key (s : State) (i : Nat) : KeySlot := Sparse.get (fun _ => {}) s.keys i

/-- The key of a slot of a kind. -/
def State.keyOf (s : State) (i kind : Nat) : Option Nat :=
  if i < 16 && (s.key i).kind == kind then some (s.key i).key else none

/-- SEC_SLOT of slot `i`: the fingerprint is of a public key only. -/
def State.showSlot (s : State) (i : Nat) (restored : Bool) : State :=
  let k := s.key i
  let h := beBytes 48 (sha384 (beBytes 96 k.key))
  let s := (s.wr F.secSlot_kind i k.kind).wr F.secSlot_restored i (b2n restored)
  s.wr F.secSlot_fingerprint i (if k.kind == 2 || k.kind == 3 then leAt h 0 2 else 0)

/-- A slot set; island 0x88 holds copies of the LAYOUT keys only (R536). -/
def State.setKey (s : State) (i : Nat) (k : KeySlot) : State :=
  (s.putKeys (Sparse.set (fun _ => {}) s.keys i k)).copyLayoutKeys

/-- The key store copy in force, under the rule of R518. -/
def State.keyCopy (s : State) : Option (Nat × KeyCopy) :=
  let c (i : Nat) := (Sparse.get (fun _ => none) s.update.keyStore i : Option KeyCopy)
  match c 0, c 1 with
  | some a, some b => if decide (0 < signed 32 (b.gen + 2 ^ 32 - a.gen)) then some (1, b) else some (0, a)
  | some a, none => some (0, a)
  | none, some b => some (1, b)
  | none, none => none

/-- The slots written to the copy that is not in force (R537). -/
def State.writeKeyStore (s : State) : State :=
  let (i, gen) := match s.keyCopy with
    | some (i, c) => (1 - i, (c.gen + 1) % 2 ^ 32)
    | none => (0, 0)
  let s := { s with update.keyStore := Sparse.set (fun _ => none) s.update.keyStore i (some ⟨gen, s.keys⟩) }
  s.down F.updStat_keystoreErr

/-- The slots restored from the flash (R537): a slot entry that fails its unwrap is left EMPTY. -/
def State.restoreKeys (s : State) (failed : List Nat) : State :=
  match s.keyCopy with
  | none =>
    let s := (s.putKeys []).copyLayoutKeys
    (forN 16 (fun i s => s.showSlot i false) s).up F.updStat_keystoreErr
  | some (_, c) =>
    let lost := failed.filter (fun i => (Sparse.get (fun _ => {}) c.slots i : KeySlot).kind != 0)
    let s := (s.putKeys (c.slots.filter (fun e => !failed.contains e.1))).copyLayoutKeys
    let s := s.count (F.secCnt_count 3) 0 lost.length
    let s := forN 16 (fun i s => s.showSlot i ((s.key i).kind != 0)) s
    s.down F.updStat_keystoreErr

/-- KEYSLOT_RESTORE (R537). In test hold nothing is restored (R504). -/
def execKeyslotRestore (failed : List (Fin 16)) (s : State) : Out :=
  .next (if s.mode == Md.testHold then s else s.restoreKeys (failed.map (·.val)))

/-- Bytes of HBM read by a controller: `none` outside HBM or where a unit is uncorrectable, with the status. -/
def State.readForCommand (s : State) (a len : Nat) : Except Nat Bytes :=
  if Config.hbmBytes < a + len then .error St.badArg else
  match s.readMem a len with
  | none => .error St.uncorrectable
  | some b => .ok b

/-- A read that fails, recorded. -/
def State.noteRead (s : State) (a len status : Nat) : State :=
  if status == St.uncorrectable then s.readFailed 18 a len else s

/-- The key a blob brings (R538): `none` for a failed unwrap or point check. -/
def State.blobKey (s : State) (b : Bytes) : Option KeySlot :=
  let kind := leAt b 4 1
  if kind == 0 then some {} else
  if kind == 2 || kind == 3 then
    let k := beAt b 112 96
    if pointValid k then some ⟨kind, k⟩ else none
  else
    match ecdh (beAt b 16 96) with
    | none => none
    | some z =>
      let info := ofNats [0, 0, 0, 1] ++ beBytes 48 z ++ ofNats [0x4C, 0x46, 0x34, 0x38, 0x39, 0x36, 0x20, 0x4B, 0x45, 0x59] ++
        leBytes 4 s.fuses.serial
      match keyUnwrap (sha384 info / 2 ^ 128) (beAt b 112 40) with
      | none => none
      | some k => some ⟨kind, k⟩

/-- The checks of a key blob in order (R538): status and, for CONFLICT, nothing more. -/
def State.blobFault (s : State) (b : Bytes) : Option Nat :=
  let kind := leAt b 4 1
  let slot := leAt b 5 1
  let serial := leAt b 8 4
  let auth := leAt b 208 4
  let zero := leAt b 6 2 == 0 && leAt b 12 4 == 0 && leAt b 212 4 == 0 &&
    (kind == 1 || kind == 4 || beAt b 16 96 == 0) && (!(kind == 1 || kind == 4) || beAt b 152 56 == 0)
  if sub b 0 4 != ofNats [0x43, 0x4B, 0x45, 0x59] || 4 < kind || 15 < slot || !zero then some St.badArg
  else if serial != s.fuses.serial && !(serial == 0 && (kind == 0 || kind == 2 || kind == 3)) then some St.badArg
  else if auth == 2 ^ 32 - 1 then
    if s.fuses.provisionLock then some St.authFail
    else if (s.key slot).kind != 0 then some St.conflict
    else if (s.blobKey b).isNone then some St.authFail else none
  else
    match s.keyOf auth 3 with
    | none => some St.authFail
    | some k =>
      if !ecdsaVerify k (sha384 (b.take 216)) (beAt b 216 48) (beAt b 264 48) then some St.authFail
      else if kind == 0 && slot == auth then some St.badArg
      else if (s.blobKey b).isNone then some St.authFail else none

/-- KEY_LOAD (R538). -/
def execKeyLoad (cmd : CmdRef) (addr : BitVec 64) (s : State) : Out :=
  .next (s.command cmd 0x68 (fun s =>
    if !s.cmMode && s.mode != Md.recovery then s.finish cmd 0x68 St.notInMode else
    match s.readForCommand addr.toNat 312 with
    | .error e => (s.noteRead addr.toNat 312 e).finish cmd 0x68 e
    | .ok b =>
      match s.blobFault b, s.blobKey b with
      | some e, _ => s.finish cmd 0x68 e
      | none, none => s.finish cmd 0x68 St.authFail
      | none, some k =>
        let slot := leAt b 5 1
        let s := (s.setKey slot k).writeKeyStore
        let s := (s.showSlot slot false).count (F.secCnt_count 2) 0 1
        s.report cmd 0x68 St.done 0 slot))

/-- Slot i's kind in bits [3i + 2 : 3i] (R539). -/
def State.slotKinds (s : State) : Nat := ((List.range 16).map (fun i => (s.key i).kind * 8 ^ i)).sum

/-- A command of every mode but PARK, taken by its controller. -/
def State.notPark (s : State) (cmd : CmdRef) (op : Nat) (act : State → State) : State :=
  s.command cmd op (fun s => if s.mode == Md.park then s.finish cmd op St.notInMode else act s)

/-- KEY_STATUS (R542). -/
def execKeyStatus (cmd : CmdRef) (s : State) : Out :=
  .next (s.notPark cmd 0x6A (fun s => s.report cmd 0x6A St.done 0 s.slotKinds))

/-- Fuse flags as ATTEST and SEC_FUSE show them. -/
def Fuses.flags (f : Fuses) : Nat := b2n f.signedImages + b2n f.signedUpdates * 2 + b2n f.provisionLock * 4

/-- The 400-byte statement (R539). -/
def State.attestation (s : State) (nonce : Bytes) (which : Nat) : Bytes :=
  let f := s.fuses
  let prints := (List.range 16).flatMap (fun i =>
    let k := s.key i
    if k.kind == 2 || k.kind == 3 then beBytes 48 (sha384 (beBytes 96 k.key)) else zeros 48)
  let m := s.manifest s.activeBank
  let digest := (List.range 12).flatMap (fun i => leBytes 4 (s.rd (F.cfgDigest_digest i)))
  let b := ofNats [0x41, 0x54, 0x53, 0x54] ++ leBytes 4 (s.rd F.idSerial_serial) ++
    leBytes 4 (s.rd F.idLotLo_lot) ++ leBytes 4 (s.rd F.idLotHi_lot) ++
    ofNats [f.wafer, f.dieX, f.dieY, f.stepping] ++ leBytes 4 (leAt m 8 4) ++ leBytes 1 f.rollback ++ leBytes 1 f.flags ++
    leBytes 6 s.slotKinds ++ nonce ++ beBytes 48 (sha384 m) ++ digest ++ beBytes 48 (sha384 prints) ++
    beBytes 96 (devicePublic which)
  let (r, t) := ecdsaSign (sha384 b)
  b ++ beBytes 48 r ++ beBytes 48 t

/-- ATTEST (R539). -/
def execAttest (cmd : CmdRef) (nonce output : BitVec 64) (which : BitVec 8) (s : State) : Out :=
  .next (s.notPark cmd 0x70 (fun s =>
    if 1 < which.toNat || Config.hbmBytes < output.toNat + 400 then s.finish cmd 0x70 St.badArg else
    match s.readForCommand nonce.toNat 32 with
    | .error e => (s.noteRead nonce.toNat 32 e).finish cmd 0x70 e
    | .ok n =>
      let w := s.writeMem 18 output.toNat (s.attestation n which.toNat)
      w.1.finish cmd 0x70 (if w.2 then St.done else St.uncorrectable)))

/-! ### Fuses (R495, R496, R540) -/

/-- The registers that show the fuses; `idGood` and `trimGood`: the blocks were accepted (R496). -/
def State.showFuses (s : State) (idGood trimGood : Bool) : State :=
  let f := if idGood then s.fuses else { s.fuses with lot := 0, wafer := 0, dieX := 0, dieY := 0, stepping := 0, serial := 0 }
  let s := s.wr F.idPart_stepping 0 f.stepping
  let s := (s.wr F.idLotLo_lot 0 f.lot).wr F.idLotHi_lot 0 (f.lot / 2 ^ 32)
  let s := ((s.wr F.idDie_wafer 0 f.wafer).wr F.idDie_dieX 0 f.dieX).wr F.idDie_dieY 0 f.dieY
  let s := s.wr F.idSerial_serial 0 f.serial
  let s := (s.wr F.idFuse_fuseErr 0 (b2n !idGood)).wr F.idFuse_trimErr 0 (b2n !trimGood)
  let s := s.wr F.idFuse_signedImages 0 (b2n f.signedImages)
  let s := (s.wr F.secFuse_signedImages 0 (b2n f.signedImages)).wr F.secFuse_signedUpdates 0 (b2n f.signedUpdates)
  (s.wr F.secFuse_provisionLock 0 (b2n f.provisionLock)).wr F.secFuse_rollback 0 f.rollback

/-- A fuse blown: 1 SIGNED_IMAGES, 2 SIGNED_UPDATES, 3 PROVISION_LOCK, 4 the rollback count raised to `arg` (R540). -/
def State.blow (s : State) (i arg : Nat) : State :=
  let f := s.fuses
  { s with fuses := { f with signedImages := f.signedImages || i == 1, signedUpdates := f.signedUpdates || i == 2
                             provisionLock := f.provisionLock || i == 3
                             rollback := if i == 4 then max f.rollback arg else f.rollback } }

/-- FUSE_SET (R540). -/
def execFuseSet (cmd : CmdRef) (id arg authSlot : BitVec 8) (sig : BitVec 64) (s : State) : Out :=
  .next (s.command cmd 0x71 (fun s =>
    let i := id.toNat
    let m := s.manifest s.activeBank
    if s.mode != Md.maintain then s.finish cmd 0x71 St.notInMode
    else if i == 0 || 4 < i then s.finish cmd 0x71 St.badArg
    else match s.readForCommand sig.toNat 96 with
    | .error e => (s.noteRead sig.toNat 96 e).finish cmd 0x71 e
    | .ok g =>
      let text := ofNats [0x46, 0x55, 0x53, 0x45] ++ leBytes 4 s.fuses.serial ++ leBytes 1 i ++ leBytes 1 arg.toNat ++ zeros 2
      match s.keyOf authSlot.toNat 3 with
      | none => s.finish cmd 0x71 St.authFail
      | some k =>
        if !ecdsaVerify k (sha384 text) (beAt g 0 48) (beAt g 48 48) then s.finish cmd 0x71 St.authFail
        else if (i == 1 && !s.flag F.cfgStat_signed) || (i == 2 && !bit (leAt m 7 1) 0) ||
            (i == 3 && !(List.range 16).any (fun j => (s.key j).kind == 3)) || (i == 4 && leAt m 12 1 < arg.toNat) then
          s.finish cmd 0x71 St.badArg
        else
          let s := s.blow i arg.toNat
          (s.showFuses (!s.flag F.idFuse_fuseErr) (!s.flag F.idFuse_trimErr)).finish cmd 0x71 St.done))

/-! ### Network management and secure columns (R526, R541) -/

/-- MGMT_HELLO (R526): a fresh EPOCH under a slot of kind MGMT. -/
def execMgmtHello (cmd : CmdRef) (slot : BitVec 8) (s : State) : Out :=
  .next (s.notPark cmd 0x72 (fun s =>
    match cmd.stream with
    | none => s.finish cmd 0x72 St.notInMode
    | some m =>
      if (s.keyOf slot.toNat 4).isNone then s.finish cmd 0x72 St.authFail else
      let (v, s) := s.free
      let e := v % 2 ^ 64
      let s := s.setMgmt m.val { s.mgmt m.val with epoch := e }
      let s := (s.up F.secMgmt_open m.val).wr F.secMgmt_mgmtSlot m.val slot.toNat
      s.report cmd 0x72 St.done 0 e))

/-- CAIRN_SECURE (R489, R541). -/
def execCairnSecure (cmd : CmdRef) (column word : BitVec 8) (value : Word) (s : State) : Out :=
  .next (s.command cmd 0x75 (fun s =>
    let c := column.toNat
    if cmd.stream.isNone then s.finish cmd 0x75 St.authFail
    else if 160 ≤ c || 6 < word.toNat then s.finish cmd 0x75 St.badArg
    else
      let own := s.rd F.cairnMatrix_word (8 * c + 7)
      if own % 16 == Dom.hostNet && bit own 4 then
        (s.setReg (F.cairnMatrix_word.addr (8 * c + word.toNat)) value).finish cmd 0x75 St.done
      else s.finish cmd 0x75 St.conflict (s.owner (Res.cairncol + c))))

/-! ### The SMBus target (R534, R535) -/

/-- What I2C port `p` is (R534, R535): `some true` a target in RECOVERY or PARK, `some false` one of the image. -/
def State.smbusTarget (s : State) (p : Nat) : Option Bool :=
  if s.mode == Md.recovery || s.mode == Md.park || 3 < s.rd F.chiefParkStat_step then (if p == 0 then some true else none)
  else if s.mode == Md.starting || s.mode == Md.testHold then none
  else if (s.pinFn 3 p).func == 0x01 then some false else none

/-- The words of registers as a block read returns them. -/
def State.wordsOf (s : State) (l : List Nat) : Bytes := l.flatMap (fun a => leBytes 4 (s.reg a).toNat)

/-- SMBUS_STATUS_READ (R534): block read 0x10. An empty answer is a NACK. -/
def execSmbusStatusRead (port : Fin 2) (s : State) : Out :=
  match s.smbusTarget port.val with
  | none => .next s
  | some _ => .next (s.emit (.smbus (s.wordsOf [F.chiefMode_mode.addr 0, F.chiefBoot_bootSel.addr 0,
      F.chiefResetCause_last.addr 0, F.updStat_state.addr 0, F.updLastErr_status.addr 0, F.testTj_tjMax.addr 0])))

/-- SMBUS_POWER_READ (R535): block read 0x11, a NACK in RECOVERY and PARK. -/
def execSmbusPowerRead (port : Fin 2) (s : State) : Out :=
  match s.smbusTarget port.val with
  | none => .next s
  | some true => .next (s.emit (.smbus []))
  | some false => .next (s.emit (.smbus (s.wordsOf [F.chiefPwr_vinMv.addr 0, F.chiefPwrW_power.addr 0, F.testTj_tjMax.addr 0])))

/-- A device reset ordered (R52): it takes effect at DEVICE_RESET. In RECOVERY it also clears BOOT_FAILS (R533). -/
def State.orderReset (s : State) : State :=
  let s := if s.mode == Md.recovery then s.wr F.chiefBoot_bootFails 0 0 else s
  { s with chief.resetOrdered := true }

/-- SMBUS_RESET (R534, R535): write 0xA5 to 0x7F, as RESET_DEVICE; a NACK where the entry's options bit 0 is 0. -/
def execSmbusReset (port : Fin 2) (s : State) : Out :=
  match s.smbusTarget port.val with
  | none => .next s
  | some true => .next s.orderReset
  | some false => .next (if bit (s.pinFn 3 port.val).opts 0 then s.orderReset else s.emit (.smbus []))

end Sys2Proof.Machine
end

