-- ==== Sys2Proof/Machine/Image.lean ====
section
/-! DEFINITION. The Kalri image as a byte string (R68 to R72) and the checks of its header and container (R77, R78). -/

namespace Sys2Proof.Machine

/-- A rejection (R77, R78): its code, the record, the byte offset, the island that found it, and for CLAIM_HELD the
identity that holds the resource. -/
structure LoadErr where
  code : Nat
  record : Nat
  offset : Nat
  isl : Nat := 0
  owner : Nat := 0

/-- RECORD of a fault in the header or trailer (R78). -/
def noRecord : Nat := 0xFFFF

/-! Codes of R77. -/
namespace Le
def noImage : Nat := 0x01
def badMagic : Nat := 0x02
def headerCrc : Nat := 0x03
def version : Nat := 0x04
def stepping : Nat := 0x05
def mode : Nat := 0x06
def length : Nat := 0x07
def digest : Nat := 0x08
def unsigned : Nat := 0x09
def key : Nat := 0x0A
def signature : Nat := 0x0B
def recordLength : Nat := 0x0C
def recordCrc : Nat := 0x0D
def recordType : Nat := 0x0E
def recordOrder : Nat := 0x0F
def count : Nat := 0x10
def target : Nat := 0x11
def tableRange : Nat := 0x12
def lockField : Nat := 0x13
def pin : Nat := 0x14
def lane : Nat := 0x15
def laneHost : Nat := 0x16
def claimDup : Nat := 0x17
def claimHeld : Nat := 0x18
def graph : Nat := 0x19
def hbmPlan : Nat := 0x1A
def value : Nat := 0x1B
def memory : Nat := 0x1C
end Le

/-- The status with which a LOAD_IMAGE ends for a code (R77). -/
def loadStatus (code : Nat) : Nat :=
  if code ≤ Le.length then St.headerReject
  else if code ≤ Le.signature then St.authFail
  else if code == Le.claimHeld then St.conflict
  else if code == Le.memory then St.uncorrectable
  else St.badArg

/-! Record types (R72). -/
namespace Rt
def bank : Nat := 0x01
def pinFunc : Nat := 0x02
def laneProfile : Nat := 0x03
def claim : Nat := 0x04
def hbmPlan : Nat := 0x05
def table : Nat := 0x06
def stageGraph : Nat := 0x07
def reg : Nat := 0x08
def cairn : Nat := 0x09
def lock : Nat := 0x0A
def end_ : Nat := 0xFF
end Rt

/-- The greatest image, and the lengths of header and trailer (R68). -/
def imageMax : Nat := 8388608
def headerLen : Nat := 128
def trailerLen : Nat := 152

/-- Every byte of a range is 0. -/
def allZero (b : Bytes) (off len : Nat) : Bool := (sub b off len).all (· == 0)

/-- The first failing check of a header (R77): `offered` bytes are available, `stepping` is the fuse's. -/
def headerFault (h : Bytes) (offered stepping : Nat) : Option LoadErr :=
  let at_ (code off : Nat) : Option LoadErr := some ⟨code, noRecord, off, 0, 0⟩
  let total := leAt h 12 4
  let run := leAt h 6 1
  if offered < 296 then at_ Le.noImage 0
  else if sub h 0 4 != ofNats [0x4B, 0x41, 0x4C, 0x52] then at_ Le.badMagic 0
  else if leAt h 52 4 != crc32c (h.take 52) then at_ Le.headerCrc 52
  else if leAt h 4 1 != 3 then at_ Le.version 4
  else if 1 < leAt h 5 1 then at_ Le.version 5
  else if leAt h 20 4 != headerLen then at_ Le.version 20
  else if leAt h 8 1 != stepping then at_ Le.stepping 8
  else if run != 2 && run != 3 then at_ Le.mode 6
  else if leAt h 7 1 != 1 && leAt h 7 1 != run then at_ Le.mode 7
  else if 1 < leAt h 9 1 then at_ Le.mode 9
  else if leAt h 10 2 != 0 then at_ Le.mode 10
  else if leAt h 51 1 != 0 then at_ Le.mode 51
  else if !allZero h 56 72 then at_ Le.mode 56
  else if total < 296 || imageMax < total || offered < total || total % 4 != 0 then at_ Le.length 12
  else none

/-- A record as it is read: the record, and whether its PAY_CRC and RFLAGS are good. -/
structure RawRec where
  entry : ImgRec
  good : Bool

/-- The records from offset `off` on, `rest` being the bytes up to the trailer: those read, and the offset of one whose
length fails (R77). The END record ends the walk. -/
def recWalk : Nat → Nat → Bytes → List RawRec × Option Nat
  | 0, _, _ => ([], none)
  | n + 1, off, rest =>
    if rest.isEmpty then ([], none) else
    let len := leAt rest 4 4
    if rest.length < 16 || len % 4 != 0 || 4194304 < len || rest.length < 16 + len then ([], some off) else
    let payload := sub rest 16 len
    let flags := leAt rest 2 2
    let crc := if len == 0 then 0 else crc32c payload
    let r : RawRec :=
      { entry := { type := leAt rest 0 2, lock := bit flags 0, target := leAt rest 8 4, payload := payload, off := off }
        good := flags < 2 && leAt rest 12 4 == crc }
    if r.entry.type == Rt.end_ then ([r], none) else
    let (t, e) := recWalk n (off + 16 + len) (rest.drop (16 + len))
    (r :: t, e)

/-- A list with its positions. -/
def indexed {α : Type} (l : List α) : List (Nat × α) := (List.range l.length).zip l

/-- The record that stands where a missing one of type `t` would: the first of a greater type (R78). -/
def firstAbove (recs : List ImgRec) (t trailer : Nat) : Nat × Nat :=
  match (indexed recs).find? (fun e => t < e.2.type) with
  | some (i, r) => (i, r.off)
  | none => (recs.length, trailer)

/-- The record types of which an image holds at most one, and exactly one (R72). -/
def singleTypes : List Nat := [Rt.bank, Rt.pinFunc, Rt.claim, Rt.hbmPlan, Rt.lock]
def requiredTypes : List Nat := [Rt.bank, Rt.hbmPlan]

/-- A later record breaks the order or a count of R72 beside an earlier one. -/
def recClash (a b : ImgRec) : Bool :=
  a.type == b.type && (singleTypes.contains a.type ||
    ((a.type == Rt.laneProfile || a.type == Rt.stageGraph) && a.target == b.target))

/-- The first record that breaks the order or a count (R72, R77). -/
def orderFault (recs : List ImgRec) (trailer : Nat) : Option (Nat × Nat) :=
  let bad (e : Nat × ImgRec) : Bool :=
    (recs.take e.1).any (fun a => recClash a e.2 || e.2.type < a.type)
  match (indexed recs).find? bad with
  | some (i, r) => some (i, r.off)
  | none =>
    match requiredTypes.find? (fun t => !recs.any (fun r => r.type == t)) with
    | some t => some (firstAbove recs t trailer)
    | none => if recs.any (fun r => r.type == Rt.end_) then none else some (recs.length, trailer)

/-- The image a whole byte string holds. -/
def imageOf (b : Bytes) (recs : List ImgRec) : Image :=
  { runMode := leAt b 6 1, startMode := leAt b 7 1, isSigned := bit (leAt b 9 1) 0, totalLen := leAt b 12 4
    recCount := leAt b 16 4, buildId := leAt b 24 8, name := sub b 32 16, digest := sub b (leAt b 12 4 - trailerLen) 48
    recs := recs }

/-- The stepping a header must name (R77); no byte where the identity fuses were not accepted (R496). -/
def State.steppingFuse (s : State) : Nat := if s.flag F.idFuse_fuseErr then 256 else s.fuses.stepping

/-- The container checks over a whole image that passed its header checks, in the table's order (R69, R70, R77). -/
def State.containerCheck (s : State) (b : Bytes) : Except LoadErr Image :=
  let t := leAt b 12 4 - trailerLen
  let err (code record off : Nat) : Except LoadErr Image := .error ⟨code, record, off, 0, 0⟩
  let isSigned := bit (leAt b 9 1) 0
  let slot := leAt b (t + 48) 4
  let digest := sha384 (b.take t)
  if beAt b t 48 != digest then err Le.digest noRecord t
  else if !isSigned && s.fuses.signedImages then err Le.unsigned noRecord (t + 56)
  else if isSigned && (s.keyOf slot 2).isNone then err Le.key noRecord (t + 48)
  else if isSigned && !(s.keyOf slot 2).any (fun k => ecdsaVerify k digest (beAt b (t + 56) 48) (beAt b (t + 104) 48)) then
    err Le.signature noRecord (t + 56)
  else
    let (raw, short) := recWalk b.length headerLen (sub b headerLen (t - headerLen))
    let recs := raw.map (·.entry)
    match short with
    | some off => err Le.recordLength recs.length off
    | none =>
      match (indexed raw).find? (fun e => !e.2.good) with
      | some (i, r) => err Le.recordCrc i r.entry.off
      | none =>
        match (indexed recs).find? (fun e => !((1 ≤ e.2.type && e.2.type ≤ Rt.lock) || e.2.type == Rt.end_)) with
        | some (i, r) => err Le.recordType i r.off
        | none =>
          match orderFault recs t with
          | some (i, off) => err Le.recordOrder i off
          | none =>
            let stop := (recs.getLast?.map (fun r => r.off + 16)).getD t
            if leAt b 16 4 != recs.length then err Le.count noRecord 16
            else if stop < t then err Le.count noRecord stop
            else .ok (imageOf b recs)

/-- The record that holds byte `u` of an image whose records are walked (R78): `noRecord` in the header or trailer. -/
def recordAt (b : Bytes) (u : Nat) : Nat :=
  let t := leAt b 12 4 - trailerLen
  if u < headerLen || t ≤ u then noRecord else
  let offs := (recWalk b.length headerLen (sub b headerLen (t - headerLen))).1.map (·.entry.off)
  (offs.filter (· ≤ u)).length - 1

/-- An image read from a byte string of `offered` bytes (R77): a flash bank. -/
def State.checkBytes (s : State) (b : Bytes) : Except LoadErr Image :=
  match headerFault (b.take headerLen) b.length s.steppingFuse with
  | some e => .error e
  | none => s.containerCheck (b.take (leAt b 12 4))

/-- The first 64-byte unit of a range of HBM that reads with an error: its offset in the range. -/
def State.firstBad (s : State) (a len : Nat) : Option Nat :=
  ((hbmUnits a len).find? s.unitBad).map (fun u => u - a)

/-- An image offered in HBM (R77, R89): the header first, then the body. -/
def State.checkHbm (s : State) (a len : Nat) : Except LoadErr Image :=
  let head := min len headerLen
  if len < 296 then .error ⟨Le.noImage, noRecord, 0, 0, 0⟩ else
  match s.firstBad a head with
  | some u => .error ⟨Le.memory, noRecord, u, 0, 0⟩
  | none =>
    match headerFault (s.bytes a head) len s.steppingFuse with
    | some e => .error e
    | none =>
      let total := leAt (s.bytes a head) 12 4
      let b := s.bytes a total
      match s.firstBad a total with
      | some u => .error ⟨Le.memory, recordAt b u, u, 0, 0⟩
      | none => s.containerCheck b

end Sys2Proof.Machine
end

