-- ==== Sys2Proof/Machine/Registers.lean ====
section
/-! DEFINITION. BAR0 accesses (R10 to R14, R20, R21, R36 to R38, R73 to R76): how a write reaches the fields of its
register, what each register does with it, how mediated writes pass an agent's mailbox, and reads. -/

namespace Sys2Proof.Machine

/-- A register write on its way: by the configuration loader (R73) or by the host; the register it names; the value. -/
structure BarWrite where
  loader : Bool
  addr : Nat
  base : Nat
  idx : Nat
  off : Nat
  isl : Nat
  row : RegRow
  value : Nat

/-- The state a meaning of another row leaves. -/
def ran (o : Out) (s : State) : State :=
  match o with
  | .next t => t
  | _ => s

/-! ### Values taken -/

/-- A width of 1 to 16,384 pixels; any other value is taken as 16,384. -/
def widthTaken (v : Nat) : Nat := if v == 0 || 16384 < v then 16384 else v

/-- The value a write to a field is taken as, where the register tables limit it. -/
def takenRules : List (Fld × (Nat → Nat)) :=
  [(F.laneCtl_loopback, fun v => if v == 1 then 1 else 0),
   (F.lanePrbsCtl_txPat, fun v => if 5 < v then 0 else v), (F.lanePrbsCtl_rxPat, fun v => if 5 < v then 0 else v),
   (F.posCtl_hyst, max 1), (F.posCtl_indexMode, fun v => if v == 3 then 0 else v),
   (F.posSerCtl_bits, clampNat 8 48), (F.posSerJump_coastMax, max 1),
   (F.reelRamp_ramp, min 20), (F.reelStopTime_us, max 1),
   (F.reelFollowCtl_timeout, fun v => if v == 0 then 8 else v), (F.reelFollowPeriod_samplePeriod, max 500),
   (F.timePpsCtl_outSrc, fun v => if v == 3 then 0 else v), (F.timePpsCtl_widthMs, clampNat 1 500),
   (F.pulseWidth_width, clampNat 8 (2 ^ 31)),
   (F.streamLim_maxPayload, clampNat 64 9554), (F.streamLim_flushUs, max 1)] ++
  [(F.headboxFrameLen_fMinus1, max 63), (F.headboxLineTimeout_ns, max 1000), (F.headboxChCfg_width, widthTaken),
   (F.calRsStep_step, clampNat 0x8000 0x20000), (F.calRsWout_wout, widthTaken),
   (F.ridgeRotCtl_periodMs, max 10), (F.ridgeRotCtl_budget, clampNat 1 80), (F.ridgeRotCtl_patterns, clampNat 10 20),
   (F.couchCtl_dest, fun v => if v == 3 then 0 else v), (F.couchCtl_statsDest, fun v => if v == 3 then 0 else v),
   (F.couchSeamCtl_waitMs, max 1), (F.couchCropCtl_maxW, clampNat 16 1024), (F.couchCropCtl_maxH, clampNat 16 1024),
   (F.couchCropCtl_codec, fun v => if v == 3 then 0 else v),
   (F.laidCtl_gapDest, fun v => if v == 3 then 0 else v)] ++
  [(F.screeCtl_confirm, max 1), (F.screeMeasTiming_timeoutUs, max 150), (F.screeTempLimits_clearMs, max 1),
   (F.reamDefer_hostDeferUs, clampNat 1 10000),
   (F.hbmScrubCtl_scrubHours, clampNat 1 168), (F.hbmScrubCtl_scrubDeferUs, max 1),
   (F.hbmPortTarget_targetNs, max 500),
   (F.ringCtl_entryBytes, fun v => if v == 3 then 0 else v), (F.ringMod_modCount, max 1),
   (F.hostTxSize_txSize, powerWithin 16 1024), (F.dmaLimit_chLimit, fun v => if v == 0 then 65535 else v),
   (F.cairnEvioIn_edge, fun v => if v == 3 then 0 else v), (F.cairnEvioWidth_widthNs, max 8)]

/-- A written value with each field as it is taken. -/
def BarWrite.taken (w : BarWrite) : Nat :=
  takenRules.foldl (fun v r =>
    if r.1.base == w.base && r.1.off == w.off then (r.1.inWord (BitVec.ofNat 32 v) (r.2 (bits v r.1.lo r.1.width))).toNat
    else v) w.value

/-! ### Fields (R11, R14, R75) -/

/-- What one field of a register takes from a write: its new value; whether a mark, and whether a lock, held it. -/
def State.fieldTakes (s : State) (w : BarWrite) (old v lock : Nat) (f : FieldRow) : Nat × Bool × Bool :=
  let was := bits old f.lo f.width
  let want := bits v f.lo f.width
  match f.access with
  | .rw =>
    if f.mark == .mediated then (was, false, false)
    else if f.mark == .cm && !w.loader && !s.cmMode then (was, want != was, false)
    else
      let held := if w.loader then 0 else bits lock f.lo f.width
      let next := (was &&& held) ||| (want &&& (held ^^^ (2 ^ f.width - 1)))
      (next, false, next != want)
  | .rwl => if w.loader then (want, false, false) else (was, false, want != was)
  | .w1c => (was &&& (want ^^^ (2 ^ f.width - 1)), false, false)
  | .wo => (0, false, false)
  | _ => (was, false, false)

/-- A write applied field by field (R14): fields held by a mode mark or a lock keep their values, and the write is
logged where it would have changed one. -/
def State.writeFields (s : State) (w : BarWrite) (v : Nat) : State :=
  let old := (s.reg w.addr).toNat
  let lock := (Sparse.get (fun _ => 0) s.locks w.addr).toNat
  let r := w.row.fields.foldl (fun (x : Nat × Bool × Bool) f =>
    let t := s.fieldTakes w old v lock f
    (x.1 + t.1 * 2 ^ f.lo, x.2.1 || t.2.1, x.2.2 || t.2.2)) (0, false, false)
  let s := s.setReg w.addr (BitVec.ofNat 32 r.1)
  let s := if r.2.1 then s.accessFault Af.wrongMode w.addr w.isl true else s
  if r.2.2 then s.accessFault Af.lockedWrite w.addr w.isl true else s

/-- A write with no effect beyond its fields. -/
def State.writePlain (s : State) (w : BarWrite) : State := s.writeFields w w.taken

/-- A write refused as a whole (R14). -/
def State.writeRefused (s : State) (w : BarWrite) (cause : Nat) (owner : Nat := 0) : State :=
  s.accessFault cause w.addr w.isl true owner

/-- The LO half of a writable pair: staged until the HI write (R13). -/
def State.writeLo (s : State) (w : BarWrite) : State := { s with latches := Sparse.insert s.latches w.addr (BitVec.ofNat 32 w.value) }

/-- The HI write of a writable pair: both halves take effect (R13), field by field. -/
def State.writeHi (s : State) (w : BarWrite) : State :=
  let lo := w.addr - 4
  let s := match s.latches.lookup lo with
    | none => s
    | some v =>
      let row : RegRow := (findReg lo regBlocks).elim w.row (·.2.2)
      ({ s with latches := Sparse.erase s.latches lo } : State).writeFields { w with addr := lo, row := row } v.toNat
  s.writeFields w w.value

/-- A word of a pair of no further effect. -/
def State.writePair (s : State) (w : BarWrite) : State := if w.row.pair == .wLo then s.writeLo w else s.writeHi w

/-- A pair as the register file holds it. -/
def State.pairAt (s : State) (lo : Nat) : Nat := (s.reg lo).toNat + (s.reg (lo + 4)).toNat * 2 ^ 32

/-! ### The blocks -/

/-- A bit of the written value. -/
def BarWrite.has (w : BarWrite) (f : Fld) : Bool := bits w.value f.lo f.width != 0

/-- A field of the value as taken. -/
def BarWrite.get (w : BarWrite) (f : Fld) : Nat := bits w.taken f.lo f.width

/-- CHIEF_ISL_SEL and CHIEF_ISL_STAT (R39). -/
def State.chiefWrite (s : State) (w : BarWrite) : State :=
  if w.off == 0x00 then (s.writePlain w).showIsl
  else if w.off == 0x04 && w.has F.chiefIslStat_fabricErr then
    let i := s.rd F.chiefIslSel_isl
    if islandAssigned i then s.setIsl i { s.isl i with fabricErr := false } else s
  else s.writePlain w

/-- The lane registers (R102, R110, R112, R116 to R118). -/
def State.laneWrite (s : State) (w : BarWrite) : State :=
  let n := w.idx
  let l : Fin 64 := Fin.ofNat 64 n
  let v : Word := BitVec.ofNat 32 w.value
  if w.off == 0x000 then
    if s.laneLocked n false then s.writeRefused w Af.lockedWrite else
    let old := s.rd F.laneCtl_loopback n
    let bad := w.get F.laneCtl_loopback != old && !(s.mode == Md.maintain)
    let s := s.writeFields w (if bad then (F.laneCtl_loopback.inWord (BitVec.ofNat 32 w.taken) old).toNat else w.taken)
    let s := if bad then s.writeRefused w Af.wrongMode else s
    let s := if s.flag F.laneCtl_squelch n then s.laneOff n else s.laneStart n
    let s := s.laneTest n
    if w.has F.laneCtl_relock then (ran (execLaneRelock l s) s) else s
  else if w.off == 0x040 then (ran (execLaneTxDelayWrite l v s) s)
  else if w.off == 0x044 then (ran (execLaneProbeStart l v s) s)
  else if w.off == 0x064 then
    if s.laneLocked n false then s.writeRefused w Af.lockedWrite else
    let t := s.writePlain w
    let used := t.rd F.laneTxfir_pre n + t.rd F.laneTxfir_post n
    if 32 < used then s.writeRefused w Af.wrongMode else t.wr F.laneTxfir_main n (64 - used)
  else if w.off == 0x080 then (ran (execMarginStart l v s) s)
  else if w.off == 0x0A0 then
    match s.prbsRefused n with
    | some t => t
    | none =>
      let s := (s.writePlain w).laneTest n
      let s := if w.has F.lanePrbsCtl_inject then (ran (execPrbsInject l s) s) else s
      if w.has F.lanePrbsCtl_clear then (ran (execPrbsClear l s) s) else s
  else s.writePlain w

/-- The position axes (R126, R127): a changed INDEX_MODE or POS_CPR begins anew with no index seen. -/
def State.posWrite (s : State) (w : BarWrite) : State :=
  let a := w.idx
  let anew (was now : State) (f : Fld) : State :=
    if was.rd f a == now.rd f a then now else now.setAxis a { now.axis a with indexed := false }
  if w.off == 0x00 then
    let t := anew s (s.writePlain w) F.posCtl_indexMode
    if w.has F.posCtl_arm then (ran (execAxisArm (Fin.ofNat 8 a) t) t) else t
  else if w.off == 0x10 then anew s (s.writePlain w) F.posCpr_value
  else s.writePlain w

/-- A write to a shadowed field of the Reel sets SHADOW_PENDING where it changes the shadow copy (R144). -/
def State.reelShadow (s t : State) (a : Nat) : State :=
  if s.reg a == t.reg a then t else t.up F.reelTrackCtl_shadowPending

/-- REEL_TRACK_CTL (R131, R139, R144), field by field. -/
def State.trackWrite (s : State) (w : BarWrite) : State :=
  let src := w.get F.reelTrackCtl_src
  let s :=
    if src == s.rd F.reelTrackCtl_src then s
    else if 9 < src || !(w.loader || s.cmMode) then s.writeRefused w Af.wrongMode
    else (s.wr F.reelTrackCtl_src 0 src).showSports
  let bw := w.get F.reelTrackCtl_bw
  let s := if bw == s.rd F.reelTrackCtl_bw then s
    else (s.wr F.reelTrackCtl_bw 0 bw).up F.reelTrackCtl_shadowPending
  let fwd := w.has F.reelTrackCtl_forward
  if fwd == s.flag F.reelTrackCtl_forward then s else (ran (execReelForwardWrite fwd s) s)

/-- The Reel (R131 to R153). -/
def State.reelWrite (s : State) (w : BarWrite) : State :=
  let v : Word := BitVec.ofNat 32 w.value
  if w.off == 0x00 then s.trackWrite w
  else if w.off == 0x0C then
    let t := s.writeHi w
    if s.pairAt (w.addr - 4) == t.pairAt (w.addr - 4) then t else t.up F.reelTrackCtl_shadowPending
  else if w.off == 0x10 || w.off == 0x18 then s.reelShadow (s.writePlain w) w.addr
  else if w.off == 0x14 then
    s.reelShadow (s.writeFields w (max (if s.exposeImage then 250 else 2500) (bits w.value 0 16))) w.addr
  else if w.off == 0x34 then (ran (execReelPosSet v s) s)
  else if w.off == 0x38 then (ran (execReelAdjust v s) s)
  else if w.off == 0x80 then
    let t := s.writePlain w
    let t := if s.rd F.reelFollowCtl_role == t.rd F.reelFollowCtl_role then t
      else { t with reel.followed := false, reel.coast := none }
    t.showSports
  else if w.row.pair == .wLo then s.writeLo w
  else s.writePlain w

/-- Schedulers and capture units of the Reel (R145 to R147). -/
def State.schedWrite (s : State) (w : BarWrite) : State :=
  if w.off == 0x00 then (ran (execSchedEnable (Fin.ofNat 8 w.idx) (BitVec.ofNat 32 w.value) s) s)
  else if w.off == 0x08 then (s.writeHi w).targetWritten w.idx
  else if w.row.pair == .wLo || w.row.pair == .wHi then s.writePair w
  else s.writePlain w

def State.rcapWrite (s : State) (w : BarWrite) : State :=
  let t := s.writePlain w
  if w.off == 0x00 && w.has F.rcapCtl_pop then t.setCaps w.idx (t.caps w.idx).tail else t

/-- The time unit (R159 to R164, R181, R182). -/
def State.timeWrite (s : State) (w : BarWrite) : State :=
  let v : Word := BitVec.ofNat 32 w.value
  if w.off == 0x0C then (ran (execTimeIncWrite v s) s)
  else if w.off == 0x14 then (ran (execTimeSlewStart v s) s)
  else if w.off == 0x1C then (ran (execTimeStep v s) s)
  else if w.off == 0x3C then (ran (execTimeBaseCommit v s) s)
  else if w.off == 0x40 then
    let t := s.writePlain w
    let src := t.rd F.timePpsCtl_outSrc
    if src == s.rd F.timePpsCtl_outSrc then t
    else if src == 2 then
      ({ t with time.ppsHigh := false } : State).ppsDrive ((t.gen 3).active != t.flag F.pulseCtl_polarity 3)
    else ({ t with time.ppsHigh := false } : State).ppsDrive false
  else if w.row.pair == .wLo then s.writeLo w
  else s.writePlain w

def State.tcapWrite (s : State) (w : BarWrite) : State :=
  let t := s.writePlain w
  if w.off == 0x0 && w.has F.tcapCtl_pop then t.setTcaps w.idx (t.tcaps w.idx).tail else t

/-- Comparators (R175 to R177): a control write of the host to a unit it does not hold sets DENIED. -/
def State.compWrite (s : State) (w : BarWrite) : State :=
  let r := Res.timecmp + w.idx
  if w.off == 0x14 then s.writePlain w
  else if !w.loader && !s.hostHolds r then (s.up F.compStat_denied w.idx).writeRefused w Af.conflict (s.owner r)
  else if w.off == 0x00 then s.compCtl w.idx (BitVec.ofNat 32 w.value)
  else s.writePair w

/-- Pulse generators (R177, R178). -/
def State.pulseWrite (s : State) (w : BarWrite) : State :=
  let r := Res.pulse + w.idx
  if w.off == 0x18 then s.writePlain w
  else if !w.loader && !s.hostHolds r then (s.up F.pulseStat_denied w.idx).writeRefused w Af.conflict (s.owner r)
  else if w.off == 0x00 then s.pulseCtl w.idx (BitVec.ofNat 32 w.value)
  else if w.off == 0x0C then s.writePlain w
  else s.writePair w

def State.macWrite (s : State) (w : BarWrite) : State :=
  if w.off == 0x020 then (if w.has F.macTsFifo_pop then s.setStamps w.idx (s.stamps w.idx).tail else s)
  else if w.row.pair == .wLo || w.row.pair == .wHi then s.writePair w
  else s.writePlain w

/-- The Headbox (R192, R200, R203): the registers of a port whose quad has no SENSOR role take no write. -/
def State.headboxWrite (s : State) (w : BarWrite) (p : Nat) : State :=
  if !s.sensorPort p then s
  else if w.base == Tbl.hbPort.base && w.off == 0x020 then
    (ran (execCamCtrlGo (Fin.ofNat 12 p) (BitVec.ofNat 32 w.value) s) s)
  else if w.base == Tbl.hbPort.base && w.off == 0x000 then (s.writePlain w).couchRefresh.showSports
  else s.writePlain w

/-- A shadowed scalar of a Calender (R224); the loader writes both copies (R228). -/
def State.calShadow (s : State) (w : BarWrite) : State :=
  let n := w.idx
  let t := s.writePlain w
  if w.loader then t.calScalars n
  else
    let same := s.rd F.calCtl_corrEn n == t.rd F.calCtl_corrEn n && s.rd F.calCtl_substEn n == t.rd F.calCtl_substEn n &&
      (w.off == 0x000 || s.reg w.addr == t.reg w.addr)
    if same then t else t.up F.calShadowCtl_shadowPending n

/-- The Calenders (R219, R224 to R227). -/
def State.calWrite (s : State) (w : BarWrite) : State :=
  let c : Fin 48 := Fin.ofNat 48 w.idx
  if w.off ≤ 0x00C then s.calShadow w
  else if w.off == 0x020 then
    let s := s.writePlain w
    let s := if w.has F.calShadowCtl_commit then (ran (execCalCommit c s) s) else s
    if w.has F.calShadowCtl_discard then (ran (execCalDiscard c s) s) else s
  else s.writePlain w

/-- A word of a window with the bytes the image has locked left as they are (R74): the word, and whether a locked
byte would have changed. -/
def State.unlocked (s : State) (w : BarWrite) (old : Nat) : Nat × Bool :=
  let lock := if w.loader then 0 else (Sparse.get (fun _ => 0) s.locks w.addr).toNat
  let v := (old &&& lock) ||| (w.value &&& (lock ^^^ (2 ^ 32 - 1)))
  (v, v != w.value)

/-- A word of a window held in part by a lock is logged (R74). -/
def State.noteLocked (s : State) (w : BarWrite) (locked : Bool) : State :=
  if locked then s.writeRefused w Af.lockedWrite else s

/-- The coefficient window (R214, R224, R228). -/
def State.coefWindow (s : State) (w : BarWrite) : State :=
  let n := w.idx / 16384
  let i := w.idx % 16384
  if w.loader then
    let s := s.setReg w.addr (BitVec.ofNat 32 w.value)
    { s with coefActive := Sparse.set resetWord s.coefActive w.addr (BitVec.ofNat 32 w.value) }
  else
    let r := s.unlocked w (s.reg w.addr).toNat
    let s := s.noteLocked w r.2
    if Sparse.get (fun _ => 0) s.locks w.addr == 0xFFFFFFFF then s else s.coefWrite n i (BitVec.ofNat 32 r.1)

/-- RIDGE_CTL (R244) and the other direct registers of a Ridge. -/
def State.ridgeWrite (s : State) (w : BarWrite) : State :=
  let s := s.writePlain w
  if w.off != 0x000 then s else
  let s := s.restStep w.idx
  if w.has F.ridgeCtl_rotNow then (ran (execRotNow (Fin.ofNat 6 w.idx) s) s) else s

/-! ### Mailboxes (R20) -/

/-- An agent's mailbox. -/
def State.mailOf (s : State) (agent : Nat) : List (Nat × Word) := Sparse.get (fun _ => []) s.chief.mail agent

/-- A mediated write enters its agent's mailbox of 16 entries, or is discarded and logged. -/
def State.mail (s : State) (w : BarWrite) (agent v : Nat) : State :=
  let m := s.mailOf agent
  if 16 ≤ m.length then s.writeRefused w Af.mailboxFull
  else { s with chief.mail := Sparse.set (fun _ => []) s.chief.mail agent (m ++ [(w.addr, BitVec.ofNat 32 v)]) }

/-- A word of a Ridge's node window (R233, R235): bytes 0 to 7 are structure, the rest PARAM. -/
def State.nodeWrite (s : State) (w : BarWrite) : State :=
  let k := w.idx / 128
  let i := w.idx % 128 / 16
  let o := w.idx % 16
  if s.rd F.ridgeStat_nodes k ≤ i then s.writeRefused w Af.wrongMode
  else if o < 2 then (if (s.reg w.addr).toNat == w.value then s else s.writeRefused w Af.lockedWrite)
  else
    let r := s.unlocked w (leAt (s.newestParam k i) (4 * (o - 2)) 4)
    (s.noteLocked w r.2).mail w (0x30 + k) r.1

/-- A word of the inactive bank of a mediated window (R74, R306, R340, R361); the loader writes both banks. -/
def State.forestWindow (s : State) (w : BarWrite) : State :=
  let r := s.unlocked w (s.reg w.addr).toNat
  if w.loader then
    { s.setReg w.addr (BitVec.ofNat 32 w.value) with
      forestActive := Sparse.set resetWord s.forestActive w.addr (BitVec.ofNat 32 w.value) }
  else (s.noteLocked w r.2).mail w 0x78 r.1

/-- A write that sets a reserved bit of a dose class is discarded (R340). -/
def State.doseWindow (s : State) (w : BarWrite) : State :=
  if bits w.value 9 22 != 0 then s.writeRefused w Af.wrongMode
  else if w.loader then
    ({ s.setReg w.addr (BitVec.ofNat 32 w.value) with
      doseActive := Sparse.set resetWord s.doseActive w.addr (BitVec.ofNat 32 w.value) } : State).showClassCrc
  else
    let r := s.unlocked w (s.reg w.addr).toNat
    (s.noteLocked w r.2).mail w 0x89 r.1

/-- The Beam Order Table window (R360, R361, R402). -/
def State.botWindow (s : State) (w : BarWrite) : State :=
  if w.loader then
    let v : Word := BitVec.ofNat 32 (w.value % 4096)
    { s.setReg w.addr v with botActive := Sparse.set resetWord s.botActive w.addr v }
  else if s.flag F.screeCtl_auto then s.writeRefused w Af.conflict 0x708B
  else
    let r := s.unlocked w (s.reg w.addr).toNat
    (s.noteLocked w r.2).mail w 0x8B (r.1 % 4096)

/-- The Couch (R299, R306, R312, R317). -/
def State.couchWrite (s : State) (w : BarWrite) : State :=
  if w.off == 0x400 then
    if w.loader then s.wr F.couchForestCtl_trees 0 (bits w.value 0 16) |>.wr F.couchForestCtl_view 0 (bits w.value 17 1)
    else
      let lock := bits (Sparse.get (fun _ => 0) s.locks w.addr).toNat 0 16
      let trees := (s.rd F.couchForestCtl_trees &&& lock) ||| (w.value % 65536 &&& (lock ^^^ 0xFFFF))
      let s := s.noteLocked w (trees != w.value % 65536)
      if 16 ≤ (s.mailOf 0x78).length then s.writeRefused w Af.mailboxFull
      else
        let s := s.mail w 0x78 (trees + bits w.value 16 1 * 65536)
        s.wr F.couchForestCtl_view 0 (bits w.value 17 1)
  else if w.off == 0x000 then (s.writePlain w).showSports
  else s.writePlain w

def State.markWrite (s : State) (w : BarWrite) : State :=
  if w.row.pair == .wLo || w.row.pair == .wHi then s.writePair w else s.writePlain w

/-- The layout ingress (R325, R331, R335). -/
def State.layoutWrite (s : State) (w : BarWrite) : State :=
  if w.off == 0x00 then
    let t := s.writePlain w
    if w.has F.layoutCtl_stripeReset then t.stripeReset else t
  else if w.off == 0x1C then (ran (execLayoutSubmit (BitVec.ofNat 32 w.value) s) s)
  else if w.off == 0x24 then (if w.has F.layoutResult_pop then (ran (execLayoutResultPop s) s) else s)
  else if w.row.pair == .wLo || w.row.pair == .wHi then s.writePair w
  else s.writePlain w

/-- MOULD_CTL (R340): VIEW is direct, SWAP mediated. -/
def State.mouldWrite (s : State) (w : BarWrite) : State :=
  if w.off != 0x00 then s.writePlain w
  else if w.has F.mouldCtl_swap then
    if 16 ≤ (s.mailOf 0x89).length then s.writeRefused w Af.mailboxFull else (s.mail w 0x89 1).writePlain w
  else s.writePlain w

/-- A shadowed word of the Laid (R358): SHADOW_PENDING where the shadow copy changes; the loader writes both copies. -/
def State.laidShadow (s : State) (w : BarWrite) : State :=
  let hi := w.row.pair == .wHi
  let t := if w.row.pair == .wLo then s.writeLo w else if hi then s.writeHi w else s.writePlain w
  let same := s.reg w.addr == t.reg w.addr && (!hi || s.reg (w.addr - 4) == t.reg (w.addr - 4))
  if same || w.loader then t else t.up F.laidStat_shadowPending

/-- The Laid (R357 to R359, R385). -/
def State.laidWrite (s : State) (w : BarWrite) : State :=
  if w.off == 0x00 then (s.writePlain w).showSports
  else if w.off == 0x08 then
    let s := s.writePlain w
    let s := if w.has F.laidStripeCtl_arm then (ran (execLaidArm s) s) else s
    if w.has F.laidStripeCtl_disarm then s.disarm else s
  else if w.off == 0x0C || w.off == 0x10 || w.off == 0x18 || w.off == 0x1C then s.laidShadow w
  else s.writePlain w

/-- The Scree (R389, R392, R400, R404). -/
def State.screeWrite (s : State) (w : BarWrite) : State :=
  if w.off == 0x00 then
    let s := s.writePlain w
    if w.has F.screeCtl_measNow then (ran (execMeasNow s) s) else s
  else if w.off == 0x04 then
    let held := s.rd F.screeStat_critLatched
    let s := (s.writePlain w).wr F.screeStat_critLatched 0 held
    if w.has F.screeStat_critLatched then (ran (execCritClear s) s) else s
  else if w.off == 0x20 then
    let warn := signed 8 (bits w.taken 0 8)
    let crit := signed 8 (bits w.taken 8 8)
    s.writeFields w (if crit < warn then (F.screeTempLimits_critC.inWord (BitVec.ofNat 32 w.taken) (bits w.taken 0 8)).toNat
      else w.taken)
  else if w.off == 0x30 then (if w.has F.screeOrderCtl_commit then s.mail w 0x8B 1 else s)
  else if w.off == 0x40 then (ran (execScreeDctlGo (BitVec.ofNat 32 w.value) s) s)
  else s.writePlain w

/-- The beam health window (R397): FORCE of two beams. -/
def State.healthWrite (s : State) (w : BarWrite) : State :=
  let t := s.writePlain w
  forN 2 (fun j (t : State) =>
    let x := 2 * w.idx + j
    if t.beamForce x == s.beamForce x then t else t.forceBeam x (t.beamForce x)) t

/-- The Ream engines (R426). -/
def State.reamWrite (s : State) (w : BarWrite) : State :=
  let e : Fin 4 := Fin.ofNat 4 w.idx
  let v : Word := BitVec.ofNat 32 w.value
  if w.off == 0x010 || w.off == 0x014 then
    if s.ringOpen w.idx then s.writePair w else s.writeRefused w Af.wrongMode
  else if w.off == 0x018 then (ran (execReamRingSize e v s) s)
  else if w.off == 0x01C then (ran (execReamRingTail e v s) s)
  else s.writePlain w

/-- HOST_CMD_BASE may take a value (R453, R533): 256 KiB aligned, with the ring inside the HOST_RINGS region, or
anywhere in HBM in RECOVERY. -/
def State.cmdBaseOk (s : State) (base : Nat) : Bool :=
  let b := base / 2 ^ 18 * 2 ^ 18
  if s.mode == Md.recovery then b + 2 ^ 18 ≤ Config.hbmBytes
  else s.inRegion 5 b (2 ^ 18)

/-- The command ring, the digest and the transmit ring (R453, R465, R468). -/
def State.hostWrite (s : State) (w : BarWrite) : State :=
  let v : Word := BitVec.ofNat 32 w.value
  if w.off == 0x10 then
    let s := s.wr F.hostCmdCtl_tailErr 0 (if w.has F.hostCmdCtl_tailErr then 0 else s.rd F.hostCmdCtl_tailErr)
    if w.has F.hostCmdCtl_cmdEn then (ran (execCmdEnSet s) s) else s.down F.hostCmdCtl_cmdEn
  else if w.off == 0x14 then (if s.flag F.hostCmdCtl_cmdEn then s.writeRefused w Af.wrongMode else s.writeLo w)
  else if w.off == 0x18 then
    if s.flag F.hostCmdCtl_cmdEn || !s.cmdBaseOk (s.stagedLo F.hostCmdBaseLo_base + w.value * 2 ^ 32)
    then (s.dropStaged F.hostCmdBaseLo_base).writeRefused w Af.wrongMode else s.writeHi w
  else if w.off == 0x1C then (ran (execHostCmdTail v s) s)
  else if w.off == 0x40 then (if w.has F.hostDigestCtl_snap then (ran (execDigestSnap s) s) else s)
  else if w.off == 0x304 || w.off == 0x308 then
    if s.flag F.hostTxCtl_en then s.writeRefused w Af.wrongMode else s.writePair w
  else if w.off == 0x310 then (ran (execHostTxTail v s) s)
  else s.writePlain w

/-- The output rings (R460 to R462, R480). -/
def State.outWrite (s : State) (w : BarWrite) : State :=
  let k := w.idx
  if w.off == 0x00 then
    let s := s.wr F.ringCtl_consErr k (if w.has F.ringCtl_consErr then 0 else s.rd F.ringCtl_consErr k)
    let s := if k == 4 then s.wr F.ringCtl_entryBytes k (w.get F.ringCtl_entryBytes) else s
    if w.has F.ringCtl_en then (ran (execRingEnable (Fin.ofNat 6 k) s) s) else (s.down F.ringCtl_en k).showOut k
  else if w.off == 0x04 || w.off == 0x08 then
    if s.flag F.ringCtl_en k then s.writeRefused w Af.wrongMode else s.writePair w
  else if w.off == 0x0C then
    if s.flag F.ringCtl_en k then s.writeRefused w Af.wrongMode
    else (s.writeFields w (if k == 5 then powerWithin (2 ^ 20) (2 ^ 30) (bits w.value 0 31)
      else powerWithin 16 (2 ^ 20) (bits w.value 0 31))).showOut k
  else if w.off == 0x14 then (ran (execRingConsWrite (Fin.ofNat 6 k) (BitVec.ofNat 32 w.value) s) s)
  else if w.row.pair == .wLo || w.row.pair == .wHi then s.writePair w
  else s.writePlain w

/-- The DMA channels (R469, R475, R477). -/
def State.dmaWrite (s : State) (w : BarWrite) : State :=
  let i := w.idx
  if w.off == 0x04 then s.writePlain w
  else if !w.loader && !s.hostHolds (Res.dma + i) then
    (s.up F.dmaStat_denied i).writeRefused w Af.conflict (s.owner (Res.dma + i))
  else if w.off == 0x00 then
    let s := s.writePlain w
    if w.has F.dmaCtl_abort then
      let running := s.dmaState i != Ds.idle && s.dmaState i != Ds.halted
      let s := if w.has F.dmaCtl_start && running then s.up F.dmaStat_startOverrun i else s
      s.dmaAbort i
    else if w.has F.dmaCtl_start then s.dmaStart i 0 else s
  else if w.off == 0x08 || w.off == 0x0C then
    if s.dmaState i == Ds.idle || s.dmaState i == Ds.halted then s.writePair w else s.writeRefused w Af.wrongMode
  else s.writePlain w

/-- Cairn and the EVIO pins (R177, R485, R488, R494). -/
def State.cairnBlockWrite (s : State) (w : BarWrite) : State :=
  let s := s.writePlain w
  s.wr F.cairnStat_ovrAny 0 (b2n ((List.range 5).any (fun k => s.rd (F.cairnOvr_ovr k) != 0)))

def State.evioOut (s : State) (w : BarWrite) : State :=
  let i := w.idx
  let v : Word := BitVec.ofNat 32 w.value
  if w.loader then s.writePlain w
  else if w.off == 0x0 then s.evioOutWrite i v
  else if !s.hostHolds (Res.evio + i) then
    (s.up F.cairnEvioOut_denied i).writeRefused w Af.conflict (s.owner (Res.evio + i))
  else s.writePlain w

/-- What the register of a write does with it. -/
def State.writeRegister (s : State) (w : BarWrite) : State :=
  let b := w.base
  let v : Word := BitVec.ofNat 32 w.value
  if b == Tbl.chief4.base then s.chiefWrite w
  else if b == Tbl.lane.base then s.laneWrite w
  else if b == Tbl.pos.base then s.posWrite w
  else if b == Tbl.reel.base then s.reelWrite w
  else if b == Tbl.sched.base then s.schedWrite w
  else if b == Tbl.rcap.base then s.rcapWrite w
  else if b == Tbl.time.base then s.timeWrite w
  else if b == Tbl.tcap.base then s.tcapWrite w
  else if b == Tbl.comp.base then s.compWrite w
  else if b == Tbl.pulse.base then s.pulseWrite w
  else if b == Tbl.mac.base then s.macWrite w
  else if b == Tbl.tmplCtl.base then (ran (execTemplateValid (Fin.ofNat 16 w.idx) v s) s)
  else if b == Tbl.stream.base then (s.writePlain w).showSport (256 + w.idx)
  else if b == Tbl.hbPort.base then s.headboxWrite w w.idx
  else if b == Tbl.hbCam.base || b == Tbl.hbCh.base then s.headboxWrite w (w.idx / 4)
  else if b == Tbl.cal.base then s.calWrite w
  else if b == Tbl.coef.base then s.coefWindow w
  else if b == Tbl.ridge.base then s.ridgeWrite w
  else if b == Tbl.nodeWin.base then s.nodeWrite w
  else if b == Tbl.couch.base then s.couchWrite w
  else if b == Tbl.couchPort.base || b == Tbl.seam.base then (s.writePlain w).couchRefresh
  else if b == Tbl.mark.base then s.markWrite w
  else if b == Tbl.forest.base then s.forestWindow w
  else if b == Tbl.layout.base then s.layoutWrite w
  else if b == Tbl.lstream.base then (s.writePlain w).showSport (512 + w.idx)
  else if b == Tbl.mould.base then s.mouldWrite w
  else if b == Tbl.dose.base then s.doseWindow w
  else if b == Tbl.laid.base then s.laidWrite w
  else if b == Tbl.vatSkew.base || b == Tbl.vatRow.base then s.laidShadow w
  else if b == Tbl.bot.base then s.botWindow w
  else if b == Tbl.scree.base then s.screeWrite w
  else if b == Tbl.health.base then s.healthWrite w
  else if b == Tbl.ream.base then s.reamWrite w
  else if b == Tbl.host.base then s.hostWrite w
  else if b == Tbl.oring.base then s.outWrite w
  else if b == Tbl.dma.base then s.dmaWrite w
  else if b == Tbl.msix.base then (s.writePlain w).sendPending
  else if b == Tbl.cairn.base then s.cairnBlockWrite w
  else if b == Tbl.evioOut.base then s.evioOut w
  else if b == Tbl.matrix.base then
    if w.loader then s.writeRefused w Af.conflict else s.cairnWrite Dom.hostPcie false (w.idx / 8) (w.idx % 8) v
  else s.writePlain w

/-! ### Accesses (R10, R12, R32, R37, R38, R60, R82) -/

/-- An address of an unassigned span (R36, R37, R214, R305, R340, R360). -/
def unassigned (a : Nat) : Bool :=
  (0x01600000 ≤ a && a < 0x02000000) || (0x02108000 ≤ a && a < 0x02200000) || (0x02500000 ≤ a && a < 0x02600000) ||
    (0x02620000 ≤ a && a < 0x02700000) || 0x02700400 ≤ a

/-- The island at which an access is decided (R577); the PCIe endpoint where no register lies. -/
def State.decidingIsland (s : State) (a : Nat) : Nat :=
  match findReg a regBlocks with
  | none => 0xC0
  | some (b, i, r) =>
    if b.base == Tbl.sport.base then
      (if s.sportActive i then 0x10 + s.rd F.sportCfg_lane i / 4 else 0x10)
    else r.island.getD (b.island.of i)

/-- An image is being checked and applied (R82). -/
def State.loading (s : State) : Bool := let x := s.rd F.cfgStat_state; x == 1 || x == 2 || x == 3

/-- An access is treated as one to a power-gated island (R37, R43, R60, R82, R533). -/
def State.closed (s : State) (a isl : Nat) : Bool :=
  let chief := a < 0x00100000
  let cfg := 0x00100000 ≤ a && a < 0x00200000
  let upd := 0x01500000 ≤ a && a < 0x01600000
  let host := 0x01200000 ≤ a && a < 0x01300000
  if s.mode == Md.starting || s.mode == Md.testHold then !chief
  else if s.mode == Md.recovery then !(chief || upd || (s.flag F.chiefMode_ready && host))
  else (s.loading && !(chief || cfg)) || s.isGated isl

/-- A BAR0 write of one aligned 32-bit word. -/
def State.barWrite (s : State) (loader : Bool) (a : Nat) (value : Nat) : State :=
  match findReg a regBlocks with
  | none => s
  | some (b, i, r) =>
    s.writeRegister ⟨loader, a, b.base, i, r.off, s.decidingIsland a, r, value⟩

/-- A write refused before it reaches its register: BAD_WIDTH, UNMAPPED, GATED, COMMAND_ONLY. -/
def State.writeBarred (s : State) (a width : Nat) : Option Nat :=
  let isl := s.decidingIsland a
  if width != 4 || a % 4 != 0 then some Af.badWidth
  else if unassigned a then some Af.unmapped
  else if s.closed a isl then some Af.gated
  else if (findReg a regBlocks).any (fun x => x.2.2.cmdOnly) then some Af.commandOnly
  else none

/-- REGISTER_WRITE (R10 to R14, R37, R38): `width` in bytes. -/
def execRegisterWrite (addr : BitVec 26) (width : BitVec 8) (value : Word) (s : State) : Out :=
  let a := addr.toNat
  match s.writeBarred a width.toNat with
  | some cause => .next (s.accessFault cause a (s.decidingIsland a) true)
  | none => .next (s.barWrite false a value.toNat)

/-- What a read of a word shows: the register file, or the active bank of a window whose VIEW, or whose class, says
so (R21, R224, R306, R340). -/
def State.shown (s : State) (a : Nat) : Word :=
  match findReg a regBlocks with
  | none => 0
  | some (b, i, _) =>
    if b.base == Tbl.coef.base && s.flag F.calShadowCtl_view (i / 16384) then Sparse.get resetWord s.coefActive a
    else if b.base == Tbl.forest.base && s.flag F.couchForestCtl_view then Sparse.get resetWord s.forestActive a
    else if b.base == Tbl.dose.base && s.flag F.mouldCtl_view then Sparse.get resetWord s.doseActive a
    else if b.base == Tbl.bot.base then Sparse.get resetWord s.botActive a
    else if b.base == Tbl.hbPort.base && !s.sensorPort i then 0
    else if (b.base == Tbl.hbCam.base || b.base == Tbl.hbCh.base) && !s.sensorPort (i / 4) then 0
    else s.reg a

/-- The RC fields of a register cleared by its read (R11). -/
def State.readClears (s : State) (a : Nat) : State :=
  match findReg a regBlocks with
  | none => s
  | some (_, _, r) =>
    if r.fields.all (fun f => f.access != .rc) then s else
    let old := (s.reg a).toNat
    let kept := r.fields.foldl (fun x f => x + (if f.access == .rc then 0 else bits old f.lo f.width) * 2 ^ f.lo) 0
    let s := s.setReg a (BitVec.ofNat 32 kept)
    if a == F.laidLedgerFailLine_line.addr 0 then { s with laid.failHeld := false } else s

/-- A read refused before it reaches its register; it answers 0. -/
def State.readBarred (s : State) (a width : Nat) : Option Nat :=
  if width != 4 || a % 4 != 0 then some Af.badWidth
  else if unassigned a then some Af.unmapped
  else if s.closed a (s.decidingIsland a) then some Af.gated
  else none

/-- The answer to a read. -/
def State.answer (s : State) (v : Word) : State := s.emit (.busAnswer (leBytes 4 v.toNat) false)

/-- RC_READ (R11, R13): a read of a register; a HI half latched by the read of its LO half is answered from the latch. -/
def execRcRead (addr : BitVec 26) (width : BitVec 8) (s : State) : Out :=
  let a := addr.toNat
  match s.readBarred a width.toNat with
  | some cause => .next ((s.accessFault cause a (s.decidingIsland a) false).emit (.busAnswer (zeros width.toNat) false))
  | none =>
    let pair := (findReg a regBlocks).any (fun x => x.2.2.pair == .roHi || x.2.2.pair == .wHi)
    match s.latches.lookup a with
    | some v => if pair then .next (({ s with latches := Sparse.erase s.latches a } : State).answer v)
                else .next ((s.readClears a).answer (s.shown a))
    | none => .next ((s.readClears a).answer (s.shown a))

/-- PAIR_LO_READ (R13): the HI half is latched for the following read. -/
def execPairLoRead (addr : BitVec 26) (s : State) : Out :=
  let a := addr.toNat
  match s.readBarred a 4 with
  | some cause => .next ((s.accessFault cause a (s.decidingIsland a) false).answer 0)
  | none =>
    let pair := (findReg a regBlocks).any (fun x => x.2.2.pair == .roLo || x.2.2.pair == .wLo)
    let t := if pair then { s with latches := Sparse.insert s.latches (a + 4) (s.shown (a + 4)) } else s
    .next ((t.readClears a).answer (s.shown a))

/-- ACCESS_TIMEOUT (R32, R39): the access is ended at the PCIe endpoint; a read answers 0. -/
def execAccessTimeout (addr : BitVec 26) (write : Bool) (s : State) : Out :=
  let a := addr.toNat
  let isl := s.decidingIsland a
  let t := if islandAssigned isl then s.setIsl isl { s.isl isl with fabricErr := true } else s
  let t := t.accessFault Af.accessTimeout a 0xC0 write
  .next (if write then t else t.answer 0)

/-! ### The agents' safe points -/

/-- One entry of a mailbox taken by the agent at island `agent` (R20). -/
def State.mailEntry (s : State) (agent a : Nat) (v : Word) : State :=
  if agent == 0x78 then
    if a == F.couchForestCtl_trees.addr 0 then
      let s := s.wr F.couchForestCtl_trees 0 (v.toNat % 65536)
      if bit v.toNat 16 then s.forestSwap else s
    else s.setReg a v
  else if agent == 0x89 then
    if a == F.mouldCtl_swap.addr 0 then s.up F.mouldCtl_swapPending else s.setReg a v
  else if agent == 0x8B then
    if a == F.screeOrderCtl_commit.addr 0 then s.orderCommit else s.writeBeam ((a - botLo) / 4) v.toNat
  else s

/-- The safe point of the Scree's agent is a stripe boundary (R21): no mailbox entry is taken while a stripe runs. -/
def State.safePoint (s : State) (agent : Nat) : Bool := !(agent == 0x8B && s.laid.running)

/-- MAILBOX_APPLY (R20, R235, R306, R340, R361): the agent takes its entries in order of arrival; a Ridge hub takes
its PARAM writes together. -/
def execMailboxApply (agent : BitVec 8) (s : State) : Out :=
  let g := agent.toNat
  let m := s.mailOf g
  if !s.safePoint g then .next s else
  let s := { s with chief.mail := Sparse.erase s.chief.mail g }
  if 0x30 ≤ g && g < 0x36 then
    let k := g - 0x30
    let at_ (a : Nat) : Nat := (a - F.ridgeNodeWord_word.addr (128 * k)) / 4
    .next (s.takeParams k (m.map (fun e => (at_ e.1 / 16, at_ e.1 % 16, e.2))))
  else .next (forAll m (fun e s => s.mailEntry g e.1 e.2) s)

end Sys2Proof.Machine
end

