-- ==== Sys2Proof/Machine/Loader.lean ====
section
/-! DEFINITION. The configuration loader (R73 to R82, R89 to R91, R579): what applying an image does, and the dry pass
that checks an image by the same rules. -/

namespace Sys2Proof.Machine

/-! ### Records as their chapters read them -/

/-- The records of a type, with their indices. -/
def Image.ofType (img : Image) (t : Nat) : List (Nat × ImgRec) := (indexed img.recs).filter (fun e => e.2.type == t)

/-- The payload of the one record of a type; empty where there is none. -/
def Image.payload (img : Image) (t : Nat) : Bytes := ((img.recs.find? (fun r => r.type == t)).map (·.payload)).getD []

/-- The words of a payload. -/
def payloadWords (b : Bytes) : List Nat := (List.range (b.length / 4)).map (fun i => leAt b (4 * i) 4)

/-- A quad's profile (R94). -/
def quadProfile (p : Bytes) : QuadProfile :=
  { role := leAt p 0 1, mask := leAt p 1 1, rate := leAt p 2 1, roleOpt := leAt p 3 1
    laneOpt := [leAt p 4 1, leAt p 5 1, leAt p 6 1, leAt p 7 1]
    logicalMap := leAt p 8 1, refclk := leAt p 9 1, linkId := leAt p 10 1 }

/-- No profile: an unused quad. -/
def noProfile : QuadProfile := ⟨0, 0, 0, 0, [], 0, 0, 0⟩

/-- The profile of quad `q` among an image's. -/
def profileOf (quads : Sparse QuadProfile) (q : Nat) : QuadProfile := Sparse.get (fun _ => noProfile) quads q

/-- The quads of an image. -/
def Image.quads (img : Image) : Sparse QuadProfile :=
  (img.ofType Rt.laneProfile).foldl (fun m e =>
    Sparse.set (fun _ => noProfile) m (e.2.target % 16) (quadProfile e.2.payload)) []

/-- An entry of PIN_FUNC: pin, group, function (R72). -/
structure PinEntry where
  pin : Nat
  group : Nat
  fn : PinFn

/-- The pin entries of an image. -/
def Image.pins (img : Image) : List PinEntry :=
  (payloadWords (img.payload Rt.pinFunc)).map (fun w => ⟨bits w 0 8, bits w 8 4, ⟨bits w 16 8, bits w 24 8⟩⟩)

/-- The claims of an image: index, tag, and the bits that are 0. -/
def Image.claims (img : Image) : List (Nat × Nat × Nat) :=
  (payloadWords (img.payload Rt.claim)).map (fun w => (bits w 0 16, bits w 16 12, bits w 28 4))

/-- The columns a CAIRN record sets, with their 32 bytes. -/
def cairnColumns (r : ImgRec) : List (Nat × Bytes) :=
  (List.range (r.payload.length / 32)).map (fun i => (r.target + i, sub r.payload (32 * i) 32))

/-- Every column an image sets. -/
def Image.columns (img : Image) : List (Nat × Bytes) := (img.ofType Rt.cairn).flatMap (fun e => cairnColumns e.2)

/-- A region entry (R432). -/
def regionOf (e : Bytes) : Region :=
  { id := leAt e 0 1, kind := leAt e 1 1, hostWrite := bit (leAt e 2 1) 0, zero := bit (leAt e 2 1) 1
    base := leAt e 8 8, size := leAt e 16 8 }

/-- The entries of the plan. -/
def Image.planEntries (img : Image) : List Bytes :=
  let p := img.payload Rt.hbmPlan
  (List.range (p.length / 32)).map (fun i => sub p (32 * i) 32)

/-- The regions of the plan. -/
def Image.regions (img : Image) : List Region := (img.planEntries.drop 1).map regionOf

/-- The window of a TABLE record and its size in bytes (R36, R72). -/
def windowOf (id : Nat) : Nat × Nat :=
  match id with
  | 0 => (0x02000000, 0x108000)
  | 1 => (0x02200000, 0x300000)
  | 2 => (0x02600000, 0x20000)
  | _ => (0x02700000, 0x400)

/-- The MODE of an axis from its pins' function codes A, B, Z, U, V, W (R120); `none` for a combination that is
rejected. -/
def axisModeOf (codes : List Nat) : Option Nat :=
  match codes with
  | [0, 0, 0, 0, 0, 0] => some 0
  | [1, 1, 0, 0, 0, 0] => some 1
  | [1, 1, 1, 0, 0, 0] => some 1
  | [0, 0, 0, 2, 2, 2] => some 2
  | [3, 4, 0, 0, 0, 0] => some 3
  | _ => none

/-- The function codes of an axis's pins. -/
def axisCodes (pins : List PinEntry) (a : Nat) : List Nat :=
  (List.range 6).map (fun p =>
    ((pins.find? (fun e => e.group == 1 && e.pin == 6 * a + p)).map (·.fn.func)).getD 0)

/-- The islands gated under an image (R25). -/
def gatedUnder (runMode : Nat) : List Nat :=
  if runMode == 3 then
    ((List.range 12).map (0x20 + ·)) ++ [0x34, 0x35] ++ ((List.range 18).map (0x64 + ·))
  else []

/-! ### What a load keeps (R91) -/

/-- A quad whose profile is the same in both images, so that its lanes stay as they are. -/
def sameQuad (old new : Sparse QuadProfile) (q : Nat) : Bool :=
  profileOf old q == profileOf new q && (profileOf new q).role != 0

/-- A register that keeps its value (R91): the identity, mode and log registers; the time counter, the Reel's position;
lanes of the same profile; the memory's condition; the HOST and DMA block with MSI-X; columns and resources claimed at
run time; the TEST, UPDATE and SEC blocks, which no image writes. -/
def State.keepsWord (s : State) (quads : Sparse QuadProfile) (a : Nat) : Bool :=
  let same (q : Nat) : Bool := sameQuad s.cfg.quads quads q
  if a < 0x00102000 then true
  else if a < 0x00200000 then
    let w := (s.reg a).toNat
    bits w 12 4 != 0 && !bit w 31
  else if a < 0x00240000 then same ((a - 0x00200000) / 0x4000)
  else if a < 0x00241000 then same ((a - 0x00240000) / 0x100)
  else if a == F.reelPosLo_value.addr 0 || a == F.reelPosHi_value.addr 0 || a == F.reelHwmLo_value.addr 0 ||
      a == F.reelHwmHi_value.addr 0 || a == F.reelRate_hz.addr 0 || a == F.reelStat_step.addr 0 then true
  else if a == F.timeNowLo_value.addr 0 || a == F.timeNowHi_value.addr 0 then true
  else if 0x00B10000 ≤ a && a < 0x00B14000 then
    (a % 0x400 == F.macStat_linkUp.off) && same (12 + (a - 0x00B10000) / 0x1000)
  else if a == F.hbmStat_state.addr 0 || a == F.hbmTemp_stack0.addr 0 then true
  else if 0x01101000 ≤ a && a < 0x01101400 then a % 16 == 0
  else if 0x01200000 ≤ a && a < 0x01300000 then true
  else if 0x01301000 ≤ a && a < 0x01302400 then
    let own := s.reg (F.cfgOwner_tag.addr (Res.cairncol + (a - 0x01301000) / 32))
    bits own.toNat 12 4 != 0 && !bit own.toNat 31
  else decide (0x01400000 ≤ a ∧ a < 0x01600000)

/-- Every register and table at its reset value but those kept, and every block that holds data empty. -/
def State.loadBase (s : State) (quads : Sparse QuadProfile) : State :=
  let keptLane (n : Nat) : Bool := sameQuad s.cfg.quads quads (n / 4)
  let keptPort (p : Nat) : Bool := s.sportActive p && keptLane (s.rd F.sportCfg_lane p)
  let r := s.reel
  { s with
    regs := s.regs.filter (fun e => s.keepsWord quads e.1)
    latches := s.latches.filter (fun e => s.keepsWord quads e.1)
    locks := []
    coefActive := [], forestActive := [], doseActive := [], botActive := []
    links := { lanes := s.links.lanes.filter (fun e => keptLane e.1), ports := s.links.ports.filter (fun e => keptPort e.1)
               turn := s.links.turn.filter (fun e => keptLane (4 * e.1)) }
    axes := []
    reel := { r with adjust := 0, backlog := [], stop := none, scheds := [], caps := [], followed := false, coast := none }
    time := { ppsEdge := s.time.ppsEdge }
    headbox := {}, calender := [], ridges := [], kernels := [], couch := {}, stats := {}
    layout := {}, mould := {}, wm := {}, laid := {}, laidChs := [], vat := [], scree := {}, screeChs := [], engines := []
    chief := { s.chief with mail := [] } }

/-! ### Applying the records (R81) -/

/-- One word written by the loader as the host would write it (R73), and whether the block's rules refuse it (R77). -/
def State.loadWord (s : State) (a v : Nat) : State × Bool :=
  match findReg a regBlocks with
  | none => (s, v != 0)
  | some (_, _, r) =>
    let defined := r.fields.foldl (fun m f => m ||| (2 ^ f.width - 1) * 2 ^ f.lo) 0
    if r.cmdOnly || v &&& (defined ^^^ (2 ^ 32 - 1)) != 0 then (s, true) else
    let fault := F.chiefAccessFault_cause.addr 0
    let t := (s.setReg fault 0).barWrite true a v
    (t.setReg fault (s.reg fault), t.rd F.chiefAccessFault_count != 0)

/-- Consecutive words from `a`, with whether one was refused. -/
def State.loadWords (s : State) (a : Nat) : Bytes → State × Bool
  | b0 :: b1 :: b2 :: b3 :: t =>
    let (s, bad) := s.loadWord a (leNat [b0, b1, b2, b3])
    let (s, bad') := State.loadWords s (a + 4) t
    (s, bad || bad')
  | _ => (s, false)

/-- Bytes laid from byte address `a`, the other bytes of the words at both ends as they stand. -/
def State.loadBytes (s : State) (a : Nat) (data : Bytes) : State × Bool :=
  let lo := a / 4 * 4
  let stop := a + data.length
  let hi := (stop + 3) / 4 * 4
  let before := (leBytes 4 (s.reg lo).toNat).take (a - lo)
  let after := (leBytes 4 (s.reg (hi - 4)).toNat).drop (4 - (hi - stop))
  if data.isEmpty then (s, false) else s.loadWords lo (before ++ data ++ after)

/-- Bits of a register held as RWL (R73 to R75). -/
def State.lockBits (s : State) (a mask : Nat) : State :=
  { s with locks := Sparse.set (fun _ => 0) s.locks a ((Sparse.get (fun _ => 0) s.locks a) ||| BitVec.ofNat 32 mask) }

/-- The bits of a register's RW fields. -/
def rwBits (a : Nat) : Nat :=
  match findReg a regBlocks with
  | none => 0
  | some (_, _, r) => r.fields.foldl (fun m f => if f.access == .rw then m ||| (2 ^ f.width - 1) * 2 ^ f.lo else m) 0

/-- The bytes from `a`, `len` of them, locked in their window's words (R74). -/
def State.lockBytes (s : State) (a len : Nat) : State :=
  forN ((a + len + 3) / 4 - a / 4) (fun i s =>
    let w := a / 4 * 4 + 4 * i
    let mask := ((List.range 4).map (fun (j : Nat) => if a ≤ w + j && w + j < a + len then 255 * 256 ^ j else 0)).sum
    s.lockBits w mask) s

/-- The banks and pins (R72, R76, R120). -/
def State.applyPins (s : State) (img : Image) : State :=
  let banks := (payloadWords (img.payload Rt.bank)).map (fun w => (bits w 0 8, bits w 8 8))
  let pins := img.pins.foldl (fun (m : Sparse PinFn) e => Sparse.set (fun _ => ⟨0, 0⟩) m (e.group * 256 + e.pin) e.fn) []
  let s := { s with cfg.pins := pins, cfg.banks := [0, 1, 2].map (fun b => ((banks.find? (fun (e : Nat × Nat) => e.1 == b)).map (·.2)).getD 0) }
  forN 8 (fun a s => s.wr F.posCtl_mode a ((axisModeOf (axisCodes img.pins a)).getD 0)) s

/-- PRE and POST of transmitter preset `p` (chapter 04, before R116): max(0, p − 5) × 2 and min(p, 5) × 3, in units of
1/64 of full swing; MAIN is what they leave of 64. -/
def txPreset (p : Nat) : Nat × Nat := ((p - 5) * 2, min p 5 * 3)

/-- A quad of the new image that is not the old one's (R94 to R96, R102): its lanes start anew. -/
def State.applyQuad (s : State) (q : Nat) (p : QuadProfile) : State :=
  let s := ((s.wr F.laneQuadStat_role q p.role).wr F.laneQuadStat_rateCode q p.rate).wr F.laneQuadStat_laneMask q p.mask
  let s := forN 4 (fun i s =>
    let n := 4 * q + i
    let o := p.laneOpt.getD i 0
    let (pre, post) := txPreset (bits o 2 4)
    if p.role == 0 then s else
    let s := s.wr F.laneCtl_eqFreeze n (bits o 6 1)
    ((s.wr F.laneTxfir_pre n pre).wr F.laneTxfir_post n post).wr F.laneTxfir_main n (64 - pre - post)) s
  if p.refclk == 0 && p.role != 0 then s.refclk q true else s

/-- The lane quads (R79, R91). -/
def State.applyQuads (s : State) (old new : Sparse QuadProfile) : State :=
  let s := { s with cfg.quads := new }
  forN 16 (fun q s => if sameQuad old new q then s else s.applyQuad q (profileOf new q)) s

/-- The claims (R83, R85, R86, R433). -/
def State.applyClaims (s : State) (img : Image) : State :=
  let s := forAll img.claims (fun (c : Nat × Nat × Nat) s => s.setOwner c.1 (Dom.image * 4096 + c.2.1) true) s
  forAll (img.regions.filter (·.kind != 0)) (fun r s =>
    s.setOwner (Res.hbmreg + r.id) (Dom.image * 4096 + 0x100 + r.kind) true) s

/-- A byte lies in a region. -/
def Region.has (r : Region) (a : Nat) : Bool := r.base ≤ a && a < r.base + r.size

/-- The plan (R91, R432): regions that both plans hold keep their contents; the contents of the others are undefined,
and read as bytes that nothing has written; ZERO regions are cleared. -/
def State.applyPlan (s : State) (img : Image) : State :=
  let plan := img.regions
  let same (r : Region) : Bool := s.mem.plan.any (fun o => o.id == r.id && o.base == r.base && o.size == r.size)
  let kept (a : Nat) : Bool :=
    if plan.any (fun r => r.has a && r.zero) then false
    else if plan.any (fun r => r.has a && same r) then true
    else !plan.any (·.has a) && !s.mem.plan.any (·.has a)
  let p := img.planEntries.headD []
  let s := s.keepHbm kept
  let s := { s with
    mem.plan := plan
    mem.bad := s.mem.bad.filter (fun u => !plan.any (fun r => r.has u && r.zero)) }
  let s := s.wr F.hbmStat_speed 0 (leAt p 2 1)
  let s := (s.wr F.hbmPolicy_srPolicy 0 (leAt p 3 1)).wr F.hbmPolicy_srIdleUs 0 (leAt p 4 2)
  s.wr F.hbmScrubCtl_scrubHours 0 (clampNat 1 168 (leAt p 6 2))

/-- A TABLE record (R74): whether a word of it was refused. -/
def State.applyTable (s : State) (r : ImgRec) : State × Bool :=
  let a := (windowOf r.target).1 + leAt r.payload 0 4
  let data := r.payload.drop 4
  let (s, bad) := s.loadBytes a data
  (if r.lock then s.lockBytes a data.length else s, bad)

/-- A REG record (R73). -/
def State.applyReg (s : State) (r : ImgRec) : State × Bool :=
  let (s, bad) := s.loadWords r.target r.payload
  (if r.lock then forN (r.payload.length / 4) (fun i s => s.lockBits (r.target + 4 * i) (rwBits (r.target + 4 * i))) s else s,
    bad)

/-- The columns a CAIRN record sets (R490). -/
def State.applyColumns (s : State) (r : ImgRec) : State :=
  forAll (cairnColumns r) (fun (c : Nat × Bytes) s =>
    let s := forN 7 (fun w s => s.setReg (F.cairnMatrix_word.addr (8 * c.1 + w)) (BitVec.ofNat 32 (leAt c.2 (4 * w) 4))) s
    let own := leAt c.2 28 4 % 32
    let s := s.setReg (F.cairnMatrix_word.addr (8 * c.1 + 7)) (BitVec.ofNat 32 own)
    s.setOwner (Res.cairncol + c.1) (own % 16 * 4096 + 5) true) s

/-- Records of one type applied in turn, with the index of the first one refused. -/
def applyRecs (recs : List (Nat × ImgRec)) (f : State → ImgRec → State × Bool) (s : State) : State × Option Nat :=
  recs.foldl (fun (x : State × Option Nat) e =>
    let (s, bad) := f x.1 e.2
    (s, x.2.or (if bad then some e.1 else none))) (s, none)

/-- The CFG block shows the image (R81). -/
def State.showImage (s : State) (img : Image) (source : Nat) : State :=
  let s := ((s.wr F.cfgStat_source 0 source).wr F.cfgStat_runMode 0 img.runMode).wr F.cfgStat_startMode 0 img.startMode
  let s := s.wr F.cfgStat_signed 0 (b2n img.isSigned)
  let s := forN 4 (fun i s => s.wr (F.cfgName_name i) 0 (leAt img.name (4 * i) 4)) s
  let s := s.wr64 F.cfgBuildLo_buildId F.cfgBuildHi_buildId 0 img.buildId
  let s := (s.wr F.cfgSize_totalLen 0 img.totalLen).wr F.cfgRecords_recCount 0 img.recCount
  forN 12 (fun i s => s.wr (F.cfgDigest_digest i) 0 (leAt img.digest (4 * i) 4)) s

/-- The Reel's shadowed fields after a load: what the registers hold is handed over by R144. -/
def State.reelLoaded (s : State) : State :=
  let r := s.reel
  let same := s.rd F.reelTrackCtl_bw == r.bw && s.rdI64 F.reelRatioLo_ratio F.reelRatioHi_ratio == r.ratioTo &&
    min 20 (s.rd F.reelRamp_ramp) == r.rampReg && s.rd F.reelMinPeriod_ns == r.minPeriod && s.rd F.reelStopTime_us == r.stopTime
  s.wr F.reelTrackCtl_shadowPending 0 (b2n !same)

/-- The Spurs of every Ridge once an image is applied (R231): those retired stay retired. -/
def State.startRidges (s : State) (retired : Nat → List Nat) : State :=
  forN 6 (fun k s =>
    let s := s.ridgeStart k (retired k)
    -- an INSPECT image without a graph for a Ridge, and Ridges 4 and 5 of an EXPOSE image, hold it (R80)
    if s.rd F.ridgeStat_nodes k == 0 then s.wr F.ridgeStat_state k 1 else s) s

/-- Every record of an image applied over the state a load keeps (R81, R91, R579): the state, and the index of the first
TABLE or REG record with a value that is refused. -/
def State.applyRecords (s : State) (img : Image) : State × Option Nat :=
  let old := s.cfg.quads
  let retired (k : Nat) : List Nat := (List.range 9).filter (fun j => s.rd F.ridgeSpurStat_role (spurAt k j) == SpurRole.retired)
  let forward := s.flag F.reelTrackCtl_forward
  let mode := s.mode
  let s := s.loadBase img.quads
  -- the blocks take the loader's writes as they take the host's in CONFIGURE
  let s := (s.wr F.chiefMode_mode 0 Md.configure).wr F.cfgStat_runMode 0 img.runMode
  let s := s.applyPins img
  let s := s.applyQuads old img.quads
  let s := s.applyClaims img
  let s := s.applyPlan img
  let (s, bad1) := applyRecs (img.ofType Rt.table) State.applyTable s
  let s := forAll (img.ofType Rt.stageGraph) (fun (e : Nat × ImgRec) s => s.applyGraph (e.2.target % 6) e.2.payload) s
  let (s, bad2) := applyRecs (img.ofType Rt.reg) State.applyReg s
  let s := forAll (img.ofType Rt.cairn) (fun (e : Nat × ImgRec) s => s.applyColumns e.2) s
  let l := img.payload Rt.lock
  let s := forN (l.length / 8) (fun i s => s.lockBits (leAt l (8 * i) 4) (leAt l (8 * i + 4) 4)) s
  let s := s.wr F.chiefMode_mode 0 mode
  let s := { s with chief.gated := gatedUnder img.runMode }
  let s := (s.startRidges retired).showIsl
  let s := s.wr F.reelTrackCtl_tickDiv 0 (if img.runMode == 3 then 3 else 0)
  let s := s.reelLoaded
  let s := if s.flag F.reelTrackCtl_forward == forward then s else s.resetH
  (s, bad1.or bad2)

/-- The status words that follow from tables and keys. -/
def State.showLoaded (s : State) : State :=
  let s := (s.showFloor.showColumns.showClassCrc.copyLayoutKeys).showSports.couchRefresh
  let s := forN 48 (fun n s => s.calScalars n) s
  let s := s.evioIdleAll
  if (s.pinFn 3 2).func == 0x01 then s.emit (.alertN (s.flag F.testTj_alert)) else s

/-- An image applied (R81, R91). -/
def State.applyImage (s : State) (img : Image) (source : Nat) : State :=
  let pcie (m : Sparse QuadProfile) : Bool := (profileOf m 14).role == Role.pcie
  let s := s.reamEndAll
  let (s, _) := s.applyRecords img
  let s := { s with cfg.image := some img }.showImage img source
  let s := s.showLoaded
  if pcie img.quads then s else ((s.down F.hostStat_linkUp).wr F.hostStat_gen 0 0).wr F.hostStat_width 0 0

/-! ### The dry pass (R77 to R80) -/

/-- The island of a block's owner (R21). -/
def ownerIsland (a : Nat) : Nat :=
  if a < 0x00200000 then 0x00
  else if a < 0x00400000 then 0x01
  else if a < 0x00A00000 then 0x03
  else if a < 0x00B10000 then 0x02
  else if a < 0x00C00000 then 0x01
  else if a < 0x01000000 then 0x03
  else if a < 0x01300000 then 0x04
  else if a < 0x01600000 then 0x00
  else 0x03

/-- A fault of a record. -/
def faultAt (code isl : Nat) (e : Nat × ImgRec) : LoadErr := ⟨code, e.1, e.2.off, isl, 0⟩

/-- TARGET of a record is out of range for its type (R72, R73, R77). -/
def badTarget (r : ImgRec) : Bool :=
  let n := r.payload.length
  if r.type == Rt.laneProfile then 16 ≤ r.target
  else if r.type == Rt.table then 4 ≤ r.target
  else if r.type == Rt.stageGraph then 6 ≤ r.target
  else if r.type == Rt.reg then
    r.target % 4 != 0 || r.target < 0x00200000 || 0x01400000 < r.target + n
  else if r.type == Rt.cairn then n % 32 != 0 || 160 < r.target + n / 32
  else r.target != 0

/-- A TABLE record that runs past its window. -/
def badTable (r : ImgRec) : Bool :=
  r.type == Rt.table && (r.payload.length < 4 || (windowOf r.target).2 < leAt r.payload 0 4 + (r.payload.length - 4))

/-- A LOCK record, or a REG record with LOCK, that names no RW field (R73, R75). -/
def badLock (r : ImgRec) : Bool :=
  let n := r.payload.length
  if r.type == Rt.lock then
    n % 8 != 0 || (List.range (n / 8)).any (fun i =>
      let mask := leAt r.payload (8 * i + 4) 4
      mask &&& rwBits (leAt r.payload (8 * i) 4) != mask)
  else r.type == Rt.reg && r.lock && (List.range (n / 4)).all (fun i => rwBits (r.target + 4 * i) == 0)

/-- A pin entry is valid (R119, R183, R492, R535). -/
def pinOk (e : PinEntry) : Bool :=
  let f := e.fn.func
  let p := e.pin % 6
  match e.group with
  | 0 => e.pin < 32 && (f < 4 || (0x10 ≤ f && f ≤ 0x13))
  | 1 => e.pin < 48 && e.fn.opts < 2 &&
      (f == 0 || (f == 1 && p < 3) || (f == 2 && 3 ≤ p) || (f == 3 && p == 0) || (f == 4 && p == 1))
  | 2 => e.pin < 2 && f < 2
  | 3 => e.pin < 3 && f < 2 && e.fn.opts < 2
  | _ => false

/-- The bank record is valid (R72): each bank once, at 1.8, 2.5 or 3.3 V. -/
def bankOk (p : Bytes) : Bool :=
  let ws := payloadWords p
  ws.length == 3 && [0, 1, 2].all (fun b => (ws.map (fun w => bits w 0 8)).contains b) &&
    ws.all (fun w => 1 ≤ bits w 8 8 && bits w 8 8 ≤ 3 && bits w 16 16 == 0)

/-- The PIN_FUNC record is valid: every entry, no pin twice, one pin per generator, every axis a mode. -/
def pinsOk (img : Image) : Bool :=
  let ps := img.pins
  let ids := ps.map (fun e => e.group * 256 + e.pin)
  let gens := ((ps.filter (fun e => e.group == 0 && 0x10 ≤ e.fn.func)).map (·.fn.func))
  ps.all pinOk && ids.eraseDups.length == ids.length && gens.eraseDups.length == gens.length &&
    (List.range 8).all (fun a => (axisModeOf (axisCodes ps a)).isSome)

/-- The roles a rate code allows (R95). -/
def rateRoles (code : Nat) : List Nat :=
  match code with
  | 0x01 => [Role.sensor, Role.sync]
  | 0x02 => [Role.sensor, Role.sync]
  | 0x07 => [Role.sensor, Role.sync]
  | 0x0C => [Role.sensor, Role.sync, Role.eth25, Role.kr4, Role.cr4]
  | 0x0D => [Role.sensor, Role.blanker]
  | 0x0F => [Role.sensor, Role.pcie]
  | c => if 1 ≤ c && c ≤ 0x0E then [Role.sensor] else []

/-- A LANE_PROFILE payload is valid for its quad and the run mode (R79, R94 to R96). -/
def profileOk (q runMode : Nat) (b : Bytes) : Bool :=
  let p := quadProfile b
  let maskOk :=
    if p.role == Role.sensor then p.mask == 1 || p.mask == 3 || p.mask == 15
    else if p.role == Role.sync || p.role == Role.eth25 then 1 ≤ p.mask && p.mask ≤ 15
    else p.mask == 15
  let optOk :=
    if p.role == Role.eth25 || p.role == Role.kr4 then p.roleOpt < 2
    else if p.role == Role.pcie then 1 ≤ p.roleOpt && p.roleOpt ≤ 5
    else p.roleOpt == 0
  let roleOk :=
    if q < 12 then p.role == (if runMode == 2 then Role.sensor else Role.blanker)
    else p.role == Role.kr4 || p.role == Role.cr4 || p.role == Role.eth25 || p.role == Role.sync ||
      (14 ≤ q && p.role == Role.pcie)
  b.length == 16 && roleOk && maskOk && optOk && (rateRoles p.rate).contains p.role &&
    p.laneOpt.all (fun o => o < 128 && bits o 2 4 ≤ 10) && p.refclk < 2 && (p.role != Role.pcie || p.refclk == 1) &&
    (uhlusRole p.role || p.linkId == 0) && allZero b 11 5

/-- The lanes in the SYNC role. -/
def syncCount (l : List (Nat × ImgRec)) : Nat :=
  (l.map (fun e => let p := quadProfile e.2.payload; if p.role == Role.sync then popcount 4 p.mask else 0)).sum

/-- The first fault of the lane quads (R79). -/
def laneFault (img : Image) : Option LoadErr :=
  let l := img.ofType Rt.laneProfile
  match l.find? (fun e => !profileOk e.2.target img.runMode e.2.payload) with
  | some e => some (faultAt Le.lane 0x01 e)
  | none =>
    match (indexed l).find? (fun e => 8 < syncCount (l.take (e.1 + 1))) with
    | some e => some (faultAt Le.lane 0x01 e.2)
    | none =>
      let pcie := l.filter (fun e => (quadProfile e.2.payload).role == Role.pcie)
      if pcie.length == 1 then
        ((l.filter (fun e => 14 ≤ e.2.target)).getLast?).map (faultAt Le.lane 0x01)
      else none

/-- An image loaded over PCIe takes the PCIe role away (R77 LANE_HOST). -/
def laneHostFault (img : Image) : Option LoadErr :=
  if (profileOf img.quads 14).role == Role.pcie then none else
  match (img.ofType Rt.laneProfile).find? (fun e => 14 ≤ e.2.target) with
  | some e => some (faultAt Le.laneHost 0x01 e)
  | none =>
    let (i, off) := firstAbove img.recs Rt.laneProfile (img.totalLen - trailerLen)
    some ⟨Le.laneHost, i, off, 0x01, 0⟩

/-- The position of the first entry that an earlier one equals. -/
def firstRepeat (l : List Nat) : Option Nat :=
  (List.range l.length).find? (fun i => (l.take i).contains (l.getD i 0))

/-- The first claim that names a resource twice or not at all (R77, R433, R490). -/
def claimDupFault (img : Image) : Option LoadErr :=
  let cs := img.claims
  let at_ := (img.ofType Rt.claim).head?
  let held := (img.regions.filter (·.kind != 0)).map (fun r => Res.hbmreg + r.id)
  if cs.any (fun c => Res.count ≤ c.1 || c.2.2 != 0) || (firstRepeat (cs.map (·.1))).isSome then
    at_.map (faultAt Le.claimDup 0x00)
  else if cs.any (fun c => held.contains c.1) then ((img.ofType Rt.hbmPlan).head?).map (faultAt Le.claimDup 0x00)
  else
    let recs := img.ofType Rt.cairn
    let bad (e : Nat × (Nat × ImgRec)) : Bool :=
      let mine := (cairnColumns e.2.2).map (·.1)
      let before := (recs.take e.1).flatMap (fun r => (cairnColumns r.2).map (·.1))
      mine.any (fun c => before.contains c || cs.any (fun x => x.1 == Res.cairncol + c))
    ((indexed recs).find? bad).map (fun e => faultAt Le.claimDup 0x00 e.2)

/-- The first resource the image needs that a run-time claimant holds (R90): the record and the holder. -/
def State.claimHeldFault (s : State) (img : Image) : Option LoadErr :=
  let held (r : Nat) : Bool := s.ownerDomain r != Dom.free && !s.flag F.cfgOwner_locked r
  let ofRec (e : Nat × ImgRec) : Option LoadErr :=
    let rs := if e.2.type == Rt.claim then img.claims.map (·.1) else (cairnColumns e.2).map (fun c => Res.cairncol + c.1)
    (rs.find? held).map (fun r => { faultAt Le.claimHeld 0x00 e with owner := s.owner r })
  (img.ofType Rt.claim ++ img.ofType Rt.cairn).findSome? ofRec

/-- The first fault of the stage graphs (R80, R234); `t` is the state with the image applied. -/
def State.graphFault (t : State) (img : Image) : Option LoadErr :=
  let slots (id : Nat) : Bool := img.regions.any (fun r => r.id == id && r.kind == 1)
  let bad (e : Nat × ImgRec) : Bool :=
    let k := e.2.target
    !graphOk k img.runMode e.2.payload slots (fun c q => t.planeWidth (ridgePort k c) q) (paramOk Oc.kernel7 0)
  match (img.ofType Rt.stageGraph).find? bad with
  | some e => some (faultAt Le.graph 0x03 e)
  | none =>
    if img.runMode == 3 && !(List.range 4).all (fun k => (img.ofType Rt.stageGraph).any (fun e => e.2.target == k)) then
      let (i, off) := firstAbove img.recs Rt.stageGraph (img.totalLen - trailerLen)
      some ⟨Le.graph, i, off, 0x03, 0⟩
    else none

/-- The plan is valid (R432, R433); `speed` is the point in use at a LOAD_IMAGE. -/
def planOk (img : Image) (speed : Option Nat) : Bool :=
  let es := img.planEntries
  let p := es.headD []
  let regs := img.regions
  let mib := 2 ^ 20
  let count (k : Nat) : Nat := (regs.filter (·.kind == k)).length
  let named := ((img.ofType Rt.stageGraph).map (fun e => leAt e.2.payload 6 1)).eraseDups
  let entryOk (e : Bytes) : Bool :=
    leAt e 1 1 ≤ 9 && leAt e 2 1 < 4 && allZero e 3 5 && allZero e 24 8
  let regionOk (r : Region) : Bool :=
    r.base % mib == 0 && r.size % mib == 0 && mib ≤ r.size && r.base + r.size ≤ Config.hbmBytes
  let apart (i j : Nat) : Bool :=
    match regs[i]?, regs[j]? with
    | some a, some b => a.id != b.id && (a.base + a.size ≤ b.base || b.base + b.size ≤ a.base)
    | _, _ => true
  (img.payload Rt.hbmPlan).length % 32 == 0 && leAt p 1 1 == 0xFF && leAt p 0 1 == 0 && allZero p 8 24 &&
  (es.drop 1).all entryOk && regs.all regionOk &&
  (List.range regs.length).all (fun i => (List.range i).all (fun j => apart j i)) &&
  count 5 == 1 &&
  (if img.runMode == 2 then count 2 == 1 && count 3 == 1 && count 4 == 1 && count 1 == named.length
   else count 6 == 1 && count 7 == 1 && count 8 == 1 && count 9 == 1) &&
  leAt p 2 1 < 3 && speed.all (fun v => leAt p 2 1 == v)

/-- The first VALUE fault (R77, R361, R490); `t` and `refused` are what applying the image gives. -/
def State.valueFault (t : State) (refused : Option Nat) (img : Image) : Option LoadErr :=
  let recOf (i : Nat) : Nat × ImgRec := (i, img.recs.getD i ⟨0, false, 0, [], 0⟩)
  let domains := [Dom.hostPcie, Dom.hostNet, Dom.chief, Dom.motion, Dom.path]
  let badColumn (e : Nat × ImgRec) : Bool :=
    (cairnColumns e.2).any (fun c => let w := leAt c.2 28 4; !domains.contains (w % 16) || 32 ≤ w)
  match refused with
  | some i =>
    let r := recOf i
    some (faultAt Le.value (ownerIsland (if r.2.type == Rt.table then (windowOf r.2.target).1 else r.2.target)) r)
  | none =>
    match (img.ofType Rt.cairn).find? badColumn with
    | some e => some (faultAt Le.value 0x00 e)
    | none =>
      if img.runMode == 3 && t.badColumn.isSome then
        match ((img.ofType Rt.table).filter (fun e => e.2.target == 0)).getLast? with
        | some e => some (faultAt Le.value 0x03 e)
        | none =>
          let (i, off) := firstAbove img.recs Rt.table (img.totalLen - trailerLen)
          some ⟨Le.value, i, off, 0x03, 0⟩
      else none

/-- The dry pass (R77): the first failing check in the table's order. `host`: offered over PCIe by LOAD_IMAGE; `load`:
offered by LOAD_IMAGE at all. -/
def State.dryPass (s : State) (img : Image) (load host : Bool) : Option LoadErr :=
  let recs := indexed img.recs
  let first (p : ImgRec → Bool) (code : Nat) (isl : ImgRec → Nat) : Option LoadErr :=
    (recs.find? (fun e => p e.2)).map (fun e => faultAt code (isl e.2) e)
  let byTarget (r : ImgRec) : Nat :=
    if r.type == Rt.laneProfile then 0x01
    else if r.type == Rt.table || r.type == Rt.stageGraph then 0x03
    else if r.type == Rt.reg then ownerIsland r.target else 0x00
  match first badTarget Le.target byTarget with
  | some e => some e
  | none =>
  match first badTable Le.tableRange byTarget with
  | some e => some e
  | none =>
  match first badLock Le.lockField byTarget with
  | some e => some e
  | none =>
  match first (fun r => (r.type == Rt.bank && !bankOk r.payload) || (r.type == Rt.pinFunc && !pinsOk img)) Le.pin
      (fun _ => 0x00) with
  | some e => some e
  | none =>
  match laneFault img with
  | some e => some e
  | none =>
  match (if host then laneHostFault img else none) with
  | some e => some e
  | none =>
  match claimDupFault img with
  | some e => some e
  | none =>
  match s.claimHeldFault img with
  | some e => some e
  | none =>
  let (t, refused) := s.applyRecords img
  match t.graphFault img with
  | some e => some e
  | none =>
  if !planOk img (if load then some (s.rd F.hbmStat_speed) else none) then
    ((img.ofType Rt.hbmPlan).head?).map (faultAt Le.hbmPlan 0x04)
  else t.valueFault refused img

/-- A rejection recorded (R78): STATE, CFG_LOAD_ERR, CFG_LOAD_OFFSET and the event log. -/
def State.loadRejected (s : State) (e : LoadErr) (status : Nat) : State :=
  let s := s.wr F.cfgStat_state 0 5
  let s := ((s.wr F.cfgLoadErr_code 0 e.code).wr F.cfgLoadErr_isl 0 e.isl).wr F.cfgLoadErr_record 0 e.record
  let s := s.wr F.cfgLoadOffset_offset 0 e.offset
  s.log Ev.loadError e.isl status
    [e.code, e.record, e.offset, e.owner]

/-- What an image reserves (R90): its claims, its columns and its regions. -/
def Image.needs (img : Image) : List Nat := img.claims.map (·.1) ++ img.columns.map (fun c => Res.cairncol + c.1)

end Sys2Proof.Machine
end

