-- ==== Sys2Proof/Machine/Update.lean ====
section
/-! DEFINITION. Updates of the flash set (R519 to R529, R542): the Colwa manifest, sessions and their lock, staging into
the inactive bank, and the checks of an activation. -/

namespace Sys2Proof.Machine

/-! ### The manifest (R519 to R521) -/

/-! Causes of R523 to R525. -/
namespace Uc
def length : Nat := 0x01
def magic : Nat := 0x02
def headerCrc : Nat := 0x03
def format : Nat := 0x04
def partTable : Nat := 0x05
def digest : Nat := 0x06
def unsigned : Nat := 0x07
def key : Nat := 0x08
def signature : Nat := 0x09
def rollback : Nat := 0x0A
def fwSignature : Nat := 0x0B
def inherit : Nat := 0x0C
def partDigest : Nat := 0x0D
def image : Nat := 0x0E
def flash : Nat := 0x0F
def memory : Nat := 0x10
end Uc

/-! STATE of UPD_STAT. -/
namespace Us
def idle : Nat := 0
def header : Nat := 1
def staging : Nat := 2
def staged : Nat := 3
def activating : Nat := 4
def failed : Nat := 5
end Us

/-- The status of a cause (R523 to R525). -/
def causeStatus (c : Nat) : Nat :=
  if c ≤ Uc.partTable then St.headerReject
  else if c ≤ Uc.fwSignature || c == Uc.partDigest then St.authFail
  else if c == Uc.inherit || c == Uc.image then St.badArg
  else St.uncorrectable

/-- An entry of the part table (R520). -/
structure PartEntry where
  type : Nat
  inherits : Bool
  off : Nat
  len : Nat
  digest : Nat
  r : Nat
  s : Nat
  deriving DecidableEq, Repr

/-- Part entry `i` of a manifest. -/
def partOf (m : Bytes) (i : Nat) : PartEntry :=
  let o := 128 + 160 * i
  ⟨leAt m o 1, bit (leAt m (o + 1) 1) 0, leAt m (o + 4) 4, leAt m (o + 8) 4, beAt m (o + 16) 48, beAt m (o + 64) 48,
    beAt m (o + 112) 48⟩

/-- The six entries. -/
def partsOf (m : Bytes) : List PartEntry := (List.range 6).map (partOf m)

/-- The entry of a type, and its index. -/
def partOfType (m : Bytes) (t : Nat) : Option (Nat × PartEntry) := (indexed (partsOf m)).find? (fun e => e.2.type == t)

/-- A bank holds 16 MiB (R516). -/
def bankBytes : Nat := 0x1000000

/-- Every byte marked 0 in R519, R520 and R521 is 0. -/
def manifestZeros (m : Bytes) : Bool :=
  leAt m 7 1 < 2 && allZero m 14 2 && allZero m 24 104 && allZero m 1140 4 &&
  (List.range 6).all (fun i =>
    let o := 128 + 160 * i
    leAt m (o + 1) 1 < 2 && allZero m (o + 2) 2 && (leAt m o 1 != 6 || allZero m (o + 64) 96))

/-- The part table holds (R520, R523): every type once, offsets and lengths in order, no overlap; bytes of the package
within it. -/
def partTableOk (m : Bytes) (package : Nat) : Bool :=
  let ps := partsOf m
  let apart (i j : Nat) : Bool :=
    let a := partOf m i
    let b := partOf m j
    a.off + a.len ≤ b.off || b.off + b.len ≤ a.off
  [1, 2, 3, 4, 5, 6].all (fun t => ps.any (fun p => p.type == t)) &&
  ps.all (fun p => p.off % 4096 == 0 && 4096 ≤ p.off && 1 ≤ p.len && p.off + p.len ≤ bankBytes &&
    (p.inherits || p.off + p.len ≤ package)) &&
  (List.range 6).all (fun i => (List.range i).all (fun j => apart i j))

/-- The first check of R523 that the first 128 bytes fail; `offered`: the length offered by the host. -/
def manifestHeaderFault (h : Bytes) (offered : Option Nat) : Option Nat :=
  let package := leAt h 16 4
  if h.length < 128 || bankBytes < package || offered.any (fun n => n < package || n < manifestLen) then some Uc.length
  else if sub h 0 4 != ofNats [0x43, 0x4C, 0x57, 0x41] then some Uc.magic
  else if leAt h 20 4 != crc32c (h.take 20) then some Uc.headerCrc
  else if leAt h 4 1 != 1 || leAt h 5 1 != 0 || leAt h 6 1 != 0xB0 || leAt h 13 1 != 6 then some Uc.format
  else none

/-- The first check of R523 that a whole manifest fails, with the part entry concerned. -/
def State.manifestFault (s : State) (m : Bytes) (offered : Option Nat) : Option (Nat × Nat) :=
  let on (c : Nat) : Option (Nat × Nat) := some (c, 0)
  match manifestHeaderFault m offered with
  | some c => on c
  | none =>
    let slot := leAt m 1136 4
    let digest := sha384 (m.take 1088)
    let signed_ := bit (leAt m 7 1) 0
    let active := s.manifest s.activeBank
    let ps := indexed (partsOf m)
    let badFw := ps.find? (fun e =>
      e.2.type != 6 && !ecdsaVerify Config.firmwareKey e.2.digest e.2.r e.2.s)
    let badInherit := ps.find? (fun e =>
      e.2.inherits && !(partOfType active e.2.type).any (fun a => a.2.digest == e.2.digest))
    if !manifestZeros m then on Uc.format
    else if !partTableOk m (leAt m 16 4) then on Uc.partTable
    else if beAt m 1088 48 != digest then on Uc.digest
    else if !signed_ && s.fuses.signedUpdates then on Uc.unsigned
    else if signed_ && (s.keyOf slot 3).isNone then on Uc.key
    else if signed_ && !(s.keyOf slot 3).any (fun k => ecdsaVerify k digest (beAt m 1144 48) (beAt m 1192 48)) then
      on Uc.signature
    else if leAt m 12 1 < s.fuses.rollback then on Uc.rollback
    else match badFw, badInherit with
      | some e, _ => some (Uc.fwSignature, e.1)
      | none, some e => some (Uc.inherit, e.1)
      | none, none => none

/-! ### Sessions (R522 to R525) -/

/-- STATE of UPD_STAT set. -/
def State.updState (s : State) (x : Nat) : State := s.wr F.updStat_state 0 x

/-- A session ends with a failure (R522 to R525): UPD_LAST_ERR, and the lock is free. -/
def State.sessionFails (s : State) (status cause part loader : Nat) : State :=
  let s := (s.wr F.updLastErr_status 0 status).wr F.updLastErr_cause 0 cause
  let s := (s.wr F.updLastErr_part 0 part).wr F.updLastErr_loader 0 loader
  ({ s with update.session := none } : State).freeLock.updState Us.failed

/-- Bytes of the flash left undefined: free values. -/
def State.flashUndefined (s : State) (a n : Nat) : State :=
  forN n (fun i s =>
    let (v, s) := s.free
    s.setFlashByte (a + i) (BitVec.ofNat 8 v)) s

/-- The manifest has passed: staging begins, and the inactive bank is undefined until it ends (R524). -/
def State.beginStaging (s : State) : State :=
  let s := { s with update.session := s.update.session.map (fun (x : Session) => { x with checked := true }) }
  (s.flashUndefined (bankBase (1 - s.activeBank)) bankBytes).updState Us.staging

/-- The manifest's checks (R523): the state, and the cause they end the session with. -/
def State.checkManifest (s : State) (m : Bytes) (offered : Option Nat) : State × Option Nat :=
  match s.manifestFault m offered with
  | some (c, part) => (s.sessionFails (causeStatus c) c part 0, some c)
  | none => (s.beginStaging, none)

/-- The manifest offered in HBM, as far as the checks need it: its first 128 bytes, and all of it once those pass. -/
def State.offeredManifest (s : State) (a len : Nat) : Except Nat Bytes :=
  if len < 128 then .ok [] else
  match s.readForCommand a 128 with
  | .error e => .error e
  | .ok h => if (manifestHeaderFault h (some len)).isSome then .ok h else s.readForCommand a manifestLen

/-- UPDATE_BEGIN (R522, R523, R542): a package in HBM is checked at once; a network session begins empty. -/
def execUpdateBegin (cmd : CmdRef) (addr : BitVec 64) (len : Word) (s : State) : Out :=
  .next (s.notPark cmd 0x60 (fun s =>
    let a := addr.toNat
    let n := len.toNat
    if cmd.stream.isNone && Config.hbmBytes < a + n then s.finish cmd 0x60 St.badArg else
    match s.lockHolder with
    | some h => s.finish cmd 0x60 St.busy h
    | none =>
      let s := s.takeCmd cmd
      let tag := s.update.tag % 4095 + 1
      let s := (s.takeLock (ownerOf cmd + tag)).count (F.secCnt_count 0) 0 1
      let s := { s with update.tag := tag, update.session := some { stream := streamOf cmd, addr := a, len := n } }
      let s := ((s.updState Us.header).wr F.updProgress_permille 0 0).wr F.updProgress_part 0 0
      if cmd.stream.isSome then s.report cmd 0x60 St.done 0 tag else
      match s.offeredManifest a n with
      | .error e =>
        ((s.noteRead a manifestLen e).sessionFails St.uncorrectable Uc.memory 0 0).finish cmd 0x60 St.uncorrectable Uc.memory
      | .ok m =>
        let s := { s with update.session := s.update.session.map (fun (x : Session) => { x with got := m }) }
        match s.checkManifest m (some n) with
        | (s, some c) => s.finish cmd 0x60 (causeStatus c) c
        | (s, none) => s.report cmd 0x60 St.done 0 tag))

/-- UPDATE_STATUS (R542): RESULT holds UPD_STAT and UPD_PROGRESS. -/
def execUpdateStatus (cmd : CmdRef) (s : State) : Out :=
  .next (s.notPark cmd 0x61 (fun s =>
    s.report cmd 0x61 St.done 0 ((s.reg (F.updStat_state.addr 0)).toNat +
      (s.reg (F.updProgress_permille.addr 0)).toNat * 2 ^ 32)))

/-- The session belongs to a command's domain (R522). -/
def State.ownSession (s : State) (cmd : CmdRef) : Option Session :=
  s.update.session.filter (fun x => x.stream.isNone == cmd.stream.isNone)

/-- A command for a session that is not its own: BUSY with the holder, or `none_` where nothing holds the lock. -/
def State.notHolder (s : State) (cmd : CmdRef) (opcode none_ : Nat) : State :=
  match s.lockHolder with
  | some h => s.finish cmd opcode St.busy h
  | none => s.finish cmd opcode none_

/-- UPDATE_DATA (R523, R526, R542): only the bytes that follow those received are taken. Bytes beyond the manifest are
discarded until its checks have passed. -/
def execUpdateData (cmd : CmdRef) (offset : Word) (data : Bytes) (s : State) : Out :=
  .next (s.notPark cmd 0x64 (fun s =>
    if cmd.stream.isNone then s.finish cmd 0x64 St.notInMode else
    match s.ownSession cmd with
    | none => s.notHolder cmd 0x64 St.badArg
    | some x =>
      if offset.toNat != x.got.length || Us.staging < s.rd F.updStat_state then s.finish cmd 0x64 St.badArg else
      let limit := if x.checked then leAt x.got 16 4 else manifestLen
      let got := x.got ++ data.take (limit - x.got.length)
      let s := { s with update.session := some { x with got := got } }
      if x.checked || got.length < manifestLen then s.finish cmd 0x64 St.done else
      match s.checkManifest got none with
      | (s, some c) => s.finish cmd 0x64 (causeStatus c) c
      | (s, none) => s.finish cmd 0x64 St.done))

/-- UPDATE_ABORT (R522). -/
def execUpdateAbort (cmd : CmdRef) (s : State) : Out :=
  .next (s.notPark cmd 0x63 (fun s =>
    match s.ownSession cmd with
    | none => s.notHolder cmd 0x63 St.done
    | some _ =>
      if s.update.activation.isSome then s else
      (({ s with update.session := none } : State).freeLock.updState Us.idle).finish cmd 0x63 St.done))

/-- UPDATE_DATA_TIMEOUT (R525): no UPDATE_DATA within 10 s of the one before. -/
def execUpdateDataTimeout (s : State) : Out :=
  if s.update.session.any (fun x => x.stream.isSome) && s.rd F.updStat_state < Us.staged then
    .next (s.sessionFails St.timeout 0 0 0)
  else .next s

/-- UPDATE_STAGE_TIMEOUT (R525): STAGED for 600 s. -/
def execUpdateStageTimeout (s : State) : Out :=
  if s.update.session.isSome && s.rd F.updStat_state == Us.staged then .next (s.sessionFails St.timeout 0 0 0) else .next s

/-! ### Staging (R524) -/

/-- The bytes of part `i` (R520, R524): of the active bank where it inherits them, else of the package. -/
def State.partBytes (s : State) (x : Session) (i : Nat) : Option Bytes :=
  let p := partOf x.got i
  if p.inherits then
    (partOfType (s.manifest s.activeBank) p.type).map (fun a => s.flashBytes (bankBase s.activeBank + a.2.off) p.len)
  else if x.stream.isSome then some (sub x.got p.off p.len)
  else s.readMem (x.addr + p.off) p.len

/-- A part of a bank read back matches its DIGEST. -/
def State.bankPartOk (s : State) (b i : Nat) : Bool :=
  let p := partOf (s.manifest b) i
  sha384 (s.flashBytes (bankBase b + p.off) p.len) == p.digest

/-- The Kalri image of a bank. -/
def State.bankImage (s : State) (b : Nat) : Bytes :=
  match partOfType (s.manifest b) 6 with
  | some (_, p) => s.flashBytes (bankBase b + p.off) p.len
  | none => []

/-- The manifest and the parts programmed into an erased bank. -/
def State.program (s : State) (x : Session) (b : Nat) : State :=
  let parts := (List.range 6).map (fun i => ((partOf x.got i).off, (s.partBytes x i).getD []))
  let s := s.eraseFlash (bankBase b) (bankBase b + bankBytes)
  let s := s.setFlashBytes (bankBase b) (x.got.take manifestLen)
  parts.foldl (fun s p => s.setFlashBytes (bankBase b + p.1) p.2) s

/-- UPDATE_STAGED (R524, R525): staging ends. `flashError`: the part whose erase or program failed (6: the directory
copy); `misread`: a part whose read-back differs from what was programmed. -/
def execUpdateStaged (flashError : Option (Fin 7)) (misread : Option (Fin 6)) (s : State) : Out :=
  match s.update.session with
  | none => .next s
  | some x =>
    let all := x.stream.isNone || leAt x.got 16 4 ≤ x.got.length
    if s.rd F.updStat_state != Us.staging || !all then .next s else
    let fail (c part loader : Nat) (s : State) : Out := .next (s.sessionFails (causeStatus c) c part loader)
    let unread := (List.range 6).find? (fun i => (s.partBytes x i).isNone)
    let broken := (flashError.map (·.val)).filter (· < 6)
    let first := match unread, broken with
      | some i, some j => if j < i then some (Uc.flash, j) else some (Uc.memory, i)
      | some i, none => some (Uc.memory, i)
      | none, some j => some (Uc.flash, j)
      | none, none => none
    match first with
    | some (c, i) =>
      let s := if c == Uc.memory then s.readFailed 18 (x.addr + (partOf x.got i).off) (partOf x.got i).len else s
      fail c i 0 s
    | none =>
      let b := 1 - s.activeBank
      let t := s.program x b
      match (List.range 6).find? (fun i => misread.any (·.val == i) || !t.bankPartOk b i) with
      | some i => fail Uc.partDigest i 0 s
      | none =>
        match t.checkBytes (t.bankImage b) with
        | .error e => fail Uc.image (((partOfType x.got 6).map (·.1)).getD 0) e.code s
        | .ok _ =>
          if flashError.any (·.val == 6) then fail Uc.flash 0 0 s else
          let t := t.eraseSpareDirectory
          let t := { t with update.session := some { x with got := x.got.take manifestLen } }
          let t := (t.wr F.updProgress_permille 0 1000).wr F.updProgress_part 0 5
          .next ((t.wr F.updStagedVersion_value 0 (leAt x.got 8 4)).updState Us.staged)

/-! ### The start of an activation (R527 to R529) -/

/-- An activation's checks fail: the command completes with the cause; nothing in force changes. -/
def State.activationFails (s : State) (cmd : CmdRef) (status cause part loader info : Nat) : State :=
  (s.sessionFails status cause part loader).finish cmd 0x62 status info

/-- The staged set is read back and checked, the directory is written, and the service pause begins (R527 to R529). -/
def State.activate (s : State) (cmd : CmdRef) (change : Bool) : State :=
  let b := 1 - s.activeBank
  match (List.range 6).find? (fun i => !s.bankPartOk b i) with
  | some i => s.activationFails cmd St.authFail Uc.partDigest i 0 Uc.partDigest
  | none =>
    let img := s.checkBytes (s.bankImage b)
    let fault := match img with
      | .error e => some e
      | .ok im =>
        let live := s.mode != Md.recovery
        if change then s.dryPass im live (live && cmd.stream.isNone) else none
    match fault with
    | some e =>
      let st := loadStatus e.code
      s.activationFails cmd st Uc.image (((partOfType (s.manifest b) 6).map (·.1)).getD 0) e.code
        (if st == St.conflict then e.owner else e.code)
    | none =>
      let act : Activation := { cmd := cmd, image := if change then img.toOption else none }
      ({ s.writeDirectory b true with update.activation := some act } : State).updState Us.activating

/-- UPDATE_ACTIVATE begins, or completes (R527). -/
def State.activateStart (s : State) (cmd : CmdRef) : State :=
  let s := s.takeCmd cmd
  match s.ownSession cmd with
  | none => s.notHolder cmd 0x62 St.badArg
  | some x =>
    if s.rd F.updStat_state != Us.staged then s.finish cmd 0x62 St.badArg else
    let digestOf (m : Bytes) : Option Nat := (partOfType m 6).map (·.2.digest)
    let change := digestOf x.got != digestOf (s.manifest s.activeBank)
    if change && !s.cmMode && s.mode != Md.recovery then s.finish cmd 0x62 St.notInMode else s.activate cmd change

end Sys2Proof.Machine
end

