-- ==== Sys2Proof/Machine/Chief.lean ====
section
/-! DEFINITION. The Chief controller (R17 to R28, R43 to R51): Stewards, the clock monitor, joint changes, mode
transitions, the load of an image from HBM (R89 to R92), claims (R85, R86), and the ticks of the Reel at which a joint
change is applied (R138 to R141). -/

namespace Sys2Proof.Machine

/-! ### Stewards and the clock monitor -/

/-- STATE and restart count of a Steward in CHIEF_STEWARD_STAT (R40). -/
def State.showSteward (s : State) (i st restarts : Nat) : State :=
  let a := F.chiefStewardStat_linkState.addr 0
  let w := (s.reg a).toNat
  s.setReg a (BitVec.ofNat 32 (w - bits w (8 * i) 8 * 2 ^ (8 * i) + (st + restarts % 64 * 4) * 2 ^ (8 * i)))

/-- Restarts of a Steward shown (R40). -/
def State.stewardRestarts (s : State) (i : Nat) : Nat :=
  bits (s.reg (F.chiefStewardStat_linkState.addr 0)).toNat (8 * i + 2) 6

/-- STEWARD_HEARTBEAT_MISS (R18, R19): the third missed heartbeat in a row; a Steward that would need a fourth restart
within 1.0 s (250,000,000 ticks of 4 ns) is halted. Heartbeats are not counted in the pause of an activation (R530). -/
def execStewardHeartbeatMiss (steward : Fin 4) (s : State) : Out :=
  let i := steward.val
  if s.stewardState i != 0 || s.update.activation.isSome then .next s else
  let recent := (Sparse.get (fun _ => []) s.chief.restarts i).filter (fun t => s.clock < t + 250000000)
  if 3 ≤ recent.length then
    let s := s.showSteward i 2 (s.stewardRestarts i)
    .next (s.log Ev.stewardHalted 0x00 0 [i]).chiefAlert
  else
    let n := satAdd 6 (s.stewardRestarts i) 1
    let s := s.showSteward i 1 n
    let s := { s with chief.restarts := Sparse.set (fun _ => []) s.chief.restarts i (recent ++ [s.clock]) }
    .next (s.log Ev.stewardRestart 0x00 0 [i, n]).chiefAlert

/-- STEWARD_RESTART_DONE (R18). -/
def execStewardRestartDone (steward : Fin 4) (s : State) : Out :=
  let i := steward.val
  if s.stewardState i == 1 then .next (s.showSteward i 0 (s.stewardRestarts i)) else .next s

/-- The nominal clock of an island in kHz (R26): a lane quad runs at its lane rate ÷ 66, and at 500 MHz in the PCIe
role. -/
def State.nominalKhz (s : State) (i : Nat) : Nat :=
  if 0x10 ≤ i && i ≤ 0x1F then
    if s.rd F.laneQuadStat_role (i - 0x10) == Role.pcie then 500000 else s.rate (4 * (i - 0x10)) * 10 / 66
  else if i ≤ 0x04 || i == 0x07 then 800000
  else if i == 0x06 || i == 0x09 then 200000
  else if i == 0x08 then 100000
  else if (0x20 ≤ i && i ≤ 0x2B) || (0x78 ≤ i && i ≤ 0x7A) || (0xB0 ≤ i && i ≤ 0xBF) then 800000
  else if i == 0x81 || i == 0x8B then 400000
  else if i == 0x82 then 250000
  else if i == 0x89 || i == 0x8A then 1200000
  else 1000000

/-- CLOCK_MONITOR_SAMPLE (R27, R28): the measured frequencies in kHz; an island more than 1 % off its nominal clock is
faulty, and the fault is logged when it is found. A gated island is not judged. -/
def execClockMonitorSample (khz : List (BitVec 8 × BitVec 24)) (s : State) : Out :=
  .next (forAll khz (fun e s =>
    let i := e.1.toNat
    if !islandAssigned i || s.isGated i then s else
    let nominal := s.nominalKhz i
    if nominal == 0 then s else
    let err := Int.fdiv (((e.2.toNat : Int) - nominal) * 10000) nominal
    let shown := clampInt (-128) 127 err
    let ok := decide (err.natAbs ≤ 100)
    let v := s.isl i
    let s := s.setIsl i { v with clkOk := ok, freqErr := shown, freqKhz := e.2.toNat, fault := !ok }
    if ok || v.fault then s else s.log Ev.clkFault 0x08 0 [i, unsigned 8 shown]) s)

/-! ### Which islands a run mode needs (R25, R503) -/

/-- The Steward that owns an island's block (R21, R26): 0 Link, 1 Motion, 2 Path, 3 Memory; the others are the
Chief controller's. -/
def stewardOf (i : Nat) : Option Nat :=
  if i == 0x01 || (0x10 ≤ i && i ≤ 0x1F) || i == 0x83 || i == 0x84 then some 0
  else if i == 0x02 || (0x80 ≤ i && i ≤ 0x82) then some 1
  else if i == 0x03 || (0x20 ≤ i && i ≤ 0x7A) || (0x88 ≤ i && i ≤ 0x97) then some 2
  else if i == 0x04 || 0xA0 ≤ i then some 3
  else none

/-- The chain of a run mode needs an island (R503): Spurs, unused lane quads and held Ridges excepted. -/
def State.chainNeeds (s : State) (mode i : Nat) : Bool :=
  if !islandAssigned i || (0x40 ≤ i && i ≤ 0x75) then false
  else if 0x10 ≤ i && i ≤ 0x1F then s.rd F.laneQuadStat_role (i - 0x10) != Role.none
  else if 0x30 ≤ i && i ≤ 0x35 then
    if mode == Md.inspect then s.rd F.ridgeStat_state (i - 0x30) != 1 else i ≤ 0x33
  else if (0x20 ≤ i && i ≤ 0x2B) || (0x78 ≤ i && i ≤ 0x7A) then mode == Md.inspect
  else if 0x88 ≤ i && i ≤ 0x97 then mode == Md.expose
  else true

/-- The first FAILED island a mode's chain needs among those of a Steward (`none`: of the Chief controller). -/
def State.failedFor (s : State) (mode : Nat) (owner : Option Nat) : Option Nat :=
  (List.range 256).find? (fun i => stewardOf i == owner && s.chainNeeds mode i && s.flag F.testIsl_failed i)

/-! ### The end of a transition (R45 to R51) -/

/-- A joint or mode change is in progress (R24, R45), or the pause of an activation (R530). -/
def State.changing (s : State) : Bool :=
  s.chief.trans.isSome || s.chief.joint.isSome || s.cfg.load.isSome || s.update.activation.isSome

/-- MODE changes to `newMode` (R45): CHIEF_MODE and CHIEF_TRANS_STAT; outputs idle (R494), rotation steps rest or may start
(R252), lanes leave or enter PRBS and loopback (R117). -/
def State.enterMode (s : State) (newMode : Nat) : State :=
  let s := ((s.wr F.chiefTransStat_from 0 s.mode).wr F.chiefTransStat_to 0 newMode).wr F.chiefTransStat_cut 0 0
  let s := (s.wr F.chiefMode_mode 0 newMode).wr F.chiefMode_target 0 0
  let s := (s.down F.chiefMode_transition).down F.chiefMode_stopNow
  let s := s.evioIdleAll
  let s := forN 6 (fun k s => s.restStep k) s
  forN 64 (fun n s => s.laneTest n) s

/-- The data path stops acting: after the drain of INSPECT (R47, R49), or at the exit from EXPOSE (R50). -/
def State.pathEnd (s : State) : State :=
  let s := { s with chief.path := 0, chief.complete := none, reel.stop := none }
  let s := forN 6 (fun k s =>
    let s := s.rotAbandon k
    if s.rd F.ridgeStat_state k == 3 then s.wr F.ridgeStat_state k 2 else s) s
  let s := forN 8 (fun u s => s.dropMarks u) s
  forN 48 (fun n s => s.calIdleHandover n) s.couchRefresh

/-- TRANSITION and TARGET as a transition begins. -/
def State.showTrans (s : State) (t : Trans) (target : Nat) : State :=
  let s := (s.up F.chiefMode_transition).wr F.chiefMode_target 0 target
  ({ s with chief.trans := some t } : State).wr F.chiefMode_stopNow 0 (b2n t.stopNow)

/-- STEP of CHIEF_PARK_STAT (R64). -/
def State.parkStep (s : State) (n : Nat) : State := s.wr F.chiefParkStat_step 0 n

/-- PARK beyond its first step (R64): the device is in CONFIGURE or MAINTAIN. -/
def State.parkOn (s : State) (cmd : CmdRef) : State :=
  (s.showTrans { cmd := cmd, opcode := 0x02, newMode := Md.park, applied := true } Md.park).parkStep 2

/-- A transition completes: the command that asked for it reports DONE, or PARK goes on (R45, R64, R92). -/
def State.transDone (s : State) (t : Trans) : State :=
  let s := { s.enterMode t.newMode with chief.trans := none }
  if t.opcode == 0x02 then s.parkOn t.cmd
  else if t.opcode == 0x62 then s.freeLock.report t.cmd 0x62 St.done 0 1
  else s.finish t.cmd t.opcode St.done

/-! ### Joint changes (R22 to R24) -/

/-- An open joint change is aborted (R22): the command completes with the cause. -/
def State.abortJoint (s : State) (refused status info : Nat) : State :=
  let s := (s.wr F.chiefJointStat_state 0 4).wr F.chiefJointStat_refused 0 refused
  let s := { s with chief.joint := none }
  match s.cfg.load with
  | some l =>
    let s := { s with cfg.load := none, cfg.reserved := [] }
    let s := s.wr F.cfgStat_state 0 (if s.cfg.image.isSome then 4 else 0)
    s.freeLock.finish l.cmd 0x05 status info
  | none =>
    match s.chief.trans with
    | some t =>
      let s := { s with chief.trans := none }
      let s := ((s.down F.chiefMode_transition).wr F.chiefMode_target 0 0).down F.chiefMode_stopNow
      let s := if t.opcode == 0x02 then (s.parkStep 0).freeLock else if t.opcode == 0x62 then s.freeLock else s
      s.finish t.cmd t.opcode status info
    | none => s

/-- A joint change opens (R22, R42): with a Steward that is not running it is aborted at once. A FAILED island of the
Chief controller that the mode's chain needs refuses the entry (R503). -/
def State.openJoint (s : State) (kind : JointKind) : State :=
  let s := (s.advance F.chiefJointStat_jointSeq 0 1).wr F.chiefJointStat_involved 0 15
  let s := (s.wr F.chiefJointStat_refused 0 0).wr F.chiefJointStat_state 0 1
  let s := s.wr64 F.chiefJointPosLo_pos F.chiefJointPosHi_pos 0 0
  let absent := ([0, 1, 2, 3].map (fun i => if s.stewardState i == 0 then 0 else 2 ^ i)).sum
  if absent != 0 then s.abortJoint absent St.timeout 0 else
  let bad := match kind with
    | .enter m => s.failedFor m none
    | _ => none
  match bad with
  | some i => s.abortJoint 0 St.badArg (1 + i * 256)
  | none => { s with chief.joint := some { kind := kind } }

/-- Entry into a run mode takes effect (R46): the data path starts anew. -/
def State.runBegin (s : State) (m : Nat) : State :=
  let s := { s with chief.path := m }
  if m == Md.inspect then
    let s := { s with headbox.l0 := none, headbox.chans := [] }
    let s := forN 48 (fun n s => (s.setFill n 0).wr F.headboxChFrame_frame n 0) s
    let s := { s with calender := s.calender.map (fun e => (e.1, { e.2 with out := [], missing := 0 })) }
    let s := forN 6 (fun k s =>
      if s.rd F.ridgeStat_state k == 1 || s.rd F.ridgeStat_nodes k == 0 then s else s.ridgeEnter k) s
    s.couchEnter
  else
    let s := { s with laid.stopping := false, laid.stopDue := false }
    s.screeEnter

/-- The open frame of an exit from INSPECT is completed once the last tick before the target line has left the Reel
(R47, R48, R204): the lines from the target line (or, where the material stopped short of it, from the first line not
ticked) to the end of the frame are missing, and the Ridges know their last line. -/
def State.settleExit (s : State) : State :=
  match s.chief.complete with
  | none => s
  | some target =>
    if !s.reel.backlog.isEmpty then s else
    let s := { s with chief.complete := none }
    if s.headbox.l0.isNone then s else
    let start := min target (s.reel.h + 1)
    let i := s.indexOf target
    let last := if i == 0 then target - 1 else target + (s.frameLen - i : Nat) - 1
    let s := forN (last - start + 1).toNat (fun k s =>
      let h := start + (k : Int)
      (s.untriggered h).lineTime h false) s
    let s := forN 6 (fun k s =>
      if s.rd F.ridgeStat_state k == 3 then (s.setRidge k { s.ridge k with stop := some last }).ridgeFlush k else s) s
    let ports := (List.range 12).filter (fun p => s.progress p == some last && !s.couch.finished.contains p)
    ({ s with couch.finished := s.couch.finished ++ ports } : State).releaseDrained.showCouch

/-- A committed joint change takes effect (R23, R46 to R50, R89). -/
def State.applyJoint (s : State) (j : Joint) : State :=
  let s := { s.wr F.chiefJointStat_state 0 3 with chief.joint := none }
  let s := { s with chief.trans := s.chief.trans.map (fun (t : Trans) => { t with applied := true }) }
  match j.kind with
  | .enter m => s.runBegin m
  | .leaveInspect => ({ s with chief.complete := j.target, reel.stop := j.target } : State).settleExit
  | .leaveExpose => s
  | .load =>
    match s.cfg.load with
    | some l =>
      match l.image with
      | some img => ({ s.applyImage img 1 with cfg.reserved := [] } : State).wr F.cfgStat_state 0 3
      | none => s
    | none => s

/-- STOP_NOW of the transition in progress. -/
def State.stopNow (s : State) : Bool := s.chief.trans.any (·.stopNow)

/-- A committed exit from EXPOSE takes effect once no stripe has anything left to write (R50, R51). -/
def State.exposeSettle (s : State) : State :=
  match s.chief.joint with
  | some j => if j.committed && j.kind == .leaveExpose && s.laidDone s.stopNow then s.applyJoint j else s
  | none => s

/-- The target line of a COMMIT (R23): the first line boundary at least 1.0 ms of motion beyond the high-water
position, in u. -/
def State.targetLine (s : State) : Int :=
  -(Int.fdiv (-(s.reel.w + (s.reel.v.natAbs * 1000000 : Nat))) (65536 * 2 ^ 32))

/-- COMMIT (R22, R23, R46, R48, R50). -/
def State.commitJoint (s : State) (j : Joint) : State :=
  let s := s.wr F.chiefJointStat_state 0 2
  let still := s.reel.v == 0
  let at_ (s : State) (line : Int) : State :=
    s.wrI64 F.chiefJointPosLo_pos F.chiefJointPosHi_pos 0 (s.toU (line * 65536))
  let wait (t : Option Int) (s : State) : State :=
    { s with chief.joint := some { j with committed := true, target := t } }
  match j.kind with
  | .load => s.applyJoint j
  | .enter _ => if still then s.applyJoint j else wait (some s.targetLine) (at_ s s.targetLine)
  | .leaveInspect =>
    if still then
      let t := s.reel.h + 1
      (at_ s t).applyJoint { j with target := some t }
    else
      let t := s.targetLine
      wait (some t) { at_ s t with reel.stop := some t }
  | .leaveExpose => (wait none (s.laidStop s.stopNow)).exposeSettle

/-- A Steward's reason to refuse an entry (R240, R266, R503): the INFO of BAD_ARG. -/
def State.entryRefusal (s : State) (m i : Nat) : Option Nat :=
  match s.failedFor m (some i) with
  | some isl => some (1 + isl * 256)
  | none =>
    let bad (k : Nat) : Bool := s.rd F.ridgeStat_state k != 1 && s.rd F.ridgeStat_nodes k != 0 && !s.ridgeEntryOk k
    if m == Md.inspect && i == 2 && [0, 1, 2, 3, 4, 5].any bad then some 0 else none

/-! ### Commands that change the mode (R24, R44, R45, R64, R89) -/

/-- SET_MODE begins, or completes (R44, R45). -/
def State.setModeStart (s : State) (cmd : CmdRef) (mode : Nat) (stopNow : Bool) : State :=
  let s := s.takeCmd cmd
  let t : Trans := { cmd := cmd, opcode := 0x01, newMode := mode }
  let refuse (st : Nat) : State := s.finish cmd 0x01 st
  let cur := s.mode
  if cur == Md.configure && (mode == Md.inspect || mode == Md.expose) then
    if s.rd F.cfgStat_runMode == mode then (s.showTrans t mode).openJoint (.enter mode) else refuse St.badArg
  else if (cur == Md.configure && mode == Md.maintain) || (cur == Md.maintain && mode == Md.configure) then
    s.showTrans { t with applied := true } mode
  else if cur == Md.inspect && mode == Md.configure then (s.showTrans t mode).openJoint .leaveInspect
  else if cur == Md.expose && mode == Md.configure then
    (s.showTrans { t with stopNow := stopNow } mode).openJoint .leaveExpose
  else refuse St.notInMode

/-- PARK begins, or completes (R44, R64, R522). -/
def State.parkStart (s : State) (cmd : CmdRef) : State :=
  let s := s.takeCmd cmd
  let m := s.mode
  if !(m == Md.configure || m == Md.maintain || s.runMode) then s.finish cmd 0x02 St.notInMode else
  match s.lockHolder with
  | some h => s.finish cmd 0x02 St.busy h
  | none =>
    let s := (s.takeLock parkHolder).wr F.chiefParkStat_result 0 0
    let s := (s.down F.chiefParkStat_tokenWritten).down F.chiefParkStat_flashErr
    if s.runMode then
      let s := (s.showTrans { cmd := cmd, opcode := 0x02, newMode := Md.configure } Md.park).parkStep 1
      s.openJoint (if m == Md.inspect then .leaveInspect else .leaveExpose)
    else s.parkOn cmd

/-- A load from HBM is rejected (R77, R78, R89, R90). -/
def State.loadFails (s : State) (cmd : CmdRef) (addr len : Nat) (e : LoadErr) : State :=
  let st := loadStatus e.code
  let s := s.loadRejected e st
  let s := if e.code == Le.memory then s.readFailed 18 addr len else s
  s.freeLock.finish cmd 0x05 st (if st == St.conflict then e.owner else e.code)

/-- LOAD_IMAGE begins (R89, R90): the container checks and the dry pass, which is its PREPARE. -/
def State.loadStart (s : State) (cmd : CmdRef) (addr len : Nat) : State :=
  let s := s.takeCmd cmd
  if s.mode != Md.configure then s.finish cmd 0x05 St.notInMode else
  match s.lockHolder with
  | some h => s.finish cmd 0x05 St.busy h
  | none =>
    let s := (s.takeLock loadHolder).wr F.cfgStat_state 0 1
    match s.checkHbm addr len with
    | .error e => s.loadFails cmd addr len e
    | .ok img =>
      let s := s.wr F.cfgStat_state 0 2
      match s.dryPass img true cmd.stream.isNone with
      | some e => s.loadFails cmd addr len e
      | none =>
        let s := { s with cfg.reserved := img.needs }
        ({ s with cfg.load := some { cmd := cmd, addr := addr, len := len, image := some img } } : State).openJoint .load

/-- A command of the list begins. -/
def State.modeStart (s : State) (c : ModeCmd) : State :=
  match c with
  | .setMode cmd mode now => s.setModeStart cmd mode now
  | .park cmd => s.parkStart cmd
  | .load cmd addr len => s.loadStart cmd addr len
  | .activate cmd => s.activateStart cmd

/-- Waiting commands are taken in acceptance order until one begins a change (R24, R45). -/
def State.nextChange (s : State) : Nat → State
  | 0 => s
  | n + 1 =>
    if s.changing then s else
    match s.chief.waiting with
    | [] => s
    | c :: rest => State.nextChange (({ s with chief.waiting := rest } : State).modeStart c) n

/-- Every waiting command that can begin now. -/
def State.takeWaiting (s : State) : State := s.nextChange s.chief.waiting.length

/-- A command that needs a joint or mode change arrives (R24, R45). -/
def State.queueChange (s : State) (c : ModeCmd) : State :=
  ({ s with chief.waiting := s.chief.waiting ++ [c] } : State).takeWaiting

/-- SET_MODE (R44, R45). -/
def execSetMode (cmd : CmdRef) (mode : BitVec 8) (stopNow : Bool) (s : State) : Out :=
  .next (s.command cmd 0x01 (fun s => s.queueChange (.setMode cmd mode.toNat stopNow)))

/-- PARK (R64). -/
def execPark (cmd : CmdRef) (s : State) : Out :=
  .next (s.command cmd 0x02 (fun s => s.queueChange (.park cmd)))

/-- LOAD_IMAGE (R89): its ARGS are checked at once. -/
def execLoadImage (cmd : CmdRef) (addr : BitVec 64) (len : Word) (s : State) : Out :=
  .next (s.command cmd 0x05 (fun s =>
    let a := addr.toNat
    let n := len.toNat
    if a % 64 != 0 || n == 0 || imageMax < n || Config.hbmBytes < a + n then s.finish cmd 0x05 St.badArg
    else s.queueChange (.load cmd a n)))

/-! ### Answers, application, drain -/

/-- STEWARD_ANSWER (R22): READY, or REFUSE where a resource is `held`, an island the mode needs has failed (R503), or the
Path Steward's checks of the entry fail (R240, R266). -/
def execStewardAnswer (steward : Fin 4) (held : Option (BitVec 16)) (s : State) : Out :=
  let i := steward.val
  match s.chief.joint with
  | none => .next s
  | some j =>
    if j.committed || j.ready.contains i || s.stewardState i != 0 then .next s else
    match held with
    | some o => .next (s.abortJoint (2 ^ i) St.conflict o.toNat).takeWaiting
    | none =>
      let refusal := match j.kind with
        | .enter m => s.entryRefusal m i
        | _ => none
      match refusal with
      | some info => .next (s.abortJoint (2 ^ i) St.badArg info).takeWaiting
      | none =>
        let j := { j with ready := j.ready ++ [i] }
        let s := { s with chief.joint := some j }
        if j.ready.length < 4 then .next s else .next (s.commitJoint j)

/-- JOINT_ANSWER_TIMEOUT (R22): an answer missing at 1.0 ms. -/
def execJointAnswerTimeout (s : State) : Out :=
  match s.chief.joint with
  | none => .next s
  | some j =>
    if j.committed then .next s else
    let missing := ([0, 1, 2, 3].map (fun i => if j.ready.contains i then 0 else 2 ^ i)).sum
    .next (s.abortJoint missing St.timeout 0).takeWaiting

/-- JOINT_TARGET_TIMEOUT (R46, R48): 100 ms after COMMIT the change is applied as if its target line had been passed. -/
def execJointTargetTimeout (s : State) : Out :=
  match s.chief.joint with
  | none => .next s
  | some j =>
    match j.target with
    | none => .next s
    | some t =>
      let s := s.applyJoint j
      if j.kind == .leaveInspect then
        .next { s with reel.stop := some (min t (s.reel.h + 1)) }
      else .next s

/-- The exit from EXPOSE is carried out at every block (R50, R51, R332, R351, R384). -/
def State.exposeEnd (s : State) : State :=
  ((s.layoutStop.mouldStop.wmStop).reamEndClient 3).laidExit.pathEnd

/-- AGENT_APPLIED (R45): MODE changes as the last agent reports the change applied. An exit from INSPECT completes by its
drain instead (R49). -/
def execAgentApplied (s : State) : Out :=
  let s := s.exposeSettle
  match s.chief.trans with
  | none => .next s
  | some t =>
    if !t.applied || t.newMode == Md.park || s.mode == Md.inspect then .next s
    else if s.mode == Md.expose then .next (s.exposeEnd.transDone t).takeWaiting
    else .next (s.transDone t).takeWaiting

/-- Nothing of the last frame is left to be written (R49). -/
def State.pathEmpty (s : State) : Bool :=
  let ridge (k : Nat) : Bool :=
    let r := s.ridge k
    r.inline.isEmpty && r.frames.isEmpty && r.staging.isEmpty && r.fifo.isEmpty && r.intake.isEmpty
  s.chief.complete.isNone && s.reel.backlog.isEmpty &&
  s.headbox.chans.all (fun e => e.2.lines.isEmpty && e.2.queue.isEmpty) && s.calender.all (fun e => e.2.out.isEmpty) &&
  [0, 1, 2, 3, 4, 5].all ridge && s.couch.held.isEmpty && s.couch.queue.isEmpty &&
  s.couch.records.all (fun o => !o.ring) && s.stats.ready.isEmpty && s.stats.fifo.all (fun o => !o.ring) &&
  s.couch.crops.isEmpty

/-- The exit from INSPECT in its drain: the transition it serves. -/
def State.draining (s : State) : Option Trans :=
  if s.mode == Md.inspect then s.chief.trans.filter (fun t => t.applied && t.newMode == Md.configure) else none

/-- MODE_DRAIN_DONE (R49). -/
def execModeDrainDone (s : State) : Out :=
  match s.draining with
  | none => .next s
  | some t => if s.pathEmpty then .next (s.pathEnd.transDone t).takeWaiting else .next s

/-- Lines still held anywhere on the INSPECT path: at the Headbox and the Calenders by channel, at the Ridges by port. -/
def State.linesHeld (s : State) : Nat :=
  let frame (f : MemFrame) : Nat := if f.slot.isNone then 0 else f.lines.length - f.fetched
  (s.headbox.chans.map (fun e => (e.2.lines.filter (·.done.isNone)).length + e.2.queue.length)).sum +
  (s.calender.map (fun e => e.2.out.length)).sum +
  ([0, 1, 2, 3, 4, 5].map (fun k =>
    let r := s.ridge k
    r.inline.length + r.staging.length + (r.frames.map frame).sum)).sum

/-- What has not been written at the cut of R49 is discarded. -/
def State.discardRun (s : State) : State :=
  let s := s.couchCut.reamEndClient 2
  let s := { s with reel.backlog := [], headbox.chans := [] }
  let s := { s with headbox.ports := s.headbox.ports.map (fun e => (e.1, { e.2 with burst := .outside })) }
  let s := forN 48 (fun n s => s.setFill n 0) s
  let s := { s with calender := s.calender.map (fun e => (e.1, { e.2 with out := [] })) }
  let s := forN 6 (fun k s =>
    let s := s.setRidge k { s.ridge k with
      inline := [], frames := [], staging := [], blobs := [], sums := [], fifo := [], intake := [], burstLeft := 0 }
    (s.showInline k).showSlots k) s
  let s := { s with
    couch.records := s.couch.records.filter (fun o => !o.ring), couch.crops := [], couch.cropsDone := []
    stats.ready := [], stats.fifo := s.stats.fifo.filter (fun o => !o.ring) }
  s.showStats.showCouch

/-- DRAIN_CUT (R49): 100 ms after the change was applied. -/
def execDrainCut (s : State) : Out :=
  match s.draining with
  | none => .next s
  | some t =>
    if s.pathEmpty then .next (s.pathEnd.transDone t).takeWaiting else
    let n := s.linesHeld
    let s := s.count F.chiefTransStat_drainLost 0 n
    let s := s.log Ev.drainCut 0x00 0 [n]
    let s := (s.discardRun.pathEnd.transDone t).up F.chiefTransStat_cut
    .next s.takeWaiting

/-- The start mode of a new image is entered, and the command completes with it (R92, R529). -/
def State.enterStart (s : State) (cmd : CmdRef) (opcode : Nat) : State :=
  let m := s.rd F.cfgStat_startMode
  if m == Md.inspect || m == Md.expose then
    (s.showTrans { cmd := cmd, opcode := opcode, newMode := m } m).openJoint (.enter m)
  else if opcode == 0x62 then s.freeLock.report cmd opcode St.done 0 1
  else s.finish cmd opcode St.done

/-- LOAD_IMAGE_DONE (R89, R92): the image is applied; the start mode is entered, and the command completes with it. -/
def execLoadImageDone (s : State) : Out :=
  match s.cfg.load with
  | none => .next s
  | some l =>
    if s.chief.joint.isSome || s.rd F.cfgStat_state != 3 then .next s else
    let s := (s.wr F.cfgStat_state 0 4).count F.cfgStat_loads 0 1
    let s := { s with cfg.load := none }.freeLock
    .next (s.enterStart l.cmd 0x05).takeWaiting

/-! ### Activation (R527 to R530, R533) -/

/-- UPDATE_ACTIVATE (R527, R530): it waits for an open change. -/
def execUpdateActivate (cmd : CmdRef) (s : State) : Out :=
  .next (s.notPark cmd 0x62 (fun s => s.queueChange (.activate cmd)))

/-- ACTIVATION_DONE (R528, R529, R533): the pause ends. An image change applies the image as at the COMMIT of a load; in
RECOVERY a device reset is ordered instead, and BOOT_FAILS is cleared. -/
def execActivationDone (s : State) : Out :=
  match s.update.activation with
  | none => .next s
  | some a =>
    let s := s.count (F.secCnt_count 1) 0 1
    let s := ({ s with update.activation := none, update.session := none } : State).updState Us.idle
    let change := a.image.isSome
    if s.mode == Md.recovery then
      let s := s.freeLock.report a.cmd 0x62 St.done 0 (b2n change)
      .next s.eraseSpareDirectory.orderReset
    else
      match a.image with
      | none => .next (s.freeLock.report a.cmd 0x62 St.done 0 0).eraseSpareDirectory.takeWaiting
      | some img =>
        let s := ((s.applyImage img 0).wr F.cfgStat_state 0 4).eraseSpareDirectory
        let s := if s.mode == Md.maintain then s.enterMode Md.configure else s
        .next (s.enterStart a.cmd 0x62).takeWaiting

/-! ### Claims (R85, R86, R90) -/

/-- The identity under which the image of a load in progress reserves resource `r` (R90, R490). -/
def State.reservedFor (s : State) (r : Nat) : Option Nat :=
  if !s.cfg.reserved.contains r then none else
  let claims := match s.cfg.load.bind (·.image) with
    | some img => img.claims
    | none => []
  some (match claims.find? (fun c => c.1 == r) with
    | some c => Dom.image * 4096 + c.2.1
    | none => Dom.image * 4096 + 5)

/-- CLAIM (R85): a column claimed has every enable bit 0, attribute 0 and the claiming domain as its owner (R490). -/
def execClaim (cmd : CmdRef) (index : BitVec 16) (tag : BitVec 12) (s : State) : Out :=
  .next (s.notPark cmd 0x06 (fun s =>
    let r := index.toNat
    let id := ownerOf cmd + tag.toNat
    if Res.count ≤ r then s.finish cmd 0x06 St.badArg else
    match s.reservedFor r with
    | some o => s.finish cmd 0x06 St.conflict o
    | none =>
      if s.ownerDomain r == Dom.free then
        let s := (s.freeResource r).setOwner r id false
        let s := if Res.cairncol ≤ r && r < Res.stream then
            s.setReg (F.cairnMatrix_word.addr (8 * (r - Res.cairncol) + 7)) (BitVec.ofNat 32 (id / 4096))
          else s
        s.finish cmd 0x06 St.done
      else if s.owner r == id then s.finish cmd 0x06 St.done
      else s.finish cmd 0x06 St.conflict (s.owner r)))

/-- RELEASE (R86). -/
def execRelease (cmd : CmdRef) (index : BitVec 16) (s : State) : Out :=
  .next (s.notPark cmd 0x07 (fun s =>
    let r := index.toNat
    if Res.count ≤ r then s.finish cmd 0x07 St.badArg
    else if s.ownerDomain r == Dom.free then s.finish cmd 0x07 St.done
    else if s.ownerDomain r == ownerOf cmd / 4096 then (s.freeResource r).finish cmd 0x07 St.done
    else s.finish cmd 0x07 St.conflict (s.owner r)))

/-! ### Ticks of the Reel (R23, R138 to R141) -/

/-- A committed joint change whose target line is at or before line `line` (in u) takes effect. -/
def State.jointAt (s : State) (line : Int) : State :=
  match s.chief.joint with
  | some j =>
    match j.target with
    | some t => if t ≤ line then s.applyJoint j else s
    | none => s
  | none => s

/-- The line of a boundary, in u (R138). -/
def State.lineOf (s : State) (b : Int) : Int := if s.exposeImage then Int.fdiv b 8 else b

/-- MIN_PERIOD has passed since the last tick (R140). -/
def State.tickFree (s : State) : Bool :=
  match s.reel.lastTick with
  | some t => decide (t + s.reel.minPeriod ≤ s.nowNs)
  | none => true

/-- A tick leaves the Reel (R138, R140, R144, R198, R302): shadowed fields take effect at a line boundary, a joint
change at its target line; the Headbox, the Couch or the Laid get the tick. -/
def State.issueTick (s : State) (t : Tick) : State :=
  let now := s.nowNs
  let expose := s.exposeImage
  let sub := (Int.fmod t.boundary 8).toNat
  let line := s.lineOf t.boundary
  let s := { s with reel.lastTick := some now }
  let s := if !expose || sub == 0 then s.reelHandover else s
  let s := s.jointAt line
  if s.chief.path == Md.inspect then (s.trigger line).lineTime line true
  else if s.chief.path == Md.expose then
    let late := decide (s.reel.minPeriod < 4 * (now - t.due))
    let s := if late then (s.count F.reelLate_count 0 1).up F.reelStat_overspeed else s
    { s with laid.inbox := s.laid.inbox ++ [ShotTick.mk line sub late false (s.counter)] }
  else s

/-- A line or shot that gets no tick (R140). -/
def State.skipTick (s : State) (t : Tick) : State :=
  let line := s.lineOf t.boundary
  if s.chief.path == Md.inspect then (s.untriggered line).lineTime line false
  else if s.chief.path == Md.expose then
    { s with laid.inbox := s.laid.inbox ++ [ShotTick.mk line (Int.fmod t.boundary 8).toNat false true s.counter] }
  else s

/-- Skipped lines at the head of the backlog are reported as they come up. -/
def State.reportSkips (s : State) : Nat → State
  | 0 => s
  | n + 1 =>
    match s.reel.backlog with
    | t :: rest =>
      if t.skip then State.reportSkips (({ s with reel.backlog := rest } : State).skipTick t) n else s
    | [] => s

/-- REEL_TICK (R138, R140): the next boundary beyond the high-water boundary is crossed. -/
def execReelTick (s : State) : Out :=
  let b := s.reel.h + 1
  if Int.fdiv (s.toU s.reel.t) (s.pitch * stampUnit) < b then .next s else
  let s := { s with reel.h := b }
  let s := s.wrI64 F.reelHwmLo_value F.reelHwmHi_value 0 (s.toU (b * s.pitch))
  let line := s.lineOf b
  if s.reel.stop.any (fun t => decide (t ≤ line)) then .next (s.jointAt line).settleExit else
  let t : Tick := { boundary := b, due := s.nowNs, skip := false }
  if s.reel.backlog.isEmpty && s.tickFree then .next (s.issueTick t) else
  let room := if s.exposeImage then 8 else 16
  if (s.reel.backlog.filter (fun x => !x.skip)).length < room then
    .next { s.count F.reelCatchup_count 0 1 with reel.backlog := s.reel.backlog ++ [t] }
  else
    .next { s.count F.reelTickSkip_count 0 1 with reel.backlog := s.reel.backlog ++ [{ t with skip := true }] }

/-- REEL_BACKLOG_RELEASE (R140): the oldest tick of the backlog leaves MIN_PERIOD after the tick before it. -/
def execReelBacklogRelease (s : State) : Out :=
  if !s.tickFree then .next s else
  match s.reel.backlog with
  | [] => .next s
  | t :: rest =>
    let s := { s with reel.backlog := rest }
    let s := if t.skip then s.skipTick t else s.issueTick t
    .next (s.reportSkips s.reel.backlog.length).settleExit

/-- LAID_SHOT_TICK (R367): the next shot tick at slice 0, with what the Vat and the read-back met on the way: words
corrected, words that fail, and channels whose frame fails its CRC. -/
def execLaidShotTick (corrected : Nat) (failed : List (Word × Fin 576)) (crcBad : List (Fin 48)) (s : State) : Out :=
  match s.laid.inbox with
  | [] => .next s
  | k :: rest =>
    let s := { s with laid.inbox := rest }
    let s := s.laidTick k corrected (failed.map (fun e => (e.1.toNat, e.2.val))) (crcBad.map (·.val))
    .next s.laidEvents.exposeSettle

end Sys2Proof.Machine
end

