-- ==== Sys2Proof/Machine/Startup.lean ====
section
/-! DEFINITION. Resets, power and the start-up timeline (R52 to R63, R552 to R554, R578): what each reset keeps, the
phases of a cold and a quick start, RECOVERY, test hold. -/

namespace Sys2Proof.Machine

/-! ### Resets (R52 to R55) -/

/-! Causes in CHIEF_RESET_CAUSE. -/
namespace Rc
def por : Nat := 0
def pin : Nat := 1
def device : Nat := 2
def watchdog : Nat := 3
end Rc

/-- Registers of island 0x08 that every reset but POR keeps: the event log with its counters (R55), and the identity
registers, which show the fuses read at the last POR (R495). -/
def keptByReset (a : Nat) : Bool :=
  a < 0x18 || (F.chiefLogNext_logSeq.addr 0 ≤ a && a ≤ F.chiefLogLost_count.addr 0) ||
  (F.evlogWord_word.addr 0 ≤ a && a < F.evlogWord_word.addr 8192)

/-- Everything at its reset value but what a reset keeps (R55): the registers `kept` names, flash, fuses, the latched
pins, and the log where `log` says so. -/
def State.cleared (s : State) (kept : Nat → Bool) (log : Bool) : State :=
  { pending := s.pending, clock := s.clock, fresh := s.fresh, out := s.out, flash := s.flash, fuses := s.fuses
    regs := s.regs.filter (fun e => kept e.1)
    logQueue := if log then s.logQueue else []
    update := { keyStore := s.update.keyStore }
    chief := { power := s.chief.power, tristate := s.chief.tristate, rose := s.chief.rose
               inReset := true } }

/-- A reset that restarts the controllers (R55): everything returns to its reset value but what the cause keeps. HBM
contents are lost; flash, fuses and the queue of commands are not the reset's. -/
def State.restart (s : State) (cause : Nat) : State :=
  let por := cause == Rc.por
  let boot := s.reg (F.chiefBoot_bootSel.addr 0)
  let resets := s.rd F.chiefResetCause_resets
  let t := s.cleared (fun a => !por && keptByReset a) (!por)
  let t := t.wr F.chiefResetCause_last 0 cause
  if por then t else
  let t := t.wr F.chiefBoot_bootSel 0 (F.chiefBoot_bootSel.ofWord boot)
  let t := t.wr F.chiefBoot_bootFails 0 (F.chiefBoot_bootFails.ofWord boot)
  let t := t.wr F.chiefBoot_unparkedRun 0 (F.chiefBoot_unparkedRun.ofWord boot)
  -- a second cause while a reset is held records no second reset (R554)
  t.wr F.chiefResetCause_resets 0 (if s.chief.inReset then resets else satAdd 16 resets 1)

/-- Time 0 of a start-up (R56, R58): with BOOT_SEL = 11 the device is in test hold. -/
def State.begin (s : State) : State :=
  let s := { s with chief.inReset := false, chief.tristate := false, chief.rose := none, chief.riseAt := s.clock }
  if s.rd F.chiefBoot_bootSel == 3 then
    ((s.wr F.chiefMode_mode 0 Md.testHold).wr F.chiefMode_phase 0 0).wr F.chiefBoot_startKind 0 3
  else s

/-- A device or watchdog reset: start-up begins at once, with the latched BOOT_SEL. -/
def State.softReset (s : State) (cause : Nat) : State := (s.restart cause).begin

/-- A failed boot (R63). -/
def State.bootFails (s : State) : State :=
  (s.wr F.chiefBoot_bootFails 0 (satAdd 2 (s.rd F.chiefBoot_bootFails) 1)).softReset Rc.device

/-- RESET_DEVICE (R52, R457): a reset follows within 1 ms, and no completion is written. -/
def execResetDevice (cmd : CmdRef) (s : State) : Out :=
  .next (s.command cmd 0x04 (fun s => (s.takeCmd cmd).orderReset))

/-- DEVICE_RESET (R52): a device reset that was ordered takes effect. -/
def execDeviceReset (s : State) : Out := if s.chief.resetOrdered then .next (s.softReset Rc.device) else .next s

/-- WATCHDOG_SERVICE (R54). -/
def execWatchdogService (s : State) : Out := .next { s with chief.watchdog := s.clock }

/-- WATCHDOG_RESET (R54, R530). -/
def execWatchdogReset (s : State) : Out := if s.chief.inReset then .next s else .next (s.softReset Rc.watchdog)

/-! ### Pins and power (R53, R552 to R554) -/

/-- Every single-ended output goes to high impedance and every transmitter squelches (R53, R554). -/
def State.release (s : State) : State :=
  if s.chief.tristate then s else
  let s := forN 32 (fun i s =>
    let fn := (s.evioFn i).func
    if 0x02 ≤ fn then s.emit (.evio i none) else s) s
  let s := (s.emit (.pps none)).emit (.alertN false)
  { s with chief.tristate := true }

/-- The pins return to their previous states (R53). -/
def State.drive (s : State) : State :=
  let s := { s with chief.tristate := false }
  let s := forN 32 (fun i s =>
    let fn := (s.evioFn i).func
    if fn == 0x02 || fn == 0x03 then s.emit (.evio i (s.evioBall i (s.flag F.cairnEvioOut_level i)))
    else if 0x10 ≤ fn then s.emit (.evio i (s.evioBall i ((s.gen (fn - 0x10)).active && s.evioActs)))
    else s) s
  let s := match s.rd F.timePpsCtl_outSrc with
    | 1 => s.ppsDrive s.time.ppsHigh
    | 2 => s.ppsDrive ((s.gen 3).active != s.flag F.pulseCtl_polarity 3)
    | _ => s.ppsDrive false
  s.driveAlert

/-- RESET_N_FALL (R53). -/
def execResetNFall (s : State) : Out := .next s.release

/-- PIN_RESET (R53): the filter confirms the pulse. -/
def execPinReset (s : State) : Out := .next (s.release.restart Rc.pin)

/-- RESET_N_RISE (R53, R56, R58, R553): a pulse the filter rejected is a glitch; else time 0, once the main domain is
up. -/
def execResetNRise (bootSel : BitVec 2) (s : State) : Out :=
  if !s.chief.inReset then
    if !s.chief.tristate then .next s else .next ((s.drive.up F.chiefResetCause_glitch).log Ev.resetGlitch 0x08 0 [])
  else if s.chief.power != 2 then .next { s with chief.rose := some bootSel.toNat }
  else .next (s.wr F.chiefBoot_bootSel 0 bootSel.toNat).begin

/-- POWER_ON_RESET (R495, R496, R552, R553): the fuses are read; retention register and event log are cleared. -/
def execPowerOnReset (idGood trimGood : Bool) (s : State) : Out :=
  let t := { s with chief.tristate := true, chief.rose := none }.restart Rc.por
  .next { t.showFuses idGood trimGood with chief.power := 1 }

/-- STANDBY_OFF (R552): the standby domain is lost. -/
def execStandbyOff (s : State) : Out :=
  .next { s.release.restart Rc.por with chief.power := 0, chief.rose := none }

/-- MAIN_POWER_UP (R553, R554): step 2; during a discharge it waits for its end. If RESET_N has risen before, time 0 is
now. -/
def execMainPowerUp (s : State) : Out :=
  if s.chief.power == 3 then .next { s with chief.power := 4 }
  else if s.chief.power != 1 then .next s
  else
    let s := { s with chief.power := 2 }
    match s.chief.rose with
    | some b => .next (s.wr F.chiefBoot_bootSel 0 b).begin
    | none => .next s

/-- MAIN_POWER_DOWN (R554): outputs release, HBM is lost, and a pin reset is recorded; start-up waits for RESET_N to rise
again. -/
def execMainPowerDown (s : State) : Out :=
  if s.chief.power != 2 then .next s else
  .next { s.release.restart Rc.pin with chief.power := 3, chief.rose := none }

/-- MAIN_DISCHARGE_DONE (R554). -/
def execMainDischargeDone (s : State) : Out :=
  if s.chief.power == 3 then .next { s with chief.power := 1 }
  else if s.chief.power == 4 then execMainPowerUp { s with chief.power := 1 }
  else .next s

/-! ### The health record and the token (R61, R64, R509, R510) -/

/-- A section of the health record: its payload. -/
def healthSection (type : Nat) : Nat → Bytes → Bytes
  | 0, _ => []
  | n + 1, b =>
    let len := leAt b 4 4
    if leAt b 0 4 == type then sub b 8 len else healthSection type n (b.drop (8 + len))

/-- The health record of the flash, where the ROM uses it (R510): its bytes. -/
def State.healthRecord (s : State) : Option Bytes :=
  let len := leAt (s.flashBytes healthBase 32) 16 4
  if len < 36 || 262144 < len then none else
  let b := s.flashBytes healthBase len
  if sub b 0 4 == ofNats [0x48, 0x4C, 0x54, 0x48] && leAt b 4 1 == 1 && leAt b (len - 4) 4 == crc32c (b.take (len - 4)) &&
      leAt b 8 4 == s.fuses.serial && leAt b 12 1 == s.fuses.stepping % 256 then some b else none

/-- A section's payload. -/
def State.healthPart (s : State) (type : Nat) : Bytes :=
  match s.healthRecord with
  | some b => healthSection type (leAt b 6 2) (sub b 32 (b.length - 36))
  | none => []

/-- The token's bytes where it is present and its digest checks (R64). -/
def State.token (s : State) : Option Bytes :=
  let b := s.flashBytes tokenBase 208
  if sub b 0 4 == ofNats [0x50, 0x41, 0x52, 0x4B] && beAt b 160 48 == sha384 (b.take 160) then some b else none

/-- SHA-384 of the firmware set of a bank: its five parts in the order of their types (R61, R64). -/
def State.firmwareDigest (s : State) (b : Nat) : Nat :=
  sha384 ([1, 2, 3, 4, 5].flatMap (fun t =>
    match partOfType (s.manifest b) t with
    | some (_, p) => s.flashBytes (bankBase b + p.off) p.len
    | none => []))

/-- The first condition of R61 that fails, as COLD_CAUSE; 0 for a quick start. The token vouches for the health record,
so a record that fails its checks fails with it (R510). -/
def State.coldCause (s : State) : Nat :=
  let b := s.activeBank
  if s.rd F.chiefBoot_bootSel != 0 then 1
  else if s.rd F.chiefBoot_bootFails != 0 then 2
  else if s.flag F.chiefBoot_unparkedRun then 3
  else match s.token, s.healthRecord with
    | some t, some _ =>
      if leAt t 8 4 != s.fuses.serial || leAt t 12 1 != s.fuses.stepping % 256 then 5
      else if beAt t 16 48 != s.firmwareDigest b || beAt t 64 48 != sha384 (s.bankImage b) then 6
      else if leAt t 13 1 != 1 then 7
      else 0
    | _, _ => 4

/-- The bank a start attempt boots from (R531). -/
def State.chooseBank (s : State) : Nat :=
  let a := s.activeBank
  let other := s.directory.any (fun d => d.fallback && d.other == sha384 (s.manifest (1 - a)))
  if s.rd F.chiefBoot_bootFails == 1 && other then 1 - a else a

/-- The firmware of a bank passes its checks (R58): digests and Elvern's signatures. -/
def State.firmwareOk (s : State) (b : Nat) : Bool :=
  let m := s.manifest b
  (manifestHeaderFault m none).isNone &&
  [1, 2, 3, 4, 5].all (fun t =>
    match partOfType m t with
    | some (_, p) =>
      sha384 (s.flashBytes (bankBase b + p.off) p.len) == p.digest &&
      ecdsaVerify Config.firmwareKey p.digest p.r p.s
    | none => false)

/-- Soft repairs of the record (R507, R509, R510). -/
def repairsOfRecord (b : Bytes) : List Repair :=
  (List.range (b.length / 8)).map (fun i =>
    let o := 8 * i
    ⟨leAt b o 1, leAt b (o + 1) 1, leAt b (o + 2) 2, bit (leAt b (o + 4) 1) 0, bits (leAt b (o + 4) 1) 1 3, leAt b (o + 5) 2⟩)

/-- A byte address of the row an HBM_REPAIR entry names, by the inverse of the mapping of R430. -/
def rowAddress (pc sid bg bk row : Nat) : Nat :=
  let local_ := ((bg ^^^ row % 4) * 2 ^ 10) + ((bk ^^^ row / 4 % 4) * 2 ^ 12) + row * 2 ^ 14 + sid * 2 ^ 28
  let high := local_ / 256 * 2 ^ 14
  high + (pc ^^^ bits high 20 6) * 256

/-- Rows of the record (R508 to R510), by an address in the row. -/
def rowsOfRecord (b : Bytes) : List Nat :=
  (List.range (b.length / 8)).map (fun i =>
    let o := 8 * i
    rowAddress (leAt b o 1) (leAt b (o + 1) 1) (leAt b (o + 2) 1) (leAt b (o + 3) 1) (leAt b (o + 4) 2))

/-- Phase 4 (R58, R59, R510): repairs from the health record; on a quick start also trims, test results and the Spurs
retired. -/
def State.restoreHealth (s : State) (quick : Bool) : State :=
  let s := { s with test.repairs := repairsOfRecord (s.healthPart 3), test.hbmRepairs := rowsOfRecord (s.healthPart 4) }.showRepairs
  if !quick then s else
  let spurs := leAt (s.healthPart 2) 0 8
  let res := s.healthPart 1
  let s := forN (res.length / 4) (fun i s =>
    let isl := leAt res (4 * i) 1
    if alwaysOn.contains isl then s else
    let s := (s.wr F.testIsl_result isl (leAt res (4 * i + 1) 1)).wr F.testIsl_passed isl (leAt res (4 * i + 2) 1)
    if bit (leAt res (4 * i + 3) 1) 0 && !isSpur isl then (s.up F.testIsl_failed isl).count F.testStat_failed 0 1 else s) s
  let s := forN 6 (fun k s =>
    let gone := (List.range 9).filter (fun j => bit spurs (9 * k + j))
    if gone.isEmpty then s else s.ridgeStart k gone) s
  let trims := s.healthPart 5
  let s := forN (trims.length / 4) (fun i s =>
    let e : CalElem := { kind := .thermal, lane := none, code := leAt trims (4 * i + 2) 2, target := leAt trims (4 * i + 2) 2 }
    { s with test.trims := Sparse.insert s.test.trims (leAt trims (4 * i) 2) e }) s
  (s.wr F.testResult_result 0 1).wr F.testResult_occasion 0 2

/-! ### The phases (R58 to R63, R578) -/

/-- PHASE set. -/
def State.toPhase (s : State) (n : Nat) : State := s.wr F.chiefMode_phase 0 n

/-- The speed point of the flash image's plan (R59). -/
def State.imageSpeed (s : State) : Nat :=
  match s.checkBytes (s.bankImage s.chief.bootBank) with
  | .ok img => min 2 (leAt (img.planEntries.headD []) 2 1)
  | .error _ => 0

/-- The ROM enters RECOVERY (R578): HBM is initialised until READY. -/
def State.enterRecovery (s : State) : State :=
  let s := (s.wr F.chiefMode_mode 0 Md.recovery).toPhase 0
  (s.wr F.chiefBoot_startKind 0 2).showDirectory.wr F.hbmStat_state 0 1

/-- READY with the time it took (R58). -/
def State.showReady (s : State) : State :=
  let ms := (s.clock - s.chief.riseAt) * 4 / 1000000
  (s.up F.chiefMode_ready).wr F.chiefStartMs_toReady 0 (min 65535 ms)

/-- RECOVERY_READY (R533, R578). -/
def execRecoveryReady (s : State) : Out :=
  if s.mode != Md.recovery || s.flag F.chiefMode_ready then .next s else
  let s := ((s.setTrained 2 2).wr F.hbmStat_speed 0 2).wr F.hbmStat_state 0 3
  .next s.showReady

/-- The logic self-test of a cold start begins (R501, R504). -/
def State.beginLogic (s : State) (occasion : Nat) (clears : Bool) : State :=
  let c := s.clearFor otherIslands clears
  c.1.startTest { cmd := none, occasion := occasion, patterns := 18, slices := 8, islands := c.2, allowance := some 144000000 }

/-- Phase 8 begins (R58, R59). -/
def State.beginHbm (s : State) : State := (s.toPhase 8).wr F.hbmStat_state 0 1

/-- The end of phase 8 (R447, R508, R581). -/
def State.endHbm (s : State) (quick : Bool) (fails : List HbmRowFail) : State :=
  let sp := s.imageSpeed
  let s := if quick then s.setTrained sp 2 else ((s.hbmTest fails).setTrained 0 2).setTrained 1 2 |>.setTrained 2 2
  (s.wr F.hbmStat_speed 0 sp).wr F.hbmStat_state 0 3

/-- Phase 9 (R58, R63, R77, R78): the image of the bank in use is read and checked. -/
def State.verifyImage (s : State) : Except LoadErr Image :=
  match s.checkBytes (s.bankImage s.chief.bootBank) with
  | .error e => .error e
  | .ok img =>
    match s.dryPass img false false with
    | some e => .error e
    | none => .ok img

/-- READY is reached (R44, R46, R62, R63, R503, R532). -/
def State.reachReady (s : State) : State :=
  let s := (s.toPhase 0).showReady
  let s := (s.wr F.chiefBoot_bootFails 0 0).wr F.chiefBoot_unparkedRun 0 1
  let a := s.activeBank
  let s := if s.chief.bootBank == a then s else
    ((s.writeDirectory s.chief.bootBank false).up F.updStat_fellBack).log Ev.updateFallback 0x07 0 [a, s.chief.bootBank]
  let m := s.rd F.cfgStat_startMode
  if m != Md.inspect && m != Md.expose then s.enterMode Md.configure else
  let bad := (List.range 256).find? (fun i => s.chainNeeds m i && s.flag F.testIsl_failed i)
  match bad with
  | some i => (s.log Ev.startHeld 0x00 0 [i]).enterMode Md.configure
  | none =>
    if (s.entryRefusal m 2).isSome then s.enterMode Md.configure else
    let s := (s.advance F.chiefJointStat_jointSeq 0 1).wr F.chiefJointStat_involved 0 15
    ((s.wr F.chiefJointStat_state 0 3).runBegin m).enterMode m

/-- STARTUP_PHASE_END (R58, R59, R61, R63, R578): the phase completes with what was found in it: whether cleared stores
read zero, failing reads and spares of the memory test, calibration results, failing HBM rows, a failed read-back check
of a quick start. -/
def execStartupPhaseEnd (clears : Bool) (memFails : List MemFail) (badSpares : List BadSpare)
    (results : List CalResult) (rowFails : List HbmRowFail) (readBackBad : Bool) (s : State) : Out :=
  if s.mode != Md.starting || s.chief.inReset then .next s else
  let quick := s.rd F.chiefBoot_startKind == 1
  let mine (p : Nat → Bool) (s : State) : State :=
    s.memoryTest (memFails.filter (fun f => p f.isl)) (badSpares.filter (fun b => p b.isl))
  match s.rd F.chiefMode_phase with
  | 1 =>
    let s := mine (alwaysOn.contains ·) s.bootTest.cutTest
    if s.rd F.chiefBoot_bootSel == 2 || s.rd F.chiefBoot_bootFails == 2 then .next s.enterRecovery
    else .next (s.toPhase 2)
  | 2 =>
    let s := s.showDirectory
    let cause := s.coldCause
    let s := (s.wr F.chiefBoot_startKind 0 (b2n (cause == 0))).wr F.chiefBoot_coldCause 0 cause
    let s := { s with chief.bootBank := s.chooseBank }
    .next (s.toPhase 3)
  | 3 => if s.firmwareOk s.chief.bootBank then .next (s.toPhase 4) else .next s.bootFails
  | 4 =>
    let s := s.restoreHealth quick
    if quick then .next s.beginHbm else .next ((s.toPhase 5).beginLogic 1 clears)
  | 5 => .next (s.cutTest.toPhase 6)
  | 6 =>
    let c := s.clearFor otherIslands clears
    .next ((mine (c.2.contains ·) c.1).toPhase 7)
  | 7 =>
    let s := forAll results (fun r s => s.calibrate r true) s
    .next (s.up F.testCal_calDone).beginHbm
  | 8 =>
    if quick && readBackBad then
      let s := (s.wr F.chiefBoot_startKind 0 0).wr F.chiefBoot_coldCause 0 8
      .next ((s.toPhase 5).beginLogic 1 clears)
    else .next ((s.endHbm quick rowFails).toPhase 9)
  | 9 =>
    match s.verifyImage with
    | .error e => .next (s.loadRejected e 0).bootFails
    | .ok _ => .next ((s.wr F.cfgStat_state 0 3).toPhase 10)
  | 10 =>
    match s.verifyImage with
    | .error _ => .next s.bootFails
    | .ok img => .next (((s.applyImage img 0).wr F.cfgStat_state 0 4).toPhase 11)
  | 11 => .next s.reachReady
  | _ => .next s

/-- BOOT_TIMEOUT (R63): READY not reached within 4.0 s. -/
def execBootTimeout (s : State) : Out :=
  if s.mode == Md.starting && !s.chief.inReset then .next s.bootFails else .next s

/-! ### The steps of PARK (R64, R65) -/

/-- RESULT of PARK_STAT after step 4: 1 PASS, 2 FAIL, 3 INCOMPLETE. -/
def State.parkResult (s : State) (worse : Bool) : Nat := if worse then 2 else s.rd F.testResult_result

/-- RESULT as the token and the record spell it (R64, R509). -/
def State.resultByte (s : State) : Nat :=
  match s.rd F.chiefParkStat_result with
  | 1 => 1
  | 3 => 2
  | _ => 0

/-- The park count of the token in the flash. -/
def State.parkCount (s : State) : Nat :=
  match s.token with
  | some t => leAt t 4 4
  | none => 0

/-- A section of the record. -/
def sectionBytes (type : Nat) (b : Bytes) : Bytes := leBytes 4 type ++ leBytes 4 b.length ++ b

/-- The health record (R509). The form of a training block is the controllers' own: its bytes are free values. -/
def State.healthBytes (s : State) (count : Nat) : Bytes × State :=
  let islands := (List.range 256).filter islandAssigned
  let results := islands.flatMap (fun i => leBytes 1 i ++ leBytes 1 (s.rd F.testIsl_result i) ++
    leBytes 1 (s.rd F.testIsl_passed i) ++ leBytes 1 (b2n (s.flag F.testIsl_failed i)))
  let spurs := ((List.range 54).map (fun x => if s.rd F.ridgeSpurStat_role x == SpurRole.retired then 2 ^ x else 0)).sum
  let sram := s.test.repairs.flatMap (fun r => leBytes 1 r.isl ++ leBytes 1 r.array ++ leBytes 2 r.sub ++
    leBytes 1 (b2n r.column + r.spare % 8 * 2) ++ leBytes 2 r.index ++ [0])
  let rows := s.test.hbmRepairs.flatMap (fun a => leBytes 1 (hbmPc a) ++ leBytes 1 (hbmSid a) ++ leBytes 1 (hbmBg a) ++
    leBytes 1 (hbmBk a) ++ leBytes 2 (hbmRow a) ++ zeros 2)
  let trims := s.test.trims.flatMap (fun e => leBytes 2 e.1 ++ leBytes 2 e.2.code)
  let (training, s) := ([0, 1, 2].filter (fun p => s.trained p == 2)).foldl (fun (acc : Bytes × State) _ =>
    let (v, s) := acc.2.free
    (acc.1 ++ leBytes 4 v, s)) ([], s)
  let body := sectionBytes 1 results ++ sectionBytes 2 (leBytes 8 spurs) ++ sectionBytes 3 sram ++ sectionBytes 4 rows ++
    sectionBytes 5 trims ++ sectionBytes 6 training
  let head := ofNats [0x48, 0x4C, 0x54, 0x48] ++ leBytes 1 1 ++ leBytes 1 s.resultByte ++ leBytes 2 6 ++
    leBytes 4 s.fuses.serial ++ leBytes 1 s.fuses.stepping ++ zeros 3 ++ leBytes 4 (body.length + 36) ++ leBytes 4 count ++ zeros 8
  let b := head ++ body
  (b ++ leBytes 4 (crc32c b), s)

/-- The clean-park token (R64). -/
def State.tokenBytes (s : State) (count : Nat) : Bytes :=
  let a := s.activeBank
  let len := leAt (s.flashBytes healthBase 32) 16 4
  let b := ofNats [0x50, 0x41, 0x52, 0x4B] ++ leBytes 4 count ++ leBytes 4 s.fuses.serial ++ leBytes 1 s.fuses.stepping ++
    leBytes 1 s.resultByte ++ zeros 2 ++ beBytes 48 (s.firmwareDigest a) ++ beBytes 48 (sha384 (s.bankImage a)) ++
    beBytes 48 (sha384 (s.flashBytes healthBase len))
  b ++ beBytes 48 (sha384 b)

/-- Islands that stay powered in PARK (R64). -/
def parkIslands : List Nat := [0x00, 0x08, 0x09, 0xC0, 0x1E, 0x1F]

/-- The end of step 2: the token sector is erased. The count of the token before it is kept for the new one. -/
def State.parkErase (s : State) (flashError : Bool) : State :=
  if flashError then (s.up F.chiefParkStat_flashErr).parkStep 3 else
  ({ s.eraseFlash tokenBase (tokenBase + 4096) with chief.parkCount := s.parkCount } : State).parkStep 3

/-- The end of step 3: lanes L0 to L55 squelched, pins high impedance (R64); Ream jobs end (R427). Step 4's logic test
begins (R501, R504). -/
def State.parkSquelch (s : State) (clears : Bool) : State :=
  let s := forN 56 (fun n s => s.laneOff n) s.reamEndAll
  let s := forN 32 (fun i s => if 0x02 ≤ (s.evioFn i).func then s.emit (.evio i none) else s) s
  let s := (s.emit (.pps none)).emit (.alertN false)
  (s.parkStep 4).beginLogic 2 clears

/-- The end of step 4 (R64, R65). -/
def State.parkTested (s : State) (fails : List MemFail) (bad : List BadSpare) : State :=
  let s := s.cutTest
  let u := s.rd F.testMemStat_unrepairable
  let s := s.memoryTest (fails.filter (fun f => otherIslands.contains f.isl)) (bad.filter (fun b => otherIslands.contains b.isl))
  let r := s.parkResult (decide (u < s.rd F.testMemStat_unrepairable))
  (s.wr F.chiefParkStat_result 0 r).parkStep 5

/-- The end of step 5: the health record is programmed. -/
def State.parkHealth (s : State) (flashError : Bool) : State :=
  let s := s.eraseFlash healthBase (healthBase + 262144)
  if flashError then (s.up F.chiefParkStat_flashErr).parkStep 6 else
  let (b, s) := s.healthBytes (s.chief.parkCount + 1)
  (s.setFlashBytes healthBase b).parkStep 6

/-- The end of step 6: the token is programmed, unless a flash operation has failed (R62, R65). -/
def State.parkToken (s : State) (flashError : Bool) : State :=
  if s.flag F.chiefParkStat_flashErr then s.parkStep 7
  else if flashError then (s.up F.chiefParkStat_flashErr).parkStep 7
  else
    let s := s.setFlashBytes tokenBase (s.tokenBytes (s.chief.parkCount + 1))
    ((s.up F.chiefParkStat_tokenWritten).wr F.chiefBoot_unparkedRun 0 0).parkStep 7

/-- HBM powered down: its contents are lost. -/
def State.powerDownHbm (s : State) : State := { s with hbm := [], mem := {} }

/-- The end of step 7 (R64 to R66): HBM is powered down and the islands gated; PARK is entered. -/
def State.parkEnd (s : State) (t : Trans) : State :=
  let s := s.powerDownHbm
  let s := (s.wr F.hbmStat_state 0 5).wr F.hbmStat_trained 0 0
  let s := forAll ((List.range 256).filter (fun i => islandAssigned i && !parkIslands.contains i)) (fun i s => s.gate i) s
  let s := { s.enterMode Md.park with chief.trans := none }
  ((s.parkStep 0).freeLock).finish t.cmd 0x02 St.done

/-- PARK_STEP_DONE (R64, R65): the step in progress completes. -/
def execParkStepDone (flashError clears : Bool) (fails : List MemFail) (badSpares : List BadSpare) (s : State) : Out :=
  match s.chief.trans with
  | none => .next s
  | some t =>
    if t.opcode != 0x02 || t.newMode != Md.park then .next s else
    match s.rd F.chiefParkStat_step with
    | 2 => .next (s.parkErase flashError)
    | 3 => .next (s.parkSquelch clears)
    | 4 => .next (s.parkTested fails badSpares)
    | 5 => .next (s.parkHealth flashError)
    | 6 => .next (s.parkToken flashError)
    | 7 => .next (s.parkEnd t).takeWaiting
    | _ => .next s

/-! ### The host reset, and completions (R452, R457, R458) -/

/-- HOST_RESET (R52, R55, R452, R522): PCIe hot reset, link down or Function Level Reset. -/
def execHostReset (flr linkDown : Bool) (s : State) : Out :=
  let s := s.clearRings.dmaHostReset.reamHostReset
  let s := (s.freeDomain Dom.hostPcie).resetMsix
  let s := (s.down F.hostStat_d3hot).down F.hostStat_busMaster
  let s := if linkDown then ((s.down F.hostStat_linkUp).wr F.hostStat_gen 0 0).wr F.hostStat_width 0 0 else s
  let s := s.count F.chiefResetCause_hostResets 0 1
  let s := { s with host.flr := flr }
  .next (if s.update.session.any (fun x => x.stream.isNone) && s.update.activation.isNone then
      (({ s with update.session := none } : State).freeLock).updState Us.idle
    else s)

/-- CMD_COMPLETE (R448, R457, R458): the owning controller's report of a command reaches island 0xC0 and its completion
is made; a change of speed and a training end with it. -/
def execCmdComplete (cmd : CmdRef) (s : State) : Out :=
  let s := match s.findCmd cmd with
    | some o =>
      if o.taken && o.opcode == 0x20 then s.speedDone else if o.taken && o.opcode == 0x21 then s.retrainDone cmd else s
    | none => s
  match s.host.reports.find? (fun r => r.cseq == cmd.cseq && r.stream == streamOf cmd) with
  | some r => .next (s.complete r)
  | none => .next s

end Sys2Proof.Machine
end

