-- ==== Sys2Proof/Machine/Dispatch.lean ====
section
/-! DEFINITION. One arm per command: the meaning that runs it. -/

namespace Sys2Proof.Machine

/-- The effect of a command on everything but the queue. -/
def exec (i : Instr) (s : State) : Host.Outcome State Fault Refusal :=
  match i with
  | .registerWrite addr width value => Sys2Proof.Machine.execRegisterWrite addr width value s
  | .rcRead addr width => Sys2Proof.Machine.execRcRead addr width s
  | .pairLoRead addr => Sys2Proof.Machine.execPairLoRead addr s
  | .accessTimeout addr write => Sys2Proof.Machine.execAccessTimeout addr write s
  | .mailboxApply agent => Sys2Proof.Machine.execMailboxApply agent s
  | .stewardHeartbeatMiss steward => Sys2Proof.Machine.execStewardHeartbeatMiss steward s
  | .stewardRestartDone steward => Sys2Proof.Machine.execStewardRestartDone steward s
  | .stewardAnswer steward held => Sys2Proof.Machine.execStewardAnswer steward held s
  | .jointAnswerTimeout => Sys2Proof.Machine.execJointAnswerTimeout s
  | .jointTargetTimeout => Sys2Proof.Machine.execJointTargetTimeout s
  | .agentApplied => Sys2Proof.Machine.execAgentApplied s
  | .clockMonitorSample khz => Sys2Proof.Machine.execClockMonitorSample khz s
  | .setMode cmd mode stopNow => Sys2Proof.Machine.execSetMode cmd mode stopNow s
  | .modeDrainDone => Sys2Proof.Machine.execModeDrainDone s
  | .drainCut => Sys2Proof.Machine.execDrainCut s
  | .park cmd => Sys2Proof.Machine.execPark cmd s
  | .parkStepDone flashError clears fails badSpares => Sys2Proof.Machine.execParkStepDone flashError clears fails badSpares s
  | .parkStatus cmd => Sys2Proof.Machine.execParkStatus cmd s
  | .resetDevice cmd => Sys2Proof.Machine.execResetDevice cmd s
  | .powerOnReset idGood trimGood => Sys2Proof.Machine.execPowerOnReset idGood trimGood s
  | .standbyOff => Sys2Proof.Machine.execStandbyOff s
  | .mainPowerUp => Sys2Proof.Machine.execMainPowerUp s
  | .mainPowerDown => Sys2Proof.Machine.execMainPowerDown s
  | .mainDischargeDone => Sys2Proof.Machine.execMainDischargeDone s
  | .resetNFall => Sys2Proof.Machine.execResetNFall s
  | .pinReset => Sys2Proof.Machine.execPinReset s
  | .resetNRise bootSel => Sys2Proof.Machine.execResetNRise bootSel s
  | .watchdogService => Sys2Proof.Machine.execWatchdogService s
  | .watchdogReset => Sys2Proof.Machine.execWatchdogReset s
  | .hostReset flr linkDown => Sys2Proof.Machine.execHostReset flr linkDown s
  | .startupPhaseEnd clears memFails badSpares results rowFails readBackBad => Sys2Proof.Machine.execStartupPhaseEnd clears memFails badSpares results rowFails readBackBad s
  | .bootTimeout => Sys2Proof.Machine.execBootTimeout s
  | .loadImage cmd addr len => Sys2Proof.Machine.execLoadImage cmd addr len s
  | .loadImageDone => Sys2Proof.Machine.execLoadImageDone s
  | .claim cmd index tag => Sys2Proof.Machine.execClaim cmd index tag s
  | .release cmd index => Sys2Proof.Machine.execRelease cmd index s
  | .laneBlockRx lane header payload measured => Sys2Proof.Machine.execLaneBlockRx lane header payload measured s
  | .cdrLock lane ctle dfe => Sys2Proof.Machine.execCdrLock lane ctle dfe s
  | .cdrLost lane => Sys2Proof.Machine.execCdrLost lane s
  | .cdrAcqTimeout lane => Sys2Proof.Machine.execCdrAcqTimeout lane s
  | .laneRelock lane => Sys2Proof.Machine.execLaneRelock lane s
  | .alignTx lane bip => Sys2Proof.Machine.execAlignTx lane bip s
  | .laneTxDelayWrite lane value => Sys2Proof.Machine.execLaneTxDelayWrite lane value s
  | .tapSlewStep lane => Sys2Proof.Machine.execTapSlewStep lane s
  | .laneProbeStart lane value => Sys2Proof.Machine.execLaneProbeStart lane value s
  | .probeTx lane => Sys2Proof.Machine.execProbeTx lane s
  | .echoRx lane probeId turn taps => Sys2Proof.Machine.execEchoRx lane probeId turn taps s
  | .probeWindowEnd lane => Sys2Proof.Machine.execProbeWindowEnd lane s
  | .probeRx lane probeId => Sys2Proof.Machine.execProbeRx lane probeId s
  | .creditRx lane port limit => Sys2Proof.Machine.execCreditRx lane port limit s
  | .creditTx port => Sys2Proof.Machine.execCreditTx port s
  | .marginStart lane value => Sys2Proof.Machine.execMarginStart lane value s
  | .marginDone lane errors => Sys2Proof.Machine.execMarginDone lane errors s
  | .prbsInject lane => Sys2Proof.Machine.execPrbsInject lane s
  | .prbsClear lane => Sys2Proof.Machine.execPrbsClear lane s
  | .axisFilteredChange axis levels => Sys2Proof.Machine.execAxisFilteredChange axis levels s
  | .axisArm axis => Sys2Proof.Machine.execAxisArm axis s
  | .serialFrameStart axis => Sys2Proof.Machine.execSerialFrameStart axis s
  | .serialFrameDone axis recovering frame => Sys2Proof.Machine.execSerialFrameDone axis recovering frame s
  | .reelMeasurement => Sys2Proof.Machine.execReelMeasurement s
  | .reelStopTimeout => Sys2Proof.Machine.execReelStopTimeout s
  | .reelTick => Sys2Proof.Machine.execReelTick s
  | .reelBacklogRelease => Sys2Proof.Machine.execReelBacklogRelease s
  | .reelForwardWrite forward => Sys2Proof.Machine.execReelForwardWrite forward s
  | .reelPosSet hi => Sys2Proof.Machine.execReelPosSet hi s
  | .reelAdjust offset => Sys2Proof.Machine.execReelAdjust offset s
  | .reelCapture unit => Sys2Proof.Machine.execReelCapture unit s
  | .reelCapturePop unit => Sys2Proof.Machine.execReelCapturePop unit s
  | .schedEnable unit ctl => Sys2Proof.Machine.execSchedEnable unit ctl s
  | .schedFire unit => Sys2Proof.Machine.execSchedFire unit s
  | .schedArmEvent unit gen => Sys2Proof.Machine.execSchedArmEvent unit gen s
  | .syncSampleTx lane => Sys2Proof.Machine.execSyncSampleTx lane s
  | .syncSampleRx lane sample data1 data2 arrival => Sys2Proof.Machine.execSyncSampleRx lane sample data1 data2 arrival s
  | .followLost => Sys2Proof.Machine.execFollowLost s
  | .followCoastEnd => Sys2Proof.Machine.execFollowCoastEnd s
  | .timeIncWrite hi => Sys2Proof.Machine.execTimeIncWrite hi s
  | .timeSlewStart ticks => Sys2Proof.Machine.execTimeSlewStart ticks s
  | .timeSlewEnd => Sys2Proof.Machine.execTimeSlewEnd s
  | .timeStep hi => Sys2Proof.Machine.execTimeStep hi s
  | .timeBaseCommit cnt => Sys2Proof.Machine.execTimeBaseCommit cnt s
  | .baseStale => Sys2Proof.Machine.execBaseStale s
  | .comparatorArm unit ctl => Sys2Proof.Machine.execComparatorArm unit ctl s
  | .comparatorFire unit => Sys2Proof.Machine.execComparatorFire unit s
  | .pulseArm gen ctl => Sys2Proof.Machine.execPulseArm gen ctl s
  | .pulseStart gen => Sys2Proof.Machine.execPulseStart gen s
  | .pulseEnd gen => Sys2Proof.Machine.execPulseEnd gen s
  | .pulseStartEvent gen => Sys2Proof.Machine.execPulseStartEvent gen s
  | .pulseStopEvent gen => Sys2Proof.Machine.execPulseStopEvent gen s
  | .timeCapture unit => Sys2Proof.Machine.execTimeCapture unit s
  | .timeCapturePop unit => Sys2Proof.Machine.execTimeCapturePop unit s
  | .ppsInEdge falling => Sys2Proof.Machine.execPpsInEdge falling s
  | .ppsOutSecond => Sys2Proof.Machine.execPpsOutSecond s
  | .ppsOutWidthEnd => Sys2Proof.Machine.execPpsOutWidthEnd s
  | .macFrameRx port frame fcsGood measured fecCorrected fecUncorrected => Sys2Proof.Machine.execMacFrameRx port frame fcsGood measured fecCorrected fecUncorrected s
  | .ethLinkDown port => Sys2Proof.Machine.execEthLinkDown port s
  | .macTsPop port => Sys2Proof.Machine.execMacTsPop port s
  | .templateValid template ctl => Sys2Proof.Machine.execTemplateValid template ctl s
  | .streamDatagramTx stream => Sys2Proof.Machine.execStreamDatagramTx stream s
  | .streamFlushTimeout stream => Sys2Proof.Machine.execStreamFlushTimeout stream s
  | .creditDatagramTx port => Sys2Proof.Machine.execCreditDatagramTx port s
  | .lineStartRx port sensor depth tag => Sys2Proof.Machine.execLineStartRx port sensor depth tag s
  | .lineEndRx port sensor crc tagByte => Sys2Proof.Machine.execLineEndRx port sensor crc tagByte s
  | .lineTimeout port sensor tag => Sys2Proof.Machine.execLineTimeout port sensor tag s
  | .frameStartRx port sensor tag => Sys2Proof.Machine.execFrameStartRx port sensor tag s
  | .frameEndRx port sensor tag => Sys2Proof.Machine.execFrameEndRx port sensor tag s
  | .camCtrlGo port value => Sys2Proof.Machine.execCamCtrlGo port value s
  | .camAckRx port sensor write ctag result data => Sys2Proof.Machine.execCamAckRx port sensor write ctag result data s
  | .camCtrlTimeout port => Sys2Proof.Machine.execCamCtrlTimeout port s
  | .camStatusRx port sensor ready alert seq code => Sys2Proof.Machine.execCamStatusRx port sensor ready alert seq code s
  | .camSilent port sensor => Sys2Proof.Machine.execCamSilent port sensor s
  | .rateMeasure port => Sys2Proof.Machine.execRateMeasure port s
  | .calLine channel upset => Sys2Proof.Machine.execCalLine channel upset s
  | .calCommit channel => Sys2Proof.Machine.execCalCommit channel s
  | .calDiscard channel => Sys2Proof.Machine.execCalDiscard channel s
  | .calBankCopyDone channel => Sys2Proof.Machine.execCalBankCopyDone channel s
  | .ridgePortLineArrive port => Sys2Proof.Machine.execRidgePortLineArrive port s
  | .memPathBurst ridge => Sys2Proof.Machine.execMemPathBurst ridge s
  | .ridgeLineBoundary ridge mismatch => Sys2Proof.Machine.execRidgeLineBoundary ridge mismatch s
  | .rotationStepStart ridge => Sys2Proof.Machine.execRotationStepStart ridge s
  | .rotNow ridge => Sys2Proof.Machine.execRotNow ridge s
  | .rotationEvent ridge gen => Sys2Proof.Machine.execRotationEvent ridge gen s
  | .spurCopyDone ridge => Sys2Proof.Machine.execSpurCopyDone ridge s
  | .spurIsolated ridge => Sys2Proof.Machine.execSpurIsolated ridge s
  | .spurSliceDone ridge limitsHeld signature => Sys2Proof.Machine.execSpurSliceDone ridge limitsHeld signature s
  | .sliceBudgetExpiry ridge => Sys2Proof.Machine.execSliceBudgetExpiry ridge s
  | .spurReinitDone ridge verified => Sys2Proof.Machine.execSpurReinitDone ridge verified s
  | .couchIntake ridge => Sys2Proof.Machine.execCouchIntake ridge s
  | .seamWaitTimeout port seq => Sys2Proof.Machine.execSeamWaitTimeout port seq s
  | .classifyDone => Sys2Proof.Machine.execClassifyDone s
  | .markerFireSeen unit => Sys2Proof.Machine.execMarkerFireSeen unit s
  | .statsBlock channel => Sys2Proof.Machine.execStatsBlock channel s
  | .statsArm group => Sys2Proof.Machine.execStatsArm group s
  | .layoutSubmit tag => Sys2Proof.Machine.execLayoutSubmit tag s
  | .layoutStagedEnqueue => Sys2Proof.Machine.execLayoutStagedEnqueue s
  | .layoutJobStart => Sys2Proof.Machine.execLayoutJobStart s
  | .layoutDecryptStart => Sys2Proof.Machine.execLayoutDecryptStart s
  | .layoutJobVerified => Sys2Proof.Machine.execLayoutJobVerified s
  | .layoutResultPop => Sys2Proof.Machine.execLayoutResultPop s
  | .stripeReset => Sys2Proof.Machine.execStripeReset s
  | .mouldBandStart => Sys2Proof.Machine.execMouldBandStart s
  | .mouldBandDone => Sys2Proof.Machine.execMouldBandDone s
  | .wmBandCheck band => Sys2Proof.Machine.execWmBandCheck band s
  | .wmReleaseStart band => Sys2Proof.Machine.execWmReleaseStart band s
  | .wmBandReleased band => Sys2Proof.Machine.execWmBandReleased band s
  | .wmBandDeadline band => Sys2Proof.Machine.execWmBandDeadline band s
  | .laidArm => Sys2Proof.Machine.execLaidArm s
  | .laidArmEvent gen => Sys2Proof.Machine.execLaidArmEvent gen s
  | .laidDisarm => Sys2Proof.Machine.execLaidDisarm s
  | .laidShotTick corrected failed crcBad => Sys2Proof.Machine.execLaidShotTick corrected failed crcBad s
  | .warnArrive => Sys2Proof.Machine.execWarnArrive s
  | .critArrive => Sys2Proof.Machine.execCritArrive s
  | .interlock gen => Sys2Proof.Machine.execInterlock gen s
  | .drvStatusRx channel seq flags temp line => Sys2Proof.Machine.execDrvStatusRx channel seq flags temp line s
  | .drvStatusTimeout channel => Sys2Proof.Machine.execDrvStatusTimeout channel s
  | .screeDctlGo value => Sys2Proof.Machine.execScreeDctlGo value s
  | .drvCtrlSend => Sys2Proof.Machine.execDrvCtrlSend s
  | .drvAckRx channel => Sys2Proof.Machine.execDrvAckRx channel s
  | .drvCtrlTimeout channel start => Sys2Proof.Machine.execDrvCtrlTimeout channel start s
  | .measCycleStart => Sys2Proof.Machine.execMeasCycleStart s
  | .measNow => Sys2Proof.Machine.execMeasNow s
  | .measEvent gen => Sys2Proof.Machine.execMeasEvent gen s
  | .measDeferExpiry channel => Sys2Proof.Machine.execMeasDeferExpiry channel s
  | .idleMeasRx channel => Sys2Proof.Machine.execIdleMeasRx channel s
  | .measCycleComplete => Sys2Proof.Machine.execMeasCycleComplete s
  | .measTimeout => Sys2Proof.Machine.execMeasTimeout s
  | .tableRebuildDone => Sys2Proof.Machine.execTableRebuildDone s
  | .screeCommit => Sys2Proof.Machine.execScreeCommit s
  | .screeCommitEvent => Sys2Proof.Machine.execScreeCommitEvent s
  | .screeCopyDone => Sys2Proof.Machine.execScreeCopyDone s
  | .screeWarnClear => Sys2Proof.Machine.execScreeWarnClear s
  | .critClear => Sys2Proof.Machine.execCritClear s
  | .reamJobStart engine => Sys2Proof.Machine.execReamJobStart engine s
  | .reamRingTail engine tail => Sys2Proof.Machine.execReamRingTail engine tail s
  | .reamRingSize engine size => Sys2Proof.Machine.execReamRingSize engine size s
  | .reamHostOverdue engine => Sys2Proof.Machine.execReamHostOverdue engine s
  | .reamHoldRelease engine gen => Sys2Proof.Machine.execReamHoldRelease engine gen s
  | .reamJobDone engine echoDiff => Sys2Proof.Machine.execReamJobDone engine echoDiff s
  | .hbmRequest port addr write data len => Sys2Proof.Machine.execHbmRequest port addr write data len s
  | .hbmResponse pc outcome => Sys2Proof.Machine.execHbmResponse pc outcome s
  | .hbmParityAlert pc kind => Sys2Proof.Machine.execHbmParityAlert pc kind s
  | .hbmScrubRow pc found => Sys2Proof.Machine.execHbmScrubRow pc found s
  | .scrubDeferExpiry pc => Sys2Proof.Machine.execScrubDeferExpiry pc s
  | .hbmTempRead stack0 stack1 => Sys2Proof.Machine.execHbmTempRead stack0 stack1 s
  | .hbmRefresh pc bank => Sys2Proof.Machine.execHbmRefresh pc bank s
  | .srIdleExpiry pc => Sys2Proof.Machine.execSrIdleExpiry pc s
  | .srExitDone pc => Sys2Proof.Machine.execSrExitDone pc s
  | .srExitTimeout pc => Sys2Proof.Machine.execSrExitTimeout pc s
  | .bar2Access offset write data len => Sys2Proof.Machine.execBar2Access offset write data len s
  | .hbmSetSpeed cmd speed => Sys2Proof.Machine.execHbmSetSpeed cmd speed s
  | .hbmRetrain cmd => Sys2Proof.Machine.execHbmRetrain cmd s
  | .hbmSetPolicy cmd policy idleUs => Sys2Proof.Machine.execHbmSetPolicy cmd policy idleUs s
  | .hostCmdTail tail => Sys2Proof.Machine.execHostCmdTail tail s
  | .cmdEnSet => Sys2Proof.Machine.execCmdEnSet s
  | .cmdFetch => Sys2Proof.Machine.execCmdFetch s
  | .nop cmd => Sys2Proof.Machine.execNop cmd s
  | .cmdComplete cmd => Sys2Proof.Machine.execCmdComplete cmd s
  | .cmdLimitTimeout cmd => Sys2Proof.Machine.execCmdLimitTimeout cmd s
  | .ringEnable ring => Sys2Proof.Machine.execRingEnable ring s
  | .ringConsWrite ring cons => Sys2Proof.Machine.execRingConsWrite ring cons s
  | .ringEntryWrite ring => Sys2Proof.Machine.execRingEntryWrite ring s
  | .ringModTimeout vector => Sys2Proof.Machine.execRingModTimeout vector s
  | .hostTxTail tail => Sys2Proof.Machine.execHostTxTail tail s
  | .txFrameSend measured => Sys2Proof.Machine.execTxFrameSend measured s
  | .digestSnap => Sys2Proof.Machine.execDigestSnap s
  | .digestDone => Sys2Proof.Machine.execDigestDone s
  | .dmaStart ch => Sys2Proof.Machine.execDmaStart ch s
  | .dmaStartEvent ch gen => Sys2Proof.Machine.execDmaStartEvent ch gen s
  | .dmaAbort ch => Sys2Proof.Machine.execDmaAbort ch s
  | .dmaDescFetch ch data => Sys2Proof.Machine.execDmaDescFetch ch data s
  | .dmaDescComplete ch => Sys2Proof.Machine.execDmaDescComplete ch s
  | .dmaBusError ch => Sys2Proof.Machine.execDmaBusError ch s
  | .d3hotEntry => Sys2Proof.Machine.execD3hotEntry s
  | .cairnEvent events => Sys2Proof.Machine.execCairnEvent events s
  | .cairnOverrunReport consumer isl => Sys2Proof.Machine.execCairnOverrunReport consumer isl s
  | .cairnEnableWrite domain secure column word value => Sys2Proof.Machine.execCairnEnableWrite domain secure column word value s
  | .cairnIrqConsumer consumer => Sys2Proof.Machine.execCairnIrqConsumer consumer s
  | .evioInputEdge pin level => Sys2Proof.Machine.execEvioInputEdge pin level s
  | .evioOutActivate pin => Sys2Proof.Machine.execEvioOutActivate pin s
  | .evioPulseEnd pin => Sys2Proof.Machine.execEvioPulseEnd pin s
  | .testLogic cmd island patterns slices budget clears => Sys2Proof.Machine.execTestLogic cmd island patterns slices budget clears s
  | .testMemory cmd island clears fails badSpares => Sys2Proof.Machine.execTestMemory cmd island clears fails badSpares s
  | .testHbm cmd fails => Sys2Proof.Machine.execTestHbm cmd fails s
  | .calibrate cmd results => Sys2Proof.Machine.execCalibrate cmd results s
  | .calSet cmd seconds => Sys2Proof.Machine.execCalSet cmd seconds s
  | .thermSet cmd alertC hyst => Sys2Proof.Machine.execThermSet cmd alertC hyst s
  | .testLogClear cmd => Sys2Proof.Machine.execTestLogClear cmd s
  | .logicSliceDone island limitsGood signature => Sys2Proof.Machine.execLogicSliceDone island limitsGood signature s
  | .logicSliceBudget island signature => Sys2Proof.Machine.execLogicSliceBudget island signature s
  | .jtagInstruction scan clears07 clears88 => Sys2Proof.Machine.execJtagInstruction scan clears07 clears88 s
  | .recalTimer results => Sys2Proof.Machine.execRecalTimer results s
  | .recalDeferExpiry results => Sys2Proof.Machine.execRecalDeferExpiry results s
  | .thermalSample temps => Sys2Proof.Machine.execThermalSample temps s
  | .supplySample vinMv power => Sys2Proof.Machine.execSupplySample vinMv power s
  | .updateBegin cmd addr len => Sys2Proof.Machine.execUpdateBegin cmd addr len s
  | .updateStatus cmd => Sys2Proof.Machine.execUpdateStatus cmd s
  | .updateData cmd offset data => Sys2Proof.Machine.execUpdateData cmd offset data s
  | .updateAbort cmd => Sys2Proof.Machine.execUpdateAbort cmd s
  | .updateActivate cmd => Sys2Proof.Machine.execUpdateActivate cmd s
  | .updateStaged flashError misread => Sys2Proof.Machine.execUpdateStaged flashError misread s
  | .updateDataTimeout => Sys2Proof.Machine.execUpdateDataTimeout s
  | .updateStageTimeout => Sys2Proof.Machine.execUpdateStageTimeout s
  | .activationDone => Sys2Proof.Machine.execActivationDone s
  | .keyLoad cmd addr => Sys2Proof.Machine.execKeyLoad cmd addr s
  | .keyStatus cmd => Sys2Proof.Machine.execKeyStatus cmd s
  | .attest cmd nonce output which => Sys2Proof.Machine.execAttest cmd nonce output which s
  | .fuseSet cmd id arg authSlot sig => Sys2Proof.Machine.execFuseSet cmd id arg authSlot sig s
  | .mgmtHello cmd slot => Sys2Proof.Machine.execMgmtHello cmd slot s
  | .cairnSecure cmd column word value => Sys2Proof.Machine.execCairnSecure cmd column word value s
  | .keyslotRestore failed => Sys2Proof.Machine.execKeyslotRestore failed s
  | .smbusStatusRead port => Sys2Proof.Machine.execSmbusStatusRead port s
  | .smbusPowerRead port => Sys2Proof.Machine.execSmbusPowerRead port s
  | .smbusReset port => Sys2Proof.Machine.execSmbusReset port s
  | .eventLogEntry => Sys2Proof.Machine.execEventLogEntry s
  | .refclkChange quad ok => Sys2Proof.Machine.execRefclkChange quad ok s
  | .prbsCheck lane errors => Sys2Proof.Machine.execPrbsCheck lane errors s
  | .ethLinkUp port => Sys2Proof.Machine.execEthLinkUp port s
  | .pcieLinkUp gen width => Sys2Proof.Machine.execPcieLinkUp gen width s
  | .d0Return => Sys2Proof.Machine.execD0Return s
  | .flrComplete => Sys2Proof.Machine.execFlrComplete s
  | .hbmCommandSlot pc => Sys2Proof.Machine.execHbmCommandSlot pc s
  | .pcieCompletionRx ch data => Sys2Proof.Machine.execPcieCompletionRx ch data s
  | .dmaPiece => Sys2Proof.Machine.execDmaPiece s
  | .dmaPieceDeferExpiry ch => Sys2Proof.Machine.execDmaPieceDeferExpiry ch s
  | .recoveryReady => Sys2Proof.Machine.execRecoveryReady s
  | .deviceReset => Sys2Proof.Machine.execDeviceReset s
  | .intervalOscillatorDrift pc => Sys2Proof.Machine.execIntervalOscillatorDrift pc s

end Sys2Proof.Machine
end

