-- ==== Sys2Proof/Machine/Idle.lean ====
section
/-! DEFINITION. What the passing of 4 ns does by itself: the time unit counts, the Reel advances, trims move. -/

namespace Sys2Proof.Machine

/-- One tick of the time unit (4 ns, R158): the time counter with its comparators' view of time, four Reel edges (R133),
trims under way (R512). While a reset is held nothing but the model's own clock runs. -/
def State.tickAll (s : State) : State :=
  if s.chief.inReset then { s with clock := s.clock + 1 } else s.tick.reelTick4.calTick

end Sys2Proof.Machine
end

