-- ==== Sys2Proof/Safety.lean ====
section
/-! DEFINITION. What a good state and a safe run are, in the terms the statements use. -/

namespace Sys2Proof

/-- A command whose effect may change a byte of HBM: a store, a copy, or a loss of its contents (R430, R91, R53). -/
def Instr.storesHbm : Instr → Bool
  | .calLine _ _ | .stewardAnswer _ _ | .jointTargetTimeout | .agentApplied | .drainCut | .activationDone |
    .reelTick | .reelBacklogRelease | .laidShotTick _ _ _ | .dmaAbort _ | .dmaDescFetch _ _ | .dmaDescComplete _ |
    .dmaBusError _ | .pcieCompletionRx _ _ | .dmaPiece | .dmaPieceDeferExpiry _ | .hbmRequest _ _ _ _ _ |
    .hbmParityAlert _ _ | .bar2Access _ _ _ _ | .attest _ _ _ _ | .reamJobDone _ _ | .registerWrite _ _ _ |
    .ridgePortLineArrive _ | .deviceReset | .watchdogReset | .pinReset | .powerOnReset _ _ | .standbyOff |
    .mainPowerDown | .startupPhaseEnd _ _ _ _ _ _ | .bootTimeout | .parkStepDone _ _ _ _ | .testHbm _ _ => true
  | _ => false

/-- A command whose effect may change a byte of the flash (R516, R523, R532, R64). -/
def Instr.writesFlash : Instr → Bool
  | .setMode _ _ _ | .park _ | .loadImage _ _ _ | .stewardAnswer _ _ | .jointAnswerTimeout | .agentApplied |
    .modeDrainDone | .drainCut | .loadImageDone | .updateActivate _ | .activationDone |
    .startupPhaseEnd _ _ _ _ _ _ | .parkStepDone _ _ _ _ | .updateBegin _ _ _ | .updateData _ _ _ |
    .updateStaged _ _ => true
  | _ => false

/-- A command whose effect may change a key slot (R536 to R538, R53, R504). -/
def Instr.changesKeys : Instr → Bool
  | .keyslotRestore _ | .keyLoad _ _ | .deviceReset | .watchdogReset | .pinReset | .powerOnReset _ _ | .standbyOff |
    .mainPowerDown | .startupPhaseEnd _ _ _ _ _ _ | .bootTimeout | .parkStepDone _ _ _ _ | .jtagInstruction _ _ _ |
    .testLogic _ _ _ _ _ _ | .testMemory _ _ _ _ _ => true
  | _ => false

/-- A command whose effect may blow a fuse (R540). -/
def Instr.blowsFuses : Instr → Bool
  | .fuseSet _ _ _ _ _ => true
  | _ => false

end Sys2Proof

namespace Sys2Proof.Machine

/-- The register file is in its canonical form (R10, R36): addresses strictly rising, no entry equal to its reset
value. -/
def State.regsWf (s : State) : Bool := Sparse.wf resetWord s.regs

/-- HBM is in its canonical form (R429): addresses strictly rising, no entry equal to what an unlisted address reads
as. -/
def State.hbmWf (s : State) : Bool := Sparse.wf hbmUnlisted s.hbm

/-- The flash is in its canonical form (R516). -/
def State.flashWf (s : State) : Bool := Sparse.wf flashErased s.flash

/-- All stores in their canonical form: equal contents are equal data. -/
def State.wf (s : State) : Bool := s.regsWf && s.hbmWf && s.flashWf

/-- A network record stream that can send (R187): enabled, its template valid, its port up. -/
def State.streamReady (s : State) (j : Nat) : Bool :=
  s.flag F.streamCfg_enable j && s.flag F.templateCtl_valid (s.rd F.streamCfg_template j) &&
    s.macUp (s.rd F.streamCfg_egress j)

/-- A rotation step may start on Ridge `k` (R244): enabled, in a run mode, waiting, with a spare, and a target slot
that carries work. -/
def State.stepFree (s : State) (k : Nat) : Bool :=
  s.flag F.ridgeCtl_rotEn k && s.runMode && s.rd F.ridgeRotStat_step k == RotStep.wait &&
    s.rd F.ridgeRotStat_spare k != noSpur && s.slotWorks k (s.rd F.ridgeRotStat_targetSlot k)

/-- ARM arms the Laid (R357): enabled and idle, the origin more than a line ahead of the high-water line, no WARN and no
CRIT, EXPOSE without a stop, and no link lost. -/
def State.armFree (s : State) : Bool :=
  s.flag F.laidCtl_enable && !s.laid.running && !s.laid.armed && decide (floorDiv s.reel.h 8 < s.originShadow - 1) &&
    !s.flag F.screeStat_warn && !s.flag F.screeStat_crit && s.mode == Md.expose && !s.laid.stopping && !s.linkLost

/-- A controller can act on a host command (R456, R458, R533): no FENCE holds it, its TIMEOUT has not passed, and the
device is not in RECOVERY. -/
def State.serves (s : State) (c : CmdRef) : Bool :=
  !s.fenced c && !s.host.timedOut.any (fun t => t.cseq == c.cseq && t.stream == streamOf c) && s.mode != Md.recovery

/-- A report of this command, with this opcode and status, waits for its completion (R457, R458). -/
def State.reported (s : State) (c : CmdRef) (opcode status : Nat) : Bool :=
  s.host.reports.any (fun r => r.cseq == c.cseq && r.stream == streamOf c && r.opcode == opcode && r.status == status)

/-- The command answers a next state, and `P` holds of that state. -/
def answers (c : Instr) (s : State) (P : State → Prop) : Prop := ∃ t, exec c s = .next t ∧ P t

/-- No fuse of the first is unblown in the second (R495, R540). -/
def Fuses.kept (a b : Fuses) : Prop :=
  a.rollback ≤ b.rollback ∧ (a.signedImages = true → b.signedImages = true) ∧
    (a.signedUpdates = true → b.signedUpdates = true) ∧ (a.provisionLock = true → b.provisionLock = true)

end Sys2Proof.Machine
end

