-- ==== Sys2Proof/Certificates/Slice0/Obligations.lean ====
section
/-! DEFINITION. The statements about the block: one proposition each, for the provers. -/

open Sys2Proof Sys2Proof.Machine

/-- The time unit (R159 to R164): the increment is held within 4.0 ± 1/64 ns, a slew runs for its ticks and ends, a step
is added to the counter, a base is committed, and 2³¹ ns later it is stale. -/
def Obligations.TimeUnitKeepsTime : Prop :=
  (∀ (s : State) (hi : Word), answers (.timeIncWrite hi) s (fun t =>
    t.rd64 F.timeIncLo_inc F.timeIncHi_inc =
      clampNat (2 ^ 34 - 2 ^ 26) (2 ^ 34 + 2 ^ 26) (s.pairValue F.timeIncLo_inc 0 hi))) ∧
  (∀ (s : State) (ticks : Word), answers (.timeSlewStart ticks) s (fun t =>
    t.rd F.timeSlewTicks_ticks = ticks.toNat ∧
    t.time.slewDelta = clampInt (-(2 ^ 26)) (2 ^ 26) (signed 32 (s.rd F.timeSlew_slewDelta)) ∧
    (t.flag F.timeStat_slewing = true ↔ ticks.toNat ≠ 0))) ∧
  (∀ s : State, answers .timeSlewEnd s (fun t =>
    t.rd F.timeSlewTicks_ticks = 0 ∧ t.flag F.timeStat_slewing = false)) ∧
  (∀ (s : State) (hi : Word), answers (.timeStep hi) s (fun t =>
    (t.counter : Int) = ((s.counter : Int) + signed 64 (s.pairValue F.timeStepLo_step 0 hi)) % 2 ^ 64 ∧
    t.flag F.timeStat_stepped = true)) ∧
  (∀ (s : State) (cnt : Word), s.rd F.timeBaseNsec_value < 10 ^ 9 →
    answers (.timeBaseCommit cnt) s (fun t =>
      t.time.baseSec = s.rd F.timeBaseSecLo_value + s.rd F.timeBaseSecHi_value * 2 ^ 32 ∧
      t.time.baseNsec = s.rd F.timeBaseNsec_value ∧ t.time.baseCnt = cnt.toNat)) ∧
  (∀ s : State, 2 ^ 31 ≤ s.sinceBase → answers .baseStale s (fun t =>
    t.flag F.timeStat_baseStale = true))

/-- Comparators and time captures (R175, R176, R180): a held comparator arms; an armed one whose target the counter has
reached counts a firing, raises producer 90 + i and, unless periodic, disarms; a capture enters the counter behind the
waiting entries, and a pop takes the head. -/
def Obligations.ComparatorsFireAndCapturesTake : Prop :=
  (∀ (s : State) (u : Fin 16) (ctl : Word), s.hostHolds (Res.timecmp + u) = true →
    F.compCtl_enable.ofWord ctl = 1 → answers (.comparatorArm u ctl) s (fun t =>
      t.flag F.compStat_armed u = true ∧ t.flag F.compCtl_enable u = true)) ∧
  (∀ (s : State) (u : Fin 16), s.flag F.compStat_armed u = true →
    reached s.counter (s.compTarget u) = true → s.flag F.compCtl_periodic u = false →
    answers (.comparatorFire u) s (fun t =>
      t.rd F.compStat_fires u = satAdd 16 (s.rd F.compStat_fires u) 1 ∧
      t.flag F.compStat_armed u = false ∧ t.flag F.compCtl_enable u = false ∧
      Output.cairn (90 + u) 0 0x82 ∈ t.out)) ∧
  (∀ (s : State) (u : Fin 4), s.flag F.tcapCtl_enable u = true → (s.tcaps u).length < 4 →
    answers (.timeCapture u) s (fun t => t.tcaps u = s.tcaps u ++ [s.counter])) ∧
  (∀ (s : State) (u : Fin 4), answers (.timeCapturePop u) s (fun t => t.tcaps u = (s.tcaps u).tail))

/-- Pulse generators (R178, R179): a held generator arms at its start time; a pulse starts when the counter has reached
it, and ends; with SRC = 1 an event starts it; a stop event ends the run after the current pulse. -/
def Obligations.PulsesStartAndStop : Prop :=
  (∀ (s : State) (g : Fin 4) (ctl : Word), s.hostHolds (Res.pulse + g) = true → F.pulseCtl_enable.ofWord ctl = 1 →
    answers (.pulseArm g ctl) s (fun t => t.flag F.pulseCtl_enable g = true ∧ (t.gen g).armed = true)) ∧
  (∀ (s : State) (g : Fin 4) (start : Nat), (s.gen g).next = some start → (s.gen g).armed = true →
    (s.gen g).active = false → reached s.counter start = true →
    answers (.pulseStart g) s (fun t => (t.gen g).active = true ∧ (t.gen g).made = (s.gen g).made + 1)) ∧
  (∀ (s : State) (g : Fin 4), (s.gen g).active = true → s.flag F.pulseCtl_periodic g = false →
    answers (.pulseEnd g) s (fun t => (t.gen g).active = false ∧ t.flag F.pulseStat_running g = false)) ∧
  (∀ (s : State) (g : Fin 4), s.flag F.pulseStat_running g = false → (s.gen g).armed = true →
    s.flag F.pulseCtl_src g = true →
    answers (.pulseStartEvent g) s (fun t => (t.gen g).active = true ∧ (t.gen g).next = some s.counter)) ∧
  (∀ (s : State) (g : Fin 4), s.flag F.pulseStat_running g = true → (s.gen g).active = true →
    answers (.pulseStopEvent g) s (fun t => (t.gen g).stop = true ∧ (t.gen g).active = true))

/-- The time unit's pins and stamp FIFOs (R172, R181, R182, R185): an accepted edge of PPS_IN is stamped with the
counter; PPS_OUT rises at a whole second and falls after its width; a popped stamp leaves its FIFO; a template whose
fields pass the check becomes valid. -/
def Obligations.PpsStampsAndTemplates : Prop :=
  (∀ (s : State) (falling : Bool), (s.pinFn 2 0).func = 0x01 → s.flag F.timePpsCtl_inEdge = falling →
    s.time.ppsEdge = none → answers (.ppsInEdge falling) s (fun t =>
      t.rd64 F.timePpsInLo_stamp F.timePpsInHi_stamp = s.counter ∧ t.flag F.timeStat_ppsInSeen = true)) ∧
  (∀ s : State, (s.pinFn 2 1).func = 0x01 → s.rd F.timePpsCtl_outSrc = 1 → s.flag F.timeStat_baseStale = false →
    answers .ppsOutSecond s (fun t => t.time.ppsHigh = true)) ∧
  (∀ s : State, answers .ppsOutWidthEnd s (fun t => t.time.ppsHigh = false)) ∧
  (∀ (s : State) (e : Fin 16), answers (.macTsPop e) s (fun t => t.stamps e = (s.stamps e).tail)) ∧
  (∀ (s : State) (i : Fin 16) (ctl : Word), F.templateCtl_valid.ofWord ctl = 1 →
    templateGood (F.templateCtl_hdrLen.ofWord ctl) (s.templateBytes i) = true →
    answers (.templateValid i ctl) s (fun t => t.flag F.templateCtl_valid i = true))

/-- Cairn (R481, R483, R488, R489): an event of generation below 8 activates every assigned consumer enabled for its
producer; an overrun report sets OVR_ANY and is shown; a writer whose domain and attribute are the column's writes a
word of it; a Cairn consumer of the interrupt block signals its vector, or its pending bit shows it. -/
def Obligations.CairnRoutes : Prop :=
  (∀ (s : State) (e : CairnEvt) (c : Nat), e.gen.val < 8 → c < 160 → consumerAssigned c = true →
    s.cairnEnabled e.producer c = true →
    answers (.cairnEvent [e]) s (fun t => Output.activation c e.gen e.isl.toNat ∈ t.out)) ∧
  (∀ (s : State) (c : Fin 160) (isl : BitVec 8), answers (.cairnOverrunReport c isl) s (fun t =>
    t.flag F.cairnStat_ovrAny = true ∧ t.rd F.cairnOvrLast_consumer = c ∧ t.rd F.cairnOvrLast_isl = isl.toNat ∧
    bit (t.rd (F.cairnOvr_ovr (c / 32))) (c % 32) = true)) ∧
  (∀ (s : State) (d : Fin 16) (secure : Bool) (c : Fin 160) (w : Fin 8) (v : Word), w.val < 7 → d.val ≠ 0 →
    s.rd F.cairnMatrix_word (8 * c + 7) % 16 = d → bit (s.rd F.cairnMatrix_word (8 * c + 7)) 4 = secure →
    answers (.cairnEnableWrite d secure c w v) s (fun t => t.rd F.cairnMatrix_word (8 * c + w) = v.toNat)) ∧
  (∀ (s : State) (i : Fin 8), s.msix (40 + i) 3 % 2 = 1 →
    answers (.cairnIrqConsumer ⟨144 + i, by omega⟩) s (fun t =>
      bit (t.rd F.msixPba_pending 1) (8 + i) = true))

/-- EVIO pins and the event log (R493, R494, R545): a filtered edge of an input pin shows its level, and a rising edge
with EDGE = 0 raises producer 192 + i; an activated output pin of MODE 0 starts a pulse, which goes idle at its end; the
oldest entry of the log's queue takes the next sequence number. -/
def Obligations.EvioPinsAndEventLog : Prop :=
  (∀ (s : State) (p : Fin 32), (s.evioFn p).func = 0x01 → s.flag F.cairnEvioIn_level p = false →
    s.rd F.cairnEvioIn_edge p = 0 → answers (.evioInputEdge p true) s (fun t =>
      t.flag F.cairnEvioIn_level p = true ∧ Output.cairn (192 + p) 0 0x05 ∈ t.out)) ∧
  (∀ (s : State) (p : Fin 32), (s.evioFn p).func = 0x02 → s.evioActs = true → s.flag F.cairnEvioOut_busy p = false →
    s.rd F.cairnEvioOut_mode p = 0 → answers (.evioOutActivate p) s (fun t =>
      t.flag F.cairnEvioOut_busy p = true ∧ t.flag F.cairnEvioOut_level p = true)) ∧
  (∀ (s : State) (p : Fin 32), s.flag F.cairnEvioOut_busy p = true → answers (.evioPulseEnd p) s (fun t =>
    t.flag F.cairnEvioOut_busy p = false ∧ t.flag F.cairnEvioOut_level p = false)) ∧
  (∀ (s : State) (e : LogEntry) (rest : List LogEntry), s.logQueue = e :: rest → answers .eventLogEntry s (fun t =>
    t.logQueue = rest ∧ t.rd F.chiefLogNext_logSeq = (s.rd F.chiefLogNext_logSeq + 1) % 2 ^ 32))

/-- Position axes (R121, R122, R127, R129, R130): a forward step of (A, B) counts one up; ARM with INDEX_MODE 2 shows
ARMED; a serial frame latches at its start, and a good first frame sets the position it holds. -/
def Obligations.AxesCountAndRead : Prop :=
  (∀ (s : State) (a : Fin 8) (levels : BitVec 6), s.axisMode a = 1 → (s.axis a).seeded = true →
    s.flag F.posCtl_reverse a = false → s.flag F.posCtl_indexGate a = false → levels.toNat / 4 % 2 = 0 →
    quadPhase (levels.toNat % 4) = (quadPhase (s.rd F.posStat_pins a % 4) + 1) % 4 →
    answers (.axisFilteredChange a levels) s (fun t =>
      t.rd F.posCount_value a = unsigned 32 (signed 32 (s.rd F.posCount_value a) + 1) ∧
      t.rd F.posStat_pins a = levels.toNat)) ∧
  (∀ (s : State) (a : Fin 8), s.rd F.posCtl_indexMode a = 2 → answers (.axisArm a) s (fun t =>
    t.flag F.posStat_armed a = true)) ∧
  (∀ (s : State) (a : Fin 8), s.axisMode a = 3 → answers (.serialFrameStart a) s (fun t =>
    (t.axis a).latch = some (s.nowNs + s.rd F.posSerTiming_latch a))) ∧
  (∀ (s : State) (a : Fin 8) (frame : BitVec 55) (at_ : Nat), s.axisMode a = 3 → (s.axis a).latch = some at_ →
    (s.axis a).serLast = none → s.flag F.posSerCtl_crcEn a = false → s.flag F.posSerCtl_gray a = false →
    bit frame.toNat (s.serBits a) = true → answers (.serialFrameDone a false frame) s (fun t =>
      (t.axis a).serLast = some (bits frame.toNat 0 (s.serBits a)) ∧ (t.axis a).serTime = at_))

/-- The Reel (R133, R134, R138 to R140, R142, R143): a measurement moves M; without one V is 0; a boundary crossed in
EXPOSE gives the Laid its shot, at once or from the backlog; FORWARD, POS_SET and ADJUST take effect. -/
def Obligations.ReelTracks : Prop :=
  (∀ (s : State) (q : Meas) (rest : List Meas), s.reel.inbox = q :: rest → answers .reelMeasurement s (fun t =>
    t.reel.inbox = rest ∧ t.reel.m = (if q.absolute then q.m else s.reel.m + q.m) ∧ t.reel.last = some q.time)) ∧
  (∀ s : State, s.flag F.reelStat_step = false → answers .reelStopTimeout s (fun t =>
    t.reel.v = 0 ∧ t.flag F.reelStat_step = true)) ∧
  (∀ s : State, s.reel.h + 1 ≤ Int.fdiv (s.toU s.reel.t) (s.pitch * stampUnit) → s.reel.stop = none →
    s.reel.backlog = [] → s.tickFree = true → s.chief.joint = none → s.chief.path = Md.expose →
    s.exposeImage = true → Int.fmod (s.reel.h + 1) 8 ≠ 0 → answers .reelTick s (fun t =>
      t.reel.h = s.reel.h + 1 ∧ t.laid.inbox = s.laid.inbox ++
        [ShotTick.mk (Int.fdiv (s.reel.h + 1) 8) (Int.fmod (s.reel.h + 1) 8).toNat false false s.counter])) ∧
  (∀ (s : State) (k : Tick), s.tickFree = true → s.reel.backlog = [k] → k.skip = false → s.chief.joint = none →
    s.chief.complete = none → s.chief.path = Md.expose → s.exposeImage = true → Int.fmod k.boundary 8 ≠ 0 →
    answers .reelBacklogRelease s (fun t => t.reel.backlog = [] ∧ t.laid.inbox = s.laid.inbox ++
      [ShotTick.mk (Int.fdiv k.boundary 8) (Int.fmod k.boundary 8).toNat
        (decide (s.reel.minPeriod < 4 * (s.nowNs - k.due))) false s.counter])) ∧
  (∀ (s : State) (forward : Bool), s.cmMode = true → answers (.reelForwardWrite forward) s (fun t =>
    t.flag F.reelTrackCtl_forward = forward)) ∧
  (∀ (s : State) (hi : Word), s.cmMode = true → answers (.reelPosSet hi) s (fun t =>
    t.reel.t = signed 64 (s.pairValue F.reelPosSetLo_value 0 hi) * stampUnit ∧ t.reel.m = t.reel.t)) ∧
  (∀ (s : State) (d : Word), answers (.reelAdjust d) s (fun t =>
    t.reel.adjust = clampInt (-(2147483647 * stampUnit)) (2147483647 * stampUnit) (s.reel.adjust + d.toInt * stampUnit)))

/-- The Reel's captures and schedulers (R145 to R147): a capture enters stamp, time and count behind the waiting
entries; an armed scheduler whose target u has reached fires, raises producer 82 + i and, unless periodic, disarms; an
arm event arms it. -/
def Obligations.SchedulersFire : Prop :=
  (∀ (s : State) (k : Fin 8), s.flag F.rcapCtl_enable k = true → (s.caps k).length < 4 →
    answers (.reelCapture k) s (fun t => t.caps k = s.caps k ++
      [CapEntry.mk s.stamp s.ns (s.rd F.posCount_value (s.rd F.rcapCtl_axis k))])) ∧
  (∀ (s : State) (k : Fin 8), answers (.reelCapturePop k) s (fun t => t.caps k = (s.caps k).tail)) ∧
  (∀ (s : State) (i : Fin 8) (ctl : Word), F.schedCtl_enable.ofWord ctl = 1 → answers (.schedEnable i ctl) s (fun t =>
    t.flag F.schedStat_armed i = true ∧ t.flag F.schedCtl_enable i = true)) ∧
  (∀ (s : State) (i : Fin 8), s.flag F.schedStat_armed i = true → s.schedTarget i * stampUnit ≤ s.reel.w →
    s.flag F.schedCtl_periodic i = false → answers (.schedFire i) s (fun t =>
      t.rd F.schedStat_fires i = satAdd 16 (s.rd F.schedStat_fires i) 1 ∧ t.flag F.schedStat_armed i = false ∧
      Output.cairn (82 + i) (min (s.sched i).gen 8) 0x80 ∈ t.out)) ∧
  (∀ (s : State) (i : Fin 8) (gen : Fin 8), s.flag F.schedStat_armed i = false →
    answers (.schedArmEvent i gen) s (fun t =>
      t.flag F.schedStat_armed i = true ∧ (t.sched i).gen = gen.val + 1))

/-- Lock step (R148, R151 to R154): a leader with credit sends the next sample of its lane's stream; a follower takes a
valid sample; without one for TIMEOUT periods it coasts, and in the end stands in STEP with V = 0. -/
def Obligations.FollowersFollow : Prop :=
  (∀ (s : State) (l : Fin 8) (n : Nat), s.rd F.reelFollowCtl_role = 1 →
    bit (s.rd F.reelFollowCtl_txLanes) l = true → s.syncLane l = some n → s.flag F.laneStat_bondUp n = true →
    s.creditLeft (192 + 8 * l + s.syncChannel) ≠ 0 → answers (.syncSampleTx l) s (fun t =>
      Sparse.get (fun _ => 0) t.reel.txSeq (192 + 8 * l + s.syncChannel) =
        (Sparse.get (fun _ => 0) s.reel.txSeq (192 + 8 * l + s.syncChannel) + 1) % 65536)) ∧
  (∀ (s : State) (l : Fin 8) (n : Nat) (sample d1 d2 arrival : BitVec 64), s.syncLane l = some n →
    crc16 (leBytes 5 (sample.toNat / 256) ++ leBytes 8 d1.toNat ++ leBytes 6 d2.toNat) = d2.toNat / 2 ^ 48 →
    s.rd F.reelFollowCtl_leaderId = 0 → bits sample.toNat 14 2 = 0 → bits sample.toNat 34 6 = 0 →
    (s.takeSeq (192 + 8 * l + bits sample.toNat 8 3) 16 (bits sample.toNat 16 16) (some n)).2 = true →
    bits sample.toNat 32 2 < 2 → s.rd F.reelFollowCtl_role = 2 → s.rd F.reelTrackCtl_src = 8 →
    s.rd F.reelFollowCtl_rxLane = l → answers (.syncSampleRx l sample d1 d2 arrival) s (fun t =>
      t.reel.followed = true ∧ t.reel.coast = none ∧ t.reel.m = signed 64 d1.toNat * stampUnit)) ∧
  (∀ s : State, s.rd F.reelFollowCtl_role = 2 → s.flag F.reelStat_coasting = false → answers .followLost s (fun t =>
    t.flag F.reelStat_followLost = true ∧ t.flag F.reelStat_coasting = true ∧ t.reel.coast = some s.nowNs)) ∧
  (∀ s : State, s.flag F.reelStat_coasting = true → answers .followCoastEnd s (fun t =>
    t.flag F.reelStat_coasting = false ∧ t.flag F.reelStat_step = true ∧ t.reel.v = 0))

/-- BAR0 (R10 to R14, R20, R32, R38): a write that is barred changes no register but the three of the access fault; the
host's write of CHIEF_ISL_SEL sets it; a read answers the word shown, and a LO read latches the HI word; an access ended
by its time limit is shown and, for a read, answered 0; the classifier's agent takes the words of its mailbox. -/
def Obligations.Bar0Accesses : Prop :=
  (∀ (s : State) (a : BitVec 26) (n : BitVec 8) (v : Word) (cause x : Nat), s.writeBarred a.toNat n.toNat = some cause →
    x ∉ [0x420, 0x424, 0x428, F.chiefLogLost_count.addr 0, F.msixPba_pending.addr 0] →
    answers (.registerWrite a n v) s (fun t => t.reg x = s.reg x ∧ t.rd F.chiefAccessFault_cause = cause % 16)) ∧
  (∀ (s : State) (v : Word), s.writeBarred 0x400 4 = none → answers (.registerWrite 0x400 4 v) s (fun t =>
    t.rd F.chiefIslSel_isl = v.toNat % 256)) ∧
  (∀ (s : State) (a : BitVec 26), s.readBarred a.toNat 4 = none → s.latches.lookup a.toNat = none →
    s.chief.tristate = false → answers (.rcRead a 4) s (fun t =>
      t.out = s.out ++ [.busAnswer (leBytes 4 (s.shown a.toNat).toNat) false])) ∧
  (∀ (s : State) (a : BitVec 26), s.readBarred a.toNat 4 = none →
    (findReg a.toNat regBlocks).any (fun x => x.2.2.pair == .roLo) = true → answers (.pairLoRead a) s (fun t =>
      Sparse.get (fun _ => 0) t.latches (a.toNat + 4) = s.shown (a.toNat + 4))) ∧
  (∀ (s : State) (a : BitVec 26), s.chief.tristate = false → answers (.accessTimeout a false) s (fun t =>
    t.rd F.chiefAccessAddr_addr = a.toNat ∧ t.rd F.chiefAccessFault_cause = Af.accessTimeout ∧
    Output.busAnswer (zeros 4) false ∈ t.out)) ∧
  (∀ (s : State) (a : Nat) (v : Word), s.mailOf 0x78 = [(a, v)] → a ≠ F.couchForestCtl_trees.addr 0 →
    answers (.mailboxApply 0x78) s (fun t => t.reg a = v ∧ t.mailOf 0x78 = []))

/-- Locking (R96, R99, R102, R103): 64 valid headers in a row end BLOCK_HUNT and an invalid one starts the count anew; a
recovered clock ends CDR_ACQ, a lost one or RELOCK returns to it, and 20 ms without lock set ACQ_RETRY; a reference that
comes back starts its quad's lanes; an ALIGN carries the next AM_COUNT. -/
def Obligations.LanesLock : Prop :=
  (∀ (s : State) (n : Fin 64) (h : BitVec 2) (p m : BitVec 64), uhlusRole (s.laneRole n) = true →
    s.laneState n = Ls.blockHunt → (s.lane n).good = 63 → (h = 1 ∨ h = 2) →
    answers (.laneBlockRx n h p m) s (fun t => t.laneState n = Ls.blockLock ∧ (t.lane n).good = 0)) ∧
  (∀ (s : State) (n : Fin 64) (h : BitVec 2) (p m : BitVec 64), uhlusRole (s.laneRole n) = true →
    s.laneState n = Ls.blockHunt → (h = 0 ∨ h = 3) →
    answers (.laneBlockRx n h p m) s (fun t => t.laneState n = Ls.blockHunt ∧ (t.lane n).good = 0)) ∧
  (∀ (s : State) (n : Fin 64) (ctle : BitVec 4) (dfe : BitVec 28), s.laneState n = Ls.cdrAcq →
    answers (.cdrLock n ctle dfe) s (fun t =>
      t.laneState n = (if uhlusRole (s.laneRole n) then Ls.blockHunt else Ls.up) ∧
      t.rd F.laneEq_ctle n = ctle.toNat ∧ t.rd F.laneEq_dfe n = dfe.toNat)) ∧
  (∀ (s : State) (n : Fin 64), s.laneState n = Ls.cdrAcq → answers (.cdrAcqTimeout n) s (fun t =>
    t.flag F.laneEvent_acqRetry n = true ∧ t.laneState n = Ls.cdrAcq)) ∧
  (∀ (s : State) (n : Fin 64), s.inLock n = true → answers (.cdrLost n) s (fun t =>
    t.laneState n = Ls.cdrAcq ∧ t.flag F.laneEvent_cdrLost n = true)) ∧
  (∀ (s : State) (n : Fin 64), s.laneRole n ≠ Role.pcie →
    s.laneState n ∉ [Ls.off, Ls.prbs, Ls.loopback] →
    answers (.laneRelock n) s (fun t => t.laneState n = Ls.cdrAcq)) ∧
  (∀ (s : State) (q : Fin 16), s.rd F.laneQuadStat_role q ≠ 0 → (s.quad q).refclk = 1 →
    answers (.refclkChange q true) s (fun t =>
      t.flag F.laneQuadStat_refclkOk q = true ∧ t.flag F.laneQuadStat_pllLock q = true)) ∧
  (∀ (s : State) (n : Fin 64) (bip : BitVec 8), uhlusRole (s.laneRole n) = true → s.laneUsed n = true →
    s.flag F.laneCtl_squelch n = false → s.flag F.laneQuadStat_refclkOk (n / 4) = true →
    answers (.alignTx n bip) s (fun t => (t.lane n).amCount = ((s.lane n).amCount + 1) % 65536))

/-- Transmit delay and round trips (R110 to R112): TAP is held within 0 to 4,223 and the output phase moves one tap
towards it; a measurement sends probes of rising number, takes an echo of one within 100 µs, and ends with the mean round
trip; a PROBE is answered with TURN = 2,640 UI. -/
def Obligations.DelayAndRoundTrips : Prop :=
  (∀ (s : State) (n : Fin 64) (v : Word), s.laneLocked n true = false → answers (.laneTxDelayWrite n v) s (fun t =>
    t.rd F.laneTxDelay_tap n = min 4223 (F.laneTxDelay_tap.ofWord v))) ∧
  (∀ (s : State) (n : Fin 64), answers (.tapSlewStep n) s (fun t =>
    ((s.lane n).phase < s.rd F.laneTxDelay_tap n → (t.lane n).phase = (s.lane n).phase + 1) ∧
    (s.rd F.laneTxDelay_tap n < (s.lane n).phase → (t.lane n).phase + 1 = (s.lane n).phase) ∧
    (t.flag F.laneTxDelay_slewing n = true ↔ (t.lane n).phase ≠ t.rd F.laneTxDelay_tap n))) ∧
  (∀ (s : State) (n : Fin 64) (v : Word), s.laneLocked n true = false → F.laneProbeCtl_start.ofWord v = 1 →
    s.flag F.laneProbeCtl_busy n = false → s.flag F.laneStat_bondUp n = true →
    answers (.laneProbeStart n v) s (fun t => t.flag F.laneProbeCtl_busy n = true ∧
      t.rd F.laneProbeCtl_count n = probeCount (F.laneProbeCtl_count.ofWord v) ∧
      (t.lane n).probe = some ⟨0, [], 0, 0⟩)) ∧
  (∀ (s : State) (n : Fin 64) (r : ProbeRun), (s.lane n).probe = some r →
    r.sent < probeCount (s.rd F.laneProbeCtl_count n) → answers (.probeTx n) s (fun t =>
      (t.lane n).nextProbe = ((s.lane n).nextProbe + 1) % 65536 ∧
      (t.lane n).probe = some { r with sent := r.sent + 1, open_ := r.open_ ++ [(s.lane n).nextProbe] })) ∧
  (∀ (s : State) (n : Fin 64) (id turn : BitVec 16) (taps : Nat) (r : ProbeRun), (s.lane n).probe = some r →
    id.toNat ∈ r.open_ → taps ≤ 64 * s.rate n → answers (.echoRx n id turn taps) s (fun t =>
      (t.lane n).probe = some { r with
        open_ := r.open_.filter (· != id.toNat), matched := r.matched + 1, total := r.total + taps } ∧
      t.rd F.laneTurn_value n = turn.toNat)) ∧
  (∀ (s : State) (n : Fin 64) (r : ProbeRun), (s.lane n).probe = some r → r.matched = probeCount (s.rd F.laneProbeCtl_count n) →
    answers (.probeWindowEnd n) s (fun t => t.rd F.laneProbeCtl_matched n = r.matched ∧
      t.rd F.laneRtt_value n = r.total / r.matched % 2 ^ 32 ∧ t.flag F.laneEvent_probeDone n = true ∧
      t.flag F.laneProbeCtl_busy n = false)) ∧
  (∀ (s : State) (n : Fin 64) (id : BitVec 16), s.chief.tristate = false → answers (.probeRx n id) s (fun t =>
    Output.block n true (ctrlBlock (leBytes 1 0x87 ++ leBytes 2 id.toNat ++ leBytes 2 2640)) ∈ t.out))

/-- Credits, margin scans and PRBS (R115 to R117): a CREDIT block brings a sender its LIMIT and an active receiver sends
its own; a margin scan starts in lock and ends with its errors; one bit of a running pattern is inverted, the counts are
cleared, and a checked bit of a synchronised lane is counted. -/
def Obligations.CreditsMarginsPrbs : Prop :=
  (∀ (s : State) (n : Fin 64) (p : Fin 1024) (limit : BitVec 16), s.sportActive p = true → s.sportSends p = true →
    answers (.creditRx n p limit) s (fun t => (t.sport p).limit = limit.toNat)) ∧
  (∀ (s : State) (p : Fin 1024), s.sportActive p = true → s.flag F.sportCfg_fc p = true →
    s.flag F.sportCfg_dir p = false → s.flag F.laneStat_bondUp (s.rd F.sportCfg_lane p) = true →
    s.chief.tristate = false → answers (.creditTx p) s (fun t =>
      Output.block (s.rd F.sportCfg_lane p) true (ctrlBlock (leBytes 1 0x2D ++ leBytes 2 p ++ leBytes 2 (s.limitOf p)))
        ∈ t.out)) ∧
  (∀ (s : State) (n : Fin 64) (v : Word), s.laneRole n ≠ Role.pcie → F.laneMarginCtl_start.ofWord v = 1 →
    s.inLock n = true → answers (.marginStart n v) s (fun t =>
      (t.lane n).margin = true ∧ t.flag F.laneMarginRes_done n = false ∧
      t.rd F.laneMarginCtl_dwell n = F.laneMarginCtl_dwell.ofWord v)) ∧
  (∀ (s : State) (n : Fin 64) (errors : Nat), (s.lane n).margin = true → answers (.marginDone n errors) s (fun t =>
    t.rd F.laneMarginRes_errors n = min errors (2 ^ 24 - 1) ∧ t.flag F.laneMarginRes_done n = s.inLock n ∧
    t.flag F.laneMarginRes_abort n = !s.inLock n ∧ t.flag F.laneEvent_marginDone n = true)) ∧
  (∀ (s : State) (n : Fin 64), s.prbsRefused n = none → s.rd F.lanePrbsCtl_txPat n ∈ [1, 2, 3, 4, 5] →
    s.chief.tristate = false → answers (.prbsInject n) s (fun t => t.out = s.out ++ [Output.prbsInverted n])) ∧
  (∀ (s : State) (n : Fin 64), s.prbsRefused n = none → answers (.prbsClear n) s (fun t =>
    t.rd F.lanePrbsErr_value n = 0 ∧ t.rd64 F.lanePrbsBitsLo_value F.lanePrbsBitsHi_value n = 0)) ∧
  (∀ (s : State) (n : Fin 64) (err : Bool), s.mode = Md.maintain → s.rd F.lanePrbsCtl_rxPat n ∈ [1, 2, 3, 4, 5] →
    s.flag F.lanePrbsCtl_rxSync n = true → answers (.prbsCheck n [err]) s (fun t =>
      t.rd F.lanePrbsErr_value n = (if err then satAdd 32 (s.rd F.lanePrbsErr_value n) 1
        else s.rd F.lanePrbsErr_value n)))

/-- The Ethernet ports (R166, R167, R185 to R188): a link that comes up or goes down is shown; a bad frame counts on its
port, a good one that passes the filter is counted, and with room goes to ring 4 with its stamp; a datagram of a stream
takes its items and the next sequence number, at MAX_ITEMS or, at the flush, with any; a receiver's LIMIT is sent. -/
def Obligations.NetworkPorts : Prop :=
  (∀ (s : State) (e : Fin 16), s.macPort e = true → answers (.ethLinkUp e) s (fun t =>
    t.flag F.macStat_linkUp e = true ∧ t.rd F.macStat_speed e = (if s.laneRole (48 + e) = Role.eth25 then 1 else 2))) ∧
  (∀ (s : State) (e : Fin 16), answers (.ethLinkDown e) s (fun t =>
    t.flag F.macStat_linkUp e = false ∧ t.rd F.macStat_speed e = 0)) ∧
  (∀ (s : State) (e : Fin 16) (f : Bytes) (m : Int) (fc fu : Nat), s.macUp e = true →
    answers (.macFrameRx e f false m fc fu) s (fun t =>
      t.rd (F.macCnt_count 2) e = satAdd 32 (s.rd (F.macCnt_count 2) e) 1 ∧
      t.rd (F.macCnt_count 5) e = satAdd 32 (s.rd (F.macCnt_count 5) e) fc)) ∧
  (∀ (s : State) (e : Fin 16) (f : Bytes) (m : Int) (fc fu : Nat), s.macUp e = true → 60 ≤ f.length → f.length ≤ 9596 →
    beAt f 12 2 ∉ [0x8808, 0x0800, 0x8100] → s.macAccepts e f = true → s.flag F.ringCtl_en 4 = true →
    s.outUsed 4 + s.host.rxStaged.length < s.outSize 4 → f.length ≤ s.rxEntryBytes - 64 →
    answers (.macFrameRx e f true m fc fu) s (fun t =>
      t.rd (F.macCnt_count 0) e = satAdd 32 (s.rd (F.macCnt_count 0) e) 1 ∧
      t.host.rxStaged.length = s.host.rxStaged.length + 1)) ∧
  (∀ (s : State) (j : Fin 256), s.streamReady j = true → s.streamSources j = [(1, s.couch.records, 64)] →
    0 < s.maxItems j 64 → s.maxItems j 64 ≤ (s.couch.records.filter (·.net)).length →
    (16 + s.maxItems j 64 * 64 + 63) / 64 ≤ s.creditLeft (256 + j) → answers (.streamDatagramTx j) s (fun t =>
      t.couch.records = netTake (s.maxItems j 64) s.couch.records ∧
      (t.sport (256 + j)).txNext = ((s.sport (256 + j)).txNext + 1) % 2 ^ 32)) ∧
  (∀ (s : State) (j : Fin 256) (i : OutItem), s.streamReady j = true → s.streamSources j = [(1, s.couch.records, 64)] →
    0 < s.maxItems j 64 → s.couch.records = [i] → i.net = true → i.ring = false → 2 ≤ s.creditLeft (256 + j) →
    answers (.streamFlushTimeout j) s (fun t => t.couch.records = [] ∧
      (t.sport (256 + j)).txNext = ((s.sport (256 + j)).txNext + 1) % 2 ^ 32)) ∧
  (∀ (s : State) (p : Fin 1024) (t e : Nat), s.creditRoute p = some (t, e) → s.flag F.templateCtl_valid t = true →
    s.macUp e = true → (p.val < 512 ∨ 768 ≤ p.val) → answers (.creditDatagramTx p) s (fun u =>
      (u.sport p).txNext = ((s.sport p).txNext + 1) % 2 ^ 32))

/-- Lines and frames at a port (R203, R205, R206, R208 to R211): the LINE_START of the awaited line opens its burst and
takes its bytes of the partition; its LINE_END with the right blocks, tag byte and CRC delivers it; a line past its
deadline goes missing; frame marks set the home frame and are counted; a channel above 1.5 Gpix/s sets RATE_OVER. -/
def Obligations.HeadboxLines : Prop :=
  (∀ (s : State) (p : Fin 12) (k d : Fin 4) (tag : Word) (l : TrigLine), s.sensorOn p k = true → s.portHeld p = false →
    s.chief.path = Md.inspect → (s.hbPort p).burst = .outside → s.flag F.headboxPortCtl_frameCheck p = false →
    (s.hbCh (4 * p + k)).lines = [l] → l.line = s.extendTag tag.toNat → l.triggered = true → l.done = none →
    depthBits d = s.depth (4 * p + k) →
    (s.hbCh (4 * p + k)).fill + s.lineBlocks (4 * p + k) * 8 ≤ s.partition p →
    answers (.lineStartRx p k d tag) s (fun t => (t.hbPort p).burst = .inside ⟨k, l.line, tag.toNat, []⟩ ∧
      (t.hbCh (4 * p + k)).fill = (s.hbCh (4 * p + k)).fill + s.lineBlocks (4 * p + k) * 8)) ∧
  (∀ (s : State) (p : Fin 12) (crc : Word) (tagByte : BitVec 8) (b : Burst) (k : Fin 4),
    (s.hbPort p).burst = .inside b → b.sensor = k → b.blocks.length = s.lineBlocks (4 * p + k) →
    tagByte.toNat = b.tag % 256 → crc32c (blockBytes b.blocks.reverse) = crc.toNat →
    answers (.lineEndRx p k crc tagByte) s (fun t => (t.hbPort p).burst = .outside ∧
      t.rd (F.headboxCnt_count Hc.linesOk) (4 * p + k) =
        satAdd 32 (s.rd (F.headboxCnt_count Hc.linesOk) (4 * p + k)) 1)) ∧
  (∀ (s : State) (p : Fin 12) (k : Fin 4) (tag : Word) (l : TrigLine),
    s.awaited (4 * p + k) (s.extendTag tag.toNat) = some l → reached s.counter l.deadline = true →
    (s.hbPort p).burst = .outside → answers (.lineTimeout p k tag) s (fun t =>
      t.rd (F.headboxCnt_count Hc.timeout) (4 * p + k) =
        satAdd 32 (s.rd (F.headboxCnt_count Hc.timeout) (4 * p + k)) 1 ∧
      t.rd (F.headboxCnt_count Hc.missing) (4 * p + k) =
        satAdd 32 (s.rd (F.headboxCnt_count Hc.missing) (4 * p + k)) 1)) ∧
  (∀ (s : State) (p : Fin 12) (k : Fin 4) (tag : Word), s.sensorOn p k = true →
    s.flag F.headboxPortCtl_frameCheck p = true → (s.hbPort p).burst = .outside →
    answers (.frameStartRx p k tag) s (fun t =>
      (t.hbCh (4 * p + k)).home = s.frameOf (s.extendTag tag.toNat) ∧
      t.flag F.headboxChStat_inLong (4 * p + k) = false)) ∧
  (∀ (s : State) (p : Fin 12) (k : Fin 4) (tag : Word), s.sensorOn p k = true →
    s.flag F.headboxPortCtl_frameCheck p = true → (s.hbPort p).burst = .outside →
    answers (.frameEndRx p k tag) s (fun t => t.rd (F.headboxCnt_count Hc.framesSeen) (4 * p + k) =
      satAdd 32 (s.rd (F.headboxCnt_count Hc.framesSeen) (4 * p + k)) 1)) ∧
  (∀ (s : State) (p : Fin 12) (k : Fin 4), s.portChannels p = [4 * p.val + k.val] →
    1500000 < s.width (4 * p + k) * (s.hbCh (4 * p + k)).received → answers (.rateMeasure p) s (fun t =>
      t.flag F.headboxChStat_rateOver (4 * p + k) = true ∧ (t.hbCh (4 * p + k)).received = 0))

/-- Camera control and status (R200 to R202): GO sends the request with the next CTAG and waits; the acknowledgement of
that CTAG and sensor ends the wait with its data, and so does the time limit with RESULT 4; a status message is kept, and
100 ms without one set SILENT and raise producer 48 + p. -/
def Obligations.CameraControl : Prop :=
  (∀ (s : State) (p : Fin 12) (v : Word), s.sensorPort p = true → F.headboxCctl_go.ofWord v = 1 →
    s.flag F.headboxCctl_busy p = false → s.mode ∈ [Md.configure, Md.inspect, Md.maintain] →
    s.flag F.headboxPortStat_bondUp p = true → answers (.camCtrlGo p v) s (fun t =>
      t.flag F.headboxCctl_busy p = true ∧ t.rd F.headboxCctl_ctag p = (s.rd F.headboxCctl_ctag p + 1) % 32 ∧
      t.rd F.headboxCctl_result p = 0)) ∧
  (∀ (s : State) (p : Fin 12) (k : Fin 4) (w : Bool) (ctag : Fin 32) (result : BitVec 8) (d : Word × Word),
    (s.hbPort p).burst = .outside → s.flag F.headboxCctl_busy p = true → s.rd F.headboxCctl_ctag p = ctag →
    s.rd F.headboxCctl_sensor p = k → answers (.camAckRx p k w ctag result (some d)) s (fun t =>
      t.flag F.headboxCctl_busy p = false ∧ t.rd F.headboxCctlData_data p = d.2.toNat ∧
      t.rd F.headboxCctl_result p = (if result = 0 then 1 else if result = 2 then 3 else 2))) ∧
  (∀ (s : State) (p : Fin 12), s.flag F.headboxCctl_busy p = true → answers (.camCtrlTimeout p) s (fun t =>
    t.flag F.headboxCctl_busy p = false ∧ t.rd F.headboxCctl_result p = 4)) ∧
  (∀ (s : State) (p : Fin 12) (k : Fin 4) (ready alert : Bool) (seq code : BitVec 16), s.sensorOn p k = true →
    (s.hbPort p).burst = .outside → (s.sport (16 * p + 4 * k + 3)).started = false →
    answers (.camStatusRx p k ready alert seq code) s (fun t =>
      t.flag F.headboxCamStat_ready (4 * p + k) = ready ∧ t.flag F.headboxCamStat_alert (4 * p + k) = alert ∧
      t.rd F.headboxCamStat_code (4 * p + k) = code.toNat)) ∧
  (∀ (s : State) (p : Fin 12) (k : Fin 4), s.sensorOn p k = true → s.flag F.headboxCamStat_silent (4 * p + k) = false →
    answers (.camSilent p k) s (fun t => t.flag F.headboxCamStat_silent (4 * p + k) = true ∧
      Output.cairn (48 + p) 0 (0x10 + p) ∈ t.out))

/-- The Calenders (R215, R221 to R227): a missing entry becomes a line of code m, a good one the corrected, substituted
and resampled pixels; COMMIT hands the shadow parameters over where no line flows and waits while the copy runs; DISCARD
takes the active scalars back and starts a copy, which ends SYNCING. -/
def Obligations.CalendersDeliver : Prop :=
  (∀ (s : State) (n : Fin 48) (e : HbEntry) (rest : List HbEntry), (s.hbCh n).queue = e :: rest → e.px = none →
    s.flag F.calShadowCtl_armed n = false → answers (.calLine n []) s (fun t => (t.hbCh n).queue = rest ∧
      (t.calCh n).out = (s.calCh n).out ++ [⟨e.line, (s.frameOf e.line).toNat, s.indexOf e.line, true,
        List.replicate (s.outWidth n) (2 ^ s.depth n - 1)⟩])) ∧
  (∀ (s : State) (n : Fin 48) (e : HbEntry) (rest : List HbEntry) (raw : List Nat), (s.hbCh n).queue = e :: rest →
    e.px = some raw → s.flag F.calShadowCtl_armed n = false → answers (.calLine n []) s (fun t =>
      (t.hbCh n).queue = rest ∧ (t.calCh n).out = (s.calCh n).out ++ [⟨e.line, (s.frameOf e.line).toNat,
        s.indexOf e.line, false, (s.calPixels n raw).1⟩])) ∧
  (∀ (s : State) (n : Fin 48), s.calGated n = none → s.flag F.calShadowCtl_syncing n = true →
    answers (.calCommit n) s (fun t => t.flag F.calShadowCtl_armed n = true)) ∧
  (∀ (s : State) (n : Fin 48), s.calGated n = none → s.flag F.calShadowCtl_syncing n = false → s.calFlows n = false →
    answers (.calCommit n) s (fun t => t.flag F.calShadowCtl_armed n = false ∧
      t.rd F.calActiveBlack_black n = s.rd F.calBlack_black n ∧
      t.flag F.calActiveCtl_corrEn n = s.flag F.calCtl_corrEn n)) ∧
  (∀ (s : State) (n : Fin 48), s.calGated n = none → answers (.calDiscard n) s (fun t =>
    t.flag F.calShadowCtl_syncing n = true ∧ t.rd F.calBlack_black n = s.rd F.calActiveBlack_black n ∧
    t.flag F.calShadowCtl_shadowPending n = false)) ∧
  (∀ (s : State) (n : Fin 48), s.flag F.calShadowCtl_syncing n = true → s.flag F.calShadowCtl_armed n = false →
    answers (.calBankCopyDone n) s (fun t => t.flag F.calShadowCtl_syncing n = false ∧ (t.calCh n).skip = []))

/-- The Ridge's inputs (R237, R238, R241, R345): a port line enters the in-line buffer; a boundary takes the in-line
line first and counts it, and in EXPOSE the next dose line; a burst of the oldest complete frame is counted. -/
def Obligations.RidgesTakeLines : Prop :=
  (∀ (s : State) (p : Fin 12) (n : Nat) (l : CalLine) (rest : List CalLine), s.planeChannels p = [(0, n)] →
    (s.calCh n).out = l :: rest → s.rd F.ridgeStat_state (p / 2) = 3 → p % 2 = s.inlineCtx (p / 2) →
    s.inlineFill (p / 2) + s.portLineBytes p ≤ 262144 → answers (.ridgePortLineArrive p) s (fun t =>
      (t.calCh n).out = rest ∧ (t.ridge (p / 2)).inline = (s.ridge (p / 2)).inline ++
        [⟨l.line, l.frame, l.index, [(0, if l.miss then none else some l.px)]⟩])) ∧
  (∀ (s : State) (k : Fin 6) (f : MemFrame), (s.ridge k).burstLeft = 0 → (s.ridge k).staging = [] →
    (s.ridge k).reading s.frameLen = some f → f.complete = true → answers (.memPathBurst k) s (fun t =>
      t.rd (F.ridgeCnt_count 5) k = satAdd 32 (s.rd (F.ridgeCnt_count 5) k) 1)) ∧
  (∀ (s : State) (k : Fin 6) (l : PortLine) (rest : List PortLine) (m : Bool), s.exposeImage = false →
    (s.ridge k).frames = [] → (s.ridge k).inline = l :: rest → answers (.ridgeLineBoundary k m) s (fun t =>
      (t.ridge k).inline = rest ∧
      t.rd (F.ridgeCnt_count 0) k = satAdd 32 (s.rd (F.ridgeCnt_count 0) k) 1)) ∧
  (∀ (s : State) (k : Fin 6) (l : DoseLine) (rest : List DoseLine) (m : Bool), s.exposeImage = true → k.val < 4 →
    (s.kernel k).queue = l :: rest → answers (.ridgeLineBoundary k m) s (fun t => (t.kernel k).queue = rest))

/-- The rotation (R244 to R250): a step starts in COPY where it may, from the period, ROT_NOW or the event; the copied
spare waits for a boundary; the isolated Spur is put under test; the slice's result is kept and the Spur re-initialised,
and then it is the spare, or retires where the verification failed. -/
def Obligations.RotationSteps : Prop :=
  (∀ (s : State) (k : Fin 6), s.stepFree k = true → answers (.rotationStepStart k) s (fun t =>
    t.rd F.ridgeRotStat_step k = RotStep.copy)) ∧
  (∀ (s : State) (k : Fin 6), s.stepFree k = true →
    s.rd F.ridgeSpurStat_role (spurAt k (s.rd F.ridgeRotStat_spare k)) = SpurRole.spare →
    answers (.rotNow k) s (fun t => t.rd F.ridgeRotStat_step k = RotStep.copy)) ∧
  (∀ (s : State) (k : Fin 6) (g : Fin 8), s.stepFree k = true →
    s.rd F.ridgeSpurStat_role (spurAt k (s.rd F.ridgeRotStat_spare k)) = SpurRole.spare →
    answers (.rotationEvent k g) s (fun t => t.rd F.ridgeRotStat_step k = RotStep.copy ∧ (t.rot k).gen = g + 1)) ∧
  (∀ (s : State) (k : Fin 6), s.rd F.ridgeRotStat_step k = RotStep.copy → answers (.spurCopyDone k) s (fun t =>
    (t.rot k).copied = true)) ∧
  (∀ (s : State) (k : Fin 6), s.rd F.ridgeRotStat_step k = RotStep.isolate → answers (.spurIsolated k) s (fun t =>
    t.rd F.ridgeRotStat_step k = RotStep.test ∧
    t.rd F.ridgeSpurStat_role (spurAt k (s.rd F.ridgeRotStat_underTest k)) = SpurRole.underTest)) ∧
  (∀ (s : State) (k : Fin 6) (sig : BitVec 64), s.rd F.ridgeRotStat_step k = RotStep.test →
    answers (.spurSliceDone k false sig) s (fun t => t.rd F.ridgeRotStat_step k = RotStep.reinit ∧
      t.rd F.ridgeSpurStat_lastResult (spurAt k (s.rd F.ridgeRotStat_underTest k)) = 3)) ∧
  (∀ (s : State) (k : Fin 6), s.rd F.ridgeRotStat_step k = RotStep.test →
    answers (.sliceBudgetExpiry k) s (fun t => t.rd F.ridgeRotStat_step k = RotStep.reinit ∧
      t.rd F.ridgeSpurStat_lastResult (spurAt k (s.rd F.ridgeRotStat_underTest k)) = 4)) ∧
  (∀ (s : State) (k : Fin 6), s.rd F.ridgeRotStat_step k = RotStep.reinit → answers (.spurReinitDone k true) s (fun t =>
    t.rd F.ridgeRotStat_spare k = s.rd F.ridgeRotStat_underTest k ∧
    t.rd F.ridgeSpurStat_role (spurAt k (s.rd F.ridgeRotStat_underTest k)) = SpurRole.spare)) ∧
  (∀ (s : State) (k : Fin 6), s.rd F.ridgeRotStat_step k = RotStep.reinit →
    answers (.spurReinitDone k false) s (fun t => t.rd F.ridgeRotStat_step k = RotStep.stopped ∧
      t.rd F.ridgeSpurStat_role (spurAt k (s.rd F.ridgeRotStat_underTest k)) = SpurRole.retired))

/-- The Couch (R292, R296, R299, R305 to R308, R315): a marker brings its port's progress; an item is counted and, where
it touches no seam, queued; a group that has waited WAIT_MS leaves the seam table; the unit the forest has finished takes
the next SEQ, or is suppressed where its class is not sent; a marker unit loads its next target when the first fires. -/
def Obligations.CouchTakesItems : Prop :=
  (∀ (s : State) (k : Fin 6) (m : Marker) (rest : List RidgeOut), (s.ridge k).intake = .marker m :: rest →
    answers (.couchIntake k) s (fun t => Sparse.get (fun _ => none) t.couch.progress m.port = some m.last)) ∧
  (∀ (s : State) (k : Fin 6) (i : Item) (rest : List RidgeOut), (s.ridge k).intake = .item i :: rest →
    s.couch.units < 1024 → bit i.flags 5 = false → s.touchedSeams (s.mapped (ridgePort k i.portSel) i) = [] →
    s.couch.queue = [] → answers (.couchIntake k) s (fun t =>
      t.rd (F.couchCnt_count Cc.itemsIn) = satAdd 32 (s.rd (F.couchCnt_count Cc.itemsIn)) 1 ∧ t.couch.units = 1)) ∧
  (∀ (s : State) (p : Fin 12) (seq : Word) (m : Member), s.couch.held = [m] → m.port = p → m.item.seq = seq.toNat →
    m.entered + max 1 (s.rd F.couchSeamCtl_waitMs) * 250000 ≤ s.clock → answers (.seamWaitTimeout p seq) s (fun t =>
      t.couch.held = [] ∧
      t.rd (F.couchCnt_count Cc.seamTimeout) = satAdd 32 (s.rd (F.couchCnt_count Cc.seamTimeout)) 1)) ∧
  (∀ (s : State) (m : Member) (ms : List Member) (fl : Nat) (v : Verdict),
    s.couch.queue = [.unit (m :: ms) fl (some v)] → s.flag F.couchClassAct_send v.cls = true →
    answers .classifyDone s (fun t => t.couch.queue = [] ∧
      t.rd F.couchNextSeq_seq = (s.rd F.couchNextSeq_seq + 1) % 2 ^ 32)) ∧
  (∀ (s : State) (m : Member) (ms : List Member) (fl : Nat) (v : Verdict),
    s.couch.queue = [.unit (m :: ms) fl (some v)] → s.flag F.couchClassAct_send v.cls = false →
    answers .classifyDone s (fun t => t.couch.queue = [] ∧ t.rd F.couchNextSeq_seq = s.rd F.couchNextSeq_seq ∧
      t.rd (F.couchCnt_count Cc.suppressed) = satAdd 32 (s.rd (F.couchCnt_count Cc.suppressed)) 1)) ∧
  (∀ (s : State) (u : Fin 4) (a b : MarkTarget) (rest : List MarkTarget), s.marks u = a :: b :: rest → a.armed = true →
    answers (.markerFireSeen u) s (fun t => t.marks u = { b with armed := true } :: rest))

/-- The statistics unit (R319, R320): the oldest finished frame of a channel takes the next SEQ and enters the FIFO; the
consumer of a group arms the group's channels. -/
def Obligations.StatisticsBlocks : Prop :=
  (∀ (s : State) (n : Fin 48) (e : Nat × StatsCh), s.stats.ready.find? (fun e => e.1 == n.val) = some e →
    s.stats.fifo.length < 256 → answers (.statsBlock n) s (fun t =>
      t.stats.fifo.length = s.stats.fifo.length + 1 ∧ t.stats.ready = s.stats.ready.erase e ∧
      t.rd F.statsNextSeq_seq = (s.rd F.statsNextSeq_seq + 1) % 2 ^ 32 ∧
      t.rd (F.statsCnt_count 0) = satAdd 32 (s.rd (F.statsCnt_count 0)) 1)) ∧
  (∀ (s : State) (n : Fin 48) (e : Nat × StatsCh), s.stats.ready.find? (fun e => e.1 == n.val) = some e →
    256 ≤ s.stats.fifo.length → answers (.statsBlock n) s (fun t => t.stats.fifo = s.stats.fifo ∧
      t.rd F.statsNextSeq_seq = (s.rd F.statsNextSeq_seq + 1) % 2 ^ 32 ∧
      t.rd (F.statsCnt_count 1) = satAdd 32 (s.rd (F.statsCnt_count 1)) 1)) ∧
  (∀ (s : State) (g : Fin 2) (n : Fin 48), s.flag F.statsCtl_mode = true → s.rd F.statsChCtl_group n = g →
    answers (.statsArm g) s (fun t => t.flag F.statsChCtl_armed n = true))

/-- The layout ingress (R325, R326, R329, R331 to R335): a submission and a job complete in staging enter the queue; the
next job is checked and unwrapped, takes its output space and is verified by its tag; a result is popped; STRIPE_RESET
lets the next job start a stripe; a job too short for its header fails with LENGTH. -/
def Obligations.LayoutJobsPass : Prop :=
  (∀ (s : State) (tag : Word), s.exposeImage = true → s.mode ∈ [Md.configure, Md.expose] → s.layout.queue.length < 64 →
    answers (.layoutSubmit tag) s (fun t => t.layout.queue = s.layout.queue ++ [s.layout.nextId] ∧
      (t.job s.layout.nextId).isSome = true ∧
      t.rd (F.layoutCnt_count Yc.jobs) = satAdd 32 (s.rd (F.layoutCnt_count Yc.jobs)) 1)) ∧
  (∀ (s : State) (id : Nat) (rest : List Nat), s.layout.staged = id :: rest → s.layout.queue.length < 64 →
    answers .layoutStagedEnqueue s (fun t => t.layout.staged = rest ∧ t.layout.queue = s.layout.queue ++ [id])) ∧
  (∀ (s : State) (j : Job) (b : Bytes) (kek : Nat), s.mode = Md.expose → s.flag F.layoutCtl_enable = true →
    s.layout.cur = none → s.layout.queue = [j.id] → s.layout.jobs = [j] → j.network = true → j.stage = .queued →
    j.body = some b → j.slot < 16 → Sparse.get (fun _ => none) s.layoutKeys j.slot = some kek →
    answers .layoutJobStart s (fun t => t.layout.queue = [] ∧
      match keyUnwrap kek (beAt (b.take 128) 52 40) with
      | some k => t.layout.cur = some j.id ∧ t.layout.jobs = [{ j with key := k, stage := .waitOut }]
      | none => t.layout.cur = none ∧
          t.rd (F.layoutCnt_count Yc.authFail) = satAdd 32 (s.rd (F.layoutCnt_count Yc.authFail)) 1)) ∧
  (∀ (s : State) (j : Job), s.mode = Md.expose → s.flag F.layoutCtl_enable = true → s.layout.cur = none →
    s.layout.queue = [j.id] → s.layout.jobs = [j] → j.network = false → j.len < 144 → s.layout.results = [] →
    answers .layoutJobStart s (fun t => t.layout.cur = none ∧
      t.layout.results = [⟨j.tag, layoutStatus Lc.length, Lc.length, false, 0, 0, j.jobId⟩])) ∧
  (∀ (s : State) (j : Job) (base : Nat), s.layout.cur = some j.id → s.layout.jobs = [j] → j.stage = .waitOut →
    s.outputSpace j.plainLen = some base → answers .layoutDecryptStart s (fun t =>
      t.layout.jobs = [{ j with stage := .decrypt, out := some base }] ∧ t.rd F.layoutStat_state = 3)) ∧
  (∀ (s : State) (j : Job) (b : Bytes), s.layout.cur = some j.id → s.layout.jobs = [j] → j.stage = .decrypt →
    j.codecEnd = some (none, j.plainLen) → s.jobBytes j 0 j.total = some b →
    answers .layoutJobVerified s (fun t => t.layout.cur = none ∧
      if gcmTag j.key (beAt b 40 12) (b.take (128 + 8 * j.count)) (sub b (128 + 8 * j.count) j.cipherLen) =
        beAt b (128 + 8 * j.count + j.cipherLen) 16
      then t.layout.jobs = [{ j with stage := .verified, table := sub b 128 (8 * j.count), body := none }]
      else t.rd (F.layoutCnt_count Yc.authFail) = satAdd 32 (s.rd (F.layoutCnt_count Yc.authFail)) 1)) ∧
  (∀ s : State, answers .layoutResultPop s (fun t => t.layout.results = s.layout.results.tail)) ∧
  (∀ s : State, answers .stripeReset s (fun t => t.rd F.layoutExpectBand_value = 0 ∧ t.layout.ended = false))

/-- The Mould (R338, R341 to R343): it starts the next band of the jobs' order once its job is verified, with fewer than
3 bands at the Watermark; the band it has made leaves for the kernel Ridges and is counted. -/
def Obligations.MouldMakesBands : Prop :=
  (∀ (s : State) (j : Job) (b : Nat), s.mode = Md.expose → s.mould.running = none → s.wm.bands.length < 3 →
    s.nextBand = some (j, b) → s.layout.jobs = [j] → j.stage = .verified → answers .mouldBandStart s (fun t =>
      t.mould.running = some (j.id, b) ∧ t.mould.next = b + 1 ∧ t.wm.bands.length = s.wm.bands.length + 1)) ∧
  (∀ (s : State) (id b : Nat), s.mould.running = some (id, b) → answers .mouldBandDone s (fun t =>
    t.mould.running = none ∧ t.rd (F.mouldCnt_count Mc.bands) = satAdd 32 (s.rd (F.mouldCnt_count Mc.bands)) 1 ∧
    (s.kernel 0).queue.length + 64 ≤ (t.kernel 0).queue.length))

/-- The Watermark (R347, R349 to R351): a whole band passes where its CRC-64 is that of its job's table, and fails with
CHECK else; its release starts at line time 64β − 193 and ends with its lines in the Vat, reported RELEASED; a band that
has not passed by line time 64β − 80 is reported LATE. -/
def Obligations.WatermarkReleases : Prop :=
  (∀ (s : State) (n : Word) (b : WmBand) (j : Job), s.wm.bands = [b] → b.band = n.toNat → b.whole = true →
    b.passed = false → b.cause = none → s.job b.job = some j →
    bandCrc b.stripe b.band b.lines = leAt j.table (8 * (b.band - j.first)) 8 →
    answers (.wmBandCheck n) s (fun t => t.wm.bands = [{ b with passed := true }])) ∧
  (∀ (s : State) (n : Word) (b : WmBand) (j : Job), s.wm.bands = [b] → b.band = n.toNat → b.whole = true →
    b.passed = false → b.cause = none → s.job b.job = some j →
    bandCrc b.stripe b.band b.lines ≠ leAt j.table (8 * (b.band - j.first)) 8 →
    answers (.wmBandCheck n) s (fun t => t.wm.bands = [{ b with cause := some Gc.check }] ∧
      t.rd (F.wmCnt_count Wc.checkFail) = satAdd 32 (s.rd (F.wmCnt_count Wc.checkFail)) 1 ∧
      t.rd F.wmLastFailStripe_value = b.stripe % 2 ^ 32)) ∧
  (∀ (s : State) (n : Word) (t : WmStripe) (b : WmBand) (now : Int), s.wm.stripes = [t] → t.ended = false →
    s.wm.bands = [b] → b.inst = t.inst → b.band = n.toNat → b.passed = true → s.laid.time = some now →
    64 * (n.toNat : Int) - 193 ≤ now → answers (.wmReleaseStart n) s (fun u =>
      u.wm.bands = [{ b with releasing := true }])) ∧
  (∀ (s : State) (n : Word) (t : WmStripe) (b : WmBand), s.wm.stripes = [t] → t.ended = false → s.wm.bands = [b] →
    b.inst = t.inst → b.band = n.toNat → b.releasing = true → answers (.wmBandReleased n) s (fun u =>
      u.wm.bands = [] ∧ u.rd (F.wmCnt_count Wc.released) = satAdd 32 (s.rd (F.wmCnt_count Wc.released)) 1 ∧
      BandReport.mk b.band t.stripe none ∈ u.laid.bands ∧
      ∀ i < 64, Sparse.get (fun _ => []) u.vat ((64 * b.band + i) % 2560) = b.lines.getD i [])) ∧
  (∀ (s : State) (n : Word) (t : WmStripe) (b : WmBand) (now : Int), s.wm.stripes = [t] → t.ended = false →
    s.wm.bands = [b] → b.inst = t.inst → b.band = n.toNat → b.passed = false → b.cause = none → s.laid.time = some now →
    s.wm.decided ≤ n.toNat → n.toNat < t.heard → 64 * (n.toNat : Int) - 80 ≤ now →
    answers (.wmBandDeadline n) s (fun u => u.wm.decided = n.toNat + 1 ∧
      u.rd (F.wmCnt_count Wc.late) = satAdd 32 (s.rd (F.wmCnt_count Wc.late)) 1 ∧
      BandReport.mk n.toNat t.stripe (some Gc.late) ∈ u.laid.bands))

/-- The Laid (R357, R358, R366, R367, R373 to R378): ARM and the arm event arm an idle Laid, DISARM cancels; WARN stops
the release of lines, CRIT and the interlock blank at once; a shot tick of a running line goes to the drivers; a driver
status is kept with its temperature, and 16 µs without one lose the channel. -/
def Obligations.LaidStripes : Prop :=
  (∀ s : State, s.armFree = true → answers .laidArm s (fun t =>
    t.laid.armed = true ∧ t.rd F.laidStat_state = Lst.armed)) ∧
  (∀ (s : State) (g : Fin 8), s.armFree = true → answers (.laidArmEvent g) s (fun t =>
    t.laid.armed = true ∧ t.laid.gen = g + 1 ∧ t.rd F.laidStat_state = Lst.armed)) ∧
  (∀ s : State, s.laid.armed = true → answers .laidDisarm s (fun t =>
    t.laid.armed = false ∧ t.rd F.laidStat_state = Lst.idle ∧ t.flag F.laidStat_nextArmed = false)) ∧
  (∀ s : State, s.flag F.screeStat_warn = true → s.laid.running = true → s.laid.soft = none → s.laid.hard = none →
    answers .warnArrive s (fun t => t.laid.soft = some Gc.warn ∧ t.rd F.laidStat_state ∈ [Lst.draining, Lst.blanking])) ∧
  (∀ s : State, s.flag F.screeStat_crit = true → s.laid.running = true → s.laid.hard = none →
    answers .critArrive s (fun t => t.laid.hard = some Gc.crit ∧ t.rd F.laidStat_state = Lst.blanking)) ∧
  (∀ (s : State) (g : Fin 8), s.laid.running = true → s.laid.hard = none → answers (.interlock g) s (fun t =>
    t.laid.hard = some Gc.interlock ∧ t.rd F.laidStat_state = Lst.blanking)) ∧
  (∀ (s : State) (k : ShotTick) (rest : List ShotTick), s.laid.inbox = k :: rest → s.chief.joint = none →
    s.laid.running = true → s.laid.hard = none → k.skipped = false → s.laid.lastTick = some k.line → k.sub ≠ 7 →
    s.laid.origin ≤ k.line → k.line - s.laid.origin ≤ s.laid.endTime → answers (.laidShotTick 0 [] []) s (fun t =>
      t.laid.inbox = rest ∧ t.laid.lastShot = some ((k.line - s.laid.origin).toNat, k.sub))) ∧
  (∀ (s : State) (h : Fin 48) (seq line : BitVec 16) (flags temp : BitVec 8), s.drvInService h = true →
    bit flags.toNat 7 = false → (s.sport (4 * h + 1)).started = false →
    answers (.drvStatusRx h seq flags temp line) s (fun t => t.flag F.laidChStat_linkOk h = true ∧
      t.rd F.laidChStat_temp h = temp.toNat ∧ t.rd F.laidChLast_lastLine h = line.toNat ∧
      (t.laidCh h).lost = false)) ∧
  (∀ (s : State) (h : Fin 48), s.drvInService h = true → (s.laidCh h).lost = false →
    answers (.drvStatusTimeout h) s (fun t => t.flag F.laidChStat_silent h = true ∧
      t.flag F.laidChStat_lost h = true ∧ t.flag F.laidChStat_linkOk h = false ∧ (t.laidCh h).lost = true))

/-- The Scree (R389, R398 to R401, R404): a GO makes the host's exchange busy, it is sent where no stripe runs, and its
acknowledgement or the time limit ends it; a commit waits for a hand-over and the copy that follows it ends; a rebuilt
table is committed unless a column is degraded; WARN and CRIT clear where the temperature and the drivers allow. -/
def Obligations.ScreeExchangesAndOrder : Prop :=
  (∀ (s : State) (v : Word), s.flag F.screeDctl_busy = false → F.screeDctl_go.ofWord v = 1 → s.exposeImage = true →
    answers (.screeDctlGo v) s (fun t => t.flag F.screeDctl_busy = true ∧ t.rd F.screeDctl_result = 0 ∧
      t.rd F.screeDctl_channel = F.screeDctl_channel.ofWord v)) ∧
  (∀ (s : State) (h : Nat), s.rd F.screeDctl_channel = h → s.scree.hostWaits = true → s.laid.running = false →
    s.measuring h = false → answers .drvCtrlSend s (fun t => t.scree.hostWaits = false ∧
      (t.screeCh h).host = some ⟨((s.screeCh h).ctag + 1) % 32, s.flag F.screeDctl_write⟩)) ∧
  (∀ (s : State) (h : Fin 48) (m : BackMsg) (d : Nat) (q : DrvReq), (s.screeCh h).buffer = [m] → m.closed = true →
    m.ack = true → m.blocks = [d] → (s.screeCh h).host = some q → q.ctag = bits m.ctrl 8 5 → s.scree.running = false →
    answers (.drvAckRx h) s (fun t => t.flag F.screeDctl_busy = false ∧
      t.rd F.screeDctlData_data = d / 2 ^ 32 % 2 ^ 32 ∧ (t.screeCh h).buffer = [] ∧ (t.screeCh h).host = none)) ∧
  (∀ (s : State) (h : Fin 48), (s.screeCh h).host.isSome = true → answers (.drvCtrlTimeout h false) s (fun t =>
    t.flag F.screeDctl_busy = false ∧ t.rd F.screeDctl_result = 4)) ∧
  (∀ s : State, s.exposeImage = true → answers .screeCommit s (fun t => t.flag F.screeStat_commitPending = true)) ∧
  (∀ s : State, s.exposeImage = true → answers .screeCommitEvent s (fun t =>
    t.flag F.screeStat_commitPending = true)) ∧
  (∀ s : State, s.flag F.screeStat_syncing = true → answers .screeCopyDone s (fun t =>
    t.flag F.screeStat_syncing = false ∧ t.scree.touched = [])) ∧
  (∀ s : State, s.rd F.screeStat_measState = 3 → s.scree.changed = [] → s.exposeImage = true →
    (List.range 512).any s.columnDegraded = false → answers .tableRebuildDone s (fun t =>
      t.flag F.screeStat_commitPending = true ∧ t.flag F.screeStat_degradedHold = false)) ∧
  (∀ s : State, s.flag F.screeStat_warn = true → s.tempAtMost (s.warnC - s.hystC) = true →
    s.drvChannels.all (fun h => !((s.screeCh h).current && (s.screeCh h).warn)) = true →
    answers .screeWarnClear s (fun t => t.flag F.screeStat_warn = false)) ∧
  (∀ s : State, s.flag F.screeStat_crit = true → s.tempAtMost (s.critC - s.hystC) = true →
    s.drvChannels.all (fun h => !((s.screeCh h).current && (s.screeCh h).crit)) = true →
    answers .critClear s (fun t => t.flag F.screeStat_crit = false ∧ t.flag F.screeStat_critLatched = false))

/-- Measurement cycles (R390, R392 to R395): with the window open and measurement enabled the window's opening, MEAS_NOW
and the event each start the next cycle; a deferred channel is started at the end of its time; a whole message is taken;
the cycle ends complete or at its time limit, and is counted. -/
def Obligations.MeasurementCycles : Prop :=
  (∀ s : State, s.scree.opened = true → s.mayMeasure = true → answers .measCycleStart s (fun t =>
    t.scree.running = true ∧ t.rd F.screeCycle_cycle = (s.rd F.screeCycle_cycle + 1) % 256 ∧
    t.rd F.screeStat_measState = 2)) ∧
  (∀ s : State, s.mayMeasure = true → answers .measNow s (fun t => t.scree.running = true ∧
    t.rd F.screeCycle_cycle = (s.rd F.screeCycle_cycle + 1) % 256 ∧ t.rd F.screeStat_measState = 2)) ∧
  (∀ (s : State) (g : Fin 8), s.mayMeasure = true → answers (.measEvent g) s (fun t => t.scree.running = true ∧
    t.scree.gen = g + 1 ∧ t.rd F.screeCycle_cycle = (s.rd F.screeCycle_cycle + 1) % 256)) ∧
  (∀ (s : State) (h : Fin 48), s.scree.running = true → (s.screeCh h).startWaits = true →
    answers (.measDeferExpiry h) s (fun t => (t.screeCh h).startWaits = false ∧
      (t.screeCh h).start = some ⟨((s.screeCh h).ctag + 1) % 32, true⟩)) ∧
  (∀ (s : State) (h : Fin 48) (m : BackMsg), (s.screeCh h).buffer = [m] → m.closed = true → m.ack = false →
    s.scree.running = true → measOk (s.rd F.screeCycle_cycle) m.ctrl m.blocks = true →
    answers (.idleMeasRx h) s (fun t => bits m.ctrl 16 16 ∈ (t.screeCh h).got ∧ (t.screeCh h).buffer = [])) ∧
  (∀ s : State, s.scree.running = true → s.drvChannels.all (fun h => (s.screeCh h).got.length == 235) = true →
    answers .measCycleComplete s (fun t => t.scree.running = false ∧
      t.rd F.screeCycle_done = s.rd F.screeCycle_cycle)) ∧
  (∀ s : State, s.scree.running = true → answers .measTimeout s (fun t => t.scree.running = false ∧
    t.rd F.screeCycle_done = s.rd F.screeCycle_cycle))

/-- The Ream engines (R406, R407, R413, R416, R426): an idle engine takes the host descriptor at its ring's head; the
tail is taken within the ring; a size written while the ring is closed empties it; an overdue descriptor is noted; a held
one is released by its event; a job that ends frees its engine and moves DONE. -/
def Obligations.ReamRingsServe : Prop :=
  (∀ (s : State) (e : Fin 4), s.giveJobs = s → (s.engine e).run = none → (s.engine e).queued = none →
    s.reamPosted e = true → s.reamHostMode = true → s.mode ∉ [Md.park, Md.recovery] → s.noneBad = true →
    (reamDesc (s.bytes (s.ringAddr e (s.rd F.reamRingHead_count e)) 64)).hold = false →
    answers (.reamJobStart e) s (fun t =>
      t.rd F.reamRingHead_count e = (s.rd F.reamRingHead_count e + 1) % 2 ^ 32 ∧
      (t.engine e).run.map (fun r => (r.client, r.key, r.desc)) = some (1, s.rd F.reamRingHead_count e,
        reamDesc (s.bytes (s.ringAddr e (s.rd F.reamRingHead_count e)) 64)))) ∧
  (∀ (s : State) (e : Fin 4) (tail : Word), (tail.toNat + 2 ^ 32 - s.rd F.reamRingDone_count e) % 2 ^ 32 ≤ s.ringSize e →
    answers (.reamRingTail e tail) s (fun t => t.rd F.reamRingTail_count e = tail.toNat)) ∧
  (∀ (s : State) (e : Fin 4) (tail : Word), s.ringSize e < (tail.toNat + 2 ^ 32 - s.rd F.reamRingDone_count e) % 2 ^ 32 →
    answers (.reamRingTail e tail) s (fun t => t.flag F.reamRingStat_tailErr e = true ∧
      t.rd F.reamRingTail_count e = s.rd F.reamRingTail_count e)) ∧
  (∀ (s : State) (e : Fin 4) (v : Word), s.ringOpen e = true → answers (.reamRingSize e v) s (fun t =>
    t.ringSize e = ringPower (bits v.toNat 0 17) ∧ t.rd F.reamRingTail_count e = 0 ∧ t.rd F.reamRingHead_count e = 0 ∧
    t.rd F.reamRingDone_count e = 0)) ∧
  (∀ (s : State) (e : Fin 4), s.reamPosted e = true → answers (.reamHostOverdue e) s (fun t =>
    t.flag F.reamStat_hostOverdue e = true)) ∧
  (∀ (s : State) (e : Fin 4) (g : Fin 8), s.reamPosted e = true → s.noneBad = true →
    (reamDesc (s.bytes (s.ringAddr e (s.rd F.reamRingHead_count e)) 64)).hold = true → (s.engine e).released = false →
    answers (.reamHoldRelease e g) s (fun t => (t.engine e).released = true ∧ (t.engine e).gen = g + 1 ∧
      t.flag F.reamStat_holdWait e = false)) ∧
  (∀ (s : State) (e : Fin 4) (diff : Option Word) (r : ReamRun), (s.engine e).run = some r → r.client = 1 →
    answers (.reamJobDone e diff) s (fun t => (t.engine e).run = none ∧
      t.rd F.reamRingDone_count e = (r.key + 1) % 2 ^ 32))

/-- The HBM controllers (R435 to R440, R443 to R446): contents follow the order of arrival; a slot issues the one waiting
read; a response ends the oldest issued request with its data; a first parity alert replays and a second ends; an
interval refreshes its bank; an idle pseudo-channel enters self-refresh, leaves it, or goes DOWN after a second try. -/
def Obligations.HbmControllersServe : Prop :=
  (∀ (s : State) (q : Fin 19) (u : Nat) (d : Bytes), u % 64 = 0 → u + 64 ≤ Config.hbmBytes → d.length = 64 →
    s.portInFlight q (hbmPc u / 4) < 32 → (s.pcs (hbmPc u)).writes.length < 64 → s.pcState (hbmPc u) ≠ 4 →
    answers (.hbmRequest q u true d 0) s (fun t => t.bytes u 64 = d ∧
      (t.pcs (hbmPc u)).writes.length = (s.pcs (hbmPc u)).writes.length + 1)) ∧
  (∀ (s : State) (q : Fin 19) (u : Nat), u % 64 = 0 → u + 64 ≤ Config.hbmBytes → s.portInFlight q (hbmPc u / 4) < 32 →
    (s.pcs (hbmPc u)).reads.length < 64 → s.pcState (hbmPc u) ≠ 4 → answers (.hbmRequest q u false [] 64) s (fun t =>
      t.hbm = s.hbm ∧ (t.pcs (hbmPc u)).reads.getLast?.map (·.data) = some (s.bytes u 64))) ∧
  (∀ (s : State) (p : Fin 64) (r : HbmReq), s.pcState p = 0 → (s.pcs p).reads = [r] → (s.pcs p).writes = [] →
    (s.pcs p).drain = false → hbmBank r.unit < 48 → answers (.hbmCommandSlot p) s (fun t =>
      (t.pcs p).reads = [] ∧ (t.pcs p).issued.length = (s.pcs p).issued.length + 1 ∧
      Output.dram p (hbmBank r.unit) (if r.write then 1 else 0) ∈ t.out)) ∧
  (∀ (s : State) (p : Fin 64) (r : HbmReq) (rest : List HbmReq), (s.pcs p).issued = r :: rest → r.refused = false →
    s.mem.bad = [] → answers (.hbmResponse p .ok) s (fun t => (t.pcs p).issued = rest ∧
      Output.hbmAnswer r.port r.unit r.data false ∈ t.out)) ∧
  (∀ (s : State) (p : Fin 64) (k : ParityKind), (s.pcs p).replay = false → answers (.hbmParityAlert p k) s (fun t =>
    (t.pcs p).replay = true ∧ (t.pcs p).issued = (s.pcs p).issued ∧
    t.rd (F.hbmCnt_count 3) = satAdd 32 (s.rd (F.hbmCnt_count 3)) 1)) ∧
  (∀ (s : State) (p : Fin 64), (s.pcs p).replay = true → answers (.hbmParityAlert p .commandAddress) s (fun t =>
    (t.pcs p).replay = false ∧ (t.pcs p).issued = [])) ∧
  (∀ (s : State) (p : Fin 64) (b : Fin 48), s.pcState p = 0 → (s.pcs p).reads = [] → (s.pcs p).writes = [] →
    answers (.hbmRefresh p b) s (fun t => Sparse.get (fun _ => 0) (t.pcs p).postponed b = 0 ∧
      Output.dram p b 2 ∈ t.out)) ∧
  (∀ (s : State) (p : Fin 64), s.rd F.hbmPolicy_srPolicy = 2 → s.pcState p = 0 → (s.pcs p).reads = [] →
    (s.pcs p).writes = [] → answers (.srIdleExpiry p) s (fun t => t.pcState p = 1)) ∧
  (∀ (s : State) (p : Fin 64), s.pcState p = 3 → answers (.srExitDone p) s (fun t =>
    t.pcState p = 0 ∧ (t.pcs p).exitTries = 0)) ∧
  (∀ (s : State) (p : Fin 64), s.pcState p = 3 → answers (.srExitTimeout p) s (fun t =>
    if (s.pcs p).exitTries = 0 then (t.pcs p).exitTries = 1 ∧ t.pcState p = 3
    else t.pcState p = 4 ∧ t.flag F.hbmStat_pcDown = true))

/-- The memory's upkeep (R431, R442 to R444, R447, R448): BAR2 writes and reads HBM; the scrub takes its row, or its
guaranteed one; the temperatures set the refresh rate; drift asks for a retraining; a speed change and a retraining
begin, and a policy is set, where the mode allows them. -/
def Obligations.HbmUpkeep : Prop :=
  (∀ (s : State) (a : BitVec 36) (d : Bytes), s.flag F.hostStat_d3hot = false → s.bar2Open = true →
    a.toNat < Config.hbmBytes → s.writeProtected a.toNat d.length = false → s.noneBad = true →
    answers (.bar2Access a true d 0) s (fun t => t.bytes a.toNat d.length = d)) ∧
  (∀ (s : State) (a : BitVec 36) (n : Nat), s.flag F.hostStat_d3hot = false → s.bar2Open = true →
    a.toNat < Config.hbmBytes → s.noneBad = true → s.chief.tristate = false → answers (.bar2Access a false [] n) s
      (fun t => t.out = s.out ++ [.busAnswer (s.bytes a.toNat n) false])) ∧
  (∀ (s : State) (p : Fin 64), s.pcState p = 0 → (s.pcs p).reads = [] → (s.pcs p).writes = [] →
    answers (.hbmScrubRow p []) s (fun t => (t.pcs p).scrubRow = (s.pcs p).scrubRow + 1)) ∧
  (∀ (s : State) (p : Fin 64), (s.pcs p).scrubDeferred = true → answers (.scrubDeferExpiry p) s (fun t =>
    (t.pcs p).scrubDue = true)) ∧
  (∀ (s : State) (a b : BitVec 8), answers (.hbmTempRead a b) s (fun t => t.rd F.hbmTemp_stack0 = a.toNat ∧
    t.rd F.hbmTemp_stack1 = b.toNat ∧ (105 < max a.toInt b.toInt → 2 ≤ t.rd F.hbmStat_refresh))) ∧
  (∀ (s : State) (p : Fin 64), answers (.intervalOscillatorDrift p) s (fun t =>
    t.flag F.hbmPcStat_retrainNeeded p = true ∧ t.flag F.hbmStat_retrainNeeded = true)) ∧
  (∀ (s : State) (c : CmdRef) (v : BitVec 8), s.serves c = true → s.stewardHalted 3 = false → s.cmMode = true →
    v.toNat ≤ 2 → s.mem.target = none → v.toNat ≠ s.rd F.hbmStat_speed → answers (.hbmSetSpeed c v) s (fun t =>
      t.mem.target = some (c, v.toNat) ∧ t.rd F.hbmStat_state = 4 ∧ t.mem.training = false)) ∧
  (∀ (s : State) (c : CmdRef), s.serves c = true → s.stewardHalted 3 = false → s.cmMode = true → s.mem.target = none →
    answers (.hbmRetrain c) s (fun t => t.mem.training = true ∧ t.rd F.hbmStat_state = 2)) ∧
  (∀ (s : State) (c : CmdRef) (p : BitVec 8) (us : BitVec 16), s.serves c = true → s.stewardHalted 3 = false →
    p.toNat ≤ 2 → 10 ≤ us.toNat → answers (.hbmSetPolicy c p us) s (fun t => t.rd F.hbmPolicy_srPolicy = p.toNat ∧
      t.rd F.hbmPolicy_srIdleUs = us.toNat ∧ t.reported c 0x22 St.done = true))

/-- The DMA channels (R469 to R471, R474, R476 to R478): START or a Cairn consumer fetches the descriptor at DESC; a good
descriptor is taken, and with WAIT held; a copy within HBM moves a piece of at most 4 KiB; host data reach their
destination; the end of a chain idles the channel; an abort halts it, and so does a bus error. -/
def Obligations.DmaChannelsMove : Prop :=
  (∀ (s : State) (i : Fin 32), s.hostHolds (Res.dma + i) = true → (s.dmaState i = Ds.idle ∨ s.dmaState i = Ds.halted) →
    answers (.dmaStart i) s (fun t => t.dmaState i = Ds.fetch ∧ t.rd F.dmaCount_chCount i = 0 ∧
      (t.dma i).descAddr = s.rd64 F.dmaDescLo_desc F.dmaDescHi_desc i / 64 * 64)) ∧
  (∀ (s : State) (i : Fin 32) (g : Fin 8), (s.dmaState i = Ds.idle ∨ s.dmaState i = Ds.halted) →
    answers (.dmaStartEvent i g) s (fun t => t.dmaState i = Ds.fetch ∧ (t.dma i).chainGen = g + 1 ∧
      (t.dma i).descAddr = s.rd64 F.dmaDescLo_desc F.dmaDescHi_desc i / 64 * 64)) ∧
  (∀ (s : State) (i : Fin 32) (g : Fin 8), s.dmaState i = Ds.wait → answers (.dmaStartEvent i g) s (fun t =>
    t.dmaState i = Ds.run)) ∧
  (∀ (s : State) (i : Fin 32), s.hostHolds (Res.dma + i) = true → s.dmaState i = Ds.run → (s.dma i).reads = [] →
    answers (.dmaAbort i) s (fun t => t.dmaState i = Ds.halted ∧ t.rd F.dmaStat_cause i = Dc.aborted ∧
      (t.dma i).desc = none)) ∧
  (∀ (s : State) (i : Fin 32) (b : Bytes), s.dmaState i = Ds.fetch → (s.dma i).aborting = false →
    (s.dma i).descHbm = false → b.length = 64 → s.dmaFault b (dmaDesc b) = none → answers (.dmaDescFetch i b) s (fun t =>
      (t.dma i).desc = some (dmaDesc b) ∧ t.dmaState i = (if (dmaDesc b).wait then Ds.wait else Ds.run))) ∧
  (∀ (s : State) (i : Fin 32) (d : DmaDesc), s.dmaState i = Ds.run → (s.dma i).desc = some d →
    (s.dma i).done = d.len → (s.dma i).reads = [] → (s.dma i).wroteBack = false → d.endFlag = true → d.wb = false →
    answers (.dmaDescComplete i) s (fun t => t.dmaState i = Ds.idle ∧ (t.dma i).desc = none)) ∧
  (∀ (s : State) (i : Fin 32), s.dmaState i = Ds.fetch → (s.dma i).descHbm = false → answers (.dmaBusError i) s (fun t =>
    t.dmaState i = Ds.halted ∧ t.rd F.dmaStat_cause i = Dc.busError)) ∧
  (∀ (s : State) (i : Fin 32) (b : Bytes) (d : DmaDesc) (off : Nat) (rest : List (Nat × Nat)), s.dmaState i = Ds.run →
    (s.dma i).desc = some d → (s.dma i).reads = (off, b.length) :: rest → b ≠ [] → s.noneBad = true →
    answers (.pcieCompletionRx i b) s (fun t => t.bytes (d.dst + off) b.length = b ∧
      (t.dma i).done = (s.dma i).done + b.length)) ∧
  (∀ (s : State) (i : Fin 32) (d : DmaDesc), (List.range 6).filter s.ringWants = [] →
    (List.range 32).filter s.dmaWants = [i.val] → (s.dma i).desc = some d → d.dir = 2 → s.noneBad = true →
    answers .dmaPiece s (fun t => (t.dma i).read = (s.dma i).read + min 4096 (d.len - (s.dma i).read) ∧
      t.bytes (d.dst + (s.dma i).read) (min 4096 (d.len - (s.dma i).read)) =
        s.bytes (d.src + (s.dma i).read) (min 4096 (d.len - (s.dma i).read)))) ∧
  (∀ (s : State) (i : Fin 32) (d : DmaDesc), s.dmaWants i = true → s.flag F.dmaCtl_prio i = false →
    (s.dma i).desc = some d → d.dir = 2 → s.noneBad = true → answers (.dmaPieceDeferExpiry i) s (fun t =>
      (t.dma i).read = (s.dma i).read + min 4096 (d.len - (s.dma i).read)))

/-- The host commands and their completions (R453, R455, R457, R464, R465, R451, R480): a TAIL within the completion slots
is accepted; CMD_EN restarts the ring empty; a good entry waits for its controller; NOP and PARK_STATUS complete; a
command past its limit completes with TIMEOUT. -/
def Obligations.HostCommandsComplete : Prop :=
  (∀ (s : State) (v : Word), (v.toNat + 2 ^ 32 - s.rd F.hostCmdFetched_count) % 2 ^ 32 + s.outstanding ≤ 4096 →
    answers (.hostCmdTail v) s (fun t => t.rd F.hostCmdTail_count = v.toNat ∧
      t.flag F.hostCmdCtl_tailErr = s.flag F.hostCmdCtl_tailErr)) ∧
  (∀ (s : State) (v : Word), 4096 < (v.toNat + 2 ^ 32 - s.rd F.hostCmdFetched_count) % 2 ^ 32 + s.outstanding →
    answers (.hostCmdTail v) s (fun t => t.rd F.hostCmdTail_count = s.rd F.hostCmdTail_count ∧
      t.flag F.hostCmdCtl_tailErr = true)) ∧
  (∀ s : State, s.flag F.hostCmdCtl_cmdEn = false → answers .cmdEnSet s (fun t => t.flag F.hostCmdCtl_cmdEn = true ∧
    t.rd F.hostCmdTail_count = 0 ∧ t.rd F.hostCmdFetched_count = 0)) ∧
  (∀ (s : State) (b : Bytes), s.flag F.hostCmdCtl_cmdEn = true → s.flag F.chiefMode_ready = true →
    s.rd F.hostCmdFetched_count ≠ s.rd F.hostCmdTail_count → s.outstanding < 4096 →
    s.readMem (s.cmdBase + 64 * (s.rd F.hostCmdFetched_count % 4096)) 64 = some b →
    entryFault b (s.rd F.hostCmdAccepted_count) = none → answers .cmdFetch s (fun t =>
      t.rd F.hostCmdAccepted_count = leAt b 0 4 ∧ t.host.outstanding = s.host.outstanding ++ [outCmd b none] ∧
      t.rd F.hostCmdFetched_count = (s.rd F.hostCmdFetched_count + 1) % 2 ^ 32)) ∧
  (∀ (s : State) (c : CmdRef), s.serves c = true → answers (.nop c) s (fun t => t.reported c 0x00 St.done = true)) ∧
  (∀ (s : State) (c : CmdRef), s.serves c = true → answers (.parkStatus c) s (fun t => t.reported c 0x03 St.done = true)) ∧
  (∀ (s : State) (c : CmdRef) (o : OutCmd), s.findCmd c = some o → o.opcode ∉ unlimited →
    s.host.timedOut.any (fun x => x.cseq == c.cseq && x.stream == streamOf c) = false →
    answers (.cmdLimitTimeout c) s (fun t => t.reported c o.opcode St.timeout = true ∧
      t.host.timedOut.any (fun x => x.cseq == c.cseq) = true))

/-- The output rings, the transmit ring and the digest (R460 to R462, R465, R468): EN empties a ring; CONS moves within
what was written, else CONS_ERR; an entry is written and PROD advances by one; a held signal goes at its time; a posted
frame is sent and TX_HEAD advances; a snapshot shows 64 bytes, and one more while it runs is ignored. -/
def Obligations.HostRingsServe : Prop :=
  (∀ (s : State) (k : Fin 6), s.flag F.ringCtl_en k = false → answers (.ringEnable k) s (fun t =>
    t.flag F.ringCtl_en k = true ∧ t.rd F.ringProd_count k = 0 ∧ t.rd F.ringCons_count k = 0)) ∧
  (∀ (s : State) (k : Fin 6) (v : Word), (v.toNat + 2 ^ 32 - s.rd F.ringCons_count k) % 2 ^ 32 ≤ s.outUsed k →
    answers (.ringConsWrite k v) s (fun t => t.rd F.ringCons_count k = v.toNat)) ∧
  (∀ (s : State) (k : Fin 6) (v : Word), s.outUsed k < (v.toNat + 2 ^ 32 - s.rd F.ringCons_count k) % 2 ^ 32 →
    answers (.ringConsWrite k v) s (fun t => t.rd F.ringCons_count k = s.rd F.ringCons_count k ∧
      t.flag F.ringCtl_consErr k = true)) ∧
  (∀ (s : State) (k : Fin 6) (e : Bytes), k.val ≠ 5 → s.outNext k = some e → s.outOpen k = true →
    s.outUsed k + 1 ≤ s.outSize k → s.chief.tristate = false → answers (.ringEntryWrite k) s (fun t =>
      t.rd F.ringProd_count k = (s.rd F.ringProd_count k + 1) % 2 ^ 32 ∧
      Output.busWrite (s.outAddr k (s.outEntry k * (s.rd F.ringProd_count k % s.outSize k))) e ∈ t.out)) ∧
  (∀ (s : State) (v : Fin 64), modRing v ≠ none → Sparse.get (fun _ => 0) s.host.unsignalled v ≠ 0 →
    answers (.ringModTimeout v) s (fun t => Sparse.get (fun _ => 0) t.host.unsignalled v = 0)) ∧
  (∀ (s : State) (v : Word), (v.toNat + 2 ^ 32 - s.rd F.hostTxHead_count) % 2 ^ 32 ≤ s.txSize →
    answers (.hostTxTail v) s (fun t => t.rd F.hostTxTail_count = v.toNat)) ∧
  (∀ (s : State) (m : Int) (h f : Bytes), s.flag F.hostTxCtl_en = true →
    s.rd F.hostTxHead_count ≠ s.rd F.hostTxTail_count →
    s.readMem (s.rd64 F.hostTxBaseLo_base F.hostTxBaseHi_base + 9728 * (s.rd F.hostTxHead_count % s.txSize)) 64 = some h →
    60 ≤ leAt h 0 2 → leAt h 0 2 ≤ 9596 → leAt h 2 1 < 16 → s.macPort (leAt h 2 1) = true →
    s.flag F.macStat_linkUp (leAt h 2 1) = true → leAt h 3 1 = 0 → (h.drop 6).any (· != 0) = false →
    s.readMem (s.rd64 F.hostTxBaseLo_base F.hostTxBaseHi_base + 9728 * (s.rd F.hostTxHead_count % s.txSize) + 64)
      (leAt h 0 2) = some f → s.chief.tristate = false → answers (.txFrameSend m) s (fun t =>
        Output.frame (leAt h 2 1) f ∈ t.out ∧ t.rd F.hostTxHead_count = (s.rd F.hostTxHead_count + 1) % 2 ^ 32)) ∧
  (∀ s : State, s.host.digestRunning = false → answers .digestSnap s (fun t => t.host.digestRunning = true ∧
    t.host.digestSeq = (s.host.digestSeq + 1) % 2 ^ 32 ∧ t.flag F.hostDigestCtl_done = false)) ∧
  (∀ s : State, s.host.digestRunning = true → answers .digestSnap s (fun t => t = s)) ∧
  (∀ s : State, s.host.digestRunning = true → answers .digestDone s (fun t => t.host.digestRunning = false ∧
    t.flag F.hostDigestCtl_done = true)) ∧
  (∀ (s : State) (g w : BitVec 4), answers (.pcieLinkUp g w) s (fun t => t.flag F.hostStat_linkUp = true ∧
    t.rd F.hostStat_gen = g.toNat ∧ t.rd F.hostStat_width = w.toNat)) ∧
  (∀ s : State, answers .d3hotEntry s (fun t => t.flag F.hostStat_d3hot = true)) ∧
  (∀ s : State, answers .d0Return s (fun t => t.flag F.hostStat_d3hot = false)) ∧
  (∀ s : State, answers .flrComplete s (fun t => t.host.flr = false))

/-- Stewards, the clock monitor and claims (R18, R19, R27, R85, R86): three heartbeats missed restart a Steward and a
fourth restart within 1.0 s halts it; a measured frequency is shown and judged within 1 %; CLAIM of a free resource takes
it, of a held one gives CONFLICT, and RELEASE by its own domain frees it. -/
def Obligations.StewardsAndClaims : Prop :=
  (∀ (s : State) (i : Fin 4), s.stewardState i = 0 → s.update.activation = none →
    ((Sparse.get (fun _ => []) s.chief.restarts i).filter (fun t => decide (s.clock < t + 250000000))).length < 3 →
    answers (.stewardHeartbeatMiss i) s (fun t => t.stewardState i = 1 ∧
      t.stewardRestarts i = satAdd 6 (s.stewardRestarts i) 1)) ∧
  (∀ (s : State) (i : Fin 4), s.stewardState i = 0 → s.update.activation = none →
    3 ≤ ((Sparse.get (fun _ => []) s.chief.restarts i).filter (fun t => decide (s.clock < t + 250000000))).length →
    answers (.stewardHeartbeatMiss i) s (fun t => t.stewardState i = 2)) ∧
  (∀ (s : State) (i : Fin 4), s.stewardState i = 1 → answers (.stewardRestartDone i) s (fun t => t.stewardState i = 0)) ∧
  (∀ (s : State) (i : BitVec 8) (f : BitVec 24), islandAssigned i.toNat = true → s.isGated i.toNat = false →
    s.nominalKhz i.toNat ≠ 0 → answers (.clockMonitorSample [(i, f)]) s (fun t => (t.isl i.toNat).freqKhz = f.toNat ∧
      ((t.isl i.toNat).clkOk = true ↔
        (Int.fdiv (((f.toNat : Int) - s.nominalKhz i.toNat) * 10000) (s.nominalKhz i.toNat)).natAbs ≤ 100))) ∧
  (∀ (s : State) (c : CmdRef) (r : BitVec 16) (g : BitVec 12), s.serves c = true → s.mode ≠ Md.park →
    r.toNat < Res.count → s.reservedFor r.toNat = none → s.ownerDomain r.toNat = Dom.free →
    answers (.claim c r g) s (fun t => t.owner r.toNat = ownerOf c + g.toNat ∧ t.reported c 0x06 St.done = true)) ∧
  (∀ (s : State) (c : CmdRef) (r : BitVec 16) (g : BitVec 12), s.serves c = true → s.mode ≠ Md.park →
    r.toNat < Res.count → s.reservedFor r.toNat = none → s.ownerDomain r.toNat ≠ Dom.free →
    s.owner r.toNat ≠ ownerOf c + g.toNat → answers (.claim c r g) s (fun t => t.owner r.toNat = s.owner r.toNat ∧
      t.reported c 0x06 St.conflict = true)) ∧
  (∀ (s : State) (c : CmdRef) (r : BitVec 16), s.serves c = true → s.mode ≠ Md.park → r.toNat < Res.count →
    s.ownerDomain r.toNat ≠ Dom.free → s.ownerDomain r.toNat = ownerOf c / 4096 → answers (.release c r) s (fun t =>
      t.ownerDomain r.toNat = Dom.free ∧ t.reported c 0x07 St.done = true))

/-- Mode changes (R22 to R24, R44 to R50, R64): SET_MODE opens a joint change for the image's run mode, and begins
MAINTAIN; an answer READY counts, and the fourth commits; a missing one aborts; a change is applied at its timeout; MODE
changes as the last agent reports; the exit from INSPECT ends with its drain or its cut; PARK begins its second step. -/
def Obligations.ModeChanges : Prop :=
  (∀ (s : State) (c : CmdRef) (m : BitVec 8) (now : Bool), s.serves c = true → s.changing = false →
    s.chief.waiting = [] → s.mode = Md.configure → (m.toNat = Md.inspect ∨ m.toNat = Md.expose) →
    s.rd F.cfgStat_runMode = m.toNat → [0, 1, 2, 3].map s.stewardState = [0, 0, 0, 0] →
    s.failedFor m.toNat none = none → answers (.setMode c m now) s (fun t =>
      t.chief.joint = some { kind := .enter m.toNat } ∧ t.flag F.chiefMode_transition = true ∧
      t.rd F.chiefMode_target = m.toNat ∧ t.mode = Md.configure)) ∧
  (∀ (s : State) (c : CmdRef) (now : Bool), s.serves c = true → s.changing = false → s.chief.waiting = [] →
    s.mode = Md.configure → answers (.setMode c 4 now) s (fun t =>
      t.chief.trans = some { cmd := c, opcode := 1, newMode := Md.maintain, applied := true } ∧
      t.flag F.chiefMode_transition = true)) ∧
  (∀ (s : State) (i : Fin 4) (j : Joint), s.chief.joint = some j → j.committed = false → i.val ∉ j.ready →
    s.stewardState i = 0 → j.kind = .load → j.ready.length < 3 → answers (.stewardAnswer i none) s (fun t =>
      t.chief.joint = some { j with ready := j.ready ++ [i.val] })) ∧
  (∀ (s : State) (i : Fin 4) (j : Joint) (m : Nat), s.chief.joint = some j → j.committed = false → i.val ∉ j.ready →
    s.stewardState i = 0 → j.kind = .enter m → s.entryRefusal m i = none → j.ready.length = 3 → s.reel.v = 0 →
    answers (.stewardAnswer i none) s (fun t => t.chief.joint = none ∧ t.chief.path = m)) ∧
  (∀ (s : State) (j : Joint) (t : Trans), s.chief.joint = some j → j.committed = false → s.cfg.load = none →
    s.chief.trans = some t → t.opcode = 1 → s.serves t.cmd = true → s.chief.waiting = [] →
    answers .jointAnswerTimeout s (fun u => u.chief.joint = none ∧ u.chief.trans = none ∧
      u.rd F.chiefJointStat_state = 4 ∧ u.reported t.cmd 0x01 St.timeout = true)) ∧
  (∀ (s : State) (j : Joint) (l : Int) (m : Nat), s.chief.joint = some j → j.target = some l → j.kind = .enter m →
    answers .jointTargetTimeout s (fun t => t.chief.joint = none ∧ t.chief.path = m)) ∧
  (∀ (s : State) (t : Trans), s.chief.joint = none → s.chief.trans = some t → t.applied = true → t.opcode = 1 →
    t.newMode < 5 → (s.mode = Md.configure ∨ s.mode = Md.maintain) → s.serves t.cmd = true → s.chief.waiting = [] →
    answers .agentApplied s (fun u => u.mode = t.newMode ∧ u.chief.trans = none ∧ u.flag F.chiefMode_transition = false ∧
      u.rd F.chiefTransStat_from = s.mode ∧ u.reported t.cmd 0x01 St.done = true)) ∧
  (∀ (s : State) (t : Trans), s.draining = some t → s.pathEmpty = true → t.opcode = 1 → s.serves t.cmd = true →
    s.chief.waiting = [] → answers .modeDrainDone s (fun u => u.mode = Md.configure ∧ u.chief.trans = none ∧
      u.flag F.chiefTransStat_cut = false ∧ u.reported t.cmd 0x01 St.done = true)) ∧
  (∀ (s : State) (t : Trans), s.draining = some t → s.pathEmpty = false → t.opcode = 1 → s.chief.waiting = [] →
    answers .drainCut s (fun u => u.mode = Md.configure ∧ u.chief.trans = none ∧
      u.flag F.chiefTransStat_cut = true)) ∧
  (∀ (s : State) (c : CmdRef), s.serves c = true → s.changing = false → s.chief.waiting = [] →
    (s.mode = Md.configure ∨ s.mode = Md.maintain) → s.lockHolder = none → answers (.park c) s (fun t =>
      t.chief.trans = some { cmd := c, opcode := 2, newMode := Md.park, applied := true } ∧
      t.rd F.chiefParkStat_step = 2 ∧ t.lockHolder = some parkHolder))

/-- Loading an image and activating a set (R89, R92, R527 to R529): an image that passes its checks opens a joint change;
its load completes; a staged set that passes its checks begins its activation, and one without a new image completes
DONE with the lock free. -/
def Obligations.LoadAndActivate : Prop :=
  (∀ (s : State) (c : CmdRef) (a : BitVec 64) (n : Word) (img : Image), s.serves c = true → s.changing = false →
    s.chief.waiting = [] → s.mode = Md.configure → s.lockHolder = none → a.toNat % 64 = 0 → n.toNat ≠ 0 →
    n.toNat ≤ imageMax → a.toNat + n.toNat ≤ Config.hbmBytes →
    ((((s.takeCmd c).takeLock loadHolder).wr F.cfgStat_state 0 1).checkHbm a.toNat n.toNat).toOption = some img →
    ((((s.takeCmd c).takeLock loadHolder).wr F.cfgStat_state 0 1).wr F.cfgStat_state 0 2).dryPass img true c.stream.isNone
      = none →
    [0, 1, 2, 3].map s.stewardState = [0, 0, 0, 0] → answers (.loadImage c a n) s (fun t =>
      t.cfg.load = some { cmd := c, addr := a.toNat, len := n.toNat, image := some img } ∧
      t.chief.joint = some { kind := .load } ∧ t.rd F.cfgStat_state = 2 ∧ t.lockHolder = some loadHolder)) ∧
  (∀ (s : State) (l : Load), s.cfg.load = some l → s.chief.joint = none → s.rd F.cfgStat_state = 3 →
    s.rd F.cfgStat_startMode = 1 → s.serves l.cmd = true → s.chief.waiting = [] → answers .loadImageDone s (fun t =>
      t.cfg.load = none ∧ t.rd F.cfgStat_state = 4 ∧ t.rd F.cfgStat_loads = satAdd 16 (s.rd F.cfgStat_loads) 1 ∧
      t.lockHolder = none ∧ t.reported l.cmd 0x05 St.done = true)) ∧
  (∀ (s : State) (c : CmdRef) (x : Session) (img : Image), s.serves c = true → s.changing = false →
    s.chief.waiting = [] → s.mode ≠ Md.park → s.ownSession c = some x → s.rd F.updStat_state = Us.staged →
    (partOfType x.got 6).map (·.2.digest) = (partOfType (s.manifest s.activeBank) 6).map (·.2.digest) →
    (List.range 6).find? (fun i => !s.bankPartOk (1 - s.activeBank) i) = none →
    (s.checkBytes (s.bankImage (1 - s.activeBank))).toOption = some img → answers (.updateActivate c) s (fun t =>
      t.update.activation = some { cmd := c, image := none } ∧ t.rd F.updStat_state = Us.activating)) ∧
  (∀ (s : State) (c : CmdRef), s.update.activation = some { cmd := c, image := none } → s.serves c = true →
    s.chief.waiting = [] → answers .activationDone s (fun t => t.update.activation = none ∧ t.update.session = none ∧
      t.lockHolder = none ∧ t.rd F.updStat_state = Us.idle ∧ t.reported c 0x62 St.done = true))

/-- Resets and power (R52 to R57, R552 to R554): an ordered device reset, the watchdog, a pin reset and a power-on reset
record their cause and lose HBM; a pulse the filter rejects is a glitch; RESET_N rising latches BOOT_SEL; the main supply
rises, falls and discharges in turn. -/
def Obligations.ResetsAndPower : Prop :=
  (∀ (s : State) (c : CmdRef), s.serves c = true → answers (.resetDevice c) s (fun t => t.chief.resetOrdered = true)) ∧
  (∀ s : State, s.chief.resetOrdered = true → answers .deviceReset s (fun t =>
    t.rd F.chiefResetCause_last = Rc.device ∧ t.chief.resetOrdered = false ∧ t.hbm = [] ∧ t.flash = s.flash ∧
    t.fuses = s.fuses ∧ t.keys = [] ∧ t.mode = (if s.rd F.chiefBoot_bootSel = 3 then Md.testHold else Md.starting))) ∧
  (∀ s : State, s.chief.inReset = false → answers .watchdogReset s (fun t =>
    t.rd F.chiefResetCause_last = Rc.watchdog ∧ t.rd F.chiefResetCause_resets = satAdd 16 (s.rd F.chiefResetCause_resets) 1 ∧
    t.hbm = [] ∧ t.flash = s.flash)) ∧
  (∀ s : State, answers .watchdogService s (fun t => t.chief.watchdog = s.clock)) ∧
  (∀ s : State, answers .resetNFall s (fun t => t.chief.tristate = true)) ∧
  (∀ s : State, answers .pinReset s (fun t => t.rd F.chiefResetCause_last = Rc.pin ∧ t.chief.tristate = true ∧
    t.chief.inReset = true ∧ t.hbm = [] ∧ t.flash = s.flash)) ∧
  (∀ (s : State) (b : BitVec 2), s.chief.inReset = true → s.chief.power = 2 → answers (.resetNRise b) s (fun t =>
    t.rd F.chiefBoot_bootSel = b.toNat ∧ t.chief.inReset = false ∧ t.chief.tristate = false ∧
    t.chief.riseAt = s.clock)) ∧
  (∀ (s : State) (b : BitVec 2), s.chief.inReset = false → s.chief.tristate = true → answers (.resetNRise b) s (fun t =>
    t.flag F.chiefResetCause_glitch = true ∧ t.chief.tristate = false ∧ t.hbm = s.hbm)) ∧
  (∀ (s : State) (i t : Bool), answers (.powerOnReset i t) s (fun u => u.rd F.chiefResetCause_last = Rc.por ∧
    u.rd F.chiefResetCause_resets = 0 ∧ u.chief.power = 1 ∧ u.hbm = [] ∧ u.logQueue = [] ∧
    u.flag F.idFuse_fuseErr = !i ∧ u.flag F.idFuse_trimErr = !t)) ∧
  (∀ s : State, answers .standbyOff s (fun t => t.chief.power = 0 ∧ t.chief.tristate = true)) ∧
  (∀ s : State, s.chief.power = 1 → s.chief.rose = none → answers .mainPowerUp s (fun t => t.chief.power = 2)) ∧
  (∀ s : State, s.chief.power = 3 → answers .mainPowerUp s (fun t => t.chief.power = 4)) ∧
  (∀ s : State, s.chief.power = 2 → answers .mainPowerDown s (fun t => t.chief.power = 3 ∧
    t.chief.tristate = true ∧ t.rd F.chiefResetCause_last = Rc.pin ∧ t.hbm = [])) ∧
  (∀ s : State, s.chief.power = 3 → answers .mainDischargeDone s (fun t => t.chief.power = 1)) ∧
  (∀ s : State, s.chief.power = 4 → s.chief.rose = none → answers .mainDischargeDone s (fun t => t.chief.power = 2))

/-- The start, the park and the host reset (R58, R61, R63 to R65, R452, R458, R533, R578): phases follow one another to
READY; a timeout and a start without a bank count a failed boot; RECOVERY is ready at 3.2 Gb/s; PARK erases its token first
and gates HBM last; a host reset clears the rings and halts the channels; a report's completion takes the next DSEQ. -/
def Obligations.StartParkAndHostReset : Prop :=
  (∀ (s : State) (z b : Bool) (mf : List MemFail) (bs : List BadSpare) (cr : List CalResult) (rf : List HbmRowFail),
    s.mode = Md.starting → s.chief.inReset = false → s.rd F.chiefMode_phase = 2 →
    answers (.startupPhaseEnd z mf bs cr rf b) s (fun t => t.rd F.chiefMode_phase = 3 ∧
      t.rd F.chiefBoot_coldCause = s.coldCause ∧ t.chief.bootBank = s.chooseBank)) ∧
  (∀ (s : State) (z b : Bool) (mf : List MemFail) (bs : List BadSpare) (cr : List CalResult) (rf : List HbmRowFail),
    s.mode = Md.starting → s.chief.inReset = false → s.rd F.chiefMode_phase = 5 →
    answers (.startupPhaseEnd z mf bs cr rf b) s (fun t => t.rd F.chiefMode_phase = 6 ∧ t.test.run = none)) ∧
  (∀ (s : State) (z b : Bool) (mf : List MemFail) (bs : List BadSpare) (cr : List CalResult) (rf : List HbmRowFail),
    s.mode = Md.starting → s.chief.inReset = false → s.rd F.chiefMode_phase = 11 → s.rd F.cfgStat_startMode = 1 →
    s.chief.bootBank = s.activeBank → answers (.startupPhaseEnd z mf bs cr rf b) s (fun t => t.mode = Md.configure ∧
      t.flag F.chiefMode_ready = true ∧ t.rd F.chiefBoot_bootFails = 0 ∧ t.flag F.chiefBoot_unparkedRun = true)) ∧
  (∀ s : State, s.mode = Md.starting → s.chief.inReset = false → answers .bootTimeout s (fun t =>
    t.rd F.chiefBoot_bootFails = satAdd 2 (s.rd F.chiefBoot_bootFails) 1 ∧ t.rd F.chiefResetCause_last = Rc.device)) ∧
  (∀ s : State, s.mode = Md.recovery → s.flag F.chiefMode_ready = false → answers .recoveryReady s (fun t =>
    t.flag F.chiefMode_ready = true ∧ t.rd F.hbmStat_speed = 2 ∧ t.rd F.hbmStat_state = 3)) ∧
  (∀ (s : State) (t : Trans) (z : Bool) (mf : List MemFail) (bs : List BadSpare), s.chief.trans = some t →
    t.opcode = 2 → t.newMode = Md.park → s.rd F.chiefParkStat_step = 2 → answers (.parkStepDone false z mf bs) s (fun u =>
      u.rd F.chiefParkStat_step = 3 ∧ u.flashBytes tokenBase 4 = [0xFF, 0xFF, 0xFF, 0xFF])) ∧
  (∀ (s : State) (t : Trans) (z e : Bool) (mf : List MemFail) (bs : List BadSpare), s.chief.trans = some t →
    t.opcode = 2 → t.newMode = Md.park → s.rd F.chiefParkStat_step = 7 → s.serves t.cmd = true → s.chief.waiting = [] →
    answers (.parkStepDone e z mf bs) s (fun u => u.mode = Md.park ∧ u.hbm = [] ∧ u.lockHolder = none ∧
      u.rd F.hbmStat_state = 5 ∧ u.reported t.cmd 0x02 St.done = true)) ∧
  (∀ (s : State) (f l : Bool), answers (.hostReset f l) s (fun t =>
    t.rd F.chiefResetCause_hostResets = satAdd 8 (s.rd F.chiefResetCause_hostResets) 1 ∧
    t.flag F.hostCmdCtl_cmdEn = false ∧ t.flag F.hostStat_d3hot = false ∧ t.host.flr = f ∧
    (∀ k : Fin 6, t.flag F.ringCtl_en k = false) ∧ (∀ i : Fin 32, t.dmaState i = Ds.halted))) ∧
  (∀ (s : State) (c : CmdRef) (r : Report), s.findCmd c = none →
    s.host.reports.find? (fun x => x.cseq == c.cseq && x.stream == streamOf c) = some r → r.stream = none →
    answers (.cmdComplete c) s (fun t => t.host.reports = s.host.reports.erase r ∧
      t.host.completions = s.host.completions ++ [⟨r.bytes (s.rd F.hostCmdNextDseq_count) s.ns, r.intr⟩] ∧
      t.rd F.hostCmdNextDseq_count = (s.rd F.hostCmdNextDseq_count + 1) % 2 ^ 32))

/-- Self-tests and their results (R499, R501, R504, R508, R515): TEST_LOGIC begins a series over its islands; a slice ends
with its signature; the memory and HBM tests report; the HBM test keeps HOST_RINGS alone; scan access clears every
secret first. -/
def Obligations.SelfTests : Prop :=
  (∀ (s : State) (c : CmdRef) (i p n b : BitVec 8) (z : Bool), s.serves c = true → s.test.run = none →
    10 ≤ p.toNat → p.toNat ≤ 20 → n.toNat ≠ 0 → n.toNat ≤ 64 → b.toNat ≠ 0 → b.toNat ≤ 80 → testTargets i.toNat ≠ [] →
    7 ∉ testTargets i.toNat → 0x88 ∉ testTargets i.toNat → s.mode = Md.maintain → s.tooHot = false →
    answers (.testLogic c i p n b z) s (fun t => t.rd F.testStat_state = 1 ∧
      t.test.run.map (fun r => (r.cmd, r.patterns, r.slices, r.islands)) =
        some (some c, p.toNat, n.toNat, testTargets i.toNat))) ∧
  (∀ (s : State) (i : BitVec 8) (good : Bool) (sig : BitVec 64) (r : TestRun), s.test.run = some r →
    i.toNat ∈ r.islands → (r.isl i.toNat).ended = false → answers (.logicSliceDone i good sig) s (fun t =>
      t.rd (F.testCnt_count Tc.slices) = satAdd 32 (s.rd (F.testCnt_count Tc.slices)) 1 ∧
      t.rd F.testIsl_patterns i.toNat = r.patterns % 2 ^ F.testIsl_patterns.width ∧
      t.rd64 F.testIslSigLo_sig F.testIslSigHi_sig i.toNat = sig.toNat)) ∧
  (∀ (s : State) (i : BitVec 8) (sig : BitVec 64) (r : TestRun), s.test.run = some r →
    i.toNat ∈ r.islands → (r.isl i.toNat).ended = false → answers (.logicSliceBudget i sig) s (fun t =>
      t.rd (F.testCnt_count Tc.incomplete) = satAdd 32 (s.rd (F.testCnt_count Tc.incomplete)) 1 ∧
      t.rd64 F.testIslSigLo_sig F.testIslSigHi_sig i.toNat = sig.toNat)) ∧
  (∀ (s : State) (c : CmdRef) (i : BitVec 8) (z : Bool), s.serves c = true → s.test.run = none →
    testTargets i.toNat ≠ [] → 7 ∉ testTargets i.toNat → 0x88 ∉ testTargets i.toNat → s.mode = Md.maintain →
    s.tooHot = false → answers (.testMemory c i z [] []) s (fun t => t.reported c 0x41 St.done = true ∧
      t.rd F.testMemStat_entries = s.rd F.testMemStat_entries)) ∧
  (∀ (s : State) (c : CmdRef), s.serves c = true → s.test.run = none → s.mode = Md.maintain → s.tooHot = false →
    answers (.testHbm c []) s (fun t => t.reported c 0x42 St.done = true ∧
      t.hbm = (s.keepHbm (fun a => s.inRegion 5 a 1)).hbm)) ∧
  (∀ (s : State) (a b : Bool), answers (.jtagInstruction true a b) s (fun t => t.keys = [] ∧ t.layoutKeys = [] ∧
    t.rd (F.testCnt_count Tc.secretClears) = satAdd 32 (s.rd (F.testCnt_count Tc.secretClears)) 2)) ∧
  (∀ (s : State) (a b : Bool), answers (.jtagInstruction false a b) s (fun t => t = s))

/-- Calibration and the monitors (R511 to R515, R574): CALIBRATE and the recalibration timer move an element to its new
code; CAL_SET, THERM_SET and TEST_LOG_CLEAR set their registers; a temperature and a supply sample are shown, and ALERT
follows TJ_MAX. -/
def Obligations.CalibrationAndMonitors : Prop :=
  (∀ (s : State) (c : CmdRef) (r : CalResult), s.serves c = true → s.test.run = none → s.cmMode = true →
    answers (.calibrate c [r]) s (fun t =>
      (t.test.trims.lookup r.element).map (·.target) = some r.code ∧ t.flag F.testCal_calDone = true ∧
      t.reported c 0x43 St.done = true)) ∧
  (∀ (s : State) (c : CmdRef) (n : BitVec 16), s.serves c = true → 1 ≤ n.toNat → n.toNat ≤ 3600 → s.mode ≠ Md.park →
    answers (.calSet c n) s (fun t => t.rd F.testCal_recalS = n.toNat ∧ t.reported c 0x44 St.done = true)) ∧
  (∀ (s : State) (c : CmdRef) (a h : BitVec 8), s.serves c = true → 1 ≤ h.toNat → h.toNat ≤ 20 → s.mode ≠ Md.park →
    answers (.thermSet c a h) s (fun t => t.rd F.testTherm_alertC = a.toNat ∧ t.rd F.testTherm_hyst = h.toNat ∧
      t.reported c 0x45 St.done = true)) ∧
  (∀ (s : State) (c : CmdRef), s.serves c = true → s.cmMode = true → answers (.testLogClear c) s (fun t =>
    t.rd F.testMemStat_entries = 0 ∧ t.flag F.testMemStat_overflow = false ∧ t.flag F.testCal_outOfRange = false ∧
    (∀ k : Fin 7, t.rd (F.testCnt_count k) = 0) ∧ t.reported c 0x46 St.done = true)) ∧
  (∀ (s : State) (r : CalResult), s.served = true → s.mode ≠ Md.starting → s.test.run = none →
    answers (.recalTimer [r]) s (fun t => (t.test.trims.lookup r.element).map (·.target) = some r.code)) ∧
  (∀ (s : State) (l : List CalResult), s.test.deferred = true → answers (.recalDeferExpiry l) s (fun t =>
    t.test.deferred = false ∧ t.test.slot = some (s.clock + 50000) ∧
    t.rd (F.testCnt_count Tc.recalDeferred) = satAdd 32 (s.rd (F.testCnt_count Tc.recalDeferred)) 1)) ∧
  (∀ (s : State) (l : List (Option (BitVec 10))) (i : Fin 16) (v : BitVec 10), s.inSlot = false →
    l.getD i none = some v → answers (.thermalSample l) s (fun t => t.rd F.testSensor_temp i = v.toNat ∧
      t.flag F.testSensor_valid i = true ∧ v.toInt ≤ signed 10 (t.rd F.testTj_tjMax) ∧
      (4 * signed 8 (s.rd F.testTherm_alertC) ≤ v.toInt → t.flag F.testTj_alert = true))) ∧
  (∀ (s : State) (v p : BitVec 16), s.inSlot = false → answers (.supplySample v p) s (fun t =>
    t.rd F.chiefPwr_vinMv = v.toNat ∧ t.rd F.chiefPwrW_power = p.toNat ∧
    (v.toNat < 11400 → t.flag F.chiefPwr_vinLow = true) ∧ (12600 < v.toNat → t.flag F.chiefPwr_vinHigh = true)))

/-- Update sessions (R522 to R525, R542): a network session begins with the lock and takes the bytes that follow those
received; UPDATE_STATUS answers; an abort frees the lock; a package that stages whole is STAGED; a session that waits too
long fails with TIMEOUT and the lock is free. -/
def Obligations.UpdateSessions : Prop :=
  (∀ (s : State) (c : CmdRef) (a : BitVec 64) (n : Word), s.serves c = true → s.mode ≠ Md.park → c.stream ≠ none →
    s.lockHolder = none → answers (.updateBegin c a n) s (fun t => t.lockHolder = some (ownerOf c + (s.update.tag % 4095 + 1)) ∧
      t.update.session = some { stream := streamOf c, addr := a.toNat, len := n.toNat } ∧
      t.rd F.updStat_state = Us.header ∧ t.reported c 0x60 St.done = true)) ∧
  (∀ (s : State) (c : CmdRef), s.serves c = true → s.mode ≠ Md.park → answers (.updateStatus c) s (fun t =>
    t.reported c 0x61 St.done = true)) ∧
  (∀ (s : State) (c : CmdRef) (o : Word) (d : Bytes) (x : Session), s.serves c = true → s.mode ≠ Md.park →
    c.stream ≠ none → s.ownSession c = some x → x.checked = false → o.toNat = x.got.length →
    x.got.length + d.length < manifestLen → s.rd F.updStat_state ≤ Us.staging → answers (.updateData c o d) s (fun t =>
      t.update.session = some { x with got := x.got ++ d } ∧ t.reported c 0x64 St.done = true)) ∧
  (∀ (s : State) (c : CmdRef) (x : Session), s.serves c = true → s.mode ≠ Md.park → s.ownSession c = some x →
    s.update.activation = none → answers (.updateAbort c) s (fun t => t.update.session = none ∧ t.lockHolder = none ∧
      t.rd F.updStat_state = Us.idle ∧ t.reported c 0x63 St.done = true)) ∧
  (∀ (s : State) (x : Session) (n i : Nat) (p : PartEntry) (b : Bytes) (img : Image), s.update.session = some x →
    s.rd F.updStat_state = Us.staging → x.stream = none → x.got.length = manifestLen → partTableOk x.got n = true →
    (List.range 6).all (fun j => ((s.partBytes x j).map sha384) == some (partOf x.got j).digest) = true →
    partOfType x.got 6 = some (i, p) → s.partBytes x i = some b → (s.checkBytes b).toOption = some img →
    answers (.updateStaged none none) s (fun t => t.rd F.updStat_state = Us.staged ∧
      t.rd F.updProgress_permille = 1000 ∧ t.rd F.updStagedVersion_value = leAt x.got 8 4 ∧
      t.bankImage (1 - s.activeBank) = b)) ∧
  (∀ s : State, s.update.session.any (fun x => x.stream.isSome) = true → s.rd F.updStat_state < Us.staged →
    answers .updateDataTimeout s (fun t => t.update.session = none ∧ t.lockHolder = none ∧
      t.rd F.updStat_state = Us.failed ∧ t.rd F.updLastErr_status = St.timeout)) ∧
  (∀ s : State, s.update.session ≠ none → s.rd F.updStat_state = Us.staged → answers .updateStageTimeout s (fun t =>
    t.update.session = none ∧ t.lockHolder = none ∧ t.rd F.updStat_state = Us.failed ∧
    t.rd F.updLastErr_status = St.timeout))

/-- Keys, fuses, attestation, network management and the SMBus target (R526, R534 to R542): a good blob sets its slot; the
slots are restored from the flash; a fuse is blown under its signature; a statement is written; MGMT_HELLO opens a stream
under a MGMT slot; CAIRN_SECURE writes a secure column; a target answers its block reads, and its reset is ordered. -/
def Obligations.KeysAndSecurity : Prop :=
  (∀ (s : State) (c : CmdRef) (a : BitVec 64) (b : Bytes) (k : KeySlot), s.serves c = true → s.cmMode = true →
    (s.readForCommand a.toNat 312).toOption = some b → s.blobFault b = none → s.blobKey b = some k →
    answers (.keyLoad c a) s (fun t => t.key (leAt b 5 1) = k ∧ t.reported c 0x68 St.done = true)) ∧
  (∀ (s : State) (c : CmdRef), s.serves c = true → s.mode ≠ Md.park → answers (.keyStatus c) s (fun t =>
    t.reported c 0x6A St.done = true ∧ t.keys = s.keys)) ∧
  (∀ (s : State) (c : CmdRef) (n o : BitVec 64) (w : BitVec 8) (b : Bytes), s.serves c = true → s.mode ≠ Md.park →
    w.toNat ≤ 1 → o.toNat + 400 ≤ Config.hbmBytes → (s.readForCommand n.toNat 32).toOption = some b → s.noneBad = true →
    answers (.attest c n o w) s (fun t =>
      t.bytes o.toNat (s.attestation b w.toNat).length = s.attestation b w.toNat ∧
      t.reported c 0x70 St.done = true)) ∧
  (∀ (s : State) (c : CmdRef) (i g j : BitVec 8) (a : BitVec 64) (b : Bytes) (k : Nat), s.serves c = true →
    s.mode = Md.maintain → i.toNat = 3 → (s.readForCommand a.toNat 96).toOption = some b →
    s.keyOf j.toNat 3 = some k → ecdsaVerify k (sha384 (ofNats [0x46, 0x55, 0x53, 0x45] ++ leBytes 4 s.fuses.serial ++
      leBytes 1 3 ++ leBytes 1 g.toNat ++ zeros 2)) (beAt b 0 48) (beAt b 48 48) = true →
    answers (.fuseSet c i g j a) s (fun t => t.fuses.provisionLock = true ∧
      t.fuses.signedImages = s.fuses.signedImages ∧ t.flag F.secFuse_provisionLock = true ∧
      t.reported c 0x71 St.done = true)) ∧
  (∀ (s : State) (c : CmdRef) (m : Fin 8) (j : BitVec 8), s.serves c = true → s.mode ≠ Md.park → c.stream = some m →
    s.keyOf j.toNat 4 ≠ none → answers (.mgmtHello c j) s (fun t => t.flag F.secMgmt_open m = true ∧
      t.rd F.secMgmt_mgmtSlot m = j.toNat ∧ t.reported c 0x72 St.done = true)) ∧
  (∀ (s : State) (c : CmdRef) (n w : BitVec 8) (v : Word), s.serves c = true → c.stream ≠ none → n.toNat < 160 →
    w.toNat ≤ 6 → s.rd F.cairnMatrix_word (8 * n.toNat + 7) % 16 = Dom.hostNet →
    bit (s.rd F.cairnMatrix_word (8 * n.toNat + 7)) 4 = true → answers (.cairnSecure c n w v) s (fun t =>
      t.reg (F.cairnMatrix_word.addr (8 * n.toNat + w.toNat)) = v ∧ t.reported c 0x75 St.done = true)) ∧
  (∀ (s : State) (i : Nat) (k : KeyCopy), s.mode ≠ Md.testHold → s.keyCopy = some (i, k) →
    answers (.keyslotRestore []) s (fun t => t.keys = k.slots ∧ t.flag F.updStat_keystoreErr = false)) ∧
  (∀ (s : State) (p : Fin 2), s.smbusTarget p ≠ none → s.chief.tristate = false → answers (.smbusStatusRead p) s (fun t =>
    t.out = s.out ++ [.smbus (s.wordsOf [F.chiefMode_mode.addr 0, F.chiefBoot_bootSel.addr 0,
      F.chiefResetCause_last.addr 0, F.updStat_state.addr 0, F.updLastErr_status.addr 0, F.testTj_tjMax.addr 0])])) ∧
  (∀ (s : State) (p : Fin 2), s.smbusTarget p = some false → s.chief.tristate = false →
    answers (.smbusPowerRead p) s (fun t => t.out = s.out ++ [.smbus (s.wordsOf [F.chiefPwr_vinMv.addr 0,
      F.chiefPwrW_power.addr 0, F.testTj_tjMax.addr 0])])) ∧
  (∀ (s : State) (p : Fin 2), s.smbusTarget p = some true → answers (.smbusReset p) s (fun t =>
    t.chief.resetOrdered = true)) ∧
  (∀ (s : State) (p : Fin 2), s.smbusTarget p = some false → bit (s.pinFn 3 p).opts 0 = false →
    s.chief.tristate = false → answers (.smbusReset p) s (fun t => t.out = s.out ++ [.smbus []] ∧
      t.chief.resetOrdered = s.chief.resetOrdered))

/-- A step runs the command at the front of the queue with the queue's rest; on an empty queue one tick of 4 ns passes:
the time counter adds the increment in use (R158) unless a reset is held. That an empty queue is a tick is the model's
choice (log entry 1). -/
def Obligations.StepTakesTheFront : Prop :=
  (∀ (s : State) (c : Instr) (rest : List Instr), s.pending = c :: rest → step s = exec c { s with pending := rest }) ∧
  (∀ s : State, s.pending = [] → s.chief.inReset = false → ∃ t, step s = .next t ∧ t.clock = s.clock + 1 ∧
    t.pending = [] ∧ (t.counter : Int) = ((s.counter : Int) + s.incInUse) % 2 ^ 64) ∧
  (∀ s : State, s.pending = [] → s.chief.inReset = true → step s = .next { s with clock := s.clock + 1 })

/-- What a power-on leaves (R55, R58, R131, R158, R133, and the tables' Reset columns): phase 1 of STARTING, counter 0
with INC = 4.0 ns, the Reel in STEP with FORWARD = 1 and a ratio of one line per count, every lane OFF, an empty queue,
stores in canonical form. -/
def Obligations.ResetLeaves : Prop :=
  State.reset.wf = true ∧ State.reset.pending = [] ∧ State.reset.mode = Md.starting ∧
  State.reset.rd F.chiefMode_phase = 1 ∧ State.reset.flag F.chiefMode_ready = false ∧ State.reset.counter = 0 ∧
  State.reset.rd64 F.timeIncLo_inc F.timeIncHi_inc = 4 * 2 ^ 32 ∧ State.reset.flag F.reelStat_step = true ∧
  State.reset.flag F.reelTrackCtl_forward = true ∧ State.reset.rd F.reelTrackCtl_bw = 4 ∧
  State.reset.rdI64 F.reelRatioLo_ratio F.reelRatioHi_ratio = 65536 * 2 ^ 32 ∧ State.reset.rd F.idPart_part = 0x4896 ∧
  (∀ n : Fin 64, State.reset.laneState n = Ls.off) ∧ (∀ k : Fin 6, State.reset.flag F.ringCtl_en k = false) ∧
  (∀ a, resetWord a = State.reset.reg a)

/-- An invariant of every step: the registers, HBM and the flash stay in canonical form, addresses strictly rising and no
entry equal to what an unlisted address reads as, so that equal contents are equal data. -/
def Obligations.EveryStepKeepsTheForm : Prop :=
  ∀ s t : State, s.wf = true → step s = .next t → t.wf = true

/-- What every step keeps: a blown fuse stays blown and the rollback count never falls (R540); the queue loses its front
command and nothing else; the model's clock moves only on an empty queue. -/
def Obligations.EveryStepKeepsFusesAndQueue : Prop :=
  (∀ s t : State, step s = .next t → Fuses.kept s.fuses t.fuses) ∧
  (∀ s t : State, step s = .next t → t.pending = s.pending.tail) ∧
  (∀ s t : State, step s = .next t → t.clock = (if s.pending = [] then s.clock + 1 else s.clock))

/-- The frame of HBM: a command that is not one of the storing ones leaves every byte. -/
def Obligations.OnlyStoresTouchHbm : Prop :=
  ∀ (c : Instr) (s t : State), exec c s = .next t → c.storesHbm = false → t.hbm = s.hbm ∧ ∀ a, t.byte a = s.byte a

/-- The frame of the flash, the key slots and the fuses: each is left alone by every command but those that write it. -/
def Obligations.FlashKeysAndFusesFrame : Prop :=
  (∀ (c : Instr) (s t : State), exec c s = .next t → c.writesFlash = false →
    t.flash = s.flash ∧ ∀ a, t.flashByte a = s.flashByte a) ∧
  (∀ (c : Instr) (s t : State), exec c s = .next t → c.changesKeys = false → t.keys = s.keys) ∧
  (∀ (c : Instr) (s t : State), exec c s = .next t → c.blowsFuses = false → t.fuses = s.fuses)

/-- R38: a BAR0 write to a register of access class C keeps its value and is logged as COMMAND_ONLY. -/
def Obligations.CommandOnlyKeepsItsValue : Prop :=
  ∀ (s : State) (a : BitVec 26) (v : Word), a.toNat % 4 = 0 → unassigned a.toNat = false →
    s.closed a.toNat (s.decidingIsland a.toNat) = false →
    (findReg a.toNat regBlocks).any (fun x => x.2.2.cmdOnly) = true → s.logQueue.length < 16 →
    answers (.registerWrite a 4 v) s (fun t => t.reg a.toNat = s.reg a.toNat ∧
      t.rd F.chiefAccessFault_cause = Af.commandOnly ∧ t.rd F.chiefAccessAddr_addr = a.toNat ∧
      ∃ e, t.logQueue = s.logQueue ++ [e] ∧ e.code = Af.commandOnly ∧ e.args.head? = some a.toNat)

/-- R142: REEL_POS_SET loads T and M at the HI write in CONFIGURE and MAINTAIN, sets H, disarms every scheduler and keeps
the capture FIFOs; in any other mode it changes nothing of the Reel and is logged as WRONG_MODE. -/
def Obligations.PosSetLoadsThePosition : Prop :=
  (∀ (s : State) (hi : Word), s.cmMode = true → answers (.reelPosSet hi) s (fun t =>
    t.reel.t = signed 64 (s.pairValue F.reelPosSetLo_value 0 hi) * stampUnit ∧ t.reel.m = t.reel.t ∧
    t.reel.h = floorDiv (t.toU t.reel.t) (t.pitch * stampUnit) ∧ t.reel.w = t.toU t.reel.t ∧
    (∀ i : Fin 8, t.flag F.schedStat_armed i = false) ∧ t.reel.caps = s.reel.caps)) ∧
  (∀ (s : State) (hi : Word), s.cmMode = false → answers (.reelPosSet hi) s (fun t =>
    t.reel = s.reel ∧ t.rd F.chiefAccessFault_cause = Af.wrongMode))

/-- R128: an index never moves the Reel: neither the index itself nor a POS_COUNT set by it reaches the tracked or the
measured position; a count step of the source axis moves the same whatever POS_COUNT is. -/
def Obligations.IndexNeverMovesTheReel : Prop :=
  (∀ (s : State) (a : Nat), (s.axisIndex a).1.reel = s.reel) ∧
  (∀ (s : State) (a b v : Nat) (n : Int), ((s.wr F.posCount_value a v).countStep b n).reel = (s.countStep b n).reel)

/-- R461: an entry is written only while the entries in the ring and it, for ring 5 their bytes, fit SIZE; a CONS write that moves CONS forward by
no more than what was written is taken, and any other sets CONS_ERR and leaves CONS. -/
def Obligations.RingsHoldTheirBounds : Prop :=
  (∀ (s t : State) (k : Fin 6), k.val ≠ 5 → exec (.ringEntryWrite k) s = .next t → s.outSize k < s.outUsed k + 1 →
    t.rd F.ringProd_count k = s.rd F.ringProd_count k ∧ t.rd F.ringCons_count k = s.rd F.ringCons_count k) ∧
  (∀ (s t : State) (k : Fin 6), exec (.ringEntryWrite k) s = .next t → s.outUsed k ≤ s.outSize k →
    t.outUsed k ≤ t.outSize k) ∧
  (∀ (s : State) (k : Fin 6) (v : Word), answers (.ringConsWrite k v) s (fun t =>
    if (v.toNat + 2 ^ 32 - s.rd F.ringCons_count k) % 2 ^ 32 ≤ (s.rd F.ringProd_count k + 2 ^ 32 -
        s.rd F.ringCons_count k) % 2 ^ 32
    then t.rd F.ringCons_count k = v.toNat
    else t.rd F.ringCons_count k = s.rd F.ringCons_count k ∧ t.flag F.ringCtl_consErr k = true))

/-- R541: CAIRN_SECURE writes one enable word of a column whose secure attribute is 1 and whose domain is HOST_NET; over
PCIe it completes with AUTH_FAIL and writes nothing. -/
def Obligations.CairnSecureFromTheNetworkOnly : Prop :=
  (∀ (s : State) (c : CmdRef) (n w : BitVec 8) (v : Word), s.serves c = true → c.stream = none →
    answers (.cairnSecure c n w v) s (fun t => t.reported c 0x75 St.authFail = true ∧
      ∀ k : Fin 1280, t.rd F.cairnMatrix_word k = s.rd F.cairnMatrix_word k)) ∧
  (∀ (s : State) (c : CmdRef) (n w : BitVec 8) (v : Word), s.serves c = true → c.stream ≠ none → n.toNat < 160 →
    w.toNat ≤ 6 → s.rd F.cairnMatrix_word (8 * n.toNat + 7) % 16 = Dom.hostNet →
    bit (s.rd F.cairnMatrix_word (8 * n.toNat + 7)) 4 = true → answers (.cairnSecure c n w v) s (fun t =>
      t.reg (F.cairnMatrix_word.addr (8 * n.toNat + w.toNat)) = v ∧ t.reported c 0x75 St.done = true))

/-- R531: the bank of a start attempt: ACTIVE of the directory in force with no failed boot; after one, the other bank
where FALLBACK_OK is 1 and its manifest digest matches the record, else ACTIVE again; after two, RECOVERY. -/
def Obligations.BankFollowsTheFailedBoots : Prop :=
  (∀ s : State, s.rd F.chiefBoot_bootFails = 0 → s.chooseBank = s.activeBank) ∧
  (∀ s : State, s.rd F.chiefBoot_bootFails = 1 → s.chooseBank =
    if s.directory.any (fun d => d.fallback && d.other == sha384 (s.manifest (1 - s.activeBank))) then 1 - s.activeBank
    else s.activeBank) ∧
  (∀ (s : State) (z b : Bool) (mf : List MemFail) (bs : List BadSpare) (cr : List CalResult) (rf : List HbmRowFail),
    s.mode = Md.starting → s.chief.inReset = false → s.rd F.chiefMode_phase = 1 → s.rd F.chiefBoot_bootFails = 2 →
    answers (.startupPhaseEnd z mf bs cr rf b) s (fun t => t.mode = Md.recovery))
end

