-- ==== Sys2Proof/Laws/Exec.lean ====
section
/-! SUPPORT. One equation per command: what `exec` of it is. -/

namespace Sys2Proof.Machine

variable (s : State)

@[simp] theorem exec_registerWrite (addr : BitVec 26) (width : BitVec 8) (value : Word) : exec (.registerWrite addr width value) s = execRegisterWrite addr width value s := rfl
@[simp] theorem exec_rcRead (addr : BitVec 26) (width : BitVec 8) : exec (.rcRead addr width) s = execRcRead addr width s := rfl
@[simp] theorem exec_pairLoRead (addr : BitVec 26) : exec (.pairLoRead addr) s = execPairLoRead addr s := rfl
@[simp] theorem exec_accessTimeout (addr : BitVec 26) (write : Bool) : exec (.accessTimeout addr write) s = execAccessTimeout addr write s := rfl
@[simp] theorem exec_mailboxApply (agent : BitVec 8) : exec (.mailboxApply agent) s = execMailboxApply agent s := rfl
@[simp] theorem exec_stewardHeartbeatMiss (steward : Fin 4) : exec (.stewardHeartbeatMiss steward) s = execStewardHeartbeatMiss steward s := rfl
@[simp] theorem exec_stewardRestartDone (steward : Fin 4) : exec (.stewardRestartDone steward) s = execStewardRestartDone steward s := rfl
@[simp] theorem exec_stewardAnswer (steward : Fin 4) (held : Option (BitVec 16)) : exec (.stewardAnswer steward held) s = execStewardAnswer steward held s := rfl
@[simp] theorem exec_jointAnswerTimeout : exec (.jointAnswerTimeout) s = execJointAnswerTimeout s := rfl
@[simp] theorem exec_jointTargetTimeout : exec (.jointTargetTimeout) s = execJointTargetTimeout s := rfl
@[simp] theorem exec_agentApplied : exec (.agentApplied) s = execAgentApplied s := rfl
@[simp] theorem exec_clockMonitorSample (khz : List (BitVec 8 × BitVec 24)) : exec (.clockMonitorSample khz) s = execClockMonitorSample khz s := rfl
@[simp] theorem exec_setMode (cmd : CmdRef) (mode : BitVec 8) (stopNow : Bool) : exec (.setMode cmd mode stopNow) s = execSetMode cmd mode stopNow s := rfl
@[simp] theorem exec_modeDrainDone : exec (.modeDrainDone) s = execModeDrainDone s := rfl
@[simp] theorem exec_drainCut : exec (.drainCut) s = execDrainCut s := rfl
@[simp] theorem exec_park (cmd : CmdRef) : exec (.park cmd) s = execPark cmd s := rfl
@[simp] theorem exec_parkStepDone (flashError clears : Bool) (fails : List MemFail) (badSpares : List BadSpare) : exec (.parkStepDone flashError clears fails badSpares) s = execParkStepDone flashError clears fails badSpares s := rfl
@[simp] theorem exec_parkStatus (cmd : CmdRef) : exec (.parkStatus cmd) s = execParkStatus cmd s := rfl
@[simp] theorem exec_resetDevice (cmd : CmdRef) : exec (.resetDevice cmd) s = execResetDevice cmd s := rfl
@[simp] theorem exec_powerOnReset (idGood trimGood : Bool) : exec (.powerOnReset idGood trimGood) s = execPowerOnReset idGood trimGood s := rfl
@[simp] theorem exec_standbyOff : exec (.standbyOff) s = execStandbyOff s := rfl
@[simp] theorem exec_mainPowerUp : exec (.mainPowerUp) s = execMainPowerUp s := rfl
@[simp] theorem exec_mainPowerDown : exec (.mainPowerDown) s = execMainPowerDown s := rfl
@[simp] theorem exec_mainDischargeDone : exec (.mainDischargeDone) s = execMainDischargeDone s := rfl
@[simp] theorem exec_resetNFall : exec (.resetNFall) s = execResetNFall s := rfl
@[simp] theorem exec_pinReset : exec (.pinReset) s = execPinReset s := rfl
@[simp] theorem exec_resetNRise (bootSel : BitVec 2) : exec (.resetNRise bootSel) s = execResetNRise bootSel s := rfl
@[simp] theorem exec_watchdogService : exec (.watchdogService) s = execWatchdogService s := rfl
@[simp] theorem exec_watchdogReset : exec (.watchdogReset) s = execWatchdogReset s := rfl
@[simp] theorem exec_hostReset (flr linkDown : Bool) : exec (.hostReset flr linkDown) s = execHostReset flr linkDown s := rfl
@[simp] theorem exec_startupPhaseEnd (clears : Bool) (memFails : List MemFail) (badSpares : List BadSpare) (results : List CalResult) (rowFails : List HbmRowFail) (readBackBad : Bool) : exec (.startupPhaseEnd clears memFails badSpares results rowFails readBackBad) s = execStartupPhaseEnd clears memFails badSpares results rowFails readBackBad s := rfl
@[simp] theorem exec_bootTimeout : exec (.bootTimeout) s = execBootTimeout s := rfl
@[simp] theorem exec_loadImage (cmd : CmdRef) (addr : BitVec 64) (len : Word) : exec (.loadImage cmd addr len) s = execLoadImage cmd addr len s := rfl
@[simp] theorem exec_loadImageDone : exec (.loadImageDone) s = execLoadImageDone s := rfl
@[simp] theorem exec_claim (cmd : CmdRef) (index : BitVec 16) (tag : BitVec 12) : exec (.claim cmd index tag) s = execClaim cmd index tag s := rfl
@[simp] theorem exec_release (cmd : CmdRef) (index : BitVec 16) : exec (.release cmd index) s = execRelease cmd index s := rfl
@[simp] theorem exec_laneBlockRx (lane : Fin 64) (header : BitVec 2) (payload : BitVec 64) (measured : BitVec 64) : exec (.laneBlockRx lane header payload measured) s = execLaneBlockRx lane header payload measured s := rfl
@[simp] theorem exec_cdrLock (lane : Fin 64) (ctle : BitVec 4) (dfe : BitVec 28) : exec (.cdrLock lane ctle dfe) s = execCdrLock lane ctle dfe s := rfl
@[simp] theorem exec_cdrLost (lane : Fin 64) : exec (.cdrLost lane) s = execCdrLost lane s := rfl
@[simp] theorem exec_cdrAcqTimeout (lane : Fin 64) : exec (.cdrAcqTimeout lane) s = execCdrAcqTimeout lane s := rfl
@[simp] theorem exec_laneRelock (lane : Fin 64) : exec (.laneRelock lane) s = execLaneRelock lane s := rfl
@[simp] theorem exec_alignTx (lane : Fin 64) (bip : BitVec 8) : exec (.alignTx lane bip) s = execAlignTx lane bip s := rfl
@[simp] theorem exec_laneTxDelayWrite (lane : Fin 64) (value : Word) : exec (.laneTxDelayWrite lane value) s = execLaneTxDelayWrite lane value s := rfl
@[simp] theorem exec_tapSlewStep (lane : Fin 64) : exec (.tapSlewStep lane) s = execTapSlewStep lane s := rfl
@[simp] theorem exec_laneProbeStart (lane : Fin 64) (value : Word) : exec (.laneProbeStart lane value) s = execLaneProbeStart lane value s := rfl
@[simp] theorem exec_probeTx (lane : Fin 64) : exec (.probeTx lane) s = execProbeTx lane s := rfl
@[simp] theorem exec_echoRx (lane : Fin 64) (probeId turn : BitVec 16) (taps : Nat) : exec (.echoRx lane probeId turn taps) s = execEchoRx lane probeId turn taps s := rfl
@[simp] theorem exec_probeWindowEnd (lane : Fin 64) : exec (.probeWindowEnd lane) s = execProbeWindowEnd lane s := rfl
@[simp] theorem exec_probeRx (lane : Fin 64) (probeId : BitVec 16) : exec (.probeRx lane probeId) s = execProbeRx lane probeId s := rfl
@[simp] theorem exec_creditRx (lane : Fin 64) (port : Fin 1024) (limit : BitVec 16) : exec (.creditRx lane port limit) s = execCreditRx lane port limit s := rfl
@[simp] theorem exec_creditTx (port : Fin 1024) : exec (.creditTx port) s = execCreditTx port s := rfl
@[simp] theorem exec_marginStart (lane : Fin 64) (value : Word) : exec (.marginStart lane value) s = execMarginStart lane value s := rfl
@[simp] theorem exec_marginDone (lane : Fin 64) (errors : Nat) : exec (.marginDone lane errors) s = execMarginDone lane errors s := rfl
@[simp] theorem exec_prbsInject (lane : Fin 64) : exec (.prbsInject lane) s = execPrbsInject lane s := rfl
@[simp] theorem exec_prbsClear (lane : Fin 64) : exec (.prbsClear lane) s = execPrbsClear lane s := rfl
@[simp] theorem exec_axisFilteredChange (axis : Fin 8) (levels : BitVec 6) : exec (.axisFilteredChange axis levels) s = execAxisFilteredChange axis levels s := rfl
@[simp] theorem exec_axisArm (axis : Fin 8) : exec (.axisArm axis) s = execAxisArm axis s := rfl
@[simp] theorem exec_serialFrameStart (axis : Fin 8) : exec (.serialFrameStart axis) s = execSerialFrameStart axis s := rfl
@[simp] theorem exec_serialFrameDone (axis : Fin 8) (recovering : Bool) (frame : BitVec 55) : exec (.serialFrameDone axis recovering frame) s = execSerialFrameDone axis recovering frame s := rfl
@[simp] theorem exec_reelMeasurement : exec (.reelMeasurement) s = execReelMeasurement s := rfl
@[simp] theorem exec_reelStopTimeout : exec (.reelStopTimeout) s = execReelStopTimeout s := rfl
@[simp] theorem exec_reelTick : exec (.reelTick) s = execReelTick s := rfl
@[simp] theorem exec_reelBacklogRelease : exec (.reelBacklogRelease) s = execReelBacklogRelease s := rfl
@[simp] theorem exec_reelForwardWrite (forward : Bool) : exec (.reelForwardWrite forward) s = execReelForwardWrite forward s := rfl
@[simp] theorem exec_reelPosSet (hi : Word) : exec (.reelPosSet hi) s = execReelPosSet hi s := rfl
@[simp] theorem exec_reelAdjust (offset : Word) : exec (.reelAdjust offset) s = execReelAdjust offset s := rfl
@[simp] theorem exec_reelCapture (unit : Fin 8) : exec (.reelCapture unit) s = execReelCapture unit s := rfl
@[simp] theorem exec_reelCapturePop (unit : Fin 8) : exec (.reelCapturePop unit) s = execReelCapturePop unit s := rfl
@[simp] theorem exec_schedEnable (unit : Fin 8) (ctl : Word) : exec (.schedEnable unit ctl) s = execSchedEnable unit ctl s := rfl
@[simp] theorem exec_schedFire (unit : Fin 8) : exec (.schedFire unit) s = execSchedFire unit s := rfl
@[simp] theorem exec_schedArmEvent (unit : Fin 8) (gen : Fin 8) : exec (.schedArmEvent unit gen) s = execSchedArmEvent unit gen s := rfl
@[simp] theorem exec_syncSampleTx (lane : Fin 8) : exec (.syncSampleTx lane) s = execSyncSampleTx lane s := rfl
@[simp] theorem exec_syncSampleRx (lane : Fin 8) (sample data1 data2 : BitVec 64) (arrival : BitVec 64) : exec (.syncSampleRx lane sample data1 data2 arrival) s = execSyncSampleRx lane sample data1 data2 arrival s := rfl
@[simp] theorem exec_followLost : exec (.followLost) s = execFollowLost s := rfl
@[simp] theorem exec_followCoastEnd : exec (.followCoastEnd) s = execFollowCoastEnd s := rfl
@[simp] theorem exec_timeIncWrite (hi : Word) : exec (.timeIncWrite hi) s = execTimeIncWrite hi s := rfl
@[simp] theorem exec_timeSlewStart (ticks : Word) : exec (.timeSlewStart ticks) s = execTimeSlewStart ticks s := rfl
@[simp] theorem exec_timeSlewEnd : exec (.timeSlewEnd) s = execTimeSlewEnd s := rfl
@[simp] theorem exec_timeStep (hi : Word) : exec (.timeStep hi) s = execTimeStep hi s := rfl
@[simp] theorem exec_timeBaseCommit (cnt : Word) : exec (.timeBaseCommit cnt) s = execTimeBaseCommit cnt s := rfl
@[simp] theorem exec_baseStale : exec (.baseStale) s = execBaseStale s := rfl
@[simp] theorem exec_comparatorArm (unit : Fin 16) (ctl : Word) : exec (.comparatorArm unit ctl) s = execComparatorArm unit ctl s := rfl
@[simp] theorem exec_comparatorFire (unit : Fin 16) : exec (.comparatorFire unit) s = execComparatorFire unit s := rfl
@[simp] theorem exec_pulseArm (gen : Fin 4) (ctl : Word) : exec (.pulseArm gen ctl) s = execPulseArm gen ctl s := rfl
@[simp] theorem exec_pulseStart (gen : Fin 4) : exec (.pulseStart gen) s = execPulseStart gen s := rfl
@[simp] theorem exec_pulseEnd (gen : Fin 4) : exec (.pulseEnd gen) s = execPulseEnd gen s := rfl
@[simp] theorem exec_pulseStartEvent (gen : Fin 4) : exec (.pulseStartEvent gen) s = execPulseStartEvent gen s := rfl
@[simp] theorem exec_pulseStopEvent (gen : Fin 4) : exec (.pulseStopEvent gen) s = execPulseStopEvent gen s := rfl
@[simp] theorem exec_timeCapture (unit : Fin 4) : exec (.timeCapture unit) s = execTimeCapture unit s := rfl
@[simp] theorem exec_timeCapturePop (unit : Fin 4) : exec (.timeCapturePop unit) s = execTimeCapturePop unit s := rfl
@[simp] theorem exec_ppsInEdge (falling : Bool) : exec (.ppsInEdge falling) s = execPpsInEdge falling s := rfl
@[simp] theorem exec_ppsOutSecond : exec (.ppsOutSecond) s = execPpsOutSecond s := rfl
@[simp] theorem exec_ppsOutWidthEnd : exec (.ppsOutWidthEnd) s = execPpsOutWidthEnd s := rfl
@[simp] theorem exec_macFrameRx (port : Fin 16) (frame : Bytes) (fcsGood : Bool) (measured : Int) (fecCorrected fecUncorrected : Nat) : exec (.macFrameRx port frame fcsGood measured fecCorrected fecUncorrected) s = execMacFrameRx port frame fcsGood measured fecCorrected fecUncorrected s := rfl
@[simp] theorem exec_ethLinkDown (port : Fin 16) : exec (.ethLinkDown port) s = execEthLinkDown port s := rfl
@[simp] theorem exec_macTsPop (port : Fin 16) : exec (.macTsPop port) s = execMacTsPop port s := rfl
@[simp] theorem exec_templateValid (template : Fin 16) (ctl : Word) : exec (.templateValid template ctl) s = execTemplateValid template ctl s := rfl
@[simp] theorem exec_streamDatagramTx (stream : Fin 256) : exec (.streamDatagramTx stream) s = execStreamDatagramTx stream s := rfl
@[simp] theorem exec_streamFlushTimeout (stream : Fin 256) : exec (.streamFlushTimeout stream) s = execStreamFlushTimeout stream s := rfl
@[simp] theorem exec_creditDatagramTx (port : Fin 1024) : exec (.creditDatagramTx port) s = execCreditDatagramTx port s := rfl
@[simp] theorem exec_lineStartRx (port : Fin 12) (sensor depth : Fin 4) (tag : Word) : exec (.lineStartRx port sensor depth tag) s = execLineStartRx port sensor depth tag s := rfl
@[simp] theorem exec_lineEndRx (port : Fin 12) (sensor : Fin 4) (crc : Word) (tagByte : BitVec 8) : exec (.lineEndRx port sensor crc tagByte) s = execLineEndRx port sensor crc tagByte s := rfl
@[simp] theorem exec_lineTimeout (port : Fin 12) (sensor : Fin 4) (tag : Word) : exec (.lineTimeout port sensor tag) s = execLineTimeout port sensor tag s := rfl
@[simp] theorem exec_frameStartRx (port : Fin 12) (sensor : Fin 4) (tag : Word) : exec (.frameStartRx port sensor tag) s = execFrameStartRx port sensor tag s := rfl
@[simp] theorem exec_frameEndRx (port : Fin 12) (sensor : Fin 4) (tag : Word) : exec (.frameEndRx port sensor tag) s = execFrameEndRx port sensor tag s := rfl
@[simp] theorem exec_camCtrlGo (port : Fin 12) (value : Word) : exec (.camCtrlGo port value) s = execCamCtrlGo port value s := rfl
@[simp] theorem exec_camAckRx (port : Fin 12) (sensor : Fin 4) (write : Bool) (ctag : Fin 32) (result : BitVec 8) (data : Option (Word × Word)) : exec (.camAckRx port sensor write ctag result data) s = execCamAckRx port sensor write ctag result data s := rfl
@[simp] theorem exec_camCtrlTimeout (port : Fin 12) : exec (.camCtrlTimeout port) s = execCamCtrlTimeout port s := rfl
@[simp] theorem exec_camStatusRx (port : Fin 12) (sensor : Fin 4) (ready alert : Bool) (seq code : BitVec 16) : exec (.camStatusRx port sensor ready alert seq code) s = execCamStatusRx port sensor ready alert seq code s := rfl
@[simp] theorem exec_camSilent (port : Fin 12) (sensor : Fin 4) : exec (.camSilent port sensor) s = execCamSilent port sensor s := rfl
@[simp] theorem exec_rateMeasure (port : Fin 12) : exec (.rateMeasure port) s = execRateMeasure port s := rfl
@[simp] theorem exec_calLine (channel : Fin 48) (upset : List (Fin 16384)) : exec (.calLine channel upset) s = execCalLine channel upset s := rfl
@[simp] theorem exec_calCommit (channel : Fin 48) : exec (.calCommit channel) s = execCalCommit channel s := rfl
@[simp] theorem exec_calDiscard (channel : Fin 48) : exec (.calDiscard channel) s = execCalDiscard channel s := rfl
@[simp] theorem exec_calBankCopyDone (channel : Fin 48) : exec (.calBankCopyDone channel) s = execCalBankCopyDone channel s := rfl
@[simp] theorem exec_ridgePortLineArrive (port : Fin 12) : exec (.ridgePortLineArrive port) s = execRidgePortLineArrive port s := rfl
@[simp] theorem exec_memPathBurst (ridge : Fin 6) : exec (.memPathBurst ridge) s = execMemPathBurst ridge s := rfl
@[simp] theorem exec_ridgeLineBoundary (ridge : Fin 6) (mismatch : Bool) : exec (.ridgeLineBoundary ridge mismatch) s = execRidgeLineBoundary ridge mismatch s := rfl
@[simp] theorem exec_rotationStepStart (ridge : Fin 6) : exec (.rotationStepStart ridge) s = execRotationStepStart ridge s := rfl
@[simp] theorem exec_rotNow (ridge : Fin 6) : exec (.rotNow ridge) s = execRotNow ridge s := rfl
@[simp] theorem exec_rotationEvent (ridge : Fin 6) (gen : Fin 8) : exec (.rotationEvent ridge gen) s = execRotationEvent ridge gen s := rfl
@[simp] theorem exec_spurCopyDone (ridge : Fin 6) : exec (.spurCopyDone ridge) s = execSpurCopyDone ridge s := rfl
@[simp] theorem exec_spurIsolated (ridge : Fin 6) : exec (.spurIsolated ridge) s = execSpurIsolated ridge s := rfl
@[simp] theorem exec_spurSliceDone (ridge : Fin 6) (limitsHeld : Bool) (signature : BitVec 64) : exec (.spurSliceDone ridge limitsHeld signature) s = execSpurSliceDone ridge limitsHeld signature s := rfl
@[simp] theorem exec_sliceBudgetExpiry (ridge : Fin 6) : exec (.sliceBudgetExpiry ridge) s = execSliceBudgetExpiry ridge s := rfl
@[simp] theorem exec_spurReinitDone (ridge : Fin 6) (verified : Bool) : exec (.spurReinitDone ridge verified) s = execSpurReinitDone ridge verified s := rfl
@[simp] theorem exec_couchIntake (ridge : Fin 6) : exec (.couchIntake ridge) s = execCouchIntake ridge s := rfl
@[simp] theorem exec_seamWaitTimeout (port : Fin 12) (seq : Word) : exec (.seamWaitTimeout port seq) s = execSeamWaitTimeout port seq s := rfl
@[simp] theorem exec_classifyDone : exec (.classifyDone) s = execClassifyDone s := rfl
@[simp] theorem exec_markerFireSeen (unit : Fin 4) : exec (.markerFireSeen unit) s = execMarkerFireSeen unit s := rfl
@[simp] theorem exec_statsBlock (channel : Fin 48) : exec (.statsBlock channel) s = execStatsBlock channel s := rfl
@[simp] theorem exec_statsArm (group : Fin 2) : exec (.statsArm group) s = execStatsArm group s := rfl
@[simp] theorem exec_layoutSubmit (tag : Word) : exec (.layoutSubmit tag) s = execLayoutSubmit tag s := rfl
@[simp] theorem exec_layoutStagedEnqueue : exec (.layoutStagedEnqueue) s = execLayoutStagedEnqueue s := rfl
@[simp] theorem exec_layoutJobStart : exec (.layoutJobStart) s = execLayoutJobStart s := rfl
@[simp] theorem exec_layoutDecryptStart : exec (.layoutDecryptStart) s = execLayoutDecryptStart s := rfl
@[simp] theorem exec_layoutJobVerified : exec (.layoutJobVerified) s = execLayoutJobVerified s := rfl
@[simp] theorem exec_layoutResultPop : exec (.layoutResultPop) s = execLayoutResultPop s := rfl
@[simp] theorem exec_stripeReset : exec (.stripeReset) s = execStripeReset s := rfl
@[simp] theorem exec_mouldBandStart : exec (.mouldBandStart) s = execMouldBandStart s := rfl
@[simp] theorem exec_mouldBandDone : exec (.mouldBandDone) s = execMouldBandDone s := rfl
@[simp] theorem exec_wmBandCheck (band : Word) : exec (.wmBandCheck band) s = execWmBandCheck band s := rfl
@[simp] theorem exec_wmReleaseStart (band : Word) : exec (.wmReleaseStart band) s = execWmReleaseStart band s := rfl
@[simp] theorem exec_wmBandReleased (band : Word) : exec (.wmBandReleased band) s = execWmBandReleased band s := rfl
@[simp] theorem exec_wmBandDeadline (band : Word) : exec (.wmBandDeadline band) s = execWmBandDeadline band s := rfl
@[simp] theorem exec_laidArm : exec (.laidArm) s = execLaidArm s := rfl
@[simp] theorem exec_laidArmEvent (gen : Fin 8) : exec (.laidArmEvent gen) s = execLaidArmEvent gen s := rfl
@[simp] theorem exec_laidDisarm : exec (.laidDisarm) s = execLaidDisarm s := rfl
@[simp] theorem exec_laidShotTick (corrected : Nat) (failed : List (Word × Fin 576)) (crcBad : List (Fin 48)) : exec (.laidShotTick corrected failed crcBad) s = execLaidShotTick corrected failed crcBad s := rfl
@[simp] theorem exec_warnArrive : exec (.warnArrive) s = execWarnArrive s := rfl
@[simp] theorem exec_critArrive : exec (.critArrive) s = execCritArrive s := rfl
@[simp] theorem exec_interlock (gen : Fin 8) : exec (.interlock gen) s = execInterlock gen s := rfl
@[simp] theorem exec_drvStatusRx (channel : Fin 48) (seq : BitVec 16) (flags temp : BitVec 8) (line : BitVec 16) : exec (.drvStatusRx channel seq flags temp line) s = execDrvStatusRx channel seq flags temp line s := rfl
@[simp] theorem exec_drvStatusTimeout (channel : Fin 48) : exec (.drvStatusTimeout channel) s = execDrvStatusTimeout channel s := rfl
@[simp] theorem exec_screeDctlGo (value : Word) : exec (.screeDctlGo value) s = execScreeDctlGo value s := rfl
@[simp] theorem exec_drvCtrlSend : exec (.drvCtrlSend) s = execDrvCtrlSend s := rfl
@[simp] theorem exec_drvAckRx (channel : Fin 48) : exec (.drvAckRx channel) s = execDrvAckRx channel s := rfl
@[simp] theorem exec_drvCtrlTimeout (channel : Fin 48) (start : Bool) : exec (.drvCtrlTimeout channel start) s = execDrvCtrlTimeout channel start s := rfl
@[simp] theorem exec_measCycleStart : exec (.measCycleStart) s = execMeasCycleStart s := rfl
@[simp] theorem exec_measNow : exec (.measNow) s = execMeasNow s := rfl
@[simp] theorem exec_measEvent (gen : Fin 8) : exec (.measEvent gen) s = execMeasEvent gen s := rfl
@[simp] theorem exec_measDeferExpiry (channel : Fin 48) : exec (.measDeferExpiry channel) s = execMeasDeferExpiry channel s := rfl
@[simp] theorem exec_idleMeasRx (channel : Fin 48) : exec (.idleMeasRx channel) s = execIdleMeasRx channel s := rfl
@[simp] theorem exec_measCycleComplete : exec (.measCycleComplete) s = execMeasCycleComplete s := rfl
@[simp] theorem exec_measTimeout : exec (.measTimeout) s = execMeasTimeout s := rfl
@[simp] theorem exec_tableRebuildDone : exec (.tableRebuildDone) s = execTableRebuildDone s := rfl
@[simp] theorem exec_screeCommit : exec (.screeCommit) s = execScreeCommit s := rfl
@[simp] theorem exec_screeCommitEvent : exec (.screeCommitEvent) s = execScreeCommitEvent s := rfl
@[simp] theorem exec_screeCopyDone : exec (.screeCopyDone) s = execScreeCopyDone s := rfl
@[simp] theorem exec_screeWarnClear : exec (.screeWarnClear) s = execScreeWarnClear s := rfl
@[simp] theorem exec_critClear : exec (.critClear) s = execCritClear s := rfl
@[simp] theorem exec_reamJobStart (engine : Fin 4) : exec (.reamJobStart engine) s = execReamJobStart engine s := rfl
@[simp] theorem exec_reamRingTail (engine : Fin 4) (tail : Word) : exec (.reamRingTail engine tail) s = execReamRingTail engine tail s := rfl
@[simp] theorem exec_reamRingSize (engine : Fin 4) (size : Word) : exec (.reamRingSize engine size) s = execReamRingSize engine size s := rfl
@[simp] theorem exec_reamHostOverdue (engine : Fin 4) : exec (.reamHostOverdue engine) s = execReamHostOverdue engine s := rfl
@[simp] theorem exec_reamHoldRelease (engine : Fin 4) (gen : Fin 8) : exec (.reamHoldRelease engine gen) s = execReamHoldRelease engine gen s := rfl
@[simp] theorem exec_reamJobDone (engine : Fin 4) (echoDiff : Option Word) : exec (.reamJobDone engine echoDiff) s = execReamJobDone engine echoDiff s := rfl
@[simp] theorem exec_hbmRequest (port : Fin 19) (addr : Nat) (write : Bool) (data : Bytes) (len : Nat) : exec (.hbmRequest port addr write data len) s = execHbmRequest port addr write data len s := rfl
@[simp] theorem exec_hbmResponse (pc : Fin 64) (outcome : UnitOutcome) : exec (.hbmResponse pc outcome) s = execHbmResponse pc outcome s := rfl
@[simp] theorem exec_hbmParityAlert (pc : Fin 64) (kind : ParityKind) : exec (.hbmParityAlert pc kind) s = execHbmParityAlert pc kind s := rfl
@[simp] theorem exec_hbmScrubRow (pc : Fin 64) (found : List (Nat × UnitOutcome)) : exec (.hbmScrubRow pc found) s = execHbmScrubRow pc found s := rfl
@[simp] theorem exec_scrubDeferExpiry (pc : Fin 64) : exec (.scrubDeferExpiry pc) s = execScrubDeferExpiry pc s := rfl
@[simp] theorem exec_hbmTempRead (stack0 stack1 : BitVec 8) : exec (.hbmTempRead stack0 stack1) s = execHbmTempRead stack0 stack1 s := rfl
@[simp] theorem exec_hbmRefresh (pc : Fin 64) (bank : Fin 48) : exec (.hbmRefresh pc bank) s = execHbmRefresh pc bank s := rfl
@[simp] theorem exec_srIdleExpiry (pc : Fin 64) : exec (.srIdleExpiry pc) s = execSrIdleExpiry pc s := rfl
@[simp] theorem exec_srExitDone (pc : Fin 64) : exec (.srExitDone pc) s = execSrExitDone pc s := rfl
@[simp] theorem exec_srExitTimeout (pc : Fin 64) : exec (.srExitTimeout pc) s = execSrExitTimeout pc s := rfl
@[simp] theorem exec_bar2Access (offset : BitVec 36) (write : Bool) (data : Bytes) (len : Nat) : exec (.bar2Access offset write data len) s = execBar2Access offset write data len s := rfl
@[simp] theorem exec_hbmSetSpeed (cmd : CmdRef) (speed : BitVec 8) : exec (.hbmSetSpeed cmd speed) s = execHbmSetSpeed cmd speed s := rfl
@[simp] theorem exec_hbmRetrain (cmd : CmdRef) : exec (.hbmRetrain cmd) s = execHbmRetrain cmd s := rfl
@[simp] theorem exec_hbmSetPolicy (cmd : CmdRef) (policy : BitVec 8) (idleUs : BitVec 16) : exec (.hbmSetPolicy cmd policy idleUs) s = execHbmSetPolicy cmd policy idleUs s := rfl
@[simp] theorem exec_hostCmdTail (tail : Word) : exec (.hostCmdTail tail) s = execHostCmdTail tail s := rfl
@[simp] theorem exec_cmdEnSet : exec (.cmdEnSet) s = execCmdEnSet s := rfl
@[simp] theorem exec_cmdFetch : exec (.cmdFetch) s = execCmdFetch s := rfl
@[simp] theorem exec_nop (cmd : CmdRef) : exec (.nop cmd) s = execNop cmd s := rfl
@[simp] theorem exec_cmdComplete (cmd : CmdRef) : exec (.cmdComplete cmd) s = execCmdComplete cmd s := rfl
@[simp] theorem exec_cmdLimitTimeout (cmd : CmdRef) : exec (.cmdLimitTimeout cmd) s = execCmdLimitTimeout cmd s := rfl
@[simp] theorem exec_ringEnable (ring : Fin 6) : exec (.ringEnable ring) s = execRingEnable ring s := rfl
@[simp] theorem exec_ringConsWrite (ring : Fin 6) (cons : Word) : exec (.ringConsWrite ring cons) s = execRingConsWrite ring cons s := rfl
@[simp] theorem exec_ringEntryWrite (ring : Fin 6) : exec (.ringEntryWrite ring) s = execRingEntryWrite ring s := rfl
@[simp] theorem exec_ringModTimeout (vector : Fin 64) : exec (.ringModTimeout vector) s = execRingModTimeout vector s := rfl
@[simp] theorem exec_hostTxTail (tail : Word) : exec (.hostTxTail tail) s = execHostTxTail tail s := rfl
@[simp] theorem exec_txFrameSend (measured : Int) : exec (.txFrameSend measured) s = execTxFrameSend measured s := rfl
@[simp] theorem exec_digestSnap : exec (.digestSnap) s = execDigestSnap s := rfl
@[simp] theorem exec_digestDone : exec (.digestDone) s = execDigestDone s := rfl
@[simp] theorem exec_dmaStart (ch : Fin 32) : exec (.dmaStart ch) s = execDmaStart ch s := rfl
@[simp] theorem exec_dmaStartEvent (ch : Fin 32) (gen : Fin 8) : exec (.dmaStartEvent ch gen) s = execDmaStartEvent ch gen s := rfl
@[simp] theorem exec_dmaAbort (ch : Fin 32) : exec (.dmaAbort ch) s = execDmaAbort ch s := rfl
@[simp] theorem exec_dmaDescFetch (ch : Fin 32) (data : Bytes) : exec (.dmaDescFetch ch data) s = execDmaDescFetch ch data s := rfl
@[simp] theorem exec_dmaDescComplete (ch : Fin 32) : exec (.dmaDescComplete ch) s = execDmaDescComplete ch s := rfl
@[simp] theorem exec_dmaBusError (ch : Fin 32) : exec (.dmaBusError ch) s = execDmaBusError ch s := rfl
@[simp] theorem exec_d3hotEntry : exec (.d3hotEntry) s = execD3hotEntry s := rfl
@[simp] theorem exec_cairnEvent (events : List CairnEvt) : exec (.cairnEvent events) s = execCairnEvent events s := rfl
@[simp] theorem exec_cairnOverrunReport (consumer : Fin 160) (isl : BitVec 8) : exec (.cairnOverrunReport consumer isl) s = execCairnOverrunReport consumer isl s := rfl
@[simp] theorem exec_cairnEnableWrite (domain : Fin 16) (secure : Bool) (column : Fin 160) (word : Fin 8) (value : Word) : exec (.cairnEnableWrite domain secure column word value) s = execCairnEnableWrite domain secure column word value s := rfl
@[simp] theorem exec_cairnIrqConsumer (consumer : Fin 160) : exec (.cairnIrqConsumer consumer) s = execCairnIrqConsumer consumer s := rfl
@[simp] theorem exec_evioInputEdge (pin : Fin 32) (level : Bool) : exec (.evioInputEdge pin level) s = execEvioInputEdge pin level s := rfl
@[simp] theorem exec_evioOutActivate (pin : Fin 32) : exec (.evioOutActivate pin) s = execEvioOutActivate pin s := rfl
@[simp] theorem exec_evioPulseEnd (pin : Fin 32) : exec (.evioPulseEnd pin) s = execEvioPulseEnd pin s := rfl
@[simp] theorem exec_testLogic (cmd : CmdRef) (island patterns slices budget : BitVec 8) (clears : Bool) : exec (.testLogic cmd island patterns slices budget clears) s = execTestLogic cmd island patterns slices budget clears s := rfl
@[simp] theorem exec_testMemory (cmd : CmdRef) (island : BitVec 8) (clears : Bool) (fails : List MemFail) (badSpares : List BadSpare) : exec (.testMemory cmd island clears fails badSpares) s = execTestMemory cmd island clears fails badSpares s := rfl
@[simp] theorem exec_testHbm (cmd : CmdRef) (fails : List HbmRowFail) : exec (.testHbm cmd fails) s = execTestHbm cmd fails s := rfl
@[simp] theorem exec_calibrate (cmd : CmdRef) (results : List CalResult) : exec (.calibrate cmd results) s = execCalibrate cmd results s := rfl
@[simp] theorem exec_calSet (cmd : CmdRef) (seconds : BitVec 16) : exec (.calSet cmd seconds) s = execCalSet cmd seconds s := rfl
@[simp] theorem exec_thermSet (cmd : CmdRef) (alertC hyst : BitVec 8) : exec (.thermSet cmd alertC hyst) s = execThermSet cmd alertC hyst s := rfl
@[simp] theorem exec_testLogClear (cmd : CmdRef) : exec (.testLogClear cmd) s = execTestLogClear cmd s := rfl
@[simp] theorem exec_logicSliceDone (island : BitVec 8) (limitsGood : Bool) (signature : BitVec 64) : exec (.logicSliceDone island limitsGood signature) s = execLogicSliceDone island limitsGood signature s := rfl
@[simp] theorem exec_logicSliceBudget (island : BitVec 8) (signature : BitVec 64) : exec (.logicSliceBudget island signature) s = execLogicSliceBudget island signature s := rfl
@[simp] theorem exec_jtagInstruction (scan clears07 clears88 : Bool) : exec (.jtagInstruction scan clears07 clears88) s = execJtagInstruction scan clears07 clears88 s := rfl
@[simp] theorem exec_recalTimer (results : List CalResult) : exec (.recalTimer results) s = execRecalTimer results s := rfl
@[simp] theorem exec_recalDeferExpiry (results : List CalResult) : exec (.recalDeferExpiry results) s = execRecalDeferExpiry results s := rfl
@[simp] theorem exec_thermalSample (temps : List (Option (BitVec 10))) : exec (.thermalSample temps) s = execThermalSample temps s := rfl
@[simp] theorem exec_supplySample (vinMv power : BitVec 16) : exec (.supplySample vinMv power) s = execSupplySample vinMv power s := rfl
@[simp] theorem exec_updateBegin (cmd : CmdRef) (addr : BitVec 64) (len : Word) : exec (.updateBegin cmd addr len) s = execUpdateBegin cmd addr len s := rfl
@[simp] theorem exec_updateStatus (cmd : CmdRef) : exec (.updateStatus cmd) s = execUpdateStatus cmd s := rfl
@[simp] theorem exec_updateData (cmd : CmdRef) (offset : Word) (data : Bytes) : exec (.updateData cmd offset data) s = execUpdateData cmd offset data s := rfl
@[simp] theorem exec_updateAbort (cmd : CmdRef) : exec (.updateAbort cmd) s = execUpdateAbort cmd s := rfl
@[simp] theorem exec_updateActivate (cmd : CmdRef) : exec (.updateActivate cmd) s = execUpdateActivate cmd s := rfl
@[simp] theorem exec_updateStaged (flashError : Option (Fin 7)) (misread : Option (Fin 6)) : exec (.updateStaged flashError misread) s = execUpdateStaged flashError misread s := rfl
@[simp] theorem exec_updateDataTimeout : exec (.updateDataTimeout) s = execUpdateDataTimeout s := rfl
@[simp] theorem exec_updateStageTimeout : exec (.updateStageTimeout) s = execUpdateStageTimeout s := rfl
@[simp] theorem exec_activationDone : exec (.activationDone) s = execActivationDone s := rfl
@[simp] theorem exec_keyLoad (cmd : CmdRef) (addr : BitVec 64) : exec (.keyLoad cmd addr) s = execKeyLoad cmd addr s := rfl
@[simp] theorem exec_keyStatus (cmd : CmdRef) : exec (.keyStatus cmd) s = execKeyStatus cmd s := rfl
@[simp] theorem exec_attest (cmd : CmdRef) (nonce output : BitVec 64) (which : BitVec 8) : exec (.attest cmd nonce output which) s = execAttest cmd nonce output which s := rfl
@[simp] theorem exec_fuseSet (cmd : CmdRef) (id arg authSlot : BitVec 8) (sig : BitVec 64) : exec (.fuseSet cmd id arg authSlot sig) s = execFuseSet cmd id arg authSlot sig s := rfl
@[simp] theorem exec_mgmtHello (cmd : CmdRef) (slot : BitVec 8) : exec (.mgmtHello cmd slot) s = execMgmtHello cmd slot s := rfl
@[simp] theorem exec_cairnSecure (cmd : CmdRef) (column word : BitVec 8) (value : Word) : exec (.cairnSecure cmd column word value) s = execCairnSecure cmd column word value s := rfl
@[simp] theorem exec_keyslotRestore (failed : List (Fin 16)) : exec (.keyslotRestore failed) s = execKeyslotRestore failed s := rfl
@[simp] theorem exec_smbusStatusRead (port : Fin 2) : exec (.smbusStatusRead port) s = execSmbusStatusRead port s := rfl
@[simp] theorem exec_smbusPowerRead (port : Fin 2) : exec (.smbusPowerRead port) s = execSmbusPowerRead port s := rfl
@[simp] theorem exec_smbusReset (port : Fin 2) : exec (.smbusReset port) s = execSmbusReset port s := rfl
@[simp] theorem exec_eventLogEntry : exec (.eventLogEntry) s = execEventLogEntry s := rfl
@[simp] theorem exec_refclkChange (quad : Fin 16) (ok : Bool) : exec (.refclkChange quad ok) s = execRefclkChange quad ok s := rfl
@[simp] theorem exec_prbsCheck (lane : Fin 64) (errors : List Bool) : exec (.prbsCheck lane errors) s = execPrbsCheck lane errors s := rfl
@[simp] theorem exec_ethLinkUp (port : Fin 16) : exec (.ethLinkUp port) s = execEthLinkUp port s := rfl
@[simp] theorem exec_pcieLinkUp (gen width : BitVec 4) : exec (.pcieLinkUp gen width) s = execPcieLinkUp gen width s := rfl
@[simp] theorem exec_d0Return : exec (.d0Return) s = execD0Return s := rfl
@[simp] theorem exec_flrComplete : exec (.flrComplete) s = execFlrComplete s := rfl
@[simp] theorem exec_hbmCommandSlot (pc : Fin 64) : exec (.hbmCommandSlot pc) s = execHbmCommandSlot pc s := rfl
@[simp] theorem exec_pcieCompletionRx (ch : Fin 32) (data : Bytes) : exec (.pcieCompletionRx ch data) s = execPcieCompletionRx ch data s := rfl
@[simp] theorem exec_dmaPiece : exec (.dmaPiece) s = execDmaPiece s := rfl
@[simp] theorem exec_dmaPieceDeferExpiry (ch : Fin 32) : exec (.dmaPieceDeferExpiry ch) s = execDmaPieceDeferExpiry ch s := rfl
@[simp] theorem exec_recoveryReady : exec (.recoveryReady) s = execRecoveryReady s := rfl
@[simp] theorem exec_deviceReset : exec (.deviceReset) s = execDeviceReset s := rfl
@[simp] theorem exec_intervalOscillatorDrift (pc : Fin 64) : exec (.intervalOscillatorDrift pc) s = execIntervalOscillatorDrift pc s := rfl

end Sys2Proof.Machine
end

