-- ==== Sys2Proof/Laws/Sparse.lean ====
section
/-! SUPPORT. The laws of sparse tables: reading after a write, and the canonical form kept by every operation. -/

namespace Sys2Proof.Machine

variable {α : Type}

/-- The numbers of a rising table are above its bound. -/
theorem Sparse.rising_weaken {lo lo' : Nat} {m : Sparse α} (h : lo' ≤ lo) (hm : Sparse.rising (some lo) m = true) :
    Sparse.rising (some lo') m = true := by
  cases m with
  | nil => rfl
  | cons e t =>
    simp only [Sparse.rising, Bool.and_eq_true, decide_eq_true_eq] at hm ⊢
    exact ⟨by omega, hm.2⟩

/-- A table that rises above a bound rises. -/
theorem Sparse.rising_none {lo : Nat} {m : Sparse α} (hm : Sparse.rising (some lo) m = true) :
    Sparse.rising none m = true := by
  cases m with
  | nil => rfl
  | cons e t =>
    simp only [Sparse.rising, Bool.and_eq_true] at hm ⊢
    exact hm.2

/-- Every number listed in a rising table is above its bound. -/
theorem Sparse.rising_mem {lo : Nat} {m : Sparse α} (hm : Sparse.rising (some lo) m = true) :
    ∀ e ∈ m, lo < e.1 := by
  induction m generalizing lo with
  | nil => simp
  | cons e t ih =>
    obtain ⟨k, v⟩ := e
    simp only [Sparse.rising, Bool.and_eq_true, decide_eq_true_eq] at hm
    intro x hx
    rcases List.mem_cons.1 hx with rfl | hx
    · exact hm.1
    · exact Nat.lt_trans hm.1 (ih hm.2 x hx)

/-- An entry below every listed number reads as unlisted. -/
theorem Sparse.get_of_rising {d : Nat → α} {lo k : Nat} {m : Sparse α} (hm : Sparse.rising (some lo) m = true)
    (h : k ≤ lo) : Sparse.get d m k = d k := by
  induction m generalizing lo with
  | nil => rfl
  | cons e t ih =>
    obtain ⟨k', v⟩ := e
    simp only [Sparse.rising, Bool.and_eq_true, decide_eq_true_eq] at hm
    have hne : k' ≠ k := by omega
    simp only [Sparse.get, hne, if_false]
    exact ih hm.2 (by omega)

/-! ### Erasing -/

theorem Sparse.rising_erase {lo : Nat} {m : Sparse α} (k : Nat) (hm : Sparse.rising (some lo) m = true) :
    Sparse.rising (some lo) (Sparse.erase m k) = true := by
  induction m generalizing lo with
  | nil => rfl
  | cons e t ih =>
    obtain ⟨k', v⟩ := e
    simp only [Sparse.rising, Bool.and_eq_true, decide_eq_true_eq] at hm
    simp only [Sparse.erase]
    split
    · exact Sparse.rising_weaken (Nat.le_of_lt hm.1) (ih hm.2)
    · simp only [Sparse.rising, Bool.and_eq_true, decide_eq_true_eq]
      exact ⟨hm.1, ih hm.2⟩

theorem Sparse.rising_none_erase {m : Sparse α} (k : Nat) (hm : Sparse.rising none m = true) :
    Sparse.rising none (Sparse.erase m k) = true := by
  cases m with
  | nil => rfl
  | cons e t =>
    obtain ⟨k', v⟩ := e
    simp only [Sparse.rising] at hm
    simp only [Sparse.erase]
    split
    · exact Sparse.rising_none (Sparse.rising_erase k hm)
    · simp only [Sparse.rising]
      exact Sparse.rising_erase k hm

theorem Sparse.mem_erase {m : Sparse α} {k : Nat} {e : Nat × α} (h : e ∈ Sparse.erase m k) : e ∈ m := by
  induction m with
  | nil => simp [Sparse.erase] at h
  | cons x t ih =>
    obtain ⟨k', v⟩ := x
    simp only [Sparse.erase] at h
    split at h
    · exact List.mem_cons_of_mem _ (ih h)
    · rcases List.mem_cons.1 h with rfl | h
      · exact List.mem_cons_self ..
      · exact List.mem_cons_of_mem _ (ih h)

/-- An erased entry reads as unlisted. -/
theorem Sparse.get_erase_self (d : Nat → α) (m : Sparse α) (k : Nat) : Sparse.get d (Sparse.erase m k) k = d k := by
  induction m with
  | nil => rfl
  | cons e t ih =>
    obtain ⟨k', v⟩ := e
    simp only [Sparse.erase]
    split
    · exact ih
    · rename_i h; simp [Sparse.get, h, ih]

/-- Erasing an entry leaves every other entry alone. -/
theorem Sparse.get_erase_ne (d : Nat → α) (m : Sparse α) {k j : Nat} (h : j ≠ k) :
    Sparse.get d (Sparse.erase m k) j = Sparse.get d m j := by
  induction m with
  | nil => rfl
  | cons e t ih =>
    obtain ⟨k', v⟩ := e
    simp only [Sparse.erase]
    split
    · rename_i hk
      have : k' ≠ j := by omega
      simp [Sparse.get, this, ih]
    · simp [Sparse.get, ih]

/-! ### Inserting -/

theorem Sparse.rising_insert {lo : Nat} {m : Sparse α} {k : Nat} (v : α) (hk : lo < k)
    (hm : Sparse.rising (some lo) m = true) : Sparse.rising (some lo) (Sparse.insert m k v) = true := by
  induction m generalizing lo with
  | nil => simp [Sparse.insert, Sparse.rising, hk]
  | cons e t ih =>
    obtain ⟨k', v'⟩ := e
    simp only [Sparse.rising, Bool.and_eq_true, decide_eq_true_eq] at hm
    simp only [Sparse.insert]
    split
    · rename_i h; simp [Sparse.rising, hk, h, hm.2]
    · split
      · rename_i h; subst h; simp [Sparse.rising, hm.1, hm.2]
      · rename_i h1 h2
        simp only [Sparse.rising, Bool.and_eq_true, decide_eq_true_eq]
        exact ⟨hm.1, ih (by omega) hm.2⟩

theorem Sparse.rising_none_insert {m : Sparse α} {k : Nat} (v : α) (hm : Sparse.rising none m = true) :
    Sparse.rising none (Sparse.insert m k v) = true := by
  cases m with
  | nil => rfl
  | cons e t =>
    obtain ⟨k', v'⟩ := e
    simp only [Sparse.rising] at hm
    simp only [Sparse.insert]
    split
    · rename_i h; simp [Sparse.rising, h, hm]
    · split
      · rename_i h; subst h; simpa [Sparse.rising] using hm
      · simp only [Sparse.rising]
        exact Sparse.rising_insert v (by omega) hm

theorem Sparse.mem_insert {m : Sparse α} {k : Nat} {v : α} {e : Nat × α} (h : e ∈ Sparse.insert m k v) :
    e = (k, v) ∨ e ∈ m := by
  induction m with
  | nil => simpa [Sparse.insert] using h
  | cons x t ih =>
    obtain ⟨k', v'⟩ := x
    simp only [Sparse.insert] at h
    split at h
    · rcases List.mem_cons.1 h with h | h
      · exact .inl h
      · exact .inr h
    · split at h
      · rcases List.mem_cons.1 h with h | h
        · exact .inl h
        · exact .inr (List.mem_cons_of_mem _ h)
      · rcases List.mem_cons.1 h with rfl | h
        · exact .inr (List.mem_cons_self ..)
        · rcases ih h with h | h
          · exact .inl h
          · exact .inr (List.mem_cons_of_mem _ h)

theorem Sparse.get_insert_self (d : Nat → α) (m : Sparse α) (k : Nat) (v : α) :
    Sparse.get d (Sparse.insert m k v) k = v := by
  induction m with
  | nil => simp [Sparse.insert, Sparse.get]
  | cons e t ih =>
    obtain ⟨k', v'⟩ := e
    simp only [Sparse.insert]
    split
    · simp [Sparse.get]
    · split
      · simp [Sparse.get]
      · rename_i h; simp [Sparse.get, h, ih]

theorem Sparse.get_insert_ne (d : Nat → α) (m : Sparse α) {k j : Nat} (v : α) (h : j ≠ k) :
    Sparse.get d (Sparse.insert m k v) j = Sparse.get d m j := by
  have hkj : k ≠ j := fun e => h e.symm
  induction m with
  | nil => simp [Sparse.insert, Sparse.get, hkj]
  | cons e t ih =>
    obtain ⟨k', v'⟩ := e
    simp only [Sparse.insert]
    split
    · simp [Sparse.get, hkj]
    · split
      · rename_i h2; subst h2; simp [Sparse.get, hkj]
      · simp [Sparse.get, ih]

/-! ### Writing and the canonical form -/

section
variable [DecidableEq α]

/-- What the canonical form says. -/
theorem Sparse.wf_iff {d : Nat → α} {m : Sparse α} :
    Sparse.wf d m = true ↔ Sparse.rising none m = true ∧ ∀ e ∈ m, e.2 ≠ d e.1 := by
  simp only [Sparse.wf, Bool.and_eq_true, List.all_eq_true, decide_eq_true_eq]

/-- A write keeps the canonical form. -/
theorem Sparse.wf_set {d : Nat → α} {m : Sparse α} (k : Nat) (v : α) (h : Sparse.wf d m = true) :
    Sparse.wf d (Sparse.set d m k v) = true := by
  obtain ⟨h1, h2⟩ := Sparse.wf_iff.1 h
  simp only [Sparse.set]
  split
  · exact Sparse.wf_iff.2 ⟨Sparse.rising_none_erase k h1, fun e he => h2 e (Sparse.mem_erase he)⟩
  · rename_i hv
    refine Sparse.wf_iff.2 ⟨Sparse.rising_none_insert v h1, fun e he => ?_⟩
    rcases Sparse.mem_insert he with rfl | he
    · exact hv
    · exact h2 e he

theorem Sparse.wf_erase {d : Nat → α} {m : Sparse α} (k : Nat) (h : Sparse.wf d m = true) :
    Sparse.wf d (Sparse.erase m k) = true := by
  obtain ⟨h1, h2⟩ := Sparse.wf_iff.1 h
  exact Sparse.wf_iff.2 ⟨Sparse.rising_none_erase k h1, fun e he => h2 e (Sparse.mem_erase he)⟩

omit [DecidableEq α] in
theorem Sparse.rising_filter {lo : Option Nat} {m : Sparse α} (p : Nat × α → Bool)
    (h : Sparse.rising lo m = true) : Sparse.rising lo (m.filter p) = true := by
  induction m generalizing lo with
  | nil => cases lo <;> rfl
  | cons e t ih =>
    obtain ⟨k, v⟩ := e
    have ht : Sparse.rising (some k) t = true := by
      cases lo with
      | none => simpa [Sparse.rising] using h
      | some lo => simp only [Sparse.rising, Bool.and_eq_true] at h; exact h.2
    simp only [List.filter_cons]
    split
    · cases lo with
      | none => simpa [Sparse.rising] using ih ht
      | some lo =>
        simp only [Sparse.rising, Bool.and_eq_true] at h ⊢
        exact ⟨h.1, ih ht⟩
    · cases lo with
      | none => exact Sparse.rising_none (ih ht)
      | some lo =>
        simp only [Sparse.rising, Bool.and_eq_true, decide_eq_true_eq] at h
        exact Sparse.rising_weaken (Nat.le_of_lt h.1) (ih ht)

/-- Unlisting entries keeps the canonical form. -/
theorem Sparse.wf_filter {d : Nat → α} {m : Sparse α} (p : Nat × α → Bool) (h : Sparse.wf d m = true) :
    Sparse.wf d (m.filter p) = true := by
  obtain ⟨h1, h2⟩ := Sparse.wf_iff.1 h
  exact Sparse.wf_iff.2 ⟨Sparse.rising_filter p h1, fun e he => h2 e (List.mem_filter.1 he).1⟩

theorem Sparse.wf_nil (d : Nat → α) : Sparse.wf d ([] : Sparse α) = true := rfl

/-- A read after a write to the same entry gives the value written. -/
theorem Sparse.get_set_self (d : Nat → α) (m : Sparse α) (k : Nat) (v : α) :
    Sparse.get d (Sparse.set d m k v) k = v := by
  simp only [Sparse.set]
  split
  · rename_i hv; rw [Sparse.get_erase_self d m k, hv]
  · exact Sparse.get_insert_self d m k v

/-- A write leaves every other entry alone. -/
theorem Sparse.get_set_ne (d : Nat → α) (m : Sparse α) {k j : Nat} (v : α) (h : j ≠ k) :
    Sparse.get d (Sparse.set d m k v) j = Sparse.get d m j := by
  simp only [Sparse.set]
  split
  · exact Sparse.get_erase_ne d m h
  · exact Sparse.get_insert_ne d m v h

end

end Sys2Proof.Machine
end

