-- ==== Sys2Proof/Laws/Regs.lean ====
section
/-! SUPPORT. The laws of the register file: a field read after a write of the same field, of another field of its
register, of another register. -/

namespace Sys2Proof.Machine

/-! ### Bit fields -/

theorem bits_lt (n lo w : Nat) : bits n lo w < 2 ^ w := Nat.mod_lt _ (Nat.two_pow_pos w)

theorem bit_eq_testBit (n i : Nat) : bit n i = n.testBit i := by
  rw [bit, Nat.testBit_eq_decide_div_mod_eq]
  rfl

/-- A bit that was set reads 1. -/
theorem bit_or_self (n i : Nat) : bit (n ||| 2 ^ i) i = true := by
  simp [bit_eq_testBit]

/-- A field that fits its register. -/
abbrev Fld.fits (f : Fld) : Prop := f.lo + f.width ≤ 32

/-- Two fields without a common bit. -/
abbrev Fld.apart (f g : Fld) : Prop := f.lo + f.width ≤ g.lo ∨ g.lo + g.width ≤ f.lo

/-- The word with one field replaced: what stands below, the new field, what stands above. -/
theorem Fld.inWord_toNat (f : Fld) (w : Word) (v : Nat) (hf : f.fits) :
    (f.inWord w v).toNat = w.toNat % 2 ^ f.lo + v % 2 ^ f.width * 2 ^ f.lo +
      w.toNat / 2 ^ (f.lo + f.width) * 2 ^ (f.lo + f.width) := by
  have hw : w.toNat < 2 ^ 32 := w.isLt
  have hpow : 2 ^ (f.lo + f.width) = 2 ^ f.lo * 2 ^ f.width := Nat.pow_add ..
  have hp : 0 < 2 ^ f.lo := Nat.two_pow_pos _
  have hq : 0 < 2 ^ f.width := Nat.two_pow_pos _
  have h1 : w.toNat / 2 ^ (f.lo + f.width) = w.toNat / 2 ^ f.lo / 2 ^ f.width := by
    rw [hpow, Nat.div_div_eq_div_mul]
  have h2 := Nat.div_add_mod w.toNat (2 ^ f.lo)
  have h3 := Nat.div_add_mod (w.toNat / 2 ^ f.lo) (2 ^ f.width)
  have hv : v % 2 ^ f.width < 2 ^ f.width := Nat.mod_lt _ hq
  have hm : w.toNat % 2 ^ f.lo < 2 ^ f.lo := Nat.mod_lt _ hp
  obtain ⟨A, hA⟩ : ∃ A, A = w.toNat % 2 ^ f.lo := ⟨_, rfl⟩
  obtain ⟨B, hB⟩ : ∃ B, B = w.toNat / 2 ^ f.lo % 2 ^ f.width := ⟨_, rfl⟩
  obtain ⟨C, hC⟩ : ∃ C, C = w.toNat / 2 ^ f.lo / 2 ^ f.width := ⟨_, rfl⟩
  have hsum : w.toNat = A + B * 2 ^ f.lo + C * (2 ^ f.lo * 2 ^ f.width) := by
    rw [← hA] at h2
    rw [← hB, ← hC] at h3
    rw [← h2, ← h3, hC]
    ring
  have key : w.toNat - bits w.toNat f.lo f.width * 2 ^ f.lo + v % 2 ^ f.width * 2 ^ f.lo
      = A + v % 2 ^ f.width * 2 ^ f.lo + C * (2 ^ f.lo * 2 ^ f.width) := by
    have hb : bits w.toNat f.lo f.width = B := hB.symm
    rw [hb]
    omega
  have hC32 : (C + 1) * (2 ^ f.lo * 2 ^ f.width) ≤ 2 ^ 32 := by
    have e : 2 ^ 32 = 2 ^ (32 - (f.lo + f.width)) * (2 ^ f.lo * 2 ^ f.width) := by
      rw [← hpow, ← Nat.pow_add]
      congr 1
      unfold Fld.fits at hf
      omega
    have : C < 2 ^ (32 - (f.lo + f.width)) := by
      rw [hC, Nat.div_div_eq_div_mul]
      refine (Nat.div_lt_iff_lt_mul (Nat.mul_pos hp hq)).2 ?_
      rw [← e]
      exact hw
    rw [e]
    exact Nat.mul_le_mul_right _ this
  have hbound : A + v % 2 ^ f.width * 2 ^ f.lo + C * (2 ^ f.lo * 2 ^ f.width) < 2 ^ 32 := by
    have : v % 2 ^ f.width * 2 ^ f.lo + 2 ^ f.lo ≤ 2 ^ f.lo * 2 ^ f.width := by
      calc v % 2 ^ f.width * 2 ^ f.lo + 2 ^ f.lo = (v % 2 ^ f.width + 1) * 2 ^ f.lo := by ring
        _ ≤ 2 ^ f.width * 2 ^ f.lo := Nat.mul_le_mul_right _ hv
        _ = 2 ^ f.lo * 2 ^ f.width := Nat.mul_comm ..
    have h5 : (C + 1) * (2 ^ f.lo * 2 ^ f.width) = C * (2 ^ f.lo * 2 ^ f.width) + 2 ^ f.lo * 2 ^ f.width := by ring
    omega
  unfold Fld.inWord
  rw [BitVec.toNat_ofNat, key, Nat.mod_eq_of_lt hbound, h1, ← hA, hC, hpow]

/-- A field reads back as the value written into it. -/
theorem Fld.ofWord_inWord (f : Fld) (w : Word) (v : Nat) (hf : f.fits) : f.ofWord (f.inWord w v) = v % 2 ^ f.width := by
  have hp : 0 < 2 ^ f.lo := Nat.two_pow_pos _
  unfold Fld.ofWord bits
  rw [Fld.inWord_toNat f w v hf]
  have e : w.toNat % 2 ^ f.lo + v % 2 ^ f.width * 2 ^ f.lo +
      w.toNat / 2 ^ (f.lo + f.width) * 2 ^ (f.lo + f.width)
      = w.toNat % 2 ^ f.lo + 2 ^ f.lo * (v % 2 ^ f.width + 2 ^ f.width * (w.toNat / 2 ^ (f.lo + f.width))) := by
    rw [Nat.pow_add]; ring
  rw [e, Nat.add_mul_div_left _ _ hp, Nat.div_eq_of_lt (Nat.mod_lt _ hp), Nat.zero_add, Nat.add_mul_mod_self_left,
    Nat.mod_mod]

/-- A field keeps its value when another field of the word is written. -/
theorem Fld.ofWord_inWord_apart (f g : Fld) (w : Word) (v : Nat) (hf : f.fits) (h : f.apart g) :
    g.ofWord (f.inWord w v) = g.ofWord w := by
  have hp : 0 < 2 ^ f.lo := Nat.two_pow_pos _
  have hq : 0 < 2 ^ f.width := Nat.two_pow_pos _
  unfold Fld.ofWord bits
  rw [Fld.inWord_toNat f w v hf]
  rcases h with h | h
  · -- the other field stands above
    obtain ⟨k, hk⟩ : ∃ k, g.lo = f.lo + f.width + k := ⟨g.lo - (f.lo + f.width), by omega⟩
    have lowlt : w.toNat % 2 ^ f.lo + v % 2 ^ f.width * 2 ^ f.lo < 2 ^ (f.lo + f.width) := by
      have hv : v % 2 ^ f.width < 2 ^ f.width := Nat.mod_lt _ hq
      have hm : w.toNat % 2 ^ f.lo < 2 ^ f.lo := Nat.mod_lt _ hp
      rw [Nat.pow_add]
      calc w.toNat % 2 ^ f.lo + v % 2 ^ f.width * 2 ^ f.lo < 2 ^ f.lo + v % 2 ^ f.width * 2 ^ f.lo := by omega
        _ = (v % 2 ^ f.width + 1) * 2 ^ f.lo := by ring
        _ ≤ 2 ^ f.width * 2 ^ f.lo := Nat.mul_le_mul_right _ hv
        _ = 2 ^ f.lo * 2 ^ f.width := Nat.mul_comm ..
    rw [hk, Nat.pow_add _ (f.lo + f.width) k, ← Nat.div_div_eq_div_mul, ← Nat.div_div_eq_div_mul,
      Nat.add_mul_div_right _ _ (Nat.two_pow_pos _), Nat.div_eq_of_lt lowlt, Nat.zero_add]
  · -- the other field stands below
    have e1 : w.toNat % 2 ^ f.lo + v % 2 ^ f.width * 2 ^ f.lo +
        w.toNat / 2 ^ (f.lo + f.width) * 2 ^ (f.lo + f.width)
        = w.toNat % 2 ^ f.lo + 2 ^ f.lo * (v % 2 ^ f.width + 2 ^ f.width * (w.toNat / 2 ^ (f.lo + f.width))) := by
      rw [Nat.pow_add]; ring
    obtain ⟨k, hk⟩ : ∃ k, f.lo = g.lo + g.width + k := ⟨f.lo - (g.lo + g.width), by omega⟩
    have cut : ∀ n : Nat, n / 2 ^ g.lo % 2 ^ g.width = n % 2 ^ f.lo / 2 ^ g.lo % 2 ^ g.width := by
      intro n
      have h1 : n % 2 ^ f.lo / 2 ^ g.lo = n / 2 ^ g.lo % 2 ^ (g.width + k) := by
        rw [hk, Nat.add_assoc, Nat.pow_add 2 g.lo (g.width + k), Nat.mod_mul_right_div_self]
      rw [h1, Nat.mod_mod_of_dvd _ (Nat.pow_dvd_pow 2 (Nat.le_add_right ..))]
    rw [cut, e1, Nat.add_mul_mod_self_left, Nat.mod_mod, ← cut]

/-! ### The register file -/

/-- What the canonical form of the whole state says. -/
theorem State.wf_iff {s : State} :
    s.wf = true ↔ s.regsWf = true ∧ s.hbmWf = true ∧ s.flashWf = true := by
  simp only [State.wf, Bool.and_eq_true, and_assoc]

theorem State.wf_regs {s : State} (h : s.wf = true) : s.regsWf = true := (State.wf_iff.1 h).1
theorem State.wf_hbm {s : State} (h : s.wf = true) : s.hbmWf = true := (State.wf_iff.1 h).2.1
theorem State.wf_flash {s : State} (h : s.wf = true) : s.flashWf = true := (State.wf_iff.1 h).2.2

theorem State.reg_setReg_self (s : State) (a : Nat) (w : Word) : (s.setReg a w).reg a = w :=
  Sparse.get_set_self resetWord s.regs a w

theorem State.reg_setReg_ne (s : State) {a b : Nat} (w : Word) (h : b ≠ a) : (s.setReg a w).reg b = s.reg b :=
  Sparse.get_set_ne resetWord s.regs w h

/-- A field reads back as the value written. -/
theorem State.rd_wr_self (s : State) (f : Fld) (i v : Nat) (hf : f.fits) :
    (s.wr f i v).rd f i = v % 2 ^ f.width := by
  unfold State.rd State.wr
  rw [State.reg_setReg_self]
  exact f.ofWord_inWord _ _ hf

/-- A register's field read after the whole word was set. -/
theorem State.rd_setReg_self (s : State) (f : Fld) (i : Nat) (w : Word) : (s.setReg (f.addr i) w).rd f i = f.ofWord w := by
  unfold State.rd
  rw [State.reg_setReg_self]

/-- Another register's field keeps its value. -/
theorem State.rd_wr_ne (s : State) (f g : Fld) (i j v : Nat) (h : g.addr j ≠ f.addr i) :
    (s.wr f i v).rd g j = s.rd g j := by
  unfold State.rd State.wr
  rw [State.reg_setReg_ne s _ h]

/-- A field with no bit in common keeps its value, be it of the same register or not. -/
theorem State.rd_wr_apart (s : State) (f g : Fld) (i j v : Nat) (hf : f.fits) (hfg : f.apart g) :
    (s.wr f i v).rd g j = s.rd g j := by
  by_cases e : g.addr j = f.addr i
  · unfold State.rd State.wr
    rw [e, State.reg_setReg_self]
    exact Fld.ofWord_inWord_apart f g _ _ hf hfg
  · exact State.rd_wr_ne s f g i j v e

/-- A field holds no more than its width. -/
theorem State.rd_lt (s : State) (f : Fld) (i : Nat) : s.rd f i < 2 ^ f.width := bits_lt ..

/-! ### Bytes of HBM and of the flash -/

theorem State.byte_setByte_self (s : State) (a : Nat) (b : Byte) : (s.setByte a b).byte a = b :=
  Sparse.get_set_self hbmUnlisted s.hbm a b

theorem State.byte_setByte_ne (s : State) {a c : Nat} (b : Byte) (h : c ≠ a) : (s.setByte a b).byte c = s.byte c :=
  Sparse.get_set_ne hbmUnlisted s.hbm b h

theorem State.flashByte_setFlashByte_self (s : State) (a : Nat) (b : Byte) :
    (s.setFlashByte a b).flashByte a = b :=
  Sparse.get_set_self flashErased s.flash a b

theorem State.flashByte_setFlashByte_ne (s : State) {a c : Nat} (b : Byte) (h : c ≠ a) :
    (s.setFlashByte a b).flashByte c = s.flashByte c :=
  Sparse.get_set_ne flashErased s.flash b h

end Sys2Proof.Machine
end

