-- ==== Sys2Proof/Laws/Keeps.lean ====
section
/-! SUPPORT. What every operation and every command leaves alone: the queue, the model's clock, blown fuses, the
canonical form of the stores. One lemma per operation, in the files Keeps<Unit>.lean. -/

namespace Sys2Proof.Machine

theorem Fuses.le_refl (a : Fuses) : Fuses.kept a a := ⟨Nat.le_refl _, id, id, id⟩
theorem Fuses.le_trans {a b c : Fuses} (h : Fuses.kept a b) (g : Fuses.kept b c) : Fuses.kept a c :=
  ⟨Nat.le_trans h.1 g.1, g.2.1 ∘ h.2.1, g.2.2.1 ∘ h.2.2.1, g.2.2.2 ∘ h.2.2.2⟩

/-- The stores that may change: HBM, the flash, the key slots, the fuses. -/
structure Touch where
  hbm : Bool := false
  flash : Bool := false
  keys : Bool := false
  fuses : Bool := false

/-- What `t` keeps of `s`: its queue, its clock, its blown fuses, its canonical form, and every store that `w` does not
name; it has drawn no fewer free values. -/
structure Keeps (w : Touch) (s t : State) : Prop where
  pending : t.pending = s.pending
  clock : t.clock = s.clock
  fresh : s.fresh ≤ t.fresh
  fuses : Fuses.kept s.fuses t.fuses
  wf : s.wf = true → t.wf = true
  sameHbm : w.hbm = false → t.hbm = s.hbm
  sameFlash : w.flash = false → t.flash = s.flash
  sameKeys : w.keys = false → t.keys = s.keys
  sameFuses : w.fuses = false → t.fuses = s.fuses

variable {w : Touch}

theorem Keeps.refl (s : State) : Keeps w s s :=
  ⟨rfl, rfl, Nat.le_refl _, Fuses.le_refl _, id, fun _ => rfl, fun _ => rfl, fun _ => rfl, fun _ => rfl⟩

theorem Keeps.trans {s t u : State} (h : Keeps w s t) (g : Keeps w t u) : Keeps w s u :=
  ⟨g.pending.trans h.pending, g.clock.trans h.clock, Nat.le_trans h.fresh g.fresh, Fuses.le_trans h.fuses g.fuses,
    g.wf ∘ h.wf, fun e => (g.sameHbm e).trans (h.sameHbm e), fun e => (g.sameFlash e).trans (h.sameFlash e),
    fun e => (g.sameKeys e).trans (h.sameKeys e), fun e => (g.sameFuses e).trans (h.sameFuses e)⟩

/-- A store that may change is not one that stays. -/
theorem Touch.absurd {b : Bool} {P : Prop} (h : b = true) (e : b = false) : P := by simp [h] at e

/-- An update of fields that `Keeps` does not speak of. -/
theorem Keeps.same {s0 s t : State} (h : Keeps w s0 s) (h1 : t.pending = s.pending) (h2 : t.clock = s.clock)
    (h3 : t.fresh = s.fresh) (h4 : t.fuses = s.fuses) (h5 : t.regs = s.regs) (h6 : t.hbm = s.hbm)
    (h7 : t.flash = s.flash) (h8 : t.keys = s.keys) : Keeps w s0 t := by
  refine h.trans ⟨h1, h2, Nat.le_of_eq h3.symm, h4 ▸ Fuses.le_refl _, fun hs => ?_, fun _ => h6, fun _ => h7,
    fun _ => h8, fun _ => h4⟩
  have : t.wf = s.wf := by simp only [State.wf, State.regsWf, State.hbmWf, State.flashWf, h5, h6, h7]
  rw [this]
  exact hs

/-- An update of fields that `Keeps` does not speak of, as a state with its fields written out. -/
theorem Keeps.upd {s0 s : State}
    {latches : Sparse Word} {locks : Sparse Word} {out : List Output} {logQueue : List LogEntry} {chief :
    Chief} {cfg : Cfg} {links : Lanes} {axes : Sparse Axis} {reel : Reel} {time : TimeUnit} {headbox :
    Headbox} {calender : Sparse CalCh} {coefActive : Sparse Word} {ridges : Sparse Ridge} {stats : Stats}
    {couch : Couch} {forestActive : Sparse Word} {layoutKeys : Sparse (Option Nat)} {layout : Layout} {kernels
    : Sparse KernelCtx} {mould : Mould} {doseActive : Sparse Word} {wm : Watermark} {laid : Laid} {laidChs :
    Sparse LaidCh} {vat : Sparse (List Nat)} {botActive : Sparse Word} {scree : Scree} {screeChs : Sparse
    ScreeCh} {engines : Sparse Engine} {mem : Hbm} {host : HostIf} {test : TestCtl} {update : Update}
    (h : Keeps w s0 s) : Keeps w s0 (State.mk
      s.pending s.regs latches locks s.hbm s.flash s.clock s.fresh out logQueue chief cfg links axes reel time
      headbox calender coefActive ridges stats couch forestActive s.keys layoutKeys layout kernels mould
      doseActive wm laid laidChs vat botActive scree screeChs engines mem host test s.fuses update) :=
  h.same rfl rfl rfl rfl rfl rfl rfl rfl

/-- An update of the registers that keeps their canonical form. -/
theorem Keeps.updRegs {s0 s t : State} (h : Keeps w s0 s) (h1 : t.pending = s.pending) (h2 : t.clock = s.clock)
    (h3 : t.fresh = s.fresh) (h4 : t.fuses = s.fuses) (h6 : t.hbm = s.hbm) (h7 : t.flash = s.flash)
    (h8 : t.keys = s.keys) (h5 : s.regsWf = true → t.regsWf = true) : Keeps w s0 t := by
  refine h.trans ⟨h1, h2, Nat.le_of_eq h3.symm, h4 ▸ Fuses.le_refl _, fun hs => ?_, fun _ => h6, fun _ => h7,
    fun _ => h8, fun _ => h4⟩
  rw [State.wf_iff] at hs ⊢
  refine ⟨h5 hs.1, ?_, ?_⟩
  · have : t.hbmWf = s.hbmWf := by simp only [State.hbmWf, h6]
    rw [this]; exact hs.2.1
  · have : t.flashWf = s.flashWf := by simp only [State.flashWf, h7]
    rw [this]; exact hs.2.2

/-- An update of HBM that keeps its canonical form. -/
theorem Keeps.updHbm {s0 s t : State} (h : Keeps w s0 s) (hw : w.hbm = true) (h1 : t.pending = s.pending)
    (h2 : t.clock = s.clock) (h3 : t.fresh = s.fresh) (h4 : t.fuses = s.fuses) (h5 : t.regs = s.regs)
    (h7 : t.flash = s.flash) (h8 : t.keys = s.keys) (h6 : s.hbmWf = true → t.hbmWf = true) : Keeps w s0 t := by
  refine h.trans ⟨h1, h2, Nat.le_of_eq h3.symm, h4 ▸ Fuses.le_refl _, fun hs => ?_, Touch.absurd hw, fun _ => h7,
    fun _ => h8, fun _ => h4⟩
  rw [State.wf_iff] at hs ⊢
  refine ⟨?_, h6 hs.2.1, ?_⟩
  · have : t.regsWf = s.regsWf := by simp only [State.regsWf, h5]
    rw [this]; exact hs.1
  · have : t.flashWf = s.flashWf := by simp only [State.flashWf, h7]
    rw [this]; exact hs.2.2

/-- An update of the flash that keeps its canonical form. -/
theorem Keeps.updFlash {s0 s t : State} (h : Keeps w s0 s) (hw : w.flash = true) (h1 : t.pending = s.pending)
    (h2 : t.clock = s.clock) (h3 : t.fresh = s.fresh) (h4 : t.fuses = s.fuses) (h5 : t.regs = s.regs)
    (h6 : t.hbm = s.hbm) (h8 : t.keys = s.keys) (h7 : s.flashWf = true → t.flashWf = true) : Keeps w s0 t := by
  refine h.trans ⟨h1, h2, Nat.le_of_eq h3.symm, h4 ▸ Fuses.le_refl _, fun hs => ?_, fun _ => h6, Touch.absurd hw,
    fun _ => h8, fun _ => h4⟩
  rw [State.wf_iff] at hs ⊢
  refine ⟨?_, ?_, h7 hs.2.2⟩
  · have : t.regsWf = s.regsWf := by simp only [State.regsWf, h5]
    rw [this]; exact hs.1
  · have : t.hbmWf = s.hbmWf := by simp only [State.hbmWf, h6]
    rw [this]; exact hs.2.1

/-- An update of the key slots. -/
theorem Keeps.updKeys {s0 s t : State} (h : Keeps w s0 s) (hw : w.keys = true) (h1 : t.pending = s.pending)
    (h2 : t.clock = s.clock) (h3 : t.fresh = s.fresh) (h4 : t.fuses = s.fuses) (h5 : t.regs = s.regs)
    (h6 : t.hbm = s.hbm) (h7 : t.flash = s.flash) : Keeps w s0 t := by
  refine h.trans ⟨h1, h2, Nat.le_of_eq h3.symm, h4 ▸ Fuses.le_refl _, fun hs => ?_, fun _ => h6, fun _ => h7,
    Touch.absurd hw, fun _ => h4⟩
  have : t.wf = s.wf := by simp only [State.wf, State.regsWf, State.hbmWf, State.flashWf, h5, h6, h7]
  rw [this]
  exact hs

theorem Keeps.ite {s0 a b : State} {c : Prop} [Decidable c] (ha : c → Keeps w s0 a) (hb : ¬c → Keeps w s0 b) :
    Keeps w s0 (if c then a else b) := by
  split
  · exact ha ‹_›
  · exact hb ‹_›

theorem Keeps.foldl {β : Type} {s0 s : State} {f : State → β → State} {l : List β}
    (hf : ∀ (t : State) (x : β), Keeps w s0 t → Keeps w s0 (f t x)) (h : Keeps w s0 s) : Keeps w s0 (l.foldl f s) := by
  induction l generalizing s with
  | nil => exact h
  | cons x l ih => exact ih (hf s x h)

/-- A fold that carries a state beside other results. -/
theorem Keeps.foldl_fst {β γ : Type} {s0 : State} {f : State × γ → β → State × γ} {l : List β} {p : State × γ}
    (hf : ∀ (q : State × γ) (x : β), Keeps w s0 q.1 → Keeps w s0 (f q x).1) (h : Keeps w s0 p.1) : Keeps w s0 (l.foldl f p).1 := by
  induction l generalizing p with
  | nil => exact h
  | cons x l ih => exact ih (hf p x h)

theorem Keeps.foldl_snd {β γ : Type} {s0 : State} {f : γ × State → β → γ × State} {l : List β} {p : γ × State}
    (hf : ∀ (q : γ × State) (x : β), Keeps w s0 q.2 → Keeps w s0 (f q x).2) (h : Keeps w s0 p.2) : Keeps w s0 (l.foldl f p).2 := by
  induction l generalizing p with
  | nil => exact h
  | cons x l ih => exact ih (hf p x h)

theorem forN_keeps {s0 s : State} {n : Nat} {f : Nat → State → State}
    (hf : ∀ (k : Nat) (t : State), Keeps w s0 t → Keeps w s0 (f k t)) (h : Keeps w s0 s) : Keeps w s0 (forN n f s) :=
  Keeps.foldl (fun t k ht => hf k t ht) h

theorem forAll_keeps {α : Type} {s0 s : State} {l : List α} {f : α → State → State}
    (hf : ∀ (a : α) (t : State), Keeps w s0 t → Keeps w s0 (f a t)) (h : Keeps w s0 s) : Keeps w s0 (forAll l f s) :=
  Keeps.foldl (fun t a ht => hf a t ht) h

/-- What a command's answer keeps of a state. -/
structure KeepsOut (w : Touch) (s0 : State) (o : Out) : Prop where
  keeps : ∀ t, o = .next t → Keeps w s0 t

theorem KeepsOut.next {s0 t : State} (h : Keeps w s0 t) : KeepsOut w s0 (.next t) := by
  refine ⟨fun u hu => ?_⟩
  cases hu
  exact h

theorem KeepsOut.ite {s0 : State} {a b : Out} {c : Prop} [Decidable c] (ha : c → KeepsOut w s0 a)
    (hb : ¬c → KeepsOut w s0 b) : KeepsOut w s0 (if c then a else b) := by
  split
  · exact ha ‹_›
  · exact hb ‹_›

/-- What an operation that may answer no state keeps. -/
structure KeepsSome (w : Touch) (s0 : State) (o : Option State) : Prop where
  keeps : ∀ t, o = some t → Keeps w s0 t

theorem KeepsSome.none {s0 : State} : KeepsSome w s0 none := ⟨fun _ h => by cases h⟩

theorem KeepsSome.some {s0 t : State} (h : Keeps w s0 t) : KeepsSome w s0 (some t) := by
  refine ⟨fun u hu => ?_⟩
  cases hu
  exact h

theorem KeepsSome.ite {s0 : State} {a b : Option State} {c : Prop} [Decidable c] (ha : c → KeepsSome w s0 a)
    (hb : ¬c → KeepsSome w s0 b) : KeepsSome w s0 (if c then a else b) := by
  split
  · exact ha ‹_›
  · exact hb ‹_›

end Sys2Proof.Machine
end

