-- ==== Sys2Proof/Laws/KeepsOps.lean ====
section
/-! SUPPORT. What the operations of Machine/Ops.lean keep of a state (Laws/Keeps.lean). -/

namespace Sys2Proof.Machine

theorem State.setReg_keeps {tw : Touch} {s0 : State} (s : State) (a : Nat) (w : Word) (hK : Keeps tw s0 s) :
    Keeps tw s0 (State.setReg s a w) := by
  refine Keeps.updRegs hK rfl rfl rfl rfl rfl rfl rfl (fun hs => ?_)
  exact Sparse.wf_set a w hs

theorem State.wr_keeps {tw : Touch} {s0 : State} (s : State) (f : Fld) (i : Nat) (v : Nat) (hK : Keeps tw s0 s) :
    Keeps tw s0 (State.wr s f i v) := by
  unfold State.wr
  try dsimp only
  repeat' first
    | with_reducible assumption
    | with_reducible refine Keeps.ite (fun _ => ?_) (fun _ => ?_)
    | with_reducible apply State.setReg_keeps

theorem State.up_keeps {tw : Touch} {s0 : State} (s : State) (f : Fld) (i : Nat) (hK : Keeps tw s0 s) :
    Keeps tw s0 (State.up s f i) := by
  unfold State.up
  try dsimp only
  repeat' first
    | with_reducible assumption
    | with_reducible refine Keeps.ite (fun _ => ?_) (fun _ => ?_)
    | with_reducible apply State.wr_keeps

theorem State.down_keeps {tw : Touch} {s0 : State} (s : State) (f : Fld) (i : Nat) (hK : Keeps tw s0 s) :
    Keeps tw s0 (State.down s f i) := by
  unfold State.down
  try dsimp only
  repeat' first
    | with_reducible assumption
    | with_reducible refine Keeps.ite (fun _ => ?_) (fun _ => ?_)
    | with_reducible apply State.wr_keeps

theorem State.count_keeps {tw : Touch} {s0 : State} (s : State) (f : Fld) (i : Nat) (n : Nat) (hK : Keeps tw s0 s) :
    Keeps tw s0 (State.count s f i n) := by
  unfold State.count
  try dsimp only
  repeat' first
    | with_reducible assumption
    | with_reducible refine Keeps.ite (fun _ => ?_) (fun _ => ?_)
    | with_reducible apply State.wr_keeps

theorem State.advance_keeps {tw : Touch} {s0 : State} (s : State) (f : Fld) (i : Nat) (n : Nat) (hK : Keeps tw s0 s) :
    Keeps tw s0 (State.advance s f i n) := by
  unfold State.advance
  try dsimp only
  repeat' first
    | with_reducible assumption
    | with_reducible refine Keeps.ite (fun _ => ?_) (fun _ => ?_)
    | with_reducible apply State.wr_keeps

theorem State.peak_keeps {tw : Touch} {s0 : State} (s : State) (f : Fld) (i : Nat) (v : Nat) (hK : Keeps tw s0 s) :
    Keeps tw s0 (State.peak s f i v) := by
  unfold State.peak
  try dsimp only
  repeat' first
    | with_reducible assumption
    | with_reducible refine Keeps.ite (fun _ => ?_) (fun _ => ?_)
    | with_reducible apply State.wr_keeps

theorem State.wr64_keeps {tw : Touch} {s0 : State} (s : State) (lo : Fld) (hi : Fld) (i : Nat) (v : Nat) (hK : Keeps tw s0 s) :
    Keeps tw s0 (State.wr64 s lo hi i v) := by
  unfold State.wr64
  try dsimp only
  repeat' first
    | with_reducible assumption
    | with_reducible refine Keeps.ite (fun _ => ?_) (fun _ => ?_)
    | with_reducible apply State.wr_keeps

theorem State.wrI64_keeps {tw : Touch} {s0 : State} (s : State) (lo : Fld) (hi : Fld) (i : Nat) (v : Int) (hK : Keeps tw s0 s) :
    Keeps tw s0 (State.wrI64 s lo hi i v) := by
  unfold State.wrI64
  try dsimp only
  repeat' first
    | with_reducible assumption
    | with_reducible refine Keeps.ite (fun _ => ?_) (fun _ => ?_)
    | with_reducible apply State.wr64_keeps

theorem State.commitPair_keeps {tw : Touch} {s0 : State} (s : State) (lo : Fld) (hi : Fld) (i : Nat) (value : Word) (hK : Keeps tw s0 s) :
    Keeps tw s0 (State.commitPair s lo hi i value) := by
  unfold State.commitPair
  try dsimp only
  repeat' first
    | with_reducible assumption
    | with_reducible refine Keeps.ite (fun _ => ?_) (fun _ => ?_)
    | with_reducible apply State.wr_keeps
    | with_reducible refine Keeps.foldl (fun _ _ _ => ?_) ?_
    | with_reducible refine Keeps.foldl_fst (fun _ _ _ => ?_) ?_
    | with_reducible refine Keeps.foldl_snd (fun _ _ _ => ?_) ?_
    | split
    | intro _
    | fail_if_no_progress (with_reducible apply Keeps.upd)

theorem State.dropStaged_keeps {tw : Touch} {s0 : State} (s : State) (lo : Fld) (i : Nat) (hK : Keeps tw s0 s) :
    Keeps tw s0 (State.dropStaged s lo i) := by
  unfold State.dropStaged
  try dsimp only
  repeat' first
    | with_reducible assumption
    | with_reducible refine Keeps.ite (fun _ => ?_) (fun _ => ?_)
    | with_reducible refine Keeps.foldl (fun _ _ _ => ?_) ?_
    | with_reducible refine Keeps.foldl_fst (fun _ _ _ => ?_) ?_
    | with_reducible refine Keeps.foldl_snd (fun _ _ _ => ?_) ?_
    | split
    | intro _
    | fail_if_no_progress (with_reducible apply Keeps.upd)

theorem State.clearReg_keeps {tw : Touch} {s0 : State} (s : State) (a : Nat) (hK : Keeps tw s0 s) :
    Keeps tw s0 (State.clearReg s a) := by
  refine Keeps.updRegs hK rfl rfl rfl rfl rfl rfl rfl (fun hs => ?_)
  exact Sparse.wf_erase a hs

theorem State.resetSpan_keeps {tw : Touch} {s0 : State} (s : State) (lo : Nat) (hi : Nat) (hK : Keeps tw s0 s) :
    Keeps tw s0 (State.resetSpan s lo hi) := by
  refine Keeps.updRegs hK rfl rfl rfl rfl rfl rfl rfl (fun hs => ?_)
  exact Sparse.wf_filter _ hs

theorem State.setByte_keeps {tw : Touch} {s0 : State} (s : State) (a : Nat) (b : Byte) (hK : Keeps tw s0 s) (hw_hbm : tw.hbm = true) :
    Keeps tw s0 (State.setByte s a b) := by
  refine Keeps.updHbm hK hw_hbm rfl rfl rfl rfl rfl rfl rfl (fun hs => ?_)
  exact Sparse.wf_set a b hs

theorem State.keepHbm_keeps {tw : Touch} {s0 : State} (s : State) (keep : Nat → Bool) (hK : Keeps tw s0 s) (hw_hbm : tw.hbm = true) :
    Keeps tw s0 (State.keepHbm s keep) := by
  exact Keeps.updHbm hK hw_hbm rfl rfl rfl rfl rfl rfl rfl (fun hs => Sparse.wf_filter _ hs)

theorem State.setBytes_keeps {tw : Touch} {s0 : State} (s : State) (a : Nat) (x2 : Bytes) (hK : Keeps tw s0 s) (hw_hbm : tw.hbm = true) :
    Keeps tw s0 (State.setBytes s a x2) := by
  induction x2 generalizing s a with
  | nil => exact hK
  | cons b t ih => exact ih _ _ (State.setByte_keeps s a b hK hw_hbm)

theorem State.setFlashByte_keeps {tw : Touch} {s0 : State} (s : State) (a : Nat) (b : Byte) (hK : Keeps tw s0 s) (hw_flash : tw.flash = true) :
    Keeps tw s0 (State.setFlashByte s a b) := by
  refine Keeps.updFlash hK hw_flash rfl rfl rfl rfl rfl rfl rfl (fun hs => ?_)
  exact Sparse.wf_set a b hs

theorem State.setFlashBytes_keeps {tw : Touch} {s0 : State} (s : State) (a : Nat) (x2 : Bytes) (hK : Keeps tw s0 s) (hw_flash : tw.flash = true) :
    Keeps tw s0 (State.setFlashBytes s a x2) := by
  induction x2 generalizing s a with
  | nil => exact hK
  | cons b t ih => exact ih _ _ (State.setFlashByte_keeps s a b hK hw_flash)

theorem State.eraseFlash_keeps {tw : Touch} {s0 : State} (s : State) (lo : Nat) (hi : Nat) (hK : Keeps tw s0 s) (hw_flash : tw.flash = true) :
    Keeps tw s0 (State.eraseFlash s lo hi) := by
  refine Keeps.updFlash hK hw_flash rfl rfl rfl rfl rfl rfl rfl (fun hs => ?_)
  exact Sparse.wf_filter _ hs

theorem State.putKeys_keeps {tw : Touch} {s0 : State} (s : State) (k : Sparse KeySlot) (hK : Keeps tw s0 s) (hw_keys : tw.keys = true) :
    Keeps tw s0 (State.putKeys s k) := by
  exact Keeps.updKeys hK hw_keys rfl rfl rfl rfl rfl rfl rfl

theorem State.free_keeps {tw : Touch} {s0 : State} (s : State) (hK : Keeps tw s0 s) :
    Keeps tw s0 (State.free s).2 := by
  refine hK.trans ⟨rfl, rfl, Nat.le_succ _, Fuses.le_refl _, id, fun _ => rfl, fun _ => rfl, fun _ => rfl, fun _ => rfl⟩

theorem State.emit_keeps {tw : Touch} {s0 : State} (s : State) (o : Output) (hK : Keeps tw s0 s) :
    Keeps tw s0 (State.emit s o) := by
  unfold State.emit
  try dsimp only
  repeat' first
    | with_reducible assumption
    | with_reducible refine Keeps.ite (fun _ => ?_) (fun _ => ?_)
    | with_reducible refine Keeps.foldl (fun _ _ _ => ?_) ?_
    | with_reducible refine Keeps.foldl_fst (fun _ _ _ => ?_) ?_
    | with_reducible refine Keeps.foldl_snd (fun _ _ _ => ?_) ?_
    | split
    | intro _
    | fail_if_no_progress (with_reducible apply Keeps.upd)

theorem State.event_keeps {tw : Touch} {s0 : State} (s : State) (p : Nat) (g : Nat) (isl : Nat) (hK : Keeps tw s0 s) :
    Keeps tw s0 (State.event s p g isl) := by
  unfold State.event
  try dsimp only
  repeat' first
    | with_reducible assumption
    | with_reducible refine Keeps.ite (fun _ => ?_) (fun _ => ?_)
    | with_reducible apply State.emit_keeps

theorem State.log_keeps {tw : Touch} {s0 : State} (s : State) (code : Nat) (isl : Nat) (status : Nat) (args : List Nat) (hK : Keeps tw s0 s) :
    Keeps tw s0 (State.log s code isl status args) := by
  unfold State.log
  try dsimp only
  repeat' first
    | with_reducible assumption
    | with_reducible refine Keeps.ite (fun _ => ?_) (fun _ => ?_)
    | with_reducible apply State.count_keeps
    | with_reducible refine Keeps.foldl (fun _ _ _ => ?_) ?_
    | with_reducible refine Keeps.foldl_fst (fun _ _ _ => ?_) ?_
    | with_reducible refine Keeps.foldl_snd (fun _ _ _ => ?_) ?_
    | split
    | intro _
    | fail_if_no_progress (with_reducible apply Keeps.upd)

theorem State.irq_keeps {tw : Touch} {s0 : State} (s : State) (v : Nat) (hK : Keeps tw s0 s) :
    Keeps tw s0 (State.irq s v) := by
  unfold State.irq
  try dsimp only
  repeat' first
    | with_reducible assumption
    | with_reducible refine Keeps.ite (fun _ => ?_) (fun _ => ?_)
    | with_reducible apply State.wr_keeps
    | with_reducible apply State.emit_keeps

theorem State.chiefAlert_keeps {tw : Touch} {s0 : State} (s : State) (hK : Keeps tw s0 s) :
    Keeps tw s0 (State.chiefAlert s) := by
  unfold State.chiefAlert
  try dsimp only
  repeat' first
    | with_reducible assumption
    | with_reducible refine Keeps.ite (fun _ => ?_) (fun _ => ?_)
    | with_reducible apply State.irq_keeps

end Sys2Proof.Machine
end

