-- ==== Sys2Proof/Laws/KeepsFlags.lean ====
section
/-! SUPPORT. What the operations of Machine/Flags.lean keep of a state (Laws/Keeps.lean). -/

namespace Sys2Proof.Machine

theorem State.accessFault_keeps {tw : Touch} {s0 : State} (s : State) (cause : Nat) (addr : Nat) (isl : Nat) (write : Bool) (owner : Nat) (hK : Keeps tw s0 s) :
    Keeps tw s0 (State.accessFault s cause addr isl write owner) := by
  unfold State.accessFault
  try dsimp only
  repeat' first
    | with_reducible assumption
    | with_reducible refine Keeps.ite (fun _ => ?_) (fun _ => ?_)
    | with_reducible apply State.wr_keeps
    | with_reducible apply State.count_keeps
    | with_reducible apply State.log_keeps
    | with_reducible apply State.chiefAlert_keeps

theorem State.setOwner_keeps {tw : Touch} {s0 : State} (s : State) (r : Nat) (id : Nat) (locked : Bool) (hK : Keeps tw s0 s) :
    Keeps tw s0 (State.setOwner s r id locked) := by
  unfold State.setOwner
  try dsimp only
  repeat' first
    | with_reducible assumption
    | with_reducible refine Keeps.ite (fun _ => ?_) (fun _ => ?_)
    | with_reducible apply State.setReg_keeps

end Sys2Proof.Machine
end

