-- ==== Sys2Proof/Laws/KeepsCommands.lean ====
section
/-! SUPPORT. What the operations of Machine/Commands.lean keep of a state (Laws/Keeps.lean). -/

namespace Sys2Proof.Machine

theorem State.showOutstanding_keeps {tw : Touch} {s0 : State} (s : State) (hK : Keeps tw s0 s) :
    Keeps tw s0 (State.showOutstanding s) := by
  unfold State.showOutstanding
  try dsimp only
  repeat' first
    | with_reducible assumption
    | with_reducible refine Keeps.ite (fun _ => ?_) (fun _ => ?_)
    | with_reducible apply State.wr_keeps

theorem State.takeCmd_keeps {tw : Touch} {s0 : State} (s : State) (c : CmdRef) (hK : Keeps tw s0 s) :
    Keeps tw s0 (State.takeCmd s c) := by
  unfold State.takeCmd
  try dsimp only
  repeat' first
    | with_reducible assumption
    | with_reducible refine Keeps.ite (fun _ => ?_) (fun _ => ?_)
    | with_reducible refine Keeps.foldl (fun _ _ _ => ?_) ?_
    | with_reducible refine Keeps.foldl_fst (fun _ _ _ => ?_) ?_
    | with_reducible refine Keeps.foldl_snd (fun _ _ _ => ?_) ?_
    | split
    | intro _
    | fail_if_no_progress (with_reducible apply Keeps.upd)

theorem State.report_keeps {tw : Touch} {s0 : State} (s : State) (c : CmdRef) (opcode : Nat) (status : Nat) (info : Nat) (result : Nat) (hK : Keeps tw s0 s) :
    Keeps tw s0 (State.report s c opcode status info result) := by
  unfold State.report
  try dsimp only
  repeat' first
    | with_reducible assumption
    | with_reducible refine Keeps.ite (fun _ => ?_) (fun _ => ?_)
    | with_reducible apply State.chiefAlert_keeps
    | with_reducible apply State.log_keeps
    | with_reducible apply State.showOutstanding_keeps
    | with_reducible refine Keeps.foldl (fun _ _ _ => ?_) ?_
    | with_reducible refine Keeps.foldl_fst (fun _ _ _ => ?_) ?_
    | with_reducible refine Keeps.foldl_snd (fun _ _ _ => ?_) ?_
    | split
    | intro _
    | fail_if_no_progress (with_reducible apply Keeps.upd)

theorem State.finish_keeps {tw : Touch} {s0 : State} (s : State) (c : CmdRef) (opcode : Nat) (status : Nat) (info : Nat) (hK : Keeps tw s0 s) :
    Keeps tw s0 (State.finish s c opcode status info) := by
  unfold State.finish
  try dsimp only
  repeat' first
    | with_reducible assumption
    | with_reducible refine Keeps.ite (fun _ => ?_) (fun _ => ?_)
    | with_reducible apply State.report_keeps

theorem State.command_keeps {tw : Touch} {s0 : State} (s : State) (c : CmdRef) (opcode : Nat) (act : State → State) (hK : Keeps tw s0 s) (hfact : ∀ t : State, Keeps tw s0 t → Keeps tw s0 (act t)) :
    Keeps tw s0 (State.command s c opcode act) := by
  unfold State.command
  try dsimp only
  repeat' first
    | with_reducible assumption
    | with_reducible refine Keeps.ite (fun _ => ?_) (fun _ => ?_)
    | with_reducible apply State.finish_keeps
    | with_reducible refine Keeps.foldl (fun _ _ _ => ?_) ?_
    | with_reducible refine Keeps.foldl_fst (fun _ _ _ => ?_) ?_
    | with_reducible refine Keeps.foldl_snd (fun _ _ _ => ?_) ?_
    | with_reducible apply hfact

theorem State.stewardCommand_keeps {tw : Touch} {s0 : State} (s : State) (c : CmdRef) (opcode : Nat) (steward : Nat) (act : State → State) (hK : Keeps tw s0 s) (hfact : ∀ t : State, Keeps tw s0 t → Keeps tw s0 (act t)) :
    Keeps tw s0 (State.stewardCommand s c opcode steward act) := by
  unfold State.stewardCommand
  try dsimp only
  repeat' first
    | with_reducible assumption
    | with_reducible refine Keeps.ite (fun _ => ?_) (fun _ => ?_)
    | with_reducible apply State.command_keeps
    | with_reducible apply State.finish_keeps
    | with_reducible refine Keeps.foldl (fun _ _ _ => ?_) ?_
    | with_reducible refine Keeps.foldl_fst (fun _ _ _ => ?_) ?_
    | with_reducible refine Keeps.foldl_snd (fun _ _ _ => ?_) ?_
    | with_reducible apply hfact
    | split
    | intro _

end Sys2Proof.Machine
end

