-- ==== Sys2Proof/Laws/KeepsCairn.lean ====
section
/-! SUPPORT. What the operations of Machine/Cairn.lean keep of a state (Laws/Keeps.lean). -/

namespace Sys2Proof.Machine

theorem State.cairnLoop_keeps {tw : Touch} {s0 : State} (s : State) (e : CairnEvt) (hK : Keeps tw s0 s) :
    Keeps tw s0 (State.cairnLoop s e) := by
  unfold State.cairnLoop
  try dsimp only
  repeat' first
    | with_reducible assumption
    | with_reducible refine Keeps.ite (fun _ => ?_) (fun _ => ?_)
    | with_reducible apply State.up_keeps
    | with_reducible apply State.wr_keeps
    | with_reducible apply State.count_keeps
    | with_reducible apply State.log_keeps
    | with_reducible apply State.chiefAlert_keeps

theorem State.cairnActivate_keeps {tw : Touch} {s0 : State} (s : State) (evs : List CairnEvt) (c : Nat) (hK : Keeps tw s0 s) :
    Keeps tw s0 (State.cairnActivate s evs c) := by
  unfold State.cairnActivate
  try dsimp only
  repeat' first
    | with_reducible assumption
    | with_reducible refine Keeps.ite (fun _ => ?_) (fun _ => ?_)
    | with_reducible apply State.count_keeps
    | with_reducible apply State.wr_keeps
    | with_reducible apply State.emit_keeps
    | with_reducible refine Keeps.foldl (fun _ _ _ => ?_) ?_
    | with_reducible refine Keeps.foldl_fst (fun _ _ _ => ?_) ?_
    | with_reducible refine Keeps.foldl_snd (fun _ _ _ => ?_) ?_
    | split

theorem execCairnEvent_keeps {tw : Touch} {s0 : State} (events : List CairnEvt) (s : State) (hK : Keeps tw s0 s) :
    KeepsOut tw s0 (execCairnEvent events s) := by
  unfold execCairnEvent
  try dsimp only
  repeat' first
    | with_reducible assumption
    | with_reducible refine KeepsOut.next ?_
    | with_reducible refine KeepsOut.ite (fun _ => ?_) (fun _ => ?_)
    | with_reducible refine Keeps.ite (fun _ => ?_) (fun _ => ?_)
    | with_reducible apply forAll_keeps
    | with_reducible apply State.cairnLoop_keeps
    | with_reducible apply State.cairnActivate_keeps
    | with_reducible refine Keeps.foldl (fun _ _ _ => ?_) ?_
    | with_reducible refine Keeps.foldl_fst (fun _ _ _ => ?_) ?_
    | with_reducible refine Keeps.foldl_snd (fun _ _ _ => ?_) ?_
    | split
    | intro _

theorem execCairnOverrunReport_keeps {tw : Touch} {s0 : State} (consumer : Fin 160) (isl : BitVec 8) (s : State) (hK : Keeps tw s0 s) :
    KeepsOut tw s0 (execCairnOverrunReport consumer isl s) := by
  unfold execCairnOverrunReport
  try dsimp only
  repeat' first
    | with_reducible assumption
    | with_reducible refine KeepsOut.next ?_
    | with_reducible refine KeepsOut.ite (fun _ => ?_) (fun _ => ?_)
    | with_reducible refine Keeps.ite (fun _ => ?_) (fun _ => ?_)
    | with_reducible apply State.wr_keeps
    | with_reducible apply State.up_keeps
    | with_reducible apply State.count_keeps

theorem State.cairnWrite_keeps {tw : Touch} {s0 : State} (s : State) (domain : Nat) (secure : Bool) (c : Nat) (w : Nat) (value : Word) (hK : Keeps tw s0 s) :
    Keeps tw s0 (State.cairnWrite s domain secure c w value) := by
  unfold State.cairnWrite
  try dsimp only
  repeat' first
    | with_reducible assumption
    | with_reducible refine Keeps.ite (fun _ => ?_) (fun _ => ?_)
    | with_reducible apply State.setReg_keeps
    | with_reducible apply State.accessFault_keeps

theorem execCairnEnableWrite_keeps {tw : Touch} {s0 : State} (domain : Fin 16) (secure : Bool) (column : Fin 160) (word : Fin 8) (value : Word) (s : State) (hK : Keeps tw s0 s) :
    KeepsOut tw s0 (execCairnEnableWrite domain secure column word value s) := by
  unfold execCairnEnableWrite
  try dsimp only
  repeat' first
    | with_reducible assumption
    | with_reducible refine KeepsOut.next ?_
    | with_reducible refine KeepsOut.ite (fun _ => ?_) (fun _ => ?_)
    | with_reducible refine Keeps.ite (fun _ => ?_) (fun _ => ?_)
    | with_reducible apply State.cairnWrite_keeps

theorem execCairnIrqConsumer_keeps {tw : Touch} {s0 : State} (consumer : Fin 160) (s : State) (hK : Keeps tw s0 s) :
    KeepsOut tw s0 (execCairnIrqConsumer consumer s) := by
  unfold execCairnIrqConsumer
  try dsimp only
  repeat' first
    | with_reducible assumption
    | with_reducible refine KeepsOut.next ?_
    | with_reducible refine KeepsOut.ite (fun _ => ?_) (fun _ => ?_)
    | with_reducible refine Keeps.ite (fun _ => ?_) (fun _ => ?_)
    | with_reducible apply State.irq_keeps

theorem State.overrun_keeps {tw : Touch} {s0 : State} (s : State) (c : Nat) (isl : Nat) (hK : Keeps tw s0 s) :
    Keeps tw s0 (State.overrun s c isl) := by
  unfold State.overrun
  try dsimp only
  repeat' first
    | with_reducible assumption
    | with_reducible refine Keeps.ite (fun _ => ?_) (fun _ => ?_)
    | with_reducible apply State.emit_keeps

theorem State.evioSet_keeps {tw : Touch} {s0 : State} (s : State) (i : Nat) (active : Bool) (hK : Keeps tw s0 s) :
    Keeps tw s0 (State.evioSet s i active) := by
  unfold State.evioSet
  try dsimp only
  repeat' first
    | with_reducible assumption
    | with_reducible refine Keeps.ite (fun _ => ?_) (fun _ => ?_)
    | with_reducible apply State.wr_keeps
    | with_reducible apply State.emit_keeps

theorem execEvioInputEdge_keeps {tw : Touch} {s0 : State} (pin : Fin 32) (level : Bool) (s : State) (hK : Keeps tw s0 s) :
    KeepsOut tw s0 (execEvioInputEdge pin level s) := by
  unfold execEvioInputEdge
  try dsimp only
  repeat' first
    | with_reducible assumption
    | with_reducible refine KeepsOut.next ?_
    | with_reducible refine KeepsOut.ite (fun _ => ?_) (fun _ => ?_)
    | with_reducible refine Keeps.ite (fun _ => ?_) (fun _ => ?_)
    | with_reducible apply State.wr_keeps
    | with_reducible apply State.event_keeps

theorem execEvioOutActivate_keeps {tw : Touch} {s0 : State} (pin : Fin 32) (s : State) (hK : Keeps tw s0 s) :
    KeepsOut tw s0 (execEvioOutActivate pin s) := by
  unfold execEvioOutActivate
  try dsimp only
  repeat' first
    | with_reducible assumption
    | with_reducible refine KeepsOut.next ?_
    | with_reducible refine KeepsOut.ite (fun _ => ?_) (fun _ => ?_)
    | with_reducible refine Keeps.ite (fun _ => ?_) (fun _ => ?_)
    | with_reducible apply State.overrun_keeps
    | with_reducible apply State.evioSet_keeps
    | with_reducible apply State.up_keeps
    | with_reducible refine Keeps.foldl (fun _ _ _ => ?_) ?_
    | with_reducible refine Keeps.foldl_fst (fun _ _ _ => ?_) ?_
    | with_reducible refine Keeps.foldl_snd (fun _ _ _ => ?_) ?_
    | split

theorem State.evioEndPulse_keeps {tw : Touch} {s0 : State} (s : State) (i : Nat) (hK : Keeps tw s0 s) :
    Keeps tw s0 (State.evioEndPulse s i) := by
  unfold State.evioEndPulse
  try dsimp only
  repeat' first
    | with_reducible assumption
    | with_reducible refine Keeps.ite (fun _ => ?_) (fun _ => ?_)
    | with_reducible apply State.evioSet_keeps
    | with_reducible apply State.down_keeps

theorem execEvioPulseEnd_keeps {tw : Touch} {s0 : State} (pin : Fin 32) (s : State) (hK : Keeps tw s0 s) :
    KeepsOut tw s0 (execEvioPulseEnd pin s) := by
  unfold execEvioPulseEnd
  try dsimp only
  repeat' first
    | with_reducible assumption
    | with_reducible refine KeepsOut.next ?_
    | with_reducible refine KeepsOut.ite (fun _ => ?_) (fun _ => ?_)
    | with_reducible refine Keeps.ite (fun _ => ?_) (fun _ => ?_)
    | with_reducible apply State.evioEndPulse_keeps

theorem State.evioIdleAll_keeps {tw : Touch} {s0 : State} (s : State) (hK : Keeps tw s0 s) :
    Keeps tw s0 (State.evioIdleAll s) := by
  unfold State.evioIdleAll
  try dsimp only
  repeat' first
    | with_reducible assumption
    | with_reducible refine Keeps.ite (fun _ => ?_) (fun _ => ?_)
    | with_reducible apply forN_keeps
    | with_reducible apply State.evioSet_keeps
    | with_reducible apply State.down_keeps
    | with_reducible refine Keeps.foldl (fun _ _ _ => ?_) ?_
    | with_reducible refine Keeps.foldl_fst (fun _ _ _ => ?_) ?_
    | with_reducible refine Keeps.foldl_snd (fun _ _ _ => ?_) ?_
    | split
    | intro _

theorem State.evioOutWrite_keeps {tw : Touch} {s0 : State} (s : State) (i : Nat) (w : Word) (hK : Keeps tw s0 s) :
    Keeps tw s0 (State.evioOutWrite s i w) := by
  unfold State.evioOutWrite
  try dsimp only
  repeat' first
    | with_reducible assumption
    | with_reducible refine Keeps.ite (fun _ => ?_) (fun _ => ?_)
    | with_reducible apply State.accessFault_keeps
    | with_reducible apply State.up_keeps
    | with_reducible apply State.evioEndPulse_keeps
    | with_reducible apply State.wr_keeps
    | with_reducible apply State.down_keeps
    | with_reducible apply State.emit_keeps

end Sys2Proof.Machine
end

