-- ==== Sys2Proof/Laws/KeepsEventLog.lean ====
section
/-! SUPPORT. What the operations of Machine/EventLog.lean keep of a state (Laws/Keeps.lean). -/

namespace Sys2Proof.Machine

theorem State.setWords_keeps {tw : Touch} {s0 : State} (s : State) (a : Nat) (bs : Bytes) (hK : Keeps tw s0 s) :
    Keeps tw s0 (State.setWords s a bs) := by
  unfold State.setWords
  try dsimp only
  repeat' first
    | with_reducible assumption
    | with_reducible refine Keeps.ite (fun _ => ?_) (fun _ => ?_)
    | with_reducible apply forN_keeps
    | with_reducible apply State.setReg_keeps
    | with_reducible refine Keeps.foldl (fun _ _ _ => ?_) ?_
    | with_reducible refine Keeps.foldl_fst (fun _ _ _ => ?_) ?_
    | with_reducible refine Keeps.foldl_snd (fun _ _ _ => ?_) ?_
    | split
    | intro _

theorem execEventLogEntry_keeps {tw : Touch} {s0 : State} (s : State) (hK : Keeps tw s0 s) :
    KeepsOut tw s0 (execEventLogEntry s) := by
  unfold execEventLogEntry
  try dsimp only
  repeat' first
    | with_reducible assumption
    | with_reducible refine KeepsOut.next ?_
    | with_reducible refine KeepsOut.ite (fun _ => ?_) (fun _ => ?_)
    | with_reducible refine Keeps.ite (fun _ => ?_) (fun _ => ?_)
    | with_reducible apply State.count_keeps
    | with_reducible apply State.setWords_keeps
    | with_reducible apply State.wr_keeps
    | with_reducible refine Keeps.foldl (fun _ _ _ => ?_) ?_
    | with_reducible refine Keeps.foldl_fst (fun _ _ _ => ?_) ?_
    | with_reducible refine Keeps.foldl_snd (fun _ _ _ => ?_) ?_
    | split
    | intro _
    | fail_if_no_progress (with_reducible apply Keeps.upd)

end Sys2Proof.Machine
end

