-- ==== Sys2Proof/Laws/KeepsHbm.lean ====
section
/-! SUPPORT. What the operations of Machine/Hbm.lean keep of a state (Laws/Keeps.lean). -/

namespace Sys2Proof.Machine

theorem State.setPc_keeps {tw : Touch} {s0 : State} (s : State) (p : Nat) (c : Pc) (hK : Keeps tw s0 s) :
    Keeps tw s0 (State.setPc s p c) := by
  unfold State.setPc
  try dsimp only
  repeat' first
    | with_reducible assumption
    | with_reducible refine Keeps.ite (fun _ => ?_) (fun _ => ?_)
    | with_reducible apply State.wr_keeps
    | with_reducible apply State.up_keeps
    | with_reducible refine Keeps.foldl (fun _ _ _ => ?_) ?_
    | with_reducible refine Keeps.foldl_fst (fun _ _ _ => ?_) ?_
    | with_reducible refine Keeps.foldl_snd (fun _ _ _ => ?_) ?_
    | split
    | intro _
    | fail_if_no_progress (with_reducible apply Keeps.upd)

theorem State.markBad_keeps {tw : Touch} {s0 : State} (s : State) (u : Nat) (hK : Keeps tw s0 s) :
    Keeps tw s0 (State.markBad s u) := by
  unfold State.markBad
  try dsimp only
  repeat' first
    | with_reducible assumption
    | with_reducible refine Keeps.ite (fun _ => ?_) (fun _ => ?_)
    | with_reducible refine Keeps.foldl (fun _ _ _ => ?_) ?_
    | with_reducible refine Keeps.foldl_fst (fun _ _ _ => ?_) ?_
    | with_reducible refine Keeps.foldl_snd (fun _ _ _ => ?_) ?_
    | split
    | intro _
    | fail_if_no_progress (with_reducible apply Keeps.upd)

theorem State.markGood_keeps {tw : Touch} {s0 : State} (s : State) (u : Nat) (hK : Keeps tw s0 s) :
    Keeps tw s0 (State.markGood s u) := by
  unfold State.markGood
  try dsimp only
  repeat' first
    | with_reducible assumption
    | with_reducible refine Keeps.ite (fun _ => ?_) (fun _ => ?_)
    | with_reducible refine Keeps.foldl (fun _ _ _ => ?_) ?_
    | with_reducible refine Keeps.foldl_fst (fun _ _ _ => ?_) ?_
    | with_reducible refine Keeps.foldl_snd (fun _ _ _ => ?_) ?_
    | split
    | intro _
    | fail_if_no_progress (with_reducible apply Keeps.upd)

theorem State.errLogNew_keeps {tw : Touch} {s0 : State} (s : State) (kind : Nat) (unit : Nat) (port : Nat) (errBit : Option Nat) (hK : Keeps tw s0 s) :
    Keeps tw s0 (State.errLogNew s kind unit port errBit) := by
  unfold State.errLogNew
  try dsimp only
  repeat' first
    | with_reducible assumption
    | with_reducible refine Keeps.ite (fun _ => ?_) (fun _ => ?_)
    | with_reducible apply State.count_keeps
    | with_reducible apply State.wr_keeps
    | with_reducible apply State.up_keeps

theorem State.errLogCorrected_keeps {tw : Touch} {s0 : State} (s : State) (kind : Nat) (unit : Nat) (port : Nat) (errBit : Nat) (hK : Keeps tw s0 s) :
    Keeps tw s0 (State.errLogCorrected s kind unit port errBit) := by
  unfold State.errLogCorrected
  try dsimp only
  repeat' first
    | with_reducible assumption
    | with_reducible refine Keeps.ite (fun _ => ?_) (fun _ => ?_)
    | with_reducible apply State.wr_keeps
    | with_reducible apply State.errLogNew_keeps
    | with_reducible refine Keeps.foldl (fun _ _ _ => ?_) ?_
    | with_reducible refine Keeps.foldl_fst (fun _ _ _ => ?_) ?_
    | with_reducible refine Keeps.foldl_snd (fun _ _ _ => ?_) ?_
    | split

theorem State.errLogUncorr_keeps {tw : Touch} {s0 : State} (s : State) (kind : Nat) (unit : Nat) (port : Nat) (hK : Keeps tw s0 s) :
    Keeps tw s0 (State.errLogUncorr s kind unit port) := by
  unfold State.errLogUncorr
  try dsimp only
  repeat' first
    | with_reducible assumption
    | with_reducible refine Keeps.ite (fun _ => ?_) (fun _ => ?_)
    | with_reducible apply State.errLogNew_keeps
    | with_reducible apply State.log_keeps

theorem State.uncorrected_keeps {tw : Touch} {s0 : State} (s : State) (unit : Nat) (port : Nat) (hK : Keeps tw s0 s) :
    Keeps tw s0 (State.uncorrected s unit port) := by
  unfold State.uncorrected
  try dsimp only
  repeat' first
    | with_reducible assumption
    | with_reducible refine Keeps.ite (fun _ => ?_) (fun _ => ?_)
    | with_reducible apply State.count_keeps
    | with_reducible apply State.errLogUncorr_keeps

theorem State.readFailed_keeps {tw : Touch} {s0 : State} (s : State) (port : Nat) (a : Nat) (len : Nat) (hK : Keeps tw s0 s) :
    Keeps tw s0 (State.readFailed s port a len) := by
  unfold State.readFailed
  try dsimp only
  repeat' first
    | with_reducible assumption
    | with_reducible refine Keeps.ite (fun _ => ?_) (fun _ => ?_)
    | with_reducible apply State.uncorrected_keeps
    | with_reducible refine Keeps.foldl (fun _ _ _ => ?_) ?_
    | with_reducible refine Keeps.foldl_fst (fun _ _ _ => ?_) ?_
    | with_reducible refine Keeps.foldl_snd (fun _ _ _ => ?_) ?_
    | split

theorem State.writeMem_keeps {tw : Touch} {s0 : State} (s : State) (port : Nat) (a : Nat) (bs : Bytes) (hK : Keeps tw s0 s) (hw_hbm : tw.hbm = true) :
    Keeps tw s0 (State.writeMem s port a bs).1 := by
  unfold State.writeMem
  try dsimp only
  repeat' first
    | with_reducible assumption
    | with_reducible refine Keeps.ite (fun _ => ?_) (fun _ => ?_)
    | with_reducible apply State.uncorrected_keeps
    | with_reducible apply State.markGood_keeps
    | with_reducible apply State.setBytes_keeps
    | with_reducible refine Keeps.foldl (fun _ _ _ => ?_) ?_
    | with_reducible refine Keeps.foldl_fst (fun _ _ _ => ?_) ?_
    | with_reducible refine Keeps.foldl_snd (fun _ _ _ => ?_) ?_
    | split

theorem State.writeMem_keeps_eq {tw : Touch} {s0 : State} {tt : State} {res1 : Bool} (s : State) (port : Nat) (a : Nat) (bs : Bytes) (he : State.writeMem s port a bs = (tt, res1)) (hK : Keeps tw s0 s) (hw_hbm : tw.hbm = true) :
    Keeps tw s0 tt := by
  have := State.writeMem_keeps s port a bs hK hw_hbm
  rw [he] at this
  exact this

theorem State.store_keeps {tw : Touch} {s0 : State} (s : State) (port : Nat) (a : Nat) (bs : Bytes) (hK : Keeps tw s0 s) (hw_hbm : tw.hbm = true) :
    Keeps tw s0 (State.store s port a bs) := by
  unfold State.store
  try dsimp only
  repeat' first
    | with_reducible assumption
    | with_reducible refine State.writeMem_keeps_eq _ _ _ _ (by assumption) ?_ (by assumption)
    | with_reducible refine Keeps.ite (fun _ => ?_) (fun _ => ?_)
    | with_reducible apply State.writeMem_keeps

theorem State.arrive_keeps {tw : Touch} {s0 : State} (s : State) (r : HbmReq) (hK : Keeps tw s0 s) (hw_hbm : tw.hbm = true) :
    Keeps tw s0 (State.arrive s r) := by
  unfold State.arrive
  try dsimp only
  repeat' first
    | with_reducible assumption
    | with_reducible refine Keeps.ite (fun _ => ?_) (fun _ => ?_)
    | with_reducible apply State.emit_keeps
    | with_reducible apply State.setBytes_keeps
    | with_reducible apply State.markGood_keeps
    | with_reducible apply State.count_keeps
    | with_reducible apply State.setPc_keeps
    | with_reducible apply State.wr_keeps
    | with_reducible refine Keeps.foldl (fun _ _ _ => ?_) ?_
    | with_reducible refine Keeps.foldl_fst (fun _ _ _ => ?_) ?_
    | with_reducible refine Keeps.foldl_snd (fun _ _ _ => ?_) ?_
    | split

theorem execHbmRequest_keeps {tw : Touch} {s0 : State} (port : Fin 19) (addr : Nat) (write : Bool) (data : Bytes) (len : Nat) (s : State) (hK : Keeps tw s0 s) (hw_hbm : tw.hbm = true) :
    KeepsOut tw s0 (execHbmRequest port addr write data len s) := by
  unfold execHbmRequest
  try dsimp only
  repeat' first
    | with_reducible assumption
    | with_reducible refine KeepsOut.next ?_
    | with_reducible refine KeepsOut.ite (fun _ => ?_) (fun _ => ?_)
    | with_reducible refine Keeps.ite (fun _ => ?_) (fun _ => ?_)
    | with_reducible apply State.arrive_keeps
    | with_reducible refine Keeps.foldl (fun _ _ _ => ?_) ?_

theorem State.countLate_keeps {tw : Touch} {s0 : State} (s : State) (p : Nat) (hK : Keeps tw s0 s) :
    Keeps tw s0 (State.countLate s p) := by
  unfold State.countLate
  try dsimp only
  repeat' first
    | with_reducible assumption
    | with_reducible refine Keeps.ite (fun _ => ?_) (fun _ => ?_)
    | with_reducible apply State.count_keeps
    | with_reducible apply State.setPc_keeps
    | with_reducible refine Keeps.foldl (fun _ _ _ => ?_) ?_

theorem execHbmCommandSlot_keeps {tw : Touch} {s0 : State} (pc : Fin 64) (s : State) (hK : Keeps tw s0 s) :
    KeepsOut tw s0 (execHbmCommandSlot pc s) := by
  unfold execHbmCommandSlot
  try dsimp only
  repeat' first
    | with_reducible assumption
    | with_reducible refine KeepsOut.next ?_
    | with_reducible refine KeepsOut.ite (fun _ => ?_) (fun _ => ?_)
    | with_reducible refine Keeps.ite (fun _ => ?_) (fun _ => ?_)
    | with_reducible apply State.wr_keeps
    | with_reducible apply State.count_keeps
    | with_reducible apply State.countLate_keeps
    | with_reducible apply State.setPc_keeps
    | with_reducible apply State.emit_keeps
    | with_reducible refine Keeps.foldl (fun _ _ _ => ?_) ?_
    | with_reducible refine Keeps.foldl_fst (fun _ _ _ => ?_) ?_
    | with_reducible refine Keeps.foldl_snd (fun _ _ _ => ?_) ?_
    | split

theorem execHbmResponse_keeps {tw : Touch} {s0 : State} (pc : Fin 64) (outcome : UnitOutcome) (s : State) (hK : Keeps tw s0 s) :
    KeepsOut tw s0 (execHbmResponse pc outcome s) := by
  unfold execHbmResponse
  try dsimp only
  repeat' first
    | with_reducible assumption
    | with_reducible refine KeepsOut.next ?_
    | with_reducible refine KeepsOut.ite (fun _ => ?_) (fun _ => ?_)
    | with_reducible refine Keeps.ite (fun _ => ?_) (fun _ => ?_)
    | with_reducible apply State.setPc_keeps
    | with_reducible apply State.peak_keeps
    | with_reducible apply State.emit_keeps
    | with_reducible apply State.uncorrected_keeps
    | with_reducible apply State.count_keeps
    | with_reducible apply State.errLogCorrected_keeps
    | with_reducible apply State.markBad_keeps
    | with_reducible refine Keeps.foldl (fun _ _ _ => ?_) ?_
    | with_reducible refine Keeps.foldl_fst (fun _ _ _ => ?_) ?_
    | with_reducible refine Keeps.foldl_snd (fun _ _ _ => ?_) ?_
    | split

theorem State.scramble_keeps {tw : Touch} {s0 : State} (s : State) (a : Nat) (x2 : Nat) (hK : Keeps tw s0 s) (hw_hbm : tw.hbm = true) :
    Keeps tw s0 (State.scramble s a x2) := by
  induction x2 generalizing s a with
  | zero =>
    unfold State.scramble
    try dsimp only
    repeat' first
      | with_reducible assumption
      | with_reducible refine State.free_keeps_eq _ (by assumption) ?_
  | succ n ih =>
    unfold State.scramble
    try dsimp only
    repeat' first
      | with_reducible assumption
      | with_reducible apply ih
      | with_reducible refine State.free_keeps_eq _ (by assumption) ?_
      | with_reducible refine Keeps.ite (fun _ => ?_) (fun _ => ?_)
      | with_reducible apply State.free_keeps
      | with_reducible apply State.setByte_keeps

theorem execHbmParityAlert_keeps {tw : Touch} {s0 : State} (pc : Fin 64) (kind : ParityKind) (s : State) (hK : Keeps tw s0 s) (hw_hbm : tw.hbm = true) :
    KeepsOut tw s0 (execHbmParityAlert pc kind s) := by
  unfold execHbmParityAlert
  try dsimp only
  repeat' first
    | with_reducible assumption
    | with_reducible refine KeepsOut.next ?_
    | with_reducible refine KeepsOut.ite (fun _ => ?_) (fun _ => ?_)
    | with_reducible refine Keeps.ite (fun _ => ?_) (fun _ => ?_)
    | with_reducible apply State.setPc_keeps
    | with_reducible apply State.count_keeps
    | with_reducible apply State.errLogUncorr_keeps
    | with_reducible apply State.scramble_keeps
    | with_reducible apply State.emit_keeps
    | with_reducible refine Keeps.foldl (fun _ _ _ => ?_) ?_

theorem State.showScrub_keeps {tw : Touch} {s0 : State} (s : State) (hK : Keeps tw s0 s) :
    Keeps tw s0 (State.showScrub s) := by
  unfold State.showScrub
  try dsimp only
  repeat' first
    | with_reducible assumption
    | with_reducible refine Keeps.ite (fun _ => ?_) (fun _ => ?_)
    | with_reducible apply State.wr_keeps

theorem execHbmScrubRow_keeps {tw : Touch} {s0 : State} (pc : Fin 64) (found : List (Nat × UnitOutcome)) (s : State) (hK : Keeps tw s0 s) :
    KeepsOut tw s0 (execHbmScrubRow pc found s) := by
  unfold execHbmScrubRow
  try dsimp only
  repeat' first
    | with_reducible assumption
    | with_reducible refine KeepsOut.next ?_
    | with_reducible refine KeepsOut.ite (fun _ => ?_) (fun _ => ?_)
    | with_reducible refine Keeps.ite (fun _ => ?_) (fun _ => ?_)
    | with_reducible apply State.setPc_keeps
    | with_reducible apply State.errLogCorrected_keeps
    | with_reducible apply State.count_keeps
    | with_reducible apply State.errLogUncorr_keeps
    | with_reducible apply State.markBad_keeps
    | with_reducible apply State.showScrub_keeps
    | with_reducible refine Keeps.foldl (fun _ _ _ => ?_) ?_
    | with_reducible refine Keeps.foldl_fst (fun _ _ _ => ?_) ?_
    | with_reducible refine Keeps.foldl_snd (fun _ _ _ => ?_) ?_
    | split

theorem execScrubDeferExpiry_keeps {tw : Touch} {s0 : State} (pc : Fin 64) (s : State) (hK : Keeps tw s0 s) :
    KeepsOut tw s0 (execScrubDeferExpiry pc s) := by
  unfold execScrubDeferExpiry
  try dsimp only
  repeat' first
    | with_reducible assumption
    | with_reducible refine KeepsOut.next ?_
    | with_reducible refine KeepsOut.ite (fun _ => ?_) (fun _ => ?_)
    | with_reducible refine Keeps.ite (fun _ => ?_) (fun _ => ?_)
    | with_reducible apply State.setPc_keeps

theorem execHbmTempRead_keeps {tw : Touch} {s0 : State} (stack0 : BitVec 8) (stack1 : BitVec 8) (s : State) (hK : Keeps tw s0 s) :
    KeepsOut tw s0 (execHbmTempRead stack0 stack1 s) := by
  unfold execHbmTempRead
  try dsimp only
  repeat' first
    | with_reducible assumption
    | with_reducible refine KeepsOut.next ?_
    | with_reducible refine KeepsOut.ite (fun _ => ?_) (fun _ => ?_)
    | with_reducible refine Keeps.ite (fun _ => ?_) (fun _ => ?_)
    | with_reducible apply State.wr_keeps
    | with_reducible refine Keeps.foldl (fun _ _ _ => ?_) ?_
    | with_reducible refine Keeps.foldl_fst (fun _ _ _ => ?_) ?_
    | with_reducible refine Keeps.foldl_snd (fun _ _ _ => ?_) ?_
    | split
    | intro _
    | fail_if_no_progress (with_reducible apply Keeps.upd)

theorem execHbmRefresh_keeps {tw : Touch} {s0 : State} (pc : Fin 64) (bank : Fin 48) (s : State) (hK : Keeps tw s0 s) :
    KeepsOut tw s0 (execHbmRefresh pc bank s) := by
  unfold execHbmRefresh
  try dsimp only
  repeat' first
    | with_reducible assumption
    | with_reducible refine KeepsOut.next ?_
    | with_reducible refine KeepsOut.ite (fun _ => ?_) (fun _ => ?_)
    | with_reducible refine Keeps.ite (fun _ => ?_) (fun _ => ?_)
    | with_reducible apply State.setPc_keeps
    | with_reducible apply State.count_keeps
    | with_reducible apply State.emit_keeps

theorem execSrIdleExpiry_keeps {tw : Touch} {s0 : State} (pc : Fin 64) (s : State) (hK : Keeps tw s0 s) :
    KeepsOut tw s0 (execSrIdleExpiry pc s) := by
  unfold execSrIdleExpiry
  try dsimp only
  repeat' first
    | with_reducible assumption
    | with_reducible refine KeepsOut.next ?_
    | with_reducible refine KeepsOut.ite (fun _ => ?_) (fun _ => ?_)
    | with_reducible refine Keeps.ite (fun _ => ?_) (fun _ => ?_)
    | with_reducible apply State.wr_keeps
    | with_reducible apply State.setPc_keeps

theorem execSrExitDone_keeps {tw : Touch} {s0 : State} (pc : Fin 64) (s : State) (hK : Keeps tw s0 s) :
    KeepsOut tw s0 (execSrExitDone pc s) := by
  unfold execSrExitDone
  try dsimp only
  repeat' first
    | with_reducible assumption
    | with_reducible refine KeepsOut.next ?_
    | with_reducible refine KeepsOut.ite (fun _ => ?_) (fun _ => ?_)
    | with_reducible refine Keeps.ite (fun _ => ?_) (fun _ => ?_)
    | with_reducible apply State.wr_keeps
    | with_reducible apply State.setPc_keeps

theorem State.pcDown_keeps {tw : Touch} {s0 : State} (s : State) (p : Nat) (hK : Keeps tw s0 s) :
    Keeps tw s0 (State.pcDown s p) := by
  unfold State.pcDown
  try dsimp only
  repeat' first
    | with_reducible assumption
    | with_reducible refine Keeps.ite (fun _ => ?_) (fun _ => ?_)
    | with_reducible apply State.setPc_keeps
    | with_reducible apply State.wr_keeps
    | with_reducible apply State.up_keeps
    | with_reducible apply State.errLogNew_keeps
    | with_reducible apply State.log_keeps
    | with_reducible apply State.emit_keeps
    | with_reducible refine Keeps.foldl (fun _ _ _ => ?_) ?_

theorem execSrExitTimeout_keeps {tw : Touch} {s0 : State} (pc : Fin 64) (s : State) (hK : Keeps tw s0 s) :
    KeepsOut tw s0 (execSrExitTimeout pc s) := by
  unfold execSrExitTimeout
  try dsimp only
  repeat' first
    | with_reducible assumption
    | with_reducible refine KeepsOut.next ?_
    | with_reducible refine KeepsOut.ite (fun _ => ?_) (fun _ => ?_)
    | with_reducible refine Keeps.ite (fun _ => ?_) (fun _ => ?_)
    | with_reducible apply State.setPc_keeps
    | with_reducible apply State.pcDown_keeps

theorem execBar2Access_keeps {tw : Touch} {s0 : State} (offset : BitVec 36) (write : Bool) (data : Bytes) (len : Nat) (s : State) (hK : Keeps tw s0 s) (hw_hbm : tw.hbm = true) :
    KeepsOut tw s0 (execBar2Access offset write data len s) := by
  unfold execBar2Access
  try dsimp only
  repeat' first
    | with_reducible assumption
    | with_reducible refine KeepsOut.next ?_
    | with_reducible refine KeepsOut.ite (fun _ => ?_) (fun _ => ?_)
    | with_reducible refine Keeps.ite (fun _ => ?_) (fun _ => ?_)
    | with_reducible apply State.emit_keeps
    | with_reducible apply State.count_keeps
    | with_reducible apply State.wr64_keeps
    | with_reducible apply State.store_keeps
    | with_reducible apply State.readFailed_keeps
    | with_reducible refine Keeps.foldl (fun _ _ _ => ?_) ?_
    | with_reducible refine Keeps.foldl_fst (fun _ _ _ => ?_) ?_
    | with_reducible refine Keeps.foldl_snd (fun _ _ _ => ?_) ?_
    | split

theorem State.setTrained_keeps {tw : Touch} {s0 : State} (s : State) (pt : Nat) (v : Nat) (hK : Keeps tw s0 s) :
    Keeps tw s0 (State.setTrained s pt v) := by
  unfold State.setTrained
  try dsimp only
  repeat' first
    | with_reducible assumption
    | with_reducible refine Keeps.ite (fun _ => ?_) (fun _ => ?_)
    | with_reducible apply State.wr_keeps

theorem execHbmSetSpeed_keeps {tw : Touch} {s0 : State} (cmd : CmdRef) (speed : BitVec 8) (s : State) (hK : Keeps tw s0 s) :
    KeepsOut tw s0 (execHbmSetSpeed cmd speed s) := by
  unfold execHbmSetSpeed
  try dsimp only
  repeat' first
    | with_reducible assumption
    | with_reducible refine KeepsOut.next ?_
    | with_reducible refine KeepsOut.ite (fun _ => ?_) (fun _ => ?_)
    | with_reducible refine Keeps.ite (fun _ => ?_) (fun _ => ?_)
    | with_reducible apply State.stewardCommand_keeps
    | with_reducible apply State.finish_keeps
    | with_reducible apply State.setTrained_keeps
    | with_reducible apply State.wr_keeps
    | with_reducible apply State.takeCmd_keeps
    | with_reducible refine Keeps.foldl (fun _ _ _ => ?_) ?_
    | with_reducible refine Keeps.foldl_fst (fun _ _ _ => ?_) ?_
    | with_reducible refine Keeps.foldl_snd (fun _ _ _ => ?_) ?_
    | split
    | intro _
    | fail_if_no_progress (with_reducible apply Keeps.upd)

theorem State.speedDone_keeps {tw : Touch} {s0 : State} (s : State) (hK : Keeps tw s0 s) :
    Keeps tw s0 (State.speedDone s) := by
  unfold State.speedDone
  try dsimp only
  repeat' first
    | with_reducible assumption
    | with_reducible refine Keeps.ite (fun _ => ?_) (fun _ => ?_)
    | with_reducible apply State.wr_keeps
    | with_reducible apply State.setTrained_keeps
    | with_reducible apply forN_keeps
    | with_reducible apply State.finish_keeps
    | with_reducible refine Keeps.foldl (fun _ _ _ => ?_) ?_
    | with_reducible refine Keeps.foldl_fst (fun _ _ _ => ?_) ?_
    | with_reducible refine Keeps.foldl_snd (fun _ _ _ => ?_) ?_
    | split
    | intro _
    | fail_if_no_progress (with_reducible apply Keeps.upd)

theorem execHbmRetrain_keeps {tw : Touch} {s0 : State} (cmd : CmdRef) (s : State) (hK : Keeps tw s0 s) :
    KeepsOut tw s0 (execHbmRetrain cmd s) := by
  unfold execHbmRetrain
  try dsimp only
  repeat' first
    | with_reducible assumption
    | with_reducible refine KeepsOut.next ?_
    | with_reducible refine KeepsOut.ite (fun _ => ?_) (fun _ => ?_)
    | with_reducible refine Keeps.ite (fun _ => ?_) (fun _ => ?_)
    | with_reducible apply State.stewardCommand_keeps
    | with_reducible apply State.finish_keeps
    | with_reducible apply State.wr_keeps
    | with_reducible apply State.takeCmd_keeps
    | with_reducible refine Keeps.foldl (fun _ _ _ => ?_) ?_
    | with_reducible refine Keeps.foldl_fst (fun _ _ _ => ?_) ?_
    | with_reducible refine Keeps.foldl_snd (fun _ _ _ => ?_) ?_
    | split
    | intro _
    | fail_if_no_progress (with_reducible apply Keeps.upd)

theorem State.retrainDone_keeps {tw : Touch} {s0 : State} (s : State) (cmd : CmdRef) (hK : Keeps tw s0 s) :
    Keeps tw s0 (State.retrainDone s cmd) := by
  unfold State.retrainDone
  try dsimp only
  repeat' first
    | with_reducible assumption
    | with_reducible refine Keeps.ite (fun _ => ?_) (fun _ => ?_)
    | with_reducible apply State.setTrained_keeps
    | with_reducible apply State.wr_keeps
    | with_reducible apply State.down_keeps
    | with_reducible apply forN_keeps
    | with_reducible apply State.finish_keeps
    | with_reducible refine Keeps.foldl (fun _ _ _ => ?_) ?_
    | with_reducible refine Keeps.foldl_fst (fun _ _ _ => ?_) ?_
    | with_reducible refine Keeps.foldl_snd (fun _ _ _ => ?_) ?_
    | split
    | intro _
    | fail_if_no_progress (with_reducible apply Keeps.upd)

theorem execHbmSetPolicy_keeps {tw : Touch} {s0 : State} (cmd : CmdRef) (policy : BitVec 8) (idleUs : BitVec 16) (s : State) (hK : Keeps tw s0 s) :
    KeepsOut tw s0 (execHbmSetPolicy cmd policy idleUs s) := by
  unfold execHbmSetPolicy
  try dsimp only
  repeat' first
    | with_reducible assumption
    | with_reducible refine KeepsOut.next ?_
    | with_reducible refine KeepsOut.ite (fun _ => ?_) (fun _ => ?_)
    | with_reducible refine Keeps.ite (fun _ => ?_) (fun _ => ?_)
    | with_reducible apply State.stewardCommand_keeps
    | with_reducible apply State.finish_keeps
    | with_reducible apply State.wr_keeps
    | with_reducible refine Keeps.foldl (fun _ _ _ => ?_) ?_
    | with_reducible refine Keeps.foldl_fst (fun _ _ _ => ?_) ?_
    | with_reducible refine Keeps.foldl_snd (fun _ _ _ => ?_) ?_
    | split
    | intro _

theorem execIntervalOscillatorDrift_keeps {tw : Touch} {s0 : State} (pc : Fin 64) (s : State) (hK : Keeps tw s0 s) :
    KeepsOut tw s0 (execIntervalOscillatorDrift pc s) := by
  unfold execIntervalOscillatorDrift
  try dsimp only
  repeat' first
    | with_reducible assumption
    | with_reducible refine KeepsOut.next ?_
    | with_reducible refine KeepsOut.ite (fun _ => ?_) (fun _ => ?_)
    | with_reducible refine Keeps.ite (fun _ => ?_) (fun _ => ?_)
    | with_reducible apply State.up_keeps

end Sys2Proof.Machine
end

