-- ==== Sys2Proof/Laws/KeepsLanes.lean ====
section
/-! SUPPORT. What the operations of Machine/Lanes.lean keep of a state (Laws/Keeps.lean). -/

namespace Sys2Proof.Machine

theorem State.setLane_keeps {tw : Touch} {s0 : State} (s : State) (n : Nat) (l : Lane) (hK : Keeps tw s0 s) :
    Keeps tw s0 (State.setLane s n l) := by
  unfold State.setLane
  try dsimp only
  repeat' first
    | with_reducible assumption
    | with_reducible refine Keeps.ite (fun _ => ?_) (fun _ => ?_)
    | with_reducible refine Keeps.foldl (fun _ _ _ => ?_) ?_
    | with_reducible refine Keeps.foldl_fst (fun _ _ _ => ?_) ?_
    | with_reducible refine Keeps.foldl_snd (fun _ _ _ => ?_) ?_
    | split
    | intro _
    | fail_if_no_progress (with_reducible apply Keeps.upd)

theorem State.laneStart_keeps {tw : Touch} {s0 : State} (s : State) (n : Nat) (hK : Keeps tw s0 s) :
    Keeps tw s0 (State.laneStart s n) := by
  unfold State.laneStart
  try dsimp only
  repeat' first
    | with_reducible assumption
    | with_reducible refine Keeps.ite (fun _ => ?_) (fun _ => ?_)
    | with_reducible apply State.wr_keeps

theorem State.launch_keeps {tw : Touch} {s0 : State} (s : State) (n : Nat) (bytes : Bytes) (at_ : Nat) (hK : Keeps tw s0 s) :
    Keeps tw s0 (State.launch s n bytes at_) := by
  unfold State.launch
  try dsimp only
  repeat' first
    | with_reducible assumption
    | with_reducible refine Keeps.ite (fun _ => ?_) (fun _ => ?_)
    | with_reducible apply State.up_keeps
    | with_reducible apply State.setLane_keeps
    | with_reducible apply State.emit_keeps

theorem State.setSport_keeps {tw : Touch} {s0 : State} (s : State) (p : Nat) (v : SPort) (hK : Keeps tw s0 s) :
    Keeps tw s0 (State.setSport s p v) := by
  unfold State.setSport
  try dsimp only
  repeat' first
    | with_reducible assumption
    | with_reducible refine Keeps.ite (fun _ => ?_) (fun _ => ?_)
    | with_reducible refine Keeps.foldl (fun _ _ _ => ?_) ?_
    | with_reducible refine Keeps.foldl_fst (fun _ _ _ => ?_) ?_
    | with_reducible refine Keeps.foldl_snd (fun _ _ _ => ?_) ?_
    | split
    | intro _
    | fail_if_no_progress (with_reducible apply Keeps.upd)

theorem State.showCredit_keeps {tw : Touch} {s0 : State} (s : State) (p : Nat) (hK : Keeps tw s0 s) :
    Keeps tw s0 (State.showCredit s p) := by
  unfold State.showCredit
  try dsimp only
  repeat' first
    | with_reducible assumption
    | with_reducible refine Keeps.ite (fun _ => ?_) (fun _ => ?_)
    | with_reducible apply State.wr_keeps

theorem State.spend_keeps {tw : Touch} {s0 : State} (s : State) (p : Nat) (n : Nat) (hK : Keeps tw s0 s) :
    Keeps tw s0 (State.spend s p n) := by
  unfold State.spend
  try dsimp only
  repeat' first
    | with_reducible assumption
    | with_reducible refine Keeps.ite (fun _ => ?_) (fun _ => ?_)
    | with_reducible apply State.showCredit_keeps
    | with_reducible apply State.setSport_keeps

theorem State.stall_keeps {tw : Touch} {s0 : State} (s : State) (p : Nat) (n : Nat) (hK : Keeps tw s0 s) :
    Keeps tw s0 (State.stall s p n) := by
  unfold State.stall
  try dsimp only
  repeat' first
    | with_reducible assumption
    | with_reducible refine Keeps.ite (fun _ => ?_) (fun _ => ?_)
    | with_reducible apply State.setSport_keeps
    | with_reducible apply State.count_keeps

theorem State.takeLimit_keeps {tw : Touch} {s0 : State} (s : State) (p : Nat) (limit : Nat) (hK : Keeps tw s0 s) :
    Keeps tw s0 (State.takeLimit s p limit) := by
  unfold State.takeLimit
  try dsimp only
  repeat' first
    | with_reducible assumption
    | with_reducible refine Keeps.ite (fun _ => ?_) (fun _ => ?_)
    | with_reducible apply State.showCredit_keeps
    | with_reducible apply State.setSport_keeps

theorem State.grant_keeps {tw : Touch} {s0 : State} (s : State) (p : Nat) (n : Nat) (hK : Keeps tw s0 s) :
    Keeps tw s0 (State.grant s p n) := by
  unfold State.grant
  try dsimp only
  repeat' first
    | with_reducible assumption
    | with_reducible refine Keeps.ite (fun _ => ?_) (fun _ => ?_)
    | with_reducible apply State.showCredit_keeps
    | with_reducible apply State.setSport_keeps

theorem State.dropCredits_keeps {tw : Touch} {s0 : State} (s : State) (p : Nat) (hK : Keeps tw s0 s) :
    Keeps tw s0 (State.dropCredits s p) := by
  unfold State.dropCredits
  try dsimp only
  repeat' first
    | with_reducible assumption
    | with_reducible refine Keeps.ite (fun _ => ?_) (fun _ => ?_)
    | with_reducible apply State.showCredit_keeps
    | with_reducible apply State.setSport_keeps

theorem State.takeSeq_keeps {tw : Touch} {s0 : State} (s : State) (p : Nat) (w : Nat) (m : Nat) (lane : Option Nat) (hK : Keeps tw s0 s) :
    Keeps tw s0 (State.takeSeq s p w m lane).1 := by
  unfold State.takeSeq
  try dsimp only
  repeat' first
    | with_reducible assumption
    | with_reducible refine Keeps.ite (fun _ => ?_) (fun _ => ?_)
    | with_reducible apply State.wr_keeps
    | with_reducible apply State.setSport_keeps
    | with_reducible apply State.count_keeps
    | with_reducible apply State.up_keeps
    | with_reducible refine Keeps.foldl (fun _ _ _ => ?_) ?_
    | with_reducible refine Keeps.foldl_fst (fun _ _ _ => ?_) ?_
    | with_reducible refine Keeps.foldl_snd (fun _ _ _ => ?_) ?_
    | split

theorem State.takeSeq_keeps_eq {tw : Touch} {s0 : State} {tt : State} {res1 : Bool} (s : State) (p : Nat) (w : Nat) (m : Nat) (lane : Option Nat) (he : State.takeSeq s p w m lane = (tt, res1)) (hK : Keeps tw s0 s) :
    Keeps tw s0 tt := by
  have := State.takeSeq_keeps s p w m lane hK 
  rw [he] at this
  exact this

theorem State.ctrlErr_keeps {tw : Touch} {s0 : State} (s : State) (n : Nat) (hK : Keeps tw s0 s) :
    Keeps tw s0 (State.ctrlErr s n) := by
  unfold State.ctrlErr
  try dsimp only
  repeat' first
    | with_reducible assumption
    | with_reducible refine Keeps.ite (fun _ => ?_) (fun _ => ?_)
    | with_reducible apply State.up_keeps
    | with_reducible apply State.count_keeps

theorem State.creditRx_keeps {tw : Touch} {s0 : State} (s : State) (n : Nat) (p : Nat) (limit : Nat) (hK : Keeps tw s0 s) :
    Keeps tw s0 (State.creditRx s n p limit) := by
  unfold State.creditRx
  try dsimp only
  repeat' first
    | with_reducible assumption
    | with_reducible refine Keeps.ite (fun _ => ?_) (fun _ => ?_)
    | with_reducible apply State.ctrlErr_keeps
    | with_reducible apply State.takeLimit_keeps

theorem execCreditRx_keeps {tw : Touch} {s0 : State} (lane : Fin 64) (port : Fin 1024) (limit : BitVec 16) (s : State) (hK : Keeps tw s0 s) :
    KeepsOut tw s0 (execCreditRx lane port limit s) := by
  unfold execCreditRx
  try dsimp only
  repeat' first
    | with_reducible assumption
    | with_reducible refine KeepsOut.next ?_
    | with_reducible refine KeepsOut.ite (fun _ => ?_) (fun _ => ?_)
    | with_reducible refine Keeps.ite (fun _ => ?_) (fun _ => ?_)
    | with_reducible apply State.creditRx_keeps

theorem execCreditTx_keeps {tw : Touch} {s0 : State} (port : Fin 1024) (s : State) (hK : Keeps tw s0 s) :
    KeepsOut tw s0 (execCreditTx port s) := by
  unfold execCreditTx
  try dsimp only
  repeat' first
    | with_reducible assumption
    | with_reducible refine KeepsOut.next ?_
    | with_reducible refine KeepsOut.ite (fun _ => ?_) (fun _ => ?_)
    | with_reducible refine Keeps.ite (fun _ => ?_) (fun _ => ?_)
    | with_reducible apply State.emit_keeps

theorem execCdrLock_keeps {tw : Touch} {s0 : State} (lane : Fin 64) (ctle : BitVec 4) (dfe : BitVec 28) (s : State) (hK : Keeps tw s0 s) :
    KeepsOut tw s0 (execCdrLock lane ctle dfe s) := by
  unfold execCdrLock
  try dsimp only
  repeat' first
    | with_reducible assumption
    | with_reducible refine KeepsOut.next ?_
    | with_reducible refine KeepsOut.ite (fun _ => ?_) (fun _ => ?_)
    | with_reducible refine Keeps.ite (fun _ => ?_) (fun _ => ?_)
    | with_reducible apply State.wr_keeps
    | with_reducible apply State.setLane_keeps

theorem execCdrAcqTimeout_keeps {tw : Touch} {s0 : State} (lane : Fin 64) (s : State) (hK : Keeps tw s0 s) :
    KeepsOut tw s0 (execCdrAcqTimeout lane s) := by
  unfold execCdrAcqTimeout
  try dsimp only
  repeat' first
    | with_reducible assumption
    | with_reducible refine KeepsOut.next ?_
    | with_reducible refine KeepsOut.ite (fun _ => ?_) (fun _ => ?_)
    | with_reducible refine Keeps.ite (fun _ => ?_) (fun _ => ?_)
    | with_reducible apply State.up_keeps

theorem execAlignTx_keeps {tw : Touch} {s0 : State} (lane : Fin 64) (bip : BitVec 8) (s : State) (hK : Keeps tw s0 s) :
    KeepsOut tw s0 (execAlignTx lane bip s) := by
  unfold execAlignTx
  try dsimp only
  repeat' first
    | with_reducible assumption
    | with_reducible refine KeepsOut.next ?_
    | with_reducible refine KeepsOut.ite (fun _ => ?_) (fun _ => ?_)
    | with_reducible refine Keeps.ite (fun _ => ?_) (fun _ => ?_)
    | with_reducible apply State.setLane_keeps
    | with_reducible apply State.emit_keeps

theorem execLaneTxDelayWrite_keeps {tw : Touch} {s0 : State} (lane : Fin 64) (value : Word) (s : State) (hK : Keeps tw s0 s) :
    KeepsOut tw s0 (execLaneTxDelayWrite lane value s) := by
  unfold execLaneTxDelayWrite
  try dsimp only
  repeat' first
    | with_reducible assumption
    | with_reducible refine KeepsOut.next ?_
    | with_reducible refine KeepsOut.ite (fun _ => ?_) (fun _ => ?_)
    | with_reducible refine Keeps.ite (fun _ => ?_) (fun _ => ?_)
    | with_reducible apply State.accessFault_keeps
    | with_reducible apply State.wr_keeps

theorem execTapSlewStep_keeps {tw : Touch} {s0 : State} (lane : Fin 64) (s : State) (hK : Keeps tw s0 s) :
    KeepsOut tw s0 (execTapSlewStep lane s) := by
  unfold execTapSlewStep
  try dsimp only
  repeat' first
    | with_reducible assumption
    | with_reducible refine KeepsOut.next ?_
    | with_reducible refine KeepsOut.ite (fun _ => ?_) (fun _ => ?_)
    | with_reducible refine Keeps.ite (fun _ => ?_) (fun _ => ?_)
    | with_reducible apply State.wr_keeps
    | with_reducible apply State.setLane_keeps

theorem execLaneProbeStart_keeps {tw : Touch} {s0 : State} (lane : Fin 64) (value : Word) (s : State) (hK : Keeps tw s0 s) :
    KeepsOut tw s0 (execLaneProbeStart lane value s) := by
  unfold execLaneProbeStart
  try dsimp only
  repeat' first
    | with_reducible assumption
    | with_reducible refine KeepsOut.next ?_
    | with_reducible refine KeepsOut.ite (fun _ => ?_) (fun _ => ?_)
    | with_reducible refine Keeps.ite (fun _ => ?_) (fun _ => ?_)
    | with_reducible apply State.accessFault_keeps
    | with_reducible apply State.wr_keeps
    | with_reducible apply State.up_keeps
    | with_reducible apply State.setLane_keeps

theorem execProbeTx_keeps {tw : Touch} {s0 : State} (lane : Fin 64) (s : State) (hK : Keeps tw s0 s) :
    KeepsOut tw s0 (execProbeTx lane s) := by
  unfold execProbeTx
  try dsimp only
  repeat' first
    | with_reducible assumption
    | with_reducible refine KeepsOut.next ?_
    | with_reducible refine KeepsOut.ite (fun _ => ?_) (fun _ => ?_)
    | with_reducible refine Keeps.ite (fun _ => ?_) (fun _ => ?_)
    | with_reducible apply State.setLane_keeps
    | with_reducible apply State.emit_keeps
    | with_reducible refine Keeps.foldl (fun _ _ _ => ?_) ?_
    | with_reducible refine Keeps.foldl_fst (fun _ _ _ => ?_) ?_
    | with_reducible refine Keeps.foldl_snd (fun _ _ _ => ?_) ?_
    | split

theorem State.echo_keeps {tw : Touch} {s0 : State} (s : State) (n : Nat) (id : Nat) (turn : Nat) (taps : Nat) (hK : Keeps tw s0 s) :
    Keeps tw s0 (State.echo s n id turn taps) := by
  unfold State.echo
  try dsimp only
  repeat' first
    | with_reducible assumption
    | with_reducible refine Keeps.ite (fun _ => ?_) (fun _ => ?_)
    | with_reducible apply State.setLane_keeps
    | with_reducible apply State.wr_keeps
    | with_reducible refine Keeps.foldl (fun _ _ _ => ?_) ?_
    | with_reducible refine Keeps.foldl_fst (fun _ _ _ => ?_) ?_
    | with_reducible refine Keeps.foldl_snd (fun _ _ _ => ?_) ?_
    | split

theorem execEchoRx_keeps {tw : Touch} {s0 : State} (lane : Fin 64) (probeId : BitVec 16) (turn : BitVec 16) (taps : Nat) (s : State) (hK : Keeps tw s0 s) :
    KeepsOut tw s0 (execEchoRx lane probeId turn taps s) := by
  unfold execEchoRx
  try dsimp only
  repeat' first
    | with_reducible assumption
    | with_reducible refine KeepsOut.next ?_
    | with_reducible refine KeepsOut.ite (fun _ => ?_) (fun _ => ?_)
    | with_reducible refine Keeps.ite (fun _ => ?_) (fun _ => ?_)
    | with_reducible apply State.echo_keeps

theorem execProbeWindowEnd_keeps {tw : Touch} {s0 : State} (lane : Fin 64) (s : State) (hK : Keeps tw s0 s) :
    KeepsOut tw s0 (execProbeWindowEnd lane s) := by
  unfold execProbeWindowEnd
  try dsimp only
  repeat' first
    | with_reducible assumption
    | with_reducible refine KeepsOut.next ?_
    | with_reducible refine KeepsOut.ite (fun _ => ?_) (fun _ => ?_)
    | with_reducible refine Keeps.ite (fun _ => ?_) (fun _ => ?_)
    | with_reducible apply State.setLane_keeps
    | with_reducible apply State.down_keeps
    | with_reducible apply State.wr_keeps
    | with_reducible apply State.up_keeps
    | with_reducible refine Keeps.foldl (fun _ _ _ => ?_) ?_
    | with_reducible refine Keeps.foldl_fst (fun _ _ _ => ?_) ?_
    | with_reducible refine Keeps.foldl_snd (fun _ _ _ => ?_) ?_
    | split

theorem State.answerProbe_keeps {tw : Touch} {s0 : State} (s : State) (n : Nat) (id : Nat) (hK : Keeps tw s0 s) :
    Keeps tw s0 (State.answerProbe s n id) := by
  unfold State.answerProbe
  try dsimp only
  repeat' first
    | with_reducible assumption
    | with_reducible refine Keeps.ite (fun _ => ?_) (fun _ => ?_)
    | with_reducible apply State.emit_keeps

theorem execProbeRx_keeps {tw : Touch} {s0 : State} (lane : Fin 64) (probeId : BitVec 16) (s : State) (hK : Keeps tw s0 s) :
    KeepsOut tw s0 (execProbeRx lane probeId s) := by
  unfold execProbeRx
  try dsimp only
  repeat' first
    | with_reducible assumption
    | with_reducible refine KeepsOut.next ?_
    | with_reducible refine KeepsOut.ite (fun _ => ?_) (fun _ => ?_)
    | with_reducible refine Keeps.ite (fun _ => ?_) (fun _ => ?_)
    | with_reducible apply State.answerProbe_keeps

theorem execMarginStart_keeps {tw : Touch} {s0 : State} (lane : Fin 64) (value : Word) (s : State) (hK : Keeps tw s0 s) :
    KeepsOut tw s0 (execMarginStart lane value s) := by
  unfold execMarginStart
  try dsimp only
  repeat' first
    | with_reducible assumption
    | with_reducible refine KeepsOut.next ?_
    | with_reducible refine KeepsOut.ite (fun _ => ?_) (fun _ => ?_)
    | with_reducible refine Keeps.ite (fun _ => ?_) (fun _ => ?_)
    | with_reducible apply State.accessFault_keeps
    | with_reducible apply State.wr_keeps
    | with_reducible apply State.down_keeps
    | with_reducible apply State.setLane_keeps

theorem execMarginDone_keeps {tw : Touch} {s0 : State} (lane : Fin 64) (errors : Nat) (s : State) (hK : Keeps tw s0 s) :
    KeepsOut tw s0 (execMarginDone lane errors s) := by
  unfold execMarginDone
  try dsimp only
  repeat' first
    | with_reducible assumption
    | with_reducible refine KeepsOut.next ?_
    | with_reducible refine KeepsOut.ite (fun _ => ?_) (fun _ => ?_)
    | with_reducible refine Keeps.ite (fun _ => ?_) (fun _ => ?_)
    | with_reducible apply State.setLane_keeps
    | with_reducible apply State.wr_keeps
    | with_reducible apply State.up_keeps

theorem State.prbsRefused_keeps {tw : Touch} {s0 : State} (s : State) (n : Nat) (hK : Keeps tw s0 s) :
    KeepsSome tw s0 (State.prbsRefused s n) := by
  unfold State.prbsRefused
  try dsimp only
  repeat' first
    | with_reducible assumption
    | with_reducible refine KeepsSome.some ?_
    | with_reducible exact KeepsSome.none
    | with_reducible refine KeepsSome.ite (fun _ => ?_) (fun _ => ?_)
    | with_reducible refine Keeps.ite (fun _ => ?_) (fun _ => ?_)
    | with_reducible apply State.accessFault_keeps

theorem State.prbsRefused_keeps_eq {tw : Touch} {s0 : State} {tt : State} (s : State) (n : Nat) (he : State.prbsRefused s n = some tt) (hK : Keeps tw s0 s) :
    Keeps tw s0 tt :=
  (State.prbsRefused_keeps s n hK ).keeps tt he

theorem execPrbsInject_keeps {tw : Touch} {s0 : State} (lane : Fin 64) (s : State) (hK : Keeps tw s0 s) :
    KeepsOut tw s0 (execPrbsInject lane s) := by
  unfold execPrbsInject
  try dsimp only
  repeat' first
    | with_reducible assumption
    | with_reducible refine State.prbsRefused_keeps_eq _ _ (by assumption) ?_
    | with_reducible refine KeepsOut.next ?_
    | with_reducible refine KeepsOut.ite (fun _ => ?_) (fun _ => ?_)
    | with_reducible refine Keeps.ite (fun _ => ?_) (fun _ => ?_)
    | with_reducible apply State.prbsRefused_keeps
    | with_reducible apply State.emit_keeps
    | with_reducible refine Keeps.foldl (fun _ _ _ => ?_) ?_
    | with_reducible refine Keeps.foldl_fst (fun _ _ _ => ?_) ?_
    | with_reducible refine Keeps.foldl_snd (fun _ _ _ => ?_) ?_
    | split

theorem execPrbsClear_keeps {tw : Touch} {s0 : State} (lane : Fin 64) (s : State) (hK : Keeps tw s0 s) :
    KeepsOut tw s0 (execPrbsClear lane s) := by
  unfold execPrbsClear
  try dsimp only
  repeat' first
    | with_reducible assumption
    | with_reducible refine State.prbsRefused_keeps_eq _ _ (by assumption) ?_
    | with_reducible refine KeepsOut.next ?_
    | with_reducible refine KeepsOut.ite (fun _ => ?_) (fun _ => ?_)
    | with_reducible refine Keeps.ite (fun _ => ?_) (fun _ => ?_)
    | with_reducible apply State.prbsRefused_keeps
    | with_reducible apply State.wr64_keeps
    | with_reducible apply State.wr_keeps
    | with_reducible refine Keeps.foldl (fun _ _ _ => ?_) ?_
    | with_reducible refine Keeps.foldl_fst (fun _ _ _ => ?_) ?_
    | with_reducible refine Keeps.foldl_snd (fun _ _ _ => ?_) ?_
    | split

theorem State.prbsBit_keeps {tw : Touch} {s0 : State} (s : State) (n : Nat) (err : Bool) (hK : Keeps tw s0 s) :
    Keeps tw s0 (State.prbsBit s n err) := by
  unfold State.prbsBit
  try dsimp only
  repeat' first
    | with_reducible assumption
    | with_reducible refine Keeps.ite (fun _ => ?_) (fun _ => ?_)
    | with_reducible apply State.up_keeps
    | with_reducible apply State.setLane_keeps
    | with_reducible apply State.count_keeps
    | with_reducible apply State.wr64_keeps
    | with_reducible apply State.down_keeps

theorem execPrbsCheck_keeps {tw : Touch} {s0 : State} (lane : Fin 64) (errors : List Bool) (s : State) (hK : Keeps tw s0 s) :
    KeepsOut tw s0 (execPrbsCheck lane errors s) := by
  unfold execPrbsCheck
  try dsimp only
  repeat' first
    | with_reducible assumption
    | with_reducible refine KeepsOut.next ?_
    | with_reducible refine KeepsOut.ite (fun _ => ?_) (fun _ => ?_)
    | with_reducible refine Keeps.ite (fun _ => ?_) (fun _ => ?_)
    | with_reducible apply forAll_keeps
    | with_reducible apply State.prbsBit_keeps
    | with_reducible refine Keeps.foldl (fun _ _ _ => ?_) ?_
    | with_reducible refine Keeps.foldl_fst (fun _ _ _ => ?_) ?_
    | with_reducible refine Keeps.foldl_snd (fun _ _ _ => ?_) ?_
    | split
    | intro _

end Sys2Proof.Machine
end

