-- ==== Sys2Proof/Laws/KeepsTime.lean ====
section
/-! SUPPORT. What the operations of Machine/Time.lean keep of a state (Laws/Keeps.lean). -/

namespace Sys2Proof.Machine

theorem State.setCounter_keeps {tw : Touch} {s0 : State} (s : State) (v : Nat) (hK : Keeps tw s0 s) :
    Keeps tw s0 (State.setCounter s v) := by
  unfold State.setCounter
  try dsimp only
  repeat' first
    | with_reducible assumption
    | with_reducible refine Keeps.ite (fun _ => ?_) (fun _ => ?_)
    | with_reducible apply State.wr64_keeps

theorem execTimeIncWrite_keeps {tw : Touch} {s0 : State} (hi : Word) (s : State) (hK : Keeps tw s0 s) :
    KeepsOut tw s0 (execTimeIncWrite hi s) := by
  unfold execTimeIncWrite
  try dsimp only
  repeat' first
    | with_reducible assumption
    | with_reducible refine KeepsOut.next ?_
    | with_reducible refine KeepsOut.ite (fun _ => ?_) (fun _ => ?_)
    | with_reducible refine Keeps.ite (fun _ => ?_) (fun _ => ?_)
    | with_reducible apply State.dropStaged_keeps
    | with_reducible apply State.up_keeps
    | with_reducible apply State.wr64_keeps

theorem execTimeSlewStart_keeps {tw : Touch} {s0 : State} (ticks : Word) (s : State) (hK : Keeps tw s0 s) :
    KeepsOut tw s0 (execTimeSlewStart ticks s) := by
  unfold execTimeSlewStart
  try dsimp only
  repeat' first
    | with_reducible assumption
    | with_reducible refine KeepsOut.next ?_
    | with_reducible refine KeepsOut.ite (fun _ => ?_) (fun _ => ?_)
    | with_reducible refine Keeps.ite (fun _ => ?_) (fun _ => ?_)
    | with_reducible apply State.up_keeps
    | with_reducible apply State.wr_keeps
    | with_reducible refine Keeps.foldl (fun _ _ _ => ?_) ?_
    | with_reducible refine Keeps.foldl_fst (fun _ _ _ => ?_) ?_
    | with_reducible refine Keeps.foldl_snd (fun _ _ _ => ?_) ?_
    | split
    | intro _
    | fail_if_no_progress (with_reducible apply Keeps.upd)

theorem execTimeSlewEnd_keeps {tw : Touch} {s0 : State} (s : State) (hK : Keeps tw s0 s) :
    KeepsOut tw s0 (execTimeSlewEnd s) := by
  unfold execTimeSlewEnd
  try dsimp only
  repeat' first
    | with_reducible assumption
    | with_reducible refine KeepsOut.next ?_
    | with_reducible refine KeepsOut.ite (fun _ => ?_) (fun _ => ?_)
    | with_reducible refine Keeps.ite (fun _ => ?_) (fun _ => ?_)
    | with_reducible apply State.wr_keeps
    | with_reducible apply State.down_keeps

theorem State.setComp_keeps {tw : Touch} {s0 : State} (s : State) (i : Nat) (c : Comparator) (hK : Keeps tw s0 s) :
    Keeps tw s0 (State.setComp s i c) := by
  unfold State.setComp
  try dsimp only
  repeat' first
    | with_reducible assumption
    | with_reducible refine Keeps.ite (fun _ => ?_) (fun _ => ?_)
    | with_reducible refine Keeps.foldl (fun _ _ _ => ?_) ?_
    | with_reducible refine Keeps.foldl_fst (fun _ _ _ => ?_) ?_
    | with_reducible refine Keeps.foldl_snd (fun _ _ _ => ?_) ?_
    | split
    | intro _
    | fail_if_no_progress (with_reducible apply Keeps.upd)

theorem State.compCtl_keeps {tw : Touch} {s0 : State} (s : State) (i : Nat) (w : Word) (hK : Keeps tw s0 s) :
    Keeps tw s0 (State.compCtl s i w) := by
  unfold State.compCtl
  try dsimp only
  repeat' first
    | with_reducible assumption
    | with_reducible refine Keeps.ite (fun _ => ?_) (fun _ => ?_)
    | with_reducible apply State.wr_keeps
    | with_reducible apply State.setComp_keeps
    | with_reducible apply State.up_keeps
    | with_reducible apply State.down_keeps

theorem execComparatorArm_keeps {tw : Touch} {s0 : State} (unit : Fin 16) (ctl : Word) (s : State) (hK : Keeps tw s0 s) :
    KeepsOut tw s0 (execComparatorArm unit ctl s) := by
  unfold execComparatorArm
  try dsimp only
  repeat' first
    | with_reducible assumption
    | with_reducible refine KeepsOut.next ?_
    | with_reducible refine KeepsOut.ite (fun _ => ?_) (fun _ => ?_)
    | with_reducible refine Keeps.ite (fun _ => ?_) (fun _ => ?_)
    | with_reducible apply State.compCtl_keeps
    | with_reducible apply State.accessFault_keeps
    | with_reducible apply State.up_keeps

theorem execComparatorFire_keeps {tw : Touch} {s0 : State} (unit : Fin 16) (s : State) (hK : Keeps tw s0 s) :
    KeepsOut tw s0 (execComparatorFire unit s) := by
  unfold execComparatorFire
  try dsimp only
  repeat' first
    | with_reducible assumption
    | with_reducible refine KeepsOut.next ?_
    | with_reducible refine KeepsOut.ite (fun _ => ?_) (fun _ => ?_)
    | with_reducible refine Keeps.ite (fun _ => ?_) (fun _ => ?_)
    | with_reducible apply State.up_keeps
    | with_reducible apply State.count_keeps
    | with_reducible apply State.event_keeps
    | with_reducible apply State.setComp_keeps
    | with_reducible apply State.wr_keeps
    | with_reducible apply State.down_keeps
    | with_reducible apply State.wr64_keeps

theorem execTimeStep_keeps {tw : Touch} {s0 : State} (hi : Word) (s : State) (hK : Keeps tw s0 s) :
    KeepsOut tw s0 (execTimeStep hi s) := by
  unfold execTimeStep
  try dsimp only
  repeat' first
    | with_reducible assumption
    | with_reducible refine KeepsOut.next ?_
    | with_reducible refine KeepsOut.ite (fun _ => ?_) (fun _ => ?_)
    | with_reducible refine Keeps.ite (fun _ => ?_) (fun _ => ?_)
    | with_reducible apply State.dropStaged_keeps
    | with_reducible apply State.setCounter_keeps
    | with_reducible apply State.up_keeps
    | with_reducible apply State.log_keeps
    | with_reducible apply State.setComp_keeps
    | with_reducible apply forN_keeps
    | with_reducible refine Keeps.foldl (fun _ _ _ => ?_) ?_
    | with_reducible refine Keeps.foldl_fst (fun _ _ _ => ?_) ?_
    | with_reducible refine Keeps.foldl_snd (fun _ _ _ => ?_) ?_
    | split
    | intro _

theorem execTimeBaseCommit_keeps {tw : Touch} {s0 : State} (cnt : Word) (s : State) (hK : Keeps tw s0 s) :
    KeepsOut tw s0 (execTimeBaseCommit cnt s) := by
  unfold execTimeBaseCommit
  try dsimp only
  repeat' first
    | with_reducible assumption
    | with_reducible refine KeepsOut.next ?_
    | with_reducible refine KeepsOut.ite (fun _ => ?_) (fun _ => ?_)
    | with_reducible refine Keeps.ite (fun _ => ?_) (fun _ => ?_)
    | with_reducible apply State.accessFault_keeps
    | with_reducible apply State.wr_keeps
    | with_reducible refine Keeps.foldl (fun _ _ _ => ?_) ?_
    | with_reducible refine Keeps.foldl_fst (fun _ _ _ => ?_) ?_
    | with_reducible refine Keeps.foldl_snd (fun _ _ _ => ?_) ?_
    | split
    | intro _
    | fail_if_no_progress (with_reducible apply Keeps.upd)

theorem State.ppsDrive_keeps {tw : Touch} {s0 : State} (s : State) (high : Bool) (hK : Keeps tw s0 s) :
    Keeps tw s0 (State.ppsDrive s high) := by
  unfold State.ppsDrive
  try dsimp only
  repeat' first
    | with_reducible assumption
    | with_reducible refine Keeps.ite (fun _ => ?_) (fun _ => ?_)
    | with_reducible apply State.emit_keeps
    | with_reducible refine Keeps.foldl (fun _ _ _ => ?_) ?_
    | with_reducible refine Keeps.foldl_fst (fun _ _ _ => ?_) ?_
    | with_reducible refine Keeps.foldl_snd (fun _ _ _ => ?_) ?_
    | split
    | intro _
    | fail_if_no_progress (with_reducible apply Keeps.upd)

theorem State.ppsLevel_keeps {tw : Touch} {s0 : State} (s : State) (high : Bool) (hK : Keeps tw s0 s) :
    Keeps tw s0 (State.ppsLevel s high) := by
  unfold State.ppsLevel
  try dsimp only
  repeat' first
    | with_reducible assumption
    | with_reducible refine Keeps.ite (fun _ => ?_) (fun _ => ?_)
    | with_reducible apply State.ppsDrive_keeps
    | with_reducible refine Keeps.foldl (fun _ _ _ => ?_) ?_
    | with_reducible refine Keeps.foldl_fst (fun _ _ _ => ?_) ?_
    | with_reducible refine Keeps.foldl_snd (fun _ _ _ => ?_) ?_
    | split
    | intro _
    | fail_if_no_progress (with_reducible apply Keeps.upd)

theorem execBaseStale_keeps {tw : Touch} {s0 : State} (s : State) (hK : Keeps tw s0 s) :
    KeepsOut tw s0 (execBaseStale s) := by
  unfold execBaseStale
  try dsimp only
  repeat' first
    | with_reducible assumption
    | with_reducible refine KeepsOut.next ?_
    | with_reducible refine KeepsOut.ite (fun _ => ?_) (fun _ => ?_)
    | with_reducible refine Keeps.ite (fun _ => ?_) (fun _ => ?_)
    | with_reducible apply State.up_keeps
    | with_reducible apply State.ppsLevel_keeps

theorem State.setGen_keeps {tw : Touch} {s0 : State} (s : State) (g : Nat) (p : PulseGen) (hK : Keeps tw s0 s) :
    Keeps tw s0 (State.setGen s g p) := by
  unfold State.setGen
  try dsimp only
  repeat' first
    | with_reducible assumption
    | with_reducible refine Keeps.ite (fun _ => ?_) (fun _ => ?_)
    | with_reducible refine Keeps.foldl (fun _ _ _ => ?_) ?_
    | with_reducible refine Keeps.foldl_fst (fun _ _ _ => ?_) ?_
    | with_reducible refine Keeps.foldl_snd (fun _ _ _ => ?_) ?_
    | split
    | intro _
    | fail_if_no_progress (with_reducible apply Keeps.upd)

theorem State.pulsePins_keeps {tw : Touch} {s0 : State} (s : State) (g : Nat) (active : Bool) (hK : Keeps tw s0 s) :
    Keeps tw s0 (State.pulsePins s g active) := by
  unfold State.pulsePins
  try dsimp only
  repeat' first
    | with_reducible assumption
    | with_reducible refine Keeps.ite (fun _ => ?_) (fun _ => ?_)
    | with_reducible apply forN_keeps
    | with_reducible apply State.evioSet_keeps
    | with_reducible apply State.ppsDrive_keeps
    | with_reducible refine Keeps.foldl (fun _ _ _ => ?_) ?_
    | with_reducible refine Keeps.foldl_fst (fun _ _ _ => ?_) ?_
    | with_reducible refine Keeps.foldl_snd (fun _ _ _ => ?_) ?_
    | split
    | intro _

theorem State.pulseCtl_keeps {tw : Touch} {s0 : State} (s : State) (g : Nat) (w : Word) (hK : Keeps tw s0 s) :
    Keeps tw s0 (State.pulseCtl s g w) := by
  unfold State.pulseCtl
  try dsimp only
  repeat' first
    | with_reducible assumption
    | with_reducible refine Keeps.ite (fun _ => ?_) (fun _ => ?_)
    | with_reducible apply State.wr_keeps
    | with_reducible apply State.setGen_keeps
    | with_reducible apply State.down_keeps
    | with_reducible apply State.pulsePins_keeps

theorem execPulseArm_keeps {tw : Touch} {s0 : State} (gen : Fin 4) (ctl : Word) (s : State) (hK : Keeps tw s0 s) :
    KeepsOut tw s0 (execPulseArm gen ctl s) := by
  unfold execPulseArm
  try dsimp only
  repeat' first
    | with_reducible assumption
    | with_reducible refine KeepsOut.next ?_
    | with_reducible refine KeepsOut.ite (fun _ => ?_) (fun _ => ?_)
    | with_reducible refine Keeps.ite (fun _ => ?_) (fun _ => ?_)
    | with_reducible apply State.pulseCtl_keeps
    | with_reducible apply State.accessFault_keeps
    | with_reducible apply State.up_keeps

theorem State.pulseBegin_keeps {tw : Touch} {s0 : State} (s : State) (g : Nat) (start : Nat) (hK : Keeps tw s0 s) :
    Keeps tw s0 (State.pulseBegin s g start) := by
  unfold State.pulseBegin
  try dsimp only
  repeat' first
    | with_reducible assumption
    | with_reducible refine Keeps.ite (fun _ => ?_) (fun _ => ?_)
    | with_reducible apply State.up_keeps
    | with_reducible apply State.setGen_keeps
    | with_reducible apply State.pulsePins_keeps

theorem execPulseStart_keeps {tw : Touch} {s0 : State} (gen : Fin 4) (s : State) (hK : Keeps tw s0 s) :
    KeepsOut tw s0 (execPulseStart gen s) := by
  unfold execPulseStart
  try dsimp only
  repeat' first
    | with_reducible assumption
    | with_reducible refine KeepsOut.next ?_
    | with_reducible refine KeepsOut.ite (fun _ => ?_) (fun _ => ?_)
    | with_reducible refine Keeps.ite (fun _ => ?_) (fun _ => ?_)
    | with_reducible apply State.pulseBegin_keeps
    | with_reducible refine Keeps.foldl (fun _ _ _ => ?_) ?_
    | with_reducible refine Keeps.foldl_fst (fun _ _ _ => ?_) ?_
    | with_reducible refine Keeps.foldl_snd (fun _ _ _ => ?_) ?_
    | split

theorem execPulseEnd_keeps {tw : Touch} {s0 : State} (gen : Fin 4) (s : State) (hK : Keeps tw s0 s) :
    KeepsOut tw s0 (execPulseEnd gen s) := by
  unfold execPulseEnd
  try dsimp only
  repeat' first
    | with_reducible assumption
    | with_reducible refine KeepsOut.next ?_
    | with_reducible refine KeepsOut.ite (fun _ => ?_) (fun _ => ?_)
    | with_reducible refine Keeps.ite (fun _ => ?_) (fun _ => ?_)
    | with_reducible apply State.pulsePins_keeps
    | with_reducible apply State.setGen_keeps
    | with_reducible apply State.down_keeps

theorem execPulseStartEvent_keeps {tw : Touch} {s0 : State} (gen : Fin 4) (s : State) (hK : Keeps tw s0 s) :
    KeepsOut tw s0 (execPulseStartEvent gen s) := by
  unfold execPulseStartEvent
  try dsimp only
  repeat' first
    | with_reducible assumption
    | with_reducible refine KeepsOut.next ?_
    | with_reducible refine KeepsOut.ite (fun _ => ?_) (fun _ => ?_)
    | with_reducible refine Keeps.ite (fun _ => ?_) (fun _ => ?_)
    | with_reducible apply State.overrun_keeps
    | with_reducible apply State.up_keeps
    | with_reducible apply State.pulseBegin_keeps

theorem execPulseStopEvent_keeps {tw : Touch} {s0 : State} (gen : Fin 4) (s : State) (hK : Keeps tw s0 s) :
    KeepsOut tw s0 (execPulseStopEvent gen s) := by
  unfold execPulseStopEvent
  try dsimp only
  repeat' first
    | with_reducible assumption
    | with_reducible refine KeepsOut.next ?_
    | with_reducible refine KeepsOut.ite (fun _ => ?_) (fun _ => ?_)
    | with_reducible refine Keeps.ite (fun _ => ?_) (fun _ => ?_)
    | with_reducible apply State.setGen_keeps
    | with_reducible apply State.down_keeps

theorem State.setTcaps_keeps {tw : Touch} {s0 : State} (s : State) (u : Nat) (l : List Nat) (hK : Keeps tw s0 s) :
    Keeps tw s0 (State.setTcaps s u l) := by
  unfold State.setTcaps
  try dsimp only
  repeat' first
    | with_reducible assumption
    | with_reducible refine Keeps.ite (fun _ => ?_) (fun _ => ?_)
    | with_reducible apply State.wr_keeps
    | with_reducible apply State.wr64_keeps
    | with_reducible refine Keeps.foldl (fun _ _ _ => ?_) ?_
    | with_reducible refine Keeps.foldl_fst (fun _ _ _ => ?_) ?_
    | with_reducible refine Keeps.foldl_snd (fun _ _ _ => ?_) ?_
    | split
    | intro _
    | fail_if_no_progress (with_reducible apply Keeps.upd)

theorem execTimeCapture_keeps {tw : Touch} {s0 : State} (unit : Fin 4) (s : State) (hK : Keeps tw s0 s) :
    KeepsOut tw s0 (execTimeCapture unit s) := by
  unfold execTimeCapture
  try dsimp only
  repeat' first
    | with_reducible assumption
    | with_reducible refine KeepsOut.next ?_
    | with_reducible refine KeepsOut.ite (fun _ => ?_) (fun _ => ?_)
    | with_reducible refine Keeps.ite (fun _ => ?_) (fun _ => ?_)
    | with_reducible apply State.setTcaps_keeps
    | with_reducible apply State.up_keeps
    | with_reducible apply State.count_keeps
    | with_reducible apply State.overrun_keeps

theorem execTimeCapturePop_keeps {tw : Touch} {s0 : State} (unit : Fin 4) (s : State) (hK : Keeps tw s0 s) :
    KeepsOut tw s0 (execTimeCapturePop unit s) := by
  unfold execTimeCapturePop
  try dsimp only
  repeat' first
    | with_reducible assumption
    | with_reducible refine KeepsOut.next ?_
    | with_reducible refine KeepsOut.ite (fun _ => ?_) (fun _ => ?_)
    | with_reducible refine Keeps.ite (fun _ => ?_) (fun _ => ?_)
    | with_reducible apply State.setTcaps_keeps

theorem execPpsInEdge_keeps {tw : Touch} {s0 : State} (falling : Bool) (s : State) (hK : Keeps tw s0 s) :
    KeepsOut tw s0 (execPpsInEdge falling s) := by
  unfold execPpsInEdge
  try dsimp only
  repeat' first
    | with_reducible assumption
    | with_reducible refine KeepsOut.next ?_
    | with_reducible refine KeepsOut.ite (fun _ => ?_) (fun _ => ?_)
    | with_reducible refine Keeps.ite (fun _ => ?_) (fun _ => ?_)
    | with_reducible apply State.count_keeps
    | with_reducible apply State.wr64_keeps
    | with_reducible apply State.up_keeps
    | with_reducible refine Keeps.foldl (fun _ _ _ => ?_) ?_
    | with_reducible refine Keeps.foldl_fst (fun _ _ _ => ?_) ?_
    | with_reducible refine Keeps.foldl_snd (fun _ _ _ => ?_) ?_
    | split
    | intro _
    | fail_if_no_progress (with_reducible apply Keeps.upd)

theorem execPpsOutSecond_keeps {tw : Touch} {s0 : State} (s : State) (hK : Keeps tw s0 s) :
    KeepsOut tw s0 (execPpsOutSecond s) := by
  unfold execPpsOutSecond
  try dsimp only
  repeat' first
    | with_reducible assumption
    | with_reducible refine KeepsOut.next ?_
    | with_reducible refine KeepsOut.ite (fun _ => ?_) (fun _ => ?_)
    | with_reducible refine Keeps.ite (fun _ => ?_) (fun _ => ?_)
    | with_reducible apply State.ppsLevel_keeps

theorem execPpsOutWidthEnd_keeps {tw : Touch} {s0 : State} (s : State) (hK : Keeps tw s0 s) :
    KeepsOut tw s0 (execPpsOutWidthEnd s) := by
  unfold execPpsOutWidthEnd
  try dsimp only
  repeat' first
    | with_reducible assumption
    | with_reducible refine KeepsOut.next ?_
    | with_reducible refine KeepsOut.ite (fun _ => ?_) (fun _ => ?_)
    | with_reducible refine Keeps.ite (fun _ => ?_) (fun _ => ?_)
    | with_reducible apply State.ppsLevel_keeps

theorem State.setStamps_keeps {tw : Touch} {s0 : State} (s : State) (e : Nat) (l : List TsEntry) (hK : Keeps tw s0 s) :
    Keeps tw s0 (State.setStamps s e l) := by
  unfold State.setStamps
  try dsimp only
  repeat' first
    | with_reducible assumption
    | with_reducible refine Keeps.ite (fun _ => ?_) (fun _ => ?_)
    | with_reducible apply State.wr_keeps
    | with_reducible apply State.wr64_keeps
    | with_reducible refine Keeps.foldl (fun _ _ _ => ?_) ?_
    | with_reducible refine Keeps.foldl_fst (fun _ _ _ => ?_) ?_
    | with_reducible refine Keeps.foldl_snd (fun _ _ _ => ?_) ?_
    | split
    | intro _
    | fail_if_no_progress (with_reducible apply Keeps.upd)

theorem State.pushStamp_keeps {tw : Touch} {s0 : State} (s : State) (e : Nat) (t : TsEntry) (hK : Keeps tw s0 s) :
    Keeps tw s0 (State.pushStamp s e t) := by
  unfold State.pushStamp
  try dsimp only
  repeat' first
    | with_reducible assumption
    | with_reducible refine Keeps.ite (fun _ => ?_) (fun _ => ?_)
    | with_reducible apply State.setStamps_keeps
    | with_reducible apply State.count_keeps

theorem execMacTsPop_keeps {tw : Touch} {s0 : State} (port : Fin 16) (s : State) (hK : Keeps tw s0 s) :
    KeepsOut tw s0 (execMacTsPop port s) := by
  unfold execMacTsPop
  try dsimp only
  repeat' first
    | with_reducible assumption
    | with_reducible refine KeepsOut.next ?_
    | with_reducible refine KeepsOut.ite (fun _ => ?_) (fun _ => ?_)
    | with_reducible refine Keeps.ite (fun _ => ?_) (fun _ => ?_)
    | with_reducible apply State.setStamps_keeps

theorem execTemplateValid_keeps {tw : Touch} {s0 : State} (template : Fin 16) (ctl : Word) (s : State) (hK : Keeps tw s0 s) :
    KeepsOut tw s0 (execTemplateValid template ctl s) := by
  unfold execTemplateValid
  try dsimp only
  repeat' first
    | with_reducible assumption
    | with_reducible refine KeepsOut.next ?_
    | with_reducible refine KeepsOut.ite (fun _ => ?_) (fun _ => ?_)
    | with_reducible refine Keeps.ite (fun _ => ?_) (fun _ => ?_)
    | with_reducible apply State.wr_keeps
    | with_reducible apply State.down_keeps
    | with_reducible apply State.up_keeps

end Sys2Proof.Machine
end

