-- ==== Sys2Proof/Laws/KeepsHeadbox.lean ====
section
/-! SUPPORT. What the operations of Machine/Headbox.lean keep of a state (Laws/Keeps.lean). -/

namespace Sys2Proof.Machine

theorem State.setHbPort_keeps {tw : Touch} {s0 : State} (s : State) (p : Nat) (v : HbPort) (hK : Keeps tw s0 s) :
    Keeps tw s0 (State.setHbPort s p v) := by
  unfold State.setHbPort
  try dsimp only
  repeat' first
    | with_reducible assumption
    | with_reducible refine Keeps.ite (fun _ => ?_) (fun _ => ?_)
    | with_reducible refine Keeps.foldl (fun _ _ _ => ?_) ?_
    | with_reducible refine Keeps.foldl_fst (fun _ _ _ => ?_) ?_
    | with_reducible refine Keeps.foldl_snd (fun _ _ _ => ?_) ?_
    | split
    | intro _
    | fail_if_no_progress (with_reducible apply Keeps.upd)

theorem State.setHbCh_keeps {tw : Touch} {s0 : State} (s : State) (n : Nat) (v : HbCh) (hK : Keeps tw s0 s) :
    Keeps tw s0 (State.setHbCh s n v) := by
  unfold State.setHbCh
  try dsimp only
  repeat' first
    | with_reducible assumption
    | with_reducible refine Keeps.ite (fun _ => ?_) (fun _ => ?_)
    | with_reducible refine Keeps.foldl (fun _ _ _ => ?_) ?_
    | with_reducible refine Keeps.foldl_fst (fun _ _ _ => ?_) ?_
    | with_reducible refine Keeps.foldl_snd (fun _ _ _ => ?_) ?_
    | split
    | intro _
    | fail_if_no_progress (with_reducible apply Keeps.upd)

theorem State.channelAlert_keeps {tw : Touch} {s0 : State} (s : State) (n : Nat) (hK : Keeps tw s0 s) :
    Keeps tw s0 (State.channelAlert s n) := by
  unfold State.channelAlert
  try dsimp only
  repeat' first
    | with_reducible assumption
    | with_reducible refine Keeps.ite (fun _ => ?_) (fun _ => ?_)
    | with_reducible apply State.event_keeps

theorem State.portAlert_keeps {tw : Touch} {s0 : State} (s : State) (p : Nat) (hK : Keeps tw s0 s) :
    Keeps tw s0 (State.portAlert s p) := by
  unfold State.portAlert
  try dsimp only
  repeat' first
    | with_reducible assumption
    | with_reducible refine Keeps.ite (fun _ => ?_) (fun _ => ?_)
    | with_reducible apply State.event_keeps

theorem State.hbCount_keeps {tw : Touch} {s0 : State} (s : State) (n : Nat) (c : Nat) (hK : Keeps tw s0 s) :
    Keeps tw s0 (State.hbCount s n c) := by
  unfold State.hbCount
  try dsimp only
  repeat' first
    | with_reducible assumption
    | with_reducible refine Keeps.ite (fun _ => ?_) (fun _ => ?_)
    | with_reducible apply State.count_keeps

theorem State.setFill_keeps {tw : Touch} {s0 : State} (s : State) (n : Nat) (fill : Nat) (hK : Keeps tw s0 s) :
    Keeps tw s0 (State.setFill s n fill) := by
  unfold State.setFill
  try dsimp only
  repeat' first
    | with_reducible assumption
    | with_reducible refine Keeps.ite (fun _ => ?_) (fun _ => ?_)
    | with_reducible apply State.setHbCh_keeps
    | with_reducible apply State.wr_keeps
    | with_reducible apply State.peak_keeps
    | with_reducible apply State.channelAlert_keeps
    | with_reducible apply State.up_keeps

theorem State.deliverLines_keeps {tw : Touch} {s0 : State} (s : State) (n : Nat) (x2 : Nat) (hK : Keeps tw s0 s) :
    Keeps tw s0 (State.deliverLines s n x2) := by
  induction x2 generalizing s n with
  | zero =>
    unfold State.deliverLines
    try dsimp only
    repeat' first
      | with_reducible assumption
  | succ n ih =>
    unfold State.deliverLines
    try dsimp only
    repeat' first
      | with_reducible assumption
      | with_reducible apply ih
      | with_reducible refine Keeps.ite (fun _ => ?_) (fun _ => ?_)
      | with_reducible apply State.setHbCh_keeps
      | with_reducible apply State.wr_keeps
      | with_reducible refine Keeps.foldl (fun _ _ _ => ?_) ?_
      | with_reducible refine Keeps.foldl_fst (fun _ _ _ => ?_) ?_
      | with_reducible refine Keeps.foldl_snd (fun _ _ _ => ?_) ?_
      | split

theorem State.hbFlush_keeps {tw : Touch} {s0 : State} (s : State) (n : Nat) (hK : Keeps tw s0 s) :
    Keeps tw s0 (State.hbFlush s n) := by
  unfold State.hbFlush
  try dsimp only
  repeat' first
    | with_reducible assumption
    | with_reducible refine Keeps.ite (fun _ => ?_) (fun _ => ?_)
    | with_reducible apply State.deliverLines_keeps

theorem State.setTrig_keeps {tw : Touch} {s0 : State} (s : State) (n : Nat) (h : Int) (f : TrigLine → TrigLine) (hK : Keeps tw s0 s) :
    Keeps tw s0 (State.setTrig s n h f) := by
  unfold State.setTrig
  try dsimp only
  repeat' first
    | with_reducible assumption
    | with_reducible refine Keeps.ite (fun _ => ?_) (fun _ => ?_)
    | with_reducible apply State.setHbCh_keeps

theorem State.markMissing_keeps {tw : Touch} {s0 : State} (s : State) (n : Nat) (h : Int) (cause : Nat) (hK : Keeps tw s0 s) :
    Keeps tw s0 (State.markMissing s n h cause) := by
  unfold State.markMissing
  try dsimp only
  repeat' first
    | with_reducible assumption
    | with_reducible refine Keeps.ite (fun _ => ?_) (fun _ => ?_)
    | with_reducible apply State.setHbCh_keeps
    | with_reducible apply State.setTrig_keeps
    | with_reducible apply State.hbCount_keeps
    | with_reducible apply State.channelAlert_keeps
    | with_reducible apply State.hbFlush_keeps
    | with_reducible refine Keeps.foldl (fun _ _ _ => ?_) ?_
    | with_reducible refine Keeps.foldl_fst (fun _ _ _ => ?_) ?_
    | with_reducible refine Keeps.foldl_snd (fun _ _ _ => ?_) ?_
    | split

theorem State.lineGood_keeps {tw : Touch} {s0 : State} (s : State) (n : Nat) (h : Int) (px : List Nat) (hK : Keeps tw s0 s) :
    Keeps tw s0 (State.lineGood s n h px) := by
  unfold State.lineGood
  try dsimp only
  repeat' first
    | with_reducible assumption
    | with_reducible refine Keeps.ite (fun _ => ?_) (fun _ => ?_)
    | with_reducible apply State.setTrig_keeps
    | with_reducible apply State.setHbCh_keeps
    | with_reducible apply State.hbFlush_keeps
    | with_reducible apply State.hbCount_keeps

theorem State.failBurst_keeps {tw : Touch} {s0 : State} (s : State) (p : Nat) (cause : Nat) (after : BurstState) (hK : Keeps tw s0 s) :
    Keeps tw s0 (State.failBurst s p cause after) := by
  unfold State.failBurst
  try dsimp only
  repeat' first
    | with_reducible assumption
    | with_reducible refine Keeps.ite (fun _ => ?_) (fun _ => ?_)
    | with_reducible apply State.setHbPort_keeps
    | with_reducible apply State.setFill_keeps
    | with_reducible apply State.markMissing_keeps
    | with_reducible refine Keeps.foldl (fun _ _ _ => ?_) ?_
    | with_reducible refine Keeps.foldl_fst (fun _ _ _ => ?_) ?_
    | with_reducible refine Keeps.foldl_snd (fun _ _ _ => ?_) ?_
    | split

theorem State.burstBroken_keeps {tw : Touch} {s0 : State} (s : State) (p : Nat) (hK : Keeps tw s0 s) :
    Keeps tw s0 (State.burstBroken s p) := by
  unfold State.burstBroken
  try dsimp only
  repeat' first
    | with_reducible assumption
    | with_reducible refine Keeps.ite (fun _ => ?_) (fun _ => ?_)
    | with_reducible apply State.failBurst_keeps

theorem State.triggerPort_keeps {tw : Touch} {s0 : State} (s : State) (h : Int) (p : Nat) (hK : Keeps tw s0 s) :
    Keeps tw s0 (State.triggerPort s h p) := by
  unfold State.triggerPort
  try dsimp only
  repeat' first
    | with_reducible assumption
    | with_reducible refine Keeps.ite (fun _ => ?_) (fun _ => ?_)
    | with_reducible apply State.launch_keeps
    | with_reducible apply forAll_keeps
    | with_reducible apply State.wr_keeps
    | with_reducible apply State.setHbCh_keeps
    | with_reducible refine Keeps.foldl (fun _ _ _ => ?_) ?_
    | with_reducible refine Keeps.foldl_fst (fun _ _ _ => ?_) ?_
    | with_reducible refine Keeps.foldl_snd (fun _ _ _ => ?_) ?_
    | split
    | intro _

theorem State.trigger_keeps {tw : Touch} {s0 : State} (s : State) (h : Int) (hK : Keeps tw s0 s) :
    Keeps tw s0 (State.trigger s h) := by
  unfold State.trigger
  try dsimp only
  repeat' first
    | with_reducible assumption
    | with_reducible refine Keeps.ite (fun _ => ?_) (fun _ => ?_)
    | with_reducible apply forN_keeps
    | with_reducible apply State.triggerPort_keeps
    | with_reducible refine Keeps.foldl (fun _ _ _ => ?_) ?_
    | with_reducible refine Keeps.foldl_fst (fun _ _ _ => ?_) ?_
    | with_reducible refine Keeps.foldl_snd (fun _ _ _ => ?_) ?_
    | split
    | intro _
    | fail_if_no_progress (with_reducible apply Keeps.upd)

theorem State.untriggered_keeps {tw : Touch} {s0 : State} (s : State) (h : Int) (hK : Keeps tw s0 s) :
    Keeps tw s0 (State.untriggered s h) := by
  unfold State.untriggered
  try dsimp only
  repeat' first
    | with_reducible assumption
    | with_reducible refine Keeps.ite (fun _ => ?_) (fun _ => ?_)
    | with_reducible apply forN_keeps
    | with_reducible apply forAll_keeps
    | with_reducible apply State.markMissing_keeps
    | with_reducible apply State.setHbCh_keeps
    | with_reducible refine Keeps.foldl (fun _ _ _ => ?_) ?_
    | with_reducible refine Keeps.foldl_fst (fun _ _ _ => ?_) ?_
    | with_reducible refine Keeps.foldl_snd (fun _ _ _ => ?_) ?_
    | split
    | intro _
    | fail_if_no_progress (with_reducible apply Keeps.upd)

theorem State.completeFrame_keeps {tw : Touch} {s0 : State} (s : State) (target : Int) (hK : Keeps tw s0 s) :
    Keeps tw s0 (State.completeFrame s target) := by
  unfold State.completeFrame
  try dsimp only
  repeat' first
    | with_reducible assumption
    | with_reducible refine Keeps.ite (fun _ => ?_) (fun _ => ?_)
    | with_reducible apply forN_keeps
    | with_reducible apply State.untriggered_keeps
    | with_reducible refine Keeps.foldl (fun _ _ _ => ?_) ?_
    | with_reducible refine Keeps.foldl_fst (fun _ _ _ => ?_) ?_
    | with_reducible refine Keeps.foldl_snd (fun _ _ _ => ?_) ?_
    | split
    | intro _

theorem State.discardBurst_keeps {tw : Touch} {s0 : State} (s : State) (p : Nat) (hK : Keeps tw s0 s) :
    Keeps tw s0 (State.discardBurst s p) := by
  unfold State.discardBurst
  try dsimp only
  repeat' first
    | with_reducible assumption
    | with_reducible refine Keeps.ite (fun _ => ?_) (fun _ => ?_)
    | with_reducible apply State.setHbPort_keeps

theorem State.admitLine_keeps {tw : Touch} {s0 : State} (s : State) (p : Nat) (k : Nat) (h : Int) (tag : Nat) (depth : Nat) (hK : Keeps tw s0 s) :
    Keeps tw s0 (State.admitLine s p k h tag depth) := by
  unfold State.admitLine
  try dsimp only
  repeat' first
    | with_reducible assumption
    | with_reducible refine Keeps.ite (fun _ => ?_) (fun _ => ?_)
    | with_reducible apply State.up_keeps
    | with_reducible apply State.channelAlert_keeps
    | with_reducible apply State.markMissing_keeps
    | with_reducible apply State.discardBurst_keeps
    | with_reducible apply State.setFill_keeps
    | with_reducible apply State.setHbPort_keeps

theorem State.lineSeq_keeps {tw : Touch} {s0 : State} (s : State) (p : Nat) (k : Nat) (tag : Nat) (hK : Keeps tw s0 s) :
    Keeps tw s0 (State.lineSeq s p k tag) := by
  unfold State.lineSeq
  try dsimp only
  repeat' first
    | with_reducible assumption
    | with_reducible refine Keeps.ite (fun _ => ?_) (fun _ => ?_)
    | with_reducible apply State.up_keeps
    | with_reducible apply State.count_keeps
    | with_reducible apply State.setSport_keeps
    | with_reducible apply State.setHbCh_keeps
    | with_reducible apply State.wr_keeps

theorem State.lineStart_keeps {tw : Touch} {s0 : State} (s : State) (p : Nat) (k : Nat) (depth : Nat) (tag : Nat) (hK : Keeps tw s0 s) :
    Keeps tw s0 (State.lineStart s p k depth tag) := by
  unfold State.lineStart
  try dsimp only
  repeat' first
    | with_reducible assumption
    | with_reducible refine Keeps.ite (fun _ => ?_) (fun _ => ?_)
    | with_reducible apply State.burstBroken_keeps
    | with_reducible apply State.discardBurst_keeps
    | with_reducible apply State.hbCount_keeps
    | with_reducible apply State.count_keeps
    | with_reducible apply forAll_keeps
    | with_reducible apply State.markMissing_keeps
    | with_reducible apply State.setTrig_keeps
    | with_reducible apply State.admitLine_keeps
    | with_reducible apply State.lineSeq_keeps
    | with_reducible refine Keeps.foldl (fun _ _ _ => ?_) ?_
    | with_reducible refine Keeps.foldl_fst (fun _ _ _ => ?_) ?_
    | with_reducible refine Keeps.foldl_snd (fun _ _ _ => ?_) ?_
    | split
    | intro _

theorem execLineStartRx_keeps {tw : Touch} {s0 : State} (port : Fin 12) (sensor : Fin 4) (depth : Fin 4) (tag : Word) (s : State) (hK : Keeps tw s0 s) :
    KeepsOut tw s0 (execLineStartRx port sensor depth tag s) := by
  unfold execLineStartRx
  try dsimp only
  repeat' first
    | with_reducible assumption
    | with_reducible refine KeepsOut.next ?_
    | with_reducible refine KeepsOut.ite (fun _ => ?_) (fun _ => ?_)
    | with_reducible refine Keeps.ite (fun _ => ?_) (fun _ => ?_)
    | with_reducible apply State.lineStart_keeps

theorem State.lineEnd_keeps {tw : Touch} {s0 : State} (s : State) (p : Nat) (k : Nat) (crc : Nat) (tagByte : Nat) (lane : Nat) (hK : Keeps tw s0 s) :
    Keeps tw s0 (State.lineEnd s p k crc tagByte lane) := by
  unfold State.lineEnd
  try dsimp only
  repeat' first
    | with_reducible assumption
    | with_reducible refine Keeps.ite (fun _ => ?_) (fun _ => ?_)
    | with_reducible apply State.ctrlErr_keeps
    | with_reducible apply State.setHbPort_keeps
    | with_reducible apply State.failBurst_keeps
    | with_reducible apply State.lineGood_keeps
    | with_reducible refine Keeps.foldl (fun _ _ _ => ?_) ?_
    | with_reducible refine Keeps.foldl_fst (fun _ _ _ => ?_) ?_
    | with_reducible refine Keeps.foldl_snd (fun _ _ _ => ?_) ?_
    | split

theorem execLineEndRx_keeps {tw : Touch} {s0 : State} (port : Fin 12) (sensor : Fin 4) (crc : Word) (tagByte : BitVec 8) (s : State) (hK : Keeps tw s0 s) :
    KeepsOut tw s0 (execLineEndRx port sensor crc tagByte s) := by
  unfold execLineEndRx
  try dsimp only
  repeat' first
    | with_reducible assumption
    | with_reducible refine KeepsOut.next ?_
    | with_reducible refine KeepsOut.ite (fun _ => ?_) (fun _ => ?_)
    | with_reducible refine Keeps.ite (fun _ => ?_) (fun _ => ?_)
    | with_reducible apply State.lineEnd_keeps

theorem State.sensorData_keeps {tw : Touch} {s0 : State} (s : State) (p : Nat) (payload : Nat) (lane : Nat) (hK : Keeps tw s0 s) :
    Keeps tw s0 (State.sensorData s p payload lane) := by
  unfold State.sensorData
  try dsimp only
  repeat' first
    | with_reducible assumption
    | with_reducible refine Keeps.ite (fun _ => ?_) (fun _ => ?_)
    | with_reducible apply State.setHbPort_keeps
    | with_reducible apply State.ctrlErr_keeps
    | with_reducible refine Keeps.foldl (fun _ _ _ => ?_) ?_
    | with_reducible refine Keeps.foldl_fst (fun _ _ _ => ?_) ?_
    | with_reducible refine Keeps.foldl_snd (fun _ _ _ => ?_) ?_
    | split

theorem execLineTimeout_keeps {tw : Touch} {s0 : State} (port : Fin 12) (sensor : Fin 4) (tag : Word) (s : State) (hK : Keeps tw s0 s) :
    KeepsOut tw s0 (execLineTimeout port sensor tag s) := by
  unfold execLineTimeout
  try dsimp only
  repeat' first
    | with_reducible assumption
    | with_reducible refine KeepsOut.next ?_
    | with_reducible refine KeepsOut.ite (fun _ => ?_) (fun _ => ?_)
    | with_reducible refine Keeps.ite (fun _ => ?_) (fun _ => ?_)
    | with_reducible apply State.failBurst_keeps
    | with_reducible apply State.markMissing_keeps
    | with_reducible refine Keeps.foldl (fun _ _ _ => ?_) ?_
    | with_reducible refine Keeps.foldl_fst (fun _ _ _ => ?_) ?_
    | with_reducible refine Keeps.foldl_snd (fun _ _ _ => ?_) ?_
    | split

theorem State.frameStart_keeps {tw : Touch} {s0 : State} (s : State) (p : Nat) (k : Nat) (tag : Nat) (lane : Nat) (hK : Keeps tw s0 s) :
    Keeps tw s0 (State.frameStart s p k tag lane) := by
  unfold State.frameStart
  try dsimp only
  repeat' first
    | with_reducible assumption
    | with_reducible refine Keeps.ite (fun _ => ?_) (fun _ => ?_)
    | with_reducible apply State.burstBroken_keeps
    | with_reducible apply State.ctrlErr_keeps
    | with_reducible apply State.hbCount_keeps
    | with_reducible apply State.setHbCh_keeps
    | with_reducible apply State.down_keeps

theorem execFrameStartRx_keeps {tw : Touch} {s0 : State} (port : Fin 12) (sensor : Fin 4) (tag : Word) (s : State) (hK : Keeps tw s0 s) :
    KeepsOut tw s0 (execFrameStartRx port sensor tag s) := by
  unfold execFrameStartRx
  try dsimp only
  repeat' first
    | with_reducible assumption
    | with_reducible refine KeepsOut.next ?_
    | with_reducible refine KeepsOut.ite (fun _ => ?_) (fun _ => ?_)
    | with_reducible refine Keeps.ite (fun _ => ?_) (fun _ => ?_)
    | with_reducible apply State.frameStart_keeps

theorem State.frameEnd_keeps {tw : Touch} {s0 : State} (s : State) (p : Nat) (k : Nat) (lane : Nat) (hK : Keeps tw s0 s) :
    Keeps tw s0 (State.frameEnd s p k lane) := by
  unfold State.frameEnd
  try dsimp only
  repeat' first
    | with_reducible assumption
    | with_reducible refine Keeps.ite (fun _ => ?_) (fun _ => ?_)
    | with_reducible apply State.burstBroken_keeps
    | with_reducible apply State.ctrlErr_keeps
    | with_reducible apply State.hbCount_keeps

theorem execFrameEndRx_keeps {tw : Touch} {s0 : State} (port : Fin 12) (sensor : Fin 4) (_tag : Word) (s : State) (hK : Keeps tw s0 s) :
    KeepsOut tw s0 (execFrameEndRx port sensor _tag s) := by
  unfold execFrameEndRx
  try dsimp only
  repeat' first
    | with_reducible assumption
    | with_reducible refine KeepsOut.next ?_
    | with_reducible refine KeepsOut.ite (fun _ => ?_) (fun _ => ?_)
    | with_reducible refine Keeps.ite (fun _ => ?_) (fun _ => ?_)
    | with_reducible apply State.frameEnd_keeps

theorem execCamCtrlGo_keeps {tw : Touch} {s0 : State} (port : Fin 12) (value : Word) (s : State) (hK : Keeps tw s0 s) :
    KeepsOut tw s0 (execCamCtrlGo port value s) := by
  unfold execCamCtrlGo
  try dsimp only
  repeat' first
    | with_reducible assumption
    | with_reducible refine KeepsOut.next ?_
    | with_reducible refine KeepsOut.ite (fun _ => ?_) (fun _ => ?_)
    | with_reducible refine Keeps.ite (fun _ => ?_) (fun _ => ?_)
    | with_reducible apply State.accessFault_keeps
    | with_reducible apply State.wr_keeps
    | with_reducible apply State.up_keeps
    | with_reducible apply State.emit_keeps

theorem State.camAck_keeps {tw : Touch} {s0 : State} (s : State) (p : Nat) (k : Nat) (ctag : Nat) (result : Nat) (data : Option Nat) (hK : Keeps tw s0 s) :
    Keeps tw s0 (State.camAck s p k ctag result data) := by
  unfold State.camAck
  try dsimp only
  repeat' first
    | with_reducible assumption
    | with_reducible refine Keeps.ite (fun _ => ?_) (fun _ => ?_)
    | with_reducible apply State.down_keeps
    | with_reducible apply State.wr_keeps
    | with_reducible apply State.count_keeps
    | with_reducible refine Keeps.foldl (fun _ _ _ => ?_) ?_
    | with_reducible refine Keeps.foldl_fst (fun _ _ _ => ?_) ?_
    | with_reducible refine Keeps.foldl_snd (fun _ _ _ => ?_) ?_
    | split

theorem execCamAckRx_keeps {tw : Touch} {s0 : State} (port : Fin 12) (sensor : Fin 4) (_write : Bool) (ctag : Fin 32) (result : BitVec 8) (data : Option (Word × Word)) (s : State) (hK : Keeps tw s0 s) :
    KeepsOut tw s0 (execCamAckRx port sensor _write ctag result data s) := by
  unfold execCamAckRx
  try dsimp only
  repeat' first
    | with_reducible assumption
    | with_reducible refine KeepsOut.next ?_
    | with_reducible refine KeepsOut.ite (fun _ => ?_) (fun _ => ?_)
    | with_reducible refine Keeps.ite (fun _ => ?_) (fun _ => ?_)
    | with_reducible apply State.burstBroken_keeps
    | with_reducible apply State.camAck_keeps

theorem execCamCtrlTimeout_keeps {tw : Touch} {s0 : State} (port : Fin 12) (s : State) (hK : Keeps tw s0 s) :
    KeepsOut tw s0 (execCamCtrlTimeout port s) := by
  unfold execCamCtrlTimeout
  try dsimp only
  repeat' first
    | with_reducible assumption
    | with_reducible refine KeepsOut.next ?_
    | with_reducible refine KeepsOut.ite (fun _ => ?_) (fun _ => ?_)
    | with_reducible refine Keeps.ite (fun _ => ?_) (fun _ => ?_)
    | with_reducible apply State.wr_keeps
    | with_reducible apply State.down_keeps

theorem State.camStatus_keeps {tw : Touch} {s0 : State} (s : State) (p : Nat) (k : Nat) (ready : Bool) (alert : Bool) (seq : Nat) (code : Nat) (lane : Nat) (hK : Keeps tw s0 s) :
    Keeps tw s0 (State.camStatus s p k ready alert seq code lane) := by
  unfold State.camStatus
  try dsimp only
  repeat' first
    | with_reducible assumption
    | with_reducible refine State.takeSeq_keeps_eq _ _ _ _ _ (by assumption) ?_
    | with_reducible refine Keeps.ite (fun _ => ?_) (fun _ => ?_)
    | with_reducible apply State.burstBroken_keeps
    | with_reducible apply State.ctrlErr_keeps
    | with_reducible apply State.takeSeq_keeps
    | with_reducible apply State.wr_keeps
    | with_reducible apply State.portAlert_keeps

theorem execCamStatusRx_keeps {tw : Touch} {s0 : State} (port : Fin 12) (sensor : Fin 4) (ready : Bool) (alert : Bool) (seq : BitVec 16) (code : BitVec 16) (s : State) (hK : Keeps tw s0 s) :
    KeepsOut tw s0 (execCamStatusRx port sensor ready alert seq code s) := by
  unfold execCamStatusRx
  try dsimp only
  repeat' first
    | with_reducible assumption
    | with_reducible refine KeepsOut.next ?_
    | with_reducible refine KeepsOut.ite (fun _ => ?_) (fun _ => ?_)
    | with_reducible refine Keeps.ite (fun _ => ?_) (fun _ => ?_)
    | with_reducible apply State.camStatus_keeps

theorem execCamSilent_keeps {tw : Touch} {s0 : State} (port : Fin 12) (sensor : Fin 4) (s : State) (hK : Keeps tw s0 s) :
    KeepsOut tw s0 (execCamSilent port sensor s) := by
  unfold execCamSilent
  try dsimp only
  repeat' first
    | with_reducible assumption
    | with_reducible refine KeepsOut.next ?_
    | with_reducible refine KeepsOut.ite (fun _ => ?_) (fun _ => ?_)
    | with_reducible refine Keeps.ite (fun _ => ?_) (fun _ => ?_)
    | with_reducible apply State.portAlert_keeps
    | with_reducible apply State.up_keeps

theorem State.rateOver_keeps {tw : Touch} {s0 : State} (s : State) (n : Nat) (hK : Keeps tw s0 s) :
    Keeps tw s0 (State.rateOver s n) := by
  unfold State.rateOver
  try dsimp only
  repeat' first
    | with_reducible assumption
    | with_reducible refine Keeps.ite (fun _ => ?_) (fun _ => ?_)
    | with_reducible apply State.channelAlert_keeps
    | with_reducible apply State.up_keeps

theorem execRateMeasure_keeps {tw : Touch} {s0 : State} (port : Fin 12) (s : State) (hK : Keeps tw s0 s) :
    KeepsOut tw s0 (execRateMeasure port s) := by
  unfold execRateMeasure
  try dsimp only
  repeat' first
    | with_reducible assumption
    | with_reducible refine KeepsOut.next ?_
    | with_reducible refine KeepsOut.ite (fun _ => ?_) (fun _ => ?_)
    | with_reducible refine Keeps.ite (fun _ => ?_) (fun _ => ?_)
    | with_reducible apply forAll_keeps
    | with_reducible apply State.rateOver_keeps
    | with_reducible apply State.setHbCh_keeps
    | with_reducible refine Keeps.foldl (fun _ _ _ => ?_) ?_
    | with_reducible refine Keeps.foldl_fst (fun _ _ _ => ?_) ?_
    | with_reducible refine Keeps.foldl_snd (fun _ _ _ => ?_) ?_
    | split
    | intro _

theorem State.sensorBondUp_keeps {tw : Touch} {s0 : State} (s : State) (p : Nat) (hK : Keeps tw s0 s) :
    Keeps tw s0 (State.sensorBondUp s p) := by
  unfold State.sensorBondUp
  try dsimp only
  repeat' first
    | with_reducible assumption
    | with_reducible refine Keeps.ite (fun _ => ?_) (fun _ => ?_)
    | with_reducible apply State.up_keeps
    | with_reducible apply forN_keeps
    | with_reducible apply State.setSport_keeps
    | with_reducible refine Keeps.foldl (fun _ _ _ => ?_) ?_
    | with_reducible refine Keeps.foldl_fst (fun _ _ _ => ?_) ?_
    | with_reducible refine Keeps.foldl_snd (fun _ _ _ => ?_) ?_
    | split
    | intro _

theorem State.sensorBondDown_keeps {tw : Touch} {s0 : State} (s : State) (p : Nat) (hK : Keeps tw s0 s) :
    Keeps tw s0 (State.sensorBondDown s p) := by
  unfold State.sensorBondDown
  try dsimp only
  repeat' first
    | with_reducible assumption
    | with_reducible refine Keeps.ite (fun _ => ?_) (fun _ => ?_)
    | with_reducible apply State.failBurst_keeps
    | with_reducible apply State.setHbPort_keeps
    | with_reducible apply State.down_keeps
    | with_reducible apply State.portAlert_keeps
    | with_reducible apply State.up_keeps

end Sys2Proof.Machine
end

