-- ==== Sys2Proof/Laws/KeepsStats.lean ====
section
/-! SUPPORT. What the operations of Machine/Stats.lean keep of a state (Laws/Keeps.lean). -/

namespace Sys2Proof.Machine

theorem State.setStatsCh_keeps {tw : Touch} {s0 : State} (s : State) (n : Nat) (c : StatsCh) (hK : Keeps tw s0 s) :
    Keeps tw s0 (State.setStatsCh s n c) := by
  unfold State.setStatsCh
  try dsimp only
  repeat' first
    | with_reducible assumption
    | with_reducible refine Keeps.ite (fun _ => ?_) (fun _ => ?_)
    | with_reducible refine Keeps.foldl (fun _ _ _ => ?_) ?_
    | with_reducible refine Keeps.foldl_fst (fun _ _ _ => ?_) ?_
    | with_reducible refine Keeps.foldl_snd (fun _ _ _ => ?_) ?_
    | split
    | intro _
    | fail_if_no_progress (with_reducible apply Keeps.upd)

theorem State.statsLine_keeps {tw : Touch} {s0 : State} (s : State) (n : Nat) (l : CalLine) (hK : Keeps tw s0 s) :
    Keeps tw s0 (State.statsLine s n l) := by
  unfold State.statsLine
  try dsimp only
  repeat' first
    | with_reducible assumption
    | with_reducible refine Keeps.ite (fun _ => ?_) (fun _ => ?_)
    | with_reducible apply State.setStatsCh_keeps
    | with_reducible apply State.down_keeps
    | with_reducible refine Keeps.foldl (fun _ _ _ => ?_) ?_
    | with_reducible refine Keeps.foldl_fst (fun _ _ _ => ?_) ?_
    | with_reducible refine Keeps.foldl_snd (fun _ _ _ => ?_) ?_
    | split
    | intro _
    | fail_if_no_progress (with_reducible apply Keeps.upd)

theorem State.showStats_keeps {tw : Touch} {s0 : State} (s : State) (hK : Keeps tw s0 s) :
    Keeps tw s0 (State.showStats s) := by
  unfold State.showStats
  try dsimp only
  repeat' first
    | with_reducible assumption
    | with_reducible refine Keeps.ite (fun _ => ?_) (fun _ => ?_)
    | with_reducible apply State.wr_keeps

theorem execStatsBlock_keeps {tw : Touch} {s0 : State} (channel : Fin 48) (s : State) (hK : Keeps tw s0 s) :
    KeepsOut tw s0 (execStatsBlock channel s) := by
  unfold execStatsBlock
  try dsimp only
  repeat' first
    | with_reducible assumption
    | with_reducible refine KeepsOut.next ?_
    | with_reducible refine KeepsOut.ite (fun _ => ?_) (fun _ => ?_)
    | with_reducible refine Keeps.ite (fun _ => ?_) (fun _ => ?_)
    | with_reducible apply State.wr_keeps
    | with_reducible apply State.count_keeps
    | with_reducible apply State.up_keeps
    | with_reducible apply State.showStats_keeps
    | with_reducible refine Keeps.foldl (fun _ _ _ => ?_) ?_
    | with_reducible refine Keeps.foldl_fst (fun _ _ _ => ?_) ?_
    | with_reducible refine Keeps.foldl_snd (fun _ _ _ => ?_) ?_
    | split
    | intro _
    | fail_if_no_progress (with_reducible apply Keeps.upd)

theorem execStatsArm_keeps {tw : Touch} {s0 : State} (group : Fin 2) (s : State) (hK : Keeps tw s0 s) :
    KeepsOut tw s0 (execStatsArm group s) := by
  unfold execStatsArm
  try dsimp only
  repeat' first
    | with_reducible assumption
    | with_reducible refine KeepsOut.next ?_
    | with_reducible refine KeepsOut.ite (fun _ => ?_) (fun _ => ?_)
    | with_reducible refine Keeps.ite (fun _ => ?_) (fun _ => ?_)
    | with_reducible apply forAll_keeps
    | with_reducible apply State.up_keeps
    | with_reducible apply State.overrun_keeps
    | with_reducible apply State.count_keeps
    | with_reducible refine Keeps.foldl (fun _ _ _ => ?_) ?_
    | with_reducible refine Keeps.foldl_fst (fun _ _ _ => ?_) ?_
    | with_reducible refine Keeps.foldl_snd (fun _ _ _ => ?_) ?_
    | split
    | intro _

end Sys2Proof.Machine
end

