-- ==== Sys2Proof/Laws/KeepsCalender.lean ====
section
/-! SUPPORT. What the operations of Machine/Calender.lean keep of a state (Laws/Keeps.lean). -/

namespace Sys2Proof.Machine

theorem State.setCalCh_keeps {tw : Touch} {s0 : State} (s : State) (n : Nat) (c : CalCh) (hK : Keeps tw s0 s) :
    Keeps tw s0 (State.setCalCh s n c) := by
  unfold State.setCalCh
  try dsimp only
  repeat' first
    | with_reducible assumption
    | with_reducible refine Keeps.ite (fun _ => ?_) (fun _ => ?_)
    | with_reducible refine Keeps.foldl (fun _ _ _ => ?_) ?_
    | with_reducible refine Keeps.foldl_fst (fun _ _ _ => ?_) ?_
    | with_reducible refine Keeps.foldl_snd (fun _ _ _ => ?_) ?_
    | split
    | intro _
    | fail_if_no_progress (with_reducible apply Keeps.upd)

theorem State.calScalars_keeps {tw : Touch} {s0 : State} (s : State) (n : Nat) (hK : Keeps tw s0 s) :
    Keeps tw s0 (State.calScalars s n) := by
  unfold State.calScalars
  try dsimp only
  repeat' first
    | with_reducible assumption
    | with_reducible refine Keeps.ite (fun _ => ?_) (fun _ => ?_)
    | with_reducible apply State.wr_keeps

theorem State.swapBanks_keeps {tw : Touch} {s0 : State} (s : State) (n : Nat) (hK : Keeps tw s0 s) :
    Keeps tw s0 (State.swapBanks s n) := by
  unfold State.swapBanks
  try dsimp only
  repeat' first
    | with_reducible assumption
    | with_reducible refine Keeps.ite (fun _ => ?_) (fun _ => ?_)
    | with_reducible apply State.resetSpan_keeps
    | with_reducible apply State.setReg_keeps
    | with_reducible refine Keeps.foldl (fun _ _ _ => ?_) ?_
    | with_reducible refine Keeps.foldl_fst (fun _ _ _ => ?_) ?_
    | with_reducible refine Keeps.foldl_snd (fun _ _ _ => ?_) ?_
    | split
    | intro _
    | fail_if_no_progress (with_reducible apply Keeps.upd)

theorem State.calHandover_keeps {tw : Touch} {s0 : State} (s : State) (n : Nat) (hK : Keeps tw s0 s) :
    Keeps tw s0 (State.calHandover s n) := by
  unfold State.calHandover
  try dsimp only
  repeat' first
    | with_reducible assumption
    | with_reducible refine Keeps.ite (fun _ => ?_) (fun _ => ?_)
    | with_reducible apply State.calScalars_keeps
    | with_reducible apply State.down_keeps
    | with_reducible apply State.count_keeps
    | with_reducible apply State.swapBanks_keeps
    | with_reducible apply State.setCalCh_keeps
    | with_reducible apply State.up_keeps

theorem State.calIdleHandover_keeps {tw : Touch} {s0 : State} (s : State) (n : Nat) (hK : Keeps tw s0 s) :
    Keeps tw s0 (State.calIdleHandover s n) := by
  unfold State.calIdleHandover
  try dsimp only
  repeat' first
    | with_reducible assumption
    | with_reducible refine Keeps.ite (fun _ => ?_) (fun _ => ?_)
    | with_reducible apply State.calHandover_keeps

theorem State.calBoundary_keeps {tw : Touch} {s0 : State} (s : State) (n : Nat) (index : Nat) (hK : Keeps tw s0 s) :
    Keeps tw s0 (State.calBoundary s n index) := by
  unfold State.calBoundary
  try dsimp only
  repeat' first
    | with_reducible assumption
    | with_reducible refine Keeps.ite (fun _ => ?_) (fun _ => ?_)
    | with_reducible apply State.up_keeps
    | with_reducible apply State.count_keeps
    | with_reducible apply State.calHandover_keeps

theorem State.calGated_keeps {tw : Touch} {s0 : State} (s : State) (n : Nat) (hK : Keeps tw s0 s) :
    KeepsSome tw s0 (State.calGated s n) := by
  unfold State.calGated
  try dsimp only
  repeat' first
    | with_reducible assumption
    | with_reducible refine KeepsSome.some ?_
    | with_reducible exact KeepsSome.none
    | with_reducible refine KeepsSome.ite (fun _ => ?_) (fun _ => ?_)
    | with_reducible refine Keeps.ite (fun _ => ?_) (fun _ => ?_)
    | with_reducible apply State.accessFault_keeps

theorem State.calGated_keeps_eq {tw : Touch} {s0 : State} {tt : State} (s : State) (n : Nat) (he : State.calGated s n = some tt) (hK : Keeps tw s0 s) :
    Keeps tw s0 tt :=
  (State.calGated_keeps s n hK ).keeps tt he

theorem execCalCommit_keeps {tw : Touch} {s0 : State} (channel : Fin 48) (s : State) (hK : Keeps tw s0 s) :
    KeepsOut tw s0 (execCalCommit channel s) := by
  unfold execCalCommit
  try dsimp only
  repeat' first
    | with_reducible assumption
    | with_reducible refine State.calGated_keeps_eq _ _ (by assumption) ?_
    | with_reducible refine KeepsOut.next ?_
    | with_reducible refine KeepsOut.ite (fun _ => ?_) (fun _ => ?_)
    | with_reducible refine Keeps.ite (fun _ => ?_) (fun _ => ?_)
    | with_reducible apply State.calGated_keeps
    | with_reducible apply State.calIdleHandover_keeps
    | with_reducible apply State.up_keeps
    | with_reducible refine Keeps.foldl (fun _ _ _ => ?_) ?_
    | with_reducible refine Keeps.foldl_fst (fun _ _ _ => ?_) ?_
    | with_reducible refine Keeps.foldl_snd (fun _ _ _ => ?_) ?_
    | split

theorem execCalDiscard_keeps {tw : Touch} {s0 : State} (channel : Fin 48) (s : State) (hK : Keeps tw s0 s) :
    KeepsOut tw s0 (execCalDiscard channel s) := by
  unfold execCalDiscard
  try dsimp only
  repeat' first
    | with_reducible assumption
    | with_reducible refine State.calGated_keeps_eq _ _ (by assumption) ?_
    | with_reducible refine KeepsOut.next ?_
    | with_reducible refine KeepsOut.ite (fun _ => ?_) (fun _ => ?_)
    | with_reducible refine Keeps.ite (fun _ => ?_) (fun _ => ?_)
    | with_reducible apply State.calGated_keeps
    | with_reducible apply State.wr_keeps
    | with_reducible apply State.setCalCh_keeps
    | with_reducible apply State.down_keeps
    | with_reducible apply State.up_keeps
    | with_reducible refine Keeps.foldl (fun _ _ _ => ?_) ?_
    | with_reducible refine Keeps.foldl_fst (fun _ _ _ => ?_) ?_
    | with_reducible refine Keeps.foldl_snd (fun _ _ _ => ?_) ?_
    | split

theorem State.copyBank_keeps {tw : Touch} {s0 : State} (s : State) (n : Nat) (hK : Keeps tw s0 s) :
    Keeps tw s0 (State.copyBank s n) := by
  unfold State.copyBank
  try dsimp only
  repeat' first
    | with_reducible assumption
    | with_reducible refine Keeps.ite (fun _ => ?_) (fun _ => ?_)
    | with_reducible apply State.resetSpan_keeps
    | with_reducible apply State.setReg_keeps
    | with_reducible apply State.setCalCh_keeps
    | with_reducible refine Keeps.foldl (fun _ _ _ => ?_) ?_

theorem execCalBankCopyDone_keeps {tw : Touch} {s0 : State} (channel : Fin 48) (s : State) (hK : Keeps tw s0 s) :
    KeepsOut tw s0 (execCalBankCopyDone channel s) := by
  unfold execCalBankCopyDone
  try dsimp only
  repeat' first
    | with_reducible assumption
    | with_reducible refine KeepsOut.next ?_
    | with_reducible refine KeepsOut.ite (fun _ => ?_) (fun _ => ?_)
    | with_reducible refine Keeps.ite (fun _ => ?_) (fun _ => ?_)
    | with_reducible apply State.calIdleHandover_keeps
    | with_reducible apply State.down_keeps
    | with_reducible apply State.copyBank_keeps

theorem State.coefWrite_keeps {tw : Touch} {s0 : State} (s : State) (n : Nat) (i : Nat) (w : Word) (hK : Keeps tw s0 s) :
    Keeps tw s0 (State.coefWrite s n i w) := by
  unfold State.coefWrite
  try dsimp only
  repeat' first
    | with_reducible assumption
    | with_reducible refine Keeps.ite (fun _ => ?_) (fun _ => ?_)
    | with_reducible apply State.setCalCh_keeps
    | with_reducible apply State.setReg_keeps
    | with_reducible apply State.up_keeps

theorem State.lookWrite_keeps {tw : Touch} {s0 : State} (s : State) (n : Nat) (l : CalLine) (hK : Keeps tw s0 s) (hw_hbm : tw.hbm = true) :
    Keeps tw s0 (State.lookWrite s n l) := by
  unfold State.lookWrite
  try dsimp only
  repeat' first
    | with_reducible assumption
    | with_reducible refine Keeps.ite (fun _ => ?_) (fun _ => ?_)
    | with_reducible apply State.store_keeps
    | with_reducible refine Keeps.foldl (fun _ _ _ => ?_) ?_
    | with_reducible refine Keeps.foldl_fst (fun _ _ _ => ?_) ?_
    | with_reducible refine Keeps.foldl_snd (fun _ _ _ => ?_) ?_
    | split
    | intro _
    | fail_if_no_progress (with_reducible apply Keeps.upd)

theorem State.coefErrors_keeps {tw : Touch} {s0 : State} (s : State) (n : Nat) (hK : Keeps tw s0 s) :
    Keeps tw s0 (State.coefErrors s n) := by
  unfold State.coefErrors
  try dsimp only
  repeat' first
    | with_reducible assumption
    | with_reducible refine Keeps.ite (fun _ => ?_) (fun _ => ?_)
    | with_reducible apply State.count_keeps
    | with_reducible apply State.wr_keeps
    | with_reducible apply State.event_keeps
    | with_reducible apply State.up_keeps

theorem State.calFrameEnd_keeps {tw : Touch} {s0 : State} (s : State) (n : Nat) (frame : Nat) (missing : Nat) (hK : Keeps tw s0 s) :
    Keeps tw s0 (State.calFrameEnd s n frame missing) := by
  unfold State.calFrameEnd
  try dsimp only
  repeat' first
    | with_reducible assumption
    | with_reducible refine Keeps.ite (fun _ => ?_) (fun _ => ?_)
    | with_reducible apply State.count_keeps
    | with_reducible apply State.wr_keeps
    | with_reducible apply State.event_keeps
    | with_reducible apply State.up_keeps

theorem execCalLine_keeps {tw : Touch} {s0 : State} (channel : Fin 48) (upset : List (Fin 16384)) (s : State) (hK : Keeps tw s0 s) (hw_hbm : tw.hbm = true) :
    KeepsOut tw s0 (execCalLine channel upset s) := by
  unfold execCalLine
  try dsimp only
  repeat' first
    | with_reducible assumption
    | with_reducible refine KeepsOut.next ?_
    | with_reducible refine KeepsOut.ite (fun _ => ?_) (fun _ => ?_)
    | with_reducible refine Keeps.ite (fun _ => ?_) (fun _ => ?_)
    | with_reducible apply State.setHbCh_keeps
    | with_reducible apply State.calBoundary_keeps
    | with_reducible apply State.setCalCh_keeps
    | with_reducible apply State.setFill_keeps
    | with_reducible apply State.coefErrors_keeps
    | with_reducible apply State.count_keeps
    | with_reducible apply State.calFrameEnd_keeps
    | with_reducible apply State.statsLine_keeps
    | with_reducible apply State.lookWrite_keeps
    | with_reducible refine Keeps.foldl (fun _ _ _ => ?_) ?_
    | with_reducible refine Keeps.foldl_fst (fun _ _ _ => ?_) ?_
    | with_reducible refine Keeps.foldl_snd (fun _ _ _ => ?_) ?_
    | split

end Sys2Proof.Machine
end

