-- ==== Sys2Proof/Laws/KeepsLayout.lean ====
section
/-! SUPPORT. What the operations of Machine/Layout.lean keep of a state (Laws/Keeps.lean). -/

namespace Sys2Proof.Machine

theorem State.setJob_keeps {tw : Touch} {s0 : State} (s : State) (j : Job) (hK : Keeps tw s0 s) :
    Keeps tw s0 (State.setJob s j) := by
  unfold State.setJob
  try dsimp only
  repeat' first
    | with_reducible assumption
    | with_reducible refine Keeps.ite (fun _ => ?_) (fun _ => ?_)
    | with_reducible refine Keeps.foldl (fun _ _ _ => ?_) ?_
    | with_reducible refine Keeps.foldl_fst (fun _ _ _ => ?_) ?_
    | with_reducible refine Keeps.foldl_snd (fun _ _ _ => ?_) ?_
    | split
    | intro _
    | fail_if_no_progress (with_reducible apply Keeps.upd)

theorem State.dropJob_keeps {tw : Touch} {s0 : State} (s : State) (id : Nat) (hK : Keeps tw s0 s) :
    Keeps tw s0 (State.dropJob s id) := by
  unfold State.dropJob
  try dsimp only
  repeat' first
    | with_reducible assumption
    | with_reducible refine Keeps.ite (fun _ => ?_) (fun _ => ?_)
    | with_reducible refine Keeps.foldl (fun _ _ _ => ?_) ?_
    | with_reducible refine Keeps.foldl_fst (fun _ _ _ => ?_) ?_
    | with_reducible refine Keeps.foldl_snd (fun _ _ _ => ?_) ?_
    | split
    | intro _
    | fail_if_no_progress (with_reducible apply Keeps.upd)

theorem State.showQueue_keeps {tw : Touch} {s0 : State} (s : State) (hK : Keeps tw s0 s) :
    Keeps tw s0 (State.showQueue s) := by
  unfold State.showQueue
  try dsimp only
  repeat' first
    | with_reducible assumption
    | with_reducible refine Keeps.ite (fun _ => ?_) (fun _ => ?_)
    | with_reducible apply State.wr_keeps

theorem State.expect_keeps {tw : Touch} {s0 : State} (s : State) (stripe : Nat) (band : Nat) (hK : Keeps tw s0 s) :
    Keeps tw s0 (State.expect s stripe band) := by
  unfold State.expect
  try dsimp only
  repeat' first
    | with_reducible assumption
    | with_reducible refine Keeps.ite (fun _ => ?_) (fun _ => ?_)
    | with_reducible apply State.wr_keeps

theorem State.showResult_keeps {tw : Touch} {s0 : State} (s : State) (hK : Keeps tw s0 s) :
    Keeps tw s0 (State.showResult s) := by
  unfold State.showResult
  try dsimp only
  repeat' first
    | with_reducible assumption
    | with_reducible refine Keeps.ite (fun _ => ?_) (fun _ => ?_)
    | with_reducible apply State.wr_keeps

theorem State.postResult_keeps {tw : Touch} {s0 : State} (s : State) (j : Job) (code : Nat) (cause : Nat) (ok : Nat) (bad : Nat) (hK : Keeps tw s0 s) :
    Keeps tw s0 (State.postResult s j code cause ok bad) := by
  unfold State.postResult
  try dsimp only
  repeat' first
    | with_reducible assumption
    | with_reducible refine Keeps.ite (fun _ => ?_) (fun _ => ?_)
    | with_reducible apply State.count_keeps
    | with_reducible apply State.showResult_keeps
    | with_reducible apply State.event_keeps
    | with_reducible refine Keeps.foldl (fun _ _ _ => ?_) ?_
    | with_reducible refine Keeps.foldl_fst (fun _ _ _ => ?_) ?_
    | with_reducible refine Keeps.foldl_snd (fun _ _ _ => ?_) ?_
    | split
    | intro _
    | fail_if_no_progress (with_reducible apply Keeps.upd)

theorem State.mouldLook_keeps {tw : Touch} {s0 : State} (s : State) (hK : Keeps tw s0 s) :
    Keeps tw s0 (State.mouldLook s) := by
  unfold State.mouldLook
  try dsimp only
  repeat' first
    | with_reducible assumption
    | with_reducible refine Keeps.ite (fun _ => ?_) (fun _ => ?_)
    | with_reducible apply State.wr_keeps
    | with_reducible apply State.count_keeps
    | with_reducible refine Keeps.foldl (fun _ _ _ => ?_) ?_
    | with_reducible refine Keeps.foldl_fst (fun _ _ _ => ?_) ?_
    | with_reducible refine Keeps.foldl_snd (fun _ _ _ => ?_) ?_
    | split
    | intro _
    | fail_if_no_progress (with_reducible apply Keeps.upd)

theorem State.reapJob_keeps {tw : Touch} {s0 : State} (s : State) (id : Nat) (hK : Keeps tw s0 s) :
    Keeps tw s0 (State.reapJob s id) := by
  unfold State.reapJob
  try dsimp only
  repeat' first
    | with_reducible assumption
    | with_reducible refine Keeps.ite (fun _ => ?_) (fun _ => ?_)
    | with_reducible apply State.dropJob_keeps
    | with_reducible refine Keeps.foldl (fun _ _ _ => ?_) ?_
    | with_reducible refine Keeps.foldl_fst (fun _ _ _ => ?_) ?_
    | with_reducible refine Keeps.foldl_snd (fun _ _ _ => ?_) ?_
    | split

theorem State.jobFail_keeps {tw : Touch} {s0 : State} (s : State) (id : Nat) (cause : Nat) (hK : Keeps tw s0 s) :
    Keeps tw s0 (State.jobFail s id cause) := by
  unfold State.jobFail
  try dsimp only
  repeat' first
    | with_reducible assumption
    | with_reducible refine Keeps.ite (fun _ => ?_) (fun _ => ?_)
    | with_reducible apply State.setJob_keeps
    | with_reducible apply State.count_keeps
    | with_reducible apply State.postResult_keeps
    | with_reducible apply State.wr_keeps
    | with_reducible apply State.dropJob_keeps
    | with_reducible apply State.mouldLook_keeps
    | with_reducible refine Keeps.foldl (fun _ _ _ => ?_) ?_
    | with_reducible refine Keeps.foldl_fst (fun _ _ _ => ?_) ?_
    | with_reducible refine Keeps.foldl_snd (fun _ _ _ => ?_) ?_
    | split
    | intro _
    | fail_if_no_progress (with_reducible apply Keeps.upd)

theorem State.bandReported_keeps {tw : Touch} {s0 : State} (s : State) (id : Nat) (released : Bool) (hK : Keeps tw s0 s) :
    Keeps tw s0 (State.bandReported s id released) := by
  unfold State.bandReported
  try dsimp only
  repeat' first
    | with_reducible assumption
    | with_reducible refine Keeps.ite (fun _ => ?_) (fun _ => ?_)
    | with_reducible apply State.setJob_keeps
    | with_reducible apply State.postResult_keeps
    | with_reducible apply State.reapJob_keeps
    | with_reducible refine Keeps.foldl (fun _ _ _ => ?_) ?_
    | with_reducible refine Keeps.foldl_fst (fun _ _ _ => ?_) ?_
    | with_reducible refine Keeps.foldl_snd (fun _ _ _ => ?_) ?_
    | split

theorem State.placeJob_keeps {tw : Touch} {s0 : State} (s : State) (j : Job) (hK : Keeps tw s0 s) :
    Keeps tw s0 (State.placeJob s j) := by
  unfold State.placeJob
  try dsimp only
  repeat' first
    | with_reducible assumption
    | with_reducible refine Keeps.ite (fun _ => ?_) (fun _ => ?_)
    | with_reducible apply State.expect_keeps
    | with_reducible refine Keeps.foldl (fun _ _ _ => ?_) ?_
    | with_reducible refine Keeps.foldl_fst (fun _ _ _ => ?_) ?_
    | with_reducible refine Keeps.foldl_snd (fun _ _ _ => ?_) ?_
    | split
    | intro _
    | fail_if_no_progress (with_reducible apply Keeps.upd)

theorem State.jobReadFailed_keeps {tw : Touch} {s0 : State} (s : State) (j : Job) (off : Nat) (len : Nat) (hK : Keeps tw s0 s) :
    Keeps tw s0 (State.jobReadFailed s j off len) := by
  unfold State.jobReadFailed
  try dsimp only
  repeat' first
    | with_reducible assumption
    | with_reducible refine Keeps.ite (fun _ => ?_) (fun _ => ?_)
    | with_reducible apply State.readFailed_keeps

theorem execLayoutSubmit_keeps {tw : Touch} {s0 : State} (tag : Word) (s : State) (hK : Keeps tw s0 s) :
    KeepsOut tw s0 (execLayoutSubmit tag s) := by
  unfold execLayoutSubmit
  try dsimp only
  repeat' first
    | with_reducible assumption
    | with_reducible refine KeepsOut.next ?_
    | with_reducible refine KeepsOut.ite (fun _ => ?_) (fun _ => ?_)
    | with_reducible refine Keeps.ite (fun _ => ?_) (fun _ => ?_)
    | with_reducible apply State.count_keeps
    | with_reducible apply State.postResult_keeps
    | with_reducible apply State.up_keeps
    | with_reducible apply State.showQueue_keeps
    | with_reducible refine Keeps.foldl (fun _ _ _ => ?_) ?_
    | with_reducible refine Keeps.foldl_fst (fun _ _ _ => ?_) ?_
    | with_reducible refine Keeps.foldl_snd (fun _ _ _ => ?_) ?_
    | split
    | intro _
    | fail_if_no_progress (with_reducible apply Keeps.upd)

theorem State.setLstream_keeps {tw : Touch} {s0 : State} (s : State) (j : Nat) (v : LayoutStream) (hK : Keeps tw s0 s) :
    Keeps tw s0 (State.setLstream s j v) := by
  unfold State.setLstream
  try dsimp only
  repeat' first
    | with_reducible assumption
    | with_reducible refine Keeps.ite (fun _ => ?_) (fun _ => ?_)
    | with_reducible refine Keeps.foldl (fun _ _ _ => ?_) ?_
    | with_reducible refine Keeps.foldl_fst (fun _ _ _ => ?_) ?_
    | with_reducible refine Keeps.foldl_snd (fun _ _ _ => ?_) ?_
    | split
    | intro _
    | fail_if_no_progress (with_reducible apply Keeps.upd)

theorem State.streamFail_keeps {tw : Touch} {s0 : State} (s : State) (j : Nat) (cause : Nat) (hK : Keeps tw s0 s) :
    Keeps tw s0 (State.streamFail s j cause) := by
  unfold State.streamFail
  try dsimp only
  repeat' first
    | with_reducible assumption
    | with_reducible refine Keeps.ite (fun _ => ?_) (fun _ => ?_)
    | with_reducible apply State.setLstream_keeps
    | with_reducible apply State.jobFail_keeps
    | with_reducible apply State.count_keeps
    | with_reducible apply State.postResult_keeps
    | with_reducible refine Keeps.foldl (fun _ _ _ => ?_) ?_
    | with_reducible refine Keeps.foldl_fst (fun _ _ _ => ?_) ?_
    | with_reducible refine Keeps.foldl_snd (fun _ _ _ => ?_) ?_
    | split

theorem State.streamHeader_keeps {tw : Touch} {s0 : State} (s : State) (j : Nat) (hK : Keeps tw s0 s) :
    Keeps tw s0 (State.streamHeader s j) := by
  unfold State.streamHeader
  try dsimp only
  repeat' first
    | with_reducible assumption
    | with_reducible refine Keeps.ite (fun _ => ?_) (fun _ => ?_)
    | with_reducible apply State.setLstream_keeps
    | with_reducible apply State.count_keeps
    | with_reducible apply State.postResult_keeps
    | with_reducible apply State.mouldLook_keeps
    | with_reducible apply State.placeJob_keeps
    | with_reducible refine Keeps.foldl (fun _ _ _ => ?_) ?_
    | with_reducible refine Keeps.foldl_fst (fun _ _ _ => ?_) ?_
    | with_reducible refine Keeps.foldl_snd (fun _ _ _ => ?_) ?_
    | split
    | intro _
    | fail_if_no_progress (with_reducible apply Keeps.upd)

theorem State.enqueueStaged_keeps {tw : Touch} {s0 : State} (s : State) (hK : Keeps tw s0 s) :
    Keeps tw s0 (State.enqueueStaged s) := by
  unfold State.enqueueStaged
  try dsimp only
  repeat' first
    | with_reducible assumption
    | with_reducible refine Keeps.ite (fun _ => ?_) (fun _ => ?_)
    | with_reducible apply State.count_keeps
    | with_reducible apply State.showQueue_keeps
    | with_reducible refine Keeps.foldl (fun _ _ _ => ?_) ?_
    | with_reducible refine Keeps.foldl_fst (fun _ _ _ => ?_) ?_
    | with_reducible refine Keeps.foldl_snd (fun _ _ _ => ?_) ?_
    | split
    | intro _
    | fail_if_no_progress (with_reducible apply Keeps.upd)

theorem State.streamData_keeps {tw : Touch} {s0 : State} (s : State) (j : Nat) (start : Bool) (end_ : Bool) (d : Bytes) (hK : Keeps tw s0 s) :
    Keeps tw s0 (State.streamData s j start end_ d) := by
  unfold State.streamData
  try dsimp only
  repeat' first
    | with_reducible assumption
    | with_reducible refine Keeps.ite (fun _ => ?_) (fun _ => ?_)
    | with_reducible apply State.streamFail_keeps
    | with_reducible apply State.setLstream_keeps
    | with_reducible apply State.streamHeader_keeps
    | with_reducible apply State.setJob_keeps
    | with_reducible apply State.enqueueStaged_keeps
    | with_reducible refine Keeps.foldl (fun _ _ _ => ?_) ?_
    | with_reducible refine Keeps.foldl_fst (fun _ _ _ => ?_) ?_
    | with_reducible refine Keeps.foldl_snd (fun _ _ _ => ?_) ?_
    | split
    | intro _
    | fail_if_no_progress (with_reducible apply Keeps.upd)

theorem State.layoutDatagram_keeps {tw : Touch} {s0 : State} (s : State) (bs : Bytes) (hK : Keeps tw s0 s) :
    Keeps tw s0 (State.layoutDatagram s bs) := by
  unfold State.layoutDatagram
  try dsimp only
  repeat' first
    | with_reducible assumption
    | with_reducible refine State.takeSeq_keeps_eq _ _ _ _ _ (by assumption) ?_
    | with_reducible refine Keeps.ite (fun _ => ?_) (fun _ => ?_)
    | with_reducible apply State.count_keeps
    | with_reducible apply State.wr_keeps
    | with_reducible apply State.takeSeq_keeps
    | with_reducible apply State.streamFail_keeps
    | with_reducible apply State.streamData_keeps

theorem State.layoutGrant_keeps {tw : Touch} {s0 : State} (s : State) (j : Nat) (hK : Keeps tw s0 s) :
    Keeps tw s0 (State.layoutGrant s j) := by
  unfold State.layoutGrant
  try dsimp only
  repeat' first
    | with_reducible assumption
    | with_reducible refine Keeps.ite (fun _ => ?_) (fun _ => ?_)
    | with_reducible apply State.grant_keeps
    | with_reducible apply State.wr_keeps

theorem execLayoutStagedEnqueue_keeps {tw : Touch} {s0 : State} (s : State) (hK : Keeps tw s0 s) :
    KeepsOut tw s0 (execLayoutStagedEnqueue s) := by
  unfold execLayoutStagedEnqueue
  try dsimp only
  repeat' first
    | with_reducible assumption
    | with_reducible refine KeepsOut.next ?_
    | with_reducible refine KeepsOut.ite (fun _ => ?_) (fun _ => ?_)
    | with_reducible refine Keeps.ite (fun _ => ?_) (fun _ => ?_)
    | with_reducible apply State.enqueueStaged_keeps

theorem State.keyOpened_keeps {tw : Touch} {s0 : State} (s : State) (j : Job) (x2 : Option Nat) (hK : Keeps tw s0 s) :
    Keeps tw s0 (State.keyOpened s j x2) := by
  unfold State.keyOpened
  try dsimp only
  repeat' first
    | with_reducible assumption
    | with_reducible refine Keeps.ite (fun _ => ?_) (fun _ => ?_)
    | with_reducible apply State.jobFail_keeps
    | with_reducible apply State.setJob_keeps
    | with_reducible apply State.wr_keeps
    | with_reducible apply State.count_keeps
    | with_reducible refine Keeps.foldl (fun _ _ _ => ?_) ?_
    | with_reducible refine Keeps.foldl_fst (fun _ _ _ => ?_) ?_
    | with_reducible refine Keeps.foldl_snd (fun _ _ _ => ?_) ?_
    | split

theorem State.keyChecks_keeps {tw : Touch} {s0 : State} (s : State) (j : Job) (h : Bytes) (hK : Keeps tw s0 s) :
    Keeps tw s0 (State.keyChecks s j h) := by
  unfold State.keyChecks
  try dsimp only
  repeat' first
    | with_reducible assumption
    | with_reducible refine Keeps.ite (fun _ => ?_) (fun _ => ?_)
    | with_reducible apply State.wr_keeps
    | with_reducible apply State.jobFail_keeps
    | with_reducible apply State.keyOpened_keeps
    | with_reducible refine Keeps.foldl (fun _ _ _ => ?_) ?_
    | with_reducible refine Keeps.foldl_fst (fun _ _ _ => ?_) ?_
    | with_reducible refine Keeps.foldl_snd (fun _ _ _ => ?_) ?_
    | split

theorem execLayoutJobStart_keeps {tw : Touch} {s0 : State} (s : State) (hK : Keeps tw s0 s) :
    KeepsOut tw s0 (execLayoutJobStart s) := by
  unfold execLayoutJobStart
  try dsimp only
  repeat' first
    | with_reducible assumption
    | with_reducible refine KeepsOut.next ?_
    | with_reducible refine KeepsOut.ite (fun _ => ?_) (fun _ => ?_)
    | with_reducible refine Keeps.ite (fun _ => ?_) (fun _ => ?_)
    | with_reducible apply State.wr_keeps
    | with_reducible apply State.showQueue_keeps
    | with_reducible apply State.mouldLook_keeps
    | with_reducible apply State.keyChecks_keeps
    | with_reducible apply State.jobFail_keeps
    | with_reducible apply State.jobReadFailed_keeps
    | with_reducible apply State.setJob_keeps
    | with_reducible apply State.placeJob_keeps
    | with_reducible refine Keeps.foldl (fun _ _ _ => ?_) ?_
    | with_reducible refine Keeps.foldl_fst (fun _ _ _ => ?_) ?_
    | with_reducible refine Keeps.foldl_snd (fun _ _ _ => ?_) ?_
    | split
    | intro _
    | fail_if_no_progress (with_reducible apply Keeps.upd)

theorem execLayoutDecryptStart_keeps {tw : Touch} {s0 : State} (s : State) (hK : Keeps tw s0 s) :
    KeepsOut tw s0 (execLayoutDecryptStart s) := by
  unfold execLayoutDecryptStart
  try dsimp only
  repeat' first
    | with_reducible assumption
    | with_reducible refine KeepsOut.next ?_
    | with_reducible refine KeepsOut.ite (fun _ => ?_) (fun _ => ?_)
    | with_reducible refine Keeps.ite (fun _ => ?_) (fun _ => ?_)
    | with_reducible apply State.wr_keeps
    | with_reducible apply State.setJob_keeps
    | with_reducible refine Keeps.foldl (fun _ _ _ => ?_) ?_
    | with_reducible refine Keeps.foldl_fst (fun _ _ _ => ?_) ?_
    | with_reducible refine Keeps.foldl_snd (fun _ _ _ => ?_) ?_
    | split

theorem execLayoutJobVerified_keeps {tw : Touch} {s0 : State} (s : State) (hK : Keeps tw s0 s) :
    KeepsOut tw s0 (execLayoutJobVerified s) := by
  unfold execLayoutJobVerified
  try dsimp only
  repeat' first
    | with_reducible assumption
    | with_reducible refine KeepsOut.next ?_
    | with_reducible refine KeepsOut.ite (fun _ => ?_) (fun _ => ?_)
    | with_reducible refine Keeps.ite (fun _ => ?_) (fun _ => ?_)
    | with_reducible apply State.jobFail_keeps
    | with_reducible apply State.jobReadFailed_keeps
    | with_reducible apply State.setJob_keeps
    | with_reducible apply State.wr_keeps
    | with_reducible apply State.mouldLook_keeps
    | with_reducible refine Keeps.foldl (fun _ _ _ => ?_) ?_
    | with_reducible refine Keeps.foldl_fst (fun _ _ _ => ?_) ?_
    | with_reducible refine Keeps.foldl_snd (fun _ _ _ => ?_) ?_
    | split
    | intro _
    | fail_if_no_progress (with_reducible apply Keeps.upd)

theorem execLayoutResultPop_keeps {tw : Touch} {s0 : State} (s : State) (hK : Keeps tw s0 s) :
    KeepsOut tw s0 (execLayoutResultPop s) := by
  unfold execLayoutResultPop
  try dsimp only
  repeat' first
    | with_reducible assumption
    | with_reducible refine KeepsOut.next ?_
    | with_reducible refine KeepsOut.ite (fun _ => ?_) (fun _ => ?_)
    | with_reducible refine Keeps.ite (fun _ => ?_) (fun _ => ?_)
    | with_reducible apply State.showResult_keeps
    | with_reducible refine Keeps.foldl (fun _ _ _ => ?_) ?_
    | with_reducible refine Keeps.foldl_fst (fun _ _ _ => ?_) ?_
    | with_reducible refine Keeps.foldl_snd (fun _ _ _ => ?_) ?_
    | split
    | intro _
    | fail_if_no_progress (with_reducible apply Keeps.upd)

theorem State.stripeReset_keeps {tw : Touch} {s0 : State} (s : State) (hK : Keeps tw s0 s) :
    Keeps tw s0 (State.stripeReset s) := by
  unfold State.stripeReset
  try dsimp only
  repeat' first
    | with_reducible assumption
    | with_reducible refine Keeps.ite (fun _ => ?_) (fun _ => ?_)
    | with_reducible apply State.wr_keeps
    | with_reducible refine Keeps.foldl (fun _ _ _ => ?_) ?_
    | with_reducible refine Keeps.foldl_fst (fun _ _ _ => ?_) ?_
    | with_reducible refine Keeps.foldl_snd (fun _ _ _ => ?_) ?_
    | split
    | intro _
    | fail_if_no_progress (with_reducible apply Keeps.upd)

theorem execStripeReset_keeps {tw : Touch} {s0 : State} (s : State) (hK : Keeps tw s0 s) :
    KeepsOut tw s0 (execStripeReset s) := by
  unfold execStripeReset
  try dsimp only
  repeat' first
    | with_reducible assumption
    | with_reducible refine KeepsOut.next ?_
    | with_reducible refine KeepsOut.ite (fun _ => ?_) (fun _ => ?_)
    | with_reducible refine Keeps.ite (fun _ => ?_) (fun _ => ?_)
    | with_reducible apply State.stripeReset_keeps

theorem State.layoutStop_keeps {tw : Touch} {s0 : State} (s : State) (hK : Keeps tw s0 s) :
    Keeps tw s0 (State.layoutStop s) := by
  unfold State.layoutStop
  try dsimp only
  repeat' first
    | with_reducible assumption
    | with_reducible refine Keeps.ite (fun _ => ?_) (fun _ => ?_)
    | with_reducible apply forAll_keeps
    | with_reducible apply State.jobFail_keeps
    | with_reducible apply State.wr_keeps
    | with_reducible apply State.showQueue_keeps
    | with_reducible refine Keeps.foldl (fun _ _ _ => ?_) ?_
    | with_reducible refine Keeps.foldl_fst (fun _ _ _ => ?_) ?_
    | with_reducible refine Keeps.foldl_snd (fun _ _ _ => ?_) ?_
    | split
    | intro _
    | fail_if_no_progress (with_reducible apply Keeps.upd)

theorem State.copyLayoutKeys_keeps {tw : Touch} {s0 : State} (s : State) (hK : Keeps tw s0 s) :
    Keeps tw s0 (State.copyLayoutKeys s) := by
  unfold State.copyLayoutKeys
  try dsimp only
  repeat' first
    | with_reducible assumption
    | with_reducible refine Keeps.ite (fun _ => ?_) (fun _ => ?_)
    | with_reducible apply State.wr_keeps
    | with_reducible refine Keeps.foldl (fun _ _ _ => ?_) ?_
    | with_reducible refine Keeps.foldl_fst (fun _ _ _ => ?_) ?_
    | with_reducible refine Keeps.foldl_snd (fun _ _ _ => ?_) ?_
    | split
    | intro _
    | fail_if_no_progress (with_reducible apply Keeps.upd)

end Sys2Proof.Machine
end

