-- ==== Sys2Proof/Laws/KeepsIslands.lean ====
section
/-! SUPPORT. What the operations of Machine/Islands.lean keep of a state (Laws/Keeps.lean). -/

namespace Sys2Proof.Machine

theorem State.showIsl_keeps {tw : Touch} {s0 : State} (s : State) (hK : Keeps tw s0 s) :
    Keeps tw s0 (State.showIsl s) := by
  unfold State.showIsl
  try dsimp only
  repeat' first
    | with_reducible assumption
    | with_reducible refine Keeps.ite (fun _ => ?_) (fun _ => ?_)
    | with_reducible apply State.setReg_keeps
    | with_reducible apply State.wr_keeps

theorem State.setIsl_keeps {tw : Touch} {s0 : State} (s : State) (i : Nat) (v : Isl) (hK : Keeps tw s0 s) :
    Keeps tw s0 (State.setIsl s i v) := by
  unfold State.setIsl
  try dsimp only
  repeat' first
    | with_reducible assumption
    | with_reducible refine Keeps.ite (fun _ => ?_) (fun _ => ?_)
    | with_reducible apply State.showIsl_keeps
    | with_reducible refine Keeps.foldl (fun _ _ _ => ?_) ?_
    | with_reducible refine Keeps.foldl_fst (fun _ _ _ => ?_) ?_
    | with_reducible refine Keeps.foldl_snd (fun _ _ _ => ?_) ?_
    | split
    | intro _
    | fail_if_no_progress (with_reducible apply Keeps.upd)

theorem State.gate_keeps {tw : Touch} {s0 : State} (s : State) (i : Nat) (hK : Keeps tw s0 s) :
    Keeps tw s0 (State.gate s i) := by
  unfold State.gate
  try dsimp only
  repeat' first
    | with_reducible assumption
    | with_reducible refine Keeps.ite (fun _ => ?_) (fun _ => ?_)
    | with_reducible apply State.showIsl_keeps
    | with_reducible refine Keeps.foldl (fun _ _ _ => ?_) ?_
    | with_reducible refine Keeps.foldl_fst (fun _ _ _ => ?_) ?_
    | with_reducible refine Keeps.foldl_snd (fun _ _ _ => ?_) ?_
    | split
    | intro _
    | fail_if_no_progress (with_reducible apply Keeps.upd)

theorem State.ungate_keeps {tw : Touch} {s0 : State} (s : State) (i : Nat) (hK : Keeps tw s0 s) :
    Keeps tw s0 (State.ungate s i) := by
  unfold State.ungate
  try dsimp only
  repeat' first
    | with_reducible assumption
    | with_reducible refine Keeps.ite (fun _ => ?_) (fun _ => ?_)
    | with_reducible apply State.showIsl_keeps
    | with_reducible refine Keeps.foldl (fun _ _ _ => ?_) ?_
    | with_reducible refine Keeps.foldl_fst (fun _ _ _ => ?_) ?_
    | with_reducible refine Keeps.foldl_snd (fun _ _ _ => ?_) ?_
    | split
    | intro _
    | fail_if_no_progress (with_reducible apply Keeps.upd)

theorem State.isolate_keeps {tw : Touch} {s0 : State} (s : State) (i : Nat) (on : Bool) (hK : Keeps tw s0 s) :
    Keeps tw s0 (State.isolate s i on) := by
  unfold State.isolate
  try dsimp only
  repeat' first
    | with_reducible assumption
    | with_reducible refine Keeps.ite (fun _ => ?_) (fun _ => ?_)
    | with_reducible apply State.setIsl_keeps

end Sys2Proof.Machine
end

