-- ==== Sys2Proof/Laws/KeepsLabeller.lean ====
section
/-! SUPPORT. What the operations of Machine/Labeller.lean keep of a state (Laws/Keeps.lean). -/

namespace Sys2Proof.Machine

theorem State.setRidge_keeps {tw : Touch} {s0 : State} (s : State) (k : Nat) (r : Ridge) (hK : Keeps tw s0 s) :
    Keeps tw s0 (State.setRidge s k r) := by
  unfold State.setRidge
  try dsimp only
  repeat' first
    | with_reducible assumption
    | with_reducible refine Keeps.ite (fun _ => ?_) (fun _ => ?_)
    | with_reducible refine Keeps.foldl (fun _ _ _ => ?_) ?_
    | with_reducible refine Keeps.foldl_fst (fun _ _ _ => ?_) ?_
    | with_reducible refine Keeps.foldl_snd (fun _ _ _ => ?_) ?_
    | split
    | intro _
    | fail_if_no_progress (with_reducible apply Keeps.upd)

theorem State.setCtx_keeps {tw : Touch} {s0 : State} (s : State) (k : Nat) (c : Nat) (x : RidgeCtx) (hK : Keeps tw s0 s) :
    Keeps tw s0 (State.setCtx s k c x) := by
  unfold State.setCtx
  try dsimp only
  repeat' first
    | with_reducible assumption
    | with_reducible refine Keeps.ite (fun _ => ?_) (fun _ => ?_)
    | with_reducible apply State.setRidge_keeps

theorem State.nodeCount_keeps {tw : Touch} {s0 : State} (s : State) (k : Nat) (i : Nat) (c : Nat) (n : Nat) (hK : Keeps tw s0 s) :
    Keeps tw s0 (State.nodeCount s k i c n) := by
  unfold State.nodeCount
  try dsimp only
  repeat' first
    | with_reducible assumption
    | with_reducible refine Keeps.ite (fun _ => ?_) (fun _ => ?_)
    | with_reducible apply State.count_keeps

theorem State.labelStep_keeps {tw : Touch} {s0 : State} (s : State) (k : Nat) (i : Nat) (c : Nat) (y : Option Int) (row : List Nat) (hK : Keeps tw s0 s) :
    Keeps tw s0 (State.labelStep s k i c y row).1 := by
  unfold State.labelStep
  try dsimp only
  repeat' first
    | with_reducible assumption
    | with_reducible refine Keeps.ite (fun _ => ?_) (fun _ => ?_)
    | with_reducible apply State.setRidge_keeps
    | with_reducible apply State.setCtx_keeps
    | with_reducible apply State.nodeCount_keeps
    | with_reducible apply State.peak_keeps
    | with_reducible apply State.wr_keeps
    | with_reducible apply State.up_keeps

theorem State.labelStep_keeps_eq {tw : Touch} {s0 : State} {tt : State} {res1 : List BlobEvent} (s : State) (k : Nat) (i : Nat) (c : Nat) (y : Option Int) (row : List Nat) (he : State.labelStep s k i c y row = (tt, res1)) (hK : Keeps tw s0 s) :
    Keeps tw s0 tt := by
  have := State.labelStep_keeps s k i c y row hK 
  rw [he] at this
  exact this

theorem State.ridgeEvent_keeps {tw : Touch} {s0 : State} (s : State) (k : Nat) (f : Fld) (gen : Nat) (hK : Keeps tw s0 s) :
    Keeps tw s0 (State.ridgeEvent s k f gen) := by
  unfold State.ridgeEvent
  try dsimp only
  repeat' first
    | with_reducible assumption
    | with_reducible refine Keeps.ite (fun _ => ?_) (fun _ => ?_)
    | with_reducible apply State.up_keeps
    | with_reducible apply State.event_keeps

theorem State.showItems_keeps {tw : Touch} {s0 : State} (s : State) (k : Nat) (i : Nat) (hK : Keeps tw s0 s) :
    Keeps tw s0 (State.showItems s k i) := by
  unfold State.showItems
  try dsimp only
  repeat' first
    | with_reducible assumption
    | with_reducible refine Keeps.ite (fun _ => ?_) (fun _ => ?_)
    | with_reducible apply State.peak_keeps
    | with_reducible apply State.wr_keeps

theorem State.sendOut_keeps {tw : Touch} {s0 : State} (s : State) (k : Nat) (feature : Nat) (x3 : Nat) (hK : Keeps tw s0 s) :
    Keeps tw s0 (State.sendOut s k feature x3) := by
  induction x3 generalizing s k feature with
  | zero =>
    unfold State.sendOut
    try dsimp only
    repeat' first
      | with_reducible assumption
  | succ n ih =>
    unfold State.sendOut
    try dsimp only
    repeat' first
      | with_reducible assumption
      | with_reducible apply ih
      | with_reducible refine Keeps.ite (fun _ => ?_) (fun _ => ?_)
      | with_reducible apply State.setRidge_keeps
      | with_reducible apply State.nodeCount_keeps
      | with_reducible apply State.wr_keeps
      | with_reducible apply State.ridgeEvent_keeps
      | with_reducible refine Keeps.foldl (fun _ _ _ => ?_) ?_
      | with_reducible refine Keeps.foldl_fst (fun _ _ _ => ?_) ?_
      | with_reducible refine Keeps.foldl_snd (fun _ _ _ => ?_) ?_
      | split

theorem State.drainFifo_keeps {tw : Touch} {s0 : State} (s : State) (k : Nat) (feature : Nat) (hK : Keeps tw s0 s) :
    Keeps tw s0 (State.drainFifo s k feature) := by
  unfold State.drainFifo
  try dsimp only
  repeat' first
    | with_reducible assumption
    | with_reducible refine Keeps.ite (fun _ => ?_) (fun _ => ?_)
    | with_reducible apply State.showItems_keeps
    | with_reducible apply State.sendOut_keeps

theorem State.pushItem_keeps {tw : Touch} {s0 : State} (s : State) (k : Nat) (feature : Nat) (it : Item) (hK : Keeps tw s0 s) :
    Keeps tw s0 (State.pushItem s k feature it) := by
  unfold State.pushItem
  try dsimp only
  repeat' first
    | with_reducible assumption
    | with_reducible refine Keeps.ite (fun _ => ?_) (fun _ => ?_)
    | with_reducible apply State.drainFifo_keeps
    | with_reducible apply State.setRidge_keeps
    | with_reducible apply State.setCtx_keeps
    | with_reducible apply State.up_keeps
    | with_reducible apply State.nodeCount_keeps

theorem State.pushOverflow_keeps {tw : Touch} {s0 : State} (s : State) (k : Nat) (feature : Nat) (plane : Nat) (c : Nat) (hK : Keeps tw s0 s) :
    Keeps tw s0 (State.pushOverflow s k feature plane c) := by
  unfold State.pushOverflow
  try dsimp only
  repeat' first
    | with_reducible assumption
    | with_reducible refine Keeps.ite (fun _ => ?_) (fun _ => ?_)
    | with_reducible apply State.setRidge_keeps
    | with_reducible apply State.setCtx_keeps
    | with_reducible apply State.drainFifo_keeps

theorem State.pushMarker_keeps {tw : Touch} {s0 : State} (s : State) (k : Nat) (feature : Nat) (m : Marker) (hK : Keeps tw s0 s) :
    Keeps tw s0 (State.pushMarker s k feature m) := by
  unfold State.pushMarker
  try dsimp only
  repeat' first
    | with_reducible assumption
    | with_reducible refine Keeps.ite (fun _ => ?_) (fun _ => ?_)
    | with_reducible apply State.drainFifo_keeps
    | with_reducible apply State.setRidge_keeps

theorem State.setSums_keeps {tw : Touch} {s0 : State} (s : State) (k : Nat) (c : Nat) (seq : Nat) (f : Sums → Sums) (hK : Keeps tw s0 s) :
    Keeps tw s0 (State.setSums s k c seq f) := by
  unfold State.setSums
  try dsimp only
  repeat' first
    | with_reducible assumption
    | with_reducible refine Keeps.ite (fun _ => ?_) (fun _ => ?_)
    | with_reducible apply State.setRidge_keeps

theorem State.takeSums_keeps {tw : Touch} {s0 : State} (s : State) (k : Nat) (c : Nat) (seq : Nat) (hK : Keeps tw s0 s) :
    Keeps tw s0 (State.takeSums s k c seq).2 := by
  unfold State.takeSums
  try dsimp only
  repeat' first
    | with_reducible assumption
    | with_reducible refine Keeps.ite (fun _ => ?_) (fun _ => ?_)
    | with_reducible apply State.setRidge_keeps

theorem State.takeSums_keeps_eq {tw : Touch} {s0 : State} {tt : State} {res1 : Option Sums} (s : State) (k : Nat) (c : Nat) (seq : Nat) (he : State.takeSums s k c seq = (res1, tt)) (hK : Keeps tw s0 s) :
    Keeps tw s0 tt := by
  have := State.takeSums_keeps s k c seq hK 
  rw [he] at this
  exact this

theorem State.featureEvent_keeps {tw : Touch} {s0 : State} (s : State) (k : Nat) (feature : Nat) (plane : Nat) (c : Nat) (y : Int) (cls : List Nat) (hasB : Bool) (grey : List Int) (e : BlobEvent) (hK : Keeps tw s0 s) :
    Keeps tw s0 (State.featureEvent s k feature plane c y cls hasB grey e) := by
  unfold State.featureEvent
  try dsimp only
  repeat' first
    | with_reducible assumption
    | with_reducible refine State.takeSums_keeps_eq _ _ _ _ (by assumption) ?_
    | with_reducible refine Keeps.ite (fun _ => ?_) (fun _ => ?_)
    | with_reducible apply State.setRidge_keeps
    | with_reducible apply State.takeSums_keeps
    | with_reducible apply State.setSums_keeps
    | with_reducible apply State.setCtx_keeps
    | with_reducible apply State.nodeCount_keeps
    | with_reducible apply State.pushItem_keeps
    | with_reducible refine Keeps.foldl (fun _ _ _ => ?_) ?_
    | with_reducible refine Keeps.foldl_fst (fun _ _ _ => ?_) ?_
    | with_reducible refine Keeps.foldl_snd (fun _ _ _ => ?_) ?_
    | split

end Sys2Proof.Machine
end

