-- ==== Sys2Proof/Laws/KeepsRidge.lean ====
section
/-! SUPPORT. What the operations of Machine/Ridge.lean keep of a state (Laws/Keeps.lean). -/

namespace Sys2Proof.Machine

theorem State.setNodeParam_keeps {tw : Touch} {s0 : State} (s : State) (k : Nat) (i : Nat) (p : Bytes) (hK : Keeps tw s0 s) :
    Keeps tw s0 (State.setNodeParam s k i p) := by
  unfold State.setNodeParam
  try dsimp only
  repeat' first
    | with_reducible assumption
    | with_reducible refine Keeps.ite (fun _ => ?_) (fun _ => ?_)
    | with_reducible apply forN_keeps
    | with_reducible apply State.wr_keeps
    | with_reducible refine Keeps.foldl (fun _ _ _ => ?_) ?_
    | with_reducible refine Keeps.foldl_fst (fun _ _ _ => ?_) ?_
    | with_reducible refine Keeps.foldl_snd (fun _ _ _ => ?_) ?_
    | split
    | intro _

theorem State.applyGraph_keeps {tw : Touch} {s0 : State} (s : State) (k : Nat) (bs : Bytes) (hK : Keeps tw s0 s) :
    Keeps tw s0 (State.applyGraph s k bs) := by
  unfold State.applyGraph
  try dsimp only
  repeat' first
    | with_reducible assumption
    | with_reducible refine Keeps.ite (fun _ => ?_) (fun _ => ?_)
    | with_reducible apply State.wr_keeps
    | with_reducible apply forN_keeps
    | with_reducible apply State.setRidge_keeps
    | with_reducible refine Keeps.foldl (fun _ _ _ => ?_) ?_
    | with_reducible refine Keeps.foldl_fst (fun _ _ _ => ?_) ?_
    | with_reducible refine Keeps.foldl_snd (fun _ _ _ => ?_) ?_
    | split
    | intro _

theorem State.showSlots_keeps {tw : Touch} {s0 : State} (s : State) (k : Nat) (hK : Keeps tw s0 s) :
    Keeps tw s0 (State.showSlots s k) := by
  unfold State.showSlots
  try dsimp only
  repeat' first
    | with_reducible assumption
    | with_reducible refine Keeps.ite (fun _ => ?_) (fun _ => ?_)
    | with_reducible apply State.wr_keeps
    | with_reducible apply State.peak_keeps
    | with_reducible apply State.up_keeps

theorem State.writeSlot_keeps {tw : Touch} {s0 : State} (s : State) (k : Nat) (slot : Nat) (l : PortLine) (hK : Keeps tw s0 s) (hw_hbm : tw.hbm = true) :
    Keeps tw s0 (State.writeSlot s k slot l).1 := by
  unfold State.writeSlot
  try dsimp only
  repeat' first
    | with_reducible assumption
    | with_reducible refine State.writeMem_keeps_eq _ _ _ _ (by assumption) ?_ (by assumption)
    | with_reducible refine Keeps.ite (fun _ => ?_) (fun _ => ?_)
    | with_reducible apply State.writeMem_keeps
    | with_reducible apply State.count_keeps
    | with_reducible refine Keeps.foldl (fun _ _ _ => ?_) ?_
    | with_reducible refine Keeps.foldl_fst (fun _ _ _ => ?_) ?_
    | with_reducible refine Keeps.foldl_snd (fun _ _ _ => ?_) ?_
    | split

theorem State.writeSlot_keeps_eq {tw : Touch} {s0 : State} {tt : State} {res1 : PortLine} (s : State) (k : Nat) (slot : Nat) (l : PortLine) (he : State.writeSlot s k slot l = (tt, res1)) (hK : Keeps tw s0 s) (hw_hbm : tw.hbm = true) :
    Keeps tw s0 tt := by
  have := State.writeSlot_keeps s k slot l hK hw_hbm
  rw [he] at this
  exact this

theorem State.readSlot_keeps {tw : Touch} {s0 : State} (s : State) (k : Nat) (slot : Nat) (l : PortLine) (hK : Keeps tw s0 s) :
    Keeps tw s0 (State.readSlot s k slot l).1 := by
  unfold State.readSlot
  try dsimp only
  repeat' first
    | with_reducible assumption
    | with_reducible refine Keeps.ite (fun _ => ?_) (fun _ => ?_)
    | with_reducible apply State.readFailed_keeps
    | with_reducible apply State.count_keeps
    | with_reducible refine Keeps.foldl (fun _ _ _ => ?_) ?_
    | with_reducible refine Keeps.foldl_fst (fun _ _ _ => ?_) ?_
    | with_reducible refine Keeps.foldl_snd (fun _ _ _ => ?_) ?_
    | split

theorem State.readSlot_keeps_eq {tw : Touch} {s0 : State} {tt : State} {res1 : PortLine} (s : State) (k : Nat) (slot : Nat) (l : PortLine) (he : State.readSlot s k slot l = (tt, res1)) (hK : Keeps tw s0 s) :
    Keeps tw s0 tt := by
  have := State.readSlot_keeps s k slot l hK 
  rw [he] at this
  exact this

theorem State.memLine_keeps {tw : Touch} {s0 : State} (s : State) (k : Nat) (l : PortLine) (hK : Keeps tw s0 s) (hw_hbm : tw.hbm = true) :
    Keeps tw s0 (State.memLine s k l) := by
  unfold State.memLine
  try dsimp only
  repeat' first
    | with_reducible assumption
    | with_reducible refine State.writeSlot_keeps_eq _ _ _ _ (by assumption) ?_ (by assumption)
    | with_reducible refine Keeps.ite (fun _ => ?_) (fun _ => ?_)
    | with_reducible apply State.setRidge_keeps
    | with_reducible apply State.count_keeps
    | with_reducible apply State.ridgeEvent_keeps
    | with_reducible apply State.log_keeps
    | with_reducible apply State.writeSlot_keeps
    | with_reducible apply State.showSlots_keeps
    | with_reducible refine Keeps.foldl (fun _ _ _ => ?_) ?_
    | with_reducible refine Keeps.foldl_fst (fun _ _ _ => ?_) ?_
    | with_reducible refine Keeps.foldl_snd (fun _ _ _ => ?_) ?_
    | split

theorem State.showInline_keeps {tw : Touch} {s0 : State} (s : State) (k : Nat) (hK : Keeps tw s0 s) :
    Keeps tw s0 (State.showInline s k) := by
  unfold State.showInline
  try dsimp only
  repeat' first
    | with_reducible assumption
    | with_reducible refine Keeps.ite (fun _ => ?_) (fun _ => ?_)
    | with_reducible apply State.wr_keeps
    | with_reducible apply State.peak_keeps
    | with_reducible apply State.up_keeps

theorem State.inlineLine_keeps {tw : Touch} {s0 : State} (s : State) (k : Nat) (l : PortLine) (hK : Keeps tw s0 s) :
    Keeps tw s0 (State.inlineLine s k l) := by
  unfold State.inlineLine
  try dsimp only
  repeat' first
    | with_reducible assumption
    | with_reducible refine Keeps.ite (fun _ => ?_) (fun _ => ?_)
    | with_reducible apply State.setRidge_keeps
    | with_reducible apply State.ridgeEvent_keeps
    | with_reducible apply State.count_keeps
    | with_reducible apply State.showInline_keeps

theorem execRidgePortLineArrive_keeps {tw : Touch} {s0 : State} (port : Fin 12) (s : State) (hK : Keeps tw s0 s) (hw_hbm : tw.hbm = true) :
    KeepsOut tw s0 (execRidgePortLineArrive port s) := by
  unfold execRidgePortLineArrive
  dsimp only
  refine KeepsOut.ite (fun _ => KeepsOut.next hK) (fun _ => ?_)
  split
  · exact KeepsOut.next hK
  · have h := forAll_keeps (l := s.planeChannels port) (f := fun (e : Nat × Nat) s => State.setCalCh s e.2 { s.calCh e.2 with out := (s.calCh e.2).out.drop 1 }) (fun e t ht => State.setCalCh_keeps t _ _ ht) hK
    refine KeepsOut.ite (fun _ => KeepsOut.next h) (fun _ => ?_)
    exact KeepsOut.ite (fun _ => KeepsOut.next (State.inlineLine_keeps _ _ _ h)) (fun _ => KeepsOut.next (State.memLine_keeps _ _ _ h hw_hbm))

theorem State.stageLines_keeps {tw : Touch} {s0 : State} (s : State) (k : Nat) (x2 : Nat) (hK : Keeps tw s0 s) :
    Keeps tw s0 (State.stageLines s k x2) := by
  induction x2 generalizing s k with
  | zero =>
    unfold State.stageLines
    try dsimp only
    repeat' first
      | with_reducible assumption
      | with_reducible refine State.readSlot_keeps_eq _ _ _ _ (by assumption) ?_
  | succ n ih =>
    unfold State.stageLines
    try dsimp only
    repeat' first
      | with_reducible assumption
      | with_reducible apply ih
      | with_reducible refine State.readSlot_keeps_eq _ _ _ _ (by assumption) ?_
      | with_reducible refine Keeps.ite (fun _ => ?_) (fun _ => ?_)
      | with_reducible apply State.readSlot_keeps
      | with_reducible apply State.setRidge_keeps
      | with_reducible apply State.complete_keeps
      | with_reducible refine Keeps.foldl (fun _ _ _ => ?_) ?_
      | with_reducible refine Keeps.foldl_fst (fun _ _ _ => ?_) ?_
      | with_reducible refine Keeps.foldl_snd (fun _ _ _ => ?_) ?_
      | split

theorem execMemPathBurst_keeps {tw : Touch} {s0 : State} (ridge : Fin 6) (s : State) (hK : Keeps tw s0 s) :
    KeepsOut tw s0 (execMemPathBurst ridge s) := by
  unfold execMemPathBurst
  try dsimp only
  repeat' first
    | with_reducible assumption
    | with_reducible refine KeepsOut.next ?_
    | with_reducible refine KeepsOut.ite (fun _ => ?_) (fun _ => ?_)
    | with_reducible refine Keeps.ite (fun _ => ?_) (fun _ => ?_)
    | with_reducible apply State.setRidge_keeps
    | with_reducible apply State.showSlots_keeps
    | with_reducible apply State.stageLines_keeps
    | with_reducible apply State.count_keeps
    | with_reducible refine Keeps.foldl (fun _ _ _ => ?_) ?_
    | with_reducible refine Keeps.foldl_fst (fun _ _ _ => ?_) ?_
    | with_reducible refine Keeps.foldl_snd (fun _ _ _ => ?_) ?_
    | split

theorem State.pushNode_keeps {tw : Touch} {s0 : State} (s : State) (k : Nat) (c : Nat) (i : Nat) (l : StreamLine) (hK : Keeps tw s0 s) :
    Keeps tw s0 (State.pushNode s k c i l) := by
  unfold State.pushNode
  try dsimp only
  repeat' first
    | with_reducible assumption
    | with_reducible refine Keeps.ite (fun _ => ?_) (fun _ => ?_)
    | with_reducible apply State.setCtx_keeps

theorem State.paramsReach_keeps {tw : Touch} {s0 : State} (s : State) (k : Nat) (c : Nat) (i : Nat) (f : Nat) (hK : Keeps tw s0 s) :
    Keeps tw s0 (State.paramsReach s k c i f) := by
  unfold State.paramsReach
  try dsimp only
  repeat' first
    | with_reducible assumption
    | with_reducible refine Keeps.ite (fun _ => ?_) (fun _ => ?_)
    | with_reducible apply State.setCtx_keeps
    | with_reducible refine Keeps.foldl (fun _ _ _ => ?_) ?_
    | with_reducible refine Keeps.foldl_fst (fun _ _ _ => ?_) ?_
    | with_reducible refine Keeps.foldl_snd (fun _ _ _ => ?_) ?_
    | split

theorem State.nodeLine_keeps {tw : Touch} {s0 : State} (s : State) (k : Nat) (c : Nat) (i : Nat) (y : Nat) (n : NodeCfg) (hK : Keeps tw s0 s) :
    Keeps tw s0 (State.nodeLine s k c i y n) := by
  unfold State.nodeLine
  try dsimp only
  repeat' first
    | with_reducible assumption
    | with_reducible refine State.labelStep_keeps_eq _ _ _ _ _ _ (by assumption) ?_
    | with_reducible refine Keeps.ite (fun _ => ?_) (fun _ => ?_)
    | with_reducible apply State.paramsReach_keeps
    | with_reducible apply State.pushNode_keeps
    | with_reducible apply State.nodeCount_keeps
    | with_reducible apply State.setCtx_keeps
    | with_reducible apply State.labelStep_keeps
    | with_reducible apply State.featureEvent_keeps
    | with_reducible apply State.pushOverflow_keeps
    | with_reducible apply State.pushMarker_keeps
    | with_reducible refine Keeps.foldl (fun _ _ _ => ?_) ?_
    | with_reducible refine Keeps.foldl_fst (fun _ _ _ => ?_) ?_
    | with_reducible refine Keeps.foldl_snd (fun _ _ _ => ?_) ?_
    | split

theorem State.nodeRun_keeps {tw : Touch} {s0 : State} (s : State) (k : Nat) (c : Nat) (i : Nat) (n : NodeCfg) (x5 : Nat) (hK : Keeps tw s0 s) :
    Keeps tw s0 (State.nodeRun s k c i n x5) := by
  induction x5 generalizing s k c i n with
  | zero =>
    unfold State.nodeRun
    try dsimp only
    repeat' first
      | with_reducible assumption
  | succ n ih =>
    unfold State.nodeRun
    try dsimp only
    repeat' first
      | with_reducible assumption
      | with_reducible apply ih
      | with_reducible refine Keeps.ite (fun _ => ?_) (fun _ => ?_)
      | with_reducible apply State.count_keeps
      | with_reducible apply State.nodeLine_keeps

theorem State.graphRun_keeps {tw : Touch} {s0 : State} (s : State) (k : Nat) (c : Nat) (hK : Keeps tw s0 s) :
    Keeps tw s0 (State.graphRun s k c) := by
  unfold State.graphRun
  try dsimp only
  repeat' first
    | with_reducible assumption
    | with_reducible refine Keeps.ite (fun _ => ?_) (fun _ => ?_)
    | with_reducible apply State.nodeRun_keeps
    | with_reducible refine Keeps.foldl (fun _ _ _ => ?_) ?_

theorem State.droppedMarkers_keeps {tw : Touch} {s0 : State} (s : State) (k : Nat) (c : Nat) (x3 : Nat) (hK : Keeps tw s0 s) :
    Keeps tw s0 (State.droppedMarkers s k c x3) := by
  induction x3 generalizing s k c with
  | zero =>
    unfold State.droppedMarkers
    try dsimp only
    repeat' first
      | with_reducible assumption
  | succ n ih =>
    unfold State.droppedMarkers
    try dsimp only
    repeat' first
      | with_reducible assumption
      | with_reducible apply ih
      | with_reducible refine Keeps.ite (fun _ => ?_) (fun _ => ?_)
      | with_reducible apply State.setCtx_keeps
      | with_reducible apply State.pushMarker_keeps
      | with_reducible refine Keeps.foldl (fun _ _ _ => ?_) ?_
      | with_reducible refine Keeps.foldl_fst (fun _ _ _ => ?_) ?_
      | with_reducible refine Keeps.foldl_snd (fun _ _ _ => ?_) ?_
      | split

theorem State.graphLine_keeps {tw : Touch} {s0 : State} (s : State) (k : Nat) (c : Nat) (l : PortLine) (hK : Keeps tw s0 s) :
    Keeps tw s0 (State.graphLine s k c l) := by
  unfold State.graphLine
  try dsimp only
  repeat' first
    | with_reducible assumption
    | with_reducible refine Keeps.ite (fun _ => ?_) (fun _ => ?_)
    | with_reducible apply State.setCtx_keeps
    | with_reducible apply State.droppedMarkers_keeps
    | with_reducible apply State.graphRun_keeps

theorem State.flushCtx_keeps {tw : Touch} {s0 : State} (s : State) (k : Nat) (c : Nat) (hK : Keeps tw s0 s) :
    Keeps tw s0 (State.flushCtx s k c) := by
  unfold State.flushCtx
  try dsimp only
  repeat' first
    | with_reducible assumption
    | with_reducible refine State.labelStep_keeps_eq _ _ _ _ _ _ (by assumption) ?_
    | with_reducible refine Keeps.ite (fun _ => ?_) (fun _ => ?_)
    | with_reducible apply State.setCtx_keeps
    | with_reducible apply State.graphRun_keeps
    | with_reducible apply State.labelStep_keeps
    | with_reducible apply State.featureEvent_keeps
    | with_reducible apply State.droppedMarkers_keeps
    | with_reducible apply State.pushOverflow_keeps
    | with_reducible refine Keeps.foldl (fun _ _ _ => ?_) ?_
    | with_reducible refine Keeps.foldl_fst (fun _ _ _ => ?_) ?_
    | with_reducible refine Keeps.foldl_snd (fun _ _ _ => ?_) ?_
    | split

theorem State.ridgeFlush_keeps {tw : Touch} {s0 : State} (s : State) (k : Nat) (hK : Keeps tw s0 s) :
    Keeps tw s0 (State.ridgeFlush s k) := by
  unfold State.ridgeFlush
  try dsimp only
  repeat' first
    | with_reducible assumption
    | with_reducible refine Keeps.ite (fun _ => ?_) (fun _ => ?_)
    | with_reducible apply State.flushCtx_keeps

theorem State.showPending_keeps {tw : Touch} {s0 : State} (s : State) (k : Nat) (hK : Keeps tw s0 s) :
    Keeps tw s0 (State.showPending s k) := by
  unfold State.showPending
  try dsimp only
  repeat' first
    | with_reducible assumption
    | with_reducible refine Keeps.ite (fun _ => ?_) (fun _ => ?_)
    | with_reducible apply State.wr_keeps

theorem State.paramFrame_keeps {tw : Touch} {s0 : State} (s : State) (k : Nat) (c : Nat) (f : Nat) (hK : Keeps tw s0 s) :
    Keeps tw s0 (State.paramFrame s k c f) := by
  unfold State.paramFrame
  try dsimp only
  repeat' first
    | with_reducible assumption
    | with_reducible refine Keeps.ite (fun _ => ?_) (fun _ => ?_)
    | with_reducible apply State.wr_keeps
    | with_reducible apply State.setCtx_keeps
    | with_reducible apply State.setNodeParam_keeps
    | with_reducible apply State.showPending_keeps
    | with_reducible apply State.setRidge_keeps
    | with_reducible refine Keeps.foldl (fun _ _ _ => ?_) ?_

theorem State.takeParams_keeps {tw : Touch} {s0 : State} (s : State) (k : Nat) (writes : List (Nat × Nat × Word)) (hK : Keeps tw s0 s) :
    Keeps tw s0 (State.takeParams s k writes) := by
  unfold State.takeParams
  try dsimp only
  repeat' first
    | with_reducible assumption
    | with_reducible refine Keeps.ite (fun _ => ?_) (fun _ => ?_)
    | with_reducible apply State.log_keeps
    | with_reducible apply State.up_keeps
    | with_reducible apply State.accessFault_keeps
    | with_reducible apply State.showPending_keeps
    | with_reducible apply State.setRidge_keeps
    | with_reducible refine Keeps.foldl (fun _ _ _ => ?_) ?_
    | with_reducible refine Keeps.foldl_fst (fun _ _ _ => ?_) ?_
    | with_reducible refine Keeps.foldl_snd (fun _ _ _ => ?_) ?_
    | split

theorem State.ridgeEntryCompute_keeps {tw : Touch} {s0 : State} (s : State) (k : Nat) (hK : Keeps tw s0 s) :
    Keeps tw s0 (State.ridgeEntryCompute s k) := by
  unfold State.ridgeEntryCompute
  try dsimp only
  repeat' first
    | with_reducible assumption
    | with_reducible refine Keeps.ite (fun _ => ?_) (fun _ => ?_)
    | with_reducible apply forN_keeps
    | with_reducible apply State.wr_keeps
    | with_reducible refine Keeps.foldl (fun _ _ _ => ?_) ?_
    | with_reducible refine Keeps.foldl_fst (fun _ _ _ => ?_) ?_
    | with_reducible refine Keeps.foldl_snd (fun _ _ _ => ?_) ?_
    | split
    | intro _

theorem State.ridgeEnter_keeps {tw : Touch} {s0 : State} (s : State) (k : Nat) (hK : Keeps tw s0 s) :
    Keeps tw s0 (State.ridgeEnter s k) := by
  unfold State.ridgeEnter
  try dsimp only
  repeat' first
    | with_reducible assumption
    | with_reducible refine Keeps.ite (fun _ => ?_) (fun _ => ?_)
    | with_reducible apply State.ridgeEntryCompute_keeps
    | with_reducible apply State.setNodeParam_keeps
    | with_reducible apply forN_keeps
    | with_reducible apply State.wr_keeps
    | with_reducible apply State.setRidge_keeps
    | with_reducible apply State.showSlots_keeps
    | with_reducible apply State.showInline_keeps
    | with_reducible apply State.showPending_keeps
    | with_reducible refine Keeps.foldl (fun _ _ _ => ?_) ?_
    | with_reducible refine Keeps.foldl_fst (fun _ _ _ => ?_) ?_
    | with_reducible refine Keeps.foldl_snd (fun _ _ _ => ?_) ?_
    | split
    | intro _

end Sys2Proof.Machine
end

