-- ==== Sys2Proof/Laws/KeepsMould.lean ====
section
/-! SUPPORT. What the operations of Machine/Mould.lean keep of a state (Laws/Keeps.lean). -/

namespace Sys2Proof.Machine

theorem State.showClassCrc_keeps {tw : Touch} {s0 : State} (s : State) (hK : Keeps tw s0 s) :
    Keeps tw s0 (State.showClassCrc s) := by
  unfold State.showClassCrc
  try dsimp only
  repeat' first
    | with_reducible assumption
    | with_reducible refine Keeps.ite (fun _ => ?_) (fun _ => ?_)
    | with_reducible apply State.wr_keeps

theorem State.doseSwap_keeps {tw : Touch} {s0 : State} (s : State) (hK : Keeps tw s0 s) :
    Keeps tw s0 (State.doseSwap s) := by
  unfold State.doseSwap
  try dsimp only
  repeat' first
    | with_reducible assumption
    | with_reducible refine Keeps.ite (fun _ => ?_) (fun _ => ?_)
    | with_reducible apply State.setReg_keeps
    | with_reducible apply State.resetSpan_keeps
    | with_reducible apply State.down_keeps
    | with_reducible apply State.wr_keeps
    | with_reducible apply State.showClassCrc_keeps
    | with_reducible refine Keeps.foldl (fun _ _ _ => ?_) ?_
    | with_reducible refine Keeps.foldl_fst (fun _ _ _ => ?_) ?_
    | with_reducible refine Keeps.foldl_snd (fun _ _ _ => ?_) ?_
    | split
    | intro _
    | fail_if_no_progress (with_reducible apply Keeps.upd)

theorem State.setKernel_keeps {tw : Touch} {s0 : State} (s : State) (k : Nat) (v : KernelCtx) (hK : Keeps tw s0 s) :
    Keeps tw s0 (State.setKernel s k v) := by
  unfold State.setKernel
  try dsimp only
  repeat' first
    | with_reducible assumption
    | with_reducible refine Keeps.ite (fun _ => ?_) (fun _ => ?_)
    | with_reducible refine Keeps.foldl (fun _ _ _ => ?_) ?_
    | with_reducible refine Keeps.foldl_fst (fun _ _ _ => ?_) ?_
    | with_reducible refine Keeps.foldl_snd (fun _ _ _ => ?_) ?_
    | split
    | intro _
    | fail_if_no_progress (with_reducible apply Keeps.upd)

theorem State.kernelParams_keeps {tw : Touch} {s0 : State} (s : State) (hK : Keeps tw s0 s) :
    Keeps tw s0 (State.kernelParams s) := by
  unfold State.kernelParams
  try dsimp only
  repeat' first
    | with_reducible assumption
    | with_reducible refine Keeps.ite (fun _ => ?_) (fun _ => ?_)
    | with_reducible apply forN_keeps
    | with_reducible apply forAll_keeps
    | with_reducible apply State.setNodeParam_keeps
    | with_reducible apply State.showPending_keeps
    | with_reducible apply State.setRidge_keeps
    | with_reducible refine Keeps.foldl (fun _ _ _ => ?_) ?_
    | with_reducible refine Keeps.foldl_fst (fun _ _ _ => ?_) ?_
    | with_reducible refine Keeps.foldl_snd (fun _ _ _ => ?_) ?_
    | split
    | intro _

theorem State.mouldStripe_keeps {tw : Touch} {s0 : State} (s : State) (j : Job) (hK : Keeps tw s0 s) :
    Keeps tw s0 (State.mouldStripe s j) := by
  unfold State.mouldStripe
  try dsimp only
  repeat' first
    | with_reducible assumption
    | with_reducible refine Keeps.ite (fun _ => ?_) (fun _ => ?_)
    | with_reducible apply State.doseSwap_keeps
    | with_reducible apply State.kernelParams_keeps
    | with_reducible refine Keeps.foldl (fun _ _ _ => ?_) ?_
    | with_reducible refine Keeps.foldl_fst (fun _ _ _ => ?_) ?_
    | with_reducible refine Keeps.foldl_snd (fun _ _ _ => ?_) ?_
    | split
    | intro _
    | fail_if_no_progress (with_reducible apply Keeps.upd)

theorem execMouldBandStart_keeps {tw : Touch} {s0 : State} (s : State) (hK : Keeps tw s0 s) :
    KeepsOut tw s0 (execMouldBandStart s) := by
  unfold execMouldBandStart
  try dsimp only
  repeat' first
    | with_reducible assumption
    | with_reducible refine KeepsOut.next ?_
    | with_reducible refine KeepsOut.ite (fun _ => ?_) (fun _ => ?_)
    | with_reducible refine Keeps.ite (fun _ => ?_) (fun _ => ?_)
    | with_reducible apply State.mouldLook_keeps
    | with_reducible apply State.mouldStripe_keeps
    | with_reducible apply State.jobFail_keeps
    | with_reducible apply State.setJob_keeps
    | with_reducible apply State.wr_keeps
    | with_reducible refine Keeps.foldl (fun _ _ _ => ?_) ?_
    | with_reducible refine Keeps.foldl_fst (fun _ _ _ => ?_) ?_
    | with_reducible refine Keeps.foldl_snd (fun _ _ _ => ?_) ?_
    | split
    | intro _
    | fail_if_no_progress (with_reducible apply Keeps.upd)

theorem State.bandCause_keeps {tw : Touch} {s0 : State} (s : State) (inst : Nat) (b : Nat) (cause : Nat) (hK : Keeps tw s0 s) :
    Keeps tw s0 (State.bandCause s inst b cause) := by
  unfold State.bandCause
  try dsimp only
  repeat' first
    | with_reducible assumption
    | with_reducible refine Keeps.ite (fun _ => ?_) (fun _ => ?_)
    | with_reducible refine Keeps.foldl (fun _ _ _ => ?_) ?_
    | with_reducible refine Keeps.foldl_fst (fun _ _ _ => ?_) ?_
    | with_reducible refine Keeps.foldl_snd (fun _ _ _ => ?_) ?_
    | split
    | intro _
    | fail_if_no_progress (with_reducible apply Keeps.upd)

theorem State.sendDose_keeps {tw : Touch} {s0 : State} (s : State) (l : List DoseLine) (hK : Keeps tw s0 s) :
    Keeps tw s0 (State.sendDose s l) := by
  unfold State.sendDose
  try dsimp only
  repeat' first
    | with_reducible assumption
    | with_reducible refine Keeps.ite (fun _ => ?_) (fun _ => ?_)
    | with_reducible apply forN_keeps
    | with_reducible apply State.setKernel_keeps
    | with_reducible refine Keeps.foldl (fun _ _ _ => ?_) ?_
    | with_reducible refine Keeps.foldl_fst (fun _ _ _ => ?_) ?_
    | with_reducible refine Keeps.foldl_snd (fun _ _ _ => ?_) ?_
    | split
    | intro _

theorem execMouldBandDone_keeps {tw : Touch} {s0 : State} (s : State) (hK : Keeps tw s0 s) :
    KeepsOut tw s0 (execMouldBandDone s) := by
  unfold execMouldBandDone
  try dsimp only
  repeat' first
    | with_reducible assumption
    | with_reducible refine KeepsOut.next ?_
    | with_reducible refine KeepsOut.ite (fun _ => ?_) (fun _ => ?_)
    | with_reducible refine Keeps.ite (fun _ => ?_) (fun _ => ?_)
    | with_reducible apply State.bandCause_keeps
    | with_reducible apply State.jobFail_keeps
    | with_reducible apply State.readFailed_keeps
    | with_reducible apply State.setJob_keeps
    | with_reducible apply State.count_keeps
    | with_reducible apply State.peak_keeps
    | with_reducible apply State.event_keeps
    | with_reducible apply State.sendDose_keeps
    | with_reducible apply State.mouldLook_keeps
    | with_reducible apply State.reapJob_keeps
    | with_reducible refine Keeps.foldl (fun _ _ _ => ?_) ?_
    | with_reducible refine Keeps.foldl_fst (fun _ _ _ => ?_) ?_
    | with_reducible refine Keeps.foldl_snd (fun _ _ _ => ?_) ?_
    | split
    | intro _
    | fail_if_no_progress (with_reducible apply Keeps.upd)

theorem State.mouldStop_keeps {tw : Touch} {s0 : State} (s : State) (hK : Keeps tw s0 s) :
    Keeps tw s0 (State.mouldStop s) := by
  unfold State.mouldStop
  try dsimp only
  repeat' first
    | with_reducible assumption
    | with_reducible refine Keeps.ite (fun _ => ?_) (fun _ => ?_)
    | with_reducible apply State.mouldLook_keeps
    | with_reducible refine Keeps.foldl (fun _ _ _ => ?_) ?_
    | with_reducible refine Keeps.foldl_fst (fun _ _ _ => ?_) ?_
    | with_reducible refine Keeps.foldl_snd (fun _ _ _ => ?_) ?_
    | split
    | intro _
    | fail_if_no_progress (with_reducible apply Keeps.upd)

end Sys2Proof.Machine
end

