-- ==== Sys2Proof/Laws/KeepsMotion.lean ====
section
/-! SUPPORT. What the operations of Machine/Motion.lean keep of a state (Laws/Keeps.lean). -/

namespace Sys2Proof.Machine

theorem State.setAxis_keeps {tw : Touch} {s0 : State} (s : State) (a : Nat) (x : Axis) (hK : Keeps tw s0 s) :
    Keeps tw s0 (State.setAxis s a x) := by
  unfold State.setAxis
  try dsimp only
  repeat' first
    | with_reducible assumption
    | with_reducible refine Keeps.ite (fun _ => ?_) (fun _ => ?_)
    | with_reducible refine Keeps.foldl (fun _ _ _ => ?_) ?_
    | with_reducible refine Keeps.foldl_fst (fun _ _ _ => ?_) ?_
    | with_reducible refine Keeps.foldl_snd (fun _ _ _ => ?_) ?_
    | split
    | intro _
    | fail_if_no_progress (with_reducible apply Keeps.upd)

theorem State.posUncertain_keeps {tw : Touch} {s0 : State} (s : State) (a : Nat) (hK : Keeps tw s0 s) :
    Keeps tw s0 (State.posUncertain s a) := by
  unfold State.posUncertain
  try dsimp only
  repeat' first
    | with_reducible assumption
    | with_reducible refine Keeps.ite (fun _ => ?_) (fun _ => ?_)
    | with_reducible apply State.up_keeps

theorem State.countStep_keeps {tw : Touch} {s0 : State} (s : State) (a : Nat) (n : Int) (hK : Keeps tw s0 s) :
    Keeps tw s0 (State.countStep s a n) := by
  unfold State.countStep
  try dsimp only
  repeat' first
    | with_reducible assumption
    | with_reducible refine Keeps.ite (fun _ => ?_) (fun _ => ?_)
    | with_reducible refine Keeps.foldl (fun _ _ _ => ?_) ?_
    | with_reducible refine Keeps.foldl_fst (fun _ _ _ => ?_) ?_
    | with_reducible refine Keeps.foldl_snd (fun _ _ _ => ?_) ?_
    | split
    | intro _
    | fail_if_no_progress (with_reducible apply Keeps.upd)

theorem State.axisCount_keeps {tw : Touch} {s0 : State} (s : State) (a : Nat) (n : Int) (hK : Keeps tw s0 s) :
    Keeps tw s0 (State.axisCount s a n).1 := by
  unfold State.axisCount
  try dsimp only
  repeat' first
    | with_reducible assumption
    | with_reducible refine Keeps.ite (fun _ => ?_) (fun _ => ?_)
    | with_reducible apply State.wr_keeps
    | with_reducible apply State.countStep_keeps
    | with_reducible apply State.setAxis_keeps
    | with_reducible apply State.up_keeps
    | with_reducible refine Keeps.foldl (fun _ _ _ => ?_) ?_
    | with_reducible refine Keeps.foldl_fst (fun _ _ _ => ?_) ?_
    | with_reducible refine Keeps.foldl_snd (fun _ _ _ => ?_) ?_
    | split

theorem State.axisCount_keeps_eq {tw : Touch} {s0 : State} {tt : State} {res1 : Bool} (s : State) (a : Nat) (n : Int) (he : State.axisCount s a n = (tt, res1)) (hK : Keeps tw s0 s) :
    Keeps tw s0 tt := by
  have := State.axisCount_keeps s a n hK 
  rw [he] at this
  exact this

theorem State.quadErr_keeps {tw : Touch} {s0 : State} (s : State) (a : Nat) (hK : Keeps tw s0 s) :
    Keeps tw s0 (State.quadErr s a).1 := by
  unfold State.quadErr
  try dsimp only
  repeat' first
    | with_reducible assumption
    | with_reducible refine Keeps.ite (fun _ => ?_) (fun _ => ?_)
    | with_reducible apply State.posUncertain_keeps
    | with_reducible apply State.count_keeps

theorem State.quadErr_keeps_eq {tw : Touch} {s0 : State} {tt : State} {res1 : Bool} (s : State) (a : Nat) (he : State.quadErr s a = (tt, res1)) (hK : Keeps tw s0 s) :
    Keeps tw s0 tt := by
  have := State.quadErr_keeps s a hK 
  rw [he] at this
  exact this

theorem State.indexDev_keeps {tw : Touch} {s0 : State} (s : State) (a : Nat) (dev : Int) (hK : Keeps tw s0 s) :
    Keeps tw s0 (State.indexDev s a dev).1 := by
  unfold State.indexDev
  try dsimp only
  repeat' first
    | with_reducible assumption
    | with_reducible refine Keeps.ite (fun _ => ?_) (fun _ => ?_)
    | with_reducible apply State.wr_keeps
    | with_reducible apply State.up_keeps
    | with_reducible refine Keeps.foldl (fun _ _ _ => ?_) ?_
    | with_reducible refine Keeps.foldl_fst (fun _ _ _ => ?_) ?_
    | with_reducible refine Keeps.foldl_snd (fun _ _ _ => ?_) ?_
    | split

theorem State.indexDev_keeps_eq {tw : Touch} {s0 : State} {tt : State} {res1 : Bool} (s : State) (a : Nat) (dev : Int) (he : State.indexDev s a dev = (tt, res1)) (hK : Keeps tw s0 s) :
    Keeps tw s0 tt := by
  have := State.indexDev_keeps s a dev hK 
  rw [he] at this
  exact this

theorem State.axisIndex_keeps {tw : Touch} {s0 : State} (s : State) (a : Nat) (hK : Keeps tw s0 s) :
    Keeps tw s0 (State.axisIndex s a).1 := by
  unfold State.axisIndex
  try dsimp only
  repeat' first
    | with_reducible assumption
    | with_reducible refine State.indexDev_keeps_eq _ _ _ (by assumption) ?_
    | with_reducible refine Keeps.ite (fun _ => ?_) (fun _ => ?_)
    | with_reducible apply State.event_keeps
    | with_reducible apply State.up_keeps
    | with_reducible apply State.setAxis_keeps
    | with_reducible apply State.indexDev_keeps
    | with_reducible apply State.wr_keeps
    | with_reducible apply State.down_keeps
    | with_reducible refine Keeps.foldl (fun _ _ _ => ?_) ?_
    | with_reducible refine Keeps.foldl_fst (fun _ _ _ => ?_) ?_
    | with_reducible refine Keeps.foldl_snd (fun _ _ _ => ?_) ?_
    | split

theorem State.axisIndex_keeps_eq {tw : Touch} {s0 : State} {tt : State} {res1 : Bool} (s : State) (a : Nat) (he : State.axisIndex s a = (tt, res1)) (hK : Keeps tw s0 s) :
    Keeps tw s0 tt := by
  have := State.axisIndex_keeps s a hK 
  rw [he] at this
  exact this

theorem State.axisMove_keeps {tw : Touch} {s0 : State} (s : State) (a : Nat) (mode : Nat) (old : Nat) (new : Nat) (x : Axis) (hK : Keeps tw s0 s) :
    Keeps tw s0 (State.axisMove s a mode old new x).1 := by
  unfold State.axisMove
  try dsimp only
  repeat' first
    | with_reducible assumption
    | with_reducible refine State.axisCount_keeps_eq _ _ _ (by assumption) ?_
    | with_reducible refine State.quadErr_keeps_eq _ _ (by assumption) ?_
    | with_reducible refine Keeps.ite (fun _ => ?_) (fun _ => ?_)
    | with_reducible apply State.quadErr_keeps
    | with_reducible apply State.axisCount_keeps
    | with_reducible apply State.setAxis_keeps
    | with_reducible refine Keeps.foldl (fun _ _ _ => ?_) ?_
    | with_reducible refine Keeps.foldl_fst (fun _ _ _ => ?_) ?_
    | with_reducible refine Keeps.foldl_snd (fun _ _ _ => ?_) ?_
    | split

theorem State.axisMove_keeps_eq {tw : Touch} {s0 : State} {tt : State} {res1 : Bool} (s : State) (a : Nat) (mode : Nat) (old : Nat) (new : Nat) (x : Axis) (he : State.axisMove s a mode old new x = (tt, res1)) (hK : Keeps tw s0 s) :
    Keeps tw s0 tt := by
  have := State.axisMove_keeps s a mode old new x hK 
  rw [he] at this
  exact this

theorem execAxisFilteredChange_keeps {tw : Touch} {s0 : State} (axis : Fin 8) (levels : BitVec 6) (s : State) (hK : Keeps tw s0 s) :
    KeepsOut tw s0 (execAxisFilteredChange axis levels s) := by
  unfold execAxisFilteredChange
  try dsimp only
  repeat' first
    | with_reducible assumption
    | with_reducible refine State.axisIndex_keeps_eq _ _ (by assumption) ?_
    | with_reducible refine State.axisMove_keeps_eq _ _ _ _ _ _ (by assumption) ?_
    | with_reducible refine KeepsOut.next ?_
    | with_reducible refine KeepsOut.ite (fun _ => ?_) (fun _ => ?_)
    | with_reducible refine Keeps.ite (fun _ => ?_) (fun _ => ?_)
    | with_reducible apply State.wr_keeps
    | with_reducible apply State.setAxis_keeps
    | with_reducible apply State.axisMove_keeps
    | with_reducible apply State.axisIndex_keeps
    | with_reducible apply State.event_keeps
    | with_reducible refine Keeps.foldl (fun _ _ _ => ?_) ?_
    | with_reducible refine Keeps.foldl_fst (fun _ _ _ => ?_) ?_
    | with_reducible refine Keeps.foldl_snd (fun _ _ _ => ?_) ?_
    | split

theorem execAxisArm_keeps {tw : Touch} {s0 : State} (axis : Fin 8) (s : State) (hK : Keeps tw s0 s) :
    KeepsOut tw s0 (execAxisArm axis s) := by
  unfold execAxisArm
  try dsimp only
  repeat' first
    | with_reducible assumption
    | with_reducible refine KeepsOut.next ?_
    | with_reducible refine KeepsOut.ite (fun _ => ?_) (fun _ => ?_)
    | with_reducible refine Keeps.ite (fun _ => ?_) (fun _ => ?_)
    | with_reducible apply State.up_keeps

theorem execSerialFrameStart_keeps {tw : Touch} {s0 : State} (axis : Fin 8) (s : State) (hK : Keeps tw s0 s) :
    KeepsOut tw s0 (execSerialFrameStart axis s) := by
  unfold execSerialFrameStart
  try dsimp only
  repeat' first
    | with_reducible assumption
    | with_reducible refine KeepsOut.next ?_
    | with_reducible refine KeepsOut.ite (fun _ => ?_) (fun _ => ?_)
    | with_reducible refine Keeps.ite (fun _ => ?_) (fun _ => ?_)
    | with_reducible apply State.setAxis_keeps
    | with_reducible apply State.emit_keeps

theorem execSerialFrameDone_keeps {tw : Touch} {s0 : State} (axis : Fin 8) (recovering : Bool) (frame : BitVec 55) (s : State) (hK : Keeps tw s0 s) :
    KeepsOut tw s0 (execSerialFrameDone axis recovering frame s) := by
  unfold execSerialFrameDone
  try dsimp only
  repeat' first
    | with_reducible assumption
    | with_reducible refine KeepsOut.next ?_
    | with_reducible refine KeepsOut.ite (fun _ => ?_) (fun _ => ?_)
    | with_reducible refine Keeps.ite (fun _ => ?_) (fun _ => ?_)
    | with_reducible apply State.count_keeps
    | with_reducible apply State.setAxis_keeps
    | with_reducible apply State.up_keeps
    | with_reducible apply State.posUncertain_keeps
    | with_reducible apply State.event_keeps
    | with_reducible apply State.wr64_keeps
    | with_reducible refine Keeps.foldl (fun _ _ _ => ?_) ?_
    | with_reducible refine Keeps.foldl_fst (fun _ _ _ => ?_) ?_
    | with_reducible refine Keeps.foldl_snd (fun _ _ _ => ?_) ?_
    | split
    | intro _
    | fail_if_no_progress (with_reducible apply Keeps.upd)

theorem State.showReel_keeps {tw : Touch} {s0 : State} (s : State) (hK : Keeps tw s0 s) :
    Keeps tw s0 (State.showReel s) := by
  unfold State.showReel
  try dsimp only
  repeat' first
    | with_reducible assumption
    | with_reducible refine Keeps.ite (fun _ => ?_) (fun _ => ?_)
    | with_reducible apply State.wrI64_keeps
    | with_reducible apply State.wr_keeps

theorem State.raiseW_keeps {tw : Touch} {s0 : State} (s : State) (hK : Keeps tw s0 s) :
    Keeps tw s0 (State.raiseW s) := by
  unfold State.raiseW
  try dsimp only
  repeat' first
    | with_reducible assumption
    | with_reducible refine Keeps.ite (fun _ => ?_) (fun _ => ?_)
    | with_reducible refine Keeps.foldl (fun _ _ _ => ?_) ?_
    | with_reducible refine Keeps.foldl_fst (fun _ _ _ => ?_) ?_
    | with_reducible refine Keeps.foldl_snd (fun _ _ _ => ?_) ?_
    | split
    | intro _
    | fail_if_no_progress (with_reducible apply Keeps.upd)

theorem State.reelEdge_keeps {tw : Touch} {s0 : State} (s : State) (hK : Keeps tw s0 s) :
    Keeps tw s0 (State.reelEdge s) := by
  unfold State.reelEdge
  try dsimp only
  repeat' first
    | with_reducible assumption
    | with_reducible refine Keeps.ite (fun _ => ?_) (fun _ => ?_)
    | with_reducible apply State.raiseW_keeps
    | with_reducible apply State.count_keeps
    | with_reducible refine Keeps.foldl (fun _ _ _ => ?_) ?_
    | with_reducible refine Keeps.foldl_fst (fun _ _ _ => ?_) ?_
    | with_reducible refine Keeps.foldl_snd (fun _ _ _ => ?_) ?_
    | split
    | intro _
    | fail_if_no_progress (with_reducible apply Keeps.upd)

theorem State.reelHandover_keeps {tw : Touch} {s0 : State} (s : State) (hK : Keeps tw s0 s) :
    Keeps tw s0 (State.reelHandover s) := by
  unfold State.reelHandover
  try dsimp only
  repeat' first
    | with_reducible assumption
    | with_reducible refine Keeps.ite (fun _ => ?_) (fun _ => ?_)
    | with_reducible apply State.down_keeps
    | with_reducible refine Keeps.foldl (fun _ _ _ => ?_) ?_
    | with_reducible refine Keeps.foldl_fst (fun _ _ _ => ?_) ?_
    | with_reducible refine Keeps.foldl_snd (fun _ _ _ => ?_) ?_
    | split
    | intro _
    | fail_if_no_progress (with_reducible apply Keeps.upd)

theorem State.reelTick4_keeps {tw : Touch} {s0 : State} (s : State) (hK : Keeps tw s0 s) :
    Keeps tw s0 (State.reelTick4 s) := by
  unfold State.reelTick4
  try dsimp only
  repeat' first
    | with_reducible assumption
    | with_reducible refine Keeps.ite (fun _ => ?_) (fun _ => ?_)
    | with_reducible apply State.reelHandover_keeps
    | with_reducible apply State.showReel_keeps
    | with_reducible apply State.reelEdge_keeps

theorem State.enterStep_keeps {tw : Touch} {s0 : State} (s : State) (hK : Keeps tw s0 s) :
    Keeps tw s0 (State.enterStep s) := by
  unfold State.enterStep
  try dsimp only
  repeat' first
    | with_reducible assumption
    | with_reducible refine Keeps.ite (fun _ => ?_) (fun _ => ?_)
    | with_reducible apply State.up_keeps
    | with_reducible refine Keeps.foldl (fun _ _ _ => ?_) ?_
    | with_reducible refine Keeps.foldl_fst (fun _ _ _ => ?_) ?_
    | with_reducible refine Keeps.foldl_snd (fun _ _ _ => ?_) ?_
    | split
    | intro _
    | fail_if_no_progress (with_reducible apply Keeps.upd)

theorem State.lockStat_keeps {tw : Touch} {s0 : State} (s : State) (e : Int) (hK : Keeps tw s0 s) :
    Keeps tw s0 (State.lockStat s e) := by
  unfold State.lockStat
  try dsimp only
  repeat' first
    | with_reducible assumption
    | with_reducible refine Keeps.ite (fun _ => ?_) (fun _ => ?_)
    | with_reducible apply State.up_keeps
    | with_reducible apply State.down_keeps
    | with_reducible refine Keeps.foldl (fun _ _ _ => ?_) ?_
    | with_reducible refine Keeps.foldl_fst (fun _ _ _ => ?_) ?_
    | with_reducible refine Keeps.foldl_snd (fun _ _ _ => ?_) ?_
    | split
    | intro _
    | fail_if_no_progress (with_reducible apply Keeps.upd)

theorem State.measureStep_keeps {tw : Touch} {s0 : State} (s : State) (m : Int) (move : Int) (run : Nat) (dt : Nat) (hK : Keeps tw s0 s) :
    Keeps tw s0 (State.measureStep s m move run dt) := by
  unfold State.measureStep
  try dsimp only
  repeat' first
    | with_reducible assumption
    | with_reducible refine Keeps.ite (fun _ => ?_) (fun _ => ?_)
    | with_reducible apply State.enterStep_keeps
    | with_reducible apply State.down_keeps
    | with_reducible apply State.showReel_keeps
    | with_reducible apply State.raiseW_keeps
    | with_reducible refine Keeps.foldl (fun _ _ _ => ?_) ?_
    | with_reducible refine Keeps.foldl_fst (fun _ _ _ => ?_) ?_
    | with_reducible refine Keeps.foldl_snd (fun _ _ _ => ?_) ?_
    | split
    | intro _
    | fail_if_no_progress (with_reducible apply Keeps.upd)

theorem State.measureLoop_keeps {tw : Touch} {s0 : State} (s : State) (m : Int) (time : Nat) (dt : Nat) (hK : Keeps tw s0 s) :
    Keeps tw s0 (State.measureLoop s m time dt) := by
  unfold State.measureLoop
  try dsimp only
  repeat' first
    | with_reducible assumption
    | with_reducible refine Keeps.ite (fun _ => ?_) (fun _ => ?_)
    | with_reducible apply State.wr_keeps
    | with_reducible apply State.showReel_keeps
    | with_reducible apply State.raiseW_keeps
    | with_reducible apply State.lockStat_keeps
    | with_reducible refine Keeps.foldl (fun _ _ _ => ?_) ?_
    | with_reducible refine Keeps.foldl_fst (fun _ _ _ => ?_) ?_
    | with_reducible refine Keeps.foldl_snd (fun _ _ _ => ?_) ?_
    | split
    | intro _
    | fail_if_no_progress (with_reducible apply Keeps.upd)

theorem State.measure_keeps {tw : Touch} {s0 : State} (s : State) (q : Meas) (hK : Keeps tw s0 s) :
    Keeps tw s0 (State.measure s q) := by
  unfold State.measure
  try dsimp only
  repeat' first
    | with_reducible assumption
    | with_reducible refine Keeps.ite (fun _ => ?_) (fun _ => ?_)
    | with_reducible apply State.reelHandover_keeps
    | with_reducible apply State.measureStep_keeps
    | with_reducible apply State.measureLoop_keeps
    | with_reducible refine Keeps.foldl (fun _ _ _ => ?_) ?_
    | with_reducible refine Keeps.foldl_fst (fun _ _ _ => ?_) ?_
    | with_reducible refine Keeps.foldl_snd (fun _ _ _ => ?_) ?_
    | split
    | intro _
    | fail_if_no_progress (with_reducible apply Keeps.upd)

theorem execReelMeasurement_keeps {tw : Touch} {s0 : State} (s : State) (hK : Keeps tw s0 s) :
    KeepsOut tw s0 (execReelMeasurement s) := by
  unfold execReelMeasurement
  try dsimp only
  repeat' first
    | with_reducible assumption
    | with_reducible refine KeepsOut.next ?_
    | with_reducible refine KeepsOut.ite (fun _ => ?_) (fun _ => ?_)
    | with_reducible refine Keeps.ite (fun _ => ?_) (fun _ => ?_)
    | with_reducible apply State.measure_keeps
    | with_reducible refine Keeps.foldl (fun _ _ _ => ?_) ?_
    | with_reducible refine Keeps.foldl_fst (fun _ _ _ => ?_) ?_
    | with_reducible refine Keeps.foldl_snd (fun _ _ _ => ?_) ?_
    | split
    | intro _
    | fail_if_no_progress (with_reducible apply Keeps.upd)

theorem execReelStopTimeout_keeps {tw : Touch} {s0 : State} (s : State) (hK : Keeps tw s0 s) :
    KeepsOut tw s0 (execReelStopTimeout s) := by
  unfold execReelStopTimeout
  try dsimp only
  repeat' first
    | with_reducible assumption
    | with_reducible refine KeepsOut.next ?_
    | with_reducible refine KeepsOut.ite (fun _ => ?_) (fun _ => ?_)
    | with_reducible refine Keeps.ite (fun _ => ?_) (fun _ => ?_)
    | with_reducible apply State.showReel_keeps
    | with_reducible apply State.enterStep_keeps
    | with_reducible refine Keeps.foldl (fun _ _ _ => ?_) ?_
    | with_reducible refine Keeps.foldl_fst (fun _ _ _ => ?_) ?_
    | with_reducible refine Keeps.foldl_snd (fun _ _ _ => ?_) ?_
    | split
    | intro _
    | fail_if_no_progress (with_reducible apply Keeps.upd)

theorem State.resetH_keeps {tw : Touch} {s0 : State} (s : State) (hK : Keeps tw s0 s) :
    Keeps tw s0 (State.resetH s) := by
  unfold State.resetH
  try dsimp only
  repeat' first
    | with_reducible assumption
    | with_reducible refine Keeps.ite (fun _ => ?_) (fun _ => ?_)
    | with_reducible apply State.wrI64_keeps
    | with_reducible apply forN_keeps
    | with_reducible apply State.down_keeps
    | with_reducible refine Keeps.foldl (fun _ _ _ => ?_) ?_
    | with_reducible refine Keeps.foldl_fst (fun _ _ _ => ?_) ?_
    | with_reducible refine Keeps.foldl_snd (fun _ _ _ => ?_) ?_
    | split
    | intro _
    | fail_if_no_progress (with_reducible apply Keeps.upd)

theorem execReelForwardWrite_keeps {tw : Touch} {s0 : State} (forward : Bool) (s : State) (hK : Keeps tw s0 s) :
    KeepsOut tw s0 (execReelForwardWrite forward s) := by
  unfold execReelForwardWrite
  try dsimp only
  repeat' first
    | with_reducible assumption
    | with_reducible refine KeepsOut.next ?_
    | with_reducible refine KeepsOut.ite (fun _ => ?_) (fun _ => ?_)
    | with_reducible refine Keeps.ite (fun _ => ?_) (fun _ => ?_)
    | with_reducible apply State.resetH_keeps
    | with_reducible apply State.wr_keeps
    | with_reducible apply State.accessFault_keeps

theorem State.loadPos_keeps {tw : Touch} {s0 : State} (s : State) (stamp : Int) (hK : Keeps tw s0 s) :
    Keeps tw s0 (State.loadPos s stamp) := by
  unfold State.loadPos
  try dsimp only
  repeat' first
    | with_reducible assumption
    | with_reducible refine Keeps.ite (fun _ => ?_) (fun _ => ?_)
    | with_reducible apply State.showReel_keeps
    | with_reducible apply State.resetH_keeps
    | with_reducible refine Keeps.foldl (fun _ _ _ => ?_) ?_
    | with_reducible refine Keeps.foldl_fst (fun _ _ _ => ?_) ?_
    | with_reducible refine Keeps.foldl_snd (fun _ _ _ => ?_) ?_
    | split
    | intro _
    | fail_if_no_progress (with_reducible apply Keeps.upd)

theorem execReelPosSet_keeps {tw : Touch} {s0 : State} (hi : Word) (s : State) (hK : Keeps tw s0 s) :
    KeepsOut tw s0 (execReelPosSet hi s) := by
  unfold execReelPosSet
  try dsimp only
  repeat' first
    | with_reducible assumption
    | with_reducible refine KeepsOut.next ?_
    | with_reducible refine KeepsOut.ite (fun _ => ?_) (fun _ => ?_)
    | with_reducible refine Keeps.ite (fun _ => ?_) (fun _ => ?_)
    | with_reducible apply State.accessFault_keeps
    | with_reducible apply State.commitPair_keeps
    | with_reducible apply State.loadPos_keeps

theorem State.addOffset_keeps {tw : Touch} {s0 : State} (s : State) (d : Int) (hK : Keeps tw s0 s) :
    Keeps tw s0 (State.addOffset s d) := by
  unfold State.addOffset
  try dsimp only
  repeat' first
    | with_reducible assumption
    | with_reducible refine Keeps.ite (fun _ => ?_) (fun _ => ?_)
    | with_reducible apply State.showReel_keeps
    | with_reducible refine Keeps.foldl (fun _ _ _ => ?_) ?_
    | with_reducible refine Keeps.foldl_fst (fun _ _ _ => ?_) ?_
    | with_reducible refine Keeps.foldl_snd (fun _ _ _ => ?_) ?_
    | split
    | intro _
    | fail_if_no_progress (with_reducible apply Keeps.upd)

theorem execReelAdjust_keeps {tw : Touch} {s0 : State} (offset : Word) (s : State) (hK : Keeps tw s0 s) :
    KeepsOut tw s0 (execReelAdjust offset s) := by
  unfold execReelAdjust
  try dsimp only
  repeat' first
    | with_reducible assumption
    | with_reducible refine KeepsOut.next ?_
    | with_reducible refine KeepsOut.ite (fun _ => ?_) (fun _ => ?_)
    | with_reducible refine Keeps.ite (fun _ => ?_) (fun _ => ?_)
    | with_reducible apply State.addOffset_keeps

theorem State.setCaps_keeps {tw : Touch} {s0 : State} (s : State) (k : Nat) (l : List CapEntry) (hK : Keeps tw s0 s) :
    Keeps tw s0 (State.setCaps s k l) := by
  unfold State.setCaps
  try dsimp only
  repeat' first
    | with_reducible assumption
    | with_reducible refine Keeps.ite (fun _ => ?_) (fun _ => ?_)
    | with_reducible apply State.wr_keeps
    | with_reducible apply State.wrI64_keeps
    | with_reducible refine Keeps.foldl (fun _ _ _ => ?_) ?_
    | with_reducible refine Keeps.foldl_fst (fun _ _ _ => ?_) ?_
    | with_reducible refine Keeps.foldl_snd (fun _ _ _ => ?_) ?_
    | split
    | intro _
    | fail_if_no_progress (with_reducible apply Keeps.upd)

theorem execReelCapture_keeps {tw : Touch} {s0 : State} (unit : Fin 8) (s : State) (hK : Keeps tw s0 s) :
    KeepsOut tw s0 (execReelCapture unit s) := by
  unfold execReelCapture
  try dsimp only
  repeat' first
    | with_reducible assumption
    | with_reducible refine KeepsOut.next ?_
    | with_reducible refine KeepsOut.ite (fun _ => ?_) (fun _ => ?_)
    | with_reducible refine Keeps.ite (fun _ => ?_) (fun _ => ?_)
    | with_reducible apply State.overrun_keeps
    | with_reducible apply State.count_keeps
    | with_reducible apply State.up_keeps
    | with_reducible apply State.setCaps_keeps

theorem execReelCapturePop_keeps {tw : Touch} {s0 : State} (unit : Fin 8) (s : State) (hK : Keeps tw s0 s) :
    KeepsOut tw s0 (execReelCapturePop unit s) := by
  unfold execReelCapturePop
  try dsimp only
  repeat' first
    | with_reducible assumption
    | with_reducible refine KeepsOut.next ?_
    | with_reducible refine KeepsOut.ite (fun _ => ?_) (fun _ => ?_)
    | with_reducible refine Keeps.ite (fun _ => ?_) (fun _ => ?_)
    | with_reducible apply State.setCaps_keeps

theorem State.setSched_keeps {tw : Touch} {s0 : State} (s : State) (i : Nat) (v : Sched) (hK : Keeps tw s0 s) :
    Keeps tw s0 (State.setSched s i v) := by
  unfold State.setSched
  try dsimp only
  repeat' first
    | with_reducible assumption
    | with_reducible refine Keeps.ite (fun _ => ?_) (fun _ => ?_)
    | with_reducible refine Keeps.foldl (fun _ _ _ => ?_) ?_
    | with_reducible refine Keeps.foldl_fst (fun _ _ _ => ?_) ?_
    | with_reducible refine Keeps.foldl_snd (fun _ _ _ => ?_) ?_
    | split
    | intro _
    | fail_if_no_progress (with_reducible apply Keeps.upd)

theorem State.setSchedTarget_keeps {tw : Touch} {s0 : State} (s : State) (i : Nat) (u : Int) (hK : Keeps tw s0 s) :
    Keeps tw s0 (State.setSchedTarget s i u) := by
  unfold State.setSchedTarget
  try dsimp only
  repeat' first
    | with_reducible assumption
    | with_reducible refine Keeps.ite (fun _ => ?_) (fun _ => ?_)
    | with_reducible apply State.wrI64_keeps

theorem State.armSched_keeps {tw : Touch} {s0 : State} (s : State) (i : Nat) (rel : Bool) (gen : Nat) (hK : Keeps tw s0 s) :
    Keeps tw s0 (State.armSched s i rel gen) := by
  unfold State.armSched
  try dsimp only
  repeat' first
    | with_reducible assumption
    | with_reducible refine Keeps.ite (fun _ => ?_) (fun _ => ?_)
    | with_reducible apply State.setSchedTarget_keeps
    | with_reducible apply State.up_keeps
    | with_reducible apply State.setSched_keeps

theorem State.disarmSched_keeps {tw : Touch} {s0 : State} (s : State) (i : Nat) (hK : Keeps tw s0 s) :
    Keeps tw s0 (State.disarmSched s i) := by
  unfold State.disarmSched
  try dsimp only
  repeat' first
    | with_reducible assumption
    | with_reducible refine Keeps.ite (fun _ => ?_) (fun _ => ?_)
    | with_reducible apply State.down_keeps

theorem execSchedEnable_keeps {tw : Touch} {s0 : State} (unit : Fin 8) (ctl : Word) (s : State) (hK : Keeps tw s0 s) :
    KeepsOut tw s0 (execSchedEnable unit ctl s) := by
  unfold execSchedEnable
  try dsimp only
  repeat' first
    | with_reducible assumption
    | with_reducible refine KeepsOut.next ?_
    | with_reducible refine KeepsOut.ite (fun _ => ?_) (fun _ => ?_)
    | with_reducible refine Keeps.ite (fun _ => ?_) (fun _ => ?_)
    | with_reducible apply State.wr_keeps
    | with_reducible apply State.armSched_keeps
    | with_reducible apply State.disarmSched_keeps

theorem State.targetWritten_keeps {tw : Touch} {s0 : State} (s : State) (i : Nat) (hK : Keeps tw s0 s) :
    Keeps tw s0 (State.targetWritten s i) := by
  unfold State.targetWritten
  try dsimp only
  repeat' first
    | with_reducible assumption
    | with_reducible refine Keeps.ite (fun _ => ?_) (fun _ => ?_)
    | with_reducible apply State.setSched_keeps

theorem execSchedFire_keeps {tw : Touch} {s0 : State} (unit : Fin 8) (s : State) (hK : Keeps tw s0 s) :
    KeepsOut tw s0 (execSchedFire unit s) := by
  unfold execSchedFire
  try dsimp only
  repeat' first
    | with_reducible assumption
    | with_reducible refine KeepsOut.next ?_
    | with_reducible refine KeepsOut.ite (fun _ => ?_) (fun _ => ?_)
    | with_reducible refine Keeps.ite (fun _ => ?_) (fun _ => ?_)
    | with_reducible apply State.up_keeps
    | with_reducible apply State.count_keeps
    | with_reducible apply State.event_keeps
    | with_reducible apply State.wr_keeps
    | with_reducible apply State.setSched_keeps
    | with_reducible apply State.disarmSched_keeps
    | with_reducible apply State.setSchedTarget_keeps

theorem execSchedArmEvent_keeps {tw : Touch} {s0 : State} (unit : Fin 8) (gen : Fin 8) (s : State) (hK : Keeps tw s0 s) :
    KeepsOut tw s0 (execSchedArmEvent unit gen s) := by
  unfold execSchedArmEvent
  try dsimp only
  repeat' first
    | with_reducible assumption
    | with_reducible refine KeepsOut.next ?_
    | with_reducible refine KeepsOut.ite (fun _ => ?_) (fun _ => ?_)
    | with_reducible refine Keeps.ite (fun _ => ?_) (fun _ => ?_)
    | with_reducible apply State.overrun_keeps
    | with_reducible apply State.up_keeps
    | with_reducible apply State.armSched_keeps

theorem execSyncSampleTx_keeps {tw : Touch} {s0 : State} (lane : Fin 8) (s : State) (hK : Keeps tw s0 s) :
    KeepsOut tw s0 (execSyncSampleTx lane s) := by
  unfold execSyncSampleTx
  try dsimp only
  repeat' first
    | with_reducible assumption
    | with_reducible refine KeepsOut.next ?_
    | with_reducible refine KeepsOut.ite (fun _ => ?_) (fun _ => ?_)
    | with_reducible refine Keeps.ite (fun _ => ?_) (fun _ => ?_)
    | with_reducible apply State.count_keeps
    | with_reducible apply State.spend_keeps
    | with_reducible apply State.launch_keeps
    | with_reducible apply State.emit_keeps
    | with_reducible refine Keeps.foldl (fun _ _ _ => ?_) ?_
    | with_reducible refine Keeps.foldl_fst (fun _ _ _ => ?_) ?_
    | with_reducible refine Keeps.foldl_snd (fun _ _ _ => ?_) ?_
    | split
    | intro _
    | fail_if_no_progress (with_reducible apply Keeps.upd)

theorem State.takeSample_keeps {tw : Touch} {s0 : State} (s : State) (t : Int) (v : Int) (time : Nat) (hK : Keeps tw s0 s) :
    Keeps tw s0 (State.takeSample s t v time) := by
  unfold State.takeSample
  try dsimp only
  repeat' first
    | with_reducible assumption
    | with_reducible refine Keeps.ite (fun _ => ?_) (fun _ => ?_)
    | with_reducible apply State.down_keeps
    | with_reducible apply State.loadPos_keeps
    | with_reducible apply State.showReel_keeps
    | with_reducible apply State.addOffset_keeps
    | with_reducible apply State.measure_keeps
    | with_reducible refine Keeps.foldl (fun _ _ _ => ?_) ?_
    | with_reducible refine Keeps.foldl_fst (fun _ _ _ => ?_) ?_
    | with_reducible refine Keeps.foldl_snd (fun _ _ _ => ?_) ?_
    | split
    | intro _
    | fail_if_no_progress (with_reducible apply Keeps.upd)

theorem State.syncSample_keeps {tw : Touch} {s0 : State} (s : State) (i : Nat) (sample : Nat) (d1 : Nat) (d2 : Nat) (arrival : Nat) (hK : Keeps tw s0 s) :
    Keeps tw s0 (State.syncSample s i sample d1 d2 arrival) := by
  unfold State.syncSample
  try dsimp only
  repeat' first
    | with_reducible assumption
    | with_reducible refine State.takeSeq_keeps_eq _ _ _ _ _ (by assumption) ?_
    | with_reducible refine Keeps.ite (fun _ => ?_) (fun _ => ?_)
    | with_reducible apply State.count_keeps
    | with_reducible apply State.takeSeq_keeps
    | with_reducible apply State.grant_keeps
    | with_reducible apply State.wr_keeps
    | with_reducible apply State.takeSample_keeps
    | with_reducible refine Keeps.foldl (fun _ _ _ => ?_) ?_
    | with_reducible refine Keeps.foldl_fst (fun _ _ _ => ?_) ?_
    | with_reducible refine Keeps.foldl_snd (fun _ _ _ => ?_) ?_
    | split

theorem execSyncSampleRx_keeps {tw : Touch} {s0 : State} (lane : Fin 8) (sample : BitVec 64) (data1 : BitVec 64) (data2 : BitVec 64) (arrival : BitVec 64) (s : State) (hK : Keeps tw s0 s) :
    KeepsOut tw s0 (execSyncSampleRx lane sample data1 data2 arrival s) := by
  unfold execSyncSampleRx
  try dsimp only
  repeat' first
    | with_reducible assumption
    | with_reducible refine KeepsOut.next ?_
    | with_reducible refine KeepsOut.ite (fun _ => ?_) (fun _ => ?_)
    | with_reducible refine Keeps.ite (fun _ => ?_) (fun _ => ?_)
    | with_reducible apply State.syncSample_keeps

theorem execFollowLost_keeps {tw : Touch} {s0 : State} (s : State) (hK : Keeps tw s0 s) :
    KeepsOut tw s0 (execFollowLost s) := by
  unfold execFollowLost
  try dsimp only
  repeat' first
    | with_reducible assumption
    | with_reducible refine KeepsOut.next ?_
    | with_reducible refine KeepsOut.ite (fun _ => ?_) (fun _ => ?_)
    | with_reducible refine Keeps.ite (fun _ => ?_) (fun _ => ?_)
    | with_reducible apply State.up_keeps
    | with_reducible refine Keeps.foldl (fun _ _ _ => ?_) ?_
    | with_reducible refine Keeps.foldl_fst (fun _ _ _ => ?_) ?_
    | with_reducible refine Keeps.foldl_snd (fun _ _ _ => ?_) ?_
    | split
    | intro _
    | fail_if_no_progress (with_reducible apply Keeps.upd)

theorem execFollowCoastEnd_keeps {tw : Touch} {s0 : State} (s : State) (hK : Keeps tw s0 s) :
    KeepsOut tw s0 (execFollowCoastEnd s) := by
  unfold execFollowCoastEnd
  try dsimp only
  repeat' first
    | with_reducible assumption
    | with_reducible refine KeepsOut.next ?_
    | with_reducible refine KeepsOut.ite (fun _ => ?_) (fun _ => ?_)
    | with_reducible refine Keeps.ite (fun _ => ?_) (fun _ => ?_)
    | with_reducible apply State.showReel_keeps
    | with_reducible apply State.enterStep_keeps
    | with_reducible apply State.down_keeps

end Sys2Proof.Machine
end

