-- ==== Sys2Proof/Laws/KeepsScree.lean ====
section
/-! SUPPORT. What the operations of Machine/Scree.lean keep of a state (Laws/Keeps.lean). -/

namespace Sys2Proof.Machine

theorem State.zCount_keeps {tw : Touch} {s0 : State} (s : State) (k : Nat) (n : Nat) (hK : Keeps tw s0 s) :
    Keeps tw s0 (State.zCount s k n) := by
  unfold State.zCount
  try dsimp only
  repeat' first
    | with_reducible assumption
    | with_reducible refine Keeps.ite (fun _ => ?_) (fun _ => ?_)
    | with_reducible apply State.count_keeps

theorem State.setScreeCh_keeps {tw : Touch} {s0 : State} (s : State) (h : Nat) (c : ScreeCh) (hK : Keeps tw s0 s) :
    Keeps tw s0 (State.setScreeCh s h c) := by
  unfold State.setScreeCh
  try dsimp only
  repeat' first
    | with_reducible assumption
    | with_reducible refine Keeps.ite (fun _ => ?_) (fun _ => ?_)
    | with_reducible refine Keeps.foldl (fun _ _ _ => ?_) ?_
    | with_reducible refine Keeps.foldl_fst (fun _ _ _ => ?_) ?_
    | with_reducible refine Keeps.foldl_snd (fun _ _ _ => ?_) ?_
    | split
    | intro _
    | fail_if_no_progress (with_reducible apply Keeps.upd)

theorem State.showFloor_keeps {tw : Touch} {s0 : State} (s : State) (hK : Keeps tw s0 s) :
    Keeps tw s0 (State.showFloor s) := by
  unfold State.showFloor
  try dsimp only
  repeat' first
    | with_reducible assumption
    | with_reducible refine Keeps.ite (fun _ => ?_) (fun _ => ?_)
    | with_reducible apply forN_keeps
    | with_reducible apply State.wr_keeps
    | with_reducible refine Keeps.foldl (fun _ _ _ => ?_) ?_
    | with_reducible refine Keeps.foldl_fst (fun _ _ _ => ?_) ?_
    | with_reducible refine Keeps.foldl_snd (fun _ _ _ => ?_) ?_
    | split
    | intro _

theorem State.orderSwap_keeps {tw : Touch} {s0 : State} (s : State) (hK : Keeps tw s0 s) :
    Keeps tw s0 (State.orderSwap s) := by
  unfold State.orderSwap
  try dsimp only
  repeat' first
    | with_reducible assumption
    | with_reducible refine Keeps.ite (fun _ => ?_) (fun _ => ?_)
    | with_reducible apply State.setReg_keeps
    | with_reducible apply State.resetSpan_keeps
    | with_reducible apply State.wr_keeps
    | with_reducible apply State.showFloor_keeps
    | with_reducible apply State.up_keeps
    | with_reducible refine Keeps.foldl (fun _ _ _ => ?_) ?_
    | with_reducible refine Keeps.foldl_fst (fun _ _ _ => ?_) ?_
    | with_reducible refine Keeps.foldl_snd (fun _ _ _ => ?_) ?_
    | split
    | intro _
    | fail_if_no_progress (with_reducible apply Keeps.upd)

theorem State.applyOrder_keeps {tw : Touch} {s0 : State} (s : State) (hK : Keeps tw s0 s) :
    Keeps tw s0 (State.applyOrder s) := by
  unfold State.applyOrder
  try dsimp only
  repeat' first
    | with_reducible assumption
    | with_reducible refine Keeps.ite (fun _ => ?_) (fun _ => ?_)
    | with_reducible apply State.down_keeps
    | with_reducible apply State.orderSwap_keeps
    | with_reducible apply State.wr_keeps
    | with_reducible apply State.up_keeps
    | with_reducible refine Keeps.foldl (fun _ _ _ => ?_) ?_
    | with_reducible refine Keeps.foldl_fst (fun _ _ _ => ?_) ?_
    | with_reducible refine Keeps.foldl_snd (fun _ _ _ => ?_) ?_
    | split

theorem execScreeCopyDone_keeps {tw : Touch} {s0 : State} (s : State) (hK : Keeps tw s0 s) :
    KeepsOut tw s0 (execScreeCopyDone s) := by
  unfold execScreeCopyDone
  try dsimp only
  repeat' first
    | with_reducible assumption
    | with_reducible refine KeepsOut.next ?_
    | with_reducible refine KeepsOut.ite (fun _ => ?_) (fun _ => ?_)
    | with_reducible refine Keeps.ite (fun _ => ?_) (fun _ => ?_)
    | with_reducible apply State.setReg_keeps
    | with_reducible apply State.resetSpan_keeps
    | with_reducible apply State.down_keeps
    | with_reducible refine Keeps.foldl (fun _ _ _ => ?_) ?_
    | with_reducible refine Keeps.foldl_fst (fun _ _ _ => ?_) ?_
    | with_reducible refine Keeps.foldl_snd (fun _ _ _ => ?_) ?_
    | split
    | intro _
    | fail_if_no_progress (with_reducible apply Keeps.upd)

theorem State.orderCommit_keeps {tw : Touch} {s0 : State} (s : State) (hK : Keeps tw s0 s) :
    Keeps tw s0 (State.orderCommit s) := by
  unfold State.orderCommit
  try dsimp only
  repeat' first
    | with_reducible assumption
    | with_reducible refine Keeps.ite (fun _ => ?_) (fun _ => ?_)
    | with_reducible apply State.up_keeps

theorem execScreeCommit_keeps {tw : Touch} {s0 : State} (s : State) (hK : Keeps tw s0 s) :
    KeepsOut tw s0 (execScreeCommit s) := by
  unfold execScreeCommit
  try dsimp only
  repeat' first
    | with_reducible assumption
    | with_reducible refine KeepsOut.next ?_
    | with_reducible refine KeepsOut.ite (fun _ => ?_) (fun _ => ?_)
    | with_reducible refine Keeps.ite (fun _ => ?_) (fun _ => ?_)
    | with_reducible apply State.orderCommit_keeps

theorem execScreeCommitEvent_keeps {tw : Touch} {s0 : State} (s : State) (hK : Keeps tw s0 s) :
    KeepsOut tw s0 (execScreeCommitEvent s) := by
  unfold execScreeCommitEvent
  try dsimp only
  repeat' first
    | with_reducible assumption
    | with_reducible refine KeepsOut.next ?_
    | with_reducible refine KeepsOut.ite (fun _ => ?_) (fun _ => ?_)
    | with_reducible refine Keeps.ite (fun _ => ?_) (fun _ => ?_)
    | with_reducible apply State.orderCommit_keeps

theorem State.writeBeam_keeps {tw : Touch} {s0 : State} (s : State) (x : Nat) (entry : Nat) (hK : Keeps tw s0 s) :
    Keeps tw s0 (State.writeBeam s x entry) := by
  unfold State.writeBeam
  try dsimp only
  repeat' first
    | with_reducible assumption
    | with_reducible refine Keeps.ite (fun _ => ?_) (fun _ => ?_)
    | with_reducible apply State.wr_keeps
    | with_reducible refine Keeps.foldl (fun _ _ _ => ?_) ?_
    | with_reducible refine Keeps.foldl_fst (fun _ _ _ => ?_) ?_
    | with_reducible refine Keeps.foldl_snd (fun _ _ _ => ?_) ?_
    | split
    | intro _
    | fail_if_no_progress (with_reducible apply Keeps.upd)

theorem State.showColumn_keeps {tw : Touch} {s0 : State} (s : State) (c : Nat) (hK : Keeps tw s0 s) :
    Keeps tw s0 (State.showColumn s c) := by
  unfold State.showColumn
  try dsimp only
  repeat' first
    | with_reducible assumption
    | with_reducible refine Keeps.ite (fun _ => ?_) (fun _ => ?_)
    | with_reducible apply State.wr_keeps

theorem State.showDegraded_keeps {tw : Touch} {s0 : State} (s : State) (hK : Keeps tw s0 s) :
    Keeps tw s0 (State.showDegraded s) := by
  unfold State.showDegraded
  try dsimp only
  repeat' first
    | with_reducible assumption
    | with_reducible refine Keeps.ite (fun _ => ?_) (fun _ => ?_)
    | with_reducible apply State.wr_keeps
    | with_reducible apply State.down_keeps

theorem State.showColumns_keeps {tw : Touch} {s0 : State} (s : State) (hK : Keeps tw s0 s) :
    Keeps tw s0 (State.showColumns s) := by
  unfold State.showColumns
  try dsimp only
  repeat' first
    | with_reducible assumption
    | with_reducible refine Keeps.ite (fun _ => ?_) (fun _ => ?_)
    | with_reducible apply State.showDegraded_keeps
    | with_reducible apply forN_keeps
    | with_reducible apply State.showColumn_keeps
    | with_reducible refine Keeps.foldl (fun _ _ _ => ?_) ?_
    | with_reducible refine Keeps.foldl_fst (fun _ _ _ => ?_) ?_
    | with_reducible refine Keeps.foldl_snd (fun _ _ _ => ?_) ?_
    | split
    | intro _

theorem State.setClass_keeps {tw : Touch} {s0 : State} (s : State) (x : Nat) (cls : Nat) (hK : Keeps tw s0 s) :
    Keeps tw s0 (State.setClass s x cls) := by
  unfold State.setClass
  try dsimp only
  repeat' first
    | with_reducible assumption
    | with_reducible refine Keeps.ite (fun _ => ?_) (fun _ => ?_)
    | with_reducible apply State.wr_keeps
    | with_reducible apply State.showDegraded_keeps
    | with_reducible apply State.showColumn_keeps
    | with_reducible refine Keeps.foldl (fun _ _ _ => ?_) ?_
    | with_reducible refine Keeps.foldl_fst (fun _ _ _ => ?_) ?_
    | with_reducible refine Keeps.foldl_snd (fun _ _ _ => ?_) ?_
    | split
    | intro _
    | fail_if_no_progress (with_reducible apply Keeps.upd)

theorem State.classify_keeps {tw : Touch} {s0 : State} (s : State) (x : Nat) (v : Option Nat) (hK : Keeps tw s0 s) :
    Keeps tw s0 (State.classify s x v) := by
  unfold State.classify
  try dsimp only
  repeat' first
    | with_reducible assumption
    | with_reducible refine Keeps.ite (fun _ => ?_) (fun _ => ?_)
    | with_reducible apply State.wr_keeps
    | with_reducible apply State.setClass_keeps
    | with_reducible refine Keeps.foldl (fun _ _ _ => ?_) ?_
    | with_reducible refine Keeps.foldl_fst (fun _ _ _ => ?_) ?_
    | with_reducible refine Keeps.foldl_snd (fun _ _ _ => ?_) ?_
    | split
    | intro _
    | fail_if_no_progress (with_reducible apply Keeps.upd)

theorem State.forceBeam_keeps {tw : Touch} {s0 : State} (s : State) (x : Nat) (f : Nat) (hK : Keeps tw s0 s) :
    Keeps tw s0 (State.forceBeam s x f) := by
  unfold State.forceBeam
  try dsimp only
  repeat' first
    | with_reducible assumption
    | with_reducible refine Keeps.ite (fun _ => ?_) (fun _ => ?_)
    | with_reducible apply State.wr_keeps
    | with_reducible apply State.setClass_keeps

theorem State.screeEnter_keeps {tw : Touch} {s0 : State} (s : State) (hK : Keeps tw s0 s) :
    Keeps tw s0 (State.screeEnter s) := by
  unfold State.screeEnter
  try dsimp only
  repeat' first
    | with_reducible assumption
    | with_reducible refine Keeps.ite (fun _ => ?_) (fun _ => ?_)
    | with_reducible apply forN_keeps
    | with_reducible apply State.wr_keeps
    | with_reducible apply State.showColumns_keeps
    | with_reducible refine Keeps.foldl (fun _ _ _ => ?_) ?_
    | with_reducible refine Keeps.foldl_fst (fun _ _ _ => ?_) ?_
    | with_reducible refine Keeps.foldl_snd (fun _ _ _ => ?_) ?_
    | split
    | intro _
    | fail_if_no_progress (with_reducible apply Keeps.upd)

theorem State.rebuildColumn_keeps {tw : Touch} {s0 : State} (s : State) (c : Nat) (hK : Keeps tw s0 s) :
    Keeps tw s0 (State.rebuildColumn s c) := by
  unfold State.rebuildColumn
  try dsimp only
  repeat' first
    | with_reducible assumption
    | with_reducible refine Keeps.ite (fun _ => ?_) (fun _ => ?_)
    | with_reducible apply forAll_keeps
    | with_reducible apply State.writeBeam_keeps
    | with_reducible refine Keeps.foldl (fun _ _ _ => ?_) ?_
    | with_reducible refine Keeps.foldl_fst (fun _ _ _ => ?_) ?_
    | with_reducible refine Keeps.foldl_snd (fun _ _ _ => ?_) ?_
    | split
    | intro _

theorem State.showMeas_keeps {tw : Touch} {s0 : State} (s : State) (hK : Keeps tw s0 s) :
    Keeps tw s0 (State.showMeas s) := by
  unfold State.showMeas
  try dsimp only
  repeat' first
    | with_reducible assumption
    | with_reducible refine Keeps.ite (fun _ => ?_) (fun _ => ?_)
    | with_reducible apply State.wr_keeps

theorem execTableRebuildDone_keeps {tw : Touch} {s0 : State} (s : State) (hK : Keeps tw s0 s) :
    KeepsOut tw s0 (execTableRebuildDone s) := by
  unfold execTableRebuildDone
  try dsimp only
  repeat' first
    | with_reducible assumption
    | with_reducible refine KeepsOut.next ?_
    | with_reducible refine KeepsOut.ite (fun _ => ?_) (fun _ => ?_)
    | with_reducible refine Keeps.ite (fun _ => ?_) (fun _ => ?_)
    | with_reducible apply forAll_keeps
    | with_reducible apply State.rebuildColumn_keeps
    | with_reducible apply State.wr_keeps
    | with_reducible apply State.showMeas_keeps
    | with_reducible apply State.up_keeps
    | with_reducible apply State.event_keeps
    | with_reducible apply State.orderCommit_keeps
    | with_reducible apply State.down_keeps
    | with_reducible refine Keeps.foldl (fun _ _ _ => ?_) ?_
    | with_reducible refine Keeps.foldl_fst (fun _ _ _ => ?_) ?_
    | with_reducible refine Keeps.foldl_snd (fun _ _ _ => ?_) ?_
    | split
    | intro _
    | fail_if_no_progress (with_reducible apply Keeps.upd)

theorem State.sendDrvCtrl_keeps {tw : Touch} {s0 : State} (s : State) (h : Nat) (ctag : Nat) (write : Bool) (addr : Nat) (data : Nat) (hK : Keeps tw s0 s) :
    Keeps tw s0 (State.sendDrvCtrl s h ctag write addr data) := by
  unfold State.sendDrvCtrl
  try dsimp only
  repeat' first
    | with_reducible assumption
    | with_reducible refine Keeps.ite (fun _ => ?_) (fun _ => ?_)
    | with_reducible apply State.emit_keeps

theorem State.sendStart_keeps {tw : Touch} {s0 : State} (s : State) (h : Nat) (hK : Keeps tw s0 s) :
    Keeps tw s0 (State.sendStart s h) := by
  unfold State.sendStart
  try dsimp only
  repeat' first
    | with_reducible assumption
    | with_reducible refine Keeps.ite (fun _ => ?_) (fun _ => ?_)
    | with_reducible apply State.setScreeCh_keeps
    | with_reducible apply State.sendDrvCtrl_keeps

theorem State.sendHost_keeps {tw : Touch} {s0 : State} (s : State) (hK : Keeps tw s0 s) :
    Keeps tw s0 (State.sendHost s) := by
  unfold State.sendHost
  try dsimp only
  repeat' first
    | with_reducible assumption
    | with_reducible refine Keeps.ite (fun _ => ?_) (fun _ => ?_)
    | with_reducible apply State.setScreeCh_keeps
    | with_reducible apply State.sendDrvCtrl_keeps
    | with_reducible apply State.wr_keeps
    | with_reducible refine Keeps.foldl (fun _ _ _ => ?_) ?_
    | with_reducible refine Keeps.foldl_fst (fun _ _ _ => ?_) ?_
    | with_reducible refine Keeps.foldl_snd (fun _ _ _ => ?_) ?_
    | split
    | intro _
    | fail_if_no_progress (with_reducible apply Keeps.upd)

theorem execScreeDctlGo_keeps {tw : Touch} {s0 : State} (value : Word) (s : State) (hK : Keeps tw s0 s) :
    KeepsOut tw s0 (execScreeDctlGo value s) := by
  unfold execScreeDctlGo
  try dsimp only
  repeat' first
    | with_reducible assumption
    | with_reducible refine KeepsOut.next ?_
    | with_reducible refine KeepsOut.ite (fun _ => ?_) (fun _ => ?_)
    | with_reducible refine Keeps.ite (fun _ => ?_) (fun _ => ?_)
    | with_reducible apply State.accessFault_keeps
    | with_reducible apply State.wr_keeps
    | with_reducible apply State.up_keeps
    | with_reducible apply State.sendHost_keeps
    | with_reducible refine Keeps.foldl (fun _ _ _ => ?_) ?_
    | with_reducible refine Keeps.foldl_fst (fun _ _ _ => ?_) ?_
    | with_reducible refine Keeps.foldl_snd (fun _ _ _ => ?_) ?_
    | split
    | intro _
    | fail_if_no_progress (with_reducible apply Keeps.upd)

theorem execDrvCtrlSend_keeps {tw : Touch} {s0 : State} (s : State) (hK : Keeps tw s0 s) :
    KeepsOut tw s0 (execDrvCtrlSend s) := by
  unfold execDrvCtrlSend
  try dsimp only
  repeat' first
    | with_reducible assumption
    | with_reducible refine KeepsOut.next ?_
    | with_reducible refine KeepsOut.ite (fun _ => ?_) (fun _ => ?_)
    | with_reducible refine Keeps.ite (fun _ => ?_) (fun _ => ?_)
    | with_reducible apply State.sendHost_keeps

theorem State.endHost_keeps {tw : Touch} {s0 : State} (s : State) (h : Nat) (result : Nat) (hK : Keeps tw s0 s) :
    Keeps tw s0 (State.endHost s h result) := by
  unfold State.endHost
  try dsimp only
  repeat' first
    | with_reducible assumption
    | with_reducible refine Keeps.ite (fun _ => ?_) (fun _ => ?_)
    | with_reducible apply State.setScreeCh_keeps
    | with_reducible apply State.wr_keeps
    | with_reducible apply State.down_keeps
    | with_reducible apply State.sendStart_keeps

theorem State.ackBad_keeps {tw : Touch} {s0 : State} (s : State) (h : Nat) (hK : Keeps tw s0 s) :
    Keeps tw s0 (State.ackBad s h) := by
  unfold State.ackBad
  try dsimp only
  repeat' first
    | with_reducible assumption
    | with_reducible refine Keeps.ite (fun _ => ?_) (fun _ => ?_)
    | with_reducible apply State.count_keeps

theorem State.showBuffer_keeps {tw : Touch} {s0 : State} (s : State) (h : Nat) (hK : Keeps tw s0 s) :
    Keeps tw s0 (State.showBuffer s h) := by
  unfold State.showBuffer
  try dsimp only
  repeat' first
    | with_reducible assumption
    | with_reducible refine Keeps.ite (fun _ => ?_) (fun _ => ?_)
    | with_reducible apply State.wr_keeps
    | with_reducible apply State.up_keeps
    | with_reducible apply State.peak_keeps

theorem State.takeBack_keeps {tw : Touch} {s0 s t : State} {h : Nat} {ack : Bool} {m : BackMsg} (he : s.takeBack h ack = some (m, t))
    (hK : Keeps tw s0 s) : Keeps tw s0 t := by
  unfold State.takeBack at he
  dsimp only at he
  split at he
  · split at he
    · cases he
      exact State.showBuffer_keeps _ _ (State.setScreeCh_keeps s h _ hK)
    · cases he
  · cases he


theorem execDrvAckRx_keeps {tw : Touch} {s0 : State} (channel : Fin 48) (s : State) (hK : Keeps tw s0 s) :
    KeepsOut tw s0 (execDrvAckRx channel s) := by
  unfold execDrvAckRx
  dsimp only
  split
  · exact KeepsOut.next hK
  · have h := State.takeBack_keeps (by assumption) hK
    split
    · refine KeepsOut.ite (fun _ => KeepsOut.next ?_) (fun _ => ?_)
      · exact State.endHost_keeps _ _ _ (State.wr_keeps _ _ _ _ h)
      · exact KeepsOut.ite (fun _ => KeepsOut.next (State.setScreeCh_keeps _ _ _ h)) (fun _ => KeepsOut.next (State.ackBad_keeps _ _ h))
    · exact KeepsOut.next (State.ackBad_keeps _ _ h)

theorem execDrvCtrlTimeout_keeps {tw : Touch} {s0 : State} (channel : Fin 48) (start : Bool) (s : State) (hK : Keeps tw s0 s) :
    KeepsOut tw s0 (execDrvCtrlTimeout channel start s) := by
  unfold execDrvCtrlTimeout
  try dsimp only
  repeat' first
    | with_reducible assumption
    | with_reducible refine KeepsOut.next ?_
    | with_reducible refine KeepsOut.ite (fun _ => ?_) (fun _ => ?_)
    | with_reducible refine Keeps.ite (fun _ => ?_) (fun _ => ?_)
    | with_reducible apply State.zCount_keeps
    | with_reducible apply State.setScreeCh_keeps
    | with_reducible apply State.endHost_keeps

theorem State.startCycle_keeps {tw : Touch} {s0 : State} (s : State) (gen : Nat) (hK : Keeps tw s0 s) :
    Keeps tw s0 (State.startCycle s gen) := by
  unfold State.startCycle
  try dsimp only
  repeat' first
    | with_reducible assumption
    | with_reducible refine Keeps.ite (fun _ => ?_) (fun _ => ?_)
    | with_reducible apply State.wr_keeps
    | with_reducible apply forAll_keeps
    | with_reducible apply State.setScreeCh_keeps
    | with_reducible apply State.zCount_keeps
    | with_reducible apply State.sendStart_keeps
    | with_reducible refine Keeps.foldl (fun _ _ _ => ?_) ?_
    | with_reducible refine Keeps.foldl_fst (fun _ _ _ => ?_) ?_
    | with_reducible refine Keeps.foldl_snd (fun _ _ _ => ?_) ?_
    | split
    | intro _
    | fail_if_no_progress (with_reducible apply Keeps.upd)

theorem execMeasCycleStart_keeps {tw : Touch} {s0 : State} (s : State) (hK : Keeps tw s0 s) :
    KeepsOut tw s0 (execMeasCycleStart s) := by
  unfold execMeasCycleStart
  try dsimp only
  repeat' first
    | with_reducible assumption
    | with_reducible refine KeepsOut.next ?_
    | with_reducible refine KeepsOut.ite (fun _ => ?_) (fun _ => ?_)
    | with_reducible refine Keeps.ite (fun _ => ?_) (fun _ => ?_)
    | with_reducible apply State.startCycle_keeps

theorem execMeasNow_keeps {tw : Touch} {s0 : State} (s : State) (hK : Keeps tw s0 s) :
    KeepsOut tw s0 (execMeasNow s) := by
  unfold execMeasNow
  try dsimp only
  repeat' first
    | with_reducible assumption
    | with_reducible refine KeepsOut.next ?_
    | with_reducible refine KeepsOut.ite (fun _ => ?_) (fun _ => ?_)
    | with_reducible refine Keeps.ite (fun _ => ?_) (fun _ => ?_)
    | with_reducible apply State.startCycle_keeps

theorem execMeasEvent_keeps {tw : Touch} {s0 : State} (gen : Fin 8) (s : State) (hK : Keeps tw s0 s) :
    KeepsOut tw s0 (execMeasEvent gen s) := by
  unfold execMeasEvent
  try dsimp only
  repeat' first
    | with_reducible assumption
    | with_reducible refine KeepsOut.next ?_
    | with_reducible refine KeepsOut.ite (fun _ => ?_) (fun _ => ?_)
    | with_reducible refine Keeps.ite (fun _ => ?_) (fun _ => ?_)
    | with_reducible apply State.startCycle_keeps
    | with_reducible apply State.overrun_keeps

theorem execMeasDeferExpiry_keeps {tw : Touch} {s0 : State} (channel : Fin 48) (s : State) (hK : Keeps tw s0 s) :
    KeepsOut tw s0 (execMeasDeferExpiry channel s) := by
  unfold execMeasDeferExpiry
  try dsimp only
  repeat' first
    | with_reducible assumption
    | with_reducible refine KeepsOut.next ?_
    | with_reducible refine KeepsOut.ite (fun _ => ?_) (fun _ => ?_)
    | with_reducible refine Keeps.ite (fun _ => ?_) (fun _ => ?_)
    | with_reducible apply State.sendStart_keeps

theorem execIdleMeasRx_keeps {tw : Touch} {s0 : State} (channel : Fin 48) (s : State) (hK : Keeps tw s0 s) :
    KeepsOut tw s0 (execIdleMeasRx channel s) := by
  unfold execIdleMeasRx
  dsimp only
  split
  · exact KeepsOut.next hK
  · have h := State.takeBack_keeps (by assumption) hK
    refine KeepsOut.ite (fun _ => KeepsOut.next (State.zCount_keeps _ _ _ h)) (fun _ => KeepsOut.next ?_)
    refine forAll_keeps (fun e t ht => forN_keeps (fun i u hu => ?_) ht) ?_
    · exact Keeps.ite (fun _ => hu) (fun _ => Keeps.upd hu)
    · exact Keeps.ite (fun _ => h) (fun _ => State.setScreeCh_keeps _ _ _ h)

theorem State.endCycle_keeps {tw : Touch} {s0 : State} (s : State) (cut : Bool) (hK : Keeps tw s0 s) :
    Keeps tw s0 (State.endCycle s cut) := by
  unfold State.endCycle
  try dsimp only
  repeat' first
    | with_reducible assumption
    | with_reducible refine Keeps.ite (fun _ => ?_) (fun _ => ?_)
    | with_reducible apply State.zCount_keeps
    | with_reducible apply forAll_keeps
    | with_reducible apply State.classify_keeps
    | with_reducible apply State.wr_keeps
    | with_reducible apply State.event_keeps
    | with_reducible apply State.setScreeCh_keeps
    | with_reducible apply State.showMeas_keeps
    | with_reducible refine Keeps.foldl (fun _ _ _ => ?_) ?_
    | with_reducible refine Keeps.foldl_fst (fun _ _ _ => ?_) ?_
    | with_reducible refine Keeps.foldl_snd (fun _ _ _ => ?_) ?_
    | split
    | intro _
    | fail_if_no_progress (with_reducible apply Keeps.upd)

theorem execMeasCycleComplete_keeps {tw : Touch} {s0 : State} (s : State) (hK : Keeps tw s0 s) :
    KeepsOut tw s0 (execMeasCycleComplete s) := by
  unfold execMeasCycleComplete
  try dsimp only
  repeat' first
    | with_reducible assumption
    | with_reducible refine KeepsOut.next ?_
    | with_reducible refine KeepsOut.ite (fun _ => ?_) (fun _ => ?_)
    | with_reducible refine Keeps.ite (fun _ => ?_) (fun _ => ?_)
    | with_reducible apply State.endCycle_keeps

theorem execMeasTimeout_keeps {tw : Touch} {s0 : State} (s : State) (hK : Keeps tw s0 s) :
    KeepsOut tw s0 (execMeasTimeout s) := by
  unfold execMeasTimeout
  try dsimp only
  repeat' first
    | with_reducible assumption
    | with_reducible refine KeepsOut.next ?_
    | with_reducible refine KeepsOut.ite (fun _ => ?_) (fun _ => ?_)
    | with_reducible refine Keeps.ite (fun _ => ?_) (fun _ => ?_)
    | with_reducible apply State.endCycle_keeps

theorem State.closeWindow_keeps {tw : Touch} {s0 : State} (s : State) (hK : Keeps tw s0 s) :
    Keeps tw s0 (State.closeWindow s) := by
  unfold State.closeWindow
  try dsimp only
  repeat' first
    | with_reducible assumption
    | with_reducible refine Keeps.ite (fun _ => ?_) (fun _ => ?_)
    | with_reducible apply State.showMeas_keeps
    | with_reducible apply State.endCycle_keeps
    | with_reducible refine Keeps.foldl (fun _ _ _ => ?_) ?_
    | with_reducible refine Keeps.foldl_fst (fun _ _ _ => ?_) ?_
    | with_reducible refine Keeps.foldl_snd (fun _ _ _ => ?_) ?_
    | split
    | intro _
    | fail_if_no_progress (with_reducible apply Keeps.upd)

theorem State.backStart_keeps {tw : Touch} {s0 : State} (s : State) (h : Nat) (ack : Bool) (ctrl : Nat) (hK : Keeps tw s0 s) :
    Keeps tw s0 (State.backStart s h ack ctrl) := by
  unfold State.backStart
  try dsimp only
  repeat' first
    | with_reducible assumption
    | with_reducible refine Keeps.ite (fun _ => ?_) (fun _ => ?_)
    | with_reducible apply State.zCount_keeps
    | with_reducible apply State.setScreeCh_keeps
    | with_reducible apply State.showBuffer_keeps

theorem State.backData_keeps {tw : Touch} {s0 : State} (s : State) (h : Nat) (d : Nat) (hK : Keeps tw s0 s) :
    Keeps tw s0 (State.backData s h d).1 := by
  unfold State.backData
  try dsimp only
  repeat' first
    | with_reducible assumption
    | with_reducible refine Keeps.ite (fun _ => ?_) (fun _ => ?_)
    | with_reducible apply State.setScreeCh_keeps
    | with_reducible apply State.showBuffer_keeps
    | with_reducible refine Keeps.foldl (fun _ _ _ => ?_) ?_
    | with_reducible refine Keeps.foldl_fst (fun _ _ _ => ?_) ?_
    | with_reducible refine Keeps.foldl_snd (fun _ _ _ => ?_) ?_
    | split

theorem State.backData_keeps_eq {tw : Touch} {s0 : State} {tt : State} {res1 : Bool} (s : State) (h : Nat) (d : Nat) (he : State.backData s h d = (tt, res1)) (hK : Keeps tw s0 s) :
    Keeps tw s0 tt := by
  have := State.backData_keeps s h d hK 
  rw [he] at this
  exact this

theorem State.backBreak_keeps {tw : Touch} {s0 : State} (s : State) (h : Nat) (hK : Keeps tw s0 s) :
    Keeps tw s0 (State.backBreak s h) := by
  unfold State.backBreak
  try dsimp only
  repeat' first
    | with_reducible assumption
    | with_reducible refine Keeps.ite (fun _ => ?_) (fun _ => ?_)
    | with_reducible apply State.setScreeCh_keeps
    | with_reducible refine Keeps.foldl (fun _ _ _ => ?_) ?_
    | with_reducible refine Keeps.foldl_fst (fun _ _ _ => ?_) ?_
    | with_reducible refine Keeps.foldl_snd (fun _ _ _ => ?_) ?_
    | split

theorem State.showTemp_keeps {tw : Touch} {s0 : State} (s : State) (hK : Keeps tw s0 s) :
    Keeps tw s0 (State.showTemp s) := by
  unfold State.showTemp
  try dsimp only
  repeat' first
    | with_reducible assumption
    | with_reducible refine Keeps.ite (fun _ => ?_) (fun _ => ?_)
    | with_reducible apply State.wr_keeps
    | with_reducible refine Keeps.foldl (fun _ _ _ => ?_) ?_
    | with_reducible refine Keeps.foldl_fst (fun _ _ _ => ?_) ?_
    | with_reducible refine Keeps.foldl_snd (fun _ _ _ => ?_) ?_
    | split

theorem State.drvTemp_keeps {tw : Touch} {s0 : State} (s : State) (h : Nat) (temp : Nat) (warn : Bool) (crit : Bool) (hK : Keeps tw s0 s) :
    Keeps tw s0 (State.drvTemp s h temp warn crit) := by
  unfold State.drvTemp
  try dsimp only
  repeat' first
    | with_reducible assumption
    | with_reducible refine Keeps.ite (fun _ => ?_) (fun _ => ?_)
    | with_reducible apply State.setScreeCh_keeps
    | with_reducible apply State.zCount_keeps
    | with_reducible apply State.showTemp_keeps
    | with_reducible apply State.up_keeps
    | with_reducible apply State.event_keeps

theorem State.drvStale_keeps {tw : Touch} {s0 : State} (s : State) (h : Nat) (hK : Keeps tw s0 s) :
    Keeps tw s0 (State.drvStale s h) := by
  unfold State.drvStale
  try dsimp only
  repeat' first
    | with_reducible assumption
    | with_reducible refine Keeps.ite (fun _ => ?_) (fun _ => ?_)
    | with_reducible apply State.showTemp_keeps
    | with_reducible apply State.up_keeps
    | with_reducible apply State.setScreeCh_keeps

theorem execScreeWarnClear_keeps {tw : Touch} {s0 : State} (s : State) (hK : Keeps tw s0 s) :
    KeepsOut tw s0 (execScreeWarnClear s) := by
  unfold execScreeWarnClear
  try dsimp only
  repeat' first
    | with_reducible assumption
    | with_reducible refine KeepsOut.next ?_
    | with_reducible refine KeepsOut.ite (fun _ => ?_) (fun _ => ?_)
    | with_reducible refine Keeps.ite (fun _ => ?_) (fun _ => ?_)
    | with_reducible apply State.event_keeps
    | with_reducible apply State.down_keeps

theorem execCritClear_keeps {tw : Touch} {s0 : State} (s : State) (hK : Keeps tw s0 s) :
    KeepsOut tw s0 (execCritClear s) := by
  unfold execCritClear
  try dsimp only
  repeat' first
    | with_reducible assumption
    | with_reducible refine KeepsOut.next ?_
    | with_reducible refine KeepsOut.ite (fun _ => ?_) (fun _ => ?_)
    | with_reducible refine Keeps.ite (fun _ => ?_) (fun _ => ?_)
    | with_reducible apply State.event_keeps
    | with_reducible apply State.down_keeps

end Sys2Proof.Machine
end

