-- ==== Sys2Proof/Laws/KeepsWatermark.lean ====
section
/-! SUPPORT. What the operations of Machine/Watermark.lean keep of a state (Laws/Keeps.lean). -/

namespace Sys2Proof.Machine

theorem State.showSlotsUsed_keeps {tw : Touch} {s0 : State} (s : State) (hK : Keeps tw s0 s) :
    Keeps tw s0 (State.showSlotsUsed s) := by
  unfold State.showSlotsUsed
  try dsimp only
  repeat' first
    | with_reducible assumption
    | with_reducible refine Keeps.ite (fun _ => ?_) (fun _ => ?_)
    | with_reducible apply State.wr_keeps
    | with_reducible apply State.up_keeps

theorem State.setWmBand_keeps {tw : Touch} {s0 : State} (s : State) (b : WmBand) (hK : Keeps tw s0 s) :
    Keeps tw s0 (State.setWmBand s b) := by
  unfold State.setWmBand
  try dsimp only
  repeat' first
    | with_reducible assumption
    | with_reducible refine Keeps.ite (fun _ => ?_) (fun _ => ?_)
    | with_reducible refine Keeps.foldl (fun _ _ _ => ?_) ?_
    | with_reducible refine Keeps.foldl_fst (fun _ _ _ => ?_) ?_
    | with_reducible refine Keeps.foldl_snd (fun _ _ _ => ?_) ?_
    | split
    | intro _
    | fail_if_no_progress (with_reducible apply Keeps.upd)

theorem State.dropWmBand_keeps {tw : Touch} {s0 : State} (s : State) (b : WmBand) (hK : Keeps tw s0 s) :
    Keeps tw s0 (State.dropWmBand s b) := by
  unfold State.dropWmBand
  try dsimp only
  repeat' first
    | with_reducible assumption
    | with_reducible refine Keeps.ite (fun _ => ?_) (fun _ => ?_)
    | with_reducible apply State.mouldLook_keeps
    | with_reducible apply State.showSlotsUsed_keeps
    | with_reducible refine Keeps.foldl (fun _ _ _ => ?_) ?_
    | with_reducible refine Keeps.foldl_fst (fun _ _ _ => ?_) ?_
    | with_reducible refine Keeps.foldl_snd (fun _ _ _ => ?_) ?_
    | split
    | intro _
    | fail_if_no_progress (with_reducible apply Keeps.upd)

theorem State.excessBand_keeps {tw : Touch} {s0 : State} (s : State) (b : WmBand) (hK : Keeps tw s0 s) :
    Keeps tw s0 (State.excessBand s b) := by
  unfold State.excessBand
  try dsimp only
  repeat' first
    | with_reducible assumption
    | with_reducible refine Keeps.ite (fun _ => ?_) (fun _ => ?_)
    | with_reducible apply State.count_keeps
    | with_reducible apply State.dropWmBand_keeps
    | with_reducible apply State.bandReported_keeps

theorem State.wmPair_keeps {tw : Touch} {s0 : State} (s : State) (hK : Keeps tw s0 s) :
    Keeps tw s0 (State.wmPair s) := by
  unfold State.wmPair
  try dsimp only
  repeat' first
    | with_reducible assumption
    | with_reducible refine Keeps.ite (fun _ => ?_) (fun _ => ?_)
    | with_reducible apply State.up_keeps
    | with_reducible apply forAll_keeps
    | with_reducible apply State.excessBand_keeps
    | with_reducible refine Keeps.foldl (fun _ _ _ => ?_) ?_
    | with_reducible refine Keeps.foldl_fst (fun _ _ _ => ?_) ?_
    | with_reducible refine Keeps.foldl_snd (fun _ _ _ => ?_) ?_
    | split
    | intro _
    | fail_if_no_progress (with_reducible apply Keeps.upd)

theorem State.wmLine_keeps {tw : Touch} {s0 : State} (s : State) (k : Nat) (l : DoseLine) (y : Nat) (px : List Nat) (hK : Keeps tw s0 s) :
    Keeps tw s0 (State.wmLine s k l y px) := by
  unfold State.wmLine
  try dsimp only
  repeat' first
    | with_reducible assumption
    | with_reducible refine Keeps.ite (fun _ => ?_) (fun _ => ?_)
    | with_reducible apply State.wmPair_keeps
    | with_reducible apply State.showSlotsUsed_keeps
    | with_reducible apply State.setWmBand_keeps
    | with_reducible apply State.excessBand_keeps
    | with_reducible apply State.dropWmBand_keeps
    | with_reducible apply State.bandReported_keeps
    | with_reducible refine Keeps.foldl (fun _ _ _ => ?_) ?_
    | with_reducible refine Keeps.foldl_fst (fun _ _ _ => ?_) ?_
    | with_reducible refine Keeps.foldl_snd (fun _ _ _ => ?_) ?_
    | split
    | intro _
    | fail_if_no_progress (with_reducible apply Keeps.upd)

theorem State.kernelStep_keeps {tw : Touch} {s0 : State} (s : State) (k : Nat) (l : DoseLine) (hK : Keeps tw s0 s) :
    Keeps tw s0 (State.kernelStep s k l) := by
  unfold State.kernelStep
  try dsimp only
  repeat' first
    | with_reducible assumption
    | with_reducible refine Keeps.ite (fun _ => ?_) (fun _ => ?_)
    | with_reducible apply State.setKernel_keeps
    | with_reducible apply State.wmLine_keeps
    | with_reducible apply State.nodeCount_keeps

theorem execWmBandCheck_keeps {tw : Touch} {s0 : State} (band : Word) (s : State) (hK : Keeps tw s0 s) :
    KeepsOut tw s0 (execWmBandCheck band s) := by
  unfold execWmBandCheck
  try dsimp only
  repeat' first
    | with_reducible assumption
    | with_reducible refine KeepsOut.next ?_
    | with_reducible refine KeepsOut.ite (fun _ => ?_) (fun _ => ?_)
    | with_reducible refine Keeps.ite (fun _ => ?_) (fun _ => ?_)
    | with_reducible apply State.setWmBand_keeps
    | with_reducible apply State.count_keeps
    | with_reducible apply State.wr_keeps
    | with_reducible apply State.wr64_keeps
    | with_reducible refine Keeps.foldl (fun _ _ _ => ?_) ?_
    | with_reducible refine Keeps.foldl_fst (fun _ _ _ => ?_) ?_
    | with_reducible refine Keeps.foldl_snd (fun _ _ _ => ?_) ?_
    | split

theorem State.reportBand_keeps {tw : Touch} {s0 : State} (s : State) (t : WmStripe) (band : Nat) (cause : Option Nat) (hK : Keeps tw s0 s) :
    Keeps tw s0 (State.reportBand s t band cause) := by
  unfold State.reportBand
  try dsimp only
  repeat' first
    | with_reducible assumption
    | with_reducible refine Keeps.ite (fun _ => ?_) (fun _ => ?_)
    | with_reducible apply State.event_keeps
    | with_reducible apply State.count_keeps
    | with_reducible refine Keeps.foldl (fun _ _ _ => ?_) ?_
    | with_reducible refine Keeps.foldl_fst (fun _ _ _ => ?_) ?_
    | with_reducible refine Keeps.foldl_snd (fun _ _ _ => ?_) ?_
    | split
    | intro _
    | fail_if_no_progress (with_reducible apply Keeps.upd)

theorem execWmReleaseStart_keeps {tw : Touch} {s0 : State} (band : Word) (s : State) (hK : Keeps tw s0 s) :
    KeepsOut tw s0 (execWmReleaseStart band s) := by
  unfold execWmReleaseStart
  try dsimp only
  repeat' first
    | with_reducible assumption
    | with_reducible refine KeepsOut.next ?_
    | with_reducible refine KeepsOut.ite (fun _ => ?_) (fun _ => ?_)
    | with_reducible refine Keeps.ite (fun _ => ?_) (fun _ => ?_)
    | with_reducible apply State.setWmBand_keeps
    | with_reducible refine Keeps.foldl (fun _ _ _ => ?_) ?_
    | with_reducible refine Keeps.foldl_fst (fun _ _ _ => ?_) ?_
    | with_reducible refine Keeps.foldl_snd (fun _ _ _ => ?_) ?_
    | split

theorem State.vatWrite_keeps {tw : Touch} {s0 : State} (s : State) (y : Nat) (px : List Nat) (hK : Keeps tw s0 s) :
    Keeps tw s0 (State.vatWrite s y px) := by
  unfold State.vatWrite
  try dsimp only
  repeat' first
    | with_reducible assumption
    | with_reducible refine Keeps.ite (fun _ => ?_) (fun _ => ?_)
    | with_reducible refine Keeps.foldl (fun _ _ _ => ?_) ?_
    | with_reducible refine Keeps.foldl_fst (fun _ _ _ => ?_) ?_
    | with_reducible refine Keeps.foldl_snd (fun _ _ _ => ?_) ?_
    | split
    | intro _
    | fail_if_no_progress (with_reducible apply Keeps.upd)

theorem execWmBandReleased_keeps {tw : Touch} {s0 : State} (band : Word) (s : State) (hK : Keeps tw s0 s) :
    KeepsOut tw s0 (execWmBandReleased band s) := by
  unfold execWmBandReleased
  try dsimp only
  repeat' first
    | with_reducible assumption
    | with_reducible refine KeepsOut.next ?_
    | with_reducible refine KeepsOut.ite (fun _ => ?_) (fun _ => ?_)
    | with_reducible refine Keeps.ite (fun _ => ?_) (fun _ => ?_)
    | with_reducible apply State.vatWrite_keeps
    | with_reducible apply State.reportBand_keeps
    | with_reducible apply State.dropWmBand_keeps
    | with_reducible apply State.bandReported_keeps
    | with_reducible refine Keeps.foldl (fun _ _ _ => ?_) ?_
    | with_reducible refine Keeps.foldl_fst (fun _ _ _ => ?_) ?_
    | with_reducible refine Keeps.foldl_snd (fun _ _ _ => ?_) ?_
    | split

theorem execWmBandDeadline_keeps {tw : Touch} {s0 : State} (band : Word) (s : State) (hK : Keeps tw s0 s) :
    KeepsOut tw s0 (execWmBandDeadline band s) := by
  unfold execWmBandDeadline
  try dsimp only
  repeat' first
    | with_reducible assumption
    | with_reducible refine KeepsOut.next ?_
    | with_reducible refine KeepsOut.ite (fun _ => ?_) (fun _ => ?_)
    | with_reducible refine Keeps.ite (fun _ => ?_) (fun _ => ?_)
    | with_reducible apply State.setWmBand_keeps
    | with_reducible apply State.reportBand_keeps
    | with_reducible apply State.dropWmBand_keeps
    | with_reducible apply State.bandReported_keeps
    | with_reducible refine Keeps.foldl (fun _ _ _ => ?_) ?_
    | with_reducible refine Keeps.foldl_fst (fun _ _ _ => ?_) ?_
    | with_reducible refine Keeps.foldl_snd (fun _ _ _ => ?_) ?_
    | split
    | intro _
    | fail_if_no_progress (with_reducible apply Keeps.upd)

theorem State.wmStripeEnd_keeps {tw : Touch} {s0 : State} (s : State) (num : Nat) (hK : Keeps tw s0 s) :
    Keeps tw s0 (State.wmStripeEnd s num) := by
  unfold State.wmStripeEnd
  try dsimp only
  repeat' first
    | with_reducible assumption
    | with_reducible refine Keeps.ite (fun _ => ?_) (fun _ => ?_)
    | with_reducible apply forAll_keeps
    | with_reducible apply State.excessBand_keeps
    | with_reducible refine Keeps.foldl (fun _ _ _ => ?_) ?_
    | with_reducible refine Keeps.foldl_fst (fun _ _ _ => ?_) ?_
    | with_reducible refine Keeps.foldl_snd (fun _ _ _ => ?_) ?_
    | split
    | intro _
    | fail_if_no_progress (with_reducible apply Keeps.upd)

theorem State.wmStop_keeps {tw : Touch} {s0 : State} (s : State) (hK : Keeps tw s0 s) :
    Keeps tw s0 (State.wmStop s) := by
  unfold State.wmStop
  try dsimp only
  repeat' first
    | with_reducible assumption
    | with_reducible refine Keeps.ite (fun _ => ?_) (fun _ => ?_)
    | with_reducible apply State.showSlotsUsed_keeps
    | with_reducible refine Keeps.foldl (fun _ _ _ => ?_) ?_
    | with_reducible refine Keeps.foldl_fst (fun _ _ _ => ?_) ?_
    | with_reducible refine Keeps.foldl_snd (fun _ _ _ => ?_) ?_
    | split
    | intro _
    | fail_if_no_progress (with_reducible apply Keeps.upd)

end Sys2Proof.Machine
end

