-- ==== Sys2Proof/Laws/KeepsLaid.lean ====
section
/-! SUPPORT. What the operations of Machine/Laid.lean keep of a state (Laws/Keeps.lean). -/

namespace Sys2Proof.Machine

theorem State.vCount_keeps {tw : Touch} {s0 : State} (s : State) (k : Nat) (n : Nat) (hK : Keeps tw s0 s) :
    Keeps tw s0 (State.vCount s k n) := by
  unfold State.vCount
  try dsimp only
  repeat' first
    | with_reducible assumption
    | with_reducible refine Keeps.ite (fun _ => ?_) (fun _ => ?_)
    | with_reducible apply State.count_keeps

theorem State.laidRaise_keeps {tw : Touch} {s0 : State} (s : State) (p : Nat) (g : Nat) (hK : Keeps tw s0 s) :
    Keeps tw s0 (State.laidRaise s p g) := by
  unfold State.laidRaise
  try dsimp only
  repeat' first
    | with_reducible assumption
    | with_reducible refine Keeps.ite (fun _ => ?_) (fun _ => ?_)
    | with_reducible refine Keeps.foldl (fun _ _ _ => ?_) ?_
    | with_reducible refine Keeps.foldl_fst (fun _ _ _ => ?_) ?_
    | with_reducible refine Keeps.foldl_snd (fun _ _ _ => ?_) ?_
    | split
    | intro _
    | fail_if_no_progress (with_reducible apply Keeps.upd)

theorem State.laidEvents_keeps {tw : Touch} {s0 : State} (s : State) (hK : Keeps tw s0 s) :
    Keeps tw s0 (State.laidEvents s) := by
  unfold State.laidEvents
  try dsimp only
  repeat' first
    | with_reducible assumption
    | with_reducible refine Keeps.ite (fun _ => ?_) (fun _ => ?_)
    | with_reducible apply forAll_keeps
    | with_reducible apply State.event_keeps
    | with_reducible refine Keeps.foldl (fun _ _ _ => ?_) ?_
    | with_reducible refine Keeps.foldl_fst (fun _ _ _ => ?_) ?_
    | with_reducible refine Keeps.foldl_snd (fun _ _ _ => ?_) ?_
    | split
    | intro _
    | fail_if_no_progress (with_reducible apply Keeps.upd)

theorem State.laidState_keeps {tw : Touch} {s0 : State} (s : State) (x : Nat) (hK : Keeps tw s0 s) :
    Keeps tw s0 (State.laidState s x) := by
  unfold State.laidState
  try dsimp only
  repeat' first
    | with_reducible assumption
    | with_reducible refine Keeps.ite (fun _ => ?_) (fun _ => ?_)
    | with_reducible apply State.wr_keeps

theorem State.showCause_keeps {tw : Touch} {s0 : State} (s : State) (hK : Keeps tw s0 s) :
    Keeps tw s0 (State.showCause s) := by
  unfold State.showCause
  try dsimp only
  repeat' first
    | with_reducible assumption
    | with_reducible refine Keeps.ite (fun _ => ?_) (fun _ => ?_)
    | with_reducible apply State.wr_keeps

theorem State.setLineTime_keeps {tw : Touch} {s0 : State} (s : State) (t : Int) (hK : Keeps tw s0 s) :
    Keeps tw s0 (State.setLineTime s t) := by
  unfold State.setLineTime
  try dsimp only
  repeat' first
    | with_reducible assumption
    | with_reducible refine Keeps.ite (fun _ => ?_) (fun _ => ?_)
    | with_reducible apply State.wr_keeps
    | with_reducible refine Keeps.foldl (fun _ _ _ => ?_) ?_
    | with_reducible refine Keeps.foldl_fst (fun _ _ _ => ?_) ?_
    | with_reducible refine Keeps.foldl_snd (fun _ _ _ => ?_) ?_
    | split
    | intro _
    | fail_if_no_progress (with_reducible apply Keeps.upd)

theorem State.armRefused_keeps {tw : Touch} {s0 : State} (s : State) (cause : Nat) (g : Nat) (hK : Keeps tw s0 s) :
    Keeps tw s0 (State.armRefused s cause g) := by
  unfold State.armRefused
  try dsimp only
  repeat' first
    | with_reducible assumption
    | with_reducible refine Keeps.ite (fun _ => ?_) (fun _ => ?_)
    | with_reducible apply State.laidRaise_keeps
    | with_reducible apply State.up_keeps
    | with_reducible apply State.wr_keeps

theorem State.arm_keeps {tw : Touch} {s0 : State} (s : State) (g : Nat) (hK : Keeps tw s0 s) :
    Keeps tw s0 (State.arm s g) := by
  unfold State.arm
  try dsimp only
  repeat' first
    | with_reducible assumption
    | with_reducible refine Keeps.ite (fun _ => ?_) (fun _ => ?_)
    | with_reducible apply State.armRefused_keeps
    | with_reducible apply State.up_keeps
    | with_reducible apply State.laidState_keeps
    | with_reducible apply State.setLineTime_keeps
    | with_reducible refine Keeps.foldl (fun _ _ _ => ?_) ?_
    | with_reducible refine Keeps.foldl_fst (fun _ _ _ => ?_) ?_
    | with_reducible refine Keeps.foldl_snd (fun _ _ _ => ?_) ?_
    | split
    | intro _
    | fail_if_no_progress (with_reducible apply Keeps.upd)

theorem execLaidArm_keeps {tw : Touch} {s0 : State} (s : State) (hK : Keeps tw s0 s) :
    KeepsOut tw s0 (execLaidArm s) := by
  unfold execLaidArm
  try dsimp only
  repeat' first
    | with_reducible assumption
    | with_reducible refine KeepsOut.next ?_
    | with_reducible refine KeepsOut.ite (fun _ => ?_) (fun _ => ?_)
    | with_reducible refine Keeps.ite (fun _ => ?_) (fun _ => ?_)
    | with_reducible apply State.laidEvents_keeps
    | with_reducible apply State.arm_keeps

theorem execLaidArmEvent_keeps {tw : Touch} {s0 : State} (gen : Fin 8) (s : State) (hK : Keeps tw s0 s) :
    KeepsOut tw s0 (execLaidArmEvent gen s) := by
  unfold execLaidArmEvent
  try dsimp only
  repeat' first
    | with_reducible assumption
    | with_reducible refine KeepsOut.next ?_
    | with_reducible refine KeepsOut.ite (fun _ => ?_) (fun _ => ?_)
    | with_reducible refine Keeps.ite (fun _ => ?_) (fun _ => ?_)
    | with_reducible apply State.laidEvents_keeps
    | with_reducible apply State.arm_keeps

theorem State.disarm_keeps {tw : Touch} {s0 : State} (s : State) (hK : Keeps tw s0 s) :
    Keeps tw s0 (State.disarm s) := by
  unfold State.disarm
  try dsimp only
  repeat' first
    | with_reducible assumption
    | with_reducible refine Keeps.ite (fun _ => ?_) (fun _ => ?_)
    | with_reducible apply State.down_keeps
    | with_reducible apply State.showCause_keeps
    | with_reducible apply State.laidState_keeps
    | with_reducible refine Keeps.foldl (fun _ _ _ => ?_) ?_
    | with_reducible refine Keeps.foldl_fst (fun _ _ _ => ?_) ?_
    | with_reducible refine Keeps.foldl_snd (fun _ _ _ => ?_) ?_
    | split
    | intro _
    | fail_if_no_progress (with_reducible apply Keeps.upd)

theorem execLaidDisarm_keeps {tw : Touch} {s0 : State} (s : State) (hK : Keeps tw s0 s) :
    KeepsOut tw s0 (execLaidDisarm s) := by
  unfold execLaidDisarm
  try dsimp only
  repeat' first
    | with_reducible assumption
    | with_reducible refine KeepsOut.next ?_
    | with_reducible refine KeepsOut.ite (fun _ => ?_) (fun _ => ?_)
    | with_reducible refine Keeps.ite (fun _ => ?_) (fun _ => ?_)
    | with_reducible apply State.disarm_keeps

theorem State.showGaps_keeps {tw : Touch} {s0 : State} (s : State) (hK : Keeps tw s0 s) :
    Keeps tw s0 (State.showGaps s) := by
  unfold State.showGaps
  try dsimp only
  repeat' first
    | with_reducible assumption
    | with_reducible refine Keeps.ite (fun _ => ?_) (fun _ => ?_)
    | with_reducible apply State.wr_keeps
    | with_reducible apply State.up_keeps

theorem State.gap_keeps {tw : Touch} {s0 : State} (s : State) (kind : Nat) (cause : Nat) (first : Nat) (arg : Nat) (sub : Nat) (ns : Nat) (g : Nat) (hK : Keeps tw s0 s) :
    Keeps tw s0 (State.gap s kind cause first arg sub ns g) := by
  unfold State.gap
  try dsimp only
  repeat' first
    | with_reducible assumption
    | with_reducible refine Keeps.ite (fun _ => ?_) (fun _ => ?_)
    | with_reducible apply State.wr_keeps
    | with_reducible apply State.vCount_keeps
    | with_reducible apply State.showGaps_keeps
    | with_reducible apply State.up_keeps
    | with_reducible apply State.laidRaise_keeps
    | with_reducible refine Keeps.foldl (fun _ _ _ => ?_) ?_
    | with_reducible refine Keeps.foldl_fst (fun _ _ _ => ?_) ?_
    | with_reducible refine Keeps.foldl_snd (fun _ _ _ => ?_) ?_
    | split
    | intro _
    | fail_if_no_progress (with_reducible apply Keeps.upd)

theorem State.closeRun_keeps {tw : Touch} {s0 : State} (s : State) (hK : Keeps tw s0 s) :
    Keeps tw s0 (State.closeRun s) := by
  unfold State.closeRun
  try dsimp only
  repeat' first
    | with_reducible assumption
    | with_reducible refine Keeps.ite (fun _ => ?_) (fun _ => ?_)
    | with_reducible apply State.gap_keeps
    | with_reducible refine Keeps.foldl (fun _ _ _ => ?_) ?_
    | with_reducible refine Keeps.foldl_fst (fun _ _ _ => ?_) ?_
    | with_reducible refine Keeps.foldl_snd (fun _ _ _ => ?_) ?_
    | split
    | intro _
    | fail_if_no_progress (with_reducible apply Keeps.upd)

theorem State.blankLine_keeps {tw : Touch} {s0 : State} (s : State) (y : Nat) (cause : Nat) (g : Nat) (hK : Keeps tw s0 s) :
    Keeps tw s0 (State.blankLine s y cause g) := by
  unfold State.blankLine
  try dsimp only
  repeat' first
    | with_reducible assumption
    | with_reducible refine Keeps.ite (fun _ => ?_) (fun _ => ?_)
    | with_reducible apply State.up_keeps
    | with_reducible apply State.closeRun_keeps
    | with_reducible apply State.laidRaise_keeps
    | with_reducible refine Keeps.foldl (fun _ _ _ => ?_) ?_
    | with_reducible refine Keeps.foldl_fst (fun _ _ _ => ?_) ?_
    | with_reducible refine Keeps.foldl_snd (fun _ _ _ => ?_) ?_
    | split
    | intro _
    | fail_if_no_progress (with_reducible apply Keeps.upd)

theorem State.sendFrame_keeps {tw : Touch} {s0 : State} (s : State) (t : Nat) (h : Nat) (hK : Keeps tw s0 s) :
    Keeps tw s0 (State.sendFrame s t h) := by
  unfold State.sendFrame
  try dsimp only
  repeat' first
    | with_reducible assumption
    | with_reducible refine Keeps.ite (fun _ => ?_) (fun _ => ?_)
    | with_reducible apply State.wr_keeps
    | with_reducible apply State.emit_keeps
    | with_reducible apply forAll_keeps
    | with_reducible refine Keeps.foldl (fun _ _ _ => ?_) ?_
    | with_reducible refine Keeps.foldl_fst (fun _ _ _ => ?_) ?_
    | with_reducible refine Keeps.foldl_snd (fun _ _ _ => ?_) ?_
    | split
    | intro _

theorem State.setShotLine_keeps {tw : Touch} {s0 : State} (s : State) (x : ShotLine) (hK : Keeps tw s0 s) :
    Keeps tw s0 (State.setShotLine s x) := by
  unfold State.setShotLine
  try dsimp only
  repeat' first
    | with_reducible assumption
    | with_reducible refine Keeps.ite (fun _ => ?_) (fun _ => ?_)
    | with_reducible refine Keeps.foldl (fun _ _ _ => ?_) ?_
    | with_reducible refine Keeps.foldl_fst (fun _ _ _ => ?_) ?_
    | with_reducible refine Keeps.foldl_snd (fun _ _ _ => ?_) ?_
    | split
    | intro _
    | fail_if_no_progress (with_reducible apply Keeps.upd)

theorem State.vatReads_keeps {tw : Touch} {s0 : State} (s : State) (t : Nat) (hK : Keeps tw s0 s) :
    Keeps tw s0 (State.vatReads s t) := by
  unfold State.vatReads
  try dsimp only
  repeat' first
    | with_reducible assumption
    | with_reducible refine Keeps.ite (fun _ => ?_) (fun _ => ?_)
    | with_reducible apply forAll_keeps
    | with_reducible apply State.up_keeps
    | with_reducible apply State.vCount_keeps
    | with_reducible apply State.gap_keeps
    | with_reducible refine Keeps.foldl (fun _ _ _ => ?_) ?_
    | with_reducible refine Keeps.foldl_fst (fun _ _ _ => ?_) ?_
    | with_reducible refine Keeps.foldl_snd (fun _ _ _ => ?_) ?_
    | split
    | intro _

theorem State.buildFrames_keeps {tw : Touch} {s0 : State} (s : State) (t : Nat) (failed : List (Nat × Nat)) (crcBad : List Nat) (hK : Keeps tw s0 s) :
    Keeps tw s0 (State.buildFrames s t failed crcBad) := by
  unfold State.buildFrames
  try dsimp only
  repeat' first
    | with_reducible assumption
    | with_reducible refine Keeps.ite (fun _ => ?_) (fun _ => ?_)
    | with_reducible apply State.vatReads_keeps
    | with_reducible apply forAll_keeps
    | with_reducible apply State.sendFrame_keeps
    | with_reducible apply State.setShotLine_keeps
    | with_reducible refine Keeps.foldl (fun _ _ _ => ?_) ?_
    | with_reducible refine Keeps.foldl_fst (fun _ _ _ => ?_) ?_
    | with_reducible refine Keeps.foldl_snd (fun _ _ _ => ?_) ?_
    | split
    | intro _
    | fail_if_no_progress (with_reducible apply Keeps.upd)

theorem State.decideLine_keeps {tw : Touch} {s0 : State} (s : State) (y : Nat) (hK : Keeps tw s0 s) :
    Keeps tw s0 (State.decideLine s y) := by
  unfold State.decideLine
  try dsimp only
  repeat' first
    | with_reducible assumption
    | with_reducible refine Keeps.ite (fun _ => ?_) (fun _ => ?_)
    | with_reducible apply State.wr_keeps
    | with_reducible apply State.vCount_keeps
    | with_reducible apply State.closeRun_keeps
    | with_reducible apply State.blankLine_keeps
    | with_reducible refine Keeps.foldl (fun _ _ _ => ?_) ?_
    | with_reducible refine Keeps.foldl_fst (fun _ _ _ => ?_) ?_
    | with_reducible refine Keeps.foldl_snd (fun _ _ _ => ?_) ?_
    | split
    | intro _
    | fail_if_no_progress (with_reducible apply Keeps.upd)

theorem State.softStop_keeps {tw : Touch} {s0 : State} (s : State) (cause : Nat) (hK : Keeps tw s0 s) :
    Keeps tw s0 (State.softStop s cause) := by
  unfold State.softStop
  try dsimp only
  repeat' first
    | with_reducible assumption
    | with_reducible refine Keeps.ite (fun _ => ?_) (fun _ => ?_)
    | with_reducible apply State.showCause_keeps
    | with_reducible apply State.laidState_keeps
    | with_reducible refine Keeps.foldl (fun _ _ _ => ?_) ?_
    | with_reducible refine Keeps.foldl_fst (fun _ _ _ => ?_) ?_
    | with_reducible refine Keeps.foldl_snd (fun _ _ _ => ?_) ?_
    | split
    | intro _
    | fail_if_no_progress (with_reducible apply Keeps.upd)

theorem State.hardStop_keeps {tw : Touch} {s0 : State} (s : State) (cause : Nat) (g : Nat) (hK : Keeps tw s0 s) :
    Keeps tw s0 (State.hardStop s cause g) := by
  unfold State.hardStop
  try dsimp only
  repeat' first
    | with_reducible assumption
    | with_reducible refine Keeps.ite (fun _ => ?_) (fun _ => ?_)
    | with_reducible apply State.showCause_keeps
    | with_reducible apply State.laidState_keeps
    | with_reducible apply State.gap_keeps
    | with_reducible apply State.vCount_keeps
    | with_reducible apply forAll_keeps
    | with_reducible apply State.blankLine_keeps
    | with_reducible refine Keeps.foldl (fun _ _ _ => ?_) ?_
    | with_reducible refine Keeps.foldl_fst (fun _ _ _ => ?_) ?_
    | with_reducible refine Keeps.foldl_snd (fun _ _ _ => ?_) ?_
    | split
    | intro _
    | fail_if_no_progress (with_reducible apply Keeps.upd)

theorem execWarnArrive_keeps {tw : Touch} {s0 : State} (s : State) (hK : Keeps tw s0 s) :
    KeepsOut tw s0 (execWarnArrive s) := by
  unfold execWarnArrive
  try dsimp only
  repeat' first
    | with_reducible assumption
    | with_reducible refine KeepsOut.next ?_
    | with_reducible refine KeepsOut.ite (fun _ => ?_) (fun _ => ?_)
    | with_reducible refine Keeps.ite (fun _ => ?_) (fun _ => ?_)
    | with_reducible apply State.laidEvents_keeps
    | with_reducible apply State.softStop_keeps

theorem execCritArrive_keeps {tw : Touch} {s0 : State} (s : State) (hK : Keeps tw s0 s) :
    KeepsOut tw s0 (execCritArrive s) := by
  unfold execCritArrive
  try dsimp only
  repeat' first
    | with_reducible assumption
    | with_reducible refine KeepsOut.next ?_
    | with_reducible refine KeepsOut.ite (fun _ => ?_) (fun _ => ?_)
    | with_reducible refine Keeps.ite (fun _ => ?_) (fun _ => ?_)
    | with_reducible apply State.laidEvents_keeps
    | with_reducible apply State.hardStop_keeps

theorem execInterlock_keeps {tw : Touch} {s0 : State} (gen : Fin 8) (s : State) (hK : Keeps tw s0 s) :
    KeepsOut tw s0 (execInterlock gen s) := by
  unfold execInterlock
  try dsimp only
  repeat' first
    | with_reducible assumption
    | with_reducible refine KeepsOut.next ?_
    | with_reducible refine KeepsOut.ite (fun _ => ?_) (fun _ => ?_)
    | with_reducible refine Keeps.ite (fun _ => ?_) (fun _ => ?_)
    | with_reducible apply State.laidEvents_keeps
    | with_reducible apply State.hardStop_keeps

theorem State.compareLine_keeps {tw : Touch} {s0 : State} (s : State) (y : Nat) (hK : Keeps tw s0 s) :
    Keeps tw s0 (State.compareLine s y) := by
  unfold State.compareLine
  try dsimp only
  repeat' first
    | with_reducible assumption
    | with_reducible refine Keeps.ite (fun _ => ?_) (fun _ => ?_)
    | with_reducible apply State.vCount_keeps
    | with_reducible apply State.up_keeps
    | with_reducible apply State.wr_keeps
    | with_reducible apply State.gap_keeps
    | with_reducible refine Keeps.foldl (fun _ _ _ => ?_) ?_
    | with_reducible refine Keeps.foldl_fst (fun _ _ _ => ?_) ?_
    | with_reducible refine Keeps.foldl_snd (fun _ _ _ => ?_) ?_
    | split
    | intro _
    | fail_if_no_progress (with_reducible apply Keeps.upd)

theorem State.compareTo_keeps {tw : Touch} {s0 : State} (s : State) (n : Nat) (hK : Keeps tw s0 s) :
    Keeps tw s0 (State.compareTo s n) := by
  unfold State.compareTo
  try dsimp only
  repeat' first
    | with_reducible assumption
    | with_reducible refine Keeps.ite (fun _ => ?_) (fun _ => ?_)
    | with_reducible apply forN_keeps
    | with_reducible apply State.compareLine_keeps
    | with_reducible refine Keeps.foldl (fun _ _ _ => ?_) ?_
    | with_reducible refine Keeps.foldl_fst (fun _ _ _ => ?_) ?_
    | with_reducible refine Keeps.foldl_snd (fun _ _ _ => ?_) ?_
    | split
    | intro _

theorem State.stripeMark_keeps {tw : Touch} {s0 : State} (s : State) (num : Nat) (start : Bool) (hK : Keeps tw s0 s) :
    Keeps tw s0 (State.stripeMark s num start) := by
  unfold State.stripeMark
  try dsimp only
  repeat' first
    | with_reducible assumption
    | with_reducible refine Keeps.ite (fun _ => ?_) (fun _ => ?_)
    | with_reducible apply forAll_keeps
    | with_reducible apply State.emit_keeps
    | with_reducible refine Keeps.foldl (fun _ _ _ => ?_) ?_
    | with_reducible refine Keeps.foldl_fst (fun _ _ _ => ?_) ?_
    | with_reducible refine Keeps.foldl_snd (fun _ _ _ => ?_) ?_
    | split
    | intro _

theorem State.handover_keeps {tw : Touch} {s0 : State} (s : State) (hK : Keeps tw s0 s) :
    Keeps tw s0 (State.handover s).1 := by
  unfold State.handover
  try dsimp only
  repeat' first
    | with_reducible assumption
    | with_reducible refine Keeps.ite (fun _ => ?_) (fun _ => ?_)
    | with_reducible apply State.laidState_keeps
    | with_reducible apply State.armRefused_keeps
    | with_reducible apply State.showCause_keeps
    | with_reducible apply State.closeWindow_keeps
    | with_reducible apply State.applyOrder_keeps
    | with_reducible apply State.down_keeps
    | with_reducible apply State.wr_keeps
    | with_reducible apply State.showMeas_keeps
    | with_reducible apply State.wmPair_keeps
    | with_reducible apply State.stripeMark_keeps
    | with_reducible refine Keeps.foldl (fun _ _ _ => ?_) ?_
    | with_reducible refine Keeps.foldl_fst (fun _ _ _ => ?_) ?_
    | with_reducible refine Keeps.foldl_snd (fun _ _ _ => ?_) ?_
    | split
    | intro _
    | fail_if_no_progress (with_reducible apply Keeps.upd)

theorem State.handover_keeps_eq {tw : Touch} {s0 : State} {tt : State} {res1 : Bool} (s : State) (he : State.handover s = (tt, res1)) (hK : Keeps tw s0 s) :
    Keeps tw s0 tt := by
  have := State.handover_keeps s hK 
  rw [he] at this
  exact this

theorem State.shotRecord_keeps {tw : Touch} {s0 : State} (s : State) (t : Nat) (hK : Keeps tw s0 s) :
    Keeps tw s0 (State.shotRecord s t) := by
  unfold State.shotRecord
  try dsimp only
  repeat' first
    | with_reducible assumption
    | with_reducible refine Keeps.ite (fun _ => ?_) (fun _ => ?_)
    | with_reducible apply State.setShotLine_keeps
    | with_reducible apply State.gap_keeps
    | with_reducible refine Keeps.foldl (fun _ _ _ => ?_) ?_
    | with_reducible refine Keeps.foldl_fst (fun _ _ _ => ?_) ?_
    | with_reducible refine Keeps.foldl_snd (fun _ _ _ => ?_) ?_
    | split

theorem State.shotRecords_keeps {tw : Touch} {s0 : State} (s : State) (n : Nat) (hK : Keeps tw s0 s) :
    Keeps tw s0 (State.shotRecords s n) := by
  unfold State.shotRecords
  try dsimp only
  repeat' first
    | with_reducible assumption
    | with_reducible refine Keeps.ite (fun _ => ?_) (fun _ => ?_)
    | with_reducible apply forAll_keeps
    | with_reducible apply State.shotRecord_keeps
    | with_reducible refine Keeps.foldl (fun _ _ _ => ?_) ?_
    | with_reducible refine Keeps.foldl_fst (fun _ _ _ => ?_) ?_
    | with_reducible refine Keeps.foldl_snd (fun _ _ _ => ?_) ?_
    | split
    | intro _

theorem State.endStripe_keeps {tw : Touch} {s0 : State} (s : State) (hK : Keeps tw s0 s) :
    Keeps tw s0 (State.endStripe s) := by
  unfold State.endStripe
  try dsimp only
  repeat' first
    | with_reducible assumption
    | with_reducible refine Keeps.ite (fun _ => ?_) (fun _ => ?_)
    | with_reducible apply State.shotRecords_keeps
    | with_reducible apply State.closeRun_keeps
    | with_reducible apply State.compareTo_keeps
    | with_reducible apply State.laidRaise_keeps
    | with_reducible apply State.stripeMark_keeps
    | with_reducible apply State.wmStripeEnd_keeps
    | with_reducible apply State.down_keeps
    | with_reducible apply State.showCause_keeps
    | with_reducible apply State.laidState_keeps
    | with_reducible apply State.showMeas_keeps
    | with_reducible apply State.setLineTime_keeps
    | with_reducible refine Keeps.foldl (fun _ _ _ => ?_) ?_
    | with_reducible refine Keeps.foldl_fst (fun _ _ _ => ?_) ?_
    | with_reducible refine Keeps.foldl_snd (fun _ _ _ => ?_) ?_
    | split
    | intro _
    | fail_if_no_progress (with_reducible apply Keeps.upd)

theorem State.lineBoundary_keeps {tw : Touch} {s0 : State} (s : State) (t : Int) (failed : List (Nat × Nat)) (crcBad : List Nat) (hK : Keeps tw s0 s) :
    Keeps tw s0 (State.lineBoundary s t failed crcBad) := by
  unfold State.lineBoundary
  try dsimp only
  repeat' first
    | with_reducible assumption
    | with_reducible refine Keeps.ite (fun _ => ?_) (fun _ => ?_)
    | with_reducible apply State.shotRecords_keeps
    | with_reducible apply State.setLineTime_keeps
    | with_reducible apply State.compareTo_keeps
    | with_reducible apply State.softStop_keeps
    | with_reducible apply State.laidState_keeps
    | with_reducible apply forN_keeps
    | with_reducible apply State.decideLine_keeps
    | with_reducible apply State.laidRaise_keeps
    | with_reducible apply State.buildFrames_keeps
    | with_reducible refine Keeps.foldl (fun _ _ _ => ?_) ?_
    | with_reducible refine Keeps.foldl_fst (fun _ _ _ => ?_) ?_
    | with_reducible refine Keeps.foldl_snd (fun _ _ _ => ?_) ?_
    | split
    | intro _
    | fail_if_no_progress (with_reducible apply Keeps.upd)

theorem State.sendShot_keeps {tw : Touch} {s0 : State} (s : State) (t : Nat) (k : ShotTick) (hK : Keeps tw s0 s) :
    Keeps tw s0 (State.sendShot s t k) := by
  unfold State.sendShot
  try dsimp only
  repeat' first
    | with_reducible assumption
    | with_reducible refine Keeps.ite (fun _ => ?_) (fun _ => ?_)
    | with_reducible apply forAll_keeps
    | with_reducible apply State.launch_keeps
    | with_reducible apply State.setShotLine_keeps
    | with_reducible apply State.vCount_keeps
    | with_reducible refine Keeps.foldl (fun _ _ _ => ?_) ?_
    | with_reducible refine Keeps.foldl_fst (fun _ _ _ => ?_) ?_
    | with_reducible refine Keeps.foldl_snd (fun _ _ _ => ?_) ?_
    | split
    | intro _
    | fail_if_no_progress (with_reducible apply Keeps.upd)

theorem State.stripeTick_keeps {tw : Touch} {s0 : State} (s : State) (t : Int) (k : ShotTick) (fresh : Bool) (failed : List (Nat × Nat)) (crcBad : List Nat) (hK : Keeps tw s0 s) :
    Keeps tw s0 (State.stripeTick s t k fresh failed crcBad) := by
  unfold State.stripeTick
  try dsimp only
  repeat' first
    | with_reducible assumption
    | with_reducible refine Keeps.ite (fun _ => ?_) (fun _ => ?_)
    | with_reducible apply State.setShotLine_keeps
    | with_reducible apply State.vCount_keeps
    | with_reducible apply State.sendShot_keeps
    | with_reducible apply State.lineBoundary_keeps
    | with_reducible apply State.endStripe_keeps

theorem State.laidTick_keeps {tw : Touch} {s0 : State} (s : State) (k : ShotTick) (corrected : Nat) (failed : List (Nat × Nat)) (crcBad : List Nat) (hK : Keeps tw s0 s) :
    Keeps tw s0 (State.laidTick s k corrected failed crcBad) := by
  unfold State.laidTick
  try dsimp only
  repeat' first
    | with_reducible assumption
    | with_reducible refine State.handover_keeps_eq _ (by assumption) ?_
    | with_reducible refine Keeps.ite (fun _ => ?_) (fun _ => ?_)
    | with_reducible apply State.vCount_keeps
    | with_reducible apply State.endStripe_keeps
    | with_reducible apply State.stripeTick_keeps
    | with_reducible apply State.setLineTime_keeps
    | with_reducible apply State.handover_keeps
    | with_reducible refine Keeps.foldl (fun _ _ _ => ?_) ?_
    | with_reducible refine Keeps.foldl_fst (fun _ _ _ => ?_) ?_
    | with_reducible refine Keeps.foldl_snd (fun _ _ _ => ?_) ?_
    | split
    | intro _
    | fail_if_no_progress (with_reducible apply Keeps.upd)

theorem State.laidStop_keeps {tw : Touch} {s0 : State} (s : State) (now : Bool) (hK : Keeps tw s0 s) :
    Keeps tw s0 (State.laidStop s now) := by
  unfold State.laidStop
  try dsimp only
  repeat' first
    | with_reducible assumption
    | with_reducible refine Keeps.ite (fun _ => ?_) (fun _ => ?_)
    | with_reducible apply State.disarm_keeps
    | with_reducible refine Keeps.foldl (fun _ _ _ => ?_) ?_
    | with_reducible refine Keeps.foldl_fst (fun _ _ _ => ?_) ?_
    | with_reducible refine Keeps.foldl_snd (fun _ _ _ => ?_) ?_
    | split
    | intro _
    | fail_if_no_progress (with_reducible apply Keeps.upd)

theorem State.laidExit_keeps {tw : Touch} {s0 : State} (s : State) (hK : Keeps tw s0 s) :
    Keeps tw s0 (State.laidExit s) := by
  unfold State.laidExit
  try dsimp only
  repeat' first
    | with_reducible assumption
    | with_reducible refine Keeps.ite (fun _ => ?_) (fun _ => ?_)
    | with_reducible apply State.shotRecords_keeps
    | with_reducible apply State.closeRun_keeps
    | with_reducible apply State.laidState_keeps
    | with_reducible apply State.down_keeps
    | with_reducible apply State.showMeas_keeps
    | with_reducible apply State.laidEvents_keeps
    | with_reducible apply State.showCause_keeps
    | with_reducible refine Keeps.foldl (fun _ _ _ => ?_) ?_
    | with_reducible refine Keeps.foldl_fst (fun _ _ _ => ?_) ?_
    | with_reducible refine Keeps.foldl_snd (fun _ _ _ => ?_) ?_
    | split
    | intro _
    | fail_if_no_progress (with_reducible apply Keeps.upd)

theorem State.setLaidCh_keeps {tw : Touch} {s0 : State} (s : State) (h : Nat) (c : LaidCh) (hK : Keeps tw s0 s) :
    Keeps tw s0 (State.setLaidCh s h c) := by
  unfold State.setLaidCh
  try dsimp only
  repeat' first
    | with_reducible assumption
    | with_reducible refine Keeps.ite (fun _ => ?_) (fun _ => ?_)
    | with_reducible refine Keeps.foldl (fun _ _ _ => ?_) ?_
    | with_reducible refine Keeps.foldl_fst (fun _ _ _ => ?_) ?_
    | with_reducible refine Keeps.foldl_snd (fun _ _ _ => ?_) ?_
    | split
    | intro _
    | fail_if_no_progress (with_reducible apply Keeps.upd)

theorem State.loseChannel_keeps {tw : Touch} {s0 : State} (s : State) (h : Nat) (hK : Keeps tw s0 s) :
    Keeps tw s0 (State.loseChannel s h) := by
  unfold State.loseChannel
  try dsimp only
  repeat' first
    | with_reducible assumption
    | with_reducible refine Keeps.ite (fun _ => ?_) (fun _ => ?_)
    | with_reducible apply State.setLaidCh_keeps
    | with_reducible apply State.down_keeps
    | with_reducible apply State.up_keeps
    | with_reducible apply State.laidEvents_keeps
    | with_reducible apply State.hardStop_keeps

theorem State.drvLaneDown_keeps {tw : Touch} {s0 : State} (s : State) (h : Nat) (hK : Keeps tw s0 s) :
    Keeps tw s0 (State.drvLaneDown s h) := by
  unfold State.drvLaneDown
  try dsimp only
  repeat' first
    | with_reducible assumption
    | with_reducible refine Keeps.ite (fun _ => ?_) (fun _ => ?_)
    | with_reducible apply State.loseChannel_keeps
    | with_reducible apply State.down_keeps
    | with_reducible apply State.setLaidCh_keeps

theorem State.drvStatus_keeps {tw : Touch} {s0 : State} (s : State) (h : Nat) (seq : Nat) (flags : Nat) (temp : Nat) (line : Nat) (hK : Keeps tw s0 s) :
    Keeps tw s0 (State.drvStatus s h seq flags temp line) := by
  unfold State.drvStatus
  try dsimp only
  repeat' first
    | with_reducible assumption
    | with_reducible refine State.takeSeq_keeps_eq _ _ _ _ _ (by assumption) ?_
    | with_reducible refine Keeps.ite (fun _ => ?_) (fun _ => ?_)
    | with_reducible apply State.ctrlErr_keeps
    | with_reducible apply State.count_keeps
    | with_reducible apply State.takeSeq_keeps
    | with_reducible apply State.setLaidCh_keeps
    | with_reducible apply State.wr_keeps
    | with_reducible apply State.up_keeps
    | with_reducible apply State.drvTemp_keeps
    | with_reducible apply State.vCount_keeps
    | with_reducible apply State.laidEvents_keeps
    | with_reducible apply State.gap_keeps

theorem execDrvStatusRx_keeps {tw : Touch} {s0 : State} (channel : Fin 48) (seq : BitVec 16) (flags : BitVec 8) (temp : BitVec 8) (line : BitVec 16) (s : State) (hK : Keeps tw s0 s) :
    KeepsOut tw s0 (execDrvStatusRx channel seq flags temp line s) := by
  unfold execDrvStatusRx
  try dsimp only
  repeat' first
    | with_reducible assumption
    | with_reducible refine KeepsOut.next ?_
    | with_reducible refine KeepsOut.ite (fun _ => ?_) (fun _ => ?_)
    | with_reducible refine Keeps.ite (fun _ => ?_) (fun _ => ?_)
    | with_reducible apply State.drvStatus_keeps

theorem execDrvStatusTimeout_keeps {tw : Touch} {s0 : State} (channel : Fin 48) (s : State) (hK : Keeps tw s0 s) :
    KeepsOut tw s0 (execDrvStatusTimeout channel s) := by
  unfold execDrvStatusTimeout
  try dsimp only
  repeat' first
    | with_reducible assumption
    | with_reducible refine KeepsOut.next ?_
    | with_reducible refine KeepsOut.ite (fun _ => ?_) (fun _ => ?_)
    | with_reducible refine Keeps.ite (fun _ => ?_) (fun _ => ?_)
    | with_reducible apply State.drvStale_keeps
    | with_reducible apply State.up_keeps
    | with_reducible apply State.loseChannel_keeps

end Sys2Proof.Machine
end

