-- ==== Sys2Proof/Laws/KeepsRotation.lean ====
section
/-! SUPPORT. What the operations of Machine/Rotation.lean keep of a state (Laws/Keeps.lean). -/

namespace Sys2Proof.Machine

theorem State.setSlotSpur_keeps {tw : Touch} {s0 : State} (s : State) (k : Nat) (m : Nat) (j : Nat) (hK : Keeps tw s0 s) :
    Keeps tw s0 (State.setSlotSpur s k m j) := by
  unfold State.setSlotSpur
  try dsimp only
  repeat' first
    | with_reducible assumption
    | with_reducible refine Keeps.ite (fun _ => ?_) (fun _ => ?_)
    | with_reducible apply State.wr_keeps

theorem State.setRole_keeps {tw : Touch} {s0 : State} (s : State) (k : Nat) (j : Nat) (role : Nat) (slot : Nat) (hK : Keeps tw s0 s) :
    Keeps tw s0 (State.setRole s k j role slot) := by
  unfold State.setRole
  try dsimp only
  repeat' first
    | with_reducible assumption
    | with_reducible refine Keeps.ite (fun _ => ?_) (fun _ => ?_)
    | with_reducible apply State.wr_keeps

theorem State.setRot_keeps {tw : Touch} {s0 : State} (s : State) (k : Nat) (r : Rotation) (hK : Keeps tw s0 s) :
    Keeps tw s0 (State.setRot s k r) := by
  unfold State.setRot
  try dsimp only
  repeat' first
    | with_reducible assumption
    | with_reducible refine Keeps.ite (fun _ => ?_) (fun _ => ?_)
    | with_reducible apply State.setRidge_keeps

theorem State.restStep_keeps {tw : Touch} {s0 : State} (s : State) (k : Nat) (hK : Keeps tw s0 s) :
    Keeps tw s0 (State.restStep s k) := by
  unfold State.restStep
  try dsimp only
  repeat' first
    | with_reducible assumption
    | with_reducible refine Keeps.ite (fun _ => ?_) (fun _ => ?_)
    | with_reducible apply State.wr_keeps

theorem State.isolateSpur_keeps {tw : Touch} {s0 : State} (s : State) (k : Nat) (j : Nat) (hK : Keeps tw s0 s) :
    Keeps tw s0 (State.isolateSpur s k j) := by
  unfold State.isolateSpur
  try dsimp only
  repeat' first
    | with_reducible assumption
    | with_reducible refine Keeps.ite (fun _ => ?_) (fun _ => ?_)
    | with_reducible apply State.setRole_keeps
    | with_reducible apply State.wr_keeps
    | with_reducible apply State.isolate_keeps

theorem State.handOver_keeps {tw : Touch} {s0 : State} (s : State) (k : Nat) (hK : Keeps tw s0 s) :
    Keeps tw s0 (State.handOver s k) := by
  unfold State.handOver
  try dsimp only
  repeat' first
    | with_reducible assumption
    | with_reducible refine Keeps.ite (fun _ => ?_) (fun _ => ?_)
    | with_reducible apply State.setSlotSpur_keeps
    | with_reducible apply State.setRole_keeps
    | with_reducible apply State.wr_keeps
    | with_reducible apply State.count_keeps
    | with_reducible apply State.setRot_keeps
    | with_reducible apply State.restStep_keeps
    | with_reducible apply State.up_keeps
    | with_reducible apply State.isolateSpur_keeps

theorem State.startCopy_keeps {tw : Touch} {s0 : State} (s : State) (k : Nat) (retry : Bool) (hK : Keeps tw s0 s) :
    Keeps tw s0 (State.startCopy s k retry) := by
  unfold State.startCopy
  try dsimp only
  repeat' first
    | with_reducible assumption
    | with_reducible refine Keeps.ite (fun _ => ?_) (fun _ => ?_)
    | with_reducible apply State.wr_keeps
    | with_reducible apply State.setRot_keeps

theorem State.startStep_keeps {tw : Touch} {s0 : State} (s : State) (k : Nat) (gen : Nat) (hK : Keeps tw s0 s) :
    Keeps tw s0 (State.startStep s k gen) := by
  unfold State.startStep
  try dsimp only
  repeat' first
    | with_reducible assumption
    | with_reducible refine Keeps.ite (fun _ => ?_) (fun _ => ?_)
    | with_reducible apply State.startCopy_keeps
    | with_reducible apply State.setRot_keeps
    | with_reducible apply State.handOver_keeps

theorem execRotationStepStart_keeps {tw : Touch} {s0 : State} (ridge : Fin 6) (s : State) (hK : Keeps tw s0 s) :
    KeepsOut tw s0 (execRotationStepStart ridge s) := by
  unfold execRotationStepStart
  try dsimp only
  repeat' first
    | with_reducible assumption
    | with_reducible refine KeepsOut.next ?_
    | with_reducible refine KeepsOut.ite (fun _ => ?_) (fun _ => ?_)
    | with_reducible refine Keeps.ite (fun _ => ?_) (fun _ => ?_)
    | with_reducible apply State.startStep_keeps

theorem State.askStep_keeps {tw : Touch} {s0 : State} (s : State) (k : Nat) (gen : Nat) (hK : Keeps tw s0 s) :
    Keeps tw s0 (State.askStep s k gen) := by
  unfold State.askStep
  try dsimp only
  repeat' first
    | with_reducible assumption
    | with_reducible refine Keeps.ite (fun _ => ?_) (fun _ => ?_)
    | with_reducible apply State.overrun_keeps
    | with_reducible apply State.startStep_keeps

theorem execRotNow_keeps {tw : Touch} {s0 : State} (ridge : Fin 6) (s : State) (hK : Keeps tw s0 s) :
    KeepsOut tw s0 (execRotNow ridge s) := by
  unfold execRotNow
  try dsimp only
  repeat' first
    | with_reducible assumption
    | with_reducible refine KeepsOut.next ?_
    | with_reducible refine KeepsOut.ite (fun _ => ?_) (fun _ => ?_)
    | with_reducible refine Keeps.ite (fun _ => ?_) (fun _ => ?_)
    | with_reducible apply State.askStep_keeps

theorem execRotationEvent_keeps {tw : Touch} {s0 : State} (ridge : Fin 6) (gen : Fin 8) (s : State) (hK : Keeps tw s0 s) :
    KeepsOut tw s0 (execRotationEvent ridge gen s) := by
  unfold execRotationEvent
  try dsimp only
  repeat' first
    | with_reducible assumption
    | with_reducible refine KeepsOut.next ?_
    | with_reducible refine KeepsOut.ite (fun _ => ?_) (fun _ => ?_)
    | with_reducible refine Keeps.ite (fun _ => ?_) (fun _ => ?_)
    | with_reducible apply State.askStep_keeps

theorem execSpurCopyDone_keeps {tw : Touch} {s0 : State} (ridge : Fin 6) (s : State) (hK : Keeps tw s0 s) :
    KeepsOut tw s0 (execSpurCopyDone ridge s) := by
  unfold execSpurCopyDone
  try dsimp only
  repeat' first
    | with_reducible assumption
    | with_reducible refine KeepsOut.next ?_
    | with_reducible refine KeepsOut.ite (fun _ => ?_) (fun _ => ?_)
    | with_reducible refine Keeps.ite (fun _ => ?_) (fun _ => ?_)
    | with_reducible apply State.setRot_keeps

theorem State.rotBoundary_keeps {tw : Touch} {s0 : State} (s : State) (k : Nat) (hK : Keeps tw s0 s) :
    Keeps tw s0 (State.rotBoundary s k) := by
  unfold State.rotBoundary
  try dsimp only
  repeat' first
    | with_reducible assumption
    | with_reducible refine Keeps.ite (fun _ => ?_) (fun _ => ?_)
    | with_reducible apply State.log_keeps
    | with_reducible apply State.handOver_keeps
    | with_reducible apply State.setRot_keeps
    | with_reducible apply State.setRole_keeps
    | with_reducible apply State.wr_keeps

theorem State.rotCompare_keeps {tw : Touch} {s0 : State} (s : State) (k : Nat) (stamp : Int) (mismatch : Bool) (hK : Keeps tw s0 s) :
    Keeps tw s0 (State.rotCompare s k stamp mismatch) := by
  unfold State.rotCompare
  try dsimp only
  repeat' first
    | with_reducible assumption
    | with_reducible refine Keeps.ite (fun _ => ?_) (fun _ => ?_)
    | with_reducible apply State.wr_keeps
    | with_reducible apply State.count_keeps
    | with_reducible apply State.ridgeEvent_keeps
    | with_reducible apply State.wrI64_keeps
    | with_reducible apply State.setRot_keeps
    | with_reducible apply State.isolateSpur_keeps

theorem execSpurIsolated_keeps {tw : Touch} {s0 : State} (ridge : Fin 6) (s : State) (hK : Keeps tw s0 s) :
    KeepsOut tw s0 (execSpurIsolated ridge s) := by
  unfold execSpurIsolated
  try dsimp only
  repeat' first
    | with_reducible assumption
    | with_reducible refine KeepsOut.next ?_
    | with_reducible refine KeepsOut.ite (fun _ => ?_) (fun _ => ?_)
    | with_reducible refine Keeps.ite (fun _ => ?_) (fun _ => ?_)
    | with_reducible apply State.wr_keeps
    | with_reducible apply State.setRole_keeps

theorem State.retireSpur_keeps {tw : Touch} {s0 : State} (s : State) (k : Nat) (j : Nat) (hK : Keeps tw s0 s) :
    Keeps tw s0 (State.retireSpur s k j) := by
  unfold State.retireSpur
  try dsimp only
  repeat' first
    | with_reducible assumption
    | with_reducible refine Keeps.ite (fun _ => ?_) (fun _ => ?_)
    | with_reducible apply State.setRole_keeps
    | with_reducible apply State.up_keeps
    | with_reducible apply State.wr_keeps
    | with_reducible apply State.gate_keeps
    | with_reducible apply State.isolate_keeps
    | with_reducible apply State.log_keeps
    | with_reducible apply State.ridgeEvent_keeps
    | with_reducible apply State.setRot_keeps

theorem State.advanceTarget_keeps {tw : Touch} {s0 : State} (s : State) (k : Nat) (hK : Keeps tw s0 s) :
    Keeps tw s0 (State.advanceTarget s k) := by
  unfold State.advanceTarget
  try dsimp only
  repeat' first
    | with_reducible assumption
    | with_reducible refine Keeps.ite (fun _ => ?_) (fun _ => ?_)
    | with_reducible apply State.wr_keeps

theorem State.sliceResult_keeps {tw : Touch} {s0 : State} (s : State) (k : Nat) (result : Nat) (hK : Keeps tw s0 s) :
    Keeps tw s0 (State.sliceResult s k result) := by
  unfold State.sliceResult
  try dsimp only
  repeat' first
    | with_reducible assumption
    | with_reducible refine Keeps.ite (fun _ => ?_) (fun _ => ?_)
    | with_reducible apply State.wr_keeps
    | with_reducible apply State.count_keeps
    | with_reducible apply State.ridgeEvent_keeps
    | with_reducible apply State.retireSpur_keeps
    | with_reducible apply State.advanceTarget_keeps
    | with_reducible apply State.setRole_keeps
    | with_reducible apply State.setRot_keeps

theorem execSpurSliceDone_keeps {tw : Touch} {s0 : State} (ridge : Fin 6) (limitsHeld : Bool) (signature : BitVec 64) (s : State) (hK : Keeps tw s0 s) :
    KeepsOut tw s0 (execSpurSliceDone ridge limitsHeld signature s) := by
  unfold execSpurSliceDone
  try dsimp only
  repeat' first
    | with_reducible assumption
    | with_reducible refine KeepsOut.next ?_
    | with_reducible refine KeepsOut.ite (fun _ => ?_) (fun _ => ?_)
    | with_reducible refine Keeps.ite (fun _ => ?_) (fun _ => ?_)
    | with_reducible apply State.sliceResult_keeps
    | with_reducible apply State.wr_keeps

theorem execSliceBudgetExpiry_keeps {tw : Touch} {s0 : State} (ridge : Fin 6) (s : State) (hK : Keeps tw s0 s) :
    KeepsOut tw s0 (execSliceBudgetExpiry ridge s) := by
  unfold execSliceBudgetExpiry
  try dsimp only
  repeat' first
    | with_reducible assumption
    | with_reducible refine KeepsOut.next ?_
    | with_reducible refine KeepsOut.ite (fun _ => ?_) (fun _ => ?_)
    | with_reducible refine Keeps.ite (fun _ => ?_) (fun _ => ?_)
    | with_reducible apply State.sliceResult_keeps

theorem execSpurReinitDone_keeps {tw : Touch} {s0 : State} (ridge : Fin 6) (verified : Bool) (s : State) (hK : Keeps tw s0 s) :
    KeepsOut tw s0 (execSpurReinitDone ridge verified s) := by
  unfold execSpurReinitDone
  try dsimp only
  repeat' first
    | with_reducible assumption
    | with_reducible refine KeepsOut.next ?_
    | with_reducible refine KeepsOut.ite (fun _ => ?_) (fun _ => ?_)
    | with_reducible refine Keeps.ite (fun _ => ?_) (fun _ => ?_)
    | with_reducible apply State.wr_keeps
    | with_reducible apply State.count_keeps
    | with_reducible apply State.retireSpur_keeps
    | with_reducible apply State.advanceTarget_keeps
    | with_reducible apply State.isolate_keeps
    | with_reducible apply State.setRole_keeps
    | with_reducible apply State.setRot_keeps
    | with_reducible apply State.startCopy_keeps
    | with_reducible apply State.restStep_keeps

theorem State.rotAbandon_keeps {tw : Touch} {s0 : State} (s : State) (k : Nat) (hK : Keeps tw s0 s) :
    Keeps tw s0 (State.rotAbandon s k) := by
  unfold State.rotAbandon
  try dsimp only
  repeat' first
    | with_reducible assumption
    | with_reducible refine Keeps.ite (fun _ => ?_) (fun _ => ?_)
    | with_reducible apply State.setRole_keeps
    | with_reducible apply State.wr_keeps
    | with_reducible apply State.setRot_keeps

theorem State.ridgeStart_keeps {tw : Touch} {s0 : State} (s : State) (k : Nat) (failed : List Nat) (hK : Keeps tw s0 s) :
    Keeps tw s0 (State.ridgeStart s k failed) := by
  unfold State.ridgeStart
  try dsimp only
  repeat' first
    | with_reducible assumption
    | with_reducible refine Keeps.ite (fun _ => ?_) (fun _ => ?_)
    | with_reducible apply forAll_keeps
    | with_reducible apply State.gate_keeps
    | with_reducible apply State.up_keeps
    | with_reducible apply State.setRole_keeps
    | with_reducible apply State.wr_keeps
    | with_reducible apply forN_keeps
    | with_reducible apply State.log_keeps
    | with_reducible apply State.ridgeEvent_keeps
    | with_reducible refine Keeps.foldl (fun _ _ _ => ?_) ?_
    | with_reducible refine Keeps.foldl_fst (fun _ _ _ => ?_) ?_
    | with_reducible refine Keeps.foldl_snd (fun _ _ _ => ?_) ?_
    | split
    | intro _

theorem State.showLag_keeps {tw : Touch} {s0 : State} (s : State) (k : Nat) (hK : Keeps tw s0 s) :
    Keeps tw s0 (State.showLag s k) := by
  unfold State.showLag
  try dsimp only
  repeat' first
    | with_reducible assumption
    | with_reducible refine Keeps.ite (fun _ => ?_) (fun _ => ?_)
    | with_reducible apply State.peak_keeps
    | with_reducible apply State.wr_keeps
    | with_reducible refine Keeps.foldl (fun _ _ _ => ?_) ?_
    | with_reducible refine Keeps.foldl_fst (fun _ _ _ => ?_) ?_
    | with_reducible refine Keeps.foldl_snd (fun _ _ _ => ?_) ?_
    | split

theorem State.dropTurns_keeps {tw : Touch} {s0 : State} (s : State) (k : Nat) (x2 : Nat) (hK : Keeps tw s0 s) :
    Keeps tw s0 (State.dropTurns s k x2) := by
  induction x2 generalizing s k with
  | zero =>
    unfold State.dropTurns
    try dsimp only
    repeat' first
      | with_reducible assumption
  | succ n ih =>
    unfold State.dropTurns
    try dsimp only
    repeat' first
      | with_reducible assumption
      | with_reducible apply ih
      | with_reducible refine Keeps.ite (fun _ => ?_) (fun _ => ?_)
      | with_reducible apply State.complete_keeps
      | with_reducible apply State.setRidge_keeps
      | with_reducible apply State.setCtx_keeps
      | with_reducible apply State.droppedMarkers_keeps
      | with_reducible refine Keeps.foldl (fun _ _ _ => ?_) ?_
      | with_reducible refine Keeps.foldl_fst (fun _ _ _ => ?_) ?_
      | with_reducible refine Keeps.foldl_snd (fun _ _ _ => ?_) ?_
      | split

theorem State.takeInto_keeps {tw : Touch} {s0 : State} (s : State) (k : Nat) (c : Nat) (l : PortLine) (mismatch : Bool) (hK : Keeps tw s0 s) :
    Keeps tw s0 (State.takeInto s k c l mismatch) := by
  unfold State.takeInto
  try dsimp only
  repeat' first
    | with_reducible assumption
    | with_reducible refine Keeps.ite (fun _ => ?_) (fun _ => ?_)
    | with_reducible apply State.rotBoundary_keeps
    | with_reducible apply State.paramFrame_keeps
    | with_reducible apply State.graphLine_keeps
    | with_reducible apply State.setRidge_keeps
    | with_reducible apply State.count_keeps
    | with_reducible apply State.rotCompare_keeps
    | with_reducible apply State.showLag_keeps

theorem State.inspectBoundary_keeps {tw : Touch} {s0 : State} (s : State) (k : Nat) (mismatch : Bool) (hK : Keeps tw s0 s) :
    Keeps tw s0 (State.inspectBoundary s k mismatch) := by
  unfold State.inspectBoundary
  try dsimp only
  repeat' first
    | with_reducible assumption
    | with_reducible refine Keeps.ite (fun _ => ?_) (fun _ => ?_)
    | with_reducible apply State.dropTurns_keeps
    | with_reducible apply State.setRidge_keeps
    | with_reducible apply State.takeInto_keeps
    | with_reducible apply State.showInline_keeps
    | with_reducible apply State.showSlots_keeps
    | with_reducible apply State.stageLines_keeps
    | with_reducible apply State.ridgeFlush_keeps
    | with_reducible refine Keeps.foldl (fun _ _ _ => ?_) ?_
    | with_reducible refine Keeps.foldl_fst (fun _ _ _ => ?_) ?_
    | with_reducible refine Keeps.foldl_snd (fun _ _ _ => ?_) ?_
    | split

end Sys2Proof.Machine
end

