-- ==== Sys2Proof/Laws/KeepsRidgeStep.lean ====
section
/-! SUPPORT. What the operations of Machine/RidgeStep.lean keep of a state (Laws/Keeps.lean). -/

namespace Sys2Proof.Machine

theorem State.kernelBoundary_keeps {tw : Touch} {s0 : State} (s : State) (k : Nat) (mismatch : Bool) (hK : Keeps tw s0 s) :
    Keeps tw s0 (State.kernelBoundary s k mismatch) := by
  unfold State.kernelBoundary
  try dsimp only
  repeat' first
    | with_reducible assumption
    | with_reducible refine Keeps.ite (fun _ => ?_) (fun _ => ?_)
    | with_reducible apply State.setKernel_keeps
    | with_reducible apply State.kernelStep_keeps
    | with_reducible apply State.rotBoundary_keeps
    | with_reducible apply State.rotCompare_keeps
    | with_reducible refine Keeps.foldl (fun _ _ _ => ?_) ?_
    | with_reducible refine Keeps.foldl_fst (fun _ _ _ => ?_) ?_
    | with_reducible refine Keeps.foldl_snd (fun _ _ _ => ?_) ?_
    | split

theorem execRidgeLineBoundary_keeps {tw : Touch} {s0 : State} (ridge : Fin 6) (mismatch : Bool) (s : State) (hK : Keeps tw s0 s) :
    KeepsOut tw s0 (execRidgeLineBoundary ridge mismatch s) := by
  unfold execRidgeLineBoundary
  try dsimp only
  repeat' first
    | with_reducible assumption
    | with_reducible refine KeepsOut.next ?_
    | with_reducible refine KeepsOut.ite (fun _ => ?_) (fun _ => ?_)
    | with_reducible refine Keeps.ite (fun _ => ?_) (fun _ => ?_)
    | with_reducible apply State.kernelBoundary_keeps
    | with_reducible apply State.inspectBoundary_keeps

end Sys2Proof.Machine
end

