-- ==== Sys2Proof/Laws/KeepsCouch.lean ====
section
/-! SUPPORT. What the operations of Machine/Couch.lean keep of a state (Laws/Keeps.lean). -/

namespace Sys2Proof.Machine

theorem State.couchCount_keeps {tw : Touch} {s0 : State} (s : State) (c : Nat) (n : Nat) (hK : Keeps tw s0 s) :
    Keeps tw s0 (State.couchCount s c n) := by
  unfold State.couchCount
  try dsimp only
  repeat' first
    | with_reducible assumption
    | with_reducible refine Keeps.ite (fun _ => ?_) (fun _ => ?_)
    | with_reducible apply State.count_keeps

theorem State.lineTime_keeps {tw : Touch} {s0 : State} (s : State) (h : Int) (ticked : Bool) (hK : Keeps tw s0 s) (hw_hbm : tw.hbm = true) :
    Keeps tw s0 (State.lineTime s h ticked) := by
  unfold State.lineTime
  try dsimp only
  repeat' first
    | with_reducible assumption
    | with_reducible refine Keeps.ite (fun _ => ?_) (fun _ => ?_)
    | with_reducible apply State.store_keeps
    | with_reducible refine Keeps.foldl (fun _ _ _ => ?_) ?_
    | with_reducible refine Keeps.foldl_fst (fun _ _ _ => ?_) ?_
    | with_reducible refine Keeps.foldl_snd (fun _ _ _ => ?_) ?_
    | split
    | intro _
    | fail_if_no_progress (with_reducible apply Keeps.upd)

theorem State.showCouch_keeps {tw : Touch} {s0 : State} (s : State) (hK : Keeps tw s0 s) :
    Keeps tw s0 (State.showCouch s) := by
  unfold State.showCouch
  try dsimp only
  repeat' first
    | with_reducible assumption
    | with_reducible refine Keeps.ite (fun _ => ?_) (fun _ => ?_)
    | with_reducible apply State.wr_keeps
    | with_reducible apply forN_keeps
    | with_reducible apply State.up_keeps
    | with_reducible refine Keeps.foldl (fun _ _ _ => ?_) ?_
    | with_reducible refine Keeps.foldl_fst (fun _ _ _ => ?_) ?_
    | with_reducible refine Keeps.foldl_snd (fun _ _ _ => ?_) ?_
    | split
    | intro _

theorem State.issueRecord_keeps {tw : Touch} {s0 : State} (s : State) (body : Bytes) (hK : Keeps tw s0 s) :
    Keeps tw s0 (State.issueRecord s body) := by
  unfold State.issueRecord
  try dsimp only
  repeat' first
    | with_reducible assumption
    | with_reducible refine Keeps.ite (fun _ => ?_) (fun _ => ?_)
    | with_reducible apply State.wr_keeps
    | with_reducible apply State.couchCount_keeps
    | with_reducible apply State.showCouch_keeps
    | with_reducible refine Keeps.foldl (fun _ _ _ => ?_) ?_
    | with_reducible refine Keeps.foldl_fst (fun _ _ _ => ?_) ?_
    | with_reducible refine Keeps.foldl_snd (fun _ _ _ => ?_) ?_
    | split
    | intro _
    | fail_if_no_progress (with_reducible apply Keeps.upd)

theorem State.countIssued_keeps {tw : Touch} {s0 : State} (s : State) (p : Nat) (hK : Keeps tw s0 s) :
    Keeps tw s0 (State.countIssued s p) := by
  unfold State.countIssued
  try dsimp only
  repeat' first
    | with_reducible assumption
    | with_reducible refine Keeps.ite (fun _ => ?_) (fun _ => ?_)
    | with_reducible apply State.couchCount_keeps
    | with_reducible refine Keeps.foldl (fun _ _ _ => ?_) ?_
    | with_reducible refine Keeps.foldl_fst (fun _ _ _ => ?_) ?_
    | with_reducible refine Keeps.foldl_snd (fun _ _ _ => ?_) ?_
    | split
    | intro _
    | fail_if_no_progress (with_reducible apply Keeps.upd)

theorem State.requestCrop_keeps {tw : Touch} {s0 : State} (s : State) (u : UnitRec) (cls : Nat) (seq : Nat) (hK : Keeps tw s0 s) :
    Keeps tw s0 (State.requestCrop s u cls seq).1 := by
  unfold State.requestCrop
  try dsimp only
  repeat' first
    | with_reducible assumption
    | with_reducible refine Keeps.ite (fun _ => ?_) (fun _ => ?_)
    | with_reducible apply State.couchCount_keeps
    | with_reducible apply State.showCouch_keeps
    | with_reducible refine Keeps.foldl (fun _ _ _ => ?_) ?_
    | with_reducible refine Keeps.foldl_fst (fun _ _ _ => ?_) ?_
    | with_reducible refine Keeps.foldl_snd (fun _ _ _ => ?_) ?_
    | split
    | intro _
    | fail_if_no_progress (with_reducible apply Keeps.upd)

theorem State.requestCrop_keeps_eq {tw : Touch} {s0 : State} {tt : State} {res1 : Nat × Bool} (s : State) (u : UnitRec) (cls : Nat) (seq : Nat) (he : State.requestCrop s u cls seq = (tt, res1)) (hK : Keeps tw s0 s) :
    Keeps tw s0 tt := by
  have := State.requestCrop_keeps s u cls seq hK 
  rw [he] at this
  exact this

theorem State.setMarks_keeps {tw : Touch} {s0 : State} (s : State) (u : Nat) (l : List MarkTarget) (hK : Keeps tw s0 s) :
    Keeps tw s0 (State.setMarks s u l) := by
  unfold State.setMarks
  try dsimp only
  repeat' first
    | with_reducible assumption
    | with_reducible refine Keeps.ite (fun _ => ?_) (fun _ => ?_)
    | with_reducible apply State.wr_keeps
    | with_reducible apply State.up_keeps
    | with_reducible refine Keeps.foldl (fun _ _ _ => ?_) ?_
    | with_reducible refine Keeps.foldl_fst (fun _ _ _ => ?_) ?_
    | with_reducible refine Keeps.foldl_snd (fun _ _ _ => ?_) ?_
    | split
    | intro _
    | fail_if_no_progress (with_reducible apply Keeps.upd)

theorem State.loadMark_keeps {tw : Touch} {s0 : State} (s : State) (u : Nat) (hK : Keeps tw s0 s) :
    Keeps tw s0 (State.loadMark s u) := by
  unfold State.loadMark
  try dsimp only
  repeat' first
    | with_reducible assumption
    | with_reducible refine Keeps.ite (fun _ => ?_) (fun _ => ?_)
    | with_reducible apply State.wr_keeps
    | with_reducible apply State.setSchedTarget_keeps
    | with_reducible apply State.armSched_keeps
    | with_reducible apply State.count_keeps
    | with_reducible apply State.setMarks_keeps
    | with_reducible refine Keeps.foldl (fun _ _ _ => ?_) ?_
    | with_reducible refine Keeps.foldl_fst (fun _ _ _ => ?_) ?_
    | with_reducible refine Keeps.foldl_snd (fun _ _ _ => ?_) ?_
    | split

theorem State.markTarget_keeps {tw : Touch} {s0 : State} (s : State) (u : Nat) (pos : Int) (hK : Keeps tw s0 s) :
    Keeps tw s0 (State.markTarget s u pos).1 := by
  unfold State.markTarget
  try dsimp only
  repeat' first
    | with_reducible assumption
    | with_reducible refine Keeps.ite (fun _ => ?_) (fun _ => ?_)
    | with_reducible apply State.count_keeps
    | with_reducible apply State.up_keeps
    | with_reducible apply State.setMarks_keeps
    | with_reducible apply State.loadMark_keeps
    | with_reducible refine Keeps.foldl (fun _ _ _ => ?_) ?_
    | with_reducible refine Keeps.foldl_fst (fun _ _ _ => ?_) ?_
    | with_reducible refine Keeps.foldl_snd (fun _ _ _ => ?_) ?_
    | split

theorem State.markTarget_keeps_eq {tw : Touch} {s0 : State} {tt : State} {res1 : Bool} (s : State) (u : Nat) (pos : Int) (he : State.markTarget s u pos = (tt, res1)) (hK : Keeps tw s0 s) :
    Keeps tw s0 tt := by
  have := State.markTarget_keeps s u pos hK 
  rw [he] at this
  exact this

theorem execMarkerFireSeen_keeps {tw : Touch} {s0 : State} (unit : Fin 4) (s : State) (hK : Keeps tw s0 s) :
    KeepsOut tw s0 (execMarkerFireSeen unit s) := by
  unfold execMarkerFireSeen
  try dsimp only
  repeat' first
    | with_reducible assumption
    | with_reducible refine KeepsOut.next ?_
    | with_reducible refine KeepsOut.ite (fun _ => ?_) (fun _ => ?_)
    | with_reducible refine Keeps.ite (fun _ => ?_) (fun _ => ?_)
    | with_reducible apply State.loadMark_keeps
    | with_reducible apply State.setMarks_keeps
    | with_reducible refine Keeps.foldl (fun _ _ _ => ?_) ?_
    | with_reducible refine Keeps.foldl_fst (fun _ _ _ => ?_) ?_
    | with_reducible refine Keeps.foldl_snd (fun _ _ _ => ?_) ?_
    | split

theorem State.dropMarks_keeps {tw : Touch} {s0 : State} (s : State) (u : Nat) (hK : Keeps tw s0 s) :
    Keeps tw s0 (State.dropMarks s u) := by
  unfold State.dropMarks
  try dsimp only
  repeat' first
    | with_reducible assumption
    | with_reducible refine Keeps.ite (fun _ => ?_) (fun _ => ?_)
    | with_reducible apply State.setMarks_keeps
    | with_reducible apply State.disarmSched_keeps
    | with_reducible apply State.count_keeps

theorem State.issueUnit_keeps {tw : Touch} {s0 : State} (s : State) (ms : List Member) (m : Member) (seam : Nat) (v : Verdict) (hK : Keeps tw s0 s) :
    Keeps tw s0 (State.issueUnit s ms m seam v) := by
  unfold State.issueUnit
  try dsimp only
  repeat' first
    | with_reducible assumption
    | with_reducible refine State.markTarget_keeps_eq _ _ _ (by assumption) ?_
    | with_reducible refine State.requestCrop_keeps_eq _ _ _ _ (by assumption) ?_
    | with_reducible refine Keeps.ite (fun _ => ?_) (fun _ => ?_)
    | with_reducible apply State.couchCount_keeps
    | with_reducible apply State.requestCrop_keeps
    | with_reducible apply State.markTarget_keeps
    | with_reducible apply State.issueRecord_keeps
    | with_reducible apply State.countIssued_keeps
    | with_reducible refine Keeps.foldl (fun _ _ _ => ?_) ?_
    | with_reducible refine Keeps.foldl_fst (fun _ _ _ => ?_) ?_
    | with_reducible refine Keeps.foldl_snd (fun _ _ _ => ?_) ?_
    | split

theorem State.issueOverflow_keeps {tw : Touch} {s0 : State} (s : State) (p : Nat) (i : Item) (hK : Keeps tw s0 s) :
    Keeps tw s0 (State.issueOverflow s p i) := by
  unfold State.issueOverflow
  try dsimp only
  repeat' first
    | with_reducible assumption
    | with_reducible refine Keeps.ite (fun _ => ?_) (fun _ => ?_)
    | with_reducible apply State.couchCount_keeps
    | with_reducible apply State.issueRecord_keeps
    | with_reducible apply State.countIssued_keeps

theorem State.issueClose_keeps {tw : Touch} {s0 : State} (s : State) (m : Marker) (hK : Keeps tw s0 s) :
    Keeps tw s0 (State.issueClose s m) := by
  unfold State.issueClose
  try dsimp only
  repeat' first
    | with_reducible assumption
    | with_reducible refine Keeps.ite (fun _ => ?_) (fun _ => ?_)
    | with_reducible apply State.issueRecord_keeps
    | with_reducible refine Keeps.foldl (fun _ _ _ => ?_) ?_
    | with_reducible refine Keeps.foldl_fst (fun _ _ _ => ?_) ?_
    | with_reducible refine Keeps.foldl_snd (fun _ _ _ => ?_) ?_
    | split
    | intro _
    | fail_if_no_progress (with_reducible apply Keeps.upd)

theorem State.classifyNext_keeps {tw : Touch} {s0 : State} (s : State) (x1 : Nat) (hK : Keeps tw s0 s) :
    Keeps tw s0 (State.classifyNext s x1) := by
  induction x1 generalizing s with
  | zero =>
    unfold State.classifyNext
    try dsimp only
    repeat' first
      | with_reducible assumption
  | succ n ih =>
    unfold State.classifyNext
    try dsimp only
    repeat' first
      | with_reducible assumption
      | with_reducible apply ih
      | with_reducible refine Keeps.ite (fun _ => ?_) (fun _ => ?_)
      | with_reducible apply State.issueClose_keeps
      | with_reducible apply State.couchCount_keeps
      | with_reducible apply State.up_keeps
      | with_reducible apply State.classify_keeps
      | with_reducible refine Keeps.foldl (fun _ _ _ => ?_) ?_
      | with_reducible refine Keeps.foldl_fst (fun _ _ _ => ?_) ?_
      | with_reducible refine Keeps.foldl_snd (fun _ _ _ => ?_) ?_
      | split
      | intro _
      | fail_if_no_progress (with_reducible apply Keeps.upd)

theorem State.enqueueClass_keeps {tw : Touch} {s0 : State} (s : State) (e : ClassEntry) (hK : Keeps tw s0 s) :
    Keeps tw s0 (State.enqueueClass s e) := by
  unfold State.enqueueClass
  try dsimp only
  repeat' first
    | with_reducible assumption
    | with_reducible refine Keeps.ite (fun _ => ?_) (fun _ => ?_)
    | with_reducible apply State.showCouch_keeps
    | with_reducible apply State.classifyNext_keeps
    | with_reducible refine Keeps.foldl (fun _ _ _ => ?_) ?_
    | with_reducible refine Keeps.foldl_fst (fun _ _ _ => ?_) ?_
    | with_reducible refine Keeps.foldl_snd (fun _ _ _ => ?_) ?_
    | split
    | intro _
    | fail_if_no_progress (with_reducible apply Keeps.upd)

theorem execClassifyDone_keeps {tw : Touch} {s0 : State} (s : State) (hK : Keeps tw s0 s) :
    KeepsOut tw s0 (execClassifyDone s) := by
  unfold execClassifyDone
  try dsimp only
  repeat' first
    | with_reducible assumption
    | with_reducible refine KeepsOut.next ?_
    | with_reducible refine KeepsOut.ite (fun _ => ?_) (fun _ => ?_)
    | with_reducible refine Keeps.ite (fun _ => ?_) (fun _ => ?_)
    | with_reducible apply State.issueUnit_keeps
    | with_reducible apply State.showCouch_keeps
    | with_reducible apply State.classifyNext_keeps
    | with_reducible refine Keeps.foldl (fun _ _ _ => ?_) ?_
    | with_reducible refine Keeps.foldl_fst (fun _ _ _ => ?_) ?_
    | with_reducible refine Keeps.foldl_snd (fun _ _ _ => ?_) ?_
    | split
    | intro _
    | fail_if_no_progress (with_reducible apply Keeps.upd)

theorem State.releaseGroup_keeps {tw : Touch} {s0 : State} (s : State) (g : Nat) (flags : Nat) (hK : Keeps tw s0 s) :
    Keeps tw s0 (State.releaseGroup s g flags) := by
  unfold State.releaseGroup
  try dsimp only
  repeat' first
    | with_reducible assumption
    | with_reducible refine Keeps.ite (fun _ => ?_) (fun _ => ?_)
    | with_reducible apply State.couchCount_keeps
    | with_reducible apply State.enqueueClass_keeps
    | with_reducible refine Keeps.foldl (fun _ _ _ => ?_) ?_
    | with_reducible refine Keeps.foldl_fst (fun _ _ _ => ?_) ?_
    | with_reducible refine Keeps.foldl_snd (fun _ _ _ => ?_) ?_
    | split
    | intro _
    | fail_if_no_progress (with_reducible apply Keeps.upd)

theorem State.releaseReady_keeps {tw : Touch} {s0 : State} (s : State) (hK : Keeps tw s0 s) :
    Keeps tw s0 (State.releaseReady s) := by
  unfold State.releaseReady
  try dsimp only
  repeat' first
    | with_reducible assumption
    | with_reducible refine Keeps.ite (fun _ => ?_) (fun _ => ?_)
    | with_reducible apply forAll_keeps
    | with_reducible apply State.releaseGroup_keeps
    | with_reducible refine Keeps.foldl (fun _ _ _ => ?_) ?_
    | with_reducible refine Keeps.foldl_fst (fun _ _ _ => ?_) ?_
    | with_reducible refine Keeps.foldl_snd (fun _ _ _ => ?_) ?_
    | split
    | intro _

theorem State.releaseInactive_keeps {tw : Touch} {s0 : State} (s : State) (hK : Keeps tw s0 s) :
    Keeps tw s0 (State.releaseInactive s) := by
  unfold State.releaseInactive
  try dsimp only
  repeat' first
    | with_reducible assumption
    | with_reducible refine Keeps.ite (fun _ => ?_) (fun _ => ?_)
    | with_reducible apply forAll_keeps
    | with_reducible apply State.releaseGroup_keeps
    | with_reducible refine Keeps.foldl (fun _ _ _ => ?_) ?_
    | with_reducible refine Keeps.foldl_fst (fun _ _ _ => ?_) ?_
    | with_reducible refine Keeps.foldl_snd (fun _ _ _ => ?_) ?_
    | split
    | intro _

theorem State.couchRefresh_keeps {tw : Touch} {s0 : State} (s : State) (hK : Keeps tw s0 s) :
    Keeps tw s0 (State.couchRefresh s) := by
  unfold State.couchRefresh
  try dsimp only
  repeat' first
    | with_reducible assumption
    | with_reducible refine Keeps.ite (fun _ => ?_) (fun _ => ?_)
    | with_reducible apply forN_keeps
    | with_reducible apply State.wr_keeps
    | with_reducible apply State.releaseInactive_keeps
    | with_reducible refine Keeps.foldl (fun _ _ _ => ?_) ?_
    | with_reducible refine Keeps.foldl_fst (fun _ _ _ => ?_) ?_
    | with_reducible refine Keeps.foldl_snd (fun _ _ _ => ?_) ?_
    | split
    | intro _

theorem State.releaseDrained_keeps {tw : Touch} {s0 : State} (s : State) (hK : Keeps tw s0 s) :
    Keeps tw s0 (State.releaseDrained s) := by
  unfold State.releaseDrained
  try dsimp only
  repeat' first
    | with_reducible assumption
    | with_reducible refine Keeps.ite (fun _ => ?_) (fun _ => ?_)
    | with_reducible apply forAll_keeps
    | with_reducible apply State.releaseGroup_keeps
    | with_reducible refine Keeps.foldl (fun _ _ _ => ?_) ?_
    | with_reducible refine Keeps.foldl_fst (fun _ _ _ => ?_) ?_
    | with_reducible refine Keeps.foldl_snd (fun _ _ _ => ?_) ?_
    | split
    | intro _

theorem State.holdBlob_keeps {tw : Touch} {s0 : State} (s : State) (m : Member) (hK : Keeps tw s0 s) :
    Keeps tw s0 (State.holdBlob s m) := by
  unfold State.holdBlob
  try dsimp only
  repeat' first
    | with_reducible assumption
    | with_reducible refine Keeps.ite (fun _ => ?_) (fun _ => ?_)
    | with_reducible apply State.enqueueClass_keeps
    | with_reducible apply State.couchCount_keeps
    | with_reducible apply State.releaseReady_keeps
    | with_reducible apply State.showCouch_keeps
    | with_reducible refine Keeps.foldl (fun _ _ _ => ?_) ?_
    | with_reducible refine Keeps.foldl_fst (fun _ _ _ => ?_) ?_
    | with_reducible refine Keeps.foldl_snd (fun _ _ _ => ?_) ?_
    | split
    | intro _
    | fail_if_no_progress (with_reducible apply Keeps.upd)

theorem execSeamWaitTimeout_keeps {tw : Touch} {s0 : State} (port : Fin 12) (seq : Word) (s : State) (hK : Keeps tw s0 s) :
    KeepsOut tw s0 (execSeamWaitTimeout port seq s) := by
  unfold execSeamWaitTimeout
  try dsimp only
  repeat' first
    | with_reducible assumption
    | with_reducible refine KeepsOut.next ?_
    | with_reducible refine KeepsOut.ite (fun _ => ?_) (fun _ => ?_)
    | with_reducible refine Keeps.ite (fun _ => ?_) (fun _ => ?_)
    | with_reducible apply State.showCouch_keeps
    | with_reducible apply State.releaseGroup_keeps
    | with_reducible refine Keeps.foldl (fun _ _ _ => ?_) ?_
    | with_reducible refine Keeps.foldl_fst (fun _ _ _ => ?_) ?_
    | with_reducible refine Keeps.foldl_snd (fun _ _ _ => ?_) ?_
    | split

theorem State.takeMarker_keeps {tw : Touch} {s0 : State} (s : State) (k : Nat) (m : Marker) (hK : Keeps tw s0 s) :
    Keeps tw s0 (State.takeMarker s k m) := by
  unfold State.takeMarker
  try dsimp only
  repeat' first
    | with_reducible assumption
    | with_reducible refine Keeps.ite (fun _ => ?_) (fun _ => ?_)
    | with_reducible apply State.wr_keeps
    | with_reducible apply State.enqueueClass_keeps
    | with_reducible apply State.showCouch_keeps
    | with_reducible apply State.releaseDrained_keeps
    | with_reducible apply State.releaseReady_keeps
    | with_reducible refine Keeps.foldl (fun _ _ _ => ?_) ?_
    | with_reducible refine Keeps.foldl_fst (fun _ _ _ => ?_) ?_
    | with_reducible refine Keeps.foldl_snd (fun _ _ _ => ?_) ?_
    | split
    | intro _
    | fail_if_no_progress (with_reducible apply Keeps.upd)

theorem execCouchIntake_keeps {tw : Touch} {s0 : State} (ridge : Fin 6) (s : State) (hK : Keeps tw s0 s) :
    KeepsOut tw s0 (execCouchIntake ridge s) := by
  unfold execCouchIntake
  try dsimp only
  repeat' first
    | with_reducible assumption
    | with_reducible refine KeepsOut.next ?_
    | with_reducible refine KeepsOut.ite (fun _ => ?_) (fun _ => ?_)
    | with_reducible refine Keeps.ite (fun _ => ?_) (fun _ => ?_)
    | with_reducible apply State.setRidge_keeps
    | with_reducible apply State.drainFifo_keeps
    | with_reducible apply State.takeMarker_keeps
    | with_reducible apply State.couchCount_keeps
    | with_reducible apply State.issueOverflow_keeps
    | with_reducible apply State.enqueueClass_keeps
    | with_reducible apply State.holdBlob_keeps
    | with_reducible refine Keeps.foldl (fun _ _ _ => ?_) ?_
    | with_reducible refine Keeps.foldl_fst (fun _ _ _ => ?_) ?_
    | with_reducible refine Keeps.foldl_snd (fun _ _ _ => ?_) ?_
    | split

theorem State.forestSwap_keeps {tw : Touch} {s0 : State} (s : State) (hK : Keeps tw s0 s) :
    Keeps tw s0 (State.forestSwap s) := by
  unfold State.forestSwap
  try dsimp only
  repeat' first
    | with_reducible assumption
    | with_reducible refine Keeps.ite (fun _ => ?_) (fun _ => ?_)
    | with_reducible apply State.resetSpan_keeps
    | with_reducible apply State.setReg_keeps
    | with_reducible apply State.wr_keeps
    | with_reducible refine Keeps.foldl (fun _ _ _ => ?_) ?_
    | with_reducible refine Keeps.foldl_fst (fun _ _ _ => ?_) ?_
    | with_reducible refine Keeps.foldl_snd (fun _ _ _ => ?_) ?_
    | split
    | intro _
    | fail_if_no_progress (with_reducible apply Keeps.upd)

theorem State.couchEnter_keeps {tw : Touch} {s0 : State} (s : State) (hK : Keeps tw s0 s) :
    Keeps tw s0 (State.couchEnter s) := by
  unfold State.couchEnter
  try dsimp only
  repeat' first
    | with_reducible assumption
    | with_reducible refine Keeps.ite (fun _ => ?_) (fun _ => ?_)
    | with_reducible apply State.wr_keeps
    | with_reducible apply State.couchRefresh_keeps
    | with_reducible refine Keeps.foldl (fun _ _ _ => ?_) ?_
    | with_reducible refine Keeps.foldl_fst (fun _ _ _ => ?_) ?_
    | with_reducible refine Keeps.foldl_snd (fun _ _ _ => ?_) ?_
    | split
    | intro _
    | fail_if_no_progress (with_reducible apply Keeps.upd)

theorem State.couchCut_keeps {tw : Touch} {s0 : State} (s : State) (hK : Keeps tw s0 s) :
    Keeps tw s0 (State.couchCut s) := by
  unfold State.couchCut
  try dsimp only
  repeat' first
    | with_reducible assumption
    | with_reducible refine Keeps.ite (fun _ => ?_) (fun _ => ?_)
    | with_reducible apply State.couchCount_keeps
    | with_reducible apply State.showCouch_keeps
    | with_reducible refine Keeps.foldl (fun _ _ _ => ?_) ?_
    | with_reducible refine Keeps.foldl_fst (fun _ _ _ => ?_) ?_
    | with_reducible refine Keeps.foldl_snd (fun _ _ _ => ?_) ?_
    | split
    | intro _
    | fail_if_no_progress (with_reducible apply Keeps.upd)

end Sys2Proof.Machine
end

