-- ==== Sys2Proof/Laws/KeepsReam.lean ====
section
/-! SUPPORT. What the operations of Machine/Ream.lean keep of a state (Laws/Keeps.lean). -/

namespace Sys2Proof.Machine

theorem State.setEngine_keeps {tw : Touch} {s0 : State} (s : State) (e : Nat) (v : Engine) (hK : Keeps tw s0 s) :
    Keeps tw s0 (State.setEngine s e v) := by
  unfold State.setEngine
  try dsimp only
  repeat' first
    | with_reducible assumption
    | with_reducible refine Keeps.ite (fun _ => ?_) (fun _ => ?_)
    | with_reducible refine Keeps.foldl (fun _ _ _ => ?_) ?_
    | with_reducible refine Keeps.foldl_fst (fun _ _ _ => ?_) ?_
    | with_reducible refine Keeps.foldl_snd (fun _ _ _ => ?_) ?_
    | split
    | intro _
    | fail_if_no_progress (with_reducible apply Keeps.upd)

theorem State.cropDone_keeps {tw : Touch} {s0 : State} (s : State) (seq : Nat) (codec : Nat) (payload : Bytes) (raw : Bytes) (partialLine : Bool) (hK : Keeps tw s0 s) :
    Keeps tw s0 (State.cropDone s seq codec payload raw partialLine) := by
  unfold State.cropDone
  try dsimp only
  repeat' first
    | with_reducible assumption
    | with_reducible refine Keeps.ite (fun _ => ?_) (fun _ => ?_)
    | with_reducible apply State.couchCount_keeps
    | with_reducible refine Keeps.foldl (fun _ _ _ => ?_) ?_
    | with_reducible refine Keeps.foldl_fst (fun _ _ _ => ?_) ?_
    | with_reducible refine Keeps.foldl_snd (fun _ _ _ => ?_) ?_
    | split
    | intro _
    | fail_if_no_progress (with_reducible apply Keeps.upd)

theorem State.rawCrops_keeps {tw : Touch} {s0 : State} (s : State) (hK : Keeps tw s0 s) :
    Keeps tw s0 (State.rawCrops s) := by
  unfold State.rawCrops
  try dsimp only
  repeat' first
    | with_reducible assumption
    | with_reducible refine Keeps.ite (fun _ => ?_) (fun _ => ?_)
    | with_reducible apply forAll_keeps
    | with_reducible apply State.cropDone_keeps
    | with_reducible refine Keeps.foldl (fun _ _ _ => ?_) ?_
    | with_reducible refine Keeps.foldl_fst (fun _ _ _ => ?_) ?_
    | with_reducible refine Keeps.foldl_snd (fun _ _ _ => ?_) ?_
    | split
    | intro _

theorem State.giveCrop_keeps {tw : Touch} {s0 : State} (s : State) (c : Crop) (hK : Keeps tw s0 s) :
    Keeps tw s0 (State.giveCrop s c) := by
  unfold State.giveCrop
  try dsimp only
  repeat' first
    | with_reducible assumption
    | with_reducible refine Keeps.ite (fun _ => ?_) (fun _ => ?_)
    | with_reducible apply State.setEngine_keeps
    | with_reducible refine Keeps.foldl (fun _ _ _ => ?_) ?_
    | with_reducible refine Keeps.foldl_fst (fun _ _ _ => ?_) ?_
    | with_reducible refine Keeps.foldl_snd (fun _ _ _ => ?_) ?_
    | split
    | intro _
    | fail_if_no_progress (with_reducible apply Keeps.upd)

theorem State.giveLayout_keeps {tw : Touch} {s0 : State} (s : State) (hK : Keeps tw s0 s) :
    Keeps tw s0 (State.giveLayout s) := by
  unfold State.giveLayout
  try dsimp only
  repeat' first
    | with_reducible assumption
    | with_reducible refine Keeps.ite (fun _ => ?_) (fun _ => ?_)
    | with_reducible apply State.setEngine_keeps
    | with_reducible refine Keeps.foldl (fun _ _ _ => ?_) ?_
    | with_reducible refine Keeps.foldl_fst (fun _ _ _ => ?_) ?_
    | with_reducible refine Keeps.foldl_snd (fun _ _ _ => ?_) ?_
    | split

theorem State.giveJobs_keeps {tw : Touch} {s0 : State} (s : State) (hK : Keeps tw s0 s) :
    Keeps tw s0 (State.giveJobs s) := by
  unfold State.giveJobs
  try dsimp only
  repeat' first
    | with_reducible assumption
    | with_reducible refine Keeps.ite (fun _ => ?_) (fun _ => ?_)
    | with_reducible apply forAll_keeps
    | with_reducible apply State.giveCrop_keeps
    | with_reducible apply State.giveLayout_keeps
    | with_reducible refine Keeps.foldl (fun _ _ _ => ?_) ?_
    | with_reducible refine Keeps.foldl_fst (fun _ _ _ => ?_) ?_
    | with_reducible refine Keeps.foldl_snd (fun _ _ _ => ?_) ?_
    | split
    | intro _

theorem State.beginRun_keeps {tw : Touch} {s0 : State} (s : State) (e : Nat) (r : ReamRun) (hK : Keeps tw s0 s) :
    Keeps tw s0 (State.beginRun s e r) := by
  unfold State.beginRun
  try dsimp only
  repeat' first
    | with_reducible assumption
    | with_reducible refine Keeps.ite (fun _ => ?_) (fun _ => ?_)
    | with_reducible apply State.setEngine_keeps
    | with_reducible apply State.wr_keeps

theorem State.takeHost_keeps {tw : Touch} {s0 : State} (s : State) (e : Nat) (d : ReamDesc) (fail : Option Nat) (hK : Keeps tw s0 s) :
    Keeps tw s0 (State.takeHost s e d fail) := by
  unfold State.takeHost
  try dsimp only
  repeat' first
    | with_reducible assumption
    | with_reducible refine Keeps.ite (fun _ => ?_) (fun _ => ?_)
    | with_reducible apply State.count_keeps
    | with_reducible apply State.down_keeps
    | with_reducible apply State.wr_keeps
    | with_reducible apply State.setEngine_keeps
    | with_reducible apply State.beginRun_keeps

theorem execReamJobStart_keeps {tw : Touch} {s0 : State} (engine : Fin 4) (s : State) (hK : Keeps tw s0 s) :
    KeepsOut tw s0 (execReamJobStart engine s) := by
  unfold execReamJobStart
  try dsimp only
  repeat' first
    | with_reducible assumption
    | with_reducible refine KeepsOut.next ?_
    | with_reducible refine KeepsOut.ite (fun _ => ?_) (fun _ => ?_)
    | with_reducible refine Keeps.ite (fun _ => ?_) (fun _ => ?_)
    | with_reducible apply State.giveJobs_keeps
    | with_reducible apply State.up_keeps
    | with_reducible apply State.beginRun_keeps
    | with_reducible apply State.setEngine_keeps
    | with_reducible apply State.takeHost_keeps
    | with_reducible apply State.readFailed_keeps
    | with_reducible refine Keeps.foldl (fun _ _ _ => ?_) ?_
    | with_reducible refine Keeps.foldl_fst (fun _ _ _ => ?_) ?_
    | with_reducible refine Keeps.foldl_snd (fun _ _ _ => ?_) ?_
    | split

theorem execReamHostOverdue_keeps {tw : Touch} {s0 : State} (engine : Fin 4) (s : State) (hK : Keeps tw s0 s) :
    KeepsOut tw s0 (execReamHostOverdue engine s) := by
  unfold execReamHostOverdue
  try dsimp only
  repeat' first
    | with_reducible assumption
    | with_reducible refine KeepsOut.next ?_
    | with_reducible refine KeepsOut.ite (fun _ => ?_) (fun _ => ?_)
    | with_reducible refine Keeps.ite (fun _ => ?_) (fun _ => ?_)
    | with_reducible apply State.up_keeps

theorem execReamHoldRelease_keeps {tw : Touch} {s0 : State} (engine : Fin 4) (gen : Fin 8) (s : State) (hK : Keeps tw s0 s) :
    KeepsOut tw s0 (execReamHoldRelease engine gen s) := by
  unfold execReamHoldRelease
  try dsimp only
  repeat' first
    | with_reducible assumption
    | with_reducible refine KeepsOut.next ?_
    | with_reducible refine KeepsOut.ite (fun _ => ?_) (fun _ => ?_)
    | with_reducible refine Keeps.ite (fun _ => ?_) (fun _ => ?_)
    | with_reducible apply State.overrun_keeps
    | with_reducible apply State.down_keeps
    | with_reducible apply State.setEngine_keeps

theorem execReamRingTail_keeps {tw : Touch} {s0 : State} (engine : Fin 4) (tail : Word) (s : State) (hK : Keeps tw s0 s) :
    KeepsOut tw s0 (execReamRingTail engine tail s) := by
  unfold execReamRingTail
  try dsimp only
  repeat' first
    | with_reducible assumption
    | with_reducible refine KeepsOut.next ?_
    | with_reducible refine KeepsOut.ite (fun _ => ?_) (fun _ => ?_)
    | with_reducible refine Keeps.ite (fun _ => ?_) (fun _ => ?_)
    | with_reducible apply State.wr_keeps
    | with_reducible apply State.up_keeps

theorem execReamRingSize_keeps {tw : Touch} {s0 : State} (engine : Fin 4) (size : Word) (s : State) (hK : Keeps tw s0 s) :
    KeepsOut tw s0 (execReamRingSize engine size s) := by
  unfold execReamRingSize
  try dsimp only
  repeat' first
    | with_reducible assumption
    | with_reducible refine KeepsOut.next ?_
    | with_reducible refine KeepsOut.ite (fun _ => ?_) (fun _ => ?_)
    | with_reducible refine Keeps.ite (fun _ => ?_) (fun _ => ?_)
    | with_reducible apply State.accessFault_keeps
    | with_reducible apply State.wr_keeps
    | with_reducible apply State.setEngine_keeps
    | with_reducible apply State.down_keeps

theorem State.runCompress_keeps {tw : Touch} {s0 : State} (s : State) (d : ReamDesc) (cap : Nat) (input : Bytes) (echoDiff : Option Nat) (hK : Keeps tw s0 s) :
    Keeps tw s0 (State.runCompress s d cap input echoDiff).2 := by
  unfold State.runCompress
  try dsimp only
  repeat' first
    | with_reducible assumption
    | with_reducible refine State.free_keeps_eq _ (by assumption) ?_
    | with_reducible refine Keeps.ite (fun _ => ?_) (fun _ => ?_)
    | with_reducible apply State.free_keeps
    | with_reducible refine Keeps.foldl (fun _ _ _ => ?_) ?_
    | with_reducible refine Keeps.foldl_fst (fun _ _ _ => ?_) ?_
    | with_reducible refine Keeps.foldl_snd (fun _ _ _ => ?_) ?_
    | split

theorem State.runCompress_keeps_eq {tw : Touch} {s0 : State} {tt : State} {res1 : ReamEnd} (s : State) (d : ReamDesc) (cap : Nat) (input : Bytes) (echoDiff : Option Nat) (he : State.runCompress s d cap input echoDiff = (res1, tt)) (hK : Keeps tw s0 s) :
    Keeps tw s0 tt := by
  have := State.runCompress_keeps s d cap input echoDiff hK 
  rw [he] at this
  exact this

theorem State.layOut_keeps {tw : Touch} {s0 : State} (s : State) (port : Nat) (x2 : List (Nat × Nat)) (x3 : Bytes) (hK : Keeps tw s0 s) (hw_hbm : tw.hbm = true) :
    Keeps tw s0 (State.layOut s port x2 x3).1 := by
  induction x2 generalizing s port x3 with
  | nil =>
    unfold State.layOut
    try dsimp only
    repeat' first
      | with_reducible assumption
      | with_reducible refine State.writeMem_keeps_eq _ _ _ _ (by assumption) ?_ (by assumption)
  | cons hd tl ih =>
    unfold State.layOut
    try dsimp only
    repeat' first
      | with_reducible assumption
      | with_reducible apply ih
      | with_reducible refine State.writeMem_keeps_eq _ _ _ _ (by assumption) ?_ (by assumption)
      | with_reducible refine Keeps.ite (fun _ => ?_) (fun _ => ?_)
      | with_reducible apply State.writeMem_keeps
      | with_reducible refine Keeps.foldl (fun _ _ _ => ?_) ?_
      | with_reducible refine Keeps.foldl_fst (fun _ _ _ => ?_) ?_
      | with_reducible refine Keeps.foldl_snd (fun _ _ _ => ?_) ?_
      | split

theorem State.layOut_keeps_eq {tw : Touch} {s0 : State} {tt : State} {res1 : Bool} (s : State) (port : Nat) (x2 : List (Nat × Nat)) (x3 : Bytes) (he : State.layOut s port x2 x3 = (tt, res1)) (hK : Keeps tw s0 s) (hw_hbm : tw.hbm = true) :
    Keeps tw s0 tt := by
  have := State.layOut_keeps s port x2 x3 hK hw_hbm
  rw [he] at this
  exact this

theorem State.scrambleOut_keeps {tw : Touch} {s0 : State} (s : State) (x1 : List (Nat × Nat)) (x2 : Nat) (hK : Keeps tw s0 s) (hw_hbm : tw.hbm = true) :
    Keeps tw s0 (State.scrambleOut s x1 x2) := by
  induction x1 generalizing s x2 with
  | nil => exact hK
  | cons e t ih => exact ih _ _ (State.scramble_keeps s _ _ hK hw_hbm)

theorem State.endRun_keeps {tw : Touch} {s0 : State} (s : State) (e : Nat) (r : ReamRun) (x : ReamEnd) (hK : Keeps tw s0 s) :
    Keeps tw s0 (State.endRun s e r x) := by
  unfold State.endRun
  try dsimp only
  repeat' first
    | with_reducible assumption
    | with_reducible refine Keeps.ite (fun _ => ?_) (fun _ => ?_)
    | with_reducible apply State.count_keeps
    | with_reducible apply State.setEngine_keeps
    | with_reducible apply State.wr_keeps
    | with_reducible apply State.event_keeps

theorem State.hostResult_keeps {tw : Touch} {s0 : State} (s : State) (e : Nat) (r : ReamRun) (x : ReamEnd) (hK : Keeps tw s0 s) (hw_hbm : tw.hbm = true) :
    Keeps tw s0 (State.hostResult s e r x) := by
  unfold State.hostResult
  try dsimp only
  repeat' first
    | with_reducible assumption
    | with_reducible refine Keeps.ite (fun _ => ?_) (fun _ => ?_)
    | with_reducible apply State.store_keeps
    | with_reducible apply State.wr_keeps
    | with_reducible apply State.down_keeps
    | with_reducible apply State.setEngine_keeps

theorem State.hostRun_keeps {tw : Touch} {s0 : State} (s : State) (e : Nat) (r : ReamRun) (echoDiff : Option Nat) (hK : Keeps tw s0 s) (hw_hbm : tw.hbm = true) :
    Keeps tw s0 (State.hostRun s e r echoDiff) := by
  unfold State.hostRun
  try dsimp only
  repeat' first
    | with_reducible assumption
    | with_reducible refine State.layOut_keeps_eq _ _ _ _ (by assumption) ?_ (by assumption)
    | with_reducible refine State.runCompress_keeps_eq _ _ _ _ _ (by assumption) ?_
    | with_reducible refine State.free_keeps_eq _ (by assumption) ?_
    | with_reducible refine Keeps.ite (fun _ => ?_) (fun _ => ?_)
    | with_reducible apply State.free_keeps
    | with_reducible apply State.hostResult_keeps
    | with_reducible apply State.endRun_keeps
    | with_reducible apply State.readFailed_keeps
    | with_reducible apply State.runCompress_keeps
    | with_reducible apply State.layOut_keeps
    | with_reducible apply State.scrambleOut_keeps
    | with_reducible apply State.count_keeps
    | with_reducible apply State.wr_keeps
    | with_reducible apply State.log_keeps
    | with_reducible refine Keeps.foldl (fun _ _ _ => ?_) ?_
    | with_reducible refine Keeps.foldl_fst (fun _ _ _ => ?_) ?_
    | with_reducible refine Keeps.foldl_snd (fun _ _ _ => ?_) ?_
    | split

theorem State.cropRun_keeps {tw : Touch} {s0 : State} (s : State) (e : Nat) (r : ReamRun) (echoDiff : Option Nat) (hK : Keeps tw s0 s) :
    Keeps tw s0 (State.cropRun s e r echoDiff) := by
  unfold State.cropRun
  try dsimp only
  repeat' first
    | with_reducible assumption
    | with_reducible refine State.runCompress_keeps_eq _ _ _ _ _ (by assumption) ?_
    | with_reducible refine Keeps.ite (fun _ => ?_) (fun _ => ?_)
    | with_reducible apply State.endRun_keeps
    | with_reducible apply State.runCompress_keeps
    | with_reducible apply State.count_keeps
    | with_reducible apply State.wr_keeps
    | with_reducible apply State.log_keeps
    | with_reducible apply State.cropDone_keeps
    | with_reducible refine Keeps.foldl (fun _ _ _ => ?_) ?_
    | with_reducible refine Keeps.foldl_fst (fun _ _ _ => ?_) ?_
    | with_reducible refine Keeps.foldl_snd (fun _ _ _ => ?_) ?_
    | split

theorem State.layoutRun_keeps {tw : Touch} {s0 : State} (s : State) (e : Nat) (r : ReamRun) (hK : Keeps tw s0 s) (hw_hbm : tw.hbm = true) :
    Keeps tw s0 (State.layoutRun s e r) := by
  unfold State.layoutRun
  try dsimp only
  repeat' first
    | with_reducible assumption
    | with_reducible refine State.writeMem_keeps_eq _ _ _ _ (by assumption) ?_ (by assumption)
    | with_reducible refine Keeps.ite (fun _ => ?_) (fun _ => ?_)
    | with_reducible apply State.endRun_keeps
    | with_reducible apply State.jobReadFailed_keeps
    | with_reducible apply State.setJob_keeps
    | with_reducible apply State.writeMem_keeps
    | with_reducible refine Keeps.foldl (fun _ _ _ => ?_) ?_
    | with_reducible refine Keeps.foldl_fst (fun _ _ _ => ?_) ?_
    | with_reducible refine Keeps.foldl_snd (fun _ _ _ => ?_) ?_
    | split

theorem execReamJobDone_keeps {tw : Touch} {s0 : State} (engine : Fin 4) (echoDiff : Option Word) (s : State) (hK : Keeps tw s0 s) (hw_hbm : tw.hbm = true) :
    KeepsOut tw s0 (execReamJobDone engine echoDiff s) := by
  unfold execReamJobDone
  try dsimp only
  repeat' first
    | with_reducible assumption
    | with_reducible refine KeepsOut.next ?_
    | with_reducible refine KeepsOut.ite (fun _ => ?_) (fun _ => ?_)
    | with_reducible refine Keeps.ite (fun _ => ?_) (fun _ => ?_)
    | with_reducible apply State.hostRun_keeps
    | with_reducible apply State.cropRun_keeps
    | with_reducible apply State.layoutRun_keeps
    | with_reducible refine Keeps.foldl (fun _ _ _ => ?_) ?_
    | with_reducible refine Keeps.foldl_fst (fun _ _ _ => ?_) ?_
    | with_reducible refine Keeps.foldl_snd (fun _ _ _ => ?_) ?_
    | split

theorem State.reamEnd_keeps {tw : Touch} {s0 : State} (s : State) (e : Nat) (hK : Keeps tw s0 s) (hw_hbm : tw.hbm = true) :
    Keeps tw s0 (State.reamEnd s e) := by
  unfold State.reamEnd
  try dsimp only
  repeat' first
    | with_reducible assumption
    | with_reducible refine State.free_keeps_eq _ (by assumption) ?_
    | with_reducible refine Keeps.ite (fun _ => ?_) (fun _ => ?_)
    | with_reducible apply State.free_keeps
    | with_reducible apply State.scrambleOut_keeps
    | with_reducible apply State.endRun_keeps
    | with_reducible apply State.hostResult_keeps
    | with_reducible refine Keeps.foldl (fun _ _ _ => ?_) ?_
    | with_reducible refine Keeps.foldl_fst (fun _ _ _ => ?_) ?_
    | with_reducible refine Keeps.foldl_snd (fun _ _ _ => ?_) ?_
    | split

theorem State.reamEndClient_keeps {tw : Touch} {s0 : State} (s : State) (client : Nat) (hK : Keeps tw s0 s) (hw_hbm : tw.hbm = true) :
    Keeps tw s0 (State.reamEndClient s client) := by
  unfold State.reamEndClient
  try dsimp only
  repeat' first
    | with_reducible assumption
    | with_reducible refine Keeps.ite (fun _ => ?_) (fun _ => ?_)
    | with_reducible apply forN_keeps
    | with_reducible apply State.setEngine_keeps
    | with_reducible apply State.reamEnd_keeps
    | with_reducible refine Keeps.foldl (fun _ _ _ => ?_) ?_
    | with_reducible refine Keeps.foldl_fst (fun _ _ _ => ?_) ?_
    | with_reducible refine Keeps.foldl_snd (fun _ _ _ => ?_) ?_
    | split
    | intro _

theorem State.reamEndAll_keeps {tw : Touch} {s0 : State} (s : State) (hK : Keeps tw s0 s) (hw_hbm : tw.hbm = true) :
    Keeps tw s0 (State.reamEndAll s) := by
  unfold State.reamEndAll
  try dsimp only
  repeat' first
    | with_reducible assumption
    | with_reducible refine Keeps.ite (fun _ => ?_) (fun _ => ?_)
    | with_reducible apply forN_keeps
    | with_reducible apply State.reamEnd_keeps
    | with_reducible apply State.setEngine_keeps
    | with_reducible refine Keeps.foldl (fun _ _ _ => ?_) ?_
    | with_reducible refine Keeps.foldl_fst (fun _ _ _ => ?_) ?_
    | with_reducible refine Keeps.foldl_snd (fun _ _ _ => ?_) ?_
    | split
    | intro _

theorem State.reamHostReset_keeps {tw : Touch} {s0 : State} (s : State) (hK : Keeps tw s0 s) :
    Keeps tw s0 (State.reamHostReset s) := by
  unfold State.reamHostReset
  try dsimp only
  repeat' first
    | with_reducible assumption
    | with_reducible refine Keeps.ite (fun _ => ?_) (fun _ => ?_)
    | with_reducible apply forN_keeps
    | with_reducible apply State.setEngine_keeps
    | with_reducible apply State.down_keeps
    | with_reducible refine Keeps.foldl (fun _ _ _ => ?_) ?_
    | with_reducible refine Keeps.foldl_fst (fun _ _ _ => ?_) ?_
    | with_reducible refine Keeps.foldl_snd (fun _ _ _ => ?_) ?_
    | split
    | intro _

end Sys2Proof.Machine
end

