-- ==== Sys2Proof/Laws/KeepsDma.lean ====
section
/-! SUPPORT. What the operations of Machine/Dma.lean keep of a state (Laws/Keeps.lean). -/

namespace Sys2Proof.Machine

theorem State.setDma_keeps {tw : Touch} {s0 : State} (s : State) (i : Nat) (c : DmaCh) (hK : Keeps tw s0 s) :
    Keeps tw s0 (State.setDma s i c) := by
  unfold State.setDma
  try dsimp only
  repeat' first
    | with_reducible assumption
    | with_reducible refine Keeps.ite (fun _ => ?_) (fun _ => ?_)
    | with_reducible refine Keeps.foldl (fun _ _ _ => ?_) ?_
    | with_reducible refine Keeps.foldl_fst (fun _ _ _ => ?_) ?_
    | with_reducible refine Keeps.foldl_snd (fun _ _ _ => ?_) ?_
    | split
    | intro _
    | fail_if_no_progress (with_reducible apply Keeps.upd)

theorem State.dmaEvent_keeps {tw : Touch} {s0 : State} (s : State) (i : Nat) (p : Nat) (hK : Keeps tw s0 s) :
    Keeps tw s0 (State.dmaEvent s i p) := by
  unfold State.dmaEvent
  try dsimp only
  repeat' first
    | with_reducible assumption
    | with_reducible refine Keeps.ite (fun _ => ?_) (fun _ => ?_)
    | with_reducible apply State.irq_keeps
    | with_reducible apply State.event_keeps

theorem State.dmaFetch_keeps {tw : Touch} {s0 : State} (s : State) (i : Nat) (addr : Nat) (hbm : Bool) (hK : Keeps tw s0 s) :
    Keeps tw s0 (State.dmaFetch s i addr hbm) := by
  unfold State.dmaFetch
  try dsimp only
  repeat' first
    | with_reducible assumption
    | with_reducible refine Keeps.ite (fun _ => ?_) (fun _ => ?_)
    | with_reducible apply State.setDma_keeps
    | with_reducible apply State.wr_keeps
    | with_reducible apply State.emit_keeps

theorem State.dmaBegin_keeps {tw : Touch} {s0 : State} (s : State) (i : Nat) (gen : Nat) (hK : Keeps tw s0 s) :
    Keeps tw s0 (State.dmaBegin s i gen) := by
  unfold State.dmaBegin
  try dsimp only
  repeat' first
    | with_reducible assumption
    | with_reducible refine Keeps.ite (fun _ => ?_) (fun _ => ?_)
    | with_reducible apply State.wr_keeps
    | with_reducible apply State.setDma_keeps
    | with_reducible apply State.dmaFetch_keeps

theorem State.dmaStart_keeps {tw : Touch} {s0 : State} (s : State) (i : Nat) (gen : Nat) (hK : Keeps tw s0 s) :
    Keeps tw s0 (State.dmaStart s i gen) := by
  unfold State.dmaStart
  try dsimp only
  repeat' first
    | with_reducible assumption
    | with_reducible refine Keeps.ite (fun _ => ?_) (fun _ => ?_)
    | with_reducible apply State.dmaBegin_keeps
    | with_reducible apply State.wr_keeps
    | with_reducible apply State.setDma_keeps
    | with_reducible apply State.overrun_keeps
    | with_reducible apply State.up_keeps

theorem State.dmaDenied_keeps {tw : Touch} {s0 : State} (s : State) (i : Nat) (hK : Keeps tw s0 s) :
    Keeps tw s0 (State.dmaDenied s i) := by
  unfold State.dmaDenied
  try dsimp only
  repeat' first
    | with_reducible assumption
    | with_reducible refine Keeps.ite (fun _ => ?_) (fun _ => ?_)
    | with_reducible apply State.accessFault_keeps
    | with_reducible apply State.up_keeps

theorem execDmaStart_keeps {tw : Touch} {s0 : State} (ch : Fin 32) (s : State) (hK : Keeps tw s0 s) :
    KeepsOut tw s0 (execDmaStart ch s) := by
  unfold execDmaStart
  try dsimp only
  repeat' first
    | with_reducible assumption
    | with_reducible refine KeepsOut.next ?_
    | with_reducible refine KeepsOut.ite (fun _ => ?_) (fun _ => ?_)
    | with_reducible refine Keeps.ite (fun _ => ?_) (fun _ => ?_)
    | with_reducible apply State.dmaStart_keeps
    | with_reducible apply State.dmaDenied_keeps

theorem execDmaStartEvent_keeps {tw : Touch} {s0 : State} (ch : Fin 32) (gen : Fin 8) (s : State) (hK : Keeps tw s0 s) :
    KeepsOut tw s0 (execDmaStartEvent ch gen s) := by
  unfold execDmaStartEvent
  try dsimp only
  repeat' first
    | with_reducible assumption
    | with_reducible refine KeepsOut.next ?_
    | with_reducible refine KeepsOut.ite (fun _ => ?_) (fun _ => ?_)
    | with_reducible refine Keeps.ite (fun _ => ?_) (fun _ => ?_)
    | with_reducible apply State.dmaStart_keeps

theorem State.dmaHalt_keeps {tw : Touch} {s0 : State} (s : State) (i : Nat) (status : Nat) (cause : Nat) (fault : Nat) (back : Bool) (hK : Keeps tw s0 s) (hw_hbm : tw.hbm = true) :
    Keeps tw s0 (State.dmaHalt s i status cause fault back) := by
  unfold State.dmaHalt
  try dsimp only
  repeat' first
    | with_reducible assumption
    | with_reducible refine Keeps.ite (fun _ => ?_) (fun _ => ?_)
    | with_reducible apply State.store_keeps
    | with_reducible apply State.emit_keeps
    | with_reducible apply State.setDma_keeps
    | with_reducible apply State.wr_keeps
    | with_reducible apply State.wr64_keeps
    | with_reducible apply State.dmaEvent_keeps

theorem State.dmaAbort_keeps {tw : Touch} {s0 : State} (s : State) (i : Nat) (hK : Keeps tw s0 s) (hw_hbm : tw.hbm = true) :
    Keeps tw s0 (State.dmaAbort s i) := by
  unfold State.dmaAbort
  try dsimp only
  repeat' first
    | with_reducible assumption
    | with_reducible refine Keeps.ite (fun _ => ?_) (fun _ => ?_)
    | with_reducible apply State.setDma_keeps
    | with_reducible apply State.dmaHalt_keeps

theorem execDmaAbort_keeps {tw : Touch} {s0 : State} (ch : Fin 32) (s : State) (hK : Keeps tw s0 s) (hw_hbm : tw.hbm = true) :
    KeepsOut tw s0 (execDmaAbort ch s) := by
  unfold execDmaAbort
  try dsimp only
  repeat' first
    | with_reducible assumption
    | with_reducible refine KeepsOut.next ?_
    | with_reducible refine KeepsOut.ite (fun _ => ?_) (fun _ => ?_)
    | with_reducible refine Keeps.ite (fun _ => ?_) (fun _ => ?_)
    | with_reducible apply State.dmaAbort_keeps
    | with_reducible apply State.dmaDenied_keeps

theorem State.dmaTake_keeps {tw : Touch} {s0 : State} (s : State) (i : Nat) (b : Bytes) (hK : Keeps tw s0 s) (hw_hbm : tw.hbm = true) :
    Keeps tw s0 (State.dmaTake s i b) := by
  unfold State.dmaTake
  try dsimp only
  repeat' first
    | with_reducible assumption
    | with_reducible refine Keeps.ite (fun _ => ?_) (fun _ => ?_)
    | with_reducible apply State.setDma_keeps
    | with_reducible apply State.dmaHalt_keeps
    | with_reducible apply State.wr_keeps
    | with_reducible refine Keeps.foldl (fun _ _ _ => ?_) ?_
    | with_reducible refine Keeps.foldl_fst (fun _ _ _ => ?_) ?_
    | with_reducible refine Keeps.foldl_snd (fun _ _ _ => ?_) ?_
    | split

theorem execDmaDescFetch_keeps {tw : Touch} {s0 : State} (ch : Fin 32) (data : Bytes) (s : State) (hK : Keeps tw s0 s) (hw_hbm : tw.hbm = true) :
    KeepsOut tw s0 (execDmaDescFetch ch data s) := by
  unfold execDmaDescFetch
  try dsimp only
  repeat' first
    | with_reducible assumption
    | with_reducible refine KeepsOut.next ?_
    | with_reducible refine KeepsOut.ite (fun _ => ?_) (fun _ => ?_)
    | with_reducible refine Keeps.ite (fun _ => ?_) (fun _ => ?_)
    | with_reducible apply State.dmaHalt_keeps
    | with_reducible apply State.dmaTake_keeps
    | with_reducible apply State.readFailed_keeps
    | with_reducible refine Keeps.foldl (fun _ _ _ => ?_) ?_
    | with_reducible refine Keeps.foldl_fst (fun _ _ _ => ?_) ?_
    | with_reducible refine Keeps.foldl_snd (fun _ _ _ => ?_) ?_
    | split

theorem State.dmaProgress_keeps {tw : Touch} {s0 : State} (s : State) (i : Nat) (n : Nat) (hK : Keeps tw s0 s) :
    Keeps tw s0 (State.dmaProgress s i n) := by
  unfold State.dmaProgress
  try dsimp only
  repeat' first
    | with_reducible assumption
    | with_reducible refine Keeps.ite (fun _ => ?_) (fun _ => ?_)
    | with_reducible apply State.count_keeps
    | with_reducible apply State.setDma_keeps
    | with_reducible apply State.dmaEvent_keeps
    | with_reducible refine Keeps.foldl (fun _ _ _ => ?_) ?_
    | with_reducible refine Keeps.foldl_fst (fun _ _ _ => ?_) ?_
    | with_reducible refine Keeps.foldl_snd (fun _ _ _ => ?_) ?_
    | split

theorem State.dmaFinish_keeps {tw : Touch} {s0 : State} (s : State) (i : Nat) (hK : Keeps tw s0 s) (hw_hbm : tw.hbm = true) :
    Keeps tw s0 (State.dmaFinish s i) := by
  unfold State.dmaFinish
  try dsimp only
  repeat' first
    | with_reducible assumption
    | with_reducible refine Keeps.ite (fun _ => ?_) (fun _ => ?_)
    | with_reducible apply State.wr_keeps
    | with_reducible apply State.dmaEvent_keeps
    | with_reducible apply State.setDma_keeps
    | with_reducible apply State.dmaHalt_keeps
    | with_reducible apply State.dmaFetch_keeps
    | with_reducible refine Keeps.foldl (fun _ _ _ => ?_) ?_
    | with_reducible refine Keeps.foldl_fst (fun _ _ _ => ?_) ?_
    | with_reducible refine Keeps.foldl_snd (fun _ _ _ => ?_) ?_
    | split

theorem execDmaDescComplete_keeps {tw : Touch} {s0 : State} (ch : Fin 32) (s : State) (hK : Keeps tw s0 s) (hw_hbm : tw.hbm = true) :
    KeepsOut tw s0 (execDmaDescComplete ch s) := by
  unfold execDmaDescComplete
  try dsimp only
  repeat' first
    | with_reducible assumption
    | with_reducible refine KeepsOut.next ?_
    | with_reducible refine KeepsOut.ite (fun _ => ?_) (fun _ => ?_)
    | with_reducible refine Keeps.ite (fun _ => ?_) (fun _ => ?_)
    | with_reducible apply State.dmaFinish_keeps
    | with_reducible apply State.store_keeps
    | with_reducible apply State.emit_keeps
    | with_reducible apply State.setDma_keeps
    | with_reducible refine Keeps.foldl (fun _ _ _ => ?_) ?_
    | with_reducible refine Keeps.foldl_fst (fun _ _ _ => ?_) ?_
    | with_reducible refine Keeps.foldl_snd (fun _ _ _ => ?_) ?_
    | split

theorem execDmaBusError_keeps {tw : Touch} {s0 : State} (ch : Fin 32) (s : State) (hK : Keeps tw s0 s) (hw_hbm : tw.hbm = true) :
    KeepsOut tw s0 (execDmaBusError ch s) := by
  unfold execDmaBusError
  try dsimp only
  repeat' first
    | with_reducible assumption
    | with_reducible refine KeepsOut.next ?_
    | with_reducible refine KeepsOut.ite (fun _ => ?_) (fun _ => ?_)
    | with_reducible refine Keeps.ite (fun _ => ?_) (fun _ => ?_)
    | with_reducible apply State.log_keeps
    | with_reducible apply State.dmaHalt_keeps

theorem State.dmaSettle_keeps {tw : Touch} {s0 : State} (s : State) (i : Nat) (hK : Keeps tw s0 s) (hw_hbm : tw.hbm = true) :
    Keeps tw s0 (State.dmaSettle s i) := by
  unfold State.dmaSettle
  try dsimp only
  repeat' first
    | with_reducible assumption
    | with_reducible refine Keeps.ite (fun _ => ?_) (fun _ => ?_)
    | with_reducible apply State.dmaHalt_keeps

theorem execPcieCompletionRx_keeps {tw : Touch} {s0 : State} (ch : Fin 32) (data : Bytes) (s : State) (hK : Keeps tw s0 s) (hw_hbm : tw.hbm = true) :
    KeepsOut tw s0 (execPcieCompletionRx ch data s) := by
  unfold execPcieCompletionRx
  try dsimp only
  repeat' first
    | with_reducible assumption
    | with_reducible refine State.writeMem_keeps_eq _ _ _ _ (by assumption) ?_ (by assumption)
    | with_reducible refine KeepsOut.next ?_
    | with_reducible refine KeepsOut.ite (fun _ => ?_) (fun _ => ?_)
    | with_reducible refine Keeps.ite (fun _ => ?_) (fun _ => ?_)
    | with_reducible apply State.setDma_keeps
    | with_reducible apply State.dmaSettle_keeps
    | with_reducible apply State.dmaFinish_keeps
    | with_reducible apply State.dmaProgress_keeps
    | with_reducible apply State.writeMem_keeps
    | with_reducible apply State.dmaHalt_keeps
    | with_reducible refine Keeps.foldl (fun _ _ _ => ?_) ?_
    | with_reducible refine Keeps.foldl_fst (fun _ _ _ => ?_) ?_
    | with_reducible refine Keeps.foldl_snd (fun _ _ _ => ?_) ?_
    | split

theorem State.dmaPiece_keeps {tw : Touch} {s0 : State} (s : State) (i : Nat) (hK : Keeps tw s0 s) (hw_hbm : tw.hbm = true) :
    Keeps tw s0 (State.dmaPiece s i) := by
  unfold State.dmaPiece
  try dsimp only
  repeat' first
    | with_reducible assumption
    | with_reducible refine State.writeMem_keeps_eq _ _ _ _ (by assumption) ?_ (by assumption)
    | with_reducible refine Keeps.ite (fun _ => ?_) (fun _ => ?_)
    | with_reducible apply forAll_keeps
    | with_reducible apply State.emit_keeps
    | with_reducible apply State.setDma_keeps
    | with_reducible apply State.dmaHalt_keeps
    | with_reducible apply State.readFailed_keeps
    | with_reducible apply State.writeMem_keeps
    | with_reducible apply State.dmaProgress_keeps
    | with_reducible refine Keeps.foldl (fun _ _ _ => ?_) ?_
    | with_reducible refine Keeps.foldl_fst (fun _ _ _ => ?_) ?_
    | with_reducible refine Keeps.foldl_snd (fun _ _ _ => ?_) ?_
    | split
    | intro _

theorem State.ringPiece_keeps {tw : Touch} {s0 : State} (s : State) (k : Nat) (hK : Keeps tw s0 s) :
    Keeps tw s0 (State.ringPiece s k) := by
  unfold State.ringPiece
  try dsimp only
  repeat' first
    | with_reducible assumption
    | with_reducible refine Keeps.ite (fun _ => ?_) (fun _ => ?_)
    | with_reducible apply State.writeCrop_keeps
    | with_reducible apply forN_keeps
    | with_reducible apply State.writeEntry_keeps
    | with_reducible refine Keeps.foldl (fun _ _ _ => ?_) ?_
    | with_reducible refine Keeps.foldl_fst (fun _ _ _ => ?_) ?_
    | with_reducible refine Keeps.foldl_snd (fun _ _ _ => ?_) ?_
    | split
    | intro _

theorem execDmaPiece_keeps {tw : Touch} {s0 : State} (s : State) (hK : Keeps tw s0 s) (hw_hbm : tw.hbm = true) :
    KeepsOut tw s0 (execDmaPiece s) := by
  unfold execDmaPiece
  try dsimp only
  repeat' first
    | with_reducible assumption
    | with_reducible refine KeepsOut.next ?_
    | with_reducible refine KeepsOut.ite (fun _ => ?_) (fun _ => ?_)
    | with_reducible refine Keeps.ite (fun _ => ?_) (fun _ => ?_)
    | with_reducible apply State.ringPiece_keeps
    | with_reducible apply State.dmaPiece_keeps
    | with_reducible refine Keeps.foldl (fun _ _ _ => ?_) ?_
    | with_reducible refine Keeps.foldl_fst (fun _ _ _ => ?_) ?_
    | with_reducible refine Keeps.foldl_snd (fun _ _ _ => ?_) ?_
    | split
    | intro _
    | fail_if_no_progress (with_reducible apply Keeps.upd)

theorem execDmaPieceDeferExpiry_keeps {tw : Touch} {s0 : State} (ch : Fin 32) (s : State) (hK : Keeps tw s0 s) (hw_hbm : tw.hbm = true) :
    KeepsOut tw s0 (execDmaPieceDeferExpiry ch s) := by
  unfold execDmaPieceDeferExpiry
  try dsimp only
  repeat' first
    | with_reducible assumption
    | with_reducible refine KeepsOut.next ?_
    | with_reducible refine KeepsOut.ite (fun _ => ?_) (fun _ => ?_)
    | with_reducible refine Keeps.ite (fun _ => ?_) (fun _ => ?_)
    | with_reducible apply State.dmaPiece_keeps

theorem State.dmaHostReset_keeps {tw : Touch} {s0 : State} (s : State) (hK : Keeps tw s0 s) :
    Keeps tw s0 (State.dmaHostReset s) := by
  unfold State.dmaHostReset
  try dsimp only
  repeat' first
    | with_reducible assumption
    | with_reducible refine Keeps.ite (fun _ => ?_) (fun _ => ?_)
    | with_reducible apply forN_keeps
    | with_reducible apply State.setDma_keeps
    | with_reducible apply State.wr_keeps
    | with_reducible apply State.event_keeps
    | with_reducible refine Keeps.foldl (fun _ _ _ => ?_) ?_
    | with_reducible refine Keeps.foldl_fst (fun _ _ _ => ?_) ?_
    | with_reducible refine Keeps.foldl_snd (fun _ _ _ => ?_) ?_
    | split
    | intro _

end Sys2Proof.Machine
end

