-- ==== Sys2Proof/Laws/KeepsLink.lean ====
section
/-! SUPPORT. What the operations of Machine/Link.lean keep of a state (Laws/Keeps.lean). -/

namespace Sys2Proof.Machine

theorem State.bondUpHook_keeps {tw : Touch} {s0 : State} (s : State) (n : Nat) (hK : Keeps tw s0 s) :
    Keeps tw s0 (State.bondUpHook s n) := by
  unfold State.bondUpHook
  try dsimp only
  repeat' first
    | with_reducible assumption
    | with_reducible refine Keeps.ite (fun _ => ?_) (fun _ => ?_)
    | with_reducible apply State.sensorBondUp_keeps
    | with_reducible apply State.setLaidCh_keeps
    | with_reducible apply forN_keeps
    | with_reducible apply State.setSport_keeps
    | with_reducible refine Keeps.foldl (fun _ _ _ => ?_) ?_
    | with_reducible refine Keeps.foldl_fst (fun _ _ _ => ?_) ?_
    | with_reducible refine Keeps.foldl_snd (fun _ _ _ => ?_) ?_
    | split
    | intro _

theorem State.bondDownHook_keeps {tw : Touch} {s0 : State} (s : State) (n : Nat) (hK : Keeps tw s0 s) :
    Keeps tw s0 (State.bondDownHook s n) := by
  unfold State.bondDownHook
  try dsimp only
  repeat' first
    | with_reducible assumption
    | with_reducible refine Keeps.ite (fun _ => ?_) (fun _ => ?_)
    | with_reducible apply State.sensorBondDown_keeps
    | with_reducible apply State.drvLaneDown_keeps
    | with_reducible apply State.backBreak_keeps
    | with_reducible apply forN_keeps
    | with_reducible apply State.dropCredits_keeps
    | with_reducible refine Keeps.foldl (fun _ _ _ => ?_) ?_
    | with_reducible refine Keeps.foldl_fst (fun _ _ _ => ?_) ?_
    | with_reducible refine Keeps.foldl_snd (fun _ _ _ => ?_) ?_
    | split
    | intro _

theorem State.bondUp_keeps {tw : Touch} {s0 : State} (s : State) (n : Nat) (hK : Keeps tw s0 s) :
    Keeps tw s0 (State.bondUp s n) := by
  unfold State.bondUp
  try dsimp only
  repeat' first
    | with_reducible assumption
    | with_reducible refine Keeps.ite (fun _ => ?_) (fun _ => ?_)
    | with_reducible apply forAll_keeps
    | with_reducible apply State.setLane_keeps
    | with_reducible apply State.up_keeps
    | with_reducible apply State.wr_keeps
    | with_reducible apply State.bondUpHook_keeps
    | with_reducible refine Keeps.foldl (fun _ _ _ => ?_) ?_
    | with_reducible refine Keeps.foldl_fst (fun _ _ _ => ?_) ?_
    | with_reducible refine Keeps.foldl_snd (fun _ _ _ => ?_) ?_
    | split
    | intro _
    | fail_if_no_progress (with_reducible apply Keeps.upd)

theorem State.bondDown_keeps {tw : Touch} {s0 : State} (s : State) (n : Nat) (hK : Keeps tw s0 s) :
    Keeps tw s0 (State.bondDown s n) := by
  unfold State.bondDown
  try dsimp only
  repeat' first
    | with_reducible assumption
    | with_reducible refine Keeps.ite (fun _ => ?_) (fun _ => ?_)
    | with_reducible apply forAll_keeps
    | with_reducible apply State.wr_keeps
    | with_reducible apply State.count_keeps
    | with_reducible apply State.setLane_keeps
    | with_reducible apply State.down_keeps
    | with_reducible apply State.bondDownHook_keeps
    | with_reducible refine Keeps.foldl (fun _ _ _ => ?_) ?_
    | with_reducible refine Keeps.foldl_fst (fun _ _ _ => ?_) ?_
    | with_reducible refine Keeps.foldl_snd (fun _ _ _ => ?_) ?_
    | split
    | intro _

theorem State.laneFalls_keeps {tw : Touch} {s0 : State} (s : State) (n : Nat) (st : Nat) (hK : Keeps tw s0 s) :
    Keeps tw s0 (State.laneFalls s n st) := by
  unfold State.laneFalls
  try dsimp only
  repeat' first
    | with_reducible assumption
    | with_reducible refine Keeps.ite (fun _ => ?_) (fun _ => ?_)
    | with_reducible apply State.bondDown_keeps
    | with_reducible apply State.wr_keeps
    | with_reducible apply State.setLane_keeps

theorem State.laneOff_keeps {tw : Touch} {s0 : State} (s : State) (n : Nat) (hK : Keeps tw s0 s) :
    Keeps tw s0 (State.laneOff s n) := by
  unfold State.laneOff
  try dsimp only
  repeat' first
    | with_reducible assumption
    | with_reducible refine Keeps.ite (fun _ => ?_) (fun _ => ?_)
    | with_reducible apply State.count_keeps
    | with_reducible apply State.laneFalls_keeps

theorem State.bondCheck_keeps {tw : Touch} {s0 : State} (s : State) (n : Nat) (slot : Nat) (hK : Keeps tw s0 s) :
    Keeps tw s0 (State.bondCheck s n slot) := by
  unfold State.bondCheck
  try dsimp only
  repeat' first
    | with_reducible assumption
    | with_reducible refine Keeps.ite (fun _ => ?_) (fun _ => ?_)
    | with_reducible apply State.up_keeps
    | with_reducible apply State.bondDown_keeps
    | with_reducible apply forAll_keeps
    | with_reducible apply State.wr_keeps
    | with_reducible apply State.bondUp_keeps
    | with_reducible refine Keeps.foldl (fun _ _ _ => ?_) ?_
    | with_reducible refine Keeps.foldl_fst (fun _ _ _ => ?_) ?_
    | with_reducible refine Keeps.foldl_snd (fun _ _ _ => ?_) ?_
    | split
    | intro _

theorem State.sensorCtrl_keeps {tw : Touch} {s0 : State} (s : State) (n : Nat) (p : Nat) (v : Nat) (hK : Keeps tw s0 s) :
    Keeps tw s0 (State.sensorCtrl s n p v) := by
  unfold State.sensorCtrl
  try dsimp only
  repeat' first
    | with_reducible assumption
    | with_reducible refine Keeps.ite (fun _ => ?_) (fun _ => ?_)
    | with_reducible apply State.ctrlErr_keeps
    | with_reducible apply State.lineStart_keeps
    | with_reducible apply State.lineEnd_keeps
    | with_reducible apply State.frameStart_keeps
    | with_reducible apply State.frameEnd_keeps
    | with_reducible apply State.burstBroken_keeps
    | with_reducible apply State.setHbPort_keeps
    | with_reducible apply State.camStatus_keeps
    | with_reducible refine Keeps.foldl (fun _ _ _ => ?_) ?_
    | with_reducible refine Keeps.foldl_fst (fun _ _ _ => ?_) ?_
    | with_reducible refine Keeps.foldl_snd (fun _ _ _ => ?_) ?_
    | split

theorem State.ackNext_keeps {tw : Touch} {s0 : State} (s : State) (p : Nat) (data : Option Nat) (hK : Keeps tw s0 s) :
    Keeps tw s0 (State.ackNext s p data).1 := by
  unfold State.ackNext
  try dsimp only
  repeat' first
    | with_reducible assumption
    | with_reducible refine Keeps.ite (fun _ => ?_) (fun _ => ?_)
    | with_reducible apply State.setHbPort_keeps
    | with_reducible apply State.camAck_keeps
    | with_reducible refine Keeps.foldl (fun _ _ _ => ?_) ?_
    | with_reducible refine Keeps.foldl_fst (fun _ _ _ => ?_) ?_
    | with_reducible refine Keeps.foldl_snd (fun _ _ _ => ?_) ?_
    | split

theorem State.ackNext_keeps_eq {tw : Touch} {s0 : State} {tt : State} {res1 : Bool} (s : State) (p : Nat) (data : Option Nat) (he : State.ackNext s p data = (tt, res1)) (hK : Keeps tw s0 s) :
    Keeps tw s0 tt := by
  have := State.ackNext_keeps s p data hK 
  rw [he] at this
  exact this

theorem State.upstreamBad_keeps {tw : Touch} {s0 : State} (s : State) (h : Nat) (hK : Keeps tw s0 s) :
    Keeps tw s0 (State.upstreamBad s h) := by
  unfold State.upstreamBad
  try dsimp only
  repeat' first
    | with_reducible assumption
    | with_reducible refine Keeps.ite (fun _ => ?_) (fun _ => ?_)
    | with_reducible apply State.count_keeps
    | with_reducible apply State.ctrlErr_keeps

theorem State.blankerCtrl_keeps {tw : Touch} {s0 : State} (s : State) (h : Nat) (v : Nat) (hK : Keeps tw s0 s) :
    Keeps tw s0 (State.blankerCtrl s h v) := by
  unfold State.blankerCtrl
  try dsimp only
  repeat' first
    | with_reducible assumption
    | with_reducible refine State.takeSeq_keeps_eq _ _ _ _ _ (by assumption) ?_
    | with_reducible refine Keeps.ite (fun _ => ?_) (fun _ => ?_)
    | with_reducible apply State.upstreamBad_keeps
    | with_reducible apply State.backStart_keeps
    | with_reducible apply State.drvStatus_keeps
    | with_reducible apply State.takeSeq_keeps
    | with_reducible apply State.setScreeCh_keeps
    | with_reducible refine Keeps.foldl (fun _ _ _ => ?_) ?_
    | with_reducible refine Keeps.foldl_fst (fun _ _ _ => ?_) ?_
    | with_reducible refine Keeps.foldl_snd (fun _ _ _ => ?_) ?_
    | split

theorem State.sampleBroken_keeps {tw : Touch} {s0 : State} (s : State) (n : Nat) (hK : Keeps tw s0 s) :
    Keeps tw s0 (State.sampleBroken s n) := by
  unfold State.sampleBroken
  try dsimp only
  repeat' first
    | with_reducible assumption
    | with_reducible refine Keeps.ite (fun _ => ?_) (fun _ => ?_)
    | with_reducible apply State.count_keeps
    | with_reducible apply State.setLane_keeps

theorem State.profileData_keeps {tw : Touch} {s0 : State} (s : State) (n : Nat) (v : Nat) (hK : Keeps tw s0 s) :
    Keeps tw s0 (State.profileData s n v) := by
  unfold State.profileData
  try dsimp only
  repeat' first
    | with_reducible assumption
    | with_reducible refine State.backData_keeps_eq _ _ _ (by assumption) ?_
    | with_reducible refine State.ackNext_keeps_eq _ _ _ (by assumption) ?_
    | with_reducible refine Keeps.ite (fun _ => ?_) (fun _ => ?_)
    | with_reducible apply State.ackNext_keeps
    | with_reducible apply State.sensorData_keeps
    | with_reducible apply State.backData_keeps
    | with_reducible apply State.upstreamBad_keeps
    | with_reducible apply State.ctrlErr_keeps
    | with_reducible apply State.setLane_keeps
    | with_reducible apply State.syncSample_keeps
    | with_reducible refine Keeps.foldl (fun _ _ _ => ?_) ?_
    | with_reducible refine Keeps.foldl_fst (fun _ _ _ => ?_) ?_
    | with_reducible refine Keeps.foldl_snd (fun _ _ _ => ?_) ?_
    | split

theorem State.profileCtrl_keeps {tw : Touch} {s0 : State} (s : State) (n : Nat) (v : Nat) (arrival : Nat) (hK : Keeps tw s0 s) :
    Keeps tw s0 (State.profileCtrl s n v arrival) := by
  unfold State.profileCtrl
  try dsimp only
  repeat' first
    | with_reducible assumption
    | with_reducible refine Keeps.ite (fun _ => ?_) (fun _ => ?_)
    | with_reducible apply State.sensorCtrl_keeps
    | with_reducible apply State.blankerCtrl_keeps
    | with_reducible apply State.setLane_keeps
    | with_reducible apply State.ctrlErr_keeps

theorem State.interrupts_keeps {tw : Touch} {s0 : State} (s : State) (n : Nat) (idle : Bool) (hK : Keeps tw s0 s) :
    Keeps tw s0 (State.interrupts s n idle) := by
  unfold State.interrupts
  try dsimp only
  repeat' first
    | with_reducible assumption
    | with_reducible refine State.ackNext_keeps_eq _ _ _ (by assumption) ?_
    | with_reducible refine Keeps.ite (fun _ => ?_) (fun _ => ?_)
    | with_reducible apply State.ackNext_keeps
    | with_reducible apply State.backBreak_keeps
    | with_reducible apply State.sampleBroken_keeps

theorem State.commonBreaks_keeps {tw : Touch} {s0 : State} (s : State) (n : Nat) (hK : Keeps tw s0 s) :
    Keeps tw s0 (State.commonBreaks s n) := by
  unfold State.commonBreaks
  try dsimp only
  repeat' first
    | with_reducible assumption
    | with_reducible refine Keeps.ite (fun _ => ?_) (fun _ => ?_)
    | with_reducible apply State.burstBroken_keeps

theorem State.ctrlRx_keeps {tw : Touch} {s0 : State} (s : State) (n : Nat) (v : Nat) (meas : Nat) (hK : Keeps tw s0 s) :
    Keeps tw s0 (State.ctrlRx s n v meas) := by
  unfold State.ctrlRx
  try dsimp only
  repeat' first
    | with_reducible assumption
    | with_reducible refine Keeps.ite (fun _ => ?_) (fun _ => ?_)
    | with_reducible apply State.interrupts_keeps
    | with_reducible apply State.ctrlErr_keeps
    | with_reducible apply State.creditRx_keeps
    | with_reducible apply State.commonBreaks_keeps
    | with_reducible apply State.answerProbe_keeps
    | with_reducible apply State.echo_keeps
    | with_reducible apply State.profileCtrl_keeps
    | with_reducible refine Keeps.foldl (fun _ _ _ => ?_) ?_
    | with_reducible refine Keeps.foldl_fst (fun _ _ _ => ?_) ?_
    | with_reducible refine Keeps.foldl_snd (fun _ _ _ => ?_) ?_
    | split

theorem State.lostRx_keeps {tw : Touch} {s0 : State} (s : State) (n : Nat) (hK : Keeps tw s0 s) :
    Keeps tw s0 (State.lostRx s n) := by
  unfold State.lostRx
  try dsimp only
  repeat' first
    | with_reducible assumption
    | with_reducible refine Keeps.ite (fun _ => ?_) (fun _ => ?_)
    | with_reducible apply State.interrupts_keeps
    | with_reducible apply State.burstBroken_keeps

theorem State.deliver_keeps {tw : Touch} {s0 : State} (s : State) (n : Nat) (b : LaneBlk) (hK : Keeps tw s0 s) :
    Keeps tw s0 (State.deliver s n b) := by
  unfold State.deliver
  try dsimp only
  repeat' first
    | with_reducible assumption
    | with_reducible refine Keeps.ite (fun _ => ?_) (fun _ => ?_)
    | with_reducible apply State.lostRx_keeps
    | with_reducible apply State.ctrlRx_keeps
    | with_reducible apply State.profileData_keeps

theorem State.drainBond_keeps {tw : Touch} {s0 : State} (s : State) (n : Nat) (x2 : Nat) (hK : Keeps tw s0 s) :
    Keeps tw s0 (State.drainBond s n x2) := by
  induction x2 generalizing s n with
  | zero =>
    unfold State.drainBond
    try dsimp only
    repeat' first
      | with_reducible assumption
  | succ n ih =>
    unfold State.drainBond
    try dsimp only
    repeat' first
      | with_reducible assumption
      | with_reducible apply ih
      | with_reducible refine Keeps.ite (fun _ => ?_) (fun _ => ?_)
      | with_reducible apply State.setLane_keeps
      | with_reducible apply State.deliver_keeps
      | with_reducible refine Keeps.foldl (fun _ _ _ => ?_) ?_
      | with_reducible refine Keeps.foldl_fst (fun _ _ _ => ?_) ?_
      | with_reducible refine Keeps.foldl_snd (fun _ _ _ => ?_) ?_
      | split
      | intro _
      | fail_if_no_progress (with_reducible apply Keeps.upd)

theorem State.markerMissing_keeps {tw : Touch} {s0 : State} (s : State) (n : Nat) (hK : Keeps tw s0 s) :
    Keeps tw s0 (State.markerMissing s n) := by
  unfold State.markerMissing
  try dsimp only
  repeat' first
    | with_reducible assumption
    | with_reducible refine Keeps.ite (fun _ => ?_) (fun _ => ?_)
    | with_reducible apply State.setLane_keeps
    | with_reducible apply State.up_keeps
    | with_reducible apply State.laneFalls_keeps

theorem State.markerTaken_keeps {tw : Touch} {s0 : State} (s : State) (n : Nat) (v : Nat) (slot : Nat) (expected : Bool) (hK : Keeps tw s0 s) :
    Keeps tw s0 (State.markerTaken s n v slot expected) := by
  unfold State.markerTaken
  try dsimp only
  repeat' first
    | with_reducible assumption
    | with_reducible refine Keeps.ite (fun _ => ?_) (fun _ => ?_)
    | with_reducible apply State.up_keeps
    | with_reducible apply State.count_keeps
    | with_reducible apply State.wr_keeps
    | with_reducible apply State.setLane_keeps
    | with_reducible apply State.bondCheck_keeps

theorem State.enqueueBlk_keeps {tw : Touch} {s0 : State} (s : State) (n : Nat) (b : LaneBlk) (hK : Keeps tw s0 s) :
    Keeps tw s0 (State.enqueueBlk s n b) := by
  unfold State.enqueueBlk
  try dsimp only
  repeat' first
    | with_reducible assumption
    | with_reducible refine Keeps.ite (fun _ => ?_) (fun _ => ?_)
    | with_reducible apply State.drainBond_keeps
    | with_reducible apply State.setLane_keeps

theorem State.lockedBlk_keeps {tw : Touch} {s0 : State} (s : State) (n : Nat) (header : Nat) (payload : Nat) (meas : Nat) (hK : Keeps tw s0 s) :
    Keeps tw s0 (State.lockedBlk s n header payload meas) := by
  unfold State.lockedBlk
  try dsimp only
  repeat' first
    | with_reducible assumption
    | with_reducible refine Keeps.ite (fun _ => ?_) (fun _ => ?_)
    | with_reducible apply State.setLane_keeps
    | with_reducible apply State.count_keeps
    | with_reducible apply State.up_keeps
    | with_reducible apply State.laneFalls_keeps
    | with_reducible apply State.markerTaken_keeps
    | with_reducible apply State.markerMissing_keeps
    | with_reducible apply State.ctrlErr_keeps
    | with_reducible apply State.enqueueBlk_keeps

theorem execLaneBlockRx_keeps {tw : Touch} {s0 : State} (lane : Fin 64) (header : BitVec 2) (payload : BitVec 64) (measured : BitVec 64) (s : State) (hK : Keeps tw s0 s) :
    KeepsOut tw s0 (execLaneBlockRx lane header payload measured s) := by
  unfold execLaneBlockRx
  try dsimp only
  repeat' first
    | with_reducible assumption
    | with_reducible refine KeepsOut.next ?_
    | with_reducible refine KeepsOut.ite (fun _ => ?_) (fun _ => ?_)
    | with_reducible refine Keeps.ite (fun _ => ?_) (fun _ => ?_)
    | with_reducible apply State.setLane_keeps
    | with_reducible apply State.wr_keeps
    | with_reducible apply State.lockedBlk_keeps

theorem execCdrLost_keeps {tw : Touch} {s0 : State} (lane : Fin 64) (s : State) (hK : Keeps tw s0 s) :
    KeepsOut tw s0 (execCdrLost lane s) := by
  unfold execCdrLost
  try dsimp only
  repeat' first
    | with_reducible assumption
    | with_reducible refine KeepsOut.next ?_
    | with_reducible refine KeepsOut.ite (fun _ => ?_) (fun _ => ?_)
    | with_reducible refine Keeps.ite (fun _ => ?_) (fun _ => ?_)
    | with_reducible apply State.count_keeps
    | with_reducible apply State.up_keeps
    | with_reducible apply State.laneFalls_keeps

theorem execLaneRelock_keeps {tw : Touch} {s0 : State} (lane : Fin 64) (s : State) (hK : Keeps tw s0 s) :
    KeepsOut tw s0 (execLaneRelock lane s) := by
  unfold execLaneRelock
  try dsimp only
  repeat' first
    | with_reducible assumption
    | with_reducible refine KeepsOut.next ?_
    | with_reducible refine KeepsOut.ite (fun _ => ?_) (fun _ => ?_)
    | with_reducible refine Keeps.ite (fun _ => ?_) (fun _ => ?_)
    | with_reducible apply State.accessFault_keeps
    | with_reducible apply State.count_keeps
    | with_reducible apply State.laneFalls_keeps

theorem State.refclk_keeps {tw : Touch} {s0 : State} (s : State) (q : Nat) (ok : Bool) (hK : Keeps tw s0 s) :
    Keeps tw s0 (State.refclk s q ok) := by
  unfold State.refclk
  try dsimp only
  repeat' first
    | with_reducible assumption
    | with_reducible refine Keeps.ite (fun _ => ?_) (fun _ => ?_)
    | with_reducible apply State.wr_keeps
    | with_reducible apply forN_keeps
    | with_reducible apply State.laneStart_keeps
    | with_reducible apply State.laneOff_keeps
    | with_reducible refine Keeps.foldl (fun _ _ _ => ?_) ?_
    | with_reducible refine Keeps.foldl_fst (fun _ _ _ => ?_) ?_
    | with_reducible refine Keeps.foldl_snd (fun _ _ _ => ?_) ?_
    | split
    | intro _

theorem execRefclkChange_keeps {tw : Touch} {s0 : State} (quad : Fin 16) (ok : Bool) (s : State) (hK : Keeps tw s0 s) :
    KeepsOut tw s0 (execRefclkChange quad ok s) := by
  unfold execRefclkChange
  try dsimp only
  repeat' first
    | with_reducible assumption
    | with_reducible refine KeepsOut.next ?_
    | with_reducible refine KeepsOut.ite (fun _ => ?_) (fun _ => ?_)
    | with_reducible refine Keeps.ite (fun _ => ?_) (fun _ => ?_)
    | with_reducible apply State.refclk_keeps

theorem State.laneTest_keeps {tw : Touch} {s0 : State} (s : State) (n : Nat) (hK : Keeps tw s0 s) :
    Keeps tw s0 (State.laneTest s n) := by
  unfold State.laneTest
  try dsimp only
  repeat' first
    | with_reducible assumption
    | with_reducible refine Keeps.ite (fun _ => ?_) (fun _ => ?_)
    | with_reducible apply State.laneFalls_keeps

end Sys2Proof.Machine
end

