-- ==== Sys2Proof/Laws/KeepsNet.lean ====
section
/-! SUPPORT. What the operations of Machine/Net.lean keep of a state (Laws/Keeps.lean). -/

namespace Sys2Proof.Machine

theorem State.showSport_keeps {tw : Touch} {s0 : State} (s : State) (p : Nat) (hK : Keeps tw s0 s) :
    Keeps tw s0 (State.showSport s p) := by
  unfold State.showSport
  try dsimp only
  repeat' first
    | with_reducible assumption
    | with_reducible refine Keeps.ite (fun _ => ?_) (fun _ => ?_)
    | with_reducible apply State.wr_keeps
    | with_reducible apply State.showCredit_keeps

theorem State.showSports_keeps {tw : Touch} {s0 : State} (s : State) (hK : Keeps tw s0 s) :
    Keeps tw s0 (State.showSports s) := by
  unfold State.showSports
  try dsimp only
  repeat' first
    | with_reducible assumption
    | with_reducible refine Keeps.ite (fun _ => ?_) (fun _ => ?_)
    | with_reducible apply forN_keeps
    | with_reducible apply State.showSport_keeps
    | with_reducible refine Keeps.foldl (fun _ _ _ => ?_) ?_
    | with_reducible refine Keeps.foldl_fst (fun _ _ _ => ?_) ?_
    | with_reducible refine Keeps.foldl_snd (fun _ _ _ => ?_) ?_
    | split
    | intro _

theorem State.sendUdp_keeps {tw : Touch} {s0 : State} (s : State) (t : Nat) (e : Nat) (payload : Bytes) (hK : Keeps tw s0 s) :
    Keeps tw s0 (State.sendUdp s t e payload) := by
  unfold State.sendUdp
  try dsimp only
  repeat' first
    | with_reducible assumption
    | with_reducible refine Keeps.ite (fun _ => ?_) (fun _ => ?_)
    | with_reducible apply State.wr_keeps
    | with_reducible apply State.sendMac_keeps

theorem State.takeTx_keeps {tw : Touch} {s0 : State} (s : State) (p : Nat) (hK : Keeps tw s0 s) :
    Keeps tw s0 (State.takeTx s p).2 := by
  unfold State.takeTx
  try dsimp only
  repeat' first
    | with_reducible assumption
    | with_reducible refine Keeps.ite (fun _ => ?_) (fun _ => ?_)
    | with_reducible apply State.setSport_keeps
    | with_reducible apply State.wr_keeps

theorem State.takeTx_keeps_eq {tw : Touch} {s0 : State} {tt : State} {res1 : Nat} (s : State) (p : Nat) (he : State.takeTx s p = (res1, tt)) (hK : Keeps tw s0 s) :
    Keeps tw s0 tt := by
  have := State.takeTx_keeps s p hK 
  rw [he] at this
  exact this

theorem State.netTaken_keeps {tw : Touch} {s0 : State} (s : State) (type : Nat) (n : Nat) (hK : Keeps tw s0 s) :
    Keeps tw s0 (State.netTaken s type n) := by
  unfold State.netTaken
  try dsimp only
  repeat' first
    | with_reducible assumption
    | with_reducible refine Keeps.ite (fun _ => ?_) (fun _ => ?_)
    | with_reducible apply State.showCouch_keeps
    | with_reducible apply State.showGaps_keeps
    | with_reducible apply State.showStats_keeps
    | with_reducible refine Keeps.foldl (fun _ _ _ => ?_) ?_
    | with_reducible refine Keeps.foldl_fst (fun _ _ _ => ?_) ?_
    | with_reducible refine Keeps.foldl_snd (fun _ _ _ => ?_) ?_
    | split
    | intro _
    | fail_if_no_progress (with_reducible apply Keeps.upd)

theorem State.sendStream_keeps {tw : Touch} {s0 : State} (s : State) (j : Nat) (flush : Bool) (hK : Keeps tw s0 s) :
    Keeps tw s0 (State.sendStream s j flush) := by
  unfold State.sendStream
  try dsimp only
  repeat' first
    | with_reducible assumption
    | with_reducible refine State.takeTx_keeps_eq _ _ (by assumption) ?_
    | with_reducible refine Keeps.ite (fun _ => ?_) (fun _ => ?_)
    | with_reducible apply State.stall_keeps
    | with_reducible apply State.spend_keeps
    | with_reducible apply State.takeTx_keeps
    | with_reducible apply State.netTaken_keeps
    | with_reducible apply State.sendUdp_keeps
    | with_reducible refine Keeps.foldl (fun _ _ _ => ?_) ?_
    | with_reducible refine Keeps.foldl_fst (fun _ _ _ => ?_) ?_
    | with_reducible refine Keeps.foldl_snd (fun _ _ _ => ?_) ?_
    | split

theorem execStreamDatagramTx_keeps {tw : Touch} {s0 : State} (stream : Fin 256) (s : State) (hK : Keeps tw s0 s) :
    KeepsOut tw s0 (execStreamDatagramTx stream s) := by
  unfold execStreamDatagramTx
  try dsimp only
  repeat' first
    | with_reducible assumption
    | with_reducible refine KeepsOut.next ?_
    | with_reducible refine KeepsOut.ite (fun _ => ?_) (fun _ => ?_)
    | with_reducible refine Keeps.ite (fun _ => ?_) (fun _ => ?_)
    | with_reducible apply State.sendStream_keeps

theorem execStreamFlushTimeout_keeps {tw : Touch} {s0 : State} (stream : Fin 256) (s : State) (hK : Keeps tw s0 s) :
    KeepsOut tw s0 (execStreamFlushTimeout stream s) := by
  unfold execStreamFlushTimeout
  try dsimp only
  repeat' first
    | with_reducible assumption
    | with_reducible refine KeepsOut.next ?_
    | with_reducible refine KeepsOut.ite (fun _ => ?_) (fun _ => ?_)
    | with_reducible refine Keeps.ite (fun _ => ?_) (fun _ => ?_)
    | with_reducible apply State.sendStream_keeps

theorem execCreditDatagramTx_keeps {tw : Touch} {s0 : State} (port : Fin 1024) (s : State) (hK : Keeps tw s0 s) :
    KeepsOut tw s0 (execCreditDatagramTx port s) := by
  unfold execCreditDatagramTx
  try dsimp only
  repeat' first
    | with_reducible assumption
    | with_reducible refine State.takeTx_keeps_eq _ _ (by assumption) ?_
    | with_reducible refine KeepsOut.next ?_
    | with_reducible refine KeepsOut.ite (fun _ => ?_) (fun _ => ?_)
    | with_reducible refine Keeps.ite (fun _ => ?_) (fun _ => ?_)
    | with_reducible apply State.layoutGrant_keeps
    | with_reducible apply State.takeTx_keeps
    | with_reducible apply State.sendUdp_keeps
    | with_reducible refine Keeps.foldl (fun _ _ _ => ?_) ?_
    | with_reducible refine Keeps.foldl_fst (fun _ _ _ => ?_) ?_
    | with_reducible refine Keeps.foldl_snd (fun _ _ _ => ?_) ?_
    | split

theorem execEthLinkUp_keeps {tw : Touch} {s0 : State} (port : Fin 16) (s : State) (hK : Keeps tw s0 s) :
    KeepsOut tw s0 (execEthLinkUp port s) := by
  unfold execEthLinkUp
  try dsimp only
  repeat' first
    | with_reducible assumption
    | with_reducible refine KeepsOut.next ?_
    | with_reducible refine KeepsOut.ite (fun _ => ?_) (fun _ => ?_)
    | with_reducible refine Keeps.ite (fun _ => ?_) (fun _ => ?_)
    | with_reducible apply State.up_keeps
    | with_reducible apply State.wr_keeps

theorem State.ethDown_keeps {tw : Touch} {s0 : State} (s : State) (e : Nat) (hK : Keeps tw s0 s) :
    Keeps tw s0 (State.ethDown s e) := by
  unfold State.ethDown
  try dsimp only
  repeat' first
    | with_reducible assumption
    | with_reducible refine Keeps.ite (fun _ => ?_) (fun _ => ?_)
    | with_reducible apply State.down_keeps
    | with_reducible apply State.wr_keeps
    | with_reducible apply forN_keeps
    | with_reducible apply State.dropCredits_keeps
    | with_reducible refine Keeps.foldl (fun _ _ _ => ?_) ?_
    | with_reducible refine Keeps.foldl_fst (fun _ _ _ => ?_) ?_
    | with_reducible refine Keeps.foldl_snd (fun _ _ _ => ?_) ?_
    | split
    | intro _

theorem execEthLinkDown_keeps {tw : Touch} {s0 : State} (port : Fin 16) (s : State) (hK : Keeps tw s0 s) :
    KeepsOut tw s0 (execEthLinkDown port s) := by
  unfold execEthLinkDown
  try dsimp only
  repeat' first
    | with_reducible assumption
    | with_reducible refine KeepsOut.next ?_
    | with_reducible refine KeepsOut.ite (fun _ => ?_) (fun _ => ?_)
    | with_reducible refine Keeps.ite (fun _ => ?_) (fun _ => ?_)
    | with_reducible apply State.ethDown_keeps

theorem State.netSeq_keeps {tw : Touch} {s0 : State} (s : State) (p : Nat) (m : Nat) (hK : Keeps tw s0 s) :
    Keeps tw s0 (State.netSeq s p m).1 := by
  unfold State.netSeq
  try dsimp only
  repeat' first
    | with_reducible assumption
    | with_reducible refine Keeps.ite (fun _ => ?_) (fun _ => ?_)
    | with_reducible apply State.setSport_keeps
    | with_reducible apply State.wr_keeps
    | with_reducible apply State.count_keeps
    | with_reducible refine Keeps.foldl (fun _ _ _ => ?_) ?_
    | with_reducible refine Keeps.foldl_fst (fun _ _ _ => ?_) ?_
    | with_reducible refine Keeps.foldl_snd (fun _ _ _ => ?_) ?_
    | split

theorem State.netSeq_keeps_eq {tw : Touch} {s0 : State} {tt : State} {res1 : Bool} (s : State) (p : Nat) (m : Nat) (he : State.netSeq s p m = (tt, res1)) (hK : Keeps tw s0 s) :
    Keeps tw s0 tt := by
  have := State.netSeq_keeps s p m hK 
  rw [he] at this
  exact this

theorem State.netSample_keeps {tw : Touch} {s0 : State} (s : State) (j : Nat) (b : Bytes) (hK : Keeps tw s0 s) :
    Keeps tw s0 (State.netSample s j b) := by
  unfold State.netSample
  try dsimp only
  repeat' first
    | with_reducible assumption
    | with_reducible refine Keeps.ite (fun _ => ?_) (fun _ => ?_)
    | with_reducible apply State.grant_keeps
    | with_reducible apply State.count_keeps
    | with_reducible apply State.wr_keeps
    | with_reducible apply State.takeSample_keeps

theorem State.setMgmt_keeps {tw : Touch} {s0 : State} (s : State) (m : Nat) (v : MgmtStream) (hK : Keeps tw s0 s) :
    Keeps tw s0 (State.setMgmt s m v) := by
  unfold State.setMgmt
  try dsimp only
  repeat' first
    | with_reducible assumption
    | with_reducible refine Keeps.ite (fun _ => ?_) (fun _ => ?_)
    | with_reducible refine Keeps.foldl (fun _ _ _ => ?_) ?_
    | with_reducible refine Keeps.foldl_fst (fun _ _ _ => ?_) ?_
    | with_reducible refine Keeps.foldl_snd (fun _ _ _ => ?_) ?_
    | split
    | intro _
    | fail_if_no_progress (with_reducible apply Keeps.upd)

theorem State.mgmtEntry_keeps {tw : Touch} {s0 : State} (s : State) (m : Nat) (entry : Bytes) (hK : Keeps tw s0 s) :
    Keeps tw s0 (State.mgmtEntry s m entry) := by
  unfold State.mgmtEntry
  try dsimp only
  repeat' first
    | with_reducible assumption
    | with_reducible refine Keeps.ite (fun _ => ?_) (fun _ => ?_)
    | with_reducible apply State.setMgmt_keeps
    | with_reducible apply State.refuseEntry_keeps
    | with_reducible apply State.showOutstanding_keeps
    | with_reducible refine Keeps.foldl (fun _ _ _ => ?_) ?_
    | with_reducible refine Keeps.foldl_fst (fun _ _ _ => ?_) ?_
    | with_reducible refine Keeps.foldl_snd (fun _ _ _ => ?_) ?_
    | split
    | intro _
    | fail_if_no_progress (with_reducible apply Keeps.upd)

theorem State.mgmtDatagram_keeps {tw : Touch} {s0 : State} (s : State) (e : Nat) (m : Nat) (b : Bytes) (hK : Keeps tw s0 s) :
    Keeps tw s0 (State.mgmtDatagram s e m b) := by
  unfold State.mgmtDatagram
  try dsimp only
  repeat' first
    | with_reducible assumption
    | with_reducible refine State.netSeq_keeps_eq _ _ _ (by assumption) ?_
    | with_reducible refine Keeps.ite (fun _ => ?_) (fun _ => ?_)
    | with_reducible apply State.setSport_keeps
    | with_reducible apply State.grant_keeps
    | with_reducible apply State.setMgmt_keeps
    | with_reducible apply State.showOutstanding_keeps
    | with_reducible apply State.count_keeps
    | with_reducible apply State.netSeq_keeps
    | with_reducible apply State.mgmtEntry_keeps
    | with_reducible refine Keeps.foldl (fun _ _ _ => ?_) ?_
    | with_reducible refine Keeps.foldl_fst (fun _ _ _ => ?_) ?_
    | with_reducible refine Keeps.foldl_snd (fun _ _ _ => ?_) ?_
    | split
    | intro _
    | fail_if_no_progress (with_reducible apply Keeps.upd)

theorem State.deviceDatagram_keeps {tw : Touch} {s0 : State} (s : State) (e : Nat) (b : Bytes) (hK : Keeps tw s0 s) :
    Keeps tw s0 (State.deviceDatagram s e b) := by
  unfold State.deviceDatagram
  try dsimp only
  repeat' first
    | with_reducible assumption
    | with_reducible refine State.netSeq_keeps_eq _ _ _ (by assumption) ?_
    | with_reducible refine Keeps.ite (fun _ => ?_) (fun _ => ?_)
    | with_reducible apply State.count_keeps
    | with_reducible apply State.mgmtDatagram_keeps
    | with_reducible apply State.netSeq_keeps
    | with_reducible apply State.netSample_keeps
    | with_reducible apply forN_keeps
    | with_reducible apply State.takeLimit_keeps
    | with_reducible refine Keeps.foldl (fun _ _ _ => ?_) ?_
    | with_reducible refine Keeps.foldl_fst (fun _ _ _ => ?_) ?_
    | with_reducible refine Keeps.foldl_snd (fun _ _ _ => ?_) ?_
    | split
    | intro _

theorem execMacFrameRx_keeps {tw : Touch} {s0 : State} (port : Fin 16) (frame : Bytes) (fcsGood : Bool) (measured : Int) (fecCorrected : Nat) (fecUncorrected : Nat) (s : State) (hK : Keeps tw s0 s) :
    KeepsOut tw s0 (execMacFrameRx port frame fcsGood measured fecCorrected fecUncorrected s) := by
  unfold execMacFrameRx
  try dsimp only
  repeat' first
    | with_reducible assumption
    | with_reducible refine KeepsOut.next ?_
    | with_reducible refine KeepsOut.ite (fun _ => ?_) (fun _ => ?_)
    | with_reducible refine Keeps.ite (fun _ => ?_) (fun _ => ?_)
    | with_reducible apply State.count_keeps
    | with_reducible apply State.deviceDatagram_keeps
    | with_reducible apply State.layoutDatagram_keeps
    | with_reducible apply State.deliverFrame_keeps
    | with_reducible refine Keeps.foldl (fun _ _ _ => ?_) ?_
    | with_reducible refine Keeps.foldl_fst (fun _ _ _ => ?_) ?_
    | with_reducible refine Keeps.foldl_snd (fun _ _ _ => ?_) ?_
    | split

theorem State.mgmtCompletion_keeps {tw : Touch} {s0 : State} (s : State) (m : Nat) (r : Report) (hK : Keeps tw s0 s) :
    Keeps tw s0 (State.mgmtCompletion s m r) := by
  unfold State.mgmtCompletion
  try dsimp only
  repeat' first
    | with_reducible assumption
    | with_reducible refine State.takeTx_keeps_eq _ _ (by assumption) ?_
    | with_reducible refine Keeps.ite (fun _ => ?_) (fun _ => ?_)
    | with_reducible apply State.setMgmt_keeps
    | with_reducible apply State.takeTx_keeps
    | with_reducible apply State.sendUdp_keeps

theorem State.complete_keeps {tw : Touch} {s0 : State} (s : State) (r : Report) (hK : Keeps tw s0 s) :
    Keeps tw s0 (State.complete s r) := by
  unfold State.complete
  try dsimp only
  repeat' first
    | with_reducible assumption
    | with_reducible refine Keeps.ite (fun _ => ?_) (fun _ => ?_)
    | with_reducible apply State.showOutstanding_keeps
    | with_reducible apply State.ringCompletion_keeps
    | with_reducible apply State.mgmtCompletion_keeps
    | with_reducible refine Keeps.foldl (fun _ _ _ => ?_) ?_
    | with_reducible refine Keeps.foldl_fst (fun _ _ _ => ?_) ?_
    | with_reducible refine Keeps.foldl_snd (fun _ _ _ => ?_) ?_
    | split
    | intro _
    | fail_if_no_progress (with_reducible apply Keeps.upd)

end Sys2Proof.Machine
end

