-- ==== Sys2Proof/Laws/KeepsTest.lean ====
section
/-! SUPPORT. What the operations of Machine/Test.lean keep of a state (Laws/Keeps.lean). -/

namespace Sys2Proof.Machine

theorem State.retireByTest_keeps {tw : Touch} {s0 : State} (s : State) (isl : Nat) (hK : Keeps tw s0 s) :
    Keeps tw s0 (State.retireByTest s isl) := by
  unfold State.retireByTest
  try dsimp only
  repeat' first
    | with_reducible assumption
    | with_reducible refine Keeps.ite (fun _ => ?_) (fun _ => ?_)
    | with_reducible apply State.ridgeStart_keeps
    | with_reducible apply forN_keeps
    | with_reducible apply State.wr_keeps
    | with_reducible apply State.log_keeps
    | with_reducible apply State.ridgeEvent_keeps
    | with_reducible refine Keeps.foldl (fun _ _ _ => ?_) ?_
    | with_reducible refine Keeps.foldl_fst (fun _ _ _ => ?_) ?_
    | with_reducible refine Keeps.foldl_snd (fun _ _ _ => ?_) ?_
    | split
    | intro _

theorem State.failIsland_keeps {tw : Touch} {s0 : State} (s : State) (isl : Nat) (hK : Keeps tw s0 s) :
    Keeps tw s0 (State.failIsland s isl) := by
  unfold State.failIsland
  try dsimp only
  repeat' first
    | with_reducible assumption
    | with_reducible refine Keeps.ite (fun _ => ?_) (fun _ => ?_)
    | with_reducible apply State.retireByTest_keeps
    | with_reducible apply State.count_keeps
    | with_reducible apply State.up_keeps

theorem State.clearSecrets_keeps {tw : Touch} {s0 : State} (s : State) (isl : Nat) (zero : Bool) (hK : Keeps tw s0 s) (hw_keys : tw.keys = true) :
    Keeps tw s0 (State.clearSecrets s isl zero).1 := by
  unfold State.clearSecrets
  try dsimp only
  repeat' first
    | with_reducible assumption
    | with_reducible refine Keeps.ite (fun _ => ?_) (fun _ => ?_)
    | with_reducible apply State.count_keeps
    | with_reducible apply State.log_keeps
    | with_reducible apply State.putKeys_keeps
    | with_reducible apply forN_keeps
    | with_reducible apply State.setReg_keeps
    | with_reducible apply State.wr_keeps
    | with_reducible apply State.failIsland_keeps
    | with_reducible refine Keeps.foldl (fun _ _ _ => ?_) ?_
    | with_reducible refine Keeps.foldl_fst (fun _ _ _ => ?_) ?_
    | with_reducible refine Keeps.foldl_snd (fun _ _ _ => ?_) ?_
    | split
    | intro _
    | fail_if_no_progress (with_reducible apply Keeps.upd)

theorem State.clearSecrets_keeps_eq {tw : Touch} {s0 : State} {tt : State} {res1 : Bool} (s : State) (isl : Nat) (zero : Bool) (he : State.clearSecrets s isl zero = (tt, res1)) (hK : Keeps tw s0 s) (hw_keys : tw.keys = true) :
    Keeps tw s0 tt := by
  have := State.clearSecrets_keeps s isl zero hK hw_keys
  rw [he] at this
  exact this

theorem State.clearFor_keeps {tw : Touch} {s0 : State} (s : State) (islands : List Nat) (zero : Bool) (hK : Keeps tw s0 s) (hw_keys : tw.keys = true) :
    Keeps tw s0 (State.clearFor s islands zero).1 := by
  unfold State.clearFor
  try dsimp only
  repeat' first
    | with_reducible assumption
    | with_reducible refine State.clearSecrets_keeps_eq _ _ _ (by assumption) ?_ (by assumption)
    | with_reducible refine Keeps.ite (fun _ => ?_) (fun _ => ?_)
    | with_reducible apply State.clearSecrets_keeps
    | with_reducible refine Keeps.foldl (fun _ _ _ => ?_) ?_
    | with_reducible refine Keeps.foldl_fst (fun _ _ _ => ?_) ?_
    | with_reducible refine Keeps.foldl_snd (fun _ _ _ => ?_) ?_
    | split

theorem State.clearFor_keeps_eq {tw : Touch} {s0 : State} {tt : State} {res1 : List Nat} (s : State) (islands : List Nat) (zero : Bool) (he : State.clearFor s islands zero = (tt, res1)) (hK : Keeps tw s0 s) (hw_keys : tw.keys = true) :
    Keeps tw s0 tt := by
  have := State.clearFor_keeps s islands zero hK hw_keys
  rw [he] at this
  exact this

theorem execJtagInstruction_keeps {tw : Touch} {s0 : State} (scan : Bool) (clears07 : Bool) (clears88 : Bool) (s : State) (hK : Keeps tw s0 s) (hw_keys : tw.keys = true) :
    KeepsOut tw s0 (execJtagInstruction scan clears07 clears88 s) := by
  unfold execJtagInstruction
  try dsimp only
  repeat' first
    | with_reducible assumption
    | with_reducible refine State.clearSecrets_keeps_eq _ _ _ (by assumption) ?_ (by assumption)
    | with_reducible refine KeepsOut.next ?_
    | with_reducible refine KeepsOut.ite (fun _ => ?_) (fun _ => ?_)
    | with_reducible refine Keeps.ite (fun _ => ?_) (fun _ => ?_)
    | with_reducible apply State.clearSecrets_keeps

theorem State.startTest_keeps {tw : Touch} {s0 : State} (s : State) (r : TestRun) (hK : Keeps tw s0 s) :
    Keeps tw s0 (State.startTest s r) := by
  unfold State.startTest
  try dsimp only
  repeat' first
    | with_reducible assumption
    | with_reducible refine Keeps.ite (fun _ => ?_) (fun _ => ?_)
    | with_reducible apply forAll_keeps
    | with_reducible apply State.isolate_keeps
    | with_reducible apply State.wr_keeps
    | with_reducible refine Keeps.foldl (fun _ _ _ => ?_) ?_
    | with_reducible refine Keeps.foldl_fst (fun _ _ _ => ?_) ?_
    | with_reducible refine Keeps.foldl_snd (fun _ _ _ => ?_) ?_
    | split
    | intro _
    | fail_if_no_progress (with_reducible apply Keeps.upd)

theorem State.endTest_keeps {tw : Touch} {s0 : State} (s : State) (r : TestRun) (hK : Keeps tw s0 s) :
    Keeps tw s0 (State.endTest s r) := by
  unfold State.endTest
  try dsimp only
  repeat' first
    | with_reducible assumption
    | with_reducible refine Keeps.ite (fun _ => ?_) (fun _ => ?_)
    | with_reducible apply State.wr_keeps
    | with_reducible apply State.report_keeps
    | with_reducible refine Keeps.foldl (fun _ _ _ => ?_) ?_
    | with_reducible refine Keeps.foldl_fst (fun _ _ _ => ?_) ?_
    | with_reducible refine Keeps.foldl_snd (fun _ _ _ => ?_) ?_
    | split
    | intro _
    | fail_if_no_progress (with_reducible apply Keeps.upd)

theorem State.endIsland_keeps {tw : Touch} {s0 : State} (s : State) (i : Nat) (t : IslTest) (hK : Keeps tw s0 s) :
    Keeps tw s0 (State.endIsland s i t) := by
  unfold State.endIsland
  try dsimp only
  repeat' first
    | with_reducible assumption
    | with_reducible refine Keeps.ite (fun _ => ?_) (fun _ => ?_)
    | with_reducible apply State.wr_keeps
    | with_reducible apply State.isolate_keeps
    | with_reducible apply State.failIsland_keeps

theorem State.endSlice_keeps {tw : Touch} {s0 : State} (s : State) (i : Nat) (result : Nat) (sig : Nat) (hK : Keeps tw s0 s) :
    Keeps tw s0 (State.endSlice s i result sig) := by
  unfold State.endSlice
  try dsimp only
  repeat' first
    | with_reducible assumption
    | with_reducible refine Keeps.ite (fun _ => ?_) (fun _ => ?_)
    | with_reducible apply State.count_keeps
    | with_reducible apply State.wr_keeps
    | with_reducible apply State.wr64_keeps
    | with_reducible apply State.endIsland_keeps
    | with_reducible apply State.endTest_keeps
    | with_reducible refine Keeps.foldl (fun _ _ _ => ?_) ?_
    | with_reducible refine Keeps.foldl_fst (fun _ _ _ => ?_) ?_
    | with_reducible refine Keeps.foldl_snd (fun _ _ _ => ?_) ?_
    | split
    | intro _
    | fail_if_no_progress (with_reducible apply Keeps.upd)

theorem State.cutTest_keeps {tw : Touch} {s0 : State} (s : State) (hK : Keeps tw s0 s) :
    Keeps tw s0 (State.cutTest s) := by
  unfold State.cutTest
  try dsimp only
  repeat' first
    | with_reducible assumption
    | with_reducible refine Keeps.ite (fun _ => ?_) (fun _ => ?_)
    | with_reducible apply forAll_keeps
    | with_reducible apply State.endIsland_keeps
    | with_reducible apply State.endTest_keeps
    | with_reducible refine Keeps.foldl (fun _ _ _ => ?_) ?_
    | with_reducible refine Keeps.foldl_fst (fun _ _ _ => ?_) ?_
    | with_reducible refine Keeps.foldl_snd (fun _ _ _ => ?_) ?_
    | split
    | intro _

theorem State.bootTest_keeps {tw : Touch} {s0 : State} (s : State) (hK : Keeps tw s0 s) :
    Keeps tw s0 (State.bootTest s) := by
  unfold State.bootTest
  try dsimp only
  repeat' first
    | with_reducible assumption
    | with_reducible refine Keeps.ite (fun _ => ?_) (fun _ => ?_)
    | with_reducible apply State.startTest_keeps

theorem execLogicSliceDone_keeps {tw : Touch} {s0 : State} (island : BitVec 8) (limitsGood : Bool) (signature : BitVec 64) (s : State) (hK : Keeps tw s0 s) :
    KeepsOut tw s0 (execLogicSliceDone island limitsGood signature s) := by
  unfold execLogicSliceDone
  try dsimp only
  repeat' first
    | with_reducible assumption
    | with_reducible refine KeepsOut.next ?_
    | with_reducible refine KeepsOut.ite (fun _ => ?_) (fun _ => ?_)
    | with_reducible refine Keeps.ite (fun _ => ?_) (fun _ => ?_)
    | with_reducible apply State.bootTest_keeps
    | with_reducible apply State.endSlice_keeps
    | with_reducible refine Keeps.foldl (fun _ _ _ => ?_) ?_
    | with_reducible refine Keeps.foldl_fst (fun _ _ _ => ?_) ?_
    | with_reducible refine Keeps.foldl_snd (fun _ _ _ => ?_) ?_
    | split

theorem execLogicSliceBudget_keeps {tw : Touch} {s0 : State} (island : BitVec 8) (signature : BitVec 64) (s : State) (hK : Keeps tw s0 s) :
    KeepsOut tw s0 (execLogicSliceBudget island signature s) := by
  unfold execLogicSliceBudget
  try dsimp only
  repeat' first
    | with_reducible assumption
    | with_reducible refine KeepsOut.next ?_
    | with_reducible refine KeepsOut.ite (fun _ => ?_) (fun _ => ?_)
    | with_reducible refine Keeps.ite (fun _ => ?_) (fun _ => ?_)
    | with_reducible apply State.endSlice_keeps
    | with_reducible apply State.bootTest_keeps

theorem execTestLogic_keeps {tw : Touch} {s0 : State} (cmd : CmdRef) (island : BitVec 8) (patterns : BitVec 8) (slices : BitVec 8) (budget : BitVec 8) (clears : Bool) (s : State) (hK : Keeps tw s0 s) (hw_keys : tw.keys = true) :
    KeepsOut tw s0 (execTestLogic cmd island patterns slices budget clears s) := by
  unfold execTestLogic
  try dsimp only
  repeat' first
    | with_reducible assumption
    | with_reducible refine State.clearFor_keeps_eq _ _ _ (by assumption) ?_ (by assumption)
    | with_reducible refine KeepsOut.next ?_
    | with_reducible refine KeepsOut.ite (fun _ => ?_) (fun _ => ?_)
    | with_reducible refine Keeps.ite (fun _ => ?_) (fun _ => ?_)
    | with_reducible apply State.command_keeps
    | with_reducible apply State.finish_keeps
    | with_reducible apply State.clearFor_keeps
    | with_reducible apply State.takeCmd_keeps
    | with_reducible apply State.report_keeps
    | with_reducible apply State.startTest_keeps
    | with_reducible refine Keeps.foldl (fun _ _ _ => ?_) ?_
    | with_reducible refine Keeps.foldl_fst (fun _ _ _ => ?_) ?_
    | with_reducible refine Keeps.foldl_snd (fun _ _ _ => ?_) ?_
    | split
    | intro _

theorem State.memLogEntry_keeps {tw : Touch} {s0 : State} (s : State) (f : MemFail) (repair : Nat) (hK : Keeps tw s0 s) :
    Keeps tw s0 (State.memLogEntry s f repair) := by
  unfold State.memLogEntry
  try dsimp only
  repeat' first
    | with_reducible assumption
    | with_reducible refine Keeps.ite (fun _ => ?_) (fun _ => ?_)
    | with_reducible apply State.up_keeps
    | with_reducible apply State.wr_keeps
    | with_reducible apply State.setWords_keeps

theorem State.showRepairs_keeps {tw : Touch} {s0 : State} (s : State) (hK : Keeps tw s0 s) :
    Keeps tw s0 (State.showRepairs s) := by
  unfold State.showRepairs
  try dsimp only
  repeat' first
    | with_reducible assumption
    | with_reducible refine Keeps.ite (fun _ => ?_) (fun _ => ?_)
    | with_reducible apply State.wr_keeps

theorem State.memoryTest_keeps {tw : Touch} {s0 : State} (s : State) (fails : List MemFail) (bad : List BadSpare) (hK : Keeps tw s0 s) :
    Keeps tw s0 (State.memoryTest s fails bad) := by
  unfold State.memoryTest
  try dsimp only
  repeat' first
    | with_reducible assumption
    | with_reducible refine Keeps.ite (fun _ => ?_) (fun _ => ?_)
    | with_reducible apply forAll_keeps
    | with_reducible apply State.memLogEntry_keeps
    | with_reducible apply State.count_keeps
    | with_reducible apply State.failIsland_keeps
    | with_reducible apply State.up_keeps
    | with_reducible apply State.showRepairs_keeps
    | with_reducible refine Keeps.foldl (fun _ _ _ => ?_) ?_
    | with_reducible refine Keeps.foldl_fst (fun _ _ _ => ?_) ?_
    | with_reducible refine Keeps.foldl_snd (fun _ _ _ => ?_) ?_
    | split
    | intro _
    | fail_if_no_progress (with_reducible apply Keeps.upd)

theorem execTestMemory_keeps {tw : Touch} {s0 : State} (cmd : CmdRef) (island : BitVec 8) (clears : Bool) (fails : List MemFail) (badSpares : List BadSpare) (s : State) (hK : Keeps tw s0 s) (hw_keys : tw.keys = true) :
    KeepsOut tw s0 (execTestMemory cmd island clears fails badSpares s) := by
  unfold execTestMemory
  try dsimp only
  repeat' first
    | with_reducible assumption
    | with_reducible refine State.clearFor_keeps_eq _ _ _ (by assumption) ?_ (by assumption)
    | with_reducible refine KeepsOut.next ?_
    | with_reducible refine KeepsOut.ite (fun _ => ?_) (fun _ => ?_)
    | with_reducible refine Keeps.ite (fun _ => ?_) (fun _ => ?_)
    | with_reducible apply State.command_keeps
    | with_reducible apply State.finish_keeps
    | with_reducible apply State.clearFor_keeps
    | with_reducible apply State.memoryTest_keeps
    | with_reducible apply State.report_keeps
    | with_reducible refine Keeps.foldl (fun _ _ _ => ?_) ?_
    | with_reducible refine Keeps.foldl_fst (fun _ _ _ => ?_) ?_
    | with_reducible refine Keeps.foldl_snd (fun _ _ _ => ?_) ?_
    | split
    | intro _

theorem State.hbmTest_keeps {tw : Touch} {s0 : State} (s : State) (fails : List HbmRowFail) (hK : Keeps tw s0 s) (hw_hbm : tw.hbm = true) :
    Keeps tw s0 (State.hbmTest s fails) := by
  unfold State.hbmTest
  try dsimp only
  repeat' first
    | with_reducible assumption
    | with_reducible refine Keeps.ite (fun _ => ?_) (fun _ => ?_)
    | with_reducible apply State.keepHbm_keeps
    | with_reducible apply forAll_keeps
    | with_reducible apply State.errLogNew_keeps
    | with_reducible apply State.markBad_keeps
    | with_reducible apply State.count_keeps
    | with_reducible refine Keeps.foldl (fun _ _ _ => ?_) ?_
    | with_reducible refine Keeps.foldl_fst (fun _ _ _ => ?_) ?_
    | with_reducible refine Keeps.foldl_snd (fun _ _ _ => ?_) ?_
    | split
    | intro _
    | fail_if_no_progress (with_reducible apply Keeps.upd)

theorem execTestHbm_keeps {tw : Touch} {s0 : State} (cmd : CmdRef) (fails : List HbmRowFail) (s : State) (hK : Keeps tw s0 s) (hw_hbm : tw.hbm = true) :
    KeepsOut tw s0 (execTestHbm cmd fails s) := by
  unfold execTestHbm
  try dsimp only
  repeat' first
    | with_reducible assumption
    | with_reducible refine KeepsOut.next ?_
    | with_reducible refine KeepsOut.ite (fun _ => ?_) (fun _ => ?_)
    | with_reducible refine Keeps.ite (fun _ => ?_) (fun _ => ?_)
    | with_reducible apply State.command_keeps
    | with_reducible apply State.finish_keeps
    | with_reducible apply State.hbmTest_keeps
    | with_reducible apply State.report_keeps
    | with_reducible refine Keeps.foldl (fun _ _ _ => ?_) ?_
    | with_reducible refine Keeps.foldl_fst (fun _ _ _ => ?_) ?_
    | with_reducible refine Keeps.foldl_snd (fun _ _ _ => ?_) ?_
    | split
    | intro _

theorem State.calibrate_keeps {tw : Touch} {s0 : State} (s : State) (r : CalResult) (atOnce : Bool) (hK : Keeps tw s0 s) :
    Keeps tw s0 (State.calibrate s r atOnce) := by
  unfold State.calibrate
  try dsimp only
  repeat' first
    | with_reducible assumption
    | with_reducible refine Keeps.ite (fun _ => ?_) (fun _ => ?_)
    | with_reducible apply State.wr_keeps
    | with_reducible apply State.up_keeps
    | with_reducible apply State.log_keeps
    | with_reducible refine Keeps.foldl (fun _ _ _ => ?_) ?_
    | with_reducible refine Keeps.foldl_fst (fun _ _ _ => ?_) ?_
    | with_reducible refine Keeps.foldl_snd (fun _ _ _ => ?_) ?_
    | split
    | intro _
    | fail_if_no_progress (with_reducible apply Keeps.upd)

theorem State.calTick_keeps {tw : Touch} {s0 : State} (s : State) (hK : Keeps tw s0 s) :
    Keeps tw s0 (State.calTick s) := by
  unfold State.calTick
  try dsimp only
  repeat' first
    | with_reducible assumption
    | with_reducible refine Keeps.ite (fun _ => ?_) (fun _ => ?_)
    | with_reducible refine Keeps.foldl (fun _ _ _ => ?_) ?_
    | with_reducible refine Keeps.foldl_fst (fun _ _ _ => ?_) ?_
    | with_reducible refine Keeps.foldl_snd (fun _ _ _ => ?_) ?_
    | split
    | intro _
    | fail_if_no_progress (with_reducible apply Keeps.upd)

theorem execCalibrate_keeps {tw : Touch} {s0 : State} (cmd : CmdRef) (results : List CalResult) (s : State) (hK : Keeps tw s0 s) :
    KeepsOut tw s0 (execCalibrate cmd results s) := by
  unfold execCalibrate
  try dsimp only
  repeat' first
    | with_reducible assumption
    | with_reducible refine KeepsOut.next ?_
    | with_reducible refine KeepsOut.ite (fun _ => ?_) (fun _ => ?_)
    | with_reducible refine Keeps.ite (fun _ => ?_) (fun _ => ?_)
    | with_reducible apply State.command_keeps
    | with_reducible apply State.finish_keeps
    | with_reducible apply forAll_keeps
    | with_reducible apply State.calibrate_keeps
    | with_reducible apply State.up_keeps
    | with_reducible apply State.report_keeps
    | with_reducible refine Keeps.foldl (fun _ _ _ => ?_) ?_
    | with_reducible refine Keeps.foldl_fst (fun _ _ _ => ?_) ?_
    | with_reducible refine Keeps.foldl_snd (fun _ _ _ => ?_) ?_
    | split
    | intro _

theorem execCalSet_keeps {tw : Touch} {s0 : State} (cmd : CmdRef) (seconds : BitVec 16) (s : State) (hK : Keeps tw s0 s) :
    KeepsOut tw s0 (execCalSet cmd seconds s) := by
  unfold execCalSet
  try dsimp only
  repeat' first
    | with_reducible assumption
    | with_reducible refine KeepsOut.next ?_
    | with_reducible refine KeepsOut.ite (fun _ => ?_) (fun _ => ?_)
    | with_reducible refine Keeps.ite (fun _ => ?_) (fun _ => ?_)
    | with_reducible apply State.command_keeps
    | with_reducible apply State.finish_keeps
    | with_reducible apply State.wr_keeps
    | with_reducible refine Keeps.foldl (fun _ _ _ => ?_) ?_
    | with_reducible refine Keeps.foldl_fst (fun _ _ _ => ?_) ?_
    | with_reducible refine Keeps.foldl_snd (fun _ _ _ => ?_) ?_
    | split
    | intro _

theorem execTestLogClear_keeps {tw : Touch} {s0 : State} (cmd : CmdRef) (s : State) (hK : Keeps tw s0 s) :
    KeepsOut tw s0 (execTestLogClear cmd s) := by
  unfold execTestLogClear
  try dsimp only
  repeat' first
    | with_reducible assumption
    | with_reducible refine KeepsOut.next ?_
    | with_reducible refine KeepsOut.ite (fun _ => ?_) (fun _ => ?_)
    | with_reducible refine Keeps.ite (fun _ => ?_) (fun _ => ?_)
    | with_reducible apply State.command_keeps
    | with_reducible apply State.finish_keeps
    | with_reducible apply State.resetSpan_keeps
    | with_reducible apply State.down_keeps
    | with_reducible apply State.wr_keeps
    | with_reducible apply forN_keeps
    | with_reducible refine Keeps.foldl (fun _ _ _ => ?_) ?_
    | with_reducible refine Keeps.foldl_fst (fun _ _ _ => ?_) ?_
    | with_reducible refine Keeps.foldl_snd (fun _ _ _ => ?_) ?_
    | split
    | intro _

theorem execRecalTimer_keeps {tw : Touch} {s0 : State} (results : List CalResult) (s : State) (hK : Keeps tw s0 s) :
    KeepsOut tw s0 (execRecalTimer results s) := by
  unfold execRecalTimer
  try dsimp only
  repeat' first
    | with_reducible assumption
    | with_reducible refine KeepsOut.next ?_
    | with_reducible refine KeepsOut.ite (fun _ => ?_) (fun _ => ?_)
    | with_reducible refine Keeps.ite (fun _ => ?_) (fun _ => ?_)
    | with_reducible apply forAll_keeps
    | with_reducible apply State.calibrate_keeps
    | with_reducible refine Keeps.foldl (fun _ _ _ => ?_) ?_
    | with_reducible refine Keeps.foldl_fst (fun _ _ _ => ?_) ?_
    | with_reducible refine Keeps.foldl_snd (fun _ _ _ => ?_) ?_
    | split
    | intro _
    | fail_if_no_progress (with_reducible apply Keeps.upd)

theorem execRecalDeferExpiry_keeps {tw : Touch} {s0 : State} (results : List CalResult) (s : State) (hK : Keeps tw s0 s) :
    KeepsOut tw s0 (execRecalDeferExpiry results s) := by
  unfold execRecalDeferExpiry
  try dsimp only
  repeat' first
    | with_reducible assumption
    | with_reducible refine KeepsOut.next ?_
    | with_reducible refine KeepsOut.ite (fun _ => ?_) (fun _ => ?_)
    | with_reducible refine Keeps.ite (fun _ => ?_) (fun _ => ?_)
    | with_reducible apply State.count_keeps
    | with_reducible apply forAll_keeps
    | with_reducible apply State.calibrate_keeps
    | with_reducible refine Keeps.foldl (fun _ _ _ => ?_) ?_
    | with_reducible refine Keeps.foldl_fst (fun _ _ _ => ?_) ?_
    | with_reducible refine Keeps.foldl_snd (fun _ _ _ => ?_) ?_
    | split
    | intro _
    | fail_if_no_progress (with_reducible apply Keeps.upd)

theorem State.driveAlert_keeps {tw : Touch} {s0 : State} (s : State) (hK : Keeps tw s0 s) :
    Keeps tw s0 (State.driveAlert s) := by
  unfold State.driveAlert
  try dsimp only
  repeat' first
    | with_reducible assumption
    | with_reducible refine Keeps.ite (fun _ => ?_) (fun _ => ?_)
    | with_reducible apply State.emit_keeps

theorem State.setAlert_keeps {tw : Touch} {s0 : State} (s : State) (on : Bool) (hK : Keeps tw s0 s) :
    Keeps tw s0 (State.setAlert s on) := by
  unfold State.setAlert
  try dsimp only
  repeat' first
    | with_reducible assumption
    | with_reducible refine Keeps.ite (fun _ => ?_) (fun _ => ?_)
    | with_reducible apply State.wr_keeps
    | with_reducible apply State.log_keeps
    | with_reducible apply State.driveAlert_keeps

theorem State.judgeAlert_keeps {tw : Touch} {s0 : State} (s : State) (hK : Keeps tw s0 s) :
    Keeps tw s0 (State.judgeAlert s) := by
  unfold State.judgeAlert
  try dsimp only
  repeat' first
    | with_reducible assumption
    | with_reducible refine Keeps.ite (fun _ => ?_) (fun _ => ?_)
    | with_reducible apply State.setAlert_keeps

theorem execThermalSample_keeps {tw : Touch} {s0 : State} (temps : List (Option (BitVec 10))) (s : State) (hK : Keeps tw s0 s) :
    KeepsOut tw s0 (execThermalSample temps s) := by
  unfold execThermalSample
  try dsimp only
  repeat' first
    | with_reducible assumption
    | with_reducible refine KeepsOut.next ?_
    | with_reducible refine KeepsOut.ite (fun _ => ?_) (fun _ => ?_)
    | with_reducible refine Keeps.ite (fun _ => ?_) (fun _ => ?_)
    | with_reducible apply forN_keeps
    | with_reducible apply State.up_keeps
    | with_reducible apply State.wr_keeps
    | with_reducible apply State.judgeAlert_keeps
    | with_reducible refine Keeps.foldl (fun _ _ _ => ?_) ?_
    | with_reducible refine Keeps.foldl_fst (fun _ _ _ => ?_) ?_
    | with_reducible refine Keeps.foldl_snd (fun _ _ _ => ?_) ?_
    | split
    | intro _
    | fail_if_no_progress (with_reducible apply Keeps.upd)

theorem execThermSet_keeps {tw : Touch} {s0 : State} (cmd : CmdRef) (alertC : BitVec 8) (hyst : BitVec 8) (s : State) (hK : Keeps tw s0 s) :
    KeepsOut tw s0 (execThermSet cmd alertC hyst s) := by
  unfold execThermSet
  try dsimp only
  repeat' first
    | with_reducible assumption
    | with_reducible refine KeepsOut.next ?_
    | with_reducible refine KeepsOut.ite (fun _ => ?_) (fun _ => ?_)
    | with_reducible refine Keeps.ite (fun _ => ?_) (fun _ => ?_)
    | with_reducible apply State.command_keeps
    | with_reducible apply State.finish_keeps
    | with_reducible apply State.wr_keeps
    | with_reducible refine Keeps.foldl (fun _ _ _ => ?_) ?_
    | with_reducible refine Keeps.foldl_fst (fun _ _ _ => ?_) ?_
    | with_reducible refine Keeps.foldl_snd (fun _ _ _ => ?_) ?_
    | split
    | intro _

theorem execSupplySample_keeps {tw : Touch} {s0 : State} (vinMv : BitVec 16) (power : BitVec 16) (s : State) (hK : Keeps tw s0 s) :
    KeepsOut tw s0 (execSupplySample vinMv power s) := by
  unfold execSupplySample
  try dsimp only
  repeat' first
    | with_reducible assumption
    | with_reducible refine KeepsOut.next ?_
    | with_reducible refine KeepsOut.ite (fun _ => ?_) (fun _ => ?_)
    | with_reducible refine Keeps.ite (fun _ => ?_) (fun _ => ?_)
    | with_reducible apply State.wr_keeps
    | with_reducible apply State.up_keeps
    | with_reducible apply State.peak_keeps

end Sys2Proof.Machine
end

