-- ==== Sys2Proof/Laws/KeepsKeys.lean ====
section
/-! SUPPORT. What the operations of Machine/Keys.lean keep of a state (Laws/Keeps.lean). -/

namespace Sys2Proof.Machine

theorem State.showDirectory_keeps {tw : Touch} {s0 : State} (s : State) (hK : Keeps tw s0 s) :
    Keeps tw s0 (State.showDirectory s) := by
  unfold State.showDirectory
  try dsimp only
  repeat' first
    | with_reducible assumption
    | with_reducible refine Keeps.ite (fun _ => ?_) (fun _ => ?_)
    | with_reducible apply State.wr_keeps

theorem State.writeDirectory_keeps {tw : Touch} {s0 : State} (s : State) (active : Nat) (fallback : Bool) (hK : Keeps tw s0 s) (hw_flash : tw.flash = true) :
    Keeps tw s0 (State.writeDirectory s active fallback) := by
  unfold State.writeDirectory
  try dsimp only
  repeat' first
    | with_reducible assumption
    | with_reducible refine Keeps.ite (fun _ => ?_) (fun _ => ?_)
    | with_reducible apply State.eraseFlash_keeps
    | with_reducible apply State.showDirectory_keeps
    | with_reducible apply State.setFlashBytes_keeps

theorem State.eraseSpareDirectory_keeps {tw : Touch} {s0 : State} (s : State) (hK : Keeps tw s0 s) (hw_flash : tw.flash = true) :
    Keeps tw s0 (State.eraseSpareDirectory s) := by
  unfold State.eraseSpareDirectory
  try dsimp only
  repeat' first
    | with_reducible assumption
    | with_reducible refine Keeps.ite (fun _ => ?_) (fun _ => ?_)
    | with_reducible apply State.eraseFlash_keeps

theorem State.takeLock_keeps {tw : Touch} {s0 : State} (s : State) (id : Nat) (hK : Keeps tw s0 s) :
    Keeps tw s0 (State.takeLock s id) := by
  unfold State.takeLock
  try dsimp only
  repeat' first
    | with_reducible assumption
    | with_reducible refine Keeps.ite (fun _ => ?_) (fun _ => ?_)
    | with_reducible apply State.wr_keeps
    | with_reducible apply State.up_keeps

theorem State.freeLock_keeps {tw : Touch} {s0 : State} (s : State) (hK : Keeps tw s0 s) :
    Keeps tw s0 (State.freeLock s) := by
  unfold State.freeLock
  try dsimp only
  repeat' first
    | with_reducible assumption
    | with_reducible refine Keeps.ite (fun _ => ?_) (fun _ => ?_)
    | with_reducible apply State.wr_keeps
    | with_reducible apply State.down_keeps

theorem State.showSlot_keeps {tw : Touch} {s0 : State} (s : State) (i : Nat) (restored : Bool) (hK : Keeps tw s0 s) :
    Keeps tw s0 (State.showSlot s i restored) := by
  unfold State.showSlot
  try dsimp only
  repeat' first
    | with_reducible assumption
    | with_reducible refine Keeps.ite (fun _ => ?_) (fun _ => ?_)
    | with_reducible apply State.wr_keeps

theorem State.setKey_keeps {tw : Touch} {s0 : State} (s : State) (i : Nat) (k : KeySlot) (hK : Keeps tw s0 s) (hw_keys : tw.keys = true) :
    Keeps tw s0 (State.setKey s i k) := by
  unfold State.setKey
  try dsimp only
  repeat' first
    | with_reducible assumption
    | with_reducible refine Keeps.ite (fun _ => ?_) (fun _ => ?_)
    | with_reducible apply State.copyLayoutKeys_keeps
    | with_reducible apply State.putKeys_keeps

theorem State.writeKeyStore_keeps {tw : Touch} {s0 : State} (s : State) (hK : Keeps tw s0 s) :
    Keeps tw s0 (State.writeKeyStore s) := by
  unfold State.writeKeyStore
  try dsimp only
  repeat' first
    | with_reducible assumption
    | with_reducible refine Keeps.ite (fun _ => ?_) (fun _ => ?_)
    | with_reducible apply State.down_keeps
    | with_reducible refine Keeps.foldl (fun _ _ _ => ?_) ?_
    | with_reducible refine Keeps.foldl_fst (fun _ _ _ => ?_) ?_
    | with_reducible refine Keeps.foldl_snd (fun _ _ _ => ?_) ?_
    | split
    | intro _
    | fail_if_no_progress (with_reducible apply Keeps.upd)

theorem State.restoreKeys_keeps {tw : Touch} {s0 : State} (s : State) (failed : List Nat) (hK : Keeps tw s0 s) (hw_keys : tw.keys = true) :
    Keeps tw s0 (State.restoreKeys s failed) := by
  unfold State.restoreKeys
  try dsimp only
  repeat' first
    | with_reducible assumption
    | with_reducible refine Keeps.ite (fun _ => ?_) (fun _ => ?_)
    | with_reducible apply State.copyLayoutKeys_keeps
    | with_reducible apply State.putKeys_keeps
    | with_reducible apply State.up_keeps
    | with_reducible apply forN_keeps
    | with_reducible apply State.showSlot_keeps
    | with_reducible apply State.count_keeps
    | with_reducible apply State.down_keeps
    | with_reducible refine Keeps.foldl (fun _ _ _ => ?_) ?_
    | with_reducible refine Keeps.foldl_fst (fun _ _ _ => ?_) ?_
    | with_reducible refine Keeps.foldl_snd (fun _ _ _ => ?_) ?_
    | split
    | intro _

theorem execKeyslotRestore_keeps {tw : Touch} {s0 : State} (failed : List (Fin 16)) (s : State) (hK : Keeps tw s0 s) (hw_keys : tw.keys = true) :
    KeepsOut tw s0 (execKeyslotRestore failed s) := by
  unfold execKeyslotRestore
  try dsimp only
  repeat' first
    | with_reducible assumption
    | with_reducible refine KeepsOut.next ?_
    | with_reducible refine KeepsOut.ite (fun _ => ?_) (fun _ => ?_)
    | with_reducible refine Keeps.ite (fun _ => ?_) (fun _ => ?_)
    | with_reducible apply State.restoreKeys_keeps

theorem State.noteRead_keeps {tw : Touch} {s0 : State} (s : State) (a : Nat) (len : Nat) (status : Nat) (hK : Keeps tw s0 s) :
    Keeps tw s0 (State.noteRead s a len status) := by
  unfold State.noteRead
  try dsimp only
  repeat' first
    | with_reducible assumption
    | with_reducible refine Keeps.ite (fun _ => ?_) (fun _ => ?_)
    | with_reducible apply State.readFailed_keeps

theorem execKeyLoad_keeps {tw : Touch} {s0 : State} (cmd : CmdRef) (addr : BitVec 64) (s : State) (hK : Keeps tw s0 s) (hw_keys : tw.keys = true) :
    KeepsOut tw s0 (execKeyLoad cmd addr s) := by
  unfold execKeyLoad
  try dsimp only
  repeat' first
    | with_reducible assumption
    | with_reducible refine KeepsOut.next ?_
    | with_reducible refine KeepsOut.ite (fun _ => ?_) (fun _ => ?_)
    | with_reducible refine Keeps.ite (fun _ => ?_) (fun _ => ?_)
    | with_reducible apply State.command_keeps
    | with_reducible apply State.finish_keeps
    | with_reducible apply State.noteRead_keeps
    | with_reducible apply State.writeKeyStore_keeps
    | with_reducible apply State.setKey_keeps
    | with_reducible apply State.count_keeps
    | with_reducible apply State.showSlot_keeps
    | with_reducible apply State.report_keeps
    | with_reducible refine Keeps.foldl (fun _ _ _ => ?_) ?_
    | with_reducible refine Keeps.foldl_fst (fun _ _ _ => ?_) ?_
    | with_reducible refine Keeps.foldl_snd (fun _ _ _ => ?_) ?_
    | split
    | intro _

theorem State.notPark_keeps {tw : Touch} {s0 : State} (s : State) (cmd : CmdRef) (op : Nat) (act : State → State) (hK : Keeps tw s0 s) (hfact : ∀ t : State, Keeps tw s0 t → Keeps tw s0 (act t)) :
    Keeps tw s0 (State.notPark s cmd op act) :=
  State.command_keeps _ _ _ _ hK (fun _ ht => Keeps.ite (fun _ => State.finish_keeps _ _ _ _ _ ht) (fun _ => hfact _ ht))

theorem execKeyStatus_keeps {tw : Touch} {s0 : State} (cmd : CmdRef) (s : State) (hK : Keeps tw s0 s) :
    KeepsOut tw s0 (execKeyStatus cmd s) := by
  unfold execKeyStatus
  try dsimp only
  repeat' first
    | with_reducible assumption
    | with_reducible refine KeepsOut.next ?_
    | with_reducible refine KeepsOut.ite (fun _ => ?_) (fun _ => ?_)
    | with_reducible refine Keeps.ite (fun _ => ?_) (fun _ => ?_)
    | with_reducible apply State.command_keeps
    | with_reducible apply State.notPark_keeps
    | with_reducible apply State.report_keeps
    | with_reducible refine Keeps.foldl (fun _ _ _ => ?_) ?_
    | with_reducible refine Keeps.foldl_fst (fun _ _ _ => ?_) ?_
    | with_reducible refine Keeps.foldl_snd (fun _ _ _ => ?_) ?_
    | split
    | intro _

theorem execAttest_keeps {tw : Touch} {s0 : State} (cmd : CmdRef) (nonce : BitVec 64) (output : BitVec 64) (which : BitVec 8) (s : State) (hK : Keeps tw s0 s) (hw_hbm : tw.hbm = true) :
    KeepsOut tw s0 (execAttest cmd nonce output which s) := by
  unfold execAttest
  refine KeepsOut.next (State.notPark_keeps _ _ _ _ hK (fun t ht => ?_))
  refine Keeps.ite (fun _ => State.finish_keeps _ _ _ _ _ ht) (fun _ => ?_)
  generalize t.readForCommand nonce.toNat 32 = r
  cases r with
  | error e => exact State.finish_keeps _ _ _ _ _ (State.noteRead_keeps _ _ _ _ ht)
  | ok n =>
    dsimp only
    exact State.finish_keeps _ _ _ _ _ (State.writeMem_keeps _ _ _ _ ht hw_hbm)

theorem State.showFuses_keeps {tw : Touch} {s0 : State} (s : State) (idGood : Bool) (trimGood : Bool) (hK : Keeps tw s0 s) :
    Keeps tw s0 (State.showFuses s idGood trimGood) := by
  unfold State.showFuses
  try dsimp only
  repeat' first
    | with_reducible assumption
    | with_reducible refine Keeps.ite (fun _ => ?_) (fun _ => ?_)
    | with_reducible apply State.wr_keeps

theorem State.blow_keeps {tw : Touch} {s0 : State} (s : State) (i : Nat) (arg : Nat) (hK : Keeps tw s0 s) (hw_fuses : tw.fuses = true) :
    Keeps tw s0 (State.blow s i arg) := by
  refine hK.trans ⟨rfl, rfl, Nat.le_refl _, ⟨?_, ?_, ?_, ?_⟩, id, fun _ => rfl, fun _ => rfl, fun _ => rfl, Touch.absurd hw_fuses⟩
  · simp only [State.blow]
    split
    · exact Nat.le_max_left _ _
    · exact Nat.le_refl _
  · intro h; simp only [State.blow, h, Bool.true_or]
  · intro h; simp only [State.blow, h, Bool.true_or]
  · intro h; simp only [State.blow, h, Bool.true_or]

theorem execFuseSet_keeps {tw : Touch} {s0 : State} (cmd : CmdRef) (id : BitVec 8) (arg : BitVec 8) (authSlot : BitVec 8) (sig : BitVec 64) (s : State) (hK : Keeps tw s0 s) (hw_fuses : tw.fuses = true) :
    KeepsOut tw s0 (execFuseSet cmd id arg authSlot sig s) := by
  unfold execFuseSet
  try dsimp only
  repeat' first
    | with_reducible assumption
    | with_reducible refine KeepsOut.next ?_
    | with_reducible refine KeepsOut.ite (fun _ => ?_) (fun _ => ?_)
    | with_reducible refine Keeps.ite (fun _ => ?_) (fun _ => ?_)
    | with_reducible apply State.command_keeps
    | with_reducible apply State.finish_keeps
    | with_reducible apply State.noteRead_keeps
    | with_reducible apply State.blow_keeps
    | with_reducible apply State.showFuses_keeps
    | with_reducible refine Keeps.foldl (fun _ _ _ => ?_) ?_
    | with_reducible refine Keeps.foldl_fst (fun _ _ _ => ?_) ?_
    | with_reducible refine Keeps.foldl_snd (fun _ _ _ => ?_) ?_
    | split
    | intro _

theorem execMgmtHello_keeps {tw : Touch} {s0 : State} (cmd : CmdRef) (slot : BitVec 8) (s : State) (hK : Keeps tw s0 s) :
    KeepsOut tw s0 (execMgmtHello cmd slot s) := by
  unfold execMgmtHello
  try dsimp only
  repeat' first
    | with_reducible assumption
    | with_reducible refine State.free_keeps_eq _ (by assumption) ?_
    | with_reducible refine KeepsOut.next ?_
    | with_reducible refine KeepsOut.ite (fun _ => ?_) (fun _ => ?_)
    | with_reducible refine Keeps.ite (fun _ => ?_) (fun _ => ?_)
    | with_reducible apply State.command_keeps
    | with_reducible apply State.notPark_keeps
    | with_reducible apply State.finish_keeps
    | with_reducible apply State.free_keeps
    | with_reducible apply State.setMgmt_keeps
    | with_reducible apply State.wr_keeps
    | with_reducible apply State.up_keeps
    | with_reducible apply State.report_keeps
    | with_reducible refine Keeps.foldl (fun _ _ _ => ?_) ?_
    | with_reducible refine Keeps.foldl_fst (fun _ _ _ => ?_) ?_
    | with_reducible refine Keeps.foldl_snd (fun _ _ _ => ?_) ?_
    | split
    | intro _

theorem execCairnSecure_keeps {tw : Touch} {s0 : State} (cmd : CmdRef) (column : BitVec 8) (word : BitVec 8) (value : Word) (s : State) (hK : Keeps tw s0 s) :
    KeepsOut tw s0 (execCairnSecure cmd column word value s) := by
  unfold execCairnSecure
  try dsimp only
  repeat' first
    | with_reducible assumption
    | with_reducible refine KeepsOut.next ?_
    | with_reducible refine KeepsOut.ite (fun _ => ?_) (fun _ => ?_)
    | with_reducible refine Keeps.ite (fun _ => ?_) (fun _ => ?_)
    | with_reducible apply State.command_keeps
    | with_reducible apply State.finish_keeps
    | with_reducible apply State.setReg_keeps
    | with_reducible refine Keeps.foldl (fun _ _ _ => ?_) ?_
    | with_reducible refine Keeps.foldl_fst (fun _ _ _ => ?_) ?_
    | with_reducible refine Keeps.foldl_snd (fun _ _ _ => ?_) ?_
    | split
    | intro _

theorem execSmbusStatusRead_keeps {tw : Touch} {s0 : State} (port : Fin 2) (s : State) (hK : Keeps tw s0 s) :
    KeepsOut tw s0 (execSmbusStatusRead port s) := by
  unfold execSmbusStatusRead
  try dsimp only
  repeat' first
    | with_reducible assumption
    | with_reducible refine KeepsOut.next ?_
    | with_reducible refine KeepsOut.ite (fun _ => ?_) (fun _ => ?_)
    | with_reducible refine Keeps.ite (fun _ => ?_) (fun _ => ?_)
    | with_reducible apply State.emit_keeps
    | with_reducible refine Keeps.foldl (fun _ _ _ => ?_) ?_
    | with_reducible refine Keeps.foldl_fst (fun _ _ _ => ?_) ?_
    | with_reducible refine Keeps.foldl_snd (fun _ _ _ => ?_) ?_
    | split

theorem execSmbusPowerRead_keeps {tw : Touch} {s0 : State} (port : Fin 2) (s : State) (hK : Keeps tw s0 s) :
    KeepsOut tw s0 (execSmbusPowerRead port s) := by
  unfold execSmbusPowerRead
  try dsimp only
  repeat' first
    | with_reducible assumption
    | with_reducible refine KeepsOut.next ?_
    | with_reducible refine KeepsOut.ite (fun _ => ?_) (fun _ => ?_)
    | with_reducible refine Keeps.ite (fun _ => ?_) (fun _ => ?_)
    | with_reducible apply State.emit_keeps
    | with_reducible refine Keeps.foldl (fun _ _ _ => ?_) ?_
    | with_reducible refine Keeps.foldl_fst (fun _ _ _ => ?_) ?_
    | with_reducible refine Keeps.foldl_snd (fun _ _ _ => ?_) ?_
    | split

theorem State.orderReset_keeps {tw : Touch} {s0 : State} (s : State) (hK : Keeps tw s0 s) :
    Keeps tw s0 (State.orderReset s) := by
  unfold State.orderReset
  try dsimp only
  repeat' first
    | with_reducible assumption
    | with_reducible refine Keeps.ite (fun _ => ?_) (fun _ => ?_)
    | with_reducible apply State.wr_keeps
    | with_reducible refine Keeps.foldl (fun _ _ _ => ?_) ?_
    | with_reducible refine Keeps.foldl_fst (fun _ _ _ => ?_) ?_
    | with_reducible refine Keeps.foldl_snd (fun _ _ _ => ?_) ?_
    | split
    | intro _
    | fail_if_no_progress (with_reducible apply Keeps.upd)

theorem execSmbusReset_keeps {tw : Touch} {s0 : State} (port : Fin 2) (s : State) (hK : Keeps tw s0 s) :
    KeepsOut tw s0 (execSmbusReset port s) := by
  unfold execSmbusReset
  try dsimp only
  repeat' first
    | with_reducible assumption
    | with_reducible refine KeepsOut.next ?_
    | with_reducible refine KeepsOut.ite (fun _ => ?_) (fun _ => ?_)
    | with_reducible refine Keeps.ite (fun _ => ?_) (fun _ => ?_)
    | with_reducible apply State.orderReset_keeps
    | with_reducible apply State.emit_keeps
    | with_reducible refine Keeps.foldl (fun _ _ _ => ?_) ?_
    | with_reducible refine Keeps.foldl_fst (fun _ _ _ => ?_) ?_
    | with_reducible refine Keeps.foldl_snd (fun _ _ _ => ?_) ?_
    | split

end Sys2Proof.Machine
end

