-- ==== Sys2Proof/Laws/KeepsRegisters.lean ====
section
/-! SUPPORT. What the operations of Machine/Registers.lean keep of a state (Laws/Keeps.lean). -/

namespace Sys2Proof.Machine

theorem ran_keeps {tw : Touch} {s0 : State} (o : Out) (s : State) (hK : Keeps tw s0 s) (ho : KeepsOut tw s0 o) :
    Keeps tw s0 (ran o s) := by
  unfold ran
  split
  · exact ho.keeps _ rfl
  · exact hK


theorem State.writeFields_keeps {tw : Touch} {s0 : State} (s : State) (w : BarWrite) (v : Nat) (hK : Keeps tw s0 s) :
    Keeps tw s0 (State.writeFields s w v) := by
  unfold State.writeFields
  try dsimp only
  repeat' first
    | with_reducible assumption
    | with_reducible refine Keeps.ite (fun _ => ?_) (fun _ => ?_)
    | with_reducible apply State.setReg_keeps
    | with_reducible apply State.accessFault_keeps

theorem State.writePlain_keeps {tw : Touch} {s0 : State} (s : State) (w : BarWrite) (hK : Keeps tw s0 s) :
    Keeps tw s0 (State.writePlain s w) := by
  unfold State.writePlain
  try dsimp only
  repeat' first
    | with_reducible assumption
    | with_reducible refine Keeps.ite (fun _ => ?_) (fun _ => ?_)
    | with_reducible apply State.writeFields_keeps

theorem State.writeRefused_keeps {tw : Touch} {s0 : State} (s : State) (w : BarWrite) (cause : Nat) (owner : Nat) (hK : Keeps tw s0 s) :
    Keeps tw s0 (State.writeRefused s w cause owner) := by
  unfold State.writeRefused
  try dsimp only
  repeat' first
    | with_reducible assumption
    | with_reducible refine Keeps.ite (fun _ => ?_) (fun _ => ?_)
    | with_reducible apply State.accessFault_keeps

theorem State.writeLo_keeps {tw : Touch} {s0 : State} (s : State) (w : BarWrite) (hK : Keeps tw s0 s) :
    Keeps tw s0 (State.writeLo s w) := by
  unfold State.writeLo
  try dsimp only
  repeat' first
    | with_reducible assumption
    | with_reducible refine Keeps.ite (fun _ => ?_) (fun _ => ?_)
    | with_reducible refine Keeps.foldl (fun _ _ _ => ?_) ?_
    | with_reducible refine Keeps.foldl_fst (fun _ _ _ => ?_) ?_
    | with_reducible refine Keeps.foldl_snd (fun _ _ _ => ?_) ?_
    | split
    | intro _
    | fail_if_no_progress (with_reducible apply Keeps.upd)

theorem State.writeHi_keeps {tw : Touch} {s0 : State} (s : State) (w : BarWrite) (hK : Keeps tw s0 s) :
    Keeps tw s0 (State.writeHi s w) := by
  unfold State.writeHi
  try dsimp only
  repeat' first
    | with_reducible assumption
    | with_reducible refine Keeps.ite (fun _ => ?_) (fun _ => ?_)
    | with_reducible apply State.writeFields_keeps
    | with_reducible refine Keeps.foldl (fun _ _ _ => ?_) ?_
    | with_reducible refine Keeps.foldl_fst (fun _ _ _ => ?_) ?_
    | with_reducible refine Keeps.foldl_snd (fun _ _ _ => ?_) ?_
    | split
    | intro _
    | fail_if_no_progress (with_reducible apply Keeps.upd)

theorem State.writePair_keeps {tw : Touch} {s0 : State} (s : State) (w : BarWrite) (hK : Keeps tw s0 s) :
    Keeps tw s0 (State.writePair s w) := by
  unfold State.writePair
  try dsimp only
  repeat' first
    | with_reducible assumption
    | with_reducible refine Keeps.ite (fun _ => ?_) (fun _ => ?_)
    | with_reducible apply State.writeLo_keeps
    | with_reducible apply State.writeHi_keeps

theorem State.chiefWrite_keeps {tw : Touch} {s0 : State} (s : State) (w : BarWrite) (hK : Keeps tw s0 s) :
    Keeps tw s0 (State.chiefWrite s w) := by
  unfold State.chiefWrite
  try dsimp only
  repeat' first
    | with_reducible assumption
    | with_reducible refine Keeps.ite (fun _ => ?_) (fun _ => ?_)
    | with_reducible apply State.showIsl_keeps
    | with_reducible apply State.writePlain_keeps
    | with_reducible apply State.setIsl_keeps

theorem State.laneWrite_keeps {tw : Touch} {s0 : State} (s : State) (w : BarWrite) (hK : Keeps tw s0 s) :
    Keeps tw s0 (State.laneWrite s w) := by
  unfold State.laneWrite
  try dsimp only
  repeat' first
    | with_reducible assumption
    | with_reducible refine State.prbsRefused_keeps_eq _ _ (by assumption) ?_
    | with_reducible refine Keeps.ite (fun _ => ?_) (fun _ => ?_)
    | with_reducible apply State.writeRefused_keeps
    | with_reducible apply State.writeFields_keeps
    | with_reducible apply State.laneOff_keeps
    | with_reducible apply State.laneStart_keeps
    | with_reducible apply State.laneTest_keeps
    | with_reducible apply ran_keeps
    | with_reducible apply execLaneRelock_keeps
    | with_reducible apply execLaneTxDelayWrite_keeps
    | with_reducible apply execLaneProbeStart_keeps
    | with_reducible apply State.writePlain_keeps
    | with_reducible apply State.wr_keeps
    | with_reducible apply execMarginStart_keeps
    | with_reducible apply State.prbsRefused_keeps
    | with_reducible apply execPrbsInject_keeps
    | with_reducible apply execPrbsClear_keeps
    | with_reducible refine Keeps.foldl (fun _ _ _ => ?_) ?_
    | with_reducible refine Keeps.foldl_fst (fun _ _ _ => ?_) ?_
    | with_reducible refine Keeps.foldl_snd (fun _ _ _ => ?_) ?_
    | split

theorem State.posWrite_keeps {tw : Touch} {s0 : State} (s : State) (w : BarWrite) (hK : Keeps tw s0 s) :
    Keeps tw s0 (State.posWrite s w) := by
  unfold State.posWrite
  try dsimp only
  repeat' first
    | with_reducible assumption
    | with_reducible refine Keeps.ite (fun _ => ?_) (fun _ => ?_)
    | with_reducible apply State.setAxis_keeps
    | with_reducible apply State.writePlain_keeps
    | with_reducible apply ran_keeps
    | with_reducible apply execAxisArm_keeps

theorem State.reelShadow_keeps {tw : Touch} {s0 : State} (s t : State) (a : Nat) (hK : Keeps tw s0 t) :
    Keeps tw s0 (State.reelShadow s t a) := by
  unfold State.reelShadow
  split
  · exact hK
  · exact State.up_keeps t _ _ hK


theorem State.trackWrite_keeps {tw : Touch} {s0 : State} (s : State) (w : BarWrite) (hK : Keeps tw s0 s) :
    Keeps tw s0 (State.trackWrite s w) := by
  unfold State.trackWrite
  try dsimp only
  repeat' first
    | with_reducible assumption
    | with_reducible refine Keeps.ite (fun _ => ?_) (fun _ => ?_)
    | with_reducible apply State.writeRefused_keeps
    | with_reducible apply State.showSports_keeps
    | with_reducible apply State.wr_keeps
    | with_reducible apply State.up_keeps
    | with_reducible apply ran_keeps
    | with_reducible apply execReelForwardWrite_keeps

theorem State.reelWrite_keeps {tw : Touch} {s0 : State} (s : State) (w : BarWrite) (hK : Keeps tw s0 s) :
    Keeps tw s0 (State.reelWrite s w) := by
  unfold State.reelWrite
  try dsimp only
  repeat' first
    | with_reducible assumption
    | with_reducible refine Keeps.ite (fun _ => ?_) (fun _ => ?_)
    | with_reducible apply State.trackWrite_keeps
    | with_reducible apply State.writeHi_keeps
    | with_reducible apply State.up_keeps
    | with_reducible apply State.reelShadow_keeps
    | with_reducible apply State.writePlain_keeps
    | with_reducible apply State.writeFields_keeps
    | with_reducible apply ran_keeps
    | with_reducible apply execReelPosSet_keeps
    | with_reducible apply execReelAdjust_keeps
    | with_reducible apply State.showSports_keeps
    | with_reducible apply State.writeLo_keeps
    | with_reducible refine Keeps.foldl (fun _ _ _ => ?_) ?_
    | with_reducible refine Keeps.foldl_fst (fun _ _ _ => ?_) ?_
    | with_reducible refine Keeps.foldl_snd (fun _ _ _ => ?_) ?_
    | split
    | intro _
    | fail_if_no_progress (with_reducible apply Keeps.upd)

theorem State.schedWrite_keeps {tw : Touch} {s0 : State} (s : State) (w : BarWrite) (hK : Keeps tw s0 s) :
    Keeps tw s0 (State.schedWrite s w) := by
  unfold State.schedWrite
  try dsimp only
  repeat' first
    | with_reducible assumption
    | with_reducible refine Keeps.ite (fun _ => ?_) (fun _ => ?_)
    | with_reducible apply ran_keeps
    | with_reducible apply execSchedEnable_keeps
    | with_reducible apply State.targetWritten_keeps
    | with_reducible apply State.writeHi_keeps
    | with_reducible apply State.writePair_keeps
    | with_reducible apply State.writePlain_keeps

theorem State.rcapWrite_keeps {tw : Touch} {s0 : State} (s : State) (w : BarWrite) (hK : Keeps tw s0 s) :
    Keeps tw s0 (State.rcapWrite s w) := by
  unfold State.rcapWrite
  try dsimp only
  repeat' first
    | with_reducible assumption
    | with_reducible refine Keeps.ite (fun _ => ?_) (fun _ => ?_)
    | with_reducible apply State.writePlain_keeps
    | with_reducible apply State.setCaps_keeps

theorem State.timeWrite_keeps {tw : Touch} {s0 : State} (s : State) (w : BarWrite) (hK : Keeps tw s0 s) :
    Keeps tw s0 (State.timeWrite s w) := by
  unfold State.timeWrite
  try dsimp only
  repeat' first
    | with_reducible assumption
    | with_reducible refine Keeps.ite (fun _ => ?_) (fun _ => ?_)
    | with_reducible apply ran_keeps
    | with_reducible apply execTimeIncWrite_keeps
    | with_reducible apply execTimeSlewStart_keeps
    | with_reducible apply execTimeStep_keeps
    | with_reducible apply execTimeBaseCommit_keeps
    | with_reducible apply State.writePlain_keeps
    | with_reducible apply State.emit_keeps
    | with_reducible apply State.ppsDrive_keeps
    | with_reducible apply State.writeLo_keeps
    | with_reducible refine Keeps.foldl (fun _ _ _ => ?_) ?_
    | with_reducible refine Keeps.foldl_fst (fun _ _ _ => ?_) ?_
    | with_reducible refine Keeps.foldl_snd (fun _ _ _ => ?_) ?_
    | split
    | intro _
    | fail_if_no_progress (with_reducible apply Keeps.upd)

theorem State.tcapWrite_keeps {tw : Touch} {s0 : State} (s : State) (w : BarWrite) (hK : Keeps tw s0 s) :
    Keeps tw s0 (State.tcapWrite s w) := by
  unfold State.tcapWrite
  try dsimp only
  repeat' first
    | with_reducible assumption
    | with_reducible refine Keeps.ite (fun _ => ?_) (fun _ => ?_)
    | with_reducible apply State.writePlain_keeps
    | with_reducible apply State.setTcaps_keeps

theorem State.compWrite_keeps {tw : Touch} {s0 : State} (s : State) (w : BarWrite) (hK : Keeps tw s0 s) :
    Keeps tw s0 (State.compWrite s w) := by
  unfold State.compWrite
  try dsimp only
  repeat' first
    | with_reducible assumption
    | with_reducible refine Keeps.ite (fun _ => ?_) (fun _ => ?_)
    | with_reducible apply State.writePlain_keeps
    | with_reducible apply State.writeRefused_keeps
    | with_reducible apply State.up_keeps
    | with_reducible apply State.compCtl_keeps
    | with_reducible apply State.writePair_keeps

theorem State.pulseWrite_keeps {tw : Touch} {s0 : State} (s : State) (w : BarWrite) (hK : Keeps tw s0 s) :
    Keeps tw s0 (State.pulseWrite s w) := by
  unfold State.pulseWrite
  try dsimp only
  repeat' first
    | with_reducible assumption
    | with_reducible refine Keeps.ite (fun _ => ?_) (fun _ => ?_)
    | with_reducible apply State.writePlain_keeps
    | with_reducible apply State.writeRefused_keeps
    | with_reducible apply State.up_keeps
    | with_reducible apply State.pulseCtl_keeps
    | with_reducible apply State.writePair_keeps

theorem State.macWrite_keeps {tw : Touch} {s0 : State} (s : State) (w : BarWrite) (hK : Keeps tw s0 s) :
    Keeps tw s0 (State.macWrite s w) := by
  unfold State.macWrite
  try dsimp only
  repeat' first
    | with_reducible assumption
    | with_reducible refine Keeps.ite (fun _ => ?_) (fun _ => ?_)
    | with_reducible apply State.setStamps_keeps
    | with_reducible apply State.writePair_keeps
    | with_reducible apply State.writePlain_keeps

theorem State.headboxWrite_keeps {tw : Touch} {s0 : State} (s : State) (w : BarWrite) (p : Nat) (hK : Keeps tw s0 s) :
    Keeps tw s0 (State.headboxWrite s w p) := by
  unfold State.headboxWrite
  try dsimp only
  repeat' first
    | with_reducible assumption
    | with_reducible refine Keeps.ite (fun _ => ?_) (fun _ => ?_)
    | with_reducible apply ran_keeps
    | with_reducible apply execCamCtrlGo_keeps
    | with_reducible apply State.showSports_keeps
    | with_reducible apply State.couchRefresh_keeps
    | with_reducible apply State.writePlain_keeps

theorem State.calShadow_keeps {tw : Touch} {s0 : State} (s : State) (w : BarWrite) (hK : Keeps tw s0 s) :
    Keeps tw s0 (State.calShadow s w) := by
  unfold State.calShadow
  try dsimp only
  repeat' first
    | with_reducible assumption
    | with_reducible refine Keeps.ite (fun _ => ?_) (fun _ => ?_)
    | with_reducible apply State.writePlain_keeps
    | with_reducible apply State.calScalars_keeps
    | with_reducible apply State.up_keeps

theorem State.calWrite_keeps {tw : Touch} {s0 : State} (s : State) (w : BarWrite) (hK : Keeps tw s0 s) :
    Keeps tw s0 (State.calWrite s w) := by
  unfold State.calWrite
  try dsimp only
  repeat' first
    | with_reducible assumption
    | with_reducible refine Keeps.ite (fun _ => ?_) (fun _ => ?_)
    | with_reducible apply State.calShadow_keeps
    | with_reducible apply State.writePlain_keeps
    | with_reducible apply ran_keeps
    | with_reducible apply execCalCommit_keeps
    | with_reducible apply execCalDiscard_keeps

theorem State.noteLocked_keeps {tw : Touch} {s0 : State} (s : State) (w : BarWrite) (locked : Bool) (hK : Keeps tw s0 s) :
    Keeps tw s0 (State.noteLocked s w locked) := by
  unfold State.noteLocked
  try dsimp only
  repeat' first
    | with_reducible assumption
    | with_reducible refine Keeps.ite (fun _ => ?_) (fun _ => ?_)
    | with_reducible apply State.writeRefused_keeps

theorem State.coefWindow_keeps {tw : Touch} {s0 : State} (s : State) (w : BarWrite) (hK : Keeps tw s0 s) :
    Keeps tw s0 (State.coefWindow s w) := by
  unfold State.coefWindow
  try dsimp only
  repeat' first
    | with_reducible assumption
    | with_reducible refine Keeps.ite (fun _ => ?_) (fun _ => ?_)
    | with_reducible apply State.setReg_keeps
    | with_reducible apply State.noteLocked_keeps
    | with_reducible apply State.coefWrite_keeps
    | with_reducible refine Keeps.foldl (fun _ _ _ => ?_) ?_
    | with_reducible refine Keeps.foldl_fst (fun _ _ _ => ?_) ?_
    | with_reducible refine Keeps.foldl_snd (fun _ _ _ => ?_) ?_
    | split
    | intro _
    | fail_if_no_progress (with_reducible apply Keeps.upd)

theorem State.ridgeWrite_keeps {tw : Touch} {s0 : State} (s : State) (w : BarWrite) (hK : Keeps tw s0 s) :
    Keeps tw s0 (State.ridgeWrite s w) := by
  unfold State.ridgeWrite
  try dsimp only
  repeat' first
    | with_reducible assumption
    | with_reducible refine Keeps.ite (fun _ => ?_) (fun _ => ?_)
    | with_reducible apply State.writePlain_keeps
    | with_reducible apply State.restStep_keeps
    | with_reducible apply ran_keeps
    | with_reducible apply execRotNow_keeps

theorem State.mail_keeps {tw : Touch} {s0 : State} (s : State) (w : BarWrite) (agent : Nat) (v : Nat) (hK : Keeps tw s0 s) :
    Keeps tw s0 (State.mail s w agent v) := by
  unfold State.mail
  try dsimp only
  repeat' first
    | with_reducible assumption
    | with_reducible refine Keeps.ite (fun _ => ?_) (fun _ => ?_)
    | with_reducible apply State.writeRefused_keeps
    | with_reducible refine Keeps.foldl (fun _ _ _ => ?_) ?_
    | with_reducible refine Keeps.foldl_fst (fun _ _ _ => ?_) ?_
    | with_reducible refine Keeps.foldl_snd (fun _ _ _ => ?_) ?_
    | split
    | intro _
    | fail_if_no_progress (with_reducible apply Keeps.upd)

theorem State.nodeWrite_keeps {tw : Touch} {s0 : State} (s : State) (w : BarWrite) (hK : Keeps tw s0 s) :
    Keeps tw s0 (State.nodeWrite s w) := by
  unfold State.nodeWrite
  try dsimp only
  repeat' first
    | with_reducible assumption
    | with_reducible refine Keeps.ite (fun _ => ?_) (fun _ => ?_)
    | with_reducible apply State.writeRefused_keeps
    | with_reducible apply State.mail_keeps
    | with_reducible apply State.noteLocked_keeps

theorem State.forestWindow_keeps {tw : Touch} {s0 : State} (s : State) (w : BarWrite) (hK : Keeps tw s0 s) :
    Keeps tw s0 (State.forestWindow s w) := by
  unfold State.forestWindow
  try dsimp only
  repeat' first
    | with_reducible assumption
    | with_reducible refine Keeps.ite (fun _ => ?_) (fun _ => ?_)
    | with_reducible apply State.setReg_keeps
    | with_reducible apply State.mail_keeps
    | with_reducible apply State.noteLocked_keeps
    | with_reducible refine Keeps.foldl (fun _ _ _ => ?_) ?_
    | with_reducible refine Keeps.foldl_fst (fun _ _ _ => ?_) ?_
    | with_reducible refine Keeps.foldl_snd (fun _ _ _ => ?_) ?_
    | split
    | intro _
    | fail_if_no_progress (with_reducible apply Keeps.upd)

theorem State.doseWindow_keeps {tw : Touch} {s0 : State} (s : State) (w : BarWrite) (hK : Keeps tw s0 s) :
    Keeps tw s0 (State.doseWindow s w) := by
  unfold State.doseWindow
  try dsimp only
  repeat' first
    | with_reducible assumption
    | with_reducible refine Keeps.ite (fun _ => ?_) (fun _ => ?_)
    | with_reducible apply State.writeRefused_keeps
    | with_reducible apply State.showClassCrc_keeps
    | with_reducible apply State.setReg_keeps
    | with_reducible apply State.mail_keeps
    | with_reducible apply State.noteLocked_keeps
    | with_reducible refine Keeps.foldl (fun _ _ _ => ?_) ?_
    | with_reducible refine Keeps.foldl_fst (fun _ _ _ => ?_) ?_
    | with_reducible refine Keeps.foldl_snd (fun _ _ _ => ?_) ?_
    | split
    | intro _
    | fail_if_no_progress (with_reducible apply Keeps.upd)

theorem State.botWindow_keeps {tw : Touch} {s0 : State} (s : State) (w : BarWrite) (hK : Keeps tw s0 s) :
    Keeps tw s0 (State.botWindow s w) := by
  unfold State.botWindow
  try dsimp only
  repeat' first
    | with_reducible assumption
    | with_reducible refine Keeps.ite (fun _ => ?_) (fun _ => ?_)
    | with_reducible apply State.setReg_keeps
    | with_reducible apply State.writeRefused_keeps
    | with_reducible apply State.mail_keeps
    | with_reducible apply State.noteLocked_keeps
    | with_reducible refine Keeps.foldl (fun _ _ _ => ?_) ?_
    | with_reducible refine Keeps.foldl_fst (fun _ _ _ => ?_) ?_
    | with_reducible refine Keeps.foldl_snd (fun _ _ _ => ?_) ?_
    | split
    | intro _
    | fail_if_no_progress (with_reducible apply Keeps.upd)

theorem State.couchWrite_keeps {tw : Touch} {s0 : State} (s : State) (w : BarWrite) (hK : Keeps tw s0 s) :
    Keeps tw s0 (State.couchWrite s w) := by
  unfold State.couchWrite
  try dsimp only
  repeat' first
    | with_reducible assumption
    | with_reducible refine Keeps.ite (fun _ => ?_) (fun _ => ?_)
    | with_reducible apply State.wr_keeps
    | with_reducible apply State.noteLocked_keeps
    | with_reducible apply State.writeRefused_keeps
    | with_reducible apply State.mail_keeps
    | with_reducible apply State.showSports_keeps
    | with_reducible apply State.writePlain_keeps

theorem State.markWrite_keeps {tw : Touch} {s0 : State} (s : State) (w : BarWrite) (hK : Keeps tw s0 s) :
    Keeps tw s0 (State.markWrite s w) := by
  unfold State.markWrite
  try dsimp only
  repeat' first
    | with_reducible assumption
    | with_reducible refine Keeps.ite (fun _ => ?_) (fun _ => ?_)
    | with_reducible apply State.writePair_keeps
    | with_reducible apply State.writePlain_keeps

theorem State.layoutWrite_keeps {tw : Touch} {s0 : State} (s : State) (w : BarWrite) (hK : Keeps tw s0 s) :
    Keeps tw s0 (State.layoutWrite s w) := by
  unfold State.layoutWrite
  try dsimp only
  repeat' first
    | with_reducible assumption
    | with_reducible refine Keeps.ite (fun _ => ?_) (fun _ => ?_)
    | with_reducible apply State.writePlain_keeps
    | with_reducible apply State.stripeReset_keeps
    | with_reducible apply ran_keeps
    | with_reducible apply execLayoutSubmit_keeps
    | with_reducible apply execLayoutResultPop_keeps
    | with_reducible apply State.writePair_keeps

theorem State.mouldWrite_keeps {tw : Touch} {s0 : State} (s : State) (w : BarWrite) (hK : Keeps tw s0 s) :
    Keeps tw s0 (State.mouldWrite s w) := by
  unfold State.mouldWrite
  try dsimp only
  repeat' first
    | with_reducible assumption
    | with_reducible refine Keeps.ite (fun _ => ?_) (fun _ => ?_)
    | with_reducible apply State.writePlain_keeps
    | with_reducible apply State.writeRefused_keeps
    | with_reducible apply State.mail_keeps

theorem State.laidShadow_keeps {tw : Touch} {s0 : State} (s : State) (w : BarWrite) (hK : Keeps tw s0 s) :
    Keeps tw s0 (State.laidShadow s w) := by
  unfold State.laidShadow
  try dsimp only
  repeat' first
    | with_reducible assumption
    | with_reducible refine Keeps.ite (fun _ => ?_) (fun _ => ?_)
    | with_reducible apply State.writeLo_keeps
    | with_reducible apply State.writeHi_keeps
    | with_reducible apply State.writePlain_keeps
    | with_reducible apply State.up_keeps

theorem State.laidWrite_keeps {tw : Touch} {s0 : State} (s : State) (w : BarWrite) (hK : Keeps tw s0 s) :
    Keeps tw s0 (State.laidWrite s w) := by
  unfold State.laidWrite
  try dsimp only
  repeat' first
    | with_reducible assumption
    | with_reducible refine Keeps.ite (fun _ => ?_) (fun _ => ?_)
    | with_reducible apply State.showSports_keeps
    | with_reducible apply State.writePlain_keeps
    | with_reducible apply ran_keeps
    | with_reducible apply execLaidArm_keeps
    | with_reducible apply State.disarm_keeps
    | with_reducible apply State.laidShadow_keeps

theorem State.screeWrite_keeps {tw : Touch} {s0 : State} (s : State) (w : BarWrite) (hK : Keeps tw s0 s) :
    Keeps tw s0 (State.screeWrite s w) := by
  unfold State.screeWrite
  try dsimp only
  repeat' first
    | with_reducible assumption
    | with_reducible refine Keeps.ite (fun _ => ?_) (fun _ => ?_)
    | with_reducible apply State.writePlain_keeps
    | with_reducible apply ran_keeps
    | with_reducible apply execMeasNow_keeps
    | with_reducible apply State.wr_keeps
    | with_reducible apply execCritClear_keeps
    | with_reducible apply State.writeFields_keeps
    | with_reducible apply State.mail_keeps
    | with_reducible apply execScreeDctlGo_keeps

theorem State.healthWrite_keeps {tw : Touch} {s0 : State} (s : State) (w : BarWrite) (hK : Keeps tw s0 s) :
    Keeps tw s0 (State.healthWrite s w) := by
  unfold State.healthWrite
  try dsimp only
  repeat' first
    | with_reducible assumption
    | with_reducible refine Keeps.ite (fun _ => ?_) (fun _ => ?_)
    | with_reducible apply State.writePlain_keeps
    | with_reducible apply forN_keeps
    | with_reducible apply State.forceBeam_keeps
    | with_reducible refine Keeps.foldl (fun _ _ _ => ?_) ?_
    | with_reducible refine Keeps.foldl_fst (fun _ _ _ => ?_) ?_
    | with_reducible refine Keeps.foldl_snd (fun _ _ _ => ?_) ?_
    | split
    | intro _

theorem State.reamWrite_keeps {tw : Touch} {s0 : State} (s : State) (w : BarWrite) (hK : Keeps tw s0 s) :
    Keeps tw s0 (State.reamWrite s w) := by
  unfold State.reamWrite
  try dsimp only
  repeat' first
    | with_reducible assumption
    | with_reducible refine Keeps.ite (fun _ => ?_) (fun _ => ?_)
    | with_reducible apply State.writePair_keeps
    | with_reducible apply State.writeRefused_keeps
    | with_reducible apply ran_keeps
    | with_reducible apply execReamRingSize_keeps
    | with_reducible apply execReamRingTail_keeps
    | with_reducible apply State.writePlain_keeps

theorem State.hostWrite_keeps {tw : Touch} {s0 : State} (s : State) (w : BarWrite) (hK : Keeps tw s0 s) :
    Keeps tw s0 (State.hostWrite s w) := by
  unfold State.hostWrite
  try dsimp only
  repeat' first
    | with_reducible assumption
    | with_reducible refine Keeps.ite (fun _ => ?_) (fun _ => ?_)
    | with_reducible apply State.wr_keeps
    | with_reducible apply ran_keeps
    | with_reducible apply execCmdEnSet_keeps
    | with_reducible apply State.down_keeps
    | with_reducible apply State.writeRefused_keeps
    | with_reducible apply State.writeLo_keeps
    | with_reducible apply State.dropStaged_keeps
    | with_reducible apply State.writeHi_keeps
    | with_reducible apply execHostCmdTail_keeps
    | with_reducible apply execDigestSnap_keeps
    | with_reducible apply State.writePair_keeps
    | with_reducible apply execHostTxTail_keeps
    | with_reducible apply State.writePlain_keeps

theorem State.outWrite_keeps {tw : Touch} {s0 : State} (s : State) (w : BarWrite) (hK : Keeps tw s0 s) :
    Keeps tw s0 (State.outWrite s w) := by
  unfold State.outWrite
  try dsimp only
  repeat' first
    | with_reducible assumption
    | with_reducible refine Keeps.ite (fun _ => ?_) (fun _ => ?_)
    | with_reducible apply State.wr_keeps
    | with_reducible apply ran_keeps
    | with_reducible apply execRingEnable_keeps
    | with_reducible apply State.showOut_keeps
    | with_reducible apply State.down_keeps
    | with_reducible apply State.writeRefused_keeps
    | with_reducible apply State.writePair_keeps
    | with_reducible apply State.writeFields_keeps
    | with_reducible apply execRingConsWrite_keeps
    | with_reducible apply State.writePlain_keeps

theorem State.dmaWrite_keeps {tw : Touch} {s0 : State} (s : State) (w : BarWrite) (hK : Keeps tw s0 s) (hw_hbm : tw.hbm = true) :
    Keeps tw s0 (State.dmaWrite s w) := by
  unfold State.dmaWrite
  try dsimp only
  repeat' first
    | with_reducible assumption
    | with_reducible refine Keeps.ite (fun _ => ?_) (fun _ => ?_)
    | with_reducible apply State.writePlain_keeps
    | with_reducible apply State.writeRefused_keeps
    | with_reducible apply State.up_keeps
    | with_reducible apply State.dmaAbort_keeps
    | with_reducible apply State.dmaStart_keeps
    | with_reducible apply State.writePair_keeps

theorem State.cairnBlockWrite_keeps {tw : Touch} {s0 : State} (s : State) (w : BarWrite) (hK : Keeps tw s0 s) :
    Keeps tw s0 (State.cairnBlockWrite s w) := by
  unfold State.cairnBlockWrite
  try dsimp only
  repeat' first
    | with_reducible assumption
    | with_reducible refine Keeps.ite (fun _ => ?_) (fun _ => ?_)
    | with_reducible apply State.writePlain_keeps
    | with_reducible apply State.wr_keeps

theorem State.evioOut_keeps {tw : Touch} {s0 : State} (s : State) (w : BarWrite) (hK : Keeps tw s0 s) :
    Keeps tw s0 (State.evioOut s w) := by
  unfold State.evioOut
  try dsimp only
  repeat' first
    | with_reducible assumption
    | with_reducible refine Keeps.ite (fun _ => ?_) (fun _ => ?_)
    | with_reducible apply State.writePlain_keeps
    | with_reducible apply State.evioOutWrite_keeps
    | with_reducible apply State.writeRefused_keeps
    | with_reducible apply State.up_keeps

theorem State.writeRegister_keeps {tw : Touch} {s0 : State} (s : State) (w : BarWrite) (hK : Keeps tw s0 s) (hw_hbm : tw.hbm = true) :
    Keeps tw s0 (State.writeRegister s w) := by
  unfold State.writeRegister
  try dsimp only
  repeat' first
    | with_reducible assumption
    | with_reducible refine Keeps.ite (fun _ => ?_) (fun _ => ?_)
    | with_reducible apply State.chiefWrite_keeps
    | with_reducible apply State.laneWrite_keeps
    | with_reducible apply State.posWrite_keeps
    | with_reducible apply State.reelWrite_keeps
    | with_reducible apply State.schedWrite_keeps
    | with_reducible apply State.rcapWrite_keeps
    | with_reducible apply State.timeWrite_keeps
    | with_reducible apply State.tcapWrite_keeps
    | with_reducible apply State.compWrite_keeps
    | with_reducible apply State.pulseWrite_keeps
    | with_reducible apply State.macWrite_keeps
    | with_reducible apply ran_keeps
    | with_reducible apply execTemplateValid_keeps
    | with_reducible apply State.showSport_keeps
    | with_reducible apply State.writePlain_keeps
    | with_reducible apply State.headboxWrite_keeps
    | with_reducible apply State.calWrite_keeps
    | with_reducible apply State.coefWindow_keeps
    | with_reducible apply State.ridgeWrite_keeps
    | with_reducible apply State.nodeWrite_keeps
    | with_reducible apply State.couchWrite_keeps
    | with_reducible apply State.couchRefresh_keeps
    | with_reducible apply State.markWrite_keeps
    | with_reducible apply State.forestWindow_keeps
    | with_reducible apply State.layoutWrite_keeps
    | with_reducible apply State.mouldWrite_keeps
    | with_reducible apply State.doseWindow_keeps
    | with_reducible apply State.laidWrite_keeps
    | with_reducible apply State.laidShadow_keeps
    | with_reducible apply State.botWindow_keeps
    | with_reducible apply State.screeWrite_keeps
    | with_reducible apply State.healthWrite_keeps
    | with_reducible apply State.reamWrite_keeps
    | with_reducible apply State.hostWrite_keeps
    | with_reducible apply State.outWrite_keeps
    | with_reducible apply State.dmaWrite_keeps
    | with_reducible apply State.sendPending_keeps
    | with_reducible apply State.cairnBlockWrite_keeps
    | with_reducible apply State.evioOut_keeps
    | with_reducible apply State.writeRefused_keeps
    | with_reducible apply State.cairnWrite_keeps

theorem State.barWrite_keeps {tw : Touch} {s0 : State} (s : State) (loader : Bool) (a : Nat) (value : Nat) (hK : Keeps tw s0 s) (hw_hbm : tw.hbm = true) :
    Keeps tw s0 (State.barWrite s loader a value) := by
  unfold State.barWrite
  try dsimp only
  repeat' first
    | with_reducible assumption
    | with_reducible refine Keeps.ite (fun _ => ?_) (fun _ => ?_)
    | with_reducible apply State.writeRegister_keeps
    | with_reducible refine Keeps.foldl (fun _ _ _ => ?_) ?_
    | with_reducible refine Keeps.foldl_fst (fun _ _ _ => ?_) ?_
    | with_reducible refine Keeps.foldl_snd (fun _ _ _ => ?_) ?_
    | split

theorem execRegisterWrite_keeps {tw : Touch} {s0 : State} (addr : BitVec 26) (width : BitVec 8) (value : Word) (s : State) (hK : Keeps tw s0 s) (hw_hbm : tw.hbm = true) :
    KeepsOut tw s0 (execRegisterWrite addr width value s) := by
  unfold execRegisterWrite
  try dsimp only
  repeat' first
    | with_reducible assumption
    | with_reducible refine KeepsOut.next ?_
    | with_reducible refine KeepsOut.ite (fun _ => ?_) (fun _ => ?_)
    | with_reducible refine Keeps.ite (fun _ => ?_) (fun _ => ?_)
    | with_reducible apply State.accessFault_keeps
    | with_reducible apply State.barWrite_keeps
    | with_reducible refine Keeps.foldl (fun _ _ _ => ?_) ?_
    | with_reducible refine Keeps.foldl_fst (fun _ _ _ => ?_) ?_
    | with_reducible refine Keeps.foldl_snd (fun _ _ _ => ?_) ?_
    | split

theorem State.readClears_keeps {tw : Touch} {s0 : State} (s : State) (a : Nat) (hK : Keeps tw s0 s) :
    Keeps tw s0 (State.readClears s a) := by
  unfold State.readClears
  try dsimp only
  repeat' first
    | with_reducible assumption
    | with_reducible refine Keeps.ite (fun _ => ?_) (fun _ => ?_)
    | with_reducible apply State.setReg_keeps
    | with_reducible refine Keeps.foldl (fun _ _ _ => ?_) ?_
    | with_reducible refine Keeps.foldl_fst (fun _ _ _ => ?_) ?_
    | with_reducible refine Keeps.foldl_snd (fun _ _ _ => ?_) ?_
    | split
    | intro _
    | fail_if_no_progress (with_reducible apply Keeps.upd)

theorem State.answer_keeps {tw : Touch} {s0 : State} (s : State) (v : Word) (hK : Keeps tw s0 s) :
    Keeps tw s0 (State.answer s v) := by
  unfold State.answer
  try dsimp only
  repeat' first
    | with_reducible assumption
    | with_reducible refine Keeps.ite (fun _ => ?_) (fun _ => ?_)
    | with_reducible apply State.emit_keeps

theorem execRcRead_keeps {tw : Touch} {s0 : State} (addr : BitVec 26) (width : BitVec 8) (s : State) (hK : Keeps tw s0 s) :
    KeepsOut tw s0 (execRcRead addr width s) := by
  unfold execRcRead
  try dsimp only
  repeat' first
    | with_reducible assumption
    | with_reducible refine KeepsOut.next ?_
    | with_reducible refine KeepsOut.ite (fun _ => ?_) (fun _ => ?_)
    | with_reducible refine Keeps.ite (fun _ => ?_) (fun _ => ?_)
    | with_reducible apply State.emit_keeps
    | with_reducible apply State.accessFault_keeps
    | with_reducible apply State.answer_keeps
    | with_reducible apply State.readClears_keeps
    | with_reducible refine Keeps.foldl (fun _ _ _ => ?_) ?_
    | with_reducible refine Keeps.foldl_fst (fun _ _ _ => ?_) ?_
    | with_reducible refine Keeps.foldl_snd (fun _ _ _ => ?_) ?_
    | split
    | intro _
    | fail_if_no_progress (with_reducible apply Keeps.upd)

theorem execPairLoRead_keeps {tw : Touch} {s0 : State} (addr : BitVec 26) (s : State) (hK : Keeps tw s0 s) :
    KeepsOut tw s0 (execPairLoRead addr s) := by
  unfold execPairLoRead
  try dsimp only
  repeat' first
    | with_reducible assumption
    | with_reducible refine KeepsOut.next ?_
    | with_reducible refine KeepsOut.ite (fun _ => ?_) (fun _ => ?_)
    | with_reducible refine Keeps.ite (fun _ => ?_) (fun _ => ?_)
    | with_reducible apply State.answer_keeps
    | with_reducible apply State.accessFault_keeps
    | with_reducible apply State.readClears_keeps
    | with_reducible refine Keeps.foldl (fun _ _ _ => ?_) ?_
    | with_reducible refine Keeps.foldl_fst (fun _ _ _ => ?_) ?_
    | with_reducible refine Keeps.foldl_snd (fun _ _ _ => ?_) ?_
    | split
    | intro _
    | fail_if_no_progress (with_reducible apply Keeps.upd)

theorem execAccessTimeout_keeps {tw : Touch} {s0 : State} (addr : BitVec 26) (write : Bool) (s : State) (hK : Keeps tw s0 s) :
    KeepsOut tw s0 (execAccessTimeout addr write s) := by
  unfold execAccessTimeout
  try dsimp only
  repeat' first
    | with_reducible assumption
    | with_reducible refine KeepsOut.next ?_
    | with_reducible refine KeepsOut.ite (fun _ => ?_) (fun _ => ?_)
    | with_reducible refine Keeps.ite (fun _ => ?_) (fun _ => ?_)
    | with_reducible apply State.setIsl_keeps
    | with_reducible apply State.accessFault_keeps
    | with_reducible apply State.answer_keeps

theorem State.mailEntry_keeps {tw : Touch} {s0 : State} (s : State) (agent : Nat) (a : Nat) (v : Word) (hK : Keeps tw s0 s) :
    Keeps tw s0 (State.mailEntry s agent a v) := by
  unfold State.mailEntry
  try dsimp only
  repeat' first
    | with_reducible assumption
    | with_reducible refine Keeps.ite (fun _ => ?_) (fun _ => ?_)
    | with_reducible apply State.wr_keeps
    | with_reducible apply State.forestSwap_keeps
    | with_reducible apply State.setReg_keeps
    | with_reducible apply State.up_keeps
    | with_reducible apply State.orderCommit_keeps
    | with_reducible apply State.writeBeam_keeps

theorem execMailboxApply_keeps {tw : Touch} {s0 : State} (agent : BitVec 8) (s : State) (hK : Keeps tw s0 s) :
    KeepsOut tw s0 (execMailboxApply agent s) := by
  unfold execMailboxApply
  try dsimp only
  repeat' first
    | with_reducible assumption
    | with_reducible refine KeepsOut.next ?_
    | with_reducible refine KeepsOut.ite (fun _ => ?_) (fun _ => ?_)
    | with_reducible refine Keeps.ite (fun _ => ?_) (fun _ => ?_)
    | with_reducible apply State.takeParams_keeps
    | with_reducible apply forAll_keeps
    | with_reducible apply State.mailEntry_keeps
    | with_reducible refine Keeps.foldl (fun _ _ _ => ?_) ?_
    | with_reducible refine Keeps.foldl_fst (fun _ _ _ => ?_) ?_
    | with_reducible refine Keeps.foldl_snd (fun _ _ _ => ?_) ?_
    | split
    | intro _
    | fail_if_no_progress (with_reducible apply Keeps.upd)

end Sys2Proof.Machine
end

