-- ==== Sys2Proof/Laws/KeepsLoader.lean ====
section
/-! SUPPORT. What the operations of Machine/Loader.lean keep of a state (Laws/Keeps.lean). -/

namespace Sys2Proof.Machine

theorem State.loadBase_keeps {tw : Touch} {s0 : State} (s : State) (quads : Sparse QuadProfile) (hK : Keeps tw s0 s) :
    Keeps tw s0 (State.loadBase s quads) := by
  refine Keeps.trans (t := { s with regs := s.regs.filter (fun e => s.keepsWord quads e.1) }) ?_ (Keeps.upd (Keeps.refl _))
  exact Keeps.updRegs hK rfl rfl rfl rfl rfl rfl rfl (fun hs => Sparse.wf_filter _ hs)

theorem State.loadWord_keeps {tw : Touch} {s0 : State} (s : State) (a : Nat) (v : Nat) (hK : Keeps tw s0 s) (hw_hbm : tw.hbm = true) :
    Keeps tw s0 (State.loadWord s a v).1 := by
  unfold State.loadWord
  try dsimp only
  repeat' first
    | with_reducible assumption
    | with_reducible refine Keeps.ite (fun _ => ?_) (fun _ => ?_)
    | with_reducible apply State.barWrite_keeps
    | with_reducible apply State.setReg_keeps
    | with_reducible refine Keeps.foldl (fun _ _ _ => ?_) ?_
    | with_reducible refine Keeps.foldl_fst (fun _ _ _ => ?_) ?_
    | with_reducible refine Keeps.foldl_snd (fun _ _ _ => ?_) ?_
    | split

theorem State.loadWord_keeps_eq {tw : Touch} {s0 : State} {tt : State} {res1 : Bool} (s : State) (a : Nat) (v : Nat) (he : State.loadWord s a v = (tt, res1)) (hK : Keeps tw s0 s) (hw_hbm : tw.hbm = true) :
    Keeps tw s0 tt := by
  have := State.loadWord_keeps s a v hK hw_hbm
  rw [he] at this
  exact this

theorem State.loadWords_keeps {tw : Touch} {s0 : State} (s : State) (a : Nat) (x2 : Bytes) (hK : Keeps tw s0 s) (hw_hbm : tw.hbm = true) :
    Keeps tw s0 (State.loadWords s a x2).1 := by
  fun_induction State.loadWords s a x2 with
  | case1 s a b0 b1 b2 b3 t s' bad he s'' bad' he' ih =>
    have h1 := State.loadWord_keeps s a (leNat [b0, b1, b2, b3]) hK hw_hbm
    rw [he] at h1
    have h2 := ih h1
    rw [he'] at h2
    exact h2
  | case2 => exact hK

theorem State.loadBytes_keeps {tw : Touch} {s0 : State} (s : State) (a : Nat) (data : Bytes) (hK : Keeps tw s0 s) (hw_hbm : tw.hbm = true) :
    Keeps tw s0 (State.loadBytes s a data).1 := by
  unfold State.loadBytes
  try dsimp only
  repeat' first
    | with_reducible assumption
    | with_reducible refine State.loadWords_keeps_eq _ _ _ (by assumption) ?_ (by assumption)
    | with_reducible refine Keeps.ite (fun _ => ?_) (fun _ => ?_)
    | with_reducible apply State.loadWords_keeps
    | with_reducible refine Keeps.foldl (fun _ _ _ => ?_) ?_
    | with_reducible refine Keeps.foldl_fst (fun _ _ _ => ?_) ?_
    | with_reducible refine Keeps.foldl_snd (fun _ _ _ => ?_) ?_
    | split

theorem State.loadBytes_keeps_eq {tw : Touch} {s0 : State} {tt : State} {res1 : Bool} (s : State) (a : Nat) (data : Bytes) (he : State.loadBytes s a data = (tt, res1)) (hK : Keeps tw s0 s) (hw_hbm : tw.hbm = true) :
    Keeps tw s0 tt := by
  have := State.loadBytes_keeps s a data hK hw_hbm
  rw [he] at this
  exact this

theorem State.lockBits_keeps {tw : Touch} {s0 : State} (s : State) (a : Nat) (mask : Nat) (hK : Keeps tw s0 s) :
    Keeps tw s0 (State.lockBits s a mask) := by
  unfold State.lockBits
  try dsimp only
  repeat' first
    | with_reducible assumption
    | with_reducible refine Keeps.ite (fun _ => ?_) (fun _ => ?_)
    | with_reducible refine Keeps.foldl (fun _ _ _ => ?_) ?_
    | with_reducible refine Keeps.foldl_fst (fun _ _ _ => ?_) ?_
    | with_reducible refine Keeps.foldl_snd (fun _ _ _ => ?_) ?_
    | split
    | intro _
    | fail_if_no_progress (with_reducible apply Keeps.upd)

theorem State.lockBytes_keeps {tw : Touch} {s0 : State} (s : State) (a : Nat) (len : Nat) (hK : Keeps tw s0 s) :
    Keeps tw s0 (State.lockBytes s a len) := by
  unfold State.lockBytes
  try dsimp only
  repeat' first
    | with_reducible assumption
    | with_reducible refine Keeps.ite (fun _ => ?_) (fun _ => ?_)
    | with_reducible apply forN_keeps
    | with_reducible apply State.lockBits_keeps
    | with_reducible refine Keeps.foldl (fun _ _ _ => ?_) ?_
    | with_reducible refine Keeps.foldl_fst (fun _ _ _ => ?_) ?_
    | with_reducible refine Keeps.foldl_snd (fun _ _ _ => ?_) ?_
    | split
    | intro _

theorem State.applyPins_keeps {tw : Touch} {s0 : State} (s : State) (img : Image) (hK : Keeps tw s0 s) :
    Keeps tw s0 (State.applyPins s img) := by
  unfold State.applyPins
  try dsimp only
  repeat' first
    | with_reducible assumption
    | with_reducible refine Keeps.ite (fun _ => ?_) (fun _ => ?_)
    | with_reducible apply forN_keeps
    | with_reducible apply State.wr_keeps
    | with_reducible refine Keeps.foldl (fun _ _ _ => ?_) ?_
    | with_reducible refine Keeps.foldl_fst (fun _ _ _ => ?_) ?_
    | with_reducible refine Keeps.foldl_snd (fun _ _ _ => ?_) ?_
    | split
    | intro _
    | fail_if_no_progress (with_reducible apply Keeps.upd)

theorem State.applyQuad_keeps {tw : Touch} {s0 : State} (s : State) (q : Nat) (p : QuadProfile) (hK : Keeps tw s0 s) :
    Keeps tw s0 (State.applyQuad s q p) := by
  unfold State.applyQuad
  try dsimp only
  repeat' first
    | with_reducible assumption
    | with_reducible refine Keeps.ite (fun _ => ?_) (fun _ => ?_)
    | with_reducible apply State.wr_keeps
    | with_reducible apply forN_keeps
    | with_reducible apply State.refclk_keeps
    | with_reducible refine Keeps.foldl (fun _ _ _ => ?_) ?_
    | with_reducible refine Keeps.foldl_fst (fun _ _ _ => ?_) ?_
    | with_reducible refine Keeps.foldl_snd (fun _ _ _ => ?_) ?_
    | split
    | intro _

theorem State.applyQuads_keeps {tw : Touch} {s0 : State} (s : State) (old : Sparse QuadProfile) (new : Sparse QuadProfile) (hK : Keeps tw s0 s) :
    Keeps tw s0 (State.applyQuads s old new) := by
  unfold State.applyQuads
  try dsimp only
  repeat' first
    | with_reducible assumption
    | with_reducible refine Keeps.ite (fun _ => ?_) (fun _ => ?_)
    | with_reducible apply forN_keeps
    | with_reducible apply State.applyQuad_keeps
    | with_reducible refine Keeps.foldl (fun _ _ _ => ?_) ?_
    | with_reducible refine Keeps.foldl_fst (fun _ _ _ => ?_) ?_
    | with_reducible refine Keeps.foldl_snd (fun _ _ _ => ?_) ?_
    | split
    | intro _
    | fail_if_no_progress (with_reducible apply Keeps.upd)

theorem State.applyClaims_keeps {tw : Touch} {s0 : State} (s : State) (img : Image) (hK : Keeps tw s0 s) :
    Keeps tw s0 (State.applyClaims s img) := by
  unfold State.applyClaims
  try dsimp only
  repeat' first
    | with_reducible assumption
    | with_reducible refine Keeps.ite (fun _ => ?_) (fun _ => ?_)
    | with_reducible apply forAll_keeps
    | with_reducible apply State.setOwner_keeps
    | with_reducible refine Keeps.foldl (fun _ _ _ => ?_) ?_
    | with_reducible refine Keeps.foldl_fst (fun _ _ _ => ?_) ?_
    | with_reducible refine Keeps.foldl_snd (fun _ _ _ => ?_) ?_
    | split
    | intro _

theorem State.applyPlan_keeps {tw : Touch} {s0 : State} (s : State) (img : Image) (hK : Keeps tw s0 s) (hw_hbm : tw.hbm = true) :
    Keeps tw s0 (State.applyPlan s img) := by
  unfold State.applyPlan
  try dsimp only
  repeat' first
    | with_reducible assumption
    | with_reducible refine Keeps.ite (fun _ => ?_) (fun _ => ?_)
    | with_reducible apply State.keepHbm_keeps
    | with_reducible apply State.wr_keeps
    | with_reducible refine Keeps.foldl (fun _ _ _ => ?_) ?_
    | with_reducible refine Keeps.foldl_fst (fun _ _ _ => ?_) ?_
    | with_reducible refine Keeps.foldl_snd (fun _ _ _ => ?_) ?_
    | split
    | intro _
    | fail_if_no_progress (with_reducible apply Keeps.upd)

theorem State.applyTable_keeps {tw : Touch} {s0 : State} (s : State) (r : ImgRec) (hK : Keeps tw s0 s) (hw_hbm : tw.hbm = true) :
    Keeps tw s0 (State.applyTable s r).1 := by
  unfold State.applyTable
  try dsimp only
  repeat' first
    | with_reducible assumption
    | with_reducible refine State.loadBytes_keeps_eq _ _ _ (by assumption) ?_ (by assumption)
    | with_reducible refine Keeps.ite (fun _ => ?_) (fun _ => ?_)
    | with_reducible apply State.loadBytes_keeps
    | with_reducible apply State.lockBytes_keeps

theorem State.applyTable_keeps_eq {tw : Touch} {s0 : State} {tt : State} {res1 : Bool} (s : State) (r : ImgRec) (he : State.applyTable s r = (tt, res1)) (hK : Keeps tw s0 s) (hw_hbm : tw.hbm = true) :
    Keeps tw s0 tt := by
  have := State.applyTable_keeps s r hK hw_hbm
  rw [he] at this
  exact this

theorem State.applyReg_keeps {tw : Touch} {s0 : State} (s : State) (r : ImgRec) (hK : Keeps tw s0 s) (hw_hbm : tw.hbm = true) :
    Keeps tw s0 (State.applyReg s r).1 := by
  unfold State.applyReg
  try dsimp only
  repeat' first
    | with_reducible assumption
    | with_reducible refine State.loadWords_keeps_eq _ _ _ (by assumption) ?_ (by assumption)
    | with_reducible refine Keeps.ite (fun _ => ?_) (fun _ => ?_)
    | with_reducible apply State.loadWords_keeps
    | with_reducible apply forN_keeps
    | with_reducible apply State.lockBits_keeps
    | with_reducible refine Keeps.foldl (fun _ _ _ => ?_) ?_
    | with_reducible refine Keeps.foldl_fst (fun _ _ _ => ?_) ?_
    | with_reducible refine Keeps.foldl_snd (fun _ _ _ => ?_) ?_
    | split
    | intro _

theorem State.applyReg_keeps_eq {tw : Touch} {s0 : State} {tt : State} {res1 : Bool} (s : State) (r : ImgRec) (he : State.applyReg s r = (tt, res1)) (hK : Keeps tw s0 s) (hw_hbm : tw.hbm = true) :
    Keeps tw s0 tt := by
  have := State.applyReg_keeps s r hK hw_hbm
  rw [he] at this
  exact this

theorem State.applyColumns_keeps {tw : Touch} {s0 : State} (s : State) (r : ImgRec) (hK : Keeps tw s0 s) :
    Keeps tw s0 (State.applyColumns s r) := by
  unfold State.applyColumns
  try dsimp only
  repeat' first
    | with_reducible assumption
    | with_reducible refine Keeps.ite (fun _ => ?_) (fun _ => ?_)
    | with_reducible apply forAll_keeps
    | with_reducible apply forN_keeps
    | with_reducible apply State.setReg_keeps
    | with_reducible apply State.setOwner_keeps
    | with_reducible refine Keeps.foldl (fun _ _ _ => ?_) ?_
    | with_reducible refine Keeps.foldl_fst (fun _ _ _ => ?_) ?_
    | with_reducible refine Keeps.foldl_snd (fun _ _ _ => ?_) ?_
    | split
    | intro _

theorem applyRecs_keeps {tw : Touch} {s0 : State} (recs : List (Nat × ImgRec)) (f : State → ImgRec → State × Bool) (s : State)
    (hK : Keeps tw s0 s) (hf : ∀ (t : State) (r : ImgRec), Keeps tw s0 t → Keeps tw s0 (f t r).1) :
    Keeps tw s0 (applyRecs recs f s).1 := by
  unfold applyRecs
  exact Keeps.foldl_fst (fun q e hq => hf q.1 e.2 hq) hK


theorem State.showImage_keeps {tw : Touch} {s0 : State} (s : State) (img : Image) (source : Nat) (hK : Keeps tw s0 s) :
    Keeps tw s0 (State.showImage s img source) := by
  unfold State.showImage
  try dsimp only
  repeat' first
    | with_reducible assumption
    | with_reducible refine Keeps.ite (fun _ => ?_) (fun _ => ?_)
    | with_reducible apply State.wr_keeps
    | with_reducible apply forN_keeps
    | with_reducible apply State.wr64_keeps
    | with_reducible refine Keeps.foldl (fun _ _ _ => ?_) ?_
    | with_reducible refine Keeps.foldl_fst (fun _ _ _ => ?_) ?_
    | with_reducible refine Keeps.foldl_snd (fun _ _ _ => ?_) ?_
    | split
    | intro _

theorem State.reelLoaded_keeps {tw : Touch} {s0 : State} (s : State) (hK : Keeps tw s0 s) :
    Keeps tw s0 (State.reelLoaded s) := by
  unfold State.reelLoaded
  try dsimp only
  repeat' first
    | with_reducible assumption
    | with_reducible refine Keeps.ite (fun _ => ?_) (fun _ => ?_)
    | with_reducible apply State.wr_keeps

theorem State.startRidges_keeps {tw : Touch} {s0 : State} (s : State) (retired : Nat → List Nat) (hK : Keeps tw s0 s) :
    Keeps tw s0 (State.startRidges s retired) := by
  unfold State.startRidges
  try dsimp only
  repeat' first
    | with_reducible assumption
    | with_reducible refine Keeps.ite (fun _ => ?_) (fun _ => ?_)
    | with_reducible apply forN_keeps
    | with_reducible apply State.ridgeStart_keeps
    | with_reducible apply State.wr_keeps
    | with_reducible refine Keeps.foldl (fun _ _ _ => ?_) ?_
    | with_reducible refine Keeps.foldl_fst (fun _ _ _ => ?_) ?_
    | with_reducible refine Keeps.foldl_snd (fun _ _ _ => ?_) ?_
    | split
    | intro _

theorem State.applyRecords_keeps {tw : Touch} {s0 : State} (s : State) (img : Image) (hK : Keeps tw s0 s) (hw_hbm : tw.hbm = true) :
    Keeps tw s0 (State.applyRecords s img).1 := by
  unfold State.applyRecords
  try dsimp only
  repeat' first
    | with_reducible assumption
    | with_reducible refine State.applyReg_keeps_eq _ _ (by assumption) ?_ (by assumption)
    | with_reducible refine State.applyTable_keeps_eq _ _ (by assumption) ?_ (by assumption)
    | with_reducible refine applyRecs_keeps_eq _ _ _ (by assumption) ?_
    | with_reducible refine Keeps.ite (fun _ => ?_) (fun _ => ?_)
    | with_reducible apply State.loadBase_keeps
    | with_reducible apply State.wr_keeps
    | with_reducible apply State.applyPins_keeps
    | with_reducible apply State.applyQuads_keeps
    | with_reducible apply State.applyClaims_keeps
    | with_reducible apply State.applyPlan_keeps
    | with_reducible apply applyRecs_keeps
    | with_reducible apply State.applyTable_keeps
    | with_reducible apply forAll_keeps
    | with_reducible apply State.applyGraph_keeps
    | with_reducible apply State.applyReg_keeps
    | with_reducible apply State.applyColumns_keeps
    | with_reducible apply forN_keeps
    | with_reducible apply State.lockBits_keeps
    | with_reducible apply State.showIsl_keeps
    | with_reducible apply State.startRidges_keeps
    | with_reducible apply State.reelLoaded_keeps
    | with_reducible apply State.resetH_keeps
    | with_reducible refine Keeps.foldl (fun _ _ _ => ?_) ?_
    | with_reducible refine Keeps.foldl_fst (fun _ _ _ => ?_) ?_
    | with_reducible refine Keeps.foldl_snd (fun _ _ _ => ?_) ?_
    | split
    | intro _
    | fail_if_no_progress (with_reducible apply Keeps.upd)

theorem State.applyRecords_keeps_eq {tw : Touch} {s0 : State} {tt : State} {res1 : Option Nat} (s : State) (img : Image) (he : State.applyRecords s img = (tt, res1)) (hK : Keeps tw s0 s) (hw_hbm : tw.hbm = true) :
    Keeps tw s0 tt := by
  have := State.applyRecords_keeps s img hK hw_hbm
  rw [he] at this
  exact this

theorem State.showLoaded_keeps {tw : Touch} {s0 : State} (s : State) (hK : Keeps tw s0 s) :
    Keeps tw s0 (State.showLoaded s) := by
  unfold State.showLoaded
  try dsimp only
  repeat' first
    | with_reducible assumption
    | with_reducible refine Keeps.ite (fun _ => ?_) (fun _ => ?_)
    | with_reducible apply State.couchRefresh_keeps
    | with_reducible apply State.showSports_keeps
    | with_reducible apply State.copyLayoutKeys_keeps
    | with_reducible apply State.showClassCrc_keeps
    | with_reducible apply State.showColumns_keeps
    | with_reducible apply State.showFloor_keeps
    | with_reducible apply forN_keeps
    | with_reducible apply State.calScalars_keeps
    | with_reducible apply State.evioIdleAll_keeps
    | with_reducible apply State.emit_keeps
    | with_reducible refine Keeps.foldl (fun _ _ _ => ?_) ?_
    | with_reducible refine Keeps.foldl_fst (fun _ _ _ => ?_) ?_
    | with_reducible refine Keeps.foldl_snd (fun _ _ _ => ?_) ?_
    | split
    | intro _

theorem State.applyImage_keeps {tw : Touch} {s0 : State} (s : State) (img : Image) (source : Nat) (hK : Keeps tw s0 s) (hw_hbm : tw.hbm = true) :
    Keeps tw s0 (State.applyImage s img source) := by
  unfold State.applyImage
  try dsimp only
  repeat' first
    | with_reducible assumption
    | with_reducible refine State.applyRecords_keeps_eq _ _ (by assumption) ?_ (by assumption)
    | with_reducible refine Keeps.ite (fun _ => ?_) (fun _ => ?_)
    | with_reducible apply State.reamEndAll_keeps
    | with_reducible apply State.applyRecords_keeps
    | with_reducible apply State.showImage_keeps
    | with_reducible apply State.showLoaded_keeps
    | with_reducible apply State.wr_keeps
    | with_reducible apply State.down_keeps
    | with_reducible refine Keeps.foldl (fun _ _ _ => ?_) ?_
    | with_reducible refine Keeps.foldl_fst (fun _ _ _ => ?_) ?_
    | with_reducible refine Keeps.foldl_snd (fun _ _ _ => ?_) ?_
    | split
    | intro _
    | fail_if_no_progress (with_reducible apply Keeps.upd)

theorem State.loadRejected_keeps {tw : Touch} {s0 : State} (s : State) (e : LoadErr) (status : Nat) (hK : Keeps tw s0 s) :
    Keeps tw s0 (State.loadRejected s e status) := by
  unfold State.loadRejected
  try dsimp only
  repeat' first
    | with_reducible assumption
    | with_reducible refine Keeps.ite (fun _ => ?_) (fun _ => ?_)
    | with_reducible apply State.wr_keeps
    | with_reducible apply State.log_keeps

end Sys2Proof.Machine
end

