-- ==== Sys2Proof/Laws/KeepsUpdate.lean ====
section
/-! SUPPORT. What the operations of Machine/Update.lean keep of a state (Laws/Keeps.lean). -/

namespace Sys2Proof.Machine

theorem State.updState_keeps {tw : Touch} {s0 : State} (s : State) (x : Nat) (hK : Keeps tw s0 s) :
    Keeps tw s0 (State.updState s x) := by
  unfold State.updState
  try dsimp only
  repeat' first
    | with_reducible assumption
    | with_reducible refine Keeps.ite (fun _ => ?_) (fun _ => ?_)
    | with_reducible apply State.wr_keeps

theorem State.sessionFails_keeps {tw : Touch} {s0 : State} (s : State) (status : Nat) (cause : Nat) (part : Nat) (loader : Nat) (hK : Keeps tw s0 s) :
    Keeps tw s0 (State.sessionFails s status cause part loader) := by
  unfold State.sessionFails
  try dsimp only
  repeat' first
    | with_reducible assumption
    | with_reducible refine Keeps.ite (fun _ => ?_) (fun _ => ?_)
    | with_reducible apply State.wr_keeps
    | with_reducible apply State.updState_keeps
    | with_reducible apply State.freeLock_keeps
    | with_reducible refine Keeps.foldl (fun _ _ _ => ?_) ?_
    | with_reducible refine Keeps.foldl_fst (fun _ _ _ => ?_) ?_
    | with_reducible refine Keeps.foldl_snd (fun _ _ _ => ?_) ?_
    | split
    | intro _
    | fail_if_no_progress (with_reducible apply Keeps.upd)

theorem State.flashUndefined_keeps {tw : Touch} {s0 : State} (s : State) (a : Nat) (n : Nat) (hK : Keeps tw s0 s) (hw_flash : tw.flash = true) :
    Keeps tw s0 (State.flashUndefined s a n) := by
  unfold State.flashUndefined
  try dsimp only
  repeat' first
    | with_reducible assumption
    | with_reducible refine State.free_keeps_eq _ (by assumption) ?_
    | with_reducible refine Keeps.ite (fun _ => ?_) (fun _ => ?_)
    | with_reducible apply forN_keeps
    | with_reducible apply State.free_keeps
    | with_reducible apply State.setFlashByte_keeps
    | with_reducible refine Keeps.foldl (fun _ _ _ => ?_) ?_
    | with_reducible refine Keeps.foldl_fst (fun _ _ _ => ?_) ?_
    | with_reducible refine Keeps.foldl_snd (fun _ _ _ => ?_) ?_
    | split
    | intro _

theorem State.beginStaging_keeps {tw : Touch} {s0 : State} (s : State) (hK : Keeps tw s0 s) (hw_flash : tw.flash = true) :
    Keeps tw s0 (State.beginStaging s) := by
  unfold State.beginStaging
  try dsimp only
  repeat' first
    | with_reducible assumption
    | with_reducible refine Keeps.ite (fun _ => ?_) (fun _ => ?_)
    | with_reducible apply State.updState_keeps
    | with_reducible apply State.flashUndefined_keeps
    | with_reducible refine Keeps.foldl (fun _ _ _ => ?_) ?_
    | with_reducible refine Keeps.foldl_fst (fun _ _ _ => ?_) ?_
    | with_reducible refine Keeps.foldl_snd (fun _ _ _ => ?_) ?_
    | split
    | intro _
    | fail_if_no_progress (with_reducible apply Keeps.upd)

theorem State.checkManifest_keeps {tw : Touch} {s0 : State} (s : State) (m : Bytes) (offered : Option Nat) (hK : Keeps tw s0 s) (hw_flash : tw.flash = true) :
    Keeps tw s0 (State.checkManifest s m offered).1 := by
  unfold State.checkManifest
  try dsimp only
  repeat' first
    | with_reducible assumption
    | with_reducible refine Keeps.ite (fun _ => ?_) (fun _ => ?_)
    | with_reducible apply State.sessionFails_keeps
    | with_reducible apply State.beginStaging_keeps
    | with_reducible refine Keeps.foldl (fun _ _ _ => ?_) ?_
    | with_reducible refine Keeps.foldl_fst (fun _ _ _ => ?_) ?_
    | with_reducible refine Keeps.foldl_snd (fun _ _ _ => ?_) ?_
    | split

theorem State.checkManifest_keeps_eq {tw : Touch} {s0 : State} {tt : State} {res1 : Option Nat} (s : State) (m : Bytes) (offered : Option Nat) (he : State.checkManifest s m offered = (tt, res1)) (hK : Keeps tw s0 s) (hw_flash : tw.flash = true) :
    Keeps tw s0 tt := by
  have := State.checkManifest_keeps s m offered hK hw_flash
  rw [he] at this
  exact this

theorem execUpdateBegin_keeps {tw : Touch} {s0 : State} (cmd : CmdRef) (addr : BitVec 64) (len : Word) (s : State) (hK : Keeps tw s0 s) (hw_flash : tw.flash = true) :
    KeepsOut tw s0 (execUpdateBegin cmd addr len s) := by
  unfold execUpdateBegin
  try dsimp only
  repeat' first
    | with_reducible assumption
    | with_reducible refine State.checkManifest_keeps_eq _ _ _ (by assumption) ?_ (by assumption)
    | with_reducible refine KeepsOut.next ?_
    | with_reducible refine KeepsOut.ite (fun _ => ?_) (fun _ => ?_)
    | with_reducible refine Keeps.ite (fun _ => ?_) (fun _ => ?_)
    | with_reducible apply State.notPark_keeps
    | with_reducible apply State.finish_keeps
    | with_reducible apply State.takeCmd_keeps
    | with_reducible apply State.count_keeps
    | with_reducible apply State.takeLock_keeps
    | with_reducible apply State.wr_keeps
    | with_reducible apply State.updState_keeps
    | with_reducible apply State.report_keeps
    | with_reducible apply State.sessionFails_keeps
    | with_reducible apply State.noteRead_keeps
    | with_reducible apply State.checkManifest_keeps
    | with_reducible refine Keeps.foldl (fun _ _ _ => ?_) ?_
    | with_reducible refine Keeps.foldl_fst (fun _ _ _ => ?_) ?_
    | with_reducible refine Keeps.foldl_snd (fun _ _ _ => ?_) ?_
    | split
    | intro _
    | fail_if_no_progress (with_reducible apply Keeps.upd)

theorem execUpdateStatus_keeps {tw : Touch} {s0 : State} (cmd : CmdRef) (s : State) (hK : Keeps tw s0 s) :
    KeepsOut tw s0 (execUpdateStatus cmd s) := by
  unfold execUpdateStatus
  try dsimp only
  repeat' first
    | with_reducible assumption
    | with_reducible refine KeepsOut.next ?_
    | with_reducible refine KeepsOut.ite (fun _ => ?_) (fun _ => ?_)
    | with_reducible refine Keeps.ite (fun _ => ?_) (fun _ => ?_)
    | with_reducible apply State.notPark_keeps
    | with_reducible apply State.report_keeps
    | with_reducible refine Keeps.foldl (fun _ _ _ => ?_) ?_
    | with_reducible refine Keeps.foldl_fst (fun _ _ _ => ?_) ?_
    | with_reducible refine Keeps.foldl_snd (fun _ _ _ => ?_) ?_
    | split
    | intro _

theorem State.notHolder_keeps {tw : Touch} {s0 : State} (s : State) (cmd : CmdRef) (opcode : Nat) (none_ : Nat) (hK : Keeps tw s0 s) :
    Keeps tw s0 (State.notHolder s cmd opcode none_) := by
  unfold State.notHolder
  try dsimp only
  repeat' first
    | with_reducible assumption
    | with_reducible refine Keeps.ite (fun _ => ?_) (fun _ => ?_)
    | with_reducible apply State.finish_keeps
    | with_reducible refine Keeps.foldl (fun _ _ _ => ?_) ?_
    | with_reducible refine Keeps.foldl_fst (fun _ _ _ => ?_) ?_
    | with_reducible refine Keeps.foldl_snd (fun _ _ _ => ?_) ?_
    | split

theorem execUpdateData_keeps {tw : Touch} {s0 : State} (cmd : CmdRef) (offset : Word) (data : Bytes) (s : State) (hK : Keeps tw s0 s) (hw_flash : tw.flash = true) :
    KeepsOut tw s0 (execUpdateData cmd offset data s) := by
  unfold execUpdateData
  try dsimp only
  repeat' first
    | with_reducible assumption
    | with_reducible refine State.checkManifest_keeps_eq _ _ _ (by assumption) ?_ (by assumption)
    | with_reducible refine KeepsOut.next ?_
    | with_reducible refine KeepsOut.ite (fun _ => ?_) (fun _ => ?_)
    | with_reducible refine Keeps.ite (fun _ => ?_) (fun _ => ?_)
    | with_reducible apply State.notPark_keeps
    | with_reducible apply State.finish_keeps
    | with_reducible apply State.notHolder_keeps
    | with_reducible apply State.checkManifest_keeps
    | with_reducible refine Keeps.foldl (fun _ _ _ => ?_) ?_
    | with_reducible refine Keeps.foldl_fst (fun _ _ _ => ?_) ?_
    | with_reducible refine Keeps.foldl_snd (fun _ _ _ => ?_) ?_
    | split
    | intro _
    | fail_if_no_progress (with_reducible apply Keeps.upd)

theorem execUpdateAbort_keeps {tw : Touch} {s0 : State} (cmd : CmdRef) (s : State) (hK : Keeps tw s0 s) :
    KeepsOut tw s0 (execUpdateAbort cmd s) := by
  unfold execUpdateAbort
  try dsimp only
  repeat' first
    | with_reducible assumption
    | with_reducible refine KeepsOut.next ?_
    | with_reducible refine KeepsOut.ite (fun _ => ?_) (fun _ => ?_)
    | with_reducible refine Keeps.ite (fun _ => ?_) (fun _ => ?_)
    | with_reducible apply State.notPark_keeps
    | with_reducible apply State.notHolder_keeps
    | with_reducible apply State.finish_keeps
    | with_reducible apply State.updState_keeps
    | with_reducible apply State.freeLock_keeps
    | with_reducible refine Keeps.foldl (fun _ _ _ => ?_) ?_
    | with_reducible refine Keeps.foldl_fst (fun _ _ _ => ?_) ?_
    | with_reducible refine Keeps.foldl_snd (fun _ _ _ => ?_) ?_
    | split
    | intro _
    | fail_if_no_progress (with_reducible apply Keeps.upd)

theorem execUpdateDataTimeout_keeps {tw : Touch} {s0 : State} (s : State) (hK : Keeps tw s0 s) :
    KeepsOut tw s0 (execUpdateDataTimeout s) := by
  unfold execUpdateDataTimeout
  try dsimp only
  repeat' first
    | with_reducible assumption
    | with_reducible refine KeepsOut.next ?_
    | with_reducible refine KeepsOut.ite (fun _ => ?_) (fun _ => ?_)
    | with_reducible refine Keeps.ite (fun _ => ?_) (fun _ => ?_)
    | with_reducible apply State.sessionFails_keeps

theorem execUpdateStageTimeout_keeps {tw : Touch} {s0 : State} (s : State) (hK : Keeps tw s0 s) :
    KeepsOut tw s0 (execUpdateStageTimeout s) := by
  unfold execUpdateStageTimeout
  try dsimp only
  repeat' first
    | with_reducible assumption
    | with_reducible refine KeepsOut.next ?_
    | with_reducible refine KeepsOut.ite (fun _ => ?_) (fun _ => ?_)
    | with_reducible refine Keeps.ite (fun _ => ?_) (fun _ => ?_)
    | with_reducible apply State.sessionFails_keeps

theorem State.program_keeps {tw : Touch} {s0 : State} (s : State) (x : Session) (b : Nat) (hK : Keeps tw s0 s) (hw_flash : tw.flash = true) :
    Keeps tw s0 (State.program s x b) := by
  unfold State.program
  try dsimp only
  repeat' first
    | with_reducible assumption
    | with_reducible refine Keeps.ite (fun _ => ?_) (fun _ => ?_)
    | with_reducible apply State.eraseFlash_keeps
    | with_reducible apply State.setFlashBytes_keeps
    | with_reducible refine Keeps.foldl (fun _ _ _ => ?_) ?_

theorem execUpdateStaged_keeps {tw : Touch} {s0 : State} (flashError : Option (Fin 7)) (misread : Option (Fin 6)) (s : State) (hK : Keeps tw s0 s) (hw_flash : tw.flash = true) :
    KeepsOut tw s0 (execUpdateStaged flashError misread s) := by
  unfold execUpdateStaged
  try dsimp only
  repeat' first
    | with_reducible assumption
    | with_reducible refine KeepsOut.next ?_
    | with_reducible refine KeepsOut.ite (fun _ => ?_) (fun _ => ?_)
    | with_reducible refine Keeps.ite (fun _ => ?_) (fun _ => ?_)
    | with_reducible apply State.sessionFails_keeps
    | with_reducible apply State.readFailed_keeps
    | with_reducible apply State.program_keeps
    | with_reducible apply State.eraseSpareDirectory_keeps
    | with_reducible apply State.wr_keeps
    | with_reducible apply State.updState_keeps
    | with_reducible refine Keeps.foldl (fun _ _ _ => ?_) ?_
    | with_reducible refine Keeps.foldl_fst (fun _ _ _ => ?_) ?_
    | with_reducible refine Keeps.foldl_snd (fun _ _ _ => ?_) ?_
    | split
    | intro _
    | fail_if_no_progress (with_reducible apply Keeps.upd)

theorem State.activationFails_keeps {tw : Touch} {s0 : State} (s : State) (cmd : CmdRef) (status : Nat) (cause : Nat) (part : Nat) (loader : Nat) (info : Nat) (hK : Keeps tw s0 s) :
    Keeps tw s0 (State.activationFails s cmd status cause part loader info) := by
  unfold State.activationFails
  try dsimp only
  repeat' first
    | with_reducible assumption
    | with_reducible refine Keeps.ite (fun _ => ?_) (fun _ => ?_)
    | with_reducible apply State.finish_keeps
    | with_reducible apply State.sessionFails_keeps

theorem State.activate_keeps {tw : Touch} {s0 : State} (s : State) (cmd : CmdRef) (change : Bool) (hK : Keeps tw s0 s) (hw_flash : tw.flash = true) :
    Keeps tw s0 (State.activate s cmd change) := by
  unfold State.activate
  try dsimp only
  repeat' first
    | with_reducible assumption
    | with_reducible refine Keeps.ite (fun _ => ?_) (fun _ => ?_)
    | with_reducible apply State.activationFails_keeps
    | with_reducible apply State.updState_keeps
    | with_reducible apply State.writeDirectory_keeps
    | with_reducible refine Keeps.foldl (fun _ _ _ => ?_) ?_
    | with_reducible refine Keeps.foldl_fst (fun _ _ _ => ?_) ?_
    | with_reducible refine Keeps.foldl_snd (fun _ _ _ => ?_) ?_
    | split
    | intro _
    | fail_if_no_progress (with_reducible apply Keeps.upd)

theorem State.activateStart_keeps {tw : Touch} {s0 : State} (s : State) (cmd : CmdRef) (hK : Keeps tw s0 s) (hw_flash : tw.flash = true) :
    Keeps tw s0 (State.activateStart s cmd) := by
  unfold State.activateStart
  try dsimp only
  repeat' first
    | with_reducible assumption
    | with_reducible refine Keeps.ite (fun _ => ?_) (fun _ => ?_)
    | with_reducible apply State.takeCmd_keeps
    | with_reducible apply State.notHolder_keeps
    | with_reducible apply State.finish_keeps
    | with_reducible apply State.activate_keeps
    | with_reducible refine Keeps.foldl (fun _ _ _ => ?_) ?_
    | with_reducible refine Keeps.foldl_fst (fun _ _ _ => ?_) ?_
    | with_reducible refine Keeps.foldl_snd (fun _ _ _ => ?_) ?_
    | split

end Sys2Proof.Machine
end

