-- ==== Sys2Proof/Laws/KeepsChief.lean ====
section
/-! SUPPORT. What the operations of Machine/Chief.lean keep of a state (Laws/Keeps.lean). -/

namespace Sys2Proof.Machine

theorem State.showSteward_keeps {tw : Touch} {s0 : State} (s : State) (i : Nat) (st : Nat) (restarts : Nat) (hK : Keeps tw s0 s) :
    Keeps tw s0 (State.showSteward s i st restarts) := by
  unfold State.showSteward
  try dsimp only
  repeat' first
    | with_reducible assumption
    | with_reducible refine Keeps.ite (fun _ => ?_) (fun _ => ?_)
    | with_reducible apply State.setReg_keeps

theorem execStewardHeartbeatMiss_keeps {tw : Touch} {s0 : State} (steward : Fin 4) (s : State) (hK : Keeps tw s0 s) :
    KeepsOut tw s0 (execStewardHeartbeatMiss steward s) := by
  unfold execStewardHeartbeatMiss
  try dsimp only
  repeat' first
    | with_reducible assumption
    | with_reducible refine KeepsOut.next ?_
    | with_reducible refine KeepsOut.ite (fun _ => ?_) (fun _ => ?_)
    | with_reducible refine Keeps.ite (fun _ => ?_) (fun _ => ?_)
    | with_reducible apply State.showSteward_keeps
    | with_reducible apply State.chiefAlert_keeps
    | with_reducible apply State.log_keeps
    | with_reducible refine Keeps.foldl (fun _ _ _ => ?_) ?_
    | with_reducible refine Keeps.foldl_fst (fun _ _ _ => ?_) ?_
    | with_reducible refine Keeps.foldl_snd (fun _ _ _ => ?_) ?_
    | split
    | intro _
    | fail_if_no_progress (with_reducible apply Keeps.upd)

theorem execStewardRestartDone_keeps {tw : Touch} {s0 : State} (steward : Fin 4) (s : State) (hK : Keeps tw s0 s) :
    KeepsOut tw s0 (execStewardRestartDone steward s) := by
  unfold execStewardRestartDone
  try dsimp only
  repeat' first
    | with_reducible assumption
    | with_reducible refine KeepsOut.next ?_
    | with_reducible refine KeepsOut.ite (fun _ => ?_) (fun _ => ?_)
    | with_reducible refine Keeps.ite (fun _ => ?_) (fun _ => ?_)
    | with_reducible apply State.showSteward_keeps

theorem execClockMonitorSample_keeps {tw : Touch} {s0 : State} (khz : List (BitVec 8 × BitVec 24)) (s : State) (hK : Keeps tw s0 s) :
    KeepsOut tw s0 (execClockMonitorSample khz s) := by
  unfold execClockMonitorSample
  try dsimp only
  repeat' first
    | with_reducible assumption
    | with_reducible refine KeepsOut.next ?_
    | with_reducible refine KeepsOut.ite (fun _ => ?_) (fun _ => ?_)
    | with_reducible refine Keeps.ite (fun _ => ?_) (fun _ => ?_)
    | with_reducible apply forAll_keeps
    | with_reducible apply State.setIsl_keeps
    | with_reducible apply State.log_keeps
    | with_reducible refine Keeps.foldl (fun _ _ _ => ?_) ?_
    | with_reducible refine Keeps.foldl_fst (fun _ _ _ => ?_) ?_
    | with_reducible refine Keeps.foldl_snd (fun _ _ _ => ?_) ?_
    | split
    | intro _

theorem State.enterMode_keeps {tw : Touch} {s0 : State} (s : State) (to_ : Nat) (hK : Keeps tw s0 s) :
    Keeps tw s0 (State.enterMode s to_) := by
  unfold State.enterMode
  try dsimp only
  repeat' first
    | with_reducible assumption
    | with_reducible refine Keeps.ite (fun _ => ?_) (fun _ => ?_)
    | with_reducible apply State.wr_keeps
    | with_reducible apply State.down_keeps
    | with_reducible apply State.evioIdleAll_keeps
    | with_reducible apply forN_keeps
    | with_reducible apply State.restStep_keeps
    | with_reducible apply State.laneTest_keeps
    | with_reducible refine Keeps.foldl (fun _ _ _ => ?_) ?_
    | with_reducible refine Keeps.foldl_fst (fun _ _ _ => ?_) ?_
    | with_reducible refine Keeps.foldl_snd (fun _ _ _ => ?_) ?_
    | split
    | intro _

theorem State.pathEnd_keeps {tw : Touch} {s0 : State} (s : State) (hK : Keeps tw s0 s) :
    Keeps tw s0 (State.pathEnd s) := by
  unfold State.pathEnd
  try dsimp only
  repeat' first
    | with_reducible assumption
    | with_reducible refine Keeps.ite (fun _ => ?_) (fun _ => ?_)
    | with_reducible apply forN_keeps
    | with_reducible apply State.rotAbandon_keeps
    | with_reducible apply State.wr_keeps
    | with_reducible apply State.dropMarks_keeps
    | with_reducible apply State.calIdleHandover_keeps
    | with_reducible apply State.couchRefresh_keeps
    | with_reducible refine Keeps.foldl (fun _ _ _ => ?_) ?_
    | with_reducible refine Keeps.foldl_fst (fun _ _ _ => ?_) ?_
    | with_reducible refine Keeps.foldl_snd (fun _ _ _ => ?_) ?_
    | split
    | intro _
    | fail_if_no_progress (with_reducible apply Keeps.upd)

theorem State.showTrans_keeps {tw : Touch} {s0 : State} (s : State) (t : Trans) (target : Nat) (hK : Keeps tw s0 s) :
    Keeps tw s0 (State.showTrans s t target) := by
  unfold State.showTrans
  try dsimp only
  repeat' first
    | with_reducible assumption
    | with_reducible refine Keeps.ite (fun _ => ?_) (fun _ => ?_)
    | with_reducible apply State.wr_keeps
    | with_reducible apply State.up_keeps
    | with_reducible refine Keeps.foldl (fun _ _ _ => ?_) ?_
    | with_reducible refine Keeps.foldl_fst (fun _ _ _ => ?_) ?_
    | with_reducible refine Keeps.foldl_snd (fun _ _ _ => ?_) ?_
    | split
    | intro _
    | fail_if_no_progress (with_reducible apply Keeps.upd)

theorem State.parkStep_keeps {tw : Touch} {s0 : State} (s : State) (n : Nat) (hK : Keeps tw s0 s) :
    Keeps tw s0 (State.parkStep s n) := by
  unfold State.parkStep
  try dsimp only
  repeat' first
    | with_reducible assumption
    | with_reducible refine Keeps.ite (fun _ => ?_) (fun _ => ?_)
    | with_reducible apply State.wr_keeps

theorem State.parkOn_keeps {tw : Touch} {s0 : State} (s : State) (cmd : CmdRef) (hK : Keeps tw s0 s) :
    Keeps tw s0 (State.parkOn s cmd) := by
  unfold State.parkOn
  try dsimp only
  repeat' first
    | with_reducible assumption
    | with_reducible refine Keeps.ite (fun _ => ?_) (fun _ => ?_)
    | with_reducible apply State.parkStep_keeps
    | with_reducible apply State.showTrans_keeps

theorem State.transDone_keeps {tw : Touch} {s0 : State} (s : State) (t : Trans) (hK : Keeps tw s0 s) :
    Keeps tw s0 (State.transDone s t) := by
  unfold State.transDone
  try dsimp only
  repeat' first
    | with_reducible assumption
    | with_reducible refine Keeps.ite (fun _ => ?_) (fun _ => ?_)
    | with_reducible apply State.enterMode_keeps
    | with_reducible apply State.parkOn_keeps
    | with_reducible apply State.report_keeps
    | with_reducible apply State.freeLock_keeps
    | with_reducible apply State.finish_keeps
    | with_reducible refine Keeps.foldl (fun _ _ _ => ?_) ?_
    | with_reducible refine Keeps.foldl_fst (fun _ _ _ => ?_) ?_
    | with_reducible refine Keeps.foldl_snd (fun _ _ _ => ?_) ?_
    | split
    | intro _
    | fail_if_no_progress (with_reducible apply Keeps.upd)

theorem State.abortJoint_keeps {tw : Touch} {s0 : State} (s : State) (refused : Nat) (status : Nat) (info : Nat) (hK : Keeps tw s0 s) :
    Keeps tw s0 (State.abortJoint s refused status info) := by
  unfold State.abortJoint
  try dsimp only
  repeat' first
    | with_reducible assumption
    | with_reducible refine Keeps.ite (fun _ => ?_) (fun _ => ?_)
    | with_reducible apply State.wr_keeps
    | with_reducible apply State.finish_keeps
    | with_reducible apply State.freeLock_keeps
    | with_reducible apply State.down_keeps
    | with_reducible apply State.parkStep_keeps
    | with_reducible refine Keeps.foldl (fun _ _ _ => ?_) ?_
    | with_reducible refine Keeps.foldl_fst (fun _ _ _ => ?_) ?_
    | with_reducible refine Keeps.foldl_snd (fun _ _ _ => ?_) ?_
    | split
    | intro _
    | fail_if_no_progress (with_reducible apply Keeps.upd)

theorem State.openJoint_keeps {tw : Touch} {s0 : State} (s : State) (kind : JointKind) (hK : Keeps tw s0 s) :
    Keeps tw s0 (State.openJoint s kind) := by
  unfold State.openJoint
  try dsimp only
  repeat' first
    | with_reducible assumption
    | with_reducible refine Keeps.ite (fun _ => ?_) (fun _ => ?_)
    | with_reducible apply State.wr_keeps
    | with_reducible apply State.advance_keeps
    | with_reducible apply State.wr64_keeps
    | with_reducible apply State.abortJoint_keeps
    | with_reducible refine Keeps.foldl (fun _ _ _ => ?_) ?_
    | with_reducible refine Keeps.foldl_fst (fun _ _ _ => ?_) ?_
    | with_reducible refine Keeps.foldl_snd (fun _ _ _ => ?_) ?_
    | split
    | intro _
    | fail_if_no_progress (with_reducible apply Keeps.upd)

theorem State.runBegin_keeps {tw : Touch} {s0 : State} (s : State) (m : Nat) (hK : Keeps tw s0 s) :
    Keeps tw s0 (State.runBegin s m) := by
  unfold State.runBegin
  try dsimp only
  repeat' first
    | with_reducible assumption
    | with_reducible refine Keeps.ite (fun _ => ?_) (fun _ => ?_)
    | with_reducible apply forN_keeps
    | with_reducible apply State.wr_keeps
    | with_reducible apply State.setFill_keeps
    | with_reducible apply State.ridgeEnter_keeps
    | with_reducible apply State.couchEnter_keeps
    | with_reducible apply State.screeEnter_keeps
    | with_reducible refine Keeps.foldl (fun _ _ _ => ?_) ?_
    | with_reducible refine Keeps.foldl_fst (fun _ _ _ => ?_) ?_
    | with_reducible refine Keeps.foldl_snd (fun _ _ _ => ?_) ?_
    | split
    | intro _
    | fail_if_no_progress (with_reducible apply Keeps.upd)

theorem State.settleExit_keeps {tw : Touch} {s0 : State} (s : State) (hK : Keeps tw s0 s) (hw_hbm : tw.hbm = true) :
    Keeps tw s0 (State.settleExit s) := by
  unfold State.settleExit
  try dsimp only
  repeat' first
    | with_reducible assumption
    | with_reducible refine Keeps.ite (fun _ => ?_) (fun _ => ?_)
    | with_reducible apply forN_keeps
    | with_reducible apply State.lineTime_keeps
    | with_reducible apply State.untriggered_keeps
    | with_reducible apply State.ridgeFlush_keeps
    | with_reducible apply State.setRidge_keeps
    | with_reducible apply State.showCouch_keeps
    | with_reducible apply State.releaseDrained_keeps
    | with_reducible refine Keeps.foldl (fun _ _ _ => ?_) ?_
    | with_reducible refine Keeps.foldl_fst (fun _ _ _ => ?_) ?_
    | with_reducible refine Keeps.foldl_snd (fun _ _ _ => ?_) ?_
    | split
    | intro _
    | fail_if_no_progress (with_reducible apply Keeps.upd)

theorem State.applyJoint_keeps {tw : Touch} {s0 : State} (s : State) (j : Joint) (hK : Keeps tw s0 s) (hw_hbm : tw.hbm = true) :
    Keeps tw s0 (State.applyJoint s j) := by
  unfold State.applyJoint
  try dsimp only
  repeat' first
    | with_reducible assumption
    | with_reducible refine Keeps.ite (fun _ => ?_) (fun _ => ?_)
    | with_reducible apply State.wr_keeps
    | with_reducible apply State.runBegin_keeps
    | with_reducible apply State.settleExit_keeps
    | with_reducible apply State.applyImage_keeps
    | with_reducible refine Keeps.foldl (fun _ _ _ => ?_) ?_
    | with_reducible refine Keeps.foldl_fst (fun _ _ _ => ?_) ?_
    | with_reducible refine Keeps.foldl_snd (fun _ _ _ => ?_) ?_
    | split
    | intro _
    | fail_if_no_progress (with_reducible apply Keeps.upd)

theorem State.exposeSettle_keeps {tw : Touch} {s0 : State} (s : State) (hK : Keeps tw s0 s) (hw_hbm : tw.hbm = true) :
    Keeps tw s0 (State.exposeSettle s) := by
  unfold State.exposeSettle
  try dsimp only
  repeat' first
    | with_reducible assumption
    | with_reducible refine Keeps.ite (fun _ => ?_) (fun _ => ?_)
    | with_reducible apply State.applyJoint_keeps
    | with_reducible refine Keeps.foldl (fun _ _ _ => ?_) ?_
    | with_reducible refine Keeps.foldl_fst (fun _ _ _ => ?_) ?_
    | with_reducible refine Keeps.foldl_snd (fun _ _ _ => ?_) ?_
    | split

theorem State.commitJoint_keeps {tw : Touch} {s0 : State} (s : State) (j : Joint) (hK : Keeps tw s0 s) (hw_hbm : tw.hbm = true) :
    Keeps tw s0 (State.commitJoint s j) := by
  unfold State.commitJoint
  try dsimp only
  repeat' first
    | with_reducible assumption
    | with_reducible refine Keeps.ite (fun _ => ?_) (fun _ => ?_)
    | with_reducible apply State.wr_keeps
    | with_reducible apply State.wrI64_keeps
    | with_reducible apply State.applyJoint_keeps
    | with_reducible apply State.exposeSettle_keeps
    | with_reducible apply State.laidStop_keeps
    | with_reducible refine Keeps.foldl (fun _ _ _ => ?_) ?_
    | with_reducible refine Keeps.foldl_fst (fun _ _ _ => ?_) ?_
    | with_reducible refine Keeps.foldl_snd (fun _ _ _ => ?_) ?_
    | split
    | intro _
    | fail_if_no_progress (with_reducible apply Keeps.upd)

theorem State.setModeStart_keeps {tw : Touch} {s0 : State} (s : State) (cmd : CmdRef) (mode : Nat) (stopNow : Bool) (hK : Keeps tw s0 s) :
    Keeps tw s0 (State.setModeStart s cmd mode stopNow) := by
  unfold State.setModeStart
  try dsimp only
  repeat' first
    | with_reducible assumption
    | with_reducible refine Keeps.ite (fun _ => ?_) (fun _ => ?_)
    | with_reducible apply State.takeCmd_keeps
    | with_reducible apply State.finish_keeps
    | with_reducible apply State.openJoint_keeps
    | with_reducible apply State.showTrans_keeps

theorem State.parkStart_keeps {tw : Touch} {s0 : State} (s : State) (cmd : CmdRef) (hK : Keeps tw s0 s) :
    Keeps tw s0 (State.parkStart s cmd) := by
  unfold State.parkStart
  try dsimp only
  repeat' first
    | with_reducible assumption
    | with_reducible refine Keeps.ite (fun _ => ?_) (fun _ => ?_)
    | with_reducible apply State.takeCmd_keeps
    | with_reducible apply State.finish_keeps
    | with_reducible apply State.wr_keeps
    | with_reducible apply State.takeLock_keeps
    | with_reducible apply State.down_keeps
    | with_reducible apply State.parkStep_keeps
    | with_reducible apply State.showTrans_keeps
    | with_reducible apply State.openJoint_keeps
    | with_reducible apply State.parkOn_keeps
    | with_reducible refine Keeps.foldl (fun _ _ _ => ?_) ?_
    | with_reducible refine Keeps.foldl_fst (fun _ _ _ => ?_) ?_
    | with_reducible refine Keeps.foldl_snd (fun _ _ _ => ?_) ?_
    | split

theorem State.loadFails_keeps {tw : Touch} {s0 : State} (s : State) (cmd : CmdRef) (addr : Nat) (len : Nat) (e : LoadErr) (hK : Keeps tw s0 s) :
    Keeps tw s0 (State.loadFails s cmd addr len e) := by
  unfold State.loadFails
  try dsimp only
  repeat' first
    | with_reducible assumption
    | with_reducible refine Keeps.ite (fun _ => ?_) (fun _ => ?_)
    | with_reducible apply State.loadRejected_keeps
    | with_reducible apply State.readFailed_keeps
    | with_reducible apply State.finish_keeps
    | with_reducible apply State.freeLock_keeps

theorem State.loadStart_keeps {tw : Touch} {s0 : State} (s : State) (cmd : CmdRef) (addr : Nat) (len : Nat) (hK : Keeps tw s0 s) :
    Keeps tw s0 (State.loadStart s cmd addr len) := by
  unfold State.loadStart
  try dsimp only
  repeat' first
    | with_reducible assumption
    | with_reducible refine Keeps.ite (fun _ => ?_) (fun _ => ?_)
    | with_reducible apply State.takeCmd_keeps
    | with_reducible apply State.finish_keeps
    | with_reducible apply State.wr_keeps
    | with_reducible apply State.takeLock_keeps
    | with_reducible apply State.loadFails_keeps
    | with_reducible apply State.openJoint_keeps
    | with_reducible refine Keeps.foldl (fun _ _ _ => ?_) ?_
    | with_reducible refine Keeps.foldl_fst (fun _ _ _ => ?_) ?_
    | with_reducible refine Keeps.foldl_snd (fun _ _ _ => ?_) ?_
    | split
    | intro _
    | fail_if_no_progress (with_reducible apply Keeps.upd)

theorem State.modeStart_keeps {tw : Touch} {s0 : State} (s : State) (c : ModeCmd) (hK : Keeps tw s0 s) (hw_flash : tw.flash = true) :
    Keeps tw s0 (State.modeStart s c) := by
  unfold State.modeStart
  try dsimp only
  repeat' first
    | with_reducible assumption
    | with_reducible refine Keeps.ite (fun _ => ?_) (fun _ => ?_)
    | with_reducible apply State.setModeStart_keeps
    | with_reducible apply State.parkStart_keeps
    | with_reducible apply State.loadStart_keeps
    | with_reducible apply State.activateStart_keeps
    | with_reducible refine Keeps.foldl (fun _ _ _ => ?_) ?_
    | with_reducible refine Keeps.foldl_fst (fun _ _ _ => ?_) ?_
    | with_reducible refine Keeps.foldl_snd (fun _ _ _ => ?_) ?_
    | split

theorem State.nextChange_keeps {tw : Touch} {s0 : State} (s : State) (x1 : Nat) (hK : Keeps tw s0 s) (hw_flash : tw.flash = true) :
    Keeps tw s0 (State.nextChange s x1) := by
  induction x1 generalizing s with
  | zero =>
    unfold State.nextChange
    try dsimp only
    repeat' first
      | with_reducible assumption
  | succ n ih =>
    unfold State.nextChange
    try dsimp only
    repeat' first
      | with_reducible assumption
      | with_reducible apply ih
      | with_reducible refine Keeps.ite (fun _ => ?_) (fun _ => ?_)
      | with_reducible apply State.modeStart_keeps
      | with_reducible apply State.command_keeps
      | with_reducible apply State.begin_keeps
      | with_reducible refine Keeps.foldl (fun _ _ _ => ?_) ?_
      | with_reducible refine Keeps.foldl_fst (fun _ _ _ => ?_) ?_
      | with_reducible refine Keeps.foldl_snd (fun _ _ _ => ?_) ?_
      | split
      | intro _
      | fail_if_no_progress (with_reducible apply Keeps.upd)

theorem State.takeWaiting_keeps {tw : Touch} {s0 : State} (s : State) (hK : Keeps tw s0 s) (hw_flash : tw.flash = true) :
    Keeps tw s0 (State.takeWaiting s) := by
  unfold State.takeWaiting
  try dsimp only
  repeat' first
    | with_reducible assumption
    | with_reducible refine Keeps.ite (fun _ => ?_) (fun _ => ?_)
    | with_reducible apply State.nextChange_keeps

theorem State.queueChange_keeps {tw : Touch} {s0 : State} (s : State) (c : ModeCmd) (hK : Keeps tw s0 s) (hw_flash : tw.flash = true) :
    Keeps tw s0 (State.queueChange s c) := by
  unfold State.queueChange
  try dsimp only
  repeat' first
    | with_reducible assumption
    | with_reducible refine Keeps.ite (fun _ => ?_) (fun _ => ?_)
    | with_reducible apply State.takeWaiting_keeps
    | with_reducible refine Keeps.foldl (fun _ _ _ => ?_) ?_
    | with_reducible refine Keeps.foldl_fst (fun _ _ _ => ?_) ?_
    | with_reducible refine Keeps.foldl_snd (fun _ _ _ => ?_) ?_
    | split
    | intro _
    | fail_if_no_progress (with_reducible apply Keeps.upd)

theorem execSetMode_keeps {tw : Touch} {s0 : State} (cmd : CmdRef) (mode : BitVec 8) (stopNow : Bool) (s : State) (hK : Keeps tw s0 s) (hw_flash : tw.flash = true) :
    KeepsOut tw s0 (execSetMode cmd mode stopNow s) := by
  unfold execSetMode
  try dsimp only
  repeat' first
    | with_reducible assumption
    | with_reducible refine KeepsOut.next ?_
    | with_reducible refine KeepsOut.ite (fun _ => ?_) (fun _ => ?_)
    | with_reducible refine Keeps.ite (fun _ => ?_) (fun _ => ?_)
    | with_reducible apply State.command_keeps
    | with_reducible apply State.queueChange_keeps
    | with_reducible refine Keeps.foldl (fun _ _ _ => ?_) ?_
    | with_reducible refine Keeps.foldl_fst (fun _ _ _ => ?_) ?_
    | with_reducible refine Keeps.foldl_snd (fun _ _ _ => ?_) ?_
    | split
    | intro _

theorem execPark_keeps {tw : Touch} {s0 : State} (cmd : CmdRef) (s : State) (hK : Keeps tw s0 s) (hw_flash : tw.flash = true) :
    KeepsOut tw s0 (execPark cmd s) := by
  unfold execPark
  try dsimp only
  repeat' first
    | with_reducible assumption
    | with_reducible refine KeepsOut.next ?_
    | with_reducible refine KeepsOut.ite (fun _ => ?_) (fun _ => ?_)
    | with_reducible refine Keeps.ite (fun _ => ?_) (fun _ => ?_)
    | with_reducible apply State.command_keeps
    | with_reducible apply State.queueChange_keeps
    | with_reducible refine Keeps.foldl (fun _ _ _ => ?_) ?_
    | with_reducible refine Keeps.foldl_fst (fun _ _ _ => ?_) ?_
    | with_reducible refine Keeps.foldl_snd (fun _ _ _ => ?_) ?_
    | split
    | intro _

theorem execLoadImage_keeps {tw : Touch} {s0 : State} (cmd : CmdRef) (addr : BitVec 64) (len : Word) (s : State) (hK : Keeps tw s0 s) (hw_flash : tw.flash = true) :
    KeepsOut tw s0 (execLoadImage cmd addr len s) := by
  unfold execLoadImage
  try dsimp only
  repeat' first
    | with_reducible assumption
    | with_reducible refine KeepsOut.next ?_
    | with_reducible refine KeepsOut.ite (fun _ => ?_) (fun _ => ?_)
    | with_reducible refine Keeps.ite (fun _ => ?_) (fun _ => ?_)
    | with_reducible apply State.command_keeps
    | with_reducible apply State.finish_keeps
    | with_reducible apply State.queueChange_keeps
    | with_reducible refine Keeps.foldl (fun _ _ _ => ?_) ?_
    | with_reducible refine Keeps.foldl_fst (fun _ _ _ => ?_) ?_
    | with_reducible refine Keeps.foldl_snd (fun _ _ _ => ?_) ?_
    | split
    | intro _

theorem execStewardAnswer_keeps {tw : Touch} {s0 : State} (steward : Fin 4) (held : Option (BitVec 16)) (s : State) (hK : Keeps tw s0 s) (hw_hbm : tw.hbm = true) (hw_flash : tw.flash = true) :
    KeepsOut tw s0 (execStewardAnswer steward held s) := by
  unfold execStewardAnswer
  try dsimp only
  repeat' first
    | with_reducible assumption
    | with_reducible refine KeepsOut.next ?_
    | with_reducible refine KeepsOut.ite (fun _ => ?_) (fun _ => ?_)
    | with_reducible refine Keeps.ite (fun _ => ?_) (fun _ => ?_)
    | with_reducible apply State.takeWaiting_keeps
    | with_reducible apply State.abortJoint_keeps
    | with_reducible apply State.commitJoint_keeps
    | with_reducible refine Keeps.foldl (fun _ _ _ => ?_) ?_
    | with_reducible refine Keeps.foldl_fst (fun _ _ _ => ?_) ?_
    | with_reducible refine Keeps.foldl_snd (fun _ _ _ => ?_) ?_
    | split
    | intro _
    | fail_if_no_progress (with_reducible apply Keeps.upd)

theorem execJointAnswerTimeout_keeps {tw : Touch} {s0 : State} (s : State) (hK : Keeps tw s0 s) (hw_flash : tw.flash = true) :
    KeepsOut tw s0 (execJointAnswerTimeout s) := by
  unfold execJointAnswerTimeout
  try dsimp only
  repeat' first
    | with_reducible assumption
    | with_reducible refine KeepsOut.next ?_
    | with_reducible refine KeepsOut.ite (fun _ => ?_) (fun _ => ?_)
    | with_reducible refine Keeps.ite (fun _ => ?_) (fun _ => ?_)
    | with_reducible apply State.takeWaiting_keeps
    | with_reducible apply State.abortJoint_keeps
    | with_reducible refine Keeps.foldl (fun _ _ _ => ?_) ?_
    | with_reducible refine Keeps.foldl_fst (fun _ _ _ => ?_) ?_
    | with_reducible refine Keeps.foldl_snd (fun _ _ _ => ?_) ?_
    | split

theorem execJointTargetTimeout_keeps {tw : Touch} {s0 : State} (s : State) (hK : Keeps tw s0 s) (hw_hbm : tw.hbm = true) :
    KeepsOut tw s0 (execJointTargetTimeout s) := by
  unfold execJointTargetTimeout
  try dsimp only
  repeat' first
    | with_reducible assumption
    | with_reducible refine KeepsOut.next ?_
    | with_reducible refine KeepsOut.ite (fun _ => ?_) (fun _ => ?_)
    | with_reducible refine Keeps.ite (fun _ => ?_) (fun _ => ?_)
    | with_reducible apply State.applyJoint_keeps
    | with_reducible refine Keeps.foldl (fun _ _ _ => ?_) ?_
    | with_reducible refine Keeps.foldl_fst (fun _ _ _ => ?_) ?_
    | with_reducible refine Keeps.foldl_snd (fun _ _ _ => ?_) ?_
    | split
    | intro _
    | fail_if_no_progress (with_reducible apply Keeps.upd)

theorem State.exposeEnd_keeps {tw : Touch} {s0 : State} (s : State) (hK : Keeps tw s0 s) (hw_hbm : tw.hbm = true) :
    Keeps tw s0 (State.exposeEnd s) := by
  unfold State.exposeEnd
  try dsimp only
  repeat' first
    | with_reducible assumption
    | with_reducible refine Keeps.ite (fun _ => ?_) (fun _ => ?_)
    | with_reducible apply State.pathEnd_keeps
    | with_reducible apply State.laidExit_keeps
    | with_reducible apply State.reamEndClient_keeps
    | with_reducible apply State.wmStop_keeps
    | with_reducible apply State.mouldStop_keeps
    | with_reducible apply State.layoutStop_keeps

theorem execAgentApplied_keeps {tw : Touch} {s0 : State} (s : State) (hK : Keeps tw s0 s) (hw_hbm : tw.hbm = true) (hw_flash : tw.flash = true) :
    KeepsOut tw s0 (execAgentApplied s) := by
  unfold execAgentApplied
  try dsimp only
  repeat' first
    | with_reducible assumption
    | with_reducible refine KeepsOut.next ?_
    | with_reducible refine KeepsOut.ite (fun _ => ?_) (fun _ => ?_)
    | with_reducible refine Keeps.ite (fun _ => ?_) (fun _ => ?_)
    | with_reducible apply State.exposeSettle_keeps
    | with_reducible apply State.takeWaiting_keeps
    | with_reducible apply State.transDone_keeps
    | with_reducible apply State.exposeEnd_keeps
    | with_reducible refine Keeps.foldl (fun _ _ _ => ?_) ?_
    | with_reducible refine Keeps.foldl_fst (fun _ _ _ => ?_) ?_
    | with_reducible refine Keeps.foldl_snd (fun _ _ _ => ?_) ?_
    | split

theorem execModeDrainDone_keeps {tw : Touch} {s0 : State} (s : State) (hK : Keeps tw s0 s) (hw_flash : tw.flash = true) :
    KeepsOut tw s0 (execModeDrainDone s) := by
  unfold execModeDrainDone
  try dsimp only
  repeat' first
    | with_reducible assumption
    | with_reducible refine KeepsOut.next ?_
    | with_reducible refine KeepsOut.ite (fun _ => ?_) (fun _ => ?_)
    | with_reducible refine Keeps.ite (fun _ => ?_) (fun _ => ?_)
    | with_reducible apply State.takeWaiting_keeps
    | with_reducible apply State.transDone_keeps
    | with_reducible apply State.pathEnd_keeps
    | with_reducible refine Keeps.foldl (fun _ _ _ => ?_) ?_
    | with_reducible refine Keeps.foldl_fst (fun _ _ _ => ?_) ?_
    | with_reducible refine Keeps.foldl_snd (fun _ _ _ => ?_) ?_
    | split

theorem State.discardRun_keeps {tw : Touch} {s0 : State} (s : State) (hK : Keeps tw s0 s) (hw_hbm : tw.hbm = true) :
    Keeps tw s0 (State.discardRun s) := by
  unfold State.discardRun
  try dsimp only
  repeat' first
    | with_reducible assumption
    | with_reducible refine Keeps.ite (fun _ => ?_) (fun _ => ?_)
    | with_reducible apply State.reamEndClient_keeps
    | with_reducible apply State.couchCut_keeps
    | with_reducible apply forN_keeps
    | with_reducible apply State.setFill_keeps
    | with_reducible apply State.setRidge_keeps
    | with_reducible apply State.showSlots_keeps
    | with_reducible apply State.showInline_keeps
    | with_reducible apply State.showCouch_keeps
    | with_reducible apply State.showStats_keeps
    | with_reducible refine Keeps.foldl (fun _ _ _ => ?_) ?_
    | with_reducible refine Keeps.foldl_fst (fun _ _ _ => ?_) ?_
    | with_reducible refine Keeps.foldl_snd (fun _ _ _ => ?_) ?_
    | split
    | intro _
    | fail_if_no_progress (with_reducible apply Keeps.upd)

theorem execDrainCut_keeps {tw : Touch} {s0 : State} (s : State) (hK : Keeps tw s0 s) (hw_hbm : tw.hbm = true) (hw_flash : tw.flash = true) :
    KeepsOut tw s0 (execDrainCut s) := by
  unfold execDrainCut
  try dsimp only
  repeat' first
    | with_reducible assumption
    | with_reducible refine KeepsOut.next ?_
    | with_reducible refine KeepsOut.ite (fun _ => ?_) (fun _ => ?_)
    | with_reducible refine Keeps.ite (fun _ => ?_) (fun _ => ?_)
    | with_reducible apply State.takeWaiting_keeps
    | with_reducible apply State.transDone_keeps
    | with_reducible apply State.pathEnd_keeps
    | with_reducible apply State.count_keeps
    | with_reducible apply State.log_keeps
    | with_reducible apply State.up_keeps
    | with_reducible apply State.discardRun_keeps
    | with_reducible refine Keeps.foldl (fun _ _ _ => ?_) ?_
    | with_reducible refine Keeps.foldl_fst (fun _ _ _ => ?_) ?_
    | with_reducible refine Keeps.foldl_snd (fun _ _ _ => ?_) ?_
    | split

theorem State.enterStart_keeps {tw : Touch} {s0 : State} (s : State) (cmd : CmdRef) (opcode : Nat) (hK : Keeps tw s0 s) :
    Keeps tw s0 (State.enterStart s cmd opcode) := by
  unfold State.enterStart
  try dsimp only
  repeat' first
    | with_reducible assumption
    | with_reducible refine Keeps.ite (fun _ => ?_) (fun _ => ?_)
    | with_reducible apply State.openJoint_keeps
    | with_reducible apply State.showTrans_keeps
    | with_reducible apply State.report_keeps
    | with_reducible apply State.freeLock_keeps
    | with_reducible apply State.finish_keeps

theorem execLoadImageDone_keeps {tw : Touch} {s0 : State} (s : State) (hK : Keeps tw s0 s) (hw_flash : tw.flash = true) :
    KeepsOut tw s0 (execLoadImageDone s) := by
  unfold execLoadImageDone
  try dsimp only
  repeat' first
    | with_reducible assumption
    | with_reducible refine KeepsOut.next ?_
    | with_reducible refine KeepsOut.ite (fun _ => ?_) (fun _ => ?_)
    | with_reducible refine Keeps.ite (fun _ => ?_) (fun _ => ?_)
    | with_reducible apply State.count_keeps
    | with_reducible apply State.wr_keeps
    | with_reducible apply State.freeLock_keeps
    | with_reducible apply State.takeWaiting_keeps
    | with_reducible apply State.enterStart_keeps
    | with_reducible refine Keeps.foldl (fun _ _ _ => ?_) ?_
    | with_reducible refine Keeps.foldl_fst (fun _ _ _ => ?_) ?_
    | with_reducible refine Keeps.foldl_snd (fun _ _ _ => ?_) ?_
    | split
    | intro _
    | fail_if_no_progress (with_reducible apply Keeps.upd)

theorem execUpdateActivate_keeps {tw : Touch} {s0 : State} (cmd : CmdRef) (s : State) (hK : Keeps tw s0 s) (hw_flash : tw.flash = true) :
    KeepsOut tw s0 (execUpdateActivate cmd s) := by
  unfold execUpdateActivate
  try dsimp only
  repeat' first
    | with_reducible assumption
    | with_reducible refine KeepsOut.next ?_
    | with_reducible refine KeepsOut.ite (fun _ => ?_) (fun _ => ?_)
    | with_reducible refine Keeps.ite (fun _ => ?_) (fun _ => ?_)
    | with_reducible apply State.notPark_keeps
    | with_reducible apply State.queueChange_keeps
    | with_reducible refine Keeps.foldl (fun _ _ _ => ?_) ?_
    | with_reducible refine Keeps.foldl_fst (fun _ _ _ => ?_) ?_
    | with_reducible refine Keeps.foldl_snd (fun _ _ _ => ?_) ?_
    | split
    | intro _

theorem execActivationDone_keeps {tw : Touch} {s0 : State} (s : State) (hK : Keeps tw s0 s) (hw_hbm : tw.hbm = true) (hw_flash : tw.flash = true) :
    KeepsOut tw s0 (execActivationDone s) := by
  unfold execActivationDone
  try dsimp only
  repeat' first
    | with_reducible assumption
    | with_reducible refine KeepsOut.next ?_
    | with_reducible refine KeepsOut.ite (fun _ => ?_) (fun _ => ?_)
    | with_reducible refine Keeps.ite (fun _ => ?_) (fun _ => ?_)
    | with_reducible apply State.count_keeps
    | with_reducible apply State.updState_keeps
    | with_reducible apply State.report_keeps
    | with_reducible apply State.freeLock_keeps
    | with_reducible apply State.orderReset_keeps
    | with_reducible apply State.eraseSpareDirectory_keeps
    | with_reducible apply State.takeWaiting_keeps
    | with_reducible apply State.wr_keeps
    | with_reducible apply State.applyImage_keeps
    | with_reducible apply State.enterMode_keeps
    | with_reducible apply State.enterStart_keeps
    | with_reducible refine Keeps.foldl (fun _ _ _ => ?_) ?_
    | with_reducible refine Keeps.foldl_fst (fun _ _ _ => ?_) ?_
    | with_reducible refine Keeps.foldl_snd (fun _ _ _ => ?_) ?_
    | split
    | intro _
    | fail_if_no_progress (with_reducible apply Keeps.upd)

theorem execClaim_keeps {tw : Touch} {s0 : State} (cmd : CmdRef) (index : BitVec 16) (tag : BitVec 12) (s : State) (hK : Keeps tw s0 s) :
    KeepsOut tw s0 (execClaim cmd index tag s) := by
  unfold execClaim
  try dsimp only
  repeat' first
    | with_reducible assumption
    | with_reducible refine KeepsOut.next ?_
    | with_reducible refine KeepsOut.ite (fun _ => ?_) (fun _ => ?_)
    | with_reducible refine Keeps.ite (fun _ => ?_) (fun _ => ?_)
    | with_reducible apply State.notPark_keeps
    | with_reducible apply State.finish_keeps
    | with_reducible apply State.setOwner_keeps
    | with_reducible apply State.freeResource_keeps
    | with_reducible apply State.setReg_keeps
    | with_reducible refine Keeps.foldl (fun _ _ _ => ?_) ?_
    | with_reducible refine Keeps.foldl_fst (fun _ _ _ => ?_) ?_
    | with_reducible refine Keeps.foldl_snd (fun _ _ _ => ?_) ?_
    | split
    | intro _

theorem execRelease_keeps {tw : Touch} {s0 : State} (cmd : CmdRef) (index : BitVec 16) (s : State) (hK : Keeps tw s0 s) :
    KeepsOut tw s0 (execRelease cmd index s) := by
  unfold execRelease
  try dsimp only
  repeat' first
    | with_reducible assumption
    | with_reducible refine KeepsOut.next ?_
    | with_reducible refine KeepsOut.ite (fun _ => ?_) (fun _ => ?_)
    | with_reducible refine Keeps.ite (fun _ => ?_) (fun _ => ?_)
    | with_reducible apply State.notPark_keeps
    | with_reducible apply State.finish_keeps
    | with_reducible apply State.freeResource_keeps
    | with_reducible refine Keeps.foldl (fun _ _ _ => ?_) ?_
    | with_reducible refine Keeps.foldl_fst (fun _ _ _ => ?_) ?_
    | with_reducible refine Keeps.foldl_snd (fun _ _ _ => ?_) ?_
    | split
    | intro _

theorem State.jointAt_keeps {tw : Touch} {s0 : State} (s : State) (line : Int) (hK : Keeps tw s0 s) (hw_hbm : tw.hbm = true) :
    Keeps tw s0 (State.jointAt s line) := by
  unfold State.jointAt
  try dsimp only
  repeat' first
    | with_reducible assumption
    | with_reducible refine Keeps.ite (fun _ => ?_) (fun _ => ?_)
    | with_reducible apply State.applyJoint_keeps
    | with_reducible refine Keeps.foldl (fun _ _ _ => ?_) ?_
    | with_reducible refine Keeps.foldl_fst (fun _ _ _ => ?_) ?_
    | with_reducible refine Keeps.foldl_snd (fun _ _ _ => ?_) ?_
    | split

theorem State.issueTick_keeps {tw : Touch} {s0 : State} (s : State) (t : Tick) (hK : Keeps tw s0 s) (hw_hbm : tw.hbm = true) :
    Keeps tw s0 (State.issueTick s t) := by
  unfold State.issueTick
  try dsimp only
  repeat' first
    | with_reducible assumption
    | with_reducible refine Keeps.ite (fun _ => ?_) (fun _ => ?_)
    | with_reducible apply State.reelHandover_keeps
    | with_reducible apply State.jointAt_keeps
    | with_reducible apply State.lineTime_keeps
    | with_reducible apply State.trigger_keeps
    | with_reducible apply State.up_keeps
    | with_reducible apply State.count_keeps
    | with_reducible refine Keeps.foldl (fun _ _ _ => ?_) ?_
    | with_reducible refine Keeps.foldl_fst (fun _ _ _ => ?_) ?_
    | with_reducible refine Keeps.foldl_snd (fun _ _ _ => ?_) ?_
    | split
    | intro _
    | fail_if_no_progress (with_reducible apply Keeps.upd)

theorem State.skipTick_keeps {tw : Touch} {s0 : State} (s : State) (t : Tick) (hK : Keeps tw s0 s) (hw_hbm : tw.hbm = true) :
    Keeps tw s0 (State.skipTick s t) := by
  unfold State.skipTick
  try dsimp only
  repeat' first
    | with_reducible assumption
    | with_reducible refine Keeps.ite (fun _ => ?_) (fun _ => ?_)
    | with_reducible apply State.lineTime_keeps
    | with_reducible apply State.untriggered_keeps
    | with_reducible refine Keeps.foldl (fun _ _ _ => ?_) ?_
    | with_reducible refine Keeps.foldl_fst (fun _ _ _ => ?_) ?_
    | with_reducible refine Keeps.foldl_snd (fun _ _ _ => ?_) ?_
    | split
    | intro _
    | fail_if_no_progress (with_reducible apply Keeps.upd)

theorem State.reportSkips_keeps {tw : Touch} {s0 : State} (s : State) (x1 : Nat) (hK : Keeps tw s0 s) (hw_hbm : tw.hbm = true) :
    Keeps tw s0 (State.reportSkips s x1) := by
  induction x1 generalizing s with
  | zero =>
    unfold State.reportSkips
    try dsimp only
    repeat' first
      | with_reducible assumption
  | succ n ih =>
    unfold State.reportSkips
    try dsimp only
    repeat' first
      | with_reducible assumption
      | with_reducible apply ih
      | with_reducible refine Keeps.ite (fun _ => ?_) (fun _ => ?_)
      | with_reducible apply State.skipTick_keeps
      | with_reducible refine Keeps.foldl (fun _ _ _ => ?_) ?_
      | with_reducible refine Keeps.foldl_fst (fun _ _ _ => ?_) ?_
      | with_reducible refine Keeps.foldl_snd (fun _ _ _ => ?_) ?_
      | split
      | intro _
      | fail_if_no_progress (with_reducible apply Keeps.upd)

theorem execReelTick_keeps {tw : Touch} {s0 : State} (s : State) (hK : Keeps tw s0 s) (hw_hbm : tw.hbm = true) :
    KeepsOut tw s0 (execReelTick s) := by
  unfold execReelTick
  try dsimp only
  repeat' first
    | with_reducible assumption
    | with_reducible refine KeepsOut.next ?_
    | with_reducible refine KeepsOut.ite (fun _ => ?_) (fun _ => ?_)
    | with_reducible refine Keeps.ite (fun _ => ?_) (fun _ => ?_)
    | with_reducible apply State.wrI64_keeps
    | with_reducible apply State.settleExit_keeps
    | with_reducible apply State.jointAt_keeps
    | with_reducible apply State.issueTick_keeps
    | with_reducible apply State.count_keeps
    | with_reducible refine Keeps.foldl (fun _ _ _ => ?_) ?_
    | with_reducible refine Keeps.foldl_fst (fun _ _ _ => ?_) ?_
    | with_reducible refine Keeps.foldl_snd (fun _ _ _ => ?_) ?_
    | split
    | intro _
    | fail_if_no_progress (with_reducible apply Keeps.upd)

theorem execReelBacklogRelease_keeps {tw : Touch} {s0 : State} (s : State) (hK : Keeps tw s0 s) (hw_hbm : tw.hbm = true) :
    KeepsOut tw s0 (execReelBacklogRelease s) := by
  unfold execReelBacklogRelease
  try dsimp only
  repeat' first
    | with_reducible assumption
    | with_reducible refine KeepsOut.next ?_
    | with_reducible refine KeepsOut.ite (fun _ => ?_) (fun _ => ?_)
    | with_reducible refine Keeps.ite (fun _ => ?_) (fun _ => ?_)
    | with_reducible apply State.skipTick_keeps
    | with_reducible apply State.issueTick_keeps
    | with_reducible apply State.settleExit_keeps
    | with_reducible apply State.reportSkips_keeps
    | with_reducible refine Keeps.foldl (fun _ _ _ => ?_) ?_
    | with_reducible refine Keeps.foldl_fst (fun _ _ _ => ?_) ?_
    | with_reducible refine Keeps.foldl_snd (fun _ _ _ => ?_) ?_
    | split
    | intro _
    | fail_if_no_progress (with_reducible apply Keeps.upd)

theorem execLaidShotTick_keeps {tw : Touch} {s0 : State} (corrected : Nat) (failed : List (Word × Fin 576)) (crcBad : List (Fin 48)) (s : State) (hK : Keeps tw s0 s) (hw_hbm : tw.hbm = true) :
    KeepsOut tw s0 (execLaidShotTick corrected failed crcBad s) := by
  unfold execLaidShotTick
  try dsimp only
  repeat' first
    | with_reducible assumption
    | with_reducible refine KeepsOut.next ?_
    | with_reducible refine KeepsOut.ite (fun _ => ?_) (fun _ => ?_)
    | with_reducible refine Keeps.ite (fun _ => ?_) (fun _ => ?_)
    | with_reducible apply State.laidTick_keeps
    | with_reducible apply State.exposeSettle_keeps
    | with_reducible apply State.laidEvents_keeps
    | with_reducible refine Keeps.foldl (fun _ _ _ => ?_) ?_
    | with_reducible refine Keeps.foldl_fst (fun _ _ _ => ?_) ?_
    | with_reducible refine Keeps.foldl_snd (fun _ _ _ => ?_) ?_
    | split
    | intro _
    | fail_if_no_progress (with_reducible apply Keeps.upd)

end Sys2Proof.Machine
end

