-- ==== Sys2Proof/Laws/KeepsStartup.lean ====
section
/-! SUPPORT. What the operations of Machine/Startup.lean keep of a state (Laws/Keeps.lean). -/

namespace Sys2Proof.Machine

theorem State.cleared_keeps {tw : Touch} {s0 : State} (s : State) (kept : Nat → Bool) (log : Bool) (hK : Keeps tw s0 s) (hw_hbm : tw.hbm = true) (hw_keys : tw.keys = true) :
    Keeps tw s0 (State.cleared s kept log) := by
  have h1 : Keeps tw s0 { s with regs := s.regs.filter (fun e => kept e.1) } :=
    Keeps.updRegs hK rfl rfl rfl rfl rfl rfl rfl (fun hs => Sparse.wf_filter _ hs)
  have h2 : Keeps tw s0 { s with regs := s.regs.filter (fun e => kept e.1), hbm := [] } :=
    Keeps.updHbm h1 hw_hbm rfl rfl rfl rfl rfl rfl rfl (fun _ => rfl)
  have h3 : Keeps tw s0 { s with regs := s.regs.filter (fun e => kept e.1), hbm := [], keys := [] } :=
    Keeps.updKeys h2 hw_keys rfl rfl rfl rfl rfl rfl rfl
  exact Keeps.upd h3

theorem State.restart_keeps {tw : Touch} {s0 : State} (s : State) (cause : Nat) (hK : Keeps tw s0 s) (hw_hbm : tw.hbm = true) (hw_keys : tw.keys = true) :
    Keeps tw s0 (State.restart s cause) := by
  unfold State.restart
  try dsimp only
  repeat' first
    | with_reducible assumption
    | with_reducible refine Keeps.ite (fun _ => ?_) (fun _ => ?_)
    | with_reducible apply State.cleared_keeps
    | with_reducible apply State.wr_keeps

theorem State.begin_keeps {tw : Touch} {s0 : State} (s : State) (hK : Keeps tw s0 s) :
    Keeps tw s0 (State.begin s) := by
  unfold State.begin
  try dsimp only
  repeat' first
    | with_reducible assumption
    | with_reducible refine Keeps.ite (fun _ => ?_) (fun _ => ?_)
    | with_reducible apply State.wr_keeps
    | with_reducible refine Keeps.foldl (fun _ _ _ => ?_) ?_
    | with_reducible refine Keeps.foldl_fst (fun _ _ _ => ?_) ?_
    | with_reducible refine Keeps.foldl_snd (fun _ _ _ => ?_) ?_
    | split
    | intro _
    | fail_if_no_progress (with_reducible apply Keeps.upd)

theorem State.softReset_keeps {tw : Touch} {s0 : State} (s : State) (cause : Nat) (hK : Keeps tw s0 s) (hw_hbm : tw.hbm = true) (hw_keys : tw.keys = true) :
    Keeps tw s0 (State.softReset s cause) := by
  unfold State.softReset
  try dsimp only
  repeat' first
    | with_reducible assumption
    | with_reducible refine Keeps.ite (fun _ => ?_) (fun _ => ?_)
    | with_reducible apply State.begin_keeps
    | with_reducible apply State.restart_keeps

theorem State.bootFails_keeps {tw : Touch} {s0 : State} (s : State) (hK : Keeps tw s0 s) (hw_hbm : tw.hbm = true) (hw_keys : tw.keys = true) :
    Keeps tw s0 (State.bootFails s) := by
  unfold State.bootFails
  try dsimp only
  repeat' first
    | with_reducible assumption
    | with_reducible refine Keeps.ite (fun _ => ?_) (fun _ => ?_)
    | with_reducible apply State.softReset_keeps
    | with_reducible apply State.wr_keeps

theorem execResetDevice_keeps {tw : Touch} {s0 : State} (cmd : CmdRef) (s : State) (hK : Keeps tw s0 s) :
    KeepsOut tw s0 (execResetDevice cmd s) := by
  unfold execResetDevice
  try dsimp only
  repeat' first
    | with_reducible assumption
    | with_reducible refine KeepsOut.next ?_
    | with_reducible refine KeepsOut.ite (fun _ => ?_) (fun _ => ?_)
    | with_reducible refine Keeps.ite (fun _ => ?_) (fun _ => ?_)
    | with_reducible apply State.command_keeps
    | with_reducible apply State.orderReset_keeps
    | with_reducible apply State.takeCmd_keeps
    | with_reducible refine Keeps.foldl (fun _ _ _ => ?_) ?_
    | with_reducible refine Keeps.foldl_fst (fun _ _ _ => ?_) ?_
    | with_reducible refine Keeps.foldl_snd (fun _ _ _ => ?_) ?_
    | split
    | intro _

theorem execDeviceReset_keeps {tw : Touch} {s0 : State} (s : State) (hK : Keeps tw s0 s) (hw_hbm : tw.hbm = true) (hw_keys : tw.keys = true) :
    KeepsOut tw s0 (execDeviceReset s) := by
  unfold execDeviceReset
  try dsimp only
  repeat' first
    | with_reducible assumption
    | with_reducible refine KeepsOut.next ?_
    | with_reducible refine KeepsOut.ite (fun _ => ?_) (fun _ => ?_)
    | with_reducible refine Keeps.ite (fun _ => ?_) (fun _ => ?_)
    | with_reducible apply State.softReset_keeps

theorem execWatchdogService_keeps {tw : Touch} {s0 : State} (s : State) (hK : Keeps tw s0 s) :
    KeepsOut tw s0 (execWatchdogService s) := by
  unfold execWatchdogService
  try dsimp only
  repeat' first
    | with_reducible assumption
    | with_reducible refine KeepsOut.next ?_
    | with_reducible refine KeepsOut.ite (fun _ => ?_) (fun _ => ?_)
    | with_reducible refine Keeps.ite (fun _ => ?_) (fun _ => ?_)
    | with_reducible refine Keeps.foldl (fun _ _ _ => ?_) ?_
    | with_reducible refine Keeps.foldl_fst (fun _ _ _ => ?_) ?_
    | with_reducible refine Keeps.foldl_snd (fun _ _ _ => ?_) ?_
    | split
    | intro _
    | fail_if_no_progress (with_reducible apply Keeps.upd)

theorem execWatchdogReset_keeps {tw : Touch} {s0 : State} (s : State) (hK : Keeps tw s0 s) (hw_hbm : tw.hbm = true) (hw_keys : tw.keys = true) :
    KeepsOut tw s0 (execWatchdogReset s) := by
  unfold execWatchdogReset
  try dsimp only
  repeat' first
    | with_reducible assumption
    | with_reducible refine KeepsOut.next ?_
    | with_reducible refine KeepsOut.ite (fun _ => ?_) (fun _ => ?_)
    | with_reducible refine Keeps.ite (fun _ => ?_) (fun _ => ?_)
    | with_reducible apply State.softReset_keeps

theorem State.release_keeps {tw : Touch} {s0 : State} (s : State) (hK : Keeps tw s0 s) :
    Keeps tw s0 (State.release s) := by
  unfold State.release
  try dsimp only
  repeat' first
    | with_reducible assumption
    | with_reducible refine Keeps.ite (fun _ => ?_) (fun _ => ?_)
    | with_reducible apply forN_keeps
    | with_reducible apply State.emit_keeps
    | with_reducible refine Keeps.foldl (fun _ _ _ => ?_) ?_
    | with_reducible refine Keeps.foldl_fst (fun _ _ _ => ?_) ?_
    | with_reducible refine Keeps.foldl_snd (fun _ _ _ => ?_) ?_
    | split
    | intro _
    | fail_if_no_progress (with_reducible apply Keeps.upd)

theorem State.drive_keeps {tw : Touch} {s0 : State} (s : State) (hK : Keeps tw s0 s) :
    Keeps tw s0 (State.drive s) := by
  unfold State.drive
  try dsimp only
  repeat' first
    | with_reducible assumption
    | with_reducible refine Keeps.ite (fun _ => ?_) (fun _ => ?_)
    | with_reducible apply forN_keeps
    | with_reducible apply State.emit_keeps
    | with_reducible apply State.ppsDrive_keeps
    | with_reducible apply State.driveAlert_keeps
    | with_reducible refine Keeps.foldl (fun _ _ _ => ?_) ?_
    | with_reducible refine Keeps.foldl_fst (fun _ _ _ => ?_) ?_
    | with_reducible refine Keeps.foldl_snd (fun _ _ _ => ?_) ?_
    | split
    | intro _
    | fail_if_no_progress (with_reducible apply Keeps.upd)

theorem execResetNFall_keeps {tw : Touch} {s0 : State} (s : State) (hK : Keeps tw s0 s) :
    KeepsOut tw s0 (execResetNFall s) := by
  unfold execResetNFall
  try dsimp only
  repeat' first
    | with_reducible assumption
    | with_reducible refine KeepsOut.next ?_
    | with_reducible refine KeepsOut.ite (fun _ => ?_) (fun _ => ?_)
    | with_reducible refine Keeps.ite (fun _ => ?_) (fun _ => ?_)
    | with_reducible apply State.release_keeps

theorem execPinReset_keeps {tw : Touch} {s0 : State} (s : State) (hK : Keeps tw s0 s) (hw_hbm : tw.hbm = true) (hw_keys : tw.keys = true) :
    KeepsOut tw s0 (execPinReset s) := by
  unfold execPinReset
  try dsimp only
  repeat' first
    | with_reducible assumption
    | with_reducible refine KeepsOut.next ?_
    | with_reducible refine KeepsOut.ite (fun _ => ?_) (fun _ => ?_)
    | with_reducible refine Keeps.ite (fun _ => ?_) (fun _ => ?_)
    | with_reducible apply State.restart_keeps
    | with_reducible apply State.release_keeps

theorem execResetNRise_keeps {tw : Touch} {s0 : State} (bootSel : BitVec 2) (s : State) (hK : Keeps tw s0 s) :
    KeepsOut tw s0 (execResetNRise bootSel s) := by
  unfold execResetNRise
  try dsimp only
  repeat' first
    | with_reducible assumption
    | with_reducible refine KeepsOut.next ?_
    | with_reducible refine KeepsOut.ite (fun _ => ?_) (fun _ => ?_)
    | with_reducible refine Keeps.ite (fun _ => ?_) (fun _ => ?_)
    | with_reducible apply State.log_keeps
    | with_reducible apply State.up_keeps
    | with_reducible apply State.drive_keeps
    | with_reducible apply State.begin_keeps
    | with_reducible apply State.wr_keeps
    | with_reducible refine Keeps.foldl (fun _ _ _ => ?_) ?_
    | with_reducible refine Keeps.foldl_fst (fun _ _ _ => ?_) ?_
    | with_reducible refine Keeps.foldl_snd (fun _ _ _ => ?_) ?_
    | split
    | intro _
    | fail_if_no_progress (with_reducible apply Keeps.upd)

theorem execPowerOnReset_keeps {tw : Touch} {s0 : State} (idGood : Bool) (trimGood : Bool) (s : State) (hK : Keeps tw s0 s) (hw_hbm : tw.hbm = true) (hw_keys : tw.keys = true) :
    KeepsOut tw s0 (execPowerOnReset idGood trimGood s) := by
  unfold execPowerOnReset
  try dsimp only
  repeat' first
    | with_reducible assumption
    | with_reducible refine KeepsOut.next ?_
    | with_reducible refine KeepsOut.ite (fun _ => ?_) (fun _ => ?_)
    | with_reducible refine Keeps.ite (fun _ => ?_) (fun _ => ?_)
    | with_reducible apply State.restart_keeps
    | with_reducible apply State.showFuses_keeps
    | with_reducible refine Keeps.foldl (fun _ _ _ => ?_) ?_
    | with_reducible refine Keeps.foldl_fst (fun _ _ _ => ?_) ?_
    | with_reducible refine Keeps.foldl_snd (fun _ _ _ => ?_) ?_
    | split
    | intro _
    | fail_if_no_progress (with_reducible apply Keeps.upd)

theorem execStandbyOff_keeps {tw : Touch} {s0 : State} (s : State) (hK : Keeps tw s0 s) (hw_hbm : tw.hbm = true) (hw_keys : tw.keys = true) :
    KeepsOut tw s0 (execStandbyOff s) := by
  unfold execStandbyOff
  try dsimp only
  repeat' first
    | with_reducible assumption
    | with_reducible refine KeepsOut.next ?_
    | with_reducible refine KeepsOut.ite (fun _ => ?_) (fun _ => ?_)
    | with_reducible refine Keeps.ite (fun _ => ?_) (fun _ => ?_)
    | with_reducible apply State.restart_keeps
    | with_reducible apply State.release_keeps
    | with_reducible refine Keeps.foldl (fun _ _ _ => ?_) ?_
    | with_reducible refine Keeps.foldl_fst (fun _ _ _ => ?_) ?_
    | with_reducible refine Keeps.foldl_snd (fun _ _ _ => ?_) ?_
    | split
    | intro _
    | fail_if_no_progress (with_reducible apply Keeps.upd)

theorem execMainPowerUp_keeps {tw : Touch} {s0 : State} (s : State) (hK : Keeps tw s0 s) :
    KeepsOut tw s0 (execMainPowerUp s) := by
  unfold execMainPowerUp
  try dsimp only
  repeat' first
    | with_reducible assumption
    | with_reducible refine KeepsOut.next ?_
    | with_reducible refine KeepsOut.ite (fun _ => ?_) (fun _ => ?_)
    | with_reducible refine Keeps.ite (fun _ => ?_) (fun _ => ?_)
    | with_reducible apply State.begin_keeps
    | with_reducible apply State.wr_keeps
    | with_reducible refine Keeps.foldl (fun _ _ _ => ?_) ?_
    | with_reducible refine Keeps.foldl_fst (fun _ _ _ => ?_) ?_
    | with_reducible refine Keeps.foldl_snd (fun _ _ _ => ?_) ?_
    | split
    | intro _
    | fail_if_no_progress (with_reducible apply Keeps.upd)

theorem execMainPowerDown_keeps {tw : Touch} {s0 : State} (s : State) (hK : Keeps tw s0 s) (hw_hbm : tw.hbm = true) (hw_keys : tw.keys = true) :
    KeepsOut tw s0 (execMainPowerDown s) := by
  unfold execMainPowerDown
  try dsimp only
  repeat' first
    | with_reducible assumption
    | with_reducible refine KeepsOut.next ?_
    | with_reducible refine KeepsOut.ite (fun _ => ?_) (fun _ => ?_)
    | with_reducible refine Keeps.ite (fun _ => ?_) (fun _ => ?_)
    | with_reducible apply State.restart_keeps
    | with_reducible apply State.release_keeps
    | with_reducible refine Keeps.foldl (fun _ _ _ => ?_) ?_
    | with_reducible refine Keeps.foldl_fst (fun _ _ _ => ?_) ?_
    | with_reducible refine Keeps.foldl_snd (fun _ _ _ => ?_) ?_
    | split
    | intro _
    | fail_if_no_progress (with_reducible apply Keeps.upd)

theorem execMainDischargeDone_keeps {tw : Touch} {s0 : State} (s : State) (hK : Keeps tw s0 s) :
    KeepsOut tw s0 (execMainDischargeDone s) := by
  unfold execMainDischargeDone
  try dsimp only
  repeat' first
    | with_reducible assumption
    | with_reducible refine KeepsOut.next ?_
    | with_reducible refine KeepsOut.ite (fun _ => ?_) (fun _ => ?_)
    | with_reducible refine Keeps.ite (fun _ => ?_) (fun _ => ?_)
    | with_reducible apply execMainPowerUp_keeps
    | with_reducible refine Keeps.foldl (fun _ _ _ => ?_) ?_
    | with_reducible refine Keeps.foldl_fst (fun _ _ _ => ?_) ?_
    | with_reducible refine Keeps.foldl_snd (fun _ _ _ => ?_) ?_
    | split
    | intro _
    | fail_if_no_progress (with_reducible apply Keeps.upd)

theorem State.restoreHealth_keeps {tw : Touch} {s0 : State} (s : State) (quick : Bool) (hK : Keeps tw s0 s) :
    Keeps tw s0 (State.restoreHealth s quick) := by
  unfold State.restoreHealth
  try dsimp only
  repeat' first
    | with_reducible assumption
    | with_reducible refine Keeps.ite (fun _ => ?_) (fun _ => ?_)
    | with_reducible apply State.showRepairs_keeps
    | with_reducible apply forN_keeps
    | with_reducible apply State.wr_keeps
    | with_reducible apply State.count_keeps
    | with_reducible apply State.up_keeps
    | with_reducible apply State.ridgeStart_keeps
    | with_reducible refine Keeps.foldl (fun _ _ _ => ?_) ?_
    | with_reducible refine Keeps.foldl_fst (fun _ _ _ => ?_) ?_
    | with_reducible refine Keeps.foldl_snd (fun _ _ _ => ?_) ?_
    | split
    | intro _
    | fail_if_no_progress (with_reducible apply Keeps.upd)

theorem State.toPhase_keeps {tw : Touch} {s0 : State} (s : State) (n : Nat) (hK : Keeps tw s0 s) :
    Keeps tw s0 (State.toPhase s n) := by
  unfold State.toPhase
  try dsimp only
  repeat' first
    | with_reducible assumption
    | with_reducible refine Keeps.ite (fun _ => ?_) (fun _ => ?_)
    | with_reducible apply State.wr_keeps

theorem State.enterRecovery_keeps {tw : Touch} {s0 : State} (s : State) (hK : Keeps tw s0 s) :
    Keeps tw s0 (State.enterRecovery s) := by
  unfold State.enterRecovery
  try dsimp only
  repeat' first
    | with_reducible assumption
    | with_reducible refine Keeps.ite (fun _ => ?_) (fun _ => ?_)
    | with_reducible apply State.toPhase_keeps
    | with_reducible apply State.wr_keeps
    | with_reducible apply State.showDirectory_keeps

theorem State.showReady_keeps {tw : Touch} {s0 : State} (s : State) (hK : Keeps tw s0 s) :
    Keeps tw s0 (State.showReady s) := by
  unfold State.showReady
  try dsimp only
  repeat' first
    | with_reducible assumption
    | with_reducible refine Keeps.ite (fun _ => ?_) (fun _ => ?_)
    | with_reducible apply State.wr_keeps
    | with_reducible apply State.up_keeps

theorem execRecoveryReady_keeps {tw : Touch} {s0 : State} (s : State) (hK : Keeps tw s0 s) :
    KeepsOut tw s0 (execRecoveryReady s) := by
  unfold execRecoveryReady
  try dsimp only
  repeat' first
    | with_reducible assumption
    | with_reducible refine KeepsOut.next ?_
    | with_reducible refine KeepsOut.ite (fun _ => ?_) (fun _ => ?_)
    | with_reducible refine Keeps.ite (fun _ => ?_) (fun _ => ?_)
    | with_reducible apply State.wr_keeps
    | with_reducible apply State.setTrained_keeps
    | with_reducible apply State.showReady_keeps

theorem State.beginLogic_keeps {tw : Touch} {s0 : State} (s : State) (occasion : Nat) (clears : Bool) (hK : Keeps tw s0 s) (hw_keys : tw.keys = true) :
    Keeps tw s0 (State.beginLogic s occasion clears) := by
  unfold State.beginLogic
  try dsimp only
  repeat' first
    | with_reducible assumption
    | with_reducible refine State.clearFor_keeps_eq _ _ _ (by assumption) ?_ (by assumption)
    | with_reducible refine Keeps.ite (fun _ => ?_) (fun _ => ?_)
    | with_reducible apply State.clearFor_keeps
    | with_reducible apply State.startTest_keeps

theorem State.beginHbm_keeps {tw : Touch} {s0 : State} (s : State) (hK : Keeps tw s0 s) :
    Keeps tw s0 (State.beginHbm s) := by
  unfold State.beginHbm
  try dsimp only
  repeat' first
    | with_reducible assumption
    | with_reducible refine Keeps.ite (fun _ => ?_) (fun _ => ?_)
    | with_reducible apply State.wr_keeps
    | with_reducible apply State.toPhase_keeps

theorem State.endHbm_keeps {tw : Touch} {s0 : State} (s : State) (quick : Bool) (fails : List HbmRowFail) (hK : Keeps tw s0 s) (hw_hbm : tw.hbm = true) :
    Keeps tw s0 (State.endHbm s quick fails) := by
  unfold State.endHbm
  try dsimp only
  repeat' first
    | with_reducible assumption
    | with_reducible refine Keeps.ite (fun _ => ?_) (fun _ => ?_)
    | with_reducible apply State.setTrained_keeps
    | with_reducible apply State.hbmTest_keeps
    | with_reducible apply State.wr_keeps

theorem State.reachReady_keeps {tw : Touch} {s0 : State} (s : State) (hK : Keeps tw s0 s) (hw_flash : tw.flash = true) :
    Keeps tw s0 (State.reachReady s) := by
  unfold State.reachReady
  try dsimp only
  repeat' first
    | with_reducible assumption
    | with_reducible refine Keeps.ite (fun _ => ?_) (fun _ => ?_)
    | with_reducible apply State.showReady_keeps
    | with_reducible apply State.toPhase_keeps
    | with_reducible apply State.wr_keeps
    | with_reducible apply State.log_keeps
    | with_reducible apply State.up_keeps
    | with_reducible apply State.writeDirectory_keeps
    | with_reducible apply State.enterMode_keeps
    | with_reducible apply State.advance_keeps
    | with_reducible apply State.runBegin_keeps
    | with_reducible refine Keeps.foldl (fun _ _ _ => ?_) ?_
    | with_reducible refine Keeps.foldl_fst (fun _ _ _ => ?_) ?_
    | with_reducible refine Keeps.foldl_snd (fun _ _ _ => ?_) ?_
    | split

theorem execStartupPhaseEnd_keeps {tw : Touch} {s0 : State} (clears : Bool) (memFails : List MemFail) (badSpares : List BadSpare) (results : List CalResult) (rowFails : List HbmRowFail) (readBackBad : Bool) (s : State) (hK : Keeps tw s0 s) (hw_hbm : tw.hbm = true) (hw_flash : tw.flash = true) (hw_keys : tw.keys = true) :
    KeepsOut tw s0 (execStartupPhaseEnd clears memFails badSpares results rowFails readBackBad s) := by
  unfold execStartupPhaseEnd
  try dsimp only
  repeat' first
    | with_reducible assumption
    | with_reducible refine State.clearFor_keeps_eq _ _ _ (by assumption) ?_ (by assumption)
    | with_reducible refine KeepsOut.next ?_
    | with_reducible refine KeepsOut.ite (fun _ => ?_) (fun _ => ?_)
    | with_reducible refine Keeps.ite (fun _ => ?_) (fun _ => ?_)
    | with_reducible apply State.memoryTest_keeps
    | with_reducible apply State.cutTest_keeps
    | with_reducible apply State.bootTest_keeps
    | with_reducible apply State.enterRecovery_keeps
    | with_reducible apply State.toPhase_keeps
    | with_reducible apply State.showDirectory_keeps
    | with_reducible apply State.wr_keeps
    | with_reducible apply State.bootFails_keeps
    | with_reducible apply State.restoreHealth_keeps
    | with_reducible apply State.beginHbm_keeps
    | with_reducible apply State.beginLogic_keeps
    | with_reducible apply State.clearFor_keeps
    | with_reducible apply forAll_keeps
    | with_reducible apply State.calibrate_keeps
    | with_reducible apply State.up_keeps
    | with_reducible apply State.endHbm_keeps
    | with_reducible apply State.loadRejected_keeps
    | with_reducible apply State.applyImage_keeps
    | with_reducible apply State.reachReady_keeps
    | with_reducible refine Keeps.foldl (fun _ _ _ => ?_) ?_
    | with_reducible refine Keeps.foldl_fst (fun _ _ _ => ?_) ?_
    | with_reducible refine Keeps.foldl_snd (fun _ _ _ => ?_) ?_
    | split
    | intro _
    | fail_if_no_progress (with_reducible apply Keeps.upd)

theorem execBootTimeout_keeps {tw : Touch} {s0 : State} (s : State) (hK : Keeps tw s0 s) (hw_hbm : tw.hbm = true) (hw_keys : tw.keys = true) :
    KeepsOut tw s0 (execBootTimeout s) := by
  unfold execBootTimeout
  try dsimp only
  repeat' first
    | with_reducible assumption
    | with_reducible refine KeepsOut.next ?_
    | with_reducible refine KeepsOut.ite (fun _ => ?_) (fun _ => ?_)
    | with_reducible refine Keeps.ite (fun _ => ?_) (fun _ => ?_)
    | with_reducible apply State.bootFails_keeps

theorem State.healthBytes_keeps {tw : Touch} {s0 : State} (s : State) (count : Nat) (hK : Keeps tw s0 s) :
    Keeps tw s0 (State.healthBytes s count).2 := by
  unfold State.healthBytes
  try dsimp only
  repeat' first
    | with_reducible assumption
    | with_reducible refine State.free_keeps_eq _ (by assumption) ?_
    | with_reducible refine Keeps.ite (fun _ => ?_) (fun _ => ?_)
    | with_reducible apply State.free_keeps
    | with_reducible refine Keeps.foldl (fun _ _ _ => ?_) ?_
    | with_reducible refine Keeps.foldl_fst (fun _ _ _ => ?_) ?_
    | with_reducible refine Keeps.foldl_snd (fun _ _ _ => ?_) ?_

theorem State.healthBytes_keeps_eq {tw : Touch} {s0 : State} {tt : State} {res1 : Bytes} (s : State) (count : Nat) (he : State.healthBytes s count = (res1, tt)) (hK : Keeps tw s0 s) :
    Keeps tw s0 tt := by
  have := State.healthBytes_keeps s count hK 
  rw [he] at this
  exact this

theorem State.parkErase_keeps {tw : Touch} {s0 : State} (s : State) (flashError : Bool) (hK : Keeps tw s0 s) (hw_flash : tw.flash = true) :
    Keeps tw s0 (State.parkErase s flashError) := by
  unfold State.parkErase
  try dsimp only
  repeat' first
    | with_reducible assumption
    | with_reducible refine Keeps.ite (fun _ => ?_) (fun _ => ?_)
    | with_reducible apply State.parkStep_keeps
    | with_reducible apply State.up_keeps
    | with_reducible apply State.eraseFlash_keeps
    | with_reducible refine Keeps.foldl (fun _ _ _ => ?_) ?_
    | with_reducible refine Keeps.foldl_fst (fun _ _ _ => ?_) ?_
    | with_reducible refine Keeps.foldl_snd (fun _ _ _ => ?_) ?_
    | split
    | intro _
    | fail_if_no_progress (with_reducible apply Keeps.upd)

theorem State.parkSquelch_keeps {tw : Touch} {s0 : State} (s : State) (clears : Bool) (hK : Keeps tw s0 s) (hw_hbm : tw.hbm = true) (hw_keys : tw.keys = true) :
    Keeps tw s0 (State.parkSquelch s clears) := by
  unfold State.parkSquelch
  try dsimp only
  repeat' first
    | with_reducible assumption
    | with_reducible refine Keeps.ite (fun _ => ?_) (fun _ => ?_)
    | with_reducible apply forN_keeps
    | with_reducible apply State.laneOff_keeps
    | with_reducible apply State.reamEndAll_keeps
    | with_reducible apply State.emit_keeps
    | with_reducible apply State.beginLogic_keeps
    | with_reducible apply State.parkStep_keeps
    | with_reducible refine Keeps.foldl (fun _ _ _ => ?_) ?_
    | with_reducible refine Keeps.foldl_fst (fun _ _ _ => ?_) ?_
    | with_reducible refine Keeps.foldl_snd (fun _ _ _ => ?_) ?_
    | split
    | intro _

theorem State.parkTested_keeps {tw : Touch} {s0 : State} (s : State) (fails : List MemFail) (bad : List BadSpare) (hK : Keeps tw s0 s) :
    Keeps tw s0 (State.parkTested s fails bad) := by
  unfold State.parkTested
  try dsimp only
  repeat' first
    | with_reducible assumption
    | with_reducible refine Keeps.ite (fun _ => ?_) (fun _ => ?_)
    | with_reducible apply State.cutTest_keeps
    | with_reducible apply State.memoryTest_keeps
    | with_reducible apply State.parkStep_keeps
    | with_reducible apply State.wr_keeps

theorem State.parkHealth_keeps {tw : Touch} {s0 : State} (s : State) (flashError : Bool) (hK : Keeps tw s0 s) (hw_flash : tw.flash = true) :
    Keeps tw s0 (State.parkHealth s flashError) := by
  unfold State.parkHealth
  try dsimp only
  repeat' first
    | with_reducible assumption
    | with_reducible refine State.healthBytes_keeps_eq _ _ (by assumption) ?_
    | with_reducible refine Keeps.ite (fun _ => ?_) (fun _ => ?_)
    | with_reducible apply State.eraseFlash_keeps
    | with_reducible apply State.parkStep_keeps
    | with_reducible apply State.up_keeps
    | with_reducible apply State.healthBytes_keeps
    | with_reducible apply State.setFlashBytes_keeps

theorem State.parkToken_keeps {tw : Touch} {s0 : State} (s : State) (flashError : Bool) (hK : Keeps tw s0 s) (hw_flash : tw.flash = true) :
    Keeps tw s0 (State.parkToken s flashError) := by
  unfold State.parkToken
  try dsimp only
  repeat' first
    | with_reducible assumption
    | with_reducible refine Keeps.ite (fun _ => ?_) (fun _ => ?_)
    | with_reducible apply State.parkStep_keeps
    | with_reducible apply State.up_keeps
    | with_reducible apply State.setFlashBytes_keeps
    | with_reducible apply State.wr_keeps

theorem State.powerDownHbm_keeps {tw : Touch} {s0 : State} (s : State) (hK : Keeps tw s0 s) (hw_hbm : tw.hbm = true) :
    Keeps tw s0 (State.powerDownHbm s) := by
  refine Keeps.trans (t := { s with hbm := [] }) ?_ (Keeps.upd (Keeps.refl _))
  exact Keeps.updHbm hK hw_hbm rfl rfl rfl rfl rfl rfl rfl (fun _ => rfl)

theorem State.parkEnd_keeps {tw : Touch} {s0 : State} (s : State) (t : Trans) (hK : Keeps tw s0 s) (hw_hbm : tw.hbm = true) :
    Keeps tw s0 (State.parkEnd s t) := by
  unfold State.parkEnd
  try dsimp only
  repeat' first
    | with_reducible assumption
    | with_reducible refine Keeps.ite (fun _ => ?_) (fun _ => ?_)
    | with_reducible apply State.powerDownHbm_keeps
    | with_reducible apply State.wr_keeps
    | with_reducible apply forAll_keeps
    | with_reducible apply State.gate_keeps
    | with_reducible apply State.enterMode_keeps
    | with_reducible apply State.finish_keeps
    | with_reducible apply State.freeLock_keeps
    | with_reducible apply State.parkStep_keeps
    | with_reducible refine Keeps.foldl (fun _ _ _ => ?_) ?_
    | with_reducible refine Keeps.foldl_fst (fun _ _ _ => ?_) ?_
    | with_reducible refine Keeps.foldl_snd (fun _ _ _ => ?_) ?_
    | split
    | intro _
    | fail_if_no_progress (with_reducible apply Keeps.upd)

theorem execParkStepDone_keeps {tw : Touch} {s0 : State} (flashError : Bool) (clears : Bool) (fails : List MemFail) (badSpares : List BadSpare) (s : State) (hK : Keeps tw s0 s) (hw_hbm : tw.hbm = true) (hw_flash : tw.flash = true) (hw_keys : tw.keys = true) :
    KeepsOut tw s0 (execParkStepDone flashError clears fails badSpares s) := by
  unfold execParkStepDone
  try dsimp only
  repeat' first
    | with_reducible assumption
    | with_reducible refine KeepsOut.next ?_
    | with_reducible refine KeepsOut.ite (fun _ => ?_) (fun _ => ?_)
    | with_reducible refine Keeps.ite (fun _ => ?_) (fun _ => ?_)
    | with_reducible apply State.parkErase_keeps
    | with_reducible apply State.parkSquelch_keeps
    | with_reducible apply State.parkTested_keeps
    | with_reducible apply State.parkHealth_keeps
    | with_reducible apply State.parkToken_keeps
    | with_reducible apply State.takeWaiting_keeps
    | with_reducible apply State.parkEnd_keeps
    | with_reducible refine Keeps.foldl (fun _ _ _ => ?_) ?_
    | with_reducible refine Keeps.foldl_fst (fun _ _ _ => ?_) ?_
    | with_reducible refine Keeps.foldl_snd (fun _ _ _ => ?_) ?_
    | split

theorem execHostReset_keeps {tw : Touch} {s0 : State} (flr : Bool) (linkDown : Bool) (s : State) (hK : Keeps tw s0 s) :
    KeepsOut tw s0 (execHostReset flr linkDown s) := by
  unfold execHostReset
  try dsimp only
  repeat' first
    | with_reducible assumption
    | with_reducible refine KeepsOut.next ?_
    | with_reducible refine KeepsOut.ite (fun _ => ?_) (fun _ => ?_)
    | with_reducible refine Keeps.ite (fun _ => ?_) (fun _ => ?_)
    | with_reducible apply State.reamHostReset_keeps
    | with_reducible apply State.dmaHostReset_keeps
    | with_reducible apply State.clearRings_keeps
    | with_reducible apply State.resetMsix_keeps
    | with_reducible apply State.freeDomain_keeps
    | with_reducible apply State.down_keeps
    | with_reducible apply State.wr_keeps
    | with_reducible apply State.count_keeps
    | with_reducible apply State.updState_keeps
    | with_reducible apply State.freeLock_keeps
    | with_reducible refine Keeps.foldl (fun _ _ _ => ?_) ?_
    | with_reducible refine Keeps.foldl_fst (fun _ _ _ => ?_) ?_
    | with_reducible refine Keeps.foldl_snd (fun _ _ _ => ?_) ?_
    | split
    | intro _
    | fail_if_no_progress (with_reducible apply Keeps.upd)

theorem execCmdComplete_keeps {tw : Touch} {s0 : State} (cmd : CmdRef) (s : State) (hK : Keeps tw s0 s) :
    KeepsOut tw s0 (execCmdComplete cmd s) := by
  unfold execCmdComplete
  try dsimp only
  repeat' first
    | with_reducible assumption
    | with_reducible refine KeepsOut.next ?_
    | with_reducible refine KeepsOut.ite (fun _ => ?_) (fun _ => ?_)
    | with_reducible refine Keeps.ite (fun _ => ?_) (fun _ => ?_)
    | with_reducible apply State.speedDone_keeps
    | with_reducible apply State.retrainDone_keeps
    | with_reducible apply State.complete_keeps
    | with_reducible refine Keeps.foldl (fun _ _ _ => ?_) ?_
    | with_reducible refine Keeps.foldl_fst (fun _ _ _ => ?_) ?_
    | with_reducible refine Keeps.foldl_snd (fun _ _ _ => ?_) ?_
    | split

end Sys2Proof.Machine
end

