-- ==== Sys2Proof/Laws/Memory.lean ====
section
/-! SUPPORT. What the operations over HBM and the flash do: a string written is read back, every other byte is as before;
reads where no unit has an error. -/

namespace Sys2Proof.Machine

/-! ### HBM -/

theorem State.length_bytes (s : State) (a n : Nat) : (s.bytes a n).length = n := by
  induction n generalizing a with
  | zero => rfl
  | succ n ih => simp [State.bytes, ih]

theorem State.bytes_congr {s t : State} {a n : Nat} (h : ∀ c, a ≤ c → c < a + n → s.byte c = t.byte c) :
    s.bytes a n = t.bytes a n := by
  induction n generalizing a with
  | zero => rfl
  | succ n ih =>
    simp only [State.bytes]
    rw [h a (Nat.le_refl a) (by omega), ih (fun c h1 h2 => h c (by omega) (by omega))]

theorem State.byte_setBytes_out (s : State) (a : Nat) (b : Bytes) {c : Nat} (h : c < a ∨ a + b.length ≤ c) :
    (s.setBytes a b).byte c = s.byte c := by
  induction b generalizing s a with
  | nil => rfl
  | cons x t ih =>
    simp only [List.length_cons] at h
    rw [State.setBytes, ih _ _ (by omega), State.byte_setByte_ne _ _ (by omega)]

/-- A write leaves every string apart from it. -/
theorem State.bytes_setBytes_out (s : State) (a : Nat) (b : Bytes) {c n : Nat} (h : c + n ≤ a ∨ a + b.length ≤ c) :
    (s.setBytes a b).bytes c n = s.bytes c n :=
  State.bytes_congr (fun _ _ _ => State.byte_setBytes_out s a b (by omega))

/-- A write is read back, whole or its first bytes. -/
theorem State.bytes_setBytes_take (s : State) (a : Nat) (b : Bytes) {n : Nat} (h : n ≤ b.length) :
    (s.setBytes a b).bytes a n = b.take n := by
  induction b generalizing s a n with
  | nil =>
    obtain rfl : n = 0 := by simpa using h
    rfl
  | cons x t ih =>
    cases n with
    | zero => rfl
    | succ n =>
      simp only [List.length_cons] at h
      rw [State.setBytes, State.bytes, ih _ _ (by omega), State.byte_setBytes_out _ _ _ (by omega),
        State.byte_setByte_self, List.take_succ_cons]

theorem State.bytes_setBytes (s : State) (a : Nat) (b : Bytes) {n : Nat} (h : b.length = n) :
    (s.setBytes a b).bytes a n = b := by
  rw [State.bytes_setBytes_take s a b (by omega), ← h, List.take_length]

/-- A write of HBM changes nothing but HBM. -/
theorem State.setBytes_eq (s : State) (a : Nat) (b : Bytes) : s.setBytes a b = { s with hbm := (s.setBytes a b).hbm } := by
  induction b generalizing s a with
  | nil => rfl
  | cons x t ih => rw [State.setBytes, ih]; rfl

/-! ### The flash -/

theorem State.flashBytes_congr {s t : State} {a n : Nat} (h : ∀ c, a ≤ c → c < a + n → s.flashByte c = t.flashByte c) :
    s.flashBytes a n = t.flashBytes a n := by
  induction n generalizing a with
  | zero => rfl
  | succ n ih =>
    simp only [State.flashBytes]
    rw [h a (Nat.le_refl a) (by omega), ih (fun c h1 h2 => h c (by omega) (by omega))]

theorem State.flashByte_setFlashBytes_out (s : State) (a : Nat) (b : Bytes) {c : Nat} (h : c < a ∨ a + b.length ≤ c) :
    (s.setFlashBytes a b).flashByte c = s.flashByte c := by
  induction b generalizing s a with
  | nil => rfl
  | cons x t ih =>
    simp only [List.length_cons] at h
    rw [State.setFlashBytes, ih _ _ (by omega), State.flashByte_setFlashByte_ne _ _ (by omega)]

/-- A write of the flash leaves every string apart from it. -/
theorem State.flashBytes_setFlashBytes_out (s : State) (a : Nat) (b : Bytes) {c n : Nat}
    (h : c + n ≤ a ∨ a + b.length ≤ c) : (s.setFlashBytes a b).flashBytes c n = s.flashBytes c n :=
  State.flashBytes_congr (fun _ _ _ => State.flashByte_setFlashBytes_out s a b (by omega))

/-- A write of the flash is read back. -/
theorem State.flashBytes_setFlashBytes (s : State) (a : Nat) (b : Bytes) {n : Nat} (h : b.length = n) :
    (s.setFlashBytes a b).flashBytes a n = b := by
  induction b generalizing s a n with
  | nil =>
    obtain rfl : n = 0 := by simpa using h.symm
    rfl
  | cons x t ih =>
    cases n with
    | zero => simp at h
    | succ n =>
      simp only [List.length_cons, Nat.add_right_cancel_iff] at h
      rw [State.setFlashBytes, State.flashBytes, ih _ _ h, State.flashByte_setFlashBytes_out _ _ _ (by omega),
        State.flashByte_setFlashByte_self]

/-- A write of the flash changes nothing but the flash. -/
theorem State.setFlashBytes_eq (s : State) (a : Nat) (b : Bytes) :
    s.setFlashBytes a b = { s with flash := (s.setFlashBytes a b).flash } := by
  induction b generalizing s a with
  | nil => rfl
  | cons x t ih => rw [State.setFlashBytes, ih]; rfl

/-! ### Reads where no unit has an error (R439) -/

theorem Sparse.get_unlisted {α : Type} (d : Nat → α) (m : Sparse α) {k : Nat} (h : m.all (fun e => e.1 != k) = true) :
    Sparse.get d m k = d k := by
  induction m with
  | nil => rfl
  | cons e t ih =>
    simp only [List.all_cons, Bool.and_eq_true, bne_iff_ne, ne_eq] at h
    rw [Sparse.get, if_neg h.1, ih h.2]

/-- A register that is not listed reads as after reset. -/
theorem State.reg_unlisted (s : State) {a : Nat} (h : s.regs.all (fun e => e.1 != a) = true) : s.reg a = State.reset.reg a :=
  Sparse.get_unlisted _ _ h

theorem hbmPc_lt (a : Nat) : hbmPc a < 64 :=
  Nat.xor_lt_two_pow (n := 6) (bits_lt a 8 6) (bits_lt a 20 6)

theorem State.unitBad_of_noneBad {s : State} (h : s.noneBad = true) (u : Nat) : s.unitBad u = false := by
  simp only [State.noneBad, Bool.and_eq_true, List.all_eq_true, List.isEmpty_iff, List.mem_range, bne_iff_ne] at h
  simp only [State.unitBad, h.1, List.contains_nil, Bool.false_or, beq_eq_false_iff_ne]
  exact h.2 _ (hbmPc_lt u)

theorem State.readMem_of_noneBad {s : State} (h : s.noneBad = true) (a n : Nat) : s.readMem a n = some (s.bytes a n) := by
  simp [State.readMem, h]

theorem State.readForCommand_of_noneBad {s : State} (h : s.noneBad = true) {a n : Nat} (ha : a + n ≤ Config.hbmBytes) :
    s.readForCommand a n = .ok (s.bytes a n) := by
  rw [State.readForCommand, if_neg (by omega), State.readMem_of_noneBad h]

theorem State.firstBad_of_noneBad {s : State} (h : s.noneBad = true) (a n : Nat) : s.firstBad a n = none := by
  simp only [State.firstBad, Option.map_eq_none_iff, List.find?_eq_none]
  intro u _
  simp [State.unitBad_of_noneBad h u]

/-- No unit is bad where the error list is empty and no pseudo-channel's register is listed but by a state other than
DOWN. -/
theorem State.noneBad_of {s : State} (hb : s.mem.bad = [])
    (hr : s.regs.all (fun e => e.1 < F.hbmPcStat_state.addr 0 || F.hbmPcStat_state.addr 64 ≤ e.1) = true)
    (h0 : State.reset.noneBad = true) : s.noneBad = true := by
  simp only [State.noneBad, Bool.and_eq_true, List.all_eq_true, List.mem_range, bne_iff_ne] at h0 ⊢
  refine ⟨by simp [hb], fun p hp => ?_⟩
  have ha : F.hbmPcStat_state.addr p = 0x1101000 + 16 * p := by
    simp [Fld.addr, F.hbmPcStat_state]; omega
  have h := h0.2 p hp
  simp only [State.pcState, State.rd] at h ⊢
  rw [State.reg_unlisted s]
  · exact h
  · simp only [List.all_eq_true, Bool.or_eq_true, decide_eq_true_eq, bne_iff_ne] at hr ⊢
    intro e he
    have := hr e he
    simp only [show F.hbmPcStat_state.addr 0 = 0x1101000 from rfl, show F.hbmPcStat_state.addr 64 = 0x1101400 from rfl] at this
    omega

end Sys2Proof.Machine
end

