-- ==== Sys2Proof/Laws/State.lean ====
section
/-! SUPPORT. One lemma per field of State and per core update: what the update leaves alone, true by unfolding it; and
the register file read through updates of other fields. -/

namespace Sys2Proof.Machine

variable (s : State) (f : Fld) (i v : Nat)

/-! ### `setReg` -/

@[simp] theorem State.setReg_pending (a : Nat) (w : Word) : (s.setReg a w).pending = s.pending := rfl
@[simp] theorem State.setReg_latches (a : Nat) (w : Word) : (s.setReg a w).latches = s.latches := rfl
@[simp] theorem State.setReg_locks (a : Nat) (w : Word) : (s.setReg a w).locks = s.locks := rfl
@[simp] theorem State.setReg_hbm (a : Nat) (w : Word) : (s.setReg a w).hbm = s.hbm := rfl
@[simp] theorem State.setReg_flash (a : Nat) (w : Word) : (s.setReg a w).flash = s.flash := rfl
@[simp] theorem State.setReg_clock (a : Nat) (w : Word) : (s.setReg a w).clock = s.clock := rfl
@[simp] theorem State.setReg_fresh (a : Nat) (w : Word) : (s.setReg a w).fresh = s.fresh := rfl
@[simp] theorem State.setReg_out (a : Nat) (w : Word) : (s.setReg a w).out = s.out := rfl
@[simp] theorem State.setReg_logQueue (a : Nat) (w : Word) : (s.setReg a w).logQueue = s.logQueue := rfl
@[simp] theorem State.setReg_chief (a : Nat) (w : Word) : (s.setReg a w).chief = s.chief := rfl
@[simp] theorem State.setReg_cfg (a : Nat) (w : Word) : (s.setReg a w).cfg = s.cfg := rfl
@[simp] theorem State.setReg_links (a : Nat) (w : Word) : (s.setReg a w).links = s.links := rfl
@[simp] theorem State.setReg_axes (a : Nat) (w : Word) : (s.setReg a w).axes = s.axes := rfl
@[simp] theorem State.setReg_reel (a : Nat) (w : Word) : (s.setReg a w).reel = s.reel := rfl
@[simp] theorem State.setReg_time (a : Nat) (w : Word) : (s.setReg a w).time = s.time := rfl
@[simp] theorem State.setReg_headbox (a : Nat) (w : Word) : (s.setReg a w).headbox = s.headbox := rfl
@[simp] theorem State.setReg_calender (a : Nat) (w : Word) : (s.setReg a w).calender = s.calender := rfl
@[simp] theorem State.setReg_coefActive (a : Nat) (w : Word) : (s.setReg a w).coefActive = s.coefActive := rfl
@[simp] theorem State.setReg_ridges (a : Nat) (w : Word) : (s.setReg a w).ridges = s.ridges := rfl
@[simp] theorem State.setReg_stats (a : Nat) (w : Word) : (s.setReg a w).stats = s.stats := rfl
@[simp] theorem State.setReg_couch (a : Nat) (w : Word) : (s.setReg a w).couch = s.couch := rfl
@[simp] theorem State.setReg_forestActive (a : Nat) (w : Word) : (s.setReg a w).forestActive = s.forestActive := rfl
@[simp] theorem State.setReg_keys (a : Nat) (w : Word) : (s.setReg a w).keys = s.keys := rfl
@[simp] theorem State.setReg_layoutKeys (a : Nat) (w : Word) : (s.setReg a w).layoutKeys = s.layoutKeys := rfl
@[simp] theorem State.setReg_layout (a : Nat) (w : Word) : (s.setReg a w).layout = s.layout := rfl
@[simp] theorem State.setReg_kernels (a : Nat) (w : Word) : (s.setReg a w).kernels = s.kernels := rfl
@[simp] theorem State.setReg_mould (a : Nat) (w : Word) : (s.setReg a w).mould = s.mould := rfl
@[simp] theorem State.setReg_doseActive (a : Nat) (w : Word) : (s.setReg a w).doseActive = s.doseActive := rfl
@[simp] theorem State.setReg_wm (a : Nat) (w : Word) : (s.setReg a w).wm = s.wm := rfl
@[simp] theorem State.setReg_laid (a : Nat) (w : Word) : (s.setReg a w).laid = s.laid := rfl
@[simp] theorem State.setReg_laidChs (a : Nat) (w : Word) : (s.setReg a w).laidChs = s.laidChs := rfl
@[simp] theorem State.setReg_vat (a : Nat) (w : Word) : (s.setReg a w).vat = s.vat := rfl
@[simp] theorem State.setReg_botActive (a : Nat) (w : Word) : (s.setReg a w).botActive = s.botActive := rfl
@[simp] theorem State.setReg_scree (a : Nat) (w : Word) : (s.setReg a w).scree = s.scree := rfl
@[simp] theorem State.setReg_screeChs (a : Nat) (w : Word) : (s.setReg a w).screeChs = s.screeChs := rfl
@[simp] theorem State.setReg_engines (a : Nat) (w : Word) : (s.setReg a w).engines = s.engines := rfl
@[simp] theorem State.setReg_mem (a : Nat) (w : Word) : (s.setReg a w).mem = s.mem := rfl
@[simp] theorem State.setReg_host (a : Nat) (w : Word) : (s.setReg a w).host = s.host := rfl
@[simp] theorem State.setReg_test (a : Nat) (w : Word) : (s.setReg a w).test = s.test := rfl
@[simp] theorem State.setReg_fuses (a : Nat) (w : Word) : (s.setReg a w).fuses = s.fuses := rfl
@[simp] theorem State.setReg_update (a : Nat) (w : Word) : (s.setReg a w).update = s.update := rfl

/-! ### `clearReg` -/

@[simp] theorem State.clearReg_pending (a : Nat) : (s.clearReg a).pending = s.pending := rfl
@[simp] theorem State.clearReg_latches (a : Nat) : (s.clearReg a).latches = s.latches := rfl
@[simp] theorem State.clearReg_locks (a : Nat) : (s.clearReg a).locks = s.locks := rfl
@[simp] theorem State.clearReg_hbm (a : Nat) : (s.clearReg a).hbm = s.hbm := rfl
@[simp] theorem State.clearReg_flash (a : Nat) : (s.clearReg a).flash = s.flash := rfl
@[simp] theorem State.clearReg_clock (a : Nat) : (s.clearReg a).clock = s.clock := rfl
@[simp] theorem State.clearReg_fresh (a : Nat) : (s.clearReg a).fresh = s.fresh := rfl
@[simp] theorem State.clearReg_out (a : Nat) : (s.clearReg a).out = s.out := rfl
@[simp] theorem State.clearReg_logQueue (a : Nat) : (s.clearReg a).logQueue = s.logQueue := rfl
@[simp] theorem State.clearReg_chief (a : Nat) : (s.clearReg a).chief = s.chief := rfl
@[simp] theorem State.clearReg_cfg (a : Nat) : (s.clearReg a).cfg = s.cfg := rfl
@[simp] theorem State.clearReg_links (a : Nat) : (s.clearReg a).links = s.links := rfl
@[simp] theorem State.clearReg_axes (a : Nat) : (s.clearReg a).axes = s.axes := rfl
@[simp] theorem State.clearReg_reel (a : Nat) : (s.clearReg a).reel = s.reel := rfl
@[simp] theorem State.clearReg_time (a : Nat) : (s.clearReg a).time = s.time := rfl
@[simp] theorem State.clearReg_headbox (a : Nat) : (s.clearReg a).headbox = s.headbox := rfl
@[simp] theorem State.clearReg_calender (a : Nat) : (s.clearReg a).calender = s.calender := rfl
@[simp] theorem State.clearReg_coefActive (a : Nat) : (s.clearReg a).coefActive = s.coefActive := rfl
@[simp] theorem State.clearReg_ridges (a : Nat) : (s.clearReg a).ridges = s.ridges := rfl
@[simp] theorem State.clearReg_stats (a : Nat) : (s.clearReg a).stats = s.stats := rfl
@[simp] theorem State.clearReg_couch (a : Nat) : (s.clearReg a).couch = s.couch := rfl
@[simp] theorem State.clearReg_forestActive (a : Nat) : (s.clearReg a).forestActive = s.forestActive := rfl
@[simp] theorem State.clearReg_keys (a : Nat) : (s.clearReg a).keys = s.keys := rfl
@[simp] theorem State.clearReg_layoutKeys (a : Nat) : (s.clearReg a).layoutKeys = s.layoutKeys := rfl
@[simp] theorem State.clearReg_layout (a : Nat) : (s.clearReg a).layout = s.layout := rfl
@[simp] theorem State.clearReg_kernels (a : Nat) : (s.clearReg a).kernels = s.kernels := rfl
@[simp] theorem State.clearReg_mould (a : Nat) : (s.clearReg a).mould = s.mould := rfl
@[simp] theorem State.clearReg_doseActive (a : Nat) : (s.clearReg a).doseActive = s.doseActive := rfl
@[simp] theorem State.clearReg_wm (a : Nat) : (s.clearReg a).wm = s.wm := rfl
@[simp] theorem State.clearReg_laid (a : Nat) : (s.clearReg a).laid = s.laid := rfl
@[simp] theorem State.clearReg_laidChs (a : Nat) : (s.clearReg a).laidChs = s.laidChs := rfl
@[simp] theorem State.clearReg_vat (a : Nat) : (s.clearReg a).vat = s.vat := rfl
@[simp] theorem State.clearReg_botActive (a : Nat) : (s.clearReg a).botActive = s.botActive := rfl
@[simp] theorem State.clearReg_scree (a : Nat) : (s.clearReg a).scree = s.scree := rfl
@[simp] theorem State.clearReg_screeChs (a : Nat) : (s.clearReg a).screeChs = s.screeChs := rfl
@[simp] theorem State.clearReg_engines (a : Nat) : (s.clearReg a).engines = s.engines := rfl
@[simp] theorem State.clearReg_mem (a : Nat) : (s.clearReg a).mem = s.mem := rfl
@[simp] theorem State.clearReg_host (a : Nat) : (s.clearReg a).host = s.host := rfl
@[simp] theorem State.clearReg_test (a : Nat) : (s.clearReg a).test = s.test := rfl
@[simp] theorem State.clearReg_fuses (a : Nat) : (s.clearReg a).fuses = s.fuses := rfl
@[simp] theorem State.clearReg_update (a : Nat) : (s.clearReg a).update = s.update := rfl

/-! ### `resetSpan` -/

@[simp] theorem State.resetSpan_pending (lo hi : Nat) : (s.resetSpan lo hi).pending = s.pending := rfl
@[simp] theorem State.resetSpan_latches (lo hi : Nat) : (s.resetSpan lo hi).latches = s.latches := rfl
@[simp] theorem State.resetSpan_locks (lo hi : Nat) : (s.resetSpan lo hi).locks = s.locks := rfl
@[simp] theorem State.resetSpan_hbm (lo hi : Nat) : (s.resetSpan lo hi).hbm = s.hbm := rfl
@[simp] theorem State.resetSpan_flash (lo hi : Nat) : (s.resetSpan lo hi).flash = s.flash := rfl
@[simp] theorem State.resetSpan_clock (lo hi : Nat) : (s.resetSpan lo hi).clock = s.clock := rfl
@[simp] theorem State.resetSpan_fresh (lo hi : Nat) : (s.resetSpan lo hi).fresh = s.fresh := rfl
@[simp] theorem State.resetSpan_out (lo hi : Nat) : (s.resetSpan lo hi).out = s.out := rfl
@[simp] theorem State.resetSpan_logQueue (lo hi : Nat) : (s.resetSpan lo hi).logQueue = s.logQueue := rfl
@[simp] theorem State.resetSpan_chief (lo hi : Nat) : (s.resetSpan lo hi).chief = s.chief := rfl
@[simp] theorem State.resetSpan_cfg (lo hi : Nat) : (s.resetSpan lo hi).cfg = s.cfg := rfl
@[simp] theorem State.resetSpan_links (lo hi : Nat) : (s.resetSpan lo hi).links = s.links := rfl
@[simp] theorem State.resetSpan_axes (lo hi : Nat) : (s.resetSpan lo hi).axes = s.axes := rfl
@[simp] theorem State.resetSpan_reel (lo hi : Nat) : (s.resetSpan lo hi).reel = s.reel := rfl
@[simp] theorem State.resetSpan_time (lo hi : Nat) : (s.resetSpan lo hi).time = s.time := rfl
@[simp] theorem State.resetSpan_headbox (lo hi : Nat) : (s.resetSpan lo hi).headbox = s.headbox := rfl
@[simp] theorem State.resetSpan_calender (lo hi : Nat) : (s.resetSpan lo hi).calender = s.calender := rfl
@[simp] theorem State.resetSpan_coefActive (lo hi : Nat) : (s.resetSpan lo hi).coefActive = s.coefActive := rfl
@[simp] theorem State.resetSpan_ridges (lo hi : Nat) : (s.resetSpan lo hi).ridges = s.ridges := rfl
@[simp] theorem State.resetSpan_stats (lo hi : Nat) : (s.resetSpan lo hi).stats = s.stats := rfl
@[simp] theorem State.resetSpan_couch (lo hi : Nat) : (s.resetSpan lo hi).couch = s.couch := rfl
@[simp] theorem State.resetSpan_forestActive (lo hi : Nat) : (s.resetSpan lo hi).forestActive = s.forestActive := rfl
@[simp] theorem State.resetSpan_keys (lo hi : Nat) : (s.resetSpan lo hi).keys = s.keys := rfl
@[simp] theorem State.resetSpan_layoutKeys (lo hi : Nat) : (s.resetSpan lo hi).layoutKeys = s.layoutKeys := rfl
@[simp] theorem State.resetSpan_layout (lo hi : Nat) : (s.resetSpan lo hi).layout = s.layout := rfl
@[simp] theorem State.resetSpan_kernels (lo hi : Nat) : (s.resetSpan lo hi).kernels = s.kernels := rfl
@[simp] theorem State.resetSpan_mould (lo hi : Nat) : (s.resetSpan lo hi).mould = s.mould := rfl
@[simp] theorem State.resetSpan_doseActive (lo hi : Nat) : (s.resetSpan lo hi).doseActive = s.doseActive := rfl
@[simp] theorem State.resetSpan_wm (lo hi : Nat) : (s.resetSpan lo hi).wm = s.wm := rfl
@[simp] theorem State.resetSpan_laid (lo hi : Nat) : (s.resetSpan lo hi).laid = s.laid := rfl
@[simp] theorem State.resetSpan_laidChs (lo hi : Nat) : (s.resetSpan lo hi).laidChs = s.laidChs := rfl
@[simp] theorem State.resetSpan_vat (lo hi : Nat) : (s.resetSpan lo hi).vat = s.vat := rfl
@[simp] theorem State.resetSpan_botActive (lo hi : Nat) : (s.resetSpan lo hi).botActive = s.botActive := rfl
@[simp] theorem State.resetSpan_scree (lo hi : Nat) : (s.resetSpan lo hi).scree = s.scree := rfl
@[simp] theorem State.resetSpan_screeChs (lo hi : Nat) : (s.resetSpan lo hi).screeChs = s.screeChs := rfl
@[simp] theorem State.resetSpan_engines (lo hi : Nat) : (s.resetSpan lo hi).engines = s.engines := rfl
@[simp] theorem State.resetSpan_mem (lo hi : Nat) : (s.resetSpan lo hi).mem = s.mem := rfl
@[simp] theorem State.resetSpan_host (lo hi : Nat) : (s.resetSpan lo hi).host = s.host := rfl
@[simp] theorem State.resetSpan_test (lo hi : Nat) : (s.resetSpan lo hi).test = s.test := rfl
@[simp] theorem State.resetSpan_fuses (lo hi : Nat) : (s.resetSpan lo hi).fuses = s.fuses := rfl
@[simp] theorem State.resetSpan_update (lo hi : Nat) : (s.resetSpan lo hi).update = s.update := rfl

/-! ### `wr` -/

@[simp] theorem State.wr_pending : (s.wr f i v).pending = s.pending := rfl
@[simp] theorem State.wr_latches : (s.wr f i v).latches = s.latches := rfl
@[simp] theorem State.wr_locks : (s.wr f i v).locks = s.locks := rfl
@[simp] theorem State.wr_hbm : (s.wr f i v).hbm = s.hbm := rfl
@[simp] theorem State.wr_flash : (s.wr f i v).flash = s.flash := rfl
@[simp] theorem State.wr_clock : (s.wr f i v).clock = s.clock := rfl
@[simp] theorem State.wr_fresh : (s.wr f i v).fresh = s.fresh := rfl
@[simp] theorem State.wr_out : (s.wr f i v).out = s.out := rfl
@[simp] theorem State.wr_logQueue : (s.wr f i v).logQueue = s.logQueue := rfl
@[simp] theorem State.wr_chief : (s.wr f i v).chief = s.chief := rfl
@[simp] theorem State.wr_cfg : (s.wr f i v).cfg = s.cfg := rfl
@[simp] theorem State.wr_links : (s.wr f i v).links = s.links := rfl
@[simp] theorem State.wr_axes : (s.wr f i v).axes = s.axes := rfl
@[simp] theorem State.wr_reel : (s.wr f i v).reel = s.reel := rfl
@[simp] theorem State.wr_time : (s.wr f i v).time = s.time := rfl
@[simp] theorem State.wr_headbox : (s.wr f i v).headbox = s.headbox := rfl
@[simp] theorem State.wr_calender : (s.wr f i v).calender = s.calender := rfl
@[simp] theorem State.wr_coefActive : (s.wr f i v).coefActive = s.coefActive := rfl
@[simp] theorem State.wr_ridges : (s.wr f i v).ridges = s.ridges := rfl
@[simp] theorem State.wr_stats : (s.wr f i v).stats = s.stats := rfl
@[simp] theorem State.wr_couch : (s.wr f i v).couch = s.couch := rfl
@[simp] theorem State.wr_forestActive : (s.wr f i v).forestActive = s.forestActive := rfl
@[simp] theorem State.wr_keys : (s.wr f i v).keys = s.keys := rfl
@[simp] theorem State.wr_layoutKeys : (s.wr f i v).layoutKeys = s.layoutKeys := rfl
@[simp] theorem State.wr_layout : (s.wr f i v).layout = s.layout := rfl
@[simp] theorem State.wr_kernels : (s.wr f i v).kernels = s.kernels := rfl
@[simp] theorem State.wr_mould : (s.wr f i v).mould = s.mould := rfl
@[simp] theorem State.wr_doseActive : (s.wr f i v).doseActive = s.doseActive := rfl
@[simp] theorem State.wr_wm : (s.wr f i v).wm = s.wm := rfl
@[simp] theorem State.wr_laid : (s.wr f i v).laid = s.laid := rfl
@[simp] theorem State.wr_laidChs : (s.wr f i v).laidChs = s.laidChs := rfl
@[simp] theorem State.wr_vat : (s.wr f i v).vat = s.vat := rfl
@[simp] theorem State.wr_botActive : (s.wr f i v).botActive = s.botActive := rfl
@[simp] theorem State.wr_scree : (s.wr f i v).scree = s.scree := rfl
@[simp] theorem State.wr_screeChs : (s.wr f i v).screeChs = s.screeChs := rfl
@[simp] theorem State.wr_engines : (s.wr f i v).engines = s.engines := rfl
@[simp] theorem State.wr_mem : (s.wr f i v).mem = s.mem := rfl
@[simp] theorem State.wr_host : (s.wr f i v).host = s.host := rfl
@[simp] theorem State.wr_test : (s.wr f i v).test = s.test := rfl
@[simp] theorem State.wr_fuses : (s.wr f i v).fuses = s.fuses := rfl
@[simp] theorem State.wr_update : (s.wr f i v).update = s.update := rfl

/-! ### `up` -/

@[simp] theorem State.up_pending : (s.up f i).pending = s.pending := rfl
@[simp] theorem State.up_latches : (s.up f i).latches = s.latches := rfl
@[simp] theorem State.up_locks : (s.up f i).locks = s.locks := rfl
@[simp] theorem State.up_hbm : (s.up f i).hbm = s.hbm := rfl
@[simp] theorem State.up_flash : (s.up f i).flash = s.flash := rfl
@[simp] theorem State.up_clock : (s.up f i).clock = s.clock := rfl
@[simp] theorem State.up_fresh : (s.up f i).fresh = s.fresh := rfl
@[simp] theorem State.up_out : (s.up f i).out = s.out := rfl
@[simp] theorem State.up_logQueue : (s.up f i).logQueue = s.logQueue := rfl
@[simp] theorem State.up_chief : (s.up f i).chief = s.chief := rfl
@[simp] theorem State.up_cfg : (s.up f i).cfg = s.cfg := rfl
@[simp] theorem State.up_links : (s.up f i).links = s.links := rfl
@[simp] theorem State.up_axes : (s.up f i).axes = s.axes := rfl
@[simp] theorem State.up_reel : (s.up f i).reel = s.reel := rfl
@[simp] theorem State.up_time : (s.up f i).time = s.time := rfl
@[simp] theorem State.up_headbox : (s.up f i).headbox = s.headbox := rfl
@[simp] theorem State.up_calender : (s.up f i).calender = s.calender := rfl
@[simp] theorem State.up_coefActive : (s.up f i).coefActive = s.coefActive := rfl
@[simp] theorem State.up_ridges : (s.up f i).ridges = s.ridges := rfl
@[simp] theorem State.up_stats : (s.up f i).stats = s.stats := rfl
@[simp] theorem State.up_couch : (s.up f i).couch = s.couch := rfl
@[simp] theorem State.up_forestActive : (s.up f i).forestActive = s.forestActive := rfl
@[simp] theorem State.up_keys : (s.up f i).keys = s.keys := rfl
@[simp] theorem State.up_layoutKeys : (s.up f i).layoutKeys = s.layoutKeys := rfl
@[simp] theorem State.up_layout : (s.up f i).layout = s.layout := rfl
@[simp] theorem State.up_kernels : (s.up f i).kernels = s.kernels := rfl
@[simp] theorem State.up_mould : (s.up f i).mould = s.mould := rfl
@[simp] theorem State.up_doseActive : (s.up f i).doseActive = s.doseActive := rfl
@[simp] theorem State.up_wm : (s.up f i).wm = s.wm := rfl
@[simp] theorem State.up_laid : (s.up f i).laid = s.laid := rfl
@[simp] theorem State.up_laidChs : (s.up f i).laidChs = s.laidChs := rfl
@[simp] theorem State.up_vat : (s.up f i).vat = s.vat := rfl
@[simp] theorem State.up_botActive : (s.up f i).botActive = s.botActive := rfl
@[simp] theorem State.up_scree : (s.up f i).scree = s.scree := rfl
@[simp] theorem State.up_screeChs : (s.up f i).screeChs = s.screeChs := rfl
@[simp] theorem State.up_engines : (s.up f i).engines = s.engines := rfl
@[simp] theorem State.up_mem : (s.up f i).mem = s.mem := rfl
@[simp] theorem State.up_host : (s.up f i).host = s.host := rfl
@[simp] theorem State.up_test : (s.up f i).test = s.test := rfl
@[simp] theorem State.up_fuses : (s.up f i).fuses = s.fuses := rfl
@[simp] theorem State.up_update : (s.up f i).update = s.update := rfl

/-! ### `down` -/

@[simp] theorem State.down_pending : (s.down f i).pending = s.pending := rfl
@[simp] theorem State.down_latches : (s.down f i).latches = s.latches := rfl
@[simp] theorem State.down_locks : (s.down f i).locks = s.locks := rfl
@[simp] theorem State.down_hbm : (s.down f i).hbm = s.hbm := rfl
@[simp] theorem State.down_flash : (s.down f i).flash = s.flash := rfl
@[simp] theorem State.down_clock : (s.down f i).clock = s.clock := rfl
@[simp] theorem State.down_fresh : (s.down f i).fresh = s.fresh := rfl
@[simp] theorem State.down_out : (s.down f i).out = s.out := rfl
@[simp] theorem State.down_logQueue : (s.down f i).logQueue = s.logQueue := rfl
@[simp] theorem State.down_chief : (s.down f i).chief = s.chief := rfl
@[simp] theorem State.down_cfg : (s.down f i).cfg = s.cfg := rfl
@[simp] theorem State.down_links : (s.down f i).links = s.links := rfl
@[simp] theorem State.down_axes : (s.down f i).axes = s.axes := rfl
@[simp] theorem State.down_reel : (s.down f i).reel = s.reel := rfl
@[simp] theorem State.down_time : (s.down f i).time = s.time := rfl
@[simp] theorem State.down_headbox : (s.down f i).headbox = s.headbox := rfl
@[simp] theorem State.down_calender : (s.down f i).calender = s.calender := rfl
@[simp] theorem State.down_coefActive : (s.down f i).coefActive = s.coefActive := rfl
@[simp] theorem State.down_ridges : (s.down f i).ridges = s.ridges := rfl
@[simp] theorem State.down_stats : (s.down f i).stats = s.stats := rfl
@[simp] theorem State.down_couch : (s.down f i).couch = s.couch := rfl
@[simp] theorem State.down_forestActive : (s.down f i).forestActive = s.forestActive := rfl
@[simp] theorem State.down_keys : (s.down f i).keys = s.keys := rfl
@[simp] theorem State.down_layoutKeys : (s.down f i).layoutKeys = s.layoutKeys := rfl
@[simp] theorem State.down_layout : (s.down f i).layout = s.layout := rfl
@[simp] theorem State.down_kernels : (s.down f i).kernels = s.kernels := rfl
@[simp] theorem State.down_mould : (s.down f i).mould = s.mould := rfl
@[simp] theorem State.down_doseActive : (s.down f i).doseActive = s.doseActive := rfl
@[simp] theorem State.down_wm : (s.down f i).wm = s.wm := rfl
@[simp] theorem State.down_laid : (s.down f i).laid = s.laid := rfl
@[simp] theorem State.down_laidChs : (s.down f i).laidChs = s.laidChs := rfl
@[simp] theorem State.down_vat : (s.down f i).vat = s.vat := rfl
@[simp] theorem State.down_botActive : (s.down f i).botActive = s.botActive := rfl
@[simp] theorem State.down_scree : (s.down f i).scree = s.scree := rfl
@[simp] theorem State.down_screeChs : (s.down f i).screeChs = s.screeChs := rfl
@[simp] theorem State.down_engines : (s.down f i).engines = s.engines := rfl
@[simp] theorem State.down_mem : (s.down f i).mem = s.mem := rfl
@[simp] theorem State.down_host : (s.down f i).host = s.host := rfl
@[simp] theorem State.down_test : (s.down f i).test = s.test := rfl
@[simp] theorem State.down_fuses : (s.down f i).fuses = s.fuses := rfl
@[simp] theorem State.down_update : (s.down f i).update = s.update := rfl

/-! ### `count` -/

@[simp] theorem State.count_pending : (s.count f i v).pending = s.pending := rfl
@[simp] theorem State.count_latches : (s.count f i v).latches = s.latches := rfl
@[simp] theorem State.count_locks : (s.count f i v).locks = s.locks := rfl
@[simp] theorem State.count_hbm : (s.count f i v).hbm = s.hbm := rfl
@[simp] theorem State.count_flash : (s.count f i v).flash = s.flash := rfl
@[simp] theorem State.count_clock : (s.count f i v).clock = s.clock := rfl
@[simp] theorem State.count_fresh : (s.count f i v).fresh = s.fresh := rfl
@[simp] theorem State.count_out : (s.count f i v).out = s.out := rfl
@[simp] theorem State.count_logQueue : (s.count f i v).logQueue = s.logQueue := rfl
@[simp] theorem State.count_chief : (s.count f i v).chief = s.chief := rfl
@[simp] theorem State.count_cfg : (s.count f i v).cfg = s.cfg := rfl
@[simp] theorem State.count_links : (s.count f i v).links = s.links := rfl
@[simp] theorem State.count_axes : (s.count f i v).axes = s.axes := rfl
@[simp] theorem State.count_reel : (s.count f i v).reel = s.reel := rfl
@[simp] theorem State.count_time : (s.count f i v).time = s.time := rfl
@[simp] theorem State.count_headbox : (s.count f i v).headbox = s.headbox := rfl
@[simp] theorem State.count_calender : (s.count f i v).calender = s.calender := rfl
@[simp] theorem State.count_coefActive : (s.count f i v).coefActive = s.coefActive := rfl
@[simp] theorem State.count_ridges : (s.count f i v).ridges = s.ridges := rfl
@[simp] theorem State.count_stats : (s.count f i v).stats = s.stats := rfl
@[simp] theorem State.count_couch : (s.count f i v).couch = s.couch := rfl
@[simp] theorem State.count_forestActive : (s.count f i v).forestActive = s.forestActive := rfl
@[simp] theorem State.count_keys : (s.count f i v).keys = s.keys := rfl
@[simp] theorem State.count_layoutKeys : (s.count f i v).layoutKeys = s.layoutKeys := rfl
@[simp] theorem State.count_layout : (s.count f i v).layout = s.layout := rfl
@[simp] theorem State.count_kernels : (s.count f i v).kernels = s.kernels := rfl
@[simp] theorem State.count_mould : (s.count f i v).mould = s.mould := rfl
@[simp] theorem State.count_doseActive : (s.count f i v).doseActive = s.doseActive := rfl
@[simp] theorem State.count_wm : (s.count f i v).wm = s.wm := rfl
@[simp] theorem State.count_laid : (s.count f i v).laid = s.laid := rfl
@[simp] theorem State.count_laidChs : (s.count f i v).laidChs = s.laidChs := rfl
@[simp] theorem State.count_vat : (s.count f i v).vat = s.vat := rfl
@[simp] theorem State.count_botActive : (s.count f i v).botActive = s.botActive := rfl
@[simp] theorem State.count_scree : (s.count f i v).scree = s.scree := rfl
@[simp] theorem State.count_screeChs : (s.count f i v).screeChs = s.screeChs := rfl
@[simp] theorem State.count_engines : (s.count f i v).engines = s.engines := rfl
@[simp] theorem State.count_mem : (s.count f i v).mem = s.mem := rfl
@[simp] theorem State.count_host : (s.count f i v).host = s.host := rfl
@[simp] theorem State.count_test : (s.count f i v).test = s.test := rfl
@[simp] theorem State.count_fuses : (s.count f i v).fuses = s.fuses := rfl
@[simp] theorem State.count_update : (s.count f i v).update = s.update := rfl

/-! ### `advance` -/

@[simp] theorem State.advance_pending : (s.advance f i v).pending = s.pending := rfl
@[simp] theorem State.advance_latches : (s.advance f i v).latches = s.latches := rfl
@[simp] theorem State.advance_locks : (s.advance f i v).locks = s.locks := rfl
@[simp] theorem State.advance_hbm : (s.advance f i v).hbm = s.hbm := rfl
@[simp] theorem State.advance_flash : (s.advance f i v).flash = s.flash := rfl
@[simp] theorem State.advance_clock : (s.advance f i v).clock = s.clock := rfl
@[simp] theorem State.advance_fresh : (s.advance f i v).fresh = s.fresh := rfl
@[simp] theorem State.advance_out : (s.advance f i v).out = s.out := rfl
@[simp] theorem State.advance_logQueue : (s.advance f i v).logQueue = s.logQueue := rfl
@[simp] theorem State.advance_chief : (s.advance f i v).chief = s.chief := rfl
@[simp] theorem State.advance_cfg : (s.advance f i v).cfg = s.cfg := rfl
@[simp] theorem State.advance_links : (s.advance f i v).links = s.links := rfl
@[simp] theorem State.advance_axes : (s.advance f i v).axes = s.axes := rfl
@[simp] theorem State.advance_reel : (s.advance f i v).reel = s.reel := rfl
@[simp] theorem State.advance_time : (s.advance f i v).time = s.time := rfl
@[simp] theorem State.advance_headbox : (s.advance f i v).headbox = s.headbox := rfl
@[simp] theorem State.advance_calender : (s.advance f i v).calender = s.calender := rfl
@[simp] theorem State.advance_coefActive : (s.advance f i v).coefActive = s.coefActive := rfl
@[simp] theorem State.advance_ridges : (s.advance f i v).ridges = s.ridges := rfl
@[simp] theorem State.advance_stats : (s.advance f i v).stats = s.stats := rfl
@[simp] theorem State.advance_couch : (s.advance f i v).couch = s.couch := rfl
@[simp] theorem State.advance_forestActive : (s.advance f i v).forestActive = s.forestActive := rfl
@[simp] theorem State.advance_keys : (s.advance f i v).keys = s.keys := rfl
@[simp] theorem State.advance_layoutKeys : (s.advance f i v).layoutKeys = s.layoutKeys := rfl
@[simp] theorem State.advance_layout : (s.advance f i v).layout = s.layout := rfl
@[simp] theorem State.advance_kernels : (s.advance f i v).kernels = s.kernels := rfl
@[simp] theorem State.advance_mould : (s.advance f i v).mould = s.mould := rfl
@[simp] theorem State.advance_doseActive : (s.advance f i v).doseActive = s.doseActive := rfl
@[simp] theorem State.advance_wm : (s.advance f i v).wm = s.wm := rfl
@[simp] theorem State.advance_laid : (s.advance f i v).laid = s.laid := rfl
@[simp] theorem State.advance_laidChs : (s.advance f i v).laidChs = s.laidChs := rfl
@[simp] theorem State.advance_vat : (s.advance f i v).vat = s.vat := rfl
@[simp] theorem State.advance_botActive : (s.advance f i v).botActive = s.botActive := rfl
@[simp] theorem State.advance_scree : (s.advance f i v).scree = s.scree := rfl
@[simp] theorem State.advance_screeChs : (s.advance f i v).screeChs = s.screeChs := rfl
@[simp] theorem State.advance_engines : (s.advance f i v).engines = s.engines := rfl
@[simp] theorem State.advance_mem : (s.advance f i v).mem = s.mem := rfl
@[simp] theorem State.advance_host : (s.advance f i v).host = s.host := rfl
@[simp] theorem State.advance_test : (s.advance f i v).test = s.test := rfl
@[simp] theorem State.advance_fuses : (s.advance f i v).fuses = s.fuses := rfl
@[simp] theorem State.advance_update : (s.advance f i v).update = s.update := rfl

/-! ### `wr64` -/

@[simp] theorem State.wr64_pending (g : Fld) : (s.wr64 f g i v).pending = s.pending := rfl
@[simp] theorem State.wr64_latches (g : Fld) : (s.wr64 f g i v).latches = s.latches := rfl
@[simp] theorem State.wr64_locks (g : Fld) : (s.wr64 f g i v).locks = s.locks := rfl
@[simp] theorem State.wr64_hbm (g : Fld) : (s.wr64 f g i v).hbm = s.hbm := rfl
@[simp] theorem State.wr64_flash (g : Fld) : (s.wr64 f g i v).flash = s.flash := rfl
@[simp] theorem State.wr64_clock (g : Fld) : (s.wr64 f g i v).clock = s.clock := rfl
@[simp] theorem State.wr64_fresh (g : Fld) : (s.wr64 f g i v).fresh = s.fresh := rfl
@[simp] theorem State.wr64_out (g : Fld) : (s.wr64 f g i v).out = s.out := rfl
@[simp] theorem State.wr64_logQueue (g : Fld) : (s.wr64 f g i v).logQueue = s.logQueue := rfl
@[simp] theorem State.wr64_chief (g : Fld) : (s.wr64 f g i v).chief = s.chief := rfl
@[simp] theorem State.wr64_cfg (g : Fld) : (s.wr64 f g i v).cfg = s.cfg := rfl
@[simp] theorem State.wr64_links (g : Fld) : (s.wr64 f g i v).links = s.links := rfl
@[simp] theorem State.wr64_axes (g : Fld) : (s.wr64 f g i v).axes = s.axes := rfl
@[simp] theorem State.wr64_reel (g : Fld) : (s.wr64 f g i v).reel = s.reel := rfl
@[simp] theorem State.wr64_time (g : Fld) : (s.wr64 f g i v).time = s.time := rfl
@[simp] theorem State.wr64_headbox (g : Fld) : (s.wr64 f g i v).headbox = s.headbox := rfl
@[simp] theorem State.wr64_calender (g : Fld) : (s.wr64 f g i v).calender = s.calender := rfl
@[simp] theorem State.wr64_coefActive (g : Fld) : (s.wr64 f g i v).coefActive = s.coefActive := rfl
@[simp] theorem State.wr64_ridges (g : Fld) : (s.wr64 f g i v).ridges = s.ridges := rfl
@[simp] theorem State.wr64_stats (g : Fld) : (s.wr64 f g i v).stats = s.stats := rfl
@[simp] theorem State.wr64_couch (g : Fld) : (s.wr64 f g i v).couch = s.couch := rfl
@[simp] theorem State.wr64_forestActive (g : Fld) : (s.wr64 f g i v).forestActive = s.forestActive := rfl
@[simp] theorem State.wr64_keys (g : Fld) : (s.wr64 f g i v).keys = s.keys := rfl
@[simp] theorem State.wr64_layoutKeys (g : Fld) : (s.wr64 f g i v).layoutKeys = s.layoutKeys := rfl
@[simp] theorem State.wr64_layout (g : Fld) : (s.wr64 f g i v).layout = s.layout := rfl
@[simp] theorem State.wr64_kernels (g : Fld) : (s.wr64 f g i v).kernels = s.kernels := rfl
@[simp] theorem State.wr64_mould (g : Fld) : (s.wr64 f g i v).mould = s.mould := rfl
@[simp] theorem State.wr64_doseActive (g : Fld) : (s.wr64 f g i v).doseActive = s.doseActive := rfl
@[simp] theorem State.wr64_wm (g : Fld) : (s.wr64 f g i v).wm = s.wm := rfl
@[simp] theorem State.wr64_laid (g : Fld) : (s.wr64 f g i v).laid = s.laid := rfl
@[simp] theorem State.wr64_laidChs (g : Fld) : (s.wr64 f g i v).laidChs = s.laidChs := rfl
@[simp] theorem State.wr64_vat (g : Fld) : (s.wr64 f g i v).vat = s.vat := rfl
@[simp] theorem State.wr64_botActive (g : Fld) : (s.wr64 f g i v).botActive = s.botActive := rfl
@[simp] theorem State.wr64_scree (g : Fld) : (s.wr64 f g i v).scree = s.scree := rfl
@[simp] theorem State.wr64_screeChs (g : Fld) : (s.wr64 f g i v).screeChs = s.screeChs := rfl
@[simp] theorem State.wr64_engines (g : Fld) : (s.wr64 f g i v).engines = s.engines := rfl
@[simp] theorem State.wr64_mem (g : Fld) : (s.wr64 f g i v).mem = s.mem := rfl
@[simp] theorem State.wr64_host (g : Fld) : (s.wr64 f g i v).host = s.host := rfl
@[simp] theorem State.wr64_test (g : Fld) : (s.wr64 f g i v).test = s.test := rfl
@[simp] theorem State.wr64_fuses (g : Fld) : (s.wr64 f g i v).fuses = s.fuses := rfl
@[simp] theorem State.wr64_update (g : Fld) : (s.wr64 f g i v).update = s.update := rfl

/-! ### `setByte` -/

@[simp] theorem State.setByte_pending (a : Nat) (b : Byte) : (s.setByte a b).pending = s.pending := rfl
@[simp] theorem State.setByte_regs (a : Nat) (b : Byte) : (s.setByte a b).regs = s.regs := rfl
@[simp] theorem State.setByte_latches (a : Nat) (b : Byte) : (s.setByte a b).latches = s.latches := rfl
@[simp] theorem State.setByte_locks (a : Nat) (b : Byte) : (s.setByte a b).locks = s.locks := rfl
@[simp] theorem State.setByte_flash (a : Nat) (b : Byte) : (s.setByte a b).flash = s.flash := rfl
@[simp] theorem State.setByte_clock (a : Nat) (b : Byte) : (s.setByte a b).clock = s.clock := rfl
@[simp] theorem State.setByte_fresh (a : Nat) (b : Byte) : (s.setByte a b).fresh = s.fresh := rfl
@[simp] theorem State.setByte_out (a : Nat) (b : Byte) : (s.setByte a b).out = s.out := rfl
@[simp] theorem State.setByte_logQueue (a : Nat) (b : Byte) : (s.setByte a b).logQueue = s.logQueue := rfl
@[simp] theorem State.setByte_chief (a : Nat) (b : Byte) : (s.setByte a b).chief = s.chief := rfl
@[simp] theorem State.setByte_cfg (a : Nat) (b : Byte) : (s.setByte a b).cfg = s.cfg := rfl
@[simp] theorem State.setByte_links (a : Nat) (b : Byte) : (s.setByte a b).links = s.links := rfl
@[simp] theorem State.setByte_axes (a : Nat) (b : Byte) : (s.setByte a b).axes = s.axes := rfl
@[simp] theorem State.setByte_reel (a : Nat) (b : Byte) : (s.setByte a b).reel = s.reel := rfl
@[simp] theorem State.setByte_time (a : Nat) (b : Byte) : (s.setByte a b).time = s.time := rfl
@[simp] theorem State.setByte_headbox (a : Nat) (b : Byte) : (s.setByte a b).headbox = s.headbox := rfl
@[simp] theorem State.setByte_calender (a : Nat) (b : Byte) : (s.setByte a b).calender = s.calender := rfl
@[simp] theorem State.setByte_coefActive (a : Nat) (b : Byte) : (s.setByte a b).coefActive = s.coefActive := rfl
@[simp] theorem State.setByte_ridges (a : Nat) (b : Byte) : (s.setByte a b).ridges = s.ridges := rfl
@[simp] theorem State.setByte_stats (a : Nat) (b : Byte) : (s.setByte a b).stats = s.stats := rfl
@[simp] theorem State.setByte_couch (a : Nat) (b : Byte) : (s.setByte a b).couch = s.couch := rfl
@[simp] theorem State.setByte_forestActive (a : Nat) (b : Byte) : (s.setByte a b).forestActive = s.forestActive := rfl
@[simp] theorem State.setByte_keys (a : Nat) (b : Byte) : (s.setByte a b).keys = s.keys := rfl
@[simp] theorem State.setByte_layoutKeys (a : Nat) (b : Byte) : (s.setByte a b).layoutKeys = s.layoutKeys := rfl
@[simp] theorem State.setByte_layout (a : Nat) (b : Byte) : (s.setByte a b).layout = s.layout := rfl
@[simp] theorem State.setByte_kernels (a : Nat) (b : Byte) : (s.setByte a b).kernels = s.kernels := rfl
@[simp] theorem State.setByte_mould (a : Nat) (b : Byte) : (s.setByte a b).mould = s.mould := rfl
@[simp] theorem State.setByte_doseActive (a : Nat) (b : Byte) : (s.setByte a b).doseActive = s.doseActive := rfl
@[simp] theorem State.setByte_wm (a : Nat) (b : Byte) : (s.setByte a b).wm = s.wm := rfl
@[simp] theorem State.setByte_laid (a : Nat) (b : Byte) : (s.setByte a b).laid = s.laid := rfl
@[simp] theorem State.setByte_laidChs (a : Nat) (b : Byte) : (s.setByte a b).laidChs = s.laidChs := rfl
@[simp] theorem State.setByte_vat (a : Nat) (b : Byte) : (s.setByte a b).vat = s.vat := rfl
@[simp] theorem State.setByte_botActive (a : Nat) (b : Byte) : (s.setByte a b).botActive = s.botActive := rfl
@[simp] theorem State.setByte_scree (a : Nat) (b : Byte) : (s.setByte a b).scree = s.scree := rfl
@[simp] theorem State.setByte_screeChs (a : Nat) (b : Byte) : (s.setByte a b).screeChs = s.screeChs := rfl
@[simp] theorem State.setByte_engines (a : Nat) (b : Byte) : (s.setByte a b).engines = s.engines := rfl
@[simp] theorem State.setByte_mem (a : Nat) (b : Byte) : (s.setByte a b).mem = s.mem := rfl
@[simp] theorem State.setByte_host (a : Nat) (b : Byte) : (s.setByte a b).host = s.host := rfl
@[simp] theorem State.setByte_test (a : Nat) (b : Byte) : (s.setByte a b).test = s.test := rfl
@[simp] theorem State.setByte_fuses (a : Nat) (b : Byte) : (s.setByte a b).fuses = s.fuses := rfl
@[simp] theorem State.setByte_update (a : Nat) (b : Byte) : (s.setByte a b).update = s.update := rfl

/-! ### `keepHbm` -/

@[simp] theorem State.keepHbm_pending (keep : Nat → Bool) : (s.keepHbm keep).pending = s.pending := rfl
@[simp] theorem State.keepHbm_regs (keep : Nat → Bool) : (s.keepHbm keep).regs = s.regs := rfl
@[simp] theorem State.keepHbm_latches (keep : Nat → Bool) : (s.keepHbm keep).latches = s.latches := rfl
@[simp] theorem State.keepHbm_locks (keep : Nat → Bool) : (s.keepHbm keep).locks = s.locks := rfl
@[simp] theorem State.keepHbm_flash (keep : Nat → Bool) : (s.keepHbm keep).flash = s.flash := rfl
@[simp] theorem State.keepHbm_clock (keep : Nat → Bool) : (s.keepHbm keep).clock = s.clock := rfl
@[simp] theorem State.keepHbm_fresh (keep : Nat → Bool) : (s.keepHbm keep).fresh = s.fresh := rfl
@[simp] theorem State.keepHbm_out (keep : Nat → Bool) : (s.keepHbm keep).out = s.out := rfl
@[simp] theorem State.keepHbm_logQueue (keep : Nat → Bool) : (s.keepHbm keep).logQueue = s.logQueue := rfl
@[simp] theorem State.keepHbm_chief (keep : Nat → Bool) : (s.keepHbm keep).chief = s.chief := rfl
@[simp] theorem State.keepHbm_cfg (keep : Nat → Bool) : (s.keepHbm keep).cfg = s.cfg := rfl
@[simp] theorem State.keepHbm_links (keep : Nat → Bool) : (s.keepHbm keep).links = s.links := rfl
@[simp] theorem State.keepHbm_axes (keep : Nat → Bool) : (s.keepHbm keep).axes = s.axes := rfl
@[simp] theorem State.keepHbm_reel (keep : Nat → Bool) : (s.keepHbm keep).reel = s.reel := rfl
@[simp] theorem State.keepHbm_time (keep : Nat → Bool) : (s.keepHbm keep).time = s.time := rfl
@[simp] theorem State.keepHbm_headbox (keep : Nat → Bool) : (s.keepHbm keep).headbox = s.headbox := rfl
@[simp] theorem State.keepHbm_calender (keep : Nat → Bool) : (s.keepHbm keep).calender = s.calender := rfl
@[simp] theorem State.keepHbm_coefActive (keep : Nat → Bool) : (s.keepHbm keep).coefActive = s.coefActive := rfl
@[simp] theorem State.keepHbm_ridges (keep : Nat → Bool) : (s.keepHbm keep).ridges = s.ridges := rfl
@[simp] theorem State.keepHbm_stats (keep : Nat → Bool) : (s.keepHbm keep).stats = s.stats := rfl
@[simp] theorem State.keepHbm_couch (keep : Nat → Bool) : (s.keepHbm keep).couch = s.couch := rfl
@[simp] theorem State.keepHbm_forestActive (keep : Nat → Bool) : (s.keepHbm keep).forestActive = s.forestActive := rfl
@[simp] theorem State.keepHbm_keys (keep : Nat → Bool) : (s.keepHbm keep).keys = s.keys := rfl
@[simp] theorem State.keepHbm_layoutKeys (keep : Nat → Bool) : (s.keepHbm keep).layoutKeys = s.layoutKeys := rfl
@[simp] theorem State.keepHbm_layout (keep : Nat → Bool) : (s.keepHbm keep).layout = s.layout := rfl
@[simp] theorem State.keepHbm_kernels (keep : Nat → Bool) : (s.keepHbm keep).kernels = s.kernels := rfl
@[simp] theorem State.keepHbm_mould (keep : Nat → Bool) : (s.keepHbm keep).mould = s.mould := rfl
@[simp] theorem State.keepHbm_doseActive (keep : Nat → Bool) : (s.keepHbm keep).doseActive = s.doseActive := rfl
@[simp] theorem State.keepHbm_wm (keep : Nat → Bool) : (s.keepHbm keep).wm = s.wm := rfl
@[simp] theorem State.keepHbm_laid (keep : Nat → Bool) : (s.keepHbm keep).laid = s.laid := rfl
@[simp] theorem State.keepHbm_laidChs (keep : Nat → Bool) : (s.keepHbm keep).laidChs = s.laidChs := rfl
@[simp] theorem State.keepHbm_vat (keep : Nat → Bool) : (s.keepHbm keep).vat = s.vat := rfl
@[simp] theorem State.keepHbm_botActive (keep : Nat → Bool) : (s.keepHbm keep).botActive = s.botActive := rfl
@[simp] theorem State.keepHbm_scree (keep : Nat → Bool) : (s.keepHbm keep).scree = s.scree := rfl
@[simp] theorem State.keepHbm_screeChs (keep : Nat → Bool) : (s.keepHbm keep).screeChs = s.screeChs := rfl
@[simp] theorem State.keepHbm_engines (keep : Nat → Bool) : (s.keepHbm keep).engines = s.engines := rfl
@[simp] theorem State.keepHbm_mem (keep : Nat → Bool) : (s.keepHbm keep).mem = s.mem := rfl
@[simp] theorem State.keepHbm_host (keep : Nat → Bool) : (s.keepHbm keep).host = s.host := rfl
@[simp] theorem State.keepHbm_test (keep : Nat → Bool) : (s.keepHbm keep).test = s.test := rfl
@[simp] theorem State.keepHbm_fuses (keep : Nat → Bool) : (s.keepHbm keep).fuses = s.fuses := rfl
@[simp] theorem State.keepHbm_update (keep : Nat → Bool) : (s.keepHbm keep).update = s.update := rfl

/-! ### `setFlashByte` -/

@[simp] theorem State.setFlashByte_pending (a : Nat) (b : Byte) : (s.setFlashByte a b).pending = s.pending := rfl
@[simp] theorem State.setFlashByte_regs (a : Nat) (b : Byte) : (s.setFlashByte a b).regs = s.regs := rfl
@[simp] theorem State.setFlashByte_latches (a : Nat) (b : Byte) : (s.setFlashByte a b).latches = s.latches := rfl
@[simp] theorem State.setFlashByte_locks (a : Nat) (b : Byte) : (s.setFlashByte a b).locks = s.locks := rfl
@[simp] theorem State.setFlashByte_hbm (a : Nat) (b : Byte) : (s.setFlashByte a b).hbm = s.hbm := rfl
@[simp] theorem State.setFlashByte_clock (a : Nat) (b : Byte) : (s.setFlashByte a b).clock = s.clock := rfl
@[simp] theorem State.setFlashByte_fresh (a : Nat) (b : Byte) : (s.setFlashByte a b).fresh = s.fresh := rfl
@[simp] theorem State.setFlashByte_out (a : Nat) (b : Byte) : (s.setFlashByte a b).out = s.out := rfl
@[simp] theorem State.setFlashByte_logQueue (a : Nat) (b : Byte) : (s.setFlashByte a b).logQueue = s.logQueue := rfl
@[simp] theorem State.setFlashByte_chief (a : Nat) (b : Byte) : (s.setFlashByte a b).chief = s.chief := rfl
@[simp] theorem State.setFlashByte_cfg (a : Nat) (b : Byte) : (s.setFlashByte a b).cfg = s.cfg := rfl
@[simp] theorem State.setFlashByte_links (a : Nat) (b : Byte) : (s.setFlashByte a b).links = s.links := rfl
@[simp] theorem State.setFlashByte_axes (a : Nat) (b : Byte) : (s.setFlashByte a b).axes = s.axes := rfl
@[simp] theorem State.setFlashByte_reel (a : Nat) (b : Byte) : (s.setFlashByte a b).reel = s.reel := rfl
@[simp] theorem State.setFlashByte_time (a : Nat) (b : Byte) : (s.setFlashByte a b).time = s.time := rfl
@[simp] theorem State.setFlashByte_headbox (a : Nat) (b : Byte) : (s.setFlashByte a b).headbox = s.headbox := rfl
@[simp] theorem State.setFlashByte_calender (a : Nat) (b : Byte) : (s.setFlashByte a b).calender = s.calender := rfl
@[simp] theorem State.setFlashByte_coefActive (a : Nat) (b : Byte) : (s.setFlashByte a b).coefActive = s.coefActive := rfl
@[simp] theorem State.setFlashByte_ridges (a : Nat) (b : Byte) : (s.setFlashByte a b).ridges = s.ridges := rfl
@[simp] theorem State.setFlashByte_stats (a : Nat) (b : Byte) : (s.setFlashByte a b).stats = s.stats := rfl
@[simp] theorem State.setFlashByte_couch (a : Nat) (b : Byte) : (s.setFlashByte a b).couch = s.couch := rfl
@[simp] theorem State.setFlashByte_forestActive (a : Nat) (b : Byte) : (s.setFlashByte a b).forestActive = s.forestActive := rfl
@[simp] theorem State.setFlashByte_keys (a : Nat) (b : Byte) : (s.setFlashByte a b).keys = s.keys := rfl
@[simp] theorem State.setFlashByte_layoutKeys (a : Nat) (b : Byte) : (s.setFlashByte a b).layoutKeys = s.layoutKeys := rfl
@[simp] theorem State.setFlashByte_layout (a : Nat) (b : Byte) : (s.setFlashByte a b).layout = s.layout := rfl
@[simp] theorem State.setFlashByte_kernels (a : Nat) (b : Byte) : (s.setFlashByte a b).kernels = s.kernels := rfl
@[simp] theorem State.setFlashByte_mould (a : Nat) (b : Byte) : (s.setFlashByte a b).mould = s.mould := rfl
@[simp] theorem State.setFlashByte_doseActive (a : Nat) (b : Byte) : (s.setFlashByte a b).doseActive = s.doseActive := rfl
@[simp] theorem State.setFlashByte_wm (a : Nat) (b : Byte) : (s.setFlashByte a b).wm = s.wm := rfl
@[simp] theorem State.setFlashByte_laid (a : Nat) (b : Byte) : (s.setFlashByte a b).laid = s.laid := rfl
@[simp] theorem State.setFlashByte_laidChs (a : Nat) (b : Byte) : (s.setFlashByte a b).laidChs = s.laidChs := rfl
@[simp] theorem State.setFlashByte_vat (a : Nat) (b : Byte) : (s.setFlashByte a b).vat = s.vat := rfl
@[simp] theorem State.setFlashByte_botActive (a : Nat) (b : Byte) : (s.setFlashByte a b).botActive = s.botActive := rfl
@[simp] theorem State.setFlashByte_scree (a : Nat) (b : Byte) : (s.setFlashByte a b).scree = s.scree := rfl
@[simp] theorem State.setFlashByte_screeChs (a : Nat) (b : Byte) : (s.setFlashByte a b).screeChs = s.screeChs := rfl
@[simp] theorem State.setFlashByte_engines (a : Nat) (b : Byte) : (s.setFlashByte a b).engines = s.engines := rfl
@[simp] theorem State.setFlashByte_mem (a : Nat) (b : Byte) : (s.setFlashByte a b).mem = s.mem := rfl
@[simp] theorem State.setFlashByte_host (a : Nat) (b : Byte) : (s.setFlashByte a b).host = s.host := rfl
@[simp] theorem State.setFlashByte_test (a : Nat) (b : Byte) : (s.setFlashByte a b).test = s.test := rfl
@[simp] theorem State.setFlashByte_fuses (a : Nat) (b : Byte) : (s.setFlashByte a b).fuses = s.fuses := rfl
@[simp] theorem State.setFlashByte_update (a : Nat) (b : Byte) : (s.setFlashByte a b).update = s.update := rfl

/-! ### `eraseFlash` -/

@[simp] theorem State.eraseFlash_pending (lo hi : Nat) : (s.eraseFlash lo hi).pending = s.pending := rfl
@[simp] theorem State.eraseFlash_regs (lo hi : Nat) : (s.eraseFlash lo hi).regs = s.regs := rfl
@[simp] theorem State.eraseFlash_latches (lo hi : Nat) : (s.eraseFlash lo hi).latches = s.latches := rfl
@[simp] theorem State.eraseFlash_locks (lo hi : Nat) : (s.eraseFlash lo hi).locks = s.locks := rfl
@[simp] theorem State.eraseFlash_hbm (lo hi : Nat) : (s.eraseFlash lo hi).hbm = s.hbm := rfl
@[simp] theorem State.eraseFlash_clock (lo hi : Nat) : (s.eraseFlash lo hi).clock = s.clock := rfl
@[simp] theorem State.eraseFlash_fresh (lo hi : Nat) : (s.eraseFlash lo hi).fresh = s.fresh := rfl
@[simp] theorem State.eraseFlash_out (lo hi : Nat) : (s.eraseFlash lo hi).out = s.out := rfl
@[simp] theorem State.eraseFlash_logQueue (lo hi : Nat) : (s.eraseFlash lo hi).logQueue = s.logQueue := rfl
@[simp] theorem State.eraseFlash_chief (lo hi : Nat) : (s.eraseFlash lo hi).chief = s.chief := rfl
@[simp] theorem State.eraseFlash_cfg (lo hi : Nat) : (s.eraseFlash lo hi).cfg = s.cfg := rfl
@[simp] theorem State.eraseFlash_links (lo hi : Nat) : (s.eraseFlash lo hi).links = s.links := rfl
@[simp] theorem State.eraseFlash_axes (lo hi : Nat) : (s.eraseFlash lo hi).axes = s.axes := rfl
@[simp] theorem State.eraseFlash_reel (lo hi : Nat) : (s.eraseFlash lo hi).reel = s.reel := rfl
@[simp] theorem State.eraseFlash_time (lo hi : Nat) : (s.eraseFlash lo hi).time = s.time := rfl
@[simp] theorem State.eraseFlash_headbox (lo hi : Nat) : (s.eraseFlash lo hi).headbox = s.headbox := rfl
@[simp] theorem State.eraseFlash_calender (lo hi : Nat) : (s.eraseFlash lo hi).calender = s.calender := rfl
@[simp] theorem State.eraseFlash_coefActive (lo hi : Nat) : (s.eraseFlash lo hi).coefActive = s.coefActive := rfl
@[simp] theorem State.eraseFlash_ridges (lo hi : Nat) : (s.eraseFlash lo hi).ridges = s.ridges := rfl
@[simp] theorem State.eraseFlash_stats (lo hi : Nat) : (s.eraseFlash lo hi).stats = s.stats := rfl
@[simp] theorem State.eraseFlash_couch (lo hi : Nat) : (s.eraseFlash lo hi).couch = s.couch := rfl
@[simp] theorem State.eraseFlash_forestActive (lo hi : Nat) : (s.eraseFlash lo hi).forestActive = s.forestActive := rfl
@[simp] theorem State.eraseFlash_keys (lo hi : Nat) : (s.eraseFlash lo hi).keys = s.keys := rfl
@[simp] theorem State.eraseFlash_layoutKeys (lo hi : Nat) : (s.eraseFlash lo hi).layoutKeys = s.layoutKeys := rfl
@[simp] theorem State.eraseFlash_layout (lo hi : Nat) : (s.eraseFlash lo hi).layout = s.layout := rfl
@[simp] theorem State.eraseFlash_kernels (lo hi : Nat) : (s.eraseFlash lo hi).kernels = s.kernels := rfl
@[simp] theorem State.eraseFlash_mould (lo hi : Nat) : (s.eraseFlash lo hi).mould = s.mould := rfl
@[simp] theorem State.eraseFlash_doseActive (lo hi : Nat) : (s.eraseFlash lo hi).doseActive = s.doseActive := rfl
@[simp] theorem State.eraseFlash_wm (lo hi : Nat) : (s.eraseFlash lo hi).wm = s.wm := rfl
@[simp] theorem State.eraseFlash_laid (lo hi : Nat) : (s.eraseFlash lo hi).laid = s.laid := rfl
@[simp] theorem State.eraseFlash_laidChs (lo hi : Nat) : (s.eraseFlash lo hi).laidChs = s.laidChs := rfl
@[simp] theorem State.eraseFlash_vat (lo hi : Nat) : (s.eraseFlash lo hi).vat = s.vat := rfl
@[simp] theorem State.eraseFlash_botActive (lo hi : Nat) : (s.eraseFlash lo hi).botActive = s.botActive := rfl
@[simp] theorem State.eraseFlash_scree (lo hi : Nat) : (s.eraseFlash lo hi).scree = s.scree := rfl
@[simp] theorem State.eraseFlash_screeChs (lo hi : Nat) : (s.eraseFlash lo hi).screeChs = s.screeChs := rfl
@[simp] theorem State.eraseFlash_engines (lo hi : Nat) : (s.eraseFlash lo hi).engines = s.engines := rfl
@[simp] theorem State.eraseFlash_mem (lo hi : Nat) : (s.eraseFlash lo hi).mem = s.mem := rfl
@[simp] theorem State.eraseFlash_host (lo hi : Nat) : (s.eraseFlash lo hi).host = s.host := rfl
@[simp] theorem State.eraseFlash_test (lo hi : Nat) : (s.eraseFlash lo hi).test = s.test := rfl
@[simp] theorem State.eraseFlash_fuses (lo hi : Nat) : (s.eraseFlash lo hi).fuses = s.fuses := rfl
@[simp] theorem State.eraseFlash_update (lo hi : Nat) : (s.eraseFlash lo hi).update = s.update := rfl

/-! ### `dropStaged` -/

@[simp] theorem State.dropStaged_pending : (s.dropStaged f i).pending = s.pending := rfl
@[simp] theorem State.dropStaged_regs : (s.dropStaged f i).regs = s.regs := rfl
@[simp] theorem State.dropStaged_locks : (s.dropStaged f i).locks = s.locks := rfl
@[simp] theorem State.dropStaged_hbm : (s.dropStaged f i).hbm = s.hbm := rfl
@[simp] theorem State.dropStaged_flash : (s.dropStaged f i).flash = s.flash := rfl
@[simp] theorem State.dropStaged_clock : (s.dropStaged f i).clock = s.clock := rfl
@[simp] theorem State.dropStaged_fresh : (s.dropStaged f i).fresh = s.fresh := rfl
@[simp] theorem State.dropStaged_out : (s.dropStaged f i).out = s.out := rfl
@[simp] theorem State.dropStaged_logQueue : (s.dropStaged f i).logQueue = s.logQueue := rfl
@[simp] theorem State.dropStaged_chief : (s.dropStaged f i).chief = s.chief := rfl
@[simp] theorem State.dropStaged_cfg : (s.dropStaged f i).cfg = s.cfg := rfl
@[simp] theorem State.dropStaged_links : (s.dropStaged f i).links = s.links := rfl
@[simp] theorem State.dropStaged_axes : (s.dropStaged f i).axes = s.axes := rfl
@[simp] theorem State.dropStaged_reel : (s.dropStaged f i).reel = s.reel := rfl
@[simp] theorem State.dropStaged_time : (s.dropStaged f i).time = s.time := rfl
@[simp] theorem State.dropStaged_headbox : (s.dropStaged f i).headbox = s.headbox := rfl
@[simp] theorem State.dropStaged_calender : (s.dropStaged f i).calender = s.calender := rfl
@[simp] theorem State.dropStaged_coefActive : (s.dropStaged f i).coefActive = s.coefActive := rfl
@[simp] theorem State.dropStaged_ridges : (s.dropStaged f i).ridges = s.ridges := rfl
@[simp] theorem State.dropStaged_stats : (s.dropStaged f i).stats = s.stats := rfl
@[simp] theorem State.dropStaged_couch : (s.dropStaged f i).couch = s.couch := rfl
@[simp] theorem State.dropStaged_forestActive : (s.dropStaged f i).forestActive = s.forestActive := rfl
@[simp] theorem State.dropStaged_keys : (s.dropStaged f i).keys = s.keys := rfl
@[simp] theorem State.dropStaged_layoutKeys : (s.dropStaged f i).layoutKeys = s.layoutKeys := rfl
@[simp] theorem State.dropStaged_layout : (s.dropStaged f i).layout = s.layout := rfl
@[simp] theorem State.dropStaged_kernels : (s.dropStaged f i).kernels = s.kernels := rfl
@[simp] theorem State.dropStaged_mould : (s.dropStaged f i).mould = s.mould := rfl
@[simp] theorem State.dropStaged_doseActive : (s.dropStaged f i).doseActive = s.doseActive := rfl
@[simp] theorem State.dropStaged_wm : (s.dropStaged f i).wm = s.wm := rfl
@[simp] theorem State.dropStaged_laid : (s.dropStaged f i).laid = s.laid := rfl
@[simp] theorem State.dropStaged_laidChs : (s.dropStaged f i).laidChs = s.laidChs := rfl
@[simp] theorem State.dropStaged_vat : (s.dropStaged f i).vat = s.vat := rfl
@[simp] theorem State.dropStaged_botActive : (s.dropStaged f i).botActive = s.botActive := rfl
@[simp] theorem State.dropStaged_scree : (s.dropStaged f i).scree = s.scree := rfl
@[simp] theorem State.dropStaged_screeChs : (s.dropStaged f i).screeChs = s.screeChs := rfl
@[simp] theorem State.dropStaged_engines : (s.dropStaged f i).engines = s.engines := rfl
@[simp] theorem State.dropStaged_mem : (s.dropStaged f i).mem = s.mem := rfl
@[simp] theorem State.dropStaged_host : (s.dropStaged f i).host = s.host := rfl
@[simp] theorem State.dropStaged_test : (s.dropStaged f i).test = s.test := rfl
@[simp] theorem State.dropStaged_fuses : (s.dropStaged f i).fuses = s.fuses := rfl
@[simp] theorem State.dropStaged_update : (s.dropStaged f i).update = s.update := rfl

/-! ### An output: everything but the outputs stays -/

@[simp] theorem State.emit_pending (o : Output) : (s.emit o).pending = s.pending := by
  unfold State.emit
  split <;> rfl
@[simp] theorem State.emit_regs (o : Output) : (s.emit o).regs = s.regs := by
  unfold State.emit
  split <;> rfl
@[simp] theorem State.emit_latches (o : Output) : (s.emit o).latches = s.latches := by
  unfold State.emit
  split <;> rfl
@[simp] theorem State.emit_locks (o : Output) : (s.emit o).locks = s.locks := by
  unfold State.emit
  split <;> rfl
@[simp] theorem State.emit_hbm (o : Output) : (s.emit o).hbm = s.hbm := by
  unfold State.emit
  split <;> rfl
@[simp] theorem State.emit_flash (o : Output) : (s.emit o).flash = s.flash := by
  unfold State.emit
  split <;> rfl
@[simp] theorem State.emit_clock (o : Output) : (s.emit o).clock = s.clock := by
  unfold State.emit
  split <;> rfl
@[simp] theorem State.emit_fresh (o : Output) : (s.emit o).fresh = s.fresh := by
  unfold State.emit
  split <;> rfl
@[simp] theorem State.emit_logQueue (o : Output) : (s.emit o).logQueue = s.logQueue := by
  unfold State.emit
  split <;> rfl
@[simp] theorem State.emit_chief (o : Output) : (s.emit o).chief = s.chief := by
  unfold State.emit
  split <;> rfl
@[simp] theorem State.emit_cfg (o : Output) : (s.emit o).cfg = s.cfg := by
  unfold State.emit
  split <;> rfl
@[simp] theorem State.emit_links (o : Output) : (s.emit o).links = s.links := by
  unfold State.emit
  split <;> rfl
@[simp] theorem State.emit_axes (o : Output) : (s.emit o).axes = s.axes := by
  unfold State.emit
  split <;> rfl
@[simp] theorem State.emit_reel (o : Output) : (s.emit o).reel = s.reel := by
  unfold State.emit
  split <;> rfl
@[simp] theorem State.emit_time (o : Output) : (s.emit o).time = s.time := by
  unfold State.emit
  split <;> rfl
@[simp] theorem State.emit_headbox (o : Output) : (s.emit o).headbox = s.headbox := by
  unfold State.emit
  split <;> rfl
@[simp] theorem State.emit_calender (o : Output) : (s.emit o).calender = s.calender := by
  unfold State.emit
  split <;> rfl
@[simp] theorem State.emit_coefActive (o : Output) : (s.emit o).coefActive = s.coefActive := by
  unfold State.emit
  split <;> rfl
@[simp] theorem State.emit_ridges (o : Output) : (s.emit o).ridges = s.ridges := by
  unfold State.emit
  split <;> rfl
@[simp] theorem State.emit_stats (o : Output) : (s.emit o).stats = s.stats := by
  unfold State.emit
  split <;> rfl
@[simp] theorem State.emit_couch (o : Output) : (s.emit o).couch = s.couch := by
  unfold State.emit
  split <;> rfl
@[simp] theorem State.emit_forestActive (o : Output) : (s.emit o).forestActive = s.forestActive := by
  unfold State.emit
  split <;> rfl
@[simp] theorem State.emit_keys (o : Output) : (s.emit o).keys = s.keys := by
  unfold State.emit
  split <;> rfl
@[simp] theorem State.emit_layoutKeys (o : Output) : (s.emit o).layoutKeys = s.layoutKeys := by
  unfold State.emit
  split <;> rfl
@[simp] theorem State.emit_layout (o : Output) : (s.emit o).layout = s.layout := by
  unfold State.emit
  split <;> rfl
@[simp] theorem State.emit_kernels (o : Output) : (s.emit o).kernels = s.kernels := by
  unfold State.emit
  split <;> rfl
@[simp] theorem State.emit_mould (o : Output) : (s.emit o).mould = s.mould := by
  unfold State.emit
  split <;> rfl
@[simp] theorem State.emit_doseActive (o : Output) : (s.emit o).doseActive = s.doseActive := by
  unfold State.emit
  split <;> rfl
@[simp] theorem State.emit_wm (o : Output) : (s.emit o).wm = s.wm := by
  unfold State.emit
  split <;> rfl
@[simp] theorem State.emit_laid (o : Output) : (s.emit o).laid = s.laid := by
  unfold State.emit
  split <;> rfl
@[simp] theorem State.emit_laidChs (o : Output) : (s.emit o).laidChs = s.laidChs := by
  unfold State.emit
  split <;> rfl
@[simp] theorem State.emit_vat (o : Output) : (s.emit o).vat = s.vat := by
  unfold State.emit
  split <;> rfl
@[simp] theorem State.emit_botActive (o : Output) : (s.emit o).botActive = s.botActive := by
  unfold State.emit
  split <;> rfl
@[simp] theorem State.emit_scree (o : Output) : (s.emit o).scree = s.scree := by
  unfold State.emit
  split <;> rfl
@[simp] theorem State.emit_screeChs (o : Output) : (s.emit o).screeChs = s.screeChs := by
  unfold State.emit
  split <;> rfl
@[simp] theorem State.emit_engines (o : Output) : (s.emit o).engines = s.engines := by
  unfold State.emit
  split <;> rfl
@[simp] theorem State.emit_mem (o : Output) : (s.emit o).mem = s.mem := by
  unfold State.emit
  split <;> rfl
@[simp] theorem State.emit_host (o : Output) : (s.emit o).host = s.host := by
  unfold State.emit
  split <;> rfl
@[simp] theorem State.emit_test (o : Output) : (s.emit o).test = s.test := by
  unfold State.emit
  split <;> rfl
@[simp] theorem State.emit_fuses (o : Output) : (s.emit o).fuses = s.fuses := by
  unfold State.emit
  split <;> rfl
@[simp] theorem State.emit_update (o : Output) : (s.emit o).update = s.update := by
  unfold State.emit
  split <;> rfl

@[simp] theorem State.event_pending (p g isl : Nat) : (s.event p g isl).pending = s.pending := State.emit_pending s _
@[simp] theorem State.event_regs (p g isl : Nat) : (s.event p g isl).regs = s.regs := State.emit_regs s _
@[simp] theorem State.event_latches (p g isl : Nat) : (s.event p g isl).latches = s.latches := State.emit_latches s _
@[simp] theorem State.event_locks (p g isl : Nat) : (s.event p g isl).locks = s.locks := State.emit_locks s _
@[simp] theorem State.event_hbm (p g isl : Nat) : (s.event p g isl).hbm = s.hbm := State.emit_hbm s _
@[simp] theorem State.event_flash (p g isl : Nat) : (s.event p g isl).flash = s.flash := State.emit_flash s _
@[simp] theorem State.event_clock (p g isl : Nat) : (s.event p g isl).clock = s.clock := State.emit_clock s _
@[simp] theorem State.event_fresh (p g isl : Nat) : (s.event p g isl).fresh = s.fresh := State.emit_fresh s _
@[simp] theorem State.event_logQueue (p g isl : Nat) : (s.event p g isl).logQueue = s.logQueue := State.emit_logQueue s _
@[simp] theorem State.event_chief (p g isl : Nat) : (s.event p g isl).chief = s.chief := State.emit_chief s _
@[simp] theorem State.event_cfg (p g isl : Nat) : (s.event p g isl).cfg = s.cfg := State.emit_cfg s _
@[simp] theorem State.event_links (p g isl : Nat) : (s.event p g isl).links = s.links := State.emit_links s _
@[simp] theorem State.event_axes (p g isl : Nat) : (s.event p g isl).axes = s.axes := State.emit_axes s _
@[simp] theorem State.event_reel (p g isl : Nat) : (s.event p g isl).reel = s.reel := State.emit_reel s _
@[simp] theorem State.event_time (p g isl : Nat) : (s.event p g isl).time = s.time := State.emit_time s _
@[simp] theorem State.event_headbox (p g isl : Nat) : (s.event p g isl).headbox = s.headbox := State.emit_headbox s _
@[simp] theorem State.event_calender (p g isl : Nat) : (s.event p g isl).calender = s.calender := State.emit_calender s _
@[simp] theorem State.event_coefActive (p g isl : Nat) : (s.event p g isl).coefActive = s.coefActive := State.emit_coefActive s _
@[simp] theorem State.event_ridges (p g isl : Nat) : (s.event p g isl).ridges = s.ridges := State.emit_ridges s _
@[simp] theorem State.event_stats (p g isl : Nat) : (s.event p g isl).stats = s.stats := State.emit_stats s _
@[simp] theorem State.event_couch (p g isl : Nat) : (s.event p g isl).couch = s.couch := State.emit_couch s _
@[simp] theorem State.event_forestActive (p g isl : Nat) : (s.event p g isl).forestActive = s.forestActive := State.emit_forestActive s _
@[simp] theorem State.event_keys (p g isl : Nat) : (s.event p g isl).keys = s.keys := State.emit_keys s _
@[simp] theorem State.event_layoutKeys (p g isl : Nat) : (s.event p g isl).layoutKeys = s.layoutKeys := State.emit_layoutKeys s _
@[simp] theorem State.event_layout (p g isl : Nat) : (s.event p g isl).layout = s.layout := State.emit_layout s _
@[simp] theorem State.event_kernels (p g isl : Nat) : (s.event p g isl).kernels = s.kernels := State.emit_kernels s _
@[simp] theorem State.event_mould (p g isl : Nat) : (s.event p g isl).mould = s.mould := State.emit_mould s _
@[simp] theorem State.event_doseActive (p g isl : Nat) : (s.event p g isl).doseActive = s.doseActive := State.emit_doseActive s _
@[simp] theorem State.event_wm (p g isl : Nat) : (s.event p g isl).wm = s.wm := State.emit_wm s _
@[simp] theorem State.event_laid (p g isl : Nat) : (s.event p g isl).laid = s.laid := State.emit_laid s _
@[simp] theorem State.event_laidChs (p g isl : Nat) : (s.event p g isl).laidChs = s.laidChs := State.emit_laidChs s _
@[simp] theorem State.event_vat (p g isl : Nat) : (s.event p g isl).vat = s.vat := State.emit_vat s _
@[simp] theorem State.event_botActive (p g isl : Nat) : (s.event p g isl).botActive = s.botActive := State.emit_botActive s _
@[simp] theorem State.event_scree (p g isl : Nat) : (s.event p g isl).scree = s.scree := State.emit_scree s _
@[simp] theorem State.event_screeChs (p g isl : Nat) : (s.event p g isl).screeChs = s.screeChs := State.emit_screeChs s _
@[simp] theorem State.event_engines (p g isl : Nat) : (s.event p g isl).engines = s.engines := State.emit_engines s _
@[simp] theorem State.event_mem (p g isl : Nat) : (s.event p g isl).mem = s.mem := State.emit_mem s _
@[simp] theorem State.event_host (p g isl : Nat) : (s.event p g isl).host = s.host := State.emit_host s _
@[simp] theorem State.event_test (p g isl : Nat) : (s.event p g isl).test = s.test := State.emit_test s _
@[simp] theorem State.event_fuses (p g isl : Nat) : (s.event p g isl).fuses = s.fuses := State.emit_fuses s _
@[simp] theorem State.event_update (p g isl : Nat) : (s.event p g isl).update = s.update := State.emit_update s _

/-! ### The register file through updates of other fields -/

theorem State.rd_congr {s t : State} (h : t.regs = s.regs) (f : Fld) (i : Nat) : t.rd f i = s.rd f i := by
  unfold State.rd State.reg
  rw [h]

theorem State.regsWf_congr {s t : State} (h : t.regs = s.regs) : t.regsWf = s.regsWf := by
  unfold State.regsWf
  rw [h]

/-- A state with other fields than the registers replaced reads the same registers. -/
@[simp] theorem State.rd_mk {pending0 latches0 locks0 hbm0 flash0 clock0 fresh0 out0 logQueue0 chief0 cfg0 links0 axes0 reel0 time0 headbox0 calender0 coefActive0 ridges0 stats0 couch0 forestActive0 keys0 layoutKeys0 layout0 kernels0 mould0 doseActive0 wm0 laid0 laidChs0 vat0 botActive0 scree0 screeChs0 engines0 mem0 host0 test0 fuses0 update0} :
    State.rd (State.mk pending0 s.regs latches0 locks0 hbm0 flash0 clock0 fresh0 out0 logQueue0 chief0 cfg0 links0 axes0 reel0 time0 headbox0 calender0 coefActive0 ridges0 stats0 couch0 forestActive0 keys0 layoutKeys0 layout0 kernels0 mould0 doseActive0 wm0 laid0 laidChs0 vat0 botActive0 scree0 screeChs0 engines0 mem0 host0 test0 fuses0 update0) f i = s.rd f i := rfl

@[simp] theorem State.regsWf_mk {pending0 latches0 locks0 hbm0 flash0 clock0 fresh0 out0 logQueue0 chief0 cfg0 links0 axes0 reel0 time0 headbox0 calender0 coefActive0 ridges0 stats0 couch0 forestActive0 keys0 layoutKeys0 layout0 kernels0 mould0 doseActive0 wm0 laid0 laidChs0 vat0 botActive0 scree0 screeChs0 engines0 mem0 host0 test0 fuses0 update0} :
    State.regsWf (State.mk pending0 s.regs latches0 locks0 hbm0 flash0 clock0 fresh0 out0 logQueue0 chief0 cfg0 links0 axes0 reel0 time0 headbox0 calender0 coefActive0 ridges0 stats0 couch0 forestActive0 keys0 layoutKeys0 layout0 kernels0 mould0 doseActive0 wm0 laid0 laidChs0 vat0 botActive0 scree0 screeChs0 engines0 mem0 host0 test0 fuses0 update0) = s.regsWf := rfl

@[simp] theorem State.rd_emit (o : Output) : (s.emit o).rd f i = s.rd f i := State.rd_congr (State.emit_regs s o) f i
@[simp] theorem State.regsWf_emit (o : Output) : (s.emit o).regsWf = s.regsWf := State.regsWf_congr (State.emit_regs s o)
@[simp] theorem State.rd_event (p g isl : Nat) : (s.event p g isl).rd f i = s.rd f i := State.rd_congr (State.event_regs s p g isl) f i
@[simp] theorem State.regsWf_event (p g isl : Nat) : (s.event p g isl).regsWf = s.regsWf := State.regsWf_congr (State.event_regs s p g isl)
@[simp] theorem State.rd_setByte (a : Nat) (b : Byte) : (s.setByte a b).rd f i = s.rd f i := State.rd_congr (State.setByte_regs s a b) f i
@[simp] theorem State.regsWf_setByte (a : Nat) (b : Byte) : (s.setByte a b).regsWf = s.regsWf := State.regsWf_congr (State.setByte_regs s a b)
@[simp] theorem State.rd_setFlashByte (a : Nat) (b : Byte) : (s.setFlashByte a b).rd f i = s.rd f i := State.rd_congr (State.setFlashByte_regs s a b) f i
@[simp] theorem State.regsWf_setFlashByte (a : Nat) (b : Byte) : (s.setFlashByte a b).regsWf = s.regsWf := State.regsWf_congr (State.setFlashByte_regs s a b)
@[simp] theorem State.rd_dropStaged (g : Fld) (j : Nat) : (s.dropStaged g j).rd f i = s.rd f i := State.rd_congr (State.dropStaged_regs s g j) f i
@[simp] theorem State.regsWf_dropStaged (g : Fld) (j : Nat) : (s.dropStaged g j).regsWf = s.regsWf := State.regsWf_congr (State.dropStaged_regs s g j)

/-- A write of a register keeps the canonical form. -/
theorem State.regsWf_setReg {s : State} (a : Nat) (w : Word) (h : s.regsWf = true) : (s.setReg a w).regsWf = true :=
  Sparse.wf_set a w h
theorem State.regsWf_wr {s : State} (f : Fld) (i v : Nat) (h : s.regsWf = true) : (s.wr f i v).regsWf = true :=
  State.regsWf_setReg _ _ h

/-! ### Fields of other registers -/

/-- The last register address of instances 0 to `n − 1`. -/
def Fld.last (f : Fld) (n : Nat) : Nat := f.base + (n - 1) / f.n2 * f.s1 + (f.n2 - 1) * f.s2 + f.off

/-- No register of instances 0 to `n − 1` of one field is one of instances 0 to `m − 1` of another: the two spans do not
meet, or the registers stand at different offsets of one layout. -/
def Fld.far (f : Fld) (n : Nat) (g : Fld) (m : Nat) : Bool :=
  0 < f.n2 && 0 < g.n2 && (f.last n < g.base + g.off || g.last m < f.base + f.off ||
    (f.base == g.base && f.s1 == g.s1 && f.s2 == 0 && g.s2 == 0 && f.n2 == g.n2 && f.off != g.off &&
      f.off < f.s1 && g.off < f.s1))

theorem Fld.addr_le_last {f : Fld} {n i : Nat} (h : i < n) (hn : 0 < f.n2) : f.addr i ≤ f.last n := by
  unfold Fld.addr Fld.last
  have h1 : i / f.n2 ≤ (n - 1) / f.n2 := Nat.div_le_div_right (by omega)
  have h2 : i % f.n2 ≤ f.n2 - 1 := by have := Nat.mod_lt i hn; omega
  have h3 := Nat.mul_le_mul_right f.s1 h1
  have h4 := Nat.mul_le_mul_right f.s2 h2
  omega

theorem Fld.le_addr (f : Fld) (i : Nat) : f.base + f.off ≤ f.addr i := by unfold Fld.addr; omega

theorem Fld.addr_ne {f g : Fld} {n m i j : Nat} (h : f.far n g m = true) (hi : i < n) (hj : j < m) :
    f.addr i ≠ g.addr j := by
  unfold Fld.far at h
  simp only [Bool.and_eq_true, Bool.or_eq_true, decide_eq_true_eq, beq_iff_eq, bne_iff_ne] at h
  obtain ⟨⟨h1, h2⟩, (h | h) | h⟩ := h
  · have := Fld.addr_le_last hi h1
    have := Fld.le_addr g j
    omega
  · have := Fld.addr_le_last hj h2
    have := Fld.le_addr f i
    omega
  · obtain ⟨⟨⟨⟨⟨⟨⟨e1, e2⟩, e3⟩, e4⟩, e5⟩, e6⟩, e7⟩, e8⟩ := h
    unfold Fld.addr
    rw [e1, e2, e3, e4, e5]
    intro e
    rw [e2] at e7 e8
    have e' : i / g.n2 * g.s1 + f.off = j / g.n2 * g.s1 + g.off := by omega
    have := congrArg (· % g.s1) e'
    rw [Nat.add_comm _ f.off, Nat.add_comm _ g.off, Nat.add_mul_mod_self_right, Nat.add_mul_mod_self_right, Nat.mod_eq_of_lt e7,
      Nat.mod_eq_of_lt e8] at this
    exact e6 this

/-- A field of another register keeps its value. -/
theorem State.rd_wr_far {s : State} {f g : Fld} {n m i j v : Nat} (h : f.far n g m = true) (hi : i < n) (hj : j < m) :
    (s.wr f i v).rd g j = s.rd g j := State.rd_wr_ne s f g i j v (Fld.addr_ne h hi hj).symm

theorem State.rd_wr_far_fin {n m : Nat} {s : State} {f g : Fld} {i : Fin n} {j : Fin m} {v : Nat}
    (h : f.far n g m = true) : (s.wr f i.val v).rd g j.val = s.rd g j.val := State.rd_wr_far h i.isLt j.isLt
theorem State.rd_wr_far_fin0 {n : Nat} {s : State} {f g : Fld} {i : Fin n} {v : Nat}
    (h : f.far n g 1 = true) : (s.wr f i.val v).rd g 0 = s.rd g 0 := State.rd_wr_far h i.isLt Nat.one_pos
theorem State.rd_wr_far_0fin {m : Nat} {s : State} {f g : Fld} {j : Fin m} {v : Nat}
    (h : f.far 1 g m = true) : (s.wr f 0 v).rd g j.val = s.rd g j.val := State.rd_wr_far h Nat.one_pos j.isLt
theorem State.rd_wr_far_00 {s : State} {f g : Fld} {v : Nat}
    (h : f.far 1 g 1 = true) : (s.wr f 0 v).rd g 0 = s.rd g 0 := State.rd_wr_far h Nat.one_pos Nat.one_pos

end Sys2Proof.Machine
end

