-- ==== Sys2Proof/Laws/Ops.lean ====
section
/-! SUPPORT. What the shared operations do and leave alone: counters, the event log, interrupts, reports of host
commands, folds. -/

namespace Sys2Proof.Machine

variable {s : State}

/-! ### Fields after a write -/

theorem State.rd_up_self {f : Fld} {i : Nat} (hf : f.fits) (hw : 0 < f.width) :
    (s.up f i).rd f i = 1 := by
  unfold State.up
  rw [State.rd_wr_self _ f i 1 hf]
  exact Nat.mod_eq_of_lt (Nat.one_lt_two_pow (by omega))

theorem State.rd_down_self {f : Fld} {i : Nat} (hf : f.fits) : (s.down f i).rd f i = 0 := by
  unfold State.down
  rw [State.rd_wr_self _ f i 0 hf, Nat.zero_mod]

/-- A saturating counter never passes its field's largest value. -/
theorem satAdd_lt (w a b : Nat) (h : 0 < w) : satAdd w a b < 2 ^ w := by
  unfold satAdd
  have := Nat.two_pow_pos w
  omega

theorem State.rd_count_self {f : Fld} {i n : Nat} (hf : f.fits) (hw : 0 < f.width) :
    (s.count f i n).rd f i = satAdd f.width (s.rd f i) n := by
  unfold State.count
  rw [State.rd_wr_self _ f i _ hf]
  exact Nat.mod_eq_of_lt (satAdd_lt _ _ _ hw)

theorem State.flag_up_self {f : Fld} {i : Nat} (hf : f.fits) (hw : 0 < f.width) :
    (s.up f i).flag f i = true := by
  unfold State.flag
  rw [State.rd_up_self hf hw]
  rfl

theorem State.flag_wr_self {f : Fld} {i v : Nat} (hf : f.fits) :
    (s.wr f i v).flag f i = (v % 2 ^ f.width != 0) := by
  unfold State.flag
  rw [State.rd_wr_self _ f i v hf]

/-- A 64-bit pair reads back as written. -/
theorem State.rd64_wr64_self {lo hi : Fld} {i v : Nat} (h1 : lo.fits) (h2 : hi.fits)
    (w1 : lo.width = 32) (w2 : hi.width = 32) (hv : v < 2 ^ 64) (hn : lo.addr i ≠ hi.addr i) :
    (s.wr64 lo hi i v).rd64 lo hi i = v := by
  unfold State.wr64 State.rd64
  rw [State.rd_wr_self _ hi i _ h2, State.rd_wr_ne _ hi lo i i _ hn,
    State.rd_wr_self _ lo i _ h1, w1, w2]
  omega

/-! ### Reading past an operation -/

/-- A state that reads field `g` at `j` as another does. -/
def sameRd (g : Fld) (j : Nat) (s t : State) : Prop := t.rd g j = s.rd g j

theorem sameRd.refl {g : Fld} {j : Nat} : sameRd g j s s := rfl
theorem sameRd.trans {g : Fld} {j : Nat} {t u : State} (h : sameRd g j s t) (k : sameRd g j t u) : sameRd g j s u :=
  Eq.trans k h

theorem forN_sameRd {g : Fld} {j n : Nat} {f : Nat → State → State}
    (h : ∀ (k : Nat) (t : State), k < n → sameRd g j t (f k t)) : sameRd g j s (forN n f s) := by
  unfold forN
  have : ∀ (l : List Nat) (t : State), (∀ k ∈ l, k < n) → sameRd g j t (l.foldl (fun s k => f k s) t) := by
    intro l
    induction l with
    | nil => intro t _; rfl
    | cons k l ih =>
      intro t hl
      exact (h k t (hl k (List.mem_cons_self ..))).trans (ih _ (fun x hx => hl x (List.mem_cons_of_mem _ hx)))
  exact this _ s (fun k hk => List.mem_range.1 hk)

theorem forAll_sameRd {α : Type} {g : Fld} {j : Nat} {l : List α} {f : α → State → State}
    (h : ∀ (a : α) (t : State), a ∈ l → sameRd g j t (f a t)) : sameRd g j s (forAll l f s) := by
  unfold forAll
  induction l generalizing s with
  | nil => rfl
  | cons a l ih =>
    exact (h a s (List.mem_cons_self ..)).trans (ih (fun b t hb => h b t (List.mem_cons_of_mem _ hb)))

/-- A fold of an operation that keeps a view of the state keeps it. -/
theorem forN_view {α : Type} {n : Nat} (v : State → α) {f : Nat → State → State}
    (h : ∀ (k : Nat) (t : State), v (f k t) = v t) : v (forN n f s) = v s := by
  unfold forN
  induction List.range n generalizing s with
  | nil => rfl
  | cons k l ih => exact (ih (s := f k s)).trans (h k s)

theorem forAll_view {α β : Type} {l : List β} (v : State → α) {f : β → State → State}
    (h : ∀ (b : β) (t : State), v (f b t) = v t) : v (forAll l f s) = v s := by
  unfold forAll
  induction l generalizing s with
  | nil => rfl
  | cons b l ih => exact (ih (s := f b s)).trans (h b s)

/-! ### The event log and interrupts -/

theorem State.rd_log {code isl status : Nat} {args : List Nat} (g : Fld) (j : Nat)
    (h : F.chiefLogLost_count.addr 0 ≠ g.addr j) : (s.log code isl status args).rd g j = s.rd g j := by
  unfold State.log
  split
  · rfl
  · exact State.rd_wr_ne s _ g 0 j _ h.symm

theorem State.rd_irq {v : Nat} (g : Fld) (j : Nat) (h : F.msixPba_pending.addr (v / 32) ≠ g.addr j) :
    (s.irq v).rd g j = s.rd g j := by
  unfold State.irq
  split
  · exact State.rd_wr_ne s _ g _ j _ h.symm
  · exact State.rd_emit s _ _ _

/-- The log takes the entry while it has room (R546). -/
theorem State.log_queue {code isl status : Nat} {args : List Nat} (h : s.logQueue.length < 16) :
    (s.log code isl status args).logQueue = s.logQueue ++ [LogEntry.mk code isl status args s.ns] := by
  unfold State.log
  rw [if_pos h]

/-! ### Outputs that stay in the package -/

/-- An event reaches Cairn (R481, R484). -/
theorem State.event_out (p g isl : Nat) : (s.event p g isl).out = s.out ++ [.cairn p (min g 8) isl] := by
  unfold State.event State.emit
  simp [Output.leaves]

/-- An output that does not leave the package is made whatever the pins do (R53). -/
theorem State.emit_out {o : Output} (h : o.leaves = false) : (s.emit o).out = s.out ++ [o] := by
  unfold State.emit
  simp [h]

/-- An output that leaves the package is made unless every output is high impedance (R53, R554). -/
theorem State.emit_out_driven {o : Output} (h : s.chief.tristate = false) : (s.emit o).out = s.out ++ [o] := by
  unfold State.emit
  simp [h]

/-! ### Host commands -/

/-- The report a command's controller makes, where it has not timed out (R457, R458). -/
theorem State.finish_reports {c : CmdRef} {op st info : Nat}
    (h : s.host.timedOut.any (fun t => t.cseq == c.cseq && t.stream == streamOf c) = false) :
    (s.finish c op st info).host.reports =
      s.host.reports ++ [Report.mk c.cseq op st info 0 ((s.findCmd c).any (·.intr)) true (streamOf c)] := by
  unfold State.finish State.report
  simp only [h, Bool.false_eq_true, if_false]
  rfl

end Sys2Proof.Machine
end

