-- ==== Sys2Proof/WellFormed.lean ====
section
/-! DEFINITION. Which commands a sender can send: operands whose type is wider than what the hardware can bring are held to
their ranges and lengths. -/

namespace Sys2Proof

/-- No value twice. -/
def distinct : List Nat → Bool
  | [] => true
  | x :: t => !t.contains x && distinct t

/-- A CSEQ is 32 bits (R454). -/
def CmdRef.ok (c : CmdRef) : Bool := decide (c.cseq < 2 ^ 32)

/-- The fields of a fail-log entry hold a failing read (R506): march elements 1 to 6, 24 address bits. -/
def MemFail.ok (f : MemFail) : Bool :=
  decide (f.isl < 256 ∧ f.array < 256 ∧ f.addr < 2 ^ 24 ∧ f.bit < 65536 ∧ 1 ≤ f.element ∧ f.element ≤ 6)

/-- Two spares of each kind in a sub-array (R507). -/
def BadSpare.ok (b : BadSpare) : Bool := decide (b.isl < 256 ∧ b.array < 256 ∧ b.sub < 65536 ∧ b.spare < 2)

/-- A unit of HBM (R429). -/
def HbmRowFail.ok (f : HbmRowFail) : Bool := decide (f.unit < Config.hbmBytes) && f.unit % 64 == 0

/-- Element and code are 16 bits in the health record (R509). -/
def CalResult.ok (r : CalResult) : Bool := decide (r.element < 65536 ∧ r.code < 65536)

/-- A corrected bit lies in the 512 of a unit (R441). -/
def UnitOutcome.ok_ : UnitOutcome → Bool
  | .corrected b => decide (b < 512)
  | .ok | .dramCorrected | .uncorrectable => true

/-- A command a sender can send. -/
def Instr.wellFormed : Instr → Bool
  | .registerWrite _ _ _ => true
  | .rcRead _ _ => true
  | .pairLoRead _ => true
  | .accessTimeout _ _ => true
  | .mailboxApply _ => true
  | .stewardHeartbeatMiss _ => true
  | .stewardRestartDone _ => true
  | .stewardAnswer _ _ => true
  | .jointAnswerTimeout => true
  | .jointTargetTimeout => true
  | .agentApplied => true
  | .clockMonitorSample khz => distinct (khz.map (·.1.toNat))
  | .setMode cmd _ _ => cmd.ok
  | .modeDrainDone => true
  | .drainCut => true
  | .park cmd => cmd.ok
  | .parkStepDone _ _ fails badSpares => fails.all MemFail.ok && badSpares.all BadSpare.ok
  | .parkStatus cmd => cmd.ok
  | .resetDevice cmd => cmd.ok
  | .powerOnReset _ _ => true
  | .standbyOff => true
  | .mainPowerUp => true
  | .mainPowerDown => true
  | .mainDischargeDone => true
  | .resetNFall => true
  | .pinReset => true
  | .resetNRise _ => true
  | .watchdogService => true
  | .watchdogReset => true
  | .hostReset _ _ => true
  | .startupPhaseEnd _ memFails badSpares results rowFails _ => memFails.all MemFail.ok && badSpares.all BadSpare.ok && results.all CalResult.ok && rowFails.all HbmRowFail.ok
  | .bootTimeout => true
  | .loadImage cmd _ _ => cmd.ok
  | .loadImageDone => true
  | .claim cmd _ _ => cmd.ok
  | .release cmd _ => cmd.ok
  | .laneBlockRx _ _ _ _ => true
  | .cdrLock _ _ _ => true
  | .cdrLost _ => true
  | .cdrAcqTimeout _ => true
  | .laneRelock _ => true
  | .alignTx _ _ => true
  | .laneTxDelayWrite _ _ => true
  | .tapSlewStep _ => true
  | .laneProbeStart _ _ => true
  | .probeTx _ => true
  | .echoRx _ _ _ taps => decide (taps < 2 ^ 32)
  | .probeWindowEnd _ => true
  | .probeRx _ _ => true
  | .creditRx _ _ _ => true
  | .creditTx _ => true
  | .marginStart _ _ => true
  | .marginDone _ errors => decide (errors < 2 ^ 32)
  | .prbsInject _ => true
  | .prbsClear _ => true
  | .axisFilteredChange _ _ => true
  | .axisArm _ => true
  | .serialFrameStart _ => true
  | .serialFrameDone _ _ _ => true
  | .reelMeasurement => true
  | .reelStopTimeout => true
  | .reelTick => true
  | .reelBacklogRelease => true
  | .reelForwardWrite _ => true
  | .reelPosSet _ => true
  | .reelAdjust _ => true
  | .reelCapture _ => true
  | .reelCapturePop _ => true
  | .schedEnable _ _ => true
  | .schedFire _ => true
  | .schedArmEvent _ _ => true
  | .syncSampleTx _ => true
  | .syncSampleRx _ _ _ _ _ => true
  | .followLost => true
  | .followCoastEnd => true
  | .timeIncWrite _ => true
  | .timeSlewStart _ => true
  | .timeSlewEnd => true
  | .timeStep _ => true
  | .timeBaseCommit _ => true
  | .baseStale => true
  | .comparatorArm _ _ => true
  | .comparatorFire _ => true
  | .pulseArm _ _ => true
  | .pulseStart _ => true
  | .pulseEnd _ => true
  | .pulseStartEvent _ => true
  | .pulseStopEvent _ => true
  | .timeCapture _ => true
  | .timeCapturePop _ => true
  | .ppsInEdge _ => true
  | .ppsOutSecond => true
  | .ppsOutWidthEnd => true
  | .macFrameRx _ frame _ _ fecCorrected fecUncorrected => decide (frame.length ≤ 16384 ∧ fecCorrected < 2 ^ 32 ∧ fecUncorrected < 2 ^ 32)
  | .ethLinkDown _ => true
  | .macTsPop _ => true
  | .templateValid _ _ => true
  | .streamDatagramTx _ => true
  | .streamFlushTimeout _ => true
  | .creditDatagramTx _ => true
  | .lineStartRx _ _ _ _ => true
  | .lineEndRx _ _ _ _ => true
  | .lineTimeout _ _ _ => true
  | .frameStartRx _ _ _ => true
  | .frameEndRx _ _ _ => true
  | .camCtrlGo _ _ => true
  | .camAckRx _ _ _ _ _ _ => true
  | .camCtrlTimeout _ => true
  | .camStatusRx _ _ _ _ _ _ => true
  | .camSilent _ _ => true
  | .rateMeasure _ => true
  | .calLine _ upset => distinct (upset.map (·.val))
  | .calCommit _ => true
  | .calDiscard _ => true
  | .calBankCopyDone _ => true
  | .ridgePortLineArrive _ => true
  | .memPathBurst _ => true
  | .ridgeLineBoundary _ _ => true
  | .rotationStepStart _ => true
  | .rotNow _ => true
  | .rotationEvent _ _ => true
  | .spurCopyDone _ => true
  | .spurIsolated _ => true
  | .spurSliceDone _ _ _ => true
  | .sliceBudgetExpiry _ => true
  | .spurReinitDone _ _ => true
  | .couchIntake _ => true
  | .seamWaitTimeout _ _ => true
  | .classifyDone => true
  | .markerFireSeen _ => true
  | .statsBlock _ => true
  | .statsArm _ => true
  | .layoutSubmit _ => true
  | .layoutStagedEnqueue => true
  | .layoutJobStart => true
  | .layoutDecryptStart => true
  | .layoutJobVerified => true
  | .layoutResultPop => true
  | .stripeReset => true
  | .mouldBandStart => true
  | .mouldBandDone => true
  | .wmBandCheck _ => true
  | .wmReleaseStart _ => true
  | .wmBandReleased _ => true
  | .wmBandDeadline _ => true
  | .laidArm => true
  | .laidArmEvent _ => true
  | .laidDisarm => true
  | .laidShotTick corrected _ _ => decide (corrected ≤ 4608)
  | .warnArrive => true
  | .critArrive => true
  | .interlock _ => true
  | .drvStatusRx _ _ _ _ _ => true
  | .drvStatusTimeout _ => true
  | .screeDctlGo _ => true
  | .drvCtrlSend => true
  | .drvAckRx _ => true
  | .drvCtrlTimeout _ _ => true
  | .measCycleStart => true
  | .measNow => true
  | .measEvent _ => true
  | .measDeferExpiry _ => true
  | .idleMeasRx _ => true
  | .measCycleComplete => true
  | .measTimeout => true
  | .tableRebuildDone => true
  | .screeCommit => true
  | .screeCommitEvent => true
  | .screeCopyDone => true
  | .screeWarnClear => true
  | .critClear => true
  | .reamJobStart _ => true
  | .reamRingTail _ _ => true
  | .reamRingSize _ _ => true
  | .reamHostOverdue _ => true
  | .reamHoldRelease _ _ => true
  | .reamJobDone _ _ => true
  | .hbmRequest _ addr write data len => decide (1 ≤ len ∧ addr + len ≤ Config.hbmBytes) && (if write then data.length == len else data.isEmpty)
  | .hbmResponse _ outcome => outcome.ok_
  | .hbmParityAlert _ _ => true
  | .hbmScrubRow _ found => found.all (fun e => decide (e.1 < Config.hbmBytes) && e.2.ok_)
  | .scrubDeferExpiry _ => true
  | .hbmTempRead _ _ => true
  | .hbmRefresh _ _ => true
  | .srIdleExpiry _ => true
  | .srExitDone _ => true
  | .srExitTimeout _ => true
  | .bar2Access _ write data len => decide (1 ≤ len ∧ len ≤ 4096) && (if write then data.length == len else data.isEmpty)
  | .hbmSetSpeed cmd _ => cmd.ok
  | .hbmRetrain cmd => cmd.ok
  | .hbmSetPolicy cmd _ _ => cmd.ok
  | .hostCmdTail _ => true
  | .cmdEnSet => true
  | .cmdFetch => true
  | .nop cmd => cmd.ok
  | .cmdComplete cmd => cmd.ok
  | .cmdLimitTimeout cmd => cmd.ok
  | .ringEnable _ => true
  | .ringConsWrite _ _ => true
  | .ringEntryWrite _ => true
  | .ringModTimeout _ => true
  | .hostTxTail _ => true
  | .txFrameSend _ => true
  | .digestSnap => true
  | .digestDone => true
  | .dmaStart _ => true
  | .dmaStartEvent _ _ => true
  | .dmaAbort _ => true
  | .dmaDescFetch _ data => data.isEmpty || data.length == 64
  | .dmaDescComplete _ => true
  | .dmaBusError _ => true
  | .d3hotEntry => true
  | .cairnEvent events => decide (events.length ≤ 224)
  | .cairnOverrunReport _ _ => true
  | .cairnEnableWrite _ _ _ _ _ => true
  | .cairnIrqConsumer _ => true
  | .evioInputEdge _ _ => true
  | .evioOutActivate _ => true
  | .evioPulseEnd _ => true
  | .testLogic cmd _ _ _ _ _ => cmd.ok
  | .testMemory cmd _ _ fails badSpares => cmd.ok && fails.all MemFail.ok && badSpares.all BadSpare.ok
  | .testHbm cmd fails => cmd.ok && fails.all HbmRowFail.ok
  | .calibrate cmd results => cmd.ok && results.all CalResult.ok
  | .calSet cmd _ => cmd.ok
  | .thermSet cmd _ _ => cmd.ok
  | .testLogClear cmd => cmd.ok
  | .logicSliceDone _ _ _ => true
  | .logicSliceBudget _ _ => true
  | .jtagInstruction _ _ _ => true
  | .recalTimer results => results.all CalResult.ok
  | .recalDeferExpiry results => results.all CalResult.ok
  | .thermalSample temps => temps.length == 16
  | .supplySample _ _ => true
  | .updateBegin cmd _ _ => cmd.ok
  | .updateStatus cmd => cmd.ok
  | .updateData cmd _ data => cmd.ok && decide (data.length ≤ 8192)
  | .updateAbort cmd => cmd.ok
  | .updateActivate cmd => cmd.ok
  | .updateStaged _ _ => true
  | .updateDataTimeout => true
  | .updateStageTimeout => true
  | .activationDone => true
  | .keyLoad cmd _ => cmd.ok
  | .keyStatus cmd => cmd.ok
  | .attest cmd _ _ _ => cmd.ok
  | .fuseSet cmd _ _ _ _ => cmd.ok
  | .mgmtHello cmd _ => cmd.ok
  | .cairnSecure cmd _ _ _ => cmd.ok
  | .keyslotRestore failed => distinct (failed.map (·.val))
  | .smbusStatusRead _ => true
  | .smbusPowerRead _ => true
  | .smbusReset _ => true
  | .eventLogEntry => true
  | .refclkChange _ _ => true
  | .prbsCheck _ errors => decide (errors.length ≤ 64)
  | .ethLinkUp _ => true
  | .pcieLinkUp _ _ => true
  | .d0Return => true
  | .flrComplete => true
  | .hbmCommandSlot _ => true
  | .pcieCompletionRx _ data => decide (data.length ≤ Config.maxReadRequest)
  | .dmaPiece => true
  | .dmaPieceDeferExpiry _ => true
  | .recoveryReady => true
  | .deviceReset => true
  | .intervalOscillatorDrift _ => true

end Sys2Proof
end

