-- ==== Sys2Proof/Tests/Slice0.lean ====
section
/-! SUPPORT. The tests: an ill-formed term for each check of WellFormed, published values, and for every statement that has
hypotheses one theorem that shows, for each of its clauses, a state and operands that meet all of them together. -/

open Sys2Proof Sys2Proof.Machine
namespace Sys2Proof.Tests

-- One theorem at a time: each kernel evaluation holds a thread with a deep stack.
set_option Elab.async false

/-! An ill-formed term for each check of `Instr.wellFormed`, refused by it. -/

/-- A CSEQ above 32 bits (R454), in every command that carries one. -/
def bad : CmdRef := ⟨2 ^ 32, none⟩

theorem test_wf_cseq :
    ([.setMode bad 0 false, .park bad, .parkStatus bad, .resetDevice bad, .loadImage bad 0 0, .claim bad 0 0,
      .release bad 0, .hbmSetSpeed bad 0, .hbmRetrain bad, .hbmSetPolicy bad 0 0, .nop bad, .cmdComplete bad,
      .cmdLimitTimeout bad, .testLogic bad 0 0 0 0 false, .testMemory bad 0 false [] [], .testHbm bad [],
      .calibrate bad [], .calSet bad 0, .thermSet bad 0 0, .testLogClear bad, .updateBegin bad 0 0, .updateStatus bad,
      .updateData bad 0 [], .updateAbort bad, .updateActivate bad, .keyLoad bad 0, .keyStatus bad, .attest bad 0 0 0,
      .fuseSet bad 0 0 0 0, .mgmtHello bad 0, .cairnSecure bad 0 0 0] : List Instr).any Instr.wellFormed = false := by
  decide
theorem test_wf_cseq_good : (Instr.nop ⟨2 ^ 32 - 1, some 7⟩).wellFormed = true := by decide

theorem test_wf_clockMonitorSample : (Instr.clockMonitorSample [(8, 500), (8, 501)]).wellFormed = false := by decide
theorem test_wf_echoRx : (Instr.echoRx 0 0 0 (2 ^ 32)).wellFormed = false := by decide
theorem test_wf_marginDone : (Instr.marginDone 0 (2 ^ 32)).wellFormed = false := by decide
theorem test_wf_macFrameRx_length : (Instr.macFrameRx 0 (List.replicate 16385 0) true 0 0 0).wellFormed = false := by
  decide +kernel
theorem test_wf_macFrameRx_fec : (Instr.macFrameRx 0 [] true 0 (2 ^ 32) 0).wellFormed = false ∧
    (Instr.macFrameRx 0 [] true 0 0 (2 ^ 32)).wellFormed = false := by decide
theorem test_wf_calLine : (Instr.calLine 0 [5, 9, 5]).wellFormed = false := by decide +kernel
theorem test_wf_laidShotTick : (Instr.laidShotTick 4609 [] []).wellFormed = false := by decide
theorem test_wf_thermalSample : (Instr.thermalSample (List.replicate 15 none)).wellFormed = false := by decide
theorem test_wf_cairnEvent : (Instr.cairnEvent (List.replicate 225 ⟨0, 0, 0⟩)).wellFormed = false := by decide +kernel
theorem test_wf_updateData : (Instr.updateData ⟨0, none⟩ 0 (List.replicate 8193 0)).wellFormed = false := by
  decide +kernel
theorem test_wf_keyslotRestore : (Instr.keyslotRestore [3, 3]).wellFormed = false := by decide
theorem test_wf_prbsCheck : (Instr.prbsCheck 0 (List.replicate 65 false)).wellFormed = false := by decide
theorem test_wf_dmaDescFetch : (Instr.dmaDescFetch 0 [1]).wellFormed = false := by decide
theorem test_wf_pcieCompletionRx : (Instr.pcieCompletionRx 0 (List.replicate 513 0)).wellFormed = false := by
  decide +kernel

/-- A unit outcome: a corrected bit outside the unit (R441); a unit outside the HBM. -/
theorem test_wf_hbmResponse : (Instr.hbmResponse 0 (.corrected 512)).wellFormed = false := by decide
theorem test_wf_hbmScrubRow : (Instr.hbmScrubRow 0 [(Config.hbmBytes, .ok)]).wellFormed = false ∧
    (Instr.hbmScrubRow 0 [(0, .corrected 512)]).wellFormed = false := by decide

/-- Accesses: no byte, beyond the end, a length that is not the data's, data with a read. -/
theorem test_wf_hbmRequest :
    ([.hbmRequest 0 0 false [] 0, .hbmRequest 0 Config.hbmBytes false [] 1, .hbmRequest 0 0 true [1] 2,
      .hbmRequest 0 0 false [1] 1] : List Instr).any Instr.wellFormed = false := by decide
theorem test_wf_bar2Access :
    ([.bar2Access 0 false [] 0, .bar2Access 0 false [] 4097, .bar2Access 0 true [1] 2,
      .bar2Access 0 false [1] 1] : List Instr).any Instr.wellFormed = false := by decide

/-- What a memory test reports (R506, R507): march elements are 1 to 6, the fields fit the fail log, and a sub-array has
two spares of each kind. -/
theorem test_wf_memFail : ([⟨256, 0, 0, 0, false, 1, false⟩, ⟨0, 256, 0, 0, false, 1, false⟩, ⟨0, 0, 2 ^ 24, 0, false, 1, false⟩,
    ⟨0, 0, 0, 65536, false, 1, false⟩, ⟨0, 0, 0, 0, false, 0, false⟩, ⟨0, 0, 0, 0, false, 7, false⟩] : List MemFail).any
    MemFail.ok = false := by decide
theorem test_wf_badSpare : ([⟨256, 0, 0, false, 0⟩, ⟨0, 256, 0, false, 0⟩, ⟨0, 0, 65536, false, 0⟩, ⟨0, 0, 0, false, 2⟩] :
    List BadSpare).any BadSpare.ok = false := by decide
theorem test_wf_memory_tests :
    ([.parkStepDone false false [⟨0, 0, 0, 0, false, 7, false⟩] [], .parkStepDone false false [] [⟨0, 0, 0, false, 2⟩],
      .testMemory ⟨0, none⟩ 0 false [⟨0, 0, 0, 0, false, 7, false⟩] [], .testMemory ⟨0, none⟩ 0 false [] [⟨0, 0, 0, false, 2⟩],
      .startupPhaseEnd false [⟨0, 0, 0, 0, false, 7, false⟩] [] [] [] false,
      .startupPhaseEnd false [] [⟨0, 0, 0, false, 2⟩] [] [] false] : List Instr).any Instr.wellFormed = false := by decide

/-- What an HBM test and a calibration report (R508, R509, R511): a row's first unit, 64-byte aligned and in the HBM; an
element and a code of 16 bits. -/
theorem test_wf_hbm_and_calibration :
    ([.testHbm ⟨0, none⟩ [⟨32, false⟩], .testHbm ⟨0, none⟩ [⟨Config.hbmBytes, false⟩],
      .startupPhaseEnd false [] [] [] [⟨32, false⟩] false, .startupPhaseEnd false [] [] [⟨65536, .tap, none, 0, false⟩] [] false,
      .calibrate ⟨0, none⟩ [⟨65536, .tap, none, 0, false⟩], .calibrate ⟨0, none⟩ [⟨0, .tap, none, 65536, false⟩],
      .recalTimer [⟨0, .tap, none, 65536, false⟩], .recalDeferExpiry [⟨0, .tap, none, 65536, false⟩]] :
      List Instr).any Instr.wellFormed = false := by decide

/-! Single steps and published values. -/

/-- FIPS 180-4's one-block example for SHA-384: "abc". -/
theorem test_sha384_abc : sha384 [0x61, 0x62, 0x63] =
    0xCB00753F45A35E8BB5A03D699AC65007272C32AB0EDED1631A8B605A43FF5BED8086072BA1E7CC2358BAECA134C825A7 := by decide +kernel

/-- The check value of CRC-32C: the digits "123456789". -/
theorem test_crc32c_digits : crc32c ((List.range 9).map (fun i => BitVec.ofNat 8 (0x31 + i))) = 0xE3069283 := by decide +kernel

/-- An empty queue idles. -/
theorem test_step_idle : ∀ t, Machine.step State.reset = .next t → t.pending = [] := fun _ h => by
  cases h; rfl

/-! Builders for the witnesses. -/

/-- The state right after reset with fields written: field, instance, value. -/
def ini (l : List (Fld × Nat × Nat)) : State := l.foldl (fun s e => s.wr e.1 e.2.1 e.2.2) State.reset

/-- The bytes of HBM when one string has been written. -/
@[irreducible] def cells (a : Nat) (b : Bytes) : List Host.Cell := (State.reset.setBytes a b).hbm

theorem clean : State.reset.noneBad = true := by decide +kernel

theorem bytes_cells {s : State} {a n : Nat} {b : Bytes} (h : s.hbm = cells a b) (hn : n ≤ b.length) :
    s.bytes a n = b.take n := by
  rw [← State.bytes_setBytes_take State.reset a b hn]
  exact State.bytes_congr (fun c _ _ => by simp only [State.byte, h, cells])

theorem bytes_all {s : State} {n : Nat} (a : Nat) (b : Bytes) (h : s.hbm = cells a b) (hl : b.length = n) :
    s.bytes a n = b := by
  rw [bytes_cells h (by omega), ← hl, List.take_length]

/-- A host command of the ring, and one of management stream 7. -/
def ring : CmdRef := ⟨2 ^ 32 - 1, none⟩
def net : CmdRef := ⟨2 ^ 32 - 1, some 7⟩

/-! The least INSPECT image (R68, R71, R72, R432): header, BANK with three banks, HBM_PLAN with the four regions every
INSPECT plan holds, END, trailer. -/
def banks : Bytes := ofNats [0, 1, 0, 0, 1, 1, 0, 0, 2, 1, 0, 0]
def plan : Bytes := ofNats [0, 255] ++ zeros 30 ++
  [5, 2, 3, 4].flatMap (fun k => ofNats [k, k] ++ zeros 6 ++ leBytes 8 (k * 2 ^ 20) ++ leBytes 8 (2 ^ 20) ++ zeros 8)
def record (type crc : Nat) (p : Bytes) : Bytes :=
  leBytes 2 type ++ zeros 2 ++ leBytes 4 p.length ++ zeros 4 ++ leBytes 4 crc ++ p
def image : Bytes :=
  ofNats [0x4B, 0x41, 0x4C, 0x52, 3, 0, 2, 1, 0xB0, 0, 0, 0] ++ leBytes 4 500 ++ leBytes 4 3 ++ leBytes 4 128 ++ zeros 28 ++
  leBytes 4 0xBBDF4FB7 ++ zeros 72 ++ record 1 0x8708A28C banks ++ record 5 0xC8A62783 plan ++ record 255 0 [] ++
  beBytes 48 0x8404110BEF5141075DCA94EDDF45BCBCD41647A7AFC83B40EFBE31A85ACE91039574C8DB64EB5312FEC75B187D3ABE93 ++ zeros 104
def imageRecs : List ImgRec :=
  [⟨Rt.bank, false, 0, banks, 128⟩, ⟨Rt.hbmPlan, false, 0, plan, 156⟩, ⟨Rt.end_, false, 0, [], 332⟩]

/-- An image in HBM that passes its checks is read as that image. -/
theorem checkHbm_cells {s : State} {a n : Nat} {b : Bytes} {img : Image} (hb : s.noneBad = true) (h : s.hbm = cells a b)
    (hl : b.length = n) (hn : 296 ≤ n) (ht : leAt (b.take headerLen) 12 4 = n)
    (hh : headerFault (b.take headerLen) n s.steppingFuse = none) (hc : (s.containerCheck b).toOption = some img) :
    (s.checkHbm a n).toOption = some img := by
  have h1 : s.bytes a headerLen = b.take headerLen := bytes_cells h (by simp [headerLen]; omega)
  have h2 : s.bytes a n = b := by rw [bytes_cells h (by omega), ← hl, List.take_length]
  have h3 : min n headerLen = headerLen := by simp [headerLen]; omega
  simp only [State.checkHbm, h3, State.firstBad_of_noneBad hb, h1, hh, ht, h2, if_neg (Nat.not_lt.2 hn), hc]

/-! A manifest of six parts (R519, R520), five of one byte and the image, 4096 bytes apart: in HBM from 2³⁰ on, and in
bank 1 of the flash. -/
def part (t : Nat) : Bytes := if t = 6 then image else leBytes 1 t
def digest (t : Nat) : Nat := [0,
  0x8D2CE87D86F55FCFAB770A047B090DA23270FA206832DFEA7E0C946FFF451F819ADD242374BE551B0D6318ED6C7D41D8,
  0xDB475240477C5E4497A2C5724CA485F5B1F2C2FC0602B92BAE234238EC8D4E873A7148C739593E95A7F4DFE7C6E69F69,
  0x8A6C69AF6FB6247635F837958446FB8F10E39BD5FBC244F7E635176339A3BE614F6394247F01DBE1126C178C7BD48CB5,
  0xE912B65EBB17B1C5D5E13FC7679CBCC56D75D9EC59EAC3030186C199BD68B99C7272830C3348EDFE8130EA3C02C33FCB,
  0x598D26BEE77A583A7A57BF1CBFC861FB9D8542DDE4A868ADA4AFF5D0FB93AAB41DE37CAD129159412FFCACDCEF933272,
  0x19E872A79FD45F125055EC92E092A6F1033A7CAD70EA19350F5BF836483121586CBE7C413B9E93EAB5F3A5E2A3AA1A6A].getD t 0
def manifest : Bytes := zeros 8 ++ leBytes 4 9 ++ zeros 116 ++ [1, 2, 3, 4, 5, 6].flatMap (fun t =>
  leBytes 4 t ++ leBytes 4 (4096 * t) ++ leBytes 4 (part t).length ++ zeros 4 ++ beBytes 48 (digest t) ++ zeros 96) ++
  zeros 152
def package : State :=
  ([1, 2, 3, 4, 5].foldl (fun s t => s.setBytes (2 ^ 30 + 4096 * t) (part t)) State.reset).setBytes (2 ^ 30 + 24576) image
def bank : State :=
  (([1, 2, 3, 4, 5].foldl (fun s t => s.setFlashBytes (bankBase 1 + 4096 * t) (part t)) State.reset).setFlashBytes
    (bankBase 1) manifest).setFlashBytes (bankBase 1 + 24576) image

theorem manifest_length : manifest.length = manifestLen := by decide +kernel
theorem image_length : image.length = 500 := by decide +kernel
theorem image_checks : (State.reset.containerCheck image).toOption = some (imageOf image imageRecs) := by decide +kernel

theorem package_bytes {s : State} (h : s.hbm = package.hbm) (a n : Nat) : s.bytes a n = package.bytes a n :=
  State.bytes_congr (fun c _ _ => by simp only [State.byte, h])
theorem package_image : package.bytes (2 ^ 30 + 24576) 500 = image := State.bytes_setBytes _ _ _ image_length
theorem package_part {t : Nat} (h : t < 6) (n : Nat) (hn : n ≤ 4096) : package.bytes (2 ^ 30 + 4096 * t) n =
    ([1, 2, 3, 4, 5].foldl (fun s t => s.setBytes (2 ^ 30 + 4096 * t) (part t)) State.reset).bytes (2 ^ 30 + 4096 * t) n :=
  State.bytes_setBytes_out _ _ _ (by omega)

theorem manifest_part : ∀ j < 6, partOf manifest j =
    ⟨j + 1, false, 4096 * (j + 1), (part (j + 1)).length, digest (j + 1), 0, 0⟩ := by decide +kernel

theorem part_digest : ∀ j < 6, sha384 (part (j + 1)) = digest (j + 1) := by decide +kernel

def offer : Session := { stream := none, addr := 2 ^ 30, len := 32768, got := manifest }

theorem offer_part {s : State} (h : s.hbm = package.hbm) (hb : s.noneBad = true) {j : Nat} (hj : j < 6) :
    s.partBytes offer j = some (part (j + 1)) := by
  have h5 : ∀ j < 5, ([1, 2, 3, 4, 5].foldl (fun s t => s.setBytes (2 ^ 30 + 4096 * t) (part t)) State.reset).bytes
      (2 ^ 30 + 4096 * (j + 1)) (part (j + 1)).length = part (j + 1) := by decide +kernel
  have hl : ∀ j < 6, (part (j + 1)).length ≤ 4096 := by decide +kernel
  simp only [State.partBytes, offer, manifest_part j hj, Option.isSome_none, Bool.false_eq_true, if_false,
    State.readMem_of_noneBad hb, package_bytes h]
  rcases Nat.lt_succ_iff_lt_or_eq.1 hj with h4 | rfl
  · rw [package_part (by omega) _ (hl j hj), h5 j h4]
  · have h6 : (part (5 + 1)).length = 500 := image_length
    rw [h6]
    exact congrArg some package_image

theorem offer_digests {s : State} (h : s.hbm = package.hbm) (hb : s.noneBad = true) :
    (List.range 6).all (fun j => ((s.partBytes offer j).map sha384) == some (partOf offer.got j).digest) = true := by
  simp only [List.all_eq_true, List.mem_range]
  intro j hj
  rw [offer_part h hb hj, show offer.got = manifest from rfl, manifest_part j hj]
  simp [part_digest j hj]

theorem bank_manifest {s : State} (h : s.flash = bank.flash) : s.manifest 1 = manifest := by
  have e : s.manifest 1 = bank.manifest 1 := State.flashBytes_congr (fun c _ _ => by simp only [State.flashByte, h])
  rw [e]
  exact (State.flashBytes_setFlashBytes_out _ _ _ (Or.inl (by decide +kernel))).trans
    (State.flashBytes_setFlashBytes _ _ _ manifest_length)

theorem bank_image {s : State} (h : s.flash = bank.flash) : s.flashBytes (bankBase 1 + 24576) 500 = image :=
  (State.flashBytes_congr (t := bank) (fun c _ _ => by simp only [State.flashByte, h])).trans
    (State.flashBytes_setFlashBytes _ _ _ image_length)

theorem bank_small {s : State} (h : s.flash = bank.flash) {a n : Nat} (ha : a + n ≤ bankBase 1) :
    s.flashBytes a n = State.reset.flashBytes a n := by
  have e : s.flashBytes a n = bank.flashBytes a n := State.flashBytes_congr (fun c _ _ => by simp only [State.flashByte, h])
  rw [e, bank, State.flashBytes_setFlashBytes_out _ _ _ (by omega), State.flashBytes_setFlashBytes_out _ _ _ (by omega)]
  simp only [List.foldl]
  iterate 5 rw [State.flashBytes_setFlashBytes_out _ _ _ (by omega)]

theorem bank_active {s : State} (h : s.flash = bank.flash) : s.activeBank = 0 := by
  have e : ∀ c < 2, s.dirCopy c = State.reset.dirCopy c := fun c hc => by
    simp only [State.dirCopy, bank_small h (show dirBase c + 128 ≤ bankBase 1 by simp only [dirBase, bankBase]; omega)]
  simp only [State.activeBank, State.directory, e 0 (by omega), e 1 (by omega)]
  decide +kernel

theorem bank_part {s : State} (h : s.flash = bank.flash) {j : Nat} (hj : j < 6) :
    s.flashBytes (bankBase 1 + 4096 * (j + 1)) (part (j + 1)).length = part (j + 1) := by
  have h5 : ∀ j < 5, ([1, 2, 3, 4, 5].foldl (fun s t => s.setFlashBytes (bankBase 1 + 4096 * t) (part t))
      State.reset).flashBytes (bankBase 1 + 4096 * (j + 1)) (part (j + 1)).length = part (j + 1) := by decide +kernel
  have hl : ∀ j < 5, (part (j + 1)).length ≤ 4096 := by decide +kernel
  rcases Nat.lt_succ_iff_lt_or_eq.1 hj with h4 | rfl
  · have hk := hl j h4
    have e : ∀ n, s.flashBytes (bankBase 1 + 4096 * (j + 1)) n = bank.flashBytes (bankBase 1 + 4096 * (j + 1)) n :=
      fun n => State.flashBytes_congr (fun c _ _ => by simp only [State.flashByte, h])
    rw [e, bank, State.flashBytes_setFlashBytes_out _ _ _ (by omega), State.flashBytes_setFlashBytes_out _ _ _
      (Or.inr (by rw [manifest_length]; simp only [manifestLen]; omega)), h5 j h4]
  · exact (show part (5 + 1) = image from rfl) ▸ image_length ▸ bank_image h

theorem bank_parts {s : State} (h : s.flash = bank.flash) :
    (List.range 6).find? (fun i => !s.bankPartOk (1 - s.activeBank) i) = none := by
  simp only [List.find?_eq_none, List.mem_range, bank_active h]
  intro j hj
  simp only [State.bankPartOk, bank_manifest h, manifest_part j hj, bank_part h hj, part_digest j hj]
  simp

theorem manifest_image : partOfType manifest 6 = some (5, partOf manifest 5) := by
  have p : partsOf manifest = [0, 1, 2, 3, 4, 5].map (partOf manifest) := rfl
  simp [partOfType, p, manifest_part, indexed, List.range, List.range.loop]

/-- Neither an empty package nor the erased bank 0 names an image. -/
theorem bank_no_image {s : State} (h : s.flash = bank.flash) :
    (partOfType [] 6).map (·.2.digest) = (partOfType (s.manifest 0) 6).map (·.2.digest) := by
  have e : s.manifest 0 = State.reset.manifest 0 := bank_small h (by decide)
  rw [e]
  decide +kernel

theorem bank_checks {s : State} (h : s.flash = bank.flash) (hc : (s.checkBytes image).toOption = some (imageOf image imageRecs)) :
    (s.checkBytes (s.bankImage (1 - s.activeBank))).toOption = some (imageOf image imageRecs) := by
  have hl : (part (5 + 1)).length = 500 := image_length
  simp only [State.bankImage, bank_active h, bank_manifest h, manifest_image, manifest_part 5 (by omega), hl]
  rw [bank_image h, hc]

/-- A key blob in HBM. -/
def withBlob : State :=
  { ini [(F.chiefMode_mode, 0, 1)] with hbm := cells 64 (ofNats [0x43, 0x4B, 0x45, 0x59, 2, 15, 0, 0] ++ zeros 104 ++ beBytes 96 (p384Bytes (some p384G)) ++ leBytes 4 (2 ^ 32 - 1) ++ zeros 100) }

/-- A signed fuse order in HBM, and the provisioning key that signed it. -/
def withFuseOrder : State :=
  { ini [(F.chiefMode_mode, 0, 4)] with keys := [(15, ⟨3, 0xb93ff39def904f346ace4c27b51ffdd8b413664d2c33d9ef3960700c763902140b5f739c6039673a954c01d773b59fd7cc5d66e992d87d21c9ad194f461766fa36e11aafd053564e7eca724a4d8b67b67bcb8010edf2312494763cdff6e256ff⟩)], hbm := cells 64 (beBytes 48 0xb7eec2dc1930bfaa56c9157101e22ec33546a9c185100ab3c9491d19ba722cd5b6a06bfb10c9dd7e7927a776294337f8 ++ beBytes 48 0xb7eec2dc1930bfaa56c9157101e22ec33546a9c185100ab3c9491d19ba722cd5b6a06bfb10c9dd7e7927a776294337f8) }

/-- The image in HBM. -/
def withImage : State :=
  { ini [(F.chiefMode_mode, 0, 1)] with hbm := cells 64 image }

/-- A staged set in bank 1. -/
def withBank (X : List Host.Cell) : State :=
  { ini [(F.chiefMode_mode, 0, 1), (F.updStat_state, 0, Us.staged)] with flash := X, update.session := some { stream := none, addr := 0, len := 0 } }

/-- A package in HBM, offered. -/
def withPackage (X : List Host.Cell) : State :=
  { ini [(F.chiefMode_mode, 0, 1), (F.updStat_state, 0, 2)] with hbm := X, update.session := some offer }

/-! One witness per clause of each statement. -/

theorem witness_TimeUnitKeepsTime :
    (∃ s : State, s.rd F.timeBaseNsec_value < 10 ^ 9) ∧
    (∃ s : State, 2 ^ 31 ≤ s.sinceBase) :=
  ⟨⟨ini [(F.timeBaseNsec_value, 0, 999999999)], by decide +kernel⟩,
   ⟨ini [(F.timeNowHi_value, 0, 2 ^ 31)], by decide +kernel⟩⟩

theorem witness_ComparatorsFireAndCapturesTake :
    (∃ (s : State) (u : Fin 16) (ctl : Word), s.hostHolds (Res.timecmp + u) = true ∧ F.compCtl_enable.ofWord ctl =
        1) ∧
    (∃ (s : State) (u : Fin 16), s.flag F.compStat_armed u = true ∧ reached s.counter (s.compTarget u) = true ∧
        s.flag F.compCtl_periodic u = false) ∧
    (∃ (s : State) (u : Fin 4), s.flag F.tcapCtl_enable u = true ∧ (s.tcaps u).length < 4) :=
  ⟨⟨ini [(F.cfgOwner_domain, 47, 2)], 15, 1, by decide +kernel⟩,
   ⟨ini [(F.compStat_armed, 15, 1), (F.timeNowLo_value, 0, 9), (F.compTargetLo_target, 15, 9)], 15,
    by decide +kernel⟩,
   ⟨{ ini [(F.tcapCtl_enable, 3, 1)] with time.captures := [(3, [1, 2, 3])] }, 3, by decide +kernel⟩⟩

theorem witness_PulsesStartAndStop :
    (∃ (s : State) (g : Fin 4) (ctl : Word), s.hostHolds (Res.pulse + g) = true ∧ F.pulseCtl_enable.ofWord ctl = 1) ∧
    (∃ (s : State) (g : Fin 4) (start : Nat), (s.gen g).next = some start ∧ (s.gen g).armed = true ∧ (s.gen
        g).active = false ∧ reached s.counter start = true) ∧
    (∃ (s : State) (g : Fin 4), (s.gen g).active = true ∧ s.flag F.pulseCtl_periodic g = false) ∧
    (∃ (s : State) (g : Fin 4), s.flag F.pulseStat_running g = false ∧ (s.gen g).armed = true ∧ s.flag
        F.pulseCtl_src g = true) ∧
    (∃ (s : State) (g : Fin 4), s.flag F.pulseStat_running g = true ∧ (s.gen g).active = true) :=
  ⟨⟨ini [(F.cfgOwner_domain, 51, 2)], 3, 1, by decide +kernel⟩,
   ⟨{ State.reset with time.gens := [(3, { armed := true, next := some 0 })] }, 3, 0, by decide +kernel⟩,
   ⟨{ State.reset with time.gens := [(3, { active := true })] }, 3, by decide +kernel⟩,
   ⟨{ ini [(F.pulseCtl_src, 3, 1)] with time.gens := [(3, { armed := true })] }, 3, by decide +kernel⟩,
   ⟨{ ini [(F.pulseStat_running, 3, 1)] with time.gens := [(3, { active := true })] }, 3, by decide +kernel⟩⟩

theorem witness_PpsStampsAndTemplates :
    (∃ (s : State) (falling : Bool), ((s.pinFn 2 0).func = 0x01) ∧ s.flag F.timePpsCtl_inEdge = falling ∧
        s.time.ppsEdge = none) ∧
    (∃ s : State, ((s.pinFn 2 1).func = 0x01) ∧ s.rd F.timePpsCtl_outSrc = 1 ∧ s.flag F.timeStat_baseStale = false) ∧
    (∃ (s : State) (i : Fin 16) (ctl : Word), F.templateCtl_valid.ofWord ctl = 1 ∧ templateGood
        (F.templateCtl_hdrLen.ofWord ctl) (s.templateBytes i) = true) :=
  ⟨⟨{ ini [(F.timePpsCtl_inEdge, 0, 1), (F.timeNowLo_value, 0, 5)] with cfg.pins := [(512, ⟨1, 0⟩)] }, true,
    by decide +kernel⟩,
   ⟨{ ini [(F.timePpsCtl_outSrc, 0, 1), (F.timeStat_baseStale, 0, 0)] with cfg.pins := [(513, ⟨1, 0⟩)] },
    by decide +kernel⟩,
   ⟨ini [(F.templateWord_word, 243, 0x00450008), (F.templateWord_word, 245, 0x11000040)], 15, 0xaa,
    by decide +kernel⟩⟩

theorem witness_CairnRoutes :
    (∃ (s : State) (e : CairnEvt) (c : Nat), e.gen.val < 8 ∧ c < 160 ∧ consumerAssigned c = true ∧ s.cairnEnabled
        e.producer c = true) ∧
    (∃ (s : State) (d : Fin 16) (secure : Bool) (c : Fin 160) (w : Fin 8), w.val < 7 ∧ d.val ≠ 0 ∧ s.rd
        F.cairnMatrix_word (8 * c + 7) % 16 = d ∧ bit (s.rd F.cairnMatrix_word (8 * c + 7)) 4 = secure) ∧
    (∃ (s : State) (i : Fin 8), s.msix (40 + i) 3 % 2 = 1) :=
  ⟨⟨ini [(F.cairnMatrix_word, 8 * 159 + 6, 2 ^ 31)], ⟨223, 7, 1⟩, 159, by decide +kernel⟩,
   ⟨ini [(F.cairnMatrix_word, 8 * 159 + 7, 0x1F)], 15, true, 159, 6, by decide +kernel⟩,
   ⟨State.reset, 7, by decide +kernel⟩⟩

theorem witness_EvioPinsAndEventLog :
    (∃ (s : State) (p : Fin 32), ((s.evioFn p).func = 0x01) ∧ s.flag F.cairnEvioIn_level p = false ∧ s.rd
        F.cairnEvioIn_edge p = 0) ∧
    (∃ (s : State) (p : Fin 32), ((s.evioFn p).func = 0x02) ∧ s.evioActs = true ∧ s.flag F.cairnEvioOut_busy p =
        false ∧ s.rd F.cairnEvioOut_mode p = 0) ∧
    (∃ (s : State) (p : Fin 32), s.flag F.cairnEvioOut_busy p = true) ∧
    (∃ (s : State) (e : LogEntry) (rest : List LogEntry), s.logQueue = e :: rest) :=
  ⟨⟨{ State.reset with cfg.pins := [(31, ⟨1, 0⟩)] }, 31, by decide +kernel⟩,
   ⟨{ ini [(F.chiefMode_mode, 0, 4)] with cfg.pins := [(31, ⟨2, 0⟩)] }, 31, by decide +kernel⟩,
   ⟨ini [(F.cairnEvioOut_busy, 31, 1)], 31, by decide +kernel⟩,
   ⟨{ State.reset with logQueue := [⟨5, 0, 0, [1, 2], 3⟩] }, ⟨5, 0, 0, [1, 2], 3⟩, [], by decide +kernel⟩⟩

theorem witness_AxesCountAndRead :
    (∃ (s : State) (a : Fin 8) (levels : BitVec 6), s.axisMode a = 1 ∧ (s.axis a).seeded = true ∧ s.flag
        F.posCtl_reverse a = false ∧ s.flag F.posCtl_indexGate a = false ∧ levels.toNat / 4 % 2 = 0 ∧ quadPhase
        (levels.toNat % 4) = (quadPhase (s.rd F.posStat_pins a % 4) + 1) % 4) ∧
    (∃ (s : State) (a : Fin 8), s.rd F.posCtl_indexMode a = 2) ∧
    (∃ (s : State) (a : Fin 8), s.axisMode a = 3) ∧
    (∃ (s : State) (a : Fin 8) (frame : BitVec 55) (at_ : Nat), s.axisMode a = 3 ∧ (s.axis a).latch = some at_ ∧
        (s.axis a).serLast = none ∧ s.flag F.posSerCtl_crcEn a = false ∧ s.flag F.posSerCtl_gray a = false ∧ bit
        frame.toNat (s.serBits a) = true) :=
  ⟨⟨{ ini [(F.posCtl_mode, 7, 1), (F.posCount_value, 7, 2 ^ 31 - 1)] with
        axes := [(7, { seeded := true })] }, 7, 1, by decide +kernel⟩,
   ⟨ini [(F.posCtl_indexMode, 7, 2)], 7, by decide +kernel⟩,
   ⟨ini [(F.posCtl_mode, 7, 3)], 7, by decide +kernel⟩,
   ⟨{ ini [(F.posCtl_mode, 7, 3), (F.posSerCtl_bits, 7, 48), (F.posSerCtl_crcEn, 7, 0)] with
        axes := [(7, { latch := some 9 })] }, 7, 0x1000000000005, 9, by decide +kernel⟩⟩

theorem witness_ReelTracks :
    (∃ (s : State) (q : Meas) (rest : List Meas), s.reel.inbox = q :: rest) ∧
    (∃ s : State, s.flag F.reelStat_step = false) ∧
    (∃ s : State, s.reel.h + 1 ≤ Int.fdiv (s.toU s.reel.t) (s.pitch * stampUnit) ∧ s.reel.stop = none ∧
        s.reel.backlog = [] ∧ s.tickFree = true ∧ s.chief.joint = none ∧ s.chief.path = Md.expose ∧ s.exposeImage =
        true ∧ Int.fmod (s.reel.h + 1) 8 ≠ 0) ∧
    (∃ (s : State) (k : Tick), s.tickFree = true ∧ s.reel.backlog = [k] ∧ k.skip = false ∧ s.chief.joint = none ∧
        s.chief.complete = none ∧ s.chief.path = Md.expose ∧ s.exposeImage = true ∧ Int.fmod k.boundary 8 ≠ 0) ∧
    (∃ s : State, s.cmMode = true) ∧
    (∃ s : State, s.cmMode = true) :=
  ⟨⟨{ State.reset with reel.inbox := [⟨false, 5, 1, 1⟩] }, ⟨false, 5, 1, 1⟩, [], by decide +kernel⟩,
   ⟨ini [(F.reelStat_step, 0, 0)], by decide +kernel⟩,
   ⟨{ ini [(F.cfgStat_runMode, 0, 3)] with reel.t := 8192 * stampUnit, chief.path := Md.expose },
    by decide +kernel⟩,
   ⟨{ ini [(F.cfgStat_runMode, 0, 3)] with reel.backlog := [⟨9, 0, false⟩], chief.path := Md.expose },
    ⟨9, 0, false⟩, by decide +kernel⟩,
   ⟨ini [(F.chiefMode_mode, 0, 4)], by decide +kernel⟩,
   ⟨ini [(F.chiefMode_mode, 0, 1)], by decide +kernel⟩⟩

theorem witness_SchedulersFire :
    (∃ (s : State) (k : Fin 8), s.flag F.rcapCtl_enable k = true ∧ (s.caps k).length < 4) ∧
    (∃ ctl : Word, F.schedCtl_enable.ofWord ctl = 1) ∧
    (∃ (s : State) (i : Fin 8), s.flag F.schedStat_armed i = true ∧ s.schedTarget i * stampUnit ≤ s.reel.w ∧ s.flag
        F.schedCtl_periodic i = false) ∧
    (∃ (s : State) (i : Fin 8), s.flag F.schedStat_armed i = false) :=
  ⟨⟨{ ini [(F.rcapCtl_enable, 7, 1)] with reel.caps := [(7, [⟨0, 0, 0⟩, ⟨0, 0, 0⟩, ⟨0, 0, 0⟩])] }, 7,
    by decide +kernel⟩,
   ⟨1, by decide +kernel⟩,
   ⟨ini [(F.schedStat_armed, 7, 1)], 7, by decide +kernel⟩,
   ⟨State.reset, 7, by decide +kernel⟩⟩

theorem witness_FollowersFollow :
    (∃ (s : State) (l : Fin 8) (n : Nat), s.rd F.reelFollowCtl_role = 1 ∧ bit (s.rd F.reelFollowCtl_txLanes) l =
        true ∧ s.syncLane l = some n ∧ s.flag F.laneStat_bondUp n = true ∧ s.creditLeft (192 + 8 * l +
        s.syncChannel) ≠ 0) ∧
    (∃ (s : State) (l : Fin 8) (n : Nat) (sample d1 d2 : BitVec 64), s.syncLane l = some n ∧ crc16 (leBytes 5
        (sample.toNat / 256) ++ leBytes 8 d1.toNat ++ leBytes 6 d2.toNat) = d2.toNat / 2 ^ 48 ∧ s.rd
        F.reelFollowCtl_leaderId = 0 ∧ bits sample.toNat 14 2 = 0 ∧ bits sample.toNat 34 6 = 0 ∧ (s.takeSeq (192 + 8
        * l + bits sample.toNat 8 3) 16 (bits sample.toNat 16 16) (some n)).2 = true ∧ bits sample.toNat 32 2 < 2 ∧
        s.rd F.reelFollowCtl_role = 2 ∧ s.rd F.reelTrackCtl_src = 8 ∧ s.rd F.reelFollowCtl_rxLane = l) ∧
    (∃ s : State, s.rd F.reelFollowCtl_role = 2 ∧ s.flag F.reelStat_coasting = false) ∧
    (∃ s : State, s.flag F.reelStat_coasting = true) :=
  ⟨⟨{ ini [(F.reelFollowCtl_role, 0, 1), (F.reelFollowCtl_txLanes, 0, 128), (F.laneQuadStat_role, 12, Role.sync),
        (F.laneQuadStat_role, 13, Role.sync), (F.laneQuadStat_laneMask, 12, 15), (F.laneQuadStat_laneMask, 13, 15),
        (F.laneStat_bondUp, 55, 1)] with
        links.ports := [(248, { limit := 32767 })] }, 7, 55, by decide +kernel⟩,
   ⟨ini [(F.laneQuadStat_role, 12, Role.sync), (F.laneQuadStat_role, 13, Role.sync), (F.laneQuadStat_laneMask, 12, 15),
        (F.laneQuadStat_laneMask, 13, 15), (F.reelFollowCtl_role, 0, 2), (F.reelTrackCtl_src, 0, 8),
        (F.reelFollowCtl_rxLane, 0, 7)], 7, 55, (0x30 + 65535 * 2 ^ 16 + 2 ^ 32), 0xFFFFFFFFFFFFFFFF,
    BitVec.ofNat 64 (2 ^ 48 * crc16 (leBytes 5 ((0x30 + 65535 * 2 ^ 16 + 2 ^ 32) / 256) ++ leBytes 8 0xFFFFFFFFFFFFFFFF
        ++ leBytes 6 0)), by decide +kernel⟩,
   ⟨ini [(F.reelFollowCtl_role, 0, 2)], by decide +kernel⟩,
   ⟨ini [(F.reelStat_coasting, 0, 1)], by decide +kernel⟩⟩

theorem witness_Bar0Accesses :
    (∃ (s : State) (a : BitVec 26) (n : BitVec 8) (cause x : Nat), s.writeBarred a.toNat n.toNat = some cause ∧ x ∉
        [0x420, 0x424, 0x428, F.chiefLogLost_count.addr 0, F.msixPba_pending.addr 0]) ∧
    (∃ s : State, s.writeBarred 0x400 4 = none) ∧
    (∃ (s : State) (a : BitVec 26), s.readBarred a.toNat 4 = none ∧ s.latches.lookup a.toNat = none ∧
        s.chief.tristate = false) ∧
    (∃ (s : State) (a : BitVec 26), s.readBarred a.toNat 4 = none ∧ ((findReg a.toNat regBlocks).any (fun x =>
        x.2.2.pair == .roLo) = true)) ∧
    (∃ s : State, s.chief.tristate = false) ∧
    (∃ (s : State) (a : Nat) (v : Word), s.mailOf 0x78 = [(a, v)] ∧ a ≠ F.couchForestCtl_trees.addr 0) :=
  ⟨⟨State.reset, 3, 4, 1, 0, by decide +kernel⟩,
   ⟨State.reset, by decide +kernel⟩,
   ⟨State.reset, 0, by decide +kernel⟩,
   ⟨State.reset, 0x4, by decide +kernel⟩,
   ⟨State.reset, by decide +kernel⟩,
   ⟨{ State.reset with chief.mail := [(0x78, [(0x800000, 5)])] }, 0x800000, 5, by decide +kernel⟩⟩

theorem witness_LanesLock :
    (∃ (s : State) (n : Fin 64) (h : BitVec 2), uhlusRole (s.laneRole n) = true ∧ s.laneState n = Ls.blockHunt ∧
        (s.lane n).good = 63 ∧ ((h = 1 ∨ h = 2))) ∧
    (∃ (s : State) (n : Fin 64) (h : BitVec 2), uhlusRole (s.laneRole n) = true ∧ s.laneState n = Ls.blockHunt ∧ ((h
        = 0 ∨ h = 3))) ∧
    (∃ (s : State) (n : Fin 64), s.laneState n = Ls.cdrAcq) ∧
    (∃ (s : State) (n : Fin 64), s.laneState n = Ls.cdrAcq) ∧
    (∃ (s : State) (n : Fin 64), s.inLock n = true) ∧
    (∃ (s : State) (n : Fin 64), s.laneRole n ≠ Role.pcie ∧ s.laneState n ∉ [Ls.off, Ls.prbs, Ls.loopback]) ∧
    (∃ (s : State) (q : Fin 16), s.rd F.laneQuadStat_role q ≠ 0 ∧ (s.quad q).refclk = 1) ∧
    (∃ (s : State) (n : Fin 64), uhlusRole (s.laneRole n) = true ∧ s.laneUsed n = true ∧ s.flag F.laneCtl_squelch n
        = false ∧ s.flag F.laneQuadStat_refclkOk (n / 4) = true) :=
  ⟨⟨{ ini [(F.laneQuadStat_role, 15, 1), (F.laneQuadStat_laneMask, 15, 15), (F.laneStat_state, 63, Ls.blockHunt)] with
        links.lanes := [(63, { good := 63 })] }, 63, 2, by decide +kernel⟩,
   ⟨{ ini [(F.laneQuadStat_role, 15, 3), (F.laneQuadStat_laneMask, 15, 15), (F.laneStat_state, 63, Ls.blockHunt)] with
        links.lanes := [(63, { good := 63 })] }, 63, 3, by decide +kernel⟩,
   ⟨ini [(F.laneQuadStat_role, 15, 1), (F.laneQuadStat_laneMask, 15, 15), (F.laneStat_state, 63, Ls.cdrAcq)],
    63, by decide +kernel⟩,
   ⟨ini [(F.laneQuadStat_role, 15, 1), (F.laneQuadStat_laneMask, 15, 15), (F.laneStat_state, 63, Ls.cdrAcq)],
    63, by decide +kernel⟩,
   ⟨ini [(F.laneQuadStat_role, 15, 1), (F.laneQuadStat_laneMask, 15, 15), (F.laneStat_state, 63, Ls.up)], 63,
    by decide +kernel⟩,
   ⟨ini [(F.laneQuadStat_role, 15, 1), (F.laneQuadStat_laneMask, 15, 15), (F.laneStat_state, 63, Ls.up)], 63,
    by decide +kernel⟩,
   ⟨{ ini [(F.laneQuadStat_role, 15, 1), (F.laneQuadStat_laneMask, 15, 15)] with
        cfg.quads := [(15, ⟨1, 15, 0, 0, [], 0, 1, 0⟩)] }, 15, by decide +kernel⟩,
   ⟨{ ini [(F.laneQuadStat_role, 15, 1), (F.laneQuadStat_laneMask, 15, 15), (F.laneQuadStat_refclkOk, 15, 1),
        (F.laneCtl_squelch, 63, 0)] with
        links.lanes := [(63, { amCount := 65535 })] }, 63, by decide +kernel⟩⟩

theorem witness_DelayAndRoundTrips :
    (∃ (s : State) (n : Fin 64), s.laneLocked n true = false) ∧
    (∃ (s : State) (n : Fin 64) (v : Word), s.laneLocked n true = false ∧ F.laneProbeCtl_start.ofWord v = 1 ∧ s.flag
        F.laneProbeCtl_busy n = false ∧ s.flag F.laneStat_bondUp n = true) ∧
    (∃ (s : State) (n : Fin 64) (r : ProbeRun), (s.lane n).probe = some r ∧ r.sent < probeCount (s.rd
        F.laneProbeCtl_count n)) ∧
    (∃ (s : State) (n : Fin 64) (id : BitVec 16) (taps : Nat) (r : ProbeRun), (s.lane n).probe = some r ∧ id.toNat ∈
        r.open_ ∧ taps ≤ 64 * s.rate n) ∧
    (∃ (s : State) (n : Fin 64) (r : ProbeRun), (s.lane n).probe = some r ∧ r.matched = probeCount (s.rd
        F.laneProbeCtl_count n)) ∧
    (∃ s : State, s.chief.tristate = false) :=
  ⟨⟨State.reset, 63, by decide +kernel⟩,
   ⟨ini [(F.laneStat_bondUp, 63, 1)], 63, 0x100, by decide +kernel⟩,
   ⟨{ ini [(F.laneProbeCtl_count, 63, 64)] with
        links.lanes := [(63, { probe := some ⟨63, [7], 0, 0⟩, nextProbe := 65535 })] }, 63, ⟨63, [7], 0, 0⟩,
    by decide +kernel⟩,
   ⟨{ ini [(F.laneQuadStat_role, 15, 1), (F.laneQuadStat_laneMask, 15, 15), (F.laneQuadStat_rateCode, 15, 1)] with
        links.lanes := [(63, { probe := some ⟨1, [65535], 0, 0⟩ })] }, 63, 65535, 64 * 125000,
    ⟨1, [65535], 0, 0⟩, by decide +kernel⟩,
   ⟨{ ini [(F.laneProbeCtl_count, 63, 1)] with links.lanes := [(63, { probe := some ⟨1, [], 1, 77⟩ })] }, 63,
    ⟨1, [], 1, 77⟩, by decide +kernel⟩,
   ⟨State.reset, by decide +kernel⟩⟩

theorem witness_CreditsMarginsPrbs :
    (∃ (s : State) (p : Fin 1024), s.sportActive p = true ∧ s.sportSends p = true) ∧
    (∃ (s : State) (p : Fin 1024), s.sportActive p = true ∧ s.flag F.sportCfg_fc p = true ∧ s.flag F.sportCfg_dir p
        = false ∧ s.flag F.laneStat_bondUp (s.rd F.sportCfg_lane p) = true ∧ s.chief.tristate = false) ∧
    (∃ (s : State) (n : Fin 64) (v : Word), s.laneRole n ≠ Role.pcie ∧ F.laneMarginCtl_start.ofWord v = 1 ∧ s.inLock
        n = true) ∧
    (∃ (s : State) (n : Fin 64), (s.lane n).margin = true) ∧
    (∃ (s : State) (n : Fin 64), s.prbsRefused n = none ∧ s.rd F.lanePrbsCtl_txPat n ∈ [1, 2, 3, 4, 5] ∧
        s.chief.tristate = false) ∧
    (∃ (s : State) (n : Fin 64), s.prbsRefused n = none) ∧
    (∃ (s : State) (n : Fin 64), s.mode = Md.maintain ∧ s.rd F.lanePrbsCtl_rxPat n ∈ [1, 2, 3, 4, 5] ∧ s.flag
        F.lanePrbsCtl_rxSync n = true) :=
  ⟨⟨ini [(F.sportCfg_class, 1023, 1), (F.sportCfg_fc, 1023, 1), (F.sportCfg_dir, 1023, 1)], 1023,
    by decide +kernel⟩,
   ⟨ini [(F.sportCfg_class, 1023, 1), (F.sportCfg_fc, 1023, 1), (F.sportCfg_lane, 1023, 63), (F.laneStat_bondUp, 63, 1)],
    1023, by decide +kernel⟩,
   ⟨ini [(F.laneQuadStat_role, 15, 1), (F.laneQuadStat_laneMask, 15, 15), (F.laneStat_state, 63, Ls.blockLock)],
    63, 0x80000000, by decide +kernel⟩,
   ⟨{ State.reset with links.lanes := [(63, { margin := true })] }, 63, by decide +kernel⟩,
   ⟨ini [(F.chiefMode_mode, 0, 4), (F.lanePrbsCtl_txPat, 63, 5)], 63, by decide +kernel⟩,
   ⟨ini [(F.chiefMode_mode, 0, 4), (F.lanePrbsErr_value, 63, 9)], 63, by decide +kernel⟩,
   ⟨ini [(F.chiefMode_mode, 0, 4), (F.lanePrbsCtl_rxPat, 63, 5), (F.lanePrbsCtl_rxSync, 63, 1), (F.lanePrbsErr_value,
        63, 2 ^ 32 - 1)], 63, by decide +kernel⟩⟩

theorem witness_NetworkPorts :
    (∃ (s : State) (e : Fin 16), s.macPort e = true) ∧
    (∃ (s : State) (e : Fin 16), s.macUp e = true) ∧
    (∃ (s : State) (e : Fin 16) (f : Bytes), s.macUp e = true ∧ 60 ≤ f.length ∧ f.length ≤ 9596 ∧ beAt f 12 2 ∉
        [0x8808, 0x0800, 0x8100] ∧ s.macAccepts e f = true ∧ s.flag F.ringCtl_en 4 = true ∧ s.outUsed 4 +
        s.host.rxStaged.length < s.outSize 4 ∧ f.length ≤ s.rxEntryBytes - 64) ∧
    (∃ (s : State) (j : Fin 256), s.streamReady j = true ∧ s.streamSources j = [(1, s.couch.records, 64)] ∧ 0 <
        s.maxItems j 64 ∧ s.maxItems j 64 ≤ (s.couch.records.filter (·.net)).length ∧ (16 + s.maxItems j 64 * 64 +
        63) / 64 ≤ s.creditLeft (256 + j)) ∧
    (∃ (s : State) (j : Fin 256) (i : OutItem), s.streamReady j = true ∧ s.streamSources j = [(1, s.couch.records,
        64)] ∧ 0 < s.maxItems j 64 ∧ s.couch.records = [i] ∧ i.net = true ∧ i.ring = false ∧ 2 ≤ s.creditLeft (256 +
        j)) ∧
    (∃ (s : State) (p : Fin 1024) (t e : Nat), s.creditRoute p = some (t, e) ∧ s.flag F.templateCtl_valid t = true ∧
        s.macUp e = true ∧ ((p.val < 512 ∨ 768 ≤ p.val))) :=
  ⟨⟨ini [(F.laneQuadStat_role, 15, 6), (F.laneQuadStat_laneMask, 15, 15)], 15, by decide +kernel⟩,
   ⟨ini [(F.laneQuadStat_role, 15, 6), (F.laneQuadStat_laneMask, 15, 15), (F.macStat_linkUp, 15, 1)], 15,
    by decide +kernel⟩,
   ⟨ini [(F.laneQuadStat_role, 15, 6), (F.laneQuadStat_laneMask, 15, 15), (F.macStat_linkUp, 15, 1), (F.macCtl_promisc,
        15, 1), (F.ringCtl_en, 4, 1)], 15, zeros 60, by decide +kernel⟩,
   ⟨{ ini [(F.laneQuadStat_role, 15, 6), (F.laneQuadStat_laneMask, 15, 15), (F.macStat_linkUp, 15, 1),
        (F.cfgStat_runMode, 0, 2), (F.couchCtl_dest, 0, 1), (F.couchCtl_netStream, 0, 255), (F.streamCfg_enable,
        255, 1), (F.streamCfg_egress, 255, 15), (F.streamCfg_template, 255, 15), (F.templateCtl_valid, 15, 1),
        (F.sportCfg_dir, 511, 1), (F.streamCfg_maxItems, 255, 1), (F.streamLim_maxPayload, 255, 80)] with
        couch.records := [⟨zeros 64, false, true⟩],
        links.ports := [(511, { limit := 2 })] }, 255, by decide +kernel⟩,
   ⟨{ ini [(F.laneQuadStat_role, 15, 6), (F.laneQuadStat_laneMask, 15, 15), (F.macStat_linkUp, 15, 1),
        (F.cfgStat_runMode, 0, 2), (F.couchCtl_dest, 0, 1), (F.couchCtl_netStream, 0, 255), (F.streamCfg_enable,
        255, 1), (F.streamCfg_egress, 255, 15), (F.streamCfg_template, 255, 15), (F.templateCtl_valid, 15, 1),
        (F.sportCfg_dir, 511, 1), (F.streamCfg_maxItems, 255, 2), (F.streamLim_maxPayload, 255, 200)] with
        couch.records := [⟨zeros 64, false, true⟩],
        links.ports := [(511, { limit := 2 })] }, 255, ⟨zeros 64, false, true⟩, by decide +kernel⟩,
   ⟨{ ini [(F.laneQuadStat_role, 15, 6), (F.laneQuadStat_laneMask, 15, 15), (F.macStat_linkUp, 15, 1), (F.secMgmt_open,
        7, 1), (F.secMgmt_mgmtTemplate, 7, 15), (F.templateCtl_valid, 15, 1)] with
        host.streams := [(7, { port := 15 })] }, 775, 15, 15, by decide +kernel⟩⟩

theorem witness_HeadboxLines :
    (∃ (s : State) (p : Fin 12) (k d : Fin 4) (tag : Word) (l : TrigLine), s.sensorOn p k = true ∧ s.portHeld p =
        false ∧ s.chief.path = Md.inspect ∧ (s.hbPort p).burst = .outside ∧ s.flag F.headboxPortCtl_frameCheck p =
        false ∧ (s.hbCh (4 * p + k)).lines = [l] ∧ l.line = s.extendTag tag.toNat ∧ l.triggered = true ∧ l.done =
        none ∧ depthBits d = s.depth (4 * p + k) ∧ (s.hbCh (4 * p + k)).fill + s.lineBlocks (4 * p + k) * 8 ≤
        s.partition p) ∧
    (∃ (s : State) (p : Fin 12) (crc : Word) (tagByte : BitVec 8) (b : Burst) (k : Fin 4), (s.hbPort p).burst =
        .inside b ∧ b.sensor = k ∧ b.blocks.length = s.lineBlocks (4 * p + k) ∧ tagByte.toNat = b.tag % 256 ∧ crc32c
        (blockBytes b.blocks.reverse) = crc.toNat) ∧
    (∃ (s : State) (p : Fin 12) (k : Fin 4) (tag : Word) (l : TrigLine), s.awaited (4 * p + k) (s.extendTag
        tag.toNat) = some l ∧ reached s.counter l.deadline = true ∧ (s.hbPort p).burst = .outside) ∧
    (∃ (s : State) (p : Fin 12) (k : Fin 4), s.sensorOn p k = true ∧ s.flag F.headboxPortCtl_frameCheck p = true ∧
        (s.hbPort p).burst = .outside) ∧
    (∃ (s : State) (p : Fin 12) (k : Fin 4), s.sensorOn p k = true ∧ s.flag F.headboxPortCtl_frameCheck p = true ∧
        (s.hbPort p).burst = .outside) ∧
    (∃ (s : State) (p : Fin 12) (k : Fin 4), s.portChannels p = [4 * p.val + k.val] ∧ 1500000 < s.width (4 * p + k)
        * (s.hbCh (4 * p + k)).received) :=
  ⟨⟨{ ini [(F.laneQuadStat_role, 11, 1), (F.laneQuadStat_laneMask, 11, 15), (F.headboxPortCtl_sensors, 11, 8),
        (F.headboxChCfg_width, 47, 64), (F.headboxPortCtl_frameCheck, 11, 0)] with
        chief.path := Md.inspect,
        headbox.chans := [(47, { lines := [⟨5, 100, true, false, none⟩], fill := 1048576 - 64 })] }, 11, 3,
    0, 5, ⟨5, 100, true, false, none⟩, by decide +kernel⟩,
   ⟨{ ini [(F.laneQuadStat_role, 11, 1), (F.laneQuadStat_laneMask, 11, 15), (F.headboxPortCtl_sensors, 11, 8),
        (F.headboxChCfg_width, 47, 64)] with
        headbox.ports := [(11, { burst := .inside ⟨3, 5, 5, List.replicate 8 0⟩ })],
        headbox.chans := [(47, { lines := [⟨5, 100, true, true, none⟩] })] }, 11,
    BitVec.ofNat 32 (crc32c (zeros 64)), 5, ⟨3, 5, 5, List.replicate 8 0⟩, 3, by decide +kernel⟩,
   ⟨{ ini [(F.laneQuadStat_role, 11, 1), (F.laneQuadStat_laneMask, 11, 15), (F.headboxPortCtl_sensors, 11, 8),
        (F.headboxChCfg_width, 47, 64), (F.timeNowLo_value, 0, 100)] with
        headbox.chans := [(47, { lines := [⟨5, 100, true, false, none⟩] })] }, 11, 3, 5,
    ⟨5, 100, true, false, none⟩, by decide +kernel⟩,
   ⟨ini [(F.laneQuadStat_role, 11, 1), (F.laneQuadStat_laneMask, 11, 15), (F.headboxPortCtl_sensors, 11, 8),
        (F.headboxPortCtl_frameCheck, 11, 1)], 11, 3, by decide +kernel⟩,
   ⟨ini [(F.laneQuadStat_role, 11, 1), (F.laneQuadStat_laneMask, 11, 15), (F.headboxPortCtl_sensors, 11, 8),
        (F.headboxPortCtl_frameCheck, 11, 1)], 11, 3, by decide +kernel⟩,
   ⟨{ ini [(F.laneQuadStat_role, 11, 1), (F.laneQuadStat_laneMask, 11, 15), (F.headboxPortCtl_sensors, 11, 8),
        (F.headboxChCfg_width, 47, 64)] with
        headbox.chans := [(47, { received := 23438 })] }, 11, 3, by decide +kernel⟩⟩

theorem witness_CameraControl :
    (∃ (s : State) (p : Fin 12) (v : Word), s.sensorPort p = true ∧ F.headboxCctl_go.ofWord v = 1 ∧ s.flag
        F.headboxCctl_busy p = false ∧ s.mode ∈ [Md.configure, Md.inspect, Md.maintain] ∧ s.flag
        F.headboxPortStat_bondUp p = true) ∧
    (∃ (s : State) (p : Fin 12) (k : Fin 4) (ctag : Fin 32), (s.hbPort p).burst = .outside ∧ s.flag
        F.headboxCctl_busy p = true ∧ s.rd F.headboxCctl_ctag p = ctag ∧ s.rd F.headboxCctl_sensor p = k) ∧
    (∃ (s : State) (p : Fin 12), s.flag F.headboxCctl_busy p = true) ∧
    (∃ (s : State) (p : Fin 12) (k : Fin 4), s.sensorOn p k = true ∧ (s.hbPort p).burst = .outside ∧ (s.sport (16 *
        p + 4 * k + 3)).started = false) ∧
    (∃ (s : State) (p : Fin 12) (k : Fin 4), s.sensorOn p k = true ∧ s.flag F.headboxCamStat_silent (4 * p + k) =
        false) :=
  ⟨⟨ini [(F.laneQuadStat_role, 11, 1), (F.laneQuadStat_laneMask, 11, 15), (F.headboxPortCtl_sensors, 11, 8),
        (F.chiefMode_mode, 0, 4), (F.headboxPortStat_bondUp, 11, 1), (F.headboxCctl_ctag, 11, 31)], 11, 8,
    by decide +kernel⟩,
   ⟨ini [(F.laneQuadStat_role, 11, 1), (F.laneQuadStat_laneMask, 11, 15), (F.headboxPortCtl_sensors, 11, 8),
        (F.headboxCctl_busy, 11, 1), (F.headboxCctl_ctag, 11, 31), (F.headboxCctl_sensor, 11, 3)], 11, 3, 31,
    by decide +kernel⟩,
   ⟨ini [(F.headboxCctl_busy, 11, 1)], 11, by decide +kernel⟩,
   ⟨ini [(F.laneQuadStat_role, 11, 1), (F.laneQuadStat_laneMask, 11, 15), (F.headboxPortCtl_sensors, 11, 8)],
    11, 3, by decide +kernel⟩,
   ⟨ini [(F.laneQuadStat_role, 11, 1), (F.laneQuadStat_laneMask, 11, 15), (F.headboxPortCtl_sensors, 11, 8)],
    11, 3, by decide +kernel⟩⟩

theorem witness_CalendersDeliver :
    (∃ (s : State) (n : Fin 48) (e : HbEntry) (rest : List HbEntry), (s.hbCh n).queue = e :: rest ∧ e.px = none ∧
        s.flag F.calShadowCtl_armed n = false) ∧
    (∃ (s : State) (n : Fin 48) (e : HbEntry) (rest : List HbEntry) (raw : List Nat), (s.hbCh n).queue = e :: rest ∧
        e.px = some raw ∧ s.flag F.calShadowCtl_armed n = false) ∧
    (∃ (s : State) (n : Fin 48), s.calGated n = none ∧ s.flag F.calShadowCtl_syncing n = true) ∧
    (∃ (s : State) (n : Fin 48), s.calGated n = none ∧ s.flag F.calShadowCtl_syncing n = false ∧ s.calFlows n =
        false) ∧
    (∃ (s : State) (n : Fin 48), s.calGated n = none) ∧
    (∃ (s : State) (n : Fin 48), s.flag F.calShadowCtl_syncing n = true ∧ s.flag F.calShadowCtl_armed n = false) :=
  ⟨⟨{ ini [(F.headboxChCfg_width, 47, 64)] with headbox.chans := [(47, { queue := [⟨5, none⟩] })] }, 47,
    ⟨5, none⟩, [], by decide +kernel⟩,
   ⟨{ ini [(F.headboxChCfg_width, 47, 64), (F.headboxFrameLen_fMinus1, 0, 63)] with
        headbox.chans := [(47, { queue := [⟨5, some (List.replicate 64 9)⟩] })] }, 47,
    ⟨5, some (List.replicate 64 9)⟩, [], List.replicate 64 9, by decide +kernel⟩,
   ⟨ini [(F.calShadowCtl_syncing, 47, 1)], 47, by decide +kernel⟩,
   ⟨ini [(F.calBlack_black, 47, 3)], 47, by decide +kernel⟩,
   ⟨ini [(F.calActiveBlack_black, 47, 3)], 47, by decide +kernel⟩,
   ⟨ini [(F.calShadowCtl_syncing, 47, 1)], 47, by decide +kernel⟩⟩

theorem witness_RidgesTakeLines :
    (∃ (s : State) (p : Fin 12) (n : Nat) (l : CalLine) (rest : List CalLine), s.planeChannels p = [(0, n)] ∧
        (s.calCh n).out = l :: rest ∧ s.rd F.ridgeStat_state (p / 2) = 3 ∧ p % 2 = s.inlineCtx (p / 2) ∧
        s.inlineFill (p / 2) + s.portLineBytes p ≤ 262144) ∧
    (∃ (s : State) (k : Fin 6) (f : MemFrame), (s.ridge k).burstLeft = 0 ∧ (s.ridge k).staging = [] ∧ (s.ridge
        k).reading s.frameLen = some f ∧ f.complete = true) ∧
    (∃ (s : State) (k : Fin 6) (l : PortLine) (rest : List PortLine), s.exposeImage = false ∧ (s.ridge k).frames =
        [] ∧ (s.ridge k).inline = l :: rest) ∧
    (∃ (s : State) (k : Fin 6) (l : DoseLine) (rest : List DoseLine), s.exposeImage = true ∧ k.val < 4 ∧ (s.kernel
        k).queue = l :: rest) :=
  ⟨⟨{ ini [(F.laneQuadStat_role, 11, 1), (F.laneQuadStat_laneMask, 11, 15), (F.headboxPortCtl_sensors, 11, 1),
        (F.headboxChCfg_width, 44, 64), (F.ridgeStat_state, 5, 3), (F.ridgeStat_inlinePort, 5, 1)] with
        calender := [(44, { out := [⟨5, 0, 5, false, List.replicate 64 1⟩] })] }, 11, 44,
    ⟨5, 0, 5, false, List.replicate 64 1⟩, [], by decide +kernel⟩,
   ⟨{ State.reset with
        ridges := [(5, { burst := 1, frames := [⟨0, some 0, [⟨5, 0, 5, []⟩], true, 5, 0, 0⟩] })] }, 5,
    ⟨0, some 0, [⟨5, 0, 5, []⟩], true, 5, 0, 0⟩, by decide +kernel⟩,
   ⟨{ State.reset with ridges := [(5, { inline := [⟨5, 0, 5, []⟩] })] }, 5, ⟨5, 0, 5, []⟩, [],
    by decide +kernel⟩,
   ⟨{ ini [(F.cfgStat_runMode, 0, 3)] with
        kernels := [(3, { queue := [{ inst := 0, stripe := 0, bands := 1, y := 0, px := [] }] })] }, 3,
    { inst := 0, stripe := 0, bands := 1, y := 0, px := [] }, [], by decide +kernel⟩⟩

theorem witness_RotationSteps :
    (∃ (s : State) (k : Fin 6), s.stepFree k = true) ∧
    (∃ (s : State) (k : Fin 6), s.stepFree k = true ∧ s.rd F.ridgeSpurStat_role (spurAt k (s.rd F.ridgeRotStat_spare
        k)) = SpurRole.spare) ∧
    (∃ (s : State) (k : Fin 6), s.stepFree k = true ∧ s.rd F.ridgeSpurStat_role (spurAt k (s.rd F.ridgeRotStat_spare
        k)) = SpurRole.spare) ∧
    (∃ (s : State) (k : Fin 6), s.rd F.ridgeRotStat_step k = RotStep.copy) ∧
    (∃ (s : State) (k : Fin 6), s.rd F.ridgeRotStat_step k = RotStep.isolate) ∧
    (∃ (s : State) (k : Fin 6), s.rd F.ridgeRotStat_step k = RotStep.test) ∧
    (∃ (s : State) (k : Fin 6), s.rd F.ridgeRotStat_step k = RotStep.test) ∧
    (∃ (s : State) (k : Fin 6), s.rd F.ridgeRotStat_step k = RotStep.reinit) ∧
    (∃ (s : State) (k : Fin 6), s.rd F.ridgeRotStat_step k = RotStep.reinit) :=
  ⟨⟨ini [(F.chiefMode_mode, 0, 2), (F.ridgeRotStat_step, 5, 0), (F.ridgeCtl_rotEn, 5, 1), (F.ridgeStat_nodes, 5, 1),
        (F.ridgeRotStat_spare, 5, 8)], 5, by decide +kernel⟩,
   ⟨ini [(F.chiefMode_mode, 0, 2), (F.ridgeRotStat_step, 5, 0), (F.ridgeCtl_rotEn, 5, 1), (F.ridgeStat_nodes, 5, 1),
        (F.ridgeRotStat_spare, 5, 8), (F.ridgeSpurStat_role, 53, SpurRole.spare)], 5, by decide +kernel⟩,
   ⟨ini [(F.chiefMode_mode, 0, 2), (F.ridgeRotStat_step, 5, 0), (F.ridgeCtl_rotEn, 5, 1), (F.ridgeStat_nodes, 5, 1),
        (F.ridgeRotStat_spare, 5, 8), (F.ridgeSpurStat_role, 53, SpurRole.spare)], 5, by decide +kernel⟩,
   ⟨ini [(F.ridgeRotStat_step, 5, RotStep.copy)], 5, by decide +kernel⟩,
   ⟨ini [(F.ridgeRotStat_step, 5, RotStep.isolate), (F.ridgeRotStat_underTest, 5, 8)], 5, by decide +kernel⟩,
   ⟨ini [(F.ridgeRotStat_step, 5, RotStep.test), (F.ridgeRotStat_underTest, 5, 8)], 5, by decide +kernel⟩,
   ⟨ini [(F.ridgeRotStat_step, 5, RotStep.test), (F.ridgeRotStat_underTest, 5, 8)], 5, by decide +kernel⟩,
   ⟨ini [(F.ridgeRotStat_step, 5, RotStep.reinit), (F.ridgeRotStat_underTest, 5, 8)], 5, by decide +kernel⟩,
   ⟨ini [(F.ridgeRotStat_step, 5, RotStep.reinit), (F.ridgeRotStat_underTest, 5, 8)], 5, by decide +kernel⟩⟩

theorem witness_CouchTakesItems :
    (∃ (s : State) (k : Fin 6) (m : Marker) (rest : List RidgeOut), (s.ridge k).intake = .marker m :: rest) ∧
    (∃ (s : State) (k : Fin 6) (i : Item) (rest : List RidgeOut), (s.ridge k).intake = .item i :: rest ∧
        s.couch.units < 1024 ∧ bit i.flags 5 = false ∧ s.touchedSeams (s.mapped (ridgePort k i.portSel) i) = [] ∧
        s.couch.queue = []) ∧
    (∃ (s : State) (p : Fin 12) (seq : Word) (m : Member), s.couch.held = [m] ∧ m.port = p ∧ m.item.seq = seq.toNat
        ∧ m.entered + max 1 (s.rd F.couchSeamCtl_waitMs) * 250000 ≤ s.clock) ∧
    (∃ (s : State) (m : Member) (ms : List Member) (fl : Nat) (v : Verdict), s.couch.queue = [.unit (m :: ms) fl
        (some v)] ∧ s.flag F.couchClassAct_send v.cls = true) ∧
    (∃ (s : State) (m : Member) (ms : List Member) (fl : Nat) (v : Verdict), s.couch.queue = [.unit (m :: ms) fl
        (some v)] ∧ s.flag F.couchClassAct_send v.cls = false) ∧
    (∃ (s : State) (u : Fin 4) (a b : MarkTarget) (rest : List MarkTarget), s.marks u = a :: b :: rest ∧ a.armed =
        true) :=
  ⟨⟨{ State.reset with ridges := [(5, { intake := [.marker ⟨11, 0, 0, 63, false, false⟩] })] }, 5,
    ⟨11, 0, 0, 63, false, false⟩, [], by decide +kernel⟩,
   ⟨{ State.reset with
        ridges := [(5, { intake := [.item ⟨5, 1, 0, 3, 0, 0, 1, 1, 0, 4, 0, 0, 0, 0, 0, 0, 0, 0, 0, 1, 0, 0⟩] })] },
    5, ⟨5, 1, 0, 3, 0, 0, 1, 1, 0, 4, 0, 0, 0, 0, 0, 0, 0, 0, 0, 1, 0, 0⟩, [], by decide +kernel⟩,
   ⟨{ ini [(F.couchSeamCtl_waitMs, 0, 1)] with
        couch.held := [{ port := 11, item := ⟨5, 1, 0, 3, 0, 0, 1, 1, 0, 4, 0, 0, 0, 0, 0, 0, 0, 0, 0, 1, 0, 0⟩, xMin := 0, xMax := 3, seams := [0], group := 0, entered := 0 }],
        clock := 250000 }, 11, 1,
    { port := 11, item := ⟨5, 1, 0, 3, 0, 0, 1, 1, 0, 4, 0, 0, 0, 0, 0, 0, 0, 0, 0, 1, 0, 0⟩, xMin := 0, xMax := 3, seams := [0], group := 0, entered := 0 },
    by decide +kernel⟩,
   ⟨{ ini [(F.couchClassAct_send, 63, 1)] with
        couch.queue := [.unit
            [{ port := 11, item := ⟨5, 1, 0, 3, 0, 0, 1, 1, 0, 4, 0, 0, 0, 0, 0, 0, 0, 0, 0, 1, 0, 0⟩, xMin := 0, xMax := 3, seams := [0], group := 0, entered := 0 }]
            0 (some ⟨63, 0, 0⟩)] },
    { port := 11, item := ⟨5, 1, 0, 3, 0, 0, 1, 1, 0, 4, 0, 0, 0, 0, 0, 0, 0, 0, 0, 1, 0, 0⟩, xMin := 0, xMax := 3, seams := [0], group := 0, entered := 0 },
    [], 0, ⟨63, 0, 0⟩, by decide +kernel⟩,
   ⟨{ ini [(F.couchClassAct_send, 63, 0)] with
        couch.queue := [.unit
            [{ port := 11, item := ⟨5, 1, 0, 3, 0, 0, 1, 1, 0, 4, 0, 0, 0, 0, 0, 0, 0, 0, 0, 1, 0, 0⟩, xMin := 0, xMax := 3, seams := [0], group := 0, entered := 0 }]
            0 (some ⟨63, 0, 0⟩)] },
    { port := 11, item := ⟨5, 1, 0, 3, 0, 0, 1, 1, 0, 4, 0, 0, 0, 0, 0, 0, 0, 0, 0, 1, 0, 0⟩, xMin := 0, xMax := 3, seams := [0], group := 0, entered := 0 },
    [], 0, ⟨63, 0, 0⟩, by decide +kernel⟩,
   ⟨{ State.reset with couch.marks := [(3, [⟨1, true⟩, ⟨2, false⟩])] }, 3, ⟨1, true⟩, ⟨2, false⟩, [],
    by decide +kernel⟩⟩

theorem witness_StatisticsBlocks :
    (∃ (s : State) (n : Fin 48) (e : Nat × StatsCh), (s.stats.ready.find? (fun e => e.1 == n.val) = some e) ∧
        s.stats.fifo.length < 256) ∧
    (∃ (s : State) (n : Fin 48) (e : Nat × StatsCh), (s.stats.ready.find? (fun e => e.1 == n.val) = some e) ∧ 256 ≤
        s.stats.fifo.length) ∧
    (∃ (s : State) (g : Fin 2) (n : Fin 48), s.flag F.statsCtl_mode = true ∧ s.rd F.statsChCtl_group n = g) :=
  ⟨⟨{ State.reset with
        stats.ready := [(47, { n := 1 })],
        stats.fifo := List.replicate 255 ⟨[], true, false⟩ }, 47, (47, { n := 1 }), by decide +kernel⟩,
   ⟨{ State.reset with
        stats.ready := [(47, { n := 1 })],
        stats.fifo := List.replicate 256 ⟨[], true, false⟩ }, 47, (47, { n := 1 }), by decide +kernel⟩,
   ⟨ini [(F.statsCtl_mode, 0, 1), (F.statsChCtl_group, 47, 1)], 1, 47, by decide +kernel⟩⟩

theorem witness_LayoutJobsPass :
    (∃ s : State, s.exposeImage = true ∧ s.mode ∈ [Md.configure, Md.expose] ∧ s.layout.queue.length < 64) ∧
    (∃ (s : State) (id : Nat) (rest : List Nat), s.layout.staged = id :: rest ∧ s.layout.queue.length < 64) ∧
    (∃ (s : State) (j : Job) (b : Bytes) (kek : Nat), s.mode = Md.expose ∧ s.flag F.layoutCtl_enable = true ∧
        s.layout.cur = none ∧ s.layout.queue = [j.id] ∧ s.layout.jobs = [j] ∧ j.network = true ∧ j.stage = .queued ∧
        j.body = some b ∧ j.slot < 16 ∧ (Sparse.get (fun _ => none) s.layoutKeys j.slot = some kek)) ∧
    (∃ (s : State) (j : Job), s.mode = Md.expose ∧ s.flag F.layoutCtl_enable = true ∧ s.layout.cur = none ∧
        s.layout.queue = [j.id] ∧ s.layout.jobs = [j] ∧ j.network = false ∧ j.len < 144 ∧ s.layout.results = []) ∧
    (∃ (s : State) (j : Job) (base : Nat), s.layout.cur = some j.id ∧ s.layout.jobs = [j] ∧ j.stage = .waitOut ∧
        s.outputSpace j.plainLen = some base) ∧
    (∃ (s : State) (j : Job) (b : Bytes), s.layout.cur = some j.id ∧ s.layout.jobs = [j] ∧ j.stage = .decrypt ∧
        j.codecEnd = some (none, j.plainLen) ∧ s.jobBytes j 0 j.total = some b) :=
  ⟨⟨{ ini [(F.cfgStat_runMode, 0, 3), (F.chiefMode_mode, 0, 1)] with
        layout.queue := List.range 63,
        layout.nextId := 63 }, by decide +kernel⟩,
   ⟨{ State.reset with layout.staged := [5], layout.queue := List.range 63 }, 5, [], by decide +kernel⟩,
   ⟨{ ini [(F.cfgStat_runMode, 0, 3), (F.chiefMode_mode, 0, 3), (F.layoutCtl_enable, 0, 1)] with
        layout.queue := [7],
        layout.jobs := [{ id := 7, network := true, slot := 15, body := some (zeros 52 ++ beBytes 40 0x28C9F404C4B810F4CBCCB35CFB87F8263F5786E2D80ED326CBC7F0E71A99F43BFB988B9B7A02DD21 ++ zeros 60) }],
        layoutKeys := [(15, some 0x000102030405060708090A0B0C0D0E0F101112131415161718191A1B1C1D1E1F)] },
    { id := 7, network := true, slot := 15, body := some (zeros 52 ++ beBytes 40 0x28C9F404C4B810F4CBCCB35CFB87F8263F5786E2D80ED326CBC7F0E71A99F43BFB988B9B7A02DD21 ++ zeros 60) },
    zeros 52 ++ beBytes 40 0x28C9F404C4B810F4CBCCB35CFB87F8263F5786E2D80ED326CBC7F0E71A99F43BFB988B9B7A02DD21 ++ zeros
        60, 0x000102030405060708090A0B0C0D0E0F101112131415161718191A1B1C1D1E1F, by decide +kernel⟩,
   ⟨{ ini [(F.cfgStat_runMode, 0, 3), (F.chiefMode_mode, 0, 3), (F.layoutCtl_enable, 0, 1)] with
        layout.queue := [7],
        layout.jobs := [{ id := 7, len := 143 }] }, { id := 7, len := 143 }, by decide +kernel⟩,
   ⟨{ State.reset with
        layout.cur := some 7,
        layout.jobs := [{ id := 7, stage := .waitOut, plainLen := 64 }],
        mem.plan := [⟨0, 8, false, false, 0, 64⟩] }, { id := 7, stage := .waitOut, plainLen := 64 }, 0,
    by decide +kernel⟩,
   ⟨{ ini [(F.cfgStat_runMode, 0, 3), (F.chiefMode_mode, 0, 3), (F.layoutCtl_enable, 0, 1)] with
        layout.cur := some 7,
        layout.jobs := [{ id := 7, network := true, stage := .decrypt, count := 1, body := some (zeros 152), codecEnd := some (none, 0) }] },
    { id := 7, network := true, stage := .decrypt, count := 1, body := some (zeros 152), codecEnd := some (none, 0) },
    zeros 152, by decide +kernel⟩⟩

theorem witness_MouldMakesBands :
    (∃ (s : State) (j : Job) (b : Nat), s.mode = Md.expose ∧ s.mould.running = none ∧ s.wm.bands.length < 3 ∧
        s.nextBand = some (j, b) ∧ s.layout.jobs = [j] ∧ j.stage = .verified) ∧
    (∃ (s : State) (id b : Nat), s.mould.running = some (id, b)) :=
  ⟨⟨{ ini [(F.cfgStat_runMode, 0, 3), (F.chiefMode_mode, 0, 3), (F.layoutCtl_enable, 0, 1)] with
        layout.order := [7],
        layout.jobs := [{ id := 7, stage := .verified, first := 5, count := 1 }] },
    { id := 7, stage := .verified, first := 5, count := 1 }, 5, by decide +kernel⟩,
   ⟨{ State.reset with mould.running := some (7, 5) }, 7, 5, by decide +kernel⟩⟩

theorem witness_WatermarkReleases :
    (∃ (s : State) (n : Word) (b : WmBand) (j : Job), s.wm.bands = [b] ∧ b.band = n.toNat ∧ b.whole = true ∧
        b.passed = false ∧ b.cause = none ∧ s.job b.job = some j ∧ bandCrc b.stripe b.band b.lines = leAt j.table (8
        * (b.band - j.first)) 8) ∧
    (∃ (s : State) (n : Word) (b : WmBand) (j : Job), s.wm.bands = [b] ∧ b.band = n.toNat ∧ b.whole = true ∧
        b.passed = false ∧ b.cause = none ∧ s.job b.job = some j ∧ bandCrc b.stripe b.band b.lines ≠ leAt j.table (8
        * (b.band - j.first)) 8) ∧
    (∃ (s : State) (n : Word) (t : WmStripe) (b : WmBand) (now : Int), s.wm.stripes = [t] ∧ t.ended = false ∧
        s.wm.bands = [b] ∧ b.inst = t.inst ∧ b.band = n.toNat ∧ b.passed = true ∧ s.laid.time = some now ∧ 64 *
        (n.toNat : Int) - 193 ≤ now) ∧
    (∃ (s : State) (n : Word) (t : WmStripe) (b : WmBand), s.wm.stripes = [t] ∧ t.ended = false ∧ s.wm.bands = [b] ∧
        b.inst = t.inst ∧ b.band = n.toNat ∧ b.releasing = true) ∧
    (∃ (s : State) (n : Word) (t : WmStripe) (b : WmBand) (now : Int), s.wm.stripes = [t] ∧ t.ended = false ∧
        s.wm.bands = [b] ∧ b.inst = t.inst ∧ b.band = n.toNat ∧ b.passed = false ∧ b.cause = none ∧ s.laid.time =
        some now ∧ s.wm.decided ≤ n.toNat ∧ n.toNat < t.heard ∧ 64 * (n.toNat : Int) - 80 ≤ now) :=
  ⟨⟨{ State.reset with
        wm.bands := [{ inst := 0, stripe := 1, band := 0, job := 7, cause := none, parts := List.replicate 4 (List.replicate 64 []) }],
        layout.jobs := [{ id := 7, table := leBytes 8 (bandCrc 1 0 (List.replicate 64 [])) }] }, 0,
    { inst := 0, stripe := 1, band := 0, job := 7, cause := none, parts := List.replicate 4 (List.replicate 64 []) },
    { id := 7, table := leBytes 8 (bandCrc 1 0 (List.replicate 64 [])) }, by decide +kernel⟩,
   ⟨{ State.reset with
        wm.bands := [{ inst := 0, stripe := 1, band := 0, job := 7, cause := none, parts := List.replicate 4 (List.replicate 64 []) }],
        layout.jobs := [{ id := 7, table := zeros 8 }] }, 0,
    { inst := 0, stripe := 1, band := 0, job := 7, cause := none, parts := List.replicate 4 (List.replicate 64 []) },
    { id := 7, table := zeros 8 }, by decide +kernel⟩,
   ⟨{ State.reset with
        wm.bands := [{ inst := 0, stripe := 1, band := 0, job := 7, cause := none, parts := List.replicate 4 (List.replicate 64 []), passed := true }],
        wm.stripes := [⟨0, 1, 1, false, none⟩],
        laid.time := some (-193) }, 0, ⟨0, 1, 1, false, none⟩,
    { inst := 0, stripe := 1, band := 0, job := 7, cause := none, parts := List.replicate 4 (List.replicate 64 []), passed := true },
    -193, by decide +kernel⟩,
   ⟨{ State.reset with
        wm.bands := [{ inst := 0, stripe := 1, band := 0, job := 7, cause := none, parts := List.replicate 4 (List.replicate 64 []), passed := true, releasing := true }],
        wm.stripes := [⟨0, 1, 1, false, none⟩] }, 0, ⟨0, 1, 1, false, none⟩,
    { inst := 0, stripe := 1, band := 0, job := 7, cause := none, parts := List.replicate 4 (List.replicate 64 []), passed := true, releasing := true },
    by decide +kernel⟩,
   ⟨{ State.reset with
        wm.bands := [{ inst := 0, stripe := 1, band := 0, job := 7, cause := none, parts := List.replicate 4 (List.replicate 64 []) }],
        wm.stripes := [⟨0, 1, 1, false, none⟩],
        laid.time := some (-80) }, 0, ⟨0, 1, 1, false, none⟩,
    { inst := 0, stripe := 1, band := 0, job := 7, cause := none, parts := List.replicate 4 (List.replicate 64 []) },
    -80, by decide +kernel⟩⟩

theorem witness_LaidStripes :
    (∃ s : State, s.armFree = true) ∧
    (∃ s : State, s.armFree = true) ∧
    (∃ s : State, s.laid.armed = true) ∧
    (∃ s : State, s.flag F.screeStat_warn = true ∧ s.laid.running = true ∧ s.laid.soft = none ∧ s.laid.hard = none) ∧
    (∃ s : State, s.flag F.screeStat_crit = true ∧ s.laid.running = true ∧ s.laid.hard = none) ∧
    (∃ s : State, s.laid.running = true ∧ s.laid.hard = none) ∧
    (∃ (s : State) (k : ShotTick) (rest : List ShotTick), s.laid.inbox = k :: rest ∧ s.chief.joint = none ∧
        s.laid.running = true ∧ s.laid.hard = none ∧ k.skipped = false ∧ s.laid.lastTick = some k.line ∧ k.sub ≠ 7 ∧
        s.laid.origin ≤ k.line ∧ k.line - s.laid.origin ≤ s.laid.endTime) ∧
    (∃ (s : State) (h : Fin 48) (flags : BitVec 8), s.drvInService h = true ∧ bit flags.toNat 7 = false ∧ (s.sport
        (4 * h + 1)).started = false) ∧
    (∃ (s : State) (h : Fin 48), s.drvInService h = true ∧ (s.laidCh h).lost = false) :=
  ⟨⟨ini [(F.cfgStat_runMode, 0, 3), (F.chiefMode_mode, 0, 3), (F.laidCtl_enable, 0, 1), (F.laidOriginLo_origin, 0, 2)],
    by decide +kernel⟩,
   ⟨ini [(F.cfgStat_runMode, 0, 3), (F.chiefMode_mode, 0, 3), (F.laidCtl_enable, 0, 1), (F.laidOriginLo_origin, 0, 2)],
    by decide +kernel⟩,
   ⟨{ ini [(F.cfgStat_runMode, 0, 3), (F.chiefMode_mode, 0, 3), (F.laidCtl_enable, 0, 1), (F.laidOriginLo_origin, 0, 2)]
        with
        laid.armed := true }, by decide +kernel⟩,
   ⟨{ ini [(F.cfgStat_runMode, 0, 3), (F.chiefMode_mode, 0, 3), (F.laidCtl_enable, 0, 1), (F.laidOriginLo_origin, 0, 2),
        (F.screeStat_warn, 0, 1)] with
        laid.running := true }, by decide +kernel⟩,
   ⟨{ ini [(F.cfgStat_runMode, 0, 3), (F.chiefMode_mode, 0, 3), (F.laidCtl_enable, 0, 1), (F.laidOriginLo_origin, 0, 2),
        (F.screeStat_crit, 0, 1)] with
        laid.running := true }, by decide +kernel⟩,
   ⟨{ ini [(F.cfgStat_runMode, 0, 3), (F.chiefMode_mode, 0, 3), (F.laidCtl_enable, 0, 1), (F.laidOriginLo_origin, 0, 2)]
        with
        laid.running := true }, by decide +kernel⟩,
   ⟨{ ini [(F.cfgStat_runMode, 0, 3), (F.chiefMode_mode, 0, 3), (F.laidCtl_enable, 0, 1), (F.laidOriginLo_origin, 0, 2)]
        with
        laid.running := true,
        laid.lastTick := some 5,
        laid.origin := 5,
        laid.inbox := [⟨5, 6, false, false, 0⟩] }, ⟨5, 6, false, false, 0⟩, [], by decide +kernel⟩,
   ⟨ini [(F.laneQuadStat_role, 11, 2), (F.laneQuadStat_laneMask, 11, 15)], 47, 0x7F, by decide +kernel⟩,
   ⟨ini [(F.laneQuadStat_role, 11, 2), (F.laneQuadStat_laneMask, 11, 15)], 47, by decide +kernel⟩⟩

theorem witness_ScreeExchangesAndOrder :
    (∃ (s : State) (v : Word), s.flag F.screeDctl_busy = false ∧ F.screeDctl_go.ofWord v = 1 ∧ s.exposeImage = true) ∧
    (∃ (s : State) (h : Nat), s.rd F.screeDctl_channel = h ∧ s.scree.hostWaits = true ∧ s.laid.running = false ∧
        s.measuring h = false) ∧
    (∃ (s : State) (h : Fin 48) (m : BackMsg) (d : Nat) (q : DrvReq), (s.screeCh h).buffer = [m] ∧ m.closed = true ∧
        m.ack = true ∧ m.blocks = [d] ∧ (s.screeCh h).host = some q ∧ q.ctag = bits m.ctrl 8 5 ∧ s.scree.running =
        false) ∧
    (∃ (s : State) (h : Fin 48), (s.screeCh h).host.isSome = true) ∧
    (∃ s : State, s.exposeImage = true) ∧
    (∃ s : State, s.exposeImage = true) ∧
    (∃ s : State, s.flag F.screeStat_syncing = true) ∧
    (∃ s : State, s.rd F.screeStat_measState = 3 ∧ s.scree.changed = [] ∧ s.exposeImage = true ∧ (List.range
        512).any s.columnDegraded = false) ∧
    (∃ s : State, s.flag F.screeStat_warn = true ∧ s.tempAtMost (s.warnC - s.hystC) = true ∧ (s.drvChannels.all (fun
        h => !((s.screeCh h).current && (s.screeCh h).warn)) = true)) ∧
    (∃ s : State, s.flag F.screeStat_crit = true ∧ s.tempAtMost (s.critC - s.hystC) = true ∧ (s.drvChannels.all (fun
        h => !((s.screeCh h).current && (s.screeCh h).crit)) = true)) :=
  ⟨⟨ini [(F.cfgStat_runMode, 0, 3)], 128, by decide +kernel⟩,
   ⟨{ ini [(F.cfgStat_runMode, 0, 3), (F.laneQuadStat_role, 11, 2), (F.laneQuadStat_laneMask, 11, 15),
        (F.screeDctl_channel, 0, 47)] with
        scree.hostWaits := true,
        screeChs := [(47, { ctag := 31 })] }, 47, by decide +kernel⟩,
   ⟨{ ini [(F.cfgStat_runMode, 0, 3), (F.laneQuadStat_role, 11, 2), (F.laneQuadStat_laneMask, 11, 15),
        (F.screeDctl_busy, 0, 1)] with
        screeChs := [(47, { host := some ⟨31, false⟩, buffer := [⟨true, 31 * 256, [2 ^ 64 - 1], true⟩] })] },
    47, ⟨true, 31 * 256, [2 ^ 64 - 1], true⟩, 2 ^ 64 - 1, ⟨31, false⟩, by decide +kernel⟩,
   ⟨{ ini [(F.cfgStat_runMode, 0, 3), (F.screeDctl_busy, 0, 1)] with
        screeChs := [(47, { host := some ⟨31, false⟩ })] }, 47, by decide +kernel⟩,
   ⟨ini [(F.cfgStat_runMode, 0, 3)], by decide +kernel⟩,
   ⟨ini [(F.cfgStat_runMode, 0, 3)], by decide +kernel⟩,
   ⟨ini [(F.screeStat_syncing, 0, 1)], by decide +kernel⟩,
   ⟨{ State.reset with
        regs := (ini [(F.cfgStat_runMode, 0, 3), (F.screeStat_measState, 0, 3)]).regs ++ (List.range 512).map
            (fun c => (F.screeCol_ceiling.addr c, 5)) }, by decide +kernel⟩,
   ⟨{ ini [(F.laneQuadStat_role, 11, 2), (F.laneQuadStat_laneMask, 11, 15), (F.screeStat_warn, 0, 1),
        (F.screeTempLimits_warnC, 0, 60), (F.screeTempLimits_hyst, 0, 5)] with
        screeChs := [(47, { current := true, temp := 55 })] }, by decide +kernel⟩,
   ⟨{ ini [(F.laneQuadStat_role, 11, 2), (F.laneQuadStat_laneMask, 11, 15), (F.screeStat_crit, 0, 1),
        (F.screeTempLimits_critC, 0, 70), (F.screeTempLimits_hyst, 0, 5)] with
        screeChs := [(47, { current := true, temp := 65 })] }, by decide +kernel⟩⟩

theorem witness_MeasurementCycles :
    (∃ s : State, s.scree.opened = true ∧ s.mayMeasure = true) ∧
    (∃ s : State, s.mayMeasure = true) ∧
    (∃ s : State, s.mayMeasure = true) ∧
    (∃ (s : State) (h : Fin 48), s.scree.running = true ∧ (s.screeCh h).startWaits = true) ∧
    (∃ (s : State) (h : Fin 48) (m : BackMsg), (s.screeCh h).buffer = [m] ∧ m.closed = true ∧ m.ack = false ∧
        s.scree.running = true ∧ measOk (s.rd F.screeCycle_cycle) m.ctrl m.blocks = true) ∧
    (∃ s : State, s.scree.running = true ∧ (s.drvChannels.all (fun h => (s.screeCh h).got.length == 235) = true)) ∧
    (∃ s : State, s.scree.running = true) :=
  ⟨⟨{ ini [(F.cfgStat_runMode, 0, 3), (F.laneQuadStat_role, 11, 2), (F.laneQuadStat_laneMask, 11, 15),
        (F.screeCtl_measEn, 0, 1), (F.screeCycle_cycle, 0, 255)] with
        scree.opened := true }, by decide +kernel⟩,
   ⟨ini [(F.cfgStat_runMode, 0, 3), (F.laneQuadStat_role, 11, 2), (F.laneQuadStat_laneMask, 11, 15), (F.screeCtl_measEn,
        0, 1), (F.screeCycle_cycle, 0, 255)], by decide +kernel⟩,
   ⟨ini [(F.cfgStat_runMode, 0, 3), (F.laneQuadStat_role, 11, 2), (F.laneQuadStat_laneMask, 11, 15), (F.screeCtl_measEn,
        0, 1), (F.screeCycle_cycle, 0, 255)], by decide +kernel⟩,
   ⟨{ ini [(F.cfgStat_runMode, 0, 3), (F.laneQuadStat_role, 11, 2), (F.laneQuadStat_laneMask, 11, 15),
        (F.screeCtl_measEn, 0, 1), (F.screeCycle_cycle, 0, 255)] with
        scree.running := true,
        screeChs := [(47, { startWaits := true, ctag := 31 })] }, 47, by decide +kernel⟩,
   ⟨{ ini [(F.cfgStat_runMode, 0, 3), (F.laneQuadStat_role, 11, 2), (F.laneQuadStat_laneMask, 11, 15),
        (F.screeCtl_measEn, 0, 1), (F.screeCycle_cycle, 0, 255)] with
        scree.running := true,
        screeChs := [(47,
            { startSent := true, buffer := [⟨false, (2 ^ 8 * 255 + 2 ^ 16 * 5616 + 2 ^ 32), [(0x400040004000 + 2 ^ 48 * crc16 (leBytes 5 (255 + 2 ^ 8 * 5616 + 2 ^ 24) ++ leBytes 6 0x400040004000))], true⟩] })] },
    47,
    ⟨false, (2 ^ 8 * 255 + 2 ^ 16 * 5616 + 2 ^ 32), [(0x400040004000 + 2 ^ 48 * crc16 (leBytes 5 (255 + 2 ^ 8 * 5616 + 2
        ^ 24) ++ leBytes 6 0x400040004000))], true⟩, by decide +kernel⟩,
   ⟨{ ini [(F.cfgStat_runMode, 0, 3), (F.laneQuadStat_role, 11, 2), (F.laneQuadStat_laneMask, 11, 15),
        (F.screeCtl_measEn, 0, 1), (F.screeCycle_cycle, 0, 255)] with
        scree.running := true,
        screeChs := [44, 45, 46, 47].map (fun h => (h, { got := List.range 235 })) }, by decide +kernel⟩,
   ⟨{ ini [(F.cfgStat_runMode, 0, 3), (F.laneQuadStat_role, 11, 2), (F.laneQuadStat_laneMask, 11, 15),
        (F.screeCtl_measEn, 0, 1), (F.screeCycle_cycle, 0, 255)] with
        scree.running := true }, by decide +kernel⟩⟩

theorem witness_ReamRingsServe :
    (∃ (s : State) (e : Fin 4), s.giveJobs = s ∧ (s.engine e).run = none ∧ (s.engine e).queued = none ∧ s.reamPosted
        e = true ∧ s.reamHostMode = true ∧ s.mode ∉ [Md.park, Md.recovery] ∧ s.noneBad = true ∧ (reamDesc (s.bytes
        (s.ringAddr e (s.rd F.reamRingHead_count e)) 64)).hold = false) ∧
    (∃ (s : State) (e : Fin 4) (tail : Word), (tail.toNat + 2 ^ 32 - s.rd F.reamRingDone_count e) % 2 ^ 32 ≤
        s.ringSize e) ∧
    (∃ (s : State) (e : Fin 4) (tail : Word), s.ringSize e < (tail.toNat + 2 ^ 32 - s.rd F.reamRingDone_count e) % 2
        ^ 32) ∧
    (∃ (s : State) (e : Fin 4), s.ringOpen e = true) ∧
    (∃ (s : State) (e : Fin 4), s.reamPosted e = true) ∧
    (∃ (s : State) (e : Fin 4), s.reamPosted e = true ∧ s.noneBad = true ∧ (reamDesc (s.bytes (s.ringAddr e (s.rd
        F.reamRingHead_count e)) 64)).hold = true ∧ (s.engine e).released = false) ∧
    (∃ (s : State) (e : Fin 4) (r : ReamRun), (s.engine e).run = some r ∧ r.client = 1) :=
  ⟨⟨ini [(F.chiefMode_mode, 0, 1), (F.reamCtl_hostEn, 3, 1), (F.reamRingTail_count, 3, 1)], 3,
    by decide +kernel, by decide +kernel, by decide +kernel, by decide +kernel, by decide +kernel,
    by decide +kernel, State.noneBad_of rfl (by decide +kernel) clean, by decide +kernel⟩,
   ⟨ini [(F.reamRingSize_size, 3, 65536)], 3, 65536, by decide +kernel⟩,
   ⟨ini [(F.reamRingSize_size, 3, 65536)], 3, 65537, by decide +kernel⟩,
   ⟨State.reset, 3, by decide +kernel⟩,
   ⟨ini [(F.chiefMode_mode, 0, 1), (F.reamCtl_hostEn, 3, 1), (F.reamRingTail_count, 3, 1)], 3,
    by decide +kernel⟩,
   ⟨{ ini [(F.chiefMode_mode, 0, 1), (F.reamCtl_hostEn, 3, 1), (F.reamRingTail_count, 3, 1)] with
        hbm := [(0, 0x40)] }, 3, by decide +kernel, State.noneBad_of rfl (by decide +kernel) clean,
    by decide +kernel, by decide +kernel⟩,
   ⟨{ ini [(F.chiefMode_mode, 0, 1), (F.reamCtl_hostEn, 3, 1), (F.reamRingTail_count, 3, 1)] with
        engines := [(3, { run := some ⟨1, 2 ^ 32 - 1, { ctl := 1, inLen := 0 }, none, 0⟩ })] }, 3,
    ⟨1, 2 ^ 32 - 1, { ctl := 1, inLen := 0 }, none, 0⟩, by decide +kernel⟩⟩

theorem witness_HbmControllersServe :
    (∃ (s : State) (q : Fin 19) (u : Nat) (d : Bytes), u % 64 = 0 ∧ u + 64 ≤ Config.hbmBytes ∧ d.length = 64 ∧
        s.portInFlight q (hbmPc u / 4) < 32 ∧ (s.pcs (hbmPc u)).writes.length < 64 ∧ s.pcState (hbmPc u) ≠ 4) ∧
    (∃ (s : State) (q : Fin 19) (u : Nat), u % 64 = 0 ∧ u + 64 ≤ Config.hbmBytes ∧ s.portInFlight q (hbmPc u / 4) <
        32 ∧ (s.pcs (hbmPc u)).reads.length < 64 ∧ s.pcState (hbmPc u) ≠ 4) ∧
    (∃ (s : State) (p : Fin 64) (r : HbmReq), s.pcState p = 0 ∧ (s.pcs p).reads = [r] ∧ (s.pcs p).writes = [] ∧
        (s.pcs p).drain = false ∧ hbmBank r.unit < 48) ∧
    (∃ (s : State) (p : Fin 64) (r : HbmReq) (rest : List HbmReq), (s.pcs p).issued = r :: rest ∧ r.refused = false
        ∧ s.mem.bad = []) ∧
    (∃ (s : State) (p : Fin 64), (s.pcs p).replay = false) ∧
    (∃ (s : State) (p : Fin 64), (s.pcs p).replay = true) ∧
    (∃ (s : State) (p : Fin 64), s.pcState p = 0 ∧ (s.pcs p).reads = [] ∧ (s.pcs p).writes = []) ∧
    (∃ (s : State) (p : Fin 64), s.rd F.hbmPolicy_srPolicy = 2 ∧ s.pcState p = 0 ∧ (s.pcs p).reads = [] ∧ (s.pcs
        p).writes = []) ∧
    (∃ (s : State) (p : Fin 64), s.pcState p = 3) ∧
    (∃ (s : State) (p : Fin 64), s.pcState p = 3) :=
  ⟨⟨State.reset, 18, 0xBFFFFFFC0, List.replicate 64 255, by decide +kernel⟩,
   ⟨{ State.reset with hbm := [(0xBFFFFFFC0, 1)] }, 18, 0xBFFFFFFC0, by decide +kernel⟩,
   ⟨{ State.reset with
        mem.pcs := [(63, { reads := [⟨18, 0xBFFFFFFC0, false, 0, zeros 64, 0, false, false⟩] })] }, 63,
    ⟨18, 0xBFFFFFFC0, false, 0, zeros 64, 0, false, false⟩, by decide +kernel⟩,
   ⟨{ State.reset with
        mem.pcs := [(63, { issued := [⟨18, 0xBFFFFFFC0, false, 0, zeros 64, 0, false, false⟩] })] }, 63,
    ⟨18, 0xBFFFFFFC0, false, 0, zeros 64, 0, false, false⟩, [], by decide +kernel⟩,
   ⟨{ State.reset with
        mem.pcs := [(63, { issued := [⟨18, 0xBFFFFFFC0, false, 0, zeros 64, 0, false, false⟩] })] }, 63,
    by decide +kernel⟩,
   ⟨{ State.reset with
        mem.pcs := [(63, { replay := true, issued := [⟨18, 0xBFFFFFFC0, false, 0, zeros 64, 0, false, false⟩] })] },
    63, by decide +kernel⟩,
   ⟨{ State.reset with mem.pcs := [(63, { postponed := [(47, 8)] })] }, 63, by decide +kernel⟩,
   ⟨ini [(F.hbmPolicy_srPolicy, 0, 2)], 63, by decide +kernel⟩,
   ⟨ini [(F.hbmPcStat_state, 63, 3)], 63, by decide +kernel⟩,
   ⟨ini [(F.hbmPcStat_state, 63, 3)], 63, by decide +kernel⟩⟩

theorem witness_HbmUpkeep :
    (∃ (s : State) (a : BitVec 36) (d : Bytes), s.flag F.hostStat_d3hot = false ∧ s.bar2Open = true ∧ a.toNat <
        Config.hbmBytes ∧ s.writeProtected a.toNat d.length = false ∧ s.noneBad = true) ∧
    (∃ (s : State) (a : BitVec 36), s.flag F.hostStat_d3hot = false ∧ s.bar2Open = true ∧ a.toNat < Config.hbmBytes
        ∧ s.noneBad = true ∧ s.chief.tristate = false) ∧
    (∃ (s : State) (p : Fin 64), s.pcState p = 0 ∧ (s.pcs p).reads = [] ∧ (s.pcs p).writes = []) ∧
    (∃ (s : State) (p : Fin 64), (s.pcs p).scrubDeferred = true) ∧
    (∃ (s : State) (c : CmdRef) (v : BitVec 8), s.serves c = true ∧ s.stewardHalted 3 = false ∧ s.cmMode = true ∧
        v.toNat ≤ 2 ∧ s.mem.target = none ∧ v.toNat ≠ s.rd F.hbmStat_speed) ∧
    (∃ (s : State) (c : CmdRef), s.serves c = true ∧ s.stewardHalted 3 = false ∧ s.cmMode = true ∧ s.mem.target =
        none) ∧
    (∃ (s : State) (c : CmdRef) (p : BitVec 8) (us : BitVec 16), s.serves c = true ∧ s.stewardHalted 3 = false ∧
        p.toNat ≤ 2 ∧ 10 ≤ us.toNat) :=
  ⟨⟨ini [(F.chiefMode_mode, 0, 1), (F.hbmStat_state, 0, 3)], 0xBFFFFFFFF, [255], by decide +kernel,
    by decide +kernel, by decide +kernel, by decide +kernel, State.noneBad_of rfl (by decide +kernel) clean⟩,
   ⟨{ ini [(F.chiefMode_mode, 0, 1), (F.hbmStat_state, 0, 3)] with hbm := [(0xBFFFFFFFF, 9)] }, 0xBFFFFFFFF,
    by decide +kernel, by decide +kernel, by decide +kernel, State.noneBad_of rfl (by decide +kernel) clean,
    by decide +kernel⟩,
   ⟨State.reset, 63, by decide +kernel⟩,
   ⟨{ State.reset with mem.pcs := [(63, { scrubDeferred := true })] }, 63, by decide +kernel⟩,
   ⟨ini [(F.chiefMode_mode, 0, 1), (F.hbmStat_state, 0, 3)], ring, 2, by decide +kernel⟩,
   ⟨ini [(F.chiefMode_mode, 0, 1), (F.hbmStat_state, 0, 3)], net, by decide +kernel⟩,
   ⟨ini [(F.chiefMode_mode, 0, 1), (F.hbmStat_state, 0, 3)], ring, 2, 10, by decide +kernel⟩⟩

theorem witness_DmaChannelsMove :
    (∃ (s : State) (i : Fin 32), s.hostHolds (Res.dma + i) = true ∧ ((s.dmaState i = Ds.idle ∨ s.dmaState i =
        Ds.halted))) ∧
    (∃ (s : State) (i : Fin 32), ((s.dmaState i = Ds.idle ∨ s.dmaState i = Ds.halted))) ∧
    (∃ (s : State) (i : Fin 32), s.dmaState i = Ds.wait) ∧
    (∃ (s : State) (i : Fin 32), s.hostHolds (Res.dma + i) = true ∧ s.dmaState i = Ds.run ∧ (s.dma i).reads = []) ∧
    (∃ (s : State) (i : Fin 32) (b : Bytes), s.dmaState i = Ds.fetch ∧ (s.dma i).aborting = false ∧ (s.dma
        i).descHbm = false ∧ b.length = 64 ∧ s.dmaFault b (dmaDesc b) = none) ∧
    (∃ (s : State) (i : Fin 32) (d : DmaDesc), s.dmaState i = Ds.run ∧ (s.dma i).desc = some d ∧ (s.dma i).done =
        d.len ∧ (s.dma i).reads = [] ∧ (s.dma i).wroteBack = false ∧ d.endFlag = true ∧ d.wb = false) ∧
    (∃ (s : State) (i : Fin 32), s.dmaState i = Ds.fetch ∧ (s.dma i).descHbm = false) ∧
    (∃ (s : State) (i : Fin 32) (b : Bytes) (d : DmaDesc) (off : Nat) (rest : List (Nat × Nat)), s.dmaState i =
        Ds.run ∧ (s.dma i).desc = some d ∧ (s.dma i).reads = (off, b.length) :: rest ∧ b ≠ [] ∧ s.noneBad = true) ∧
    (∃ (s : State) (i : Fin 32) (d : DmaDesc), (List.range 6).filter s.ringWants = [] ∧ (List.range 32).filter
        s.dmaWants = [i.val] ∧ (s.dma i).desc = some d ∧ d.dir = 2 ∧ s.noneBad = true) ∧
    (∃ (s : State) (i : Fin 32) (d : DmaDesc), s.dmaWants i = true ∧ s.flag F.dmaCtl_prio i = false ∧ (s.dma i).desc
        = some d ∧ d.dir = 2 ∧ s.noneBad = true) :=
  ⟨⟨ini [(F.cfgOwner_domain, 99, 2), (F.dmaStat_state, 31, Ds.halted), (F.dmaDescLo_desc, 31, 0x40)], 31,
    by decide +kernel⟩,
   ⟨ini [(F.dmaDescLo_desc, 31, 0x40)], 31, by decide +kernel⟩,
   ⟨ini [(F.cfgOwner_domain, 99, 2), (F.dmaStat_state, 31, Ds.wait)], 31, by decide +kernel⟩,
   ⟨{ ini [(F.cfgOwner_domain, 99, 2), (F.dmaStat_state, 31, Ds.run)] with
        host.dma := [(31,
            { desc := some { dir := 2, intHalf := false, intFull := false, endFlag := true, wb := false, wait := false, tag := 0, len := 4097, src := 0, dst := 8192, next := 0 } })] },
    31, by decide +kernel⟩,
   ⟨ini [(F.cfgOwner_domain, 99, 2), (F.dmaStat_state, 31, Ds.fetch)], 31,
    leBytes 4 (2 + 16 + 64) ++ leBytes 4 2147483648 ++ leBytes 8 0 ++ leBytes 8 (0xC00000000 - 2147483648) ++ zeros 40,
    by decide +kernel⟩,
   ⟨{ ini [(F.cfgOwner_domain, 99, 2), (F.dmaStat_state, 31, Ds.run)] with
        host.dma := [(31,
            { desc := some { dir := 2, intHalf := false, intFull := false, endFlag := true, wb := false, wait := false, tag := 0, len := 4097, src := 0, dst := 8192, next := 0 }, done := 4097, read := 4097 })] },
    31,
    { dir := 2, intHalf := false, intFull := false, endFlag := true, wb := false, wait := false, tag := 0, len := 4097, src := 0, dst := 8192, next := 0 },
    by decide +kernel⟩,
   ⟨ini [(F.cfgOwner_domain, 99, 2), (F.dmaStat_state, 31, Ds.fetch)], 31, by decide +kernel⟩,
   ⟨{ ini [(F.cfgOwner_domain, 99, 2), (F.dmaStat_state, 31, Ds.run)] with
        host.dma := [(31,
            { desc := some { dir := 0, intHalf := false, intFull := false, endFlag := true, wb := false, wait := false, tag := 0, len := 4097, src := 0, dst := 8192, next := 0 }, read := 2, reads := [(0, 2)] })] },
    31, [1, 2],
    { dir := 0, intHalf := false, intFull := false, endFlag := true, wb := false, wait := false, tag := 0, len := 4097, src := 0, dst := 8192, next := 0 },
    0, [], by decide +kernel, by decide +kernel, by decide +kernel, by decide +kernel,
    State.noneBad_of rfl (by decide +kernel) clean⟩,
   ⟨{ ini [(F.cfgOwner_domain, 99, 2), (F.dmaStat_state, 31, Ds.run)] with
        host.dma := [(31,
            { desc := some { dir := 2, intHalf := false, intFull := false, endFlag := true, wb := false, wait := false, tag := 0, len := 4097, src := 0, dst := 8192, next := 0 } })],
        hbm := [(0, 7)] }, 31,
    { dir := 2, intHalf := false, intFull := false, endFlag := true, wb := false, wait := false, tag := 0, len := 4097, src := 0, dst := 8192, next := 0 },
    by decide +kernel, by decide +kernel, by decide +kernel, by decide +kernel,
    State.noneBad_of rfl (by decide +kernel) clean⟩,
   ⟨{ ini [(F.cfgOwner_domain, 99, 2), (F.dmaStat_state, 31, Ds.run)] with
        host.dma := [(31,
            { desc := some { dir := 2, intHalf := false, intFull := false, endFlag := true, wb := false, wait := false, tag := 0, len := 4097, src := 0, dst := 8192, next := 0 } })],
        hbm := [(0, 7)] }, 31,
    { dir := 2, intHalf := false, intFull := false, endFlag := true, wb := false, wait := false, tag := 0, len := 4097, src := 0, dst := 8192, next := 0 },
    by decide +kernel, by decide +kernel, by decide +kernel, by decide +kernel,
    State.noneBad_of rfl (by decide +kernel) clean⟩⟩

theorem witness_HostCommandsComplete :
    (∃ (s : State) (v : Word), (v.toNat + 2 ^ 32 - s.rd F.hostCmdFetched_count) % 2 ^ 32 + s.outstanding ≤ 4096) ∧
    (∃ (s : State) (v : Word), 4096 < (v.toNat + 2 ^ 32 - s.rd F.hostCmdFetched_count) % 2 ^ 32 + s.outstanding) ∧
    (∃ s : State, s.flag F.hostCmdCtl_cmdEn = false) ∧
    (∃ (s : State) (b : Bytes), s.flag F.hostCmdCtl_cmdEn = true ∧ s.flag F.chiefMode_ready = true ∧ s.rd
        F.hostCmdFetched_count ≠ s.rd F.hostCmdTail_count ∧ s.outstanding < 4096 ∧ s.readMem (s.cmdBase + 64 * (s.rd
        F.hostCmdFetched_count % 4096)) 64 = some b ∧ entryFault b (s.rd F.hostCmdAccepted_count) = none) ∧
    (∃ (s : State) (c : CmdRef), s.serves c = true) ∧
    (∃ (s : State) (c : CmdRef), s.serves c = true) ∧
    (∃ (s : State) (c : CmdRef) (o : OutCmd), s.findCmd c = some o ∧ o.opcode ∉ unlimited ∧ (s.host.timedOut.any
        (fun x => x.cseq == c.cseq && x.stream == streamOf c) = false)) :=
  ⟨⟨ini [(F.hostCmdFetched_count, 0, 2 ^ 32 - 1)], 4095, by decide +kernel⟩,
   ⟨ini [(F.hostCmdFetched_count, 0, 2 ^ 32 - 1)], 4096, by decide +kernel⟩,
   ⟨State.reset, by decide +kernel⟩,
   ⟨{ ini [(F.chiefMode_mode, 0, 1), (F.chiefMode_ready, 0, 1), (F.hostCmdCtl_cmdEn, 0, 1), (F.hostCmdTail_count, 0, 1)]
        with
        hbm := cells 0 ((leBytes 4 1 ++ zeros 56) ++ leBytes 4 (crc32c (leBytes 4 1 ++ zeros 56))) },
    (leBytes 4 1 ++ zeros 56) ++ leBytes 4 (crc32c (leBytes 4 1 ++ zeros 56)), by decide +kernel,
    by decide +kernel, by decide +kernel, by decide +kernel,
    (State.readMem_of_noneBad (State.noneBad_of rfl (by decide +kernel) clean) _ _).trans (by decide +kernel),
    by decide +kernel⟩,
   ⟨ini [(F.chiefMode_mode, 0, 1)], ring, by decide +kernel⟩,
   ⟨ini [(F.chiefMode_mode, 0, 5)], net, by decide +kernel⟩,
   ⟨{ ini [(F.chiefMode_mode, 0, 1)] with
        host.outstanding := [⟨2 ^ 32 - 1, 0x02, [], false, false, none, true⟩] }, ring,
    ⟨2 ^ 32 - 1, 0x02, [], false, false, none, true⟩, by decide +kernel⟩⟩

theorem witness_HostRingsServe :
    (∃ (s : State) (k : Fin 6), s.flag F.ringCtl_en k = false) ∧
    (∃ (s : State) (k : Fin 6) (v : Word), (v.toNat + 2 ^ 32 - s.rd F.ringCons_count k) % 2 ^ 32 ≤ s.outUsed k) ∧
    (∃ (s : State) (k : Fin 6) (v : Word), s.outUsed k < (v.toNat + 2 ^ 32 - s.rd F.ringCons_count k) % 2 ^ 32) ∧
    (∃ (s : State) (k : Fin 6) (e : Bytes), k.val ≠ 5 ∧ s.outNext k = some e ∧ s.outOpen k = true ∧ s.outUsed k + 1
        ≤ s.outSize k ∧ s.chief.tristate = false) ∧
    (∃ (s : State) (v : Fin 64), modRing v ≠ none ∧ (Sparse.get (fun _ => 0) s.host.unsignalled v ≠ 0)) ∧
    (∃ (s : State) (v : Word), (v.toNat + 2 ^ 32 - s.rd F.hostTxHead_count) % 2 ^ 32 ≤ s.txSize) ∧
    (∃ (s : State) (h f : Bytes), s.flag F.hostTxCtl_en = true ∧ s.rd F.hostTxHead_count ≠ s.rd F.hostTxTail_count ∧
        s.readMem (s.rd64 F.hostTxBaseLo_base F.hostTxBaseHi_base + 9728 * (s.rd F.hostTxHead_count % s.txSize)) 64
        = some h ∧ 60 ≤ leAt h 0 2 ∧ leAt h 0 2 ≤ 9596 ∧ leAt h 2 1 < 16 ∧ s.macPort (leAt h 2 1) = true ∧ s.flag
        F.macStat_linkUp (leAt h 2 1) = true ∧ leAt h 3 1 = 0 ∧ (h.drop 6).any (· != 0) = false ∧ s.readMem (s.rd64
        F.hostTxBaseLo_base F.hostTxBaseHi_base + 9728 * (s.rd F.hostTxHead_count % s.txSize) + 64) (leAt h 0 2) =
        some f ∧ s.chief.tristate = false) ∧
    (∃ s : State, s.host.digestRunning = false) ∧
    (∃ s : State, s.host.digestRunning = true) ∧
    (∃ s : State, s.host.digestRunning = true) :=
  ⟨⟨State.reset, 5, by decide +kernel⟩,
   ⟨ini [(F.ringProd_count, 5, 3), (F.ringCons_count, 5, 2 ^ 32 - 1)], 5, 3, by decide +kernel⟩,
   ⟨ini [(F.ringProd_count, 5, 3), (F.ringCons_count, 5, 2 ^ 32 - 1)], 5, 4, by decide +kernel⟩,
   ⟨{ ini [(F.ringCtl_en, 4, 1), (F.ringSize_size, 4, 16), (F.ringProd_count, 4, 15)] with
        host.rxStaged := [zeros 64] }, 4, zeros 64, by decide +kernel⟩,
   ⟨{ State.reset with host.unsignalled := [(63, 1)] }, 63, by decide +kernel⟩,
   ⟨ini [(F.hostTxHead_count, 0, 2 ^ 32 - 1)], 15, by decide +kernel⟩,
   ⟨{ ini [(F.laneQuadStat_role, 12, 6), (F.laneQuadStat_laneMask, 12, 15), (F.macStat_linkUp, 0, 1), (F.hostTxCtl_en,
        0, 1), (F.hostTxTail_count, 0, 1)] with
        hbm := cells 0 ((leBytes 2 60 ++ zeros 62) ++ List.replicate 60 7) }, (leBytes 2 60 ++ zeros 62),
    List.replicate 60 7, by decide +kernel, by decide +kernel,
    (State.readMem_of_noneBad (State.noneBad_of rfl (by decide +kernel) clean) _ _).trans (by decide +kernel),
    by decide +kernel, by decide +kernel, by decide +kernel, by decide +kernel, by decide +kernel,
    by decide +kernel, by decide +kernel,
    (State.readMem_of_noneBad (State.noneBad_of rfl (by decide +kernel) clean) _ _).trans (by decide +kernel),
    by decide +kernel⟩,
   ⟨State.reset, by decide +kernel⟩,
   ⟨{ State.reset with host.digestRunning := true }, by decide +kernel⟩,
   ⟨{ State.reset with host.digestRunning := true }, by decide +kernel⟩⟩

theorem witness_StewardsAndClaims :
    (∃ (s : State) (i : Fin 4), s.stewardState i = 0 ∧ s.update.activation = none ∧ (((Sparse.get (fun _ => [])
        s.chief.restarts i).filter (fun t => decide (s.clock < t + 250000000))).length < 3)) ∧
    (∃ (s : State) (i : Fin 4), s.stewardState i = 0 ∧ s.update.activation = none ∧ (3 ≤ ((Sparse.get (fun _ => [])
        s.chief.restarts i).filter (fun t => decide (s.clock < t + 250000000))).length)) ∧
    (∃ (s : State) (i : Fin 4), s.stewardState i = 1) ∧
    (∃ (s : State) (i : BitVec 8), islandAssigned i.toNat = true ∧ s.isGated i.toNat = false ∧ s.nominalKhz i.toNat
        ≠ 0) ∧
    (∃ (s : State) (c : CmdRef) (r : BitVec 16), s.serves c = true ∧ s.mode ≠ Md.park ∧ r.toNat < Res.count ∧
        s.reservedFor r.toNat = none ∧ s.ownerDomain r.toNat = Dom.free) ∧
    (∃ (s : State) (c : CmdRef) (r : BitVec 16) (g : BitVec 12), s.serves c = true ∧ s.mode ≠ Md.park ∧ r.toNat <
        Res.count ∧ s.reservedFor r.toNat = none ∧ s.ownerDomain r.toNat ≠ Dom.free ∧ s.owner r.toNat ≠ ownerOf c +
        g.toNat) ∧
    (∃ (s : State) (c : CmdRef) (r : BitVec 16), s.serves c = true ∧ s.mode ≠ Md.park ∧ r.toNat < Res.count ∧
        s.ownerDomain r.toNat ≠ Dom.free ∧ s.ownerDomain r.toNat = ownerOf c / 4096) :=
  ⟨⟨{ State.reset with chief.restarts := [(3, [0, 1])] }, 3, by decide +kernel⟩,
   ⟨{ State.reset with chief.restarts := [(3, [0, 0, 1])] }, 3, by decide +kernel⟩,
   ⟨ini [(F.chiefStewardStat_memoryState, 0, 1)], 3, by decide +kernel⟩,
   ⟨State.reset, 0x82, by decide +kernel⟩,
   ⟨ini [(F.chiefMode_mode, 0, 1)], net, 1539, by decide +kernel⟩,
   ⟨ini [(F.chiefMode_mode, 0, 1), (F.cfgOwner_domain, 1539, 2)], ring, 1539, 4095, by decide +kernel⟩,
   ⟨ini [(F.chiefMode_mode, 0, 1), (F.cfgOwner_domain, 1539, 3)], net, 1539, by decide +kernel⟩⟩

theorem witness_ModeChanges :
    (∃ (s : State) (c : CmdRef) (m : BitVec 8), s.serves c = true ∧ s.changing = false ∧ s.chief.waiting = [] ∧
        s.mode = Md.configure ∧ ((m.toNat = Md.inspect ∨ m.toNat = Md.expose)) ∧ s.rd F.cfgStat_runMode = m.toNat ∧
        [0, 1, 2, 3].map s.stewardState = [0, 0, 0, 0] ∧ s.failedFor m.toNat none = none) ∧
    (∃ (s : State) (c : CmdRef), s.serves c = true ∧ s.changing = false ∧ s.chief.waiting = [] ∧ s.mode =
        Md.configure) ∧
    (∃ (s : State) (i : Fin 4) (j : Joint), s.chief.joint = some j ∧ j.committed = false ∧ i.val ∉ j.ready ∧
        s.stewardState i = 0 ∧ j.kind = .load ∧ j.ready.length < 3) ∧
    (∃ (s : State) (i : Fin 4) (j : Joint) (m : Nat), s.chief.joint = some j ∧ j.committed = false ∧ i.val ∉ j.ready
        ∧ s.stewardState i = 0 ∧ j.kind = .enter m ∧ s.entryRefusal m i = none ∧ j.ready.length = 3 ∧ s.reel.v = 0) ∧
    (∃ (s : State) (j : Joint) (t : Trans), s.chief.joint = some j ∧ j.committed = false ∧ s.cfg.load = none ∧
        s.chief.trans = some t ∧ t.opcode = 1 ∧ s.serves t.cmd = true ∧ s.chief.waiting = []) ∧
    (∃ (s : State) (j : Joint) (l : Int) (m : Nat), s.chief.joint = some j ∧ j.target = some l ∧ j.kind = .enter m) ∧
    (∃ (s : State) (t : Trans), s.chief.joint = none ∧ s.chief.trans = some t ∧ t.applied = true ∧ t.opcode = 1 ∧
        t.newMode < 5 ∧ ((s.mode = Md.configure ∨ s.mode = Md.maintain)) ∧ s.serves t.cmd = true ∧ s.chief.waiting =
        []) ∧
    (∃ (s : State) (t : Trans), s.draining = some t ∧ s.pathEmpty = true ∧ t.opcode = 1 ∧ s.serves t.cmd = true ∧
        s.chief.waiting = []) ∧
    (∃ (s : State) (t : Trans), s.draining = some t ∧ s.pathEmpty = false ∧ t.opcode = 1 ∧ s.chief.waiting = []) ∧
    (∃ (s : State) (c : CmdRef), s.serves c = true ∧ s.changing = false ∧ s.chief.waiting = [] ∧ ((s.mode =
        Md.configure ∨ s.mode = Md.maintain)) ∧ s.lockHolder = none) :=
  ⟨⟨ini [(F.chiefMode_mode, 0, 1), (F.cfgStat_runMode, 0, 3)], ring, 3, by decide +kernel⟩,
   ⟨ini [(F.chiefMode_mode, 0, 1)], net, by decide +kernel⟩,
   ⟨{ State.reset with chief.joint := some { kind := .load, ready := [0, 1] } }, 3,
    { kind := .load, ready := [0, 1] }, by decide +kernel⟩,
   ⟨{ ini [(F.chiefMode_mode, 0, 1), (F.cfgStat_runMode, 0, 3)] with
        chief.joint := some { kind := .enter 3, ready := [0, 1, 2] } }, 3,
    { kind := .enter 3, ready := [0, 1, 2] }, 3, by decide +kernel⟩,
   ⟨{ ini [(F.chiefMode_mode, 0, 1)] with
        chief.joint := some { kind := .enter 3 },
        chief.trans := some { cmd := ring, opcode := 1, newMode := 3 } }, { kind := .enter 3 },
    { cmd := ring, opcode := 1, newMode := 3 }, by decide +kernel⟩,
   ⟨{ ini [(F.chiefMode_mode, 0, 1)] with
        chief.joint := some { kind := .enter 3, committed := true, target := some 5 } },
    { kind := .enter 3, committed := true, target := some 5 }, 5, 3, by decide +kernel⟩,
   ⟨{ ini [(F.chiefMode_mode, 0, 1)] with
        chief.trans := some { cmd := ring, opcode := 1, newMode := 4, applied := true } },
    { cmd := ring, opcode := 1, newMode := 4, applied := true }, by decide +kernel⟩,
   ⟨{ ini [(F.chiefMode_mode, 0, 2)] with
        chief.trans := some { cmd := ring, opcode := 1, newMode := 1, applied := true } },
    { cmd := ring, opcode := 1, newMode := 1, applied := true }, by decide +kernel⟩,
   ⟨{ ini [(F.chiefMode_mode, 0, 2)] with
        chief.trans := some { cmd := ring, opcode := 1, newMode := 1, applied := true },
        reel.backlog := [⟨0, 0, false⟩] }, { cmd := ring, opcode := 1, newMode := 1, applied := true },
    by decide +kernel⟩,
   ⟨ini [(F.chiefMode_mode, 0, 4)], ring, by decide +kernel⟩⟩

theorem bank_hyps (X : List Host.Cell) (hF : X = bank.flash) :
    (fun (s : State) (c : CmdRef) (x : Session) (img : Image) => s.serves c = true ∧ s.changing = false ∧
        s.chief.waiting = [] ∧ s.mode ≠ Md.park ∧ s.ownSession c = some x ∧ s.rd F.updStat_state = Us.staged ∧
        (partOfType x.got 6).map (·.2.digest) = (partOfType (s.manifest s.activeBank) 6).map (·.2.digest) ∧
        ((List.range 6).find? (fun i => !s.bankPartOk (1 - s.activeBank) i) = none) ∧ (s.checkBytes (s.bankImage (1
        - s.activeBank))).toOption = some img) (withBank X) ring { stream := none, addr := 0, len := 0 } (imageOf
        image imageRecs) :=
  ⟨by rw [hF]; decide +kernel,
   by rw [hF]; decide +kernel,
   by rw [hF]; decide +kernel,
   by rw [hF]; decide +kernel,
   by rw [hF]; decide +kernel,
   by rw [hF]; decide +kernel,
   by rw [bank_active hF]; exact bank_no_image hF,
   bank_parts hF,
   bank_checks hF (by rw [hF]; decide +kernel)⟩

theorem witness_LoadAndActivate :
    (∃ (s : State) (c : CmdRef) (a : BitVec 64) (n : Word) (img : Image), s.serves c = true ∧ s.changing = false ∧
        s.chief.waiting = [] ∧ s.mode = Md.configure ∧ s.lockHolder = none ∧ a.toNat % 64 = 0 ∧ n.toNat ≠ 0 ∧
        n.toNat ≤ imageMax ∧ a.toNat + n.toNat ≤ Config.hbmBytes ∧ ((((s.takeCmd c).takeLock loadHolder).wr
        F.cfgStat_state 0 1).checkHbm a.toNat n.toNat).toOption = some img ∧ ((((s.takeCmd c).takeLock
        loadHolder).wr F.cfgStat_state 0 1).wr F.cfgStat_state 0 2).dryPass img true c.stream.isNone = none ∧ [0, 1,
        2, 3].map s.stewardState = [0, 0, 0, 0]) ∧
    (∃ (s : State) (l : Load), s.cfg.load = some l ∧ s.chief.joint = none ∧ s.rd F.cfgStat_state = 3 ∧ s.rd
        F.cfgStat_startMode = 1 ∧ s.serves l.cmd = true ∧ s.chief.waiting = []) ∧
    (∃ (s : State) (c : CmdRef) (x : Session) (img : Image), s.serves c = true ∧ s.changing = false ∧
        s.chief.waiting = [] ∧ s.mode ≠ Md.park ∧ s.ownSession c = some x ∧ s.rd F.updStat_state = Us.staged ∧
        (partOfType x.got 6).map (·.2.digest) = (partOfType (s.manifest s.activeBank) 6).map (·.2.digest) ∧
        ((List.range 6).find? (fun i => !s.bankPartOk (1 - s.activeBank) i) = none) ∧ (s.checkBytes (s.bankImage (1
        - s.activeBank))).toOption = some img) ∧
    (∃ (s : State) (c : CmdRef), s.update.activation = some { cmd := c, image := none } ∧ s.serves c = true ∧
        s.chief.waiting = []) :=
  ⟨⟨withImage, net, 64, 500, imageOf image imageRecs, by decide +kernel, by decide +kernel, by decide +kernel,
    by decide +kernel, by decide +kernel, by decide +kernel, by decide +kernel, by decide +kernel,
    by decide +kernel,
    checkHbm_cells (State.noneBad_of rfl (by decide +kernel) clean) rfl image_length (by decide) (by decide +kernel) (by
        decide +kernel) image_checks, by decide +kernel, by decide +kernel⟩,
   ⟨{ ini [(F.chiefMode_mode, 0, 1), (F.cfgStat_state, 0, 3), (F.cfgStat_startMode, 0, 1)] with
        cfg.load := some ⟨ring, 0, 500, none⟩ }, ⟨ring, 0, 500, none⟩, by decide +kernel⟩,
   ⟨withBank bank.flash, ring, { stream := none, addr := 0, len := 0 }, imageOf image imageRecs,
    bank_hyps _ rfl⟩,
   ⟨{ ini [(F.chiefMode_mode, 0, 1)] with update.activation := some { cmd := ring, image := none } }, ring,
    by decide +kernel⟩⟩

theorem witness_ResetsAndPower :
    (∃ (s : State) (c : CmdRef), s.serves c = true) ∧
    (∃ s : State, s.chief.resetOrdered = true) ∧
    (∃ s : State, s.chief.inReset = false) ∧
    (∃ s : State, s.chief.inReset = true ∧ s.chief.power = 2) ∧
    (∃ s : State, s.chief.inReset = false ∧ s.chief.tristate = true) ∧
    (∃ s : State, s.chief.power = 1 ∧ s.chief.rose = none) ∧
    (∃ s : State, s.chief.power = 3) ∧
    (∃ s : State, s.chief.power = 2) ∧
    (∃ s : State, s.chief.power = 3) ∧
    (∃ s : State, s.chief.power = 4 ∧ s.chief.rose = none) :=
  ⟨⟨ini [(F.chiefMode_mode, 0, 1)], ring, by decide +kernel⟩,
   ⟨({ State.reset with chief.resetOrdered := true } : State).setByte 0 1, by decide +kernel⟩,
   ⟨State.reset, by decide +kernel⟩,
   ⟨{ State.reset with chief.inReset := true, chief.tristate := true, clock := 9 }, by decide +kernel⟩,
   ⟨{ State.reset with chief.tristate := true }, by decide +kernel⟩,
   ⟨{ State.reset with chief.power := 1 }, by decide +kernel⟩,
   ⟨{ State.reset with chief.power := 3 }, by decide +kernel⟩,
   ⟨State.reset, by decide +kernel⟩,
   ⟨{ State.reset with chief.power := 3 }, by decide +kernel⟩,
   ⟨{ State.reset with chief.power := 4 }, by decide +kernel⟩⟩

theorem witness_StartParkAndHostReset :
    (∃ s : State, s.mode = Md.starting ∧ s.chief.inReset = false ∧ s.rd F.chiefMode_phase = 2) ∧
    (∃ s : State, s.mode = Md.starting ∧ s.chief.inReset = false ∧ s.rd F.chiefMode_phase = 5) ∧
    (∃ s : State, s.mode = Md.starting ∧ s.chief.inReset = false ∧ s.rd F.chiefMode_phase = 11 ∧ s.rd
        F.cfgStat_startMode = 1 ∧ s.chief.bootBank = s.activeBank) ∧
    (∃ s : State, s.mode = Md.starting ∧ s.chief.inReset = false) ∧
    (∃ s : State, s.mode = Md.recovery ∧ s.flag F.chiefMode_ready = false) ∧
    (∃ (s : State) (t : Trans), s.chief.trans = some t ∧ t.opcode = 2 ∧ t.newMode = Md.park ∧ s.rd
        F.chiefParkStat_step = 2) ∧
    (∃ (s : State) (t : Trans), s.chief.trans = some t ∧ t.opcode = 2 ∧ t.newMode = Md.park ∧ s.rd
        F.chiefParkStat_step = 7 ∧ s.serves t.cmd = true ∧ s.chief.waiting = []) ∧
    (∃ (s : State) (c : CmdRef) (r : Report), s.findCmd c = none ∧ (s.host.reports.find? (fun x => x.cseq == c.cseq
        && x.stream == streamOf c) = some r) ∧ r.stream = none) :=
  ⟨⟨ini [(F.chiefMode_phase, 0, 2)], by decide +kernel⟩,
   ⟨ini [(F.chiefMode_phase, 0, 5)], by decide +kernel⟩,
   ⟨ini [(F.chiefMode_phase, 0, 11), (F.cfgStat_startMode, 0, 1)], by decide +kernel⟩,
   ⟨ini [(F.chiefBoot_bootFails, 0, 3)], by decide +kernel⟩,
   ⟨ini [(F.chiefMode_mode, 0, 0)], by decide +kernel⟩,
   ⟨{ ini [(F.chiefMode_mode, 0, 1), (F.chiefParkStat_step, 0, 2)] with
        chief.trans := some { cmd := ring, opcode := 2, newMode := 5 } },
    { cmd := ring, opcode := 2, newMode := 5 }, by decide +kernel⟩,
   ⟨({ ini [(F.chiefMode_mode, 0, 1), (F.chiefParkStat_step, 0, 7)] with
        chief.trans := some { cmd := ring, opcode := 2, newMode := 5 } } : State).setByte 0 1,
    { cmd := ring, opcode := 2, newMode := 5 }, by decide +kernel⟩,
   ⟨{ State.reset with host.reports := [⟨2 ^ 32 - 1, 0, 0, 0, 0, false, true, none⟩] }, ring,
    ⟨2 ^ 32 - 1, 0, 0, 0, 0, false, true, none⟩, by decide +kernel⟩⟩

theorem witness_SelfTests :
    (∃ (s : State) (c : CmdRef) (i p n b : BitVec 8), s.serves c = true ∧ s.test.run = none ∧ 10 ≤ p.toNat ∧ p.toNat
        ≤ 20 ∧ n.toNat ≠ 0 ∧ n.toNat ≤ 64 ∧ b.toNat ≠ 0 ∧ b.toNat ≤ 80 ∧ testTargets i.toNat ≠ [] ∧ 7 ∉ testTargets
        i.toNat ∧ 0x88 ∉ testTargets i.toNat ∧ s.mode = Md.maintain ∧ s.tooHot = false) ∧
    (∃ (s : State) (i : BitVec 8) (r : TestRun), s.test.run = some r ∧ i.toNat ∈ r.islands ∧ (r.isl i.toNat).ended =
        false) ∧
    (∃ (s : State) (i : BitVec 8) (r : TestRun), s.test.run = some r ∧ i.toNat ∈ r.islands ∧ (r.isl i.toNat).ended =
        false) ∧
    (∃ (s : State) (c : CmdRef) (i : BitVec 8), s.serves c = true ∧ s.test.run = none ∧ testTargets i.toNat ≠ [] ∧ 7
        ∉ testTargets i.toNat ∧ 0x88 ∉ testTargets i.toNat ∧ s.mode = Md.maintain ∧ s.tooHot = false) ∧
    (∃ (s : State) (c : CmdRef), s.serves c = true ∧ s.test.run = none ∧ s.mode = Md.maintain ∧ s.tooHot = false) :=
  ⟨⟨ini [(F.chiefMode_mode, 0, 4)], ring, 0x75, 20, 64, 80, by decide +kernel⟩,
   ⟨{ ini [(F.chiefMode_mode, 0, 4)] with
        test.run := some
            { cmd := some ring, occasion := 0, patterns := 20, slices := 64, islands := [0xC1], allowance := none } },
    0xC1,
    { cmd := some ring, occasion := 0, patterns := 20, slices := 64, islands := [0xC1], allowance := none },
    by decide +kernel⟩,
   ⟨{ ini [(F.chiefMode_mode, 0, 4)] with
        test.run := some
            { cmd := some ring, occasion := 0, patterns := 20, slices := 64, islands := [0xC1], allowance := none } },
    0xC1,
    { cmd := some ring, occasion := 0, patterns := 20, slices := 64, islands := [0xC1], allowance := none },
    by decide +kernel⟩,
   ⟨ini [(F.chiefMode_mode, 0, 4)], ring, 0x10, by decide +kernel⟩,
   ⟨(ini [(F.chiefMode_mode, 0, 4)]).setByte 0 1, net, by decide +kernel⟩⟩

theorem witness_CalibrationAndMonitors :
    (∃ (s : State) (c : CmdRef), s.serves c = true ∧ s.test.run = none ∧ s.cmMode = true) ∧
    (∃ (s : State) (c : CmdRef) (n : BitVec 16), s.serves c = true ∧ 1 ≤ n.toNat ∧ n.toNat ≤ 3600 ∧ s.mode ≠
        Md.park) ∧
    (∃ (s : State) (c : CmdRef) (h : BitVec 8), s.serves c = true ∧ 1 ≤ h.toNat ∧ h.toNat ≤ 20 ∧ s.mode ≠ Md.park) ∧
    (∃ (s : State) (c : CmdRef), s.serves c = true ∧ s.cmMode = true) ∧
    (∃ s : State, s.served = true ∧ s.mode ≠ Md.starting ∧ s.test.run = none) ∧
    (∃ s : State, s.test.deferred = true) ∧
    (∃ (s : State) (l : List (Option (BitVec 10))) (i : Fin 16) (v : BitVec 10), s.inSlot = false ∧ l.getD i none =
        some v) ∧
    (∃ s : State, s.inSlot = false) :=
  ⟨⟨ini [(F.chiefMode_mode, 0, 4)], ring, by decide +kernel⟩,
   ⟨ini [(F.chiefMode_mode, 0, 1)], ring, 3600, by decide +kernel⟩,
   ⟨ini [(F.chiefMode_mode, 0, 1)], ring, 20, by decide +kernel⟩,
   ⟨ini [(F.chiefMode_mode, 0, 4)], net, by decide +kernel⟩,
   ⟨ini [(F.chiefMode_mode, 0, 2)], by decide +kernel⟩,
   ⟨{ State.reset with test.deferred := true }, by decide +kernel⟩,
   ⟨State.reset, List.replicate 15 none ++ [some 0x1FF], 15, 0x1FF, by decide +kernel⟩,
   ⟨State.reset, by decide +kernel⟩⟩

theorem package_hyps (X : List Host.Cell) (hF : X = package.hbm) :
    (fun (s : State) (x : Session) (n i : Nat) (p : PartEntry) (b : Bytes) (img : Image) => s.update.session = some
        x ∧ s.rd F.updStat_state = Us.staging ∧ x.stream = none ∧ x.got.length = manifestLen ∧ partTableOk x.got n =
        true ∧ ((List.range 6).all (fun j => ((s.partBytes x j).map sha384) == some (partOf x.got j).digest) = true)
        ∧ partOfType x.got 6 = some (i, p) ∧ s.partBytes x i = some b ∧ (s.checkBytes b).toOption = some img)
        (withPackage X) offer 32768 5 (partOf manifest 5) image (imageOf image imageRecs) :=
  ⟨by rw [hF]; decide +kernel,
   by rw [hF]; decide +kernel,
   by decide +kernel,
   by decide +kernel,
   by decide +kernel,
   offer_digests hF (State.noneBad_of rfl (by rw [hF]; decide +kernel) clean),
   manifest_image,
   offer_part hF (State.noneBad_of rfl (by rw [hF]; decide +kernel) clean) (by decide),
   by rw [hF]; decide +kernel⟩

theorem witness_UpdateSessions :
    (∃ (s : State) (c : CmdRef), s.serves c = true ∧ s.mode ≠ Md.park ∧ c.stream ≠ none ∧ s.lockHolder = none) ∧
    (∃ (s : State) (c : CmdRef), s.serves c = true ∧ s.mode ≠ Md.park) ∧
    (∃ (s : State) (c : CmdRef) (o : Word) (d : Bytes) (x : Session), s.serves c = true ∧ s.mode ≠ Md.park ∧
        c.stream ≠ none ∧ s.ownSession c = some x ∧ x.checked = false ∧ o.toNat = x.got.length ∧ x.got.length +
        d.length < manifestLen ∧ s.rd F.updStat_state ≤ Us.staging) ∧
    (∃ (s : State) (c : CmdRef) (x : Session), s.serves c = true ∧ s.mode ≠ Md.park ∧ s.ownSession c = some x ∧
        s.update.activation = none) ∧
    (∃ (s : State) (x : Session) (n i : Nat) (p : PartEntry) (b : Bytes) (img : Image), s.update.session = some x ∧
        s.rd F.updStat_state = Us.staging ∧ x.stream = none ∧ x.got.length = manifestLen ∧ partTableOk x.got n =
        true ∧ ((List.range 6).all (fun j => ((s.partBytes x j).map sha384) == some (partOf x.got j).digest) = true)
        ∧ partOfType x.got 6 = some (i, p) ∧ s.partBytes x i = some b ∧ (s.checkBytes b).toOption = some img) ∧
    (∃ s : State, (s.update.session.any (fun x => x.stream.isSome) = true) ∧ s.rd F.updStat_state < Us.staged) ∧
    (∃ s : State, s.update.session ≠ none ∧ s.rd F.updStat_state = Us.staged) :=
  ⟨⟨ini [(F.chiefMode_mode, 0, 1)], net, by decide +kernel⟩,
   ⟨ini [(F.chiefMode_mode, 0, 0), (F.chiefMode_mode, 0, 1)], ring, by decide +kernel⟩,
   ⟨{ ini [(F.chiefMode_mode, 0, 1), (F.updStat_state, 0, 2)] with
        update.session := some { stream := some 7, addr := 0, len := 0, got := [1] } }, net, 1, zeros 1238,
    { stream := some 7, addr := 0, len := 0, got := [1] }, by decide +kernel⟩,
   ⟨{ ini [(F.chiefMode_mode, 0, 1), (F.updStat_state, 0, 2), (F.updStat_lockHeld, 0, 1)] with
        update.session := some { stream := some 7, addr := 0, len := 0, got := [1] } }, net,
    { stream := some 7, addr := 0, len := 0, got := [1] }, by decide +kernel⟩,
   ⟨withPackage package.hbm, offer, 32768, 5, partOf manifest 5, image, imageOf image imageRecs,
    package_hyps _ rfl⟩,
   ⟨{ ini [(F.chiefMode_mode, 0, 1), (F.updStat_state, 0, 2)] with
        update.session := some { stream := some 7, addr := 0, len := 0, got := [1] } }, by decide +kernel⟩,
   ⟨{ ini [(F.chiefMode_mode, 0, 1), (F.updStat_state, 0, 3)] with
        update.session := some { stream := some 7, addr := 0, len := 0, got := [1] } }, by decide +kernel⟩⟩

theorem witness_KeysAndSecurity :
    (∃ (s : State) (c : CmdRef) (a : BitVec 64) (b : Bytes) (k : KeySlot), s.serves c = true ∧ s.cmMode = true ∧
        (s.readForCommand a.toNat 312).toOption = some b ∧ s.blobFault b = none ∧ s.blobKey b = some k) ∧
    (∃ (s : State) (c : CmdRef), s.serves c = true ∧ s.mode ≠ Md.park) ∧
    (∃ (s : State) (c : CmdRef) (n o : BitVec 64) (w : BitVec 8) (b : Bytes), s.serves c = true ∧ s.mode ≠ Md.park ∧
        w.toNat ≤ 1 ∧ o.toNat + 400 ≤ Config.hbmBytes ∧ (s.readForCommand n.toNat 32).toOption = some b ∧ s.noneBad
        = true) ∧
    (∃ (s : State) (c : CmdRef) (i g j : BitVec 8) (a : BitVec 64) (b : Bytes) (k : Nat), s.serves c = true ∧ s.mode
        = Md.maintain ∧ i.toNat = 3 ∧ (s.readForCommand a.toNat 96).toOption = some b ∧ s.keyOf j.toNat 3 = some k ∧
        ecdsaVerify k (sha384 (ofNats [0x46, 0x55, 0x53, 0x45] ++ leBytes 4 s.fuses.serial ++ leBytes 1 3 ++ leBytes
        1 g.toNat ++ zeros 2)) (beAt b 0 48) (beAt b 48 48) = true) ∧
    (∃ (s : State) (c : CmdRef) (m : Fin 8) (j : BitVec 8), s.serves c = true ∧ s.mode ≠ Md.park ∧ c.stream = some m
        ∧ s.keyOf j.toNat 4 ≠ none) ∧
    (∃ (s : State) (c : CmdRef) (n w : BitVec 8), s.serves c = true ∧ c.stream ≠ none ∧ n.toNat < 160 ∧ w.toNat ≤ 6
        ∧ s.rd F.cairnMatrix_word (8 * n.toNat + 7) % 16 = Dom.hostNet ∧ bit (s.rd F.cairnMatrix_word (8 * n.toNat +
        7)) 4 = true) ∧
    (∃ (s : State) (i : Nat) (k : KeyCopy), s.mode ≠ Md.testHold ∧ s.keyCopy = some (i, k)) ∧
    (∃ (s : State) (p : Fin 2), s.smbusTarget p ≠ none ∧ s.chief.tristate = false) ∧
    (∃ (s : State) (p : Fin 2), s.smbusTarget p = some false ∧ s.chief.tristate = false) ∧
    (∃ (s : State) (p : Fin 2), s.smbusTarget p = some true) ∧
    (∃ (s : State) (p : Fin 2), s.smbusTarget p = some false ∧ bit (s.pinFn 3 p).opts 0 = false ∧ s.chief.tristate =
        false) :=
  ⟨⟨withBlob, ring, 64,
    (ofNats [0x43, 0x4B, 0x45, 0x59, 2, 15, 0, 0] ++ zeros 104 ++ beBytes 96 (p384Bytes (some p384G)) ++ leBytes 4 (2 ^
        32 - 1) ++ zeros 100), ⟨2, p384Bytes (some p384G)⟩, by decide +kernel, by decide +kernel,
    (congrArg Except.toOption (State.readForCommand_of_noneBad (State.noneBad_of rfl (by decide +kernel) clean) (by
        decide +kernel))).trans (congrArg some (bytes_all 64 (ofNats [0x43, 0x4B, 0x45, 0x59, 2, 15, 0, 0] ++ zeros
        104 ++ beBytes 96 (p384Bytes (some p384G)) ++ leBytes 4 (2 ^ 32 - 1) ++ zeros 100) rfl (by decide +kernel))),
    by decide +kernel, by decide +kernel⟩,
   ⟨ini [(F.chiefMode_mode, 0, 1)], net, by decide +kernel⟩,
   ⟨ini [(F.chiefMode_mode, 0, 1)], net, 0xBFFFFFFE0, 0xC00000000 - 400, 1, zeros 32, by decide +kernel,
    by decide +kernel, by decide +kernel, by decide +kernel,
    (congrArg Except.toOption (State.readForCommand_of_noneBad (State.noneBad_of rfl (by decide +kernel) clean) (by
        decide +kernel))).trans (by decide +kernel), State.noneBad_of rfl (by decide +kernel) clean⟩,
   ⟨withFuseOrder, ring, 3, 0, 15, 64,
    (beBytes 48 0xb7eec2dc1930bfaa56c9157101e22ec33546a9c185100ab3c9491d19ba722cd5b6a06bfb10c9dd7e7927a776294337f8 ++
        beBytes 48
        0xb7eec2dc1930bfaa56c9157101e22ec33546a9c185100ab3c9491d19ba722cd5b6a06bfb10c9dd7e7927a776294337f8),
    0xb93ff39def904f346ace4c27b51ffdd8b413664d2c33d9ef3960700c763902140b5f739c6039673a954c01d773b59fd7cc5d66e992d87d21c9ad194f461766fa36e11aafd053564e7eca724a4d8b67b67bcb8010edf2312494763cdff6e256ff,
    by decide +kernel, by decide +kernel, by decide +kernel,
    (congrArg Except.toOption (State.readForCommand_of_noneBad (State.noneBad_of rfl (by decide +kernel) clean) (by
        decide +kernel))).trans (congrArg some (bytes_all 64 (beBytes 48
        0xb7eec2dc1930bfaa56c9157101e22ec33546a9c185100ab3c9491d19ba722cd5b6a06bfb10c9dd7e7927a776294337f8 ++
        beBytes 48
        0xb7eec2dc1930bfaa56c9157101e22ec33546a9c185100ab3c9491d19ba722cd5b6a06bfb10c9dd7e7927a776294337f8) rfl (by
        decide +kernel))), by decide +kernel, by decide +kernel⟩,
   ⟨{ ini [(F.chiefMode_mode, 0, 1)] with keys := [(15, ⟨4, 9⟩)] }, net, 7, 15, by decide +kernel⟩,
   ⟨ini [(F.chiefMode_mode, 0, 1), (F.cairnMatrix_word, 8 * 159 + 7, 0x13)], net, 159, 6, by decide +kernel⟩,
   ⟨{ State.reset with update.keyStore := [(1, some ⟨9, [(15, ⟨1, 5⟩)]⟩)] }, 1, ⟨9, [(15, ⟨1, 5⟩)]⟩,
    by decide +kernel⟩,
   ⟨ini [(F.chiefMode_mode, 0, 0)], 0, by decide +kernel⟩,
   ⟨{ ini [(F.chiefMode_mode, 0, 1)] with cfg.pins := [(769, ⟨1, 0⟩)] }, 1, by decide +kernel⟩,
   ⟨ini [(F.chiefMode_mode, 0, 0)], 0, by decide +kernel⟩,
   ⟨{ ini [(F.chiefMode_mode, 0, 1)] with cfg.pins := [(769, ⟨1, 0⟩)] }, 1, by decide +kernel⟩⟩

theorem witness_StepTakesTheFront :
    (∃ (s : State) (c : Instr) (rest : List Instr), s.pending = c :: rest) ∧
    (∃ s : State, s.pending = [] ∧ s.chief.inReset = false) ∧
    (∃ s : State, s.pending = [] ∧ s.chief.inReset = true) :=
  ⟨⟨{ State.reset with pending := [.watchdogService, .cmdFetch] }, .watchdogService, [.cmdFetch], rfl⟩,
   ⟨State.reset, by decide +kernel⟩,
   ⟨{ State.reset with chief.inReset := true }, by decide +kernel⟩⟩

theorem witness_EveryStepKeepsTheForm :
    ∃ s t : State, s.wf = true ∧ step s = .next t :=
  ⟨{ State.reset with clock := 5, pending := [.watchdogService] },
    { State.reset with clock := 5, chief.watchdog := 5 }, by decide +kernel, rfl⟩

theorem witness_EveryStepKeepsFusesAndQueue :
    (∃ s t : State, step s = .next t) ∧
    (∃ s t : State, step s = .next t) ∧
    (∃ s t : State, step s = .next t) :=
  ⟨⟨{ State.reset with clock := 5, pending := [.watchdogService] },
    { State.reset with clock := 5, chief.watchdog := 5 }, rfl⟩,
   ⟨{ State.reset with clock := 5, pending := [.watchdogService] },
    { State.reset with clock := 5, chief.watchdog := 5 }, rfl⟩,
   ⟨{ State.reset with clock := 5, pending := [.watchdogService] },
    { State.reset with clock := 5, chief.watchdog := 5 }, rfl⟩⟩

theorem witness_OnlyStoresTouchHbm :
    ∃ (c : Instr) (s t : State), exec c s = .next t ∧ c.storesHbm = false :=
  ⟨.watchdogService, { State.reset with clock := 5 }, { State.reset with clock := 5, chief.watchdog := 5 },
    rfl, rfl⟩

theorem witness_FlashKeysAndFusesFrame :
    (∃ (c : Instr) (s t : State), exec c s = .next t ∧ c.writesFlash = false) ∧
    (∃ (c : Instr) (s t : State), exec c s = .next t ∧ c.changesKeys = false) ∧
    (∃ (c : Instr) (s t : State), exec c s = .next t ∧ c.blowsFuses = false) :=
  ⟨⟨.watchdogService, { State.reset with clock := 5 }, { State.reset with clock := 5, chief.watchdog := 5 },
    rfl, rfl⟩,
   ⟨.watchdogService, { State.reset with clock := 5 }, { State.reset with clock := 5, chief.watchdog := 5 },
    rfl, rfl⟩,
   ⟨.watchdogService, { State.reset with clock := 5 }, { State.reset with clock := 5, chief.watchdog := 5 },
    rfl, rfl⟩⟩

theorem witness_CommandOnlyKeepsItsValue :
    ∃ (s : State) (a : BitVec 26), a.toNat % 4 = 0 ∧ unassigned a.toNat = false ∧ s.closed a.toNat (s.decidingIsland
        a.toNat) = false ∧ ((findReg a.toNat regBlocks).any (fun x => x.2.2.cmdOnly) = true) ∧ s.logQueue.length <
        16 :=
  ⟨ini [(F.chiefMode_mode, 0, 1)], 0x100000, by decide +kernel⟩

theorem witness_PosSetLoadsThePosition :
    (∃ s : State, s.cmMode = true) ∧
    (∃ s : State, s.cmMode = false) :=
  ⟨⟨ini [(F.chiefMode_mode, 0, 4), (F.schedStat_armed, 7, 1)], by decide +kernel⟩,
   ⟨ini [(F.chiefMode_mode, 0, 2)], by decide +kernel⟩⟩

theorem witness_RingsHoldTheirBounds :
    (∃ (s t : State) (k : Fin 6), k.val ≠ 5 ∧ exec (.ringEntryWrite k) s = .next t ∧ s.outSize k < s.outUsed k + 1) ∧
    (∃ (s t : State) (k : Fin 6), exec (.ringEntryWrite k) s = .next t ∧ s.outUsed k ≤ s.outSize k) :=
  ⟨⟨ini [(F.ringCtl_en, 4, 1), (F.ringSize_size, 4, 16), (F.ringProd_count, 4, 16)],
    ini [(F.ringCtl_en, 4, 1), (F.ringSize_size, 4, 16), (F.ringProd_count, 4, 16)], 4, by decide, rfl,
    by decide +kernel⟩,
   ⟨ini [(F.ringCtl_en, 4, 1), (F.ringSize_size, 4, 16), (F.ringProd_count, 4, 16)],
    ini [(F.ringCtl_en, 4, 1), (F.ringSize_size, 4, 16), (F.ringProd_count, 4, 16)], 4, rfl,
    by decide +kernel⟩⟩

theorem witness_CairnSecureFromTheNetworkOnly :
    (∃ (s : State) (c : CmdRef), s.serves c = true ∧ c.stream = none) ∧
    (∃ (s : State) (c : CmdRef) (n w : BitVec 8), s.serves c = true ∧ c.stream ≠ none ∧ n.toNat < 160 ∧ w.toNat ≤ 6
        ∧ s.rd F.cairnMatrix_word (8 * n.toNat + 7) % 16 = Dom.hostNet ∧ bit (s.rd F.cairnMatrix_word (8 * n.toNat +
        7)) 4 = true) :=
  ⟨⟨ini [(F.chiefMode_mode, 0, 1), (F.cairnMatrix_word, 8 * 159 + 7, 0x13)], ring, by decide +kernel⟩,
   ⟨ini [(F.chiefMode_mode, 0, 1), (F.cairnMatrix_word, 8 * 159 + 7, 0x13)], net, 159, 6, by decide +kernel⟩⟩

theorem witness_BankFollowsTheFailedBoots :
    (∃ s : State, s.rd F.chiefBoot_bootFails = 0) ∧
    (∃ s : State, s.rd F.chiefBoot_bootFails = 1) ∧
    (∃ s : State, s.mode = Md.starting ∧ s.chief.inReset = false ∧ s.rd F.chiefMode_phase = 1 ∧ s.rd
        F.chiefBoot_bootFails = 2) :=
  ⟨⟨State.reset, by decide +kernel⟩,
   ⟨ini [(F.chiefBoot_bootFails, 0, 1)], by decide +kernel⟩,
   ⟨ini [(F.chiefMode_phase, 0, 1), (F.chiefBoot_bootFails, 0, 2)], by decide +kernel⟩⟩

end Sys2Proof.Tests
end

section
/-! SUPPORT. What every command and every step keeps: the lemmas of Laws/Keeps*.lean gathered over all commands. -/

namespace Sys2Proof

/-- The stores that a command may change (R430, R516, R536, R540). -/
def Instr.touch (c : Instr) : Machine.Touch where
  hbm := c.storesHbm
  flash := c.writesFlash
  keys := c.changesKeys
  fuses := c.blowsFuses

end Sys2Proof

namespace Sys2Proof.Machine

/-- A command keeps the queue, the clock, the canonical form and every store that it does not name. -/
theorem exec_keeps : ∀ (c : Instr) (s : State), KeepsOut c.touch s (exec c s)
  | .registerWrite addr width value, s => execRegisterWrite_keeps addr width value s (.refl s) rfl
  | .rcRead addr width, s => execRcRead_keeps addr width s (.refl s)
  | .pairLoRead addr, s => execPairLoRead_keeps addr s (.refl s)
  | .accessTimeout addr write, s => execAccessTimeout_keeps addr write s (.refl s)
  | .mailboxApply agent, s => execMailboxApply_keeps agent s (.refl s)
  | .stewardHeartbeatMiss steward, s => execStewardHeartbeatMiss_keeps steward s (.refl s)
  | .stewardRestartDone steward, s => execStewardRestartDone_keeps steward s (.refl s)
  | .stewardAnswer steward held, s => execStewardAnswer_keeps steward held s (.refl s) rfl rfl
  | .jointAnswerTimeout, s => execJointAnswerTimeout_keeps s (.refl s) rfl
  | .jointTargetTimeout, s => execJointTargetTimeout_keeps s (.refl s) rfl
  | .agentApplied, s => execAgentApplied_keeps s (.refl s) rfl rfl
  | .clockMonitorSample khz, s => execClockMonitorSample_keeps khz s (.refl s)
  | .setMode cmd mode stopNow, s => execSetMode_keeps cmd mode stopNow s (.refl s) rfl
  | .modeDrainDone, s => execModeDrainDone_keeps s (.refl s) rfl
  | .drainCut, s => execDrainCut_keeps s (.refl s) rfl rfl
  | .park cmd, s => execPark_keeps cmd s (.refl s) rfl
  | .parkStepDone flashError clears fails badSpares, s => execParkStepDone_keeps flashError clears fails badSpares s (.refl s) rfl rfl rfl
  | .parkStatus cmd, s => execParkStatus_keeps cmd s (.refl s)
  | .resetDevice cmd, s => execResetDevice_keeps cmd s (.refl s)
  | .powerOnReset idGood trimGood, s => execPowerOnReset_keeps idGood trimGood s (.refl s) rfl rfl
  | .standbyOff, s => execStandbyOff_keeps s (.refl s) rfl rfl
  | .mainPowerUp, s => execMainPowerUp_keeps s (.refl s)
  | .mainPowerDown, s => execMainPowerDown_keeps s (.refl s) rfl rfl
  | .mainDischargeDone, s => execMainDischargeDone_keeps s (.refl s)
  | .resetNFall, s => execResetNFall_keeps s (.refl s)
  | .pinReset, s => execPinReset_keeps s (.refl s) rfl rfl
  | .resetNRise bootSel, s => execResetNRise_keeps bootSel s (.refl s)
  | .watchdogService, s => execWatchdogService_keeps s (.refl s)
  | .watchdogReset, s => execWatchdogReset_keeps s (.refl s) rfl rfl
  | .hostReset flr linkDown, s => execHostReset_keeps flr linkDown s (.refl s)
  | .startupPhaseEnd clears memFails badSpares results rowFails readBackBad, s => execStartupPhaseEnd_keeps clears memFails badSpares results rowFails readBackBad s (.refl s) rfl rfl rfl
  | .bootTimeout, s => execBootTimeout_keeps s (.refl s) rfl rfl
  | .loadImage cmd addr len, s => execLoadImage_keeps cmd addr len s (.refl s) rfl
  | .loadImageDone, s => execLoadImageDone_keeps s (.refl s) rfl
  | .claim cmd index tag, s => execClaim_keeps cmd index tag s (.refl s)
  | .release cmd index, s => execRelease_keeps cmd index s (.refl s)
  | .laneBlockRx lane header payload measured, s => execLaneBlockRx_keeps lane header payload measured s (.refl s)
  | .cdrLock lane ctle dfe, s => execCdrLock_keeps lane ctle dfe s (.refl s)
  | .cdrLost lane, s => execCdrLost_keeps lane s (.refl s)
  | .cdrAcqTimeout lane, s => execCdrAcqTimeout_keeps lane s (.refl s)
  | .laneRelock lane, s => execLaneRelock_keeps lane s (.refl s)
  | .alignTx lane bip, s => execAlignTx_keeps lane bip s (.refl s)
  | .laneTxDelayWrite lane value, s => execLaneTxDelayWrite_keeps lane value s (.refl s)
  | .tapSlewStep lane, s => execTapSlewStep_keeps lane s (.refl s)
  | .laneProbeStart lane value, s => execLaneProbeStart_keeps lane value s (.refl s)
  | .probeTx lane, s => execProbeTx_keeps lane s (.refl s)
  | .echoRx lane probeId turn taps, s => execEchoRx_keeps lane probeId turn taps s (.refl s)
  | .probeWindowEnd lane, s => execProbeWindowEnd_keeps lane s (.refl s)
  | .probeRx lane probeId, s => execProbeRx_keeps lane probeId s (.refl s)
  | .creditRx lane port limit, s => execCreditRx_keeps lane port limit s (.refl s)
  | .creditTx port, s => execCreditTx_keeps port s (.refl s)
  | .marginStart lane value, s => execMarginStart_keeps lane value s (.refl s)
  | .marginDone lane errors, s => execMarginDone_keeps lane errors s (.refl s)
  | .prbsInject lane, s => execPrbsInject_keeps lane s (.refl s)
  | .prbsClear lane, s => execPrbsClear_keeps lane s (.refl s)
  | .axisFilteredChange axis levels, s => execAxisFilteredChange_keeps axis levels s (.refl s)
  | .axisArm axis, s => execAxisArm_keeps axis s (.refl s)
  | .serialFrameStart axis, s => execSerialFrameStart_keeps axis s (.refl s)
  | .serialFrameDone axis recovering frame, s => execSerialFrameDone_keeps axis recovering frame s (.refl s)
  | .reelMeasurement, s => execReelMeasurement_keeps s (.refl s)
  | .reelStopTimeout, s => execReelStopTimeout_keeps s (.refl s)
  | .reelTick, s => execReelTick_keeps s (.refl s) rfl
  | .reelBacklogRelease, s => execReelBacklogRelease_keeps s (.refl s) rfl
  | .reelForwardWrite forward, s => execReelForwardWrite_keeps forward s (.refl s)
  | .reelPosSet hi, s => execReelPosSet_keeps hi s (.refl s)
  | .reelAdjust offset, s => execReelAdjust_keeps offset s (.refl s)
  | .reelCapture unit, s => execReelCapture_keeps unit s (.refl s)
  | .reelCapturePop unit, s => execReelCapturePop_keeps unit s (.refl s)
  | .schedEnable unit ctl, s => execSchedEnable_keeps unit ctl s (.refl s)
  | .schedFire unit, s => execSchedFire_keeps unit s (.refl s)
  | .schedArmEvent unit gen, s => execSchedArmEvent_keeps unit gen s (.refl s)
  | .syncSampleTx lane, s => execSyncSampleTx_keeps lane s (.refl s)
  | .syncSampleRx lane sample data1 data2 arrival, s => execSyncSampleRx_keeps lane sample data1 data2 arrival s (.refl s)
  | .followLost, s => execFollowLost_keeps s (.refl s)
  | .followCoastEnd, s => execFollowCoastEnd_keeps s (.refl s)
  | .timeIncWrite hi, s => execTimeIncWrite_keeps hi s (.refl s)
  | .timeSlewStart ticks, s => execTimeSlewStart_keeps ticks s (.refl s)
  | .timeSlewEnd, s => execTimeSlewEnd_keeps s (.refl s)
  | .timeStep hi, s => execTimeStep_keeps hi s (.refl s)
  | .timeBaseCommit cnt, s => execTimeBaseCommit_keeps cnt s (.refl s)
  | .baseStale, s => execBaseStale_keeps s (.refl s)
  | .comparatorArm unit ctl, s => execComparatorArm_keeps unit ctl s (.refl s)
  | .comparatorFire unit, s => execComparatorFire_keeps unit s (.refl s)
  | .pulseArm gen ctl, s => execPulseArm_keeps gen ctl s (.refl s)
  | .pulseStart gen, s => execPulseStart_keeps gen s (.refl s)
  | .pulseEnd gen, s => execPulseEnd_keeps gen s (.refl s)
  | .pulseStartEvent gen, s => execPulseStartEvent_keeps gen s (.refl s)
  | .pulseStopEvent gen, s => execPulseStopEvent_keeps gen s (.refl s)
  | .timeCapture unit, s => execTimeCapture_keeps unit s (.refl s)
  | .timeCapturePop unit, s => execTimeCapturePop_keeps unit s (.refl s)
  | .ppsInEdge falling, s => execPpsInEdge_keeps falling s (.refl s)
  | .ppsOutSecond, s => execPpsOutSecond_keeps s (.refl s)
  | .ppsOutWidthEnd, s => execPpsOutWidthEnd_keeps s (.refl s)
  | .macFrameRx port frame fcsGood measured fecCorrected fecUncorrected, s => execMacFrameRx_keeps port frame fcsGood measured fecCorrected fecUncorrected s (.refl s)
  | .ethLinkDown port, s => execEthLinkDown_keeps port s (.refl s)
  | .macTsPop port, s => execMacTsPop_keeps port s (.refl s)
  | .templateValid template ctl, s => execTemplateValid_keeps template ctl s (.refl s)
  | .streamDatagramTx stream, s => execStreamDatagramTx_keeps stream s (.refl s)
  | .streamFlushTimeout stream, s => execStreamFlushTimeout_keeps stream s (.refl s)
  | .creditDatagramTx port, s => execCreditDatagramTx_keeps port s (.refl s)
  | .lineStartRx port sensor depth tag, s => execLineStartRx_keeps port sensor depth tag s (.refl s)
  | .lineEndRx port sensor crc tagByte, s => execLineEndRx_keeps port sensor crc tagByte s (.refl s)
  | .lineTimeout port sensor tag, s => execLineTimeout_keeps port sensor tag s (.refl s)
  | .frameStartRx port sensor tag, s => execFrameStartRx_keeps port sensor tag s (.refl s)
  | .frameEndRx port sensor tag, s => execFrameEndRx_keeps port sensor tag s (.refl s)
  | .camCtrlGo port value, s => execCamCtrlGo_keeps port value s (.refl s)
  | .camAckRx port sensor write ctag result data, s => execCamAckRx_keeps port sensor write ctag result data s (.refl s)
  | .camCtrlTimeout port, s => execCamCtrlTimeout_keeps port s (.refl s)
  | .camStatusRx port sensor ready alert seq code, s => execCamStatusRx_keeps port sensor ready alert seq code s (.refl s)
  | .camSilent port sensor, s => execCamSilent_keeps port sensor s (.refl s)
  | .rateMeasure port, s => execRateMeasure_keeps port s (.refl s)
  | .calLine channel upset, s => execCalLine_keeps channel upset s (.refl s) rfl
  | .calCommit channel, s => execCalCommit_keeps channel s (.refl s)
  | .calDiscard channel, s => execCalDiscard_keeps channel s (.refl s)
  | .calBankCopyDone channel, s => execCalBankCopyDone_keeps channel s (.refl s)
  | .ridgePortLineArrive port, s => execRidgePortLineArrive_keeps port s (.refl s) rfl
  | .memPathBurst ridge, s => execMemPathBurst_keeps ridge s (.refl s)
  | .ridgeLineBoundary ridge mismatch, s => execRidgeLineBoundary_keeps ridge mismatch s (.refl s)
  | .rotationStepStart ridge, s => execRotationStepStart_keeps ridge s (.refl s)
  | .rotNow ridge, s => execRotNow_keeps ridge s (.refl s)
  | .rotationEvent ridge gen, s => execRotationEvent_keeps ridge gen s (.refl s)
  | .spurCopyDone ridge, s => execSpurCopyDone_keeps ridge s (.refl s)
  | .spurIsolated ridge, s => execSpurIsolated_keeps ridge s (.refl s)
  | .spurSliceDone ridge limitsHeld signature, s => execSpurSliceDone_keeps ridge limitsHeld signature s (.refl s)
  | .sliceBudgetExpiry ridge, s => execSliceBudgetExpiry_keeps ridge s (.refl s)
  | .spurReinitDone ridge verified, s => execSpurReinitDone_keeps ridge verified s (.refl s)
  | .couchIntake ridge, s => execCouchIntake_keeps ridge s (.refl s)
  | .seamWaitTimeout port seq, s => execSeamWaitTimeout_keeps port seq s (.refl s)
  | .classifyDone, s => execClassifyDone_keeps s (.refl s)
  | .markerFireSeen unit, s => execMarkerFireSeen_keeps unit s (.refl s)
  | .statsBlock channel, s => execStatsBlock_keeps channel s (.refl s)
  | .statsArm group, s => execStatsArm_keeps group s (.refl s)
  | .layoutSubmit tag, s => execLayoutSubmit_keeps tag s (.refl s)
  | .layoutStagedEnqueue, s => execLayoutStagedEnqueue_keeps s (.refl s)
  | .layoutJobStart, s => execLayoutJobStart_keeps s (.refl s)
  | .layoutDecryptStart, s => execLayoutDecryptStart_keeps s (.refl s)
  | .layoutJobVerified, s => execLayoutJobVerified_keeps s (.refl s)
  | .layoutResultPop, s => execLayoutResultPop_keeps s (.refl s)
  | .stripeReset, s => execStripeReset_keeps s (.refl s)
  | .mouldBandStart, s => execMouldBandStart_keeps s (.refl s)
  | .mouldBandDone, s => execMouldBandDone_keeps s (.refl s)
  | .wmBandCheck band, s => execWmBandCheck_keeps band s (.refl s)
  | .wmReleaseStart band, s => execWmReleaseStart_keeps band s (.refl s)
  | .wmBandReleased band, s => execWmBandReleased_keeps band s (.refl s)
  | .wmBandDeadline band, s => execWmBandDeadline_keeps band s (.refl s)
  | .laidArm, s => execLaidArm_keeps s (.refl s)
  | .laidArmEvent gen, s => execLaidArmEvent_keeps gen s (.refl s)
  | .laidDisarm, s => execLaidDisarm_keeps s (.refl s)
  | .laidShotTick corrected failed crcBad, s => execLaidShotTick_keeps corrected failed crcBad s (.refl s) rfl
  | .warnArrive, s => execWarnArrive_keeps s (.refl s)
  | .critArrive, s => execCritArrive_keeps s (.refl s)
  | .interlock gen, s => execInterlock_keeps gen s (.refl s)
  | .drvStatusRx channel seq flags temp line, s => execDrvStatusRx_keeps channel seq flags temp line s (.refl s)
  | .drvStatusTimeout channel, s => execDrvStatusTimeout_keeps channel s (.refl s)
  | .screeDctlGo value, s => execScreeDctlGo_keeps value s (.refl s)
  | .drvCtrlSend, s => execDrvCtrlSend_keeps s (.refl s)
  | .drvAckRx channel, s => execDrvAckRx_keeps channel s (.refl s)
  | .drvCtrlTimeout channel start, s => execDrvCtrlTimeout_keeps channel start s (.refl s)
  | .measCycleStart, s => execMeasCycleStart_keeps s (.refl s)
  | .measNow, s => execMeasNow_keeps s (.refl s)
  | .measEvent gen, s => execMeasEvent_keeps gen s (.refl s)
  | .measDeferExpiry channel, s => execMeasDeferExpiry_keeps channel s (.refl s)
  | .idleMeasRx channel, s => execIdleMeasRx_keeps channel s (.refl s)
  | .measCycleComplete, s => execMeasCycleComplete_keeps s (.refl s)
  | .measTimeout, s => execMeasTimeout_keeps s (.refl s)
  | .tableRebuildDone, s => execTableRebuildDone_keeps s (.refl s)
  | .screeCommit, s => execScreeCommit_keeps s (.refl s)
  | .screeCommitEvent, s => execScreeCommitEvent_keeps s (.refl s)
  | .screeCopyDone, s => execScreeCopyDone_keeps s (.refl s)
  | .screeWarnClear, s => execScreeWarnClear_keeps s (.refl s)
  | .critClear, s => execCritClear_keeps s (.refl s)
  | .reamJobStart engine, s => execReamJobStart_keeps engine s (.refl s)
  | .reamRingTail engine tail, s => execReamRingTail_keeps engine tail s (.refl s)
  | .reamRingSize engine size, s => execReamRingSize_keeps engine size s (.refl s)
  | .reamHostOverdue engine, s => execReamHostOverdue_keeps engine s (.refl s)
  | .reamHoldRelease engine gen, s => execReamHoldRelease_keeps engine gen s (.refl s)
  | .reamJobDone engine echoDiff, s => execReamJobDone_keeps engine echoDiff s (.refl s) rfl
  | .hbmRequest port addr write data len, s => execHbmRequest_keeps port addr write data len s (.refl s) rfl
  | .hbmResponse pc outcome, s => execHbmResponse_keeps pc outcome s (.refl s)
  | .hbmParityAlert pc kind, s => execHbmParityAlert_keeps pc kind s (.refl s) rfl
  | .hbmScrubRow pc found, s => execHbmScrubRow_keeps pc found s (.refl s)
  | .scrubDeferExpiry pc, s => execScrubDeferExpiry_keeps pc s (.refl s)
  | .hbmTempRead stack0 stack1, s => execHbmTempRead_keeps stack0 stack1 s (.refl s)
  | .hbmRefresh pc bank, s => execHbmRefresh_keeps pc bank s (.refl s)
  | .srIdleExpiry pc, s => execSrIdleExpiry_keeps pc s (.refl s)
  | .srExitDone pc, s => execSrExitDone_keeps pc s (.refl s)
  | .srExitTimeout pc, s => execSrExitTimeout_keeps pc s (.refl s)
  | .bar2Access offset write data len, s => execBar2Access_keeps offset write data len s (.refl s) rfl
  | .hbmSetSpeed cmd speed, s => execHbmSetSpeed_keeps cmd speed s (.refl s)
  | .hbmRetrain cmd, s => execHbmRetrain_keeps cmd s (.refl s)
  | .hbmSetPolicy cmd policy idleUs, s => execHbmSetPolicy_keeps cmd policy idleUs s (.refl s)
  | .hostCmdTail tail, s => execHostCmdTail_keeps tail s (.refl s)
  | .cmdEnSet, s => execCmdEnSet_keeps s (.refl s)
  | .cmdFetch, s => execCmdFetch_keeps s (.refl s)
  | .nop cmd, s => execNop_keeps cmd s (.refl s)
  | .cmdComplete cmd, s => execCmdComplete_keeps cmd s (.refl s)
  | .cmdLimitTimeout cmd, s => execCmdLimitTimeout_keeps cmd s (.refl s)
  | .ringEnable ring, s => execRingEnable_keeps ring s (.refl s)
  | .ringConsWrite ring cons, s => execRingConsWrite_keeps ring cons s (.refl s)
  | .ringEntryWrite ring, s => execRingEntryWrite_keeps ring s (.refl s)
  | .ringModTimeout vector, s => execRingModTimeout_keeps vector s (.refl s)
  | .hostTxTail tail, s => execHostTxTail_keeps tail s (.refl s)
  | .txFrameSend measured, s => execTxFrameSend_keeps measured s (.refl s)
  | .digestSnap, s => execDigestSnap_keeps s (.refl s)
  | .digestDone, s => execDigestDone_keeps s (.refl s)
  | .dmaStart ch, s => execDmaStart_keeps ch s (.refl s)
  | .dmaStartEvent ch gen, s => execDmaStartEvent_keeps ch gen s (.refl s)
  | .dmaAbort ch, s => execDmaAbort_keeps ch s (.refl s) rfl
  | .dmaDescFetch ch data, s => execDmaDescFetch_keeps ch data s (.refl s) rfl
  | .dmaDescComplete ch, s => execDmaDescComplete_keeps ch s (.refl s) rfl
  | .dmaBusError ch, s => execDmaBusError_keeps ch s (.refl s) rfl
  | .d3hotEntry, s => execD3hotEntry_keeps s (.refl s)
  | .cairnEvent events, s => execCairnEvent_keeps events s (.refl s)
  | .cairnOverrunReport consumer isl, s => execCairnOverrunReport_keeps consumer isl s (.refl s)
  | .cairnEnableWrite domain secure column word value, s => execCairnEnableWrite_keeps domain secure column word value s (.refl s)
  | .cairnIrqConsumer consumer, s => execCairnIrqConsumer_keeps consumer s (.refl s)
  | .evioInputEdge pin level, s => execEvioInputEdge_keeps pin level s (.refl s)
  | .evioOutActivate pin, s => execEvioOutActivate_keeps pin s (.refl s)
  | .evioPulseEnd pin, s => execEvioPulseEnd_keeps pin s (.refl s)
  | .testLogic cmd island patterns slices budget clears, s => execTestLogic_keeps cmd island patterns slices budget clears s (.refl s) rfl
  | .testMemory cmd island clears fails badSpares, s => execTestMemory_keeps cmd island clears fails badSpares s (.refl s) rfl
  | .testHbm cmd fails, s => execTestHbm_keeps cmd fails s (.refl s) rfl
  | .calibrate cmd results, s => execCalibrate_keeps cmd results s (.refl s)
  | .calSet cmd seconds, s => execCalSet_keeps cmd seconds s (.refl s)
  | .thermSet cmd alertC hyst, s => execThermSet_keeps cmd alertC hyst s (.refl s)
  | .testLogClear cmd, s => execTestLogClear_keeps cmd s (.refl s)
  | .logicSliceDone island limitsGood signature, s => execLogicSliceDone_keeps island limitsGood signature s (.refl s)
  | .logicSliceBudget island signature, s => execLogicSliceBudget_keeps island signature s (.refl s)
  | .jtagInstruction scan clears07 clears88, s => execJtagInstruction_keeps scan clears07 clears88 s (.refl s) rfl
  | .recalTimer results, s => execRecalTimer_keeps results s (.refl s)
  | .recalDeferExpiry results, s => execRecalDeferExpiry_keeps results s (.refl s)
  | .thermalSample temps, s => execThermalSample_keeps temps s (.refl s)
  | .supplySample vinMv power, s => execSupplySample_keeps vinMv power s (.refl s)
  | .updateBegin cmd addr len, s => execUpdateBegin_keeps cmd addr len s (.refl s) rfl
  | .updateStatus cmd, s => execUpdateStatus_keeps cmd s (.refl s)
  | .updateData cmd offset data, s => execUpdateData_keeps cmd offset data s (.refl s) rfl
  | .updateAbort cmd, s => execUpdateAbort_keeps cmd s (.refl s)
  | .updateActivate cmd, s => execUpdateActivate_keeps cmd s (.refl s) rfl
  | .updateStaged flashError misread, s => execUpdateStaged_keeps flashError misread s (.refl s) rfl
  | .updateDataTimeout, s => execUpdateDataTimeout_keeps s (.refl s)
  | .updateStageTimeout, s => execUpdateStageTimeout_keeps s (.refl s)
  | .activationDone, s => execActivationDone_keeps s (.refl s) rfl rfl
  | .keyLoad cmd addr, s => execKeyLoad_keeps cmd addr s (.refl s) rfl
  | .keyStatus cmd, s => execKeyStatus_keeps cmd s (.refl s)
  | .attest cmd nonce output which, s => execAttest_keeps cmd nonce output which s (.refl s) rfl
  | .fuseSet cmd id arg authSlot sig, s => execFuseSet_keeps cmd id arg authSlot sig s (.refl s) rfl
  | .mgmtHello cmd slot, s => execMgmtHello_keeps cmd slot s (.refl s)
  | .cairnSecure cmd column word value, s => execCairnSecure_keeps cmd column word value s (.refl s)
  | .keyslotRestore failed, s => execKeyslotRestore_keeps failed s (.refl s) rfl
  | .smbusStatusRead port, s => execSmbusStatusRead_keeps port s (.refl s)
  | .smbusPowerRead port, s => execSmbusPowerRead_keeps port s (.refl s)
  | .smbusReset port, s => execSmbusReset_keeps port s (.refl s)
  | .eventLogEntry, s => execEventLogEntry_keeps s (.refl s)
  | .refclkChange quad ok, s => execRefclkChange_keeps quad ok s (.refl s)
  | .prbsCheck lane errors, s => execPrbsCheck_keeps lane errors s (.refl s)
  | .ethLinkUp port, s => execEthLinkUp_keeps port s (.refl s)
  | .pcieLinkUp gen width, s => execPcieLinkUp_keeps gen width s (.refl s)
  | .d0Return, s => execD0Return_keeps s (.refl s)
  | .flrComplete, s => execFlrComplete_keeps s (.refl s)
  | .hbmCommandSlot pc, s => execHbmCommandSlot_keeps pc s (.refl s)
  | .pcieCompletionRx ch data, s => execPcieCompletionRx_keeps ch data s (.refl s) rfl
  | .dmaPiece, s => execDmaPiece_keeps s (.refl s) rfl
  | .dmaPieceDeferExpiry ch, s => execDmaPieceDeferExpiry_keeps ch s (.refl s) rfl
  | .recoveryReady, s => execRecoveryReady_keeps s (.refl s)
  | .deviceReset, s => execDeviceReset_keeps s (.refl s) rfl rfl
  | .intervalOscillatorDrift pc, s => execIntervalOscillatorDrift_keeps pc s (.refl s)

/-- Both states a tick later. -/
theorem Keeps.bumpClock {w : Touch} {s t : State} (h : Keeps w s t) :
    Keeps w { s with clock := s.clock + 1 } { t with clock := t.clock + 1 } :=
  ⟨h.pending, congrArg (· + 1) h.clock, h.fresh, h.fuses, h.wf, h.sameHbm, h.sameFlash, h.sameKeys, h.sameFuses⟩

/-- A tick of the time unit counts and writes only registers (R158, R160). -/
theorem State.tick_keeps {w : Touch} (s : State) : Keeps w { s with clock := s.clock + 1 } s.tick := by
  unfold State.tick
  refine Keeps.bumpClock (Keeps.ite (fun _ => State.wr_keeps _ _ _ _ ?_) (fun _ => ?_)) <;>
    exact State.setCounter_keeps _ _ (.refl s)

/-- The passing of 4 ns moves the model's clock and keeps every store. -/
theorem State.tickAll_keeps {w : Touch} (s : State) : Keeps w { s with clock := s.clock + 1 } s.tickAll := by
  unfold State.tickAll
  split
  · exact .refl _
  · exact State.calTick_keeps _ (State.reelTick4_keeps _ s.tick_keeps)

/-- Settles O46: a tick keeps the canonical form, and so does the command at the front of the queue. -/
theorem everyStepKeepsTheForm : Obligations.EveryStepKeepsTheForm := by
  intro s t hs h
  unfold step at h
  split at h
  · cases h
    exact (State.tickAll_keeps (w := {}) s).wf hs
  · next c rest _ => exact ((exec_keeps c { s with pending := rest }).keeps t h).wf hs

end Sys2Proof.Machine
end

section
/-! SUPPORT. The host's write of CHIEF_ISL_SEL (R39) under a lock of the running image (R75). -/

namespace Sys2Proof.Machine

/-- A write that nothing bars reaches its register as a host write (R14). -/
theorem execRegisterWrite_of_not_barred {s : State} {a : BitVec 26} {n : BitVec 8} (v : Word)
    (h : s.writeBarred a.toNat n.toNat = none) :
    execRegisterWrite a n v s = .next (s.barWrite false a.toNat v.toNat) := by
  unfold execRegisterWrite
  dsimp only
  rw [h]

/-- CONFIGURE, under an image whose LOCK record holds every bit of CHIEF_ISL_SEL (R75). -/
def lockedIslSel : State :=
  { State.reset with locks := [(F.chiefIslSel_isl.addr 0, 0xFF)] }.wr F.chiefMode_mode 0 Md.configure

/-- A lock bars no access: it holds bits of the value (R14, R75). -/
theorem lockedIslSel_not_barred : lockedIslSel.writeBarred 0x400 4 = none := by decide +kernel

/-- The locked register reads 0 after a write of 1. -/
theorem lockedIslSel_keeps_isl : (lockedIslSel.barWrite false 0x400 1).rd F.chiefIslSel_isl = 0 := by decide +kernel

/-- Refutes O11: the clause of CHIEF_ISL_SEL asks of the state only that the write is not barred, but a LOCK record of the
image may hold the bits of any RW register (R75), and ISL_SEL is one: then a write of 1 leaves it at 0. -/
theorem not_bar0Accesses : ¬ Obligations.Bar0Accesses := by
  rintro ⟨_, writeSetsIsl, _⟩
  obtain ⟨t, ht, hisl⟩ := writeSetsIsl lockedIslSel 1 lockedIslSel_not_barred
  rw [exec_registerWrite, execRegisterWrite_of_not_barred 1 lockedIslSel_not_barred] at ht
  cases ht
  exact absurd (lockedIslSel_keeps_isl.symm.trans hisl) (by decide)

end Sys2Proof.Machine
end

section
/-! SUPPORT. The fault of a BAR0 access (R41): what it shows, what it logs, which registers it leaves alone. -/

namespace Sys2Proof.Machine

variable {s : State}

/-! ### Registers past a write, the log and an interrupt -/

theorem State.reg_wr_ne {f : Fld} {i v b : Nat} (h : b ≠ f.addr i) : (s.wr f i v).reg b = s.reg b :=
  State.reg_setReg_ne s _ h

theorem State.reg_congr {t : State} (h : t.regs = s.regs) (b : Nat) : t.reg b = s.reg b := by
  unfold State.reg
  rw [h]

theorem State.reg_emit (o : Output) (b : Nat) : (s.emit o).reg b = s.reg b :=
  State.reg_congr (State.emit_regs s o) b

theorem State.reg_log_ne {code isl status : Nat} {args : List Nat} {b : Nat} (h : b ≠ F.chiefLogLost_count.addr 0) :
    (s.log code isl status args).reg b = s.reg b := by
  unfold State.log
  split
  · rfl
  · exact State.reg_wr_ne h

theorem State.reg_irq_ne {v b : Nat} (h : b ≠ F.msixPba_pending.addr (v / 32)) : (s.irq v).reg b = s.reg b := by
  unfold State.irq
  split
  · exact State.reg_wr_ne h
  · exact State.reg_emit _ b

theorem State.irq_logQueue (v : Nat) : (s.irq v).logQueue = s.logQueue := by
  unfold State.irq
  split
  · rfl
  · exact State.emit_logQueue s _

/-! ### The fault -/

/-- The registers an access fault may write: the three of the fault (R41), LOST of the event log (R546) and the pending
bits of the Chief alert (R451). -/
def faultRegs : List Nat :=
  [F.chiefAccessFault_cause.addr 0, F.chiefAccessAddr_addr.addr 0, F.chiefAccessOwner_owner.addr 0,
    F.chiefLogLost_count.addr 0, F.msixPba_pending.addr 0]

variable {cause addr isl owner : Nat} {write : Bool}

theorem State.reg_accessFault {b : Nat} (h : b ∉ faultRegs) : (s.accessFault cause addr isl write owner).reg b = s.reg b := by
  simp only [faultRegs, List.mem_cons, List.not_mem_nil, or_false, not_or] at h
  obtain ⟨hfault, haddr, howner, hlost, hpba⟩ := h
  unfold State.accessFault State.chiefAlert State.count
  rw [State.reg_irq_ne hpba, State.reg_log_ne hlost, State.reg_wr_ne howner, State.reg_wr_ne haddr,
    State.reg_wr_ne (f := F.chiefAccessFault_count) hfault, State.reg_wr_ne (f := F.chiefAccessFault_isl) hfault,
    State.reg_wr_ne (f := F.chiefAccessFault_write) hfault, State.reg_wr_ne hfault]

theorem State.rd_accessFault_cause :
    (s.accessFault cause addr isl write owner).rd F.chiefAccessFault_cause = cause % 2 ^ 4 := by
  unfold State.accessFault State.chiefAlert State.count
  rw [State.rd_irq _ _ (by decide), State.rd_log _ _ (by decide), State.rd_wr_ne _ _ _ _ _ _ (by decide),
    State.rd_wr_ne _ _ _ _ _ _ (by decide), State.rd_wr_apart _ _ _ _ _ _ (by decide) (by decide),
    State.rd_wr_apart _ _ _ _ _ _ (by decide) (by decide), State.rd_wr_apart _ _ _ _ _ _ (by decide) (by decide),
    State.rd_wr_self _ _ _ _ (by decide)]
  rfl

theorem State.rd_accessFault_addr :
    (s.accessFault cause addr isl write owner).rd F.chiefAccessAddr_addr = addr % 2 ^ 26 := by
  unfold State.accessFault State.chiefAlert
  rw [State.rd_irq _ _ (by decide), State.rd_log _ _ (by decide), State.rd_wr_ne _ _ _ _ _ _ (by decide),
    State.rd_wr_self _ _ _ _ (by decide)]
  rfl

/-- The log takes the fault while it has room: its code is the cause, its first argument the address (R41, R546). -/
theorem State.logQueue_accessFault (h : s.logQueue.length < 16) :
    ∃ e, (s.accessFault cause addr isl write owner).logQueue = s.logQueue ++ [e] ∧ e.code = cause ∧
      e.args.head? = some addr := by
  unfold State.accessFault State.chiefAlert
  rw [State.irq_logQueue, State.log_queue (by simpa using h)]
  simp only [State.wr_logQueue, State.count_logQueue]
  exact ⟨_, rfl, rfl, rfl⟩

end Sys2Proof.Machine
end

section
/-! SUPPORT. A BAR0 write to a register of access class C (R38). -/

namespace Sys2Proof.Machine

/-- A write that is barred is discarded and faults at its island (R37, R38, R41). -/
theorem execRegisterWrite_of_barred {s : State} {a : BitVec 26} {n : BitVec 8} {cause : Nat} (v : Word)
    (h : s.writeBarred a.toNat n.toNat = some cause) :
    execRegisterWrite a n v s = .next (s.accessFault cause a.toNat (s.decidingIsland a.toNat) true) := by
  unfold execRegisterWrite
  dsimp only
  rw [h]

/-- The register at an address is of access class C (R38). -/
def cmdOnlyAt (a : Nat) : Bool := (findReg a regBlocks).any (fun x => x.2.2.cmdOnly)

theorem State.writeBarred_of_cmdOnly {s : State} {a : Nat} (hw : a % 4 = 0) (hu : unassigned a = false)
    (hc : s.closed a (s.decidingIsland a) = false) (h : cmdOnlyAt a = true) :
    s.writeBarred a 4 = some Af.commandOnly := by
  unfold cmdOnlyAt at h
  simp [State.writeBarred, hw, hu, hc, h]

/-- No register that a fault writes is of class C. -/
theorem faultRegs_not_cmdOnly : faultRegs.all (fun a => !cmdOnlyAt a) = true := by decide +kernel

theorem not_mem_faultRegs_of_cmdOnly {a : Nat} (h : cmdOnlyAt a = true) : a ∉ faultRegs := by
  intro ha
  have := List.all_eq_true.1 faultRegs_not_cmdOnly a ha
  simp [h] at this

/-- Settles O50: the write is barred as COMMAND_ONLY, and the fault writes no register of class C. -/
theorem commandOnlyKeepsItsValue : Obligations.CommandOnlyKeepsItsValue := by
  intro s a v hw hu hc hcmd hlog
  refine ⟨_, execRegisterWrite_of_barred v (State.writeBarred_of_cmdOnly hw hu hc hcmd),
    State.reg_accessFault (not_mem_faultRegs_of_cmdOnly hcmd), State.rd_accessFault_cause, ?_,
    State.logQueue_accessFault hlog⟩
  rw [State.rd_accessFault_addr, Nat.mod_eq_of_lt a.isLt]

end Sys2Proof.Machine
end

section
/-! SUPPORT. The operations of the blocks leave the Chief alone: its own state, its registers of R40 to R51 and the host
interface. One lemma per operation, each a chain that follows the operation's definition. -/

namespace Sys2Proof.Machine

/-- `t` has the Chief's own state and the host interface of `s`, and the Chief block's registers below the event log's. -/
structure KeepsChief (s t : State) : Prop where
  chief : t.chief = s.chief
  host : t.host = s.host
  reg : ∀ a, a < 0x800 → t.reg a = s.reg a

/-- The field stands in a block above those registers. -/
def Fld.aboveChief (f : Fld) : Bool := Nat.ble 0x800 f.base

theorem Fld.le_addr_of_aboveChief {f : Fld} (hf : f.aboveChief = true) (i : Nat) : 0x800 ≤ f.addr i :=
  Nat.le_trans (Nat.le_of_ble_eq_true hf) (Nat.le_trans (Nat.le_add_right ..) (f.le_addr i))

variable {s0 s t : State} {c : Prop} [Decidable c]

namespace KeepsChief

theorem refl (s : State) : KeepsChief s s := ⟨rfl, rfl, fun _ _ => rfl⟩

/-- A field of the Chief's reads the same. -/
theorem rd (h : KeepsChief s t) (f : Fld) (i : Nat) (hf : f.addr i < 0x800) : t.rd f i = s.rd f i :=
  congrArg f.ofWord (h.reg _ hf)

/-! ### Updates, branches and folds -/

theorem same (h : KeepsChief s0 s) (hc : t.chief = s.chief) (hh : t.host = s.host) (hr : t.regs = s.regs) :
    KeepsChief s0 t :=
  ⟨hc.trans h.chief, hh.trans h.host, fun a ha => by rw [← h.reg a ha, State.reg, State.reg, hr]⟩

theorem withLaid (h : KeepsChief s0 s) (x : Laid) : KeepsChief s0 { s with laid := x } := h.same rfl rfl rfl
theorem withHeadbox (h : KeepsChief s0 s) (x : Headbox) : KeepsChief s0 { s with headbox := x } := h.same rfl rfl rfl
theorem withCalender (h : KeepsChief s0 s) (x : Sparse CalCh) : KeepsChief s0 { s with calender := x } := h.same rfl rfl rfl
theorem withCoefActive (h : KeepsChief s0 s) (x : Sparse Word) : KeepsChief s0 { s with coefActive := x } := h.same rfl rfl rfl
theorem withCouch (h : KeepsChief s0 s) (x : Couch) : KeepsChief s0 { s with couch := x } := h.same rfl rfl rfl
theorem withScree (h : KeepsChief s0 s) (x : Scree) : KeepsChief s0 { s with scree := x } := h.same rfl rfl rfl
theorem withRidges (h : KeepsChief s0 s) (x : Sparse Ridge) : KeepsChief s0 { s with ridges := x } := h.same rfl rfl rfl
theorem withEngines (h : KeepsChief s0 s) (x : Sparse Engine) : KeepsChief s0 { s with engines := x } := h.same rfl rfl rfl
theorem withLaidChs (h : KeepsChief s0 s) (x : Sparse LaidCh) : KeepsChief s0 { s with laidChs := x } := h.same rfl rfl rfl
theorem withScreeChs (h : KeepsChief s0 s) (x : Sparse ScreeCh) : KeepsChief s0 { s with screeChs := x } := h.same rfl rfl rfl
theorem withLinks (h : KeepsChief s0 s) (x : Lanes) : KeepsChief s0 { s with links := x } := h.same rfl rfl rfl
theorem withMem (h : KeepsChief s0 s) (x : Hbm) : KeepsChief s0 { s with mem := x } := h.same rfl rfl rfl
theorem withReel (h : KeepsChief s0 s) (x : Reel) : KeepsChief s0 { s with reel := x } := h.same rfl rfl rfl

theorem withReelHeadbox (h : KeepsChief s0 s) (x : Reel) (y : Headbox) :
    KeepsChief s0 { s with reel := x, headbox := y } := h.same rfl rfl rfl

theorem withCouchStats (h : KeepsChief s0 s) (x : Couch) (y : Stats) :
    KeepsChief s0 { s with couch := x, stats := y } := h.same rfl rfl rfl

theorem ite (ha : KeepsChief s0 s) (hb : KeepsChief s0 t) : KeepsChief s0 (if c then s else t) := by
  split
  · exact ha
  · exact hb

/-- An operation made where a condition holds. -/
theorem andIf (h : KeepsChief s0 s) (ht : KeepsChief s0 s → KeepsChief s0 t) : KeepsChief s0 (if c then t else s) :=
  .ite (ht h) h

/-- An operation made unless a condition holds. -/
theorem andUnless (h : KeepsChief s0 s) (ht : KeepsChief s0 s → KeepsChief s0 t) :
    KeepsChief s0 (if c then s else t) :=
  .ite h (ht h)

theorem foldl {β : Type} {f : State → β → State} {l : List β} (h : KeepsChief s0 s)
    (hf : ∀ t x, x ∈ l → KeepsChief s0 t → KeepsChief s0 (f t x)) : KeepsChief s0 (l.foldl f s) := by
  induction l generalizing s with
  | nil => exact h
  | cons x l ih => exact ih (hf s x (List.mem_cons_self ..) h) (fun t y hy => hf t y (List.mem_cons_of_mem _ hy))

theorem forN {n : Nat} {f : Nat → State → State} (h : KeepsChief s0 s)
    (hf : ∀ k t, KeepsChief s0 t → KeepsChief s0 (f k t)) : KeepsChief s0 (Machine.forN n f s) :=
  h.foldl (fun t k _ => hf k t)

theorem forAll {α : Type} {l : List α} {f : α → State → State} (h : KeepsChief s0 s)
    (hf : ∀ x t, KeepsChief s0 t → KeepsChief s0 (f x t)) : KeepsChief s0 (Machine.forAll l f s) :=
  h.foldl (fun t x _ => hf x t)

/-! ### Registers, outputs, the log, HBM -/

theorem setReg (h : KeepsChief s0 s) (a : Nat) (w : Word) (ha : 0x800 ≤ a) : KeepsChief s0 (s.setReg a w) :=
  ⟨h.chief, h.host, fun b hb => (State.reg_setReg_ne s w (by omega)).trans (h.reg b hb)⟩

theorem wr {f : Fld} {i v : Nat} (h : KeepsChief s0 s) (hf : f.aboveChief = true) : KeepsChief s0 (s.wr f i v) :=
  h.setReg _ _ (Fld.le_addr_of_aboveChief hf i)

theorem up {f : Fld} {i : Nat} (h : KeepsChief s0 s) (hf : f.aboveChief = true) : KeepsChief s0 (s.up f i) := h.wr hf

theorem down {f : Fld} {i : Nat} (h : KeepsChief s0 s) (hf : f.aboveChief = true) : KeepsChief s0 (s.down f i) := h.wr hf

theorem count {f : Fld} {i n : Nat} (h : KeepsChief s0 s) (hf : f.aboveChief = true) : KeepsChief s0 (s.count f i n) :=
  h.wr hf

theorem peak {f : Fld} {i v : Nat} (h : KeepsChief s0 s) (hf : f.aboveChief = true) : KeepsChief s0 (s.peak f i v) :=
  h.andIf (fun h => h.wr hf)

theorem resetSpan (h : KeepsChief s0 s) {lo : Nat} (hi : Nat) (hlo : 0x800 ≤ lo) : KeepsChief s0 (s.resetSpan lo hi) := by
  refine ⟨h.chief, h.host, fun a ha => (?_ : _ = s.reg a).trans (h.reg a ha)⟩
  unfold State.reg State.resetSpan
  dsimp only
  induction s.regs with
  | nil => rfl
  | cons e l ih =>
    rw [List.filter_cons]
    split
    · simp only [Sparse.get, ih]
    · rename_i he
      have hne : e.1 ≠ a := by simp at he; omega
      simp only [Sparse.get, hne, if_false, ih]

theorem emit (h : KeepsChief s0 s) (o : Output) : KeepsChief s0 (s.emit o) :=
  h.same (State.emit_chief s o) (State.emit_host s o) (State.emit_regs s o)

theorem event (h : KeepsChief s0 s) (p g isl : Nat) : KeepsChief s0 (s.event p g isl) := h.emit _

theorem log (h : KeepsChief s0 s) (code isl status : Nat) (args : List Nat) :
    KeepsChief s0 (s.log code isl status args) := .ite (h.same rfl rfl rfl) (h.count rfl)

theorem irq (h : KeepsChief s0 s) (v : Nat) : KeepsChief s0 (s.irq v) := .ite (h.wr rfl) (h.emit _)

theorem free (h : KeepsChief s0 s) : KeepsChief s0 s.free.2 := h.same rfl rfl rfl

theorem setBytes (h : KeepsChief s0 s) (a : Nat) (b : Bytes) : KeepsChief s0 (s.setBytes a b) := by
  induction b generalizing s a with
  | nil => exact h
  | cons x b ih => exact ih (s := s.setByte a x) (h.same rfl rfl rfl) (a + 1)

/-! ### EVIO pins, the Headbox, the Laid and the lanes: what a change of mode idles (R117, R252, R494) -/

theorem evioSet (h : KeepsChief s0 s) (i : Nat) (b : Bool) : KeepsChief s0 (s.evioSet i b) := (h.wr rfl).emit _

theorem evioIdleAll (h : KeepsChief s0 s) : KeepsChief s0 s.evioIdleAll :=
  h.forN (fun _ _ h => h.andIf (fun h => (h.down rfl).evioSet _ _))

theorem restStep (h : KeepsChief s0 s) (k : Nat) : KeepsChief s0 (s.restStep k) := h.andUnless (fun h => h.wr rfl)

theorem channelAlert (h : KeepsChief s0 s) (n : Nat) : KeepsChief s0 (s.channelAlert n) := h.event _ _ _

theorem setHbCh (h : KeepsChief s0 s) (n : Nat) (v : HbCh) : KeepsChief s0 (s.setHbCh n v) := h.withHeadbox _

theorem setHbPort (h : KeepsChief s0 s) (p : Nat) (v : HbPort) : KeepsChief s0 (s.setHbPort p v) := h.withHeadbox _

theorem setFill (h : KeepsChief s0 s) (n fill : Nat) : KeepsChief s0 (s.setFill n fill) :=
  (((h.setHbCh _ _).wr rfl).peak rfl).andIf (fun h => (h.up rfl).channelAlert _)

theorem deliverLines (h : KeepsChief s0 s) (n fuel : Nat) : KeepsChief s0 (s.deliverLines n fuel) := by
  induction fuel generalizing s with
  | zero => exact h
  | succ fuel ih =>
    unfold State.deliverLines
    dsimp only
    split
    · exact h
    · split
      · exact h
      · exact ih (((h.setHbCh _ _).wr rfl).wr rfl)

theorem setTrig (h : KeepsChief s0 s) (n : Nat) (line : Int) (f : TrigLine → TrigLine) :
    KeepsChief s0 (s.setTrig n line f) := h.setHbCh _ _

theorem hbCount (h : KeepsChief s0 s) (n k : Nat) : KeepsChief s0 (s.hbCount n k) := h.count rfl

theorem markMissing (h : KeepsChief s0 s) (n : Nat) (line : Int) (cause : Nat) :
    KeepsChief s0 (s.markMissing n line cause) := by
  unfold State.markMissing
  split
  · exact h
  · exact (((((h.andIf (fun h => h.setHbCh _ _)).setTrig _ _ _).hbCount _ _).hbCount _ _).andIf
      (fun h => h.channelAlert _)).deliverLines _ _

theorem failBurst (h : KeepsChief s0 s) (p cause : Nat) (after : BurstState) : KeepsChief s0 (s.failBurst p cause after) := by
  unfold State.failBurst
  split
  · exact ((h.setHbPort _ _).setFill _ _).markMissing _ _ _
  · exact h

theorem sensorBondDown (h : KeepsChief s0 s) (p : Nat) : KeepsChief s0 (s.sensorBondDown p) :=
  ((((h.failBurst _ _ _).setHbPort _ _).down rfl).up rfl).event _ _ _

theorem backBreak (h : KeepsChief s0 s) (n : Nat) : KeepsChief s0 (s.backBreak n) := by
  unfold State.backBreak
  dsimp only
  split
  · exact h.withScreeChs _
  · exact h.withScreeChs _

theorem vCount (h : KeepsChief s0 s) (k n : Nat) : KeepsChief s0 (s.vCount k n) := h.count rfl

theorem laidRaise (h : KeepsChief s0 s) (p g : Nat) : KeepsChief s0 (s.laidRaise p g) := h.withLaid _

theorem laidEvents (h : KeepsChief s0 s) : KeepsChief s0 s.laidEvents := by
  refine (h.withLaid _).forAll (fun p t ht => ?_)
  split
  · exact ht
  · exact ht.event _ _ _

theorem showGaps (h : KeepsChief s0 s) : KeepsChief s0 s.showGaps := (h.wr rfl).andIf (fun h => h.up rfl)

theorem gap (h : KeepsChief s0 s) (kind cause first arg sub ns g : Nat) :
    KeepsChief s0 (s.gap kind cause first arg sub ns g) := by
  have hcount := (h.wr (f := F.laidGapNextSeq_seq) (i := 0) (v := s.rd F.laidGapNextSeq_seq + 1) rfl).vCount Vc.gapRecords 1
  exact ((KeepsChief.ite (hcount.vCount _ _) (hcount.withLaid _).showGaps).andIf (fun h => h.up rfl)).andUnless
    (fun h => h.laidRaise _ _)

theorem closeRun (h : KeepsChief s0 s) : KeepsChief s0 s.closeRun := by
  unfold State.closeRun
  split
  · exact h
  · exact (h.withLaid _).gap _ _ _ _ _ _ _

theorem blankLine (h : KeepsChief s0 s) (y cause g : Nat) : KeepsChief s0 (s.blankLine y cause g) := by
  have hup := h.up (f := F.laidLineStat_err) (i := 0) rfl
  unfold State.blankLine
  dsimp only
  split
  · exact .ite (hup.withLaid _) ((hup.closeRun.withLaid _).laidRaise _ _)
  · exact (hup.withLaid _).laidRaise _ _

theorem hardStop (h : KeepsChief s0 s) (cause g : Nat) : KeepsChief s0 (s.hardStop cause g) := by
  unfold State.hardStop
  refine h.andUnless (fun h => ((h.withLaid _).wr rfl).andUnless (fun h => .forAll ?_ (fun y t ht => ?_)))
  · have hstate := h.wr (f := F.laidStat_state) (i := 0) (v := Lst.blanking) rfl
    split
    · exact hstate
    · exact hstate.andUnless (fun h => ((h.withLaid _).vCount _ _).gap _ _ _ _ _ _ _)
  · exact (ht.withLaid _).blankLine _ _ _

theorem loseChannel (h : KeepsChief s0 s) (n : Nat) : KeepsChief s0 (s.loseChannel n) :=
  (((h.withLaidChs _).up rfl).down rfl).andIf (fun h => (h.hardStop _ _).laidEvents)

theorem drvLaneDown (h : KeepsChief s0 s) (n : Nat) : KeepsChief s0 (s.drvLaneDown n) :=
  .ite (h.loseChannel _) ((h.withLaidChs _).down rfl)

theorem showCredit (h : KeepsChief s0 s) (p : Nat) : KeepsChief s0 (s.showCredit p) :=
  .ite (h.wr rfl) (h.andIf (fun h => h.wr rfl))

theorem dropCredits (h : KeepsChief s0 s) (p : Nat) : KeepsChief s0 (s.dropCredits p) := (h.withLinks _).showCredit _

theorem bondDownHook (h : KeepsChief s0 s) (n : Nat) : KeepsChief s0 (s.bondDownHook n) := by
  unfold State.bondDownHook
  refine .ite (h.sensorBondDown _) (.ite ((h.backBreak _).drvLaneDown _) ?_)
  split
  · exact h.forN (fun _ _ h => h.dropCredits _)
  · exact h

theorem bondDown (h : KeepsChief s0 s) (n : Nat) : KeepsChief s0 (s.bondDown n) :=
  h.andUnless (fun h => (h.forAll (fun _ _ h =>
    ((h.andIf (fun h => (h.count rfl).wr rfl)).down rfl).withLinks _)).bondDownHook _)

theorem laneFalls (h : KeepsChief s0 s) (n st : Nat) : KeepsChief s0 (s.laneFalls n st) :=
  ((h.bondDown _).withLinks _).wr rfl

theorem laneTest (h : KeepsChief s0 s) (n : Nat) : KeepsChief s0 (s.laneTest n) :=
  h.andUnless (fun h => .ite (h.andUnless (fun h => h.laneFalls _ _)) (.ite (h.andUnless (fun h => h.laneFalls _ _))
    (h.andIf (fun h => h.laneFalls _ _))))

/-! ### The end of the data path (R47, R49, R252, R316) -/

theorem setRidge (h : KeepsChief s0 s) (k : Nat) (r : Ridge) : KeepsChief s0 (s.setRidge k r) := h.withRidges _

theorem setRole (h : KeepsChief s0 s) (k j role slot : Nat) : KeepsChief s0 (s.setRole k j role slot) :=
  (h.wr rfl).wr rfl

theorem rotAbandon (h : KeepsChief s0 s) (k : Nat) : KeepsChief s0 (s.rotAbandon k) :=
  h.andIf (fun h => ((((h.setRole _ _ _ _).wr rfl).wr rfl).wr rfl).setRidge _ _)

theorem setMarks (h : KeepsChief s0 s) (u : Nat) (l : List MarkTarget) : KeepsChief s0 (s.setMarks u l) :=
  ((h.withCouch _).wr rfl).andIf (fun h => h.up rfl)

theorem dropMarks (h : KeepsChief s0 s) (u : Nat) : KeepsChief s0 (s.dropMarks u) :=
  h.andUnless (fun h => (((h.count rfl).down rfl).down rfl).setMarks _ _)

theorem calScalars (h : KeepsChief s0 s) (n : Nat) : KeepsChief s0 (s.calScalars n) :=
  ((((h.wr rfl).wr rfl).wr rfl).wr rfl).wr rfl

theorem swapBanks (h : KeepsChief s0 s) (n : Nat) : KeepsChief s0 (s.swapBanks n) := by
  have hlo : 0x800 ≤ coefAddr n 0 := by unfold coefAddr; omega
  refine ((h.resetSpan _ hlo).foldl (fun t e he ht => ht.setReg _ _ ?_)).withCoefActive _
  have hin := (List.mem_filter.1 he).2
  simp only [inChannel, Bool.and_eq_true, decide_eq_true_eq] at hin
  exact Nat.le_trans hlo hin.1

theorem calHandover (h : KeepsChief s0 s) (n : Nat) : KeepsChief s0 (s.calHandover n) :=
  ((((h.calScalars _).down rfl).down rfl).count rfl).andIf (fun h => ((h.swapBanks _).withCalender _).up rfl)

theorem calIdleHandover (h : KeepsChief s0 s) (n : Nat) : KeepsChief s0 (s.calIdleHandover n) :=
  h.andIf (fun h => h.calHandover _)

theorem couchCount (h : KeepsChief s0 s) (k n : Nat) : KeepsChief s0 (s.couchCount k n) := h.count rfl

theorem showCouch (h : KeepsChief s0 s) : KeepsChief s0 s.showCouch :=
  ((((((((((h.wr rfl).wr rfl).wr rfl).wr rfl).wr rfl).forN (fun _ _ h => h.wr rfl)).andIf
    (fun h => h.up rfl)).andIf (fun h => h.up rfl)).andIf (fun h => h.up rfl)).andIf (fun h => h.up rfl))

theorem issueRecord (h : KeepsChief s0 s) (body : Bytes) : KeepsChief s0 (s.issueRecord body) := by
  have hseq := h.wr (f := F.couchNextSeq_seq) (i := 0) (v := s.rd F.couchNextSeq_seq + 1) rfl
  exact .ite (hseq.couchCount _ _) (hseq.withCouch _).showCouch

theorem issueClose (h : KeepsChief s0 s) (m : Marker) : KeepsChief s0 (s.issueClose m) := (h.withCouch _).issueRecord _

theorem classifyNext (h : KeepsChief s0 s) (fuel : Nat) : KeepsChief s0 (s.classifyNext fuel) := by
  induction fuel generalizing s with
  | zero => exact h
  | succ fuel ih =>
    unfold State.classifyNext
    split
    · exact ih ((h.withCouch _).issueClose _)
    · exact (h.withCouch _).andUnless (fun h => (h.couchCount _ _).up rfl)
    · exact h

theorem enqueueClass (h : KeepsChief s0 s) (e : ClassEntry) : KeepsChief s0 (s.enqueueClass e) :=
  ((h.withCouch _).classifyNext _).showCouch

theorem releaseGroup (h : KeepsChief s0 s) (g flags : Nat) : KeepsChief s0 (s.releaseGroup g flags) :=
  h.andUnless (fun h => (((h.withCouch _).andIf (fun h => h.couchCount _ _)).andIf
    (fun h => h.couchCount _ _)).enqueueClass _)

theorem couchRefresh (h : KeepsChief s0 s) : KeepsChief s0 s.couchRefresh :=
  ((h.forN (fun _ _ h => h.wr rfl)).forN (fun _ _ h => h.wr rfl)).forAll
    (fun _ _ h => h.andIf (fun h => h.releaseGroup _ _))

/-! ### The Ream's jobs ended, and the cut of the drain (R49, R427) -/

theorem setEngine (h : KeepsChief s0 s) (e : Nat) (v : Engine) : KeepsChief s0 (s.setEngine e v) := h.withEngines _

theorem endRun (h : KeepsChief s0 s) (e : Nat) (r : ReamRun) (x : ReamEnd) : KeepsChief s0 (s.endRun e r x) :=
  ((((((((((h.count rfl).count rfl).andIf (fun h => h.count rfl)).count rfl).count rfl).setEngine _ _).wr rfl).wr rfl).wr
    rfl).andUnless (fun h => ((((h.wr rfl).wr rfl).wr rfl).wr rfl).event _ _ _)).andIf (fun h => h.event _ _ _)

theorem errLogNew (h : KeepsChief s0 s) (kind unit port : Nat) (errBit : Option Nat) :
    KeepsChief s0 (s.errLogNew kind unit port errBit) :=
  ((((((h.andIf (fun h => h.count rfl)).wr rfl).wr rfl).wr rfl).wr rfl).andIf (fun h => h.up rfl)).wr rfl

theorem uncorrected (h : KeepsChief s0 s) (unit port : Nat) : KeepsChief s0 (s.uncorrected unit port) :=
  (((h.count rfl).count rfl).errLogNew _ _ _ _).log _ _ _ _

theorem store (h : KeepsChief s0 s) (port a : Nat) (bs : Bytes) : KeepsChief s0 (s.store port a bs) := by
  unfold State.store State.writeMem
  split
  · exact h.uncorrected _ _
  · exact (h.foldl (fun _ _ _ h => h.withMem _)).setBytes _ _

theorem hostResult (h : KeepsChief s0 s) (e : Nat) (r : ReamRun) (x : ReamEnd) : KeepsChief s0 (s.hostResult e r x) :=
  ((h.store _ _ _).wr rfl).andIf (fun h => (h.setEngine _ _).down rfl)

theorem scramble (h : KeepsChief s0 s) (a n : Nat) : KeepsChief s0 (s.scramble a n) := by
  induction n generalizing s a with
  | zero => exact h
  | succ n ih => exact ih (h.free.setBytes a [_]) (a + 1)

theorem scrambleOut (h : KeepsChief s0 s) (l : List (Nat × Nat)) (left : Nat) : KeepsChief s0 (s.scrambleOut l left) := by
  induction l generalizing s left with
  | nil => exact h
  | cons x l ih => exact ih (h.scramble _ _) _

theorem reamEnd (h : KeepsChief s0 s) (e : Nat) : KeepsChief s0 (s.reamEnd e) := by
  unfold State.reamEnd
  split
  · exact h
  · exact ((h.free.free.andIf (fun h => h.scrambleOut _ _)).endRun _ _ _).andIf (fun h => h.hostResult _ _ _)

theorem reamEndClient (h : KeepsChief s0 s) (client : Nat) : KeepsChief s0 (s.reamEndClient client) :=
  h.forN (fun _ _ h => (h.andIf (fun h => h.setEngine _ _)).andIf (fun h => h.reamEnd _))

theorem couchCut (h : KeepsChief s0 s) : KeepsChief s0 s.couchCut :=
  ((h.andUnless (fun h => h.couchCount _ _)).withCouch _).showCouch

theorem showInline (h : KeepsChief s0 s) (k : Nat) : KeepsChief s0 (s.showInline k) :=
  ((h.wr rfl).peak rfl).andIf (fun h => h.up rfl)

theorem showSlots (h : KeepsChief s0 s) (k : Nat) : KeepsChief s0 (s.showSlots k) :=
  (((h.wr rfl).peak rfl).wr rfl).andIf (fun h => h.up rfl)

theorem showStats (h : KeepsChief s0 s) : KeepsChief s0 s.showStats := h.wr rfl

theorem discardRun (h : KeepsChief s0 s) : KeepsChief s0 s.discardRun := by
  unfold State.discardRun
  refine .showCouch (.showStats (.withCouchStats (.forN (.withCalender (.forN ?_ ?_) _) ?_) _ _))
  · exact .withHeadbox (.withReelHeadbox (h.couchCut.reamEndClient 2) _ _) _
  · exact fun _ _ h => h.setFill _ _
  · exact fun _ _ h => ((h.setRidge _ _).showInline _).showSlots _

/-! ### Entry into a run mode (R46, R235, R313, R397) -/

theorem setNodeParam (h : KeepsChief s0 s) (k i : Nat) (p : Bytes) : KeepsChief s0 (s.setNodeParam k i p) :=
  h.forN (fun _ _ h => h.wr rfl)

theorem ridgeEntryCompute (h : KeepsChief s0 s) (k : Nat) : KeepsChief s0 (s.ridgeEntryCompute k) :=
  (h.forN (fun _ _ h => h.wr rfl)).wr rfl

theorem ridgeEnter (h : KeepsChief s0 s) (k : Nat) : KeepsChief s0 (s.ridgeEnter k) :=
  (((((((h.ridgeEntryCompute k).foldl (fun _ _ _ h => h.setNodeParam _ _ _)).forN (fun _ _ h => h.wr rfl)).setRidge
    _ _).andIf (fun h => h.wr rfl)).wr (f := F.ridgeParamStat_pending) rfl).showInline _ |>.showSlots _).wr rfl

theorem couchEnter (h : KeepsChief s0 s) : KeepsChief s0 s.couchEnter := ((h.wr rfl).withCouch _).couchRefresh

theorem showColumn (h : KeepsChief s0 s) (n : Nat) : KeepsChief s0 (s.showColumn n) :=
  ((((h.wr rfl).wr rfl).wr rfl).wr rfl).wr rfl

theorem showDegraded (h : KeepsChief s0 s) : KeepsChief s0 s.showDegraded := by
  unfold State.showDegraded
  exact .andIf ((h.wr rfl).wr rfl) (fun h => h.down rfl)

theorem showColumns (h : KeepsChief s0 s) : KeepsChief s0 s.showColumns :=
  (h.forN (fun _ _ h => h.showColumn _)).showDegraded

theorem screeEnter (h : KeepsChief s0 s) : KeepsChief s0 s.screeEnter :=
  (((h.withScree _).forN (fun _ _ h => h.wr rfl)).withScree _).showColumns

end KeepsChief

/-- The Chief marks the path's run mode; the blocks' entry leaves the Chief alone (R46). -/
theorem State.runBegin_keepsChief (s : State) (m : Nat) : KeepsChief { s with chief.path := m } (s.runBegin m) := by
  have h := KeepsChief.refl { s with chief.path := m }
  unfold State.runBegin
  refine .ite (.couchEnter (.forN (.withCalender (.forN (h.withHeadbox _) ?_) _) ?_)) (.screeEnter (h.withLaid _))
  · exact fun _ _ h => (h.setFill _ _).wr rfl
  · exact fun _ _ h => h.andUnless (fun h => h.ridgeEnter _)

/-- The path's run ends at the Chief; the blocks' exit leaves the Chief alone (R49, R50). -/
theorem State.pathEnd_keepsChief (s : State) :
    KeepsChief { s with chief.path := 0, chief.complete := none } s.pathEnd := by
  have h := (KeepsChief.refl { s with chief.path := 0, chief.complete := none }).withReel { s.reel with stop := none }
  unfold State.pathEnd
  refine .forN (.couchRefresh (.forN (h.forN ?_) ?_)) ?_
  · exact fun _ _ h => (h.rotAbandon _).andIf (fun h => h.wr rfl)
  · exact fun _ _ h => h.dropMarks _
  · exact fun _ _ h => h.calIdleHandover _

end Sys2Proof.Machine
end

section
/-! SUPPORT. Host commands that a controller serves (R456 to R458), and the change of mode they ask for (R24, R45). -/

namespace Sys2Proof.Machine

variable {s : State} {c : CmdRef} {op st info : Nat}

/-- What `serves` says. -/
theorem State.serves_iff : s.serves c = true ↔ s.fenced c = false ∧
    s.host.timedOut.any (fun t => t.cseq == c.cseq && t.stream == streamOf c) = false ∧ s.mode ≠ Md.recovery := by
  simp [State.serves, and_assoc]

theorem State.command_of_serves (h : s.serves c = true) (act : State → State) : s.command c op act = act s := by
  obtain ⟨hfence, -, hmode⟩ := State.serves_iff.1 h
  simp [State.command, hfence, hmode]

/-! ### A report changes the host interface only -/

theorem State.finish_keepsChief (s : State) (c : CmdRef) (op st info : Nat) :
    ∃ x, KeepsChief { s with host := x } (s.finish c op st info) := by
  unfold State.finish State.report
  split
  · exact ⟨_, ((KeepsChief.refl _).log _ _ _ _).irq 6⟩
  · exact ⟨_, (KeepsChief.refl _).wr rfl⟩

theorem State.finish_chief : (s.finish c op st info).chief = s.chief := by
  obtain ⟨x, h⟩ := s.finish_keepsChief c op st info
  exact h.chief

theorem State.rd_finish {f : Fld} {i : Nat} (hf : f.addr i < 0x800) : (s.finish c op st info).rd f i = s.rd f i := by
  obtain ⟨x, h⟩ := s.finish_keepsChief c op st info
  exact h.rd f i hf

/-- A command that has not timed out shows its report (R457, R458). -/
theorem State.reported_finish (h : s.host.timedOut.any (fun t => t.cseq == c.cseq && t.stream == streamOf c) = false) :
    (s.finish c op st info).reported c op st = true := by
  unfold State.reported
  rw [State.finish_reports h]
  simp

/-! ### The list of waiting commands (R24, R45) -/

theorem State.takeWaiting_of_nil (h : s.chief.waiting = []) : s.takeWaiting = s := by
  unfold State.takeWaiting
  rw [h]
  rfl

theorem State.takeWaiting_of_single {m : ModeCmd} (hc : s.changing = false) (hw : s.chief.waiting = [m]) :
    s.takeWaiting = ({ s with chief.waiting := [] } : State).modeStart m := by
  unfold State.takeWaiting
  simp only [hw, List.length_singleton, State.nextChange, hc, Bool.false_eq_true, if_false]

/-- A command that arrives at an idle Chief begins at once. -/
theorem State.queueChange_of_idle (hc : s.changing = false) (hw : s.chief.waiting = []) (m : ModeCmd) :
    s.queueChange m = s.modeStart m := by
  have hs : ({ s with chief.waiting := [] } : State) = s := by rw [← hw]
  refine (State.takeWaiting_of_single (s := { s with chief.waiting := s.chief.waiting ++ [m] }) hc
    (congrArg (· ++ [m]) hw)).trans ?_
  exact congrArg (State.modeStart · m) hs

end Sys2Proof.Machine
end

section
/-! SUPPORT. A transition of the mode from its beginning to its end (R44 to R50): what it shows, where it leaves the Chief. -/

namespace Sys2Proof.Machine

variable {s : State}

/-! ### TRANSITION and TARGET as a transition begins -/

theorem State.reg_withChief (s : State) (x : Chief) (a : Nat) : ({ s with chief := x } : State).reg a = s.reg a := rfl

theorem State.rd_withChief (s : State) (x : Chief) (f : Fld) (i : Nat) : ({ s with chief := x } : State).rd f i = s.rd f i :=
  rfl

theorem State.reg_showTrans (s : State) (t : Trans) (m : Nat) {a : Nat} (ha : a ≠ 0x100) :
    (s.showTrans t m).reg a = s.reg a := by
  unfold State.showTrans State.up
  rw [State.reg_wr_ne (f := F.chiefMode_stopNow) ha, State.reg_withChief, State.reg_wr_ne (f := F.chiefMode_target) ha,
    State.reg_wr_ne (f := F.chiefMode_transition) ha]

theorem State.flag_showTrans_transition (s : State) (t : Trans) (m : Nat) :
    (s.showTrans t m).flag F.chiefMode_transition = true := by
  unfold State.showTrans State.up State.flag
  simp (disch := decide) [State.rd_wr_apart, State.rd_wr_self]

theorem State.rd_showTrans_target (s : State) (t : Trans) (m : Nat) :
    (s.showTrans t m).rd F.chiefMode_target = m % 2 ^ 3 := by
  unfold State.showTrans State.up
  simp (disch := decide) [State.rd_wr_apart, State.rd_wr_self]
  rfl

theorem State.showTrans_mode (s : State) (t : Trans) (m : Nat) : (s.showTrans t m).mode = s.mode := by
  unfold State.showTrans State.up State.mode
  simp (disch := decide) [State.rd_wr_apart]

/-! ### MODE as a transition ends -/

/-- CHIEF_MODE and CHIEF_TRANS_STAT as MODE becomes `m` (R45). -/
def State.showMode (s : State) (m : Nat) : State :=
  ((((((s.wr F.chiefTransStat_from 0 s.mode).wr F.chiefTransStat_to 0 m).wr F.chiefTransStat_cut 0 0).wr F.chiefMode_mode
    0 m).wr F.chiefMode_target 0 0).down F.chiefMode_transition).down F.chiefMode_stopNow

/-- What idles as MODE changes leaves the Chief alone (R117, R252, R494). -/
theorem State.enterMode_keepsChief (s : State) (m : Nat) : KeepsChief (s.showMode m) (s.enterMode m) :=
  .forN (.forN (KeepsChief.refl (s.showMode m)).evioIdleAll (fun _ _ h => h.restStep _)) (fun _ _ h => h.laneTest _)

theorem State.showMode_mode (s : State) {m : Nat} (hm : m < 8) : (s.showMode m).mode = m := by
  unfold State.showMode State.down State.mode
  simp (disch := decide) [State.rd_wr_apart, State.rd_wr_self]
  exact Nat.mod_eq_of_lt hm

theorem State.flag_showMode_transition (s : State) (m : Nat) : (s.showMode m).flag F.chiefMode_transition = false := by
  unfold State.showMode State.down State.flag
  simp (disch := decide) [State.rd_wr_apart, State.rd_wr_self]

theorem State.rd_showMode_from (s : State) (m : Nat) : (s.showMode m).rd F.chiefTransStat_from = s.mode := by
  unfold State.showMode State.down
  simp (disch := decide) [State.rd_wr_apart, State.rd_wr_self, State.rd_wr_far_00]
  exact Nat.mod_eq_of_lt (State.rd_lt s F.chiefMode_mode 0)

theorem State.flag_showMode_cut (s : State) (m : Nat) : (s.showMode m).flag F.chiefTransStat_cut = false := by
  unfold State.showMode State.down State.flag
  simp (disch := decide) [State.rd_wr_apart, State.rd_wr_self]

/-! ### The end of the transition of a SET_MODE -/

theorem State.transDone_of_setMode {t : Trans} (hop : t.opcode = 1) :
    s.transDone t = ({ s.enterMode t.newMode with chief.trans := none } : State).finish t.cmd 1 St.done := by
  simp [State.transDone, hop]

theorem State.transDone_chief {t : Trans} (hop : t.opcode = 1) :
    (s.transDone t).chief = { s.chief with trans := none } := by
  rw [State.transDone_of_setMode hop, State.finish_chief]
  change ({ (s.enterMode t.newMode).chief with trans := none } : Chief) = _
  rw [(s.enterMode_keepsChief t.newMode).chief]
  rfl

/-- The end of a SET_MODE shows what the new mode does. -/
theorem State.rd_transDone {t : Trans} (hop : t.opcode = 1) {f : Fld} {i : Nat} (hf : f.addr i < 0x800) :
    (s.transDone t).rd f i = (s.showMode t.newMode).rd f i := by
  rw [State.transDone_of_setMode hop, State.rd_finish hf]
  exact (s.enterMode_keepsChief t.newMode).rd f i hf

theorem State.transDone_mode {t : Trans} (hop : t.opcode = 1) (hm : t.newMode < 8) : (s.transDone t).mode = t.newMode :=
  (State.rd_transDone hop (by decide)).trans (s.showMode_mode hm)

theorem State.flag_transDone_transition {t : Trans} (hop : t.opcode = 1) :
    (s.transDone t).flag F.chiefMode_transition = false := by
  rw [State.flag, State.rd_transDone hop (by decide)]
  exact s.flag_showMode_transition t.newMode

theorem State.rd_transDone_from {t : Trans} (hop : t.opcode = 1) : (s.transDone t).rd F.chiefTransStat_from = s.mode :=
  (State.rd_transDone hop (by decide)).trans (s.rd_showMode_from t.newMode)

theorem State.flag_transDone_cut {t : Trans} (hop : t.opcode = 1) : (s.transDone t).flag F.chiefTransStat_cut = false := by
  rw [State.flag, State.rd_transDone hop (by decide)]
  exact s.flag_showMode_cut t.newMode

theorem State.reported_transDone {t : Trans} (hop : t.opcode = 1)
    (h : s.host.timedOut.any (fun x => x.cseq == t.cmd.cseq && x.stream == streamOf t.cmd) = false) :
    (s.transDone t).reported t.cmd 1 St.done = true := by
  rw [State.transDone_of_setMode hop]
  refine State.reported_finish ?_
  dsimp only
  rw [(s.enterMode_keepsChief t.newMode).host]
  exact h

end Sys2Proof.Machine
end

section
/-! SUPPORT. Joint changes (R22, R23, R46): how one opens, takes an answer, is aborted and is applied. -/

namespace Sys2Proof.Machine

variable {s t : State}

/-! ### A joint change opens -/

/-- CHIEF_JOINT_STAT and CHIEF_JOINT_POS as a joint change opens (R22). -/
def State.showOpen (s : State) : State :=
  ((((s.advance F.chiefJointStat_jointSeq 0 1).wr F.chiefJointStat_involved 0 15).wr F.chiefJointStat_refused 0 0).wr
    F.chiefJointStat_state 0 1).wr64 F.chiefJointPosLo_pos F.chiefJointPosHi_pos 0 0

/-- The opening writes the three joint registers only. -/
theorem State.reg_showOpen (s : State) {a : Nat} (hstat : a ≠ 0x430) (hlo : a ≠ 0x438) (hhi : a ≠ 0x43C) :
    s.showOpen.reg a = s.reg a := by
  unfold State.showOpen State.advance State.wr64
  rw [State.reg_wr_ne (f := F.chiefJointPosHi_pos) hhi, State.reg_wr_ne (f := F.chiefJointPosLo_pos) hlo,
    State.reg_wr_ne (f := F.chiefJointStat_state) hstat, State.reg_wr_ne (f := F.chiefJointStat_refused) hstat,
    State.reg_wr_ne (f := F.chiefJointStat_involved) hstat, State.reg_wr_ne (f := F.chiefJointStat_jointSeq) hstat]

/-- CHIEF_MODE reads the same. -/
theorem State.rd_showOpen (s : State) {f : Fld} (hf : f.addr 0 = 0x100) : s.showOpen.rd f = s.rd f :=
  congrArg f.ofWord (s.reg_showOpen (by omega) (by omega) (by omega))

theorem State.stewardState_congr (h : t.reg 0x410 = s.reg 0x410) (i : Nat) : t.stewardState i = s.stewardState i :=
  congrArg (fun w => bits (BitVec.toNat w) (8 * i) 2) h

/-- The FAILED islands of a chain are read above the Chief block (R503). -/
theorem State.failedFor_congr (h : ∀ a, 0x800 ≤ a → t.reg a = s.reg a) (m : Nat) (o : Option Nat) :
    t.failedFor m o = s.failedFor m o := by
  have hrd : ∀ (f : Fld) (i : Nat), f.aboveChief = true → t.rd f i = s.rd f i := fun f i hf =>
    congrArg f.ofWord (h _ (Fld.le_addr_of_aboveChief hf i))
  unfold State.failedFor State.chainNeeds State.flag
  simp only [hrd F.laneQuadStat_role _ rfl, hrd F.ridgeStat_state _ rfl, hrd F.testIsl_failed _ rfl]

/-- With every Steward running and no FAILED island of the Chief's own in the chain, an entry opens (R22, R503). -/
theorem State.openJoint_enter {m : Nat} (hrun : [0, 1, 2, 3].map s.stewardState = [0, 0, 0, 0])
    (hfail : s.failedFor m none = none) :
    s.openJoint (.enter m) = { s.showOpen with chief.joint := some { kind := .enter m } } := by
  have hst : ∀ i, s.showOpen.stewardState i = s.stewardState i :=
    State.stewardState_congr (s.reg_showOpen (by decide) (by decide) (by decide))
  have hff : s.showOpen.failedFor m none = none := by
    rw [State.failedFor_congr (fun a ha => s.reg_showOpen (by omega) (by omega) (by omega)), hfail]
  simp only [List.map_cons, List.map_nil, List.cons.injEq, and_true] at hrun
  obtain ⟨h0, h1, h2, h3⟩ := hrun
  unfold State.openJoint
  extract_lets -lift +onlyGivenNames s1 s2 u absent
  have hu : u = s.showOpen := rfl
  have habsent : absent = 0 := by
    simp [absent, hu, hst, h0, h1, h2, h3]
  rw [habsent, if_neg (by decide)]
  extract_lets -lift +onlyGivenNames bad
  have hbad : bad = none := hff
  rw [hbad]
  exact congrArg (fun x : State => { x with chief.joint := some { kind := .enter m } }) hu

/-! ### Answers -/

/-- A READY is counted; the fourth commits (R22). -/
theorem execStewardAnswer_ready {i : Fin 4} {j : Joint} (hj : s.chief.joint = some j) (hc : j.committed = false)
    (hi : i.val ∉ j.ready) (hst : s.stewardState i = 0) (hr : ∀ m, j.kind = .enter m → s.entryRefusal m i = none) :
    execStewardAnswer i none s = .next
      (if j.ready.length < 3 then { s with chief.joint := some { j with ready := j.ready ++ [i.val] } }
       else ({ s with chief.joint := some { j with ready := j.ready ++ [i.val] } } : State).commitJoint
        { j with ready := j.ready ++ [i.val] }) := by
  have hopen : (j.committed || j.ready.contains i.val || s.stewardState i != 0) = false := by simp [hc, hi, hst]
  unfold execStewardAnswer
  simp only [hj, hopen, Bool.false_eq_true, if_false, List.length_append, List.length_singleton,
    show j.ready.length + 1 < 4 ↔ j.ready.length < 3 by omega, ← apply_ite]
  cases hk : j.kind with
  | enter m => simp only [hr m hk]
  | leaveInspect | leaveExpose | load => rfl

/-! ### Abort -/

/-- The Chief as the open change of a SET_MODE is aborted (R22). -/
def State.showAbort (s : State) (refused : Nat) : State :=
  ((({ (s.wr F.chiefJointStat_state 0 4).wr F.chiefJointStat_refused 0 refused with
    chief.joint := none, chief.trans := none } : State).down F.chiefMode_transition).wr F.chiefMode_target 0 0).down
    F.chiefMode_stopNow

theorem State.abortJoint_of_setMode {r : Trans} {refused st info : Nat} (hload : s.cfg.load = none)
    (htrans : s.chief.trans = some r) (hop : r.opcode = 1) :
    s.abortJoint refused st info = (s.showAbort refused).finish r.cmd 1 st info := by
  unfold State.abortJoint
  simp only [State.wr_cfg, State.wr_chief, hload, htrans, hop]
  rfl

theorem State.showAbort_chief (s : State) (refused : Nat) :
    (s.showAbort refused).chief = { s.chief with joint := none, trans := none } := rfl

theorem State.rd_showAbort_state (s : State) (refused : Nat) : (s.showAbort refused).rd F.chiefJointStat_state = 4 := by
  unfold State.showAbort State.down
  simp (disch := decide) [State.rd_wr_apart, State.rd_wr_self]
  rfl

/-! ### Application -/

/-- An entry applied leaves no joint change open, and its run mode acts (R46). -/
theorem State.applyJoint_enter {j : Joint} {m : Nat} (hk : j.kind = .enter m) :
    (s.applyJoint j).chief.joint = none ∧ (s.applyJoint j).chief.path = m := by
  unfold State.applyJoint
  simp only [hk]
  rw [(State.runBegin_keepsChief _ m).chief]
  exact ⟨rfl, rfl⟩

/-- An entry committed at rest takes effect at once (R46). -/
theorem State.commitJoint_enter_still {j : Joint} {m : Nat} (hk : j.kind = .enter m) (hv : s.reel.v = 0) :
    (s.commitJoint j).chief.joint = none ∧ (s.commitJoint j).chief.path = m := by
  have hcommit : s.commitJoint j = (s.wr F.chiefJointStat_state 0 2).applyJoint j := by
    unfold State.commitJoint
    simp [hk, hv]
  rw [hcommit]
  exact State.applyJoint_enter hk

end Sys2Proof.Machine
end

section
/-! SUPPORT. The commands that change the mode (R24, R44 to R50, R64), and the clauses of O36. -/

namespace Sys2Proof.Machine

variable {s : State} {c : CmdRef}

/-! ### SET_MODE begins (R44, R45) -/

theorem execSetMode_of_idle {m : BitVec 8} {now : Bool} (hs : s.serves c = true) (hc : s.changing = false)
    (hw : s.chief.waiting = []) : execSetMode c m now s = .next (s.setModeStart c m.toNat now) := by
  unfold execSetMode
  rw [State.command_of_serves hs, State.queueChange_of_idle hc hw]
  rfl

/-- The state as a SET_MODE of run mode `m` is taken (R45). -/
def State.entryTaken (s : State) (c : CmdRef) (m : Nat) : State :=
  (s.takeCmd c).showTrans { cmd := c, opcode := 1, newMode := m } m

theorem State.reg_entryTaken (s : State) (c : CmdRef) (m : Nat) {a : Nat} (ha : a ≠ 0x100) :
    (s.entryTaken c m).reg a = s.reg a := State.reg_showTrans (s.takeCmd c) _ m ha

theorem State.setModeStart_of_entry {m : Nat} {now : Bool} (hmode : s.mode = Md.configure)
    (hm : m = Md.inspect ∨ m = Md.expose) (himg : s.rd F.cfgStat_runMode = m) :
    s.setModeStart c m now = (s.entryTaken c m).openJoint (.enter m) := by
  have hmode' : (s.takeCmd c).mode = s.mode := rfl
  have himg' : (s.takeCmd c).rd F.cfgStat_runMode = s.rd F.cfgStat_runMode := rfl
  have hrun : (m == Md.inspect || m == Md.expose) = true := by simpa using hm
  unfold State.setModeStart State.entryTaken
  simp only [hmode', hmode, himg', himg, hrun, BEq.rfl, Bool.and_self, if_true]

/-- SET_MODE of the image's run mode opens the joint change of its entry (R44, R46). -/
theorem setMode_opens_entry (m : BitVec 8) (now : Bool) (hs : s.serves c = true) (hc : s.changing = false)
    (hw : s.chief.waiting = []) (hmode : s.mode = Md.configure) (hm : m.toNat = Md.inspect ∨ m.toNat = Md.expose)
    (himg : s.rd F.cfgStat_runMode = m.toNat) (hrun : [0, 1, 2, 3].map s.stewardState = [0, 0, 0, 0])
    (hfail : s.failedFor m.toNat none = none) : answers (.setMode c m now) s (fun t =>
      t.chief.joint = some { kind := .enter m.toNat } ∧ t.flag F.chiefMode_transition = true ∧
      t.rd F.chiefMode_target = m.toNat ∧ t.mode = Md.configure) := by
  have hsteward : (s.entryTaken c m.toNat).stewardState = s.stewardState :=
    funext (State.stewardState_congr (s.reg_entryTaken c m.toNat (by decide)))
  have hopen := State.openJoint_enter (s := s.entryTaken c m.toNat) (m := m.toNat) (by rw [hsteward, hrun])
    ((State.failedFor_congr (fun a ha => s.reg_entryTaken c m.toNat (by omega)) _ _).trans hfail)
  have hsmall : m.toNat < 2 ^ 3 := by rcases hm with hm | hm <;> rw [hm] <;> decide
  refine ⟨_, (execSetMode_of_idle hs hc hw).trans (congrArg _ ((State.setModeStart_of_entry hmode hm himg).trans hopen)),
    rfl, ?_, ?_, ?_⟩
  · rw [State.flag, State.rd_withChief, State.rd_showOpen _ rfl]
    exact State.flag_showTrans_transition _ _ _
  · rw [State.rd_withChief, State.rd_showOpen _ rfl]
    exact (State.rd_showTrans_target _ _ _).trans (Nat.mod_eq_of_lt hsmall)
  · rw [State.mode, State.rd_withChief, State.rd_showOpen _ rfl]
    exact (State.showTrans_mode _ _ _).trans hmode

/-- SET_MODE MAINTAIN in CONFIGURE begins, with no joint change to wait for (R44, R45; log 20, DESIGN CHOICE). -/
theorem setMode_begins_maintain (now : Bool) (hs : s.serves c = true) (hc : s.changing = false)
    (hw : s.chief.waiting = []) (hmode : s.mode = Md.configure) : answers (.setMode c 4 now) s (fun t =>
      t.chief.trans = some { cmd := c, opcode := 1, newMode := Md.maintain, applied := true } ∧
      t.flag F.chiefMode_transition = true) := by
  have hstart : s.setModeStart c 4 now =
      (s.takeCmd c).showTrans { cmd := c, opcode := 1, newMode := 4, applied := true } 4 := by
    have hmode' : (s.takeCmd c).mode = Md.configure := hmode
    unfold State.setModeStart
    simp [hmode', Md.configure, Md.maintain, Md.inspect, Md.expose]
  exact ⟨_, (execSetMode_of_idle hs hc hw).trans (congrArg _ hstart), rfl, State.flag_showTrans_transition _ _ _⟩

/-! ### Answers and timeouts of a joint change (R22, R46) -/

/-- A READY that is not the fourth is counted (R22). -/
theorem stewardAnswer_counts {i : Fin 4} {j : Joint} (hj : s.chief.joint = some j) (hc : j.committed = false)
    (hi : i.val ∉ j.ready) (hst : s.stewardState i = 0) (hk : j.kind = .load) (hn : j.ready.length < 3) :
    answers (.stewardAnswer i none) s (fun t => t.chief.joint = some { j with ready := j.ready ++ [i.val] }) := by
  refine ⟨_, execStewardAnswer_ready hj hc hi hst (fun m hm => ?_), ?_⟩
  · exact absurd (hk.symm.trans hm) (by simp)
  · rw [if_pos hn]

/-- The fourth READY commits an entry, which takes effect at rest (R22, R46). -/
theorem stewardAnswer_commits {i : Fin 4} {j : Joint} {m : Nat} (hj : s.chief.joint = some j)
    (hc : j.committed = false) (hi : i.val ∉ j.ready) (hst : s.stewardState i = 0) (hk : j.kind = .enter m)
    (hr : s.entryRefusal m i = none) (hn : j.ready.length = 3) (hv : s.reel.v = 0) :
    answers (.stewardAnswer i none) s (fun t => t.chief.joint = none ∧ t.chief.path = m) := by
  refine ⟨_, execStewardAnswer_ready hj hc hi hst (fun m' hm => ?_), ?_⟩
  · obtain rfl : m = m' := JointKind.enter.inj (hk.symm.trans hm)
    exact hr
  · rw [if_neg (by omega)]
    exact State.commitJoint_enter_still hk hv

/-- An answer missing at 1.0 ms aborts the change: the SET_MODE completes with TIMEOUT (R22). -/
theorem jointAnswerTimeout_aborts {j : Joint} {r : Trans} (hj : s.chief.joint = some j) (hc : j.committed = false)
    (hload : s.cfg.load = none) (htrans : s.chief.trans = some r) (hop : r.opcode = 1) (hs : s.serves r.cmd = true)
    (hw : s.chief.waiting = []) : answers .jointAnswerTimeout s (fun u => u.chief.joint = none ∧ u.chief.trans = none ∧
      u.rd F.chiefJointStat_state = 4 ∧ u.reported r.cmd 0x01 St.timeout = true) := by
  obtain ⟨-, hlate, -⟩ := State.serves_iff.1 hs
  let missing := ([0, 1, 2, 3].map (fun i => if j.ready.contains i then 0 else 2 ^ i)).sum
  have habort := State.abortJoint_of_setMode (refused := missing) (st := St.timeout) (info := 0) hload htrans hop
  have hchief : ((s.showAbort missing).finish r.cmd 1 St.timeout 0).chief = { s.chief with joint := none, trans := none } :=
    State.finish_chief.trans (s.showAbort_chief missing)
  refine ⟨(s.showAbort missing).finish r.cmd 1 St.timeout 0, ?_, by rw [hchief], by rw [hchief],
    (State.rd_finish (by decide)).trans (s.rd_showAbort_state _), State.reported_finish hlate⟩
  have hwait : ((s.showAbort missing).finish r.cmd 1 St.timeout 0).chief.waiting = [] := by rw [hchief]; exact hw
  rw [exec_jointAnswerTimeout]
  unfold execJointAnswerTimeout
  simp only [hj, hc, Bool.false_eq_true, if_false]
  exact congrArg _ ((congrArg State.takeWaiting habort).trans (State.takeWaiting_of_nil hwait))

/-- 100 ms after COMMIT an entry is applied as if its target line had been passed (R46). -/
theorem jointTargetTimeout_applies {j : Joint} {l : Int} {m : Nat} (hj : s.chief.joint = some j)
    (ht : j.target = some l) (hk : j.kind = .enter m) :
    answers .jointTargetTimeout s (fun t => t.chief.joint = none ∧ t.chief.path = m) := by
  refine ⟨s.applyJoint j, ?_, State.applyJoint_enter hk⟩
  rw [exec_jointTargetTimeout]
  unfold execJointTargetTimeout
  simp [hj, ht, hk]

/-! ### MODE changes (R45, R49) -/

/-- The transition of a SET_MODE ends with no other command waiting. -/
theorem State.transDone_takeWaiting {t : Trans} (hop : t.opcode = 1) (hw : s.chief.waiting = []) :
    (s.transDone t).takeWaiting = s.transDone t :=
  State.takeWaiting_of_nil (by rw [State.transDone_chief hop]; exact hw)

/-- MODE changes as the last agent reports the change applied (R45); between CONFIGURE and MAINTAIN that report ends the
transition without a joint change (log 20, DESIGN CHOICE). -/
theorem agentApplied_changes_mode {t : Trans} (hj : s.chief.joint = none) (ht : s.chief.trans = some t)
    (happ : t.applied = true) (hop : t.opcode = 1) (hm : t.newMode < 5)
    (hmode : s.mode = Md.configure ∨ s.mode = Md.maintain) (hs : s.serves t.cmd = true) (hw : s.chief.waiting = []) :
    answers .agentApplied s (fun u => u.mode = t.newMode ∧ u.chief.trans = none ∧ u.flag F.chiefMode_transition = false ∧
      u.rd F.chiefTransStat_from = s.mode ∧ u.reported t.cmd 0x01 St.done = true) := by
  obtain ⟨-, hlate, -⟩ := State.serves_iff.1 hs
  refine ⟨s.transDone t, ?_, State.transDone_mode hop (by omega), by rw [State.transDone_chief hop],
    State.flag_transDone_transition hop, State.rd_transDone_from hop, State.reported_transDone hop hlate⟩
  have hsettle : s.exposeSettle = s := by simp only [State.exposeSettle, hj]
  have hpark : t.newMode ≠ Md.park := Nat.ne_of_lt hm
  rw [exec_agentApplied]
  unfold execAgentApplied
  rcases hmode with hmode | hmode <;>
    simp [hsettle, ht, happ, hpark, hmode, Md.configure, Md.maintain, Md.inspect, Md.expose,
      State.transDone_takeWaiting hop hw]

/-- What `draining` says of the exit from INSPECT. -/
theorem State.newMode_of_draining {t : Trans} (h : s.draining = some t) : t.newMode = Md.configure := by
  unfold State.draining at h
  split at h
  · have := Option.filter_eq_some_iff.1 h
    simp_all
  · cases h

/-- The exit from INSPECT ends with its drain (R49). -/
theorem modeDrainDone_ends_exit {t : Trans} (hd : s.draining = some t) (he : s.pathEmpty = true) (hop : t.opcode = 1)
    (hs : s.serves t.cmd = true) (hw : s.chief.waiting = []) : answers .modeDrainDone s (fun u =>
      u.mode = Md.configure ∧ u.chief.trans = none ∧ u.flag F.chiefTransStat_cut = false ∧
      u.reported t.cmd 0x01 St.done = true) := by
  obtain ⟨-, hlate, -⟩ := State.serves_iff.1 hs
  have hpath := s.pathEnd_keepsChief
  have hnew := State.newMode_of_draining hd
  have hwait : s.pathEnd.chief.waiting = [] := by rw [hpath.chief]; exact hw
  refine ⟨s.pathEnd.transDone t, ?_, ?_, by rw [State.transDone_chief hop], State.flag_transDone_cut hop,
    State.reported_transDone hop (by rw [hpath.host]; exact hlate)⟩
  · rw [exec_modeDrainDone]
    unfold execModeDrainDone
    simp only [hd, he, if_true, State.transDone_takeWaiting hop hwait]
  · rw [State.transDone_mode hop (by rw [hnew]; decide), hnew]

/-- The state as the drain is cut: the lines held are counted and logged, the path empty (R49). -/
def State.cutPath (s : State) : State :=
  ((s.count F.chiefTransStat_drainLost 0 s.linesHeld).log Ev.drainCut 0x00 0 [s.linesHeld]).discardRun.pathEnd

theorem State.cutPath_chief (s : State) : s.cutPath.chief = { s.chief with path := 0, complete := none } := by
  have hlog := ((KeepsChief.refl (s.count F.chiefTransStat_drainLost 0 s.linesHeld)).log Ev.drainCut 0x00 0
    [s.linesHeld]).discardRun.chief
  rw [State.count_chief] at hlog
  unfold State.cutPath
  rw [(State.pathEnd_keepsChief _).chief, hlog]

/-- The exit from INSPECT ends 100 ms after it was applied, with CUT where its drain had not ended (R49). -/
theorem drainCut_cuts_exit {t : Trans} (hd : s.draining = some t) (he : s.pathEmpty = false) (hop : t.opcode = 1)
    (hw : s.chief.waiting = []) : answers .drainCut s (fun u => u.mode = Md.configure ∧ u.chief.trans = none ∧
      u.flag F.chiefTransStat_cut = true) := by
  have hnew := State.newMode_of_draining hd
  have hchief : ((s.cutPath.transDone t).up F.chiefTransStat_cut).chief =
      { s.chief with path := 0, complete := none, trans := none } := by
    rw [State.up_chief, State.transDone_chief hop, State.cutPath_chief]
  refine ⟨(s.cutPath.transDone t).up F.chiefTransStat_cut, ?_, ?_, by rw [hchief],
    State.flag_up_self (by decide) (by decide)⟩
  · rw [exec_drainCut, ← State.takeWaiting_of_nil (s := (s.cutPath.transDone t).up F.chiefTransStat_cut)
      (by rw [hchief]; exact hw)]
    unfold execDrainCut State.cutPath
    simp only [hd, he, Bool.false_eq_true, if_false]
  · exact (State.rd_wr_far_00 (by decide)).trans ((State.transDone_mode hop (by rw [hnew]; decide)).trans hnew)

/-! ### PARK (R64, R522) -/

/-- The state as PARK takes the lock (R64, R522). -/
def State.parkTaken (s : State) (c : CmdRef) : State :=
  ((((s.takeCmd c).takeLock parkHolder).wr F.chiefParkStat_result 0 0).down F.chiefParkStat_tokenWritten).down
    F.chiefParkStat_flashErr

theorem State.parkTaken_mode (s : State) (c : CmdRef) : (s.parkTaken c).mode = s.mode := by
  unfold State.parkTaken State.takeLock State.mode State.down State.up
  simp (disch := decide) [State.rd_wr_far_00]
  rfl

/-- PARK in CONFIGURE or MAINTAIN goes on to its second step at once, with no joint change (R64; log 20, DESIGN CHOICE). -/
theorem State.parkStart_of_free (hmode : s.mode = Md.configure ∨ s.mode = Md.maintain) (hl : s.lockHolder = none) :
    s.parkStart c = (s.parkTaken c).parkOn c := by
  have hmode' : (s.takeCmd c).mode = s.mode := rfl
  have hlock : (s.takeCmd c).lockHolder = none := hl
  have hrun : (s.parkTaken c).runMode = false := by
    unfold State.runMode
    rw [State.parkTaken_mode]
    rcases hmode with hmode | hmode <;> rw [hmode] <;> rfl
  unfold State.parkTaken at hrun ⊢
  unfold State.parkStart
  rcases hmode with hmode | hmode <;> simp [hmode', hmode, hlock, hrun]

/-- What PARK shows as its second step begins leaves the lock alone. -/
theorem State.lockHolder_parkOn (s : State) (c : CmdRef) : (s.parkOn c).lockHolder = s.lockHolder := by
  unfold State.lockHolder State.flag State.parkOn State.parkStep State.showTrans State.up
  simp (disch := decide) [State.rd_wr_far_00]

theorem State.lockHolder_parkTaken (s : State) (c : CmdRef) : (s.parkTaken c).lockHolder = some parkHolder := by
  unfold State.lockHolder State.flag State.parkTaken State.takeLock State.down State.up
  simp (disch := decide) [State.rd_wr_far_00, State.rd_wr_self]
  decide

theorem State.rd_parkOn_step (s : State) (c : CmdRef) : (s.parkOn c).rd F.chiefParkStat_step = 2 := by
  unfold State.parkOn State.parkStep
  rw [State.rd_wr_self _ _ _ _ (by decide)]
  rfl

/-- PARK begins its second step, and holds the lock (R64, R522; log 20). -/
theorem park_begins_second_step (hs : s.serves c = true) (hc : s.changing = false) (hw : s.chief.waiting = [])
    (hmode : s.mode = Md.configure ∨ s.mode = Md.maintain) (hl : s.lockHolder = none) : answers (.park c) s (fun t =>
      t.chief.trans = some { cmd := c, opcode := 2, newMode := Md.park, applied := true } ∧
      t.rd F.chiefParkStat_step = 2 ∧ t.lockHolder = some parkHolder) := by
  refine ⟨(s.parkTaken c).parkOn c, ?_, rfl, State.rd_parkOn_step _ _,
    (State.lockHolder_parkOn _ _).trans (s.lockHolder_parkTaken c)⟩
  rw [exec_park]
  unfold execPark
  rw [State.command_of_serves hs, State.queueChange_of_idle hc hw]
  exact congrArg _ (State.parkStart_of_free hmode hl)

/-- Settles O36: each clause is one command, carried through the beginning, the answers or the end of a transition.
That four Stewards answer, and that MAINTAIN and PARK begin with no joint change, is the model's choice (log 20). -/
theorem modeChanges : Obligations.ModeChanges :=
  ⟨fun _ _ m now => setMode_opens_entry m now, fun _ _ now => setMode_begins_maintain now,
    fun _ _ _ => stewardAnswer_counts, fun _ _ _ _ => stewardAnswer_commits, fun _ _ _ => jointAnswerTimeout_aborts,
    fun _ _ _ _ => jointTargetTimeout_applies, fun _ _ => agentApplied_changes_mode, fun _ _ => modeDrainDone_ends_exit,
    fun _ _ => drainCut_cuts_exit, fun _ _ => park_begins_second_step⟩

end Sys2Proof.Machine
end

section
/-! SUPPORT. What State.reset holds (R55, R58, R131, R133, R158; log 2, DESIGN CHOICE): time 0 of a start-up, with no
register listed, so that each reads its Reset column. -/

namespace Sys2Proof.Machine

theorem reset_starts : State.reset.mode = Md.starting ∧ State.reset.rd F.chiefMode_phase = 1 ∧
    State.reset.flag F.chiefMode_ready = false := by decide +kernel

theorem reset_counts_from_zero : State.reset.counter = 0 ∧
    State.reset.rd64 F.timeIncLo_inc F.timeIncHi_inc = 4 * 2 ^ 32 := by decide +kernel

theorem reset_reel_steps : State.reset.flag F.reelStat_step = true ∧ State.reset.flag F.reelTrackCtl_forward = true ∧
    State.reset.rd F.reelTrackCtl_bw = 4 ∧
    State.reset.rdI64 F.reelRatioLo_ratio F.reelRatioHi_ratio = 65536 * 2 ^ 32 := by decide +kernel

theorem reset_part : State.reset.rd F.idPart_part = 0x4896 := by decide +kernel

theorem reset_lanes_off : ∀ n : Fin 64, State.reset.laneState n = Ls.off := by decide +kernel

theorem reset_rings_off : ∀ k : Fin 6, State.reset.flag F.ringCtl_en k = false := by decide +kernel

/-- Settles O45: each field is read off the Reset columns. That State.reset is time 0 of a start-up, and that retained,
sampled and fuse fields read 0 there, is the model's choice (log 2). -/
theorem resetLeaves : Obligations.ResetLeaves := by
  obtain ⟨hmode, hphase, hready⟩ := reset_starts
  obtain ⟨hcounter, hinc⟩ := reset_counts_from_zero
  obtain ⟨hstep, hforward, hbw, hratio⟩ := reset_reel_steps
  exact ⟨rfl, rfl, hmode, hphase, hready, hcounter, hinc, hstep, hforward, hbw, hratio, reset_part, reset_lanes_off,
    reset_rings_off, fun _ => rfl⟩

end Sys2Proof.Machine
end

section
/-! SUPPORT. What a reset clears and keeps (R52 to R56), and what the pins do (R53, R554); the clauses of O38. The contents
of HBM that a reset loses read as never written (log 3 and 23, DESIGN CHOICE). -/

namespace Sys2Proof.Machine

/-! ### Writes of registers -/

/-- `t` differs from `s` in its registers alone. -/
def OnlyRegs (s t : State) : Prop := ∃ r, t = { s with regs := r }

namespace OnlyRegs

variable {s t : State}

theorem refl (s : State) : OnlyRegs s s := ⟨_, rfl⟩

theorem wr (h : OnlyRegs s t) (f : Fld) (i v : Nat) : OnlyRegs s (t.wr f i v) := by
  obtain ⟨r, rfl⟩ := h
  exact ⟨_, rfl⟩

theorem setReg (h : OnlyRegs s t) (a : Nat) (w : Word) : OnlyRegs s (t.setReg a w) := by
  obtain ⟨r, rfl⟩ := h
  exact ⟨_, rfl⟩

theorem hbm (h : OnlyRegs s t) : t.hbm = s.hbm := by
  obtain ⟨r, rfl⟩ := h
  rfl

theorem flash (h : OnlyRegs s t) : t.flash = s.flash := by
  obtain ⟨r, rfl⟩ := h
  rfl

theorem keys (h : OnlyRegs s t) : t.keys = s.keys := by
  obtain ⟨r, rfl⟩ := h
  rfl

theorem fuses (h : OnlyRegs s t) : t.fuses = s.fuses := by
  obtain ⟨r, rfl⟩ := h
  rfl

theorem chief (h : OnlyRegs s t) : t.chief = s.chief := by
  obtain ⟨r, rfl⟩ := h
  rfl

theorem host (h : OnlyRegs s t) : t.host = s.host := by
  obtain ⟨r, rfl⟩ := h
  rfl

theorem logQueue (h : OnlyRegs s t) : t.logQueue = s.logQueue := by
  obtain ⟨r, rfl⟩ := h
  rfl

end OnlyRegs

/-! ### Clearing -/

/-- A filtered table reads as before where the filter keeps, and as unlisted elsewhere. -/
theorem Sparse.get_filter_key {α : Type} (d : Nat → α) (p : Nat → Bool) (m : Sparse α) (k : Nat) :
    Sparse.get d (m.filter (fun e => p e.1)) k = if p k then Sparse.get d m k else d k := by
  induction m with
  | nil => exact (ite_self _).symm
  | cons e m ih =>
    obtain ⟨j, v⟩ := e
    by_cases hj : j = k
    · subst hj
      by_cases hp : p j <;> simp [hp, ih, Sparse.get]
    · by_cases hp : p j <;> simp [hp, ih, Sparse.get, hj]

/-- A register that a reset does not keep reads its reset value (R55). -/
theorem State.reg_cleared {s : State} {kept : Nat → Bool} {log : Bool} {a : Nat} (h : kept a = false) :
    (s.cleared kept log).reg a = resetWord a :=
  (Sparse.get_filter_key resetWord kept s.regs a).trans (if_neg (by simp [h]))

/-! ### A restart -/

/-- The Chief of a restarted device: the power domains and the pins are not the reset's, and the reset is held. -/
def Chief.restarted (c : Chief) : Chief :=
  { power := c.power, tristate := c.tristate, rose := c.rose, inReset := true }

/-- A power-on reset keeps no register (R55). -/
theorem State.restart_por (s : State) :
    s.restart Rc.por = (s.cleared (fun _ => false) false).wr F.chiefResetCause_last 0 Rc.por := rfl

/-- CHIEF_BOOT as it was before a reset that is no power-on: latched pins and retained fields (R55). -/
def State.keepBoot (t s : State) : State :=
  ((t.wr F.chiefBoot_bootSel 0 (s.rd F.chiefBoot_bootSel)).wr F.chiefBoot_bootFails 0 (s.rd F.chiefBoot_bootFails)).wr
    F.chiefBoot_unparkedRun 0 (s.rd F.chiefBoot_unparkedRun)

/-- RESETS after a reset: a second cause while one is held is not counted (R554). -/
def State.resetsAfter (s : State) : Nat :=
  if s.chief.inReset then s.rd F.chiefResetCause_resets else satAdd 16 (s.rd F.chiefResetCause_resets) 1

/-- Every other reset keeps the event log and CHIEF_BOOT, and counts itself (R55, R554). -/
theorem State.restart_of_ne_por (s : State) {cause : Nat} (h : cause ≠ Rc.por) : s.restart cause =
    (State.keepBoot ((s.cleared keptByReset true).wr F.chiefResetCause_last 0 cause) s).wr F.chiefResetCause_resets 0
      s.resetsAfter := by
  have hpor : (cause == Rc.por) = false := by simpa using h
  unfold State.restart
  simp only [hpor, Bool.not_false, Bool.true_and, Bool.false_eq_true, if_false]
  rfl

section
variable (s : State) (cause : Nat)

/-- Beyond the registers a restart is a clearing (R55). -/
theorem State.restart_onlyRegs : ∃ kept log, OnlyRegs (s.cleared kept log) (s.restart cause) := by
  by_cases h : cause = Rc.por
  · rw [h, State.restart_por]
    exact ⟨_, _, (OnlyRegs.refl _).wr _ _ _⟩
  · rw [State.restart_of_ne_por s h]
    exact ⟨_, _, ((((OnlyRegs.refl _).wr _ _ _).wr _ _ _).wr _ _ _).wr _ _ _ |>.wr _ _ _⟩

theorem State.restart_chief : (s.restart cause).chief = s.chief.restarted := by
  obtain ⟨kept, log, h⟩ := s.restart_onlyRegs cause
  exact h.chief

theorem State.restart_hbm : (s.restart cause).hbm = [] := by
  obtain ⟨kept, log, h⟩ := s.restart_onlyRegs cause
  exact h.hbm

theorem State.restart_keys : (s.restart cause).keys = [] := by
  obtain ⟨kept, log, h⟩ := s.restart_onlyRegs cause
  exact h.keys

theorem State.restart_flash : (s.restart cause).flash = s.flash := by
  obtain ⟨kept, log, h⟩ := s.restart_onlyRegs cause
  exact h.flash

theorem State.restart_fuses : (s.restart cause).fuses = s.fuses := by
  obtain ⟨kept, log, h⟩ := s.restart_onlyRegs cause
  exact h.fuses

end

section
variable {s : State} {cause : Nat} (h : cause ≠ Rc.por)
include h

theorem State.rd_restart_last : (s.restart cause).rd F.chiefResetCause_last = cause % 2 ^ 3 := by
  rw [State.restart_of_ne_por s h]
  unfold State.keepBoot
  simp (disch := decide) [State.rd_wr_apart, State.rd_wr_far_00, State.rd_wr_self]
  rfl

theorem State.rd_restart_bootSel : (s.restart cause).rd F.chiefBoot_bootSel = s.rd F.chiefBoot_bootSel := by
  rw [State.restart_of_ne_por s h]
  unfold State.keepBoot
  simp (disch := decide) [State.rd_wr_apart, State.rd_wr_self]
  exact Nat.mod_eq_of_lt (State.rd_lt s F.chiefBoot_bootSel 0)

theorem State.rd_restart_bootFails : (s.restart cause).rd F.chiefBoot_bootFails = s.rd F.chiefBoot_bootFails := by
  rw [State.restart_of_ne_por s h]
  unfold State.keepBoot
  simp (disch := decide) [State.rd_wr_apart, State.rd_wr_self]
  exact Nat.mod_eq_of_lt (State.rd_lt s F.chiefBoot_bootFails 0)

theorem State.rd_restart_resets : (s.restart cause).rd F.chiefResetCause_resets = s.resetsAfter := by
  rw [State.restart_of_ne_por s h, State.rd_wr_self _ _ _ _ (by decide)]
  refine Nat.mod_eq_of_lt ?_
  unfold State.resetsAfter
  split
  · exact State.rd_lt s F.chiefResetCause_resets 0
  · exact satAdd_lt 16 _ 1 (by decide)

/-- A restarted device is in STARTING (R58). -/
theorem State.restart_mode : (s.restart cause).mode = Md.starting := by
  have hmode : (s.cleared keptByReset true).rd F.chiefMode_mode = F.chiefMode_mode.ofWord (resetWord 0x100) :=
    congrArg F.chiefMode_mode.ofWord (State.reg_cleared (by decide))
  rw [State.restart_of_ne_por s h]
  unfold State.keepBoot State.mode
  simp (disch := decide) [State.rd_wr_far_00]
  exact hmode.trans (by decide +kernel)

end

/-! ### Time 0 of a start-up -/

section
variable (s : State)

/-- Time 0 ends the reset and drives the pins (R56, R58). -/
def Chief.begun (c : Chief) (now : Nat) : Chief :=
  { c with inReset := false, tristate := false, rose := none, riseAt := now }

/-- Beyond the Chief, time 0 changes registers alone (R56, R58). -/
theorem State.begin_onlyRegs : OnlyRegs { s with chief := s.chief.begun s.clock } s.begin := by
  unfold State.begin
  dsimp only
  split
  · exact (((OnlyRegs.refl { s with chief := s.chief.begun s.clock }).wr _ _ _).wr _ _ _).wr _ _ _
  · exact OnlyRegs.refl _

/-- Time 0 writes CHIEF_MODE and START_KIND only (R56). -/
theorem State.rd_begin {f : Fld} (hmode : f.addr 0 ≠ 0x100)
    (hkind : f.addr 0 = 0x104 → F.chiefBoot_startKind.apart f) : s.begin.rd f = s.rd f := by
  have hrd : ∀ t : State, (t.wr F.chiefBoot_startKind 0 3).rd f = t.rd f := by
    intro t
    by_cases h : f.addr 0 = 0x104
    · exact State.rd_wr_apart _ _ _ _ _ _ (by decide) (hkind h)
    · exact State.rd_wr_ne _ _ _ _ _ _ h
  unfold State.begin
  dsimp only
  split
  · rw [hrd, State.rd_wr_ne _ F.chiefMode_phase _ _ _ _ hmode, State.rd_wr_ne _ F.chiefMode_mode _ _ _ _ hmode]
    rfl
  · rfl

/-- BOOT_SEL = 11 holds the device for its test (R56). -/
theorem State.begin_mode : s.begin.mode = if s.rd F.chiefBoot_bootSel = 3 then Md.testHold else s.mode := by
  have hrd : ∀ x : Chief, ({ s with chief := x } : State).rd F.chiefBoot_bootSel = s.rd F.chiefBoot_bootSel :=
    fun _ => rfl
  unfold State.begin
  simp only [hrd, beq_iff_eq]
  split
  · unfold State.mode
    simp (disch := decide) [State.rd_wr_apart, State.rd_wr_far_00, State.rd_wr_self]
    rfl
  · rfl

end

/-! ### Pins -/

/-- `t` differs from `s` in what it has sent out alone. -/
def OnlyOut (s t : State) : Prop := ∃ o, t = { s with out := o }

namespace OnlyOut

variable {s t : State}

theorem refl (s : State) : OnlyOut s s := ⟨_, rfl⟩

theorem emit (h : OnlyOut s t) (o : Output) : OnlyOut s (t.emit o) := by
  obtain ⟨x, rfl⟩ := h
  unfold State.emit
  split
  · exact ⟨x, rfl⟩
  · exact ⟨_, rfl⟩

theorem ite {u : State} {c : Prop} [Decidable c] (ht : OnlyOut s t) (hu : OnlyOut s u) :
    OnlyOut s (if c then t else u) := by
  split
  · exact ht
  · exact hu

theorem forN {n : Nat} {f : Nat → State → State} (h : OnlyOut s t) (hf : ∀ k u, OnlyOut s u → OnlyOut s (f k u)) :
    OnlyOut s (Machine.forN n f t) := by
  unfold Machine.forN
  induction List.range n generalizing t with
  | nil => exact h
  | cons k l ih => exact ih (hf k t h)

theorem ppsDrive (h : OnlyOut s t) (high : Bool) : OnlyOut s (t.ppsDrive high) := .ite (h.emit _) h

theorem driveAlert (h : OnlyOut s t) : OnlyOut s t.driveAlert := .ite (h.emit _) h

end OnlyOut

section
variable (s : State)

/-- The outputs that go to high impedance (R53, R554). -/
def State.releasePins (s : State) : State :=
  ((forN 32 (fun i s => if 0x02 ≤ (s.evioFn i).func then s.emit (.evio i none) else s) s).emit (.pps none)).emit
    (.alertN false)

theorem State.releasePins_onlyOut : OnlyOut s s.releasePins :=
  (((OnlyOut.refl s).forN (fun _ _ h => .ite (h.emit _) h)).emit _).emit _

/-- The release of the pins (R53, R554). -/
theorem State.release_eq : ∃ o, s.release = { s with out := o, chief := { s.chief with tristate := true } } := by
  have hrelease : s.release = if s.chief.tristate then s else { s.releasePins with chief.tristate := true } := by
    simp only [State.release, State.releasePins]
  rw [hrelease]
  split
  · next h =>
    have hchief : { s.chief with tristate := true } = s.chief := by rw [← h]
    exact ⟨s.out, congrArg (fun x : Chief => { s with chief := x }) hchief.symm⟩
  · obtain ⟨o, ho⟩ := s.releasePins_onlyOut
    rw [ho]
    exact ⟨o, rfl⟩

/-- The pins driven again (R53). -/
theorem State.drive_eq : ∃ o, s.drive = { s with out := o, chief := { s.chief with tristate := false } } := by
  have hdrive : OnlyOut { s with chief := { s.chief with tristate := false } } s.drive := by
    unfold State.drive
    dsimp only
    refine OnlyOut.driveAlert ?_
    split <;> exact .ppsDrive (.forN (.refl _) (fun _ _ h => .ite (h.emit _) (.ite (h.emit _) h))) _
  exact hdrive

end

/-! ### A reset that is ordered (R52, R54) -/

section
variable {s : State} {c : CmdRef} {cause : Nat}

/-- RESET_DEVICE orders a device reset (R52). -/
theorem resetDevice_orders (hs : s.serves c = true) :
    answers (.resetDevice c) s (fun t => t.chief.resetOrdered = true) := by
  refine ⟨(s.takeCmd c).orderReset, ?_, rfl⟩
  rw [exec_resetDevice, execResetDevice, State.command_of_serves hs]

theorem State.rd_softReset_last (h : cause ≠ Rc.por) :
    (s.softReset cause).rd F.chiefResetCause_last = cause % 2 ^ 3 :=
  (State.rd_begin _ (by decide) (by decide)).trans (State.rd_restart_last h)

theorem State.rd_softReset_bootFails (h : cause ≠ Rc.por) :
    (s.softReset cause).rd F.chiefBoot_bootFails = s.rd F.chiefBoot_bootFails :=
  (State.rd_begin _ (by decide) (by decide)).trans (State.rd_restart_bootFails h)

theorem State.rd_softReset_resets (h : cause ≠ Rc.por) :
    (s.softReset cause).rd F.chiefResetCause_resets = s.resetsAfter :=
  (State.rd_begin _ (by decide) (by decide)).trans (State.rd_restart_resets h)

theorem State.softReset_mode (h : cause ≠ Rc.por) :
    (s.softReset cause).mode = if s.rd F.chiefBoot_bootSel = 3 then Md.testHold else Md.starting := by
  unfold State.softReset
  rw [State.begin_mode, State.rd_restart_bootSel h, State.restart_mode h]

/-- What a device or watchdog reset does to the stores and to the order it carries out (R55; log 3 and 23). -/
theorem State.softReset_stores (s : State) (cause : Nat) :
    (s.softReset cause).hbm = [] ∧ (s.softReset cause).flash = s.flash ∧ (s.softReset cause).fuses = s.fuses ∧
      (s.softReset cause).keys = [] ∧ (s.softReset cause).chief.resetOrdered = false := by
  have hbegin := (s.restart cause).begin_onlyRegs
  refine ⟨hbegin.hbm.trans (s.restart_hbm cause), hbegin.flash.trans (s.restart_flash cause),
    hbegin.fuses.trans (s.restart_fuses cause), hbegin.keys.trans (s.restart_keys cause), ?_⟩
  unfold State.softReset
  rw [hbegin.chief, State.restart_chief]
  rfl

/-- The device reset that was ordered (R52). -/
theorem deviceReset_resets (h : s.chief.resetOrdered = true) : answers .deviceReset s (fun t =>
    t.rd F.chiefResetCause_last = Rc.device ∧ t.chief.resetOrdered = false ∧ t.hbm = [] ∧ t.flash = s.flash ∧
    t.fuses = s.fuses ∧ t.keys = [] ∧ t.mode = (if s.rd F.chiefBoot_bootSel = 3 then Md.testHold else Md.starting)) := by
  obtain ⟨hhbm, hflash, hfuses, hkeys, hordered⟩ := s.softReset_stores Rc.device
  refine ⟨s.softReset Rc.device, ?_, State.rd_softReset_last (by decide), hordered, hhbm, hflash, hfuses, hkeys,
    State.softReset_mode (by decide)⟩
  rw [exec_deviceReset, execDeviceReset, if_pos h]

/-- The watchdog's reset counts itself where none is held (R54, R554). -/
theorem watchdogReset_resets (h : s.chief.inReset = false) : answers .watchdogReset s (fun t =>
    t.rd F.chiefResetCause_last = Rc.watchdog ∧
    t.rd F.chiefResetCause_resets = satAdd 16 (s.rd F.chiefResetCause_resets) 1 ∧ t.hbm = [] ∧ t.flash = s.flash) := by
  obtain ⟨hhbm, hflash, -, -, -⟩ := s.softReset_stores Rc.watchdog
  refine ⟨s.softReset Rc.watchdog, ?_, State.rd_softReset_last (by decide), ?_, hhbm, hflash⟩
  · rw [exec_watchdogReset, execWatchdogReset, if_neg (by simp [h])]
  · rw [State.rd_softReset_resets (by decide), State.resetsAfter, if_neg (by simp [h])]

/-! ### Pin resets (R53, R56) -/

theorem State.release_tristate (s : State) : s.release.chief.tristate = true := by
  obtain ⟨o, ho⟩ := s.release_eq
  rw [ho]

theorem State.release_flash (s : State) : s.release.flash = s.flash := by
  obtain ⟨o, ho⟩ := s.release_eq
  rw [ho]

/-- RESET_N low releases the pins at once (R53). -/
theorem resetNFall_releases (s : State) : answers .resetNFall s (fun t => t.chief.tristate = true) :=
  ⟨s.release, rfl, s.release_tristate⟩

/-- The pin reset is held, with the pins released (R53). -/
theorem pinReset_holds (s : State) : answers .pinReset s (fun t => t.rd F.chiefResetCause_last = Rc.pin ∧
    t.chief.tristate = true ∧ t.chief.inReset = true ∧ t.hbm = [] ∧ t.flash = s.flash) := by
  have hchief := s.release.restart_chief Rc.pin
  refine ⟨s.release.restart Rc.pin, rfl, State.rd_restart_last (by decide), ?_, ?_, State.restart_hbm _ _,
    (State.restart_flash _ _).trans s.release_flash⟩
  · rw [hchief]
    exact s.release_tristate
  · rw [hchief]
    rfl

/-- RESET_N high ends a reset that is held: BOOT_SEL is latched, and start-up begins (R53, R56, R58). -/
theorem resetNRise_begins (b : BitVec 2) (hreset : s.chief.inReset = true) (hpower : s.chief.power = 2) :
    answers (.resetNRise b) s (fun t => t.rd F.chiefBoot_bootSel = b.toNat ∧ t.chief.inReset = false ∧
      t.chief.tristate = false ∧ t.chief.riseAt = s.clock) := by
  have hchief := (s.wr F.chiefBoot_bootSel 0 b.toNat).begin_onlyRegs.chief
  refine ⟨(s.wr F.chiefBoot_bootSel 0 b.toNat).begin, ?_, ?_, by rw [hchief]; rfl, by rw [hchief]; rfl,
    by rw [hchief]; rfl⟩
  · rw [exec_resetNRise, execResetNRise]
    simp [hreset, hpower]
  · rw [State.rd_begin _ (by decide) (by decide), State.rd_wr_self _ _ _ _ (by decide)]
    exact Nat.mod_eq_of_lt b.isLt

theorem State.log_chief (code isl status : Nat) (args : List Nat) : (s.log code isl status args).chief = s.chief :=
  ((KeepsChief.refl s).log code isl status args).chief

theorem State.log_hbm (code isl status : Nat) (args : List Nat) : (s.log code isl status args).hbm = s.hbm :=
  (State.log_keeps (tw := {}) s code isl status args (.refl s)).sameHbm rfl

/-- RESET_N high with no reset held: the filter rejected the pulse, which is a glitch (R53). -/
theorem resetNRise_glitches (b : BitVec 2) (hreset : s.chief.inReset = false) (htri : s.chief.tristate = true) :
    answers (.resetNRise b) s (fun t => t.flag F.chiefResetCause_glitch = true ∧ t.chief.tristate = false ∧
      t.hbm = s.hbm) := by
  obtain ⟨o, ho⟩ := s.drive_eq
  refine ⟨(s.drive.up F.chiefResetCause_glitch).log Ev.resetGlitch 0x08 0 [], ?_, ?_, ?_, ?_⟩
  · rw [exec_resetNRise, execResetNRise]
    simp [hreset, htri]
  · rw [State.flag, State.rd_log _ _ (by decide)]
    exact State.flag_up_self (by decide) (by decide)
  · rw [State.log_chief, State.up_chief, ho]
  · rw [State.log_hbm, State.up_hbm, ho]

/-! ### Power (R55, R495, R552 to R554) -/

/-- The registers that show the fuses lie elsewhere than CHIEF_RESET_CAUSE (R495). -/
theorem State.rd_showFuses_cause (s : State) (i t : Bool) :
    (s.showFuses i t).rd F.chiefResetCause_last = s.rd F.chiefResetCause_last ∧
      (s.showFuses i t).rd F.chiefResetCause_resets = s.rd F.chiefResetCause_resets := by
  unfold State.showFuses
  simp (disch := decide) only [State.rd_wr_far_00, and_self]

theorem State.hbm_withChief (s : State) (x : Chief) : ({ s with chief := x } : State).hbm = s.hbm := rfl

theorem State.logQueue_withChief (s : State) (x : Chief) : ({ s with chief := x } : State).logQueue = s.logQueue := rfl

theorem State.showFuses_onlyRegs (s : State) (i t : Bool) : OnlyRegs s (s.showFuses i t) := by
  unfold State.showFuses
  dsimp only
  repeat refine OnlyRegs.wr ?_ _ _ _
  exact OnlyRegs.refl s

theorem State.flag_showFuses_fuseErr (s : State) (i t : Bool) : (s.showFuses i t).flag F.idFuse_fuseErr = !i := by
  unfold State.showFuses State.flag
  simp (disch := decide) [State.rd_wr_apart, State.rd_wr_far_00, State.rd_wr_self]
  cases i <;> rfl

theorem State.flag_showFuses_trimErr (s : State) (i t : Bool) : (s.showFuses i t).flag F.idFuse_trimErr = !t := by
  unfold State.showFuses State.flag
  simp (disch := decide) [State.rd_wr_apart, State.rd_wr_far_00, State.rd_wr_self]
  cases t <;> rfl

theorem State.rd_restart_por_last (s : State) : (s.restart Rc.por).rd F.chiefResetCause_last = Rc.por := by
  rw [State.restart_por, State.rd_wr_self _ _ _ _ (by decide)]
  rfl

/-- RESETS starts again at 0 (R55). -/
theorem State.rd_restart_por_resets (s : State) : (s.restart Rc.por).rd F.chiefResetCause_resets = 0 := by
  have hcleared : (s.cleared (fun _ => false) false).rd F.chiefResetCause_resets =
      F.chiefResetCause_resets.ofWord (resetWord 0x108) := congrArg F.chiefResetCause_resets.ofWord (State.reg_cleared rfl)
  rw [State.restart_por, State.rd_wr_apart _ _ _ _ _ _ (by decide) (by decide), hcleared]
  decide +kernel

/-- A power-on reset: the fuses are read anew, the retained fields and the event log are cleared (R55, R495, R496). -/
theorem powerOnReset_clears (s : State) (i t : Bool) : answers (.powerOnReset i t) s (fun u =>
    u.rd F.chiefResetCause_last = Rc.por ∧ u.rd F.chiefResetCause_resets = 0 ∧ u.chief.power = 1 ∧ u.hbm = [] ∧
    u.logQueue = [] ∧ u.flag F.idFuse_fuseErr = !i ∧ u.flag F.idFuse_trimErr = !t) := by
  obtain ⟨v, hv⟩ : ∃ v : State, v = { s with chief.tristate := true, chief.rose := none } := ⟨_, rfl⟩
  obtain ⟨hlast, hresets⟩ := (v.restart Rc.por).rd_showFuses_cause i t
  have hshow := (v.restart Rc.por).showFuses_onlyRegs i t
  refine ⟨{ (v.restart Rc.por).showFuses i t with chief.power := 1 }, ?_, ?_, ?_, rfl, ?_, ?_, ?_, ?_⟩
  · rw [hv]
    rfl
  · rw [State.rd_withChief, hlast, State.rd_restart_por_last]
  · rw [State.rd_withChief, hresets, State.rd_restart_por_resets]
  · rw [State.hbm_withChief, hshow.hbm, State.restart_hbm]
  · rw [State.logQueue_withChief, hshow.logQueue, State.restart_por]
    rfl
  · rw [State.flag, State.rd_withChief]
    exact State.flag_showFuses_fuseErr _ i t
  · rw [State.flag, State.rd_withChief]
    exact State.flag_showFuses_trimErr _ i t

theorem standbyOff_releases (s : State) :
    answers .standbyOff s (fun t => t.chief.power = 0 ∧ t.chief.tristate = true) := by
  refine ⟨_, rfl, rfl, ?_⟩
  simp only [State.restart_chief]
  exact s.release_tristate

/-- The main domain comes up from the standby domain (R553). -/
theorem mainPowerUp_rises (hpower : s.chief.power = 1) (hrose : s.chief.rose = none) :
    answers .mainPowerUp s (fun t => t.chief.power = 2) := by
  refine ⟨{ s with chief.power := 2 }, ?_, rfl⟩
  rw [exec_mainPowerUp, execMainPowerUp]
  simp [hpower, hrose]

/-- During a discharge the main domain waits for its end (R554). -/
theorem mainPowerUp_waits (hpower : s.chief.power = 3) :
    answers .mainPowerUp s (fun t => t.chief.power = 4) := by
  refine ⟨{ s with chief.power := 4 }, ?_, rfl⟩
  rw [exec_mainPowerUp, execMainPowerUp]
  simp [hpower]

/-- The loss of the main supply is a pin reset, and its rails discharge (R554). -/
theorem mainPowerDown_discharges (hpower : s.chief.power = 2) : answers .mainPowerDown s (fun t => t.chief.power = 3 ∧
    t.chief.tristate = true ∧ t.rd F.chiefResetCause_last = Rc.pin ∧ t.hbm = []) := by
  refine ⟨{ s.release.restart Rc.pin with chief.power := 3, chief.rose := none }, ?_, rfl, ?_, ?_, ?_⟩
  · rw [exec_mainPowerDown, execMainPowerDown]
    simp [hpower]
  · simp only [State.restart_chief]
    exact s.release_tristate
  · rw [State.rd_withChief, State.rd_restart_last (by decide)]
    rfl
  · rw [State.hbm_withChief, State.restart_hbm]

theorem mainDischargeDone_ends (hpower : s.chief.power = 3) :
    answers .mainDischargeDone s (fun t => t.chief.power = 1) := by
  refine ⟨{ s with chief.power := 1 }, ?_, rfl⟩
  rw [exec_mainDischargeDone, execMainDischargeDone]
  simp [hpower]

/-- Where the main-valid condition has returned, the end of the discharge brings the main domain up (R554). -/
theorem mainDischargeDone_rises (hpower : s.chief.power = 4) (hrose : s.chief.rose = none) :
    answers .mainDischargeDone s (fun t => t.chief.power = 2) := by
  have hup := mainPowerUp_rises (s := { s with chief.power := 1 }) rfl hrose
  have hdone : exec .mainDischargeDone s = exec .mainPowerUp { s with chief.power := 1 } := by
    rw [exec_mainDischargeDone, execMainDischargeDone]
    simp [hpower]
  unfold answers at hup ⊢
  rw [hdone]
  exact hup

end

/-- Settles O38: each clause is one reset or one event of the supplies. That HBM reads as never written once its contents
are lost is the model's choice (log 3 and 23). -/
theorem resetsAndPower : Obligations.ResetsAndPower :=
  ⟨fun _ _ => resetDevice_orders, fun _ => deviceReset_resets, fun _ => watchdogReset_resets, fun _ => ⟨_, rfl, rfl⟩,
    resetNFall_releases, pinReset_holds, fun _ => resetNRise_begins, fun _ => resetNRise_glitches, powerOnReset_clears,
    standbyOff_releases, fun _ => mainPowerUp_rises, fun _ => mainPowerUp_waits, fun _ => mainPowerDown_discharges,
    fun _ => mainDischargeDone_ends, fun _ => mainDischargeDone_rises⟩

end Sys2Proof.Machine
end

section
/-! SUPPORT. The phases of a start (R58, R61, R63, R578): what the flash says of it, what each phase's end shows. -/

namespace Sys2Proof.Machine

variable {s t : State}

/-! ### What is read off the flash (R61, R64, R510, R518) -/

section
variable (h : t.flash = s.flash)
include h

theorem State.flashBytes_eq : t.flashBytes = s.flashBytes := by
  funext a n
  refine State.flashBytes_congr (fun c _ _ => ?_)
  unfold State.flashByte
  rw [h]

theorem State.manifest_eq : t.manifest = s.manifest := by
  funext b
  simp only [State.manifest, State.flashBytes_eq h]

theorem State.directory_eq : t.directory = s.directory := by
  simp only [State.directory, State.dirCopy, State.flashBytes_eq h]

theorem State.activeBank_eq : t.activeBank = s.activeBank := by
  simp only [State.activeBank, State.directory_eq h]

theorem State.token_eq : t.token = s.token := by
  simp only [State.token, State.flashBytes_eq h]

theorem State.bankImage_eq : t.bankImage = s.bankImage := by
  funext b
  simp only [State.bankImage, State.manifest_eq h, State.flashBytes_eq h]

theorem State.firmwareDigest_eq : t.firmwareDigest = s.firmwareDigest := by
  funext b
  simp only [State.firmwareDigest, State.manifest_eq h, State.flashBytes_eq h]

theorem State.healthRecord_eq (hfuses : t.fuses = s.fuses) : t.healthRecord = s.healthRecord := by
  simp only [State.healthRecord, State.flashBytes_eq h, hfuses]

/-- The cause of a cold start rests on the flash, the fuses and CHIEF_BOOT (R61). -/
theorem State.coldCause_eq (hfuses : t.fuses = s.fuses)
    (hboot : t.reg (F.chiefBoot_bootSel.addr 0) = s.reg (F.chiefBoot_bootSel.addr 0)) : t.coldCause = s.coldCause := by
  have hsel : t.rd F.chiefBoot_bootSel = s.rd F.chiefBoot_bootSel := congrArg F.chiefBoot_bootSel.ofWord hboot
  have hfails : t.rd F.chiefBoot_bootFails = s.rd F.chiefBoot_bootFails := congrArg F.chiefBoot_bootFails.ofWord hboot
  have hrun : t.flag F.chiefBoot_unparkedRun = s.flag F.chiefBoot_unparkedRun :=
    congrArg (fun w => F.chiefBoot_unparkedRun.ofWord w != 0) hboot
  simp only [State.coldCause, hsel, hfails, hrun, hfuses, State.activeBank_eq h, State.token_eq h,
    State.healthRecord_eq h hfuses, State.firmwareDigest_eq h, State.bankImage_eq h]

theorem State.chooseBank_eq (hfails : t.rd F.chiefBoot_bootFails = s.rd F.chiefBoot_bootFails) :
    t.chooseBank = s.chooseBank := by
  simp only [State.chooseBank, hfails, State.activeBank_eq h, State.directory_eq h, State.manifest_eq h]

end

/-- COLD_CAUSE has eight values (R61). -/
theorem State.coldCause_lt (s : State) : s.coldCause < 8 := by
  unfold State.coldCause
  dsimp only
  repeat' split
  all_goals decide

/-! ### The end of a phase -/

variable {z b : Bool} {mf : List MemFail} {bs : List BadSpare} {cr : List CalResult} {rf : List HbmRowFail}

theorem State.showDirectory_onlyRegs (s : State) : OnlyRegs s s.showDirectory := by
  unfold State.showDirectory
  exact ((((OnlyRegs.refl s).wr _ _ _).wr _ _ _).wr _ _ _).wr _ _ _

/-- The directory is shown above the Chief's registers (R518). -/
theorem State.reg_showDirectory (s : State) {a : Nat} (h : a < 0x1500000) : s.showDirectory.reg a = s.reg a := by
  unfold State.showDirectory
  rw [State.reg_wr_ne (f := F.updDirGen_value), State.reg_wr_ne (f := F.updVersion_value),
    State.reg_wr_ne (f := F.updStat_fallbackOk), State.reg_wr_ne (f := F.updStat_activeBank)]
  all_goals exact Nat.ne_of_lt (Nat.lt_of_lt_of_le h (by decide))

theorem State.phase_runs (hmode : s.mode = Md.starting) (hreset : s.chief.inReset = false) :
    (s.mode != Md.starting || s.chief.inReset) = false := by
  simp [hmode, hreset]

/-- CHIEF_BOOT as phase 2 ends (R61). -/
def State.showStart (s : State) : State :=
  (s.showDirectory.wr F.chiefBoot_startKind 0 (b2n (s.coldCause == 0))).wr F.chiefBoot_coldCause 0 s.coldCause

/-- Phase 2 ends: the kind of start and the bank it boots from are known (R58, R61). -/
theorem startupPhaseEnd_chooses_bank (hmode : s.mode = Md.starting) (hreset : s.chief.inReset = false)
    (hphase : s.rd F.chiefMode_phase = 2) : answers (.startupPhaseEnd z mf bs cr rf b) s (fun t =>
      t.rd F.chiefMode_phase = 3 ∧ t.rd F.chiefBoot_coldCause = s.coldCause ∧ t.chief.bootBank = s.chooseBank) := by
  have hdir := s.showDirectory_onlyRegs
  have hcause : s.showDirectory.coldCause = s.coldCause :=
    State.coldCause_eq hdir.flash hdir.fuses (s.reg_showDirectory (by decide))
  have hstart : OnlyRegs s s.showStart := (hdir.wr _ _ _).wr _ _ _
  have hbank : s.showStart.chooseBank = s.chooseBank := by
    refine State.chooseBank_eq hstart.flash ?_
    unfold State.showStart
    rw [State.rd_wr_apart _ _ _ _ _ _ (by decide) (by decide), State.rd_wr_apart _ _ _ _ _ _ (by decide) (by decide)]
    exact congrArg F.chiefBoot_bootFails.ofWord (s.reg_showDirectory (by decide))
  refine ⟨({ s.showStart with chief.bootBank := s.showStart.chooseBank } : State).toPhase 3, ?_, ?_, ?_, hbank⟩
  · rw [exec_startupPhaseEnd, execStartupPhaseEnd, State.phase_runs hmode hreset]
    simp only [Bool.false_eq_true, if_false, hphase, hcause]
    rfl
  · exact State.rd_wr_self _ _ _ _ (by decide)
  · unfold State.toPhase
    rw [State.rd_wr_far_00 (by decide), State.rd_withChief]
    exact (State.rd_wr_self _ _ _ _ (by decide)).trans (Nat.mod_eq_of_lt (Nat.lt_trans s.coldCause_lt (by decide)))

theorem State.log_test (s : State) (code isl status : Nat) (args : List Nat) :
    (s.log code isl status args).test = s.test := by
  unfold State.log
  split
  · rfl
  · exact State.count_test ..

theorem State.irq_test (s : State) (v : Nat) : (s.irq v).test = s.test := by
  unfold State.irq
  split
  · exact State.wr_test ..
  · exact State.emit_test ..

theorem State.report_test (s : State) (c : CmdRef) (op st info res : Nat) : (s.report c op st info res).test = s.test := by
  unfold State.report
  split
  · exact (State.irq_test _ _).trans (State.log_test _ _ _ _ _)
  · exact State.wr_test ..

theorem State.endTest_run (s : State) (r : TestRun) : (s.endTest r).test.run = none := by
  unfold State.endTest
  dsimp only
  split
  · rfl
  · rw [State.report_test]

/-- No series runs past the end of its phase (R500). -/
theorem State.cutTest_run (s : State) : s.cutTest.test.run = none := by
  unfold State.cutTest
  split
  · assumption
  · exact State.endTest_run _ _

/-- Phase 5 ends: a series of logic tests is cut short (R58, R500). -/
theorem startupPhaseEnd_cuts_test (hmode : s.mode = Md.starting) (hreset : s.chief.inReset = false)
    (hphase : s.rd F.chiefMode_phase = 5) : answers (.startupPhaseEnd z mf bs cr rf b) s (fun t =>
      t.rd F.chiefMode_phase = 6 ∧ t.test.run = none) := by
  refine ⟨s.cutTest.toPhase 6, ?_, State.rd_wr_self _ _ _ _ (by decide), s.cutTest_run⟩
  rw [exec_startupPhaseEnd, execStartupPhaseEnd, State.phase_runs hmode hreset]
  simp only [Bool.false_eq_true, if_false, hphase]

/-! ### READY (R58, R62, R63) -/

/-- CHIEF_MODE, CHIEF_START_MS and CHIEF_BOOT as READY is reached (R58, R62, R63). -/
def State.showStarted (s : State) : State :=
  ((s.toPhase 0).showReady.wr F.chiefBoot_bootFails 0 0).wr F.chiefBoot_unparkedRun 0 1

theorem State.showStarted_onlyRegs (s : State) : OnlyRegs s s.showStarted :=
  (((((OnlyRegs.refl s).wr _ _ _).wr _ _ _).wr _ _ _).wr _ _ _).wr _ _ _

/-- An image whose start mode is CONFIGURE enters it, from the active bank without a fallback (R44, R532). -/
theorem State.reachReady_of_configure (hstart : s.rd F.cfgStat_startMode = 1) (hbank : s.chief.bootBank = s.activeBank) :
    s.reachReady = s.showStarted.enterMode Md.configure := by
  have hshown := s.showStarted_onlyRegs
  have hbank' : (s.showStarted.chief.bootBank == s.showStarted.activeBank) = true := by
    rw [hshown.chief, State.activeBank_eq hshown.flash, hbank, BEq.rfl]
  have hstart' : s.showStarted.rd F.cfgStat_startMode = 1 := by
    rw [← hstart]
    unfold State.showStarted State.showReady State.toPhase State.up
    simp (disch := decide) only [State.rd_wr_far_00]
  unfold State.reachReady
  extract_lets -lift +onlyGivenNames started shown bank settled
  have hsettled : settled = s.showStarted := if_pos hbank'
  rw [hsettled, hstart']
  rfl

theorem State.flag_showStarted_ready (s : State) : s.showStarted.flag F.chiefMode_ready = true := by
  unfold State.showStarted State.showReady State.flag
  simp (disch := decide) only [State.rd_wr_far_00, State.rd_up_self]
  rfl

theorem State.rd_showStarted_bootFails (s : State) : s.showStarted.rd F.chiefBoot_bootFails = 0 := by
  unfold State.showStarted
  rw [State.rd_wr_apart _ _ _ _ _ _ (by decide) (by decide), State.rd_wr_self _ _ _ _ (by decide)]
  rfl

theorem State.flag_showStarted_unparkedRun (s : State) : s.showStarted.flag F.chiefBoot_unparkedRun = true := by
  unfold State.showStarted
  rw [State.flag_wr_self (by decide)]
  rfl

/-- A change of MODE leaves READY as it is (R45). -/
theorem State.flag_showMode_ready (s : State) (m : Nat) : (s.showMode m).flag F.chiefMode_ready = s.flag F.chiefMode_ready := by
  unfold State.showMode State.down State.flag
  simp (disch := decide) only [State.rd_wr_apart, State.rd_wr_far_00]

/-- A change of MODE leaves CHIEF_BOOT as it is (R45). -/
theorem State.reg_showMode_boot (s : State) (m : Nat) : (s.showMode m).reg 0x104 = s.reg 0x104 := by
  unfold State.showMode State.down
  rw [State.reg_wr_ne (f := F.chiefMode_stopNow) (by decide), State.reg_wr_ne (f := F.chiefMode_transition) (by decide),
    State.reg_wr_ne (f := F.chiefMode_target) (by decide), State.reg_wr_ne (f := F.chiefMode_mode) (by decide),
    State.reg_wr_ne (f := F.chiefTransStat_cut) (by decide), State.reg_wr_ne (f := F.chiefTransStat_to) (by decide),
    State.reg_wr_ne (f := F.chiefTransStat_from) (by decide)]

/-- Phase 11 ends in READY (R58): BOOT_FAILS starts again, and the run counts as not parked (R62, R63). -/
theorem startupPhaseEnd_reaches_ready (hmode : s.mode = Md.starting) (hreset : s.chief.inReset = false)
    (hphase : s.rd F.chiefMode_phase = 11) (hstart : s.rd F.cfgStat_startMode = 1)
    (hbank : s.chief.bootBank = s.activeBank) : answers (.startupPhaseEnd z mf bs cr rf b) s (fun t =>
      t.mode = Md.configure ∧ t.flag F.chiefMode_ready = true ∧ t.rd F.chiefBoot_bootFails = 0 ∧
      t.flag F.chiefBoot_unparkedRun = true) := by
  have hchief := s.showStarted.enterMode_keepsChief Md.configure
  have hboot : (s.showStarted.enterMode Md.configure).reg 0x104 = s.showStarted.reg 0x104 :=
    (hchief.reg _ (by decide)).trans (s.showStarted.reg_showMode_boot _)
  refine ⟨s.showStarted.enterMode Md.configure, ?_, ?_, ?_, ?_, ?_⟩
  · rw [exec_startupPhaseEnd, execStartupPhaseEnd, State.phase_runs hmode hreset]
    simp only [Bool.false_eq_true, if_false, hphase, State.reachReady_of_configure hstart hbank]
  · exact (hchief.rd _ _ (by decide)).trans (State.showMode_mode _ (by decide))
  · rw [State.flag, hchief.rd _ _ (by decide)]
    exact (State.flag_showMode_ready _ _).trans s.flag_showStarted_ready
  · exact (congrArg F.chiefBoot_bootFails.ofWord hboot).trans s.rd_showStarted_bootFails
  · exact (congrArg (fun w => F.chiefBoot_unparkedRun.ofWord w != 0) hboot).trans s.flag_showStarted_unparkedRun

/-- READY not reached in time is a failed boot: it is counted, and the device starts again (R63). -/
theorem bootTimeout_counts (hmode : s.mode = Md.starting) (hreset : s.chief.inReset = false) :
    answers .bootTimeout s (fun t => t.rd F.chiefBoot_bootFails = satAdd 2 (s.rd F.chiefBoot_bootFails) 1 ∧
      t.rd F.chiefResetCause_last = Rc.device) := by
  refine ⟨s.bootFails, ?_, ?_, State.rd_softReset_last (by decide)⟩
  · rw [exec_bootTimeout, execBootTimeout, if_pos (by simp [hmode, hreset])]
  · unfold State.bootFails
    rw [State.rd_softReset_bootFails (by decide), State.rd_wr_self _ _ _ _ (by decide)]
    exact Nat.mod_eq_of_lt (satAdd_lt 2 _ 1 (by decide))

/-- HBM as RECOVERY is ready: trained at 3.2 Gb/s and in use (R533, R578). -/
def State.recoveryHbm (s : State) : State :=
  ((s.setTrained 2 2).wr F.hbmStat_speed 0 2).wr F.hbmStat_state 0 3

/-- RECOVERY is ready with HBM at 3.2 Gb/s (R533, R578). -/
theorem recoveryReady_readies (hmode : s.mode = Md.recovery) (hready : s.flag F.chiefMode_ready = false) :
    answers .recoveryReady s (fun t => t.flag F.chiefMode_ready = true ∧ t.rd F.hbmStat_speed = 2 ∧
      t.rd F.hbmStat_state = 3) := by
  refine ⟨s.recoveryHbm.showReady, ?_, ?_, ?_, ?_⟩
  · rw [exec_recoveryReady, execRecoveryReady, if_neg (by simp [hmode, hready])]
    rfl
  · unfold State.showReady State.flag
    simp (disch := decide) only [State.rd_wr_far_00, State.rd_up_self]
    rfl
  · unfold State.showReady State.up State.recoveryHbm
    simp (disch := decide) only [State.rd_wr_far_00, State.rd_wr_apart, State.rd_wr_self]
    rfl
  · unfold State.showReady State.up State.recoveryHbm
    simp (disch := decide) only [State.rd_wr_far_00, State.rd_wr_self]
    rfl

/-! ### Parking begins with the token (R64) -/

/-- What lies in an erased span reads as erased (R517). -/
theorem State.flashByte_eraseFlash {lo hi a : Nat} (hlo : lo ≤ a) (hhi : a < hi) :
    (s.eraseFlash lo hi).flashByte a = flashErased a := by
  refine (Sparse.get_filter_key flashErased (fun k => decide (k < lo) || decide (hi ≤ k)) s.flash a).trans (if_neg ?_)
  simp only [Bool.or_eq_true, decide_eq_true_eq]
  omega

/-- PARK's second step erases the token (R64). -/
theorem parkStepDone_erases_token {r : Trans} (htrans : s.chief.trans = some r) (hop : r.opcode = 2)
    (hpark : r.newMode = Md.park) (hstep : s.rd F.chiefParkStat_step = 2) : answers (.parkStepDone false z mf bs) s (fun u =>
      u.rd F.chiefParkStat_step = 3 ∧ u.flashBytes tokenBase 4 = [0xFF, 0xFF, 0xFF, 0xFF]) := by
  refine ⟨s.parkErase false, ?_, State.rd_wr_self _ _ _ _ (by decide), ?_⟩
  · rw [exec_parkStepDone, execParkStepDone]
    simp [htrans, hop, hpark, hstep]
  · have hbyte : ∀ k < 4, (s.parkErase false).flashByte (tokenBase + k) = 0xFF := fun k hk =>
      State.flashByte_eraseFlash (s := s) (Nat.le_add_right ..) (by omega)
    simp only [State.flashBytes]
    rw [show (s.parkErase false).flashByte tokenBase = 0xFF from hbyte 0 (by decide), hbyte 1 (by decide),
      show (s.parkErase false).flashByte (tokenBase + 1 + 1) = 0xFF from hbyte 2 (by decide),
      show (s.parkErase false).flashByte (tokenBase + 1 + 1 + 1) = 0xFF from hbyte 3 (by decide)]

/-! ### The completion of a report (R458, R459) -/

/-- Completions wait for ring 0 in order (R458). -/
theorem State.ringCompletion_host (s : State) (r : Report) : (s.ringCompletion r).host.reports = s.host.reports ∧
    (s.ringCompletion r).host.completions =
      s.host.completions ++ [⟨r.bytes (s.rd F.hostCmdNextDseq_count) s.ns, r.intr⟩] := by
  have hns : (s.wr F.hostCmdNextDseq_count 0 (s.rd F.hostCmdNextDseq_count + 1)).ns = s.ns :=
    State.rd_wr_far_00 (by decide)
  unfold State.ringCompletion
  dsimp only
  rw [hns]
  split
  · exact ⟨rfl, rfl⟩
  · exact ⟨rfl, rfl⟩

theorem State.rd_withHost (s : State) (x : HostIf) (f : Fld) (i : Nat) : ({ s with host := x } : State).rd f i = s.rd f i :=
  rfl

/-- Each completion of the ring takes one DSEQ (R458). -/
theorem State.rd_ringCompletion_dseq (s : State) (r : Report) :
    (s.ringCompletion r).rd F.hostCmdNextDseq_count = (s.rd F.hostCmdNextDseq_count + 1) % 2 ^ 32 := by
  unfold State.ringCompletion
  dsimp only
  split
  · rw [State.rd_withHost, State.rd_wr_self _ _ _ _ (by decide)]
    rfl
  · rw [State.rd_wr_far_00 (by decide), State.rd_withHost, State.rd_withHost, State.rd_wr_self _ _ _ _ (by decide)]
    rfl

/-- A report that waits is completed on the ring with the next DSEQ (R458). -/
theorem cmdComplete_takes_dseq {c : CmdRef} {r : Report} (hfind : s.findCmd c = none)
    (hreport : s.host.reports.find? (fun x => x.cseq == c.cseq && x.stream == streamOf c) = some r)
    (hring : r.stream = none) : answers (.cmdComplete c) s (fun t => t.host.reports = s.host.reports.erase r ∧
      t.host.completions = s.host.completions ++ [⟨r.bytes (s.rd F.hostCmdNextDseq_count) s.ns, r.intr⟩] ∧
      t.rd F.hostCmdNextDseq_count = (s.rd F.hostCmdNextDseq_count + 1) % 2 ^ 32) := by
  obtain ⟨v, hv⟩ : ∃ v : State, v = { s with host.reports := s.host.reports.erase r } := ⟨_, rfl⟩
  obtain ⟨hreports, hcompletions⟩ := v.ringCompletion_host r
  have hdseq := v.rd_ringCompletion_dseq r
  refine ⟨(v.ringCompletion r).showOutstanding, ?_, ?_, ?_, ?_⟩
  · rw [exec_cmdComplete, execCmdComplete]
    simp only [hfind, hreport, State.complete, hring, hv]
  · unfold State.showOutstanding
    rw [State.wr_host, hreports, hv]
  · unfold State.showOutstanding
    rw [State.wr_host, hcompletions, hv]
    rfl
  · unfold State.showOutstanding
    rw [State.rd_wr_far_00 (by decide), hdseq, hv]
    rfl

end Sys2Proof.Machine
end

section
/-! SUPPORT. What leaves a field of a register alone: writes elsewhere, branches and folds. Then a change of MODE leaves
STATE of HBM_STAT alone: one lemma per operation, each a chain that follows the operation's definition. -/

namespace Sys2Proof.Machine

/-- The `k`-th register of the field is not the `j`-th of `g`. -/
def Fld.misses (f : Fld) (k : Nat) (g : Fld) (j : Nat) : Prop := f.addr k ≠ g.addr j

variable {s0 s t : State} {f g : Fld} {n k j v : Nat} {c : Prop} [Decidable c]

theorem Fld.misses.of_far (hk : k < n) (hf : f.far n g 1 = true) : f.misses k g 0 := Fld.addr_ne hf hk Nat.one_pos

/-- Two fields of which there is one each. -/
theorem Fld.misses.zero (hf : f.far 1 g 1 = true) : f.misses 0 g 0 := Fld.misses.of_far Nat.one_pos hf

/-! ### Updates, branches and folds -/

namespace sameRd

theorem same (h : sameRd g j s0 s) (hr : t.regs = s.regs) : sameRd g j s0 t := (State.rd_congr hr _ _).trans h

theorem withLaid (h : sameRd g j s0 s) (x : Laid) : sameRd g j s0 { s with laid := x } := h.same rfl
theorem withHeadbox (h : sameRd g j s0 s) (x : Headbox) : sameRd g j s0 { s with headbox := x } := h.same rfl
theorem withLaidChs (h : sameRd g j s0 s) (x : Sparse LaidCh) : sameRd g j s0 { s with laidChs := x } := h.same rfl
theorem withScreeChs (h : sameRd g j s0 s) (x : Sparse ScreeCh) : sameRd g j s0 { s with screeChs := x } := h.same rfl
theorem withLinks (h : sameRd g j s0 s) (x : Lanes) : sameRd g j s0 { s with links := x } := h.same rfl

theorem ite (ha : sameRd g j s0 s) (hb : sameRd g j s0 t) : sameRd g j s0 (if c then s else t) := by
  split
  · exact ha
  · exact hb

/-- An operation made where a condition holds. -/
theorem andIf (h : sameRd g j s0 s) (ht : sameRd g j s0 s → sameRd g j s0 t) :
    sameRd g j s0 (if c then t else s) := .ite (ht h) h

/-- An operation made unless a condition holds. -/
theorem andUnless (h : sameRd g j s0 s) (ht : sameRd g j s0 s → sameRd g j s0 t) :
    sameRd g j s0 (if c then s else t) := .ite h (ht h)

theorem forN {op : Nat → State → State} (h : sameRd g j s0 s)
    (hop : ∀ k t, k < n → sameRd g j t t → sameRd g j t (op k t)) : sameRd g j s0 (Machine.forN n op s) :=
  sameRd.trans h (forN_sameRd (fun k t hk => hop k t hk refl))

theorem forAll {α : Type} {l : List α} {op : α → State → State} (h : sameRd g j s0 s)
    (hop : ∀ x t, x ∈ l → sameRd g j t t → sameRd g j t (op x t)) : sameRd g j s0 (Machine.forAll l op s) :=
  sameRd.trans h (forAll_sameRd (fun x t hx => hop x t hx refl))

/-! ### Registers and events -/

theorem wr (h : sameRd g j s0 s) (hf : f.misses k g j) : sameRd g j s0 (s.wr f k v) :=
  (State.rd_wr_ne _ _ _ _ _ _ hf.symm).trans h

theorem up (h : sameRd g j s0 s) (hf : f.misses k g j) : sameRd g j s0 (s.up f k) := h.wr hf

theorem down (h : sameRd g j s0 s) (hf : f.misses k g j) : sameRd g j s0 (s.down f k) := h.wr hf

theorem count (h : sameRd g j s0 s) (hf : f.misses k g j) : sameRd g j s0 (s.count f k v) := h.wr hf

theorem peak (h : sameRd g j s0 s) (hf : f.misses k g j) : sameRd g j s0 (s.peak f k v) := h.andIf (fun h => h.wr hf)

theorem event (h : sameRd g j s0 s) (p w isl : Nat) : sameRd g j s0 (s.event p w isl) :=
  h.same (State.event_regs s p w isl)

end sameRd

/-! ### STATE of HBM_STAT -/

/-- `t` shows the state of HBM that `s` shows (R447). -/
abbrev KeepsHbmState (s t : State) : Prop := sameRd F.hbmStat_state 0 s t

/-- The Headbox's channel registers lie in pages of 4,096 bytes, at 0x100 and above; HBM_STAT begins a page. -/
def Fld.ofHeadboxCh (f : Fld) : Bool := f.base == 0x300100 && f.s1 == 4096 && f.s2 == 128 && f.n2 == 4 && f.off < 128

theorem Fld.misses.of_headboxCh (hf : f.ofHeadboxCh = true) (k : Nat) : f.misses k F.hbmStat_state 0 := by
  simp only [Fld.ofHeadboxCh, Bool.and_eq_true, beq_iff_eq, decide_eq_true_eq] at hf
  obtain ⟨⟨⟨⟨hbase, hs1⟩, hs2⟩, hn2⟩, hoff⟩ := hf
  unfold Fld.misses Fld.addr
  rw [hbase, hs1, hs2, hn2]
  simp only [F.hbmStat_state]
  omega

namespace sameRd

/-! ### EVIO pins and rotation steps (R252, R494) -/

theorem evioSet (h : KeepsHbmState s0 s) (b : Bool) (hk : k < 32) : KeepsHbmState s0 (s.evioSet k b) :=
  (h.wr (.of_far hk rfl)).same (State.emit_regs _ _)

theorem evioIdleAll (h : KeepsHbmState s0 s) : KeepsHbmState s0 s.evioIdleAll :=
  h.forN (fun _ _ hk h => h.andIf (fun h => (h.down (.of_far hk rfl)).evioSet _ hk))

theorem restStep (h : KeepsHbmState s0 s) (hk : k < 6) : KeepsHbmState s0 (s.restStep k) :=
  h.andUnless (fun h => h.wr (.of_far hk rfl))

/-! ### The Headbox (R202 to R212) -/

theorem setHbCh (h : KeepsHbmState s0 s) (n : Nat) (x : HbCh) : KeepsHbmState s0 (s.setHbCh n x) := h.withHeadbox _

theorem setHbPort (h : KeepsHbmState s0 s) (p : Nat) (x : HbPort) : KeepsHbmState s0 (s.setHbPort p x) := h.withHeadbox _

theorem setTrig (h : KeepsHbmState s0 s) (n : Nat) (line : Int) (op : TrigLine → TrigLine) :
    KeepsHbmState s0 (s.setTrig n line op) := h.setHbCh _ _

theorem channelAlert (h : KeepsHbmState s0 s) (n : Nat) : KeepsHbmState s0 (s.channelAlert n) := h.event _ _ _

theorem hbCount (h : KeepsHbmState s0 s) (n : Nat) {cause : Nat} (hc : (F.headboxCnt_count cause).ofHeadboxCh = true) :
    KeepsHbmState s0 (s.hbCount n cause) := h.count (.of_headboxCh hc n)

theorem setFill (h : KeepsHbmState s0 s) (n fill : Nat) : KeepsHbmState s0 (s.setFill n fill) :=
  (((h.setHbCh _ _).wr (.of_headboxCh rfl n)).peak (.of_headboxCh rfl n)).andIf
    (fun h => (h.up (.of_headboxCh rfl n)).channelAlert _)

theorem deliverLines (h : KeepsHbmState s0 s) (n fuel : Nat) : KeepsHbmState s0 (s.deliverLines n fuel) := by
  induction fuel generalizing s with
  | zero => exact h
  | succ fuel ih =>
    unfold State.deliverLines
    dsimp only
    split
    · exact h
    · split
      · exact h
      · exact ih (((h.setHbCh _ _).wr (.of_headboxCh rfl n)).wr (.of_headboxCh rfl n))

theorem markMissing (h : KeepsHbmState s0 s) (n : Nat) (line : Int) {cause : Nat}
    (hc : (F.headboxCnt_count cause).ofHeadboxCh = true) : KeepsHbmState s0 (s.markMissing n line cause) := by
  unfold State.markMissing
  split
  · exact h
  · exact (((((h.andIf (fun h => h.setHbCh _ _)).setTrig _ _ _).hbCount n rfl).hbCount n hc).andIf
      (fun h => h.channelAlert _)).deliverLines _ _

theorem failBurst (h : KeepsHbmState s0 s) (p : Nat) {cause : Nat} (after : BurstState)
    (hc : (F.headboxCnt_count cause).ofHeadboxCh = true) : KeepsHbmState s0 (s.failBurst p cause after) := by
  unfold State.failBurst
  split
  · exact ((h.setHbPort _ _).setFill _ _).markMissing _ _ hc
  · exact h

theorem sensorBondDown (h : KeepsHbmState s0 s) (hk : k < 16) : KeepsHbmState s0 (s.sensorBondDown k) :=
  ((((h.failBurst _ _ rfl).setHbPort _ _).down (.of_far hk rfl)).up (.of_far hk rfl)).event _ _ _

/-! ### The Laid and the Scree's channels (R375, R378, R382 to R386) -/

theorem backBreak (h : KeepsHbmState s0 s) (n : Nat) : KeepsHbmState s0 (s.backBreak n) := by
  unfold State.backBreak
  dsimp only
  split
  · exact h.withScreeChs _
  · exact h.withScreeChs _

theorem vCount (h : KeepsHbmState s0 s) (m : Nat) (hf : (F.laidCnt_count m).far 1 F.hbmStat_state 1 = true) (v : Nat) :
    KeepsHbmState s0 (s.vCount m v) := h.count (.zero hf)

theorem laidRaise (h : KeepsHbmState s0 s) (p g : Nat) : KeepsHbmState s0 (s.laidRaise p g) := h.withLaid _

theorem laidEvents (h : KeepsHbmState s0 s) : KeepsHbmState s0 s.laidEvents := by
  refine (h.withLaid _).forAll (fun p t _ ht => ?_)
  split
  · exact ht
  · exact ht.event _ _ _

theorem showGaps (h : KeepsHbmState s0 s) : KeepsHbmState s0 s.showGaps :=
  (h.wr (.zero rfl)).andIf (fun h => h.up (.zero rfl))

theorem gap (h : KeepsHbmState s0 s) (kind cause first arg sub ns g : Nat) :
    KeepsHbmState s0 (s.gap kind cause first arg sub ns g) := by
  have hcount := (h.wr (f := F.laidGapNextSeq_seq) (v := s.rd F.laidGapNextSeq_seq + 1) (.zero rfl)).vCount
    Vc.gapRecords rfl 1
  exact ((sameRd.ite (hcount.vCount _ rfl _) (hcount.withLaid _).showGaps).andIf
    (fun h => h.up (.zero rfl))).andUnless (fun h => h.laidRaise _ _)

theorem closeRun (h : KeepsHbmState s0 s) : KeepsHbmState s0 s.closeRun := by
  unfold State.closeRun
  split
  · exact h
  · exact (h.withLaid _).gap _ _ _ _ _ _ _

theorem blankLine (h : KeepsHbmState s0 s) (y cause g : Nat) : KeepsHbmState s0 (s.blankLine y cause g) := by
  have hup := h.up (f := F.laidLineStat_err) (.zero rfl)
  unfold State.blankLine
  dsimp only
  split
  · exact .ite (hup.withLaid _) ((hup.closeRun.withLaid _).laidRaise _ _)
  · exact (hup.withLaid _).laidRaise _ _

theorem hardStop (h : KeepsHbmState s0 s) (cause g : Nat) : KeepsHbmState s0 (s.hardStop cause g) := by
  unfold State.hardStop
  refine h.andUnless (fun h => ((h.withLaid _).wr (.zero rfl)).andUnless
    (fun h => .forAll ?_ (fun y t _ ht => ?_)))
  · have hstate := h.wr (f := F.laidStat_state) (v := Lst.blanking) (.zero rfl)
    split
    · exact hstate
    · exact hstate.andUnless (fun h => ((h.withLaid _).vCount _ rfl _).gap _ _ _ _ _ _ _)
  · exact (ht.withLaid _).blankLine _ _ _

theorem loseChannel (h : KeepsHbmState s0 s) (hk : k < 64) : KeepsHbmState s0 (s.loseChannel k) :=
  (((h.withLaidChs _).up (.of_far hk rfl)).down (.of_far hk rfl)).andIf
    (fun h => (h.hardStop _ _).laidEvents)

theorem drvLaneDown (h : KeepsHbmState s0 s) (hk : k < 64) : KeepsHbmState s0 (s.drvLaneDown k) :=
  .ite (h.loseChannel hk) ((h.withLaidChs _).down (.of_far hk rfl))

/-! ### Lanes (R106, R115, R117) -/

theorem showCredit (h : KeepsHbmState s0 s) (hk : k < 256) : KeepsHbmState s0 (s.showCredit k) :=
  .ite (h.wr (.of_far hk rfl)) (h.andIf (fun h => h.wr (.of_far hk rfl)))

theorem dropCredits (h : KeepsHbmState s0 s) (hk : k < 256) : KeepsHbmState s0 (s.dropCredits k) :=
  (h.withLinks _).showCredit hk

theorem bondDownHook (h : KeepsHbmState s0 s) (hk : k < 64) : KeepsHbmState s0 (s.bondDownHook k) := by
  unfold State.bondDownHook
  refine .ite (h.sensorBondDown (by omega)) (.ite ((h.backBreak _).drvLaneDown hk) ?_)
  split
  · next i hi =>
    have hi8 : i < 8 := List.mem_range.1 (List.mem_of_find?_eq_some hi)
    exact h.forN (fun _ _ ha h => h.dropCredits (by omega))
  · exact h

/-- The lanes of a bond are lanes (R106). -/
theorem bondLanes_lt (hk : k < 64) : ∀ m ∈ s.bondLanes k, m < 64 := by
  intro m hm
  unfold State.bondLanes at hm
  split at hm
  · have := (List.mem_filter.1 hm).1
    simp only [List.map_cons, List.map_nil, List.mem_cons, List.not_mem_nil, or_false] at this
    omega
  · simp only [List.mem_singleton] at hm
    omega

theorem bondDown (h : KeepsHbmState s0 s) (hk : k < 64) : KeepsHbmState s0 (s.bondDown k) := by
  refine h.andUnless (fun h => (h.forAll (fun m u hm h => ?_)).bondDownHook hk)
  have hlane : ∀ {f : Fld}, f.far 64 F.hbmStat_state 1 = true → f.misses m F.hbmStat_state 0 :=
    fun hf => .of_far (bondLanes_lt hk m hm) hf
  exact ((h.andIf (fun h => (h.count (hlane rfl)).wr (hlane rfl))).down (hlane rfl)).withLinks _

theorem laneFalls (h : KeepsHbmState s0 s) (st : Nat) (hk : k < 64) : KeepsHbmState s0 (s.laneFalls k st) :=
  ((h.bondDown hk).withLinks _).wr (.of_far hk rfl)

theorem laneTest (h : KeepsHbmState s0 s) (hk : k < 64) : KeepsHbmState s0 (s.laneTest k) :=
  h.andUnless (fun h => .ite (h.andUnless (fun h => h.laneFalls _ hk)) (.ite (h.andUnless (fun h => h.laneFalls _ hk))
    (h.andIf (fun h => h.laneFalls _ hk))))

end sameRd

/-- A change of MODE, with what idles at it, leaves HBM's state alone (R45, R117, R252, R494). -/
theorem State.enterMode_keepsHbmState (s : State) (m : Nat) : KeepsHbmState s (s.enterMode m) := by
  have hshow : KeepsHbmState s (s.showMode m) := by
    unfold KeepsHbmState sameRd State.showMode State.down
    simp (disch := decide) only [State.rd_wr_far_00]
  exact (hshow.evioIdleAll.forN (fun _ _ hk h => h.restStep hk)).forN (fun _ _ hk h => h.laneTest hk)

end Sys2Proof.Machine
end

section
/-! SUPPORT. The last step of PARK (R64 to R66): HBM is powered down and its islands are gated. -/

namespace Sys2Proof.Machine

variable {s : State}

theorem State.chief_withChief (s : State) (x : Chief) : ({ s with chief := x } : State).chief = x := rfl

theorem State.host_withChief (s : State) (x : Chief) : ({ s with chief := x } : State).host = s.host := rfl

/-! ### Gating (R25) -/

/-- CHIEF_ISL_STAT and CHIEF_ISL_FREQ alone show an island (R39). -/
theorem State.reg_showIsl (s : State) {a : Nat} (hstat : a ≠ 0x404) (hfreq : a ≠ 0x408) : s.showIsl.reg a = s.reg a := by
  unfold State.showIsl
  dsimp only
  split
  · exact (State.reg_setReg_ne _ _ hfreq).trans (State.reg_setReg_ne _ _ hstat)
  · exact (State.reg_wr_ne (f := F.chiefIslFreq_freqKhz) hfreq).trans (State.reg_setReg_ne _ _ hstat)

theorem State.showIsl_onlyRegs (s : State) : OnlyRegs s s.showIsl := by
  unfold State.showIsl
  dsimp only
  split
  · exact ((OnlyRegs.refl s).setReg _ _).setReg _ _
  · exact ((OnlyRegs.refl s).setReg _ _).wr _ _ _

theorem State.gate_waiting (s : State) (i : Nat) : (s.gate i).chief.waiting = s.chief.waiting := by
  unfold State.gate
  split
  · rfl
  · rw [(State.showIsl_onlyRegs _).chief]

theorem State.gate_host (s : State) (i : Nat) : (s.gate i).host = s.host := by
  unfold State.gate
  split
  · rfl
  · rw [(State.showIsl_onlyRegs _).host]

theorem State.gate_keepsHbmState (s : State) (i : Nat) : KeepsHbmState s (s.gate i) := by
  unfold State.gate
  split
  · exact .refl
  · exact congrArg F.hbmStat_state.ofWord (State.reg_showIsl _ (by decide) (by decide))

/-! ### The end of PARK's seventh step -/

/-- HBM without power (R64). -/
def State.unpowered (s : State) : State := (s.powerDownHbm.wr F.hbmStat_state 0 5).wr F.hbmStat_trained 0 0

theorem State.unpowered_onlyRegs (s : State) : OnlyRegs s.powerDownHbm s.unpowered :=
  ((OnlyRegs.refl _).wr _ _ _).wr _ _ _

/-- HBM without power, and the islands of PARK alone with it (R64, R66). -/
def State.parkGated (s : State) : State :=
  forAll ((List.range 256).filter (fun i => islandAssigned i && !parkIslands.contains i)) (fun i s => s.gate i) s.unpowered

theorem State.parkGated_waiting (s : State) : s.parkGated.chief.waiting = s.chief.waiting := by
  unfold State.parkGated
  rw [forAll_view (fun t => t.chief.waiting) (fun i t => t.gate_waiting i), s.unpowered_onlyRegs.chief]
  rfl

theorem State.parkGated_host (s : State) : s.parkGated.host = s.host := by
  unfold State.parkGated
  rw [forAll_view (fun t => t.host) (fun i t => t.gate_host i), s.unpowered_onlyRegs.host]
  rfl

theorem State.rd_parkGated_hbmState (s : State) : s.parkGated.rd F.hbmStat_state = 5 := by
  have hgates : KeepsHbmState s.unpowered s.parkGated :=
    sameRd.refl.forAll (fun i t _ _ => t.gate_keepsHbmState i)
  refine Eq.trans hgates ?_
  rw [State.unpowered, State.rd_wr_apart _ _ _ _ _ _ (by decide) (by decide), State.rd_wr_self _ _ _ _ (by decide)]
  rfl

/-- Powered down, HBM has lost its contents (log 3 and 23). -/
theorem State.parkGated_hbm (s : State) : s.parkGated.hbm = [] := by
  have hgates : Keeps {} s.unpowered s.parkGated := forAll_keeps (fun i t ht => State.gate_keeps t i ht) (.refl _)
  exact (hgates.sameHbm rfl).trans s.unpowered_onlyRegs.hbm

theorem State.showMode_onlyRegs (s : State) (m : Nat) : OnlyRegs s (s.showMode m) :=
  (((((((OnlyRegs.refl s).wr _ _ _).wr _ _ _).wr _ _ _).wr _ _ _).wr _ _ _).wr _ _ _).wr _ _ _

/-- A change of MODE leaves the Chief's part of the state alone (R45). -/
theorem State.enterMode_chief (s : State) (m : Nat) : (s.enterMode m).chief = s.chief :=
  (s.enterMode_keepsChief m).chief.trans (s.showMode_onlyRegs m).chief

theorem State.enterMode_host (s : State) (m : Nat) : (s.enterMode m).host = s.host :=
  (s.enterMode_keepsChief m).host.trans (s.showMode_onlyRegs m).host

/-- PARK entered: the transition has ended and the lock is free again (R64, R522). -/
def State.parkShown (s : State) : State := (({ s with chief.trans := none } : State).parkStep 0).freeLock

/-- PARK is the mode (R64). -/
def State.parked (s : State) : State := (s.parkGated.enterMode Md.park).parkShown

theorem State.parkEnd_eq (s : State) (r : Trans) : s.parkEnd r = s.parked.finish r.cmd 0x02 St.done := rfl

theorem State.parkShown_onlyRegs (s : State) :
    OnlyRegs { s with chief := { s.chief with trans := none } } s.parkShown :=
  (((OnlyRegs.refl _).wr _ _ _).wr _ _ _).wr _ _ _

/-- The park step and the lock are the registers that change. -/
theorem State.rd_parkShown (s : State) {f : Fld} (hstep : F.chiefParkStat_step.far 1 f 1 = true)
    (hheld : F.updStat_lockHeld.far 1 f 1 = true) (hholder : F.updLock_holder.far 1 f 1 = true) :
    s.parkShown.rd f = s.rd f := by
  unfold State.parkShown State.freeLock State.down State.parkStep
  rw [State.rd_wr_far_00 hholder, State.rd_wr_far_00 hheld, State.rd_wr_far_00 hstep, State.rd_withChief]

theorem State.parkShown_lockHolder (s : State) : s.parkShown.lockHolder = none := by
  unfold State.parkShown State.lockHolder State.flag State.freeLock
  simp (disch := decide) only [State.rd_wr_far_00, State.rd_down_self]
  rfl

theorem State.parked_mode (s : State) : s.parked.mode = Md.park :=
  (State.rd_parkShown _ (by decide) (by decide) (by decide)).trans
    (((s.parkGated.enterMode_keepsChief Md.park).rd _ _ (by decide)).trans (State.showMode_mode _ (by decide)))

theorem State.parked_lockHolder (s : State) : s.parked.lockHolder = none := State.parkShown_lockHolder _

theorem State.rd_parked_hbmState (s : State) : s.parked.rd F.hbmStat_state = 5 :=
  (State.rd_parkShown _ (by decide) (by decide) (by decide)).trans
    (Eq.trans (s.parkGated.enterMode_keepsHbmState Md.park) s.rd_parkGated_hbmState)

theorem State.parked_hbm (s : State) : s.parked.hbm = [] := by
  have henter : (s.parkGated.enterMode Md.park).hbm = s.parkGated.hbm :=
    (State.enterMode_keeps (tw := {}) s.parkGated Md.park (.refl _)).sameHbm rfl
  rw [State.parked, (State.parkShown_onlyRegs _).hbm, State.hbm_withChief, henter, State.parkGated_hbm]

theorem State.parked_waiting (s : State) : s.parked.chief.waiting = s.chief.waiting := by
  rw [State.parked, (State.parkShown_onlyRegs _).chief, State.chief_withChief, State.enterMode_chief,
    State.parkGated_waiting]

theorem State.parked_host (s : State) : s.parked.host = s.host := by
  rw [State.parked, (State.parkShown_onlyRegs _).host, State.host_withChief, State.enterMode_host, State.parkGated_host]

/-! ### The report of PARK -/

/-- A report writes LOST, a pending bit or OUTSTANDING, and no other register (R453, R457, R546). -/
theorem State.reg_finish {c : CmdRef} {op st info a : Nat} (hlost : a ≠ F.chiefLogLost_count.addr 0)
    (hpba : a ≠ F.msixPba_pending.addr 0) (hout : a ≠ F.hostCmdOutstanding_outstanding.addr 0) :
    (s.finish c op st info).reg a = s.reg a := by
  unfold State.finish State.report State.chiefAlert
  split
  · exact (State.reg_irq_ne hpba).trans (State.reg_log_ne hlost)
  · exact State.reg_wr_ne hout

theorem State.finish_hbm (s : State) (c : CmdRef) (op st info : Nat) : (s.finish c op st info).hbm = s.hbm :=
  (State.finish_keeps (tw := {}) s c op st info (.refl s)).sameHbm rfl

/-- PARK's seventh step ends in PARK: the islands are gated with HBM's contents lost (R64 to R66; log 3 and 23). -/
theorem parkStepDone_parks {r : Trans} {e z : Bool} {mf : List MemFail} {bs : List BadSpare}
    (htrans : s.chief.trans = some r) (hop : r.opcode = 2) (hpark : r.newMode = Md.park)
    (hstep : s.rd F.chiefParkStat_step = 7) (hs : s.serves r.cmd = true) (hw : s.chief.waiting = []) :
    answers (.parkStepDone e z mf bs) s (fun u => u.mode = Md.park ∧ u.hbm = [] ∧ u.lockHolder = none ∧
      u.rd F.hbmStat_state = 5 ∧ u.reported r.cmd 0x02 St.done = true) := by
  obtain ⟨-, hlate, -⟩ := State.serves_iff.1 hs
  have hreg : ∀ a, a = 0x100 ∨ a = 0x1100000 ∨ a = 0x1500000 ∨ a = 0x1500004 →
      (s.parked.finish r.cmd 0x02 St.done).reg a = s.parked.reg a := fun a ha =>
    State.reg_finish (by rintro rfl; revert ha; decide) (by rintro rfl; revert ha; decide)
      (by rintro rfl; revert ha; decide)
  have hwait : (s.parkEnd r).chief.waiting = [] := by
    rw [State.parkEnd_eq, State.finish_chief, State.parked_waiting, hw]
  refine ⟨s.parkEnd r, ?_, ?_, ?_, ?_, ?_, ?_⟩
  · rw [exec_parkStepDone, execParkStepDone]
    simp [htrans, hop, hpark, hstep, State.takeWaiting_of_nil hwait]
  · exact (congrArg F.chiefMode_mode.ofWord (hreg 0x100 (by decide))).trans s.parked_mode
  · rw [State.parkEnd_eq, State.finish_hbm, State.parked_hbm]
  · have hheld : (s.parkEnd r).rd F.updStat_lockHeld = s.parked.rd F.updStat_lockHeld :=
      congrArg F.updStat_lockHeld.ofWord (hreg 0x1500000 (by decide))
    have hholder : (s.parkEnd r).rd F.updLock_holder = s.parked.rd F.updLock_holder :=
      congrArg F.updLock_holder.ofWord (hreg 0x1500004 (by decide))
    rw [← s.parked_lockHolder]
    unfold State.lockHolder State.flag
    rw [hheld, hholder]
  · exact (congrArg F.hbmStat_state.ofWord (hreg 0x1100000 (by decide))).trans s.rd_parked_hbmState
  · rw [State.parkEnd_eq]
    refine State.reported_finish ?_
    rw [State.parked_host]
    exact hlate

end Sys2Proof.Machine
end

section
/-! SUPPORT. A host reset (R61, R452): the rings and the DMA channels it clears, and the fields that the rest of it leaves
alone. -/

namespace Sys2Proof.Machine

variable {s s0 t : State} {f g : Fld} {n m k j : Nat}

/-- After a fold every index has what its own turn brings about, where no later turn undoes it. -/
theorem forN_each {Q : Nat → State → Prop} {op : Nat → State → State} (hset : ∀ k u, k < n → Q k (op k u))
    (hkeep : ∀ i k u, i < k → k < n → Q i u → Q i (op k u)) (s : State) : ∀ i < n, Q i (forN n op s) := by
  induction n with
  | zero => exact fun i hi => absurd hi (Nat.not_lt_zero i)
  | succ n ih =>
    intro i hi
    have hlast : forN (n + 1) op s = op n (forN n op s) := by
      unfold forN
      rw [List.range_succ, List.foldl_append]
      rfl
    have hbefore := ih (fun k u hk => hset k u (Nat.lt_succ_of_lt hk))
      (fun i k u hik hk => hkeep i k u hik (Nat.lt_succ_of_lt hk))
    rw [hlast]
    obtain hi | rfl := Nat.lt_succ_iff_lt_or_eq.1 hi
    · exact hkeep i n _ hi (Nat.lt_succ_self n) (hbefore i hi)
    · exact hset i _ (Nat.lt_succ_self i)

theorem Fld.misses.of_far_fields (hk : k < n) (hj : j < m) (hf : f.far n g m = true) : f.misses k g j :=
  Fld.addr_ne hf hk hj

/-- Two registers of one row. -/
theorem Fld.misses.of_ne (hs : 0 < f.s1) (hn : f.n2 = 1) (hbase : f.base + f.off = g.base + g.off) (hs1 : f.s1 = g.s1)
    (hn2 : g.n2 = 1) (h : k ≠ j) : f.misses k g j := by
  unfold Fld.misses Fld.addr
  rw [hn, hn2, ← hs1, Nat.div_one, Nat.div_one, Nat.mod_one, Nat.mod_one]
  have hne : k * f.s1 ≠ j * f.s1 := fun e => h (Nat.eq_of_mul_eq_mul_right hs e)
  omega

namespace sameRd

theorem setReg (h : sameRd g j s0 s) {a : Nat} (w : Word) (ha : a ≠ g.addr j) : sameRd g j s0 (s.setReg a w) :=
  (congrArg g.ofWord (State.reg_setReg_ne s w ha.symm)).trans h

theorem resetSpan (h : sameRd g j s0 s) {lo hi : Nat} (ha : g.addr j < lo ∨ hi ≤ g.addr j) :
    sameRd g j s0 (s.resetSpan lo hi) := by
  have hreg : (s.resetSpan lo hi).reg (g.addr j) = s.reg (g.addr j) :=
    (Sparse.get_filter_key resetWord (fun a => a < lo || hi ≤ a) s.regs _).trans (if_pos (by simpa using ha))
  exact (congrArg g.ofWord hreg).trans h

end sameRd

/-! ### The rings (R61) -/

/-- The command and transmit rings stopped, and the frames that wait dropped. -/
def State.stopRings (s : State) : State :=
  (((((s.dropStagedFrames.down F.hostCmdCtl_cmdEn).wr F.hostCmdTail_count 0 0).wr F.hostCmdFetched_count 0 0).down
    F.hostTxCtl_en).wr F.hostTxTail_count 0 0).wr F.hostTxHead_count 0 0

/-- One ring to the host cleared. -/
def State.clearRing (s : State) (k : Nat) : State :=
  (((s.down F.ringCtl_en k).wr F.ringProd_count k 0).wr F.ringCons_count k 0).showOut k

theorem State.clearRings_regs (s : State) : s.clearRings.regs = (forN 6 (fun k s => s.clearRing k) s.stopRings).regs := rfl

theorem State.clearRings_rd (s : State) (g : Fld) (j : Nat) :
    s.clearRings.rd g j = (forN 6 (fun k s => s.clearRing k) s.stopRings).rd g j := State.rd_congr s.clearRings_regs g j

/-- The field is in no register of the rings to the host. -/
def Fld.besideRings (g : Fld) (m : Nat) : Bool :=
  F.ringCtl_en.far 6 g m && F.ringProd_count.far 6 g m && F.ringCons_count.far 6 g m

theorem sameRd.clearRing (h : sameRd g j s0 s) (hk : k < 6) (hj : j < m) (hg : g.besideRings m = true) :
    sameRd g j s0 (s.clearRing k) := by
  simp only [Fld.besideRings, Bool.and_eq_true] at hg
  obtain ⟨⟨hctl, hprod⟩, hcons⟩ := hg
  have hfull : F.ringCtl_full.misses k g j := Fld.misses.of_far_fields (f := F.ringCtl_en) hk hj hctl
  exact (((h.down (.of_far_fields hk hj hctl)).wr (.of_far_fields hk hj hprod)).wr (.of_far_fields hk hj hcons)).wr hfull

theorem State.rd_clearRings (hj : j < m) (hg : g.besideRings m = true) : s.clearRings.rd g j = s.stopRings.rd g j :=
  (s.clearRings_rd g j).trans (sameRd.refl.forN (fun _ _ hk h => h.clearRing hk hj hg))

theorem State.rd_clearRings_hostResets (s : State) :
    s.clearRings.rd F.chiefResetCause_hostResets = s.rd F.chiefResetCause_hostResets := by
  have hdrop : sameRd F.chiefResetCause_hostResets 0 s s.dropStagedFrames :=
    (sameRd.refl.count (f := F.ringDrop_drop) (.of_far (n := 6) (by decide) rfl)).same rfl
  refine (State.rd_clearRings Nat.one_pos rfl).trans ?_
  exact (((((hdrop.down (.zero rfl)).wr (.zero rfl)).wr (.zero rfl)).down (.zero rfl)).wr (.zero rfl)).wr (.zero rfl)

theorem State.rd_clearRings_cmdEn (s : State) : s.clearRings.rd F.hostCmdCtl_cmdEn = 0 := by
  refine (State.rd_clearRings Nat.one_pos rfl).trans ?_
  unfold State.stopRings State.down
  simp (disch := decide) only [State.rd_wr_far_00, State.rd_wr_self]
  rfl

theorem State.rd_clearRings_en (s : State) (hk : k < 6) : s.clearRings.rd F.ringCtl_en k = 0 := by
  have hprod : ∀ k < 6, F.ringProd_count.misses k F.ringCtl_en k := fun k hk => .of_far_fields hk hk (by decide)
  have hcons : ∀ k < 6, F.ringCons_count.misses k F.ringCtl_en k := fun k hk => .of_far_fields hk hk (by decide)
  have hset : ∀ k u, k < 6 → (State.clearRing u k).rd F.ringCtl_en k = 0 := by
    intro k u hk
    unfold State.clearRing State.showOut
    rw [State.rd_wr_apart _ _ _ _ _ _ (by decide) (by decide), State.rd_wr_ne _ _ _ _ _ _ (hcons k hk).symm,
      State.rd_wr_ne _ _ _ _ _ _ (hprod k hk).symm, State.rd_down_self (by decide)]
  have hkeep : ∀ i k u, i < k → k < 6 → u.rd F.ringCtl_en i = 0 → (State.clearRing u k).rd F.ringCtl_en i = 0 := by
    intro i k u hik hk hi
    have hctl : F.ringCtl_en.misses k F.ringCtl_en i := .of_ne (by decide) rfl rfl rfl rfl (Nat.ne_of_gt hik)
    have hsame : sameRd F.ringCtl_en i u (State.clearRing u k) :=
      (((sameRd.refl.down hctl).wr (.of_far_fields hk (hik.trans hk) (by decide))).wr
        (.of_far_fields hk (hik.trans hk) (by decide))).wr hctl
    exact Eq.trans hsame hi
  exact (s.clearRings_rd _ _).trans (forN_each (Q := fun k u => u.rd F.ringCtl_en k = 0) hset hkeep _ k hk)

/-! ### The DMA channels (R61) -/

/-- One DMA channel halted. -/
def State.haltDma (s : State) (i : Nat) : State :=
  ((s.setDma i { s.dma i with desc := none, reads := [], aborting := false }).wr F.dmaStat_state i Ds.halted).wr
    F.dmaStat_cause i Dc.hostReset

/-- A host reset halts each channel; one that ran signals it. -/
theorem State.dmaHostReset_eq (s : State) : s.dmaHostReset = forN 32 (fun i s =>
    if s.dmaState i == Ds.fetch || s.dmaState i == Ds.run || s.dmaState i == Ds.wait then
      (s.haltDma i).event (106 + 2 * i) (s.dma i).gen 0xC1 else s.haltDma i) s := rfl

theorem sameRd.haltDma (h : sameRd g j s0 s) (hf : F.dmaStat_state.misses k g j) : sameRd g j s0 (s.haltDma k) :=
  ((h.same rfl).wr hf).wr hf

theorem State.rd_dmaHostReset (hj : j < m) (hg : F.dmaStat_state.far 32 g m = true) :
    s.dmaHostReset.rd g j = s.rd g j := by
  rw [State.dmaHostReset_eq]
  refine sameRd.refl.forN (fun k u hk h => ?_)
  have hhalt := h.haltDma (.of_far_fields hk hj hg)
  exact .ite (hhalt.event _ _ _) hhalt

theorem State.haltDma_dmaState (s : State) (i : Nat) : (s.haltDma i).dmaState i = Ds.halted := by
  unfold State.haltDma State.dmaState
  rw [State.rd_wr_apart _ _ _ _ _ _ (by decide) (by decide), State.rd_wr_self _ _ _ _ (by decide)]
  rfl

theorem State.dmaHostReset_dmaState (s : State) {i : Nat} (hi : i < 32) : s.dmaHostReset.dmaState i = Ds.halted := by
  rw [State.dmaHostReset_eq]
  refine forN_each (Q := fun i u => u.dmaState i = Ds.halted) (fun k u _ => ?_) (fun i k u hik _ hu => ?_) s i hi
  · have hhalt : sameRd F.dmaStat_state k (u.haltDma k) (u.haltDma k) := sameRd.refl
    exact Eq.trans (sameRd.ite (hhalt.event _ _ _) hhalt) (u.haltDma_dmaState k)
  · have hhalt : sameRd F.dmaStat_state i u (u.haltDma k) :=
      sameRd.refl.haltDma (.of_ne (by decide) rfl rfl rfl rfl (Nat.ne_of_gt hik))
    exact Eq.trans (sameRd.ite (hhalt.event _ _ _) hhalt) hu

/-! ### What the host held is free (R61, R452) -/

/-- The Ream's host jobs ended, the host's resources free, MSI-X reset. -/
def State.releaseHost (s : State) : State := (s.reamHostReset.freeDomain Dom.hostPcie).resetMsix

/-- The field is in no register that the release writes. -/
def Fld.besideRelease (g : Fld) (m : Nat) : Bool :=
  F.reamCtl_hostEn.far 4 g m && F.cfgOwner_tag.far Res.count g m && F.cairnMatrix_word.far 1280 g m &&
    (0 < g.n2 && g.last m < 0x012F0000)

theorem sameRd.freeResource (h : sameRd g j s0 s) {r : Nat} (howner : F.cfgOwner_tag.misses r g j)
    (hmatrix : ∀ w < 1280, F.cairnMatrix_word.misses w g j) : sameRd g j s0 (s.freeResource r) := by
  have hfree := h.setReg (BitVec.ofNat 32 (0 % 65536 + b2n false * 2 ^ 31)) howner
  unfold State.freeResource
  dsimp only
  split
  · next hr =>
    have hlt : r < 260 := of_decide_eq_true (Bool.and_elim_right hr)
    have hcol : ∀ w < 8, 8 * (r - Res.cairncol) + w < 1280 := fun w hw => by simp only [Res.cairncol]; omega
    exact hfree.forN (fun w _ hw h => h.setReg 0 (hmatrix _ (hcol w hw)))
  · exact hfree

theorem State.rd_releaseHost (hj : j < m) (hg : g.besideRelease m = true) : s.releaseHost.rd g j = s.rd g j := by
  simp only [Fld.besideRelease, Bool.and_eq_true, decide_eq_true_eq] at hg
  obtain ⟨⟨⟨hream, howner⟩, hmatrix⟩, hn2, hmsix⟩ := hg
  have hream : sameRd g j s s.reamHostReset := sameRd.refl.forN (fun e u he h =>
    .ite (h.same rfl) (h.down (.of_far_fields he hj hream)))
  have hfree : sameRd g j s (s.reamHostReset.freeDomain Dom.hostPcie) := hream.forN (fun r u hr h =>
    h.andIf (fun h => h.freeResource (.of_far_fields hr hj howner) (fun w hw => .of_far_fields hw hj hmatrix)))
  exact hfree.resetSpan (.inl (Nat.lt_of_le_of_lt (Fld.addr_le_last hj hn2) hmsix))

/-- The link after the reset (R61, R452). -/
def State.resetLink (s : State) (linkDown : Bool) : State :=
  if linkDown then ((((s.down F.hostStat_d3hot).down F.hostStat_busMaster).down F.hostStat_linkUp).wr F.hostStat_gen 0
    0).wr F.hostStat_width 0 0
  else (s.down F.hostStat_d3hot).down F.hostStat_busMaster

theorem sameRd.resetLink (h : sameRd g j s0 s) (hf : F.hostStat_d3hot.misses 0 g j) (linkDown : Bool) :
    sameRd g j s0 (s.resetLink linkDown) := by
  have hdown : sameRd g j s0 ((s.down F.hostStat_d3hot).down F.hostStat_busMaster) :=
    (h.down hf).down (f := F.hostStat_busMaster) hf
  unfold State.resetLink
  split
  · exact ((hdown.down (f := F.hostStat_linkUp) hf).wr (f := F.hostStat_gen) hf).wr (f := F.hostStat_width) hf
  · exact hdown

theorem State.rd_resetLink_d3hot (s : State) (linkDown : Bool) : (s.resetLink linkDown).rd F.hostStat_d3hot = 0 := by
  unfold State.resetLink State.down
  split <;> simp (disch := decide) only [State.rd_wr_apart, State.rd_wr_self] <;> rfl

/-- The host's load session, which no activation follows, ends with its lock (R61, R522). -/
def State.endHostLoad (s : State) : State :=
  if s.update.session.any (fun x => x.stream.isNone) && s.update.activation.isNone then
    (({ s with update.session := none } : State).freeLock).updState Us.idle
  else s

theorem sameRd.endHostLoad (h : sameRd g j s0 s) (hstat : F.updStat_state.misses 0 g j)
    (hlock : F.updLock_holder.misses 0 g j) : sameRd g j s0 s.endHostLoad := by
  unfold State.endHostLoad
  split
  · have hended : sameRd g j s0 { s with update.session := none } := h.same rfl
    exact ((hended.down (f := F.updStat_lockHeld) hstat).wr hlock).wr hstat
  · exact h

theorem State.endHostLoad_host (s : State) : s.endHostLoad.host = s.host := by
  unfold State.endHostLoad
  split
  · rw [State.updState, State.wr_host, State.freeLock, State.wr_host, State.down_host]
  · rfl

/-! ### The host reset -/

/-- The state of a host reset before the host's load session ends. -/
def State.hostRestarted (s : State) (flr linkDown : Bool) : State :=
  let u := (s.clearRings.dmaHostReset.releaseHost.resetLink linkDown).count F.chiefResetCause_hostResets 0 1
  { u with host.flr := flr }

theorem execHostReset_eq (flr linkDown : Bool) (s : State) :
    execHostReset flr linkDown s = .next (s.hostRestarted flr linkDown).endHostLoad := by
  cases linkDown <;> rfl

/-- A field that the release, the link and the load's end leave alone. -/
theorem State.rd_endHostReset (hj : j < m) (hg : g.besideRelease m = true) (hlink : F.hostStat_d3hot.far 1 g m = true)
    (hresets : F.chiefResetCause_hostResets.far 1 g m = true) (hstat : F.updStat_state.far 1 g m = true)
    (hlock : F.updLock_holder.far 1 g m = true) (s : State) (flr linkDown : Bool) :
    (s.hostRestarted flr linkDown).endHostLoad.rd g j = s.clearRings.dmaHostReset.rd g j := by
  have hrelease : sameRd g j s.clearRings.dmaHostReset s.clearRings.dmaHostReset.releaseHost := State.rd_releaseHost hj hg
  have hcount := (hrelease.resetLink (.of_far_fields Nat.one_pos hj hlink) linkDown).count (v := 1)
    (.of_far_fields Nat.one_pos hj hresets)
  have hhost : sameRd g j s.clearRings.dmaHostReset (s.hostRestarted flr linkDown) := hcount.same rfl
  exact hhost.endHostLoad (.of_far_fields Nat.one_pos hj hstat) (.of_far_fields Nat.one_pos hj hlock)

theorem State.rd_endHostReset_hostResets (s : State) (flr linkDown : Bool) :
    (s.hostRestarted flr linkDown).endHostLoad.rd F.chiefResetCause_hostResets =
      satAdd 8 (s.rd F.chiefResetCause_hostResets) 1 := by
  have hbefore : sameRd F.chiefResetCause_hostResets 0 s.clearRings.dmaHostReset
      (s.clearRings.dmaHostReset.releaseHost.resetLink linkDown) :=
    sameRd.resetLink (State.rd_releaseHost Nat.one_pos (by decide)) (.zero (by decide)) linkDown
  have hrings : s.clearRings.dmaHostReset.rd F.chiefResetCause_hostResets = s.rd F.chiefResetCause_hostResets :=
    (State.rd_dmaHostReset Nat.one_pos (by decide)).trans s.rd_clearRings_hostResets
  have hend : sameRd F.chiefResetCause_hostResets 0 (s.hostRestarted flr linkDown)
      (s.hostRestarted flr linkDown).endHostLoad := sameRd.refl.endHostLoad (.zero (by decide)) (.zero (by decide))
  refine Eq.trans hend ?_
  unfold State.hostRestarted
  rw [State.rd_withHost, State.rd_count_self (by decide) (by decide), hbefore, hrings]
  rfl

theorem State.rd_endHostReset_d3hot (s : State) (flr linkDown : Bool) :
    (s.hostRestarted flr linkDown).endHostLoad.rd F.hostStat_d3hot = 0 := by
  have hlink := s.clearRings.dmaHostReset.releaseHost.rd_resetLink_d3hot linkDown
  have hend : sameRd F.hostStat_d3hot 0 (s.hostRestarted flr linkDown) (s.hostRestarted flr linkDown).endHostLoad :=
    sameRd.refl.endHostLoad (.zero (by decide)) (.zero (by decide))
  refine Eq.trans hend ?_
  unfold State.hostRestarted State.count
  rw [State.rd_withHost, State.rd_wr_far_00 (by decide), hlink]

/-- A host reset counts itself, clears the rings and halts the DMA channels (R61, R452). -/
theorem hostReset_clears (s : State) (flr linkDown : Bool) : answers (.hostReset flr linkDown) s (fun t =>
    t.rd F.chiefResetCause_hostResets = satAdd 8 (s.rd F.chiefResetCause_hostResets) 1 ∧
    t.flag F.hostCmdCtl_cmdEn = false ∧ t.flag F.hostStat_d3hot = false ∧ t.host.flr = flr ∧
    (∀ k : Fin 6, t.flag F.ringCtl_en k = false) ∧ (∀ i : Fin 32, t.dmaState i = Ds.halted)) := by
  refine ⟨_, (exec_hostReset s flr linkDown).trans (execHostReset_eq flr linkDown s),
    s.rd_endHostReset_hostResets flr linkDown, ?_, ?_, ?_, fun k => ?_, fun i => ?_⟩
  · rw [State.flag, State.rd_endHostReset Nat.one_pos (by decide) (by decide) (by decide) (by decide) (by decide),
      State.rd_dmaHostReset Nat.one_pos (by decide), State.rd_clearRings_cmdEn]
    rfl
  · rw [State.flag, State.rd_endHostReset_d3hot]
    rfl
  · rw [State.endHostLoad_host]
    rfl
  · rw [State.flag, State.rd_endHostReset k.isLt (by decide) (by decide) (by decide) (by decide) (by decide),
      State.rd_dmaHostReset k.isLt (by decide), State.rd_clearRings_en s k.isLt]
    rfl
  · rw [State.dmaState, State.rd_endHostReset i.isLt (by decide) (by decide) (by decide) (by decide) (by decide)]
    exact State.dmaHostReset_dmaState _ i.isLt

/-- Settles O39, a lemma per clause: the contents of HBM that PARK loses read as never written (log 3 and 23). -/
theorem startParkAndHostReset : Obligations.StartParkAndHostReset := by
  unfold Obligations.StartParkAndHostReset
  exact ⟨fun _ _ _ _ _ _ _ => startupPhaseEnd_chooses_bank, fun _ _ _ _ _ _ _ => startupPhaseEnd_cuts_test,
    fun _ _ _ _ _ _ _ => startupPhaseEnd_reaches_ready, fun _ => bootTimeout_counts, fun _ => recoveryReady_readies,
    fun _ _ _ _ _ => parkStepDone_erases_token, fun _ _ _ _ _ _ => parkStepDone_parks, hostReset_clears,
    fun _ _ _ => cmdComplete_takes_dseq⟩

end Sys2Proof.Machine
end

section
/-! SUPPORT. The update lock (R522): which writes reach it. What a report leaves alone (R457). -/

namespace Sys2Proof.Machine

variable {s t : State} {c : CmdRef} {op st info : Nat}

/-! ### The lock (R522) -/

/-- The lock is read off two fields. -/
theorem State.lockHolder_congr (hheld : t.rd F.updStat_lockHeld = s.rd F.updStat_lockHeld)
    (hholder : t.rd F.updLock_holder = s.rd F.updLock_holder) : t.lockHolder = s.lockHolder := by
  unfold State.lockHolder State.flag
  rw [hheld, hholder]

/-- A write to another register leaves the lock alone. -/
theorem State.lockHolder_wr_far {f : Fld} {v : Nat} (hheld : f.far 1 F.updStat_lockHeld 1 = true)
    (hholder : f.far 1 F.updLock_holder 1 = true) : (s.wr f 0 v).lockHolder = s.lockHolder :=
  State.lockHolder_congr (State.rd_wr_far_00 hheld) (State.rd_wr_far_00 hholder)

theorem State.lockHolder_takeLock {id : Nat} (hid : id < 2 ^ 16) : (s.takeLock id).lockHolder = some id := by
  have hheld : (s.takeLock id).flag F.updStat_lockHeld = true := by
    rw [State.flag, State.takeLock, State.rd_wr_far_00 (by decide), State.rd_up_self (by decide) (by decide)]
    rfl
  have hholder : (s.takeLock id).rd F.updLock_holder = id :=
    (State.rd_wr_self _ _ _ _ (by decide)).trans (Nat.mod_eq_of_lt hid)
  rw [State.lockHolder, hheld, if_pos rfl, hholder]

theorem State.lockHolder_freeLock (s : State) : s.freeLock.lockHolder = none := by
  have hheld : s.freeLock.flag F.updStat_lockHeld = false := by
    rw [State.flag, State.freeLock, State.rd_wr_far_00 (by decide), State.rd_down_self (by decide)]
    rfl
  rw [State.lockHolder, hheld, if_neg Bool.false_ne_true]

/-- Freeing the lock writes LOCK_HELD and HOLDER alone. -/
theorem State.rd_freeLock {g : Fld} (hheld : F.updStat_lockHeld.apart g) (hholder : F.updLock_holder.far 1 g 1 = true) :
    s.freeLock.rd g = s.rd g := by
  rw [State.freeLock, State.rd_wr_far_00 hholder]
  exact State.rd_wr_apart _ _ _ _ _ _ (by decide) hheld

/-! ### What a report leaves (R457) -/

/-- A field outside LOST, the pending bits and OUTSTANDING. -/
theorem State.rd_finish_far {g : Fld} (hlost : F.chiefLogLost_count.far 1 g 1 = true)
    (hpba : F.msixPba_pending.far 1 g 1 = true) (hout : F.hostCmdOutstanding_outstanding.far 1 g 1 = true) :
    (s.finish c op st info).rd g = s.rd g :=
  congrArg g.ofWord (State.reg_finish (Fld.addr_ne hlost Nat.one_pos Nat.one_pos).symm
    (Fld.addr_ne hpba Nat.one_pos Nat.one_pos).symm (Fld.addr_ne hout Nat.one_pos Nat.one_pos).symm)

theorem State.lockHolder_finish : (s.finish c op st info).lockHolder = s.lockHolder :=
  State.lockHolder_congr (State.rd_finish_far (by decide) (by decide) (by decide))
    (State.rd_finish_far (by decide) (by decide) (by decide))

/-- A report leaves the loader and the update unit alone. -/
theorem State.finish_cfg_and_update (s : State) (c : CmdRef) (op st info : Nat) :
    (s.finish c op st info).cfg = s.cfg ∧ (s.finish c op st info).update = s.update := by
  have hlog : ∀ (t : State) args, (t.log Ev.lateDone 0x00 0 args).cfg = t.cfg ∧
      (t.log Ev.lateDone 0x00 0 args).update = t.update := by
    intro t args
    unfold State.log
    split <;> exact ⟨rfl, rfl⟩
  have hirq : ∀ t : State, (t.irq 6).cfg = t.cfg ∧ (t.irq 6).update = t.update := by
    intro t
    unfold State.irq
    split
    · exact ⟨rfl, rfl⟩
    · exact ⟨State.emit_cfg .., State.emit_update ..⟩
  unfold State.finish State.report
  split
  · exact ⟨(hirq _).1.trans (hlog _ _).1, (hirq _).2.trans (hlog _ _).2⟩
  · exact ⟨rfl, rfl⟩

end Sys2Proof.Machine
end

section
/-! SUPPORT. A load from HBM (R89, R92) and the activation of a staged set (R527 to R529), and the clauses of O37. -/

namespace Sys2Proof.Machine

variable {s : State} {c : CmdRef} {img : Image}

theorem eq_ok_of_toOption {ε α : Type} {x : Except ε α} {y : α} (h : x.toOption = some y) : x = .ok y := by
  cases x with
  | error e => cases h
  | ok z => exact congrArg _ (Option.some.inj h)

/-! ### LOAD_IMAGE opens a joint change (R22, R89) -/

/-- With all four Stewards running the joint change of a load opens (R22; that it involves all four is log 20, DESIGN
CHOICE). -/
theorem State.openJoint_load (hrun : [0, 1, 2, 3].map s.stewardState = [0, 0, 0, 0]) :
    s.openJoint .load = { s.showOpen with chief.joint := some { kind := .load } } := by
  have hst : ∀ i, s.showOpen.stewardState i = s.stewardState i :=
    State.stewardState_congr (s.reg_showOpen (by decide) (by decide) (by decide))
  simp only [List.map_cons, List.map_nil, List.cons.injEq, and_true] at hrun
  obtain ⟨h0, h1, h2, h3⟩ := hrun
  unfold State.openJoint
  extract_lets -lift +onlyGivenNames s1 s2 u absent
  have hu : u = s.showOpen := rfl
  have habsent : absent = 0 := by
    simp [absent, hu, hst, h0, h1, h2, h3]
  rw [habsent, if_neg (by decide)]
  exact congrArg (fun x : State => { x with chief.joint := some { kind := .load } }) hu

/-- Above the Chief's registers the opening writes nothing. -/
theorem State.rd_openJoint_load (hrun : [0, 1, 2, 3].map s.stewardState = [0, 0, 0, 0]) {f : Fld}
    (hf : 0x800 ≤ f.addr 0) : (s.openJoint .load).rd f = s.rd f := by
  rw [State.openJoint_load hrun, State.rd_withChief]
  exact congrArg f.ofWord (s.reg_showOpen (by omega) (by omega) (by omega))

theorem State.reg_withCfg (s : State) (x : Cfg) (a : Nat) : ({ s with cfg := x } : State).reg a = s.reg a := rfl

theorem State.rd_withCfg (s : State) (x : Cfg) (f : Fld) (i : Nat) : ({ s with cfg := x } : State).rd f i = s.rd f i := rfl

/-- The state as the checks of a load begin: the command is taken, the lock held (R522). -/
def State.loadTaken (s : State) (c : CmdRef) : State := ((s.takeCmd c).takeLock loadHolder).wr F.cfgStat_state 0 1

/-- The state as a load has passed its checks (R77, R89). -/
def State.loadPassed (s : State) (c : CmdRef) (addr len : Nat) (img : Image) : State :=
  { (s.loadTaken c).wr F.cfgStat_state 0 2 with
    cfg.reserved := img.needs, cfg.load := some { cmd := c, addr := addr, len := len, image := some img } }

/-- An image that passes the container checks and the dry pass opens its joint change (R77, R89). -/
theorem State.loadStart_of_passed {addr len : Nat} (hmode : s.mode = Md.configure) (hlock : s.lockHolder = none)
    (himg : (s.loadTaken c).checkHbm addr len = .ok img)
    (hdry : ((s.loadTaken c).wr F.cfgStat_state 0 2).dryPass img true c.stream.isNone = none) :
    s.loadStart c addr len = (s.loadPassed c addr len img).openJoint .load := by
  have hmode' : (s.takeCmd c).mode = Md.configure := hmode
  have hlock' : (s.takeCmd c).lockHolder = none := hlock
  unfold State.loadPassed
  unfold State.loadTaken at himg hdry ⊢
  unfold State.loadStart
  simp only [hmode', bne_self_eq_false, Bool.false_eq_true, if_false, hlock', himg, hdry]

/-- The checks of a load write no register of the Stewards. -/
theorem State.stewardState_loadPassed (addr len : Nat) : (s.loadPassed c addr len img).stewardState = s.stewardState := by
  refine funext (State.stewardState_congr ?_)
  unfold State.loadPassed State.loadTaken State.takeLock State.up
  rw [State.reg_withCfg, State.reg_wr_ne (by decide), State.reg_wr_ne (by decide), State.reg_wr_ne (by decide),
    State.reg_wr_ne (by decide)]
  rfl

theorem State.lockHolder_loadPassed (addr len : Nat) : (s.loadPassed c addr len img).lockHolder = some loadHolder := by
  have hcfg : (s.loadPassed c addr len img).lockHolder = ((s.loadTaken c).wr F.cfgStat_state 0 2).lockHolder :=
    State.lockHolder_congr (State.rd_withCfg ..) (State.rd_withCfg ..)
  rw [hcfg, State.loadTaken, State.lockHolder_wr_far (by decide) (by decide), State.lockHolder_wr_far (by decide) (by decide),
    State.lockHolder_takeLock (by decide)]

theorem State.rd_loadPassed_state (addr len : Nat) : (s.loadPassed c addr len img).rd F.cfgStat_state = 2 := by
  rw [State.loadPassed, State.rd_withCfg, State.rd_wr_self _ _ _ _ (by decide)]
  rfl

/-- ARGS in range begin the load at once where nothing else changes (R24, R89). -/
theorem execLoadImage_of_idle {a : BitVec 64} {n : Word} (hs : s.serves c = true) (hc : s.changing = false)
    (hw : s.chief.waiting = []) (ha : a.toNat % 64 = 0) (hn : n.toNat ≠ 0) (hmax : n.toNat ≤ imageMax)
    (hend : a.toNat + n.toNat ≤ Config.hbmBytes) : execLoadImage c a n s = .next (s.loadStart c a.toNat n.toNat) := by
  unfold execLoadImage
  rw [State.command_of_serves hs]
  simp [ha, hn, Nat.not_lt.2 hmax, Nat.not_lt.2 hend, State.queueChange_of_idle hc hw, State.modeStart]

/-- LOAD_IMAGE of an image that passes its checks opens a joint change, and holds the lock (R89, R522). -/
theorem loadImage_opens_change {a : BitVec 64} {n : Word} (hs : s.serves c = true) (hc : s.changing = false)
    (hw : s.chief.waiting = []) (hmode : s.mode = Md.configure) (hlock : s.lockHolder = none) (ha : a.toNat % 64 = 0)
    (hn : n.toNat ≠ 0) (hmax : n.toNat ≤ imageMax) (hend : a.toNat + n.toNat ≤ Config.hbmBytes)
    (himg : ((s.loadTaken c).checkHbm a.toNat n.toNat).toOption = some img)
    (hdry : ((s.loadTaken c).wr F.cfgStat_state 0 2).dryPass img true c.stream.isNone = none)
    (hrun : [0, 1, 2, 3].map s.stewardState = [0, 0, 0, 0]) : answers (.loadImage c a n) s (fun t =>
      t.cfg.load = some { cmd := c, addr := a.toNat, len := n.toNat, image := some img } ∧
      t.chief.joint = some { kind := .load } ∧ t.rd F.cfgStat_state = 2 ∧ t.lockHolder = some loadHolder) := by
  have hok : (s.loadTaken c).checkHbm a.toNat n.toNat = .ok img := eq_ok_of_toOption himg
  have hrun' : [0, 1, 2, 3].map (s.loadPassed c a.toNat n.toNat img).stewardState = [0, 0, 0, 0] := by
    rw [State.stewardState_loadPassed, hrun]
  refine ⟨(s.loadPassed c a.toNat n.toNat img).openJoint .load, ?_, ?_, ?_, ?_, ?_⟩
  · rw [exec_loadImage, execLoadImage_of_idle hs hc hw ha hn hmax hend, State.loadStart_of_passed hmode hlock hok hdry]
  · rw [State.openJoint_load hrun']
    rfl
  · rw [State.openJoint_load hrun']
  · exact (State.rd_openJoint_load hrun' (by decide)).trans (State.rd_loadPassed_state _ _)
  · exact (State.lockHolder_congr (State.rd_openJoint_load hrun' (by decide))
      (State.rd_openJoint_load hrun' (by decide))).trans (State.lockHolder_loadPassed _ _)

/-! ### The load completes (R89, R92) -/

/-- The state as a load has been applied (R89, R522). -/
def State.loadEnded (s : State) : State :=
  { (s.wr F.cfgStat_state 0 4).count F.cfgStat_loads 0 1 with cfg.load := none }.freeLock

theorem State.rd_loadEnded {g : Fld} (hheld : F.updStat_lockHeld.apart g) (hholder : F.updLock_holder.far 1 g 1 = true) :
    s.loadEnded.rd g = ((s.wr F.cfgStat_state 0 4).count F.cfgStat_loads 0 1).rd g :=
  (State.rd_freeLock hheld hholder).trans (State.rd_withCfg ..)

theorem State.rd_loadEnded_state (s : State) : s.loadEnded.rd F.cfgStat_state = 4 := by
  rw [State.rd_loadEnded (by decide) (by decide), State.count, State.rd_wr_apart _ _ _ _ _ _ (by decide) (by decide),
    State.rd_wr_self _ _ _ _ (by decide)]
  rfl

theorem State.rd_loadEnded_loads (s : State) : s.loadEnded.rd F.cfgStat_loads = satAdd 16 (s.rd F.cfgStat_loads) 1 := by
  rw [State.rd_loadEnded (by decide) (by decide), State.rd_count_self (by decide) (by decide),
    State.rd_wr_apart _ _ _ _ _ _ (by decide) (by decide)]
  rfl

theorem State.rd_loadEnded_startMode (s : State) : s.loadEnded.rd F.cfgStat_startMode = s.rd F.cfgStat_startMode := by
  rw [State.rd_loadEnded (by decide) (by decide), State.count, State.rd_wr_apart _ _ _ _ _ _ (by decide) (by decide),
    State.rd_wr_apart _ _ _ _ _ _ (by decide) (by decide)]

/-- A LOAD_IMAGE whose image starts in CONFIGURE completes without a further change (R92). -/
theorem State.enterStart_of_configure (hstart : s.rd F.cfgStat_startMode = 1) :
    s.enterStart c 0x05 = s.finish c 0x05 St.done := by
  unfold State.enterStart
  simp [hstart, Md.inspect, Md.expose]

/-- The load of an image that starts in CONFIGURE completes DONE, with the lock free (R89, R92, R522). -/
theorem loadImageDone_completes {l : Load} (hload : s.cfg.load = some l) (hjoint : s.chief.joint = none)
    (hstate : s.rd F.cfgStat_state = 3) (hstart : s.rd F.cfgStat_startMode = 1) (hs : s.serves l.cmd = true)
    (hw : s.chief.waiting = []) : answers .loadImageDone s (fun t =>
      t.cfg.load = none ∧ t.rd F.cfgStat_state = 4 ∧ t.rd F.cfgStat_loads = satAdd 16 (s.rd F.cfgStat_loads) 1 ∧
      t.lockHolder = none ∧ t.reported l.cmd 0x05 St.done = true) := by
  obtain ⟨-, hlate, -⟩ := State.serves_iff.1 hs
  have henter : s.loadEnded.enterStart l.cmd 0x05 = s.loadEnded.finish l.cmd 0x05 St.done :=
    State.enterStart_of_configure (s.rd_loadEnded_startMode.trans hstart)
  have hwait : (s.loadEnded.finish l.cmd 0x05 St.done).chief.waiting = [] := by rw [State.finish_chief]; exact hw
  refine ⟨s.loadEnded.finish l.cmd 0x05 St.done, ?_, ?_, ?_, ?_, ?_, State.reported_finish hlate⟩
  · rw [exec_loadImageDone, execLoadImageDone]
    simp only [hload, hjoint, Option.isSome_none, hstate, bne_self_eq_false, Bool.or_self, Bool.false_eq_true, if_false]
    exact congrArg _ ((congrArg State.takeWaiting henter).trans (State.takeWaiting_of_nil hwait))
  · rw [(s.loadEnded.finish_cfg_and_update _ _ _ _).1]
    rfl
  · exact (State.rd_finish_far (by decide) (by decide) (by decide)).trans s.rd_loadEnded_state
  · exact (State.rd_finish_far (by decide) (by decide) (by decide)).trans s.rd_loadEnded_loads
  · exact State.lockHolder_finish.trans (State.lockHolder_freeLock _)

/-! ### UPDATE_ACTIVATE begins an activation (R527) -/

theorem State.notPark_of_serves {op : Nat} (hs : s.serves c = true) (hmode : s.mode ≠ Md.park) (act : State → State) :
    s.notPark c op act = act s := by
  unfold State.notPark
  rw [State.command_of_serves hs, if_neg (by simpa using hmode)]

/-- The state as the service pause of an activation begins (R527, R528). -/
def State.pauseBegun (s : State) (a : Activation) : State :=
  ({ s.writeDirectory (1 - s.activeBank) true with update.activation := some a } : State).updState Us.activating

/-- A firmware-only activation whose parts and image read back well begins its pause (R527, R528). -/
theorem State.activate_firmwareOnly (hparts : (List.range 6).find? (fun i => !s.bankPartOk (1 - s.activeBank) i) = none)
    (himg : s.checkBytes (s.bankImage (1 - s.activeBank)) = .ok img) :
    s.activate c false = s.pauseBegun { cmd := c, image := none } := by
  unfold State.activate State.pauseBegun
  simp only [hparts, himg, Bool.false_eq_true, if_false]

/-- A command taken moves no byte of the flash: the staged set reads the same. -/
theorem State.bankPartOk_takeCmd (s : State) (c : CmdRef) : (s.takeCmd c).bankPartOk = s.bankPartOk := by
  funext b i
  simp only [State.bankPartOk, State.manifest_eq (t := s.takeCmd c) (s := s) rfl,
    State.flashBytes_eq (t := s.takeCmd c) (s := s) rfl]

/-- The owner's UPDATE_ACTIVATE of a staged set without a new image goes on to the read-back (R527). -/
theorem State.activateStart_firmwareOnly {x : Session} (hx : s.ownSession c = some x)
    (hstate : s.rd F.updStat_state = Us.staged)
    (hsame : (partOfType x.got 6).map (·.2.digest) = (partOfType (s.manifest s.activeBank) 6).map (·.2.digest)) :
    s.activateStart c = (s.takeCmd c).activate c false := by
  have hx' : (s.takeCmd c).ownSession c = some x := hx
  have hstate' : (s.takeCmd c).rd F.updStat_state = Us.staged := hstate
  unfold State.activateStart
  simp only [hx', hstate', State.manifest_eq (t := s.takeCmd c) (s := s) rfl,
    State.activeBank_eq (t := s.takeCmd c) (s := s) rfl, hsame, bne_self_eq_false, Bool.false_and, Bool.false_eq_true,
    if_false]

/-- UPDATE_ACTIVATE of a staged set that passes its checks begins the activation (R527, R528). -/
theorem updateActivate_begins {x : Session} (hs : s.serves c = true) (hc : s.changing = false)
    (hw : s.chief.waiting = []) (hmode : s.mode ≠ Md.park) (hx : s.ownSession c = some x)
    (hstate : s.rd F.updStat_state = Us.staged)
    (hsame : (partOfType x.got 6).map (·.2.digest) = (partOfType (s.manifest s.activeBank) 6).map (·.2.digest))
    (hparts : (List.range 6).find? (fun i => !s.bankPartOk (1 - s.activeBank) i) = none)
    (himg : (s.checkBytes (s.bankImage (1 - s.activeBank))).toOption = some img) :
    answers (.updateActivate c) s (fun t =>
      t.update.activation = some { cmd := c, image := none } ∧ t.rd F.updStat_state = Us.activating) := by
  have hflash : (s.takeCmd c).flash = s.flash := rfl
  have hparts' : (List.range 6).find? (fun i => !(s.takeCmd c).bankPartOk (1 - (s.takeCmd c).activeBank) i) = none := by
    rw [State.bankPartOk_takeCmd, State.activeBank_eq hflash, hparts]
  have himg' : (s.takeCmd c).checkBytes ((s.takeCmd c).bankImage (1 - (s.takeCmd c).activeBank)) = .ok img := by
    rw [State.bankImage_eq hflash, State.activeBank_eq hflash]
    exact eq_ok_of_toOption himg
  refine ⟨(s.takeCmd c).pauseBegun { cmd := c, image := none }, ?_, rfl, State.rd_wr_self _ _ _ _ (by decide)⟩
  rw [exec_updateActivate, execUpdateActivate, State.notPark_of_serves hs hmode, State.queueChange_of_idle hc hw]
  exact congrArg _ ((State.activateStart_firmwareOnly hx hstate hsame).trans (State.activate_firmwareOnly hparts' himg'))

/-! ### The pause ends (R528, R530) -/

/-- The update unit as a pause ends: counted, idle, with no session and the lock free (R522, R528). -/
def State.pauseEnded (s : State) : State :=
  (({ s.count (F.secCnt_count 1) 0 1 with update.activation := none, update.session := none } : State).updState
    Us.idle).freeLock

theorem State.rd_pauseEnded_state (s : State) : s.pauseEnded.rd F.updStat_state = Us.idle :=
  (State.rd_freeLock (by decide) (by decide)).trans (State.rd_wr_self _ _ _ _ (by decide))

/-- A firmware-only activation ends with its pause, its report and the erasure of the spare directory copy (R528, R530). -/
theorem execActivationDone_firmwareOnly (hact : s.update.activation = some { cmd := c, image := none })
    (hmode : s.mode ≠ Md.recovery) : execActivationDone s =
      .next (s.pauseEnded.finish c 0x62 St.done).eraseSpareDirectory.takeWaiting := by
  have hrecovery : (({ s.count (F.secCnt_count 1) 0 1 with update.activation := none, update.session := none } :
      State).updState Us.idle).mode ≠ Md.recovery := by
    refine ne_of_eq_of_ne ?_ hmode
    exact (State.rd_wr_far_00 (by decide)).trans (State.rd_wr_far_00 (f := F.secCnt_count 1) (by decide))
  unfold execActivationDone
  simp only [hact, beq_eq_false_iff_ne.2 hrecovery, Bool.false_eq_true, if_false]
  rfl

/-- An activation without a new image completes DONE, with the lock free (R522, R528). -/
theorem activationDone_completes (hact : s.update.activation = some { cmd := c, image := none })
    (hs : s.serves c = true) (hw : s.chief.waiting = []) : answers .activationDone s (fun t =>
      t.update.activation = none ∧ t.update.session = none ∧ t.lockHolder = none ∧ t.rd F.updStat_state = Us.idle ∧
      t.reported c 0x62 St.done = true) := by
  obtain ⟨-, hlate, hmode⟩ := State.serves_iff.1 hs
  let u := s.pauseEnded.finish c 0x62 St.done
  have hupdate : u.update = s.pauseEnded.update := (s.pauseEnded.finish_cfg_and_update _ _ _ _).2
  have hwait : u.eraseSpareDirectory.chief.waiting = [] := by
    change u.chief.waiting = []
    rw [State.finish_chief]
    exact hw
  refine ⟨u.eraseSpareDirectory, ?_, congrArg Update.activation hupdate, congrArg Update.session hupdate, ?_, ?_, ?_⟩
  · rw [exec_activationDone, execActivationDone_firmwareOnly hact hmode, State.takeWaiting_of_nil hwait]
  · exact State.lockHolder_finish.trans (State.lockHolder_freeLock _)
  · exact (State.rd_finish_far (s := s.pauseEnded) (by decide) (by decide) (by decide)).trans s.rd_pauseEnded_state
  · exact State.reported_finish (s := s.pauseEnded) hlate

/-- Settles O37: LOAD_IMAGE and UPDATE_ACTIVATE begin with their checks passed; the load and the activation complete. -/
theorem loadAndActivate : Obligations.LoadAndActivate :=
  ⟨fun _ _ _ _ _ => loadImage_opens_change, fun _ _ => loadImageDone_completes, fun _ _ _ _ => updateActivate_begins,
    fun _ _ => activationDone_completes⟩

end Sys2Proof.Machine
end

section
/-! SUPPORT. The serial lanes and stream ports (R94 to R118): what a lane, a port and a lane's registers read after an
update. -/

namespace Sys2Proof.Machine

variable {s t : State} {f g : Fld} {n i v : Nat}

/-! ### Lanes and ports beyond their registers -/

@[simp] theorem State.lane_setLane_self (s : State) (n : Nat) (l : Lane) : (s.setLane n l).lane n = l :=
  Sparse.get_set_self _ _ _ _

@[simp] theorem State.sport_setSport_self (s : State) (p : Nat) (x : SPort) : (s.setSport p x).sport p = x :=
  Sparse.get_set_self _ _ _ _

theorem State.lane_congr (h : t.links = s.links) (n : Nat) : t.lane n = s.lane n := by
  unfold State.lane
  rw [h]

@[simp] theorem State.lane_wr (s : State) (f : Fld) (i v n : Nat) : (s.wr f i v).lane n = s.lane n := rfl
@[simp] theorem State.lane_emit (s : State) (o : Output) (n : Nat) : (s.emit o).lane n = s.lane n :=
  State.lane_congr (s.emit_links o) n

@[simp] theorem State.rd_setLane (s : State) (n : Nat) (l : Lane) (f : Fld) (i : Nat) :
    (s.setLane n l).rd f i = s.rd f i := rfl

@[simp] theorem State.flag_setLane (s : State) (n : Nat) (l : Lane) (f : Fld) (i : Nat) :
    (s.setLane n l).flag f i = s.flag f i := rfl

/-- CREDIT of the window is shown in the registers alone (R115). -/
theorem State.sport_showCredit (s : State) (p q : Nat) : (s.showCredit p).sport q = s.sport q := by
  unfold State.showCredit
  dsimp only
  split
  · rfl
  · split <;> rfl

/-! ### Registers of a lane -/

/-- A flag reads back as written. -/
theorem State.flag_wr_b2n (b : Bool) (hf : f.fits) (hw : f.width = 1) : (s.wr f i (b2n b)).flag f i = b := by
  rw [State.flag_wr_self hf, hw]
  cases b <;> rfl

theorem State.flag_down_self (hf : f.fits) : (s.down f i).flag f i = false := by
  rw [State.flag, State.rd_down_self hf]
  rfl

/-- A flag with no bit in common keeps its value. -/
theorem State.flag_wr_apart {j : Nat} (hf : f.fits) (hfg : f.apart g) : (s.wr f i v).flag g j = s.flag g j := by
  unfold State.flag
  rw [State.rd_wr_apart _ _ _ _ _ _ hf hfg]

/-- A flag of another register keeps its value. -/
theorem State.flag_wr_far_fin {n m : Nat} {i : Fin n} {j : Fin m} (h : f.far n g m = true) :
    (s.wr f i v).flag g j = s.flag g j := congrArg (· != 0) (State.rd_wr_far_fin h)

theorem State.laneState_wr_self (hv : v < 8) : (s.wr F.laneStat_state n v).laneState n = v :=
  (State.rd_wr_self _ _ _ _ (by decide)).trans (Nat.mod_eq_of_lt hv)

theorem State.inLock_congr (h : t.laneState n = s.laneState n) : t.inLock n = s.inLock n := by
  unfold State.inLock
  rw [h]

/-- A lane's registers lie below those of the quads. -/
theorem State.laneRole_wr {n m : Fin 64} (h : f.far 64 F.laneQuadStat_role 16 = true) :
    (s.wr f n v).laneRole m = s.laneRole m := State.rd_wr_far h n.isLt (by omega)

/-- A PCIE lane's registers are locked; with `eth`, an Ethernet lane's too (R118). -/
theorem State.laneLocked_false (h : s.laneRole n ≠ Role.pcie) : s.laneLocked n false = false := by
  simp [State.laneLocked, h]

end Sys2Proof.Machine
end

section
/-! SUPPORT. Locking (R96, R99, R102, R103): one lemma per clause of O12. -/

namespace Sys2Proof.Machine

variable {s : State} {n : Fin 64} {h : BitVec 2} {p m : BitVec 64}

/-! ### Block lock (R100, R102) -/

/-- A lane as it comes into block lock: its alignment starts anew (R102). -/
def Lane.blockLocked (l : Lane) : Lane :=
  { l with good := 0, recent := [], pos := none, missing := 0, bipKnown := false, first := true, marker := none,
           fifo := [] }

/-- The 64th valid sync header in a row ends BLOCK_HUNT. -/
theorem laneBlockRx_locks (hrole : uhlusRole (s.laneRole n) = true) (hstate : s.laneState n = Ls.blockHunt)
    (hgood : (s.lane n).good = 63) (hh : h = 1 ∨ h = 2) :
    answers (.laneBlockRx n h p m) s (fun t => t.laneState n = Ls.blockLock ∧ (t.lane n).good = 0) := by
  refine ⟨(s.setLane n (s.lane n).blockLocked).wr F.laneStat_state n Ls.blockLock, ?_,
    State.laneState_wr_self (by decide), congrArg Lane.good (s.lane_setLane_self n _)⟩
  have hvalid : (h == 1 || h == 2) = true := by rcases hh with rfl | rfl <;> rfl
  rw [exec_laneBlockRx, execLaneBlockRx]
  simp only [hrole, hstate, hvalid, hgood, Bool.not_true, Bool.false_eq_true, if_false, beq_self_eq_true, if_true]
  rfl

/-- An invalid sync header in BLOCK_HUNT starts the count anew. -/
theorem laneBlockRx_restarts_count (hrole : uhlusRole (s.laneRole n) = true) (hstate : s.laneState n = Ls.blockHunt)
    (hh : h = 0 ∨ h = 3) :
    answers (.laneBlockRx n h p m) s (fun t => t.laneState n = Ls.blockHunt ∧ (t.lane n).good = 0) := by
  refine ⟨s.setLane n { s.lane n with good := 0 }, ?_, hstate, congrArg Lane.good (s.lane_setLane_self n _)⟩
  have hinvalid : (h == 1 || h == 2) = false := by rcases hh with rfl | rfl <;> rfl
  rw [exec_laneBlockRx, execLaneBlockRx]
  simp only [hrole, hstate, hinvalid, Bool.not_true, Bool.false_eq_true, if_false, beq_self_eq_true, if_true]
  rfl

/-! ### The recovered clock (R102) -/

/-- The equaliser's setting as the clock is recovered. -/
def State.equalised (s : State) (n ctle dfe : Nat) : State := (s.wr F.laneEq_ctle n ctle).wr F.laneEq_dfe n dfe

theorem State.laneRole_equalised (n : Fin 64) (ctle dfe : Nat) : (s.equalised n ctle dfe).laneRole n = s.laneRole n := by
  rw [State.equalised, State.laneRole_wr (by decide), State.laneRole_wr (by decide)]

/-- STATE written after the equaliser's setting: all three read back, whatever else of the lane has changed. -/
theorem State.equalised_shows {u : State} {ctle : BitVec 4} {dfe : BitVec 28} {st : Nat}
    (hregs : u.regs = (s.equalised n ctle.toNat dfe.toNat).regs) (hst : st < 8) :
    (u.wr F.laneStat_state n st).laneState n = st ∧ (u.wr F.laneStat_state n st).rd F.laneEq_ctle n = ctle.toNat ∧
      (u.wr F.laneStat_state n st).rd F.laneEq_dfe n = dfe.toNat := by
  have hctle : (s.equalised n ctle.toNat dfe.toNat).rd F.laneEq_ctle n = ctle.toNat := by
    rw [State.equalised, State.rd_wr_apart _ _ _ _ _ _ (by decide) (by decide), State.rd_wr_self _ _ _ _ (by decide)]
    exact Nat.mod_eq_of_lt ctle.isLt
  have hdfe : (s.equalised n ctle.toNat dfe.toNat).rd F.laneEq_dfe n = dfe.toNat :=
    (State.rd_wr_self _ _ _ _ (by decide)).trans (Nat.mod_eq_of_lt dfe.isLt)
  refine ⟨State.laneState_wr_self hst, ?_, ?_⟩
  · rw [State.rd_wr_far_fin (by decide), State.rd_congr hregs, hctle]
  · rw [State.rd_wr_far_fin (by decide), State.rd_congr hregs, hdfe]

/-- A recovered clock ends CDR_ACQ: a Uhlus lane hunts for blocks, any other is UP. -/
theorem cdrLock_ends_acquisition (ctle : BitVec 4) (dfe : BitVec 28) (hstate : s.laneState n = Ls.cdrAcq) :
    answers (.cdrLock n ctle dfe) s (fun t =>
      t.laneState n = (if uhlusRole (s.laneRole n) then Ls.blockHunt else Ls.up) ∧
      t.rd F.laneEq_ctle n = ctle.toNat ∧ t.rd F.laneEq_dfe n = dfe.toNat) := by
  have hrole := State.laneRole_equalised (s := s) n ctle.toNat dfe.toNat
  rw [answers, exec_cdrLock, execCdrLock]
  simp only [hstate, bne_self_eq_false, Bool.false_eq_true, if_false]
  change ∃ t, (if uhlusRole ((s.equalised n ctle.toNat dfe.toNat).laneRole n) then _ else _) = _ ∧ _
  rw [hrole]
  by_cases hu : uhlusRole (s.laneRole n) = true
  · rw [if_pos hu, if_pos hu]
    exact ⟨_, rfl, State.equalised_shows (s := s) (u := (s.equalised n _ _).setLane n _) rfl (by decide)⟩
  · rw [if_neg hu, if_neg hu]
    exact ⟨_, rfl, State.equalised_shows (s := s) rfl (by decide)⟩

/-- 20 ms in CDR_ACQ set ACQ_RETRY, and acquisition goes on. -/
theorem cdrAcqTimeout_retries (hstate : s.laneState n = Ls.cdrAcq) : answers (.cdrAcqTimeout n) s (fun t =>
    t.flag F.laneEvent_acqRetry n = true ∧ t.laneState n = Ls.cdrAcq) := by
  refine ⟨s.up F.laneEvent_acqRetry n, ?_, State.flag_up_self (by decide) (by decide), ?_⟩
  · rw [exec_cdrAcqTimeout, execCdrAcqTimeout, hstate]
    rfl
  · exact (State.rd_wr_far_fin (by decide)).trans hstate

/-- A lane that falls back is in the state it falls to (R102). -/
theorem State.laneState_laneFalls (s : State) (n : Nat) {st : Nat} (h : st < 8) : (s.laneFalls n st).laneState n = st :=
  State.laneState_wr_self h

/-- A clock lost in lock returns the lane to CDR_ACQ. -/
theorem cdrLost_returns (hlock : s.inLock n = true) : answers (.cdrLost n) s (fun t =>
    t.laneState n = Ls.cdrAcq ∧ t.flag F.laneEvent_cdrLost n = true) := by
  rw [answers, exec_cdrLost, execCdrLost]
  simp only [hlock, Bool.not_true, Bool.false_eq_true, if_false]
  exact ⟨_, rfl, (State.rd_wr_far_fin (by decide)).trans (State.laneState_laneFalls _ _ (by decide)),
    State.flag_up_self (by decide) (by decide)⟩

/-- RELOCK returns a running lane that is not locked to CDR_ACQ (R102, R118). -/
theorem laneRelock_returns (hrole : s.laneRole n ≠ Role.pcie) (hstate : s.laneState n ∉ [Ls.off, Ls.prbs, Ls.loopback]) :
    answers (.laneRelock n) s (fun t => t.laneState n = Ls.cdrAcq) := by
  simp only [List.mem_cons, List.not_mem_nil, or_false, not_or] at hstate
  obtain ⟨hoff, hprbs, hloop⟩ := hstate
  rw [answers, exec_laneRelock, execLaneRelock]
  simp only [State.laneLocked_false hrole, beq_eq_false_iff_ne.2 hoff, beq_eq_false_iff_ne.2 hprbs,
    beq_eq_false_iff_ne.2 hloop, Bool.or_self, Bool.false_eq_true, if_false]
  exact ⟨_, rfl, State.laneState_laneFalls _ _ (by decide)⟩

/-! ### Reference clocks (R96) -/

/-- A lane that leaves OFF changes its own STATE alone. -/
theorem sameRd.laneStart {s0 : State} {g : Fld} {j k : Nat} (h : sameRd g j s0 s) (hk : F.laneStat_state.misses k g j) :
    sameRd g j s0 (s.laneStart k) := h.andIf (fun h => h.wr hk)

/-- The start of a quad's lanes leaves the flags of the quads alone. -/
theorem State.flag_startLanes (s : State) {f : Fld} (q : Fin 16) (hf : F.laneStat_state.far 64 f 16 = true) :
    (forN 4 (fun i s => s.laneStart (4 * q + i)) s).flag f q = s.flag f q :=
  congrArg (· != 0) (sameRd.refl.forN (fun _ _ hi h => h.laneStart (.of_far_fields (by omega) q.isLt hf)))

/-- A reference that comes back is shown by REFCLK_OK and PLL_LOCK. -/
theorem refclkChange_shows {q : Fin 16} (hrole : s.rd F.laneQuadStat_role q ≠ 0) (href : (s.quad q).refclk = 1) :
    answers (.refclkChange q true) s (fun t =>
      t.flag F.laneQuadStat_refclkOk q = true ∧ t.flag F.laneQuadStat_pllLock q = true) := by
  refine ⟨s.refclk q true, ?_, ?_, ?_⟩
  · rw [exec_refclkChange, execRefclkChange]
    simp only [beq_eq_false_iff_ne.2 hrole, href, bne_self_eq_false, Bool.or_self, Bool.false_eq_true, if_false]
  · exact (State.flag_startLanes _ q (by decide)).trans
      ((State.flag_wr_apart (by decide) (by decide)).trans (State.flag_wr_b2n true (by decide) rfl))
  · exact (State.flag_startLanes _ q (by decide)).trans (State.flag_wr_b2n true (by decide) rfl)

/-! ### Markers sent (R103) -/

/-- Each ALIGN sent takes the next AM_COUNT. -/
theorem alignTx_counts (bip : BitVec 8) (hrole : uhlusRole (s.laneRole n) = true) (hused : s.laneUsed n = true)
    (hsquelch : s.flag F.laneCtl_squelch n = false) (href : s.flag F.laneQuadStat_refclkOk (n / 4) = true) :
    answers (.alignTx n bip) s (fun t => (t.lane n).amCount = ((s.lane n).amCount + 1) % 65536) := by
  rw [answers, exec_alignTx, execAlignTx]
  simp only [hrole, hused, hsquelch, href, Bool.not_true, Bool.or_self, Bool.false_eq_true, if_false]
  exact ⟨_, rfl, by simp⟩

/-- Settles O12: each clause is one command on one lane or quad. Of a reference that comes back the clause says what
LANE_QUAD_STAT shows; CTLE and DFE come with CDR_LOCK (log 34), and the BIP of an ALIGN with ALIGN_TX (log 32). -/
theorem lanesLock : Obligations.LanesLock :=
  ⟨fun _ _ _ _ _ => laneBlockRx_locks, fun _ _ _ _ _ => laneBlockRx_restarts_count,
    fun _ _ => cdrLock_ends_acquisition, fun _ _ => cdrAcqTimeout_retries, fun _ _ => cdrLost_returns,
    fun _ _ => laneRelock_returns, fun _ _ => refclkChange_shows, fun _ _ => alignTx_counts⟩

end Sys2Proof.Machine
end

section
/-! SUPPORT. Transmit delay, probes and round trips (R110 to R112): one lemma per clause of O13. -/

namespace Sys2Proof.Machine

variable {s : State} {n : Fin 64} {r : ProbeRun}

/-! ### Transmit delay (R112) -/

/-- TAP reads back past SLEWING. -/
theorem State.rd_tap_set {x y : Nat} (hx : x < 2 ^ 13) :
    ((s.wr F.laneTxDelay_tap n x).wr F.laneTxDelay_slewing n y).rd F.laneTxDelay_tap n = x := by
  rw [State.rd_wr_apart _ _ _ _ _ _ (by decide) (by decide), State.rd_wr_self _ _ _ _ (by decide)]
  exact Nat.mod_eq_of_lt hx

/-- TAP is held within 0 to 4,223. -/
theorem laneTxDelayWrite_holds_tap (v : Word) (hlock : s.laneLocked n true = false) :
    answers (.laneTxDelayWrite n v) s (fun t => t.rd F.laneTxDelay_tap n = min 4223 (F.laneTxDelay_tap.ofWord v)) := by
  have htap : min 4223 (F.laneTxDelay_tap.ofWord v) < 2 ^ 13 := Nat.lt_of_le_of_lt (Nat.min_le_left _ _) (by decide)
  rw [answers, exec_laneTxDelayWrite, execLaneTxDelayWrite, hlock]
  refine ⟨_, rfl, ?_⟩
  rw [State.rd_tap_set htap]

/-- The output phase one step nearer to `tap`. -/
def slewPhase (phase tap : Nat) : Nat := if phase < tap then phase + 1 else if tap < phase then phase - 1 else phase

theorem slewPhase_of_lt {phase tap : Nat} (h : phase < tap) : slewPhase phase tap = phase + 1 := if_pos h

theorem slewPhase_of_gt {phase tap : Nat} (h : tap < phase) : slewPhase phase tap + 1 = phase := by
  rw [slewPhase, if_neg (by omega), if_pos h]
  omega

/-- The state with a lane's output phase, and SLEWING shown against TAP. -/
def State.phaseSet (s : State) (n phase : Nat) : State :=
  (s.setLane n { s.lane n with phase := phase }).wr F.laneTxDelay_slewing n (b2n (phase != s.rd F.laneTxDelay_tap n))

theorem State.lane_phaseSet (s : State) (n phase : Nat) : ((s.phaseSet n phase).lane n).phase = phase := by
  rw [State.phaseSet, State.lane_wr, State.lane_setLane_self]

theorem State.rd_phaseSet_tap (s : State) (n phase : Nat) :
    (s.phaseSet n phase).rd F.laneTxDelay_tap n = s.rd F.laneTxDelay_tap n :=
  State.rd_wr_apart _ _ _ _ _ _ (by decide) (by decide)

theorem State.flag_phaseSet_slewing (s : State) (n phase : Nat) :
    (s.phaseSet n phase).flag F.laneTxDelay_slewing n = (phase != s.rd F.laneTxDelay_tap n) :=
  State.flag_wr_b2n _ (by decide) rfl

theorem exec_tapSlewStep_eq (s : State) (n : Fin 64) : exec (.tapSlewStep n) s =
    .next (s.phaseSet n (slewPhase (s.lane n).phase (s.rd F.laneTxDelay_tap n))) := rfl

/-- The output phase moves one tap towards TAP, and SLEWING stays while it differs. -/
theorem tapSlewStep_moves_one_tap (s : State) (n : Fin 64) : answers (.tapSlewStep n) s (fun t =>
    ((s.lane n).phase < s.rd F.laneTxDelay_tap n → (t.lane n).phase = (s.lane n).phase + 1) ∧
    (s.rd F.laneTxDelay_tap n < (s.lane n).phase → (t.lane n).phase + 1 = (s.lane n).phase) ∧
    (t.flag F.laneTxDelay_slewing n = true ↔ (t.lane n).phase ≠ t.rd F.laneTxDelay_tap n)) := by
  refine ⟨_, exec_tapSlewStep_eq s n, ?_⟩
  dsimp only
  rw [State.lane_phaseSet, State.rd_phaseSet_tap, State.flag_phaseSet_slewing]
  exact ⟨slewPhase_of_lt, slewPhase_of_gt, bne_iff_ne⟩

/-! ### Measurements (R110) -/

theorem probeCount_pos (c : Nat) : 0 < probeCount c := by
  unfold probeCount
  split
  · decide
  · next h => simp only [Bool.or_eq_true, beq_iff_eq, decide_eq_true_eq, not_or] at h; omega

theorem probeCount_le (c : Nat) : probeCount c ≤ 64 := by
  unfold probeCount
  split
  · exact Nat.le_refl _
  · next h => simp only [Bool.or_eq_true, beq_iff_eq, decide_eq_true_eq, not_or] at h; omega

/-- START begins a measurement of COUNT probes on a lane whose bond is UP. -/
theorem laneProbeStart_begins {v : Word} (hlock : s.laneLocked n true = false)
    (hstart : F.laneProbeCtl_start.ofWord v = 1) (hbusy : s.flag F.laneProbeCtl_busy n = false)
    (hup : s.flag F.laneStat_bondUp n = true) :
    answers (.laneProbeStart n v) s (fun t => t.flag F.laneProbeCtl_busy n = true ∧
      t.rd F.laneProbeCtl_count n = probeCount (F.laneProbeCtl_count.ofWord v) ∧
      (t.lane n).probe = some ⟨0, [], 0, 0⟩) := by
  have hcount : (s.wr F.laneProbeCtl_count n (probeCount (F.laneProbeCtl_count.ofWord v))).rd F.laneProbeCtl_count n =
      probeCount (F.laneProbeCtl_count.ofWord v) :=
    (State.rd_wr_self _ _ _ _ (by decide)).trans (Nat.mod_eq_of_lt (Nat.lt_of_le_of_lt (probeCount_le _) (by decide)))
  have hstart' : (F.laneProbeCtl_start.ofWord v == 0) = false := by rw [hstart]; rfl
  rw [answers, exec_laneProbeStart, execLaneProbeStart]
  simp (disch := decide) only [hlock, hstart', hbusy, hup, State.flag_wr_apart, State.flag_wr_far_fin,
    Bool.not_true, Bool.or_self, Bool.false_eq_true, if_false]
  refine ⟨_, rfl, ?_, ?_, congrArg Lane.probe (State.lane_setLane_self _ _ _)⟩
  · rw [State.flag_setLane, State.flag_up_self (by decide) (by decide)]
  · rw [State.rd_setLane, State.up, State.rd_wr_apart _ _ _ _ _ _ (by decide) (by decide), hcount]

/-- Each PROBE sent takes the next number, and waits for its ECHO. -/
theorem probeTx_sends_next (hrun : (s.lane n).probe = some r)
    (hsent : r.sent < probeCount (s.rd F.laneProbeCtl_count n)) : answers (.probeTx n) s (fun t =>
      (t.lane n).nextProbe = ((s.lane n).nextProbe + 1) % 65536 ∧
      (t.lane n).probe = some { r with sent := r.sent + 1, open_ := r.open_ ++ [(s.lane n).nextProbe] }) := by
  rw [answers, exec_probeTx, execProbeTx]
  simp only [hrun, Nat.not_le.2 hsent, if_false]
  exact ⟨_, rfl, by simp⟩

/-- An ECHO of an open PROBE within 100 µs is added to the measurement. -/
theorem echoRx_takes_echo {id : BitVec 16} (turn : BitVec 16) {taps : Nat} (hrun : (s.lane n).probe = some r)
    (hopen : id.toNat ∈ r.open_) (htaps : taps ≤ 64 * s.rate n) : answers (.echoRx n id turn taps) s (fun t =>
      (t.lane n).probe = some { r with
        open_ := r.open_.filter (· != id.toNat), matched := r.matched + 1, total := r.total + taps } ∧
      t.rd F.laneTurn_value n = turn.toNat) := by
  have hcontains : r.open_.contains id.toNat = true := List.contains_iff_mem.2 hopen
  rw [answers, exec_echoRx, execEchoRx, State.echo]
  simp only [hrun, hcontains, Bool.not_true, Bool.false_or, decide_eq_false (Nat.not_lt.2 htaps), Bool.false_eq_true,
    if_false]
  refine ⟨_, rfl, by simp, (State.rd_wr_self _ _ _ _ (by decide)).trans (Nat.mod_eq_of_lt ?_)⟩
  exact Nat.lt_of_lt_of_le turn.isLt (by decide)

/-- What a measurement shows as it ends with an ECHO for some of its probes. -/
def State.probeShown (s : State) (n : Nat) (r : ProbeRun) : State :=
  (((s.setLane n { s.lane n with probe := none }).down F.laneProbeCtl_busy n).wr F.laneProbeCtl_matched n r.matched).wr
    F.laneRtt_value n (r.total / r.matched)

/-- Every probe answered: the measurement ends with PROBE_DONE. -/
theorem execProbeWindowEnd_of_all (hrun : (s.lane n).probe = some r)
    (hall : r.matched = probeCount (s.rd F.laneProbeCtl_count n)) :
    execProbeWindowEnd n s = .next ((s.probeShown n r).up F.laneEvent_probeDone n) := by
  have hsome : (r.matched == 0) = false := beq_eq_false_iff_ne.2 (hall.trans_ne (probeCount_pos _).ne')
  have hcount : (s.probeShown n r).rd F.laneProbeCtl_count n = s.rd F.laneProbeCtl_count n := by
    unfold State.probeShown State.down
    rw [State.rd_wr_far_fin (by decide), State.rd_wr_apart _ _ _ _ _ _ (by decide) (by decide),
      State.rd_wr_apart _ _ _ _ _ _ (by decide) (by decide), State.rd_setLane]
  unfold execProbeWindowEnd
  simp only [hrun, hsome, Bool.false_eq_true, if_false]
  change (if r.matched < probeCount ((s.probeShown n r).rd F.laneProbeCtl_count n) then _ else _) = _
  rw [hcount, if_neg (by omega)]
  rfl

/-- A measurement whose probes are all answered shows MATCHED and the mean round trip. -/
theorem probeWindowEnd_shows_mean (hrun : (s.lane n).probe = some r)
    (hall : r.matched = probeCount (s.rd F.laneProbeCtl_count n)) :
    answers (.probeWindowEnd n) s (fun t => t.rd F.laneProbeCtl_matched n = r.matched ∧
      t.rd F.laneRtt_value n = r.total / r.matched % 2 ^ 32 ∧ t.flag F.laneEvent_probeDone n = true ∧
      t.flag F.laneProbeCtl_busy n = false) := by
  have hle : r.matched ≤ 64 := hall.trans_le (probeCount_le _)
  refine ⟨_, execProbeWindowEnd_of_all hrun hall, ?_, ?_, State.flag_up_self (by decide) (by decide), ?_⟩
  · unfold State.probeShown State.up
    rw [State.rd_wr_far_fin (by decide), State.rd_wr_far_fin (by decide), State.rd_wr_self _ _ _ _ (by decide)]
    exact Nat.mod_eq_of_lt (Nat.lt_of_le_of_lt hle (by decide))
  · exact (State.rd_wr_far_fin (by decide)).trans (State.rd_wr_self _ _ _ _ (by decide))
  · unfold State.probeShown State.up State.flag
    rw [State.rd_wr_far_fin (by decide), State.rd_wr_far_fin (by decide),
      State.rd_wr_apart _ _ _ _ _ _ (by decide) (by decide), State.rd_down_self (by decide)]
    rfl

/-- A PROBE is answered with TURN = 2,640 UI (R111). -/
theorem probeRx_answers (id : BitVec 16) (hdrive : s.chief.tristate = false) : answers (.probeRx n id) s (fun t =>
    Output.block n true (ctrlBlock (leBytes 1 0x87 ++ leBytes 2 id.toNat ++ leBytes 2 2640)) ∈ t.out) := by
  refine ⟨_, rfl, ?_⟩
  change _ ∈ (s.emit _).out
  rw [State.emit_out_driven hdrive]
  exact List.mem_append_right _ (List.mem_singleton_self _)

/-- Settles O13: each clause is one command on one lane. That an ECHO is measured against 100 µs of the lane's bits, and
that PROBE_IDs run on through measurements, is the model's reading (log 33). -/
theorem delayAndRoundTrips : Obligations.DelayAndRoundTrips :=
  ⟨fun _ _ => laneTxDelayWrite_holds_tap, tapSlewStep_moves_one_tap, fun _ _ _ => laneProbeStart_begins,
    fun _ _ _ => probeTx_sends_next, fun _ _ _ turn _ _ => echoRx_takes_echo turn, fun _ _ _ => probeWindowEnd_shows_mean,
    fun _ _ => probeRx_answers⟩

end Sys2Proof.Machine
end

section
/-! SUPPORT. Credits, margin scans and PRBS (R115 to R117): one lemma per clause of O14. -/

namespace Sys2Proof.Machine

variable {s : State} {n : Fin 64} {p : Fin 1024}

/-! ### Credits (R115) -/

/-- A sender takes the LIMIT that a CREDIT block brings. -/
theorem creditRx_takes_limit (limit : BitVec 16) (hactive : s.sportActive p = true) (hsends : s.sportSends p = true) :
    answers (.creditRx n p limit) s (fun t => (t.sport p).limit = limit.toNat) := by
  obtain ⟨hfc, -⟩ := Bool.and_eq_true_iff.1 hsends
  rw [answers, exec_creditRx, execCreditRx, State.creditRx]
  simp only [hactive, hfc, hsends, Bool.not_true, Bool.or_self, Bool.false_eq_true, if_false, if_true]
  refine ⟨_, rfl, ?_⟩
  rw [State.takeLimit, State.sport_showCredit, State.sport_setSport_self]
  exact Nat.mod_eq_of_lt limit.isLt

/-- An active receiver sends its own LIMIT on the lane of its port. -/
theorem creditTx_sends_limit (hactive : s.sportActive p = true) (hfc : s.flag F.sportCfg_fc p = true)
    (hdir : s.flag F.sportCfg_dir p = false) (hup : s.flag F.laneStat_bondUp (s.rd F.sportCfg_lane p) = true)
    (hdrive : s.chief.tristate = false) : answers (.creditTx p) s (fun t =>
      Output.block (s.rd F.sportCfg_lane p) true (ctrlBlock (leBytes 1 0x2D ++ leBytes 2 p ++ leBytes 2 (s.limitOf p)))
        ∈ t.out) := by
  rw [answers, exec_creditTx, execCreditTx]
  simp only [hactive, hfc, hdir, hup, Bool.not_true, Bool.or_self, Bool.false_eq_true, if_false]
  refine ⟨_, rfl, ?_⟩
  rw [State.emit_out_driven hdrive]
  exact List.mem_append_right _ (List.mem_singleton_self _)

/-! ### Margin scans (R116) -/

/-- The state with the setting of a margin scan written. -/
def State.marginSet (s : State) (n : Nat) (v : Word) : State :=
  ((s.wr F.laneMarginCtl_phase n (F.laneMarginCtl_phase.ofWord v)).wr F.laneMarginCtl_voff n
    (F.laneMarginCtl_voff.ofWord v)).wr F.laneMarginCtl_dwell n (F.laneMarginCtl_dwell.ofWord v)

theorem State.laneState_marginSet (n : Fin 64) (v : Word) : (s.marginSet n v).laneState n = s.laneState n := by
  unfold State.marginSet State.laneState
  simp (disch := decide) only [State.rd_wr_far_fin]

theorem State.rd_marginSet_dwell (v : Word) : (s.marginSet n v).rd F.laneMarginCtl_dwell n = F.laneMarginCtl_dwell.ofWord v :=
  (State.rd_wr_self _ _ _ _ (by decide)).trans (Nat.mod_eq_of_lt (bits_lt _ _ _))

/-- The registers of a lane as a margin scan begins. -/
def State.marginCleared (s : State) (n : Nat) (v : Word) : State :=
  ((s.marginSet n v).down F.laneMarginRes_done n).down F.laneMarginRes_abort n

/-- START on a lane in lock begins a scan. -/
theorem execMarginStart_of_inLock {v : Word} (hrole : s.laneRole n ≠ Role.pcie)
    (hstart : F.laneMarginCtl_start.ofWord v = 1) (hlock : s.inLock n = true) : execMarginStart n v s =
      .next ((s.marginCleared n v).setLane n { (s.marginCleared n v).lane n with margin := true }) := by
  have hstart' : (F.laneMarginCtl_start.ofWord v == 0) = false := by rw [hstart]; rfl
  have hlock' : (s.marginSet n v).inLock n = true := (State.inLock_congr (State.laneState_marginSet n v)).trans hlock
  rw [State.marginSet] at hlock'
  unfold execMarginStart
  simp only [State.laneLocked_false hrole, hstart', hlock', Bool.not_true, Bool.or_self, Bool.false_eq_true, if_false]
  rfl

/-- A margin scan starts in lock. -/
theorem marginStart_starts_scan {v : Word} (hrole : s.laneRole n ≠ Role.pcie)
    (hstart : F.laneMarginCtl_start.ofWord v = 1) (hlock : s.inLock n = true) : answers (.marginStart n v) s (fun t =>
      (t.lane n).margin = true ∧ t.flag F.laneMarginRes_done n = false ∧
      t.rd F.laneMarginCtl_dwell n = F.laneMarginCtl_dwell.ofWord v) := by
  refine ⟨_, execMarginStart_of_inLock hrole hstart hlock, congrArg Lane.margin (State.lane_setLane_self _ _ _), ?_, ?_⟩
  · rw [State.flag_setLane]
    exact (State.flag_wr_apart (by decide) (by decide)).trans (State.flag_down_self (by decide))
  · rw [State.rd_setLane, State.marginCleared, State.down, State.down, State.rd_wr_far_fin (by decide),
      State.rd_wr_far_fin (by decide), State.rd_marginSet_dwell]

/-- A margin scan ends with its errors, DONE in lock and ABORT out of it. -/
theorem marginDone_shows_errors (errors : Nat) (hscan : (s.lane n).margin = true) :
    answers (.marginDone n errors) s (fun t =>
      t.rd F.laneMarginRes_errors n = min errors (2 ^ 24 - 1) ∧ t.flag F.laneMarginRes_done n = s.inLock n ∧
      t.flag F.laneMarginRes_abort n = !s.inLock n ∧ t.flag F.laneEvent_marginDone n = true) := by
  have herrors : min errors (2 ^ 24 - 1) < 2 ^ 24 := Nat.lt_of_le_of_lt (Nat.min_le_right _ _) (by decide)
  rw [answers, exec_marginDone, execMarginDone]
  simp only [hscan, Bool.not_true, Bool.false_eq_true, if_false]
  refine ⟨_, rfl, ?_, ?_, ?_, State.flag_up_self (by decide) (by decide)⟩
  · rw [State.up, State.rd_wr_far_fin (by decide), State.rd_wr_apart _ _ _ _ _ _ (by decide) (by decide),
      State.rd_wr_apart _ _ _ _ _ _ (by decide) (by decide), State.rd_wr_self _ _ _ _ (by decide)]
    exact Nat.mod_eq_of_lt herrors
  · rw [State.up, State.flag_wr_far_fin (by decide), State.flag_wr_apart (by decide) (by decide),
      State.flag_wr_b2n _ (by decide) rfl]
  · rw [State.up, State.flag_wr_far_fin (by decide), State.flag_wr_b2n _ (by decide) rfl]

/-! ### PRBS (R117) -/

/-- The patterns that run are neither 0 nor above 5. -/
theorem pattern_runs {x : Nat} (h : x ∈ [1, 2, 3, 4, 5]) : (x == 0 || decide (5 < x)) = false := by
  simp only [List.mem_cons, List.not_mem_nil, or_false] at h
  rcases h with rfl | rfl | rfl | rfl | rfl <;> rfl

/-- One transmitted bit of a running pattern is inverted. -/
theorem prbsInject_inverts (hfree : s.prbsRefused n = none) (hpat : s.rd F.lanePrbsCtl_txPat n ∈ [1, 2, 3, 4, 5])
    (hdrive : s.chief.tristate = false) :
    answers (.prbsInject n) s (fun t => t.out = s.out ++ [Output.prbsInverted n]) := by
  rw [answers, exec_prbsInject, execPrbsInject]
  simp only [hfree, pattern_runs hpat, Bool.false_eq_true, if_false]
  exact ⟨_, rfl, State.emit_out_driven hdrive⟩

/-- The halves of the bit count are two registers. -/
theorem prbsBits_addr_ne (n : Fin 64) : F.lanePrbsBitsLo_value.addr n ≠ F.lanePrbsBitsHi_value.addr n :=
  Fld.addr_ne (n := 64) (m := 64) (by decide) n.isLt n.isLt

/-- A write of the bit count leaves the error count alone. -/
theorem State.rd_wr64_prbsErr (v : Nat) :
    (s.wr64 F.lanePrbsBitsLo_value F.lanePrbsBitsHi_value n v).rd F.lanePrbsErr_value n = s.rd F.lanePrbsErr_value n := by
  rw [State.wr64, State.rd_wr_far_fin (by decide), State.rd_wr_far_fin (by decide)]

/-- The error and bit counts are cleared. -/
theorem prbsClear_clears (hfree : s.prbsRefused n = none) : answers (.prbsClear n) s (fun t =>
    t.rd F.lanePrbsErr_value n = 0 ∧ t.rd64 F.lanePrbsBitsLo_value F.lanePrbsBitsHi_value n = 0) := by
  rw [answers, exec_prbsClear, execPrbsClear]
  simp only [hfree]
  refine ⟨_, rfl, ?_, State.rd64_wr64_self (by decide) (by decide) rfl rfl (by decide) (prbsBits_addr_ne n)⟩
  rw [State.rd_wr64_prbsErr]
  exact State.rd_down_self (by decide)

/-- The error count after a bit at a synchronised checker. -/
theorem State.rd_prbsBit_err (err : Bool) (hsync : s.flag F.lanePrbsCtl_rxSync n = true) :
    (s.prbsBit n err).rd F.lanePrbsErr_value n =
      if err then satAdd 32 (s.rd F.lanePrbsErr_value n) 1 else s.rd F.lanePrbsErr_value n := by
  have hcount : (if err then s.count F.lanePrbsErr_value n 1 else s).rd F.lanePrbsErr_value n =
      if err then satAdd 32 (s.rd F.lanePrbsErr_value n) 1 else s.rd F.lanePrbsErr_value n := by
    cases err
    · rfl
    · exact State.rd_count_self (by decide) (by decide)
  unfold State.prbsBit
  simp only [hsync, Bool.not_true, Bool.false_eq_true, if_false]
  split
  · rw [State.down, State.rd_wr_far_fin (by decide), State.rd_setLane, State.rd_wr64_prbsErr, hcount]
  · rw [State.rd_setLane, State.rd_wr64_prbsErr, hcount]

/-- A wrong bit at a synchronised checker of a running pattern is counted, a right one is not. -/
theorem prbsCheck_counts_error (err : Bool) (hmode : s.mode = Md.maintain)
    (hpat : s.rd F.lanePrbsCtl_rxPat n ∈ [1, 2, 3, 4, 5]) (hsync : s.flag F.lanePrbsCtl_rxSync n = true) :
    answers (.prbsCheck n [err]) s (fun t => t.rd F.lanePrbsErr_value n =
      (if err then satAdd 32 (s.rd F.lanePrbsErr_value n) 1 else s.rd F.lanePrbsErr_value n)) := by
  refine ⟨s.prbsBit n err, ?_, State.rd_prbsBit_err err hsync⟩
  rw [exec_prbsCheck, execPrbsCheck]
  simp only [hmode, bne_self_eq_false, Bool.false_or, pattern_runs hpat, Bool.false_eq_true, if_false]
  rfl

/-- Settles O14: each clause is one command on one lane or port. The buffers in a receiver's LIMIT are the model's (log
31); the bits of a PRBS come with PRBS_CHECK (log 34). -/
theorem creditsMarginsPrbs : Obligations.CreditsMarginsPrbs :=
  ⟨fun _ _ _ => creditRx_takes_limit, fun _ _ => creditTx_sends_limit, fun _ _ _ => marginStart_starts_scan,
    fun _ _ => marginDone_shows_errors, fun _ _ => prbsInject_inverts, fun _ _ => prbsClear_clears,
    fun _ _ => prbsCheck_counts_error⟩

end Sys2Proof.Machine
end

section
/-! SUPPORT. Writes that leave a field alone, be they of another register or of other bits, and pairs written by their
HI half (R13). -/

namespace Sys2Proof.Machine

variable {s s0 t : State} {f g lo hi : Fld} {n m i j k v : Nat}

/-! ### Writes beside a field -/

/-- The registers of `f` are not those of `g`, or the fields have no bit in common. -/
def Fld.clearOf (f : Fld) (n : Nat) (g : Fld) (m : Nat) : Bool := f.far n g m || decide (f.fits ∧ f.apart g)

theorem State.rd_wr_clearOf (h : f.clearOf n g m = true) (hi : i < n) (hj : j < m) :
    (s.wr f i v).rd g j = s.rd g j := by
  rcases Bool.or_eq_true_iff.1 h with h | h
  · exact State.rd_wr_far h hi hj
  · obtain ⟨hf, hfg⟩ := of_decide_eq_true h
    exact State.rd_wr_apart _ _ _ _ _ _ hf hfg

theorem sameRd.wrClearOf (h : sameRd g j s0 s) (hf : f.clearOf n g m = true) (hk : k < n) (hj : j < m) :
    sameRd g j s0 (s.wr f k v) := (State.rd_wr_clearOf hf hk hj).trans h

theorem State.flag_congr (h : sameRd g j s t) : t.flag g j = s.flag g j := congrArg (· != 0) h

/-! ### Pairs -/

theorem State.stagedLo_lt (hlo : lo.width = 32) : s.stagedLo lo i < 2 ^ 32 := by
  unfold State.stagedLo
  split
  · exact BitVec.isLt _
  · exact hlo ▸ State.rd_lt s lo i

/-- A pair reads back as its HI write brought it (R13). -/
theorem State.rd64_commitPair (w : Word) (hlo : lo.fits) (hhi : hi.fits) (wlo : lo.width = 32) (whi : hi.width = 32)
    (hne : lo.addr i ≠ hi.addr i) : (s.commitPair lo hi i w).rd64 lo hi i = s.pairValue lo i w := by
  unfold State.rd64 State.commitPair State.pairValue
  rw [State.rd_wr_self _ hi i _ hhi, State.rd_wr_ne _ hi lo i i _ hne, State.rd_wr_self _ lo i _ hlo, wlo, whi,
    Nat.mod_eq_of_lt (State.stagedLo_lt wlo), Nat.mod_eq_of_lt w.isLt]

end Sys2Proof.Machine
end

section
/-! SUPPORT. The position axes (R119 to R130): one lemma per clause of O7. -/

namespace Sys2Proof.Machine

variable {s t : State} {a : Fin 8}

/-! ### Axes beyond their registers -/

@[simp] theorem State.axis_setAxis_self (s : State) (a : Nat) (x : Axis) : (s.setAxis a x).axis a = x :=
  Sparse.get_set_self _ _ _ _

theorem State.axis_congr (h : t.axes = s.axes) (a : Nat) : t.axis a = s.axis a := by
  unfold State.axis
  rw [h]

theorem State.regs_countStep (s : State) (a : Nat) (n : Int) : (s.countStep a n).regs = s.regs := by
  unfold State.countStep
  split <;> rfl

/-! ### Quadrature (R121, R122) -/

theorem quadPhase_lt (ab : Nat) : quadPhase ab < 4 := by
  rcases Nat.lt_or_ge ab 4 with h | h
  · interval_cases ab <;> decide
  · rw [quadPhase, List.getD_eq_default _ _ h]
    decide

/-- The next (A, B) of the forward sequence counts one up. -/
theorem State.axisMove_forward {a old new : Nat} (x : Axis) (hrev : s.flag F.posCtl_reverse a = false)
    (hphase : quadPhase (new % 4) = (quadPhase (old % 4) + 1) % 4) : s.axisMove a 1 old new x = s.axisCount a 1 := by
  have hstep : (quadPhase (new % 4) + 4 - quadPhase (old % 4)) % 4 = 1 := by
    have := quadPhase_lt (old % 4)
    omega
  unfold State.axisMove
  simp only [hstep, hrev, beq_self_eq_true, if_true]
  rfl

/-- POS_COUNT moved by `n`, and the Reel's measurement of it (R122, R132). -/
def State.counted (s : State) (a : Nat) (n : Int) : State :=
  (s.wr F.posCount_value a (unsigned 32 (signed 32 (s.rd F.posCount_value a) + n))).countStep a n

/-- A count writes POS_COUNT, and beside it DIR and DIR_EVENT alone. -/
theorem State.rd_axisCount {g : Fld} (n : Int) (hdir : F.posStat_dir.clearOf 8 g 8 = true)
    (hevent : F.posStat_dirEvent.clearOf 8 g 8 = true) : (s.axisCount a n).1.rd g a =
      (s.wr F.posCount_value a (unsigned 32 (signed 32 (s.rd F.posCount_value a) + n))).rd g a := by
  have hstep : sameRd g a (s.wr F.posCount_value a (unsigned 32 (signed 32 (s.rd F.posCount_value a) + n)))
      (s.counted a n) := sameRd.refl.same (State.regs_countStep _ _ _)
  unfold State.axisCount
  dsimp only
  split
  · exact hstep
  · split
    · exact hstep
    · exact (hstep.wrClearOf hdir a.isLt a.isLt).wrClearOf hevent a.isLt a.isLt

theorem unsigned_lt (w : Nat) (i : Int) : unsigned w i < 2 ^ w := by
  have hpos : (0 : Int) < (2 ^ w : Nat) := by exact_mod_cast Nat.two_pow_pos w
  have hlt := Int.emod_lt_of_pos i hpos
  have hnonneg := Int.emod_nonneg i (Int.ne_of_gt hpos)
  unfold unsigned
  omega

/-- A filtered change with Z low is no index: what it does is the counting, and its event. -/
theorem execAxisFilteredChange_of_z_low {levels : BitVec 6} {p : State × Bool} (hmode : s.axisMode a = 1)
    (hseeded : (s.axis a).seeded = true) (hz : levels.toNat / 4 % 2 = 0)
    (hmove : (s.wr F.posStat_pins a levels.toNat).axisMove a 1 (s.rd F.posStat_pins a) levels.toNat (s.axis a) = p) :
    execAxisFilteredChange a levels s = .next (if p.2 then p.1.event (67 + 2 * a) 0 0x81 else p.1) := by
  have hbit : bit levels.toNat 2 = false := beq_eq_false_iff_ne.2 (by omega)
  have hseven : (levels.toNat % 8 == 7) = false := beq_eq_false_iff_ne.2 (by omega)
  have haxis : (s.wr F.posStat_pins a levels.toNat).axis a = s.axis a := rfl
  unfold execAxisFilteredChange
  simp only [hmode, haxis, hseeded, hmove, hbit, hseven, ite_self, Bool.and_false, Bool.false_and, Bool.or_false,
    bne_self_eq_false, Bool.not_true, Bool.false_eq_true, if_false]

/-- A forward step of (A, B), with Z low, counts one up. -/
theorem axisFilteredChange_counts {levels : BitVec 6} (hmode : s.axisMode a = 1) (hseeded : (s.axis a).seeded = true)
    (hrev : s.flag F.posCtl_reverse a = false) (hz : levels.toNat / 4 % 2 = 0)
    (hphase : quadPhase (levels.toNat % 4) = (quadPhase (s.rd F.posStat_pins a % 4) + 1) % 4) :
    answers (.axisFilteredChange a levels) s (fun t =>
      t.rd F.posCount_value a = unsigned 32 (signed 32 (s.rd F.posCount_value a) + 1) ∧
      t.rd F.posStat_pins a = levels.toNat) := by
  have hmove := State.axisMove_forward (s := s.wr F.posStat_pins a levels.toNat) (a := a) (s.axis a)
    ((State.flag_wr_far_fin (by decide)).trans hrev) hphase
  refine ⟨_, execAxisFilteredChange_of_z_low hmode hseeded hz hmove, ?_, ?_⟩ <;>
    rw [apply_ite (State.rd · _ _), State.rd_event, ite_self, State.rd_axisCount 1 (by decide) (by decide)]
  · rw [State.rd_wr_self _ _ _ _ (by decide), State.rd_wr_far_fin (by decide)]
    exact Nat.mod_eq_of_lt (unsigned_lt 32 _)
  · rw [State.rd_wr_far_fin (by decide), State.rd_wr_self _ _ _ _ (by decide)]
    exact Nat.mod_eq_of_lt levels.isLt

/-- ARM with INDEX_MODE 2 shows ARMED (R127). -/
theorem axisArm_arms (hmode : s.rd F.posCtl_indexMode a = 2) :
    answers (.axisArm a) s (fun t => t.flag F.posStat_armed a = true) := by
  refine ⟨s.up F.posStat_armed a, ?_, State.flag_up_self (by decide) (by decide)⟩
  rw [exec_axisArm, execAxisArm, hmode]
  rfl

/-! ### Serial position (R129, R130) -/

/-- A frame latches LATCH after its start. -/
theorem serialFrameStart_latches (hmode : s.axisMode a = 3) : answers (.serialFrameStart a) s (fun t =>
    (t.axis a).latch = some (s.nowNs + s.rd F.posSerTiming_latch a)) := by
  rw [answers, exec_serialFrameStart, execSerialFrameStart]
  simp only [hmode, bne_self_eq_false, Bool.false_eq_true, if_false]
  refine ⟨_, rfl, ?_⟩
  rw [State.axis_congr (State.emit_axes _ _), State.axis_setAxis_self]

/-- A good first frame, neither coded in GRAY nor under a CRC, sets the position it holds. -/
theorem serialFrameDone_sets_position {frame : BitVec 55} {at_ : Nat} (hmode : s.axisMode a = 3)
    (hlatch : (s.axis a).latch = some at_) (hfirst : (s.axis a).serLast = none)
    (hcrc : s.flag F.posSerCtl_crcEn a = false) (hgray : s.flag F.posSerCtl_gray a = false)
    (hstart : bit frame.toNat (s.serBits a) = true) : answers (.serialFrameDone a false frame) s (fun t =>
      (t.axis a).serLast = some (bits frame.toNat 0 (s.serBits a)) ∧ (t.axis a).serTime = at_) := by
  rw [answers, exec_serialFrameDone, execSerialFrameDone]
  simp only [hlatch, hmode, hfirst, hcrc, hgray, hstart, Nat.zero_add, bne_self_eq_false, Option.isSome_none,
    Option.isNone_none, Bool.not_true, Bool.false_and, Bool.and_false, Bool.or_self, Bool.true_or, Bool.false_eq_true,
    if_false, if_true]
  refine ⟨_, rfl, ?_⟩
  change (((s.setAxis a _).axis a).serLast = _) ∧ ((s.setAxis a _).axis a).serTime = _
  rw [State.axis_setAxis_self]
  exact ⟨rfl, rfl⟩

/-- Settles O7: each clause is one command on one axis. Z is low at the step of (A, B), so no index comes with it. -/
theorem axesCountAndRead : Obligations.AxesCountAndRead :=
  ⟨fun _ _ _ hmode hseeded hrev _ => axisFilteredChange_counts hmode hseeded hrev, fun _ _ => axisArm_arms,
    fun _ _ => serialFrameStart_latches, fun _ _ _ _ => serialFrameDone_sets_position⟩

end Sys2Proof.Machine
end

section
/-! SUPPORT. The Reel's operations (R133 to R143): what each changes of the Reel beyond its registers, and the registers
it leaves alone. -/

namespace Sys2Proof.Machine

variable {s s0 t : State} {f g : Fld} {m i j v : Nat} {c : Prop} [Decidable c]

/-! ### What a measurement is taken into -/

/-- What of the Reel a measurement is taken into: the loop's answer to it leaves this alone. -/
def Reel.taken (r : Reel) : List Meas × Int × Option Nat × Bool × Option Nat :=
  (r.inbox, r.m, r.last, r.followed, r.coast)

theorem Reel.taken_withRatio (r : Reel) (fr to_ : Int) (n len : Nat) :
    ({ r with ratioFrom := fr, ratioTo := to_, ramp := n, rampLen := len } : Reel).taken = r.taken := rfl

theorem Reel.taken_withShadowed (r : Reel) (bw ramp period stop : Nat) :
    ({ r with bw := bw, rampReg := ramp, minPeriod := period, stopTime := stop } : Reel).taken = r.taken := rfl

theorem Reel.taken_withAdjust (r : Reel) (x : Int) : ({ r with adjust := x } : Reel).taken = r.taken := rfl

/-- The Reel of `t` has taken what the Reel of `s` has. -/
def SameTaken (s t : State) : Prop := t.reel.taken = s.reel.taken

namespace SameTaken

theorem refl (s : State) : SameTaken s s := rfl

theorem wr (h : SameTaken s0 s) : SameTaken s0 (s.wr f i v) := h
theorem up (h : SameTaken s0 s) : SameTaken s0 (s.up f i) := h
theorem down (h : SameTaken s0 s) : SameTaken s0 (s.down f i) := h

theorem withReel (h : SameTaken s0 s) {x : Reel} (hx : x.taken = s.reel.taken) : SameTaken s0 { s with reel := x } :=
  hx.trans h

theorem ite (ha : SameTaken s0 s) (hb : SameTaken s0 t) : SameTaken s0 (if c then s else t) := by
  split
  · exact ha
  · exact hb

theorem showReel (h : SameTaken s0 s) : SameTaken s0 s.showReel := h.wr.wr.wr.wr.wr.wr

theorem raiseW (h : SameTaken s0 s) : SameTaken s0 s.raiseW := .ite (h.withReel rfl) h

theorem lockStat (h : SameTaken s0 s) (e : Int) : SameTaken s0 (s.lockStat e) :=
  .ite (.up (h.withReel rfl)) (.ite (.down (h.withReel rfl)) (h.withReel rfl))

theorem enterStep (h : SameTaken s0 s) : SameTaken s0 s.enterStep := .up (h.withReel rfl)

theorem measureStep (h : SameTaken s0 s) (m move : Int) (run dt : Nat) :
    SameTaken s0 (s.measureStep m move run dt) := by
  have hstep : SameTaken s0 { s.enterStep with reel.t := m } := h.enterStep.withReel rfl
  exact showReel (raiseW (.ite (.down (hstep.withReel rfl)) hstep))

theorem measureLoop (h : SameTaken s0 s) (m : Int) (time dt : Nat) : SameTaken s0 (s.measureLoop m time dt) := by
  refine showReel (raiseW (lockStat (withReel (wr h) ?_) _))
  rfl

theorem reelHandover (h : SameTaken s0 s) : SameTaken s0 s.reelHandover := by
  refine .ite h (h.down.withReel ((Reel.taken_withShadowed _ _ _ _ _).trans ?_))
  split
  · rfl
  · exact Reel.taken_withRatio _ _ _ _ _

end SameTaken

/-- The measured position once a measurement is taken (R133). -/
def Meas.position (q : Meas) (m : Int) : Int := if q.absolute then q.m else m + q.m

/-- The Reel with a measurement taken, before the loop answers it (R133). -/
def Reel.measured (r : Reel) (q : Meas) (dir : Int) (run step : Nat) : Reel :=
  { r with m := q.position r.m, dir := dir, last := some q.time, run := run, step := step }

theorem Reel.measured_taken (r : Reel) (q : Meas) (dir : Int) (run step : Nat) :
    (r.measured q dir run step).taken = (r.inbox, q.position r.m, some q.time, r.followed, r.coast) := rfl

/-- The state in which a measurement is taken: in STEP a pending hand-over takes effect first (R144). -/
def State.readyToMeasure (s : State) : State := if s.flag F.reelStat_step then s.reelHandover else s

/-- The loop answers the measurement taken. -/
theorem State.measure_answers (s : State) (q : Meas) : ∃ dir run step,
    SameTaken { s.readyToMeasure with reel := s.readyToMeasure.reel.measured q dir run step } (s.measure q) :=
  ⟨_, _, _, .ite (.measureStep (.refl _) _ _ _ _) (.measureLoop (.refl _) _ _ _)⟩

/-- A measurement moves M, and its time is kept for the next one (R133). -/
theorem State.measure_taken (s : State) (q : Meas) : (s.measure q).reel.taken =
    (s.reel.inbox, q.position s.reel.m, some q.time, s.reel.followed, s.reel.coast) := by
  have hready : SameTaken s s.readyToMeasure := .ite (SameTaken.refl s).reelHandover rfl
  obtain ⟨dir, run, step, hanswer⟩ := s.measure_answers q
  simp only [SameTaken, Reel.taken, Prod.mk.injEq] at hready
  obtain ⟨hinbox, hm, -, hfollowed, hcoast⟩ := hready
  rw [← hinbox, ← hm, ← hfollowed, ← hcoast]
  exact Eq.trans hanswer (Reel.measured_taken ..)

/-! ### Registers that the loop shows -/

/-- The fields that show the loop. -/
def loopFields : List Fld :=
  [F.reelPosLo_value, F.reelPosHi_value, F.reelRate_hz, F.reelRate_neg, F.reelAdjLeft_left, F.reelStat_adjusting]

/-- No field that shows the loop has a bit in common with the field. -/
def Fld.besideLoop (g : Fld) (m : Nat) : Bool := loopFields.all (fun f => f.clearOf 1 g m)

theorem sameRd.withReel (h : sameRd g j s0 s) (x : Reel) : sameRd g j s0 { s with reel := x } := h.same rfl

theorem sameRd.showReel (h : sameRd g j s0 s) (hg : g.besideLoop m = true) (hj : j < m) : sameRd g j s0 s.showReel := by
  have hclear : ∀ f ∈ loopFields, f.clearOf 1 g m = true := List.all_eq_true.1 hg
  simp only [loopFields, List.forall_mem_cons] at hclear
  obtain ⟨hposLo, hposHi, hhz, hneg, hleft, hadjusting, -⟩ := hclear
  exact (((((h.wrClearOf hposLo Nat.one_pos hj).wrClearOf hposHi Nat.one_pos hj).wrClearOf hhz Nat.one_pos hj).wrClearOf
    hneg Nat.one_pos hj).wrClearOf hleft Nat.one_pos hj).wrClearOf hadjusting Nat.one_pos hj

theorem State.flag_showReel (s : State) (hg : g.besideLoop m = true) (hj : j < m) : s.showReel.flag g j = s.flag g j :=
  State.flag_congr (sameRd.refl.showReel hg hj)

theorem State.showReel_reel (s : State) : s.showReel.reel = s.reel := by
  unfold State.showReel State.wrI64
  dsimp only
  rw [State.wr_reel, State.wr_reel, State.wr_reel, State.wr_reel, State.wr64_reel]

theorem State.flag_withReel (s : State) (x : Reel) : ({ s with reel := x } : State).flag g j = s.flag g j := rfl

/-! ### A position set (R139, R142) -/

/-- The Reel at `u`, its high-water boundary and position there. -/
def State.reelAtU (s : State) : Reel :=
  { s.reel with h := floorDiv (s.toU s.reel.t) (s.pitch * stampUnit), w := s.toU s.reel.t }

theorem State.resetH_reel (s : State) : s.resetH.reel = s.reelAtU := forN_view State.reel (fun _ _ => rfl)

/-- The fields that a position set writes beside those that show the loop. -/
def Fld.besideReset (g : Fld) (m : Nat) : Bool :=
  F.reelHwmLo_value.clearOf 1 g m && F.reelHwmHi_value.clearOf 1 g m && F.schedStat_armed.clearOf 8 g m &&
    F.schedCtl_enable.clearOf 8 g m

theorem sameRd.resetH (h : sameRd g j s0 s) (hg : g.besideReset m = true) (hj : j < m) : sameRd g j s0 s.resetH := by
  simp only [Fld.besideReset, Bool.and_eq_true] at hg
  obtain ⟨⟨⟨hlo, hhi⟩, harmed⟩, henable⟩ := hg
  exact (((h.withReel _).wrClearOf hlo Nat.one_pos hj).wrClearOf hhi Nat.one_pos hj).forN
    (fun _ _ hk h => (h.wrClearOf harmed hk hj).wrClearOf henable hk hj)

theorem sameRd.loadPos (h : sameRd g j s0 s) (stamp : Int) (hg : g.besideReset m = true) (hl : g.besideLoop m = true)
    (hj : j < m) : sameRd g j s0 (s.loadPos stamp) := ((h.withReel _).resetH hg hj).showReel hl hj

/-- Every scheduler is disarmed (R142). -/
theorem State.resetH_disarms (s : State) : ∀ i < 8, s.resetH.flag F.schedStat_armed i = false := by
  refine forN_each (Q := fun i u => u.flag F.schedStat_armed i = false) (fun k u hk => ?_) (fun i k u hik hk hi => ?_) _
  · exact (State.flag_congr (sameRd.refl.down (.of_far_fields hk hk (by decide)))).trans
      (State.flag_down_self (by decide))
  · have hsame : sameRd F.schedStat_armed i u ((u.down F.schedStat_armed k).down F.schedCtl_enable k) :=
      (sameRd.refl.down (.of_ne (by decide) rfl rfl rfl rfl (Nat.ne_of_gt hik))).down
        (.of_far_fields hk (hik.trans hk) (by decide))
    exact (State.flag_congr hsame).trans hi

end Sys2Proof.Machine
end

section
/-! SUPPORT. Measurements and positions written (R133, R134, R139, R142, R143): the clauses of O8 and O51 about them. -/

namespace Sys2Proof.Machine

variable {s t : State}

/-! ### Measurements (R133, R134) -/

/-- The oldest measurement on its way is taken, and moves M. -/
theorem reelMeasurement_moves {q : Meas} {rest : List Meas} (hinbox : s.reel.inbox = q :: rest) :
    answers .reelMeasurement s (fun t =>
      t.reel.inbox = rest ∧ t.reel.m = (if q.absolute then q.m else s.reel.m + q.m) ∧ t.reel.last = some q.time) := by
  refine ⟨({ s with reel.inbox := rest } : State).measure q, ?_, ?_⟩
  · rw [exec_reelMeasurement, execReelMeasurement, hinbox]
  · have htaken := ({ s with reel.inbox := rest } : State).measure_taken q
    simp only [Reel.taken, Prod.mk.injEq] at htaken
    obtain ⟨hrest, hm, hlast, -, -⟩ := htaken
    exact ⟨hrest, hm, hlast⟩

theorem State.flag_enterStep_step (s : State) : s.enterStep.flag F.reelStat_step = true :=
  State.flag_up_self (by decide) (by decide)

/-- Without a measurement for STOP_TIME the Reel stands in STEP. -/
theorem reelStopTimeout_stops (hstep : s.flag F.reelStat_step = false) : answers .reelStopTimeout s (fun t =>
    t.reel.v = 0 ∧ t.flag F.reelStat_step = true) := by
  refine ⟨({ s.enterStep with reel.run := 0 } : State).showReel, ?_, ?_, ?_⟩
  · rw [exec_reelStopTimeout, execReelStopTimeout, hstep]
    rfl
  · rw [State.showReel_reel]
    rfl
  · rw [State.flag_showReel _ (m := 1) (by decide) Nat.one_pos]
    exact s.flag_enterStep_step

/-! ### Positions written (R139, R142, R143) -/

/-- FORWARD takes effect in CONFIGURE and MAINTAIN. -/
theorem reelForwardWrite_takes_effect (forward : Bool) (hmode : s.cmMode = true) :
    answers (.reelForwardWrite forward) s (fun t => t.flag F.reelTrackCtl_forward = forward) := by
  refine ⟨(s.wr F.reelTrackCtl_forward 0 (b2n forward)).resetH, ?_, ?_⟩
  · rw [exec_reelForwardWrite, execReelForwardWrite, hmode]
    rfl
  · exact (State.flag_congr (sameRd.refl.resetH (m := 1) (by decide) Nat.one_pos)).trans
      (State.flag_wr_b2n forward (by decide) rfl)

theorem State.toU_withReel (s : State) (r : Reel) (x : Int) : ({ s with reel := r } : State).toU x = s.toU x := rfl

theorem State.pitch_withReel (s : State) (r : Reel) : ({ s with reel := r } : State).pitch = s.pitch := rfl

theorem State.commitPair_reel (s : State) (lo hi : Fld) (i : Nat) (w : Word) :
    (s.commitPair lo hi i w).reel = s.reel := by
  unfold State.commitPair
  dsimp only
  rw [State.wr_reel, State.wr_reel]

theorem State.toU_loadPos (s : State) (stamp x : Int) : (s.loadPos stamp).toU x = s.toU x := by
  unfold State.toU
  rw [State.flag_congr (sameRd.refl.loadPos stamp (m := 1) (by decide) (by decide) Nat.one_pos)]

theorem State.pitch_loadPos (s : State) (stamp : Int) : (s.loadPos stamp).pitch = s.pitch := by
  have hrun : (s.loadPos stamp).rd F.cfgStat_runMode = s.rd F.cfgStat_runMode :=
    sameRd.refl.loadPos stamp (m := 1) (by decide) (by decide) Nat.one_pos
  unfold State.pitch State.exposeImage
  rw [hrun]

/-- The Reel set at a position: T and M there, H and W given. -/
def Reel.placed (r : Reel) (x h w : Int) : Reel := { r with t := x, m := x, h := h, w := w }

theorem Reel.placed_holds {q r : Reel} {x h w : Int} (hq : q = r.placed x h w) :
    q.t = x ∧ q.m = x ∧ q.h = h ∧ q.w = w ∧ q.caps = r.caps := by
  subst hq
  exact ⟨rfl, rfl, rfl, rfl, rfl⟩

/-- T and M loaded with a stamp, H and W at it. -/
theorem State.loadPos_reel (s : State) (stamp : Int) : (s.loadPos stamp).reel =
    s.reel.placed (stamp * stampUnit) (floorDiv (s.toU (stamp * stampUnit)) (s.pitch * stampUnit))
      (s.toU (stamp * stampUnit)) := by
  unfold State.loadPos
  dsimp only
  rw [State.showReel_reel, State.resetH_reel, State.reelAtU, State.toU_withReel, State.pitch_withReel]
  rfl

theorem State.loadPos_disarms (s : State) (stamp : Int) (i : Fin 8) :
    (s.loadPos stamp).flag F.schedStat_armed i = false :=
  (State.flag_showReel _ (m := 8) (by decide) i.isLt).trans (State.resetH_disarms _ i i.isLt)

/-- A HI write of REEL_POS_SET in CONFIGURE or MAINTAIN loads the position that the pair holds (R13, R142). -/
theorem execReelPosSet_of_cmMode (hi : Word) (hmode : s.cmMode = true) : execReelPosSet hi s =
    .next ((s.commitPair F.reelPosSetLo_value F.reelPosSetHi_value 0 hi).loadPos
      (signed 64 (s.pairValue F.reelPosSetLo_value 0 hi))) := by
  have hvalue := State.rd64_commitPair (s := s) (i := 0) (lo := F.reelPosSetLo_value) (hi := F.reelPosSetHi_value) hi
    (by decide) (by decide) rfl rfl (by decide)
  unfold execReelPosSet State.rdI64
  simp only [hmode, hvalue, Bool.not_true, Bool.false_eq_true, if_false]

/-- REEL_POS_SET loads T and M, sets H and W at them, disarms every scheduler and keeps the captures. -/
theorem reelPosSet_loads (hi : Word) (hmode : s.cmMode = true) : answers (.reelPosSet hi) s (fun t =>
    t.reel.t = signed 64 (s.pairValue F.reelPosSetLo_value 0 hi) * stampUnit ∧ t.reel.m = t.reel.t ∧
    t.reel.h = floorDiv (t.toU t.reel.t) (t.pitch * stampUnit) ∧ t.reel.w = t.toU t.reel.t ∧
    (∀ i : Fin 8, t.flag F.schedStat_armed i = false) ∧ t.reel.caps = s.reel.caps) := by
  obtain ⟨ht, hm, hh, hw, hcaps⟩ := Reel.placed_holds (State.loadPos_reel
    (s.commitPair F.reelPosSetLo_value F.reelPosSetHi_value 0 hi) (signed 64 (s.pairValue F.reelPosSetLo_value 0 hi)))
  refine ⟨_, execReelPosSet_of_cmMode hi hmode, ht, hm.trans ht.symm, ?_, ?_, State.loadPos_disarms _ _, ?_⟩
  · rw [ht, State.toU_loadPos, State.pitch_loadPos]
    exact hh
  · rw [ht, State.toU_loadPos]
    exact hw
  · rw [hcaps, State.commitPair_reel]

/-- REEL_ADJUST moves the pending offset, within ±2,147,483,647 stamp units. -/
theorem reelAdjust_moves_offset (d : Word) : answers (.reelAdjust d) s (fun t =>
    t.reel.adjust =
      clampInt (-(2147483647 * stampUnit)) (2147483647 * stampUnit) (s.reel.adjust + d.toInt * stampUnit)) :=
  ⟨_, rfl, congrArg Reel.adjust (State.showReel_reel _)⟩

/-! ### In another mode (R14) -/

theorem State.log_reel (code isl status : Nat) (args : List Nat) : (s.log code isl status args).reel = s.reel := by
  unfold State.log
  split
  · rfl
  · exact State.count_reel ..

theorem State.irq_reel (v : Nat) : (s.irq v).reel = s.reel := by
  unfold State.irq
  split
  · exact State.wr_reel ..
  · exact State.emit_reel ..

/-- A fault changes nothing of the Reel. -/
theorem State.accessFault_reel (cause addr isl : Nat) (write : Bool) (owner : Nat) :
    (s.accessFault cause addr isl write owner).reel = s.reel := by
  unfold State.accessFault State.chiefAlert
  dsimp only
  rw [State.irq_reel, State.log_reel, State.wr_reel, State.wr_reel, State.count_reel, State.wr_reel, State.wr_reel,
    State.wr_reel]

/-- Settles O51: in CONFIGURE and MAINTAIN the position is loaded; in any other mode the write faults as WRONG_MODE. -/
theorem posSetLoadsThePosition : Obligations.PosSetLoadsThePosition := by
  refine ⟨fun _ => reelPosSet_loads, fun s hi hmode => ?_⟩
  refine ⟨s.accessFault Af.wrongMode (F.reelPosSetHi_value.addr 0) 0x80 true, ?_, State.accessFault_reel _ _ _ _ _,
    State.rd_accessFault_cause⟩
  rw [exec_reelPosSet, execReelPosSet, hmode]
  rfl

end Sys2Proof.Machine
end

section
/-! SUPPORT. The Reel's ticks in EXPOSE (R138 to R140, R367): the clauses of O8 about them. -/

namespace Sys2Proof.Machine

variable {s t : State}

/-! ### A tick that leaves the Reel (R140, R367) -/

/-- A tick of a sub-position, with no joint change open, in EXPOSE: the Laid gets it, LATE where it waited. -/
def State.shotIssued (s : State) (k : Tick) (late : Bool) : State :=
  let s := { s with reel.lastTick := some s.nowNs }
  let s := if late then (s.count F.reelLate_count 0 1).up F.reelStat_overspeed else s
  { s with laid.inbox := s.laid.inbox ++
    [ShotTick.mk (Int.fdiv k.boundary 8) (Int.fmod k.boundary 8).toNat late false s.counter] }

theorem State.issueTick_expose {k : Tick} (himage : s.exposeImage = true) (hsub : Int.fmod k.boundary 8 ≠ 0)
    (hjoint : s.chief.joint = none) (hpath : s.chief.path = Md.expose) :
    s.issueTick k = s.shotIssued k (decide (s.reel.minPeriod < 4 * (s.nowNs - k.due))) := by
  have hsub' : ((Int.fmod k.boundary 8).toNat == 0) = false := by
    have := Int.fmod_nonneg_of_pos k.boundary (b := 8) (by decide)
    exact beq_eq_false_iff_ne.2 (by omega)
  have hline : s.lineOf k.boundary = Int.fdiv k.boundary 8 := by
    rw [State.lineOf, himage, if_pos rfl]
  have hstay : ({ s with reel.lastTick := some s.nowNs } : State).jointAt (Int.fdiv k.boundary 8) =
      { s with reel.lastTick := some s.nowNs } := by
    simp only [State.jointAt, hjoint]
  unfold State.issueTick
  simp only [himage, hsub', hline, Bool.not_true, Bool.or_self, Bool.false_eq_true, if_false, hstay, hpath]
  rfl

theorem State.shotIssued_laid (s : State) (k : Tick) (late : Bool) : (s.shotIssued k late).laid.inbox = s.laid.inbox ++
    [ShotTick.mk (Int.fdiv k.boundary 8) (Int.fmod k.boundary 8).toNat late false s.counter] := by
  cases late
  · rfl
  · have hcounter : ((({ s with reel.lastTick := some s.nowNs } : State).count F.reelLate_count 0 1).up
        F.reelStat_overspeed).counter = s.counter := by
      unfold State.counter State.rd64 State.up State.count
      simp (disch := decide) only [State.rd_wr_far_00]
      rfl
    unfold State.shotIssued
    simp only [if_true, hcounter]
    rfl

theorem State.shotIssued_reel (s : State) (k : Tick) (late : Bool) :
    (s.shotIssued k late).reel = { s.reel with lastTick := some s.nowNs } := by cases late <;> rfl

theorem State.shotIssued_complete (s : State) (k : Tick) (late : Bool) :
    (s.shotIssued k late).chief.complete = s.chief.complete := by cases late <;> rfl

/-! ### A boundary crossed (R138) -/

/-- The next boundary crossed: H is at it, and shows it. -/
def State.crossed (s : State) : State :=
  let b := s.reel.h + 1
  let s := { s with reel.h := b }
  s.wrI64 F.reelHwmLo_value F.reelHwmHi_value 0 (s.toU (b * s.pitch))

theorem State.rd_crossed {g : Fld} (s : State) (hlo : F.reelHwmLo_value.far 1 g 1 = true)
    (hhi : F.reelHwmHi_value.far 1 g 1 = true) : s.crossed.rd g = s.rd g := by
  unfold State.crossed State.wrI64 State.wr64
  rw [State.rd_wr_far_00 hhi, State.rd_wr_far_00 hlo]
  rfl

/-- The tick of a boundary crossed while no other waits leaves at once. -/
theorem execReelTick_of_free (hcross : s.reel.h + 1 ≤ Int.fdiv (s.toU s.reel.t) (s.pitch * stampUnit))
    (hstop : s.reel.stop = none) (hbacklog : s.reel.backlog = []) (hfree : s.tickFree = true) :
    execReelTick s = .next (s.crossed.issueTick ⟨s.reel.h + 1, s.nowNs, false⟩) := by
  have hstop' : s.crossed.reel.stop = none := hstop
  have hbacklog' : s.crossed.reel.backlog = [] := hbacklog
  have hfree' : s.crossed.tickFree = true := hfree
  unfold execReelTick
  rw [if_neg (Int.not_lt.2 hcross)]
  change (if s.crossed.reel.stop.any _ then _
    else if s.crossed.reel.backlog.isEmpty && s.crossed.tickFree then _ else _) = _
  rw [hstop', hbacklog', hfree']
  rfl

/-- A boundary crossed in EXPOSE while no tick waits gives the Laid its shot at once. -/
theorem reelTick_gives_shot (hcross : s.reel.h + 1 ≤ Int.fdiv (s.toU s.reel.t) (s.pitch * stampUnit))
    (hstop : s.reel.stop = none) (hbacklog : s.reel.backlog = []) (hfree : s.tickFree = true)
    (hjoint : s.chief.joint = none) (hpath : s.chief.path = Md.expose) (himage : s.exposeImage = true)
    (hsub : Int.fmod (s.reel.h + 1) 8 ≠ 0) : answers .reelTick s (fun t =>
      t.reel.h = s.reel.h + 1 ∧ t.laid.inbox = s.laid.inbox ++
        [ShotTick.mk (Int.fdiv (s.reel.h + 1) 8) (Int.fmod (s.reel.h + 1) 8).toNat false false s.counter]) := by
  have himage' : s.crossed.exposeImage = true := (congrArg (· == 3) (s.rd_crossed rfl rfl)).trans himage
  have hcounter : s.crossed.counter = s.counter := by
    unfold State.counter State.rd64
    rw [s.rd_crossed rfl rfl, s.rd_crossed rfl rfl]
  have hissue := State.issueTick_expose (s := s.crossed) (k := ⟨s.reel.h + 1, s.nowNs, false⟩) himage' hsub hjoint hpath
  have hearly : decide (s.crossed.reel.minPeriod < 4 * (s.crossed.nowNs - s.nowNs)) = false := by
    have hnow : s.crossed.nowNs = s.nowNs := rfl
    rw [hnow, Nat.sub_self]
    exact decide_eq_false (Nat.not_lt_zero _)
  rw [hearly] at hissue
  refine ⟨s.crossed.shotIssued ⟨s.reel.h + 1, s.nowNs, false⟩ false, ?_, ?_, ?_⟩
  · rw [exec_reelTick, execReelTick_of_free hcross hstop hbacklog hfree, hissue]
  · rw [State.shotIssued_reel]
    rfl
  · rw [State.shotIssued_laid, hcounter]
    rfl

/-! ### The backlog (R140) -/

/-- The state with the only tick of the backlog taken from it. -/
def State.backlogTaken (s : State) : State := { s with reel.backlog := [] }

/-- The only tick of the backlog leaves once MIN_PERIOD has passed, with no exit to settle. -/
theorem execReelBacklogRelease_of_single {k : Tick} {late : Bool} (hfree : s.tickFree = true)
    (hbacklog : s.reel.backlog = [k]) (hskip : k.skip = false) (hcomplete : s.chief.complete = none)
    (hissue : s.backlogTaken.issueTick k = s.backlogTaken.shotIssued k late) :
    execReelBacklogRelease s = .next (s.backlogTaken.shotIssued k late) := by
  have hempty : (s.backlogTaken.shotIssued k late).reel.backlog = [] := by
    rw [State.shotIssued_reel]
    rfl
  have hsettle : (s.backlogTaken.shotIssued k late).settleExit = s.backlogTaken.shotIssued k late := by
    have hnone : s.backlogTaken.chief.complete = none := hcomplete
    unfold State.settleExit
    rw [State.shotIssued_complete, hnone]
  rw [State.backlogTaken] at hissue hempty hsettle ⊢
  unfold execReelBacklogRelease
  simp only [hfree, hbacklog, hskip, hissue, hempty, Bool.not_true, Bool.false_eq_true, if_false, List.length_nil,
    State.reportSkips, hsettle]

/-- The oldest tick of the backlog gives the Laid its shot, LATE where it waited long. -/
theorem reelBacklogRelease_gives_shot {k : Tick} (hfree : s.tickFree = true) (hbacklog : s.reel.backlog = [k])
    (hskip : k.skip = false) (hjoint : s.chief.joint = none) (hcomplete : s.chief.complete = none)
    (hpath : s.chief.path = Md.expose) (himage : s.exposeImage = true) (hsub : Int.fmod k.boundary 8 ≠ 0) :
    answers .reelBacklogRelease s (fun t => t.reel.backlog = [] ∧ t.laid.inbox = s.laid.inbox ++
      [ShotTick.mk (Int.fdiv k.boundary 8) (Int.fmod k.boundary 8).toNat
        (decide (s.reel.minPeriod < 4 * (s.nowNs - k.due))) false s.counter]) := by
  have hissue := State.issueTick_expose (s := s.backlogTaken) himage hsub hjoint hpath
  refine ⟨_, execReelBacklogRelease_of_single hfree hbacklog hskip hcomplete hissue, ?_, State.shotIssued_laid _ _ _⟩
  rw [State.shotIssued_reel]
  rfl

/-- Settles O8: each clause is one command on the Reel, its loop, or its ticks in EXPOSE. -/
theorem reelTracks : Obligations.ReelTracks :=
  ⟨fun _ _ _ => reelMeasurement_moves, fun _ => reelStopTimeout_stops, fun _ => reelTick_gives_shot,
    fun _ _ => reelBacklogRelease_gives_shot, fun _ => reelForwardWrite_takes_effect,
    fun _ hi hmode => (reelPosSet_loads hi hmode).imp (fun _ ⟨hexec, ht, hm, _⟩ => ⟨hexec, ht, hm⟩),
    fun _ => reelAdjust_moves_offset⟩

end Sys2Proof.Machine
end

section
/-! SUPPORT. The Reel's captures and schedulers (R145 to R147): one lemma per clause of O9. -/

namespace Sys2Proof.Machine

variable {s t : State} {k i : Fin 8}

/-! ### Captures (R145) -/

theorem State.caps_setCaps_self (s : State) (k : Nat) (l : List CapEntry) : (s.setCaps k l).caps k = l := by
  unfold State.caps State.setCaps State.wrI64
  dsimp only
  rw [State.wr_reel, State.wr_reel, State.wr64_reel, State.wr_reel]
  exact Sparse.get_set_self _ _ _ _

/-- A capture enters its stamp, time and count behind the waiting entries. -/
theorem reelCapture_enters (henable : s.flag F.rcapCtl_enable k = true) (hroom : (s.caps k).length < 4) :
    answers (.reelCapture k) s (fun t => t.caps k = s.caps k ++
      [CapEntry.mk s.stamp s.ns (s.rd F.posCount_value (s.rd F.rcapCtl_axis k))]) := by
  refine ⟨_, ?_, s.caps_setCaps_self k _⟩
  rw [exec_reelCapture, execReelCapture]
  simp only [henable, Nat.not_le.2 hroom, Bool.not_true, Bool.false_eq_true, if_false]

/-- A pop takes the head. -/
theorem reelCapturePop_takes_head (s : State) (k : Fin 8) :
    answers (.reelCapturePop k) s (fun t => t.caps k = (s.caps k).tail) :=
  ⟨_, rfl, s.caps_setCaps_self k _⟩

/-! ### Arming (R146, R147) -/

@[simp] theorem State.sched_setSched_self (s : State) (i : Nat) (v : Sched) : (s.setSched i v).sched i = v :=
  Sparse.get_set_self _ _ _ _

theorem State.flag_setSched (s : State) (i : Nat) (v : Sched) (f : Fld) (j : Nat) :
    (s.setSched i v).flag f j = s.flag f j := rfl

/-- A scheduler armed shows ARMED and ENABLE, and its firings take their generation. -/
theorem State.armSched_shows (s : State) (i : Fin 8) (rel : Bool) (gen : Nat) :
    (s.armSched i rel gen).flag F.schedStat_armed i = true ∧ (s.armSched i rel gen).flag F.schedCtl_enable i = true ∧
      ((s.armSched i rel gen).sched i).gen = gen := by
  unfold State.armSched
  dsimp only
  rw [State.flag_setSched, State.flag_setSched, State.sched_setSched_self]
  exact ⟨(State.flag_wr_far_fin (by decide)).trans (State.flag_up_self (by decide) (by decide)),
    State.flag_up_self (by decide) (by decide), rfl⟩

/-- A write of ENABLE arms the scheduler. -/
theorem schedEnable_arms {ctl : Word} (henable : F.schedCtl_enable.ofWord ctl = 1) :
    answers (.schedEnable i ctl) s (fun t =>
      t.flag F.schedStat_armed i = true ∧ t.flag F.schedCtl_enable i = true) := by
  rw [answers, exec_schedEnable, execSchedEnable]
  simp only [henable, beq_self_eq_true, if_true]
  obtain ⟨harmed, hctl, -⟩ := State.armSched_shows
    (((s.wr F.schedCtl_periodic i (F.schedCtl_periodic.ofWord ctl)).wr F.schedCtl_rel i (F.schedCtl_rel.ofWord ctl)).wr
      F.schedCtl_count i (F.schedCtl_count.ofWord ctl)) i (F.schedCtl_rel.ofWord ctl == 1) 0
  exact ⟨_, rfl, harmed, hctl⟩

/-- An arm event arms a scheduler that is not armed, one generation on. -/
theorem schedArmEvent_arms (gen : Fin 8) (hidle : s.flag F.schedStat_armed i = false) :
    answers (.schedArmEvent i gen) s (fun t =>
      t.flag F.schedStat_armed i = true ∧ (t.sched i).gen = gen.val + 1) := by
  obtain ⟨harmed, -, hgen⟩ := s.armSched_shows i true (gen.val + 1)
  refine ⟨_, ?_, harmed, hgen⟩
  rw [exec_schedArmEvent, execSchedArmEvent, hidle]
  rfl

/-! ### Firing (R146, R147) -/

/-- A firing shown: LATE where the scheduler was armed behind W, and FIRES. -/
def State.firingShown (s : State) (i : Nat) : State :=
  (if (s.sched i).late then s.up F.schedStat_late i else s).count F.schedStat_fires i 1

/-- A firing shown, and its event raised. -/
def State.fired (s : State) (i : Nat) : State := (s.firingShown i).event (82 + i) ((s.firingShown i).sched i).gen 0x80

/-- COUNT one down where it bounds the firings. -/
def State.countedDown (s : State) (i : Nat) : State :=
  if s.rd F.schedCtl_count i == 0 then s else s.wr F.schedCtl_count i (s.rd F.schedCtl_count i - 1)

theorem sameRd.fired {s0 : State} {g : Fld} (h : sameRd g i s0 s) (hlate : F.schedStat_late.clearOf 8 g 8 = true)
    (hfires : F.schedStat_fires.clearOf 8 g 8 = true) : sameRd g i s0 (s.fired i) :=
  ((h.andIf (fun h => h.wrClearOf hlate i.isLt i.isLt)).wrClearOf hfires i.isLt i.isLt).event _ _ _

theorem sameRd.countedDown {s0 : State} {g : Fld} (h : sameRd g i s0 s)
    (hcount : F.schedCtl_count.clearOf 8 g 8 = true) : sameRd g i s0 (s.countedDown i) :=
  h.andUnless (fun h => h.wrClearOf hcount i.isLt i.isLt)

theorem State.countedDown_out (s : State) (i : Nat) : (s.countedDown i).out = s.out := by
  unfold State.countedDown
  split
  · rfl
  · exact State.wr_out ..

/-- FIRES counts the firing. -/
theorem State.rd_fired_fires (s : State) (i : Fin 8) :
    (s.fired i).rd F.schedStat_fires i = satAdd 16 (s.rd F.schedStat_fires i) 1 := by
  have hlate : (if (s.sched i).late then s.up F.schedStat_late i else s).rd F.schedStat_fires i =
      s.rd F.schedStat_fires i := sameRd.refl.andIf (fun h => h.wrClearOf (by decide) i.isLt i.isLt)
  rw [State.fired, State.rd_event, State.firingShown, State.rd_count_self (by decide) (by decide), hlate]
  rfl

/-- A firing is shown in registers alone. -/
theorem State.firingShown_view {α : Type} (view : State → α) {i : Nat}
    (hwr : ∀ t f v, view (State.wr t f i v) = view t) : view (s.firingShown i) = view s := by
  rw [State.firingShown, State.count, hwr]
  split
  · exact hwr ..
  · rfl

/-- The firing's event carries the generation of the scheduler. -/
theorem State.fired_out (s : State) (i : Nat) :
    (s.fired i).out = s.out ++ [.cairn (82 + i) (min (s.sched i).gen 8) 0x80] := by
  rw [State.fired, State.event_out, State.firingShown_view State.out (fun _ _ _ => State.wr_out ..),
    State.firingShown_view (State.sched · i) (fun _ _ _ => rfl)]

/-- An armed scheduler that is due and not periodic fires and disarms. -/
theorem execSchedFire_of_due (harmed : s.flag F.schedStat_armed i = true)
    (hdue : s.schedTarget i * stampUnit ≤ s.reel.w) (hperiodic : s.flag F.schedCtl_periodic i = false) :
    execSchedFire i s = .next ((((s.fired i).countedDown i).disarmSched i).setSched i {}) := by
  have honce : ((s.fired i).countedDown i).flag F.schedCtl_periodic i = false :=
    (State.flag_congr ((sameRd.refl.fired (by decide) (by decide)).countedDown (by decide))).trans hperiodic
  unfold execSchedFire
  simp only [harmed, decide_eq_true hdue, Bool.or_true, Bool.not_true, Bool.or_self, Bool.false_eq_true, if_false]
  change (if !((s.fired i).countedDown i).flag F.schedCtl_periodic i || _ then _ else _) = _
  rw [honce, Bool.not_false, Bool.true_or, if_pos rfl]
  rfl

/-- An armed scheduler whose target u has reached fires, raises its event and, not periodic, disarms. -/
theorem schedFire_fires (harmed : s.flag F.schedStat_armed i = true) (hdue : s.schedTarget i * stampUnit ≤ s.reel.w)
    (hperiodic : s.flag F.schedCtl_periodic i = false) : answers (.schedFire i) s (fun t =>
      t.rd F.schedStat_fires i = satAdd 16 (s.rd F.schedStat_fires i) 1 ∧ t.flag F.schedStat_armed i = false ∧
      Output.cairn (82 + i) (min (s.sched i).gen 8) 0x80 ∈ t.out) := by
  refine ⟨_, execSchedFire_of_due harmed hdue hperiodic, ?_, ?_, ?_⟩
  · have hcounted : sameRd F.schedStat_fires i (s.fired i) (((s.fired i).countedDown i).disarmSched i) :=
      ((sameRd.refl.countedDown (by decide)).wrClearOf (f := F.schedStat_armed) (by decide) i.isLt i.isLt).wrClearOf
        (f := F.schedCtl_enable) (by decide) i.isLt i.isLt
    exact Eq.trans hcounted (s.rd_fired_fires i)
  · rw [State.flag_setSched]
    exact (State.flag_wr_far_fin (by decide)).trans (State.flag_down_self (by decide))
  · change _ ∈ ((s.fired i).countedDown i).out
    rw [State.countedDown_out, State.fired_out]
    exact List.mem_append_right _ (List.mem_singleton_self _)

/-- Settles O9: each clause is one command on one capture unit or scheduler. -/
theorem schedulersFire : Obligations.SchedulersFire :=
  ⟨fun _ _ => reelCapture_enters, reelCapturePop_takes_head, fun _ _ _ => schedEnable_arms,
    fun _ _ => schedFire_fires, fun _ _ gen => schedArmEvent_arms gen⟩

end Sys2Proof.Machine
end

section
/-! SUPPORT. Lock step (R148, R151 to R154): one lemma per clause of O10. -/

namespace Sys2Proof.Machine

variable {s s0 t : State} {l : Fin 8} {g : Fld} {n p m j : Nat}

/-! ### Stream ports leave the Reel alone -/

theorem State.showCredit_reel (s : State) (p : Nat) : (s.showCredit p).reel = s.reel := by
  unfold State.showCredit
  dsimp only
  split
  · exact State.wr_reel ..
  · split
    · exact State.wr_reel ..
    · rfl

theorem State.spend_reel (s : State) (p n : Nat) : (s.spend p n).reel = s.reel := State.showCredit_reel _ _

theorem State.launch_reel (s : State) (n : Nat) (bytes : Bytes) (at_ : Nat) : (s.launch n bytes at_).reel = s.reel := by
  have hslip : ∀ slip : Bool, (if slip then s.up F.laneEvent_timedSlip n else s).reel = s.reel := by
    intro slip
    cases slip
    · rfl
    · exact State.up_reel ..
  unfold State.launch
  dsimp only
  rw [State.emit_reel]
  exact hslip _

/-- No field that an item received on a port writes has a bit in common with the field. -/
def Fld.besidePorts (g : Fld) (m : Nat) : Bool :=
  F.sportSeq_seq.clearOf 1024 g m && F.sportGaps_gaps.clearOf 1024 g m && F.sportCredit_credit.clearOf 1024 g m &&
    F.sportCredit_staleOrStall.clearOf 1024 g m && F.laneEvent_seqGap.clearOf 64 g m

theorem sameRd.takeSeq (h : sameRd g j s0 s) (hg : g.besidePorts m = true) (hp : p < 1024) (hn : n < 64) (hj : j < m)
    (w x : Nat) : sameRd g j s0 (s.takeSeq p w x (some n)).1 := by
  simp only [Fld.besidePorts, Bool.and_eq_true] at hg
  obtain ⟨⟨⟨⟨hseq, hgaps⟩, -⟩, hstale⟩, hgap⟩ := hg
  unfold State.takeSeq
  dsimp only
  split
  · exact sameRd.wrClearOf h hseq hp hj
  · split
    · exact h.andUnless (fun h => h.wrClearOf hstale hp hj)
    · exact ((h.wrClearOf hgaps hp hj).wrClearOf hgap hn hj).wrClearOf hseq hp hj

theorem sameRd.grant (h : sameRd g j s0 s) (hg : g.besidePorts m = true) (hp : p < 1024) (hj : j < m) (x : Nat) :
    sameRd g j s0 (s.grant p x) := by
  simp only [Fld.besidePorts, Bool.and_eq_true] at hg
  obtain ⟨⟨⟨-, hcredit⟩, -⟩, -⟩ := hg
  have hport := h.withLinks { s.links with
    ports := Sparse.set (fun _ => {}) s.links.ports p { s.sport p with granted := ((s.sport p).granted + x) % 65536 } }
  exact .ite (hport.wrClearOf hcredit hp hj) (hport.andIf (fun h => h.wrClearOf hcredit hp hj))

/-- A Sync lane is one of L48 to L63 (R113). -/
theorem State.syncLane_lt {i : Nat} (h : s.syncLane i = some n) : n < 64 := by
  have hmem := List.mem_of_getElem? h
  simp only [List.mem_filter, List.mem_map, List.mem_range] at hmem
  omega

/-! ### Samples sent (R148, R149) -/

/-- A leader with credit sends the next sample of its lane's stream. -/
theorem syncSampleTx_sends_next (hrole : s.rd F.reelFollowCtl_role = 1)
    (hlanes : bit (s.rd F.reelFollowCtl_txLanes) l = true) (hlane : s.syncLane l = some n)
    (hup : s.flag F.laneStat_bondUp n = true) (hcredit : s.creditLeft (192 + 8 * l + s.syncChannel) ≠ 0) : answers (.syncSampleTx l) s (fun t =>
      Sparse.get (fun _ => 0) t.reel.txSeq (192 + 8 * l + s.syncChannel) =
        (Sparse.get (fun _ => 0) s.reel.txSeq (192 + 8 * l + s.syncChannel) + 1) % 65536) := by
  have hleader : (s.rd F.reelFollowCtl_role != 1 && s.rd F.reelFollowCtl_role != 3) = false := by rw [hrole]; rfl
  have hnoRelay : (s.rd F.reelFollowCtl_role == 3 && s.rd F.reelFollowStat_hopsRx != 0) = false := by rw [hrole]; rfl
  rw [answers, exec_syncSampleTx, execSyncSampleTx]
  simp only [hleader, hnoRelay, hlanes, hlane, hup, beq_eq_false_iff_ne.2 hcredit, Bool.not_true, Bool.or_self,
    Bool.false_eq_true, if_false]
  refine ⟨_, rfl, ?_⟩
  rw [State.emit_reel, State.emit_reel, State.launch_reel]
  dsimp only
  rw [State.spend_reel, Sparse.get_set_self]

/-! ### Samples taken (R152 to R154) -/

theorem Reel.taken_placed (r : Reel) (x h w : Int) :
    (r.placed x h w).taken = (r.inbox, x, r.last, r.followed, r.coast) := rfl

/-- A sample set directly, with its rate, the step of its period and its time (R154). -/
def Reel.sampled (r : Reel) (v : Int) (step time : Nat) : Reel :=
  { r with v := v, step := step, last := some time, run := 1 }

theorem Reel.taken_sampled (r : Reel) (v : Int) (step time : Nat) :
    (r.sampled v step time).taken = (r.inbox, r.m, some time, r.followed, r.coast) := rfl

/-- The measured position of a sample after a loss, and its time (R153). -/
def Reel.rejoined (r : Reel) (x : Int) (time : Nat) : Reel := { r with m := x, last := some time, run := 1 }

theorem Reel.taken_rejoined (r : Reel) (x : Int) (time : Nat) :
    (r.rejoined x time).taken = (r.inbox, x, some time, r.followed, r.coast) := rfl

/-- The Reel follows a position: it has taken a valid sample, and does not coast (R153, R154). -/
def State.follows (s : State) (x : Int) : Prop := s.reel.followed = true ∧ s.reel.coast = none ∧ s.reel.m = x

theorem State.follows_of_taken {inbox : List Meas} {last : Option Nat} {x : Int}
    (h : s.reel.taken = (inbox, x, last, true, none)) : s.follows x := by
  simp only [Reel.taken, Prod.mk.injEq] at h
  obtain ⟨-, hm, -, hfollowed, hcoast⟩ := h
  exact ⟨hfollowed, hcoast, hm⟩

/-- The state as a valid sample is taken (R154). -/
def State.sampleTaken (s : State) : State :=
  ({ s with reel.followed := true, reel.coast := none } : State).down F.reelStat_coasting

theorem State.sampleTaken_reel (s : State) : s.sampleTaken.reel = { s.reel with followed := true, coast := none } :=
  State.down_reel ..

/-- The state with the position and the rate of a sample set directly (R154). -/
def State.sampleLoaded (s : State) (stamp v : Int) (time : Nat) : State :=
  let s := s.loadPos stamp
  { s with reel := s.reel.sampled v (v.natAbs * s.samplePeriod) time }

/-- The first sample in CONFIGURE or MAINTAIN: it ends STEP where it moves (R154). -/
def State.loadSample (s : State) (stamp v : Int) (time : Nat) : State :=
  let s := s.sampleLoaded stamp v time
  (if v == 0 then s else s.down F.reelStat_step).showReel

/-- After a loss of samples the difference M − T goes to the pending offset (R153). -/
def State.rejoin (s : State) (stamp : Int) (time : Nat) : State :=
  let s := s.addOffset (stamp * stampUnit - s.reel.t)
  { s with reel := s.reel.rejoined (stamp * stampUnit) time }

theorem State.takeSample_cases (s : State) (stamp v : Int) (time : Nat) :
    s.takeSample stamp v time = s.sampleTaken.loadSample stamp v time ∨
    s.takeSample stamp v time = s.sampleTaken.rejoin stamp time ∨
    s.takeSample stamp v time = s.sampleTaken.measure ⟨true, stamp * stampUnit, time, 0⟩ := by
  unfold State.takeSample
  dsimp only
  split
  · exact .inl rfl
  · split
    · exact .inr (.inl rfl)
    · exact .inr (.inr rfl)

theorem State.loadSample_follows {stamp v : Int} {time : Nat} (hfollowed : s.reel.followed = true)
    (hcoast : s.reel.coast = none) : (s.loadSample stamp v time).follows (stamp * stampUnit) := by
  have hload := congrArg Reel.taken (s.loadPos_reel stamp)
  rw [Reel.taken_placed, hfollowed, hcoast] at hload
  obtain ⟨hf, hc, hm⟩ := State.follows_of_taken hload
  have hsample : (s.sampleLoaded stamp v time).reel.taken = _ := Reel.taken_sampled (s.loadPos stamp).reel _ _ _
  rw [hf, hc, hm] at hsample
  have hshown : SameTaken (s.sampleLoaded stamp v time) (s.loadSample stamp v time) :=
    .showReel (.ite (.refl _) (.down (.refl _)))
  exact State.follows_of_taken (Eq.trans hshown hsample)

theorem State.rejoin_follows {stamp : Int} {time : Nat} (hfollowed : s.reel.followed = true)
    (hcoast : s.reel.coast = none) : (s.rejoin stamp time).follows (stamp * stampUnit) := by
  have hoffset : SameTaken s (s.addOffset (stamp * stampUnit - s.reel.t)) :=
    .showReel (.withReel (.refl s) (Reel.taken_withAdjust _ _))
  simp only [SameTaken, Reel.taken, Prod.mk.injEq] at hoffset
  obtain ⟨-, -, -, hf, hc⟩ := hoffset
  have hrejoin : (s.rejoin stamp time).reel.taken = _ := Reel.taken_rejoined _ (stamp * stampUnit) time
  rw [hf, hc, hfollowed, hcoast] at hrejoin
  exact State.follows_of_taken hrejoin

/-- A valid sample sets M, be it the first one, one after a loss, or one that the loop follows. -/
theorem State.takeSample_follows (s : State) (stamp v : Int) (time : Nat) :
    (s.takeSample stamp v time).follows (stamp * stampUnit) := by
  have hfollowed : s.sampleTaken.reel.followed = true := congrArg Reel.followed s.sampleTaken_reel
  have hcoast : s.sampleTaken.reel.coast = none := congrArg Reel.coast s.sampleTaken_reel
  rcases s.takeSample_cases stamp v time with h | h | h <;> rw [h]
  · exact State.loadSample_follows hfollowed hcoast
  · exact State.rejoin_follows hfollowed hcoast
  · have htaken := s.sampleTaken.measure_taken ⟨true, stamp * stampUnit, time, 0⟩
    rw [hfollowed, hcoast] at htaken
    exact State.follows_of_taken htaken

/-- The registers that say whether and from where the Reel follows are beside those of the ports. -/
theorem State.rd_received {f : Fld} (hlane : s.syncLane l = some n) (hf : f.besidePorts 1 = true) (hp : p < 1024)
    (w x : Nat) : ((s.takeSeq p w x (some n)).1.grant p 1).rd f = s.rd f :=
  (sameRd.refl.takeSeq hf hp (State.syncLane_lt hlane) Nat.one_pos w x).grant hf hp Nat.one_pos 1

/-- A follower takes a valid sample of its leader (R150, R152). -/
theorem syncSampleRx_follows {sample d1 d2 : BitVec 64} (arrival : BitVec 64) (hlane : s.syncLane l = some n)
    (hcrc : crc16 (leBytes 5 (sample.toNat / 256) ++ leBytes 8 d1.toNat ++ leBytes 6 d2.toNat) = d2.toNat / 2 ^ 48)
    (hleader : s.rd F.reelFollowCtl_leaderId = 0) (hflags : bits sample.toNat 14 2 = 0)
    (hzero : bits sample.toNat 34 6 = 0)
    (htaken : (s.takeSeq (192 + 8 * l + bits sample.toNat 8 3) 16 (bits sample.toNat 16 16) (some n)).2 = true)
    (hhops : bits sample.toNat 32 2 < 2) (hrole : s.rd F.reelFollowCtl_role = 2) (hsrc : s.rd F.reelTrackCtl_src = 8)
    (hrx : s.rd F.reelFollowCtl_rxLane = l) : answers (.syncSampleRx l sample d1 d2 arrival) s (fun t =>
      t.reel.followed = true ∧ t.reel.coast = none ∧ t.reel.m = signed 64 d1.toNat * stampUnit) := by
  have hport : 192 + 8 * l.val + bits sample.toNat 8 3 < 1024 := by
    have := bits_lt sample.toNat 8 3
    omega
  have hreceived {f : Fld} (hf : f.besidePorts 1 = true) :=
    State.rd_received hlane hf hport 16 (bits sample.toNat 16 16)
  rw [answers, exec_syncSampleRx, execSyncSampleRx, State.syncSample]
  simp only [hlane, hcrc, hleader, hflags, hzero, htaken, Nat.not_le.2 hhops, hreceived (f := F.reelFollowCtl_role) rfl,
    hreceived (f := F.reelTrackCtl_src) rfl, hreceived (f := F.reelFollowCtl_rxLane) rfl, hrole, hsrc, hrx,
    bne_self_eq_false, Bool.false_and, Bool.or_self, Bool.not_true, Bool.false_eq_true, if_false]
  exact ⟨_, rfl, State.takeSample_follows _ _ _ _⟩

/-! ### Samples missed (R153) -/

/-- Without a valid sample for TIMEOUT periods a follower coasts. -/
theorem followLost_coasts (hrole : s.rd F.reelFollowCtl_role = 2) (hcoasting : s.flag F.reelStat_coasting = false) :
    answers .followLost s (fun t =>
      t.flag F.reelStat_followLost = true ∧ t.flag F.reelStat_coasting = true ∧ t.reel.coast = some s.nowNs) := by
  refine ⟨{ ((s.up F.reelStat_followLost).up F.reelStat_uncertain).up F.reelStat_coasting with
    reel.coast := some s.nowNs }, ?_, ?_, ?_, rfl⟩
  · rw [exec_followLost, execFollowLost, hrole, hcoasting]
    rfl
  · rw [State.flag_withReel]
    exact (State.flag_wr_apart (by decide) (by decide)).trans ((State.flag_wr_apart (by decide) (by decide)).trans
      (State.flag_up_self (by decide) (by decide)))
  · rw [State.flag_withReel]
    exact State.flag_up_self (by decide) (by decide)

/-- In the end it stands in STEP. -/
theorem followCoastEnd_stops (hcoasting : s.flag F.reelStat_coasting = true) : answers .followCoastEnd s (fun t =>
    t.flag F.reelStat_coasting = false ∧ t.flag F.reelStat_step = true ∧ t.reel.v = 0) := by
  refine ⟨(s.down F.reelStat_coasting).enterStep.showReel, ?_, ?_, ?_, ?_⟩
  · rw [exec_followCoastEnd, execFollowCoastEnd, hcoasting]
    rfl
  · rw [State.flag_showReel _ (m := 1) (by decide) Nat.one_pos]
    unfold State.enterStep State.up
    rw [State.flag_wr_apart (by decide) (by decide), State.flag_withReel]
    exact State.flag_down_self (by decide)
  · rw [State.flag_showReel _ (m := 1) (by decide) Nat.one_pos]
    exact State.flag_enterStep_step _
  · rw [State.showReel_reel]
    rfl

/-- Settles O10: each clause is one command of a leader or of a follower. The instant that a sample is for is the
model's reading (log 38). -/
theorem followersFollow : Obligations.FollowersFollow :=
  ⟨fun _ _ _ => syncSampleTx_sends_next, fun _ _ _ _ _ _ arrival => syncSampleRx_follows arrival,
    fun _ => followLost_coasts, fun _ => followCoastEnd_stops⟩

end Sys2Proof.Machine
end

section
/-! SUPPORT. The nanosecond counter over a tick (R158), and what a step does (log 1, DESIGN CHOICE): the clauses of
O44. -/

namespace Sys2Proof.Machine

variable {s s0 t : State} {g lo hi : Fld} {m i j : Nat} {c : Instr} {rest : List Instr}

/-! ### Pairs of registers -/

theorem State.rd64_lt (s : State) (wlo : lo.width = 32) (whi : hi.width = 32) : s.rd64 lo hi i < 2 ^ 64 := by
  have hlo := wlo ▸ s.rd_lt lo i
  have hhi := whi ▸ s.rd_lt hi i
  unfold State.rd64
  omega

theorem State.rd64_congr (hlo : sameRd lo i s t) (hhi : sameRd hi i s t) : t.rd64 lo hi i = s.rd64 lo hi i := by
  unfold State.rd64
  rw [hlo, hhi]

theorem State.counter_lt (s : State) : s.counter < 2 ^ 64 := s.rd64_lt rfl rfl

theorem State.counter_congr (hlo : sameRd F.timeNowLo_value 0 s t) (hhi : sameRd F.timeNowHi_value 0 s t) :
    t.counter = s.counter := State.rd64_congr hlo hhi

theorem State.counter_setCounter (s : State) (v : Nat) : (s.setCounter v).counter = v % 2 ^ 64 :=
  State.rd64_wr64_self (by decide) (by decide) rfl rfl (Nat.mod_lt _ (by decide)) (by decide)

/-- An integer added to the counter wraps modulo 2⁶⁴ (R158, R161). -/
theorem State.counter_setCounter_int (s : State) (x : Int) :
    ((s.setCounter (x % (2 ^ 64 : Nat)).toNat).counter : Int) = x % 2 ^ 64 := by
  rw [State.counter_setCounter]
  omega

/-! ### The Reel and the trims leave the time unit alone -/

theorem sameRd.raiseW (h : sameRd g j s0 s) : sameRd g j s0 s.raiseW := h.andIf (fun h => h.withReel _)

/-- The fields that four Reel edges write beside those that show the loop. -/
def Fld.besideTick (g : Fld) (m : Nat) : Bool :=
  g.besideLoop m && F.reelTrackCtl_shadowPending.clearOf 1 g m && F.reelClamp_count.clearOf 1 g m

theorem sameRd.reelHandover (h : sameRd g j s0 s) (hpending : F.reelTrackCtl_shadowPending.clearOf 1 g m = true)
    (hj : j < m) : sameRd g j s0 s.reelHandover :=
  h.andUnless (fun h => (h.wrClearOf hpending Nat.one_pos hj).withReel _)

theorem sameRd.reelEdge (h : sameRd g j s0 s) (hclamp : F.reelClamp_count.clearOf 1 g m = true) (hj : j < m) :
    sameRd g j s0 s.reelEdge :=
  h.andUnless (fun h => ((h.withReel _).andIf (fun h => h.wrClearOf hclamp Nat.one_pos hj)).raiseW)

theorem sameRd.reelTick4 (h : sameRd g j s0 s) (hg : g.besideTick m = true) (hj : j < m) :
    sameRd g j s0 s.reelTick4 := by
  simp only [Fld.besideTick, Bool.and_eq_true] at hg
  obtain ⟨⟨hloop, hpending⟩, hclamp⟩ := hg
  exact (h.andIf (fun h => h.reelHandover hpending hj)).andUnless (fun h =>
    ((((h.reelEdge hclamp hj).reelEdge hclamp hj).reelEdge hclamp hj).reelEdge hclamp hj).showReel hloop hj)

theorem State.calTick_regs (s : State) : s.calTick.regs = s.regs := by
  unfold State.calTick
  split <;> rfl

/-! ### The tick -/

/-- TIME_SLEW_TICKS counts down beside the counter, and the model's clock moves. -/
theorem State.counter_tick (s : State) : (s.tick.counter : Int) = ((s.counter : Int) + s.incInUse) % 2 ^ 64 := by
  have hslew {g : Fld} (hg : F.timeSlewTicks_ticks.clearOf 1 g 1 = true) : sameRd g 0
      (s.setCounter (((s.counter : Int) + s.incInUse) % (2 ^ 64 : Nat)).toNat) s.tick :=
    (sameRd.refl.andIf (fun h => h.wrClearOf hg Nat.one_pos Nat.one_pos)).same rfl
  rw [State.counter_congr (hslew (by decide)) (hslew (by decide)), State.counter_setCounter_int]

/-- Outside a reset 4 ns add the increment in use to the counter (R158). -/
theorem State.counter_tickAll (hreset : s.chief.inReset = false) :
    (s.tickAll.counter : Int) = ((s.counter : Int) + s.incInUse) % 2 ^ 64 := by
  have hrest {g : Fld} (hg : g.besideTick 1 = true) : sameRd g 0 s.tick s.tick.reelTick4.calTick :=
    (sameRd.refl.reelTick4 hg Nat.one_pos).same (State.calTick_regs _)
  rw [State.tickAll, hreset, if_neg Bool.false_ne_true, State.counter_congr (hrest (by decide)) (hrest (by decide)),
    State.counter_tick]

theorem State.tickAll_of_inReset (hreset : s.chief.inReset = true) : s.tickAll = { s with clock := s.clock + 1 } :=
  if_pos hreset

/-! ### The step -/

theorem step_of_front (h : s.pending = c :: rest) : step s = exec c { s with pending := rest } := by
  rw [step, h]

theorem step_of_empty (h : s.pending = []) : step s = .next s.tickAll := by
  rw [step, h]

/-- Settles O44: the two forms of the queue. That an empty queue is a tick is the model's choice (log 1). -/
theorem stepTakesTheFront : Obligations.StepTakesTheFront := by
  refine ⟨fun _ _ _ => step_of_front, fun s hempty hreset => ?_, fun s hempty hreset => ?_⟩
  · have hkeeps := State.tickAll_keeps (w := {}) s
    exact ⟨_, step_of_empty hempty, hkeeps.clock, hkeeps.pending.trans hempty, State.counter_tickAll hreset⟩
  · rw [step_of_empty hempty, State.tickAll_of_inReset hreset]

end Sys2Proof.Machine
end

section
/-! SUPPORT. The time unit's increment, slew, steps and base (R159 to R164): one lemma per clause of O1. -/

namespace Sys2Proof.Machine

variable {s : State}

/-! ### Increment and slew (R159, R160) -/

theorem clampNat_le {lo hi : Nat} (h : lo ≤ hi) (n : Nat) : clampNat lo hi n ≤ hi := by
  unfold clampNat
  split
  · exact h
  · split
    · exact Nat.le_refl _
    · omega

/-- The increment written is held within its limits. -/
theorem timeIncWrite_holds_inc (s : State) (hi : Word) : answers (.timeIncWrite hi) s (fun t =>
    t.rd64 F.timeIncLo_inc F.timeIncHi_inc =
      clampNat (2 ^ 34 - 2 ^ 26) (2 ^ 34 + 2 ^ 26) (s.pairValue F.timeIncLo_inc 0 hi)) := by
  rw [answers, exec_timeIncWrite, execTimeIncWrite]
  refine ⟨_, rfl, State.rd64_wr64_self (by decide) (by decide) rfl rfl ?_ (by decide)⟩
  exact Nat.lt_of_le_of_lt (clampNat_le (by decide) _) (by decide)

/-- A slew runs for its ticks with the delta in force at its start. -/
theorem timeSlewStart_runs (s : State) (ticks : Word) : answers (.timeSlewStart ticks) s (fun t =>
    t.rd F.timeSlewTicks_ticks = ticks.toNat ∧
    t.time.slewDelta = clampInt (-(2 ^ 26)) (2 ^ 26) (signed 32 (s.rd F.timeSlew_slewDelta)) ∧
    (t.flag F.timeStat_slewing = true ↔ ticks.toNat ≠ 0)) := by
  have hlimit : ((sixtyFourth : Nat) : Int) = 2 ^ 26 := by norm_num [sixtyFourth]
  rw [answers, exec_timeSlewStart, execTimeSlewStart, hlimit]
  refine ⟨_, rfl, ?_, rfl, ?_⟩
  · rw [State.rd_wr_far_00 (by decide), State.rd_mk, State.rd_wr_self _ _ _ _ (by decide)]
    exact Nat.mod_eq_of_lt ticks.isLt
  · rw [State.flag_wr_b2n _ (by decide) rfl, bne_iff_ne]

/-- A slew that has run its ticks ends. -/
theorem timeSlewEnd_ends (s : State) : answers .timeSlewEnd s (fun t =>
    t.rd F.timeSlewTicks_ticks = 0 ∧ t.flag F.timeStat_slewing = false) := by
  rw [answers, exec_timeSlewEnd, execTimeSlewEnd]
  refine ⟨_, rfl, ?_, State.flag_down_self (by decide)⟩
  exact (State.rd_wr_far_00 (by decide)).trans (State.rd_down_self (by decide))

/-! ### Steps (R161) -/

/-- The state with the counter moved by a step, before its comparators are marked. -/
def State.steppedBy (s : State) (hi : Word) : State :=
  let v := s.pairValue F.timeStepLo_step 0 hi
  let s := s.dropStaged F.timeStepLo_step
  let s := s.setCounter (((s.counter : Int) + signed 64 v) % (2 ^ 64 : Nat)).toNat
  (s.up F.timeStat_stepped).log Ev.timeStep 0x82 0 [v % 2 ^ 32, v / 2 ^ 32]

/-- The armed comparators that a forward step from `before` carried past their target are marked (R176). -/
def State.markStepped (s : State) (d : Int) (before : Nat) : State :=
  forN 16 (fun i s =>
    if 0 < d && s.flag F.compStat_armed i && !reached before (s.compTarget i) && reached s.counter (s.compTarget i)
    then s.setComp i { s.comp i with stepped := true } else s) s

/-- The marks of comparators stand in no register. -/
theorem State.markStepped_regs (s : State) (d : Int) (before : Nat) : (s.markStepped d before).regs = s.regs := by
  refine forN_view State.regs (fun k t => ?_)
  split <;> rfl

theorem execTimeStep_eq (s : State) (hi : Word) : execTimeStep hi s =
    .next ((s.steppedBy hi).markStepped (signed 64 (s.pairValue F.timeStepLo_step 0 hi)) s.counter) := rfl

theorem State.counter_steppedBy (s : State) (hi : Word) : ((s.steppedBy hi).counter : Int) =
    ((s.counter : Int) + signed 64 (s.pairValue F.timeStepLo_step 0 hi)) % 2 ^ 64 := by
  unfold State.steppedBy
  dsimp only
  rw [State.counter_congr (State.rd_log _ _ (by decide)) (State.rd_log _ _ (by decide)), State.up,
    State.counter_congr (State.rd_wr_far_00 (by decide)) (State.rd_wr_far_00 (by decide)), State.counter_setCounter_int]
  rfl

/-- A step is added to the counter. -/
theorem timeStep_adds (s : State) (hi : Word) : answers (.timeStep hi) s (fun t =>
    (t.counter : Int) = ((s.counter : Int) + signed 64 (s.pairValue F.timeStepLo_step 0 hi)) % 2 ^ 64 ∧
    t.flag F.timeStat_stepped = true) := by
  have hmarks := (s.steppedBy hi).markStepped_regs (signed 64 (s.pairValue F.timeStepLo_step 0 hi)) s.counter
  refine ⟨_, execTimeStep_eq s hi, ?_, ?_⟩
  · rw [State.counter_congr (State.rd_congr hmarks _ _) (State.rd_congr hmarks _ _), State.counter_steppedBy]
  · rw [State.flag_congr (State.rd_congr hmarks _ _)]
    exact (State.flag_congr (State.rd_log _ _ (by decide))).trans (State.flag_up_self (by decide) (by decide))

/-! ### The PTP base (R163, R164) -/

/-- A write of TIME_BASE_CNT commits the base. -/
theorem timeBaseCommit_commits (cnt : Word) (hnsec : s.rd F.timeBaseNsec_value < 10 ^ 9) :
    answers (.timeBaseCommit cnt) s (fun t =>
      t.time.baseSec = s.rd F.timeBaseSecLo_value + s.rd F.timeBaseSecHi_value * 2 ^ 32 ∧
      t.time.baseNsec = s.rd F.timeBaseNsec_value ∧ t.time.baseCnt = cnt.toNat) := by
  rw [answers, exec_timeBaseCommit, execTimeBaseCommit]
  simp only [Nat.not_le.2 hnsec, if_false]
  refine ⟨_, rfl, ?_, rfl, rfl⟩
  simp (disch := decide) only [State.wr_time, State.rd_wr_far_00]

theorem State.ppsDrive_regs (s : State) (high : Bool) : (s.ppsDrive high).regs = s.regs := by
  unfold State.ppsDrive
  split
  · exact State.emit_regs ..
  · rfl

/-- The level of PPS_OUT stands in no register. -/
theorem State.ppsLevel_regs (s : State) (high : Bool) : (s.ppsLevel high).regs = s.regs := by
  unfold State.ppsLevel
  split
  · rfl
  · exact State.ppsDrive_regs _ _

/-- A base grows stale. -/
theorem baseStale_shows_stale (hold : 2 ^ 31 ≤ s.sinceBase) : answers .baseStale s (fun t =>
    t.flag F.timeStat_baseStale = true) := by
  have hlow : sameRd F.timeStat_baseStale 0 (s.up F.timeStat_baseStale)
      (if (s.up F.timeStat_baseStale).rd F.timePpsCtl_outSrc == 1 then (s.up F.timeStat_baseStale).ppsLevel false
        else s.up F.timeStat_baseStale) := sameRd.refl.andIf (fun h => h.same (State.ppsLevel_regs _ _))
  rw [answers, exec_baseStale, execBaseStale]
  simp only [Nat.not_lt.2 hold, if_false]
  exact ⟨_, rfl, (State.flag_congr hlow).trans (State.flag_up_self (by decide) (by decide))⟩

/-- Settles O1: each clause is one command of the time unit. -/
theorem timeUnitKeepsTime : Obligations.TimeUnitKeepsTime :=
  ⟨timeIncWrite_holds_inc, timeSlewStart_runs, timeSlewEnd_ends, timeStep_adds, fun _ => timeBaseCommit_commits,
    fun _ => baseStale_shows_stale⟩

end Sys2Proof.Machine
end

section
/-! SUPPORT. Comparators and time captures (R175, R176, R180): one lemma per clause of O2. -/

namespace Sys2Proof.Machine

variable {s s0 : State} {u : Fin 16} {g : Fld}

/-! ### Arming (R175) -/

theorem State.flag_setComp (s : State) (i : Nat) (c : Comparator) (f : Fld) (j : Nat) :
    (s.setComp i c).flag f j = s.flag f j := rfl

/-- ENABLE = 1 written to a comparator shows ENABLE and ARMED. -/
theorem State.compCtl_shows {ctl : Word} (henable : F.compCtl_enable.ofWord ctl = 1) :
    (s.compCtl u ctl).flag F.compStat_armed u = true ∧ (s.compCtl u ctl).flag F.compCtl_enable u = true := by
  unfold State.compCtl
  simp only [henable, if_true]
  rw [State.flag_setComp, State.flag_setComp]
  refine ⟨State.flag_up_self (by decide) (by decide), ?_⟩
  rw [State.up, State.flag_wr_far_fin (by decide), State.flag_wr_apart (by decide) (by decide),
    State.flag_wr_apart (by decide) (by decide), State.flag_wr_self (by decide)]
  rfl

/-- A comparator that the host holds arms. -/
theorem comparatorArm_arms {ctl : Word} (hheld : s.hostHolds (Res.timecmp + u) = true)
    (henable : F.compCtl_enable.ofWord ctl = 1) : answers (.comparatorArm u ctl) s (fun t =>
      t.flag F.compStat_armed u = true ∧ t.flag F.compCtl_enable u = true) := by
  refine ⟨s.compCtl u ctl, ?_, State.compCtl_shows henable⟩
  rw [exec_comparatorArm, execComparatorArm, if_pos hheld]

/-! ### Firing (R175, R176) -/

/-- A firing shown: LATE where the target had passed, and FIRES. -/
def State.compFiringShown (s : State) (i : Nat) : State :=
  (if (s.comp i).late || (s.comp i).stepped then s.up F.compStat_late i else s).count F.compStat_fires i 1

/-- A firing shown, its event raised, and the comparator's marks dropped. -/
def State.compFired (s : State) (i : Nat) : State := ((s.compFiringShown i).event (90 + i) 0 0x82).setComp i {}

/-- COUNT one down where it bounds the firings. -/
def State.compCountedDown (s : State) (i : Nat) : State :=
  if s.rd F.compCtl_count i = 0 then s else s.wr F.compCtl_count i (s.rd F.compCtl_count i - 1)

/-- A comparator that has fired its last is disarmed. -/
def State.compDisarmed (s : State) (i : Nat) : State := (s.down F.compStat_armed i).down F.compCtl_enable i

theorem sameRd.compFired (h : sameRd g u s0 s) (hlate : F.compStat_late.clearOf 16 g 16 = true)
    (hfires : F.compStat_fires.clearOf 16 g 16 = true) : sameRd g u s0 (s.compFired u) :=
  (((h.andIf (fun h => h.wrClearOf hlate u.isLt u.isLt)).wrClearOf hfires u.isLt u.isLt).event _ _ _).same rfl

theorem sameRd.compCountedDown (h : sameRd g u s0 s) (hcount : F.compCtl_count.clearOf 16 g 16 = true) :
    sameRd g u s0 (s.compCountedDown u) := h.andUnless (fun h => h.wrClearOf hcount u.isLt u.isLt)

/-- FIRES counts the firing. -/
theorem State.rd_compFired_fires (s : State) (u : Fin 16) :
    (s.compFired u).rd F.compStat_fires u = satAdd 16 (s.rd F.compStat_fires u) 1 := by
  have hlate : (if (s.comp u).late || (s.comp u).stepped then s.up F.compStat_late u else s).rd F.compStat_fires u =
      s.rd F.compStat_fires u := sameRd.refl.andIf (fun h => h.wrClearOf (by decide) u.isLt u.isLt)
  have hevent : (s.compFired u).rd F.compStat_fires u = (s.compFiringShown u).rd F.compStat_fires u :=
    State.rd_event ..
  rw [hevent, State.compFiringShown, State.rd_count_self (by decide) (by decide), hlate]
  rfl

/-- A firing raises producer 90 + i. -/
theorem State.compFired_out (s : State) (i : Nat) : Output.cairn (90 + i) 0 0x82 ∈ (s.compFired i).out := by
  change _ ∈ ((s.compFiringShown i).event (90 + i) 0 0x82).out
  rw [State.event_out]
  exact List.mem_append_right _ (List.mem_singleton_self _)

theorem State.compCountedDown_out (s : State) (i : Nat) : (s.compCountedDown i).out = s.out := by
  unfold State.compCountedDown
  split
  · rfl
  · exact State.wr_out ..

/-- An armed comparator whose target is reached, and that is not periodic, fires and disarms. -/
theorem execComparatorFire_of_due (harmed : s.flag F.compStat_armed u = true)
    (hdue : reached s.counter (s.compTarget u) = true) (hperiodic : s.flag F.compCtl_periodic u = false) :
    execComparatorFire u s = .next (((s.compFired u).compCountedDown u).compDisarmed u) := by
  have honce : (s.compFired u).flag F.compCtl_periodic u = false :=
    (State.flag_congr (sameRd.refl.compFired (by decide) (by decide))).trans hperiodic
  unfold execComparatorFire
  simp only [harmed, hdue, Bool.not_true, Bool.or_self, Bool.false_eq_true, if_false]
  change (if !(s.compFired u).flag F.compCtl_periodic u || _ then _ else _) = _
  rw [honce, Bool.not_false, Bool.true_or, if_pos rfl]
  rfl

/-- A comparator whose target is reached counts a firing, raises its event and, not periodic, disarms. -/
theorem comparatorFire_fires (harmed : s.flag F.compStat_armed u = true)
    (hdue : reached s.counter (s.compTarget u) = true) (hperiodic : s.flag F.compCtl_periodic u = false) :
    answers (.comparatorFire u) s (fun t =>
      t.rd F.compStat_fires u = satAdd 16 (s.rd F.compStat_fires u) 1 ∧
      t.flag F.compStat_armed u = false ∧ t.flag F.compCtl_enable u = false ∧
      Output.cairn (90 + u) 0 0x82 ∈ t.out) := by
  refine ⟨_, execComparatorFire_of_due harmed hdue hperiodic, ?_, ?_, State.flag_down_self (by decide), ?_⟩
  · have hdisarmed : sameRd F.compStat_fires u (s.compFired u) (((s.compFired u).compCountedDown u).compDisarmed u) :=
      ((sameRd.refl.compCountedDown (by decide)).wrClearOf (f := F.compStat_armed) (by decide) u.isLt u.isLt).wrClearOf
        (f := F.compCtl_enable) (by decide) u.isLt u.isLt
    exact Eq.trans hdisarmed (s.rd_compFired_fires u)
  · exact (State.flag_wr_far_fin (by decide)).trans (State.flag_down_self (by decide))
  · change _ ∈ ((s.compFired u).compCountedDown u).out
    rw [State.compCountedDown_out]
    exact s.compFired_out u

/-! ### Captures (R180) -/

theorem State.tcaps_setTcaps_self (s : State) (u : Nat) (l : List Nat) : (s.setTcaps u l).tcaps u = l := by
  unfold State.tcaps State.setTcaps
  dsimp only
  rw [State.wr64_time, State.wr_time]
  exact Sparse.get_set_self _ _ _ _

/-- A capture enters the counter behind the waiting entries. -/
theorem timeCapture_enters {u : Fin 4} (henable : s.flag F.tcapCtl_enable u = true) (hroom : (s.tcaps u).length < 4) :
    answers (.timeCapture u) s (fun t => t.tcaps u = s.tcaps u ++ [s.counter]) := by
  refine ⟨_, ?_, s.tcaps_setTcaps_self u _⟩
  rw [exec_timeCapture, execTimeCapture]
  simp only [henable, hroom, Bool.not_true, Bool.false_eq_true, if_false, if_true]

/-- A pop takes the head. -/
theorem timeCapturePop_takes_head (s : State) (u : Fin 4) :
    answers (.timeCapturePop u) s (fun t => t.tcaps u = (s.tcaps u).tail) :=
  ⟨_, rfl, s.tcaps_setTcaps_self u _⟩

/-- Settles O2: each clause is one command on one comparator or capture unit. -/
theorem comparatorsFireAndCapturesTake : Obligations.ComparatorsFireAndCapturesTake :=
  ⟨fun _ _ _ => comparatorArm_arms, fun _ _ => comparatorFire_fires, fun _ _ => timeCapture_enters,
    timeCapturePop_takes_head⟩

end Sys2Proof.Machine
end

section
/-! SUPPORT. Pulse generators (R178, R179): one lemma per clause of O3. -/

namespace Sys2Proof.Machine

variable {s s0 t : State} {k : Fin 4} {g : Fld} {m j : Nat}

/-! ### Generators beyond their registers, and the pins that they drive -/

@[simp] theorem State.gen_setGen_self (s : State) (k : Nat) (p : PulseGen) : (s.setGen k p).gen k = p :=
  Sparse.get_set_self _ _ _ _

theorem State.flag_setGen (s : State) (k : Nat) (p : PulseGen) (f : Fld) (j : Nat) :
    (s.setGen k p).flag f j = s.flag f j := rfl

theorem State.gen_congr (h : t.time = s.time) (k : Nat) : t.gen k = s.gen k := by
  unfold State.gen
  rw [h]

theorem State.ppsDrive_time (s : State) (high : Bool) : (s.ppsDrive high).time = s.time := by
  unfold State.ppsDrive
  split
  · exact State.emit_time ..
  · rfl

theorem State.evioSet_time (s : State) (i : Nat) (active : Bool) : (s.evioSet i active).time = s.time := by
  unfold State.evioSet
  rw [State.emit_time, State.wr_time]

/-- The EVIO pins of generator `k` in its active or idle state (R494). -/
def State.pulseEvio (s : State) (k : Nat) (active : Bool) : State :=
  forN 32 (fun i s => if (s.evioFn i).func == 0x10 + k && s.evioActs then s.evioSet i active else s) s

theorem State.pulseEvio_time (s : State) (k : Nat) (active : Bool) : (s.pulseEvio k active).time = s.time := by
  refine forN_view State.time (fun i t => ?_)
  split
  · exact State.evioSet_time ..
  · rfl

/-- The pins leave the time unit alone. -/
theorem State.pulsePins_time (s : State) (k : Nat) (active : Bool) : (s.pulsePins k active).time = s.time := by
  unfold State.pulsePins
  dsimp only
  split
  · exact (State.ppsDrive_time ..).trans (s.pulseEvio_time k active)
  · exact s.pulseEvio_time k active

/-- Of the registers the pins write LEVEL of the EVIO outputs alone. -/
theorem sameRd.pulsePins (h : sameRd g j s0 s) (hlevel : F.cairnEvioOut_level.clearOf 32 g m = true) (hj : j < m)
    (k : Nat) (active : Bool) : sameRd g j s0 (s.pulsePins k active) :=
  (h.forN (fun _ _ hi h => h.andIf (fun h => (h.wrClearOf hlevel hi hj).same (State.emit_regs _ _)))).andIf
    (fun h => h.same (State.ppsDrive_regs _ _))

/-! ### Arming (R178) -/

/-- The fields of PULSE_CTL as a write of ENABLE = 1 sets them. -/
def State.pulseEnabled (s : State) (k : Nat) (ctl : Word) : State :=
  ((((s.up F.pulseCtl_enable k).wr F.pulseCtl_periodic k (F.pulseCtl_periodic.ofWord ctl)).wr F.pulseCtl_polarity k
    (F.pulseCtl_polarity.ofWord ctl)).wr F.pulseCtl_src k (F.pulseCtl_src.ofWord ctl)).wr F.pulseCtl_count k
    (F.pulseCtl_count.ofWord ctl)

theorem State.flag_pulseEnabled (s : State) (k : Nat) (ctl : Word) :
    (s.pulseEnabled k ctl).flag F.pulseCtl_enable k = true := by
  unfold State.pulseEnabled
  rw [State.flag_wr_apart (by decide) (by decide), State.flag_wr_apart (by decide) (by decide),
    State.flag_wr_apart (by decide) (by decide), State.flag_wr_apart (by decide) (by decide)]
  exact State.flag_up_self (by decide) (by decide)

/-- ENABLE = 1 written to a generator arms it, at START or for events. -/
theorem State.pulseCtl_of_enable {ctl : Word} (henable : F.pulseCtl_enable.ofWord ctl = 1) :
    ∃ p : PulseGen, s.pulseCtl k ctl = (s.pulseEnabled k ctl).setGen k p ∧ p.armed = true := by
  unfold State.pulseCtl
  simp only [henable, if_true]
  split
  · exact ⟨_, rfl, rfl⟩
  · exact ⟨_, rfl, rfl⟩

/-- A generator that the host holds arms. -/
theorem pulseArm_arms {ctl : Word} (hheld : s.hostHolds (Res.pulse + k) = true)
    (henable : F.pulseCtl_enable.ofWord ctl = 1) :
    answers (.pulseArm k ctl) s (fun t => t.flag F.pulseCtl_enable k = true ∧ (t.gen k).armed = true) := by
  obtain ⟨p, hctl, harmed⟩ := State.pulseCtl_of_enable (s := s) (k := k) henable
  refine ⟨(s.pulseEnabled k ctl).setGen k p, ?_, ?_, ?_⟩
  · rw [exec_pulseArm, execPulseArm, if_pos hheld, hctl]
  · rw [State.flag_setGen, State.flag_pulseEnabled]
  · rw [State.gen_setGen_self, harmed]

/-! ### Starting (R178, R179) -/

/-- A pulse begun is on the pin, counted, with its start time kept. -/
theorem State.gen_pulseBegin (s : State) (k start : Nat) : (s.pulseBegin k start).gen k =
    { s.gen k with active := true, late := false, made := (s.gen k).made + 1, next := some start } := by
  unfold State.pulseBegin
  dsimp only
  rw [State.gen_congr (State.pulsePins_time _ _ _), State.gen_setGen_self]

/-- A pulse starts once the counter has reached its time. -/
theorem pulseStart_starts {start : Nat} (hnext : (s.gen k).next = some start) (harmed : (s.gen k).armed = true)
    (hidle : (s.gen k).active = false) (hdue : reached s.counter start = true) :
    answers (.pulseStart k) s (fun t => (t.gen k).active = true ∧ (t.gen k).made = (s.gen k).made + 1) := by
  have hbegun := s.gen_pulseBegin k start
  refine ⟨s.pulseBegin k start, ?_, congrArg PulseGen.active hbegun, congrArg PulseGen.made hbegun⟩
  rw [exec_pulseStart, execPulseStart]
  simp only [hnext, harmed, hidle, hdue, Bool.not_false, Bool.and_self, if_true]

/-- With SRC = 1 an event starts a pulse at its arrival. -/
theorem pulseStartEvent_starts (hidle : s.flag F.pulseStat_running k = false) (harmed : (s.gen k).armed = true)
    (hsrc : s.flag F.pulseCtl_src k = true) :
    answers (.pulseStartEvent k) s (fun t => (t.gen k).active = true ∧ (t.gen k).next = some s.counter) := by
  have hbegun := s.gen_pulseBegin k s.counter
  refine ⟨s.pulseBegin k s.counter, ?_, congrArg PulseGen.active hbegun, congrArg PulseGen.next hbegun⟩
  rw [exec_pulseStartEvent, execPulseStartEvent]
  simp only [hidle, harmed, hsrc, Bool.and_self, Bool.false_eq_true, if_false, if_true]

/-! ### Ending (R178) -/

/-- A generator that has made its last pulse: it does not run, and waits for events alone. -/
def State.pulseDone (s : State) (k : Nat) : State :=
  let bySrc := s.flag F.pulseCtl_src k
  let s := s.down F.pulseStat_running k
  (if bySrc then s else s.down F.pulseCtl_enable k).setGen k { armed := bySrc }

/-- It shows so. -/
theorem State.pulseDone_shows (s : State) (k : Fin 4) :
    ((s.pulseDone k).gen k).active = false ∧ (s.pulseDone k).flag F.pulseStat_running k = false := by
  have henable : sameRd F.pulseStat_running k (s.down F.pulseStat_running k) (if s.flag F.pulseCtl_src k then
      s.down F.pulseStat_running k else (s.down F.pulseStat_running k).down F.pulseCtl_enable k) :=
    sameRd.refl.andUnless (fun h => h.wrClearOf (f := F.pulseCtl_enable) (n := 4) (m := 4) (by decide) k.isLt k.isLt)
  unfold State.pulseDone
  dsimp only
  rw [State.gen_setGen_self, State.flag_setGen]
  exact ⟨rfl, (State.flag_congr henable).trans (State.flag_down_self (by decide))⟩

/-- The pulse of a generator that is not periodic is its last. -/
theorem execPulseEnd_of_once (hactive : (s.gen k).active = true) (honce : s.flag F.pulseCtl_periodic k = false) :
    execPulseEnd k s = .next ((s.pulsePins k false).pulseDone k) := by
  have honce' : (s.pulsePins k false).flag F.pulseCtl_periodic k = false :=
    (State.flag_congr (sameRd.refl.pulsePins (m := 4) (by decide) k.isLt _ _)).trans honce
  unfold execPulseEnd
  simp only [hactive, honce', Bool.not_true, Bool.false_and, Bool.false_eq_true, if_false]
  rfl

/-- A pulse ends. -/
theorem pulseEnd_ends (hactive : (s.gen k).active = true) (honce : s.flag F.pulseCtl_periodic k = false) :
    answers (.pulseEnd k) s (fun t => (t.gen k).active = false ∧ t.flag F.pulseStat_running k = false) :=
  ⟨_, execPulseEnd_of_once hactive honce, State.pulseDone_shows _ k⟩

/-- A stop event waits for the end of the current pulse. -/
theorem pulseStopEvent_waits (hrunning : s.flag F.pulseStat_running k = true) (hactive : (s.gen k).active = true) :
    answers (.pulseStopEvent k) s (fun t => (t.gen k).stop = true ∧ (t.gen k).active = true) := by
  have hstop := s.gen_setGen_self k { s.gen k with stop := true }
  refine ⟨s.setGen k { s.gen k with stop := true }, ?_, congrArg PulseGen.stop hstop,
    (congrArg PulseGen.active hstop).trans hactive⟩
  rw [exec_pulseStopEvent, execPulseStopEvent]
  simp only [hrunning, hactive, Bool.not_true, Bool.false_eq_true, if_false, if_true]

/-- Settles O3: each clause is one command on one generator. -/
theorem pulsesStartAndStop : Obligations.PulsesStartAndStop :=
  ⟨fun _ _ _ => pulseArm_arms, fun _ _ _ => pulseStart_starts, fun _ _ => pulseEnd_ends,
    fun _ _ => pulseStartEvent_starts, fun _ _ => pulseStopEvent_waits⟩

end Sys2Proof.Machine
end

section
/-! SUPPORT. PPS pins, timestamp FIFOs and header templates (R172, R181, R182, R185): one lemma per clause of O4. -/

namespace Sys2Proof.Machine

variable {s t : State} {i : Fin 16}

/-! ### PPS_IN (R181) -/

/-- The stamp of an accepted edge, counted in PPS_IN_OVER where the last one was not read. -/
def State.ppsStamped (s : State) : State :=
  let s := if s.flag F.timeStat_ppsInSeen then s.count F.timePpsCtl_ppsInOver 0 1 else s
  s.wr64 F.timePpsInLo_stamp F.timePpsInHi_stamp 0 s.counter

theorem State.ppsStamped_stamp (s : State) :
    s.ppsStamped.rd64 F.timePpsInLo_stamp F.timePpsInHi_stamp = s.counter := by
  have hover {g : Fld} (hg : F.timePpsCtl_ppsInOver.clearOf 1 g 1 = true) : sameRd g 0 s
      (if s.flag F.timeStat_ppsInSeen then s.count F.timePpsCtl_ppsInOver 0 1 else s) :=
    sameRd.refl.andIf (fun h => h.wrClearOf hg Nat.one_pos Nat.one_pos)
  unfold State.ppsStamped
  dsimp only
  rw [State.rd64_wr64_self (by decide) (by decide) rfl rfl (State.counter_lt _) (by decide),
    State.counter_congr (hover (by decide)) (hover (by decide))]

/-- An edge accepted, its time kept. -/
def State.ppsAccepted (s : State) : State :=
  let s := s.ppsStamped.up F.timeStat_ppsInSeen
  { s with time.ppsEdge := some s.clock }

theorem State.ppsAccepted_regs (s : State) : s.ppsAccepted.regs = (s.ppsStamped.up F.timeStat_ppsInSeen).regs := rfl

/-- The first edge of the chosen polarity is accepted. -/
theorem execPpsInEdge_of_first {falling : Bool} (hpin : (s.pinFn 2 0).func = 0x01)
    (hedge : s.flag F.timePpsCtl_inEdge = falling) (hfirst : s.time.ppsEdge = none) :
    execPpsInEdge falling s = .next s.ppsAccepted := by
  have htaken : ((s.pinFn 2 0).func ≠ 0x01 || s.flag F.timePpsCtl_inEdge != falling) = false := by
    rw [hpin, hedge, bne_self_eq_false]
    rfl
  unfold execPpsInEdge
  rw [htaken, hfirst, if_neg Bool.false_ne_true, if_neg Bool.false_ne_true]
  rfl

/-- An accepted edge of PPS_IN is stamped with the counter. -/
theorem ppsInEdge_stamps {falling : Bool} (hpin : (s.pinFn 2 0).func = 0x01)
    (hedge : s.flag F.timePpsCtl_inEdge = falling) (hfirst : s.time.ppsEdge = none) :
    answers (.ppsInEdge falling) s (fun t =>
      t.rd64 F.timePpsInLo_stamp F.timePpsInHi_stamp = s.counter ∧ t.flag F.timeStat_ppsInSeen = true) := by
  have hseen {g : Fld} (hg : F.timeStat_ppsInSeen.clearOf 1 g 1 = true) : sameRd g 0 s.ppsStamped s.ppsAccepted :=
    (sameRd.refl.wrClearOf hg Nat.one_pos Nat.one_pos).same s.ppsAccepted_regs
  refine ⟨_, execPpsInEdge_of_first hpin hedge hfirst, ?_, ?_⟩
  · rw [State.rd64_congr (hseen (by decide)) (hseen (by decide)), State.ppsStamped_stamp]
  · rw [State.flag_congr (State.rd_congr s.ppsAccepted_regs _ _), State.flag_up_self (by decide) (by decide)]

/-! ### PPS_OUT (R182) -/

theorem State.ppsLevel_ppsHigh (s : State) (high : Bool) : (s.ppsLevel high).time.ppsHigh = high := by
  unfold State.ppsLevel
  split
  · next h => exact eq_of_beq h
  · exact congrArg TimeUnit.ppsHigh (State.ppsDrive_time _ _)

/-- PPS_OUT rises at a whole second of a fresh base. -/
theorem ppsOutSecond_rises (hpin : (s.pinFn 2 1).func = 0x01) (hsrc : s.rd F.timePpsCtl_outSrc = 1)
    (hfresh : s.flag F.timeStat_baseStale = false) : answers .ppsOutSecond s (fun t => t.time.ppsHigh = true) := by
  refine ⟨s.ppsLevel true, ?_, s.ppsLevel_ppsHigh true⟩
  rw [exec_ppsOutSecond, execPpsOutSecond, hpin, hsrc, hfresh]
  rfl

/-- PPS_OUT falls after its width. -/
theorem ppsOutWidthEnd_falls (s : State) : answers .ppsOutWidthEnd s (fun t => t.time.ppsHigh = false) :=
  ⟨_, rfl, s.ppsLevel_ppsHigh false⟩

/-! ### Timestamp FIFOs (R172) -/

theorem State.stamps_setStamps_self (s : State) (e : Nat) (l : List TsEntry) : (s.setStamps e l).stamps e = l := by
  unfold State.stamps State.setStamps
  dsimp only
  rw [State.wr64_time, State.wr_time, State.wr_time, State.wr_time]
  exact Sparse.get_set_self _ _ _ _

/-- A popped stamp leaves its FIFO. -/
theorem macTsPop_takes_head (s : State) (e : Fin 16) :
    answers (.macTsPop e) s (fun t => t.stamps e = (s.stamps e).tail) :=
  ⟨_, rfl, s.stamps_setStamps_self e _⟩

/-! ### Header templates (R185) -/

/-- The header bytes are those of the window's 256 words. -/
theorem State.templateBytes_congr (i : Fin 16)
    (h : ∀ w < 256, sameRd F.templateWord_word w s t) : t.templateBytes i = s.templateBytes i := by
  unfold State.templateBytes
  refine List.flatMap_congr (fun w hw => ?_)
  have := List.mem_range.1 hw
  rw [h _ (by omega)]

/-- The control fields of a template written, before its check. -/
def State.templateSet (s : State) (i : Nat) (ctl : Word) : State :=
  let s := s.wr F.templateCtl_hdrLen i (F.templateCtl_hdrLen.ofWord ctl)
  let s := s.wr F.templateCtl_csum i (F.templateCtl_csum.ofWord ctl)
  if F.templateCtl_templateBad.ofWord ctl = 1 then s.down F.templateCtl_templateBad i else s

theorem execTemplateValid_eq (s : State) (i : Fin 16) (ctl : Word) : execTemplateValid i ctl s =
    if F.templateCtl_valid.ofWord ctl = 0 then .next ((s.templateSet i ctl).down F.templateCtl_valid i)
    else if templateGood ((s.templateSet i ctl).rd F.templateCtl_hdrLen i) ((s.templateSet i ctl).templateBytes i) then
      .next ((s.templateSet i ctl).up F.templateCtl_valid i)
    else .next (((s.templateSet i ctl).down F.templateCtl_valid i).up F.templateCtl_templateBad i) := rfl

theorem State.rd_templateSet_hdrLen (s : State) (i : Fin 16) (ctl : Word) :
    (s.templateSet i ctl).rd F.templateCtl_hdrLen i = F.templateCtl_hdrLen.ofWord ctl := by
  have hafter : sameRd F.templateCtl_hdrLen i (s.wr F.templateCtl_hdrLen i (F.templateCtl_hdrLen.ofWord ctl))
      (s.templateSet i ctl) :=
    (sameRd.refl.wrClearOf (f := F.templateCtl_csum) (n := 16) (m := 16) (by decide) i.isLt i.isLt).andIf
      (fun h => h.wrClearOf (f := F.templateCtl_templateBad) (n := 16) (m := 16) (by decide) i.isLt i.isLt)
  exact (Eq.trans hafter (State.rd_wr_self _ _ _ _ (by decide))).trans (Nat.mod_eq_of_lt (bits_lt _ _ _))

/-- The control fields stand beside the header bytes. -/
theorem State.templateBytes_templateSet (s : State) (i : Fin 16) (ctl : Word) :
    (s.templateSet i ctl).templateBytes i = s.templateBytes i := by
  refine State.templateBytes_congr i (fun w hw => ?_)
  exact ((sameRd.refl.wrClearOf (f := F.templateCtl_hdrLen) (n := 16) (by decide) i.isLt hw).wrClearOf
    (f := F.templateCtl_csum) (n := 16) (by decide) i.isLt hw).andIf
      (fun h => h.wrClearOf (f := F.templateCtl_templateBad) (n := 16) (by decide) i.isLt hw)

/-- A template whose fields pass the check becomes valid. -/
theorem templateValid_validates {ctl : Word} (hvalid : F.templateCtl_valid.ofWord ctl = 1)
    (hgood : templateGood (F.templateCtl_hdrLen.ofWord ctl) (s.templateBytes i) = true) :
    answers (.templateValid i ctl) s (fun t => t.flag F.templateCtl_valid i = true) := by
  have hcheck : templateGood ((s.templateSet i ctl).rd F.templateCtl_hdrLen i) ((s.templateSet i ctl).templateBytes i) =
      true := by rw [State.rd_templateSet_hdrLen, State.templateBytes_templateSet, hgood]
  refine ⟨(s.templateSet i ctl).up F.templateCtl_valid i, ?_, State.flag_up_self (by decide) (by decide)⟩
  rw [exec_templateValid, execTemplateValid_eq, hvalid, hcheck]
  rfl

/-- Settles O4: each clause is one command on a pin, a FIFO or a template. -/
theorem ppsStampsAndTemplates : Obligations.PpsStampsAndTemplates :=
  ⟨fun _ _ => ppsInEdge_stamps, fun _ => ppsOutSecond_rises, ppsOutWidthEnd_falls, macTsPop_takes_head,
    fun _ _ _ => templateValid_validates⟩

end Sys2Proof.Machine
end

section
/-! SUPPORT. The Ethernet ports' links and the frames received (R166, R167, R185, R188): the clauses of O15 about
them. -/

namespace Sys2Proof.Machine

variable {s s0 : State} {e : Fin 16} {g : Fld} {m j p : Nat}

/-! ### The links (R166, R188) -/

/-- A link that comes up is shown with its speed. -/
theorem ethLinkUp_shows (hport : s.macPort e = true) : answers (.ethLinkUp e) s (fun t =>
    t.flag F.macStat_linkUp e = true ∧
      t.rd F.macStat_speed e = (if s.laneRole (48 + e) = Role.eth25 then 1 else 2)) := by
  rw [answers, exec_ethLinkUp, execEthLinkUp]
  simp only [hport, Bool.not_true, Bool.false_eq_true, if_false]
  refine ⟨_, rfl, ?_, ?_⟩
  · rw [State.flag_wr_apart (by decide) (by decide), State.flag_wr_apart (by decide) (by decide),
      State.flag_wr_apart (by decide) (by decide), State.flag_up_self (by decide) (by decide)]
  · rw [State.rd_wr_self _ _ _ _ (by decide)]
    simp only [beq_iff_eq]
    split <;> rfl

theorem sameRd.dropCreditsOf (h : sameRd g j s0 s) (hcredit : F.sportCredit_credit.clearOf 1024 g m = true)
    (hp : p < 1024) (hj : j < m) : sameRd g j s0 (s.dropCredits p) :=
  .ite ((h.withLinks _).wrClearOf hcredit hp hj) ((h.withLinks _).andIf (fun h => h.wrClearOf hcredit hp hj))

/-- MAC_STAT of a port whose link is down. -/
def State.linkDownShown (s : State) (e : Nat) : State :=
  (((s.down F.macStat_linkUp e).down F.macStat_anDone e).down F.macStat_fecOn e).wr F.macStat_speed e 0

/-- Beside MAC_STAT a link that goes down writes the credits of its streams alone. -/
theorem sameRd.ethDown (h : sameRd g j s0 (s.linkDownShown e)) (hcredit : F.sportCredit_credit.clearOf 1024 g m = true)
    (hgranted : F.lstreamCfg_granted.clearOf 256 g m = true) (hj : j < m) : sameRd g j s0 (s.ethDown e) :=
  ((h.forN (fun _ _ _ h => h.andIf (fun h => h.dropCreditsOf hcredit (by omega) hj))).forN
    (fun _ _ hk h => h.andIf (fun h => (h.wrClearOf hgranted hk hj).dropCreditsOf hcredit (by omega) hj))).forN
    (fun _ _ _ h => h.andIf (fun h => h.dropCreditsOf hcredit (by omega) hj))

/-- A link that goes down is shown. -/
theorem ethLinkDown_shows (s : State) (e : Fin 16) : answers (.ethLinkDown e) s (fun t =>
    t.flag F.macStat_linkUp e = false ∧ t.rd F.macStat_speed e = 0) := by
  refine ⟨s.ethDown e, rfl, ?_, ?_⟩
  · rw [State.flag_congr (sameRd.refl.ethDown (m := 16) (by decide) (by decide) e.isLt), State.linkDownShown,
      State.flag_wr_apart (by decide) (by decide), State.down, State.flag_wr_apart (by decide) (by decide), State.down,
      State.flag_wr_apart (by decide) (by decide)]
    exact State.flag_down_self (by decide)
  · exact Eq.trans (sameRd.refl.ethDown (m := 16) (by decide) (by decide) e.isLt) (State.rd_down_self (by decide))

/-! ### Frames received (R167, R189) -/

/-- The FEC counts that a frame brings. -/
def State.fecCounted (s : State) (e fc fu : Nat) : State :=
  (s.count (F.macCnt_count 5) e fc).count (F.macCnt_count 6) e fu

/-- No count that a good frame moves has a bit in common with the field. -/
def Fld.besideMacCounts (g : Fld) (m : Nat) : Bool :=
  (F.macCnt_count 0).clearOf 16 g m && (F.macCnt_count 5).clearOf 16 g m && (F.macCnt_count 6).clearOf 16 g m

theorem sameRd.fecCounted (h : sameRd g j s0 s) (h5 : (F.macCnt_count 5).clearOf 16 g m = true)
    (h6 : (F.macCnt_count 6).clearOf 16 g m = true) (hj : j < m) (fc fu : Nat) : sameRd g j s0 (s.fecCounted e fc fu) :=
  (h.wrClearOf h5 e.isLt hj).wrClearOf h6 e.isLt hj

/-- A bad frame is counted on its port. -/
theorem macFrameRx_counts_bad (f : Bytes) (measured : Int) (fc fu : Nat) (hup : s.macUp e = true) :
    answers (.macFrameRx e f false measured fc fu) s (fun t =>
      t.rd (F.macCnt_count 2) e = satAdd 32 (s.rd (F.macCnt_count 2) e) 1 ∧
      t.rd (F.macCnt_count 5) e = satAdd 32 (s.rd (F.macCnt_count 5) e) fc) := by
  refine ⟨(s.fecCounted e fc fu).count (F.macCnt_count 2) e 1, ?_, ?_, ?_⟩
  · rw [exec_macFrameRx, execMacFrameRx]
    simp only [hup, Bool.not_true, Bool.not_false, Bool.true_or, Bool.false_eq_true, if_false, if_true]
    rfl
  · rw [State.rd_count_self (by decide) (by decide), sameRd.refl.fecCounted (m := 16) (by decide) (by decide) e.isLt]
    rfl
  · rw [State.count, State.rd_wr_far_fin (by decide), State.fecCounted, State.count, State.rd_wr_far_fin (by decide)]
    exact State.rd_count_self (by decide) (by decide)

/-- A good frame counted, with its FEC counts. -/
def State.frameCounted (s : State) (e fc fu : Nat) : State := (s.fecCounted e fc fu).count (F.macCnt_count 0) e 1

theorem sameRd.frameCounted (h : sameRd g j s0 s) (hg : g.besideMacCounts m = true) (hj : j < m) (fc fu : Nat) :
    sameRd g j s0 (s.frameCounted e fc fu) := by
  simp only [Fld.besideMacCounts, Bool.and_eq_true] at hg
  obtain ⟨⟨h0, h5⟩, h6⟩ := hg
  exact (h.fecCounted h5 h6 hj fc fu).wrClearOf h0 e.isLt hj

theorem State.rd_frameCounted (s : State) {fc fu : Nat} :
    (s.frameCounted e fc fu).rd (F.macCnt_count 0) e = satAdd 32 (s.rd (F.macCnt_count 0) e) 1 := by
  rw [State.frameCounted, State.rd_count_self (by decide) (by decide),
    sameRd.refl.fecCounted (m := 16) (by decide) (by decide) e.isLt]
  rfl

/-- The filter looks at the port's addresses and at its control word. -/
theorem State.macAccepts_fecCounted (s : State) (f : Bytes) (fc fu : Nat) :
    (s.fecCounted e fc fu).macAccepts e f = s.macAccepts e f := by
  have hrd {g : Fld} (h5 : (F.macCnt_count 5).clearOf 16 g 16 = true) (h6 : (F.macCnt_count 6).clearOf 16 g 16 = true) :
      (s.fecCounted e fc fu).rd g e = s.rd g e := sameRd.refl.fecCounted h5 h6 e.isLt fc fu
  unfold State.macAccepts State.flag
  rw [hrd (g := F.macAddrLo_addr) (by decide) (by decide), hrd (g := F.macAddrHi_addr) (by decide) (by decide),
    hrd (g := F.macCtl_ptpMcast) (by decide) (by decide), hrd (g := F.macCtl_promisc) (by decide) (by decide)]

/-- A frame with another EtherType than IPv4 or a tag holds no datagram. -/
theorem udpOf_of_other {f : Bytes} (htype : beAt f 12 2 ∉ [0x8808, 0x0800, 0x8100]) : udpOf f = none := by
  simp only [List.mem_cons, List.not_mem_nil, or_false, not_or] at htype
  obtain ⟨-, hip, htag⟩ := htype
  have htag' : (beAt f 12 2 == 0x8100) = false := beq_eq_false_iff_ne.2 htag
  have hip' : (beAt f 12 2 != 0x0800) = true := bne_iff_ne.2 hip
  unfold udpOf
  simp only [htag', hip', Bool.false_eq_true, if_false, Bool.true_or, if_true]

/-- The header and the frame as staged for ring 4 (R464). -/
def rxEntry (e : Nat) (frame : Bytes) (stamp : Nat) : Bytes :=
  let h := leBytes 2 frame.length ++ leBytes 1 e ++ leBytes 1 0 ++ leBytes 8 stamp ++ zeros 48
  h ++ leBytes 4 (crc32c h) ++ frame

/-- With room in ring 4 a frame is staged for it. -/
theorem State.deliverFrame_of_room {f : Bytes} {k stamp : Nat} (hen : s.flag F.ringCtl_en 4 = true)
    (hroom : s.outUsed 4 + s.host.rxStaged.length < s.outSize 4) (hfits : f.length ≤ s.rxEntryBytes - 64) :
    s.deliverFrame k f stamp = { s with host.rxStaged := s.host.rxStaged ++ [rxEntry k f stamp] } := by
  unfold State.deliverFrame
  simp only [hen, Nat.not_lt.2 (Nat.succ_le_of_lt hroom), Nat.not_lt.2 hfits, decide_false, Bool.not_true, Bool.or_self,
    Bool.false_eq_true, if_false]
  rfl

/-- A good frame that passes the filter, holds no datagram and finds room is counted and staged. -/
theorem execMacFrameRx_of_good {f : Bytes} {measured : Int} {fc fu : Nat} (hup : s.macUp e = true)
    (hmin : 60 ≤ f.length) (hmax : f.length ≤ 9596) (htype : beAt f 12 2 ∉ [0x8808, 0x0800, 0x8100])
    (haccept : s.macAccepts e f = true) : execMacFrameRx e f true measured fc fu s =
      .next ((s.frameCounted e fc fu).deliverFrame e f ((s.frameCounted e fc fu).macStamp e false measured)) := by
  have hpause : (beAt f 12 2 == 0x8808) = false := beq_eq_false_iff_ne.2 (fun h => htype (h ▸ List.mem_cons_self ..))
  have haccept' := (s.macAccepts_fecCounted f fc fu).trans haccept
  unfold State.fecCounted at haccept'
  unfold execMacFrameRx
  simp only [hup, hpause, haccept', udpOf_of_other htype, Nat.not_lt.2 hmin, Nat.not_lt.2 hmax, decide_false,
    Bool.not_true, Bool.or_self, Bool.false_and, Bool.false_eq_true, if_false]
  rfl

/-- A good frame that passes the filter is counted, and with room goes to ring 4. -/
theorem macFrameRx_takes_good (f : Bytes) (measured : Int) (fc fu : Nat) (hup : s.macUp e = true)
    (hmin : 60 ≤ f.length) (hmax : f.length ≤ 9596) (htype : beAt f 12 2 ∉ [0x8808, 0x0800, 0x8100])
    (haccept : s.macAccepts e f = true) (hen : s.flag F.ringCtl_en 4 = true)
    (hroom : s.outUsed 4 + s.host.rxStaged.length < s.outSize 4) (hfits : f.length ≤ s.rxEntryBytes - 64) :
    answers (.macFrameRx e f true measured fc fu) s (fun t =>
      t.rd (F.macCnt_count 0) e = satAdd 32 (s.rd (F.macCnt_count 0) e) 1 ∧
      t.host.rxStaged.length = s.host.rxStaged.length + 1) := by
  have hring {g : Fld} (hg : g.besideMacCounts 6 = true) : (s.frameCounted e fc fu).rd g 4 = s.rd g 4 :=
    sameRd.refl.frameCounted hg (by decide) fc fu
  have hused : (s.frameCounted e fc fu).outUsed 4 = s.outUsed 4 := by
    rw [State.outUsed, State.outUsed, hring (by decide), hring (by decide)]
  have hsize : (s.frameCounted e fc fu).outSize 4 = s.outSize 4 := by
    rw [State.outSize, State.outSize, hring (by decide)]
  have hentry : (s.frameCounted e fc fu).rxEntryBytes = s.rxEntryBytes := by
    rw [State.rxEntryBytes, State.rxEntryBytes, hring (by decide)]
  have hhost : (s.frameCounted e fc fu).host = s.host := rfl
  have hstaged := State.deliverFrame_of_room (s := s.frameCounted e fc fu) (f := f) (k := e)
    (stamp := (s.frameCounted e fc fu).macStamp e false measured)
    ((State.flag_congr (hring (by decide))).trans hen) (by rw [hused, hsize, hhost]; exact hroom)
    (by rw [hentry]; exact hfits)
  refine ⟨_, (execMacFrameRx_of_good hup hmin hmax htype haccept).trans (congrArg _ hstaged), ?_, ?_⟩
  · exact (State.rd_mk ..).trans s.rd_frameCounted
  · rw [hhost, List.length_append, List.length_singleton]

end Sys2Proof.Machine
end

section
/-! SUPPORT. Datagrams sent (R185 to R188): what a stream port and the FIFOs of records are after one; the clauses of
O15 about them. -/

namespace Sys2Proof.Machine

variable {s t : State} {j : Fin 256}

/-! ### What the ports and the record FIFOs show stands in registers alone -/

/-- A view of the state that no register write changes. -/
def RegFree {α : Type} (view : State → α) : Prop := ∀ t f i v, view (State.wr t f i v) = view t

theorem regFree_links : RegFree State.links := fun _ _ _ _ => rfl
theorem regFree_couch : RegFree State.couch := fun _ _ _ _ => rfl

theorem RegFree.showCredit {α : Type} {view : State → α} (hv : RegFree view) (s : State) (p : Nat) :
    view (s.showCredit p) = view s := by
  unfold State.showCredit
  dsimp only
  split
  · exact hv ..
  · split
    · exact hv ..
    · rfl

theorem RegFree.upIf {α : Type} {view : State → α} (hv : RegFree view) (s : State) (c : Prop) [Decidable c] (f : Fld) :
    view (if c then s.up f else s) = view s := by
  split
  · exact hv ..
  · rfl

theorem RegFree.showCouch {α : Type} {view : State → α} (hv : RegFree view) (s : State) :
    view s.showCouch = view s := by
  unfold State.showCouch
  dsimp only
  rw [hv.upIf, hv.upIf, hv.upIf, hv.upIf, forN_view view (fun _ _ => hv ..), hv, hv, hv, hv, hv]

/-! ### Parts of a datagram's sending -/

theorem State.spend_couch (s : State) (p n : Nat) : (s.spend p n).couch = s.couch := regFree_couch.showCredit _ _

/-- Spending credit leaves the sequence number. -/
theorem State.spend_txNext (s : State) (p n : Nat) : ((s.spend p n).sport p).txNext = (s.sport p).txNext := by
  unfold State.spend
  dsimp only
  rw [State.sport_showCredit, State.sport_setSport_self]

theorem State.sport_congr (h : t.links = s.links) (p : Nat) : t.sport p = s.sport p := by
  unfold State.sport
  rw [h]

theorem State.takeTx_couch (s : State) (p : Nat) : (s.takeTx p).2.couch = s.couch := by
  unfold State.takeTx
  dsimp only
  split <;> rfl

/-- The next sequence number is taken. -/
theorem State.takeTx_txNext (s : State) (p : Nat) :
    ((s.takeTx p).2.sport p).txNext = ((s.sport p).txNext + 1) % 2 ^ 32 := by
  have hshown : (s.takeTx p).2.links =
      (s.setSport p { s.sport p with txNext := ((s.sport p).txNext + 1) % 2 ^ 32 }).links := by
    unfold State.takeTx
    dsimp only
    split <;> rfl
  rw [State.sport_congr hshown, State.sport_setSport_self]

theorem State.netTaken_records (s : State) (n : Nat) :
    (s.netTaken 1 n).couch.records = netTake n s.couch.records :=
  congrArg Couch.records (regFree_couch.showCouch _)

theorem State.netTaken_links (s : State) (n : Nat) : (s.netTaken 1 n).links = s.links := regFree_links.showCouch _

theorem State.sendUdp_links (s : State) (t e : Nat) (payload : Bytes) : (s.sendUdp t e payload).links = s.links := by
  unfold State.sendUdp State.sendMac
  dsimp only
  rw [State.wr_links, State.count_links, State.emit_links]

theorem State.sendUdp_couch (s : State) (t e : Nat) (payload : Bytes) : (s.sendUdp t e payload).couch = s.couch := by
  unfold State.sendUdp State.sendMac
  dsimp only
  rw [State.wr_couch, State.count_couch, State.emit_couch]

/-! ### Datagrams of a stream (R186, R187) -/

/-- The state with `n` records sent in a datagram of stream `j`. -/
def State.recordsSent (s : State) (j n : Nat) : State :=
  let flits := (16 + n * 64 + 63) / 64
  let seq := ((s.spend (256 + j) flits).takeTx (256 + j)).1
  let data := (((s.couch.records.filter (·.net)).take n).flatMap (·.data))
  (((s.spend (256 + j) flits).takeTx (256 + j)).2.netTaken 1 n).sendUdp (s.rd F.streamCfg_template j)
    (s.rd F.streamCfg_egress j) (streamPayload 1 (256 + j) n seq data)

theorem State.recordsSent_records (s : State) (j n : Nat) :
    (s.recordsSent j n).couch.records = netTake n s.couch.records := by
  unfold State.recordsSent
  dsimp only
  rw [State.sendUdp_couch, State.netTaken_records, State.takeTx_couch, State.spend_couch]

theorem State.recordsSent_txNext (s : State) (j n : Nat) :
    ((s.recordsSent j n).sport (256 + j)).txNext = ((s.sport (256 + j)).txNext + 1) % 2 ^ 32 := by
  unfold State.recordsSent
  dsimp only
  rw [State.sport_congr (State.sendUdp_links ..), State.sport_congr (State.netTaken_links ..), State.takeTx_txNext,
    State.spend_txNext]

/-- A stream that carries the Couch's records alone sends up to MAX_ITEMS of them, where that many wait, or any at a
flush, and there is credit. -/
theorem State.sendStream_of_due {flush : Bool} {n : Nat} (hready : s.streamReady j = true)
    (hsources : s.streamSources j = [(1, s.couch.records, 64)]) (hmax : 0 < s.maxItems j 64)
    (hdue : s.maxItems j 64 ≤ (s.couch.records.filter (·.net)).length ∨
      flush = true ∧ 0 < (s.couch.records.filter (·.net)).length)
    (hn : min (s.maxItems j 64) (s.couch.records.filter (·.net)).length = n)
    (hcredit : (16 + n * 64 + 63) / 64 ≤ s.creditLeft (256 + j)) :
    s.sendStream j flush = s.recordsSent j n := by
  simp only [State.streamReady, Bool.and_eq_true] at hready
  obtain ⟨⟨henable, hvalid⟩, hup⟩ := hready
  have hlength : ((s.couch.records.filter (·.net)).take (s.maxItems j 64)).length = n := by
    rw [List.length_take, hn]
  have htaken : (s.couch.records.filter (·.net)).take (s.maxItems j 64) = (s.couch.records.filter (·.net)).take n := by
    rw [List.take_eq_take_iff]
    omega
  have hdue' : (decide (0 < s.maxItems j 64) && (decide (s.maxItems j 64 ≤ (s.couch.records.filter (·.net)).length) ||
      flush && decide (0 < (s.couch.records.filter (·.net)).length))) = true := by
    simp only [Bool.and_eq_true, Bool.or_eq_true, decide_eq_true_eq]
    exact ⟨hmax, hdue⟩
  unfold State.sendStream
  simp only [henable, hvalid, hup, hsources, List.find?_cons, hdue', hlength, Nat.not_lt.2 hcredit, Bool.not_true,
    Bool.or_self, Bool.false_eq_true, if_false]
  rw [htaken]
  rfl

/-- At MAX_ITEMS a datagram takes its items. -/
theorem streamDatagramTx_sends (hready : s.streamReady j = true)
    (hsources : s.streamSources j = [(1, s.couch.records, 64)]) (hmax : 0 < s.maxItems j 64)
    (hitems : s.maxItems j 64 ≤ (s.couch.records.filter (·.net)).length)
    (hcredit : (16 + s.maxItems j 64 * 64 + 63) / 64 ≤ s.creditLeft (256 + j)) :
    answers (.streamDatagramTx j) s (fun t =>
      t.couch.records = netTake (s.maxItems j 64) s.couch.records ∧
      (t.sport (256 + j)).txNext = ((s.sport (256 + j)).txNext + 1) % 2 ^ 32) := by
  refine ⟨s.recordsSent j (s.maxItems j 64), ?_, s.recordsSent_records j _, s.recordsSent_txNext j _⟩
  rw [exec_streamDatagramTx, execStreamDatagramTx,
    State.sendStream_of_due hready hsources hmax (.inl hitems) (Nat.min_eq_left hitems) hcredit]

/-- At the flush a datagram takes what waits. -/
theorem streamFlushTimeout_sends {i : OutItem} (hready : s.streamReady j = true)
    (hsources : s.streamSources j = [(1, s.couch.records, 64)]) (hmax : 0 < s.maxItems j 64)
    (hrecords : s.couch.records = [i]) (hnet : i.net = true) (hring : i.ring = false)
    (hcredit : 2 ≤ s.creditLeft (256 + j)) : answers (.streamFlushTimeout j) s (fun t =>
      t.couch.records = [] ∧ (t.sport (256 + j)).txNext = ((s.sport (256 + j)).txNext + 1) % 2 ^ 32) := by
  have hone : (s.couch.records.filter (·.net)).length = 1 := by
    rw [hrecords, List.filter_singleton, hnet]
    rfl
  have hnone : netTake 1 s.couch.records = [] := by
    rw [hrecords, netTake, hnet, hring]
    rfl
  have hn : min (s.maxItems j 64) (s.couch.records.filter (·.net)).length = 1 := by
    rw [hone]
    exact Nat.min_eq_right hmax
  refine ⟨s.recordsSent j 1, ?_, (s.recordsSent_records j 1).trans hnone, s.recordsSent_txNext j 1⟩
  rw [exec_streamFlushTimeout, execStreamFlushTimeout, State.sendStream_of_due hready hsources hmax
    (.inr ⟨rfl, hone ▸ Nat.one_pos⟩) hn hcredit]

/-! ### Credits sent (R188) -/

/-- A receiver's LIMIT is sent under the next sequence number. -/
theorem creditDatagramTx_sends {p : Fin 1024} {t e : Nat} (hroute : s.creditRoute p = some (t, e))
    (hvalid : s.flag F.templateCtl_valid t = true) (hup : s.macUp e = true) (hport : p.val < 512 ∨ 768 ≤ p.val) :
    answers (.creditDatagramTx p) s (fun u => (u.sport p).txNext = ((s.sport p).txNext + 1) % 2 ^ 32) := by
  have hother : (decide (512 ≤ p.val) && decide (p.val < 768)) = false := by
    rw [Bool.and_eq_false_iff, decide_eq_false_iff_not, decide_eq_false_iff_not]
    omega
  rw [answers, exec_creditDatagramTx, execCreditDatagramTx]
  simp only [hroute, hvalid, hup, hother, Bool.not_true, Bool.or_self, Bool.false_eq_true, if_false]
  refine ⟨_, rfl, ?_⟩
  rw [State.sport_congr (State.sendUdp_links ..), State.takeTx_txNext]

/-- Settles O15: each clause is one command on one port or stream. -/
theorem networkPorts : Obligations.NetworkPorts :=
  ⟨fun _ _ => ethLinkUp_shows, ethLinkDown_shows, fun _ _ => macFrameRx_counts_bad, fun _ _ => macFrameRx_takes_good,
    fun _ _ => streamDatagramTx_sends, fun _ _ _ => streamFlushTimeout_sends, fun _ _ _ _ => creditDatagramTx_sends⟩

end Sys2Proof.Machine
end

section
/-! SUPPORT. The Headbox (R191 to R211): what a port and a channel read after an update, and which registers the delivery
of lines leaves alone. -/

namespace Sys2Proof.Machine

variable {s s0 t : State} {f g : Fld} {i j m n : Nat}

/-! ### Ports and channels beyond their registers -/

@[simp] theorem State.hbPort_setHbPort_self (s : State) (p : Nat) (v : HbPort) : (s.setHbPort p v).hbPort p = v :=
  Sparse.get_set_self _ _ _ _

@[simp] theorem State.hbCh_setHbCh_self (s : State) (n : Nat) (v : HbCh) : (s.setHbCh n v).hbCh n = v :=
  Sparse.get_set_self _ _ _ _

@[simp] theorem State.hbCh_setHbPort (s : State) (p : Nat) (v : HbPort) (n : Nat) : (s.setHbPort p v).hbCh n = s.hbCh n :=
  rfl

@[simp] theorem State.rd_setHbPort (s : State) (p : Nat) (v : HbPort) (f : Fld) (i : Nat) :
    (s.setHbPort p v).rd f i = s.rd f i := rfl

@[simp] theorem State.flag_setHbCh (s : State) (n : Nat) (v : HbCh) (f : Fld) (i : Nat) :
    (s.setHbCh n v).flag f i = s.flag f i := rfl

theorem State.flag_emit (s : State) (o : Output) (f : Fld) (i : Nat) : (s.emit o).flag f i = s.flag f i :=
  congrArg (· != 0) (State.rd_emit ..)

theorem State.flag_event (s : State) (p w isl : Nat) (f : Fld) (i : Nat) : (s.event p w isl).flag f i = s.flag f i :=
  State.flag_emit ..

theorem State.setSport_headbox (s : State) (q : Nat) (x : SPort) : (s.setSport q x).headbox = s.headbox := rfl

theorem State.hbPort_congr (h : t.headbox.ports = s.headbox.ports) (p : Nat) : t.hbPort p = s.hbPort p := by
  unfold State.hbPort
  rw [h]

theorem State.hbCh_congr (h : t.headbox = s.headbox) (n : Nat) : t.hbCh n = s.hbCh n := by
  unfold State.hbCh
  rw [h]

/-- Beyond the registers a fill set changes the fill alone. -/
theorem State.setFill_headbox (s : State) (n fill : Nat) :
    (s.setFill n fill).headbox = (s.setHbCh n { s.hbCh n with fill := fill }).headbox := by
  have hpeak (u : State) (f : Fld) (v : Nat) : (u.peak f n v).headbox = u.headbox := by
    unfold State.peak
    split
    · exact State.wr_headbox ..
    · rfl
  unfold State.setFill
  dsimp only
  split
  · rw [State.channelAlert, State.event_headbox, State.up_headbox, hpeak, State.wr_headbox]
  · rw [hpeak, State.wr_headbox]

/-- The delivery of lines leaves every port as it is. -/
theorem State.deliverLines_ports (s : State) (n fuel : Nat) :
    (s.deliverLines n fuel).headbox.ports = s.headbox.ports := by
  induction fuel generalizing s with
  | zero => rfl
  | succ fuel ih =>
    unfold State.deliverLines
    dsimp only
    split
    · rfl
    · split
      · rfl
      · exact ih _

/-! ### The geometry of lines (R193, R195, R196, R210) -/

/-- The lane that carries a port's downstream blocks is one of its four (R195). -/
theorem State.portTxLane_lt (s : State) {p : Nat} (hp : p < 12) : s.portTxLane p < 64 := by
  unfold State.portTxLane
  dsimp only
  split
  · next a ha =>
    have hmem := List.mem_of_find?_eq_some ha
    simp only [List.mem_cons, List.not_mem_nil, or_false] at hmem
    omega
  · omega

theorem State.depth_congr (h : sameRd F.headboxChCfg_depth n s t) : t.depth n = s.depth n := congrArg depthBits h

theorem State.lineBlocks_congr (hwidth : sameRd F.headboxChCfg_width n s t)
    (hdepth : sameRd F.headboxChCfg_depth n s t) : t.lineBlocks n = s.lineBlocks n := by
  have hw : t.width n = s.width n := by rw [State.width, hwidth, State.width]
  rw [State.lineBlocks, hw, State.depth_congr hdepth, State.lineBlocks]

theorem State.partition_congr {p : Nat} (hrole : sameRd F.laneQuadStat_role p s t)
    (hsensors : sameRd F.headboxPortCtl_sensors p s t) : t.partition p = s.partition p := by
  have hon : t.sensorOn p = s.sensorOn p := by
    funext k
    rw [State.sensorOn, State.sensorPort, hrole, hsensors, State.sensorOn, State.sensorPort]
  rw [State.partition, State.portChannels, hon, State.partition, State.portChannels]

/-! ### Registers of a channel -/

/-- A field of another register of the channels' pages. -/
theorem Fld.misses.headboxCh (hf : f.ofHeadboxCh = true) (hg : g.ofHeadboxCh = true) (hne : f.off ≠ g.off) :
    f.misses i g j := by
  simp only [Fld.ofHeadboxCh, Bool.and_eq_true, beq_iff_eq, decide_eq_true_eq] at hf hg
  obtain ⟨⟨⟨⟨hfbase, hfs1⟩, hfs2⟩, hfn2⟩, hfoff⟩ := hf
  obtain ⟨⟨⟨⟨hgbase, hgs1⟩, hgs2⟩, hgn2⟩, hgoff⟩ := hg
  unfold Fld.misses Fld.addr
  rw [hfbase, hfs1, hfs2, hfn2, hgbase, hgs1, hgs2, hgn2]
  omega

/-- A field among a channel's counters: their registers stand above those of its status. -/
def Fld.ofHeadboxCnt (g : Fld) : Bool := g.ofHeadboxCh && decide (0x20 ≤ g.off)

/-- The delivery of lines counts nothing. -/
theorem sameRd.delivered (h : sameRd g j s0 s) (hg : g.ofHeadboxCnt = true) (n fuel : Nat) :
    sameRd g j s0 (s.deliverLines n fuel) := by
  obtain ⟨hch, hoff⟩ := Bool.and_eq_true_iff.1 hg
  have hoff : 0x20 ≤ g.off := of_decide_eq_true hoff
  have htag : F.headboxChTag_tag.misses n g j := .headboxCh rfl hch (by simp only [F.headboxChTag_tag]; omega)
  have hframe : F.headboxChFrame_frame.misses n g j := .headboxCh rfl hch (by simp only [F.headboxChFrame_frame]; omega)
  induction fuel generalizing s with
  | zero => exact h
  | succ fuel ih =>
    unfold State.deliverLines
    dsimp only
    split
    · exact h
    · split
      · exact h
      · exact ih (((h.withHeadbox _).wr htag).wr hframe)

/-- A counter of a channel reads one more, up to its largest value. -/
theorem State.rd_hbCount_self (s : State) (n c : Nat) :
    (s.hbCount n c).rd (F.headboxCnt_count c) n = satAdd 32 (s.rd (F.headboxCnt_count c) n) 1 :=
  State.rd_count_self (show (0 : Nat) + 32 ≤ 32 by decide) (show 0 < 32 by decide)

/-- The counters numbered below 24 stand in the channel's page. -/
theorem Fld.ofHeadboxCnt_count {c : Nat} (hc : c < 24) : (F.headboxCnt_count c).ofHeadboxCnt = true := by
  have hpage : 0x20 + 4 * c < 128 := by omega
  have habove : 0x20 ≤ 0x20 + 4 * c := by omega
  simp only [Fld.ofHeadboxCnt, Fld.ofHeadboxCh, F.headboxCnt_count, hpage, habove]
  rfl

/-- Counters of other kinds keep their value. -/
theorem sameRd.otherCount {c d : Nat} (h : sameRd (F.headboxCnt_count d) j s0 s) (hc : c < 24) (hd : d < 24)
    (hne : c ≠ d) (n : Nat) : sameRd (F.headboxCnt_count d) j s0 (s.hbCount n c) := by
  have hch {e : Nat} (he : e < 24) := (Bool.and_eq_true_iff.1 (Fld.ofHeadboxCnt_count he)).1
  refine h.count (.headboxCh (hch hc) (hch hd) ?_)
  simp only [F.headboxCnt_count]
  omega

end Sys2Proof.Machine
end

section
/-! SUPPORT. Lines at a port (R203, R205, R206, R209, R210): the clauses of O16 about them. -/

namespace Sys2Proof.Machine

variable {s s0 : State} {p : Fin 12} {k : Fin 4} {g : Fld} {m j : Nat}

/-! ### A line starts (R203, R209, R210) -/

/-- A control block between bursts breaks none (R206). -/
theorem State.burstBroken_of_outside (h : (s.hbPort p).burst = .outside) : s.burstBroken p = s := by
  rw [State.burstBroken, State.failBurst, h]

/-- A triggered line whose LINE_START has come. -/
def TrigLine.begin (l : TrigLine) : TrigLine := { l with begun := true }

/-- The state as the LINE_START of an awaited line is taken, before the line is admitted. -/
def State.lineTaken (s : State) (p k tag : Nat) : State :=
  (s.setTrig (4 * p + k) (s.extendTag tag) TrigLine.begin).lineSeq p k tag

/-- The state as a line's burst opens and takes its bytes of the partition. -/
def State.burstOpened (s : State) (p k : Nat) (h : Int) (tag : Nat) : State :=
  let t := s.setFill (4 * p + k) ((s.hbCh (4 * p + k)).fill + s.lineBlocks (4 * p + k) * 8)
  t.setHbPort p { t.hbPort p with burst := .inside ⟨k, h, tag, []⟩ }

/-- The sequence bookkeeping of a LINE_START leaves a channel's fill. -/
theorem State.fill_lineTaken (s : State) (p k tag : Nat) :
    ((s.lineTaken p k tag).hbCh (4 * p + k)).fill = (s.hbCh (4 * p + k)).fill := by
  have htaken (u : State) : ((u.lineSeq p k tag).hbCh (4 * p + k)).fill = (u.hbCh (4 * p + k)).fill := by
    unfold State.lineSeq
    dsimp only
    rw [State.hbCh_congr (State.wr_headbox ..), State.hbCh_setHbCh_self]
    dsimp only
    rw [State.hbCh_congr (State.setSport_headbox ..)]
    split
    · rw [State.hbCh_congr (State.up_headbox ..), State.hbCh_congr (State.count_headbox ..)]
    · rfl
  rw [State.lineTaken, htaken, State.setTrig, State.hbCh_setHbCh_self]

/-- The sequence bookkeeping of a LINE_START writes the registers of its stream port and the lane's SEQ_GAP. -/
theorem sameRd.lineTaken (h : sameRd g j s0 s) (hg : g.besidePorts m = true) (hj : j < m) (tag : Nat) :
    sameRd g j s0 (s.lineTaken p k tag) := by
  simp only [Fld.besidePorts, Bool.and_eq_true] at hg
  obtain ⟨⟨⟨⟨hseq, hgaps⟩, -⟩, -⟩, hgap⟩ := hg
  have hport : 16 * p.val + 4 * k.val < 1024 := by omega
  unfold State.lineTaken State.lineSeq
  dsimp only
  refine sameRd.wrClearOf ((sameRd.same ?_ rfl).withHeadbox _) hseq hport hj
  exact (h.withHeadbox _).andIf
    (fun h => (h.wrClearOf hgaps hport hj).wrClearOf hgap (State.portTxLane_lt _ p.isLt) hj)

/-- The LINE_START of the first line awaited is taken. -/
theorem State.lineStart_of_awaited {l : TrigLine} {tag : Nat} (d : Nat) (hon : s.sensorOn p k = true)
    (hheld : s.portHeld p = false) (hpath : s.chief.path = Md.inspect) (hburst : (s.hbPort p).burst = .outside)
    (hlines : (s.hbCh (4 * p + k)).lines = [l]) (hline : l.line = s.extendTag tag) (htrig : l.triggered = true)
    (hopen : l.done = none) :
    s.lineStart p k d tag = (s.lineTaken p k tag).admitLine p k (s.extendTag tag) tag d := by
  obtain ⟨hport, -⟩ := Bool.and_eq_true_iff.1 hon
  have hmode : (s.chief.path != Md.inspect) = false := by rw [hpath]; rfl
  have hawaited : s.awaited (4 * p + k) (s.extendTag tag) = some l := by
    simp [State.awaited, hlines, hline, hopen]
  have hskipped : [l].filter (fun x => decide (x.line < s.extendTag tag) && x.done.isNone) = [] := by simp [hline]
  unfold State.lineStart
  simp only [State.burstBroken_of_outside hburst, hport, hon, hheld, hmode, hawaited, htrig, hlines, hskipped,
    Bool.not_true, Bool.false_eq_true, if_false, List.map_nil]
  rfl

/-- A line of the channel's depth, with room in the partition and no frame check, is admitted. -/
theorem State.admitLine_of_room {h : Int} {tag d : Nat} (hcheck : s.flag F.headboxPortCtl_frameCheck p = false)
    (hdepth : depthBits d = s.depth (4 * p + k))
    (hroom : (s.hbCh (4 * p + k)).fill + s.lineBlocks (4 * p + k) * 8 ≤ s.partition p) :
    s.admitLine p k h tag d = s.burstOpened p k h tag := by
  unfold State.admitLine
  simp only [hcheck, hdepth, Nat.not_lt.2 hroom, Bool.false_and, Bool.false_eq_true, bne_self_eq_false, if_false]
  rfl

theorem State.burstOpened_burst (s : State) (p k : Nat) (h : Int) (tag : Nat) :
    ((s.burstOpened p k h tag).hbPort p).burst = .inside ⟨k, h, tag, []⟩ := by
  rw [State.burstOpened, State.hbPort_setHbPort_self]

theorem State.burstOpened_fill (s : State) (p k : Nat) (h : Int) (tag : Nat) :
    ((s.burstOpened p k h tag).hbCh (4 * p + k)).fill =
      (s.hbCh (4 * p + k)).fill + s.lineBlocks (4 * p + k) * 8 := by
  rw [State.burstOpened, State.hbCh_setHbPort, State.hbCh_congr (State.setFill_headbox ..), State.hbCh_setHbCh_self]

/-- The LINE_START of the awaited line opens its burst and takes its bytes of the partition. -/
theorem lineStartRx_opens {d : Fin 4} {tag : Word} {l : TrigLine} (hon : s.sensorOn p k = true)
    (hheld : s.portHeld p = false) (hpath : s.chief.path = Md.inspect) (hburst : (s.hbPort p).burst = .outside)
    (hcheck : s.flag F.headboxPortCtl_frameCheck p = false) (hlines : (s.hbCh (4 * p + k)).lines = [l])
    (hline : l.line = s.extendTag tag.toNat) (htrig : l.triggered = true) (hopen : l.done = none)
    (hdepth : depthBits d = s.depth (4 * p + k))
    (hroom : (s.hbCh (4 * p + k)).fill + s.lineBlocks (4 * p + k) * 8 ≤ s.partition p) :
    answers (.lineStartRx p k d tag) s (fun t => (t.hbPort p).burst = .inside ⟨k, l.line, tag.toNat, []⟩ ∧
      (t.hbCh (4 * p + k)).fill = (s.hbCh (4 * p + k)).fill + s.lineBlocks (4 * p + k) * 8) := by
  have hchan : 4 * p.val + k.val < 48 := by omega
  have hportReg {g : Fld} (hg : g.besidePorts 12 = true) : sameRd g p s (s.lineTaken p k tag.toNat) :=
    sameRd.refl.lineTaken hg p.isLt _
  have hchanReg {g : Fld} (hg : g.besidePorts 48 = true) : sameRd g (4 * p + k) s (s.lineTaken p k tag.toNat) :=
    sameRd.refl.lineTaken hg hchan _
  have hdepthKept := hchanReg (g := F.headboxChCfg_depth) (by decide)
  have hblocks := State.lineBlocks_congr (hchanReg (g := F.headboxChCfg_width) (by decide)) hdepthKept
  have hpart := State.partition_congr (hportReg (g := F.laneQuadStat_role) (by decide))
    (hportReg (g := F.headboxPortCtl_sensors) (by decide))
  have hadmit := State.admitLine_of_room (s := s.lineTaken p k tag.toNat) (h := s.extendTag tag.toNat)
    (tag := tag.toNat) ((State.flag_congr (hportReg (g := F.headboxPortCtl_frameCheck) (by decide))).trans hcheck)
    (hdepth.trans (State.depth_congr hdepthKept).symm) (by rw [State.fill_lineTaken, hblocks, hpart]; exact hroom)
  refine ⟨(s.lineTaken p k tag.toNat).burstOpened p k (s.extendTag tag.toNat) tag.toNat, ?_, ?_, ?_⟩
  · rw [exec_lineStartRx, execLineStartRx,
      State.lineStart_of_awaited d hon hheld hpath hburst hlines hline htrig hopen, hadmit]
  · rw [State.burstOpened_burst, hline]
  · rw [State.burstOpened_fill, State.fill_lineTaken, hblocks]

/-! ### A line ends (R206) -/

/-- A good line is counted, and its delivery leaves the ports. -/
theorem State.lineGood_shows (s : State) (n : Nat) (h : Int) (px : List Nat) :
    (s.lineGood n h px).headbox.ports = s.headbox.ports ∧
      (s.lineGood n h px).rd (F.headboxCnt_count Hc.linesOk) n =
        satAdd 32 (s.rd (F.headboxCnt_count Hc.linesOk) n) 1 := by
  refine ⟨State.deliverLines_ports _ _ _, ?_⟩
  exact Eq.trans (sameRd.refl.delivered (by decide) _ _) (State.rd_hbCount_self _ _ _)

/-- The LINE_END of the open burst, with the right blocks, tag byte and CRC, delivers the line. -/
theorem lineEndRx_delivers {crc : Word} {tagByte : BitVec 8} {b : Burst} (hburst : (s.hbPort p).burst = .inside b)
    (hsensor : b.sensor = k) (hblocks : b.blocks.length = s.lineBlocks (4 * p + k))
    (htag : tagByte.toNat = b.tag % 256) (hcrc : crc32c (blockBytes b.blocks.reverse) = crc.toNat) :
    answers (.lineEndRx p k crc tagByte) s (fun t => (t.hbPort p).burst = .outside ∧
      t.rd (F.headboxCnt_count Hc.linesOk) (4 * p + k) =
        satAdd 32 (s.rd (F.headboxCnt_count Hc.linesOk) (4 * p + k)) 1) := by
  rw [answers, exec_lineEndRx, execLineEndRx, State.lineEnd, hburst]
  simp only [hsensor, List.length_reverse, hblocks, htag, hcrc, bne_self_eq_false, Bool.or_self, Bool.false_eq_true,
    if_false]
  refine ⟨_, rfl, ?_, ?_⟩
  · rw [State.hbPort_congr (State.lineGood_shows ..).1, State.hbPort_setHbPort_self]
  · rw [(State.lineGood_shows ..).2, State.rd_setHbPort]

/-! ### A line goes missing (R203, R205) -/

/-- An awaited line decided missing, before anything is counted. -/
def State.decidedMissing (s : State) (n : Nat) (h : Int) (l : TrigLine) : State :=
  (if l.triggered && !l.begun then s.setHbCh n { s.hbCh n with passed := (s.hbCh n).passed + 1 } else s).setTrig n h
    (fun l => { l with done := some none })

/-- An awaited line decided missing and counted, under MISSING and under its cause. -/
def State.countedMissing (s : State) (n : Nat) (h : Int) (l : TrigLine) (c : Nat) : State :=
  ((s.decidedMissing n h l).hbCount n Hc.missing).hbCount n c

theorem State.rd_decidedMissing (s : State) (n : Nat) (h : Int) (l : TrigLine) (f : Fld) (i : Nat) :
    (s.decidedMissing n h l).rd f i = s.rd f i :=
  (sameRd.refl.andIf (fun h => h.withHeadbox _)).withHeadbox _

/-- The counter of the cause reads one more. -/
theorem State.rd_countedMissing_cause (s : State) (n : Nat) (h : Int) (l : TrigLine) {c : Nat} (hc : c < 24)
    (hne : c ≠ Hc.missing) : (s.countedMissing n h l c).rd (F.headboxCnt_count c) n =
      satAdd 32 (s.rd (F.headboxCnt_count c) n) 1 := by
  have hbefore : sameRd (F.headboxCnt_count c) n (s.decidedMissing n h l)
      ((s.decidedMissing n h l).hbCount n Hc.missing) := sameRd.refl.otherCount (by decide) hc hne.symm n
  rw [State.countedMissing, State.rd_hbCount_self, hbefore, State.rd_decidedMissing]

/-- MISSING reads one more. -/
theorem State.rd_countedMissing_missing (s : State) (n : Nat) (h : Int) (l : TrigLine) {c : Nat} (hc : c < 24)
    (hne : c ≠ Hc.missing) : (s.countedMissing n h l c).rd (F.headboxCnt_count Hc.missing) n =
      satAdd 32 (s.rd (F.headboxCnt_count Hc.missing) n) 1 := by
  have hafter : sameRd (F.headboxCnt_count Hc.missing) n ((s.decidedMissing n h l).hbCount n Hc.missing)
      (s.countedMissing n h l c) := sameRd.refl.otherCount hc (by decide) hne n
  rw [hafter, State.rd_hbCount_self, State.rd_decidedMissing]

/-- Beside those counts the marking of a line leaves every counter: an alert and the delivery follow. -/
theorem sameRd.markedMissing {n : Nat} {h : Int} {l : TrigLine} (hawaited : s.awaited n h = some l) (c : Nat)
    (hg : g.ofHeadboxCnt = true) : sameRd g j (s.countedMissing n h l c) (s.markMissing n h c) := by
  unfold State.markMissing
  rw [hawaited]
  exact (sameRd.refl.andIf (fun h => h.event _ _ _)).delivered hg _ _

/-- An awaited line whose deadline has passed, with no burst open, goes missing as TIMEOUT. -/
theorem lineTimeout_goes_missing {tag : Word} {l : TrigLine}
    (hawaited : s.awaited (4 * p + k) (s.extendTag tag.toNat) = some l) (hdue : reached s.counter l.deadline = true)
    (hburst : (s.hbPort p).burst = .outside) : answers (.lineTimeout p k tag) s (fun t =>
      t.rd (F.headboxCnt_count Hc.timeout) (4 * p + k) =
        satAdd 32 (s.rd (F.headboxCnt_count Hc.timeout) (4 * p + k)) 1 ∧
      t.rd (F.headboxCnt_count Hc.missing) (4 * p + k) =
        satAdd 32 (s.rd (F.headboxCnt_count Hc.missing) (4 * p + k)) 1) := by
  refine ⟨s.markMissing (4 * p + k) (s.extendTag tag.toNat) Hc.timeout, ?_, ?_, ?_⟩
  · rw [exec_lineTimeout, execLineTimeout]
    simp only [hawaited, hdue, hburst, Bool.not_true, Bool.false_eq_true, if_false]
  · exact Eq.trans (sameRd.markedMissing hawaited _ rfl) (State.rd_countedMissing_cause _ _ _ _ (by decide) (by decide))
  · exact Eq.trans (sameRd.markedMissing hawaited _ rfl) (State.rd_countedMissing_missing _ _ _ _ (by decide) (by decide))

end Sys2Proof.Machine
end

section
/-! SUPPORT. Camera frames and line rates (R208, R211), and the clauses of O16. -/

namespace Sys2Proof.Machine

variable {s : State} {p : Fin 12} {k : Fin 4}

/-! ### Camera frames (R208) -/

theorem State.frameOf_congr {t : State} {h : Int} (hbox : t.headbox = s.headbox)
    (hlen : sameRd F.headboxFrameLen_fMinus1 0 s t) : t.frameOf h = s.frameOf h := by
  rw [State.frameOf, State.l0, State.frameLen, hbox, hlen, State.frameOf, State.l0, State.frameLen]

/-- A FRAME_START sets the home frame of its channel and ends a long frame. -/
theorem frameStartRx_sets_home (tag : Word) (hon : s.sensorOn p k = true)
    (hcheck : s.flag F.headboxPortCtl_frameCheck p = true) (hburst : (s.hbPort p).burst = .outside) :
    answers (.frameStartRx p k tag) s (fun t =>
      (t.hbCh (4 * p + k)).home = s.frameOf (s.extendTag tag.toNat) ∧
      t.flag F.headboxChStat_inLong (4 * p + k) = false) := by
  have hchan : 4 * p.val + k.val < 48 := by omega
  rw [answers, exec_frameStartRx, execFrameStartRx, State.frameStart]
  simp only [State.burstBroken_of_outside hburst, hon, hcheck, Bool.not_true, Bool.false_eq_true, if_false]
  refine ⟨_, rfl, ?_, State.flag_down_self (by decide)⟩
  rw [State.hbCh_congr (State.down_headbox ..), State.hbCh_setHbCh_self]
  split
  · rfl
  · exact State.frameOf_congr (State.count_headbox ..)
      (sameRd.refl.wrClearOf (n := 48) (m := 1) (by decide) hchan Nat.one_pos)

/-- A FRAME_END is counted. -/
theorem frameEndRx_counts (tag : Word) (hon : s.sensorOn p k = true)
    (hcheck : s.flag F.headboxPortCtl_frameCheck p = true) (hburst : (s.hbPort p).burst = .outside) :
    answers (.frameEndRx p k tag) s (fun t => t.rd (F.headboxCnt_count Hc.framesSeen) (4 * p + k) =
      satAdd 32 (s.rd (F.headboxCnt_count Hc.framesSeen) (4 * p + k)) 1) := by
  rw [answers, exec_frameEndRx, execFrameEndRx, State.frameEnd]
  simp only [State.burstBroken_of_outside hburst, hon, hcheck, Bool.not_true, Bool.false_eq_true, if_false, if_true]
  exact ⟨_, rfl, State.rd_hbCount_self _ _ _⟩

/-! ### Rates (R211) -/

theorem State.flag_rateOver (s : State) (n : Nat) : (s.rateOver n).flag F.headboxChStat_rateOver n = true := by
  unfold State.rateOver
  split
  · assumption
  · rw [State.channelAlert, State.flag_event, State.flag_up_self (by decide) (by decide)]

/-- A port's only channel, above 1.5 Gpix/s, sets RATE_OVER, and its count of lines starts anew. -/
theorem rateMeasure_sets_rateOver (hchans : s.portChannels p = [4 * p.val + k.val])
    (hfast : 1500000 < s.width (4 * p + k) * (s.hbCh (4 * p + k)).received) : answers (.rateMeasure p) s (fun t =>
      t.flag F.headboxChStat_rateOver (4 * p + k) = true ∧ (t.hbCh (4 * p + k)).received = 0) := by
  have hrate : 1500000000 < s.width (4 * p + k) * (s.hbCh (4 * p + k)).received * 1000 := by omega
  rw [answers, exec_rateMeasure, execRateMeasure]
  simp only [hchans, List.filter_cons, List.filter_nil, hrate, decide_true, Bool.true_or, if_true, forAll, List.foldl_cons,
    List.foldl_nil]
  refine ⟨_, rfl, ?_, ?_⟩
  · rw [State.flag_setHbCh, State.flag_rateOver]
  · rw [State.hbCh_setHbCh_self]

/-- Settles O16: each clause is one command at one port. -/
theorem headboxLines : Obligations.HeadboxLines :=
  ⟨fun _ _ _ _ _ _ => lineStartRx_opens, fun _ _ _ _ _ _ => lineEndRx_delivers,
    fun _ _ _ _ _ => lineTimeout_goes_missing, fun _ _ _ => frameStartRx_sets_home, fun _ _ _ => frameEndRx_counts,
    fun _ _ _ => rateMeasure_sets_rateOver⟩

end Sys2Proof.Machine
end

section
/-! SUPPORT. Camera control and status (R200 to R202): one lemma per clause of O17. -/

namespace Sys2Proof.Machine

variable {s : State} {p : Fin 12} {k : Fin 4}

/-! ### Requests (R200, R201) -/

/-- SENSOR and WRITE of a write of HEADBOX_CCTL kept (R200). -/
def State.camAsked (s : State) (p : Nat) (v : Word) : State :=
  (s.wr F.headboxCctl_sensor p (F.headboxCctl_sensor.ofWord v)).wr F.headboxCctl_write p (F.headboxCctl_write.ofWord v)

/-- HEADBOX_CCTL of a request sent: the next CTAG, BUSY, no result yet. -/
def State.camSent (s : State) (p : Nat) : State :=
  ((s.wr F.headboxCctl_ctag p ((s.rd F.headboxCctl_ctag p + 1) % 32)).up F.headboxCctl_busy p).wr F.headboxCctl_result p 0

/-- What a request keeps of HEADBOX_CCTL leaves every other field alone. -/
theorem sameRd.camAsked {g : Fld} {m j : Nat} (v : Word) (hsensor : F.headboxCctl_sensor.clearOf 12 g m = true)
    (hwrite : F.headboxCctl_write.clearOf 12 g m = true) (hj : j < m) : sameRd g j s (s.camAsked p v) :=
  (sameRd.refl.wrClearOf hsensor p.isLt hj).wrClearOf hwrite p.isLt hj

theorem State.camSent_shows (s : State) (p : Nat) :
    (s.camSent p).flag F.headboxCctl_busy p = true ∧
      (s.camSent p).rd F.headboxCctl_ctag p = (s.rd F.headboxCctl_ctag p + 1) % 32 ∧
      (s.camSent p).rd F.headboxCctl_result p = 0 := by
  refine ⟨?_, ?_, State.rd_wr_self _ _ _ _ (by decide)⟩
  · rw [State.camSent, State.flag_wr_apart (by decide) (by decide), State.flag_up_self (by decide) (by decide)]
  · rw [State.camSent, State.rd_wr_apart _ _ _ _ _ _ (by decide) (by decide), State.up,
      State.rd_wr_apart _ _ _ _ _ _ (by decide) (by decide), State.rd_wr_self _ _ _ _ (by decide)]
    exact Nat.mod_mod _ _

/-- GO is taken in the modes that serve camera control. -/
theorem camWorks_of_mem (h : s.mode ∈ [Md.configure, Md.inspect, Md.maintain]) :
    (s.mode == Md.configure || s.mode == Md.inspect || s.mode == Md.maintain) = true := by
  simpa [or_assoc] using h

/-- GO on a port that waits for nothing sends the request with the next CTAG, and waits. -/
theorem camCtrlGo_sends {v : Word} (hport : s.sensorPort p = true) (hgo : F.headboxCctl_go.ofWord v = 1)
    (hbusy : s.flag F.headboxCctl_busy p = false) (hmode : s.mode ∈ [Md.configure, Md.inspect, Md.maintain])
    (hup : s.flag F.headboxPortStat_bondUp p = true) : answers (.camCtrlGo p v) s (fun t =>
      t.flag F.headboxCctl_busy p = true ∧ t.rd F.headboxCctl_ctag p = (s.rd F.headboxCctl_ctag p + 1) % 32 ∧
      t.rd F.headboxCctl_result p = 0) := by
  have hmodeAsked : (s.camAsked p v).mode = s.mode := sameRd.camAsked (m := 1) v (by decide) (by decide) Nat.one_pos
  have hworks := camWorks_of_mem (s := s.camAsked p v) (hmodeAsked ▸ hmode)
  have hupAsked : (s.camAsked p v).flag F.headboxPortStat_bondUp p = true :=
    (State.flag_congr (sameRd.camAsked v (by decide) (by decide) p.isLt)).trans hup
  have hctag : (s.camAsked p v).rd F.headboxCctl_ctag p = s.rd F.headboxCctl_ctag p :=
    sameRd.camAsked v (by decide) (by decide) p.isLt
  have hsent : ∃ a b, exec (.camCtrlGo p v) s = .next ((((s.camAsked p v).camSent p).emit a).emit b) := by
    unfold State.camAsked at hworks hupAsked
    rw [exec_camCtrlGo, execCamCtrlGo]
    simp only [hport, hgo, hbusy, hworks, hupAsked, beq_self_eq_true, Bool.not_true, Bool.and_false, Bool.or_self,
      Bool.false_eq_true, if_false]
    exact ⟨_, _, rfl⟩
  obtain ⟨a, b, hexec⟩ := hsent
  obtain ⟨hbusySent, hctagSent, hresult⟩ := (s.camAsked p v).camSent_shows p
  refine ⟨_, hexec, ?_, ?_, ?_⟩
  · rw [State.flag_emit, State.flag_emit, hbusySent]
  · rw [State.rd_emit, State.rd_emit, hctagSent, hctag]
  · rw [State.rd_emit, State.rd_emit, hresult]

/-! ### The wait ends (R201) -/

/-- RESULT of an acknowledgement (R201): its field holds every code. -/
theorem camResult_eq (r : BitVec 8) :
    (if r.toNat == 0 then 1 else if r.toNat == 2 then 3 else 2) % 2 ^ 3 =
      (if r = 0 then 1 else if r = 2 then 3 else 2) := by
  have h0 : r.toNat = 0 ↔ r = 0 := (BitVec.toNat_eq (y := 0)).symm
  have h2 : r.toNat = 2 ↔ r = 2 := (BitVec.toNat_eq (y := 2)).symm
  simp only [beq_iff_eq, h0, h2]
  split
  · rfl
  · split <;> rfl

/-- The acknowledgement of the outstanding CTAG and sensor ends the wait with its data. -/
theorem camAckRx_ends_wait (w : Bool) {ctag : Fin 32} (result : BitVec 8) (d : Word × Word)
    (hburst : (s.hbPort p).burst = .outside) (hbusy : s.flag F.headboxCctl_busy p = true)
    (hctag : s.rd F.headboxCctl_ctag p = ctag) (hsensor : s.rd F.headboxCctl_sensor p = k) :
    answers (.camAckRx p k w ctag result (some d)) s (fun t =>
      t.flag F.headboxCctl_busy p = false ∧ t.rd F.headboxCctlData_data p = d.2.toNat ∧
      t.rd F.headboxCctl_result p = (if result = 0 then 1 else if result = 2 then 3 else 2)) := by
  have hdata : (d.1.toNat + d.2.toNat * 2 ^ 32) / 2 ^ 32 = d.2.toNat := by
    have := d.1.isLt
    omega
  rw [answers, exec_camAckRx, execCamAckRx, State.burstBroken_of_outside hburst, Option.map_some, State.camAck]
  simp only [hbusy, hctag, hsensor, beq_self_eq_true, Bool.and_self, if_true, hdata]
  refine ⟨_, rfl, ?_, ?_, ?_⟩
  · rw [State.flag_wr_far_fin (by decide), State.flag_wr_apart (by decide) (by decide), State.flag_down_self (by decide)]
  · rw [State.rd_wr_self _ _ _ _ (by decide)]
    exact Nat.mod_eq_of_lt d.2.isLt
  · rw [State.rd_wr_far_fin (by decide), State.rd_wr_self _ _ _ _ (by decide)]
    exact camResult_eq result

/-- The time limit ends the wait with RESULT 4. -/
theorem camCtrlTimeout_ends_wait (hbusy : s.flag F.headboxCctl_busy p = true) : answers (.camCtrlTimeout p) s (fun t =>
    t.flag F.headboxCctl_busy p = false ∧ t.rd F.headboxCctl_result p = 4) := by
  rw [answers, exec_camCtrlTimeout, execCamCtrlTimeout]
  simp only [hbusy, Bool.not_true, Bool.false_eq_true, if_false]
  refine ⟨_, rfl, ?_, State.rd_wr_self _ _ _ _ (by decide)⟩
  rw [State.flag_wr_apart (by decide) (by decide), State.flag_down_self (by decide)]

/-! ### Status (R202) -/

/-- A sensor's status as kept. -/
def State.camShown (s : State) (n : Nat) (ready alert : Bool) (code : Nat) : State :=
  ((s.wr F.headboxCamStat_ready n (b2n ready)).wr F.headboxCamStat_alert n (b2n alert)).wr F.headboxCamStat_code n code

theorem State.camShown_shows (s : State) (n : Nat) (ready alert : Bool) (code : BitVec 16) :
    (s.camShown n ready alert code.toNat).flag F.headboxCamStat_ready n = ready ∧
      (s.camShown n ready alert code.toNat).flag F.headboxCamStat_alert n = alert ∧
      (s.camShown n ready alert code.toNat).rd F.headboxCamStat_code n = code.toNat := by
  unfold State.camShown
  refine ⟨?_, ?_, ?_⟩
  · rw [State.flag_wr_apart (by decide) (by decide), State.flag_wr_apart (by decide) (by decide),
      State.flag_wr_b2n _ (by decide) rfl]
  · rw [State.flag_wr_apart (by decide) (by decide), State.flag_wr_b2n _ (by decide) rfl]
  · rw [State.rd_wr_self _ _ _ _ (by decide)]
    exact Nat.mod_eq_of_lt code.isLt

/-- The first item of a stream is in order (R114). -/
theorem State.takeSeq_of_first {q w m : Nat} (lane : Option Nat) (h : (s.sport q).started = false) :
    s.takeSeq q w m lane = ((s.setSport q { s.sport q with started := true }).wr F.sportSeq_seq q m, true) := by
  unfold State.takeSeq
  simp only [h, Bool.not_false, Bool.true_or, if_true]

/-- A status message of an enabled sensor is kept. -/
theorem camStatusRx_keeps_status (ready alert : Bool) (seq code : BitVec 16) (hon : s.sensorOn p k = true)
    (hburst : (s.hbPort p).burst = .outside) (hfirst : (s.sport (16 * p + 4 * k + 3)).started = false) :
    answers (.camStatusRx p k ready alert seq code) s (fun t =>
      t.flag F.headboxCamStat_ready (4 * p + k) = ready ∧ t.flag F.headboxCamStat_alert (4 * p + k) = alert ∧
      t.rd F.headboxCamStat_code (4 * p + k) = code.toNat) := by
  rw [answers, exec_camStatusRx, execCamStatusRx, State.camStatus]
  simp only [State.burstBroken_of_outside hburst, hon, State.takeSeq_of_first _ hfirst, Bool.not_true, Bool.false_eq_true,
    if_false]
  refine ⟨_, rfl, ?_⟩
  split
  · simp only [State.portAlert, State.flag_event, State.rd_event]
    exact State.camShown_shows ..
  · exact State.camShown_shows ..

/-- 100 ms without a status message set SILENT and raise the port's producer. -/
theorem camSilent_raises (hon : s.sensorOn p k = true) (hsilent : s.flag F.headboxCamStat_silent (4 * p + k) = false) :
    answers (.camSilent p k) s (fun t => t.flag F.headboxCamStat_silent (4 * p + k) = true ∧
      Output.cairn (48 + p) 0 (0x10 + p) ∈ t.out) := by
  rw [answers, exec_camSilent, execCamSilent]
  simp only [hon, hsilent, Bool.not_true, Bool.or_self, Bool.false_eq_true, if_false]
  refine ⟨_, rfl, ?_, ?_⟩
  · rw [State.portAlert, State.flag_event, State.flag_up_self (by decide) (by decide)]
  · rw [State.portAlert, State.event_out]
    exact List.mem_append_right _ (List.mem_singleton_self _)

/-- Settles O17: each clause is one command at one port. -/
theorem cameraControl : Obligations.CameraControl :=
  ⟨fun _ _ _ => camCtrlGo_sends, fun _ _ _ w _ result d => camAckRx_ends_wait w result d,
    fun _ _ => camCtrlTimeout_ends_wait, fun _ _ _ => camStatusRx_keeps_status, fun _ _ _ => camSilent_raises⟩

end Sys2Proof.Machine
end

section
/-! SUPPORT. A Calender's output lines (R215, R221 to R223): which operations leave the lines held alone, what the pixel
path reads, and the clauses of O18 about CAL_LINE. -/

namespace Sys2Proof.Machine

variable {s s0 t : State} {f g : Fld} {n i j v : Nat} {c : Prop} [Decidable c]

/-! ### A Calender beyond its registers -/

@[simp] theorem State.calCh_setCalCh_self (s : State) (n : Nat) (x : CalCh) : (s.setCalCh n x).calCh n = x :=
  Sparse.get_set_self _ _ _ _

@[simp] theorem State.rd_setCalCh (s : State) (n : Nat) (x : CalCh) (f : Fld) (i : Nat) :
    (s.setCalCh n x).rd f i = s.rd f i := rfl

theorem State.calCh_congr (h : t.calender = s.calender) (n : Nat) : t.calCh n = s.calCh n := by
  unfold State.calCh
  rw [h]

/-! ### What leaves the lines held alone -/

/-- The Headbox and the Calenders of `t` hold, beyond their registers, what those of `s` hold. -/
structure SameLines (s t : State) : Prop where
  headbox : t.headbox = s.headbox
  calender : t.calender = s.calender
  coefActive : t.coefActive = s.coefActive

namespace SameLines

theorem refl (s : State) : SameLines s s := ⟨rfl, rfl, rfl⟩

theorem same (h : SameLines s0 s) (hh : t.headbox = s.headbox) (hc : t.calender = s.calender)
    (ha : t.coefActive = s.coefActive) : SameLines s0 t :=
  ⟨hh.trans h.headbox, hc.trans h.calender, ha.trans h.coefActive⟩

theorem ite (ha : SameLines s0 s) (hb : SameLines s0 t) : SameLines s0 (if c then s else t) := by
  split
  · exact ha
  · exact hb

/-- An operation made where a condition holds. -/
theorem andIf (h : SameLines s0 s) (ht : SameLines s0 s → SameLines s0 t) : SameLines s0 (if c then t else s) :=
  .ite (ht h) h

/-- An operation made unless a condition holds. -/
theorem andUnless (h : SameLines s0 s) (ht : SameLines s0 s → SameLines s0 t) : SameLines s0 (if c then s else t) :=
  .ite h (ht h)

theorem wr (h : SameLines s0 s) : SameLines s0 (s.wr f i v) := h.same rfl rfl rfl
theorem up (h : SameLines s0 s) : SameLines s0 (s.up f i) := h.wr
theorem down (h : SameLines s0 s) : SameLines s0 (s.down f i) := h.wr
theorem count (h : SameLines s0 s) : SameLines s0 (s.count f i v) := h.wr

theorem event (h : SameLines s0 s) (p w isl : Nat) : SameLines s0 (s.event p w isl) :=
  h.same (State.event_headbox ..) (State.event_calender ..) (State.event_coefActive ..)

theorem log (h : SameLines s0 s) (code isl status : Nat) (args : List Nat) :
    SameLines s0 (s.log code isl status args) := .ite (h.same rfl rfl rfl) h.count

theorem withStats (h : SameLines s0 s) (x : Stats) : SameLines s0 { s with stats := x } := h.same rfl rfl rfl

theorem errLogNew (h : SameLines s0 s) (kind unit port : Nat) (errBit : Option Nat) :
    SameLines s0 (s.errLogNew kind unit port errBit) :=
  ((h.andIf (fun h => h.count)).wr.wr.wr.wr.andIf (fun h => h.up)).wr

theorem uncorrected (h : SameLines s0 s) (unit port : Nat) : SameLines s0 (s.uncorrected unit port) :=
  (h.count.count.errLogNew _ _ _ _).log _ _ _ _

theorem markedGood (h : SameLines s0 s) (l : List Nat) : SameLines s0 (l.foldl (fun s u => s.markGood u) s) := by
  induction l generalizing s with
  | nil => exact h
  | cons u l ih => exact ih (s := s.markGood u) (h.same rfl rfl rfl)

theorem setBytes (h : SameLines s0 s) (a : Nat) (bs : Bytes) : SameLines s0 (s.setBytes a bs) := by
  rw [State.setBytes_eq]
  exact h.same rfl rfl rfl

theorem store (h : SameLines s0 s) (port a : Nat) (bs : Bytes) : SameLines s0 (s.store port a bs) := by
  unfold State.store State.writeMem
  split
  · exact h.uncorrected _ _
  · exact (h.markedGood _).setBytes _ _

/-- The look-back writer keeps a line in HBM and in the Couch's bookkeeping (R313). -/
theorem lookWrite (h : SameLines s0 s) (n : Nat) (l : CalLine) : SameLines s0 (s.lookWrite n l) := by
  unfold State.lookWrite
  split
  · exact h
  · exact (h.store _ _ _).same rfl rfl rfl

/-- The statistics unit keeps a line in its own accumulation (R318, R320). -/
theorem statsLine (h : SameLines s0 s) (n : Nat) (l : CalLine) : SameLines s0 (s.statsLine n l) :=
  .ite (h.withStats _) (.ite (((h.andIf (fun h => h.down)).withStats _).withStats _) (h.withStats _))

theorem calFrameEnd (h : SameLines s0 s) (n frame missing : Nat) : SameLines s0 (s.calFrameEnd n frame missing) :=
  h.count.wr.andUnless (fun h => h.wr.count.count.andUnless (fun h => h.up.event _ _ _))

theorem coefErrors (h : SameLines s0 s) (n : Nat) : SameLines s0 (s.coefErrors n) :=
  h.andUnless (fun h => h.count.wr.andUnless (fun h => h.up.event _ _ _))

end SameLines

/-! ### What the pixel path reads (R215 to R218) -/

/-- The registers that the pixels of a good line depend on. -/
def pixelFields : List Fld :=
  [F.headboxChCfg_depth, F.calActiveCtl_corrEn, F.calActiveCtl_substEn, F.calActiveBlack_black, F.calActiveX0_x0,
    F.calActiveStep_step, F.calRsWout_wout, F.calRsWout_resampleEn]

/-- `t` turns a raw line of channel `n` into the pixels that `s` does. -/
structure SamePixelPath (n : Nat) (s t : State) : Prop where
  coefs : t.coefActive = s.coefActive
  bad : (t.calCh n).badActive = (s.calCh n).badActive
  regs : ∀ g ∈ pixelFields, sameRd g n s t

theorem State.calPixels_congr (h : SamePixelPath n s t) (raw : List Nat) : t.calPixels n raw = s.calPixels n raw := by
  obtain ⟨hcoefs, hbad, hregs⟩ := h
  have hcoef : t.coef n = s.coef n := by
    funext i
    rw [State.coef, hcoefs, State.coef]
  simp only [pixelFields, List.forall_mem_cons, List.not_mem_nil, false_imp_iff, implies_true, and_true] at hregs
  obtain ⟨hdepth, hcorr, hsubst, hblack, hx0, hstep, hwout, hresample⟩ := hregs
  unfold State.calPixels State.wout State.step_
  simp only [State.depth_congr hdepth, hbad, hcoef, State.flag_congr hcorr, State.flag_congr hsubst,
    State.flag_congr hresample, show _ = _ from hblack, show _ = _ from hx0, show _ = _ from hstep,
    show _ = _ from hwout]

/-- What a good line writes before its pixels are computed: the fill it frees and the parity errors it meets. -/
def goodLineFields : List Fld :=
  [F.headboxChStat_fill, F.headboxChPeak_peak, F.calCnt_count 6, F.calCoefErrIdx_index, F.calStat_coefErr]

/-- No channel's register of `f` is one of `g`. -/
def Fld.besideChannel (f g : Fld) : Bool := f.far 48 g 48 || f.ofHeadboxCh && g.ofHeadboxCh && f.off != g.off

theorem Fld.misses.of_besideChannel (h : f.besideChannel g = true) (hn : n < 48) : f.misses n g n := by
  simp only [Fld.besideChannel, Bool.or_eq_true, Bool.and_eq_true, bne_iff_ne] at h
  obtain hfar | ⟨⟨hf, hg⟩, hne⟩ := h
  · exact .of_far_fields hn hn hfar
  · exact .headboxCh hf hg hne

theorem goodLineFields_beside_pixelFields : ∀ f ∈ goodLineFields, ∀ g ∈ pixelFields, f.besideChannel g = true := by
  decide

/-- The state as a good line's bytes leave the partition and its coefficient words are read (R191, R223). -/
def State.goodLineRead (s : State) (n : Nat) : State :=
  (s.setFill n ((s.hbCh n).fill - s.lineBlocks n * 8)).coefErrors n

theorem sameRd.goodLineRead (h : sameRd g n s0 s) (hg : ∀ f ∈ goodLineFields, f.misses n g n) :
    sameRd g n s0 (s.goodLineRead n) := by
  simp only [goodLineFields, List.forall_mem_cons, List.not_mem_nil, false_imp_iff, implies_true, and_true] at hg
  obtain ⟨hfill, hpeak, herrors, hindex, hcoefErr⟩ := hg
  have hhwm : F.headboxChStat_hwm.misses n g n := hfill
  have hfreed : sameRd g n s0 (s.setFill n ((s.hbCh n).fill - s.lineBlocks n * 8)) :=
    (((h.withHeadbox _).wr hfill).peak hpeak).andIf (fun h => (h.up hhwm).event _ _ _)
  exact hfreed.andUnless (fun h => ((h.count herrors).wr hindex).andUnless (fun h => (h.up hcoefErr).event _ _ _))

/-- A good line frees its bytes, and leaves the lines held alone. -/
theorem State.goodLineRead_sameLines (s : State) (n : Nat) :
    SameLines (s.setHbCh n { s.hbCh n with fill := (s.hbCh n).fill - s.lineBlocks n * 8 }) (s.goodLineRead n) :=
  (((SameLines.refl _).wr.andIf (fun h => h.wr)).andIf (fun h => h.up.event _ _ _)).coefErrors n

theorem State.goodLineRead_samePixelPath (s : State) (hn : n < 48) : SamePixelPath n s (s.goodLineRead n) := by
  have hlines := s.goodLineRead_sameLines n
  refine ⟨hlines.coefActive, by rw [State.calCh_congr hlines.calender]; rfl, fun g hg => sameRd.refl.goodLineRead ?_⟩
  exact fun f hf => .of_besideChannel (goodLineFields_beside_pixelFields f hf g hg) hn

/-! ### A line is taken and delivered (R221, R222) -/

/-- The state as the next entry leaves the Headbox, with no word newly failing parity. -/
def State.calTaken (s : State) (n : Nat) (rest : List HbEntry) : State :=
  (s.setHbCh n { s.hbCh n with queue := rest }).setCalCh n (s.calCh n)

theorem State.calTaken_shows (s : State) (n : Nat) (rest : List HbEntry) :
    ((s.calTaken n rest).hbCh n).queue = rest ∧ (s.calTaken n rest).calCh n = s.calCh n :=
  ⟨congrArg HbCh.queue (State.hbCh_setHbCh_self ..), State.calCh_setCalCh_self ..⟩

/-- The state as an output line leaves for the Ridge hub, the look-back writer and the statistics unit. -/
def State.calDelivered (s : State) (n : Nat) (l : CalLine) : State :=
  let missing := (if l.index == 0 then 0 else (s.calCh n).missing) + b2n l.miss
  let t := s.setCalCh n { s.calCh n with missing := missing, out := (s.calCh n).out ++ [l] }
  let t := if l.index + 1 == t.frameLen then t.calFrameEnd n l.frame missing else t
  (t.lookWrite n l).statsLine n l

theorem State.calDelivered_shows (s : State) (n : Nat) (l : CalLine) :
    ((s.calDelivered n l).hbCh n).queue = (s.hbCh n).queue ∧
      ((s.calDelivered n l).calCh n).out = (s.calCh n).out ++ [l] := by
  have hlines : SameLines (s.setCalCh n _) (s.calDelivered n l) :=
    (((SameLines.refl _).andIf (fun h => h.calFrameEnd _ _ _)).lookWrite _ _).statsLine _ _
  constructor
  · rw [State.hbCh_congr hlines.headbox]
    rfl
  · rw [State.calCh_congr hlines.calender, State.calCh_setCalCh_self]

theorem State.calBoundary_of_unarmed (h : s.flag F.calShadowCtl_armed n = false) (index : Nat) :
    s.calBoundary n index = s := by
  rw [State.calBoundary, h]
  rfl

/-- A missing entry becomes a line of the missing-pixel code, as wide as the channel's output lines (R221). -/
theorem calLine_of_missing {n : Fin 48} {e : HbEntry} {rest : List HbEntry} (hqueue : (s.hbCh n).queue = e :: rest)
    (hpx : e.px = none) (harmed : s.flag F.calShadowCtl_armed n = false) : answers (.calLine n []) s (fun t =>
      (t.hbCh n).queue = rest ∧ (t.calCh n).out = (s.calCh n).out ++ [⟨e.line, (s.frameOf e.line).toNat,
        s.indexOf e.line, true, List.replicate (s.outWidth n) (2 ^ s.depth n - 1)⟩]) := by
  let l : CalLine := ⟨e.line, (s.frameOf e.line).toNat, s.indexOf e.line, true,
    List.replicate (s.outWidth n) (2 ^ s.depth n - 1)⟩
  have hexec : exec (.calLine n []) s = .next ((s.calTaken n rest).calDelivered n l) := by
    rw [exec_calLine, execCalLine]
    simp only [hqueue, hpx, State.calBoundary_of_unarmed, State.flag_setHbCh, harmed, List.map_nil, List.filter_nil,
      List.append_nil]
    rfl
  obtain ⟨hleft, hout⟩ := s.calTaken_shows n rest
  obtain ⟨hqueueAfter, houtAfter⟩ := (s.calTaken n rest).calDelivered_shows n l
  exact ⟨_, hexec, hqueueAfter.trans hleft, houtAfter.trans (by rw [hout])⟩

/-- The pixels of a good line counted (R216, R223). -/
def State.pixelsCounted (s : State) (n : Nat) (counts : Nat × Nat × Nat) : State :=
  ((s.count (F.calCnt_count 4) n counts.1).count (F.calCnt_count 5) n counts.2.1).count (F.calCnt_count 3) n counts.2.2

/-- A good entry becomes the line of its corrected, substituted and resampled pixels (R215 to R218, R221). -/
theorem calLine_of_good {n : Fin 48} {e : HbEntry} {rest : List HbEntry} {raw : List Nat}
    (hqueue : (s.hbCh n).queue = e :: rest) (hpx : e.px = some raw) (harmed : s.flag F.calShadowCtl_armed n = false) :
    answers (.calLine n []) s (fun t => (t.hbCh n).queue = rest ∧ (t.calCh n).out = (s.calCh n).out ++
      [⟨e.line, (s.frameOf e.line).toNat, s.indexOf e.line, false, (s.calPixels n raw).1⟩]) := by
  let t := (s.calTaken n rest).goodLineRead n
  let l : CalLine := ⟨e.line, (s.frameOf e.line).toNat, s.indexOf e.line, false, (t.calPixels n raw).1⟩
  have hexec : exec (.calLine n []) s = .next ((t.pixelsCounted n (t.calPixels n raw).2).calDelivered n l) := by
    rw [exec_calLine, execCalLine]
    simp only [hqueue, hpx, State.calBoundary_of_unarmed, State.flag_setHbCh, harmed, List.map_nil, List.filter_nil,
      List.append_nil]
    rfl
  obtain ⟨hleft, hout⟩ := s.calTaken_shows n rest
  have htaken : SamePixelPath n s (s.calTaken n rest) := ⟨rfl, by rw [hout], fun _ _ => rfl⟩
  have hpixels : t.calPixels n raw = s.calPixels n raw :=
    (State.calPixels_congr (State.goodLineRead_samePixelPath _ n.isLt) raw).trans (State.calPixels_congr htaken raw)
  have hcounted : SameLines _ (t.pixelsCounted n (t.calPixels n raw).2) :=
    ((s.calTaken n rest).goodLineRead_sameLines n).count.count.count
  obtain ⟨hqueueAfter, houtAfter⟩ := (t.pixelsCounted n (t.calPixels n raw).2).calDelivered_shows n l
  refine ⟨_, hexec, ?_, ?_⟩
  · rw [hqueueAfter, State.hbCh_congr hcounted.headbox, State.hbCh_setHbCh_self]
    exact hleft
  · rw [houtAfter, State.calCh_congr hcounted.calender, ← hpixels]
    exact congrArg (fun x : CalCh => x.out ++ [l]) hout

end Sys2Proof.Machine
end

section
/-! SUPPORT. The shadow parameters and banks of a Calender (R224 to R227): one lemma per clause of O18 about COMMIT,
DISCARD and the copy. -/

namespace Sys2Proof.Machine

variable {s s0 : State} {g : Fld} {n : Fin 48}

/-! ### The banks lie above the registers of the blocks (R214) -/

/-- The field's registers of 48 channels lie below the window of the coefficient words. -/
def Fld.belowCoefs (g : Fld) : Bool := decide (0 < g.n2) && decide (g.last 48 < 0x02200000)

theorem Fld.addr_lt_coefAddr (hg : g.belowCoefs = true) : g.addr n < coefAddr n 0 := by
  simp only [Fld.belowCoefs, Bool.and_eq_true, decide_eq_true_eq] at hg
  have := Fld.addr_le_last n.isLt hg.1
  unfold coefAddr
  omega

theorem sameRd.setCalCh {g : Fld} {j : Nat} (h : sameRd g j s0 s) (m : Nat) (x : CalCh) :
    sameRd g j s0 (s.setCalCh m x) := h.same rfl

theorem sameRd.setWords {g : Fld} {j : Nat} {l : List (Nat × Word)} (h : sameRd g j s0 s)
    (hl : ∀ e ∈ l, e.1 ≠ g.addr j) : sameRd g j s0 (l.foldl (fun s e => s.setReg e.1 e.2) s) := by
  induction l generalizing s with
  | nil => exact h
  | cons e l ih =>
    exact ih (h.setReg _ (hl e (List.mem_cons_self ..))) (fun d hd => hl d (List.mem_cons_of_mem _ hd))

/-- The words of a channel's bank, cleared and written again. -/
theorem sameRd.bankSet {l : List (Nat × Word)} (h : sameRd g n s0 s) (hg : g.belowCoefs = true)
    (hl : ∀ e ∈ l, inChannel n e.1 = true) : sameRd g n s0
      (l.foldl (fun s e => s.setReg e.1 e.2) (s.resetSpan (coefAddr n 0) (coefAddr (n + 1) 0))) := by
  have hbelow : g.addr n < coefAddr n 0 := Fld.addr_lt_coefAddr hg
  refine (h.resetSpan (.inl hbelow)).setWords (fun e he => Nat.ne_of_gt (hbelow.trans_le ?_))
  exact of_decide_eq_true (Bool.and_eq_true_iff.1 (hl e he)).1

/-- The exchange of the banks writes the channel's window alone (R227). -/
theorem sameRd.swapBanks (h : sameRd g n s0 s) (hg : g.belowCoefs = true) : sameRd g n s0 (s.swapBanks n) :=
  (h.bankSet hg (fun _ he => (List.mem_filter.1 he).2)).same rfl

/-- The bank copy writes the channel's window alone (R227). -/
theorem sameRd.copyBank (h : sameRd g n s0 s) (hg : g.belowCoefs = true) : sameRd g n s0 (s.copyBank n) := by
  refine (h.bankSet hg (fun e he => ?_)).setCalCh n _
  obtain he | he := List.mem_append.1 he <;>
    exact (Bool.and_eq_true_iff.1 (List.mem_filter.1 he).2).1

/-! ### The hand-over (R225) -/

/-- What every hand-over shows, be there coefficient words to exchange or none. -/
def State.handoverShown (s : State) (n : Nat) : State :=
  (((s.calScalars n).down F.calShadowCtl_armed n).down F.calShadowCtl_shadowPending n).count F.calShadowCtl_handovers n 1

/-- The exchange of the banks adds SYNCING. -/
theorem sameRd.calHandover (h : sameRd g n s0 (s.handoverShown n)) (hg : g.belowCoefs = true)
    (hsyncing : F.calShadowCtl_syncing.clearOf 48 g 48 = true) : sameRd g n s0 (s.calHandover n) := by
  unfold State.calHandover
  exact h.andIf (fun h => ((h.swapBanks hg).setCalCh n _).wrClearOf hsyncing n.isLt n.isLt)

theorem State.flag_handoverShown_armed (s : State) (n : Fin 48) :
    (s.handoverShown n).flag F.calShadowCtl_armed n = false := by
  rw [State.handoverShown, State.count, State.flag_wr_apart (by decide) (by decide), State.down,
    State.flag_wr_apart (by decide) (by decide), State.flag_down_self (by decide)]

theorem State.rd_handoverShown_black (s : State) (n : Fin 48) :
    (s.handoverShown n).rd F.calActiveBlack_black n = s.rd F.calBlack_black n := by
  unfold State.handoverShown State.count State.down State.calScalars
  simp (disch := decide) only [State.rd_wr_far_fin, State.rd_wr_self]
  exact Nat.mod_eq_of_lt (State.rd_lt s F.calBlack_black n)

theorem State.rd_handoverShown_corrEn (s : State) (n : Fin 48) :
    (s.handoverShown n).rd F.calActiveCtl_corrEn n = s.rd F.calCtl_corrEn n := by
  unfold State.handoverShown State.count State.down State.calScalars
  simp (disch := decide) only [State.rd_wr_far_fin, State.rd_wr_apart, State.rd_wr_self]
  exact Nat.mod_eq_of_lt (State.rd_lt s F.calCtl_corrEn n)

/-- A hand-over clears ARMED and makes the shadow scalars active. -/
theorem State.calHandover_shows (s : State) (n : Fin 48) : (s.calHandover n).flag F.calShadowCtl_armed n = false ∧
    (s.calHandover n).rd F.calActiveBlack_black n = s.rd F.calBlack_black n ∧
    (s.calHandover n).flag F.calActiveCtl_corrEn n = s.flag F.calCtl_corrEn n := by
  have harmed : sameRd F.calShadowCtl_armed n (s.handoverShown n) (s.calHandover n) :=
    sameRd.refl.calHandover (by decide) (by decide)
  have hblack : sameRd F.calActiveBlack_black n (s.handoverShown n) (s.calHandover n) :=
    sameRd.refl.calHandover (by decide) (by decide)
  have hcorr : sameRd F.calActiveCtl_corrEn n (s.handoverShown n) (s.calHandover n) :=
    sameRd.refl.calHandover (by decide) (by decide)
  exact ⟨(State.flag_congr harmed).trans (s.flag_handoverShown_armed n),
    Eq.trans hblack (s.rd_handoverShown_black n),
    (State.flag_congr hcorr).trans (congrArg (· != 0) (s.rd_handoverShown_corrEn n))⟩

/-! ### COMMIT (R225, R228) -/

theorem execCalCommit_of_ungated (hgated : s.calGated n = none) :
    execCalCommit n s = .next ((s.up F.calShadowCtl_armed n).calIdleHandover n) := by
  rw [execCalCommit, hgated]

/-- A COMMIT while the copy runs waits. -/
theorem calCommit_waits (hgated : s.calGated n = none) (hsyncing : s.flag F.calShadowCtl_syncing n = true) :
    answers (.calCommit n) s (fun t => t.flag F.calShadowCtl_armed n = true) := by
  have hstays : (s.up F.calShadowCtl_armed n).flag F.calShadowCtl_syncing n = true :=
    (State.flag_wr_apart (by decide) (by decide)).trans hsyncing
  refine ⟨_, execCalCommit_of_ungated hgated, ?_⟩
  rw [State.calIdleHandover, hstays, Bool.not_true, Bool.and_false, Bool.false_and, if_neg Bool.false_ne_true]
  exact State.flag_up_self (by decide) (by decide)

/-- Whether lines flow does not turn on the registers of the channel's hand-over. -/
theorem State.calFlows_up_armed (s : State) (n : Fin 48) : (s.up F.calShadowCtl_armed n).calFlows n = s.calFlows n := by
  have hport : n.val / 4 < 12 := by omega
  have hrole : (s.up F.calShadowCtl_armed n).rd F.laneQuadStat_role (n / 4) = s.rd F.laneQuadStat_role (n / 4) :=
    State.rd_wr_far (n := 48) (m := 12) (by decide) n.isLt hport
  have hsensors : (s.up F.calShadowCtl_armed n).rd F.headboxPortCtl_sensors (n / 4) =
      s.rd F.headboxPortCtl_sensors (n / 4) := State.rd_wr_far (n := 48) (m := 12) (by decide) n.isLt hport
  simp only [State.calFlows, State.sensorOn, State.sensorPort, hrole, hsensors, State.up_chief]

/-- A COMMIT where no line flows and no copy runs hands over at once. -/
theorem calCommit_hands_over (hgated : s.calGated n = none) (hsyncing : s.flag F.calShadowCtl_syncing n = false)
    (hflows : s.calFlows n = false) : answers (.calCommit n) s (fun t => t.flag F.calShadowCtl_armed n = false ∧
      t.rd F.calActiveBlack_black n = s.rd F.calBlack_black n ∧
      t.flag F.calActiveCtl_corrEn n = s.flag F.calCtl_corrEn n) := by
  have harmed : (s.up F.calShadowCtl_armed n).flag F.calShadowCtl_armed n = true :=
    State.flag_up_self (by decide) (by decide)
  have hidle : (s.up F.calShadowCtl_armed n).flag F.calShadowCtl_syncing n = false :=
    (State.flag_wr_apart (by decide) (by decide)).trans hsyncing
  have hnow : (s.up F.calShadowCtl_armed n).calIdleHandover n = (s.up F.calShadowCtl_armed n).calHandover n := by
    rw [State.calIdleHandover, harmed, hidle, State.calFlows_up_armed, hflows]
    exact if_pos rfl
  obtain ⟨hdisarmed, hblack, hcorr⟩ := (s.up F.calShadowCtl_armed n).calHandover_shows n
  exact ⟨_, (execCalCommit_of_ungated hgated).trans (congrArg _ hnow), hdisarmed,
    hblack.trans (State.rd_wr_far_fin (by decide)), hcorr.trans (State.flag_wr_far_fin (by decide))⟩

/-! ### DISCARD and the copy (R226, R227) -/

/-- The shadow scalars from the active ones. -/
def State.scalarsRestored (s : State) (n : Nat) : State :=
  let s := s.wr F.calCtl_corrEn n (s.rd F.calActiveCtl_corrEn n)
  let s := s.wr F.calCtl_substEn n (s.rd F.calActiveCtl_substEn n)
  let s := s.wr F.calBlack_black n (s.rd F.calActiveBlack_black n)
  let s := s.wr F.calRsX0_x0 n (s.rd F.calActiveX0_x0 n)
  s.wr F.calRsStep_step n (s.rd F.calActiveStep_step n)

theorem State.rd_scalarsRestored_black (s : State) (n : Fin 48) :
    (s.scalarsRestored n).rd F.calBlack_black n = s.rd F.calActiveBlack_black n := by
  unfold State.scalarsRestored
  simp (disch := decide) only [State.rd_wr_far_fin, State.rd_wr_self]
  exact Nat.mod_eq_of_lt (State.rd_lt s F.calActiveBlack_black n)

theorem execCalDiscard_of_ungated (hgated : s.calGated n = none) : execCalDiscard n s = .next
    ((((s.scalarsRestored n).setCalCh n
      { (s.scalarsRestored n).calCh n with written := false, skip := [], discard := some s.clock }).down
        F.calShadowCtl_shadowPending n).up F.calShadowCtl_syncing n) := by
  rw [execCalDiscard, hgated]
  rfl

/-- A DISCARD brings the active scalars back and starts a copy. -/
theorem calDiscard_restores (hgated : s.calGated n = none) : answers (.calDiscard n) s (fun t =>
    t.flag F.calShadowCtl_syncing n = true ∧ t.rd F.calBlack_black n = s.rd F.calActiveBlack_black n ∧
    t.flag F.calShadowCtl_shadowPending n = false) := by
  refine ⟨_, execCalDiscard_of_ungated hgated, State.flag_up_self (by decide) (by decide), ?_,
    (State.flag_wr_apart (by decide) (by decide)).trans (State.flag_down_self (by decide))⟩
  rw [State.up, State.rd_wr_far_fin (by decide), State.down, State.rd_wr_far_fin (by decide), State.rd_setCalCh,
    State.rd_scalarsRestored_black]

theorem State.calIdleHandover_of_unarmed (h : s.flag F.calShadowCtl_armed n = false) : s.calIdleHandover n = s := by
  rw [State.calIdleHandover, h]
  rfl

/-- The copy's end clears SYNCING; nothing is skipped any more. -/
theorem calBankCopyDone_ends_sync (hsyncing : s.flag F.calShadowCtl_syncing n = true)
    (harmed : s.flag F.calShadowCtl_armed n = false) : answers (.calBankCopyDone n) s (fun t =>
      t.flag F.calShadowCtl_syncing n = false ∧ (t.calCh n).skip = []) := by
  have hstays : ((s.copyBank n).down F.calShadowCtl_syncing n).flag F.calShadowCtl_armed n = false :=
    (State.flag_wr_apart (by decide) (by decide)).trans
      ((State.flag_congr (sameRd.refl.copyBank (by decide))).trans harmed)
  refine ⟨(s.copyBank n).down F.calShadowCtl_syncing n, ?_, State.flag_down_self (by decide), ?_⟩
  · rw [exec_calBankCopyDone, execCalBankCopyDone, hsyncing, Bool.not_true, if_neg Bool.false_ne_true,
      State.calIdleHandover_of_unarmed hstays]
  · exact congrArg CalCh.skip (State.calCh_setCalCh_self ..)

/-- Settles O18: each clause is one command at one channel. -/
theorem calendersDeliver : Obligations.CalendersDeliver :=
  ⟨fun _ _ _ _ => calLine_of_missing, fun _ _ _ _ _ => calLine_of_good, fun _ _ => calCommit_waits,
    fun _ _ => calCommit_hands_over, fun _ _ => calDiscard_restores, fun _ _ => calBankCopyDone_ends_sync⟩

end Sys2Proof.Machine
end

section
/-! SUPPORT. The registers of the Ridges: one page of registers to a Ridge, so that a write beside a field in the page
is beside it at every Ridge; the operations of the rotation by the fields they leave alone. -/

namespace Sys2Proof.Machine

variable {s s0 : State} {f g : Fld} {j k v : Nat}

/-! ### The page of a Ridge (R36) -/

/-- The first and the last byte of a field's registers within a page of 262,144 bytes. -/
def Fld.pageFrom (f : Fld) : Nat := f.base % 262144 + f.off
def Fld.pageTo (f : Fld) : Nat := f.pageFrom + (f.n2 - 1) * f.s2

/-- The field stands in the Ridges' pages. -/
def Fld.ofRidges (f : Fld) : Bool :=
  decide (0x600000 ≤ f.base) && f.s1 == 262144 && decide (0 < f.n2) && decide (f.pageTo < 262144)

theorem Fld.addr_mod_page (hf : f.ofRidges = true) (i : Nat) :
    f.pageFrom ≤ f.addr i % 262144 ∧ f.addr i % 262144 ≤ f.pageTo := by
  simp only [Fld.ofRidges, Bool.and_eq_true, decide_eq_true_eq, beq_iff_eq] at hf
  obtain ⟨⟨⟨-, hs1⟩, hn2⟩, hto⟩ := hf
  have hrow : i % f.n2 * f.s2 ≤ (f.n2 - 1) * f.s2 :=
    Nat.mul_le_mul_right _ (Nat.le_sub_one_of_lt (Nat.mod_lt i hn2))
  unfold Fld.pageTo Fld.pageFrom at hto
  unfold Fld.pageTo Fld.pageFrom Fld.addr
  rw [hs1]
  omega

/-- A field of the Ridges lies above the Chief's registers. -/
theorem Fld.ne_addr_of_ofRidges (hg : g.ofRidges = true) {a : Nat} (ha : a < 0x600000) : a ≠ g.addr j := by
  simp only [Fld.ofRidges, Bool.and_eq_true, decide_eq_true_eq] at hg
  obtain ⟨⟨⟨hbase, -⟩, -⟩, -⟩ := hg
  have := g.le_addr j
  omega

/-- At no two Ridges the registers of `f` are those of `g`, or the fields have no bit in common. -/
def Fld.besideInPage (f g : Fld) : Bool :=
  f.ofRidges && g.ofRidges && (decide (f.pageTo < g.pageFrom) || decide (g.pageTo < f.pageFrom)) ||
    decide (f.fits ∧ f.apart g)

theorem State.rd_wr_besideInPage (h : f.besideInPage g = true) : (s.wr f k v).rd g j = s.rd g j := by
  simp only [Fld.besideInPage, Bool.or_eq_true, Bool.and_eq_true, decide_eq_true_eq] at h
  obtain ⟨⟨hf, hg⟩, hspan⟩ | ⟨hfits, hapart⟩ := h
  · refine State.rd_wr_ne _ _ _ _ _ _ (fun heq => ?_)
    have hfrow := Fld.addr_mod_page hf k
    have hgrow := Fld.addr_mod_page hg j
    rw [heq] at hgrow
    omega
  · exact State.rd_wr_apart _ _ _ _ _ _ hfits hapart

/-! ### A Ridge beyond its registers -/

@[simp] theorem State.ridge_setRidge_self (s : State) (k : Nat) (r : Ridge) : (s.setRidge k r).ridge k = r :=
  Sparse.get_set_self _ _ _ _

@[simp] theorem State.rot_setRot_self (s : State) (k : Nat) (r : Rotation) : (s.setRot k r).rot k = r := by
  rw [State.rot, State.setRot, State.ridge_setRidge_self]

@[simp] theorem State.rd_setRot (s : State) (k : Nat) (r : Rotation) (f : Fld) (i : Nat) :
    (s.setRot k r).rd f i = s.rd f i := rfl

namespace sameRd

theorem wrBeside (h : sameRd g j s0 s) (hf : f.besideInPage g = true) : sameRd g j s0 (s.wr f k v) :=
  (State.rd_wr_besideInPage hf).trans h

theorem setRidge (h : sameRd g j s0 s) (k : Nat) (r : Ridge) : sameRd g j s0 (s.setRidge k r) := h.same rfl

theorem setRot (h : sameRd g j s0 s) (k : Nat) (r : Rotation) : sameRd g j s0 (s.setRot k r) := h.same rfl

/-! ### Operations beside the page -/

theorem log (h : sameRd g j s0 s) (hg : g.ofRidges = true) (code isl status : Nat) (args : List Nat) :
    sameRd g j s0 (s.log code isl status args) :=
  (State.rd_log g j (Fld.ne_addr_of_ofRidges hg (by decide))).trans h

theorem showIsl (h : sameRd g j s0 s) (hg : g.ofRidges = true) : sameRd g j s0 s.showIsl :=
  (congrArg g.ofWord (State.reg_showIsl s (Fld.ne_addr_of_ofRidges hg (by decide)).symm
    (Fld.ne_addr_of_ofRidges hg (by decide)).symm)).trans h

theorem isolate (h : sameRd g j s0 s) (hg : g.ofRidges = true) (isl : Nat) (on : Bool) :
    sameRd g j s0 (s.isolate isl on) := by
  have hheld : sameRd g j s0 { s with
      chief.islands := Sparse.set (fun _ => {}) s.chief.islands isl { s.isl isl with isolated := on } } := h.same rfl
  exact hheld.showIsl hg

theorem gate (h : sameRd g j s0 s) (hg : g.ofRidges = true) (isl : Nat) : sameRd g j s0 (s.gate isl) := by
  have hgated : sameRd g j s0 { s with chief.gated := s.chief.gated ++ [isl] } := h.same rfl
  exact .ite h (hgated.showIsl hg)

/-- An event of a Ridge writes its cause bit alone (R257). -/
theorem ridgeEvent (h : sameRd g j s0 s) (hf : f.besideInPage g = true) (gen : Nat) :
    sameRd g j s0 (s.ridgeEvent k f gen) :=
  (wrBeside h hf).andIf (fun h => h.event _ _ _)

/-! ### The rotation's operations -/

theorem setRole (h : sameRd g j s0 s) (hrole : F.ridgeSpurStat_role.besideInPage g = true)
    (hslot : F.ridgeSpurStat_slot.besideInPage g = true) (k i role slot : Nat) :
    sameRd g j s0 (s.setRole k i role slot) := (h.wrBeside hrole).wrBeside hslot

theorem startCopy (h : sameRd g j s0 s) (hretry : F.ridgeRotStat_retry.besideInPage g = true)
    (hlines : F.ridgeRotStat_shadowLines.besideInPage g = true) (hstep : F.ridgeRotStat_step.besideInPage g = true)
    (k : Nat) (retry : Bool) : sameRd g j s0 (s.startCopy k retry) :=
  (((h.wrBeside hretry).wrBeside hlines).wrBeside hstep).setRot k _

theorem restStep_ofRidge (h : sameRd g j s0 s) (hstep : F.ridgeRotStat_step.besideInPage g = true) (k : Nat) :
    sameRd g j s0 (s.restStep k) := h.andUnless (fun h => h.wrBeside hstep)

end sameRd

end Sys2Proof.Machine
end

section
/-! SUPPORT. The rotation step (R244 to R250): one lemma per clause of O20. -/

namespace Sys2Proof.Machine

variable {s t : State} {k : Nat}

/-- A Spur's role reads back as set (R230). -/
theorem State.rd_setRole_role (s : State) (k j role slot : Nat) :
    (s.setRole k j role slot).rd F.ridgeSpurStat_role (spurAt k j) = role % 2 ^ 3 :=
  (State.rd_wr_apart _ _ _ _ _ _ (by decide) (by decide)).trans (State.rd_wr_self _ _ _ _ (by decide))

/-! ### A step starts (R244, R245) -/

theorem State.rd_startCopy_step (s : State) (k : Nat) (retry : Bool) :
    (s.startCopy k retry).rd F.ridgeRotStat_step k = RotStep.copy := by
  rw [State.startCopy, State.rd_setRot, State.rd_wr_self _ _ _ _ (by decide)]
  rfl

theorem State.slotWorks_congr (hmode : t.rd F.cfgStat_runMode = s.rd F.cfgStat_runMode)
    (hnodes : t.rd F.ridgeStat_nodes k = s.rd F.ridgeStat_nodes k) (m : Nat) : t.slotWorks k m = s.slotWorks k m := by
  rw [State.slotWorks, State.inspectImage, hmode, hnodes, State.slotWorks, State.inspectImage]

/-- Whether a slot carries work does not turn on the rotation's registers (R230, R254). -/
theorem State.slotWorks_startCopy (s : State) (k m : Nat) (retry : Bool) :
    (s.startCopy k retry).slotWorks k m = s.slotWorks k m := by
  have hmisses : ∀ f : Fld, f.ofRidges = true → f.misses k F.cfgStat_runMode 0 :=
    fun f hf => (Fld.ne_addr_of_ofRidges hf (by decide)).symm
  refine State.slotWorks_congr ?_ (sameRd.refl.startCopy rfl rfl rfl k retry) m
  exact (((sameRd.refl.wr (hmisses _ rfl)).wr (hmisses _ rfl)).wr (hmisses _ rfl)).setRot k _

theorem State.slotWorks_setRot (s : State) (k m : Nat) (r : Rotation) : (s.setRot k r).slotWorks k m = s.slotWorks k m :=
  State.slotWorks_congr (State.rd_setRot ..) (State.rd_setRot ..) m

/-- A step that may start is in COPY, and its target slot waits for the hand-over (R244, R245). -/
theorem State.startStep_of_free (hfree : s.stepFree k = true) (gen : Nat) : s.startStep k gen =
    (s.startCopy k false).setRot k { (s.startCopy k false).rot k with gen := gen } := by
  simp only [State.stepFree, Bool.and_eq_true, beq_iff_eq, bne_iff_ne] at hfree
  obtain ⟨⟨⟨⟨henabled, hmode⟩, hwaits⟩, hspare⟩, hworks⟩ := hfree
  have htarget : (s.startCopy k false).rd F.ridgeRotStat_targetSlot k = s.rd F.ridgeRotStat_targetSlot k :=
    sameRd.refl.startCopy rfl rfl rfl k false
  rw [State.startStep, henabled, hmode, hwaits, bne_self_eq_false, beq_eq_false_iff_ne.2 hspare, if_neg (by decide)]
  refine if_pos ?_
  rw [State.rd_setRot, htarget, State.slotWorks_setRot, State.slotWorks_startCopy, hworks]

theorem State.askStep_of_free (hfree : s.stepFree k = true)
    (hspare : s.rd F.ridgeSpurStat_role (spurAt k (s.rd F.ridgeRotStat_spare k)) = SpurRole.spare) (gen : Nat) :
    s.askStep k gen = s.startStep k gen := by
  simp only [State.stepFree, Bool.and_eq_true, beq_iff_eq, bne_iff_ne] at hfree
  obtain ⟨⟨⟨-, hwaits⟩, hheld⟩, -⟩ := hfree
  have hcopy : (RotStep.wait == RotStep.copy) = false := rfl
  simp only [State.askStep, hspare, hwaits, hcopy, beq_eq_false_iff_ne.2 hheld, bne_self_eq_false, Bool.or_self,
    Bool.false_eq_true, if_false]

theorem State.startStep_shows (hfree : s.stepFree k = true) (gen : Nat) :
    (s.startStep k gen).rd F.ridgeRotStat_step k = RotStep.copy ∧ ((s.startStep k gen).rot k).gen = gen := by
  rw [State.startStep_of_free hfree, State.rot_setRot_self, State.rd_setRot]
  exact ⟨s.rd_startCopy_step k false, rfl⟩

/-- The period starts a step (R244). -/
theorem rotationStepStart_copies {k : Fin 6} (hfree : s.stepFree k = true) : answers (.rotationStepStart k) s (fun t =>
    t.rd F.ridgeRotStat_step k = RotStep.copy) := ⟨_, rfl, (State.startStep_shows hfree 0).1⟩

section
variable {k : Fin 6} (hfree : s.stepFree k = true)
  (hspare : s.rd F.ridgeSpurStat_role (spurAt k (s.rd F.ridgeRotStat_spare k)) = SpurRole.spare)
include hfree hspare

/-- ROT_NOW starts a step (R244). -/
theorem rotNow_copies : answers (.rotNow k) s (fun t => t.rd F.ridgeRotStat_step k = RotStep.copy) := by
  refine ⟨_, rfl, ?_⟩
  rw [State.askStep_of_free hfree hspare]
  exact (State.startStep_shows hfree 0).1

/-- The event starts a step of its generation (R244, R484). -/
theorem rotationEvent_copies (gen : Fin 8) : answers (.rotationEvent k gen) s (fun t =>
    t.rd F.ridgeRotStat_step k = RotStep.copy ∧ (t.rot k).gen = gen + 1) := by
  refine ⟨_, rfl, ?_⟩
  rw [State.askStep_of_free hfree hspare]
  exact State.startStep_shows hfree (gen + 1)

end

/-! ### COPY, isolation and the slice (R245 to R248) -/

/-- The copied spare waits for a boundary (R245). -/
theorem spurCopyDone_copied {k : Fin 6} (hstep : s.rd F.ridgeRotStat_step k = RotStep.copy) :
    answers (.spurCopyDone k) s (fun t => (t.rot k).copied = true) := by
  refine ⟨s.setRot k { s.rot k with copied := true }, ?_,
    congrArg Rotation.copied (State.rot_setRot_self ..)⟩
  rw [exec_spurCopyDone, execSpurCopyDone, hstep, bne_self_eq_false, if_neg Bool.false_ne_true]

/-- The isolated Spur is put under test (R247, R248). -/
theorem spurIsolated_tests {k : Fin 6} (hstep : s.rd F.ridgeRotStat_step k = RotStep.isolate) :
    answers (.spurIsolated k) s (fun t => t.rd F.ridgeRotStat_step k = RotStep.test ∧
      t.rd F.ridgeSpurStat_role (spurAt k (s.rd F.ridgeRotStat_underTest k)) = SpurRole.underTest) := by
  refine ⟨(s.setRole k (s.rd F.ridgeRotStat_underTest k) SpurRole.underTest noSpur).wr F.ridgeRotStat_step k
    RotStep.test, ?_, State.rd_wr_self _ _ _ _ (by decide), ?_⟩
  · rw [exec_spurIsolated, execSpurIsolated, hstep, bne_self_eq_false, if_neg Bool.false_ne_true]
  · exact (State.rd_wr_besideInPage rfl).trans (s.rd_setRole_role k _ _ _)

/-- A result other than PASS noted: LAST_RESULT, the counters and the event (R248, R257). -/
def State.sliceNoted (s : State) (k result : Nat) : State :=
  let i := spurAt k (s.rd F.ridgeRotStat_underTest k)
  let s := (s.wr F.ridgeSpurStat_lastResult i result).count (F.ridgeRotCnt_count (1 + result)) k 1
  let s := if result != 3 then s.count F.ridgeSpurStat_tests i 1 else s
  s.ridgeEvent k F.ridgeEvt_sliceNotPass (s.rot k).gen

section
variable {result : Nat} (hresult : result = 3 ∨ result = 4)
include hresult

/-- A slice that neither passes nor fails is noted, and the Spur is re-initialised (R248, R249). -/
theorem State.sliceResult_of_open (s : State) (k : Nat) : s.sliceResult k result =
    (((s.sliceNoted k result).setRole k (s.rd F.ridgeRotStat_underTest k) SpurRole.reinit noSpur).wr
      F.ridgeRotStat_step k RotStep.reinit).setRot k { (s.sliceNoted k result).rot k with retryNext := false } := by
  have hpass : (result == 1) = false := by obtain rfl | rfl := hresult <;> rfl
  have hfail : (result == 2) = false := by obtain rfl | rfl := hresult <;> rfl
  unfold State.sliceResult
  simp only [hpass, hfail, bne, Bool.not_false, if_true, Bool.false_and, Bool.or_self, Bool.false_eq_true, if_false,
    Bool.and_false]
  rfl

theorem State.rd_sliceNoted_lastResult (s : State) (k : Nat) :
    (s.sliceNoted k result).rd F.ridgeSpurStat_lastResult (spurAt k (s.rd F.ridgeRotStat_underTest k)) = result := by
  have hcount : (F.ridgeRotCnt_count (1 + result)).besideInPage F.ridgeSpurStat_lastResult = true := by
    obtain rfl | rfl := hresult <;> rfl
  have hkept : result % 2 ^ F.ridgeSpurStat_lastResult.width = result := by obtain rfl | rfl := hresult <;> rfl
  exact Eq.trans (((sameRd.refl.wrBeside hcount).andIf (fun h => h.wrBeside rfl)).ridgeEvent rfl _)
    ((State.rd_wr_self s F.ridgeSpurStat_lastResult _ result (by decide)).trans hkept)

theorem State.sliceResult_shows (s : State) (k : Nat) :
    (s.sliceResult k result).rd F.ridgeRotStat_step k = RotStep.reinit ∧
      (s.sliceResult k result).rd F.ridgeSpurStat_lastResult (spurAt k (s.rd F.ridgeRotStat_underTest k)) = result := by
  rw [State.sliceResult_of_open hresult, State.rd_setRot, State.rd_setRot, State.rd_wr_self _ _ _ _ (by decide)]
  exact ⟨rfl, Eq.trans ((sameRd.refl.setRole rfl rfl k _ _ _).wrBeside rfl)
    (State.rd_sliceNoted_lastResult hresult s k)⟩

end

section
variable {k : Fin 6} (hstep : s.rd F.ridgeRotStat_step k = RotStep.test)
include hstep

/-- A limit that did not hold ends the slice as SKIPPED (R248). -/
theorem spurSliceDone_skipped (sig : BitVec 64) : answers (.spurSliceDone k false sig) s (fun t =>
    t.rd F.ridgeRotStat_step k = RotStep.reinit ∧
    t.rd F.ridgeSpurStat_lastResult (spurAt k (s.rd F.ridgeRotStat_underTest k)) = 3) := by
  refine ⟨_, ?_, State.sliceResult_shows (.inl rfl) s k⟩
  rw [exec_spurSliceDone, execSpurSliceDone, hstep, bne_self_eq_false, if_neg Bool.false_ne_true, Bool.not_false,
    if_pos rfl]

/-- The budget's end leaves the slice INCOMPLETE (R248). -/
theorem sliceBudgetExpiry_incomplete : answers (.sliceBudgetExpiry k) s (fun t =>
    t.rd F.ridgeRotStat_step k = RotStep.reinit ∧
    t.rd F.ridgeSpurStat_lastResult (spurAt k (s.rd F.ridgeRotStat_underTest k)) = 4) := by
  refine ⟨_, ?_, State.sliceResult_shows (.inr rfl) s k⟩
  rw [exec_sliceBudgetExpiry, execSliceBudgetExpiry, hstep, bne_self_eq_false, if_neg Bool.false_ne_true]

end

/-! ### The end of re-initialisation (R249, R250) -/

theorem State.rd_retireSpur_step (s : State) (k j : Nat) :
    (s.retireSpur k j).rd F.ridgeRotStat_step k = RotStep.stopped := by
  rw [State.retireSpur, State.rd_setRot, State.rd_wr_self _ _ _ _ (by decide)]
  rfl

/-- What follows the role of a Spur that retires leaves it alone (R250). -/
theorem State.rd_retireSpur_role (s : State) (k j : Nat) :
    (s.retireSpur k j).rd F.ridgeSpurStat_role (spurAt k j) = SpurRole.retired := by
  refine Eq.trans ?_ (s.rd_setRole_role k j SpurRole.retired noSpur)
  exact (((((((((sameRd.refl.wrBeside rfl).wrBeside rfl).isolate rfl _ _).gate rfl _).log rfl _ _ _ _).ridgeEvent rfl
    _).wrBeside rfl).wrBeside rfl).setRot k _)


/-- The Spur is the spare, before the next step is looked at (R249). -/
def State.spurSpared (s : State) (k : Nat) : State :=
  let j := s.rd F.ridgeRotStat_underTest k
  let s := ((s.advanceTarget k).isolate (spurIsland k j) false).setRole k j SpurRole.spare noSpur
  let s := ((s.wr F.ridgeRotStat_spare k j).wr F.ridgeRotStat_underTest k noSpur).wr F.ridgeRotStat_step k RotStep.wait
  (s.wr F.ridgeRotStat_retry k 0).setRot k { gen := (s.rot k).gen }

theorem State.rd_spurSpared_spare (s : State) (k : Nat) :
    (s.spurSpared k).rd F.ridgeRotStat_spare k = s.rd F.ridgeRotStat_underTest k := by
  rw [State.spurSpared, State.rd_setRot, State.rd_wr_besideInPage (by rfl), State.rd_wr_besideInPage (by rfl),
    State.rd_wr_besideInPage (by rfl), State.rd_wr_self _ _ _ _ (by decide)]
  exact Nat.mod_eq_of_lt (State.rd_lt s F.ridgeRotStat_underTest k)

theorem State.rd_spurSpared_role (s : State) (k : Nat) :
    (s.spurSpared k).rd F.ridgeSpurStat_role (spurAt k (s.rd F.ridgeRotStat_underTest k)) = SpurRole.spare := by
  rw [State.spurSpared, State.rd_setRot, State.rd_wr_besideInPage (by rfl), State.rd_wr_besideInPage (by rfl),
    State.rd_wr_besideInPage (by rfl), State.rd_wr_besideInPage (by rfl), State.rd_setRole_role]
  rfl

section
variable {k : Fin 6} (hstep : s.rd F.ridgeRotStat_step k = RotStep.reinit)
include hstep

/-- What the Ridge does next leaves the spare and its role alone (R249, R251). -/
theorem execSpurReinitDone_of_verified : ∃ t, execSpurReinitDone k true s = .next t ∧
    ∀ g j, F.ridgeRotStat_retry.besideInPage g = true → F.ridgeRotStat_shadowLines.besideInPage g = true →
      F.ridgeRotStat_step.besideInPage g = true → sameRd g j (s.spurSpared k) t := by
  by_cases hretry : ((s.rot k).retryNext && (s.spurSpared k).runMode && (s.spurSpared k).flag F.ridgeCtl_rotEn k) = true
  · refine ⟨(s.spurSpared k).startCopy k true, ?_, fun g j hr hl hs => sameRd.refl.startCopy hr hl hs k true⟩
    rw [execSpurReinitDone, hstep, bne_self_eq_false, if_neg Bool.false_ne_true, Bool.not_true,
      if_neg Bool.false_ne_true]
    exact if_pos hretry
  · refine ⟨(s.spurSpared k).restStep k, ?_, fun g j _ _ hs => sameRd.refl.restStep_ofRidge hs k⟩
    rw [execSpurReinitDone, hstep, bne_self_eq_false, if_neg Bool.false_ne_true, Bool.not_true,
      if_neg Bool.false_ne_true]
    exact if_neg hretry

/-- A Spur that verifies is the spare (R249). -/
theorem spurReinitDone_spares : answers (.spurReinitDone k true) s (fun t =>
    t.rd F.ridgeRotStat_spare k = s.rd F.ridgeRotStat_underTest k ∧
    t.rd F.ridgeSpurStat_role (spurAt k (s.rd F.ridgeRotStat_underTest k)) = SpurRole.spare) := by
  obtain ⟨t, hexec, hsame⟩ := execSpurReinitDone_of_verified hstep
  exact ⟨t, hexec, Eq.trans (hsame _ _ rfl rfl rfl) (s.rd_spurSpared_spare k),
    Eq.trans (hsame _ _ rfl rfl rfl) (s.rd_spurSpared_role k)⟩

/-- A Spur that fails its write-read pass retires (R249, R250). -/
theorem spurReinitDone_retires : answers (.spurReinitDone k false) s (fun t =>
    t.rd F.ridgeRotStat_step k = RotStep.stopped ∧
    t.rd F.ridgeSpurStat_role (spurAt k (s.rd F.ridgeRotStat_underTest k)) = SpurRole.retired) := by
  rw [answers, exec_spurReinitDone, execSpurReinitDone, hstep, bne_self_eq_false, if_neg Bool.false_ne_true,
    Bool.not_false, if_pos rfl]
  exact ⟨_, rfl, State.rd_retireSpur_step _ k _, State.rd_retireSpur_role _ k _⟩

end

/-- Settles O20: each clause is one command at one Ridge. -/
theorem rotationSteps : Obligations.RotationSteps :=
  ⟨fun _ _ => rotationStepStart_copies, fun _ _ => rotNow_copies, fun _ _ g hfree hspare =>
    rotationEvent_copies hfree hspare g, fun _ _ => spurCopyDone_copied, fun _ _ => spurIsolated_tests,
    fun _ _ sig hstep => spurSliceDone_skipped hstep sig, fun _ _ => sliceBudgetExpiry_incomplete,
    fun _ _ => spurReinitDone_spares, fun _ _ => spurReinitDone_retires⟩

end Sys2Proof.Machine
end

section
/-! SUPPORT. What a line boundary leaves of a Ridge's intake: the in-line buffer, its port and its count, and the kernels'
dose lines. One lemma per operation of the rotation, the labeller and the stage graph, each a chain that follows the
operation's definition. -/

namespace Sys2Proof.Machine

variable {s s0 t : State} {f : Fld} {i k v : Nat} {c : Prop} [Decidable c]

/-- The registers of a Ridge that its in-line intake turns on: INLINE_LINES and the in-line port (R236, R257). -/
def intakeFields : List Fld := [F.ridgeCnt_count 0, F.ridgeStat_inlinePort]

/-- The field has no bit in common with those. -/
def Fld.besideIntake (f : Fld) : Bool := intakeFields.all (fun g => f.besideInPage g)

theorem intakeFields_ofRidges : ∀ g ∈ intakeFields, g.ofRidges = true := by decide

/-- `t` has the in-line buffer of Ridge `k`, its port and its count, and the kernels' dose lines of `s`. -/
structure SameIntake (k : Nat) (s t : State) : Prop where
  inline : (t.ridge k).inline = (s.ridge k).inline
  kernels : t.kernels = s.kernels
  regs : ∀ g ∈ intakeFields, sameRd g k s t

/-- The spare in the target slot, before the Spur it relieves is looked at (R246). -/
def State.spareTakes (s : State) (k : Nat) : State :=
  let m := s.rd F.ridgeRotStat_targetSlot k
  let j := s.rd F.ridgeRotStat_spare k
  let s := ((s.setSlotSpur k m j).setRole k j SpurRole.live m).wr F.ridgeRotStat_spare k noSpur
  let s := s.count (F.ridgeRotCnt_count 0) k 1
  s.setRot k { s.rot k with handed := true, copied := false, forced := false }

/-- A mismatch counted, with its event (R251, R257). -/
def State.mismatchNoted (s : State) (k : Nat) : State :=
  let s := s.count (F.ridgeRotCnt_count 1) k 1
  s.ridgeEvent k F.ridgeEvt_mismatch (s.rot k).gen

namespace SameIntake

theorem refl (k : Nat) (s : State) : SameIntake k s s := ⟨rfl, rfl, fun _ _ => .refl⟩

theorem inlineCtx (h : SameIntake k s t) : t.inlineCtx k = s.inlineCtx k := h.regs F.ridgeStat_inlinePort (by decide)

theorem counted (h : SameIntake k s t) : t.rd (F.ridgeCnt_count 0) k = s.rd (F.ridgeCnt_count 0) k :=
  h.regs (F.ridgeCnt_count 0) (by decide)

/-! ### Updates, branches and folds -/

theorem ite (ha : SameIntake k s0 s) (hb : SameIntake k s0 t) : SameIntake k s0 (if c then s else t) := by
  split
  · exact ha
  · exact hb

/-- An operation made where a condition holds. -/
theorem andIf (h : SameIntake k s0 s) (ht : SameIntake k s0 s → SameIntake k s0 t) :
    SameIntake k s0 (if c then t else s) := .ite (ht h) h

/-- An operation made unless a condition holds. -/
theorem andUnless (h : SameIntake k s0 s) (ht : SameIntake k s0 s → SameIntake k s0 t) :
    SameIntake k s0 (if c then s else t) := .ite h (ht h)

theorem foldl {α : Type} {l : List α} {op : State → α → State} (h : SameIntake k s0 s)
    (hop : ∀ t x, SameIntake k s0 t → SameIntake k s0 (op t x)) : SameIntake k s0 (l.foldl op s) :=
  List.foldlRecOn l op h (fun t ht x _ => hop t x ht)

theorem wr (h : SameIntake k s0 s) (hf : f.besideIntake = true) : SameIntake k s0 (s.wr f i v) :=
  ⟨h.inline, h.kernels, fun g hg => (h.regs g hg).wrBeside (List.all_eq_true.1 hf g hg)⟩

theorem up (h : SameIntake k s0 s) (hf : f.besideIntake = true) : SameIntake k s0 (s.up f i) := h.wr hf
theorem count (h : SameIntake k s0 s) (hf : f.besideIntake = true) : SameIntake k s0 (s.count f i v) := h.wr hf
theorem peak (h : SameIntake k s0 s) (hf : f.besideIntake = true) : SameIntake k s0 (s.peak f i v) :=
  h.andIf (fun h => h.wr hf)

theorem same (h : SameIntake k s0 s) (hridges : t.ridges = s.ridges) (hkernels : t.kernels = s.kernels)
    (hregs : ∀ g ∈ intakeFields, sameRd g k s0 t) : SameIntake k s0 t := by
  refine ⟨?_, hkernels.trans h.kernels, hregs⟩
  rw [State.ridge, hridges]
  exact h.inline

theorem event (h : SameIntake k s0 s) (p w isl : Nat) : SameIntake k s0 (s.event p w isl) :=
  h.same (State.event_ridges ..) (State.event_kernels ..) (fun g hg => (h.regs g hg).event p w isl)

theorem log (h : SameIntake k s0 s) (code isl status : Nat) (args : List Nat) :
    SameIntake k s0 (s.log code isl status args) := by
  refine h.same ?_ ?_ (fun g hg => (h.regs g hg).log (intakeFields_ofRidges g hg) code isl status args) <;>
    exact (apply_ite ..).trans (ite_self _)

theorem setRidge (h : SameIntake k s0 s) {r : Ridge} (hr : r.inline = (s.ridge k).inline := by rfl) :
    SameIntake k s0 (s.setRidge k r) :=
  ⟨(congrArg Ridge.inline (State.ridge_setRidge_self ..)).trans (hr.trans h.inline), h.kernels, h.regs⟩

theorem setRot (h : SameIntake k s0 s) (r : Rotation) : SameIntake k s0 (s.setRot k r) := h.setRidge

theorem setCtx (h : SameIntake k s0 s) (n : Nat) (x : RidgeCtx) : SameIntake k s0 (s.setCtx k n x) := h.setRidge

theorem isolate (h : SameIntake k s0 s) (isl : Nat) (on : Bool) : SameIntake k s0 (s.isolate isl on) := by
  have hshown : OnlyRegs _ (s.isolate isl on) := State.showIsl_onlyRegs _
  obtain ⟨r, hr⟩ := hshown
  refine h.same ?_ ?_ (fun g hg => (h.regs g hg).isolate (intakeFields_ofRidges g hg) isl on) <;> rw [hr]

theorem ridgeEvent (h : SameIntake k s0 s) (hf : f.besideIntake = true) (gen : Nat) :
    SameIntake k s0 (s.ridgeEvent k f gen) :=
  (up h hf).andIf (fun h => h.event _ _ _)

/-! ### The rotation (R246, R247, R251) -/

theorem setRole (h : SameIntake k s0 s) (n j role slot : Nat) : SameIntake k s0 (s.setRole n j role slot) :=
  (h.wr (f := F.ridgeSpurStat_role) (by decide)).wr (by decide)

theorem restStep (h : SameIntake k s0 s) : SameIntake k s0 (s.restStep k) := h.andUnless (fun h => h.wr (by decide))

theorem isolateSpur (h : SameIntake k s0 s) (j : Nat) : SameIntake k s0 (s.isolateSpur k j) :=
  (((h.setRole _ _ _ _).wr (f := F.ridgeRotStat_underTest) (by decide)).wr (by decide)).isolate _ _

theorem spareTakes (h : SameIntake k s0 s) : SameIntake k s0 (s.spareTakes k) :=
  ((((h.wr (by decide)).setRole _ _ _ _).wr (by decide)).count (by decide)).setRot _

theorem handOver (h : SameIntake k s0 s) : SameIntake k s0 (s.handOver k) :=
  .ite ((h.spareTakes.up (by decide)).wr (by decide)).restStep (h.spareTakes.isolateSpur _)

theorem rotBoundary (h : SameIntake k s0 s) : SameIntake k s0 (s.rotBoundary k) :=
  .ite (((h.log _ _ _ _).handOver).setRot _) (.ite h.handOver
    (h.andIf (fun h => (((h.setRole _ _ _ _).wr (by decide)).wr (by decide)).setRot _)))

theorem mismatchNoted (h : SameIntake k s0 s) : SameIntake k s0 (s.mismatchNoted k) :=
  (h.count (by decide)).ridgeEvent (by decide) _

theorem rotCompare (h : SameIntake k s0 s) (stamp : Int) (mismatch : Bool) :
    SameIntake k s0 (s.rotCompare k stamp mismatch) := by
  refine h.andUnless (fun h => (h.wr (by decide)).andUnless (fun h => .ite ?_ ?_))
  · exact ((h.mismatchNoted.wr (by decide)).wr (by decide)).setRot _
  · exact ((((h.mismatchNoted.wr (by decide)).wr (by decide)).wr (by decide)).isolateSpur _).setRot _

/-! ### The labeller and the item FIFO (R279 to R292) -/

theorem nodeCount (h : SameIntake k s0 s) (n m v : Nat) (hm : (F.ridgeNodeCnt_count m).besideIntake = true) :
    SameIntake k s0 (s.nodeCount k n m v) := h.count hm

theorem labelStep (h : SameIntake k s0 s) (n x : Nat) (y : Option Int) (row : List Nat) :
    SameIntake k s0 (s.labelStep k n x y row).1 := by
  refine andIf (andIf ?_ (fun h => h.up (by decide))) (fun h => h.up (by decide))
  exact ((((((h.setRidge.setCtx _ _).nodeCount _ _ _ (by decide)).nodeCount _ _ _ (by decide)).nodeCount _ _ _
    (by decide)).peak (by decide)).wr (by decide))

theorem showItems (h : SameIntake k s0 s) (n : Nat) : SameIntake k s0 (s.showItems k n) :=
  (h.wr (by decide)).peak (by decide)

theorem sendOut (h : SameIntake k s0 s) (n fuel : Nat) : SameIntake k s0 (s.sendOut k n fuel) := by
  induction fuel generalizing s with
  | zero => exact h
  | succ fuel ih =>
    unfold State.sendOut
    dsimp only
    split
    · exact h
    · refine h.andUnless (fun h => ih ?_)
      split
      · exact h.setRidge.nodeCount _ _ _ (by split <;> decide)
      · exact .ite ((h.setRidge.wr (by decide)).ridgeEvent (by decide) _)
          ((h.setRidge.wr (by decide)).ridgeEvent (by decide) _)

theorem drainFifo (h : SameIntake k s0 s) (n : Nat) : SameIntake k s0 (s.drainFifo k n) := (h.sendOut _ _).showItems _

theorem pushItem (h : SameIntake k s0 s) (n : Nat) (it : Item) : SameIntake k s0 (s.pushItem k n it) :=
  .ite (h.setRidge.drainFifo _) (((h.setCtx _ _).nodeCount _ _ _ (by decide)).up (by decide))

theorem pushOverflow (h : SameIntake k s0 s) (n plane x : Nat) : SameIntake k s0 (s.pushOverflow k n plane x) :=
  h.andUnless (fun h => h.andUnless (fun h => (h.setRidge.setCtx _ _).drainFifo _))

theorem pushMarker (h : SameIntake k s0 s) (n : Nat) (m : Marker) : SameIntake k s0 (s.pushMarker k n m) :=
  h.setRidge.drainFifo _

theorem setSums (h : SameIntake k s0 s) (x seq : Nat) (op : Sums → Sums) : SameIntake k s0 (s.setSums k x seq op) :=
  h.setRidge

theorem takeSums (h : SameIntake k s0 s) (x seq : Nat) : SameIntake k s0 (s.takeSums k x seq).2 := h.setRidge

theorem featureEvent (h : SameIntake k s0 s) (n plane x : Nat) (y : Int) (cls : List Nat) (hasB : Bool)
    (grey : List Int) (e : BlobEvent) : SameIntake k s0 (s.featureEvent k n plane x y cls hasB grey e) := by
  cases e with
  | opened q a prev => exact h.setRidge
  | merged into gone =>
    have htaken := h.takeSums x gone
    dsimp only [State.featureEvent]
    split
    · next heq =>
      rw [heq] at htaken
      exact htaken.setSums _ _ _
    · next heq =>
      rw [heq] at htaken
      exact htaken
  | joined q a b => exact h.setSums _ _ _
  | overflow a b => exact h.setCtx _ _
  | touchMiss q => exact h.setSums _ _ _
  | overflowTouch q => exact h.setSums _ _ _
  | closed q last cont minArea =>
    have htaken := h.takeSums x q
    dsimp only [State.featureEvent]
    split
    · next heq =>
      rw [heq] at htaken
      exact .ite (htaken.nodeCount _ _ _ (by decide)) (htaken.pushItem _ _)
    · next heq =>
      rw [heq] at htaken
      exact htaken

/-! ### The stage graph (R235, R243, R258 to R264) -/

theorem setNodeParam (h : SameIntake k s0 s) (n : Nat) (p : Bytes) : SameIntake k s0 (s.setNodeParam k n p) :=
  h.foldl (fun _ _ h => h.wr (by decide))

theorem paramsReach (h : SameIntake k s0 s) (x n frame : Nat) : SameIntake k s0 (s.paramsReach k x n frame) := by
  unfold State.paramsReach
  dsimp only
  split
  · exact h
  · exact h.setCtx _ _

theorem pushNode (h : SameIntake k s0 s) (x n : Nat) (l : StreamLine) : SameIntake k s0 (s.pushNode k x n l) :=
  h.setCtx _ _

theorem droppedMarkers (h : SameIntake k s0 s) (x fuel : Nat) : SameIntake k s0 (s.droppedMarkers k x fuel) := by
  induction fuel generalizing s with
  | zero => exact h
  | succ fuel ih =>
    unfold State.droppedMarkers
    dsimp only
    split
    · exact .ite (ih ((h.setCtx _ _).pushMarker _ _)) h
    · exact h

theorem nodeLine (h : SameIntake k s0 s) (x n y : Nat) (cfg : NodeCfg) : SameIntake k s0 (s.nodeLine k x n y cfg) := by
  unfold State.nodeLine
  dsimp only
  split
  · exact h
  · next a _ =>
    have hreach := h.paramsReach x n a.frame
    -- one goal for each class of node, in the order of the definition
    refine .ite ?_ (.ite ?_ (.ite ?_ (.ite ?_ (.ite ?_ (.ite ?_ (.ite ?_ (andIf hreach (fun h => ?_))))))))
    · exact (hreach.nodeCount _ _ _ (by decide)).pushNode _ _ _
    · exact (hreach.nodeCount _ _ _ (by decide)).pushNode _ _ _
    · exact ((hreach.setCtx _ _).nodeCount _ _ _ (by decide)).pushNode _ _ _
    · exact .ite (hreach.pushNode _ _ _) (hreach.pushNode _ _ _)
    · exact hreach.pushNode _ _ _
    · exact (hreach.nodeCount _ _ _ (by decide)).pushNode _ _ _
    · exact (hreach.labelStep _ _ _ _).pushNode _ _ _
    · refine (andUnless ((h.foldl (fun _ _ h => h.featureEvent _ _ _ _ _ _ _ _)).pushNode _ _ _) (fun h => ?_))
      have hover := h.pushOverflow n cfg.plane x
      split
      · exact (hover.setCtx _ _).pushMarker _ _
      · exact hover

theorem nodeRun (h : SameIntake k s0 s) (x n : Nat) (cfg : NodeCfg) (fuel : Nat) :
    SameIntake k s0 (s.nodeRun k x n cfg fuel) := by
  induction fuel generalizing s with
  | zero => exact h
  | succ fuel ih => exact h.andIf (fun h => ih (h.nodeLine _ _ _ _))

theorem graphRun (h : SameIntake k s0 s) (x : Nat) : SameIntake k s0 (s.graphRun k x) :=
  h.foldl (fun _ _ h => h.nodeRun _ _ _ _)

theorem graphLine (h : SameIntake k s0 s) (x : Nat) (l : PortLine) : SameIntake k s0 (s.graphLine k x l) :=
  ((h.setCtx _ _).graphRun _).droppedMarkers _ _

theorem flushCtx (h : SameIntake k s0 s) (x : Nat) : SameIntake k s0 (s.flushCtx k x) := by
  refine h.andUnless (fun h => ?_)
  have hrun := (h.setCtx x { s.ctx k x with total := some (s.ctx k x).port.count }).graphRun x
  dsimp only
  split
  · exact (((hrun.labelStep _ _ _ _).foldl (fun _ _ h => h.featureEvent _ _ _ _ _ _ _ _)).pushOverflow _ _
      _).droppedMarkers _ _
  · exact hrun

theorem ridgeFlush (h : SameIntake k s0 s) : SameIntake k s0 (s.ridgeFlush k) :=
  h.andUnless (fun h => (h.flushCtx 0).flushCtx 1)

theorem showPending (h : SameIntake k s0 s) : SameIntake k s0 (s.showPending k) := h.wr (by decide)

theorem paramFrame (h : SameIntake k s0 s) (x frame : Nat) : SameIntake k s0 (s.paramFrame k x frame) := by
  have hlater := andIf h (c := (x == s.inlineCtx k && (s.ridge k).pending.any (fun p => p.frame.isNone)) = true)
    (fun h => h.wr (f := F.ridgeParamFrame_frameEff) (i := k) (v := frame) (by decide))
  refine showPending (setRidge (andIf (hlater.setCtx _ _) (fun h => h.foldl (fun _ _ h =>
    h.foldl (fun _ _ h => h.setNodeParam _ _)))))

/-! ### The taking of a line (R237, R242) -/

theorem showInline (h : SameIntake k s0 s) : SameIntake k s0 (s.showInline k) :=
  ((h.wr (by decide)).peak (by decide)).andIf (fun h => h.up (by decide))

theorem showLag (h : SameIntake k s0 s) : SameIntake k s0 (s.showLag k) := by
  unfold State.showLag
  split
  · exact (h.wr (by decide)).peak (by decide)
  · exact h

end SameIntake

end Sys2Proof.Machine
end

section
/-! SUPPORT. The Ridge hub's intake (R236 to R241): the clauses of O19. -/

namespace Sys2Proof.Machine

variable {s s0 t : State} {g : Fld} {k : Nat}

/-! ### A line of the in-line port arrives (R236, R237) -/

theorem OnlyRegs.andIf {u : State} {c : Prop} [Decidable c] (h : OnlyRegs s t) (hu : OnlyRegs s t → OnlyRegs s u) :
    OnlyRegs s (if c then u else t) := by
  split
  · exact hu h
  · exact h

theorem State.showInline_onlyRegs (s : State) (k : Nat) : OnlyRegs s (s.showInline k) :=
  (((OnlyRegs.refl s).wr _ _ _).andIf (fun h => h.wr _ _ _)).andIf (fun h => h.wr _ _ _)

/-- A line that finds room enters the in-line buffer as it is (R237). -/
theorem State.inlineLine_of_room {l : PortLine}
    (hroom : s.inlineFill k + s.portLineBytes (ridgePort k (s.inlineCtx k)) ≤ 262144) :
    s.inlineLine k l = (s.setRidge k { s.ridge k with inline := (s.ridge k).inline ++ [l] }).showInline k := by
  unfold State.inlineLine
  simp only [Nat.not_lt.2 hroom, if_false]

/-- The next line of a port with one enabled channel. -/
def CalLine.portLine (l : CalLine) : PortLine :=
  ⟨l.line, l.frame, l.index, [(0, if l.miss then none else some l.px)]⟩

theorem execRidgePortLineArrive_of_inline {p : Fin 12} {n : Nat} {l : CalLine} {rest : List CalLine}
    (hchans : s.planeChannels p = [(0, n)]) (hout : (s.calCh n).out = l :: rest)
    (hstate : s.rd F.ridgeStat_state (p / 2) = 3) (hport : p % 2 = s.inlineCtx (p / 2)) :
    execRidgePortLineArrive p s =
      .next ((s.setCalCh n { s.calCh n with out := rest }).inlineLine (p / 2) l.portLine) := by
  have hctx : (s.setCalCh n { s.calCh n with out := rest }).inlineCtx (p / 2) = s.inlineCtx (p / 2) := rfl
  unfold execRidgePortLineArrive
  simp only [hchans, List.filterMap_cons, List.filterMap_nil, hout, List.head?_cons, Option.map_some, List.length_cons,
    List.length_nil, bne_self_eq_false, Bool.false_eq_true, if_false, forAll, List.foldl_cons, List.foldl_nil,
    List.drop_succ_cons, List.drop_zero, State.rd_setCalCh, hstate, hctx, ← hport, beq_self_eq_true, if_true]
  rfl

/-- A line of the in-line port leaves its Calender and enters the buffer (R236, R237). -/
theorem ridgePortLineArrive_enters {p : Fin 12} {n : Nat} {l : CalLine} {rest : List CalLine}
    (hchans : s.planeChannels p = [(0, n)]) (hout : (s.calCh n).out = l :: rest)
    (hstate : s.rd F.ridgeStat_state (p / 2) = 3) (hport : p % 2 = s.inlineCtx (p / 2))
    (hroom : s.inlineFill (p / 2) + s.portLineBytes p ≤ 262144) : answers (.ridgePortLineArrive p) s (fun t =>
      (t.calCh n).out = rest ∧ (t.ridge (p / 2)).inline = (s.ridge (p / 2)).inline ++
        [⟨l.line, l.frame, l.index, [(0, if l.miss then none else some l.px)]⟩]) := by
  let u := s.setCalCh n { s.calCh n with out := rest }
  have hp : ridgePort (p / 2) (u.inlineCtx (p / 2)) = p := by
    show 2 * (p.val / 2) + s.inlineCtx (p / 2) = p
    omega
  have hfits : u.inlineFill (p / 2) + u.portLineBytes (ridgePort (p / 2) (u.inlineCtx (p / 2))) ≤ 262144 := by
    rw [hp]
    exact hroom
  obtain ⟨r, hshown⟩ := (u.setRidge (p / 2) { u.ridge (p / 2) with
    inline := (u.ridge (p / 2)).inline ++ [l.portLine] }).showInline_onlyRegs (p / 2)
  refine ⟨_, (execRidgePortLineArrive_of_inline hchans hout hstate hport).trans
    (congrArg Host.Outcome.next ((State.inlineLine_of_room hfits).trans hshown)), ?_, ?_⟩
  · exact congrArg CalCh.out (State.calCh_setCalCh_self ..)
  · exact congrArg Ridge.inline (State.ridge_setRidge_self ..)

/-! ### A burst (R241) -/

/-- The field is in no register of HBM's error counters and log, nor in that of the event log (R441, R546). -/
def Fld.besideErrLog (g : Fld) (m : Nat) : Bool :=
  (F.hbmCnt_count 1).far 1 g m && F.hbmPcUncorr_uncorr.far 64 g m && F.hbmLogWord_word.far 256 g m &&
    F.hbmLogStat_next.far 1 g m && F.chiefLogLost_count.far 1 g m

/-- One plane of a line fetched from its slot: `r` holds the state, whether every plane read well, the planes and the
address (R241). -/
def fetchPlane (l : PortLine) (k : Nat) (r : State × Bool × List (Nat × Option (List Nat)) × Nat) (e : Nat × Nat) :
    State × Bool × List (Nat × Option (List Nat)) × Nat :=
  let (s, ok, ps, a) := r
  let w := s.outWidth e.2
  let b := s.pixelBytes e.2
  match (l.planes.find? (fun q => q.1 == e.1)).bind (·.2) with
  | none => (s, ok, ps ++ [(e.1, none)], a + rowBytes w b)
  | some _ =>
    match s.readMem a (w * b) with
    | some bs => (s, ok, ps ++ [(e.1, some ((List.range w).map (fun i => leAt bs (i * b) b)))], a + rowBytes w b)
    | none => (s.readFailed k a (w * b), false, ps ++ [(e.1, none)], a + rowBytes w b)

/-- Every plane of a line fetched from its slot (R241). -/
def State.fetchPlanes (s : State) (k slot : Nat) (l : PortLine) :
    State × Bool × List (Nat × Option (List Nat)) × Nat :=
  (s.planeChannels (ridgePort k (1 - s.inlineCtx k))).foldl (fetchPlane l k) (s, true, [], s.slotAddr k slot l.index)

theorem State.readSlot_eq (s : State) (k slot : Nat) (l : PortLine) : s.readSlot k slot l =
    if (s.fetchPlanes k slot l).2.1 then ((s.fetchPlanes k slot l).1, { l with planes := (s.fetchPlanes k slot l).2.2.1 })
    else ((s.fetchPlanes k slot l).1.count (F.ridgeCnt_count 4) k 1,
      { l with planes := (s.fetchPlanes k slot l).2.2.1.map (fun q => (q.1, none)) }) := rfl

section
variable {m : Nat} (hk : k < m) (hg : g.besideErrLog m = true)
include hk hg

theorem sameRd.errLogNew (h : sameRd g k s0 s) (kind unit port : Nat) (errBit : Option Nat) :
    sameRd g k s0 (s.errLogNew kind unit port errBit) := by
  simp only [Fld.besideErrLog, Bool.and_eq_true] at hg
  obtain ⟨⟨-, hwords⟩, hstat⟩ := hg.1
  have hnext := State.rd_lt s F.hbmLogStat_next 0
  have hword : ∀ c < 4, F.hbmLogWord_word.misses (4 * s.rd F.hbmLogStat_next + c) g k := by
    intro c hc
    refine .of_far_fields ?_ hk hwords
    simp only [F.hbmLogStat_next] at hnext ⊢
    omega
  have hlogStat : F.hbmLogStat_next.misses 0 g k := .of_far_fields Nat.one_pos hk hstat
  have hfirst : F.hbmLogWord_word.misses (4 * s.rd F.hbmLogStat_next) g k := hword 0 (by decide)
  have hoverflow : F.hbmLogStat_overflow.misses 0 g k := hlogStat
  have hwrapped : F.hbmLogStat_wrapped.misses 0 g k := hlogStat
  exact ((((((h.andIf (fun h => h.count hoverflow)).wr hfirst).wr (hword 1 (by decide))).wr
    (hword 2 (by decide))).wr (hword 3 (by decide))).andIf (fun h => h.up hwrapped)).wr hlogStat

theorem sameRd.uncorrected (h : sameRd g k s0 s) (unit port : Nat) : sameRd g k s0 (s.uncorrected unit port) := by
  have hfar := hg
  simp only [Fld.besideErrLog, Bool.and_eq_true] at hfar
  obtain ⟨⟨⟨⟨hcnt, hpc⟩, -⟩, -⟩, hlost⟩ := hfar
  have hcounted := (h.count (v := 1) (.of_far_fields Nat.one_pos hk hcnt)).count (v := 1)
    (.of_far_fields (hbmPc_lt unit) hk hpc)
  exact (State.rd_log g k (Fld.addr_ne hlost Nat.one_pos hk)).trans (hcounted.errLogNew hk hg _ _ _ _)

theorem sameRd.readFailed (h : sameRd g k s0 s) (port a len : Nat) : sameRd g k s0 (s.readFailed port a len) := by
  unfold State.readFailed
  split
  · exact h.uncorrected hk hg _ _
  · exact h

theorem sameRd.fetchPlane {l : PortLine} {n : Nat} {r : State × Bool × List (Nat × Option (List Nat)) × Nat}
    (h : sameRd g k s0 r.1) (e : Nat × Nat) : sameRd g k s0 (fetchPlane l n r e).1 := by
  unfold Machine.fetchPlane
  dsimp only
  split
  · exact h
  · split
    · exact h
    · exact h.readFailed hk hg _ _ _

theorem sameRd.fetchPlanes (h : sameRd g k s0 s) (n slot : Nat) (l : PortLine) :
    sameRd g k s0 (s.fetchPlanes n slot l).1 := by
  unfold State.fetchPlanes
  exact List.foldlRecOn (motive := fun r : State × Bool × List (Nat × Option (List Nat)) × Nat => sameRd g k s0 r.1)
    _ _ h (fun _ hr e _ => hr.fetchPlane hk hg e)

/-- A line fetched from its slot counts MEM_ERR alone (R241). -/
theorem sameRd.readSlot (h : sameRd g k s0 s) (hcnt : (F.ridgeCnt_count 4).besideInPage g = true) (n slot : Nat)
    (l : PortLine) : sameRd g k s0 (s.readSlot n slot l).1 := by
  have hplanes := h.fetchPlanes hk hg n slot l
  rw [State.readSlot_eq]
  split
  · exact hplanes
  · exact hplanes.wrBeside hcnt

/-- Lines staged from a burst count MEM_ERR alone (R241). -/
theorem sameRd.stageLines (h : sameRd g k s0 s) (hcnt : (F.ridgeCnt_count 4).besideInPage g = true) (n fuel : Nat) :
    sameRd g k s0 (s.stageLines n fuel) := by
  induction fuel generalizing s with
  | zero => exact h
  | succ fuel ih =>
    unfold State.stageLines
    refine h.andUnless (fun h => ?_)
    split
    · exact h
    · split
      · exact ih ((h.readSlot hk hg hcnt _ _ _).setRidge _ _)
      · exact h

end

theorem sameRd.showSlots (h : sameRd g k s0 s) (hused : F.ridgeSlotStat_used.besideInPage g = true)
    (hpeak : F.ridgeSlotStat_peak.besideInPage g = true) (hqueued : F.ridgeSlotStat_queued.besideInPage g = true)
    (hhwm : F.ridgeSlotStat_hwm.besideInPage g = true) (n : Nat) : sameRd g k s0 (s.showSlots n) :=
  (((h.wrBeside hused).andIf (fun h => h.wrBeside hpeak)).wrBeside hqueued).andIf (fun h => h.wrBeside hhwm)

/-- A burst of a frame started and counted (R241). -/
def State.burstStarted (s : State) (k : Nat) (f : MemFrame) : State :=
  (s.setRidge k { s.ridge k with burstLeft := min (64 * (s.ridge k).burst) (s.frameLen - f.fetched) }).count
    (F.ridgeCnt_count 5) k 1

/-- A burst of the oldest complete frame is counted (R241). -/
theorem memPathBurst_counted {k : Fin 6} {f : MemFrame} (hleft : (s.ridge k).burstLeft = 0)
    (hstaging : (s.ridge k).staging = []) (hreading : (s.ridge k).reading s.frameLen = some f)
    (hcomplete : f.complete = true) : answers (.memPathBurst k) s (fun t =>
      t.rd (F.ridgeCnt_count 5) k = satAdd 32 (s.rd (F.ridgeCnt_count 5) k) 1) := by
  have hidle : ((s.ridge k).burstLeft != 0 || decide (4 ≤ (s.ridge k).staging.length)) = false := by
    rw [hleft, hstaging]
    rfl
  refine ⟨((s.burstStarted k f).stageLines k 4).showSlots k, ?_, ?_⟩
  · simp only [exec_memPathBurst, execMemPathBurst, hidle, hreading, hcomplete, Bool.not_true, Bool.false_eq_true,
      if_false]
    rfl
  · have hkept : sameRd (F.ridgeCnt_count 5) k (s.burstStarted k f)
        (((s.burstStarted k f).stageLines k 4).showSlots k) :=
      (sameRd.refl.stageLines k.isLt (by decide) rfl k 4).showSlots rfl rfl rfl rfl k
    exact Eq.trans hkept (State.rd_count_self (by decide) (by decide))


/-! ### A line boundary in INSPECT (R238, R242) -/

theorem State.dropTurns_of_none (hframes : (s.ridge k).frames = []) (fuel : Nat) : s.dropTurns k fuel = s := by
  cases fuel with
  | zero => rfl
  | succ fuel =>
    unfold State.dropTurns
    simp only [hframes]

/-- A context's line through the graph (R238). -/
def State.graphFed (s : State) (k c : Nat) (l : PortLine) : State :=
  let s := s.rotBoundary k
  (if l.index == 0 then s.paramFrame k c l.frame else s).graphLine k c l

theorem SameIntake.graphFed (h : SameIntake k s0 s) (c : Nat) (l : PortLine) : SameIntake k s0 (s.graphFed k c l) :=
  (h.rotBoundary.andIf (fun h => h.paramFrame _ _)).graphLine _ _

theorem State.takeInto_eq (s : State) (k c : Nat) (l : PortLine) (m : Bool) : s.takeInto k c l m =
    let u := s.graphFed k c l
    let inl := c == u.inlineCtx k
    let r := u.ridge k
    let w := u.setRidge k (if inl then { r with lastInline := some l.line } else { r with lastMem := some l.line })
    let w := w.count (F.ridgeCnt_count (if inl then 0 else 1)) k 1
    (w.showLag k).rotCompare k (w.lineStamp l.line) m := rfl

/-- A line of the in-line port through the graph (R238, R242). -/
def State.inlineTaken (s : State) (k : Nat) (l : PortLine) : State :=
  let u := s.graphFed k (s.inlineCtx k) l
  u.setRidge k { u.ridge k with lastInline := some l.line }

/-- A line of the in-line port through the graph and counted (R257). -/
def State.inlineCounted (s : State) (k : Nat) (l : PortLine) : State :=
  (s.inlineTaken k l).count (F.ridgeCnt_count 0) k 1

theorem State.takeInto_inline (s : State) (k : Nat) (l : PortLine) (m : Bool) : s.takeInto k (s.inlineCtx k) l m =
    ((s.inlineCounted k l).showLag k).rotCompare k ((s.inlineCounted k l).lineStamp l.line) m := by
  have hctx : (s.graphFed k (s.inlineCtx k) l).inlineCtx k = s.inlineCtx k :=
    ((SameIntake.refl k s).graphFed (s.inlineCtx k) l).inlineCtx
  rw [State.takeInto_eq]
  simp only [hctx, beq_self_eq_true, if_true]
  rfl

theorem State.inlineCounted_shows (s : State) (k : Nat) (l : PortLine) :
    ((s.inlineCounted k l).ridge k).inline = (s.ridge k).inline ∧
      (s.inlineCounted k l).rd (F.ridgeCnt_count 0) k = satAdd 32 (s.rd (F.ridgeCnt_count 0) k) 1 := by
  have htaken : SameIntake k s (s.inlineTaken k l) := ((SameIntake.refl k s).graphFed (s.inlineCtx k) l).setRidge
  constructor
  · rw [State.inlineCounted, State.ridge, State.count_ridges]
    exact htaken.inline
  · rw [State.inlineCounted, State.rd_count_self (by decide) (by decide), htaken.counted, F.ridgeCnt_count]

/-- A line taken from the in-line port is counted, and takes no other from the buffer (R238). -/
theorem State.takeInto_inline_shows (s : State) (k : Nat) (l : PortLine) (m : Bool) :
    ((s.takeInto k (s.inlineCtx k) l m).ridge k).inline = (s.ridge k).inline ∧
      (s.takeInto k (s.inlineCtx k) l m).rd (F.ridgeCnt_count 0) k = satAdd 32 (s.rd (F.ridgeCnt_count 0) k) 1 := by
  have hshown := ((SameIntake.refl k (s.inlineCounted k l)).showLag).rotCompare ((s.inlineCounted k l).lineStamp l.line) m
  obtain ⟨hinline, hcounted⟩ := s.inlineCounted_shows k l
  rw [State.takeInto_inline]
  exact ⟨hshown.inline.trans hinline, hshown.counted.trans hcounted⟩

/-- In INSPECT a boundary takes the in-line line first (R238). -/
theorem State.inspectBoundary_of_inline {l : PortLine} {rest : List PortLine} (m : Bool)
    (hframes : (s.ridge k).frames = []) (hinline : (s.ridge k).inline = l :: rest) : s.inspectBoundary k m =
      (((s.setRidge k { s.ridge k with inline := rest }).showInline k).takeInto k
        ((s.setRidge k { s.ridge k with inline := rest }).inlineCtx k) l m).ridgeFlush k := by
  unfold State.inspectBoundary
  rw [State.dropTurns_of_none hframes]
  simp only [hinline]

/-- A boundary in INSPECT takes the in-line line and counts it (R238, R257). -/
theorem ridgeLineBoundary_takes_line {k : Fin 6} {l : PortLine} {rest : List PortLine} (m : Bool)
    (himage : s.exposeImage = false) (hframes : (s.ridge k).frames = []) (hinline : (s.ridge k).inline = l :: rest) :
    answers (.ridgeLineBoundary k m) s (fun t => (t.ridge k).inline = rest ∧
      t.rd (F.ridgeCnt_count 0) k = satAdd 32 (s.rd (F.ridgeCnt_count 0) k) 1) := by
  let u := s.setRidge k { s.ridge k with inline := rest }
  have hshown : SameIntake k u (u.showInline k) := (SameIntake.refl k u).showInline
  have hexec : exec (.ridgeLineBoundary k m) s = .next
      (((u.showInline k).takeInto k ((u.showInline k).inlineCtx k) l m).ridgeFlush k) := by
    rw [exec_ridgeLineBoundary, execRidgeLineBoundary, himage, if_neg Bool.false_ne_true,
      State.inspectBoundary_of_inline m hframes hinline, hshown.inlineCtx]
  obtain ⟨htaken, hcounted⟩ := (u.showInline k).takeInto_inline_shows k l m
  have hflush := (SameIntake.refl k ((u.showInline k).takeInto k ((u.showInline k).inlineCtx k) l m)).ridgeFlush
  refine ⟨_, hexec, ?_, ?_⟩
  · rw [hflush.inline, htaken, hshown.inline]
    exact congrArg Ridge.inline (State.ridge_setRidge_self ..)
  · rw [hflush.counted, hcounted, hshown.counted]
    rfl

end Sys2Proof.Machine
end

section
/-! SUPPORT. The kernel's line boundary (R255, R345): no operation of the Watermark reaches the kernels' dose lines; the
last clause of O19. -/

namespace Sys2Proof.Machine

variable {s s0 t : State} {k : Nat} {c : Prop} [Decidable c]

/-- The kernels of `t` hold what those of `s` hold. -/
structure SameKernels (s t : State) : Prop where
  kernels : t.kernels = s.kernels

namespace SameKernels

theorem refl (s : State) : SameKernels s s := ⟨rfl⟩

theorem same (h : SameKernels s0 s) (ht : t.kernels = s.kernels := by rfl) : SameKernels s0 t := ⟨ht.trans h.kernels⟩

theorem ite (ha : SameKernels s0 s) (hb : SameKernels s0 t) : SameKernels s0 (if c then s else t) := by
  split
  · exact ha
  · exact hb

/-- An operation made unless a condition holds. -/
theorem andUnless (h : SameKernels s0 s) (ht : SameKernels s0 s → SameKernels s0 t) :
    SameKernels s0 (if c then s else t) := .ite h (ht h)

theorem forAll {α : Type} {l : List α} {op : α → State → State} (h : SameKernels s0 s)
    (hop : ∀ x t, SameKernels t (op x t)) : SameKernels s0 (Machine.forAll l op s) :=
  h.same (forAll_view State.kernels (fun x t => (hop x t).kernels))

/-! ### What the Watermark reports (R335, R343, R351) -/

theorem event (h : SameKernels s0 s) (p w isl : Nat) : SameKernels s0 (s.event p w isl) := h.same (State.event_kernels ..)

theorem wr (h : SameKernels s0 s) (f : Fld) (i v : Nat) : SameKernels s0 (s.wr f i v) := h.same

theorem showResult (h : SameKernels s0 s) : SameKernels s0 s.showResult :=
  (((((((h.wr _ _ _).wr _ _ _).wr _ _ _).wr _ _ _).wr _ _ _).wr _ _ _).wr _ _ _).wr _ _ _

theorem mouldLook (h : SameKernels s0 s) : SameKernels s0 s.mouldLook := by
  unfold State.mouldLook
  refine .ite h.same (.ite h.same ?_)
  dsimp only
  split
  · refine .ite h.same ?_
    split
    · exact h.same
    · exact h.same
    · exact wr (h.andUnless (fun h => h.same)) _ _ _
  · exact .ite (.ite h.same (wr (h.andUnless (fun h => h.same)) _ _ _)) h.same

theorem postResult (h : SameKernels s0 s) (j : Job) (code cause ok bad : Nat) :
    SameKernels s0 (s.postResult j code cause ok bad) :=
  andUnless (event (showResult (.ite h.same h.same)) _ _ _) (fun h => h.event _ _ _)

theorem reapJob (h : SameKernels s0 s) (id : Nat) : SameKernels s0 (s.reapJob id) := by
  unfold State.reapJob
  split
  · exact h
  · exact h.andUnless (fun h => h.same)

theorem setJob (h : SameKernels s0 s) (j : Job) : SameKernels s0 (s.setJob j) := h.same

theorem bandReported (h : SameKernels s0 s) (id : Nat) (released : Bool) :
    SameKernels s0 (s.bandReported id released) := by
  unfold State.bandReported
  split
  · exact h
  · refine reapJob (andUnless (h.setJob _) (fun h => ?_)) _
    split
    · exact h
    · exact h.postResult _ _ _ _ _

theorem showSlotsUsed (h : SameKernels s0 s) : SameKernels s0 s.showSlotsUsed := .ite h.same h.same

theorem setWmBand (h : SameKernels s0 s) (b : WmBand) : SameKernels s0 (s.setWmBand b) := h.same

theorem dropWmBand (h : SameKernels s0 s) (b : WmBand) : SameKernels s0 (s.dropWmBand b) :=
  mouldLook (showSlotsUsed h.same)

theorem excessBand (h : SameKernels s0 s) (b : WmBand) : SameKernels s0 (s.excessBand b) :=
  dropWmBand (bandReported (wr h _ _ _) _ _) _

theorem wmPair (h : SameKernels s0 s) : SameKernels s0 s.wmPair := by
  unfold State.wmPair
  split
  · exact h
  · exact h.andUnless (fun h => forAll (.ite h.same h.same) (fun b t => (refl t).excessBand b))

end SameKernels

/-! ### A kernel line at the Watermark (R348, R350, R352) -/

/-- A kernel line added to its Ridge's part of its band, where the band is still held. -/
def State.wmAddPart (s : State) (k : Nat) (l : DoseLine) (y : Nat) (px : List Nat) : State :=
  match s.wm.bands.find? (fun x => x.inst == l.inst && x.band == y / 64) with
  | none => s
  | some b => s.setWmBand { b with parts := b.parts.set k (b.parts.getD k [] ++ [px]) }

namespace SameKernels

theorem wmAddPart (h : SameKernels s0 s) (k : Nat) (l : DoseLine) (y : Nat) (px : List Nat) :
    SameKernels s0 (s.wmAddPart k l y px) := by
  unfold State.wmAddPart
  split
  · exact h
  · exact h.setWmBand _

theorem wmLine (h : SameKernels s0 s) (k : Nat) (l : DoseLine) (y : Nat) (px : List Nat) :
    SameKernels s0 (s.wmLine k l y px) := by
  unfold State.wmLine
  split
  · exact h
  · next b _ =>
    have hpaired := (h.setWmBand { b with held := true }).showSlotsUsed.wmPair
    refine wmAddPart (andUnless h (fun h => ?_)) k l y px
    dsimp only
    split
    · refine .ite (.ite (hpaired.excessBand _) hpaired) (.ite (dropWmBand (.ite hpaired.same ?_) _) hpaired)
      exact bandReported hpaired.same _ _
    · exact hpaired.excessBand _

end SameKernels

/-! ### The kernel takes its line (R254, R255) -/

theorem State.kernel_congr (h : t.kernels = s.kernels) (k : Nat) : t.kernel k = s.kernel k := by
  unfold State.kernel
  rw [h]

@[simp] theorem State.kernel_setKernel_self (s : State) (k : Nat) (v : KernelCtx) : (s.setKernel k v).kernel k = v :=
  Sparse.get_set_self _ _ _ _

/-- The kernel's window with its next dose line (R345). -/
def State.kernelMoved (s : State) (k : Nat) (l : DoseLine) : State :=
  let c := s.kernel k
  let old := if l.y == 0 then [] else c.win
  s.setKernel k { c with
    win := (old ++ [l]).drop (old.length + 1 - 7)
    params := if l.y == 0 then (l.params.getD []).getD k [] else c.params }

theorem State.kernelStep_sameKernels (s : State) (k : Nat) (l : DoseLine) :
    SameKernels (s.kernelMoved k l) (s.kernelStep k l) :=
  (SameKernels.refl _).andUnless (fun h => (h.wr _ _ _).wmLine _ _ _ _)

/-- A kernel's line leaves the dose lines that wait alone (R345). -/
theorem State.queue_kernelStep (s : State) (k : Nat) (l : DoseLine) :
    ((s.kernelStep k l).kernel k).queue = (s.kernel k).queue := by
  rw [State.kernel_congr (s.kernelStep_sameKernels k l).kernels, State.kernelMoved, State.kernel_setKernel_self]

/-- A boundary in EXPOSE takes the next dose line (R255, R345). -/
theorem ridgeLineBoundary_takes_dose {k : Fin 6} {l : DoseLine} {rest : List DoseLine} (m : Bool)
    (himage : s.exposeImage = true) (hk : k.val < 4) (hqueue : (s.kernel k).queue = l :: rest) :
    answers (.ridgeLineBoundary k m) s (fun t => (t.kernel k).queue = rest) := by
  let u := s.setKernel k { s.kernel k with queue := rest }
  let w := (u.rotBoundary k).kernelStep k l
  have hexec : exec (.ridgeLineBoundary k m) s = .next (w.rotCompare k (w.doseStamp l) m) := by
    rw [exec_ridgeLineBoundary, execRidgeLineBoundary, himage, if_pos rfl, if_pos hk, State.kernelBoundary]
    simp only [hqueue]
    rfl
  have hcompare := ((SameIntake.refl k w).rotCompare (w.doseStamp l) m).kernels
  have hboundary := (SameIntake.refl k u).rotBoundary.kernels
  refine ⟨_, hexec, ?_⟩
  calc ((w.rotCompare k (w.doseStamp l) m).kernel k).queue
    _ = (w.kernel k).queue := congrArg KernelCtx.queue (State.kernel_congr hcompare k)
    _ = ((u.rotBoundary k).kernel k).queue := State.queue_kernelStep ..
    _ = (u.kernel k).queue := congrArg KernelCtx.queue (State.kernel_congr hboundary k)
    _ = rest := congrArg KernelCtx.queue (State.kernel_setKernel_self ..)

/-- Settles O19: each clause is one command at one Ridge. -/
theorem ridgesTakeLines : Obligations.RidgesTakeLines :=
  ⟨fun _ _ _ _ _ => ridgePortLineArrive_enters, fun _ _ _ => memPathBurst_counted,
    fun _ _ _ _ m => ridgeLineBoundary_takes_line m, fun _ _ _ _ m => ridgeLineBoundary_takes_dose m⟩

end Sys2Proof.Machine
end

section
/-! SUPPORT. The statistics unit (R319, R320): one lemma per clause of O22. -/

namespace Sys2Proof.Machine

variable {s t : State} {f : Fld} {i j : Nat}

/-! ### A block (R319) -/

/-- The oldest finished frame of a channel taken off, and its SEQ consumed (R319). -/
def State.statsTaken (s : State) (e : Nat × StatsCh) : State :=
  { s with stats.ready := s.stats.ready.erase e }.wr F.statsNextSeq_seq 0 (s.rd F.statsNextSeq_seq + 1)

theorem State.rd_statsTaken_seq (s : State) (e : Nat × StatsCh) :
    (s.statsTaken e).rd F.statsNextSeq_seq = (s.rd F.statsNextSeq_seq + 1) % 2 ^ 32 :=
  State.rd_wr_self _ _ _ _ (by decide)

theorem State.rd_statsTaken_count (s : State) (e : Nat × StatsCh) {c : Nat}
    (hc : F.statsNextSeq_seq.far 1 (F.statsCnt_count c) 1 = true) :
    (s.statsTaken e).rd (F.statsCnt_count c) = s.rd (F.statsCnt_count c) := State.rd_wr_far_00 hc

/-- A block in the FIFO, counted (R319). -/
def State.statsEntered (s : State) (item : OutItem) : State :=
  let s := s.count (F.statsCnt_count 0) 0 1
  { s with stats.fifo := s.stats.fifo ++ [item] }

theorem State.rd_statsEntered (s : State) (item : OutItem) (f : Fld) (i : Nat) :
    (s.statsEntered item).rd f i = (s.count (F.statsCnt_count 0) 0 1).rd f i := rfl

/-- The level shown, with HWM from 192 blocks on (R292). -/
def State.statsLevelled (s : State) : State :=
  (if 192 ≤ s.stats.fifo.length then s.up F.statsStat_hwm else s).showStats

theorem State.statsLevelled_stats (s : State) : s.statsLevelled.stats = s.stats := by
  unfold State.statsLevelled
  split <;> rfl

theorem sameRd.statsLevelled {s0 : State} {g : Fld} (h : sameRd g 0 s0 s) (hg : F.statsStat_hwm.far 1 g 1 = true) :
    sameRd g 0 s0 s.statsLevelled :=
  have hlevel : F.statsStat_level.misses 0 g 0 := Fld.misses.zero (f := F.statsStat_hwm) hg
  (h.andIf (fun h => h.up (.zero hg))).wr hlevel

/-- The block that a finished frame becomes, with where it goes (R317, R319). -/
def State.statsItem (s : State) (n : Nat) (e : Nat × StatsCh) : OutItem :=
  OutItem.mk (e.2.bytes n (s.rd F.statsNextSeq_seq) ((s.statsTaken e).rd F.headboxChCfg_depth n))
    (destRing ((s.statsTaken e).rd F.couchCtl_statsDest)) (destNet ((s.statsTaken e).rd F.couchCtl_statsDest))

theorem execStatsBlock_of_ready {n : Fin 48} {e : Nat × StatsCh}
    (hready : s.stats.ready.find? (fun e => e.1 == n.val) = some e) : execStatsBlock n s =
      .next (if 256 ≤ s.stats.fifo.length then (s.statsTaken e).count (F.statsCnt_count 1) 0 1
        else ((s.statsTaken e).statsEntered (s.statsItem n e)).statsLevelled) := by
  unfold execStatsBlock
  simp only [hready]
  exact (apply_ite ..).symm

/-- A block that finds room enters the FIFO and is counted. -/
theorem statsBlock_enters {n : Fin 48} {e : Nat × StatsCh}
    (hready : s.stats.ready.find? (fun e => e.1 == n.val) = some e) (hroom : s.stats.fifo.length < 256) :
    answers (.statsBlock n) s (fun t => t.stats.fifo.length = s.stats.fifo.length + 1 ∧
      t.stats.ready = s.stats.ready.erase e ∧ t.rd F.statsNextSeq_seq = (s.rd F.statsNextSeq_seq + 1) % 2 ^ 32 ∧
      t.rd (F.statsCnt_count 0) = satAdd 32 (s.rd (F.statsCnt_count 0)) 1) := by
  let u := (s.statsTaken e).statsEntered (s.statsItem n e)
  have hexec : exec (.statsBlock n) s = .next u.statsLevelled := by
    rw [exec_statsBlock, execStatsBlock_of_ready hready, if_neg (Nat.not_le.2 hroom)]
  have hseq : sameRd F.statsNextSeq_seq 0 (s.statsTaken e) u :=
    (State.rd_statsEntered ..).trans (State.rd_wr_far_00 (by decide))
  have hcount : u.rd (F.statsCnt_count 0) = satAdd 32 ((s.statsTaken e).rd (F.statsCnt_count 0)) 1 := by
    rw [State.rd_statsEntered, State.rd_count_self (by decide) (by decide)]
    rfl
  refine ⟨_, hexec, ?_, ?_, ?_, ?_⟩
  · rw [State.statsLevelled_stats]
    exact List.length_append
  · rw [State.statsLevelled_stats]
    rfl
  · exact Eq.trans (hseq.statsLevelled (by decide)) (s.rd_statsTaken_seq e)
  · rw [← s.rd_statsTaken_count e (by decide), ← hcount]
    exact sameRd.refl.statsLevelled (by decide)

/-- A block that finds the FIFO full is dropped and counted, and its SEQ is consumed. -/
theorem statsBlock_drops {n : Fin 48} {e : Nat × StatsCh}
    (hready : s.stats.ready.find? (fun e => e.1 == n.val) = some e) (hfull : 256 ≤ s.stats.fifo.length) :
    answers (.statsBlock n) s (fun t => t.stats.fifo = s.stats.fifo ∧
      t.rd F.statsNextSeq_seq = (s.rd F.statsNextSeq_seq + 1) % 2 ^ 32 ∧
      t.rd (F.statsCnt_count 1) = satAdd 32 (s.rd (F.statsCnt_count 1)) 1) := by
  have hexec : exec (.statsBlock n) s = .next ((s.statsTaken e).count (F.statsCnt_count 1) 0 1) := by
    rw [exec_statsBlock, execStatsBlock_of_ready hready, if_pos hfull]
  refine ⟨_, hexec, rfl, ?_, ?_⟩
  · exact Eq.trans (State.rd_wr_far_00 (by decide)) (s.rd_statsTaken_seq e)
  · rw [State.rd_count_self (by decide) (by decide), s.rd_statsTaken_count e (by decide)]
    rfl

/-! ### Arming (R320) -/

/-- A flag stays set at `j` when it is set at any `i`. -/
theorem State.flag_up_of_flag (hf : f.fits) (hw : 0 < f.width) (h : s.flag f j = true) : (s.up f i).flag f j = true := by
  by_cases haddr : f.addr j = f.addr i
  · have hself : (s.up f i).flag f i = true := State.flag_up_self hf hw
    rw [State.flag, State.rd] at hself ⊢
    rw [haddr]
    exact hself
  · rw [State.flag, State.up, State.rd_wr_ne _ _ _ _ _ _ haddr]
    exact h

/-- A flag set at each number of a list is set at its members. -/
theorem State.flag_forAll_up (hf : f.fits) (hw : 0 < f.width) {l : List Nat} (hj : j ∈ l ∨ s.flag f j = true) :
    (forAll l (fun n s => s.up f n) s).flag f j = true := by
  induction l generalizing s with
  | nil => exact hj.resolve_left List.not_mem_nil
  | cons n l ih =>
    refine ih (s := s.up f n) ?_
    rcases hj with hj | hj
    · rcases List.mem_cons.1 hj with rfl | hj
      · exact .inr (State.flag_up_self hf hw)
      · exact .inl hj
    · exact .inr (State.flag_up_of_flag hf hw hj)

/-- The consumer of a group arms each of the group's channels (R320). -/
theorem statsArm_arms {g : Fin 2} {n : Fin 48} (hmode : s.flag F.statsCtl_mode = true)
    (hgroup : s.rd F.statsChCtl_group n = g) :
    answers (.statsArm g) s (fun t => t.flag F.statsChCtl_armed n = true) := by
  have hmem : n.val ∈ (List.range 48).filter (fun n => s.rd F.statsChCtl_group n == g.val) :=
    List.mem_filter.2 ⟨List.mem_range.2 n.isLt, beq_iff_eq.2 hgroup⟩
  have harmed := State.flag_forAll_up (f := F.statsChCtl_armed) (s := s) (by decide) (by decide) (.inl hmem)
  rw [answers, exec_statsArm, execStatsArm, hmode]
  simp only [Bool.not_true, Bool.false_eq_true, if_false]
  split
  · exact ⟨_, rfl, harmed⟩
  · refine ⟨_, rfl, ?_⟩
    rw [State.overrun, State.flag_emit, State.count, State.flag, State.rd_wr_far_0fin (by decide)]
    exact harmed

/-- Settles O22: each clause is one command of the statistics unit. -/
theorem statisticsBlocks : Obligations.StatisticsBlocks :=
  ⟨fun _ _ _ => statsBlock_enters, fun _ _ _ => statsBlock_drops, fun _ _ _ => statsArm_arms⟩

end Sys2Proof.Machine
end

section
/-! SUPPORT. The Couch (R292 to R316): which operations leave its held groups, its queue, its progress and its counters
alone, each a chain that follows the operation's definition. -/

namespace Sys2Proof.Machine

variable {s s0 t : State} {f : Fld} {n k v : Nat} {c : Prop} [Decidable c]

/-- The counters that the Couch's intake, release and suppression advance (R317). -/
def couchCounters : List Fld :=
  [F.couchCnt_count Cc.itemsIn, F.couchCnt_count Cc.suppressed, F.couchCnt_count Cc.seamTimeout]

/-- Those and the SEQ of records (R308). -/
def couchFields : List Fld := F.couchNextSeq_seq :: couchCounters

/-- No register of the first `n` of the field is one of those. -/
def Fld.besideCouch (f : Fld) (n : Nat) : Bool := couchFields.all (fun g => f.far n g 1)

/-- `t` has the held groups, the classify queue, the ports' progress and the registers named above of `s`. -/
structure SameCouch (s t : State) : Prop where
  held : t.couch.held = s.couch.held
  queue : t.couch.queue = s.couch.queue
  progress : t.couch.progress = s.couch.progress
  regs : ∀ g ∈ couchFields, sameRd g 0 s t

/-- `t` has those of `s` but for the queue and the SEQ of records. -/
structure SameHeld (s t : State) : Prop where
  held : t.couch.held = s.couch.held
  progress : t.couch.progress = s.couch.progress
  regs : ∀ g ∈ couchCounters, sameRd g 0 s t

theorem State.rd_couchCount_self (s : State) (m v : Nat) :
    (s.couchCount m v).rd (F.couchCnt_count m) = satAdd 32 (s.rd (F.couchCnt_count m)) v :=
  State.rd_count_self (Nat.le_refl 32) (Nat.zero_lt_succ 31)

namespace SameCouch

theorem refl (s : State) : SameCouch s s := ⟨rfl, rfl, rfl, fun _ _ => .refl⟩

theorem trans (h : SameCouch s0 s) (k : SameCouch s t) : SameCouch s0 t :=
  ⟨k.held.trans h.held, k.queue.trans h.queue, k.progress.trans h.progress,
    fun g hg => (h.regs g hg).trans (k.regs g hg)⟩

theorem seq (h : SameCouch s t) : t.rd F.couchNextSeq_seq = s.rd F.couchNextSeq_seq := h.regs _ List.mem_cons_self

theorem toHeld (h : SameCouch s t) : SameHeld s t :=
  ⟨h.held, h.progress, fun g hg => h.regs g (List.mem_cons_of_mem _ hg)⟩

/-! ### Updates, branches and folds -/

theorem ite (ha : SameCouch s0 s) (hb : SameCouch s0 t) : SameCouch s0 (if c then s else t) := by
  split
  · exact ha
  · exact hb

theorem iteFst {α : Type} {p q : State × α} (hp : SameCouch s0 p.1) (hq : SameCouch s0 q.1) :
    SameCouch s0 (if c then p else q).1 := by
  split
  · exact hp
  · exact hq

/-- An operation made where a condition holds. -/
theorem andIf (h : SameCouch s0 s) (ht : SameCouch s0 s → SameCouch s0 t) :
    SameCouch s0 (if c then t else s) := .ite (ht h) h

theorem forN {op : Nat → State → State} (h : SameCouch s0 s)
    (hop : ∀ k t, k < n → SameCouch s0 t → SameCouch s0 (op k t)) : SameCouch s0 (Machine.forN n op s) :=
  List.foldlRecOn _ _ h (fun t ht k hk => hop k t (List.mem_range.1 hk) ht)

theorem same (h : SameCouch s0 s) (hheld : t.couch.held = s.couch.held := by rfl)
    (hqueue : t.couch.queue = s.couch.queue := by rfl) (hprogress : t.couch.progress = s.couch.progress := by rfl)
    (hregs : t.regs = s.regs := by rfl) : SameCouch s0 t :=
  h.trans ⟨hheld, hqueue, hprogress, fun _ _ => State.rd_congr hregs _ _⟩

theorem wr (h : SameCouch s0 s) (hk : k < n) (hf : f.besideCouch n = true := by decide) : SameCouch s0 (s.wr f k v) :=
  ⟨h.held, h.queue, h.progress,
    fun g hg => (h.regs g hg).wr (Fld.addr_ne (List.all_eq_true.1 hf g hg) hk Nat.one_pos)⟩

theorem up (h : SameCouch s0 s) (hk : k < n) (hf : f.besideCouch n = true := by decide) : SameCouch s0 (s.up f k) :=
  h.wr hk hf

theorem count (h : SameCouch s0 s) (hk : k < n) (hf : f.besideCouch n = true := by decide) :
    SameCouch s0 (s.count f k v) := h.wr hk hf

theorem couchCount (h : SameCouch s0 s) (m v : Nat) (hm : (F.couchCnt_count m).besideCouch 1 = true := by decide) :
    SameCouch s0 (s.couchCount m v) := h.wr Nat.one_pos hm

/-! ### Levels (R292) -/

theorem showCouch (h : SameCouch s0 s) : SameCouch s0 s.showCouch := by
  have hlevels : SameCouch s0 (((((s.wr F.couchLevels_seamUsed 0 s.couch.held.length).wr F.couchLevels_classQ 0
      s.couch.units).wr F.couchOutLevel_records 0 s.couch.records.length).wr F.couchOutLevel_crops 0
      (min 255 s.couch.crops.length)).wr F.couchOutLevel_cropsFull 0 (b2n (decide (256 ≤ s.couch.crops.length)))) :=
    ((((h.wr Nat.one_pos).wr Nat.one_pos).wr Nat.one_pos).wr Nat.one_pos).wr Nat.one_pos
  exact ((((hlevels.forN (fun _ _ hq h => h.wr hq)).andIf (fun h => h.up Nat.one_pos)).andIf
    (fun h => h.up Nat.one_pos)).andIf (fun h => h.up Nat.one_pos)).andIf (fun h => h.up Nat.one_pos)

/-! ### Crops (R312, R313) -/

theorem requestCrop (h : SameCouch s0 s) (u : UnitRec) (cls seq : Nat) :
    SameCouch s0 (s.requestCrop u cls seq).1 := by
  unfold State.requestCrop
  dsimp only
  exact .iteFst h (.iteFst (h.couchCount Cc.cropLost 1) (.iteFst (h.couchCount Cc.cropDrop 1)
    (couchCount h.same Cc.crops 1).showCouch))

/-! ### Marker units (R315, R316) -/

theorem setMarks (h : SameCouch s0 s) (hk : k < 4) (l : List MarkTarget) : SameCouch s0 (s.setMarks k l) :=
  (wr h.same hk).andIf (fun h => h.up Nat.one_pos)

theorem setSchedTarget (h : SameCouch s0 s) (hk : k < 8) (u : Int) : SameCouch s0 (s.setSchedTarget k u) :=
  (h.wr hk).wr hk

theorem armSched (h : SameCouch s0 s) (hk : k < 8) : SameCouch s0 (s.armSched k false) :=
  ((h.up (f := F.schedStat_armed) hk).up (f := F.schedCtl_enable) hk).same

theorem loadMark (h : SameCouch s0 s) (hk : k < 4) : SameCouch s0 (s.loadMark k) := by
  have hi : s.rd F.markCtl_sched k < 8 := State.rd_lt ..
  unfold State.loadMark
  dsimp only
  split
  · exact h
  · exact ((((((((h.wr hi).wr hi).wr hi).setSchedTarget hi _).armSched hi).andIf (fun h => h.count hk)).andIf
      (fun h => h.count hk)).setMarks hk _)

theorem markTarget (h : SameCouch s0 s) (hk : k < 4) (pos : Int) : SameCouch s0 (s.markTarget k pos).1 := by
  have hdenied : SameCouch s0 (s.up F.markCtl_markDenied k) := h.up hk
  exact .iteFst h (.iteFst (hdenied.count hk) (.iteFst (h.count hk) (.iteFst (h.count hk)
    ((h.setMarks hk _).andIf (fun h => h.loadMark hk)))))

/-! ### Records (R308 to R310) -/

theorem countIssued (h : SameCouch s0 s) (p : Nat) : SameCouch s0 (s.countIssued p) := couchCount h.same _ _

end SameCouch

/-- A record takes the SEQ, and the FIFO its bytes where it has room (R308). -/
theorem State.issueRecord_sameCouch (s : State) (body : Bytes) :
    SameCouch (s.wr F.couchNextSeq_seq 0 (s.rd F.couchNextSeq_seq + 1)) (s.issueRecord body) := by
  unfold State.issueRecord
  refine .ite ((SameCouch.refl _).couchCount Cc.recDrop 1) (SameCouch.showCouch ?_)
  exact (SameCouch.refl _).same

theorem State.rd_issueRecord_seq (s : State) (body : Bytes) :
    (s.issueRecord body).rd F.couchNextSeq_seq = (s.rd F.couchNextSeq_seq + 1) % 2 ^ 32 :=
  (s.issueRecord_sameCouch body).seq.trans (State.rd_wr_self _ _ _ _ (by decide))

/-- A unit whose class is sent issues its record after its crop and its targets, which leave what the Couch holds alone
(R307, R308, R312, R315). -/
theorem State.issueUnit_of_sent {ms : List Member} {m : Member} {seam : Nat} {v : Verdict}
    (hsend : s.flag F.couchClassAct_send v.cls = true) :
    ∃ u body, SameCouch s u ∧ s.issueUnit ms m seam v = u.issueRecord body := by
  have htimed (b : Bool) : SameCouch s (if b then s.couchCount Cc.timeNone 1 else s) :=
    (SameCouch.refl s).andIf (fun h => h.couchCount Cc.timeNone 1)
  unfold State.issueUnit
  simp only [hsend, Bool.not_true, Bool.false_eq_true, if_false]
  refine ⟨_, _, SameCouch.countIssued (List.foldlRecOn (motive := fun r : State × Bool => SameCouch s r.1) _ _
    ((htimed _).requestCrop _ _ _) (fun r hr k hk => ?_)) _, rfl⟩
  have hk4 : k < 4 := List.mem_range (n := 4).1 hk
  exact .iteFst (hr.markTarget hk4 _) hr

/-- A unit whose class is not sent is counted (R307). -/
theorem State.issueUnit_of_suppressed {ms : List Member} {m : Member} {seam : Nat} {v : Verdict}
    (hsend : s.flag F.couchClassAct_send v.cls = false) :
    s.issueUnit ms m seam v = s.couchCount Cc.suppressed 1 := by
  unfold State.issueUnit
  exact if_pos (by rw [hsend]; rfl)

namespace SameHeld

theorem refl (s : State) : SameHeld s s := (SameCouch.refl s).toHeld

theorem trans (h : SameHeld s0 s) (k : SameHeld s t) : SameHeld s0 t :=
  ⟨k.held.trans h.held, k.progress.trans h.progress, fun g hg => (h.regs g hg).trans (k.regs g hg)⟩

theorem couch (h : SameHeld s0 s) (ht : SameCouch s t) : SameHeld s0 t := h.trans ht.toHeld

theorem same (h : SameHeld s0 s) (hheld : t.couch.held = s.couch.held := by rfl)
    (hprogress : t.couch.progress = s.couch.progress := by rfl) (hregs : t.regs = s.regs := by rfl) : SameHeld s0 t :=
  h.trans ⟨hheld, hprogress, fun _ _ => State.rd_congr hregs _ _⟩

theorem issueRecord (h : SameHeld s0 s) (body : Bytes) : SameHeld s0 (s.issueRecord body) := by
  have hbeside : ∀ g ∈ couchCounters, F.couchNextSeq_seq.far 1 g 1 = true := by decide
  have hseq : SameHeld s (s.wr F.couchNextSeq_seq 0 (s.rd F.couchNextSeq_seq + 1)) :=
    ⟨rfl, rfl, fun g hg => State.rd_wr_far_00 (hbeside g hg)⟩
  exact (h.trans hseq).couch (s.issueRecord_sameCouch body)

theorem issueClose (h : SameHeld s0 s) (m : Marker) : SameHeld s0 (s.issueClose m) := issueRecord h.same _

end SameHeld

/-! ### The classify queue (R305, R306) -/

/-- The unit at the head gets its verdict, and the errors of the forest are counted (R305). -/
theorem State.classifyNext_unit {m : Member} {ms : List Member} {fl : Nat} {rest : List ClassEntry}
    (hqueue : s.couch.queue = .unit (m :: ms) fl none :: rest) (fuel : Nat) :
    ∃ v, SameCouch { s with couch.queue := .unit (m :: ms) fl (some v) :: rest } (s.classifyNext (fuel + 1)) := by
  unfold State.classifyNext
  simp only [hqueue]
  exact ⟨_, .ite (.refl _) (((SameCouch.refl _).couchCount _ _).up Nat.one_pos)⟩

theorem State.classifyNext_of_nil (hqueue : s.couch.queue = []) (fuel : Nat) : s.classifyNext fuel = s := by
  cases fuel with
  | zero => rfl
  | succ fuel =>
    unfold State.classifyNext
    simp only [hqueue]

namespace SameHeld

theorem classifyNext (h : SameHeld s0 s) (fuel : Nat) : SameHeld s0 (s.classifyNext fuel) := by
  induction fuel generalizing s with
  | zero => exact h
  | succ fuel ih =>
    unfold State.classifyNext
    split
    · exact ih (issueClose h.same _)
    · exact (same h).couch (.ite (.refl _) (((SameCouch.refl _).couchCount Cc.forestErr _).up Nat.one_pos))
    · exact h

theorem enqueueClass (h : SameHeld s0 s) (e : ClassEntry) : SameHeld s0 (s.enqueueClass e) :=
  (classifyNext h.same _).couch (SameCouch.refl _).showCouch

end SameHeld

end Sys2Proof.Machine
end

section
/-! SUPPORT. An item crosses to the Couch (R290, R292, R295): the Ridge's registers that the crossing writes, and the
seams that the item touches as before. -/

namespace Sys2Proof.Machine

variable {s s0 t : State} {f : Fld} {n k v : Nat} {c : Prop} [Decidable c] {w w' : Nat → Prop}

/-- `t` has the Couch and the clock of `s`, and its registers but for those at the addresses `w`. -/
structure SameBut (w : Nat → Prop) (s t : State) : Prop where
  couch : t.couch = s.couch
  clock : t.clock = s.clock
  regs : ∀ a, ¬ w a → t.reg a = s.reg a

/-- An address in the Ridges' pages, but not of RIDGE_STAT (R36). -/
def inRidges (a : Nat) : Prop := 0x600000 ≤ a ∧ a < 0x800000 ∧ a % 262144 ≠ 4

/-- An address that the intake of an item may write: a Ridge's, or that of ITEMS_IN. -/
def intakeWrites (a : Nat) : Prop := inRidges a ∨ a = (F.couchCnt_count Cc.itemsIn).addr 0

/-- The first `n` registers of the field stand in the Ridges' pages, behind RIDGE_STAT. -/
def Fld.behindStat (f : Fld) (n : Nat) : Bool :=
  f.ofRidges && decide (4 < f.pageFrom) && decide (f.last n < 0x800000)

theorem Fld.inRidges_addr (hf : f.behindStat n = true) (hk : k < n) : inRidges (f.addr k) := by
  simp only [Fld.behindStat, Bool.and_eq_true, decide_eq_true_eq] at hf
  obtain ⟨⟨hridges, hfrom⟩, hlast⟩ := hf
  have hpage := Fld.addr_mod_page hridges k
  simp only [Fld.ofRidges, Bool.and_eq_true, decide_eq_true_eq] at hridges
  obtain ⟨⟨⟨hbase, -⟩, hn2⟩, -⟩ := hridges
  have hle := Fld.addr_le_last hk hn2
  have hge := f.le_addr k
  unfold inRidges
  omega

/-- The FEATURE node is one of the 15 that a graph can have (R232). -/
theorem State.featureNode_lt (s : State) (k : Nat) : featureNode (s.graph k) < 16 := by
  have hnodes : s.rd F.ridgeStat_nodes k < 16 := State.rd_lt ..
  have hlength : (s.graph k).length = s.rd F.ridgeStat_nodes k := by
    simp only [State.graph, List.length_map, List.length_range]
  unfold featureNode
  cases hfind : (s.graph k).findIdx? (·.feat) with
  | none => decide
  | some i =>
    have hi := (List.findIdx?_eq_some_iff_findIdx_eq.1 hfind).1
    show i < 16
    omega

namespace SameBut

theorem refl (s : State) : SameBut w s s := ⟨rfl, rfl, fun _ _ => rfl⟩

theorem mono (h : SameBut w s t) (hw : ∀ a, w a → w' a) : SameBut w' s t :=
  ⟨h.couch, h.clock, fun a ha => h.regs a (fun hwa => ha (hw a hwa))⟩

theorem rd (h : SameBut w s t) (f : Fld) (k : Nat) (hf : ¬ w (f.addr k)) : t.rd f k = s.rd f k :=
  congrArg f.ofWord (h.regs _ hf)

theorem flag (h : SameBut w s t) (f : Fld) (k : Nat) (hf : ¬ w (f.addr k)) : t.flag f k = s.flag f k :=
  congrArg (· != 0) (h.rd f k hf)

theorem andIf (h : SameBut w s0 s) (ht : SameBut w s0 s → SameBut w s0 t) : SameBut w s0 (if c then t else s) := by
  split
  · exact ht h
  · exact h

theorem andUnless (h : SameBut w s0 s) (ht : SameBut w s0 s → SameBut w s0 t) :
    SameBut w s0 (if c then s else t) := by
  split
  · exact h
  · exact ht h

theorem same (h : SameBut w s0 s) (hcouch : t.couch = s.couch := by rfl) (hclock : t.clock = s.clock := by rfl)
    (hregs : t.regs = s.regs := by rfl) : SameBut w s0 t :=
  ⟨hcouch.trans h.couch, hclock.trans h.clock,
    fun a ha => (congrArg (Sparse.get resetWord · a) hregs).trans (h.regs a ha)⟩

theorem wr (h : SameBut w s0 s) (hw : w (f.addr k)) : SameBut w s0 (s.wr f k v) :=
  ⟨h.couch, h.clock, fun a ha => (State.reg_wr_ne (fun heq => ha (by rwa [heq]))).trans (h.regs a ha)⟩

/-! ### What crosses (R243, R290, R292) -/

theorem ridgeEvent (h : SameBut inRidges s0 s) (hk : k < 6) (hf : f.behindStat 6 = true) (gen : Nat) :
    SameBut inRidges s0 (s.ridgeEvent k f gen) :=
  (wr (v := 1) h (Fld.inRidges_addr hf hk)).andIf
    (fun h => h.same (State.event_couch ..) (State.event_clock ..) (State.event_regs ..))

theorem nodeCount (h : SameBut inRidges s0 s) (hk : k < 6) (hn : n < 16) {m : Nat}
    (hm : (F.ridgeNodeCnt_count m).behindStat 64 = true) : SameBut inRidges s0 (s.nodeCount k n m v) :=
  wr h (Fld.inRidges_addr hm (by unfold nodeAt; omega))

theorem sendOut (h : SameBut inRidges s0 s) (hk : k < 6) (hn : n < 16) (fuel : Nat) :
    SameBut inRidges s0 (s.sendOut k n fuel) := by
  induction fuel generalizing s with
  | zero => exact h
  | succ fuel ih =>
    unfold State.sendOut
    dsimp only
    split
    · exact h
    · refine h.andUnless (fun h => ih ?_)
      split
      · exact nodeCount h.same hk hn (by split <;> decide)
      · split
        · exact ridgeEvent (wr h.same (Fld.inRidges_addr (n := 6) (by decide) hk)) hk (by decide) _
        · exact ridgeEvent (wr h.same (Fld.inRidges_addr (n := 6) (by decide) hk)) hk (by decide) _

theorem showItems (h : SameBut inRidges s0 s) (hk : k < 6) (hn : n < 16) : SameBut inRidges s0 (s.showItems k n) := by
  have hnode : nodeAt k n < 64 := by unfold nodeAt; omega
  exact (h.wr (Fld.inRidges_addr (by decide) hnode)).andIf (fun h => h.wr (Fld.inRidges_addr (by decide) hnode))

theorem drainFifo (h : SameBut inRidges s0 s) (hk : k < 6) (hn : n < 16) : SameBut inRidges s0 (s.drainFifo k n) :=
  (h.sendOut hk hn _).showItems hk hn

theorem itemCounted (h : SameBut inRidges s0 s) : SameBut intakeWrites s0 (s.couchCount Cc.itemsIn 1) :=
  (h.mono (fun _ => Or.inl)).wr (.inr rfl)

/-! ### The seams that an item touches (R294, R295) -/

theorem portActive (h : SameBut intakeWrites s t) {p : Nat} (hp : p < 16) : t.portActive p = s.portActive p := by
  have hquad : t.rd F.laneQuadStat_role p = s.rd F.laneQuadStat_role p := h.rd _ _ (by
    simp only [intakeWrites, inRidges, Fld.addr, F.laneQuadStat_role, F.couchCnt_count, Cc.itemsIn]
    omega)
  have hsensors : t.rd F.headboxPortCtl_sensors p = s.rd F.headboxPortCtl_sensors p := h.rd _ _ (by
    simp only [intakeWrites, inRidges, Fld.addr, F.headboxPortCtl_sensors, F.couchCnt_count, Cc.itemsIn]
    omega)
  have hstate : t.rd F.ridgeStat_state (p / 2) = s.rd F.ridgeStat_state (p / 2) := h.rd _ _ (by
    simp only [intakeWrites, inRidges, Fld.addr, F.ridgeStat_state, F.couchCnt_count, Cc.itemsIn]
    omega)
  have hon : t.sensorOn p = s.sensorOn p := by
    funext j
    simp only [State.sensorOn, State.sensorPort, hquad, hsensors]
  simp only [State.portActive, State.portChannels, hstate, hon]

/-- A field of a seam is beside what the intake writes. -/
theorem seamRd (h : SameBut intakeWrites s t) {q : Nat} (hq : q < 11)
    (hf : f.base = 0x800200 ∧ f.s1 = 16 ∧ f.s2 = 0 ∧ f.n2 = 1 ∧ f.off < 16) : t.rd f q = s.rd f q := by
  obtain ⟨hbase, hs1, hs2, hn2, hoff⟩ := hf
  refine h.rd _ _ ?_
  simp only [intakeWrites, inRidges, Fld.addr, hbase, hs1, hs2, hn2, F.couchCnt_count, Cc.itemsIn]
  omega

theorem seamActive (h : SameBut intakeWrites s t) {q : Nat} (hq : q < 11) : t.seamActive q = s.seamActive q := by
  have hleft : s.rd F.seamCfg_left q < 16 := State.rd_lt ..
  have hright : s.rd F.seamCfg_right q < 16 := State.rd_lt ..
  simp only [State.seamActive, State.flag, h.seamRd hq (f := F.seamCfg_left) (by decide),
    h.seamRd hq (f := F.seamCfg_right) (by decide), h.seamRd hq (f := F.seamCfg_enable) (by decide),
    h.seamRd hq (f := F.seamZ0_z0) (by decide), h.seamRd hq (f := F.seamZ1_z1) (by decide), h.portActive hleft,
    h.portActive hright]

theorem mapped (h : SameBut intakeWrites s t) {p : Nat} (hp : p < 16) (i : Item) : t.mapped p i = s.mapped p i := by
  have hbase : t.rd F.couchPortXbase_xbase p = s.rd F.couchPortXbase_xbase p := h.rd _ _ (by
    simp only [intakeWrites, inRidges, Fld.addr, F.couchPortXbase_xbase, F.couchCnt_count, Cc.itemsIn]
    omega)
  have hmirror : t.flag F.couchPortMap_mirror p = s.flag F.couchPortMap_mirror p := h.flag _ _ (by
    simp only [intakeWrites, inRidges, Fld.addr, F.couchPortMap_mirror, F.couchCnt_count, Cc.itemsIn]
    omega)
  have hxpos (x : Int) : t.xpos p x = s.xpos p x := by
    unfold State.xpos State.xbase State.mirrored
    rw [hbase, hmirror]
  simp only [State.mapped, hxpos, h.clock]

/-- An item that touches no seam touches none once it is counted: a port above 15 is on no side of a seam, and nothing
that the mapping and the seams of the others read has changed. -/
theorem touchedSeams_nil (h : SameBut intakeWrites s t) {p : Nat} {i : Item}
    (hnone : s.touchedSeams (s.mapped p i) = []) : t.touchedSeams (t.mapped p i) = [] := by
  unfold State.touchedSeams at hnone ⊢
  rw [List.filter_eq_nil_iff] at hnone ⊢
  intro q hq
  have hq11 : q < 11 := List.mem_range.1 hq
  have hleft := h.seamRd hq11 (f := F.seamCfg_left) (by decide)
  have hright := h.seamRd hq11 (f := F.seamCfg_right) (by decide)
  by_cases hp : p < 16
  · rw [h.mapped hp, h.seamActive hq11, hleft, hright, h.seamRd hq11 (f := F.seamZ0_z0) (by decide),
      h.seamRd hq11 (f := F.seamZ1_z1) (by decide)]
    exact hnone q hq
  · have hl : s.rd F.seamCfg_left q < 16 := State.rd_lt ..
    have hr : s.rd F.seamCfg_right q < 16 := State.rd_lt ..
    have hport : (t.mapped p i).port = p := rfl
    have hlne : s.rd F.seamCfg_left q ≠ p := by omega
    have hrne : s.rd F.seamCfg_right q ≠ p := by omega
    simp only [hleft, hright, hport, beq_false_of_ne hlne, beq_false_of_ne hrne, Bool.or_self, Bool.and_false,
      Bool.false_and, Bool.false_eq_true, not_false_eq_true]

end SameBut

end Sys2Proof.Machine
end

section
/-! SUPPORT. The Couch's intake, seam table, classification and marker units (R292 to R315): one lemma per clause of
O21. -/

namespace Sys2Proof.Machine

variable {s : State}

/-! ### A marker is taken (R296) -/

theorem State.releaseGroup_progress (s : State) (g fl : Nat) :
    (s.releaseGroup g fl).couch.progress = s.couch.progress := by
  unfold State.releaseGroup
  dsimp only
  split
  · rfl
  · refine ((SameHeld.refl _).enqueueClass _).progress.trans ?_
    split <;> split <;> rfl

theorem State.releaseReady_progress (s : State) : s.releaseReady.couch.progress = s.couch.progress :=
  forAll_view (fun t => t.couch.progress) (fun g t => by
    split
    · exact t.releaseGroup_progress g 0
    · rfl)

theorem State.releaseDrained_progress (s : State) : s.releaseDrained.couch.progress = s.couch.progress :=
  forAll_view (fun t => t.couch.progress) (fun g t => by
    dsimp only
    split
    · exact t.releaseGroup_progress g Rf.drain
    · rfl)

/-- A marker brings its port's progress, and the groups that leave for it keep it (R296). -/
theorem State.takeMarker_progress (s : State) (k : Nat) (m : Marker) :
    Sparse.get (fun _ => none) (s.takeMarker k m).couch.progress m.port = some m.last := by
  have hset : Sparse.get (fun _ => none) (Sparse.set (fun _ => none) s.couch.progress m.port (some m.last)) m.port =
      some m.last := Sparse.get_set_self ..
  unfold State.takeMarker
  rw [((SameCouch.refl _).showCouch).progress, State.releaseDrained_progress, State.releaseReady_progress,
    ((SameHeld.refl _).enqueueClass _).progress]
  split <;> exact hset

/-- The marker at the head of a Ridge's intake brings its port's progress. -/
theorem couchIntake_takes_marker {k : Fin 6} {m : Marker} {rest : List RidgeOut}
    (hintake : (s.ridge k).intake = .marker m :: rest) : answers (.couchIntake k) s (fun t =>
      Sparse.get (fun _ => none) t.couch.progress m.port = some m.last) := by
  let u := s.setRidge k { s.ridge k with intake := rest }
  have hexec : exec (.couchIntake k) s =
      .next ((u.takeMarker k m).drainFifo k (featureNode (u.graph k))) := by
    rw [exec_couchIntake, execCouchIntake]
    simp only [hintake]
    rfl
  have hdrained := ((SameBut.refl (u.takeMarker k m)).drainFifo k.isLt (u.featureNode_lt k)).couch
  exact ⟨_, hexec, (congrArg (fun c : Couch => Sparse.get (fun _ => none) c.progress m.port) hdrained).trans
    (u.takeMarker_progress k m)⟩

/-! ### An item is taken (R292, R295) -/

/-- A unit that enters the empty queue begins its evaluation there (R305). -/
theorem State.queue_enqueueClass_unit {m : Member} {ms : List Member} (hqueue : s.couch.queue = []) (fl : Nat) :
    ∃ v, (s.enqueueClass (.unit (m :: ms) fl none)).couch.queue = [.unit (m :: ms) fl (some v)] := by
  let u : State := { s with couch.queue := s.couch.queue ++ [.unit (m :: ms) fl none] }
  have hhead : u.couch.queue = .unit (m :: ms) fl none :: [] := by
    show s.couch.queue ++ _ = _
    rw [hqueue, List.nil_append]
  obtain ⟨v, hv⟩ := u.classifyNext_unit hhead u.couch.queue.length
  exact ⟨v, hv.showCouch.queue⟩

/-- The item at the head of a Ridge's intake taken off, what waits behind it crossed, and the item counted (R290,
R292). -/
def State.itemTaken (s : State) (k : Nat) (rest : List RidgeOut) : State :=
  let u := s.setRidge k { s.ridge k with intake := rest }
  (u.drainFifo k (featureNode (u.graph k))).couchCount Cc.itemsIn 1

theorem State.itemTaken_sameBut (s : State) (k : Fin 6) (rest : List RidgeOut) :
    SameBut intakeWrites s (s.itemTaken k rest) :=
  ((SameBut.refl s).same.drainFifo k.isLt (State.featureNode_lt ..)).itemCounted

theorem State.rd_itemTaken (s : State) (k : Fin 6) (rest : List RidgeOut) :
    (s.itemTaken k rest).rd (F.couchCnt_count Cc.itemsIn) = satAdd 32 (s.rd (F.couchCnt_count Cc.itemsIn)) 1 := by
  let u := s.setRidge k { s.ridge k with intake := rest }
  have hdrained : SameBut inRidges u (u.drainFifo k (featureNode (u.graph k))) :=
    (SameBut.refl u).drainFifo k.isLt (State.featureNode_lt ..)
  have hcount := hdrained.rd (F.couchCnt_count Cc.itemsIn) 0 (by
    simp only [inRidges, Fld.addr, F.couchCnt_count, Cc.itemsIn]
    omega)
  exact (State.rd_couchCount_self ..).trans (congrArg (satAdd 32 · 1) hcount)

/-- An item that touches no seam is counted and queued. -/
theorem couchIntake_queues_item {k : Fin 6} {i : Item} {rest : List RidgeOut}
    (hintake : (s.ridge k).intake = .item i :: rest) (hroom : s.couch.units < 1024) (hitem : bit i.flags 5 = false)
    (hseams : s.touchedSeams (s.mapped (ridgePort k i.portSel) i) = []) (hqueue : s.couch.queue = []) :
    answers (.couchIntake k) s (fun t =>
      t.rd (F.couchCnt_count Cc.itemsIn) = satAdd 32 (s.rd (F.couchCnt_count Cc.itemsIn)) 1 ∧ t.couch.units = 1) := by
  let u := s.itemTaken k rest
  have htaken := s.itemTaken_sameBut k rest
  have hnone : u.touchedSeams (u.mapped (ridgePort k i.portSel) i) = [] := htaken.touchedSeams_nil hseams
  have hexec : exec (.couchIntake k) s =
      .next (u.enqueueClass (.unit [u.mapped (ridgePort k i.portSel) i] 0 none)) := by
    rw [exec_couchIntake, execCouchIntake]
    simp only [hintake, Nat.not_le.2 hroom, if_false, hitem, Bool.false_eq_true]
    exact if_pos (List.isEmpty_iff.2 hnone)
  have hempty : u.couch.queue = [] := (congrArg Couch.queue htaken.couch).trans hqueue
  obtain ⟨v, hv⟩ := u.queue_enqueueClass_unit (m := u.mapped (ridgePort k i.portSel) i) (ms := []) hempty 0
  have hkept := (SameHeld.refl u).enqueueClass (.unit [u.mapped (ridgePort k i.portSel) i] 0 none)
  refine ⟨_, hexec, ?_, ?_⟩
  · exact Eq.trans (hkept.regs (F.couchCnt_count Cc.itemsIn) (by decide)) (s.rd_itemTaken k rest)
  · rw [Couch.units, hv]
    rfl

/-! ### A group leaves after WAIT_MS (R299) -/

/-- The only group of the seam table, of one member, leaves it. -/
theorem State.releaseGroup_only {m : Member} (hheld : s.couch.held = [m]) : s.releaseGroup m.group Rf.seamTimeout =
    ({ s with couch.held := [] }.couchCount Cc.seamTimeout 1).enqueueClass (.unit [m] Rf.seamTimeout none) := by
  unfold State.releaseGroup
  simp [hheld]

theorem seamWaitTimeout_releases {p : Fin 12} {seq : Word} {m : Member} (hheld : s.couch.held = [m])
    (hport : m.port = p) (hseq : m.item.seq = seq.toNat)
    (hwaited : m.entered + max 1 (s.rd F.couchSeamCtl_waitMs) * 250000 ≤ s.clock) :
    answers (.seamWaitTimeout p seq) s (fun t => t.couch.held = [] ∧
      t.rd (F.couchCnt_count Cc.seamTimeout) = satAdd 32 (s.rd (F.couchCnt_count Cc.seamTimeout)) 1) := by
  have hexec : exec (.seamWaitTimeout p seq) s = .next (s.releaseGroup m.group Rf.seamTimeout).showCouch := by
    rw [exec_seamWaitTimeout, execSeamWaitTimeout]
    simp [hheld, hport, hseq, Nat.not_lt.2 hwaited]
  let u := { s with couch.held := [] }.couchCount Cc.seamTimeout 1
  have hleft : SameHeld u (s.releaseGroup m.group Rf.seamTimeout).showCouch := by
    rw [State.releaseGroup_only hheld]
    exact ((SameHeld.refl u).enqueueClass _).couch (SameCouch.refl _).showCouch
  have hcount : u.rd (F.couchCnt_count Cc.seamTimeout) = satAdd 32 (s.rd (F.couchCnt_count Cc.seamTimeout)) 1 :=
    State.rd_couchCount_self ..
  exact ⟨_, hexec, hleft.held, Eq.trans (hleft.regs (F.couchCnt_count Cc.seamTimeout) (by decide)) hcount⟩

/-! ### A unit is classified (R305 to R308) -/

/-- With nothing behind it in the queue, a classified unit is issued, and the queue is empty. -/
theorem execClassifyDone_of_last {m : Member} {ms : List Member} {fl : Nat} {v : Verdict}
    (hqueue : s.couch.queue = [.unit (m :: ms) fl (some v)])
    (hissued : (State.issueUnit { s with couch.queue := [] } ms m fl v).couch.queue = []) :
    exec .classifyDone s = .next (State.issueUnit { s with couch.queue := [] } ms m fl v).showCouch := by
  rw [exec_classifyDone, execClassifyDone]
  simp only [hqueue]
  rw [State.classifyNext_of_nil hissued]

theorem classifyDone_issues {m : Member} {ms : List Member} {fl : Nat} {v : Verdict}
    (hqueue : s.couch.queue = [.unit (m :: ms) fl (some v)]) (hsend : s.flag F.couchClassAct_send v.cls = true) :
    answers .classifyDone s (fun t => t.couch.queue = [] ∧
      t.rd F.couchNextSeq_seq = (s.rd F.couchNextSeq_seq + 1) % 2 ^ 32) := by
  obtain ⟨u, body, hu, hissue⟩ :=
    State.issueUnit_of_sent (s := { s with couch.queue := [] }) (ms := ms) (m := m) (seam := fl) hsend
  have hempty : (u.issueRecord body).couch.queue = [] := (u.issueRecord_sameCouch body).queue.trans hu.queue
  have hseq : (u.issueRecord body).rd F.couchNextSeq_seq = (s.rd F.couchNextSeq_seq + 1) % 2 ^ 32 := by
    rw [State.rd_issueRecord_seq, hu.seq]
    rfl
  have hshown := (SameCouch.refl (u.issueRecord body)).showCouch
  rw [← hissue] at hempty hseq hshown
  exact ⟨_, execClassifyDone_of_last hqueue hempty, hshown.queue.trans hempty, hshown.seq.trans hseq⟩

theorem classifyDone_suppresses {m : Member} {ms : List Member} {fl : Nat} {v : Verdict}
    (hqueue : s.couch.queue = [.unit (m :: ms) fl (some v)]) (hsend : s.flag F.couchClassAct_send v.cls = false) :
    answers .classifyDone s (fun t => t.couch.queue = [] ∧ t.rd F.couchNextSeq_seq = s.rd F.couchNextSeq_seq ∧
      t.rd (F.couchCnt_count Cc.suppressed) = satAdd 32 (s.rd (F.couchCnt_count Cc.suppressed)) 1) := by
  let u := { s with couch.queue := [] }.couchCount Cc.suppressed 1
  have hissue : State.issueUnit { s with couch.queue := [] } ms m fl v = u := State.issueUnit_of_suppressed hsend
  have hshown := (SameCouch.refl u).showCouch
  have hseq : u.rd F.couchNextSeq_seq = s.rd F.couchNextSeq_seq := State.rd_wr_far_00 (by decide)
  have hcount : u.rd (F.couchCnt_count Cc.suppressed) = satAdd 32 (s.rd (F.couchCnt_count Cc.suppressed)) 1 :=
    State.rd_couchCount_self ..
  have hexec : exec .classifyDone s = .next u.showCouch := by
    rw [execClassifyDone_of_last hqueue (by rw [hissue]; rfl), hissue]
  exact ⟨_, hexec, hshown.queue, hshown.seq.trans hseq,
    Eq.trans (hshown.regs (F.couchCnt_count Cc.suppressed) (by decide)) hcount⟩

/-! ### A target fires (R315) -/

theorem State.marks_setMarks_self (s : State) (u : Nat) (l : List MarkTarget) : (s.setMarks u l).marks u = l := by
  have hset : Sparse.get (fun _ => []) (Sparse.set (fun _ => []) s.couch.marks u l) u = l := Sparse.get_set_self ..
  unfold State.setMarks State.marks
  dsimp only
  split <;> exact hset

/-- The first target of a unit is loaded, and armed (R315). -/
theorem State.marks_loadMark {u : Nat} {b : MarkTarget} {rest : List MarkTarget} (hmarks : s.marks u = b :: rest) :
    (s.loadMark u).marks u = { b with armed := true } :: rest := by
  unfold State.loadMark
  simp only [hmarks]
  exact State.marks_setMarks_self ..

theorem markerFireSeen_loads {u : Fin 4} {a b : MarkTarget} {rest : List MarkTarget}
    (hmarks : s.marks u = a :: b :: rest) (harmed : a.armed = true) :
    answers (.markerFireSeen u) s (fun t => t.marks u = { b with armed := true } :: rest) := by
  have hexec : exec (.markerFireSeen u) s = .next ((s.setMarks u (b :: rest)).loadMark u) := by
    rw [exec_markerFireSeen, execMarkerFireSeen]
    simp only [hmarks, harmed, if_true]
  exact ⟨_, hexec, State.marks_loadMark (State.marks_setMarks_self ..)⟩

/-- Settles O21: each clause is one command at the Couch. -/
theorem couchTakesItems : Obligations.CouchTakesItems :=
  ⟨fun _ _ _ _ => couchIntake_takes_marker, fun _ _ _ _ => couchIntake_queues_item,
    fun _ _ _ _ => seamWaitTimeout_releases, fun _ _ _ _ _ => classifyDone_issues,
    fun _ _ _ _ _ => classifyDone_suppresses, fun _ _ _ _ _ => markerFireSeen_loads⟩

end Sys2Proof.Machine
end

section
/-! SUPPORT. What every command leaves alone among the stores (R429, R430, R516, R536, R540), and what every step keeps:
the queue behind its front, the model's clock while a command runs (log 1 and 72, DESIGN CHOICE), blown fuses. -/

namespace Sys2Proof.Machine

variable {c : Instr} {s t : State}

/-! ### Stores that a command does not name -/

/-- Settles O48: a command that does not store leaves HBM, so every byte of it. -/
theorem onlyStoresTouchHbm : Obligations.OnlyStoresTouchHbm := by
  intro c s t h hc
  have hhbm : t.hbm = s.hbm := ((exec_keeps c s).keeps t h).sameHbm hc
  exact ⟨hhbm, fun a => congrArg (Sparse.get hbmUnlisted · a) hhbm⟩

theorem exec_keeps_flash (h : exec c s = .next t) (hc : c.writesFlash = false) : t.flash = s.flash :=
  ((exec_keeps c s).keeps t h).sameFlash hc

/-- Settles O49: a command that does not name a store leaves it. -/
theorem flashKeysAndFusesFrame : Obligations.FlashKeysAndFusesFrame :=
  ⟨fun _ _ _ h hc => ⟨exec_keeps_flash h hc, fun a => congrArg (Sparse.get flashErased · a) (exec_keeps_flash h hc)⟩,
    fun c s t h hc => ((exec_keeps c s).keeps t h).sameKeys hc,
    fun c s t h hc => ((exec_keeps c s).keeps t h).sameFuses hc⟩

/-! ### Every step -/

/-- What a step can do: on an empty queue a tick passes, and a command runs with the queue's rest. Either keeps the
stores it does not name. -/
theorem step_cases (h : step s = .next t) :
    (s.pending = [] ∧ Keeps {} { s with clock := s.clock + 1 } t) ∨
      ∃ c rest, s.pending = c :: rest ∧ Keeps c.touch { s with pending := rest } t := by
  unfold step at h
  split at h
  · next hq =>
    cases h
    exact .inl ⟨hq, s.tickAll_keeps⟩
  · next c rest hq => exact .inr ⟨c, rest, hq, (exec_keeps c { s with pending := rest }).keeps t h⟩

theorem step_keeps_fuses (h : step s = .next t) : Fuses.kept s.fuses t.fuses := by
  obtain ⟨-, hk⟩ | ⟨_, _, -, hk⟩ := step_cases h <;> exact hk.fuses

theorem step_takes_the_front (h : step s = .next t) : t.pending = s.pending.tail := by
  obtain ⟨hq, hk⟩ | ⟨_, _, hq, hk⟩ := step_cases h <;> rw [hk.pending, hq] <;> rfl

theorem step_clock (h : step s = .next t) : t.clock = if s.pending = [] then s.clock + 1 else s.clock := by
  obtain ⟨hq, hk⟩ | ⟨_, _, hq, hk⟩ := step_cases h <;> rw [hk.clock, hq]
  · exact (if_pos rfl).symm
  · exact (if_neg (List.cons_ne_nil _ _)).symm

/-- Settles O47: a step is a tick or the front command, and each keeps the fuses, the queue and the clock it is given
(log 1 and 72). -/
theorem everyStepKeepsFusesAndQueue : Obligations.EveryStepKeepsFusesAndQueue :=
  ⟨fun _ _ => step_keeps_fuses, fun _ _ => step_takes_the_front, fun _ _ => step_clock⟩

end Sys2Proof.Machine
end

section
/-! SUPPORT. Registers read past writes whose fields are named: what a discharger decides of two fields. -/

namespace Sys2Proof.Machine

variable {s : State} {f g : Fld} {v : Nat}

/-! ### Fields beside a write -/

/-- Of two fields of single registers, or of other bits. -/
theorem State.rd_wr_beside (h : f.clearOf 1 g 1 = true) : (s.wr f 0 v).rd g 0 = s.rd g 0 :=
  State.rd_wr_clearOf h Nat.one_pos Nat.one_pos

theorem State.rd_wr_beside_fin {n m : Nat} {i : Fin n} {j : Fin m} (h : f.clearOf n g m = true) :
    (s.wr f i v).rd g j = s.rd g j := State.rd_wr_clearOf h i.isLt j.isLt

theorem State.rd_wr_beside_fin0 {n : Nat} {i : Fin n} (h : f.clearOf n g 1 = true) :
    (s.wr f i v).rd g 0 = s.rd g 0 := State.rd_wr_clearOf h i.isLt Nat.one_pos

theorem State.rd_wr_beside_0fin {m : Nat} {j : Fin m} (h : f.clearOf 1 g m = true) :
    (s.wr f 0 v).rd g j = s.rd g j := State.rd_wr_clearOf h Nat.one_pos j.isLt

/-- A value that fits reads back as written. -/
theorem State.rd_wr_fits {i : Nat} (hf : f.fits) (hv : v < 2 ^ f.width) : (s.wr f i v).rd f i = v := by
  rw [State.rd_wr_self _ _ _ _ hf, Nat.mod_eq_of_lt hv]

/-- A field that is the whole register. -/
theorem Fld.ofWord_whole {w : Word} (hlo : f.lo = 0) (hwidth : f.width = 32) : f.ofWord w = w.toNat := by
  rw [Fld.ofWord, bits, hlo, hwidth, Nat.pow_zero, Nat.div_one, Nat.mod_eq_of_lt w.isLt]

/-- A bit set in a field reads 1. -/
theorem State.bit_wr_or {i b : Nat} (hf : f.fits) (hb : b < f.width) :
    bit ((s.wr f i (s.rd f i ||| 2 ^ b)).rd f i) b = true := by
  rw [State.rd_wr_fits hf (Nat.or_lt_two_pow (s.rd_lt f i) (Nat.pow_lt_pow_right (by decide) hb))]
  exact bit_or_self _ _

end Sys2Proof.Machine
end

section
/-! SUPPORT. Cairn's routing (R481, R483, R488, R489) and the pending bits of masked vectors (R479; log 16, PRESUMED):
one lemma per clause of O5. -/

namespace Sys2Proof.Machine

variable {s : State}

/-! ### Events routed (R481) -/

theorem State.cairnEnabled_emit (s : State) (o : Output) (p c : Nat) :
    (s.emit o).cairnEnabled p c = s.cairnEnabled p c := by
  unfold State.cairnEnabled
  rw [State.rd_emit]

/-- One event activates a consumer enabled for its producer. -/
theorem State.cairnActivate_enabled {e : CairnEvt} {c : Nat} (h : s.cairnEnabled e.producer c = true) :
    s.cairnActivate [e] c = s.emit (.activation c e.gen e.isl.toNat) := by
  simp [State.cairnActivate, h]

theorem State.cairnActivate_disabled {e : CairnEvt} {c : Nat} (h : s.cairnEnabled e.producer c = false) :
    s.cairnActivate [e] c = s := by
  simp [State.cairnActivate, h]

/-- One event over a list of consumers activates those enabled for its producer, in order. -/
theorem State.out_cairnActivate_forAll (s : State) (e : CairnEvt) (l : List Nat) :
    (forAll l (fun c s => s.cairnActivate [e] c) s).out =
      s.out ++ (l.filter (s.cairnEnabled e.producer)).map (fun c => .activation c e.gen e.isl.toNat) := by
  induction l generalizing s with
  | nil => exact (List.append_nil _).symm
  | cons d l ih =>
    refine (ih (s.cairnActivate [e] d)).trans ?_
    cases hd : s.cairnEnabled e.producer d with
    | false => rw [State.cairnActivate_disabled hd, List.filter_cons_of_neg (by simp [hd])]
    | true =>
      have hsame : (s.emit (.activation d e.gen e.isl.toNat)).cairnEnabled e.producer = s.cairnEnabled e.producer :=
        funext (s.cairnEnabled_emit _ _)
      rw [State.cairnActivate_enabled hd, hsame, State.emit_out rfl, List.filter_cons_of_pos hd, List.map_cons,
        List.append_assoc]
      rfl

theorem cairnEvent_activates {e : CairnEvt} {c : Nat} (hgen : e.gen.val < 8) (hc : c < 160)
    (hassigned : consumerAssigned c = true) (hen : s.cairnEnabled e.producer c = true) :
    answers (.cairnEvent [e]) s (fun t => Output.activation c e.gen e.isl.toNat ∈ t.out) := by
  have hloop : [e].filter (fun e => e.gen.val == 8) = [] := List.filter_eq_nil_iff.2 (by simp; omega)
  have hrouted : [e].filter (fun e => e.gen.val < 8) = [e] := by simp [hgen]
  refine ⟨_, rfl, ?_⟩
  dsimp only
  rw [hloop, hrouted, State.out_cairnActivate_forAll]
  exact List.mem_append_right _ (List.mem_map_of_mem
    (List.mem_filter.2 ⟨List.mem_filter.2 ⟨List.mem_range.2 hc, hassigned⟩, hen⟩))

/-! ### Overruns reported (R488) -/

/-- The overrun bits stand above CAIRN_STAT and CAIRN_OVR_LAST. -/
theorem State.rd_cairnOvr_wr {f : Fld} {k v : Nat} (h : f.addr 0 < 0x1300020) :
    (s.wr f 0 v).rd (F.cairnOvr_ovr k) = s.rd (F.cairnOvr_ovr k) := by
  refine State.rd_wr_ne _ _ _ _ _ _ (Nat.ne_of_gt (Nat.lt_of_lt_of_le h ?_))
  simp only [Fld.addr, F.cairnOvr_ovr]
  omega

theorem cairnOverrunReport_shows (c : Fin 160) (isl : BitVec 8) : answers (.cairnOverrunReport c isl) s (fun t =>
    t.flag F.cairnStat_ovrAny = true ∧ t.rd F.cairnOvrLast_consumer = c ∧ t.rd F.cairnOvrLast_isl = isl.toNat ∧
    bit (t.rd (F.cairnOvr_ovr (c / 32))) (c % 32) = true) := by
  refine ⟨_, rfl, ?_, ?_, ?_, ?_⟩
  · simp (disch := decide) only [State.count, State.up, State.flag, State.rd_wr_beside, State.rd_wr_self]
    rfl
  · simp (disch := decide) only [State.count, State.rd_wr_beside, State.rd_wr_self]
    exact Nat.mod_eq_of_lt (Nat.lt_trans c.isLt (by decide))
  · simp (disch := decide) only [State.count, State.rd_wr_beside, State.rd_wr_self]
    exact Nat.mod_eq_of_lt isl.isLt
  · rw [State.count, State.rd_cairnOvr_wr (by decide), State.rd_cairnOvr_wr (by decide),
      State.rd_cairnOvr_wr (by decide), State.up, State.rd_cairnOvr_wr (by decide)]
    exact State.bit_wr_or (show 0 + 32 ≤ 32 by decide) (Nat.mod_lt _ (show 0 < 32 by decide))

/-! ### Columns written (R489) -/

theorem cairnEnableWrite_writes {d : Fin 16} {secure : Bool} {c : Fin 160} {w : Fin 8} {v : Word} (hw : w.val < 7)
    (hd : d.val ≠ 0) (hdomain : s.rd F.cairnMatrix_word (8 * c + 7) % 16 = d)
    (hsecure : bit (s.rd F.cairnMatrix_word (8 * c + 7)) 4 = secure) :
    answers (.cairnEnableWrite d secure c w v) s (fun t => t.rd F.cairnMatrix_word (8 * c + w) = v.toNat) := by
  have hne : w.val ≠ 7 := Nat.ne_of_lt hw
  have hwrites : s.cairnWrite d secure c w v = s.setReg (F.cairnMatrix_word.addr (8 * c + w)) v := by
    simp [State.cairnWrite, hne, hdomain, hsecure, hd]
  refine ⟨_, rfl, ?_⟩
  rw [hwrites]
  exact (State.rd_setReg_self ..).trans (Fld.ofWord_whole rfl rfl)

/-! ### Interrupts (R479, R483) -/

/-- A masked vector sets its pending bit (log 16). -/
theorem State.irq_of_masked {v : Nat} (h : s.msix v 3 % 2 = 1) :
    s.irq v = s.wr F.msixPba_pending (v / 32) (s.rd F.msixPba_pending (v / 32) ||| 2 ^ (v % 32)) := by
  simp [State.irq, h]

theorem cairnIrqConsumer_pends {i : Fin 8} (hmasked : s.msix (40 + i) 3 % 2 = 1) :
    answers (.cairnIrqConsumer ⟨144 + i, by omega⟩) s (fun t => bit (t.rd F.msixPba_pending 1) (8 + i) = true) := by
  have hvector : 40 + (144 + i.val - 144) = 40 + i.val := by omega
  have hword : (40 + i.val) / 32 = 1 := by omega
  have hbit : (40 + i.val) % 32 = 8 + i.val := by omega
  have hinput : (decide (144 ≤ 144 + i.val) && decide (144 + i.val < 152)) = true := by simp; omega
  rw [answers, exec_cairnIrqConsumer, execCairnIrqConsumer]
  simp only [hinput, hvector, hword, hbit, if_true]
  split
  · next hpending => exact ⟨s, rfl, hpending⟩
  · refine ⟨_, rfl, ?_⟩
    rw [State.irq_of_masked hmasked, hword, hbit]
    exact State.bit_wr_or (by decide) (show 8 + i.val < 32 by omega)

/-- Settles O5: each clause is one command at Cairn. -/
theorem cairnRoutes : Obligations.CairnRoutes :=
  ⟨fun _ _ _ => cairnEvent_activates, fun _ => cairnOverrunReport_shows, fun _ _ _ _ _ _ => cairnEnableWrite_writes,
    fun _ _ => cairnIrqConsumer_pends⟩

end Sys2Proof.Machine
end

section
/-! SUPPORT. EVIO pins and the event log (R493, R494, R545): one lemma per clause of O6. -/

namespace Sys2Proof.Machine

variable {s : State} {p : Fin 32}

/-! ### EVIO pins (R493, R494) -/

theorem evioInputEdge_rises (hfunc : (s.evioFn p).func = 0x01) (hlow : s.flag F.cairnEvioIn_level p = false)
    (hedge : s.rd F.cairnEvioIn_edge p = 0) : answers (.evioInputEdge p true) s (fun t =>
      t.flag F.cairnEvioIn_level p = true ∧ Output.cairn (192 + p) 0 0x05 ∈ t.out) := by
  let u := s.wr F.cairnEvioIn_level p (b2n true)
  have hkept : u.rd F.cairnEvioIn_edge p = 0 := (State.rd_wr_beside_fin (by decide)).trans hedge
  have hexec : exec (.evioInputEdge p true) s = .next (u.event (192 + p) 0 0x05) := by
    rw [exec_evioInputEdge, execEvioInputEdge]
    exact (if_neg (by simp [hfunc, hlow])).trans (if_pos (show _ = true by rw [hkept]; rfl))
  refine ⟨_, hexec, ?_, ?_⟩
  · rw [State.flag_event]
    exact State.flag_wr_b2n true (by decide) rfl
  · rw [State.event_out]
    exact List.mem_append_right _ (List.mem_singleton_self _)

/-- The level of an output pin as it is set. -/
theorem State.flag_evioSet (s : State) (p : Nat) (active : Bool) :
    (s.evioSet p active).flag F.cairnEvioOut_level p = active := by
  rw [State.evioSet, State.flag_emit]
  exact State.flag_wr_b2n active (by decide) rfl

/-- Setting a pin leaves BUSY alone. -/
theorem State.flag_evioSet_busy (s : State) (p : Nat) (active : Bool) :
    (s.evioSet p active).flag F.cairnEvioOut_busy p = s.flag F.cairnEvioOut_busy p := by
  rw [State.evioSet, State.flag_emit]
  exact State.flag_wr_apart (by decide) (by decide)

theorem evioOutActivate_starts_pulse (hfunc : (s.evioFn p).func = 0x02) (hacts : s.evioActs = true)
    (hidle : s.flag F.cairnEvioOut_busy p = false) (hmode : s.rd F.cairnEvioOut_mode p = 0) :
    answers (.evioOutActivate p) s (fun t =>
      t.flag F.cairnEvioOut_busy p = true ∧ t.flag F.cairnEvioOut_level p = true) := by
  have hexec : exec (.evioOutActivate p) s = .next ((s.up F.cairnEvioOut_busy p).evioSet p true) := by
    rw [exec_evioOutActivate, execEvioOutActivate]
    simp [hfunc, hacts, hidle, hmode]
  exact ⟨_, hexec, (State.flag_evioSet_busy ..).trans (State.flag_up_self (by decide) (by decide)),
    State.flag_evioSet ..⟩

theorem evioPulseEnd_idles (hbusy : s.flag F.cairnEvioOut_busy p = true) : answers (.evioPulseEnd p) s (fun t =>
    t.flag F.cairnEvioOut_busy p = false ∧ t.flag F.cairnEvioOut_level p = false) := by
  have hends : s.evioEndPulse p = (s.down F.cairnEvioOut_busy p).evioSet p false := by simp [State.evioEndPulse, hbusy]
  have hexec : exec (.evioPulseEnd p) s = .next ((s.down F.cairnEvioOut_busy p).evioSet p false) := congrArg _ hends
  exact ⟨_, hexec, (State.flag_evioSet_busy ..).trans (State.flag_down_self (by decide)),
    State.flag_evioSet ..⟩

/-! ### The event log (R545) -/

theorem eventLogEntry_takes_oldest {e : LogEntry} {rest : List LogEntry} (hqueue : s.logQueue = e :: rest) :
    answers .eventLogEntry s (fun t =>
      t.logQueue = rest ∧ t.rd F.chiefLogNext_logSeq = (s.rd F.chiefLogNext_logSeq + 1) % 2 ^ 32) := by
  rw [answers, exec_eventLogEntry, execEventLogEntry]
  simp only [hqueue]
  refine ⟨_, rfl, rfl, ?_⟩
  rw [State.rd_mk]
  exact State.rd_wr_self _ _ _ _ (by decide)

/-- Settles O6: each clause is one command at a pin or at the log. -/
theorem evioPinsAndEventLog : Obligations.EvioPinsAndEventLog :=
  ⟨fun _ _ => evioInputEdge_rises, fun _ _ => evioOutActivate_starts_pulse, fun _ _ => evioPulseEnd_idles,
    fun _ _ _ => eventLogEntry_takes_oldest⟩

end Sys2Proof.Machine
end

section
/-! SUPPORT. What the end of an island's test leaves alone (R247, R250, R500, R503): a field outside the registers it
writes keeps its value. One lemma per operation, each a chain that follows the operation's definition. -/

namespace Sys2Proof.Machine

variable {s0 s t : State} {f g : Fld} {i j k n v : Nat}

/-- No write of the `i`-th `f` reaches the `j`-th `g`: another register, or other bits of it. -/
def Fld.passes (f : Fld) (i : Nat) (g : Fld) (j : Nat) : Prop := g.addr j ≠ f.addr i ∨ f.fits ∧ f.apart g

theorem sameRd.wrPasses (h : sameRd g j s0 s) (hf : f.passes i g j) : sameRd g j s0 (s.wr f i v) := by
  refine sameRd.trans h ?_
  rcases hf with hne | ⟨hfits, hapart⟩
  · exact State.rd_wr_ne _ _ _ _ _ _ hne
  · exact State.rd_wr_apart _ _ _ _ _ _ hfits hapart

/-- The fields of TEST that show how a test ends (R500, R503). -/
def testEndFlds : List Fld :=
  [F.testIsl_result, F.testIsl_passed, F.testIsl_failed, F.testStat_failed, F.testStat_state, F.testStat_isl,
    F.testResult_result, F.testResult_occasion, F.testResult_failN, F.testResult_incompleteN]

/-- What a test's end writes beside TEST stands between CHIEF_ISL_SEL and TEST: the island shown, LOST, the Ridges,
OUTSTANDING and the pending bits (R39, R250, R451, R453, R546). -/
structure PastTestEnd (g : Fld) (j : Nat) : Prop where
  aside : g.addr j < 0x404 ∨ 0x1400000 ≤ g.addr j
  shown : ∀ f ∈ testEndFlds, ∀ i, f.passes i g j

/-- A register between CHIEF_ISL_SEL and TEST. -/
theorem PastTestEnd.passes (hg : PastTestEnd g j) (hlo : 0x404 ≤ f.addr i) (hhi : f.addr i < 0x1400000) :
    f.passes i g j := by
  refine .inl fun e => ?_
  rcases hg.aside with h | h <;> omega

/-- A field of which each Ridge has one. -/
def Fld.perRidge (f : Fld) : Bool := f.base == 0x600000 && f.s1 == 262144 && f.s2 == 0 && f.n2 == 1 && decide (f.off < 0x100)

/-- A field of which each Spur of each Ridge has one. -/
def Fld.perSpur (f : Fld) : Bool := f.base == 0x600100 && f.s1 == 262144 && f.s2 == 4 && f.n2 == 9 && f.off == 0

namespace sameRd

theorem withTest (h : sameRd g j s0 s) (x : TestCtl) : sameRd g j s0 { s with test := x } := h.same rfl

variable (hg : PastTestEnd g j)
include hg

theorem showIslPast (h : sameRd g j s0 s) : sameRd g j s0 s.showIsl := by
  refine h.trans (congrArg g.ofWord (State.reg_showIsl s ?_ ?_)) <;>
  · rintro e
    rcases hg.aside with h | h <;> omega

theorem isolatePast (h : sameRd g j s0 s) (isl : Nat) (on : Bool) : sameRd g j s0 (s.isolate isl on) :=
  showIslPast hg (h.same rfl)

theorem gatePast (h : sameRd g j s0 s) (isl : Nat) : sameRd g j s0 (s.gate isl) :=
  h.andUnless fun h => showIslPast hg (h.same rfl)

theorem logPast (h : sameRd g j s0 s) (code isl status : Nat) (args : List Nat) :
    sameRd g j s0 (s.log code isl status args) :=
  .ite (h.same rfl) (h.wrPasses (hg.passes (by decide) (by decide)))

theorem irqPast (h : sameRd g j s0 s) (hv : v < 64) : sameRd g j s0 (s.irq v) := by
  refine .ite (h.wrPasses (hg.passes ?_ ?_)) (h.same (State.emit_regs ..))
  · exact Nat.le_trans (show 0x404 ≤ 0x12f1000 by decide) (F.msixPba_pending.le_addr _)
  · simp only [Fld.addr, F.msixPba_pending]
    omega

theorem reportPast (h : sameRd g j s0 s) (c : CmdRef) (op st info res : Nat) :
    sameRd g j s0 (s.report c op st info res) := by
  refine .ite (irqPast hg (logPast hg ?_ _ _ _ _) (by decide))
    (wrPasses ?_ (hg.passes (f := F.hostCmdOutstanding_outstanding) (by decide) (by decide))) <;>
  exact h.same rfl

/-! ### A Spur retired (R231, R250) -/

/-- A register of Ridge `k`. -/
theorem wrRidge (h : sameRd g j s0 s) (hk : k < 6) (hf : f.perRidge = true) : sameRd g j s0 (s.wr f k v) := by
  simp only [Fld.perRidge, Bool.and_eq_true, beq_iff_eq, decide_eq_true_eq] at hf
  obtain ⟨⟨⟨⟨hbase, hs1⟩, hs2⟩, hn2⟩, hoff⟩ := hf
  refine h.wrPasses (hg.passes ?_ ?_) <;>
  · simp only [Fld.addr, hbase, hs1, hs2, hn2, Nat.div_one]
    omega

/-- A register of Spur `n` of Ridge `k`. -/
theorem wrSpur (h : sameRd g j s0 s) (hk : k < 6) (hn : n < 9) (hf : f.perSpur = true) :
    sameRd g j s0 (s.wr f (spurAt k n) v) := by
  simp only [Fld.perSpur, Bool.and_eq_true, beq_iff_eq] at hf
  obtain ⟨⟨⟨⟨hbase, hs1⟩, hs2⟩, hn2⟩, hoff⟩ := hf
  refine h.wrPasses (hg.passes ?_ ?_) <;>
  · simp only [Fld.addr, hbase, hs1, hs2, hn2, hoff, spurAt]
    omega

theorem setRolePast (h : sameRd g j s0 s) (hk : k < 6) (hn : n < 9) (role slot : Nat) :
    sameRd g j s0 (s.setRole k n role slot) :=
  wrSpur hg (wrSpur hg h hk hn rfl) hk hn rfl

theorem ridgeEventPast (h : sameRd g j s0 s) (hk : k < 6) (hf : f.perRidge = true) : sameRd g j s0 (s.ridgeEvent k f) :=
  (wrRidge hg h hk hf).andIf fun h => h.event _ _ _

/-- A Spur that fails is retired, its slot empty and its island gated. -/
theorem retirePast (h : sameRd g j s0 s) (hk : k < 6) (n : Nat) :
    sameRd g j s0 (if 8 < n then s else
      ((s.setRole k n SpurRole.retired noSpur).up F.ridgeSpurStat_bootRetired (spurAt k n)).gate (spurIsland k n)) := by
  split
  · exact h
  · next hn =>
    have hn : n < 9 := by omega
    exact gatePast hg (wrSpur hg (setRolePast hg h hk hn _ _) hk hn rfl) _

theorem ridgeStartPast (h : sameRd g j s0 s) (hk : k < 6) (gone : List Nat) : sameRd g j s0 (s.ridgeStart k gone) := by
  unfold State.ridgeStart
  dsimp only
  have hgood : ∀ x ∈ (List.range 9).filter (fun n => !gone.contains n), x < 9 :=
    fun x hx => List.mem_range.1 (List.mem_filter.1 hx).1
  generalize (List.range 9).filter (fun n => !gone.contains n) = good at hgood ⊢
  have hlive : ∀ x ∈ good.take 8, x < 9 := fun x hx => hgood x (List.mem_of_mem_take hx)
  generalize good.take 8 = live at hlive ⊢
  have hslot : ∀ m, live.getD m 0 < 9 := by
    intro m
    rw [List.getD_eq_getElem?_getD]
    cases hm : live[m]? with
    | none => decide
    | some x => exact hlive x (List.mem_of_getElem? hm)
  refine .ite (ridgeEventPast hg (logPast hg (wrRidge hg ?_ hk rfl) _ _ _ _) hk rfl) (wrRidge hg ?_ hk rfl)
  all_goals
    split
    case' h_1 x hx =>
      have hx9 : x < 9 := by
        split at hx
        · exact hgood x (List.mem_of_getLast? hx)
        · cases hx
      refine setRolePast hg ?_ hk hx9 _ _
    all_goals
      exact wrRidge hg (wrRidge hg (wrRidge hg (forN (wrRidge hg (h.forAll
        fun n _ _ h => retirePast hg h hk n) hk rfl) fun m _ _ h => setRolePast hg h hk (hslot m) _ m) hk rfl) hk rfl)
        hk rfl

theorem retireByTestPast (h : sameRd g j s0 s) {isl : Nat} (hspur : isSpur isl = true) :
    sameRd g j s0 (s.retireByTest isl) := by
  have hk : (isl - 0x40) / 9 < 6 := by
    simp only [isSpur, Bool.and_eq_true, decide_eq_true_eq] at hspur
    omega
  refine h.andUnless fun h => ridgeEventPast hg (logPast hg (forN (ridgeStartPast hg h hk _) ?_) _ _ _ _) hk rfl
  exact fun n _ hn h => wrSpur hg h hk hn rfl

/-! ### The end of a test (R500, R503) -/

theorem wrTestEnd (h : sameRd g j s0 s) (hf : f ∈ testEndFlds) : sameRd g j s0 (s.wr f i v) :=
  h.wrPasses (hg.shown f hf i)

theorem failIslandPast (h : sameRd g j s0 s) (isl : Nat) : sameRd g j s0 (s.failIsland isl) := by
  unfold State.failIsland
  split
  · next hspur => exact retireByTestPast hg h hspur
  · exact h.andUnless fun h => wrTestEnd hg (wrTestEnd hg h (f := F.testIsl_failed) (by decide)) (by decide)

theorem endIslandPast (h : sameRd g j s0 s) (isl : Nat) (x : IslTest) : sameRd g j s0 (s.endIsland isl x) := by
  have hshown := wrTestEnd hg (wrTestEnd hg h (f := F.testIsl_result) (i := isl)
    (v := if x.failed then Tr.fail else if x.bad then Tr.incomplete else Tr.pass) (by decide))
    (f := F.testIsl_passed) (i := isl) (v := x.passed) (by decide)
  exact (isolatePast hg hshown isl false).andIf fun h => failIslandPast hg h isl

theorem endTestPast (h : sameRd g j s0 s) (r : TestRun) : sameRd g j s0 (s.endTest r) := by
  have hshown (a b c d : Nat) : sameRd g j s0 ((((((s.wr F.testStat_state 0 0).wr F.testStat_isl 0 0).wr
      F.testResult_result 0 a).wr F.testResult_occasion 0 b).wr F.testResult_failN 0 c).wr F.testResult_incompleteN 0 d) := by
    refine wrTestEnd hg (wrTestEnd hg (wrTestEnd hg (wrTestEnd hg (wrTestEnd hg (wrTestEnd hg h ?_) ?_) ?_) ?_) ?_) ?_ <;>
    decide
  unfold State.endTest
  dsimp only
  split
  · exact (hshown _ _ _ _).withTest _
  · exact reportPast hg ((hshown _ _ _ _).withTest _) _ _ _ _ _

theorem cutTestPast (h : sameRd g j s0 s) : sameRd g j s0 s.cutTest := by
  unfold State.cutTest
  split
  · exact h
  · exact endTestPast hg (h.forAll fun isl _ _ h => endIslandPast hg h isl _) _

theorem startTestPast (h : sameRd g j s0 s) (r : TestRun) : sameRd g j s0 (s.startTest r) :=
  wrTestEnd hg ((h.forAll fun isl _ _ h => isolatePast hg h isl true).withTest _) (by decide)

theorem bootTestPast (h : sameRd g j s0 s) : sameRd g j s0 s.bootTest := h.andIf fun h => startTestPast hg h _

end sameRd

end Sys2Proof.Machine
end

section
/-! SUPPORT. The bank of a start attempt (R531, R578): one lemma per clause of O55. -/

namespace Sys2Proof.Machine

variable {s0 s t : State} {f g : Fld} {a i j v : Nat}

/-! ### A register of CHIEF_BOOT over the tests of phase 1 (R501, R505 to R507) -/

theorem pastTestEnd_bootFails : PastTestEnd F.chiefBoot_bootFails 0 := by
  refine ⟨by decide, fun f hf i => .inl (Nat.ne_of_lt (Nat.lt_of_lt_of_le ?_ (f.le_addr i)))⟩
  revert f
  decide

namespace sameRd

/-- A write of TEST leaves a register of the Chief. -/
theorem wrTest (h : sameRd g j s0 s) (hg : g.addr j < 0x404) (hf : 0x1400000 ≤ f.base) : sameRd g j s0 (s.wr f i v) :=
  h.wr (Nat.ne_of_gt (Nat.lt_of_lt_of_le (Nat.lt_trans hg (by decide))
    (Nat.le_trans hf (Nat.le_trans (Nat.le_add_right ..) (f.le_addr i)))))

theorem setWordsAbove (h : sameRd g j s0 s) (ha : g.addr j < a) (b : Bytes) : sameRd g j s0 (s.setWords a b) := by
  refine h.forN fun w u _ _ => congrArg g.ofWord (State.reg_setReg_ne u _ ?_)
  omega

theorem memLogEntry (h : sameRd g j s0 s) (hg : g.addr j < 0x404) (x : MemFail) (repair : Nat) :
    sameRd g j s0 (s.memLogEntry x repair) := by
  refine .ite (wrTest h hg (by decide)) (wrTest (setWordsAbove h ?_ _) hg (by decide))
  exact Nat.lt_of_lt_of_le (Nat.lt_trans hg (by decide)) (F.memlogWord_word.le_addr _)

theorem memoryTest (h : sameRd g j s0 s) (hg : g.addr j < 0x404) (hpast : PastTestEnd g j) (fails : List MemFail)
    (bad : List BadSpare) : sameRd g j s0 (s.memoryTest fails bad) := by
  unfold State.memoryTest
  dsimp only
  refine wrTest (wrTest (forAll (wrTest (forAll (withTest h _) ?_) hg (by decide)) ?_) hg (by decide)) hg (by decide)
  · exact fun x _ _ h => memLogEntry h hg x _
  · exact fun d _ _ h => failIslandPast hpast (wrTest h hg (by decide)) d.1

end sameRd

/-! ### The bank (R531) -/

theorem State.chooseBank_of_no_fail (hfails : s.rd F.chiefBoot_bootFails = 0) : s.chooseBank = s.activeBank := by
  simp [State.chooseBank, hfails]

/-- After one failed boot the other bank is taken where it may be. -/
theorem State.chooseBank_of_one_fail (hfails : s.rd F.chiefBoot_bootFails = 1) : s.chooseBank =
    if s.directory.any (fun d => d.fallback && d.other == sha384 (s.manifest (1 - s.activeBank))) then 1 - s.activeBank
    else s.activeBank := by
  simp [State.chooseBank, hfails]

theorem State.enterRecovery_mode (s : State) : s.enterRecovery.mode = Md.recovery := by
  have hdir : ∀ u : State, u.showDirectory.rd F.chiefMode_mode = u.rd F.chiefMode_mode :=
    fun u => congrArg F.chiefMode_mode.ofWord (u.reg_showDirectory (by decide))
  unfold State.mode State.enterRecovery State.toPhase
  simp (disch := decide) only [State.rd_wr_beside, hdir, State.rd_wr_self]
  rfl

theorem startupPhaseEnd_recovers {z b : Bool} {mf : List MemFail} {bs : List BadSpare} {cr : List CalResult}
    {rf : List HbmRowFail} (hmode : s.mode = Md.starting) (hreset : s.chief.inReset = false)
    (hphase : s.rd F.chiefMode_phase = 1) (hfails : s.rd F.chiefBoot_bootFails = 2) :
    answers (.startupPhaseEnd z mf bs cr rf b) s (fun t => t.mode = Md.recovery) := by
  have hkept (fails bad) : (s.bootTest.cutTest.memoryTest fails bad).rd F.chiefBoot_bootFails = 2 :=
    Eq.trans (((sameRd.refl.bootTestPast pastTestEnd_bootFails).cutTestPast pastTestEnd_bootFails).memoryTest (by decide)
      pastTestEnd_bootFails fails bad) hfails
  refine ⟨(s.bootTest.cutTest.memoryTest (mf.filter (fun f => alwaysOn.contains f.isl))
    (bs.filter (fun b => alwaysOn.contains b.isl))).enterRecovery, ?_, State.enterRecovery_mode _⟩
  rw [exec_startupPhaseEnd, execStartupPhaseEnd, State.phase_runs hmode hreset]
  simp only [Bool.false_eq_true, if_false, hphase, hkept]
  exact if_pos (by simp)

/-- Settles O55: the first two clauses are the ROM's choice, the third is phase 1 ending with BOOT_FAILS = 2. -/
theorem bankFollowsTheFailedBoots : Obligations.BankFollowsTheFailedBoots :=
  ⟨fun _ => State.chooseBank_of_no_fail, fun _ => State.chooseBank_of_one_fail,
    fun _ _ _ _ _ _ _ => startupPhaseEnd_recovers⟩

end Sys2Proof.Machine
end

section
/-! SUPPORT. Secure columns (R489, R541): one lemma per clause of O54. -/

namespace Sys2Proof.Machine

variable {s : State} {c : CmdRef} {n w : BitVec 8} {v : Word}

/-- A report writes no word of the enable matrix: they stand above the registers it writes. -/
theorem State.reg_finish_cairnMatrix {op st info k : Nat} :
    (s.finish c op st info).reg (F.cairnMatrix_word.addr k) = s.reg (F.cairnMatrix_word.addr k) := by
  have habove : 0x1301000 ≤ F.cairnMatrix_word.addr k := F.cairnMatrix_word.le_addr k
  refine State.reg_finish ?_ ?_ ?_ <;> refine Nat.ne_of_gt (Nat.lt_of_lt_of_le ?_ habove) <;> decide

/-- Over PCIe the command is refused (R541). -/
theorem cairnSecure_refuses_pcie (hs : s.serves c = true) (hstream : c.stream = none) :
    answers (.cairnSecure c n w v) s (fun t => t.reported c 0x75 St.authFail = true ∧
      ∀ k : Fin 1280, t.rd F.cairnMatrix_word k = s.rd F.cairnMatrix_word k) := by
  have hexec : exec (.cairnSecure c n w v) s = .next (s.finish c 0x75 St.authFail) := by
    rw [exec_cairnSecure, execCairnSecure, State.command_of_serves hs]
    simp [hstream]
  exact ⟨_, hexec, State.reported_finish (State.serves_iff.1 hs).2.1,
    fun _ => congrArg F.cairnMatrix_word.ofWord State.reg_finish_cairnMatrix⟩

/-- On a stream the word of a secure column of HOST_NET is written (R489, R541). -/
theorem cairnSecure_writes (hs : s.serves c = true) (hstream : c.stream ≠ none) (hn : n.toNat < 160) (hw : w.toNat ≤ 6)
    (hdomain : s.rd F.cairnMatrix_word (8 * n.toNat + 7) % 16 = Dom.hostNet)
    (hsecure : bit (s.rd F.cairnMatrix_word (8 * n.toNat + 7)) 4 = true) :
    answers (.cairnSecure c n w v) s (fun t =>
      t.reg (F.cairnMatrix_word.addr (8 * n.toNat + w.toNat)) = v ∧ t.reported c 0x75 St.done = true) := by
  have hexec : exec (.cairnSecure c n w v) s =
      .next ((s.setReg (F.cairnMatrix_word.addr (8 * n.toNat + w.toNat)) v).finish c 0x75 St.done) := by
    rw [exec_cairnSecure, execCairnSecure, State.command_of_serves hs]
    simp [hstream, Nat.not_le.2 hn, Nat.not_lt.2 hw, hdomain, hsecure]
  exact ⟨_, hexec, State.reg_finish_cairnMatrix.trans (State.reg_setReg_self ..),
    State.reported_finish (State.serves_iff.1 hs).2.1⟩

/-- Settles O54: refused over PCIe, done on a stream. -/
theorem cairnSecureFromTheNetworkOnly : Obligations.CairnSecureFromTheNetworkOnly :=
  ⟨fun _ _ _ _ _ => cairnSecure_refuses_pcie, fun _ _ _ _ _ => cairnSecure_writes⟩

end Sys2Proof.Machine
end

section
/-! SUPPORT. Operations that only show something: they write registers, send outputs and log. Then reports of host commands
with a result (R457, R458): what they show and what they leave alone. -/

namespace Sys2Proof.Machine

variable {s s0 t : State} {c : Prop} [Decidable c]

/-- `t` differs from `s` in its registers, its event log's queue and its outputs alone. -/
def Shows (s t : State) : Prop := ∃ r q o, t = { s with regs := r, logQueue := q, out := o }

namespace Shows

theorem refl (s : State) : Shows s s := ⟨_, _, _, rfl⟩

theorem trans {u : State} (h : Shows s t) (k : Shows t u) : Shows s u := by
  obtain ⟨_, _, _, rfl⟩ := h
  obtain ⟨_, _, _, rfl⟩ := k
  exact ⟨_, _, _, rfl⟩

/-- A view that reads nothing of these reads the same. -/
theorem view {α : Type} (h : Shows s t) (v : State → α)
    (hv : ∀ u r q o, v { u with regs := r, logQueue := q, out := o } = v u) : v t = v s := by
  obtain ⟨r, q, o, rfl⟩ := h
  exact hv s r q o

theorem host (h : Shows s t) : t.host = s.host := h.view State.host fun _ _ _ _ => rfl
theorem chief (h : Shows s t) : t.chief = s.chief := h.view State.chief fun _ _ _ _ => rfl
theorem keys (h : Shows s t) : t.keys = s.keys := h.view State.keys fun _ _ _ _ => rfl
theorem test (h : Shows s t) : t.test = s.test := h.view State.test fun _ _ _ _ => rfl
theorem hbm (h : Shows s t) : t.hbm = s.hbm := h.view State.hbm fun _ _ _ _ => rfl

/-! ### Updates, branches and folds -/

theorem setReg (h : Shows s0 s) (a : Nat) (w : Word) : Shows s0 (s.setReg a w) := h.trans ⟨_, _, _, rfl⟩
theorem wr (h : Shows s0 s) (f : Fld) (i v : Nat) : Shows s0 (s.wr f i v) := h.setReg _ _
theorem up (h : Shows s0 s) (f : Fld) (i : Nat) : Shows s0 (s.up f i) := h.wr _ _ _
theorem down (h : Shows s0 s) (f : Fld) (i : Nat) : Shows s0 (s.down f i) := h.wr _ _ _
theorem count (h : Shows s0 s) (f : Fld) (i n : Nat) : Shows s0 (s.count f i n) := h.wr _ _ _

theorem ite (ha : Shows s0 s) (hb : Shows s0 t) : Shows s0 (if c then s else t) := by
  split
  · exact ha
  · exact hb

/-- An operation made where a condition holds. -/
theorem andIf (h : Shows s0 s) (ht : Shows s0 s → Shows s0 t) : Shows s0 (if c then t else s) := .ite (ht h) h

/-- An operation made unless a condition holds. -/
theorem andUnless (h : Shows s0 s) (ht : Shows s0 s → Shows s0 t) : Shows s0 (if c then s else t) := .ite h (ht h)

theorem forAll {α : Type} {l : List α} {op : α → State → State} (h : Shows s0 s)
    (hop : ∀ x u, Shows s0 u → Shows s0 (op x u)) : Shows s0 (Machine.forAll l op s) := by
  unfold Machine.forAll
  induction l generalizing s with
  | nil => exact h
  | cons x l ih => exact ih (hop x s h)

theorem forN {n : Nat} {op : Nat → State → State} (h : Shows s0 s) (hop : ∀ k u, Shows s0 u → Shows s0 (op k u)) :
    Shows s0 (Machine.forN n op s) := h.forAll (l := List.range n) hop

theorem peak (h : Shows s0 s) (f : Fld) (i v : Nat) : Shows s0 (s.peak f i v) := h.andIf fun h => h.wr _ _ _

/-! ### Outputs, the log, interrupts -/

theorem emit (h : Shows s0 s) (o : Output) : Shows s0 (s.emit o) := h.andUnless fun h => h.trans ⟨_, _, _, rfl⟩
theorem event (h : Shows s0 s) (p w isl : Nat) : Shows s0 (s.event p w isl) := h.emit _

theorem log (h : Shows s0 s) (code isl status : Nat) (args : List Nat) : Shows s0 (s.log code isl status args) :=
  .ite (h.trans ⟨_, _, _, rfl⟩) (h.count _ _ _)

theorem irq (h : Shows s0 s) (v : Nat) : Shows s0 (s.irq v) := .ite (h.wr _ _ _) (h.emit _)
theorem chiefAlert (h : Shows s0 s) : Shows s0 s.chiefAlert := h.irq 6

end Shows
end Sys2Proof.Machine
end

section
/-! SUPPORT. Reports of host commands with a result (R457, R458): what they show and what they leave alone. -/

namespace Sys2Proof.Machine

variable {s : State} {c : CmdRef} {op st info res : Nat}

/-- A command that has not timed out shows its report. -/
theorem State.reported_report (h : s.host.timedOut.any (fun t => t.cseq == c.cseq && t.stream == streamOf c) = false) :
    (s.report c op st info res).reported c op st = true := by
  unfold State.reported State.report
  simp only [h, Bool.false_eq_true, if_false]
  rw [show ∀ u : State, u.showOutstanding.host = u.host from fun _ => rfl]
  simp

/-- The registers that a report writes: LOST, the pending bits of the Chief alert, OUTSTANDING (R453, R457, R546). -/
def reportRegs : List Nat :=
  [F.chiefLogLost_count.addr 0, F.msixPba_pending.addr 0, F.hostCmdOutstanding_outstanding.addr 0]

theorem State.reg_report {a : Nat} (h : a ∉ reportRegs) : (s.report c op st info res).reg a = s.reg a := by
  simp only [reportRegs, List.mem_cons, List.not_mem_nil, or_false, not_or] at h
  obtain ⟨hlost, hpba, hout⟩ := h
  unfold State.report State.chiefAlert
  split
  · exact (State.reg_irq_ne hpba).trans (State.reg_log_ne hlost)
  · exact State.reg_wr_ne hout

theorem State.rd_report {f : Fld} {i : Nat} (h : f.addr i ∉ reportRegs) :
    (s.report c op st info res).rd f i = s.rd f i := congrArg f.ofWord (State.reg_report h)

/-- Beyond what it shows, a report changes the host interface alone. -/
theorem State.report_shows : ∃ h, Shows { s with host := h } (s.report c op st info res) := by
  unfold State.report
  split
  · exact ⟨_, ((Shows.refl _).log _ _ _ _).chiefAlert⟩
  · exact ⟨_, (Shows.refl _).wr _ _ _⟩

/-- A view of neither the host interface nor what is shown. -/
theorem State.report_view {α : Type} (v : State → α)
    (hv : ∀ u r q o h, v { u with regs := r, logQueue := q, out := o, host := h } = v u) :
    v (s.report c op st info res) = v s := by
  obtain ⟨x, r, q, o, h⟩ := s.report_shows (c := c) (op := op) (st := st) (info := info) (res := res)
  rw [h]
  exact hv s r q o x

end Sys2Proof.Machine
end

section
/-! SUPPORT. Self-tests and scan access (R499, R501, R504, R505, R508, R515): one lemma per clause of O40. What the HBM
test leaves of HBM is HOST_RINGS; the rest reads as never written (log 3 and 23, DESIGN CHOICE). -/

namespace Sys2Proof.Machine

variable {s s0 t : State} {c : CmdRef} {f g : Fld} {i j k v : Nat}

/-! ### Fields of TEST past the end of a test -/

/-- The fields that show how a test ends stand in the low half of TEST_ISL, and in TEST_STAT and TEST_RESULT. -/
theorem testEndFlds_place (hf : f ∈ testEndFlds) :
    (f.base = 0x1401000 ∧ f.s1 = 16 ∧ f.s2 = 0 ∧ f.n2 = 1 ∧ f.off = 0 ∧ f.lo + f.width ≤ 16) ∨
      (f.base = 0x1400000 ∧ f.s1 = 0 ∧ f.s2 = 0 ∧ f.off < 8) := by
  revert f
  decide

theorem pastTestEnd_testCnt (hk : k < 7) : PastTestEnd (F.testCnt_count k) 0 := by
  refine ⟨.inr ?_, fun f hf n => .inl ?_⟩
  · simp only [Fld.addr, F.testCnt_count]
    omega
  · simp only [Fld.addr, F.testCnt_count]
    rcases testEndFlds_place hf with ⟨hbase, -⟩ | ⟨hbase, hs1, hs2, hoff⟩
    · omega
    · rw [hbase, hs1, hs2]
      omega

/-- A field of an island's registers with no bit in the low half of TEST_ISL. -/
theorem pastTestEnd_testIsl (hbase : g.base = 0x1401000) (hs1 : g.s1 = 16) (hs2 : g.s2 = 0) (hn2 : g.n2 = 1)
    (hbits : g.off < 16 ∧ (g.off ≠ 0 ∨ 16 ≤ g.lo)) : PastTestEnd g j := by
  obtain ⟨hoff, hbits⟩ := hbits
  refine ⟨.inr ?_, fun f hf n => ?_⟩
  · simp only [Fld.addr, hbase]
    omega
  · rcases testEndFlds_place hf with ⟨fbase, fs1, fs2, fn2, foff, flo⟩ | ⟨fbase, fs1, fs2, foff⟩
    · rcases hbits with hbits | hbits
      · refine .inl ?_
        simp only [Fld.addr, hbase, hs1, hs2, hn2, fbase, fs1, fs2, fn2, foff]
        omega
      · exact .inr ⟨by unfold Fld.fits; omega, .inl (by omega)⟩
    · refine .inl ?_
      simp only [Fld.addr, hbase, fbase, fs1, fs2]
      omega

/-! ### Series of logic tests (R499 to R501, R515) -/

/-- Islands without a store of secrets are cleared at once (R504). -/
theorem State.clearFor_of_no_secret {l : List Nat} {z : Bool} (h7 : 7 ∉ l) (h88 : 0x88 ∉ l) :
    s.clearFor l z = (s, l) := by
  have hfold : ∀ (l done : List Nat), 7 ∉ l → 0x88 ∉ l →
      l.foldl (fun (r : State × List Nat) i =>
        if i == 0x07 || i == 0x88 then
          let (s, ok) := r.1.clearSecrets i z
          (s, if ok then r.2 ++ [i] else r.2)
        else (r.1, r.2 ++ [i])) (s, done) = (s, done ++ l) := by
    intro l
    induction l with
    | nil => intro done _ _; simp
    | cons x l ih =>
      intro done h7 h88
      simp only [List.mem_cons, not_or] at h7 h88
      have hx : (x == 0x07 || x == 0x88) = false := by simp [Ne.symm h7.1, Ne.symm h88.1]
      rw [List.foldl_cons, hx, if_neg Bool.false_ne_true, ih _ h7.2 h88.2, List.append_assoc]
      rfl
  exact hfold l [] h7 h88

/-- The series that TEST_LOGIC begins (R515). -/
def commandedTest (c : CmdRef) (p n : Nat) (l : List Nat) : TestRun where
  cmd := some c
  occasion := 3
  patterns := p
  slices := n
  islands := l
  allowance := none

theorem testLogic_begins {i p n b : BitVec 8} {z : Bool} (hs : s.serves c = true) (hrun : s.test.run = none)
    (hp : 10 ≤ p.toNat) (hp' : p.toNat ≤ 20) (hn : n.toNat ≠ 0) (hn' : n.toNat ≤ 64) (hb : b.toNat ≠ 0)
    (hb' : b.toNat ≤ 80) (hl : testTargets i.toNat ≠ []) (h7 : 7 ∉ testTargets i.toNat)
    (h88 : 0x88 ∉ testTargets i.toNat) (hmode : s.mode = Md.maintain) (hcool : s.tooHot = false) :
    answers (.testLogic c i p n b z) s (fun t => t.rd F.testStat_state = 1 ∧
      t.test.run.map (fun r => (r.cmd, r.patterns, r.slices, r.islands)) =
        some (some c, p.toNat, n.toNat, testTargets i.toNat)) := by
  have hexec : exec (.testLogic c i p n b z) s = 
      .next ((s.takeCmd c).startTest (commandedTest c p.toNat n.toNat (testTargets i.toNat))) := by
    rw [exec_testLogic, execTestLogic, State.command_of_serves hs]
    simp [hrun, Nat.not_lt.2 hp, Nat.not_lt.2 hp', hn, Nat.not_lt.2 hn', hb, Nat.not_lt.2 hb', hl, hmode, hcool,
      State.clearFor_of_no_secret h7 h88, commandedTest]
  exact ⟨_, hexec, State.rd_wr_self _ _ _ _ (by decide), rfl⟩

/-! ### A slice ends (R499, R500) -/

/-- What the end of a slice shows before the series goes on. -/
def State.sliceShown (s : State) (r : TestRun) (i result sig : Nat) : State :=
  let s := s.count (F.testCnt_count Tc.slices) 0 1
  let s := if result == Tr.pass then s else
    s.count (F.testCnt_count (if result == Tr.skipped then Tc.skipped else if result == Tr.incomplete then Tc.incomplete
      else Tc.fail)) 0 1
  let s := s.wr F.testStat_isl 0 i
  let s := s.wr F.testIsl_patterns i r.patterns
  let s := s.wr64 F.testIslSigLo_sig F.testIslSigHi_sig i sig
  s.wr F.testIslNs_ns i s.ns

/-- What goes on from there changes no field past the end of a test. -/
theorem State.endSlice_sameRd {r : TestRun} {result sig : Nat} (hg : PastTestEnd g j) (hrun : s.test.run = some r)
    (hin : i ∈ r.islands) (hopen : (r.isl i).ended = false) :
    sameRd g j (s.sliceShown r i result sig) (s.endSlice i result sig) := by
  have hgoes : (!r.islands.contains i || (r.isl i).ended) = false := by simp [hin, hopen]
  unfold State.endSlice
  simp only [hrun, hgoes, Bool.false_eq_true, if_false]
  have hshown : sameRd g j (s.sliceShown r i result sig) (s.sliceShown r i result sig) := sameRd.refl
  unfold State.sliceShown at hshown
  exact ((hshown.withTest _).andIf fun h => h.endIslandPast hg _ _).andIf fun h => h.endTestPast hg _

/-- The counters of TEST stand below the registers of the islands, and are apart from TEST_STAT. -/
theorem sameRd.testCnt_pastIsl (h : sameRd (F.testCnt_count k) 0 s0 s) (hk : k < 7)
    (hf : 0x1401000 ≤ f.base ∨ f.addr i = 0x1400000) : sameRd (F.testCnt_count k) 0 s0 (s.wr f i v) := by
  refine h.wrPasses (.inl ?_)
  have hle := f.le_addr i
  simp only [Fld.addr, F.testCnt_count] at hle hf ⊢
  omega

theorem State.rd_testCnt_sliceShown {r : TestRun} {result sig : Nat} (hk : k < 7) :
    (s.sliceShown r i result sig).rd (F.testCnt_count k) =
      (let u := s.count (F.testCnt_count Tc.slices) 0 1
       if result == Tr.pass then u else u.count (F.testCnt_count (if result == Tr.skipped then Tc.skipped
         else if result == Tr.incomplete then Tc.incomplete else Tc.fail)) 0 1).rd (F.testCnt_count k) := by
  unfold State.sliceShown State.wr64
  exact ((((sameRd.refl.testCnt_pastIsl hk (.inr rfl)).testCnt_pastIsl hk (.inl (by decide))).testCnt_pastIsl hk
    (.inl (by decide))).testCnt_pastIsl hk (.inl (by decide))).testCnt_pastIsl hk (.inl (by decide))

/-- Counters of TEST are registers of their own. -/
theorem State.rd_testCnt_count_ne {m n : Nat} (h : k ≠ m) :
    (s.count (F.testCnt_count m) 0 n).rd (F.testCnt_count k) = s.rd (F.testCnt_count k) := by
  refine State.rd_wr_ne _ _ _ _ _ _ ?_
  simp only [Fld.addr, F.testCnt_count]
  omega

theorem State.rd_testCnt_count_self {n : Nat} :
    (s.count (F.testCnt_count k) 0 n).rd (F.testCnt_count k) = satAdd 32 (s.rd (F.testCnt_count k)) n :=
  State.rd_count_self (show 0 + 32 ≤ 32 by decide) (show 0 < 32 by decide)

/-- Every result counts a slice. -/
theorem State.rd_slices_sliceShown {r : TestRun} {result sig : Nat} :
    (s.sliceShown r i result sig).rd (F.testCnt_count Tc.slices) = satAdd 32 (s.rd (F.testCnt_count Tc.slices)) 1 := by
  rw [State.rd_testCnt_sliceShown (by decide)]
  dsimp only
  split
  · exact State.rd_testCnt_count_self
  · rw [State.rd_testCnt_count_ne, State.rd_testCnt_count_self]
    repeat' split
    all_goals decide

theorem State.rd_incomplete_sliceShown {r : TestRun} {sig : Nat} :
    (s.sliceShown r i Tr.incomplete sig).rd (F.testCnt_count Tc.incomplete) =
      satAdd 32 (s.rd (F.testCnt_count Tc.incomplete)) 1 := by
  rw [State.rd_testCnt_sliceShown (by decide)]
  refine State.rd_testCnt_count_self.trans ?_
  exact congrArg (satAdd 32 · 1) (State.rd_testCnt_count_ne (by decide))

theorem State.rd_patterns_sliceShown {r : TestRun} {result sig : Nat} :
    (s.sliceShown r i result sig).rd F.testIsl_patterns i = r.patterns % 2 ^ F.testIsl_patterns.width := by
  have hne : ∀ o, o ≠ 0 → o < 16 → F.testIsl_patterns.addr i ≠ 0x1401000 + i / 1 * 16 + i % 1 * 0 + o := by
    simp only [Fld.addr, F.testIsl_patterns]
    omega
  unfold State.sliceShown State.wr64
  dsimp only
  rw [State.rd_wr_ne _ F.testIslNs_ns _ _ _ _ (hne 0xc (by decide) (by decide)),
    State.rd_wr_ne _ F.testIslSigHi_sig _ _ _ _ (hne 8 (by decide) (by decide)),
    State.rd_wr_ne _ F.testIslSigLo_sig _ _ _ _ (hne 4 (by decide) (by decide))]
  exact State.rd_wr_self _ _ _ _ (by decide)

theorem State.rd64_sig_sliceShown {r : TestRun} {result sig : Nat} (hsig : sig < 2 ^ 64) :
    (s.sliceShown r i result sig).rd64 F.testIslSigLo_sig F.testIslSigHi_sig i = sig := by
  have hlo : F.testIslSigLo_sig.addr i ≠ F.testIslNs_ns.addr i := by
    simp only [Fld.addr, F.testIslSigLo_sig, F.testIslNs_ns]
    omega
  have hhi : F.testIslSigHi_sig.addr i ≠ F.testIslNs_ns.addr i := by
    simp only [Fld.addr, F.testIslSigHi_sig, F.testIslNs_ns]
    omega
  unfold State.sliceShown
  dsimp only
  rw [State.rd64, State.rd_wr_ne _ _ _ _ _ _ hlo, State.rd_wr_ne _ _ _ _ _ _ hhi]
  refine State.rd64_wr64_self (by decide) (by decide) rfl rfl hsig ?_
  simp only [Fld.addr, F.testIslSigLo_sig, F.testIslSigHi_sig]
  omega

theorem State.rd64_sig_endSlice {r : TestRun} {result sig : Nat} (hrun : s.test.run = some r) (hin : i ∈ r.islands)
    (hopen : (r.isl i).ended = false) (hsig : sig < 2 ^ 64) :
    (s.endSlice i result sig).rd64 F.testIslSigLo_sig F.testIslSigHi_sig i = sig := by
  have hlo := State.endSlice_sameRd (s := s) (result := result) (sig := sig)
    (pastTestEnd_testIsl (g := F.testIslSigLo_sig) (j := i) rfl rfl rfl rfl (by decide)) hrun hin hopen
  have hhi := State.endSlice_sameRd (s := s) (result := result) (sig := sig)
    (pastTestEnd_testIsl (g := F.testIslSigHi_sig) (j := i) rfl rfl rfl rfl (by decide)) hrun hin hopen
  exact (State.rd64_congr hlo hhi).trans (State.rd64_sig_sliceShown hsig)

/-- A series that runs is not begun again. -/
theorem State.bootTest_of_run {r : TestRun} (hrun : s.test.run = some r) : s.bootTest = s := by
  simp [State.bootTest, hrun]

theorem logicSliceDone_shows {n : BitVec 8} {good : Bool} {sig : BitVec 64} {r : TestRun} (hrun : s.test.run = some r)
    (hin : n.toNat ∈ r.islands) (hopen : (r.isl n.toNat).ended = false) :
    answers (.logicSliceDone n good sig) s (fun t =>
      t.rd (F.testCnt_count Tc.slices) = satAdd 32 (s.rd (F.testCnt_count Tc.slices)) 1 ∧
      t.rd F.testIsl_patterns n.toNat = r.patterns % 2 ^ F.testIsl_patterns.width ∧
      t.rd64 F.testIslSigLo_sig F.testIslSigHi_sig n.toNat = sig.toNat) := by
  rw [answers, exec_logicSliceDone, execLogicSliceDone]
  simp only [State.bootTest_of_run hrun, hrun]
  exact ⟨_, rfl, Eq.trans (State.endSlice_sameRd (pastTestEnd_testCnt (by decide)) hrun hin hopen)
      State.rd_slices_sliceShown,
    Eq.trans (State.endSlice_sameRd (pastTestEnd_testIsl rfl rfl rfl rfl (by decide)) hrun hin hopen)
      State.rd_patterns_sliceShown,
    State.rd64_sig_endSlice hrun hin hopen sig.isLt⟩

theorem logicSliceBudget_shows {n : BitVec 8} {sig : BitVec 64} {r : TestRun} (hrun : s.test.run = some r)
    (hin : n.toNat ∈ r.islands) (hopen : (r.isl n.toNat).ended = false) :
    answers (.logicSliceBudget n sig) s (fun t =>
      t.rd (F.testCnt_count Tc.incomplete) = satAdd 32 (s.rd (F.testCnt_count Tc.incomplete)) 1 ∧
      t.rd64 F.testIslSigLo_sig F.testIslSigHi_sig n.toNat = sig.toNat) := by
  rw [answers, exec_logicSliceBudget, execLogicSliceBudget, State.bootTest_of_run hrun]
  exact ⟨_, rfl, Eq.trans (State.endSlice_sameRd (pastTestEnd_testCnt (by decide)) hrun hin hopen)
      State.rd_incomplete_sliceShown,
    State.rd64_sig_endSlice hrun hin hopen sig.isLt⟩

/-! ### Memory and HBM tests (R505, R508, R515) -/

/-- A memory test that finds nothing changes its own state and shows the counts of repairs alone. -/
theorem State.memoryTest_nil (s : State) : ∃ x a b d, s.memoryTest [] [] =
    ((({ s with test := x } : State).wr F.testMemStat_unrepairable 0 a).wr F.testMemRepair_rows 0 b).wr
      F.testMemRepair_columns 0 d := ⟨_, _, _, _, rfl⟩

theorem testMemory_reports {n : BitVec 8} {z : Bool} (hs : s.serves c = true) (hrun : s.test.run = none)
    (hl : testTargets n.toNat ≠ []) (h7 : 7 ∉ testTargets n.toNat) (h88 : 0x88 ∉ testTargets n.toNat)
    (hmode : s.mode = Md.maintain) (hcool : s.tooHot = false) :
    answers (.testMemory c n z [] []) s (fun t => t.reported c 0x41 St.done = true ∧
      t.rd F.testMemStat_entries = s.rd F.testMemStat_entries) := by
  obtain ⟨x, a, b, d, htest⟩ := s.memoryTest_nil
  have hexec : ∃ res, exec (.testMemory c n z [] []) s = .next ((s.memoryTest [] []).report c 0x41 St.done 0 res) := by
    rw [exec_testMemory, execTestMemory, State.command_of_serves hs]
    simp [hrun, hl, hmode, hcool, State.clearFor_of_no_secret h7 h88]
  obtain ⟨res, hexec⟩ := hexec
  refine ⟨_, hexec, ?_, ?_⟩
  · refine State.reported_report ?_
    rw [htest, State.wr_host, State.wr_host, State.wr_host]
    exact (State.serves_iff.1 hs).2.1
  · rw [State.rd_report (by decide), htest]
    simp (disch := decide) only [State.rd_wr_beside]
    rfl

theorem testHbm_keeps_host_rings (hs : s.serves c = true) (hrun : s.test.run = none) (hmode : s.mode = Md.maintain)
    (hcool : s.tooHot = false) : answers (.testHbm c []) s (fun t => t.reported c 0x42 St.done = true ∧
      t.hbm = (s.keepHbm (fun a => s.inRegion 5 a 1)).hbm) := by
  have hexec : exec (.testHbm c []) s = .next ((s.hbmTest []).report c 0x42 St.done 0 0) := by
    rw [exec_testHbm, execTestHbm, State.command_of_serves hs]
    simp [hrun, hmode, hcool, b2n]
  have hhost : (s.hbmTest []).host = s.host := rfl
  refine ⟨_, hexec, State.reported_report ?_, State.report_view State.hbm fun _ _ _ _ _ => rfl⟩
  rw [hhost]
  exact (State.serves_iff.1 hs).2.1

/-! ### Scan access (R504) -/

theorem State.failIsland_shows {isl : Nat} (hspur : isSpur isl = false) : Shows s (s.failIsland isl) := by
  rw [State.failIsland, hspur, if_neg Bool.false_ne_true]
  exact (Shows.refl s).andUnless fun h => (h.up _ _).count _ _ _

/-- Whether a secret's store reads zero is shown once it is cleared. -/
theorem State.clearSecrets_keys (s : State) (z : Bool) : Shows { s with keys := [] } (s.clearSecrets 0x07 z).1 := by
  have hcounted := ((Shows.refl s).count (F.testCnt_count Tc.secretClears) 0 1).log Ev.secretsCleared 0x06 0 [0x07]
  obtain ⟨r, q, o, hcounted⟩ := hcounted
  unfold State.clearSecrets
  dsimp only
  rw [hcounted]
  have hcleared : Shows { s with keys := [] } (forN 16 (fun i s => s.setReg (F.secSlot_kind.addr i) 0)
      (State.putKeys { s with regs := r, logQueue := q, out := o } [])) :=
    Shows.forN ⟨_, _, _, rfl⟩ fun _ _ h => h.setReg _ _
  split
  · exact hcleared
  · exact (hcleared.trans (State.failIsland_shows rfl)).log _ _ _ _

theorem State.clearSecrets_layoutKeys (s : State) (z : Bool) :
    Shows { s with layoutKeys := [] } (s.clearSecrets 0x88 z).1 := by
  have hcounted := ((Shows.refl s).count (F.testCnt_count Tc.secretClears) 0 1).log Ev.secretsCleared 0x06 0 [0x88]
  obtain ⟨r, q, o, hcounted⟩ := hcounted
  unfold State.clearSecrets
  dsimp only
  rw [hcounted]
  have hcleared : Shows { s with layoutKeys := [] } (State.wr
      { ({ s with regs := r, logQueue := q, out := o } : State) with layoutKeys := [] } F.layoutKeyStat_layoutKey 0 0) :=
    Shows.wr ⟨_, _, _, rfl⟩ _ _ _
  split
  · exact hcleared
  · exact (hcleared.trans (State.failIsland_shows rfl)).log _ _ _ _

theorem sameRd.withLayoutKeys (h : sameRd g j s0 s) (x : Sparse (Option Nat)) :
    sameRd g j s0 { s with layoutKeys := x } := h.same rfl

/-- Secrets cleared are counted. -/
theorem State.rd_secretClears_clearSecrets {isl : Nat} {z : Bool} (hisl : isl = 0x07 ∨ isl = 0x88) :
    (s.clearSecrets isl z).1.rd (F.testCnt_count Tc.secretClears) =
      satAdd 32 (s.rd (F.testCnt_count Tc.secretClears)) 1 := by
  have hpast : PastTestEnd (F.testCnt_count Tc.secretClears) 0 := pastTestEnd_testCnt (by decide)
  have hcounted : (s.count (F.testCnt_count Tc.secretClears) 0 1).rd (F.testCnt_count Tc.secretClears) = _ :=
    State.rd_testCnt_count_self
  refine Eq.trans ?_ hcounted
  have hlogged := sameRd.refl.logPast hpast (s := s.count (F.testCnt_count Tc.secretClears) 0 1) Ev.secretsCleared 0x06 0 [isl]
  unfold State.clearSecrets
  rcases hisl with rfl | rfl
  · have hcleared := (hlogged.same (t := State.putKeys _ []) rfl).forN (n := 16)
      (op := fun i s => s.setReg (F.secSlot_kind.addr i) 0) fun k u _ _ => congrArg (Fld.ofWord _) (State.reg_setReg_ne u _ ?_)
    · dsimp only
      split
      · exact hcleared
      · exact ((hcleared.failIslandPast hpast _).logPast hpast _ _ _ _)
    · simp only [Fld.addr, F.testCnt_count, F.secSlot_kind, Tc.secretClears]
      omega
  · have hcleared := (hlogged.withLayoutKeys []).wr (f := F.layoutKeyStat_layoutKey) (k := 0) (v := 0)
      (show _ ≠ _ by decide)
    dsimp only
    split
    · exact hcleared
    · exact ((hcleared.failIslandPast hpast _).logPast hpast _ _ _ _)

theorem satAdd_satAdd (w a m n : Nat) : satAdd w (satAdd w a m) n = satAdd w a (m + n) := by
  unfold satAdd
  omega

theorem jtagInstruction_clears (a b : Bool) : answers (.jtagInstruction true a b) s (fun t => t.keys = [] ∧
    t.layoutKeys = [] ∧
    t.rd (F.testCnt_count Tc.secretClears) = satAdd 32 (s.rd (F.testCnt_count Tc.secretClears)) 2) := by
  have hkeys := s.clearSecrets_keys a
  have hlayout := (s.clearSecrets 0x07 a).1.clearSecrets_layoutKeys b
  refine ⟨((s.clearSecrets 0x07 a).1.clearSecrets 0x88 b).1, rfl, ?_, ?_, ?_⟩
  · exact hlayout.keys.trans hkeys.keys
  · exact hlayout.view State.layoutKeys fun _ _ _ _ => rfl
  · rw [State.rd_secretClears_clearSecrets (.inr rfl), State.rd_secretClears_clearSecrets (.inl rfl)]
    exact satAdd_satAdd ..

theorem jtagInstruction_boundary (a b : Bool) : answers (.jtagInstruction false a b) s (fun t => t = s) :=
  ⟨s, rfl, rfl⟩

/-- Settles O40: each clause is one command of the test controller. -/
theorem selfTests : Obligations.SelfTests :=
  ⟨fun _ _ _ _ _ _ _ => testLogic_begins, fun _ _ _ _ _ => logicSliceDone_shows, fun _ _ _ _ => logicSliceBudget_shows,
    fun _ _ _ _ => testMemory_reports, fun _ _ => testHbm_keeps_host_rings, fun _ => jtagInstruction_clears,
    fun _ => jtagInstruction_boundary⟩

end Sys2Proof.Machine
end

section
/-! SUPPORT. Calibration and the monitors (R511 to R515, R574): one lemma per clause of O41. -/

namespace Sys2Proof.Machine

variable {s s0 t : State} {c : CmdRef} {f g : Fld} {i j k n v : Nat}

/-! ### Elements calibrated (R511 to R513) -/

/-- An entry listed is found. -/
theorem Sparse.lookup_insert_self {α : Type} (m : Sparse α) (k : Nat) (v : α) : (Sparse.insert m k v).lookup k = some v := by
  induction m with
  | nil => simp [Sparse.insert]
  | cons e m ih =>
    obtain ⟨k', v'⟩ := e
    unfold Sparse.insert
    split
    · simp
    · split
      · simp
      · next hne =>
        have hbeq : (k == k') = false := beq_eq_false_iff_ne.2 (Ne.symm hne)
        rw [List.lookup_cons, hbeq]
        exact ih

/-- The element after a measurement in use: it moves to the code found. -/
def State.calibrated (s : State) (r : CalResult) : CalElem :=
  match Sparse.get (fun _ => none) (s.test.trims.map (fun (e : Nat × CalElem) => (e.1, some e.2))) r.element with
  | some e => { kind := r.kind, lane := r.lane.map (·.val), code := e.code, target := r.code }
  | none => { kind := r.kind, lane := r.lane.map (·.val), code := r.code, target := r.code }

theorem State.calibrated_target (s : State) (r : CalResult) : (s.calibrated r).target = r.code := by
  unfold State.calibrated
  split <;> rfl

/-- A measurement changes its element, and shows one out of range. -/
theorem State.calibrate_shows (s : State) (r : CalResult) :
    Shows { s with test.trims := Sparse.insert s.test.trims r.element (s.calibrated r) } (s.calibrate r false) :=
  (Shows.refl _).andUnless fun h => ((h.up _ _).wr _ _ _).log _ _ _ _

theorem State.calibrate_target (s : State) (r : CalResult) :
    ((s.calibrate r false).test.trims.lookup r.element).map (·.target) = some r.code := by
  rw [(s.calibrate_shows r).test]
  dsimp only
  rw [Sparse.lookup_insert_self]
  exact congrArg some (s.calibrated_target r)

theorem calibrate_moves {r : CalResult} (hs : s.serves c = true) (hrun : s.test.run = none) (hmode : s.cmMode = true) :
    answers (.calibrate c [r]) s (fun t =>
      (t.test.trims.lookup r.element).map (·.target) = some r.code ∧ t.flag F.testCal_calDone = true ∧
      t.reported c 0x43 St.done = true) := by
  have hexec : ∃ res, exec (.calibrate c [r]) s =
      .next (((s.calibrate r false).up F.testCal_calDone).report c 0x43 St.done 0 res) := by
    rw [exec_calibrate, execCalibrate, State.command_of_serves hs]
    simp only [hrun, hmode]
    exact ⟨_, rfl⟩
  obtain ⟨res, hexec⟩ := hexec
  refine ⟨_, hexec, ?_, ?_, State.reported_report ?_⟩
  · rw [State.report_test]
    exact s.calibrate_target r
  · rw [State.flag_congr (State.rd_report (by decide))]
    exact State.flag_up_self (by decide) (by decide)
  · rw [State.up_host, (s.calibrate_shows r).host]
    exact (State.serves_iff.1 hs).2.1

theorem recalTimer_moves {r : CalResult} (hserved : s.served = true) (hmode : s.mode ≠ Md.starting)
    (hrun : s.test.run = none) :
    answers (.recalTimer [r]) s (fun t => (t.test.trims.lookup r.element).map (·.target) = some r.code) := by
  have hexec : exec (.recalTimer [r]) s = .next (State.calibrate { s with test.deferred := false } r false) := by
    rw [exec_recalTimer, execRecalTimer]
    simp [hserved, hmode, State.converterBusy, hrun, forAll]
  exact ⟨_, hexec, State.calibrate_target _ r⟩

/-! ### Settings (R513, R515) -/

theorem State.served_iff : s.served = true ↔ s.mode ≠ Md.recovery ∧ s.mode ≠ Md.park := by simp [State.served]

theorem calSet_sets {n : BitVec 16} (hs : s.serves c = true) (hlo : 1 ≤ n.toNat) (hhi : n.toNat ≤ 3600)
    (hmode : s.mode ≠ Md.park) : answers (.calSet c n) s (fun t =>
      t.rd F.testCal_recalS = n.toNat ∧ t.reported c 0x44 St.done = true) := by
  obtain ⟨-, hlate, hrec⟩ := State.serves_iff.1 hs
  have hexec : exec (.calSet c n) s = .next ((s.wr F.testCal_recalS 0 n.toNat).finish c 0x44 St.done) := by
    rw [exec_calSet, execCalSet, State.command_of_serves hs]
    simp [Nat.not_lt.2 hhi, Nat.ne_of_gt hlo, State.served_iff.2 ⟨hrec, hmode⟩]
  refine ⟨_, hexec, ?_, State.reported_finish hlate⟩
  exact (State.rd_report (by decide)).trans (State.rd_wr_fits (by decide) n.isLt)

theorem thermSet_sets {a h : BitVec 8} (hs : s.serves c = true) (hlo : 1 ≤ h.toNat) (hhi : h.toNat ≤ 20)
    (hmode : s.mode ≠ Md.park) : answers (.thermSet c a h) s (fun t => t.rd F.testTherm_alertC = a.toNat ∧
      t.rd F.testTherm_hyst = h.toNat ∧ t.reported c 0x45 St.done = true) := by
  obtain ⟨-, hlate, hrec⟩ := State.serves_iff.1 hs
  have hexec : exec (.thermSet c a h) s = .next
      (((s.wr F.testTherm_alertC 0 a.toNat).wr F.testTherm_hyst 0 h.toNat).finish c 0x45 St.done) := by
    rw [exec_thermSet, execThermSet, State.command_of_serves hs]
    simp [Nat.not_lt.2 hhi, Nat.ne_of_gt hlo, State.served_iff.2 ⟨hrec, hmode⟩]
  refine ⟨_, hexec, ?_, ?_, State.reported_finish hlate⟩
  · rw [State.finish, State.rd_report (by decide), State.rd_wr_beside (by decide)]
    exact State.rd_wr_fits (by decide) a.isLt
  · exact (State.rd_report (by decide)).trans (State.rd_wr_fits (by decide) h.isLt)

/-- TEST as TEST_LOG_CLEAR leaves it. -/
def State.testLogCleared (s : State) : State :=
  forN 7 (fun k s => s.wr (F.testCnt_count k) 0 0)
    ((((s.resetSpan (F.memlogWord_word.addr 0) (F.memlogWord_word.addr 1024)).wr F.testMemStat_entries 0 0).down
      F.testMemStat_overflow).down F.testCal_outOfRange)

/-- The counters stand above the other registers of TEST that are cleared. -/
theorem State.rd_clearCnt {g : Fld} (hg : g.addr 0 < 0x1400040) (s : State) :
    (forN 7 (fun k s => s.wr (F.testCnt_count k) 0 0) s).rd g = s.rd g := by
  refine forN_sameRd fun k u _ => State.rd_wr_ne _ _ _ _ _ _ (Nat.ne_of_lt (Nat.lt_of_lt_of_le hg ?_))
  simp only [Fld.addr, F.testCnt_count]
  omega

theorem State.testLogCleared_host (s : State) : s.testLogCleared.host = s.host :=
  forN_view State.host fun _ _ => rfl

theorem State.rd_testCnt_testLogCleared (s : State) {k : Nat} (hk : k < 7) :
    s.testLogCleared.rd (F.testCnt_count k) = 0 := by
  refine forN_each (Q := fun k u => u.rd (F.testCnt_count k) = 0) ?_ ?_ _ k hk
  · exact fun k u _ => State.rd_wr_self _ _ _ _ (show 0 + 32 ≤ 32 by decide)
  · intro i k u hik _ hi
    refine Eq.trans (State.rd_wr_ne _ _ _ _ _ _ ?_) hi
    simp only [Fld.addr, F.testCnt_count]
    omega

theorem testLogClear_clears (hs : s.serves c = true) (hmode : s.cmMode = true) : answers (.testLogClear c) s (fun t =>
    t.rd F.testMemStat_entries = 0 ∧ t.flag F.testMemStat_overflow = false ∧ t.flag F.testCal_outOfRange = false ∧
    (∀ k : Fin 7, t.rd (F.testCnt_count k) = 0) ∧ t.reported c 0x46 St.done = true) := by
  have hexec : exec (.testLogClear c) s = .next (s.testLogCleared.finish c 0x46 St.done) := by
    rw [exec_testLogClear, execTestLogClear, State.command_of_serves hs]
    simp only [hmode]
    rfl
  have hrd {g : Fld} (hg : g.addr 0 < 0x1400040) (hreport : g.addr 0 ∉ reportRegs) :
      (s.testLogCleared.finish c 0x46 St.done).rd g =
        ((((s.resetSpan (F.memlogWord_word.addr 0) (F.memlogWord_word.addr 1024)).wr F.testMemStat_entries 0 0).down
          F.testMemStat_overflow).down F.testCal_outOfRange).rd g :=
    (State.rd_report hreport).trans (State.rd_clearCnt hg _)
  refine ⟨_, hexec, ?_, ?_, ?_, fun k => ?_, State.reported_finish ?_⟩
  · rw [hrd (by decide) (by decide)]
    simp (disch := decide) only [State.down, State.rd_wr_beside, State.rd_wr_self]
    rfl
  · rw [State.flag, hrd (by decide) (by decide)]
    simp (disch := decide) only [State.down, State.rd_wr_beside, State.rd_wr_self]
    rfl
  · rw [State.flag, hrd (by decide) (by decide)]
    simp (disch := decide) only [State.down, State.rd_wr_self]
    rfl
  · refine (State.rd_report ?_).trans (s.rd_testCnt_testLogCleared k.isLt)
    revert k
    decide
  · rw [State.testLogCleared_host]
    exact (State.serves_iff.1 hs).2.1

/-! ### The guaranteed slot (R513) -/

/-- Measurements leave the deferral and its slot alone. -/
theorem State.calibrate_slot (s : State) (l : List CalResult) :
    (forAll l (fun r s => s.calibrate r false) s).test.deferred = s.test.deferred ∧
      (forAll l (fun r s => s.calibrate r false) s).test.slot = s.test.slot := by
  have hone : ∀ (r : CalResult) (u : State), (u.calibrate r false).test =
      { u.test with trims := Sparse.insert u.test.trims r.element (u.calibrated r) } :=
    fun r u => (u.calibrate_shows r).test
  exact ⟨forAll_view (fun s => s.test.deferred) fun r u => by rw [hone],
    forAll_view (fun s => s.test.slot) fun r u => by rw [hone]⟩

/-- A measurement counts nothing. -/
theorem State.rd_testCnt_calibrate (s : State) (r : CalResult) {k : Nat} (hk : k < 7) :
    (s.calibrate r false).rd (F.testCnt_count k) = s.rd (F.testCnt_count k) := by
  have hne {f : Fld} (hf : f.addr 0 = 0x1400020) : f.misses 0 (F.testCnt_count k) 0 := by
    unfold Fld.misses
    rw [hf]
    simp only [Fld.addr, F.testCnt_count]
    omega
  exact (sameRd.refl.withTest _).andUnless fun h =>
    (((h.up (hne rfl)).wr (hne rfl)).logPast (pastTestEnd_testCnt hk) _ _ _ _)

theorem recalDeferExpiry_takes_slot {l : List CalResult} (hdeferred : s.test.deferred = true) :
    answers (.recalDeferExpiry l) s (fun t => t.test.deferred = false ∧ t.test.slot = some (s.clock + 50000) ∧
      t.rd (F.testCnt_count Tc.recalDeferred) = satAdd 32 (s.rd (F.testCnt_count Tc.recalDeferred)) 1) := by
  let u := s.count (F.testCnt_count Tc.recalDeferred) 0 1
  let w : State := { u with test.deferred := false, test.slot := some (u.clock + 50000) }
  have hexec : exec (.recalDeferExpiry l) s =
      .next (forAll (l.filter (fun r => r.kind == .supply)) (fun r s => s.calibrate r false) w) := by
    rw [exec_recalDeferExpiry, execRecalDeferExpiry, hdeferred]
    rfl
  obtain ⟨hdef, hslot⟩ := w.calibrate_slot (l.filter (fun r => r.kind == .supply))
  refine ⟨_, hexec, hdef, hslot, Eq.trans ?_ State.rd_testCnt_count_self⟩
  exact forAll_sameRd fun r v _ => v.rd_testCnt_calibrate r (by decide)

/-! ### The supply sample (R574) -/

/-- A write of a single register, or of other bits of it. -/
theorem sameRd.wrSingle (h : sameRd g 0 s0 s) (hf : f.clearOf 1 g 1 = true) : sameRd g 0 s0 (s.wr f 0 v) :=
  h.wrClearOf hf Nat.one_pos Nat.one_pos

theorem supplySample_shows {v p : BitVec 16} (hslot : s.inSlot = false) : answers (.supplySample v p) s (fun t =>
    t.rd F.chiefPwr_vinMv = v.toNat ∧ t.rd F.chiefPwrW_power = p.toNat ∧
    (v.toNat < 11400 → t.flag F.chiefPwr_vinLow = true) ∧ (12600 < v.toNat → t.flag F.chiefPwr_vinHigh = true)) := by
  let u := s.wr F.chiefPwr_vinMv 0 v.toNat
  let w := if v.toNat < 11400 then u.up F.chiefPwr_vinLow else u
  let x := if 12600 < v.toNat then w.up F.chiefPwr_vinHigh else w
  let y := x.wr F.chiefPwrW_power 0 p.toNat
  have hexec : exec (.supplySample v p) s = .next (y.peak F.chiefPwrW_peak 0 p.toNat) := by
    rw [exec_supplySample, execSupplySample, hslot]
    rfl
  have hpeak {g : Fld} (hg : F.chiefPwrW_peak.clearOf 1 g 1 = true) : sameRd g 0 y (y.peak F.chiefPwrW_peak 0 p.toNat) :=
    sameRd.refl.andIf fun h => h.wrSingle hg
  have hshown {g : Fld} (hg : F.chiefPwrW_peak.clearOf 1 g 1 = true) (hg' : F.chiefPwrW_power.clearOf 1 g 1 = true) :
      sameRd g 0 x (y.peak F.chiefPwrW_peak 0 p.toNat) := (sameRd.refl.wrSingle hg').trans (hpeak hg)
  refine ⟨_, hexec, ?_, ?_, fun hlow => ?_, fun hhigh => ?_⟩
  · have hx : sameRd F.chiefPwr_vinMv 0 u x :=
      (sameRd.refl.andIf fun h => h.wrSingle (by decide)).andIf fun h => h.wrSingle (by decide)
    exact Eq.trans (hx.trans (hshown (by decide) (by decide))) (State.rd_wr_fits (by decide) v.isLt)
  · exact Eq.trans (hpeak (by decide)) (State.rd_wr_fits (by decide) p.isLt)
  · have hw : w = u.up F.chiefPwr_vinLow := if_pos hlow
    have hx : sameRd F.chiefPwr_vinLow 0 w x := sameRd.refl.andIf fun h => h.wrSingle (by decide)
    rw [State.flag_congr (hx.trans (hshown (by decide) (by decide))), hw]
    exact State.flag_up_self (by decide) (by decide)
  · have hx : x = w.up F.chiefPwr_vinHigh := if_pos hhigh
    rw [State.flag_congr (hshown (by decide) (by decide)), hx]
    exact State.flag_up_self (by decide) (by decide)

end Sys2Proof.Machine
end

section
/-! SUPPORT. The thermal sample (R514), and the clauses of O41 gathered. -/

namespace Sys2Proof.Machine

variable {s s0 t : State} {f g : Fld} {i j k v : Nat}

/-! ### Readings -/

/-- One sensor of a sample: its reading is shown, or how old its last one is. -/
def State.sampleSensor (temps : List (Option (BitVec 10))) (i : Nat) (s : State) : State :=
  match temps.getD i none with
  | some t =>
    let s := (s.wr F.testSensor_temp i t.toNat).up F.testSensor_valid i
    { s with test.read := Sparse.insert s.test.read i s.clock }
  | none => s.wr F.testSensor_valid i (b2n (match s.test.read.lookup i with
    | some c => decide (s.clock ≤ c + 500000)
    | none => false))

/-- What sensor `i` shows of its reading. -/
def sensorShows (i : Nat) (v : BitVec 10) (s : State) : Prop :=
  s.rd F.testSensor_temp i = v.toNat ∧ s.flag F.testSensor_valid i = true

theorem State.sampleSensor_shows {temps : List (Option (BitVec 10))} {v : BitVec 10} (h : temps.getD i none = some v)
    (s : State) : sensorShows i v (s.sampleSensor temps i) := by
  have hsample : sameRd F.testSensor_temp i ((s.wr F.testSensor_temp i v.toNat).up F.testSensor_valid i)
        (s.sampleSensor temps i) ∧
      sameRd F.testSensor_valid i ((s.wr F.testSensor_temp i v.toNat).up F.testSensor_valid i)
        (s.sampleSensor temps i) := by
    unfold State.sampleSensor
    rw [h]
    exact ⟨sameRd.refl.withTest _, sameRd.refl.withTest _⟩
  obtain ⟨hsameTemp, hsameValid⟩ := hsample
  have htemp : ((s.wr F.testSensor_temp i v.toNat).up F.testSensor_valid i).rd F.testSensor_temp i = v.toNat := by
    rw [State.up, State.rd_wr_apart _ _ _ _ _ _ (by decide) (by decide)]
    exact State.rd_wr_fits (by decide) v.isLt
  exact ⟨Eq.trans hsameTemp htemp, (State.flag_congr hsameValid).trans (State.flag_up_self (by decide) (by decide))⟩

/-- A sensor's sample writes its own register. -/
theorem sameRd.sampleSensor (h : sameRd g j s0 s) (temps : List (Option (BitVec 10)))
    (hf : F.testSensor_temp.addr i ≠ g.addr j) : sameRd g j s0 (s.sampleSensor temps i) := by
  unfold State.sampleSensor
  split
  · exact ((h.wr hf).up (f := F.testSensor_valid) hf).withTest _
  · exact h.wr (f := F.testSensor_valid) hf

/-- The sensors as a sample leaves them. -/
def State.sensorsSampled (s : State) (temps : List (Option (BitVec 10))) : State :=
  forN 16 (fun i s => s.sampleSensor temps i) s

theorem State.sensorsSampled_shows {temps : List (Option (BitVec 10))} {v : BitVec 10} (hi : i < 16)
    (h : temps.getD i none = some v) (s : State) : sensorShows i v (s.sensorsSampled temps) := by
  have hall := forN_each (n := 16) (op := fun i s => State.sampleSensor temps i s)
    (Q := fun i u => ∀ v, temps.getD i none = some v → sensorShows i v u)
    (fun i u _ v hv => State.sampleSensor_shows hv u)
    (fun i k u hik _ hu v hv => by
      have hne : ∀ g : Fld, g.addr i = F.testSensor_temp.addr i → F.testSensor_temp.addr k ≠ g.addr i := by
        intro g hg
        rw [hg]
        simp only [Fld.addr, F.testSensor_temp]
        omega
      obtain ⟨htemp, hvalid⟩ := hu v hv
      exact ⟨Eq.trans (sameRd.refl.sampleSensor temps (hne _ rfl)) htemp,
        (State.flag_congr (sameRd.refl.sampleSensor temps (hne F.testSensor_valid rfl))).trans hvalid⟩) s
  exact hall i hi v h

theorem sameRd.sensorsSampled (h : sameRd g j s0 s) (temps : List (Option (BitVec 10))) (hg : g.addr j < 0x1400100) :
    sameRd g j s0 (s.sensorsSampled temps) := by
  refine h.forN fun i u _ hu => hu.sampleSensor temps (Nat.ne_of_gt (Nat.lt_of_lt_of_le hg ?_))
  simp only [Fld.addr, F.testSensor_temp]
  omega

/-! ### The hottest sensor -/

/-- The place of the greatest of two values by `key`. -/
theorem le_foldl_hottest {key : Nat → Int} {l : List Nat} {a : Nat} :
    key a ≤ key (l.foldl (fun h i => if key h < key i then i else h) a) ∧
      ∀ x ∈ l, key x ≤ key (l.foldl (fun h i => if key h < key i then i else h) a) := by
  induction l generalizing a with
  | nil => exact ⟨le_rfl, fun x hx => absurd hx List.not_mem_nil⟩
  | cons b l ih =>
    obtain ⟨hfirst, hrest⟩ := ih (a := if key a < key b then b else a)
    have hstep : key a ≤ key (if key a < key b then b else a) ∧ key b ≤ key (if key a < key b then b else a) := by
      split <;> constructor <;> omega
    refine ⟨hstep.1.trans hfirst, fun x hx => ?_⟩
    rcases List.mem_cons.1 hx with rfl | hx
    · exact hstep.2.trans hfirst
    · exact hrest x hx

theorem signed_toNat (v : BitVec 10) : signed 10 v.toNat = v.toInt := by
  have hlt := v.isLt
  unfold signed
  rw [BitVec.toInt_eq_toNat_cond, Nat.mod_eq_of_lt hlt]
  dsimp only
  split <;> split <;> omega

/-! ### ALERT (R514) -/

/-- ALERT judged writes ALERT and the log. -/
theorem sameRd.judgeAlert (h : sameRd g j s0 s) (halert : F.testTj_alert.passes 0 g j)
    (hlost : F.chiefLogLost_count.passes 0 g j) : sameRd g j s0 s.judgeAlert := by
  have hset : ∀ on, sameRd g j s0 (s.setAlert on) := by
    intro on
    refine h.andUnless fun h => ?_
    have hlogged : ∀ (u : State) code isl st args, sameRd g j s0 u → sameRd g j s0 (u.log code isl st args) :=
      fun u _ _ _ _ hu => .ite (hu.same rfl) (hu.wrPasses hlost)
    exact (hlogged _ _ _ _ _ (h.wrPasses halert)).andIf fun h => h.same (State.emit_regs ..)
  exact .ite (hset true) ((hset false).ite h)

theorem State.flag_setAlert (s : State) (on : Bool) : (s.setAlert on).flag F.testTj_alert = on := by
  unfold State.setAlert
  split
  · next h => exact eq_of_beq h
  · have hlogged (u : State) code isl st args : (u.log code isl st args).flag F.testTj_alert = u.flag F.testTj_alert :=
      congrArg (· != 0) (State.rd_log _ _ (by decide))
    have hdriven (u : State) : u.driveAlert.flag F.testTj_alert = u.flag F.testTj_alert := by
      unfold State.driveAlert
      split
      · exact State.flag_emit ..
      · rfl
    rw [hdriven, hlogged]
    exact State.flag_wr_b2n on (by decide) rfl

/-- ALERT is set at the threshold. -/
theorem State.flag_judgeAlert (h : 4 * signed 8 (s.rd F.testTherm_alertC) ≤ signed 10 (s.rd F.testTj_tjMax)) :
    s.judgeAlert.flag F.testTj_alert = true := by
  unfold State.judgeAlert
  rw [if_pos (decide_eq_true h)]
  exact s.flag_setAlert true

/-! ### The sample -/

theorem thermalSample_shows {l : List (Option (BitVec 10))} {i : Fin 16} {v : BitVec 10} (hslot : s.inSlot = false)
    (hread : l.getD i none = some v) : answers (.thermalSample l) s (fun t => t.rd F.testSensor_temp i = v.toNat ∧
      t.flag F.testSensor_valid i = true ∧ v.toInt ≤ signed 10 (t.rd F.testTj_tjMax) ∧
      (4 * signed 8 (s.rd F.testTherm_alertC) ≤ v.toInt → t.flag F.testTj_alert = true)) := by
  let u := s.sensorsSampled l
  obtain ⟨htemp, hvalid⟩ : sensorShows i v u := State.sensorsSampled_shows i.isLt hread s
  have hi : i.val ∈ (List.range 16).filter (fun i => u.flag F.testSensor_valid i) :=
    List.mem_filter.2 ⟨List.mem_range.2 i.isLt, hvalid⟩
  cases hgood : (List.range 16).filter (fun i => u.flag F.testSensor_valid i) with
  | nil => exact absurd (hgood ▸ hi) List.not_mem_nil
  | cons a rest =>
    let hot := rest.foldl (fun h i =>
      if signed 10 (u.rd F.testSensor_temp h) < signed 10 (u.rd F.testSensor_temp i) then i else h) a
    let w := (u.wr F.testTj_tjMax 0 (u.rd F.testSensor_temp hot)).wr F.testTj_hot 0 hot
    have hexec : exec (.thermalSample l) s = .next w.judgeAlert := by
      rw [exec_thermalSample, execThermalSample, hslot, if_neg Bool.false_ne_true]
      change (match (List.range 16).filter (fun i => (s.sensorsSampled l).flag F.testSensor_valid i) with
        | [] => _
        | _ :: _ => _) = _
      rw [show (List.range 16).filter (fun i => (s.sensorsSampled l).flag F.testSensor_valid i) = a :: rest from hgood]
      rfl
    have hmax : w.rd F.testTj_tjMax = u.rd F.testSensor_temp hot := by
      simp only [w]
      rw [State.rd_wr_beside (by decide)]
      exact State.rd_wr_fits (by decide) (Nat.lt_of_lt_of_le (State.rd_lt ..) (by decide))
    have hkeep : ∀ g : Fld, g.addr i = F.testSensor_temp.addr i → sameRd g i u w.judgeAlert := by
      intro g hg
      have hne : ∀ a, a < 0x1400100 → a ≠ g.addr i := by
        intro a ha
        rw [hg]
        simp only [Fld.addr, F.testSensor_temp]
        omega
      exact ((sameRd.refl.wr (hne _ (by decide))).wr (hne _ (by decide))).judgeAlert
        (.inl (hne _ (by decide)).symm) (.inl (hne _ (by decide)).symm)
    have hlimit : w.rd F.testTherm_alertC = s.rd F.testTherm_alertC := by
      simp only [w]
      rw [State.rd_wr_beside (by decide), State.rd_wr_beside (by decide)]
      exact sameRd.refl.sensorsSampled l (by decide)
    have hle : v.toInt ≤ signed 10 (u.rd F.testSensor_temp hot) := by
      rw [← signed_toNat, ← htemp]
      obtain ⟨hfirst, hrest⟩ := le_foldl_hottest (key := fun i => signed 10 (u.rd F.testSensor_temp i)) (l := rest) (a := a)
      rcases List.mem_cons.1 (hgood ▸ hi) with hia | hia
      · exact hia ▸ hfirst
      · exact hrest _ hia
    have hshown : w.judgeAlert.rd F.testTj_tjMax = u.rd F.testSensor_temp hot :=
      Eq.trans (sameRd.refl.judgeAlert (.inr (by decide)) (.inl (by decide))) hmax
    refine ⟨w.judgeAlert, hexec, Eq.trans (hkeep _ rfl) htemp, (State.flag_congr (hkeep F.testSensor_valid rfl)).trans hvalid,
      hshown ▸ hle, fun halert => State.flag_judgeAlert ?_⟩
    rw [hmax, hlimit]
    exact halert.trans hle

/-- Settles O41: each command and each sample by what it writes. -/
theorem calibrationAndMonitors : Obligations.CalibrationAndMonitors :=
  ⟨fun _ _ _ => calibrate_moves, fun _ _ _ => calSet_sets, fun _ _ _ _ => thermSet_sets, fun _ _ => testLogClear_clears,
    fun _ _ => recalTimer_moves, fun _ _ => recalDeferExpiry_takes_slot, fun _ _ _ _ => thermalSample_shows,
    fun _ _ _ => supplySample_shows⟩

end Sys2Proof.Machine
end

section
/-! SUPPORT. The output rings (R461, R462, R466): what an entry writes beside its ring's counts, and how PROD and CONS move.
Then O53, and the refutation of O34. -/

namespace Sys2Proof.Machine

variable {s s0 t : State} {f g : Fld} {j k n v : Nat}

theorem sameRd.irq (h : sameRd g j s0 s) (hf : F.msixPba_pending.misses (v / 32) g j) : sameRd g j s0 (s.irq v) :=
  sameRd.trans h (State.rd_irq g j hf)

theorem sameRd.emit (h : sameRd g j s0 s) (o : Output) : sameRd g j s0 (s.emit o) := h.same (State.emit_regs ..)

/-! ### What an entry leaves alone -/

/-- The fields that an entry of a ring writes beside PROD and CONS, each with the number of its instances (R308, R317,
R461, R479). -/
def entryFlds : List (Fld × Nat) :=
  [(F.couchLevels_seamUsed, 1), (F.couchLevels_classQ, 1), (F.couchOutLevel_records, 1), (F.couchOutLevel_crops, 1),
    (F.couchOutLevel_cropsFull, 1), (F.seamStat_held, 11), (F.couchStat_seamHwm, 1), (F.couchStat_classHwm, 1),
    (F.couchStat_outHwm, 1), (F.couchStat_cropHwm, 1), (F.couchCnt_count Cc.cropPartial, 1), (F.statsStat_level, 1),
    (F.laidGapLevel_level, 1), (F.laidGapLevel_hwm, 1), (F.hostCmdOutstanding_outstanding, 1), (F.ringDrop_drop, 6),
    (F.ringCtl_full, 6), (F.msixPba_pending, 2)]

/-- A field of each ring, beside all that an entry writes. -/
def Fld.ofRing (g : Fld) : Bool := entryFlds.all (fun e => e.1.clearOf e.2 g 6)

theorem Fld.ofRing.clearOf (hg : g.ofRing = true) (hf : (f, n) ∈ entryFlds) : f.clearOf n g 6 = true :=
  List.all_eq_true.1 hg _ hf

namespace sameRd

variable (hg : g.ofRing = true) (hj : j < 6)
include hg hj

theorem wrEntry (h : sameRd g j s0 s) (hf : (f, n) ∈ entryFlds) (hk : k < n) : sameRd g j s0 (s.wr f k v) :=
  h.wrClearOf (Fld.ofRing.clearOf hg hf) hk hj

theorem irqPastRing (h : sameRd g j s0 s) (hv : v < 64) : sameRd g j s0 (s.irq v) :=
  .ite (wrEntry (f := F.msixPba_pending) hg hj h (n := 2) (by decide) (by omega)) (h.emit _)

theorem showOutstandingPast (h : sameRd g j s0 s) : sameRd g j s0 s.showOutstanding :=
  wrEntry (n := 1) hg hj h (by decide) (by decide)

theorem showStatsPast (h : sameRd g j s0 s) : sameRd g j s0 s.showStats :=
  wrEntry (n := 1) hg hj h (by decide) (by decide)

theorem showGapsPast (h : sameRd g j s0 s) : sameRd g j s0 s.showGaps := by
  have hlevel := wrEntry (f := F.laidGapLevel_level) (n := 1) (k := 0) (v := s.laid.gaps.length) hg hj h (by decide) (by decide)
  exact hlevel.andIf fun h => wrEntry (n := 1) hg hj h (by decide) (by decide)

theorem showCouchPast (h : sameRd g j s0 s) : sameRd g j s0 s.showCouch := by
  have hone : ∀ {f : Fld} {v : Nat} {u : State}, (f, 1) ∈ entryFlds → sameRd g j s0 u → sameRd g j s0 (u.wr f 0 v) :=
    fun hf hu => wrEntry hg hj hu hf Nat.one_pos
  have hlevels := hone (f := F.couchOutLevel_cropsFull) (v := b2n (decide (256 ≤ s.couch.crops.length))) (by decide) <|
    hone (f := F.couchOutLevel_crops) (v := min 255 s.couch.crops.length) (by decide) <|
    hone (f := F.couchOutLevel_records) (v := s.couch.records.length) (by decide) <|
    hone (f := F.couchLevels_classQ) (v := s.couch.units) (by decide) <|
    hone (f := F.couchLevels_seamUsed) (v := s.couch.held.length) (by decide) h
  have hheld := hlevels.forN (n := 11) (op := fun q u =>
      u.wr F.seamStat_held q (s.couch.held.filter (fun m => m.seams.contains q)).length)
    fun q u hq hu => wrEntry hg hj hu (by decide) hq
  exact (((hheld.andIf (hone (by decide))).andIf (hone (by decide))).andIf (hone (by decide))).andIf (hone (by decide))

/-- The source of a ring below 5, without the entry written. -/
theorem outTakenPast (h : sameRd g j s0 s) (k : Nat) : sameRd g j s0 (s.outTaken k) := by
  unfold State.outTaken
  split
  · exact showOutstandingPast hg hj (h.same rfl)
  · exact showCouchPast hg hj (h.same rfl)
  · exact showStatsPast hg hj (h.same rfl)
  · exact showGapsPast hg hj (h.same rfl)
  · exact h.same rfl

theorem rawCropsPast (h : sameRd g j s0 s) : sameRd g j s0 s.rawCrops := by
  refine h.forAll fun c u _ hu => hu.andUnless fun hu => ?_
  have hcounted : ∀ b : Bool, sameRd g j u (if b then u.couchCount Cc.cropPartial 1 else u) :=
    fun b => hu.andIf fun hu => wrEntry (n := 1) hg hj hu (by decide) (by decide)
  exact (hcounted _).same rfl

theorem dropCropPast (h : sameRd g j s0 s) (seq : Nat) : sameRd g j s0 (s.dropCrop seq) :=
  showCouchPast hg hj (h.same rfl)

theorem showOutPast (h : sameRd g j s0 s) (hk : k < 6) : sameRd g j s0 (s.showOut k) :=
  wrEntry (n := 6) hg hj h (by decide) hk

theorem moderatePast (h : sameRd g j s0 s) (k : Nat) {vec : Nat} (now : Bool) (hvec : vec < 64) :
    sameRd g j s0 (s.moderate k vec now) :=
  .ite (irqPastRing hg hj (h.same rfl) hvec) (h.same rfl)

end sameRd

/-! ### PROD, CONS and SIZE -/

theorem State.outUsed_congr (hprod : sameRd F.ringProd_count k s t) (hcons : sameRd F.ringCons_count k s t) :
    t.outUsed k = s.outUsed k := by
  unfold State.outUsed
  rw [hprod, hcons]

theorem State.outSize_congr (hsize : sameRd F.ringSize_size k s t) : t.outSize k = s.outSize k := by
  unfold State.outSize
  rw [hsize]

/-- `t` holds `n` entries of ring `k`, or bytes of ring 5, more than `s`, in a ring of the same size with the same
reader. -/
structure RingGrows (k n : Nat) (s t : State) : Prop where
  prod : t.rd F.ringProd_count k = (s.rd F.ringProd_count k + n) % 2 ^ 32
  cons : t.rd F.ringCons_count k = s.rd F.ringCons_count k
  size : t.rd F.ringSize_size k = s.rd F.ringSize_size k

/-- An operation that leaves the ring's registers alone keeps what it has grown by. -/
theorem RingGrows.same (h : RingGrows k n s0 s) (ht : ∀ g : Fld, g.ofRing = true → sameRd g k s t) :
    RingGrows k n s0 t where
  prod := Eq.trans (ht F.ringProd_count (by decide)) h.prod
  cons := Eq.trans (ht F.ringCons_count (by decide)) h.cons
  size := Eq.trans (ht F.ringSize_size (by decide)) h.size

theorem RingGrows.after (ht : ∀ g : Fld, g.ofRing = true → sameRd g k s0 s) (h : RingGrows k n s t) :
    RingGrows k n s0 t where
  prod := h.prod.trans (by rw [ht F.ringProd_count (by decide)])
  cons := h.cons.trans (ht F.ringCons_count (by decide))
  size := h.size.trans (ht F.ringSize_size (by decide))

theorem RingGrows.refl : RingGrows k 0 s s where
  prod := (Nat.mod_eq_of_lt (s.rd_lt F.ringProd_count k)).symm
  cons := rfl
  size := rfl

theorem RingGrows.trans {m : Nat} (h : RingGrows k n s0 s) (ht : RingGrows k m s t) : RingGrows k (n + m) s0 t where
  prod := by rw [ht.prod, h.prod, Nat.mod_add_mod, Nat.add_assoc]
  cons := ht.cons.trans h.cons
  size := ht.size.trans h.size

theorem State.outAdvance_grows (s : State) (hk : k < 6) : RingGrows k n s (s.outAdvance k n) := by
  have hpast : ∀ (g : Fld) (u : State) (o : Output), g.ofRing = true → sameRd g k u ((u.showOut k).emit o) :=
    fun g u o hg => (sameRd.refl.showOutPast hg hk hk).emit o
  have hwr : RingGrows k n s (s.wr F.ringProd_count k ((s.rd F.ringProd_count k + n) % 2 ^ 32)) :=
    { prod := State.rd_wr_fits (by decide) (Nat.mod_lt _ (by decide))
      cons := State.rd_wr_clearOf (n := 6) (m := 6) (by decide) hk hk
      size := State.rd_wr_clearOf (n := 6) (m := 6) (by decide) hk hk }
  exact hwr.same fun g hg => hpast g _ _ hg

theorem powerWithin_le {lo hi m : Nat} (hpos : 0 < lo) (hlo : lo ≤ hi) : powerWithin lo hi m ≤ hi := by
  unfold powerWithin
  split
  · exact hlo
  · next hlow =>
    split
    · exact le_rfl
    · next hhigh => exact (Nat.log2_self_le (by omega)).trans (Nat.le_of_not_lt hhigh)

theorem State.outSize_lt (s : State) (k : Nat) : s.outSize k < 2 ^ 32 := by
  unfold State.outSize
  split
  · exact (powerWithin_le (by decide) (by decide)).trans_lt (by decide)
  · exact (powerWithin_le (by decide) (by decide)).trans_lt (by decide)

/-- What a ring holds once it has grown within its size. -/
theorem RingGrows.fits (h : RingGrows k n s t) (hfit : s.outUsed k + n ≤ s.outSize k) : t.outUsed k = s.outUsed k + n := by
  have hsize := hfit.trans_lt (s.outSize_lt k)
  have hp : s.rd F.ringProd_count k < 2 ^ 32 := s.rd_lt ..
  have hc : s.rd F.ringCons_count k < 2 ^ 32 := s.rd_lt ..
  rw [State.outUsed] at hsize
  rw [State.outUsed, h.prod, h.cons, State.outUsed]
  omega

/-- An entry's way: nothing is written, or the ring grows within its size. -/
def RingFits (k : Nat) (s t : State) : Prop := ∃ n, RingGrows k n s t ∧ (n = 0 ∨ s.outUsed k + n ≤ s.outSize k)

theorem RingFits.used (h : RingFits k s t) (hs : s.outUsed k ≤ s.outSize k) : t.outUsed k ≤ t.outSize k := by
  obtain ⟨n, hgrow, hn⟩ := h
  have hfit : s.outUsed k + n ≤ s.outSize k := by
    rcases hn with rfl | hn
    · rwa [Nat.add_zero]
    · exact hn
  rw [hgrow.fits hfit, State.outSize_congr hgrow.size]
  exact hfit

theorem State.writeEntry_full (hfull : s.outSize k < s.outUsed k + 1) : s.writeEntry k = s := by
  unfold State.writeEntry
  split
  · rfl
  · rw [if_pos (by simp [hfull])]

theorem State.writeEntry_fits (s : State) (hk : k < 6) : RingFits k s (s.writeEntry k) := by
  unfold State.writeEntry
  split
  · exact ⟨0, .refl, .inl rfl⟩
  · next e he =>
    split
    · exact ⟨0, .refl, .inl rfl⟩
    · next hopen =>
      have hfit : s.outUsed k + 1 ≤ s.outSize k := by
        simp only [Bool.or_eq_true, decide_eq_true_eq, not_or] at hopen
        omega
      have htaken : ∀ o, RingGrows k 1 s (((s.emit o).outTaken k).outAdvance k 1) := fun o =>
        .after (fun g hg => (sameRd.refl.emit o).outTakenPast hg hk k) (State.outAdvance_grows _ hk)
      exact ⟨1, (htaken _).same fun g hg => sameRd.refl.moderatePast hg hk k _ (by split <;> omega), .inr hfit⟩

/-- The pad before a crop that would run past the end (R466). -/
theorem State.pad_grows (s : State) (pad : Nat) (o : Output) :
    RingGrows 5 pad s (if pad == 0 then s else (s.emit o).outAdvance 5 pad) := by
  split
  · next h =>
    rw [eq_of_beq h]
    exact .refl
  · exact .after (fun g hg => sameRd.refl.emit o) (State.outAdvance_grows _ (by decide))

theorem State.writeCrop_fits (s : State) (piece : Nat) : RingFits 5 s (s.writeCrop piece) := by
  have hraw : ∀ g : Fld, g.ofRing = true → sameRd g 5 s s.rawCrops := fun g hg => sameRd.refl.rawCropsPast hg (by decide)
  have hnone : RingGrows 5 0 s s.rawCrops := RingGrows.refl.same hraw
  unfold State.writeCrop
  extract_lets u size p toEnd
  split
  · exact ⟨0, hnone, .inl rfl⟩
  · next c d hcrop =>
    extract_lets pad hdr u1 place part u2 sent
    split
    · exact ⟨0, hnone, .inl rfl⟩
    · split
      · exact ⟨0, hnone.same fun g hg => (sameRd.refl.dropCropPast hg (by decide) _).wrEntry hg (by decide) (n := 6)
          (by decide) (by decide), .inl rfl⟩
      · split
        · exact ⟨0, hnone, .inl rfl⟩
        · next hroom =>
          have hfit : s.outUsed 5 + (pad + d.length) ≤ s.outSize 5 := by
            rw [← State.outUsed_congr (hraw _ (by decide)) (hraw _ (by decide)), ← State.outSize_congr (hraw _ (by decide)),
              ← Nat.add_assoc]
            exact Nat.le_of_not_lt hroom
          have hpad : RingGrows 5 pad s u2 :=
            (RingGrows.after hraw (u.pad_grows pad _)).same fun g hg => sameRd.refl.emit _
          split
          · exact ⟨pad, hpad.same fun g hg => sameRd.refl.same rfl, .inr (by omega)⟩
          · have hwhole := (hpad.same fun g hg => sameRd.refl.dropCropPast hg (by decide) c.seq).trans
              (State.outAdvance_grows _ (n := d.length) (by decide))
            exact ⟨pad + d.length, hwhole.same fun g hg => sameRd.refl.moderatePast hg (by decide) 5 false (by decide),
              .inr hfit⟩

/-! ### O53 -/

theorem ringConsWrite_bounds (k : Fin 6) (v : Word) : answers (.ringConsWrite k v) s (fun t =>
    if (v.toNat + 2 ^ 32 - s.rd F.ringCons_count k) % 2 ^ 32 ≤ (s.rd F.ringProd_count k + 2 ^ 32 -
        s.rd F.ringCons_count k) % 2 ^ 32
    then t.rd F.ringCons_count k = v.toNat
    else t.rd F.ringCons_count k = s.rd F.ringCons_count k ∧ t.flag F.ringCtl_consErr k = true) := by
  by_cases hfit : (v.toNat + 2 ^ 32 - s.rd F.ringCons_count k) % 2 ^ 32 ≤ s.outUsed k
  · rw [State.outUsed] at hfit
    refine ⟨(s.wr F.ringCons_count k v.toNat).showOut k, if_pos hfit, (if_pos hfit).mpr ?_⟩
    rw [State.showOut, State.rd_wr_beside_fin (by decide)]
    exact State.rd_wr_fits (by decide) v.isLt
  · rw [State.outUsed] at hfit
    refine ⟨(s.up F.ringCtl_consErr k).irq 7, if_neg hfit, (if_neg hfit).mpr ?_⟩
    have hirq : ∀ g : Fld, F.msixPba_pending.far 2 g 6 = true →
        sameRd g k (s.up F.ringCtl_consErr k) ((s.up F.ringCtl_consErr k).irq 7) :=
      fun g hg => sameRd.refl.irq (Fld.misses.of_far_fields (n := 2) (by decide) k.isLt hg)
    exact ⟨Eq.trans (hirq F.ringCons_count (by decide)) (State.rd_wr_beside_fin (by decide)),
      (State.flag_congr (hirq F.ringCtl_consErr (by decide))).trans (State.flag_up_self (by decide) (by decide))⟩

/-- Settles O53: an entry's way grows its ring within SIZE or not at all. -/
theorem ringsHoldTheirBounds : Obligations.RingsHoldTheirBounds := by
  refine ⟨fun s t k hk hexec hfull => ?_, fun s t k hexec hfit => ?_, fun s k v => ringConsWrite_bounds k v⟩
  · rw [exec_ringEntryWrite, execRingEntryWrite, if_neg (by simpa using hk), State.writeEntry_full hfull] at hexec
    cases hexec
    exact ⟨rfl, rfl⟩
  · refine RingFits.used ?_ hfit
    rw [exec_ringEntryWrite, execRingEntryWrite] at hexec
    split at hexec
    · next h5 =>
      cases hexec
      rw [eq_of_beq h5]
      exact s.writeCrop_fits _
    · cases hexec
      exact s.writeEntry_fits k.isLt

/-! ### O34 -/

/-- GEN has 3 bits: a link of generation 8 shows 0. -/
theorem hostStat_gen_of_pcieLinkUp (w : BitVec 4) (h : exec (.pcieLinkUp 8 w) s = .next t) : t.rd F.hostStat_gen 0 = 0 := by
  cases h
  rw [State.up, State.rd_wr_beside (by decide), State.rd_wr_beside (by decide)]
  exact State.rd_wr_self _ _ _ _ (by decide)

/-- Refutes O34: GEN of HOST_STAT has 3 bits, so a link that comes up with generation 8, which PCIE_LINK_UP does not shut
out, shows GEN 0. -/
theorem not_hostRingsServe : ¬ Obligations.HostRingsServe := by
  unfold Obligations.HostRingsServe
  intro ⟨_, _, _, _, _, _, _, _, _, _, hlink, _⟩
  obtain ⟨t, hexec, _, hgen, _⟩ := hlink State.reset 8 8
  rw [hostStat_gen_of_pcieLinkUp 8 hexec] at hgen
  exact absurd hgen (by decide)

end Sys2Proof.Machine
end

section
/-! SUPPORT. Jobs, bands and the Mould (R326 to R335, R343): what the Mould's waiting, a result and a job's failure change. -/

namespace Sys2Proof.Machine

variable {s s0 t : State} {f g : Fld} {i j k n : Nat} {α : Type} {v : State → α}

/-- A view of none of what is only shown: registers, the event log's queue, outputs. -/
def Unshown (v : State → α) : Prop := ∀ u r q o, v { u with regs := r, logQueue := q, out := o } = v u

theorem Unshown.eq (hv : Unshown v) (h : Shows s t) : v t = v s := h.view v hv
theorem Unshown.wr (hv : Unshown v) (f : Fld) (i n : Nat) : v (s.wr f i n) = v s := hv.eq ((Shows.refl s).wr f i n)
theorem Unshown.count (hv : Unshown v) (f : Fld) (i n : Nat) : v (s.count f i n) = v s := hv.wr f i _
theorem Unshown.event (hv : Unshown v) (p w isl : Nat) : v (s.event p w isl) = v s := hv.eq ((Shows.refl s).event p w isl)

/-- Single registers, each beside the field `g`. -/
def Fld.besideAll (g : Fld) (l : List Fld) : Bool := l.all (fun f => f.clearOf 1 g 1)

theorem sameRd.wrAmong {l : List Fld} {n : Nat} (h : sameRd g 0 s0 s) (hg : g.besideAll l = true) (hf : f ∈ l) :
    sameRd g 0 s0 (s.wr f 0 n) := h.wrClearOf (List.all_eq_true.1 hg f hf) Nat.one_pos Nat.one_pos

/-! ### The Mould waits (R343) -/

/-- The band last counted as starved. -/
def State.starve (s : State) (inst b : Nat) : State :=
  if s.mould.starved == some (inst, b) then s else
  { s.count (F.mouldCnt_count Mc.starved) 0 1 with mould.starved := some (inst, b) }

/-- The Mould's wait shows a state, and may count a band as starved. -/
theorem State.mouldLook_cases (s : State) : (∃ n, s.mouldLook = s.wr F.mouldStat_state 0 n) ∨
    ∃ inst b n, s.mouldLook = (s.starve inst b).wr F.mouldStat_state 0 n := by
  unfold State.mouldLook
  split
  · exact .inl ⟨1, rfl⟩
  split
  · exact .inl ⟨0, rfl⟩
  split
  · split
    · exact .inl ⟨2, rfl⟩
    split
    · exact .inl ⟨0, rfl⟩
    · exact .inl ⟨0, rfl⟩
    · exact .inr ⟨_, _, 3, rfl⟩
  · split
    · split
      · exact .inl ⟨2, rfl⟩
      · exact .inr ⟨_, _, 3, rfl⟩
    · exact .inl ⟨0, rfl⟩

/-- A view of neither the Mould's starved band nor what is shown. -/
theorem State.mouldLook_view (hv : Unshown v) (hx : ∀ u x, v { u with mould.starved := x } = v u) (s : State) :
    v s.mouldLook = v s := by
  rcases s.mouldLook_cases with ⟨n, h⟩ | ⟨inst, b, n, h⟩
  · rw [h, hv.wr]
  · rw [h, hv.wr, State.starve]
    split
    · rfl
    · exact (hx _ _).trans (hv.count _ _ _)

theorem State.layout_mouldLook (s : State) : s.mouldLook.layout = s.layout :=
  State.mouldLook_view (v := State.layout) (fun _ _ _ _ => rfl) (fun _ _ => rfl) s

/-- What the Mould's wait writes. -/
def lookFlds : List Fld := [F.mouldStat_state, F.mouldCnt_count Mc.starved]

theorem sameRd.mouldLook (h : sameRd g 0 s0 s) (hg : g.besideAll lookFlds = true) : sameRd g 0 s0 s.mouldLook := by
  rcases s.mouldLook_cases with ⟨n, he⟩ | ⟨inst, b, n, he⟩
  · rw [he]
    exact h.wrAmong hg (by decide)
  · rw [he]
    have hcounted : sameRd g 0 s0 (s.starve inst b) :=
      h.andUnless fun h => sameRd.same (h.wrAmong hg (by decide)) rfl
    exact hcounted.wrAmong hg (by decide)

/-! ### Results (R335) -/

/-- What the head result shows. -/
def resultFlds : List Fld :=
  [F.layoutResultTag_tag, F.layoutResult_code, F.layoutResult_cause, F.layoutResult_source, F.layoutResult_level,
    F.layoutResultBands_bandsOk, F.layoutResultBands_bandsBad, F.layoutResultJobid_jobId,
    F.layoutCnt_count Yc.resultLost]

theorem State.showResult_shows (s : State) : Shows s s.showResult :=
  ((((((((Shows.refl s).wr _ _ _).wr _ _ _).wr _ _ _).wr _ _ _).wr _ _ _).wr _ _ _).wr _ _ _).wr _ _ _

theorem sameRd.showResult (h : sameRd g 0 s0 s) (hg : g.besideAll resultFlds = true) : sameRd g 0 s0 s.showResult := by
  have hwr : ∀ {f : Fld} {n : Nat} {u : State}, f ∈ resultFlds → sameRd g 0 s0 u → sameRd g 0 s0 (u.wr f 0 n) :=
    fun hf hu => hu.wrAmong hg hf
  exact hwr (by decide) <| hwr (by decide) <| hwr (by decide) <| hwr (by decide) <| hwr (by decide) <|
    hwr (by decide) <| hwr (by decide) <| hwr (by decide) h

/-- A result as its FIFO holds it. -/
def Job.result (j : Job) (code cause ok bad : Nat) : JobResult :=
  ⟨if j.network then j.jobId else j.tag, code, cause, j.network, ok, bad, j.jobId⟩

/-- The FIFO with a result, where there is room. -/
def State.withResult (s : State) (r : JobResult) : State :=
  if 64 ≤ s.layout.results.length then s.count (F.layoutCnt_count Yc.resultLost) 0 1 else
  { s with layout.results := s.layout.results ++ [r] }

theorem State.postResult_shows (s : State) (j : Job) (code cause ok bad : Nat) :
    Shows (s.withResult (j.result code cause ok bad)) (s.postResult j code cause ok bad) :=
  ((State.showResult_shows _).event _ _ _).andUnless fun h => h.event _ _ _

theorem sameRd.postResult (h : sameRd g 0 s0 s) (hg : g.besideAll resultFlds = true) (j : Job) (code cause ok bad : Nat) :
    sameRd g 0 s0 (s.postResult j code cause ok bad) := by
  have hwith : sameRd g 0 s0 (s.withResult (j.result code cause ok bad)) := .ite (h.wrAmong hg (by decide)) (h.same rfl)
  exact ((hwith.showResult hg).event _ _ _).andUnless fun h => h.event _ _ _

/-- A view of neither the results nor what is shown. -/
theorem State.postResult_view (hv : Unshown v) (hr : ∀ u l, v { u with layout.results := l } = v u) (s : State) (j : Job)
    (code cause ok bad : Nat) : v (s.postResult j code cause ok bad) = v s := by
  refine (hv.eq (s.postResult_shows j code cause ok bad)).trans ?_
  unfold State.withResult
  split
  · exact hv.count _ _ _
  · exact hr _ _

/-- The FIFO of results once one is posted (R335). -/
def Layout.posted (l : Layout) (r : JobResult) : Layout :=
  { l with results := if 64 ≤ l.results.length then l.results else l.results ++ [r] }

theorem State.layout_postResult (s : State) (j : Job) (code cause ok bad : Nat) :
    (s.postResult j code cause ok bad).layout = s.layout.posted (j.result code cause ok bad) := by
  refine ((s.postResult_shows j code cause ok bad).view State.layout fun _ _ _ _ => rfl).trans ?_
  unfold State.withResult Layout.posted
  split <;> rfl

/-! ### A job fails (R332 to R335) -/

theorem State.job_mem {id : Nat} {j : Job} (h : s.job id = some j) : j.id = id :=
  eq_of_beq (List.find?_some (p := fun x : Job => x.id == id) h)

theorem State.job_single {j : Job} (h : s.layout.jobs = [j]) : s.job j.id = some j := by
  unfold State.job
  rw [h]
  exact List.find?_cons_of_pos (beq_self_eq_true j.id)

theorem State.setJob_single {j x : Job} (h : s.layout.jobs = [x]) (hid : x.id = j.id) : (s.setJob j).layout.jobs = [j] := by
  simp [State.setJob, h, hid]

/-- A failed job whose result is posted. -/
def State.failCounted (s : State) (j : Job) (cause : Nat) : State :=
  let s := s.setJob { j with stage := .failed cause, out := none, body := none }
  let s := s.count (F.layoutCnt_count Yc.jobFail) 0 1
  let s := if layoutStatus cause == St.authFail then s.count (F.layoutCnt_count Yc.authFail) 0 1 else s
  s.postResult j (layoutStatus cause) cause 0 0

/-- The checks and the engine left by the job that failed. -/
def State.leaveCur (s : State) (id : Nat) : State :=
  if s.layout.cur == some id then { s with layout.cur := none }.wr F.layoutStat_state 0 0 else s

/-- A failed job without a place in the order of the stripe is gone. -/
def State.dropUnordered (s : State) (id : Nat) : State := if s.layout.order.contains id then s else s.dropJob id

theorem State.jobFail_eq {id cause : Nat} {j : Job} (h : s.job id = some j) :
    s.jobFail id cause = (((s.failCounted j cause).leaveCur id).dropUnordered id).mouldLook := by
  unfold State.jobFail
  rw [h]
  rfl

theorem State.layout_failCounted (s : State) (j : Job) (cause : Nat) : (s.failCounted j cause).layout =
    (s.setJob { j with stage := .failed cause, out := none, body := none }).layout.posted
      (j.result (layoutStatus cause) cause 0 0) := by
  unfold State.failCounted
  dsimp only
  rw [State.layout_postResult]
  split <;> rfl

/-- What a failed job shows, beside the counts of failures. -/
def failFlds : List Fld := F.layoutStat_state :: F.layoutCnt_count Yc.jobFail :: lookFlds ++ resultFlds

theorem sameRd.leaveDrop {id : Nat} (h : sameRd g 0 s0 s) (hg : g.besideAll failFlds = true) :
    sameRd g 0 s0 ((s.leaveCur id).dropUnordered id).mouldLook := by
  have hleft : sameRd g 0 s0 (s.leaveCur id) := h.andIf fun h => sameRd.wrAmong (h.same rfl) hg (by decide)
  have hdrop : sameRd g 0 s0 ((s.leaveCur id).dropUnordered id) := hleft.andUnless fun h => h.same rfl
  exact hdrop.mouldLook (List.all_eq_true.2 fun f hf =>
    List.all_eq_true.1 hg f (List.mem_append_left _ (List.mem_cons_of_mem _ (List.mem_cons_of_mem _ hf))))

/-- A failure of the tag or of a key is counted (R332). -/
theorem State.rd_authFail_jobFail {id cause : Nat} {j : Job} (h : s.job id = some j)
    (hauth : layoutStatus cause = St.authFail) : (s.jobFail id cause).rd (F.layoutCnt_count Yc.authFail) 0 =
      satAdd 32 (s.rd (F.layoutCnt_count Yc.authFail) 0) 1 := by
  rw [State.jobFail_eq h]
  refine Eq.trans (sameRd.refl.leaveDrop (by decide)) ?_
  unfold State.failCounted
  rw [hauth]
  refine Eq.trans (sameRd.refl.postResult (by decide) _ _ _ _ _) ?_
  refine (State.rd_count_self (by decide) (by decide)).trans ?_
  rw [State.count, State.rd_wr_beside (by decide)]
  rfl

/-- The current job's failure ends its checks and leaves the queue alone. -/
theorem State.jobFail_cur {id cause : Nat} {j : Job} (h : s.job id = some j) (hcur : s.layout.cur = some id) :
    (s.jobFail id cause).layout.cur = none ∧ (s.jobFail id cause).layout.queue = s.layout.queue ∧
    (s.jobFail id cause).layout.results = (s.layout.posted (j.result (layoutStatus cause) cause 0 0)).results := by
  have hl := s.layout_failCounted j cause
  have hc : (s.failCounted j cause).layout.cur = some id := by
    rw [hl]
    exact hcur
  rw [State.jobFail_eq h, State.layout_mouldLook]
  have hleft : ((s.failCounted j cause).leaveCur id).layout = { (s.failCounted j cause).layout with cur := none } := by
    unfold State.leaveCur
    rw [hc, if_pos (beq_self_eq_true _)]
    rfl
  have hdrop : ∀ u : State, (u.dropUnordered id).layout.cur = u.layout.cur ∧
      (u.dropUnordered id).layout.queue = u.layout.queue ∧ (u.dropUnordered id).layout.results = u.layout.results := by
    intro u
    unfold State.dropUnordered State.dropJob
    split <;> exact ⟨rfl, rfl, rfl⟩
  obtain ⟨hdcur, hdqueue, hdresults⟩ := hdrop ((s.failCounted j cause).leaveCur id)
  rw [hdcur, hdqueue, hdresults, hleft, hl]
  exact ⟨rfl, rfl, rfl⟩

end Sys2Proof.Machine
end

section
/-! SUPPORT. The layout ingress (R325, R326, R329, R331 to R335): one lemma per clause of O23. -/

namespace Sys2Proof.Machine

variable {s : State} {j : Job} {id base kek : Nat} {b : Bytes} {rest : List Nat}

/-- What the start of a job's checks shows. -/
def startFlds : List Fld := [F.layoutStat_queued, F.layoutStat_free, F.layoutStat_state]

theorem layoutSubmit_queues (tag : Word) (himage : s.exposeImage = true) (hmode : s.mode ∈ [Md.configure, Md.expose])
    (hroom : s.layout.queue.length < 64) : answers (.layoutSubmit tag) s (fun t =>
      t.layout.queue = s.layout.queue ++ [s.layout.nextId] ∧ (t.job s.layout.nextId).isSome = true ∧
      t.rd (F.layoutCnt_count Yc.jobs) = satAdd 32 (s.rd (F.layoutCnt_count Yc.jobs)) 1) := by
  have hserved : (!s.exposeImage || !(s.mode == Md.configure || s.mode == Md.expose)) = false := by
    simp only [List.mem_cons, List.not_mem_nil, or_false] at hmode
    rcases hmode with hmode | hmode <;> simp [himage, hmode]
  obtain ⟨t, hexec, ht⟩ : ∃ t, exec (.layoutSubmit tag) s = .next t ∧ ∃ j : Job, j.id = s.layout.nextId ∧
      t = State.showQueue { s.count (F.layoutCnt_count Yc.jobs) 0 1 with
        layout.nextId := s.layout.nextId + 1, layout.jobs := s.layout.jobs ++ [j]
        layout.queue := s.layout.queue ++ [s.layout.nextId] } := by
    rw [exec_layoutSubmit, execLayoutSubmit, hserved, if_neg Bool.false_ne_true]
    dsimp only
    rw [if_neg (by omega)]
    exact ⟨_, rfl, _, rfl, rfl⟩
  obtain ⟨j, hid, rfl⟩ := ht
  refine ⟨_, hexec, rfl, ?_, ?_⟩
  · exact List.find?_isSome.2 ⟨j, List.mem_append_right _ (List.mem_singleton.2 rfl), beq_iff_eq.2 hid⟩
  · have hwr : ∀ {f : Fld} {n : Nat} {u x : State}, f ∈ startFlds → sameRd (F.layoutCnt_count Yc.jobs) 0 u x →
        sameRd (F.layoutCnt_count Yc.jobs) 0 u (x.wr f 0 n) := fun hf hx => hx.wrAmong (by decide) hf
    have hshown : ∀ u : State, sameRd (F.layoutCnt_count Yc.jobs) 0 u u.showQueue := fun u =>
      hwr (by decide) (hwr (by decide) sameRd.refl)
    refine Eq.trans (hshown _) ?_
    refine (State.rd_congr (s := s.count (F.layoutCnt_count Yc.jobs) 0 1) rfl _ _).trans ?_
    exact State.rd_count_self (by decide) (by decide)

theorem layoutStagedEnqueue_queues (hstaged : s.layout.staged = id :: rest) (hroom : s.layout.queue.length < 64) :
    answers .layoutStagedEnqueue s (fun t => t.layout.staged = rest ∧ t.layout.queue = s.layout.queue ++ [id]) := by
  refine ⟨s.enqueueStaged, rfl, ?_⟩
  unfold State.enqueueStaged
  rw [hstaged]
  dsimp only
  rw [if_neg (by omega)]
  exact ⟨rfl, rfl⟩

/-- A job taken from the queue (R326). -/
def State.jobStarted (s : State) (id : Nat) (rest : List Nat) : State :=
  { s with layout.queue := rest, layout.cur := some id }.showQueue.wr F.layoutStat_state 0 1

theorem State.layout_jobStarted (s : State) (id : Nat) (rest : List Nat) :
    (s.jobStarted id rest).layout = { s.layout with queue := rest, cur := some id } := by
  have hv : Unshown State.layout := fun _ _ _ _ => rfl
  unfold State.jobStarted State.showQueue
  rw [hv.wr, hv.wr, hv.wr]

/-- A network job's key is unwrapped, or the job fails (R332). -/
theorem layoutJobStart_unwraps (hmode : s.mode = Md.expose) (hen : s.flag F.layoutCtl_enable = true)
    (hcur : s.layout.cur = none) (hqueue : s.layout.queue = [j.id]) (hjobs : s.layout.jobs = [j])
    (hnet : j.network = true) (hstage : j.stage = .queued) (hbody : j.body = some b) (hslot : j.slot < 16)
    (hkek : Sparse.get (fun _ => none) s.layoutKeys j.slot = some kek) :
    answers .layoutJobStart s (fun t => t.layout.queue = [] ∧
      match keyUnwrap kek (beAt (b.take 128) 52 40) with
      | some k => t.layout.cur = some j.id ∧ t.layout.jobs = [{ j with key := k, stage := .waitOut }]
      | none => t.layout.cur = none ∧
          t.rd (F.layoutCnt_count Yc.authFail) = satAdd 32 (s.rd (F.layoutCnt_count Yc.authFail)) 1) := by
  let u := (s.jobStarted j.id []).wr F.layoutStat_state 0 2
  have hexec : exec .layoutJobStart s = .next (u.keyOpened j (keyUnwrap kek (beAt (b.take 128) 52 40))).mouldLook := by
    have hjob : (s.jobStarted j.id []).job j.id = some j := State.job_single (by rw [s.layout_jobStarted j.id [], hjobs])
    rw [exec_layoutJobStart, execLayoutJobStart, hmode, hen, hcur, hqueue]
    change (match (s.jobStarted j.id []).job j.id with
      | none => _
      | some _ => _) = _
    rw [hjob]
    dsimp only
    rw [if_pos hnet, hstage, hbody, Option.getD_some]
    have hchecks : (s.jobStarted j.id []).keyChecks j (b.take 128) =
        u.keyOpened j (keyUnwrap kek (beAt (b.take 128) 52 40)) := by
      have hv : Unshown State.layoutKeys := fun _ _ _ _ => rfl
      have hkeys : ((s.jobStarted j.id []).wr F.layoutStat_state 0 2).layoutKeys = s.layoutKeys := by
        unfold State.jobStarted State.showQueue
        rw [hv.wr, hv.wr, hv.wr, hv.wr]
      unfold State.keyChecks
      dsimp only
      rw [if_pos hslot, hkeys, hkek]
    exact congrArg (fun x => Host.Outcome.next x.mouldLook) hchecks
  have hl : u.layout = { s.layout with queue := [], cur := some j.id } :=
    (Unshown.wr (v := State.layout) (fun _ _ _ _ => rfl) _ _ _).trans (s.layout_jobStarted j.id [])
  have hujobs : u.layout.jobs = [j] := by rw [hl, hjobs]
  refine ⟨_, hexec, ?_⟩
  dsimp only
  rw [State.layout_mouldLook]
  cases keyUnwrap kek (beAt (b.take 128) 52 40) with
  | none =>
    obtain ⟨hc, hq, _⟩ := State.jobFail_cur (cause := Lc.unwrap) (State.job_single hujobs) (by rw [hl])
    have hcount : (u.jobFail j.id Lc.unwrap).mouldLook.rd (F.layoutCnt_count Yc.authFail) =
        satAdd 32 (u.rd (F.layoutCnt_count Yc.authFail)) 1 :=
      Eq.trans (sameRd.refl.mouldLook (by decide)) (State.rd_authFail_jobFail (State.job_single hujobs) rfl)
    have hold : sameRd (F.layoutCnt_count Yc.authFail) 0 s u := by
      have hwr : ∀ {f : Fld} {n : Nat} {x : State}, f ∈ startFlds → sameRd (F.layoutCnt_count Yc.authFail) 0 s x →
          sameRd (F.layoutCnt_count Yc.authFail) 0 s (x.wr f 0 n) := fun hf hx => hx.wrAmong (by decide) hf
      exact hwr (by decide) <| hwr (by decide) <| hwr (by decide) <| hwr (by decide) <| sameRd.refl.same rfl
    refine ⟨hq.trans (by rw [hl]), hc, hcount.trans ?_⟩
    rw [hold]
  | some k =>
    have hopened : (u.keyOpened j (some k)).layout = (u.setJob { j with key := k, stage := .waitOut }).layout := by
      unfold State.keyOpened
      dsimp only
      split <;> rfl
    dsimp only
    rw [hopened]
    exact ⟨congrArg Layout.queue hl, congrArg Layout.cur hl, State.setJob_single hujobs rfl⟩

theorem layoutJobStart_refuses (hmode : s.mode = Md.expose) (hen : s.flag F.layoutCtl_enable = true)
    (hcur : s.layout.cur = none) (hqueue : s.layout.queue = [j.id]) (hjobs : s.layout.jobs = [j])
    (hnet : j.network = false) (hlen : j.len < 144) (hresults : s.layout.results = []) :
    answers .layoutJobStart s (fun t => t.layout.cur = none ∧
      t.layout.results = [⟨j.tag, layoutStatus Lc.length, Lc.length, false, 0, 0, j.jobId⟩]) := by
  let u := s.jobStarted j.id []
  have hexec : exec .layoutJobStart s = .next (u.jobFail j.id Lc.length) := by
    have hjob : u.job j.id = some j := State.job_single (by rw [s.layout_jobStarted j.id [], hjobs])
    rw [exec_layoutJobStart, execLayoutJobStart, hmode, hen, hcur, hqueue]
    change (match u.job j.id with
      | none => _
      | some _ => _) = _
    rw [hjob]
    dsimp only
    rw [hnet, if_neg Bool.false_ne_true, if_pos (by simp [hlen])]
    rfl
  have hl := s.layout_jobStarted j.id []
  obtain ⟨hc, _, hr⟩ := State.jobFail_cur (s := u) (cause := Lc.length) (State.job_single (by rw [hl, hjobs])) (by rw [hl])
  have hposted : (u.layout.posted (j.result (layoutStatus Lc.length) Lc.length 0 0)).results =
      [⟨j.tag, layoutStatus Lc.length, Lc.length, false, 0, 0, j.jobId⟩] := by
    rw [hl, Layout.posted, Job.result, hnet, hresults]
    rfl
  exact ⟨_, hexec, hc, hr.trans hposted⟩

theorem layoutDecryptStart_takes (hcur : s.layout.cur = some j.id) (hjobs : s.layout.jobs = [j])
    (hstage : j.stage = .waitOut) (hspace : s.outputSpace j.plainLen = some base) :
    answers .layoutDecryptStart s (fun t =>
      t.layout.jobs = [{ j with stage := .decrypt, out := some base }] ∧ t.rd F.layoutStat_state = 3) := by
  refine ⟨(s.setJob { j with stage := .decrypt, out := some base }).wr F.layoutStat_state 0 3, ?_,
    State.setJob_single hjobs rfl, State.rd_wr_fits (by decide) (by decide)⟩
  rw [exec_layoutDecryptStart, execLayoutDecryptStart, hcur, Option.bind_some, State.job_single hjobs]
  simp [hstage, hspace]

theorem layoutJobVerified_decides (hcur : s.layout.cur = some j.id) (hjobs : s.layout.jobs = [j])
    (hstage : j.stage = .decrypt) (hend : j.codecEnd = some (none, j.plainLen)) (hbytes : s.jobBytes j 0 j.total = some b) :
    answers .layoutJobVerified s (fun t => t.layout.cur = none ∧
      if gcmTag j.key (beAt b 40 12) (b.take (128 + 8 * j.count)) (sub b (128 + 8 * j.count) j.cipherLen) =
        beAt b (128 + 8 * j.count + j.cipherLen) 16
      then t.layout.jobs = [{ j with stage := .verified, table := sub b 128 (8 * j.count), body := none }]
      else t.rd (F.layoutCnt_count Yc.authFail) = satAdd 32 (s.rd (F.layoutCnt_count Yc.authFail)) 1) := by
  have hhead : s.layout.cur.bind s.job = some j := by rw [hcur, Option.bind_some, State.job_single hjobs]
  have hexec : exec .layoutJobVerified s = .next (
      if gcmTag j.key (beAt b 40 12) (b.take (128 + 8 * j.count)) (sub b (128 + 8 * j.count) j.cipherLen) !=
        beAt b (128 + 8 * j.count + j.cipherLen) 16
      then s.jobFail j.id Lc.tag
      else State.mouldLook (State.wr { s.setJob { j with stage := .verified, table := sub b 128 (8 * j.count), body := none } with
        layout.cur := none } F.layoutStat_state 0 0)) := by
    rw [exec_layoutJobVerified, execLayoutJobVerified, hhead]
    dsimp only
    rw [hend]
    dsimp only
    rw [hstage, if_neg (by decide), hbytes]
    dsimp only
    rw [if_neg (by decide)]
    split
    · rfl
    · rw [if_neg (by simp)]
  refine ⟨_, hexec, ?_⟩
  split
  · next htag =>
    have hne : ¬ gcmTag j.key (beAt b 40 12) (b.take (128 + 8 * j.count)) (sub b (128 + 8 * j.count) j.cipherLen) =
        beAt b (128 + 8 * j.count + j.cipherLen) 16 := by simpa using htag
    rw [if_neg hne]
    obtain ⟨hc, _, _⟩ := State.jobFail_cur (cause := Lc.tag) (State.job_single hjobs) hcur
    exact ⟨hc, State.rd_authFail_jobFail (State.job_single hjobs) rfl⟩
  · next htag =>
    have heq : gcmTag j.key (beAt b 40 12) (b.take (128 + 8 * j.count)) (sub b (128 + 8 * j.count) j.cipherLen) =
        beAt b (128 + 8 * j.count + j.cipherLen) 16 := by simpa using htag
    rw [if_pos heq, State.layout_mouldLook]
    exact ⟨rfl, State.setJob_single hjobs rfl⟩

theorem layoutResultPop_pops : answers .layoutResultPop s (fun t => t.layout.results = s.layout.results.tail) :=
  ⟨_, rfl, congrArg Layout.results ((State.showResult_shows _).view State.layout fun _ _ _ _ => rfl)⟩

theorem stripeReset_resets : answers .stripeReset s (fun t =>
    t.rd F.layoutExpectBand_value = 0 ∧ t.layout.ended = false) :=
  ⟨s.stripeReset, rfl, State.rd_wr_self s F.layoutExpectBand_value 0 0 (by decide), rfl⟩

/-- Settles O23: each step of a job by the fields of the ingress it moves. -/
theorem layoutJobsPass : Obligations.LayoutJobsPass :=
  ⟨fun _ tag => layoutSubmit_queues tag, fun _ _ _ => layoutStagedEnqueue_queues, fun _ _ _ _ => layoutJobStart_unwraps,
    fun _ _ => layoutJobStart_refuses, fun _ _ _ => layoutDecryptStart_takes, fun _ _ _ => layoutJobVerified_decides,
    fun _ => layoutResultPop_pops, fun _ => stripeReset_resets⟩

end Sys2Proof.Machine
end

section
/-! SUPPORT. The Mould's bands (R338 to R343): one lemma per clause of O24. -/

namespace Sys2Proof.Machine

variable {s s0 t : State} {f g : Fld} {i k n : Nat} {α β : Type} {v : State → α} {j : Job} {b id cause : Nat}

/-! ### Views past folds and reads that fail -/

theorem Shows.errLogNew (h : Shows s0 s) (kind unit port : Nat) (errBit : Option Nat) :
    Shows s0 (s.errLogNew kind unit port errBit) := by
  have hcount : Shows s0 (if s.flag F.hbmLogStat_wrapped then s.count F.hbmLogStat_overflow 0 1 else s) :=
    h.andIf fun h => h.count _ _ _
  exact (((((hcount.wr _ _ _).wr _ _ _).wr _ _ _).wr _ _ _).andIf fun h => h.up _ _).wr _ _ _

theorem Shows.readFailed (h : Shows s0 s) (port a len : Nat) : Shows s0 (s.readFailed port a len) := by
  unfold State.readFailed
  split
  · exact (((h.count _ _ _).count _ _ _).errLogNew _ _ _ _).log _ _ _ _
  · exact h

theorem foldl_view {l : List β} {op : State → β → State} (h : ∀ u x, v (op u x) = v u) : v (l.foldl op s) = v s := by
  induction l generalizing s with
  | nil => rfl
  | cons x l ih => exact ih.trans (h s x)

/-! ### A job's failure beside its stripe -/

/-- A view of neither the layout ingress, the Mould's starved band nor what is shown. -/
theorem State.jobFail_view (hv : Unshown v) (hl : ∀ u l, v { u with layout := l } = v u)
    (hx : ∀ u x, v { u with mould.starved := x } = v u) (s : State) (id cause : Nat) : v (s.jobFail id cause) = v s := by
  cases hjob : s.job id with
  | none =>
    unfold State.jobFail
    rw [hjob]
  | some j =>
    have hcounted : v (s.failCounted j cause) = v s := by
      unfold State.failCounted
      dsimp only
      rw [State.postResult_view hv (fun u l => hl u { u.layout with results := l })]
      split
      · rw [hv.count, hv.count]
        exact hl _ _
      · rw [hv.count]
        exact hl _ _
    have hleft : ∀ u : State, v (u.leaveCur id) = v u := fun u => by
      unfold State.leaveCur
      split
      · exact (hv.wr _ _ _).trans (hl _ _)
      · rfl
    have hdrop : ∀ u : State, v (u.dropUnordered id) = v u := fun u => by
      unfold State.dropUnordered
      split
      · rfl
      · exact hl _ _
    rw [State.jobFail_eq hjob, State.mouldLook_view hv hx, hdrop, hleft, hcounted]

/-- A job in the order of the stripe stays known when it fails (R332, R334). -/
theorem State.job_jobFail (hjobs : s.layout.jobs = [j]) (horder : j.id ∈ s.layout.order) :
    (s.jobFail j.id cause).job j.id = some { j with stage := .failed cause, out := none, body := none } := by
  have hcounted : (s.failCounted j cause).layout.jobs = [{ j with stage := .failed cause, out := none, body := none }] ∧
      (s.failCounted j cause).layout.order = s.layout.order := by
    rw [State.layout_failCounted]
    exact ⟨State.setJob_single hjobs rfl, rfl⟩
  have hleft : ((s.failCounted j cause).leaveCur j.id).layout.jobs = (s.failCounted j cause).layout.jobs ∧
      ((s.failCounted j cause).leaveCur j.id).layout.order = (s.failCounted j cause).layout.order := by
    unfold State.leaveCur
    split <;> exact ⟨rfl, rfl⟩
  have hin : ((s.failCounted j cause).leaveCur j.id).layout.order.contains j.id = true := by
    rw [hleft.2, hcounted.2]
    exact List.contains_iff_mem.2 horder
  rw [State.jobFail_eq (State.job_single hjobs), State.dropUnordered, if_pos hin, State.job, State.layout_mouldLook,
    hleft.1, hcounted.1]
  exact List.find?_cons_of_pos (beq_self_eq_true j.id)

/-! ### The next band (R343) -/

theorem State.mem_order_of_nextBand (h : s.nextBand = some (j, b)) : j.id ∈ s.layout.order ∧ s.job j.id = some j := by
  obtain ⟨x, hx, hband⟩ := List.exists_of_findSome?_eq_some h
  obtain ⟨id, hid, hjob⟩ := List.mem_filterMap.1 hx
  have hxj : x = j := by
    split at hband
    · exact congrArg Prod.fst (Option.some.inj hband)
    · contradiction
  subst hxj
  rw [State.job_mem hjob]
  exact ⟨hid, hjob⟩

/-! ### The stripe boundary (R340, R235) -/

theorem State.doseSwap_view (hv : Unshown v) (hd : ∀ u x, v { u with doseActive := x } = v u) (s : State) :
    v s.doseSwap = v s := by
  have hreset : v (s.resetSpan doseLo doseHi) = v s := hv s _ s.logQueue s.out
  unfold State.doseSwap State.showClassCrc
  rw [hv.wr, hv.wr, State.down, hv.wr, hd]
  exact (foldl_view fun u e => hv.eq ((Shows.refl u).setReg _ _)).trans hreset

theorem State.kernelParams_view (hv : Unshown v) (hr : ∀ u x, v { u with ridges := x } = v u) (s : State) :
    v s.kernelParams = v s := by
  refine forN_view v fun k u => ?_
  have hparam : ∀ (u : State) (i : Nat) (p : Bytes), v (u.setNodeParam k i p) = v u := fun u i p =>
    forN_view v fun w u => hv.wr _ _ _
  refine (hv.wr _ _ _).trans ((hr _ _).trans (forAll_view v fun c u => forAll_view v fun w u => hparam u _ _))

/-- A view of neither the Mould, the Watermark's stripes, the dose classes, the Ridges nor what is shown. -/
theorem State.mouldStripe_view (hv : Unshown v) (hd : ∀ u x, v { u with doseActive := x } = v u)
    (hr : ∀ u x, v { u with ridges := x } = v u)
    (hm : ∀ u m x y, v { u with mould := m, wm.unmet := x, wm.stripes := y } = v u) (s : State) (j : Job) :
    v (s.mouldStripe j) = v s := by
  unfold State.mouldStripe
  dsimp only
  rw [hm, State.kernelParams_view hv hr]
  split
  · exact State.doseSwap_view hv hd s
  · rfl

/-! ### A band starts (R343) -/

/-- The stripe boundary before band 0. -/
def State.stripeAt (s : State) (j : Job) (b : Nat) : State := if b == 0 then s.mouldStripe j else s

/-- The dose-class table checked with a job's first band (R332). -/
def State.classChecked (s : State) (j : Job) : State :=
  if j.stage == .verified && j.fed == 0 && j.format == 1 && j.classCrc != s.rd F.mouldClassCrc_crc then
    s.jobFail j.id Lc.classTable
  else s

/-- The cause a band of a job starts with. -/
def Job.bandCause (j : Job) : Option Nat :=
  match j.stage with
  | .failed _ => some Gc.job
  | _ => none

/-- A band at the Mould and at the Watermark. -/
def State.bandStarted (s : State) (j : Job) (b : Nat) : State :=
  let s := s.setJob { j with fed := j.fed + 1 }
  let s := { s with
    mould := { s.mould with running := some (j.id, b), next := b + 1 }
    wm.bands := s.wm.bands ++ [({ inst := s.mould.inst, stripe := s.mould.stripe, band := b, job := j.id, cause := j.bandCause } : WmBand)] }
  let s := s.wr F.mouldStripe_stripe 0 s.mould.stripe
  s.wr F.mouldBand_band 0 b

theorem State.bandStarted_shown (s : State) (j : Job) (b : Nat) :
    (s.bandStarted j b).mould.running = some (j.id, b) ∧ (s.bandStarted j b).mould.next = b + 1 ∧
      (s.bandStarted j b).wm.bands.length = s.wm.bands.length + 1 :=
  ⟨rfl, rfl, List.length_append ..⟩

theorem mouldBandStart_starts (hmode : s.mode = Md.expose) (hidle : s.mould.running = none)
    (hroom : s.wm.bands.length < 3) (hnext : s.nextBand = some (j, b)) (hjobs : s.layout.jobs = [j])
    (hstage : j.stage = .verified) : answers .mouldBandStart s (fun t =>
      t.mould.running = some (j.id, b) ∧ t.mould.next = b + 1 ∧ t.wm.bands.length = s.wm.bands.length + 1) := by
  let u := s.stripeAt j b
  let w := u.classChecked j
  obtain ⟨horder, hjob⟩ := State.mem_order_of_nextBand hnext
  have hu : u.layout = s.layout ∧ u.wm.bands = s.wm.bands := by
    simp only [u, State.stripeAt]
    split
    · exact ⟨State.mouldStripe_view (v := State.layout) (fun _ _ _ _ => rfl) (fun _ _ => rfl) (fun _ _ => rfl)
          (fun _ _ _ _ => rfl) s j,
        State.mouldStripe_view (v := fun u => u.wm.bands) (fun _ _ _ _ => rfl) (fun _ _ => rfl) (fun _ _ => rfl)
          (fun _ _ _ _ => rfl) s j⟩
    · exact ⟨rfl, rfl⟩
  have hw : (∃ x, w.job j.id = some x ∧ x.id = j.id) ∧ w.wm.bands = s.wm.bands := by
    simp only [w, State.classChecked]
    split
    · exact ⟨⟨_, State.job_jobFail (hu.1 ▸ hjobs) (hu.1 ▸ horder), rfl⟩,
        (State.jobFail_view (v := fun u => u.wm.bands) (fun _ _ _ _ => rfl) (fun _ _ => rfl) (fun _ _ => rfl) u _ _).trans hu.2⟩
    · exact ⟨⟨j, State.job_single (hu.1 ▸ hjobs), rfl⟩, hu.2⟩
  obtain ⟨⟨x, hx, hid⟩, hbands⟩ := hw
  have hexec : exec .mouldBandStart s = .next (w.bandStarted x b).mouldLook := by
    have hready : (s.mode != Md.expose || s.mould.running.isSome || decide (3 ≤ s.wm.bands.length)) = false := by
      simp [hmode, hidle]
      omega
    rw [exec_mouldBandStart, execMouldBandStart, hready, if_neg Bool.false_ne_true, hnext]
    refine (if_neg (by simp [hstage])).trans ?_
    change (match w.job j.id with
      | none => _
      | some _ => _) = _
    rw [hx]
    rfl
  refine ⟨_, hexec, ?_⟩
  dsimp only
  have hlook := State.mouldLook_view (v := fun u : State => (u.mould.running, u.mould.next, u.wm.bands)) (fun _ _ _ _ => rfl)
    (fun _ _ => rfl) (w.bandStarted x b)
  obtain ⟨hr, hn, hb⟩ := w.bandStarted_shown x b
  simp only [Prod.mk.injEq] at hlook
  obtain ⟨hlr, hln, hlb⟩ := hlook
  rw [hlr, hln, hlb, hr, hn, hb, hid, hbands]
  exact ⟨rfl, rfl, rfl⟩

/-! ### A band is made (R338 to R343) -/

/-- A band of a failed job, or of one that is gone: 64 lines of dose 0. -/
def zeroMade : BandMade := ⟨zeroBand, none, 0, 0, 131072, 0, false⟩

/-- What the Mould makes of a band, and the state with its job's place in the stream. -/
def State.bandMade (s : State) (id b : Nat) : BandMade × State :=
  match s.job id with
  | none => (zeroMade, s)
  | some j =>
    match j.stage with
    | .failed _ => (zeroMade, s)
    | _ =>
      match s.makeBand j b with
      | none => (zeroMade, ((s.readFailed 14 (j.out.getD 0) j.plainLen).jobFail id Lc.memory).bandCause s.mould.inst b Gc.job)
      | some m => (m, s.setJob { j with pos := m.pos, sheetBad := j.sheetBad || m.later })

theorem rasterRaw_length {p : Bytes} {l : List (List Nat)} (h : rasterRaw p = some l) : l.length = 64 := by
  unfold rasterRaw at h
  generalize hrows : (List.range 64).map (fun y => (List.range 4096).map (fun x => leAt p (2 * (4096 * y + x)) 2)) = rows at h
  have hlen : rows.length = 64 := by rw [← hrows, List.length_map, List.length_range]
  dsimp only at h
  split at h
  · exact nomatch h
  · rwa [← Option.some.inj h]

/-- Every band the Mould makes has 64 lines. -/
theorem State.makeBand_length {m : BandMade} (h : s.makeBand j b = some m) : m.lines.length = 64 := by
  unfold State.makeBand at h
  extract_lets base i valid p at h
  split at h
  · split at h
    · cases h
      rfl
    split at h
    · contradiction
    split at h
    · cases h
      rfl
    · cases h
      simp
  · split at h
    · contradiction
    · split at h
      · next hraw =>
        cases h
        exact rasterRaw_length hraw
      · cases h
        rfl

theorem sameRd.jobFail (h : sameRd g 0 s0 s) (hg : g.besideAll (F.layoutCnt_count Yc.authFail :: failFlds) = true)
    (id cause : Nat) : sameRd g 0 s0 (s.jobFail id cause) := by
  cases hjob : s.job id with
  | none =>
    unfold State.jobFail
    rwa [hjob]
  | some j =>
    have hfail : g.besideAll failFlds = true :=
      List.all_eq_true.2 fun f hf => List.all_eq_true.1 hg f (List.mem_cons_of_mem _ hf)
    have hresult : g.besideAll resultFlds = true :=
      List.all_eq_true.2 fun f hf => List.all_eq_true.1 hfail f (List.mem_append_right _ hf)
    rw [State.jobFail_eq hjob]
    refine sameRd.leaveDrop ?_ hfail
    have hcounted : sameRd g 0 s0 ((s.setJob { j with stage := .failed cause, out := none, body := none }).count
        (F.layoutCnt_count Yc.jobFail) 0 1) := sameRd.wrAmong (h.same rfl) hfail (by decide)
    exact (hcounted.andIf fun h => h.wrAmong hg (by decide)).postResult hresult _ _ _ _ _

/-- What the making of a band leaves alone: the count of bands and the kernels. -/
theorem State.bandMade_spec (s : State) (id b : Nat) : (s.bandMade id b).1.lines.length = 64 ∧
    sameRd (F.mouldCnt_count Mc.bands) 0 s (s.bandMade id b).2 ∧ (s.bandMade id b).2.kernels = s.kernels := by
  unfold State.bandMade
  split
  · exact ⟨rfl, .refl, rfl⟩
  · next j hjob =>
    split
    · exact ⟨rfl, .refl, rfl⟩
    · split
      · have hread : sameRd (F.mouldCnt_count Mc.bands) 0 s (s.readFailed 14 (j.out.getD 0) j.plainLen) :=
          sameRd.refl.readFailed (m := 1) (by decide) (by decide) _ _ _
        have hk : Unshown State.kernels := fun _ _ _ _ => rfl
        refine ⟨rfl, (hread.jobFail (by decide) _ _).same rfl, ?_⟩
        exact (State.jobFail_view hk (fun _ _ => rfl) (fun _ _ => rfl) _ _ _).trans (hk.eq ((Shows.refl s).readFailed _ _ _))
      · next hmade => exact ⟨State.makeBand_length hmade, sameRd.refl.same rfl, rfl⟩

/-! ### A band leaves for the kernel Ridges (R254) -/

theorem State.queue_sendDose (s : State) (l : List DoseLine) :
    ((s.sendDose l).kernel 0).queue = (s.kernel 0).queue ++ l := by
  have hset : ∀ (u : State) (k : Nat) (c : KernelCtx), k ≠ 0 → (u.setKernel k c).kernel 0 = u.kernel 0 :=
    fun u k c hk => Sparse.get_set_ne _ _ _ hk.symm
  change (State.kernel (State.setKernel (State.setKernel (State.setKernel (State.setKernel s 0 _) 1 _) 2 _) 3 _) 0).queue = _
  rw [hset _ 3 _ (by decide), hset _ 2 _ (by decide), hset _ 1 _ (by decide)]
  exact congrArg KernelCtx.queue (Sparse.get_set_self _ _ _ _)

/-- A band that fails has its cause (R341). -/
def State.malformed (s : State) (inst b : Nat) : Option Nat → State
  | some c => (s.count (F.mouldCnt_count Mc.malformed) 0 1).bandCause inst b c
  | none => s

/-- A band as the Mould counts it. -/
def State.bandShown (s : State) (m : BandMade) (inst b : Nat) : State :=
  let s := s.count (F.mouldCnt_count Mc.bands) 0 1
  let s := s.count (F.mouldCnt_count Mc.shapes) 0 m.shapes
  let s := s.count (F.mouldCnt_count Mc.satPx) 0 m.sat
  let s := s.peak F.mouldCycles_peak 0 m.cost
  let s := s.event 180 0 islMould
  let s := s.malformed inst b m.cause
  if m.cause.isSome || m.sat != 0 then s.event 181 0 islMould else s

/-- The dose lines of a band (R254, R343). -/
def State.bandLines (s : State) (m : BandMade) (inst b : Nat) : List DoseLine :=
  let line (y : Nat) (px : List Nat) : DoseLine :=
    { inst := inst, stripe := s.mould.stripe, bands := s.mould.bands, y := y, px := px
      params := if y == 0 then some ((List.range 4).map (fun k => s.nodeParam k 0)) else none }
  let rows := ((List.range 64).zip m.lines).map (fun e => line (64 * b + e.1) e.2)
  let tail := if b + 1 == s.mould.bands then
      (List.range 3).map (fun i => line (64 * (b + 1) + i) (List.replicate 4096 0))
    else []
  rows ++ tail

theorem State.le_length_bandLines {m : BandMade} (hm : m.lines.length = 64) (s : State) (inst b : Nat) :
    64 ≤ (s.bandLines m inst b).length := by
  simp only [State.bandLines, List.length_append, List.length_map, List.length_zip, List.length_range, hm]
  omega

theorem sameRd.bandCause (h : sameRd g k s0 s) (inst b cause : Nat) : sameRd g k s0 (s.bandCause inst b cause) := h.same rfl

theorem sameRd.malformed (h : sameRd (F.mouldCnt_count Mc.bands) 0 s0 s) (inst b : Nat) (c : Option Nat) :
    sameRd (F.mouldCnt_count Mc.bands) 0 s0 (s.malformed inst b c) := by
  cases c with
  | none => exact h
  | some c => exact (h.count (Fld.misses.zero (by decide))).bandCause _ _ _

theorem State.kernels_malformed (s : State) (inst b : Nat) (c : Option Nat) : (s.malformed inst b c).kernels = s.kernels := by
  cases c <;> rfl

theorem State.bands_bandShown (s : State) (m : BandMade) (inst b : Nat) :
    (s.bandShown m inst b).rd (F.mouldCnt_count Mc.bands) = satAdd 32 (s.rd (F.mouldCnt_count Mc.bands)) 1 := by
  have hbeside : ∀ {f : Fld} {n : Nat} {u x : State}, f.clearOf 1 (F.mouldCnt_count Mc.bands) 1 = true →
      sameRd (F.mouldCnt_count Mc.bands) 0 u x → sameRd (F.mouldCnt_count Mc.bands) 0 u (x.wr f 0 n) :=
    fun hf hx => hx.wrClearOf hf Nat.one_pos Nat.one_pos
  refine Eq.trans ?_ (State.rd_count_self (s := s) (by decide) (by decide))
  unfold State.bandShown
  extract_lets u1 u2 u3 u4 u5 u6
  have h4 : sameRd (F.mouldCnt_count Mc.bands) 0 u1 u4 :=
    sameRd.andIf (hbeside (by decide) (hbeside (by decide) .refl)) fun h => hbeside (by decide) h
  have h6 : sameRd (F.mouldCnt_count Mc.bands) 0 u1 u6 := (h4.event _ _ _).malformed _ _ _
  exact h6.andIf fun h => h.event _ _ _

theorem State.kernels_bandShown (s : State) (m : BandMade) (inst b : Nat) : (s.bandShown m inst b).kernels = s.kernels := by
  have hv : Unshown State.kernels := fun _ _ _ _ => rfl
  unfold State.bandShown
  extract_lets u1 u2 u3 u4 u5 u6
  have h5 : u5.kernels = s.kernels :=
    hv.eq (((((Shows.refl s).count _ _ _).count _ _ _).count _ _ _).peak _ _ _ |>.event _ _ _)
  have h6 : u6.kernels = s.kernels := (State.kernels_malformed _ _ _ _).trans h5
  split
  · exact (hv.event _ _ _).trans h6
  · exact h6

theorem State.reapJob_view (hl : ∀ u l, v { u with layout := l } = v u) (s : State) (id : Nat) :
    v (s.reapJob id) = v s := by
  unfold State.reapJob
  split
  · rfl
  · split
    · rfl
    · exact hl _ _

theorem State.kernel_withMould (s : State) (m : Mould) : State.kernel { s with mould := m } k = s.kernel k := rfl

theorem mouldBandDone_sends (hrun : s.mould.running = some (id, b)) : answers .mouldBandDone s (fun t =>
    t.mould.running = none ∧ t.rd (F.mouldCnt_count Mc.bands) = satAdd 32 (s.rd (F.mouldCnt_count Mc.bands)) 1 ∧
    (s.kernel 0).queue.length + 64 ≤ (t.kernel 0).queue.length) := by
  obtain ⟨hlines, hrd, hkernels⟩ := s.bandMade_spec id b
  let m := (s.bandMade id b).1
  let w := (s.bandMade id b).2.bandShown m s.mould.inst b
  let x := w.sendDose (w.bandLines m s.mould.inst b)
  have hexec : exec .mouldBandDone s = .next (State.reapJob { x with mould.running := none } id).mouldLook := by
    rw [exec_mouldBandDone, execMouldBandDone, hrun]
    rfl
  refine ⟨_, hexec, ?_, ?_, ?_⟩
  · refine (State.mouldLook_view (v := fun u => u.mould.running) (fun _ _ _ _ => rfl) (fun _ _ => rfl) _).trans ?_
    exact State.reapJob_view (v := fun u => u.mould.running) (fun _ _ => rfl) _ _
  · refine Eq.trans (sameRd.refl.mouldLook (by decide)) ?_
    have hx : sameRd (F.mouldCnt_count Mc.bands) 0 w x := sameRd.refl.forN fun k u _ hu => hu.same rfl
    refine (State.reapJob_view (v := fun u => u.rd (F.mouldCnt_count Mc.bands)) (fun _ _ => rfl) _ _).trans ?_
    refine Eq.trans (sameRd.same hx rfl) ?_
    rw [State.bands_bandShown, hrd]
  · have hlook := (State.mouldLook_view (v := fun u => u.kernel 0) (fun _ _ _ _ => rfl) (fun _ _ => rfl)
      (State.reapJob { x with mould.running := none } id)).trans
      (State.reapJob_view (v := fun u => u.kernel 0) (fun _ _ => rfl) _ _)
    have hw : w.kernels = s.kernels := (State.kernels_bandShown ..).trans hkernels
    have hqueue : (x.kernel 0).queue = (s.kernel 0).queue ++ w.bandLines m s.mould.inst b := by
      rw [State.queue_sendDose, State.kernel, hw]
      rfl
    rw [hlook, State.kernel_withMould x, hqueue, List.length_append]
    exact Nat.add_le_add_left (State.le_length_bandLines hlines _ _ _) _

/-- Settles O24: what a band's start and its end leave of the Mould, the Watermark and the kernels. -/
theorem mouldMakesBands : Obligations.MouldMakesBands :=
  ⟨fun _ _ _ => mouldBandStart_starts, fun _ _ _ => mouldBandDone_sends⟩

end Sys2Proof.Machine
end

section
/-! SUPPORT. The Watermark (R347, R349 to R351): one lemma per clause of O25. -/

namespace Sys2Proof.Machine

variable {s s0 t : State} {f g : Fld} {i k n : Nat} {α : Type} {v : State → α} {b : WmBand} {j : Job} {st : WmStripe}
  {w : Word} {now : Int}

/-! ### One band, one stripe -/

theorem State.bands_setWmBand {x : WmBand} (h : s.wm.bands = [b]) (hinst : b.inst = x.inst) (hband : b.band = x.band) :
    (s.setWmBand x).wm.bands = [x] := by
  simp [State.setWmBand, h, hinst, hband]

theorem State.paired_single (h : s.wm.stripes = [st]) (hend : st.ended = false) : s.paired = some st := by
  simp [State.paired, h, hend]

theorem State.wmBandOf_single (hst : s.wm.stripes = [st]) (hend : st.ended = false) (hb : s.wm.bands = [b])
    (hinst : b.inst = st.inst) : s.wmBandOf b.band = some (st, b) := by
  simp [State.wmBandOf, State.paired_single hst hend, hb, hinst]

/-! ### The band check (R347) -/

theorem find_wmBand (hb : s.wm.bands = [b]) (hw : b.whole = true) (hp : b.passed = false) (hc : b.cause = none) :
    s.wm.bands.find? (fun x => x.band == b.band && x.whole && !x.passed && x.cause.isNone) = some b := by
  simp [hb, hw, hp, hc]

theorem wmBandCheck_passes (hb : s.wm.bands = [b]) (hn : b.band = w.toNat) (hw : b.whole = true) (hp : b.passed = false)
    (hc : b.cause = none) (hj : s.job b.job = some j)
    (hcrc : bandCrc b.stripe b.band b.lines = leAt j.table (8 * (b.band - j.first)) 8) :
    answers (.wmBandCheck w) s (fun t => t.wm.bands = [{ b with passed := true }]) := by
  refine ⟨s.setWmBand { b with passed := true }, ?_, State.bands_setWmBand hb rfl rfl⟩
  rw [exec_wmBandCheck, execWmBandCheck, ← hn, find_wmBand hb hw hp hc]
  dsimp only
  rw [hj, if_pos (beq_iff_eq.2 hcrc)]

/-- What a band that fails its check shows (R347). -/
def State.checkFailed (s : State) (b : WmBand) (expect got : Nat) : State :=
  let s := s.setWmBand { b with cause := some Gc.check }
  let s := s.count (F.wmCnt_count Wc.checkFail) 0 1
  let s := s.wr F.wmLastFailStripe_value 0 b.stripe
  let s := s.wr F.wmLastFailBand_value 0 b.band
  let s := s.wr64 F.wmLastExpectLo_value F.wmLastExpectHi_value 0 expect
  s.wr64 F.wmLastGotLo_value F.wmLastGotHi_value 0 got

theorem State.wm_checkFailed (s : State) (b : WmBand) (expect got : Nat) :
    (s.checkFailed b expect got).wm = (s.setWmBand { b with cause := some Gc.check }).wm := by
  have hv : Unshown State.wm := fun _ _ _ _ => rfl
  unfold State.checkFailed State.wr64
  dsimp only
  rw [hv.wr, hv.wr, hv.wr, hv.wr, hv.wr, hv.wr, hv.count]

theorem wmBandCheck_fails (hb : s.wm.bands = [b]) (hn : b.band = w.toNat) (hw : b.whole = true) (hp : b.passed = false)
    (hc : b.cause = none) (hj : s.job b.job = some j)
    (hcrc : bandCrc b.stripe b.band b.lines ≠ leAt j.table (8 * (b.band - j.first)) 8) :
    answers (.wmBandCheck w) s (fun t => t.wm.bands = [{ b with cause := some Gc.check }] ∧
      t.rd (F.wmCnt_count Wc.checkFail) = satAdd 32 (s.rd (F.wmCnt_count Wc.checkFail)) 1 ∧
      t.rd F.wmLastFailStripe_value = b.stripe % 2 ^ 32) := by
  refine ⟨s.checkFailed b (leAt j.table (8 * (b.band - j.first)) 8) (bandCrc b.stripe b.band b.lines), ?_,
    ?_, ?_, ?_⟩
  · rw [exec_wmBandCheck, execWmBandCheck, ← hn, find_wmBand hb hw hp hc]
    dsimp only
    rw [hj, if_neg (by simpa using hcrc)]
    rfl
  · rw [State.wm_checkFailed]
    exact State.bands_setWmBand hb rfl rfl
  · unfold State.checkFailed
    simp (disch := decide) only [State.wr64, State.rd_wr_beside]
    exact State.rd_count_self (by decide) (by decide)
  · unfold State.checkFailed
    simp (disch := decide) only [State.wr64, State.rd_wr_beside]
    exact State.rd_wr_self _ _ _ _ (by decide)

/-! ### Release (R349, R351, R354) -/

theorem wmReleaseStart_releases (hst : s.wm.stripes = [st]) (hend : st.ended = false) (hb : s.wm.bands = [b])
    (hinst : b.inst = st.inst) (hn : b.band = w.toNat) (hpassed : b.passed = true) (htime : s.laid.time = some now)
    (hcome : 64 * (w.toNat : Int) - 193 ≤ now) :
    answers (.wmReleaseStart w) s (fun u => u.wm.bands = [{ b with releasing := true }]) := by
  have hof := State.wmBandOf_single hst hend hb hinst
  rw [answers, exec_wmReleaseStart, execWmReleaseStart, ← hn, hof, htime]
  dsimp only
  cases hrel : b.releasing with
  | false =>
    rw [if_pos (by simp [hpassed, hn, hcome])]
    exact ⟨_, rfl, State.bands_setWmBand hb rfl rfl⟩
  | true =>
    rw [if_neg (by simp)]
    refine ⟨s, rfl, hb.trans ?_⟩
    cases b
    cases hrel
    rfl

/-! ### Reports to the Vat and to the ingress (R335, R351) -/

/-- What a band's result and the end of its job show. -/
theorem sameRd.bandReported (h : sameRd g 0 s0 s) (hg : g.besideAll resultFlds = true) (id : Nat) (released : Bool) :
    sameRd g 0 s0 (s.bandReported id released) := by
  unfold State.bandReported
  split
  · exact h
  · next j hj =>
    extract_lets j' u w
    have hu : sameRd g 0 s0 u := h.same rfl
    have hw : sameRd g 0 s0 w := by
      refine hu.andUnless fun hu => ?_
      split
      · exact hu
      · exact hu.postResult hg _ _ _ _ _
    exact (State.reapJob_view (v := fun x => x.rd g 0) (fun _ _ => rfl) w id).trans hw

/-- A view of neither the layout ingress nor what is shown. -/
theorem State.bandReported_view (hv : Unshown v) (hl : ∀ u l, v { u with layout := l } = v u) (s : State) (id : Nat)
    (released : Bool) : v (s.bandReported id released) = v s := by
  unfold State.bandReported
  split
  · rfl
  · next j hj =>
    extract_lets j' u w
    have hu : v u = v s := hl _ _
    have hw : v w = v u := by
      simp only [w]
      split
      · rfl
      · split
        · rfl
        · exact State.postResult_view hv (fun u l => hl u { u.layout with results := l }) _ _ _ _ _ _
    exact (State.reapJob_view hl w id).trans (hw.trans hu)

/-- A view of neither the Watermark, the Mould's starved band nor what is shown. -/
theorem State.dropWmBand_view (hv : Unshown v) (hw : ∀ u x, v { u with wm := x } = v u)
    (hx : ∀ u x, v { u with mould.starved := x } = v u) (s : State) (b : WmBand) : v (s.dropWmBand b) = v s := by
  have hshown : ∀ u : State, v u.showSlotsUsed = v u := fun u =>
    hv.eq (((Shows.refl u).wr _ _ _).andIf fun h => h.up _ _)
  unfold State.dropWmBand
  rw [State.mouldLook_view hv hx, hshown]
  exact hw _ _

theorem State.wm_dropWmBand (s : State) (b : WmBand) : (s.dropWmBand b).wm =
    { s.wm with bands := s.wm.bands.filter (fun x => !(x.inst == b.inst && x.band == b.band)) } := by
  have hv : Unshown State.wm := fun _ _ _ _ => rfl
  have hshown : ∀ u : State, u.showSlotsUsed.wm = u.wm := fun u =>
    hv.eq (((Shows.refl u).wr _ _ _).andIf fun h => h.up _ _)
  unfold State.dropWmBand
  rw [State.mouldLook_view hv (fun _ _ => rfl), hshown]

theorem State.bands_dropWmBand (h : s.wm.bands = [b]) : (s.dropWmBand b).wm.bands = [] := by
  rw [State.wm_dropWmBand]
  simp [h]

/-- What a band that leaves the Watermark shows. -/
def dropFlds : List Fld := F.wmStat_slotsUsed :: F.wmStat_hwm :: lookFlds

theorem sameRd.dropWmBand (h : sameRd g 0 s0 s) (hg : g.besideAll dropFlds = true) (b : WmBand) :
    sameRd g 0 s0 (s.dropWmBand b) := by
  have hlook : g.besideAll lookFlds = true :=
    List.all_eq_true.2 fun f hf => List.all_eq_true.1 hg f (List.mem_cons_of_mem _ (List.mem_cons_of_mem _ hf))
  have hslots : ∀ {u : State}, sameRd g 0 s0 u → sameRd g 0 s0 u.showSlotsUsed := fun hu =>
    (hu.wrAmong hg (by decide)).andIf fun hu => hu.wrAmong hg (by decide)
  have hgone : sameRd g 0 s0 { s with wm.bands := s.wm.bands.filter (fun x => !(x.inst == b.inst && x.band == b.band)) } :=
    h.same rfl
  exact (hslots hgone).mouldLook hlook

/-- The counts of a report to the Vat (R351). -/
def State.bandCounted (s : State) : Option Nat → State
  | none => (s.count (F.wmCnt_count Wc.released) 0 1).event 182 0 islWm
  | some c =>
    if c == Gc.late then (s.count (F.wmCnt_count Wc.late) 0 1).event 184 0 islWm
    else if c == Gc.check then s.event 183 0 islWm
    else (s.count (F.wmCnt_count Wc.failedUpstream) 0 1).event 183 0 islWm

/-- The reports as the Vat holds them. -/
def bandReports (l : List BandReport) (r : BandReport) : List BandReport := l.filter (fun x => x.band != r.band) ++ [r]

theorem State.bandCounted_shows (s : State) (cause : Option Nat) : Shows s (s.bandCounted cause) := by
  cases cause with
  | none => exact ((Shows.refl s).count _ _ _).event _ _ _
  | some c =>
    exact .ite (((Shows.refl s).count _ _ _).event _ _ _) (.ite ((Shows.refl s).event _ _ _)
      (((Shows.refl s).count _ _ _).event _ _ _))

theorem State.reportBand_shows (s : State) (t : WmStripe) (band : Nat) (cause : Option Nat) : ∃ u, Shows s u ∧
    u.regs = (s.bandCounted cause).regs ∧
    s.reportBand t band cause = { u with laid.bands := bandReports u.laid.bands ⟨band, t.stripe, cause⟩ } := by
  refine ⟨if band + 1 == t.heard then (s.bandCounted cause).event 185 0 islWm else s.bandCounted cause,
    (s.bandCounted_shows cause).andIf fun h => h.event _ _ _, ?_, ?_⟩
  · split
    · exact State.event_regs ..
    · rfl
  · cases cause <;> rfl

/-- A view of neither the Laid's reports nor what is shown. -/
theorem State.reportBand_view (hv : Unshown v) (hl : ∀ u l, v { u with laid.bands := l } = v u) (s : State) (t : WmStripe)
    (band : Nat) (cause : Option Nat) : v (s.reportBand t band cause) = v s := by
  obtain ⟨u, hu, _, h⟩ := s.reportBand_shows t band cause
  rw [h]
  exact (hl _ _).trans (hv.eq hu)

theorem State.mem_bands_reportBand (s : State) (t : WmStripe) (band : Nat) (cause : Option Nat) :
    BandReport.mk band t.stripe cause ∈ (s.reportBand t band cause).laid.bands := by
  obtain ⟨u, _, _, h⟩ := s.reportBand_shows t band cause
  rw [h]
  exact List.mem_append_right _ (List.mem_singleton.2 rfl)

theorem State.rd_reportBand (s : State) (t : WmStripe) (band : Nat) (cause : Option Nat) (g : Fld) (i : Nat) :
    (s.reportBand t band cause).rd g i = (s.bandCounted cause).rd g i := by
  obtain ⟨u, _, hr, h⟩ := s.reportBand_shows t band cause
  rw [h]
  exact State.rd_congr hr g i

/-! ### The Vat (R354) -/

theorem WmBand.zip_lines (b : WmBand) : (List.range 64).zip b.lines = (List.range 64).map (fun i => (i, b.lines.getD i [])) := by
  refine List.ext_getElem (by simp [WmBand.lines]) fun i h1 h2 => ?_
  simp only [List.getElem_zip, List.getElem_range, List.getElem_map]
  simp only [List.length_zip, List.length_range] at h1
  rw [List.getD_eq_getElem?_getD, List.getElem?_eq_getElem (by omega), Option.getD_some]

/-- The lines of a band written to their Vat banks. -/
def State.vatLines (s : State) (b : WmBand) : State :=
  forN 64 (fun i s => s.vatWrite (64 * b.band + i) (b.lines.getD i [])) s

theorem State.vatLines_eq (s : State) (b : WmBand) :
    ((List.range 64).zip b.lines).foldl (fun s e => s.vatWrite (64 * b.band + e.1) e.2) s = s.vatLines b := by
  rw [WmBand.zip_lines, List.foldl_map]
  rfl

theorem State.vat_vatLines (s : State) (b : WmBand) : ∀ i < 64,
    Sparse.get (fun _ => []) (s.vatLines b).vat ((64 * b.band + i) % 2560) = b.lines.getD i [] := by
  refine forN_each (Q := fun i u => Sparse.get (fun _ => []) u.vat ((64 * b.band + i) % 2560) = b.lines.getD i [])
    (fun k u _ => Sparse.get_set_self ..) (fun i k u hik hk hu => ?_) s
  exact (Sparse.get_set_ne _ _ _ (by omega)).trans hu

theorem State.vatLines_view (hv : ∀ u x l, v { u with vat := x, laid.vatBad := l } = v u) (s : State) (b : WmBand) :
    v (s.vatLines b) = v s := forN_view v fun _ _ => hv _ _ _

/-! ### Release and lateness of the held band (R349 to R351) -/

theorem wmBandReleased_releases (hst : s.wm.stripes = [st]) (hend : st.ended = false) (hb : s.wm.bands = [b])
    (hinst : b.inst = st.inst) (hn : b.band = w.toNat) (hrel : b.releasing = true) :
    answers (.wmBandReleased w) s (fun u =>
      u.wm.bands = [] ∧ u.rd (F.wmCnt_count Wc.released) = satAdd 32 (s.rd (F.wmCnt_count Wc.released)) 1 ∧
      BandReport.mk b.band st.stripe none ∈ u.laid.bands ∧
      ∀ i < 64, Sparse.get (fun _ => []) u.vat ((64 * b.band + i) % 2560) = b.lines.getD i []) := by
  let x := (s.vatLines b).reportBand st b.band none
  let y := x.bandReported b.job true
  have hexec : exec (.wmBandReleased w) s = .next (y.dropWmBand b) := by
    rw [exec_wmBandReleased, execWmBandReleased, ← hn, State.wmBandOf_single hst hend hb hinst]
    dsimp only
    rw [hrel, if_neg (by decide), State.vatLines_eq]
  have hwm : y.wm = s.wm :=
    (State.bandReported_view (v := State.wm) (fun _ _ _ _ => rfl) (fun _ _ => rfl) _ _ _).trans
      ((State.reportBand_view (v := State.wm) (fun _ _ _ _ => rfl) (fun _ _ => rfl) _ _ _ _).trans
        (State.vatLines_view (v := State.wm) (fun _ _ _ => rfl) _ _))
  have hrd : (y.dropWmBand b).rd (F.wmCnt_count Wc.released) =
      ((s.vatLines b).bandCounted none).rd (F.wmCnt_count Wc.released) :=
    Eq.trans ((sameRd.refl.bandReported (by decide) b.job true).dropWmBand (by decide) b) (State.rd_reportBand ..)
  have hlaid : (y.dropWmBand b).laid = x.laid :=
    (State.dropWmBand_view (v := State.laid) (fun _ _ _ _ => rfl) (fun _ _ => rfl) (fun _ _ => rfl) _ _).trans
      (State.bandReported_view (v := State.laid) (fun _ _ _ _ => rfl) (fun _ _ => rfl) _ _ _)
  have hvat : (y.dropWmBand b).vat = (s.vatLines b).vat :=
    (State.dropWmBand_view (v := State.vat) (fun _ _ _ _ => rfl) (fun _ _ => rfl) (fun _ _ => rfl) _ _).trans
      ((State.bandReported_view (v := State.vat) (fun _ _ _ _ => rfl) (fun _ _ => rfl) _ _ _).trans
        (State.reportBand_view (v := State.vat) (fun _ _ _ _ => rfl) (fun _ _ => rfl) _ _ _ _))
  refine ⟨_, hexec, State.bands_dropWmBand (hwm ▸ hb), hrd.trans ?_, ?_, ?_⟩
  · have hold : (s.vatLines b).rd (F.wmCnt_count Wc.released) = s.rd (F.wmCnt_count Wc.released) :=
      State.vatLines_view (v := fun u => u.rd (F.wmCnt_count Wc.released)) (fun _ _ _ => rfl) _ _
    rw [← hold]
    exact (State.rd_event ..).trans (State.rd_count_self (by decide) (by decide))
  · rw [hlaid]
    exact State.mem_bands_reportBand ..
  · rw [hvat]
    exact s.vat_vatLines b

/-- A held band that is late leaves the Watermark; one still to come is told of (R350). -/
def State.lateBand (s : State) (st : WmStripe) (b : WmBand) : State :=
  let s := s.reportBand st b.band (some Gc.late)
  if b.held then (s.bandReported b.job false).dropWmBand b
  else { s with wm.told := s.wm.told ++ [(st.inst, b.band)] }.bandReported b.job false

theorem wmBandDeadline_late (hst : s.wm.stripes = [st]) (hend : st.ended = false) (hb : s.wm.bands = [b])
    (hinst : b.inst = st.inst) (hn : b.band = w.toNat) (hpassed : b.passed = false) (hcause : b.cause = none)
    (htime : s.laid.time = some now) (hdecided : s.wm.decided ≤ w.toNat) (hheard : w.toNat < st.heard)
    (hcome : 64 * (w.toNat : Int) - 80 ≤ now) : answers (.wmBandDeadline w) s (fun u => u.wm.decided = w.toNat + 1 ∧
      u.rd (F.wmCnt_count Wc.late) = satAdd 32 (s.rd (F.wmCnt_count Wc.late)) 1 ∧
      BandReport.mk w.toNat st.stripe (some Gc.late) ∈ u.laid.bands) := by
  rw [← hn] at hdecided hheard hcome ⊢
  let x := State.reportBand { s with wm.decided := b.band + 1 } st b.band (some Gc.late)
  have hexec : exec (.wmBandDeadline w) s = .next (State.lateBand { s with wm.decided := b.band + 1 } st b) := by
    have hfind : s.wm.bands.find? (fun x => x.inst == st.inst && x.band == b.band) = some b := by simp [hb, hinst]
    have hopen : (decide (b.band < s.wm.decided) || decide (st.heard ≤ b.band) || decide (now < 64 * (b.band : Int) - 80)) =
        false := by
      simp only [Bool.or_eq_false_iff, decide_eq_false_iff_not]
      omega
    rw [exec_wmBandDeadline, execWmBandDeadline, ← hn, State.paired_single hst hend, htime]
    dsimp only
    rw [hopen, if_neg Bool.false_ne_true, hfind]
    dsimp only
    rw [hpassed, if_neg Bool.false_ne_true, hcause]
    unfold State.lateBand
    dsimp only
    rw [Option.isSome_none, Bool.or_false]
    split <;> rfl
  have hdec : x.wm.decided = b.band + 1 :=
    State.reportBand_view (v := fun u => u.wm.decided) (fun _ _ _ _ => rfl) (fun _ _ => rfl) _ _ _ _
  have hcount : x.rd (F.wmCnt_count Wc.late) = satAdd 32 (s.rd (F.wmCnt_count Wc.late)) 1 :=
    (State.rd_reportBand ..).trans ((State.rd_event ..).trans (State.rd_count_self (by decide) (by decide)))
  have hmem : BandReport.mk b.band st.stripe (some Gc.late) ∈ x.laid.bands := State.mem_bands_reportBand ..
  refine ⟨_, hexec, ?_⟩
  unfold State.lateBand
  dsimp only
  split
  · let y := x.bandReported b.job false
    have hlaid : (y.dropWmBand b).laid = x.laid :=
      (State.dropWmBand_view (v := State.laid) (fun _ _ _ _ => rfl) (fun _ _ => rfl) (fun _ _ => rfl) _ _).trans
        (State.bandReported_view (v := State.laid) (fun _ _ _ _ => rfl) (fun _ _ => rfl) _ _ _)
    have hwm : y.wm = x.wm := State.bandReported_view (v := State.wm) (fun _ _ _ _ => rfl) (fun _ _ => rfl) _ _ _
    have hgone : (y.dropWmBand b).wm.decided = y.wm.decided := by rw [State.wm_dropWmBand]
    refine ⟨hgone.trans (hwm ▸ hdec), ?_, (congrArg (fun l : Laid => _ ∈ l.bands) hlaid).mpr hmem⟩
    exact Eq.trans ((sameRd.refl.bandReported (by decide) b.job false).dropWmBand (by decide) b) hcount
  · let y : State := { x with wm.told := x.wm.told ++ [(st.inst, b.band)] }
    have hlaid : (y.bandReported b.job false).laid = x.laid :=
      State.bandReported_view (v := State.laid) (fun _ _ _ _ => rfl) (fun _ _ => rfl) _ _ _
    have hwm : (y.bandReported b.job false).wm = y.wm :=
      State.bandReported_view (v := State.wm) (fun _ _ _ _ => rfl) (fun _ _ => rfl) _ _ _
    refine ⟨(congrArg Watermark.decided hwm).trans hdec, ?_, (congrArg (fun l : Laid => _ ∈ l.bands) hlaid).mpr hmem⟩
    exact Eq.trans (sameRd.refl.bandReported (by decide) b.job false) hcount

/-- Settles O25: each step of a band by what it leaves at the Watermark, in the Vat and in the counts. -/
theorem watermarkReleases : Obligations.WatermarkReleases :=
  ⟨fun _ _ _ _ => wmBandCheck_passes, fun _ _ _ _ => wmBandCheck_fails, fun _ _ _ _ _ => wmReleaseStart_releases,
    fun _ _ _ _ => wmBandReleased_releases, fun _ _ _ _ _ => wmBandDeadline_late⟩

end Sys2Proof.Machine
end

section
/-! SUPPORT. The Laid (R357, R358, R377, R378, R382 to R386): what gap records, blanking and the events of an edge leave
alone. -/

namespace Sys2Proof.Machine

variable {s s0 t : State} {f g : Fld} {i j k m n : Nat} {α : Type} {v : State → α}

/-- Single registers, each beside instances 0 to `m − 1` of the field `g`. -/
def Fld.besideEach (g : Fld) (m : Nat) (l : List Fld) : Bool := l.all (fun f => f.clearOf 1 g m)

theorem sameRd.wrEach {l : List Fld} {n : Nat} (h : sameRd g j s0 s) (hg : g.besideEach m l = true) (hj : j < m)
    (hf : f ∈ l) : sameRd g j s0 (s.wr f 0 n) := h.wrClearOf (List.all_eq_true.1 hg f hf) Nat.one_pos hj

/-! ### Views past gap records -/

/-- The registers that gap records and blanked lines write (R382 to R385). -/
def gapFlds : List Fld :=
  [F.laidGapNextSeq_seq, F.laidCnt_count Vc.gapRecords, F.laidCnt_count Vc.gapDrop, F.laidGapLevel_level,
    F.laidGapLevel_hwm, F.laidLineStat_err, F.laidCnt_count Vc.partialLines]

/-- A view of neither what gap records show nor the Laid's gap records, blanked run, events due and lines released. -/
structure Ungapped (v : State → α) : Prop where
  wr : ∀ (u : State) (f : Fld) (n : Nat), f ∈ gapFlds → v (u.wr f 0 n) = v u
  event : ∀ (u : State) (p w isl : Nat), v (u.event p w isl) = v u
  gaps : ∀ u x, v { u with laid.gaps := x } = v u
  due : ∀ u x, v { u with laid.due := x } = v u
  run : ∀ u x, v { u with laid.run := x } = v u
  exposed : ∀ u x, v { u with laid.exposed := x } = v u
  partial_ : ∀ u x, v { u with laid.partial_ := x } = v u

/-- A register beside those that gap records write. -/
theorem Ungapped.rd (hg : g.besideEach m gapFlds = true) (hj : j < m) : Ungapped fun u => u.rd g j where
  wr u _ n hf := (sameRd.refl (s := u)).wrEach (n := n) hg hj hf
  event _ _ _ _ := State.rd_event ..
  gaps _ _ := rfl
  due _ _ := rfl
  run _ _ := rfl
  exposed _ _ := rfl
  partial_ _ _ := rfl

theorem Ungapped.up (hv : Ungapped v) (s : State) (hf : f ∈ gapFlds) : v (s.up f) = v s := hv.wr _ _ _ hf

theorem Ungapped.vCount (hv : Ungapped v) (s : State) {c n : Nat} (hf : F.laidCnt_count c ∈ gapFlds) :
    v (s.vCount c n) = v s := hv.wr _ _ _ hf

theorem Ungapped.laidEvents (hv : Ungapped v) (s : State) : v s.laidEvents = v s := by
  refine (forAll_view v fun p u => ?_).trans (hv.due _ _)
  split
  · rfl
  · exact hv.event _ _ _ _

theorem Ungapped.showGaps (hv : Ungapped v) (s : State) : v s.showGaps = v s := by
  have hlevel : v (s.wr F.laidGapLevel_level 0 s.laid.gaps.length) = v s := hv.wr _ _ _ (by decide)
  unfold State.showGaps
  dsimp only
  split
  · exact (hv.up _ (by decide)).trans hlevel
  · exact hlevel

/-- A gap record in its FIFO, where there is room. -/
def State.gapKept (s : State) (item : OutItem) : State :=
  if 16384 ≤ s.laid.gaps.length then s.vCount Vc.gapDrop 1 else { s with laid.gaps := s.laid.gaps ++ [item] }.showGaps

theorem Ungapped.gapKept (hv : Ungapped v) (s : State) (item : OutItem) : v (s.gapKept item) = v s := by
  unfold State.gapKept
  split
  · exact hv.vCount _ (by decide)
  · exact (hv.showGaps _).trans (hv.gaps _ _)

/-- The errors and events of a gap record. -/
def State.gapRaised (s : State) (kind g : Nat) : State :=
  let s := if kind == Gk.partialLines || kind == Gk.lineFault then s.up F.laidLineStat_err else s
  if kind == Gk.blanked then s else s.laidRaise 189 g

theorem Ungapped.gapRaised (hv : Ungapped v) (s : State) (kind g : Nat) : v (s.gapRaised kind g) = v s := by
  unfold State.gapRaised
  extract_lets u
  have hu : v u = v s := by
    simp only [u]
    split
    · exact hv.up _ (by decide)
    · rfl
  split
  · exact hu
  · exact (hv.due _ _).trans hu

theorem State.gap_eq (s : State) (kind cause first arg sub ns g : Nat) : ∃ item, s.gap kind cause first arg sub ns g =
    (((s.wr F.laidGapNextSeq_seq 0 (s.rd F.laidGapNextSeq_seq + 1)).vCount Vc.gapRecords 1).gapKept item).gapRaised kind g :=
  ⟨_, rfl⟩

theorem Ungapped.gap (hv : Ungapped v) (s : State) (kind cause first arg sub ns g : Nat) :
    v (s.gap kind cause first arg sub ns g) = v s := by
  obtain ⟨item, h⟩ := s.gap_eq kind cause first arg sub ns g
  rw [h, hv.gapRaised, hv.gapKept]
  exact (hv.vCount _ (by decide)).trans (hv.wr _ _ _ (by decide))

theorem Ungapped.closeRun (hv : Ungapped v) (s : State) : v s.closeRun = v s := by
  unfold State.closeRun
  split
  · rfl
  · exact (hv.gap _ _ _ _ _ _ _ _).trans (hv.run _ _)

theorem Ungapped.blankLine (hv : Ungapped v) (s : State) (y cause g : Nat) : v (s.blankLine y cause g) = v s := by
  have hup : v (s.up F.laidLineStat_err) = v s := hv.up _ (by decide)
  unfold State.blankLine
  dsimp only
  split
  · split
    · exact (hv.run _ _).trans hup
    · exact (hv.due _ _).trans ((hv.run _ _).trans ((hv.closeRun _).trans hup))
  · exact (hv.due _ _).trans ((hv.run _ _).trans hup)

/-! ### Immediate blanking (R378) -/

/-- The first line of which no row has fired. -/
def Laid.never (l : Laid) : Nat :=
  match l.lastShot with
  | none => 0
  | some (lb, _) => lb + 1 - l.minOff

/-- The PARTIAL record of the lines that have fired in part. -/
def State.partialRecord (s : State) (never cause g : Nat) : State :=
  match s.laid.lastShot with
  | none => s
  | some (lb, sub) =>
    let first := lb - s.laid.maxOff + b2n (sub == 7 && s.laid.maxOff ≤ lb)
    let lines := s.laid.exposed.filter (fun y => first ≤ y && y < never)
    if lines.isEmpty then s else
    let s := { s with laid.partial_ := some (first, lb) }
    (s.vCount Vc.partialLines lines.length).gap Gk.partialLines cause first (lb - first + 1) (sub + 1) s.ns g

/-- The lines released but never fired are blanked. -/
def State.neverFired (s : State) (never cause g : Nat) : State :=
  forAll (s.laid.exposed.filter (never ≤ ·)) (fun y s =>
    ({ s with laid.exposed := s.laid.exposed.filter (· != y) } : State).blankLine y cause g) s

/-- The records of an immediate blanking. -/
def State.hardRecords (s : State) (cause g : Nat) : State :=
  (s.partialRecord s.laid.never cause g).neverFired s.laid.never cause g

theorem Ungapped.hardRecords (hv : Ungapped v) (s : State) (cause g : Nat) : v (s.hardRecords cause g) = v s := by
  have hpartial : v (s.partialRecord s.laid.never cause g) = v s := by
    unfold State.partialRecord
    split
    · rfl
    · dsimp only
      split
      · rfl
      · exact (hv.gap _ _ _ _ _ _ _ _).trans ((hv.vCount _ (by decide)).trans (hv.partial_ _ _))
  exact (forAll_view v fun y u => (hv.blankLine _ _ _ _).trans (hv.exposed _ _)).trans hpartial

/-- The Laid blanks: its cause and its state are shown (R377). -/
def State.hardShown (s : State) (cause : Nat) : State :=
  State.laidState (State.showCause { s with laid.hard := some cause }) Lst.blanking

theorem State.hardStop_running {cause g : Nat} (hrun : s.laid.running = true) (hhard : s.laid.hard = none) :
    s.hardStop cause g = (s.hardShown cause).hardRecords cause g := by
  unfold State.hardStop
  refine (if_neg (by simp [hrun, hhard])).trans ((if_neg ?_).trans rfl)
  have hrun' : (State.showCause { s with laid.hard := some cause }).laid.running = true := hrun
  simp [hrun']

theorem Ungapped.hardStop {g : Nat} {cause : Nat} (hv : Ungapped v) (hstate : ∀ u n, v (u.wr F.laidStat_state 0 n) = v u)
    (hcause : ∀ u n, v (u.wr F.laidStat_blankCause 0 n) = v u) (hhard : ∀ u x, v { u with laid.hard := x } = v u)
    (s : State) : v (s.hardStop cause g) = v s := by
  have hshown : v (State.showCause { s with laid.hard := some cause }) = v s := (hcause _ _).trans (hhard _ _)
  unfold State.hardStop
  split
  · rfl
  · dsimp only
    split
    · exact hshown
    · exact (hv.hardRecords _ cause g).trans ((hstate _ _).trans hshown)

theorem State.hardStop_blanks {cause g : Nat} (hrun : s.laid.running = true) (hhard : s.laid.hard = none) :
    (s.hardStop cause g).laidEvents.laid.hard = some cause ∧
      (s.hardStop cause g).laidEvents.rd F.laidStat_state = Lst.blanking := by
  have hview : Ungapped fun u : State => u.laid.hard :=
    ⟨fun _ _ _ _ => rfl, fun u _ _ _ => congrArg Laid.hard (State.emit_laid ..), fun _ _ => rfl, fun _ _ => rfl,
      fun _ _ => rfl, fun _ _ => rfl, fun _ _ => rfl⟩
  have hrd : Ungapped fun u : State => u.rd F.laidStat_state 0 := .rd (m := 1) (by decide) (by decide)
  rw [State.hardStop_running hrun hhard]
  refine ⟨(hview.laidEvents _).trans (hview.hardRecords _ _ _), (hrd.laidEvents _).trans ((hrd.hardRecords _ _ _).trans ?_)⟩
  exact State.rd_wr_fits (by decide) (by decide)

end Sys2Proof.Machine
end

section
/-! SUPPORT. Stripes at the Laid (R357, R358, R366, R367, R373 to R378): one lemma per clause of O26. -/

namespace Sys2Proof.Machine

variable {s : State} {g : Nat}

/-! ### Arming (R357, R358) -/

theorem armFree_iff : s.armFree = true ↔ s.flag F.laidCtl_enable = true ∧ s.laid.running = false ∧ s.laid.armed = false ∧
    floorDiv s.reel.h 8 < s.originShadow - 1 ∧ s.flag F.screeStat_warn = false ∧ s.flag F.screeStat_crit = false ∧
    s.mode = Md.expose ∧ s.laid.stopping = false ∧ s.linkLost = false := by
  simp [State.armFree, and_assoc]

theorem State.rd_laidState (s : State) {n : Nat} (hn : n < 8) : (s.laidState n).rd F.laidStat_state = n :=
  State.rd_wr_fits (by decide) hn

/-- The line time of a stripe from the last tick (R357). -/
def State.timed (s : State) (o : Int) : State :=
  match s.laid.lastTick with
  | some l => s.setLineTime (l - o)
  | none => s

theorem State.timed_keeps (s : State) (o : Int) : (s.timed o).laid.armed = s.laid.armed ∧ (s.timed o).laid.gen = s.laid.gen ∧
    (s.timed o).rd F.laidStat_state = s.rd F.laidStat_state := by
  unfold State.timed
  split
  · exact ⟨rfl, rfl, sameRd.wrClearOf (n := 1) (m := 1) (sameRd.refl.withLaid _) (by decide) (by decide) (by decide)⟩
  · exact ⟨rfl, rfl, rfl⟩

/-- The Laid armed (R357). -/
def State.armed (s : State) (g : Nat) : State :=
  State.timed (State.laidState { s with laid.armed := true, laid.gen := g } Lst.armed) s.originShadow

theorem State.arm_armFree (h : s.armFree = true) (g : Nat) : s.arm g = s.armed g := by
  obtain ⟨hen, hrun, harmed, hline, hwarn, hcrit, hmode, hstop, hlink⟩ := armFree_iff.1 h
  have hbefore : ¬ s.originShadow ≤ floorDiv s.reel.h 8 + 1 := by omega
  unfold State.arm
  refine (if_neg (by simp [hen])).trans ((if_neg ?_).trans ((if_neg (by simp [hrun])).trans
    ((if_neg (by simp [harmed])).trans rfl)))
  simp [hbefore, hwarn, hcrit, hmode, hstop, hlink]

theorem State.arm_arms (h : s.armFree = true) (g : Nat) : (s.arm g).laidEvents.laid.armed = true ∧
    (s.arm g).laidEvents.laid.gen = g ∧ (s.arm g).laidEvents.rd F.laidStat_state = Lst.armed := by
  have harmed : Ungapped fun u : State => u.laid.armed :=
    ⟨fun _ _ _ _ => rfl, fun u _ _ _ => congrArg Laid.armed (State.emit_laid ..), fun _ _ => rfl, fun _ _ => rfl,
      fun _ _ => rfl, fun _ _ => rfl, fun _ _ => rfl⟩
  have hgen : Ungapped fun u : State => u.laid.gen :=
    ⟨fun _ _ _ _ => rfl, fun u _ _ _ => congrArg Laid.gen (State.emit_laid ..), fun _ _ => rfl, fun _ _ => rfl,
      fun _ _ => rfl, fun _ _ => rfl, fun _ _ => rfl⟩
  have hrd : Ungapped fun u : State => u.rd F.laidStat_state 0 := .rd (m := 1) (by decide) (by decide)
  rw [State.arm_armFree h]
  obtain ⟨hta, htg, htr⟩ := State.timed_keeps (State.laidState { s with laid.armed := true, laid.gen := g } Lst.armed)
    s.originShadow
  exact ⟨(harmed.laidEvents _).trans hta, (hgen.laidEvents _).trans htg, (hrd.laidEvents _).trans
    (htr.trans (State.rd_laidState _ (by decide)))⟩

theorem laidDisarm_cancels (h : s.laid.armed = true) : answers .laidDisarm s (fun t =>
    t.laid.armed = false ∧ t.rd F.laidStat_state = Lst.idle ∧ t.flag F.laidStat_nextArmed = false) := by
  let u := (({ s.down F.laidStat_nextArmed with laid := s.laid.quiet } : State).laidState Lst.idle).showCause
  have hexec : exec .laidDisarm s = .next u := by
    rw [exec_laidDisarm, execLaidDisarm, State.disarm]
    have harmed : (s.down F.laidStat_nextArmed).laid.armed = true := h
    rw [harmed]
    rfl
  refine ⟨u, hexec, rfl, ?_, ?_⟩
  · simp only [u, State.showCause]
    rw [State.rd_wr_beside (by decide)]
    exact State.rd_wr_fits (by decide) (by decide)
  · have hsame : sameRd F.laidStat_nextArmed 0 (s.down F.laidStat_nextArmed) u :=
      ((sameRd.refl.withLaid s.laid.quiet).wrClearOf (n := 1) (m := 1) (by decide) (by decide) (by decide)).wrClearOf (n := 1)
        (m := 1) (by decide) (by decide) (by decide)
    exact (State.flag_congr hsame).trans (State.flag_down_self (by decide))

/-! ### WARN, CRIT, the interlock (R377, R378) -/

/-- The release of lines stopped with the cause shown (R377). -/
def State.softShown (s : State) (cause : Nat) : State :=
  let s := ({ s with laid.soft := some cause } : State).showCause
  s.laidState (if s.drained (s.laid.time.getD 0) then Lst.blanking else Lst.draining)

theorem State.softStop_running {cause : Nat} (hrun : s.laid.running = true) (hsoft : s.laid.soft = none)
    (hhard : s.laid.hard = none) : s.softStop cause = s.softShown cause := by
  unfold State.softStop
  refine (if_neg (by simp [hrun, hsoft, hhard])).trans ((if_neg ?_).trans rfl)
  have hrun' : (State.showCause { s with laid.soft := some cause }).laid.running = true := hrun
  simp [hrun']

theorem warnArrive_stops (hwarn : s.flag F.screeStat_warn = true) (hrun : s.laid.running = true)
    (hsoft : s.laid.soft = none) (hhard : s.laid.hard = none) : answers .warnArrive s (fun t =>
      t.laid.soft = some Gc.warn ∧ t.rd F.laidStat_state ∈ [Lst.draining, Lst.blanking]) := by
  have hview : Ungapped fun u : State => u.laid.soft :=
    ⟨fun _ _ _ _ => rfl, fun u _ _ _ => congrArg Laid.soft (State.emit_laid ..), fun _ _ => rfl, fun _ _ => rfl,
      fun _ _ => rfl, fun _ _ => rfl, fun _ _ => rfl⟩
  have hrd : Ungapped fun u : State => u.rd F.laidStat_state 0 := .rd (m := 1) (by decide) (by decide)
  refine ⟨(s.softShown Gc.warn).laidEvents, ?_, hview.laidEvents _, ?_⟩
  · rw [exec_warnArrive, execWarnArrive, hwarn, State.softStop_running hrun hsoft hhard]
    rfl
  · rw [hrd.laidEvents]
    unfold State.softShown
    dsimp only
    split
    · rw [State.rd_laidState _ (by decide)]
      decide
    · rw [State.rd_laidState _ (by decide)]
      decide

theorem critArrive_blanks (hcrit : s.flag F.screeStat_crit = true) (hrun : s.laid.running = true)
    (hhard : s.laid.hard = none) : answers .critArrive s (fun t =>
      t.laid.hard = some Gc.crit ∧ t.rd F.laidStat_state = Lst.blanking) := by
  refine ⟨(s.hardStop Gc.crit).laidEvents, ?_, State.hardStop_blanks hrun hhard⟩
  rw [exec_critArrive, execCritArrive, hcrit]
  rfl

theorem interlock_blanks (n : Fin 8) (hrun : s.laid.running = true) (hhard : s.laid.hard = none) :
    answers (.interlock n) s (fun t => t.laid.hard = some Gc.interlock ∧ t.rd F.laidStat_state = Lst.blanking) :=
  ⟨_, rfl, State.hardStop_blanks hrun hhard⟩

/-! ### Shots (R367) -/

section
variable {α : Type} {v : State → α} {k : ShotTick} {rest : List ShotTick}

/-- A view of neither the lanes nor what is shown. -/
theorem State.launch_view (hv : Unshown v) (hlinks : ∀ u x, v { u with links := x } = v u) (s : State) (n : Nat)
    (b : Bytes) (a : Nat) : v (s.launch n b a) = v s := by
  unfold State.launch
  extract_lets l taps slot toff
  split
  extract_lets u w
  have hu : v u = v s := hv.eq ((Shows.refl s).andIf fun h => h.up _ _)
  have hw : v w = v u := hlinks _ _
  exact (hv.eq ((Shows.refl w).emit _)).trans (hw.trans hu)

/-- A SHOT noted in its line time's entry (R367). -/
def State.shotNoted (s : State) (k : ShotTick) (l : ShotLine) : State :=
  if !k.late then s.setShotLine l else
  (s.vCount Vc.shotLate 1).setShotLine { l with late := l.late ++ [k.sub], ns := some (l.ns.getD s.ns) }

theorem State.sendShot_eq (s : State) (t : Nat) (k : ShotTick) : ∃ (u : State) (l : ShotLine), s.sendShot t k =
    State.shotNoted { u with laid.lastShot := some (t, k.sub) } k l ∧ u.laid = s.laid ∧ u.chief = s.chief := by
  have hfire : ∀ {β : Type} (v : State → β), Unshown v → (∀ u x, v { u with links := x } = v u) →
      v (forAll s.drvChannels (fun h s =>
        s.launch h (leBytes 1 0x32 ++ leBytes 4 t ++ leBytes 1 (k.sub + b2n k.late * 8)) k.instant) s) = v s :=
    fun v hv hl => forAll_view v fun h u => State.launch_view hv hl u _ _ _
  exact ⟨_, _, rfl, hfire State.laid (fun _ _ _ _ => rfl) (fun _ _ => rfl), hfire State.chief (fun _ _ _ _ => rfl) (fun _ _ => rfl)⟩

/-- A SHOT sent leaves the ticks still to come and the transition alone. -/
theorem State.sendShot_fires (s : State) (t : Nat) (k : ShotTick) : (s.sendShot t k).laid.inbox = s.laid.inbox ∧
    (s.sendShot t k).laid.lastShot = some (t, k.sub) ∧ (s.sendShot t k).chief = s.chief := by
  obtain ⟨u, l, he, hlaid, hchief⟩ := s.sendShot_eq t k
  rw [he, ← hlaid, ← hchief]
  unfold State.shotNoted
  split <;> exact ⟨rfl, rfl, rfl⟩

/-- A tick of a running stripe that neither begins a line nor ends the stripe sends its SHOT. -/
theorem State.laidTick_shot (hrun : s.laid.running = true) (hhard : s.laid.hard = none) (hskip : k.skipped = false)
    (hlast : s.laid.lastTick = some k.line) (hsub : k.sub ≠ 7) (hfrom : s.laid.origin ≤ k.line)
    (hto : k.line - s.laid.origin ≤ s.laid.endTime) : s.laidTick k 0 [] [] =
      (State.vCount { s with laid.lastTick := some k.line } Vc.vatCorr 0).sendShot (k.line - s.laid.origin).toNat k := by
  have hwithin : (decide (0 ≤ k.line - s.laid.origin) && decide (k.line - s.laid.origin ≤ s.laid.endTime)) = true := by
    simp [hfrom, hto]
  have hstripe : ∀ u : State, u.laid.endTime = s.laid.endTime → u.laid.hard = none →
      u.stripeTick (k.line - s.laid.origin) k false [] [] = u.sendShot (k.line - s.laid.origin).toNat k := by
    intro u hend huhard
    unfold State.stripeTick
    rw [hend, hwithin, huhard, hskip]
    have hnotEnd : ((k.line - s.laid.origin == (u.sendShot (k.line - s.laid.origin).toNat k).laid.endTime) && k.sub == 7) = false := by
      simp [hsub]
    exact if_neg (by rw [Bool.not_eq_true]; exact hnotEnd)
  let w := State.vCount { s with laid.lastTick := some k.line } Vc.vatCorr 0
  have hon : (if w.laid.running && decide (w.laid.endTime < k.line - w.laid.origin) then w.endStripe else w) = w := by
    have hlive : (w.laid.running && decide (w.laid.endTime < k.line - w.laid.origin)) = false := by
      rw [Bool.and_eq_false_iff, decide_eq_false_iff_not]
      exact .inr (Int.not_lt.2 hto)
    exact if_neg (by rw [hlive]; decide)
  unfold State.laidTick
  rw [hskip, hlast, if_neg Bool.false_ne_true, bne_self_eq_false]
  refine Eq.trans ?_ (hstripe w rfl hhard)
  refine (if_pos ?_).trans ?_
  · exact (congrArg (fun x : State => x.laid.running) hon).trans hrun
  · exact congrArg (fun x : State => x.stripeTick (k.line - x.laid.origin) k false [] []) hon

theorem laidShotTick_sends (hinbox : s.laid.inbox = k :: rest) (hjoint : s.chief.joint = none)
    (hrun : s.laid.running = true) (hhard : s.laid.hard = none) (hskip : k.skipped = false)
    (hlast : s.laid.lastTick = some k.line) (hsub : k.sub ≠ 7) (hfrom : s.laid.origin ≤ k.line)
    (hto : k.line - s.laid.origin ≤ s.laid.endTime) : answers (.laidShotTick 0 [] []) s (fun t =>
      t.laid.inbox = rest ∧ t.laid.lastShot = some ((k.line - s.laid.origin).toNat, k.sub)) := by
  let u := State.vCount { s with laid.inbox := rest, laid.lastTick := some k.line } Vc.vatCorr 0
  let w := u.sendShot (k.line - s.laid.origin).toNat k
  obtain ⟨hin, hshot, hchief⟩ := u.sendShot_fires (k.line - s.laid.origin).toNat k
  have hevents : w.laidEvents.chief = w.chief :=
    Ungapped.laidEvents (v := State.chief) ⟨fun _ _ _ _ => rfl, fun _ _ _ _ => State.emit_chief .., fun _ _ => rfl,
      fun _ _ => rfl, fun _ _ => rfl, fun _ _ => rfl, fun _ _ => rfl⟩ w
  have hsettle : w.laidEvents.exposeSettle = w.laidEvents := by
    unfold State.exposeSettle
    rw [hevents, show w.chief = s.chief from hchief, hjoint]
  have hexec : exec (.laidShotTick 0 [] []) s = .next w.laidEvents := by
    rw [exec_laidShotTick, execLaidShotTick, hinbox]
    dsimp only
    rw [List.map_nil, List.map_nil, State.laidTick_shot (s := { s with laid.inbox := rest }) hrun hhard hskip hlast hsub
      hfrom hto]
    exact congrArg Host.Outcome.next hsettle
  have hview : Ungapped fun u : State => (u.laid.inbox, u.laid.lastShot) :=
    ⟨fun _ _ _ _ => rfl, fun u _ _ _ => congrArg (fun l : Laid => (l.inbox, l.lastShot)) (State.emit_laid ..),
      fun _ _ => rfl, fun _ _ => rfl, fun _ _ => rfl, fun _ _ => rfl, fun _ _ => rfl⟩
  have hkept := hview.laidEvents w
  rw [Prod.mk.injEq] at hkept
  exact ⟨_, hexec, hkept.1.trans hin, hkept.2.trans hshot⟩

end

end Sys2Proof.Machine
end

section
/-! SUPPORT. Driver status and loss (R373 to R376, R402): what a temperature and a lost channel change. -/

namespace Sys2Proof.Machine

variable {s s0 t : State} {f g : Fld} {i j k m n : Nat} {α : Type} {v : State → α} {h : Fin 48}

/-! ### Temperatures (R402) -/

/-- The registers that a driver's temperature writes. -/
def tempFlds : List Fld :=
  [F.screeTempMax_tMax, F.screeTempMax_hotCh, F.screeStat_warn, F.screeStat_crit, F.screeStat_critLatched,
    F.screeStat_tempStale, F.screeCnt_count Zc.sensorFault, F.screeCnt_count Zc.warnEvents, F.screeCnt_count Zc.critEvents]

/-- A view of neither what temperatures show nor the Scree's channels. -/
structure Untemped (v : State → α) : Prop where
  wr : ∀ (u : State) (f : Fld) (n : Nat), f ∈ tempFlds → v (u.wr f 0 n) = v u
  event : ∀ (u : State) (p w isl : Nat), v (u.event p w isl) = v u
  screeChs : ∀ u x, v { u with screeChs := x } = v u

theorem Untemped.rd (hg : g.besideEach m tempFlds = true) (hj : j < m) : Untemped fun u => u.rd g j where
  wr u _ n hf := (sameRd.refl (s := u)).wrEach (n := n) hg hj hf
  event _ _ _ _ := State.rd_event ..
  screeChs _ _ := rfl

theorem Untemped.showTemp (hv : Untemped v) (s : State) : v s.showTemp = v s := by
  unfold State.showTemp
  split
  · exact (hv.wr _ _ _ (by decide)).trans (hv.wr _ _ _ (by decide))
  · exact (hv.wr _ _ _ (by decide)).trans (hv.wr _ _ _ (by decide))

theorem Untemped.drvTemp (hv : Untemped v) (s : State) (h temp : Nat) (warn crit : Bool) :
    v (s.drvTemp h temp warn crit) = v s := by
  have hif : ∀ (b : Bool) {x y : State}, v x = v y → v (if b then x else y) = v y := fun b x y hxy => by
    cases b
    · rfl
    · exact hxy
  have hwr : ∀ {f : Fld} {n : Nat} (u : State), f ∈ tempFlds → v (u.wr f 0 n) = v u := fun u hf => hv.wr u _ _ hf
  unfold State.drvTemp
  extract_lets c u1 u2 u3 w c' u4 u5
  have h2 : v u2 = v s := (hif _ (hwr u1 (by decide))).trans (hv.screeChs _ _)
  split
  · exact h2
  · have h3 : v u3 = v s := (hv.showTemp u2).trans h2
    have h4 : v u4 = v s := (hif _ ((hwr _ (by decide)).trans (hwr u3 (by decide)))).trans h3
    have h5 : v u5 = v s :=
      (hif _ ((hwr _ (by decide)).trans ((hwr _ (by decide)).trans (hwr u4 (by decide))))).trans h4
    exact (hif _ (hv.event _ _ _ _)).trans h5

theorem Untemped.drvStale (hv : Untemped v) (s : State) (h : Nat) : v (s.drvStale h) = v s :=
  (hv.showTemp _).trans ((hv.wr _ _ _ (by decide)).trans (hv.screeChs _ _))

/-! ### A status (R373 to R376) -/

theorem State.takeSeq_unstarted {p w : Nat} {lane : Option Nat} (hs : (s.sport p).started = false) :
    s.takeSeq p w m lane = ((s.setSport p { s.sport p with started := true }).wr F.sportSeq_seq p m, true) := by
  unfold State.takeSeq
  exact if_pos (by simp [hs])

theorem State.laidCh_setLaidCh (s : State) (h : Nat) (c : LaidCh) : (s.setLaidCh h c).laidCh h = c := Sparse.get_set_self ..

/-- A channel's status shown (R376). -/
def State.statusShown (s : State) (h temp line : Nat) : State :=
  (((s.setLaidCh h { lost := false, fresh := true }).up F.laidChStat_linkOk h).wr F.laidChStat_temp h temp).wr
    F.laidChLast_lastLine h line

theorem State.statusShown_shows (s : State) (temp : BitVec 8) (line : BitVec 16) :
    (s.statusShown h temp.toNat line.toNat).flag F.laidChStat_linkOk h = true ∧
    (s.statusShown h temp.toNat line.toNat).rd F.laidChStat_temp h = temp.toNat ∧
    (s.statusShown h temp.toNat line.toNat).rd F.laidChLast_lastLine h = line.toNat ∧
    ((s.statusShown h temp.toNat line.toNat).laidCh h).lost = false := by
  unfold State.statusShown
  refine ⟨?_, ?_, State.rd_wr_fits (by decide) line.isLt, ?_⟩
  · have hup : sameRd F.laidChStat_linkOk h ((s.setLaidCh h { lost := false, fresh := true }).up F.laidChStat_linkOk h)
        (((((s.setLaidCh h { lost := false, fresh := true }).up F.laidChStat_linkOk h).wr F.laidChStat_temp h temp.toNat)).wr
          F.laidChLast_lastLine h line.toNat) :=
      (sameRd.refl.wrClearOf (n := 48) (by decide) h.isLt h.isLt).wrClearOf (n := 48) (by decide) h.isLt h.isLt
    exact (State.flag_congr hup).trans (State.flag_up_self (by decide) (by decide))
  · rw [State.rd_wr_beside_fin (by decide)]
    exact State.rd_wr_fits (by decide) temp.isLt
  · exact congrArg LaidCh.lost (State.laidCh_setLaidCh s h { lost := false, fresh := true })

/-- A shot that its driver refused is counted and written (R374). -/
def State.refusedShot (s : State) (h flags line : Nat) : State :=
  let t := s.statusLine line
  let refused := bit flags 1 || bit flags 2 || !bit flags 0
  if bit flags 6 || !refused || !s.laid.running || t < 0 then s else
  let s := (s.vCount Vc.drvReject 1).count F.laidChErr_rejects h 1
  (s.gap Gk.channel Gc.driverReject t.toNat h 0 s.ns).laidEvents

theorem Ungapped.refusedShot (hv : Ungapped v) (hc : ∀ u n, v (u.wr (F.laidCnt_count Vc.drvReject) 0 n) = v u)
    (hr : ∀ u n, v (u.wr F.laidChErr_rejects h n) = v u) (s : State) (flags line : Nat) :
    v (s.refusedShot h flags line) = v s := by
  unfold State.refusedShot
  dsimp only
  split
  · rfl
  · exact (hv.laidEvents _).trans ((hv.gap _ _ _ _ _ _ _ _).trans ((hr _ _).trans (hc _ _)))

/-- A register of the channels beside what a status writes after it is shown. -/
theorem State.rd_statusEnd (hg : g.besideEach 48 (F.laidCnt_count Vc.drvReject :: gapFlds ++ tempFlds) = true)
    (hr : F.laidChErr_rejects.clearOf 48 g 48 = true) (s : State) (temp flags line : Nat) (warn crit : Bool) :
    sameRd g h s ((s.drvTemp h temp warn crit).refusedShot h flags line) := by
  have hmem : ∀ f ∈ F.laidCnt_count Vc.drvReject :: gapFlds ++ tempFlds, f.clearOf 1 g 48 = true := List.all_eq_true.1 hg
  have hgap : g.besideEach 48 gapFlds = true :=
    List.all_eq_true.2 fun f hf => hmem f (List.mem_append_left _ (List.mem_cons_of_mem _ hf))
  have htemp : g.besideEach 48 tempFlds = true := List.all_eq_true.2 fun f hf => hmem f (List.mem_append_right _ hf)
  refine ((Ungapped.rd hgap h.isLt).refusedShot (fun u n => ?_) (fun u n => ?_) _ _ _).trans
    ((Untemped.rd htemp h.isLt).drvTemp s h temp warn crit)
  · exact State.rd_wr_clearOf (hmem _ (by decide)) Nat.one_pos h.isLt
  · exact State.rd_wr_clearOf hr h.isLt h.isLt

theorem drvStatusRx_keeps (seq line : BitVec 16) (flags temp : BitVec 8) (hserv : s.drvInService h = true)
    (hbad : bit flags.toNat 7 = false) (hstart : (s.sport (4 * h + 1)).started = false) :
    answers (.drvStatusRx h seq flags temp line) s (fun t => t.flag F.laidChStat_linkOk h = true ∧
      t.rd F.laidChStat_temp h = temp.toNat ∧ t.rd F.laidChLast_lastLine h = line.toNat ∧
      (t.laidCh h).lost = false) := by
  let p := 4 * h.val + 1
  let u := ((s.setSport p { s.sport p with started := true }).wr F.sportSeq_seq p seq.toNat).statusShown h temp.toNat line.toNat
  let w := (u.drvTemp h temp.toNat (bit flags.toNat 4) (bit flags.toNat 5)).refusedShot h flags.toNat line.toNat
  have hexec : exec (.drvStatusRx h seq flags temp line) s = .next w := by
    rw [exec_drvStatusRx, execDrvStatusRx, State.drvStatus, hserv, if_neg (by decide), hbad, if_neg (by decide),
      State.takeSeq_unstarted hstart]
    rfl
  obtain ⟨hlink, htemp, hline, hlost⟩ := State.statusShown_shows (h := h)
    ((s.setSport p { s.sport p with started := true }).wr F.sportSeq_seq p seq.toNat) temp line
  have hchs : w.laidChs = u.laidChs := by
    have hgap : Ungapped State.laidChs := ⟨fun _ _ _ _ => rfl, fun _ _ _ _ => State.emit_laidChs .., fun _ _ => rfl,
      fun _ _ => rfl, fun _ _ => rfl, fun _ _ => rfl, fun _ _ => rfl⟩
    have hcool : Untemped State.laidChs := ⟨fun _ _ _ _ => rfl, fun _ _ _ _ => State.emit_laidChs .., fun _ _ => rfl⟩
    exact (hgap.refusedShot (fun _ _ => rfl) (fun _ _ => rfl) _ _ _).trans (hcool.drvTemp _ _ _ _ _)
  refine ⟨w, hexec, (State.flag_congr (State.rd_statusEnd (by decide) (by decide) u _ _ _ _ _)).trans hlink,
    Eq.trans (State.rd_statusEnd (by decide) (by decide) u _ _ _ _ _) htemp,
    Eq.trans (State.rd_statusEnd (by decide) (by decide) u _ _ _ _ _) hline, ?_⟩
  rw [State.laidCh, hchs]
  exact hlost

/-! ### A channel lost (R375) -/

/-- A lost channel as it is shown. -/
def State.lostShown (s : State) (h : Nat) : State :=
  ((s.setLaidCh h { lost := true, fresh := false }).up F.laidChStat_lost h).down F.laidChStat_linkOk h

/-- The registers of a stripe that blanks. -/
def blankFlds : List Fld := F.laidStat_state :: F.laidStat_blankCause :: gapFlds

theorem State.loseChannel_laidChs (s : State) (h : Nat) : (s.loseChannel h).laidChs = (s.lostShown h).laidChs := by
  have hgap : Ungapped State.laidChs := ⟨fun _ _ _ _ => rfl, fun _ _ _ _ => State.emit_laidChs .., fun _ _ => rfl,
    fun _ _ => rfl, fun _ _ => rfl, fun _ _ => rfl, fun _ _ => rfl⟩
  unfold State.loseChannel
  dsimp only
  split
  · exact (hgap.laidEvents _).trans (hgap.hardStop (fun _ _ => rfl) (fun _ _ => rfl) (fun _ _ => rfl) _)
  · rfl

theorem State.rd_loseChannel (hg : g.besideEach 48 blankFlds = true) (s : State) (n : Nat) :
    sameRd g h (s.lostShown n) (s.loseChannel n) := by
  have hmem : ∀ f ∈ blankFlds, f.clearOf 1 g 48 = true := List.all_eq_true.1 hg
  have hgap : Ungapped fun u => u.rd g h := .rd (m := 48)
    (List.all_eq_true.2 fun f hf => hmem f (List.mem_cons_of_mem _ (List.mem_cons_of_mem _ hf))) h.isLt
  unfold State.loseChannel
  dsimp only
  split
  · refine (hgap.laidEvents _).trans (hgap.hardStop (fun u n => ?_) (fun u n => ?_) (fun _ _ => rfl) _)
    · exact State.rd_wr_clearOf (hmem _ (by decide)) Nat.one_pos h.isLt
    · exact State.rd_wr_clearOf (hmem _ (by decide)) Nat.one_pos h.isLt
  · rfl

theorem drvStatusTimeout_loses (hserv : s.drvInService h = true) (hlost : (s.laidCh h).lost = false) :
    answers (.drvStatusTimeout h) s (fun t => t.flag F.laidChStat_silent h = true ∧
      t.flag F.laidChStat_lost h = true ∧ t.flag F.laidChStat_linkOk h = false ∧ (t.laidCh h).lost = true) := by
  let u := (s.up F.laidChStat_silent h).drvStale h
  have hu : (u.laidCh h).lost = false := by
    have hcool : Untemped State.laidChs := ⟨fun _ _ _ _ => rfl, fun _ _ _ _ => State.emit_laidChs .., fun _ _ => rfl⟩
    rw [State.laidCh, show u.laidChs = s.laidChs from hcool.drvStale _ _]
    exact hlost
  have hexec : exec (.drvStatusTimeout h) s = .next (u.loseChannel h) := by
    rw [exec_drvStatusTimeout, execDrvStatusTimeout, hserv, if_neg (by decide)]
    exact congrArg Host.Outcome.next (if_neg (by rw [hu]; decide))
  have hsilent : u.flag F.laidChStat_silent h = true :=
    (State.flag_congr ((Untemped.rd (m := 48) (by decide) h.isLt).drvStale _ _)).trans (State.flag_up_self (by decide) (by decide))
  have hkept : sameRd F.laidChStat_silent h u (u.lostShown h) :=
    (sameRd.wrClearOf (n := 48) (sameRd.refl.withLaidChs _) (by decide) h.isLt h.isLt).wrClearOf (n := 48) (by decide) h.isLt h.isLt
  have hshown : (u.lostShown h).flag F.laidChStat_lost h = true :=
    (State.flag_congr (sameRd.refl.wrClearOf (n := 48) (by decide) h.isLt h.isLt)).trans
      (State.flag_up_self (by decide) (by decide))
  refine ⟨_, hexec, ?_, ?_, ?_, ?_⟩
  · exact (State.flag_congr (State.rd_loseChannel (by decide) u h)).trans ((State.flag_congr hkept).trans hsilent)
  · exact (State.flag_congr (State.rd_loseChannel (by decide) u h)).trans hshown
  · exact (State.flag_congr (State.rd_loseChannel (by decide) u h)).trans (State.flag_down_self (by decide))
  · rw [State.laidCh, State.loseChannel_laidChs]
    exact congrArg LaidCh.lost (State.laidCh_setLaidCh u h { lost := true, fresh := false })

/-- Settles O26: arming by its equation, blanking past its records, a status past what its temperature shows. -/
theorem laidStripes : Obligations.LaidStripes :=
  ⟨fun s h => ⟨_, rfl, (s.arm_arms h 0).1, (s.arm_arms h 0).2.2⟩, fun s g h => ⟨_, rfl, s.arm_arms h (g.val + 1)⟩,
    fun _ => laidDisarm_cancels, fun _ => warnArrive_stops, fun _ => critArrive_blanks, fun _ => interlock_blanks,
    fun _ _ _ => laidShotTick_sends, fun _ _ => drvStatusRx_keeps, fun _ _ => drvStatusTimeout_loses⟩

end Sys2Proof.Machine
end

section
/-! SUPPORT. The Scree's register exchange, commits and limits (R389, R398 to R401, R404): one lemma per clause of O27. -/

namespace Sys2Proof.Machine

variable {s s0 t : State} {f g : Fld} {i j k m n : Nat} {α : Type} {v : State → α} {h : Fin 48}

theorem State.screeCh_setScreeCh (s : State) (n : Nat) (c : ScreeCh) : (s.setScreeCh n c).screeCh n = c :=
  Sparse.get_set_self ..

theorem State.screeCh_setScreeCh_ne (s : State) {n k : Nat} (c : ScreeCh) (hk : k ≠ n) :
    (s.setScreeCh n c).screeCh k = s.screeCh k := Sparse.get_set_ne _ _ _ hk

theorem sameRd.setScreeCh (hs : sameRd g j s0 s) (n : Nat) (c : ScreeCh) : sameRd g j s0 (s.setScreeCh n c) := hs.same rfl

/-! ### What an exchange leaves alone -/

theorem State.sendDrvCtrl_shows (s : State) (n ctag : Nat) (write : Bool) (addr data : Nat) :
    Shows s (s.sendDrvCtrl n ctag write addr data) := (Shows.refl s).andUnless fun h => (h.emit _).emit _

theorem State.sendDrvCtrl_regs (s : State) (n ctag : Nat) (write : Bool) (addr data : Nat) :
    (s.sendDrvCtrl n ctag write addr data).regs = s.regs := by
  unfold State.sendDrvCtrl
  split
  · rfl
  · exact (State.emit_regs ..).trans (State.emit_regs ..)

theorem sameRd.sendStart (hs : sameRd g j s0 s) (n : Nat) : sameRd g j s0 (s.sendStart n) :=
  (hs.setScreeCh n _).same (State.sendDrvCtrl_regs ..)

/-- MEAS_START to a channel (R391). -/
theorem State.screeCh_sendStart (s : State) (n : Nat) : (s.sendStart n).screeCh n =
    { s.screeCh n with
      ctag := ((s.screeCh n).ctag + 1) % 32, start := some ⟨((s.screeCh n).ctag + 1) % 32, true⟩
      startWaits := false, startSent := true } :=
  ((State.sendDrvCtrl_shows ..).view (fun u => u.screeCh n) fun _ _ _ _ => rfl).trans (State.screeCh_setScreeCh ..)

/-- The host's request sent (R389). -/
theorem State.sendHost_eq (hwaits : s.scree.hostWaits = true) (hrun : s.laid.running = false)
    (hfree : s.measuring (s.rd F.screeDctl_channel) = false) : ∃ u : State, s.sendHost = u ∧ u.scree.hostWaits = false ∧
      u.screeCh (s.rd F.screeDctl_channel) =
        { s.screeCh (s.rd F.screeDctl_channel) with
          ctag := ((s.screeCh (s.rd F.screeDctl_channel)).ctag + 1) % 32
          host := some ⟨((s.screeCh (s.rd F.screeDctl_channel)).ctag + 1) % 32, s.flag F.screeDctl_write⟩ } := by
  refine ⟨_, if_neg (by simp [hwaits, hrun, hfree]), ?_, ?_⟩
  · exact (State.sendDrvCtrl_shows ..).view (fun u => u.scree.hostWaits) fun _ _ _ _ => rfl
  · refine ((State.sendDrvCtrl_shows ..).view (fun u => u.screeCh (s.rd F.screeDctl_channel)) fun _ _ _ _ => rfl).trans ?_
    exact State.screeCh_setScreeCh ..

theorem sameRd.sendHost (hs : sameRd g 0 s0 s) (hg : F.screeDctl_ctag.clearOf 1 g 1 = true) : sameRd g 0 s0 s.sendHost := by
  refine hs.andUnless fun hs => ?_
  have hsent : sameRd g 0 s0 (State.wr { s.setScreeCh (s.rd F.screeDctl_channel)
      { s.screeCh (s.rd F.screeDctl_channel) with
        ctag := ((s.screeCh (s.rd F.screeDctl_channel)).ctag + 1) % 32
        host := some ⟨((s.screeCh (s.rd F.screeDctl_channel)).ctag + 1) % 32, s.flag F.screeDctl_write⟩ } with
      scree.hostWaits := false } F.screeDctl_ctag 0 (((s.screeCh (s.rd F.screeDctl_channel)).ctag + 1) % 32)) :=
    sameRd.wrClearOf (hs.same rfl) hg Nat.one_pos Nat.one_pos
  exact hsent.same (State.sendDrvCtrl_regs ..)

/-! ### The host's exchange (R389) -/

theorem screeDctlGo_busies (w : Word) (hidle : s.flag F.screeDctl_busy = false) (hgo : F.screeDctl_go.ofWord w = 1)
    (himage : s.exposeImage = true) : answers (.screeDctlGo w) s (fun t => t.flag F.screeDctl_busy = true ∧
      t.rd F.screeDctl_result = 0 ∧ t.rd F.screeDctl_channel = F.screeDctl_channel.ofWord w) := by
  let u := (s.wr F.screeDctl_channel 0 (F.screeDctl_channel.ofWord w)).wr F.screeDctl_write 0 (F.screeDctl_write.ofWord w)
  let x := (u.up F.screeDctl_busy).wr F.screeDctl_result 0 0
  let y : State := { x with scree.hostWaits := true }
  have huimage : u.exposeImage = true := by
    rw [State.exposeImage, State.rd_wr_beside (by decide), State.rd_wr_beside (by decide)]
    exact himage
  have hexec : exec (.screeDctlGo w) s = .next y.sendHost := by
    rw [exec_screeDctlGo, execScreeDctlGo, hidle, hgo]
    refine (if_neg Bool.false_ne_true).trans ((if_neg ?_).trans rfl)
    simp only [u] at huimage
    simp [huimage]
  have hsent : ∀ {g : Fld}, F.screeDctl_ctag.clearOf 1 g 1 = true → sameRd g 0 x y.sendHost := fun hg =>
    sameRd.sendHost (sameRd.refl.same rfl) hg
  refine ⟨_, hexec, ?_, ?_, ?_⟩
  · refine (State.flag_congr (hsent (by decide))).trans ?_
    have hup : sameRd F.screeDctl_busy 0 (u.up F.screeDctl_busy) x := State.rd_wr_beside (by decide)
    exact (State.flag_congr hup).trans (State.flag_up_self (by decide) (by decide))
  · exact Eq.trans (hsent (by decide)) (State.rd_wr_fits (by decide) (by decide))
  · refine Eq.trans (hsent (by decide)) ?_
    simp only [x, u, State.up]
    rw [State.rd_wr_beside (by decide), State.rd_wr_beside (by decide), State.rd_wr_beside (by decide)]
    exact State.rd_wr_fits (by decide) (bits_lt ..)

theorem drvCtrlSend_sends (hch : s.rd F.screeDctl_channel = n) (hwaits : s.scree.hostWaits = true)
    (hrun : s.laid.running = false) (hfree : s.measuring n = false) : answers .drvCtrlSend s (fun t =>
      t.scree.hostWaits = false ∧
      (t.screeCh n).host = some ⟨((s.screeCh n).ctag + 1) % 32, s.flag F.screeDctl_write⟩) := by
  obtain ⟨u, hu, hw, hc⟩ := State.sendHost_eq hwaits hrun (hch.symm ▸ hfree)
  rw [hch] at hc
  exact ⟨u, (exec_drvCtrlSend s).trans (congrArg Host.Outcome.next hu), hw, congrArg ScreeCh.host hc⟩

/-- What the end of an exchange shows (R389). -/
def State.hostEnded (s : State) (n result : Nat) : State :=
  ((s.setScreeCh n { s.screeCh n with host := none }).down F.screeDctl_busy).wr F.screeDctl_result 0 result

theorem State.screeCh_hostEnded (s : State) (n result : Nat) :
    (s.hostEnded n result).screeCh n = { s.screeCh n with host := none } :=
  ((((Shows.refl (s.setScreeCh n { s.screeCh n with host := none })).down _ _).wr _ _ _).view (fun u => u.screeCh n)
    fun _ _ _ _ => rfl).trans (State.screeCh_setScreeCh ..)

theorem State.endHost_eq (s : State) (n result : Nat) : s.endHost n result =
    if (s.screeCh n).startWaits && s.scree.running then (s.hostEnded n result).sendStart n else s.hostEnded n result := rfl

theorem sameRd.endHost (s : State) (n result : Nat) : sameRd g j (s.hostEnded n result) (s.endHost n result) := by
  rw [State.endHost_eq]
  exact sameRd.refl.andIf fun h => h.sendStart n

theorem State.hostEnded_shows (s : State) (n : Nat) {result : Nat} (hr : result < 8) :
    (s.hostEnded n result).flag F.screeDctl_busy = false ∧ (s.hostEnded n result).rd F.screeDctl_result = result := by
  refine ⟨?_, State.rd_wr_fits (by decide) hr⟩
  have hdown : sameRd F.screeDctl_busy 0 ((s.setScreeCh n { s.screeCh n with host := none }).down F.screeDctl_busy)
      (s.hostEnded n result) := State.rd_wr_beside (by decide)
  exact (State.flag_congr hdown).trans (State.flag_down_self (by decide))

/-- The end of an exchange frees SCREE_DCTL and shows its RESULT. -/
theorem State.endHost_shows (s : State) (n : Nat) {result : Nat} (hr : result < 8) :
    (s.endHost n result).flag F.screeDctl_busy = false ∧ (s.endHost n result).rd F.screeDctl_result = result := by
  obtain ⟨hbusy, hres⟩ := s.hostEnded_shows n hr
  exact ⟨(State.flag_congr (sameRd.endHost s n result)).trans hbusy, Eq.trans (sameRd.endHost s n result) hres⟩

/-- The channels' buffers and the levels that show them (R387). -/
theorem sameRd.showBuffer {c : Nat} (hs : sameRd g j s0 s) (hc : c < 48) (hj : j < m)
    (hg : F.screeBc_fill.far 48 g m = true) : sameRd g j s0 (s.showBuffer c) := by
  have hmiss : F.screeBc_fill.misses c g j := .of_far_fields hc hj hg
  exact ((hs.wr hmiss).andIf fun h => h.up (f := F.screeBc_hwm) hmiss).peak (f := F.screeBc_peak) hmiss

/-- The oldest message taken from a channel's buffer. -/
def State.backTaken (s : State) (n : Nat) (rest : List BackMsg) : State :=
  (s.setScreeCh n { s.screeCh n with buffer := rest }).showBuffer n

theorem State.takeBack_closed {m : BackMsg} {rest : List BackMsg} {ack : Bool} (hb : (s.screeCh n).buffer = m :: rest)
    (hclosed : m.closed = true) (hack : m.ack = ack) : s.takeBack n ack = some (m, s.backTaken n rest) := by
  unfold State.takeBack
  dsimp only
  rw [hb]
  exact if_pos (by simp [hclosed, hack])

theorem State.showBuffer_shows (s : State) (n : Nat) : Shows s (s.showBuffer n) :=
  (((Shows.refl s).wr _ _ _).andIf fun h => h.up _ _).peak _ _ _

theorem State.screeCh_backTaken (s : State) (n : Nat) (rest : List BackMsg) :
    (s.backTaken n rest).screeCh n = { s.screeCh n with buffer := rest } :=
  ((State.showBuffer_shows ..).view (fun u => u.screeCh n) fun _ _ _ _ => rfl).trans (State.screeCh_setScreeCh ..)

theorem State.scree_backTaken (s : State) (n : Nat) (rest : List BackMsg) : (s.backTaken n rest).scree = s.scree :=
  (State.showBuffer_shows ..).view State.scree fun _ _ _ _ => rfl

theorem drvAckRx_ends {msg : BackMsg} {d : Nat} {q : DrvReq} (hb : (s.screeCh h).buffer = [msg])
    (hclosed : msg.closed = true) (hack : msg.ack = true) (hblocks : msg.blocks = [d])
    (hhost : (s.screeCh h).host = some q) (hctag : q.ctag = bits msg.ctrl 8 5) (hrun : s.scree.running = false) :
    answers (.drvAckRx h) s (fun t => t.flag F.screeDctl_busy = false ∧
      t.rd F.screeDctlData_data = d / 2 ^ 32 % 2 ^ 32 ∧ (t.screeCh h).buffer = [] ∧ (t.screeCh h).host = none) := by
  let u := s.backTaken h []
  let w := u.wr F.screeDctlData_data 0 (d / 2 ^ 32)
  let r := if bits msg.ctrl 16 8 == 0 then 1 else if bits msg.ctrl 16 8 == 2 then 3 else 2
  have hch : u.screeCh h = { s.screeCh h with buffer := [] } := s.screeCh_backTaken h []
  have hscree : u.scree = s.scree := s.scree_backTaken h []
  have hexec : exec (.drvAckRx h) s = .next (w.endHost h r) := by
    rw [exec_drvAckRx, execDrvAckRx, State.takeBack_closed hb hclosed hack]
    dsimp only
    rw [hblocks]
    exact if_pos (by simp [show (s.backTaken h []).screeCh h = _ from hch, hhost, hctag])
  have hr : r < 8 := by
    simp only [r]
    split
    · decide
    · split <;> decide
  have hended : w.endHost h r = w.hostEnded h r := by
    rw [State.endHost_eq, if_neg]
    rw [show w.scree = s.scree from hscree, hrun]
    simp
  have hwch : (w.hostEnded h r).screeCh h = { s.screeCh h with buffer := [], host := none } := by
    have hw : w.screeCh h = u.screeCh h := rfl
    rw [State.screeCh_hostEnded, hw, hch]
  rw [hended] at hexec
  refine ⟨_, hexec, (w.hostEnded_shows h hr).1, ?_, congrArg ScreeCh.buffer hwch, congrArg ScreeCh.host hwch⟩
  have hdata : sameRd F.screeDctlData_data 0 w (w.hostEnded h r) :=
    (sameRd.wrClearOf (n := 1) (m := 1) (sameRd.refl.setScreeCh _ _) (by decide) (by decide) (by decide)).wrClearOf (n := 1)
      (m := 1) (by decide) (by decide) (by decide)
  exact Eq.trans hdata (State.rd_wr_self _ _ _ _ (by decide))

theorem drvCtrlTimeout_ends (hhost : (s.screeCh h).host.isSome = true) : answers (.drvCtrlTimeout h false) s (fun t =>
    t.flag F.screeDctl_busy = false ∧ t.rd F.screeDctl_result = 4) := by
  refine ⟨(s.zCount Zc.dctlTimeout 1).endHost h 4, ?_, State.endHost_shows _ _ (by decide)⟩
  rw [exec_drvCtrlTimeout, execDrvCtrlTimeout]
  have hnone : (s.screeCh h).host.isNone = false := by
    cases hc : (s.screeCh h).host with
    | none => rw [hc] at hhost; contradiction
    | some q => rfl
  rw [hnone]
  rfl

/-! ### Commits (R398 to R401) -/

theorem State.orderCommit_pends (himage : s.exposeImage = true) : s.orderCommit = s.up F.screeStat_commitPending := by
  rw [State.orderCommit, himage]
  rfl

theorem screeCommit_pends (himage : s.exposeImage = true) : answers .screeCommit s (fun t =>
    t.flag F.screeStat_commitPending = true) :=
  ⟨_, (exec_screeCommit s).trans (congrArg Host.Outcome.next (State.orderCommit_pends himage)),
    State.flag_up_self (by decide) (by decide)⟩

theorem screeCommitEvent_pends (himage : s.exposeImage = true) : answers .screeCommitEvent s (fun t =>
    t.flag F.screeStat_commitPending = true) :=
  ⟨_, (exec_screeCommitEvent s).trans (congrArg Host.Outcome.next (State.orderCommit_pends himage)),
    State.flag_up_self (by decide) (by decide)⟩

theorem screeCopyDone_ends (hsync : s.flag F.screeStat_syncing = true) : answers .screeCopyDone s (fun t =>
    t.flag F.screeStat_syncing = false ∧ t.scree.touched = []) := by
  rw [answers, exec_screeCopyDone, execScreeCopyDone, hsync]
  exact ⟨_, rfl, State.flag_down_self (by decide), rfl⟩

theorem tableRebuildDone_commits (hstate : s.rd F.screeStat_measState = 3) (hnone : s.scree.changed = [])
    (himage : s.exposeImage = true) (hdeg : (List.range 512).any s.columnDegraded = false) :
    answers .tableRebuildDone s (fun t =>
      t.flag F.screeStat_commitPending = true ∧ t.flag F.screeStat_degradedHold = false) := by
  let u := State.showMeas (State.wr { s with scree.changed := [] } F.screeStat_measState 0 0)
  have hsame : ∀ {g : Fld} {n : Nat}, F.screeStat_measState.passes 0 g n → sameRd g n s u := fun hg =>
    sameRd.wrPasses (sameRd.wrPasses (sameRd.refl.same rfl) hg) hg
  have hcols : u.columnDegraded = s.columnDegraded := by
    funext c
    have hfar : ∀ f : Fld, f.addr c = F.screeCol_exhausted.addr c → F.screeStat_measState.passes 0 f c := fun f hf => by
      refine .inl (hf ▸ ?_)
      simp only [Fld.addr, F.screeCol_exhausted, F.screeStat_measState]
      omega
    unfold State.columnDegraded
    rw [State.flag_congr (hsame (hfar F.screeCol_exhausted rfl)), State.flag_congr (hsame (hfar F.screeCol_floorOver rfl))]
  have himage' : (u.down F.screeStat_degradedHold).exposeImage = true := by
    rw [State.exposeImage, State.down, State.rd_wr_beside (by decide), hsame (.inl (by decide))]
    exact himage
  have hexec : exec .tableRebuildDone s = .next ((u.down F.screeStat_degradedHold).up F.screeStat_commitPending) := by
    rw [exec_tableRebuildDone, execTableRebuildDone, hstate, hnone]
    refine (if_neg (by decide)).trans ((if_neg ?_).trans (congrArg Host.Outcome.next (State.orderCommit_pends himage')))
    rw [Bool.not_eq_true]
    exact Bool.and_eq_false_iff.2 (.inl (hcols ▸ hdeg))
  refine ⟨_, hexec, State.flag_up_self (by decide) (by decide), ?_⟩
  have hbeside : sameRd F.screeStat_degradedHold 0 (u.down F.screeStat_degradedHold)
      ((u.down F.screeStat_degradedHold).up F.screeStat_commitPending) := State.rd_wr_beside (by decide)
  exact (State.flag_congr hbeside).trans (State.flag_down_self (by decide))


/-! ### Limits (R404) -/

theorem screeWarnClear_clears (hwarn : s.flag F.screeStat_warn = true) (hcool : s.tempAtMost (s.warnC - s.hystC) = true)
    (hquiet : s.drvChannels.all (fun h => !((s.screeCh h).current && (s.screeCh h).warn)) = true) :
    answers .screeWarnClear s (fun t => t.flag F.screeStat_warn = false) := by
  refine ⟨(s.down F.screeStat_warn).event 191 0 islScree, ?_, ?_⟩
  · rw [exec_screeWarnClear, execScreeWarnClear, hwarn, hcool, hquiet]
    rfl
  · exact (State.flag_congr (sameRd.refl.event _ _ _)).trans (State.flag_down_self (by decide))

theorem critClear_clears (hcrit : s.flag F.screeStat_crit = true) (hcool : s.tempAtMost (s.critC - s.hystC) = true)
    (hquiet : s.drvChannels.all (fun h => !((s.screeCh h).current && (s.screeCh h).crit)) = true) :
    answers .critClear s (fun t => t.flag F.screeStat_crit = false ∧ t.flag F.screeStat_critLatched = false) := by
  refine ⟨((s.down F.screeStat_crit).down F.screeStat_critLatched).event 191 0 islScree, ?_, ?_, ?_⟩
  · rw [exec_critClear, execCritClear, hcrit, hcool, hquiet]
    rfl
  · refine (State.flag_congr (sameRd.refl.event _ _ _)).trans ?_
    have hbeside : sameRd F.screeStat_crit 0 (s.down F.screeStat_crit) ((s.down F.screeStat_crit).down F.screeStat_critLatched) :=
      State.rd_wr_beside (by decide)
    exact (State.flag_congr hbeside).trans (State.flag_down_self (by decide))
  · exact (State.flag_congr (sameRd.refl.event _ _ _)).trans (State.flag_down_self (by decide))

/-- Settles O27: the exchange by what its channel and SCREE_DCTL show, commits and limits by their flags. -/
theorem screeExchangesAndOrder : Obligations.ScreeExchangesAndOrder :=
  ⟨fun _ => screeDctlGo_busies, fun _ _ => drvCtrlSend_sends, fun _ _ _ _ _ => drvAckRx_ends, fun _ _ => drvCtrlTimeout_ends,
    fun _ => screeCommit_pends, fun _ => screeCommitEvent_pends, fun _ => screeCopyDone_ends,
    fun _ => tableRebuildDone_commits, fun _ => screeWarnClear_clears, fun _ => critClear_clears⟩

end Sys2Proof.Machine
end

section
/-! SUPPORT. Measurement cycles (R390, R392 to R395): one lemma per clause of O28. -/

namespace Sys2Proof.Machine

variable {s s0 t : State} {f g : Fld} {i j k m n : Nat} {α : Type} {v : State → α} {h : Fin 48}

/-! ### A cycle starts (R392) -/

/-- A channel at the start of a cycle: MEAS_START is sent, or waits for the host's exchange (R390). -/
def State.startChannel (s : State) (h : Nat) : State :=
  let s := s.setScreeCh h { s.screeCh h with got := [], startSent := false, startWaits := false }
  let busy := (s.screeCh h).host.isSome || (s.scree.hostWaits && s.rd F.screeDctl_channel == h)
  if busy then (s.setScreeCh h { s.screeCh h with startWaits := true }).zCount Zc.deferred 1 else s.sendStart h

theorem sameRd.startChannel (hs : sameRd g 0 s0 s) (hg : (F.screeCnt_count Zc.deferred).clearOf 1 g 1 = true) (n : Nat) :
    sameRd g 0 s0 (s.startChannel n) :=
  .ite (((hs.setScreeCh n _).setScreeCh n _).wrClearOf hg Nat.one_pos Nat.one_pos) ((hs.setScreeCh n _).sendStart n)

theorem State.scree_startChannel (s : State) (n : Nat) : (s.startChannel n).scree = s.scree := by
  unfold State.startChannel
  dsimp only
  split
  · rfl
  · exact (State.sendDrvCtrl_shows ..).view State.scree fun _ _ _ _ => rfl

/-- The cycle's number and generation in force. -/
def State.cycleOpened (s : State) (gen : Nat) : State :=
  { s.wr F.screeCycle_cycle 0 (s.rd F.screeCycle_cycle + 1) with
    scree.running := true, scree.gen := gen, scree.values := [], scree.opened := false }

theorem State.startCycle_eq (s : State) (gen : Nat) : s.startCycle gen =
    (forAll (s.cycleOpened gen).drvChannels (fun h u => u.startChannel h) (s.cycleOpened gen)).wr F.screeStat_measState 0 2 :=
  rfl

theorem State.startCycle_starts (s : State) (gen : Nat) : (s.startCycle gen).scree.running = true ∧
    (s.startCycle gen).scree.gen = gen ∧
    (s.startCycle gen).rd F.screeCycle_cycle = (s.rd F.screeCycle_cycle + 1) % 256 ∧
    (s.startCycle gen).rd F.screeStat_measState = 2 := by
  have hscree : (s.startCycle gen).scree = (s.cycleOpened gen).scree :=
    forAll_view State.scree fun n u => u.scree_startChannel n
  have hcycle : sameRd F.screeCycle_cycle 0 (s.cycleOpened gen) (s.startCycle gen) :=
    sameRd.wrClearOf (n := 1) (m := 1) (sameRd.refl.forAll fun n u _ hu => hu.startChannel (by decide) n) (by decide)
      (by decide) (by decide)
  rw [hscree]
  refine ⟨rfl, rfl, Eq.trans hcycle ?_, State.rd_wr_fits (by decide) (by decide)⟩
  exact State.rd_wr_self s F.screeCycle_cycle 0 _ (by decide)

theorem measCycleStart_starts (hopen : s.scree.opened = true) (hmay : s.mayMeasure = true) :
    answers .measCycleStart s (fun t => t.scree.running = true ∧
      t.rd F.screeCycle_cycle = (s.rd F.screeCycle_cycle + 1) % 256 ∧ t.rd F.screeStat_measState = 2) := by
  obtain ⟨hrun, _, hcycle, hstate⟩ := s.startCycle_starts 0
  refine ⟨s.startCycle 0, ?_, hrun, hcycle, hstate⟩
  rw [exec_measCycleStart, execMeasCycleStart, hopen, hmay]
  rfl

theorem measNow_starts (hmay : s.mayMeasure = true) : answers .measNow s (fun t => t.scree.running = true ∧
    t.rd F.screeCycle_cycle = (s.rd F.screeCycle_cycle + 1) % 256 ∧ t.rd F.screeStat_measState = 2) := by
  obtain ⟨hrun, _, hcycle, hstate⟩ := s.startCycle_starts 0
  refine ⟨s.startCycle 0, ?_, hrun, hcycle, hstate⟩
  rw [exec_measNow, execMeasNow, hmay]
  rfl

theorem measEvent_starts (gen : Fin 8) (hmay : s.mayMeasure = true) : answers (.measEvent gen) s (fun t =>
    t.scree.running = true ∧ t.scree.gen = gen + 1 ∧
    t.rd F.screeCycle_cycle = (s.rd F.screeCycle_cycle + 1) % 256) := by
  obtain ⟨hrun, hgen, hcycle, _⟩ := s.startCycle_starts (gen.val + 1)
  refine ⟨s.startCycle (gen.val + 1), ?_, hrun, hgen, hcycle⟩
  rw [exec_measEvent, execMeasEvent, hmay]
  rfl

theorem measDeferExpiry_sends (hrun : s.scree.running = true) (hwaits : (s.screeCh h).startWaits = true) :
    answers (.measDeferExpiry h) s (fun t => (t.screeCh h).startWaits = false ∧
      (t.screeCh h).start = some ⟨((s.screeCh h).ctag + 1) % 32, true⟩) := by
  have hsent := s.screeCh_sendStart h
  refine ⟨s.sendStart h, ?_, congrArg ScreeCh.startWaits hsent, congrArg ScreeCh.start hsent⟩
  rw [exec_measDeferExpiry, execMeasDeferExpiry, hrun, hwaits]
  rfl

/-! ### A message is taken (R394, R395) -/

/-- The values of a message in the cycle's table (R394). -/
def State.valuesTaken (s : State) (n first : Nat) (blocks : List Nat) : State :=
  forAll ((List.range blocks.length).zip blocks) (fun e s =>
    forN 3 (fun i s =>
      let b := first + 3 * e.1 + i
      if 5632 ≤ b then s else
      { s with scree.values := Sparse.insert s.scree.values (beamAt n b) (bits e.2 (16 * i) 16) }) s) s

theorem State.screeCh_valuesTaken (s : State) (n first : Nat) (blocks : List Nat) (k : Nat) :
    (s.valuesTaken n first blocks).screeCh k = s.screeCh k := by
  refine forAll_view (fun u => u.screeCh k) fun e u => forN_view (fun u => u.screeCh k) fun i u => ?_
  dsimp only
  split <;> rfl

theorem idleMeasRx_takes {msg : BackMsg} (hb : (s.screeCh h).buffer = [msg]) (hclosed : msg.closed = true)
    (hack : msg.ack = false) (hrun : s.scree.running = true)
    (hok : measOk (s.rd F.screeCycle_cycle) msg.ctrl msg.blocks = true) : answers (.idleMeasRx h) s (fun t =>
      bits msg.ctrl 16 16 ∈ (t.screeCh h).got ∧ (t.screeCh h).buffer = []) := by
  let u := s.backTaken h []
  let first := bits msg.ctrl 16 16
  let w := if (u.screeCh h).got.contains first then u else
    u.setScreeCh h { u.screeCh h with got := (u.screeCh h).got ++ [first] }
  have hcycle : u.rd F.screeCycle_cycle = s.rd F.screeCycle_cycle :=
    (sameRd.refl.setScreeCh h _).showBuffer (m := 1) h.isLt (by decide) (by decide)
  have hscree : u.scree = s.scree := s.scree_backTaken h []
  have hexec : exec (.idleMeasRx h) s = .next (w.valuesTaken h first msg.blocks) := by
    rw [exec_idleMeasRx, execIdleMeasRx, State.takeBack_closed hb hclosed hack]
    refine (if_neg ?_).trans rfl
    rw [show (s.backTaken h []).scree = s.scree from hscree, hrun,
      show (s.backTaken h []).rd F.screeCycle_cycle = s.rd F.screeCycle_cycle from hcycle, hok]
    decide
  have hw : first ∈ (w.screeCh h).got ∧ (w.screeCh h).buffer = [] := by
    have hbuf : (u.screeCh h).buffer = [] := congrArg ScreeCh.buffer (s.screeCh_backTaken h [])
    simp only [w]
    split
    · next hin => exact ⟨List.contains_iff_mem.1 hin, hbuf⟩
    · rw [State.screeCh_setScreeCh]
      exact ⟨List.mem_append_right _ (List.mem_singleton.2 rfl), hbuf⟩
  refine ⟨_, hexec, ?_⟩
  dsimp only
  rw [State.screeCh_valuesTaken]
  exact hw

/-! ### A cycle ends (R393) -/

/-- A write above a field's register passes it. -/
theorem Fld.passes_of_below (hbelow : g.addr j < f.base) : f.passes i g j :=
  .inl (Nat.ne_of_lt (Nat.lt_of_lt_of_le hbelow (Nat.le_trans (Nat.le_add_right ..) (f.le_addr i))))

theorem sameRd.showColumn (hs : sameRd g j s0 s) (hg : g.addr j < 0xf01000) (c : Nat) : sameRd g j s0 (s.showColumn c) := by
  have hcol : ∀ {f : Fld} {u : State} {n : Nat}, f.base = 0xf01000 → sameRd g j s0 u → sameRd g j s0 (u.wr f c n) :=
    fun hf hu => hu.wrPasses (Fld.passes_of_below (hf ▸ hg))
  exact hcol rfl (hcol rfl (hcol rfl (hcol rfl (hcol rfl hs))))

/-- The fields SCREE_DEGRADED shows. -/
def degradedFlds : List Fld := [F.screeDegraded_count, F.screeDegraded_first, F.screeStat_degradedHold]

theorem sameRd.showDegraded (hs : sameRd g 0 s0 s) (hg : g.besideAll degradedFlds = true) :
    sameRd g 0 s0 s.showDegraded := by
  have hdeg : ∀ {f : Fld} {u : State} {n : Nat}, f ∈ degradedFlds → sameRd g 0 s0 u → sameRd g 0 s0 (u.wr f 0 n) :=
    fun hf hu => hu.wrAmong hg hf
  unfold State.showDegraded
  generalize (List.range 512).filter s.columnDegraded = l
  exact (hdeg (by decide) (hdeg (by decide) hs)).andIf fun hu => hdeg (by decide) hu

/-- A half-word of the health window is above the Scree's own registers. -/
theorem sameRd.wrHealth (hs : sameRd g j s0 s) (hbelow : g.addr j < 0xf01000) (hbase : f.base = 0xf40000) (x : Nat) :
    sameRd g j s0 (s.wr (healthFld f x) i n) :=
  hs.wrPasses (Fld.passes_of_below (Nat.lt_trans hbelow (hbase ▸ by decide : 0xf01000 < f.base)))

/-- The column of a beam noted as changed. -/
def State.columnNoted (s : State) (c : Nat) : State :=
  let col := if s.scree.changed.contains c then s.scree.changed else s.scree.changed ++ [c]
  { s with scree.changed := col, scree.changes := s.scree.changes + 1 }

theorem sameRd.columnNoted (hs : sameRd g j s0 s) (c : Nat) : sameRd g j s0 (s.columnNoted c) := hs.same rfl

theorem sameRd.setClass (hs : sameRd g 0 s0 s) (hbelow : g.addr 0 < 0xf01000) (hg : g.besideAll degradedFlds = true)
    (x cls : Nat) : sameRd g 0 s0 (s.setClass x cls) := by
  have hword := hs.wrHealth (f := F.healthWord_class0) (i := x / 2) (n := cls) hbelow rfl x
  exact .ite hs (((hword.columnNoted _).showColumn hbelow _).showDegraded hg)

/-- The last value of a beam shown (R395). -/
def State.lastShown (s : State) (x : Nat) : Option Nat → State
  | some v =>
    if v / 2 ^ 14 % 4 == 1 then s else
    s.wr (healthFld F.healthWord_last0 x) (x / 2) (if v / 2 ^ 14 % 4 == 2 then 0xFFF else v % 2 ^ 14 / 4)
  | none => s

theorem sameRd.lastShown (hs : sameRd g j s0 s) (hbelow : g.addr j < 0xf01000) (x : Nat) (v : Option Nat) :
    sameRd g j s0 (s.lastShown x v) := by
  cases v with
  | none => exact hs
  | some n => exact .ite hs (hs.wrHealth hbelow rfl x)

/-- The verdicts the Scree holds. -/
def State.withVerdicts (s : State) (l : Sparse (Nat × Nat)) : State := { s with scree.verdicts := l }

theorem sameRd.withVerdicts (hs : sameRd g j s0 s) (l : Sparse (Nat × Nat)) : sameRd g j s0 (s.withVerdicts l) :=
  hs.same rfl

theorem State.classify_eq (s : State) (x : Nat) (v : Option Nat) : s.classify x v =
    let u := s.lastShown x v
    match v.bind u.verdict with
    | none => u.withVerdicts (Sparse.erase u.scree.verdicts x)
    | some c =>
      let n := match u.scree.verdicts.lookup x with
        | some (d, k) => if d == c then k + 1 else 1
        | none => 1
      let w := u.withVerdicts (Sparse.insert u.scree.verdicts x (c, n))
      if max 1 (w.rd F.screeCtl_confirm) ≤ n && w.beamForce x == 0 then w.setClass x c else w := by
  cases v <;> rfl

theorem sameRd.classify (hs : sameRd g 0 s0 s) (hbelow : g.addr 0 < 0xf01000) (hg : g.besideAll degradedFlds = true)
    (x : Nat) (v : Option Nat) : sameRd g 0 s0 (s.classify x v) := by
  rw [State.classify_eq]
  have hu := hs.lastShown hbelow x v
  generalize s.lastShown x v = u at hu
  dsimp only
  split
  · exact hu.withVerdicts _
  · next c _ => exact (hu.withVerdicts _).andIf fun h => h.setClass hbelow hg x c

/-- The cycle's result shown and its event raised, before the Scree goes idle. -/
def State.cycleResult (s : State) (cut : Bool) : State :=
  let s := s.zCount (if cut then Zc.cut else Zc.cycles) 1
  let s := s.wr F.screeCycle_done 0 (s.rd F.screeCycle_cycle)
  let s := s.wr F.screeCycle_changes 0 (min 65535 s.scree.changes)
  let s := s.event 190 s.scree.gen islScree
  forAll s.drvChannels (fun h s => s.setScreeCh h { s.screeCh h with startWaits := false, startSent := false }) s

/-- The beams of the channels in service, classified by the cycle's values (R397). -/
def State.cycleClassified (s : State) : State :=
  let vals := s.scree.values
  let beams := s.drvChannels.flatMap (fun h => (List.range 5632).map (beamAt h))
  let missing := (beams.filter (fun x => (vals.lookup x).all (fun v => v / 2 ^ 14 % 4 == 1))).length
  forAll beams (fun x s => s.classify x (vals.lookup x)) (s.zCount Zc.unmeasured missing)

/-- The Scree with no cycle running. -/
def State.cycleClosed (s : State) : State :=
  { s with scree.running := false, scree.values := [], scree.changes := 0 }

theorem State.endCycle_eq (s : State) (cut : Bool) : let u := s.cycleClassified.cycleResult cut
    s.endCycle cut = (u.cycleClosed.wr F.screeStat_measState 0
      (if u.flag F.screeCtl_auto && u.scree.changes != 0 then 3 else 0)).showMeas := rfl

theorem State.rd_cycleClassified (s : State) : s.cycleClassified.rd F.screeCycle_cycle = s.rd F.screeCycle_cycle :=
  sameRd.forAll (sameRd.wrClearOf (n := 1) (m := 1) sameRd.refl (by decide) (by decide) (by decide))
    fun x u _ hu => hu.classify (by decide) (by decide) x _

theorem State.done_cycleResult (s : State) (cut : Bool) :
    (s.cycleResult cut).rd F.screeCycle_done = s.rd F.screeCycle_cycle := by
  let c := s.zCount (if cut then Zc.cut else Zc.cycles) 1
  have hcycle : c.rd F.screeCycle_cycle = s.rd F.screeCycle_cycle := by
    refine State.rd_wr_beside ?_
    cases cut <;> decide
  have hend : sameRd F.screeCycle_done 0 (c.wr F.screeCycle_done 0 (c.rd F.screeCycle_cycle)) (s.cycleResult cut) :=
    sameRd.forAll (sameRd.event (sameRd.wrClearOf (n := 1) (m := 1) sameRd.refl (by decide) (by decide) (by decide)) ..)
      fun n u _ hu => hu.setScreeCh n _
  rw [show (s.cycleResult cut).rd F.screeCycle_done = _ from hend, ← hcycle]
  exact State.rd_wr_fits (by decide) (c.rd_lt _ _)

theorem State.endCycle_ends (s : State) (cut : Bool) : (s.endCycle cut).scree.running = false ∧
    (s.endCycle cut).rd F.screeCycle_done = s.rd F.screeCycle_cycle := by
  rw [State.endCycle_eq]
  refine ⟨rfl, ?_⟩
  rw [← s.rd_cycleClassified, ← s.cycleClassified.done_cycleResult cut]
  exact (State.rd_wr_beside (by decide)).trans (State.rd_wr_beside (by decide))

theorem measCycleComplete_ends (hrun : s.scree.running = true)
    (hall : s.drvChannels.all (fun h => (s.screeCh h).got.length == 235) = true) :
    answers .measCycleComplete s (fun t => t.scree.running = false ∧
      t.rd F.screeCycle_done = s.rd F.screeCycle_cycle) := by
  refine ⟨s.endCycle false, ?_, s.endCycle_ends false⟩
  rw [exec_measCycleComplete, execMeasCycleComplete, hrun, hall]
  rfl

theorem measTimeout_ends (hrun : s.scree.running = true) : answers .measTimeout s (fun t =>
    t.scree.running = false ∧ t.rd F.screeCycle_done = s.rd F.screeCycle_cycle) := by
  refine ⟨s.endCycle false, ?_, s.endCycle_ends false⟩
  rw [exec_measTimeout, execMeasTimeout, hrun]
  rfl

/-- Settles O28: a cycle by the channels it starts, its messages and its end. -/
theorem measurementCycles : Obligations.MeasurementCycles :=
  ⟨fun _ => measCycleStart_starts, fun _ => measNow_starts, fun _ => measEvent_starts, fun _ _ => measDeferExpiry_sends,
    fun _ _ _ => idleMeasRx_takes, fun _ => measCycleComplete_ends, fun _ => measTimeout_ends⟩

end Sys2Proof.Machine
end

section
/-! SUPPORT. The Ream engines' host rings (R406, R407, R413, R416, R426): one lemma per clause of O29. -/

namespace Sys2Proof.Machine

variable {s s0 t : State} {f g : Fld} {i j k n : Nat} {α : Type} {v : State → α} {e : Fin 4}

/-! ### Engines and the registers beside them -/

theorem State.engine_setEngine (s : State) (n : Nat) (v : Engine) : (s.setEngine n v).engine n = v :=
  Sparse.get_set_self _ _ _ _

theorem sameRd.setEngine (hs : sameRd g j s0 s) (n : Nat) (v : Engine) : sameRd g j s0 (s.setEngine n v) := hs.same rfl

theorem Shows.uncorrected (h : Shows s0 s) (unit port : Nat) : Shows s0 (s.uncorrected unit port) :=
  (((h.count _ _ _).count _ _ _).errLogNew _ _ _ _).log _ _ _ _

/-- Bytes stored by an engine change HBM, what it knows of its units, and what is shown of a unit in error. -/
theorem State.store_view (hv : Unshown v) (hm : ∀ u h m, v { u with hbm := h, mem := m } = v u) (s : State)
    (port a : Nat) (bs : Bytes) : v (s.store port a bs) = v s := by
  unfold State.store State.writeMem
  split
  · exact hv.eq ((Shows.refl s).uncorrected _ _)
  · dsimp only
    rw [State.setBytes_eq]
    exact (hm _ _ _).trans (foldl_view fun u x => hm u u.hbm _)

/-! ### A host descriptor is taken (R407, R426) -/

/-- The flags of a host descriptor that waits, cleared as it is taken. -/
def State.headServed (s : State) (e : Nat) : State :=
  let s := if s.flag F.reamStat_hostOverdue e then s.count (F.reamCnt_count Ec.hostDeferred) e 1 else s
  (s.down F.reamStat_hostOverdue e).down F.reamStat_holdWait e

theorem State.headServed_shows (s : State) (n : Nat) : Shows s (s.headServed n) :=
  (((Shows.refl s).andIf fun h => h.count _ _ _).down _ _).down _ _

theorem State.takeHost_eq (s : State) (n : Nat) (d : ReamDesc) (fail : Option Nat) : s.takeHost n d fail =
    let u := s.headServed n
    let w := u.wr F.reamRingHead_count n (s.rd F.reamRingHead_count n + 1)
    (w.setEngine n { w.engine n with released := false, gen := 0 }).beginRun n
      { client := 1, key := s.rd F.reamRingHead_count n, desc := d, fail := fail, gen := (w.engine n).gen } := rfl

theorem State.run_beginRun (s : State) (n : Nat) (r : ReamRun) : ((s.beginRun n r).engine n).run = some r := by
  have hshown : Unshown fun u => (u.engine n).run := fun _ _ _ _ => rfl
  unfold State.beginRun
  rw [hshown.wr, hshown.wr, hshown.wr]
  exact congrArg Engine.run (s.engine_setEngine n _)

theorem sameRd.beginRun (hs : sameRd g e s0 s) (r : ReamRun)
    (hclient : F.reamStat_client.clearOf 4 g 4 = true) (hop : F.reamStat_op.clearOf 4 g 4 = true)
    (hecho : F.reamStat_echoActive.clearOf 4 g 4 = true) : sameRd g e s0 (s.beginRun e r) :=
  (((hs.setEngine e _).wrClearOf hclient e.isLt e.isLt).wrClearOf hop e.isLt e.isLt).wrClearOf hecho e.isLt e.isLt

theorem State.rd_takeHost (s : State) (d : ReamDesc) (fail : Option Nat) :
    (s.takeHost e d fail).rd F.reamRingHead_count e = (s.rd F.reamRingHead_count e + 1) % 2 ^ 32 := by
  rw [State.takeHost_eq]
  dsimp only
  generalize hw : (s.headServed e).wr F.reamRingHead_count e (s.rd F.reamRingHead_count e + 1) = w
  have hkept : ∀ v r, sameRd F.reamRingHead_count e w ((w.setEngine e v).beginRun e r) := fun v r =>
    (sameRd.refl.setEngine e v).beginRun r (by decide) (by decide) (by decide)
  exact Eq.trans (hkept _ _) (hw ▸ State.rd_wr_self _ _ _ _ (by decide))

theorem reamJobStart_takes (hgive : s.giveJobs = s) (hrun : (s.engine e).run = none) (hqueued : (s.engine e).queued = none)
    (hposted : s.reamPosted e = true) (hhost : s.reamHostMode = true) (hmode : s.mode ∉ [Md.park, Md.recovery])
    (hgood : s.noneBad = true)
    (hhold : (reamDesc (s.bytes (s.ringAddr e (s.rd F.reamRingHead_count e)) 64)).hold = false) :
    answers (.reamJobStart e) s (fun t =>
      t.rd F.reamRingHead_count e = (s.rd F.reamRingHead_count e + 1) % 2 ^ 32 ∧
      (t.engine e).run.map (fun r => (r.client, r.key, r.desc)) = some (1, s.rd F.reamRingHead_count e,
        reamDesc (s.bytes (s.ringAddr e (s.rd F.reamRingHead_count e)) 64))) := by
  let d := reamDesc (s.bytes (s.ringAddr e (s.rd F.reamRingHead_count e)) 64)
  have hexec : exec (.reamJobStart e) s = .next (s.takeHost e d (s.descCause e d)) := by
    rw [exec_reamJobStart, execReamJobStart, hgive]
    dsimp only
    rw [State.readMem_of_noneBad hgood]
    have hpark : (s.mode == Md.park || s.mode == Md.recovery) = false := by
      simp only [List.mem_cons, List.not_mem_nil, or_false, not_or] at hmode
      simp [hmode.1, hmode.2]
    simp only [hrun, hqueued, hposted, hhost, Option.isSome, Option.isNone, Option.getD, Bool.false_or,
      hpark, hhold, Bool.and_false, Bool.false_and, Bool.not_false, Bool.and_true, if_true, Bool.false_eq_true, if_false]
    rfl
  refine ⟨_, hexec, s.rd_takeHost d _, ?_⟩
  rw [State.takeHost_eq, State.run_beginRun]
  rfl

/-! ### The ring's registers (R407, R426) -/

theorem reamRingTail_takes (tail : Word)
    (hin : (tail.toNat + 2 ^ 32 - s.rd F.reamRingDone_count e) % 2 ^ 32 ≤ s.ringSize e) :
    answers (.reamRingTail e tail) s (fun t => t.rd F.reamRingTail_count e = tail.toNat) := by
  refine ⟨s.wr F.reamRingTail_count e tail.toNat, ?_, State.rd_wr_fits (by decide) tail.isLt⟩
  rw [exec_reamRingTail, execReamRingTail]
  exact if_pos hin

theorem reamRingTail_refuses (tail : Word)
    (hout : s.ringSize e < (tail.toNat + 2 ^ 32 - s.rd F.reamRingDone_count e) % 2 ^ 32) :
    answers (.reamRingTail e tail) s (fun t => t.flag F.reamRingStat_tailErr e = true ∧
      t.rd F.reamRingTail_count e = s.rd F.reamRingTail_count e) := by
  refine ⟨s.up F.reamRingStat_tailErr e, ?_, State.flag_up_self (by decide) (by decide), State.rd_wr_beside_fin (by decide)⟩
  rw [exec_reamRingTail, execReamRingTail]
  exact if_neg (Nat.not_le.2 hout)

theorem foldl_max_le {l : List Nat} {a b : Nat} (ha : a ≤ b) (hl : ∀ x ∈ l, x ≤ b) : l.foldl max a ≤ b := by
  induction l generalizing a with
  | nil => exact ha
  | cons x l ih => exact ih (Nat.max_le.2 ⟨ha, hl x (.head _)⟩) fun y hy => hl y (.tail _ hy)

theorem ringPower_lt (n : Nat) : ringPower n < 2 ^ 17 := by
  refine Nat.lt_of_le_of_lt (foldl_max_le (b := 65536) (by decide) fun x hx => ?_) (by decide)
  exact (by decide : ∀ x ∈ (List.range 13).map (fun i => 2 ^ (i + 4)), x ≤ 65536) x (List.mem_of_mem_filter hx)

/-- A ring of a new size, empty (R426). -/
def State.ringSized (s : State) (e n : Nat) : State :=
  (((s.wr F.reamRingSize_size e n).wr F.reamRingTail_count e 0).wr F.reamRingHead_count e 0).wr F.reamRingDone_count e 0

/-- No descriptor waits at an engine. -/
def State.ringIdle (s : State) (e : Nat) : State :=
  ((s.down F.reamStat_holdWait e).down F.reamStat_hostOverdue e).setEngine e
    { s.engine e with released := false, gen := 0 }

theorem sameRd.ringIdle (hs : sameRd g e s0 s) (hhold : F.reamStat_holdWait.clearOf 4 g 4 = true)
    (hdue : F.reamStat_hostOverdue.clearOf 4 g 4 = true) : sameRd g e s0 (s.ringIdle e) :=
  ((hs.wrClearOf hhold e.isLt e.isLt).wrClearOf hdue e.isLt e.isLt).setEngine e _

theorem reamRingSize_empties (v : Word) (hopen : s.ringOpen e = true) : answers (.reamRingSize e v) s (fun t =>
    t.ringSize e = ringPower (bits v.toNat 0 17) ∧ t.rd F.reamRingTail_count e = 0 ∧ t.rd F.reamRingHead_count e = 0 ∧
    t.rd F.reamRingDone_count e = 0) := by
  let sized := s.ringSized e (ringPower (bits v.toNat 0 17))
  have hexec : exec (.reamRingSize e v) s = .next (sized.ringIdle e) := by
    rw [exec_reamRingSize, execReamRingSize, hopen]
    rfl
  have hidle : ∀ {f : Fld}, F.reamStat_holdWait.clearOf 4 f 4 = true → F.reamStat_hostOverdue.clearOf 4 f 4 = true →
      (sized.ringIdle e).rd f e = sized.rd f e := fun hhold hdue => sameRd.refl.ringIdle hhold hdue
  refine ⟨_, hexec, ?_⟩
  dsimp only
  rw [State.ringSize, hidle (by decide) (by decide), hidle (by decide) (by decide), hidle (by decide) (by decide),
    hidle (by decide) (by decide)]
  simp (disch := decide) only [sized, State.ringSized, State.rd_wr_beside_fin]
  exact ⟨State.rd_wr_fits (by decide) (ringPower_lt _), State.rd_wr_fits (by decide) (by decide),
    State.rd_wr_fits (by decide) (by decide), State.rd_wr_fits (by decide) (by decide)⟩

theorem reamHostOverdue_notes (hposted : s.reamPosted e = true) : answers (.reamHostOverdue e) s (fun t =>
    t.flag F.reamStat_hostOverdue e = true) := by
  refine ⟨s.up F.reamStat_hostOverdue e, ?_, State.flag_up_self (by decide) (by decide)⟩
  rw [exec_reamHostOverdue, execReamHostOverdue, hposted]
  rfl

theorem reamHoldRelease_releases (g : Fin 8) (hposted : s.reamPosted e = true) (hgood : s.noneBad = true)
    (hhold : (reamDesc (s.bytes (s.ringAddr e (s.rd F.reamRingHead_count e)) 64)).hold = true)
    (hheld : (s.engine e).released = false) :
    answers (.reamHoldRelease e g) s (fun t => (t.engine e).released = true ∧ (t.engine e).gen = g + 1 ∧
      t.flag F.reamStat_holdWait e = false) := by
  let u := s.setEngine e { s.engine e with released := true, gen := g.val + 1 }
  have hexec : exec (.reamHoldRelease e g) s = .next (u.down F.reamStat_holdWait e) := by
    rw [exec_reamHoldRelease, execReamHoldRelease, hposted, State.readMem_of_noneBad hgood, hheld]
    simp only [Option.any, hhold]
    rfl
  have hu : (u.down F.reamStat_holdWait e).engine e = _ := s.engine_setEngine e _
  refine ⟨_, hexec, congrArg Engine.released hu, congrArg Engine.gen hu, State.flag_down_self (by decide)⟩

/-! ### A job ends (R413, R416) -/

/-- An engine's counters after a job (R428). -/
def State.runCounted (s : State) (e : Nat) (x : ReamEnd) : State :=
  let s := s.count (F.reamCnt_count Ec.jobs) e 1
  let bad := x.status != St.done && x.status != St.noShrink
  let s := s.count (F.reamCnt_count (if x.status == St.done then Ec.doneJobs else if bad then Ec.errors else Ec.noShrink)) e 1
  if x.echoed || x.cause == Rc.echo then s.count (F.reamCnt_count Ec.echoJobs) e 1 else s

/-- An engine with no job, its bytes counted in units of 65,536 (R428). -/
def State.runLeft (s : State) (e used made : Nat) : State :=
  let v := s.engine e
  let i := v.inRest + used
  let o := v.outRest + made
  let s := s.count (F.reamCnt_count Ec.in64k) e (i / 65536)
  let s := s.count (F.reamCnt_count Ec.out64k) e (o / 65536)
  s.setEngine e { v with run := none, inRest := i % 65536, outRest := o % 65536 }

/-- What an engine shows of the job it ended (R416). -/
def State.runShown (s : State) (e : Nat) (r : ReamRun) (x : ReamEnd) : State :=
  let bad := x.status != St.done && x.status != St.noShrink
  let s := ((s.wr F.reamStat_client e 0).wr F.reamStat_op e 0).wr F.reamStat_echoActive e 0
  let s := if !bad then s else
    let s := s.wr F.reamLastErr_status e x.status
    let s := s.wr F.reamLastErr_cause e x.cause
    let s := s.wr F.reamLastErr_client e r.client
    (s.wr F.reamLastTag_tag e r.desc.tag).event (174 + e) r.gen (islReam e)
  if r.client == 1 && r.desc.intr then s.event (170 + e) r.gen (islReam e) else s

theorem State.runShown_shows (s : State) (n : Nat) (r : ReamRun) (x : ReamEnd) : Shows s (s.runShown n r x) := by
  have hstat : Shows s (((s.wr F.reamStat_client n 0).wr F.reamStat_op n 0).wr F.reamStat_echoActive n 0) :=
    (((Shows.refl s).wr _ _ _).wr _ _ _).wr _ _ _
  exact (hstat.andUnless fun h => ((((h.wr _ _ _).wr _ _ _).wr _ _ _).wr _ _ _).event _ _ _).andIf fun h => h.event _ _ _

theorem State.endRun_eq (s : State) (n : Nat) (r : ReamRun) (x : ReamEnd) :
    s.endRun n r x = ((s.runCounted n x).runLeft n x.used x.out.length).runShown n r x := rfl

theorem State.run_endRun (s : State) (n : Nat) (r : ReamRun) (x : ReamEnd) : ((s.endRun n r x).engine n).run = none := by
  rw [State.endRun_eq, (State.runShown_shows ..).view (fun u => u.engine n) fun _ _ _ _ => rfl, State.runLeft]
  exact congrArg Engine.run (State.engine_setEngine _ _ _)

/-- A host job's result in its descriptor, and DONE. -/
def State.resultDone (s : State) (e : Nat) (r : ReamRun) (bs : Bytes) : State :=
  (s.store (9 + e) (s.ringAddr e r.key + 48) bs).wr F.reamRingDone_count e (r.key + 1)

theorem State.hostResult_eq (s : State) (n : Nat) (r : ReamRun) (x : ReamEnd) : ∃ bs, let u := s.resultDone n r bs
    s.hostResult n r x = if (u.engine n).clearEn then
      (u.setEngine n { u.engine n with clearEn := false }).down F.reamCtl_hostEn n else u := ⟨_, rfl⟩

theorem State.engine_resultDone (s : State) (n : Nat) (r : ReamRun) (bs : Bytes) :
    (s.resultDone n r bs).engine n = s.engine n := by
  rw [State.resultDone, Unshown.wr (v := fun u => u.engine n) fun _ _ _ _ => rfl]
  exact State.store_view (v := fun u => u.engine n) (fun _ _ _ _ => rfl) (fun _ _ _ => rfl) ..

theorem State.hostResult_ends {r : ReamRun} (hrun : (s.engine e).run = none) (x : ReamEnd) :
    ((s.hostResult e r x).engine e).run = none ∧ (s.hostResult e r x).rd F.reamRingDone_count e = (r.key + 1) % 2 ^ 32 := by
  obtain ⟨bs, heq⟩ := s.hostResult_eq e r x
  have hdone : (s.resultDone e r bs).rd F.reamRingDone_count e = (r.key + 1) % 2 ^ 32 :=
    State.rd_wr_self _ _ _ _ (by decide)
  have hengine : ((s.resultDone e r bs).engine e).run = none := by rw [State.engine_resultDone, hrun]
  rw [heq]
  dsimp only
  split
  · refine ⟨?_, (State.rd_wr_beside_fin (by decide)).trans hdone⟩
    exact (congrArg Engine.run (State.engine_setEngine _ _ _)).trans hengine
  · exact ⟨hengine, hdone⟩

/-- Whatever came of a host job, its engine shows its end, then its result. -/
theorem State.hostRun_eq (s : State) (n : Nat) (r : ReamRun) (diff : Option Nat) :
    ∃ u x, s.hostRun n r diff = (State.endRun u n r x).hostResult n r x := by
  unfold State.hostRun
  split
  · exact ⟨_, _, rfl⟩
  · exact ⟨_, _, rfl⟩

theorem reamJobDone_ends (diff : Option Word) {r : ReamRun} (hrun : (s.engine e).run = some r) (hclient : r.client = 1) :
    answers (.reamJobDone e diff) s (fun t => (t.engine e).run = none ∧
      t.rd F.reamRingDone_count e = (r.key + 1) % 2 ^ 32) := by
  refine ⟨s.hostRun e r (diff.map (·.toNat)), ?_, ?_⟩
  · rw [exec_reamJobDone, execReamJobDone, hrun]
    exact if_pos (by rw [hclient]; rfl)
  · obtain ⟨u, x, heq⟩ := s.hostRun_eq e r (diff.map (·.toNat))
    rw [heq]
    exact State.hostResult_ends (u.run_endRun e r x) x

/-- Settles O29: the rings by their descriptors, their registers and the ends of their jobs. -/
theorem reamRingsServe : Obligations.ReamRingsServe :=
  ⟨fun _ _ => reamJobStart_takes, fun _ _ => reamRingTail_takes, fun _ _ => reamRingTail_refuses,
    fun _ _ v => reamRingSize_empties v, fun _ _ => reamHostOverdue_notes, fun _ _ => reamHoldRelease_releases,
    fun _ _ diff _ => reamJobDone_ends diff⟩

end Sys2Proof.Machine
end

section
/-! SUPPORT. The HBM controllers (R435 to R440, R443 to R446): one lemma per clause of O30. -/

namespace Sys2Proof.Machine

variable {s s0 t : State} {f g : Fld} {i j k n : Nat} {α : Type} {v : State → α} {p : Fin 64} {r : HbmReq} {c : Pc}

/-! ### A pseudo-channel replaced -/

/-- The queues a pseudo-channel holds, without what HBM_PC_STAT shows of them. -/
def State.withPc (s : State) (p : Nat) (c : Pc) : State := { s with mem.pcs := Sparse.set (fun _ => {}) s.mem.pcs p c }

theorem State.setPc_shows (s : State) (n : Nat) (c : Pc) : Shows (s.withPc n c) (s.setPc n c) :=
  ((((Shows.refl (s.withPc n c)).wr _ _ _).wr _ _ _).wr _ _ _).andIf fun h => h.up _ _

theorem State.pcs_setPc (s : State) (n : Nat) (c : Pc) : (s.setPc n c).pcs n = c :=
  ((s.setPc_shows n c).view (fun u => u.pcs n) fun _ _ _ _ => rfl).trans (Sparse.get_set_self _ _ _ _)

/-- A view of neither the pseudo-channels nor what is shown. -/
theorem State.setPc_view (hv : Unshown v) (hm : ∀ u l, v { u with mem.pcs := l } = v u) (s : State) (n : Nat) (c : Pc) :
    v (s.setPc n c) = v s := (hv.eq (s.setPc_shows n c)).trans (hm s _)

theorem sameRd.withPc (hs : sameRd g j s0 s) (n : Nat) (c : Pc) : sameRd g j s0 (s.withPc n c) := hs.same rfl

/-- The fields HBM_PC_STAT shows of the queues. -/
def queueFlds : List Fld := [F.hbmPcStat_readQ, F.hbmPcStat_writeQ, F.hbmPcStat_inOrder, F.hbmPcStat_hwm]

theorem sameRd.setPc {m : Nat} (hs : sameRd g j s0 s) (hg : queueFlds.all (fun f => f.clearOf 64 g m) = true) (hj : j < m)
    (c : Pc) : sameRd g j s0 (s.setPc p c) := by
  have hshow : ∀ {f : Fld} {u : State} {n : Nat}, f ∈ queueFlds → sameRd g j s0 u → sameRd g j s0 (u.wr f p n) :=
    fun hf hu => hu.wrClearOf (List.all_eq_true.1 hg _ hf) p.isLt hj
  unfold State.setPc
  exact (hshow (by decide) (hshow (by decide) (hshow (by decide) (hs.withPc p c)))).andIf fun hu => hshow (by decide) hu

theorem State.pcState_setPc (s : State) (c : Pc) : (s.setPc p c).pcState p = s.pcState p :=
  sameRd.setPc sameRd.refl (by decide) p.isLt c

theorem State.mem_emit {o : Output} (h : o.leaves = false) : o ∈ (s.emit o).out := by
  rw [State.emit_out h]
  exact List.mem_append_right _ (.head _)

/-! ### A unit arrives (R435, R437, R445) -/

/-- A request to a pseudo-channel on its way into self-refresh ends its entry, or begins its exit (R445). -/
def State.woken (s : State) (p : Nat) : State :=
  match s.pcState p with
  | 1 => (s.wr F.hbmPcStat_state p 0).count (F.hbmCnt_count 7) 0 1
  | 2 => s.wr F.hbmPcStat_state p 3
  | _ => s

theorem State.woken_shows (s : State) (n : Nat) : Shows s (s.woken n) := by
  unfold State.woken
  split
  · exact ((Shows.refl s).wr _ _ _).count _ _ _
  · exact (Shows.refl s).wr _ _ _
  · exact .refl s

theorem State.pcs_woken (s : State) (n k : Nat) : (s.woken n).pcs k = s.pcs k :=
  (s.woken_shows n).view (fun u => u.pcs k) fun _ _ _ _ => rfl

theorem State.arrive_write (hup : s.pcState (hbmPc r.unit) ≠ 4) (hw : r.write = true) (hlen : r.data.length = 64) :
    let u := (s.markGood r.unit).setBytes (r.unit + r.off) r.data
    let c := u.pcs (hbmPc r.unit)
    s.arrive r = (u.setPc (hbmPc r.unit) { c with writes := c.writes ++ [r] }).woken (hbmPc r.unit) := by
  intro u c
  unfold State.arrive
  refine (if_neg (by simpa using hup)).trans ?_
  simp only [hw, hlen, bne_self_eq_false, Bool.false_and, Bool.false_eq_true, if_false, if_true, Bool.not_true]
  rfl

/-- A read behind a write of its row puts its bank into IN_ORDER (R437). -/
theorem State.arrive_read (hup : s.pcState (hbmPc r.unit) ≠ 4) (hw : r.write = false) :
    let c := s.pcs (hbmPc r.unit)
    ∃ u l, Shows s u ∧ s.arrive r = (u.setPc (hbmPc r.unit) { c with inOrder := l, reads := c.reads ++
      [{ r with data := s.bytes (r.unit + r.off) r.data.length }] }).woken (hbmPc r.unit) := by
  intro c
  unfold State.arrive
  simp only [beq_false_of_ne hup, hw, Bool.not_false, Bool.true_and, Bool.false_eq_true, if_false]
  generalize ((s.pcs (hbmPc r.unit)).writes.any (fun w => hbmBank w.unit == hbmBank r.unit && hbmRow w.unit == hbmRow r.unit) &&
    !(s.pcs (hbmPc r.unit)).inOrder.contains (hbmBank r.unit)) = clash
  cases clash with
  | true => exact ⟨_, _, (Shows.refl s).count (F.hbmCnt_count 8) 0 1, rfl⟩
  | false => exact ⟨s, _, .refl s, rfl⟩

theorem hbmUnits_whole {u : Nat} (hu : u % 64 = 0) : hbmUnits u 64 = [u] := by
  unfold hbmUnits hbmUnit
  rw [if_neg (by decide), show (u + 64 - 1) / 64 - u / 64 + 1 = 1 by omega]
  simp only [List.range_one, List.map_cons, List.map_nil]
  rw [show u / 64 * 64 + 64 * 0 = u by omega]

theorem sub_whole {l : Bytes} (h : l.length = n) : sub l 0 n = l := by
  rw [sub, List.drop_zero, ← h, List.take_length]

/-- A port's request of a whole unit. -/
def State.unitReq (s : State) (q u : Nat) (write : Bool) (data : Bytes) : HbmReq :=
  { port := q, unit := u, write := write, off := 0, data := data, arrived := s.clock, late := false, refused := false }

theorem exec_hbmRequest_write {q : Fin 19} {u : Nat} {d : Bytes} (hu : u % 64 = 0) (hin : u + 64 ≤ Config.hbmBytes)
    (hd : d.length = 64) (hcredit : s.portInFlight q (hbmPc u / 4) < 32) (hroom : (s.pcs (hbmPc u)).writes.length < 64) :
    exec (.hbmRequest q u true d 0) s = .next (s.arrive (s.unitReq q u true d)) := by
  rw [exec_hbmRequest, execHbmRequest]
  simp only [if_true, hd, hbmUnits_whole hu, Nat.not_lt.2 hin, if_false, List.all_cons, List.all_nil, hcredit, hroom,
    decide_true, Bool.and_true, Bool.not_true, Bool.false_eq_true, List.foldl_cons, List.foldl_nil, Nat.max_self,
    Nat.min_self, Nat.sub_self, Nat.add_sub_cancel_left, sub_whole hd]
  rfl

theorem exec_hbmRequest_read {q : Fin 19} {u : Nat} (hu : u % 64 = 0) (hin : u + 64 ≤ Config.hbmBytes)
    (hcredit : s.portInFlight q (hbmPc u / 4) < 32) (hroom : (s.pcs (hbmPc u)).reads.length < 64) :
    exec (.hbmRequest q u false [] 64) s = .next (s.arrive (s.unitReq q u false (zeros 64))) := by
  rw [exec_hbmRequest, execHbmRequest]
  simp only [if_false, hbmUnits_whole hu, Nat.not_lt.2 hin, List.all_cons, List.all_nil, hcredit, hroom,
    decide_true, Bool.and_true, Bool.not_true, Bool.false_eq_true, List.foldl_cons, List.foldl_nil, Nat.max_self,
    Nat.min_self, Nat.sub_self, Nat.add_sub_cancel_left]
  rfl

theorem hbmRequest_writes {q : Fin 19} {u : Nat} {d : Bytes} (hu : u % 64 = 0) (hin : u + 64 ≤ Config.hbmBytes)
    (hd : d.length = 64) (hcredit : s.portInFlight q (hbmPc u / 4) < 32) (hroom : (s.pcs (hbmPc u)).writes.length < 64)
    (hup : s.pcState (hbmPc u) ≠ 4) : answers (.hbmRequest q u true d 0) s (fun t => t.bytes u 64 = d ∧
      (t.pcs (hbmPc u)).writes.length = (s.pcs (hbmPc u)).writes.length + 1) := by
  refine ⟨_, exec_hbmRequest_write hu hin hd hcredit hroom, ?_⟩
  dsimp only
  rw [State.arrive_write (r := s.unitReq q u true d) hup rfl hd]
  constructor
  · rw [(State.woken_shows _ _).view (fun t => t.bytes u 64) fun _ _ _ _ => rfl,
      State.setPc_view (v := fun t => t.bytes u 64) (fun _ _ _ _ => rfl) fun _ _ => rfl]
    exact State.bytes_setBytes _ _ _ hd
  · rw [State.pcs_woken, State.setBytes_eq]
    refine (congrArg (fun c : Pc => c.writes.length) (State.pcs_setPc _ (hbmPc u) _)).trans ?_
    rw [List.length_append]
    rfl

theorem hbmRequest_reads {q : Fin 19} {u : Nat} (hu : u % 64 = 0) (hin : u + 64 ≤ Config.hbmBytes)
    (hcredit : s.portInFlight q (hbmPc u / 4) < 32) (hroom : (s.pcs (hbmPc u)).reads.length < 64)
    (hup : s.pcState (hbmPc u) ≠ 4) : answers (.hbmRequest q u false [] 64) s (fun t => t.hbm = s.hbm ∧
      (t.pcs (hbmPc u)).reads.getLast?.map (·.data) = some (s.bytes u 64)) := by
  obtain ⟨w, l, hw, heq⟩ := State.arrive_read (r := s.unitReq q u false (zeros 64)) hup rfl
  refine ⟨_, exec_hbmRequest_read hu hin hcredit hroom, ?_⟩
  dsimp only
  rw [heq]
  constructor
  · rw [(State.woken_shows _ _).hbm, State.setPc_view (v := State.hbm) (fun _ _ _ _ => rfl) fun _ _ => rfl, hw.hbm]
  · rw [State.pcs_woken]
    refine (congrArg (fun c : Pc => c.reads.getLast?.map (·.data)) (State.pcs_setPc w (hbmPc u) _)).trans ?_
    rw [List.getLast?_concat]
    rfl

/-! ### A slot issues (R436) -/

/-- A request once its lateness is noted. -/
def State.lateReq (s : State) (r : HbmReq) : HbmReq :=
  if !r.late && s.urgency r == 3 then { r with late := true } else r

theorem State.unit_lateReq (s : State) (r : HbmReq) : (s.lateReq r).unit = r.unit := by
  unfold State.lateReq
  split <;> rfl

theorem State.write_lateReq (s : State) (r : HbmReq) : (s.lateReq r).write = r.write := by
  unfold State.lateReq
  split <;> rfl

theorem State.pcs_countLate (s : State) (n : Nat) : (s.countLate n).pcs n =
    { s.pcs n with reads := (s.pcs n).reads.map s.lateReq, writes := (s.pcs n).writes.map s.lateReq } :=
  State.pcs_setPc _ _ _

/-- A list filtered for one key holds its value as often as the key. -/
theorem filterMap_key_eq_replicate (l : List Nat) (b : Nat) (x : α) :
    l.filterMap (fun k => if b == k then some x else none) = List.replicate (l.count b) x := by
  induction l with
  | nil => rfl
  | cons a l ih =>
    rw [List.filterMap_cons, List.count_cons, ih]
    by_cases hab : b = a
    · simp [hab, List.replicate_succ]
    · simp [hab, Ne.symm hab]

theorem filterMap_range_single {m b : Nat} (hb : b < m) (x : α) :
    (List.range m).filterMap (fun k => if b == k then some x else none) = [x] := by
  rw [filterMap_key_eq_replicate, List.count_eq_one_of_mem List.nodup_range (List.mem_range.2 hb)]
  rfl

/-- The heads of a pseudo-channel with one read waiting. -/
theorem Pc.heads_single (hreads : c.reads = [r]) (hwrites : c.writes = []) (hdrain : c.drain = false)
    (hbank : hbmBank r.unit < 48) : c.heads = [r] := by
  unfold Pc.heads
  refine Eq.trans (List.filterMap_congr fun b _ => ?_) (filterMap_range_single hbank r)
  rw [hreads, hwrites, hdrain]
  by_cases hb : hbmBank r.unit == b
  · simp [hb]
  · simp [hb]

theorem State.pickReq_single (hheads : c.heads = [r]) : s.pickReq c = some r := by
  have htop : (s.urgency r == max 0 (s.urgency r)) = true := by rw [Nat.zero_max, beq_self_eq_true]
  unfold State.pickReq
  simp only [hheads, List.foldl_cons, List.foldl_nil, List.filter_cons, List.filter_nil, htop, if_true, List.find?_cons,
    List.find?_nil]
  split
  · next q hq => split at hq <;> simp_all
  · rfl

/-- A pseudo-channel's open rows once a request of a bank is picked (R436). -/
def Pc.rowOpened (c : Pc) (r : HbmReq) : Pc :=
  let b := hbmBank r.unit
  let hit := Sparse.get (fun _ => 0) c.openRow b == hbmRow r.unit + 1
  if hit then { c with hits := c.hits + 1 } else
    { c with openRow := Sparse.set (fun _ => 0) c.openRow b (hbmRow r.unit + 1), lastBank := b, hits := 0 }

/-- The queues once a request is issued; IN_ORDER ends with its last read (R437). -/
def Pc.issue (c : Pc) (r : HbmReq) : Pc :=
  let b := hbmBank r.unit
  let c := c.rowOpened r
  let c := { c with reads := c.reads.erase r, writes := c.writes.erase r, issued := c.issued ++ [r] }
  let stays := c.reads.any (fun x => hbmBank x.unit == b &&
    c.writes.any (fun w => hbmBank w.unit == b && hbmRow w.unit == hbmRow x.unit && w.arrived ≤ x.arrived))
  if stays then c else { c with inOrder := c.inOrder.filter (· != b) }

theorem Pc.queues_issue (c : Pc) (r : HbmReq) :
    (c.issue r).reads = c.reads.erase r ∧ (c.issue r).issued = c.issued ++ [r] := by
  have hopened : (c.rowOpened r).reads = c.reads ∧ (c.rowOpened r).issued = c.issued := by
    unfold Pc.rowOpened
    dsimp only
    split <;> exact ⟨rfl, rfl⟩
  obtain ⟨hreads, hissued⟩ := hopened
  unfold Pc.issue
  dsimp only
  rw [hreads, hissued]
  split <;> exact ⟨rfl, rfl⟩

/-- The slot of an active pseudo-channel whose queues pick a request. -/
theorem hbmCommandSlot_picks {u : State} (hactive : s.pcState p = 0) (hu : s.countLate p = u) {drain : Bool}
    (hdrain : (if (u.pcs p).drain then
        !((decide ((u.pcs p).writes.length ≤ 8)) || (u.pcs p).reads.any (fun r => u.urgency r == 3))
      else decide (32 ≤ (u.pcs p).writes.length) || (u.pcs p).writes.any (fun w => decide (2 ≤ u.urgency w))) = drain)
    (hpick : u.pickReq { u.pcs p with drain := drain } = some r) :
    exec (.hbmCommandSlot p) s = .next ((u.setPc p (Pc.issue { u.pcs p with drain := drain } r)).emit
      (.dram p (hbmBank r.unit) (if r.write then 1 else 0))) := by
  rw [exec_hbmCommandSlot, execHbmCommandSlot, hactive]
  simp only [hu, hdrain, hpick]
  rfl

theorem hbmCommandSlot_issues (hactive : s.pcState p = 0) (hreads : (s.pcs p).reads = [r])
    (hwrites : (s.pcs p).writes = []) (hdrain : (s.pcs p).drain = false) (hbank : hbmBank r.unit < 48) :
    answers (.hbmCommandSlot p) s (fun t => (t.pcs p).reads = [] ∧
      (t.pcs p).issued.length = (s.pcs p).issued.length + 1 ∧
      Output.dram p (hbmBank r.unit) (if r.write then 1 else 0) ∈ t.out) := by
  let u := s.countLate p
  have hcu : u.pcs p = _ := s.pcs_countLate p
  have hlate : (u.pcs p).reads = [s.lateReq r] := by rw [hcu, hreads]; rfl
  have hnone : (u.pcs p).writes = [] := by rw [hcu, hwrites]; rfl
  have hidle : (u.pcs p).drain = false := by rw [hcu]; exact hdrain
  have hsame : (u.pcs p).issued = (s.pcs p).issued := by rw [hcu]
  have hpick : u.pickReq { u.pcs p with drain := false } = some (s.lateReq r) :=
    State.pickReq_single (Pc.heads_single hlate hnone rfl (by rwa [State.unit_lateReq]))
  have hexec := hbmCommandSlot_picks hactive (u := u) rfl (drain := false) (by rw [hidle, hnone]; rfl) hpick
  rw [State.unit_lateReq, State.write_lateReq] at hexec
  have hpcs : (State.emit (u.setPc p (Pc.issue { u.pcs p with drain := false } (s.lateReq r)))
      (.dram p (hbmBank r.unit) (if r.write then 1 else 0))).pcs p = _ :=
    ((Shows.refl _).emit _ |>.view (fun t => t.pcs p) fun _ _ _ _ => rfl).trans (State.pcs_setPc _ _ _)
  obtain ⟨hleft, hsent⟩ := Pc.queues_issue { u.pcs p with drain := false } (s.lateReq r)
  refine ⟨_, hexec, ?_, ?_, State.mem_emit rfl⟩
  · rw [hpcs, hleft, hlate, List.erase_cons_head]
  · rw [hpcs, hsent, List.length_append, hsame]
    rfl

/-! ### Responses and parity (R438 to R440) -/

theorem hbmResponse_ends {rest : List HbmReq} (hissued : (s.pcs p).issued = r :: rest) (hmerged : r.refused = false)
    (hgood : s.mem.bad = []) : answers (.hbmResponse p .ok) s (fun t => (t.pcs p).issued = rest ∧
      Output.hbmAnswer r.port r.unit r.data false ∈ t.out) := by
  let u := s.setPc p { s.pcs p with issued := rest, replay := false }
  let w := u.peak F.hbmPortStat_peakUs r.port ((4 * (u.clock - r.arrived) + 999) / 1000)
  have hw : Shows u w := (Shows.refl u).peak _ _ _
  have hclean : w.mem.bad = [] := (hw.view (fun t => t.mem.bad) fun _ _ _ _ => rfl).trans
    ((State.setPc_view (v := fun t => t.mem.bad) (fun _ _ _ _ => rfl) (fun _ _ => rfl) s p _).trans hgood)
  have hexec : exec (.hbmResponse p .ok) s = .next (w.emit (.hbmAnswer r.port r.unit r.data false)) := by
    rw [exec_hbmResponse, execHbmResponse]
    simp only [hissued]
    refine (if_neg ?_).trans rfl
    rw [show (State.peak _ F.hbmPortStat_peakUs r.port _).mem.bad = [] from hclean, hmerged]
    simp
  refine ⟨_, hexec, ?_, State.mem_emit rfl⟩
  rw [(hw.emit _).view (fun t => t.pcs p) fun _ _ _ _ => rfl, State.pcs_setPc]

theorem hbmParityAlert_replays (kind : ParityKind) (hfirst : (s.pcs p).replay = false) :
    answers (.hbmParityAlert p kind) s (fun t => (t.pcs p).replay = true ∧ (t.pcs p).issued = (s.pcs p).issued ∧
      t.rd (F.hbmCnt_count 3) = satAdd 32 (s.rd (F.hbmCnt_count 3)) 1) := by
  let u := s.setPc p { s.pcs p with replay := true }
  have hexec : exec (.hbmParityAlert p kind) s = .next (u.count (F.hbmCnt_count 3) 0 1) := by
    rw [exec_hbmParityAlert, execHbmParityAlert.eq_def]
    exact if_pos (by rw [hfirst]; rfl)
  have hpcs : (u.count (F.hbmCnt_count 3) 0 1).pcs p = { s.pcs p with replay := true } :=
    (((Shows.refl u).count _ _ _).view (fun t => t.pcs p) fun _ _ _ _ => rfl).trans (s.pcs_setPc p _)
  refine ⟨_, hexec, congrArg Pc.replay hpcs, by rw [hpcs], ?_⟩
  rw [State.rd_count_self (by decide) (by decide),
    show u.rd (F.hbmCnt_count 3) = s.rd (F.hbmCnt_count 3) from sameRd.setPc (m := 1) .refl (by decide) Nat.one_pos _]
  rfl

/-- Bytes left undefined are HBM's and free values' alone. -/
theorem State.scramble_view (hm : ∀ u l, v { u with hbm := l } = v u) (hfresh : ∀ u n, v { u with fresh := n } = v u)
    (s : State) (a n : Nat) : v (s.scramble a n) = v s := by
  induction n generalizing s a with
  | zero => rfl
  | succ n ih => exact (ih _ _).trans ((hm _ _).trans (hfresh s _))

/-- A request that fails on its replay (R440). -/
def State.replayFailed (p ek : Nat) (s : State) (r : HbmReq) : State :=
  let s := s.count (F.hbmCnt_count 1) 0 1
  let s := s.count F.hbmPcUncorr_uncorr p 1
  let s := s.errLogUncorr ek r.unit r.port
  let s := if r.write then s.scramble r.unit 64 else s
  s.emit (.hbmAnswer r.port r.unit [] true)

theorem State.pcs_replayFailed (s : State) (n ek : Nat) (r : HbmReq) : (s.replayFailed n ek r).pcs k = s.pcs k := by
  have hv : Unshown fun u => u.pcs k := fun _ _ _ _ => rfl
  let u := ((s.count (F.hbmCnt_count 1) 0 1).count F.hbmPcUncorr_uncorr n 1).errLogUncorr ek r.unit r.port
  have hu : u.pcs k = s.pcs k :=
    hv.eq (((((Shows.refl s).count _ _ _).count _ _ _).errLogNew _ _ _ _).log _ _ _ _)
  refine (hv.eq ((Shows.refl (if r.write then u.scramble r.unit 64 else u)).emit _)).trans ?_
  split
  · exact (State.scramble_view (v := fun t => t.pcs k) (fun _ _ => rfl) (fun _ _ => rfl) u _ _).trans hu
  · exact hu

theorem hbmParityAlert_ends (hsecond : (s.pcs p).replay = true) : answers (.hbmParityAlert p .commandAddress) s (fun t =>
    (t.pcs p).replay = false ∧ (t.pcs p).issued = []) := by
  let u := s.setPc p { s.pcs p with replay := false, issued := (s.pcs p).issued.filter (fun _ => !true) }
  have hexec : exec (.hbmParityAlert p .commandAddress) s =
      .next (((s.pcs p).issued.filter (fun _ => true)).foldl (State.replayFailed p Ek.caFail) u) := by
    rw [exec_hbmParityAlert, execHbmParityAlert.eq_def]
    exact if_neg (by rw [hsecond]; decide)
  have hpcs : (((s.pcs p).issued.filter (fun _ => true)).foldl (State.replayFailed p Ek.caFail) u).pcs p = _ :=
    (foldl_view (v := fun t => t.pcs p) fun w r => w.pcs_replayFailed p Ek.caFail r).trans (s.pcs_setPc p _)
  refine ⟨_, hexec, congrArg Pc.replay hpcs, ?_⟩
  rw [hpcs]
  exact List.filter_eq_nil_iff.2 fun _ _ => by decide

/-! ### Refresh and self-refresh (R443 to R446) -/

theorem hbmRefresh_issues (b : Fin 48) (hactive : s.pcState p = 0) (hreads : (s.pcs p).reads = [])
    (hwrites : (s.pcs p).writes = []) : answers (.hbmRefresh p b) s (fun t =>
      Sparse.get (fun _ => 0) (t.pcs p).postponed b = 0 ∧ Output.dram p b 2 ∈ t.out) := by
  let c := s.pcs p
  let u := if Sparse.get (fun _ => 0) c.postponed b == 8 then s.count (F.hbmCnt_count 9) 0 1 else s
  let w := u.setPc p { c with postponed := Sparse.set (fun _ => 0) c.postponed b 0,
                              openRow := Sparse.set (fun _ => 0) c.openRow b 0 }
  have hexec : exec (.hbmRefresh p b) s = .next (w.emit (.dram p b 2)) := by
    rw [exec_hbmRefresh, execHbmRefresh, hactive]
    refine (if_neg (by decide)).trans ((if_neg ?_).trans rfl)
    rw [hreads, hwrites]
    simp
  have hpcs : (w.emit (.dram p b 2)).pcs p = _ :=
    (((Shows.refl w).emit _).view (fun t => t.pcs p) fun _ _ _ _ => rfl).trans (u.pcs_setPc p _)
  refine ⟨_, hexec, ?_, State.mem_emit rfl⟩
  rw [hpcs]
  exact Sparse.get_set_self (fun _ => 0) c.postponed b.val 0

theorem srIdleExpiry_enters (hpolicy : s.rd F.hbmPolicy_srPolicy = 2) (hactive : s.pcState p = 0)
    (hreads : (s.pcs p).reads = []) (hwrites : (s.pcs p).writes = []) :
    answers (.srIdleExpiry p) s (fun t => t.pcState p = 1) := by
  refine ⟨(s.setPc p { s.pcs p with openRow := [] }).wr F.hbmPcStat_state p 1, ?_, State.rd_wr_fits (by decide) (by decide)⟩
  rw [exec_srIdleExpiry, execSrIdleExpiry]
  exact if_pos (by rw [hpolicy, hactive, hreads, hwrites]; rfl)

theorem srExitDone_activates (hexiting : s.pcState p = 3) : answers (.srExitDone p) s (fun t =>
    t.pcState p = 0 ∧ (t.pcs p).exitTries = 0) := by
  let u := s.setPc p { s.pcs p with exitTries := 0 }
  have hpcs : (u.wr F.hbmPcStat_state p 0).pcs p = _ :=
    (((Shows.refl u).wr _ _ _).view (fun t => t.pcs p) fun _ _ _ _ => rfl).trans (s.pcs_setPc p _)
  refine ⟨u.wr F.hbmPcStat_state p 0, ?_, State.rd_wr_fits (by decide) (by decide), by rw [hpcs]⟩
  rw [exec_srExitDone, execSrExitDone, hexiting]
  rfl

/-- A pseudo-channel DOWN, before its requests end (R446). -/
def State.downShown (s : State) (p : Nat) (c : Pc) : State :=
  ((s.setPc p { c with reads := [], writes := [], issued := [] }).wr F.hbmPcStat_state p 4).up F.hbmStat_pcDown

theorem State.pcDown_eq (s : State) (p : Nat) : let c := s.pcs p
    let gone := c.reads ++ c.writes ++ c.issued
    s.pcDown p = gone.foldl (fun s r => s.emit (.hbmAnswer r.port r.unit [] true))
      (((s.downShown p c).errLogNew Ek.uncorr ((gone.head?.map (·.unit)).getD 0) 0xFF none).log
        Ev.hbmPcDown (0xB0 + p / 4) 0 [p]) := rfl

/-- The entries a pseudo-channel's end adds to the logs, and the answers its requests get, pass other fields. -/
theorem sameRd.downLogged {m : Nat} (hs : sameRd g j s0 s) (hj : j < m) (hg : g.besideErrLog m = true) (unit n : Nat)
    (gone : List HbmReq) : sameRd g j s0 (gone.foldl (fun s r => s.emit (.hbmAnswer r.port r.unit [] true))
      ((s.errLogNew Ek.uncorr unit 0xFF none).log Ev.hbmPcDown (0xB0 + n / 4) 0 [n])) := by
  have hlost : F.chiefLogLost_count.far 1 g m = true := by
    simp only [Fld.besideErrLog, Bool.and_eq_true] at hg
    exact hg.2
  have hlogged := (State.rd_log (s := s.errLogNew Ek.uncorr unit 0xFF none) (code := Ev.hbmPcDown) (isl := 0xB0 + n / 4)
    (status := 0) (args := [n]) g j (Fld.addr_ne hlost Nat.one_pos hj)).trans (hs.errLogNew hj hg Ek.uncorr unit 0xFF none)
  exact (foldl_view (v := fun u => u.rd g j) fun u r => (sameRd.refl (s := u)).emit _).trans hlogged

theorem State.pcDown_shows (s : State) : (s.pcDown p).pcState p = 4 ∧ (s.pcDown p).flag F.hbmStat_pcDown = true := by
  rw [State.pcDown_eq]
  have hstate : (s.downShown p (s.pcs p)).pcState p = 4 :=
    (State.rd_wr_beside_0fin (by decide)).trans (State.rd_wr_fits (by decide) (by decide))
  have hflag : (s.downShown p (s.pcs p)).flag F.hbmStat_pcDown = true := State.flag_up_self (by decide) (by decide)
  exact ⟨Eq.trans (sameRd.refl.downLogged p.isLt (by decide) _ _ _) hstate,
    (State.flag_congr (sameRd.refl.downLogged Nat.one_pos (by decide) _ _ _)).trans hflag⟩

theorem srExitTimeout_tries (hexiting : s.pcState p = 3) : answers (.srExitTimeout p) s (fun t =>
    if (s.pcs p).exitTries = 0 then (t.pcs p).exitTries = 1 ∧ t.pcState p = 3
    else t.pcState p = 4 ∧ t.flag F.hbmStat_pcDown = true) := by
  by_cases hfirst : (s.pcs p).exitTries = 0
  · refine ⟨s.setPc p { s.pcs p with exitTries := 1 }, ?_, ?_⟩
    · rw [exec_srExitTimeout, execSrExitTimeout, hexiting]
      exact (if_neg (by decide)).trans (if_pos (by rw [hfirst]; rfl))
    · dsimp only
      rw [if_pos hfirst, State.pcs_setPc, State.pcState_setPc]
      exact ⟨rfl, hexiting⟩
  · refine ⟨s.pcDown p, ?_, ?_⟩
    · rw [exec_srExitTimeout, execSrExitTimeout, hexiting]
      exact (if_neg (by decide)).trans (if_neg (by simpa using hfirst))
    · dsimp only
      rw [if_neg hfirst]
      exact s.pcDown_shows

/-- Settles O30: the controllers by their requests, slots, responses, refreshes and self-refresh. Contents change as a
request arrives (log 56). -/
theorem hbmControllersServe : Obligations.HbmControllersServe :=
  ⟨fun _ _ _ _ => hbmRequest_writes, fun _ _ _ => hbmRequest_reads, fun _ _ _ => hbmCommandSlot_issues,
    fun _ _ _ _ => hbmResponse_ends, fun _ _ => hbmParityAlert_replays, fun _ _ => hbmParityAlert_ends,
    fun _ _ => hbmRefresh_issues, fun _ _ => srIdleExpiry_enters, fun _ _ => srExitDone_activates,
    fun _ _ => srExitTimeout_tries⟩

end Sys2Proof.Machine
end

section
/-! SUPPORT. The DMA channels (R469 to R471, R474, R476 to R478): one lemma per clause of O32. -/

namespace Sys2Proof.Machine

variable {s s0 t : State} {f g : Fld} {j m n : Nat} {α : Type} {v : State → α} {i : Fin 32} {d : DmaDesc}

/-! ### A channel, its registers and its events -/

theorem State.dma_setDma (s : State) (n : Nat) (c : DmaCh) : (s.setDma n c).dma n = c := Sparse.get_set_self _ _ _ _

theorem Unshown.dma (n : Nat) : Unshown fun u => u.dma n := fun _ _ _ _ => rfl

theorem sameRd.setDma (hs : sameRd g j s0 s) (n : Nat) (c : DmaCh) : sameRd g j s0 (s.setDma n c) := hs.same rfl

theorem Shows.dmaEvent (h : Shows s0 s) (n p : Nat) : Shows s0 (s.dmaEvent n p) := (h.event _ _ _).irq _

theorem sameRd.dmaEvent (hs : sameRd g j s0 s) (hj : j < m) (hg : F.msixPba_pending.far 2 g m = true) (p : Nat) :
    sameRd g j s0 (s.dmaEvent i p) :=
  (hs.event _ _ _).irq (.of_far_fields (by omega) hj hg)

/-! ### Bytes stored where no unit is in error -/

/-- The units of a range, wholly written. -/
def State.markedGood (s : State) (a n : Nat) : State := (hbmUnits a n).foldl (fun s u => s.markGood u) s

theorem State.markedGood_view (hm : ∀ u l, v { u with mem.bad := l } = v u) (s : State) (a n : Nat) :
    v (s.markedGood a n) = v s := foldl_view fun u _ => hm u _

theorem State.writeMem_of_noneBad (hgood : s.noneBad = true) (port a : Nat) (bs : Bytes) :
    s.writeMem port a bs = ((s.markedGood a bs.length).setBytes a bs, true) := by
  rw [State.writeMem, State.mergeFails, hgood]
  rfl

/-- A view of neither HBM nor what it knows of its units. -/
theorem State.stored_view (hm : ∀ u l, v { u with mem.bad := l } = v u) (hh : ∀ u l, v { u with hbm := l } = v u)
    (s : State) (a : Nat) (bs : Bytes) : v ((s.markedGood a bs.length).setBytes a bs) = v s := by
  rw [State.setBytes_eq]
  exact (hh _ _).trans (State.markedGood_view hm s a _)

/-! ### Start (R469, R477) -/

/-- The registers and the generation of a chain that begins. -/
def State.chainOpened (s : State) (i gen : Nat) : State :=
  ((s.wr F.dmaStat_cause i Dc.none).wr F.dmaCount_chCount i 0).setDma i { s.dma i with chainGen := gen }

/-- A channel that fetches (R470). -/
def State.fetching (s : State) (i addr : Nat) (hbm : Bool) : State :=
  let c := s.dma i
  (s.setDma i { descAddr := addr, descHbm := hbm, chainGen := c.chainGen, gen := c.chainGen, bytesRest := c.bytesRest }).wr
    F.dmaStat_state i Ds.fetch

theorem State.dmaFetch_shows (s : State) (n addr : Nat) (hbm : Bool) : Shows (s.fetching n addr hbm) (s.dmaFetch n addr hbm) :=
  (Shows.refl _).andUnless fun h => h.emit _

theorem sameRd.dmaFetch (n addr : Nat) (hbm : Bool) : sameRd g j (s.fetching n addr hbm) (s.dmaFetch n addr hbm) :=
  sameRd.refl.andUnless fun h => h.emit _

theorem State.dma_fetching (s : State) (n addr : Nat) (hbm : Bool) :
    ((s.fetching n addr hbm).dma n).chainGen = (s.dma n).chainGen ∧ ((s.fetching n addr hbm).dma n).descAddr = addr := by
  have h : (s.fetching n addr hbm).dma n = _ := ((Unshown.dma n).wr _ _ _).trans (s.dma_setDma n _)
  rw [h]
  exact ⟨rfl, rfl⟩

theorem State.dmaState_fetching (s : State) (addr : Nat) (hbm : Bool) : (s.fetching i addr hbm).dmaState i = Ds.fetch :=
  State.rd_wr_fits (by decide) (by decide)

theorem State.count_fetching (s : State) (addr : Nat) (hbm : Bool) :
    (s.fetching i addr hbm).rd F.dmaCount_chCount i = s.rd F.dmaCount_chCount i := State.rd_wr_beside_fin (by decide)

theorem State.dma_chainOpened (s : State) (n gen : Nat) : ((s.chainOpened n gen).dma n).chainGen = gen :=
  congrArg DmaCh.chainGen (State.dma_setDma _ n _)

theorem State.count_chainOpened (s : State) (gen : Nat) : (s.chainOpened i gen).rd F.dmaCount_chCount i = 0 :=
  Eq.trans (sameRd.refl.setDma i _) (State.rd_wr_fits (by decide) (by decide))

theorem State.dmaBegin_eq (s : State) (n gen : Nat) : s.dmaBegin n gen = (s.chainOpened n gen).dmaFetch n
    (s.rd64 F.dmaDescLo_desc F.dmaDescHi_desc n / 64 * 64) (bit (s.rd64 F.dmaDescLo_desc F.dmaDescHi_desc n) 0) := rfl

theorem State.dmaBegin_fetches (s : State) (gen : Nat) : let t := s.dmaBegin i gen
    t.dmaState i = Ds.fetch ∧ t.rd F.dmaCount_chCount i = 0 ∧ (t.dma i).chainGen = gen ∧
    (t.dma i).descAddr = s.rd64 F.dmaDescLo_desc F.dmaDescHi_desc i / 64 * 64 := by
  have hgen := s.dma_chainOpened i gen
  have hcount := s.count_chainOpened (i := i) gen
  rw [State.dmaBegin_eq]
  generalize s.chainOpened i gen = u at hgen hcount
  generalize s.rd64 F.dmaDescLo_desc F.dmaDescHi_desc i / 64 * 64 = a
  generalize bit (s.rd64 F.dmaDescLo_desc F.dmaDescHi_desc i) 0 = b
  have hdma := (Unshown.dma i).eq (u.dmaFetch_shows i a b)
  obtain ⟨hkept, haddr⟩ := u.dma_fetching i a b
  refine ⟨Eq.trans (sameRd.dmaFetch ..) (u.dmaState_fetching a b),
    Eq.trans (sameRd.dmaFetch ..) ((u.count_fetching a b).trans hcount), ?_, ?_⟩
  · rw [hdma, hkept, hgen]
  · rw [hdma, haddr]

theorem State.dmaStart_begins (hrest : s.dmaState i = Ds.idle ∨ s.dmaState i = Ds.halted) (gen : Nat) :
    s.dmaStart i gen = s.dmaBegin i gen := by
  refine if_pos ?_
  rcases hrest with h | h <;> rw [h] <;> rfl

theorem dmaStart_fetches (hheld : s.hostHolds (Res.dma + i) = true)
    (hrest : s.dmaState i = Ds.idle ∨ s.dmaState i = Ds.halted) : answers (.dmaStart i) s (fun t =>
      t.dmaState i = Ds.fetch ∧ t.rd F.dmaCount_chCount i = 0 ∧
      (t.dma i).descAddr = s.rd64 F.dmaDescLo_desc F.dmaDescHi_desc i / 64 * 64) := by
  obtain ⟨hstate, hcount, _, haddr⟩ := s.dmaBegin_fetches (i := i) 0
  refine ⟨s.dmaBegin i 0, ?_, hstate, hcount, haddr⟩
  rw [exec_dmaStart, execDmaStart]
  simp only [hheld, if_true, State.dmaStart_begins hrest]

theorem dmaStartEvent_fetches (gen : Fin 8) (hrest : s.dmaState i = Ds.idle ∨ s.dmaState i = Ds.halted) :
    answers (.dmaStartEvent i gen) s (fun t => t.dmaState i = Ds.fetch ∧ (t.dma i).chainGen = gen + 1 ∧
      (t.dma i).descAddr = s.rd64 F.dmaDescLo_desc F.dmaDescHi_desc i / 64 * 64) := by
  obtain ⟨hstate, _, hgen, haddr⟩ := s.dmaBegin_fetches (i := i) (gen.val + 1)
  refine ⟨s.dmaBegin i (gen.val + 1), ?_, hstate, hgen, haddr⟩
  rw [exec_dmaStartEvent, execDmaStartEvent, State.dmaStart_begins hrest]

theorem dmaStartEvent_releases (gen : Fin 8) (hwait : s.dmaState i = Ds.wait) :
    answers (.dmaStartEvent i gen) s (fun t => t.dmaState i = Ds.run) := by
  refine ⟨(s.setDma i { s.dma i with gen := gen.val + 1 }).wr F.dmaStat_state i Ds.run, ?_,
    State.rd_wr_fits (by decide) (by decide)⟩
  rw [exec_dmaStartEvent, execDmaStartEvent, State.dmaStart, hwait]
  rfl

/-! ### A channel halts (R471, R475 to R477) -/

/-- What a halted channel shows of its cause. -/
def State.haltShown (s : State) (i cause fault : Nat) : State :=
  let u := ((s.setDma i { s.dma i with desc := none, reads := [], aborting := false }).wr F.dmaStat_state i Ds.halted).wr
    F.dmaStat_cause i cause
  if cause == Dc.aborted then u else u.wr64 F.dmaFaultLo_addr F.dmaFaultHi_addr i fault

/-- A halt without a write-back. -/
theorem State.dmaHalt_eq (s : State) (n status cause fault : Nat) :
    s.dmaHalt n status cause fault false = (s.haltShown n cause fault).dmaEvent n (106 + 2 * n) := rfl

theorem State.dmaHalt_halts {cause : Nat} (hcause : cause < 16) (s : State) (status fault : Nat) :
    let t := s.dmaHalt i status cause fault false
    t.dmaState i = Ds.halted ∧ t.rd F.dmaStat_cause i = cause ∧
    t.dma i = { s.dma i with desc := none, reads := [], aborting := false } ∧ t.hbm = s.hbm := by
  let u := (s.setDma i { s.dma i with desc := none, reads := [], aborting := false }).wr F.dmaStat_state i Ds.halted
  have hu : Shows (s.setDma i { s.dma i with desc := none, reads := [], aborting := false })
      (s.dmaHalt i status cause fault false) := by
    rw [State.dmaHalt_eq]
    exact ((((Shows.refl _).wr _ _ _).wr _ _ _).andUnless fun h => (h.wr _ _ _).wr _ _ _).dmaEvent _ _
  have hkept : ∀ {f : Fld}, F.dmaFaultLo_addr.clearOf 32 f 32 = true → F.dmaFaultHi_addr.clearOf 32 f 32 = true →
      F.msixPba_pending.far 2 f 32 = true →
      sameRd f i (u.wr F.dmaStat_cause i cause) (s.dmaHalt i status cause fault false) := by
    intro f hlo hhi hpba
    rw [State.dmaHalt_eq]
    exact sameRd.dmaEvent (sameRd.refl.andUnless fun h => (h.wrClearOf hlo i.isLt i.isLt).wrClearOf hhi i.isLt i.isLt)
      i.isLt hpba _
  refine ⟨?_, ?_, ?_, hu.hbm⟩
  · exact Eq.trans (hkept (by decide) (by decide) (by decide))
      ((State.rd_wr_beside_fin (by decide)).trans (State.rd_wr_fits (by decide) (by decide)))
  · exact Eq.trans (hkept (by decide) (by decide) (by decide)) (State.rd_wr_fits (by decide) hcause)
  · exact ((Unshown.dma i).eq hu).trans (s.dma_setDma i _)

theorem dmaAbort_halts (hheld : s.hostHolds (Res.dma + i) = true) (hrun : s.dmaState i = Ds.run)
    (hidle : (s.dma i).reads = []) : answers (.dmaAbort i) s (fun t => t.dmaState i = Ds.halted ∧
      t.rd F.dmaStat_cause i = Dc.aborted ∧ (t.dma i).desc = none) := by
  have hexec : exec (.dmaAbort i) s = .next (s.dmaHalt i St.done Dc.aborted (s.dma i).descAddr false) := by
    rw [exec_dmaAbort, execDmaAbort]
    simp only [hheld, if_true]
    rw [State.dmaAbort, hrun, hidle]
    rfl
  obtain ⟨hstate, hcause, hdma, _⟩ := s.dmaHalt_halts (i := i) (cause := Dc.aborted) (by decide) St.done (s.dma i).descAddr
  exact ⟨_, hexec, hstate, hcause, by rw [hdma]⟩

theorem dmaBusError_halts (hfetch : s.dmaState i = Ds.fetch) (hhost : (s.dma i).descHbm = false) :
    answers (.dmaBusError i) s (fun t => t.dmaState i = Ds.halted ∧ t.rd F.dmaStat_cause i = Dc.busError) := by
  let u := s.log Ev.dmaBusError 0xC1 St.busError [i, (s.dma i).descAddr % 2 ^ 32, (s.dma i).descAddr / 2 ^ 32]
  have hexec : exec (.dmaBusError i) s = .next (u.dmaHalt i St.busError Dc.busError (s.dma i).descAddr false) := by
    rw [exec_dmaBusError, execDmaBusError, hfetch]
    exact if_pos (by rw [hhost]; rfl)
  obtain ⟨hstate, hcause, _⟩ := u.dmaHalt_halts (i := i) (cause := Dc.busError) (by decide) St.busError (s.dma i).descAddr
  exact ⟨_, hexec, hstate, hcause⟩

/-! ### A descriptor, from its fetch to its end (R470, R471, R474) -/

theorem dmaDescFetch_takes {b : Bytes} (hfetch : s.dmaState i = Ds.fetch) (hrun : (s.dma i).aborting = false)
    (hhost : (s.dma i).descHbm = false) (hlen : b.length = 64) (hgood : s.dmaFault b (dmaDesc b) = none) :
    answers (.dmaDescFetch i b) s (fun t => (t.dma i).desc = some (dmaDesc b) ∧
      t.dmaState i = (if (dmaDesc b).wait then Ds.wait else Ds.run)) := by
  let u := s.setDma i { s.dma i with desc := some (dmaDesc b) }
  have hexec : exec (.dmaDescFetch i b) s =
      .next (u.wr F.dmaStat_state i (if (dmaDesc b).wait then Ds.wait else Ds.run)) := by
    rw [exec_dmaDescFetch, execDmaDescFetch, hfetch]
    simp only [hrun, hhost, hlen]
    rw [State.dmaTake, show (s.setDma i { s.dma i with desc := some (dmaDesc b) }).dmaFault b (dmaDesc b) = none from hgood]
    rfl
  have hdma : (u.wr F.dmaStat_state i (if (dmaDesc b).wait then Ds.wait else Ds.run)).dma i = _ :=
    ((Unshown.dma i).wr _ _ _).trans (s.dma_setDma i _)
  refine ⟨_, hexec, by rw [hdma], State.rd_wr_fits (by decide) ?_⟩
  split <;> decide

/-- The end of the last descriptor of a chain (R474). -/
theorem State.dmaFinish_end (hdesc : (s.dma i).desc = some d) (hend : d.endFlag = true) :
    ((s.dmaFinish i).dma i).desc = none ∧ (s.dmaFinish i).dmaState i = Ds.idle := by
  let u := s.wr F.dmaCount_chCount i (s.rd F.dmaCount_chCount i + 1)
  let w := if d.intFull then u.dmaEvent i (106 + 2 * i) else u
  have heq : s.dmaFinish i = (w.setDma i { s.dma i with desc := none }).wr F.dmaStat_state i Ds.idle := by
    unfold State.dmaFinish
    simp only [hdesc, hend, if_true]
    rfl
  have hdma : (s.dmaFinish i).dma i = _ := heq ▸ ((Unshown.dma i).wr _ _ _).trans (w.dma_setDma i _)
  exact ⟨by rw [hdma], heq ▸ State.rd_wr_fits (by decide) (by decide)⟩

theorem dmaDescComplete_idles (hrun : s.dmaState i = Ds.run) (hdesc : (s.dma i).desc = some d)
    (hdone : (s.dma i).done = d.len) (hidle : (s.dma i).reads = []) (hback : (s.dma i).wroteBack = false)
    (hend : d.endFlag = true) (hwb : d.wb = false) : answers (.dmaDescComplete i) s (fun t =>
      t.dmaState i = Ds.idle ∧ (t.dma i).desc = none) := by
  have hexec : exec (.dmaDescComplete i) s = .next (s.dmaFinish i) := by
    rw [exec_dmaDescComplete, execDmaDescComplete]
    simp only [hdesc, hrun, hdone, hidle, hback, hwb]
    simp
  obtain ⟨hdma, hstate⟩ := State.dmaFinish_end hdesc hend
  exact ⟨_, hexec, hstate, hdma⟩

/-! ### Bytes move (R472 to R474, R478) -/

/-- A channel once bytes of its transfer are complete (R474). -/
def DmaCh.moved (c : DmaCh) (n : Nat) : DmaCh := { c with done := c.done + n, bytesRest := (c.bytesRest + n) % 65536 }

theorem State.dmaProgress_moves (s : State) (n : Nat) : (s.dmaProgress i n).hbm = s.hbm ∧
    ∃ b, (s.dmaProgress i n).dma i = { (s.dma i).moved n with half := b } := by
  let u := s.count F.dmaBytes64k_bytes i (((s.dma i).bytesRest + n) / 65536)
  let w := u.setDma i ((s.dma i).moved n)
  have hw : w.hbm = s.hbm := rfl
  unfold State.dmaProgress
  dsimp only
  split
  · split
    · next d _ _ =>
      let x := w.setDma i { (s.dma i).moved n with half := true }
      have hx : Shows x (x.dmaEvent i (107 + 2 * i)) := (Shows.refl x).dmaEvent _ _
      exact ⟨hx.hbm, true, ((Unshown.dma i).eq hx).trans (w.dma_setDma i _)⟩
    · exact ⟨rfl, (s.dma i).half, u.dma_setDma i _⟩
  · exact ⟨rfl, (s.dma i).half, u.dma_setDma i _⟩

theorem State.bytes_of_hbm {u : State} (h : t.hbm = u.hbm) (a n : Nat) : t.bytes a n = u.bytes a n :=
  State.bytes_congr fun c _ _ => by unfold State.byte; rw [h]

theorem State.dmaSettle_keepsData (s : State) :
    (s.dmaSettle i).hbm = s.hbm ∧ ((s.dmaSettle i).dma i).done = (s.dma i).done := by
  unfold State.dmaSettle
  dsimp only
  split
  · obtain ⟨_, _, hdma, hhbm⟩ := s.dmaHalt_halts (i := i) (cause := Dc.aborted) (by decide) St.done (s.dma i).descAddr
    exact ⟨hhbm, by rw [hdma]⟩
  · exact ⟨rfl, rfl⟩

/-- A channel's bytes stored, in a state where no unit is in error. -/
def State.dmaStored (s : State) (i : Nat) (c : DmaCh) (a : Nat) (b : Bytes) : State :=
  ((s.setDma i c).markedGood a b.length).setBytes a b

theorem State.dma_dmaStored (s : State) (n : Nat) (c : DmaCh) (a : Nat) (b : Bytes) : (s.dmaStored n c a b).dma n = c :=
  (State.stored_view (v := fun u => u.dma n) (fun _ _ => rfl) (fun _ _ => rfl) _ a b).trans (s.dma_setDma n c)

theorem State.writeMem_setDma (hgood : s.noneBad = true) (k n : Nat) (c : DmaCh) (a : Nat) (b : Bytes) :
    (s.setDma n c).writeMem k a b = (s.dmaStored n c a b, true) :=
  State.writeMem_of_noneBad (s := s.setDma n c) hgood k a b

theorem pcieCompletionRx_stores {b : Bytes} {off : Nat} {rest : List (Nat × Nat)} (hrun : s.dmaState i = Ds.run)
    (hdesc : (s.dma i).desc = some d) (hreads : (s.dma i).reads = (off, b.length) :: rest) (hb : b ≠ [])
    (hgood : s.noneBad = true) : answers (.pcieCompletionRx i b) s (fun t => t.bytes (d.dst + off) b.length = b ∧
      (t.dma i).done = (s.dma i).done + b.length) := by
  let u := s.dmaStored i { s.dma i with desc := some d, reads := rest } (d.dst + off) b
  have hexec : exec (.pcieCompletionRx i b) s = .next ((u.dmaProgress i b.length).dmaSettle i) := by
    have hlen : (b.length == 0) = false := beq_false_of_ne (by rwa [Ne, List.length_eq_zero_iff])
    have hsome : b.isEmpty = false := by rwa [Bool.eq_false_iff, Ne, List.isEmpty_iff]
    rw [exec_pcieCompletionRx, execPcieCompletionRx]
    simp only [hrun, hdesc, hreads, hlen, hsome, List.take_length, Nat.lt_irrefl, bne_self_eq_false, Bool.false_eq_true,
      if_false, if_true, State.writeMem_setDma hgood]
    rfl
  obtain ⟨hhbm, hdone⟩ := State.dmaSettle_keepsData (u.dmaProgress i b.length) (i := i)
  obtain ⟨hprog, half, hmoved⟩ := u.dmaProgress_moves (i := i) b.length
  refine ⟨_, hexec, (State.bytes_of_hbm (hhbm.trans hprog) _ _).trans (State.bytes_setBytes _ _ _ rfl), ?_⟩
  rw [hdone, hmoved, show u.dma i = _ from s.dma_dmaStored i _ _ _]
  rfl

/-- A piece of a copy within HBM (R478). -/
theorem State.dmaPiece_copies (hdesc : (s.dma i).desc = some d) (hdir : d.dir = 2) (hgood : s.noneBad = true) :
    let n := min 4096 (d.len - (s.dma i).read)
    ((s.dmaPiece i).dma i).read = (s.dma i).read + n ∧
    (s.dmaPiece i).bytes (d.dst + (s.dma i).read) n = s.bytes (d.src + (s.dma i).read) n := by
  intro n
  let b := s.bytes (d.src + (s.dma i).read) n
  let u := s.dmaStored i { s.dma i with desc := some d, read := (s.dma i).read + n } (d.dst + (s.dma i).read) b
  have heq : s.dmaPiece i = u.dmaProgress i n := by
    unfold State.dmaPiece
    simp only [hdesc, hdir, State.readMem_of_noneBad hgood, State.writeMem_setDma hgood]
    rfl
  obtain ⟨hprog, half, hmoved⟩ := u.dmaProgress_moves (i := i) n
  rw [heq]
  constructor
  · rw [hmoved, show u.dma i = _ from s.dma_dmaStored i _ _ _]
    rfl
  · exact (State.bytes_of_hbm hprog _ _).trans (State.bytes_setBytes _ _ _ (State.length_bytes ..))

theorem nextInTurn_single (last x : Nat) : nextInTurn last [x] = some x := by
  unfold nextInTurn
  rw [List.find?_cons]
  cases decide (last < x) <;> rfl

theorem nextInTurn_nil (last : Nat) : nextInTurn last [] = none := rfl

/-- The turn of a channel in its priority (R478). -/
def State.turnTaken (s : State) (i : Nat) : State :=
  if s.flag F.dmaCtl_prio i then { s with host.lastHigh := i } else { s with host.lastLow := i }

theorem State.turnTaken_keeps (s : State) (n : Nat) : (s.turnTaken n).dma n = s.dma n ∧ (s.turnTaken n).hbm = s.hbm ∧
    (s.turnTaken n).noneBad = s.noneBad := by
  unfold State.turnTaken
  split <;> exact ⟨rfl, rfl, rfl⟩

/-- The one channel with bytes to move has the piece, whatever its priority (R478). -/
theorem dmaPiece_serves (hrings : (List.range 6).filter s.ringWants = []) (hwants : (List.range 32).filter s.dmaWants = [i.val]) :
    exec .dmaPiece s = .next ((s.turnTaken i).dmaPiece i) := by
  have hnone : ∀ k < 6, s.ringWants k = false := fun k hk =>
    Bool.eq_false_iff.2 (List.filter_eq_nil_iff.1 hrings k (List.mem_range.2 hk))
  have hothers : [1, 2, 3, 4, 5].filter s.ringWants = [] := List.filter_eq_nil_iff.2 fun k hk =>
    Bool.eq_false_iff.1 (hnone k (by simp only [List.mem_cons, List.not_mem_nil, or_false] at hk; omega))
  rw [exec_dmaPiece, execDmaPiece, hnone 0 (by decide), hothers, hwants, State.turnTaken]
  cases hprio : s.flag F.dmaCtl_prio i with
  | true =>
    simp only [nextInTurn_nil, nextInTurn_single, List.filter_cons, List.filter_nil, hprio, if_true, Bool.false_eq_true,
      if_false]
  | false =>
    simp only [nextInTurn_nil, nextInTurn_single, List.filter_cons, List.filter_nil, hprio, if_true, Bool.false_eq_true,
      if_false, Bool.not_false]

theorem dmaPiece_moves (hrings : (List.range 6).filter s.ringWants = [])
    (hwants : (List.range 32).filter s.dmaWants = [i.val]) (hdesc : (s.dma i).desc = some d) (hdir : d.dir = 2)
    (hgood : s.noneBad = true) : answers .dmaPiece s (fun t =>
      (t.dma i).read = (s.dma i).read + min 4096 (d.len - (s.dma i).read) ∧
      t.bytes (d.dst + (s.dma i).read) (min 4096 (d.len - (s.dma i).read)) =
        s.bytes (d.src + (s.dma i).read) (min 4096 (d.len - (s.dma i).read))) := by
  refine ⟨_, dmaPiece_serves hrings hwants, ?_⟩
  obtain ⟨hdma, hhbm, hunits⟩ := s.turnTaken_keeps i
  obtain ⟨hread, hcopied⟩ := State.dmaPiece_copies (s := s.turnTaken i) (hdma ▸ hdesc) hdir (hunits ▸ hgood)
  rw [hdma] at hread hcopied
  exact ⟨hread, hcopied.trans (State.bytes_of_hbm hhbm _ _)⟩

theorem dmaPieceDeferExpiry_moves (hwants : s.dmaWants i = true) (hprio : s.flag F.dmaCtl_prio i = false)
    (hdesc : (s.dma i).desc = some d) (hdir : d.dir = 2) (hgood : s.noneBad = true) :
    answers (.dmaPieceDeferExpiry i) s (fun t =>
      (t.dma i).read = (s.dma i).read + min 4096 (d.len - (s.dma i).read)) := by
  obtain ⟨hread, _⟩ := State.dmaPiece_copies hdesc hdir hgood
  refine ⟨s.dmaPiece i, ?_, hread⟩
  rw [exec_dmaPieceDeferExpiry, execDmaPieceDeferExpiry]
  simp only [hwants, hprio, Bool.not_false, Bool.and_self, if_true]

/-- Settles O32: the channels by their starts, halts, descriptors and pieces. -/
theorem dmaChannelsMove : Obligations.DmaChannelsMove :=
  ⟨fun _ _ => dmaStart_fetches, fun _ _ => dmaStartEvent_fetches, fun _ _ => dmaStartEvent_releases,
    fun _ _ => dmaAbort_halts, fun _ _ _ => dmaDescFetch_takes, fun _ _ _ => dmaDescComplete_idles,
    fun _ _ => dmaBusError_halts, fun _ _ _ _ _ _ => pcieCompletionRx_stores, fun _ _ _ => dmaPiece_moves,
    fun _ _ _ => dmaPieceDeferExpiry_moves⟩

end Sys2Proof.Machine
end

section
/-! SUPPORT. Update sessions (R522 to R525, R542): one lemma per clause of O42. -/

namespace Sys2Proof.Machine

variable {s t : State} {c : CmdRef} {x : Session} {a i n : Nat} {b : Bytes}

/-! ### The commands of a session (R522, R523, R542) -/

/-- The session a command holds. -/
def State.withSession (s : State) (x : Option Session) : State := { s with update.session := x }

theorem State.rd_withSession {f : Fld} {y : Option Session} : (s.withSession y).rd f i = s.rd f i := rfl

/-- The tag of the next session (R522). -/
def State.nextTag (s : State) : Nat := s.update.tag % 4095 + 1

/-- The session and its tag. -/
def State.withOpened (s : State) (x : Session) (tag : Nat) : State := { s with update.tag := tag, update.session := some x }

/-- What a session shows at its begin (R522). -/
def State.headerShown (s : State) : State := ((s.updState Us.header).wr F.updProgress_permille 0 0).wr F.updProgress_part 0 0

/-- A network session begun (R522, R523). -/
def State.sessionOpened (s : State) (c : CmdRef) (x : Session) : State :=
  ((((s.takeCmd c).takeLock (ownerOf c + s.nextTag)).count (F.secCnt_count 0) 0 1).withOpened x s.nextTag).headerShown

theorem State.lockHolder_headerShown (s : State) : s.headerShown.lockHolder = s.lockHolder := by
  unfold State.headerShown State.updState
  refine State.lockHolder_congr ?_ ?_ <;> simp (disch := decide) only [State.rd_wr_beside]

theorem State.lockHolder_withOpened (s : State) (x : Session) (tag : Nat) :
    (s.withOpened x tag).lockHolder = s.lockHolder := State.lockHolder_congr rfl rfl

theorem State.rd_headerShown (s : State) : s.headerShown.rd F.updStat_state = Us.header :=
  (State.rd_wr_beside (by decide)).trans ((State.rd_wr_beside (by decide)).trans (State.rd_wr_fits (by decide) (by decide)))

theorem ownerOf_add_lt (c : CmdRef) (s : State) : ownerOf c + s.nextTag < 2 ^ 16 := by
  have htag : s.nextTag ≤ 4095 := Nat.succ_le_of_lt (Nat.mod_lt _ (by decide))
  have hdom : ownerOf c ≤ 14 * 4096 := by
    unfold ownerOf
    split <;> decide
  omega

theorem State.lockHolder_sessionOpened (s : State) (c : CmdRef) (x : Session) :
    (s.sessionOpened c x).lockHolder = some (ownerOf c + s.nextTag) := by
  rw [State.sessionOpened, State.lockHolder_headerShown, State.lockHolder_withOpened, State.count,
    State.lockHolder_wr_far (by decide) (by decide), State.lockHolder_takeLock (ownerOf_add_lt c s)]

theorem State.lockHolder_report {op st info res : Nat} : (s.report c op st info res).lockHolder = s.lockHolder :=
  State.lockHolder_congr (State.rd_report (by decide)) (State.rd_report (by decide))

theorem updateBegin_opens (addr : BitVec 64) (len : Word) (hs : s.serves c = true) (hmode : s.mode ≠ Md.park)
    (hnet : c.stream ≠ none) (hfree : s.lockHolder = none) : answers (.updateBegin c addr len) s (fun t =>
      t.lockHolder = some (ownerOf c + (s.update.tag % 4095 + 1)) ∧
      t.update.session = some { stream := streamOf c, addr := addr.toNat, len := len.toNat } ∧
      t.rd F.updStat_state = Us.header ∧ t.reported c 0x60 St.done = true) := by
  obtain ⟨-, hlate, -⟩ := State.serves_iff.1 hs
  have hsome : c.stream.isNone = false := by rwa [Option.isNone_eq_false_iff, Option.isSome_iff_ne_none]
  let u := s.sessionOpened c { stream := streamOf c, addr := addr.toNat, len := len.toNat }
  have hexec : exec (.updateBegin c addr len) s = .next (u.report c 0x60 St.done 0 s.nextTag) := by
    rw [exec_updateBegin, execUpdateBegin, State.notPark_of_serves hs hmode]
    simp only [hsome, hfree, Bool.false_and, Bool.false_eq_true, if_false]
    exact congrArg Host.Outcome.next (if_pos (by rwa [Option.isSome_iff_ne_none]))
  refine ⟨_, hexec, ?_, ?_, ?_, State.reported_report hlate⟩
  · exact State.lockHolder_report.trans (s.lockHolder_sessionOpened c _)
  · exact State.report_view (fun t => t.update.session) fun _ _ _ _ _ => rfl
  · exact (State.rd_report (by decide)).trans (State.rd_headerShown _)

theorem updateStatus_answers (hs : s.serves c = true) (hmode : s.mode ≠ Md.park) :
    answers (.updateStatus c) s (fun t => t.reported c 0x61 St.done = true) := by
  obtain ⟨-, hlate, -⟩ := State.serves_iff.1 hs
  have hexec : exec (.updateStatus c) s = .next (s.report c 0x61 St.done 0 ((s.reg (F.updStat_state.addr 0)).toNat +
      (s.reg (F.updProgress_permille.addr 0)).toNat * 2 ^ 32)) := by
    rw [exec_updateStatus, execUpdateStatus, State.notPark_of_serves hs hmode]
  exact ⟨_, hexec, State.reported_report hlate⟩

theorem updateData_takes (o : Word) (d : Bytes) (hs : s.serves c = true) (hmode : s.mode ≠ Md.park)
    (hnet : c.stream ≠ none) (hown : s.ownSession c = some x) (hchecked : x.checked = false)
    (ho : o.toNat = x.got.length) (hroom : x.got.length + d.length < manifestLen)
    (hstate : s.rd F.updStat_state ≤ Us.staging) : answers (.updateData c o d) s (fun t =>
      t.update.session = some { x with got := x.got ++ d } ∧ t.reported c 0x64 St.done = true) := by
  obtain ⟨-, hlate, -⟩ := State.serves_iff.1 hs
  have hsome : c.stream.isNone = false := by rwa [Option.isNone_eq_false_iff, Option.isSome_iff_ne_none]
  have hall : d.take (manifestLen - x.got.length) = d := List.take_of_length_le (by omega)
  have hshort : (x.got ++ d).length < manifestLen := by rwa [List.length_append]
  have hexec : exec (.updateData c o d) s =
      .next ((s.withSession (some { x with got := x.got ++ d })).finish c 0x64 St.done) := by
    rw [exec_updateData, execUpdateData, State.notPark_of_serves hs hmode]
    simp only [hsome, hown, hchecked, ho, bne_self_eq_false, Bool.false_or, decide_eq_true_eq, Nat.not_lt.2 hstate,
      Bool.false_eq_true, if_false, hall, hshort, decide_true, if_true]
    rfl
  exact ⟨_, hexec, State.report_view (fun t => t.update.session) fun _ _ _ _ _ => rfl, State.reported_finish hlate⟩

theorem updateAbort_frees (hs : s.serves c = true) (hmode : s.mode ≠ Md.park) (hown : s.ownSession c = some x)
    (hidle : s.update.activation = none) : answers (.updateAbort c) s (fun t => t.update.session = none ∧
      t.lockHolder = none ∧ t.rd F.updStat_state = Us.idle ∧ t.reported c 0x63 St.done = true) := by
  obtain ⟨-, hlate, -⟩ := State.serves_iff.1 hs
  let u := (s.withSession none).freeLock
  have hexec : exec (.updateAbort c) s = .next ((u.updState Us.idle).finish c 0x63 St.done) := by
    rw [exec_updateAbort, execUpdateAbort, State.notPark_of_serves hs hmode]
    simp only [hown]
    exact congrArg Host.Outcome.next (if_neg (by rw [hidle]; decide))
  refine ⟨_, hexec, State.report_view (fun t => t.update.session) fun _ _ _ _ _ => rfl, ?_, ?_, State.reported_finish hlate⟩
  · rw [State.lockHolder_finish, ← State.lockHolder_freeLock (s.withSession none)]
    exact State.lockHolder_congr (State.rd_wr_beside (by decide)) (State.rd_wr_beside (by decide))
  · exact (State.rd_report (by decide)).trans (State.rd_wr_fits (by decide) (by decide))

/-! ### A session that waits too long (R525) -/

/-- Why a session failed (R525). -/
def State.failShown (s : State) (status cause part loader : Nat) : State :=
  (((s.wr F.updLastErr_status 0 status).wr F.updLastErr_cause 0 cause).wr F.updLastErr_part 0 part).wr
    F.updLastErr_loader 0 loader

theorem State.sessionFails_eq (s : State) (status cause part loader : Nat) : s.sessionFails status cause part loader =
    ((s.failShown status cause part loader).withSession none).freeLock.updState Us.failed := rfl

theorem State.rd_failShown {status cause part loader : Nat} (hstatus : status < 2 ^ 8) :
    (s.failShown status cause part loader).rd F.updLastErr_status = status := by
  unfold State.failShown
  simp (disch := decide) only [State.rd_wr_beside]
  exact State.rd_wr_fits (by decide) hstatus

theorem State.lockHolder_updState (s : State) (k : Nat) : (s.updState k).lockHolder = s.lockHolder :=
  State.lockHolder_congr (State.rd_wr_beside (by decide)) (State.rd_wr_beside (by decide))

theorem State.sessionFails_ends {status cause part loader : Nat} (hstatus : status < 2 ^ 8) (s : State) :
    let t := s.sessionFails status cause part loader
    t.update.session = none ∧ t.lockHolder = none ∧ t.rd F.updStat_state = Us.failed ∧
    t.rd F.updLastErr_status = status := by
  rw [State.sessionFails_eq]
  refine ⟨rfl, ?_, State.rd_wr_fits (by decide) (by decide), ?_⟩
  · rw [State.lockHolder_updState, State.lockHolder_freeLock]
  · rw [State.updState, State.freeLock, State.down, State.rd_wr_beside (by decide), State.rd_wr_beside (by decide),
      State.rd_wr_beside (by decide), State.rd_withSession, State.rd_failShown hstatus]

theorem updateDataTimeout_fails (hnet : s.update.session.any (fun x => x.stream.isSome) = true)
    (hstate : s.rd F.updStat_state < Us.staged) : answers .updateDataTimeout s (fun t => t.update.session = none ∧
      t.lockHolder = none ∧ t.rd F.updStat_state = Us.failed ∧ t.rd F.updLastErr_status = St.timeout) := by
  refine ⟨s.sessionFails St.timeout 0 0 0, ?_, State.sessionFails_ends (by decide) s⟩
  rw [exec_updateDataTimeout, execUpdateDataTimeout]
  exact if_pos (by rw [hnet, decide_eq_true hstate]; rfl)

theorem updateStageTimeout_fails (hsession : s.update.session ≠ none) (hstate : s.rd F.updStat_state = Us.staged) :
    answers .updateStageTimeout s (fun t => t.update.session = none ∧ t.lockHolder = none ∧
      t.rd F.updStat_state = Us.failed ∧ t.rd F.updLastErr_status = St.timeout) := by
  refine ⟨s.sessionFails St.timeout 0 0 0, ?_, State.sessionFails_ends (by decide) s⟩
  rw [exec_updateStageTimeout, execUpdateStageTimeout]
  exact if_pos (by rw [Option.isSome_iff_ne_none.2 hsession, hstate]; rfl)

/-! ### The parts of a manifest (R520) -/

theorem partOfType_index {m : Bytes} {p : PartEntry} {k : Nat} (h : partOfType m k = some (i, p)) :
    i < 6 ∧ p = partOf m i := by
  have hmem : (i, p) ∈ indexed (partsOf m) := List.mem_of_find?_eq_some h
  obtain ⟨j, hj, heq⟩ := List.getElem_of_mem hmem
  simp only [indexed, partsOf, List.length_zip, List.length_range, List.length_map, Nat.min_self] at hj
  simp only [indexed, partsOf, List.getElem_zip, List.getElem_range, List.getElem_map, Prod.mk.injEq] at heq
  obtain ⟨rfl, rfl⟩ := heq
  exact ⟨hj, rfl⟩

/-- Where the parts of a good table lie (R520). -/
theorem partTableOk_placed {m : Bytes} (h : partTableOk m n = true) (hi : i < 6) :
    4096 ≤ (partOf m i).off ∧ (partOf m i).off + (partOf m i).len ≤ bankBytes := by
  simp only [partTableOk, Bool.and_eq_true, List.all_eq_true] at h
  obtain ⟨⟨-, hplaced⟩, -⟩ := h
  have hpart := hplaced (partOf m i) (List.mem_map.2 ⟨i, List.mem_range.2 hi, rfl⟩)
  simp only [decide_eq_true_eq] at hpart
  obtain ⟨⟨⟨⟨-, hlo⟩, -⟩, hhi⟩, -⟩ := hpart
  exact ⟨hlo, hhi⟩

theorem partTableOk_apart {m : Bytes} {j : Nat} (h : partTableOk m n = true) (hi : i < 6) (hj : j < i) :
    (partOf m i).off + (partOf m i).len ≤ (partOf m j).off ∨ (partOf m j).off + (partOf m j).len ≤ (partOf m i).off := by
  simp only [partTableOk, Bool.and_eq_true, List.all_eq_true, List.mem_range, Bool.or_eq_true, decide_eq_true_eq] at h
  exact h.2 i hi j hj

theorem State.length_flashBytes (s : State) (a n : Nat) : (s.flashBytes a n).length = n := by
  induction n generalizing a with
  | zero => rfl
  | succ n ih => rw [State.flashBytes, List.length_cons, ih]

/-- The bytes of a part offered in HBM are as many as its LEN. -/
theorem State.length_partBytes (hlocal : x.stream = none) (h : s.partBytes x i = some b) :
    b.length = (partOf x.got i).len := by
  unfold State.partBytes at h
  dsimp only at h
  split at h
  · obtain ⟨_, _, rfl⟩ := Option.map_eq_some_iff.1 h
    exact State.length_flashBytes ..
  · rw [hlocal] at h
    unfold State.readMem at h
    simp only [Option.isSome_none, Bool.false_eq_true, if_false] at h
    split at h
    · cases h
      exact State.length_bytes ..
    · cases h

/-! ### A bank programmed (R524) -/

/-- Strings written to the flash, from a base. -/
def State.flashAll (s : State) (base : Nat) (l : List (Nat × Bytes)) : State :=
  l.foldl (fun s p => s.setFlashBytes (base + p.1) p.2) s

theorem State.flashAll_cons (s : State) (base : Nat) (p : Nat × Bytes) (l : List (Nat × Bytes)) :
    s.flashAll base (p :: l) = (s.setFlashBytes (base + p.1) p.2).flashAll base l := rfl

theorem State.flashAll_out {l : List (Nat × Bytes)} {base : Nat}
    (h : ∀ p ∈ l, a + n ≤ base + p.1 ∨ base + p.1 + p.2.length ≤ a) (s : State) :
    (s.flashAll base l).flashBytes a n = s.flashBytes a n := by
  induction l generalizing s with
  | nil => rfl
  | cons p l ih =>
    rw [State.flashAll_cons]
    exact (ih (fun q hq => h q (.tail _ hq)) _).trans (State.flashBytes_setFlashBytes_out _ _ _ (h p (.head _)))

theorem State.flashAll_in {l : List (Nat × Bytes)} {base : Nat} {p : Nat × Bytes} (hp : p ∈ l)
    (h : l.Pairwise (fun p q => p.1 + p.2.length ≤ q.1 ∨ q.1 + q.2.length ≤ p.1)) (s : State) :
    (s.flashAll base l).flashBytes (base + p.1) p.2.length = p.2 := by
  induction l generalizing s with
  | nil => cases hp
  | cons q l ih =>
    obtain ⟨hq, hl⟩ := List.pairwise_cons.1 h
    rw [State.flashAll_cons]
    rcases List.mem_cons.1 hp with rfl | hp
    · rw [State.flashAll_out, State.flashBytes_setFlashBytes _ _ _ rfl]
      intro r hr
      have := hq r hr
      omega
    · exact ih hp hl _

/-- The parts as they are written: where each lies, and its bytes. -/
def State.partStrings (s : State) (x : Session) : List (Nat × Bytes) :=
  (List.range 6).map (fun i => ((partOf x.got i).off, (s.partBytes x i).getD []))

theorem State.program_eq (s : State) (x : Session) (b : Nat) : s.program x b =
    (((s.eraseFlash (bankBase b) (bankBase b + bankBytes)).setFlashBytes (bankBase b) (x.got.take manifestLen)).flashAll
      (bankBase b) (s.partStrings x)) := rfl

theorem State.manifest_program (htable : partTableOk x.got n = true) (hlen : x.got.length = manifestLen) (k : Nat) :
    (s.program x k).manifest k = x.got := by
  rw [State.manifest, State.program_eq, State.flashAll_out, List.take_of_length_le (Nat.le_of_eq hlen)]
  · exact State.flashBytes_setFlashBytes _ _ _ hlen
  · intro p hp
    obtain ⟨j, hj, rfl⟩ := List.mem_map.1 hp
    have hlo := (partTableOk_placed htable (List.mem_range.1 hj)).1
    exact .inl (by simp only [manifestLen]; omega)

section
/-! A package in HBM whose parts have all been read. -/

variable (hlocal : x.stream = none) (htable : partTableOk x.got n = true)
  (hread : ∀ j < 6, ∃ b, s.partBytes x j = some b)
include hlocal htable hread

theorem State.partStrings_apart :
    (s.partStrings x).Pairwise (fun p q => p.1 + p.2.length ≤ q.1 ∨ q.1 + q.2.length ≤ p.1) := by
  unfold State.partStrings
  refine List.pairwise_map.2 ((List.pairwise_lt_range (n := 6)).imp_of_mem fun {j i} hj hi hji => ?_)
  obtain ⟨b, hb⟩ := hread j (List.mem_range.1 hj)
  obtain ⟨d, hd⟩ := hread i (List.mem_range.1 hi)
  rw [hb, hd, Option.getD_some, Option.getD_some, State.length_partBytes hlocal hb, State.length_partBytes hlocal hd]
  exact (partTableOk_apart htable (List.mem_range.1 hi) hji).symm

theorem State.part_program (hi : i < 6) (hb : s.partBytes x i = some b) (k : Nat) :
    (s.program x k).flashBytes (bankBase k + (partOf x.got i).off) (partOf x.got i).len = b := by
  have hmem : ((partOf x.got i).off, b) ∈ s.partStrings x :=
    List.mem_map.2 ⟨i, List.mem_range.2 hi, by rw [hb, Option.getD_some]⟩
  rw [State.program_eq, ← State.length_partBytes hlocal hb]
  exact State.flashAll_in hmem (State.partStrings_apart hlocal htable hread) _

theorem State.bankPartOk_program (hlen : x.got.length = manifestLen) (hi : i < 6) (hb : s.partBytes x i = some b)
    (hdigest : sha384 b = (partOf x.got i).digest) (k : Nat) : (s.program x k).bankPartOk k i = true := by
  unfold State.bankPartOk
  rw [State.manifest_program htable hlen]
  dsimp only
  rw [State.part_program hlocal htable hread hi hb, hdigest, beq_self_eq_true]

theorem State.bankImage_program (hlen : x.got.length = manifestLen) {p : PartEntry} (htype : partOfType x.got 6 = some (i, p))
    (hb : s.partBytes x i = some b) (k : Nat) : (s.program x k).bankImage k = b := by
  obtain ⟨hi, rfl⟩ := partOfType_index htype
  unfold State.bankImage
  rw [State.manifest_program htable hlen, htype]
  exact State.part_program hlocal htable hread hi hb k

end

/-- A write of the flash is all that programming is. -/
theorem State.flashAll_eq (s : State) (base : Nat) (l : List (Nat × Bytes)) : ∃ f, s.flashAll base l = { s with flash := f } := by
  induction l generalizing s with
  | nil => exact ⟨s.flash, rfl⟩
  | cons p l ih =>
    obtain ⟨f, hf⟩ := ih (s.setFlashBytes (base + p.1) p.2)
    rw [State.flashAll_cons, hf, State.setFlashBytes_eq]
    exact ⟨f, rfl⟩

theorem State.checkBytes_program (s : State) (x : Session) (k : Nat) (b : Bytes) :
    (s.program x k).checkBytes b = s.checkBytes b := by
  obtain ⟨f, hf⟩ := State.flashAll_eq (s := (s.eraseFlash (bankBase k) (bankBase k + bankBytes)).setFlashBytes (bankBase k)
    (x.got.take manifestLen)) (bankBase k) (s.partStrings x)
  rw [State.program_eq, hf, State.setFlashBytes_eq]
  rfl

/-! ### The staged set (R524) -/

theorem State.flashByte_eraseFlash_out {lo hi : Nat} (h : hi ≤ a) : (s.eraseFlash lo hi).flashByte a = s.flashByte a := by
  refine (Sparse.get_filter_key flashErased (fun k => decide (k < lo) || decide (hi ≤ k)) s.flash a).trans (if_pos ?_)
  rw [decide_eq_true h, Bool.or_true]

/-- Both directory copies lie below the banks (R516, R517). -/
theorem State.flashBytes_eraseSpareDirectory (s : State) (k o n : Nat) :
    s.eraseSpareDirectory.flashBytes (bankBase k + o) n = s.flashBytes (bankBase k + o) n := by
  refine State.flashBytes_congr fun a ha _ => State.flashByte_eraseFlash_out ?_
  simp only [bankBase, dirBase] at ha ⊢
  omega

theorem State.bankImage_eraseSpareDirectory (s : State) (k : Nat) : s.eraseSpareDirectory.bankImage k = s.bankImage k := by
  have hmanifest : s.eraseSpareDirectory.manifest k = s.manifest k := by
    have hbytes := s.flashBytes_eraseSpareDirectory k 0 manifestLen
    rwa [Nat.add_zero] at hbytes
  unfold State.bankImage
  rw [hmanifest]
  split
  · exact s.flashBytes_eraseSpareDirectory k _ _
  · rfl

/-- A package STAGED: its session, and what it shows. -/
def State.stagedShown (s : State) (x : Session) : State :=
  let t := s.eraseSpareDirectory.withSession (some { x with got := x.got.take manifestLen })
  (((t.wr F.updProgress_permille 0 1000).wr F.updProgress_part 0 5).wr F.updStagedVersion_value 0 (leAt x.got 8 4)).updState
    Us.staged

theorem leNat_lt : ∀ l : Bytes, leNat l < 256 ^ l.length
  | [] => Nat.one_pos
  | b :: l => by
    have hl := leNat_lt l
    have hb := b.isLt
    rw [leNat, List.length_cons, Nat.pow_succ]
    omega

theorem leAt_lt (b : Bytes) (off len : Nat) : leAt b off len < 256 ^ len :=
  Nat.lt_of_lt_of_le (leNat_lt _) (Nat.pow_le_pow_right (by decide) (List.length_take_le ..))

theorem State.stagedShown_shows (s : State) (x : Session) : let t := s.stagedShown x
    t.rd F.updStat_state = Us.staged ∧ t.rd F.updProgress_permille = 1000 ∧
    t.rd F.updStagedVersion_value = leAt x.got 8 4 := by
  refine ⟨State.rd_wr_fits (by decide) (by decide), ?_, ?_⟩
  · unfold State.stagedShown State.updState
    simp (disch := decide) only [State.rd_wr_beside]
    exact State.rd_wr_fits (by decide) (by decide)
  · unfold State.stagedShown State.updState
    simp (disch := decide) only [State.rd_wr_beside]
    exact State.rd_wr_fits (by decide) (leAt_lt ..)

theorem ok_of_toOption {ε α : Type} {r : Except ε α} {y : α} (h : r.toOption = some y) : r = .ok y := by
  cases r with
  | error e => cases h
  | ok z => exact congrArg Except.ok (Option.some.inj h)

theorem updateStaged_stages {p : PartEntry} {img : Image} (hsession : s.update.session = some x)
    (hstate : s.rd F.updStat_state = Us.staging) (hlocal : x.stream = none) (hlen : x.got.length = manifestLen)
    (htable : partTableOk x.got n = true)
    (hdigests : (List.range 6).all (fun j => ((s.partBytes x j).map sha384) == some (partOf x.got j).digest) = true)
    (htype : partOfType x.got 6 = some (i, p)) (hb : s.partBytes x i = some b)
    (hcheck : (s.checkBytes b).toOption = some img) : answers (.updateStaged none none) s (fun t =>
      t.rd F.updStat_state = Us.staged ∧ t.rd F.updProgress_permille = 1000 ∧
      t.rd F.updStagedVersion_value = leAt x.got 8 4 ∧ t.bankImage (1 - s.activeBank) = b) := by
  have hparts : ∀ j < 6, ∃ b, s.partBytes x j = some b ∧ sha384 b = (partOf x.got j).digest := fun j hj =>
    Option.map_eq_some_iff.1 (eq_of_beq (List.all_eq_true.1 hdigests j (List.mem_range.2 hj)))
  have hread : ∀ j < 6, ∃ b, s.partBytes x j = some b := fun j hj => (hparts j hj).imp fun _ h => h.1
  obtain ⟨k, hk⟩ : ∃ k, k = 1 - s.activeBank := ⟨_, rfl⟩
  obtain ⟨u, hu⟩ : ∃ u, u = s.program x k := ⟨_, rfl⟩
  have himage : u.bankImage k = b := hu ▸ State.bankImage_program hlocal htable hread hlen htype hb k
  have hok : u.checkBytes (u.bankImage k) = .ok img := by
    rw [himage, hu, State.checkBytes_program]
    exact ok_of_toOption hcheck
  have hunread : (List.range 6).find? (fun j => (s.partBytes x j).isNone) = none := by
    refine List.find?_eq_none.2 fun j hj => ?_
    obtain ⟨d, hd⟩ := hread j (List.mem_range.1 hj)
    rw [hd]
    exact Bool.false_ne_true
  have hmisread : (List.range 6).find? (fun j => (none : Option (Fin 6)).any (·.val == j) || !u.bankPartOk k j) = none := by
    refine List.find?_eq_none.2 fun j hj => ?_
    obtain ⟨d, hd, hdigest⟩ := hparts j (List.mem_range.1 hj)
    rw [hu, State.bankPartOk_program hlocal htable hread hlen (List.mem_range.1 hj) hd hdigest]
    exact Bool.false_ne_true
  have hexec : exec (.updateStaged none none) s = .next (u.stagedShown x) := by
    rw [exec_updateStaged, execUpdateStaged]
    simp only [hsession, hlocal, hstate, hunread, ← hk, ← hu, hmisread, hok, Option.map_none, Option.filter_none,
      State.stagedShown, State.withSession]
    rfl
  obtain ⟨hstaged, hdone, hversion⟩ := u.stagedShown_shows x
  refine ⟨_, hexec, hstaged, hdone, hversion, ?_⟩
  rw [← hk, State.bankImage_eq (t := u.stagedShown x) (s := u.eraseSpareDirectory) rfl, State.bankImage_eraseSpareDirectory, himage]

/-- Settles O42: a session by its commands, its package staged and its timeouts. -/
theorem updateSessions : Obligations.UpdateSessions :=
  ⟨fun _ _ addr len => updateBegin_opens addr len, fun _ _ => updateStatus_answers,
    fun _ _ o d _ => updateData_takes o d, fun _ _ _ => updateAbort_frees,
    fun _ _ _ _ _ _ _ => updateStaged_stages, fun _ => updateDataTimeout_fails, fun _ => updateStageTimeout_fails⟩

end Sys2Proof.Machine
end

section
/-! SUPPORT. Keys, fuses, attestation, network management and the SMBus target (R526, R534 to R542): one lemma per clause
of O43. -/

namespace Sys2Proof.Machine

variable {s t : State} {c : CmdRef} {b : Bytes} {k : Nat} {p : Fin 2}

/-! ### Key slots (R536 to R538, R542) -/

theorem Shows.showSlot {s0 : State} (h : Shows s0 s) (i : Nat) (restored : Bool) : Shows s0 (s.showSlot i restored) :=
  ((h.wr _ _ _).wr _ _ _).wr _ _ _

/-- A slot set in the chip and in the flash (R537, R538). -/
def State.keyStored (s : State) (i : Nat) (k : KeySlot) : State :=
  (((s.setKey i k).writeKeyStore).showSlot i false).count (F.secCnt_count 2) 0 1

theorem State.keys_keyStored (s : State) (i : Nat) (k : KeySlot) :
    (s.keyStored i k).keys = Sparse.set (fun _ => {}) s.keys i k := by
  have hshown : Shows (s.setKey i k).writeKeyStore (s.keyStored i k) := ((Shows.refl _).showSlot i false).count _ _ _
  exact hshown.keys

theorem State.key_keyStored (s : State) (i : Nat) (k : KeySlot) : (s.keyStored i k).key i = k := by
  rw [State.key, State.keys_keyStored]
  exact Sparse.get_set_self _ _ _ _

theorem State.host_keyStored (s : State) (i : Nat) (k : KeySlot) : (s.keyStored i k).host = s.host := by
  have hshown : Shows (s.setKey i k).writeKeyStore (s.keyStored i k) := ((Shows.refl _).showSlot i false).count _ _ _
  exact hshown.host

theorem keyLoad_sets {a : BitVec 64} {key : KeySlot} (hs : s.serves c = true) (hmode : s.cmMode = true)
    (hread : (s.readForCommand a.toNat 312).toOption = some b) (hgood : s.blobFault b = none)
    (hkey : s.blobKey b = some key) : answers (.keyLoad c a) s (fun t =>
      t.key (leAt b 5 1) = key ∧ t.reported c 0x68 St.done = true) := by
  obtain ⟨-, hlate, -⟩ := State.serves_iff.1 hs
  have hexec : exec (.keyLoad c a) s =
      .next ((s.keyStored (leAt b 5 1) key).report c 0x68 St.done 0 (leAt b 5 1)) := by
    rw [exec_keyLoad, execKeyLoad, State.command_of_serves hs]
    simp only [hmode, ok_of_toOption hread, hgood, hkey]
    rfl
  refine ⟨_, hexec, ?_, State.reported_report (by rwa [State.host_keyStored])⟩
  exact (State.report_view (fun t => t.key (leAt b 5 1)) fun _ _ _ _ _ => rfl).trans (s.key_keyStored _ key)

theorem keyStatus_answers (hs : s.serves c = true) (hmode : s.mode ≠ Md.park) : answers (.keyStatus c) s (fun t =>
    t.reported c 0x6A St.done = true ∧ t.keys = s.keys) := by
  obtain ⟨-, hlate, -⟩ := State.serves_iff.1 hs
  have hexec : exec (.keyStatus c) s = .next (s.report c 0x6A St.done 0 s.slotKinds) := by
    rw [exec_keyStatus, execKeyStatus, State.notPark_of_serves hs hmode]
  exact ⟨_, hexec, State.reported_report hlate, State.report_view State.keys fun _ _ _ _ _ => rfl⟩

theorem keyslotRestore_restores {i : Nat} {copy : KeyCopy} (hmode : s.mode ≠ Md.testHold) (hcopy : s.keyCopy = some (i, copy)) :
    answers (.keyslotRestore []) s (fun t => t.keys = copy.slots ∧ t.flag F.updStat_keystoreErr = false) := by
  let u := (s.putKeys (copy.slots.filter (fun e => !([] : List Nat).contains e.1))).copyLayoutKeys
  let w := forN 16 (fun i s => s.showSlot i ((s.key i).kind != 0)) (u.count (F.secCnt_count 3) 0 0)
  have hw : Shows u (w.down F.updStat_keystoreErr) :=
    (((Shows.refl u).count _ _ _).forN fun _ _ h => h.showSlot _ _).down _ _
  have hexec : exec (.keyslotRestore []) s = .next (w.down F.updStat_keystoreErr) := by
    rw [exec_keyslotRestore, execKeyslotRestore]
    refine congrArg Host.Outcome.next ((if_neg (by simpa using hmode)).trans ?_)
    rw [State.restoreKeys, hcopy]
    rfl
  refine ⟨_, hexec, hw.keys.trans ?_, State.flag_down_self (by decide)⟩
  exact List.filter_eq_self.2 fun _ _ => rfl

/-! ### A statement and a fuse (R539, R540) -/

/-- Bytes stored over units none of which is in error. -/
def State.wholeStored (s : State) (a : Nat) (bs : Bytes) : State := (s.markedGood a bs.length).setBytes a bs

theorem State.host_wholeStored (s : State) (a : Nat) (bs : Bytes) : (s.wholeStored a bs).host = s.host :=
  State.stored_view (v := State.host) (fun _ _ => rfl) (fun _ _ => rfl) s a bs

theorem State.bytes_wholeStored (s : State) (a : Nat) (bs : Bytes) : (s.wholeStored a bs).bytes a bs.length = bs :=
  State.bytes_setBytes _ _ _ rfl

theorem attest_writes {nonce output : BitVec 64} {which : BitVec 8} (hs : s.serves c = true) (hmode : s.mode ≠ Md.park)
    (hwhich : which.toNat ≤ 1) (hroom : output.toNat + 400 ≤ Config.hbmBytes)
    (hread : (s.readForCommand nonce.toNat 32).toOption = some b) (hgood : s.noneBad = true) :
    answers (.attest c nonce output which) s (fun t =>
      t.bytes output.toNat (s.attestation b which.toNat).length = s.attestation b which.toNat ∧
      t.reported c 0x70 St.done = true) := by
  obtain ⟨-, hlate, -⟩ := State.serves_iff.1 hs
  let u := s.wholeStored output.toNat (s.attestation b which.toNat)
  have hexec : exec (.attest c nonce output which) s = .next (u.finish c 0x70 St.done) := by
    rw [exec_attest, execAttest, State.notPark_of_serves hs hmode]
    simp only [Nat.not_lt.2 hwhich, Nat.not_lt.2 hroom, ok_of_toOption hread, State.writeMem_of_noneBad hgood, decide_false,
      Bool.or_self, Bool.false_eq_true, if_false, if_true]
    rfl
  have hhbm : (u.finish c 0x70 St.done).hbm = u.hbm := State.report_view State.hbm fun _ _ _ _ _ => rfl
  have hhost : u.host = s.host := s.host_wholeStored _ _
  refine ⟨_, hexec, ?_, State.reported_finish (by rw [hhost]; exact hlate)⟩
  exact (State.bytes_of_hbm hhbm _ _).trans (State.bytes_wholeStored ..)

theorem State.showFuses_shows (s : State) (idGood trimGood : Bool) : Shows s (s.showFuses idGood trimGood) := by
  unfold State.showFuses
  dsimp only
  repeat' apply Shows.wr
  exact .refl s

theorem State.flag_showFuses (s : State) (idGood trimGood : Bool) :
    (s.showFuses idGood trimGood).flag F.secFuse_provisionLock = s.fuses.provisionLock := by
  unfold State.showFuses
  dsimp only
  rw [State.flag, State.rd_wr_beside (by decide)]
  refine (State.flag_wr_b2n _ (by decide) rfl).trans ?_
  split <;> rfl

theorem fuseSet_locks {i arg slot : BitVec 8} {a : BitVec 64} (hs : s.serves c = true) (hmode : s.mode = Md.maintain)
    (hi : i.toNat = 3) (hread : (s.readForCommand a.toNat 96).toOption = some b) (hkey : s.keyOf slot.toNat 3 = some k)
    (hverify : ecdsaVerify k (sha384 (ofNats [0x46, 0x55, 0x53, 0x45] ++ leBytes 4 s.fuses.serial ++
      leBytes 1 3 ++ leBytes 1 arg.toNat ++ zeros 2)) (beAt b 0 48) (beAt b 48 48) = true) :
    answers (.fuseSet c i arg slot a) s (fun t => t.fuses.provisionLock = true ∧
      t.fuses.signedImages = s.fuses.signedImages ∧ t.flag F.secFuse_provisionLock = true ∧
      t.reported c 0x71 St.done = true) := by
  obtain ⟨-, hlate, -⟩ := State.serves_iff.1 hs
  have hheld : (List.range 16).any (fun j => (s.key j).kind == 3) = true := by
    unfold State.keyOf at hkey
    split at hkey
    · next h =>
      obtain ⟨hlt, hkind⟩ := Bool.and_eq_true_iff.1 h
      exact List.any_eq_true.2 ⟨slot.toNat, List.mem_range.2 (of_decide_eq_true hlt), hkind⟩
    · cases hkey
  let u := s.blow 3 arg.toNat
  let w := u.showFuses (!u.flag F.idFuse_fuseErr) (!u.flag F.idFuse_trimErr)
  have hexec : exec (.fuseSet c i arg slot a) s = .next (w.finish c 0x71 St.done) := by
    rw [exec_fuseSet, execFuseSet, State.command_of_serves hs]
    simp only [hmode, hi, ok_of_toOption hread, hkey, hverify, hheld]
    rfl
  have hw : Shows u w := u.showFuses_shows _ _
  have hfuses : (w.finish c 0x71 St.done).fuses = u.fuses :=
    (State.report_view State.fuses fun _ _ _ _ _ => rfl).trans (hw.view State.fuses fun _ _ _ _ => rfl)
  have hlock : u.fuses.provisionLock = true := Bool.or_true _
  have hflag : (w.finish c 0x71 St.done).flag F.secFuse_provisionLock = w.flag F.secFuse_provisionLock :=
    congrArg (· != 0) (State.rd_report (by decide))
  refine ⟨_, hexec, ?_, ?_, ?_, State.reported_finish (by rwa [hw.host])⟩
  · rw [hfuses, hlock]
  · rw [hfuses]
    exact Bool.or_false _
  · rw [hflag, State.flag_showFuses, hlock]

/-! ### Network management (R526) -/

theorem State.slot_lt_of_keyOf {i kind : Nat} (h : s.keyOf i kind ≠ none) : i < 16 := by
  unfold State.keyOf at h
  split at h
  · next hslot => exact of_decide_eq_true (Bool.and_elim_left hslot)
  · exact absurd rfl h

/-- A stream's fresh EPOCH. -/
def State.epochDrawn (s : State) (m : Nat) : State := s.free.2.setMgmt m { s.free.2.mgmt m with epoch := s.free.1 % 2 ^ 64 }

/-- A stream open under a slot (R526). -/
def State.streamOpened (s : State) (m slot : Nat) : State :=
  ((s.epochDrawn m).up F.secMgmt_open m).wr F.secMgmt_mgmtSlot m slot

theorem State.streamOpened_shows (s : State) (m : Fin 8) {slot : Nat} (hslot : slot < 16) :
    (s.streamOpened m slot).flag F.secMgmt_open m = true ∧ (s.streamOpened m slot).rd F.secMgmt_mgmtSlot m = slot := by
  refine ⟨?_, State.rd_wr_fits (by decide) hslot⟩
  exact (State.flag_congr (State.rd_wr_beside_fin (by decide))).trans (State.flag_up_self (by decide) (by decide))

theorem State.timedOut_streamOpened (s : State) (m slot : Nat) :
    (s.streamOpened m slot).host.timedOut = s.host.timedOut := rfl

theorem mgmtHello_opens {m : Fin 8} {slot : BitVec 8} (hs : s.serves c = true) (hmode : s.mode ≠ Md.park)
    (hstream : c.stream = some m) (hkey : s.keyOf slot.toNat 4 ≠ none) : answers (.mgmtHello c slot) s (fun t =>
      t.flag F.secMgmt_open m = true ∧ t.rd F.secMgmt_mgmtSlot m = slot.toNat ∧ t.reported c 0x72 St.done = true) := by
  obtain ⟨-, hlate, -⟩ := State.serves_iff.1 hs
  have hheld : (s.keyOf slot.toNat 4).isNone = false := by rwa [Option.isNone_eq_false_iff, Option.isSome_iff_ne_none]
  have hexec : exec (.mgmtHello c slot) s =
      .next ((s.streamOpened m slot.toNat).report c 0x72 St.done 0 (s.free.1 % 2 ^ 64)) := by
    rw [exec_mgmtHello, execMgmtHello, State.notPark_of_serves hs hmode]
    simp only [hstream, hheld]
    rfl
  have hkept : ∀ m : Fin 8, F.secMgmt_open.addr m ∉ reportRegs := by decide
  obtain ⟨hopen, hslot⟩ := s.streamOpened_shows m (State.slot_lt_of_keyOf hkey)
  refine ⟨_, hexec, ?_, (State.rd_report (f := F.secMgmt_mgmtSlot) (hkept m)).trans hslot, State.reported_report ?_⟩
  · exact (State.flag_congr (State.rd_report (hkept m))).trans hopen
  · rw [State.timedOut_streamOpened]
    exact hlate

/-! ### The SMBus target (R534, R535) -/

theorem smbusStatusRead_answers (htarget : s.smbusTarget p ≠ none) (hdriven : s.chief.tristate = false) :
    answers (.smbusStatusRead p) s (fun t => t.out = s.out ++ [.smbus (s.wordsOf [F.chiefMode_mode.addr 0,
      F.chiefBoot_bootSel.addr 0, F.chiefResetCause_last.addr 0, F.updStat_state.addr 0, F.updLastErr_status.addr 0,
      F.testTj_tjMax.addr 0])]) := by
  obtain ⟨r, hr⟩ := Option.ne_none_iff_exists'.1 htarget
  refine ⟨_, ?_, State.emit_out_driven hdriven⟩
  rw [exec_smbusStatusRead, execSmbusStatusRead, hr]

theorem smbusPowerRead_answers (htarget : s.smbusTarget p = some false) (hdriven : s.chief.tristate = false) :
    answers (.smbusPowerRead p) s (fun t => t.out = s.out ++ [.smbus (s.wordsOf [F.chiefPwr_vinMv.addr 0,
      F.chiefPwrW_power.addr 0, F.testTj_tjMax.addr 0])]) := by
  refine ⟨_, ?_, State.emit_out_driven hdriven⟩
  rw [exec_smbusPowerRead, execSmbusPowerRead, htarget]

theorem smbusReset_orders (htarget : s.smbusTarget p = some true) :
    answers (.smbusReset p) s (fun t => t.chief.resetOrdered = true) := by
  refine ⟨s.orderReset, ?_, rfl⟩
  rw [exec_smbusReset, execSmbusReset, htarget]

theorem smbusReset_refuses (htarget : s.smbusTarget p = some false) (hoption : bit (s.pinFn 3 p).opts 0 = false)
    (hdriven : s.chief.tristate = false) : answers (.smbusReset p) s (fun t => t.out = s.out ++ [.smbus []] ∧
      t.chief.resetOrdered = s.chief.resetOrdered) := by
  refine ⟨s.emit (.smbus []), ?_, State.emit_out_driven hdriven, ?_⟩
  · rw [exec_smbusReset, execSmbusReset, htarget]
    simp only [hoption, Bool.false_eq_true, if_false]
  · exact ((Shows.refl s).emit _).view (fun t => t.chief.resetOrdered) fun _ _ _ _ => rfl

/-- Settles O43: the key slots, the statement, the fuse, the stream, the secure column and the SMBus target. -/
theorem keysAndSecurity : Obligations.KeysAndSecurity :=
  ⟨fun _ _ _ _ _ => keyLoad_sets, fun _ _ => keyStatus_answers, fun _ _ _ _ _ _ => attest_writes,
    fun _ _ _ _ _ _ _ _ => fuseSet_locks, fun _ _ _ _ => mgmtHello_opens, fun _ _ _ _ _ => cairnSecure_writes,
    fun _ _ _ => keyslotRestore_restores, fun _ _ => smbusStatusRead_answers, fun _ _ => smbusPowerRead_answers,
    fun _ _ => smbusReset_orders, fun _ _ => smbusReset_refuses⟩

end Sys2Proof.Machine
end
